-- ==== Sys2Proof/Word.lean ====
section
/-! DEFINITION. Sys2Proof/Word.lean: the word types and the plainest arithmetic on them. -/

set_option linter.all false
set_option Elab.async false

namespace Sys2Proof

/-- One byte. -/
abbrev Byte := BitVec 8
/-- A 32-bit register or counter. -/
abbrev W32 := BitVec 32
/-- A 64-bit register, general register or word of the program store. -/
abbrev W64 := BitVec 64

/-- Bit `i` of a natural number. -/
def bitOf (n i : Nat) : Bool := n.testBit i

/-- The field of `w` bits whose lowest bit is `lo`. -/
def field (n lo w : Nat) : Nat := (n >>> lo) % 2 ^ w

/-- The natural number of a bit. -/
def bnat (b : Bool) : Nat := if b then 1 else 0

/-- The integer that the low `w` bits of `n` hold in two's complement. -/
def toSigned (w n : Nat) : Int :=
  let m := n % 2 ^ w
  if m < 2 ^ (w - 1) then (m : Int) else (m : Int) - (2 ^ w : Nat)

/-- The low `w` bits of an integer in two's complement. -/
def ofSigned (w : Nat) (i : Int) : Nat := (i % ((2 ^ w : Nat) : Int)).toNat

/-- An integer clamped to the span of a `w`-bit signed field. -/
def clampS (w : Nat) (i : Int) : Int :=
  let hi : Int := ((2 ^ (w - 1) : Nat) : Int) - 1
  max (-hi - 1) (min hi i)

/-- An integer clamped to `lo` and `hi`. -/
def clampI (lo hi i : Int) : Int := max lo (min hi i)

/-- The quotient of `n` by a positive `d`, rounded to the nearest integer, ties to even (R40). -/
def roundDiv (n : Int) (d : Nat) : Int :=
  let q := n / (d : Int)
  let r := 2 * (n % (d : Int))
  if r < d then q else if (d : Int) < r then q + 1 else if q % 2 = 0 then q else q + 1

/-- The quotient of `n` by `d`, rounded up. -/
def ceilDiv (n d : Nat) : Nat := (n + d - 1) / d

/-- The magnitude of an integer. -/
def mag (i : Int) : Nat := i.natAbs

end Sys2Proof
end

