-- ==== Sys2Proof/Config.lean ====
section
/-! DEFINITION. Sys2Proof/Config.lean: what an implementation fixes: the offsets, writable bits and reset values
of the read-write registers, the offsets of the counters (spec/17_register_index.md, R403 to R409, and the register
tables of the chapters), the port counts of the roles (R1), and the values that the spec leaves open. -/
namespace Sys2Proof.Config

/-- A register with read-write fields: window offset, width in bytes, the bits that a write changes, and the value
at reset (R404). -/
structure Reg where
  off : Nat
  bytes : Nat
  mask : Nat
  reset : Nat
  deriving DecidableEq, Repr

def GC_IRQ_EN : Reg := ⟨0x000014, 4, 0xffffffff, 0x0⟩
def GC_IRQ_SB_EN : Reg := ⟨0x000018, 4, 0xffffffff, 0x0⟩
def TD_CTL : Reg := ⟨0x001040, 4, 0xf1, 0xe0⟩
def TD_SLEW : Reg := ⟨0x001044, 4, 0x7ff, 0x14⟩
def TD_SERVO : Reg := ⟨0x001048, 4, 0xff00, 0x7300⟩
def TD_THR : Reg := ⟨0x00104C, 4, 0xffffffff, 0x1403e8⟩
def TD_ALARM : Reg := ⟨0x001050, 4, 0xffffffff, 0x3e8⟩
def TD_PLAN_MAX : Reg := ⟨0x001054, 4, 0xffffffff, 0x3e8⟩
def TD_UTC : Reg := ⟨0x001200, 4, 0x7ffff, 0x0⟩
def TD_CLOCK_ID : Reg := ⟨0x001208, 8, 0xffffffffffffffff, 0x0⟩
def TD_PTP_DOM : Reg := ⟨0x001210, 4, 0xffff, 0x100⟩
def TD_ROOT_CFG : Reg := ⟨0x001214, 4, 0x1ff, 0x20⟩
def RS_CTL : Reg := ⟨0x002000, 4, 0x7, 0x5⟩
def RS_QUAL : Reg := ⟨0x002004, 4, 0xffffffff, 0xa2e03e8⟩
def RS_WIN : Reg := ⟨0x002008, 4, 0xffffffff, 0x12c2710⟩
def RS_OPEN_TMO : Reg := ⟨0x00200C, 4, 0xffffffff, 0x200000⟩
def RS_HOP_TE : Reg := ⟨0x002010, 4, 0xffffffff, 0x78⟩
def RS_ROOT_TE : Reg := ⟨0x002014, 4, 0xffffffff, 0x186a0⟩
def RS_HO_K : Reg := ⟨0x002018, 4, 0xffffffff, 0x96000a⟩
def RS_HO_K2 : Reg := ⟨0x00201C, 4, 0xffffffff, 0x0⟩
def RS_HO_KT : Reg := ⟨0x002020, 4, 0xffff, 0x14⟩
def RS_HO_CFG : Reg := ⟨0x002024, 4, 0xfffffff0, 0x1c202460⟩
def RS_TCOMP1 : Reg := ⟨0x002028, 4, 0xffffffff, 0x0⟩
def RS_TCOMP2 : Reg := ⟨0x00202C, 4, 0xffffffff, 0x0⟩
def RS_TQ : Reg := ⟨0x002030, 4, 0xffff, 0x0⟩
def RS_AGE : Reg := ⟨0x002034, 4, 0xffffffff, 0x0⟩
def RS_CANDn_CFG (n : Nat) : Reg := ⟨0x2400 + n * 0x10 + 0x0, 4, 0xffdf, if n ≤ 5 then 0x2008 else 0x2018⟩
def RS_CANDn_DELAY (n : Nat) : Reg := ⟨0x2400 + n * 0x10 + 0x8, 4, 0xffffffff, 0x0⟩
def CG_CTL : Reg := ⟨0x003000, 4, 0x3, 0x3⟩
def CG_OSC_CFG : Reg := ⟨0x003008, 4, 0xffff, 0x400⟩
def CG_GATE_CFG : Reg := ⟨0x003018, 4, 0x3ff, 0x40⟩
def CG_GATE_FORCE : Reg := ⟨0x003020, 4, 0xfff, 0x0⟩
def CG_CLKOUT : Reg := ⟨0x003030, 4, 0x9f3fffff, 0x0⟩
def IM_CTL : Reg := ⟨0x004000, 4, 0x30, 0x0⟩
def IM_START_CFG : Reg := ⟨0x004008, 4, 0x3ff, 0x0⟩
def IM_PORT : Reg := ⟨0x00400C, 4, 0x1ff, 0x0⟩
def IM_N : Reg := ⟨0x004010, 4, 0x1ffffff, 0x1⟩
def IM_START_AT : Reg := ⟨0x004018, 8, 0xffffffffffffffff, 0x0⟩
def IM_CAL_CFG : Reg := ⟨0x004050, 4, 0x1f, 0x14⟩
def IM_Sk_CFG (k : Nat) : Reg := ⟨0x4100 + k * 0x40 + 0x00, 4, 0x800003ff, 0x0⟩
def IM_Sk_EDGE_N (k : Nat) : Reg := ⟨0x4100 + k * 0x40 + 0x04, 4, 0xffffffff, 0x1⟩
def IM_Sk_WIN_LO (k : Nat) : Reg := ⟨0x4100 + k * 0x40 + 0x08, 4, 0xffffffff, 0x0⟩
def IM_Sk_WIN_HI (k : Nat) : Reg := ⟨0x4100 + k * 0x40 + 0x0C, 4, 0xffffffff, 0x0⟩
def IM_INn_DELAY (n : Nat) : Reg := ⟨0x4340 + n * 4, 4, 0xffffffff, 0x0⟩
def ZC_CTL : Reg := ⟨0x00C000, 4, 0x3ff0, 0x0⟩
def ZC_TMO : Reg := ⟨0x00C008, 4, 0xffffff, 0xffffff⟩
def SQ_CTL : Reg := ⟨0x005000, 4, 0xffff0000, 0x2000000⟩
def SQ_FRZ_CFG : Reg := ⟨0x005300, 4, 0xff, 0x10⟩
def SQ_Pn_CFG (n : Nat) : Reg := ⟨0x5400 + n * 0x40 + 0x00, 4, 0xe000ff00, 0x20004000⟩
def SQ_Pn_DELAY (n : Nat) : Reg := ⟨0x5400 + n * 0x40 + 0x08, 4, 0xffffffff, 0x0⟩
def SQ_Pn_PERIOD (n : Nat) : Reg := ⟨0x5400 + n * 0x40 + 0x14, 4, 0xffffffff, 0x1⟩
def SQ_Pn_COUNT (n : Nat) : Reg := ⟨0x5400 + n * 0x40 + 0x18, 4, 0xffffffff, 0x0⟩
def SQ_Pn_NEXT (n : Nat) : Reg := ⟨0x5400 + n * 0x40 + 0x20, 8, 0xffffffffffffffff, 0x0⟩
def SQ_Pn_NEXT_FRAC (n : Nat) : Reg := ⟨0x5400 + n * 0x40 + 0x28, 4, 0xffff, 0x0⟩
def CE_CTL : Reg := ⟨0x006000, 4, 0x1, 0x0⟩
def CE_MOVE_TMO : Reg := ⟨0x006010, 4, 0xffffffff, 0x40000⟩
def CE_ISO_TMO : Reg := ⟨0x006014, 4, 0xffffffff, 0x400000⟩
def CE_ORPHAN : Reg := ⟨0x006018, 4, 0xffffffff, 0x100000⟩
def CE_HSEL : Reg := ⟨0x006040, 4, 0x3ff, 0x0⟩
def CE_GSEL : Reg := ⟨0x006060, 4, 0x1fffff, 0x0⟩
def TP_CTL : Reg := ⟨0x007000, 4, 0x1, 0x0⟩
def TP_TW_PERIOD : Reg := ⟨0x007004, 4, 0xffff, 0x8⟩
def TP_TW_PHASE : Reg := ⟨0x007008, 4, 0xffff, 0x4⟩
def TP_TW_LEN : Reg := ⟨0x00700C, 4, 0xffffff, 0x271⟩
def TP_QLIM : Reg := ⟨0x007010, 4, 0xff, 0x40⟩
def TP_PSEL : Reg := ⟨0x007040, 4, 0x1ff, 0x0⟩
def TP_PROFk_CFG (k : Nat) : Reg := ⟨0x7100 + k * 0x20 + 0x00, 4, 0xe00000ff, 0x60000014⟩
def TP_PROFk_C_RATE (k : Nat) : Reg := ⟨0x7100 + k * 0x20 + 0x04, 4, 0xffff, 0xa00⟩
def TP_PROFk_T_RATE (k : Nat) : Reg := ⟨0x7100 + k * 0x20 + 0x0C, 4, 0xffff, 0x100⟩
def TP_PROFk_C_BURST (k : Nat) : Reg := ⟨0x7100 + k * 0x20 + 0x08, 4, 0xffffff, 0x4000⟩
def TP_PROFk_T_BURST (k : Nat) : Reg := ⟨0x7100 + k * 0x20 + 0x10, 4, 0xffffff, 0x1000⟩
def TP_PMAPj (j : Nat) : Reg := ⟨0x7400 + j * 4, 4, 0xffffffff, 0x0⟩
def HF_CTL : Reg := ⟨0x008000, 4, 0x1, 0x1⟩
def HF_SCORE : Reg := ⟨0x008004, 4, 0x1fffff, 0x141040⟩
def HF_WEIGHT : Reg := ⟨0x008008, 4, 0xffffffff, 0x8040201⟩
def HF_BUDGET : Reg := ⟨0x00800C, 4, 0x1f0f, 0x1e08⟩
def HF_ADMIT : Reg := ⟨0x008020, 4, 0xffffffff, 0x20000⟩
def HF_WDOG_CFG : Reg := ⟨0x008044, 4, 0xffffffff, 0x10000⟩
def HF_PSEL : Reg := ⟨0x008050, 4, 0x1ff, 0x0⟩
def PW_CTL : Reg := ⟨0x009000, 4, 0x7, 0x3⟩
def PW_NAP : Reg := ⟨0x009008, 4, 0xffffffff, 0x400008⟩
def PW_THATCH_WAKE : Reg := ⟨0x009018, 8, 0xffffffffff, 0x0⟩
def PW_TMR_NAP : Reg := ⟨0x00900C, 4, 0xffffffff, 0xc8⟩
def PW_TMR_THATCH : Reg := ⟨0x009010, 4, 0xffffffff, 0x100000⟩
def CP_OWN : Reg := ⟨0x00A018, 4, 0x3fffff, 0x0⟩
def CP_HB_TMO : Reg := ⟨0x00A020, 4, 0xffffffff, 0x0⟩
def CP_RING_BASE : Reg := ⟨0x00A028, 8, 0xffffffffffffffc0, 0x0⟩
def CP_RING_CFG : Reg := ⟨0x00A030, 4, 0x8000001f, 0x8⟩
def CP_RING_RD : Reg := ⟨0x00A038, 4, 0xffffffff, 0x0⟩
def CP_IRQ_CFG : Reg := ⟨0x00A03C, 4, 0xffffff, 0x10000⟩
def BT_CTL : Reg := ⟨0x00B000, 4, 0x9, 0x0⟩
def BT_TAP_EN : Reg := ⟨0x00B008, 8, 0xffffffffffffffff, 0x0⟩
def BT_GUARD : Reg := ⟨0x00B010, 4, 0xffff, 0x40⟩
def BT_LOCK : Reg := ⟨0x00B014, 4, 0xffff000f, 0xfa0002⟩
def BT_CAL_CFG : Reg := ⟨0x00B018, 4, 0xffff, 0x64⟩
def BT_MARGIN : Reg := ⟨0x00B01C, 4, 0xfff, 0x401⟩
def BT_Tn_CFG (n : Nat) : Reg := ⟨0xB400 + n * 0x30 + 0x00, 4, 0xfff1f, 0x800⟩
def BT_Tn_PNOM (n : Nat) : Reg := ⟨0xB400 + n * 0x30 + 0x04, 4, 0xffffffff, 0x0⟩
def OD_CTL : Reg := ⟨0x00D000, 4, 0xff07, 0x4002⟩
def OD_DLK_WIN : Reg := ⟨0x00D008, 4, 0xffffffff, 0x2710⟩
def OD_LEND : Reg := ⟨0x00D00C, 4, 0xffffffff, 0x400010⟩
def OD_FENCE_TMO : Reg := ⟨0x00D010, 4, 0xffffffff, 0x400⟩
def OD_RMT_TMO : Reg := ⟨0x00D014, 4, 0xffffffff, 0x100⟩
def OD_OVF_BASE : Reg := ⟨0x00D028, 8, 0xfffffffffffff000, 0x0⟩
def PF_CTL (p : Nat) : Reg := ⟨0x10000 + p * 0x400 + 0x000, 4, 0xc1f, 0x4⟩
def PF_TX_LAT (p : Nat) : Reg := ⟨0x10000 + p * 0x400 + 0x008, 4, 0xffffffff, 0x0⟩
def PF_RX_LAT (p : Nat) : Reg := ⟨0x10000 + p * 0x400 + 0x00C, 4, 0xffffffff, 0x0⟩
def PF_FIB_CORR (p : Nat) : Reg := ⟨0x10000 + p * 0x400 + 0x010, 4, 0xffffffff, 0x0⟩
def PF_RPL_CFG (p : Nat) : Reg := ⟨0x10000 + p * 0x400 + 0x028, 4, 0xffffff, 0x100804⟩
def PF_LOG_BASE : Reg := ⟨0x10000 + 0x300, 8, 0xffffffffffffffc0, 0x0⟩
def PF_LOG_CFG : Reg := ⟨0x10000 + 0x308, 4, 0x80ffff1f, 0x6⟩
def PF_LOG_RD : Reg := ⟨0x10000 + 0x310, 4, 0xffffffff, 0x0⟩

def PF_CNT_RX (p : Nat) : Nat := 0x10000 + p * 0x400 + 0x080
def PF_CNT_TX (p : Nat) : Nat := 0x10000 + p * 0x400 + 0x084
def PF_CNT_MISS (p : Nat) : Nat := 0x10000 + p * 0x400 + 0x088
def PF_CNT_LATE (p : Nat) : Nat := 0x10000 + p * 0x400 + 0x08C
def PF_CNT_ORPHAN (p : Nat) : Nat := 0x10000 + p * 0x400 + 0x090
def PF_CNT_DROP (p : Nat) : Nat := 0x10000 + p * 0x400 + 0x094
def PF_CNT_PTP_OTHER (p : Nat) : Nat := 0x10000 + p * 0x400 + 0x098
def PF_CNT_PAR (p : Nat) : Nat := 0x10000 + p * 0x400 + 0x09C
def PF_CNT_FCS (p : Nat) : Nat := 0x10000 + p * 0x400 + 0x0A0
def PF_CNT_FLAP (p : Nat) : Nat := 0x10000 + p * 0x400 + 0x0A4
def PF_CNT_REPLAY (p : Nat) : Nat := 0x10000 + p * 0x400 + 0x0A8
def PF_CNT_RFAIL (p : Nat) : Nat := 0x10000 + p * 0x400 + 0x0AC
def PF_CNT_FIFO_OVF (p : Nat) : Nat := 0x10000 + p * 0x400 + 0x0B0
def PF_CNT_RCLK (p : Nat) : Nat := 0x10000 + p * 0x400 + 0x0B4
def TD_CNT_MALFORMED : Nat := 0x001280
def TD_CNT_RANGE : Nat := 0x001284
def TD_CNT_UNACQ : Nat := 0x001288
def TD_CNT_EXCH_BAD : Nat := 0x00128C
def TD_CNT_DOMNUM : Nat := 0x001290
def TD_CNT_SWITCH : Nat := 0x001294
def TD_CNT_PLAN_LATE : Nat := 0x001298
def TD_CNT_KA_JUMP : Nat := 0x00129C
def TD_CNT_ALARM : Nat := 0x0012A0
def RS_CNT_JUMP : Nat := 0x002300
def RS_CNT_FREQ : Nat := 0x002304
def RS_CNT_LOSS : Nat := 0x002308
def RS_CNT_SEL : Nat := 0x00230C
def RS_CNT_PPS : Nat := 0x002310
def RS_CNT_CORR : Nat := 0x002314
def RS_CNT_HOLD : Nat := 0x002318
def CG_CNT_OSC_RESTART : Nat := 0x003080
def CG_CNT_OSC_LOSS : Nat := 0x003084
def CG_CNT_OVEN_FALL : Nat := 0x003088
def CG_CNT_TPLL_UNLOCK : Nat := 0x00308C
def CG_CNT_LPLL_UNLOCK : Nat := 0x003090
def CG_CNT_GATE_WAIT : Nat := 0x003094
def BT_CNT_RELOAD : Nat := 0x00B080
def BT_CNT_RECAL : Nat := 0x00B084
def BT_CNT_PAR : Nat := 0x00B088
def BT_CNT_SAT : Nat := 0x00B08C
def BT_CNT_NOMARK : Nat := 0x00B090
def BT_CNT_MISSED : Nat := 0x00B094
def IM_CNT_CLOSE : Nat := 0x004080
def IM_CNT_STEP : Nat := 0x004084
def IM_CNT_RAW_OVF : Nat := 0x004088
def IM_CNT_IGN_START : Nat := 0x00408C
def IM_CNT_CALSWAP : Nat := 0x004090
def SQ_CNT_ARM : Nat := 0x005200
def SQ_CNT_FIRED : Nat := 0x005204
def SQ_CNT_REFUSED : Nat := 0x005208
def SQ_CNT_NOTFIRED : Nat := 0x00520C
def SQ_CNT_LOSTREP : Nat := 0x005210
def SQ_CNT_BUDGET : Nat := 0x005214
def SQ_CNT_STALL : Nat := 0x005218
def SQ_CNT_EVT_LATE : Nat := 0x00521C
def SQ_CNT_EVT_DROP : Nat := 0x005220
def SQ_CNT_FRZ_DROP : Nat := 0x005224
def SQ_CNT_PLS_DROP : Nat := 0x005228
def SQ_CNT_VOTE_ABORT : Nat := 0x00522C
def OD_CNT_OPS : Nat := 0x00D080
def OD_CNT_FULL : Nat := 0x00D084
def OD_CNT_UNDER : Nat := 0x00D088
def OD_CNT_DRIFT : Nat := 0x00D08C
def OD_CNT_TIMEOUT : Nat := 0x00D090
def OD_CNT_HANDLE : Nat := 0x00D094
def OD_CNT_BUSY : Nat := 0x00D098
def OD_CNT_STALE : Nat := 0x00D09C
def OD_CNT_PAR : Nat := 0x00D0A0
def OD_CNT_TMISS : Nat := 0x00D0A4
def OD_CNT_LEND : Nat := 0x00D0A8
def OD_CNT_FENCE_DUP : Nat := 0x00D0AC
def CE_CNT_DONE : Nat := 0x006080
def CE_CNT_ABORT : Nat := 0x006084
def CE_CNT_MOVE : Nat := 0x006088
def CE_CNT_REQ : Nat := 0x00608C
def CE_CNT_STRAY : Nat := 0x006090
def CE_CNT_ORPHAN : Nat := 0x006094
def CE_CNT_ISO : Nat := 0x006098
def CE_CNT_WAIT : Nat := 0x00609C
def TP_CNT_X : Nat := 0x007080
def TP_CNT_C : Nat := 0x007084
def TP_CNT_T : Nat := 0x007088
def TP_CNT_WINWAIT : Nat := 0x00708C
def TP_CNT_TOOLONG : Nat := 0x007090
def TP_CNT_OBJDROP : Nat := 0x007094
def TP_CNT_FLUSH : Nat := 0x007098
def TP_CNT_OVERTAKE : Nat := 0x00709C
def TP_CNT_QFULL : Nat := 0x0070A0
def HF_CNT_RETIRE : Nat := 0x008080
def HF_CNT_PROB : Nat := 0x008084
def HF_CNT_LOST : Nat := 0x008088
def HF_CNT_RESTORE : Nat := 0x00808C
def HF_CNT_INT : Nat := 0x008090
def HF_CNT_UNCONT : Nat := 0x008094
def HF_CNT_UL : Nat := 0x008098
def HF_CNT_WDOG : Nat := 0x00809C
def PW_REF_CNT (k : Nat) : Nat := 0x9080 + 4 * k
def PW_CNT_NAP : Nat := 0x0090B4
def PW_CNT_THATCH : Nat := 0x0090B8
def PW_CNT_NOREBUILD : Nat := 0x0090BC
def CP_CNT_CMD : Nat := 0x00A080
def CP_CNT_ERR : Nat := 0x00A084
def CP_CNT_IGN : Nat := 0x00A088
def CP_CNT_OWNER : Nat := 0x00A08C
def CP_CNT_RING_WAIT : Nat := 0x00A090
def CP_CNT_SB_PEC : Nat := 0x00A094
def CP_CNT_SB_BUSY : Nat := 0x00A098
def CP_CNT_SB_BAD : Nat := 0x00A09C
def GC_CNT_HPAR : Nat := 0x000080
def GC_CNT_MERR : Nat := 0x000084
def GC_CNT_EVOVF : Nat := 0x000088
def TD_x_CNT_UPD (d : Nat) : Nat := 0x1100 + d * 0x80 + 0x30
def TD_x_CNT_SKIP (d : Nat) : Nat := 0x1100 + d * 0x80 + 0x34
def BT_Tn_CNT_LATE (n : Nat) : Nat := 0xB400 + n * 0x30 + 0x24
def BT_Tn_CNT_NSWIN (n : Nat) : Nat := 0xB400 + n * 0x30 + 0x28
def BT_Tn_CNT_MFAIL (n : Nat) : Nat := 0xB400 + n * 0x30 + 0x2C
def SQ_Pn_CNT (n : Nat) : Nat := 0x5400 + n * 0x40 + 0x2C
def PF_LOG_DROP : Nat := 0x10314
/-- The free values of the model: the k-th value that the spec leaves open (log entry 5).  It has no body, so no
statement can rest on what it is. -/
opaque freeValue : Nat → BitVec 64

/-- The rate of the host register port's clock in kHz, which the host die supplies (R388).  It has no body
(log entry 11). -/
opaque hostClockKhz : Nat

/-- The rate of the memory master port's clock in kHz, which the host die supplies (R388).  It has no body
(log entry 11). -/
opaque memClockKhz : Nat

/-- Bytes of a sent frame that the spec does not state, by their kind and offset: the Ethernet addresses, what a field holds
before its insertion, the Announce fields it names no value for, and the content of ESMC frames (log entry 63).  It has no
body. -/
opaque wireByte : Nat → Nat → BitVec 8

/-- Whether a collective was defined with MOVE = 1, as the authority root sees it: no frame carries the flag
(log entry 30).  It has no body. -/
opaque collMove : Nat → Bool

end Sys2Proof.Config
end

