-- ==== Sys2Proof/Machine/Map.lean ====
section
/-! DEFINITION. Sys2Proof/Machine/Map.lean: tables with few listed entries, as plain data in one canonical form:
keys strictly rising, and no entry equal to what an unlisted key reads as. -/
namespace Sys2Proof.Machine

/-- A table keyed by a natural number. -/
abbrev Map (α : Type) := List (Nat × α)

/-- The entry listed at a key. -/
def Map.look {α : Type} (m : Map α) (k : Nat) : Option α :=
  match m with
  | [] => none
  | (j, a) :: r => if j = k then some a else Map.look r k

/-- The value at a key: the entry, or what an unlisted key reads as. -/
def Map.get {α : Type} (m : Map α) (d : α) (k : Nat) : α := (m.look k).getD d

/-- The table without the entry at a key. -/
def Map.erase {α : Type} (m : Map α) (k : Nat) : Map α :=
  match m with
  | [] => []
  | (j, a) :: r => if j = k then Map.erase r k else (j, a) :: Map.erase r k

/-- The table with the entry at a key set, kept in rising order of keys. -/
def Map.insert {α : Type} (m : Map α) (k : Nat) (v : α) : Map α :=
  match m with
  | [] => [(k, v)]
  | (j, a) :: r =>
    if k < j then (k, v) :: (j, a) :: r
    else if k = j then (k, v) :: r
    else (j, a) :: Map.insert r k v

/-- The table with a key reading as `v`: writing what an unlisted key reads as removes the entry. -/
def Map.set {α : Type} [DecidableEq α] (m : Map α) (d : α) (k : Nat) (v : α) : Map α :=
  if v = d then m.erase k else m.insert k v

/-- The table without the entries whose keys lie from `lo` to `hi`. -/
def Map.clearRange {α : Type} (m : Map α) (lo hi : Nat) : Map α :=
  m.filter fun e => ¬ (lo ≤ e.1 ∧ e.1 ≤ hi)

/-- The keys listed. -/
def Map.keys {α : Type} (m : Map α) : List Nat := m.map Prod.fst

/-- Keys strictly rising. -/
def Map.sorted {α : Type} (m : Map α) : Bool :=
  match m with
  | [] => true
  | (k, _) :: r => (r.all fun e => decide (k < e.1)) && Map.sorted r

/-- The canonical form: keys strictly rising, and no entry equal to what an unlisted key reads as. -/
def Map.wf {α : Type} [DecidableEq α] (d : α) (m : Map α) : Bool :=
  m.sorted && m.all fun e => decide (e.2 ≠ d)

/-- A value put into a list in order, before the first that it does not come after. -/
def insertBy {α : Type} (le : α → α → Bool) (x : α) : List α → List α
  | [] => [x]
  | y :: l => if le x y then x :: y :: l else y :: insertBy le x l

/-- A list in the order of a comparison; values that compare equal keep their order. -/
def sortBy {α : Type} (le : α → α → Bool) : List α → List α
  | [] => []
  | x :: l => insertBy le x (sortBy le l)

end Sys2Proof.Machine
end

