-- ==== Sys2Proof/Syntax.lean ====
section
/-! DEFINITION. Sys2Proof/Syntax.lean: the commands the block takes, one constructor per row of the spec's table of
operations and events (spec/opcode_table.json), with their operands as typed data. -/
namespace Sys2Proof.Machine

/-- The two time domains (R34, spec/02_time_and_numbering.md). -/
inductive Dom where
  | a | b
  deriving DecidableEq, Repr

/-- The three masters of register accesses (R20, R43). -/
inductive Master where
  | host | sideband | cp
  deriving DecidableEq, Repr

/-- The two PLLs (R168, R170). -/
inductive Pll where
  | timing | logic
  deriving DecidableEq, Repr

/-- The tie-offs sampled at the release of por_n (R384). -/
structure Ties where
  strap : Nat := 0
  idNum : Nat := 0
  gangPos : Nat := 0
  gangSize : Nat := 0
  /-- tap_up_head and tap_up of each tap listed; a tap not listed hangs on the head, with tap_up 0. -/
  tapUp : List (Nat × Bool × Nat) := []
  /-- Taps the wiring provides (R185). -/
  taps : List Nat := []
  sbAddr : Nat := 0
  sbIana : Nat := 0
  romVer : Nat := 0
  deriving DecidableEq, Repr

/-- What a member sees on the gang link at reset (R27, R384), and the number of the leader, whose identity the whole gang
has (spec/01_architecture.md, "Ganging"). -/
structure GangSeen where
  dupPos : Bool := false
  otherRole : Bool := false
  counted : Nat := 0
  leaderNum : Nat := 0
  deriving DecidableEq, Repr

/-- A time on the wire (R36): seconds, nanoseconds, fraction. -/
structure WireTime where
  sec : Nat := 0
  ns : Nat := 0
  frac : Nat := 0
  deriving DecidableEq, Repr

/-- An edge timed by a converter: the timing cycle of the course and the 12-bit converter code (R40) (log entry 59). -/
structure Edge where
  cyc : Nat := 0
  code : Nat := 0
  deriving DecidableEq, Repr

/-- The first edge of a candidate clock after the course tick, and how many edges the course had (R133). -/
structure RefEdge where
  cand : Nat
  edge : Edge
  count : Nat := 1
  deriving DecidableEq, Repr

/-- One hop of the gang link as its calibration measures it (R28): whole timing cycles and a converter code. -/
structure GangHop where
  cycles : Nat := 0
  code : Nat := 0
  deriving DecidableEq, Repr

/-- What a gang member learns of its leader at the edge that ends its course (R29): the leader's output time in 2^-16 ns as
it was sent, before the latency of the link, with ACQ, the selected domain, R_out and the time error. -/
structure LeadTime where
  sent : Int
  acq : Bool
  sel : Dom := .a
  rOut : Int := 0
  te : Nat := 0xFFFFFFFF
  deriving DecidableEq, Repr

/-- The first edge of a port's recovered clock after a course tick (R81). -/
structure PortEdge where
  port : Nat
  edge : Edge
  deriving DecidableEq, Repr

/-- The calibration of one ramp (R212): its span per timing cycle, in 2^-16 of the nominal span; how many of the 4,096 output
codes had a hit in code density; the largest known-interval residual after the fit, in 0.1 ps, rounded up. -/
structure RampCal where
  conv : Nat
  span : Nat := 65536
  codes : Nat := 4096
  residual : Nat := 0
  deriving DecidableEq, Repr

/-- What the block sees at a course tick: the level of the oven flag, the temperature sense, the ports with rclk_ok
high, the first edges of the REFIN candidates in the course that ends, the first edges of the recovered clocks in the course
that begins, the level of dbg_attach, the oscillator's first edge
after the tick, and on the gang link whether the keepalive from the leader's side arrived in that course, the leader's
time, whether a member reports a refuser, and an entry that the leader attempts with its acceptance (R347)
(log entry 59). -/
structure TickIn where
  oven : Bool := true
  temp : Int := 0
  tempOk : Bool := true
  rclk : List Nat := []
  refs : List RefEdge := []
  rclkEdges : List PortEdge := []
  dbg : Bool := false
  osc : Edge := {}
  gangKa : Bool := true
  lead : Option LeadTime := none
  gangRefuse : Bool := false
  gangEnter : Option (Nat × Bool) := none
  deriving DecidableEq, Repr

/-- How a received frame was delivered (R63, R64, R68, R71). -/
structure RxBase where
  port : Nat
  /-- rxf_mark_id. -/
  mark : Nat := 0
  /-- Timing cycle of the delivery within the course. -/
  cyc : Nat := 0
  tagged : Bool := false
  tooLong : Bool := false
  incomplete : Bool := false
  deriving DecidableEq, Repr

/-- What is wrong with a received frame: how many of its words fail parity, and that rxf_fcs_err came with it (R70, R87). -/
structure RxBad where
  words : Nat := 0
  fcs : Bool := true
  deriving DecidableEq, Repr

/-- A received Zudar frame: delivery and the header of R101. -/
structure RxHead extends RxBase where
  ver : Nat := 2
  len : Nat := 24
  /-- LEN runs past the frame check sequence (R102). -/
  pastFcs : Bool := false
  dom : Dom := .a
  rpl : Bool := false
  lseq : Nat := 0
  lack : Nat := 0
  seq : Nat := 0
  srcId : Nat := 0
  srcPort : Nat := 0
  course : Nat := 0
  deriving DecidableEq, Repr

/-- A received IEEE 1588 frame: delivery and the header fields of R96. -/
structure PtpHead extends RxBase where
  sdo : Nat := 0
  ver : Nat := 2
  len : Nat := 64
  domNum : Nat := 0
  twoStep : Bool := false
  /-- correctionField, in 2^-16 ns. -/
  corr : Int := 0
  srcClock : Nat := 0
  srcPort : Nat := 0
  seq : Nat := 0
  deriving DecidableEq, Repr

/-- The Announce fields of R100. -/
structure AnnounceBody where
  utcOffset : Nat := 0
  utcValid : Bool := false
  li59 : Bool := false
  li61 : Bool := false
  timeSource : Nat := 0x20
  gmId : Nat := 0
  clockClass : Nat := 248
  /-- clockAccuracy and offsetScaledLogVariance (R159). -/
  accuracy : Nat := 0xFE
  variance : Nat := 0xFFFF
  stepsRemoved : Nat := 0
  deriving DecidableEq, Repr

/-- The payload of HELLO (R104). -/
structure HelloBody where
  role : Nat
  home : Nat
  port : Nat
  prole : Nat
  gang : Nat
  rev : Nat
  deriving DecidableEq, Repr

/-- The payload of LAUNCH (R108). -/
structure LaunchBody where
  id : Nat
  kind : Nat
  target : WireTime
  arg : Nat
  deriving DecidableEq, Repr

/-- The fields of a program instruction beside its opcode (R231): D, A, B and the 44-bit X. -/
structure SeqArgs where
  d : Nat := 0
  a : Nat := 0
  b : Nat := 0
  x : Nat := 0
  deriving DecidableEq, Repr

/-- One lane of a partial (R291, R292): the 320-bit integer A and the four flags. -/
structure Lane where
  a : Int := 0
  nan : Bool := false
  pinf : Bool := false
  ninf : Bool := false
  z : Bool := false
  deriving DecidableEq, Repr

/-- The key and count of a vote (R294, R295). -/
structure Ballot where
  step : Nat := 0
  digest : Nat := 0
  count : Nat := 0
  deriving DecidableEq, Repr

/-- The parameters that a collective frame repeats (R283, R297). -/
structure CollParams where
  cid : Nat
  isn : Nat
  op : Nat
  fmt : Nat := 0
  rfmt : Nat := 0
  lanes : Nat := 0
  group : Nat := 0
  sat : Bool := false
  deriving DecidableEq, Repr

/-- What a COLL_UP carries, by KIND (R295, R297). -/
inductive UpData where
  /-- KIND 0 of an operation other than VOTE. -/
  | partial_ (lanes : List Lane)
  /-- KIND 0 of a VOTE. -/
  | vote (b : Ballot)
  /-- KIND 1: a result report. -/
  | report (status : Nat) (results : List Nat)
  /-- KIND 2: a vote match; the count is MATCH. -/
  | matched (b : Ballot)
  deriving DecidableEq, Repr

/-- COLL_UP (R297). -/
structure CollUp where
  par : CollParams
  attempt : Nat
  count : Nat
  step : Nat := 0
  data : UpData
  deriving DecidableEq, Repr

/-- COLL_DOWN (R297). -/
structure CollDown where
  par : CollParams
  attempt : Nat
  phase : Nat := 0
  status : Nat := 0
  count : Nat := 0
  step : Nat := 0
  doneCourse : Nat := 0
  results : List Nat := []
  deriving DecidableEq, Repr

/-- The request a decision answers (R298, R300). -/
structure Origin where
  id : Nat := 0
  port : Nat := 0
  onset : Nat := 0
  deriving DecidableEq, Repr

/-- COLL_MOVE (R298). -/
structure CollMove where
  cid : Nat
  isn : Nat
  attempt : Nat
  dom : Dom
  origin : Origin := {}
  deriving DecidableEq, Repr

/-- COLL_ABORT (R298). -/
structure CollAbort where
  cid : Nat
  isn : Nat
  attempt : Nat
  reason : Nat
  origin : Origin := {}
  deriving DecidableEq, Repr

/-- COLL_REQ (R298). -/
structure CollReq where
  rtype : Nat
  reason : Nat := 0
  dom : Dom
  attempt : Nat := 0
  cid : Nat := 0
  isn : Nat := 0
  port : Nat := 0
  lo : Nat := 0
  hi : Nat := 0
  originId : Nat := 0
  onset : Nat := 0
  deriving DecidableEq, Repr

/-- What crosses the gang link between a member and the leader (R29, R31, R241, R285). -/
inductive GangMsg where
  /-- To the leader: a contribution, or a partial of a ganged ridge. -/
  | contribution (m : CollUp)
  /-- To the leader: the digest of a step. -/
  | digest (step digest : Nat)
  /-- To the leader: a request toward the root. -/
  | request (q : CollReq)
  /-- From the leader: what came down its uplinks, or its own decision as root. -/
  | down (m : CollDown)
  | move (m : CollMove)
  | abort (m : CollAbort)
  /-- From the leader: the endpoint is DIVERGED. -/
  | diverged
  /-- From the heir of a leader that has failed: it has no live rafter, and the gang is lost. -/
  | dead
  deriving DecidableEq, Repr

/-- OBJ_REQ (R277). -/
structure ObjReqMsg where
  dst : Nat
  op : Nat
  ctx : Nat
  loc : Nat
  rtag : Nat
  operand : Nat
  /-- In a message that a ridge forwards: SRC_ID and COURSE of the origin's header, which it keeps (R276). -/
  origin : Option (Nat × Nat) := none
  deriving DecidableEq, Repr

/-- OBJ_RSP (R277). -/
structure ObjRspMsg where
  dst : Nat
  result : Nat
  rtag : Nat
  value : Nat
  /-- As in OBJ_REQ. -/
  origin : Option (Nat × Nat) := none
  deriving DecidableEq, Repr

/-- What a sent frame carries beside its header. -/
inductive Body where
  | sync (seq : Nat)
  | delayReq (seq : Nat)
  | delayResp (seq : Nat) (t4 : Int) (reqClock reqPort : Nat)
  | announce (b : AnnounceBody)
  | esmcInfo (ql : Nat)
  | esmcEvent (ql : Nat)
  | hello (b : HelloBody)
  | keepalive (status te : Nat)
  | ack
  | nak (expected : Nat)
  | cal (shot : Nat)
  | switchPlan (id : Nat) (target : Dom) (course : Nat)
  | switchCancel (id : Nat)
  | launch (b : LaunchBody)
  | objReq (m : ObjReqMsg)
  | objRsp (m : ObjRspMsg)
  | collUp (m : CollUp)
  | collDown (m : CollDown)
  | collMove (m : CollMove)
  | collAbort (m : CollAbort)
  | collReq (m : CollReq)
  deriving DecidableEq, Repr

/-- A request of an engine at a tap (R259). -/
structure EngReq where
  tap : Nat
  handle : Nat
  operand : Nat := 0
  remote : Bool := false
  lend : Bool := false
  wait : Bool := false
  fence : Bool := false
  dst : Nat := 0
  ftag : Nat := 0
  dl : Nat := 0
  rtag : Nat := 0
  /-- Made on bar_req, which has no response. -/
  bar : Bool := false
  deriving DecidableEq, Repr

/-- A request on the host port (R390). -/
structure Access where
  write : Bool := false
  wide : Bool := false
  addr : Nat := 0
  data : Nat := 0
  deriving DecidableEq, Repr

/-- What arrives on the sideband: an MCTP control command with its data byte, a command request with its words, or a
register access (R377 to R379). -/
inductive SbMsg where
  | control (cmd data : Nat)
  | command (words : List Nat)
  | regRead (off width : Nat)
  | regWrite (off width value : Nat)
  deriving DecidableEq, Repr

/-- What the calibration of one crossing gives: wire latency in 2^-16 ns, slack in ps, and whether every trial
returned. -/
structure CalResult where
  tap : Nat
  w : Nat := 0
  sigma : Nat := 0
  back : Bool := true
  deriving DecidableEq, Repr

/-- What a discarded crossing word was (R196): `unused` has a TYPE that is not used. -/
inductive LostWord where
  | mark | fill | arm | cancel | release | report
  /-- A barrier arrival on its way up. -/
  | arrive (r : EngReq)
  /-- A word of an object request on its way up, with its operation. -/
  | objReq (op : Nat) (r : EngReq)
  /-- An object response on its way down. -/
  | objRsp (tap rtag : Nat)
  | unused
  deriving DecidableEq, Repr

/-- Who requested an operation of the object store, and waits for a translation read or meets a slot that fails parity
(R257, R262, R263). -/
inductive TransFor where
  | engine (op : Nat) (r : EngReq) (course : Nat)
  | remote (m : ObjReqMsg) (src : Nat)
  /-- The SIGNAL of a DONE_OBJ (R287). -/
  | signal
  | program
  | command
  deriving DecidableEq, Repr

/-- Where an internal word failed parity (R334). -/
inductive ParityAt where
  /-- UNIT 0x01 to 0x05: uncontained. -/
  | uncontained (unit : Nat)
  /-- UNIT 0x03, found by a register read of a master. -/
  | registerRead (m : Master)
  /-- A crossing word of the batten chain, at a tap after some edges. -/
  | crossing (n edges : Nat) (k : LostWord)
  /-- The slot that an operation reads, by its handle and by who requested it. -/
  | objectSlot (h : Nat) (who : TransFor)
  /-- A tree counter or reduction slot of a ridge. -/
  | treeCounter (cid isn attempt : Nat)
  /-- A contribution log of an eave. -/
  | contribLog (h isn : Nat)
  /-- A translation read, by its request identity. -/
  | translation (id : Nat)
  /-- The newest stamp record of a port. -/
  | stampRecord (p : Nat)
  /-- A word of the replay store at a port's retransmission. -/
  | replayWord (p : Nat)
  deriving DecidableEq, Repr

end Sys2Proof.Machine

namespace Sys2Proof
open Machine

/-- The commands of the block, one constructor per row of the table of operations and events. -/
inductive Instr where
  /-- POR_RELEASE (R400). -/
  | porRelease (t : Ties) (g : GangSeen)
  /-- POR_ASSERT (R400). -/
  | porAssert
  /-- OSC_GOOD (R164). -/
  | oscGood
  /-- OSC_LOSS (R165). -/
  | oscLoss
  /-- PLL_LOCK (R171). -/
  | pllLock (p : Pll) (cycles : Nat) (oven : Bool)
  /-- PLL_LOCK_TIMEOUT (R171). -/
  | pllLockTimeout (p : Pll)
  /-- TIMING_PLL_UNLOCK (R173). -/
  | timingPllUnlock
  /-- TIMING_PLL_RELOCK (R173). -/
  | timingPllRelock
  /-- LOGIC_PLL_UNLOCK (R173). -/
  | logicPllUnlock
  /-- LOGIC_PLL_RELOCK (R173). -/
  | logicPllRelock
  /-- OVEN_FLAG_FALL (R166). -/
  | ovenFlagFall
  /-- OVEN_OK_RISE (R166). -/
  | ovenOkRise
  /-- OVEN_USE_WRITE (R166). -/
  | ovenUseWrite (v : Nat)
  /-- GATE_CLOSE (R177). -/
  | gateClose (k : Nat)
  /-- CG_CLKOUT_WRITE (R182). -/
  | cgClkoutWrite (v : Nat)
  /-- COURSE_TICK (R18). -/
  | courseTick (tick : TickIn)
  /-- SERVO_UPDATE (R111). -/
  | servoUpdate
  /-- ACQUISITION_STEP (R115). -/
  | acquisitionStep (osc : Edge)
  /-- PLAN_EVALUATE (R124). -/
  | planEvaluate
  /-- RECEIVE_MARK (R69). -/
  | receiveMark (p id : Nat) (e : Edge) (adj : Nat)
  /-- TRANSMIT_MARK (R73). -/
  | transmitMark (p : Nat) (e : Edge) (adj : Nat)
  /-- TX_INS_LATE (R74). -/
  | txInsLate (p : Nat)
  /-- PORT_UP_RISE (R86). -/
  | portUpRise (p : Nat)
  /-- PORT_UP_FALL (R90). -/
  | portUpFall (p : Nat)
  /-- LANE_FLAP (R322). -/
  | laneFlap (p : Nat)
  /-- RCLK_OK_FALL (R81). -/
  | rclkOkFall (p : Nat)
  /-- PORT_ENABLE (R76). -/
  | portEnable (p v : Nat)
  /-- PORT_DISABLE (R90). -/
  | portDisable (p v : Nat)
  /-- PORT_CONSTANTS_WRITE (R75). -/
  | portConstantsWrite (p which v : Nat)
  /-- PF_STAMP_LO_READ (R85). -/
  | pfStampLoRead (m : Master) (p : Nat)
  /-- PTP_OTHER_RECEIVE (R12). -/
  | ptpOtherReceive (h : PtpHead) (typ : Nat)
  /-- ZUDAR_RESERVED_TYPE (R103). -/
  | zudarReservedType (h : RxHead) (typ : Nat)
  /-- ESMC_INFO_RECEIVE (R83). -/
  | esmcInfoReceive (h : RxBase) (ql : Nat)
  /-- ESMC_EVENT_RECEIVE (R83). -/
  | esmcEventReceive (h : RxBase)
  /-- ESMC_INFO_SEND (R83). -/
  | esmcInfoSend (p : Nat)
  /-- SYNC_SEND (R97). -/
  | syncSend (p : Nat)
  /-- SYNC_RECEIVE (R96). -/
  | syncReceive (h : PtpHead) (origin : WireTime)
  /-- DELAY_REQ_SEND (R97). -/
  | delayReqSend (p : Nat)
  /-- DELAY_REQ_RECEIVE (R96). -/
  | delayReqReceive (h : PtpHead)
  /-- DELAY_RESP_SEND (R97). -/
  | delayRespSend (p : Nat)
  /-- DELAY_RESP_RECEIVE (R99). -/
  | delayRespReceive (h : PtpHead) (receive : WireTime) (reqClock reqPort : Nat)
  /-- ANNOUNCE_SEND (R100). -/
  | announceSend (p : Nat)
  /-- ANNOUNCE_RECEIVE (R100). -/
  | announceReceive (h : PtpHead) (b : AnnounceBody)
  /-- HELLO_SEND (R104). -/
  | helloSend (p : Nat)
  /-- HELLO_RECEIVE (R104). -/
  | helloReceive (h : RxHead) (b : HelloBody)
  /-- KEEPALIVE_SEND (R105). -/
  | keepaliveSend (p : Nat)
  /-- KEEPALIVE_RECEIVE (R105). -/
  | keepaliveReceive (h : RxHead) (tx : WireTime) (status te : Nat)
  /-- KEEPALIVE_LOSS (R105). -/
  | keepaliveLoss (p : Nat)
  /-- ACK_RECEIVE (R88). -/
  | ackReceive (h : RxHead)
  /-- NAK_RECEIVE (R88). -/
  | nakReceive (h : RxHead)
  /-- ACK_SEND (R87). -/
  | ackSend (p : Nat)
  /-- REPLAY_TIMEOUT (R88). -/
  | replayTimeout (p : Nat)
  /-- CAL_FRAME_RECEIVE (R106). -/
  | calFrameReceive (h : RxHead) (tx : WireTime)
  /-- SWITCH_PLAN_RECEIVE (R123). -/
  | switchPlanReceive (h : RxHead) (id : Nat) (target : Dom) (sw : Nat)
  /-- SWITCH_CANCEL_RECEIVE (R123). -/
  | switchCancelReceive (h : RxHead) (id : Nat)
  /-- LAUNCH_RECEIVE (R250). -/
  | launchReceive (h : RxHead) (b : LaunchBody)
  /-- CANDIDATE_QUALIFY_TIMER (R137). -/
  | candidateQualifyTimer (n : Nat)
  /-- WTR_EXPIRY (R139). -/
  | wtrExpiry (d : Dom)
  /-- PPS_EDGE (R136). -/
  | ppsEdge (n : Nat) (e : Edge) (before : Nat)
  /-- PPS_LOSS (R136). -/
  | ppsLoss (n : Nat)
  /-- LOOP_OPEN_TIMEOUT (R144). -/
  | loopOpenTimeout (d : Dom)
  /-- AGE_WINDOW_END (R151). -/
  | ageWindowEnd
  /-- RS_CANDN_CFG_WRITE (R139). -/
  | rsCandnCfgWrite (n v : Nat)
  /-- RS_CANDN_DELAY_WRITE (R139). -/
  | rsCandnDelayWrite (n v : Nat)
  /-- BATTEN_ENABLE (R197). -/
  | battenEnable
  /-- BATTEN_DISABLE (R197). -/
  | battenDisable
  /-- BATTEN_RECAL (R197). -/
  | battenRecal
  /-- BATTEN_CAL_DONE (R197). -/
  | battenCalDone (rs : List CalResult)
  /-- CROSSING_RECALIBRATION (R195). -/
  | crossingRecalibration (r : CalResult)
  /-- MARK (R190). -/
  | mark (n edges r : Nat)
  /-- MARK_STEP (R190). -/
  | markStep (n edges r : Nat)
  /-- STRETCH_INDICATION (R195). -/
  | stretchIndication (n edges : Nat)
  /-- FILL_WORD (R192). -/
  | fillWord (n edges : Nat)
  /-- CROSSING_WORD_BAD (R196). -/
  | crossingWordBad (n edges : Nat) (k : LostWord)
  /-- MARGIN_WARNING (R198). -/
  | marginWarning (n mismatches : Nat)
  /-- ARM_WORD (R199). -/
  | armWord (n edges : Nat)
  /-- CANCEL_WORD (R199). -/
  | cancelWord (n edges : Nat)
  /-- NSW_REQ_RISE (R202). -/
  | nswReqRise (n edges : Nat)
  /-- LAUNCH_FIRE (R201). -/
  | launchFire (n edges : Nat)
  /-- LAUNCH_LINE_FALL (R201). -/
  | launchLineFall (n edges : Nat)
  /-- LAUNCH_REPORT (R203). -/
  | launchReport (n edges : Nat)
  /-- RELEASE_WORD (R264). -/
  | releaseWord
  /-- REPORT_WORD (R245). -/
  | reportWord
  /-- REPORT_MISSING (R245). -/
  | reportMissing
  /-- CONVERTER_CAL_READY (R213). -/
  | converterCalReady (ramps : List RampCal) (part : Option (List Nat))
  /-- PAD_MEASUREMENT (R216). -/
  | padMeasurement (vals : List (Nat × Nat))
  /-- PAD_RECAL (R216). -/
  | padRecal
  /-- RAMP_CALIBRATION (R214). -/
  | rampCalibration (ramps : List RampCal) (edges : Nat)
  /-- PIN_EDGE (R211). -/
  | pinEdge (pin : Nat) (falling : Bool) (e : Edge)
  /-- TIMED_START (R217). -/
  | timedStart
  /-- SHOT_WINDOW_CLOSE (R218). -/
  | shotWindowClose (cyc : Nat)
  /-- IM_ARM (R227). -/
  | imArm
  /-- IM_ABORT (R223). -/
  | imAbort
  /-- IM_GO (R217). -/
  | imGo
  /-- IM_MODE_WRITE (R225). -/
  | imModeWrite (on : Bool)
  /-- IM_SK_COUNT_READ (R221). -/
  | imSkCountRead (m : Master) (k : Nat)
  /-- IM_RAW_LO_READ (R222). -/
  | imRawLoRead (m : Master)
  /-- ZC_DLL_LOCK (R225). -/
  | zcDllLock
  /-- ZC_START (R225). -/
  | zcStart
  /-- ZC_CLR (R228). -/
  | zcClr
  /-- ZC_TIMEOUT (R225). -/
  | zcTimeout (cyc : Nat)
  /-- PORT_CALIBRATE_DONE (R224). -/
  | portCalibrateDone
  /-- PROGRAM_STORE_WRITE (R230). -/
  | programStoreWrite (idx w : Nat)
  /-- PROGRAM_START (R236). -/
  | programStart
  /-- PROGRAM_STOP (R238). -/
  | programStop
  /-- EVENT_START (R250). -/
  | eventStart
  /-- EVENT_STOP (R250). -/
  | eventStop
  /-- NOP (R232). -/
  | nop (f : SeqArgs)
  /-- HALT (R238). -/
  | halt (f : SeqArgs)
  /-- JMP (R232). -/
  | jmp (f : SeqArgs)
  /-- BR (R232). -/
  | br (f : SeqArgs)
  /-- BRI (R232). -/
  | bri (f : SeqArgs)
  /-- STEPEND (R239). -/
  | stepend (f : SeqArgs)
  /-- WAITC (R232). -/
  | waitc (f : SeqArgs)
  /-- LI (R232). -/
  | li (f : SeqArgs)
  /-- LIH (R232). -/
  | lih (f : SeqArgs)
  /-- MOV (R232). -/
  | mov (f : SeqArgs)
  /-- ADD (R232). -/
  | add (f : SeqArgs)
  /-- SUB (R232). -/
  | sub (f : SeqArgs)
  /-- AND (R232). -/
  | and (f : SeqArgs)
  /-- OR (R232). -/
  | or (f : SeqArgs)
  /-- XOR (R232). -/
  | xor (f : SeqArgs)
  /-- ADDI (R232). -/
  | addi (f : SeqArgs)
  /-- SHL (R232). -/
  | shl (f : SeqArgs)
  /-- SHR (R232). -/
  | shr (f : SeqArgs)
  /-- SAR (R232). -/
  | sar (f : SeqArgs)
  /-- MUL (R232). -/
  | mul (f : SeqArgs)
  /-- MINU (R232). -/
  | minu (f : SeqArgs)
  /-- MAXU (R232). -/
  | maxu (f : SeqArgs)
  /-- RDSTEP (R232). -/
  | rdstep (f : SeqArgs)
  /-- RDCRS (R232). -/
  | rdcrs (f : SeqArgs)
  /-- RDTE (R232). -/
  | rdte (f : SeqArgs)
  /-- RDLR (R245). -/
  | rdlr (f : SeqArgs)
  /-- LCFG (R232). -/
  | lcfg (f : SeqArgs)
  /-- ARM (R244). -/
  | arm (f : SeqArgs)
  /-- ARMM (R244). -/
  | armm (f : SeqArgs)
  /-- CANCEL (R244). -/
  | cancel (f : SeqArgs)
  /-- PULSE (R248). -/
  | pulse (f : SeqArgs)
  /-- FRZ (R249). -/
  | frz (f : SeqArgs)
  /-- CONTRIB (R284). -/
  | contrib (f : SeqArgs)
  /-- WAITR (R243). -/
  | waitr (f : SeqArgs)
  /-- RESULT (R243). -/
  | result (f : SeqArgs)
  /-- DEADL (R232). -/
  | deadl (f : SeqArgs)
  /-- OBJOP (R262). -/
  | objop (f : SeqArgs)
  /-- PULSE_EMIT (R246). -/
  | pulseEmit (out : Nat) (fb : Option Edge)
  /-- PULSE_OUTPUT_ENABLE (R247). -/
  | pulseOutputEnable (out : Nat)
  /-- PULSE_CAL_DONE (R247). -/
  | pulseCalDone (out : Nat)
  /-- PERIODIC_MODE_SET (R248). -/
  | periodicModeSet (out : Nat)
  /-- FREEZE_EMIT (R249). -/
  | freezeEmit
  /-- PEEK (R260). -/
  | peek (r : EngReq)
  /-- READ (R260). -/
  | read (r : EngReq)
  /-- FILL (R260). -/
  | fill (r : EngReq)
  /-- SIGNAL (R260). -/
  | signal (r : EngReq)
  /-- WAITGE (R260). -/
  | waitge (r : EngReq)
  /-- DEC (R260). -/
  | dec (r : EngReq)
  /-- WDEC (R260). -/
  | wdec (r : EngReq)
  /-- REALIGN (R268). -/
  | realign (r : EngReq)
  /-- ARRIVE (R264). -/
  | arrive (r : EngReq)
  /-- SET (R260). -/
  | set (r : EngReq)
  /-- WACK (R265). -/
  | wack (tap tag : Nat)
  /-- FENCE_TIMEOUT (R267). -/
  | fenceTimeout
  /-- OBJECT_DEADLINE (R269). -/
  | objectDeadline
  /-- TRANSLATION_READ_DONE (R257). -/
  | translationReadDone (id : Nat) (bytes : List Nat) (bad : Bool)
  /-- OBJ_REQ_RECEIVE (R276). -/
  | objReqReceive (h : RxHead) (m : ObjReqMsg)
  /-- OBJ_RSP_RECEIVE (R276). -/
  | objRspReceive (h : RxHead) (m : ObjRspMsg)
  /-- REMOTE_TIMEOUT (R276). -/
  | remoteTimeout
  /-- LEND (R272). -/
  | lend
  /-- LEND_RETURN (R274). -/
  | lendReturn
  /-- RET_ACK (R274). -/
  | retAck (id : Nat)
  /-- DEADLOCK_DETECT (R275). -/
  | deadlockDetect
  /-- OD_WINDOW_READ (R280). -/
  | odWindowRead (m : Master) (off : Nat)
  /-- COLL_UP_RECEIVE (R286). -/
  | collUpReceive (h : RxHead) (m : CollUp)
  /-- COLL_DOWN_RECEIVE (R287). -/
  | collDownReceive (h : RxHead) (m : CollDown)
  /-- COLL_MOVE_RECEIVE (R303). -/
  | collMoveReceive (h : RxHead) (m : CollMove)
  /-- COLL_ABORT_RECEIVE (R300). -/
  | collAbortReceive (h : RxHead) (m : CollAbort)
  /-- COLL_REQ_RECEIVE (R302). -/
  | collReqReceive (h : RxHead) (q : CollReq)
  /-- GANG_CONTRIBUTION (R285). -/
  | gangContribution (pos : Nat) (m : GangMsg)
  /-- ORPHAN_COUNTER_FREE (R286). -/
  | orphanCounterFree
  /-- MOVE_TIMEOUT (R303). -/
  | moveTimeout
  /-- ISOLATED (R301). -/
  | isolated
  /-- COLLECTIVE_DEADLINE (R301). -/
  | collectiveDeadline
  /-- EGRESS_HANDOVER (R310). -/
  | egressHandover (p cyc : Nat)
  /-- TP_DEBT_CLR (R314). -/
  | tpDebtClr (v : Nat)
  /-- PROFILE_WRITE (R314). -/
  | profileWrite (off v : Nat)
  /-- SCORE_DECAY (R323). -/
  | scoreDecay
  /-- BUDGET_RECORD_EXPIRY (R327). -/
  | budgetRecordExpiry
  /-- ADMISSION_COMPLETE (R333). -/
  | admissionComplete (p : Nat)
  /-- INTERNAL_PARITY_FAILURE (R334). -/
  | internalParityFailure (f : ParityAt)
  /-- HF_WDOG_KICK (R336). -/
  | hfWdogKick (m : Master) (v : Nat)
  /-- WATCHDOG_EXPIRY (R336). -/
  | watchdogExpiry
  /-- FIRMWARE_TRAP (R375). -/
  | firmwareTrap
  /-- UNDERLAY_ENTRY (R338). -/
  | underlayEntry
  /-- HF_UL_ENTER (R337). -/
  | hfUlEnter
  /-- HF_UL_EXIT (R340). -/
  | hfUlExit
  /-- UNDERLAY_EXIT (R340). -/
  | underlayExit
  /-- POWER_ENTRY_ATTEMPT (R346). -/
  | powerEntryAttempt (member : Bool)
  /-- NAP_WAKE (R344). -/
  | napWake (src arg : Nat)
  /-- NAP_PLANNED_WAKE (R344). -/
  | napPlannedWake
  /-- THATCH_WAKE (R349). -/
  | thatchWake (src arg : Nat)
  /-- THATCH_TIMER_WAKE (R349). -/
  | thatchTimerWake
  /-- PW_WAKE (R356). -/
  | pwWake
  /-- TIME_REBUILD (R350). -/
  | timeRebuild (k cw : Nat) (temp : Int) (tempOk : Bool)
  /-- COMMAND_HANDOVER (R361). -/
  | commandHandover (slot header : Nat)
  /-- COMMAND_COMPLETION (R363). -/
  | commandCompletion
  /-- IRQ_COALESCE_TIMEOUT (R366). -/
  | irqCoalesceTimeout
  /-- BAD_OPCODE (R372). -/
  | badOpcode
  /-- GEN_IDENTIFY (R372). -/
  | genIdentify
  /-- GEN_STATUS (R372). -/
  | genStatus
  /-- TOPOLOGY_LOAD (R373). -/
  | topologyLoad
  /-- GEN_RESET (R372). -/
  | genReset
  /-- FW_LOAD (R375). -/
  | fwLoad
  /-- FW_START (R375). -/
  | fwStart
  /-- TIME_ACQUIRE (R115). -/
  | timeAcquire
  /-- TIME_RESTEP (R116). -/
  | timeRestep
  /-- TIME_SLEW_LIMIT (R118). -/
  | timeSlewLimit
  /-- TIME_DOMAIN_SELECT (R121). -/
  | timeDomainSelect
  /-- TIME_SWITCH_AT (R122). -/
  | timeSwitchAt
  /-- TIME_HOLDOVER_FORCE (R155). -/
  | timeHoldoverForce
  /-- TIME_EPOCH_SET (R140). -/
  | timeEpochSet
  /-- REF_CONFIGURE (R139). -/
  | refConfigure
  /-- REF_PRIORITY (R139). -/
  | refPriority
  /-- REF_LOOP_OPEN (R144). -/
  | refLoopOpen
  /-- REF_LOOP_CLOSE (R146). -/
  | refLoopClose
  /-- REF_CORRECT (R145). -/
  | refCorrect
  /-- INTERVAL_ARM (R227). -/
  | intervalArm
  /-- INTERVAL_ABORT (R223). -/
  | intervalAbort
  /-- SEQ_LOAD (R230). -/
  | seqLoad
  /-- SEQ_START (R236). -/
  | seqStart
  /-- SEQ_STOP (R238). -/
  | seqStop
  /-- SEQ_ARM (R251). -/
  | seqArm
  /-- SEQ_CANCEL (R251). -/
  | seqCancel
  /-- OBJ_CTX_DEFINE (R258). -/
  | objCtxDefine
  /-- OBJ_INIT (R258). -/
  | objInit
  /-- OBJ_CTX_CLEAR (R271). -/
  | objCtxClear
  /-- OBJ_CTX_RELEASE (R258). -/
  | objCtxRelease
  /-- OBJ_WAKE (R372). -/
  | objWake
  /-- OBJ_OP (R262). -/
  | objOp
  /-- COLL_DEFINE (R283). -/
  | collDefine
  /-- COLL_RELEASE (R283). -/
  | collRelease
  /-- COLL_ABORT (R301). -/
  | collAbort
  /-- PORT_CALIBRATE (R79). -/
  | portCalibrate
  /-- PORT_RETIRE (R331). -/
  | portRetire
  /-- PORT_RESTORE (R331). -/
  | portRestore
  /-- PORT_SPARE_ADMIT (R331). -/
  | portSpareAdmit
  /-- POWER_ENTER (R372). -/
  | powerEnter
  /-- PULSE_ARM (R248). -/
  | pulseArm
  /-- PULSE_CANCEL (R372). -/
  | pulseCancel
  /-- CLOCK_CLKOUT (R182). -/
  | clockClkout
  /-- CP_HOST_HB (R371). -/
  | cpHostHb
  /-- HOST_HEARTBEAT_TIMEOUT (R371). -/
  | hostHeartbeatTimeout
  /-- RING_ENABLE (R364). -/
  | ringEnable (v : Nat)
  /-- CP_OWN_WRITE (R370). -/
  | cpOwnWrite (m : Master) (v : Nat)
  /-- SB_MCTP_CONTROL (R377). -/
  | sbMctpControl (cmd data : Nat)
  /-- SB_COMMAND_REQUEST (R379). -/
  | sbCommandRequest (words : List Nat)
  /-- SB_REGISTER_READ (R378). -/
  | sbRegisterRead (off width : Nat)
  /-- SB_REGISTER_WRITE (R378). -/
  | sbRegisterWrite (off width value : Nat)
  /-- SB_PACKET_BAD (R377). -/
  | sbPacketBad (pec : Bool)
  /-- HOST_REQUEST (R391). -/
  | hostRequest (a : Access) (parityOk : Bool)
  /-- HOST_PORT_RESET (R391). -/
  | hostPortReset
  /-- HOST_PORT_RESET_RELEASE (R391). -/
  | hostPortResetRelease
  /-- MEMORY_READ_RESPONSE (R393). -/
  | memoryReadResponse (id : Nat) (bytes : List Nat) (bad : Bool)
  /-- MEMORY_WRITE_ACK (R393). -/
  | memoryWriteAck (id : Nat) (err : Bool)
  /-- MEMORY_TIMEOUT (R393). -/
  | memoryTimeout
  /-- GANG_CAL_TIMEOUT (R28). -/
  | gangCalTimeout (pos : Nat)
  /-- GANG_LINK_FAIL (R395). -/
  | gangLinkFail (lost : List Nat)
  /-- GC_IRQ_SET (R398). -/
  | gcIrqSet (v : Nat)
  /-- PF_CNT_CLR (R92). -/
  | pfCntClr (p : Nat)
  /-- TD_CNT_CLR (R130). -/
  | tdCntClr
  /-- RS_CNT_CLR (R163). -/
  | rsCntClr
  /-- CG_CNT_CLR (R184). -/
  | cgCntClr
  /-- BT_CNT_CLR (R207). -/
  | btCntClr
  /-- IM_CNT_CLR (R227). -/
  | imCntClr
  /-- SQ_CNT_CLR (R254). -/
  | sqCntClr
  /-- OD_CNT_CLR (R281). -/
  | odCntClr
  /-- CE_CNT_CLR (R307). -/
  | ceCntClr
  /-- TP_CNT_CLR (R321). -/
  | tpCntClr
  /-- HF_CNT_CLR (R342). -/
  | hfCntClr
  /-- PW_CNT_CLR (R358). -/
  | pwCntClr
  /-- CP_CNT_CLR (R381). -/
  | cpCntClr
  /-- GC_CNT_CLR (R408). -/
  | gcCntClr
  /-- TD_NOW_NS_READ (R42). -/
  | tdNowNsRead (m : Master)
  /-- REGISTER_WRITE (R7). -/
  | registerWrite (m : Master) (off width value : Nat)
  /-- GANG_LINK_CALIBRATION_DONE (R28). -/
  | gangLinkCalibrationDone (hops : List GangHop)
  /-- RXF_FCS_ERR (R87). -/
  | rxfFcsErr (h : RxBase) (bad : RxBad)
  deriving DecidableEq, Repr

end Sys2Proof
end

