-- ==== Sys2Proof/Machine/State.lean ====
section
/-! DEFINITION. Sys2Proof/Machine/State.lean: the state of the block as plain data, every piece of state the spec
names (INVENTORY.md, "State"), the queue of waiting commands, the outputs driven, and State.reset. -/
namespace Sys2Proof.Machine

/-! ### Pairs and triples of equal parts -/

/-- One value per time domain. -/
structure PerDom (α : Type) where
  a : α
  b : α
  deriving DecidableEq, Repr

/-- The value of a domain. -/
def PerDom.get {α : Type} (p : PerDom α) : Dom → α
  | .a => p.a
  | .b => p.b

/-- The pair with one domain's value replaced. -/
def PerDom.put {α : Type} (p : PerDom α) (d : Dom) (v : α) : PerDom α :=
  match d with
  | .a => { p with a := v }
  | .b => { p with b := v }

/-- One value per master of register accesses (R43). -/
structure PerMaster (α : Type) where
  host : α
  sideband : α
  cp : α
  deriving DecidableEq, Repr

/-- The value of a master. -/
def PerMaster.get {α : Type} (p : PerMaster α) : Master → α
  | .host => p.host
  | .sideband => p.sideband
  | .cp => p.cp

/-- The triple with one master's value replaced. -/
def PerMaster.put {α : Type} (p : PerMaster α) (m : Master) (v : α) : PerMaster α :=
  match m with
  | .host => { p with host := v }
  | .sideband => { p with sideband := v }
  | .cp => { p with cp := v }

/-! ### What the block drives at its ports -/

/-- The header of a sent Zudar frame (R101), or the header fields of a sent IEEE 1588 or ESMC frame. -/
structure SentHead where
  typ : Nat
  len : Nat
  dom : Dom
  rpl : Bool := false
  lseq : Nat := 0
  lack : Nat := 0
  seq : Nat := 0
  srcId : Nat := 0
  srcPort : Nat := 0
  course : Nat := 0
  /-- domainNumber and sourcePortIdentity of a 1588 frame: TD_PTP_DOM's entry, TD_CLOCK_ID, local port number + 1 (R96). -/
  domNum : Nat := 0
  clockId : Nat := 0
  clockPort : Nat := 0
  deriving DecidableEq, Repr

/-- Everything the block drives at its ports and pins. -/
inductive Output where
  /-- A frame on txf; `express` is txf_express (R70).  Its bytes, its words and txf_ins are those of Machine/Wire.lean. -/
  | frame (port : Nat) (head : SentHead) (body : Body) (express : Bool)
  /-- tx_ins_valid with the transmit time in 2^-16 ns; tx_ins_val and tx_ins_par follow from it by Machine/Wire.lean (R72). -/
  | insertion (port : Nat) (typ : Nat) (time : Int)
  /-- perf_evt: pulses on one line (R396). -/
  | perfEvt (line count : Nat)
  /-- perf_frz rises (R397). -/
  | freezeRise (id : Nat) (width : Nat)
  /-- A pulse output rises at a vernier setting after a timing edge, counted in cycles since the epoch, and stays high
  for a number of cycles (R246). -/
  | pulse (out grid vernier width : Nat)
  /-- A launch line of a tap changes level (R201). -/
  | launchLine (tap line : Nat) (level : Bool)
  /-- nsw_req of a tap changes level (R202). -/
  | nsw (tap : Nat) (level : Bool)
  /-- obj_rsp at a tap (R259). -/
  | objRsp (tap rtag result value : Nat)
  /-- bar_rsp at every enabled tap (R264). -/
  | barRsp (tap : Nat) (handle : Nat) (phase : Bool)
  /-- lend_valid (R273). -/
  | lend (id tap ret : Nat)
  /-- ret_valid (R273). -/
  | lendRet (id : Nat) (early : Bool)
  /-- mreq_valid for a read (R392). -/
  | memRead (id addr beats : Nat)
  /-- mreq_valid with its write data, little-endian bytes (R392). -/
  | memWrite (id addr : Nat) (bytes : List Nat)
  /-- A response on the host port (R390). -/
  | hostRsp (data : Nat) (err : Bool)
  /-- An answer on the sideband: kind and contents (R377 to R379). -/
  | sbAnswer (kind : Nat) (status : Nat) (data : List Nat)
  /-- A step digest sent to the gang leader (R241). -/
  | gangDigest (step digest : Nat)
  /-- A partial sent to the gang leader (R285). -/
  | gangPartial (m : CollUp)
  /-- Another message on the gang link: to the leader, or from the leader to every member. -/
  | gangSend (m : GangMsg)
  /-- pw_state (R356). -/
  | pwState (st : Nat)
  /-- CLKOUT starts with a setting, or is held low; `high` and `lo` are the source cycles of its two halves, 0 and 0 where it
  follows the source edge for edge or carries pulses (R180 to R182). -/
  | clkout (setting high lo : Nat) (low : Bool)
  /-- A pulse of 64 timing cycles on CLKOUT (R180). -/
  | clkoutPulse (src : Nat)
  /-- The keepalive of a course on the gang ports that are connected (R395). -/
  | gangKeepalive (ga gb : Bool)
  deriving DecidableEq, Repr

/-! ### Clock generation (spec/06_clock_generation.md) -/

/-- Where the block stands between the release of por_n and its first course (R164, R171, R383, R400). -/
inductive Phase where
  /-- por_n is low. -/
  | held
  /-- An invalid role strap (R383). -/
  | roleErr
  /-- Counting oscillator cycles (R164). -/
  | oscCount
  /-- Waiting for the first lock of both PLLs (R171). -/
  | pllWait
  /-- The time counter runs. -/
  | running
  /-- A PLL failed both start attempts (R171). -/
  | stuck
  deriving DecidableEq, Repr

/-- Clock generation. -/
structure ClockGen where
  phase : Phase := .held
  oscGood : Bool := false
  oscCnt : Nat := 0
  /-- CG_STAT.MON_OK. -/
  monOk : Bool := false
  tLock : Bool := false
  lLock : Bool := false
  tFail : Bool := false
  lFail : Bool := false
  tLockT : Nat := 0
  lLockT : Nat := 0
  lclkFb : Bool := false
  /-- Boundary count at which TPLL_LOCK last returned in service (R174). -/
  relock : Option Nat := none
  /-- Level of the oven-ready flag. -/
  ovenLevel : Bool := false
  /-- The flag has been high since the last tick. -/
  ovenAll : Bool := false
  ovenCnt : Nat := 0
  ovenOk : Bool := false
  /-- Start attempts that have failed since the PLL was enabled (R171). -/
  tTry : Nat := 0
  lTry : Nat := 0
  /-- Open gates, one bit per group (R175). -/
  gates : BitVec 12 := 0
  /-- Source pulses since the last pulse on CLKOUT (R180), and whether CLKOUT is held low (R181). -/
  coN : Nat := 0
  coLow : Bool := true
  deriving DecidableEq, Repr

/-- The course number, the timing cycle within the course and the count of course boundaries since reset
(R46, R48). -/
structure CourseClock where
  course : Nat := 0
  cyc : Nat := 0
  ticks : Nat := 0
  deriving DecidableEq, Repr

/-! ### Time (spec/02, spec/04, spec/05) -/

/-- The five values that a read of TD_NOW_NS latches (R42). -/
structure NowLatch where
  ns : Nat := 0
  frac : Nat := 0
  sec : Nat := 0
  epoch : Nat := 0
  stat : Nat := 0
  deriving DecidableEq, Repr

/-- The states of a domain servo (R113). -/
inductive ServoState where
  | none | freq | ready | track | hold
  deriving DecidableEq, Repr

/-- One of the samples from which FREQ forms a rate (R113): the sample, the sum of R_out over all courses up to it,
and the boundary count. -/
structure FreqPoint where
  th : Int
  rSum : Int
  ticks : Nat
  deriving DecidableEq, Repr

/-- A domain servo with its holdover record and its loop (R110 to R114, R144 to R157) (log entry 13). -/
structure Servo where
  st : ServoState := .none
  /-- P_x in 2^-64 ns. -/
  p : Int := 0
  /-- F_x in 2^-48. -/
  f : Int := 0
  /-- B_x in 2^-16 ns. -/
  b : Int := 0
  eps : Int := 0
  locked : Bool := false
  lockRun : Nat := 0
  unlockRun : Nat := 0
  lockTick : Nat := 0
  skipRun : Nat := 0
  freqPts : List FreqPoint := []
  seeded : Bool := false
  /-- FREQ waits for its first sample after a restart of its count (R113). -/
  first : Bool := false
  /-- Latest sample of each uplink since the previous update, by local port. -/
  th : Map Int := []
  /-- Latest hardware sample (RS_x_SAMPLE). -/
  latest : Int := 0
  te : Nat := 0xFFFFFFFF
  upd : Nat := 0
  bridged : Bool := false
  follow : Bool := false
  /-- RS_x_ENTRY, F0, TE0, T0. -/
  entry : Nat := 0
  f0 : Int := 0
  te0 : Nat := 0
  t0 : Int := 0
  /-- Course from which the oscillator model counts (R149, R153). -/
  model : Nat := 0
  /-- The growing estimate in 2^-16 ps and its remainder (R157). -/
  teAcc : Nat := 0
  teRem : Nat := 0
  synt : Bool := false
  /-- The syntonising source and its frequency at its start (R153). -/
  syntSrc : Nat := 15
  syntF : Int := 0
  forced : Bool := false
  /-- Last values of F_x in TRACK, newest first (R147). -/
  fLast : List Int := []
  openLoop : Bool := false
  /-- A phase correction and a rate correction that wait (R145). -/
  corrP : Option Int := none
  corrR : Option Int := none
  /-- Boundary count of the opening or of the last phase correction (R144). -/
  openTick : Nat := 0
  corrCnt : Nat := 0
  /-- Sources by R138: candidate indexes, 15 none. -/
  freqSrc : Nat := 15
  timeSrc : Nat := 15
  /-- BO, and the millionths of 2^-16 ns that its moves toward 0 have still to make (R142). -/
  bo : Int := 0
  boRem : Nat := 0
  /-- The pair of the last sample delivered at a root, PPSIN and REFIN, and that sample (R142, R162). -/
  pair : Option (Nat × Nat) := none
  lastRef : Int := 0
  /-- ref.loop_open and ref.loop_close that wait for the boundary (R144, R146). -/
  openReq : Bool := false
  closeReq : Bool := false
  deriving DecidableEq, Repr

/-- A pending switch plan (R122, R123). -/
structure Plan where
  id : Nat
  target : Dom
  course : Nat
  deriving DecidableEq, Repr

/-- The time counter and the domain engine. -/
structure TimeState where
  acq : Bool := false
  steps : Nat := 0
  sel : Dom := .a
  slew : Bool := false
  rOut : Int := 0
  /-- The rate at which the timing clock runs in the present course: a new R_out takes effect one tick after the update
  that sets it (R168). -/
  rEff : Int := 0
  /-- Sum of R_out over all courses since reset (R113). -/
  rSum : Int := 0
  /-- Rotator steps still to move (R169). -/
  rot : Nat := 0
  te : Nat := 0xFFFFFFFF
  dom : PerDom Servo := { a := {}, b := {} }
  now : PerMaster NowLatch := { host := {}, sideband := {}, cp := {} }
  /-- The domain named for acquisition (R115). -/
  acqDom : Option Dom := none
  /-- A commanded re-step (R116). -/
  restep : Bool := false
  /-- The sample whose delivery is the step edge, with its domain (R115). -/
  stepDue : Option (Dom × Int) := none
  plan : Option Plan := none
  /-- TD_PLAN, TD_PLAN_ID, target and outcome of the pending or last plan. -/
  planCourse : Nat := 0
  planId : Nat := 0
  planTarget : Dom := .a
  outcome : Nat := 0
  wide : Bool := false
  late : Bool := false
  nextPlan : Nat := 0
  nextEvent : Nat := 0
  /-- The last 16 pairs of broadcast type and ID acted on, newest first (R109). -/
  seen : List (Nat × Nat) := []
  /-- time.domain_select waiting for the boundary, and what it answered there (R121). -/
  selReq : Option Dom := none
  selOk : Option Bool := none
  /-- Cycle at which the rotation began in the running course (R169). -/
  rotCyc : Nat := 0
  /-- An interval has been clamped to s64 (R37): no register shows it (log entry 61). -/
  ivClamp : Bool := false
  /-- The latest Announce of each domain (R100). -/
  ann : PerDom (Option AnnounceBody) := { a := none, b := none }
  deriving DecidableEq, Repr

/-- The states of a candidate (R137). -/
inductive CandState where
  | off | lost | disq | qualifying | qualified
  deriving DecidableEq, Repr

/-- A candidate clock (R131 to R139). -/
structure Cand where
  st : CandState := .off
  jumps : Nat := 0
  /-- Phase accumulated without wrapping, one entry per course, newest first, in 1/5 of 2^-16 ns; at most 1,025. -/
  hist : List Int := []
  /-- Phase of the last course with an edge. -/
  phi : Option Int := none
  /-- Frequency in 2^-48 (R135). -/
  freq : Int := 0
  /-- Courses in a row with an edge; for a PPSIN, edges in a row at the right distance. -/
  run : Nat := 0
  /-- Boundary count at the entry into the state. -/
  since : Nat := 0
  /-- A failure and a loss seen in the running course. -/
  fail : Bool := false
  loss : Bool := false
  /-- The last edge timed: its stamp in 2^-16 ns after R133. -/
  edge : Option Int := none
  /-- PPSIN: boundary count of the last edge. -/
  ppsTick : Option Nat := none
  /-- REFIN: edges counted since reset, and the count at the last edge timed. -/
  edges : Nat := 0
  idx : Nat := 0
  /-- Uplink: the QL last received, and that it was received as DNU (R160). -/
  qlRx : Nat := 15
  dnu : Bool := false
  deriving DecidableEq, Repr

/-- The anchor of a PPSIN-REFIN pair (R140): seconds, stamp of the edge, and the edge count of the REFIN there. -/
structure Anchor where
  sec : Nat
  stamp : Int
  base : Nat
  deriving DecidableEq, Repr

/-- The ageing window (R151): its start, the selected domain, the number of points and the sums of the fit. -/
structure AgeWindow where
  start : Nat := 0
  dom : Dom := .a
  valid : Bool := false
  n : Nat := 0
  sx : Int := 0
  sy : Int := 0
  sxx : Int := 0
  sxy : Int := 0
  deriving DecidableEq, Repr

/-- The reference selector (log entry 13). -/
structure Refs where
  cand : Map Cand := []
  anchors : Map Anchor := []
  /-- TAI seconds of the next PPS edge (R140). -/
  epoch : Option Nat := none
  /-- RS_EPOCH. -/
  epochSec : Nat := 0
  temp : Int := 0
  tempBad : Bool := false
  age : AgeWindow := {}
  /-- ESMC quality level last reported, for event PDUs (R83). -/
  qlSent : Nat := 15
  deriving DecidableEq, Repr

/-! ### Ports (spec/03, spec/12, spec/13) -/

/-- The roles of the topology table (R92, PF_STAT.ROLE). -/
inductive PortRole where
  | unused | homeUp | crossUp | crossDown | child
  deriving DecidableEq, Repr

/-- The health states of a channel (R342, HF_PVIEW.STATE). -/
inductive Health where
  | live | probation | retired | admitting | noTree
  deriving DecidableEq, Repr

/-- A 16-byte stamp record as its two 64-bit halves (R84). -/
structure StampRec where
  lo : Nat := 0
  hi : Nat := 0
  deriving DecidableEq, Repr

/-- The stamp kept for one receive mark identity (R68), and how many frames lost theirs to a reuse. -/
structure MarkSlot where
  stamp : Option Int := none
  cgen : Nat := 0
  miss : Bool := false
  waiting : Bool := false
  lost : Nat := 0
  /-- Its edge, in converter codes since reset. -/
  at_ : Nat := 0
  deriving DecidableEq, Repr

/-- A stamp with the constants generation it was formed with. -/
structure Stamp where
  t : Int
  cgen : Nat
  bad : Bool
  deriving DecidableEq, Repr

/-- A frame queued for egress, with its number when it is a retransmission. -/
structure QFrame where
  body : Body
  retx : Option Nat := none
  /-- Deferred to a later T window, and counted (R316). -/
  deferred : Bool := false
  deriving DecidableEq, Repr

/-- A frame handed over that waits for its transmit mark (R65). -/
structure TxWait where
  typ : Nat
  seq : Nat
  proto : Bool
  express : Bool
  deriving DecidableEq, Repr

/-- An entry of the replay buffer (R86). -/
structure RplEntry where
  lseq : Nat
  body : Body
  deriving DecidableEq, Repr

/-- The replay buffer and the link sequence of a port (R86 to R90, R312). -/
structure Replay where
  next : Nat := 0
  entries : List RplEntry := []
  /-- Next expected number. -/
  expect : Nat := 0
  /-- Received frames not yet acknowledged. -/
  unacked : Nat := 0
  gap : Bool := false
  nakSent : Bool := false
  failRun : Nat := 0
  /-- First number of the attempt in progress. -/
  attempt : Option Nat := none
  /-- Boundary count since which the oldest entry, or the attempt, waits. -/
  waitTick : Nat := 0
  /-- Express frames accepted past a held number, in order (R312). -/
  ahead : Nat := 0
  /-- The mark identity of the frame that holds the expected number, from the first acceptance past it (R312). -/
  held : Option Nat := none
  deriving DecidableEq, Repr

/-- A 1588 exchange in progress at a lower end (R98). -/
structure LowerExch where
  seq : Nat
  t1 : Int
  t2 : Stamp
  t3 : Option Stamp := none
  rxTick : Nat
  srcClock : Nat
  srcPort : Nat
  /-- Delay_Req has been sent. -/
  asked : Bool := false
  /-- The port has been live in every course since the Sync. -/
  live : Bool := true
  /-- Steps of the output time since the four stamps (R115). -/
  shift : Int := 0
  deriving DecidableEq, Repr

/-- A 1588 exchange in progress at an upper end (R97, R98). -/
structure UpperExch where
  t1 : Option Stamp := none
  seq : Nat := 0
  /-- Delay_Req received: number, t4, requester, boundary count. -/
  t4 : Option Stamp := none
  reqSeq : Nat := 0
  reqClock : Nat := 0
  reqPort : Nat := 0
  reqTick : Nat := 0
  deriving DecidableEq, Repr

/-- A running or finished fibre calibration of a port (R79). -/
structure PortCal where
  running : Bool := false
  n : Nat := 0
  lost : Nat := 0
  mean : Int := 0
  sdev : Nat := 0
  deriving DecidableEq, Repr

/-- A port front end with its queues and its channel. -/
structure Port where
  up : Bool := false
  rclkOk : Bool := false
  role : PortRole := .unused
  dom : Dom := .a
  fibLen : Nat := 0
  peerExp : Nat := 0
  rangeLo : Nat := 0
  rangeHi : Nat := 0
  /-- Constants in force (R75). -/
  txLat : Nat := 0
  rxLat : Nat := 0
  fib : Int := 0
  constPend : Bool := false
  cgen : Nat := 0
  peerSeen : Option Nat := none
  mmId : Bool := false
  mmRole : Bool := false
  lenWarn : Bool := false
  fibDelay : Nat := 0
  /-- A valid exchange has set the delay since the port came up (R105). -/
  fibDone : Bool := false
  /-- Rate of the recovered clock against the timing clock in 2^-48; PF_RCLK shows it in 2^-40. -/
  rclk : Int := 0
  /-- The phase of the recovered clock in the last course with an edge, and its phase accumulated without wrapping, one entry
  per course, newest first, in 1/5 of 2^-16 ns; at most 1,025 (R81). -/
  rclkPhi : Option Int := none
  rclkHist : List Int := []
  marks : Map MarkSlot := []
  lastRx : Option Nat := none
  lastTx : Option Nat := none
  txWait : List TxWait := []
  /-- The last frame marked on transmit: type, number (R74). -/
  lastMarked : Option TxWait := none
  /-- The last transmit record written to the stamp log, with its address (R74, R85). -/
  lastLog : Option (Nat × StampRec) := none
  fifo : List StampRec := []
  latch : PerMaster StampRec := { host := {}, sideband := {}, cp := {} }
  rpl : Replay := {}
  xq : List QFrame := []
  cq : List QFrame := []
  tq : List QFrame := []
  /-- X frames that wait at their producers (R310), and C frames that wait for space in the shared store (R89). -/
  xWait : List QFrame := []
  cWait : List QFrame := []
  /-- Bucket levels in 1/256 byte (R313). -/
  cLevel : Int := 0
  tLevel : Int := 0
  /-- Timing cycle up to which the buckets have been filled. -/
  bktCyc : Nat := 0
  lower : Option LowerExch := none
  upper : UpperExch := {}
  /-- Frames sent per message type (R96, R101). -/
  seqs : Map Nat := []
  /-- Course, plus 1, in which each periodic type was last sent. -/
  lastSent : Map Nat := []
  /-- Boundary count at which the port last came up (R104). -/
  upTick : Nat := 0
  /-- The loss timer has started; boundary count of the last valid KEEPALIVE (R105). -/
  kaTick : Option Nat := none
  lossDecl : Bool := false
  kaStatus : Nat := 0
  kaTe : Nat := 0
  kaSeen : Bool := false
  cal : PortCal := {}
  health : Health := .noTree
  score : Nat := 0
  reason : Nat := 0
  chg : Nat := 0
  /-- A candidate for retirement: reason code (R324). -/
  cand : Nat := 0
  /-- A commanded retirement, return to live or admission that waits for the boundary (R331). -/
  cmdRetire : Bool := false
  cmdLive : Bool := false
  cmdAdmit : Bool := false
  /-- Boundary count since which the admission hold runs (R333). -/
  admitAt : Option Nat := none
  deriving DecidableEq, Repr

/-! ### Collective engine (spec/11_collectives.md) -/

/-- A final outcome at an eave: 0 is completion, otherwise the reason of R301. -/
structure CollOutcome where
  reason : Nat
  status : Nat := 0
  step : Nat := 0
  results : List Nat := []
  deriving DecidableEq, Repr

/-- An instance in flight at an eave (R284, R285, R288). -/
structure Inst where
  isn : Nat
  attempt : Nat := 0
  /-- The contribution log. -/
  data : UpData
  step : Nat := 0
  /-- A lane count that differs from LANES: no COLL_UP is sent (R284). -/
  mism : Bool := false
  deadline : Option Nat := none
  /-- The deadline request has been raised. -/
  asked : Bool := false
  /-- Boundary count of the contribution or of the last move. -/
  tick : Nat := 0
  /-- The log waits for a live rafter (R303, R330). -/
  held : Bool := false
  /-- The outcome that has arrived and is applied at the boundary (R287). -/
  out : Option CollOutcome := none
  /-- At a gang leader: every member's contribution is folded into the log (R285). -/
  gathered : Bool := false
  /-- The candidate of PHASE 1 (R294). -/
  cand : Option Ballot := none
  deriving DecidableEq, Repr

/-- A collective handle (R283). -/
structure Handle where
  cid : Nat
  group : Nat
  dom : Dom
  op : Nat
  fmt : Nat
  rfmt : Nat
  lanes : Nat
  move : Bool
  sat : Bool
  arriveObj : Option Nat := none
  doneObj : Option Nat := none
  /-- Next instance number. -/
  isn : Nat := 0
  insts : List Inst := []
  /-- Deadline course held for the next instance (R243). -/
  deadline : Option Nat := none
  /-- Moves for instances not yet contributed: instance and attempt (R303). -/
  early : List (Nat × Nat) := []
  /-- STATUS of the last completion (R307). -/
  lastStatus : Nat := 0
  /-- The last four outcomes, newest first: instance and outcome (R303, R307). -/
  recent : List (Nat × CollOutcome) := []
  deriving DecidableEq, Repr

/-- A contribution that waits for a free place among the instances in flight (R284). -/
structure HeldContrib where
  h : Nat
  data : UpData
  step : Nat
  lanes : Nat
  deriving DecidableEq, Repr

/-- A tree counter of a ridge with its reduction slot (R286, R294). -/
structure TreeCtr where
  par : CollParams
  attempt : Nat
  ports : List Nat := []
  count : Nat := 0
  lanes : List Lane := []
  ballot : Ballot := {}
  step : Nat := 0
  /-- KIND 2: the candidate, the ports delivered and the sum of MATCH. -/
  match2 : Option Ballot := none
  ports2 : List Nat := []
  count2 : Nat := 0
  slot : Bool := false
  /-- Boundary count of the last progress. -/
  tick : Nat := 0
  sentUp : Bool := false
  deriving DecidableEq, Repr

/-- A move decided or relayed by a ridge, with the group when it is known and the boundary count (R303). -/
structure MoveRec where
  m : CollMove
  group : Option Nat
  own : Bool
  tick : Nat
  /-- Already resent or sent on these ports. -/
  ports : List Nat
  deriving DecidableEq, Repr

/-- A group of the topology in force (R282). -/
structure Group where
  ports : List Nat
  m : Nat
  deriving DecidableEq, Repr

/-- The last abort seen (R307). -/
structure AbortRec where
  cid : Nat := 0
  isn : Nat := 0
  reason : Nat := 0
  originId : Nat := 0
  port : Nat := 0
  deriving DecidableEq, Repr

/-- The collective engine (log entry 13). -/
structure Coll where
  handles : Map (Option Handle) := []
  held : List HeldContrib := []
  ctrs : List TreeCtr := []
  moves : List MoveRec := []
  groups : Map (Option Group) := []
  last : AbortRec := {}
  /-- Members' contributions at the gang leader that wait for the others: position and partial (R285). -/
  gangWait : List (Nat × CollUp) := []
  /-- Instances decided at this authority root, with the boundary count: a later request is ignored (R300). -/
  closed : List (Nat × Nat × Nat) := []
  /-- Result reports that wait for a live rafter of a domain (R303). -/
  heldReps : List (Dom × CollUp) := []
  deriving DecidableEq, Repr

/-! ### Object store (spec/10_sync_objects.md) -/

/-- A slot (R256); WAIT and STALE are formed at the read. -/
structure Slot where
  kind : Nat := 0
  full : Bool := false
  drift : Bool := false
  phase : Bool := false
  gen : Nat := 0
  ctx : Nat := 0
  last : Nat := 0
  c : Nat := 0
  p : Nat := 0
  value : Nat := 0
  deriving DecidableEq, Repr

/-- The states of a context (R270). -/
inductive CtxState where
  | undef | active | scrub
  deriving DecidableEq, Repr

/-- A context (R257, R270, R271, R275). -/
structure Ctx where
  st : CtxState := .undef
  gen : Nat := 0
  ovf : Bool := false
  /-- Segments: base slot and length. -/
  segs : List (Nat × Nat) := []
  clear : Nat := 0
  /-- A request of the context completed in the running course. -/
  done : Bool := false
  /-- Boundary count since which the context is blocked at every boundary. -/
  blocked : Option Nat := none
  reported : Bool := false
  deriving DecidableEq, Repr

/-- A queued waiter (R264, R272). -/
structure Waiter where
  id : Nat
  tap : Nat
  rtag : Nat
  handle : Nat
  slot : Nat
  op : Nat
  operand : Nat
  deadline : Option Nat := none
  lend : Bool := false
  /-- Boundary count at which it was queued. -/
  tick : Nat := 0
  /-- Its place among the waiters and partial barriers of the store, in order of age (R275). -/
  ord : Nat := 0
  deriving DecidableEq, Repr

/-- A lend: the waiter's index, tap, return course, and whether it has been returned early and awaits ret_ack with
the response it holds (R272 to R274). -/
structure Lend where
  id : Nat
  tap : Nat
  ctx : Nat
  ret : Nat
  early : Bool := false
  rsp : Option (Nat × Nat × Nat × Nat) := none
  deriving DecidableEq, Repr

/-- A fenced request that waits for its acknowledgement (R265, R267). -/
structure Fenced where
  op : Nat
  req : EngReq
  tick : Nat
  course : Nat
  deriving DecidableEq, Repr

/-- A remote request without response (R276). -/
structure RemoteReq where
  tap : Nat
  rtag : Nat
  ctx : Nat
  tick : Nat
  deriving DecidableEq, Repr

/-- What a translation gives (R257, R279). -/
inductive TransRes where
  | slot (k : Nat)
  | fail
  | parity
  deriving DecidableEq, Repr

/-- A translation read in progress; the key is context × 65,536 + local number. -/
structure TransRead where
  key : Nat
  who : TransFor
  deriving DecidableEq, Repr

/-- A request of an engine that waits behind an earlier one of its tap (R263). -/
structure TapReq where
  op : Nat
  req : EngReq
  course : Nat
  deriving DecidableEq, Repr

/-- The object store. -/
structure Objs where
  slots : Map Slot := []
  ctxs : Map Ctx := []
  waiters : List Waiter := []
  lends : List Lend := []
  /-- Acknowledgement boards: key tap × 256 + tag. -/
  boards : Map Bool := []
  fenced : List Fenced := []
  remote : List RemoteReq := []
  reads : List TransRead := []
  tapQ : List TapReq := []
  /-- The translation that the waiting OBJOP, and the waiting command, have been given. -/
  progRes : Option (Nat × TransRes) := none
  cmdRes : Map (Option TransRes) := []
  /-- Translation cache, newest first: context × 65,536 + local number, slot. -/
  cache : List (Nat × Nat) := []
  /-- Barriers with a partial count, oldest first: slot, handle and place in order of age (R275). -/
  part : List (Nat × Nat × Nat) := []
  /-- The place in order of age that the next waiter or partial barrier takes (R275). -/
  nextOrd : Nat := 0
  dlk : Bool := false
  dlkCtx : Nat := 0
  dlkCount : Nat := 0
  dlkCourse : Nat := 0
  dlkW : List Nat := []
  latch : PerMaster (Option (Nat × Nat)) := { host := none, sideband := none, cp := none }
  /-- Stopped by Underlay mode (R278). -/
  stopped : Bool := false
  deriving DecidableEq, Repr

/-! ### Health and Underlay (spec/13_faults.md) -/

/-- A counted retirement (R327). -/
structure RetRec where
  course : Nat
  reason : Nat
  score : Nat
  port : Nat
  deriving DecidableEq, Repr

/-- The health manager beyond the ports (log entry 21). -/
structure HealthMgr where
  rets : List RetRec := []
  alarmLast : Bool := false
  alarmBudget : Bool := false
  score : Nat := 0
  lastUnit : Nat := 0
  active : Bool := false
  pend : Bool := false
  cause : Nat := 0
  unit : Nat := 0
  more : Nat := 0
  course : Nat := 0
  /-- A cause has arisen in the running course (R341). -/
  newCause : Bool := false
  exitAcc : Bool := false
  /-- The firmware has kicked since it was last started (R340). -/
  kicked : Bool := false
  /-- Courses since the watchdog was last restarted; none while it does not run (R336). -/
  wdog : Option Nat := none
  deriving DecidableEq, Repr

/-- The gang (R27 to R31, R395). -/
structure Gang where
  inGang : Bool := false
  calibrated : Bool := false
  /-- The hops to the leader as calibrated (R28). -/
  hops : List GangHop := []
  /-- The number that the leader gives the gang. -/
  num : Nat := 0
  /-- The endpoint is lost from both trees until the gang is reset (R31). -/
  dead : Bool := false
  miss : Nat := 0
  /-- Positions of the members still in the gang. -/
  members : List Nat := []
  leader : Nat := 0
  /-- Positions that have failed and leave at the next boundary (R31). -/
  lost : List Nat := []
  deriving DecidableEq, Repr

/-! ### Memory master port (spec/16_integration.md) -/

/-- What a memory request serves (R393). -/
inductive MemUse where
  /-- A completion ring entry of a slot (R364). -/
  | ring (slot : Nat)
  /-- A stamp record (R85). -/
  | log
  /-- A translation read: context × 65,536 + local number (R257). -/
  | trans (key : Nat)
  /-- A read of a long command: its slot and the byte offset of the data (R373, R375, R230). -/
  | cmd (slot : Nat) (offset : Nat)
  deriving DecidableEq, Repr

/-- A request on the memory master port. -/
structure MemReq where
  id : Nat
  use : MemUse
  addr : Nat
  beats : Nat
  /-- Read: bytes received so far. -/
  got : List Nat := []
  bytes : List Nat := []
  tick : Nat
  deriving DecidableEq, Repr

/-- The memory master port: requests outstanding, and requests that wait for a free identity. -/
structure MemPort where
  reads : List MemReq := []
  writes : List MemReq := []
  waitR : List MemReq := []
  waitW : List MemReq := []
  deriving DecidableEq, Repr

/-! ### Batten chain (spec/07_batten_chain.md) -/

/-- The states of a tap (R191). -/
inductive TapState where
  | off | cal | acq | track | free | fail
  deriving DecidableEq, Repr

/-- A mark as a tap has it: AGE at the sender's send edge, in 2^-16 ns (R192). -/
structure MarkWord where
  step : Bool
  course : Nat
  code : Nat
  age : Nat
  deriving DecidableEq, Repr

/-- A launch at a tap: its target in 2^-16 ns; once it has reached its firing edge, the code it ends with and the
edges since (R199 to R203). -/
structure Launch where
  line : Nat
  target : Int
  n : Nat
  tol : Nat
  win : Nat := 0
  cancelLate : Bool := false
  code : Nat := 0
  fireStr : Bool := false
  late : Bool := false
  after : Nat := 0
  /-- Edges after the firing edge at which the line falls: that of this launch, or the one it found high (R203). -/
  fall : Nat := 0
  deriving DecidableEq, Repr

/-- A word on its way down the chain (R192): a mark or a release on a crossing, an ARM or a CANCEL for a tap, or FILL. -/
inductive DownWord where
  | mark (x : Nat) (m : MarkWord)
  | release (x handle : Nat) (phase : Bool)
  | arm (tap line : Nat) (target : Int) (n tol : Nat)
  | cancel (tap line : Nat) (target : Int)
  | fill
  deriving DecidableEq, Repr

/-- A launch report (R203). -/
structure LaunchReport where
  tap : Nat
  line : Nat
  target : Int
  code : Nat
  late : Bool := false
  fireStr : Bool := false
  win : Nat := 0
  deriving DecidableEq, Repr

/-- A tap with its own crossing. -/
structure Tap where
  st : TapState := .off
  /-- Tap time in 2^-28 ns. -/
  t : Int := 0
  /-- PTRK in 2^-24 ns. -/
  ptrk : Nat := 0
  /-- stretch_ind was high at the last edge. -/
  str : Bool := false
  w : Nat := 0
  sigma : Nat := 0
  /-- The skew of the crossing in 2^-28 ns. -/
  skew : Int := 0
  xfail : Bool := false
  flagged : Bool := false
  flagTick : Nat := 0
  warn : Bool := false
  mis : Nat := 0
  err : Int := 0
  age : Nat := 0
  /-- Edges since the previous capture edge. -/
  since : Nat := 0
  /-- Course and TE code of the last mark applied. -/
  mark : Option (Nat × Nat) := none
  /-- A captured mark, applied at the next edge, and its course's number of edges M. -/
  pend : Option (MarkWord × Nat) := none
  /-- T at the last capture edge, and the time counted since, in 2^-28 ns: the hold of a relayed mark (R193). -/
  capT : Int := 0
  hold : Nat := 0
  armed : List Launch := []
  past : List Launch := []
  /-- Edges for which each line stays high. -/
  lines : Map Nat := []
  nsw : Bool := false
  /-- Stretched periods of the upstream neighbour since the previous word of this crossing. -/
  upStr : Nat := 0
  /-- The downward lane of this tap's crossing (R194): an ARM of which one word has been sent, and the words sent and
  not yet captured, each with its STRETCH count. -/
  xfer : Option (DownWord × Nat) := none
  wire : List (DownWord × Nat) := []
  /-- Words that this tap relays and that wait for the lane of a crossing below it, oldest first. -/
  q : List DownWord := []
  seq : Nat := 0
  rep : LaunchReport := { tap := 0, line := 0, target := 0, code := 0 }
  deriving DecidableEq, Repr

/-- The batten chain (log entry 13). -/
structure Batten where
  taps : Map Tap := []
  busy : Bool := false
  done : Bool := false
  calFail : Bool := false
  topoErr : Bool := false
  guardErr : Bool := false
  /-- The running calibration is that of BT_CTL.RECAL. -/
  recal : Bool := false
  recalPend : Bool := false
  disPend : Bool := false
  flag : BitVec 64 := 0
  warn : BitVec 64 := 0
  /-- The next mark is a MARK_STEP. -/
  stepNext : Bool := false
  ageMax : Nat := 0
  ageLast : Nat := 0
  /-- Words that wait at the head for the lane of a crossing, oldest first (R194). -/
  fly : List DownWord := []
  reports : List LaunchReport := []
  deriving DecidableEq, Repr

/-! ### Interval unit (spec/08_interval_unit.md) -/

/-- The states of the shot engine (IM_STAT.STATE). -/
inductive ImState where
  | idle | armed | running | done | aborted
  deriving DecidableEq, Repr

/-- An enabled stop slot of a measurement (R218). -/
structure StopCfg where
  k : Nat
  src : Nat
  edge : Nat
  n : Nat
  lo : Nat
  hi : Nat
  deriving DecidableEq, Repr

/-- A measurement as it was armed (R217, R224). -/
structure MeasCfg where
  src : Nat := 0
  edge : Nat := 0
  port : Nat := 0
  n : Nat := 1
  /-- IM_START_AT. -/
  at_ : Nat := 0
  slots : List StopCfg := []
  deriving DecidableEq, Repr

/-- How far a stop slot of the open shot has come: edges counted, and the end it has found: a stop, or a miss with
its CLOSE flag (R218). -/
structure StopRun where
  cfg : StopCfg
  cnt : Nat := 0
  stop : Option Int := none
  missed : Bool := false
  close : Bool := false
  deriving DecidableEq, Repr

/-- The open shot: its start time in 2^-16 ns. -/
structure Shot where
  start : Int
  slots : List StopRun
  deriving DecidableEq, Repr

/-- The statistics of a stop slot (R220). -/
structure Stat where
  n : Nat := 0
  missed : Nat := 0
  x0 : Int := 0
  s1 : Int := 0
  s2 : Int := 0
  lo : Int := 0
  hi : Int := 0
  last : Int := 0
  deriving DecidableEq, Repr

/-- The compatibility delay line (R225). -/
structure ZcUnit where
  lock : Bool := false
  /-- A START written before lock. -/
  held : Bool := false
  armed : Bool := false
  /-- The start: timing cycles since reset at the edge that sampled it, and its fine count. -/
  start : Option (Nat × Nat) := none
  done : Bool := false
  timeout : Bool := false
  coarse : Nat := 0
  fineStart : Nat := 0
  fineStop : Nat := 0
  result : Nat := 0
  code : Nat := 0
  deriving DecidableEq, Repr

/-- An edge of a source as the engine has it: its time in 2^-16 ns, and that its converter timed it. -/
structure PastEdge where
  src : Nat
  falling : Bool
  t : Int
  timed : Bool
  deriving DecidableEq, Repr

/-- The interval unit with the converters (log entry 13). -/
structure Imu where
  calReady : Bool := false
  /-- The converters whose calibration at reset is complete, before all of them are (R213). -/
  calDone : List Nat := []
  /-- The first recovered-clock edge of the running course at each port that times it: the port, and the edge's exact time in
  1/5 of 2^-16 ns (R81); and those of them that the shot engine has still to take, as source and time. -/
  rclk : List (Nat × Int) := []
  clkDue : List (Nat × Int) := []
  /-- The last edges that the engine has seen, all at one time (R223). -/
  recent : List PastEdge := []
  st : ImState := .idle
  reason : Nat := 0
  convFail : Bool := false
  armErr : Bool := false
  /-- Port that `port.calibrate` claims the engine for, and that its measurement has ended (R224). -/
  claim : Option Nat := none
  claimDone : Bool := false
  cfg : MeasCfg := {}
  shots : Nat := 0
  /-- Start time of shot 0. -/
  start0 : Int := 0
  shot : Option Shot := none
  /-- Time at which the last shot ended. -/
  ended : Option Int := none
  stats : Map Stat := []
  latch : PerMaster (Map Stat) := { host := [], sideband := [], cp := [] }
  raw : List StampRec := []
  rawLatch : PerMaster StampRec := { host := {}, sideband := {}, cp := {} }
  /-- Per pin: the last edge accepted, in converter codes since reset (R210). -/
  lastEdge : Map (Option Nat) := []
  /-- Failed ramps per converter: pins 0 to 21, then 32 + 2 × port for transmit and one more for receive (R215). -/
  ramps : Map Nat := []
  gen : Nat := 0
  inl : Nat := 0
  /-- A background calibration has ended; boundary count of the last one (R214). -/
  swapPend : Bool := false
  calTick : Nat := 0
  pad : Map Nat := []
  /-- A pad measurement waits for the boundary; the pins measured in the running course (R216). -/
  padPend : Bool := false
  padRun : List Nat := []
  zc : ZcUnit := {}
  deriving DecidableEq, Repr

/-! ### The sequencer, pulse outputs, freezes and events (spec/09_step_sequencer.md) -/

/-- The states of the sequencer (R235). -/
inductive SeqState where
  | idle | loaded | held | running | stopped | fault | diverged
  deriving DecidableEq, Repr

/-- Who armed a pulse or a freeze: the program, a command, or a LAUNCH event with its ID and target (R237, R248). -/
inductive ArmSrc where
  | program
  | host
  | event (id : Nat) (target : Int)
  deriving DecidableEq, Repr

/-- A pending one-shot pulse (R248). -/
structure PulseReq where
  target : Int
  width : Nat
  src : ArmSrc
  deriving DecidableEq, Repr

/-- A pulse output (R246 to R248). -/
structure PulseOut where
  cal : Bool := false
  /-- Calibration pulses still to emit. -/
  calLeft : Nat := 0
  /-- The calibration pulse that awaits its feedback edge, the sum of the delays measured, and how many. -/
  calAt : Option Int := none
  calSum : Int := 0
  calN : Nat := 0
  drv : Nat := 0
  err : Int := 0
  pending : List PulseReq := []
  /-- COUNT was 0 when periodic mode was set up. -/
  unlimited : Bool := false
  /-- Where the port edge of the last pulse is expected: its target less DELAY. -/
  expect : Option Int := none
  /-- Timing cycle since reset at which the output falls. -/
  fall : Nat := 0
  deriving DecidableEq, Repr

/-- A pending freeze: the timing cycle since the epoch at which it rises (R249). -/
structure FreezeReq where
  rise : Nat
  id : Nat
  src : ArmSrc
  target : Int := 0
  deriving DecidableEq, Repr

/-- A pending hall-wide event (R250, R251). -/
structure EventRec where
  id : Nat
  kind : Nat
  target : Int
  arg : Nat
  deriving DecidableEq, Repr

/-- Pulse outputs, the freeze line and the pending events. -/
structure EventUnit where
  pulses : Map PulseOut := []
  freezes : List FreezeReq := []
  /-- Rise of the last freeze. -/
  lastRise : Option Nat := none
  frzSeq : Nat := 0
  frzLast : Nat := 0
  frzId : Nat := 0
  events : List EventRec := []
  deriving DecidableEq, Repr

/-- What `seq.start` gives (R236). -/
structure StartReq where
  addr : Nat
  step : Nat
  course : Nat
  tol : Nat
  vote : Option Nat
  handle : Nat
  hold : Bool
  g : List Nat
  deriving DecidableEq, Repr

/-- An outstanding arm (R244). -/
structure ArmRec where
  tap : Nat
  line : Nat
  target : Int
  deriving DecidableEq, Repr

/-- The launch report counts that RDLR returns (R245). -/
structure ReportCounts where
  fired : Nat := 0
  late : Nat := 0
  refused : Nat := 0
  other : Nat := 0
  deriving DecidableEq, Repr

/-- The sequencer (log entry 13). -/
structure SeqUnit where
  st : SeqState := .idle
  code : Nat := 0
  pc : Nat := 0
  /-- SQ_STAT.WAIT, and that the wait of the present instruction has been counted. -/
  wait : Bool := false
  stalled : Bool := false
  /-- Course that a WAITC waits for. -/
  waitC : Option Nat := none
  step : Nat := 0
  startCourse : Nat := 0
  len : Nat := 0
  store : Map (BitVec 64) := []
  crc : Nat := 0
  /-- The running digest, and that of the last completed step. -/
  acc : Nat := 0
  digest : Nat := 0
  voteEn : Bool := false
  voteHandle : Nat := 0
  dref : Nat := 0
  dstep : Nat := 0
  n : Nat := 0
  tol : Nat := 0
  g : Map Nat := []
  /-- SQ_GATTR. -/
  agreed : BitVec 16 := 0
  arms : List ArmRec := []
  reports : ReportCounts := {}
  /-- Taps that an ARMM in progress still has to arm. -/
  armLeft : Option Nat := none
  start : Option StartReq := none
  /-- The course of `seq.stop`; 0 is the next boundary (R238). -/
  stop : Option Nat := none
  /-- Votes in flight that STEPEND contributed: instance number, step and digest (R239). -/
  votes : List (Nat × Nat × Nat) := []
  /-- At a gang leader: own digests that wait for the members', and members' digests: position, step, digest (R241). -/
  gangVotes : List (Nat × Nat) := []
  gangDigests : List (Nat × Nat × Nat) := []
  /-- At a gang member: its leader has said that the endpoint is DIVERGED, which the next boundary carries out (R235, R241). -/
  told : Bool := false
  /-- Collectives that the program has started: handle and instance number (R242). -/
  started : List (Nat × Nat) := []
  /-- Handles whose last contribution ended NODEF (R284). -/
  nodef : List Nat := []
  /-- SQ_HORIZON (R252). -/
  horizon : Option Nat := none
  deriving DecidableEq, Repr

/-! ### Power (spec/14_power.md) -/

/-- The power states (R343), and pw_state 3, waking from Thatch (R356). -/
inductive PowerState where
  | active | nap | thatch | waking
  deriving DecidableEq, Repr

/-- What is held through a sleep and served at the replay (R349, R354). -/
inductive HeldReq where
  | host (a : Access) (parityOk : Bool)
  | sb (m : SbMsg)
  | tap (op : Nat) (r : EngReq)
  deriving DecidableEq, Repr

/-- A wake event that found the latch full, with what it holds (R354). -/
structure LateWake where
  src : Nat
  arg : Nat
  req : HeldReq
  deriving DecidableEq, Repr

/-- The power controller. -/
structure Power where
  st : PowerState := .active
  /-- Something of R345 has occurred in the running course. -/
  busy : Bool := false
  /-- PW_IDLE. -/
  idle : Nat := 0
  /-- A request of power.enter, 1 Nap or 2 Thatch, and that an idle course has followed it. -/
  req : Nat := 0
  reqIdle : Bool := false
  /-- The state that an accepted attempt enters at this boundary: 0 none, 1 Nap, 2 Thatch. -/
  enter : Nat := 0
  lastRef : Nat := 0
  lastSt : Nat := 0
  dbgPin : Bool := false
  waitLock : Bool := false
  rebuilt : Bool := false
  /-- Course of the planned Nap wake. -/
  planned : Option Nat := none
  /-- PW_THATCH_ENTRY, PW_THATCH_CYC and PW_THATCH_TE. -/
  entry : Nat := 0
  cyc : Nat := 0
  te : Nat := 0
  /-- The wake latch in order: source and argument; events not recorded; the next event starts a new record. -/
  latch : List (Nat × Nat) := []
  ovf : Nat := 0
  fresh : Bool := true
  /-- What the recorded events hold, in order, and what the others hold. -/
  held : List HeldReq := []
  late : List LateWake := []
  /-- S_s in 1/5 of 2^-16 ns, and F_hold of the followed domain at entry (R348, R350). -/
  saved : Int := 0
  fEntry : Int := 0
  /-- In the sleep the oscillator was lost, or the oven flag fell (R351). -/
  oscLost : Bool := false
  ovenFell : Bool := false
  /-- The time has been loaded, and the next boundary is that of the first Active course. -/
  loaded : Bool := false
  deriving DecidableEq, Repr

/-! ### Command processor (spec/15_commands.md) -/

/-- The states of a command slot (R362). -/
inductive SlotState where
  | free | queued | running | done
  deriving DecidableEq, Repr

/-- A command slot: header word, parameter words by index 1 to 23, and the eight words of the reply area (R359). -/
structure CmdSlot where
  st : SlotState := .free
  header : Nat := 0
  params : Map Nat := []
  reply : List Nat := []
  /-- A sideband message whose length disagrees with LEN (R367). -/
  badLen : Bool := false
  deriving DecidableEq, Repr

/-- What a command completes with (R363). -/
structure Reply where
  status : Nat := 0
  detail : Nat := 0
  d : List Nat := []
  deriving DecidableEq, Repr

/-- A command accepted and not completed: its slot, its opcode, the words it was accepted with, the bytes it has read,
what it has still to read, and its reply once it is decided. -/
structure RunCmd where
  slot : Nat
  op : Nat
  p : List Nat
  long : Bool := false
  bytes : List Nat := []
  /-- Next address to read and bytes still to request. -/
  addr : Nat := 0
  left : Nat := 0
  /-- Reads outstanding. -/
  reads : Nat := 0
  failed : Bool := false
  reply : Option Reply := none
  /-- The eight words of the reply, once formed (R363). -/
  words : List Nat := []
  /-- The ring entry has been issued, or acknowledged; the wait for room has been counted. -/
  ring : Bool := false
  acked : Bool := false
  waited : Bool := false
  deriving DecidableEq, Repr

/-- CP_STAT.FW (R375). -/
inductive FwState where
  | rom | loading | running | trap
  deriving DecidableEq, Repr

/-- The command processor, the host port and the sideband (log entry 22). -/
structure CmdProc where
  /-- Slots 0 to 15 are the host's, 16 to 19 the sideband's. -/
  slots : Map CmdSlot := []
  /-- Slots QUEUED, in order of handover, per master. -/
  hostQ : List Nat := []
  sbQ : List Nat := []
  /-- The host is next when both masters have commands queued (R368). -/
  hostNext : Bool := false
  run : List RunCmd := []
  fw : FwState := .rom
  /-- Command processor memory by 64-bit word; the end of what has been loaded. -/
  mem : Map Nat := []
  memEnd : Nat := 0
  fwVer : Nat := 0
  hostDown : Bool := false
  /-- Boundary count of the last heartbeat (R371). -/
  hbTick : Nat := 0
  /-- hrst_n is low. -/
  hrst : Bool := false
  /-- Credits that the host holds (R391). -/
  credits : Nat := 16
  ringWr : Nat := 0
  /-- Completions counted toward the interrupt, and the boundary count of the first (R366). -/
  irqCnt : Nat := 0
  irqTick : Nat := 0
  /-- CP_SB_IANA. -/
  iana : Nat := 0
  /-- MCTP endpoint ID. -/
  eid : Option Nat := none
  /-- A gen.reset waits for the boundary: its unit mask. -/
  resetReq : Nat := 0
  /-- ref.priority waits for the boundary: candidate mask and priorities (R139). -/
  prioReq : Option (Nat × Nat) := none
  deriving DecidableEq, Repr

/-! ### The whole -/

/-- Why a step could fault.  No meaning of this model faults. -/
inductive Fault where
  /-- Raised by no meaning: kept so that the type is inhabited.  Safe: it cannot occur. -/
  | neverRaised
  deriving DecidableEq, Repr

/-- Why a step could be refused. -/
inductive Refusal where
  /-- A command whose meaning is not yet written, by its mnemonic.  Safe: the machine stops. -/
  | notModelled (mnemonic : String)
  deriving DecidableEq, Repr

/-- Boundary work that a command of its own has already done in the running course (log entry 3). -/
structure Did where
  phase : Bool := false
  decay : Bool := false
  servo : Bool := false
  plan : Bool := false
  power : Bool := false
  timer : Bool := false
  /-- The program's burst has run. -/
  seq : Bool := false
  deriving DecidableEq, Repr

/-- The state of the block. -/
structure State where
  ties : Ties := {}
  ck : ClockGen := {}
  clk : CourseClock := {}
  td : TimeState := {}
  rs : Refs := {}
  /-- Read-write registers by window offset; an unlisted one reads as its reset value. -/
  regs : Map (BitVec 64) := []
  /-- Counters by window offset; an unlisted one reads 0. -/
  cnt : Map (BitVec 32) := []
  irq : BitVec 32 := 0
  ports : Map Port := []
  root : Bool := false
  home : Dom := .a
  topo : Bool := false
  ce : Coll := {}
  od : Objs := {}
  hf : HealthMgr := {}
  pw : Power := {}
  gang : Gang := {}
  im : Imu := {}
  bt : Batten := {}
  sq : SeqUnit := {}
  ev : EventUnit := {}
  mm : MemPort := {}
  cp : CmdProc := {}
  did : Did := {}
  /-- PF_LOG_WR (R85). -/
  logWr : Nat := 0
  out : List Output := []
  /-- How many free values have been drawn. -/
  free : Nat := 0
  /-- The commands that wait, first in, first out. -/
  pending : List Instr := []
  deriving DecidableEq, Repr

/-- The block while por_n is held low: every register at its reset value (R400, R404) (log entries 6 and 13 and 22). -/
def State.reset : State := {}

end Sys2Proof.Machine
end

