-- ==== Sys2Proof/Decode.lean ====
section
/-! DEFINITION. Sys2Proof/Decode.lean: the reading of a word as a command.  The table of operations and events gives no
row any bits: the commands of the block are events at its ports and pins, not words. -/
namespace Sys2Proof

/-- The command that a word spells by the table's bits: no row of the table has bits, so none (log entry 14). -/
def decodeTableWord (_nbits _w : Nat) : Option Instr := none

end Sys2Proof
end

