-- ==== Sys2Proof/Machine/Ops.lean ====
section
/-! DEFINITION. Sys2Proof/Machine/Ops.lean: the named operations over registers, counters, causes, outputs, ports and
time that every family shares. -/
namespace Sys2Proof.Machine
open Sys2Proof.Config

/-! ### Registers and counters -/

/-- The stored value of a register: what was written, or its reset value (R404). -/
def State.rd (s : State) (r : Reg) : Nat := (s.regs.get (BitVec.ofNat 64 r.reset) r.off).toNat

/-- A field of a register. -/
def State.fl (s : State) (r : Reg) (lo w : Nat) : Nat := field (s.rd r) lo w

/-- A bit of a register. -/
def State.bit (s : State) (r : Reg) (i : Nat) : Bool := bitOf (s.rd r) i

/-- Store a value into the read-write bits of a register. -/
def State.wr (s : State) (r : Reg) (v : Nat) : State :=
  { s with regs := s.regs.set (BitVec.ofNat 64 r.reset) r.off (BitVec.ofNat 64 (v &&& r.mask)) }

/-- Store one field of a register. -/
def State.wrFld (s : State) (r : Reg) (lo w v : Nat) : State :=
  let old := s.rd r
  s.wr r (old - (field old lo w) * 2 ^ lo + (v % 2 ^ w) * 2 ^ lo)

/-- The value of a counter. -/
def State.counter (s : State) (off : Nat) : Nat := (s.cnt.get 0 off).toNat

/-- Add to a counter, modulo 2^32. -/
def State.count (s : State) (off : Nat) (k : Nat := 1) : State :=
  { s with cnt := s.cnt.set 0 off (s.cnt.get 0 off + BitVec.ofNat 32 k) }

/-- Set every counter of a range of offsets to 0 (the CNT_CLR registers). -/
def State.clearCounters (s : State) (lo hi : Nat) : State :=
  { s with cnt := s.cnt.clearRange lo hi }

/-! ### Causes, event lines, outputs -/

/-- Draw a free value: a value that the spec leaves open (log entry 5). -/
def State.drawFree (s : State) : State × Nat := ({ s with free := s.free + 1 }, (freeValue s.free).toNat)

/-- Raise an interrupt cause (R398) (log entry 58). -/
def State.raise (s : State) (k : Nat) : State := { s with irq := s.irq ||| BitVec.ofNat 32 (2 ^ k) }

/-- Raise an interrupt cause when a condition holds. -/
def State.raiseIf (s : State) (c : Bool) (k : Nat) : State := if c then s.raise k else s

/-- The irq output (R399) (log entry 1). -/
def State.irqLine (s : State) : Bool := (s.irq.toNat &&& s.rd GC_IRQ_EN) ≠ 0

/-- The level of sb_alert_n (R399) (log entry 1). -/
def State.sbAlertN (s : State) : Bool := (s.irq.toNat &&& s.rd GC_IRQ_SB_EN) = 0

/-- Drive something at the block's ports (log entry 1). -/
def State.emit (s : State) (o : Output) : State := { s with out := o :: s.out }

/-- `k` events of one line that coincide: one is issued and 8 more are queued, the rest are counted as lost (R396)
(log entry 58). -/
def State.evt (s : State) (line : Nat) (k : Nat := 1) : State :=
  if k = 0 then s
  else if k ≤ 9 then s.emit (.perfEvt line k)
  else (s.emit (.perfEvt line 9)).count GC_CNT_EVOVF (k - 9)

/-- A pulse of a source that CLKOUT may show: every DIV + 1-th is put out (R180) (log entry 28). -/
def State.clkoutPulse (s : State) (src : Nat) : State :=
  if s.bit CG_CLKOUT 31 = false ∨ s.fl CG_CLKOUT 24 5 ≠ src then s
  else if s.fl CG_CLKOUT 0 16 ≤ s.ck.coN then (({ s with ck := { s.ck with coN := 0 } } : State)).emit (.clkoutPulse src)
  else { s with ck := { s.ck with coN := s.ck.coN + 1 } }

/-- The high and the low half of a clock divided by `d`, in cycles of the source; with `d` = 1 the output follows the source
edge for edge (R181). -/
def clkHalves (d : Nat) : Nat × Nat := if d = 1 then (0, 0) else ((d + 1) / 2, d / 2)

/-- A source of pulses: the course tick and the PPS inputs (R180). -/
def clkPulses (src : Nat) : Bool := src = 5 || src = 10 || src = 11

/-- CLKOUT starts with the setting in force, or is held low (R181, R182). -/
def State.clkoutDrive (s : State) (low : Bool) : State :=
  let h := if clkPulses (s.fl CG_CLKOUT 24 5) then (0, 0) else clkHalves (s.fl CG_CLKOUT 0 16 + 1)
  ({ s with ck := { s.ck with coN := 0, coLow := low } } : State).emit (.clkout (s.rd CG_CLKOUT) h.1 h.2 low)

/-! ### Parity of the host and memory ports -/

/-- The even parity bit of the low 32 bits of a word (R16, R390, R392). -/
def parity32 (v : Nat) : Nat := (List.range 32).foldl (fun acc i => acc + bnat (bitOf v i)) 0 % 2

/-- Even parity per 32 bits over a number of words. -/
def parityWords (n v : Nat) : Nat := (List.range n).foldl (fun acc i => acc + parity32 (v >>> (32 * i)) * 2 ^ i) 0

/-- hreq_par of a request (R390). -/
def Access.par (a : Access) : Nat :=
  parityWords 2 a.data + 4 * (parity32 (a.addr % 2 ^ 24 * 4 + bnat a.write * 2 + bnat a.wide))

/-- hrsp_par of a response (R390). -/
def hrspPar (data : Nat) : Nat := parityWords 2 data

/-! ### Role and presence -/

/-- The strap names an eave (R382). -/
def State.isEave (s : State) : Bool := s.ties.strap = 1
/-- The strap names a ridge (R382). -/
def State.isRidge (s : State) : Bool := s.ties.strap = 2
/-- Local ports of the role (R1, R408). -/
def State.nPorts (s : State) : Nat := if s.isEave then 2 else if s.isRidge then 512 else 0
/-- A root ridge (R132). -/
def State.isRoot (s : State) : Bool := s.isRidge && s.root
/-- Own identity in the 24-bit form of the topology table (R384); a gang has its leader's (spec/01_architecture.md,
"Ganging"). -/
def State.ownId (s : State) : Nat :=
  (if s.isRidge then 0x100000 else 0) + (if s.gang.inGang then s.gang.num else s.ties.idNum) % 0x100000
/-- The main logic runs: the time counter runs and the block is not in Thatch (R387) (log entry 4). -/
def State.up (s : State) : Bool :=
  s.ck.phase = .running && (decide (s.pw.st = .active) || decide (s.pw.st = .nap))
/-- Underlay mode is active (R338). -/
def State.underlay (s : State) : Bool := s.hf.active

/-- CG_STAT.OVEN_OK: the debounced flag, or OSC_GOOD while the flag is not used (R166). -/
def State.ovenOk (s : State) : Bool := if s.bit CG_CTL 1 then s.ck.ovenOk else s.ck.oscGood
/-- The oscillator is reported good (R167). -/
def State.oscReport (s : State) : Bool := s.ck.oscGood && s.ovenOk && s.ck.tLock
/-- A gang member other than the leader runs no servo of its own while it is in the gang (R29). -/
def State.follower (s : State) : Bool := s.gang.inGang && decide (s.ties.gangPos ≠ s.gang.leader)

/-- The other domain. -/
def Dom.other : Dom → Dom
  | .a => .b
  | .b => .a

/-- A domain as a bit: 0 A, 1 B. -/
def Dom.num : Dom → Nat
  | .a => 0
  | .b => 1

/-- The domain of a bit. -/
def Dom.ofBit (b : Bool) : Dom := if b then .b else .a

/-! ### Clock gates and the power state -/

/-- The gate groups present in the role (R175): a ridge has no object store and no program store. -/
def State.gatesPresent (s : State) : BitVec 12 := if s.isEave then 0xFFF else 0xDFB

/-- The groups that Nap does not hold closed (R344): 4, 5, 6, 7 and 11. -/
def napGroups : BitVec 12 := 0x8F0

/-- CG_GATE_STAT (R175, R179) (log entry 29). -/
def State.gateStat (s : State) : BitVec 12 :=
  if s.bit CG_CTL 0 then (s.ck.gates ||| BitVec.ofNat 12 (s.rd CG_GATE_FORCE)) &&& s.gatesPresent else s.gatesPresent

/-- The gate of a group opens for its work (R177, R396) (log entry 29). -/
def State.openGate (s : State) (k : Nat) : State :=
  let b := BitVec.ofNat 12 (2 ^ k)
  if s.gateStat &&& b = b ∨ s.gatesPresent &&& b = 0 then { s with ck := { s.ck with gates := s.ck.gates ||| (b &&& s.gatesPresent) } }
  else ({ s with ck := { s.ck with gates := s.ck.gates ||| b } } : State).evt 25

/-- The running course is busy (R345). -/
def State.busy (s : State) : State := { s with pw := { s.pw with busy := true } }

/-- pw_state (R356). -/
def PowerState.num : PowerState → Nat
  | .active => 0
  | .nap => 1
  | .thatch => 2
  | .waking => 3

/-- The power state changes, and pw_state with it. -/
def State.setPower (s : State) (st : PowerState) : State :=
  if s.pw.st = st then s else { s with pw := { s.pw with st := st }, out := .pwState st.num :: s.out }

/-- The block leaves Nap: every gate that Nap held closed opens (R344), and the watchdog restarts (R336)
(log entry 42). -/
def State.napWake (s : State) : State :=
  if s.pw.st = .nap then
    let s := s.setPower .active
    let s := { s with
      pw := { s.pw with planned := none }
      hf := { s.hf with wdog := if s.cp.fw = .running then some 0 else none } }
    (List.range 12).foldl (fun s k => if napGroups.getLsbD k then s else s.openGate k) s
  else s

/-- A wake event is latched with its source, its argument and what it holds (R354). -/
def State.latchWake (s : State) (src arg : Nat) (req : Option HeldReq) : State :=
  let l := if s.pw.fresh then [] else s.pw.latch
  let o := if s.pw.fresh then 0 else s.pw.ovf
  if l.length < 64 then
    { s with pw := { s.pw with fresh := false, latch := l ++ [(src, arg)], ovf := o, held := s.pw.held ++ req.toList } }
  else
    { s with pw := { s.pw with
      fresh := false, latch := l, ovf := min 0xFFFF (o + 1)
      late := s.pw.late ++ (req.map fun q => ({ src := src, arg := arg, req := q } : LateWake)).toList } }

/-- A wake event (R344, R349, R354): in Nap the block is Active at once and the event is served; in Thatch both PLLs
are enabled and what the event holds waits.  Its course is busy (R357). -/
def State.wake (s : State) (src arg : Nat) (req : Option HeldReq) : State :=
  let s := s.busy
  match s.pw.st with
  | .active => s
  | .nap => (s.latchWake src arg none).napWake
  | .thatch =>
    let s := (s.latchWake src arg req).setPower .waking
    { s with ck := { s.ck with tTry := 0, lTry := 0 } }
  | .waking => s.latchWake src arg req

/-- The block is in Thatch or waking from it (log entry 4). -/
def State.asleep (s : State) : Bool := decide (s.ck.phase = .running) && (decide (s.pw.st = .thatch) || decide (s.pw.st = .waking))

/-! ### Time -/

/-- One course in 2^-16 ns. -/
def courseUnits : Int := 65536000
/-- One course in 1/5 of 2^-16 ns, the unit in which grid times are exact. -/
def courseFifths : Int := 327680000
/-- One timing cycle in 1/5 of 2^-16 ns (R39). -/
def cycleFifths : Int := 524288
/-- One converter code in 1/5 of 2^-16 ns (R40). -/
def codeFifths : Int := 128

/-- The exact time of a timing edge in 1/5 of 2^-16 ns. -/
def gridFifths (course cyc : Nat) : Int := course * courseFifths + cyc * cycleFifths

/-- The exact time of an edge that a converter timed in the running course. -/
def State.edgeFifths (s : State) (e : Edge) : Int :=
  gridFifths s.clk.course e.cyc + e.code * codeFifths

/-- A time in 1/5 of 2^-16 ns rounded once to 2^-16 ns (R40). -/
def toUnits (fifths : Int) : Int := roundDiv fifths 5

/-- The output time at the present timing edge, in 2^-16 ns. -/
def State.nowUnits (s : State) : Int := toUnits (gridFifths s.clk.course s.clk.cyc)

/-- A command that happens at a timing cycle of the running course: time does not run back within it (log entry 35). -/
def State.atCyc (s : State) (c : Nat) : State :=
  { s with clk := { s.clk with cyc := min 624 (max s.clk.cyc c) } }

/-- Timing cycles since reset at a cycle of the running course, over whole courses. -/
def State.absCyc (s : State) (c : Nat) : Nat := s.clk.ticks * 625 + c

/-- Nanoseconds since the epoch of a time in 2^-16 ns (R54). -/
def linNs (t : Int) : Nat := (t / 65536).toNat
/-- The fraction of a time in 2^-16 ns. -/
def fracOf (t : Int) : Nat := (t % 65536).toNat

/-- A wire time in 2^-16 ns. -/
def WireTime.units (w : WireTime) : Int := ((w.sec * 1000000000 + w.ns) * 65536 + w.frac : Nat)
/-- R35: the nanoseconds field is below 1,000,000,000. -/
def WireTime.ok (w : WireTime) : Bool := w.ns < 1000000000
/-- A time in 2^-16 ns in the wire form (R36). -/
def wireOf (t : Int) : WireTime :=
  { sec := linNs t / 1000000000, ns := linNs t % 1000000000, frac := fracOf t }

/-- The course that contains a time in 2^-16 ns (R46). -/
def courseOf (t : Int) : Nat := (t / courseUnits).toNat

/-- Rebuild a full number from its low 32 bits; none when it lies exactly half the range away (R51, R52). -/
def serialRebuild (ref fieldv : Nat) : Option Nat :=
  let d := (fieldv % 2 ^ 32 + (2 ^ 32 - ref % 2 ^ 32)) % 2 ^ 32
  if d = 2 ^ 31 then none
  else if d < 2 ^ 31 then some ((ref + d) % 2 ^ 64)
  else some ((ref + d + (2 ^ 64 - 2 ^ 32)) % 2 ^ 64)

/-- A time interval: an s64 in 2^-16 ns, to which a value outside is clamped (R37). -/
def interval (i : Int) : Int := clampS 64 i

/-- The operation that clamps an interval flags it (R37) (log entry 61). -/
def State.flagInterval (s : State) (i : Int) : State :=
  if interval i = i then s else { s with td := { s.td with ivClamp := true } }

/-- A phase in 2^-16 ns over one 1,024-course interval as a rate in 2^-48, truncated toward zero as C divides
(R112). -/
def toRate (ph : Int) : Int := Int.tdiv (ph * 4194304) 1000

/-- A rate clamped to s40 (R112). -/
def clamp40 (r : Int) : Int := clampS 40 r

/-- A time in 2^-16 ns as picoseconds, rounded up (R156). -/
def psUp (u : Nat) : Nat := ceilDiv (u * 1000) 65536

/-- A saturating 32-bit value. -/
def sat32 (n : Nat) : Nat := min n 0xFFFFFFFF

/-! ### Ports -/

/-- A port of the block. -/
def State.port (s : State) (p : Nat) : Port := s.ports.get {} p

/-- Replace a port. -/
def State.setPort (s : State) (p : Nat) (v : Port) : State := { s with ports := s.ports.set {} p v }

/-- Change a port. -/
def State.modPort (s : State) (p : Nat) (f : Port → Port) : State := s.setPort p (f (s.port p))

/-- Ports whose state differs from that of an unused port without a link. -/
def State.portList (s : State) : List Nat := s.ports.keys.filter (· < s.nPorts)

/-- A port is enabled: PF_CTL.EN. -/
def State.enabled (s : State) (p : Nat) : Bool := s.bit (PF_CTL p) 0

/-- A port has come up (R86). -/
def State.isUp (s : State) (p : Nat) : Bool := s.enabled p && (s.port p).up

/-- A lower end (R93). -/
def PortRole.isLower : PortRole → Bool
  | .homeUp => true
  | .crossUp => true
  | _ => false

/-- An upper end (R93). -/
def PortRole.isUpper : PortRole → Bool
  | .child => true
  | .crossDown => true
  | _ => false

/-- PF_STAT.ROLE. -/
def PortRole.num : PortRole → Nat
  | .unused => 0
  | .homeUp => 1
  | .crossUp => 2
  | .crossDown => 3
  | .child => 4

/-- The role of a code of the topology image. -/
def PortRole.ofNum : Nat → PortRole
  | 1 => .homeUp
  | 2 => .crossUp
  | 3 => .crossDown
  | 4 => .child
  | _ => .unused

/-- Live for routing: live or on probation (R326). -/
def Health.routes : Health → Bool
  | .live => true
  | .probation => true
  | _ => false

/-- PF_STAT.HEALTH, which shows an admitting channel as retired (R332). -/
def Health.stat : Health → Nat
  | .live => 0
  | .probation => 1
  | .retired => 2
  | .admitting => 2
  | .noTree => 3

/-- HF_PVIEW.STATE (R342). -/
def Health.view : Health → Nat
  | .live => 0
  | .probation => 1
  | .retired => 2
  | .admitting => 3
  | .noTree => 7

/-- PF_STAT.MISMATCH: the OR of the identity and role parts (R104). -/
def Port.mismatch (p : Port) : Bool := p.mmId || p.mmRole

/-- Uplinks of a domain (R326). -/
def State.uplinks (s : State) (d : Dom) : List Nat :=
  s.portList.filter fun p => (s.port p).role.isLower && decide ((s.port p).dom = d)

/-- Live uplinks of a domain, off probation (R111, R326). -/
def State.liveUplinks (s : State) (d : Dom) : List Nat :=
  (s.uplinks d).filter fun p => decide ((s.port p).health = .live)

/-- Uplinks of a domain that carry traffic: live or on probation; none once the gang is lost from both trees (R31). -/
def State.routeUplinks (s : State) (d : Dom) : List Nat :=
  if s.gang.dead then [] else (s.uplinks d).filter fun p => (s.port p).health.routes

/-- Ports of a role that carry traffic. -/
def State.rolePorts (s : State) (r : PortRole) : List Nat :=
  if s.gang.dead then [] else s.portList.filter fun p => decide ((s.port p).role = r) && (s.port p).health.routes

/-- The servo of a domain. -/
def State.servo (s : State) (d : Dom) : Servo := s.td.dom.get d

/-- Replace the servo of a domain. -/
def State.setServo (s : State) (d : Dom) (v : Servo) : State :=
  { s with td := { s.td with dom := s.td.dom.put d v } }

/-- Change the servo of a domain. -/
def State.modServo (s : State) (d : Dom) (f : Servo → Servo) : State := s.setServo d (f (s.servo d))

/-- P_x in whole 2^-16 ns, rounded toward minus infinity. -/
def Servo.pUnits (v : Servo) : Int := interval (v.p / 281474976710656)

/-- 2^48, the scale of the held phase over 2^-16 ns. -/
def phaseScale : Int := 281474976710656

/-- Slew units of a limit in ns/s: the limit times 2^48 over 10^9, rounded (R112). -/
def slewUnits (l : Nat) : Int := roundDiv ((l : Int) * 281474976710656) 1000000000

/-- TD_SLEW.LIMIT in force: 0 acts as 1, larger values act as 2,000 (R130). -/
def State.slewLimit (s : State) : Nat :=
  let l := s.fl TD_SLEW 0 11
  if l = 0 then 1 else if 2000 < l then 2000 else l

/-- LOCK_THR and UNLOCK_THR in 2^-16 ns as exact comparisons: a magnitude in 2^-16 ns against picoseconds. -/
def overPs (m ps : Nat) : Bool := ps * 65536 < m * 1000
/-- A magnitude in 2^-16 ns against nanoseconds. -/
def overNs (m ns : Nat) : Bool := ns * 65536 < m

/-! ### Converters (R211 to R216) -/

/-- A converter with two failed ramps times no edge (R215). -/
def State.convFailed (s : State) (c : Nat) : Bool := decide (2 ≤ s.im.ramps.get 0 c)
/-- The converters of a port's transmit and receive marks. -/
def convTx (p : Nat) : Nat := 32 + 2 * p
/-- See convTx. -/
def convRx (p : Nat) : Nat := 33 + 2 * p
/-- The calibration at reset of a converter is complete (R213). -/
def State.convReady (s : State) (c : Nat) : Bool := s.im.calReady || decide (c ∈ s.im.calDone)
/-- A converter times its edges (R213, R215). -/
def State.convTimes (s : State) (c : Nat) : Bool := s.convReady c && !s.convFailed c
/-- Edges of a pin reach its converter and are timed (R213, R215, R216). -/
def State.pinTimed (s : State) (pin : Nat) : Bool := s.convTimes pin && decide (pin ∉ s.im.padRun)
/-- IM_PADn. -/
def State.padOf (s : State) (pin : Nat) : Nat := s.im.pad.get 0 pin

/-! ### Memory master port -/

/-- The lowest identity of 0 to 31 that no request holds (log entry 57). -/
def freeId (l : List MemReq) : Option Nat := (List.range 32).find? fun i => l.all fun r => r.id ≠ i

/-- Issue a read, or let it wait for a free identity (R393) (log entry 57). -/
def State.memRead (s : State) (use : MemUse) (addr beats : Nat) : State :=
  let s := s.openGate 8
  match freeId s.mm.reads with
  | some i =>
    { s with
      mm := { s.mm with reads := s.mm.reads ++ [{ id := i, use := use, addr := addr, beats := beats, tick := s.clk.ticks }] }
      out := .memRead i addr beats :: s.out }
  | none =>
    { s with mm := { s.mm with
        waitR := s.mm.waitR ++ [{ id := 32, use := use, addr := addr, beats := beats, tick := s.clk.ticks }] } }

/-- Issue a write, or let it wait for a free identity (R393) (log entry 57). -/
def State.memWrite (s : State) (use : MemUse) (addr : Nat) (bytes : List Nat) : State :=
  let s := s.openGate 8
  match freeId s.mm.writes with
  | some i =>
    { s with
      mm := { s.mm with writes := s.mm.writes ++
        [{ id := i, use := use, addr := addr, beats := bytes.length / 16, bytes := bytes, tick := s.clk.ticks }] }
      out := .memWrite i addr bytes :: s.out }
  | none =>
    { s with mm := { s.mm with waitW := s.mm.waitW ++
        [{ id := 32, use := use, addr := addr, beats := bytes.length / 16, bytes := bytes, tick := s.clk.ticks }] } }

/-- Issue requests that waited, as identities are free (log entry 57). -/
def State.memPump (s : State) : State :=
  let s := match s.mm.waitR with
    | r :: rest =>
      if s.mm.reads.length < 32 then
        State.memRead { s with mm := { s.mm with waitR := rest } } r.use r.addr r.beats
      else s
    | [] => s
  match s.mm.waitW with
  | w :: rest =>
    if s.mm.writes.length < 32 then
      State.memWrite { s with mm := { s.mm with waitW := rest } } w.use w.addr w.bytes
    else s
  | [] => s

/-- The `n` little-endian bytes of a number. -/
def leBytes (n v : Nat) : List Nat := (List.range n).map fun i => (v >>> (8 * i)) % 256

/-- The number that little-endian bytes hold. -/
def ofLe (l : List Nat) : Nat := l.foldr (fun b acc => b % 256 + 256 * acc) 0

/-- Fold an operation over a list of indexes. -/
def State.each (s : State) (l : List Nat) (f : State → Nat → State) : State := l.foldl f s

end Sys2Proof.Machine
end

