-- ==== Sys2Proof/Machine/Port.lean ====
section
/-! DEFINITION. Sys2Proof/Machine/Port.lean: port front ends: marks and stamps, the three queues, the link sequence
with its replay buffer, scoring, and the pipeline that every received frame goes through
(spec/03_port_stamping.md, spec/12_traffic.md, R322 and R324 of spec/13_faults.md). -/
namespace Sys2Proof.Machine
open Sys2Proof.Config

/-! ### Properties of frames -/

/-- The message type: 1588 messageType in [3:0], or the Zudar TYPE (R84, R96, R103); 0x100 for ESMC. -/
def Body.typ : Body → Nat
  | .sync _ => 0x0
  | .delayReq _ => 0x1
  | .delayResp _ _ _ _ => 0x9
  | .announce _ => 0xB
  | .esmcInfo _ => 0x100
  | .esmcEvent _ => 0x101
  | .hello _ => 0x01
  | .keepalive _ _ => 0x02
  | .ack => 0x03
  | .nak _ => 0x04
  | .cal _ => 0x06
  | .switchPlan _ _ _ => 0x10
  | .switchCancel _ => 0x11
  | .launch _ => 0x14
  | .objReq _ => 0x20
  | .objRsp _ => 0x21
  | .collUp _ => 0x40
  | .collDown _ => 0x41
  | .collMove _ => 0x42
  | .collAbort _ => 0x43
  | .collReq _ => 0x44

/-- A frame of EtherType 0x88B5. -/
def Body.zudar : Body → Bool
  | .sync _ => false
  | .delayReq _ => false
  | .delayResp _ _ _ _ => false
  | .announce _ => false
  | .esmcInfo _ => false
  | .esmcEvent _ => false
  | _ => true

/-- The traffic classes (R308). -/
inductive TClass where
  | express | coll | bulk
  deriving DecidableEq, Repr

/-- The class of a frame (R308). -/
def Body.cls : Body → TClass
  | .esmcInfo _ => .bulk
  | .esmcEvent _ => .bulk
  | .objReq _ => .coll
  | .objRsp _ => .coll
  | .collUp _ => .coll
  | .collDown _ => .coll
  | _ => .express

/-- Message types that enter the replay buffer (R103, R296). -/
def Body.replayed : Body → Bool
  | .switchPlan _ _ _ => true
  | .switchCancel _ => true
  | .launch _ => true
  | .objReq _ => true
  | .objRsp _ => true
  | .collUp _ => true
  | .collDown _ => true
  | .collMove _ => true
  | .collAbort _ => true
  | .collReq _ => true
  | _ => false

/-- LEN of a Zudar message (R101, R104 to R108, R277, R297, R298), or messageLength of a 1588 message (R96). -/
def Body.msgLen : Body → Nat
  | .sync _ => 44
  | .delayReq _ => 44
  | .delayResp _ _ _ _ => 54
  | .announce _ => 64
  | .esmcInfo _ => 46
  | .esmcEvent _ => 46
  | .hello _ => 34
  | .keepalive _ _ => 42
  | .ack => 24
  | .nak _ => 24
  | .cal _ => 40
  | .switchPlan _ _ _ => 34
  | .switchCancel _ => 28
  | .launch _ => 50
  | .objReq _ => 38
  | .objRsp _ => 34
  | .collUp m =>
    match m.data with
    | .report _ r => 58 + 8 * r.length
    | _ => 56 + 40 * m.par.lanes
  | .collDown m => 56 + 8 * m.par.lanes
  | .collMove _ => 44
  | .collAbort _ => 44
  | .collReq _ => 52

/-- SRC_ID and COURSE that a forwarded object message keeps (R276). -/
def Body.origin : Body → Option (Nat × Nat)
  | .objReq m => m.origin
  | .objRsp m => m.origin
  | _ => none

/-- Frame length from the first byte of the destination address to the last byte of the FCS, padding included
(R64, R101). -/
def Body.frameLen (b : Body) : Nat := max 64 (14 + b.msgLen + 4)

/-- X frames that are discarded when they find their queue full (R310). -/
def Body.droppable : Body → Bool
  | .sync _ => true
  | .announce _ => true
  | .keepalive _ _ => true
  | .hello _ => true
  | .ack => true
  | .esmcInfo _ => true
  | .esmcEvent _ => true
  | _ => false

/-- Types that pass a mismatched port (R91, R103). -/
def Body.identityBearing : Body → Bool
  | .hello _ => true
  | .keepalive _ _ => true
  | _ => false

/-- Types sent and acted on in Underlay mode (R338). -/
def Body.inUnderlay : Body → Bool
  | .ack => true
  | .nak _ => true
  | .collMove _ => true
  | .collAbort _ => true
  | .collReq _ => true
  | _ => false

/-- Types an admitting channel sends (R332). -/
def Body.inAdmission : Body → Bool
  | .hello _ => true
  | .keepalive _ _ => true
  | .ack => true
  | .nak _ => true
  | .sync _ => true
  | .delayReq _ => true
  | .delayResp _ _ _ _ => true
  | .announce _ => true
  | _ => false

/-! ### Scoring and reports to the health manager (R322, R324) -/

/-- HF_SCORE.RETIRE, 0 acting as 1. -/
def State.retireThr (s : State) : Nat := max 1 (s.fl HF_SCORE 0 8)

/-- The channel takes score events: it is in a tree and not retired. -/
def Port.scores (p : Port) : Bool :=
  match p.health with
  | .live => true
  | .probation => true
  | .admitting => true
  | _ => false

/-- Add a weight to a channel's score; a score event restarts an admission hold (R322, R324, R333). -/
def State.scoreEvent (s : State) (p w : Nat) : State :=
  let s := s.openGate 5
  let v := s.port p
  if v.scores then
    let sc := min 255 (v.score + w)
    s.setPort p { v with
      score := sc
      cand := if v.cand = 0 ∧ s.retireThr ≤ sc ∧ v.health = .live then 1 else v.cand
      admitAt := if v.health = .admitting ∧ v.admitAt.isSome then some s.clk.ticks else v.admitAt }
  else s

/-- Received words failing parity, each an event (R322). -/
def State.scorePar (s : State) (p words : Nat) : State := s.scoreEvent p (words * s.fl HF_WEIGHT 0 8)
/-- An FCS error or a sequence gap (R322). -/
def State.scoreFcs (s : State) (p : Nat) : State := s.scoreEvent p (s.fl HF_WEIGHT 8 8)
/-- A lane flap or a fall of port_up (R322). -/
def State.scoreFlap (s : State) (p : Nat) : State := s.scoreEvent p (s.fl HF_WEIGHT 16 8)
/-- A failed replay attempt (R322). -/
def State.scoreRfail (s : State) (p : Nat) : State := s.scoreEvent p (s.fl HF_WEIGHT 24 8)

/-! ### Stamp records (R84, R85) -/

/-- The port number of a record: member position × 512 + local port (R84). -/
def State.portNum (s : State) (p : Nat) : Nat := s.ties.gangPos * 512 + p

/-- The size of the stamp log, 2^SIZE records (R92). -/
def State.logSize (s : State) : Nat :=
  let z := s.fl PF_LOG_CFG 0 5
  2 ^ (if 6 ≤ z ∧ z ≤ 20 then z else 6)

/-- The two halves of a stamp record. -/
def mkRec (portNum : Nat) (t : Option Int) (seq mtype flags cgen : Nat) : StampRec :=
  { lo := (match t with | some u => linNs u % 2 ^ 32 + fracOf u * 2 ^ 32 | none => 0) + (portNum % 2 ^ 12) * 2 ^ 48
    hi := seq % 2 ^ 16 + (mtype % 256) * 2 ^ 16 + flags * 2 ^ 24 + (cgen % 256) * 2 ^ 32 }

/-- The address of the next record of the stamp log (R85). -/
def State.logAddr (s : State) : Nat := s.rd PF_LOG_BASE + 16 * (s.logWr % s.logSize)

/-- Write a record to the stamp log, or drop it when the ring is full (R85) (log entry 37). -/
def State.logRecord (s : State) (r : StampRec) : State :=
  if s.bit PF_LOG_CFG 31 = false then s
  else
    let used := (s.logWr + 2 ^ 32 - s.rd PF_LOG_RD) % 2 ^ 32
    if used = s.logSize then s.count PF_LOG_DROP
    else
      let s' := s.memWrite .log s.logAddr (leBytes 8 r.lo ++ leBytes 8 r.hi)
      let thr := s.fl PF_LOG_CFG 8 16
      State.raiseIf { s' with logWr := (s.logWr + 1) % 2 ^ 32 } (decide (thr ≠ 0 ∧ used + 1 = thr)) 13

/-- A stamp record enters the port's FIFO or the stamp log (R84, R85) (log entry 37). -/
def State.stampRecord (s : State) (p : Nat) (tx proto : Bool) (seq mtype : Nat) (express miss late : Bool)
    (t : Option Int) (cgen : Nat) : State :=
  let v := s.port p
  let (s, seq, mtype) := if 0x100 ≤ mtype then (let r := s.drawFree; (r.1, r.2 % 65536, r.2 / 65536)) else (s, seq, mtype)
  let flags := bnat tx * 128 + bnat proto * 64 + v.dom.num * 32 + bnat express * 16 + bnat miss * 8 + bnat late * 4 + 1
  let r := mkRec (s.portNum p) (if miss then none else t) seq mtype flags cgen
  let s := if miss then s.count (PF_CNT_MISS p) else s
  if s.bit (PF_CTL p) 1 then
    let l := s.logRecord r
    if tx then l.modPort p fun v => { v with lastLog := if l.logWr = s.logWr then none else some (s.logAddr, r) } else l
  else if v.fifo.length < 16 then s.setPort p { v with fifo := v.fifo ++ [r] }
  else s.count (PF_CNT_FIFO_OVF p)

/-- A read of PF_STAMP_LO: the oldest record moves into the master's latch (R85, R406). -/
def State.popStamp (s : State) (m : Master) (p : Nat) : State :=
  let v := s.port p
  s.setPort p { v with fifo := v.fifo.tail, latch := v.latch.put m (v.fifo.headD {}) }

/-! ### Queues (R310, R320) -/

/-- Bytes of the shared store (R89). -/
def State.storeSize (s : State) : Nat := if s.isRidge then 4194304 else 131072

/-- What a port keeps in the shared store: its replay entries and the C frames queued for the first time (R89, R310). -/
def Port.stored (v : Port) : List Body :=
  v.rpl.entries.map (·.body) ++ (v.cq.filter fun q => q.retx.isNone).map (·.body)

/-- Bytes of the shared store in use with some frames beside; in a ridge equal payloads are stored once (R89). -/
def State.storeUsed (s : State) (more : List Body) : Nat :=
  let all := more ++ (s.ports.map fun e => e.2.stored).flatten
  ((if s.isRidge then all.eraseDups else all).map Body.frameLen).sum

/-- Bytes that a tree counter reserves: its COLL_UP until it is sent, and its COLL_DOWN (R318). -/
def TreeCtr.reserve (c : TreeCtr) : Nat :=
  (if c.sentUp then 0 else 14 + (56 + 40 * c.par.lanes) + 4) + (14 + (56 + 8 * c.par.lanes) + 4)

/-- Bytes of the shared store that the tree counters reserve (R318). -/
def State.storeReserved (s : State) : Nat := (s.ce.ctrs.map TreeCtr.reserve).sum

/-- A C frame finds space in the shared store (R89, R310). -/
def State.storeFits (s : State) (b : Body) : Bool := decide (s.storeUsed [b] + s.storeReserved ≤ s.storeSize)

/-- Whether a frame may be queued for a port now (R90, R91, R320, R332, R338). -/
def State.maySend (s : State) (p : Nat) (b : Body) : Bool :=
  let v := s.port p
  s.isUp p && (!s.underlay || b.inUnderlay) &&
  (match b with
   | .cal _ => v.cal.running
   | _ =>
     match v.health with
     | .retired => false
     | .admitting => b.inAdmission
     | _ => true)

/-- Queue a frame on its class's queue of a port (R310, R320) (log entry 39). -/
def State.xsend (s : State) (p : Nat) (b : Body) : State :=
  let v := s.port p
  if s.maySend p b = false then s
  else if v.mismatch ∧ v.cal.running = false ∧ b.identityBearing = false then s.count TP_CNT_FLUSH
  else
    let s := s.openGate 4
    match b.cls with
    | .express =>
      if v.xq.length < 64 ∧ v.xWait = [] then s.setPort p { v with xq := v.xq ++ [{ body := b }] }
      else if b.droppable then s.count TP_CNT_QFULL
      else s.setPort p { v with xWait := v.xWait ++ [{ body := b }] }
    | .coll =>
      if v.cWait = [] ∧ s.storeFits b then s.setPort p { v with cq := v.cq ++ [{ body := b }] }
      else s.setPort p { v with cWait := v.cWait ++ [{ body := b }] }
    | .bulk =>
      if v.tq.length < 16 then s.setPort p { v with tq := v.tq ++ [{ body := b }] }
      else s.count TP_CNT_QFULL

/-- Queue a frame on several ports. -/
def State.xsendAll (s : State) (ps : List Nat) (b : Body) : State := s.each ps fun s p => s.xsend p b

/-- Frames that waited at their producers enter the X queue as entries free (R310). -/
def State.refillX (s : State) (p : Nat) : State :=
  let v := s.port p
  let n := 64 - v.xq.length
  s.setPort p { v with xq := v.xq ++ v.xWait.take n, xWait := v.xWait.drop n }

/-- The C frame that has waited longest enters its queue when the shared store has space for it (R89, R310). -/
def State.refillC (s : State) (p : Nat) : State :=
  let v := s.port p
  match v.cWait with
  | q :: rest => if s.storeFits q.body then s.setPort p { v with cq := v.cq ++ [q], cWait := rest } else s
  | [] => s

/-- Frames that wait enter their queues as far as there is room. -/
def State.refill (s : State) (p : Nat) : State :=
  (s.refillX p).each (List.range (s.port p).cWait.length) fun s _ => s.refillC p

/-- Empty a port's replay buffer and queues, counting the queued frames (R90, R320). -/
def State.flushPort (s : State) (p : Nat) : State :=
  let v := s.port p
  let n := v.xq.length + v.cq.length + v.tq.length
  (s.setPort p { v with
    xq := [], cq := [], tq := [], xWait := [], cWait := []
    rpl := { v.rpl with entries := [], attempt := none } }).count TP_CNT_FLUSH n

/-- Empty the C and T queues of a port (R320, entry into Underlay mode). -/
def State.flushCT (s : State) (p : Nat) : State :=
  let v := s.port p
  (s.setPort p { v with cq := [], tq := [], cWait := [] }).count TP_CNT_FLUSH (v.cq.length + v.tq.length)

/-- An exchange in progress on a port is discarded as invalid (R98). -/
def State.dropExch (s : State) (p : Nat) : State :=
  let v := s.port p
  (s.setPort p { v with lower := none, upper := {} }).count TD_CNT_EXCH_BAD (bnat v.lower.isSome)

/-- The link sequence restarts (R86) (log entry 39). -/
def State.restartLink (s : State) (p : Nat) : State :=
  s.modPort p fun v => { v with rpl := {} }

/-! ### Replay (R86 to R90) -/

/-- The oldest unacknowledged number (PF_RPL_STAT.ACK_SEQ). -/
def Replay.ackSeq (r : Replay) : Nat :=
  match r.entries with
  | e :: _ => e.lseq
  | [] => r.next

/-- PF_RPL_CFG.TIMEOUT in force. -/
def State.rplTimeout (s : State) (p : Nat) : Nat := max 2 (s.fl (PF_RPL_CFG p) 0 8)
/-- PF_RPL_CFG.ACK_EVERY in force. -/
def State.ackEvery (s : State) (p : Nat) : Nat :=
  let n := s.fl (PF_RPL_CFG p) 16 8
  if 1 ≤ n ∧ n ≤ 56 then n else 56
/-- PF_RPL_CFG.X_RESERVE in force. -/
def State.xReserve (s : State) (p : Nat) : Nat := min 32 (s.fl (PF_RPL_CFG p) 8 8)

/-- A cumulative acknowledgement: entries before the number are freed, and an attempt whose first frame it passes
succeeds (R88). -/
def State.takeAck (s : State) (p lack : Nat) : State :=
  let v := s.port p
  let r := v.rpl
  let k := (lack + 256 - r.ackSeq) % 256
  if k = 0 ∨ r.entries.length < k then s
  else
    let passed := match r.attempt with
      | some a => (r.entries.take k).any fun e => e.lseq = a
      | none => false
    let kept (q : QFrame) : Bool := match q.retx with
      | some n => decide ((r.entries.drop k).any fun e => e.lseq = n)
      | none => true
    (s.setPort p { v with
      xq := v.xq.filter kept
      cq := v.cq.filter kept
      rpl := { r with
        entries := r.entries.drop k
        waitTick := s.clk.ticks
        attempt := if passed then none else r.attempt
        failRun := if passed then 0 else r.failRun } }).refill p

/-- An attempt fails: counted, reported, scored; three in a row make a candidate (R88, R322, R324). -/
def State.attemptFails (s : State) (p : Nat) : State :=
  let s := s.modPort p fun v =>
    let fr := min 3 (v.rpl.failRun + 1)
    { v with
      rpl := { v.rpl with attempt := none, failRun := fr }
      cand := if fr = 3 ∧ v.health = .live then 2 else v.cand }
  ((s.count (PF_CNT_RFAIL p)).evt 13).scoreRfail p

/-- A replay attempt: every frame from the named number onward is placed at the head of its class's queue, in
sequence order (R88, R310).  New X frames that the 64 entries of the queue then have no place for go back to wait, ahead of the
others (log entry 39). -/
def State.startAttempt (s : State) (p n t : Nat) : State :=
  let v := s.port p
  let es := v.rpl.entries.dropWhile fun e => e.lseq ≠ n
  if es = [] ∨ v.mismatch then s
  else
    let fresh (q : List QFrame) := q.filter fun f => f.retx.isNone
    let back (c : TClass) := (es.filter fun e => e.body.cls = c).map fun e => ({ body := e.body, retx := some e.lseq } : QFrame)
    let xs := back .express ++ fresh v.xq
    ((s.setPort p { v with
      xq := xs.take 64
      xWait := xs.drop 64 ++ v.xWait
      cq := back .coll ++ fresh v.cq
      rpl := { v.rpl with attempt := some n, waitTick := t } }).count (PF_CNT_REPLAY p)).evt 12

/-- A negative acknowledgement naming a number (R88). -/
def State.takeNak (s : State) (p n : Nat) : State :=
  let r := (s.port p).rpl
  let k := (n + 256 - r.ackSeq) % 256
  if r.entries.length < k then s
  else
    let s := s.takeAck p n
    let s := if (s.port p).rpl.attempt = some n then s.attemptFails p else s
    s.startAttempt p n s.clk.ticks

/-- At a boundary with count `t`, the oldest unacknowledged frame has waited TIMEOUT courses, the course in which the
wait began not counted (R88). -/
def State.replayDue (s : State) (p t : Nat) : Bool :=
  let v := s.port p
  v.rpl.entries ≠ [] && decide (v.rpl.waitTick + s.rplTimeout p < t) && !v.mismatch

/-- What the timeout does at a boundary with count `t`: an attempt in progress fails, and an attempt starts from the oldest
number; the course that begins is the first of the attempt's TIMEOUT courses (R88). -/
def State.replayTimeout (s : State) (p t : Nat) : State :=
  let s := if (s.port p).rpl.attempt.isSome then s.attemptFails p else s
  s.startAttempt p (s.port p).rpl.ackSeq (t - 1)

/-! ### Handover (R310, R313, R316) -/

/-- The profile of a port (TP_PMAP). -/
def State.profile (s : State) (p : Nat) : Nat := s.fl (TP_PMAPj (p / 8)) (4 * (p % 8)) 4

/-- Burst and rate of a class's bucket in a profile (log entry 12). -/
def State.burst (s : State) (c : TClass) (k : Nat) : Int :=
  256 * (match c with | .coll => s.fl (TP_PROFk_C_BURST k) 0 24 | _ => s.fl (TP_PROFk_T_BURST k) 0 24 : Nat)
/-- RATE, 0 acting as 1. -/
def State.rate (s : State) (c : TClass) (k : Nat) : Nat :=
  max 1 (match c with | .coll => s.fl (TP_PROFk_C_RATE k) 0 16 | _ => s.fl (TP_PROFk_T_RATE k) 0 16)
/-- The bucket applies: C_EN or T_EN. -/
def State.bucketOn (s : State) (c : TClass) (k : Nat) : Bool :=
  match c with | .coll => s.bit (TP_PROFk_CFG k) 31 | .bulk => s.bit (TP_PROFk_CFG k) 30 | .express => false

/-- A level after some logic cycles of filling; a bucket that is not enabled is at BURST from the first cycle on (R313)
(log entry 12). -/
def State.filled (s : State) (c : TClass) (k : Nat) (l : Int) (cycles : Nat) : Int :=
  let top := s.burst c k
  if cycles ≠ 0 ∧ s.bucketOn c k = false then top
  else min top (l + (s.rate c k * cycles : Nat))

/-- Logic cycles per timing cycle: two, or one on the fallback clock (R170, R173). -/
def State.logicPer (s : State) : Nat := if s.ck.lclkFb then 1 else 2

/-- Fill both buckets of a port up to the present timing cycle, at the present rate of the logic clock (R313)
(log entry 12). -/
def State.fillBuckets (s : State) (p : Nat) : State :=
  let v := s.port p
  let now := s.absCyc s.clk.cyc
  let n := (now - v.bktCyc) * s.logicPer
  let k := s.profile p
  s.setPort p { v with
    cLevel := s.filled .coll k v.cLevel n, tLevel := s.filled .bulk k v.tLevel n, bktCyc := now }

/-- Every bucket is filled up to the present: the logic clock changes its rate or stops here (R173, R313, R348). -/
def State.fillAll (s : State) : State := s.each s.portList fun s p => s.fillBuckets p

/-- No bucket gains for the time up to the present: the logic clock did not run (R313, R348). -/
def State.skipFill (s : State) : State :=
  s.each s.portList fun s p => s.modPort p fun v => { v with bktCyc := s.absCyc s.clk.cyc }

/-- The frame is given a link number: a replayed type on a port with REPLAY_EN (R86). -/
def State.numbered (s : State) (p : Nat) (b : Body) : Bool := b.replayed && s.bit (PF_CTL p) 2

/-- A frame finds the replay entry it may use, where R86 gives it one: 64 entries, of which C and T frames occupy at most
64 − X_RESERVE.  A retransmission and a queued C frame are in the shared store already; a T frame waits while it is full
(R89). -/
def State.entryFree (s : State) (p : Nat) (q : QFrame) : Bool :=
  let es := (s.port p).rpl.entries
  let slow := (es.filter fun e => e.body.cls ≠ .express).length
  if q.body.cls = .bulk then decide (s.storeUsed [] < s.storeSize)
  else if q.retx.isSome || !s.numbered p q.body then true
  else decide (es.length < 64) && (decide (q.body.cls = .express) || decide (slow < 64 - s.xReserve p))

/-- Bytes per timing cycle at PF_CTL.RATE (R316). -/
def State.lineBytes (s : State) (p : Nat) : Nat := 20 * 2 ^ (s.fl (PF_CTL p) 10 2)

/-- Occupancy of a T frame in timing cycles (R316). -/
def State.occupancy (s : State) (p : Nat) (b : Body) : Nat :=
  ceilDiv (b.frameLen + s.fl (TP_PROFk_CFG (s.profile p)) 0 8) (s.lineBytes p)

/-- T windows apply to the port (R316). -/
def State.windowed (s : State) (p : Nat) : Bool := s.bit TP_CTL 0 && s.bit (TP_PROFk_CFG (s.profile p)) 29
/-- TP_TW_LEN, 0 acting as 1. -/
def State.winLen (s : State) : Nat := max 1 (s.fl TP_TW_LEN 0 24)
/-- Timing cycles since the last window opened. -/
def State.winElapsed (s : State) : Nat :=
  let per := max 1 (s.fl TP_TW_PERIOD 0 16)
  ((s.clk.course + per - s.fl TP_TW_PHASE 0 16 % per) % per) * 625 + s.clk.cyc
/-- A T frame fits the open window (R316). -/
def State.fitsWindow (s : State) (p : Nat) (b : Body) : Bool :=
  !s.windowed p || decide (s.winElapsed + s.occupancy p b ≤ s.winLen)

/-- Discard head T frames longer than any window (R316) (log entry 39). -/
def State.dropTooLong (s : State) (p : Nat) : State :=
  let v := s.port p
  if s.windowed p then
    let bad := v.tq.filter fun q => decide (s.winLen < s.occupancy p q.body)
    (s.setPort p { v with tq := v.tq.filter fun q => !decide (s.winLen < s.occupancy p q.body) }).count TP_CNT_TOOLONG bad.length
  else s

/-- The next number of a per-port, per-type count (R96, R101). -/
def Port.nextSeq (v : Port) (typ : Nat) : Nat := v.seqs.get 0 typ

/-- The number a frame carries: Sync and the Zudar types count per port and type, the answers copy (R96, R101). -/
def Port.seqFor (v : Port) (b : Body) : Nat :=
  match b with
  | .sync n => n
  | .delayReq n => n
  | .delayResp n _ _ _ => n
  | b => v.nextSeq (b.typ + (if b.zudar then 0x200 else 0))

/-- TD_PTP_DOM's number for a domain. -/
def State.ptpDom (s : State) : Dom → Nat
  | .a => s.fl TD_PTP_DOM 0 8
  | .b => s.fl TD_PTP_DOM 8 8

/-- Hand over one frame that has left its queue (R86, R96, R101, R310, R313): its header is formed now. -/
def State.handOver (s : State) (p : Nat) (q : QFrame) : State :=
  let v := s.port p
  let b := q.body
  let typ := b.typ
  let key := typ + (if b.zudar then 0x200 else 0)
  let num := s.numbered p b
  let lseq := q.retx.getD v.rpl.next
  let seq := v.seqFor b
  let head : SentHead :=
    { typ := typ, len := b.msgLen, dom := v.dom, rpl := num, lseq := if num then lseq else 0
      lack := (match b with | .nak n => n | _ => if b.zudar then v.rpl.expect else 0)
      seq := seq, srcId := (b.origin.map Prod.fst).getD s.ownId, srcPort := s.portNum p
      course := (b.origin.map Prod.snd).getD (s.clk.course % 2 ^ 32)
      domNum := s.ptpDom v.dom, clockId := s.rd TD_CLOCK_ID, clockPort := p + 1 }
  let k := s.profile p
  let cost : Int := 256 * (b.frameLen + s.fl (TP_PROFk_CFG k) 0 8 : Nat)
  let express := decide (b.cls = .express)
  let rpl := { v.rpl with unacked := if b.zudar then 0 else v.rpl.unacked }
  let rpl := if num ∧ q.retx = none then
      { rpl with
        entries := rpl.entries ++ [{ lseq := v.rpl.next, body := b }]
        next := (v.rpl.next + 1) % 256
        waitTick := if rpl.entries = [] then s.clk.ticks else rpl.waitTick }
    else rpl
  let s := s.setPort p { v with
    rpl := rpl
    seqs := v.seqs.set 0 key ((v.nextSeq key + 1) % 65536)
    txWait := v.txWait ++ [{ typ := typ, seq := seq, proto := b.zudar, express := express }]
    cLevel := if b.cls = .coll ∧ s.bucketOn .coll k then v.cLevel - cost else v.cLevel
    tLevel := if b.cls = .bulk ∧ s.bucketOn .bulk k then v.tLevel - cost else v.tLevel }
  let s := (s.emit (.frame p head b express)).count (PF_CNT_TX p)
  match b.cls with
  | .express => (s.count TP_CNT_X).evt 8
  | .coll => (s.count TP_CNT_C).evt 9
  | .bulk => (s.count TP_CNT_T).evt 10

/-- The head T frame that does not fit the rest of its window waits for the next, and is counted once (R316)
(log entry 39). -/
def State.windowWait (s : State) (p : Nat) : State :=
  let v := s.port p
  match v.tq with
  | q :: rest =>
    if s.fitsWindow p q.body ∨ q.deferred then s
    else (s.setPort p { v with tq := { q with deferred := true } :: rest }).count TP_CNT_WINWAIT
  | [] => s

/-- The head T frames that are still queued at the last timing cycle of the course and do not fit it (R316). -/
def State.windowWaits (s : State) : State := (s.atCyc 624).each s.portList fun s p => s.windowWait p

/-- The T frame if it is eligible; one that does not fit its window is deferred (R316) (log entry 39). -/
def State.handoverT (s : State) (p : Nat) : State :=
  let v := s.port p
  match v.tq with
  | q :: rest =>
    if decide (0 ≤ v.tLevel) && s.fitsWindow p q.body && s.entryFree p q then
      (s.setPort p { v with tq := rest }).handOver p q
    else s.windowWait p
  | [] => s

/-- The C frame if it is eligible, else the T frame (log entry 39). -/
def State.handoverCT (s : State) (p : Nat) : State :=
  let v := s.port p
  match v.cq with
  | q :: rest =>
    if s.entryFree p q && decide (0 ≤ v.cLevel) then (s.setPort p { v with cq := rest }).handOver p q
    else s.handoverT p
  | [] => s.handoverT p

/-- On a port in mismatch only identity-bearing frames stay queued, the others are discarded and counted; its
retransmissions leave the queues and stay in the buffer: it replays nothing (R91, R320). -/
def State.dropMismatched (s : State) (p : Nat) : State :=
  let v := s.port p
  if v.mismatch ∧ v.cal.running = false then
    let keep (l : List QFrame) := l.filter fun q => q.body.identityBearing
    let gone (l : List QFrame) : Nat := (l.filter fun q => !q.body.identityBearing && q.retx.isNone).length
    (s.setPort p { v with
      xq := keep v.xq, cq := keep v.cq, tq := keep v.tq, xWait := keep v.xWait, cWait := keep v.cWait
      rpl := { v.rpl with attempt := none } }).count TP_CNT_FLUSH (gone v.xq + gone v.cq + gone v.tq)
  else s

/-- One handover on a port: the eligible X frame, else C, else T (R310) (log entry 39). -/
def State.handover (s : State) (p : Nat) : State :=
  let s := (((s.fillBuckets p).dropMismatched p).refill p).dropTooLong p
  let v := s.port p
  match v.xq with
  | q :: rest =>
    if s.entryFree p q then ((s.setPort p { v with xq := rest }).refillX p).handOver p q
    else s.handoverCT p
  | [] => s.handoverCT p

end Sys2Proof.Machine
end

