-- ==== Sys2Proof/Machine/Shot.lean ====
section
/-! DEFINITION. Sys2Proof/Machine/Shot.lean: the shot engine of the interval unit: starts, stops, windows, statistics
and raw records (R217 to R222 of spec/08_interval_unit.md), fed by every subsystem that has edges. -/
namespace Sys2Proof.Machine
open Sys2Proof.Config

/-! ### Statistics (R220) -/

/-- The integer square root of a number below 2^160. -/
def isqrt (n : Nat) : Nat :=
  ((List.range 80).reverse).foldl (fun r k => if (r + 2 ^ k) * (r + 2 ^ k) ≤ n then r + 2 ^ k else r) 0

/-- The square root of a ratio of naturals, rounded to the nearest integer, ties to even. -/
def sqrtRound (a b : Nat) : Nat :=
  let r := isqrt (a / b)
  let m := (2 * r + 1) * (2 * r + 1) * b
  if m < 4 * a then r + 1 else if m = 4 * a ∧ r % 2 = 1 then r + 1 else r

/-- One valid stop. -/
def Stat.add (v : Stat) (x : Int) : Stat :=
  let x0 := if v.n = 0 then x else v.x0
  let d := x - x0
  { v with
    x0 := x0, s1 := v.s1 + d, s2 := v.s2 + d * d, n := v.n + 1
    lo := if v.n = 0 then x else min v.lo x, hi := if v.n = 0 then x else max v.hi x, last := x }

/-- The mean interval. -/
def Stat.mean (v : Stat) : Int := if v.n = 0 then 0 else v.x0 + roundDiv v.s1 v.n

/-- The sample standard deviation. -/
def Stat.sdev (v : Stat) : Nat :=
  if v.n < 2 then 0 else sat32 (sqrtRound ((v.n : Int) * v.s2 - v.s1 * v.s1).toNat (v.n * (v.n - 1)))

/-! ### Shots (R218, R219, R222) -/

/-- EDGE of a source accepts an edge: 0 rising, 1 falling, 2 both, 3 as 0; internal sources ignore it (R217). -/
def edgeOk (src cfg : Nat) (falling : Bool) : Bool :=
  if 0x18 ≤ src then true
  else match cfg with
    | 1 => falling
    | 2 => true
    | _ => !falling

/-- A slot of the shot has found its end. -/
def StopRun.over (r : StopRun) : Bool := r.stop.isSome || r.missed

/-- The raw record of a slot at the end of a shot (R222). -/
def rawRec (start : Int) (r : StopRun) : StampRec :=
  { lo := linNs start % 2 ^ 32 + fracOf start * 2 ^ 32 + r.cfg.k * 2 ^ 48 +
      (128 + bnat r.missed * 64 + bnat r.close * 32) * 2 ^ 56
    hi := ofSigned 64 (r.stop.getD 0) }

/-- A raw record enters the FIFO of 64 (R222). -/
def State.pushRaw (s : State) (r : StampRec) : State :=
  if s.im.raw.length < 64 then { s with im := { s.im with raw := s.im.raw ++ [r] } }
  else s.count IM_CNT_RAW_OVF

/-- A shot whose slots have all found their end is over at a time (R218 to R220). -/
def State.endShot (s : State) (sh : Shot) (t : Int) : State :=
  let stats := sh.slots.foldl (fun m r =>
    let v := m.get {} r.cfg.k
    m.set {} r.cfg.k (match r.stop with
      | some x => v.add x
      | none => { v with missed := v.missed + 1 })) s.im.stats
  let n := s.im.shots + 1
  let fin := decide (s.im.cfg.n ≤ n)
  let s : State := { s with im := { s.im with
    stats := stats, shots := n, shot := none, ended := some t
    start0 := if s.im.shots = 0 then sh.start else s.im.start0
    st := if fin then .done else .running, claimDone := s.im.claimDone || (fin && s.im.claim.isSome) } }
  let s := if s.bit IM_CTL 5 then sh.slots.foldl (fun s r => s.pushRaw (rawRec sh.start r)) s else s
  s.raiseIf fin 15

/-- The shot goes on, or ends when every slot has found its end. -/
def State.putShot (s : State) (sh : Shot) (t : Int) : State :=
  if sh.slots.all StopRun.over then s.endShot sh t else { s with im := { s.im with shot := some sh } }

/-- A distance in 2^-16 ns has reached a number of timing cycles. -/
def pastCycles (d : Int) (cycles : Nat) : Bool := decide ((cycles : Int) * cycleFifths ≤ 5 * d)

/-- The time of a window's close, in 2^-16 ns, rounded up. -/
def winEnd (start : Int) (c : StopCfg) : Int := start - (-((c.hi : Int) * cycleFifths)) / 5

/-- Windows that have closed at a time miss their stops (R218) (log entry 50). -/
def State.closeWindows (s : State) (t : Int) : State :=
  match s.im.shot with
  | none => s
  | some sh =>
    let closed (r : StopRun) : Bool := !r.over && pastCycles (t - sh.start) r.cfg.hi
    if sh.slots.any closed then
      let e := sh.slots.foldl (fun m r => if closed r then max m (winEnd sh.start r.cfg) else m) sh.start
      s.putShot { sh with slots := sh.slots.map fun r => if closed r then { r with missed := true } else r } e
    else s

/-- A counted edge may be a slot's stop (R218). -/
def StopRun.edge (r : StopRun) (src : Nat) (falling : Bool) (start t : Int) (timed : Bool) : StopRun :=
  if r.over || decide (r.cfg.src ≠ src) || !edgeOk src r.cfg.edge falling ||
      !pastCycles (t - start) r.cfg.lo || pastCycles (t - start) r.cfg.hi then r
  else
    let c := r.cnt + 1
    if c < r.cfg.n then { r with cnt := c }
    else if timed then { r with cnt := c, stop := some (t - start) }
    else { r with cnt := c, missed := true, close := true }

/-- A start: a shot opens (R218, R219).  Edges on other inputs at the very time of the start count (R223). -/
def State.openShot (s : State) (src : Nat) (t : Int) (same : List PastEdge) : State :=
  let same := same.filter fun e => decide (e.t = t) && decide (e.src ≠ src)
  let slot (c : StopCfg) : StopRun :=
    same.foldl (fun r e => r.edge e.src e.falling t e.t e.timed) { cfg := c }
  let sh : Shot := { start := t, slots := s.im.cfg.slots.map slot }
  State.putShot { s with im := { s.im with st := .running } } sh t

/-- The engine remembers an edge, with those at the same time. -/
def State.remember (s : State) (e : PastEdge) : State :=
  { s with im := { s.im with recent := (s.im.recent.filter fun x => decide (x.t = e.t)) ++ [e] } }

/-- An edge of a source at a time (R217 to R219); `timed` is false when its converter did not time it. -/
def State.shotFeed (s : State) (src : Nat) (falling : Bool) (t : Int) (timed : Bool) : State :=
  if s.im.st ≠ .armed ∧ s.im.st ≠ .running then s
  else
    let s := s.closeWindows t
    let same := s.im.recent
    let s := s.remember ⟨src, falling, t, timed⟩
    let starts := decide (s.im.cfg.src = src) && edgeOk src s.im.cfg.edge falling
    match s.im.shot with
    | some sh =>
      let s := if starts then s.count IM_CNT_IGN_START else s
      s.putShot { sh with slots := sh.slots.map fun r => r.edge src falling sh.start t timed } t
    | none =>
      if starts = false ∨ timed = false ∨ s.im.convFail then s
      else
        match s.im.ended with
        | some e => if pastCycles (t - e) 4 then s.openShot src t same else s.count IM_CNT_IGN_START
        | none => s.openShot src t same

/-- The recovered clocks' edges up to a time are taken in their order, as sources 0x1C to 0x1F (R217) (log entry 50). -/
def State.clocksUpTo (s : State) (t : Int) : State :=
  let due := s.im.clkDue.filter fun e => decide (e.2 ≤ t)
  let s : State := { s with im := { s.im with clkDue := s.im.clkDue.filter fun e => !decide (e.2 ≤ t) } }
  due.foldl (fun s e => s.shotFeed e.1 false e.2 true) s

/-- An edge of a source at a time, after the recovered clocks' edges that come before it. -/
def State.shotEdge (s : State) (src : Nat) (falling : Bool) (t : Int) (timed : Bool) : State :=
  (s.clocksUpTo t).shotFeed src falling t timed

/-- The windows that have closed at a time, after the recovered clocks' edges before it. -/
def State.shotTime (s : State) (t : Int) : State := (s.clocksUpTo t).closeWindows t

/-- A mark of the port that the measurement names (R217). -/
def State.portMark (s : State) (src p : Nat) (t : Int) (timed : Bool) : State :=
  if s.im.cfg.port = p then s.shotEdge src false t timed else s

/-- The open shot is discarded by a step of the output time (R223). -/
def State.stepShot (s : State) : State :=
  match s.im.shot with
  | some _ => State.count { s with im := { s.im with shot := none } } IM_CNT_STEP
  | none => s

/-- ABORT, entry into Thatch or into Underlay mode (R223). -/
def State.abortShots (s : State) (reason : Nat) : State :=
  if s.im.st = .armed ∨ s.im.st = .running then
    { s with im := { s.im with shot := none, st := .aborted, reason := reason, claimDone := s.im.claim.isSome } }
  else s

end Sys2Proof.Machine
end

