-- ==== Sys2Proof/Machine/Rx.lean ====
section
/-! DEFINITION. Sys2Proof/Machine/Rx.lean: marks and their stamps (R65 to R69, R73), and the pipeline that every
received frame goes through before it is acted on (R62 to R64, R87, R91, R94, R102, R312, R332, R338, R51 to R53). -/
namespace Sys2Proof.Machine
open Sys2Proof.Config

/-! ### Gaps in the link sequence (R87, R312) -/

/-- Open a gap at the expected number, once, and send one negative acknowledgement for it (R87).  `scored` gaps are
counted and scored as sequence gaps. -/
def State.openGap (s : State) (p : Nat) (scored : Bool) : State :=
  let v := s.port p
  if v.rpl.gap then s
  else
    let s := s.setPort p { v with rpl := { v.rpl with gap := true, nakSent := true } }
    let s := if scored then ((s.count (PF_CNT_FCS p)).evt 15).scoreFcs p else s
    s.xsend p (.nak v.rpl.expect)

/-- The frame that held the expected number is gone, or is delivered without it: the held number is a gap (R312)
(log entry 38). -/
def State.heldGone (s : State) (p mark : Nat) : State :=
  let v := s.port p
  if v.rpl.held = some (mark % 16) then (s.setPort p { v with rpl := { v.rpl with held := none } }).openGap p true else s

/-! ### Marks (R65 to R69) -/

/-- The fibre correction applies at uplinks only (R69). -/
def Port.fibTerm (v : Port) : Int := if v.role.isLower then v.fib else 0

/-- T_rx of R69, rounded once. -/
def State.rxTime (s : State) (p : Nat) (e : Edge) (adj : Nat) : Int :=
  let v := s.port p
  toUnits (s.edgeFifths e - 5 * ((v.rxLat : Int) + 256 * adj + v.fibTerm))

/-- T_tx of R69, rounded once. -/
def State.txTime (s : State) (p : Nat) (e : Edge) (adj : Nat) : Int :=
  let v := s.port p
  toUnits (s.edgeFifths e + 5 * ((v.txLat : Int) + 256 * adj - v.fibTerm))

/-- An edge in converter codes since reset, for the spacing of marks. -/
def State.absCode (s : State) (e : Edge) : Nat := s.absCyc e.cyc * 4096 + e.code

/-- A receive mark: timed unless it follows the previous one by less than 3.2 ns or the converter is not calibrated,
and kept under its identity (R67, R68, R213) (log entries 37 and 59). -/
def State.receiveMark (s : State) (p id : Nat) (e : Edge) (adj : Nat) : State :=
  let s := s.atCyc e.cyc
  let v := s.port p
  let now := s.absCode e
  let close := match v.lastRx with
    | some l => decide (now < l + 8192)
    | none => false
  let miss := close || !s.convTimes (convRx p)
  let old := v.marks.get {} (id % 16)
  let slot : MarkSlot :=
    { stamp := if miss then none else some (s.rxTime p e adj), cgen := v.cgen, miss := miss, waiting := true
      lost := old.lost + bnat old.waiting, at_ := now }
  let s := s.setPort p { v with marks := v.marks.set {} (id % 16) slot, lastRx := some now }
  let s := if old.waiting then (s.count (PF_CNT_ORPHAN p)).heldGone p id else s
  s.portMark 0x21 p (s.rxTime p e adj) (!miss)

/-- The stamp of a delivered frame: that of its mark identity, or MISS when the mark was not timed or its identity
has been used again (R68) (log entry 37). -/
def State.claimMark (s : State) (p id : Nat) : State × Stamp :=
  let v := s.port p
  let m := v.marks.get {} (id % 16)
  if m.lost ≠ 0 then
    (s.setPort p { v with marks := v.marks.set {} (id % 16) { m with lost := m.lost - 1 } }, ⟨0, v.cgen, true⟩)
  else if m.waiting then
    (s.setPort p { v with marks := v.marks.set {} (id % 16) {} }, ⟨m.stamp.getD 0, m.cgen, m.stamp.isNone⟩)
  else (s, ⟨0, v.cgen, true⟩)

/-- The identity of the oldest receive mark that has been timed and whose frame has not yet been delivered (R312). -/
def Port.heldMark (v : Port) : Option Nat :=
  let l := v.marks.filter fun e => e.2.waiting && e.2.stamp.isSome
  (sortBy (fun a b => decide (a.2.at_ ≤ b.2.at_)) l).head?.map Prod.fst

/-- Types whose frames have a stamp inserted (R72). -/
def TxWait.stamped (w : TxWait) : Bool :=
  if w.proto then w.typ = 0x02 || w.typ = 0x06 else w.typ = 0x0 || w.typ = 0x1

/-- A transmit mark: T_tx is formed for the oldest frame handed over, the insertion bytes are driven, the record is
made, and the stamps of an exchange are kept (R69, R73, R84, R98) (log entry 37). -/
def State.transmitMark (s : State) (p : Nat) (e : Edge) (adj : Nat) : State :=
  let s := s.atCyc e.cyc
  let v := s.port p
  match v.txWait with
  | [] => s
  | w :: rest =>
    let miss := !s.convTimes (convTx p)
    let at_ := s.txTime p e adj
    let (s, t) := if miss then (let r := s.drawFree; (r.1, (r.2 : Int))) else (s, at_)
    let st : Stamp := ⟨t, v.cgen, miss⟩
    let v := { v with
      txWait := rest
      lastMarked := some w
      lastTx := some (s.absCode e)
      upper := if w.proto = false ∧ w.typ = 0x0 then { v.upper with t1 := some st, seq := w.seq } else v.upper
      lower := if w.proto = false ∧ w.typ = 0x1 then v.lower.map fun x => { x with t3 := some st } else v.lower }
    let s := s.setPort p v
    let s := if w.stamped then s.emit (.insertion p w.typ t) else s
    (s.stampRecord p true w.proto w.seq w.typ w.express miss false (some t) v.cgen).portMark 0x20 p at_ (!miss)

/-- A record is that of a marked frame, on transmit and not yet flagged LATE (R84). -/
def TxWait.made (w : TxWait) (r : StampRec) : Bool :=
  bitOf r.hi 31 && decide (field r.hi 0 16 = w.seq) && decide (field r.hi 16 8 = w.typ % 256) && !bitOf r.hi 26

/-- Flag the first record of a list that is that of a marked frame. -/
def flagFirst (w : TxWait) : List StampRec → List StampRec
  | [] => []
  | r :: l => if w.made r then { r with hi := r.hi + 2 ^ 26 } :: l else r :: flagFirst w l

/-- A late insertion: counted, and the frame's record, in the FIFO or in the stamp log, and its stamp are flagged LATE
(R74, R98) (log entry 37). -/
def State.txInsLate (s : State) (p : Nat) : State :=
  let v := s.port p
  let s := s.count (PF_CNT_LATE p)
  match v.lastMarked with
  | none => s
  | some w =>
    let s := match v.lastLog with
      | some (a, r) => if w.made r then s.memWrite .log a (leBytes 8 r.lo ++ leBytes 8 (r.hi + 2 ^ 26)) else s
      | none => s
    s.setPort p { v with
      fifo := (flagFirst w v.fifo.reverse).reverse
      lastLog := none
      upper := if w.proto = false ∧ w.typ = 0x0 then { v.upper with t1 := v.upper.t1.map fun x => { x with bad := true } } else v.upper
      lower := if w.proto = false ∧ w.typ = 0x1 then
          v.lower.map fun x => { x with t3 := x.t3.map fun y => { y with bad := true } } else v.lower }

/-! ### The link sequence at the receiver (R87, R312) -/

/-- The distance of a number past the next expected one. -/
def Port.dist (v : Port) (lseq : Nat) : Nat := (lseq + 256 - v.rpl.expect % 256) % 256

/-- A frame in the replay sequence: accepted, held past, a gap, or a duplicate (R87, R312) (log entry 38). -/
def State.rxSeq (s : State) (p lseq mark : Nat) (express : Bool) : State × Bool :=
  let v := s.port p
  let d := v.dist lseq
  if d = 0 then
    (s.setPort p { v with rpl := { v.rpl with
      expect := (v.rpl.expect + 1 + v.rpl.ahead) % 256, unacked := v.rpl.unacked + 1 + v.rpl.ahead
      ahead := 0, held := none, gap := false, nakSent := false } }, true)
  else if v.rpl.held = some (mark % 16) then (s.heldGone p mark, false)
  else if 128 ≤ d ∨ d ≤ v.rpl.ahead then (s, false)
  else if express ∧ v.rpl.gap = false ∧ d = v.rpl.ahead + 1 ∧ (v.rpl.held <|> v.heldMark).isSome then
    ((s.setPort p { v with rpl := { v.rpl with
      ahead := v.rpl.ahead + 1, held := v.rpl.held <|> v.heldMark } }).count TP_CNT_OVERTAKE, true)
  else (s.openGap p true, false)

/-- A frame discarded for its FCS or its parity: a gap at the expected number, scored and counted for its own fault
(R87). -/
def State.rxCorrupt (s : State) (p : Nat) (bad : RxBad) : State :=
  let s := if bad.words = 0 then s else ((s.count (PF_CNT_PAR p) bad.words).evt 14).scorePar p bad.words
  let s := if bad.fcs then ((s.count (PF_CNT_FCS p)).evt 15).scoreFcs p else s
  s.openGap p false

/-! ### The pipeline -/

/-- What a message type asks of the pipeline (R103, R296, R277). -/
structure RxKind where
  typ : Nat
  /-- LEN that the type's payload requires. -/
  need : Nat
  replayed : Bool := false
  identity : Bool := false
  express : Bool := true
  courseDep : Bool := false
  /-- Acted on in Underlay mode. -/
  underlay : Bool := false
  deriving DecidableEq, Repr

/-- What the pipeline leaves: the state, the receive stamp, whether the frame is acted on, and its full course
number. -/
structure Rx where
  s : State
  stamp : Stamp
  ok : Bool
  course : Nat
  deriving DecidableEq, Repr

/-- A frame discarded. -/
def Rx.drop (s : State) (st : Stamp) : Rx := ⟨s, st, false, 0⟩

/-- Delivery of a frame: counted, its mark claimed, its record made; a frame without a link number that held the expected one
leaves a gap (R312); a tagged, too long or incomplete frame is
discarded and counted, and a port that is not up or is retired discards every frame (R62 to R64, R71, R84, R329)
(log entry 38). -/
def State.rxBegin (s : State) (h : RxBase) (proto : Bool) (seq typ : Nat) (express : Bool) : Rx :=
  if s.isUp h.port = false then .drop s ⟨0, 0, true⟩
  else
    let s := (s.atCyc h.cyc).count (PF_CNT_RX h.port)
    let s := s.evt 11
    let s := if s.isRidge then s.evt (32 + h.port / 16) else s
    let (s, st) := s.claimMark h.port h.mark
    let s := s.stampRecord h.port false proto seq typ express st.bad false (some st.t) st.cgen
    let s := if proto then s else s.heldGone h.port h.mark
    if h.tagged || h.tooLong || h.incomplete then .drop ((s.heldGone h.port h.mark).count (PF_CNT_DROP h.port)) st
    else if (s.port h.port).health = .retired ∧ ¬ (proto = true ∧ typ = 0x06) then .drop s st
    else ⟨s, st, true, 0⟩

/-- A received Zudar frame up to the point at which it is acted on.  `bodyOk` is false when a time field breaks
R35 (log entry 38). -/
def State.rxZudar (s : State) (h : RxHead) (k : RxKind) (bodyOk : Bool := true) : Rx :=
  let r := s.rxBegin h.toRxBase true h.seq k.typ k.express
  if r.ok = false then r
  else
    let s := if k.express then r.s else (r.s.napWake).busy
    let p := h.port
    let v := s.port p
    if h.ver ≠ 2 ∨ h.len < 24 ∨ h.pastFcs then .drop ((s.heldGone p h.mark).count TD_CNT_MALFORMED) r.stamp
    else if h.dom ≠ v.dom then .drop ((s.heldGone p h.mark).count TD_CNT_DOMNUM) r.stamp
    else if v.mismatch ∧ v.cal.running = false ∧ k.identity = false then
      .drop ((s.heldGone p h.mark).count (PF_CNT_DROP p)) r.stamp
    else
      let s := if k.typ = 0x04 then s else s.takeAck p h.lack
      let q := if h.rpl then s.rxSeq p h.lseq h.mark k.express else (s.heldGone p h.mark, true)
      let s := q.1
      if q.2 = false then .drop s r.stamp
      else if h.len < k.need ∨ bodyOk = false then .drop (s.count TD_CNT_MALFORMED) r.stamp
      else if (s.port p).health = .admitting ∧ k.replayed then .drop (s.count (PF_CNT_DROP p)) r.stamp
      else if s.underlay ∧ k.underlay = false then
        .drop (if k.replayed then s.count (PF_CNT_DROP p) else s) r.stamp
      else if k.courseDep then
        if s.td.acq = false then .drop (s.count TD_CNT_UNACQ) r.stamp
        else
          match serialRebuild s.clk.course h.course with
          | none => .drop (s.count TD_CNT_RANGE) r.stamp
          | some c => ⟨s, r.stamp, true, c⟩
      else ⟨s, r.stamp, true, 0⟩

/-- A received IEEE 1588 frame up to the point at which it is acted on (R94, R96, R91) (log entry 38). -/
def State.rxPtp (s : State) (h : PtpHead) (typ need : Nat) : Rx :=
  let r := s.rxBegin h.toRxBase false h.seq typ true
  if r.ok = false then r
  else
    let s := r.s
    let v := s.port h.port
    if h.sdo ≠ 0 ∨ h.ver ≠ 2 ∨ h.len < need ∨ h.twoStep then .drop (s.count TD_CNT_MALFORMED) r.stamp
    else if h.domNum ≠ s.ptpDom v.dom then .drop (s.count TD_CNT_DOMNUM) r.stamp
    else if v.mismatch then .drop (s.count (PF_CNT_DROP h.port)) r.stamp
    else
      if s.underlay ∨ s.bit TD_CTL 0 = false then .drop s r.stamp
      else ⟨s, r.stamp, true, 0⟩

/-! ### The recovered clock -/

/-- The uplinks in ascending order of port: the uplink slots (R131). -/
def State.uplinkSlots (s : State) : List Nat :=
  s.portList.filter fun p => (s.port p).role.isLower

/-- The port of an uplink candidate 6 to 9 (R131). -/
def State.slotPort (s : State) (n : Nat) : Option Nat :=
  if s.isEave then (if n = 6 then some 0 else if n = 7 then some 1 else none)
  else s.uplinkSlots[n - 6]?

/-- The candidate of a port. -/
def State.candOf (s : State) (p : Nat) : Option Nat :=
  [6, 7, 8, 9].find? fun n => decide (s.slotPort n = some p)

/-- A candidate. -/
def State.cand (s : State) (n : Nat) : Cand := s.rs.cand.get {} n
/-- Replace a candidate. -/
def State.setCand (s : State) (n : Nat) (c : Cand) : State :=
  { s with rs := { s.rs with cand := s.rs.cand.set {} n c } }

/-- The clock of a port is withdrawn from selection at once (R81, R137). -/
def State.withdrawClock (s : State) (p : Nat) : State :=
  match s.candOf p with
  | some n => s.setCand n { s.cand n with loss := true }
  | none => s

end Sys2Proof.Machine
end

