-- ==== Sys2Proof/Machine/Link.lean ====
section
/-! DEFINITION. Sys2Proof/Machine/Link.lean: the commands of the port front ends and of the egress scheduler: marks,
levels of a port, the replay buffer, handovers, pacing (spec/03_port_stamping.md, spec/12_traffic.md). -/
namespace Sys2Proof.Machine
open Sys2Proof.Config

/-- What a meaning answers. -/
abbrev Result := Host.Outcome State Fault Refusal

/-- An event of the main logic: without effect while the main logic is held or switched off (R387) (log entry 4). -/
def State.main (s : State) (f : State → State) : Result := .next (if s.up then f s else s)

/-- An event at a local port of the role. -/
def State.atPort (s : State) (p : Nat) (f : State → State) : Result :=
  s.main fun s => if p < s.nPorts then f s else s

/-- GC_REV.REV (R408). -/
def revision : Nat := 0x0100

/-- The HELLO payload of a port (R104). -/
def State.helloBody (s : State) (p : Nat) : HelloBody :=
  { role := bnat s.isRidge, home := if s.isRidge then s.home.num else 0xFF, port := s.portNum p
    prole := (s.port p).role.num, gang := s.ties.gangPos, rev := revision }

/-- Send HELLO on a port. -/
def State.sendHello (s : State) (p : Nat) : State := s.xsend p (.hello (s.helloBody p))

/-- The port comes up (R86, R104, R105): the link sequence restarts, and the loss timer and the continuity check wait
for their first frames. -/
def State.comeUp (s : State) (p : Nat) : State :=
  ((s.restartLink p).modPort p fun v =>
    { v with upTick := s.clk.ticks, kaTick := none, lossDecl := false, fibDone := false }).dropExch p

/-- RECEIVE_MARK (R67 to R69). -/
def execReceiveMark (p id : Nat) (e : Edge) (adj : Nat) (s : State) : Result :=
  s.atPort p fun s => if s.isUp p then s.receiveMark p id e adj else s

/-- TRANSMIT_MARK (R69, R73). -/
def execTransmitMark (p : Nat) (e : Edge) (adj : Nat) (s : State) : Result :=
  s.atPort p fun s => if s.isUp p then s.transmitMark p e adj else s

/-- TX_INS_LATE (R74). -/
def execTxInsLate (p : Nat) (s : State) : Result := s.atPort p fun s => s.txInsLate p

/-- PORT_UP_RISE (R86, R104). -/
def execPortUpRise (p : Nat) (s : State) : Result :=
  s.atPort p fun s =>
    if (s.port p).up then s
    else
      let s := s.modPort p fun v => { v with up := true }
      if s.enabled p then (s.comeUp p).sendHello p else s

/-- PORT_UP_FALL (R90, R137, R322). -/
def execPortUpFall (p : Nat) (s : State) : Result :=
  s.atPort p fun s =>
    if (s.port p).up = false then s
    else
      let s := (s.flushPort p).scoreFlap p
      let s := (s.modPort p fun v => { v with up := false, marks := [], txWait := [] }).dropExch p
      s.withdrawClock p

/-- LANE_FLAP (R322). -/
def execLaneFlap (p : Nat) (s : State) : Result :=
  s.atPort p fun s => (s.count (PF_CNT_FLAP p)).scoreFlap p

/-- RCLK_OK_FALL (R81). -/
def execRclkOkFall (p : Nat) (s : State) : Result :=
  s.atPort p fun s =>
    if (s.port p).rclkOk then
      ((s.modPort p fun v => { v with rclkOk := false }).count (PF_CNT_RCLK p)).withdrawClock p
    else s

/-- The pipeline's view of ACK and NAK (R103). -/
def kAck : RxKind := { typ := 0x03, need := 24, underlay := true }
/-- NAK names the expected number in LACK. -/
def kNak : RxKind := { typ := 0x04, need := 24, underlay := true }

/-- ACK_RECEIVE (R88). -/
def execAckReceive (h : RxHead) (s : State) : Result :=
  s.atPort h.port fun s => (s.rxZudar h kAck).s

/-- NAK_RECEIVE (R88). -/
def execNakReceive (h : RxHead) (s : State) : Result :=
  s.atPort h.port fun s =>
    let r := s.rxZudar h kNak
    if r.ok then r.s.takeNak h.port h.lack else r.s

/-- Send a standalone acknowledgement when any received frame is unacknowledged; they stay unacknowledged when the X queue
has no place for it (R87, R310). -/
def State.sendAck (s : State) (p : Nat) : State :=
  if (s.port p).rpl.unacked = 0 then s
  else
    let t := s.xsend p .ack
    if (t.port p).xq.length = (s.port p).xq.length then t
    else t.modPort p fun v => { v with rpl := { v.rpl with unacked := 0 } }

/-- ACK_SEND (R87): due when ACK_EVERY frames are unacknowledged. -/
def execAckSend (p : Nat) (s : State) : Result :=
  s.atPort p fun s => if s.ackEvery p ≤ (s.port p).rpl.unacked then s.sendAck p else s

/-- REPLAY_TIMEOUT (R88), judged at the boundary that ends the running course. -/
def execReplayTimeout (p : Nat) (s : State) : Result :=
  s.atPort p fun s => if s.replayDue p (s.clk.ticks + 1) then s.replayTimeout p (s.clk.ticks + 1) else s

/-- A frame with a failed check sequence or words that fail parity is received: counted, its mark claimed and its record made,
whose type, number, protocol and class are those of a frame that is not intact (R84, R92) (log entry 37). -/
def State.rxSpoilt (s : State) (h : RxBase) : State :=
  let s := ((s.atCyc h.cyc).count (PF_CNT_RX h.port)).evt 11
  let s := if s.isRidge then s.evt (32 + h.port / 16) else s
  let (s, st) := s.claimMark h.port h.mark
  let (s, r) := s.drawFree
  s.stampRecord h.port false (bitOf r 24) (r % 65536) (r / 65536 % 256) (bitOf r 25) st.bad false (some st.t) st.cgen

/-- RXF_FCS_ERR (R87): a frame with a failed check sequence or words that fail parity. -/
def execRxfFcsErr (h : RxBase) (bad : RxBad) (s : State) : Result :=
  s.atPort h.port fun s =>
    if s.isUp h.port = false then s
    else
      let s := s.rxSpoilt h
      if (s.port h.port).health = .retired then s else s.rxCorrupt h.port bad

/-- PTP_OTHER_RECEIVE (R12). -/
def execPtpOtherReceive (h : PtpHead) (typ : Nat) (s : State) : Result :=
  s.atPort h.port fun s =>
    let r := s.rxBegin h.toRxBase false h.seq typ true
    if r.ok then r.s.count (PF_CNT_PTP_OTHER h.port) else r.s

/-- ZUDAR_RESERVED_TYPE (R102, R103, R277, R296). -/
def execZudarReservedType (h : RxHead) (typ : Nat) (s : State) : Result :=
  s.atPort h.port fun s =>
    let r := s.rxZudar h { typ := typ, need := 24, identity := true, underlay := true }
    if r.ok then r.s.count TD_CNT_MALFORMED else r.s

/-- EGRESS_HANDOVER (R310) at a timing cycle of the running course. -/
def execEgressHandover (p cyc : Nat) (s : State) : Result :=
  s.atPort p fun s => (s.atCyc cyc).handover p

/-! ### Pacing (R314) -/

/-- A level below 0 becomes 0 (R314). -/
def forgive (l : Int) : Int := max 0 l

/-- A write of TP_DEBT_CLR: debts of the named buckets are forgiven (R314, R321). -/
def State.debtClear (s : State) (v : Nat) : State :=
  let ps := if bitOf v 31 then List.range s.nPorts else if field v 0 9 < s.nPorts then [field v 0 9] else []
  s.each ps fun s p => (s.fillBuckets p).modPort p fun q =>
    { q with
      tLevel := if bitOf v 10 then forgive q.tLevel else q.tLevel
      cLevel := if bitOf v 9 then forgive q.cLevel else q.cLevel }

/-- The register of a pacing profile or of TP_PMAP at an offset. -/
def profileReg (off : Nat) : Option Reg :=
  if 0x7100 ≤ off ∧ off < 0x7300 then
    let k := (off - 0x7100) / 0x20
    match (off - 0x7100) % 0x20 with
    | 0x00 => some (TP_PROFk_CFG k)
    | 0x04 => some (TP_PROFk_C_RATE k)
    | 0x08 => some (TP_PROFk_C_BURST k)
    | 0x0C => some (TP_PROFk_T_RATE k)
    | 0x10 => some (TP_PROFk_T_BURST k)
    | _ => none
  else if 0x7400 ≤ off ∧ off < 0x7500 ∧ off % 4 = 0 then some (TP_PMAPj ((off - 0x7400) / 4))
  else none

/-- A write to a profile or to TP_PMAP takes effect at once; levels are kept in bytes and cut to the new BURST
(R314). -/
def State.profileWrite (s : State) (r : Reg) (v : Nat) : State :=
  let ps := List.range s.nPorts
  let s := (s.each ps fun s p => s.fillBuckets p).wr r v
  s.each ps fun s p => s.fillBuckets p

/-! ### Enabling and disabling a port, and its constants -/

/-- A write of PF_CTL: RATE is ignored while EN is 1; a rise of EN loads the constants and, with port_up, brings the
port up; a fall empties its buffer and queues (R75, R76, R86, R90, R92). -/
def State.portCtlWrite (s : State) (p v : Nat) : State :=
  let was := s.enabled p
  let old := s.rd (PF_CTL p)
  let v := if was then v - field v 10 2 * 1024 + field old 10 2 * 1024 else v
  let s := s.wr (PF_CTL p) v
  let now := bitOf v 0
  if was = false ∧ now then
    let s := s.openGate 11
    if (s.port p).up then s.comeUp p else s
  else if was ∧ now = false then
    ((s.flushPort p).modPort p fun q => { q with marks := [], txWait := [], kaTick := none }).dropExch p
  else s

/-- A write of PF_TX_LAT, PF_RX_LAT or PF_FIB_CORR takes effect at the next boundary (R75). -/
def State.portConstWrite (s : State) (p : Nat) (r : Reg) (v : Nat) : State :=
  (s.wr r v).modPort p fun q => { q with constPend := true }

/-- At the boundary, constants written take effect and the generation advances (R75). -/
def State.applyConstants (s : State) (p : Nat) : State :=
  let q := s.port p
  if q.constPend then
    s.setPort p { q with
      txLat := s.rd (PF_TX_LAT p), rxLat := s.rd (PF_RX_LAT p), fib := toSigned 32 (s.rd (PF_FIB_CORR p))
      constPend := false, cgen := (q.cgen + 1) % 256 }
  else s

end Sys2Proof.Machine
end

