-- ==== Sys2Proof/Machine/Coll.lean ====
section
/-! DEFINITION. Sys2Proof/Machine/Coll.lean: the collective engine: exact lanes and the one rounding, votes, the
contribution of an eave, the tree counters of a ridge, the authority root's decisions
(spec/11_collectives.md). -/
namespace Sys2Proof.Machine
open Sys2Proof.Config

/-! ### Formats (R290, R291) -/

/-- A floating-point format: exponent bits, mantissa bits, bias, and whether it has infinities. -/
structure FloatFmt where
  eb : Nat
  mb : Nat
  bias : Nat
  hasInf : Bool
  deriving DecidableEq, Repr

/-- The float formats of R290. -/
def floatFmt : Nat → Option FloatFmt
  | 0x0 => some ⟨8, 23, 127, true⟩
  | 0x1 => some ⟨8, 7, 127, true⟩
  | 0x2 => some ⟨5, 10, 15, true⟩
  | 0x3 => some ⟨4, 3, 7, false⟩
  | 0x4 => some ⟨5, 2, 15, true⟩
  | _ => none

/-- Width of a format in bits. -/
def fmtBits : Nat → Nat
  | 0x0 => 32
  | 0x1 => 16
  | 0x2 => 16
  | 0x3 => 8
  | 0x4 => 8
  | 0x8 => 32
  | 0x9 => 32
  | _ => 64

/-- Signed integer formats. -/
def fmtSigned (f : Nat) : Bool := f = 0x8 || f = 0xA
/-- Integer formats. -/
def fmtInt (f : Nat) : Bool := f = 0x8 || f = 0x9 || f = 0xA || f = 0xB

/-- The pairs of FMT and RFMT that R290 permits. -/
def fmtPair (f r : Nat) : Bool :=
  match f with
  | 0x0 => r = 0x0
  | 0x1 => r = 0x1 || r = 0x0
  | 0x2 => r = 0x2 || r = 0x0
  | 0x3 => r = 0x3 || r = 0x0
  | 0x4 => r = 0x4 || r = 0x0
  | 0x8 => r = 0x8 || r = 0xA
  | 0x9 => r = 0x9 || r = 0xB
  | 0xA => r = 0xA
  | 0xB => r = 0xB
  | _ => false

/-- The weight of one unit: values are multiples of 2^-149 (R291). -/
def two149 : Int := ((2 ^ 149 : Nat) : Int)

/-- A decoded float: NaN, an infinity with its sign, or a finite value as A with its sign. -/
inductive FloatVal where
  | nan
  | inf (neg : Bool)
  | fin (neg : Bool) (a : Nat)
  deriving DecidableEq, Repr

/-- Decode the low bits of a register in a float format (R290, R291). -/
def decodeFloat (f : FloatFmt) (bits : Nat) : FloatVal :=
  let man := field bits 0 f.mb
  let ex := field bits f.mb f.eb
  let neg := bitOf bits (f.mb + f.eb)
  let top := 2 ^ f.eb - 1
  if f.hasInf ∧ ex = top then (if man = 0 then .inf neg else .nan)
  else if f.hasInf = false ∧ ex = top ∧ man = 2 ^ f.mb - 1 then .nan
  else if ex = 0 then .fin neg (man * 2 ^ (150 - f.bias - f.mb))
  else .fin neg ((man + 2 ^ f.mb) * 2 ^ (149 + ex - f.bias - f.mb))

/-- The identity of an operation (R289). -/
def opIdentity (op : Nat) : Int :=
  match op with
  | 0x02 => ((2 ^ 319 : Nat) : Int) - 1
  | 0x03 => -((2 ^ 319 : Nat) : Int)
  | 0x04 => ((2 ^ 64 - 1 : Nat) : Int) * two149
  | _ => 0

/-- A lane before its first partial: A at its identity, Z at 1 where its fold is AND (R289, R292). -/
def identityLane (op : Nat) : Lane := { a := opIdentity op, z := op = 0x01 || op = 0x03 }

/-- The lane that an eave contributes from the low bits of a register (R284, R291, R292). -/
def laneOf (op fmt bits : Nat) : Lane :=
  match floatFmt fmt with
  | some f =>
    match decodeFloat f bits with
    | .nan => { identityLane op with nan := true, z := op = 0x03 }
    | .inf neg => { identityLane op with pinf := !neg, ninf := neg, z := op = 0x03 }
    | .fin neg a =>
      let negZero := neg && a = 0
      { a := if neg then -(a : Int) else a
        z := match op with
          | 0x01 => negZero
          | 0x02 => negZero
          | 0x03 => !(a = 0 && !neg)
          | _ => false }
  | none =>
    let w := fmtBits fmt
    let v : Int := if fmtSigned fmt then toSigned w bits else ((bits % 2 ^ w : Nat) : Int)
    { a := v * two149, z := op = 0x01 || op = 0x03 }

/-- A[212:149]: 64 bits of A in two's complement (R289, R291). -/
def bitsOfA (a : Int) : Nat := (a / two149 % ((2 ^ 64 : Nat) : Int)).toNat

/-- A bitwise fold on A[212:149]; the bits above are 0 (R289) (log entry 54). -/
def foldBits (f : Nat → Nat → Nat) (x y : Int) : Int := ((f (bitsOfA x) (bitsOfA y) : Nat) : Int) * two149

/-- Fold the integers of two lanes (R289). -/
def foldInt (op : Nat) (x y : Int) : Int :=
  match op with
  | 0x01 => x + y
  | 0x02 => min x y
  | 0x03 => max x y
  | 0x04 => foldBits (· &&& ·) x y
  | 0x05 => foldBits (· ||| ·) x y
  | 0x06 => foldBits (· ^^^ ·) x y
  | _ => x

/-- Fold the Z flags of two lanes (R292). -/
def foldZ (op : Nat) (x y : Bool) : Bool := if op = 0x01 ∨ op = 0x03 then x && y else x || y

/-- Fold two lanes (R289, R292). -/
def foldLane (op : Nat) (x y : Lane) : Lane :=
  { a := foldInt op x.a y.a, nan := x.nan || y.nan, pinf := x.pinf || y.pinf, ninf := x.ninf || y.ninf, z := foldZ op x.z y.z }

/-- Fold two lists of lanes. -/
def foldLanes (op : Nat) (x y : List Lane) : List Lane := List.zipWith (foldLane op) x y

/-- A result word with its STATUS bits: INEXACT 1, OVF 2, INVALID 4, NAN 8 (R293, R297). -/
structure LaneResult where
  bits : Nat
  status : Nat := 0
  deriving DecidableEq, Repr

/-- The canonical quiet NaN (R293). -/
def quietNan : Nat → Nat
  | 0x0 => 0x7FC00000
  | 0x1 => 0x7FC0
  | 0x2 => 0x7E00
  | 0x3 => 0x7F
  | _ => 0x7E

/-- A float word of a format. -/
def packFloat (f : FloatFmt) (neg : Bool) (ex man : Nat) : Nat :=
  bnat neg * 2 ^ (f.eb + f.mb) + ex * 2 ^ f.mb + man

/-- The largest finite value: exponent field and mantissa (R293). -/
def maxFinite (f : FloatFmt) : Nat × Nat :=
  if f.hasInf then (2 ^ f.eb - 2, 2 ^ f.mb - 1) else (2 ^ f.eb - 1, 2 ^ f.mb - 2)

/-- An infinity; E4M3 has none and gives its NaN. -/
def infinityOf (r : Nat) (f : FloatFmt) (neg : Bool) : Nat :=
  if f.hasInf then packFloat f neg (2 ^ f.eb - 1) 0 else quietNan r

/-- Round n × 2^-149 to nearest, ties to even, in a format's precision and exponent range (R293). -/
def roundFloat (r : Nat) (f : FloatFmt) (sat neg : Bool) (n : Nat) : LaneResult :=
  let lead := Nat.log2 n
  let emin := 150 - f.bias                 -- exponent field 1, in powers of two over 2^-149
  let q := max lead emin - f.mb            -- weight of the last place
  let m := (roundDiv n (2 ^ q)).toNat
  let inexact := m * 2 ^ q ≠ n
  let q' := if m = 2 ^ (f.mb + 1) then q + 1 else q
  let m' := if m = 2 ^ (f.mb + 1) then 2 ^ f.mb else m
  let ex := if m' < 2 ^ f.mb then 0 else q' + f.mb + 1 - emin
  let man := m' % 2 ^ f.mb
  let top := maxFinite f
  if top.1 < ex ∨ (ex = top.1 ∧ top.2 < man) then
    if sat then { bits := packFloat f neg top.1 top.2, status := 3 }
    else { bits := infinityOf r f neg, status := if f.hasInf then 3 else 11 }
  else { bits := packFloat f neg ex man, status := bnat inexact }

/-- The root's result of one lane (R293). -/
def roundLane (op fmt rfmt : Nat) (sat : Bool) (l : Lane) : LaneResult :=
  match floatFmt fmt, floatFmt rfmt with
  | some _, some f =>
    if l.nan ∨ (op = 0x01 ∧ l.pinf ∧ l.ninf) then
      { bits := quietNan rfmt, status := if l.nan then 8 else 12 }
    else if op = 0x01 ∧ (l.pinf ∨ l.ninf) then { bits := infinityOf rfmt f l.ninf }
    else if op = 0x02 ∧ l.ninf then { bits := infinityOf rfmt f true }
    else if op = 0x03 ∧ l.pinf then { bits := infinityOf rfmt f false }
    else if op = 0x02 ∧ l.a = opIdentity op then { bits := infinityOf rfmt f false }
    else if op = 0x03 ∧ l.a = opIdentity op then { bits := infinityOf rfmt f true }
    else if l.a = 0 then { bits := packFloat f l.z 0 0 }
    else roundFloat rfmt f sat (decide (l.a < 0)) l.a.natAbs
  | _, _ =>
    let bitwise := op = 0x04 ∨ op = 0x05 ∨ op = 0x06
    let v : Int := if bitwise ∧ fmtSigned fmt then toSigned 64 (bitsOfA l.a) else l.a / two149
    let w := fmtBits rfmt
    let lo : Int := if fmtSigned rfmt then -((2 ^ (w - 1) : Nat) : Int) else 0
    let hi : Int := if fmtSigned rfmt then ((2 ^ (w - 1) : Nat) : Int) - 1 else ((2 ^ w : Nat) : Int) - 1
    if lo ≤ v ∧ v ≤ hi then { bits := ofSigned 64 v }
    else if sat then { bits := ofSigned 64 (clampI lo hi v), status := 2 }
    else
      let wrapped : Int := if fmtSigned rfmt then toSigned w (ofSigned w v) else ((ofSigned w v : Nat) : Int)
      { bits := ofSigned 64 wrapped, status := 2 }

/-- STATUS of an instance: the OR over its lanes (R293). -/
def statusOr (l : List LaneResult) : Nat := l.foldl (fun acc r => acc ||| r.status) 0

/-! ### Votes (R294, R295) -/

/-- Two keys are equal. -/
def Ballot.sameKey (x y : Ballot) : Bool := x.step = y.step && x.digest = y.digest

/-- The lower digest, then the lower step. -/
def Ballot.lower (x y : Ballot) : Ballot :=
  if x.digest < y.digest ∨ (x.digest = y.digest ∧ x.step ≤ y.step) then x else y

/-- Fold two votes (R294). -/
def foldBallot (x y : Ballot) : Ballot :=
  if x.sameKey y then { x with count := x.count + y.count }
  else if y.count < x.count then { x with count := x.count - y.count }
  else if x.count < y.count then { y with count := y.count - x.count }
  else { x.lower y with count := 0 }

/-! ### Routing and requests (R299, R300) -/

/-- CE_CTL.EN. -/
def State.ceOn (s : State) : Bool := s.bit CE_CTL 0

/-- A timeout of R307: values below 1,024 act as 1,024 (log entry 8). -/
def State.ceTmo (s : State) (r : Reg) : Nat := max 1024 (s.rd r)

/-- The eave's rafter of a domain, when it carries traffic. -/
def State.rafter (s : State) (d : Dom) : Option Nat := (s.routeUplinks d).head?

/-- The ridge's home uplink in use: the lowest that carries traffic. -/
def State.homeUplink (s : State) : Option Nat := (s.rolePorts .homeUp).head?

/-- Child ports that carry traffic. -/
def State.liveChildren (s : State) : List Nat := s.rolePorts .child

/-- This instance is the authority root of a domain's attempts. -/
def State.isAuthority (s : State) (d : Dom) : Bool := s.isRoot && s.home = d

/-- The port on which a COLL_REQ travels toward the root of its domain (R299). -/
def State.reqPort (s : State) (d : Dom) : Option Nat :=
  if s.isEave then (s.rafter d).orElse fun _ => s.rafter d.other
  else if s.isRoot then (s.rolePorts .crossUp).head?.orElse fun _ => (s.rolePorts .crossDown).head?
  else s.homeUplink.orElse fun _ => (s.rolePorts .crossUp).head?

/-- A group of the topology in force. -/
def State.group (s : State) (g : Nat) : Option Group := s.ce.groups.get none g

/-- The participating ports of a group that carry traffic. -/
def State.groupPorts (s : State) (g : Nat) : List Nat :=
  match s.group g with
  | some x => x.ports.filter fun p => (s.port p).health.routes
  | none => []

/-- Record an abort seen (R307). -/
def State.noteAbort (s : State) (m : CollAbort) : State :=
  { s with ce := { s.ce with
      last := { cid := m.cid, isn := m.isn, reason := m.reason, originId := m.origin.id, port := m.origin.port % 4096 } } }

/-- Forget what a ridge keeps of an instance for the attempts up to one. -/
def State.dropCtrs (s : State) (cid isn upto : Nat) : State :=
  { s with ce := { s.ce with
      ctrs := s.ce.ctrs.filter fun c => ¬ (c.par.cid = cid ∧ c.par.isn = isn ∧ c.attempt ≤ upto) } }

/-- Forget the moves of an instance. -/
def State.dropMoves (s : State) (cid isn : Nat) : State :=
  { s with ce := { s.ce with moves := s.ce.moves.filter fun r => ¬ (r.m.cid = cid ∧ r.m.isn = isn) } }

/-- The leader of a gang passes what it has received or decided to every member (R29, R31) (log entry 31). -/
def State.toMembers (s : State) (m : GangMsg) : State :=
  if s.gang.inGang && !s.follower then s.emit (.gangSend m) else s

/-- Remember that an instance is decided at this root. -/
def State.close (s : State) (cid isn : Nat) : State :=
  { s with ce := { s.ce with closed := (cid, isn, s.clk.ticks) :: s.ce.closed } }

/-- An instance is already decided at this root (R300). -/
def State.isClosed (s : State) (cid isn : Nat) : Bool := s.ce.closed.any fun c => c.1 = cid ∧ c.2.1 = isn

/-- The ports on which an authority root sends a decision: its live child ports and its cross downlinks (R109,
R299). -/
def State.decisionPorts (s : State) : List Nat := s.liveChildren ++ s.rolePorts .crossDown

/-- The root aborts an instance (R300). -/
def State.rootAbort (s : State) (cid isn attempt reason : Nat) (o : Origin) : State :=
  let m : CollAbort := { cid := cid, isn := isn, attempt := attempt, reason := reason, origin := o }
  let s := ((s.dropCtrs cid isn 3).dropMoves cid isn).close cid isn
  let s := ((s.noteAbort m).raise 21).xsendAll s.decisionPorts (.collAbort m)
  ((s.toMembers (.abort m)).count CE_CNT_ABORT).evt 22

/-- The root moves an instance to the next attempt (R302, R303). -/
def State.rootMove (s : State) (cid isn attempt : Nat) (group : Option Nat) (o : Origin) : State :=
  let m : CollMove := { cid := cid, isn := isn, attempt := attempt + 1, dom := s.home.other, origin := o }
  let s := (s.dropCtrs cid isn attempt).dropMoves cid isn
  let ps := s.decisionPorts
  let s := { s with ce := { s.ce with
      moves := { m := m, group := group, own := false, tick := s.clk.ticks, ports := ps } :: s.ce.moves } }
  (((s.xsendAll ps (.collMove m)).toMembers (.move m)).count CE_CNT_MOVE).evt 23

/-- The decision of R302 on a path fault for one instance (log entry 30). -/
def State.pathDecision (s : State) (cid isn attempt : Nat) (group : Option Nat) (o : Origin) : State :=
  if collMove cid then
    if attempt < 3 then s.rootMove cid isn attempt group o else s.rootAbort cid isn attempt 0x04 o
  else s.rootAbort cid isn attempt 0x03 o

/-- The child port whose endpoint range holds a range (R302). -/
def State.rangePort (s : State) (lo hi : Nat) : Option Nat :=
  s.portList.find? fun p =>
    let v := s.port p
    decide (v.role = .child) && decide (v.rangeLo ≤ lo) && decide (hi ≤ v.rangeHi)

/-- The authority root handles a request in order of arrival (R300 to R302) (log entry 30). -/
def State.rootRequest (s : State) (q : CollReq) : State :=
  let o : Origin := { id := q.originId, port := q.port % 4096, onset := q.onset }
  if q.rtype = 0 then
    if s.isClosed q.cid q.isn ∨ (s.ce.moves.any fun r => r.m.cid = q.cid ∧ r.m.isn = q.isn ∧ q.attempt < r.m.attempt) then s
    else s.rootAbort q.cid q.isn q.attempt q.reason o
  else if q.cid ≠ 0 ∨ q.isn ≠ 0 then
    if s.isClosed q.cid q.isn ∨ (s.ce.moves.any fun r => r.m.cid = q.cid ∧ r.m.isn = q.isn ∧ q.attempt < r.m.attempt) then s
    else
      let g := (s.ce.ctrs.find? fun c => c.par.cid = q.cid ∧ c.par.isn = q.isn).map fun c => c.par.group
      s.pathDecision q.cid q.isn q.attempt g o
  else
    match s.rangePort q.lo q.hi with
    | none => s
    | some p =>
      let hit := s.ce.ctrs.filter fun c =>
        match s.group c.par.group with
        | some g => g.ports.contains p
        | none => false
      hit.foldl (fun s c => s.pathDecision c.par.cid c.par.isn c.attempt (some c.par.group) o) s

/-- A request travels toward the root of its domain, from a gang member by way of its leader, or is handled here (R299,
R300) (log entry 31). -/
def State.routeReq (s : State) (q : CollReq) : State :=
  if s.follower then s.emit (.gangSend (.request q))
  else if s.isAuthority q.dom then s.rootRequest q
  else
    match s.reqPort q.dom with
    | some p => s.xsend p (.collReq q)
    | none => s

/-- Raise a COLL_REQ here: counted, with this instance as its origin (R298, R300). -/
def State.raiseReq (s : State) (q : CollReq) : State :=
  (s.count CE_CNT_REQ).routeReq { q with originId := s.ownId, onset := s.clk.course % 2 ^ 32 }

/-- Raise an abort request for an instance (R301). -/
def State.abortReq (s : State) (cid isn attempt : Nat) (d : Dom) (reason port : Nat) : State :=
  s.raiseReq { rtype := 0, reason := reason, dom := d, attempt := attempt, cid := cid, isn := isn, port := port }

/-- The range of endpoints below this instance: its own number at an eave, the span of its child ports at a ridge
(R302, R373). -/
def State.ownRange (s : State) : Nat × Nat :=
  if s.isEave then (s.ties.idNum, s.ties.idNum)
  else
    let ps := s.portList.filter fun p => decide ((s.port p).role = .child)
    (ps.foldl (fun acc p => min acc (s.port p).rangeLo) 0xFFFFF, ps.foldl (fun acc p => max acc (s.port p).rangeHi) 0)

/-- The path fault of a rafter that is lost or retired: at a child port the range of its entry, at a home uplink this
instance's own subtree; cross rafters raise none (R302) (log entry 54). -/
def State.pathFault (s : State) (p : Nat) : State :=
  let v := s.port p
  match v.role with
  | .child => s.raiseReq { rtype := 1, dom := v.dom, port := s.portNum p, lo := v.rangeLo, hi := v.rangeHi }
  | .homeUp =>
    let r := s.ownRange
    s.raiseReq { rtype := 1, dom := v.dom, port := s.portNum p, lo := r.1, hi := r.2 }
  | _ => s

/-! ### The eave (R284, R285, R288, R303) -/

/-- The domain of an attempt (R285). -/
def Handle.domOf (h : Handle) (attempt : Nat) : Dom := if attempt % 2 = 0 then h.dom else h.dom.other

/-- A handle. -/
def State.handle (s : State) (h : Nat) : Option Handle := s.ce.handles.get none h

/-- Replace a handle. -/
def State.setHandle (s : State) (h : Nat) (v : Option Handle) : State :=
  { s with ce := { s.ce with handles := s.ce.handles.set none h v } }

/-- Instances in flight over all handles (R284). -/
def State.inFlight (s : State) : Nat :=
  (s.ce.handles.map fun e => match e.2 with | some h => h.insts.length | none => 0).sum

/-- The parameters a frame of an instance repeats. -/
def Handle.params (h : Handle) (isn : Nat) : CollParams :=
  { cid := h.cid, isn := isn, op := h.op, fmt := h.fmt, rfmt := h.rfmt, lanes := h.lanes, group := h.group, sat := h.sat }

/-- Replace an instance of a handle. -/
def Handle.setInst (h : Handle) (i : Inst) : Handle :=
  { h with insts := h.insts.map fun j => if j.isn = i.isn then i else j }

/-- Fold the data of two contributions of one endpoint (R285). -/
def foldData (op : Nat) (x y : UpData) : UpData :=
  match x, y with
  | .partial_ a, .partial_ b => .partial_ (foldLanes op a b)
  | x, _ => x

/-- The leader holds a contribution from every member still in the gang, or the instance is not ganged (R285). -/
def State.gangComplete (s : State) (cid isn : Nat) : Bool :=
  !s.gang.inGang ||
  s.gang.members.all fun m => m = s.ties.gangPos || s.ce.gangWait.any fun w => w.1 = m ∧ w.2.par.cid = cid ∧ w.2.par.isn = isn

/-- The members' contributions to an instance are folded into its log, once (R285). -/
def State.gather (s : State) (hd : Handle) (i : Inst) : State × Inst :=
  if i.gathered then (s, i)
  else
    let mine (w : Nat × CollUp) : Bool := decide (w.2.par.cid = hd.cid ∧ w.2.par.isn = i.isn)
    ({ s with ce := { s.ce with gangWait := s.ce.gangWait.filter fun w => !mine w } },
      { i with gathered := true
               data := (s.ce.gangWait.filter mine).foldl (fun acc w => foldData hd.op acc w.2.data) i.data })

/-- Send the log of an instance in its present attempt: to the leader in a gang; on the rafter of the attempt's
domain; or hold it and raise the path fault of R330 (R285, R303, R330). -/
def State.sendLog (s : State) (h : Nat) (hd : Handle) (i : Inst) : State :=
  let d := hd.domOf i.attempt
  let up (i : Inst) : CollUp := { par := hd.params i.isn, attempt := i.attempt, count := 1, step := i.step, data := i.data }
  if i.mism then s.setHandle h (some (hd.setInst i))
  else if s.follower then (s.setHandle h (some (hd.setInst i))).emit (.gangPartial (up i))
  else if i.gathered = false ∧ s.gangComplete hd.cid i.isn = false then s.setHandle h (some (hd.setInst i))
  else
    let q := s.gather hd i
    let s := q.1
    let i := q.2
    match s.rafter d with
    | some p => (s.setHandle h (some (hd.setInst { i with held := false }))).xsend p (.collUp (up i))
    | none =>
      let s := s.setHandle h (some (hd.setInst { i with held := true }))
      s.raiseReq { rtype := 1, dom := d, attempt := i.attempt, cid := hd.cid, isn := i.isn
                   lo := s.ties.idNum, hi := s.ties.idNum }

/-- What a contribution comes to (R284). -/
inductive ContribRes where
  | started | waits | nodef
  deriving DecidableEq, Repr

/-- Instances a handle may have in flight (R284). -/
def Handle.room (h : Handle) : Bool := decide (h.insts.length < (if h.op = 0x07 then 4 else 1))

/-- Start an instance on a handle that has room: it is the most recent one on the handle (R243, R284). -/
def State.startInst (s : State) (h : Nat) (hd : Handle) (data : UpData) (step lanes : Nat) : State :=
  let s := (s.busy).openGate 3
  let mism := decide (hd.op ≠ 0x00 ∧ hd.op ≠ 0x07 ∧ lanes ≠ hd.lanes)
  let attempt := match hd.early.find? fun e => e.1 = hd.isn with
    | some e => e.2
    | none => 0
  let i : Inst :=
    { isn := hd.isn, attempt := attempt, data := data, step := step, mism := mism, deadline := hd.deadline, tick := s.clk.ticks }
  let hd' := { hd with
    isn := hd.isn + 1, insts := hd.insts ++ [i], deadline := none, early := hd.early.filter fun e => e.1 ≠ hd.isn }
  let s := { s with sq := { s.sq with nodef := s.sq.nodef.filter fun k => k ≠ h } }
  let s := (s.evt 20).sendLog h hd' i
  if mism then s.abortReq hd.cid i.isn i.attempt (hd.domOf i.attempt) 0x06 0 else s

/-- A contribution on a handle (R284, R307): NODEF at an undefined handle or with the engine out of service, a wait
without room, else a new instance. -/
def State.contribute (s : State) (h : Nat) (data : UpData) (step lanes : Nat) : State × ContribRes :=
  match s.handle h with
  | none => ((s.count CE_CNT_ISO).raise 21, .nodef)
  | some hd =>
    if s.ceOn = false then ((s.count CE_CNT_ISO).raise 21, .nodef)
    else if hd.room = false ∨ 1024 ≤ s.inFlight then (s, .waits)
    else (s.startInst h hd data step lanes, .started)

/-- A contribution from a vote or from the release of a barrier, which waits here when there is no room (R284). -/
def State.contributeHeld (s : State) (h : Nat) (data : UpData) (step lanes : Nat) : State :=
  let r := s.contribute h data step lanes
  if r.2 = .waits then
    let s := r.1.count CE_CNT_WAIT
    { s with ce := { s.ce with held := s.ce.held ++ [{ h := h, data := data, step := step, lanes := lanes }] } }
  else r.1

/-- After an instance ends, contributions that waited start in order. -/
def State.releaseHeld (s : State) : State :=
  let l := s.ce.held
  let s := { s with ce := { s.ce with held := [] } }
  l.foldl (fun s c =>
    let r := s.contribute c.h c.data c.step c.lanes
    if r.2 = .waits then { r.1 with ce := { r.1.ce with held := r.1.ce.held ++ [c] } } else r.1) s

/-- The handle with a CID. -/
def State.handleOf (s : State) (cid : Nat) : Option (Nat × Handle) :=
  s.ce.handles.findSome? fun e => match e.2 with
    | some h => if h.cid = cid then some (e.1, h) else none
    | none => none

/-- An instance of a handle. -/
def Handle.inst (h : Handle) (isn : Nat) : Option Inst := h.insts.find? fun i => i.isn = isn

/-- An outcome that has arrived waits for the boundary (R287). -/
def State.setOut (s : State) (h : Nat) (hd : Handle) (i : Inst) (o : CollOutcome) : State :=
  s.setHandle h (some (hd.setInst { i with out := some o }))

/-- COLL_DOWN at an eave (R51, R52, R287, R294) (log entry 54). -/
def State.eaveDown (s : State) (p : Nat) (m : CollDown) : State :=
  match s.handleOf m.par.cid with
  | none => s
  | some (h, hd) =>
    match hd.inst m.par.isn with
    | none => s
    | some i =>
      if i.out.isSome ∨ m.attempt < i.attempt then s
      else
        match serialRebuild s.sq.step m.step with
        | none => s.count TD_CNT_RANGE
        | some step =>
          if m.phase = 0 then
            let o : CollOutcome := { reason := 0, status := m.status, step := step, results := m.results }
            (((s.toMembers (.down m)).setOut h hd i o).count CE_CNT_DONE).evt 21
          else if s.follower then s
          else
            let cand : Ballot := { step := step % 2 ^ 32, digest := m.results.headD 0 }
            let mine := match i.data with | .vote b => b | _ => {}
            let up : CollUp := { par := hd.params i.isn, attempt := m.attempt, count := 1, step := i.step
                                 data := .matched { cand with count := bnat (mine.sameKey cand) } }
            (s.setHandle h (some (hd.setInst { i with cand := some cand }))).xsend p (.collUp up)

/-- COLL_ABORT at an eave: the instance ends with the root's reason (R300). -/
def State.eaveAbort (s : State) (m : CollAbort) : State :=
  match s.handleOf m.cid with
  | none => s
  | some (h, hd) =>
    match hd.inst m.isn with
    | none => s
    | some i =>
      if i.out.isSome ∨ m.attempt < i.attempt then s
      else ((((s.toMembers (.abort m)).setOut h hd i { reason := m.reason }).noteAbort m).count CE_CNT_ABORT).evt 22

/-- A completion already held is reported in the new attempt, or held until a rafter of its domain is live (R303). -/
def State.reportDone (s : State) (hd : Handle) (m : CollMove) (o : CollOutcome) : State :=
  let up : CollUp := { par := hd.params m.isn, attempt := m.attempt, count := 1, step := o.step % 2 ^ 32
                       data := .report o.status o.results }
  let s := (s.count CE_CNT_MOVE).evt 23
  if s.follower then s
  else
    match s.rafter m.dom with
    | some p => s.xsend p (.collUp up)
    | none => { s with ce := { s.ce with heldReps := s.ce.heldReps ++ [(m.dom, up)] } }

/-- An instance goes on in a new attempt: a deadline that has passed asks the new authority root (R303, R306). -/
def Inst.moved (i : Inst) (attempt tick : Nat) : Inst :=
  { i with attempt := attempt, tick := tick, held := false, asked := false, cand := none }

/-- COLL_MOVE at an eave (R303): resend the log, remember the attempt for a later contribution, or report a
completion already held; the leader of a gang resends for its members. -/
def State.eaveMove (s : State) (m : CollMove) : State :=
  match s.handleOf m.cid with
  | none => s
  | some (h, hd) =>
    match hd.inst m.isn with
    | some i =>
      match i.out with
      | some o => if o.reason = 0 then s.reportDone hd m o else s
      | none =>
        if m.attempt ≤ i.attempt then s
        else
          let i' := i.moved m.attempt s.clk.ticks
          let s := ((s.toMembers (.move m)).count CE_CNT_MOVE).evt 23
          if s.follower then s.setHandle h (some (hd.setInst i'))
          else
            let s := s.sendLog h hd i'
            if i.mism then s.abortReq hd.cid i.isn m.attempt (hd.domOf m.attempt) 0x06 0 else s
    | none =>
      if hd.isn ≤ m.isn then
        let s := ((s.toMembers (.move m)).count CE_CNT_MOVE).evt 23
        s.setHandle h (some { hd with early := (m.isn, m.attempt) :: hd.early.filter fun e => e.1 ≠ m.isn })
      else
        match hd.recent.find? fun r => r.1 = m.isn with
        | some r => if r.2.reason = 0 then s.reportDone hd m r.2 else s
        | none => s

/-- A member's contribution at the gang leader (R285) (log entry 31). -/
def State.gangContribution (s : State) (pos : Nat) (m : CollUp) : State :=
  let again (w : Nat × CollUp) : Bool := decide (w.1 = pos ∧ w.2.par.cid = m.par.cid ∧ w.2.par.isn = m.par.isn)
  let s := { s with ce := { s.ce with gangWait := (s.ce.gangWait.filter fun w => !again w) ++ [(pos, m)] } }
  match s.handleOf m.par.cid with
  | none => s
  | some (h, hd) =>
    match hd.inst m.par.isn with
    | none => s
    | some i => if i.out.isSome ∨ i.gathered then s else s.sendLog h hd i

/-- An outcome applied at the boundary, with its handle, for the object store and the sequencer. -/
structure Applied where
  h : Nat
  hd : Handle
  i : Inst
  o : CollOutcome
  deriving DecidableEq, Repr

/-- Remove an instance and keep its outcome. -/
def Handle.finish (h : Handle) (isn : Nat) (o : CollOutcome) : Handle :=
  { h with
    insts := h.insts.filter fun i => i.isn ≠ isn, recent := ((isn, o) :: h.recent).take 4
    lastStatus := if o.reason = 0 then o.status else h.lastStatus }

/-- Step 3 of R18 at an eave: every outcome that has arrived is applied (R287). -/
def State.applyOutcomes (s : State) : State × List Applied :=
  s.ce.handles.keys.foldl (fun acc h =>
    match acc.1.handle h with
    | none => acc
    | some hd =>
      hd.insts.foldl (fun acc i =>
        match i.out with
        | none => acc
        | some o =>
          match acc.1.handle h with
          | none => acc
          | some hd' =>
            let s := (acc.1.setHandle h (some (hd'.finish i.isn o))).raiseIf (decide (o.reason ≠ 0)) 21
            (s, acc.2 ++ [⟨h, hd, i, o⟩])) acc) (s, [])

/-- A local outcome ends an instance at once (R301). -/
def State.localOutcome (s : State) (h : Nat) (hd : Handle) (i : Inst) (reason : Nat) : State :=
  let m : CollAbort := { cid := hd.cid, isn := i.isn, attempt := i.attempt, reason := reason, origin := { id := s.ownId, onset := s.clk.course % 2 ^ 32 } }
  (((s.setHandle h (some (hd.finish i.isn { reason := reason }))).noteAbort m).count CE_CNT_ISO).raise 21

/-- The deadline of an instance has ended with course `n` (R301). -/
def Inst.deadlineDue (i : Inst) (n : Nat) : Bool :=
  !i.asked && i.out.isNone && (match i.deadline with | some d => decide (d ≤ n) | none => false)

/-- Step 4 of R18: abort requests for deadlines that end with course `n` (R301). -/
def State.collDeadlines (s : State) (n : Nat) : State :=
  s.each s.ce.handles.keys fun s h =>
    match s.handle h with
    | none => s
    | some hd =>
      hd.insts.foldl (fun s i =>
        if i.deadlineDue n then
          match s.handle h with
          | none => s
          | some hd' =>
            (s.setHandle h (some (hd'.setInst { i with asked := true }))).abortReq hd.cid i.isn i.attempt (hd.domOf i.attempt) 0x02 0
        else s) s

/-- Instances without an outcome for CE_ISO_TMO courses end locally, at a boundary with count `t` (R301). -/
def State.isolate (s : State) (t : Nat) : State × List Applied :=
  s.ce.handles.keys.foldl (fun acc h =>
    match acc.1.handle h with
    | none => acc
    | some hd =>
      hd.insts.foldl (fun acc i =>
        if i.out.isNone && decide (i.tick + acc.1.ceTmo CE_ISO_TMO ≤ t) then
          match acc.1.handle h with
          | none => acc
          | some hd' => (acc.1.localOutcome h hd' i 0x80, acc.2 ++ [⟨h, hd, i, { reason := 0x80 }⟩])
        else acc) acc) (s, [])

/-- Result reports that wait for a rafter of their domain are sent (R303). -/
def State.sendHeldReps (s : State) : State :=
  let go (e : Dom × CollUp) : Bool := (s.rafter e.1).isSome
  let l := s.ce.heldReps.filter go
  let s := { s with ce := { s.ce with heldReps := s.ce.heldReps.filter fun e => !go e } }
  l.foldl (fun s e =>
    match s.rafter e.1 with
    | some p => s.xsend p (.collUp e.2)
    | none => s) s

/-- Logs and reports that wait for a rafter are sent when it carries traffic again (R303). -/
def State.sendHeldLogs (s : State) : State :=
  State.sendHeldReps <| s.each s.ce.handles.keys fun s h =>
    match s.handle h with
    | none => s
    | some hd =>
      hd.insts.foldl (fun s i =>
        if i.held && i.out.isNone && (s.rafter (hd.domOf i.attempt)).isSome then
          match s.handle h with
          | none => s
          | some hd' => s.sendLog h hd' i
        else s) s

/-- Every instance in flight ends here with a reason, at the next boundary: no message reaches this member any more
(R31) (log entry 31). -/
def State.endLocal (s : State) (reason : Nat) : State :=
  s.each s.ce.handles.keys fun s h =>
    match s.handle h with
    | none => s
    | some hd => s.setHandle h (some { hd with insts := hd.insts.map fun i =>
        if i.out.isSome then i else { i with out := some { reason := reason } } })

/-- Abort requests for every instance in flight (R338, R31). -/
def State.abortAll (s : State) (reason : Nat) : State :=
  s.each s.ce.handles.keys fun s h =>
    match s.handle h with
    | none => s
    | some hd => hd.insts.foldl (fun s i => s.abortReq hd.cid i.isn i.attempt (hd.domOf i.attempt) reason 0) s

/-! ### The ridge (R286, R287, R294, R303) -/

/-- The parameters that every partial of an instance must share (R286). -/
def sameParams (x y : CollParams) : Bool :=
  x.op = y.op && (x.op = 0x00 || (x.fmt = y.fmt && x.rfmt = y.rfmt)) && x.lanes = y.lanes && x.group = y.group && x.sat = y.sat

/-- The counter of an attempt. -/
def State.ctr (s : State) (cid isn attempt : Nat) : Option TreeCtr :=
  s.ce.ctrs.find? fun c => c.par.cid = cid ∧ c.par.isn = isn ∧ c.attempt = attempt

/-- Store a counter, newest first. -/
def State.putCtr (s : State) (c : TreeCtr) : State :=
  { s with ce := { s.ce with
      ctrs := c :: s.ce.ctrs.filter fun x => ¬ (x.par.cid = c.par.cid ∧ x.par.isn = c.par.isn ∧ x.attempt = c.attempt) } }

/-- Reduction slots in use (R307). -/
def State.slotsUsed (s : State) : Nat := (s.ce.ctrs.filter fun c => c.slot).length

/-- A counter and, with lanes, a slot are free, and the shared store has space for the frames of the instance (R286,
R318). -/
def State.ctrFree (s : State) (c : TreeCtr) : Bool :=
  decide (s.ce.ctrs.length < 262144) && (c.par.lanes = 0 || decide (s.slotsUsed < 4096)) &&
    decide (s.storeUsed [] + s.storeReserved + c.reserve ≤ s.storeSize)

/-- A member of a ganged ridge as a source of partials at the leader, beside the local ports 0 to 511 (R29). -/
def gangSrc (pos : Nat) : Nat := 4096 + pos

/-- The members whose partial the leader of a ganged ridge folds (R29) (log entry 31). -/
def State.gangSrcs (s : State) : List Nat :=
  if s.gang.inGang && !s.follower then (s.gang.members.filter fun m => m ≠ s.ties.gangPos).map gangSrc else []

/-- Every port of a group has delivered, and at the leader of a gang every member (R29, R286). -/
def State.allDelivered (s : State) (g : Group) (ports : List Nat) : Bool := (g.ports ++ s.gangSrcs).all fun p => ports.contains p

/-- The port number that a request names for a source of partials. -/
def State.srcNum (s : State) (p : Nat) : Nat := if 4096 ≤ p then (p - 4096) % 8 * 512 else s.portNum p

/-- A partial goes up: to the leader from a gang member, otherwise on the home uplink (R29, R286). -/
def State.sendHome (s : State) (m : CollUp) : State :=
  if s.follower then s.emit (.gangPartial m)
  else
    match s.homeUplink with
    | some p => s.xsend p (.collUp m)
    | none => s

/-- Send the final COLL_DOWN of an instance on its participating ports and free what is kept (R287). -/
def State.rootDown (s : State) (c : TreeCtr) (status step : Nat) (results : List Nat) : State :=
  let m : CollDown := { par := c.par, attempt := c.attempt, status := status, count := c.count, step := step
                        doneCourse := s.clk.course % 2 ^ 32, results := results }
  let ps := s.groupPorts c.par.group
  let s := ((s.dropCtrs c.par.cid c.par.isn 3).dropMoves c.par.cid c.par.isn).close c.par.cid c.par.isn
  (((s.xsendAll ps (.collDown m)).toMembers (.down m)).count CE_CNT_DONE).evt 21

/-- The authority root completes an instance when every port has delivered (R287, R293, R294). -/
def State.rootComplete (s : State) (c : TreeCtr) (g : Group) : State :=
  let own : Origin := { id := s.ownId, onset := s.clk.course % 2 ^ 32 }
  if c.count ≠ g.m then s.rootAbort c.par.cid c.par.isn c.attempt 0x07 own
  else if c.par.op = 0x00 then s.rootDown c 0 c.step []
  else if c.par.op = 0x07 then
    if g.m < 2 * c.ballot.count then s.rootDown c 0 c.ballot.step [c.ballot.digest]
    else
      let m : CollDown := { par := c.par, attempt := c.attempt, phase := 1, count := c.count, step := c.ballot.step
                            doneCourse := s.clk.course % 2 ^ 32, results := [c.ballot.digest] }
      ((s.putCtr { c with match2 := some { c.ballot with count := 0 } }).xsendAll (s.groupPorts c.par.group) (.collDown m)).toMembers
        (.down m)
  else
    let rs := c.lanes.map (roundLane c.par.op c.par.fmt c.par.rfmt c.par.sat)
    s.rootDown c (statusOr rs) c.step (rs.map (·.bits))

/-- The verdict of a vote once every member has answered the candidate (R294) (log entry 54). -/
def State.rootVerdict (s : State) (c : TreeCtr) (g : Group) (cand : Ballot) : State :=
  if g.m < 2 * cand.count then s.rootDown c 0 cand.step [cand.digest]
  else s.rootDown c 16 c.step [0]

/-- Fold a KIND 0 partial into a counter. -/
def TreeCtr.fold (c : TreeCtr) (p : Nat) (m : CollUp) (t : Nat) : TreeCtr :=
  { c with
    ports := c.ports ++ [p], count := c.count + m.count, tick := t
    lanes := match m.data with
      | .partial_ l => foldLanes c.par.op c.lanes l
      | _ => c.lanes
    ballot := match m.data with
      | .vote b => if c.ports = [] then b else foldBallot c.ballot b
      | _ => c.ballot }

/-- A ridge's partial goes up (R286). -/
def State.sendUp (s : State) (c : TreeCtr) : State :=
  let data : UpData := if c.par.op = 0x07 then .vote c.ballot else .partial_ c.lanes
  let m : CollUp := { par := c.par, attempt := c.attempt, count := c.count, step := c.step, data := data }
  (s.putCtr { c with sentUp := true }).sendHome m

/-- A counter after a fold: sent up, completed, or kept until the other ports deliver. -/
def State.afterFold (s : State) (c : TreeCtr) : State :=
  match s.group c.par.group with
  | none => s.putCtr c
  | some g =>
    if s.allDelivered g c.ports then
      if s.isRoot ∧ s.follower = false then s.rootComplete c g else s.sendUp c
    else s.putCtr c

/-- A source of partials leads to members of a group: one of its ports, or a member of the gang (R29, R286). -/
def State.inGroup (s : State) (p g : Nat) : Bool :=
  match s.group g with
  | some x => x.ports.contains p || s.gangSrcs.contains p
  | none => false

/-- A KIND 2 vote match at a ridge: its port and its parameters are judged as those of every partial, and its key against
the first one of the attempt (R286, R294, R295). -/
def State.ridgeMatch (s : State) (p : Nat) (m : CollUp) (b : Ballot) : State :=
  match s.ctr m.par.cid m.par.isn m.attempt with
  | none => s.count CE_CNT_STRAY
  | some c =>
    let first := if c.ports2 = [] then b else c.match2.getD b
    if s.inGroup p c.par.group = false then s.count CE_CNT_STRAY
    else if sameParams c.par m.par = false ∨ first.sameKey b = false then
      s.abortReq m.par.cid m.par.isn m.attempt s.home 0x06 (s.srcNum p)
    else if c.ports2.contains p then s
    else
      let sum : Ballot := { step := b.step, digest := b.digest
                            count := (if c.ports2 = [] then 0 else (c.match2.getD b).count) + b.count }
      let c := { c with match2 := some sum, ports2 := c.ports2 ++ [p], count2 := c.count2 + m.count, tick := s.clk.ticks }
      match s.group c.par.group with
      | none => s.putCtr c
      | some g =>
        if s.allDelivered g c.ports2 then
          if s.isRoot ∧ s.follower = false then s.rootVerdict c g { c.ballot with count := sum.count }
          else
            (s.putCtr c).sendHome
              { par := c.par, attempt := c.attempt, count := c.count2, step := c.step, data := .matched sum }
        else s.putCtr c

/-- A KIND 1 report: a ridge passes it up, the authority root completes the attempt with it (R303) (log entry 54). -/
def State.ridgeReport (s : State) (m : CollUp) (status : Nat) (results : List Nat) : State :=
  if s.isRoot ∧ s.follower = false then
    if s.isClosed m.par.cid m.par.isn then s
    else
      let c := (s.ctr m.par.cid m.par.isn m.attempt).getD { par := m.par, attempt := m.attempt }
      s.rootDown c status m.step results
  else s.sendHome m

/-- A counter as the first partial of an attempt takes it (R286). -/
def newCtr (m : CollUp) : TreeCtr :=
  { par := m.par, attempt := m.attempt, step := m.step, slot := decide (m.par.lanes ≠ 0)
    lanes := match m.data with
      | .partial_ l => l.map fun _ => identityLane m.par.op
      | _ => [] }

/-- COLL_UP at a ridge, from a port or from a member of its gang (R286) (log entry 54). -/
def State.ridgeUp (s : State) (p : Nat) (m : CollUp) : State :=
  match m.data with
  | .report st rs => s.ridgeReport m st rs
  | .matched b => s.ridgeMatch p m b
  | _ =>
    match s.ctr m.par.cid m.par.isn m.attempt with
    | some c =>
      if s.inGroup p c.par.group = false then s.count CE_CNT_STRAY
      else if sameParams c.par m.par = false then s.abortReq m.par.cid m.par.isn m.attempt s.home 0x06 (s.srcNum p)
      else if c.ports.contains p then s
      else (s.evt 20).afterFold (c.fold p m s.clk.ticks)
    | none =>
      if s.inGroup p m.par.group = false then s.count CE_CNT_STRAY
      else if s.isRoot && s.isClosed m.par.cid m.par.isn then s
      else if s.ctrFree (newCtr m) = false then
        (s.raise 22).abortReq m.par.cid m.par.isn m.attempt s.home 0x08 (s.srcNum p)
      else (s.evt 20).afterFold ((newCtr m).fold p m s.clk.ticks)

/-- A COLL_DOWN goes on to the participating ports and to the members of the gang; a final one frees what is kept, the
space it reserved first (R287, R318). -/
def State.spreadDown (s : State) (m : CollDown) : State :=
  if m.phase = 0 then
    let ps := s.groupPorts m.par.group
    let s := (s.dropCtrs m.par.cid m.par.isn 3).dropMoves m.par.cid m.par.isn
    (((s.xsendAll ps (.collDown m)).toMembers (.down m)).count CE_CNT_DONE).evt 21
  else
    let s := (s.xsendAll (s.groupPorts m.par.group) (.collDown m)).toMembers (.down m)
    match s.ctr m.par.cid m.par.isn m.attempt with
    | some c => s.putCtr { c with match2 := some { step := m.step, digest := m.results.headD 0 }, tick := s.clk.ticks }
    | none => s

/-- COLL_DOWN at a ridge, on a home uplink (R287). -/
def State.ridgeDown (s : State) (p : Nat) (m : CollDown) : State :=
  if s.isRoot ∨ (s.port p).role ≠ .homeUp then s else s.spreadDown m

/-- A decision is taken over on a home uplink, or at a root on a cross uplink (R109, R299). -/
def State.fromAbove (s : State) (p : Nat) : Bool :=
  let r := (s.port p).role
  if s.isRoot then decide (r = .crossUp) else decide (r = .homeUp)

/-- A COLL_MOVE is kept for ports that become live, and goes on to every live child port and to the members of the gang
(R299, R303). -/
def State.spreadMove (s : State) (m : CollMove) : State :=
  let known := s.ce.moves.any fun r => r.m.cid = m.cid ∧ r.m.isn = m.isn ∧ m.attempt ≤ r.m.attempt
  if known then s
  else
    let g := (s.ce.ctrs.find? fun c => c.par.cid = m.cid ∧ c.par.isn = m.isn).map fun c => c.par.group
    let s := (s.dropCtrs m.cid m.isn (m.attempt - 1)).dropMoves m.cid m.isn
    let ps := s.liveChildren
    let s := { s with ce := { s.ce with
      moves := { m := m, group := g, own := s.isAuthority m.dom && !s.follower, tick := s.clk.ticks, ports := ps } :: s.ce.moves } }
    (((s.xsendAll ps (.collMove m)).toMembers (.move m)).count CE_CNT_MOVE).evt 23

/-- COLL_MOVE at a ridge (R299, R303). -/
def State.ridgeMove (s : State) (p : Nat) (m : CollMove) : State :=
  if s.fromAbove p = false then s else s.spreadMove m

/-- A COLL_ABORT goes on to every live child port and to the members of the gang (R299, R300). -/
def State.spreadAbort (s : State) (m : CollAbort) : State :=
  let s := ((s.dropCtrs m.cid m.isn 3).dropMoves m.cid m.isn).noteAbort m
  let s := if s.isRoot then s.close m.cid m.isn else s
  (((s.xsendAll s.liveChildren (.collAbort m)).toMembers (.abort m)).count CE_CNT_ABORT).evt 22

/-- COLL_ABORT at a ridge (R299, R300). -/
def State.ridgeAbort (s : State) (p : Nat) (m : CollAbort) : State :=
  if s.fromAbove p = false then s else s.spreadAbort m

/-- Counters without progress for CE_ORPHAN courses are freed, at a boundary with count `t` (R286). -/
def State.freeOrphans (s : State) (t : Nat) : State :=
  let lim := s.ceTmo CE_ORPHAN
  let old := s.ce.ctrs.filter fun c => decide (c.tick + lim ≤ t)
  if old = [] then s
  else
    let s := { s with ce := { s.ce with ctrs := s.ce.ctrs.filter fun c => !decide (c.tick + lim ≤ t) } }
    (s.count CE_CNT_ORPHAN old.length).raise 22

/-- An attempt moved to this root without completion for CE_MOVE_TMO courses is aborted (R303). -/
def State.moveTimeouts (s : State) (t : Nat) : State :=
  let lim := s.ceTmo CE_MOVE_TMO
  let old := s.ce.moves.filter fun r => r.own && decide (r.tick + lim ≤ t)
  old.foldl (fun s r => s.rootAbort r.m.cid r.m.isn r.m.attempt 0x04 { id := s.ownId, onset := s.clk.course % 2 ^ 32 }) s

/-- On ports that became live at this boundary the last move of each instance is sent again (R303). -/
def State.resendMoves (s : State) (ports : List Nat) : State :=
  let hit (r : MoveRec) (p : Nat) : Bool :=
    decide ((s.port p).role = .child) &&
    (match r.group with
     | some g => (match s.group g with | some x => x.ports.contains p | none => true)
     | none => true)
  s.ce.moves.foldl (fun s r => s.each (ports.filter (hit r)) fun s p => s.xsend p (.collMove r.m)) s

/-- Forget decided instances after CE_ORPHAN courses, and relayed moves after CE_ORPHAN courses. -/
def State.ageClosed (s : State) (t : Nat) : State :=
  let lim := s.ceTmo CE_ORPHAN
  { s with ce := { s.ce with
      closed := s.ce.closed.filter fun c => decide (t < c.2.2 + lim)
      moves := s.ce.moves.filter fun r => r.own || decide (t < r.tick + lim) } }

end Sys2Proof.Machine
end

