-- ==== Sys2Proof/Machine/Contain.lean ====
section
/-! DEFINITION. Sys2Proof/Machine/Contain.lean: causes of Underlay mode and internal parity events, which every
subsystem can raise (R334, R335, R337, R338 of spec/13_faults.md). -/
namespace Sys2Proof.Machine
open Sys2Proof.Config

/-- The requests that a cause of Underlay mode raises: abort requests at an eave, a path fault for the whole subtree
at a ridge (R301, R302, R338). -/
def State.underlayRequests (s : State) : State :=
  if s.isEave then s.abortAll 0x0A
  else
    let r := s.ownRange
    s.raiseReq { rtype := 1, dom := s.home, port := (s.homeUplink.map s.portNum).getD 0, lo := r.1, hi := r.2 }

/-- A cause of Underlay mode: the first is latched, later ones are counted in MORE (R337, R338). -/
def State.underlayCause (s : State) (cause unit : Nat) : State :=
  let s := { s with hf := { s.hf with newCause := true } }
  if s.hf.active || s.hf.pend then { s with hf := { s.hf with more := min 255 (s.hf.more + 1) } }
  else
    (({ s with hf := { s.hf with pend := true, cause := cause, unit := unit, more := 0 } } : State).raise 1).underlayRequests

/-- A contained internal parity event: scored, counted, and at the threshold a cause of Underlay mode (R335)
(log entry 41). -/
def State.contained (s : State) (unit : Nat) : State :=
  let sc := min 255 (s.hf.score + 1)
  let s := ((({ s with hf := { s.hf with score := sc, lastUnit := unit } } : State).count HF_CNT_INT).raise 29).evt 30
  if s.retireThr ≤ sc then s.underlayCause 2 unit else s

/-- An uncontained internal parity event (R334) (log entry 41). -/
def State.uncontained (s : State) (unit : Nat) : State :=
  (({ s with hf := { s.hf with lastUnit := unit } } : State).count HF_CNT_UNCONT).underlayCause 1 unit

end Sys2Proof.Machine
end

