-- ==== Sys2Proof/Machine/Batten.lean ====
section
/-! DEFINITION. Sys2Proof/Machine/Batten.lean: the batten chain: taps that count their region's edges, marks,
crossings, calibration, margin warnings, launches and their reports (spec/07_batten_chain.md). -/
namespace Sys2Proof.Machine
open Sys2Proof.Config

/-! ### Taps and their paths (R185) -/

/-- A tap. -/
def State.tap (s : State) (n : Nat) : Tap := s.bt.taps.get {} n
/-- Replace a tap. -/
def State.setTap (s : State) (n : Nat) (v : Tap) : State :=
  { s with bt := { s.bt with taps := s.bt.taps.set {} n v } }
/-- Change a tap. -/
def State.modTap (s : State) (n : Nat) (f : Tap → Tap) : State := s.setTap n (f (s.tap n))

/-- Tap `n` is enabled in BT_TAP_EN. -/
def State.tapEn (s : State) (n : Nat) : Bool := decide (n < 64) && s.bit BT_TAP_EN n
/-- The enabled taps. -/
def State.tapList (s : State) : List Nat := (List.range 64).filter s.tapEn
/-- The upstream neighbour of a tap: none is the head. -/
def Ties.up (t : Ties) (n : Nat) : Option Nat :=
  match t.tapUp.find? fun e => e.1 = n with
  | some e => if e.2.1 then none else some e.2.2
  | none => none

/-- The taps from `n` up to the head, `n` first, within some number of crossings; none when the head is not
reached. -/
def Ties.path (t : Ties) (fuel n : Nat) : Option (List Nat) :=
  match fuel with
  | 0 => none
  | fuel + 1 =>
    match t.up n with
    | none => some [n]
    | some u => (t.path fuel u).map fun r => n :: r

/-- The path of a tap of at most 8 crossings. -/
def State.tapPath (s : State) (n : Nat) : List Nat := (s.ties.path 8 n).getD []

/-- The tie-offs form a loop, exceed 8 crossings, or name a tap that is not enabled (R185). -/
def State.topoBad (s : State) : Bool :=
  s.tapList.any fun n =>
    match s.ties.path 8 n with
    | none => true
    | some l => l.any fun k => !s.tapEn k

/-- BT_STAT.DEPTH: the greatest number of crossings from the head, from the tie-offs; a loop shows 15 (R207) (log
entry 49). -/
def State.chainDepth (s : State) : Nat :=
  (List.range 64).foldl (fun m n => max m (match s.ties.path 15 n with | some l => l.length | none => 15)) 0

/-- Taps whose path contains tap `n`. -/
def State.below (s : State) (n : Nat) : List Nat := s.tapList.filter fun k => (s.tapPath k).contains n
/-- Taps whose upstream neighbour is tap `n`. -/
def State.nextDown (s : State) (n : Nat) : List Nat := s.tapList.filter fun k => s.ties.up k = some n
/-- Taps that hang on the head. -/
def State.headTaps (s : State) : List Nat := s.tapList.filter fun k => s.ties.up k = none
/-- The enabled taps from the head downward. -/
def State.chainOrder (s : State) : List Nat :=
  ((List.range 9).map fun d => s.tapList.filter fun n => (s.tapPath n).length = d).flatten

/-- SAMT in force. -/
def State.samt (s : State) (n : Nat) : Nat := min 16 (s.fl (BT_Tn_CFG n) 0 5)
/-- A stretch in 2^-28 ns: SAMT × PNOM / 16 with PNOM in 2^-24 ns (R189). -/
def State.stretch (s : State) (n : Nat) : Nat := s.samt n * s.rd (BT_Tn_PNOM n)
/-- BT_GUARD in force, in 2^-16 ns. -/
def State.guardUnits (s : State) : Nat := (max 16 (min 500 (s.fl BT_GUARD 0 16))) * 65536

/-- PNOM lies within 0.25 ns and 4 ns (R187) (log entry 49). -/
def State.pnomOk (s : State) (n : Nat) : Bool :=
  let p := s.rd (BT_Tn_PNOM n)
  decide (4194304 ≤ p) && decide (p ≤ 67108864)

/-- T rounded toward minus infinity to 2^-24 ns (R189). -/
def Tap.t24 (v : Tap) : Int := v.t / 16
/-- The course of a tap time. -/
def Tap.course (v : Tap) : Nat := (v.t / 268435456000).toNat

/-! ### Reports (R203) -/

/-- A report leaves a tap: held in BT_Tn_LREP, sent to the sequencer, counted and reported (R203, R396, R398). -/
def State.tapReport (s : State) (n : Nat) (l : Launch) (code : Nat) : State :=
  let r : LaunchReport :=
    { tap := n, line := l.line, target := l.target, code := code, late := l.late, fireStr := l.fireStr, win := l.win }
  let s := s.modTap n fun v => { v with seq := (v.seq + 1) % 256, rep := r }
  let s := { s with bt := { s.bt with reports := s.bt.reports ++ [r] } }
  let s := if code = 3 then s.count BT_CNT_NOMARK else if code = 1 then s.count BT_CNT_MISSED else s
  let s := if l.late then s.count (BT_Tn_CNT_LATE n) else s
  let s := s.raiseIf (code = 1 || code = 3 || code = 4 || code = 8) 20
  if code = 0 then (s.evt 2).evt (32 + n / 2) else if code = 6 then s.evt 2 else s.evt 3

/-- The code a launch that reached its firing edge ends with: a late cancel of a fired launch is reported as such
(R199, R203). -/
def Launch.finalCode (l : Launch) : Nat := if l.code = 0 ∧ l.cancelLate then 6 else l.code

/-- Every launch armed at a tap ends with TAPOFF; one past its firing edge is reported at its own time (R197, R203,
R204). -/
def State.endLaunches (s : State) (n : Nat) : State :=
  let v := s.tap n
  v.armed.foldl (fun s l => s.tapReport n l 8) (s.setTap n { v with armed := [] })

/-! ### One edge of a region clock (R189, R190, R201 to R203) -/

/-- What a tap's registers set. -/
structure TapCfg where
  stretch : Nat
  pnom : Nat
  lw : Nat
  lead : Nat
  stepMax : Nat
  kf : Nat
  /-- No crossing of the path is flagged. -/
  clean : Bool
  deriving DecidableEq, Repr

/-- The configuration of a tap. -/
def State.tapCfg (s : State) (n : Nat) : TapCfg :=
  { stretch := s.stretch n, pnom := s.rd (BT_Tn_PNOM n), lw := s.fl (BT_Tn_CFG n) 16 4, lead := s.fl (BT_Tn_CFG n) 8 8
    stepMax := s.fl BT_LOCK 16 16, kf := min 8 (s.fl BT_LOCK 0 4)
    clean := (s.tapPath n).all fun k => !(s.tap k).flagged }

/-- A target in the unit of tap time. -/
def Launch.at28 (l : Launch) : Int := l.target * 4096

/-- What applying a mark does to a tap: the tap, and whether it reloaded, and counted it. -/
structure MarkOut where
  tap : Tap
  reload : Bool := false
  counted : Bool := false
  missed : List Launch := []
  deriving DecidableEq, Repr

/-- e of R190, in 2^-24 ns: the mark's time less T at the capture edge. -/
def Tap.markErr (v : Tap) (m : MarkWord) : Int := (m.course : Int) * 16777216000 + (m.age : Int) * 256 - v.t24

/-- A reload: T is set, and armed launches that it has passed are missed (R190, R204) (log entry 49). -/
def Tap.reload (v : Tap) (t1 e : Int) (counted : Bool) : MarkOut :=
  let t2 := t1 + e * 16
  let gone (l : Launch) : Bool := decide (t1 < l.at28) && decide (l.at28 ≤ t2)
  { tap := { v with t := t2, armed := v.armed.filter fun l => !gone l }, reload := true, counted := counted
    missed := v.armed.filter gone }

/-- The edge after a capture edge: the mark is applied; a MARK_STEP reloads in FREE too (R190, R191).  `t1` is the tap
time of this edge as counted (log entry 49). -/
def Tap.applyMark (v : Tap) (c : TapCfg) (t1 : Int) (m : MarkWord) (edges : Nat) : MarkOut :=
  let e := v.markErr m
  let held : Bool := decide (v.st = .free) && !c.clean
  let v' := { v with pend := none, mark := some (m.course, m.code) }
  if held ∧ m.step = false then { tap := { v' with t := t1 } }
  else
    let w := { v' with st := if held then .free else .track, err := e / 256 }
    if v.st = .acq ∨ m.step then w.reload t1 e false
    else if e.natAbs * 1000 ≤ c.stepMax * 16777216 ∧ v.course % 256 = m.course % 256 then
      { tap := { w with t := t1 + e * 16, ptrk := ((v.ptrk : Int) + e / (max 1 edges : Nat) / (2 ^ c.kf : Nat)).toNat } }
    else w.reload t1 e true

/-- Outcome of an armed launch at its firing edge (R200, R201): no mark of its course applied by the edge before, the
TE code above its tolerance, the line still high, or fired. -/
def fireCode (mark : Option (Nat × Nat)) (high : Bool) (l : Launch) : Nat :=
  match mark with
  | none => 3
  | some (course, code) =>
    if course ≠ courseOf l.target then 3
    else if l.tol < code then 2
    else if high then 4
    else 0

/-- What one edge gives. -/
structure EdgeOut where
  tap : Tap
  reload : Bool := false
  counted : Bool := false
  missed : List Launch := []
  ended : List Launch := []
  fell : List Nat := []
  rose : List Nat := []
  inWindow : Bool := false
  deriving DecidableEq, Repr

/-- The launches that reach their firing edge at this edge, and the lines that rise (R200 to R203). -/
def Tap.fire (v : Tap) (c : TapCfg) (mark : Option (Nat × Nat)) (str : Bool) (free : Bool) : Tap × List Nat :=
  let due := v.armed.filter fun l => decide (l.at28 ≤ v.t)
  let v := { v with armed := v.armed.filter fun l => !decide (l.at28 ≤ v.t) }
  due.foldl (fun acc l =>
    let high := acc.1.lines.get 0 l.line
    let code := fireCode mark (decide (high ≠ 0)) l
    let l := { l with code := code, fireStr := str, late := free && code = 0, fall := if code = 0 then c.lw + 1 else high }
    let w := { acc.1 with past := acc.1.past ++ [l] }
    if code = 0 then ({ w with lines := w.lines.set 0 l.line (c.lw + 1) }, acc.2 ++ [l.line])
    else (w, acc.2)) (v, [])

/-- A launch's recording window is open: armed and within N periods of its target, or up to the N-th edge after its
firing edge (R202). -/
def Tap.recording (v : Tap) (c : TapCfg) (l : Launch) : Bool := decide (l.at28 - (l.n * c.pnom * 16 : Nat) ≤ v.t)

/-- The time from this edge to the next, in 2^-28 ns, which a tap knows at every edge (R189). -/
def Tap.period (v : Tap) (stretch : Nat) : Nat := 16 * v.ptrk + (if v.str then stretch else 0)

/-- One edge of a tap; `str` is the level of stretch_ind at it (log entry 49). -/
def Tap.edge (v : Tap) (c : TapCfg) (str : Bool) : EdgeOut :=
  let t1 : Int := v.t + v.period c.stretch
  let mo : MarkOut := match v.pend with
    | some (m, edges) => v.applyMark c t1 m edges
    | none => { tap := { v with t := t1 } }
  let fell := (v.lines.filter fun e => decide (e.2 = 1)).map Prod.fst
  let w : Tap := { mo.tap with
    lines := (v.lines.filter fun e => !decide (e.2 ≤ 1)).map fun e => (e.1, e.2 - 1)
    past := v.past.map fun l => { l with after := l.after + 1 }
    since := v.since + 1
    hold := v.hold + v.period c.stretch }
  let (w, rose) := w.fire c v.mark v.str (decide (v.st = .free))
  let bump (l : Launch) : Launch := if str then { l with win := min 255 (l.win + 1) } else l
  let open_ := (w.armed.any fun l => w.recording c l) || (w.past.any fun l => decide (l.after ≤ l.n))
  let w : Tap := { w with
    armed := w.armed.map fun l => if w.recording c l then bump l else l
    past := w.past.map fun l => if decide (l.after ≤ l.n) then bump l else l }
  let fin (l : Launch) : Bool := decide (l.n ≤ l.after) && decide (l.fall ≤ l.after)
  let nsw := (w.armed.any fun l => decide (l.at28 - ((l.n + c.lead) * c.pnom * 16 : Nat) ≤ w.t)) ||
    (w.past.any fun l => decide (l.after < l.n))
  { tap := { w with past := w.past.filter fun l => !fin l, nsw := nsw, str := str }
    reload := mo.reload, counted := mo.counted, missed := mo.missed, ended := w.past.filter fin
    fell := fell, rose := rose, inWindow := open_ && str }

/-- The skew of a crossing exceeds its slack (R195). -/
def Tap.overSlack (v : Tap) : Bool := decide (v.sigma * 268435456 < v.skew.natAbs * 1000)

/-- A crossing is flagged: shown, counted, reported; its tap and every tap below counts on in FREE (R195). -/
def State.flagCrossing (s : State) (n : Nat) : State :=
  if (s.tap n).flagged then s
  else
    let s := (s.modTap n fun v => { v with flagged := true, flagTick := s.clk.ticks })
    let s := (({ s with bt := { s.bt with flag := s.bt.flag ||| BitVec.ofNat 64 (2 ^ n) } } : State).count BT_CNT_RECAL).raise 16
    s.each (s.below n) fun s k => s.modTap k fun v => if v.st = .track ∨ v.st = .acq then { v with st := .free } else v

/-- The chain calibrates or serves: an edge of this tap counts. -/
def State.tapRuns (s : State) (n : Nat) : Bool := (s.tap n).st ≠ .off

/-- The tap's crossing is calibrated and in use. -/
def Tap.serves (v : Tap) : Bool := v.st = .acq || v.st = .track || v.st = .free

/-! ### Lanes (R192 to R194) -/

/-- The oldest word that satisfies a test, and the rest. -/
def takeFirst {α : Type} (p : α → Bool) (l : List α) : Option (α × List α) :=
  match l with
  | [] => none
  | x :: r => if p x then some (x, r) else (takeFirst p r).map fun y => (y.1, x :: y.2)

/-- TYPE of a word (R192). -/
def DownWord.type : DownWord → Nat
  | .mark _ m => if m.step then 2 else 1
  | .arm _ _ _ _ _ => 3
  | .cancel _ _ _ => 4
  | .release _ _ _ => 5
  | .fill => 0xA

/-- The payload of a mark (R192). -/
def MarkWord.payload (m : MarkWord) : Nat := m.course % 256 * 2 ^ 48 + m.code % 65536 * 2 ^ 32 + m.age % 2 ^ 32

/-- A crossing word of 66 bits: PAR, STRETCH, TYPE and payload (R16, R192). -/
def crossingWord (stretch type payload : Nat) : Nat :=
  let d := stretch % 16 * 2 ^ 60 + type % 16 * 2 ^ 56 + payload % 2 ^ 56
  let par (x : Nat) : Nat := ((List.range 32).map fun i => x / 2 ^ i % 2).sum % 2
  par (d / 2 ^ 32) * 2 ^ 65 + par d * 2 ^ 64 + d

/-- A mark of either kind. -/
def DownWord.isMark : DownWord → Bool
  | .mark _ _ => true
  | _ => false
/-- A RELEASE word. -/
def DownWord.isRelease : DownWord → Bool
  | .release _ _ _ => true
  | _ => false
/-- A FILL word. -/
def DownWord.isFill : DownWord → Bool
  | .fill => true
  | _ => false
/-- An ARM word, which is two words long (R192). -/
def DownWord.isArm : DownWord → Bool
  | .arm _ _ _ _ _ => true
  | _ => false
/-- A CANCEL word. -/
def DownWord.isCancel : DownWord → Bool
  | .cancel _ _ _ => true
  | _ => false
/-- An ARM word for a tap. -/
def DownWord.armFor (n : Nat) : DownWord → Bool
  | .arm t _ _ _ _ => t = n
  | _ => false
/-- A CANCEL word for a tap. -/
def DownWord.cancelFor (n : Nat) : DownWord → Bool
  | .cancel t _ _ => t = n
  | _ => false

/-- The place of a word in the order of a downward lane: marks, RELEASE, then ARM and CANCEL (R194). -/
def DownWord.rank : DownWord → Nat
  | .mark _ _ => 0
  | .release _ _ _ => 1
  | .arm _ _ _ _ _ => 2
  | .cancel _ _ _ => 2
  | .fill => 3

/-- A word that waits at the upstream end is to be sent on the crossing of tap `n`. -/
def State.boundFor (s : State) (n : Nat) : DownWord → Bool
  | .mark x _ => x = n
  | .release x _ _ => x = n
  | .arm t _ _ _ _ => (s.tapPath t).contains n
  | .cancel t _ _ => (s.tapPath t).contains n
  | .fill => false

/-- Words that wait at the upstream end of the crossing of tap `n`: at the head, or at a tap that relays. -/
def State.waiting (s : State) (n : Nat) : List DownWord :=
  match s.ties.up n with
  | none => s.bt.fly
  | some u => (s.tap u).q

/-- Replace the words that wait at the upstream end of a crossing. -/
def State.setWaiting (s : State) (n : Nat) (l : List DownWord) : State :=
  match s.ties.up n with
  | none => { s with bt := { s.bt with fly := l } }
  | some u => s.modTap u fun v => { v with q := l }

/-- The oldest word of the first rank that has one (R194). -/
def pickWord (p : DownWord → Bool) (l : List DownWord) : Option (DownWord × List DownWord) :=
  (takeFirst (fun w => p w && decide (w.rank = 0)) l).orElse fun _ =>
    (takeFirst (fun w => p w && decide (w.rank = 1)) l).orElse fun _ =>
      takeFirst (fun w => p w && decide (w.rank = 2)) l

/-- A mark as it leaves: the time that it was held in a relaying tap is added to its age, from T rounded to 2^-24 ns;
it is held for at least one period (R189, R193) (log entry 49). -/
def State.sent (s : State) (n : Nat) (w : DownWord) : DownWord :=
  match w with
  | .mark x m =>
    match s.ties.up n with
    | none => .mark x m
    | some u =>
      let v := s.tap u
      let h : Nat := if v.hold = 0 then v.period (s.stretch u) else v.hold
      .mark x { m with age := m.age + (roundDiv ((v.capT + h) / 16 - v.capT / 16) 256).toNat }
  | w => w

/-- One sender cycle of the downward lane of the crossing of tap `n`: a word in transfer finishes; otherwise the word
that the order of R194 puts first starts; otherwise FILL is sent once the stretch count has reached 8 (R192, R194). -/
def State.laneTick (s : State) (n : Nat) : State :=
  let v := s.tap n
  match v.xfer with
  | some (w, c) => s.setTap n { v with xfer := none, wire := v.wire ++ [(w, c + v.upStr)], upStr := 0 }
  | none =>
    match pickWord (s.boundFor n) (s.waiting n) with
    | some (w, rest) =>
      let w := s.sent n w
      (s.setWaiting n rest).modTap n fun v =>
        if w.isArm then { v with xfer := some (w, v.upStr), upStr := 0 }
        else { v with wire := v.wire ++ [(w, v.upStr)], upStr := 0 }
    | none => if 8 ≤ v.upStr then s.setTap n { v with wire := v.wire ++ [(.fill, v.upStr)], upStr := 0 } else s

/-- Some sender cycles of a lane. -/
def State.laneRun (s : State) (n k : Nat) : State :=
  match k with
  | 0 => s
  | k + 1 => (s.laneTick n).laneRun n k

/-- The head's logic cycles of 0.8 ns that begin between two tap times in 2^-28 ns (R185). -/
def headCycles (t0 t1 : Int) : Nat := (t1 * 5 / 2 ^ 30 - t0 * 5 / 2 ^ 30).toNat

/-- The lanes that move on while a tap's edge passes: those of the crossings below it by one word, and that of its own
crossing by the head's cycles where it hangs on the head; `t0` is its time at the edge before (log entry 49). -/
def State.lanesTick (s : State) (n : Nat) (t0 : Int) (step : Nat) : State :=
  let s := if s.ties.up n = none then s.laneRun n (headCycles t0 (t0 + step)) else s
  s.each (s.nextDown n) fun s k => s.laneTick k

/-- Words of the lane of tap `n`'s crossing, sent, in transfer and waiting. -/
def State.laneWords (s : State) (n : Nat) : List DownWord :=
  let v := s.tap n
  v.wire.map Prod.fst ++ (v.xfer.map Prod.fst).toList ++ (s.waiting n).filter (s.boundFor n)

/-- A word arrives that must have been sent by now: the sender's cycles up to it have passed. -/
def State.laneForce (s : State) (n : Nat) : State :=
  if (s.tap n).wire ≠ [] then s
  else
    let s := s.laneTick n
    if (s.tap n).wire ≠ [] then s else s.laneTick n

/-- Words join those that wait at a tap to be relayed. -/
def State.relayAll (s : State) (n : Nat) (l : List DownWord) : State := s.modTap n fun v => { v with q := v.q ++ l }

/-- A stretched period of a tap: its crossing's skew falls, and its downstream neighbours' counts rise
(R192, R195). -/
def State.stretched (s : State) (n : Nat) : State :=
  let s := s.modTap n fun v => { v with skew := v.skew - s.stretch n }
  let s := s.each (s.nextDown n) fun s k => s.modTap k fun v => { v with upStr := min 15 (v.upStr + 1) }
  if (s.tap n).overSlack ∧ (s.tap n).serves then s.flagCrossing n else s

/-- One edge of a tap's region clock.  A tap that is OFF still ends the launches that have fired: their lines, their
windows and their reports (R201 to R203) (log entry 49). -/
def State.tapEdge (s : State) (n : Nat) (str : Bool) : State :=
  let v := s.tap n
  if s.tapRuns n = false ∧ v.past = [] ∧ v.lines = [] ∧ v.nsw = false then s
  else
    let on := s.tapRuns n
    let o := v.edge (s.tapCfg n) str
    let s := s.setTap n o.tap
    let s := o.fell.foldl (fun s l => s.emit (.launchLine n l false)) s
    let s := o.rose.foldl (fun s l => s.emit (.launchLine n l true)) s
    let s := if o.tap.nsw = v.nsw then s else s.emit (.nsw n o.tap.nsw)
    let s := if o.inWindow then s.count (BT_Tn_CNT_NSWIN n) else s
    let s := if o.reload then s.evt 31 else s
    let s := if o.counted then s.count BT_CNT_RELOAD else s
    let s := o.missed.foldl (fun s l => s.tapReport n l 1) s
    let s := o.ended.foldl (fun s l => s.tapReport n l l.finalCode) s
    if on then
      let s := s.lanesTick n v.t (v.period (s.stretch n))
      if str then s.stretched n else s
    else s

/-- A number of edges without a stretch indication (log entry 49). -/
def State.tapRun (s : State) (n k : Nat) : State :=
  match k with
  | 0 => s
  | k + 1 => (s.tapEdge n false).tapRun n k

/-- At most `k` edges, up to the first at which `stop` holds between the tap before and after it (log entry 49). -/
def State.tapUntil (s : State) (n k : Nat) (stop : Tap → Tap → Bool) : State :=
  match k with
  | 0 => s
  | k + 1 =>
    let s' := s.tapEdge n false
    if stop (s.tap n) (s'.tap n) then s' else s'.tapUntil n k stop

/-! ### Arming (R199) -/

/-- The first check of R199 that fails, or none (log entry 49). -/
def State.armCheck (s : State) (n line : Nat) (target : Int) : Option Nat :=
  let v := s.tap n
  let mine := v.armed.filter fun l => l.line = line
  let last := mine.foldl (fun m l => max m l.at28) (-1)
  if v.st ≠ .track ∧ v.st ≠ .free then some 8
  else if courseOf target < v.course + 4 then some 9
  else if target % courseUnits < s.guardUnits then some 0xA
  else if 4 ≤ mine.length then some 0xB
  else if mine ≠ [] ∧ target * 4096 ≤ last + ((s.fl (BT_Tn_CFG n) 16 4 + 1) * s.rd (BT_Tn_PNOM n) * 16 : Nat) then some 0xC
  else none

/-- A tap takes an ARM word. -/
def State.takeArm (s : State) (n line : Nat) (target : Int) (nw tol : Nat) : State :=
  let l : Launch := { line := line, target := target, n := nw, tol := tol }
  match s.armCheck n line target with
  | some code => s.tapReport n l code
  | none => s.modTap n fun v => { v with armed := v.armed ++ [l] }

/-- What the next edge does to the tap time, the mark that waits for it applied (R189, R190). -/
def State.nextEdge (s : State) (n : Nat) : MarkOut :=
  let v := s.tap n
  let t1 : Int := v.t + v.period (s.stretch n)
  match v.pend with
  | some (m, edges) => v.applyMark (s.tapCfg n) t1 m edges
  | none => { tap := { v with t := t1 } }

/-- An armed launch reaches its firing edge at the next edge. -/
def State.firesNext (s : State) (n : Nat) (l : Launch) : Bool :=
  let o := s.nextEdge n
  decide (l.at28 ≤ o.tap.t) && o.tap.armed.contains l

/-- A tap takes a CANCEL word: the matching armed launch is removed, unless its firing edge is the next one; a launch
that has reached its firing edge ends as it would (R199). -/
def State.takeCancel (s : State) (n line : Nat) (target : Int) : State :=
  let v := s.tap n
  let hit (l : Launch) : Bool := decide (l.line = line) && decide (l.target = target)
  match v.armed.find? hit with
  | some l =>
    if s.firesNext n l then
      s.setTap n { v with armed := v.armed.map fun x => if hit x then { x with cancelLate := true } else x }
    else (s.setTap n { v with armed := v.armed.filter fun x => !hit x }).tapReport n l 5
  | none => s.setTap n { v with past := v.past.map fun x => if hit x then { x with cancelLate := true } else x }

/-- Send an ARM or a CANCEL word down the chain. -/
def State.sendDown (s : State) (w : DownWord) : State := { s with bt := { s.bt with fly := s.bt.fly ++ [w] } }

/-- The RELEASE words of a barrier, one for each crossing that hangs on the head (R264). -/
def State.releaseWords (s : State) (handle : Nat) (phase : Bool) : List DownWord :=
  s.headTaps.map fun x => .release x handle phase

/-! ### Words at a tap (R192 to R196) -/

/-- A word arrives at a tap: the skew of its crossing rises by the sender's stretches, STRETCH of them (R192, R195)
(log entry 49). -/
def State.wordIn (s : State) (n k : Nat) : State :=
  let rise := match s.ties.up n with
    | some u => k * s.stretch u
    | none => 0
  let s := s.modTap n fun v => { v with skew := v.skew + rise }
  let s := if 15 ≤ k then s.count BT_CNT_SAT else s
  if (15 ≤ k ∨ (s.tap n).overSlack) ∧ (s.tap n).serves then s.flagCrossing n else s

/-- What a word other than a mark does at a tap: it is taken there, or relayed (R194, R199, R264). -/
def State.arrive (s : State) (n : Nat) (w : DownWord) : State :=
  match w with
  | .arm t line target nw tol => if t = n then s.takeArm n line target nw tol else s.relayAll n [w]
  | .cancel t line target => if t = n then s.takeCancel n line target else s.relayAll n [w]
  | .release _ h ph => (s.relayAll n ((s.nextDown n).map fun k => .release k h ph)).emit (.barRsp n h ph)
  | .mark _ _ => s
  | .fill => s

/-- The next word on the wire of a crossing is captured and taken. -/
def State.takeWord (s : State) (n : Nat) : State :=
  let v := s.tap n
  match v.wire with
  | [] => s
  | (w, c) :: rest => ((s.setTap n { v with wire := rest }).wordIn n c).arrive n w

/-- The words ahead of the first that satisfies a test are taken; a mark is passed by none (R194) (log entry 49). -/
def State.upTo (s : State) (n : Nat) (p : DownWord → Bool) (fuel : Nat) : State :=
  match fuel with
  | 0 => s
  | fuel + 1 =>
    let s := s.laneForce n
    match (s.tap n).wire with
    | [] => s
    | (w, _) :: _ => if p w || w.isMark then s else (s.takeWord n).upTo n p fuel

/-- The words of a lane ahead of the first that satisfies a test are taken, where there is one. -/
def State.ahead (s : State) (n : Nat) (p : DownWord → Bool) : State := s.upTo n p ((s.laneWords n).length + 2)

/-- The next word on the wire satisfies a test. -/
def Tap.nextIs (v : Tap) (p : DownWord → Bool) : Bool :=
  match v.wire with
  | [] => false
  | (w, _) :: _ => p w

/-- A lane brings its first word that satisfies a test, behind those ahead of it. -/
def State.bring (s : State) (n : Nat) (p : DownWord → Bool) : State :=
  if (s.laneWords n).any p then
    let s := s.ahead n p
    if (s.tap n).nextIs p then s.takeWord n else s
  else s

/-- The crossings from the head to a tap bring such a word, one after another. -/
def State.bringDown (s : State) (n : Nat) (p : DownWord → Bool) : State :=
  s.each (s.tapPath n).reverse fun s k => s.bring k p

/-- A tap captures a mark: AGE is formed, the mark is applied at the next edge, and it waits to be relayed (R190,
R193). -/
def State.capture (s : State) (n r : Nat) (m : MarkWord) : State :=
  let v := s.tap n
  let age := m.age + v.w + r
  let m := { m with age := age }
  let s := s.setTap n { v with
    age := age, pend := some (m, v.since), since := 0, capT := v.t, hold := 0
    q := v.q ++ (s.nextDown n).map fun k => .mark k m }
  { s with bt := { s.bt with
    ageMax := max s.bt.ageMax age, guardErr := s.bt.guardErr || decide (s.guardUnits < age) } }

/-- The next word on the wire of a crossing, a mark, is captured. -/
def State.takeMark (s : State) (n r : Nat) : State :=
  let v := s.tap n
  match v.wire with
  | (.mark _ m, c) :: rest => ((s.setTap n { v with wire := rest }).wordIn n c).capture n r m
  | _ => s

/-- The mark that comes next on a lane is of the named kind. -/
def State.markComes (s : State) (n : Nat) (step : Bool) : Bool :=
  match (s.laneWords n).find? fun w => w.isMark with
  | some (.mark _ m) => m.step = step
  | _ => false

/-- A mark of the named kind reaches a tap that takes marks, behind the words ahead of it. -/
def State.markIn (s : State) (n r : Nat) (step : Bool) : State :=
  if (s.tap n).serves ∧ s.markComes n step ∧ s.underlay = false then (s.ahead n DownWord.isMark).takeMark n r else s

/-- Target courses of the launches armed at a tap. -/
def State.tapTargets (s : State) (n : Nat) : List Nat := (s.tap n).armed.map fun l => courseOf l.target

/-! ### Calibration (R197) -/

/-- The crossing's calibration succeeds (R197, R207). -/
def State.calOk (s : State) (r : CalResult) : Bool :=
  r.back && s.pnomOk r.tap && decide (s.fl BT_CAL_CFG 0 16 ≤ r.sigma)

/-- What a tap keeps when the chain is disabled: its reports, and the launches that have fired (R197, R201). -/
def Tap.rest (v : Tap) : Tap :=
  { seq := v.seq, rep := v.rep, past := v.past, lines := v.lines, nsw := v.nsw, str := v.str, warn := v.warn, mis := v.mis }

/-- A full calibration of the chain starts (R185, R197). -/
def State.startCal (s : State) : State :=
  let bad := s.topoBad
  let s := { s with bt := { s.bt with topoErr := bad } }
  if bad then s
  else
    let s := s.each s.tapList fun s n => s.modTap n fun v => { v.rest with st := .cal }
    { s with bt := { s.bt with busy := true, done := false, recal := false, fly := [] } }

/-- The result of one crossing's calibration, by its tap; no result means that no trial returned. -/
def State.calOne (s : State) (rs : List CalResult) (n : Nat) : State :=
  let r := (rs.find? fun r => r.tap = n).getD { tap := n, back := false }
  if s.calOk r then
    s.modTap n fun v => { v with w := r.w, sigma := r.sigma, skew := 0, xfail := false, flagged := false }
  else
    ({ s with bt := { s.bt with calFail := true } } : State).raise 16
      |>.modTap n fun v => { v with w := r.w, sigma := r.sigma, skew := 0, xfail := true, flagged := false }

/-- Crossings that the running calibration covers. -/
def State.calSet (s : State) : List Nat :=
  if s.bt.recal then s.tapList.filter fun n => (s.tap n).xfail else s.tapList

/-- Whether every crossing of a tap's path is calibrated. -/
def State.pathOk (s : State) (n : Nat) : Bool := (s.tapPath n).all fun k => !(s.tap k).xfail

/-- Calibration finishes: taps move to ACQ or FAIL (R191, R197) (log entry 59). -/
def State.calDone (s : State) (rs : List CalResult) : State :=
  if s.bt.busy = false then s
  else
    let s := s.each s.calSet fun s n => s.calOne rs n
    let s := s.each s.tapList fun s n =>
      let st := (s.tap n).st
      if st = .cal ∨ st = .fail then
        s.modTap n fun v =>
          if s.pathOk n then { v with st := .acq, ptrk := s.rd (BT_Tn_PNOM n), mark := none, pend := none }
          else { v with st := .fail }
      else s
    { s with bt := { s.bt with busy := false, done := true, recal := false } }

/-- The recalibration of a flagged crossing, in the course after the flag (R191, R195, R204) (log entry 49). -/
def State.recalOne (s : State) (r : CalResult) : State :=
  let n := r.tap
  let v := s.tap n
  if v.flagged = false ∨ s.clk.ticks ≤ v.flagTick then s
  else if s.calOk r then s.setTap n { v with w := r.w, sigma := r.sigma, skew := 0, flagged := false }
  else
    let s := ({ s with bt := { s.bt with calFail := true } } : State).raise 16
    let s := s.modTap n fun v => { v with w := r.w, sigma := r.sigma, skew := 0, xfail := true, flagged := false }
    s.each (s.below n) fun s k =>
      if (s.tap k).st = .off then s else (s.endLaunches k).modTap k fun v => { v with st := .fail }

/-- An ARM word as a launch of its tap. -/
def DownWord.launch : DownWord → Option (Nat × Launch)
  | .arm t line target nw tol => some (t, { line := line, target := target, n := nw, tol := tol })
  | _ => none

/-- The ARM words on their way. -/
def State.armsOnWay (s : State) : List (Nat × Launch) :=
  (s.bt.fly ++ (s.bt.taps.map fun e => e.2.q ++ (e.2.xfer.map Prod.fst).toList ++ e.2.wire.map Prod.fst).flatten).filterMap
    DownWord.launch

/-- BT_CTL.EN cleared, at the boundary: a launch armed, or on its way to its tap, ends with TAPOFF (R197, R203). -/
def State.chainOff (s : State) : State :=
  let arms := s.armsOnWay
  let s := s.each s.bt.taps.keys fun s n => (s.endLaunches n).modTap n Tap.rest
  let s := arms.foldl (fun s e => s.tapReport e.1 e.2 8) s
  { s with bt := { s.bt with busy := false, done := false, recal := false, disPend := false, fly := [] } }

/-- A write of BT_CTL (R197, R207). -/
def State.battenCtl (s : State) (v : Nat) : State :=
  let was := s.bit BT_CTL 0
  let s := s.wr BT_CTL v
  let now := bitOf v 0
  let s := if bitOf v 2 ∧ now then { s with bt := { s.bt with recalPend := true } } else s
  if was = false ∧ now then (if s.bt.disPend then s else s.startCal)
  else if was ∧ now = false then { s with bt := { s.bt with disPend := true } }
  else s

/-- The chain's work at a boundary: a disable, a new start, a recalibration of the crossings in FAIL, which waits for a
calibration that is running (R197) (log entry 49). -/
def State.battenBoundary (s : State) : State :=
  let s :=
    if s.bt.disPend then
      let s := s.chainOff
      if s.bit BT_CTL 0 then s.startCal else s
    else s
  if s.bt.recalPend ∧ s.bt.busy = false then
    let s := { s with bt := { s.bt with recalPend := false } }
    if s.bit BT_CTL 0 ∧ (s.tapList.any fun n => (s.tap n).xfail) then
      { s with bt := { s.bt with busy := true, recal := true } }
    else s
  else s

/-- The mark of a new course at the head, for each crossing that hangs on it: its TE code and the fixed latency of
6.4 ns (R190, R193, R200).  `code` is the TE code of the boundary; the largest AGE and the margin warnings of the old
course are closed, and a mark of it that no tap has captured is gone (log entry 49). -/
def State.headMark (s : State) (code : Nat) : State :=
  let s := s.each s.bt.taps.keys fun s n => s.modTap n fun v => { v with
    warn := false, mis := 0, wire := v.wire.filter fun e => !e.1.isMark, q := v.q.filter fun w => !w.isMark }
  let send := s.isEave && s.bit BT_CTL 0 && !s.underlay
  let m : MarkWord := { step := s.bt.stepNext, course := s.clk.course, code := code, age := 419430 }
  { s with bt := { s.bt with
    fly := (s.bt.fly.filter fun w => !w.isMark) ++ if send then s.headTaps.map fun x => .mark x m else []
    stepNext := false
    ageLast := s.bt.ageMax, ageMax := 0 } }

/-! ### The commands -/

/-- A command of the chain: at an eave, on an enabled tap, after some edges of its region clock. -/
def State.atTap (s : State) (n edges : Nat) (f : State → State) : Result :=
  s.main fun s => if s.isEave ∧ s.tapEn n then f (s.tapRun n edges) else s

/-- BATTEN_CAL_DONE (R197). -/
def execBattenCalDone (rs : List CalResult) (s : State) : Result :=
  s.main fun s => if s.isEave then s.calDone rs else s

/-- CROSSING_RECALIBRATION (R195). -/
def execCrossingRecalibration (r : CalResult) (s : State) : Result :=
  s.main fun s => if s.isEave ∧ s.tapEn r.tap then s.recalOne r else s

/-- MARK (R190): `r` is the time from the strobe's arrival to the capture edge, in 2^-16 ns. -/
def execMark (n edges r : Nat) (s : State) : Result := s.atTap n edges fun s => s.markIn n r false

/-- MARK_STEP (R190). -/
def execMarkStep (n edges r : Nat) (s : State) : Result := s.atTap n edges fun s => s.markIn n r true

/-- STRETCH_INDICATION (R195): stretch_ind is high at the last of the edges, of which there is at least one. -/
def execStretchIndication (n edges : Nat) (s : State) : Result :=
  s.main fun s => if s.isEave ∧ s.tapEn n then (s.tapRun n (edges - 1)).tapEdge n true else s

/-- FILL_WORD (R192): sent by a neighbour whose stretch count has reached 8. -/
def execFillWord (n edges : Nat) (s : State) : Result :=
  s.atTap n edges fun s =>
    if (s.laneWords n).any DownWord.isFill ∨ 8 ≤ (s.tap n).upStr then
      let s := s.ahead n DownWord.isFill
      if (s.tap n).nextIs DownWord.isFill then s.takeWord n else s
    else s

/-- MARGIN_WARNING (R198): some replica mismatches of a tap in this course. -/
def execMarginWarning (n mismatches : Nat) (s : State) : Result :=
  s.main fun s =>
    if s.isEave ∧ s.tapEn n then
      let v := s.tap n
      let m := v.mis + mismatches
      let thr := max 1 (s.fl BT_MARGIN 0 8)
      let s := (s.setTap n { v with mis := m }).count (BT_Tn_CNT_MFAIL n) mismatches
      if thr ≤ m ∧ v.mis < thr then
        let s := s.modTap n fun v => { v with warn := true }
        let s := ({ s with bt := { s.bt with warn := s.bt.warn ||| BitVec.ofNat 64 (2 ^ n) } } : State).raise 17
        if s.bit BT_CTL 3 then s.flagCrossing n else s
      else s
    else s

/-- ARM_WORD (R199): the lanes bring an ARM word to its tap, behind the words ahead of it (R194). -/
def execArmWord (n edges : Nat) (s : State) : Result := s.atTap n edges fun s => s.bringDown n (DownWord.armFor n)

/-- CANCEL_WORD (R199). -/
def execCancelWord (n edges : Nat) (s : State) : Result := s.atTap n edges fun s => s.bringDown n (DownWord.cancelFor n)

/-- NSW_REQ_RISE (R202): edges up to the first at which nsw_req rises. -/
def execNswReqRise (n edges : Nat) (s : State) : Result :=
  s.main fun s => if s.isEave ∧ s.tapEn n then s.tapUntil n edges fun a b => !a.nsw && b.nsw else s

/-- LAUNCH_FIRE (R201): edges up to the first at which a launch reaches its firing edge. -/
def execLaunchFire (n edges : Nat) (s : State) : Result :=
  s.main fun s => if s.isEave ∧ s.tapEn n then s.tapUntil n edges fun a b => decide (b.armed.length < a.armed.length) else s

/-- LAUNCH_LINE_FALL (R201): edges up to the first at which a line falls. -/
def execLaunchLineFall (n edges : Nat) (s : State) : Result :=
  s.main fun s => if s.isEave ∧ s.tapEn n then
    s.tapUntil n edges fun a _ => a.lines.any fun e => decide (e.2 = 1)
  else s

/-- LAUNCH_REPORT (R203): edges up to the first at which a report is issued. -/
def execLaunchReport (n edges : Nat) (s : State) : Result :=
  s.main fun s => if s.isEave ∧ s.tapEn n then s.tapUntil n edges fun a b => a.seq != b.seq else s

/-- RELEASE_WORD (R264): a RELEASE crosses the chain from the head downward, and every enabled tap that it reaches
asserts bar_rsp. -/
def execReleaseWord (s : State) : Result :=
  s.main fun s => if s.isEave then s.each s.chainOrder fun s n => s.bring n DownWord.isRelease else s

end Sys2Proof.Machine
end

