-- ==== Sys2Proof/Machine/Objects.lean ====
section
/-! DEFINITION. Sys2Proof/Machine/Objects.lean: the object store of the eave: handles, operations, waiters, fences,
contexts, lending, the deadlock detector, remote operations, the debug view (spec/10_sync_objects.md). -/
namespace Sys2Proof.Machine
open Sys2Proof.Config

/-! ### Slots, contexts, handles (R255 to R258) -/

/-- A slot of the store. -/
def State.slot (s : State) (k : Nat) : Slot := s.od.slots.get {} k
/-- Replace a slot. -/
def State.setSlot (s : State) (k : Nat) (v : Slot) : State := { s with od := { s.od with slots := s.od.slots.set {} k v } }
/-- A context. -/
def State.ctx (s : State) (x : Nat) : Ctx := s.od.ctxs.get {} x
/-- Change a context. -/
def State.modCtx (s : State) (x : Nat) (f : Ctx → Ctx) : State :=
  { s with od := { s.od with ctxs := s.od.ctxs.set {} x (f (s.ctx x)) } }

/-- The context of a handle. -/
def hCtx (h : Nat) : Nat := h / 65536 % 256
/-- The local number of a handle. -/
def hLoc (h : Nat) : Nat := h % 65536
/-- The key of a translation: context × 65,536 + local number. -/
def hKey (h : Nat) : Nat := h % 16777216

/-- The slot of a local number inside the segments (R257 step 2). -/
def segSlot (segs : List (Nat × Nat)) (n : Nat) : Option Nat :=
  match segs with
  | [] => none
  | (b, l) :: r => if n < l then some (b + n) else segSlot r (n - l)

/-- What translation without a memory read gives (R257). -/
inductive Trans where
  | slot (k : Nat)
  | fail
  | miss
  deriving DecidableEq, Repr

/-- Step 4 of R257: the slot's context must be the handle's. -/
def State.ownSlot (s : State) (x k : Nat) : Trans := if (s.slot k).ctx = x then .slot k else .fail

/-- Steps 1 and 2 of R257, without the test of step 4: the slot a handle names, or a need to consult the overflow
area. -/
def State.rawSlot (s : State) (h : Nat) : Trans :=
  let c := s.ctx (hCtx h)
  if c.st = .undef then .fail
  else
    match segSlot c.segs (hLoc h) with
    | some k => .slot k
    | none =>
      if c.ovf = false then .fail
      else
        match s.od.cache.find? fun e => e.1 = hKey h with
        | some e => .slot e.2
        | none => .miss

/-- Translation of a handle (R257). -/
def State.translate (s : State) (h : Nat) : Trans :=
  match s.rawSlot h with
  | .slot k => s.ownSlot (hCtx h) k
  | t => t

/-- The reset state of a slot in a generation: its kind, owner and E are kept (R258, R271). -/
def Slot.fresh (v : Slot) (gen : Nat) : Slot :=
  { kind := v.kind, gen := gen, ctx := v.ctx, c := if v.kind = 3 then v.c else 0 }

/-- The store is at work: EN refuses new requests only (R278, R281). -/
def State.odRuns (s : State) : Bool := s.isEave && !s.od.stopped
/-- The store accepts requests (R278, R281). -/
def State.odOn (s : State) : Bool := s.odRuns && s.bit OD_CTL 0

/-! ### Results (R261) -/

/-- Result codes of R261. -/
def rDone : Nat := 0x00
def rEmpty : Nat := 0x01
def rFull : Nat := 0x02
def rUnder : Nat := 0x03
def rDrift : Nat := 0x04
def rTimeout : Nat := 0x05
def rCleared : Nat := 0x06
def rKind : Nat := 0x07
def rHandle : Nat := 0x08
def rBusy : Nat := 0x09
def rStale : Nat := 0x0A
def rParity : Nat := 0x0B
def rNoRoute : Nat := 0x0C
def rDisabled : Nat := 0x0D
def rWake : Nat := 0x0E
def rNotReady : Nat := 0x0F
def rRemote : Nat := 0x10

/-- The counter of a result (R281). -/
def resultCounter (r : Nat) : Option Nat :=
  if r = rFull then some OD_CNT_FULL
  else if r = rUnder then some OD_CNT_UNDER
  else if r = rDrift then some OD_CNT_DRIFT
  else if r = rTimeout then some OD_CNT_TIMEOUT
  else if r = rHandle ∨ r = rKind then some OD_CNT_HANDLE
  else if r = rBusy then some OD_CNT_BUSY
  else if r = rStale ∨ r = rNoRoute then some OD_CNT_STALE
  else if r = rParity then some OD_CNT_PAR
  else none

/-- An operation of a context ends with a result: counted, reported, and the context was not idle (R260, R268, R275,
R281, R396). -/
def State.ended (s : State) (h r : Nat) : State :=
  let s := (s.count OD_CNT_OPS).evt 16
  let s := match resultCounter r with
    | some c => s.count c
    | none => s
  let s := s.raiseIf (r = rUnder || r = rDrift) 23
  let s := if r = rFull ∨ r = rUnder ∨ r = rDrift then s.evt 18 else s
  if (s.ctx (hCtx h)).st = .undef then s else s.modCtx (hCtx h) fun c => { c with done := true }

/-- LAST of a slot: the last result other than DONE (R256). -/
def State.noteLast (s : State) (k r : Nat) : State :=
  if r = rDone then s else s.setSlot k { s.slot k with last := r }

/-- The value an operation returns: the one R260 states, otherwise a free value (log entry 52). -/
def State.valueOf (s : State) (v : Option Nat) : State × Nat :=
  match v with
  | some x => (s, x)
  | none => let r := s.drawFree; (r.1, r.2 % 2 ^ 32)

/-- The response of an engine's request; a request on bar_req has none (R259). -/
def State.respond (s : State) (r : EngReq) (res val : Nat) : State :=
  if r.bar then s else s.emit (.objRsp r.tap r.rtag res val)

/-- End an engine's request that reached no slot. -/
def State.endEngine (s : State) (r : EngReq) (res : Nat) : State :=
  let q := (s.ended r.handle res).valueOf none
  q.1.respond r res q.2

/-! ### Operations on one slot (R260, R264, R268) -/

/-- An operation on a slot: the slot after it, its result, the value R260 gives it to return, and whether a request
that gets this result may wait. -/
structure SlotOut where
  slot : Slot
  res : Nat
  val : Option Nat := none
  waits : Bool := false
  deriving DecidableEq, Repr

/-- The effect of an operation on a slot (R260, R264, R268) (log entry 52). -/
def slotOp (op operand : Nat) (v : Slot) : SlotOut :=
  match op with
  | 0x01 => if v.kind = 1 ∨ v.kind = 2 ∨ v.kind = 3 then ⟨v, rDone, some v.value, false⟩ else ⟨v, rKind, none, false⟩
  | 0x02 =>
    if v.kind ≠ 1 then ⟨v, rKind, none, false⟩
    else if v.full then ⟨{ v with full := false }, rDone, some v.value, false⟩
    else ⟨v, rEmpty, none, true⟩
  | 0x03 =>
    if v.kind ≠ 1 then ⟨v, rKind, none, false⟩
    else if v.full then ⟨v, rFull, none, false⟩
    else ⟨{ v with value := operand % 2 ^ 32, full := true }, rDone, none, false⟩
  | 0x04 =>
    if v.kind ≠ 2 then ⟨v, rKind, none, false⟩
    else ⟨{ v with value := (v.value + operand) % 2 ^ 32, p := (v.p + operand) % 2 ^ 32 }, rDone, none, false⟩
  | 0x05 =>
    if v.kind ≠ 2 then ⟨v, rKind, none, false⟩
    else if operand ≤ v.value then ⟨v, rDone, some v.value, false⟩
    else ⟨v, rNotReady, none, true⟩
  | 0x06 =>
    if v.kind ≠ 2 then ⟨v, rKind, none, false⟩
    else if operand ≤ v.value then
      ⟨{ v with value := v.value - operand, c := (v.c + operand) % 2 ^ 32 }, rDone, some v.value, false⟩
    else ⟨v, rUnder, none, false⟩
  | 0x07 =>
    if v.kind ≠ 2 then ⟨v, rKind, none, false⟩
    else if operand ≤ v.value then
      ⟨{ v with value := v.value - operand, c := (v.c + operand) % 2 ^ 32 }, rDone, some v.value, false⟩
    else ⟨v, rNotReady, none, true⟩
  | 0x08 =>
    if v.kind ≠ 2 then ⟨v, rKind, none, false⟩
    else if v.p = operand ∧ v.c = operand then ⟨{ v with p := 0, c := 0, drift := false }, rDone, none, false⟩
    else ⟨{ v with drift := true }, rDrift, none, false⟩
  | 0x09 =>
    if v.kind ≠ 3 then ⟨v, rKind, none, false⟩
    else if v.c ≤ v.value then ⟨{ v with value := 0, phase := !v.phase }, rDone, some (bnat v.phase), false⟩
    else ⟨{ v with value := v.value + 1 }, rDone, some (bnat v.phase), false⟩
  | 0x0A =>
    if v.kind = 1 then ⟨{ v with value := operand % 2 ^ 32, full := true, drift := false }, rDone, none, false⟩
    else if v.kind = 2 then ⟨{ v with value := operand % 2 ^ 32, p := 0, c := 0, drift := false }, rDone, none, false⟩
    else ⟨v, rKind, none, false⟩
  | _ => ⟨v, rKind, none, false⟩

/-- Before an operation a stale slot returns to the reset state in the context's generation (R271). -/
def State.refresh (s : State) (k : Nat) : State :=
  let v := s.slot k
  let g := (s.ctx v.ctx).gen
  if v.gen = g then s
  else
    let s := s.setSlot k (v.fresh g)
    { s with od := { s.od with part := s.od.part.filter fun e => e.1 ≠ k } }

/-! ### Waiters and lends (R264, R272 to R274) -/

/-- A waiter's request ends: the response goes out, or is held for the power manager's acknowledgement after an early
return of its lend; `hold` is false in Underlay mode (R274, R278). -/
def State.endWaiter (s : State) (w : Waiter) (res val : Nat) (hold : Bool := true) : State :=
  let s := { s with od := { s.od with waiters := s.od.waiters.filter fun x => x.id ≠ w.id } }
  let s := (s.noteLast w.slot res).ended w.handle res
  let rsp : State → State := fun s => s.emit (.objRsp w.tap w.rtag res val)
  match s.od.lends.find? fun l => l.id = w.id with
  | none => rsp s
  | some l =>
    let s := if l.early then s else s.emit (.lendRet w.id true)
    if hold then
      { s with od := { s.od with lends := s.od.lends.map fun x =>
          if x.id = w.id then { x with early := true, rsp := some (w.tap, w.rtag, res, val) } else x } }
    else rsp { s with od := { s.od with lends := s.od.lends.filter fun x => x.id ≠ w.id } }

/-- End a waiter with a result that carries no stated value. -/
def State.failWaiter (s : State) (w : Waiter) (res : Nat) (hold : Bool := true) : State :=
  let q := s.valueOf none
  q.1.endWaiter w res q.2 hold

/-- The waiters on a slot are re-evaluated in order of arrival (R264) (log entry 52). -/
def State.reeval (s : State) (k : Nat) : State :=
  (s.od.waiters.filter fun w => w.slot = k).foldl (fun s w =>
    let o := slotOp w.op w.operand (s.slot k)
    if o.res = rDone then
      let q := (s.setSlot k o.slot).valueOf o.val
      q.1.endWaiter w rDone q.2
    else s) s

/-- Barriers: the record of a partial count, a release down the chain, and, once time is acquired, the contribution of handles
that name the barrier as ARRIVE_OBJ (R41, R264, R275, R283) (log entry 30). -/
def State.barrierAfter (s : State) (h k : Nat) : State :=
  let v := s.slot k
  if v.value = 0 then
    let s := { s with
      od := { s.od with part := s.od.part.filter fun e => e.1 ≠ k }
      bt := { s.bt with fly := s.bt.fly ++ s.releaseWords (hKey h) v.phase } }
    if s.td.acq = false then s else s.ce.handles.foldl (fun s e =>
      match e.2 with
      | some hd => if hd.arriveObj = some (hKey h) then s.contributeHeld e.1 (.partial_ []) 0 0 else s
      | none => s) s
  else if v.value = 1 then { s with od := { s.od with part := s.od.part ++ [(k, hKey h, s.od.nextOrd)], nextOrd := s.od.nextOrd + 1 } }
  else s

/-- What follows an operation on a slot: waiters are re-evaluated, a barrier is recorded or released (log entry 53). -/
def State.afterOp (s : State) (op h k res : Nat) : State :=
  if res ≠ rDone then s
  else if op = 0x09 then s.barrierAfter h k
  else s.reeval k

/-- An operation applied to a translated slot, without waiting: the result and the returned value (log entry 52). -/
def State.opAt (s : State) (op operand h k : Nat) : State × Nat × Nat :=
  let s := s.refresh k
  let o := slotOp op operand (s.slot k)
  let s := (((s.setSlot k o.slot).noteLast k o.res).ended h o.res).afterOp op h k o.res
  let q := s.valueOf o.val
  (q.1, o.res, q.2)

/-- The lowest waiter index that neither a waiter nor a lend uses (R264, R272). -/
def State.waiterId (s : State) : Option Nat :=
  (List.range 4096).find? fun i => (s.od.waiters.all fun w => w.id ≠ i) && s.od.lends.all fun l => l.id ≠ i

/-- An engine's request on a translated slot: it completes, waits, or returns at once (R260, R264, R269). -/
def State.engineAt (s : State) (op : Nat) (r : EngReq) (course k : Nat) : State :=
  let s := s.refresh k
  let o := slotOp op r.operand (s.slot k)
  if o.waits ∧ r.wait then
    match s.waiterId with
    | none => (s.noteLast k rBusy).endEngine r rBusy
    | some i =>
      let w : Waiter :=
        { id := i, tap := r.tap, rtag := r.rtag, handle := hKey r.handle, slot := k, op := op, operand := r.operand
          deadline := if r.dl = 0 then none else some (course + r.dl), lend := r.lend, tick := s.clk.ticks
          ord := s.od.nextOrd }
      State.evt { s with od := { s.od with waiters := s.od.waiters ++ [w], nextOrd := s.od.nextOrd + 1 } } 17
  else
    let q := (((s.setSlot k o.slot).noteLast k o.res).ended r.handle o.res).valueOf o.val
    (q.1.respond r o.res q.2).afterOp op r.handle k o.res

/-! ### Requests of engines (R257, R259, R263, R265 to R267) -/

/-- Issue the read of an overflow entry for somebody who waits (R257 step 3) (log entry 52). -/
def State.issueTrans (s : State) (h : Nat) (who : TransFor) : State :=
  let s := s.count OD_CNT_TMISS
  let a := s.rd OD_OVF_BASE + hKey h * 4
  let s := { s with od := { s.od with reads := s.od.reads ++ [(⟨hKey h, who⟩ : TransRead)] } }
  s.memRead (.trans (hKey h)) (a - a % 16) 1

/-- A tap has a request that waits for a translation read. -/
def State.tapHeld (s : State) (tap : Nat) : Bool :=
  s.od.reads.any fun t => match t.who with
    | .engine _ r _ => r.tap = tap
    | _ => false

/-- A local request of an engine, behind any of its tap that waits for a translation read (R263). -/
def State.localReq (s : State) (op : Nat) (r : EngReq) (course : Nat) : State :=
  if s.tapHeld r.tap then { s with od := { s.od with tapQ := s.od.tapQ ++ [{ op := op, req := r, course := course }] } }
  else
    match s.translate r.handle with
    | .fail => s.endEngine r rHandle
    | .miss => s.issueTrans r.handle (.engine op r course)
    | .slot k => s.engineAt op r course k

/-- The key of a fence tag of a tap. -/
def fenceKey (tap tag : Nat) : Nat := tap * 256 + tag % 256

/-- A fenced request (R265, R267). -/
def State.fencedReq (s : State) (op : Nat) (r : EngReq) (course : Nat) : State :=
  let k := fenceKey r.tap r.ftag
  if s.od.boards.get false k then
    State.localReq { s with od := { s.od with boards := s.od.boards.set false k false } } op r course
  else if 64 ≤ (s.od.fenced.filter fun f => f.req.tap = r.tap).length then s.endEngine r rBusy
  else { s with od := { s.od with fenced := s.od.fenced ++ [{ op := op, req := r, tick := s.clk.ticks, course := course }] } }

/-- Operations that may be sent remotely (R276) (log entry 53). -/
def remoteOp (op : Nat) : Bool := op = 0x01 || op = 0x03 || op = 0x04 || op = 0x08 || op = 0x0A

/-- The rafter an eave sends object messages on: that of the domain its output follows, or the other (R276). -/
def State.objRafter (s : State) : Option Nat := (s.rafter s.td.sel).orElse fun _ => s.rafter s.td.sel.other

/-- Send a message on a rafter, if one is live. -/
def State.sendObj (s : State) (b : Body) : State :=
  match s.objRafter with
  | some p => s.xsend p b
  | none => s

/-- A remote request (R276). -/
def State.remoteReq (s : State) (op : Nat) (r : EngReq) : State :=
  if remoteOp op = false ∨ r.wait ∨ r.fence then s.endEngine r rRemote
  else
    let s := { s with od := { s.od with
      remote := s.od.remote ++ [(⟨r.tap, r.rtag, hCtx r.handle, s.clk.ticks⟩ : RemoteReq)] } }
    s.sendObj (.objReq { dst := r.dst, op := op, ctx := hCtx r.handle, loc := hLoc r.handle
                         rtag := r.tap * 1024 + r.rtag % 256, operand := r.operand % 2 ^ 32 })

/-- A request of an engine reaches the store. -/
def State.engine (s : State) (op : Nat) (r : EngReq) : State :=
  if s.odOn = false then s.endEngine r rDisabled
  else if r.remote then s.remoteReq op r
  else if r.fence then s.fencedReq op r s.clk.course
  else s.localReq op r s.clk.course

/-- Requests of a tap that waited behind a translation read proceed in order (R263). -/
def State.drainTap (s : State) (tap : Nat) : State :=
  let q := s.od.tapQ.filter fun t => t.req.tap = tap
  let s := { s with od := { s.od with tapQ := s.od.tapQ.filter fun t => t.req.tap ≠ tap } }
  q.foldl (fun s t => s.localReq t.op t.req t.course) s

/-- A write acknowledgement (R265). -/
def State.wack (s : State) (tap tag : Nat) : State :=
  let k := fenceKey tap tag
  if s.od.boards.get false k then s.count OD_CNT_FENCE_DUP
  else
    match takeFirst (fun (f : Fenced) => decide (fenceKey f.req.tap f.req.ftag = k)) s.od.fenced with
    | some (f, rest) => State.localReq { s with od := { s.od with fenced := rest } } f.op f.req f.course
    | none => { s with od := { s.od with boards := s.od.boards.set false k true } }

/-! ### Requests of programs, commands, remote eaves and DONE_OBJ -/

/-- A program's request: none while it waits for a translation read (R262). -/
def State.programOp (s : State) (op operand h : Nat) : State × Option (Nat × Nat) :=
  let fail (s : State) (r : Nat) : State × Option (Nat × Nat) :=
    let q := (s.ended h r).valueOf none
    (q.1, some (r, q.2))
  let at_ (s : State) (k : Nat) : State × Option (Nat × Nat) :=
    let q := s.opAt op operand h k
    (q.1, some (q.2.1, q.2.2))
  if s.odOn = false then fail s rDisabled
  else
    match s.od.progRes with
    | some (key, res) =>
      let s := { s with od := { s.od with progRes := none } }
      if key ≠ hKey h then (s, none)
      else
        match res with
        | .slot k => at_ s k
        | .fail => fail s rHandle
        | .parity => fail s rParity
    | none =>
      if s.od.reads.any fun t => t.who = .program then (s, none)
      else
        match s.translate h with
        | .slot k => at_ s k
        | .fail => fail s rHandle
        | .miss => (s.issueTrans h .program, none)

/-- A command's translation of a handle: none while a read is awaited.  `own` asks for the test of step 4, which
obj.init does not make (R257, R258). -/
def State.commandTrans (s : State) (h : Nat) (own : Bool) : State × Option TransRes :=
  let check (k : Nat) : TransRes := if own ∧ (s.slot k).ctx ≠ hCtx h then .fail else .slot k
  match s.od.cmdRes.get none (hKey h) with
  | some (.slot k) => (s, some (check k))
  | some r => (s, some r)
  | none =>
    match s.rawSlot h with
    | .slot k => (s, some (check k))
    | .fail => (s, some .fail)
    | .miss =>
      if s.od.reads.any fun t => t.who = .command then (s, none) else (s.issueTrans h .command, none)

/-- The SIGNAL of a completion on a DONE_OBJ (R287). -/
def State.doneSignal (s : State) (h : Nat) : State :=
  if s.odOn = false then s
  else
    match s.translate h with
    | .slot k => (s.opAt 0x04 1 h k).1
    | .fail => s.ended h rHandle
    | .miss => s.issueTrans h .signal

/-- The answer to a remote request (R276) (log entry 53). -/
def State.answer (s : State) (src rtag res : Nat) (val : Option Nat) : State :=
  let q := s.valueOf val
  q.1.sendObj (.objRsp { dst := src % 1048576, result := res, rtag := rtag, value := q.2 % 2 ^ 32 })

/-- Apply a remote request to a translated handle (log entry 53). -/
def State.remoteAt (s : State) (m : ObjReqMsg) (src k : Nat) : State :=
  let q := s.opAt m.op m.operand (m.ctx * 65536 + m.loc) k
  q.1.answer src m.rtag q.2.1 (some q.2.2)

/-- A remote request at its target; `course` is its rebuilt course number (R276) (log entry 53). -/
def State.remoteApply (s : State) (m : ObjReqMsg) (src course : Nat) : State :=
  let h := m.ctx * 65536 + m.loc
  let fail (r : Nat) : State := (s.ended h r).answer src m.rtag r none
  if s.odOn = false then fail rDisabled
  else if remoteOp m.op = false then fail rRemote
  else if course < (s.ctx m.ctx).clear then fail rStale
  else
    match s.translate h with
    | .fail => fail rHandle
    | .miss => s.issueTrans h (.remote m src)
    | .slot k => s.remoteAt m src k

/-- The outcome of a translation read for whoever waits for it (R257, R262, R279) (log entry 52). -/
def State.transFor (s : State) (key : Nat) (res : TransRes) (who : TransFor) : State :=
  match who with
  | .engine op r course =>
    let s := match res with
      | .slot k => s.engineAt op r course k
      | .fail => s.endEngine r rHandle
      | .parity => s.endEngine r rParity
    s.drainTap r.tap
  | .remote m src =>
    match res with
    | .slot k => s.remoteAt m src k
    | .fail => (s.ended key rHandle).answer src m.rtag rHandle none
    | .parity => (s.ended key rParity).answer src m.rtag rParity none
  | .signal =>
    match res with
    | .slot k => (s.opAt 0x04 1 key k).1
    | .fail => s.ended key rHandle
    | .parity => s.ended key rParity
  | .program => { s with od := { s.od with progRes := some (key, res) } }
  | .command => { s with od := { s.od with cmdRes := s.od.cmdRes.set none key (some res) } }

/-- An overflow entry has been read; `bad` when the read failed (R257, R279) (log entry 53). -/
def State.transDone (s : State) (key entry : Nat) (bad : Bool) : State :=
  match takeFirst (fun (t : TransRead) => decide (t.key = key)) s.od.reads with
  | none => s
  | some (t, rest) =>
    let k := entry % 65536
    let valid := bitOf entry 31
    let s := { s with od := { s.od with reads := rest } }
    let s := if bad = false ∧ valid ∧ (s.od.cache.all fun e => e.1 ≠ key) then
        { s with od := { s.od with cache := ((key, k) :: s.od.cache).take 1024 } } else s
    let res : TransRes :=
      if bad then .parity
      else if valid = false ∨ (s.ctx (hCtx key)).st = .undef then .fail
      else if (s.slot k).ctx = hCtx key ∨ t.who = .command then .slot k
      else .fail
    s.transFor key res t.who

/-! ### Contexts (R258, R270, R271) -/

/-- Every waiter and every held request of a context ends (R258, R271). -/
def State.endCtx (s : State) (x res : Nat) : State :=
  let s := (s.od.waiters.filter fun w => hCtx w.handle = x).foldl (fun s w => s.failWaiter w res) s
  let f := s.od.fenced.filter fun f => hCtx f.req.handle = x
  let s := { s with od := { s.od with fenced := s.od.fenced.filter fun f => hCtx f.req.handle ≠ x } }
  f.foldl (fun s f => s.endEngine f.req res) s

/-- Clear a context (R271). -/
def State.clearCtx (s : State) (x : Nat) : State :=
  let s := s.modCtx x fun c => { c with gen := (c.gen + 1) % 256, clear := s.clk.course, st := .scrub }
  let s := { s with od := { s.od with part := s.od.part.filter fun e => hCtx e.2.1 ≠ x } }
  s.endCtx x rCleared

/-- Release a context (R258). -/
def State.releaseCtx (s : State) (x : Nat) : State :=
  let s := s.endCtx x rCleared
  let s := { s with od := { s.od with
    part := s.od.part.filter fun e => hCtx e.2.1 ≠ x
    cache := s.od.cache.filter fun e => hCtx e.1 ≠ x } }
  s.modCtx x fun c => { gen := c.gen, clear := c.clear }

/-- Two ranges of slots overlap. -/
def segOverlap (a b : Nat × Nat) : Bool := decide (a.1 < b.1 + b.2) && decide (b.1 < a.1 + a.2)

/-- No two segments of a list overlap. -/
def segsClear : List (Nat × Nat) → Bool
  | [] => true
  | a :: r => (r.all fun b => !segOverlap a b) && segsClear r

/-- The segments are acceptable: inside the store, apart from each other and from every other context (R257). -/
def State.segsOk (s : State) (x : Nat) (segs : List (Nat × Nat)) : Bool :=
  let others := (s.od.ctxs.filter fun e => e.1 ≠ x ∧ e.2.st ≠ .undef).map fun e => e.2.segs
  segsClear segs && (segs.all fun a => decide (a.1 + a.2 ≤ 65536)) &&
    others.flatten.all fun b => segs.all fun a => !segOverlap a b

/-- Define a context (R258). -/
def State.defineCtx (s : State) (x : Nat) (ovf : Bool) (segs : List (Nat × Nat)) : State :=
  s.modCtx x fun c => { gen := c.gen, clear := c.clear, st := .active, ovf := ovf, segs := segs }

/-- Initialise one slot as an object of a context (R258) (log entry 52). -/
def State.initSlot (s : State) (x k kind e : Nat) : State :=
  let s := { s with od := { s.od with part := s.od.part.filter fun p => p.1 ≠ k } }
  s.setSlot k { kind := kind, gen := (s.ctx x).gen, ctx := x, c := if kind = 3 then e - 1 else 0 }

/-- Slots of a context that hold an object of an earlier generation. -/
def State.staleSlots (s : State) (x : Nat) : List Nat :=
  (s.od.slots.filter fun e => e.2.ctx = x ∧ e.2.kind ≠ 0 ∧ e.2.gen ≠ (s.ctx x).gen).map Prod.fst

/-- The scrub of one course, over the contexts in ascending order (R271). -/
def State.scrub (s : State) : State :=
  let rate := max 1 (s.fl OD_CTL 8 8)
  let xs := (s.od.ctxs.filter fun e => e.2.st = .scrub).map Prod.fst
  (xs.foldl (fun acc x =>
    let l := acc.1.staleSlots x
    let k := min acc.2 l.length
    let t := (l.take k).foldl (fun t n => t.refresh n) acc.1
    (if l.length ≤ k then t.modCtx x fun c => { c with st := .active } else t, acc.2 - k)) (s, rate)).1

/-! ### Deadlines and timeouts (R267, R269, R276) -/

/-- A waiting request, issued in a course, whose deadline course is `n` or earlier (R269). -/
def EngReq.overdue (r : EngReq) (course n : Nat) : Bool := r.wait && decide (0 < r.dl) && decide (course + r.dl ≤ n)

/-- Waiting requests that the store still holds before their slot, behind a fence, a translation read or an earlier request
of their tap, end with TIMEOUT in the same way (R269). -/
def State.heldDeadlines (s : State) (n : Nat) : State :=
  let fLate (f : Fenced) : Bool := f.req.overdue f.course n
  let tLate (t : TapReq) : Bool := t.req.overdue t.course n
  let rLate (t : TransRead) : Option EngReq :=
    match t.who with
    | .engine _ r course => if r.overdue course n then some r else none
    | _ => none
  let late := (s.od.fenced.filter fLate).map (fun f => f.req) ++ s.od.reads.filterMap rLate ++
    (s.od.tapQ.filter tLate).map fun t => t.req
  let taps := (s.od.reads.filterMap rLate).map fun r => r.tap
  let s := { s with od := { s.od with
    fenced := s.od.fenced.filter (fun f => !fLate f), reads := s.od.reads.filter (fun t => (rLate t).isNone)
    tapQ := s.od.tapQ.filter fun t => !tLate t } }
  let s := late.foldl (fun s r => s.endEngine r rTimeout) s
  taps.foldl (fun s tap => s.drainTap tap) s

/-- Waiting requests whose deadline course is `n` or earlier end with TIMEOUT; no deadline runs before time is acquired
(R41, R269) (log entry 9). -/
def State.objDeadlines (s : State) (n : Nat) : State :=
  if s.td.acq = false then s
  else
    let s := (s.od.waiters.filter fun w => match w.deadline with | some d => decide (d ≤ n) | none => false).foldl
      (fun s w => s.failWaiter w rTimeout) s
    s.heldDeadlines n

/-- Fenced requests without acknowledgement end, at a boundary with count `t` (R267). -/
def State.fenceTimeouts (s : State) (t : Nat) : State :=
  let late (f : Fenced) : Bool := decide (f.tick + max 1 (s.rd OD_FENCE_TMO) < t)
  let l := s.od.fenced.filter late
  let s := { s with od := { s.od with fenced := s.od.fenced.filter fun f => !late f } }
  l.foldl (fun s f => s.endEngine f.req rTimeout) s

/-- Remote requests without response end with NOROUTE (R276). -/
def State.remoteTimeouts (s : State) (t : Nat) : State :=
  let late (r : RemoteReq) : Bool := decide (r.tick + max 1 (s.rd OD_RMT_TMO) < t)
  let l := s.od.remote.filter late
  let s := { s with od := { s.od with remote := s.od.remote.filter fun r => !late r } }
  l.foldl (fun s r => s.endEngine { tap := r.tap, handle := r.ctx * 65536, rtag := r.rtag } rNoRoute) s

/-! ### The deadlock detector (R275) -/

/-- Something of a context is in flight. -/
def State.ctxBusy (s : State) (x : Nat) : Bool :=
  (s.ctx x).done || (s.od.fenced.any fun f => hCtx f.req.handle = x) || (s.od.remote.any fun r => r.ctx = x) ||
    (s.od.reads.any fun t => hCtx t.key = x) || (s.od.waiters.any fun w => hCtx w.handle = x && w.deadline.isSome)

/-- A context is blocked at this boundary. -/
def State.ctxBlocked (s : State) (x : Nat) : Bool :=
  ((s.od.waiters.any fun w => hCtx w.handle = x) || (s.od.part.any fun e => hCtx e.2.1 = x)) && !s.ctxBusy x

/-- OD_DLK_WIN in force. -/
def State.dlkWin (s : State) : Nat := max 16 (s.rd OD_DLK_WIN)

/-- Blocked items of a context as words of OD_DLK_Wk, oldest first (R275). -/
def State.blockedItems (s : State) (x : Nat) : List Nat :=
  let ws := (s.od.waiters.filter fun w => hCtx w.handle = x).map fun w =>
    (w.ord, 2 ^ 63 + w.op * 2 ^ 48 + w.tap * 2 ^ 42 + w.handle)
  let ps := (s.od.part.filter fun e => hCtx e.2.1 = x).map fun e => (e.2.2, 2 ^ 63 + 2 ^ 62 + e.2.1)
  (sortBy (fun a b => decide (a.1 ≤ b.1)) (ws ++ ps)).map Prod.snd

/-- The judgement of every context at a boundary with count `t` into course `nc` (R275). -/
def State.deadlock (s : State) (t nc : Nat) : State :=
  let s := s.each (s.od.ctxs.map Prod.fst) fun s x =>
    if s.ctxBlocked x then s.modCtx x fun c => { c with blocked := some (c.blocked.getD t) }
    else s.modCtx x fun c => { c with blocked := none, reported := false }
  let due (e : Nat × Ctx) : Bool :=
    match e.2.blocked with
    | some b => decide (b + s.dlkWin ≤ t) && !e.2.reported
    | none => false
  if s.bit OD_CTL 1 = false ∨ s.od.dlk then s
  else
    match s.od.ctxs.find? due with
    | none => s
    | some (x, _) =>
      let items := s.blockedItems x
      let s := s.modCtx x fun c => { c with reported := true }
      State.raise { s with od := { s.od with
        dlk := true, dlkCtx := x, dlkCount := min 4096 items.length, dlkCourse := nc, dlkW := items.take 64 } } 24

/-! ### Lending (R272 to R274) -/

/-- The earliest of some courses. -/
def earliest (l : List Nat) : Option Nat := l.foldl (fun m c => some (match m with | some d => min d c | none => c)) none

/-- The return course of a waiter at a boundary with count `t` into course `nc` (R272). -/
def State.returnCourse (s : State) (w : Waiter) (t nc : Nat) : Option Nat :=
  let base := (match w.deadline with | some d => [d] | none => []) ++ s.tapTargets w.tap
  if base = [] then none
  else
    let dl := match (s.ctx (hCtx w.handle)).blocked with
      | some b => [nc + (b + s.dlkWin - t)]
      | none => []
    earliest (base ++ dl)

/-- At the first boundary after a lending waiter is queued its budget is lent (R272). -/
def State.lendOut (s : State) (t nc : Nat) : State :=
  (s.od.waiters.filter fun w => w.lend ∧ w.tick < t).foldl (fun s w =>
    let s : State := { s with od := { s.od with
      waiters := s.od.waiters.map fun x => if x.id = w.id then { x with lend := false } else x } }
    match s.returnCourse w t nc with
    | none => s
    | some c =>
      if s.bit OD_CTL 2 ∧ nc + s.fl OD_LEND 16 16 ≤ c then
        ((State.emit { s with od := { s.od with
          lends := s.od.lends ++ [({ id := w.id, tap := w.tap, ctx := hCtx w.handle, ret := c } : Lend)] } }
          (.lend w.id w.tap (c % 2 ^ 32))).count OD_CNT_LEND).evt 19
      else s) s

/-- Planned returns, and early returns for a launch armed later, at the boundary into course `nc` (R274). -/
def State.lendReturns (s : State) (nc : Nat) : State :=
  let lead := s.fl OD_LEND 0 16
  s.od.lends.foldl (fun s l =>
    if l.early then s
    else if l.ret ≤ nc + lead then
      State.emit { s with od := { s.od with lends := s.od.lends.filter fun x => x.id ≠ l.id } } (.lendRet l.id false)
    else if (s.tapTargets l.tap).any fun c => decide (c < l.ret) && decide (c ≤ nc + lead) then
      State.emit { s with od := { s.od with
        lends := s.od.lends.map fun x => if x.id = l.id then { x with early := true } else x } } (.lendRet l.id true)
    else s) s

/-- The power manager acknowledges an early return (R274). -/
def State.retAck (s : State) (id : Nat) : State :=
  match s.od.lends.find? fun l => l.id = id ∧ l.early with
  | none => s
  | some l =>
    let s := { s with od := { s.od with lends := s.od.lends.filter fun x => x.id ≠ id } }
    match l.rsp with
    | some (tap, rtag, res, val) => s.emit (.objRsp tap rtag res val)
    | none => s

/-! ### The boundary, the horizon and Underlay mode (R278) -/

/-- The store's work in step 4 of R18 at the boundary ending course `n`, into course `nc`, with boundary count `t`. -/
def State.objBoundary (s : State) (n nc t : Nat) : State :=
  if s.odRuns = false then s
  else
    let s := (((s.scrub).objDeadlines n).fenceTimeouts t).remoteTimeouts t
    let s := s.deadlock t nc
    let s := (s.lendOut t nc).lendReturns nc
    s.each (s.od.ctxs.map Prod.fst) fun s x => s.modCtx x fun c => { c with done := false }

/-- The earliest course at which the store has work, reported to the power controller (R278). -/
def State.objHorizon (s : State) : Option Nat :=
  let now := if s.od.fenced ≠ [] ∨ s.od.remote ≠ [] ∨ s.od.reads ≠ [] ∨ (s.od.ctxs.any fun e => decide (e.2.st = .scrub))
    then [s.clk.course] else []
  let ds := if s.td.acq then s.od.waiters.filterMap fun w => w.deadline else []
  let ls := (s.od.lends.filter fun l => !l.early).map fun l => l.ret - s.fl OD_LEND 0 16
  earliest (now ++ ds ++ ls)

/-- The store stops at entry into Underlay mode (R278) (log entry 41). -/
def State.objStop (s : State) : State :=
  let s := s.od.waiters.foldl (fun s w => s.failWaiter w rDisabled false) s
  let s := s.od.lends.foldl (fun s l =>
    let s := if l.early then s else s.emit (.lendRet l.id true)
    match l.rsp with
    | some (tap, rtag, res, val) => s.emit (.objRsp tap rtag res val)
    | none => s) s
  let held := s.od.fenced.map (fun f => f.req) ++ s.od.tapQ.map (fun t => t.req) ++
    s.od.reads.filterMap fun t => match t.who with | .engine _ r _ => some r | _ => none
  let s := held.foldl (fun s r => s.endEngine r rDisabled) s
  let s := s.od.remote.foldl (fun s r => s.endEngine { tap := r.tap, handle := r.ctx * 65536, rtag := r.rtag } rDisabled) s
  { s with od := { s.od with
    lends := [], fenced := [], tapQ := [], reads := [], remote := [], progRes := none, cmdRes := [], stopped := true } }

/-- Every context UNDEF and every slot Unused (R340, R372) (log entry 20). -/
def State.objReset (s : State) : State :=
  { s with od := { s.od with
    slots := [], ctxs := [], part := [], cache := [], reads := [], tapQ := [], progRes := none, cmdRes := [], stopped := false } }

/-! ### Crossing words that are lost (R196) -/

/-- A lane's first word of a kind is discarded as it arrives, behind the words ahead of it. -/
def State.loseWord (s : State) (n : Nat) (p : DownWord → Bool) : State :=
  if (s.laneWords n).any p then
    let s := s.ahead n p
    if (s.tap n).nextIs p then s.modTap n fun v => { v with wire := v.wire.tail } else s
  else s

/-- Drop the word that was discarded: it is not replayed; a barrier or object word ends its operation with PARITY
(R196, R261) (log entry 49). -/
def State.dropWord (s : State) (n : Nat) (k : LostWord) : State :=
  match k with
  | .arm => s.loseWord n DownWord.isArm
  | .cancel => s.loseWord n DownWord.isCancel
  | .release => s.loseWord n DownWord.isRelease
  | .mark => s.loseWord n DownWord.isMark
  | .fill => s.loseWord n DownWord.isFill
  | .report =>
    match takeFirst (fun (r : LaunchReport) => (s.tapPath r.tap).contains n) s.bt.reports with
    | some (_, rest) => { s with bt := { s.bt with reports := rest } }
    | none => s
  | .arrive r => s.endEngine r rParity
  | .objReq _ r => s.endEngine r rParity
  | .objRsp tap rtag => let q := (s.count OD_CNT_PAR).valueOf none; q.1.emit (.objRsp tap rtag rParity q.2)
  | .unused => s

/-- CROSSING_WORD_BAD (R196). -/
def execCrossingWordBad (n edges : Nat) (k : LostWord) (s : State) : Result :=
  s.atTap n edges fun s => ((s.dropWord n k).count BT_CNT_PAR).contained 0x06

/-! ### The debug view (R256, R280) -/

/-- The lower 64 bits of a slot. -/
def State.slotLo (s : State) (k : Nat) : Nat := (s.slot k).value % 2 ^ 32 + (s.slot k).p % 2 ^ 32 * 2 ^ 32

/-- The upper 64 bits of a slot, with STALE and WAIT formed at the read. -/
def State.slotHi (s : State) (k : Nat) : Nat :=
  let v := s.slot k
  v.c % 2 ^ 32 + v.last % 256 * 2 ^ 32 + v.ctx % 256 * 2 ^ 40 + v.gen % 256 * 2 ^ 48 + bnat v.phase * 2 ^ 56 +
    bnat (s.od.waiters.any fun w => w.slot = k) * 2 ^ 57 + bnat v.drift * 2 ^ 58 + bnat v.full * 2 ^ 59 +
    v.kind % 8 * 2 ^ 60 + bnat (v.gen != (s.ctx v.ctx).gen) * 2 ^ 63

/-- A read of the window at a byte offset within slot `k`: +0 latches the upper half for the master (R280, R406). -/
def State.windowRead (s : State) (m : Master) (k sub : Nat) (wide : Bool) : State × Nat :=
  let hi := match s.od.latch.get m with
    | some (j, v) => if j = k then v else s.slotHi k
    | none => s.slotHi k
  if sub = 0 then
    ({ s with od := { s.od with latch := s.od.latch.put m (some (k, s.slotHi k)) } },
      if wide then s.slotLo k else s.slotLo k % 2 ^ 32)
  else if sub = 4 then (s, s.slotLo k / 2 ^ 32)
  else if sub = 8 then (s, if wide then hi else hi % 2 ^ 32)
  else (s, hi / 2 ^ 32)

/-! ### The commands -/

/-- A request of an engine at an enabled tap of a chain in service: it makes the course busy, and in a sleep it is a
wake event (R259, R345, R349). -/
def State.tapRequest (s : State) (op : Nat) (r : EngReq) : State :=
  if s.isEave ∧ s.tapEn r.tap ∧ s.tapRuns r.tap then
    let s := s.wake 4 r.tap (some (.tap op r))
    if s.up then ((s.busy).openGate 2).engine op r else s
  else s

/-- The commands of an engine. -/
def State.fromTap (s : State) (op : Nat) (r : EngReq) : Result :=
  .next (if s.ck.phase = .running then s.tapRequest op r else s)

/-- PEEK (R260). -/
def execPeek (r : EngReq) (s : State) : Result := s.fromTap 0x01 r
/-- READ (R260). -/
def execRead (r : EngReq) (s : State) : Result := s.fromTap 0x02 r
/-- FILL (R260). -/
def execFill (r : EngReq) (s : State) : Result := s.fromTap 0x03 r
/-- SIGNAL (R260). -/
def execSignal (r : EngReq) (s : State) : Result := s.fromTap 0x04 r
/-- WAITGE (R260). -/
def execWaitge (r : EngReq) (s : State) : Result := s.fromTap 0x05 r
/-- DEC (R260). -/
def execDec (r : EngReq) (s : State) : Result := s.fromTap 0x06 r
/-- WDEC (R260). -/
def execWdec (r : EngReq) (s : State) : Result := s.fromTap 0x07 r
/-- REALIGN (R268). -/
def execRealign (r : EngReq) (s : State) : Result := s.fromTap 0x08 r
/-- ARRIVE (R264), on obj_req or on bar_req. -/
def execArrive (r : EngReq) (s : State) : Result := s.fromTap 0x09 r
/-- SET (R260). -/
def execSet (r : EngReq) (s : State) : Result := s.fromTap 0x0A r

/-- WACK (R265). -/
def execWack (tap tag : Nat) (s : State) : Result :=
  s.main fun s => if s.isEave ∧ s.tapEn tap then s.wack tap tag else s

/-- FENCE_TIMEOUT (R267), at the boundary that ends the running course. -/
def execFenceTimeout (s : State) : Result := s.main fun s => if s.odRuns then s.fenceTimeouts (s.clk.ticks + 1) else s

/-- OBJECT_DEADLINE (R269), at the boundary that ends the running course. -/
def execObjectDeadline (s : State) : Result := s.main fun s => if s.odRuns then s.objDeadlines s.clk.course else s

/-- REMOTE_TIMEOUT (R276), at the boundary that ends the running course. -/
def execRemoteTimeout (s : State) : Result := s.main fun s => if s.odRuns then s.remoteTimeouts (s.clk.ticks + 1) else s

/-- LEND (R272), at the boundary that ends the running course. -/
def execLend (s : State) : Result :=
  s.main fun s => if s.odRuns then s.lendOut (s.clk.ticks + 1) (s.clk.course + 1) else s

/-- LEND_RETURN (R274), at the boundary that ends the running course. -/
def execLendReturn (s : State) : Result := s.main fun s => if s.odRuns then s.lendReturns (s.clk.course + 1) else s

/-- RET_ACK (R274). -/
def execRetAck (id : Nat) (s : State) : Result := s.main fun s => if s.isEave then s.retAck id else s

/-- DEADLOCK_DETECT (R275), at the boundary that ends the running course. -/
def execDeadlockDetect (s : State) : Result :=
  s.main fun s => if s.odRuns then s.deadlock (s.clk.ticks + 1) (s.clk.course + 1) else s

/-- The pipeline's view of OBJ_REQ (R277). -/
def kObjReq : RxKind := { typ := 0x20, need := 38, replayed := true, express := false, courseDep := true }
/-- The pipeline's view of OBJ_RSP (R277). -/
def kObjRsp : RxKind := { typ := 0x21, need := 34, replayed := true, express := false, courseDep := true }

/-- Object messages queued on a port (R318). -/
def objQueued (v : Port) : Nat := (v.cq.filter fun q => q.body.typ = 0x20 || q.body.typ = 0x21).length

/-- A ridge forwards an object message on the child port whose range holds the endpoint, or on its home uplink; a root
without such a child discards it (R276, R318) (log entry 53). -/
def State.objForward (s : State) (dst : Nat) (b : Body) : State :=
  let child := s.portList.find? fun p =>
    let v := s.port p
    decide (v.role = .child) && decide (v.rangeLo ≤ dst) && decide (dst ≤ v.rangeHi)
  let onward := match child with
    | some p => some p
    | none => if s.isRoot then none else s.homeUplink
  match onward with
  | none => s.count TP_CNT_OBJDROP
  | some p =>
    if (s.port p).health.routes = false ∨ max 1 (s.fl TP_QLIM 0 8) ≤ objQueued (s.port p) then s.count TP_CNT_OBJDROP
    else s.xsend p b

/-- OBJ_REQ_RECEIVE (R276). -/
def execObjReqReceive (h : RxHead) (m : ObjReqMsg) (s : State) : Result :=
  s.atPort h.port fun s =>
    let r := s.rxZudar h kObjReq
    if r.ok = false then r.s
    else if r.s.isRidge then r.s.objForward m.dst (.objReq { m with origin := some (h.srcId, h.course) })
    else if m.dst ≠ r.s.ties.idNum then r.s.count OD_CNT_STALE
    else r.s.remoteApply m h.srcId r.course

/-- OBJ_RSP_RECEIVE (R276). -/
def execObjRspReceive (h : RxHead) (m : ObjRspMsg) (s : State) : Result :=
  s.atPort h.port fun s =>
    let r := s.rxZudar h kObjRsp
    if r.ok = false then r.s
    else if r.s.isRidge then r.s.objForward m.dst (.objRsp { m with origin := some (h.srcId, h.course) })
    else
      let tap := m.rtag / 1024
      let tag := m.rtag % 256
      match takeFirst (fun (q : RemoteReq) => decide (q.tap = tap ∧ q.rtag = tag)) r.s.od.remote with
      | some (q, rest) =>
        let s : State := { r.s with od := { r.s.od with remote := rest } }
        let s := if (s.ctx q.ctx).st = .undef then s else s.modCtx q.ctx fun c => { c with done := true }
        s.emit (.objRsp tap tag m.result m.value)
      | none => r.s.count OD_CNT_STALE

end Sys2Proof.Machine
end

