-- ==== Sys2Proof/Machine/Health.lean ====
section
/-! DEFINITION. Sys2Proof/Machine/Health.lean: the health manager: scores, retirement, probation, the expulsion budget,
admission, the firmware watchdog (spec/13_faults.md). -/
namespace Sys2Proof.Machine
open Sys2Proof.Config

/-! ### Settings (R342) -/

/-- HF_SCORE.DECAY in force. -/
def State.decayExp (s : State) : Nat :=
  let d := s.fl HF_SCORE 16 5
  if 16 ≤ d ∧ d ≤ 30 then d else 20
/-- HF_SCORE.RESTORE. -/
def State.restoreThr (s : State) : Nat := s.fl HF_SCORE 8 8
/-- HF_BUDGET.MAX in force. -/
def State.budgetMax (s : State) : Nat := max 1 (min 8 (s.fl HF_BUDGET 0 4))
/-- 2^HF_BUDGET.WIN in force. -/
def State.budgetSpan (s : State) : Nat :=
  let w := s.fl HF_BUDGET 8 5
  2 ^ (if 20 ≤ w ∧ w ≤ 31 then w else 30)
/-- HF_ADMIT.HOLD in force. -/
def State.admitHold (s : State) : Nat := max 1024 (s.rd HF_ADMIT)

/-! ### Changes of state -/

/-- The channels: ports in a tree. -/
def State.channels (s : State) : List Nat := s.portList.filter fun p => decide ((s.port p).health ≠ .noTree)

/-- A channel changes state at the boundary into course `nc`, with a reason (R342). -/
def State.setHealth (s : State) (p : Nat) (h : Health) (reason nc : Nat) : State :=
  s.modPort p fun v => { v with
    health := h, reason := reason, chg := if v.health = h then v.chg else nc % 2 ^ 32, cand := 0, admitAt := none }

/-- Retire a channel (R329): its queues and buffer are emptied, its clock is withdrawn, and a path fault is raised
unless the loss of its keepalive has raised it (R324).  Retiring the port ends its mismatch state (R26). -/
def State.retire (s : State) (p reason nc : Nat) : State :=
  let was := (s.port p).health
  let s := (s.setHealth p .retired reason nc).flushPort p
  let s := (s.modPort p fun v => { v with cmdRetire := false, cmdLive := false, mmId := false, mmRole := false }).dropExch p
  let s := (((s.count HF_CNT_RETIRE).raise 11).evt 29).withdrawClock p
  if (was.routes ∨ was = .admitting) ∧ reason ≠ 3 then s.pathFault p else s

/-- A channel becomes live: pending moves and held logs are sent again (R303, R328, R333). -/
def State.makeLive (s : State) (p nc : Nat) : State :=
  let out := (s.port p).health = .admitting
  let s := (s.setHealth p .live 0 nc).count HF_CNT_RESTORE
  if out then (s.resendMoves [p]).sendHeldLogs else s

/-- A channel goes on probation (R325). -/
def State.probation (s : State) (p reason nc : Nat) : State :=
  let s := if (s.port p).health = .probation then s else s.count HF_CNT_PROB
  (s.setHealth p .probation reason nc).raise 10

/-- Admission of a retired channel starts: its score is 0 and its link numbers restart (R331 to R333)
(log entry 40). -/
def State.startAdmission (s : State) (p : Nat) : State :=
  let s := s.setHealth p .admitting (s.port p).reason s.clk.course
  (((s.flushPort p).restartLink p).modPort p fun v => { v with score := 0, kaTick := none, lossDecl := false }).dropExch p

/-- No other uplink of the port's role and domain is live (R326). -/
def State.lastUplink (s : State) (p : Nat) : Bool :=
  let v := s.port p
  v.role.isLower && s.portList.all fun q =>
    let w := s.port q
    decide (q = p) || decide (w.role ≠ v.role) || decide (w.dom ≠ v.dom) || decide (w.health ≠ .live)

/-- The retirements counted within the window at the boundary into course `nc` (R327). -/
def State.inWindow (s : State) (nc : Nat) : List RetRec := s.hf.rets.filter fun r => decide (nc < r.course + s.budgetSpan)

/-- The budget is spent (R327). -/
def State.budgetSpent (s : State) (nc : Nat) : Bool := decide (s.budgetMax ≤ (s.inWindow nc).length)

/-- A candidate is judged by the first row of R325 that holds. -/
def State.judge (s : State) (p reason nc : Nat) : State :=
  if s.lastUplink p then
    State.probation { s with hf := { s.hf with alarmLast := true } } p 6 nc
  else if s.isRidge ∧ s.bit HF_CTL 0 ∧ s.budgetSpent nc then
    State.probation { s with hf := { s.hf with alarmBudget := true } } p 5 nc
  else
    let score := (s.port p).score
    let s := s.retire p reason nc
    if s.isRidge then
      let l := s.hf.rets ++ [(⟨nc, reason, score, p⟩ : RetRec)]
      { s with hf := { s.hf with rets := l.drop (l.length - 8) } }
    else s

/-! ### The boundary (R325) -/

/-- Step 1: the decay of R323 at the boundary into course `nc`; a decay that is due opens the gate of the health manager
(R175, R177) (log entries 3 and 9). -/
def State.decay (s : State) (nc : Nat) : State :=
  if nc % 2 ^ s.decayExp = 0 ∧ s.did.decay = false then
    let s := s.openGate 5
    let s := s.each s.channels fun s p => s.modPort p fun v => { v with score := v.score / 2 }
    { s with hf := { s.hf with score := s.hf.score / 2 }, did := { s.did with decay := true } }
  else s

/-- Records that have left the window are dropped (R327). -/
def State.expireRecords (s : State) (nc : Nat) : State := { s with hf := { s.hf with rets := s.inWindow nc } }

/-- Commanded changes (R331, R341). -/
def State.healthCommands (s : State) (nc : Nat) : State :=
  s.each s.channels fun s p =>
    let v := s.port p
    if v.cmdRetire then
      if v.health = .retired then s.modPort p fun v => { v with cmdRetire := false } else s.retire p 4 nc
    else if v.cmdLive then
      let s := s.modPort p fun v => { v with cmdLive := false }
      if v.health = .probation then s.makeLive p nc else s
    else s

/-- The admission hold may run: no mismatch, a KEEPALIVE within 8 courses, showing ACQ and LOCKED (R333)
(log entry 40). -/
def State.holdRuns (s : State) (p t : Nat) : Bool :=
  let v := s.port p
  !v.mismatch && (match v.kaTick with | some k => decide (t ≤ k + 9) | none => false) &&
    bitOf v.kaStatus 7 && bitOf v.kaStatus 6

/-- Step 2 for one admitting channel, at a boundary with count `t` (R333, R341) (log entries 8 and 40). -/
def State.admission (s : State) (p t nc : Nat) : State :=
  let v := s.port p
  if v.health ≠ .admitting ∨ v.lossDecl then s
  else if s.holdRuns p t = false then s.modPort p fun v => { v with admitAt := none }
  else
    match v.admitAt with
    | some a => if a + s.admitHold < t then s.makeLive p nc else s
    | none => s

/-- Step 3: LOST candidates (R324, R325). -/
def State.retireLost (s : State) (nc : Nat) : State :=
  s.each s.channels fun s p =>
    let v := s.port p
    if v.lossDecl ∧ v.health ≠ .retired then s.retire p 3 nc else s

/-- The order of step 4: FAIL3 before SCORE, the higher score first, then the lower port. -/
def candBefore (s : State) (p q : Nat) : Bool :=
  let a := s.port p
  let b := s.port q
  if a.cand ≠ b.cand then decide (b.cand < a.cand)
  else if a.score ≠ b.score then decide (b.score < a.score)
  else decide (p ≤ q)

/-- Step 4: the remaining candidates (R325) (log entry 40). -/
def State.judgeAll (s : State) (nc : Nat) : State :=
  let l := s.channels.filter fun p => decide ((s.port p).cand ≠ 0) && decide ((s.port p).health = .live)
  s.each (sortBy (candBefore s) l) fun s p =>
    if (s.port p).health = .live then s.judge p (s.port p).cand nc else s

/-- Step 5 for one channel that was on probation before the boundary (R328) (log entry 40). -/
def State.probationExit (s : State) (p nc : Nat) : State :=
  let v := s.port p
  let fr := v.rpl.failRun
  if v.health ≠ .probation then s
  else if v.score < s.restoreThr ∧ fr = 0 then s.makeLive p nc
  else if s.retireThr ≤ v.score ∨ 3 ≤ fr then
    let holds := if v.reason = 6 then s.lastUplink p else if v.reason = 5 then s.budgetSpent nc else false
    if holds then s else s.judge p (if 3 ≤ fr then 2 else 1) nc
  else s

/-- Step 2 of R18: the health manager at the boundary into course `nc`, with boundary count `t` (R325)
(log entry 40). -/
def State.healthBoundary (s : State) (nc t : Nat) : State :=
  let s := ((s.decay nc).expireRecords nc).healthCommands nc
  let s := s.each s.channels fun s p => s.admission p t nc
  let s := s.retireLost nc
  let prob := s.channels.filter fun p => decide ((s.port p).health = .probation)
  let s := s.judgeAll nc
  let s := s.each prob fun s p => s.probationExit p nc
  s.each s.channels fun s p => s.modPort p fun v => { v with cand := 0 }

/-! ### Keepalive loss (R105, R302, R324) -/

/-- Keepalive loss is declared: counted, reported, and the path fault is raised at once. -/
def State.keepaliveLost (s : State) (p : Nat) : State :=
  let v := s.port p
  let s := s.setPort p { v with lossDecl := true }
  if v.health = .noTree ∨ v.health = .retired then s
  else
    ((s.count HF_CNT_LOST).evt 28).pathFault p

/-- 24 courses have passed since the last valid KEEPALIVE, at boundary count `t` (R105). -/
def State.lossDue (s : State) (p t : Nat) : Bool :=
  let v := s.port p
  s.enabled p && !v.lossDecl && match v.kaTick with
    | some k => decide (k + 24 ≤ t)
    | none => false

/-! ### Commands on channels (R331) -/

/-- port.retire: none when the state does not permit it. -/
def State.cmdPortRetire (s : State) (p : Nat) (force : Bool) : Option State :=
  let v := s.port p
  if v.health = .retired ∨ v.health = .noTree then none
  else if force = false ∧ v.health = .live ∧ s.lastUplink p then none
  else some (s.modPort p fun v => { v with cmdRetire := true })

/-- port.restore. -/
def State.cmdPortRestore (s : State) (p : Nat) : Option State :=
  match (s.port p).health with
  | .probation => some (s.modPort p fun v => { v with score := 0, cmdLive := true })
  | .retired => some (s.startAdmission p)
  | _ => none

/-- port.spare_admit. -/
def State.cmdPortSpare (s : State) (p id : Nat) : Option State :=
  if (s.port p).health = .retired then some ((s.modPort p fun v => { v with peerExp := id }).startAdmission p) else none

/-! ### The watchdog (R336) -/

/-- A write of HF_WDOG_KICK by a master (R336) (log entry 21). -/
def State.kick (s : State) (m : Master) (v : Nat) : State :=
  if m = .cp ∧ bitOf v 0 then
    { s with hf := { s.hf with kicked := true, wdog := s.hf.wdog.map fun _ => 0 } }
  else s

/-- The watchdog runs out at the end of the running course (R336). -/
def State.wdogDue (s : State) : Bool :=
  match s.hf.wdog with
  | some k => decide (s.rd HF_WDOG_CFG ≠ 0) && decide (s.rd HF_WDOG_CFG ≤ k + 1) && decide (s.pw.st = .active)
  | none => false

/-- Expiry of the watchdog (R336, R337) (log entry 21). -/
def State.wdogExpire (s : State) : State :=
  (({ s with hf := { s.hf with wdog := none } } : State).count HF_CNT_WDOG).underlayCause 4 0

/-- The watchdog at a boundary: it counts only courses in which the block is Active (log entry 21). -/
def State.wdogBoundary (s : State) : State :=
  if s.wdogDue then s.wdogExpire
  else if s.pw.st = .active then { s with hf := { s.hf with wdog := s.hf.wdog.map (· + 1) } }
  else s

/-! ### The commands -/

/-- KEEPALIVE_LOSS (R105). -/
def execKeepaliveLoss (p : Nat) (s : State) : Result :=
  s.atPort p fun s => if s.lossDue p s.clk.ticks then s.keepaliveLost p else s

/-- SCORE_DECAY (R323), at the boundary that ends the running course. -/
def execScoreDecay (s : State) : Result := s.main fun s => s.decay (s.clk.course + 1)

/-- BUDGET_RECORD_EXPIRY (R327), at the boundary that ends the running course. -/
def execBudgetRecordExpiry (s : State) : Result := s.main fun s => s.expireRecords (s.clk.course + 1)

/-- ADMISSION_COMPLETE (R333), at the boundary that ends the running course. -/
def execAdmissionComplete (p : Nat) (s : State) : Result :=
  s.atPort p fun s => s.admission p (s.clk.ticks + 1) (s.clk.course + 1)

/-- WATCHDOG_EXPIRY (R336), at the end of the running course. -/
def execWatchdogExpiry (s : State) : Result := s.main fun s => if s.wdogDue then s.wdogExpire else s

/-- HF_UL_CTL (R337, R340): ENTER is a cause; EXIT is accepted with the logic PLL locked and a kick by the firmware
(log entry 41). -/
def State.ulControl (s : State) (v : Nat) : State :=
  let s := if bitOf v 1 then s.underlayCause 6 0 else s
  if bitOf v 0 ∧ s.hf.active ∧ s.ck.lLock ∧ s.hf.kicked then { s with hf := { s.hf with exitAcc := true } } else s

end Sys2Proof.Machine
end

