-- ==== Sys2Proof/Machine/Refs.lean ====
section
/-! DEFINITION. Sys2Proof/Machine/Refs.lean: the reference selector: candidates, their tests and states, selection,
the reference time of a root ridge, the holdover model and the time-error estimate (spec/05_references.md). -/
namespace Sys2Proof.Machine
open Sys2Proof.Config

/-! ### Candidates (R131 to R133) -/

/-- RS_CANDn_CFG.EN. -/
def State.candEn (s : State) (n : Nat) : Bool := s.bit (RS_CANDn_CFG n) 4
/-- RS_CANDn_CFG.PRIO. -/
def State.candPrio (s : State) (n : Nat) : Nat := s.fl (RS_CANDn_CFG n) 0 4
/-- The role provides the slot (R131, R132). -/
def State.candPresent (s : State) (n : Nat) : Bool :=
  if n ≤ 5 then s.isRoot else if n ≤ 9 then (s.slotPort n).isSome else decide (n = 10)

/-- The candidate serves a domain (R131). -/
def State.candServes (s : State) (n : Nat) (d : Dom) : Bool :=
  if n ≤ 5 then decide (Dom.ofBit (s.bit (RS_CANDn_CFG n) 8) = d)
  else if n ≤ 9 then
    if s.isEave then decide ((n = 6 ∧ d = .a) ∨ (n = 7 ∧ d = .b))
    else match s.slotPort n with
      | some p => decide ((s.port p).dom = d)
      | none => false
  else decide (n = 10)

/-- A REFIN runs at 25 MHz. -/
def State.refFast (s : State) (n : Nat) : Bool := decide (s.fl (RS_CANDn_CFG n) 6 2 = 1)
/-- The period of a frequency candidate in 1/5 of 2^-16 ns. -/
def State.candPeriod (s : State) (n : Nat) : Int :=
  if n ≤ 3 then (if s.refFast n then 13107200 else 32768000) else 2097152
/-- Edges of a REFIN in one second. -/
def State.refPerSec (s : State) (n : Nat) : Nat := if s.refFast n then 25000000 else 10000000

/-- RS_CANDn_DELAY. -/
def State.candDelay (s : State) (n : Nat) : Int := toSigned 32 (s.rd (RS_CANDn_DELAY n))

/-- RS_QUAL.QUAL_SEC in courses. -/
def State.qualCourses (s : State) : Nat := max 1 (s.fl RS_QUAL 24 8) * 1000000
/-- RS_WIN.WTR in courses. -/
def State.wtrCourses (s : State) : Nat := s.fl RS_WIN 16 16 * 1000000

/-- The frequency candidates. -/
def freqCands : List Nat := [0, 1, 2, 3, 6, 7, 8, 9]

/-- A difference of phases reduced to the range from minus half a period to half a period (R134) (log entry 33). -/
def wrapPhase (period d : Int) : Int :=
  let m := d % period
  if period < 2 * m then m - period else m

/-- The drift over a history of accumulated phases, and the number of courses it spans. -/
def drift (h : List Int) : Int × Nat :=
  match h with
  | a :: _ => (a - h.getLastD a, h.length - 1)
  | [] => (0, 0)

/-- The frequency that a drift shows, in 2^-48: edges that come later belong to a slower clock. -/
def driftRate (h : List Int) : Int :=
  let d := drift h
  if d.2 = 0 then 0 else roundDiv (-(d.1) * 281474976710656) (d.2 * 327680000)

/-- A jump is counted for a candidate that is not OFF or LOST (R134). -/
def State.candJump (s : State) (n : Nat) : State :=
  let c := s.cand n
  if c.st = .off ∨ c.st = .lost then s
  else (s.setCand n { c with jumps := min 65535 (c.jumps + 1), fail := true }).count RS_CNT_JUMP

/-- The front end of a port times its recovered clock with its receive converter: the port is enabled with RCLK_EN = 1 (R81,
R213, R215) (log entry 59). -/
def State.rclkTimed (s : State) (p : Nat) : Bool := s.enabled p && s.bit (PF_CTL p) 4 && s.convTimes (convRx p)

/-- The course just ended had a recovered-clock edge at a port (R81): PF_RCLK.FREQ over the last 1,024 courses. -/
def State.portClock (s : State) (p : Nat) (fifths : Int) : State :=
  s.modPort p fun v =>
    let phi := (5 * toUnits fifths) % 2097152
    let hist := match v.rclkPhi with
      | some q => ((v.rclkHist.headD 0 + wrapPhase 2097152 (phi - q)) :: v.rclkHist).take 1025
      | none => [0]
    { v with rclkPhi := some phi, rclkHist := hist, rclk := driftRate hist }

/-- The per-course timing of the recovered clocks over the course just ended, at every port that times one (R81)
(log entry 33). -/
def State.portTiming (s : State) : State :=
  let quiet := s.portList.filter fun p => (s.im.rclk.all fun e => e.1 ≠ p) && (s.port p).rclkPhi.isSome
  let s := s.each quiet fun s p => s.modPort p fun v => { v with rclkPhi := none, rclkHist := [] }
  s.im.rclk.foldl (fun s e => s.portClock e.1 e.2) s

/-- The uplink behind a candidate offers its clock: RCLK_EN, rclk_ok, port_up, live (R81, R137). -/
def State.clockOffered (s : State) (n : Nat) : Bool :=
  if n ≤ 3 then s.pinTimed (8 + n)
  else match s.slotPort n with
    | some p => s.rclkTimed p && (s.port p).rclkOk && (s.port p).up && (s.port p).health.routes
    | none => false

/-- The frequency of a candidate in 2^-48 (R135): that of its own history, for an uplink PF_RCLK.FREQ × 256, with R_out
added. -/
def State.candFreq (s : State) (n : Nat) (hist : List Int) : Int :=
  (match (if 6 ≤ n then s.slotPort n else none) with
    | some p => (s.port p).rclk / 256 * 256
    | none => driftRate hist) + s.td.rOut

/-- The course just ended had an edge of a frequency candidate, timed at an exact time in 1/5 of 2^-16 ns (R133 to R135)
(log entry 33). -/
def State.candEdge (s : State) (n : Nat) (fifths : Int) (edges : Nat) : State :=
  let c := s.cand n
  let stamp := toUnits fifths - (if n ≤ 3 then s.candDelay n + s.padOf (8 + n) else 0)
  let per := s.candPeriod n
  let phi := (5 * stamp) % per
  let inc := match c.phi with
    | some q => wrapPhase per (phi - q)
    | none => 0
  let dr := drift c.hist
  let k := max 1 dr.2
  let jumped := c.phi.isSome && decide ((s.fl RS_QUAL 0 16 : Int) * 65536 * 5 * k < 1000 * mag (inc * k - dr.1))
  let hist := if c.phi.isSome then ((c.hist.headD 0 + inc) :: c.hist).take 1025 else [0]
  let s := s.setCand n { c with
    hist := hist, phi := some phi, edge := some stamp, edges := c.edges + edges, idx := c.edges + 1
    run := if c.st = .lost then c.run + 1 else c.run, freq := s.candFreq n hist }
  if jumped then s.candJump n else s

/-- The course just ended had no edge of a frequency candidate (log entry 33). -/
def State.candNoEdge (s : State) (n : Nat) : State :=
  s.setCand n { s.cand n with phi := none, hist := [], run := 0, loss := true }

/-- The first edge of a frequency candidate in the course just ended, and how many edges the course had (R133). -/
def State.edgeOf (s : State) (n : Nat) (refs : List RefEdge) : Option (Int × Nat) :=
  if n ≤ 3 then (refs.find? fun r => r.cand = n).map fun r => (s.edgeFifths r.edge, r.count)
  else (s.slotPort n).bind fun p => (s.im.rclk.find? fun e => e.1 = p).map fun e => (e.2, 1)

/-- The per-course timing of the frequency candidates over the course just ended (R133, R134) (log entry 33). -/
def State.candTiming (s : State) (refs : List RefEdge) : State :=
  s.each freqCands fun s n =>
    if s.candPresent n && s.candEn n then
      match s.edgeOf n refs with
      | some (t, k) => if s.clockOffered n then s.candEdge n t k else s.candNoEdge n
      | none => s.candNoEdge n
    else s

/-! ### States (R137) -/

/-- The candidate enters a state at a boundary with count `t`. -/
def State.candGo (s : State) (n : Nat) (st : CandState) (t : Nat) : State :=
  let c := s.cand n
  let s := if st = .lost ∧ c.st ≠ .off ∧ c.st ≠ .lost then s.count RS_CNT_LOSS else s
  s.setCand n { c with st := st, since := t, run := 0 }

/-- The frequency test of R135, over 1,024 measured courses (log entry 33). -/
def State.freqFails (s : State) (n : Nat) : Bool :=
  let hist := match (if 6 ≤ n then s.slotPort n else none) with
    | some p => (s.port p).rclkHist
    | none => (s.cand n).hist
  decide (1024 ≤ (drift hist).2) &&
    decide (s.fl RS_QUAL 16 8 * 281474976710656 < mag (s.cand n).freq * 10000000)

/-- QL-DNU disqualifies an uplink candidate (R160). -/
def State.dnuHolds (s : State) (n : Nat) : Bool := s.bit RS_CTL 1 && (s.cand n).dnu

/-- QUAL_SEC has passed in DISQ, or in QUALIFYING with no failure, at a boundary with count `t` (R137) (log entries 8
and 33). -/
def State.candTimer (s : State) (n t : Nat) : State :=
  let c := s.cand n
  if c.loss ∨ s.dnuHolds n ∨ t < c.since + s.qualCourses then s
  else if c.st = .disq then s.candGo n .qualifying t
  else if c.st = .qualifying ∧ c.fail = false then s.candGo n .qualified t
  else s

/-- The tests of R135 and R160, and what a failure does, for a candidate under observation or qualified. -/
def State.candTests (s : State) (n t : Nat) : State :=
  let c := s.cand n
  if c.st = .qualifying ∨ c.st = .qualified then
    let ff := decide (n ∉ [4, 5]) && s.freqFails n
    let s := if ff then s.count RS_CNT_FREQ else s
    if c.fail ∨ ff ∨ s.dnuHolds n then s.candGo n .disq t else s
  else s

/-- One candidate at a boundary with count `t` (R137) (log entry 33). -/
def State.candMove (s : State) (n t : Nat) : State :=
  let c := s.cand n
  let s := if s.candPresent n = false ∨ s.candEn n = false then
      (if c.st = .off then s else s.candGo n .off t)
    else if c.st = .off then s.candGo n .lost t
    else if c.loss then (if c.st = .lost then s else s.candGo n .lost t)
    else if c.st = .lost then
      (if (if n = 4 ∨ n = 5 then 3 else 16) ≤ c.run then s.candGo n .qualifying t else s)
    else
      let s := s.candTests n t
      if (s.cand n).st = c.st then s.candTimer n t else s
  s.setCand n { s.cand n with fail := false, loss := false }

/-- The local oscillator (R137, R167). -/
def State.oscMove (s : State) (t : Nat) : State :=
  let st : CandState := if s.candEn 10 = false then .off else if s.oscReport then .qualified else .lost
  if (s.cand 10).st = st then s else s.candGo 10 st t

/-- A PPSIN has had no edge for 2,000,000 courses at a boundary with count `t` (R136) (log entry 34). -/
def State.ppsSilent (s : State) (n t : Nat) : Bool :=
  decide (((s.cand n).ppsTick.getD (s.cand n).since) + 2000000 < t)

/-- A PPSIN without an edge for 2,000,000 courses is LOST. -/
def State.ppsLoss (s : State) (n t : Nat) : State :=
  if (s.cand n).st ≠ .off ∧ s.ppsSilent n t then s.setCand n { s.cand n with loss := true, run := 0 } else s

/-- Every candidate at a boundary with count `t` (log entry 33). -/
def State.candBoundary (s : State) (t : Nat) : State :=
  let s := (s.ppsLoss 4 t).ppsLoss 5 t
  (s.each [0, 1, 2, 3, 4, 5, 6, 7, 8, 9] fun s n => s.candMove n t).oscMove t

/-- A change of configuration other than PRIO returns a candidate to LOST (R139). -/
def State.candReconfigure (s : State) (n : Nat) : State :=
  let c := s.cand n
  if c.st = .off ∨ n = 10 then s
  else (s.candGo n .lost s.clk.ticks).setCand n
    { (s.candGo n .lost s.clk.ticks).cand n with phi := none, hist := [] }

/-- A register write of RS_CANDn_CFG (R139). -/
def State.candCfgWrite (s : State) (n v : Nat) : State :=
  let old := s.rd (RS_CANDn_CFG n)
  let s := s.wr (RS_CANDn_CFG n) v
  if old / 16 = s.rd (RS_CANDn_CFG n) / 16 then s else s.candReconfigure n

/-- A register write of RS_CANDn_DELAY (R139). -/
def State.candDelayWrite (s : State) (n v : Nat) : State :=
  let old := s.rd (RS_CANDn_DELAY n)
  let s := s.wr (RS_CANDn_DELAY n) v
  if old = s.rd (RS_CANDn_DELAY n) then s else s.candReconfigure n

/-! ### Selection (R138, R139) -/

/-- The order of frequency sources: the local oscillator last, then PRIO, then the index. -/
def State.candBefore (s : State) (i j : Nat) : Bool :=
  if (i = 10) ≠ (j = 10) then decide (j = 10)
  else if s.candPrio i ≠ s.candPrio j then decide (s.candPrio i < s.candPrio j)
  else decide (i ≤ j)

/-- The QUALIFIED frequency candidates that serve a domain, best first. -/
def State.freqOrder (s : State) (d : Dom) : List Nat :=
  sortBy s.candBefore ((freqCands ++ [10]).filter fun n => decide ((s.cand n).st = CandState.qualified) && s.candServes n d &&
    (decide (n = 10) || decide (s.candPrio n ≠ 15)))

/-- The REFIN paired with a PPSIN. -/
def State.pairOf (s : State) (n : Nat) : Nat :=
  let q := s.fl (RS_CANDn_CFG n) 9 3
  if q ≤ 3 then q else 0

/-- The PPSINs that may be the time source of a root ridge, best first. -/
def State.timeOrder (s : State) (d : Dom) : List Nat :=
  if s.isRoot ∧ d = s.home then
    sortBy s.candBefore ([4, 5].filter fun n => decide ((s.cand n).st = CandState.qualified) && s.candServes n d &&
      decide (s.candPrio n ≠ 15) && decide ((s.cand (s.pairOf n)).st = CandState.qualified) && decide (s.candPrio (s.pairOf n) ≠ 15))
  else []

/-- The source that R139 keeps or takes from an order of candidates, at a boundary with count `t`.  R138 takes the local
oscillator only when nothing else qualifies, and R139 keeps a current source that is QUALIFIED: the model keeps the oscillator as
the current source by R139 as it keeps any other (log entry 33). -/
def State.choose (s : State) (order : List Nat) (cur t : Nat) : Nat :=
  if cur ∈ order then
    if s.bit RS_CTL 0 then
      ((order.takeWhile fun n => n ≠ cur).find? fun n => decide ((s.cand n).since + s.wtrCourses ≤ t)).getD cur
    else cur
  else order.headD 15

/-- Selection for a domain at a boundary with count `t`; one change is counted (R138, R139, R162). -/
def State.select (s : State) (d : Dom) (t : Nat) : State :=
  let v := s.servo d
  let ts := s.choose (s.timeOrder d) v.timeSrc t
  let fs := if ts ≠ 15 then s.pairOf ts else s.choose (s.freqOrder d) v.freqSrc t
  if ts = v.timeSrc ∧ fs = v.freqSrc then s
  else ((s.setServo d { v with timeSrc := ts, freqSrc := fs }).count RS_CNT_SEL).raise 9

/-- A better candidate displaces the source that is still QUALIFIED, once it has been QUALIFIED for WTR seconds
(R139). -/
def State.wtrExpiry (s : State) (d : Dom) (t : Nat) : State :=
  let v := s.servo d
  let cur := if v.timeSrc ≠ 15 then v.timeSrc else v.freqSrc
  let order := if v.timeSrc ≠ 15 then s.timeOrder d else s.freqOrder d
  if cur ∈ order then s.select d t else s

/-! ### The reference time of a root ridge (R136, R140, R141) -/

/-- The reference time in 2^-16 ns at the REFIN edge of a count. -/
def State.refTime (s : State) (pps ref idx : Nat) : Option Int :=
  (s.rs.anchors.look pps).map fun a =>
    ((a.sec * 1000000000 : Nat) + ((idx : Int) - a.base) * (if s.refFast ref then 40 else 100)) * 65536

/-- The value of R141 for a pair, before build-out. -/
def State.thetaOf (s : State) (pps ref : Nat) : Option Int :=
  match (s.cand ref).edge with
  | some st => (s.refTime pps ref (s.cand ref).idx).map fun r => r - st
  | none => none

/-- The pair that a root's time source names. -/
def State.pairNow (s : State) (d : Dom) : Option (Nat × Nat) :=
  let ts := (s.servo d).timeSrc
  if ts = 15 then none else some (ts, s.pairOf ts)

/-- A root has references: a time source is selected and its anchor exists. -/
def State.refLive (s : State) (d : Dom) : Bool :=
  match s.pairNow d with
  | some (p, r) => (s.thetaOf p r).isSome
  | none => false

/-- The whole second nearest to the reference time at an edge whose REFIN count is `k`: the second of the first anchor of a pair,
from the anchor of the other (log entry 34). -/
def State.nearestSec (s : State) (ref : Nat) (a : Anchor) (k : Nat) : Nat :=
  let per := s.refPerSec ref
  ((a.sec : Int) + (2 * ((k : Int) - a.base) + per) / (2 * (per : Int))).toNat

/-- A new anchor of a pair (R140). -/
def State.setAnchor (s : State) (n : Nat) (a : Anchor) : State :=
  { s with rs := { s.rs with anchors := s.rs.anchors.insert n a, epochSec := a.sec } }

/-- RS_EPOCH: the seconds of the anchor of the time source, or of the last anchor formed without one (R140) (log entry 34). -/
def State.epochShown (s : State) : Nat :=
  match s.rs.anchors.look (s.servo s.home).timeSrc with
  | some a => a.sec
  | none => s.rs.epochSec

/-- The distance of the reference time at an edge of a PPSIN with a stamp from a whole second, in 2^-16 ns: from the last REFIN
edge and the stamps, or from the count of edges alone (R136). -/
def State.ppsOff (s : State) (ref : Nat) (a : Anchor) (stamp : Int) (k : Nat) : Int :=
  let per : Int := if s.refFast ref then 40 else 100
  let off : Int := match (s.cand ref).edge with
    | some st => ((((s.cand ref).idx : Int) - a.base) * per * 65536 + (stamp - st))
    | none => ((k : Int) - a.base) * per * 65536
  off - ((off + 32768000000000) / 65536000000000) * 65536000000000

/-- The coherence test at an edge of a PPSIN that has an anchor (R136). -/
def State.ppsCoherence (s : State) (n ref : Nat) (stamp : Int) (k : Nat) : State :=
  match s.rs.anchors.look n with
  | some a =>
    if overPs (mag (s.ppsOff ref a stamp k)) (s.fl RS_WIN 0 16) then
      (s.setCand n { s.cand n with fail := true }).count RS_CNT_PPS
    else s
  | none => s

/-- An edge of a PPSIN at a root ridge (R136, R137, R140): `before` edges of the paired REFIN have come in the running
course (log entry 34). -/
def State.ppsEdge (s : State) (n : Nat) (e : Edge) (before : Nat) : State :=
  let s := if n = 4 ∨ n = 5 then s.clkoutPulse (6 + n) else s
  if s.candPresent n = false ∨ s.candEn n = false ∨ (n ≠ 4 ∧ n ≠ 5) ∨ s.pinTimed (8 + n) = false then s
  else
    let s := s.atCyc e.cyc
    let c := s.cand n
    let ref := s.pairOf n
    let stamp := toUnits (s.edgeFifths e) - s.candDelay n - s.padOf (8 + n)
    let now := s.clk.ticks
    let good := match c.ppsTick with
      | some k => decide (k + 999000 ≤ now) && decide (now ≤ k + 1001000)
      | none => false
    let k := (s.cand ref).edges + before
    let s := s.setCand n { c with
      ppsTick := some now, edge := some stamp, run := if c.st = CandState.lost ∧ good = true then c.run + 1 else 0 }
    let s := s.ppsCoherence n ref stamp k
    match s.rs.epoch, s.rs.anchors.look n with
    | some sec, _ => { s with rs := { s.rs with epoch := none, anchors := [(n, ⟨sec, stamp, k⟩)], epochSec := sec } }
    | none, some a => s.setAnchor n ⟨a.sec + 1, stamp, k⟩
    | none, none =>
      match s.rs.anchors with
      | (m, a) :: _ => s.setAnchor n ⟨s.nearestSec (s.pairOf m) a ((s.cand (s.pairOf m)).edges), stamp, k⟩
      | [] => s

/-- When an edge is missing the anchor advances by counting REFIN edges (R140). -/
def State.advanceAnchors (s : State) : State :=
  s.each [4, 5] fun s n =>
    match s.rs.anchors.look n with
    | some a =>
      let per := s.refPerSec (s.pairOf n)
      if 2 * a.base + 3 * per ≤ 2 * (s.cand (s.pairOf n)).edges then
        s.setAnchor n { a with sec := a.sec + 1, base := a.base + per }
      else s
    | none => s

/-! ### The oscillator model and the estimate (R147 to R157) -/

/-- RS_HO_CFG.HO_AVG in force. -/
def State.hoAvg (s : State) : Nat := 2 ^ min 10 (s.fl RS_HO_CFG 4 4)

/-- A source that syntonises holdover: a QUALIFIED uplink, or at a root ridge a REFIN (R153) (log entry 60). -/
def State.syntonises (s : State) (n : Nat) : Bool :=
  ((decide (6 ≤ n) && decide (n ≤ 9)) || (decide (n ≤ 3) && s.isRoot)) && decide ((s.cand n).st = CandState.qualified)

/-- Entry into holdover at the boundary into course `nc` (R147, R153) (log entry 60). -/
def State.enterHold (s : State) (d : Dom) (nc : Nat) : State :=
  let v := s.servo d
  let l := v.fLast.take s.hoAvg
  let f0 := if l = [] then v.f else roundDiv l.sum l.length
  let sy := s.syntonises v.freqSrc
  let s := s.raiseIf (v.locked && decide (d = s.td.sel) && s.td.acq) 7
  let s := s.setServo d { v with
    st := .hold, locked := false, lockRun := 0, unlockRun := 0, freqPts := []
    entry := nc, f0 := f0, te0 := v.te, t0 := s.rs.temp, model := nc, teAcc := v.te * 65536, teRem := 0
    synt := sy, syntSrc := if sy then v.freqSrc else 15, syntF := if sy then (s.cand v.freqSrc).freq else 0 }
  (s.count RS_CNT_HOLD).raise 4

/-- F_hold (R149, R153) at the boundary into course `nc`. -/
def State.fHold (s : State) (d : Dom) (nc : Nat) : Int :=
  let v := s.servo d
  if v.synt then clamp40 (v.f0 + (s.cand v.syntSrc).freq - v.syntF)
  else
    let t : Int := (nc : Int) - v.model
    let tq := toSigned 16 (s.rd RS_TQ)
    let num := toSigned 32 (s.rd RS_AGE) * t * 65536
      + toSigned 32 (s.rd RS_TCOMP1) * (s.rs.temp - v.t0) * 256 * 86400000000
      + toSigned 32 (s.rd RS_TCOMP2) * ((s.rs.temp - tq) ^ 2 - (v.t0 - tq) ^ 2) * 86400000000
    clamp40 (roundDiv (v.f0 * (86400000000 * 65536) + num) (86400000000 * 65536))

/-- Syntonisation goes on on another source, or ends and the model restarts (R153). -/
def State.syntFollow (s : State) (d : Dom) (nc : Nat) : State :=
  let v := s.servo d
  if v.synt = false ∨ (v.freqSrc = v.syntSrc ∧ s.syntonises v.syntSrc) then s
  else if s.syntonises v.freqSrc then
    s.setServo d { v with f0 := v.f, syntSrc := v.freqSrc, syntF := (s.cand v.freqSrc).freq }
  else s.setServo d { v with f0 := v.f, t0 := s.rs.temp, model := nc, synt := false, syntSrc := 15 }

/-- The growth of the estimate for one course (R157). -/
def State.grow (s : State) (d : Dom) (nc : Nat) : State :=
  let v := s.servo d
  let k := if v.synt then s.fl RS_HO_K 0 16 else s.fl RS_HO_K 16 16
  let dt := if s.rs.tempBad then 2560 else mag (s.rs.temp - v.t0)
  let kt := if v.synt then 0 else (s.fl RS_HO_KT 0 16 * 65536 * dt) / 256
  let slope := k * 65536 + 2 * s.rd RS_HO_K2 * (nc - v.entry) / 1000000 + kt
  let x := slope + v.teRem
  s.setServo d { v with teAcc := min (0xFFFFFFFF * 65536) (v.teAcc + x / 1000000), teRem := x % 1000000 }

/-- A domain in HOLD at the boundary into course `nc`, when it was in HOLD before (R148, R153, R157). -/
def State.holdCourse (s : State) (d : Dom) (nc : Nat) : State := (s.syntFollow d nc).grow d nc

/-- TE_up: the largest TE last received on a domain's live uplinks (R156).  The spec does not say whether an uplink on probation
counts as live here, or for the REF bit of R161: the model counts live and probation uplinks (log entry 34). -/
def State.teUp (s : State) (d : Dom) : Nat := (s.routeUplinks d).foldl (fun m p => max m (s.port p).kaTe) 0

/-- A follower root (R129). -/
def State.isFollowRoot (s : State) : Bool := s.isRoot && s.bit TD_ROOT_CFG 8

/-- The domain estimate TD_x_TE (R156) (log entry 34). -/
def State.domTe (s : State) (d : Dom) : Nat :=
  let v := s.servo d
  let up := if s.isRoot ∧ d = s.home then s.teUp d.other else s.teUp d
  let track := sat32 (up + s.rd RS_HOP_TE + (if v.locked then 0 else psUp (mag v.eps)))
  if s.td.acq = false then 0xFFFFFFFF
  else if s.isRoot ∧ d = s.home ∧ s.isFollowRoot = false then 0
  else if s.isRoot ∧ d = s.home ∧ v.follow = false ∧ v.st = .track then s.rd RS_ROOT_TE
  else
    match v.st with
    | .track => track
    | .hold =>
      if v.synt = false ∧ (s.cand 10).st = .lost then 0xFFFFFFFF
      else sat32 (ceilDiv v.teAcc 65536)
    | _ => 0xFFFFFFFF

/-- TD_TE (R119): the estimate of the selected domain, plus |E| while SLEW is 1. -/
def State.fixTe (s : State) : State :=
  let s := (s.modServo .a fun v => { v with te := s.domTe .a }).modServo .b fun v => { v with te := s.domTe .b }
  let v := s.servo s.td.sel
  let te := if s.td.acq = false then 0xFFFFFFFF
    else sat32 (v.te + if s.td.slew then psUp (mag (v.pUnits - v.b)) else 0)
  { s with td := { s.td with te := te } }

/-! ### Ageing (R151) -/

/-- 2^AGE_WIN courses. -/
def State.ageSpan (s : State) : Nat :=
  let w := s.fl RS_HO_CFG 8 8
  2 ^ (if 30 ≤ w ∧ w ≤ 40 then w else 36)

/-- F_x with the temperature terms taken out, in 2^-64. -/
def State.ageValue (s : State) (f : Int) : Int :=
  f * 65536 - toSigned 32 (s.rd RS_TCOMP1) * s.rs.temp * 256
    - toSigned 32 (s.rd RS_TCOMP2) * (s.rs.temp - toSigned 16 (s.rd RS_TQ)) ^ 2

/-- A servo update of the selected domain adds a point to the window. -/
def State.agePoint (s : State) (t : Nat) : State :=
  let a := s.rs.age
  let x : Int := (t : Int) - a.start
  let y := s.ageValue (s.servo s.td.sel).f
  { s with rs := { s.rs with age := { a with
    n := a.n + 1, sx := a.sx + x, sy := a.sy + y, sxx := a.sxx + x * x, sxy := a.sxy + x * y } } }

/-- The output follows a domain in TRACK with LOCKED = 1. -/
def State.ageHolds (s : State) : Bool := s.td.acq && decide ((s.servo s.td.sel).st = .track) && (s.servo s.td.sel).locked

/-- The end of a window at a boundary with count `t`: a complete window loads RS_AGE with its slope per day.  The spec does not say
how the slope becomes an s32: the model rounds it ties to even and clamps it (log entry 32). -/
def State.ageEnd (s : State) (t : Nat) : State :=
  let a := s.rs.age
  let den := (a.n : Int) * a.sxx - a.sx * a.sx
  if t % s.ageSpan ≠ 0 ∨ a.valid = false then s
  else
    let s := if s.bit RS_CTL 2 ∧ 0 < den then
        s.wr RS_AGE (ofSigned 32 (clampS 32
          (roundDiv (((a.n : Int) * a.sxy - a.sx * a.sy) * 86400000000) (den.toNat * 65536))))
      else s
    { s with rs := { s.rs with age := { a with valid := false } } }

/-- The window at a boundary with count `t`: it ends, starts afresh, or is broken (log entry 32). -/
def State.ageBoundary (s : State) (t : Nat) : State :=
  let s := s.ageEnd t
  if t % s.ageSpan = 0 then
    { s with rs := { s.rs with age := { start := t, dom := s.td.sel, valid := s.ageHolds } } }
  else if s.ageHolds = false ∨ s.rs.age.dom ≠ s.td.sel then
    { s with rs := { s.rs with age := { s.rs.age with valid := false } } }
  else s

/-! ### Quality (R159, R161) -/

/-- clockClass and QL; none where R159 states no row (log entry 34). -/
def State.quality (s : State) : Option (Nat × Nat) :=
  let v := s.servo s.td.sel
  if s.td.acq = false then some (248, 0xF)
  else if s.isRoot then
    match v.st with
    | .track =>
      if v.openLoop then some (13, 0xB)
      else if v.timeSrc ≠ 15 then some (6, s.fl (RS_CANDn_CFG (s.pairOf v.timeSrc)) 12 4)
      else none
    | .hold => if s.clk.course < v.entry + s.fl RS_HO_CFG 16 16 * 1000000 then some (7, 0xB) else some (248, 0xF)
    | _ => none
  else
    match v.st with
    | .track =>
      match (if 6 ≤ v.freqSrc ∧ v.freqSrc ≤ 9 then s.slotPort v.freqSrc else none) with
      | some p => some (248, if s.bit (PF_CTL p) 3 then (s.cand v.freqSrc).qlRx else 0xB)
      | none => some (248, 0xB)
    | _ => some (248, 0xB)

/-- The quality, a free value where R159 states none (log entry 5). -/
def State.qualityOrFree (s : State) : State × Nat × Nat :=
  match s.quality with
  | some (c, q) => (s, c, q)
  | none =>
    let r := s.drawFree
    (r.1, r.2 % 256, r.2 / 256 % 16)

/-- The REF bit of KEEPALIVE (R161). -/
def State.refBit (s : State) : Bool :=
  if s.isRoot then
    let v := s.servo s.home
    decide (v.st = .track) && decide (v.timeSrc ≠ 15) && !v.openLoop
  else
    decide ((s.servo s.td.sel).st = .track) && (s.routeUplinks s.td.sel).any fun p => bitOf (s.port p).kaStatus 3

/-! ### The commands -/

/-- CANDIDATE_QUALIFY_TIMER (R137), at the boundary that ends the running course. -/
def execCandidateQualifyTimer (n : Nat) (s : State) : Result :=
  s.main fun s => if n < 10 then s.candTimer n (s.clk.ticks + 1) else s

/-- WTR_EXPIRY (R139), at the boundary that ends the running course. -/
def execWtrExpiry (d : Dom) (s : State) : Result := s.main fun s => s.wtrExpiry d (s.clk.ticks + 1)

/-- PPS_EDGE (R136, R140). -/
def execPpsEdge (n : Nat) (e : Edge) (before : Nat) (s : State) : Result := s.main fun s => s.ppsEdge n e before

/-- PPS_LOSS (R136), at the boundary that ends the running course. -/
def execPpsLoss (n : Nat) (s : State) : Result :=
  s.main fun s => if n = 4 ∨ n = 5 then s.ppsLoss n (s.clk.ticks + 1) else s

/-- AGE_WINDOW_END (R151), at the boundary that ends the running course. -/
def execAgeWindowEnd (s : State) : Result := s.main fun s => s.ageEnd (s.clk.ticks + 1)

end Sys2Proof.Machine
end

