-- ==== Sys2Proof/Machine/Servo.lean ====
section
/-! DEFINITION. Sys2Proof/Machine/Servo.lean: the domain servos, the acquisition step, steering, plans and switches,
bridging and the follower root, and their part of the course boundary (spec/04_time_transfer.md, R48, R144 to R148). -/
namespace Sys2Proof.Machine
open Sys2Proof.Config

/-! ### Steering (R110, R112, R118) -/

/-- KI_SHIFT in force. -/
def State.kiShift (s : State) : Nat :=
  let k := s.fl TD_SERVO 12 4
  if 4 ≤ k ∧ k ≤ 12 then k else 7
/-- KP_SHIFT in force. -/
def State.kpShift (s : State) : Nat :=
  let k := s.fl TD_SERVO 8 4
  if 1 ≤ k ∧ k ≤ 8 then k else 3
/-- An arithmetic shift right. -/
def sar (x : Int) (k : Nat) : Int := x / ((2 ^ k : Nat) : Int)
/-- LOCK_THR in ps. -/
def State.lockThr (s : State) : Nat := s.fl TD_THR 0 16
/-- UNLOCK_THR in ns. -/
def State.unlockThr (s : State) : Nat := s.fl TD_THR 16 16

/-- The steering error E (R110), an interval (R37). -/
def State.steerErr (s : State) : Int :=
  let v := s.servo s.td.sel
  interval (v.pUnits - v.b)

/-- R_out is formed from the selected domain and its steering error (R112, R118) (log entry 32). -/
def State.steer (s : State) : State :=
  let lim := slewUnits s.slewLimit
  let v := s.servo s.td.sel
  { s with td := { s.td with rOut := clamp40 (v.f + clampI (-lim) lim (sar (toRate s.steerErr) s.kpShift)) } }

/-- R_out is formed again where F_sel or the limit changes between updates, so that it never differs from F_sel by more than
the slew limit (R118); in HOLD it is F_sel. -/
def State.resteer (s : State) : State :=
  if s.td.acq ∧ (s.servo s.td.sel).st = .track then s.steer else s

/-! ### Samples (R111, R141, R142) -/

/-- The floor of the mean of a list of samples. -/
def meanOf (l : List Int) : Option Int := if l = [] then none else some (l.sum / (l.length : Int))

/-- The exchange samples of a domain's live uplinks since the previous update (R111). -/
def State.linkSample (s : State) (d : Dom) : Option Int :=
  meanOf ((s.liveUplinks d).filterMap fun p => (s.servo d).th.look p)

/-- The largest move of a build-out in one update, in millionths of 2^-16 ns: 20.48 ps at 20 ns/s (R142). -/
def State.buildOutStep (s : State) : Nat := s.slewLimit * 1024 * 65536

/-- A build-out moved toward 0. -/
def towardZero (bo step : Int) : Int := if 0 ≤ bo then max 0 (bo - step) else min 0 (bo + step)

/-- BO after an update from one pair: whole units move now, and the rest of the slew limit moves with a later update, so that
no part of it is lost (R142, worked case). -/
def State.buildOutMove (s : State) (v : Servo) : Int × Nat :=
  if v.bo = 0 then (0, 0)
  else
    let m := s.buildOutStep + v.boRem
    let bo := towardZero v.bo (m / 1000000 : Nat)
    (bo, if bo = 0 then 0 else m % 1000000)

/-- The sample of a root's own references, with its build-out (R141, R142, R162).  A sample that HOLD withholds, forced or with
an open loop, leaves the last sample and its pair as they are: a return builds out against the last sample before HOLD. -/
def State.rootSample (s : State) (d : Dom) : State × Option Int :=
  let v := s.servo d
  match s.pairNow d with
  | none => (s, none)
  | some pr =>
    match s.thetaOf pr.1 pr.2 with
    | none => (s, none)
    | some th =>
      let bo : Int × Nat := match v.pair with
        | none => (v.bo, v.boRem)
        | some old =>
          if old = pr then s.buildOutMove v
          else
            let base := if v.st = .hold then v.lastRef
              else match s.thetaOf old.1 old.2 with
                | some a => a - v.bo
                | none => v.lastRef
            (interval (th - base), 0)
      let x := interval (th - bo.1)
      let s := s.flagInterval (th - bo.1)
      if v.st = .hold ∧ (v.forced ∨ v.openLoop) then (s, some x)
      else (s.setServo d { v with bo := bo.1, boRem := bo.2, pair := some pr, lastRef := x }, some x)

/-- The hardware sample of a domain at an update. -/
def State.hardwareSample (s : State) (d : Dom) : State × Option Int :=
  if s.isRoot ∧ d = s.home then
    if s.bit TD_CTL 0 = false then (s, none)
    else if (s.servo d).follow then (s, s.linkSample d.other)
    else s.rootSample d
  else (s, s.linkSample d)

/-- The domain has a live uplink, or at a root ridge its references (R113). -/
def State.domLive (s : State) (d : Dom) : Bool :=
  if s.isRoot ∧ d = s.home then
    if (s.servo d).follow then decide (s.liveUplinks d.other ≠ []) else s.refLive d
  else decide (s.liveUplinks d ≠ [])

/-! ### The update (R112 to R114, R117) -/

/-- LOCKED is cleared; the lock-lost cause follows for the domain the output follows (R114). -/
def State.unlock (s : State) (d : Dom) : State :=
  (s.modServo d fun v => { v with locked := false }).raiseIf (decide (d = s.td.sel) && s.td.acq) 7

/-- The rate of R113 from the points of FREQ: the least-squares slope and the mean of R_out, rounded once
(log entry 32). -/
def fitRate (pts : List FreqPoint) : Int :=
  let n : Int := pts.length
  let idx := List.range pts.length
  let sx : Int := (idx.map Int.ofNat).sum
  let sxx : Int := (idx.map fun i => Int.ofNat (i * i)).sum
  let sy : Int := (pts.map fun q => q.th).sum
  let sxy : Int := ((idx.zip pts).map fun q => (q.1 : Int) * q.2.th).sum
  let first := pts.headD ⟨0, 0, 0⟩
  let last := pts.getLastD first
  let num := (n * sxy - sx * sy) * 4194304
  let den := (n * sxx - sx * sx) * 1000
  let rn := last.rSum - first.rSum
  let rd : Int := max 1 (last.ticks - first.ticks)
  clamp40 (roundDiv (num * rd + rn * den) (den * rd).toNat)

/-- The frequency that seeds FREQ: that of a QUALIFIED uplink source (R113). -/
def State.seedFreq (s : State) (d : Dom) : Option Int :=
  let n := (s.servo d).freqSrc
  if 6 ≤ n ∧ n ≤ 9 ∧ (s.cand n).st = .qualified then some (s.cand n).freq else none

/-- The first valid sample of FREQ: F_x is set to the frequency of a qualified recovered clock, if there is one, so that P_x
advances on it from then on (R113). -/
def State.firstSample (s : State) (d : Dom) : State :=
  let seed := s.seedFreq d
  s.modServo d fun v => { v with st := .freq, first := false, seeded := seed.isSome, f := seed.getD v.f }

/-- An update in FREQ with a sample (R113). -/
def State.freqUpdate (s : State) (d : Dom) (th : Int) (t : Nat) : State :=
  let v := s.servo d
  let pts := v.freqPts ++ [⟨th, s.td.rSum, t⟩]
  if (if v.seeded then 4 else 16) ≤ pts.length then
    s.setServo d { v with
      p := th * phaseScale, f := fitRate pts, freqPts := [], seeded := false, lockRun := 0, unlockRun := 0
      st := if s.td.acq then .track else .ready }
  else s.setServo d { v with p := th * phaseScale, freqPts := pts }

/-- The steering of R112, the end of a slew (R120) and the alarm (R117) at an update of the selected domain. -/
def State.steerUpdate (s : State) : State :=
  let was := s.td.slew
  let s := s.steer
  let e := mag s.steerErr
  let s := { s with td := { s.td with slew := was && overPs e s.lockThr } }
  if was = false ∧ overNs e (s.rd TD_ALARM) then (s.count TD_CNT_ALARM).raise 3 else s

/-- An update with a sample outside NONE and FREQ (R112, R114) (log entry 32). -/
def State.trackUpdate (s : State) (d : Dom) (th : Int) (t : Nat) : State :=
  let v := s.servo d
  let eps := interval (th - v.pUnits)
  let runs := decide (v.st = .track) || decide (v.st = .hold)
  let f := if runs then clamp40 (v.f + sar (toRate eps) s.kiShift) else v.f
  let good := if runs = false ∨ overPs (mag eps) s.lockThr then 0 else v.lockRun + 1
  let bad := if runs && overNs (mag eps) s.unlockThr then v.unlockRun + 1 else 0
  let s := s.setServo d { v with
    p := th * phaseScale, eps := eps, f := f, lockRun := good, unlockRun := bad
    st := if v.st = .hold then .track else v.st
    fLast := if runs then (f :: v.fLast).take 1024 else v.fLast
    locked := if runs ∧ v.locked = false ∧ 16 ≤ good then true else v.locked
    lockTick := if runs ∧ v.locked = false ∧ 16 ≤ good then t else v.lockTick
    synt := if v.st = .hold then false else v.synt }
  let s := if v.locked ∧ 2 ≤ bad then s.unlock d else s
  if d = s.td.sel ∧ s.td.acq then s.steerUpdate else s

/-- An update without a sample (R111, R113, R144) (log entry 32). -/
def State.skipUpdate (s : State) (d : Dom) (nc : Nat) : State :=
  let s := s.count (TD_x_CNT_SKIP d.num)
  let v := s.servo d
  if v.openLoop ∧ v.forced = false then s
  else
    let k := v.skipRun + 1
    let v := { v with skipRun := k }
    match v.st with
    | .freq => s.setServo d { v with freqPts := [], seeded := false, first := true }
    | .ready => s.setServo d (if 4 ≤ k then { v with st := .freq, first := true } else v)
    | .track => if 4 ≤ k then (s.setServo d v).enterHold d nc else s.setServo d v
    | _ => s.setServo d v

/-- What the update of a domain is given: the correction of an open loop, or the hardware sample (R144, R145,
R155) (log entry 32). -/
def State.updateSample (s : State) (d : Dom) (hw : Option Int) : Option Int :=
  let v := s.servo d
  if v.forced then none else if v.openLoop then v.corrP else hw

/-- The servo update of a domain at the boundary into course `nc`, with boundary count `t`; TD_x_UPD shows the course that it
ends (R111) (log entry 32). -/
def State.servoUpdate (s : State) (d : Dom) (hw : Option Int) (nc t : Nat) : State :=
  let th := s.updateSample d hw
  let v := s.servo d
  let corr := v.openLoop && v.corrP.isSome && !v.forced
  let s := s.setServo d { v with
    latest := hw.getD v.latest, th := [], corrP := none
    corrCnt := if corr then v.corrCnt + 1 else v.corrCnt, openTick := if corr then t else v.openTick }
  match th with
  | none => s.skipUpdate d nc
  | some th =>
    let s := (s.count (TD_x_CNT_UPD d.num)).modServo d fun v => { v with upd := nc - 1, skipRun := 0 }
    let s := s.evt 1
    match (s.servo d).st with
    | .none => (s.firstSample d).freqUpdate d th t
    | .freq => (if (s.servo d).first then s.firstSample d else s).freqUpdate d th t
    | _ => s.trackUpdate d th t

/-- A sample of the domain sets the step that acquisition or a re-step waits for: a domain whose loop is open or whose HOLD is
forced ignores its samples (R115, R116, R144, R155) (log entry 35). -/
def State.wantsStep (s : State) (d : Dom) : Bool :=
  (if s.td.acq then s.td.restep && decide (d = s.td.sel) else decide (s.td.acqDom = some d)) &&
    !(s.servo d).openLoop && !(s.servo d).forced

/-- The domain that acquisition takes, chosen after an update (R115) (log entry 35). -/
def State.autoAcquire (s : State) : State :=
  let ready := [Dom.a, Dom.b].filter fun d => decide ((s.servo d).st = .ready) && (s.isEave || decide (d = s.home))
  let pref := Dom.ofBit (s.bit TD_CTL 4)
  if s.td.acq ∨ s.td.acqDom.isSome ∨ s.bit TD_CTL 5 = false then s
  else { s with td := { s.td with acqDom := if pref ∈ ready then some pref else ready.head? } }

/-- Acquisition is withdrawn from a domain that has left READY. -/
def State.acqCheck (s : State) : State :=
  match s.td.acqDom with
  | some d => if (s.servo d).st = .ready then s else { s with td := { s.td with acqDom := none } }
  | none => s

/-- The updates of both domains at the boundary ending course `n` (R111); none in Underlay mode (R338), in a gang
member other than the leader (R29), or when SERVO_UPDATE has made them already.  A root's own sample that sets a step is shown
in RS_x_SAMPLE and is not delivered to an update (R115, R141, R163) (log entries 3, 9 and 35). -/
def State.updates (s : State) (n nc t : Nat) : State :=
  if n % 1024 ≠ 1023 ∨ s.underlay ∨ s.follower ∨ s.did.servo then s
  else
    let s := { s with did := { s.did with servo := true } }
    let a := s.hardwareSample .a
    let b := a.1.hardwareSample .b
    let s := b.1
    let one (s : State) (d : Dom) (hw : Option Int) : State :=
      match hw with
      | some th =>
        if s.isRoot ∧ d = s.home ∧ s.wantsStep d then
          let s := s.modServo d fun v => { v with latest := th }
          { s with td := { s.td with stepDue := some (d, th) } }
        else s.servoUpdate d hw nc t
      | none => s.servoUpdate d hw nc t
    let s := (one (one s .a a.2) .b b.2).acqCheck.autoAcquire
    if (s.servo s.td.sel).upd = n ∧ s.rs.age.valid then s.agePoint t else s

/-! ### The step (R48, R115, R116) -/

/-- The parts of R48 and R115 that the step edge itself makes: the load of the output time on the timing grid, the
servos, the undelivered samples, the exchanges.  Steps 2 to 6 of R18 follow it (log entry 35). -/
def State.stepTime (s : State) (d : Dom) (th : Int) : State :=
  let total := gridFifths s.clk.course s.clk.cyc + 5 * th
  let grid := (total / cycleFifths).toNat
  let sub := total % cycleFifths
  let v := s.servo d
  let o := s.servo d.other
  let was := s.td.acq
  let less (m : Map Int) : Map Int := m.map fun e => (e.1, e.2 - th)
  let up (v : Servo) : Servo := { v with
    th := less v.th, st := if v.st = .ready then .track else v.st
    lockTick := s.clk.ticks + 1, lastRef := v.lastRef - th }
  let s := s.setServo d { up v with p := 0, b := 0 }
  let s := s.setServo d.other { up o with p := o.p - th * phaseScale }
  let s : State := { s with
    clk := { course := grid / 625, cyc := grid % 625, ticks := s.clk.ticks + 1 }
    td := { s.td with
      acq := true, steps := min 255 (s.td.steps + 1), sel := d, rOut := v.f, slew := false
      rot := (roundDiv sub 512).toNat, rotCyc := grid % 625
      acqDom := none, restep := false, stepDue := none }
    bt := { s.bt with stepNext := true }
    im := { s.im with
      rclk := s.im.rclk.map fun e => (e.1, e.2 + 5 * th), clkDue := [], recent := [], ended := s.im.ended.map (· + th) }
    rs := { s.rs with cand := s.rs.cand.map fun e => (e.1, { e.2 with
      edge := e.2.edge.map (· + th), phi := e.2.phi.map fun x => (x + 5 * th) % s.candPeriod e.1 }) } }
  let s := s.each s.portList fun s p =>
    let q := s.port p
    let cutL := match q.lower with
      | some x => decide (x.t3 = none)
      | none => false
    let cutU := q.upper.t1.isSome && q.upper.t4.isNone
    let s := s.setPort p { q with
      rclkPhi := q.rclkPhi.map fun x => (x + 5 * th) % 2097152
      lower := if cutL then none else q.lower.map fun x => { x with shift := x.shift + th }
      upper := if cutU then {} else q.upper }
    s.count TD_CNT_EXCH_BAD (bnat cutL + bnat cutU)
  if was then s else s.raise 6

/-! ### Switches (R120 to R126) -/

/-- The output changes domain; `wide` sets SLEW, `plan` leaves it, otherwise SLEW follows E (R120, R124, R126). -/
inductive SwitchKind where
  | plan | wide | unplanned
  deriving DecidableEq, Repr

/-- SLEW after a switch of a kind to the domain now selected. -/
def State.slewAfter (s : State) : SwitchKind → Bool
  | .plan => s.td.slew
  | .wide => true
  | .unplanned => s.td.slew || overPs (mag s.steerErr) s.lockThr

/-- The output switches to a domain. -/
def State.switchTo (s : State) (d : Dom) (k : SwitchKind) : State :=
  let s := s.modServo d fun v => { v with b := 0 }
  let s : State := { s with td := { s.td with sel := d } }
  let slew := s.slewAfter k
  let s := (State.steer { s with td := { s.td with slew := slew } }).count TD_CNT_SWITCH
  match k with
  | .plan => s
  | .wide => s.raise 8
  | .unplanned => s.raise 8

/-- The domain is in TRACK with LOCKED = 1. -/
def State.tracked (s : State) (d : Dom) : Bool := decide ((s.servo d).st = .track) && (s.servo d).locked

/-- A plan becomes the pending one.  R123 has "a later PLAN_ID" replace the pending plan: the model takes the plan that arrives
later, and compares no numbers (log entry 60). -/
def State.holdPlan (s : State) (id : Nat) (target : Dom) (course : Nat) : State :=
  { s with td := { s.td with
    plan := some ⟨id, target, course⟩, planCourse := course, planId := id, planTarget := target, outcome := 0 } }

/-- The pending plan is cancelled (R122, R123) (log entry 48). -/
def State.cancelPlan (s : State) : State := { s with td := { s.td with plan := none, outcome := 3 } }

/-- The pending plan is evaluated at the boundary into course `nc` (R124).  At a root ridge, which never switches (R123), its
own pending plan ends there with OUTCOME 0 and no cause (log entries 3 and 60). -/
def State.planEvaluate (s : State) (nc : Nat) : State :=
  match s.td.plan with
  | none => s
  | some pl =>
    if nc < pl.course then s
    else
      let s : State := { s with td := { s.td with plan := none } }
      if s.isEave = false then s
      else if s.td.sel = pl.target then { s with td := { s.td with outcome := 1 } }
      else if s.tracked pl.target then
        let wide := overPs (mag (s.servo pl.target).pUnits) (s.rd TD_PLAN_MAX)
        let s := s.switchTo pl.target (if wide then .wide else .plan)
        { s with td := { s.td with outcome := 1, wide := s.td.wide || wide } }
      else State.raise { s with td := { s.td with outcome := 2 } } 5

/-- time.domain_select at the boundary (R121). -/
def State.selectBoundary (s : State) : State :=
  match s.td.selReq with
  | none => s
  | some d =>
    let s : State := { s with td := { s.td with selReq := none } }
    if d = s.td.sel then { s with td := { s.td with selOk := some true } }
    else if s.tracked d then
      let s := s.switchTo d .unplanned
      { s with td := { s.td with selOk := some true } }
    else { s with td := { s.td with selOk := some false } }

/-- The unplanned switch of an eave (R120) (log entry 60). -/
def State.autoSwitch (s : State) : State :=
  let o := s.td.sel.other
  if s.isEave && s.bit TD_CTL 6 && (!s.domLive s.td.sel || decide ((s.servo s.td.sel).st = .hold)) && s.tracked o then
    s.switchTo o .unplanned
  else s

/-- Bridging by a ridge below the root (R128) (log entry 60). -/
def State.bridge (s : State) : State :=
  if s.isRidge = false ∨ s.isRoot then s
  else
    let h := s.home
    let o := h.other
    if (s.servo o).bridged then
      if s.domLive h && s.tracked h then
        let s := s.modServo o fun v => { v with b := 0, bridged := false }
        let s : State := { s with td := { s.td with sel := h } }
        let s : State := { s with td := { s.td with slew := overPs (mag s.steerErr) s.lockThr } }
        s.steer
      else s
    else if s.bit TD_CTL 7 && !s.domLive h && s.tracked o then
      let e := s.steerErr
      let s := s.modServo o fun v => { v with b := interval (v.pUnits - e), bridged := true }
      State.steer { s with td := { s.td with sel := o } }
    else s

/-- The follower root takes the cross samples while all three conditions of R129 hold. -/
def State.followBoundary (s : State) : State :=
  if s.isFollowRoot then
    let o := s.home.other
    let ups := s.liveUplinks o
    s.modServo s.home fun v => { v with
      follow := decide (ups ≠ []) && (ups.any fun p => bitOf (s.port p).kaStatus 3) && s.tracked o }
  else s.modServo s.home fun v => { v with follow := false }

/-! ### The boundary -/

/-- Between updates the phase advances over the course just ended at the rate that was in effect in it, which is summed (R110,
R113, R168) (log entry 32). -/
def State.advancePhase (s : State) : State :=
  if s.did.phase then s else
  let adv (v : Servo) : Servo := { v with p := clampS 112 (v.p + (v.f - s.td.rEff) * 65536000) }
  let s := (s.modServo .a adv).modServo .b adv
  { s with
    td := { s.td with rSum := s.td.rSum + s.td.rEff, rot := s.td.rot - (625 - s.td.rotCyc), rotCyc := 0 }
    did := { s.did with phase := true } }

/-- A loop opens or closes (R144, R146).  A rate correction accepted while the loop was open is applied at this boundary,
whether or not the loop closes at it, and R_out is formed again for the domain that the output follows (R118, R145).  A phase
correction that still waits for its update when the loop closes is dropped, which R145 leaves open (log entry 32). -/
def State.loopBoundary (s : State) (d : Dom) (t : Nat) : State :=
  let v := s.servo d
  let opening := v.openReq && !v.openLoop
  let open_ := v.openLoop || v.openReq
  let w := { v with
    openLoop := open_ && !v.closeReq, openReq := false, closeReq := false, corrR := none
    openTick := if opening then t else v.openTick, corrP := if v.closeReq then none else v.corrP }
  match v.corrR with
  | some r =>
    if open_ ∧ v.forced = false then
      let s := s.setServo d { w with f := clamp40 r, corrCnt := w.corrCnt + 1 }
      if d = s.td.sel then s.resteer else s
    else s.setServo d w
  | none => s.setServo d w

/-- RS_OPEN_TMO in force (log entry 8). -/
def State.openTmo (s : State) : Nat := let v := s.rd RS_OPEN_TMO; if v = 0 then 1024 else v

/-- An open loop without a phase correction enters HOLD at a boundary with count `t` (R144). -/
def State.loopTimeout (s : State) (d : Dom) (nc t : Nat) : State :=
  let v := s.servo d
  if v.openLoop ∧ v.st = .track ∧ v.openTick + s.openTmo < t then s.enterHold d nc else s

/-- The transitions of R113 and R155 that are judged at every boundary. -/
def State.servoStates (s : State) (d : Dom) (nc t : Nat) : State :=
  let v := s.servo d
  match v.st with
  | .none =>
    if (s.liveUplinks d).any fun p => (v.th.look p).isSome then
      (s.firstSample d).modServo d fun v => { v with skipRun := 0 }
    else s
  | .freq =>
    if s.domLive d = false then s.setServo d { v with st := .none, freqPts := [], seeded := false, first := false }
    else if v.first ∧ (s.liveUplinks d).any fun p => (v.th.look p).isSome then s.firstSample d
    else s
  | .track => if s.domLive d = false ∨ v.forced then s.enterHold d nc else s.loopTimeout d nc t
  | _ => s

/-- A domain that was in HOLD grows its estimate; every domain in HOLD takes F_hold (R148). -/
def State.holdBoundary (s : State) (d : Dom) (was : Bool) (nc : Nat) : State :=
  if (s.servo d).st = .hold then
    let s := if was then s.holdCourse d nc else s
    s.modServo d fun v => { v with f := s.fHold d nc }
  else s.modServo d fun v => { v with synt := false, syntSrc := 15 }

/-- The domain engine's and the reference selector's work at the boundary ending course `n`, into course `nc`, with
boundary count `t`, once the live-rafter vector is fixed. -/
def State.timeBoundary (s : State) (n nc t : Nat) : State :=
  let wasA := decide ((s.servo .a).st = .hold)
  let wasB := decide ((s.servo .b).st = .hold)
  let s := (s.select .a t).select .b t
  let s := (s.loopBoundary .a t).loopBoundary .b t
  let s := if s.underlay ∨ s.follower then s
    else (((s.servoStates .a nc t).servoStates .b nc t).followBoundary).updates n nc t
  let s := (s.holdBoundary .a wasA nc).holdBoundary .b wasB nc
  let s := s.acqCheck
  let s := if s.td.acq then ((s.planEvaluate nc).selectBoundary.autoSwitch).bridge else s
  let s := if s.td.acq ∧ (s.servo s.td.sel).st = .hold then
      { s with td := { s.td with rOut := (s.servo s.td.sel).f } } else s
  (s.fixTe).ageBoundary t

/-- At entry into Underlay mode a domain in TRACK goes to HOLD (R338). -/
def State.underlayHold (s : State) (nc : Nat) : State :=
  let one (s : State) (d : Dom) : State := if (s.servo d).st = .track then s.enterHold d nc else s
  one (one s .a) .b

/-! ### The commands -/

/-- SERVO_UPDATE (R111), at the boundary that ends the running course. -/
def execServoUpdate (s : State) : Result :=
  s.main fun s =>
    if s.clk.course % 1024 = 1023 then s.advancePhase.updates s.clk.course (s.clk.course + 1) (s.clk.ticks + 1) else s

/-- PLAN_EVALUATE (R124), at the boundary that ends the running course. -/
def execPlanEvaluate (s : State) : Result :=
  s.main fun s => if s.td.acq ∧ s.td.plan.isSome then s.advancePhase.planEvaluate (s.clk.course + 1) else s

/-- LOOP_OPEN_TIMEOUT (R144), at the boundary that ends the running course. -/
def execLoopOpenTimeout (d : Dom) (s : State) : Result :=
  s.main fun s => s.loopTimeout d (s.clk.course + 1) (s.clk.ticks + 1)

end Sys2Proof.Machine
end

