-- ==== Sys2Proof/Machine/Exchange.lean ====
section
/-! DEFINITION. Sys2Proof/Machine/Exchange.lean: the IEEE 1588 exchange, Announce, HELLO, KEEPALIVE, switch plans and
ESMC, and a port's work at a course boundary (spec/04_time_transfer.md, R78, R83, R109). -/
namespace Sys2Proof.Machine
open Sys2Proof.Config

/-! ### Cadence -/

/-- A periodic type has not been sent on the port in the running course. -/
def State.unsent (s : State) (p key : Nat) : Bool := decide ((s.port p).lastSent.get 0 key ≠ s.clk.course + 1)

/-- Note that a periodic type is sent in the running course. -/
def State.noteSent (s : State) (p key : Nat) : State :=
  s.modPort p fun v => { v with lastSent := v.lastSent.set 0 key (s.clk.course + 1) }

/-- Time transfer runs on the port: TD_CTL.EN, and the port is up. -/
def State.transferOn (s : State) (p : Nat) : Bool := s.bit TD_CTL 0 && s.isUp p

/-! ### The exchange (R93 to R99) -/

/-- Sync is due in the running course (R95, R97). -/
def State.syncDue (s : State) (p : Nat) : Bool :=
  s.transferOn p && (s.port p).role.isUpper && s.td.acq && decide (s.clk.course % 1024 = (2 * p) % 1024) && s.unsent p 0

/-- Send Sync when it is due. -/
def State.syncSend (s : State) (p : Nat) : State :=
  if s.syncDue p then (s.noteSent p 0).xsend p (.sync ((s.port p).nextSeq 0)) else s

/-- A Sync at a lower end: t1 and t2 are recorded; an exchange without its end is invalid (R97, R98). -/
def State.syncArrived (s : State) (p : Nat) (h : PtpHead) (st : Stamp) (t1 : Int) : State :=
  let v := s.port p
  let s := s.count TD_CNT_EXCH_BAD (bnat v.lower.isSome)
  let x : LowerExch := { seq := h.seq, t1 := t1, t2 := st, rxTick := s.clk.ticks, srcClock := h.srcClock, srcPort := h.srcPort, live := v.health.routes }
  s.modPort p fun v => { v with lower := some x }

/-- Delay_Req in the course after the Sync's receipt (R97). -/
def State.delayReqSend (s : State) (p : Nat) : State :=
  match (s.port p).lower with
  | some x =>
    if x.asked = false ∧ x.rxTick < s.clk.ticks ∧ s.transferOn p then
      (s.modPort p fun v => { v with lower := some { x with asked := true } }).xsend p (.delayReq x.seq)
    else s
  | none => s

/-- A Delay_Req at an upper end: t4 is recorded beside the t1 of its Sync (R97, R98). -/
def State.delayReqArrived (s : State) (p : Nat) (h : PtpHead) (st : Stamp) : State :=
  let v := s.port p
  if v.upper.t1.isSome ∧ v.upper.seq = h.seq then
    s.setPort p { v with upper := { v.upper with
      t4 := some st, reqSeq := h.seq, reqClock := h.srcClock, reqPort := h.srcPort, reqTick := s.clk.ticks } }
  else s.count TD_CNT_EXCH_BAD

/-- The stamps of an upper end permit Delay_Resp (R98). -/
def UpperExch.good (x : UpperExch) : Bool :=
  match x.t1, x.t4 with
  | some a, some b => !a.bad && !b.bad && decide (a.cgen = b.cgen)
  | _, _ => false

/-- Delay_Resp in the course after the Delay_Req (R97, R98). -/
def State.delayRespSend (s : State) (p : Nat) : State :=
  let v := s.port p
  match v.upper.t4 with
  | some t4 =>
    if v.upper.reqTick < s.clk.ticks ∧ s.transferOn p then
      let x := v.upper
      let s := s.setPort p { v with upper := {} }
      if x.good = false then s.count TD_CNT_EXCH_BAD
      else if s.td.acq then s.xsend p (.delayResp x.reqSeq t4.t x.reqClock x.reqPort)
      else s
    else s
  | none => s

/-- The comparison of R78: the path delay against 4.9 ns/m, within 5 % and 2 ns, in 1/1000 of 2^-16 ns. -/
def lenDiffers (d : Int) (len : Nat) : Bool :=
  decide (1605632 * len + 131072000 < mag (1000 * d - 32112640 * (len : Int)))

/-- A sample of an exchange is delivered to its servo, or sets a step (R99, R115).  A re-step accepted at a ridge that bridges
waits: no sample of the other domain steps a ridge, and the step is made once the output follows the home domain again
(log entry 35). -/
def State.deliver (s : State) (p : Nat) (th : Int) : State :=
  let v := s.port p
  let d := v.dom
  let s := (s.flagInterval th).modServo d fun x => { x with th := x.th.insert p (interval th) }
  let th := interval th
  if s.wantsStep d ∧ v.health = .live ∧ s.follower = false ∧ (s.isEave ∨ d = s.home) then
    { s with td := { s.td with stepDue := some (d, th) } }
  else s

/-- The exchange at a lower end is valid (R98). -/
def LowerExch.good (x : LowerExch) (ticks : Nat) : Bool :=
  match x.t3 with
  | some t3 => !x.t2.bad && !t3.bad && decide (x.t2.cgen = t3.cgen) && x.live && decide (ticks ≤ x.rxTick + 8)
  | none => false

/-- A Delay_Resp at a lower end (R78, R98, R99) (log entry 38). -/
def State.delayRespArrived (s : State) (p : Nat) (h : PtpHead) (t4 : Int) (reqClock reqPort : Nat) : State :=
  let v := s.port p
  match v.lower with
  | some x =>
    if h.seq ≠ x.seq ∨ reqClock ≠ s.rd TD_CLOCK_ID ∨ reqPort ≠ p + 1 then s
    else
      let s := s.setPort p { v with lower := none }
      match x.t3 with
      | some t3 =>
        if x.good s.clk.ticks then
          let th := ((x.t1 - x.t2.t) + (t4 - t3.t)) / 2 - x.shift
          let d := ((x.t2.t - x.t1) + (t4 - t3.t)) / 2
          let (s, fd) := if 0 ≤ d ∧ d < 4294967296 then (s, d.toNat) else (let r := s.drawFree; (r.1, r.2 % 4294967296))
          let s := s.modPort p fun v => { v with
            fibDelay := fd, fibDone := true
            lenWarn := if v.fibLen = 0 then v.lenWarn else lenDiffers d v.fibLen }
          s.deliver p th
        else s.count TD_CNT_EXCH_BAD
      | none => s.count TD_CNT_EXCH_BAD
  | none => s

/-- An exchange at a boundary with count `t`: the port's liveness is noted, and 8 courses end it (R98)
(log entry 38). -/
def State.exchBoundary (s : State) (p t : Nat) : State :=
  let v := s.port p
  match v.lower with
  | some x =>
    if x.rxTick + 8 < t then (s.setPort p { v with lower := none }).count TD_CNT_EXCH_BAD
    else s.setPort p { v with lower := some { x with live := x.live && v.health.routes } }
  | none => s

/-! ### Announce (R97, R100) -/

/-- The fields a root ridge fills; another ridge copies the latest Announce of its home domain; a ridge that has
received none has no stated fields (log entry 36). -/
def State.announceBody (s : State) : State × AnnounceBody :=
  if s.isRoot then
    let q := s.qualityOrFree
    (q.1, { utcOffset := s.fl TD_UTC 0 16, utcValid := s.bit TD_UTC 16, li59 := s.bit TD_UTC 17, li61 := s.bit TD_UTC 18
            timeSource := s.fl TD_ROOT_CFG 0 8, gmId := s.rd TD_CLOCK_ID, clockClass := q.2.1, stepsRemoved := 0
            accuracy := 0xFE, variance := 0xFFFF })
  else
    match s.td.ann.get s.home with
    | some b => (s, { b with stepsRemoved := (b.stepsRemoved + 1) % 65536 })
    | none =>
      let a := s.drawFree
      let b := a.1.drawFree
      let c := b.1.drawFree
      (c.1, { utcOffset := a.2 % 65536, utcValid := bitOf a.2 16, li59 := bitOf a.2 17, li61 := bitOf a.2 18
              timeSource := field a.2 19 8, gmId := b.2, clockClass := field a.2 27 8, stepsRemoved := field a.2 35 16
              accuracy := c.2 % 256, variance := field c.2 8 16 })

/-- Announce is due in the running course (R95, R97). -/
def State.announceDue (s : State) (p : Nat) : Bool :=
  s.transferOn p && (s.port p).role.isUpper && s.td.acq && decide (s.clk.course % 16384 = 2 * p + 1) && s.unsent p 0xB

/-- Send Announce when it is due. -/
def State.announceSend (s : State) (p : Nat) : State :=
  if s.announceDue p then
    let b := s.announceBody
    (b.1.noteSent p 0xB).xsend p (.announce b.2)
  else s

/-- A received Announce: kept for relaying, and TD_UTC is loaded from the domain the output follows (R100)
(log entry 36). -/
def State.announceArrived (s : State) (p : Nat) (b : AnnounceBody) : State :=
  let d := (s.port p).dom
  let s : State := { s with td := { s.td with ann := s.td.ann.put d (some b) } }
  if s.isRoot = false ∧ d = s.td.sel then
    s.wr TD_UTC (b.utcOffset % 65536 + bnat b.utcValid * 65536 + bnat b.li59 * 131072 + bnat b.li61 * 262144)
  else s

/-! ### HELLO and KEEPALIVE (R104, R105) -/

/-- HELLO is due: every 64 courses while the port is mismatched or has seen no identity (R104). -/
def State.helloDue (s : State) (p : Nat) : Bool :=
  let v := s.port p
  s.isUp p && (v.mismatch || v.peerSeen.isNone) && decide (v.upTick < s.clk.ticks) &&
    decide ((s.clk.ticks - v.upTick) % 64 = 0) && s.unsent p 0x201

/-- Send HELLO when it is due. -/
def State.helloSend (s : State) (p : Nat) : State :=
  if s.helloDue p then (s.noteSent p 0x201).sendHello p else s

/-- PROLE that a port of a role expects of its peer (R104). -/
def PortRole.peer : PortRole → Option Nat
  | .homeUp => some 4
  | .crossUp => some 3
  | .child => some 1
  | .crossDown => some 2
  | .unused => none

/-- A part of MISMATCH is judged; a rise of MISMATCH raises the port-mismatch cause (R104, R398). -/
def State.judged (s : State) (p : Nat) (f : Port → Port) : State :=
  let t := s.modPort p f
  t.raiseIf (!(s.port p).mismatch && (t.port p).mismatch) 12

/-- The identity part of MISMATCH, judged at every HELLO and KEEPALIVE (R104); suspended during a
calibration (R79). -/
def State.judgeId (s : State) (p src : Nat) : State :=
  s.judged p fun v => if v.cal.running then v else { v with peerSeen := some src, mmId := decide (src ≠ v.peerExp) }

/-- The role part, judged at every HELLO (R104). -/
def State.judgeRole (s : State) (p prole : Nat) : State :=
  s.judged p fun v => if v.cal.running then v else { v with mmRole := match v.role.peer with
    | some r => decide (prole ≠ r)
    | none => false }

/-- The LEVEL field of KEEPALIVE (R105). -/
def State.kaLevel (s : State) : Nat :=
  if s.isRoot then 0
  else
    let l := (s.routeUplinks s.td.sel).filter fun p => (s.port p).kaSeen
    match l.map fun p => (s.port p).kaStatus % 8 with
    | [] => 7
    | a :: rest => min 7 (1 + rest.foldl min a)

/-- The STATUS byte of KEEPALIVE (R105, R161). -/
def State.kaStatus (s : State) : Nat :=
  let v := s.servo s.td.sel
  bnat s.td.acq * 128 + bnat v.locked * 64 + bnat (decide (v.st = .hold)) * 32 +
    bnat ((s.servo .a).bridged || (s.servo .b).bridged) * 16 + bnat s.refBit * 8 + s.kaLevel

/-- KEEPALIVE is due in the running course (R105). -/
def State.keepaliveDue (s : State) (p : Nat) : Bool :=
  s.isUp p && decide (s.clk.course % 8 = p % 8) && s.unsent p 0x202

/-- Send KEEPALIVE when it is due. -/
def State.keepaliveSend (s : State) (p : Nat) : State :=
  if s.keepaliveDue p then (s.noteSent p 0x202).xsend p (.keepalive s.kaStatus s.td.te) else s

/-- The continuity check between exchanges (R105). -/
def State.continuity (s : State) (p : Nat) (st : Stamp) (tx : Int) : State :=
  let v := s.port p
  let x := s.servo v.dom
  if v.role.isLower && v.fibDone && !st.bad && (decide (x.st = .track) || decide (x.st = .hold)) &&
      overNs (mag (st.t - (tx + v.fibDelay) + x.pUnits)) s.unlockThr then
    let s := s.count TD_CNT_KA_JUMP
    match s.candOf p with
    | some n => s.candJump n
    | none => s
  else s

/-- A valid KEEPALIVE (R104, R105, R333). -/
def State.keepaliveArrived (s : State) (p src : Nat) (st : Stamp) (tx : Int) (status te : Nat) : State :=
  let s := s.judgeId p src
  let s := s.modPort p fun v => { v with
    kaTick := some s.clk.ticks, kaStatus := status % 256, kaTe := te % 4294967296, kaSeen := true
    lossDecl := v.lossDecl && decide (v.health ≠ .noTree)
    admitAt := if v.health = .admitting ∧ v.admitAt = none ∧ bitOf status 7 ∧ bitOf status 6 ∧ ¬ v.mismatch
      then some s.clk.ticks else v.admitAt }
  s.continuity p st tx

/-! ### Broadcasts (R109, R123) -/

/-- A broadcast type from a rafter: whether it is acted on here; a ridge relays it (R109). -/
def State.broadcast (s : State) (p typ id : Nat) (b : Body) : State × Bool :=
  let role := (s.port p).role
  let acts := s.isEave || decide (role = .homeUp) || (s.isRoot && decide (role = .crossUp))
  if (typ, id) ∈ s.td.seen ∨ acts = false then (s, false)
  else
    let s : State := { s with td := { s.td with seen := ((typ, id) :: s.td.seen).take 16 } }
    (if s.isRidge then s.xsendAll (s.rolePorts .child) b else s, true)

/-- A root ridge originates a broadcast (R109). -/
def State.originate (s : State) (typ id : Nat) (b : Body) : State :=
  let s : State := { s with td := { s.td with seen := ((typ, id) :: s.td.seen).take 16 } }
  s.xsendAll (s.rolePorts .child ++ s.rolePorts .crossDown) b

/-- SWITCH_PLAN at an eave (R51, R52, R123) (log entry 48). -/
def State.planArrived (s : State) (id : Nat) (target : Dom) (sw : Nat) : State :=
  match serialRebuild s.clk.course sw with
  | none => s.count TD_CNT_RANGE
  | some c =>
    if c < s.clk.course + 16 then State.count { s with td := { s.td with late := true } } TD_CNT_PLAN_LATE
    else s.holdPlan id target c

/-! ### ESMC (R83, R159) -/

/-- ESMC runs on the port. -/
def State.esmcOn (s : State) (p : Nat) : Bool := s.bit (PF_CTL p) 3

/-- An information PDU is due: one per second (R83). -/
def State.esmcDue (s : State) (p : Nat) : Bool :=
  let l := (s.port p).lastSent.get 0 0x100
  s.isUp p && s.esmcOn p && (decide (l = 0) || decide (l + 1000000 ≤ s.clk.ticks + 1))

/-- Send an information PDU when it is due (log entry 36). -/
def State.esmcSend (s : State) (p : Nat) : State :=
  if s.esmcDue p then
    let q := s.qualityOrFree
    (q.1.modPort p fun v => { v with lastSent := v.lastSent.set 0 0x100 (q.1.clk.ticks + 1) }).xsend p (.esmcInfo q.2.2)
  else s

/-- An event PDU on every ESMC port when the quality level changes (R83). -/
def State.esmcBoundary (s : State) : State :=
  match s.quality with
  | some (_, q) =>
    if q = s.rs.qlSent then s
    else
      let s : State := { s with rs := { s.rs with qlSent := q } }
      s.xsendAll (s.portList.filter fun p => s.esmcOn p) (.esmcEvent q)
  | none => s

/-- An ESMC frame up to the point at which it is acted on (R62, R83, R91).  R92 names no counter for an event PDU, nor for a
frame received while ESMC_EN is 0: the model counts both in PF_CNT_DROP (log entry 36). -/
def State.rxEsmc (s : State) (h : RxBase) (event : Bool) : Rx :=
  let r := s.rxBegin h false 0 (0x100 + bnat event) false
  if r.ok = false then r
  else if s.esmcOn h.port = false ∨ (s.port h.port).mismatch ∨ event then .drop (r.s.count (PF_CNT_DROP h.port)) r.stamp
  else if r.s.underlay then .drop r.s r.stamp
  else ⟨r.s, r.stamp, true, 0⟩

/-! ### A port at the boundary -/

/-- The periodic messages of a port in the course that begins. -/
def State.portSends (s : State) (p : Nat) : State :=
  ((((((s.syncSend p).delayReqSend p).delayRespSend p).announceSend p).helloSend p).keepaliveSend p).esmcSend p

/-- A port's work at a boundary with count `t`: constants, the replay timeout, the standalone acknowledgement, an
exchange's time, and what the new course sends (R75, R87, R88, R97, R104, R105). -/
def State.portBoundary (s : State) (p t : Nat) : State :=
  let s := s.applyConstants p
  let s := if s.isUp p ∧ s.replayDue p t then s.replayTimeout p t else s
  let s := (s.sendAck p).exchBoundary p t
  s.portSends p

/-! ### The commands -/

/-- SYNC_SEND (R97). -/
def execSyncSend (p : Nat) (s : State) : Result := s.atPort p fun s => s.syncSend p

/-- SYNC_RECEIVE (R96): originTimestamp and the header's correctionField. -/
def execSyncReceive (h : PtpHead) (origin : WireTime) (s : State) : Result :=
  s.atPort h.port fun s =>
    let r := s.rxPtp h 0x0 44
    if r.ok ∧ (r.s.port h.port).role.isLower then
      r.s.syncArrived h.port h r.stamp (({ origin with frac := 0 } : WireTime).units + h.corr)
    else r.s

/-- DELAY_REQ_SEND (R97). -/
def execDelayReqSend (p : Nat) (s : State) : Result := s.atPort p fun s => s.delayReqSend p

/-- DELAY_REQ_RECEIVE (R96). -/
def execDelayReqReceive (h : PtpHead) (s : State) : Result :=
  s.atPort h.port fun s =>
    let r := s.rxPtp h 0x1 44
    if r.ok ∧ (r.s.port h.port).role.isUpper then r.s.delayReqArrived h.port h r.stamp else r.s

/-- DELAY_RESP_SEND (R97). -/
def execDelayRespSend (p : Nat) (s : State) : Result := s.atPort p fun s => s.delayRespSend p

/-- DELAY_RESP_RECEIVE (R99): receiveTimestamp, the header's correctionField and requestingPortIdentity. -/
def execDelayRespReceive (h : PtpHead) (receive : WireTime) (reqClock reqPort : Nat) (s : State) : Result :=
  s.atPort h.port fun s =>
    let r := s.rxPtp h 0x9 54
    if r.ok ∧ (r.s.port h.port).role.isLower then
      r.s.delayRespArrived h.port h (({ receive with frac := 0 } : WireTime).units - h.corr) reqClock reqPort
    else r.s

/-- ANNOUNCE_SEND (R100). -/
def execAnnounceSend (p : Nat) (s : State) : Result := s.atPort p fun s => s.announceSend p

/-- ANNOUNCE_RECEIVE (R100). -/
def execAnnounceReceive (h : PtpHead) (b : AnnounceBody) (s : State) : Result :=
  s.atPort h.port fun s =>
    let r := s.rxPtp h 0xB 64
    if r.ok ∧ (r.s.port h.port).role.isLower then r.s.announceArrived h.port b else r.s

/-- The pipeline's view of HELLO and KEEPALIVE (R103) (log entry 36). -/
def kHello : RxKind := { typ := 0x01, need := 34, identity := true }
/-- See kHello. -/
def kKeepalive : RxKind := { typ := 0x02, need := 42, identity := true }
/-- SWITCH_PLAN (R103) (log entry 48). -/
def kSwitchPlan : RxKind := { typ := 0x10, need := 34, replayed := true, courseDep := true }
/-- SWITCH_CANCEL (R103). -/
def kSwitchCancel : RxKind := { typ := 0x11, need := 28, replayed := true, courseDep := true }

/-- HELLO_SEND (R104). -/
def execHelloSend (p : Nat) (s : State) : Result := s.atPort p fun s => s.helloSend p

/-- HELLO_RECEIVE (R104). -/
def execHelloReceive (h : RxHead) (b : HelloBody) (s : State) : Result :=
  s.atPort h.port fun s =>
    let r := s.rxZudar h kHello
    if r.ok then (r.s.judgeId h.port h.srcId).judgeRole h.port b.prole else r.s

/-- KEEPALIVE_SEND (R105). -/
def execKeepaliveSend (p : Nat) (s : State) : Result := s.atPort p fun s => s.keepaliveSend p

/-- KEEPALIVE_RECEIVE (R105). -/
def execKeepaliveReceive (h : RxHead) (tx : WireTime) (status te : Nat) (s : State) : Result :=
  s.atPort h.port fun s =>
    let r := s.rxZudar h kKeepalive tx.ok
    if r.ok then r.s.keepaliveArrived h.port h.srcId r.stamp tx.units status te else r.s

/-- SWITCH_PLAN_RECEIVE (R109, R123): PLAN_ID, TARGET and the low 32 bits of SW_COURSE.  A frame whose SW_COURSE lies exactly
half the range away is discarded and counted, and neither acted on nor relayed (R52). -/
def execSwitchPlanReceive (h : RxHead) (id : Nat) (target : Dom) (sw : Nat) (s : State) : Result :=
  s.atPort h.port fun s =>
    let r := s.rxZudar h kSwitchPlan
    if r.ok ∧ (serialRebuild r.s.clk.course sw).isNone then r.s.count TD_CNT_RANGE
    else if r.ok then
      let b := r.s.broadcast h.port 0x10 id (.switchPlan id target sw)
      if b.2 ∧ b.1.isEave then b.1.planArrived id target sw else b.1
    else r.s

/-- SWITCH_CANCEL_RECEIVE (R109, R123). -/
def execSwitchCancelReceive (h : RxHead) (id : Nat) (s : State) : Result :=
  s.atPort h.port fun s =>
    let r := s.rxZudar h kSwitchCancel
    if r.ok then
      let b := r.s.broadcast h.port 0x11 id (.switchCancel id)
      if b.2 ∧ b.1.isEave ∧ (b.1.td.plan.map Plan.id) = some id then b.1.cancelPlan else b.1
    else r.s

/-- ESMC_INFO_RECEIVE (R83, R160). -/
def execEsmcInfoReceive (h : RxBase) (ql : Nat) (s : State) : Result :=
  s.atPort h.port fun s =>
    let r := s.rxEsmc h false
    if r.ok then
      match r.s.candOf h.port with
      | some n => r.s.setCand n { r.s.cand n with qlRx := ql % 16, dnu := decide (ql % 16 = 15) }
      | none => r.s
    else r.s

/-- ESMC_EVENT_RECEIVE (R83). -/
def execEsmcEventReceive (h : RxBase) (s : State) : Result :=
  s.atPort h.port fun s => (s.rxEsmc h true).s

/-- ESMC_INFO_SEND (R83). -/
def execEsmcInfoSend (p : Nat) (s : State) : Result := s.atPort p fun s => s.esmcSend p

end Sys2Proof.Machine
end

