-- ==== Sys2Proof/Machine/Pulse.lean ====
section
/-! DEFINITION. Sys2Proof/Machine/Pulse.lean: the eight pulse outputs with their calibration and tracking, the freeze
line, and the pending hall-wide events (R246 to R251 of spec/09_step_sequencer.md). -/
namespace Sys2Proof.Machine
open Sys2Proof.Config

/-- A pulse output. -/
def State.pulse (s : State) (n : Nat) : PulseOut := s.ev.pulses.get {} n
/-- Replace a pulse output. -/
def State.setPulse (s : State) (n : Nat) (v : PulseOut) : State :=
  { s with ev := { s.ev with pulses := s.ev.pulses.set {} n v } }
/-- Change a pulse output. -/
def State.modPulse (s : State) (n : Nat) (f : PulseOut → PulseOut) : State := s.setPulse n (f (s.pulse n))

/-- SQ_Pn_CFG.EN. -/
def State.pulseEn (s : State) (n : Nat) : Bool := s.bit (SQ_Pn_CFG n) 31
/-- SQ_Pn_CFG.PER. -/
def State.pulsePer (s : State) (n : Nat) : Bool := s.bit (SQ_Pn_CFG n) 30
/-- SQ_Pn_CFG.TRACK (log entry 46). -/
def State.pulseTrack (s : State) (n : Nat) : Bool := s.bit (SQ_Pn_CFG n) 29
/-- SQ_Pn_CFG.WIDTH in force. -/
def State.pulseWidth (s : State) (n : Nat) : Nat := max 1 (s.fl (SQ_Pn_CFG n) 8 8)
/-- SQ_Pn_PERIOD in force. -/
def State.pulsePeriod (s : State) (n : Nat) : Nat := max 1 (s.rd (SQ_Pn_PERIOD n))
/-- The next periodic target in 2^-16 ns. -/
def State.pulseNext (s : State) (n : Nat) : Int := ((s.rd (SQ_Pn_NEXT n) * 65536 + s.fl (SQ_Pn_NEXT_FRAC n) 0 16 : Nat) : Int)

/-- NEXT advances by a number of whole periods. -/
def State.pulseAdvance (s : State) (n k : Nat) : State :=
  s.wr (SQ_Pn_NEXT n) ((s.rd (SQ_Pn_NEXT n) + 1000 * s.pulsePeriod n * k) % 2 ^ 64)

/-- NEXT advances by whole periods until its course is not below `c` (R248) (log entry 46). -/
def State.pulseCatchUp (s : State) (n c : Nat) : State :=
  let at_ := courseOf (s.pulseNext n)
  if at_ < c then s.pulseAdvance n (ceilDiv (c - at_) (s.pulsePeriod n)) else s

/-- A pulse is dropped: counted and reported (R248, R398) (log entry 46). -/
def State.dropPulse (s : State) (k : Nat := 1) : State :=
  if k = 0 then s else (s.count SQ_CNT_PLS_DROP k).raise 30

/-- The cases in which a one-shot pulse is dropped (R248). -/
def State.pulseRefused (s : State) (n : Nat) (target : Int) (cur : Nat) : Bool :=
  !s.td.acq || decide (courseOf target < cur + 2) || decide (4 ≤ (s.pulse n).pending.length) || s.pulsePer n || !s.pulseEn n

/-- A request goes into a list kept in order of target, after those of the same target. -/
def insertPulse (l : List PulseReq) (r : PulseReq) : List PulseReq :=
  match l with
  | [] => [r]
  | q :: rest => if r.target < q.target then r :: q :: rest else q :: insertPulse rest r

/-- A one-shot pulse, with the course number that counts as the present one (R248) (log entry 46). -/
def State.addPulse (s : State) (n : Nat) (r : PulseReq) (cur : Nat) : State :=
  if s.pulseRefused n r.target cur then s.dropPulse
  else s.modPulse n fun v => { v with pending := insertPulse v.pending { r with width := max 1 r.width } }

/-- Where a pulse rises: the timing cycle since the epoch, and the vernier setting (R246). -/
def State.pulsePlace (s : State) (n : Nat) (target : Int) : Int × Nat :=
  let e := target - toSigned 32 (s.rd (SQ_Pn_DELAY n)) - (s.pulse n).drv
  let g := 5 * e / cycleFifths
  let v := (roundDiv (5 * e % cycleFifths) 512).toNat
  if v = 1024 then (g + 1, 0) else (g, v)

/-- A pulse rises in the running course (R246, R247). -/
def State.pulseRise (s : State) (n : Nat) (target : Int) (width : Nat) : State :=
  let p := s.pulsePlace n target
  let g := p.1.toNat
  let s := s.atCyc (g - s.clk.course * 625)
  let s := (((s.emit (.pulse n g p.2 width)).evt 4).count (SQ_Pn_CNT n)).modPulse n fun v => { v with
    fall := s.clk.ticks * 625 + (g - s.clk.course * 625) + width
    expect := if s.pulseTrack n then some (target - toSigned 32 (s.rd (SQ_Pn_DELAY n))) else none }
  s

/-- After a periodic pulse NEXT advances, COUNT falls, and the mode ends when COUNT reaches 0 (R248). -/
def State.periodicNext (s : State) (n : Nat) : State :=
  let s := s.pulseAdvance n 1
  if (s.pulse n).unlimited then s
  else
    let k := s.rd (SQ_Pn_COUNT n) - 1
    let s := s.wr (SQ_Pn_COUNT n) k
    if k = 0 then s.wrFld (SQ_Pn_CFG n) 30 1 0 else s

/-- The next pulse of an output, one-shot or periodic, if it rises by the end of the running course: it is emitted;
one whose place has already passed is dropped, and a periodic one is passed over (log entry 46). -/
def State.pulseEmit (s : State) (n : Nat) : State :=
  if s.pulseEn n = false ∨ s.td.acq = false then s
  else
    let lo : Int := s.clk.course * 625
    if s.pulsePer n then
      let g := (s.pulsePlace n (s.pulseNext n)).1
      if lo + 625 ≤ g then s
      else if g < lo then s.pulseAdvance n 1
      else (s.pulseRise n (s.pulseNext n) (s.pulseWidth n)).periodicNext n
    else
      match (s.pulse n).pending with
      | [] => s
      | r :: rest =>
        let g := (s.pulsePlace n r.target).1
        if lo + 625 ≤ g then s
        else
          let s := s.modPulse n fun v => { v with pending := rest }
          if g < lo then s.dropPulse else s.pulseRise n r.target r.width

/-- What is left to emit in the course that ends: at most 5 pulses of each output. -/
def State.pulsesLeft (s : State) : State :=
  s.each (List.range 8) fun s n => s.each (List.range 5) fun s _ => s.pulseEmit n

/-! ### Calibration and tracking (R247) -/

/-- Calibration pulses have ended: DRV takes the mean of the delays measured; without one it is open
(log entries 46 and 59). -/
def State.pulseCalDone (s : State) (n : Nat) : State :=
  let v := s.pulse n
  if v.cal ∧ v.calLeft = 0 then
    if v.calN = 0 then
      let r := s.drawFree
      r.1.setPulse n { v with cal := false, calAt := none, drv := r.2 % 2 ^ 32 }
    else s.setPulse n { v with
      cal := false, calAt := none, drv := (roundDiv v.calSum v.calN).toNat % 2 ^ 32 }
  else s

/-- One calibration pulse per course, 8 timing cycles wide, at the tick that begins the course of `s.clk`. -/
def State.pulseCalTick (s : State) (n : Nat) : State :=
  let v := s.pulse n
  if v.cal = false then s
  else if v.calLeft = 0 then s.pulseCalDone n
  else
    (s.emit (.pulse n (s.clk.course * 625) 0 8)).setPulse n { v with
      calLeft := v.calLeft - 1, calAt := some ((s.clk.course : Int) * courseUnits), fall := s.clk.ticks * 625 + 8 }

/-- The feedback converter times the edge of a pulse at the output port (R247). -/
def State.pulseFeedback (s : State) (n : Nat) (t : Int) : State :=
  let v := s.pulse n
  match v.calAt with
  | some a => s.setPulse n { v with calAt := none, calSum := v.calSum + (t - a), calN := v.calN + 1 }
  | none =>
    match v.expect with
    | some x =>
      let e := t - x
      s.setPulse n { v with
        expect := none, err := clampS 32 e, drv := (clampI 0 0xFFFFFFFF ((v.drv : Int) + e / 16)).toNat }
    | none => s

/-! ### Writes of SQ_Pn_CFG (R247, R248) -/

/-- Every pending one-shot pulse of an output is dropped. -/
def State.dropPending (s : State) (n : Nat) : State :=
  (s.dropPulse (s.pulse n).pending.length).modPulse n fun v => { v with pending := [] }

/-- A write of SQ_Pn_CFG: a rise of EN starts calibration, a rise of PER sets periodic mode up (log entry 46). -/
def State.pulseCfgWrite (s : State) (n v : Nat) : State :=
  let en := s.pulseEn n
  let per := s.pulsePer n
  let s := s.wr (SQ_Pn_CFG n) v
  let s := if s.pulseEn n ∧ en = false then
      s.modPulse n fun p => { p with cal := true, calLeft := 256, calAt := none, calSum := 0, calN := 0, expect := none }
    else if s.pulseEn n = false ∧ en then
      (s.dropPending n).modPulse n fun p => { p with cal := false, calAt := none, expect := none }
    else s
  if s.pulsePer n ∧ per = false then
    ((s.dropPending n).modPulse n fun p => { p with unlimited := decide (s.rd (SQ_Pn_COUNT n) = 0) }).pulseCatchUp n
      (s.clk.course + 2)
  else s

/-- At acquisition, and at a step, NEXT of every periodic output catches up (R248). -/
def State.pulsesCatchUp (s : State) : State :=
  s.each (List.range 8) fun s n => if s.pulsePer n then s.pulseCatchUp n (s.clk.course + 2) else s

/-! ### Freezes (R249) -/

/-- SQ_FRZ_CFG.WIDTH in force. -/
def State.freezeWidth (s : State) : Nat := max 1 (s.fl SQ_FRZ_CFG 0 8)

/-- The first timing edge at or after a time in 2^-16 ns, in cycles since the epoch. -/
def gridAtOrAfter (t : Int) : Nat := (-(-(5 * t) / cycleFifths)).toNat

/-- A freeze is dropped (R249, R398). -/
def State.dropFreeze (s : State) : State := (s.count SQ_CNT_FRZ_DROP).raise 30

/-- A request goes into a list kept in order of rise. -/
def insertFreeze (l : List FreezeReq) (r : FreezeReq) : List FreezeReq :=
  match l with
  | [] => [r]
  | q :: rest => if r.rise < q.rise then r :: q :: rest else q :: insertFreeze rest r

/-- The rise of the freeze before a given one: the last pending one not after it, or the last emitted. -/
def State.freezeBefore (s : State) (rise : Nat) : Option Nat :=
  s.ev.freezes.foldl (fun m r => if r.rise ≤ rise then some r.rise else m) s.ev.lastRise

/-- A freeze, with the course number that counts as the present one (R41, R249). -/
def State.addFreeze (s : State) (target : Int) (id : Nat) (src : ArmSrc) (cur : Nat) : State :=
  let rise := gridAtOrAfter target
  let near : Bool := match s.freezeBefore rise with
    | some b => decide (rise < b + s.freezeWidth + 16)
    | none => false
  if s.td.acq = false ∨ courseOf target < cur + 2 ∨ 4 ≤ s.ev.freezes.length ∨ near then s.dropFreeze
  else { s with ev := { s.ev with freezes := insertFreeze s.ev.freezes { rise := rise, id := id % 65536, src := src, target := target } } }

/-- A rise lies less than WIDTH + 16 timing cycles after the last freeze. -/
def State.freezeNear (s : State) (rise : Nat) : Bool :=
  match s.ev.lastRise with
  | some b => decide (rise < b + s.freezeWidth + 16)
  | none => false

/-- The next freeze rises if its edge lies in the running course; one that an earlier freeze, accepted after it, has come
too near is dropped (R249) (log entry 47). -/
def State.freezeEmit (s : State) : State :=
  match s.ev.freezes with
  | [] => s
  | r :: rest =>
    if (s.clk.course + 1) * 625 ≤ r.rise then s
    else if s.freezeNear r.rise then ({ s with ev := { s.ev with freezes := rest } } : State).dropFreeze
    else
      let s := s.atCyc (r.rise - s.clk.course * 625)
      State.evt { s with
        ev := { s.ev with
          freezes := rest, lastRise := some r.rise, frzSeq := (s.ev.frzSeq + 1) % 2 ^ 32
          frzLast := r.rise / 625, frzId := r.id }
        out := .freezeRise r.id s.freezeWidth :: s.out } 5

/-- What is left to emit in the course that ends. -/
def State.freezesLeft (s : State) : State := s.each (List.range 4) fun s _ => s.freezeEmit

/-- Pending freezes are dropped and counted at entry into Underlay mode (R253). -/
def State.freezesDropped (s : State) : State :=
  State.count { s with ev := { s.ev with freezes := [] } } SQ_CNT_FRZ_DROP s.ev.freezes.length

/-- Pulses and freezes of one source are cancelled (R237, R250). -/
def State.cancelArmed (s : State) (src : ArmSrc) : State :=
  { s with ev := { s.ev with
    freezes := s.ev.freezes.filter fun r => r.src ≠ src
    pulses := s.ev.pulses.foldl (fun m e => m.set {} e.1 { e.2 with pending := e.2.pending.filter fun r => r.src ≠ src }) [] } }

/-! ### Events (R250, R251) -/

/-- A kind of R250. -/
def eventKind (k : Nat) : Bool := decide (1 ≤ k) && decide (k ≤ 5)

/-- An event is scheduled: a FREEZE or a PULSE takes its place on the line or the outputs at once (R250)
(log entry 47). -/
def State.schedule (s : State) (e : EventRec) : State :=
  let s := { s with ev := { s.ev with events := s.ev.events ++ [e] } }
  if e.kind = 1 then s.addFreeze e.target (e.arg % 65536) (.event e.id e.target) s.clk.course
  else if e.kind = 2 then
    s.each ((List.range 8).filter fun n => bitOf e.arg n) fun s n =>
      s.addPulse n { target := e.target, width := field e.arg 8 8, src := .event e.id e.target } s.clk.course
  else s

/-- Kind CANCEL removes the pending event with its EVENT_ID (R250) (log entry 47). -/
def State.cancelEvent (s : State) (id : Nat) : State :=
  match s.ev.events.find? fun e => e.id = id % 2 ^ 32 with
  | some e => ({ s with ev := { s.ev with events := s.ev.events.erase e } } : State).cancelArmed (.event e.id e.target)
  | none => s

/-- An event on receipt (R250, R251) (log entry 47). -/
def State.takeEvent (s : State) (e : EventRec) : State :=
  if eventKind e.kind = false then s.count SQ_CNT_EVT_DROP
  else if e.kind = 5 then s.cancelEvent e.arg
  else if s.isRidge ∧ 3 ≤ e.kind then s
  else if courseOf e.target < s.clk.course + 2 then (s.count SQ_CNT_EVT_LATE).raise 19
  else if 16 ≤ s.ev.events.length then (s.count SQ_CNT_EVT_DROP).raise 19
  else s.schedule e

/-- Events whose course lies before course `nc` are no longer pending (log entry 47). -/
def State.expireEvents (s : State) (nc : Nat) : State :=
  { s with ev := { s.ev with events := s.ev.events.filter fun e => decide (nc ≤ courseOf e.target) } }

end Sys2Proof.Machine
end

