-- ==== Sys2Proof/Machine/Interval.lean ====
section
/-! DEFINITION. Sys2Proof/Machine/Interval.lean: converters and their calibration, timed pins, arming and aborting a
measurement, the claim of `port.calibrate`, and the compatibility window (spec/08_interval_unit.md, R79, R106). -/
namespace Sys2Proof.Machine
open Sys2Proof.Config

/-! ### Arming (R217, R227) -/

/-- A source code of R217 that may stop a shot. -/
def stopCode (c : Nat) : Bool :=
  decide (c ≤ 0x0D) || (decide (0x10 ≤ c) && decide (c ≤ 0x18)) || (decide (0x1C ≤ c) && decide (c ≤ 0x21))
/-- A source code of R217 that may start a shot. -/
def startCode (c : Nat) : Bool := stopCode c || decide (c = 0x19) || decide (c = 0x1A)

/-- IM_N in force. -/
def State.imN (s : State) : Nat := max 1 (min 16777216 (s.fl IM_N 0 25))

/-- The measurement that the IM_ registers describe (log entry 50). -/
def State.measCfg (s : State) : MeasCfg :=
  { src := s.fl IM_START_CFG 0 8, edge := s.fl IM_START_CFG 8 2, port := s.fl IM_PORT 0 9, n := s.imN, at_ := s.rd IM_START_AT
    slots := ((List.range 8).filter fun k => s.bit (IM_Sk_CFG k) 31).map fun k =>
      { k := k, src := s.fl (IM_Sk_CFG k) 0 8, edge := s.fl (IM_Sk_CFG k) 8 2, n := max 1 (s.rd (IM_Sk_EDGE_N k))
        lo := s.rd (IM_Sk_WIN_LO k), hi := if s.rd (IM_Sk_WIN_HI k) = 0 then 2 ^ 32 else s.rd (IM_Sk_WIN_HI k) } }

/-- Compatibility mode is selected. -/
def State.compat (s : State) : Bool := s.bit IM_CTL 4

/-- The engine is armed or running. -/
def State.imBusy (s : State) : Bool := decide (s.im.st = .armed) || decide (s.im.st = .running)

/-- An arm succeeds (R227). -/
def State.armOk (s : State) : Bool :=
  let c := s.measCfg
  !s.imBusy && !s.compat && s.im.claim.isNone && s.im.calReady && startCode c.src && (c.slots.all fun r => stopCode r.src) &&
    decide (c.port < s.nPorts) &&
    (decide (c.src ≠ 0x19) || (decide (c.n = 1) && decide (s.nowUnits + courseUnits ≤ (c.at_ : Int) * 65536)))

/-- A measurement starts: every statistic, the raw FIFO and the count of shots are cleared. -/
def State.startMeas (s : State) (c : MeasCfg) : State :=
  { s with im := { s.im with
    st := .armed, reason := 0, convFail := false, cfg := c, shots := 0, start0 := 0, shot := none, ended := none
    recent := [], stats := [], raw := [], claimDone := false } }

/-- A write of IM_CTL.ARM (R227) (log entry 50). -/
def State.imArm (s : State) : State :=
  if s.armOk then (s.openGate 6).startMeas s.measCfg else { s with im := { s.im with armErr := true } }

/-- A write of IM_CTL.ABORT (R223). -/
def State.imAbort (s : State) : State := s.abortShots 1

/-- A write of IM_CTL.GO gives one software start at the present timing edge (R217). -/
def State.imGo (s : State) : State := s.shotEdge 0x1A false s.nowUnits true

/-- A write of IM_CTL.MODE, ignored while ARMED or RUNNING; the DLL runs only in compatibility mode (R223, R225). -/
def State.imMode (s : State) (on : Bool) : State :=
  if s.imBusy ∨ s.compat = on then s
  else (({ s with im := { s.im with zc := {} } } : State).openGate 7).wrFld IM_CTL 4 1 (bnat on)

/-- A write of IM_CTL: the stored fields first, then ABORT, ARM and GO. -/
def State.imCtlWrite (s : State) (v : Nat) : State :=
  let s := (s.wrFld IM_CTL 5 1 (bnat (bitOf v 5))).imMode (bitOf v 4)
  let s := if bitOf v 2 then s.imAbort else s
  let s := if bitOf v 1 then s.imArm else s
  if bitOf v 3 then s.imGo else s

/-- The timed start: the first timing edge at or after IM_START_AT, in 2^-16 ns, with its time in cycles (R217). -/
def MeasCfg.timedCycle (c : MeasCfg) : Nat := ceilDiv (c.at_ * 327680) 524288

/-- The timed start takes place once its timing edge has come, up to a cycle count since the epoch. -/
def State.timedStart (s : State) (upTo : Nat) : State :=
  let k := s.im.cfg.timedCycle
  if s.im.st = .armed ∧ s.im.cfg.src = 0x19 ∧ k ≤ upTo then s.shotEdge 0x19 false (toUnits ((k : Int) * cycleFifths)) true
  else s

/-! ### port.calibrate (R79, R224) -/

/-- The measurement of `port.calibrate` (log entry 50). -/
def calMeas (p n : Nat) : MeasCfg :=
  { src := 0x20, port := p, n := n, slots := [{ k := 0, src := 0x21, edge := 0, n := 1, lo := 0, hi := 2500 }] }

/-- `port.calibrate` claims the engine (log entry 50). -/
def State.claimEngine (s : State) (p n : Nat) : State :=
  let s := s.startMeas (calMeas p n)
  (({ s with im := { s.im with claim := some p } } : State)).modPort p fun v => { v with cal := { v.cal with running := true } }

/-- The loop measurement has ended: the results of slot 0 are copied and the engine is released. -/
def State.calibrateFinish (s : State) : State :=
  match s.im.claim with
  | some p =>
    if s.im.claimDone then
      let v := s.im.stats.get {} 0
      (({ s with im := { s.im with claim := none, claimDone := false } } : State)).modPort p fun q => { q with
        cal := { running := false, n := v.n, lost := v.missed, mean := v.mean, sdev := v.sdev } }
    else s
  | none => s

/-- One calibration frame per course (R79). -/
def State.calFrame (s : State) : State :=
  match s.im.claim with
  | some p => if s.im.claimDone then s else s.xsend p (.cal (s.im.shots % 2 ^ 32))
  | none => s

/-! ### The compatibility window (R225, R228) -/

/-- ZC_CTL.START_SRC and STOP_SRC in force. -/
def State.zcStartSrc (s : State) : Nat := let c := s.fl ZC_CTL 4 4; if c ≤ 9 then c else 0
/-- See zcStartSrc. -/
def State.zcStopSrc (s : State) : Nat := let c := s.fl ZC_CTL 8 4; if c ≤ 8 then c else 0
/-- ZC_TMO in force. -/
def State.zcTmo (s : State) : Nat := max 1 (s.fl ZC_TMO 0 24)

/-- The timing edge that samples an event, and the taps it has travelled by then (log entry 51). -/
def zcSample (cyc code : Nat) : Nat × Nat :=
  if code = 0 then (cyc, 0) else (cyc + 1, ((4096 - code) * 160) / 4096)

/-- Replace the compatibility unit. -/
def State.setZc (s : State) (z : ZcUnit) : State := { s with im := { s.im with zc := z } }

/-- The shot ends with TIMEOUT. -/
def State.zcTimeoutEnd (s : State) : State :=
  s.setZc { s.im.zc with armed := false, start := none, done := false, timeout := true }

/-- No stop has come within ZC_TMO timing cycles of the start (R225) (log entry 51). -/
def State.zcTimeout (s : State) (now : Nat) : State :=
  match s.im.zc.start with
  | some (c, _) => if c + s.zcTmo < now then s.zcTimeoutEnd else s
  | none => s

/-- An event of a source of the delay line, sampled at a timing edge with a fine count (log entry 51). -/
def State.zcEvent (s : State) (src : Nat) (falling : Bool) (cyc fine : Nat) : State :=
  let z := s.im.zc
  if s.compat = false ∨ z.armed = false then s
  else
    match z.start with
    | none =>
      if src = s.zcStartSrc ∧ (src = 8 ∨ src = 9 ∨ falling = s.bit ZC_CTL 12) then
        s.setZc { z with start := some (cyc, fine) }
      else s
    | some (c, f) =>
      if src = s.zcStopSrc ∧ (src = 8 ∨ falling = s.bit ZC_CTL 13) then
        if c + s.zcTmo < cyc then s.zcTimeoutEnd
        else s.setZc { z with
          armed := false, start := none, done := true, timeout := false
          coarse := cyc - c, fineStart := f, fineStop := fine
          result := min 0xFFFFFFFF ((cyc - c) * 160 + f - fine) }
      else s

/-- Arm one compatibility shot; a software start comes at the write itself (R225, R228) (log entry 51). -/
def State.zcArm (s : State) : State :=
  let s := s.setZc { s.im.zc with armed := true, held := false, start := none }
  if s.zcStartSrc = 9 then s.zcEvent 9 false (s.absCyc s.clk.cyc) 0 else s

/-- ZC_CTL.START: held until the delay line is locked (log entry 51). -/
def State.zcStart (s : State) : State :=
  if s.compat = false ∨ s.im.zc.armed then s
  else if s.im.zc.lock then s.zcArm
  else s.setZc { s.im.zc with held := true }

/-- ZC_CTL.CLR (log entry 51). -/
def State.zcClr (s : State) : State :=
  if s.compat then
    s.setZc { lock := s.im.zc.lock, code := s.im.zc.code }
  else s

/-- A write of ZC_CTL: no effect outside compatibility mode (R228). -/
def State.zcCtlWrite (s : State) (v : Nat) : State :=
  if s.compat then
    let s := s.wr ZC_CTL v
    let s := if bitOf v 1 then s.zcClr else s
    if bitOf v 0 then s.zcStart else s
  else s

/-! ### Pins (R210, R211) -/

/-- The source code of a pin (R208, R217). -/
def pinSrc (pin : Nat) : Nat := if pin ≤ 13 then pin else pin + 2

/-- An edge on a timed input (log entry 59). -/
def State.pinEdge (s : State) (pin : Nat) (falling : Bool) (e : Edge) : State :=
  if 22 ≤ pin ∨ pin ∈ s.im.padRun then s
  else
    let s := s.atCyc e.cyc
    let now := s.absCode e
    let close := match s.im.lastEdge.get none pin with
      | some l => decide (now < l + 8192)
      | none => false
    let t := toUnits (s.edgeFifths e - 5 * (if pin ≤ 13 then (s.padOf pin : Int) + toSigned 32 (s.rd (IM_INn_DELAY pin)) else 0))
    let s := if close then s.count IM_CNT_CLOSE
      else { s with im := { s.im with lastEdge := s.im.lastEdge.set none pin (some now) } }
    let s := s.shotEdge (pinSrc pin) falling t (!close && s.pinTimed pin)
    if 14 ≤ pin then (if falling = false ∧ close = false ∧ s.pinTimed pin then s.pulseFeedback (pin - 14) t else s)
    else if pin ≤ 7 then
      let z := zcSample (s.absCyc e.cyc) e.code
      s.zcEvent pin falling z.1 z.2
    else s

/-! ### Converters (R212 to R216) -/

/-- The pin whose converter serves a source code. -/
def srcPin (src : Nat) : Option Nat :=
  if src ≤ 13 then some src else if 0x10 ≤ src ∧ src ≤ 0x17 then some (src - 2) else none

/-- The converter of the start source (R223); that of a recovered clock is the port's receive converter (log entry 50). -/
def State.startConv (s : State) : Option Nat :=
  let src := s.im.cfg.src
  match srcPin src with
  | some p => some p
  | none =>
    if src = 0x20 then some (convTx s.im.cfg.port)
    else if src = 0x21 then some (convRx s.im.cfg.port)
    else if 0x1C ≤ src ∧ src ≤ 0x1F then (s.slotPort (src - 0x16)).map convRx
    else none

/-- A ramp fails calibration (R212): its span differs from nominal by more than 20 %, an output code had no hit, or a
known-interval residual exceeds 2 ps. -/
def RampCal.fails (r : RampCal) : Bool :=
  decide (65536 < 5 * mag ((r.span : Int) - 65536)) || decide (r.codes < 4096) || decide (20 < r.residual)

/-- The largest known-interval residual of some ramps: IM_CAL_STAT.INL (R212). -/
def inlOf (l : List RampCal) : Nat := min 255 (l.foldl (fun m r => max m r.residual) 0)

/-- A ramp of a converter fails calibration (R215, R223) (log entry 50). -/
def State.rampFails (s : State) (c : Nat) : State :=
  let k := min 2 (s.im.ramps.get 0 c + 1)
  let start := decide (s.startConv = some c)
  State.raise { s with im := { s.im with
    ramps := s.im.ramps.set 0 c k
    convFail := s.im.convFail || (decide (k = 2) && start && decide (s.im.st = .running)) } } 14

/-- Converters that have a spare to swap: pins, and the ports that are enabled (R214, R215). -/
def State.spareCount (s : State) : Nat :=
  let pins := (List.range 22).filter fun c => s.im.ramps.get 0 c = 0
  let ports := ((List.range s.nPorts).filter fun p => s.enabled p).map fun p =>
    bnat (decide (s.im.ramps.get 0 (convTx p) = 0)) + bnat (decide (s.im.ramps.get 0 (convRx p) = 0))
  pins.length + ports.sum

/-- 2^IM_CAL_CFG.PERIOD. -/
def State.calPeriod (s : State) : Nat :=
  let k := s.fl IM_CAL_CFG 0 5
  2 ^ (if 16 ≤ k ∧ k ≤ 30 then k else 20)

/-- A REFIN or PPSIN pin whose candidate is under observation or qualified is skipped by PAD_RECAL (R216). -/
def State.padSkips (s : State) (pin : Nat) : Bool :=
  let st := (s.cand (pin - 8)).st
  decide (8 ≤ pin) && (decide (st = .qualifying) || decide (st = .qualified))

/-- A write of IM_CAL_CFG (R216). -/
def State.imCalCfgWrite (s : State) (v : Nat) : State :=
  let s := s.wr IM_CAL_CFG v
  if bitOf v 8 then { s with im := { s.im with padPend := true } } else s

/-- The interval unit at the tick that begins the course of `s.clk` (log entry 50). -/
def State.imBoundary (s : State) : State :=
  let t := s.nowUnits
  let abs := s.absCyc 0
  let s := ((s.timedStart (s.clk.course * 625)).shotTime t).shotEdge 0x18 false t true
  let s := (s.zcTimeout abs).zcEvent 8 false abs 0
  let pins := if s.im.padPend then (List.range 14).filter fun n => !s.padSkips n else []
  let n := if s.im.swapPend then s.spareCount else 0
  let s : State := { s with im := { s.im with
    padPend := false, padRun := pins, swapPend := false, gen := (s.im.gen + n) % 65536 } }
  (s.count IM_CNT_CALSWAP n).calFrame

/-- The first recovered-clock edges of the course that begins, at the ports that time them (R81), and the sources 0x1C to 0x1F
that they give the shot engine, in order of time (R217) (log entries 50 and 59). -/
def State.takeClocks (s : State) (l : List PortEdge) : State :=
  let l := (l.filter fun r => decide (r.port < s.nPorts) && s.rclkTimed r.port).map fun r => (r.port, s.edgeFifths r.edge)
  let due := [6, 7, 8, 9].filterMap fun n =>
    (s.slotPort n).bind fun p => (l.find? fun e => e.1 = p).map fun e => (0x16 + n, toUnits e.2)
  { s with im := { s.im with rclk := l, clkDue := sortBy (fun a b => decide (a.2 ≤ b.2)) due } }

/-! ### The commands -/

/-- The ramps of a list that failed their calibration, each at its converter. -/
def State.rampsFail (s : State) (l : List RampCal) : State := s.each ((l.filter RampCal.fails).map RampCal.conv) State.rampFails

/-- CONVERTER_CAL_READY (R213): what the calibration of ramps at reset has shown; it is complete on some converters, or on all of
them, which sets IM_STAT.CAL_READY. -/
def execConverterCalReady (ramps : List RampCal) (part : Option (List Nat)) (s : State) : Result :=
  s.main fun s =>
    if s.im.calReady then s
    else
      let s : State := { s with im := { s.im with inl := max s.im.inl (inlOf ramps) } }
      let s := s.rampsFail ramps
      match part with
      | some l => { s with im := { s.im with calDone := (s.im.calDone ++ l).eraseDups } }
      | none => { s with im := { s.im with calReady := true, calDone := [], padPend := true, calTick := s.clk.ticks } }

/-- PAD_MEASUREMENT (R216): the delays measured in the running course. -/
def execPadMeasurement (vals : List (Nat × Nat)) (s : State) : Result :=
  s.main fun s => vals.foldl (fun s v =>
    if v.1 ∈ s.im.padRun then { s with im := { s.im with pad := s.im.pad.set 0 v.1 (v.2 % 2 ^ 32) } } else s) s

/-- RAMP_CALIBRATION (R214): due once every 2^PERIOD courses; what the calibration of the spare ramps has shown, with code density
taken over a number of monitor edges, 2^16 or more (R212). -/
def execRampCalibration (ramps : List RampCal) (edges : Nat) (s : State) : Result :=
  s.main fun s =>
    if s.im.calReady ∧ s.im.calTick + s.calPeriod ≤ s.clk.ticks ∧ 65536 ≤ edges then
      let l := ramps.filter fun r => decide (s.im.ramps.get 0 r.conv = 0)
      State.rampsFail { s with im := { s.im with inl := inlOf l, swapPend := true, calTick := s.clk.ticks } } l
    else s

/-- PIN_EDGE (R210, R211). -/
def execPinEdge (pin : Nat) (falling : Bool) (e : Edge) (s : State) : Result := s.main fun s => s.pinEdge pin falling e

/-- TIMED_START (R217): it takes place in the running course. -/
def execTimedStart (s : State) : Result := s.main fun s => s.timedStart (s.clk.course * 625 + 624)

/-- SHOT_WINDOW_CLOSE (R218), at a timing cycle of the running course. -/
def execShotWindowClose (cyc : Nat) (s : State) : Result :=
  s.main fun s =>
    let s := s.atCyc cyc
    s.shotTime s.nowUnits

/-- A read of IM_Sk_COUNT latches the slot's statistics for the master (R221). -/
def State.latchStat (s : State) (m : Master) (k : Nat) : State :=
  { s with im := { s.im with latch := s.im.latch.put m ((s.im.latch.get m).set {} k (s.im.stats.get {} k)) } }

/-- A read of IM_RAW_LO pops the oldest raw record into the master's latch (R222). -/
def State.popRaw (s : State) (m : Master) : State :=
  { s with im := { s.im with raw := s.im.raw.tail, rawLatch := s.im.rawLatch.put m (s.im.raw.headD {}) } }

/-- ZC_DLL_LOCK (R225): a held START is released. -/
def execZcDllLock (s : State) : Result :=
  s.main fun s =>
    if s.compat ∧ s.im.zc.lock = false then
      let r := s.drawFree
      let s := r.1.setZc { r.1.im.zc with lock := true, code := r.2 % 256 }
      if s.im.zc.held then s.zcArm else s
    else s

/-- ZC_TIMEOUT (R225), at a timing cycle of the running course. -/
def execZcTimeout (cyc : Nat) (s : State) : Result :=
  s.main fun s => if s.compat then (s.atCyc cyc).zcTimeout (s.absCyc cyc) else s

/-- The pipeline's view of CAL (R103, R106): accepted only while the port is being calibrated. -/
def kCal : RxKind := { typ := 0x06, need := 40, identity := true }

/-- CAL_FRAME_RECEIVE (R79, R106): accepted while the measurement runs, when its receive mark has been the shot's
stop; otherwise it is discarded.  R92 names no counter for a calibration frame on a port that is not calibrating: the model
counts it in PF_CNT_DROP (log entry 36). -/
def execCalFrameReceive (h : RxHead) (tx : WireTime) (s : State) : Result :=
  s.atPort h.port fun s =>
    if (s.port h.port).cal.running then (s.rxZudar h kCal tx.ok).s
    else
      let r := s.rxBegin h.toRxBase true h.seq 0x06 true
      if r.ok then (r.s.heldGone h.port h.mark).count (PF_CNT_DROP h.port) else r.s

end Sys2Proof.Machine
end

