-- ==== Sys2Proof/Machine/Seq.lean ====
section
/-! DEFINITION. Sys2Proof/Machine/Seq.lean: the step sequencer: program store, states, digest and divergence, the
burst at a boundary, launches and their reports, events (R229 to R245, R250 to R254 of spec/09_step_sequencer.md). -/
namespace Sys2Proof.Machine
open Sys2Proof.Config

/-! ### CRC-64 (R230) -/

/-- The ECMA-182 polynomial. -/
def crcPoly : Nat := 0x42F0E1EBA9EA3693

/-- One bit of the CRC. -/
def crcBit (c : Nat) : Nat := if 2 ^ 63 ≤ c then (c * 2 % 2 ^ 64) ^^^ crcPoly else c * 2

/-- One byte of the CRC. -/
def crcByte (c b : Nat) : Nat :=
  crcBit (crcBit (crcBit (crcBit (crcBit (crcBit (crcBit (crcBit (c ^^^ (b % 256 * 2 ^ 56)))))))))

/-- The CRC of bytes, from an initial value. -/
def crcBytes (c : Nat) (l : List Nat) : Nat := l.foldl crcByte c

/-- The CRC fed with a 64-bit word as 8 little-endian bytes. -/
def crcWord (c w : Nat) : Nat := crcBytes c (leBytes 8 w)

/-! ### Registers and store -/

/-- Change the sequencer. -/
def State.setSq (s : State) (v : SeqUnit) : State := { s with sq := v }

/-- A general register. -/
def State.g (s : State) (k : Nat) : Nat := s.sq.g.get 0 (k % 16)
/-- A register is agreed (R234). -/
def State.gAgreed (s : State) (k : Nat) : Bool := s.sq.agreed.getLsbD (k % 16)
/-- Write a register with its attribute. -/
def State.setG (s : State) (k v : Nat) (agreed : Bool) : State :=
  let bit := BitVec.ofNat 16 (2 ^ (k % 16))
  s.setSq { s.sq with
    g := s.sq.g.set 0 (k % 16) (v % 2 ^ 64)
    agreed := if agreed then s.sq.agreed ||| bit else s.sq.agreed &&& ~~~bit }

/-- A word of the program store. -/
def State.word (s : State) (i : Nat) : Nat := (s.sq.store.get 0 i).toNat

/-- SQ_PROG_CRC over words 0 to LEN − 1 (R230). -/
def State.progCrc (s : State) : Nat := (List.range s.sq.len).foldl (fun c i => crcWord c (s.word i)) 0

/-- The store accepts writes (R230). -/
def SeqState.writable : SeqState → Bool
  | .held => false
  | .running => false
  | _ => true

/-- SQ_STAT.STATE. -/
def SeqState.num : SeqState → Nat
  | .idle => 0
  | .loaded => 1
  | .held => 2
  | .running => 3
  | .stopped => 4
  | .fault => 5
  | .diverged => 6

/-- A word goes into the store, and the state becomes LOADED (R230, R235). -/
def State.putWord (s : State) (i w : Nat) : State :=
  s.setSq { s.sq with
    store := s.sq.store.set 0 i (BitVec.ofNat 64 w), len := max s.sq.len (i + 1), st := .loaded, code := 0 }

/-- A 64-bit write to the store window (R21, R230). -/
def State.storeWrite (s : State) (i w : Nat) : State :=
  if s.isEave = false then s
  else if s.sq.st.writable then s.putWord i w
  else s.count SQ_CNT_STALL

/-! ### Fields of an instruction (R231) -/

/-- imm32, sign-extended to 64 bits. -/
def SeqArgs.imm32 (f : SeqArgs) : Nat := ofSigned 64 (toSigned 32 f.x)
/-- imm16, sign-extended to 64 bits. -/
def SeqArgs.imm16 (f : SeqArgs) : Nat := ofSigned 64 (toSigned 16 f.x)
/-- addr. -/
def SeqArgs.addr (f : SeqArgs) : Nat := field f.x 30 14
/-- sh. -/
def SeqArgs.sh (f : SeqArgs) : Nat := field f.x 0 6
/-- tap. -/
def SeqArgs.tap (f : SeqArgs) : Nat := field f.x 0 6
/-- line. -/
def SeqArgs.line (f : SeqArgs) : Nat := field f.x 6 4
/-- out. -/
def SeqArgs.out (f : SeqArgs) : Nat := field f.x 0 3
/-- off. -/
def SeqArgs.off (f : SeqArgs) : Nat := field f.x 10 26
/-- w8. -/
def SeqArgs.w8 (f : SeqArgs) : Nat := field f.x 36 8
/-- The lane field X[3:0]. -/
def SeqArgs.lane (f : SeqArgs) : Nat := field f.x 0 4

/-- The fields of a word (R231): opcode and the rest. -/
def decodeWord (w : Nat) : Nat × SeqArgs :=
  (field w 56 8, { d := field w 52 4, a := field w 48 4, b := field w 44 4, x := field w 0 44 })

/-- The target of an instruction: g[A] µs + off (R231). -/
def State.target (s : State) (f : SeqArgs) : Int := (s.g f.a : Int) * courseUnits + f.off

/-- The handle g[B][9:0]. -/
def State.seqHandle (s : State) (f : SeqArgs) : Nat := s.g f.b % 1024

/-- A condition of BR and BRI (R231). -/
def condHolds (c x y : Nat) : Bool :=
  match c with
  | 0 => x = y
  | 1 => x ≠ y
  | 2 => x < y
  | 3 => y ≤ x
  | 4 => toSigned 64 x < toSigned 64 y
  | _ => toSigned 64 y ≤ toSigned 64 x

/-! ### The digest (R239) -/

/-- The digest restarts for a step. -/
def State.digestSeed (s : State) : State := s.setSq { s.sq with acc := crcWord s.sq.crc s.sq.step }

/-- One record: the address of the instruction, its opcode, and a value. -/
def State.record (s : State) (op v : Nat) : State :=
  s.setSq { s.sq with acc := crcWord (crcBytes s.sq.acc (leBytes 2 s.sq.pc ++ [op, 0, 0, 0, 0, 0])) v }

/-! ### Leaving RUNNING (R237, R238, R242) -/

/-- Words can go down the chain to a tap (log entry 45). -/
def State.tapServed (s : State) (n : Nat) : Bool := s.bit BT_CTL 0 && s.tapEn n

/-- CANCEL words for every launch armed and not reported (R237). -/
def State.cancelLaunches (s : State) : State :=
  s.sq.arms.foldl (fun s a => if s.tapServed a.tap then s.sendDown (.cancel a.tap a.line a.target) else s) s

/-- The program stops; entry into Underlay mode sends no CANCEL word (R237). -/
def State.programEnds (s : State) (st : SeqState) (code : Nat) (words : Bool) : State :=
  let s := if words then s.cancelLaunches else s
  (s.setSq { s.sq with
    st := st, code := code, wait := false, stalled := false, waitC := none, armLeft := none, stop := none
    votes := [], gangVotes := [] }).cancelArmed .program

/-- Collectives of the program in flight are aborted with PROGRAM_DIVERGED (R242). -/
def State.abortProgram (s : State) : State :=
  s.sq.started.foldl (fun s e =>
    match s.handle e.1 with
    | none => s
    | some hd =>
      match hd.inst e.2 with
      | some i => if i.out.isSome then s else s.abortReq hd.cid i.isn i.attempt (hd.domOf i.attempt) 0x05 0
      | none => s) s

/-- Entry into FAULT or DIVERGED (R242). -/
def State.seqFails (s : State) (st : SeqState) (code : Nat) : State :=
  ((s.programEnds st code true).abortProgram).raise 18

/-- A fault by R233 or R234. -/
def State.seqFault (s : State) (code : Nat) : State := s.seqFails .fault code

/-! ### Votes (R239 to R241) -/

/-- The vote of a step (R239): without room for its instance it waits (R284) (log entry 45). -/
def State.castVote (s : State) (step dig : Nat) : State × ContribRes :=
  let h := s.sq.voteHandle
  let b : Ballot := { step := step % 2 ^ 32, digest := dig, count := 1 }
  let r := match s.handle h with
    | some hd =>
      if hd.op = 0x07 then s.contribute h (.vote b) b.step 1
      else s.contribute h (.partial_ []) b.step (if hd.op = 0x00 then 0 else 17)
    | none => s.contribute h (.vote b) b.step 1
  match r.2 with
  | .waits => r
  | .nodef => (r.1.count SQ_CNT_VOTE_ABORT, .nodef)
  | .started =>
    let isn := match r.1.handle h with
      | some hd => hd.isn - 1
      | none => 0
    (r.1.setSq { r.1.sq with votes := r.1.sq.votes ++ [(isn, step, dig)] }, .started)

/-- Digests of a step from every other member still in the gang. -/
def State.gangHas (s : State) (step : Nat) : Bool :=
  s.gang.members.all fun m => decide (m = s.ties.gangPos) || s.sq.gangDigests.any fun d => d.1 = m ∧ d.2.1 = step

/-- The leader has compared a step: its digest and the members' are done with. -/
def State.gangStepDone (s : State) (step : Nat) : State :=
  s.setSq { s.sq with gangVotes := s.sq.gangVotes.tail, gangDigests := s.sq.gangDigests.filter fun d => d.2.1 ≠ step }

/-- What the leader has told a member of the endpoint's divergence takes effect at a boundary (R235, R241). -/
def State.gangTold (s : State) : State :=
  if s.sq.told = false then s
  else
    let s := s.setSq { s.sq with told := false }
    if s.sq.st = .running then s.seqFails .diverged 2 else s

/-- The leader compares before it votes, at a boundary or at its own STEPEND; a mismatch puts the endpoint, every member
included, in DIVERGED (R30, R241) (log entry 31). -/
def State.gangJudge (s : State) : State :=
  match s.sq.gangVotes with
  | [] => s
  | (step, dig) :: _ =>
    if s.gangHas step = false then s
    else if s.sq.gangDigests.all fun d => decide (d.2.1 ≠ step) || decide (d.2.2 = dig) then
      if s.sq.voteEn then
        let r := s.castVote step dig
        if r.2 = .waits then r.1 else r.1.gangStepDone step
      else s.gangStepDone step
    else (s.toMembers .diverged).seqFails .diverged 2

/-- A member's digest reaches the leader, which compares it at a boundary (R235, R241). -/
def State.gangDigest (s : State) (pos step dig : Nat) : State :=
  if s.sq.st = .running then s.setSq { s.sq with gangDigests := s.sq.gangDigests ++ [(pos, step, dig)] } else s

/-- The verdict of a vote that STEPEND contributed, whichever of them ends first (R240). -/
def State.verdict (s : State) (a : Applied) : State :=
  if a.h ≠ s.sq.voteHandle then s
  else
    match takeFirst (fun (v : Nat × Nat × Nat) => decide (v.1 = a.i.isn)) s.sq.votes with
    | none => s
    | some ((_, step, dig), rest) =>
      let s := s.setSq { s.sq with votes := rest }
      if a.o.reason ≠ 0 ∨ a.hd.op ≠ 0x07 then s.count SQ_CNT_VOTE_ABORT
      else
        let ref := a.o.results.headD 0
        let s := s.setSq { s.sq with dref := ref, dstep := step }
        if bitOf a.o.status 4 then s.seqFails .diverged 3
        else if ref = dig then s
        else s.seqFails .diverged 1

/-! ### Launches and reports (R244, R245) -/

/-- A 16-bit count that saturates. -/
def sat16 (n : Nat) : Nat := min n 0xFFFF

/-- A report is added to the counts (R245). -/
def State.countReport (s : State) (r : LaunchReport) : State :=
  let c := s.sq.reports
  let fired := decide (r.code = 0) || decide (r.code = 6)
  let c' : ReportCounts :=
    if fired then
      { c with fired := sat16 (c.fired + 1), late := if r.late || r.fireStr then sat16 (c.late + 1) else c.late }
    else if r.code = 2 then { c with refused := sat16 (c.refused + 1) }
    else { c with other := sat16 (c.other + 1) }
  (s.setSq { s.sq with reports := c' }).count
    (if fired then SQ_CNT_FIRED else if r.code = 2 then SQ_CNT_REFUSED else SQ_CNT_NOTFIRED)

/-- A report reaches the sequencer and frees its entry (R245) (log entry 45). -/
def State.takeReport (s : State) (r : LaunchReport) : State :=
  let e : ArmRec := { tap := r.tap, line := r.line, target := r.target }
  if e ∈ s.sq.arms then (s.setSq { s.sq with arms := s.sq.arms.erase e }).countReport r else s

/-- The oldest report on its way reaches the sequencer. -/
def State.nextReport (s : State) : State :=
  match s.bt.reports with
  | [] => s
  | r :: rest => State.takeReport { s with bt := { s.bt with reports := rest } } r

/-- Every report on its way reaches the sequencer. -/
def State.drainReports (s : State) : State :=
  s.bt.reports.foldl (fun s r => s.takeReport r) { s with bt := { s.bt with reports := [] } }

/-- Arms without a report by the boundary ending their target's course + 2 are lost (R245, R398) (log entry 45). -/
def State.reportsMissing (s : State) (n : Nat) : State :=
  let gone := s.sq.arms.filter fun a => decide (courseOf a.target + 2 ≤ n)
  if gone = [] then s
  else
    let c := s.sq.reports
    ((s.setSq { s.sq with
      arms := s.sq.arms.filter fun a => !decide (courseOf a.target + 2 ≤ n)
      reports := { c with other := sat16 (c.other + gone.length) } }).count SQ_CNT_LOSTREP gone.length).raise 20

/-- Send one ARM word; a tap that is not enabled gives a TAPOFF report at once (R244) (log entry 45). -/
def State.armOne (s : State) (tap line : Nat) (target : Int) : State :=
  if s.tapServed tap then
    ((s.setSq { s.sq with arms := s.sq.arms ++ [{ tap := tap, line := line, target := target }] }).sendDown
      (.arm tap line target s.sq.n s.sq.tol)).count SQ_CNT_ARM
  else ((s.countReport { tap := tap, line := line, target := target, code := 8 }).raise 20).evt 3

/-- Arm the taps of a list in order while the table has a free entry; what is left is returned (R244). -/
def State.armList (s : State) (taps : List Nat) (line : Nat) (target : Int) : State × List Nat :=
  match taps with
  | [] => (s, [])
  | t :: rest => if 1024 ≤ s.sq.arms.length then (s, t :: rest) else (s.armOne t line target).armList rest line target

/-! ### Program states (R235 to R238) -/

/-- The start boundary: registers, step, CRC, N, tolerance code and digest (R236) (log entry 44). -/
def State.programStart (s : State) (r : StartReq) (step nc : Nat) : State :=
  let g := (List.range 16).foldl (fun (m : Map Nat) k => Map.set m 0 k ((r.g.getD k 0) % 2 ^ 64)) []
  (s.setSq { s.sq with
    st := .running, code := 0, pc := r.addr, wait := false, stalled := false, waitC := none, step := step % 2 ^ 64
    startCourse := nc, crc := s.progCrc, n := 0, tol := min r.tol 0xFFFE, g := g, agreed := 0xFFFF
    voteEn := r.vote.isSome, voteHandle := r.handle, armLeft := none, start := none
    votes := [], gangVotes := [], gangDigests := [], started := [], nodef := [] }).digestSeed

/-- A start without hold at its boundary; a start with hold enters HELD (R236) (log entries 9 and 44). -/
def State.startBoundary (s : State) (nc : Nat) : State :=
  match s.sq.start with
  | none => s
  | some r =>
    if s.sq.st = .held then s
    else if r.hold then
      s.setSq { s.sq with st := .held, code := 0, step := r.step, voteEn := r.vote.isSome, voteHandle := r.handle }
    else if r.course ≤ nc ∧ s.td.acq then s.programStart r r.step nc
    else s

/-- `seq.stop` takes effect at its boundary (R238) (log entry 44). -/
def State.stopBoundary (s : State) (nc : Nat) : State :=
  match s.sq.stop with
  | none => s
  | some c =>
    if c ≤ nc then
      if s.sq.st = .running ∨ s.sq.st = .held then
        let s := s.programEnds .stopped 2 true
        s.setSq { s.sq with start := none }
      else s.setSq { s.sq with stop := none }
    else s

/-- The first pending event of a kind whose boundary is the one into course `nc`, and the state without it. -/
def State.dueEvent (s : State) (kind nc : Nat) : Option (EventRec × State) :=
  (s.ev.events.find? fun e => e.kind = kind ∧ courseOf e.target = nc).map fun e =>
    (e, { s with ev := { s.ev with events := s.ev.events.erase e } })

/-- A STOP event at its boundary; `stopped` tells that `seq.stop` has just acted (R250, R253). -/
def State.eventStop (s : State) (nc : Nat) (stopped : Bool) : State :=
  match s.dueEvent 4 nc with
  | none => s
  | some (_, s) =>
    if s.sq.st = .running then s.programEnds .stopped 3 true
    else if stopped then s else s.count SQ_CNT_EVT_DROP

/-- A START event at its boundary (R236, R250). -/
def State.eventStart (s : State) (nc : Nat) : State :=
  match s.dueEvent 3 nc with
  | none => s
  | some (e, s) =>
    match s.sq.start with
    | some r => if s.sq.st = .held then s.programStart r e.arg nc else s.count SQ_CNT_EVT_DROP
    | none => s.count SQ_CNT_EVT_DROP

/-- The number of pending events of a kind whose boundary is the one into course `nc`. -/
def State.dueCount (s : State) (kind nc : Nat) : Nat :=
  (s.ev.events.filter fun e => decide (e.kind = kind ∧ courseOf e.target = nc)).length

/-- Every STOP event of a boundary, in order of arrival; `seq.stop` at the same boundary takes the first with it (R250,
R253). -/
def State.eventStops (s : State) (nc : Nat) (stopped : Bool) : State :=
  s.each (List.range (s.dueCount 4 nc)) fun s i => s.eventStop nc (stopped && decide (i = 0))

/-- Every START event of a boundary, in order of arrival (R250). -/
def State.eventStarts (s : State) (nc : Nat) : State :=
  s.each (List.range (s.dueCount 3 nc)) fun s _ => s.eventStart nc

/-- What an instruction comes to. -/
inductive SqRes where
  /-- Executed; the next instruction follows. -/
  | next
  /-- Executed; execution goes on at an address. -/
  | jump (addr : Nat)
  /-- It waits, with the program counter held on it. -/
  | wait
  /-- Executed, and the program has left RUNNING. -/
  | gone
  deriving DecidableEq, Repr

/-- The state an instruction leaves, and what it comes to. -/
structure SqOut where
  s : State
  res : SqRes := .next
  deriving DecidableEq, Repr

/-- Opcodes with a target: their off is checked (R233). -/
def opHasOff (op : Nat) : Bool := decide (0x31 ≤ op) && decide (op ≤ 0x35)
/-- Opcodes that name A, or B, as agreed (R232). -/
def opAgreesA (op : Nat) : Bool := op ∈ [0x03, 0x04, 0x06, 0x31, 0x32, 0x33, 0x34, 0x35, 0x43]
/-- See opAgreesA. -/
def opAgreesB (op : Nat) : Bool := op ∈ [0x03, 0x32, 0x33, 0x40, 0x41, 0x42, 0x43]

/-- The fault code of an instruction by R233 and R234, in the order decode, determinism, register range. -/
def State.opFault (s : State) (op : Nat) (known : Bool) (f : SeqArgs) : Option Nat :=
  if known = false ∨ ((op = 0x03 ∨ op = 0x04) ∧ 5 < f.d) ∨ (opHasOff op ∧ 65536000 ≤ f.off) then some 1
  else if (opAgreesA op ∧ s.gAgreed f.a = false) ∨ (opAgreesB op ∧ s.gAgreed f.b = false) then some 2
  else if op = 0x40 ∧ 15 < f.a + f.lane then
    match s.handle (s.seqHandle f) with
    | some hd => if hd.op = 0x00 then none else some 4
    | none => none
  else none

/-- An instruction is retired: the program counter moves on and the event line pulses (R229, R396). -/
def State.retireAt (s : State) (pc : Nat) : State :=
  (s.setSq { s.sq with pc := pc, wait := false, stalled := false, waitC := none }).evt 7

/-- Execute one instruction at the program counter: the state, and whether the burst goes on (log entry 44). -/
def State.runInstr (s : State) (op : Nat) (m : Option (State → SqOut)) (f : SeqArgs) : State × Bool :=
  let s := ((s.busy).openGate 1).openGate 9
  if s.sq.len ≤ s.sq.pc then (s.seqFault 3, false)
  else
    match m with
    | none => (s.seqFault 1, false)
    | some m =>
      match s.opFault op true f with
      | some c => (s.seqFault c, false)
      | none =>
        let o := m s
        match o.res with
        | .next => (o.s.retireAt (o.s.sq.pc + 1), true)
        | .jump a => (o.s.retireAt a, true)
        | .wait => (o.s.setSq { o.s.sq with wait := true }, false)
        | .gone => (o.s.retireAt (o.s.sq.pc + 1), false)

/-- A wait that SQ_CNT_STALL counts, once per instruction (R239, R244). -/
def State.stall (s : State) : SqOut :=
  { s := if s.sq.stalled then s else (s.setSq { s.sq with stalled := true }).count SQ_CNT_STALL, res := .wait }

/-! ### Boundary work -/

/-- The course numbers that R252 names. -/
def State.horizonCourses (s : State) (nc : Nat) : List Nat :=
  (s.sq.arms.map fun a => courseOf a.target) ++
  ((List.range 8).flatMap fun n =>
    ((s.pulse n).pending.map fun r => courseOf r.target) ++
      (if s.pulsePer n && s.pulseEn n then [courseOf (s.pulseNext n)] else [])) ++
  (s.ev.freezes.map fun r => courseOf r.target) ++ (s.ev.events.map fun e => courseOf e.target) ++
  (if s.sq.st = .running then [s.sq.waitC.getD nc] else [])

/-- SQ_HORIZON at the boundary into course `nc` (R252). -/
def State.seqHorizon (s : State) (nc : Nat) : State := s.setSq { s.sq with horizon := earliest (s.horizonCourses nc) }

/-- Entry into Underlay mode (R237, R253). -/
def State.seqUnderlay (s : State) : State :=
  let s := if s.sq.st = .running ∨ s.sq.st = .held then s.programEnds .stopped 4 false else s
  (s.setSq { s.sq with start := none }).freezesDropped

/-- A step of the output time (R253). -/
def State.seqTimeStep (s : State) : State :=
  if s.sq.st = .running then s.programEnds .stopped 5 true else s

/-- `gen.reset` of the sequencer: IDLE with LEN 0 (R372) (log entry 20). -/
def State.seqReset (s : State) : State := s.setSq { arms := s.sq.arms, reports := s.sq.reports }

end Sys2Proof.Machine
end

