-- ==== Sys2Proof/Machine/Program.lean ====
section
/-! DEFINITION. Sys2Proof/Machine/Program.lean: what each program instruction does (R232, R239, R243 to R245 of
spec/09_step_sequencer.md), the burst at a boundary, and the rows of the sequencer, the pulse outputs and the
events. -/
namespace Sys2Proof.Machine
open Sys2Proof.Config

/-! ### The meanings: the fields, the course that begins, and the state before -/

/-- The instruction writes one register. -/
def State.gives (s : State) (d v : Nat) (agreed : Bool) : SqOut := { s := s.setG d v agreed }

/-- The instruction writes a register from two others: agreed when both are (R232). -/
def State.alu (s : State) (f : SeqArgs) (v : Nat) : SqOut := s.gives f.d v (s.gAgreed f.a && s.gAgreed f.b)

/-- The instruction writes a register from one other: agreed when it is. -/
def State.alu1 (s : State) (f : SeqArgs) (v : Nat) : SqOut := s.gives f.d v (s.gAgreed f.a)

/-- NOP: nothing. -/
def sqNop (_ : SeqArgs) (_ : Nat) (s : State) : SqOut := { s := s }
/-- HALT stops the program at once (R238). -/
def sqHalt (_ : SeqArgs) (_ : Nat) (s : State) : SqOut := { s := s.programEnds .stopped 1 true, res := .gone }
/-- JMP. -/
def sqJmp (f : SeqArgs) (_ : Nat) (s : State) : SqOut := { s := s, res := .jump f.addr }

/-- A branch with its digest record (R239). -/
def State.branch (s : State) (op : Nat) (f : SeqArgs) (taken : Bool) : SqOut :=
  { s := s.record op (bnat taken), res := if taken then .jump f.addr else .next }

/-- BR. -/
def sqBr (f : SeqArgs) (_ : Nat) (s : State) : SqOut := s.branch 0x03 f (condHolds f.d (s.g f.a) (s.g f.b))
/-- BRI. -/
def sqBri (f : SeqArgs) (_ : Nat) (s : State) : SqOut := s.branch 0x04 f (condHolds f.d (s.g f.a) f.imm16)

/-- A contribution that finds no room waits, with the program counter held on it; CE_CNT_WAIT counts the wait once
(R284). -/
def State.awaitRoom (s : State) : SqOut :=
  { s := if s.sq.stalled then s else (s.setSq { s.sq with stalled := true }).count CE_CNT_WAIT, res := .wait }

/-- The digest of the step is complete: SQ_DIGEST, the step number, and the digest of the next step (R239). -/
def State.stepDone (s : State) (step dig : Nat) : State :=
  (s.setSq { s.sq with digest := dig, step := (step + 1) % 2 ^ 64 }).digestSeed.evt 6

/-- STEPEND completes the digest, raises the step number and votes; a fifth vote in flight waits, and so does a vote
without room; the leader of a gang votes once it has compared the members' digests (R239, R241, R284)
(log entries 31 and 45). -/
def sqStepend (_ : SeqArgs) (_ : Nat) (s : State) : SqOut :=
  if s.sq.voteEn ∧ 4 ≤ s.sq.votes.length + s.sq.gangVotes.length then s.stall
  else
    let step := s.sq.step
    let dig := s.sq.acc
    let leads := s.gang.inGang && !s.follower
    let r : State × ContribRes := if s.sq.voteEn && !leads then s.castVote step dig else (s, .started)
    if r.2 = .waits then r.1.awaitRoom
    else
      let s := r.1.stepDone step dig
      let s := if s.follower then s.emit (.gangDigest step dig)
        else if leads then (s.setSq { s.sq with gangVotes := s.sq.gangVotes ++ [(step, dig)] }).gangJudge
        else s
      { s := s, res := if s.sq.st = .running then .next else .gone }

/-- The course a WAITC names. -/
def State.waitCourse (s : State) (f : SeqArgs) : Nat := (s.g f.a + f.imm32) % 2 ^ 64

/-- WAITC waits until the course number is not below g[A] + imm32. -/
def sqWaitc (f : SeqArgs) (nc : Nat) (s : State) : SqOut :=
  let c := s.waitCourse f
  if c ≤ nc then { s := s.record 0x06 c } else { s := s.setSq { s.sq with waitC := some c }, res := .wait }

/-- LI. -/
def sqLi (f : SeqArgs) (_ : Nat) (s : State) : SqOut := s.gives f.d f.imm32 true
/-- LIH keeps bits 31 to 0 and the attribute. -/
def sqLih (f : SeqArgs) (_ : Nat) (s : State) : SqOut :=
  s.gives f.d (field f.x 0 32 * 2 ^ 32 + s.g f.d % 2 ^ 32) (s.gAgreed f.d)
/-- MOV. -/
def sqMov (f : SeqArgs) (_ : Nat) (s : State) : SqOut := s.alu1 f (s.g f.a)
/-- ADD. -/
def sqAdd (f : SeqArgs) (_ : Nat) (s : State) : SqOut := s.alu f (s.g f.a + s.g f.b)
/-- SUB. -/
def sqSub (f : SeqArgs) (_ : Nat) (s : State) : SqOut := s.alu f (s.g f.a + 2 ^ 64 - s.g f.b)
/-- AND. -/
def sqAnd (f : SeqArgs) (_ : Nat) (s : State) : SqOut := s.alu f (s.g f.a &&& s.g f.b)
/-- OR. -/
def sqOr (f : SeqArgs) (_ : Nat) (s : State) : SqOut := s.alu f (s.g f.a ||| s.g f.b)
/-- XOR. -/
def sqXor (f : SeqArgs) (_ : Nat) (s : State) : SqOut := s.alu f (s.g f.a ^^^ s.g f.b)
/-- ADDI. -/
def sqAddi (f : SeqArgs) (_ : Nat) (s : State) : SqOut := s.alu1 f (s.g f.a + f.imm32)
/-- SHL. -/
def sqShl (f : SeqArgs) (_ : Nat) (s : State) : SqOut := s.alu1 f (s.g f.a * 2 ^ f.sh)
/-- SHR, logical. -/
def sqShr (f : SeqArgs) (_ : Nat) (s : State) : SqOut := s.alu1 f (s.g f.a / 2 ^ f.sh)
/-- SAR, arithmetic. -/
def sqSar (f : SeqArgs) (_ : Nat) (s : State) : SqOut :=
  s.alu1 f (ofSigned 64 (toSigned 64 (s.g f.a) / ((2 ^ f.sh : Nat) : Int)))
/-- MUL keeps the low 64 bits. -/
def sqMul (f : SeqArgs) (_ : Nat) (s : State) : SqOut := s.alu f (s.g f.a * s.g f.b)
/-- MINU. -/
def sqMinu (f : SeqArgs) (_ : Nat) (s : State) : SqOut := s.alu f (min (s.g f.a) (s.g f.b))
/-- MAXU. -/
def sqMaxu (f : SeqArgs) (_ : Nat) (s : State) : SqOut := s.alu f (max (s.g f.a) (s.g f.b))
/-- RDSTEP. -/
def sqRdstep (f : SeqArgs) (_ : Nat) (s : State) : SqOut := s.gives f.d s.sq.step true
/-- RDCRS: the course that begins. -/
def sqRdcrs (f : SeqArgs) (nc : Nat) (s : State) : SqOut := s.gives f.d nc false
/-- RDTE. -/
def sqRdte (f : SeqArgs) (_ : Nat) (s : State) : SqOut := s.gives f.d s.td.te false

/-- The word of RDLR (R245). -/
def ReportCounts.word (c : ReportCounts) : Nat := c.fired + c.late * 2 ^ 16 + c.refused * 2 ^ 32 + c.other * 2 ^ 48

/-- RDLR reads the counts and clears them. -/
def sqRdlr (f : SeqArgs) (_ : Nat) (s : State) : SqOut :=
  (s.setSq { s.sq with reports := {} }).gives f.d s.sq.reports.word false

/-- LCFG. -/
def sqLcfg (f : SeqArgs) (_ : Nat) (s : State) : SqOut :=
  { s := s.setSq { s.sq with n := field f.x 0 8, tol := min (field f.x 8 16) 0xFFFE } }

/-- The digest value of an instruction with a target: g[A] + X (R239). -/
def State.targetValue (s : State) (f : SeqArgs) : Nat := (s.g f.a + f.x) % 2 ^ 64

/-- ARM waits while the table is full (R244). -/
def sqArm (f : SeqArgs) (_ : Nat) (s : State) : SqOut :=
  if 1024 ≤ s.sq.arms.length then s.stall
  else { s := (s.armOne f.tap f.line (s.target f)).record 0x31 (s.targetValue f) }

/-- ARMM sends one ARM per set bit of g[B], from the lowest tap upward, as entries free (R244). -/
def sqArmm (f : SeqArgs) (_ : Nat) (s : State) : SqOut :=
  let mask := s.sq.armLeft.getD (s.g f.b)
  let r := s.armList ((List.range 64).filter fun t => bitOf mask t) f.line (s.target f)
  match r.2 with
  | [] =>
    let s := r.1.setSq { r.1.sq with armLeft := none }
    { s := (s.record 0x32 (s.targetValue f)).record 0x32 (s.g f.b) }
  | left => (r.1.setSq { r.1.sq with armLeft := some (left.foldl (fun m t => m + 2 ^ t) 0) }).stall

/-- CANCEL sends CANCEL words (R244). -/
def sqCancel (f : SeqArgs) (_ : Nat) (s : State) : SqOut :=
  let taps := (List.range 64).filter fun t => bitOf (s.g f.b) t && s.tapServed t
  let s := s.each taps fun s t => s.sendDown (.cancel t f.line (s.target f))
  { s := (s.record 0x33 (s.targetValue f)).record 0x33 (s.g f.b) }

/-- PULSE (R248). -/
def sqPulse (f : SeqArgs) (nc : Nat) (s : State) : SqOut :=
  { s := (s.addPulse f.out { target := s.target f, width := f.w8, src := .program } nc).record 0x34 (s.targetValue f) }

/-- FRZ (R249). -/
def sqFrz (f : SeqArgs) (nc : Nat) (s : State) : SqOut :=
  { s := (s.addFreeze (s.target f) f.w8 .program nc).record 0x35 (s.targetValue f) }

/-- What a CONTRIB hands over: the lanes in the handle's format, an arrival, or a key; with the low 32 bits of the step
(R243, R284, R297). -/
def State.contribData (s : State) (f : SeqArgs) (hd : Handle) : UpData × Nat × Nat :=
  let step := s.sq.step % 2 ^ 32
  if hd.op = 0x00 then (.partial_ [], step, 0)
  else if hd.op = 0x07 then
    (.vote { step := step, digest := s.g f.a, count := 1 }, step, 1)
  else (.partial_ ((List.range (f.lane + 1)).map fun k => laneOf hd.op hd.fmt (s.g (f.a + k))), step, f.lane + 1)

/-- CONTRIB (R243, R284) (log entry 45). -/
def sqContrib (f : SeqArgs) (_ : Nat) (s : State) : SqOut :=
  let h := s.seqHandle f
  let q := match s.handle h with
    | some hd => s.contribData f hd
    | none => (.partial_ [], 0, 0)
  let r := s.contribute h q.1 q.2.1 q.2.2
  match r.2 with
  | .waits => r.1.awaitRoom
  | .nodef =>
    { s := (r.1.setSq { r.1.sq with nodef := h :: r.1.sq.nodef.filter (· ≠ h) }).record 0x40 h }
  | .started =>
    let isn := match r.1.handle h with
      | some hd => hd.isn - 1
      | none => 0
    { s := (r.1.setSq { r.1.sq with
        started := (h, isn) :: r.1.sq.started.filter (· ≠ (h, isn)) }).record 0x40 h }

/-- The outcome of the most recent instance that this eave has started on a handle; none while there is none
(R243). -/
def State.collOutcome (s : State) (h : Nat) : Option CollOutcome :=
  if h ∈ s.sq.nodef then some { reason := 0x81 }
  else
    match s.handle h with
    | none => none
    | some hd => if hd.isn = 0 then none else (hd.recent.find? fun r => r.1 = hd.isn - 1).map Prod.snd

/-- WAITR (R243) (log entry 45). -/
def sqWaitr (f : SeqArgs) (_ : Nat) (s : State) : SqOut :=
  match s.collOutcome (s.seqHandle f) with
  | some o => (s.record 0x41 o.reason).gives f.d o.reason true
  | none => { s := s, res := .wait }

/-- A lane of an outcome: 0 after a non-zero outcome and after a split; a lane that the result does not have is
open (R243). -/
def State.resultLane (s : State) (o : CollOutcome) (k : Nat) : State × Nat :=
  if o.reason ≠ 0 ∨ bitOf o.status 4 then (s, 0)
  else
    match o.results[k]? with
    | some v => (s, v)
    | none => s.drawFree

/-- RESULT (R243) (log entry 45). -/
def sqResult (f : SeqArgs) (_ : Nat) (s : State) : SqOut :=
  match s.collOutcome (s.seqHandle f) with
  | some o =>
    let r := s.resultLane o f.lane
    (r.1.record 0x42 r.2).gives f.d r.2 true
  | none => { s := s, res := .wait }

/-- DEADL sets the deadline of the instance in flight, or of the next one (R243, R301) (log entry 45). -/
def sqDeadl (f : SeqArgs) (_ : Nat) (s : State) : SqOut :=
  let h := s.seqHandle f
  let c := s.waitCourse f
  let s := match s.handle h with
    | none => s
    | some hd =>
      match hd.inst (hd.isn - 1) with
      | some i => s.setHandle h (some (hd.setInst { i with deadline := some c, asked := false }))
      | none => s.setHandle h (some { hd with deadline := some c })
  { s := s.record 0x43 h }

/-- OBJOP waits on a translation read, and retires with its result (R262). -/
def sqObjop (f : SeqArgs) (_ : Nat) (s : State) : SqOut :=
  let r := s.programOp (field f.x 0 8) (s.g f.a) (s.g f.b)
  match r.2 with
  | some (res, v) => r.1.gives f.d (res * 2 ^ 56 + v % 2 ^ 32) false
  | none => { s := r.1, res := .wait }

/-- The meaning of an opcode (R232) (log entry 44). -/
def sqMeaning (op : Nat) (f : SeqArgs) (nc : Nat) : Option (State → SqOut) :=
  match op with
  | 0x00 => some (sqNop f nc)
  | 0x01 => some (sqHalt f nc)
  | 0x02 => some (sqJmp f nc)
  | 0x03 => some (sqBr f nc)
  | 0x04 => some (sqBri f nc)
  | 0x05 => some (sqStepend f nc)
  | 0x06 => some (sqWaitc f nc)
  | 0x10 => some (sqLi f nc)
  | 0x11 => some (sqLih f nc)
  | 0x12 => some (sqMov f nc)
  | 0x13 => some (sqAdd f nc)
  | 0x14 => some (sqSub f nc)
  | 0x15 => some (sqAnd f nc)
  | 0x16 => some (sqOr f nc)
  | 0x17 => some (sqXor f nc)
  | 0x18 => some (sqAddi f nc)
  | 0x19 => some (sqShl f nc)
  | 0x1A => some (sqShr f nc)
  | 0x1B => some (sqSar f nc)
  | 0x1C => some (sqMul f nc)
  | 0x1D => some (sqMinu f nc)
  | 0x1E => some (sqMaxu f nc)
  | 0x20 => some (sqRdstep f nc)
  | 0x21 => some (sqRdcrs f nc)
  | 0x22 => some (sqRdte f nc)
  | 0x23 => some (sqRdlr f nc)
  | 0x30 => some (sqLcfg f nc)
  | 0x31 => some (sqArm f nc)
  | 0x32 => some (sqArmm f nc)
  | 0x33 => some (sqCancel f nc)
  | 0x34 => some (sqPulse f nc)
  | 0x35 => some (sqFrz f nc)
  | 0x40 => some (sqContrib f nc)
  | 0x41 => some (sqWaitr f nc)
  | 0x42 => some (sqResult f nc)
  | 0x43 => some (sqDeadl f nc)
  | 0x50 => some (sqObjop f nc)
  | _ => none

/-! ### The burst (R229) -/

/-- Fetch and execute one instruction (log entry 44). -/
def State.fetchRun (s : State) (nc : Nat) : State × Bool :=
  let w := decodeWord (s.word s.sq.pc)
  s.runInstr w.1 (sqMeaning w.1 w.2 nc) w.2

/-- At most `k` instructions; a burst that the limit ends is counted (log entry 44). -/
def State.seqBurst (s : State) (k nc : Nat) : State :=
  match k with
  | 0 => s.count SQ_CNT_BUDGET
  | k + 1 =>
    let r := s.fetchRun nc
    if r.2 then r.1.seqBurst k nc else r.1

/-- The limit of a burst: SQ_CTL.BUDGET, and 1,024 logic cycles at one instruction each (R229). -/
def State.burstLimit (s : State) : Nat := min 1024 (max 16 (min 4096 (s.fl SQ_CTL 16 16)))

/-- The burst of a boundary, once. -/
def State.runBurst (s : State) (nc : Nat) : State :=
  if s.sq.st = .running ∧ s.did.seq = false then
    State.seqBurst { s with did := { s.did with seq := true } } s.burstLimit nc
  else s

/-- Step 5 of R18 at the boundary ending course `n`, into course `nc` (log entry 3). -/
def State.seqBoundary (s : State) (n nc : Nat) : State :=
  let s := s.drainReports.reportsMissing n
  let s := s.gangTold.gangJudge
  let due := decide (s.sq.st = .running) && (match s.sq.stop with | some c => decide (c ≤ nc) | none => false)
  let s := (s.stopBoundary nc).eventStops nc due
  let s := ((s.startBoundary nc).eventStarts nc).runBurst nc
  (s.expireEvents nc).seqHorizon nc

/-! ### The commands -/

/-- An instruction executed at the program counter of a RUNNING program, at the boundary that ends the running course
(R229) (log entry 44). -/
def State.atPc (s : State) (op : Nat) (f : SeqArgs) : Result :=
  s.main fun s =>
    if s.isEave ∧ s.sq.st = .running then (s.runInstr op (sqMeaning op f (s.clk.course + 1)) f).1 else s

/-- NOP (R232). -/
def execNop (f : SeqArgs) (s : State) : Result := s.atPc 0x00 f
/-- HALT (R232). -/
def execHalt (f : SeqArgs) (s : State) : Result := s.atPc 0x01 f
/-- JMP (R232). -/
def execJmp (f : SeqArgs) (s : State) : Result := s.atPc 0x02 f
/-- BR (R232). -/
def execBr (f : SeqArgs) (s : State) : Result := s.atPc 0x03 f
/-- BRI (R232). -/
def execBri (f : SeqArgs) (s : State) : Result := s.atPc 0x04 f
/-- STEPEND (R232). -/
def execStepend (f : SeqArgs) (s : State) : Result := s.atPc 0x05 f
/-- WAITC (R232). -/
def execWaitc (f : SeqArgs) (s : State) : Result := s.atPc 0x06 f
/-- LI (R232). -/
def execLi (f : SeqArgs) (s : State) : Result := s.atPc 0x10 f
/-- LIH (R232). -/
def execLih (f : SeqArgs) (s : State) : Result := s.atPc 0x11 f
/-- MOV (R232). -/
def execMov (f : SeqArgs) (s : State) : Result := s.atPc 0x12 f
/-- ADD (R232). -/
def execAdd (f : SeqArgs) (s : State) : Result := s.atPc 0x13 f
/-- SUB (R232). -/
def execSub (f : SeqArgs) (s : State) : Result := s.atPc 0x14 f
/-- AND (R232). -/
def execAnd (f : SeqArgs) (s : State) : Result := s.atPc 0x15 f
/-- OR (R232). -/
def execOr (f : SeqArgs) (s : State) : Result := s.atPc 0x16 f
/-- XOR (R232). -/
def execXor (f : SeqArgs) (s : State) : Result := s.atPc 0x17 f
/-- ADDI (R232). -/
def execAddi (f : SeqArgs) (s : State) : Result := s.atPc 0x18 f
/-- SHL (R232). -/
def execShl (f : SeqArgs) (s : State) : Result := s.atPc 0x19 f
/-- SHR (R232). -/
def execShr (f : SeqArgs) (s : State) : Result := s.atPc 0x1A f
/-- SAR (R232). -/
def execSar (f : SeqArgs) (s : State) : Result := s.atPc 0x1B f
/-- MUL (R232). -/
def execMul (f : SeqArgs) (s : State) : Result := s.atPc 0x1C f
/-- MINU (R232). -/
def execMinu (f : SeqArgs) (s : State) : Result := s.atPc 0x1D f
/-- MAXU (R232). -/
def execMaxu (f : SeqArgs) (s : State) : Result := s.atPc 0x1E f
/-- RDSTEP (R232). -/
def execRdstep (f : SeqArgs) (s : State) : Result := s.atPc 0x20 f
/-- RDCRS (R232). -/
def execRdcrs (f : SeqArgs) (s : State) : Result := s.atPc 0x21 f
/-- RDTE (R232). -/
def execRdte (f : SeqArgs) (s : State) : Result := s.atPc 0x22 f
/-- RDLR (R232). -/
def execRdlr (f : SeqArgs) (s : State) : Result := s.atPc 0x23 f
/-- LCFG (R232). -/
def execLcfg (f : SeqArgs) (s : State) : Result := s.atPc 0x30 f
/-- ARM (R232). -/
def execArm (f : SeqArgs) (s : State) : Result := s.atPc 0x31 f
/-- ARMM (R232). -/
def execArmm (f : SeqArgs) (s : State) : Result := s.atPc 0x32 f
/-- CANCEL (R232). -/
def execCancel (f : SeqArgs) (s : State) : Result := s.atPc 0x33 f
/-- PULSE (R232). -/
def execPulse (f : SeqArgs) (s : State) : Result := s.atPc 0x34 f
/-- FRZ (R232). -/
def execFrz (f : SeqArgs) (s : State) : Result := s.atPc 0x35 f
/-- CONTRIB (R232). -/
def execContrib (f : SeqArgs) (s : State) : Result := s.atPc 0x40 f
/-- WAITR (R232). -/
def execWaitr (f : SeqArgs) (s : State) : Result := s.atPc 0x41 f
/-- RESULT (R232). -/
def execResult (f : SeqArgs) (s : State) : Result := s.atPc 0x42 f
/-- DEADL (R232). -/
def execDeadl (f : SeqArgs) (s : State) : Result := s.atPc 0x43 f
/-- OBJOP (R232). -/
def execObjop (f : SeqArgs) (s : State) : Result := s.atPc 0x50 f

/-- PROGRAM_START (R236), at the boundary that ends the running course. -/
def execProgramStart (s : State) : Result :=
  s.main fun s =>
    if s.isEave ∧ s.sq.start.isSome ∧ s.sq.st ≠ .running then
      (s.startBoundary (s.clk.course + 1)).runBurst (s.clk.course + 1)
    else s

/-- PROGRAM_STOP (R238), at the boundary that ends the running course. -/
def execProgramStop (s : State) : Result := s.main fun s => s.stopBoundary (s.clk.course + 1)

/-- EVENT_START (R250), at the boundary that ends the running course. -/
def execEventStart (s : State) : Result :=
  s.main fun s => if s.isEave then (s.eventStart (s.clk.course + 1)).runBurst (s.clk.course + 1) else s

/-- EVENT_STOP (R250), at the boundary that ends the running course. -/
def execEventStop (s : State) : Result := s.main fun s => if s.isEave then s.eventStop (s.clk.course + 1) false else s

/-- REPORT_WORD (R245). -/
def execReportWord (s : State) : Result := s.main State.nextReport

/-- REPORT_MISSING (R245), at the boundary that ends the running course. -/
def execReportMissing (s : State) : Result := s.main fun s => s.reportsMissing s.clk.course

/-- PULSE_EMIT (R246, R247): the output's next pulse, with the edge that its feedback converter times. -/
def execPulseEmit (out : Nat) (fb : Option Edge) (s : State) : Result :=
  s.main fun s =>
    if 8 ≤ out then s
    else
      let s := s.pulseEmit out
      match fb with
      | some e => s.pinEdge (14 + out) false e
      | none => s

/-- PULSE_CAL_DONE (R247): the 256 calibration pulses have been timed. -/
def execPulseCalDone (out : Nat) (s : State) : Result := s.main fun s => if out < 8 then s.pulseCalDone out else s

/-- FREEZE_EMIT (R249). -/
def execFreezeEmit (s : State) : Result := s.main State.freezeEmit

/-- LAUNCH (R103, R108). -/
def kLaunch : RxKind := { typ := 0x14, need := 50, replayed := true, courseDep := true }

/-- LAUNCH_RECEIVE (R108, R109, R250, R251). -/
def execLaunchReceive (h : RxHead) (b : LaunchBody) (s : State) : Result :=
  s.atPort h.port fun s =>
    let r := s.rxZudar h kLaunch b.target.ok
    if r.ok then
      let q := r.s.broadcast h.port 0x14 b.id (.launch b)
      if q.2 then q.1.takeEvent { id := b.id % 2 ^ 32, kind := b.kind, target := b.target.units, arg := b.arg } else q.1
    else r.s

end Sys2Proof.Machine
end

