-- ==== Sys2Proof/Machine/Power.lean ====
section
/-! DEFINITION. Sys2Proof/Machine/Power.lean: idle timers, refusers, Nap, Thatch, the wake and the rebuild of time
(spec/14_power.md). -/
namespace Sys2Proof.Machine
open Sys2Proof.Config

/-! ### Refusers (R346) -/

/-- PW_NAP.HOR in force. -/
def State.napHor (s : State) : Nat := max 1 (s.fl PW_NAP 16 16)
/-- PW_NAP.LEAD in force. -/
def State.napLead (s : State) : Nat := min s.napHor (s.fl PW_NAP 0 16)

/-- A course number of an optional report lies before a limit. -/
def dueBefore (o : Option Nat) (c : Nat) : Bool :=
  match o with
  | some d => decide (d < c)
  | none => false

/-- A command slot is handed over and not completed. -/
def State.cmdPending (s : State) : Bool :=
  s.cp.slots.any fun e => decide (e.2.st = .queued) || decide (e.2.st = .running)

/-- A calibration of refuser CAL is running. -/
def State.calRunning (s : State) : Bool :=
  s.bt.busy || s.im.claim.isSome || !s.im.calReady || s.ev.pulses.any fun e => e.2.cal

/-- Whether a refuser holds for Nap or Thatch, at the boundary into course `nc`; `member` tells that a gang member
refuses (log entry 42). -/
def State.refuses (s : State) (thatch : Bool) (nc : Nat) (member : Bool) (code : Nat) : Bool :=
  let v := s.servo s.td.sel
  match code with
  | 0x01 =>
    if thatch then s.sq.horizon.isSome || decide (s.sq.st = .running) || decide (s.sq.st = .held)
    else dueBefore s.sq.horizon (nc + s.napHor)
  | 0x02 =>
    if thatch then
      decide (s.od.waiters ≠ []) || decide (s.od.lends ≠ []) || decide (s.od.fenced ≠ []) || decide (s.od.tapQ ≠ []) ||
        decide (s.od.reads ≠ []) || decide (s.od.remote ≠ []) || s.od.ctxs.any fun e => e.2.st = .scrub
    else dueBefore s.objHorizon (nc + s.napHor)
  | 0x03 => decide (s.inFlight ≠ 0) || !s.ce.ctrs.isEmpty
  | 0x04 => s.cmdPending
  | 0x05 =>
    !s.td.acq || !v.locked || s.td.slew ||
      (thatch && ((s.servo .a).openLoop || (s.servo .b).openLoop || (s.servo .a).forced || (s.servo .b).forced))
  | 0x06 => s.bit PW_CTL 2 || s.pw.dbgPin
  | 0x07 => thatch && s.isRidge
  | 0x08 => s.calRunning
  | 0x09 => s.hf.active || s.hf.pend
  | 0x0A => member
  | 0x0B => thatch && s.td.plan.isSome
  | 0x0C => thatch && s.isEave && s.portList.any fun p =>
      decide ((s.port p).health = .admitting) || decide ((s.port p).health = .probation)
  | _ => false

/-- The refusers that hold, lowest code first. -/
def State.refusers (s : State) (thatch : Bool) (nc : Nat) (member : Bool) : List Nat :=
  ((List.range 12).map (· + 1)).filter (s.refuses thatch nc member)

/-- A refused attempt (R346): every refuser counts, the lowest is shown. -/
def State.refused (s : State) (l : List Nat) (st : Nat) : State :=
  let s := l.foldl (fun s k => s.count (PW_REF_CNT k)) s
  State.evt { s with pw := { s.pw with lastRef := l.headD 0, lastSt := st } } 27

/-! ### The attempt (R345, R347) -/

/-- PW_IDLE at the boundary that ends the running course. -/
def State.idleNow (s : State) : Nat := if s.pw.busy then 0 else min 0xFFFFFFFF (s.pw.idle + 1)

/-- An attempt on a state is due: its enable bit, and its timer or a request of power.enter. -/
def State.attemptDue (s : State) (st : Nat) : Bool :=
  let tmr := max 1 (s.rd (if st = 2 then PW_TMR_THATCH else PW_TMR_NAP))
  s.bit PW_CTL (st - 1) && (decide (tmr ≤ s.idleNow) || (decide (s.pw.req = st) && !s.pw.busy))

/-- One attempt (log entry 42). -/
def State.tryEnter (s : State) (st nc : Nat) (member : Bool) : State :=
  match s.refusers (decide (st = 2)) nc member with
  | [] => { s with pw := { s.pw with enter := st, req := 0, reqIdle := false } }
  | l => s.refused l st

/-- Step 6 of R18 up to the decision: Thatch first, then Nap (R345); a gang member follows its leader (R347), but a ridge
never enters Thatch (R23) (log entries 3 and 42). -/
def State.powerAttempt (s : State) (nc : Nat) (i : TickIn) : State :=
  if s.did.power then s
  else
    let s := { s with did := { s.did with power := true }, pw := { s.pw with enter := 0 } }
    if s.follower then
      match i.gangEnter with
      | some (st, true) =>
        if st = 2 ∧ s.isRidge then s.refused [7] 2 else { s with pw := { s.pw with enter := st } }
      | some (st, false) =>
        let l := s.refusers (decide (st = 2)) nc false
        if l = [] then s else s.refused l st
      | none => s
    else
      let s := if s.attemptDue 2 then s.tryEnter 2 nc i.gangRefuse else s
      if s.pw.enter = 0 ∧ s.pw.st = .active ∧ s.attemptDue 1 then s.tryEnter 1 nc i.gangRefuse else s

/-! ### Nap (R344) -/

/-- The course of the planned wake. -/
def State.napPlan (s : State) : Option Nat :=
  (earliest (s.sq.horizon.toList ++ s.objHorizon.toList)).map (· - s.napLead)

/-- Entry into Nap (log entry 42). -/
def State.enterNap (s : State) : State :=
  if s.pw.st ≠ .active then s
  else
    let s := ((s.setPower .nap).count PW_CNT_NAP).evt 26
    { s with
      pw := { s.pw with planned := s.napPlan, fresh := true }
      ck := { s.ck with gates := s.ck.gates &&& napGroups }
      hf := { s.hf with wdog := none } }

/-- The planned wake falls due at the boundary into course `nc`. -/
def State.napPlanned (s : State) (nc : Nat) : State :=
  if s.pw.st = .nap then
    match s.pw.planned with
    | some c => if c ≤ nc then s.wake 7 0 none else s
    | none => s
  else s

/-! ### Thatch (R348) -/

/-- The holdover record of a domain at entry: a domain in TRACK or HOLD is in HOLD, not syntonised (log entry 43). -/
def State.thatchHold (s : State) (d : Dom) (nc : Nat) : State :=
  let irq := s.irq
  let s := if (s.servo d).st = .track then s.enterHold d nc else s
  let s := { s with irq := irq }
  s.modServo d fun v =>
    if v.st = .hold ∧ v.synt then { v with synt := false, syntSrc := 15, f0 := v.f, t0 := s.rs.temp, model := nc }
    else { v with freqPts := [], seeded := false }

/-- Entry into Thatch at the boundary into course `nc`; `osc` is the oscillator's first edge after it.  The timing outputs are
driven low (R387) (log entry 43). -/
def State.enterThatch (s : State) (nc : Nat) (osc : Edge) : State :=
  let s := s.each (s.channels.filter fun p => decide ((s.port p).health ≠ .retired)) fun s p => s.retire p 4 nc
  let s := (s.fillAll.abortShots 2).thatchHold .a nc
  let s := s.thatchHold .b nc
  let s := if s.bit CG_CLKOUT 31 ∧ s.ck.coLow = false then s.clkoutDrive true else s
  let s := (s.setPower .thatch).count PW_CNT_THATCH
  { s with
    pw := { s.pw with
      saved := gridFifths nc osc.cyc + osc.code * codeFifths, fEntry := s.fHold s.td.sel nc
      entry := nc, oscLost := false, ovenFell := false, loaded := false, planned := none, fresh := true }
    ck := { s.ck with tLock := false, lLock := false, gates := 0 }
    im := { s.im with rclk := [], clkDue := [] }
    hf := { s.hf with wdog := none } }

/-- The end of step 6: PW_IDLE, a request of power.enter, and the entry that has been decided (log entry 42). -/
def State.powerBoundary (s : State) (nc : Nat) (i : TickIn) : State :=
  let s := { s with pw := { s.pw with dbgPin := i.dbg } }
  let s := s.powerAttempt nc i
  let quit := s.pw.busy && s.pw.reqIdle
  let s := { s with pw := { s.pw with
    idle := s.idleNow, busy := false
    req := if quit then 0 else s.pw.req
    reqIdle := !quit && decide (s.pw.req ≠ 0) && (s.pw.reqIdle || !s.pw.busy) } }
  let st := s.pw.enter
  let s := { s with pw := { s.pw with enter := 0, planned := if s.pw.st = .nap then s.napPlan else s.pw.planned } }
  if st = 1 then s.enterNap else if st = 2 then s.enterThatch nc i.osc else s

/-! ### The rebuild (R350 to R352) -/

/-- The sum of floor((a·i + b) / m) over i below n. -/
def floorSum (fuel n m a b : Nat) : Nat :=
  match fuel with
  | 0 => 0
  | fuel + 1 =>
    let s := n * (n - 1) / 2 * (a / m) + n * (b / m)
    let y := a % m * n + b % m
    if y < m then s else s + floorSum fuel (y / m) (a % m) m (y % m)

/-- The growth of R157 over `c` courses slept from course `from_`, at the temperature of the wake (log entry 43). -/
def State.growSlept (s : State) (d : Dom) (from_ c : Nat) : State :=
  let v := s.servo d
  if v.st ≠ .hold then s
  else
    let dt := if s.rs.tempBad then 2560 else mag (s.rs.temp - v.t0)
    let kt := (s.fl RS_HO_KT 0 16 * 65536 * dt) / 256
    let k2 := 2 * s.rd RS_HO_K2
    let x := c * (s.fl RS_HO_K 16 16 * 65536 + kt) + floorSum 128 c 1000000 k2 (k2 * (from_ + 1 - v.entry)) + v.teRem
    s.setServo d { v with teAcc := min (0xFFFFFFFF * 65536) (v.teAcc + x / 1000000), teRem := x % 1000000 }

/-- time_of_g in 2^-16 ns, rounded once: the saved edge, k oscillator cycles at the mean holdover rate, and the
code of the wake edge (log entry 43). -/
def State.rebuiltTime (s : State) (k cw : Nat) : Int :=
  let fw := s.fHold s.td.sel (s.clk.course + k / 10)
  let fbar := (s.pw.fEntry + fw) / 2
  let d : Int := (k : Int) * 6553600
  let d := d + d * fbar / phaseScale
  roundDiv (s.pw.saved + 5 * d - 128 * cw) 5

/-- The rebuild is made (R351). -/
def State.canRebuild (s : State) (k : Nat) : Bool :=
  decide (k < 2 ^ 40) && !s.pw.oscLost && !(s.pw.ovenFell && s.bit CG_CTL 1)

/-- The counter is loaded with a time, and timers that count courses count the courses slept (log entry 43). -/
def State.loadTime (s : State) (u : Int) : State :=
  let grid := (5 * u / cycleFifths).toNat
  let slept := grid / 625 - s.clk.course
  let decays := grid / 625 / 2 ^ s.decayExp - s.clk.course / 2 ^ s.decayExp
  let s := s.each s.channels fun s p => s.modPort p fun v => { v with score := v.score >>> decays }
  let s := (s.growSlept .a s.clk.course slept).growSlept .b s.clk.course slept
  let keep (v : Servo) : Servo := { v with lockTick := v.lockTick + slept }
  let s := (s.modServo .a keep).modServo .b keep
  let s : State := { s with
    hf := { s.hf with score := s.hf.score >>> decays }
    clk := { course := grid / 625, cyc := grid % 625, ticks := s.clk.ticks + slept }
    td := { s.td with rot := (roundDiv (5 * u % cycleFifths) 512).toNat, rotCyc := grid % 625 } }
  s.skipFill.pulsesCatchUp

/-- Without a rebuild ACQ is cleared; the servos start again, and the course number is open (R351) (log entry 43). -/
def State.noRebuild (s : State) : State :=
  let r := (s.count PW_CNT_NOREBUILD).drawFree
  let fresh (v : Servo) : Servo := { v with st := .none, p := 0, f := 0, synt := false, freqPts := [], skipRun := 0 }
  let s := (r.1.modServo .a fresh).modServo .b fresh
  { s with
    clk := { course := r.2, cyc := 0, ticks := s.clk.ticks }
    td := { s.td with acq := false, te := 0xFFFFFFFF } }

/-- TIME_REBUILD: at the first oscillator edge after both PLLs lock (R350 to R352) (log entry 43). -/
def State.timeRebuild (s : State) (k cw : Nat) (temp : Int) (tempOk : Bool) : State :=
  if s.pw.st ≠ .waking ∨ s.ck.tLock = false ∨ s.ck.lLock = false ∨ s.pw.loaded then s
  else
    let s : State := { s with rs := { s.rs with temp := if tempOk then temp else s.rs.temp, tempBad := !tempOk, cand := [] } }
    let ok := s.canRebuild k
    let s := if ok then s.loadTime (s.rebuiltTime k cw) else s.noRebuild
    let unlock (v : Servo) : Servo := { v with locked := false, lockRun := 0, unlockRun := 0 }
    let s := (s.modServo .a unlock).modServo .b unlock
    let te := if ok then sat32 (ceilDiv (s.servo s.td.sel).teAcc 65536) else 0xFFFFFFFF
    { s with
      pw := { s.pw with rebuilt := ok, cyc := k, te := te, waitLock := true, loaded := true }
      bt := { s.bt with stepNext := true } }

/-- The first boundary after the load: the block is Active, admission of both rafters starts, the power-wake cause is
raised (R353). -/
def State.awaken (s : State) : State :=
  let s := s.setPower .active
  let s : State := { s with
    pw := { s.pw with loaded := false }
    hf := { s.hf with wdog := if s.cp.fw = .running then some 0 else none } }
  let s := s.each (s.channels.filter fun p => decide ((s.port p).health = .retired)) fun s p => s.startAdmission p
  (s.raiseIf (s.gang.inGang && !s.gang.lost.isEmpty) 26).raise 25

/-- WAIT_LOCK falls when the followed domain sets LOCKED (R352). -/
def State.waitLockBoundary (s : State) : State :=
  if (s.servo s.td.sel).locked then { s with pw := { s.pw with waitLock := false } } else s

/-- power.enter: the request, or none when the enable bit is 0 (R372). -/
def State.powerRequest (s : State) (st : Nat) : Option State :=
  if s.bit PW_CTL (st - 1) then some { s with pw := { s.pw with req := st, reqIdle := false } } else none

/-! ### The commands -/

/-- POWER_ENTRY_ATTEMPT (R346), at the boundary that ends the running course; `member` tells that a gang member
refuses. -/
def execPowerEntryAttempt (member : Bool) (s : State) : Result :=
  s.main fun s => s.powerAttempt (s.clk.course + 1) { gangRefuse := member }

/-- NAP_WAKE (R344): a wake event with its source and argument. -/
def execNapWake (src arg : Nat) (s : State) : Result :=
  s.main fun s => if s.pw.st = .nap then s.wake src arg none else s

/-- NAP_PLANNED_WAKE (R344), at the boundary that ends the running course. -/
def execNapPlannedWake (s : State) : Result := s.main fun s => s.napPlanned (s.clk.course + 1)

/-- THATCH_WAKE (R349): a wake event with its source and argument. -/
def execThatchWake (src arg : Nat) (s : State) : Result := .next (if s.asleep then s.wake src arg none else s)

/-- THATCH_TIMER_WAKE (R349): PW_THATCH_WAKE cycles have passed since entry. -/
def execThatchTimerWake (s : State) : Result :=
  .next (if s.asleep ∧ s.pw.st = .thatch ∧ s.rd PW_THATCH_WAKE ≠ 0 then s.wake 6 0 none else s)

/-- PW_WAKE (R356). -/
def execPwWake (s : State) : Result := .next (if s.ck.phase = .running then s.wake 3 0 none else s)

/-- TIME_REBUILD (R350): the oscillator cycles since the saved edge, the code of the wake edge, and the temperature
sense. -/
def execTimeRebuild (k cw : Nat) (temp : Int) (tempOk : Bool) (s : State) : Result :=
  .next (if s.asleep then s.timeRebuild k cw temp tempOk else s)

end Sys2Proof.Machine
end

