-- ==== Sys2Proof/Machine/Clock.lean ====
section
/-! DEFINITION. Sys2Proof/Machine/Clock.lean: the reset of the block, the start of the oscillator and of the PLLs, the
oven flag, the failures of a clock, the clock gates and CLKOUT (spec/06_clock_generation.md, R164 to R184;
spec/16_integration.md, R382 to R384, R400; spec/01_architecture.md, R27). -/
namespace Sys2Proof.Machine
open Sys2Proof.Config

/-! ### Reset -/

/-- The strap code is valid (R382) (log entry 6). -/
def strapOk (t : Ties) : Bool := t.strap = 1 || t.strap = 2

/-- The gang as a member finds it at reset (R27, R384): it leaves at once when its position is taken twice, when a
member of the other role is on the link, or when it counts another number of members (log entry 6). -/
def gangAtReset (t : Ties) (g : GangSeen) : Gang × Bool :=
  let size := t.gangSize % 8
  let pos := t.gangPos % 8
  if size = 0 then ({}, false)
  else if g.dupPos ∨ g.otherRole ∨ g.counted ≠ size + 1 then ({}, true)
  else
    ({ inGang := true, calibrated := decide (pos = 0), members := List.range (size + 1)
       num := if pos = 0 then t.idNum % 2 ^ 20 else g.leaderNum % 2 ^ 20 }, false)

/-- The release of por_n (R400): every register at its reset value (R9), the strap and the tie-offs sampled, and the count
of R164 started.  With an invalid strap code everything outside the always-on domain stays in reset (R383)
(log entry 6). -/
def State.porRelease (s : State) (t : Ties) (g : GangSeen) : State :=
  let c := gangAtReset t g
  let z : State := { State.reset with pending := s.pending, out := s.out, free := s.free, ties := t }
  if strapOk t then
    let z : State := { z with
      ck := { z.ck with phase := .oscCount }
      cp := { z.cp with iana := t.sbIana % 2 ^ 32 }
      gang := c.1 }
    z.raiseIf c.2 26
  else { z with
      ck := { z.ck with phase := .roleErr }
      cp := { z.cp with iana := t.sbIana % 2 ^ 32 } }

/-! ### The oscillator and the PLLs -/

/-- The oscillator's edges are being counted, or used. -/
def State.oscRuns (s : State) : Bool :=
  decide (s.ck.phase = .oscCount) || decide (s.ck.phase = .pllWait) || decide (s.ck.phase = .running)

/-- The cycles that the start count asks for (R164). -/
def oscTarget : Nat := 1048576

/-- A cycle of the oscillator is accepted when its period spans at least 2 and at most 6 monitor cycles (R164). -/
def oscAccepts (mon : Nat) : Bool := decide (2 ≤ mon) && decide (mon ≤ 6)

/-- The count has reached 1,048,576 (R164): OSC_GOOD is set; at start both PLLs are enabled (log entry 26). -/
def State.oscGoodSet (s : State) : State :=
  let c := { s.ck with oscGood := true, oscCnt := oscTarget, monOk := true }
  { s with ck := if c.phase = .oscCount then { c with phase := .pllWait } else c }

/-- The loss of lock of the timing PLL in service (R172, R173). -/
def State.timingUnlock (s : State) : State :=
  if s.ck.tLock then
    (({ s with ck := { s.ck with tLock := false, relock := none } } : State).count CG_CNT_TPLL_UNLOCK).raise 2
  else s

/-- The loss of lock of the logic PLL in service (R173): the logic clock falls back to the timing clock, and the block
enters Underlay mode with cause 3 (R337). -/
def State.logicUnlock (s : State) : State :=
  if s.ck.lLock then
    let s := s.fillAll
    ((({ s with ck := { s.ck with lLock := false, lclkFb := true } } : State).count CG_CNT_LPLL_UNLOCK).raise 2).underlayCause 3 0
  else s

/-- A fall of OVEN_OK: counted, and reported (R166) (log entry 27). -/
def State.ovenFall (s : State) : State := (s.count CG_CNT_OVEN_FALL).raise 2

/-- A loss of the oscillator (R164, R165, R173); OVEN_OK falls with OSC_GOOD while the flag is not used (R166).  Before OSC_GOOD the count restarts; in service OSC_GOOD is cleared
and both PLLs lose their reference.  In a sleep the loss is kept for the rebuild, and no cause is raised (R351,
R399) (log entry 26). -/
def State.oscLose (s : State) : State :=
  if s.ck.oscGood = false then
    (({ s with ck := { s.ck with oscCnt := 0, monOk := true } } : State)).count CG_CNT_OSC_RESTART
  else
    let s : State := { s with ck := { s.ck with oscGood := false, oscCnt := 0 } }
    if s.asleep then { s with pw := { s.pw with oscLost := true }, ck := { s.ck with tLock := false, lLock := false } }
    else
      let s := (s.count CG_CNT_OSC_LOSS).raise 2
      let s := if s.bit CG_CTL 1 then s else s.ovenFall
      if s.ck.phase = .running then s.timingUnlock.logicUnlock
      else { s with ck := { s.ck with tLock := false, lLock := false, phase := .oscCount } }

/-- A cycle of the oscillator whose period spans a number of monitor cycles (R164, R165): an accepted one is counted until the
count reaches its target, any other is a loss (log entry 26). -/
def State.oscCycle (s : State) (mon : Nat) : State :=
  if oscAccepts mon = false then s.oscLose
  else if s.ck.oscGood then s
  else if oscTarget ≤ s.ck.oscCnt + 1 then s.oscGoodSet
  else { s with ck := { s.ck with oscCnt := s.ck.oscCnt + 1, monOk := true } }

/-- Both PLLs have locked for the first time (R41, R167): the time counter starts with course 0, and the debounce can
count that course when the oven flag is high (log entry 26). -/
def State.startTime (s : State) (oven : Bool) : State :=
  if s.ck.phase = .pllWait ∧ s.ck.tLock ∧ s.ck.lLock then
    { s with
      ck := { s.ck with phase := .running, ovenLevel := oven, ovenAll := oven, ovenCnt := 0 }
      clk := {} }
  else s

/-- A PLL locks after a number of oscillator cycles (R171).  At start the second lock starts the time counter; in
service and after a sleep it is a return of lock (log entry 26). -/
def State.pllLocks (s : State) (p : Pll) (cycles : Nat) (oven : Bool) : State :=
  let c := s.ck
  let on := s.ck.oscGood && (decide (c.phase = .pllWait) || (decide (c.phase = .running) && decide (s.pw.st = .waking)))
  if on = false then s
  else
    match p with
    | .timing =>
      if c.tLock then s
      else ({ s with ck := { c with tLock := true, tLockT := cycles % 2 ^ 16, ovenLevel := oven } } : State).startTime oven
    | .logic =>
      if c.lLock then s
      else ({ s with ck := { c with lLock := true, lLockT := cycles % 2 ^ 16, ovenLevel := oven } } : State).startTime oven

/-- A PLL has not locked within 16,384 oscillator cycles (R171): its fail bit is set and it is tried once more; after
the second failure the block stays in reset (log entry 26). -/
def State.pllTimeout (s : State) (p : Pll) : State :=
  let c := s.ck
  let on := decide (c.phase = .pllWait) || (decide (c.phase = .running) && decide (s.pw.st = .waking))
  if on = false then s
  else
    let r : ClockGen × Nat := match p with
      | .timing => if c.tLock then (c, 0) else ({ c with tFail := true, tTry := c.tTry + 1 }, c.tTry + 1)
      | .logic => if c.lLock then (c, 0) else ({ c with lFail := true, lTry := c.lTry + 1 }, c.lTry + 1)
    { s with ck := if 2 ≤ r.2 then { r.1 with phase := .stuck } else r.1 }

/-! ### The oven flag (R166) -/

/-- CG_OSC_CFG.OVEN_DEB in force (log entry 27). -/
def State.ovenDeb (s : State) : Nat := max 1 (s.fl CG_OSC_CFG 0 16)

/-- The oven flag falls: the debounce restarts, and OVEN_OK falls in the same course.  In a sleep the fall is kept for
the rebuild (R351) (log entry 27). -/
def State.ovenDrop (s : State) : State :=
  let shown := s.bit CG_CTL 1 && s.ck.ovenOk
  let s : State := { s with ck := { s.ck with ovenLevel := false, ovenAll := false, ovenCnt := 0, ovenOk := false } }
  if s.asleep then { s with pw := { s.pw with ovenFell := true } }
  else if shown then s.ovenFall else s

/-- OVEN_OK rises when the count has reached OVEN_DEB (log entry 27). -/
def State.ovenRise (s : State) : State :=
  if s.ovenDeb ≤ s.ck.ovenCnt then { s with ck := { s.ck with ovenOk := true } } else s

/-- The debounce at a course tick, with the level of the flag there (log entry 27). -/
def State.ovenTick (s : State) (level : Bool) : State :=
  let s := if level = false ∧ s.ck.ovenLevel then s.ovenDrop else s
  let n := if s.ck.ovenAll then s.ck.ovenCnt + 1 else 0
  ({ s with ck := { s.ck with ovenCnt := min n 65535, ovenAll := level, ovenLevel := level } } : State).ovenRise

/-- A write of CG_CTL: a rise of OVEN_USE makes OVEN_OK take the debounced value at once, a fall makes it follow OSC_GOOD, and
every fall of OVEN_OK is counted and reported (log entry 27). -/
def State.cgCtlWrite (s : State) (v : Nat) : State :=
  let rises := bitOf v 1 && !s.bit CG_CTL 1
  let was := s.ovenOk
  let s := s.wr CG_CTL v
  let ok := if rises then decide (s.ovenDeb ≤ s.ck.ovenCnt) else s.ck.ovenOk
  let s : State := { s with ck := { s.ck with ovenOk := ok } }
  if was ∧ s.ovenOk = false then s.ovenFall else s

/-! ### Clock gates (R175 to R179) -/

/-- A group has work (log entry 29). -/
def State.groupWork (s : State) (k : Nat) : Bool :=
  match k with
  | 0 => s.cp.hostQ ≠ [] || s.cp.sbQ ≠ [] || s.cp.run ≠ []
  | 1 => decide (s.sq.st = .running) || decide (s.sq.st = .held) || s.sq.start.isSome || s.sq.stop.isSome
  | 2 => s.od.reads ≠ [] || s.od.tapQ ≠ [] || s.od.ctxs.any fun c => decide (c.2.st = .scrub)
  | 3 => s.ce.held ≠ []
  | 4 => s.ports.any fun p => p.2.xq ≠ [] || p.2.cq ≠ [] || p.2.tq ≠ [] || p.2.xWait ≠ [] || p.2.cWait ≠ []
  | 5 => s.ports.any fun p => decide (p.2.cand ≠ 0) || p.2.cmdRetire || p.2.cmdLive || p.2.cmdAdmit
  | 6 => decide (s.im.st = .armed) || decide (s.im.st = .running) || s.im.claim.isSome
  | 7 => s.compat
  | 8 => s.mm.reads ≠ [] || s.mm.writes ≠ [] || s.mm.waitR ≠ [] || s.mm.waitW ≠ []
  | 9 => decide (s.sq.st = .running) || s.cp.run.any fun r => decide (r.op = 0x40)
  | 10 => s.bit CG_CLKOUT 31
  | _ => false

/-- The gate of a group closes, its group having had no work and no access for HOLD logic cycles (R177)
(log entry 29). -/
def State.closeGate (s : State) (k : Nat) : State :=
  if s.bit CG_CTL 0 = false ∨ s.bit CG_GATE_FORCE k ∨ s.groupWork k then s
  else { s with ck := { s.ck with gates := s.ck.gates &&& ~~~(BitVec.ofNat 12 (2 ^ k)) } }

/-- A register access to a group: held until a closed gate has opened, and counted (R178) (log entry 24). -/
def State.gateAccess (s : State) (k : Nat) : State :=
  if s.gatesPresent.getLsbD k ∧ s.gateStat.getLsbD k = false then (s.count CG_CNT_GATE_WAIT).openGate k else s

/-! ### CLKOUT (R180 to R182) -/

/-- Whether a source of a nominal rate in kHz, divided by `d`, stays within 312.5 MHz (log entry 11). -/
def clkSlow (khz d : Nat) : Bool := decide (khz ≤ 312500 * d)

/-- The rate of the logic clock in kHz. -/
def State.logicKhz (s : State) : Nat := if s.ck.lclkFb then 625000 else 1250000

/-- The setting of CG_CLKOUT holds the output low: a reserved source, an absent one, or one too fast (R180, R181)
(log entries 11 and 28). -/
def State.clkoutBad (s : State) : Bool :=
  let d := s.fl CG_CLKOUT 0 16 + 1
  let tap := s.fl CG_CLKOUT 16 6
  match s.fl CG_CLKOUT 24 5 with
  | 0 => false
  | 1 => false
  | 2 => !clkSlow 625000 d
  | 3 => !clkSlow s.logicKhz d
  | 4 => false
  | 5 => false
  | 6 => false
  | 7 => false
  | 8 => false
  | 9 => false
  | 10 => false
  | 11 => false
  | 12 => (s.slotPort 6).isNone
  | 13 => (s.slotPort 7).isNone
  | 14 => (s.slotPort 8).isNone
  | 15 => (s.slotPort 9).isNone
  | 16 => decide ((s.servo .a).freqSrc = 15)
  | 17 => decide ((s.servo .b).freqSrc = 15)
  | 18 => decide (s.ties.gangSize = 0) || !clkSlow 625000 d
  | 19 => !s.isEave || decide (tap ∉ s.ties.taps) || decide (10 * d * s.rd (BT_Tn_PNOM tap) < 32 * 2 ^ 24)
  | 20 => !clkSlow hostClockKhz d
  | 21 => !clkSlow memClockKhz d
  | 22 => !clkSlow s.logicKhz d
  | 23 => !clkSlow s.logicKhz d
  | _ => true

/-- CG_STAT.CO_ERR (log entry 28). -/
def State.coErr (s : State) : Bool := s.bit CG_CLKOUT 31 && s.clkoutBad

/-- A write of CG_CLKOUT: it only stores the setting while EN is 0 before and after (R182) (log entry 28). -/
def State.clkoutWrite (s : State) (v : Nat) : State :=
  let was := s.bit CG_CLKOUT 31
  let s := s.wr CG_CLKOUT v
  if s.bit CG_CLKOUT 31 then (s.openGate 10).clkoutDrive s.clkoutBad
  else if was then s.clkoutDrive true
  else s

/-- At a course tick: a source that has become absent holds CLKOUT low, one that has returned starts it again, and the tick is
itself a source of pulses (R180, R181) (log entry 28). -/
def State.clkoutTick (s : State) : State :=
  let s := if s.bit CG_CLKOUT 31 ∧ s.clkoutBad ≠ s.ck.coLow then s.clkoutDrive s.clkoutBad else s
  s.clkoutPulse 5

/-- TXREF carries the timing clock divided by 4: in a ridge alone, while the timing pins are driven (R387, R388). -/
def State.txref (s : State) : Bool := s.isRidge && s.up

/-! ### The commands -/

/-- POR_RELEASE (R400). -/
def execPorRelease (t : Ties) (g : GangSeen) (s : State) : Result :=
  .next (if s.ck.phase = .held then s.porRelease t g else s)

/-- POR_ASSERT (R400). -/
def execPorAssert (s : State) : Result :=
  .next { State.reset with pending := s.pending, out := (s.setPower .active).out, free := s.free }

/-- OSC_GOOD (R164). -/
def execOscGood (s : State) : Result :=
  .next (if s.oscRuns ∧ s.ck.oscGood = false then s.oscGoodSet else s)

/-- OSC_LOSS (R165): a period outside the limits, or no edge for 6 monitor cycles. -/
def execOscLoss (s : State) : Result := .next (if s.oscRuns then s.oscCycle 7 else s)

/-- PLL_LOCK (R171): the oscillator cycles it took, and the level of the oven flag. -/
def execPllLock (p : Pll) (cycles : Nat) (oven : Bool) (s : State) : Result := .next (s.pllLocks p cycles oven)

/-- PLL_LOCK_TIMEOUT (R171). -/
def execPllLockTimeout (p : Pll) (s : State) : Result := .next (s.pllTimeout p)

/-- TIMING_PLL_UNLOCK (R173). -/
def execTimingPllUnlock (s : State) : Result := s.main fun s => s.timingUnlock

/-- TIMING_PLL_RELOCK (R173, R174): lock has returned, the oscillator being good.  The row does not tell how long the lock
took: that value of CG_PLL_LOCKT is a free value (log entry 5). -/
def execTimingPllRelock (s : State) : Result :=
  s.main fun s =>
    if s.ck.oscGood ∧ s.ck.tLock = false then
      let r := s.drawFree
      { r.1 with ck := { r.1.ck with tLock := true, tLockT := r.2 % 2 ^ 16, relock := some (r.1.clk.ticks + 1) } }
    else s

/-- LOGIC_PLL_UNLOCK (R173). -/
def execLogicPllUnlock (s : State) : Result := s.main fun s => s.logicUnlock

/-- LOGIC_PLL_RELOCK (R173): the logic clock stays on the timing clock until Underlay mode is left.  How long the lock took is
a free value (log entry 5). -/
def execLogicPllRelock (s : State) : Result :=
  s.main fun s =>
    if s.ck.oscGood ∧ s.ck.lLock = false then
      let r := s.drawFree
      { r.1 with ck := { r.1.ck with lLock := true, lLockT := r.2 % 2 ^ 16 } }
    else s

/-- OVEN_FLAG_FALL (R166): before the time counter runs there is no debounce, and the level alone falls. -/
def execOvenFlagFall (s : State) : Result :=
  .next (if s.ck.phase = .running then s.ovenDrop
    else if s.oscRuns then { s with ck := { s.ck with ovenLevel := false } } else s)

/-- OVEN_OK_RISE (R166), at the tick at which the count has reached OVEN_DEB. -/
def execOvenOkRise (s : State) : Result := s.main fun s => s.ovenRise

/-- GATE_CLOSE (R177). -/
def execGateClose (k : Nat) (s : State) : Result := s.main fun s => if k < 12 then s.closeGate k else s

end Sys2Proof.Machine
end

