-- ==== Sys2Proof/Machine/Tree.lean ====
section
/-! DEFINITION. Sys2Proof/Machine/Tree.lean: the collective engine at a boundary, and the commands of its frames, its
timeouts and its gang (spec/11_collectives.md, R285 to R303; R18, R103). -/
namespace Sys2Proof.Machine
open Sys2Proof.Config

/-! ### The engine at a boundary -/

/-- What follows an outcome that has been applied: the SIGNAL of DONE_OBJ on completion (R287), and the verdict when
STEPEND contributed the vote (R240). -/
def State.afterOutcome (s : State) (a : Applied) : State :=
  let s := match a.hd.doneObj with
    | some h => if a.o.reason = 0 then s.doneSignal h else s
    | none => s
  s.verdict a

/-- What follows a list of applied outcomes. -/
def State.afterOutcomes (s : State) (l : List Applied) : State := l.foldl State.afterOutcome s

/-- Step 3 of R18: the outcomes that have arrived are applied. -/
def State.collArrivals (s : State) : State :=
  let r := s.applyOutcomes
  r.1.afterOutcomes r.2

/-- Instances that end ISOLATED at a boundary with count `t`. -/
def State.collIsolated (s : State) (t : Nat) : State :=
  let r := s.isolate t
  r.1.afterOutcomes r.2

/-- Steps 3 and 4 of R18 at the boundary ending course `n`, with boundary count `t`. -/
def State.collBoundary (s : State) (n t : Nat) : State :=
  let s := (s.collArrivals.collDeadlines n).collIsolated t
  let s := ((s.freeOrphans t).moveTimeouts t).ageClosed t
  s.releaseHeld.sendHeldLogs

/-! ### Frames -/

/-- The pipeline's view of a collective message (R103, R296): replayed and course-dependent; those of class X are
acted on in Underlay mode (R338). -/
def kColl (typ need : Nat) (express : Bool) : RxKind :=
  { typ := typ, need := need, replayed := true, express := express, courseDep := true, underlay := express }

/-- A collective frame has passed the pipeline: the engine takes it while CE_CTL.EN is 1 (R307) (log entry 54). -/
def State.collFrame (s : State) (h : RxHead) (k : RxKind) (f : State → State) : State :=
  let r := s.rxZudar h k
  if r.ok ∧ r.s.ceOn then f (r.s.openGate 3) else r.s

/-- COLL_UP_RECEIVE (R286): at a child port of a ridge. -/
def execCollUpReceive (h : RxHead) (m : CollUp) (s : State) : Result :=
  s.atPort h.port fun s => s.collFrame h (kColl 0x40 (Body.collUp m).msgLen false) fun s =>
    if s.isRidge then (if (s.port h.port).role = .child then s.ridgeUp h.port m else s.count CE_CNT_STRAY) else s

/-- COLL_DOWN_RECEIVE (R287). -/
def execCollDownReceive (h : RxHead) (m : CollDown) (s : State) : Result :=
  s.atPort h.port fun s => s.collFrame h (kColl 0x41 (Body.collDown m).msgLen false) fun s =>
    if s.isEave then s.eaveDown h.port m else s.ridgeDown h.port m

/-- COLL_MOVE_RECEIVE (R303). -/
def execCollMoveReceive (h : RxHead) (m : CollMove) (s : State) : Result :=
  s.atPort h.port fun s => s.collFrame h (kColl 0x42 44 true) fun s =>
    if s.isEave then s.eaveMove m else s.ridgeMove h.port m

/-- COLL_ABORT_RECEIVE (R300). -/
def execCollAbortReceive (h : RxHead) (m : CollAbort) (s : State) : Result :=
  s.atPort h.port fun s => s.collFrame h (kColl 0x43 44 true) fun s =>
    if s.isEave then s.eaveAbort m else s.ridgeAbort h.port m

/-- COLL_REQ_RECEIVE (R299, R302): a ridge passes it on toward the root, and the authority root decides. -/
def execCollReqReceive (h : RxHead) (q : CollReq) (s : State) : Result :=
  s.atPort h.port fun s => s.collFrame h (kColl 0x44 52 true) fun s => if s.isRidge then s.routeReq q else s

/-! ### The gang and the timeouts -/

/-- The domain of the output goes on from the leader's rate in HOLD when the link is lost (R31) (log entry 31). -/
def State.gangHold (s : State) (nc : Nat) : State :=
  let s := s.modServo s.td.sel fun v => { v with f := s.td.rOut, fLast := [], te := s.td.te, p := 0, b := 0 }
  s.enterHold s.td.sel nc

/-- A rafter of this instance is live. -/
def State.anyLive (s : State) : Bool :=
  s.portList.any fun p => (s.port p).role.isLower && decide ((s.port p).health = .live)

/-- The lowest position of a list. -/
def lowest (l : List Nat) : Nat := l.foldl min 7

/-- This member is in the gang no longer: what it has in flight ends with STATE_LOST, and its output holds from the
leader's last rate; `dead` when the endpoint is lost from both trees until the gang is reset (R31) (log entry 31). -/
def State.gangQuit (s : State) (dead : Bool) (nc : Nat) : State :=
  let was := s.follower
  let s := s.endLocal 0x04
  let g := s.gang
  let s : State := { s with
    gang := { g with inGang := false, members := [], lost := [], leader := 0, miss := 0, dead := g.dead || dead }
    ce := { s.ce with gangWait := [] }
    sq := { s.sq with gangDigests := [], gangVotes := [] } }
  if was ∧ s.td.acq then s.gangHold nc else s

/-- The members that are left go on: a leader that has failed is followed by its heir, which has every collective in
flight aborted with STATE_LOST (R31) (log entry 31). -/
def State.gangGoOn (s : State) (rest : List Nat) (heir nc : Nat) : State :=
  let was := s.follower
  let s : State := { s with
    gang := { s.gang with members := rest, lost := [], leader := heir, miss := 0 }
    ce := { s.ce with gangWait := s.ce.gangWait.filter fun w => decide (w.1 ∈ rest) }
    sq := { s.sq with gangDigests := s.sq.gangDigests.filter fun d => decide (d.1 ∈ rest) } }
  if s.follower then s
  else
    let s := s.abortAll 0x04
    if was ∧ s.td.acq then s.gangHold nc else s

/-- Members that have failed leave at the boundary into course `nc` (R31).  When this member's own link has failed it goes on
alone; when the leader has failed, the lowest position that remains leads, and without a live rafter of its own it
declares the gang lost (log entry 31). -/
def State.gangLeave (s : State) (nc : Nat) : State :=
  if s.gang.inGang = false ∨ s.gang.lost = [] then s
  else
    let me := s.ties.gangPos
    let rest := s.gang.members.filter fun m => decide (m ∉ s.gang.lost)
    let gone : Bool := s.gang.leader ∈ s.gang.lost
    let heir := if gone then lowest rest else s.gang.leader
    if me ∈ s.gang.lost then s.gangQuit false nc
    else if gone && decide (heir = me) && !s.anyLive then (s.emit (.gangSend .dead)).gangQuit true nc
    else s.gangGoOn rest heir nc

/-- What a member sends reaches the leader (R29, R241, R285) (log entry 31). -/
def State.atLeader (s : State) (pos : Nat) (m : GangMsg) : State :=
  match m with
  | .contribution c =>
    if s.ceOn ∧ s.underlay = false then
      let s := (s.busy).openGate 3
      if s.isEave then s.gangContribution pos c else s.ridgeUp (gangSrc pos) c
    else s
  | .digest step dig => s.gangDigest pos step dig
  | .request q => if s.ceOn then s.routeReq q else s
  | .dead => s.gangQuit true s.clk.course
  | _ => s

/-- What the leader sends reaches a member (R29, R31, R241) (log entry 31). -/
def State.atMember (s : State) (m : GangMsg) : State :=
  match m with
  | .down d => if s.isEave then s.eaveDown 0 d else s.spreadDown d
  | .move v => if s.isEave then s.eaveMove v else s.spreadMove v
  | .abort a => if s.isEave then s.eaveAbort a else s.spreadAbort a
  | .diverged => if s.sq.st = .running then s.setSq { s.sq with told := true } else s
  | .dead => s.gangQuit true s.clk.course
  | _ => s

/-- GANG_CONTRIBUTION (R241, R285): what a member sends reaches the leader, and what the leader sends a member. -/
def execGangContribution (pos : Nat) (m : GangMsg) (s : State) : Result :=
  s.main fun s =>
    if s.gang.inGang ∧ pos ≠ s.ties.gangPos ∧ pos ∈ s.gang.members then
      if s.follower = false then s.atLeader pos m
      else if pos = s.gang.leader then s.atMember m else s
    else s

/-- ORPHAN_COUNTER_FREE (R286), at the boundary that ends the running course. -/
def execOrphanCounterFree (s : State) : Result := s.main fun s => s.freeOrphans (s.clk.ticks + 1)

/-- MOVE_TIMEOUT (R303), at the boundary that ends the running course. -/
def execMoveTimeout (s : State) : Result := s.main fun s => s.moveTimeouts (s.clk.ticks + 1)

/-- ISOLATED (R301, R306), at the boundary that ends the running course: an outcome that has arrived comes first. -/
def execIsolated (s : State) : Result := s.main fun s => s.collArrivals.collIsolated (s.clk.ticks + 1)

/-- COLLECTIVE_DEADLINE (R301), at the boundary that ends the running course: an outcome that has arrived comes first
(R18). -/
def execCollectiveDeadline (s : State) : Result := s.main fun s => s.collArrivals.collDeadlines s.clk.course

end Sys2Proof.Machine
end

