-- ==== Sys2Proof/Machine/Gang.lean ====
section
/-! DEFINITION. Sys2Proof/Machine/Gang.lean: the gang link: calibration, the leader's time at a follower, the loss of a
member and of the leader (spec/01_architecture.md, R27 to R31; spec/16_integration.md, R394, R395). -/
namespace Sys2Proof.Machine
open Sys2Proof.Config

/-- The keepalive from the leader's side at a tick: three courses in a row without one fail the link (R395)
(log entry 31). -/
def State.gangKeepalive (s : State) (ka : Bool) : State :=
  if s.gang.inGang = false ∨ s.gang.leader = s.ties.gangPos then s
  else if ka then { s with gang := { s.gang with miss := 0 } }
  else
    let s : State := { s with gang := { s.gang with miss := s.gang.miss + 1 } }
    if s.gang.miss = 3 then
      (({ s with gang := { s.gang with lost := s.ties.gangPos :: s.gang.lost } } : State)).raise 26
    else s

/-- The latency to the leader in 2^-16 ns: the sum over the hops, each a number of timing cycles and a converter code
(R28, R395). -/
def Gang.latency (g : Gang) : Int :=
  toUnits ((g.hops.map fun h => (h.cycles : Int) * cycleFifths + (h.code % 4096 : Nat) * codeFifths).sum)

/-- The leader's output time at the edge at which its word arrives: the time sent, corrected by the calibrated latency
(R29). -/
def State.leadNow (s : State) (l : LeadTime) : Int := l.sent + s.gang.latency

/-- A calibrated follower has its leader's time (R29). -/
def State.leads (s : State) (l : Option LeadTime) : Option LeadTime :=
  if s.follower && s.gang.calibrated then l else none

/-- The leader's time differs by half a timing cycle or more from the time that this member reaches at the tick that ends the
running course: its output time is stepped there (R29, R48) (log entry 31). -/
def State.gangJumps (s : State) (l : LeadTime) : Bool :=
  decide (cycleFifths ≤ 10 * mag (s.leadNow l - ((s.clk.course : Int) + 1) * courseUnits))

/-- What a follower takes from its leader beside the time (R29). -/
def State.gangTake (s : State) (l : LeadTime) : State :=
  let was := s.td.acq
  let s : State := { s with td := { s.td with acq := l.acq, sel := l.sel, rOut := l.rOut, te := l.te } }
  if l.acq ∧ was = false then s.raise 6 else s

/-- A follower takes its leader's time at the tick that begins a course (R29) (log entry 31). -/
def State.gangTime (s : State) (l : Option LeadTime) : State :=
  match s.leads l with
  | none => s
  | some l => s.gangTake l

/-- A member whose calibration has not completed 1,024 courses after the start is excluded from the gang, and reported
(R28); it keeps time from its own rafters from then on (log entry 31). -/
def State.gangCalOver (s : State) : State :=
  if s.gang.inGang ∧ s.gang.calibrated = false ∧ 1024 ≤ s.clk.ticks then
    ({ s with gang := { s.gang with inGang := false, members := [] } } : State).raise 26
  else s

/-- The keepalive that every member sends in every course on each gang port that is connected (R394, R395). -/
def State.gangBeat (s : State) : State :=
  let size := s.ties.gangSize % 8
  if size = 0 then s else s.emit (.gangKeepalive (decide (0 < s.ties.gangPos)) (decide (s.ties.gangPos < size)))

/-- The members among some positions that are not yet lost. -/
def Gang.fresh (g : Gang) (l : List Nat) : List Nat := l.filter fun m => decide (m ∈ g.members ∧ m ∉ g.lost)

/-- Positions are declared lost, without the cause. -/
def State.gangLost (s : State) (l : List Nat) : State :=
  if s.gang.inGang = false ∨ s.gang.fresh l = [] then s
  else { s with gang := { s.gang with lost := s.gang.lost ++ s.gang.fresh l } }

/-- Positions are declared lost: the link to them has failed (R31, R395) (log entry 31). -/
def State.gangLose (s : State) (l : List Nat) : State :=
  if s.gang.inGang = false ∨ s.gang.fresh l = [] then s else (s.gangLost l).raise 26

/-! ### The commands -/

/-- GANG_LINK_CALIBRATION_DONE (R28): the hops to the leader, each a number of timing cycles and a converter code. -/
def execGangLinkCalibrationDone (hops : List GangHop) (s : State) : Result :=
  s.main fun s =>
    if s.gang.inGang ∧ s.gang.calibrated = false then
      { s with gang := { s.gang with calibrated := true, hops := hops } }
    else s

/-- GANG_CAL_TIMEOUT (R28): a member whose calibration has not completed 1,024 courses after the start is excluded, and
reported; before that the row has no effect (log entry 31). -/
def execGangCalTimeout (pos : Nat) (s : State) : Result :=
  s.main fun s =>
    if s.gang.inGang = false ∨ pos ∉ s.gang.members ∨ pos = s.gang.leader ∨ s.clk.ticks < 1024 then s
    else if pos = s.ties.gangPos then s.gangCalOver
    else (({ s with gang := { s.gang with members := s.gang.members.filter fun m => decide (m ≠ pos) } } : State)).raise 26

/-- GANG_LINK_FAIL (R31, R395): the positions that the failed link separates from this member; this member's own
position when the leader is beyond it.  In Thatch the member wakes on its own; the cause is raised once it is Active (R357,
R399). -/
def execGangLinkFail (lost : List Nat) (s : State) : Result :=
  .next (if s.asleep then (s.gangLost lost).wake 5 0 none else if s.up then s.gangLose lost else s)

end Sys2Proof.Machine
end

