-- ==== Sys2Proof/Machine/Read.lean ====
section
/-! DEFINITION. Sys2Proof/Machine/Read.lean: what each register of the window reads as, and what a read of it does
(spec/17_register_index.md, R403 to R409, and the register tables of the chapters). -/
namespace Sys2Proof.Machine
open Sys2Proof.Config

/-! ### Codes of the states -/

/-- TD_x_STAT.STATE (R113). -/
def ServoState.num : ServoState → Nat
  | .none => 0
  | .freq => 1
  | .ready => 2
  | .track => 3
  | .hold => 4

/-- RS_CANDn_STAT.STATE (R137). -/
def CandState.num : CandState → Nat
  | .off => 0
  | .lost => 1
  | .disq => 2
  | .qualifying => 3
  | .qualified => 4

/-- BT_Tn_STAT.STATE (R191). -/
def TapState.num : TapState → Nat
  | .off => 0
  | .cal => 1
  | .acq => 2
  | .track => 3
  | .free => 4
  | .fail => 5

/-- IM_STAT.STATE. -/
def ImState.num : ImState → Nat
  | .idle => 0
  | .armed => 1
  | .running => 2
  | .done => 3
  | .aborted => 4

/-- OD_CTXn.STATE (R270). -/
def CtxState.num : CtxState → Nat
  | .undef => 0
  | .active => 1
  | .scrub => 2

/-- CP_SLOT_STAT (R362). -/
def SlotState.num : SlotState → Nat
  | .free => 0
  | .queued => 1
  | .running => 2
  | .done => 3

/-- CP_STAT.FW (R375). -/
def FwState.num : FwState → Nat
  | .rom => 0
  | .loading => 1
  | .running => 2
  | .trap => 3

/-- A bit at a place of a word. -/
def bitAt (b : Bool) (i : Nat) : Nat := bnat b * 2 ^ i

/-- The bits, at their places, of the indexes of a list that satisfy a test. -/
def maskOf (l : List Nat) (f : Nat → Bool) : Nat := l.foldl (fun acc i => acc + bitAt (f i) i) 0

/-! ### Status words -/

/-- TD_NOW_STAT (R45). -/
def State.nowStat (s : State) : Nat :=
  s.td.steps * 256 + bitAt (decide ((s.servo s.td.sel).st = .hold)) 3 + bitAt s.td.slew 2 + s.td.sel.num * 2 + bnat s.td.acq

/-- TD_PLAN_STAT. -/
def State.planStat (s : State) : Nat :=
  s.td.outcome % 4 * 64 + bitAt s.td.wide 5 + bitAt s.td.late 4 + s.td.planTarget.num * 2 + bnat s.td.plan.isSome

/-- TD_x_STAT (R114). -/
def State.servoStat (s : State) (d : Dom) : Nat :=
  let v := s.servo d
  let sec := if v.locked then min 65535 ((s.clk.ticks - v.lockTick) / 1000000) else 0
  sec * 65536 + min 4 (s.liveUplinks d).length * 256 + bitAt v.bridged 6 + bitAt v.follow 5 + bitAt v.locked 4 + v.st.num

/-- CG_STAT. -/
def State.cgStat (s : State) : Nat :=
  bitAt s.coErr 9 + bitAt s.ck.lclkFb 8 + bitAt s.ck.lFail 7 + bitAt s.ck.tFail 6 + bitAt s.ck.lLock 5 + bitAt s.ck.tLock 4 +
  bitAt s.ovenOk 3 + bitAt s.ck.ovenLevel 2 + bitAt s.ck.oscGood 1 + bnat s.ck.monOk

/-- IM_STAT. -/
def State.imStat (s : State) : Nat :=
  s.im.reason * 4096 + bitAt s.im.convFail 11 + bitAt s.im.armErr 10 + bitAt s.im.claim.isSome 9 + bitAt s.im.calReady 8 +
  s.im.st.num

/-- SQ_STAT. -/
def State.sqStat (s : State) : Nat :=
  s.sq.code % 256 * 2 ^ 24 + s.sq.pc % 16384 * 256 + bitAt s.sq.wait 7 + s.sq.st.num

/-- CE_USE. -/
def State.ceUse (s : State) : Nat := if s.isEave then s.inFlight else s.ce.ctrs.length

/-- PW_STAT. -/
def State.pwStat (s : State) : Nat :=
  s.pw.lastSt * 16384 + s.pw.lastRef * 256 + bitAt s.pw.dbgPin 5 + bitAt s.pw.waitLock 4 + bitAt s.pw.rebuilt 3 + s.pw.st.num

/-- HF_UL_STAT. -/
def State.ulStat (s : State) : Nat :=
  s.hf.unit * 2 ^ 24 + s.hf.cause * 65536 + s.hf.more * 256 + bitAt s.hf.pend 1 + bnat s.hf.active

/-- A command slot. -/
def State.cmdSlot (s : State) (k : Nat) : CmdSlot := s.cp.slots.get {} k

/-- CP_SLOT_STAT. -/
def State.slotStat (s : State) : Nat :=
  (List.range 20).foldl (fun acc k => acc + (s.cmdSlot k).st.num * 4 ^ k) 0

/-- A long command of an opcode is running. -/
def State.longRuns (s : State) (op : Nat) : Bool := s.cp.run.any fun r => r.long && decide (r.op = op)

/-- CP_STAT. -/
def State.cpStat (s : State) : Nat :=
  (s.cp.hostQ.length + s.cp.sbQ.length) * 65536 + bitAt (s.longRuns 0x70) 15 + bitAt (s.longRuns 0x40) 14 +
  bitAt (s.longRuns 0x04) 13 + bitAt (s.longRuns 0x02) 12 + bitAt s.cp.hostDown 4 + s.cp.fw.num

/-! ### Values that may be open -/

/-- A value that fits its field, or an open one. -/
def State.fitted (s : State) (w : Nat) (v : Int) : Nat :=
  if clampS w v = v then ofSigned w v else (freeValue s.free).toNat % 2 ^ w

/-- PF_RCLK of a port, in 2^-40, rounded toward minus infinity as RS_CANDn_FREQ is. -/
def State.rclkView (s : State) (p : Nat) : Nat := s.fitted 24 ((s.port p).rclk / 256)

/-- RS_CANDn_FREQ (R135); 0 for the local oscillator. -/
def State.candFreqView (s : State) (n : Nat) : Nat := if n = 10 then 0 else s.fitted 32 ((s.cand n).freq / 256)

/-- RS_QL (R159). -/
def State.qlView (s : State) : Nat :=
  let r := s.qualityOrFree
  r.2.1 * 256 + r.2.2

/-! ### Read-write registers -/

/-- The read-write registers that stand alone. -/
def fixedRegs : List Reg :=
  [GC_IRQ_EN, GC_IRQ_SB_EN, TD_CTL, TD_SLEW, TD_SERVO, TD_THR, TD_ALARM, TD_PLAN_MAX, TD_UTC, TD_CLOCK_ID, TD_PTP_DOM,
   TD_ROOT_CFG, RS_CTL, RS_QUAL, RS_WIN, RS_OPEN_TMO, RS_HOP_TE, RS_ROOT_TE, RS_HO_K, RS_HO_K2, RS_HO_KT, RS_HO_CFG,
   RS_TCOMP1, RS_TCOMP2, RS_TQ, RS_AGE, CG_CTL, CG_OSC_CFG, CG_GATE_CFG, CG_GATE_FORCE, CG_CLKOUT] ++
  [IM_CTL, IM_START_CFG, IM_PORT, IM_N, IM_START_AT, IM_CAL_CFG, ZC_CTL, ZC_TMO, SQ_FRZ_CFG, CE_CTL, CE_MOVE_TMO,
   CE_ISO_TMO, CE_ORPHAN, CE_HSEL, CE_GSEL, TP_CTL, TP_TW_PERIOD, TP_TW_PHASE, TP_TW_LEN, TP_QLIM, TP_PSEL, HF_CTL,
   HF_SCORE, HF_WEIGHT, HF_BUDGET, HF_ADMIT, HF_WDOG_CFG, HF_PSEL, PW_CTL, PW_NAP, PW_THATCH_WAKE, PW_TMR_NAP,
   PW_TMR_THATCH, CP_OWN, CP_HB_TMO, CP_RING_BASE, CP_RING_CFG, CP_RING_RD, CP_IRQ_CFG]

/-- Those of an eave only (R21). -/
def eaveRegs : List Reg :=
  [SQ_CTL, BT_CTL, BT_TAP_EN, BT_GUARD, BT_LOCK, BT_CAL_CFG, BT_MARGIN, OD_CTL, OD_DLK_WIN, OD_LEND, OD_FENCE_TMO,
   OD_RMT_TMO, OD_OVF_BASE]

/-- The read-write register that begins at an offset of a port's block. -/
def portReg (p sub : Nat) : Option Reg :=
  if sub = 0x000 then some (PF_CTL p)
  else if sub = 0x008 then some (PF_TX_LAT p)
  else if sub = 0x00C then some (PF_RX_LAT p)
  else if sub = 0x010 then some (PF_FIB_CORR p)
  else if sub = 0x028 then some (PF_RPL_CFG p)
  else if p ≠ 0 then none
  else if sub = 0x300 then some PF_LOG_BASE
  else if sub = 0x308 then some PF_LOG_CFG
  else if sub = 0x310 then some PF_LOG_RD
  else none

/-- The read-write register of a pulse block at an offset within it. -/
def pulseReg (n sub : Nat) : Option Reg :=
  if sub = 0x00 then some (SQ_Pn_CFG n)
  else if sub = 0x08 then some (SQ_Pn_DELAY n)
  else if sub = 0x14 then some (SQ_Pn_PERIOD n)
  else if sub = 0x18 then some (SQ_Pn_COUNT n)
  else if sub = 0x20 then some (SQ_Pn_NEXT n)
  else if sub = 0x28 then some (SQ_Pn_NEXT_FRAC n)
  else none

/-- The read-write register of a stop slot's block at an offset within it. -/
def stopReg (k sub : Nat) : Option Reg :=
  if sub = 0x00 then some (IM_Sk_CFG k)
  else if sub = 0x04 then some (IM_Sk_EDGE_N k)
  else if sub = 0x08 then some (IM_Sk_WIN_LO k)
  else if sub = 0x0C then some (IM_Sk_WIN_HI k)
  else none

/-- The port whose block holds an offset. -/
def State.portAt (s : State) (off : Nat) : Option Nat :=
  if 0x10000 ≤ off ∧ off < 0x90000 ∧ (off - 0x10000) / 0x400 < s.nPorts then some ((off - 0x10000) / 0x400) else none

/-- The index of a repeated block that holds an offset. -/
def blockAt (base size n off : Nat) : Option Nat :=
  if base ≤ off ∧ (off - base) / size < n then some ((off - base) / size) else none

/-- The read-write register that begins at an offset in the instance's role. -/
def State.rwReg (s : State) (off : Nat) : Option Reg :=
  match s.portAt off with
  | some p => portReg p ((off - 0x10000) % 0x400)
  | none =>
    if 0x10000 ≤ off then none
    else
      match fixedRegs.find? fun r => r.off = off with
      | some r => some r
      | none =>
        match (if s.isEave then eaveRegs.find? fun r => r.off = off else none) with
        | some r => some r
        | none =>
          match off / 0x1000 with
          | 2 =>
            match blockAt 0x2400 0x10 11 off with
            | some n => if off % 16 = 0 then some (RS_CANDn_CFG n) else if off % 16 = 8 then some (RS_CANDn_DELAY n) else none
            | none => none
          | 4 =>
            match blockAt 0x4100 0x40 8 off with
            | some k => stopReg k ((off - 0x4100) % 0x40)
            | none => if 0x4340 ≤ off ∧ off < 0x4378 ∧ off % 4 = 0 then some (IM_INn_DELAY ((off - 0x4340) / 4)) else none
          | 5 =>
            match blockAt 0x5400 0x40 8 off with
            | some n => pulseReg n ((off - 0x5400) % 0x40)
            | none => none
          | 7 => profileReg off
          | 11 =>
            match (if s.isEave then blockAt 0xB400 0x30 64 off else none) with
            | some n =>
              if (off - 0xB400) % 0x30 = 0 then some (BT_Tn_CFG n)
              else if (off - 0xB400) % 0x30 = 4 then some (BT_Tn_PNOM n) else none
            | none => none
          | _ => none

/-! ### Counters -/

/-- An offset in a run of 32-bit counters. -/
def inRun (lo hi off : Nat) : Bool := decide (lo ≤ off ∧ off ≤ hi ∧ off % 4 = 0)

/-- An offset holds a counter of the role. -/
def State.isCounter (s : State) (off : Nat) : Bool :=
  inRun 0x80 0x88 off || inRun 0x1280 0x12A0 off || inRun 0x1130 0x1134 off || inRun 0x11B0 0x11B4 off ||
  inRun 0x2300 0x2318 off || inRun 0x3080 0x3094 off || inRun 0x4080 0x4090 off || inRun 0x5200 0x522C off ||
  inRun 0x6080 0x609C off || inRun 0x7080 0x70A0 off || inRun 0x8080 0x809C off || inRun 0x9084 0x90BC off ||
  inRun 0xA080 0xA09C off || (s.isEave && (inRun 0xB080 0xB094 off || inRun 0xD080 0xD0AC off)) ||
  ((blockAt 0x5400 0x40 8 off).isSome && decide ((off - 0x5400) % 0x40 = 0x2C)) ||
  (s.isEave && (blockAt 0xB400 0x30 64 off).isSome && inRun 0x24 0x2C ((off - 0xB400) % 0x30)) ||
  ((s.portAt off).isSome && (inRun 0x080 0x0B4 ((off - 0x10000) % 0x400))) || decide (off = PF_LOG_DROP ∧ 0 < s.nPorts)

/-! ### Read-only registers, by block: width in bytes and value -/

/-- GC_ (R408). -/
def State.gcView (s : State) (off : Nat) : Option (Nat × Nat) :=
  let t := s.ties
  if off = 0x00 then
    some (4, bitAt (decide (s.ck.phase = .roleErr)) 31 + t.strap % 4 * 2 ^ 29 + t.gangSize % 8 * 2 ^ 26 +
      t.gangPos % 8 * 2 ^ 23 + t.idNum % 2 ^ 20)
  else if off = 0x04 then some (4, revision)
  else if off = 0x08 then some (4, bitAt s.root 16 + s.nPorts)
  else if off = 0x10 then some (4, s.irq.toNat)
  else none

/-- TD_ (R45, R130). -/
def State.tdView (s : State) (m : Master) (off : Nat) : Option (Nat × Nat) :=
  let l := s.td.now.get m
  if off = 0x1000 then some (4, l.ns)
  else if off = 0x1004 then some (4, l.frac)
  else if off = 0x1008 then some (8, l.sec)
  else if off = 0x1010 then some (8, l.epoch)
  else if off = 0x1018 then some (8, s.clk.course % 2 ^ 64)
  else if off = 0x1020 then some (4, l.stat)
  else if off = 0x1060 then some (8, ofSigned 64 s.td.rOut)
  else if off = 0x1068 then some (8, ofSigned 64 s.steerErr)
  else if off = 0x1070 then some (4, sat32 s.td.te)
  else if off = 0x1080 then some (8, s.td.planCourse % 2 ^ 64)
  else if off = 0x1088 then some (4, s.planStat)
  else if off = 0x108C then some (4, s.td.planId % 2 ^ 32)
  else
    match blockAt 0x1100 0x80 2 off with
    | none => none
    | some k =>
      let d := Dom.ofBit (k = 1)
      let v := s.servo d
      match (off - 0x1100) % 0x80 with
      | 0x00 => some (4, s.servoStat d)
      | 0x08 => some (8, ofSigned 64 v.f)
      | 0x10 => some (8, ofSigned 64 v.pUnits)
      | 0x18 => some (8, ofSigned 64 v.b)
      | 0x20 => some (4, sat32 v.te)
      | 0x28 => some (8, v.upd % 2 ^ 64)
      | _ => none

/-- RS_ (R163). -/
def State.rsView (s : State) (off : Nat) : Option (Nat × Nat) :=
  if off = 0x2038 then some (4, bitAt s.rs.tempBad 16 + ofSigned 16 s.rs.temp)
  else if off = 0x2040 then some (8, s.epochShown % 2 ^ 48)
  else if off = 0x2048 then some (4, s.qlView)
  else
    match blockAt 0x2100 0x40 2 off with
    | some k =>
      let v := s.servo (Dom.ofBit (k = 1))
      match (off - 0x2100) % 0x40 with
      | 0x00 => some (4, v.timeSrc * 2 ^ 28 + v.freqSrc * 2 ^ 24 + bitAt v.synt 3 + bitAt v.openLoop 2 + bitAt v.forced 1 +
          bnat (decide (v.st = .hold)))
      | 0x08 => some (8, v.entry % 2 ^ 64)
      | 0x10 => some (8, ofSigned 64 v.f0)
      | 0x18 => some (8, ofSigned 64 v.bo)
      | 0x20 => some (4, sat32 v.te0)
      | 0x24 => some (4, ofSigned 16 v.t0)
      | 0x28 => some (8, ofSigned 64 v.latest)
      | 0x30 => some (4, v.corrCnt % 2 ^ 32)
      | _ => none
    | none =>
      match blockAt 0x2400 0x10 11 off with
      | none => none
      | some n =>
        let c := s.cand n
        let sel (d : Dom) : Bool := decide ((s.servo d).freqSrc = n) || decide ((s.servo d).timeSrc = n)
        if off % 16 = 4 then
          some (4, min 65535 c.jumps * 65536 + c.qlRx * 4096 + bitAt (sel .b) 9 + bitAt (sel .a) 8 + c.st.num)
        else if off % 16 = 12 then some (4, s.candFreqView n)
        else none

/-- CG_ (R184). -/
def State.cgView (s : State) (off : Nat) : Option (Nat × Nat) :=
  if off = 0x3004 then some (4, s.cgStat)
  else if off = 0x300C then some (4, s.ck.oscCnt)
  else if off = 0x3010 then some (4, s.ck.lLockT * 65536 + s.ck.tLockT)
  else if off = 0x3024 then some (4, s.gateStat.toNat)
  else none

/-- A stop slot of the interval unit, from a master's latch (R221). -/
def statView (v : Stat) (sub : Nat) : Option (Nat × Nat) :=
  match sub with
  | 0x10 => some (4, v.n)
  | 0x14 => some (4, v.missed)
  | 0x18 => some (8, ofSigned 64 v.mean)
  | 0x20 => some (4, sat32 v.sdev)
  | 0x28 => some (8, ofSigned 64 v.lo)
  | 0x30 => some (8, ofSigned 64 v.hi)
  | 0x38 => some (8, ofSigned 64 v.last)
  | _ => none

/-- Local ports with a failed converter: how many converters, and the lowest port (R215). -/
def State.portConvFail (s : State) : Nat × Nat :=
  let l := (s.im.ramps.filter fun r => decide (32 ≤ r.1 ∧ 2 ≤ r.2)).map Prod.fst
  (l.length, (l.headD 32 - 32) / 2)

/-- IM_ (R227). -/
def State.imView (s : State) (m : Master) (off : Nat) : Option (Nat × Nat) :=
  let pins := List.range 22
  let pf := s.portConvFail
  if off = 0x4004 then some (4, s.imStat)
  else if off = 0x4014 then some (4, s.im.shots)
  else if off = 0x4020 then some (8, linNs s.im.start0 % 2 ^ 64)
  else if off = 0x4028 then some (4, fracOf s.im.start0)
  else if off = 0x4040 then some (8, (s.im.rawLatch.get m).lo)
  else if off = 0x4048 then some (8, (s.im.rawLatch.get m).hi)
  else if off = 0x4054 then some (4, s.im.gen % 65536 * 65536 + min 255 s.im.inl)
  else if off = 0x4058 then
    some (8, maskOf pins (fun p => decide (s.im.ramps.get 0 p = 1)) * 2 ^ 32 + maskOf pins s.convFailed)
  else if off = 0x4060 then some (4, min 65535 pf.1 * 65536 + pf.2)
  else
    match blockAt 0x4100 0x40 8 off with
    | some k => statView ((s.im.latch.get m).get {} k) ((off - 0x4100) % 0x40)
    | none => if 0x4300 ≤ off ∧ off < 0x4338 ∧ off % 4 = 0 then some (4, s.padOf ((off - 0x4300) / 4) % 2 ^ 32) else none

/-- ZC_ (R228). -/
def State.zcView (s : State) (off : Nat) : Option (Nat × Nat) :=
  let z := s.im.zc
  let busy := z.held || z.armed
  if off = 0xC004 then some (4, bitAt busy 3 + bitAt z.lock 2 + bitAt z.timeout 1 + bnat z.done)
  else if off = 0xC00C then some (4, z.coarse % 2 ^ 24)
  else if off = 0xC010 then some (4, z.fineStop * 65536 + z.fineStart)
  else if off = 0xC014 then some (4, sat32 z.result)
  else if off = 0xC018 then some (4, bitAt z.lock 8 + z.code % 256)
  else none

/-- SQ_ registers of an eave only (R21, R254). -/
def State.sqProgView (s : State) (off : Nat) : Option (Nat × Nat) :=
  let q := s.sq
  if off = 0x5004 then some (4, s.sqStat)
  else if off = 0x5008 then some (8, q.step % 2 ^ 64)
  else if off = 0x5010 then some (8, q.startCourse % 2 ^ 64)
  else if off = 0x5018 then some (4, q.len)
  else if off = 0x5020 then some (8, q.crc)
  else if off = 0x5028 then some (8, q.digest)
  else if off = 0x5030 then some (4, bitAt q.voteEn 10 + q.voteHandle % 1024)
  else if off = 0x5038 then some (8, q.dref)
  else if off = 0x5040 then some (8, q.dstep % 2 ^ 64)
  else if off = 0x5048 then some (4, q.tol % 65536 * 256 + q.n % 256)
  else if off = 0x5050 then some (8, q.horizon.getD (2 ^ 64 - 1) % 2 ^ 64)
  else if off = 0x5058 then some (4, q.arms.length)
  else if off = 0x5180 then some (4, q.agreed.toNat)
  else
    match blockAt 0x5100 8 16 off with
    | some k => if off % 8 = 0 then some (8, s.g k) else none
    | none => none

/-- SQ_ registers of the pulses, the freeze line and the events (R254). -/
def State.sqView (s : State) (off : Nat) : Option (Nat × Nat) :=
  if off = 0x5280 then some (4, min 16 s.ev.events.length)
  else if off = 0x5304 then some (4, s.ev.frzSeq % 2 ^ 32)
  else if off = 0x5308 then some (8, s.ev.frzLast % 2 ^ 64)
  else if off = 0x5310 then some (4, s.ev.frzId % 65536)
  else if off = 0x5050 then some (8, (s.sq.horizon.getD (2 ^ 64 - 1)) % 2 ^ 64)
  else
    match blockAt 0x5400 0x40 8 off with
    | some n =>
      let v := s.pulse n
      match (off - 0x5400) % 0x40 with
      | 0x04 => some (4, bitAt (decide (s.absCyc s.clk.cyc < v.fall)) 4 + bitAt v.cal 3 + min 4 v.pending.length)
      | 0x0C => some (4, v.drv % 2 ^ 32)
      | 0x10 => some (4, ofSigned 32 v.err)
      | _ => none
    | none => if s.isEave then s.sqProgView off else none

/-- The selected handle's instance shown: the one started last, while it is in flight. -/
def Handle.shown (h : Handle) : Option Inst := if h.isn = 0 then none else h.inst (h.isn - 1)

/-- CE_HVIEW1 of a handle (R307) (log entry 54). -/
def Handle.view (h : Handle) : Nat :=
  let a := match h.shown with | some i => i.attempt | none => 0
  let last := match h.recent with | r :: _ => r.2.reason | [] => 0
  last % 256 * 2 ^ 56 + h.lastStatus % 256 * 2 ^ 48 + h.op % 256 * 2 ^ 40 + h.fmt % 16 * 2 ^ 36 + h.rfmt % 16 * 2 ^ 32 +
  h.lanes % 32 * 2 ^ 27 + a % 4 * 2 ^ 25 + (h.domOf a).num * 2 ^ 24 + h.group % 4096 * 2 ^ 12 + min 4 h.insts.length * 256 +
  bitAt h.move 7 + bitAt h.sat 6 + (if h.insts = [] then 1 else 2)

/-- CE_ (R307). -/
def State.ceView (s : State) (off : Nat) : Option (Nat × Nat) :=
  let hd := if s.isEave then s.handle (s.rd CE_HSEL) else none
  let g := if s.isRidge then s.group (s.rd CE_GSEL % 4096) else none
  let a := s.ce.last
  if off = 0x6008 then some (4, s.ceUse)
  else if off = 0x600C then some (4, if s.isRidge then s.slotsUsed else 0)
  else if off = 0x6020 then some (8, a.cid % 2 ^ 32 * 2 ^ 32 + a.reason % 256 * 2 ^ 24 + a.originId % 2 ^ 24)
  else if off = 0x6028 then some (4, a.isn % 2 ^ 32)
  else if off = 0x602C then some (4, a.port % 4096)
  else if off = 0x6048 then some (8, match hd with | some h => h.cid % 2 ^ 32 * 2 ^ 32 + h.isn % 2 ^ 32 | none => 0)
  else if off = 0x6050 then some (8, match hd with | some h => h.view | none => 0)
  else if off = 0x6058 then
    some (8, match hd with
      | some h => ((h.shown.bind fun i => i.deadline).getD (2 ^ 64 - 1)) % 2 ^ 64
      | none => 2 ^ 64 - 1)
  else if off = 0x6068 then
    some (4, match g with | some x => 2 ^ 21 + (if s.isRoot then x.m % 2 ^ 21 else 0) | none => 0)
  else
    match blockAt 0x6100 8 8 off with
    | some k =>
      if off % 8 = 0 then
        some (8, match g with | some x => maskOf (List.range 64) fun i => x.ports.contains (k * 64 + i) | none => 0)
      else none
    | none => none

/-- A bucket's level in whole bytes, as a signed 32-bit field (R321). -/
def levelView (l : Int) : Nat := ofSigned 32 (l / 256)

/-- TP_ (R321). -/
def State.tpView (s : State) (off : Nat) : Option (Nat × Nat) :=
  let p := s.rd TP_PSEL
  let v := (s.fillBuckets p).port p
  if off = 0x7048 then
    some (8, if p < s.nPorts then levelView v.cLevel * 2 ^ 32 + levelView v.tLevel else 0)
  else if off = 0x7050 then
    some (4, if p < s.nPorts then min 64 v.xq.length * 2 ^ 24 + min 65535 v.cq.length * 256 + min 16 v.tq.length else 0)
  else none

/-- HF_ (R342). -/
def State.hfView (s : State) (off : Nat) : Option (Nat × Nat) :=
  let w := s.inWindow s.clk.course
  let p := s.rd HF_PSEL
  let v := s.port p
  if off = 0x8010 then
    some (4, min 65535 (s.channels.filter fun q => decide ((s.port q).health = .probation)).length * 65536 + min 8 w.length)
  else if off = 0x8018 then
    some (8, match w with | r :: _ => (r.course + s.budgetSpan) % 2 ^ 64 | [] => 2 ^ 64 - 1)
  else if off = 0x8024 then some (4, bitAt s.hf.alarmLast 1 + bnat s.hf.alarmBudget)
  else if off = 0x8028 then some (4, s.hf.lastUnit * 2 ^ 24 + s.hf.score)
  else if off = 0x8030 then some (4, s.ulStat)
  else if off = 0x8038 then some (8, s.hf.course % 2 ^ 64)
  else if off = 0x8058 then
    some (8, if p < s.nPorts then v.chg % 2 ^ 32 * 2 ^ 32 + v.score % 256 * 2 ^ 24 + v.reason % 16 * 2 ^ 20 + v.health.view * 2 ^ 16
      else 7 * 2 ^ 16)
  else
    match blockAt 0x8100 0x10 8 off with
    | none => none
    | some k =>
      let r := w[k]?
      if off % 16 = 0 then some (8, match r with | some x => x.course % 2 ^ 64 | none => 0)
      else if off % 16 = 8 then
        some (4, match r with
          | some x => 2 ^ 31 + x.reason % 16 * 2 ^ 20 + x.score % 256 * 2 ^ 12 + x.port % 512
          | none => 0)
      else none

/-- PW_ (R358). -/
def State.pwView (s : State) (off : Nat) : Option (Nat × Nat) :=
  if off = 0x9004 then some (4, s.pwStat)
  else if off = 0x9014 then some (4, sat32 s.pw.idle)
  else if off = 0x9020 then some (8, s.pw.entry % 2 ^ 64)
  else if off = 0x9028 then some (8, s.pw.cyc % 2 ^ 64)
  else if off = 0x9030 then some (4, sat32 s.pw.te)
  else if off = 0x9034 then
    some (4, s.pw.ovf * 65536 + (match s.pw.latch with | e :: _ => e.1 % 8 * 256 | [] => 0) + s.pw.latch.length)
  else none

/-- CP_ (R381). -/
def State.cpView (s : State) (off : Nat) : Option (Nat × Nat) :=
  if off = 0xA004 then some (4, s.cpStat)
  else if off = 0xA008 then some (8, s.ties.romVer % 2 ^ 32 * 2 ^ 32 + s.cp.fwVer % 2 ^ 32)
  else if off = 0xA010 then some (8, s.slotStat)
  else if off = 0xA034 then some (4, s.cp.ringWr % 2 ^ 32)
  else if off = 0xA044 then some (4, s.cp.iana)
  else if off = 0xA048 then
    some (4, bitAt s.cp.eid.isSome 15 + s.ties.sbAddr % 128 * 256 + s.cp.eid.getD 0 % 256)
  else none

/-- The host slot and the byte within it at an offset of the window (R359). -/
def slotAt (off : Nat) : Option (Nat × Nat) :=
  if 0xA400 ≤ off ∧ off < 0xB000 then some ((off - 0xA400) / 256, (off - 0xA400) % 256)
  else if 0xF000 ≤ off ∧ off < 0xF400 then some (12 + (off - 0xF000) / 256, (off - 0xF000) % 256)
  else none

/-- A word of a command slot: header, parameter or reply (R359). -/
def CmdSlot.word (c : CmdSlot) (i : Nat) : Nat :=
  if i = 0 then c.header else if i < 24 then c.params.get 0 i else c.reply.getD (i - 24) 0

/-- The signed 16-bit picoseconds of a skew in 2^-28 ns, saturating and rounded toward minus infinity. -/
def skewView (v : Int) : Nat := ofSigned 16 (clampS 16 (v * 1000 / 268435456))

/-- The block of a tap (R207). -/
def State.tapView (s : State) (n sub : Nat) : Option (Nat × Nat) :=
  let v := s.tap n
  match sub with
  | 0x08 => some (4, v.ptrk % 2 ^ 32)
  | 0x0C => some (4, min 255 v.armed.length * 65536 + bitAt v.warn 7 + bitAt v.flagged 6 + bitAt v.nsw 5 + v.st.num)
  | 0x10 => some (4, v.w % 2 ^ 32)
  | 0x14 => some (4, skewView v.skew * 65536 + min 65535 v.sigma)
  | 0x18 => some (4, ofSigned 32 v.err)
  | 0x1C => some (4, v.age % 2 ^ 32)
  | 0x20 => some (4, v.rep.code % 16 * 2 ^ 28 + v.rep.line % 16 * 2 ^ 24 + bitAt v.rep.late 23 + bitAt v.rep.fireStr 22 +
      min 255 v.rep.win * 256 + v.seq % 256)
  | _ => none

/-- BT_ (R207). -/
def State.btView (s : State) (off : Nat) : Option (Nat × Nat) :=
  let b := s.bt
  if off = 0xB004 then
    some (4, s.chainDepth % 16 * 4096 + bitAt b.topoErr 7 + bitAt b.guardErr 3 + bitAt b.calFail 2 + bitAt b.busy 1 + bnat b.done)
  else if off = 0xB020 then some (8, b.flag.toNat)
  else if off = 0xB028 then some (8, b.warn.toNat)
  else if off = 0xB030 then some (8, maskOf (List.range 64) fun n => decide ((s.tap n).st = .fail))
  else if off = 0xB038 then some (4, b.ageLast % 2 ^ 32)
  else
    match blockAt 0xB400 0x30 64 off with
    | some n => s.tapView n ((off - 0xB400) % 0x30)
    | none => none

/-- OD_CTXn (R281). -/
def State.ctxView (s : State) (n : Nat) : Nat :=
  let c := s.ctx n
  (s.od.lends.filter fun l => decide (l.ctx = n)).length % 65536 * 2 ^ 32 +
  (s.od.waiters.filter fun w => decide (hCtx w.handle = n)).length % 65536 * 2 ^ 16 +
  c.segs.length % 8 * 4096 + bitAt c.blocked.isSome 11 + bitAt c.ovf 10 + c.st.num * 256 + c.gen % 256

/-- OD_ control (R281). -/
def State.odView (s : State) (off : Nat) : Option (Nat × Nat) :=
  let o := s.od
  if off = 0xD004 then
    some (4, bitAt o.dlk 15 + bitAt (o.ctxs.any fun c => decide (c.2.st = .scrub)) 14 + min 4096 o.waiters.length)
  else if off = 0xD018 then some (4, o.dlkCtx % 256 * 2 ^ 24 + min 4096 o.dlkCount)
  else if off = 0xD020 then some (8, o.dlkCourse % 2 ^ 64)
  else
    match blockAt 0xD100 8 64 off with
    | some k => if off % 8 = 0 then some (8, o.dlkW.getD k 0) else none
    | none =>
      match blockAt 0xD800 8 256 off with
      | some n => if off % 8 = 0 then some (8, s.ctxView n) else none
      | none =>
        match blockAt 0xE000 0x10 256 off with
        | some n =>
          if off % 4 = 0 then
            some (4, match ((s.ctx n).segs)[off % 16 / 4]? with
              | some g => g.1 % 65536 * 65536 + (g.2 - 1) % 65536
              | none => 0)
          else none
        | none => none

/-- The block of a port (R92). -/
def State.pfView (s : State) (m : Master) (p sub : Nat) : Option (Nat × Nat) :=
  let v := s.port p
  let r := v.rpl
  match sub with
  | 0x004 => some (4, v.cgen % 256 * 2 ^ 24 + v.role.num * 4096 + v.dom.num * 2048 + v.health.stat * 512 + bitAt v.mismatch 8 +
      bitAt v.lenWarn 7 + bitAt v.rclkOk 6 + bitAt v.up 5)
  | 0x014 => some (4, v.fibDelay % 2 ^ 32)
  | 0x018 => some (4, v.fibLen % 2 ^ 20)
  | 0x01C => some (4, v.peerExp % 2 ^ 24)
  | 0x020 => some (4, match v.peerSeen with | some i => 2 ^ 31 + i % 2 ^ 24 | none => 0)
  | 0x024 => some (4, s.rclkView p)
  | 0x02C => some (4, min 3 r.failRun * 2 ^ 24 + r.ackSeq % 256 * 65536 + r.next % 256 * 256 + bitAt r.attempt.isSome 7 +
      min 64 r.entries.length)
  | 0x030 => some (4, v.cal.n % 2 ^ 17)
  | 0x034 => some (4, v.cal.lost % 2 ^ 17)
  | 0x038 => some (8, ofSigned 64 v.cal.mean)
  | 0x040 => some (4, sat32 v.cal.sdev)
  | 0x048 => some (8, (v.latch.get m).lo)
  | 0x050 => some (8, (v.latch.get m).hi)
  | _ => if p = 0 ∧ sub = 0x30C then some (4, s.logWr % 2 ^ 32) else none

/-- Read-only fields that stand beside read-write ones: PF_CTL.CAL, and the tie-offs of BT_Tn_CFG. -/
def State.roBits (s : State) (off : Nat) : Nat :=
  match s.portAt off with
  | some p => if (off - 0x10000) % 0x400 = 0 then bitAt (s.port p).cal.running 5 else 0
  | none =>
    match (if s.isEave ∧ off < 0xC000 then blockAt 0xB400 0x30 64 off else none) with
    | some n =>
      if (off - 0xB400) % 0x30 = 0 then
        (match s.ties.tapUp.find? fun e => e.1 = n with
          | some e => bitAt e.2.1 31 + e.2.2 % 64 * 2 ^ 24
          | none => 2 ^ 31)
      else 0
    | none => 0

/-- A register of the main window that begins at an offset: its width in bytes and what a master reads. -/
def State.regAt (s : State) (m : Master) (off : Nat) : Option (Nat × Nat) :=
  match s.rwReg off with
  | some r => some (r.bytes, if off / 0x1000 = 0xC ∧ s.compat = false then 0 else s.rd r + s.roBits off)
  | none =>
    if s.isCounter off then some (4, s.counter off)
    else
      match s.portAt off with
      | some p => s.pfView m p ((off - 0x10000) % 0x400)
      | none =>
        if 0x200000 ≤ off ∧ off < 0x220000 then
          if s.isEave ∧ off % 8 = 0 then some (8, s.word ((off - 0x200000) / 8)) else none
        else
          match slotAt off with
          | some (k, b) => if b % 8 = 0 then some (8, (s.cmdSlot k).word (b / 8)) else none
          | none =>
            match off / 0x1000 with
            | 0x0 => s.gcView off
            | 0x1 => s.tdView m off
            | 0x2 => s.rsView off
            | 0x3 => s.cgView off
            | 0x4 => s.imView m off
            | 0x5 => s.sqView off
            | 0x6 => s.ceView off
            | 0x7 => s.tpView off
            | 0x8 => s.hfView off
            | 0x9 => s.pwView off
            | 0xA => s.cpView off
            | 0xB => if s.isEave then s.btView off else none
            | 0xC => s.zcView off
            | 0xD => if s.isEave then s.odView off else none
            | 0xE => if s.isEave then s.odView off else none
            | _ => none

/-! ### Reads -/

/-- A read of TD_NOW_NS latches the output time and its status for a master (R42, R43) (log entry 35). -/
def State.latchNow (s : State) (m : Master) : State :=
  let t := s.nowUnits
  let ns := linNs t
  let l : NowLatch :=
    { ns := ns % 1000000000, frac := fracOf t, sec := ns / 1000000000 % 2 ^ 48, epoch := ns % 2 ^ 64, stat := s.nowStat }
  { s with td := { s.td with now := s.td.now.put m l } }

/-- A read shows a value that the spec leaves open: a frequency outside its field, or a quality without a row
(log entry 56). -/
def State.showsFree (s : State) (off : Nat) : Bool :=
  match s.portAt off with
  | some p => decide ((off - 0x10000) % 0x400 = 0x024) && decide (clampS 24 ((s.port p).rclk / 256) ≠ (s.port p).rclk / 256)
  | none =>
    match blockAt 0x2400 0x10 11 off with
    | some n => decide (off % 16 = 12) && decide (n ≠ 10) && decide (clampS 32 ((s.cand n).freq / 256) ≠ (s.cand n).freq / 256)
    | none => decide (off = 0x2048) && s.quality.isNone

/-- What a read of the 32-bit word at an offset does before its value is formed (R42, R85, R221, R222, R406). -/
def State.readDoes (s : State) (m : Master) (off : Nat) : State :=
  if off = 0x1000 then s.latchNow m
  else if off = 0x4040 then s.popRaw m
  else
    match (if off < 0x5000 then blockAt 0x4100 0x40 8 off else none) with
    | some k => if (off - 0x4100) % 0x40 = 0x10 then s.latchStat m k else s
    | none =>
      match s.portAt off with
      | some p => if (off - 0x10000) % 0x400 = 0x048 then s.popStamp m p else s
      | none => s

/-- The 32-bit word at an offset: a register, or half of one; 0 where there is none (R10, R406). -/
def State.word32 (s : State) (m : Master) (off : Nat) : Nat :=
  match s.regAt m off with
  | some (_, v) => v % 2 ^ 32
  | none =>
    match (if off % 8 = 4 then s.regAt m (off - 4) else none) with
    | some (w, v) => if w = 8 then v / 2 ^ 32 else 0
    | none => 0

/-- A draw of a free value for each open value shown (log entry 56). -/
def State.drawn (s : State) (off : Nat) : State := if s.showsFree off then s.drawFree.1 else s

/-- A read of the window by a master: of 64 bits at an offset aligned to 8, otherwise of 32 (R391, R405, R406).  An
offset that is not aligned to the size holds no register. -/
def State.regRead (s : State) (m : Master) (off : Nat) (wide : Bool) : State × Nat :=
  if off % (if wide then 8 else 4) ≠ 0 then (s, 0)
  else if 0x100000 ≤ off ∧ off < 0x200000 then
    if s.isEave then s.windowRead m ((off - 0x100000) / 16) (off % 16) wide else (s, 0)
  else if wide then
    let s := (s.readDoes m off).readDoes m (off + 4)
    let v := s.word32 m off + 2 ^ 32 * s.word32 m (off + 4)
    ((s.drawn off).drawn (off + 4), v)
  else
    let s := s.readDoes m off
    (s.drawn off, s.word32 m off)

end Sys2Proof.Machine
end

