-- ==== Sys2Proof/Machine/Cmd.lean ====
section
/-! DEFINITION. Sys2Proof/Machine/Cmd.lean: the command processor's own work: parameters, what an opcode's row asks,
replies, the completion ring and the interrupt count (spec/15_commands.md, R359 to R371). -/
namespace Sys2Proof.Machine
open Sys2Proof.Config

/-! ### Status codes (R367) -/

/-- DONE. -/
def stDone : Nat := 0x00
/-- BAD_OPCODE. -/
def stBadOpcode : Nat := 0x01
/-- BAD_LENGTH. -/
def stBadLength : Nat := 0x02
/-- INVALID_PARAM. -/
def stInvalidParam : Nat := 0x03
/-- INVALID_STATE. -/
def stInvalidState : Nat := 0x04
/-- NOT_IN_ROLE. -/
def stNotInRole : Nat := 0x05
/-- BUSY. -/
def stBusy : Nat := 0x06
/-- PORT_IN_USE. -/
def stPortInUse : Nat := 0x07
/-- UNDERLAY. -/
def stUnderlay : Nat := 0x08
/-- NOT_OWNER. -/
def stNotOwner : Nat := 0x09
/-- TABLE_REJECTED. -/
def stTableRejected : Nat := 0x0A
/-- MEMORY. -/
def stMemory : Nat := 0x0B
/-- IMAGE_BAD. -/
def stImageBad : Nat := 0x0C
/-- ABORTED. -/
def stAborted : Nat := 0x0D

/-! ### What an opcode's row asks -/

/-- What a command comes to: a reply, or it stays RUNNING. -/
inductive CmdOut where
  | done (s : State) (r : Reply)
  | wait (s : State) (r : RunCmd)

/-- A command that completes with a status and no data. -/
def CmdOut.status (s : State) (st : Nat) : CmdOut := .done s { status := st }

/-- A command that completes with DONE and reply data. -/
def CmdOut.ok (s : State) (d : List Nat := []) : CmdOut := .done s { d := d }

/-- A row of the opcode tables (R372): the mark U, whether it is long, the roles that serve it, the parameter words it
needs, the bits named in each word, and what it does at acceptance and, while it waits, later. -/
structure Cmd where
  u : Bool := false
  long : List Nat → Bool := fun _ => false
  role : State → Bool := fun _ => true
  need : List Nat → Nat := fun _ => 0
  masks : List Nat → List Nat := fun _ => []
  start : State → RunCmd → CmdOut
  later : State → RunCmd → CmdOut := fun s r => .wait s r

/-- Parameter word Pi; 0 where LEN does not reach it. -/
def prm (p : List Nat) (i : Nat) : Nat := p.getD (i - 1) 0

/-- Every bit of a parameter word. -/
def allBits : Nat := 2 ^ 64 - 1

/-- Bits not named are zero (R372). -/
def namedOnly (p masks : List Nat) : Bool :=
  (List.range p.length).all fun i => decide (p.getD i 0 &&& masks.getD i 0 = p.getD i 0)

/-- A time parameter in the memory form (R35, R36). -/
def timeParam (p : List Nat) (i : Nat) : Option Int :=
  let a := prm p i
  let b := prm p (i + 1)
  if a < 2 ^ 48 ∧ b % 2 ^ 32 < 1000000000 ∧ b / 2 ^ 32 < 65536 then
    some (WireTime.units { sec := a, ns := b % 2 ^ 32, frac := b / 2 ^ 32 })
  else none

/-- The wire form of a time parameter. -/
def wireParam (p : List Nat) (i : Nat) : WireTime :=
  { sec := prm p i, ns := prm p (i + 1) % 2 ^ 32, frac := prm p (i + 1) / 2 ^ 32 }

/-! ### Slots and queues (R361, R362, R368) -/

/-- Replace a command slot. -/
def State.setCmdSlot (s : State) (k : Nat) (c : CmdSlot) : State :=
  { s with cp := { s.cp with slots := s.cp.slots.set {} k c } }

/-- A slot of the sideband. -/
def sbSlot (k : Nat) : Bool := decide (16 ≤ k)

/-- OPCODE of a header. -/
def hdrOp (h : Nat) : Nat := field h 0 8
/-- LEN of a header. -/
def hdrLen (h : Nat) : Nat := field h 8 6
/-- TAG of a header. -/
def hdrTag (h : Nat) : Nat := field h 16 16
/-- FLAGS of a header. -/
def hdrFlags (h : Nat) : Nat := field h 32 8
/-- The zero bits of a header, FLAGS[7:2] included. -/
def hdrZero (h : Nat) : Bool := decide (field h 14 2 = 0 ∧ field h 34 30 = 0)

/-- A packet is handed over: the slot becomes QUEUED (R361). -/
def State.queueSlot (s : State) (k : Nat) (c : CmdSlot) : State :=
  let s := s.setCmdSlot k { c with st := .queued }
  if sbSlot k then { s with cp := { s.cp with sbQ := s.cp.sbQ ++ [k] } }
  else { s with cp := { s.cp with hostQ := s.cp.hostQ ++ [k] } }

/-- The slot that is accepted next, by master in turn (R368) (log entry 15). -/
def State.nextSlot (s : State) : Option Nat :=
  match s.cp.hostQ, s.cp.sbQ with
  | h :: _, b :: _ => some (if s.cp.hostNext then h else b)
  | h :: _, [] => some h
  | [], b :: _ => some b
  | [], [] => none

/-- A slot leaves its queue; with both masters waiting the other one is next (log entry 15). -/
def State.takeSlot (s : State) (k : Nat) : State :=
  let both := !s.cp.hostQ.isEmpty && !s.cp.sbQ.isEmpty
  { s with cp := { s.cp with
    hostQ := s.cp.hostQ.filter (· ≠ k), sbQ := s.cp.sbQ.filter (· ≠ k)
    hostNext := if both then sbSlot k else s.cp.hostNext } }

/-- Keep the record of a command that is not completed. -/
def State.putRun (s : State) (r : RunCmd) : State :=
  if s.cp.run.any fun x => x.slot = r.slot then
    { s with cp := { s.cp with run := s.cp.run.map fun x => if x.slot = r.slot then r else x } }
  else { s with cp := { s.cp with run := s.cp.run ++ [r] } }

/-! ### Replies and the ring (R363 to R366) -/

/-- Entries of the ring: 2^SIZE. -/
def State.ringSize (s : State) : Nat :=
  let z := s.fl CP_RING_CFG 0 5
  2 ^ (if 4 ≤ z ∧ z ≤ 16 then z else 8)

/-- The ring is in use. -/
def State.ringOn (s : State) : Bool := s.bit CP_RING_CFG 31

/-- Ring entries issued and not acknowledged. -/
def State.ringOut (s : State) : Nat := (s.cp.run.filter fun r => r.ring && !r.acked).length

/-- The ring is full for one more entry (R365) (log entry 16). -/
def State.ringFull (s : State) : Bool :=
  decide ((s.cp.ringWr + s.ringOut + 2 ^ 32 - s.rd CP_RING_RD) % 2 ^ 32 = s.ringSize)

/-- The eight words of a reply (R363). -/
def State.replyWords (s : State) (slot : Nat) (header : Nat) (phase : Bool) (r : Reply) : List Nat :=
  (hdrTag header + hdrOp header * 2 ^ 16 + r.status % 256 * 2 ^ 24 + bitAt phase 32 + bitAt (sbSlot slot) 33 +
    slot % 32 * 2 ^ 40 + r.detail % 65536 * 2 ^ 48) ::
  (s.clk.course % 2 ^ 64) :: (List.range 6).map fun i => r.d.getD i 0 % 2 ^ 64

/-- The completion count of the interrupt: COUNT, 0 acting as 1 (R366) (log entry 58). -/
def State.irqCount (s : State) : Nat := max 1 (s.fl CP_IRQ_CFG 16 8)

/-- A completion with FLAGS.IRQ counts toward the command-completion cause (R366). -/
def State.irqComplete (s : State) : State :=
  let s := { s with cp := { s.cp with
    irqCnt := s.cp.irqCnt + 1, irqTick := if s.cp.irqCnt = 0 then s.clk.ticks else s.cp.irqTick } }
  s.raiseIf (decide (s.irqCount ≤ s.cp.irqCnt)) 0

/-- The timer of the completion count has run out at a boundary with count `t` (log entry 58). -/
def State.irqTimeout (s : State) (t : Nat) : State :=
  let k := s.fl CP_IRQ_CFG 0 16
  s.raiseIf (decide (k ≠ 0 ∧ s.cp.irqCnt ≠ 0 ∧ s.cp.irqTick + k < t)) 0

/-- The command-completion cause has been cleared: the count starts again (log entry 58). -/
def State.irqRestart (s : State) : State := { s with cp := { s.cp with irqCnt := 0, irqTick := 0 } }

/-- The last steps of a completion: reply area or message, DONE, counters, interrupt (R363) (log entry 16). -/
def State.finalize (s : State) (r : RunCmd) (rep : Reply) (words : List Nat) : State :=
  let c := s.cmdSlot r.slot
  let s := { s with cp := { s.cp with run := s.cp.run.filter fun x => x.slot ≠ r.slot } }
  let s := s.setCmdSlot r.slot { c with st := .done, reply := if sbSlot r.slot then c.reply else words }
  let s := if sbSlot r.slot then s.emit (.sbAnswer 0x81 0 words) else s
  let s := (s.count CP_CNT_CMD).evt 24
  let s := if rep.status = stDone then s else s.count CP_CNT_ERR
  if sbSlot r.slot = false ∧ bitOf (hdrFlags c.header) 0 then s.irqComplete else s

/-- A command with its reply decided goes on as far as it can: the ring entry first, when it needs one (R363, R365)
(log entry 16). -/
def State.complete (s : State) (r : RunCmd) (rep : Reply) : State :=
  let h := (s.cmdSlot r.slot).header
  let plain := s.replyWords r.slot h false rep
  if r.ring then (if r.acked then s.finalize r rep r.words else s.putRun { r with reply := some rep })
  else if sbSlot r.slot ∨ bitOf (hdrFlags h) 1 = false ∨ s.ringOn = false then s.finalize r rep plain
  else if s.ringFull then
    (if r.waited then s else s.count CP_CNT_RING_WAIT).putRun { r with reply := some rep, waited := true }
  else
    let idx := s.cp.ringWr + s.ringOut
    let words := s.replyWords r.slot h (decide (idx / s.ringSize % 2 = 0)) rep
    let s := s.putRun { r with reply := some rep, words := words, ring := true }
    s.memWrite (.ring r.slot) (s.rd CP_RING_BASE + 64 * (idx % s.ringSize)) (words.flatMap (leBytes 8))

/-- The memory master port acknowledges a ring entry (R363) (log entry 16). -/
def State.ringAcked (s : State) (slot : Nat) : State :=
  match s.cp.run.find? fun r => r.slot = slot with
  | some r =>
    let s := { s with cp := { s.cp with ringWr := (s.cp.ringWr + 1) % 2 ^ 32 } }
    match r.reply with
    | some rep => s.finalize r rep r.words
    | none => s
  | none => s

/-- What a command comes to takes its place. -/
def CmdOut.settle (o : CmdOut) (r : RunCmd) : State :=
  match o with
  | .done s rep => s.complete r rep
  | .wait s r => s.putRun r

/-! ### Reads of long commands (R393) -/

/-- The bytes that the next burst of a read serves: at most 256, not across 4 KiB, from an address aligned to 16. -/
def burstLen (addr left : Nat) : Nat :=
  let base := addr - addr % 16
  let stop := min (base + 256) ((base / 4096 + 1) * 4096)
  min left (stop - addr)

/-- A command reads on, one burst at a time (log entry 17). -/
def State.readOn (s : State) (r : RunCmd) : CmdOut :=
  let n := burstLen r.addr r.left
  let base := r.addr - r.addr % 16
  .wait (s.memRead (.cmd r.slot (r.addr % 16)) base (ceilDiv (r.addr + n - base) 16)) { r with reads := 1 }

/-- A command starts to read a number of bytes from an address (log entry 17). -/
def State.readFrom (s : State) (r : RunCmd) (addr n : Nat) : CmdOut :=
  s.readOn { r with long := true, addr := addr, left := n }

/-- The data of a burst reach their command (log entry 17). -/
def RunCmd.take (r : RunCmd) (bytes : List Nat) (bad : Bool) : RunCmd :=
  let n := burstLen r.addr r.left
  { r with
    bytes := r.bytes ++ (bytes.drop (r.addr % 16)).take n, addr := r.addr + n, left := r.left - n, reads := 0
    failed := r.failed || bad }

/-- A long command that has read what it needs goes on with the bytes; a failed read ends it with MEMORY
(log entry 17). -/
def State.whenRead (s : State) (r : RunCmd) (f : List Nat → CmdOut) : CmdOut :=
  if r.reads ≠ 0 then .wait s r
  else if r.failed then .status s stMemory
  else if r.left ≠ 0 then s.readOn r
  else f r.bytes

end Sys2Proof.Machine
end

