-- ==== Sys2Proof/Machine/Topo.lean ====
section
/-! DEFINITION. Sys2Proof/Machine/Topo.lean: the topology image: its layout, its rejection and how it is put in force
(spec/15_commands.md, R373, R374; R24, R282, R322). -/
namespace Sys2Proof.Machine
open Sys2Proof.Config

/-- A little-endian field of an image. -/
def leAt (b : List Nat) (off n : Nat) : Nat := ofLe ((b.drop off).take n)

/-- A port entry (R373). -/
structure TopoPort where
  port : Nat
  role : Nat
  dom : Dom
  peer : Nat
  fibre : Nat
  lo : Nat
  hi : Nat

/-- A group entry (R373). -/
structure TopoGroup where
  group : Nat
  m : Nat
  ports : List Nat

/-- A topology image. -/
structure TopoImage where
  magic : Nat
  version : Nat
  nport : Nat
  ngroup : Nat
  root : Bool
  home : Dom
  self : Nat
  crcOk : Bool
  length : Nat
  ports : List TopoPort
  groups : List TopoGroup

/-- The port entry at an offset. -/
def topoPort (b : List Nat) : TopoPort :=
  { port := leAt b 0 2 % 512, role := leAt b 2 1, dom := Dom.ofBit (leAt b 3 1 % 2 = 1), peer := leAt b 4 4 % 2 ^ 24
    fibre := leAt b 8 4 % 2 ^ 20, lo := leAt b 12 4 % 2 ^ 20, hi := leAt b 16 4 % 2 ^ 20 }

/-- The group entry at an offset. -/
def topoGroup (b : List Nat) : TopoGroup :=
  let bits := leAt b 8 64
  { group := leAt b 0 2 % 4096, m := leAt b 4 4, ports := (List.range 512).filter fun p => bitOf bits p }

/-- Read an image (log entry 18). -/
def topoImage (b : List Nat) : TopoImage :=
  let nport := leAt b 6 2
  let ngroup := leAt b 8 2
  { magic := leAt b 0 4, version := leAt b 4 2, nport := nport, ngroup := ngroup
    root := leAt b 10 1 % 2 = 1, home := Dom.ofBit (leAt b 10 1 / 2 % 2 = 1), self := leAt b 12 4 % 2 ^ 24
    crcOk := decide (crcBytes 0 (b.take 16 ++ List.replicate 8 0 ++ b.drop 24) = leAt b 16 8)
    length := leAt b 24 8
    ports := (List.range nport).map fun i => topoPort ((b.drop (64 + 24 * i)).take 24)
    groups := (List.range ngroup).map fun i => topoGroup ((b.drop (64 + 24 * nport + 72 * i)).take 72) }

/-- The index of the first element of a list that satisfies a test of the elements before it and itself. -/
def firstBad {α : Type} (bad : List α → α → Bool) (before : List α) : List α → Nat → Option Nat
  | [], _ => none
  | a :: rest, i => if bad before a then some i else firstBad bad (a :: before) rest (i + 1)

/-- Reason 5: a third home or cross uplink, or a ridge other than a root without a home uplink (R24). -/
def TopoImage.uplinksBad (t : TopoImage) : Option Nat :=
  match firstBad (fun before e => (e.role = 1 || e.role = 2) && decide (2 ≤ (before.filter fun x => x.role = e.role).length))
      [] t.ports 0 with
  | some i => some i
  | none => if t.root = false ∧ (t.ports.all fun e => e.role ≠ 1) then some 0 else none

/-- Reason 4: in an eave port 0 and port 1 are the home uplinks of A and B. -/
def TopoImage.eaveBad (t : TopoImage) : Option Nat :=
  let ok (p : Nat) (d : Dom) : Bool := t.ports.any fun e => e.port = p && e.role = 1 && e.dom = d
  if ok 0 .a && ok 1 .b then none
  else
    some ((t.ports.findIdx? fun e =>
      (e.port = 0 && !(e.role = 1 && e.dom = Dom.a)) || (e.port = 1 && !(e.role = 1 && e.dom = Dom.b))).getD 0)

/-- The reason of R374 with the lowest number that an image breaks, and the index of the first entry that breaks it
(log entry 18). -/
def State.topoRejects (s : State) (t : TopoImage) (p2 : Nat) : Option (Nat × Nat) :=
  let at_ (reason : Nat) (o : Option Nat) : Option (Nat × Nat) := o.map fun i => (reason, i)
  let group (o : Option Nat) : Option Nat := o.map fun i => t.nport + i
  if t.magic ≠ 0x3154505A ∨ t.version ≠ 1 ∨ t.length ≠ p2 ∨ t.length ≠ 64 + 24 * t.nport + 72 * t.ngroup ∨
      t.crcOk = false then some (1, 0)
  else if t.self ≠ s.ownId then some (2, 0)
  else
    (at_ 3 (firstBad (fun before e => decide (s.nPorts ≤ e.port) || decide (s.nPorts ≤ before.length) ||
      before.any fun x => x.port = e.port) [] t.ports 0)) <|>
    (if s.isEave then at_ 4 t.eaveBad else at_ 5 t.uplinksBad) <|>
    (at_ 6 (group (firstBad (fun before g => s.isEave || decide (4096 ≤ before.length) ||
      (t.root && (g.m = 0 || decide (1048576 < g.m))) || before.any fun x => x.group = g.group) [] t.groups 0))) <|>
    (at_ 7 (group (t.groups.findIdx? fun g => g.ports.any fun p => t.ports.all fun e => e.port ≠ p || e.role ≠ 4))) <|>
    (at_ 8 (group (if t.root then none else t.groups.findIdx? fun g => g.m ≠ 0))) <|>
    (at_ 9 (t.ports.findIdx? fun e => decide (4 < e.role)))

/-- The identity part of MISMATCH against the expected identity now in force (R26, R91) (log entry 18). -/
def Port.rejudged (v : Port) : Port :=
  { v with mmId := match v.peerSeen with | some i => decide (i ≠ v.peerExp) | none => false }

/-- A port under a new topology: score 0; a port that enters a tree is live, one that leaves it has no health state
(R322, R373).  A child port carries the home domain (R24), whatever DOM bit its entry holds: R374 has no check of that bit
(log entry 18). -/
def Port.placed (v : Port) (e : Option TopoPort) (home : Dom) (course : Nat) : Port :=
  let role := PortRole.ofNum (match e with | some x => x.role | none => 0)
  let health : Health := if role = .unused then .noTree else if v.health = .noTree then .live else v.health
  let v := { v with
    role := role, health := health, score := 0, cand := 0
    chg := if health = v.health then v.chg else course
    reason := if health = v.health then v.reason else 0 }
  match e with
  | some x => ({ v with dom := if role = PortRole.child then home else x.dom, peerExp := x.peer, fibLen := x.fibre, rangeLo := x.lo, rangeHi := x.hi }).rejudged
  | none => ({ v with dom := .a, peerExp := 0, fibLen := 0, rangeLo := 0, rangeHi := 0 }).rejudged

/-- Put an image in force (log entry 18). -/
def State.applyTopo (s : State) (t : TopoImage) : State :=
  let ps := (List.range s.nPorts).filter fun p => (s.ports.look p).isSome || t.ports.any fun e => e.port = p
  let s := s.each ps fun s p =>
    s.judged p fun v => v.placed (t.ports.find? fun e => e.port = p) t.home s.clk.course
  { s with
    root := s.isRidge && t.root, home := if s.isRidge then t.home else .a, topo := true
    ce := { s.ce with groups := t.groups.foldl (fun m g => Map.set m none g.group (some ⟨g.ports, g.m⟩)) [] } }

/-- A collective instance is in flight here. -/
def State.collBusy (s : State) : Bool := decide (s.inFlight ≠ 0) || !s.ce.ctrs.isEmpty

/-- 0x02 topology.load (log entry 18). -/
def cmdTopologyLoad : Cmd where
  long := fun _ => true
  need := fun _ => 2
  masks := fun _ => [allBits, allBits]
  start := fun s r =>
    let a := prm r.p 1
    let n := prm r.p 2
    if a % 8 ≠ 0 ∨ n < 64 ∨ 307264 < n then .status s stInvalidParam
    else if s.collBusy then .status s stBusy
    else s.readFrom r a n
  later := fun s r => s.whenRead r fun b =>
    let t := topoImage b
    match s.topoRejects t (prm r.p 2) with
    | some (why, i) => .done s { status := stTableRejected, detail := why, d := [i] }
    | none => .ok (s.applyTopo t)

end Sys2Proof.Machine
end

