-- ==== Sys2Proof/Machine/Cmds.lean ====
section
/-! DEFINITION. Sys2Proof/Machine/Cmds.lean: the opcodes of the command processor, one definition each, their table, and
the acceptance of commands (spec/15_commands.md, R368 to R376, and the rules that each opcode's row names). -/
namespace Sys2Proof.Machine
open Sys2Proof.Config

/-! ### General, 0x00 to 0x0F -/

/-- 0x00 gen.identify. -/
def cmdGenIdentify : Cmd where
  u := true
  start := fun s _ =>
    let t := s.ties
    .ok s [(if s.isEave then 0 else 1) + t.gangPos % 8 * 4 + t.gangSize % 8 * 32 + revision % 65536 * 65536, s.ownId % 2 ^ 24,
      s.nPorts + bitAt s.root 16, if s.isEave then s.rd BT_TAP_EN else 0,
      s.ties.romVer % 2 ^ 32 * 2 ^ 32 + s.cp.fwVer % 2 ^ 32, s.cp.iana]

/-- 0x01 gen.status: TD_NOW_STAT is taken through the command processor's own latch (R43). -/
def cmdGenStatus : Cmd where
  u := true
  start := fun s _ =>
    let s := s.latchNow .cp
    .ok s [s.cpStat, s.ulStat, (s.td.now.get .cp).stat + s.pwStat * 2 ^ 32, s.clk.course % 2 ^ 64, sat32 s.td.te,
      (if s.isEave then s.sqStat else 0) + s.ceUse * 2 ^ 32]

/-- The effect of gen.reset at the boundary: units by mask (R372) (log entry 20). -/
def State.resetUnits (s : State) (m : Nat) : State :=
  let s := if bitOf m 0 ∧ s.isEave then s.seqReset else s
  let s := if bitOf m 1 ∧ s.isEave then s.objReset else s
  let s : State := if bitOf m 2 then { s with ce := { s.ce with handles := [] } } else s
  let s : State :=
    if bitOf m 3 then { s.imAbort with im := { s.imAbort.im with stats := [], latch := { host := [], sideband := [], cp := [] } } }
    else s
  if bitOf m 4 then { s with cnt := [] } else s

/-- A gen.reset that waits takes effect at the boundary (log entry 20). -/
def State.resetBoundary (s : State) : State :=
  if s.cp.resetReq = 0 then s
  else ({ s with cp := { s.cp with resetReq := 0 } } : State).resetUnits s.cp.resetReq

/-- 0x03 gen.reset: judged at acceptance, completed at the boundary at which it takes effect (log entry 20). -/
def cmdGenReset : Cmd where
  u := true
  need := fun _ => 1
  masks := fun _ => [0x1F]
  start := fun s r =>
    let m := prm r.p 1
    if bitOf m 0 ∧ (s.sq.st = .running ∨ s.sq.st = .held) then .status s stInvalidState
    else if bitOf m 1 ∧ (s.od.waiters ≠ [] ∨ s.od.lends ≠ []) then .status s stBusy
    else if bitOf m 2 ∧ s.collBusy then .status s stBusy
    else if m = 0 then .ok s
    else .wait { s with cp := { s.cp with resetReq := m } } r
  later := fun s r => if s.cp.resetReq = 0 then .ok s else .wait s r

/-- The firmware runs outside Underlay mode (log entry 19). -/
def State.fwServes (s : State) : Bool := decide (s.cp.fw = .running) && !s.underlay

/-- Bytes go into the command processor's memory, and FW becomes LOADING (R375) (log entry 19). -/
def State.loadFw (s : State) (off : Nat) (b : List Nat) : State :=
  let put (m : Map Nat) (i : Nat) (v : Nat) : Map Nat :=
    let w := m.get 0 (i / 8)
    let sh := 256 ^ (i % 8)
    m.set 0 (i / 8) (w - w / sh % 256 * sh + v % 256 * sh)
  let r := b.foldl (fun (acc : Map Nat × Nat) v => (put acc.1 acc.2 v, acc.2 + 1)) (s.cp.mem, off)
  { s with cp := { s.cp with
    mem := r.1, memEnd := max (if s.cp.fw = .loading then s.cp.memEnd else 0) r.2, fw := .loading } }

/-- 0x04 fw.load: mode 0 reads memory and is long, mode 1 carries its data (log entry 19). -/
def cmdFwLoad : Cmd where
  u := true
  long := fun p => prm p 1 % 2 = 0
  need := fun p => if prm p 1 % 2 = 0 then 3 else 3 + min 160 (prm p 3) / 8
  masks := fun p => [1, allBits, allBits] ++ if prm p 1 % 2 = 0 then [] else List.replicate 20 allBits
  start := fun s r =>
    let a := prm r.p 2
    let n := prm r.p 3
    if prm r.p 1 = 0 then
      if n % 8 ≠ 0 ∨ 262144 < n then .status s stInvalidParam
      else if s.fwServes then .status s stInvalidState
      else if n = 0 then .ok (s.loadFw 0 [])
      else s.readFrom r a n
    else if n % 8 ≠ 0 ∨ n < 8 ∨ 160 < n ∨ 262144 < a + n then .status s stInvalidParam
    else if s.fwServes then .status s stInvalidState
    else .ok (s.loadFw a (((r.p.drop 3).take (n / 8)).flatMap (leBytes 8)))
  later := fun s r => s.whenRead r fun b => .ok (s.loadFw 0 b)

/-- The checks of a firmware image (R375) (log entry 19). -/
def State.fwImageOk (s : State) : Bool :=
  let w (i : Nat) : Nat := s.cp.mem.get 0 i
  let len := w 1 % 2 ^ 32
  decide (w 0 % 2 ^ 32 = 0x4638545A) && decide (len % 8 = 0) && decide (len ≤ 262144) && decide (s.cp.memEnd ≤ len) &&
  decide (((List.range (len / 8 - 4)).foldl (fun c i => crcWord c (w (i + 4))) 0) = w 2)

/-- 0x05 fw.start (log entry 19). -/
def cmdFwStart : Cmd where
  u := true
  start := fun s _ =>
    if s.fwServes then .status s stInvalidState
    else if s.fwImageOk = false then .status s stImageBad
    else
      let v := s.cp.mem.get 0 0 / 2 ^ 32
      .ok { s with
        cp := { s.cp with fw := .running, fwVer := v }
        hf := { s.hf with kicked := false, wdog := some 0 } } [v]

/-! ### Time, 0x10 to 0x1F -/

/-- 0x10 time.acquire (R115). -/
def cmdTimeAcquire : Cmd where
  need := fun _ => 1
  masks := fun _ => [1]
  start := fun s r =>
    let d := Dom.ofBit (prm r.p 1 = 1)
    if s.isRidge ∧ d ≠ s.home then .status s stInvalidParam
    else if s.td.acq ∨ (s.servo d).st ≠ .ready then .status s stInvalidState
    else .ok { s with td := { s.td with acqDom := some d } }

/-- A pulse output is due: a one-shot pulse is pending, or periodic mode runs (R116). -/
def State.pulseDue (s : State) : Bool :=
  (List.range 8).any fun n => s.pulseEn n && (s.pulsePer n || !(s.pulse n).pending.isEmpty)

/-- 0x11 time.restep (R116). -/
def cmdTimeRestep : Cmd where
  start := fun s _ =>
    if s.td.acq = false ∨ (s.servo s.td.sel).st ≠ .track ∨ (s.tapList.any fun n => !(s.tap n).armed.isEmpty) ∨ s.pulseDue then
      .status s stInvalidState
    else .ok { s with td := { s.td with restep := true } }

/-- 0x12 time.slew_limit (R118). -/
def cmdTimeSlewLimit : Cmd where
  need := fun _ => 1
  masks := fun _ => [allBits]
  start := fun s r =>
    let v := prm r.p 1
    if v < 1 ∨ 2000 < v then .status s stInvalidParam else .ok (s.wr TD_SLEW v).resteer

/-- 0x13 time.domain_select (R121): judged at acceptance and again at the boundary (log entry 20). -/
def cmdTimeDomainSelect : Cmd where
  role := State.isEave
  need := fun _ => 1
  masks := fun _ => [1]
  start := fun s r =>
    let d := Dom.ofBit (prm r.p 1 = 1)
    if d = s.td.sel then .ok s
    else if s.tracked d = false then .status s stInvalidState
    else .wait { s with td := { s.td with selReq := some d, selOk := none } } r
  later := fun s r =>
    match s.td.selOk with
    | none => .wait s r
    | some ok =>
      let s : State := { s with td := { s.td with selOk := none } }
      .status s (if ok then stDone else stInvalidState)

/-- 0x14 time.switch_at (R122, R123).  MARK, DESIGN CHOICE: the rule names no PLAN_ID for a plan that an eave schedules for
itself; it is held with ID 0, so that a SWITCH_CANCEL with ID 0 from above removes it (log entry 60). -/
def cmdTimeSwitchAt : Cmd where
  role := fun s => s.isEave || s.isRoot
  need := fun p => if bitOf (prm p 1) 8 then 1 else 2
  masks := fun _ => [0x101, allBits]
  start := fun s r =>
    let d := Dom.ofBit (bitOf (prm r.p 1) 0)
    let n := prm r.p 2
    if bitOf (prm r.p 1) 8 then
      match s.td.plan with
      | none => .status s stInvalidState
      | some pl =>
        let t := s.cancelPlan
        if s.isEave then .ok t [0] else .ok (t.originate 0x11 pl.id (.switchCancel pl.id)) [pl.id]
    else if n < s.clk.course + 8192 ∨ s.clk.course + 2 ^ 30 < n then .status s stInvalidParam
    else if s.isEave then .ok (s.holdPlan 0 d n) [0]
    else
      let id := s.td.nextPlan
      let s : State := { s with td := { s.td with nextPlan := (id + 1) % 2 ^ 32 } }
      .ok ((s.holdPlan id d n).originate 0x10 id (.switchPlan id d (n % 2 ^ 32))) [id]

/-- 0x15 time.holdover_force (R155). -/
def cmdTimeHoldoverForce : Cmd where
  need := fun _ => 1
  masks := fun _ => [0x101]
  start := fun s r =>
    let d := Dom.ofBit (bitOf (prm r.p 1) 0)
    let v := s.servo d
    if bitOf (prm r.p 1) 8 then
      if v.st ≠ .track then .status s stInvalidState else .ok (s.setServo d { v with forced := true })
    else if v.forced = false then .status s stInvalidState
    else .ok (s.setServo d { v with forced := false })

/-- 0x16 time.epoch_set (R140). -/
def cmdTimeEpochSet : Cmd where
  role := State.isRoot
  need := fun _ => 1
  masks := fun _ => [2 ^ 48 - 1]
  start := fun s r => .ok { s with rs := { s.rs with epoch := some (prm r.p 1) } }

/-! ### References, 0x20 to 0x2F -/

/-- 0x20 ref.configure: every field but PRIO, and the delay; the candidate returns to LOST (R139). -/
def cmdRefConfigure : Cmd where
  need := fun _ => 3
  masks := fun _ => [0xF, 0xFFF0, 0xFFFFFFFF]
  start := fun s r =>
    let n := prm r.p 1
    if 10 < n then .status s stInvalidParam
    else
      let s := s.wr (RS_CANDn_CFG n) (prm r.p 2 + s.candPrio n)
      .ok ((s.wr (RS_CANDn_DELAY n) (prm r.p 3)).candReconfigure n)

/-- 0x21 ref.priority: in force from the next boundary; a later one adds to it (R139). -/
def cmdRefPriority : Cmd where
  need := fun _ => 2
  masks := fun _ => [0x7FF, 2 ^ 44 - 1]
  start := fun s r =>
    let m := prm r.p 1
    let old := s.cp.prioReq.getD (0, 0)
    let v := (List.range 11).foldl (fun acc i =>
      acc + field (if bitOf m i then prm r.p 2 else old.2) (4 * i) 4 * 16 ^ i) 0
    .ok { s with cp := { s.cp with prioReq := some (m ||| old.1, v) } }

/-- The priorities of ref.priority at the boundary (R139) (log entry 34). -/
def State.prioBoundary (s : State) : State :=
  match s.cp.prioReq with
  | none => s
  | some (m, v) =>
    ({ s with cp := { s.cp with prioReq := none } } : State).each ((List.range 11).filter fun i => bitOf m i) fun s i =>
      s.wrFld (RS_CANDn_CFG i) 0 4 (field v (4 * i) 4)

/-- 0x22 ref.loop_open (R144). -/
def cmdRefLoopOpen : Cmd where
  need := fun _ => 1
  masks := fun _ => [1]
  start := fun s r =>
    let d := Dom.ofBit (prm r.p 1 = 1)
    let v := s.servo d
    if v.st ≠ .track ∨ v.openLoop then .status s stInvalidState else .ok (s.setServo d { v with openReq := true })

/-- 0x23 ref.loop_close (R146). -/
def cmdRefLoopClose : Cmd where
  need := fun _ => 1
  masks := fun _ => [1]
  start := fun s r =>
    let d := Dom.ofBit (prm r.p 1 = 1)
    let v := s.servo d
    if v.openLoop = false then .status s stInvalidState else .ok (s.setServo d { v with closeReq := true })

/-- 0x24 ref.correct (R145): a second correction of a kind before the first is applied replaces it. -/
def cmdRefCorrect : Cmd where
  need := fun _ => 2
  masks := fun _ => [0x101, allBits]
  start := fun s r =>
    let d := Dom.ofBit (bitOf (prm r.p 1) 0)
    let v := s.servo d
    let x := toSigned 64 (prm r.p 2)
    if v.openLoop = false ∨ v.forced then .status s stInvalidState
    else if bitOf (prm r.p 1) 8 then
      .ok ((if v.corrR.isSome then s.count RS_CNT_CORR else s).setServo d { v with corrR := some x })
    else .ok ((if v.corrP.isSome then s.count RS_CNT_CORR else s).setServo d { v with corrP := some x })

/-! ### Interval unit, 0x30 to 0x3F -/

/-- 0x30 interval.arm: as a write of IM_CTL.ARM (R227). -/
def cmdIntervalArm : Cmd where
  start := fun s _ =>
    let ok := s.armOk
    let s := s.imArm
    .done s { status := if ok then stDone else stInvalidState, d := [s.imStat] }

/-- 0x31 interval.abort: as a write of IM_CTL.ABORT (R223). -/
def cmdIntervalAbort : Cmd where
  start := fun s _ =>
    let ok := s.imBusy
    let s := s.imAbort
    .done s { status := if ok then stDone else stInvalidState, d := [s.imStat] }

/-! ### Sequencer, 0x40 to 0x4F -/

/-- Words of a program go into the store from an index (R230). -/
def State.putWords (s : State) (i : Nat) : List Nat → State
  | [] => s
  | w :: rest => (s.putWord i w).putWords (i + 1) rest

/-- The 64-bit little-endian words of bytes. -/
def words64 (b : List Nat) (n : Nat) : List Nat := (List.range n).map fun i => ofLe ((b.drop (8 * i)).take 8)

/-- 0x40 seq.load (R230) (log entry 17). -/
def cmdSeqLoad : Cmd where
  long := fun _ => true
  role := State.isEave
  need := fun _ => 3
  masks := fun _ => [allBits, 0x3FFF, allBits]
  start := fun s r =>
    let n := prm r.p 3
    if n < 1 ∨ 16384 < n ∨ 16384 < prm r.p 2 + n then .status s stInvalidParam
    else if s.sq.st.writable = false then .status s stInvalidState
    else s.readFrom r (prm r.p 1) (8 * n)
  later := fun s r => s.whenRead r fun b =>
    if s.sq.st.writable = false then .status s stInvalidState
    else
      let s := s.putWords (prm r.p 2) (words64 b (prm r.p 3))
      .ok s [s.sq.len]

/-- 0x41 seq.start (R236). -/
def cmdSeqStart : Cmd where
  role := State.isEave
  need := fun _ => 20
  masks := fun _ => [0x3FFF, allBits, allBits, 0x183FFFFFF] ++ List.replicate 16 allBits
  start := fun s r =>
    let f := prm r.p 4
    let hold := bitOf f 32
    if s.sq.st = .idle ∨ s.sq.st = .running ∨ s.sq.st = .held ∨ s.td.acq = false then .status s stInvalidState
    else if s.sq.len ≤ prm r.p 1 ∨ (hold = false ∧ prm r.p 3 < s.clk.course + 8) then .status s stInvalidParam
    else
      let h := field f 16 10
      .ok (s.setSq { s.sq with start := some {
        addr := prm r.p 1, step := prm r.p 2, course := prm r.p 3, tol := f % 65536
        vote := if bitOf f 31 then some h else none, handle := h, hold := hold, g := r.p.drop 4 } }) [s.progCrc]

/-- 0x42 seq.stop (R238). -/
def cmdSeqStop : Cmd where
  role := State.isEave
  need := fun _ => 1
  masks := fun _ => [allBits]
  start := fun s r =>
    let c := prm r.p 1
    if s.sq.st ≠ .running ∧ s.sq.st ≠ .held then .status s stInvalidState
    else if c ≠ 0 ∧ c ≤ s.clk.course then .status s stInvalidParam
    else .ok (s.setSq { s.sq with stop := some c })

/-- An event from the root ridge: it acts on the event itself and sends LAUNCH (R251) (log entry 48). -/
def State.rootEvent (s : State) (kind : Nat) (w : WireTime) (arg : Nat) : State × Nat :=
  let id := s.td.nextEvent
  let s : State := { s with td := { s.td with nextEvent := (id + 1) % 2 ^ 32 } }
  let s := s.takeEvent { id := id, kind := kind, target := w.units, arg := arg }
  (s.originate 0x14 id (.launch { id := id, kind := kind, target := w, arg := arg }), id)

/-- 0x43 seq.arm (R251) (log entry 48). -/
def cmdSeqArm : Cmd where
  role := fun s => s.isEave || s.isRoot
  need := fun _ => 4
  masks := fun _ => [0xFF, allBits, allBits, allBits]
  start := fun s r =>
    let kind := prm r.p 1
    let arg := prm r.p 4
    match timeParam r.p 2 with
    | none => .status s stInvalidParam
    | some t =>
      let c := courseOf t
      if eventKind kind = false then .status s stInvalidParam
      else if s.isRoot ∧ (c < s.clk.course + 1024 ∨ s.clk.course + 2 ^ 30 < c) then .status s stInvalidParam
      else if s.isEave ∧ kind ≠ 5 ∧ c < s.clk.course + 2 then
        .status (s.takeEvent { id := 0, kind := kind, target := t, arg := arg }) stInvalidParam
      else if 16 ≤ s.ev.events.length then .status s stBusy
      else if s.isEave then .ok (s.takeEvent { id := 0, kind := kind, target := t, arg := arg }) [0]
      else
        let q := s.rootEvent kind (wireParam r.p 2) arg
        .ok q.1 [q.2]

/-- 0x44 seq.cancel (R251). -/
def cmdSeqCancel : Cmd where
  role := fun s => s.isEave || s.isRoot
  need := fun _ => 1
  masks := fun _ => [0xFFFFFFFF]
  start := fun s r =>
    if s.isEave then .ok (s.cancelEvent (prm r.p 1)) else .ok (s.rootEvent 5 {} (prm r.p 1)).1

/-! ### Objects and contexts, 0x50 to 0x5F -/

/-- 0x50 obj.ctx_define (R257, R258). -/
def cmdObjCtxDefine : Cmd where
  role := State.isEave
  need := fun p => 1 + min 4 (field (prm p 1) 16 3)
  masks := fun _ => [0x701FF, 0xFFFFFFFF, 0xFFFFFFFF, 0xFFFFFFFF, 0xFFFFFFFF]
  start := fun s r =>
    let x := prm r.p 1 % 256
    let n := field (prm r.p 1) 16 3
    let segs := (List.range n).map fun j => (prm r.p (j + 2) / 65536, prm r.p (j + 2) % 65536 + 1)
    if n < 1 ∨ 4 < n then .status s stInvalidParam
    else if (s.ctx x).st ≠ .undef then .status s stInvalidState
    else if s.segsOk x segs = false then .status s stInvalidParam
    else .ok (s.defineCtx x (bitOf (prm r.p 1) 8) segs)

/-- The translations of a run of local numbers: the slots so far, or how it ends. -/
def State.transRange (s : State) (h : Nat) (own : Bool) : Nat → List Nat → State × Option (TransRes ⊕ List Nat)
  | 0, acc => (s, some (.inr acc.reverse))
  | n + 1, acc =>
    if hLoc h = 65535 ∧ n ≠ 0 then (s, some (.inl .fail))
    else
      match s.commandTrans h own with
      | (s, none) => (s, none)
      | (s, some (.slot k)) => s.transRange (h + 1) own n (k :: acc)
      | (s, some r) => (s, some (.inl r))

/-- Results given to a command's translations are forgotten when it completes. -/
def State.dropTrans (s : State) : State := { s with od := { s.od with cmdRes := [] } }

/-- How a command that fails a translation completes: INVALID_PARAM with DETAIL HANDLE, or MEMORY when the read of the
entry failed (R367, R372). -/
def CmdOut.untranslated (s : State) (r : TransRes) : CmdOut :=
  match r with
  | .parity => .status s.dropTrans stMemory
  | _ => .done s.dropTrans { status := stInvalidParam, detail := rHandle }

/-- obj.init once its state has been checked: all or nothing (R258) (log entry 17). -/
def State.objInit (s : State) (r : RunCmd) : CmdOut :=
  let h := prm r.p 1
  match s.transRange h false (prm r.p 2) [] with
  | (s, none) => .wait s r
  | (s, some (.inl e)) => .untranslated s e
  | (s, some (.inr ks)) =>
    .ok (s.dropTrans.each ks fun s k => s.initSlot (hCtx h) k (prm r.p 3) (prm r.p 4)) [ks.length]

/-- 0x51 obj.init (log entry 52). -/
def cmdObjInit : Cmd where
  role := State.isEave
  need := fun p => if prm p 3 = 3 then 4 else 3
  masks := fun _ => [0xFFFFFF, allBits, 7, allBits]
  start := fun s r =>
    let n := prm r.p 2
    let kind := prm r.p 3
    if n < 1 ∨ 65536 < n ∨ kind < 1 ∨ 3 < kind ∨ (kind = 3 ∧ (prm r.p 4 < 1 ∨ 65536 < prm r.p 4)) then
      .status s stInvalidParam
    else if (s.ctx (hCtx (prm r.p 1))).st = .undef then .status s stInvalidState
    else s.objInit r
  later := State.objInit

/-- 0x52 obj.ctx_clear (R271). -/
def cmdObjCtxClear : Cmd where
  role := State.isEave
  need := fun _ => 1
  masks := fun _ => [0xFF]
  start := fun s r =>
    let x := prm r.p 1
    match (s.ctx x).st with
    | .undef => .status s stInvalidState
    | .scrub => .status s stBusy
    | .active =>
      let s := s.clearCtx x
      .ok s [(s.ctx x).gen]

/-- 0x53 obj.ctx_release (R258). -/
def cmdObjCtxRelease : Cmd where
  role := State.isEave
  need := fun _ => 1
  masks := fun _ => [0xFF]
  start := fun s r =>
    let x := prm r.p 1
    match (s.ctx x).st with
    | .undef => .status s stInvalidState
    | .scrub => .status s stBusy
    | .active => .ok (s.releaseCtx x)

/-- obj.wake once its state has been checked (log entry 17). -/
def State.objWake (s : State) (r : RunCmd) : CmdOut :=
  match s.commandTrans (prm r.p 1) true with
  | (s, none) => .wait s r
  | (s, some (.slot k)) =>
    let ws := s.od.waiters.filter fun w => w.slot = k
    .ok (ws.foldl (fun s w => s.failWaiter w rWake) s.dropTrans) [ws.length]
  | (s, some e) => .untranslated s e

/-- 0x54 obj.wake. -/
def cmdObjWake : Cmd where
  role := State.isEave
  need := fun _ => 1
  masks := fun _ => [0xFFFFFF]
  start := fun s r =>
    if (s.ctx (hCtx (prm r.p 1))).st = .undef then .status s stInvalidState else s.objWake r
  later := State.objWake

/-- obj.op once its state has been checked: as a program's request, with the object result in DETAIL (R262)
(log entry 17). -/
def State.objOp (s : State) (r : RunCmd) : CmdOut :=
  let h := prm r.p 1
  let fail (s : State) (res : Nat) : CmdOut :=
    let q := (s.dropTrans.ended h res).valueOf none
    .done q.1 { detail := res, d := [q.2] }
  if s.odOn = false then fail s rDisabled
  else
    match s.commandTrans h true with
    | (s, none) => .wait s r
    | (s, some (.slot k)) =>
      let q := s.dropTrans.opAt (prm r.p 2) (prm r.p 3) h k
      .done q.1 { detail := q.2.1, d := [q.2.2] }
    | (s, some .parity) => fail s rParity
    | (s, some .fail) => fail s rHandle

/-- 0x55 obj.op. -/
def cmdObjOp : Cmd where
  role := State.isEave
  need := fun _ => 3
  masks := fun _ => [0xFFFFFF, 0xFF, 0xFFFFFFFF]
  start := fun s r =>
    if (s.ctx (hCtx (prm r.p 1))).st = .undef then .status s stInvalidState else s.objOp r
  later := State.objOp

/-! ### Collectives, 0x60 to 0x6F -/

/-- The combinations that coll.define accepts (R283, R289, R290, R295). -/
def collParamsOk (op fmt rfmt lanes : Nat) (sat arrive : Bool) : Bool :=
  match op with
  | 0 => lanes = 0
  | 7 => fmt = 0xB && rfmt = 0xB && lanes = 1 && !sat && !arrive
  | _ => decide (op < 7) && decide (1 ≤ lanes) && decide (lanes ≤ 16) && fmtPair fmt rfmt && (decide (op < 4) || fmtInt fmt) &&
      !arrive

/-- 0x60 coll.define (R283). -/
def cmdCollDefine : Cmd where
  role := State.isEave
  need := fun p => if bitOf (prm p 3) 48 || bitOf (prm p 3) 49 then 4 else 3
  masks := fun _ => [0x3FF, 0xFFFFFFFF, 0x0003031FFFFF1FFF, 0x00FFFFFF00FFFFFF]
  start := fun s r =>
    let h := prm r.p 1
    let f := prm r.p 3
    let op := field f 16 8
    let bar := decide (op = 0)
    if (s.handle h).isSome then .status s stInvalidState
    else if collParamsOk op (field f 24 4) (field f 28 4) (field f 32 5) (bitOf f 41) (bitOf f 48) = false then
      .status s stInvalidParam
    else
      .ok (s.setHandle h (some {
        cid := prm r.p 2, group := field f 0 12, dom := Dom.ofBit (bitOf f 12), op := op
        fmt := if bar then 0 else field f 24 4, rfmt := if bar then 0 else field f 28 4, lanes := field f 32 5
        move := bitOf f 40, sat := bitOf f 41
        arriveObj := if bitOf f 48 then some (prm r.p 4 % 2 ^ 24) else none
        doneObj := if bitOf f 49 then some (prm r.p 4 / 2 ^ 32) else none }))

/-- 0x61 coll.release (R283). -/
def cmdCollRelease : Cmd where
  role := State.isEave
  need := fun _ => 1
  masks := fun _ => [0x3FF]
  start := fun s r =>
    match s.handle (prm r.p 1) with
    | none => .status s stInvalidState
    | some hd => if hd.insts ≠ [] then .status s stBusy else .ok (s.setHandle (prm r.p 1) none)

/-- 0x62 coll.abort: at an eave an abort request for every instance of the handle, at a root ridge the abort itself
(R301) (log entry 54). -/
def cmdCollAbort : Cmd where
  role := fun s => s.isEave || s.isRoot
  need := fun _ => 1
  masks := fun _ => [0x3FF, 0xFFFFFFFF, 0xFFFFFFFF]
  start := fun s r =>
    if s.isEave then
      match s.handle (prm r.p 1) with
      | none => .status s stInvalidState
      | some hd =>
        if hd.insts = [] then .status s stInvalidState
        else .ok (hd.insts.foldl (fun s i => s.abortReq hd.cid i.isn i.attempt (hd.domOf i.attempt) 0x01 0) s)
    else if r.p.length < 3 then .status s stBadLength
    else
      match ((s.ce.ctrs.filter fun c => c.par.cid = prm r.p 2 ∧ c.par.isn = prm r.p 3).map fun c => c.attempt) ++
          ((s.ce.moves.filter fun m => m.own ∧ m.m.cid = prm r.p 2 ∧ m.m.isn = prm r.p 3).map fun m => m.m.attempt) with
      | [] => .status s stInvalidState
      | a :: rest =>
        .ok (s.rootAbort (prm r.p 2) (prm r.p 3) (rest.foldl max a) 0x01
          { id := s.ownId, onset := s.clk.course % 2 ^ 32 })

/-! ### Ports and health, 0x70 to 0x7F -/

/-- 0x70 port.calibrate (R79, R224). -/
def cmdPortCalibrate : Cmd where
  long := fun _ => true
  need := fun _ => 2
  masks := fun _ => [0x1FF, allBits]
  start := fun s r =>
    let p := prm r.p 1
    let n := prm r.p 2
    if s.nPorts ≤ p ∨ n < 1 ∨ 65536 < n then .status s stInvalidParam
    else if (s.port p).role ≠ .unused ∧ (s.port p).health ≠ .retired then .status s stPortInUse
    else if s.imBusy then .status s stBusy
    else .wait (s.claimEngine p n) { r with long := true }
  later := fun s r =>
    let c := (s.port (prm r.p 1)).cal
    if c.running then .wait s r else .ok s [c.n, c.lost, ofSigned 64 c.mean, sat32 c.sdev]

/-- What a command on a channel comes to: none is INVALID_STATE. -/
def CmdOut.orState (s : State) (o : Option State) : CmdOut :=
  match o with
  | some t => .ok t
  | none => .status s stInvalidState

/-- 0x71 port.retire (R331). -/
def cmdPortRetireRow : Cmd where
  need := fun _ => 1
  masks := fun _ => [0x101FF]
  start := fun s r =>
    let p := prm r.p 1 % 512
    if s.nPorts ≤ p then .status s stInvalidParam else .orState s (s.cmdPortRetire p (bitOf (prm r.p 1) 16))

/-- 0x72 port.restore (R331). -/
def cmdPortRestoreRow : Cmd where
  need := fun _ => 1
  masks := fun _ => [0x1FF]
  start := fun s r =>
    if s.nPorts ≤ prm r.p 1 then .status s stInvalidParam else .orState s (s.cmdPortRestore (prm r.p 1))

/-- 0x73 port.spare_admit (R331): the identity part of MISMATCH follows the new identity. -/
def cmdPortSpareRow : Cmd where
  need := fun _ => 2
  masks := fun _ => [0x1FF, 0xFFFFFF]
  start := fun s r =>
    let p := prm r.p 1
    if s.nPorts ≤ p then .status s stInvalidParam
    else .orState s ((s.cmdPortSpare p (prm r.p 2)).map fun t => t.judged p Port.rejudged)

/-! ### Power, pulses and clocks, 0x80 to 0xAF -/

/-- 0x80 power.enter. -/
def cmdPowerEnter : Cmd where
  need := fun _ => 1
  masks := fun _ => [3]
  start := fun s r =>
    let k := prm r.p 1
    if k < 1 ∨ 2 < k then .status s stInvalidParam
    else if k = 2 ∧ s.isRidge then .status s stNotInRole
    else .orState s (s.powerRequest k)

/-- 0x90 pulse.arm (R248): in each case of refusal the drop is counted (log entry 46). -/
def cmdPulseArm : Cmd where
  need := fun _ => 3
  masks := fun _ => [0xFF07, allBits, allBits]
  start := fun s r =>
    let n := prm r.p 1 % 8
    match timeParam r.p 2 with
    | none => .status s stInvalidParam
    | some t =>
      let st :=
        if s.pulseEn n = false ∨ s.pulsePer n ∨ s.td.acq = false then stInvalidState
        else if courseOf t < s.clk.course + 2 then stInvalidParam
        else if 4 ≤ (s.pulse n).pending.length then stBusy
        else stDone
      .status (s.addPulse n { target := t, width := field (prm r.p 1) 8 8, src := .host } s.clk.course) st

/-- 0x91 pulse.cancel (log entry 46). -/
def cmdPulseCancel : Cmd where
  need := fun _ => 3
  masks := fun _ => [7, allBits, allBits]
  start := fun s r =>
    let n := prm r.p 1
    match timeParam r.p 2 with
    | none => .status s stInvalidParam
    | some t =>
      match (s.pulse n).pending.find? fun q => q.target = t with
      | none => .status s stInvalidParam
      | some q => .ok (s.modPulse n fun v => { v with pending := v.pending.erase q })

/-- 0xA0 clock.clkout (R182) (log entry 28). -/
def cmdClockClkout : Cmd where
  need := fun _ => 1
  masks := fun _ => [0xFFFFFFFF]
  start := fun s r =>
    let s := s.clkoutWrite (prm r.p 1)
    .ok s [s.cgStat]

/-! ### The table and acceptance (R367 to R372) -/

/-- The opcode tables. -/
def cmdOf (op : Nat) : Option Cmd :=
  match op with
  | 0x00 => some cmdGenIdentify
  | 0x01 => some cmdGenStatus
  | 0x02 => some cmdTopologyLoad
  | 0x03 => some cmdGenReset
  | 0x04 => some cmdFwLoad
  | 0x05 => some cmdFwStart
  | 0x10 => some cmdTimeAcquire
  | 0x11 => some cmdTimeRestep
  | 0x12 => some cmdTimeSlewLimit
  | 0x13 => some cmdTimeDomainSelect
  | 0x14 => some cmdTimeSwitchAt
  | 0x15 => some cmdTimeHoldoverForce
  | 0x16 => some cmdTimeEpochSet
  | 0x20 => some cmdRefConfigure
  | 0x21 => some cmdRefPriority
  | 0x22 => some cmdRefLoopOpen
  | 0x23 => some cmdRefLoopClose
  | 0x24 => some cmdRefCorrect
  | 0x30 => some cmdIntervalArm
  | 0x31 => some cmdIntervalAbort
  | 0x40 => some cmdSeqLoad
  | 0x41 => some cmdSeqStart
  | 0x42 => some cmdSeqStop
  | 0x43 => some cmdSeqArm
  | 0x44 => some cmdSeqCancel
  | 0x50 => some cmdObjCtxDefine
  | 0x51 => some cmdObjInit
  | 0x52 => some cmdObjCtxClear
  | 0x53 => some cmdObjCtxRelease
  | 0x54 => some cmdObjWake
  | 0x55 => some cmdObjOp
  | 0x60 => some cmdCollDefine
  | 0x61 => some cmdCollRelease
  | 0x62 => some cmdCollAbort
  | 0x70 => some cmdPortCalibrate
  | 0x71 => some cmdPortRetireRow
  | 0x72 => some cmdPortRestoreRow
  | 0x73 => some cmdPortSpareRow
  | 0x80 => some cmdPowerEnter
  | 0x90 => some cmdPulseArm
  | 0x91 => some cmdPulseCancel
  | 0xA0 => some cmdClockClkout
  | _ => none

/-- The group of an opcode refuses the master of a slot (R370). -/
def State.notOwner (s : State) (slot op : Nat) : Bool :=
  let o := s.fl CP_OWN (2 * (op / 16)) 2
  decide (2 ≤ op) && ((decide (o = 1) && sbSlot slot) || (decide (o = 2) && !sbSlot slot))

/-- The general statuses, in the order in which they are judged; none lets the command start (R360, R367 to R372)
(log entry 15). -/
def State.cmdRefused (s : State) (c : Cmd) (r : RunCmd) (header : Nat) : Option Nat :=
  if 23 < hdrLen header ∨ (s.cmdSlot r.slot).badLen then some stBadLength
  else if hdrZero header = false then some stInvalidParam
  else if c.u = false ∧ (s.cp.fw ≠ .running ∨ s.underlay) then some stUnderlay
  else if s.notOwner r.slot r.op then some stNotOwner
  else if c.long r.p ∧ s.longRuns r.op then some stBusy
  else if c.role s = false then some stNotInRole
  else if r.p.length < c.need r.p then some stBadLength
  else if namedOnly r.p (c.masks r.p) = false then some stInvalidParam
  else none

/-- A short command is RUNNING: nothing else is accepted until it completes (R368). -/
def State.shortRuns (s : State) : Bool := s.cp.run.any fun r => !r.long

/-- The command processor accepts the next command if it is the one asked for (R368, R369) (log entry 15). -/
def State.acceptIf (s : State) (wanted : Nat → Bool) (f : State → RunCmd → Nat → State) : State :=
  if s.shortRuns then s
  else
    match s.nextSlot with
    | none => s
    | some k =>
      let c := s.cmdSlot k
      if wanted (hdrOp c.header) = false then s
      else
        let s := (s.takeSlot k).setCmdSlot k { c with st := .running }
        let p := (List.range (min 23 (hdrLen c.header))).map fun i => c.params.get 0 (i + 1)
        f s { slot := k, op := hdrOp c.header, p := p } c.header

/-- The next command, when it has one opcode, runs by its row (R372) (log entry 15). -/
def State.acceptOp (s : State) (op : Nat) (c : Cmd) : State :=
  s.acceptIf (fun o => o = op) fun s r header =>
    match s.cmdRefused c r header with
    | some st => (if st = stNotOwner then s.count CP_CNT_OWNER else s).complete r { status := st }
    | none => (c.start s r).settle r

/-- Commands that wait go on as far as they can (log entry 15). -/
def State.pumpCmds (s : State) : State :=
  (s.cp.run.map RunCmd.slot).foldl (fun s k =>
    match s.cp.run.find? fun r => r.slot = k with
    | none => s
    | some r =>
      match r.reply with
      | some rep => s.complete r rep
      | none =>
        match cmdOf r.op with
        | some c => (c.later s r).settle r
        | none => s) s

/-- Entry into Underlay mode ends the long commands that run with ABORTED (R380). -/
def State.abortLong (s : State) : State :=
  ((s.cp.run.filter fun r => r.long && r.reply.isNone).map RunCmd.slot).foldl (fun s k =>
    match s.cp.run.find? fun r => r.slot = k with
    | some r => s.complete r { status := stAborted }
    | none => s) s

/-! ### The commands -/

/-- BAD_OPCODE (R372). -/
def execBadOpcode (s : State) : Result :=
  s.main fun s => s.acceptIf (fun o => (cmdOf o).isNone) fun s r _ => s.complete r { status := stBadOpcode }
/-- GEN_IDENTIFY (R372). -/
def execGenIdentify (s : State) : Result := s.main fun s => s.acceptOp 0x00 cmdGenIdentify
/-- GEN_STATUS (R372). -/
def execGenStatus (s : State) : Result := s.main fun s => s.acceptOp 0x01 cmdGenStatus
/-- TOPOLOGY_LOAD (R373, R374). -/
def execTopologyLoad (s : State) : Result := s.main fun s => s.acceptOp 0x02 cmdTopologyLoad
/-- GEN_RESET (R372). -/
def execGenReset (s : State) : Result := s.main fun s => s.acceptOp 0x03 cmdGenReset
/-- FW_LOAD (R375). -/
def execFwLoad (s : State) : Result := s.main fun s => s.acceptOp 0x04 cmdFwLoad
/-- FW_START (R375). -/
def execFwStart (s : State) : Result := s.main fun s => s.acceptOp 0x05 cmdFwStart
/-- TIME_ACQUIRE (R115). -/
def execTimeAcquire (s : State) : Result := s.main fun s => s.acceptOp 0x10 cmdTimeAcquire
/-- TIME_RESTEP (R116). -/
def execTimeRestep (s : State) : Result := s.main fun s => s.acceptOp 0x11 cmdTimeRestep
/-- TIME_SLEW_LIMIT (R118). -/
def execTimeSlewLimit (s : State) : Result := s.main fun s => s.acceptOp 0x12 cmdTimeSlewLimit
/-- TIME_DOMAIN_SELECT (R121). -/
def execTimeDomainSelect (s : State) : Result := s.main fun s => s.acceptOp 0x13 cmdTimeDomainSelect
/-- TIME_SWITCH_AT (R122). -/
def execTimeSwitchAt (s : State) : Result := s.main fun s => s.acceptOp 0x14 cmdTimeSwitchAt
/-- TIME_HOLDOVER_FORCE (R155). -/
def execTimeHoldoverForce (s : State) : Result := s.main fun s => s.acceptOp 0x15 cmdTimeHoldoverForce
/-- TIME_EPOCH_SET (R140). -/
def execTimeEpochSet (s : State) : Result := s.main fun s => s.acceptOp 0x16 cmdTimeEpochSet
/-- REF_CONFIGURE (R139). -/
def execRefConfigure (s : State) : Result := s.main fun s => s.acceptOp 0x20 cmdRefConfigure
/-- REF_PRIORITY (R139). -/
def execRefPriority (s : State) : Result := s.main fun s => s.acceptOp 0x21 cmdRefPriority
/-- REF_LOOP_OPEN (R144). -/
def execRefLoopOpen (s : State) : Result := s.main fun s => s.acceptOp 0x22 cmdRefLoopOpen
/-- REF_LOOP_CLOSE (R146). -/
def execRefLoopClose (s : State) : Result := s.main fun s => s.acceptOp 0x23 cmdRefLoopClose
/-- REF_CORRECT (R145). -/
def execRefCorrect (s : State) : Result := s.main fun s => s.acceptOp 0x24 cmdRefCorrect
/-- INTERVAL_ARM (R227). -/
def execIntervalArm (s : State) : Result := s.main fun s => s.acceptOp 0x30 cmdIntervalArm
/-- INTERVAL_ABORT (R223). -/
def execIntervalAbort (s : State) : Result := s.main fun s => s.acceptOp 0x31 cmdIntervalAbort
/-- SEQ_LOAD (R230). -/
def execSeqLoad (s : State) : Result := s.main fun s => s.acceptOp 0x40 cmdSeqLoad
/-- SEQ_START (R236). -/
def execSeqStart (s : State) : Result := s.main fun s => s.acceptOp 0x41 cmdSeqStart
/-- SEQ_STOP (R238). -/
def execSeqStop (s : State) : Result := s.main fun s => s.acceptOp 0x42 cmdSeqStop
/-- SEQ_ARM (R251). -/
def execSeqArm (s : State) : Result := s.main fun s => s.acceptOp 0x43 cmdSeqArm
/-- SEQ_CANCEL (R251). -/
def execSeqCancel (s : State) : Result := s.main fun s => s.acceptOp 0x44 cmdSeqCancel
/-- OBJ_CTX_DEFINE (R258). -/
def execObjCtxDefine (s : State) : Result := s.main fun s => s.acceptOp 0x50 cmdObjCtxDefine
/-- OBJ_INIT (R258). -/
def execObjInit (s : State) : Result := s.main fun s => s.acceptOp 0x51 cmdObjInit
/-- OBJ_CTX_CLEAR (R271). -/
def execObjCtxClear (s : State) : Result := s.main fun s => s.acceptOp 0x52 cmdObjCtxClear
/-- OBJ_CTX_RELEASE (R258). -/
def execObjCtxRelease (s : State) : Result := s.main fun s => s.acceptOp 0x53 cmdObjCtxRelease
/-- OBJ_WAKE (R372). -/
def execObjWake (s : State) : Result := s.main fun s => s.acceptOp 0x54 cmdObjWake
/-- OBJ_OP (R262). -/
def execObjOp (s : State) : Result := s.main fun s => s.acceptOp 0x55 cmdObjOp
/-- COLL_DEFINE (R283). -/
def execCollDefine (s : State) : Result := s.main fun s => s.acceptOp 0x60 cmdCollDefine
/-- COLL_RELEASE (R283). -/
def execCollRelease (s : State) : Result := s.main fun s => s.acceptOp 0x61 cmdCollRelease
/-- COLL_ABORT (R301). -/
def execCollAbort (s : State) : Result := s.main fun s => s.acceptOp 0x62 cmdCollAbort
/-- PORT_CALIBRATE (R79). -/
def execPortCalibrate (s : State) : Result := s.main fun s => s.acceptOp 0x70 cmdPortCalibrate
/-- PORT_RETIRE (R331). -/
def execPortRetire (s : State) : Result := s.main fun s => s.acceptOp 0x71 cmdPortRetireRow
/-- PORT_RESTORE (R331). -/
def execPortRestore (s : State) : Result := s.main fun s => s.acceptOp 0x72 cmdPortRestoreRow
/-- PORT_SPARE_ADMIT (R331). -/
def execPortSpareAdmit (s : State) : Result := s.main fun s => s.acceptOp 0x73 cmdPortSpareRow
/-- POWER_ENTER (R372). -/
def execPowerEnter (s : State) : Result := s.main fun s => s.acceptOp 0x80 cmdPowerEnter
/-- PULSE_ARM (R248). -/
def execPulseArm (s : State) : Result := s.main fun s => s.acceptOp 0x90 cmdPulseArm
/-- PULSE_CANCEL (R372). -/
def execPulseCancel (s : State) : Result := s.main fun s => s.acceptOp 0x91 cmdPulseCancel
/-- CLOCK_CLKOUT (R182). -/
def execClockClkout (s : State) : Result := s.main fun s => s.acceptOp 0xA0 cmdClockClkout

/-- PORT_CALIBRATE_DONE (R224): the loop measurement has ended; the command that waits for it completes. -/
def execPortCalibrateDone (s : State) : Result := s.main fun s => s.calibrateFinish.pumpCmds

/-- COMMAND_COMPLETION (R363): commands that wait for room in the ring, or for nothing any more, complete. -/
def execCommandCompletion (s : State) : Result := s.main fun s => s.pumpCmds

/-- IRQ_COALESCE_TIMEOUT (R366), judged at the boundary that ends the running course. -/
def execIrqCoalesceTimeout (s : State) : Result := s.main fun s => s.irqTimeout (s.clk.ticks + 1)

end Sys2Proof.Machine
end

