-- ==== Sys2Proof/Machine/Mem.lean ====
section
/-! DEFINITION. Sys2Proof/Machine/Mem.lean: answers on the memory master port (spec/16_integration.md, R393). -/
namespace Sys2Proof.Machine
open Sys2Proof.Config

/-- A read has ended, with its data or with an error: what it served goes on (R257, R279, R367, R393)
(log entry 57). -/
def State.readEnds (s : State) (q : MemReq) (bad : Bool) : State :=
  let s := ({ s with mm := { s.mm with reads := s.mm.reads.filter fun x => x.id ≠ q.id } } : State).memPump
  match q.use with
  | .trans key =>
    let s := if bad then s.contained 0x0A else s
    (s.transDone key (ofLe ((q.got.drop (key * 4 % 16)).take 4)) bad).pumpCmds
  | .cmd slot _ =>
    match s.cp.run.find? fun r => r.slot = slot with
    | some r => (s.putRun (r.take q.got bad)).pumpCmds
    | none => s
  | _ => s

/-- Beats of a read arrive, in order; the read ends with its last beat or with an error (R393) (log entry 57). -/
def State.readBeats (s : State) (id : Nat) (bytes : List Nat) (bad : Bool) : State :=
  match s.mm.reads.find? fun q => q.id = id with
  | none => s
  | some q =>
    let q := { q with got := q.got ++ bytes }
    if bad ∨ 16 * q.beats ≤ q.got.length then s.readEnds q bad
    else { s with mm := { s.mm with reads := s.mm.reads.map fun x => if x.id = id then q else x } }

/-- A write is acknowledged; an error is counted and reported, and the entry is lost (R363, R393) (log entry 57). -/
def State.writeEnds (s : State) (q : MemReq) (err : Bool) : State :=
  let s := ({ s with mm := { s.mm with writes := s.mm.writes.filter fun x => x.id ≠ q.id } } : State).memPump
  let s := if err then (s.count GC_CNT_MERR).raise 27 else s
  match q.use with
  | .ring slot => s.ringAcked slot
  | _ => s

/-- Requests without a complete answer after 1,024 courses, at a boundary with count `t`, as if answered with an
error (R393) (log entry 8). -/
def State.memTimeouts (s : State) (t : Nat) : State :=
  let late (q : MemReq) : Bool := decide (q.tick + 1024 < t)
  let s := (s.mm.reads.filter late).foldl (fun s q => s.readEnds q true) s
  (s.mm.writes.filter late).foldl (fun s q => s.writeEnds q true) s

/-- MEMORY_READ_RESPONSE (R393). -/
def execMemoryReadResponse (id : Nat) (bytes : List Nat) (bad : Bool) (s : State) : Result :=
  s.main fun s => s.readBeats id bytes bad

/-- TRANSLATION_READ_DONE (R257): the read of an overflow entry returns. -/
def execTranslationReadDone (id : Nat) (bytes : List Nat) (bad : Bool) (s : State) : Result :=
  s.main fun s =>
    match s.mm.reads.find? fun q => q.id = id with
    | some q =>
      match q.use with
      | .trans _ => s.readEnds { q with got := q.got ++ bytes } bad
      | _ => s
    | none => s

/-- MEMORY_WRITE_ACK (R393). -/
def execMemoryWriteAck (id : Nat) (err : Bool) (s : State) : Result :=
  s.main fun s =>
    match s.mm.writes.find? fun q => q.id = id with
    | some q => s.writeEnds q err
    | none => s

/-- MEMORY_TIMEOUT (R393), judged at the boundary that ends the running course. -/
def execMemoryTimeout (s : State) : Result := s.main fun s => s.memTimeouts (s.clk.ticks + 1)

end Sys2Proof.Machine
end

