-- ==== Sys2Proof/Machine/Fault.lean ====
section
/-! DEFINITION. Sys2Proof/Machine/Fault.lean: internal parity failures by source, the firmware's trap, and the entry into
and exit from Underlay mode (spec/13_faults.md, R334 to R341). -/
namespace Sys2Proof.Machine
open Sys2Proof.Config

/-! ### Internal parity failures (R334) -/

/-- An object slot fails parity: the operation that reads it ends with PARITY, and the slot is not written.  A program or a
command meets that result at its next operation on the handle (R263) (log entry 52). -/
def State.badSlot (s : State) (h : Nat) (who : TransFor) : State := (s.transFor (hKey h) .parity who).contained 0x07

/-- A tree counter or reduction slot fails parity: an abort request, and the slot is freed (R306) (log entry 41). -/
def State.badCounter (s : State) (cid isn attempt : Nat) : State :=
  match s.ctr cid isn attempt with
  | none => s
  | some _ =>
    let s : State := { s with ce := { s.ce with ctrs := s.ce.ctrs.filter fun x =>
      ¬ (x.par.cid = cid ∧ x.par.isn = isn ∧ x.attempt = attempt) } }
    (s.abortReq cid isn attempt s.home 0x09 0).contained 0x08

/-- An eave's contribution log fails parity: an abort request for its instance. -/
def State.badLog (s : State) (h isn : Nat) : State :=
  match s.handle h with
  | none => s
  | some hd =>
    match hd.inst isn with
    | none => s
    | some i => (s.abortReq hd.cid isn i.attempt (hd.domOf i.attempt) 0x09 0).contained 0x09

/-- A stamp record as it reads when it is flagged MISS: without its stamp (R84). -/
def StampRec.missed (r : StampRec) : StampRec := { lo := r.lo / 2 ^ 48 * 2 ^ 48, hi := r.hi ||| 2 ^ 27 }

/-- The newest stamp record of a port fails parity: it is flagged MISS, and the exchange is invalid (R98)
(log entry 37). -/
def State.badStamp (s : State) (p : Nat) : State :=
  let v := s.port p
  let s := match v.fifo.getLast? with
    | some r => (s.setPort p { v with fifo := v.fifo.dropLast ++ [r.missed] }).count (PF_CNT_MISS p)
    | none => s
  (s.dropExch p).contained 0x0B

/-- A word of the replay store fails parity at a retransmission: the frame is not sent and the attempt fails (R88). -/
def State.badReplay (s : State) (p : Nat) : State :=
  if (s.port p).rpl.attempt.isSome then (s.attemptFails p).contained 0x0C else s.contained 0x0C

/-- A translation read fails parity (R279) (log entry 53). -/
def State.badTranslation (s : State) (id : Nat) : State :=
  match s.mm.reads.find? fun q => q.id = id with
  | some q =>
    match q.use with
    | .trans _ => s.readEnds q true
    | _ => s
  | none => s

/-- A register read that finds a failure of the register file returns zero (R334) (log entry 41). -/
def State.zeroRead (s : State) (m : Master) : State :=
  match m with
  | .host => s.emit (.hostRsp 0 false)
  | .sideband => s.emit (.sbAnswer 0x82 0 [0])
  | .cp => s

/-- INTERNAL_PARITY_FAILURE (R334), by source. -/
def execInternalParityFailure (f : ParityAt) (s : State) : Result :=
  match f with
  | .crossing n edges k => s.atTap n edges fun s => ((s.dropWord n k).count BT_CNT_PAR).contained 0x06
  | .uncontained u => s.main fun s => if 1 ≤ u ∧ u ≤ 5 then s.uncontained u else s
  | .registerRead m => s.main fun s => (s.zeroRead m).uncontained 0x03
  | .objectSlot h who => s.main fun s => if s.isEave then s.badSlot h who else s
  | .treeCounter cid isn attempt => s.main fun s => if s.isRidge then s.badCounter cid isn attempt else s
  | .contribLog h isn => s.main fun s => if s.isEave then s.badLog h isn else s
  | .translation id => s.main fun s => s.badTranslation id
  | .stampRecord p => s.atPort p fun s => s.badStamp p
  | .replayWord p => s.atPort p fun s => s.badReplay p

/-- FIRMWARE_TRAP (R336, R375). -/
def execFirmwareTrap (s : State) : Result :=
  s.main fun s =>
    if s.cp.fw = .running then
      ({ s with cp := { s.cp with fw := .trap }, hf := { s.hf with wdog := none } } : State).underlayCause 5 0
    else s

/-! ### Entry and exit (R338, R340) -/

/-- Entry into Underlay mode at the boundary into course `nc` (R338, R339, R380) (log entry 41). -/
def State.underlayEnter (s : State) (nc : Nat) : State :=
  let s := ({ s with
    hf := { s.hf with pend := false, active := true, course := nc, exitAcc := false, wdog := none }
    cp := { s.cp with fw := if s.cp.fw = .running then .rom else s.cp.fw } } : State).count HF_CNT_UL
  let s := s.seqUnderlay
  let s := if s.isEave then s.objStop else s
  let s : State := { s with ce := { s.ce with
    handles := [], held := [], ctrs := [], moves := [], gangWait := [], closed := [] } }
  let s := s.abortLong
  let s := s.abortShots 3
  let s := s.each s.portList State.flushCT
  let s := s.underlayHold nc
  let s := s.gangLose [s.ties.gangPos]
  if s.pw.st = .nap then s.napWake else s

/-- The entry that is pending takes place at the boundary into course `nc` (log entry 41). -/
def State.underlayBoundary (s : State) (nc : Nat) : State := if s.hf.pend then s.underlayEnter nc else s

/-- Exit from Underlay mode at a boundary: an accepted exit without a new cause in the course (R340, R341)
(log entry 41). -/
def State.underlayExit (s : State) : State :=
  if s.hf.active = false ∨ s.hf.exitAcc = false ∨ s.hf.newCause then s
  else
    let s := (if s.isEave then s.seqReset.objReset else s).fillAll
    { s with
      ck := { s.ck with lclkFb := false }
      ce := { s.ce with handles := [] }
      im := { s.im with st := .idle, shot := none, reason := 0 }
      hf := { s.hf with active := false, pend := false, exitAcc := false } }

/-- UNDERLAY_ENTRY (R338), at the boundary that ends the running course. -/
def execUnderlayEntry (s : State) : Result := s.main fun s => s.underlayBoundary (s.clk.course + 1)

/-- UNDERLAY_EXIT (R340), at the boundary that ends the running course. -/
def execUnderlayExit (s : State) : Result := s.main fun s => s.underlayExit

end Sys2Proof.Machine
end

