-- ==== Sys2Proof/Machine/Write.lean ====
section
/-! DEFINITION. Sys2Proof/Machine/Write.lean: what a write of each register does, accesses of the masters with their
clock gates and wakes, the host port and the sideband (R7, R20, R178, R345, R349, R359 to R362, R370, R371, R377 to R379,
R390, R391, R403 to R408). -/
namespace Sys2Proof.Machine
open Sys2Proof.Config

/-! ### Read-write registers -/

/-- A write of CP_OWN: the sideband may write only fields that are SHARED or its own, or any with HOST_DOWN (R370). -/
def State.ownWrite (s : State) (m : Master) (v : Nat) : State :=
  let old := s.rd CP_OWN
  let may (g : Nat) : Bool := decide (m ≠ .sideband) || s.cp.hostDown || decide (field old (2 * g) 2 ≠ 1)
  s.wr CP_OWN ((List.range 11).foldl (fun acc g => acc + field (if may g then v else old) (2 * g) 2 * 4 ^ g) 0)

/-- A write of CP_RING_CFG: a rise of EN sets WR and RD to 0 (R364) (log entry 16). -/
def State.ringCfgWrite (s : State) (v : Nat) : State :=
  let was := s.ringOn
  let s := s.wr CP_RING_CFG v
  if was = false ∧ s.ringOn then (({ s with cp := { s.cp with ringWr := 0 } } : State)).wr CP_RING_RD 0 else s

/-- A write of a read-write register of the repeated blocks: candidates, pulse outputs, profiles, taps. -/
def State.putBlock (s : State) (r : Reg) (v : Nat) : State :=
  let blk := r.off / 0x1000
  if blk = 2 then
    match blockAt 0x2400 0x10 11 r.off with
    | some n => if r.off % 16 = 0 then s.candCfgWrite n v else s.candDelayWrite n v
    | none => s.wr r v
  else if blk = 5 then
    match blockAt 0x5400 0x40 8 r.off with
    | some n => if (r.off - 0x5400) % 0x40 = 0 then s.pulseCfgWrite n v else s.wr r v
    | none => s.wr r v
  else if blk = 7 ∧ (profileReg r.off).isSome then s.profileWrite r v
  else if blk = 11 ∧ (r.off - 0xB400) % 0x30 = 4 ∧ s.bit BT_CTL 0 then s
  else s.wr r v

/-- A write of a read-write register, with what it does beside storing. -/
def State.putRw (s : State) (m : Master) (r : Reg) (v : Nat) : State :=
  let off := r.off
  match s.portAt off with
  | some p =>
    let sub := (off - 0x10000) % 0x400
    if sub = 0 then s.portCtlWrite p v
    else if sub = 8 ∨ sub = 0xC ∨ sub = 0x10 then s.portConstWrite p r v
    else s.wr r v
  | none =>
    if off = CG_CTL.off then s.cgCtlWrite v
    else if off = TD_SLEW.off then (s.wr r v).resteer
    else if off = CG_CLKOUT.off then s.clkoutWrite v
    else if off = IM_CTL.off then s.imCtlWrite v
    else if off = IM_CAL_CFG.off then s.imCalCfgWrite v
    else if off = ZC_CTL.off then s.zcCtlWrite v
    else if off = ZC_TMO.off then (if s.compat then s.wr r v else s)
    else if off = CP_OWN.off then s.ownWrite m v
    else if off = CP_RING_CFG.off then s.ringCfgWrite v
    else if off = BT_CTL.off then s.battenCtl v
    else if off = BT_TAP_EN.off then (if s.bit BT_CTL 0 then s else s.wr r v)
    else s.putBlock r v

/-! ### Registers with W1C and WO fields -/

/-- A write of GC_IRQ_CAUSE; when the command-completion cause clears, its count starts again (R366, R398)
(log entry 25). -/
def State.causeWrite (s : State) (v : Nat) : State :=
  let s : State := { s with irq := s.irq &&& ~~~(BitVec.ofNat 32 v) }
  if bitOf v 0 then s.irqRestart else s

/-- A write of CP_HOST_HB: only the host port's restarts the heartbeat, and HOST_DOWN clears (R371) (log entry 25). -/
def State.heartbeat (s : State) (m : Master) : State :=
  if m = .host ∧ s.cp.hrst = false then { s with cp := { s.cp with hbTick := s.clk.ticks, hostDown := false } } else s

/-- The range of counters that a CNT_CLR register of the main blocks clears. -/
def clrRange (off : Nat) : Option (Nat × Nat) :=
  match off with
  | 0x00C0 => some (0x0000, 0x0FFF)
  | 0x12C0 => some (0x1000, 0x1FFF)
  | 0x2340 => some (0x2000, 0x2FFF)
  | 0x30C0 => some (0x3000, 0x3FFF)
  | 0x40C0 => some (0x4000, 0x4FFF)
  | 0x5240 => some (0x5000, 0x5FFF)
  | 0x60C0 => some (0x6000, 0x6FFF)
  | 0x70C0 => some (0x7000, 0x7FFF)
  | 0x80C0 => some (0x8000, 0x8FFF)
  | 0x90C0 => some (0x9000, 0x9FFF)
  | 0xA0C0 => some (0xA000, 0xAFFF)
  | 0xB0C0 => some (0xB000, 0xBFFF)
  | 0xD0C0 => some (0xD000, 0xDFFF)
  | _ => none

/-- A write of a register that has no stored bits: W1C and WO fields, the counters' clears, and CP_SB_IANA
(log entry 25). -/
def State.putOther (s : State) (m : Master) (off v : Nat) : State :=
  match s.portAt off with
  | some p =>
    if (off - 0x10000) % 0x400 = 0x0C0 ∧ bitOf v 0 then s.clearCounters (0x10000 + p * 0x400) (0x10000 + p * 0x400 + 0x0FF)
    else s
  | none =>
    match clrRange off with
    | some (lo, hi) => if bitOf v 0 then s.clearCounters lo hi else s
    | none =>
      if off = 0x0010 then s.causeWrite v
      else if off = 0x001C then s.raiseIf (bitOf v 31) 31
      else if off = 0x1088 then
        { s with td := { s.td with wide := s.td.wide && !bitOf v 5, late := s.td.late && !bitOf v 4 } }
      else if off = 0x4004 then { s with im := { s.im with armErr := s.im.armErr && !bitOf v 10 } }
      else if off = 0x7018 then s.debtClear v
      else if off = 0x8024 then
        { s with hf := { s.hf with
          alarmLast := s.hf.alarmLast && !bitOf v 1, alarmBudget := s.hf.alarmBudget && !bitOf v 0 } }
      else if off = 0x8040 then s.ulControl v
      else if off = 0x8048 then s.kick m v
      else if off = 0xA01C then s.heartbeat m
      else if off = 0xA044 then { s with cp := { s.cp with iana := v % 2 ^ 32 } }
      else if s.isEave = false then s
      else if off = 0xB004 then
        { s with bt := { s.bt with guardErr := s.bt.guardErr && !bitOf v 3, calFail := s.bt.calFail && !bitOf v 2 } }
      else if off = 0xB020 then { s with bt := { s.bt with flag := s.bt.flag &&& ~~~(BitVec.ofNat 64 v) } }
      else if off = 0xB028 then { s with bt := { s.bt with warn := s.bt.warn &&& ~~~(BitVec.ofNat 64 v) } }
      else if off = 0xD004 then { s with od := { s.od with dlk := s.od.dlk && !bitOf v 15 } }
      else s

/-! ### Slots and the whole window -/

/-- A write to a host slot: a 64-bit header write hands the packet over (R359 to R362) (log entry 25). -/
def State.slotWrite (s : State) (k b v : Nat) (wide : Bool) : State :=
  let c := s.cmdSlot k
  if c.st = .queued ∨ c.st = .running then s.count CP_CNT_IGN
  else if b < 8 then
    if wide then ((s.busy).openGate 0).queueSlot k { c with header := v % 2 ^ 64 } else s.count CP_CNT_IGN
  else if b < 0xC0 then
    let i := b / 8
    let old := c.params.get 0 i
    let w := if wide then v else if b % 8 = 0 then old - old % 2 ^ 32 + v % 2 ^ 32 else old % 2 ^ 32 + v % 2 ^ 32 * 2 ^ 32
    s.setCmdSlot k { c with params := c.params.set 0 i (w % 2 ^ 64) }
  else s

/-- A register begins at an offset and is 64 bits wide. -/
def State.isWide (s : State) (m : Master) (off : Nat) : Bool :=
  match s.regAt m off with
  | some (w, _) => decide (w = 8)
  | none => false

/-- A write of the whole register that begins at an offset. -/
def State.putReg (s : State) (m : Master) (off v : Nat) : State :=
  match s.rwReg off with
  | some r => s.putRw m r v
  | none => s.putOther m off v

/-- A 32-bit write: a register, or half of a 64-bit one (R406). -/
def State.put32 (s : State) (m : Master) (off v : Nat) : State :=
  let v := v % 2 ^ 32
  let half (base : Nat) (high : Bool) : State :=
    let old := match s.rwReg base with | some r => s.rd r | none => 0
    s.putReg m base (if high then old % 2 ^ 32 + v * 2 ^ 32 else old / 2 ^ 32 * 2 ^ 32 + v)
  if s.isWide m off then half off false
  else if off % 8 = 4 ∧ s.isWide m (off - 4) then half (off - 4) true
  else s.putReg m off v

/-- A write of the window by a master: 64 bits at an offset aligned to 8, otherwise 32 (R10, R391, R405 to R407). -/
def State.regWrite (s : State) (m : Master) (off : Nat) (wide : Bool) (v : Nat) : State :=
  if off % (if wide then 8 else 4) ≠ 0 then s
  else if 0x100000 ≤ off ∧ off < 0x200000 then s
  else if 0x200000 ≤ off ∧ off < 0x220000 then (if wide then s.storeWrite ((off - 0x200000) / 8) (v % 2 ^ 64) else s)
  else
    match slotAt off with
    | some (k, b) => s.slotWrite k b v wide
    | none =>
      if wide = false then s.put32 m off v
      else if s.isWide m off then s.putReg m off (v % 2 ^ 64)
      else (s.put32 m off v).put32 m (off + 4) (v / 2 ^ 32)

/-! ### Accesses of the masters -/

/-- GC_ and PW_ lie in the always-on domain (R349, R387) (log entry 24). -/
def alwaysOn (off : Nat) : Bool := decide (off / 0x1000 = 0) || decide (off / 0x1000 = 9)

/-- The gate group that an access to an offset needs (R175) (log entry 24). -/
def State.gateOf (s : State) (off : Nat) : Option Nat :=
  match s.portAt off with
  | some p => if s.enabled p then none else some 11
  | none =>
    if 0x100000 ≤ off ∧ off < 0x200000 then some 2
    else if 0x200000 ≤ off ∧ off < 0x220000 then some 9
    else
      match off / 0x1000 with
      | 0x4 => some 6
      | 0x5 => some 1
      | 0x6 => some 3
      | 0x7 => some 4
      | 0x8 => some 5
      | 0xC => some 7
      | 0xD => some 2
      | 0xE => some 2
      | _ => none

/-- What an access outside GC_ and PW_ does beside itself: it makes the course busy and opens its group's gate
(R178, R345) (log entry 24). -/
def State.touch (s : State) (m : Master) (off : Nat) : State :=
  let s := if m = .cp then s else s.busy
  match s.gateOf off with
  | some k => s.gateAccess k
  | none => s

/-- The source of a wake event of a master (R354). -/
def Master.wakeSrc : Master → Nat
  | .sideband => 2
  | _ => 1

/-- An access by a master: without effect while por_n is low; in a sleep it is a wake event and is held (R178, R344,
R349) (log entry 24). -/
def State.access (s : State) (m : Master) (off : Nat) (req : HeldReq) (f : State → State) : State :=
  if s.ck.phase = .held then s
  else if alwaysOn off ∨ s.ck.phase ≠ .running then f s
  else if s.asleep then (if m = .cp then s else s.wake m.wakeSrc 0 (some req))
  else f ((if m = .cp then s else s.wake m.wakeSrc 0 none).touch m off)

/-- A write that a master performs: none reaches the main logic while it is held in reset (R383, R387). -/
def State.doWrite (s : State) (m : Master) (off : Nat) (wide : Bool) (v : Nat) : State :=
  if s.ck.phase = .roleErr ∧ m = .sideband then s
  else if alwaysOn off ∨ s.ck.phase = .running then s.regWrite m off wide v
  else s

/-- The access of the host port that a write or a read stands for. -/
def hostAccess (write wide : Bool) (off v : Nat) : Access :=
  { write := write, wide := wide, addr := off, data := if wide = false ∧ off % 8 = 4 then v % 2 ^ 32 * 2 ^ 32 else v }

/-- What a sleep holds of a register access by a master (log entry 24). -/
def heldAccess (m : Master) (write wide : Bool) (off v : Nat) : HeldReq :=
  if m = .sideband then
    (if write then .sb (.regWrite off (if wide then 8 else 4) v) else .sb (.regRead off (if wide then 8 else 4)))
  else .host (hostAccess write wide off v) true

/-- A register write by a master (log entry 55). -/
def State.writeBy (s : State) (m : Master) (off : Nat) (wide : Bool) (v : Nat) : State :=
  s.access m off (heldAccess m true wide off v) fun s => s.doWrite m off wide v

/-- A register read by a master, for what it does (log entry 55). -/
def State.readBy (s : State) (m : Master) (off : Nat) (wide : Bool) : State :=
  s.access m off (heldAccess m false wide off 0) fun s => (s.regRead m off wide).1

/-! ### The host port (R390, R391) -/

/-- Perform a request of the host port and answer it (log entry 25). -/
def State.hostDo (s : State) (a : Access) : State :=
  let off := a.addr % 2 ^ 24
  let high := !a.wide && decide (off % 8 = 4)
  let s := { s with cp := { s.cp with credits := min 16 (s.cp.credits + 1) } }
  if a.write then (s.doWrite .host off a.wide (if high then a.data / 2 ^ 32 % 2 ^ 32 else a.data)).emit (.hostRsp 0 false)
  else
    let q := s.regRead .host off a.wide
    q.1.emit (.hostRsp (if high then q.2 * 2 ^ 32 else q.2) false)

/-- What a sleep holds is a request of the host port. -/
def HeldReq.isHost : HeldReq → Bool
  | .host _ _ => true
  | _ => false

/-- A request of the host port waits behind the earlier ones that a sleep holds: responses come in order of request
(R391).  It is no wake event of its own (log entry 25). -/
def State.holdBehind (s : State) (q : HeldReq) : State :=
  if s.pw.late.any fun w => w.req.isHost then { s with pw := { s.pw with late := s.pw.late ++ [⟨1, 0, q⟩] } }
  else { s with pw := { s.pw with held := s.pw.held ++ [q] } }

/-- The sleep holds an earlier request of the host port. -/
def State.hostWaits (s : State) : Bool := (s.pw.held.any HeldReq.isHost) || s.pw.late.any fun w => w.req.isHost

/-- The answer to a request that failed parity: it is not performed, and the error is counted (R391). -/
def State.hostBad (s : State) : State :=
  ({ s with cp := { s.cp with credits := min 16 (s.cp.credits + 1) } } : State).emit (.hostRsp 0 true)

/-- A request on the host port: it uses a credit, which its response returns (log entry 25). -/
def State.hostRequest (s : State) (a : Access) (parityOk : Bool) : State :=
  if s.ck.phase = .held ∨ s.ck.phase = .roleErr ∨ s.cp.hrst then s
  else
    let s := { s with cp := { s.cp with credits := s.cp.credits - 1 } }
    let s := if parityOk then s else s.count GC_CNT_HPAR
    if s.hostWaits then s.holdBehind (.host a parityOk)
    else if parityOk = false then s.hostBad
    else s.access .host (a.addr % 2 ^ 24) (.host a true) fun s => s.hostDo a

/-- HOST_DOWN is set; its rise raises the host-down cause (R371, R398). -/
def State.setHostDown (s : State) : State :=
  ({ s with cp := { s.cp with hostDown := true } } : State).raiseIf (!s.cp.hostDown) 28

/-- No heartbeat for CP_HB_TMO courses, at a boundary with count `t` (R371). -/
def State.heartbeatTimeout (s : State) (t : Nat) : State :=
  let k := s.rd CP_HB_TMO
  if k ≠ 0 ∧ s.cp.hbTick + k < t then s.setHostDown else s

/-- hrst_n falls: requests that wait are discarded, HOST_DOWN is 1 (R391) (log entry 22). -/
def State.hostReset (s : State) : State :=
  let keep : HeldReq → Bool := fun q => !q.isHost
  ({ s with
    cp := { s.cp with hrst := true, credits := 0 }
    pw := { s.pw with held := s.pw.held.filter keep, late := s.pw.late.filter fun w => keep w.req } } : State).setHostDown

/-! ### The sideband (R377 to R379) -/

/-- An MCTP control message: the five served, any other answered as unsupported (R377) (log entry 23). -/
def State.mctp (s : State) (cmd data : Nat) : State :=
  match cmd with
  | 1 => ({ s with cp := { s.cp with eid := some (data % 256) } } : State).emit (.sbAnswer 1 0 [data % 256])
  | 2 => s.emit (.sbAnswer 2 0 [s.cp.eid.getD 0])
  | 4 => s.emit (.sbAnswer 4 0 [])
  | 5 => s.emit (.sbAnswer 5 0 [0x7F])
  | 6 => s.emit (.sbAnswer 6 0 [s.cp.iana])
  | _ => s.emit (.sbAnswer cmd 5 [])

/-- A command reply that no slot forms (R379, R383) (log entry 23). -/
def State.slotless (s : State) (header st : Nat) : State :=
  let words := match s.replyWords 16 header false { status := st } with
    | w :: rest => (w - 16 * 2 ^ 40) :: rest
    | [] => []
  s.emit (.sbAnswer 0x81 0 words)

/-- A command request takes a free sideband slot, or is answered BUSY (R379) (log entry 23). -/
def State.sbCommand (s : State) (words : List Nat) : State :=
  let h := words.headD 0 % 2 ^ 64
  if s.ck.phase = .roleErr then s.slotless h stInvalidState
  else
    match [16, 17, 18, 19].find? fun k => (s.cmdSlot k).st = .free ∨ (s.cmdSlot k).st = .done with
    | none => (s.slotless h stBusy).count CP_CNT_SB_BUSY
    | some k =>
      let p := (List.range 23).foldl (fun (m : Map Nat) i => Map.set m 0 (i + 1) (words.getD (i + 1) 0 % 2 ^ 64)) []
      ((s.busy).openGate 0).queueSlot k
        { header := h, params := p, badLen := decide (words.length ≠ 1 + hdrLen h) }

/-- A width of a sideband register access is valid and the offset aligned to it (R378) (log entry 23). -/
def sbAccessOk (off width : Nat) : Bool := (decide (width = 4) || decide (width = 8)) && decide (off % width = 0)

/-- A packet of the sideband opens the gate of the command processor while its clock runs (R175). -/
def State.sbGate (s : State) : State := if s.up then s.openGate 0 else s

/-- Serve a message of the sideband. -/
def State.sbDo (s : State) (m : SbMsg) : State :=
  let s := s.sbGate
  match m with
  | .control cmd data => s.mctp cmd data
  | .command words => s.sbCommand words
  | .regRead off width =>
    if sbAccessOk off width then
      let q := s.regRead .sideband off (decide (width = 8))
      q.1.emit (.sbAnswer 0x82 0 [q.2])
    else s.emit (.sbAnswer 0x82 1 [0])
  | .regWrite off width value =>
    if sbAccessOk off width then (s.doWrite .sideband off (decide (width = 8)) value).emit (.sbAnswer 0x83 0 [])
    else s.emit (.sbAnswer 0x83 1 [])

/-- A message of the sideband: in a sleep a packet wakes the block and is held, but for accesses to GC_ and PW_ (R349,
R379) (log entry 23). -/
def State.sbMessage (s : State) (m : SbMsg) : State :=
  match m with
  | .regRead off width =>
    if sbAccessOk off width then s.access .sideband off (.sb m) fun s => s.sbDo m
    else if s.ck.phase = .held then s else s.sbDo m
  | .regWrite off width _ =>
    if sbAccessOk off width then s.access .sideband off (.sb m) fun s => s.sbDo m
    else if s.ck.phase = .held then s else s.sbDo m
  | _ =>
    if s.ck.phase = .held then s
    else if s.asleep then s.wake 2 0 (some (.sb m))
    else if s.ck.phase = .running then (s.wake 2 0 none).sbDo m
    else s.sbDo m

/-! ### The commands: register writes and reads with rows of their own -/

/-- REGISTER_WRITE (R7) (log entry 55). -/
def execRegisterWrite (m : Master) (off width value : Nat) (s : State) : Result :=
  .next (if width = 4 ∨ width = 8 then s.writeBy m off (decide (width = 8)) value else s)
/-- TD_NOW_NS_READ (R42). -/
def execTdNowNsRead (m : Master) (s : State) : Result := .next (s.readBy m 0x1000 false)
/-- PF_STAMP_LO_READ (R85). -/
def execPfStampLoRead (m : Master) (p : Nat) (s : State) : Result := .next (s.readBy m (0x10048 + p * 0x400) true)
/-- IM_SK_COUNT_READ (R221). -/
def execImSkCountRead (m : Master) (k : Nat) (s : State) : Result :=
  .next (if k < 8 then s.readBy m (0x4110 + k * 0x40) false else s)
/-- IM_RAW_LO_READ (R222). -/
def execImRawLoRead (m : Master) (s : State) : Result := .next (s.readBy m 0x4040 true)
/-- OD_WINDOW_READ (R280): a 64-bit read of the debug view at a byte offset within it. -/
def execOdWindowRead (m : Master) (off : Nat) (s : State) : Result :=
  .next (s.readBy m (0x100000 + off % 0x100000 / 8 * 8) true)
/-- PORT_ENABLE (R76): a write of PF_CTL with EN = 1. -/
def execPortEnable (p v : Nat) (s : State) : Result := .next (s.writeBy .host (PF_CTL p).off false (v / 2 * 2 + 1))
/-- PORT_DISABLE (R90): a write of PF_CTL with EN = 0. -/
def execPortDisable (p v : Nat) (s : State) : Result := .next (s.writeBy .host (PF_CTL p).off false (v / 2 * 2))
/-- PORT_CONSTANTS_WRITE (R75): `which` 0 is PF_TX_LAT, 1 PF_RX_LAT, 2 PF_FIB_CORR. -/
def execPortConstantsWrite (p which v : Nat) (s : State) : Result :=
  .next (s.writeBy .host (match which with
    | 0 => (PF_TX_LAT p).off
    | 1 => (PF_RX_LAT p).off
    | _ => (PF_FIB_CORR p).off) false v)
/-- TP_DEBT_CLR (R314). -/
def execTpDebtClr (v : Nat) (s : State) : Result := .next (s.writeBy .host 0x7018 false v)
/-- PROFILE_WRITE (R314): a write of a profile register or of TP_PMAP. -/
def execProfileWrite (off v : Nat) (s : State) : Result :=
  .next (if (profileReg off).isSome then s.writeBy .host off false v else s)
/-- OVEN_USE_WRITE (R166): a write of CG_CTL. -/
def execOvenUseWrite (v : Nat) (s : State) : Result := .next (s.writeBy .host CG_CTL.off false v)
/-- CG_CLKOUT_WRITE (R182). -/
def execCgClkoutWrite (v : Nat) (s : State) : Result := .next (s.writeBy .host CG_CLKOUT.off false v)
/-- BATTEN_ENABLE (R197): a write of BT_CTL that sets EN. -/
def execBattenEnable (s : State) : Result := .next (s.writeBy .host BT_CTL.off false (s.rd BT_CTL ||| 1))
/-- BATTEN_DISABLE (R197). -/
def execBattenDisable (s : State) : Result := .next (s.writeBy .host BT_CTL.off false (s.rd BT_CTL &&& 8))
/-- BATTEN_RECAL (R197). -/
def execBattenRecal (s : State) : Result := .next (s.writeBy .host BT_CTL.off false (s.rd BT_CTL ||| 4))
/-- PAD_RECAL (R216): a write of IM_CAL_CFG.PAD_RECAL. -/
def execPadRecal (s : State) : Result := .next (s.writeBy .host IM_CAL_CFG.off false (s.rd IM_CAL_CFG + 256))
/-- IM_ARM (R227) (log entry 55). -/
def execImArm (s : State) : Result := .next (s.writeBy .host IM_CTL.off false (s.rd IM_CTL + 2))
/-- IM_ABORT (R223). -/
def execImAbort (s : State) : Result := .next (s.writeBy .host IM_CTL.off false (s.rd IM_CTL + 4))
/-- IM_GO (R217). -/
def execImGo (s : State) : Result := .next (s.writeBy .host IM_CTL.off false (s.rd IM_CTL + 8))
/-- IM_MODE_WRITE (R223, R225). -/
def execImModeWrite (on : Bool) (s : State) : Result :=
  .next (s.writeBy .host IM_CTL.off false (s.rd IM_CTL &&& 0x20 ||| bitAt on 4))
/-- ZC_START (R225). -/
def execZcStart (s : State) : Result := .next (s.writeBy .host ZC_CTL.off false (s.rd ZC_CTL + 1))
/-- ZC_CLR (R228). -/
def execZcClr (s : State) : Result := .next (s.writeBy .host ZC_CTL.off false (s.rd ZC_CTL + 2))
/-- PROGRAM_STORE_WRITE (R230): a 64-bit write at a store index. -/
def execProgramStoreWrite (idx w : Nat) (s : State) : Result :=
  .next (if idx < 16384 then s.writeBy .host (0x200000 + 8 * idx) true w else s)
/-- PULSE_OUTPUT_ENABLE (R247): a write of SQ_Pn_CFG that sets EN. -/
def execPulseOutputEnable (out : Nat) (s : State) : Result :=
  .next (if out < 8 then s.writeBy .host (SQ_Pn_CFG out).off false (s.rd (SQ_Pn_CFG out) ||| 2 ^ 31) else s)
/-- PERIODIC_MODE_SET (R248): a write of SQ_Pn_CFG that sets PER. -/
def execPeriodicModeSet (out : Nat) (s : State) : Result :=
  .next (if out < 8 then s.writeBy .host (SQ_Pn_CFG out).off false (s.rd (SQ_Pn_CFG out) ||| 2 ^ 30) else s)
/-- RS_CANDN_CFG_WRITE (R139). -/
def execRsCandnCfgWrite (n v : Nat) (s : State) : Result :=
  .next (if n ≤ 10 then s.writeBy .host (RS_CANDn_CFG n).off false v else s)
/-- RS_CANDN_DELAY_WRITE (R139). -/
def execRsCandnDelayWrite (n v : Nat) (s : State) : Result :=
  .next (if n ≤ 10 then s.writeBy .host (RS_CANDn_DELAY n).off false v else s)
/-- HF_WDOG_KICK (R336): a write by a master (log entry 55). -/
def execHfWdogKick (m : Master) (v : Nat) (s : State) : Result := .next (s.writeBy m 0x8048 false v)
/-- HF_UL_ENTER (R337). -/
def execHfUlEnter (s : State) : Result := .next (s.writeBy .host 0x8040 false 2)
/-- HF_UL_EXIT (R340). -/
def execHfUlExit (s : State) : Result := .next (s.writeBy .host 0x8040 false 1)
/-- GC_IRQ_SET (R398). -/
def execGcIrqSet (v : Nat) (s : State) : Result := .next (s.writeBy .host 0x001C false v)
/-- COMMAND_HANDOVER (R361): a 64-bit write of a host slot's header word. -/
def execCommandHandover (slot header : Nat) (s : State) : Result :=
  .next (if slot < 12 then s.writeBy .host (0xA400 + slot * 0x100) true header
    else if slot < 16 then s.writeBy .host (0xF000 + (slot - 12) * 0x100) true header
    else s)
/-- CP_HOST_HB (R371). -/
def execCpHostHb (s : State) : Result := .next (s.writeBy .host 0xA01C false 1)
/-- RING_ENABLE (R364): a write of CP_RING_CFG. -/
def execRingEnable (v : Nat) (s : State) : Result := .next (s.writeBy .host CP_RING_CFG.off false v)
/-- CP_OWN_WRITE (R370). -/
def execCpOwnWrite (m : Master) (v : Nat) (s : State) : Result := .next (s.writeBy m CP_OWN.off false v)
/-- PF_CNT_CLR (R92). -/
def execPfCntClr (p : Nat) (s : State) : Result := .next (s.writeBy .host (0x100C0 + p * 0x400) false 1)
/-- TD_CNT_CLR (R130). -/
def execTdCntClr (s : State) : Result := .next (s.writeBy .host 0x12C0 false 1)
/-- RS_CNT_CLR (R163). -/
def execRsCntClr (s : State) : Result := .next (s.writeBy .host 0x2340 false 1)
/-- CG_CNT_CLR (R184). -/
def execCgCntClr (s : State) : Result := .next (s.writeBy .host 0x30C0 false 1)
/-- BT_CNT_CLR (R207). -/
def execBtCntClr (s : State) : Result := .next (s.writeBy .host 0xB0C0 false 1)
/-- IM_CNT_CLR (R227). -/
def execImCntClr (s : State) : Result := .next (s.writeBy .host 0x40C0 false 1)
/-- SQ_CNT_CLR (R254). -/
def execSqCntClr (s : State) : Result := .next (s.writeBy .host 0x5240 false 1)
/-- OD_CNT_CLR (R281). -/
def execOdCntClr (s : State) : Result := .next (s.writeBy .host 0xD0C0 false 1)
/-- CE_CNT_CLR (R307). -/
def execCeCntClr (s : State) : Result := .next (s.writeBy .host 0x60C0 false 1)
/-- TP_CNT_CLR (R321). -/
def execTpCntClr (s : State) : Result := .next (s.writeBy .host 0x70C0 false 1)
/-- HF_CNT_CLR (R342). -/
def execHfCntClr (s : State) : Result := .next (s.writeBy .host 0x80C0 false 1)
/-- PW_CNT_CLR (R358). -/
def execPwCntClr (s : State) : Result := .next (s.writeBy .host 0x90C0 false 1)
/-- CP_CNT_CLR (R381). -/
def execCpCntClr (s : State) : Result := .next (s.writeBy .host 0xA0C0 false 1)
/-- GC_CNT_CLR (R408). -/
def execGcCntClr (s : State) : Result := .next (s.writeBy .host 0x00C0 false 1)

/-! ### The commands: the host port and the sideband -/

/-- HOST_REQUEST (R391). -/
def execHostRequest (a : Access) (parityOk : Bool) (s : State) : Result := .next (s.hostRequest a parityOk)
/-- HOST_PORT_RESET (R391). -/
def execHostPortReset (s : State) : Result := .next (if s.ck.phase = .held then s else s.hostReset)
/-- HOST_PORT_RESET_RELEASE (R391). -/
def execHostPortResetRelease (s : State) : Result :=
  .next (if s.ck.phase = .held ∨ s.cp.hrst = false then s
    else { s with cp := { s.cp with hrst := false, credits := 16 } })
/-- HOST_HEARTBEAT_TIMEOUT (R371), judged at the boundary that ends the running course. -/
def execHostHeartbeatTimeout (s : State) : Result := s.main fun s => s.heartbeatTimeout (s.clk.ticks + 1)
/-- SB_MCTP_CONTROL (R377). -/
def execSbMctpControl (cmd data : Nat) (s : State) : Result := .next (s.sbMessage (.control cmd data))
/-- SB_COMMAND_REQUEST (R379). -/
def execSbCommandRequest (words : List Nat) (s : State) : Result := .next (s.sbMessage (.command words))
/-- SB_REGISTER_READ (R378). -/
def execSbRegisterRead (off width : Nat) (s : State) : Result := .next (s.sbMessage (.regRead off width))
/-- SB_REGISTER_WRITE (R378). -/
def execSbRegisterWrite (off width value : Nat) (s : State) : Result := .next (s.sbMessage (.regWrite off width value))
/-- SB_PACKET_BAD (R377): a packet that fails its error code, or a message of a foreign type or kind. -/
def execSbPacketBad (pec : Bool) (s : State) : Result :=
  .next (if s.ck.phase = .held then s else s.count (if pec then CP_CNT_SB_PEC else CP_CNT_SB_BAD))

end Sys2Proof.Machine
end

