-- ==== Sys2Proof/Machine/Cycle.lean ====
section
/-! DEFINITION. Sys2Proof/Machine/Cycle.lean: the order of what meets in one logic cycle: the register file takes the writes of
its masters in the fixed order of R20, and a hardware event of that cycle follows them, so that a W1C bit that the event sets
remains set (R8, R20) (log entry 62). -/
namespace Sys2Proof.Machine

/-- The place of a master among the writes of one logic cycle (R20). -/
def Master.place : Master → Nat
  | .sideband => 0
  | .host => 1
  | .cp => 2

/-- The place of a command among those of one logic cycle: a register write of a master, or what follows every write, which is
an event or a write of GC_IRQ_SET (R8, R20). -/
def cyclePlace : Instr → Nat
  | .sbRegisterWrite _ _ _ => Master.place .sideband
  | .registerWrite m off _ _ => if off / 4 = 7 then 3 else m.place
  | .hfWdogKick m _ => m.place
  | .cpOwnWrite m _ => m.place
  | .hostRequest a _ => if a.write ∧ a.addr / 4 ≠ 7 then Master.place .host else 3
  | _ => 3

/-- The commands of one logic cycle in the order in which they take effect; those of one place keep the order in which they are
given (R8, R20). -/
def cycleOrder (cs : List Instr) : List Instr := sortBy (fun a b => decide (cyclePlace a ≤ cyclePlace b)) cs

/-- Commands that meet in one logic cycle join the queue in that order (R8, R20) (log entry 62). -/
def State.joins (s : State) (cs : List Instr) : State := { s with pending := s.pending ++ cycleOrder cs }

end Sys2Proof.Machine
end

