-- ==== Sys2Proof/Machine/Tick.lean ====
section
/-! DEFINITION. Sys2Proof/Machine/Tick.lean: the course boundary with its ordered work, at the course tick and at the
step edge of an acquisition or a re-step (spec/01_architecture.md, R17 to R19; spec/02_time_and_numbering.md, R46 to
R48; spec/04_time_transfer.md, R115, R116). -/
namespace Sys2Proof.Machine
open Sys2Proof.Config

/-! ### The course that ends -/

/-- What the tick tells of the course that ends, and what is left to do in it: pulses and freezes that rise in it, the
edges of the candidate clocks (R133, R217, R246, R249) (log entry 7). -/
def State.closeCourse (s : State) (i : TickIn) : State :=
  let s := (s.pulsesLeft.freezesLeft).windowWaits
  (((s.clocksUpTo (((s.clk.course : Int) + 1) * courseUnits)).portTiming).candTiming i.refs).advanceAnchors

/-- The temperature sense at the boundary (R150): a value that is not valid keeps the last. -/
def State.senseTemp (s : State) (i : TickIn) : State :=
  { s with rs := { s.rs with temp := if i.tempOk then i.temp else s.rs.temp, tempBad := !i.tempOk } }

/-- The level of rclk_ok at one port (R81). -/
def State.rclkLevel (s : State) (p : Nat) (high : Bool) : State :=
  if high then s.modPort p fun v => { v with rclkOk := true }
  else if (s.port p).rclkOk then
    ((s.modPort p fun v => { v with rclkOk := false }).count (PF_CNT_RCLK p)).withdrawClock p
  else s

/-- The levels of rclk_ok at every port. -/
def State.rclkLevels (s : State) (high : List Nat) : State :=
  let s := s.each ((s.portList).filter fun p => decide (p ∉ high)) fun s p => s.rclkLevel p false
  s.each (high.filter fun p => decide (p < s.nPorts)) fun s p => s.rclkLevel p true

/-! ### Step 1: the tick -/

/-- The course number is advanced (R46, R47), the course counts for every timer (R48), and the R_out set by the boundary before
takes effect (R168) (log entry 7). -/
def State.openCourse (s : State) : State :=
  { s with
    clk := { course := s.clk.course + 1, cyc := 0, ticks := s.clk.ticks + 1 }
    td := { s.td with rEff := s.td.rOut } }

/-- The TE code of the head's mark for the course that begins at boundary count `t` (R174, R200, R352). -/
def State.teCode (s : State) (t : Nat) : Nat :=
  let young : Bool := match s.ck.relock with
    | some r => decide (t < r + 16)
    | none => false
  if !s.ck.tLock || young || s.pw.waitLock then 0xFFFF else min 0xFFFF (ceilDiv s.td.te 8)

/-! ### Steps 2 to 6 of R18 -/

/-- Keepalive losses due in the course whose boundary has count `t` (R105). -/
def State.keepaliveLosses (s : State) (t : Nat) : State :=
  s.each s.portList fun s p => if s.lossDue p (t - 1) then s.keepaliveLost p else s

/-- Step 2: the health manager, then the entry into Underlay mode that is pending and an exit that was accepted (R325,
R338, R340).  The outcomes that arrived in the course are applied before the engine frees its state (R18)
(log entry 7). -/
def State.stepHealth (s : State) (nc t : Nat) : State :=
  let s := (s.keepaliveLosses t).healthBoundary nc t
  let s := if s.hf.pend then (s.collArrivals).underlayBoundary nc else s.underlayExit
  { s with hf := { s.hf with exitAcc := s.hf.exitAcc && !s.hf.newCause, newCause := false } }

/-- The candidates, the domain engine and the reference selector, once the live-rafter vector is fixed (R137, log entry 7). -/
def State.stepTimeEngine (s : State) (n nc t : Nat) : State :=
  ((((s.candBoundary t).prioBoundary).timeBoundary n nc t).waitLockBoundary).esmcBoundary

/-- Steps 3 to 6: arrivals and deadlines, the sequencer, the power controller (log entry 7). -/
def State.stepWork (s : State) (n nc t : Nat) (i : TickIn) : State :=
  let s := s.resetBoundary
  let s := (s.collBoundary n t).objBoundary n nc t
  let s := if s.underlay then s.expireEvents nc else s.seqBoundary n nc
  s.powerBoundary nc i

/-- The timers of the command processor, the host port and the memory master port, and the commands that wait for a
boundary (log entry 7). -/
def State.stepCommands (s : State) (t : Nat) : State :=
  ((((s.memTimeouts t).heartbeatTimeout t).irqTimeout t).pumpCmds).wdogBoundary

/-! ### The wake (R353, R354) -/

/-- The order of wake events that the latch did not record: by source, then by argument (log entry 43). -/
def lateBefore (a b : LateWake) : Bool :=
  decide (a.src < b.src) || (decide (a.src = b.src) && decide (a.arg ≤ b.arg))

/-- One request held through the sleep is served. -/
def State.serveHeld (s : State) (q : HeldReq) : State :=
  match q with
  | .host a true => (s.touch .host (a.addr % 2 ^ 24)).hostDo a
  | .host _ false => s.hostBad
  | .sb (.regRead off width) => (s.touch .sideband off).sbDo (.regRead off width)
  | .sb (.regWrite off width v) => (s.touch .sideband off).sbDo (.regWrite off width v)
  | .sb m => s.sbDo m
  | .tap op r => s.tapRequest op r

/-- What the wake latch holds is served in order once the block is Active (log entry 43). -/
def State.replayHeld (s : State) : State :=
  let l := s.pw.held ++ (sortBy lateBefore s.pw.late).map (fun w => w.req)
  let s : State := { s with pw := { s.pw with held := [], late := [] } }
  l.foldl State.serveHeld s

/-! ### The course tick -/

/-- What the tick itself does beside the ordered work: the mark at the head, the ports, the chain, the interval unit,
the pulse outputs, the gang (log entry 7). -/
def State.tickParts (s : State) (t : Nat) : State :=
  let s := (s.headMark (s.teCode t)).battenBoundary
  let s := s.each s.portList fun s p => s.portBoundary p t
  let s := s.imBoundary.calibrateFinish
  (s.each (List.range 8) fun s n => s.pulseCalTick n).clkoutTick

/-- The course boundary at a tick (R18) (log entries 3 and 7 and 10). -/
def State.courseTick (s : State) (i : TickIn) : State :=
  let waking := s.asleep
  let s := (s.closeCourse i).advancePhase
  let n := s.clk.course
  let s := (((s.openCourse.gangBeat).gangKeepalive i.gangKa).gangCalOver).gangTime i.lead
  let nc := s.clk.course
  let t := s.clk.ticks
  let s := if waking then s.awaken else s.napPlanned nc
  let s := (((s.senseTemp i).ovenTick i.oven).rclkLevels i.rclk).takeClocks i.rclkEdges
  let s := s.stepHealth nc t
  let s := (s.gangLeave nc).stepTimeEngine n nc t
  let s := s.tickParts t
  let s := (s.stepWork n nc t i).stepCommands t
  let s : State := { s with did := {} }
  let s := s.evt 0
  if waking then s.replayHeld else s

/-- A course tick takes place: the time counter runs, and the block is not in Thatch, or its time has been loaded
(log entries 8 and 10). -/
def State.ticks (s : State) : Bool := s.up || (s.asleep && s.pw.loaded)

/-! ### The step edge (R48, R115, R116) -/

/-- The work of R18 at a step edge that ended course `n`, steps 2 to 6 in their order.  No tick is asserted, no mark is sent, and
no servo update is made (R48) (log entry 35). -/
def State.stepEdgeWork (s : State) (n : Nat) (i : TickIn) : State :=
  let nc := s.clk.course
  let t := s.clk.ticks
  let s := s.stepHealth nc t
  let s : State := { s with did := { s.did with servo := true } }
  let s := s.stepTimeEngine n nc t
  let s := (s.stepWork n nc t i).stepCommands t
  { s with did := {} }

/-- The output time is stepped by `th` of a domain: what the course still has to drive, the load of the time, and what follows
the time (R48, R115) (log entry 35). -/
def State.stepBy (s : State) (d : Dom) (th : Int) : State :=
  ((s.pulsesLeft.freezesLeft).stepTime d th).stepShot.seqTimeStep.pulsesCatchUp

/-- The step edge of an acquisition or a re-step (R115, R116) (log entry 35). -/
def State.acquisitionStep (s : State) (osc : Edge) : State :=
  match s.td.stepDue with
  | none => s
  | some (d, th) => (s.stepBy d th).stepEdgeWork s.clk.course { osc := osc, dbg := s.pw.dbgPin }

/-- The step edge of a gang member whose leader's time is not its own: it lies where the running course would have ended, which
the step ends in place of the tick (R29, R48) (log entry 31). -/
def State.gangStep (s : State) (l : LeadTime) (i : TickIn) : State :=
  let n := s.clk.course
  let s : State := { s with clk := { s.clk with course := n + 1, cyc := 0 } }
  ((s.stepBy l.sel (s.leadNow l - ((n : Int) + 1) * courseUnits)).gangTake l).stepEdgeWork n { i with lead := none }

/-! ### The commands -/

/-- The end of the running course: the step edge of a gang member whose leader's time is not its own, otherwise the course
tick. -/
def State.endCourse (s : State) (i : TickIn) : State :=
  match s.leads i.lead with
  | some l => if s.up ∧ s.gangJumps l then s.gangStep l i else s.courseTick i
  | none => s.courseTick i

/-- COURSE_TICK (R18): a step whose sample has been delivered, and that no ACQUISITION_STEP has made yet, comes
first. -/
def execCourseTick (tick : TickIn) (s : State) : Result :=
  .next (if s.ticks then (s.acquisitionStep tick.osc).endCourse tick else s)

/-- ACQUISITION_STEP (R115): the timing edge at which the sample that sets the step is delivered; `osc` is the first
oscillator edge after it. -/
def execAcquisitionStep (osc : Edge) (s : State) : Result := s.main fun s => s.acquisitionStep osc

end Sys2Proof.Machine
end

