-- ==== Sys2Proof/Machine/Dispatch.lean ====
section
/-! DEFINITION. Sys2Proof/Machine/Dispatch.lean: one arm per command, each the direct call of its meaning. -/
namespace Sys2Proof.Machine

/-- The effect of a command on everything but the queue. -/
def exec (i : Instr) (s : State) : Host.Outcome State Fault Refusal :=
  match i with
  | .porRelease t g => Sys2Proof.Machine.execPorRelease t g s
  | .porAssert => Sys2Proof.Machine.execPorAssert s
  | .oscGood => Sys2Proof.Machine.execOscGood s
  | .oscLoss => Sys2Proof.Machine.execOscLoss s
  | .pllLock p cycles oven => Sys2Proof.Machine.execPllLock p cycles oven s
  | .pllLockTimeout p => Sys2Proof.Machine.execPllLockTimeout p s
  | .timingPllUnlock => Sys2Proof.Machine.execTimingPllUnlock s
  | .timingPllRelock => Sys2Proof.Machine.execTimingPllRelock s
  | .logicPllUnlock => Sys2Proof.Machine.execLogicPllUnlock s
  | .logicPllRelock => Sys2Proof.Machine.execLogicPllRelock s
  | .ovenFlagFall => Sys2Proof.Machine.execOvenFlagFall s
  | .ovenOkRise => Sys2Proof.Machine.execOvenOkRise s
  | .ovenUseWrite v => Sys2Proof.Machine.execOvenUseWrite v s
  | .gateClose k => Sys2Proof.Machine.execGateClose k s
  | .cgClkoutWrite v => Sys2Proof.Machine.execCgClkoutWrite v s
  | .courseTick tick => Sys2Proof.Machine.execCourseTick tick s
  | .servoUpdate => Sys2Proof.Machine.execServoUpdate s
  | .acquisitionStep osc => Sys2Proof.Machine.execAcquisitionStep osc s
  | .planEvaluate => Sys2Proof.Machine.execPlanEvaluate s
  | .receiveMark p id e adj => Sys2Proof.Machine.execReceiveMark p id e adj s
  | .transmitMark p e adj => Sys2Proof.Machine.execTransmitMark p e adj s
  | .txInsLate p => Sys2Proof.Machine.execTxInsLate p s
  | .portUpRise p => Sys2Proof.Machine.execPortUpRise p s
  | .portUpFall p => Sys2Proof.Machine.execPortUpFall p s
  | .laneFlap p => Sys2Proof.Machine.execLaneFlap p s
  | .rclkOkFall p => Sys2Proof.Machine.execRclkOkFall p s
  | .portEnable p v => Sys2Proof.Machine.execPortEnable p v s
  | .portDisable p v => Sys2Proof.Machine.execPortDisable p v s
  | .portConstantsWrite p which v => Sys2Proof.Machine.execPortConstantsWrite p which v s
  | .pfStampLoRead m p => Sys2Proof.Machine.execPfStampLoRead m p s
  | .ptpOtherReceive h typ => Sys2Proof.Machine.execPtpOtherReceive h typ s
  | .zudarReservedType h typ => Sys2Proof.Machine.execZudarReservedType h typ s
  | .esmcInfoReceive h ql => Sys2Proof.Machine.execEsmcInfoReceive h ql s
  | .esmcEventReceive h => Sys2Proof.Machine.execEsmcEventReceive h s
  | .esmcInfoSend p => Sys2Proof.Machine.execEsmcInfoSend p s
  | .syncSend p => Sys2Proof.Machine.execSyncSend p s
  | .syncReceive h origin => Sys2Proof.Machine.execSyncReceive h origin s
  | .delayReqSend p => Sys2Proof.Machine.execDelayReqSend p s
  | .delayReqReceive h => Sys2Proof.Machine.execDelayReqReceive h s
  | .delayRespSend p => Sys2Proof.Machine.execDelayRespSend p s
  | .delayRespReceive h receive reqClock reqPort => Sys2Proof.Machine.execDelayRespReceive h receive reqClock reqPort s
  | .announceSend p => Sys2Proof.Machine.execAnnounceSend p s
  | .announceReceive h b => Sys2Proof.Machine.execAnnounceReceive h b s
  | .helloSend p => Sys2Proof.Machine.execHelloSend p s
  | .helloReceive h b => Sys2Proof.Machine.execHelloReceive h b s
  | .keepaliveSend p => Sys2Proof.Machine.execKeepaliveSend p s
  | .keepaliveReceive h tx status te => Sys2Proof.Machine.execKeepaliveReceive h tx status te s
  | .keepaliveLoss p => Sys2Proof.Machine.execKeepaliveLoss p s
  | .ackReceive h => Sys2Proof.Machine.execAckReceive h s
  | .nakReceive h => Sys2Proof.Machine.execNakReceive h s
  | .ackSend p => Sys2Proof.Machine.execAckSend p s
  | .replayTimeout p => Sys2Proof.Machine.execReplayTimeout p s
  | .calFrameReceive h tx => Sys2Proof.Machine.execCalFrameReceive h tx s
  | .switchPlanReceive h id target sw => Sys2Proof.Machine.execSwitchPlanReceive h id target sw s
  | .switchCancelReceive h id => Sys2Proof.Machine.execSwitchCancelReceive h id s
  | .launchReceive h b => Sys2Proof.Machine.execLaunchReceive h b s
  | .candidateQualifyTimer n => Sys2Proof.Machine.execCandidateQualifyTimer n s
  | .wtrExpiry d => Sys2Proof.Machine.execWtrExpiry d s
  | .ppsEdge n e before => Sys2Proof.Machine.execPpsEdge n e before s
  | .ppsLoss n => Sys2Proof.Machine.execPpsLoss n s
  | .loopOpenTimeout d => Sys2Proof.Machine.execLoopOpenTimeout d s
  | .ageWindowEnd => Sys2Proof.Machine.execAgeWindowEnd s
  | .rsCandnCfgWrite n v => Sys2Proof.Machine.execRsCandnCfgWrite n v s
  | .rsCandnDelayWrite n v => Sys2Proof.Machine.execRsCandnDelayWrite n v s
  | .battenEnable => Sys2Proof.Machine.execBattenEnable s
  | .battenDisable => Sys2Proof.Machine.execBattenDisable s
  | .battenRecal => Sys2Proof.Machine.execBattenRecal s
  | .battenCalDone rs => Sys2Proof.Machine.execBattenCalDone rs s
  | .crossingRecalibration r => Sys2Proof.Machine.execCrossingRecalibration r s
  | .mark n edges r => Sys2Proof.Machine.execMark n edges r s
  | .markStep n edges r => Sys2Proof.Machine.execMarkStep n edges r s
  | .stretchIndication n edges => Sys2Proof.Machine.execStretchIndication n edges s
  | .fillWord n edges => Sys2Proof.Machine.execFillWord n edges s
  | .crossingWordBad n edges k => Sys2Proof.Machine.execCrossingWordBad n edges k s
  | .marginWarning n mismatches => Sys2Proof.Machine.execMarginWarning n mismatches s
  | .armWord n edges => Sys2Proof.Machine.execArmWord n edges s
  | .cancelWord n edges => Sys2Proof.Machine.execCancelWord n edges s
  | .nswReqRise n edges => Sys2Proof.Machine.execNswReqRise n edges s
  | .launchFire n edges => Sys2Proof.Machine.execLaunchFire n edges s
  | .launchLineFall n edges => Sys2Proof.Machine.execLaunchLineFall n edges s
  | .launchReport n edges => Sys2Proof.Machine.execLaunchReport n edges s
  | .releaseWord => Sys2Proof.Machine.execReleaseWord s
  | .reportWord => Sys2Proof.Machine.execReportWord s
  | .reportMissing => Sys2Proof.Machine.execReportMissing s
  | .converterCalReady inl failed => Sys2Proof.Machine.execConverterCalReady inl failed s
  | .padMeasurement vals => Sys2Proof.Machine.execPadMeasurement vals s
  | .padRecal => Sys2Proof.Machine.execPadRecal s
  | .rampCalibration inl failed => Sys2Proof.Machine.execRampCalibration inl failed s
  | .pinEdge pin falling e => Sys2Proof.Machine.execPinEdge pin falling e s
  | .timedStart => Sys2Proof.Machine.execTimedStart s
  | .shotWindowClose cyc => Sys2Proof.Machine.execShotWindowClose cyc s
  | .imArm => Sys2Proof.Machine.execImArm s
  | .imAbort => Sys2Proof.Machine.execImAbort s
  | .imGo => Sys2Proof.Machine.execImGo s
  | .imModeWrite on => Sys2Proof.Machine.execImModeWrite on s
  | .imSkCountRead m k => Sys2Proof.Machine.execImSkCountRead m k s
  | .imRawLoRead m => Sys2Proof.Machine.execImRawLoRead m s
  | .zcDllLock => Sys2Proof.Machine.execZcDllLock s
  | .zcStart => Sys2Proof.Machine.execZcStart s
  | .zcClr => Sys2Proof.Machine.execZcClr s
  | .zcTimeout cyc => Sys2Proof.Machine.execZcTimeout cyc s
  | .portCalibrateDone => Sys2Proof.Machine.execPortCalibrateDone s
  | .programStoreWrite idx w => Sys2Proof.Machine.execProgramStoreWrite idx w s
  | .programStart => Sys2Proof.Machine.execProgramStart s
  | .programStop => Sys2Proof.Machine.execProgramStop s
  | .eventStart => Sys2Proof.Machine.execEventStart s
  | .eventStop => Sys2Proof.Machine.execEventStop s
  | .nop f => Sys2Proof.Machine.execNop f s
  | .halt f => Sys2Proof.Machine.execHalt f s
  | .jmp f => Sys2Proof.Machine.execJmp f s
  | .br f => Sys2Proof.Machine.execBr f s
  | .bri f => Sys2Proof.Machine.execBri f s
  | .stepend f => Sys2Proof.Machine.execStepend f s
  | .waitc f => Sys2Proof.Machine.execWaitc f s
  | .li f => Sys2Proof.Machine.execLi f s
  | .lih f => Sys2Proof.Machine.execLih f s
  | .mov f => Sys2Proof.Machine.execMov f s
  | .add f => Sys2Proof.Machine.execAdd f s
  | .sub f => Sys2Proof.Machine.execSub f s
  | .and f => Sys2Proof.Machine.execAnd f s
  | .or f => Sys2Proof.Machine.execOr f s
  | .xor f => Sys2Proof.Machine.execXor f s
  | .addi f => Sys2Proof.Machine.execAddi f s
  | .shl f => Sys2Proof.Machine.execShl f s
  | .shr f => Sys2Proof.Machine.execShr f s
  | .sar f => Sys2Proof.Machine.execSar f s
  | .mul f => Sys2Proof.Machine.execMul f s
  | .minu f => Sys2Proof.Machine.execMinu f s
  | .maxu f => Sys2Proof.Machine.execMaxu f s
  | .rdstep f => Sys2Proof.Machine.execRdstep f s
  | .rdcrs f => Sys2Proof.Machine.execRdcrs f s
  | .rdte f => Sys2Proof.Machine.execRdte f s
  | .rdlr f => Sys2Proof.Machine.execRdlr f s
  | .lcfg f => Sys2Proof.Machine.execLcfg f s
  | .arm f => Sys2Proof.Machine.execArm f s
  | .armm f => Sys2Proof.Machine.execArmm f s
  | .cancel f => Sys2Proof.Machine.execCancel f s
  | .pulse f => Sys2Proof.Machine.execPulse f s
  | .frz f => Sys2Proof.Machine.execFrz f s
  | .contrib f => Sys2Proof.Machine.execContrib f s
  | .waitr f => Sys2Proof.Machine.execWaitr f s
  | .result f => Sys2Proof.Machine.execResult f s
  | .deadl f => Sys2Proof.Machine.execDeadl f s
  | .objop f => Sys2Proof.Machine.execObjop f s
  | .pulseEmit out fb => Sys2Proof.Machine.execPulseEmit out fb s
  | .pulseOutputEnable out => Sys2Proof.Machine.execPulseOutputEnable out s
  | .pulseCalDone out => Sys2Proof.Machine.execPulseCalDone out s
  | .periodicModeSet out => Sys2Proof.Machine.execPeriodicModeSet out s
  | .freezeEmit => Sys2Proof.Machine.execFreezeEmit s
  | .peek r => Sys2Proof.Machine.execPeek r s
  | .read r => Sys2Proof.Machine.execRead r s
  | .fill r => Sys2Proof.Machine.execFill r s
  | .signal r => Sys2Proof.Machine.execSignal r s
  | .waitge r => Sys2Proof.Machine.execWaitge r s
  | .dec r => Sys2Proof.Machine.execDec r s
  | .wdec r => Sys2Proof.Machine.execWdec r s
  | .realign r => Sys2Proof.Machine.execRealign r s
  | .arrive r => Sys2Proof.Machine.execArrive r s
  | .set r => Sys2Proof.Machine.execSet r s
  | .wack tap tag => Sys2Proof.Machine.execWack tap tag s
  | .fenceTimeout => Sys2Proof.Machine.execFenceTimeout s
  | .objectDeadline => Sys2Proof.Machine.execObjectDeadline s
  | .translationReadDone id bytes bad => Sys2Proof.Machine.execTranslationReadDone id bytes bad s
  | .objReqReceive h m => Sys2Proof.Machine.execObjReqReceive h m s
  | .objRspReceive h m => Sys2Proof.Machine.execObjRspReceive h m s
  | .remoteTimeout => Sys2Proof.Machine.execRemoteTimeout s
  | .lend => Sys2Proof.Machine.execLend s
  | .lendReturn => Sys2Proof.Machine.execLendReturn s
  | .retAck id => Sys2Proof.Machine.execRetAck id s
  | .deadlockDetect => Sys2Proof.Machine.execDeadlockDetect s
  | .odWindowRead m off => Sys2Proof.Machine.execOdWindowRead m off s
  | .collUpReceive h m => Sys2Proof.Machine.execCollUpReceive h m s
  | .collDownReceive h m => Sys2Proof.Machine.execCollDownReceive h m s
  | .collMoveReceive h m => Sys2Proof.Machine.execCollMoveReceive h m s
  | .collAbortReceive h m => Sys2Proof.Machine.execCollAbortReceive h m s
  | .collReqReceive h q => Sys2Proof.Machine.execCollReqReceive h q s
  | .gangContribution pos m => Sys2Proof.Machine.execGangContribution pos m s
  | .orphanCounterFree => Sys2Proof.Machine.execOrphanCounterFree s
  | .moveTimeout => Sys2Proof.Machine.execMoveTimeout s
  | .isolated => Sys2Proof.Machine.execIsolated s
  | .collectiveDeadline => Sys2Proof.Machine.execCollectiveDeadline s
  | .egressHandover p cyc => Sys2Proof.Machine.execEgressHandover p cyc s
  | .tpDebtClr v => Sys2Proof.Machine.execTpDebtClr v s
  | .profileWrite off v => Sys2Proof.Machine.execProfileWrite off v s
  | .scoreDecay => Sys2Proof.Machine.execScoreDecay s
  | .budgetRecordExpiry => Sys2Proof.Machine.execBudgetRecordExpiry s
  | .admissionComplete p => Sys2Proof.Machine.execAdmissionComplete p s
  | .internalParityFailure f => Sys2Proof.Machine.execInternalParityFailure f s
  | .hfWdogKick m v => Sys2Proof.Machine.execHfWdogKick m v s
  | .watchdogExpiry => Sys2Proof.Machine.execWatchdogExpiry s
  | .firmwareTrap => Sys2Proof.Machine.execFirmwareTrap s
  | .underlayEntry => Sys2Proof.Machine.execUnderlayEntry s
  | .hfUlEnter => Sys2Proof.Machine.execHfUlEnter s
  | .hfUlExit => Sys2Proof.Machine.execHfUlExit s
  | .underlayExit => Sys2Proof.Machine.execUnderlayExit s
  | .powerEntryAttempt member => Sys2Proof.Machine.execPowerEntryAttempt member s
  | .napWake src arg => Sys2Proof.Machine.execNapWake src arg s
  | .napPlannedWake => Sys2Proof.Machine.execNapPlannedWake s
  | .thatchWake src arg => Sys2Proof.Machine.execThatchWake src arg s
  | .thatchTimerWake => Sys2Proof.Machine.execThatchTimerWake s
  | .pwWake => Sys2Proof.Machine.execPwWake s
  | .timeRebuild k cw temp tempOk => Sys2Proof.Machine.execTimeRebuild k cw temp tempOk s
  | .commandHandover slot header => Sys2Proof.Machine.execCommandHandover slot header s
  | .commandCompletion => Sys2Proof.Machine.execCommandCompletion s
  | .irqCoalesceTimeout => Sys2Proof.Machine.execIrqCoalesceTimeout s
  | .badOpcode => Sys2Proof.Machine.execBadOpcode s
  | .genIdentify => Sys2Proof.Machine.execGenIdentify s
  | .genStatus => Sys2Proof.Machine.execGenStatus s
  | .topologyLoad => Sys2Proof.Machine.execTopologyLoad s
  | .genReset => Sys2Proof.Machine.execGenReset s
  | .fwLoad => Sys2Proof.Machine.execFwLoad s
  | .fwStart => Sys2Proof.Machine.execFwStart s
  | .timeAcquire => Sys2Proof.Machine.execTimeAcquire s
  | .timeRestep => Sys2Proof.Machine.execTimeRestep s
  | .timeSlewLimit => Sys2Proof.Machine.execTimeSlewLimit s
  | .timeDomainSelect => Sys2Proof.Machine.execTimeDomainSelect s
  | .timeSwitchAt => Sys2Proof.Machine.execTimeSwitchAt s
  | .timeHoldoverForce => Sys2Proof.Machine.execTimeHoldoverForce s
  | .timeEpochSet => Sys2Proof.Machine.execTimeEpochSet s
  | .refConfigure => Sys2Proof.Machine.execRefConfigure s
  | .refPriority => Sys2Proof.Machine.execRefPriority s
  | .refLoopOpen => Sys2Proof.Machine.execRefLoopOpen s
  | .refLoopClose => Sys2Proof.Machine.execRefLoopClose s
  | .refCorrect => Sys2Proof.Machine.execRefCorrect s
  | .intervalArm => Sys2Proof.Machine.execIntervalArm s
  | .intervalAbort => Sys2Proof.Machine.execIntervalAbort s
  | .seqLoad => Sys2Proof.Machine.execSeqLoad s
  | .seqStart => Sys2Proof.Machine.execSeqStart s
  | .seqStop => Sys2Proof.Machine.execSeqStop s
  | .seqArm => Sys2Proof.Machine.execSeqArm s
  | .seqCancel => Sys2Proof.Machine.execSeqCancel s
  | .objCtxDefine => Sys2Proof.Machine.execObjCtxDefine s
  | .objInit => Sys2Proof.Machine.execObjInit s
  | .objCtxClear => Sys2Proof.Machine.execObjCtxClear s
  | .objCtxRelease => Sys2Proof.Machine.execObjCtxRelease s
  | .objWake => Sys2Proof.Machine.execObjWake s
  | .objOp => Sys2Proof.Machine.execObjOp s
  | .collDefine => Sys2Proof.Machine.execCollDefine s
  | .collRelease => Sys2Proof.Machine.execCollRelease s
  | .collAbort => Sys2Proof.Machine.execCollAbort s
  | .portCalibrate => Sys2Proof.Machine.execPortCalibrate s
  | .portRetire => Sys2Proof.Machine.execPortRetire s
  | .portRestore => Sys2Proof.Machine.execPortRestore s
  | .portSpareAdmit => Sys2Proof.Machine.execPortSpareAdmit s
  | .powerEnter => Sys2Proof.Machine.execPowerEnter s
  | .pulseArm => Sys2Proof.Machine.execPulseArm s
  | .pulseCancel => Sys2Proof.Machine.execPulseCancel s
  | .clockClkout => Sys2Proof.Machine.execClockClkout s
  | .cpHostHb => Sys2Proof.Machine.execCpHostHb s
  | .hostHeartbeatTimeout => Sys2Proof.Machine.execHostHeartbeatTimeout s
  | .ringEnable v => Sys2Proof.Machine.execRingEnable v s
  | .cpOwnWrite m v => Sys2Proof.Machine.execCpOwnWrite m v s
  | .sbMctpControl cmd data => Sys2Proof.Machine.execSbMctpControl cmd data s
  | .sbCommandRequest words => Sys2Proof.Machine.execSbCommandRequest words s
  | .sbRegisterRead off width => Sys2Proof.Machine.execSbRegisterRead off width s
  | .sbRegisterWrite off width value => Sys2Proof.Machine.execSbRegisterWrite off width value s
  | .sbPacketBad pec => Sys2Proof.Machine.execSbPacketBad pec s
  | .hostRequest a parityOk => Sys2Proof.Machine.execHostRequest a parityOk s
  | .hostPortReset => Sys2Proof.Machine.execHostPortReset s
  | .hostPortResetRelease => Sys2Proof.Machine.execHostPortResetRelease s
  | .memoryReadResponse id bytes bad => Sys2Proof.Machine.execMemoryReadResponse id bytes bad s
  | .memoryWriteAck id err => Sys2Proof.Machine.execMemoryWriteAck id err s
  | .memoryTimeout => Sys2Proof.Machine.execMemoryTimeout s
  | .gangCalTimeout pos => Sys2Proof.Machine.execGangCalTimeout pos s
  | .gangLinkFail lost => Sys2Proof.Machine.execGangLinkFail lost s
  | .gcIrqSet v => Sys2Proof.Machine.execGcIrqSet v s
  | .pfCntClr p => Sys2Proof.Machine.execPfCntClr p s
  | .tdCntClr => Sys2Proof.Machine.execTdCntClr s
  | .rsCntClr => Sys2Proof.Machine.execRsCntClr s
  | .cgCntClr => Sys2Proof.Machine.execCgCntClr s
  | .btCntClr => Sys2Proof.Machine.execBtCntClr s
  | .imCntClr => Sys2Proof.Machine.execImCntClr s
  | .sqCntClr => Sys2Proof.Machine.execSqCntClr s
  | .odCntClr => Sys2Proof.Machine.execOdCntClr s
  | .ceCntClr => Sys2Proof.Machine.execCeCntClr s
  | .tpCntClr => Sys2Proof.Machine.execTpCntClr s
  | .hfCntClr => Sys2Proof.Machine.execHfCntClr s
  | .pwCntClr => Sys2Proof.Machine.execPwCntClr s
  | .cpCntClr => Sys2Proof.Machine.execCpCntClr s
  | .gcCntClr => Sys2Proof.Machine.execGcCntClr s
  | .tdNowNsRead m => Sys2Proof.Machine.execTdNowNsRead m s
  | .registerWrite m off width value => Sys2Proof.Machine.execRegisterWrite m off width value s
  | .gangLinkCalibrationDone latency => Sys2Proof.Machine.execGangLinkCalibrationDone latency s
  | .rxfFcsErr h parity => Sys2Proof.Machine.execRxfFcsErr h parity s

end Sys2Proof.Machine
end

