-- ==== Sys2Proof/Machine/Wire.lean ====
section
/-! DEFINITION. Sys2Proof/Machine/Wire.lean: what the structured frames of the model are on the wire: the bytes of a sent
frame in network order with its EtherType and header, the words of txf with their parity, txf_ins, tx_ins_val and
tx_ins_par, and the header fields that the bytes of a received frame give (R6, R14, R36, R70, R72, R73, R96, R101, R104 to
R108, R277, R295, R297, R298) (log entry 63). -/
namespace Sys2Proof.Machine
open Sys2Proof.Config

/-! ### Network order (R6) -/

/-- The low bytes of a number, most significant first. -/
def beBytes (n v : Nat) : List Nat := (leBytes n v).reverse

/-- The number that big-endian bytes hold. -/
def ofBe (l : List Nat) : Nat := ofLe l.reverse

/-- A signed number in two's complement, most significant byte first. -/
def beInt (n : Nat) (i : Int) : List Nat := beBytes n (ofSigned (8 * n) i)

/-- A field of received bytes. -/
def beAt (l : List Nat) (off n : Nat) : Nat := ofBe ((l.drop off).take n)

/-- Bytes that the spec does not state. -/
def openBytes (kind off n : Nat) : List Nat := (List.range n).map fun i => (wireByte kind (off + i)).toNat

/-- The first 10 bytes of the wire form of a time, which are a 1588 Timestamp: seconds, then nanoseconds (R36). -/
def stampBytes (t : Int) : List Nat := beBytes 6 (linNs t / 1000000000) ++ beBytes 4 (linNs t % 1000000000)

/-- The wire form of a time, 12 bytes (R36). -/
def timeBytes (t : Int) : List Nat := stampBytes t ++ beBytes 2 (fracOf t)

/-! ### Payloads -/

/-- One lane of 40 bytes: A, big-endian (R297). -/
def Lane.bytes (l : Lane) : List Nat := beInt 40 l.a

/-- The flags of a lane in SPECIAL (R297). -/
def Lane.flags (l : Lane) : Nat := bnat l.nan + 2 * bnat l.pinf + 4 * bnat l.ninf + 8 * bnat l.z

/-- SPECIAL: four flags per lane (R297). -/
def special : List Lane → Nat
  | [] => 0
  | l :: r => l.flags + 16 * special r

/-- The lane of a vote (R295). -/
def Ballot.bytes (b : Ballot) : List Nat := beBytes 4 b.step ++ beBytes 8 b.digest ++ beBytes 4 b.count ++ List.replicate 24 0

/-- Bytes 38 to 49 of COLL_UP and COLL_DOWN (R297). -/
def CollParams.bytes (c : CollParams) : List Nat :=
  beBytes 4 c.cid ++ beBytes 4 c.isn ++ beBytes 1 c.op ++ beBytes 1 c.fmt ++ beBytes 1 c.rfmt ++ beBytes 1 (c.lanes % 32)

/-- KIND of COLL_UP (R297). -/
def UpData.kind : UpData → Nat
  | .partial_ _ => 0
  | .vote _ => 0
  | .report _ _ => 1
  | .matched _ => 2

/-- SPECIAL and the lanes or results of COLL_UP, from byte 62 on (R297). -/
def UpData.bytes : UpData → List Nat
  | .partial_ ls => beBytes 8 (special ls) ++ (ls.map Lane.bytes).flatten
  | .vote b => beBytes 8 0 ++ b.bytes
  | .report st rs => beBytes 8 0 ++ beBytes 1 st ++ [0] ++ (rs.map (beBytes 8)).flatten
  | .matched b => beBytes 8 0 ++ b.bytes

/-- The payload of COLL_UP (R297). -/
def CollUp.bytes (m : CollUp) : List Nat :=
  m.par.bytes ++ beBytes 1 (m.attempt % 4 + 4 * m.data.kind) ++ beBytes 1 (bnat m.par.sat) ++ beBytes 2 (m.par.group % 4096) ++
    beBytes 4 m.count ++ beBytes 4 m.step ++ m.data.bytes

/-- The payload of COLL_DOWN (R297). -/
def CollDown.bytes (m : CollDown) : List Nat :=
  m.par.bytes ++ beBytes 1 (m.attempt % 4 + 4 * (m.phase % 4)) ++ beBytes 1 m.status ++ beBytes 2 (m.par.group % 4096) ++
    beBytes 4 m.count ++ beBytes 4 m.step ++ beBytes 4 m.doneCourse ++ beBytes 4 0 ++ (m.results.map (beBytes 8)).flatten

/-- The request that a decision answers, bytes 48 to 57 (R298). -/
def Origin.bytes (o : Origin) : List Nat := beBytes 3 o.id ++ [0] ++ beBytes 2 (o.port % 4096) ++ beBytes 4 o.onset

/-- The payload of COLL_REQ (R298). -/
def CollReq.bytes (q : CollReq) : List Nat :=
  beBytes 1 q.rtype ++ beBytes 1 q.reason ++ beBytes 1 q.dom.num ++ beBytes 1 (q.attempt % 4) ++ beBytes 4 q.cid ++
    beBytes 4 q.isn ++ beBytes 2 (q.port % 4096) ++ beBytes 3 (q.lo % 2 ^ 20) ++ beBytes 3 (q.hi % 2 ^ 20) ++
    beBytes 3 q.originId ++ [0] ++ beBytes 4 q.onset

/-- A Timestamp or a stamp field before its insertion (R72). -/
def blank (off n : Nat) : List Nat := openBytes 1 off n

/-- The currentUtcOffset, priorities, grandmasterClockQuality, grandmasterIdentity, stepsRemoved and timeSource of Announce, from
byte 58 on (R100, R159). -/
def AnnounceBody.bytes (b : AnnounceBody) : List Nat :=
  beBytes 2 b.utcOffset ++ openBytes 2 60 2 ++ beBytes 1 b.clockClass ++ beBytes 1 b.accuracy ++ beBytes 2 b.variance ++
    openBytes 2 66 1 ++ beBytes 8 b.gmId ++ beBytes 2 b.stepsRemoved ++ beBytes 1 b.timeSource

/-- The bytes of a frame after its header: from byte 38 of a Zudar frame, from byte 48 of a 1588 frame. -/
def Body.payload : Body → List Nat
  | .sync _ => blank 48 10
  | .delayReq _ => blank 48 10
  | .delayResp _ t4 clock port => stampBytes t4 ++ beBytes 8 clock ++ beBytes 2 port
  | .announce b => openBytes 2 48 10 ++ b.bytes
  | .esmcInfo ql => openBytes (16 + ql % 16) 14 46
  | .esmcEvent ql => openBytes (32 + ql % 16) 14 46
  | .hello b =>
    beBytes 1 b.role ++ beBytes 1 b.home ++ beBytes 2 (b.port % 4096) ++ beBytes 1 b.prole ++ beBytes 1 b.gang ++
      beBytes 2 b.rev ++ [0, 0]
  | .keepalive status te => blank 38 12 ++ beBytes 1 status ++ [0] ++ beBytes 4 te
  | .ack => []
  | .nak _ => []
  | .cal shot => blank 38 12 ++ beBytes 4 shot
  | .switchPlan id target course => beBytes 4 id ++ beBytes 1 target.num ++ [0] ++ beBytes 4 course
  | .switchCancel id => beBytes 4 id
  | .launch b =>
    beBytes 4 b.id ++ beBytes 1 b.kind ++ [0] ++ beBytes 6 b.target.sec ++ beBytes 4 b.target.ns ++ beBytes 2 b.target.frac ++
      beBytes 8 b.arg
  | .objReq m =>
    beBytes 3 (m.dst % 2 ^ 20) ++ beBytes 1 m.op ++ [0] ++ beBytes 1 m.ctx ++ beBytes 2 m.loc ++ beBytes 2 m.rtag ++
      beBytes 4 m.operand
  | .objRsp m => beBytes 3 (m.dst % 2 ^ 20) ++ beBytes 1 m.result ++ beBytes 2 m.rtag ++ beBytes 4 m.value
  | .collUp m => m.bytes
  | .collDown m => m.bytes
  | .collMove m =>
    beBytes 4 m.cid ++ beBytes 4 m.isn ++ beBytes 1 m.attempt ++ beBytes 1 m.dom.num ++ m.origin.bytes
  | .collAbort m =>
    beBytes 4 m.cid ++ beBytes 4 m.isn ++ beBytes 1 m.attempt ++ beBytes 1 m.reason ++ m.origin.bytes
  | .collReq q => q.bytes

/-! ### Headers -/

/-- The header of a Zudar frame, bytes 14 to 37 (R101). -/
def SentHead.zudarBytes (h : SentHead) : List Nat :=
  [2] ++ beBytes 1 h.typ ++ beBytes 1 (128 * h.dom.num + 64 * bnat h.rpl) ++ [0] ++ beBytes 2 h.len ++ beBytes 1 h.lseq ++
    beBytes 1 h.lack ++ beBytes 2 h.seq ++ beBytes 3 h.srcId ++ [0] ++ beBytes 2 (h.srcPort % 4096) ++ beBytes 4 h.course ++
    [0, 0, 0, 0]

/-- flagField: ptpTimescale, and in Announce the UTC flags (R96). -/
def Body.ptpFlags : Body → Nat
  | .announce b => 8 + 4 * bnat b.utcValid + 2 * bnat b.li59 + bnat b.li61
  | _ => 8

/-- correctionField as the frame is handed over: minus the fraction of t4 in Delay_Resp, otherwise 0 (R96). -/
def Body.ptpCorrection : Body → Int
  | .delayResp _ t4 _ _ => - (fracOf t4 : Int)
  | _ => 0

/-- controlField and logMessageInterval (R96). -/
def Body.ptpTail : Body → List Nat
  | .sync _ => [0, 0xF6]
  | .delayReq _ => [1, 0x7F]
  | .delayResp _ _ _ _ => [3, 0xF6]
  | _ => [5, 0xFA]

/-- The common header of an IEEE 1588 frame, bytes 14 to 47 (R96). -/
def SentHead.ptpBytes (h : SentHead) (b : Body) : List Nat :=
  beBytes 1 (h.typ % 16) ++ [0x12] ++ beBytes 2 h.len ++ beBytes 1 h.domNum ++ [0] ++ beBytes 2 b.ptpFlags ++
    beInt 8 b.ptpCorrection ++ [0, 0, 0, 0] ++ beBytes 8 h.clockId ++ beBytes 2 h.clockPort ++ beBytes 2 h.seq ++ b.ptpTail

/-- The EtherType of the block's own protocol (R14). -/
def etherZudar : Nat := 0x88B5
/-- The EtherType of IEEE 1588 over Ethernet (R62). -/
def etherPtp : Nat := 0x88F7

/-- An ESMC frame. -/
def Body.esmc : Body → Bool
  | .esmcInfo _ => true
  | .esmcEvent _ => true
  | _ => false

/-- The Ethernet header, untagged: addresses and EtherType, of which the destination address of a 1588 frame is
01-80-C2-00-00-0E (R14, R62, R63, R96). -/
def Body.ethernet (b : Body) : List Nat :=
  if b.zudar then openBytes 0 0 12 ++ beBytes 2 etherZudar
  else if b.esmc then openBytes 3 0 14
  else [0x01, 0x80, 0xC2, 0x00, 0x00, 0x0E] ++ openBytes 0 6 6 ++ beBytes 2 etherPtp

/-- The frame on txf, from the first byte of the destination address to the last byte before the frame check sequence, padded with
zeros (R101). -/
def wireFrame (h : SentHead) (b : Body) : List Nat :=
  let head := if b.zudar then h.zudarBytes else if b.esmc then [] else h.ptpBytes b
  let l := b.ethernet ++ head ++ b.payload
  l ++ List.replicate (60 - l.length) 0

/-! ### The words of txf (R70) -/

/-- One word of a frame on txf. -/
structure TxWord where
  data : Nat
  par : Nat
  sof : Bool
  eof : Bool
  bytes : Nat
  deriving DecidableEq, Repr

/-- Word `i` of a frame: 64 bytes, byte 0 in bits [7:0]. -/
def txWord (l : List Nat) (i : Nat) : TxWord :=
  let w := (l.drop (64 * i)).take 64
  let eof := decide (l.length ≤ 64 * (i + 1))
  { data := ofLe w, par := parityWords 16 (ofLe w), sof := decide (i = 0), eof := eof, bytes := if eof then w.length % 64 else 0 }

/-- The words of a frame. -/
def txWords (l : List Nat) : List TxWord := (List.range ((l.length + 63) / 64)).map (txWord l)

/-! ### Insertion (R72, R73) -/

/-- Offset and length of the two fields to be inserted, of length 0 where there is none (R72). -/
def Body.insFields : Body → (Nat × Nat) × (Nat × Nat)
  | .sync _ => ((48, 10), (22, 8))
  | .delayReq _ => ((48, 10), (0, 0))
  | .keepalive _ _ => ((38, 12), (0, 0))
  | .cal _ => ((38, 12), (0, 0))
  | _ => ((0, 0), (0, 0))

/-- txf_ins (R70). -/
def Body.txfIns (b : Body) : Nat :=
  let f := b.insFields
  f.2.1 * 2 ^ 20 + f.2.2 * 2 ^ 15 + f.1.1 * 2 ^ 5 + f.1.2

/-- tx_ins_val of a stamped frame of a type, from its transmit time: field 0 in bytes 0 to 11, field 1 in bytes 12 to 23, and zero
where no field lies (R70, R72). -/
def insBytes (typ : Nat) (t : Int) : List Nat :=
  if typ = 0x0 then stampBytes t ++ [0, 0] ++ beBytes 8 (fracOf t) ++ [0, 0, 0, 0]
  else if typ = 0x1 then stampBytes t ++ List.replicate 14 0
  else timeBytes t ++ List.replicate 12 0

/-- tx_ins_par (R70). -/
def insParity (typ : Nat) (t : Int) : Nat := parityWords 6 (ofLe (insBytes typ t))

/-- What stands on txf for a frame that is driven: its words, and txf_ins with the first. -/
def Output.txf : Output → Option (List TxWord × Nat)
  | .frame _ h b _ => some (txWords (wireFrame h b), b.txfIns)
  | _ => none

/-- What stands on tx_ins_val and tx_ins_par. -/
def Output.txIns : Output → Option (List Nat × Nat)
  | .insertion _ typ t => some (insBytes typ t, insParity typ t)
  | _ => none

/-! ### Received frames -/

/-- A received Zudar frame's header fields, from its delivery and its bytes (R101, R102). -/
def RxHead.ofBytes (r : RxBase) (l : List Nat) : RxHead :=
  { r with
    ver := beAt l 14 1, len := beAt l 18 2, pastFcs := decide (l.length < 14 + beAt l 18 2)
    dom := if bitOf (beAt l 16 1) 7 then .b else .a, rpl := bitOf (beAt l 16 1) 6, lseq := beAt l 20 1, lack := beAt l 21 1
    seq := beAt l 22 2, srcId := beAt l 24 3, srcPort := beAt l 28 2 % 4096, course := beAt l 30 4 }

/-- A received 1588 frame's header fields, from its delivery and its bytes (R96). -/
def PtpHead.ofBytes (r : RxBase) (l : List Nat) : PtpHead :=
  { r with
    sdo := beAt l 14 1 / 16, ver := beAt l 15 1 % 16, len := beAt l 16 2, domNum := beAt l 18 1
    twoStep := bitOf (beAt l 20 1) 1, corr := toSigned 64 (beAt l 22 8), srcClock := beAt l 34 8, srcPort := beAt l 42 2
    seq := beAt l 44 2 }

/-- A time field in the wire form (R36). -/
def WireTime.ofBytes (l : List Nat) (off : Nat) : WireTime :=
  { sec := beAt l off 6, ns := beAt l (off + 6) 4, frac := beAt l (off + 10) 2 }

end Sys2Proof.Machine
end

