-- ==== Sys2Proof/Machine/Step.lean ====
section
/-! DEFINITION. Sys2Proof/Machine/Step.lean: the step of the block: the command at the front of the queue. -/
namespace Sys2Proof.Machine

/-- The state with one command taken from the front of its queue (log entry 2). -/
def State.withRest (s : State) (rest : List Instr) : State := { s with pending := rest }

/-- Take the command at the front of the queue and run it with the rest of the queue.  On an empty queue the block idles
(log entry 2). -/
def step (s : State) : Host.Outcome State Fault Refusal :=
  match s.pending with
  | [] => .next s
  | c :: rest => exec c (s.withRest rest)

/-- The state with the command that a word spells at the front of its queue; unchanged where the word spells none
(log entry 14). -/
def State.withFetchWord (s : State) (nbits w : Nat) : State :=
  match Sys2Proof.decodeTableWord nbits w with
  | some c => { s with pending := c :: s.pending }
  | none => s

end Sys2Proof.Machine
end

