-- ==== Sys2Proof/Safety.lean ====
section
/-! DEFINITION. Sys2Proof/Safety.lean: the notions in which the statements speak of states: the main logic in service,
what an invalid strap code allows, and the canonical form of the tables. -/
namespace Sys2Proof.Machine
open Sys2Proof.Config

/-- The time counter runs and the block is Active: commands are served at once (R343, R387). -/
def State.Serving (s : State) : Prop := s.ck.phase = .running ∧ s.pw.st = .active

/-- Beyond the reset of the block stands only a block with a valid strap code; with an invalid one everything outside the
always-on domain stays in reset (R382, R383). -/
def State.StrapHeld (s : State) : Prop :=
  match s.ck.phase with
  | .held => True
  | .roleErr => strapOk s.ties = false
  | _ => strapOk s.ties = true

/-- The tables are in canonical form (counters, registers, ports, object slots, program store, processor memory), and the
timing cycle, the count of steps and the host's credits stay within their ranges (R39, R43, R391). -/
structure Cells (cnt : Map (BitVec 32)) (regs : Map (BitVec 64)) (ports : Map Port) (slots : Map Slot) (store : Map (BitVec 64))
    (mem : Map Nat) (cyc steps credits : Nat) : Prop where
  cnt : cnt.wf 0 = true
  regs : regs.sorted = true
  ports : ports.wf {} = true
  slots : slots.wf {} = true
  store : store.wf 0 = true
  mem : mem.wf 0 = true
  cyc : cyc ≤ 624
  steps : steps ≤ 255
  credits : credits ≤ 16

/-- The canonical form of a state. -/
def State.Canon (s : State) : Prop :=
  Cells s.cnt s.regs s.ports s.od.slots s.sq.store s.cp.mem s.clk.cyc s.td.steps s.cp.credits

/-- The commands that set the course number or the count of boundaries: a reset, the start of the time counter, a course
tick, a step edge, and the rebuild of the time after Thatch (R46, R48, R115, R171, R351, R400). -/
def movesTime : Instr → Bool
  | .porRelease _ _ => true
  | .porAssert => true
  | .pllLock _ _ _ => true
  | .courseTick _ => true
  | .acquisitionStep _ => true
  | .timeRebuild _ _ _ _ => true
  | _ => false

/-- A state without its counters, its outputs, the count of free values drawn, the busy mark of the course and the gates
that are open: what a command leaves when it has no other effect (R175, R345, R391, R396). -/
def State.still (s : State) : State :=
  { s with cnt := [], out := [], free := 0, pw := { s.pw with busy := false }, ck := { s.ck with gates := 0 } }

/-- The parts of a state that the delivery of a frame leaves alone, whatever the frame does to its port, its counters, the
stamp log and the processor memory: the time, the registers, the references, the engines, the tables, and all of the
clock, the health manager and the clock generator but the timing cycle, the watchdog that a wake starts, and the gates. -/
def State.wire (s : State) :=
  (s.td, s.regs, s.rs, s.im, s.bt, s.ev, s.sq, s.od, s.gang, s.ce, s.cp, s.home, s.root,
    s.topo, s.ties, s.did, s.pending, ({ s.clk with cyc := 0 } : CourseClock), ({ s.hf with wdog := none } : HealthMgr), ({ s.ck with gates := 0 } : ClockGen))

/-- The command processor takes a command: the main logic runs, no short command is running, and the slot of `r` holds the
packet that is next; `u` is the state with that slot RUNNING and out of its queue, `r` the record of the command with
its parameter words (R361, R362, R368). -/
structure State.Takes (s u : State) (r : RunCmd) : Prop where
  up : s.up = true
  short : s.shortRuns = false
  next : s.nextSlot = some r.slot
  cmd : r = {
    slot := r.slot, op := hdrOp (s.cmdSlot r.slot).header
    p := (List.range (min 23 (hdrLen (s.cmdSlot r.slot).header))).map fun i => (s.cmdSlot r.slot).params.get 0 (i + 1) }
  state : u = (s.takeSlot r.slot).setCmdSlot r.slot { s.cmdSlot r.slot with st := .running }

/-- The command processor takes a command of an opcode, and none of the general statuses refuses it (R360, R367 to
R372). -/
structure State.Accepts (s u : State) (r : RunCmd) (op : Nat) (c : Cmd) : Prop where
  takes : s.Takes u r
  op : r.op = op
  served : u.cmdRefused c r (s.cmdSlot r.slot).header = none

/-- The rows of the opcode tables with the command that each is (R372). -/
def opcodeRows : List (Instr × Nat × Cmd) :=
  [(.genIdentify, 0x00, cmdGenIdentify), (.genStatus, 0x01, cmdGenStatus), (.topologyLoad, 0x02, cmdTopologyLoad),
   (.genReset, 0x03, cmdGenReset), (.fwLoad, 0x04, cmdFwLoad), (.fwStart, 0x05, cmdFwStart),
   (.timeAcquire, 0x10, cmdTimeAcquire), (.timeRestep, 0x11, cmdTimeRestep), (.timeSlewLimit, 0x12, cmdTimeSlewLimit),
   (.timeDomainSelect, 0x13, cmdTimeDomainSelect), (.timeSwitchAt, 0x14, cmdTimeSwitchAt),
   (.timeHoldoverForce, 0x15, cmdTimeHoldoverForce), (.timeEpochSet, 0x16, cmdTimeEpochSet)] ++
  [(.refConfigure, 0x20, cmdRefConfigure), (.refPriority, 0x21, cmdRefPriority), (.refLoopOpen, 0x22, cmdRefLoopOpen),
   (.refLoopClose, 0x23, cmdRefLoopClose), (.refCorrect, 0x24, cmdRefCorrect), (.intervalArm, 0x30, cmdIntervalArm),
   (.intervalAbort, 0x31, cmdIntervalAbort), (.seqLoad, 0x40, cmdSeqLoad), (.seqStart, 0x41, cmdSeqStart),
   (.seqStop, 0x42, cmdSeqStop), (.seqArm, 0x43, cmdSeqArm), (.seqCancel, 0x44, cmdSeqCancel)] ++
  [(.objCtxDefine, 0x50, cmdObjCtxDefine), (.objInit, 0x51, cmdObjInit), (.objCtxClear, 0x52, cmdObjCtxClear),
   (.objCtxRelease, 0x53, cmdObjCtxRelease), (.objWake, 0x54, cmdObjWake), (.objOp, 0x55, cmdObjOp),
   (.collDefine, 0x60, cmdCollDefine), (.collRelease, 0x61, cmdCollRelease), (.collAbort, 0x62, cmdCollAbort)] ++
  [(.portCalibrate, 0x70, cmdPortCalibrate), (.portRetire, 0x71, cmdPortRetireRow), (.portRestore, 0x72, cmdPortRestoreRow),
   (.portSpareAdmit, 0x73, cmdPortSpareRow), (.powerEnter, 0x80, cmdPowerEnter), (.pulseArm, 0x90, cmdPulseArm),
   (.pulseCancel, 0x91, cmdPulseCancel), (.clockClkout, 0xA0, cmdClockClkout)]

/-- A program runs at an eave, its program counter lies within the program, and the instruction of opcode `op` with fields
`f` raises no fault of R233 or R234; `u` is the state with the gates of the sequencer and of its store open and the course
busy (R175, R177, R229, R345). -/
structure State.Runs (s u : State) (op : Nat) (f : SeqArgs) : Prop where
  up : s.up = true
  eave : s.isEave = true
  running : s.sq.st = .running
  inside : s.sq.pc < s.sq.len
  fits : u.opFault op true f = none
  state : u = (s.busy.openGate 1).openGate 9

/-- Where an executed instruction leaves the program counter: the next instruction, a target, or held on it (R229). -/
def SqOut.after (o : SqOut) : State :=
  match o.res with
  | .next => o.s.retireAt (o.s.sq.pc + 1)
  | .jump a => o.s.retireAt a
  | .wait => o.s.setSq { o.s.sq with wait := true }
  | .gone => o.s.retireAt (o.s.sq.pc + 1)

/-- The rows of the program instructions with their opcodes (R232). -/
def programRows : List ((SeqArgs → Instr) × Nat) :=
  [(.nop, 0x00), (.halt, 0x01), (.jmp, 0x02), (.br, 0x03), (.bri, 0x04), (.stepend, 0x05), (.waitc, 0x06), (.li, 0x10),
   (.lih, 0x11), (.mov, 0x12), (.add, 0x13), (.sub, 0x14), (.and, 0x15), (.or, 0x16), (.xor, 0x17), (.addi, 0x18),
   (.shl, 0x19), (.shr, 0x1A), (.sar, 0x1B), (.mul, 0x1C), (.minu, 0x1D), (.maxu, 0x1E)] ++
  [(.rdstep, 0x20), (.rdcrs, 0x21), (.rdte, 0x22), (.rdlr, 0x23), (.lcfg, 0x30), (.arm, 0x31), (.armm, 0x32),
   (.cancel, 0x33), (.pulse, 0x34), (.frz, 0x35), (.contrib, 0x40), (.waitr, 0x41), (.result, 0x42), (.deadl, 0x43),
   (.objop, 0x50)]

/-- An express frame of the port enters its queue at once (R91, R310, R320, R332, R338). -/
def State.QueueOpen (s : State) (p : Nat) : Prop :=
  s.isUp p = true ∧ s.underlay = false ∧ (s.port p).health ≠ .retired ∧ (s.port p).mismatch = false ∧
    (s.port p).xq.length < 64 ∧ (s.port p).xWait = []

/-- A request of an engine at an enabled, running tap of an eave in service, neither remote nor fenced, that no translation
read holds back; its handle names slot `k`, which holds `v` in the generation of its context (R257, R259, R263, R271). -/
structure State.ObjTo (s : State) (r : EngReq) (k : Nat) (v : Slot) : Prop where
  serving : s.Serving
  tap : s.tapEn r.tap = true ∧ s.tapRuns r.tap = true
  on : s.odOn = true
  here : r.remote = false ∧ r.fence = false
  free : s.tapHeld r.tap = false
  slot : s.translate r.handle = .slot k ∧ v = s.slot k ∧ v.gen = (s.ctx v.ctx).gen

/-- The request of `r` has ended: slot `k` holds `v`, with a result other than DONE in LAST, the response carries `res` and,
where R260 states one, the value; the operation is counted, and no other slot, register, port or time has changed. -/
structure State.ObjEnds (s t : State) (r : EngReq) (k : Nat) (v : Slot) (res : Nat) (val : Option Nat) : Prop where
  slot : t.slot k = if res = 0 then v else { v with last := res }
  others : ∀ j, j ≠ k → t.slot j = s.slot j
  response : r.bar = false → ∃ x, .objRsp r.tap r.rtag res x ∈ t.out ∧ ∀ y, val = some y → x = y
  counted : t.counter OD_CNT_OPS = (s.counter OD_CNT_OPS + 1) % 2 ^ 32
  waiters : t.od.waiters = s.od.waiters
  kept : t.regs = s.regs ∧ t.ports = s.ports ∧ t.clk = s.clk ∧ t.td = s.td ∧ t.sq = s.sq

/-- Of `s` only the object store, its counters and interrupts, the outputs and the count of free values differ in `t`. -/
def State.StoreOnly (s t : State) : Prop :=
  t = { s with od := t.od, cnt := t.cnt, irq := t.irq, out := t.out, free := t.free }

/-- The outcome `o` of an operation stands in slot `k` (with a result other than DONE in LAST), in no other slot; of the store
nothing but slots and contexts differs between `s` and `t`, and outside the store nothing but counters, interrupts and
outputs (R256, R260). -/
structure State.OpApplied (s t : State) (k : Nat) (o : SlotOut) : Prop where
  slot : t.slot k = if o.res = 0 then o.slot else { o.slot with last := o.res }
  others : ∀ j, j ≠ k → t.slot j = s.slot j
  store : t.od = { s.od with slots := t.od.slots, ctxs := t.od.ctxs }
  only : s.StoreOnly t

/-- Slot `k` holds an object in the generation of its context, which nobody waits for, and that the handle `h` names
(R257, R264, R271). -/
def State.Rests (s : State) (h k : Nat) : Prop :=
  s.translate h = .slot k ∧ (s.slot k).gen = (s.ctx (s.slot k).ctx).gen ∧ ∀ w ∈ s.od.waiters, w.slot ≠ k

end Sys2Proof.Machine
end

