-- ==== Sys2Proof/Certificates/Slice0/Obligations.lean ====
section
/-! DEFINITION. Sys2Proof/Certificates/Slice0/Obligations.lean: the statements about the block. -/

section
open Sys2Proof Sys2Proof.Machine Sys2Proof.Config

/-! ### The queue and the whole block -/

/-- A step runs the command at the front of the queue on the block with the rest of the queue; with an empty queue the
block idles (the idling is the model's choice: log entry 2). -/
def Obligations.StepRunsTheFrontCommand : Prop :=
  (∀ (c : Instr) (rest : List Instr) (s : State), s.pending = c :: rest → step s = exec c (s.withRest rest)) ∧
  (∀ s : State, s.pending = [] → step s = .next s)

/-- Commands are taken first in, first out: every step on a waiting command answers a next state, and what is left of the
queue is exactly the rest. -/
def Obligations.EveryCommandLeavesTheRestOfTheQueue : Prop :=
  ∀ (c : Instr) (rest : List Instr) (s : State), s.pending = c :: rest → ∃ t, step s = .next t ∧ t.pending = rest

/-- R1: the strap and the other tie-offs are sampled at the release of por_n, and the strap fixes the role; until the next
fall of por_n no command changes them. -/
def Obligations.TieOffsHeldUntilReset : Prop :=
  (∀ (a : Ties) (g : GangSeen) (s : State), s.ck.phase = .held → ∃ t, exec (.porRelease a g) s = .next t ∧ t.ties = a ∧
    (t.isEave = true ↔ a.strap = 1) ∧ (t.isRidge = true ↔ a.strap = 2)) ∧
  (∀ (c : Instr) (s t : State), (s.ck.phase = .held → ∀ a g, c ≠ .porRelease a g) → c ≠ .porAssert → exec c s = .next t → t.ties = s.ties)

/-- With an invalid strap code the block never leaves reset, and a block beyond reset has a valid one: kept by every
step. -/
def Obligations.StrapHeldByEveryStep : Prop :=
  ∀ s t : State, s.StrapHeld → step s = .next t → t.StrapHeld

/-- The tables stay in canonical form, the timing cycle within a course, the count of steps within 8 bits and the host's
credits within 16: kept by every step. -/
def Obligations.TablesCanonicalAfterEveryStep : Prop :=
  ∀ s t : State, s.Canon → step s = .next t → t.Canon

/-- Both invariants hold at reset: an invalid strap holds the block in reset, and the tables are in canonical form. -/
def Obligations.InvariantsHoldAtReset : Prop := State.reset.StrapHeld ∧ State.reset.Canon

/-- Only a reset, the start of the time counter, a course tick, a step edge and the rebuild after Thatch set the course
number or the count of course boundaries. -/
def Obligations.CourseNumberSetOnlyByTimeCommands : Prop :=
  ∀ (c : Instr) (s t : State), movesTime c = false → exec c s = .next t →
    t.clk.course = s.clk.course ∧ t.clk.ticks = s.clk.ticks

/-- While por_n is low the block takes no command but the release of por_n and its fall: every other leaves the state
as it is. -/
def Obligations.HeldBlockIgnoresCommands : Prop :=
  ∀ (c : Instr) (s : State), s.ck.phase = .held → (∀ a g, c ≠ .porRelease a g) → c ≠ .porAssert → exec c s = .next s

/-- A course tick in service, with no step waiting and no gang leader's time, advances the course number and the count of
boundaries by one. -/
def Obligations.CourseTickAdvancesTheCourse : Prop :=
  ∀ (i : TickIn) (s : State), s.up = true → s.td.stepDue = none → i.lead = none →
    ∃ t, exec (.courseTick i) s = .next t ∧ t.clk.course = s.clk.course + 1 ∧ t.clk.ticks = s.clk.ticks + 1

/-! ### Reset and clocks -/

/-- The release of por_n samples the tie-offs and puts every register and counter at its reset value; with a valid strap code
the oscillator count starts, with an invalid one the main logic stays in reset. -/
def Obligations.ReleaseOfReset : Prop :=
  ∀ (a : Ties) (g : GangSeen) (s : State), s.ck.phase = .held → ∃ t, exec (.porRelease a g) s = .next t ∧
    t.ck.phase = (if strapOk a then .oscCount else .roleErr) ∧ t.ties = a ∧ t.regs = [] ∧ t.cnt = [] ∧
    t.td = State.reset.td ∧ t.rs = State.reset.rs ∧ t.clk = State.reset.clk ∧ t.sq = State.reset.sq ∧ t.od = State.reset.od ∧
    t.ce = State.reset.ce ∧ t.bt = State.reset.bt ∧ t.im = State.reset.im ∧ t.hf = State.reset.hf ∧ t.pw = State.reset.pw ∧
    t.ev = State.reset.ev ∧ t.mm = State.reset.mm ∧ t.topo = false ∧ t.cp.iana = a.sbIana % 2 ^ 32 ∧ t.pending = s.pending

/-- The fall of por_n puts the whole block, the always-on domain included, at reset from any state. -/
def Obligations.FallOfPorResetsEverything : Prop :=
  ∀ s : State, ∃ t, exec .porAssert s = .next t ∧
    { t with pending := [], out := [], free := 0 } = State.reset ∧ t.pending = s.pending

/-- After the release, accepted cycles of the oscillator are counted to 1,048,576, which sets OSC_GOOD, and one that is not
accepted restarts the count; OSC_GOOD enables both PLLs; the lock of the second PLL starts the time counter at course 0; a PLL that
times out is tried once more with its fail bit set, and after a second failure the block stays in reset. -/
def Obligations.StartOfTheClocks : Prop :=
  (∀ s : State, s.ck.phase = .oscCount → s.ck.oscGood = false →
      exec .oscGood s = .next { s with ck := { s.ck with oscGood := true, oscCnt := 1048576, monOk := true, phase := .pllWait } }) ∧
  (∀ (s : State) (mon : Nat), s.ck.oscGood = false → (2 ≤ mon ∧ mon ≤ 6 → s.ck.oscCnt + 1 < 1048576 →
      s.oscCycle mon = { s with ck := { s.ck with oscCnt := s.ck.oscCnt + 1, monOk := true } }) ∧
    (2 ≤ mon ∧ mon ≤ 6 → s.ck.oscCnt + 1 = 1048576 → (s.oscCycle mon).ck.oscGood = true) ∧
    (¬ (2 ≤ mon ∧ mon ≤ 6) → (s.oscCycle mon).ck.oscCnt = 0 ∧ (s.oscCycle mon).ck.oscGood = false)) ∧
  (∀ (s : State) (k : Nat) (oven : Bool), s.ck.phase = .pllWait → s.ck.oscGood = true → s.ck.tLock = false → s.ck.lLock = false →
      exec (.pllLock .timing k oven) s = .next { s with ck := { s.ck with tLock := true, tLockT := k % 2 ^ 16, ovenLevel := oven } } ∧
      exec (.pllLock .logic k oven) s = .next { s with ck := { s.ck with lLock := true, lLockT := k % 2 ^ 16, ovenLevel := oven } }) ∧
  (∀ (s : State) (k : Nat) (oven : Bool), s.ck.phase = .pllWait → s.ck.oscGood = true →
      (s.ck.tLock = true → s.ck.lLock = false → exec (.pllLock .logic k oven) s = .next { s with
        ck := { s.ck with
          lLock := true, lLockT := k % 2 ^ 16, phase := .running, ovenLevel := oven, ovenAll := oven, ovenCnt := 0 }
        clk := { course := 0, cyc := 0, ticks := 0 } }) ∧
      (s.ck.tLock = false → s.ck.lLock = true → exec (.pllLock .timing k oven) s = .next { s with
        ck := { s.ck with
          tLock := true, tLockT := k % 2 ^ 16, phase := .running, ovenLevel := oven, ovenAll := oven, ovenCnt := 0 }
        clk := { course := 0, cyc := 0, ticks := 0 } })) ∧
  (∀ s : State, s.ck.phase = .pllWait →
      (s.ck.tLock = false → s.ck.tTry = 0 → exec (.pllLockTimeout .timing) s = .next { s with ck := { s.ck with tFail := true, tTry := 1 } }) ∧
      (s.ck.lLock = false → s.ck.lTry = 0 → exec (.pllLockTimeout .logic) s = .next { s with ck := { s.ck with lFail := true, lTry := 1 } })) ∧
  (∀ s : State, s.ck.phase = .pllWait →
      (s.ck.tLock = false → s.ck.tTry = 1 →
        exec (.pllLockTimeout .timing) s = .next { s with ck := { s.ck with tFail := true, tTry := 2, phase := .stuck } }) ∧
      (s.ck.lLock = false → s.ck.lTry = 1 →
        exec (.pllLockTimeout .logic) s = .next { s with ck := { s.ck with lFail := true, lTry := 2, phase := .stuck } }))

/-- A loss of the oscillator before OSC_GOOD restarts its count; in service it clears OSC_GOOD and is counted and reported, with
the fall of OVEN_OK where OVEN_USE is 0; both PLLs lose lock, which is Underlay cause 3, and the time goes on. -/
def Obligations.LossOfTheOscillator : Prop :=
  (∀ s : State, s.ck.phase = .oscCount → s.ck.oscGood = false →
      exec .oscLoss s = .next (({ s with ck := { s.ck with oscCnt := 0, monOk := true } } : State).count CG_CNT_OSC_RESTART)) ∧
  (∀ s : State, s.Serving → s.ck.oscGood = true → s.ck.tLock = false → s.ck.lLock = false →
      exec .oscLoss s =
        .next (let u := (({ s with ck := { s.ck with oscGood := false, oscCnt := 0 } } : State).count CG_CNT_OSC_LOSS).raise 2
          if s.bit CG_CTL 1 then u else (u.count CG_CNT_OVEN_FALL).raise 2)) ∧
  (∀ s : State, s.Serving → s.ck.oscGood = true → s.ck.lLock = true → ∃ t, exec .oscLoss s = .next t ∧
      t.ck.oscGood = false ∧ t.ck.tLock = false ∧ t.ck.lLock = false ∧ t.ck.lclkFb = true ∧ t.td = s.td ∧ t.regs = s.regs ∧ t.clk = s.clk ∧
      (s.hf.active = false → s.hf.pend = false → t.hf.pend = true ∧ t.hf.cause = 3))

/-- Loss and return of lock of the timing PLL and of the logic PLL in service: a loss is counted and raises the
clock-fault cause; when the logic PLL loses lock, the logic clock falls back to the timing clock, Underlay cause 3 is
given, and the time goes on; a return of lock sets the lock with its count in CG_PLL_LOCKT, a free value (log entry 5),
and leaves the logic clock where it is. While the timing PLL is unlocked and for 16 courses after its lock has returned,
a mark carries the TE code 0xFFFF. -/
def Obligations.LossAndReturnOfLock : Prop :=
  (∀ s : State, s.up = true → s.ck.tLock = true →
    exec .timingPllUnlock s =
      .next ((({ s with ck := { s.ck with tLock := false, relock := none } } : State).count CG_CNT_TPLL_UNLOCK).raise 2)) ∧
  (∀ s : State, s.up = true → s.ck.oscGood = true → s.ck.tLock = false →
      exec .timingPllRelock s = .next { s.drawFree.1 with
        ck := { s.ck with tLock := true, tLockT := s.drawFree.2 % 2 ^ 16, relock := some (s.clk.ticks + 1) } }) ∧
  (∀ s : State, s.up = true → s.ck.lLock = true → ∃ t, exec .logicPllUnlock s = .next t ∧
      t = (((({ s.fillAll with ck := { s.fillAll.ck with lLock := false, lclkFb := true } } : State).count CG_CNT_LPLL_UNLOCK).raise 2).underlayCause 3 0) ∧
      t.ck.lLock = false ∧ t.ck.lclkFb = true ∧ t.td = s.td ∧ t.regs = s.regs ∧ t.clk = s.clk ∧
      (s.hf.active = false → s.hf.pend = false → t.hf.pend = true ∧ t.hf.cause = 3)) ∧
  (∀ s : State, s.up = true → s.ck.oscGood = true → s.ck.lLock = false →
      exec .logicPllRelock s = .next { s.drawFree.1 with ck := { s.ck with lLock := true, lLockT := s.drawFree.2 % 2 ^ 16 } }) ∧
  (∀ (s : State) (t : Nat), (s.ck.tLock = false ∨ ∃ r, s.ck.relock = some r ∧ t < r + 16) → s.teCode t = 0xFFFF)

/-- The oven flag: a fall clears OVEN_OK in the same course and is counted and reported when OVEN_OK showed it; OVEN_OK rises
when the debounce count has reached OVEN_DEB; a write that sets OVEN_USE makes OVEN_OK take the debounced value at once. -/
def Obligations.OvenFlag : Prop :=
  (∀ s : State, s.Serving → ∃ t, exec .ovenFlagFall s = .next t ∧ t.ck.ovenOk = false ∧ t.ck.ovenCnt = 0 ∧ t.td = s.td ∧
    t.regs = s.regs ∧ t.ports = s.ports ∧
    (s.bit CG_CTL 1 = true → s.ck.ovenOk = true →
      t.irq.getLsbD 2 = true ∧ t.cnt = (s.count CG_CNT_OVEN_FALL).cnt) ∧
    (s.bit CG_CTL 1 = false → t.irq = s.irq ∧ t.cnt = s.cnt)) ∧
  (∀ s : State, s.up = true → s.ovenDeb ≤ s.ck.ovenCnt →
    exec .ovenOkRise s = .next { s with ck := { s.ck with ovenOk := true } }) ∧
  (∀ (s : State) (v : Nat), s.Serving → bitOf v 1 = true → v < 2 ^ 32 → s.bit CG_CTL 1 = false →
    ∃ t, exec (.ovenUseWrite v) s = .next t ∧ t.ck.ovenOk = decide (s.ovenDeb ≤ s.ck.ovenCnt))

/-- A gate closes when its group has no work, unless GATE_EN is 0 or the gate is forced open; a write of CG_CLKOUT stores the
setting and drives CLKOUT only while EN is 1. -/
def Obligations.GatesAndClkout : Prop :=
  (∀ (s : State) (k : Nat), s.up = true → k < 12 → s.bit CG_CTL 0 = true → s.bit CG_GATE_FORCE k = false → s.groupWork k = false →
    exec (.gateClose k) s = .next { s with ck := { s.ck with gates := s.ck.gates &&& ~~~(BitVec.ofNat 12 (2 ^ k)) } }) ∧
  (∀ (s : State) (k : Nat), s.up = true → (s.bit CG_CTL 0 = false ∨ s.bit CG_GATE_FORCE k = true ∨ s.groupWork k = true) →
    exec (.gateClose k) s = .next s) ∧
  (∀ (s : State) (v : Nat), s.Serving → v < 2 ^ 32 →
      (bitOf v 31 = true → exec (.cgClkoutWrite v) s = .next (((s.busy.wr CG_CLKOUT v).openGate 10).clkoutDrive
        (s.busy.wr CG_CLKOUT v).clkoutBad)) ∧
      (bitOf v 31 = false → s.bit CG_CLKOUT 31 = true →
        exec (.cgClkoutWrite v) s = .next ((s.busy.wr CG_CLKOUT v).clkoutDrive true)) ∧
      (bitOf v 31 = false → s.bit CG_CLKOUT 31 = false → exec (.cgClkoutWrite v) s = .next (s.busy.wr CG_CLKOUT v)))


/-! ### Registers of the window -/

/-- A write of 1 to a CNT_CLR register sets every counter of its block to 0 and changes nothing else but what every access
outside GC_ and PW_ may do: count a wait for a closed gate, open the gate and mark the course busy. -/
def Obligations.CounterClears : Prop :=
  (∀ e ∈ [(Instr.tdCntClr, 1), (.rsCntClr, 2), (.cgCntClr, 3), (.imCntClr, 4), (.sqCntClr, 5), (.ceCntClr, 6), (.tpCntClr, 7),
      (.hfCntClr, 8), (.cpCntClr, 10), (.btCntClr, 11), (.odCntClr, 13)], ∀ s : State, s.Serving →
    ∃ t, exec e.1 s = .next t ∧ (∀ o, o / 0x1000 = e.2 → t.counter o = 0) ∧
      (∀ o, o / 0x1000 ≠ e.2 → o ≠ CG_CNT_GATE_WAIT → t.counter o = s.counter o) ∧ t.still = s.still) ∧
  (∀ e ∈ [(Instr.gcCntClr, 0), (.pwCntClr, 9)], ∀ s : State, s.ck.phase ≠ .held →
    ∃ t, exec e.1 s = .next t ∧ (∀ o, t.counter o = if o / 0x1000 = e.2 then 0 else s.counter o) ∧ t.still = s.still) ∧
  (∀ (s : State) (p : Nat), s.Serving → p < s.nPorts →
    ∃ t, exec (.pfCntClr p) s = .next t ∧
      (∀ o, 0x10000 + 0x400 * p ≤ o → o ≤ 0x100FF + 0x400 * p → t.counter o = 0) ∧
      (∀ o, (o < 0x10000 + 0x400 * p ∨ 0x100FF + 0x400 * p < o) → o ≠ CG_CNT_GATE_WAIT → t.counter o = s.counter o) ∧
      t.still = s.still)

/-- A write of a read-write register of 32 bits that does nothing beside storing: the register reads back the writable
bits of the value, every other register keeps its value, and the rest of the state stays but what every access may do: a count
of a closed gate, the gate, and the busy course.  A write of TD_SLEW also forms R_out again with the new limit while the
selected domain is tracked, and ZC_TMO stores only in compatibility mode. -/
def Obligations.PlainRegistersStoreTheirBits : Prop :=
  (∀ r ∈ fixedRegs, r.bytes = 4 →
    r ∉ [CG_CTL, CG_CLKOUT, TD_SLEW, IM_CTL, IM_CAL_CFG, ZC_CTL, ZC_TMO, CP_OWN, CP_RING_CFG] → ∀ (s : State) (v : Nat), s.Serving → v < 2 ^ 32 →
    ∃ t, exec (.registerWrite .host r.off 4 v) s = .next t ∧ t.rd r = v &&& r.mask ∧ (∀ q : Reg, q.off ≠ r.off → t.rd q = s.rd q) ∧
      t.still = (s.wr r v).still) ∧
  (∀ (s : State) (v : Nat), s.Serving → v < 2 ^ 32 →
    ∃ t, exec (.registerWrite .host TD_SLEW.off 4 v) s = .next t ∧ t.rd TD_SLEW = v &&& TD_SLEW.mask ∧
      (∀ q : Reg, q.off ≠ TD_SLEW.off → t.rd q = s.rd q) ∧ t.still = (s.wr TD_SLEW v).resteer.still ∧
      (s.td.acq = true → (s.servo s.td.sel).st = .track →
        t.td.rOut = clamp40 ((s.servo s.td.sel).f + clampI (-slewUnits t.slewLimit) (slewUnits t.slewLimit) (sar (toRate s.steerErr) s.kpShift)))) ∧
  (∀ (s : State) (v : Nat), s.Serving → v < 2 ^ 32 →
    ∃ t, exec (.registerWrite .host ZC_TMO.off 4 v) s = .next t ∧ t.rd ZC_TMO = (if s.compat then v &&& ZC_TMO.mask else s.rd ZC_TMO) ∧
      (∀ q : Reg, q.off ≠ ZC_TMO.off → t.rd q = s.rd q) ∧ t.still = (if s.compat then s.wr ZC_TMO v else s).still)

/-- The reads that latch: TD_NOW_NS latches the output time of the present timing edge for the master that reads,
PF_STAMP_LO and IM_RAW_LO take the oldest record off their FIFO into the reader's latch and IM_SK_COUNT latches a slot's
statistics; a read of the object window at a half-slot of offset 0 latches the half above.  The other masters' latches stay,
and so does the rest of the state but what every access may do: a count of a closed gate, the gate, and the busy course. -/
def Obligations.LatchingReads : Prop :=
  (∀ (s : State) (m : Master), s.Serving → ∃ t, exec (.tdNowNsRead m) s = .next t ∧
    (t.td.now.get m).ns = (s.nowUnits / 65536).toNat % 1000000000 ∧ (t.td.now.get m).frac = (s.nowUnits % 65536).toNat ∧
    (t.td.now.get m).epoch = (s.nowUnits / 65536).toNat % 2 ^ 64 ∧ (t.td.now.get m).stat = s.nowStat ∧
    (∀ k, k ≠ m → t.td.now.get k = s.td.now.get k) ∧ t.still = ({ s with td := { s.td with now := t.td.now } } : State).still) ∧
  (∀ (s : State) (m : Master) (p : Nat), s.Serving → p < s.nPorts → ∃ t, exec (.pfStampLoRead m p) s = .next t ∧
      (t.port p).fifo = (s.port p).fifo.tail ∧ (t.port p).latch.get m = (s.port p).fifo.headD {} ∧
      (∀ k, k ≠ m → (t.port p).latch.get k = (s.port p).latch.get k) ∧ (∀ q, q ≠ p → t.port q = s.port q) ∧
      t.still = (s.popStamp m p).still) ∧
  (∀ (s : State) (m : Master) (k : Nat), s.Serving → k < 8 → ∃ t, exec (.imSkCountRead m k) s = .next t ∧
    t.im.latch.get m = (s.im.latch.get m).set {} k (s.im.stats.get {} k) ∧ (∀ j, j ≠ m → t.im.latch.get j = s.im.latch.get j) ∧
    t.still = ({ s with im := { s.im with latch := t.im.latch } } : State).still) ∧
  (∀ (s : State) (m : Master), s.Serving → ∃ t, exec (.imRawLoRead m) s = .next t ∧
      t.im.raw = s.im.raw.tail ∧ t.im.rawLatch.get m = s.im.raw.headD {} ∧ (∀ k, k ≠ m → t.im.rawLatch.get k = s.im.rawLatch.get k) ∧
      t.still = ({ s with im := { s.im with raw := t.im.raw, rawLatch := t.im.rawLatch } } : State).still) ∧
  (∀ (s : State) (m : Master) (k : Nat), s.Serving → s.isEave = true → k < 65536 → ∃ t,
      exec (.odWindowRead m (16 * k)) s = .next t ∧ t.od.latch.get m = some (k, s.slotHi k) ∧ (∀ j, j ≠ m → t.od.latch.get j = s.od.latch.get j) ∧
      t.still = ({ s with od := { s.od with latch := t.od.latch } } : State).still)


/-! ### The host port, the sideband and the command interface -/

/-- Requests on the host port, with no earlier one held by a sleep: a request that fails parity is not performed, is counted
and is answered with an error; a misaligned access is answered with 0 and no error and has no other effect; a 64-bit write
in service outside GC_ and PW_ is performed and answered; the credit of each of these is returned with its answer.  While a
sleep holds an earlier request, a request takes its credit, waits behind it and is not answered yet; one that fails parity
is counted at once. -/
def Obligations.HostRequestsAreAnswered : Prop :=
  (∀ (a : Access) (s : State), s.ck.phase ≠ .held → s.ck.phase ≠ .roleErr → s.cp.hrst = false → s.hostWaits = false →
      1 ≤ s.cp.credits → s.cp.credits ≤ 16 →
        exec (.hostRequest a false) s = .next ((s.count GC_CNT_HPAR).emit (.hostRsp 0 true))) ∧
  (∀ (a : Access) (s : State), s.Serving → s.cp.hrst = false → s.hostWaits = false → 1 ≤ s.cp.credits → s.cp.credits ≤ 16 →
      a.addr % 2 ^ 24 % (if a.wide then 8 else 4) ≠ 0 → ∃ t, exec (.hostRequest a true) s = .next t ∧
        t.out.head? = some (.hostRsp 0 false) ∧ t.still = s.still) ∧
  (∀ (a : Access) (s : State), s.Serving → s.cp.hrst = false → s.hostWaits = false → 1 ≤ s.cp.credits → s.cp.credits ≤ 16 →
      a.write = true →
      a.wide = true → alwaysOn (a.addr % 2 ^ 24) = false →
        exec (.hostRequest a true) s =
          .next (((s.touch .host (a.addr % 2 ^ 24)).regWrite .host (a.addr % 2 ^ 24) true a.data).emit (.hostRsp 0 false))) ∧
  (∀ (a : Access) (ok : Bool) (s : State), s.ck.phase ≠ .held → s.ck.phase ≠ .roleErr → s.cp.hrst = false → s.hostWaits = true →
      ∃ t, exec (.hostRequest a ok) s = .next t ∧ t.out = s.out ∧ t.cp.credits = s.cp.credits - 1 ∧ t.cnt = (if ok then s else s.count GC_CNT_HPAR).cnt ∧ t.still =
        ({ s with
          cp := { s.cp with credits := s.cp.credits - 1 }
          pw := { s.pw with
            held := if s.pw.late.any (fun w => w.req.isHost) then s.pw.held else s.pw.held ++ [.host a ok]
            late := if s.pw.late.any (fun w => w.req.isHost) then s.pw.late ++ [⟨1, 0, .host a ok⟩] else s.pw.late } } : State).still)

/-- The reset of the host port discards what waits and sets HOST_DOWN, with its cause when it was clear; commands handed
over go on.  Its release returns the 16 credits.  HOST_DOWN is also set when no write of CP_HOST_HB has come for
CP_HB_TMO courses, 0 disabling the test, and the next write of CP_HOST_HB clears it. -/
def Obligations.HostDown : Prop :=
  (∀ s : State, s.ck.phase ≠ .held → ∃ t, exec .hostPortReset s = .next t ∧ t.cp.hostDown = true ∧ t.cp.hrst = true ∧
      t.cp.credits = 0 ∧ t.cp.hostQ = s.cp.hostQ ∧ t.cp.run = s.cp.run ∧ t.cp.slots = s.cp.slots ∧
      (∀ a ok, HeldReq.host a ok ∉ t.pw.held) ∧ (s.cp.hostDown = false → t.irq = (s.raise 28).irq) ∧
      (s.cp.hostDown = true → t.irq = s.irq)) ∧
  (∀ s : State, s.ck.phase ≠ .held → s.cp.hrst = true →
    exec .hostPortResetRelease s = .next { s with cp := { s.cp with hrst := false, credits := 16 } }) ∧
  (∀ s : State, s.up = true → exec .hostHeartbeatTimeout s =
    .next (if s.rd CP_HB_TMO ≠ 0 ∧ s.cp.hbTick + s.rd CP_HB_TMO ≤ s.clk.ticks then
      ({ s with cp := { s.cp with hostDown := true } } : State).raiseIf (!s.cp.hostDown) 28 else s)) ∧
  (∀ s : State, s.Serving → s.cp.hrst = false →
    exec .cpHostHb s = .next { s.busy with cp := { s.cp with hbTick := s.clk.ticks, hostDown := false } })

/-- Register accesses of the sideband: an aligned one of 4 or 8 bytes is performed in the sideband's name and answered; any
other is answered with the code for a bad access and reaches no register.  Either opens the gate of the command
processor. -/
def Obligations.SidebandRegisterAccesses : Prop :=
  (∀ (off width v : Nat) (s : State), s.Serving → sbAccessOk off width = true → alwaysOn off = false →
      exec (.sbRegisterWrite off width v) s =
        .next (((s.touch .sideband off).sbGate.regWrite .sideband off (decide (width = 8)) v).emit (.sbAnswer 0x83 0 [])) ∧
      exec (.sbRegisterRead off width) s =
        .next (((s.touch .sideband off).sbGate.regRead .sideband off (decide (width = 8))).1.emit
          (.sbAnswer 0x82 0 [((s.touch .sideband off).sbGate.regRead .sideband off (decide (width = 8))).2]))) ∧
  (∀ (off width v : Nat) (s : State), s.ck.phase ≠ .held → sbAccessOk off width = false →
      exec (.sbRegisterWrite off width v) s = .next (s.sbGate.emit (.sbAnswer 0x83 1 [])) ∧
      exec (.sbRegisterRead off width) s = .next (s.sbGate.emit (.sbAnswer 0x82 1 [0])))

/-- The sideband as an endpoint, in service: the five control messages are served and any other is answered as unsupported; a
bad packet is counted by its kind; a command request that finds slot 16 free or done takes it and is queued, and one that
finds all four slots taken is answered BUSY and counted. -/
def Obligations.SidebandMessages : Prop :=
  (∀ (cmd data : Nat) (s : State), s.Serving → ∃ t, exec (.sbMctpControl cmd data) s = .next t ∧ t.still =
        (if cmd = 1 then ({ s with cp := { s.cp with eid := some (data % 256) } } : State) else s).still ∧
      t.out = (match cmd with
        | 1 => .sbAnswer 1 0 [data % 256]
        | 2 => .sbAnswer 2 0 [s.cp.eid.getD 0]
        | 4 => .sbAnswer 4 0 []
        | 5 => .sbAnswer 5 0 [0x7F]
        | 6 => .sbAnswer 6 0 [s.cp.iana]
        | _ => .sbAnswer cmd 5 []) :: s.busy.sbGate.out) ∧
  (∀ (pec : Bool) (s : State), s.ck.phase ≠ .held →
    exec (.sbPacketBad pec) s = .next (s.count (if pec then CP_CNT_SB_PEC else CP_CNT_SB_BAD))) ∧
  (∀ (words : List Nat) (s : State), s.Serving → (∀ k ∈ [16, 17, 18, 19], (s.cmdSlot k).st = .queued ∨ (s.cmdSlot k).st = .running) →
    ∃ t, exec (.sbCommandRequest words) s = .next t ∧ t.counter CP_CNT_SB_BUSY = (s.count CP_CNT_SB_BUSY).counter CP_CNT_SB_BUSY ∧
      t.still = s.still) ∧
  (∀ (words : List Nat) (s : State), s.Serving → ((s.cmdSlot 16).st = .free ∨ (s.cmdSlot 16).st = .done) →
    ∃ t, exec (.sbCommandRequest words) s = .next t ∧ (t.cmdSlot 16).st = .queued ∧
      (t.cmdSlot 16).header = words.headD 0 % 2 ^ 64 ∧ t.cp.sbQ = s.cp.sbQ ++ [16] ∧ t.cp.hostQ = s.cp.hostQ ∧
      ∀ k, k ≠ 16 → t.cmdSlot k = s.cmdSlot k)

/-- A 64-bit write of the header of a free or completed host slot queues it; one of a slot that is queued or running only
counts. -/
def Obligations.HandoverOfCommands : Prop :=
  (∀ (k h : Nat) (s : State), s.Serving → k < 16 → h < 2 ^ 64 → ((s.cmdSlot k).st = .free ∨ (s.cmdSlot k).st = .done) →
    ∃ t, exec (.commandHandover k h) s = .next t ∧ t.cmdSlot k = { s.cmdSlot k with st := .queued, header := h } ∧
      t.cp.hostQ = s.cp.hostQ ++ [k] ∧ t.cp.sbQ = s.cp.sbQ ∧ ∀ j, j ≠ k → t.cmdSlot j = s.cmdSlot j) ∧
  (∀ (k h : Nat) (s : State), s.Serving → k < 16 → ((s.cmdSlot k).st = .queued ∨ (s.cmdSlot k).st = .running) →
    exec (.commandHandover k h) s = .next (s.busy.count CP_CNT_IGN))

/-- CP_OWN: a master other than the sideband may write every field, the sideband a field that is SHARED or its own, or any
while HOST_DOWN is 1; a rise of CP_RING_CFG.EN sets both pointers of the ring to 0; a write of GC_IRQ_SET with bit 31 raises cause 31. -/
def Obligations.OwnershipRingAndSoftwareCause : Prop :=
  (∀ (m : Master) (v g : Nat) (s : State), s.Serving → g < 11 → v < 2 ^ 32 → ∃ t, exec (.cpOwnWrite m v) s = .next t ∧
    field (t.rd CP_OWN) (2 * g) 2 =
      (if m ≠ .sideband ∨ s.cp.hostDown = true ∨ field (s.rd CP_OWN) (2 * g) 2 ≠ 1 then field v (2 * g) 2
       else field (s.rd CP_OWN) (2 * g) 2)) ∧
  (∀ (v : Nat) (s : State), s.Serving → v < 2 ^ 32 → bitOf v 31 = true → s.ringOn = false →
    ∃ t, exec (.ringEnable v) s = .next t ∧ t.cp.ringWr = 0 ∧ t.rd CP_RING_RD = 0 ∧ t.rd CP_RING_CFG = v &&& CP_RING_CFG.mask) ∧
  (∀ (v : Nat) (s : State), s.Serving → v < 2 ^ 32 → (bitOf v 31 = false ∨ s.ringOn = true) →
    exec (.ringEnable v) s = .next (s.busy.wr CP_RING_CFG v)) ∧
  (∀ (v : Nat) (s : State), s.ck.phase ≠ .held → v < 2 ^ 32 →
    exec (.gcIrqSet v) s = .next (if bitOf v 31 then s.raise 31 else s))

/-- Answers on the memory master port: beats of a read are kept until its last one; the acknowledgement of a write that did
not fail only frees its identity; one with an error is counted and raises cause 27. -/
def Obligations.MemoryPortAnswers : Prop :=
  (∀ (id : Nat) (bytes : List Nat) (q : MemReq) (s : State), s.up = true → (s.mm.reads.find? fun r => r.id = id) = some q →
    q.got.length + bytes.length < 16 * q.beats → exec (.memoryReadResponse id bytes false) s =
      .next { s with mm := { s.mm with reads := s.mm.reads.map fun r => if r.id = id then { q with got := q.got ++ bytes } else r } }) ∧
  (∀ (id : Nat) (q : MemReq) (s : State), s.up = true → s.mm.waitR = [] → s.mm.waitW = [] →
    (s.mm.writes.find? fun r => r.id = id) = some q → (∀ k, q.use ≠ .ring k) →
    exec (.memoryWriteAck id false) s = .next { s with mm := { s.mm with writes := s.mm.writes.filter fun r => r.id ≠ id } } ∧
    exec (.memoryWriteAck id true) s =
      .next ((({ s with mm := { s.mm with writes := s.mm.writes.filter fun r => r.id ≠ id } } : State).count GC_CNT_MERR).raise 27)) ∧
  (∀ s : State, s.up = true → (∀ q ∈ s.mm.reads, s.clk.ticks ≤ q.tick + 1023) → (∀ q ∈ s.mm.writes, s.clk.ticks ≤ q.tick + 1023) →
    exec .memoryTimeout s = .next s) ∧
  (∀ (q : MemReq) (s : State), s.up = true → s.mm.waitR = [] → s.mm.waitW = [] → s.mm.reads = [] → s.mm.writes = [q] → q.use = .log →
    q.tick + 1024 ≤ s.clk.ticks →
    exec .memoryTimeout s = .next ((({ s with mm := { s.mm with writes := [] } } : State).count GC_CNT_MERR).raise 27))

/-! ### The command processor -/

/-- The 42 opcodes: a command whose row has no objection starts and runs by its row; one that a general status refuses
completes with that status and changes nothing beside; while the next packet is of another opcode the row does nothing. -/
def Obligations.OpcodesRunByTheirRows : Prop :=
  ∀ e ∈ opcodeRows,
    cmdOf e.2.1 = some e.2.2 ∧
    (∀ (s u : State) (r : RunCmd), s.Accepts u r e.2.1 e.2.2 → exec e.1 s = .next ((e.2.2.start u r).settle r)) ∧
    (∀ (s u : State) (r : RunCmd) (st : Nat), s.Takes u r → r.op = e.2.1 →
      u.cmdRefused e.2.2 r (s.cmdSlot r.slot).header = some st →
      exec e.1 s = .next ((if st = stNotOwner then u.count CP_CNT_OWNER else u).complete r { status := st })) ∧
    (∀ (s u : State) (r : RunCmd), s.Takes u r → r.op ≠ e.2.1 → exec e.1 s = .next s)

/-- A command of the host that needs no ring entry completes at once: its slot is DONE and holds the eight reply words with the
status, the slot and the course, the completion is counted, and an error beside. -/
def Obligations.CompletionsReply : Prop :=
  ∀ (s : State) (r : RunCmd) (rep : Reply), r.slot < 16 → r.ring = false →
    (bitOf (hdrFlags (s.cmdSlot r.slot).header) 1 = false ∨ s.ringOn = false) →
    bitOf (hdrFlags (s.cmdSlot r.slot).header) 0 = false →
    ((s.complete r rep).cmdSlot r.slot).st = .done ∧
    ((s.complete r rep).cmdSlot r.slot).reply = s.replyWords r.slot (s.cmdSlot r.slot).header false rep ∧
    (∀ k, k ≠ r.slot → (s.complete r rep).cmdSlot k = s.cmdSlot k) ∧
    (∀ x ∈ (s.complete r rep).cp.run, x.slot ≠ r.slot) ∧
    (s.complete r rep).counter CP_CNT_CMD = (s.counter CP_CNT_CMD + 1) % 2 ^ 32 ∧
    (s.complete r rep).counter CP_CNT_ERR = (s.counter CP_CNT_ERR + if rep.status = stDone then 0 else 1) % 2 ^ 32 ∧
    (s.complete r rep).td = s.td ∧ (s.complete r rep).regs = s.regs ∧ (s.complete r rep).irq = s.irq

/-- The general commands and the firmware: an unknown opcode completes with BAD_OPCODE; gen.identify and gen.status report;
gen.reset waits for the boundary unless a unit named is in use; fw.load of mode 1 stores its bytes; fw.start runs a valid
image and restarts the watchdog. -/
def Obligations.GeneralCommands : Prop :=
  (∀ (s u : State) (r : RunCmd), s.Takes u r → cmdOf r.op = none →
    exec .badOpcode s = .next (u.complete r { status := stBadOpcode })) ∧
  (∀ (s u : State) (r : RunCmd), s.Accepts u r 0x00 cmdGenIdentify → exec .genIdentify s = .next (u.complete r { d :=
    [(if u.isEave then 0 else 1) + u.ties.gangPos % 8 * 4 + u.ties.gangSize % 8 * 32 + revision % 65536 * 65536, u.ownId % 2 ^ 24,
     u.nPorts + bitAt u.root 16, if u.isEave then u.rd BT_TAP_EN else 0,
     u.ties.romVer % 2 ^ 32 * 2 ^ 32 + u.cp.fwVer % 2 ^ 32, u.cp.iana] })) ∧
  (∀ (s u : State) (r : RunCmd), s.Accepts u r 0x01 cmdGenStatus → ∃ d, exec .genStatus s = .next ((u.latchNow .cp).complete r { d := d }) ∧
    d.length = 6 ∧ d[0]? = some u.cpStat ∧ d[1]? = some u.ulStat ∧ d[2]? = some (u.nowStat + u.pwStat * 2 ^ 32) ∧
    d[3]? = some (u.clk.course % 2 ^ 64) ∧ d[4]? = some (sat32 u.td.te)) ∧
  (∀ (s u : State) (r : RunCmd), s.Accepts u r 0x03 cmdGenReset → prm r.p 1 ≠ 0 →
    exec .genReset s = .next (
      if bitOf (prm r.p 1) 0 ∧ (u.sq.st = .running ∨ u.sq.st = .held) then u.complete r { status := stInvalidState }
      else if bitOf (prm r.p 1) 1 ∧ (u.od.waiters ≠ [] ∨ u.od.lends ≠ []) then u.complete r { status := stBusy }
      else if bitOf (prm r.p 1) 2 ∧ u.collBusy then u.complete r { status := stBusy }
      else ({ u with cp := { u.cp with resetReq := prm r.p 1 } } : State).putRun r)) ∧
  (∀ (s u : State) (r : RunCmd), s.Accepts u r 0x04 cmdFwLoad → prm r.p 1 = 1 → prm r.p 3 % 8 = 0 → 8 ≤ prm r.p 3 → prm r.p 3 ≤ 160 →
    prm r.p 2 + prm r.p 3 ≤ 262144 →
    exec .fwLoad s = .next (if u.fwServes then u.complete r { status := stInvalidState }
      else (u.loadFw (prm r.p 2) (((r.p.drop 3).take (prm r.p 3 / 8)).flatMap (leBytes 8))).complete r {})) ∧
  (∀ (s u : State) (r : RunCmd), s.Accepts u r 0x05 cmdFwStart → exec .fwStart s = .next (
    if u.fwServes then u.complete r { status := stInvalidState }
    else if u.fwImageOk = false then u.complete r { status := stImageBad }
    else ({ u with
      cp := { u.cp with fw := .running, fwVer := u.cp.mem.get 0 0 / 2 ^ 32 }
      hf := { u.hf with kicked := false, wdog := some 0 } } : State).complete r { d := [u.cp.mem.get 0 0 / 2 ^ 32] })) ∧
  (∀ (s u : State) (r : RunCmd), s.Accepts u r 0x02 cmdTopologyLoad → exec .topologyLoad s = .next (
    if prm r.p 1 % 8 ≠ 0 ∨ prm r.p 2 < 64 ∨ 307264 < prm r.p 2 then u.complete r { status := stInvalidParam }
    else if u.collBusy then u.complete r { status := stBusy }
    else (u.readFrom r (prm r.p 1) (prm r.p 2)).settle r))

/-- A completion that needs the ring waits while it is full, and each wait is counted once; when the ring is switched off it
completes to its reply area only.  The count of completions raises its cause when its timer has run out. -/
def Obligations.WaitingCompletions : Prop :=
  (∀ (s : State) (r : RunCmd) (rep : Reply), s.up = true → s.cp.run = [r] → r.reply = some rep → r.ring = false → r.slot < 16 →
    bitOf (hdrFlags (s.cmdSlot r.slot).header) 1 = true → s.ringOn = true → s.ringFull = true →
    exec .commandCompletion s = .next (if r.waited then s else
      ({ s with cp := { s.cp with run := [{ r with waited := true }] } } : State).count CP_CNT_RING_WAIT)) ∧
  (∀ (s : State) (r : RunCmd) (rep : Reply), s.up = true → s.cp.run = [r] → r.reply = some rep → r.ring = false → r.slot < 16 →
    s.ringOn = false →
    exec .commandCompletion s = .next (s.finalize r rep (s.replyWords r.slot (s.cmdSlot r.slot).header false rep))) ∧
  (∀ s : State, s.up = true → exec .irqCoalesceTimeout s = .next
    (if s.fl CP_IRQ_CFG 0 16 ≠ 0 ∧ s.cp.irqCnt ≠ 0 ∧ s.cp.irqTick + s.fl CP_IRQ_CFG 0 16 ≤ s.clk.ticks then s.raise 0 else s))

/-- The time commands: acquisition of a domain whose servo is READY, a re-step, the slew limit, holdover by command, the
epoch, the choice of a domain, and at an eave a planned switch held or cancelled; each refusal as its row states.  That a plan
of an eave alone has PLAN_ID 0 is the model's choice (log entry 60). -/
def Obligations.TimeCommands : Prop :=
  (∀ (s u : State) (r : RunCmd), s.Accepts u r 0x10 cmdTimeAcquire → ∀ d, d = Dom.ofBit (prm r.p 1 = 1) →
    exec .timeAcquire s = .next (
      if u.isRidge ∧ d ≠ u.home then u.complete r { status := stInvalidParam }
      else if u.td.acq ∨ (u.servo d).st ≠ .ready then u.complete r { status := stInvalidState }
      else ({ u with td := { u.td with acqDom := some d } } : State).complete r {})) ∧
  (∀ (s u : State) (r : RunCmd), s.Accepts u r 0x11 cmdTimeRestep → exec .timeRestep s = .next (
      if u.td.acq = false ∨ (u.servo u.td.sel).st ≠ .track ∨ (u.tapList.any fun n => !(u.tap n).armed.isEmpty) ∨ u.pulseDue then
        u.complete r { status := stInvalidState }
      else ({ u with td := { u.td with restep := true } } : State).complete r {})) ∧
  (∀ (s u : State) (r : RunCmd), s.Accepts u r 0x12 cmdTimeSlewLimit → exec .timeSlewLimit s = .next (
        if prm r.p 1 < 1 ∨ 2000 < prm r.p 1 then u.complete r { status := stInvalidParam }
        else (u.wr TD_SLEW (prm r.p 1)).resteer.complete r {})) ∧
  (∀ (s u : State) (r : RunCmd), s.Accepts u r 0x13 cmdTimeDomainSelect → ∀ d, d = Dom.ofBit (prm r.p 1 = 1) →
    exec .timeDomainSelect s = .next (
      if d = u.td.sel then u.complete r {}
      else if u.tracked d = false then u.complete r { status := stInvalidState }
      else ({ u with td := { u.td with selReq := some d, selOk := none } } : State).putRun r)) ∧
  (∀ (s u : State) (r : RunCmd), s.Accepts u r 0x14 cmdTimeSwitchAt → u.isEave = true → bitOf (prm r.p 1) 8 = false →
    exec .timeSwitchAt s = .next (
      if prm r.p 2 < u.clk.course + 8192 ∨ u.clk.course + 2 ^ 30 < prm r.p 2 then u.complete r { status := stInvalidParam }
      else ({ u with td := { u.td with
        plan := some ⟨0, Dom.ofBit (bitOf (prm r.p 1) 0), prm r.p 2⟩, planCourse := prm r.p 2, planId := 0
        planTarget := Dom.ofBit (bitOf (prm r.p 1) 0), outcome := 0 } } : State).complete r { d := [0] })) ∧
  (∀ (s u v : State) (r : RunCmd), s.Accepts u r 0x14 cmdTimeSwitchAt → u.isEave = true → bitOf (prm r.p 1) 8 = true →
    v = { u with td := { u.td with plan := none, outcome := 3 } } →
    exec .timeSwitchAt s =
      .next (if u.td.plan = none then u.complete r { status := stInvalidState } else v.complete r { d := [0] })) ∧
  (∀ (s u : State) (r : RunCmd), s.Accepts u r 0x15 cmdTimeHoldoverForce → ∀ v, v = u.servo (Dom.ofBit (bitOf (prm r.p 1) 0)) →
    exec .timeHoldoverForce s = .next (
      if bitOf (prm r.p 1) 8 = true then
        if v.st ≠ .track then u.complete r { status := stInvalidState }
        else (u.setServo (Dom.ofBit (bitOf (prm r.p 1) 0)) { v with forced := true }).complete r {}
      else if v.forced = false then u.complete r { status := stInvalidState }
      else (u.setServo (Dom.ofBit (bitOf (prm r.p 1) 0)) { v with forced := false }).complete r {})) ∧
  (∀ (s u : State) (r : RunCmd), s.Accepts u r 0x16 cmdTimeEpochSet →
    exec .timeEpochSet s = .next (({ u with rs := { u.rs with epoch := some (prm r.p 1) } } : State).complete r {}))

/-- The reference commands: a candidate's configuration, keeping its priority; priorities in force from the next boundary; the
loop of a tracking domain opened, closed and corrected. -/
def Obligations.ReferenceCommands : Prop :=
  (∀ (s u : State) (r : RunCmd), s.Accepts u r 0x20 cmdRefConfigure → exec .refConfigure s = .next (
      if 10 < prm r.p 1 then u.complete r { status := stInvalidParam }
      else (((u.wr (RS_CANDn_CFG (prm r.p 1)) (prm r.p 2 + u.candPrio (prm r.p 1))).wr (RS_CANDn_DELAY (prm r.p 1))
        (prm r.p 3)).candReconfigure (prm r.p 1)).complete r {})) ∧
  (∀ (s u : State) (r : RunCmd), s.Accepts u r 0x21 cmdRefPriority → u.cp.prioReq = none → ∃ v, exec .refPriority s =
      .next (({ u with cp := { u.cp with prioReq := some (prm r.p 1 ||| 0, v) } } : State).complete r {}) ∧
      ∀ i < 11, field v (4 * i) 4 = if bitOf (prm r.p 1) i then field (prm r.p 2) (4 * i) 4 else 0) ∧
  (∀ (s u : State) (r : RunCmd), s.Accepts u r 0x22 cmdRefLoopOpen → ∀ d, d = Dom.ofBit (prm r.p 1 = 1) →
    exec .refLoopOpen s = .next (
      if (u.servo d).st ≠ .track ∨ (u.servo d).openLoop = true then u.complete r { status := stInvalidState }
      else (u.setServo d { u.servo d with openReq := true }).complete r {})) ∧
  (∀ (s u : State) (r : RunCmd), s.Accepts u r 0x23 cmdRefLoopClose → ∀ d, d = Dom.ofBit (prm r.p 1 = 1) →
    exec .refLoopClose s = .next (
      if (u.servo d).openLoop = false then u.complete r { status := stInvalidState }
      else (u.setServo d { u.servo d with closeReq := true }).complete r {})) ∧
  (∀ (s u : State) (r : RunCmd), s.Accepts u r 0x24 cmdRefCorrect → ∀ d, d = Dom.ofBit (bitOf (prm r.p 1) 0) →
    exec .refCorrect s = .next (
      if (u.servo d).openLoop = false ∨ (u.servo d).forced = true then u.complete r { status := stInvalidState }
      else if bitOf (prm r.p 1) 8 = true then
        ((if (u.servo d).corrR.isSome = true then u.count RS_CNT_CORR else u).setServo d
          { u.servo d with corrR := some (toSigned 64 (prm r.p 2)) }).complete r {}
      else ((if (u.servo d).corrP.isSome = true then u.count RS_CNT_CORR else u).setServo d
          { u.servo d with corrP := some (toSigned 64 (prm r.p 2)) }).complete r {}))

/-- The commands of the interval unit, of the pulse outputs (an arm that nothing refuses, and a cancel), of the clock
output and of the power manager, with each refusal as its row states. -/
def Obligations.IntervalPulseClockAndPowerCommands : Prop :=
  (∀ (s u : State) (r : RunCmd), s.Accepts u r 0x30 cmdIntervalArm → exec .intervalArm s = .next (u.imArm.complete r
      { status := if u.armOk then stDone else stInvalidState, d := [u.imArm.imStat] })) ∧
  (∀ (s u v : State) (r : RunCmd), s.Accepts u r 0x31 cmdIntervalAbort →
    v = { u with im := { u.im with shot := none, st := .aborted, reason := 1, claimDone := u.im.claim.isSome } } →
    exec .intervalAbort s = .next (
      if u.imBusy then v.complete r { d := [v.imStat] } else u.complete r { status := stInvalidState, d := [u.imStat] })) ∧
  (∀ (s u : State) (r : RunCmd) (t : Int), s.Accepts u r 0x90 cmdPulseArm → timeParam r.p 2 = some t →
    u.pulseEn (prm r.p 1 % 8) = true → u.pulsePer (prm r.p 1 % 8) = false → u.td.acq = true → u.clk.course + 2 ≤ courseOf t →
    (u.pulse (prm r.p 1 % 8)).pending.length < 4 →
    exec .pulseArm s = .next ((u.addPulse (prm r.p 1 % 8)
      { target := t, width := field (prm r.p 1) 8 8, src := .host } u.clk.course).complete r {})) ∧
  (∀ (s u : State) (r : RunCmd) (t : Int), s.Accepts u r 0x91 cmdPulseCancel → timeParam r.p 2 = some t →
    exec .pulseCancel s = .next (match (u.pulse (prm r.p 1)).pending.find? fun q => q.target = t with
      | none => u.complete r { status := stInvalidParam }
      | some q => (u.modPulse (prm r.p 1) fun v => { v with pending := v.pending.erase q }).complete r {})) ∧
  (∀ (s u : State) (r : RunCmd), s.Accepts u r 0xA0 cmdClockClkout →
    exec .clockClkout s = .next ((u.clkoutWrite (prm r.p 1)).complete r { d := [(u.clkoutWrite (prm r.p 1)).cgStat] })) ∧
  (∀ (s u v : State) (r : RunCmd), s.Accepts u r 0x80 cmdPowerEnter →
    v = { u with pw := { u.pw with req := prm r.p 1, reqIdle := false } } → exec .powerEnter s = .next (
      if prm r.p 1 < 1 ∨ 2 < prm r.p 1 then u.complete r { status := stInvalidParam }
      else if prm r.p 1 = 2 ∧ u.isRidge then u.complete r { status := stNotInRole }
      else if u.bit PW_CTL (prm r.p 1 - 1) then v.complete r {}
      else u.complete r { status := stInvalidState }))

/-- The sequencer's commands: the load of a program from memory, the start and the stop with each refusal as its row states,
and at an eave the arming of an event, accepted, and its cancelling.  That an event of an eave alone has EVENT_ID 0 is the
model's choice (log entry 60). -/
def Obligations.SequencerCommands : Prop :=
  (∀ (s u : State) (r : RunCmd), s.Accepts u r 0x40 cmdSeqLoad → exec .seqLoad s = .next (
      if prm r.p 3 < 1 ∨ 16384 < prm r.p 3 ∨ 16384 < prm r.p 2 + prm r.p 3 then u.complete r { status := stInvalidParam }
      else if u.sq.st.writable = false then u.complete r { status := stInvalidState }
      else (u.readFrom r (prm r.p 1) (8 * prm r.p 3)).settle r)) ∧
  (∀ (s u : State) (r : RunCmd), s.Accepts u r 0x41 cmdSeqStart → exec .seqStart s = .next (
      if u.sq.st = .idle ∨ u.sq.st = .running ∨ u.sq.st = .held ∨ u.td.acq = false then u.complete r { status := stInvalidState }
      else if u.sq.len ≤ prm r.p 1 ∨ (bitOf (prm r.p 4) 32 = false ∧ prm r.p 3 < u.clk.course + 8) then
        u.complete r { status := stInvalidParam }
      else (u.setSq { u.sq with start := some {
        addr := prm r.p 1, step := prm r.p 2, course := prm r.p 3, tol := prm r.p 4 % 65536
        vote := if bitOf (prm r.p 4) 31 then some (field (prm r.p 4) 16 10) else none, handle := field (prm r.p 4) 16 10
        hold := bitOf (prm r.p 4) 32, g := r.p.drop 4 } }).complete r { d := [u.progCrc] })) ∧
  (∀ (s u : State) (r : RunCmd), s.Accepts u r 0x42 cmdSeqStop → exec .seqStop s = .next (
      if u.sq.st ≠ .running ∧ u.sq.st ≠ .held then u.complete r { status := stInvalidState }
      else if prm r.p 1 ≠ 0 ∧ prm r.p 1 ≤ u.clk.course then u.complete r { status := stInvalidParam }
      else (u.setSq { u.sq with stop := some (prm r.p 1) }).complete r {})) ∧
  (∀ (s u : State) (r : RunCmd) (t : Int), s.Accepts u r 0x43 cmdSeqArm → timeParam r.p 2 = some t → u.isEave = true →
    eventKind (prm r.p 1) = true → u.clk.course + 2 ≤ courseOf t → u.ev.events.length < 16 →
    exec .seqArm s =
      .next ((u.takeEvent { id := 0, kind := prm r.p 1, target := t, arg := prm r.p 4 }).complete r { d := [0] })) ∧
  (∀ (s u : State) (r : RunCmd), s.Accepts u r 0x44 cmdSeqCancel → u.isEave = true →
    exec .seqCancel s = .next ((u.cancelEvent (prm r.p 1)).complete r {}))

/-- The commands of objects and contexts, with each refusal as its row states: a context defined, cleared and released,
slots initialised, waiters woken and an operation applied once the handle is translated to its slots. -/
def Obligations.ObjectCommands : Prop :=
  (∀ (s u : State) (r : RunCmd), s.Accepts u r 0x50 cmdObjCtxDefine → ∀ x n segs, x = prm r.p 1 % 256 → n = field (prm r.p 1) 16 3 →
    segs = (List.range n).map (fun j => (prm r.p (j + 2) / 65536, prm r.p (j + 2) % 65536 + 1)) →
    exec .objCtxDefine s = .next (
      if n < 1 ∨ 4 < n then u.complete r { status := stInvalidParam }
      else if (u.ctx x).st ≠ .undef then u.complete r { status := stInvalidState }
      else if u.segsOk x segs = false then u.complete r { status := stInvalidParam }
      else (u.modCtx x fun c => { gen := c.gen, clear := c.clear, st := .active, ovf := bitOf (prm r.p 1) 8, segs := segs }).complete r {})) ∧
  (∀ (s u v : State) (r : RunCmd) (ks : List Nat), s.Accepts u r 0x51 cmdObjInit → 1 ≤ prm r.p 2 → prm r.p 2 ≤ 65536 →
    1 ≤ prm r.p 3 → prm r.p 3 ≤ 3 → (prm r.p 3 = 3 → 1 ≤ prm r.p 4 ∧ prm r.p 4 ≤ 65536) → (u.ctx (hCtx (prm r.p 1))).st ≠ .undef →
    u.transRange (prm r.p 1) false (prm r.p 2) [] = (v, some (.inr ks)) →
    exec .objInit s = .next ((v.dropTrans.each ks fun s k => s.initSlot (hCtx (prm r.p 1)) k (prm r.p 3) (prm r.p 4)).complete r
      { d := [ks.length] })) ∧
  (∀ (s u : State) (r : RunCmd), s.Accepts u r 0x52 cmdObjCtxClear → exec .objCtxClear s = .next (
      match (u.ctx (prm r.p 1)).st with
      | .undef => u.complete r { status := stInvalidState }
      | .scrub => u.complete r { status := stBusy }
      | .active => (u.clearCtx (prm r.p 1)).complete r { d := [((u.clearCtx (prm r.p 1)).ctx (prm r.p 1)).gen] })) ∧
  (∀ (s u : State) (r : RunCmd), s.Accepts u r 0x53 cmdObjCtxRelease → exec .objCtxRelease s = .next (
      match (u.ctx (prm r.p 1)).st with
      | .undef => u.complete r { status := stInvalidState }
      | .scrub => u.complete r { status := stBusy }
      | .active => (u.releaseCtx (prm r.p 1)).complete r {})) ∧
  (∀ (s u v : State) (r : RunCmd) (k : Nat), s.Accepts u r 0x54 cmdObjWake → (u.ctx (hCtx (prm r.p 1))).st ≠ .undef →
    u.commandTrans (prm r.p 1) true = (v, some (.slot k)) →
    exec .objWake s = .next (((v.od.waiters.filter fun w => w.slot = k).foldl (fun s w => s.failWaiter w rWake) v.dropTrans).complete r
      { d := [(v.od.waiters.filter fun w => w.slot = k).length] })) ∧
  (∀ (s u v : State) (r : RunCmd) (k : Nat), s.Accepts u r 0x55 cmdObjOp → (u.ctx (hCtx (prm r.p 1))).st ≠ .undef → u.odOn = true →
    u.commandTrans (prm r.p 1) true = (v, some (.slot k)) → ∀ q, q = v.dropTrans.opAt (prm r.p 2) (prm r.p 3) (prm r.p 1) k →
    exec .objOp s = .next (q.1.complete r { detail := q.2.1, d := [q.2.2] }))

/-- The commands of collectives and of ports, with each refusal as its row states (coll.abort at an eave), and the end of
the calibration of a port. -/
def Obligations.CollectiveAndPortCommands : Prop :=
  (∀ (s u : State) (r : RunCmd), s.Accepts u r 0x60 cmdCollDefine → ∀ h f, h = prm r.p 1 → f = prm r.p 3 →
    exec .collDefine s = .next (
      if (u.handle h).isSome then u.complete r { status := stInvalidState }
      else if collParamsOk (field f 16 8) (field f 24 4) (field f 28 4) (field f 32 5) (bitOf f 41) (bitOf f 48) = false then
        u.complete r { status := stInvalidParam }
      else (u.setHandle h (some {
        cid := prm r.p 2, group := field f 0 12, dom := Dom.ofBit (bitOf f 12), op := field f 16 8
        fmt := if field f 16 8 = 0 then 0 else field f 24 4, rfmt := if field f 16 8 = 0 then 0 else field f 28 4
        lanes := field f 32 5, move := bitOf f 40, sat := bitOf f 41
        arriveObj := if bitOf f 48 then some (prm r.p 4 % 2 ^ 24) else none
        doneObj := if bitOf f 49 then some (prm r.p 4 / 2 ^ 32) else none })).complete r {})) ∧
  (∀ (s u : State) (r : RunCmd), s.Accepts u r 0x61 cmdCollRelease → exec .collRelease s = .next (
      match u.handle (prm r.p 1) with
      | none => u.complete r { status := stInvalidState }
      | some hd => if hd.insts ≠ [] then u.complete r { status := stBusy } else (u.setHandle (prm r.p 1) none).complete r {})) ∧
  (∀ (s u : State) (r : RunCmd), s.Accepts u r 0x62 cmdCollAbort → u.isEave = true → exec .collAbort s = .next (
      match u.handle (prm r.p 1) with
      | none => u.complete r { status := stInvalidState }
      | some hd =>
        if hd.insts = [] then u.complete r { status := stInvalidState }
        else (hd.insts.foldl (fun s i => s.abortReq hd.cid i.isn i.attempt (hd.domOf i.attempt) 0x01 0) u).complete r {})) ∧
  (∀ (s u : State) (r : RunCmd), s.Accepts u r 0x70 cmdPortCalibrate → exec .portCalibrate s = .next (
      if u.nPorts ≤ prm r.p 1 ∨ prm r.p 2 < 1 ∨ 65536 < prm r.p 2 then u.complete r { status := stInvalidParam }
      else if (u.port (prm r.p 1)).role ≠ .unused ∧ (u.port (prm r.p 1)).health ≠ .retired then
        u.complete r { status := stPortInUse }
      else if u.imBusy then u.complete r { status := stBusy }
      else (u.claimEngine (prm r.p 1) (prm r.p 2)).putRun { r with long := true })) ∧
  (∀ (s u : State) (r : RunCmd), s.Accepts u r 0x71 cmdPortRetireRow → ∀ p, p = prm r.p 1 % 512 → exec .portRetire s = .next (
      if u.nPorts ≤ p then u.complete r { status := stInvalidParam }
      else if (u.port p).health = .retired ∨ (u.port p).health = .noTree ∨
          (bitOf (prm r.p 1) 16 = false ∧ (u.port p).health = .live ∧ u.lastUplink p = true) then
        u.complete r { status := stInvalidState }
      else (u.modPort p fun v => { v with cmdRetire := true }).complete r {})) ∧
  (∀ (s u : State) (r : RunCmd), s.Accepts u r 0x72 cmdPortRestoreRow → ∀ p, p = prm r.p 1 → exec .portRestore s = .next (
      if u.nPorts ≤ p then u.complete r { status := stInvalidParam }
      else match (u.port p).health with
        | .probation => (u.modPort p fun v => { v with score := 0, cmdLive := true }).complete r {}
        | .retired => (u.startAdmission p).complete r {}
        | _ => u.complete r { status := stInvalidState })) ∧
  (∀ (s u : State) (r : RunCmd), s.Accepts u r 0x73 cmdPortSpareRow → ∀ p, p = prm r.p 1 → exec .portSpareAdmit s = .next (
      if u.nPorts ≤ p then u.complete r { status := stInvalidParam }
      else if (u.port p).health = .retired then
        ((((u.modPort p fun v => { v with peerExp := prm r.p 2 }).startAdmission p)).judged p Port.rejudged).complete r {}
      else u.complete r { status := stInvalidState })) ∧
  (∀ (s : State) (p : Nat), s.up = true → s.im.claim = some p → s.im.claimDone = true → s.cp.run = [] →
    exec .portCalibrateDone s = .next (({ s with im := { s.im with claim := none, claimDone := false } } : State).modPort p fun q =>
      { q with cal := { running := false, n := (s.im.stats.get {} 0).n, lost := (s.im.stats.get {} 0).missed
                        mean := (s.im.stats.get {} 0).mean, sdev := (s.im.stats.get {} 0).sdev } }))

/-! ### The step sequencer -/

/-- The 37 program instructions: an instruction within the program that raises no fault does what its opcode means; past the
end of the program the sequencer enters FAULT with code 3, and a faulty instruction enters it with its own code; outside
RUNNING nothing happens. -/
def Obligations.InstructionsRunByTheirOpcodes : Prop :=
  ∀ e ∈ programRows, ∀ (s u : State) (f : SeqArgs),
    (s.Runs u e.2 f → ∃ m, sqMeaning e.2 f (s.clk.course + 1) = some m ∧ exec (e.1 f) s = .next (m u).after) ∧
    (s.up = true → s.isEave = true → s.sq.st = .running → u = (s.busy.openGate 1).openGate 9 → s.sq.len ≤ s.sq.pc →
      exec (e.1 f) s = .next (u.seqFault 3)) ∧
    (∀ c, s.up = true → s.isEave = true → s.sq.st = .running → u = (s.busy.openGate 1).openGate 9 → s.sq.pc < s.sq.len →
      u.opFault e.2 true f = some c → exec (e.1 f) s = .next (u.seqFault c)) ∧
    (s.up = true → (s.isEave = false ∨ s.sq.st ≠ .running) → exec (e.1 f) s = .next s)

/-- The instructions that write a register: each writes its value modulo 2^64 into g[D] with its attribute, leaves every other
register, the program store and the digest, and the program goes on at the next instruction; nothing else changes. -/
def Obligations.RegisterInstructions : Prop :=
  ∀ (s u : State) (f : SeqArgs), ∀ e ∈ [
    (Instr.li f, 0x10, f.imm32, true), (.lih f, 0x11, field f.x 0 32 * 2 ^ 32 + s.g f.d % 2 ^ 32, s.gAgreed f.d),
    (.mov f, 0x12, s.g f.a, s.gAgreed f.a), (.add f, 0x13, s.g f.a + s.g f.b, s.gAgreed f.a && s.gAgreed f.b),
    (.sub f, 0x14, s.g f.a + 2 ^ 64 - s.g f.b, s.gAgreed f.a && s.gAgreed f.b),
    (.and f, 0x15, s.g f.a &&& s.g f.b, s.gAgreed f.a && s.gAgreed f.b),
    (.or f, 0x16, s.g f.a ||| s.g f.b, s.gAgreed f.a && s.gAgreed f.b),
    (.xor f, 0x17, s.g f.a ^^^ s.g f.b, s.gAgreed f.a && s.gAgreed f.b), (.addi f, 0x18, s.g f.a + f.imm32, s.gAgreed f.a),
    (.shl f, 0x19, s.g f.a * 2 ^ f.sh, s.gAgreed f.a), (.shr f, 0x1A, s.g f.a / 2 ^ f.sh, s.gAgreed f.a),
    (.sar f, 0x1B, ofSigned 64 (toSigned 64 (s.g f.a) / ((2 ^ f.sh : Nat) : Int)), s.gAgreed f.a),
    (.mul f, 0x1C, s.g f.a * s.g f.b, s.gAgreed f.a && s.gAgreed f.b),
    (.minu f, 0x1D, min (s.g f.a) (s.g f.b), s.gAgreed f.a && s.gAgreed f.b),
    (.maxu f, 0x1E, max (s.g f.a) (s.g f.b), s.gAgreed f.a && s.gAgreed f.b), (.rdstep f, 0x20, s.sq.step, true),
    (.rdcrs f, 0x21, s.clk.course + 1, false), (.rdte f, 0x22, s.td.te, false), (.rdlr f, 0x23, s.sq.reports.word, false)],
    s.Runs u e.2.1 f → ∃ t, exec e.1 s = .next t ∧ t.g f.d = e.2.2.1 % 2 ^ 64 ∧ t.gAgreed f.d = e.2.2.2 ∧
      (∀ k, k % 16 ≠ f.d % 16 → t.g k = s.g k ∧ t.gAgreed k = s.gAgreed k) ∧ t.sq.pc = s.sq.pc + 1 ∧ t.sq.st = .running ∧
      t.sq.store = s.sq.store ∧ t.sq.acc = s.sq.acc ∧ t.sq.arms = s.sq.arms ∧
      t.sq.reports = (if e.2.1 = 0x23 then {} else s.sq.reports) ∧ t.still = ({ s with sq := t.sq } : State).still

/-- The instructions of control flow: the program counter each leaves, the record of a branch in the digest, the wait of
WAITC, the stop of HALT, the step that STEPEND ends and its waits for a vote in flight and for room, and what LCFG sets; none
writes a register. -/
def Obligations.ControlInstructions : Prop :=
  ∀ (s u : State) (f : SeqArgs),
    (s.Runs u 0x00 f → ∃ t, exec (.nop f) s = .next t ∧ t.sq.pc = s.sq.pc + 1 ∧ t.sq.g = s.sq.g ∧ t.sq.acc = s.sq.acc ∧
      t.still = ({ s with sq := t.sq } : State).still) ∧
    (s.Runs u 0x02 f → ∃ t, exec (.jmp f) s = .next t ∧ t.sq.pc = f.addr ∧ t.sq.g = s.sq.g ∧ t.sq.acc = s.sq.acc ∧
      t.still = ({ s with sq := t.sq } : State).still) ∧
    (s.Runs u 0x03 f → ∃ t, exec (.br f) s = .next t ∧
      t.sq.pc = (if condHolds f.d (s.g f.a) (s.g f.b) = true then f.addr else s.sq.pc + 1) ∧ t.sq.g = s.sq.g ∧
      t.sq.acc = crcWord (crcBytes s.sq.acc (leBytes 2 s.sq.pc ++ [0x03, 0, 0, 0, 0, 0])) (bnat (condHolds f.d (s.g f.a) (s.g f.b))) ∧
      t.still = ({ s with sq := t.sq } : State).still) ∧
    (s.Runs u 0x04 f → ∃ t, exec (.bri f) s = .next t ∧
      t.sq.pc = (if condHolds f.d (s.g f.a) f.imm16 = true then f.addr else s.sq.pc + 1) ∧ t.sq.g = s.sq.g ∧
      t.sq.acc = crcWord (crcBytes s.sq.acc (leBytes 2 s.sq.pc ++ [0x04, 0, 0, 0, 0, 0])) (bnat (condHolds f.d (s.g f.a) f.imm16)) ∧
      t.still = ({ s with sq := t.sq } : State).still) ∧
    (s.Runs u 0x06 f → ∃ t, exec (.waitc f) s = .next t ∧ t.sq.g = s.sq.g ∧ t.sq.st = .running ∧
      (s.waitCourse f ≤ s.clk.course + 1 → t.sq.pc = s.sq.pc + 1 ∧ t.sq.wait = false) ∧
      (s.clk.course + 1 < s.waitCourse f → t.sq.pc = s.sq.pc ∧ t.sq.wait = true ∧ t.sq.waitC = some (s.waitCourse f) ∧
        t.sq.acc = s.sq.acc) ∧ t.still = ({ s with sq := t.sq } : State).still) ∧
    (s.Runs u 0x01 f → s.sq.arms = [] → ∃ t, exec (.halt f) s = .next t ∧ t.sq.st = .stopped ∧ t.sq.code = 1 ∧
      t.sq.pc = s.sq.pc + 1 ∧ t.sq.g = s.sq.g ∧ t.td = s.td ∧ t.regs = s.regs) ∧
    (s.Runs u 0x05 f → s.sq.voteEn = false → s.gang.inGang = false → ∃ t, exec (.stepend f) s = .next t ∧
      t.sq.digest = s.sq.acc ∧ t.sq.step = (s.sq.step + 1) % 2 ^ 64 ∧ t.sq.acc = crcWord s.sq.crc ((s.sq.step + 1) % 2 ^ 64) ∧
      t.sq.pc = s.sq.pc + 1 ∧ t.sq.g = s.sq.g ∧ t.still = ({ s with sq := t.sq } : State).still) ∧
    (s.Runs u 0x05 f → s.sq.voteEn = true → 4 ≤ s.sq.votes.length + s.sq.gangVotes.length → s.sq.stalled = false →
      ∃ t, exec (.stepend f) s = .next t ∧ t.sq = { s.sq with stalled := true, wait := true } ∧ t.counter SQ_CNT_STALL = (s.counter SQ_CNT_STALL + 1) % 2 ^ 32) ∧
    (s.Runs u 0x05 f → s.sq.voteEn = true → s.gang.inGang = false → s.sq.votes.length + s.sq.gangVotes.length < 4 →
      ∀ hd, s.handle s.sq.voteHandle = some hd → hd.op = 0x07 → s.ceOn = true → (hd.room = false ∨ 1024 ≤ s.inFlight) →
      s.sq.stalled = false → ∃ t, exec (.stepend f) s = .next t ∧ t.sq = { s.sq with stalled := true, wait := true } ∧ t.ce = s.ce ∧
      t.counter CE_CNT_WAIT = (s.counter CE_CNT_WAIT + 1) % 2 ^ 32) ∧
    (s.Runs u 0x30 f → ∃ t, exec (.lcfg f) s = .next t ∧ t.sq.n = field f.x 0 8 ∧ t.sq.tol = min (field f.x 8 16) 0xFFFE ∧
      t.sq.pc = s.sq.pc + 1 ∧ t.sq.g = s.sq.g ∧ t.sq.acc = s.sq.acc ∧ t.still = ({ s with sq := t.sq } : State).still)

/-- The instructions with an effect outside the sequencer: ARM sends its word while the table has a free entry and waits
while it has none, a tap that is not served reports TAPOFF, ARMM arms every tap of its mask, all served, while the table has
entries for them and waits while it has none, CANCEL sends a word to each tap of its mask that is served; a pulse and a freeze
are requested, or dropped, counted and reported; CONTRIB starts an instance, on an undefined handle leaves a local outcome, and
without room waits, counted once; WAITR gives the reason of an outcome and waits while there is none, RESULT gives a lane of
an outcome, or 0 of a failed one; DEADL keeps a deadline for the next instance; OBJOP gives the result of its request. -/
def Obligations.EffectInstructions : Prop :=
  ∀ (s u : State) (f : SeqArgs),
    (s.Runs u 0x31 f → s.sq.arms.length < 1024 → s.tapServed f.tap = true → ∃ t, exec (.arm f) s = .next t ∧
      t.sq.arms = s.sq.arms ++ [{ tap := f.tap, line := f.line, target := s.target f }] ∧
      t.bt.fly = s.bt.fly ++ [.arm f.tap f.line (s.target f) s.sq.n s.sq.tol] ∧ t.sq.pc = s.sq.pc + 1 ∧ t.sq.g = s.sq.g ∧
      t.counter SQ_CNT_ARM = (s.counter SQ_CNT_ARM + 1) % 2 ^ 32) ∧
    (s.Runs u 0x31 f → 1024 ≤ s.sq.arms.length → s.sq.stalled = false → ∃ t, exec (.arm f) s = .next t ∧
      t.sq.arms = s.sq.arms ∧ t.sq.pc = s.sq.pc ∧ t.sq.wait = true ∧ t.counter SQ_CNT_STALL = (s.counter SQ_CNT_STALL + 1) % 2 ^ 32) ∧
    (s.Runs u 0x31 f → s.sq.arms.length < 1024 → s.tapServed f.tap = false → ∃ t, exec (.arm f) s = .next t ∧
      t.sq.arms = s.sq.arms ∧ t.bt.fly = s.bt.fly ∧ t.irq.getLsbD 20 = true ∧ t.sq.pc = s.sq.pc + 1 ∧
      t.counter SQ_CNT_NOTFIRED = (s.counter SQ_CNT_NOTFIRED + 1) % 2 ^ 32) ∧
    (s.Runs u 0x32 f → s.sq.armLeft = none → s.g f.b = 0 → ∃ t, exec (.armm f) s = .next t ∧ t.sq.arms = s.sq.arms ∧
      t.bt.fly = s.bt.fly ∧ t.sq.pc = s.sq.pc + 1 ∧ t.sq.g = s.sq.g) ∧
    (s.Runs u 0x32 f → s.sq.armLeft = none → ∀ l : List Nat, l = (List.range 64).filter (fun k => bitOf (s.g f.b) k) →
      (s.sq.arms.length + l.length ≤ 1024 → (∀ k ∈ l, s.tapServed k = true) → ∃ t, exec (.armm f) s = .next t ∧
        t.sq.arms = s.sq.arms ++ l.map (fun k => { tap := k, line := f.line, target := s.target f }) ∧
        t.bt.fly = s.bt.fly ++ l.map (fun k => .arm k f.line (s.target f) s.sq.n s.sq.tol) ∧ t.sq.pc = s.sq.pc + 1 ∧ t.sq.g = s.sq.g) ∧
      (1024 ≤ s.sq.arms.length → l ≠ [] → ∃ t, exec (.armm f) s = .next t ∧ t.sq.arms = s.sq.arms ∧ t.bt.fly = s.bt.fly ∧
        t.sq.pc = s.sq.pc ∧ t.sq.wait = true ∧ t.sq.g = s.sq.g)) ∧
    (s.Runs u 0x33 f → ∃ t, exec (.cancel f) s = .next t ∧
      t.bt.fly = s.bt.fly ++ ((List.range 64).filter fun k => bitOf (s.g f.b) k && s.tapServed k).map (fun k => .cancel k f.line (s.target f)) ∧
      t.sq.arms = s.sq.arms ∧ t.sq.pc = s.sq.pc + 1 ∧ t.sq.g = s.sq.g) ∧
    (s.Runs u 0x34 f → ∃ t, exec (.pulse f) s = .next t ∧ t.sq.pc = s.sq.pc + 1 ∧ t.sq.g = s.sq.g ∧
      (s.pulseRefused f.out (s.target f) (s.clk.course + 1) = true → t.ev = s.ev ∧ t.irq = (s.raise 30).irq ∧
        t.counter SQ_CNT_PLS_DROP = (s.counter SQ_CNT_PLS_DROP + 1) % 2 ^ 32) ∧
      (s.pulseRefused f.out (s.target f) (s.clk.course + 1) = false → (t.pulse f.out).pending =
        insertPulse (s.pulse f.out).pending { target := s.target f, width := max 1 f.w8, src := .program })) ∧
    (s.Runs u 0x35 f → ∃ t, exec (.frz f) s = .next t ∧ t.sq.pc = s.sq.pc + 1 ∧ t.sq.g = s.sq.g ∧ t.td = s.td ∧
      (s.td.acq = false ∨ courseOf (s.target f) < s.clk.course + 3 → t.ev = s.ev ∧ t.irq = (s.raise 30).irq ∧
        t.counter SQ_CNT_FRZ_DROP = (s.counter SQ_CNT_FRZ_DROP + 1) % 2 ^ 32) ∧
      (s.td.acq = true → s.clk.course + 3 ≤ courseOf (s.target f) → s.ev.freezes = [] → s.ev.lastRise = none →
        t.ev.freezes = [{ rise := gridAtOrAfter (s.target f), id := f.w8 % 65536, src := .program, target := s.target f }] ∧ t.irq = s.irq)) ∧
    (s.Runs u 0x40 f → s.handle (s.seqHandle f) = none → ∃ t, exec (.contrib f) s = .next t ∧
      s.seqHandle f ∈ t.sq.nodef ∧ t.sq.pc = s.sq.pc + 1 ∧ t.sq.g = s.sq.g ∧ t.ce = s.ce) ∧
    (s.Runs u 0x40 f → ∀ hd, s.handle (s.seqHandle f) = some hd → s.ceOn = true → hd.room = true → s.inFlight < 1024 →
      ∃ t, exec (.contrib f) s = .next t ∧ s.seqHandle f ∉ t.sq.nodef ∧ t.sq.pc = s.sq.pc + 1 ∧ t.sq.g = s.sq.g ∧
      t.ce = (u.startInst (s.seqHandle f) hd (u.contribData f hd).1 (u.contribData f hd).2.1 (u.contribData f hd).2.2).ce) ∧
    (s.Runs u 0x40 f → ∀ hd, s.handle (s.seqHandle f) = some hd → s.ceOn = true → (hd.room = false ∨ 1024 ≤ s.inFlight) →
      s.sq.stalled = false → ∃ t, exec (.contrib f) s = .next t ∧ t.sq = { s.sq with stalled := true, wait := true } ∧ t.ce = s.ce ∧
      t.counter CE_CNT_WAIT = (s.counter CE_CNT_WAIT + 1) % 2 ^ 32) ∧
    (s.Runs u 0x41 f → ∀ o, s.collOutcome (s.seqHandle f) = some o → ∃ t, exec (.waitr f) s = .next t ∧
      t.g f.d = o.reason % 2 ^ 64 ∧ t.gAgreed f.d = true ∧ t.sq.pc = s.sq.pc + 1) ∧
    (s.Runs u 0x41 f → s.collOutcome (s.seqHandle f) = none → ∃ t, exec (.waitr f) s = .next t ∧
      t.sq.g = s.sq.g ∧ t.sq.pc = s.sq.pc ∧ t.sq.wait = true) ∧
    (s.Runs u 0x42 f → ∀ o v, s.collOutcome (s.seqHandle f) = some o → o.reason = 0 → bitOf o.status 4 = false →
      o.results[f.lane]? = some v → ∃ t, exec (.result f) s = .next t ∧ t.g f.d = v % 2 ^ 64 ∧ t.gAgreed f.d = true ∧ t.sq.pc = s.sq.pc + 1) ∧
    (s.Runs u 0x42 f → ∀ o, s.collOutcome (s.seqHandle f) = some o → o.reason ≠ 0 →
      ∃ t, exec (.result f) s = .next t ∧ t.g f.d = 0 ∧ t.gAgreed f.d = true ∧ t.sq.pc = s.sq.pc + 1) ∧
    (s.Runs u 0x43 f → ∀ hd, s.handle (s.seqHandle f) = some hd → hd.inst (hd.isn - 1) = none → ∃ t, exec (.deadl f) s = .next t ∧
      t.handle (s.seqHandle f) = some { hd with deadline := some (s.waitCourse f) } ∧ t.sq.pc = s.sq.pc + 1 ∧ t.sq.g = s.sq.g) ∧
    (s.Runs u 0x50 f → ∀ v res x, u.programOp (field f.x 0 8) (s.g f.a) (s.g f.b) = (v, some (res, x)) → v.sq = s.sq →
      ∃ t, exec (.objop f) s = .next t ∧ t.g f.d = (res * 2 ^ 56 + x % 2 ^ 32) % 2 ^ 64 ∧ t.gAgreed f.d = false ∧
        t.sq.pc = s.sq.pc + 1 ∧ t.od = v.od)

/-- The program store, the start and the stop of a program, and the reports of its launches: a write reaches the store only
while no program is held or runs; a start acts at its boundary, with or without hold; a stop and the events START and STOP
act at theirs; a report frees its entry and is counted; an arm with no report two courses after its target is lost. -/
def Obligations.ProgramRows : Prop :=
  (∀ (s : State) (k w : Nat), s.Serving → s.isEave = true → k < 16384 → w < 2 ^ 64 →
    (s.sq.st.writable = true → ∃ t, exec (.programStoreWrite k w) s = .next t ∧ t.word k = w ∧ (∀ j, j ≠ k → t.word j = s.word j) ∧
      t.sq.len = max s.sq.len (k + 1) ∧ t.sq.st = .loaded ∧ t.sq.code = 0 ∧ t.sq.g = s.sq.g ∧ t.td = s.td ∧ t.regs = s.regs) ∧
    (s.sq.st.writable = false → ∃ t, exec (.programStoreWrite k w) s = .next t ∧ t.sq = s.sq ∧
      t.counter SQ_CNT_STALL = (s.counter SQ_CNT_STALL + 1) % 2 ^ 32)) ∧
  (∀ (s : State) (r : StartReq) (nc : Nat), s.up = true → s.isEave = true → s.sq.start = some r → s.sq.st ≠ .running →
    s.sq.st ≠ .held → nc = s.clk.course + 1 →
    (r.hold = true → exec .programStart s = .next (s.setSq { s.sq with
      st := .held, code := 0, step := r.step, voteEn := r.vote.isSome, voteHandle := r.handle })) ∧
    (r.hold = false → (nc < r.course ∨ s.td.acq = false) → exec .programStart s = .next s) ∧
    (r.hold = false → r.course ≤ nc → s.td.acq = true → ∃ v : State, exec .programStart s = .next (v.runBurst nc) ∧
      v.sq.st = .running ∧ v.sq.pc = r.addr ∧ v.sq.step = r.step % 2 ^ 64 ∧ v.sq.startCourse = nc ∧ v.sq.n = 0 ∧
      v.sq.tol = min r.tol 0xFFFE ∧ v.sq.crc = s.progCrc ∧ v.sq.agreed = 0xFFFF ∧ v.sq.voteEn = r.vote.isSome ∧
      v.sq.arms = s.sq.arms ∧ (∀ k < 16, v.g k = r.g.getD k 0 % 2 ^ 64) ∧ v.td = s.td)) ∧
  (∀ (s : State) (c : Nat), s.up = true → s.sq.stop = some c →
    (s.clk.course + 1 < c → exec .programStop s = .next s) ∧
    (c ≤ s.clk.course + 1 → s.sq.st = .running → s.sq.arms = [] → ∃ t, exec .programStop s = .next t ∧ t.sq.st = .stopped ∧
      t.sq.code = 2 ∧ t.sq.stop = none ∧ t.sq.start = none ∧ t.sq.g = s.sq.g ∧ t.td = s.td ∧ t.regs = s.regs)) ∧
  (∀ (s : State) (e : EventRec) (w : State), s.up = true → s.isEave = true → s.dueEvent 3 (s.clk.course + 1) = some (e, w) →
    w.sq = s.sq → w.did = s.did →
    (s.sq.start = none → s.sq.st ≠ .running → exec .eventStart s = .next (w.count SQ_CNT_EVT_DROP)) ∧
    (∀ r, s.sq.start = some r → s.sq.st = .held → ∃ v : State, exec .eventStart s = .next (v.runBurst (s.clk.course + 1)) ∧
      v.sq.st = .running ∧ v.sq.pc = r.addr ∧ v.sq.step = e.arg % 2 ^ 64 ∧ v.sq.startCourse = s.clk.course + 1 ∧ v.ev = w.ev)) ∧
  (∀ (s : State) (e : EventRec) (w : State), s.up = true → s.isEave = true → s.dueEvent 4 (s.clk.course + 1) = some (e, w) →
    w.sq = s.sq →
    (s.sq.st ≠ .running → exec .eventStop s = .next (w.count SQ_CNT_EVT_DROP)) ∧
    (s.sq.st = .running → s.sq.arms = [] → ∃ t, exec .eventStop s = .next t ∧ t.sq.st = .stopped ∧ t.sq.code = 3 ∧
      t.ev.events = w.ev.events ∧ t.td = w.td)) ∧
  (∀ (s : State) (nc : Nat), s.up = true → s.isEave = true → nc = s.clk.course + 1 →
    (s.dueEvent 4 nc = none → exec .eventStop s = .next s) ∧
    (s.dueEvent 3 nc = none → s.sq.st ≠ .running → exec .eventStart s = .next s)) ∧
  (∀ (s : State) (r : LaunchReport) (rest : List LaunchReport), s.up = true → s.bt.reports = r :: rest →
    ((ArmRec.mk r.tap r.line r.target) ∉ s.sq.arms →
      exec .reportWord s = .next { s with bt := { s.bt with reports := rest } }) ∧
    ((ArmRec.mk r.tap r.line r.target) ∈ s.sq.arms → ∃ t, exec .reportWord s = .next t ∧ t.bt.reports = rest ∧
      t.sq.arms = s.sq.arms.erase (ArmRec.mk r.tap r.line r.target) ∧
      (r.code = 0 → t.sq.reports.fired = min (s.sq.reports.fired + 1) 0xFFFF ∧
        t.counter SQ_CNT_FIRED = (s.counter SQ_CNT_FIRED + 1) % 2 ^ 32) ∧
      (r.code = 2 → t.sq.reports.refused = min (s.sq.reports.refused + 1) 0xFFFF ∧
        t.counter SQ_CNT_REFUSED = (s.counter SQ_CNT_REFUSED + 1) % 2 ^ 32))) ∧
  (∀ s : State, s.up = true → ((∀ a ∈ s.sq.arms, s.clk.course < courseOf a.target + 2) → exec .reportMissing s = .next s) ∧
    (s.sq.arms ≠ [] → (∀ a ∈ s.sq.arms, courseOf a.target + 2 ≤ s.clk.course) → ∃ t, exec .reportMissing s = .next t ∧
      t.sq.arms = [] ∧ t.counter SQ_CNT_LOSTREP = (s.counter SQ_CNT_LOSTREP + s.sq.arms.length) % 2 ^ 32 ∧
      t.irq = (s.raise 20).irq))

/-- The pulse outputs and the freeze line: a pulse rises in the course of its place and one whose place has passed is
dropped; the end of calibration gives the delay; the rise of EN starts calibration, the rise of PER drops the one-shot
pulses and moves NEXT on; a freeze rises in its course and is noted. -/
def Obligations.PulseAndFreezeRows : Prop :=
  (∀ (s : State) (n : Nat), s.up = true → n < 8 →
    ((s.pulseEn n = false ∨ s.td.acq = false) → exec (.pulseEmit n none) s = .next s) ∧
    (∀ e t, exec (.pulseEmit n none) s = .next t → exec (.pulseEmit n (some e)) s = .next (t.pinEdge (14 + n) false e)) ∧
    (∀ g v, s.pulseEn n = true → s.td.acq = true → s.pulsePer n = true → s.pulsePlace n (s.pulseNext n) = (g, v) →
      ((s.clk.course : Int) * 625 + 625 ≤ g → exec (.pulseEmit n none) s = .next s) ∧
      (g < (s.clk.course : Int) * 625 → exec (.pulseEmit n none) s = .next (s.pulseAdvance n 1))) ∧
    (∀ r rest, s.pulseEn n = true → s.td.acq = true → s.pulsePer n = false → (s.pulse n).pending = r :: rest →
      ∀ g v, s.pulsePlace n r.target = (g, v) →
      ((s.clk.course : Int) * 625 + 625 ≤ g → exec (.pulseEmit n none) s = .next s) ∧
      (g < (s.clk.course : Int) * 625 → exec (.pulseEmit n none) s =
        .next (((s.modPulse n fun q => { q with pending := rest }).count SQ_CNT_PLS_DROP).raise 30)) ∧
      ((s.clk.course : Int) * 625 ≤ g → g < (s.clk.course : Int) * 625 + 625 → ∃ t, exec (.pulseEmit n none) s = .next t ∧
        t.out = .perfEvt 4 1 :: .pulse n g.toNat v r.width :: s.out ∧ (t.pulse n).pending = rest ∧
        (∀ k, k ≠ n → t.pulse k = s.pulse k) ∧ t.counter (SQ_Pn_CNT n) = (s.counter (SQ_Pn_CNT n) + 1) % 2 ^ 32 ∧ t.td = s.td))) ∧
  (∀ (s : State) (n : Nat), s.up = true → n < 8 →
    (((s.pulse n).cal = false ∨ (s.pulse n).calLeft ≠ 0) → exec (.pulseCalDone n) s = .next s) ∧
    ((s.pulse n).cal = true → (s.pulse n).calLeft = 0 → (s.pulse n).calN ≠ 0 → exec (.pulseCalDone n) s =
      .next (s.setPulse n { s.pulse n with
        cal := false, calAt := none, drv := (roundDiv (s.pulse n).calSum (s.pulse n).calN).toNat % 2 ^ 32 })) ∧
    ((s.pulse n).cal = true → (s.pulse n).calLeft = 0 → (s.pulse n).calN = 0 → ∃ x, exec (.pulseCalDone n) s =
      .next (({ s with free := s.free + 1 } : State).setPulse n { s.pulse n with cal := false, calAt := none, drv := x }))) ∧
  (∀ (s u : State) (n v : Nat), s.Serving → n < 8 → u = s.touch .host (SQ_Pn_CFG n).off →
    (v = s.rd (SQ_Pn_CFG n) ||| 2 ^ 31 → v < 2 ^ 32 →
      (s.pulseEn n = true → exec (.pulseOutputEnable n) s = .next (u.wr (SQ_Pn_CFG n) v)) ∧
      (s.pulseEn n = false → exec (.pulseOutputEnable n) s = .next ((u.wr (SQ_Pn_CFG n) v).modPulse n fun p => { p with
        cal := true, calLeft := 256, calAt := none, calSum := 0, calN := 0, expect := none }))) ∧
    (v = s.rd (SQ_Pn_CFG n) ||| 2 ^ 30 → v < 2 ^ 32 →
      (s.pulsePer n = true → exec (.periodicModeSet n) s = .next (u.wr (SQ_Pn_CFG n) v)) ∧
      (s.pulsePer n = false → exec (.periodicModeSet n) s = .next ((((u.wr (SQ_Pn_CFG n) v).dropPending n).modPulse n fun p => { p with
        unlimited := decide (u.rd (SQ_Pn_COUNT n) = 0) }).pulseCatchUp n (s.clk.course + 2))))) ∧
  (∀ (s : State) (r : FreezeReq) (rest : List FreezeReq), s.up = true → s.ev.freezes = r :: rest →
    ((s.clk.course + 1) * 625 ≤ r.rise → exec .freezeEmit s = .next s) ∧
    (r.rise < (s.clk.course + 1) * 625 → s.freezeNear r.rise = true → exec .freezeEmit s =
      .next (((({ s with ev := { s.ev with freezes := rest } } : State).count SQ_CNT_FRZ_DROP)).raise 30)) ∧
    (r.rise < (s.clk.course + 1) * 625 → s.freezeNear r.rise = false → ∃ t, exec .freezeEmit s = .next t ∧ t.ev.freezes = rest ∧ t.ev.lastRise = some r.rise ∧
      t.ev.frzSeq = (s.ev.frzSeq + 1) % 2 ^ 32 ∧ t.ev.frzLast = r.rise / 625 ∧ t.ev.frzId = r.id ∧ t.ev.pulses = s.ev.pulses ∧
      t.out = .perfEvt 5 1 :: .freezeRise r.id s.freezeWidth :: s.out ∧ t.td = s.td ∧ t.regs = s.regs))

/-! ### The batten chain -/

/-- The chain in service: the enable, disable and recalibration bits of BT_CTL, the end of a calibration, the
recalibration of one crossing; one sender cycle of a lane, which finishes the word in transfer, else starts the word that
its order puts first, else sends FILL at a count of 8; the capture of the mark that a lane brings, and nothing where the
tap takes no mark or the lane holds none of the kind; one period with the stretch indication, a FILL word, a word
discarded at a crossing by its kind, and a margin warning. -/
def Obligations.ChainRows : Prop :=
  (∀ (s u : State), s.Serving → s.isEave = true → u = s.touch .host BT_CTL.off → s.rd BT_CTL < 16 → bitOf (s.rd BT_CTL) 2 = false →
    (s.bit BT_CTL 0 = false → s.bt.disPend = false → s.topoBad = false → ∃ t, exec .battenEnable s = .next t ∧
      t.bit BT_CTL 0 = true ∧ t.bt.busy = true ∧ t.bt.done = false ∧ t.bt.topoErr = false ∧
      (∀ n, s.tapEn n = true → (t.tap n).st = .cal ∧ (t.tap n).armed = [] ∧ (t.tap n).wire = [] ∧ (t.tap n).past = (s.tap n).past ∧ (t.tap n).rep = (s.tap n).rep) ∧ t.bt.fly = []) ∧
    (s.bit BT_CTL 0 = false → s.bt.disPend = false → s.topoBad = true → ∃ t, exec .battenEnable s = .next t ∧
      t.bt = { s.bt with topoErr := true } ∧ t.bit BT_CTL 0 = true) ∧
    (s.bit BT_CTL 0 = true → exec .battenEnable s = .next (u.wr BT_CTL (s.rd BT_CTL ||| 1))) ∧
    (s.bit BT_CTL 0 = true → exec .battenDisable s =
      .next { u.wr BT_CTL (s.rd BT_CTL &&& 8) with bt := { s.bt with disPend := true } }) ∧
    (s.bit BT_CTL 0 = true → exec .battenRecal s =
      .next { u.wr BT_CTL (s.rd BT_CTL ||| 4) with bt := { s.bt with recalPend := true } })) ∧
  (∀ (s : State) (rs : List CalResult), s.up = true → s.isEave = true →
    (s.bt.busy = false → exec (.battenCalDone rs) s = .next s) ∧
    (s.bt.busy = true → ∃ t, exec (.battenCalDone rs) s = .next t ∧ t.bt.busy = false ∧ t.bt.done = true ∧
      (∀ n, s.tapEn n = true → ((s.tap n).st = .cal ∨ (s.tap n).st = .fail) → (t.tap n).st = if t.pathOk n then .acq else .fail) ∧
      (s.bt.recal = false → ∀ n, s.tapEn n = true →
        (t.tap n).xfail = !(s.calOk ((rs.find? fun r => r.tap = n).getD { tap := n, back := false }))))) ∧
  (∀ (s : State) (r : CalResult), s.up = true → s.isEave = true → s.tapEn r.tap = true →
    (((s.tap r.tap).flagged = false ∨ s.clk.ticks ≤ (s.tap r.tap).flagTick) → exec (.crossingRecalibration r) s = .next s) ∧
    ((s.tap r.tap).flagged = true → (s.tap r.tap).flagTick < s.clk.ticks → s.calOk r = true →
      exec (.crossingRecalibration r) s =
        .next (s.setTap r.tap { s.tap r.tap with w := r.w, sigma := r.sigma, skew := 0, flagged := false })) ∧
    ((s.tap r.tap).flagged = true → (s.tap r.tap).flagTick < s.clk.ticks → s.calOk r = false → ∃ t, exec (.crossingRecalibration r) s = .next t ∧
      t.bt.calFail = true ∧ (t.tap r.tap).xfail = true ∧ (t.tap r.tap).skew = 0 ∧ (t.tap r.tap).flagged = false)) ∧
  (∀ (s : State) (n : Nat) (v : Tap), v = s.tap n →
    (∀ w c, v.xfer = some (w, c) → s.laneTick n = s.setTap n { v with xfer := none, wire := v.wire ++ [(w, c + v.upStr)], upStr := 0 }) ∧
    (v.xfer = none → ∀ w rest, pickWord (s.boundFor n) (s.waiting n) = some (w, rest) →
      s.boundFor n w = true ∧ w ∈ s.waiting n ∧ (∀ x ∈ s.waiting n, s.boundFor n x = true → x.isFill = false → w.rank ≤ x.rank) ∧
      s.laneTick n = ((s.setWaiting n rest).modTap n fun v => if (s.sent n w).isArm then { v with xfer := some (s.sent n w, v.upStr), upStr := 0 }
        else { v with wire := v.wire ++ [(s.sent n w, v.upStr)], upStr := 0 })) ∧
    (v.xfer = none → pickWord (s.boundFor n) (s.waiting n) = none → s.laneTick n =
      if 8 ≤ v.upStr then s.setTap n { v with wire := v.wire ++ [(.fill, v.upStr)], upStr := 0 } else s)) ∧
  (∀ (s : State) (n : Nat) (w : DownWord), s.ties.up n = none → (s.tap n).xfer = none → (s.tap n).wire = [] → s.bt.fly = [w] → s.boundFor n w = true →
    ∃ z, s.laneForce n = z ∧ z = { s with bt := { s.bt with fly := [], taps := z.bt.taps } } ∧
      z.tap n = { s.tap n with wire := [(w, (s.tap n).upStr)], upStr := 0 } ∧ (∀ k, k ≠ n → z.tap k = s.tap k)) ∧
  (∀ (s v : State) (n edges r : Nat), s.up = true → s.isEave = true → s.tapEn n = true → v = s.tapRun n edges →
    (((v.tap n).serves = false ∨ v.underlay = true ∨ v.markComes n false = false) → exec (.mark n edges r) s = .next v) ∧
    (((v.tap n).serves = false ∨ v.underlay = true ∨ v.markComes n true = false) → exec (.markStep n edges r) s = .next v) ∧
    (∀ z u x m c rest, (v.tap n).serves = true → v.underlay = false → v.markComes n m.step = true → z = v.laneForce n →
      (z.tap n).wire = (.mark x m, c) :: rest → u = (z.setTap n { z.tap n with wire := rest }).wordIn n c →
      ∃ t, exec (if m.step then .markStep n edges r else .mark n edges r) s = .next t ∧
        exec (if m.step then .mark n edges r else .markStep n edges r) s = .next v ∧
        (t.tap n).age = m.age + (u.tap n).w + r ∧ (t.tap n).since = 0 ∧
        (t.tap n).pend = some ({ m with age := m.age + (u.tap n).w + r }, (u.tap n).since) ∧ (t.tap n).t = (u.tap n).t ∧
        (t.tap n).capT = (u.tap n).t ∧ (t.tap n).hold = 0 ∧
        (t.tap n).q = (u.tap n).q ++ (u.nextDown n).map (fun k => .mark k { m with age := m.age + (u.tap n).w + r }) ∧
        (∀ k, k ≠ n → t.tap k = u.tap k) ∧ t.bt.ageMax = max u.bt.ageMax (m.age + (u.tap n).w + r) ∧
        t.bt.guardErr = (u.bt.guardErr || decide (u.guardUnits < m.age + (u.tap n).w + r)) ∧ t.td = u.td ∧ t.out = u.out)) ∧
  (∀ (s : State) (n : Nat), s.up = true → s.isEave = true → s.tapEn n = true → s.ties.up n ≠ some n →
    ((s.tap n).st = .off → (s.tap n).past = [] → (s.tap n).lines = [] → (s.tap n).nsw = false → exec (.stretchIndication n 1) s = .next s) ∧
    ((s.tap n).st = .track → (s.tap n).pend = none → (s.tap n).armed = [] → (s.tap n).past = [] → (s.tap n).lines = [] →
      (s.tap n).nsw = false → s.bt.fly = [] → (s.tap n).q = [] → (∀ k, (s.tap k).xfer = none ∧ (s.tap k).upStr < 8) →
      ∃ t, exec (.stretchIndication n 1) s = .next t ∧ (t.tap n).str = true ∧
      (t.tap n).t = (s.tap n).t + (s.tap n).period (s.stretch n) ∧
      (t.tap n).skew = (s.tap n).skew - s.stretch n ∧
      (∀ k, s.tapEn k = true → s.ties.up k = some n → (t.tap k).upStr = (s.tap k).upStr + 1))) ∧
  (∀ (s v : State) (n edges : Nat), s.up = true → s.isEave = true → s.tapEn n = true → v = s.tapRun n edges →
    ((v.laneWords n).any DownWord.isFill = false → (v.tap n).upStr < 8 → exec (.fillWord n edges) s = .next v) ∧
    (∀ z c rest, ((v.laneWords n).any DownWord.isFill = true ∨ 8 ≤ (v.tap n).upStr) → z = v.laneForce n → (z.tap n).wire = (.fill, c) :: rest →
      ∃ t, exec (.fillWord n edges) s = .next t ∧ (t.tap n).wire = rest ∧ (t.tap n).upStr = (z.tap n).upStr ∧ (t.tap n).t = (z.tap n).t ∧
      (t.tap n).skew = (z.tap n).skew + (match z.ties.up n with | some u => (c * z.stretch u : Nat) | none => 0)) ∧
    ((v.tap n).wire = [] → (v.tap n).xfer = none → (v.waiting n).filter (v.boundFor n) = [] → 8 ≤ (v.tap n).upStr →
      ∃ z, v.laneForce n = z ∧ (z.tap n).wire = [(.fill, (v.tap n).upStr)] ∧ (z.tap n).upStr = 0 ∧ (z.tap n).skew = (v.tap n).skew)) ∧
  (∀ (s v : State) (n edges : Nat), s.up = true → s.isEave = true → s.tapEn n = true → v = s.tapRun n edges →
    (∀ k p, ((k = .arm ∧ p = DownWord.isArm) ∨ (k = .cancel ∧ p = DownWord.isCancel) ∨ (k = .release ∧ p = DownWord.isRelease) ∨
        (k = .mark ∧ p = DownWord.isMark) ∨ (k = .fill ∧ p = DownWord.isFill)) →
      ((v.laneWords n).any p = false → exec (.crossingWordBad n edges k) s = .next ((v.count BT_CNT_PAR).contained 0x06)) ∧
      (∀ z w c rest, (v.laneWords n).any p = true → z = v.laneForce n → (z.tap n).wire = (w, c) :: rest → p w = true →
        exec (.crossingWordBad n edges k) s = .next (((z.setTap n { z.tap n with wire := rest }).count BT_CNT_PAR).contained 0x06))) ∧
    (∀ r, exec (.crossingWordBad n edges (.arrive r)) s = .next (((v.endEngine r rParity).count BT_CNT_PAR).contained 0x06)) ∧
    (∀ op r, exec (.crossingWordBad n edges (.objReq op r)) s = .next (((v.endEngine r rParity).count BT_CNT_PAR).contained 0x06)) ∧
    (∀ tap rtag q, q = (v.count OD_CNT_PAR).valueOf none → exec (.crossingWordBad n edges (.objRsp tap rtag)) s =
      .next (((q.1.emit (.objRsp tap rtag rParity q.2)).count BT_CNT_PAR).contained 0x06)) ∧
    (∀ r rest, takeFirst (fun (r : LaunchReport) => (v.tapPath r.tap).contains n) v.bt.reports = some (r, rest) →
      exec (.crossingWordBad n edges .report) s = .next ((({ v with bt := { v.bt with reports := rest } } : State).count BT_CNT_PAR).contained 0x06)) ∧
    exec (.crossingWordBad n edges .unused) s = .next ((v.count BT_CNT_PAR).contained 0x06)) ∧
  (∀ (s u : State) (n k : Nat), s.up = true → s.isEave = true → s.tapEn n = true → u = (s.setTap n { s.tap n with mis := (s.tap n).mis + k }).count (BT_Tn_CNT_MFAIL n) k →
    ((s.tap n).mis + k < max 1 (s.fl BT_MARGIN 0 8) → exec (.marginWarning n k) s = .next u) ∧
    (max 1 (s.fl BT_MARGIN 0 8) ≤ (s.tap n).mis + k → (s.tap n).mis < max 1 (s.fl BT_MARGIN 0 8) → s.bit BT_CTL 3 = false →
      exec (.marginWarning n k) s = .next (({ u.modTap n fun v => { v with warn := true } with
        bt := { (u.modTap n fun v => { v with warn := true }).bt with warn := s.bt.warn ||| BitVec.ofNat 64 (2 ^ n) } } : State).raise 17)))

/-- Launches at a tap: an ARM word that a lane brings to a tap on the head is taken or reported by its first failing
check, a CANCEL word removes an armed launch whose firing edge is not the next one and marks one whose firing edge is,
and neither does anything where no lane of the path holds such a word; edges are counted up to the first at which a
launch fires, a line falls, nsw_req rises or a report is issued; a launch within its tolerance fires at the first edge at
or after its target, its line falls at its time, and its report follows; a RELEASE word that a lane brings to a tap is
answered with bar_rsp and relayed below it. -/
def Obligations.LaunchRows : Prop :=
  (∀ (s v : State) (n edges : Nat), s.up = true → s.isEave = true → s.tapEn n = true → v = s.tapRun n edges →
    ((∀ k ∈ v.tapPath n, (v.laneWords k).any (DownWord.armFor n) = false) → exec (.armWord n edges) s = .next v) ∧
    (∀ z u line nw tol target c rest, v.ties.up n = none → (v.laneWords n).any (DownWord.armFor n) = true → z = v.laneForce n →
      (z.tap n).wire = (.arm n line target nw tol, c) :: rest → u = (z.setTap n { z.tap n with wire := rest }).wordIn n c →
      (u.armCheck n line target = none → exec (.armWord n edges) s = .next (u.modTap n fun w => { w with
        armed := w.armed ++ [{ line := line, target := target, n := nw, tol := tol }] })) ∧
      (∀ c, u.armCheck n line target = some c → ∃ t, exec (.armWord n edges) s = .next t ∧
        t.bt.reports = u.bt.reports ++ [{ tap := n, line := line, target := target, code := c }] ∧
        (t.tap n).armed = (u.tap n).armed ∧ (t.tap n).seq = ((u.tap n).seq + 1) % 256))) ∧
  (∀ (s v : State) (n edges : Nat), s.up = true → s.isEave = true → s.tapEn n = true → v = s.tapRun n edges →
    ((∀ k ∈ v.tapPath n, (v.laneWords k).any (DownWord.cancelFor n) = false) → exec (.cancelWord n edges) s = .next v) ∧
    (∀ z u line target c rest l, v.ties.up n = none → (v.laneWords n).any (DownWord.cancelFor n) = true → z = v.laneForce n →
      (z.tap n).wire = (.cancel n line target, c) :: rest → u = (z.setTap n { z.tap n with wire := rest }).wordIn n c →
      (u.tap n).armed = [l] → l.line = line → l.target = target →
      (u.firesNext n l = false → ∃ t, exec (.cancelWord n edges) s = .next t ∧ (t.tap n).armed = [] ∧
        t.bt.reports.getLast?.map (·.code) = some 5) ∧
      (u.firesNext n l = true → ∃ t, exec (.cancelWord n edges) s = .next t ∧ (t.tap n).armed = [{ l with cancelLate := true }] ∧
        t.bt.reports = u.bt.reports))) ∧
  (∀ (s : State) (n k : Nat) (w : State), s.up = true → s.isEave = true → s.tapEn n = true → w = s.tapEdge n false →
    exec (.launchFire n 0) s = .next s ∧ exec (.launchLineFall n 0) s = .next s ∧ exec (.launchReport n 0) s = .next s ∧
    exec (.nswReqRise n 0) s = .next s ∧
    exec (.launchFire n (k + 1)) s =
      .next (if (w.tap n).armed.length < (s.tap n).armed.length then w else w.tapUntil n k fun a b => decide (b.armed.length < a.armed.length)) ∧
    exec (.launchReport n (k + 1)) s = .next (if (s.tap n).seq ≠ (w.tap n).seq then w else w.tapUntil n k fun a b => a.seq != b.seq) ∧
    exec (.nswReqRise n (k + 1)) s =
      .next (if (s.tap n).nsw = false ∧ (w.tap n).nsw = true then w else w.tapUntil n k fun a b => !a.nsw && b.nsw) ∧
    exec (.launchLineFall n (k + 1)) s = .next (if (s.tap n).lines.any (fun e => decide (e.2 = 1)) = true then w else
      w.tapUntil n k fun a _ => a.lines.any fun e => decide (e.2 = 1))) ∧
  (∀ (s : State) (n : Nat) (v : Tap), s.up = true → s.isEave = true → s.tapEn n = true → s.tap n = v → v.st = .track → v.pend = none → v.str = false →
    (∀ l code, v.armed = [l] → v.past = [] → v.lines = [] → l.at28 ≤ v.t + 16 * v.ptrk → v.mark = some (courseOf l.target, code) →
      code ≤ l.tol → l.after = 0 → ∃ t, exec (.launchFire n 1) s = .next t ∧ (t.tap n).armed = [] ∧
      (t.tap n).lines.get 0 l.line = s.fl (BT_Tn_CFG n) 16 4 + 1 ∧ (t.tap n).past.map (·.code) = [0] ∧
      .launchLine n l.line true ∈ t.out ∧ (t.tap n).t = v.t + 16 * v.ptrk) ∧
    (∀ line, v.armed = [] → v.past = [] → v.lines = [(line, 1)] → ∃ t, exec (.launchLineFall n 1) s = .next t ∧
      (t.tap n).lines = [] ∧ .launchLine n line false ∈ t.out) ∧
    (∀ l, v.armed = [] → v.past = [l] → v.lines = [] → l.code = 0 → l.cancelLate = false → l.n ≤ l.after + 1 → l.fall ≤ l.after + 1 →
      ∃ t, exec (.launchReport n 1) s = .next t ∧ (t.tap n).past = [] ∧ t.bt.reports.map (·.code) = s.bt.reports.map (·.code) ++ [0] ∧
      (t.tap n).seq = (v.seq + 1) % 256)) ∧
  (∀ (s : State), s.up = true → s.isEave = true →
    exec .releaseWord s = .next (s.each s.chainOrder fun s n => s.bring n DownWord.isRelease) ∧
    ((∀ n ∈ s.chainOrder, (s.laneWords n).any DownWord.isRelease = false) → exec .releaseWord s = .next s) ∧
    (∀ (v z u : State) (n x hd c : Nat) (ph : Bool) (rest : List (DownWord × Nat)), (v.laneWords n).any DownWord.isRelease = true → z = v.laneForce n →
      (z.tap n).wire = (.release x hd ph, c) :: rest → u = (z.setTap n { z.tap n with wire := rest }).wordIn n c →
      ∃ t, v.bring n DownWord.isRelease = t ∧ t.out = .barRsp n hd ph :: u.out ∧
        (t.tap n).q = (u.tap n).q ++ (u.nextDown n).map (fun k => .release k hd ph) ∧ (∀ k, k ≠ n → t.tap k = u.tap k) ∧ t.td = u.td))

/-! ### The interval unit -/

/-- The converters and the shots: the faults of a ramp (its span off by more than 20 percent, a code missing, a residual
of more than 2 ps); the end of the calibration of all converters or of some, and of a ramp; the pads' delays; an edge on
a timed input, too close to the last one or, with the shot armed and nothing else timed before or at it, a start or not;
the timed start and the close of a slot's window, where no recovered clock's edge falls due before them. -/
def Obligations.ConverterAndShotRows : Prop :=
  (∀ r : RampCal, r.fails = true ↔ (65536 < 5 * mag ((r.span : Int) - 65536) ∨ r.codes < 4096 ∨ 20 < r.residual)) ∧
    (∀ (s : State) (ramps : List RampCal), s.up = true →
      (∀ part, s.im.calReady = true → exec (.converterCalReady ramps part) s = .next s) ∧
      (s.im.calReady = false → (∀ r ∈ ramps, r.fails = false) →
        exec (.converterCalReady ramps none) s = .next { s with im := { s.im with
          calReady := true, calDone := [], inl := max s.im.inl (inlOf ramps), padPend := true, calTick := s.clk.ticks } } ∧
        ∀ l, exec (.converterCalReady ramps (some l)) s = .next { s with im := { s.im with
          inl := max s.im.inl (inlOf ramps), calDone := (s.im.calDone ++ l).eraseDups } }) ∧
      (∀ edges, (s.im.calReady = false ∨ s.clk.ticks < s.im.calTick + s.calPeriod ∨ edges < 65536) →
        exec (.rampCalibration ramps edges) s = .next s) ∧
      (∀ edges, s.im.calReady = true → s.im.calTick + s.calPeriod ≤ s.clk.ticks → 65536 ≤ edges →
        (∀ r ∈ ramps, s.im.ramps.get 0 r.conv = 0 → r.fails = false) → exec (.rampCalibration ramps edges) s =
          .next { s with im := { s.im with
            inl := inlOf (ramps.filter fun r => decide (s.im.ramps.get 0 r.conv = 0)), swapPend := true, calTick := s.clk.ticks } }) ∧
      (∀ r : RampCal, r.fails = true →
        (s.im.calReady = false → ∃ t, exec (.converterCalReady [r] none) s = .next t ∧ t.im.calReady = true ∧
          t.im.ramps.get 0 r.conv = min 2 (s.im.ramps.get 0 r.conv + 1) ∧ (∀ k, k ≠ r.conv → t.im.ramps.get 0 k = s.im.ramps.get 0 k) ∧
          t.irq.getLsbD 14 = true) ∧
        (∀ edges, s.im.calReady = true → s.im.calTick + s.calPeriod ≤ s.clk.ticks → 65536 ≤ edges → s.im.ramps.get 0 r.conv = 0 →
          ∃ t, exec (.rampCalibration [r] edges) s = .next t ∧
          t.im.swapPend = true ∧ t.im.ramps.get 0 r.conv = 1 ∧
          (∀ k, k ≠ r.conv → t.im.ramps.get 0 k = s.im.ramps.get 0 k) ∧ t.irq.getLsbD 14 = true))) ∧
  (∀ (s : State) (vals : List (Nat × Nat)), s.up = true → (vals.map (·.1)).Nodup → ∃ t, exec (.padMeasurement vals) s = .next t ∧
    (∀ v ∈ vals, v.1 ∈ s.im.padRun → t.im.pad.get 0 v.1 = v.2 % 2 ^ 32) ∧
    (∀ p, (p ∉ s.im.padRun ∨ p ∉ vals.map (·.1)) → t.im.pad.get 0 p = s.im.pad.get 0 p) ∧
    t = { s with im := { s.im with pad := t.im.pad } }) ∧
  (∀ (s : State) (pin : Nat) (falling : Bool) (e : Edge), s.up = true → (22 ≤ pin ∨ pin ∈ s.im.padRun) →
    exec (.pinEdge pin falling e) s = .next s) ∧
  (∀ (s : State) (pin last : Nat) (falling : Bool) (e : Edge) (tt : Int), s.up = true → pin < 22 → pin ∉ s.im.padRun → s.im.st = .idle →
      s.compat = false → s.im.lastEdge.get none pin = some last → (s.atCyc e.cyc).absCode e < last + 8192 →
      tt = toUnits ((s.atCyc e.cyc).edgeFifths e - 5 * (if pin ≤ 13 then (s.padOf pin : Int) + toSigned 32 (s.rd (IM_INn_DELAY pin)) else 0)) →
      exec (.pinEdge pin falling e) s = .next (State.count { s.atCyc e.cyc with im := { s.im with
        clkDue := s.im.clkDue.filter fun e => !decide (e.2 ≤ tt) } } IM_CNT_CLOSE)) ∧
  (∀ (s v : State) (pin : Nat) (falling : Bool) (e : Edge) (tt : Int), s.up = true → pin < 14 → pin ∉ s.im.padRun → s.im.st = .armed →
      s.compat = false → s.convTimes pin = true → s.im.lastEdge.get none pin = none → s.im.convFail = false →
      s.im.shot = none → s.im.ended = none → s.im.cfg.slots ≠ [] → v = s.atCyc e.cyc →
      tt = toUnits (v.edgeFifths e - 5 * ((s.padOf pin : Int) + toSigned 32 (s.rd (IM_INn_DELAY pin)))) →
      (∀ c ∈ s.im.clkDue, tt < c.2) → (∀ c ∈ s.im.recent, c.t ≠ tt) →
      (s.im.cfg.src = pin ∧ edgeOk pin s.im.cfg.edge falling = true →
        exec (.pinEdge pin falling e) s = .next { v with im := { s.im with
          st := .running, lastEdge := s.im.lastEdge.set none pin (some (v.absCode e)), recent := [⟨pin, falling, tt, true⟩]
          shot := some { start := tt, slots := s.im.cfg.slots.map fun c => { cfg := c } } } }) ∧
      ((s.im.cfg.src ≠ pin ∨ edgeOk pin s.im.cfg.edge falling = false) → exec (.pinEdge pin falling e) s =
        .next { v with im := { s.im with
          lastEdge := s.im.lastEdge.set none pin (some (v.absCode e)), recent := [⟨pin, falling, tt, true⟩] } })) ∧
  (∀ s : State, s.up = true →
      ((s.im.st ≠ .armed ∨ s.im.cfg.src ≠ 0x19 ∨ s.clk.course * 625 + 624 < s.im.cfg.timedCycle) → exec .timedStart s = .next s) ∧
      (∀ tt, s.im.st = .armed → s.im.cfg.src = 0x19 → s.im.cfg.timedCycle ≤ s.clk.course * 625 + 624 → s.im.convFail = false →
        s.im.shot = none → s.im.ended = none → s.im.cfg.slots ≠ [] → tt = toUnits ((s.im.cfg.timedCycle : Int) * cycleFifths) →
        (∀ c ∈ s.im.clkDue, tt < c.2) → (∀ c ∈ s.im.recent, c.t ≠ tt) → exec .timedStart s = .next { s with im := { s.im with
          st := .running, recent := [⟨0x19, false, tt, true⟩]
          shot := some { start := tt, slots := s.im.cfg.slots.map fun c => { cfg := c } } } })) ∧
  (∀ (s v : State) (cyc : Nat), s.up = true → v = s.atCyc cyc → (∀ c ∈ s.im.clkDue, v.nowUnits < c.2) →
      (s.im.shot = none → exec (.shotWindowClose cyc) s = .next v) ∧
      (∀ sh : Shot, s.im.shot = some sh → (∀ r ∈ sh.slots, r.over = true ∨ pastCycles (v.nowUnits - sh.start) r.cfg.hi = false) →
        exec (.shotWindowClose cyc) s = .next v) ∧
      (∀ (sh : Shot) (r : StopRun), s.im.shot = some sh → sh.slots = [r] → r.over = false → pastCycles (v.nowUnits - sh.start) r.cfg.hi = true →
        ∃ t, exec (.shotWindowClose cyc) s = .next t ∧ t.im.shot = none ∧ t.im.shots = s.im.shots + 1 ∧
        t.im.stats.get {} r.cfg.k = { s.im.stats.get {} r.cfg.k with missed := (s.im.stats.get {} r.cfg.k).missed + 1 } ∧
        t.im.st = (if s.im.cfg.n ≤ s.im.shots + 1 then .done else .running)))

/-- Writes of IM_CTL, IM_CAL_CFG and ZC_CTL that name one action: ARM, ABORT, GO (no recovered clock's edge due before it
and no edge at its time), MODE, PAD_RECAL, START and CLR; the lock of the compatibility delay line, whose code is a free
value, and the end of its wait for a stop. Every register keeps its value but MODE. -/
def Obligations.MeasurementControl : Prop :=
  (∀ s : State, s.Serving → s.rd IM_CTL &&& 0x30 = s.rd IM_CTL →
      (∃ t, exec .imArm s = .next t ∧ (∀ r, r = IM_CTL ∨ r.off ≠ IM_CTL.off → t.rd r = s.rd r) ∧
        t.still = ({ s with im := t.im, regs := t.regs } : State).still ∧
        t.im = if s.armOk then { s.im with
            st := .armed, reason := 0, convFail := false, cfg := s.measCfg, shots := 0, start0 := 0, shot := none, ended := none
            recent := [], stats := [], raw := [], claimDone := false }
          else { s.im with armErr := true }) ∧
      (∃ t, exec .imAbort s = .next t ∧ (∀ r, r = IM_CTL ∨ r.off ≠ IM_CTL.off → t.rd r = s.rd r) ∧
        t.still = ({ s with im := t.im, regs := t.regs } : State).still ∧
        t.im = if s.im.st = .armed ∨ s.im.st = .running then
            { s.im with shot := none, st := .aborted, reason := 1, claimDone := s.im.claim.isSome }
          else s.im) ∧
      (s.im.st ≠ .armed → s.im.st ≠ .running → ∃ t, exec .imGo s = .next t ∧ (∀ r, r = IM_CTL ∨ r.off ≠ IM_CTL.off → t.rd r = s.rd r) ∧
        t.still = ({ s with
          regs := t.regs, im := { s.im with clkDue := s.im.clkDue.filter fun e => !decide (e.2 ≤ s.nowUnits) } } : State).still) ∧
      (s.im.st = .armed → s.im.cfg.src = 0x1A → s.im.convFail = false → s.im.shot = none → s.im.ended = none → s.im.cfg.slots ≠ [] →
        (∀ c ∈ s.im.clkDue, s.nowUnits < c.2) → (∀ c ∈ s.im.recent, c.t ≠ s.nowUnits) →
        ∃ t, exec .imGo s = .next t ∧ (∀ r, r = IM_CTL ∨ r.off ≠ IM_CTL.off → t.rd r = s.rd r) ∧
        t.still = ({ s with im := t.im, regs := t.regs } : State).still ∧
        t.im = { s.im with
          st := .running, recent := [⟨0x1A, false, s.nowUnits, true⟩]
          shot := some { start := s.nowUnits, slots := s.im.cfg.slots.map fun c => { cfg := c } } }) ∧
      (∀ on : Bool, ((s.im.st = .armed ∨ s.im.st = .running ∨ s.compat = on) → ∃ t, exec (.imModeWrite on) s = .next t ∧
          (∀ r, r = IM_CTL ∨ r.off ≠ IM_CTL.off → t.rd r = s.rd r) ∧ t.still = ({ s with regs := t.regs } : State).still) ∧
        (s.im.st ≠ .armed → s.im.st ≠ .running → s.compat ≠ on → ∃ t, exec (.imModeWrite on) s = .next t ∧
          t.compat = on ∧ t.bit IM_CTL 5 = s.bit IM_CTL 5 ∧ (∀ r : Reg, r.off ≠ IM_CTL.off → t.rd r = s.rd r) ∧
          t.still = ({ s with im := { s.im with zc := {} }, regs := t.regs } : State).still))) ∧
  (∀ s : State, s.Serving → s.rd IM_CAL_CFG &&& IM_CAL_CFG.mask = s.rd IM_CAL_CFG → ∃ t, exec .padRecal s = .next t ∧
    (∀ r, r = IM_CAL_CFG ∨ r.off ≠ IM_CAL_CFG.off → t.rd r = s.rd r) ∧ t.still = ({ s with im := { s.im with padPend := true }, regs := t.regs } : State).still) ∧
  (∀ s : State, s.Serving → s.rd ZC_CTL &&& ZC_CTL.mask = s.rd ZC_CTL →
    (∃ t, exec .zcStart s = .next t ∧ (∀ r, r = ZC_CTL ∨ r.off ≠ ZC_CTL.off → t.rd r = s.rd r) ∧
      t.still = ({ s with im := t.im, regs := t.regs } : State).still ∧
      t.im = { s.im with zc :=
        if s.compat = false ∨ s.im.zc.armed = true then s.im.zc
        else if s.im.zc.lock = false then { s.im.zc with held := true }
        else { s.im.zc with
          armed := true, held := false
          start := if s.zcStartSrc = 9 then some (s.absCyc s.clk.cyc, 0) else none } }) ∧
    (∃ t, exec .zcClr s = .next t ∧ (∀ r, r = ZC_CTL ∨ r.off ≠ ZC_CTL.off → t.rd r = s.rd r) ∧
      t.still = ({ s with im := t.im, regs := t.regs } : State).still ∧
      t.im = { s.im with zc := if s.compat then { lock := s.im.zc.lock, code := s.im.zc.code } else s.im.zc })) ∧
  (∀ s : State, s.up = true →
    ((s.compat = false ∨ s.im.zc.lock = true) → exec .zcDllLock s = .next s) ∧
    (s.compat = true → s.im.zc.lock = false → ∃ t, exec .zcDllLock s = .next t ∧
      t = ({ s with im := { s.im with zc := t.im.zc }, free := s.free + 1 } : State) ∧ t.im.zc.lock = true ∧
      t.im.zc.code = (freeValue s.free).toNat % 256 ∧
      (s.im.zc.held = true → t.im.zc.armed = true ∧ t.im.zc.held = false) ∧
      (s.im.zc.held = false → t.im.zc.armed = s.im.zc.armed ∧ t.im.zc.held = false))) ∧
  (∀ (s v : State) (cyc : Nat), s.up = true → v = s.atCyc cyc →
    (s.compat = false → exec (.zcTimeout cyc) s = .next s) ∧
    (s.compat = true → s.im.zc.start = none → exec (.zcTimeout cyc) s = .next v) ∧
    (∀ c f, s.compat = true → s.im.zc.start = some (c, f) → exec (.zcTimeout cyc) s = .next
      (if c + s.zcTmo < s.absCyc cyc then
        v.setZc { s.im.zc with armed := false, start := none, done := false, timeout := true } else v)))

/-! ### Port front ends -/

/-- Marks and their stamps: a receive mark is timed and kept under its identity, or flagged MISS; a transmit mark forms
the time of the oldest frame handed over, drives the insertion and completes the record and the exchange of the frame,
and with a converter that cannot time it the record is a MISS and the exchange spoilt; a late insertion is counted and
flags the record, in the FIFO or in the stamp log, and the exchange. A receive mark that takes the identity of a mark
still waiting counts the lost one, and opens the gap of the number whose frame it held. -/
def Obligations.MarkRows : Prop :=
  (∀ (s : State) (p id adj : Nat) (e : Edge), s.up = true → (s.nPorts ≤ p ∨ s.isUp p = false) →
    exec (.receiveMark p id e adj) s = .next s ∧ exec (.transmitMark p e adj) s = .next s) ∧
  (∀ (s u : State) (p id adj : Nat) (e : Edge) (v : Port) (old : MarkSlot) (miss : Bool), s.up = true → p < s.nPorts → s.isUp p = true →
      u = s.atCyc e.cyc → v = s.port p → old = v.marks.get {} (id % 16) →
      miss = ((match v.lastRx with | some l => decide (u.absCode e < l + 8192) | none => false) || !s.convTimes (convRx p)) →
      (old.waiting = true → v.rpl.held ≠ some (id % 16)) →
      ∃ t, exec (.receiveMark p id e adj) s = .next t ∧
        t = { u with ports := t.ports, cnt := t.cnt, im := t.im, irq := t.irq } ∧ (∀ q, q ≠ p → t.port q = s.port q) ∧
        t.port p = { v with lastRx := some (u.absCode e), marks := v.marks.set {} (id % 16) {
          stamp := if miss then none else some (u.rxTime p e adj), cgen := v.cgen, miss := miss, waiting := true
          lost := old.lost + bnat old.waiting, at_ := u.absCode e } } ∧
        (s.im.cfg.port ≠ p → t.im = s.im ∧ t.irq = s.irq ∧
          ∀ o, t.counter o = if old.waiting = true ∧ o = PF_CNT_ORPHAN p then (s.counter o + 1) % 2 ^ 32 else s.counter o)) ∧
  (∀ (s u : State) (p adj : Nat) (e : Edge) (v : Port), s.up = true → p < s.nPorts → s.isUp p = true → u = s.atCyc e.cyc → v = s.port p →
      (v.txWait = [] → exec (.transmitMark p e adj) s = .next u) ∧
      (∀ w rest, v.txWait = w :: rest → s.convTimes (convTx p) = true →
        ∃ t, exec (.transmitMark p e adj) s = .next t ∧ (t.port p).txWait = rest ∧ (t.port p).lastMarked = some w ∧
        (t.port p).lastTx = some (u.absCode e) ∧ (w.stamped = true → .insertion p w.typ (u.txTime p e adj) ∈ t.out) ∧
        (w.proto = false → w.typ = 0 → (t.port p).upper.t1 = some ⟨u.txTime p e adj, v.cgen, false⟩ ∧ (t.port p).upper.seq = w.seq) ∧
        (w.proto = false → w.typ = 1 → ∀ x, v.lower = some x →
          (t.port p).lower = some { x with t3 := some ⟨u.txTime p e adj, v.cgen, false⟩ }) ∧
        (s.bit (PF_CTL p) 1 = false → v.fifo.length < 16 → w.typ < 0x100 → (t.port p).fifo = v.fifo ++
          [mkRec (s.portNum p) (some (u.txTime p e adj)) w.seq w.typ
            (128 + bnat w.proto * 64 + v.dom.num * 32 + bnat w.express * 16 + 1) v.cgen]) ∧
        (∀ q, q ≠ p → t.port q = s.port q) ∧ t.td = s.td ∧ t.regs = s.regs ∧ t.rs = s.rs) ∧
      (∀ w rest, v.txWait = w :: rest → s.convTimes (convTx p) = false →
        ∃ t, exec (.transmitMark p e adj) s = .next t ∧ (t.port p).txWait = rest ∧ (t.port p).lastMarked = some w ∧
        (w.proto = false → w.typ = 0 → (t.port p).upper.t1.map (·.bad) = some true) ∧
        (s.bit (PF_CTL p) 1 = false → v.fifo.length < 16 → w.typ < 0x100 → (t.port p).fifo = v.fifo ++
          [mkRec (s.portNum p) none w.seq w.typ
            (128 + bnat w.proto * 64 + v.dom.num * 32 + bnat w.express * 16 + 9) v.cgen]) ∧
        (∀ q, q ≠ p → t.port q = s.port q) ∧ t.td = s.td ∧ t.regs = s.regs ∧ t.rs = s.rs)) ∧
  (∀ (s : State) (p : Nat) (v : Port), s.up = true → p < s.nPorts → v = s.port p →
      (v.lastMarked = none → exec (.txInsLate p) s = .next (s.count (PF_CNT_LATE p))) ∧
      (∀ w, v.lastMarked = some w → ∃ t, exec (.txInsLate p) s = .next t ∧ (∀ q, q ≠ p → t.port q = s.port q) ∧
        ((∀ a r, v.lastLog = some (a, r) → w.made r = false) → t = { s.count (PF_CNT_LATE p) with ports := t.ports }) ∧
        (∀ a r, v.lastLog = some (a, r) → w.made r = true →
          t = { (s.count (PF_CNT_LATE p)).memWrite .log a (leBytes 8 r.lo ++ leBytes 8 (r.hi + 2 ^ 26)) with ports := t.ports }) ∧
        (w.proto = false → w.typ = 0 → (t.port p).upper.t1 = v.upper.t1.map fun x => { x with bad := true }) ∧
        (w.proto = false → w.typ = 1 → (t.port p).lower = v.lower.map fun x => { x with t3 := x.t3.map fun y => { y with bad := true } }) ∧
        (∀ l r m, v.fifo = l ++ r :: m → w.made r = true → (∀ x ∈ m, w.made x = false) →
          (t.port p).fifo = l ++ { r with hi := r.hi + 2 ^ 26 } :: m))) ∧
  (∀ (s : State) (p id adj : Nat) (e : Edge) (v : Port), s.up = true → p < s.nPorts → s.isUp p = true → v = s.port p →
      (v.marks.get {} (id % 16)).waiting = true → v.rpl.held = some (id % 16) →
      ∃ t, exec (.receiveMark p id e adj) s = .next t ∧ (∀ q, q ≠ p → t.port q = s.port q) ∧ (t.port p).rpl.held = none ∧
        (t.port p).rpl.gap = true ∧ (t.port p).rpl.expect = v.rpl.expect ∧
        (s.im.cfg.port ≠ p → t.counter (PF_CNT_ORPHAN p) = (s.counter (PF_CNT_ORPHAN p) + 1) % 2 ^ 32))

/-- The level of a port and its registers: port_up rises and falls, a lane flap, the loss of the recovered clock, EN set
and cleared, the constants, a frame delivered with a failed check sequence or parity, which is recorded, counted by its
words and opens a gap, and a calibration frame, which counts in PF_CNT_DROP where the port is not calibrating (the
model's choice: log entry 18). -/
def Obligations.PortRows : Prop :=
  (∀ (s : State) (p : Nat) (v : Port), s.up = true → p < s.nPorts → v = s.port p →
    (v.up = true → exec (.portUpRise p) s = .next s) ∧
    (v.up = false → s.enabled p = false → exec (.portUpRise p) s = .next (s.modPort p fun v => { v with up := true })) ∧
    (v.up = false → s.enabled p = true → ∃ t, exec (.portUpRise p) s = .next t ∧ t.wire = s.wire ∧ (∀ q, q ≠ p → t.port q = s.port q) ∧
      (t.port p).up = true ∧ (t.port p).upTick = s.clk.ticks ∧ (t.port p).kaTick = none ∧ (t.port p).rpl = {} ∧
      (t.port p).lossDecl = false ∧ (t.port p).fibDone = false ∧ (t.port p).lower = none ∧ (t.port p).upper = {} ∧
      (s.underlay = false → v.health ≠ .retired → v.xq.length < 64 → v.xWait = [] →
        (t.port p).xq = v.xq ++ [{ body := .hello (s.helloBody p) }])) ∧
    (v.up = false → exec (.portUpFall p) s = .next s) ∧
    (v.up = true → ∃ t, exec (.portUpFall p) s = .next t ∧ (t.port p).up = false ∧ (t.port p).marks = [] ∧ (t.port p).txWait = [] ∧
      (t.port p).xq = [] ∧ (t.port p).cq = [] ∧ (t.port p).tq = [] ∧ (t.port p).rpl.entries = [] ∧ (t.port p).lower = none ∧
      (t.port p).upper = {} ∧ (t.port p).score = (if v.scores then min 255 (v.score + s.fl HF_WEIGHT 16 8) else v.score) ∧
      (∀ n, t.candOf p = some n → (t.cand n).loss = true) ∧ (∀ q, q ≠ p → t.port q = s.port q) ∧ t.td = s.td ∧ t.regs = s.regs ∧ t.im = s.im) ∧
    (∃ t, exec (.laneFlap p) s = .next t ∧ t.wire = s.wire ∧ (∀ q, q ≠ p → t.port q = s.port q) ∧
      (∀ o, t.counter o = if o = PF_CNT_FLAP p then (s.counter o + 1) % 2 ^ 32 else s.counter o) ∧
      (v.scores = false → t.port p = v) ∧
      (v.scores = true → (t.port p).score = min 255 (v.score + s.fl HF_WEIGHT 16 8) ∧
        (t.port p).cand = if v.cand = 0 ∧ s.retireThr ≤ min 255 (v.score + s.fl HF_WEIGHT 16 8) ∧ v.health = .live then 1 else v.cand)) ∧
    (v.rclkOk = false → exec (.rclkOkFall p) s = .next s) ∧
    (v.rclkOk = true → ∃ t, exec (.rclkOkFall p) s = .next t ∧ t.port p = { v with rclkOk := false } ∧
      (∀ q, q ≠ p → t.port q = s.port q) ∧ (∀ n, t.candOf p = some n → (t.cand n).loss = true) ∧
      (∀ o, t.counter o = if o = PF_CNT_RCLK p then (s.counter o + 1) % 2 ^ 32 else s.counter o) ∧
      t = { s with ports := t.ports, cnt := t.cnt, rs := t.rs })) ∧
  (∀ (s : State) (p v : Nat), s.Serving → p < s.nPorts → v < 2 ^ 32 →
    (s.enabled p = true → ∃ t, exec (.portEnable p v) s = .next t ∧ t.enabled p = true ∧
      t.fl (PF_CTL p) 10 2 = s.fl (PF_CTL p) 10 2 ∧ t.ports = s.ports) ∧
    (s.enabled p = false → ∃ t, exec (.portEnable p v) s = .next t ∧ t.enabled p = true ∧
      t.rd (PF_CTL p) = (v / 2 * 2 + 1) &&& 0xc1f ∧ (∀ q, q ≠ p → t.port q = s.port q) ∧ ((s.port p).up = false → t.ports = s.ports) ∧
      ((s.port p).up = true → (t.port p).rpl = {} ∧ (t.port p).upTick = s.clk.ticks ∧ (t.port p).kaTick = none)) ∧
    (s.enabled p = false → ∃ t, exec (.portDisable p v) s = .next t ∧ t.enabled p = false ∧ t.ports = s.ports) ∧
    (s.enabled p = true → ∃ t, exec (.portDisable p v) s = .next t ∧ t.enabled p = false ∧ (t.port p).xq = [] ∧ (t.port p).cq = [] ∧
      (t.port p).tq = [] ∧ (t.port p).marks = [] ∧ (t.port p).txWait = [] ∧ (t.port p).lower = none ∧ (∀ q, q ≠ p → t.port q = s.port q)) ∧
    (∀ which r, (which, r) ∈ [(0, PF_TX_LAT p), (1, PF_RX_LAT p), (2, PF_FIB_CORR p)] →
      ∃ t, exec (.portConstantsWrite p which v) s = .next t ∧ t.rd r = v ∧ (∀ q : Reg, q.off ≠ r.off → t.rd q = s.rd q) ∧
      t.port p = { s.port p with constPend := true } ∧ (∀ q, q ≠ p → t.port q = s.port q))) ∧
  (∀ (s u : State) (h : RxBase) (bad : RxBad) (v : Port) (st : Stamp) (s1 : Nat), s.up = true → h.port < s.nPorts → u = s.rxSpoilt h →
      st = ((s.atCyc h.cyc).claimMark h.port h.mark).2 → v = u.port h.port →
      s1 = (if bad.words = 0 then v.score else min 255 (v.score + bad.words * s.fl HF_WEIGHT 0 8)) →
      (s.isUp h.port = false → exec (.rxfFcsErr h bad) s = .next s) ∧
      (s.isUp h.port = true → (s.port h.port).health = .retired → exec (.rxfFcsErr h bad) s = .next u) ∧
      (u.wire = s.wire ∧ (∀ q, q ≠ h.port → u.port q = s.port q) ∧ u.counter (PF_CNT_RX h.port) = (s.counter (PF_CNT_RX h.port) + 1) % 2 ^ 32 ∧
        (s.bit (PF_CTL h.port) 1 = false → (s.port h.port).fifo.length < 16 → ∃ seq typ fl, v.fifo = (s.port h.port).fifo ++
          [mkRec (s.portNum h.port) (if st.bad then none else some st.t) seq typ fl st.cgen])) ∧
      (s.isUp h.port = true → (s.port h.port).health ≠ .retired → ∃ t, exec (.rxfFcsErr h bad) s = .next t ∧ t.wire = s.wire ∧
        (∀ q, q ≠ h.port → t.port q = s.port q) ∧ (t.port h.port).rpl.gap = true ∧
        (v.rpl.gap = true → ∀ o, t.counter o = if o = PF_CNT_PAR h.port then (u.counter o + bad.words) % 2 ^ 32
          else if o = PF_CNT_FCS h.port then (u.counter o + bnat bad.fcs) % 2 ^ 32 else u.counter o) ∧
        (t.port h.port).score = (if v.scores = false then v.score else if bad.fcs then min 255 (s1 + s.fl HF_WEIGHT 8 8) else s1) ∧
        (v.rpl.gap = false → s.underlay = false → v.mismatch = false → v.xq.length < 64 → v.xWait = [] →
          (t.port h.port).rpl.nakSent = true ∧ (t.port h.port).xq = v.xq ++ [{ body := .nak v.rpl.expect }]))) ∧
  (∀ (s : State) (h : RxHead) (tx : WireTime) (r : Rx), s.up = true → h.port < s.nPorts →
      r = s.rxBegin h.toRxBase true h.seq 0x06 true →
      ((s.port h.port).cal.running = false → exec (.calFrameReceive h tx) s =
        .next (if r.ok then (r.s.heldGone h.port h.mark).count (PF_CNT_DROP h.port) else r.s)) ∧
      ((s.port h.port).cal.running = true → exec (.calFrameReceive h tx) s = .next (s.rxZudar h kCal tx.ok).s ∧
        (s.rxZudar h kCal tx.ok).s.wire = s.wire))

/-! ### Received frames -/

/-- The judgement of a received frame, seen on the reserved Zudar types and the 1588 types without a meaning: a port that is
not up discards it unseen; a frame that is delivered is counted, claims its mark, and is discarded with the count that its
fault names, or is acted on; an accepted frame changes nothing but its port, the counters and what the ports drive. -/
def Obligations.ReceivedFramesAreJudged : Prop :=
  (∀ (s : State) (h : RxHead) (q : PtpHead) (typ : Nat), s.up = true →
    ((s.nPorts ≤ h.port ∨ s.isUp h.port = false) → exec (.zudarReservedType h typ) s = .next s) ∧
    ((s.nPorts ≤ q.port ∨ s.isUp q.port = false) → exec (.ptpOtherReceive q typ) s = .next s)) ∧
  (∀ (s : State) (h : PtpHead) (typ : Nat), s.up = true → h.port < s.nPorts → s.isUp h.port = true →
      ∃ t, exec (.ptpOtherReceive h typ) s = .next t ∧ t.wire = s.wire ∧ (∀ q, q ≠ h.port → t.port q = s.port q) ∧
        t.counter (PF_CNT_RX h.port) = (s.counter (PF_CNT_RX h.port) + 1) % 2 ^ 32 ∧
        ((s.port h.port).rpl.held ≠ some (h.mark % 16) → (∀ o, o < 0x10000 → t.counter o = s.counter o) ∧
        (t.port h.port).marks = (((s.atCyc h.cyc).claimMark h.port h.mark).1.port h.port).marks ∧ (t.port h.port).rpl = (s.port h.port).rpl ∧
        ((h.tagged || h.tooLong || h.incomplete) = true → t.counter (PF_CNT_DROP h.port) = (s.counter (PF_CNT_DROP h.port) + 1) % 2 ^ 32) ∧
        ((h.tagged || h.tooLong || h.incomplete) = false → (s.port h.port).health ≠ .retired →
          t.counter (PF_CNT_PTP_OTHER h.port) = (s.counter (PF_CNT_PTP_OTHER h.port) + 1) % 2 ^ 32))) ∧
  (∀ (s : State) (h : RxHead) (typ : Nat) (v : Port), s.up = true → h.port < s.nPorts → s.isUp h.port = true → v = s.port h.port →
      ∃ t, exec (.zudarReservedType h typ) s = .next t ∧ t.wire = s.wire ∧ (∀ q, q ≠ h.port → t.port q = s.port q) ∧
        t.counter (PF_CNT_RX h.port) = (s.counter (PF_CNT_RX h.port) + 1) % 2 ^ 32 ∧
        (v.rpl.held ≠ some (h.mark % 16) →
        ((h.tagged || h.tooLong || h.incomplete) = true → t.counter (PF_CNT_DROP h.port) = (s.counter (PF_CNT_DROP h.port) + 1) % 2 ^ 32) ∧
        ((h.tagged || h.tooLong || h.incomplete) = false → (v.health ≠ .retired ∨ typ = 0x06) →
          ((h.ver ≠ 2 ∨ h.len < 24 ∨ h.pastFcs = true) → t.counter TD_CNT_MALFORMED = (s.counter TD_CNT_MALFORMED + 1) % 2 ^ 32 ∧
            (t.port h.port).rpl = v.rpl) ∧
          (h.ver = 2 → 24 ≤ h.len → h.pastFcs = false →
            (h.dom ≠ v.dom → t.counter TD_CNT_DOMNUM = (s.counter TD_CNT_DOMNUM + 1) % 2 ^ 32 ∧ (t.port h.port).rpl = v.rpl) ∧
            (h.dom = v.dom → h.rpl = false → v.rpl.entries = [] → typ ≠ 0x04 →
              t.counter TD_CNT_MALFORMED = (s.counter TD_CNT_MALFORMED + 1) % 2 ^ 32 ∧ (t.port h.port).rpl = v.rpl) ∧
            (h.dom = v.dom → h.rpl = true → h.lseq = v.rpl.expect → v.rpl.expect < 256 → v.rpl.entries = [] →
              t.counter TD_CNT_MALFORMED = (s.counter TD_CNT_MALFORMED + 1) % 2 ^ 32 ∧
              (t.port h.port).rpl.expect = (v.rpl.expect + 1 + v.rpl.ahead) % 256 ∧
              (t.port h.port).rpl.unacked = v.rpl.unacked + 1 + v.rpl.ahead ∧ (t.port h.port).rpl.gap = false) ∧
            (h.dom = v.dom → h.rpl = true → v.rpl.expect < 256 → v.rpl.entries = [] → 128 ≤ v.dist h.lseq →
              t.counter TD_CNT_MALFORMED = s.counter TD_CNT_MALFORMED ∧ (t.port h.port).rpl = v.rpl)))))

/-- The messages of the time transfer, once the pipeline has accepted them (`r`, with `u` the state and `v` the port it
leaves): Sync, Delay_Req, Delay_Resp, Announce, HELLO, KEEPALIVE and ESMC. A message that is not accepted, or that its
port's role does not take, changes nothing more. The interval of an exchange is clamped to s64 with a flag (the flag is
the model's choice: log entry 61), and it sets a step only at a live channel of a domain that waits for one. What counts
an ESMC event PDU is the model's choice (log entry 18). -/
def Obligations.TimeTransferReceipts : Prop :=
  (∀ (s u : State) (h : PtpHead) (origin : WireTime) (r : Rx) (v : Port), s.up = true → h.port < s.nPorts → r = s.rxPtp h 0x0 44 → u = r.s →
    v = u.port h.port → u.wire = s.wire ∧
    ((r.ok = false ∨ v.role.isLower = false) → exec (.syncReceive h origin) s = .next u) ∧
    (r.ok = true → v.role.isLower = true → exec (.syncReceive h origin) s =
      .next ((u.count TD_CNT_EXCH_BAD (bnat v.lower.isSome)).setPort h.port { v with lower := some {
        seq := h.seq, t1 := ((origin.sec * 1000000000 + origin.ns) * 65536 : Nat) + h.corr, t2 := r.stamp, rxTick := u.clk.ticks
        srcClock := h.srcClock, srcPort := h.srcPort, live := v.health.routes } }))) ∧
  (∀ (s u : State) (h : PtpHead) (r : Rx) (v : Port), s.up = true → h.port < s.nPorts → r = s.rxPtp h 0x1 44 → u = r.s →
    v = u.port h.port → u.wire = s.wire ∧
    ((r.ok = false ∨ v.role.isUpper = false) → exec (.delayReqReceive h) s = .next u) ∧
    (r.ok = true → v.role.isUpper = true → v.upper.t1.isSome = true → v.upper.seq = h.seq → exec (.delayReqReceive h) s =
      .next (u.setPort h.port { v with upper := { v.upper with
        t4 := some r.stamp, reqSeq := h.seq, reqClock := h.srcClock, reqPort := h.srcPort, reqTick := u.clk.ticks } })) ∧
    (r.ok = true → v.role.isUpper = true → (v.upper.t1 = none ∨ v.upper.seq ≠ h.seq) → exec (.delayReqReceive h) s =
      .next (u.count TD_CNT_EXCH_BAD))) ∧
  (∀ (s u : State) (h : PtpHead) (recv : WireTime) (ck pt : Nat) (r : Rx) (v : Port), s.up = true → h.port < s.nPorts →
    r = s.rxPtp h 0x9 54 → u = r.s → v = u.port h.port → u.wire = s.wire ∧
    ((r.ok = false ∨ v.role.isLower = false ∨ v.lower = none) → exec (.delayRespReceive h recv ck pt) s = .next u) ∧
    (∀ x, r.ok = true → v.role.isLower = true → v.lower = some x →
      ((h.seq ≠ x.seq ∨ ck ≠ u.rd TD_CLOCK_ID ∨ pt ≠ h.port + 1) → exec (.delayRespReceive h recv ck pt) s = .next u) ∧
      (h.seq = x.seq → ck = u.rd TD_CLOCK_ID → pt = h.port + 1 →
        (x.good u.clk.ticks = false → exec (.delayRespReceive h recv ck pt) s =
          .next ((u.setPort h.port { v with lower := none }).count TD_CNT_EXCH_BAD)) ∧
        (∀ t3 t4 raw th d, x.good u.clk.ticks = true → x.t3 = some t3 → t4 = ((recv.sec * 1000000000 + recv.ns) * 65536 : Nat) - h.corr →
          raw = ((x.t1 - x.t2.t) + (t4 - t3.t)) / 2 - x.shift → th = interval raw → d = ((x.t2.t - x.t1) + (t4 - t3.t)) / 2 → 0 ≤ d → d < 4294967296 →
          ∃ t, exec (.delayRespReceive h recv ck pt) s = .next t ∧
          t.port h.port = { v with
            lower := none, fibDelay := d.toNat, fibDone := true
            lenWarn := if v.fibLen = 0 then v.lenWarn else lenDiffers d v.fibLen } ∧
          (t.servo v.dom).th = (u.servo v.dom).th.insert h.port th ∧ (∀ e, e ≠ v.dom → t.servo e = u.servo e) ∧
          (∀ q, q ≠ h.port → t.port q = u.port q) ∧
          t.td.ivClamp = (u.td.ivClamp || decide (th ≠ raw)) ∧
          t.td.stepDue = (if u.wantsStep v.dom ∧ v.health = .live ∧ u.follower = false ∧ (u.isEave ∨ v.dom = u.home) then some (v.dom, th)
            else u.td.stepDue))))) ∧
  (∀ (s u : State) (h : PtpHead) (b : AnnounceBody) (r : Rx) (v : Port), s.up = true → h.port < s.nPorts → r = s.rxPtp h 0xB 64 → u = r.s →
    v = u.port h.port → u.wire = s.wire ∧
    ((r.ok = false ∨ v.role.isLower = false) → exec (.announceReceive h b) s = .next u) ∧
    (r.ok = true → v.role.isLower = true → ∃ t, exec (.announceReceive h b) s = .next t ∧ t.td.ann.get v.dom = some b ∧
      (∀ e, e ≠ v.dom → t.td.ann.get e = u.td.ann.get e) ∧
      t = { u with td := { u.td with ann := t.td.ann }, regs := t.regs } ∧ (∀ q : Reg, q.off ≠ TD_UTC.off → t.rd q = u.rd q) ∧
      (u.isRoot = false → v.dom = u.td.sel → t.rd TD_UTC =
        (b.utcOffset % 65536 + bnat b.utcValid * 65536 + bnat b.li59 * 131072 + bnat b.li61 * 262144) &&& TD_UTC.mask) ∧
      ((u.isRoot = true ∨ v.dom ≠ u.td.sel) → t.regs = u.regs))) ∧
  (∀ (s u : State) (h : RxHead) (b : HelloBody) (r : Rx) (v : Port), s.up = true → h.port < s.nPorts → r = s.rxZudar h kHello → u = r.s →
    v = u.port h.port → u.wire = s.wire ∧
    (r.ok = false → exec (.helloReceive h b) s = .next u) ∧
    (r.ok = true → ∃ t, exec (.helloReceive h b) s = .next t ∧ t = { u with ports := t.ports, irq := t.irq } ∧
      (∀ q, q ≠ h.port → t.port q = u.port q) ∧ (v.cal.running = true → t.port h.port = v ∧ t.irq = u.irq) ∧
      (v.cal.running = false → t.port h.port = { v with
          peerSeen := some h.srcId, mmId := decide (h.srcId ≠ v.peerExp)
          mmRole := match v.role.peer with | some k => decide (b.prole ≠ k) | none => false } ∧
        (v.mismatch = false → (t.port h.port).mismatch = true → t.irq.getLsbD 12 = true)))) ∧
  (∀ (s u : State) (h : RxHead) (tx : WireTime) (status te : Nat) (r : Rx) (v : Port), s.up = true → h.port < s.nPorts →
    r = s.rxZudar h kKeepalive tx.ok → u = r.s → v = u.port h.port → u.wire = s.wire ∧
    (r.ok = false → exec (.keepaliveReceive h tx status te) s = .next u) ∧
    (r.ok = true → v.cal.running = false → ∃ t, exec (.keepaliveReceive h tx status te) s = .next t ∧
      (∀ q, q ≠ h.port → t.port q = u.port q) ∧ t.td = u.td ∧ t.regs = u.regs ∧
      (t.port h.port).kaTick = some u.clk.ticks ∧ (t.port h.port).kaStatus = status % 256 ∧ (t.port h.port).kaTe = te % 2 ^ 32 ∧
      (t.port h.port).kaSeen = true ∧ (t.port h.port).peerSeen = some h.srcId ∧ (t.port h.port).mmId = decide (h.srcId ≠ v.peerExp) ∧
      (t.port h.port).lossDecl = (v.lossDecl && decide (v.health ≠ .noTree)) ∧
      (v.health = .admitting → v.admitAt = none → bitOf status 7 = true → bitOf status 6 = true → h.srcId = v.peerExp → v.mmRole = false →
        (t.port h.port).admitAt = some u.clk.ticks) ∧
      t.counter TD_CNT_KA_JUMP = (u.counter TD_CNT_KA_JUMP + bnat (v.role.isLower && v.fibDone && !r.stamp.bad &&
        (decide ((u.servo v.dom).st = .track) || decide ((u.servo v.dom).st = .hold)) &&
        overNs (mag (r.stamp.t - (tx.units + v.fibDelay) + (u.servo v.dom).pUnits)) u.unlockThr)) % 2 ^ 32)) ∧
  (∀ (s u : State) (h : RxBase) (ql : Nat) (r : Rx), s.up = true → h.port < s.nPorts → r = s.rxEsmc h false → u = r.s →
    u.wire = s.wire ∧ (s.rxEsmc h true).s.wire = s.wire ∧ exec (.esmcEventReceive h) s = .next (s.rxEsmc h true).s ∧
    ((r.ok = false ∨ u.candOf h.port = none) → exec (.esmcInfoReceive h ql) s = .next u) ∧
    (∀ n, r.ok = true → u.candOf h.port = some n → exec (.esmcInfoReceive h ql) s =
      .next (u.setCand n { u.cand n with qlRx := ql % 16, dnu := decide (ql % 16 = 15) })))

/-- The messages a port sends of its own: Sync, Delay_Req, Delay_Resp, Announce, HELLO, KEEPALIVE, the ESMC information
PDU and the standalone acknowledgement, each put at the end of its queue once when it is due, the queue being open, and
nothing when it is not due; an acknowledgement that finds the class X queue full is counted in TP_CNT_QFULL and stays
due; and the loss of a channel's KEEPALIVEs. -/
def Obligations.PeriodicMessages : Prop :=
  (∀ (s : State) (p : Nat), s.up = true → p < s.nPorts →
    (s.syncDue p = false → exec (.syncSend p) s = .next s) ∧ (s.announceDue p = false → exec (.announceSend p) s = .next s) ∧
    (s.helloDue p = false → exec (.helloSend p) s = .next s) ∧ (s.keepaliveDue p = false → exec (.keepaliveSend p) s = .next s) ∧
    (s.esmcDue p = false → exec (.esmcInfoSend p) s = .next s) ∧ (s.lossDue p s.clk.ticks = false → exec (.keepaliveLoss p) s = .next s) ∧
    ((s.port p).lower = none → exec (.delayReqSend p) s = .next s) ∧ ((s.port p).upper.t4 = none → exec (.delayRespSend p) s = .next s) ∧
    ((s.port p).rpl.unacked < s.ackEvery p → exec (.ackSend p) s = .next s)) ∧
  (∀ (s : State) (p : Nat) (v : Port), s.up = true → p < s.nPorts → v = s.port p → s.QueueOpen p →
    (s.bit TD_CTL 0 = true → v.role.isUpper = true → s.td.acq = true →
      (s.clk.course % 1024 = (2 * p) % 1024 → v.lastSent.get 0 0 ≠ s.clk.course + 1 →
        ∃ t, exec (.syncSend p) s = .next t ∧ t.wire = s.wire ∧ (∀ q, q ≠ p → t.port q = s.port q) ∧ t.cnt = s.cnt ∧
          t.port p = { v with lastSent := v.lastSent.set 0 0 (s.clk.course + 1), xq := v.xq ++ [{ body := .sync (v.nextSeq 0) }] }) ∧
      (s.clk.course % 16384 = 2 * p + 1 → v.lastSent.get 0 0xB ≠ s.clk.course + 1 →
        ∃ t, exec (.announceSend p) s = .next t ∧ t.wire = s.wire ∧ (∀ q, q ≠ p → t.port q = s.port q) ∧
          t.port p = { v with lastSent := v.lastSent.set 0 0xB (s.clk.course + 1), xq := v.xq ++ [{ body := .announce s.announceBody.2 }] })) ∧
    (s.bit TD_CTL 0 = true →
      (∀ x, v.lower = some x → x.asked = false → x.rxTick < s.clk.ticks →
        ∃ t, exec (.delayReqSend p) s = .next t ∧ t.wire = s.wire ∧ (∀ q, q ≠ p → t.port q = s.port q) ∧ t.cnt = s.cnt ∧
          t.port p = { v with lower := some { x with asked := true }, xq := v.xq ++ [{ body := .delayReq x.seq }] }) ∧
      (∀ t4, v.upper.t4 = some t4 → v.upper.reqTick < s.clk.ticks →
        (v.upper.good = false → exec (.delayRespSend p) s = .next ((s.setPort p { v with upper := {} }).count TD_CNT_EXCH_BAD)) ∧
        (v.upper.good = true → s.td.acq = true → ∃ t, exec (.delayRespSend p) s = .next t ∧ t.wire = s.wire ∧
          (∀ q, q ≠ p → t.port q = s.port q) ∧ t.cnt = s.cnt ∧ t.port p = { v with
            upper := {}, xq := v.xq ++ [{ body := .delayResp v.upper.reqSeq t4.t v.upper.reqClock v.upper.reqPort }] }))) ∧
    (v.peerSeen = none → v.upTick < s.clk.ticks → (s.clk.ticks - v.upTick) % 64 = 0 → v.lastSent.get 0 0x201 ≠ s.clk.course + 1 →
      ∃ t, exec (.helloSend p) s = .next t ∧ t.wire = s.wire ∧ (∀ q, q ≠ p → t.port q = s.port q) ∧ t.cnt = s.cnt ∧
        t.port p = { v with lastSent := v.lastSent.set 0 0x201 (s.clk.course + 1), xq := v.xq ++ [{ body := .hello (s.helloBody p) }] }) ∧
    (s.clk.course % 8 = p % 8 → v.lastSent.get 0 0x202 ≠ s.clk.course + 1 →
      ∃ t, exec (.keepaliveSend p) s = .next t ∧ t.wire = s.wire ∧ (∀ q, q ≠ p → t.port q = s.port q) ∧ t.cnt = s.cnt ∧
        t.port p = { v with
          lastSent := v.lastSent.set 0 0x202 (s.clk.course + 1), xq := v.xq ++ [{ body := .keepalive s.kaStatus s.td.te }] }) ∧
    (s.bit (PF_CTL p) 3 = true → (v.lastSent.get 0 0x100 = 0 ∨ v.lastSent.get 0 0x100 + 1000000 ≤ s.clk.ticks + 1) →
      v.health ≠ .admitting → v.tq.length < 16 →
      ∃ t, exec (.esmcInfoSend p) s = .next t ∧ t.wire = s.wire ∧ (∀ q, q ≠ p → t.port q = s.port q) ∧
        t.port p = { v with
          lastSent := v.lastSent.set 0 0x100 (s.clk.ticks + 1), tq := v.tq ++ [{ body := .esmcInfo s.qualityOrFree.2.2 }] }) ∧
    (s.ackEvery p ≤ v.rpl.unacked →
      ∃ t, exec (.ackSend p) s = .next t ∧ t.wire = s.wire ∧ (∀ q, q ≠ p → t.port q = s.port q) ∧ t.cnt = s.cnt ∧
        t.port p = { v with rpl := { v.rpl with unacked := 0 }, xq := v.xq ++ [{ body := .ack }] })) ∧
  (∀ (s : State) (p k : Nat) (v : Port), s.up = true → p < s.nPorts → v = s.port p → s.enabled p = true → v.lossDecl = false →
      v.kaTick = some k → k + 24 ≤ s.clk.ticks →
      ((v.health = .noTree ∨ v.health = .retired) → exec (.keepaliveLoss p) s = .next (s.setPort p { v with lossDecl := true })) ∧
      (v.health ≠ .noTree → v.health ≠ .retired →
        exec (.keepaliveLoss p) s = .next ((((s.setPort p { v with lossDecl := true }).count HF_CNT_LOST).evt 28).pathFault p))) ∧
  (∀ (s : State) (p : Nat) (v : Port), s.up = true → p < s.nPorts → v = s.port p → s.isUp p = true → s.underlay = false → v.health ≠ .retired →
      v.mismatch = false → 64 ≤ v.xq.length → s.ackEvery p ≤ v.rpl.unacked →
      ∃ t, exec (.ackSend p) s = .next t ∧ t.wire = s.wire ∧ t.ports = s.ports ∧
        t.counter TP_CNT_QFULL = (s.counter TP_CNT_QFULL + 1) % 2 ^ 32)

/-- The link sequence, the egress scheduler, the pacing registers and the broadcasts: ACK and NAK, the replay timeout,
the handover of an express frame of class X at a port without a window, of nothing with empty queues, and at a port with
MISMATCH of nothing that bears no identity, whose queues are flushed; debts forgiven, a profile written, and at an eave
SWITCH_PLAN, SWITCH_CANCEL and LAUNCH. -/
def Obligations.LinkAndBroadcastRows : Prop :=
  (∀ (s : State) (h : RxHead) (v : Port) (k : Nat), s.up = true → h.port < s.nPorts → s.isUp h.port = true → v = s.port h.port →
    (h.tagged || h.tooLong || h.incomplete) = false → v.health ≠ .retired → v.mismatch = false → h.ver = 2 → 24 ≤ h.len → h.pastFcs = false →
    h.dom = v.dom → h.rpl = false → v.rpl.held ≠ some (h.mark % 16) → k = (h.lack + 256 - v.rpl.ackSeq) % 256 → k ≤ v.rpl.entries.length →
    ∃ t, exec (.ackReceive h) s = .next t ∧ t.wire = s.wire ∧ (∀ q, q ≠ h.port → t.port q = s.port q) ∧
      (t.port h.port).rpl.entries = v.rpl.entries.drop k ∧ (t.port h.port).rpl.next = v.rpl.next ∧ (t.port h.port).rpl.expect = v.rpl.expect ∧
      (0 < k → (t.port h.port).rpl.waitTick = s.clk.ticks)) ∧
  (∀ (s u : State) (h : RxHead) (r : Rx) (v : Port), s.up = true → h.port < s.nPorts → r = s.rxZudar h kNak → u = r.s → v = u.port h.port →
    u.wire = s.wire ∧ (r.ok = false → exec (.nakReceive h) s = .next u) ∧
    (r.ok = true → (v.rpl.entries.length < (h.lack + 256 - v.rpl.ackSeq) % 256 → exec (.nakReceive h) s = .next u) ∧
      (∀ e es, v.rpl.entries = e :: es → h.lack = e.lseq → v.rpl.attempt = none → v.mismatch = false →
        ∃ t, exec (.nakReceive h) s = .next t ∧ t.wire = u.wire ∧ (∀ q, q ≠ h.port → t.port q = u.port q) ∧ (t.port h.port).rpl.attempt = some h.lack ∧ (t.port h.port).rpl.entries = v.rpl.entries ∧
        (t.port h.port).rpl.waitTick = u.clk.ticks ∧
        (t.port h.port).cq = ((v.rpl.entries.filter fun e => e.body.cls = .coll).map fun e => { body := e.body, retx := some e.lseq }) ++
          v.cq.filter (fun f => f.retx.isNone) ∧
        (∀ o, t.counter o = if o = PF_CNT_REPLAY h.port then (u.counter o + 1) % 2 ^ 32 else u.counter o)))) ∧
  (∀ (s : State) (p : Nat) (v : Port), s.up = true → p < s.nPorts → v = s.port p →
    (s.replayDue p (s.clk.ticks + 1) = false → exec (.replayTimeout p) s = .next s) ∧
    (∀ e es, v.rpl.entries = e :: es → v.rpl.waitTick + s.rplTimeout p < s.clk.ticks + 1 → v.mismatch = false →
      ∃ t, exec (.replayTimeout p) s = .next t ∧ t.wire = s.wire ∧ (∀ q, q ≠ p → t.port q = s.port q) ∧
      (t.port p).rpl.attempt = some e.lseq ∧ (t.port p).rpl.waitTick = s.clk.ticks ∧ (t.port p).rpl.entries = v.rpl.entries ∧
      t.counter (PF_CNT_REPLAY p) = (s.counter (PF_CNT_REPLAY p) + 1) % 2 ^ 32 ∧
      (v.rpl.attempt = none → (t.port p).rpl.failRun = v.rpl.failRun ∧ t.counter (PF_CNT_RFAIL p) = s.counter (PF_CNT_RFAIL p)) ∧
      (v.rpl.attempt ≠ none → (t.port p).rpl.failRun = min 3 (v.rpl.failRun + 1) ∧
        t.counter (PF_CNT_RFAIL p) = (s.counter (PF_CNT_RFAIL p) + 1) % 2 ^ 32))) ∧
  (∀ (s : State) (p cyc : Nat) (v : Port), s.up = true → p < s.nPorts → v = s.port p → s.windowed p = false →
    v.xWait = [] → v.cWait = [] → ((v.mismatch = false ∨ v.cal.running = true) →
    (v.xq = [] → v.cq = [] → v.tq = [] → ∃ t, exec (.egressHandover p cyc) s = .next t ∧ t.out = s.out ∧ t.cnt = s.cnt ∧
      t.port p = { v with cLevel := (t.port p).cLevel, tLevel := (t.port p).tLevel, bktCyc := (s.atCyc cyc).absCyc (s.atCyc cyc).clk.cyc }) ∧
    (∀ q rest, v.xq = q :: rest → q.body.cls = .express → q.body.replayed = false → q.retx = none →
      ∃ t, exec (.egressHandover p cyc) s = .next t ∧ (t.port p).xq = rest ∧ (t.port p).cq = v.cq ∧ (t.port p).tq = v.tq ∧
      (t.port p).txWait = v.txWait ++ [{ typ := q.body.typ, seq := v.seqFor q.body, proto := q.body.zudar, express := true }] ∧
      (t.port p).rpl.entries = v.rpl.entries ∧ (t.port p).rpl.next = v.rpl.next ∧
      (∃ hd : SentHead, .frame p hd q.body true ∈ t.out ∧ hd.typ = q.body.typ ∧ hd.len = q.body.msgLen ∧ hd.dom = v.dom ∧
        hd.seq = v.seqFor q.body ∧ hd.srcPort = s.portNum p ∧ hd.domNum = s.ptpDom v.dom ∧ hd.clockId = s.rd TD_CLOCK_ID ∧ hd.clockPort = p + 1) ∧
      (∀ a, a ≠ p → t.port a = s.port a) ∧ t.wire = s.wire ∧
      (∀ o, t.counter o = if o = PF_CNT_TX p ∨ o = TP_CNT_X then (s.counter o + 1) % 2 ^ 32 else s.counter o))) ∧
    (v.mismatch = true → v.cal.running = false → (∀ q ∈ v.xq ++ v.cq ++ v.tq, q.body.identityBearing = false) →
      ∃ t, exec (.egressHandover p cyc) s = .next t ∧ t.out = s.out ∧ (t.port p).xq = [] ∧ (t.port p).cq = [] ∧ (t.port p).tq = [] ∧
      (t.port p).rpl = { v.rpl with attempt := none } ∧
      t.counter TP_CNT_FLUSH = (s.counter TP_CNT_FLUSH + ((v.xq ++ v.cq ++ v.tq).filter fun q => q.retx.isNone).length) % 2 ^ 32)) ∧
  (∀ (s : State) (p v : Nat), s.Serving → v < 2 ^ 32 → bitOf v 31 = false →
    (s.nPorts ≤ field v 0 9 → ∃ t, exec (.tpDebtClr v) s = .next t ∧ t.still = s.still) ∧
    (p = field v 0 9 → p < s.nPorts → ∃ t, exec (.tpDebtClr v) s = .next t ∧ (∀ q, q ≠ p → t.port q = s.port q) ∧
      (bitOf v 10 = true → (t.port p).tLevel = max 0 ((s.fillBuckets p).port p).tLevel) ∧
      (bitOf v 9 = true → (t.port p).cLevel = max 0 ((s.fillBuckets p).port p).cLevel) ∧
      (bitOf v 10 = false → (t.port p).tLevel = ((s.fillBuckets p).port p).tLevel) ∧
      (bitOf v 9 = false → (t.port p).cLevel = ((s.fillBuckets p).port p).cLevel) ∧
      t.port p = { s.port p with cLevel := (t.port p).cLevel, tLevel := (t.port p).tLevel, bktCyc := s.absCyc s.clk.cyc })) ∧
  (∀ (s : State) (off v : Nat), s.up = true → profileReg off = none → exec (.profileWrite off v) s = .next s) ∧
  (∀ (s : State) (off v : Nat) (r : Reg), s.Serving → profileReg off = some r → v < 2 ^ 32 →
    ∃ t, exec (.profileWrite off v) s = .next t ∧ t.rd r = v &&& r.mask ∧ (∀ q : Reg, q.off ≠ r.off → t.rd q = s.rd q) ∧
      (∀ p, ∃ c l b, t.port p = { s.port p with cLevel := c, tLevel := l, bktCyc := b })) ∧
  (∀ (s u : State) (h : RxHead) (id sw : Nat) (tgt : Dom) (r : Rx), s.up = true → h.port < s.nPorts → s.isEave = true →
    r = s.rxZudar h kSwitchPlan → u = r.s → u.wire = s.wire ∧
    (r.ok = true → serialRebuild u.clk.course sw = none → exec (.switchPlanReceive h id tgt sw) s = .next (u.count TD_CNT_RANGE)) ∧
    ((r.ok = false ∨ ((0x10, id) ∈ u.td.seen ∧ serialRebuild u.clk.course sw ≠ none)) → exec (.switchPlanReceive h id tgt sw) s = .next u) ∧
    (∀ c, r.ok = true → (0x10, id) ∉ u.td.seen → serialRebuild u.clk.course sw = some c → ∃ t, exec (.switchPlanReceive h id tgt sw) s = .next t ∧
      t.td.seen = ((0x10, id) :: u.td.seen).take 16 ∧ t.ports = u.ports ∧ t.regs = u.regs ∧
        (c < u.clk.course + 16 → t.td.plan = u.td.plan ∧ t.td.late = true ∧
          t.counter TD_CNT_PLAN_LATE = (u.counter TD_CNT_PLAN_LATE + 1) % 2 ^ 32) ∧
        (u.clk.course + 16 ≤ c → t.td.plan = some ⟨id, tgt, c⟩ ∧ t.td.outcome = 0 ∧ t.cnt = u.cnt))) ∧
  (∀ (s u : State) (h : RxHead) (id : Nat) (r : Rx), s.up = true → h.port < s.nPorts → s.isEave = true →
    r = s.rxZudar h kSwitchCancel → u = r.s → u.wire = s.wire ∧
    ((r.ok = false ∨ (0x11, id) ∈ u.td.seen) → exec (.switchCancelReceive h id) s = .next u) ∧
    (r.ok = true → (0x11, id) ∉ u.td.seen → ∃ t, exec (.switchCancelReceive h id) s = .next t ∧ t.ports = u.ports ∧ t.cnt = u.cnt ∧
      (u.td.plan.map Plan.id = some id → t.td.plan = none ∧ t.td.outcome = 3) ∧
      (u.td.plan.map Plan.id ≠ some id → t.td.plan = u.td.plan ∧ t.td.outcome = u.td.outcome))) ∧
  (∀ (s u : State) (h : RxHead) (b : LaunchBody) (r : Rx), s.up = true → h.port < s.nPorts → s.isEave = true →
    r = s.rxZudar h kLaunch b.target.ok → u = r.s → u.wire = s.wire ∧
    ((r.ok = false ∨ (0x14, b.id) ∈ u.td.seen) → exec (.launchReceive h b) s = .next u) ∧
    (r.ok = true → (0x14, b.id) ∉ u.td.seen → eventKind b.kind = true → b.kind ≠ 5 →
      (courseOf b.target.units < u.clk.course + 2 → ∃ t, exec (.launchReceive h b) s = .next t ∧ t.ev = u.ev ∧ t.irq.getLsbD 19 = true ∧
        t.counter SQ_CNT_EVT_LATE = (u.counter SQ_CNT_EVT_LATE + 1) % 2 ^ 32) ∧
      (u.clk.course + 2 ≤ courseOf b.target.units → u.ev.events.length < 16 → b.kind ≠ 1 → b.kind ≠ 2 →
        ∃ t, exec (.launchReceive h b) s = .next t ∧ t.cnt = u.cnt ∧ t.irq = u.irq ∧ t.ev = { u.ev with
          events := u.ev.events ++ [{ id := b.id % 2 ^ 32, kind := b.kind, target := b.target.units, arg := b.arg }] })))

/-- The reference selector and the domain servos: an update at the last course of 1,024, with a sample or without,
recorded with the course it ends; the acquisition step, which loads the output time with its interval; a plan at an eave
before and at its course; the candidates' moves by time; the selection after WTR; an edge of PPSIN, which does nothing at
a candidate that is no PPSIN, gives the CLKOUT pulse at one that is off or not timed, and otherwise is counted from the
edge before it or from a new epoch; the loss of PPSIN; the ends of an open loop and of a learning window; and a change of
a candidate's configuration. -/
def Obligations.ServoAndReferenceRows : Prop :=
  (∀ s : State, s.up = true → s.clk.course % 1024 ≠ 1023 → exec .servoUpdate s = .next s) ∧
  (∀ s : State, s.up = true → s.isEave = true → s.clk.course % 1024 = 1023 → s.underlay = false → s.follower = false → s.did.servo = false →
    ∃ t, exec .servoUpdate s = .next t ∧ t.clk = s.clk ∧ t.ports = s.ports ∧ t.did.servo = true ∧
      ∀ (d : Dom) (v : Servo) (x : Option Int), v = s.servo d →
        x = (if v.forced then none else if v.openLoop then v.corrP else s.linkSample d) →
        (t.servo d).th = [] ∧ (t.servo d).corrP = none ∧
        (x = none → (t.servo d).upd = v.upd ∧ t.counter (TD_x_CNT_SKIP d.num) = (s.counter (TD_x_CNT_SKIP d.num) + 1) % 2 ^ 32 ∧
          t.counter (TD_x_CNT_UPD d.num) = s.counter (TD_x_CNT_UPD d.num) ∧
          (s.did.phase = false → (t.servo d).p = clampS 112 (v.p + (v.f - s.td.rEff) * 65536000))) ∧
        (∀ th, x = some th → (t.servo d).upd = s.clk.course ∧ (t.servo d).skipRun = 0 ∧ (t.servo d).p = th * phaseScale ∧
          t.counter (TD_x_CNT_UPD d.num) = (s.counter (TD_x_CNT_UPD d.num) + 1) % 2 ^ 32 ∧
          t.counter (TD_x_CNT_SKIP d.num) = s.counter (TD_x_CNT_SKIP d.num))) ∧
  (∀ (s : State) (e : Edge), s.up = true → s.td.stepDue = none → exec (.acquisitionStep e) s = .next s) ∧
  (∀ (s : State) (e : Edge) (d : Dom) (th : Int) (n : Nat), s.up = true → s.td.stepDue = some (d, th) → s.ev.freezes = [] →
    (s.td.acq = false ∨ ∀ k, s.pulseEn k = false) →
    n = ((gridFifths s.clk.course s.clk.cyc + 5 * th) / cycleFifths).toNat →
    ∃ t, exec (.acquisitionStep e) s = .next t ∧ t.clk.course = n / 625 ∧ t.clk.ticks = s.clk.ticks + 1 ∧ t.did = {} ∧ t.pending = s.pending ∧ t.ties = s.ties) ∧
  (∀ s : State, s.up = true → (s.td.acq = false ∨ s.td.plan = none) → exec .planEvaluate s = .next s) ∧
  (∀ (s : State) (pl : Plan), s.up = true → s.isEave = true → s.td.acq = true → s.td.plan = some pl →
    ∃ t, exec .planEvaluate s = .next t ∧
      (s.clk.course + 1 < pl.course → t.td.plan = some pl ∧ t.td.outcome = s.td.outcome ∧ t.td.sel = s.td.sel ∧ t.cnt = s.cnt ∧ t.irq = s.irq) ∧
      (pl.course ≤ s.clk.course + 1 → t.td.plan = none ∧
        (s.td.sel = pl.target → t.td.outcome = 1 ∧ t.td.sel = s.td.sel ∧ t.cnt = s.cnt ∧ t.irq = s.irq) ∧
        (s.td.sel ≠ pl.target → s.tracked pl.target = true → t.td.outcome = 1 ∧ t.td.sel = pl.target ∧ (t.servo pl.target).b = 0 ∧
          t.counter TD_CNT_SWITCH = (s.counter TD_CNT_SWITCH + 1) % 2 ^ 32) ∧
        (s.td.sel ≠ pl.target → s.tracked pl.target = false → t.td.outcome = 2 ∧ t.td.sel = s.td.sel ∧ t.cnt = s.cnt ∧
          t.irq.getLsbD 5 = true))) ∧
  (∀ (s : State) (n : Nat) (c : Cand), s.up = true → c = s.cand n →
    (10 ≤ n ∨ c.loss = true ∨ (s.bit RS_CTL 1 = true ∧ c.dnu = true) ∨ s.clk.ticks + 1 < c.since + max 1 (s.fl RS_QUAL 24 8) * 1000000 ∨
      (c.st = .qualifying ∧ c.fail = true) ∨ (c.st ≠ .disq ∧ c.st ≠ .qualifying) → exec (.candidateQualifyTimer n) s = .next s) ∧
    (n < 10 → c.loss = false → (s.bit RS_CTL 1 = false ∨ c.dnu = false) →
      c.since + max 1 (s.fl RS_QUAL 24 8) * 1000000 ≤ s.clk.ticks + 1 →
      (c.st = .disq → exec (.candidateQualifyTimer n) s = .next (s.setCand n { c with st := .qualifying, since := s.clk.ticks + 1, run := 0 })) ∧
      (c.st = .qualifying → c.fail = false →
        exec (.candidateQualifyTimer n) s = .next (s.setCand n { c with st := .qualified, since := s.clk.ticks + 1, run := 0 })))) ∧
  (∀ (s : State) (d : Dom) (v : Servo) (a : Nat) (rest : List Nat), s.up = true → s.isEave = true → v = s.servo d → v.timeSrc = 15 →
    s.freqOrder d = a :: rest →
    (v.freqSrc ∉ a :: rest → exec (.wtrExpiry d) s = .next s) ∧
    (v.freqSrc ∈ rest → a ≠ v.freqSrc → s.bit RS_CTL 0 = true → (s.cand a).since + s.wtrCourses ≤ s.clk.ticks + 1 →
      exec (.wtrExpiry d) s = .next (((s.setServo d { v with freqSrc := a }).count RS_CNT_SEL).raise 9)) ∧
    (v.freqSrc ∈ a :: rest → s.bit RS_CTL 0 = false → exec (.wtrExpiry d) s = .next s)) ∧
  (∀ (s : State) (n b : Nat) (e : Edge), s.up = true → (n ≠ 4 ∧ n ≠ 5) → exec (.ppsEdge n e b) s = .next s) ∧
  (∀ (s : State) (n b : Nat) (e : Edge), s.up = true → n = 4 ∨ n = 5 →
    (s.candPresent n = false ∨ s.candEn n = false ∨ s.pinTimed (8 + n) = false) → exec (.ppsEdge n e b) s = .next (s.clkoutPulse (6 + n))) ∧
  (∀ (s u : State) (n b : Nat) (e : Edge) (st : Int), s.up = true → s.candPresent n = true → s.candEn n = true → n = 4 ∨ n = 5 →
    s.pinTimed (8 + n) = true → u = s.atCyc e.cyc →
    st = toUnits (gridFifths s.clk.course e.cyc + e.code * codeFifths) - s.candDelay n - s.padOf (8 + n) →
    ∃ t, exec (.ppsEdge n e b) s = .next t ∧ (t.cand n).ppsTick = some s.clk.ticks ∧ (t.cand n).edge = some st ∧ (t.cand n).st = (s.cand n).st ∧
      t.regs = s.regs ∧ t.td = s.td ∧ t.ports = s.ports ∧ t.clk = u.clk ∧ (∀ k, k ≠ n → t.cand k = s.cand k) ∧
      (∀ o, o ≠ RS_CNT_PPS → t.counter o = s.counter o) ∧ (s.rs.anchors.look n = none → t.cnt = s.cnt) ∧
      (∀ sec, s.rs.epoch = some sec → t.rs.epoch = none ∧ t.rs.epochSec = sec ∧
        t.rs.anchors = [(n, ⟨sec, st, (s.cand (s.pairOf n)).edges + b⟩)]) ∧
      (∀ a, s.rs.epoch = none → s.rs.anchors.look n = some a →
        t.rs.epochSec = a.sec + 1 ∧ t.rs.anchors = s.rs.anchors.insert n ⟨a.sec + 1, st, (s.cand (s.pairOf n)).edges + b⟩)) ∧
  (∀ (s : State) (n : Nat) (c : Cand), s.up = true → c = s.cand n →
    ((n ≠ 4 ∧ n ≠ 5) ∨ c.st = .off ∨ s.clk.ticks + 1 ≤ c.ppsTick.getD c.since + 2000000 → exec (.ppsLoss n) s = .next s) ∧
    ((n = 4 ∨ n = 5) → c.st ≠ .off → c.ppsTick.getD c.since + 2000000 < s.clk.ticks + 1 →
      exec (.ppsLoss n) s = .next (s.setCand n { c with loss := true, run := 0 }))) ∧
  (∀ (s : State) (d : Dom) (v : Servo), s.up = true → v = s.servo d →
    (v.openLoop = false ∨ v.st ≠ .track ∨ s.clk.ticks + 1 ≤ v.openTick + (if s.rd RS_OPEN_TMO = 0 then 1024 else s.rd RS_OPEN_TMO) →
      exec (.loopOpenTimeout d) s = .next s) ∧
    (v.openLoop = true → v.st = .track → v.openTick + (if s.rd RS_OPEN_TMO = 0 then 1024 else s.rd RS_OPEN_TMO) < s.clk.ticks + 1 →
      ∃ t, exec (.loopOpenTimeout d) s = .next t ∧ (t.servo d).st = .hold ∧ (t.servo d).locked = false ∧ (t.servo d).entry = s.clk.course + 1 ∧
        (t.servo d).p = v.p ∧ (t.servo d).f = v.f ∧ t.servo d.other = s.servo d.other ∧ t.irq.getLsbD 4 = true ∧
        t.counter RS_CNT_HOLD = (s.counter RS_CNT_HOLD + 1) % 2 ^ 32 ∧ t.ports = s.ports ∧ t.regs = s.regs ∧ t.rs = s.rs)) ∧
  (∀ s : State, s.up = true → ((s.clk.ticks + 1) % s.ageSpan ≠ 0 ∨ s.rs.age.valid = false) → exec .ageWindowEnd s = .next s) ∧
  (∀ s : State, s.up = true → (s.clk.ticks + 1) % s.ageSpan = 0 → s.rs.age.valid = true →
    ∃ t, exec .ageWindowEnd s = .next t ∧ t.rs.age.valid = false ∧ t.td = s.td ∧ t.ports = s.ports ∧ t.cnt = s.cnt ∧ t.irq = s.irq ∧
      (∀ q : Reg, q.off ≠ RS_AGE.off → t.rd q = s.rd q) ∧
      (s.bit RS_CTL 2 = false ∨ (s.rs.age.n : Int) * s.rs.age.sxx ≤ s.rs.age.sx * s.rs.age.sx → t.regs = s.regs) ∧
      (∀ den : Int, den = (s.rs.age.n : Int) * s.rs.age.sxx - s.rs.age.sx * s.rs.age.sx → s.bit RS_CTL 2 = true → 0 < den →
        t.rd RS_AGE = ofSigned 32 (clampS 32 (roundDiv (((s.rs.age.n : Int) * s.rs.age.sxy - s.rs.age.sx * s.rs.age.sy) * 86400000000)
          (den.toNat * 65536))) &&& RS_AGE.mask)) ∧
  (∀ (s : State) (n v : Nat), s.up = true → 10 < n →
    exec (.rsCandnCfgWrite n v) s = .next s ∧ exec (.rsCandnDelayWrite n v) s = .next s) ∧
  (∀ (s : State) (n v : Nat) (c : Cand), s.Serving → n ≤ 10 → v < 2 ^ 32 → c = s.cand n →
    (∃ t, exec (.rsCandnCfgWrite n v) s = .next t ∧ t.rd (RS_CANDn_CFG n) = v &&& (RS_CANDn_CFG n).mask ∧
      (∀ q : Reg, q.off ≠ (RS_CANDn_CFG n).off → t.rd q = s.rd q) ∧ (∀ k, k ≠ n → t.cand k = s.cand k) ∧
      ((v &&& (RS_CANDn_CFG n).mask) / 16 = s.rd (RS_CANDn_CFG n) / 16 ∨ c.st = .off ∨ n = 10 → t.rs = s.rs) ∧
      ((v &&& (RS_CANDn_CFG n).mask) / 16 ≠ s.rd (RS_CANDn_CFG n) / 16 → c.st ≠ .off → n < 10 → (t.cand n).st = .lost ∧ (t.cand n).since = s.clk.ticks ∧
        (t.cand n).hist = [])) ∧
    (∃ t, exec (.rsCandnDelayWrite n v) s = .next t ∧ t.rd (RS_CANDn_DELAY n) = v &&& (RS_CANDn_DELAY n).mask ∧
      (∀ q : Reg, q.off ≠ (RS_CANDn_DELAY n).off → t.rd q = s.rd q) ∧ (∀ k, k ≠ n → t.cand k = s.cand k) ∧
      ((v &&& (RS_CANDn_DELAY n).mask) = s.rd (RS_CANDn_DELAY n) ∨ c.st = .off ∨ n = 10 → t.rs = s.rs) ∧
      ((v &&& (RS_CANDn_DELAY n).mask) ≠ s.rd (RS_CANDn_DELAY n) → c.st ≠ .off → n < 10 → (t.cand n).st = .lost ∧ (t.cand n).since = s.clk.ticks ∧
        (t.cand n).hist = [])))

/-- The operations of the object store on a slot: what PEEK, READ, FILL, SIGNAL, WAITGE, DEC, WDEC, REALIGN, ARRIVE and
SET leave in the slot and answer, the answer 7 for a slot of another kind, the waits of READ, WAITGE and WDEC and a FILL
that ends one; a tap that is not served is not heard, EN at 0 refuses with 0x0D and a handle without a slot with 8. -/
def Obligations.ObjectOperations : Prop :=
  (∀ (s : State) (r : EngReq) (k : Nat) (v : Slot), s.ObjTo r k v → (∀ w ∈ s.od.waiters, w.slot ≠ k) →
      (v.kind = 1 ∨ v.kind = 2 ∨ v.kind = 3 → ∃ t, exec (.peek r) s = .next t ∧ s.ObjEnds t r k v 0 (some v.value)) ∧
      (v.kind = 1 → v.full = true → ∃ t, exec (.read r) s = .next t ∧ s.ObjEnds t r k { v with full := false } 0 (some v.value)) ∧
      (v.kind = 1 → v.full = false → r.wait = false → ∃ t, exec (.read r) s = .next t ∧ s.ObjEnds t r k v 1 none) ∧
      (v.kind = 1 → v.full = false →
        ∃ t, exec (.fill r) s = .next t ∧ s.ObjEnds t r k { v with value := r.operand % 2 ^ 32, full := true } 0 none) ∧
      (v.kind = 1 → v.full = true → ∃ t, exec (.fill r) s = .next t ∧ s.ObjEnds t r k v 2 none) ∧
      (v.kind = 2 → ∃ t, exec (.signal r) s = .next t ∧
        s.ObjEnds t r k { v with value := (v.value + r.operand) % 2 ^ 32, p := (v.p + r.operand) % 2 ^ 32 } 0 none) ∧
      (v.kind = 2 → r.operand ≤ v.value → ∃ t, exec (.waitge r) s = .next t ∧ s.ObjEnds t r k v 0 (some v.value)) ∧
      (v.kind = 2 → v.value < r.operand → r.wait = false → ∃ t, exec (.waitge r) s = .next t ∧ s.ObjEnds t r k v 0x0F none) ∧
      (v.kind = 2 → r.operand ≤ v.value →
        (∃ t, exec (.dec r) s = .next t ∧
          s.ObjEnds t r k { v with value := v.value - r.operand, c := (v.c + r.operand) % 2 ^ 32 } 0 none) ∧
        (∃ t, exec (.wdec r) s = .next t ∧
          s.ObjEnds t r k { v with value := v.value - r.operand, c := (v.c + r.operand) % 2 ^ 32 } 0 none)) ∧
      (v.kind = 2 → v.value < r.operand → ∃ t, exec (.dec r) s = .next t ∧ s.ObjEnds t r k v 3 none ∧ t.irq.getLsbD 23 = true) ∧
      (v.kind = 2 → v.value < r.operand → r.wait = false → ∃ t, exec (.wdec r) s = .next t ∧ s.ObjEnds t r k v 0x0F none) ∧
      (v.kind = 2 → v.p = r.operand → v.c = r.operand →
        ∃ t, exec (.realign r) s = .next t ∧ s.ObjEnds t r k { v with p := 0, c := 0, drift := false } 0 none) ∧
      (v.kind = 2 → (v.p ≠ r.operand ∨ v.c ≠ r.operand) →
        ∃ t, exec (.realign r) s = .next t ∧ s.ObjEnds t r k { v with drift := true } 4 none ∧ t.irq.getLsbD 23 = true) ∧
      (v.kind = 3 → v.value < v.c →
        ∃ t, exec (.arrive r) s = .next t ∧ s.ObjEnds t r k { v with value := v.value + 1 } 0 (some (bnat v.phase))) ∧
      (v.kind = 3 → v.c ≤ v.value → (s.td.acq = false ∨ ∀ e ∈ s.ce.handles, ∀ g, e.2 = some g → g.arriveObj ≠ some (hKey r.handle)) →
        ∃ t, exec (.arrive r) s = .next t ∧ s.ObjEnds t r k { v with value := 0, phase := !v.phase } 0 (some (bnat v.phase)) ∧
          t.bt.fly = s.bt.fly ++ s.releaseWords (hKey r.handle) (!v.phase)) ∧
      (v.kind = 1 → ∃ t, exec (.set r) s = .next t ∧ s.ObjEnds t r k { v with value := r.operand % 2 ^ 32, full := true, drift := false } 0 none) ∧
      (v.kind = 2 → ∃ t, exec (.set r) s = .next t ∧
        s.ObjEnds t r k { v with value := r.operand % 2 ^ 32, p := 0, c := 0, drift := false } 0 none) ∧
      (∀ c : EngReq → Instr, (c ∈ [Instr.read, .fill] ∧ v.kind ≠ 1) ∨ (c ∈ [Instr.signal, .waitge, .dec, .wdec, .realign] ∧ v.kind ≠ 2) ∨
        (c = .arrive ∧ v.kind ≠ 3) ∨ (c = .set ∧ v.kind ≠ 1 ∧ v.kind ≠ 2) ∨ (c = .peek ∧ v.kind ≠ 1 ∧ v.kind ≠ 2 ∧ v.kind ≠ 3) →
        ∃ t, exec (c r) s = .next t ∧ s.ObjEnds t r k v 7 none)) ∧
  (∀ (s : State) (r : EngReq) (k : Nat) (v : Slot) (w : Waiter), s.ObjTo r k v → v.kind = 1 → v.full = false →
    (s.od.waiters.filter fun x => x.slot = k) = [w] → w.op = 2 → (s.od.lends.find? fun l => l.id = w.id) = none →
    ∃ t, exec (.fill r) s = .next t ∧ t.slot k = { v with value := r.operand % 2 ^ 32 } ∧
      .objRsp w.tap w.rtag 0 (r.operand % 2 ^ 32) ∈ t.out ∧ t.od.waiters = s.od.waiters.filter (fun x => x.id ≠ w.id)) ∧
  (∀ (s : State) (r : EngReq) (k op i : Nat) (v : Slot) (c : EngReq → Instr), s.ObjTo r k v → r.wait = true → s.waiterId = some i →
    (c = .read ∧ op = 2 ∧ v.kind = 1 ∧ v.full = false) ∨ (c = .waitge ∧ op = 5 ∧ v.kind = 2 ∧ v.value < r.operand) ∨
      (c = .wdec ∧ op = 7 ∧ v.kind = 2 ∧ v.value < r.operand) →
    ∃ t, exec (c r) s = .next t ∧ (∀ j, t.slot j = s.slot j) ∧ t.cnt = s.cnt ∧ t.regs = s.regs ∧ t.ports = s.ports ∧
      t.od.waiters = s.od.waiters ++ [{ id := i, tap := r.tap, rtag := r.rtag, handle := hKey r.handle, slot := k, op := op, operand := r.operand, deadline := if r.dl = 0 then none else some (s.clk.course + r.dl), lend := r.lend, tick := s.clk.ticks, ord := s.od.nextOrd }]) ∧
  (∀ (s : State) (r : EngReq) (c : EngReq → Instr), c ∈ [Instr.peek, .read, .fill, .signal, .waitge, .dec, .wdec, .realign, .arrive, .set] →
    s.Serving → s.isEave = true →
    (s.tapEn r.tap = false ∨ s.tapRuns r.tap = false → exec (c r) s = .next s) ∧
    (s.tapEn r.tap = true → s.tapRuns r.tap = true → r.bar = false →
      (s.odOn = false → ∃ t x, exec (c r) s = .next t ∧ .objRsp r.tap r.rtag 0x0D x ∈ t.out ∧ (∀ j, t.slot j = s.slot j)) ∧
      (s.odOn = true → r.remote = false → r.fence = false → s.tapHeld r.tap = false → s.translate r.handle = .fail →
        ∃ t x, exec (c r) s = .next t ∧ .objRsp r.tap r.rtag 8 x ∈ t.out ∧ (∀ j, t.slot j = s.slot j))))

/-- Fences and their acknowledgements, with a request that one held; the timeouts of fences and remote requests, the
deadlines of waiters and of held requests after acquisition, lending and its returns, and the deadlock detector, each of
which acts while Underlay mode has not stopped the store, and nothing while it has; the acknowledgement of a return; the
completion of a translation read; remote requests and their responses at an eave and at a ridge. -/
def Obligations.ObjectProtocols : Prop :=
  (∀ (s : State) (tap tag k : Nat), s.up = true → s.tapEn tap = true → s.isEave = true → k = fenceKey tap tag →
    (s.od.boards.get false k = true → exec (.wack tap tag) s = .next (s.count OD_CNT_FENCE_DUP)) ∧
    (s.od.boards.get false k = false → (∀ f ∈ s.od.fenced, fenceKey f.req.tap f.req.ftag ≠ k) →
      exec (.wack tap tag) s = .next { s with od := { s.od with boards := s.od.boards.set false k true } }) ∧
    (∀ (a b : List Fenced) (f : Fenced) (j : Nat) (o : SlotOut), s.od.boards.get false k = false → s.od.fenced = a ++ f :: b →
      fenceKey f.req.tap f.req.ftag = k → (∀ x ∈ a, fenceKey x.req.tap x.req.ftag ≠ k) → s.tapHeld f.req.tap = false →
      s.Rests f.req.handle j → o = slotOp f.op f.req.operand (s.slot j) → (o.waits = false ∨ f.req.wait = false) → f.op ≠ 9 →
      ∃ t, exec (.wack tap tag) s = .next t ∧ State.OpApplied { s with od := { s.od with fenced := a ++ b } } t j o ∧
        (f.req.bar = false → ∃ x, .objRsp f.req.tap f.req.rtag o.res x ∈ t.out ∧ ∀ y, o.val = some y → x = y))) ∧
  (∀ (s : State), s.up = true → (s.odRuns = false → ∀ c ∈ [Instr.fenceTimeout, .remoteTimeout, .objectDeadline, .lend, .lendReturn, .deadlockDetect],
    exec c s = .next s)) ∧
  (∀ (s : State), s.up = true → s.odRuns = true → ∃ t, exec .fenceTimeout s = .next t ∧
    t.od.fenced = s.od.fenced.filter (fun f => ¬ (f.tick + max 1 (s.rd OD_FENCE_TMO) < s.clk.ticks + 1)) ∧
    (∀ f ∈ s.od.fenced, f.tick + max 1 (s.rd OD_FENCE_TMO) < s.clk.ticks + 1 → f.req.bar = false →
      ∃ x, .objRsp f.req.tap f.req.rtag 5 x ∈ t.out) ∧
    t.od = { s.od with fenced := t.od.fenced, ctxs := t.od.ctxs } ∧ s.StoreOnly t) ∧
  (∀ (s : State), s.up = true → s.odRuns = true → ∃ t, exec .remoteTimeout s = .next t ∧
    t.od.remote = s.od.remote.filter (fun f => ¬ (f.tick + max 1 (s.rd OD_RMT_TMO) < s.clk.ticks + 1)) ∧
    (∀ f ∈ s.od.remote, f.tick + max 1 (s.rd OD_RMT_TMO) < s.clk.ticks + 1 → ∃ x, .objRsp f.tap f.rtag 0x0C x ∈ t.out) ∧
    t.od = { s.od with remote := t.od.remote, ctxs := t.od.ctxs } ∧ s.StoreOnly t) ∧
  (∀ (s : State), s.up = true → s.odRuns = true → (s.td.acq = false → exec .objectDeadline s = .next s) ∧
    (∀ n, n = s.clk.course → s.td.acq = true → s.od.lends = [] →
      ((∀ x ∈ s.od.reads, ∀ op r c, x.who = .engine op r c → r.overdue c n = false) ∨ s.od.tapQ = []) → ∃ t, exec .objectDeadline s = .next t ∧
      (∀ w, w ∈ t.od.waiters ↔ w ∈ s.od.waiters ∧ ∀ x ∈ s.od.waiters, ∀ d, x.deadline = some d → d ≤ n → x.id ≠ w.id) ∧
      (∀ w ∈ s.od.waiters, ∀ d, w.deadline = some d → d ≤ n → ∃ x, .objRsp w.tap w.rtag 5 x ∈ t.out) ∧
      t.od.fenced = s.od.fenced.filter (fun f => !f.req.overdue f.course n) ∧ t.od.tapQ = s.od.tapQ.filter (fun f => !f.req.overdue f.course n) ∧
      (∀ x, x ∈ t.od.reads ↔ x ∈ s.od.reads ∧ ∀ op r c, x.who = .engine op r c → r.overdue c n = false) ∧
      (∀ r, ((∃ f ∈ s.od.fenced, f.req = r ∧ r.overdue f.course n = true) ∨ (∃ f ∈ s.od.tapQ, f.req = r ∧ r.overdue f.course n = true) ∨
        (∃ x ∈ s.od.reads, ∃ op c, x.who = .engine op r c ∧ r.overdue c n = true)) → r.bar = false → ∃ x, .objRsp r.tap r.rtag 5 x ∈ t.out) ∧
      (∀ j, t.slot j = { s.slot j with last := (t.slot j).last }) ∧
      t.od = { s.od with waiters := t.od.waiters, slots := t.od.slots, ctxs := t.od.ctxs, fenced := t.od.fenced, reads := t.od.reads, tapQ := t.od.tapQ } ∧
      s.StoreOnly t)) ∧
  (∀ (s : State) (w : Waiter), s.up = true → s.odRuns = true →
    (s.od.waiters.filter fun w => w.lend ∧ w.tick < s.clk.ticks + 1) = [w] → ∃ t, exec .lend s = .next t ∧ s.StoreOnly t ∧
    t.od.waiters = s.od.waiters.map (fun x => if x.id = w.id then { x with lend := false } else x) ∧
    (∀ c, s.returnCourse w (s.clk.ticks + 1) (s.clk.course + 1) = some c → s.bit OD_CTL 2 = true → s.clk.course + 1 + s.fl OD_LEND 16 16 ≤ c →
      t.od.lends = s.od.lends ++ [{ id := w.id, tap := w.tap, ctx := hCtx w.handle, ret := c }] ∧ .lend w.id w.tap (c % 2 ^ 32) ∈ t.out ∧
      t.counter OD_CNT_LEND = (s.counter OD_CNT_LEND + 1) % 2 ^ 32) ∧
    (s.returnCourse w (s.clk.ticks + 1) (s.clk.course + 1) = none ∨ s.bit OD_CTL 2 = false ∨
        (∀ c, s.returnCourse w (s.clk.ticks + 1) (s.clk.course + 1) = some c → c < s.clk.course + 1 + s.fl OD_LEND 16 16) →
      t.od.lends = s.od.lends ∧ t.out = s.out ∧ t.cnt = s.cnt)) ∧
  (∀ (s : State) (h : Nat), s.up = true → s.odRuns = true → h = s.clk.course + 1 + s.fl OD_LEND 0 16 → ∃ t, exec .lendReturn s = .next t ∧
    t = { s with od := { s.od with lends := t.od.lends }, out := t.out } ∧
    (∀ l ∈ s.od.lends, l.early = false → l.ret ≤ h → .lendRet l.id false ∈ t.out ∧ ∀ x ∈ t.od.lends, x.id ≠ l.id) ∧
    (∀ l ∈ s.od.lends, l.early = false → h < l.ret → (∃ c ∈ s.tapTargets l.tap, c < l.ret ∧ c ≤ h) →
      .lendRet l.id true ∈ t.out ∧ ∀ x ∈ t.od.lends, x.id = l.id → x.early = true) ∧
    ((∀ l ∈ s.od.lends, l.early = true ∨ (h < l.ret ∧ ∀ c ∈ s.tapTargets l.tap, l.ret ≤ c ∨ h < c)) → t = s)) ∧
  (∀ (s : State) (id : Nat), s.up = true → s.isEave = true →
    ((∀ l ∈ s.od.lends, l.id = id → l.early = false) → exec (.retAck id) s = .next s) ∧
    (∀ l, s.od.lends.find? (fun l => l.id = id ∧ l.early) = some l →
      (∀ tap tag res val, l.rsp = some (tap, tag, res, val) → exec (.retAck id) s = .next (State.emit
        { s with od := { s.od with lends := s.od.lends.filter fun x => x.id ≠ id } } (.objRsp tap tag res val))) ∧
      (l.rsp = none → exec (.retAck id) s = .next { s with od := { s.od with lends := s.od.lends.filter fun x => x.id ≠ id } }))) ∧
  (∀ (s : State), s.up = true → s.odRuns = true → ∃ t, exec .deadlockDetect s = .next t ∧
    (∀ x ∈ s.od.ctxs.map Prod.fst, (s.ctxBlocked x = true → (t.ctx x).blocked = some ((s.ctx x).blocked.getD (s.clk.ticks + 1))) ∧
      (s.ctxBlocked x = false → (t.ctx x).blocked = none ∧ (t.od.dlk = s.od.dlk → (t.ctx x).reported = false))) ∧
    (s.bit OD_CTL 1 = false ∨ s.od.dlk = true → t.od.dlk = s.od.dlk ∧ t.irq = s.irq ∧ t.od.dlkCtx = s.od.dlkCtx ∧ t.od.dlkW = s.od.dlkW) ∧
    (∀ x b, s.bit OD_CTL 1 = true → s.od.dlk = false → s.ctxBlocked x = true → (s.ctx x).blocked = some b → (s.ctx x).reported = false →
      b + s.dlkWin ≤ s.clk.ticks + 1 → t.od.dlk = true ∧ t.od.dlkCourse = s.clk.course + 1 ∧ t.irq.getLsbD 24 = true ∧
        (t.ctx t.od.dlkCtx).reported = true ∧ t.od.dlkCount = min 4096 (s.blockedItems t.od.dlkCtx).length ∧
        t.od.dlkW = (s.blockedItems t.od.dlkCtx).take 64) ∧
    (∀ j, t.slot j = s.slot j) ∧ t.od.waiters = s.od.waiters ∧ t.od.part = s.od.part ∧ t.cnt = s.cnt ∧ t.out = s.out ∧ s.StoreOnly t) ∧
  (∀ (s : State) (id : Nat) (bytes : List Nat) (bad : Bool), s.up = true →
    ((∀ q ∈ s.mm.reads, q.id = id → ∀ key, q.use ≠ .trans key) → exec (.translationReadDone id bytes bad) s = .next s) ∧
    (∀ (q : MemReq) (key e : Nat) (z : State), s.mm.reads = [q] → q.id = id → q.use = .trans key → s.mm.waitR = [] → s.mm.waitW = [] →
      s.cp.run = [] → s.od.tapQ = [] → e = ofLe (((q.got ++ bytes).drop (key * 4 % 16)).take 4) →
      z = { s with mm := { s.mm with reads := [] }, od := { s.od with reads := [], cache := z.od.cache } } →
      z.od.cache = (if bad = false ∧ bitOf e 31 = true ∧ (∀ c ∈ s.od.cache, c.1 ≠ key) then ((key, e % 65536) :: s.od.cache).take 1024 else s.od.cache) →
      (s.od.reads = [⟨key, .program⟩] → bad = false → ∃ v, exec (.translationReadDone id bytes bad) s = .next { z with od := { z.od with progRes := some (key, v) } } ∧
        v = if bitOf e 31 = true ∧ (s.ctx (hCtx key)).st ≠ .undef ∧ (s.slot (e % 65536)).ctx = hCtx key then .slot (e % 65536) else .fail) ∧
      (∀ op r course, s.od.reads = [⟨key, .engine op r course⟩] →
        (bad = true → r.bar = false → min 255 (s.hf.score + 1) < s.retireThr → ∃ t x, exec (.translationReadDone id bytes bad) s = .next t ∧ .objRsp r.tap r.rtag 0x0B x ∈ t.out ∧
          (∀ j, t.slot j = s.slot j)) ∧
        (bad = false → bitOf e 31 = false ∨ (s.ctx (hCtx key)).st = .undef ∨ (s.slot (e % 65536)).ctx ≠ hCtx key → r.bar = false →
          ∃ t x, exec (.translationReadDone id bytes bad) s = .next t ∧ .objRsp r.tap r.rtag 8 x ∈ t.out ∧ (∀ j, t.slot j = s.slot j) ∧
            z.StoreOnly t ∧ t.od.cache = z.od.cache) ∧
        (∀ k o, bad = false → bitOf e 31 = true → (s.ctx (hCtx key)).st ≠ .undef → k = e % 65536 → (s.slot k).ctx = hCtx key →
          (s.slot k).gen = (s.ctx (hCtx key)).gen → (∀ w ∈ s.od.waiters, w.slot ≠ k) → o = slotOp op r.operand (s.slot k) →
          (o.waits = false ∨ r.wait = false) → op ≠ 9 →
          ∃ t, exec (.translationReadDone id bytes bad) s = .next t ∧ z.OpApplied t k o ∧
            (r.bar = false → ∃ x, .objRsp r.tap r.rtag o.res x ∈ t.out ∧ ∀ y, o.val = some y → x = y))))) ∧
  (∀ (s u : State) (h : RxHead) (m : ObjReqMsg) (r : Rx), s.up = true → h.port < s.nPorts → r = s.rxZudar h kObjReq → u = r.s →
    u.wire = s.wire ∧ (r.ok = false → exec (.objReqReceive h m) s = .next u) ∧
    (r.ok = true → u.isRidge = true → exec (.objReqReceive h m) s = .next (u.objForward m.dst (.objReq { m with origin := some (h.srcId, h.course) }))) ∧
    (r.ok = true → u.isRidge = false → m.dst ≠ u.ties.idNum → exec (.objReqReceive h m) s = .next (u.count OD_CNT_STALE)) ∧
    (∀ a, r.ok = true → u.isRidge = false → m.dst = u.ties.idNum → a = m.ctx * 65536 + m.loc →
      (∀ res, (u.odOn = false ∧ res = 0x0D) ∨ (u.odOn = true ∧ remoteOp m.op = false ∧ res = 0x10) ∨
          (u.odOn = true ∧ remoteOp m.op = true ∧ r.course < (u.ctx m.ctx).clear ∧ res = 0x0A) ∨
          (u.odOn = true ∧ remoteOp m.op = true ∧ (u.ctx m.ctx).clear ≤ r.course ∧ u.translate a = .fail ∧ res = 8) →
        ∃ t x, exec (.objReqReceive h m) s = .next (t.sendObj (.objRsp { dst := h.srcId % 1048576, result := res, rtag := m.rtag, value := x })) ∧
          u.StoreOnly t ∧ ∀ j, t.slot j = u.slot j) ∧
      (∀ k o, u.odOn = true → remoteOp m.op = true → (u.ctx m.ctx).clear ≤ r.course → u.Rests a k → o = slotOp m.op m.operand (u.slot k) →
        ∃ t x, exec (.objReqReceive h m) s = .next (t.sendObj (.objRsp { dst := h.srcId % 1048576, result := o.res, rtag := m.rtag, value := x })) ∧
          u.OpApplied t k o ∧ ∀ y, o.val = some y → x = y % 2 ^ 32))) ∧
  (∀ (u : State) (d : Nat) (b : Body),
    ((∀ p ∈ u.portList, (u.port p).role = .child → d < (u.port p).rangeLo ∨ (u.port p).rangeHi < d) → u.isRoot = true ∨ u.homeUplink = none →
      u.objForward d b = u.count TP_CNT_OBJDROP) ∧
    (∀ p, u.portList.find? (fun p => decide ((u.port p).role = .child) && decide ((u.port p).rangeLo ≤ d) && decide (d ≤ (u.port p).rangeHi)) = some p →
      u.objForward d b = if (u.port p).health.routes = false ∨ max 1 (u.fl TP_QLIM 0 8) ≤ objQueued (u.port p) then u.count TP_CNT_OBJDROP else u.xsend p b)) ∧
  (∀ (s u : State) (h : RxHead) (m : ObjRspMsg) (r : Rx), s.up = true → h.port < s.nPorts → r = s.rxZudar h kObjRsp → u = r.s →
    u.wire = s.wire ∧ (r.ok = false → exec (.objRspReceive h m) s = .next u) ∧
    (r.ok = true → u.isRidge = true → exec (.objRspReceive h m) s = .next (u.objForward m.dst (.objRsp { m with origin := some (h.srcId, h.course) }))) ∧
    (r.ok = true → u.isRidge = false → (∀ q ∈ u.od.remote, ¬ (q.tap = m.rtag / 1024 ∧ q.rtag = m.rtag % 256)) →
      exec (.objRspReceive h m) s = .next (u.count OD_CNT_STALE)) ∧
    (∀ a b q, r.ok = true → u.isRidge = false → u.od.remote = a ++ q :: b → (∀ x ∈ a, ¬ (x.tap = m.rtag / 1024 ∧ x.rtag = m.rtag % 256)) →
      q.tap = m.rtag / 1024 → q.rtag = m.rtag % 256 → ∃ t, exec (.objRspReceive h m) s = .next t ∧ t.od.remote = a ++ b ∧
        t.out = .objRsp q.tap q.rtag m.result m.value :: u.out ∧ t.od = { u.od with remote := a ++ b, ctxs := t.od.ctxs } ∧
        t = { u with od := t.od, out := t.out }))

/-- The collective frames: what COLL_UP does at a ridge with a partial, a vote, a match and, at the root, a report
(stray, of other parameters, seen before, folded in, sent up or complete; the first of an instance refused, without room
or opening a counter), and nothing at an eave; what COLL_DOWN, COLL_MOVE and COLL_ABORT do at an eave by the state of the
instance and at a ridge by where they come from; what COLL_REQ does at a ridge, on the way to the authority root and at
it; and the root's decisions: abort, move, completion, and the second phase of a vote without majority. -/
def Obligations.CollectiveFrames : Prop :=
  (∀ (s u : State) (h : RxHead) (k : RxKind) (c : Instr), s.up = true → h.port < s.nPorts →
    (∃ m, c = .collUpReceive h m ∧ k = kColl 0x40 (Body.collUp m).msgLen false) ∨ (∃ m, c = .collDownReceive h m ∧ k = kColl 0x41 (Body.collDown m).msgLen false) ∨
      (∃ m, c = .collMoveReceive h m ∧ k = kColl 0x42 44 true) ∨ (∃ m, c = .collAbortReceive h m ∧ k = kColl 0x43 44 true) ∨
      (∃ m, c = .collReqReceive h m ∧ k = kColl 0x44 52 true) →
    u = (s.rxZudar h k).s → u.wire = s.wire ∧ ((s.rxZudar h k).ok = false ∨ u.ceOn = false → exec c s = .next u)) ∧
  -- COLL_UP at a ridge
  (∀ (s z : State) (h : RxHead) (m : CollUp) (r : Rx), s.up = true → h.port < s.nPorts → r = s.rxZudar h (kColl 0x40 (Body.collUp m).msgLen false) →
    r.ok = true → r.s.ceOn = true → z = r.s.openGate 3 →
    (z.isRidge = false → exec (.collUpReceive h m) s = .next z) ∧
    (z.isRidge = true → (z.port h.port).role ≠ .child → exec (.collUpReceive h m) s = .next (z.count CE_CNT_STRAY)) ∧
    (z.isRidge = true → (z.port h.port).role = .child →
      (∀ (b : Ballot), m.data = .matched b → z.ctr m.par.cid m.par.isn m.attempt = none → exec (.collUpReceive h m) s = .next (z.count CE_CNT_STRAY)) ∧
      (∀ (b : Ballot) (c : TreeCtr) (g : Group), m.data = .matched b → z.ctr m.par.cid m.par.isn m.attempt = some c → z.group c.par.group = some g →
        (h.port ∉ g.ports → exec (.collUpReceive h m) s = .next (z.count CE_CNT_STRAY)) ∧
        (h.port ∈ g.ports → (sameParams c.par m.par = false ∨ (c.ports2 ≠ [] ∧ (c.match2.getD b).sameKey b = false)) →
          exec (.collUpReceive h m) s = .next (z.abortReq m.par.cid m.par.isn m.attempt z.home 0x06 (z.portNum h.port))) ∧
        (h.port ∈ g.ports → sameParams c.par m.par = true → (c.match2.getD b).sameKey b = true → h.port ∈ c.ports2 → exec (.collUpReceive h m) s = .next z)) ∧
      (∀ st rs, m.data = .report st rs → z.isRoot = true → z.follower = false →
        exec (.collUpReceive h m) s = .next (if z.isClosed m.par.cid m.par.isn then z
          else z.rootDown ((z.ctr m.par.cid m.par.isn m.attempt).getD { par := m.par, attempt := m.attempt }) st m.step rs)) ∧
      (∀ (c : TreeCtr) (g : Group), (∃ l, m.data = .partial_ l) ∨ (∃ b, m.data = .vote b) → z.ctr m.par.cid m.par.isn m.attempt = some c → z.group c.par.group = some g →
        (h.port ∉ g.ports → exec (.collUpReceive h m) s = .next (z.count CE_CNT_STRAY)) ∧
        (h.port ∈ g.ports → sameParams c.par m.par = false →
          exec (.collUpReceive h m) s = .next (z.abortReq m.par.cid m.par.isn m.attempt z.home 0x06 (z.portNum h.port))) ∧
        (h.port ∈ g.ports → sameParams c.par m.par = true → h.port ∈ c.ports → exec (.collUpReceive h m) s = .next z) ∧
        (∀ c' : TreeCtr, h.port ∈ g.ports → sameParams c.par m.par = true → h.port ∉ c.ports →
          c' = { c with ports := c.ports ++ [h.port], count := c.count + m.count, tick := z.clk.ticks, lanes := c'.lanes, ballot := c'.ballot } →
          (∀ l, m.data = .partial_ l → c'.lanes = List.zipWith (foldLane c.par.op) c.lanes l ∧ c'.ballot = c.ballot) →
          (∀ b, m.data = .vote b → c'.lanes = c.lanes ∧ c'.ballot = if c.ports = [] then b else foldBallot c.ballot b) →
          ((∃ p ∈ g.ports ++ z.gangSrcs, p ∉ c'.ports) → exec (.collUpReceive h m) s = .next ((z.evt 20).putCtr c')) ∧
          (∀ up : CollUp, up = { par := c'.par, attempt := c'.attempt, count := c'.count, step := c'.step, data := if c'.par.op = 0x07 then .vote c'.ballot else .partial_ c'.lanes } →
            (∀ p ∈ g.ports ++ z.gangSrcs, p ∈ c'.ports) → (z.isRoot = false ∨ z.follower = true) →
            (z.follower = true → exec (.collUpReceive h m) s = .next (((z.evt 20).putCtr { c' with sentUp := true }).emit (.gangPartial up))) ∧
            (z.follower = false → z.homeUplink = none → exec (.collUpReceive h m) s = .next ((z.evt 20).putCtr { c' with sentUp := true })) ∧
            (∀ q, z.follower = false → z.homeUplink = some q →
              exec (.collUpReceive h m) s = .next (((z.evt 20).putCtr { c' with sentUp := true }).xsend q (.collUp up)))) ∧
          ((∀ p ∈ g.ports ++ z.gangSrcs, p ∈ c'.ports) → z.isRoot = true → z.follower = false → exec (.collUpReceive h m) s = .next ((z.evt 20).rootComplete c' g)))) ∧
      (∀ (g : Group), (∃ l, m.data = .partial_ l) ∨ (∃ b, m.data = .vote b) → z.ctr m.par.cid m.par.isn m.attempt = none → z.group m.par.group = some g →
        (h.port ∉ g.ports → exec (.collUpReceive h m) s = .next (z.count CE_CNT_STRAY)) ∧
        (h.port ∈ g.ports → z.isRoot = true → z.isClosed m.par.cid m.par.isn = true → exec (.collUpReceive h m) s = .next z) ∧
        (h.port ∈ g.ports → (z.isRoot = false ∨ z.isClosed m.par.cid m.par.isn = false) → (262144 ≤ z.ce.ctrs.length ∨ (m.par.lanes ≠ 0 ∧ 4096 ≤ z.slotsUsed) ∨
            z.storeSize < z.storeUsed [] + z.storeReserved + (newCtr m).reserve) →
          exec (.collUpReceive h m) s = .next ((z.raise 22).abortReq m.par.cid m.par.isn m.attempt z.home 0x08 (z.portNum h.port))) ∧
        (∀ l, h.port ∈ g.ports → (z.isRoot = false ∨ z.isClosed m.par.cid m.par.isn = false) → z.ce.ctrs.length < 262144 → (m.par.lanes = 0 ∨ z.slotsUsed < 4096) →
          z.storeUsed [] + z.storeReserved + (newCtr m).reserve ≤ z.storeSize → m.data = .partial_ l → (∃ p ∈ g.ports ++ z.gangSrcs, p ≠ h.port) →
          exec (.collUpReceive h m) s = .next ((z.evt 20).putCtr { par := m.par, attempt := m.attempt, step := m.step, slot := decide (m.par.lanes ≠ 0), ports := [h.port], count := m.count, tick := z.clk.ticks, lanes := List.zipWith (foldLane m.par.op) (l.map fun _ => identityLane m.par.op) l }))))) ∧
  -- COLL_DOWN
  (∀ (s z : State) (h : RxHead) (m : CollDown) (r : Rx), s.up = true → h.port < s.nPorts → r = s.rxZudar h (kColl 0x41 (Body.collDown m).msgLen false) →
    r.ok = true → r.s.ceOn = true → z = r.s.openGate 3 →
    (z.isEave = true → (z.handleOf m.par.cid = none → exec (.collDownReceive h m) s = .next z) ∧
      (∀ n hd i, z.handleOf m.par.cid = some (n, hd) → hd.inst m.par.isn = some i → (i.out.isSome = true ∨ m.attempt < i.attempt → exec (.collDownReceive h m) s = .next z) ∧
        (i.out = none → i.attempt ≤ m.attempt → serialRebuild z.sq.step m.step = none → exec (.collDownReceive h m) s = .next (z.count TD_CNT_RANGE)) ∧
        (∀ st, i.out = none → i.attempt ≤ m.attempt → serialRebuild z.sq.step m.step = some st → m.phase = 0 →
          exec (.collDownReceive h m) s = .next ((((z.toMembers (.down m)).setHandle n (some (hd.setInst
          { i with out := some { reason := 0, status := m.status, step := st, results := m.results } }))).count CE_CNT_DONE).evt 21)) ∧
        (∀ (b : Ballot) (c : Ballot) (st : Nat), i.data = .vote b → i.out = none → i.attempt ≤ m.attempt → serialRebuild z.sq.step m.step = some st → m.phase ≠ 0 → z.follower = false →
          c = { step := st % 2 ^ 32, digest := m.results.headD 0 } → exec (.collDownReceive h m) s = .next ((z.setHandle n (some (hd.setInst { i with cand := some c }))).xsend h.port
          (.collUp { par := hd.params i.isn, attempt := m.attempt, count := 1, step := i.step, data := .matched { c with count := if b.step = c.step ∧ b.digest = c.digest then 1 else 0 } }))))) ∧
    (z.isEave = false → (z.isRoot = true ∨ (z.port h.port).role ≠ .homeUp → exec (.collDownReceive h m) s = .next z) ∧
      (∀ y, z.isRoot = false → (z.port h.port).role = .homeUp → m.phase = 0 → y = { z with ce := { z.ce with
          ctrs := z.ce.ctrs.filter fun c => ¬ (c.par.cid = m.par.cid ∧ c.par.isn = m.par.isn ∧ c.attempt ≤ 3)
          moves := z.ce.moves.filter fun x => ¬ (x.m.cid = m.par.cid ∧ x.m.isn = m.par.isn) } } →
        exec (.collDownReceive h m) s = .next ((((y.xsendAll (z.groupPorts m.par.group) (.collDown m)).toMembers (.down m)).count CE_CNT_DONE).evt 21)) ∧
      (∀ y c, z.isRoot = false → (z.port h.port).role = .homeUp → m.phase ≠ 0 → y = (z.xsendAll (z.groupPorts m.par.group) (.collDown m)).toMembers (.down m) →
        y.ctr m.par.cid m.par.isn m.attempt = some c → exec (.collDownReceive h m) s = .next (y.putCtr { c with match2 := some { step := m.step, digest := m.results.headD 0 }, tick := y.clk.ticks })))) ∧
  -- COLL_MOVE
  (∀ (s z : State) (h : RxHead) (m : CollMove) (r : Rx), s.up = true → h.port < s.nPorts → r = s.rxZudar h (kColl 0x42 44 true) →
    r.ok = true → r.s.ceOn = true → z = r.s.openGate 3 →
    (z.isEave = true → (z.handleOf m.cid = none → exec (.collMoveReceive h m) s = .next z) ∧
      (∀ n hd i, z.handleOf m.cid = some (n, hd) → hd.inst m.isn = some i → i.out = none →
        (m.attempt ≤ i.attempt → exec (.collMoveReceive h m) s = .next z) ∧
        (∀ p, i.attempt < m.attempt → i.mism = false → z.gang.inGang = false → z.rafter (hd.domOf m.attempt) = some p → (∀ w ∈ z.ce.gangWait, ¬ (w.2.par.cid = hd.cid ∧ w.2.par.isn = i.isn)) →
          ∃ y : State, exec (.collMoveReceive h m) s = .next (y.xsend p (.collUp { par := hd.params i.isn, attempt := m.attempt, count := 1, step := i.step, data := i.data })) ∧
            y = ((z.count CE_CNT_MOVE).evt 23).setHandle n (some (hd.setInst { i with attempt := m.attempt, tick := z.clk.ticks, held := false, asked := false, cand := none, gathered := true })))) ∧
      (∀ n hd, z.handleOf m.cid = some (n, hd) → hd.inst m.isn = none → hd.isn ≤ m.isn → exec (.collMoveReceive h m) s =
        .next ((((z.toMembers (.move m)).count CE_CNT_MOVE).evt 23).setHandle n (some { hd with early := (m.isn, m.attempt) :: hd.early.filter fun e => e.1 ≠ m.isn })))) ∧
    (z.isEave = false → (z.fromAbove h.port = false ∨ (∃ x ∈ z.ce.moves, x.m.cid = m.cid ∧ x.m.isn = m.isn ∧ m.attempt ≤ x.m.attempt) → exec (.collMoveReceive h m) s = .next z) ∧
      (z.fromAbove h.port = true → (∀ x ∈ z.ce.moves, ¬ (x.m.cid = m.cid ∧ x.m.isn = m.isn ∧ m.attempt ≤ x.m.attempt)) →
        ∃ y : State, exec (.collMoveReceive h m) s = .next ((((y.xsendAll z.liveChildren (.collMove m)).toMembers (.move m)).count CE_CNT_MOVE).evt 23) ∧ y = { z with ce := { z.ce with
          ctrs := z.ce.ctrs.filter fun c => ¬ (c.par.cid = m.cid ∧ c.par.isn = m.isn ∧ c.attempt ≤ m.attempt - 1)
          moves := { m := m, group := (z.ce.ctrs.find? fun c => c.par.cid = m.cid ∧ c.par.isn = m.isn).map (fun c => c.par.group), own := z.isAuthority m.dom && !z.follower, tick := z.clk.ticks, ports := z.liveChildren } :: z.ce.moves.filter fun x => ¬ (x.m.cid = m.cid ∧ x.m.isn = m.isn) } }))) ∧
  -- COLL_ABORT
  (∀ (s z : State) (h : RxHead) (m : CollAbort) (r : Rx) (l : AbortRec), s.up = true → h.port < s.nPorts → r = s.rxZudar h (kColl 0x43 44 true) →
    r.ok = true → r.s.ceOn = true → z = r.s.openGate 3 → l = { cid := m.cid, isn := m.isn, reason := m.reason, originId := m.origin.id, port := m.origin.port % 4096 } →
    (z.isEave = true → (z.handleOf m.cid = none → exec (.collAbortReceive h m) s = .next z) ∧
      (∀ n hd i, z.handleOf m.cid = some (n, hd) → hd.inst m.isn = some i → (i.out.isSome = true ∨ m.attempt < i.attempt → exec (.collAbortReceive h m) s = .next z) ∧
        (i.out = none → i.attempt ≤ m.attempt → ∃ y : State, exec (.collAbortReceive h m) s = .next ((State.count { y with ce := { y.ce with last := l } } CE_CNT_ABORT).evt 22) ∧
          y = (z.toMembers (.abort m)).setHandle n (some (hd.setInst { i with out := some { reason := m.reason } }))))) ∧
    (z.isEave = false → (z.fromAbove h.port = false → exec (.collAbortReceive h m) s = .next z) ∧
      (z.fromAbove h.port = true → ∃ y : State, exec (.collAbortReceive h m) s = .next ((((y.xsendAll z.liveChildren (.collAbort m)).toMembers (.abort m)).count CE_CNT_ABORT).evt 22) ∧ y = { z with ce := { z.ce with
        ctrs := z.ce.ctrs.filter fun c => ¬ (c.par.cid = m.cid ∧ c.par.isn = m.isn ∧ c.attempt ≤ 3)
        moves := z.ce.moves.filter fun x => ¬ (x.m.cid = m.cid ∧ x.m.isn = m.isn)
        last := l, closed := if z.isRoot then (m.cid, m.isn, z.clk.ticks) :: z.ce.closed else z.ce.closed } }))) ∧
  -- COLL_REQ
  (∀ (s z : State) (h : RxHead) (q : CollReq) (r : Rx) (o : Origin), s.up = true → h.port < s.nPorts → r = s.rxZudar h (kColl 0x44 52 true) →
    r.ok = true → r.s.ceOn = true → z = r.s.openGate 3 → o = { id := q.originId, port := q.port % 4096, onset := q.onset } →
    (z.isRidge = false → exec (.collReqReceive h q) s = .next z) ∧
    (z.isRidge = true → z.follower = true → exec (.collReqReceive h q) s = .next (z.emit (.gangSend (.request q)))) ∧
    (z.isRidge = true → z.follower = false → z.isAuthority q.dom = false → (z.reqPort q.dom = none → exec (.collReqReceive h q) s = .next z) ∧
      (∀ p, z.reqPort q.dom = some p → exec (.collReqReceive h q) s = .next (z.xsend p (.collReq q)))) ∧
    (z.isRidge = true → z.follower = false → z.isAuthority q.dom = true → (q.rtype = 0 ∨ q.cid ≠ 0 ∨ q.isn ≠ 0) →
      (z.isClosed q.cid q.isn = true ∨ (∃ x ∈ z.ce.moves, x.m.cid = q.cid ∧ x.m.isn = q.isn ∧ q.attempt < x.m.attempt) → exec (.collReqReceive h q) s = .next z) ∧
      (z.isClosed q.cid q.isn = false → (∀ x ∈ z.ce.moves, ¬ (x.m.cid = q.cid ∧ x.m.isn = q.isn ∧ q.attempt < x.m.attempt)) →
        (q.rtype = 0 → exec (.collReqReceive h q) s = .next (z.rootAbort q.cid q.isn q.attempt q.reason o)) ∧
        (q.rtype ≠ 0 → collMove q.cid = false → exec (.collReqReceive h q) s = .next (z.rootAbort q.cid q.isn q.attempt 0x03 o)) ∧
        (q.rtype ≠ 0 → collMove q.cid = true → 3 ≤ q.attempt → exec (.collReqReceive h q) s = .next (z.rootAbort q.cid q.isn q.attempt 0x04 o)) ∧
        (q.rtype ≠ 0 → collMove q.cid = true → q.attempt < 3 → exec (.collReqReceive h q) s = .next (z.rootMove q.cid q.isn q.attempt
          ((z.ce.ctrs.find? fun c => c.par.cid = q.cid ∧ c.par.isn = q.isn).map fun c => c.par.group) o))))) ∧
  -- the decisions
  (∀ (z : State) (cid isn a reason : Nat) (o : Origin), ∃ y : State, z.rootAbort cid isn a reason o =
      (((y.xsendAll (z.liveChildren ++ z.rolePorts .crossDown) (.collAbort { cid := cid, isn := isn, attempt := a, reason := reason, origin := o })).toMembers
      (.abort { cid := cid, isn := isn, attempt := a, reason := reason, origin := o })).count CE_CNT_ABORT).evt 22 ∧
    y = { z with irq := z.irq ||| BitVec.ofNat 32 (2 ^ 21), ce := { z.ce with
      ctrs := z.ce.ctrs.filter fun c => ¬ (c.par.cid = cid ∧ c.par.isn = isn ∧ c.attempt ≤ 3)
      moves := z.ce.moves.filter fun x => ¬ (x.m.cid = cid ∧ x.m.isn = isn)
      closed := (cid, isn, z.clk.ticks) :: z.ce.closed
      last := { cid := cid, isn := isn, reason := reason, originId := o.id, port := o.port % 4096 } } }) ∧
  (∀ (z : State) (cid isn a : Nat) (g : Option Nat) (o : Origin) (m : CollMove), m = { cid := cid, isn := isn, attempt := a + 1, dom := z.home.other, origin := o } →
    ∃ y : State, z.rootMove cid isn a g o = (((y.xsendAll (z.liveChildren ++ z.rolePorts .crossDown) (.collMove m)).toMembers (.move m)).count CE_CNT_MOVE).evt 23 ∧
    y = { z with ce := { z.ce with
      ctrs := z.ce.ctrs.filter fun c => ¬ (c.par.cid = cid ∧ c.par.isn = isn ∧ c.attempt ≤ a)
      moves := { m := m, group := g, own := false, tick := z.clk.ticks, ports := z.liveChildren ++ z.rolePorts .crossDown } :: z.ce.moves.filter fun x => ¬ (x.m.cid = cid ∧ x.m.isn = isn) } }) ∧
  (∀ (z : State) (c : TreeCtr) (g : Group) (own : Origin), own = { id := z.ownId, onset := z.clk.course % 2 ^ 32 } →
    (c.count ≠ g.m → z.rootComplete c g = z.rootAbort c.par.cid c.par.isn c.attempt 0x07 own) ∧
    (∀ (status step : Nat) (results : List Nat) (d : CollDown), c.count = g.m →
      d = { par := c.par, attempt := c.attempt, status := status, count := c.count, step := step, doneCourse := z.clk.course % 2 ^ 32, results := results } →
      (c.par.op = 0 ∧ status = 0 ∧ step = c.step ∧ results = []) ∨ (c.par.op = 7 ∧ g.m < 2 * c.ballot.count ∧ status = 0 ∧ step = c.ballot.step ∧ results = [c.ballot.digest]) ∨
        (c.par.op ≠ 0 ∧ c.par.op ≠ 7 ∧ step = c.step ∧ results = c.lanes.map (fun l => (roundLane c.par.op c.par.fmt c.par.rfmt c.par.sat l).bits) ∧
          status = (c.lanes.map (roundLane c.par.op c.par.fmt c.par.rfmt c.par.sat)).foldl (fun a r => a ||| r.status) 0) →
      ∃ y : State, z.rootComplete c g = (((y.xsendAll (z.groupPorts c.par.group) (.collDown d)).toMembers (.down d)).count CE_CNT_DONE).evt 21 ∧
        y = { z with ce := { z.ce with
          ctrs := z.ce.ctrs.filter fun x => ¬ (x.par.cid = c.par.cid ∧ x.par.isn = c.par.isn ∧ x.attempt ≤ 3)
          moves := z.ce.moves.filter fun x => ¬ (x.m.cid = c.par.cid ∧ x.m.isn = c.par.isn)
          closed := (c.par.cid, c.par.isn, z.clk.ticks) :: z.ce.closed } }) ∧
    (∀ d : CollDown, c.count = g.m → c.par.op = 7 → 2 * c.ballot.count ≤ g.m →
      d = { par := c.par, attempt := c.attempt, phase := 1, count := c.count, step := c.ballot.step, doneCourse := z.clk.course % 2 ^ 32, results := [c.ballot.digest] } →
      z.rootComplete c g = ((z.putCtr { c with match2 := some { c.ballot with count := 0 } }).xsendAll (z.groupPorts c.par.group) (.collDown d)).toMembers (.down d)))

/-- The timers of the collective engine and the gang: orphan counters, a move without completion, the deadline and the
isolation of an instance without outcome, with one handle and one instance, and the leaving of one with an outcome; what
a leader takes of a member and a member of its leader; the calibration of the gang link hop by hop, the exclusion of a
member not calibrated from 1,024 courses on, and the loss of members. -/
def Obligations.CollectiveTimersAndGang : Prop :=
  (∀ (s : State) (old : List TreeCtr), s.up = true → old = s.ce.ctrs.filter (fun c => c.tick + s.ceTmo CE_ORPHAN ≤ s.clk.ticks + 1) →
    (old = [] → exec .orphanCounterFree s = .next s) ∧
    (old ≠ [] → ∃ t, exec .orphanCounterFree s = .next t ∧ t = { s with cnt := t.cnt, irq := s.irq ||| BitVec.ofNat 32 (2 ^ 22), ce := { s.ce with ctrs := t.ce.ctrs } } ∧
      t.ce.ctrs = s.ce.ctrs.filter (fun c => ¬ (c.tick + s.ceTmo CE_ORPHAN ≤ s.clk.ticks + 1)) ∧
      (∀ o, t.counter o = if o = CE_CNT_ORPHAN then (s.counter o + old.length) % 2 ^ 32 else s.counter o))) ∧
  (∀ (s : State), s.up = true → ((∀ x ∈ s.ce.moves, x.own = false ∨ s.clk.ticks + 1 < x.tick + s.ceTmo CE_MOVE_TMO) → exec .moveTimeout s = .next s) ∧
    (∀ x, (s.ce.moves.filter fun r => r.own && decide (r.tick + s.ceTmo CE_MOVE_TMO ≤ s.clk.ticks + 1)) = [x] →
      exec .moveTimeout s = .next (s.rootAbort x.m.cid x.m.isn x.m.attempt 0x04 { id := s.ownId, onset := s.clk.course % 2 ^ 32 }))) ∧
  (∀ (s : State), s.up = true → (∀ e ∈ s.ce.handles, e.2 = none) → exec .isolated s = .next s ∧ exec .collectiveDeadline s = .next s) ∧
  (∀ (s : State) (n : Nat) (hd hd' : Handle) (i : Inst), s.up = true → s.ce.handles = [(n, some hd)] → hd.insts = [i] → i.out = none → s.sq.votes = [] →
    hd' = { hd with insts := [], recent := ((i.isn, { reason := 0x80 }) :: hd.recent).take 4 } →
    (s.clk.ticks + 1 < i.tick + s.ceTmo CE_ISO_TMO → exec .isolated s = .next s) ∧
    (i.tick + s.ceTmo CE_ISO_TMO ≤ s.clk.ticks + 1 → ∃ t, exec .isolated s = .next t ∧
      t = { s with cnt := t.cnt, irq := s.irq ||| BitVec.ofNat 32 (2 ^ 21), ce := { s.ce with handles := t.ce.handles, last := t.ce.last } } ∧
      t.handle n = some hd' ∧ t.ce.last = { cid := hd.cid, isn := i.isn, reason := 0x80, originId := s.ownId } ∧
      (∀ o, t.counter o = if o = CE_CNT_ISO then (s.counter o + 1) % 2 ^ 32 else s.counter o))) ∧
  (∀ (s : State) (n : Nat) (hd : Handle) (i : Inst), s.up = true → s.ce.handles = [(n, some hd)] → hd.insts = [i] → i.out = none →
    ((i.asked = true ∨ i.deadline = none ∨ ∃ d, i.deadline = some d ∧ s.clk.course < d) → exec .collectiveDeadline s = .next s) ∧
    (∀ d, i.asked = false → i.deadline = some d → d ≤ s.clk.course → exec .collectiveDeadline s = .next
      ((s.setHandle n (some { hd with insts := [{ i with asked := true }] })).abortReq hd.cid i.isn i.attempt (hd.domOf i.attempt) 0x02 0))) ∧
  (∀ (s : State) (n : Nat) (hd : Handle) (i : Inst) (o : CollOutcome) (c : Instr), s.up = true → s.ce.handles = [(n, some hd)] → hd.insts = [i] → i.out = some o →
    s.sq.votes = [] → hd.doneObj = none → c = .isolated ∨ c = .collectiveDeadline →
    ∃ t, exec c s = .next t ∧ t = { s with irq := if o.reason = 0 then s.irq else s.irq ||| BitVec.ofNat 32 (2 ^ 21), ce := { s.ce with handles := t.ce.handles } } ∧
      t.handle n = some { hd with insts := [], recent := ((i.isn, o) :: hd.recent).take 4, lastStatus := if o.reason = 0 then o.status else hd.lastStatus }) ∧
  (∀ (s : State) (pos : Nat) (m : GangMsg), s.up = true →
    (s.gang.inGang = false ∨ pos = s.ties.gangPos ∨ pos ∉ s.gang.members ∨ (s.follower = true ∧ pos ≠ s.gang.leader) → exec (.gangContribution pos m) s = .next s) ∧
    (s.gang.inGang = true → s.gang.leader = s.ties.gangPos → pos ≠ s.ties.gangPos → pos ∈ s.gang.members →
      (∀ step dig, m = .digest step dig → (s.sq.st ≠ .running → exec (.gangContribution pos m) s = .next s) ∧
        (s.sq.st = .running → exec (.gangContribution pos m) s = .next { s with sq := { s.sq with gangDigests := s.sq.gangDigests ++ [(pos, step, dig)] } })) ∧
      (∀ q, m = .request q → (s.ceOn = false → exec (.gangContribution pos m) s = .next s) ∧ (s.ceOn = true → exec (.gangContribution pos m) s = .next (s.routeReq q))) ∧
      (m = .dead → exec (.gangContribution pos m) s = .next (s.gangQuit true s.clk.course)) ∧
      (∀ c, m = .contribution c → (s.ceOn = false ∨ s.underlay = true → exec (.gangContribution pos m) s = .next s) ∧
        (∀ z, s.ceOn = true → s.underlay = false → s.isEave = false → z = s.busy.openGate 3 → exec (.gangContribution pos m) s = .next (z.ridgeUp (gangSrc pos) c)) ∧
        (∀ z w, s.ceOn = true → s.underlay = false → s.isEave = true → z = s.busy.openGate 3 → w = { z with ce := { z.ce with
            gangWait := (z.ce.gangWait.filter fun x => ¬ (x.1 = pos ∧ x.2.par.cid = c.par.cid ∧ x.2.par.isn = c.par.isn)) ++ [(pos, c)] } } →
          (w.handleOf c.par.cid = none → exec (.gangContribution pos m) s = .next w) ∧
          (∀ n hd i, w.handleOf c.par.cid = some (n, hd) → hd.inst c.par.isn = some i → (i.out.isSome = true ∨ i.gathered = true) → exec (.gangContribution pos m) s = .next w) ∧
          (∀ n hd i, w.handleOf c.par.cid = some (n, hd) → hd.inst c.par.isn = some i → i.out = none → i.gathered = false → i.mism = false →
            ((∃ q ∈ s.gang.members, q ≠ s.ties.gangPos ∧ ∀ x ∈ w.ce.gangWait, ¬ (x.1 = q ∧ x.2.par.cid = hd.cid ∧ x.2.par.isn = i.isn)) →
              exec (.gangContribution pos m) s = .next (w.setHandle n (some (hd.setInst i)))) ∧
            (∀ p d, (∀ q ∈ s.gang.members, q = s.ties.gangPos ∨ ∃ x ∈ w.ce.gangWait, x.1 = q ∧ x.2.par.cid = hd.cid ∧ x.2.par.isn = i.isn) →
              w.rafter (hd.domOf i.attempt) = some p →
              d = (w.ce.gangWait.filter fun x => x.2.par.cid = hd.cid ∧ x.2.par.isn = i.isn).foldl (fun a x => foldData hd.op a x.2.data) i.data →
              ∃ y : State, exec (.gangContribution pos m) s = .next (y.xsend p (.collUp { par := hd.params i.isn, attempt := i.attempt, count := 1, step := i.step, data := d })) ∧
                y = State.setHandle { w with ce := { w.ce with gangWait := w.ce.gangWait.filter fun x => ¬ (x.2.par.cid = hd.cid ∧ x.2.par.isn = i.isn) } } n
                  (some (hd.setInst { i with data := d, held := false, gathered := true }))))))) ∧
    (s.gang.inGang = true → s.gang.leader ≠ s.ties.gangPos → pos = s.gang.leader → pos ∈ s.gang.members →
      (∀ d, m = .down d → exec (.gangContribution pos m) s = .next (if s.isEave then s.eaveDown 0 d else s.spreadDown d)) ∧
      (∀ v, m = .move v → exec (.gangContribution pos m) s = .next (if s.isEave then s.eaveMove v else s.spreadMove v)) ∧
      (∀ a, m = .abort a → exec (.gangContribution pos m) s = .next (if s.isEave then s.eaveAbort a else s.spreadAbort a)) ∧
      (m = .diverged → (s.sq.st ≠ .running → exec (.gangContribution pos m) s = .next s) ∧
        (s.sq.st = .running → exec (.gangContribution pos m) s = .next { s with sq := { s.sq with told := true } })) ∧
      (m = .dead → exec (.gangContribution pos m) s = .next (s.gangQuit true s.clk.course)))) ∧
  (∀ (s : State) (l : List GangHop), s.up = true → (s.gang.inGang = false ∨ s.gang.calibrated = true → exec (.gangLinkCalibrationDone l) s = .next s) ∧
    (s.gang.inGang = true → s.gang.calibrated = false → exec (.gangLinkCalibrationDone l) s = .next { s with gang := { s.gang with calibrated := true, hops := l } })) ∧
  (∀ (s : State) (pos : Nat), s.up = true →
    (s.gang.inGang = false ∨ pos ∉ s.gang.members ∨ pos = s.gang.leader ∨ s.clk.ticks < 1024 ∨ (pos = s.ties.gangPos ∧ s.gang.calibrated = true) →
      exec (.gangCalTimeout pos) s = .next s) ∧
    (s.gang.inGang = true → pos ∈ s.gang.members → pos ≠ s.gang.leader → 1024 ≤ s.clk.ticks → (pos ≠ s.ties.gangPos ∨ s.gang.calibrated = false) →
      exec (.gangCalTimeout pos) s = .next { s with irq := s.irq ||| BitVec.ofNat 32 (2 ^ 26), gang := if pos = s.ties.gangPos then { s.gang with inGang := false, members := [] }
        else { s.gang with members := s.gang.members.filter fun m => m ≠ pos } })) ∧
  (∀ (s : State) (ps l : List Nat), l = ps.filter (fun m => m ∈ s.gang.members ∧ m ∉ s.gang.lost) →
    (s.asleep = false → s.up = false → exec (.gangLinkFail ps) s = .next s) ∧
    (s.asleep = true → exec (.gangLinkFail ps) s =
      .next ((if s.gang.inGang = false ∨ l = [] then s else { s with gang := { s.gang with lost := s.gang.lost ++ l } }).wake 5 0 none)) ∧
    (s.asleep = false → s.up = true → (s.gang.inGang = false ∨ l = []) → exec (.gangLinkFail ps) s = .next s) ∧
    (s.asleep = false → s.up = true → s.gang.inGang = true → l ≠ [] →
      exec (.gangLinkFail ps) s = .next { s with irq := s.irq ||| BitVec.ofNat 32 (2 ^ 26), gang := { s.gang with lost := s.gang.lost ++ l } }))

/-- R323: at a course boundary whose course number is a multiple of 2^DECAY every score is halved, rounding down, and so is
the score of contained faults; at no other boundary; and DECAY is 20 at reset. -/
def Obligations.ScoresHalveAtTheDecayBoundary : Prop :=
  (∀ (s : State) (k : Nat), s.up = true → s.Canon → k = (if 16 ≤ s.fl HF_SCORE 16 5 ∧ s.fl HF_SCORE 16 5 ≤ 30 then s.fl HF_SCORE 16 5 else 20) →
    ((s.clk.course + 1) % 2 ^ k ≠ 0 ∨ s.did.decay = true → exec .scoreDecay s = .next s) ∧
    ((s.clk.course + 1) % 2 ^ k = 0 → s.did.decay = false → ∃ t, exec .scoreDecay s = .next t ∧
      t = { s.openGate 5 with ports := t.ports, hf := { s.hf with score := s.hf.score / 2 }, did := { s.did with decay := true } } ∧
      (∀ p, t.port p = if p ∈ s.channels then { s.port p with score := (s.port p).score / 2 } else s.port p))) ∧
  State.reset.fl HF_SCORE 16 5 = 20 ∧ 2 ^ 20 = 1048576

/-- The health manager, the watchdog and the causes, entry and exit of Underlay mode: the budget window, the end of an
admission, internal parity failures by source (an uncontained one, a crossing, an object slot by who requested it, a tree
counter, a contribution log, a translation, a stamp record, a replay word and a register read of a master), the
firmware's trap, and what entry and exit leave. -/
def Obligations.HealthAndUnderlayRows : Prop :=
  (∀ (s : State) (w : Nat), s.up = true → w = (if 20 ≤ s.fl HF_BUDGET 8 5 ∧ s.fl HF_BUDGET 8 5 ≤ 31 then s.fl HF_BUDGET 8 5 else 30) →
    exec .budgetRecordExpiry s = .next { s with hf := { s.hf with rets := s.hf.rets.filter fun r => s.clk.course + 1 < r.course + 2 ^ w } }) ∧
  (∀ (s : State) (p : Nat) (v : Port), s.up = true → p < s.nPorts → v = s.port p →
    (v.health ≠ .admitting ∨ v.lossDecl = true → exec (.admissionComplete p) s = .next s) ∧
    (v.health = .admitting → v.lossDecl = false →
      (v.mismatch = true ∨ (∀ k, v.kaTick = some k → k + 9 < s.clk.ticks + 1) ∨ bitOf v.kaStatus 7 = false ∨ bitOf v.kaStatus 6 = false →
        exec (.admissionComplete p) s = .next (s.setPort p { v with admitAt := none })) ∧
      (∀ k a, v.mismatch = false → v.kaTick = some k → s.clk.ticks + 1 ≤ k + 9 → bitOf v.kaStatus 7 = true → bitOf v.kaStatus 6 = true → v.admitAt = some a →
        (s.clk.ticks + 1 ≤ a + max 1024 (s.rd HF_ADMIT) → exec (.admissionComplete p) s = .next s) ∧
        (a + max 1024 (s.rd HF_ADMIT) < s.clk.ticks + 1 → ∃ y : State, exec (.admissionComplete p) s = .next ((y.resendMoves [p]).sendHeldLogs) ∧
          y = (s.setPort p { v with health := .live, reason := 0, chg := (s.clk.course + 1) % 2 ^ 32, cand := 0, admitAt := none }).count HF_CNT_RESTORE)))) ∧
  -- internal parity failures
  (∀ (x : State) (unit sc : Nat) (y : State), sc = min 255 (x.hf.score + 1) → y = { x with cnt := y.cnt, irq := x.irq ||| BitVec.ofNat 32 (2 ^ 29), out := .perfEvt 30 1 :: x.out, hf := { x.hf with score := sc, lastUnit := unit } } →
    (∀ o, y.counter o = if o = HF_CNT_INT then (x.counter o + 1) % 2 ^ 32 else x.counter o) → y.cnt = (x.count HF_CNT_INT).cnt →
    x.contained unit = if max 1 (x.fl HF_SCORE 0 8) ≤ sc then y.underlayCause 2 unit else y) ∧
  (∀ (s : State) (n e : Nat) (k : LostWord), s.up = true → s.isEave = true → s.tapEn n = true →
    exec (.internalParityFailure (.crossing n e k)) s = .next ((((s.tapRun n e).dropWord n k).count BT_CNT_PAR).contained 0x06)) ∧
  (∀ (s : State) (u : Nat), s.up = true → (u = 0 ∨ 5 < u → exec (.internalParityFailure (.uncontained u)) s = .next s) ∧
    (1 ≤ u → u ≤ 5 → exec (.internalParityFailure (.uncontained u)) s = .next ((State.count { s with hf := { s.hf with lastUnit := u } } HF_CNT_UNCONT).underlayCause 1 u))) ∧
  (∀ (s : State) (h : Nat) (who : TransFor), s.up = true → s.isEave = true →
    ∃ y : State, exec (.internalParityFailure (.objectSlot h who)) s = .next (y.contained 0x07) ∧
      (∀ op r course, who = .engine op r course → (∀ f ∈ s.od.tapQ, f.req.tap ≠ r.tap) →
        (∀ j, y.slot j = s.slot j) ∧ y.od.waiters = s.od.waiters ∧ (r.bar = false → ∃ x, .objRsp r.tap r.rtag 0x0B x ∈ y.out)) ∧
      (∀ m src, who = .remote m src → y = (s.ended (hKey h) 0x0B).answer src m.rtag 0x0B none ∧ ∀ j, (s.ended (hKey h) 0x0B).slot j = s.slot j) ∧
      (who = .signal → y = s.ended (hKey h) 0x0B ∧ ∀ j, y.slot j = s.slot j) ∧
      (who = .program → y = { s with od := { s.od with progRes := some (hKey h, .parity) } }) ∧
      (who = .command → y = { s with od := { s.od with cmdRes := s.od.cmdRes.set none (hKey h) (some .parity) } })) ∧
  (∀ (s : State) (cid isn a : Nat), s.up = true → s.isRidge = true → (s.ctr cid isn a = none → exec (.internalParityFailure (.treeCounter cid isn a)) s = .next s) ∧
    (∀ c, s.ctr cid isn a = some c → ∃ y : State, exec (.internalParityFailure (.treeCounter cid isn a)) s = .next ((y.abortReq cid isn a s.home 0x09 0).contained 0x08) ∧
      y = { s with ce := { s.ce with ctrs := s.ce.ctrs.filter fun x => ¬ (x.par.cid = cid ∧ x.par.isn = isn ∧ x.attempt = a) } })) ∧
  (∀ (s : State) (h isn : Nat) (hd : Handle) (i : Inst), s.up = true → s.isEave = true → s.handle h = some hd → hd.inst isn = some i →
    exec (.internalParityFailure (.contribLog h isn)) s = .next ((s.abortReq hd.cid isn i.attempt (hd.domOf i.attempt) 0x09 0).contained 0x09)) ∧
  (∀ (s : State) (id : Nat) (q : MemReq) (key : Nat), s.up = true → s.mm.reads.find? (fun q => q.id = id) = some q → q.use = .trans key →
    exec (.internalParityFailure (.translation id)) s = exec (.translationReadDone id [] true) s) ∧
  (∀ (s : State) (p : Nat) (l : List StampRec) (r : StampRec), s.up = true → p < s.nPorts → (s.port p).fifo = l ++ [r] →
    ∃ y : State, exec (.internalParityFailure (.stampRecord p)) s = .next (y.contained 0x0B) ∧
      y.port p = { s.port p with fifo := l ++ [{ lo := r.lo / 2 ^ 48 * 2 ^ 48, hi := r.hi ||| 2 ^ 27 }], lower := none, upper := {} } ∧ (∀ q, q ≠ p → y.port q = s.port q) ∧
      (∀ o, o ≠ TD_CNT_EXCH_BAD → y.counter o = if o = PF_CNT_MISS p then (s.counter o + 1) % 2 ^ 32 else s.counter o) ∧
      y.counter TD_CNT_EXCH_BAD = (s.counter TD_CNT_EXCH_BAD + if (s.port p).lower.isSome then 1 else 0) % 2 ^ 32) ∧
  (∀ (s : State) (p : Nat), s.up = true → p < s.nPorts → ((s.port p).rpl.attempt = none → exec (.internalParityFailure (.replayWord p)) s = .next (s.contained 0x0C)) ∧
    ((s.port p).rpl.attempt ≠ none → ∃ y : State, exec (.internalParityFailure (.replayWord p)) s = .next (y.contained 0x0C) ∧
      (y.port p).rpl = { (s.port p).rpl with attempt := none, failRun := min 3 ((s.port p).rpl.failRun + 1) } ∧ (∀ q, q ≠ p → y.port q = s.port q) ∧
      (∀ o, y.counter o = if o = PF_CNT_RFAIL p then (s.counter o + 1) % 2 ^ 32 else s.counter o))) ∧
  -- causes
  (∀ (x : State) (cause unit : Nat), (x.hf.active = true ∨ x.hf.pend = true → x.underlayCause cause unit = { x with hf := { x.hf with newCause := true, more := min 255 (x.hf.more + 1) } }) ∧
    (x.hf.active = false → x.hf.pend = false → ∃ z : State, x.underlayCause cause unit = z.underlayRequests ∧
      z = { x with irq := x.irq ||| BitVec.ofNat 32 (2 ^ 1), hf := { x.hf with newCause := true, pend := true, cause := cause, unit := unit, more := 0 } } ∧
      (x.isEave = true → x.ce.handles = [] → z.underlayRequests = z) ∧
      (x.isEave = false → z.underlayRequests = z.raiseReq { rtype := 1, dom := x.home, port := (x.homeUplink.map x.portNum).getD 0, lo := x.ownRange.1, hi := x.ownRange.2 }))) ∧
  (∀ (s : State) (m : Master) (v : Nat), s.Serving → v < 2 ^ 32 → ∃ t, exec (.hfWdogKick m v) s = .next t ∧
    t.still = (if m = .cp ∧ bitOf v 0 = true then { s with hf := { s.hf with kicked := true, wdog := s.hf.wdog.map fun _ => 0 } } else s : State).still) ∧
  (∀ (s : State), s.up = true → (s.rd HF_WDOG_CFG = 0 ∨ s.pw.st ≠ .active ∨ (∀ k, s.hf.wdog = some k → k + 1 < s.rd HF_WDOG_CFG) → exec .watchdogExpiry s = .next s) ∧
    (∀ k, s.rd HF_WDOG_CFG ≠ 0 → s.pw.st = .active → s.hf.wdog = some k → s.rd HF_WDOG_CFG ≤ k + 1 →
      exec .watchdogExpiry s = .next ((State.count { s with hf := { s.hf with wdog := none } } HF_CNT_WDOG).underlayCause 4 0))) ∧
  (∀ (s : State), s.up = true → (s.cp.fw ≠ .running → exec .firmwareTrap s = .next s) ∧
    (s.cp.fw = .running → exec .firmwareTrap s = .next (State.underlayCause { s with cp := { s.cp with fw := .trap }, hf := { s.hf with wdog := none } } 5 0))) ∧
  (∀ (s : State), s.Serving → ∃ u : State, exec .hfUlEnter s = .next (u.underlayCause 6 0) ∧ u.still = s.still) ∧
  (∀ (s : State), s.Serving → ∃ t, exec .hfUlExit s = .next t ∧
    t.still = (if s.hf.active = true ∧ s.ck.lLock = true ∧ s.hf.kicked = true then { s with hf := { s.hf with exitAcc := true } } else s : State).still) ∧
  -- entry and exit
  (∀ (s : State), s.up = true → (s.hf.pend = false → exec .underlayEntry s = .next s) ∧
    (s.hf.pend = true → ∃ t, exec .underlayEntry s = .next t ∧ t.hf.active = true ∧ t.hf.pend = false ∧ t.hf.course = s.clk.course + 1 ∧
      t.ce = { s.ce with handles := [], held := [], ctrs := [], moves := [], gangWait := [], closed := [] } ∧ t.clk = s.clk ∧ t.regs = s.regs ∧
      (∀ p ∈ s.portList, (t.port p).cq = [] ∧ (t.port p).tq = []) ∧ (∀ p, (t.port p).health = (s.port p).health ∧ (t.port p).xq = (s.port p).xq) ∧
      t.sq.start = none ∧ (s.sq.st = .running ∨ s.sq.st = .held → t.sq.st = .stopped ∧ t.sq.code = 4) ∧
      (∀ d, (t.servo d).st = if (s.servo d).st = .track then .hold else (s.servo d).st) ∧
      (s.isEave = true → t.od.stopped = true ∧ t.od.lends = [] ∧ t.od.fenced = [] ∧ t.od.remote = [] ∧ t.od.reads = []) ∧
      (s.isEave = false → t.od = s.od))) ∧
  (∀ (s : State), s.up = true → (s.hf.active = false ∨ s.hf.exitAcc = false ∨ s.hf.newCause = true → exec .underlayExit s = .next s) ∧
    (s.hf.active = true → s.hf.exitAcc = true → s.hf.newCause = false → ∃ t, exec .underlayExit s = .next t ∧
      t = { s with ck := { s.ck with lclkFb := false }, ce := { s.ce with handles := [] }, im := { s.im with st := .idle, shot := none, reason := 0 }, hf := { s.hf with active := false, pend := false, exitAcc := false }, sq := t.sq, od := t.od, ports := t.ports } ∧
      (∀ p, t.port p = { s.port p with cLevel := (t.port p).cLevel, tLevel := (t.port p).tLevel, bktCyc := (t.port p).bktCyc }) ∧
      (s.isEave = true → t.sq = { arms := s.sq.arms, reports := s.sq.reports } ∧ t.od = { s.od with slots := [], ctxs := [], part := [], cache := [], reads := [], tapQ := [], progRes := none, cmdRes := [], stopped := false }) ∧
      (s.isEave = false → t.sq = s.sq ∧ t.od = s.od))) ∧
  (∀ s : State, s.up = true →
    exec (.internalParityFailure (.registerRead .host)) s = .next ((s.emit (.hostRsp 0 false)).uncontained 3) ∧
    exec (.internalParityFailure (.registerRead .sideband)) s = .next ((s.emit (.sbAnswer 0x82 0 [0])).uncontained 3) ∧
    exec (.internalParityFailure (.registerRead .cp)) s = .next (s.uncontained 3))

/-- Power: an attempt to enter Nap or Thatch with its refusers, the wakes from Nap and Thatch with their record, and the
loading of the time at the rebuild. Without a rebuild the course number is a free value. -/
def Obligations.PowerRows : Prop :=
  (∀ (s d : State) (m : Bool) (nc : Nat), s.up = true → nc = s.clk.course + 1 → d = { s with did := { s.did with power := true } } →
    (s.did.power = true → exec (.powerEntryAttempt m) s = .next s) ∧
    (s.did.power = false → s.follower = true → exec (.powerEntryAttempt m) s = .next { d with pw := { s.pw with enter := 0 } }) ∧
    (s.did.power = false → s.follower = false →
      (s.attemptDue 2 = true → s.refusers true nc m = [] →
        exec (.powerEntryAttempt m) s = .next { d with pw := { s.pw with enter := 2, req := 0, reqIdle := false } }) ∧
      (s.attemptDue 2 = false → s.pw.st = .active → s.attemptDue 1 = true → s.refusers false nc m = [] →
        exec (.powerEntryAttempt m) s = .next { d with pw := { s.pw with enter := 1, req := 0, reqIdle := false } }) ∧
      (s.attemptDue 2 = false → (s.pw.st ≠ .active ∨ s.attemptDue 1 = false) → exec (.powerEntryAttempt m) s = .next { d with pw := { s.pw with enter := 0 } }) ∧
      (∀ (st : Nat) (l : List Nat), l ≠ [] →
        (st = 2 ∧ s.attemptDue 2 = true ∧ l = s.refusers true nc m ∧ (s.pw.st ≠ .active ∨ s.attemptDue 1 = false)) ∨
          (st = 1 ∧ s.attemptDue 2 = false ∧ s.pw.st = .active ∧ s.attemptDue 1 = true ∧ l = s.refusers false nc m) →
        ∃ t, exec (.powerEntryAttempt m) s = .next t ∧
          t = { d with pw := { s.pw with enter := 0, lastRef := l.headD 0, lastSt := st }, cnt := t.cnt, out := .perfEvt 27 1 :: s.out } ∧
          (∀ k, t.counter (PW_REF_CNT k) = if k ∈ l then (s.counter (PW_REF_CNT k) + 1) % 2 ^ 32 else s.counter (PW_REF_CNT k)) ∧
          (∀ o, (∀ k, o ≠ PW_REF_CNT k) → t.counter o = s.counter o)))) ∧
  (∀ (s : State) (src arg : Nat) (r : Power) (l : List (Nat × Nat)) (v : Nat),
    l = (if s.pw.fresh then [] else s.pw.latch) → v = (if s.pw.fresh then 0 else s.pw.ovf) →
    r = { s.pw with busy := true, fresh := false, latch := if l.length < 64 then l ++ [(src, arg)] else l, ovf := if l.length < 64 then v else min 0xFFFF (v + 1) } →
    (s.up = true → (s.pw.st ≠ .nap → exec (.napWake src arg) s = .next s) ∧
      (s.pw.st = .nap → ∃ t, exec (.napWake src arg) s = .next t ∧ .pwState 0 ∈ t.out ∧ (∀ o ∈ s.out, o ∈ t.out) ∧
        t = { s with pw := { r with st := .active, planned := none }, hf := { s.hf with wdog := if s.cp.fw = .running then some 0 else none }, ck := { s.ck with gates := t.ck.gates }, out := t.out })) ∧
    (s.asleep = false → exec (.thatchWake src arg) s = .next s) ∧
    (s.ck.phase = .running → s.pw.st = .thatch → exec (.thatchWake src arg) s =
      .next { s with pw := { r with st := .waking }, ck := { s.ck with tTry := 0, lTry := 0 }, out := .pwState 3 :: s.out }) ∧
    (s.ck.phase = .running → s.pw.st = .waking → exec (.thatchWake src arg) s = .next { s with pw := r })) ∧
  (∀ (s : State), s.up = true →
    ((s.pw.st ≠ .nap ∨ s.pw.planned = none ∨ ∃ c, s.pw.planned = some c ∧ s.clk.course + 1 < c) → exec .napPlannedWake s = .next s) ∧
    (∀ c, s.pw.st = .nap → s.pw.planned = some c → c ≤ s.clk.course + 1 → ∃ t, exec .napPlannedWake s = .next t ∧ exec (.napWake 7 0) s = .next t)) ∧
  (∀ (s : State), ((s.asleep = false ∨ s.pw.st = .waking ∨ s.rd PW_THATCH_WAKE = 0) → exec .thatchTimerWake s = .next s) ∧
    (s.ck.phase = .running → s.pw.st = .thatch → s.rd PW_THATCH_WAKE ≠ 0 → ∃ t, exec .thatchTimerWake s = .next t ∧ exec (.thatchWake 6 0) s = .next t)) ∧
  (∀ (s : State), (s.ck.phase ≠ .running → exec .pwWake s = .next s) ∧
    (s.ck.phase = .running → s.pw.st = .active → exec .pwWake s = .next s.busy) ∧
    (s.ck.phase = .running → s.pw.st = .nap → ∃ t, exec .pwWake s = .next t ∧ exec (.napWake 3 0) s = .next t) ∧
    (s.ck.phase = .running → (s.pw.st = .thatch ∨ s.pw.st = .waking) → ∃ t, exec .pwWake s = .next t ∧ exec (.thatchWake 3 0) s = .next t)) ∧
  (∀ (s : State) (k cw : Nat) (temp : Int) (ok : Bool) (w : State),
    w = { s with rs := { s.rs with temp := if ok then temp else s.rs.temp, tempBad := !ok, cand := [] } } →
    ((s.ck.phase ≠ .running ∨ s.pw.st ≠ .waking ∨ s.ck.tLock = false ∨ s.ck.lLock = false ∨ s.pw.loaded = true) → exec (.timeRebuild k cw temp ok) s = .next s) ∧
    (s.ck.phase = .running → s.pw.st = .waking → s.ck.tLock = true → s.ck.lLock = true → s.pw.loaded = false → ∃ t, exec (.timeRebuild k cw temp ok) s = .next t ∧
      t = { s with clk := t.clk, td := t.td, pw := t.pw, ports := t.ports, regs := t.regs, rs := w.rs, cnt := t.cnt, free := t.free, bt := { s.bt with stepNext := true }, hf := { s.hf with score := t.hf.score } } ∧
      t.pw = { s.pw with rebuilt := s.canRebuild k, cyc := k, te := t.pw.te, waitLock := true, loaded := true } ∧
      (∀ d, (t.servo d).locked = false ∧ (t.servo d).lockRun = 0) ∧
      (∀ r : Reg, (∀ n, r.off ≠ (SQ_Pn_NEXT n).off) → t.rd r = s.rd r) ∧
      (∀ g, s.canRebuild k = true → g = (5 * w.rebuiltTime k cw / cycleFifths).toNat →
        t.clk = { course := g / 625, cyc := g % 625, ticks := s.clk.ticks + (g / 625 - s.clk.course) } ∧ t.cnt = s.cnt ∧ t.free = s.free ∧ t.td.acq = s.td.acq ∧
        (∀ d, (t.servo d).st = (s.servo d).st ∧ (t.servo d).f = (s.servo d).f) ∧
        t.hf.score = s.hf.score >>> (g / 625 / 2 ^ s.decayExp - s.clk.course / 2 ^ s.decayExp)) ∧
      (s.canRebuild k = false → t.clk = { course := (freeValue s.free).toNat, cyc := 0, ticks := s.clk.ticks } ∧ t.td.acq = false ∧ t.td.te = 0xFFFFFFFF ∧
        t.pw.te = 0xFFFFFFFF ∧ (∀ d, (t.servo d).st = .none ∧ (t.servo d).f = 0) ∧ t.ports = s.ports ∧ t.regs = s.regs ∧
        (∀ o, t.counter o = if o = PW_CNT_NOREBUILD then (s.counter o + 1) % 2 ^ 32 else s.counter o))))

end
end

