-- ==== Sys2Proof/Laws/FrameBase.lean ====
section
/-! SUPPORT. Sys2Proof/Laws/FrameBase.lean: the part of the state that no operation but a reset and the start of the
clocks touches, and how it passes through the ways in which states are put together. -/

set_option linter.all false
set_option Elab.async false

namespace Sys2Proof.Machine
/-- The queue, the tie-offs, the start phase, the course number and the count of boundaries. -/
def State.fixed (s : State) : List Instr × Ties × Phase × Nat × Nat :=
  (s.pending, s.ties, s.ck.phase, s.clk.course, s.clk.ticks)

/-- The part of it that the operations which set the course number leave alone. -/
def State.base (s : State) : List Instr × Ties × Phase := (s.pending, s.ties, s.ck.phase)

theorem State.base_eq {s t : State} (h : t.fixed = s.fixed) : t.base = s.base := by
  simp only [State.fixed, Prod.mk.injEq] at h
  simp only [State.base, h.1, h.2.1, h.2.2.1]

theorem State.fixed_mk (ties ck clk td rs regs cnt irq ports root home topo ce od hf pw gang im bt sq ev mm cp did logWr out free pending) :
    (State.mk ties ck clk td rs regs cnt irq ports root home topo ce od hf pw gang im bt sq ev mm cp did logWr out free pending).fixed =
      (pending, ties, ck.phase, clk.course, clk.ticks) := (rfl)

theorem State.fixed_eta (s : State) : (s.pending, s.ties, s.ck.phase, s.clk.course, s.clk.ticks) = s.fixed := (rfl)

theorem State.foldl_fixed {α : Type} (s : State) (l : List α) (f : State → α → State) (h : ∀ s a, (f s a).fixed = s.fixed) :
    (l.foldl f s).fixed = s.fixed := by
  induction l generalizing s with
  | nil => rfl
  | cons a l ih => simp [List.foldl, ih, h]

theorem State.each_fixed (s : State) (l : List Nat) (f : State → Nat → State) (h : ∀ s n, (f s n).fixed = s.fixed) :
    (s.each l f).fixed = s.fixed := State.foldl_fixed s l f h

theorem State.foldl_fst_fixed {α β : Type} (a : State × α) (l : List β) (f : State × α → β → State × α)
    (h : ∀ a b, (f a b).1.fixed = a.1.fixed) : (l.foldl f a).1.fixed = a.1.fixed := by
  induction l generalizing a with
  | nil => rfl
  | cons b l ih => simp [List.foldl, ih, h]

/-- The state of an outcome. -/
def CmdOut.st : CmdOut → State
  | .done s _ => s
  | .wait s _ => s

theorem CmdOut.status_st (s : State) (k : Nat) : (CmdOut.status s k).st = s := rfl
theorem CmdOut.ok_st (s : State) (d : List Nat) : (CmdOut.ok s d).st = s := rfl
theorem CmdOut.done_st (s : State) (r : Reply) : (CmdOut.done s r).st = s := rfl
theorem CmdOut.wait_st (s : State) (r : RunCmd) : (CmdOut.wait s r).st = s := rfl

theorem Rx.drop_s (s : State) (st : Stamp) : (Rx.drop s st).s = s := rfl
end Sys2Proof.Machine
end

