-- ==== Sys2Proof/Laws/Map.lean ====
section
/-! SUPPORT. Sys2Proof/Laws/Map.lean: reading after writing a table, and that every table operation keeps the canonical
form. -/

set_option linter.all false
set_option Elab.async false

namespace Sys2Proof.Machine

theorem Map.look_insert_same {α : Type} (m : Map α) (k : Nat) (v : α) : (m.insert k v).look k = some v := by
  induction m with
  | nil => simp [Map.insert, Map.look]
  | cons e r ih =>
    unfold Map.insert
    split
    · simp [Map.look]
    · split
      · simp [Map.look]
      · rename_i h1 h2
        simp [Map.look, Ne.symm h2, ih]

theorem Map.look_insert_other {α : Type} (m : Map α) (k j : Nat) (v : α) (h : j ≠ k) : (m.insert k v).look j = m.look j := by
  induction m with
  | nil => simp [Map.insert, Map.look, Ne.symm h]
  | cons e r ih =>
    unfold Map.insert
    split
    · simp [Map.look, Ne.symm h]
    · split
      · rename_i h1 h2
        subst h2
        simp [Map.look, Ne.symm h]
      · simp [Map.look, ih]

theorem Map.sorted_cons {α : Type} (e : Nat × α) (r : Map α) :
    Map.sorted (e :: r) = true ↔ (∀ x ∈ r, e.1 < x.1) ∧ Map.sorted r = true := by
  simp [Map.sorted]

theorem Map.look_none_of_lt {α : Type} (m : Map α) (k : Nat) (h : ∀ x ∈ m, k < x.1) : m.look k = none := by
  induction m with
  | nil => rfl
  | cons e r ih =>
    have h1 := h e (by simp)
    simp [Map.look, Nat.ne_of_gt h1, ih fun x hx => h x (by simp [hx])]

theorem Map.look_erase_same {α : Type} (m : Map α) (k : Nat) : (m.erase k).look k = none := by
  induction m with
  | nil => rfl
  | cons e r ih =>
    unfold Map.erase
    split
    · exact ih
    · rename_i hk
      simp [Map.look, hk, ih]

theorem Map.look_erase_other {α : Type} (m : Map α) (k j : Nat) (h : j ≠ k) : (m.erase k).look j = m.look j := by
  induction m with
  | nil => rfl
  | cons e r ih =>
    unfold Map.erase
    split
    · rename_i hk
      subst hk
      simp [Map.look, Ne.symm h, ih]
    · simp [Map.look, ih]

/-- A read after a write to the same key gives the value written. -/
theorem Map.get_set_same {α : Type} [DecidableEq α] (m : Map α) (d : α) (k : Nat) (v : α) :
    (m.set d k v).get d k = v := by
  unfold Map.set Map.get
  split
  · rename_i hv
    simp [Map.look_erase_same m k, hv]
  · simp [Map.look_insert_same]

/-- A write leaves every other key alone. -/
theorem Map.get_set_other {α : Type} [DecidableEq α] (m : Map α) (d : α) (k j : Nat) (v : α) (h : j ≠ k) :
    (m.set d k v).get d j = m.get d j := by
  unfold Map.set Map.get
  split
  · rw [Map.look_erase_other m k j h]
  · rw [Map.look_insert_other m k j v h]

theorem Map.mem_erase {α : Type} (m : Map α) (k : Nat) (x : Nat × α) (h : x ∈ m.erase k) : x ∈ m := by
  induction m with
  | nil => exact h
  | cons e r ih =>
    unfold Map.erase at h
    split at h
    · exact List.mem_cons_of_mem _ (ih h)
    · rcases List.mem_cons.mp h with rfl | h
      · exact List.mem_cons_self ..
      · exact List.mem_cons_of_mem _ (ih h)

theorem Map.mem_insert {α : Type} (m : Map α) (k : Nat) (v : α) (x : Nat × α) (h : x ∈ m.insert k v) :
    x = (k, v) ∨ x ∈ m := by
  induction m with
  | nil => simpa [Map.insert] using h
  | cons e r ih =>
    unfold Map.insert at h
    split at h
    · rcases List.mem_cons.mp h with h | h
      · exact .inl h
      · exact .inr h
    · split at h
      · rcases List.mem_cons.mp h with h | h
        · exact .inl h
        · exact .inr (List.mem_cons_of_mem _ h)
      · rcases List.mem_cons.mp h with h | h
        · exact .inr (h ▸ List.mem_cons_self ..)
        · rcases ih h with h | h
          · exact .inl h
          · exact .inr (List.mem_cons_of_mem _ h)

theorem Map.sorted_erase {α : Type} (m : Map α) (k : Nat) (h : m.sorted = true) : (m.erase k).sorted = true := by
  induction m with
  | nil => rfl
  | cons e r ih =>
    obtain ⟨h1, h2⟩ := (Map.sorted_cons e r).mp h
    unfold Map.erase
    split
    · exact ih h2
    · exact (Map.sorted_cons _ _).mpr ⟨fun x hx => h1 x (Map.mem_erase r k x hx), ih h2⟩

theorem Map.sorted_insert {α : Type} (m : Map α) (k : Nat) (v : α) (h : m.sorted = true) : (m.insert k v).sorted = true := by
  induction m with
  | nil => rfl
  | cons e r ih =>
    obtain ⟨h1, h2⟩ := (Map.sorted_cons e r).mp h
    unfold Map.insert
    split
    · rename_i hlt
      refine (Map.sorted_cons _ _).mpr ⟨fun x hx => ?_, h⟩
      rcases List.mem_cons.mp hx with rfl | hx
      · exact hlt
      · exact Nat.lt_trans hlt (h1 x hx)
    · split
      · rename_i hk
        exact (Map.sorted_cons _ _).mpr ⟨fun x hx => hk ▸ h1 x hx, h2⟩
      · rename_i hlt hne
        refine (Map.sorted_cons _ _).mpr ⟨fun x hx => ?_, ih h2⟩
        rcases Map.mem_insert r k v x hx with rfl | hx
        · exact Nat.lt_of_le_of_ne (Nat.le_of_not_lt hlt) (Ne.symm hne)
        · exact h1 x hx

theorem Map.wf_iff {α : Type} [DecidableEq α] (d : α) (m : Map α) :
    m.wf d = true ↔ m.sorted = true ∧ ∀ x ∈ m, x.2 ≠ d := by
  simp [Map.wf]

/-- Writing keeps the canonical form. -/
theorem Map.wf_set {α : Type} [DecidableEq α] (m : Map α) (d : α) (k : Nat) (v : α) (h : m.wf d = true) :
    (m.set d k v).wf d = true := by
  obtain ⟨h1, h2⟩ := (Map.wf_iff d m).mp h
  rw [Map.wf_iff]
  unfold Map.set
  split
  · exact ⟨Map.sorted_erase m k h1, fun x hx => h2 x (Map.mem_erase m k x hx)⟩
  · rename_i hv
    refine ⟨Map.sorted_insert m k v h1, fun x hx => ?_⟩
    rcases Map.mem_insert m k v x hx with rfl | hx
    · exact hv
    · exact h2 x hx

/-- Writing keeps keys rising, whatever the default. -/
theorem Map.sorted_set {α : Type} [DecidableEq α] (m : Map α) (d : α) (k : Nat) (v : α) (h : m.sorted = true) :
    (m.set d k v).sorted = true := by
  unfold Map.set
  split
  · exact Map.sorted_erase m k h
  · exact Map.sorted_insert m k v h

theorem Map.sorted_filter {α : Type} (m : Map α) (p : Nat × α → Bool) (h : m.sorted = true) : Map.sorted (m.filter p) = true := by
  induction m with
  | nil => rfl
  | cons e r ih =>
    obtain ⟨h1, h2⟩ := (Map.sorted_cons e r).mp h
    simp only [List.filter_cons]
    split
    · exact (Map.sorted_cons _ _).mpr ⟨fun x hx => h1 x ((List.mem_filter.mp hx).1), ih h2⟩
    · exact ih h2

/-- Clearing a range keeps the canonical form. -/
theorem Map.wf_clearRange {α : Type} [DecidableEq α] (m : Map α) (d : α) (lo hi : Nat) (h : m.wf d = true) :
    (m.clearRange lo hi).wf d = true := by
  obtain ⟨h1, h2⟩ := (Map.wf_iff d m).mp h
  rw [Map.wf_iff]
  exact ⟨Map.sorted_filter m _ h1, fun x hx => h2 x ((List.mem_filter.mp hx).1)⟩

theorem Map.look_set_other {α : Type} [DecidableEq α] (m : Map α) (d : α) (k j : Nat) (v : α) (h : j ≠ k) :
    (m.set d k v).look j = m.look j := by
  unfold Map.set
  split
  · exact Map.look_erase_other m k j h
  · exact Map.look_insert_other m k j v h

/-- Whatever an unlisted key reads as, writing another key leaves a key's value. -/
theorem Map.get_other_default {α : Type} [DecidableEq α] (m : Map α) (d e : α) (k j : Nat) (v : α) (h : j ≠ k) :
    (m.set d k v).get e j = m.get e j := by
  unfold Map.get; rw [Map.look_set_other m d k j v h]

/-- A read after a write of a value that an unlisted key does not read as gives it, whatever the table. -/
theorem Map.get_set_ne {α : Type} [DecidableEq α] (m : Map α) (d : α) (k : Nat) (v : α) (h : v ≠ d) :
    (m.set d k v).get d k = v := by
  unfold Map.set Map.get
  rw [if_neg h, Map.look_insert_same]; rfl

theorem Map.get_clearRange {α : Type} (m : Map α) (d : α) (lo hi k : Nat) :
    (m.clearRange lo hi).get d k = if lo ≤ k ∧ k ≤ hi then d else m.get d k := by
  unfold Map.get Map.clearRange
  induction m with
  | nil => simp [Map.look]
  | cons e r ih =>
    simp only [List.filter_cons]
    by_cases he : lo ≤ e.1 ∧ e.1 ≤ hi
    · rw [if_neg (by simp [he]), ih]
      by_cases hk : lo ≤ k ∧ k ≤ hi
      · simp [hk]
      · have : e.1 ≠ k := fun h => hk (h ▸ he)
        simp [hk, Map.look, this]
    · rw [if_pos (decide_eq_true he)]
      simp only [Map.look]
      by_cases hk : e.1 = k
      · subst hk; simp [he]
      · simp only [hk, if_false]; exact ih

end Sys2Proof.Machine
end

