-- ==== Sys2Proof/Laws/CanonBase.lean ====
section
/-! SUPPORT. Sys2Proof/Laws/CanonBase.lean: the canonical form of the tables of the state, and how it passes through the
ways in which states are put together. -/

set_option linter.all false
set_option Elab.async false

namespace Sys2Proof.Machine

theorem State.canon_mk (ties ck clk td rs regs cnt irq ports root home topo ce od hf pw gang im bt sq ev mm cp did logWr out free pending) :
    (State.mk ties ck clk td rs regs cnt irq ports root home topo ce od hf pw gang im bt sq ev mm cp did logWr out free pending).Canon =
      Cells cnt regs ports od.slots sq.store cp.mem clk.cyc td.steps cp.credits := (rfl)

theorem State.canon_eta (s : State) :
    Cells s.cnt s.regs s.ports s.od.slots s.sq.store s.cp.mem s.clk.cyc s.td.steps s.cp.credits = s.Canon := (rfl)

theorem State.foldl_canon {α : Type} (s : State) (l : List α) (f : State → α → State) (hs : s.Canon)
    (h : ∀ s a, s.Canon → (f s a).Canon) : (l.foldl f s).Canon := by
  induction l generalizing s with
  | nil => exact hs
  | cons a l ih => exact ih _ (h _ _ hs)

theorem State.each_canon (s : State) (l : List Nat) (f : State → Nat → State) (hs : s.Canon)
    (h : ∀ s n, s.Canon → (f s n).Canon) : (s.each l f).Canon := State.foldl_canon s l f hs h

theorem State.foldl_fst_canon {α β : Type} (a : State × α) (l : List β) (f : State × α → β → State × α) (ha : a.1.Canon)
    (h : ∀ a b, a.1.Canon → (f a b).1.Canon) : (l.foldl f a).1.Canon := by
  induction l generalizing a with
  | nil => exact ha
  | cons b l ih => exact ih _ (h _ _ ha)

end Sys2Proof.Machine
end

