-- ==== Sys2Proof/Laws/CanonOps.lean ====
section
/-! SUPPORT. Sys2Proof/Laws/CanonOps.lean: every operation of Machine/Ops.lean keeps the tables of the state in canonical
form. -/

set_option linter.all false
set_option Elab.async false

namespace Sys2Proof.Machine
open Sys2Proof.Config
set_option linter.unusedSimpArgs false

theorem State.wr_canon (s : State) (r : Reg) (v : Nat) (hc : s.Canon) : (s.wr r v).Canon :=
  { hc with regs := Map.sorted_set _ _ _ _ hc.regs }

theorem State.wrFld_canon (s : State) (r : Reg) (lo : Nat) (w : Nat) (v : Nat) (hc : s.Canon) : (State.wrFld s r lo w v).Canon := by
  unfold State.wrFld
  repeat' (first
    | with_reducible assumption
    | (simp +zetaHave (maxDischargeDepth := 60) only [State.canon_mk, State.canon_eta, apply_ite State.Canon, apply_ite Prod.fst, ite_self, implies_true,
        State.wr_canon, hc]; done)
    | split
    | intro _
    | (dsimp +zetaHave only))

theorem State.count_canon (s : State) (off : Nat) (k : Nat) (hc : s.Canon) : (s.count off k).Canon :=
  { hc with cnt := Map.wf_set _ _ _ _ hc.cnt }

theorem State.clearCounters_canon (s : State) (lo hi : Nat) (hc : s.Canon) : (s.clearCounters lo hi).Canon :=
  { hc with cnt := Map.wf_clearRange _ _ _ _ hc.cnt }

theorem State.drawFree_canon (s : State) (hc : s.Canon) : (State.drawFree s).1.Canon := by
  unfold State.drawFree
  repeat' (first
    | with_reducible assumption
    | (simp +zetaHave (maxDischargeDepth := 60) only [State.canon_mk, State.canon_eta, apply_ite State.Canon, apply_ite Prod.fst, ite_self, implies_true,
        hc]; done)
    | split
    | intro _
    | (dsimp +zetaHave only))

theorem State.raise_canon (s : State) (k : Nat) (hc : s.Canon) : (State.raise s k).Canon := by
  unfold State.raise
  repeat' (first
    | with_reducible assumption
    | (simp +zetaHave (maxDischargeDepth := 60) only [State.canon_mk, State.canon_eta, apply_ite State.Canon, apply_ite Prod.fst, ite_self, implies_true,
        hc]; done)
    | split
    | intro _
    | (dsimp +zetaHave only))

theorem State.raiseIf_canon (s : State) (c : Bool) (k : Nat) (hc : s.Canon) : (State.raiseIf s c k).Canon := by
  unfold State.raiseIf
  repeat' (first
    | with_reducible assumption
    | (simp +zetaHave (maxDischargeDepth := 60) only [State.canon_mk, State.canon_eta, apply_ite State.Canon, apply_ite Prod.fst, ite_self, implies_true,
        State.raise_canon, hc]; done)
    | split
    | intro _
    | (dsimp +zetaHave only))

theorem State.emit_canon (s : State) (o : Output) (hc : s.Canon) : (State.emit s o).Canon := by
  unfold State.emit
  repeat' (first
    | with_reducible assumption
    | (simp +zetaHave (maxDischargeDepth := 60) only [State.canon_mk, State.canon_eta, apply_ite State.Canon, apply_ite Prod.fst, ite_self, implies_true,
        hc]; done)
    | split
    | intro _
    | (dsimp +zetaHave only))

theorem State.evt_canon (s : State) (line : Nat) (k : Nat) (hc : s.Canon) : (State.evt s line k).Canon := by
  unfold State.evt
  repeat' (first
    | with_reducible assumption
    | (simp +zetaHave (maxDischargeDepth := 60) only [State.canon_mk, State.canon_eta, apply_ite State.Canon, apply_ite Prod.fst, ite_self, implies_true,
        State.count_canon, State.emit_canon, hc]; done)
    | split
    | intro _
    | (dsimp +zetaHave only))

theorem State.clkoutPulse_canon (s : State) (src : Nat) (hc : s.Canon) : (State.clkoutPulse s src).Canon := by
  unfold State.clkoutPulse
  repeat' (first
    | with_reducible assumption
    | (simp +zetaHave (maxDischargeDepth := 60) only [State.canon_mk, State.canon_eta, apply_ite State.Canon, apply_ite Prod.fst, ite_self, implies_true,
        State.emit_canon, hc]; done)
    | split
    | intro _
    | (dsimp +zetaHave only))

theorem State.clkoutDrive_canon (s : State) (low : Bool) (hc : s.Canon) : (State.clkoutDrive s low).Canon := by
  unfold State.clkoutDrive
  repeat' (first
    | with_reducible assumption
    | (simp +zetaHave (maxDischargeDepth := 60) only [State.canon_mk, State.canon_eta, apply_ite State.Canon, apply_ite Prod.fst, ite_self, implies_true,
        State.emit_canon, hc]; done)
    | split
    | intro _
    | (dsimp +zetaHave only))

theorem State.openGate_canon (s : State) (k : Nat) (hc : s.Canon) : (State.openGate s k).Canon := by
  unfold State.openGate
  repeat' (first
    | with_reducible assumption
    | (simp +zetaHave (maxDischargeDepth := 60) only [State.canon_mk, State.canon_eta, apply_ite State.Canon, apply_ite Prod.fst, ite_self, implies_true,
        State.evt_canon, hc]; done)
    | split
    | intro _
    | (dsimp +zetaHave only))

theorem State.busy_canon (s : State) (hc : s.Canon) : (State.busy s).Canon := by
  unfold State.busy
  repeat' (first
    | with_reducible assumption
    | (simp +zetaHave (maxDischargeDepth := 60) only [State.canon_mk, State.canon_eta, apply_ite State.Canon, apply_ite Prod.fst, ite_self, implies_true,
        hc]; done)
    | split
    | intro _
    | (dsimp +zetaHave only))

theorem State.setPower_canon (s : State) (st : PowerState) (hc : s.Canon) : (State.setPower s st).Canon := by
  unfold State.setPower
  repeat' (first
    | with_reducible assumption
    | (simp +zetaHave (maxDischargeDepth := 60) only [State.canon_mk, State.canon_eta, apply_ite State.Canon, apply_ite Prod.fst, ite_self, implies_true,
        hc]; done)
    | split
    | intro _
    | (dsimp +zetaHave only))

theorem State.napWake_canon (s : State) (hc : s.Canon) : (State.napWake s).Canon := by
  unfold State.napWake
  repeat' (first
    | with_reducible assumption
    | (simp +zetaHave +contextual (maxDischargeDepth := 60) only [State.canon_mk, State.canon_eta, apply_ite State.Canon, apply_ite Prod.fst, ite_self, implies_true,
        State.foldl_canon, State.foldl_fst_canon, State.openGate_canon, State.setPower_canon, hc]; done)
    | split
    | intro _
    | (dsimp +zetaHave only)
    | refine State.foldl_canon _ _ _ ?_ (fun _ _ hc => ?_)
    | refine State.foldl_fst_canon _ _ _ ?_ (fun _ _ hc => ?_))

theorem State.latchWake_canon (s : State) (src : Nat) (arg : Nat) (req : Option HeldReq) (hc : s.Canon) : (State.latchWake s src arg req).Canon := by
  unfold State.latchWake
  repeat' (first
    | with_reducible assumption
    | (simp +zetaHave (maxDischargeDepth := 60) only [State.canon_mk, State.canon_eta, apply_ite State.Canon, apply_ite Prod.fst, ite_self, implies_true,
        hc]; done)
    | split
    | intro _
    | (dsimp +zetaHave only))

theorem State.wake_canon (s : State) (src : Nat) (arg : Nat) (req : Option HeldReq) (hc : s.Canon) : (State.wake s src arg req).Canon := by
  unfold State.wake
  repeat' (first
    | with_reducible assumption
    | (simp +zetaHave (maxDischargeDepth := 60) only [State.canon_mk, State.canon_eta, apply_ite State.Canon, apply_ite Prod.fst, ite_self, implies_true,
        State.setPower_canon, State.napWake_canon, State.latchWake_canon, State.busy_canon, hc]; done)
    | split
    | intro _
    | (dsimp +zetaHave only))

theorem State.atCyc_canon (s : State) (c : Nat) (hc : s.Canon) : (s.atCyc c).Canon :=
  { hc with cyc := Nat.min_le_left _ _ }

theorem State.flagInterval_canon (s : State) (i : Int) (hc : s.Canon) : (State.flagInterval s i).Canon := by
  unfold State.flagInterval
  repeat' (first
    | with_reducible assumption
    | (simp +zetaHave (maxDischargeDepth := 60) only [State.canon_mk, State.canon_eta, apply_ite State.Canon, apply_ite Prod.fst, ite_self, implies_true,
        hc]; done)
    | split
    | intro _
    | (dsimp +zetaHave only))

theorem State.setPort_canon (s : State) (p : Nat) (v : Port) (hc : s.Canon) : (s.setPort p v).Canon :=
  { hc with ports := Map.wf_set _ _ _ _ hc.ports }

theorem State.modPort_canon (s : State) (p : Nat) (f : Port → Port) (hc : s.Canon) : (State.modPort s p f).Canon := by
  unfold State.modPort
  repeat' (first
    | with_reducible assumption
    | (simp +zetaHave (maxDischargeDepth := 60) only [State.canon_mk, State.canon_eta, apply_ite State.Canon, apply_ite Prod.fst, ite_self, implies_true,
        State.setPort_canon, hc]; done)
    | split
    | intro _
    | (dsimp +zetaHave only))

theorem State.setServo_canon (s : State) (d : Dom) (v : Servo) (hc : s.Canon) : (State.setServo s d v).Canon := by
  unfold State.setServo
  repeat' (first
    | with_reducible assumption
    | (simp +zetaHave (maxDischargeDepth := 60) only [State.canon_mk, State.canon_eta, apply_ite State.Canon, apply_ite Prod.fst, ite_self, implies_true,
        hc]; done)
    | split
    | intro _
    | (dsimp +zetaHave only))

theorem State.modServo_canon (s : State) (d : Dom) (f : Servo → Servo) (hc : s.Canon) : (State.modServo s d f).Canon := by
  unfold State.modServo
  repeat' (first
    | with_reducible assumption
    | (simp +zetaHave (maxDischargeDepth := 60) only [State.canon_mk, State.canon_eta, apply_ite State.Canon, apply_ite Prod.fst, ite_self, implies_true,
        State.setServo_canon, hc]; done)
    | split
    | intro _
    | (dsimp +zetaHave only))

theorem State.memRead_canon (s : State) (use : MemUse) (addr : Nat) (beats : Nat) (hc : s.Canon) : (State.memRead s use addr beats).Canon := by
  unfold State.memRead
  repeat' (first
    | with_reducible assumption
    | (simp +zetaHave (maxDischargeDepth := 60) only [State.canon_mk, State.canon_eta, apply_ite State.Canon, apply_ite Prod.fst, ite_self, implies_true,
        State.openGate_canon, hc]; done)
    | split
    | intro _
    | (dsimp +zetaHave only))

theorem State.memWrite_canon (s : State) (use : MemUse) (addr : Nat) (bytes : List Nat) (hc : s.Canon) : (State.memWrite s use addr bytes).Canon := by
  unfold State.memWrite
  repeat' (first
    | with_reducible assumption
    | (simp +zetaHave (maxDischargeDepth := 60) only [State.canon_mk, State.canon_eta, apply_ite State.Canon, apply_ite Prod.fst, ite_self, implies_true,
        State.openGate_canon, hc]; done)
    | split
    | intro _
    | (dsimp +zetaHave only))

theorem State.memPump_canon (s : State) (hc : s.Canon) : (State.memPump s).Canon := by
  unfold State.memPump
  repeat' (first
    | with_reducible assumption
    | (simp +zetaHave (maxDischargeDepth := 60) only [State.canon_mk, State.canon_eta, apply_ite State.Canon, apply_ite Prod.fst, ite_self, implies_true,
        State.memRead_canon, State.memWrite_canon, hc]; done)
    | split
    | intro _
    | (dsimp +zetaHave only))

end Sys2Proof.Machine
end

