-- ==== Sys2Proof/Laws/CanonPulse.lean ====
section
/-! SUPPORT. Sys2Proof/Laws/CanonPulse.lean: every operation of Machine/Pulse.lean keeps the tables of the state in canonical
form. -/

set_option linter.all false
set_option Elab.async false

namespace Sys2Proof.Machine
open Sys2Proof.Config
set_option linter.unusedSimpArgs false

theorem State.setPulse_canon (s : State) (n : Nat) (v : PulseOut) (hc : s.Canon) : (State.setPulse s n v).Canon := by
  unfold State.setPulse
  repeat' (first
    | with_reducible assumption
    | (simp +zetaHave (maxDischargeDepth := 60) only [State.canon_mk, State.canon_eta, apply_ite State.Canon, apply_ite Prod.fst, ite_self, implies_true,
        hc]; done)
    | split
    | intro _
    | (dsimp +zetaHave only))

theorem State.modPulse_canon (s : State) (n : Nat) (f : PulseOut → PulseOut) (hc : s.Canon) : (State.modPulse s n f).Canon := by
  unfold State.modPulse
  repeat' (first
    | with_reducible assumption
    | (simp +zetaHave (maxDischargeDepth := 60) only [State.canon_mk, State.canon_eta, apply_ite State.Canon, apply_ite Prod.fst, ite_self, implies_true,
        State.setPulse_canon, hc]; done)
    | split
    | intro _
    | (dsimp +zetaHave only))

theorem State.pulseAdvance_canon (s : State) (n : Nat) (k : Nat) (hc : s.Canon) : (State.pulseAdvance s n k).Canon := by
  unfold State.pulseAdvance
  repeat' (first
    | with_reducible assumption
    | (simp +zetaHave (maxDischargeDepth := 60) only [State.canon_mk, State.canon_eta, apply_ite State.Canon, apply_ite Prod.fst, ite_self, implies_true,
        State.wr_canon, hc]; done)
    | split
    | intro _
    | (dsimp +zetaHave only))

theorem State.pulseCatchUp_canon (s : State) (n : Nat) (c : Nat) (hc : s.Canon) : (State.pulseCatchUp s n c).Canon := by
  unfold State.pulseCatchUp
  repeat' (first
    | with_reducible assumption
    | (simp +zetaHave (maxDischargeDepth := 60) only [State.canon_mk, State.canon_eta, apply_ite State.Canon, apply_ite Prod.fst, ite_self, implies_true,
        State.pulseAdvance_canon, hc]; done)
    | split
    | intro _
    | (dsimp +zetaHave only))

theorem State.dropPulse_canon (s : State) (k : Nat) (hc : s.Canon) : (State.dropPulse s k).Canon := by
  unfold State.dropPulse
  repeat' (first
    | with_reducible assumption
    | (simp +zetaHave (maxDischargeDepth := 60) only [State.canon_mk, State.canon_eta, apply_ite State.Canon, apply_ite Prod.fst, ite_self, implies_true,
        State.count_canon, State.raise_canon, hc]; done)
    | split
    | intro _
    | (dsimp +zetaHave only))

theorem State.addPulse_canon (s : State) (n : Nat) (r : PulseReq) (cur : Nat) (hc : s.Canon) : (State.addPulse s n r cur).Canon := by
  unfold State.addPulse
  repeat' (first
    | with_reducible assumption
    | (simp +zetaHave (maxDischargeDepth := 60) only [State.canon_mk, State.canon_eta, apply_ite State.Canon, apply_ite Prod.fst, ite_self, implies_true,
        State.modPulse_canon, State.dropPulse_canon, hc]; done)
    | split
    | intro _
    | (dsimp +zetaHave only))

theorem State.pulseRise_canon (s : State) (n : Nat) (target : Int) (width : Nat) (hc : s.Canon) : (State.pulseRise s n target width).Canon := by
  unfold State.pulseRise
  repeat' (first
    | with_reducible assumption
    | (simp +zetaHave (maxDischargeDepth := 60) only [State.canon_mk, State.canon_eta, apply_ite State.Canon, apply_ite Prod.fst, ite_self, implies_true,
        State.count_canon, State.emit_canon, State.evt_canon, State.atCyc_canon, State.modPulse_canon, hc]; done)
    | split
    | intro _
    | (dsimp +zetaHave only))

theorem State.periodicNext_canon (s : State) (n : Nat) (hc : s.Canon) : (State.periodicNext s n).Canon := by
  unfold State.periodicNext
  repeat' (first
    | with_reducible assumption
    | (simp +zetaHave (maxDischargeDepth := 60) only [State.canon_mk, State.canon_eta, apply_ite State.Canon, apply_ite Prod.fst, ite_self, implies_true,
        State.wr_canon, State.wrFld_canon, State.pulseAdvance_canon, hc]; done)
    | split
    | intro _
    | (dsimp +zetaHave only))

theorem State.pulseEmit_canon (s : State) (n : Nat) (hc : s.Canon) : (State.pulseEmit s n).Canon := by
  unfold State.pulseEmit
  repeat' (first
    | with_reducible assumption
    | (simp +zetaHave (maxDischargeDepth := 60) only [State.canon_mk, State.canon_eta, apply_ite State.Canon, apply_ite Prod.fst, ite_self, implies_true,
        State.modPulse_canon, State.pulseAdvance_canon, State.dropPulse_canon, State.pulseRise_canon,
        State.periodicNext_canon, hc]; done)
    | split
    | intro _
    | (dsimp +zetaHave only))

theorem State.pulsesLeft_canon (s : State) (hc : s.Canon) : (State.pulsesLeft s).Canon := by
  unfold State.pulsesLeft
  repeat' (first
    | with_reducible assumption
    | (simp +zetaHave +contextual (maxDischargeDepth := 60) only [State.canon_mk, State.canon_eta, apply_ite State.Canon, apply_ite Prod.fst, ite_self, implies_true,
        State.each_canon, State.pulseEmit_canon, hc]; done)
    | split
    | intro _
    | (dsimp +zetaHave only)
    | refine State.each_canon _ _ _ ?_ (fun _ _ hc => ?_))

theorem State.pulseCalDone_canon (s : State) (n : Nat) (hc : s.Canon) : (State.pulseCalDone s n).Canon := by
  unfold State.pulseCalDone
  repeat' (first
    | with_reducible assumption
    | (simp +zetaHave (maxDischargeDepth := 60) only [State.canon_mk, State.canon_eta, apply_ite State.Canon, apply_ite Prod.fst, ite_self, implies_true,
        State.drawFree_canon, State.setPulse_canon, hc]; done)
    | split
    | intro _
    | (dsimp +zetaHave only))

theorem State.pulseCalTick_canon (s : State) (n : Nat) (hc : s.Canon) : (State.pulseCalTick s n).Canon := by
  unfold State.pulseCalTick
  repeat' (first
    | with_reducible assumption
    | (simp +zetaHave (maxDischargeDepth := 60) only [State.canon_mk, State.canon_eta, apply_ite State.Canon, apply_ite Prod.fst, ite_self, implies_true,
        State.emit_canon, State.setPulse_canon, State.pulseCalDone_canon, hc]; done)
    | split
    | intro _
    | (dsimp +zetaHave only))

theorem State.pulseFeedback_canon (s : State) (n : Nat) (t : Int) (hc : s.Canon) : (State.pulseFeedback s n t).Canon := by
  unfold State.pulseFeedback
  repeat' (first
    | with_reducible assumption
    | (simp +zetaHave (maxDischargeDepth := 60) only [State.canon_mk, State.canon_eta, apply_ite State.Canon, apply_ite Prod.fst, ite_self, implies_true,
        State.setPulse_canon, hc]; done)
    | split
    | intro _
    | (dsimp +zetaHave only))

theorem State.dropPending_canon (s : State) (n : Nat) (hc : s.Canon) : (State.dropPending s n).Canon := by
  unfold State.dropPending
  repeat' (first
    | with_reducible assumption
    | (simp +zetaHave (maxDischargeDepth := 60) only [State.canon_mk, State.canon_eta, apply_ite State.Canon, apply_ite Prod.fst, ite_self, implies_true,
        State.modPulse_canon, State.dropPulse_canon, hc]; done)
    | split
    | intro _
    | (dsimp +zetaHave only))

theorem State.pulseCfgWrite_canon (s : State) (n : Nat) (v : Nat) (hc : s.Canon) : (State.pulseCfgWrite s n v).Canon := by
  unfold State.pulseCfgWrite
  repeat' (first
    | with_reducible assumption
    | (simp +zetaHave (maxDischargeDepth := 60) only [State.canon_mk, State.canon_eta, apply_ite State.Canon, apply_ite Prod.fst, ite_self, implies_true,
        State.wr_canon, State.modPulse_canon, State.pulseCatchUp_canon, State.dropPending_canon, hc]; done)
    | split
    | intro _
    | (dsimp +zetaHave only))

theorem State.pulsesCatchUp_canon (s : State) (hc : s.Canon) : (State.pulsesCatchUp s).Canon := by
  unfold State.pulsesCatchUp
  repeat' (first
    | with_reducible assumption
    | (simp +zetaHave +contextual (maxDischargeDepth := 60) only [State.canon_mk, State.canon_eta, apply_ite State.Canon, apply_ite Prod.fst, ite_self, implies_true,
        State.each_canon, State.pulseCatchUp_canon, hc]; done)
    | split
    | intro _
    | (dsimp +zetaHave only)
    | refine State.each_canon _ _ _ ?_ (fun _ _ hc => ?_))

theorem State.dropFreeze_canon (s : State) (hc : s.Canon) : (State.dropFreeze s).Canon := by
  unfold State.dropFreeze
  repeat' (first
    | with_reducible assumption
    | (simp +zetaHave (maxDischargeDepth := 60) only [State.canon_mk, State.canon_eta, apply_ite State.Canon, apply_ite Prod.fst, ite_self, implies_true,
        State.count_canon, State.raise_canon, hc]; done)
    | split
    | intro _
    | (dsimp +zetaHave only))

theorem State.addFreeze_canon (s : State) (target : Int) (id : Nat) (src : ArmSrc) (cur : Nat) (hc : s.Canon) : (State.addFreeze s target id src cur).Canon := by
  unfold State.addFreeze
  repeat' (first
    | with_reducible assumption
    | (simp +zetaHave (maxDischargeDepth := 60) only [State.canon_mk, State.canon_eta, apply_ite State.Canon, apply_ite Prod.fst, ite_self, implies_true,
        State.dropFreeze_canon, hc]; done)
    | split
    | intro _
    | (dsimp +zetaHave only))

theorem State.freezeEmit_canon (s : State) (hc : s.Canon) : (State.freezeEmit s).Canon := by
  unfold State.freezeEmit
  repeat' (first
    | with_reducible assumption
    | (simp +zetaHave (maxDischargeDepth := 60) only [State.canon_mk, State.canon_eta, apply_ite State.Canon, apply_ite Prod.fst, ite_self, implies_true,
        State.evt_canon, State.atCyc_canon, State.dropFreeze_canon, hc]; done)
    | split
    | intro _
    | (dsimp +zetaHave only))

theorem State.freezesLeft_canon (s : State) (hc : s.Canon) : (State.freezesLeft s).Canon := by
  unfold State.freezesLeft
  repeat' (first
    | with_reducible assumption
    | (simp +zetaHave +contextual (maxDischargeDepth := 60) only [State.canon_mk, State.canon_eta, apply_ite State.Canon, apply_ite Prod.fst, ite_self, implies_true,
        State.each_canon, State.freezeEmit_canon, hc]; done)
    | split
    | intro _
    | (dsimp +zetaHave only)
    | refine State.each_canon _ _ _ ?_ (fun _ _ hc => ?_))

theorem State.freezesDropped_canon (s : State) (hc : s.Canon) : (State.freezesDropped s).Canon := by
  unfold State.freezesDropped
  repeat' (first
    | with_reducible assumption
    | (simp +zetaHave (maxDischargeDepth := 60) only [State.canon_mk, State.canon_eta, apply_ite State.Canon, apply_ite Prod.fst, ite_self, implies_true,
        State.count_canon, hc]; done)
    | split
    | intro _
    | (dsimp +zetaHave only))

theorem State.cancelArmed_canon (s : State) (src : ArmSrc) (hc : s.Canon) : (State.cancelArmed s src).Canon := by
  unfold State.cancelArmed
  repeat' (first
    | with_reducible assumption
    | (simp +zetaHave +contextual (maxDischargeDepth := 60) only [State.canon_mk, State.canon_eta, apply_ite State.Canon, apply_ite Prod.fst, ite_self, implies_true,
        State.foldl_canon, State.foldl_fst_canon, hc]; done)
    | split
    | intro _
    | (dsimp +zetaHave only)
    | refine State.foldl_canon _ _ _ ?_ (fun _ _ hc => ?_)
    | refine State.foldl_fst_canon _ _ _ ?_ (fun _ _ hc => ?_))

theorem State.schedule_canon (s : State) (e : EventRec) (hc : s.Canon) : (State.schedule s e).Canon := by
  unfold State.schedule
  repeat' (first
    | with_reducible assumption
    | (simp +zetaHave +contextual (maxDischargeDepth := 60) only [State.canon_mk, State.canon_eta, apply_ite State.Canon, apply_ite Prod.fst, ite_self, implies_true,
        State.each_canon, State.addPulse_canon, State.addFreeze_canon, hc]; done)
    | split
    | intro _
    | (dsimp +zetaHave only)
    | refine State.each_canon _ _ _ ?_ (fun _ _ hc => ?_))

theorem State.cancelEvent_canon (s : State) (id : Nat) (hc : s.Canon) : (State.cancelEvent s id).Canon := by
  unfold State.cancelEvent
  repeat' (first
    | with_reducible assumption
    | (simp +zetaHave (maxDischargeDepth := 60) only [State.canon_mk, State.canon_eta, apply_ite State.Canon, apply_ite Prod.fst, ite_self, implies_true,
        State.cancelArmed_canon, hc]; done)
    | split
    | intro _
    | (dsimp +zetaHave only))

theorem State.takeEvent_canon (s : State) (e : EventRec) (hc : s.Canon) : (State.takeEvent s e).Canon := by
  unfold State.takeEvent
  repeat' (first
    | with_reducible assumption
    | (simp +zetaHave (maxDischargeDepth := 60) only [State.canon_mk, State.canon_eta, apply_ite State.Canon, apply_ite Prod.fst, ite_self, implies_true,
        State.count_canon, State.raise_canon, State.schedule_canon, State.cancelEvent_canon, hc]; done)
    | split
    | intro _
    | (dsimp +zetaHave only))

theorem State.expireEvents_canon (s : State) (nc : Nat) (hc : s.Canon) : (State.expireEvents s nc).Canon := by
  unfold State.expireEvents
  repeat' (first
    | with_reducible assumption
    | (simp +zetaHave (maxDischargeDepth := 60) only [State.canon_mk, State.canon_eta, apply_ite State.Canon, apply_ite Prod.fst, ite_self, implies_true,
        hc]; done)
    | split
    | intro _
    | (dsimp +zetaHave only))

end Sys2Proof.Machine
end

