-- ==== Sys2Proof/Laws/CanonShot.lean ====
section
/-! SUPPORT. Sys2Proof/Laws/CanonShot.lean: every operation of Machine/Shot.lean keeps the tables of the state in canonical
form. -/

set_option linter.all false
set_option Elab.async false

namespace Sys2Proof.Machine
open Sys2Proof.Config
set_option linter.unusedSimpArgs false

theorem State.pushRaw_canon (s : State) (r : StampRec) (hc : s.Canon) : (State.pushRaw s r).Canon := by
  unfold State.pushRaw
  repeat' (first
    | with_reducible assumption
    | (simp +zetaHave (maxDischargeDepth := 60) only [State.canon_mk, State.canon_eta, apply_ite State.Canon, apply_ite Prod.fst, ite_self, implies_true,
        State.count_canon, hc]; done)
    | split
    | intro _
    | (dsimp +zetaHave only))

theorem State.endShot_canon (s : State) (sh : Shot) (t : Int) (hc : s.Canon) : (State.endShot s sh t).Canon := by
  unfold State.endShot
  repeat' (first
    | with_reducible assumption
    | (simp +zetaHave +contextual (maxDischargeDepth := 60) only [State.canon_mk, State.canon_eta, apply_ite State.Canon, apply_ite Prod.fst, ite_self, implies_true,
        State.foldl_canon, State.foldl_fst_canon, State.raiseIf_canon, State.pushRaw_canon, hc]; done)
    | split
    | intro _
    | (dsimp +zetaHave only)
    | refine State.foldl_canon _ _ _ ?_ (fun _ _ hc => ?_)
    | refine State.foldl_fst_canon _ _ _ ?_ (fun _ _ hc => ?_))

theorem State.putShot_canon (s : State) (sh : Shot) (t : Int) (hc : s.Canon) : (State.putShot s sh t).Canon := by
  unfold State.putShot
  repeat' (first
    | with_reducible assumption
    | (simp +zetaHave (maxDischargeDepth := 60) only [State.canon_mk, State.canon_eta, apply_ite State.Canon, apply_ite Prod.fst, ite_self, implies_true,
        State.endShot_canon, hc]; done)
    | split
    | intro _
    | (dsimp +zetaHave only))

theorem State.closeWindows_canon (s : State) (t : Int) (hc : s.Canon) : (State.closeWindows s t).Canon := by
  unfold State.closeWindows
  repeat' (first
    | with_reducible assumption
    | (simp +zetaHave +contextual (maxDischargeDepth := 60) only [State.canon_mk, State.canon_eta, apply_ite State.Canon, apply_ite Prod.fst, ite_self, implies_true,
        State.foldl_canon, State.foldl_fst_canon, State.putShot_canon, hc]; done)
    | split
    | intro _
    | (dsimp +zetaHave only)
    | refine State.foldl_canon _ _ _ ?_ (fun _ _ hc => ?_)
    | refine State.foldl_fst_canon _ _ _ ?_ (fun _ _ hc => ?_))

theorem State.openShot_canon (s : State) (src : Nat) (t : Int) (same : List PastEdge) (hc : s.Canon) : (State.openShot s src t same).Canon := by
  unfold State.openShot
  repeat' (first
    | with_reducible assumption
    | (simp +zetaHave +contextual (maxDischargeDepth := 60) only [State.canon_mk, State.canon_eta, apply_ite State.Canon, apply_ite Prod.fst, ite_self, implies_true,
        State.foldl_canon, State.foldl_fst_canon, State.putShot_canon, hc]; done)
    | split
    | intro _
    | (dsimp +zetaHave only)
    | refine State.foldl_canon _ _ _ ?_ (fun _ _ hc => ?_)
    | refine State.foldl_fst_canon _ _ _ ?_ (fun _ _ hc => ?_))

theorem State.remember_canon (s : State) (e : PastEdge) (hc : s.Canon) : (State.remember s e).Canon := by
  unfold State.remember
  repeat' (first
    | with_reducible assumption
    | (simp +zetaHave (maxDischargeDepth := 60) only [State.canon_mk, State.canon_eta, apply_ite State.Canon, apply_ite Prod.fst, ite_self, implies_true,
        hc]; done)
    | split
    | intro _
    | (dsimp +zetaHave only))

theorem State.shotFeed_canon (s : State) (src : Nat) (falling : Bool) (t : Int) (timed : Bool) (hc : s.Canon) : (State.shotFeed s src falling t timed).Canon := by
  unfold State.shotFeed
  repeat' (first
    | with_reducible assumption
    | (simp +zetaHave (maxDischargeDepth := 60) only [State.canon_mk, State.canon_eta, apply_ite State.Canon, apply_ite Prod.fst, ite_self, implies_true,
        State.count_canon, State.putShot_canon, State.closeWindows_canon, State.openShot_canon, State.remember_canon,
        hc]; done)
    | split
    | intro _
    | (dsimp +zetaHave only))

theorem State.clocksUpTo_canon (s : State) (t : Int) (hc : s.Canon) : (State.clocksUpTo s t).Canon := by
  unfold State.clocksUpTo
  repeat' (first
    | with_reducible assumption
    | (simp +zetaHave +contextual (maxDischargeDepth := 60) only [State.canon_mk, State.canon_eta, apply_ite State.Canon, apply_ite Prod.fst, ite_self, implies_true,
        State.foldl_canon, State.foldl_fst_canon, State.shotFeed_canon, hc]; done)
    | split
    | intro _
    | (dsimp +zetaHave only)
    | refine State.foldl_canon _ _ _ ?_ (fun _ _ hc => ?_)
    | refine State.foldl_fst_canon _ _ _ ?_ (fun _ _ hc => ?_))

theorem State.shotEdge_canon (s : State) (src : Nat) (falling : Bool) (t : Int) (timed : Bool) (hc : s.Canon) : (State.shotEdge s src falling t timed).Canon := by
  unfold State.shotEdge
  repeat' (first
    | with_reducible assumption
    | (simp +zetaHave (maxDischargeDepth := 60) only [State.canon_mk, State.canon_eta, apply_ite State.Canon, apply_ite Prod.fst, ite_self, implies_true,
        State.count_canon, State.putShot_canon, State.closeWindows_canon, State.openShot_canon, State.shotFeed_canon,
        State.clocksUpTo_canon, hc]; done)
    | split
    | intro _
    | (dsimp +zetaHave only))

theorem State.shotTime_canon (s : State) (t : Int) (hc : s.Canon) : (State.shotTime s t).Canon := by
  unfold State.shotTime
  repeat' (first
    | with_reducible assumption
    | (simp +zetaHave (maxDischargeDepth := 60) only [State.canon_mk, State.canon_eta, apply_ite State.Canon, apply_ite Prod.fst, ite_self, implies_true,
        State.closeWindows_canon, State.clocksUpTo_canon, hc]; done)
    | split
    | intro _
    | (dsimp +zetaHave only))

theorem State.portMark_canon (s : State) (src : Nat) (p : Nat) (t : Int) (timed : Bool) (hc : s.Canon) : (State.portMark s src p t timed).Canon := by
  unfold State.portMark
  repeat' (first
    | with_reducible assumption
    | (simp +zetaHave (maxDischargeDepth := 60) only [State.canon_mk, State.canon_eta, apply_ite State.Canon, apply_ite Prod.fst, ite_self, implies_true,
        State.shotEdge_canon, hc]; done)
    | split
    | intro _
    | (dsimp +zetaHave only))

theorem State.stepShot_canon (s : State) (hc : s.Canon) : (State.stepShot s).Canon := by
  unfold State.stepShot
  repeat' (first
    | with_reducible assumption
    | (simp +zetaHave (maxDischargeDepth := 60) only [State.canon_mk, State.canon_eta, apply_ite State.Canon, apply_ite Prod.fst, ite_self, implies_true,
        State.count_canon, hc]; done)
    | split
    | intro _
    | (dsimp +zetaHave only))

theorem State.abortShots_canon (s : State) (reason : Nat) (hc : s.Canon) : (State.abortShots s reason).Canon := by
  unfold State.abortShots
  repeat' (first
    | with_reducible assumption
    | (simp +zetaHave (maxDischargeDepth := 60) only [State.canon_mk, State.canon_eta, apply_ite State.Canon, apply_ite Prod.fst, ite_self, implies_true,
        hc]; done)
    | split
    | intro _
    | (dsimp +zetaHave only))

end Sys2Proof.Machine
end

