-- ==== Sys2Proof/Laws/CanonPort.lean ====
section
/-! SUPPORT. Sys2Proof/Laws/CanonPort.lean: every operation of Machine/Port.lean keeps the tables of the state in canonical
form. -/

set_option linter.all false
set_option Elab.async false

namespace Sys2Proof.Machine
open Sys2Proof.Config
set_option linter.unusedSimpArgs false

theorem State.scoreEvent_canon (s : State) (p : Nat) (w : Nat) (hc : s.Canon) : (State.scoreEvent s p w).Canon := by
  unfold State.scoreEvent
  repeat' (first
    | with_reducible assumption
    | (simp +zetaHave (maxDischargeDepth := 60) only [State.canon_mk, State.canon_eta, apply_ite State.Canon, apply_ite Prod.fst, ite_self, implies_true,
        State.openGate_canon, State.setPort_canon, hc]; done)
    | split
    | intro _
    | (dsimp +zetaHave only))

theorem State.scorePar_canon (s : State) (p : Nat) (words : Nat) (hc : s.Canon) : (State.scorePar s p words).Canon := by
  unfold State.scorePar
  repeat' (first
    | with_reducible assumption
    | (simp +zetaHave (maxDischargeDepth := 60) only [State.canon_mk, State.canon_eta, apply_ite State.Canon, apply_ite Prod.fst, ite_self, implies_true,
        State.scoreEvent_canon, hc]; done)
    | split
    | intro _
    | (dsimp +zetaHave only))

theorem State.scoreFcs_canon (s : State) (p : Nat) (hc : s.Canon) : (State.scoreFcs s p).Canon := by
  unfold State.scoreFcs
  repeat' (first
    | with_reducible assumption
    | (simp +zetaHave (maxDischargeDepth := 60) only [State.canon_mk, State.canon_eta, apply_ite State.Canon, apply_ite Prod.fst, ite_self, implies_true,
        State.scoreEvent_canon, hc]; done)
    | split
    | intro _
    | (dsimp +zetaHave only))

theorem State.scoreFlap_canon (s : State) (p : Nat) (hc : s.Canon) : (State.scoreFlap s p).Canon := by
  unfold State.scoreFlap
  repeat' (first
    | with_reducible assumption
    | (simp +zetaHave (maxDischargeDepth := 60) only [State.canon_mk, State.canon_eta, apply_ite State.Canon, apply_ite Prod.fst, ite_self, implies_true,
        State.scoreEvent_canon, hc]; done)
    | split
    | intro _
    | (dsimp +zetaHave only))

theorem State.scoreRfail_canon (s : State) (p : Nat) (hc : s.Canon) : (State.scoreRfail s p).Canon := by
  unfold State.scoreRfail
  repeat' (first
    | with_reducible assumption
    | (simp +zetaHave (maxDischargeDepth := 60) only [State.canon_mk, State.canon_eta, apply_ite State.Canon, apply_ite Prod.fst, ite_self, implies_true,
        State.scoreEvent_canon, hc]; done)
    | split
    | intro _
    | (dsimp +zetaHave only))

theorem State.logRecord_canon (s : State) (r : StampRec) (hc : s.Canon) : (State.logRecord s r).Canon := by
  unfold State.logRecord
  repeat' (first
    | with_reducible assumption
    | (simp +zetaHave (maxDischargeDepth := 60) only [State.canon_mk, State.canon_eta, apply_ite State.Canon, apply_ite Prod.fst, ite_self, implies_true,
        State.count_canon, State.raiseIf_canon, State.memWrite_canon, hc]; done)
    | split
    | intro _
    | (dsimp +zetaHave only))

theorem State.stampRecord_canon (s : State) (p : Nat) (tx : Bool) (proto : Bool) (seq : Nat) (mtype : Nat) (express : Bool) (miss : Bool) (late : Bool) (t : Option Int) (cgen : Nat) (hc : s.Canon) : (State.stampRecord s p tx proto seq mtype express miss late t cgen).Canon := by
  unfold State.stampRecord
  repeat' (first
    | with_reducible assumption
    | (simp +zetaHave (maxDischargeDepth := 60) only [State.canon_mk, State.canon_eta, apply_ite State.Canon, apply_ite Prod.fst, ite_self, implies_true,
        State.count_canon, State.drawFree_canon, State.setPort_canon, State.logRecord_canon, State.modPort_canon, hc]; done)
    | split
    | intro _
    | (dsimp +zetaHave only))

theorem State.popStamp_canon (s : State) (m : Master) (p : Nat) (hc : s.Canon) : (State.popStamp s m p).Canon := by
  unfold State.popStamp
  repeat' (first
    | with_reducible assumption
    | (simp +zetaHave (maxDischargeDepth := 60) only [State.canon_mk, State.canon_eta, apply_ite State.Canon, apply_ite Prod.fst, ite_self, implies_true,
        State.setPort_canon, hc]; done)
    | split
    | intro _
    | (dsimp +zetaHave only))

theorem State.xsend_canon (s : State) (p : Nat) (b : Body) (hc : s.Canon) : (State.xsend s p b).Canon := by
  unfold State.xsend
  repeat' (first
    | with_reducible assumption
    | (simp +zetaHave (maxDischargeDepth := 60) only [State.canon_mk, State.canon_eta, apply_ite State.Canon, apply_ite Prod.fst, ite_self, implies_true,
        State.count_canon, State.openGate_canon, State.setPort_canon, hc]; done)
    | split
    | intro _
    | (dsimp +zetaHave only))

theorem State.xsendAll_canon (s : State) (ps : List Nat) (b : Body) (hc : s.Canon) : (State.xsendAll s ps b).Canon := by
  unfold State.xsendAll
  repeat' (first
    | with_reducible assumption
    | (simp +zetaHave +contextual (maxDischargeDepth := 60) only [State.canon_mk, State.canon_eta, apply_ite State.Canon, apply_ite Prod.fst, ite_self, implies_true,
        State.each_canon, State.xsend_canon, hc]; done)
    | split
    | intro _
    | (dsimp +zetaHave only)
    | refine State.each_canon _ _ _ ?_ (fun _ _ hc => ?_))

theorem State.refillX_canon (s : State) (p : Nat) (hc : s.Canon) : (State.refillX s p).Canon := by
  unfold State.refillX
  repeat' (first
    | with_reducible assumption
    | (simp +zetaHave (maxDischargeDepth := 60) only [State.canon_mk, State.canon_eta, apply_ite State.Canon, apply_ite Prod.fst, ite_self, implies_true,
        State.setPort_canon, hc]; done)
    | split
    | intro _
    | (dsimp +zetaHave only))

theorem State.refillC_canon (s : State) (p : Nat) (hc : s.Canon) : (State.refillC s p).Canon := by
  unfold State.refillC
  repeat' (first
    | with_reducible assumption
    | (simp +zetaHave (maxDischargeDepth := 60) only [State.canon_mk, State.canon_eta, apply_ite State.Canon, apply_ite Prod.fst, ite_self, implies_true,
        State.setPort_canon, hc]; done)
    | split
    | intro _
    | (dsimp +zetaHave only))

theorem State.refill_canon (s : State) (p : Nat) (hc : s.Canon) : (State.refill s p).Canon := by
  unfold State.refill
  repeat' (first
    | with_reducible assumption
    | (simp +zetaHave +contextual (maxDischargeDepth := 60) only [State.canon_mk, State.canon_eta, apply_ite State.Canon, apply_ite Prod.fst, ite_self, implies_true,
        State.each_canon, State.refillX_canon, State.refillC_canon, hc]; done)
    | split
    | intro _
    | (dsimp +zetaHave only)
    | refine State.each_canon _ _ _ ?_ (fun _ _ hc => ?_))

theorem State.flushPort_canon (s : State) (p : Nat) (hc : s.Canon) : (State.flushPort s p).Canon := by
  unfold State.flushPort
  repeat' (first
    | with_reducible assumption
    | (simp +zetaHave (maxDischargeDepth := 60) only [State.canon_mk, State.canon_eta, apply_ite State.Canon, apply_ite Prod.fst, ite_self, implies_true,
        State.count_canon, State.setPort_canon, hc]; done)
    | split
    | intro _
    | (dsimp +zetaHave only))

theorem State.flushCT_canon (s : State) (p : Nat) (hc : s.Canon) : (State.flushCT s p).Canon := by
  unfold State.flushCT
  repeat' (first
    | with_reducible assumption
    | (simp +zetaHave (maxDischargeDepth := 60) only [State.canon_mk, State.canon_eta, apply_ite State.Canon, apply_ite Prod.fst, ite_self, implies_true,
        State.count_canon, State.setPort_canon, hc]; done)
    | split
    | intro _
    | (dsimp +zetaHave only))

theorem State.dropExch_canon (s : State) (p : Nat) (hc : s.Canon) : (State.dropExch s p).Canon := by
  unfold State.dropExch
  repeat' (first
    | with_reducible assumption
    | (simp +zetaHave (maxDischargeDepth := 60) only [State.canon_mk, State.canon_eta, apply_ite State.Canon, apply_ite Prod.fst, ite_self, implies_true,
        State.count_canon, State.setPort_canon, hc]; done)
    | split
    | intro _
    | (dsimp +zetaHave only))

theorem State.restartLink_canon (s : State) (p : Nat) (hc : s.Canon) : (State.restartLink s p).Canon := by
  unfold State.restartLink
  repeat' (first
    | with_reducible assumption
    | (simp +zetaHave (maxDischargeDepth := 60) only [State.canon_mk, State.canon_eta, apply_ite State.Canon, apply_ite Prod.fst, ite_self, implies_true,
        State.modPort_canon, hc]; done)
    | split
    | intro _
    | (dsimp +zetaHave only))

theorem State.takeAck_canon (s : State) (p : Nat) (lack : Nat) (hc : s.Canon) : (State.takeAck s p lack).Canon := by
  unfold State.takeAck
  repeat' (first
    | with_reducible assumption
    | (simp +zetaHave (maxDischargeDepth := 60) only [State.canon_mk, State.canon_eta, apply_ite State.Canon, apply_ite Prod.fst, ite_self, implies_true,
        State.setPort_canon, State.refill_canon, hc]; done)
    | split
    | intro _
    | (dsimp +zetaHave only))

theorem State.attemptFails_canon (s : State) (p : Nat) (hc : s.Canon) : (State.attemptFails s p).Canon := by
  unfold State.attemptFails
  repeat' (first
    | with_reducible assumption
    | (simp +zetaHave (maxDischargeDepth := 60) only [State.canon_mk, State.canon_eta, apply_ite State.Canon, apply_ite Prod.fst, ite_self, implies_true,
        State.count_canon, State.evt_canon, State.modPort_canon, State.scoreRfail_canon, hc]; done)
    | split
    | intro _
    | (dsimp +zetaHave only))

theorem State.startAttempt_canon (s : State) (p : Nat) (n : Nat) (t : Nat) (hc : s.Canon) : (State.startAttempt s p n t).Canon := by
  unfold State.startAttempt
  repeat' (first
    | with_reducible assumption
    | (simp +zetaHave (maxDischargeDepth := 60) only [State.canon_mk, State.canon_eta, apply_ite State.Canon, apply_ite Prod.fst, ite_self, implies_true,
        State.count_canon, State.evt_canon, State.setPort_canon, hc]; done)
    | split
    | intro _
    | (dsimp +zetaHave only))

theorem State.takeNak_canon (s : State) (p : Nat) (n : Nat) (hc : s.Canon) : (State.takeNak s p n).Canon := by
  unfold State.takeNak
  repeat' (first
    | with_reducible assumption
    | (simp +zetaHave (maxDischargeDepth := 60) only [State.canon_mk, State.canon_eta, apply_ite State.Canon, apply_ite Prod.fst, ite_self, implies_true,
        State.takeAck_canon, State.attemptFails_canon, State.startAttempt_canon, hc]; done)
    | split
    | intro _
    | (dsimp +zetaHave only))

theorem State.replayTimeout_canon (s : State) (p : Nat) (t : Nat) (hc : s.Canon) : (State.replayTimeout s p t).Canon := by
  unfold State.replayTimeout
  repeat' (first
    | with_reducible assumption
    | (simp +zetaHave (maxDischargeDepth := 60) only [State.canon_mk, State.canon_eta, apply_ite State.Canon, apply_ite Prod.fst, ite_self, implies_true,
        State.attemptFails_canon, State.startAttempt_canon, hc]; done)
    | split
    | intro _
    | (dsimp +zetaHave only))

theorem State.fillBuckets_canon (s : State) (p : Nat) (hc : s.Canon) : (State.fillBuckets s p).Canon := by
  unfold State.fillBuckets
  repeat' (first
    | with_reducible assumption
    | (simp +zetaHave (maxDischargeDepth := 60) only [State.canon_mk, State.canon_eta, apply_ite State.Canon, apply_ite Prod.fst, ite_self, implies_true,
        State.setPort_canon, hc]; done)
    | split
    | intro _
    | (dsimp +zetaHave only))

theorem State.fillAll_canon (s : State) (hc : s.Canon) : (State.fillAll s).Canon := by
  unfold State.fillAll
  repeat' (first
    | with_reducible assumption
    | (simp +zetaHave +contextual (maxDischargeDepth := 60) only [State.canon_mk, State.canon_eta, apply_ite State.Canon, apply_ite Prod.fst, ite_self, implies_true,
        State.each_canon, State.fillBuckets_canon, hc]; done)
    | split
    | intro _
    | (dsimp +zetaHave only)
    | refine State.each_canon _ _ _ ?_ (fun _ _ hc => ?_))

theorem State.skipFill_canon (s : State) (hc : s.Canon) : (State.skipFill s).Canon := by
  unfold State.skipFill
  repeat' (first
    | with_reducible assumption
    | (simp +zetaHave +contextual (maxDischargeDepth := 60) only [State.canon_mk, State.canon_eta, apply_ite State.Canon, apply_ite Prod.fst, ite_self, implies_true,
        State.each_canon, State.modPort_canon, hc]; done)
    | split
    | intro _
    | (dsimp +zetaHave only)
    | refine State.each_canon _ _ _ ?_ (fun _ _ hc => ?_))

theorem State.dropTooLong_canon (s : State) (p : Nat) (hc : s.Canon) : (State.dropTooLong s p).Canon := by
  unfold State.dropTooLong
  repeat' (first
    | with_reducible assumption
    | (simp +zetaHave (maxDischargeDepth := 60) only [State.canon_mk, State.canon_eta, apply_ite State.Canon, apply_ite Prod.fst, ite_self, implies_true,
        State.count_canon, State.setPort_canon, hc]; done)
    | split
    | intro _
    | (dsimp +zetaHave only))

theorem State.handOver_canon (s : State) (p : Nat) (q : QFrame) (hc : s.Canon) : (State.handOver s p q).Canon := by
  unfold State.handOver
  repeat' (first
    | with_reducible assumption
    | (simp +zetaHave (maxDischargeDepth := 60) only [State.canon_mk, State.canon_eta, apply_ite State.Canon, apply_ite Prod.fst, ite_self, implies_true,
        State.count_canon, State.emit_canon, State.evt_canon, State.setPort_canon, hc]; done)
    | split
    | intro _
    | (dsimp +zetaHave only))

theorem State.windowWait_canon (s : State) (p : Nat) (hc : s.Canon) : (State.windowWait s p).Canon := by
  unfold State.windowWait
  repeat' (first
    | with_reducible assumption
    | (simp +zetaHave (maxDischargeDepth := 60) only [State.canon_mk, State.canon_eta, apply_ite State.Canon, apply_ite Prod.fst, ite_self, implies_true,
        State.count_canon, State.setPort_canon, hc]; done)
    | split
    | intro _
    | (dsimp +zetaHave only))

theorem State.windowWaits_canon (s : State) (hc : s.Canon) : (State.windowWaits s).Canon := by
  unfold State.windowWaits
  repeat' (first
    | with_reducible assumption
    | (simp +zetaHave +contextual (maxDischargeDepth := 60) only [State.canon_mk, State.canon_eta, apply_ite State.Canon, apply_ite Prod.fst, ite_self, implies_true,
        State.each_canon, State.atCyc_canon, State.windowWait_canon, hc]; done)
    | split
    | intro _
    | (dsimp +zetaHave only)
    | refine State.each_canon _ _ _ ?_ (fun _ _ hc => ?_))

theorem State.handoverT_canon (s : State) (p : Nat) (hc : s.Canon) : (State.handoverT s p).Canon := by
  unfold State.handoverT
  repeat' (first
    | with_reducible assumption
    | (simp +zetaHave (maxDischargeDepth := 60) only [State.canon_mk, State.canon_eta, apply_ite State.Canon, apply_ite Prod.fst, ite_self, implies_true,
        State.count_canon, State.setPort_canon, State.handOver_canon, State.windowWait_canon, hc]; done)
    | split
    | intro _
    | (dsimp +zetaHave only))

theorem State.handoverCT_canon (s : State) (p : Nat) (hc : s.Canon) : (State.handoverCT s p).Canon := by
  unfold State.handoverCT
  repeat' (first
    | with_reducible assumption
    | (simp +zetaHave (maxDischargeDepth := 60) only [State.canon_mk, State.canon_eta, apply_ite State.Canon, apply_ite Prod.fst, ite_self, implies_true,
        State.setPort_canon, State.handOver_canon, State.handoverT_canon, hc]; done)
    | split
    | intro _
    | (dsimp +zetaHave only))

theorem State.dropMismatched_canon (s : State) (p : Nat) (hc : s.Canon) : (State.dropMismatched s p).Canon := by
  unfold State.dropMismatched
  repeat' (first
    | with_reducible assumption
    | (simp +zetaHave (maxDischargeDepth := 60) only [State.canon_mk, State.canon_eta, apply_ite State.Canon, apply_ite Prod.fst, ite_self, implies_true,
        State.count_canon, State.setPort_canon, hc]; done)
    | split
    | intro _
    | (dsimp +zetaHave only))

theorem State.handover_canon (s : State) (p : Nat) (hc : s.Canon) : (State.handover s p).Canon := by
  unfold State.handover
  repeat' (first
    | with_reducible assumption
    | (simp +zetaHave (maxDischargeDepth := 60) only [State.canon_mk, State.canon_eta, apply_ite State.Canon, apply_ite Prod.fst, ite_self, implies_true,
        State.setPort_canon, State.fillBuckets_canon, State.dropTooLong_canon, State.handOver_canon,
        State.refillX_canon, State.handoverCT_canon, State.refill_canon, State.dropMismatched_canon, hc]; done)
    | split
    | intro _
    | (dsimp +zetaHave only))

end Sys2Proof.Machine
end

