-- ==== Sys2Proof/Laws/CanonRx.lean ====
section
/-! SUPPORT. Sys2Proof/Laws/CanonRx.lean: every operation of Machine/Rx.lean keeps the tables of the state in canonical
form. -/

set_option linter.all false
set_option Elab.async false

namespace Sys2Proof.Machine
open Sys2Proof.Config
set_option linter.unusedSimpArgs false

theorem State.openGap_canon (s : State) (p : Nat) (scored : Bool) (hc : s.Canon) : (State.openGap s p scored).Canon := by
  unfold State.openGap
  repeat' (first
    | with_reducible assumption
    | (simp +zetaHave (maxDischargeDepth := 60) only [State.canon_mk, State.canon_eta, apply_ite State.Canon, apply_ite Prod.fst, ite_self, implies_true,
        State.count_canon, State.evt_canon, State.setPort_canon, State.scoreFcs_canon, State.xsend_canon, hc]; done)
    | split
    | intro _
    | (dsimp +zetaHave only))

theorem State.heldGone_canon (s : State) (p : Nat) (mark : Nat) (hc : s.Canon) : (State.heldGone s p mark).Canon := by
  unfold State.heldGone
  repeat' (first
    | with_reducible assumption
    | (simp +zetaHave (maxDischargeDepth := 60) only [State.canon_mk, State.canon_eta, apply_ite State.Canon, apply_ite Prod.fst, ite_self, implies_true,
        State.setPort_canon, State.openGap_canon, hc]; done)
    | split
    | intro _
    | (dsimp +zetaHave only))

theorem State.receiveMark_canon (s : State) (p : Nat) (id : Nat) (e : Edge) (adj : Nat) (hc : s.Canon) : (State.receiveMark s p id e adj).Canon := by
  unfold State.receiveMark
  repeat' (first
    | with_reducible assumption
    | (simp +zetaHave (maxDischargeDepth := 60) only [State.canon_mk, State.canon_eta, apply_ite State.Canon, apply_ite Prod.fst, ite_self, implies_true,
        apply_ite Rx.s, Rx.drop_s, State.count_canon, State.atCyc_canon, State.setPort_canon, State.portMark_canon,
        State.heldGone_canon, hc]; done)
    | split
    | intro _
    | (dsimp +zetaHave only))

theorem State.claimMark_canon (s : State) (p : Nat) (id : Nat) (hc : s.Canon) : (State.claimMark s p id).1.Canon := by
  unfold State.claimMark
  repeat' (first
    | with_reducible assumption
    | (simp +zetaHave (maxDischargeDepth := 60) only [State.canon_mk, State.canon_eta, apply_ite State.Canon, apply_ite Prod.fst, ite_self, implies_true,
        State.setPort_canon, hc]; done)
    | split
    | intro _
    | (dsimp +zetaHave only))

theorem State.transmitMark_canon (s : State) (p : Nat) (e : Edge) (adj : Nat) (hc : s.Canon) : (State.transmitMark s p e adj).Canon := by
  unfold State.transmitMark
  repeat' (first
    | with_reducible assumption
    | (simp +zetaHave (maxDischargeDepth := 60) only [State.canon_mk, State.canon_eta, apply_ite State.Canon, apply_ite Prod.fst, ite_self, implies_true,
        State.drawFree_canon, State.emit_canon, State.atCyc_canon, State.setPort_canon, State.portMark_canon,
        State.stampRecord_canon, hc]; done)
    | split
    | intro _
    | (dsimp +zetaHave only))

theorem State.txInsLate_canon (s : State) (p : Nat) (hc : s.Canon) : (State.txInsLate s p).Canon := by
  unfold State.txInsLate
  repeat' (first
    | with_reducible assumption
    | (simp +zetaHave (maxDischargeDepth := 60) only [State.canon_mk, State.canon_eta, apply_ite State.Canon, apply_ite Prod.fst, ite_self, implies_true,
        State.count_canon, State.setPort_canon, State.memWrite_canon, hc]; done)
    | split
    | intro _
    | (dsimp +zetaHave only))

theorem State.rxSeq_canon (s : State) (p : Nat) (lseq : Nat) (mark : Nat) (express : Bool) (hc : s.Canon) : (State.rxSeq s p lseq mark express).1.Canon := by
  unfold State.rxSeq
  repeat' (first
    | with_reducible assumption
    | (simp +zetaHave (maxDischargeDepth := 60) only [State.canon_mk, State.canon_eta, apply_ite State.Canon, apply_ite Prod.fst, ite_self, implies_true,
        State.count_canon, State.setPort_canon, State.openGap_canon, State.heldGone_canon, hc]; done)
    | split
    | intro _
    | (dsimp +zetaHave only))

theorem State.rxCorrupt_canon (s : State) (p : Nat) (bad : RxBad) (hc : s.Canon) : (State.rxCorrupt s p bad).Canon := by
  unfold State.rxCorrupt
  repeat' (first
    | with_reducible assumption
    | (simp +zetaHave (maxDischargeDepth := 60) only [State.canon_mk, State.canon_eta, apply_ite State.Canon, apply_ite Prod.fst, ite_self, implies_true,
        State.count_canon, State.evt_canon, State.scorePar_canon, State.scoreFcs_canon, State.openGap_canon, hc]; done)
    | split
    | intro _
    | (dsimp +zetaHave only))

theorem Rx.drop_canon (s : State) (st : Stamp) (hc : s.Canon) : (Rx.drop s st).s.Canon := by
  unfold Rx.drop
  repeat' (first
    | with_reducible assumption
    | (simp +zetaHave (maxDischargeDepth := 60) only [State.canon_mk, State.canon_eta, apply_ite State.Canon, apply_ite Prod.fst, ite_self, implies_true,
        apply_ite Rx.s, Rx.drop_s, hc]; done)
    | split
    | intro _
    | (dsimp +zetaHave only))

theorem State.rxBegin_canon (s : State) (h : RxBase) (proto : Bool) (seq : Nat) (typ : Nat) (express : Bool) (hc : s.Canon) : (State.rxBegin s h proto seq typ express).s.Canon := by
  unfold State.rxBegin
  repeat' (first
    | with_reducible assumption
    | (simp +zetaHave (maxDischargeDepth := 60) only [State.canon_mk, State.canon_eta, apply_ite State.Canon, apply_ite Prod.fst, ite_self, implies_true,
        apply_ite Rx.s, Rx.drop_s, State.count_canon, State.evt_canon, State.atCyc_canon, State.stampRecord_canon,
        State.claimMark_canon, Rx.drop_canon, State.heldGone_canon, hc]; done)
    | split
    | intro _
    | (dsimp +zetaHave only))

theorem State.rxZudar_canon (s : State) (h : RxHead) (k : RxKind) (bodyOk : Bool) (hc : s.Canon) :
    (s.rxZudar h k bodyOk).s.Canon := by
  have h1 : ∀ t : State, t.Canon → (if k.express then t else (t.napWake).busy).Canon := fun t ht => by
    split
    · exact ht
    · exact State.busy_canon _ (State.napWake_canon _ ht)
  have h2 : ∀ t : State, t.Canon → (if k.typ = 0x04 then t else t.takeAck h.port h.lack).Canon := fun t ht => by
    split
    · exact ht
    · exact State.takeAck_canon _ _ _ ht
  have h3 : ∀ t : State, t.Canon →
      (if h.rpl then t.rxSeq h.port h.lseq h.mark k.express else (t.heldGone h.port h.mark, true)).1.Canon := fun t ht => by
    split
    · exact State.rxSeq_canon _ _ _ _ _ ht
    · exact State.heldGone_canon _ _ _ ht
  have hb := State.rxBegin_canon s h.toRxBase true h.seq k.typ k.express hc
  unfold State.rxZudar
  extract_lets r
  split
  · exact hb
  rename_i s1 p v s2 q s3 hr
  have e1 : s1.Canon := h1 _ hb
  have e3 : s3.Canon := h3 _ (h2 _ e1)
  clear_value s1 s3 q
  repeat' split
  all_goals first
    | exact e1
    | exact e3
    | exact State.count_canon _ _ _ (State.heldGone_canon _ _ _ e1)
    | exact State.count_canon _ _ _ e3
    | (split <;> first | exact e3 | exact State.count_canon _ _ _ e3)

theorem State.rxPtp_canon (s : State) (h : PtpHead) (typ : Nat) (need : Nat) (hc : s.Canon) : (State.rxPtp s h typ need).s.Canon := by
  unfold State.rxPtp
  repeat' (first
    | with_reducible assumption
    | (simp +zetaHave (maxDischargeDepth := 60) only [State.canon_mk, State.canon_eta, apply_ite State.Canon, apply_ite Prod.fst, ite_self, implies_true,
        apply_ite Rx.s, Rx.drop_s, State.count_canon, Rx.drop_canon, State.rxBegin_canon, hc]; done)
    | split
    | intro _
    | (dsimp +zetaHave only))

theorem State.setCand_canon (s : State) (n : Nat) (c : Cand) (hc : s.Canon) : (State.setCand s n c).Canon := by
  unfold State.setCand
  repeat' (first
    | with_reducible assumption
    | (simp +zetaHave (maxDischargeDepth := 60) only [State.canon_mk, State.canon_eta, apply_ite State.Canon, apply_ite Prod.fst, ite_self, implies_true,
        hc]; done)
    | split
    | intro _
    | (dsimp +zetaHave only))

theorem State.withdrawClock_canon (s : State) (p : Nat) (hc : s.Canon) : (State.withdrawClock s p).Canon := by
  unfold State.withdrawClock
  repeat' (first
    | with_reducible assumption
    | (simp +zetaHave (maxDischargeDepth := 60) only [State.canon_mk, State.canon_eta, apply_ite State.Canon, apply_ite Prod.fst, ite_self, implies_true,
        State.setCand_canon, hc]; done)
    | split
    | intro _
    | (dsimp +zetaHave only))

end Sys2Proof.Machine
end

