-- ==== Sys2Proof/Laws/CanonLink.lean ====
section
/-! SUPPORT. Sys2Proof/Laws/CanonLink.lean: every operation of Machine/Link.lean keeps the tables of the state in canonical
form. -/

set_option linter.all false
set_option Elab.async false

namespace Sys2Proof.Machine
open Sys2Proof.Config
set_option linter.unusedSimpArgs false

theorem State.sendHello_canon (s : State) (p : Nat) (hc : s.Canon) : (State.sendHello s p).Canon := by
  unfold State.sendHello
  repeat' (first
    | with_reducible assumption
    | (simp +zetaHave (maxDischargeDepth := 60) only [State.canon_mk, State.canon_eta, apply_ite State.Canon, apply_ite Prod.fst, ite_self, implies_true,
        State.xsend_canon, hc]; done)
    | split
    | intro _
    | (dsimp +zetaHave only))

theorem State.comeUp_canon (s : State) (p : Nat) (hc : s.Canon) : (State.comeUp s p).Canon := by
  unfold State.comeUp
  repeat' (first
    | with_reducible assumption
    | (simp +zetaHave (maxDischargeDepth := 60) only [State.canon_mk, State.canon_eta, apply_ite State.Canon, apply_ite Prod.fst, ite_self, implies_true,
        State.modPort_canon, State.dropExch_canon, State.restartLink_canon, hc]; done)
    | split
    | intro _
    | (dsimp +zetaHave only))

theorem State.sendAck_canon (s : State) (p : Nat) (hc : s.Canon) : (State.sendAck s p).Canon := by
  unfold State.sendAck
  repeat' (first
    | with_reducible assumption
    | (simp +zetaHave (maxDischargeDepth := 60) only [State.canon_mk, State.canon_eta, apply_ite State.Canon, apply_ite Prod.fst, ite_self, implies_true,
        State.modPort_canon, State.xsend_canon, hc]; done)
    | split
    | intro _
    | (dsimp +zetaHave only))

theorem State.rxSpoilt_canon (s : State) (h : RxBase) (hc : s.Canon) : (State.rxSpoilt s h).Canon := by
  unfold State.rxSpoilt
  repeat' (first
    | with_reducible assumption
    | (simp +zetaHave (maxDischargeDepth := 60) only [State.canon_mk, State.canon_eta, apply_ite State.Canon, apply_ite Prod.fst, ite_self, implies_true,
        State.count_canon, State.drawFree_canon, State.evt_canon, State.atCyc_canon, State.stampRecord_canon,
        State.claimMark_canon, hc]; done)
    | split
    | intro _
    | (dsimp +zetaHave only))

theorem State.debtClear_canon (s : State) (v : Nat) (hc : s.Canon) : (State.debtClear s v).Canon := by
  unfold State.debtClear
  repeat' (first
    | with_reducible assumption
    | (simp +zetaHave +contextual (maxDischargeDepth := 60) only [State.canon_mk, State.canon_eta, apply_ite State.Canon, apply_ite Prod.fst, ite_self, implies_true,
        State.each_canon, State.modPort_canon, State.fillBuckets_canon, hc]; done)
    | split
    | intro _
    | (dsimp +zetaHave only)
    | refine State.each_canon _ _ _ ?_ (fun _ _ hc => ?_))

theorem State.profileWrite_canon (s : State) (r : Reg) (v : Nat) (hc : s.Canon) : (State.profileWrite s r v).Canon := by
  unfold State.profileWrite
  repeat' (first
    | with_reducible assumption
    | (simp +zetaHave +contextual (maxDischargeDepth := 60) only [State.canon_mk, State.canon_eta, apply_ite State.Canon, apply_ite Prod.fst, ite_self, implies_true,
        State.each_canon, State.wr_canon, State.fillBuckets_canon, hc]; done)
    | split
    | intro _
    | (dsimp +zetaHave only)
    | refine State.each_canon _ _ _ ?_ (fun _ _ hc => ?_))

theorem State.portCtlWrite_canon (s : State) (p : Nat) (v : Nat) (hc : s.Canon) : (State.portCtlWrite s p v).Canon := by
  unfold State.portCtlWrite
  repeat' (first
    | with_reducible assumption
    | (simp +zetaHave (maxDischargeDepth := 60) only [State.canon_mk, State.canon_eta, apply_ite State.Canon, apply_ite Prod.fst, ite_self, implies_true,
        State.wr_canon, State.openGate_canon, State.modPort_canon, State.flushPort_canon, State.dropExch_canon,
        State.comeUp_canon, hc]; done)
    | split
    | intro _
    | (dsimp +zetaHave only))

theorem State.portConstWrite_canon (s : State) (p : Nat) (r : Reg) (v : Nat) (hc : s.Canon) : (State.portConstWrite s p r v).Canon := by
  unfold State.portConstWrite
  repeat' (first
    | with_reducible assumption
    | (simp +zetaHave (maxDischargeDepth := 60) only [State.canon_mk, State.canon_eta, apply_ite State.Canon, apply_ite Prod.fst, ite_self, implies_true,
        State.wr_canon, State.modPort_canon, hc]; done)
    | split
    | intro _
    | (dsimp +zetaHave only))

theorem State.applyConstants_canon (s : State) (p : Nat) (hc : s.Canon) : (State.applyConstants s p).Canon := by
  unfold State.applyConstants
  repeat' (first
    | with_reducible assumption
    | (simp +zetaHave (maxDischargeDepth := 60) only [State.canon_mk, State.canon_eta, apply_ite State.Canon, apply_ite Prod.fst, ite_self, implies_true,
        State.setPort_canon, hc]; done)
    | split
    | intro _
    | (dsimp +zetaHave only))

end Sys2Proof.Machine
end

