-- ==== Sys2Proof/Laws/CanonColl.lean ====
section
/-! SUPPORT. Sys2Proof/Laws/CanonColl.lean: every operation of Machine/Coll.lean keeps the tables of the state in canonical
form. -/

set_option linter.all false
set_option Elab.async false

namespace Sys2Proof.Machine
open Sys2Proof.Config
set_option linter.unusedSimpArgs false

theorem State.noteAbort_canon (s : State) (m : CollAbort) (hc : s.Canon) : (State.noteAbort s m).Canon := by
  unfold State.noteAbort
  repeat' (first
    | with_reducible assumption
    | (simp +zetaHave (maxDischargeDepth := 60) only [State.canon_mk, State.canon_eta, apply_ite State.Canon, apply_ite Prod.fst, ite_self, implies_true,
        hc]; done)
    | split
    | intro _
    | (dsimp +zetaHave only))

theorem State.dropCtrs_canon (s : State) (cid : Nat) (isn : Nat) (upto : Nat) (hc : s.Canon) : (State.dropCtrs s cid isn upto).Canon := by
  unfold State.dropCtrs
  repeat' (first
    | with_reducible assumption
    | (simp +zetaHave (maxDischargeDepth := 60) only [State.canon_mk, State.canon_eta, apply_ite State.Canon, apply_ite Prod.fst, ite_self, implies_true,
        hc]; done)
    | split
    | intro _
    | (dsimp +zetaHave only))

theorem State.dropMoves_canon (s : State) (cid : Nat) (isn : Nat) (hc : s.Canon) : (State.dropMoves s cid isn).Canon := by
  unfold State.dropMoves
  repeat' (first
    | with_reducible assumption
    | (simp +zetaHave (maxDischargeDepth := 60) only [State.canon_mk, State.canon_eta, apply_ite State.Canon, apply_ite Prod.fst, ite_self, implies_true,
        hc]; done)
    | split
    | intro _
    | (dsimp +zetaHave only))

theorem State.toMembers_canon (s : State) (m : GangMsg) (hc : s.Canon) : (State.toMembers s m).Canon := by
  unfold State.toMembers
  repeat' (first
    | with_reducible assumption
    | (simp +zetaHave (maxDischargeDepth := 60) only [State.canon_mk, State.canon_eta, apply_ite State.Canon, apply_ite Prod.fst, ite_self, implies_true,
        State.emit_canon, hc]; done)
    | split
    | intro _
    | (dsimp +zetaHave only))

theorem State.close_canon (s : State) (cid : Nat) (isn : Nat) (hc : s.Canon) : (State.close s cid isn).Canon := by
  unfold State.close
  repeat' (first
    | with_reducible assumption
    | (simp +zetaHave (maxDischargeDepth := 60) only [State.canon_mk, State.canon_eta, apply_ite State.Canon, apply_ite Prod.fst, ite_self, implies_true,
        hc]; done)
    | split
    | intro _
    | (dsimp +zetaHave only))

theorem State.rootAbort_canon (s : State) (cid : Nat) (isn : Nat) (attempt : Nat) (reason : Nat) (o : Origin) (hc : s.Canon) : (State.rootAbort s cid isn attempt reason o).Canon := by
  unfold State.rootAbort
  repeat' (first
    | with_reducible assumption
    | (simp +zetaHave (maxDischargeDepth := 60) only [State.canon_mk, State.canon_eta, apply_ite State.Canon, apply_ite Prod.fst, ite_self, implies_true,
        State.count_canon, State.raise_canon, State.evt_canon, State.xsendAll_canon, State.noteAbort_canon,
        State.dropCtrs_canon, State.dropMoves_canon, State.close_canon, State.toMembers_canon, hc]; done)
    | split
    | intro _
    | (dsimp +zetaHave only))

theorem State.rootMove_canon (s : State) (cid : Nat) (isn : Nat) (attempt : Nat) (group : Option Nat) (o : Origin) (hc : s.Canon) : (State.rootMove s cid isn attempt group o).Canon := by
  unfold State.rootMove
  repeat' (first
    | with_reducible assumption
    | (simp +zetaHave (maxDischargeDepth := 60) only [State.canon_mk, State.canon_eta, apply_ite State.Canon, apply_ite Prod.fst, ite_self, implies_true,
        State.count_canon, State.evt_canon, State.xsendAll_canon, State.dropCtrs_canon, State.dropMoves_canon,
        State.toMembers_canon, hc]; done)
    | split
    | intro _
    | (dsimp +zetaHave only))

theorem State.pathDecision_canon (s : State) (cid : Nat) (isn : Nat) (attempt : Nat) (group : Option Nat) (o : Origin) (hc : s.Canon) : (State.pathDecision s cid isn attempt group o).Canon := by
  unfold State.pathDecision
  repeat' (first
    | with_reducible assumption
    | (simp +zetaHave (maxDischargeDepth := 60) only [State.canon_mk, State.canon_eta, apply_ite State.Canon, apply_ite Prod.fst, ite_self, implies_true,
        State.rootAbort_canon, State.rootMove_canon, hc]; done)
    | split
    | intro _
    | (dsimp +zetaHave only))

theorem State.rootRequest_canon (s : State) (q : CollReq) (hc : s.Canon) : (State.rootRequest s q).Canon := by
  unfold State.rootRequest
  repeat' (first
    | with_reducible assumption
    | (simp +zetaHave +contextual (maxDischargeDepth := 60) only [State.canon_mk, State.canon_eta, apply_ite State.Canon, apply_ite Prod.fst, ite_self, implies_true,
        State.foldl_canon, State.foldl_fst_canon, State.rootAbort_canon, State.pathDecision_canon, hc]; done)
    | split
    | intro _
    | (dsimp +zetaHave only)
    | refine State.foldl_canon _ _ _ ?_ (fun _ _ hc => ?_)
    | refine State.foldl_fst_canon _ _ _ ?_ (fun _ _ hc => ?_))

theorem State.routeReq_canon (s : State) (q : CollReq) (hc : s.Canon) : (State.routeReq s q).Canon := by
  unfold State.routeReq
  repeat' (first
    | with_reducible assumption
    | (simp +zetaHave (maxDischargeDepth := 60) only [State.canon_mk, State.canon_eta, apply_ite State.Canon, apply_ite Prod.fst, ite_self, implies_true,
        State.xsend_canon, State.rootRequest_canon, State.emit_canon, hc]; done)
    | split
    | intro _
    | (dsimp +zetaHave only))

theorem State.raiseReq_canon (s : State) (q : CollReq) (hc : s.Canon) : (State.raiseReq s q).Canon := by
  unfold State.raiseReq
  repeat' (first
    | with_reducible assumption
    | (simp +zetaHave (maxDischargeDepth := 60) only [State.canon_mk, State.canon_eta, apply_ite State.Canon, apply_ite Prod.fst, ite_self, implies_true,
        State.count_canon, State.routeReq_canon, hc]; done)
    | split
    | intro _
    | (dsimp +zetaHave only))

theorem State.abortReq_canon (s : State) (cid : Nat) (isn : Nat) (attempt : Nat) (d : Dom) (reason : Nat) (port : Nat) (hc : s.Canon) : (State.abortReq s cid isn attempt d reason port).Canon := by
  unfold State.abortReq
  repeat' (first
    | with_reducible assumption
    | (simp +zetaHave (maxDischargeDepth := 60) only [State.canon_mk, State.canon_eta, apply_ite State.Canon, apply_ite Prod.fst, ite_self, implies_true,
        State.raiseReq_canon, hc]; done)
    | split
    | intro _
    | (dsimp +zetaHave only))

theorem State.pathFault_canon (s : State) (p : Nat) (hc : s.Canon) : (State.pathFault s p).Canon := by
  unfold State.pathFault
  repeat' (first
    | with_reducible assumption
    | (simp +zetaHave (maxDischargeDepth := 60) only [State.canon_mk, State.canon_eta, apply_ite State.Canon, apply_ite Prod.fst, ite_self, implies_true,
        State.raiseReq_canon, hc]; done)
    | split
    | intro _
    | (dsimp +zetaHave only))

theorem State.setHandle_canon (s : State) (h : Nat) (v : Option Handle) (hc : s.Canon) : (State.setHandle s h v).Canon := by
  unfold State.setHandle
  repeat' (first
    | with_reducible assumption
    | (simp +zetaHave (maxDischargeDepth := 60) only [State.canon_mk, State.canon_eta, apply_ite State.Canon, apply_ite Prod.fst, ite_self, implies_true,
        hc]; done)
    | split
    | intro _
    | (dsimp +zetaHave only))

theorem State.gather_canon (s : State) (hd : Handle) (i : Inst) (hc : s.Canon) : (State.gather s hd i).1.Canon := by
  unfold State.gather
  repeat' (first
    | with_reducible assumption
    | (simp +zetaHave +contextual (maxDischargeDepth := 60) only [State.canon_mk, State.canon_eta, apply_ite State.Canon, apply_ite Prod.fst, ite_self, implies_true,
        State.foldl_canon, State.foldl_fst_canon, hc]; done)
    | split
    | intro _
    | (dsimp +zetaHave only)
    | refine State.foldl_canon _ _ _ ?_ (fun _ _ hc => ?_)
    | refine State.foldl_fst_canon _ _ _ ?_ (fun _ _ hc => ?_))

theorem State.sendLog_canon (s : State) (h : Nat) (hd : Handle) (i : Inst) (hc : s.Canon) : (State.sendLog s h hd i).Canon := by
  unfold State.sendLog
  repeat' (first
    | with_reducible assumption
    | (simp +zetaHave +contextual (maxDischargeDepth := 60) only [State.canon_mk, State.canon_eta, apply_ite State.Canon, apply_ite Prod.fst, ite_self, implies_true,
        State.foldl_canon, State.foldl_fst_canon, State.count_canon, State.emit_canon, State.xsend_canon,
        State.raiseReq_canon, State.setHandle_canon, State.gather_canon, hc]; done)
    | split
    | intro _
    | (dsimp +zetaHave only)
    | refine State.foldl_canon _ _ _ ?_ (fun _ _ hc => ?_)
    | refine State.foldl_fst_canon _ _ _ ?_ (fun _ _ hc => ?_))

theorem State.startInst_canon (s : State) (h : Nat) (hd : Handle) (data : UpData) (step : Nat) (lanes : Nat) (hc : s.Canon) : (State.startInst s h hd data step lanes).Canon := by
  unfold State.startInst
  repeat' (first
    | with_reducible assumption
    | (simp +zetaHave (maxDischargeDepth := 60) only [State.canon_mk, State.canon_eta, apply_ite State.Canon, apply_ite Prod.fst, ite_self, implies_true,
        State.evt_canon, State.openGate_canon, State.busy_canon, State.abortReq_canon, State.sendLog_canon, hc]; done)
    | split
    | intro _
    | (dsimp +zetaHave only))

theorem State.contribute_canon (s : State) (h : Nat) (data : UpData) (step : Nat) (lanes : Nat) (hc : s.Canon) : (State.contribute s h data step lanes).1.Canon := by
  unfold State.contribute
  repeat' (first
    | with_reducible assumption
    | (simp +zetaHave (maxDischargeDepth := 60) only [State.canon_mk, State.canon_eta, apply_ite State.Canon, apply_ite Prod.fst, ite_self, implies_true,
        State.count_canon, State.raise_canon, State.startInst_canon, hc]; done)
    | split
    | intro _
    | (dsimp +zetaHave only))

theorem State.contributeHeld_canon (s : State) (h : Nat) (data : UpData) (step : Nat) (lanes : Nat) (hc : s.Canon) : (State.contributeHeld s h data step lanes).Canon := by
  unfold State.contributeHeld
  repeat' (first
    | with_reducible assumption
    | (simp +zetaHave (maxDischargeDepth := 60) only [State.canon_mk, State.canon_eta, apply_ite State.Canon, apply_ite Prod.fst, ite_self, implies_true,
        State.count_canon, State.contribute_canon, hc]; done)
    | split
    | intro _
    | (dsimp +zetaHave only))

theorem State.releaseHeld_canon (s : State) (hc : s.Canon) : (State.releaseHeld s).Canon := by
  unfold State.releaseHeld
  repeat' (first
    | with_reducible assumption
    | (simp +zetaHave +contextual (maxDischargeDepth := 60) only [State.canon_mk, State.canon_eta, apply_ite State.Canon, apply_ite Prod.fst, ite_self, implies_true,
        State.foldl_canon, State.foldl_fst_canon, State.contribute_canon, hc]; done)
    | split
    | intro _
    | (dsimp +zetaHave only)
    | refine State.foldl_canon _ _ _ ?_ (fun _ _ hc => ?_)
    | refine State.foldl_fst_canon _ _ _ ?_ (fun _ _ hc => ?_))

theorem State.setOut_canon (s : State) (h : Nat) (hd : Handle) (i : Inst) (o : CollOutcome) (hc : s.Canon) : (State.setOut s h hd i o).Canon := by
  unfold State.setOut
  repeat' (first
    | with_reducible assumption
    | (simp +zetaHave (maxDischargeDepth := 60) only [State.canon_mk, State.canon_eta, apply_ite State.Canon, apply_ite Prod.fst, ite_self, implies_true,
        State.setHandle_canon, hc]; done)
    | split
    | intro _
    | (dsimp +zetaHave only))

theorem State.eaveDown_canon (s : State) (p : Nat) (m : CollDown) (hc : s.Canon) : (State.eaveDown s p m).Canon := by
  unfold State.eaveDown
  repeat' (first
    | with_reducible assumption
    | (simp +zetaHave (maxDischargeDepth := 60) only [State.canon_mk, State.canon_eta, apply_ite State.Canon, apply_ite Prod.fst, ite_self, implies_true,
        State.count_canon, State.evt_canon, State.xsend_canon, State.setHandle_canon, State.setOut_canon,
        State.toMembers_canon, hc]; done)
    | split
    | intro _
    | (dsimp +zetaHave only))

theorem State.eaveAbort_canon (s : State) (m : CollAbort) (hc : s.Canon) : (State.eaveAbort s m).Canon := by
  unfold State.eaveAbort
  repeat' (first
    | with_reducible assumption
    | (simp +zetaHave (maxDischargeDepth := 60) only [State.canon_mk, State.canon_eta, apply_ite State.Canon, apply_ite Prod.fst, ite_self, implies_true,
        State.count_canon, State.evt_canon, State.noteAbort_canon, State.setOut_canon, State.toMembers_canon, hc]; done)
    | split
    | intro _
    | (dsimp +zetaHave only))

theorem State.reportDone_canon (s : State) (hd : Handle) (m : CollMove) (o : CollOutcome) (hc : s.Canon) : (State.reportDone s hd m o).Canon := by
  unfold State.reportDone
  repeat' (first
    | with_reducible assumption
    | (simp +zetaHave (maxDischargeDepth := 60) only [State.canon_mk, State.canon_eta, apply_ite State.Canon, apply_ite Prod.fst, ite_self, implies_true,
        State.count_canon, State.evt_canon, State.xsend_canon, hc]; done)
    | split
    | intro _
    | (dsimp +zetaHave only))

theorem State.eaveMove_canon (s : State) (m : CollMove) (hc : s.Canon) : (State.eaveMove s m).Canon := by
  unfold State.eaveMove
  repeat' (first
    | with_reducible assumption
    | (simp +zetaHave (maxDischargeDepth := 60) only [State.canon_mk, State.canon_eta, apply_ite State.Canon, apply_ite Prod.fst, ite_self, implies_true,
        State.count_canon, State.evt_canon, State.xsend_canon, State.abortReq_canon, State.setHandle_canon,
        State.sendLog_canon, State.toMembers_canon, State.reportDone_canon, hc]; done)
    | split
    | intro _
    | (dsimp +zetaHave only))

theorem State.gangContribution_canon (s : State) (pos : Nat) (m : CollUp) (hc : s.Canon) : (State.gangContribution s pos m).Canon := by
  unfold State.gangContribution
  repeat' (first
    | with_reducible assumption
    | (simp +zetaHave (maxDischargeDepth := 60) only [State.canon_mk, State.canon_eta, apply_ite State.Canon, apply_ite Prod.fst, ite_self, implies_true,
        State.sendLog_canon, hc]; done)
    | split
    | intro _
    | (dsimp +zetaHave only))

theorem State.applyOutcomes_canon (s : State) (hc : s.Canon) : (State.applyOutcomes s).1.Canon := by
  unfold State.applyOutcomes
  repeat' (first
    | with_reducible assumption
    | (simp +zetaHave +contextual (maxDischargeDepth := 60) only [State.canon_mk, State.canon_eta, apply_ite State.Canon, apply_ite Prod.fst, ite_self, implies_true,
        State.foldl_canon, State.foldl_fst_canon, State.raiseIf_canon, State.setHandle_canon, hc]; done)
    | split
    | intro _
    | (dsimp +zetaHave only)
    | refine State.foldl_canon _ _ _ ?_ (fun _ _ hc => ?_)
    | refine State.foldl_fst_canon _ _ _ ?_ (fun _ _ hc => ?_))

theorem State.localOutcome_canon (s : State) (h : Nat) (hd : Handle) (i : Inst) (reason : Nat) (hc : s.Canon) : (State.localOutcome s h hd i reason).Canon := by
  unfold State.localOutcome
  repeat' (first
    | with_reducible assumption
    | (simp +zetaHave (maxDischargeDepth := 60) only [State.canon_mk, State.canon_eta, apply_ite State.Canon, apply_ite Prod.fst, ite_self, implies_true,
        State.count_canon, State.raise_canon, State.noteAbort_canon, State.setHandle_canon, hc]; done)
    | split
    | intro _
    | (dsimp +zetaHave only))

theorem State.collDeadlines_canon (s : State) (n : Nat) (hc : s.Canon) : (State.collDeadlines s n).Canon := by
  unfold State.collDeadlines
  repeat' (first
    | with_reducible assumption
    | (simp +zetaHave +contextual (maxDischargeDepth := 60) only [State.canon_mk, State.canon_eta, apply_ite State.Canon, apply_ite Prod.fst, ite_self, implies_true,
        State.each_canon, State.foldl_canon, State.foldl_fst_canon, State.abortReq_canon, State.setHandle_canon, hc]; done)
    | split
    | intro _
    | (dsimp +zetaHave only)
    | refine State.each_canon _ _ _ ?_ (fun _ _ hc => ?_)
    | refine State.foldl_canon _ _ _ ?_ (fun _ _ hc => ?_)
    | refine State.foldl_fst_canon _ _ _ ?_ (fun _ _ hc => ?_))

theorem State.isolate_canon (s : State) (t : Nat) (hc : s.Canon) : (State.isolate s t).1.Canon := by
  unfold State.isolate
  repeat' (first
    | with_reducible assumption
    | (simp +zetaHave +contextual (maxDischargeDepth := 60) only [State.canon_mk, State.canon_eta, apply_ite State.Canon, apply_ite Prod.fst, ite_self, implies_true,
        State.foldl_canon, State.foldl_fst_canon, State.localOutcome_canon, hc]; done)
    | split
    | intro _
    | (dsimp +zetaHave only)
    | refine State.foldl_canon _ _ _ ?_ (fun _ _ hc => ?_)
    | refine State.foldl_fst_canon _ _ _ ?_ (fun _ _ hc => ?_))

theorem State.sendHeldReps_canon (s : State) (hc : s.Canon) : (State.sendHeldReps s).Canon := by
  unfold State.sendHeldReps
  repeat' (first
    | with_reducible assumption
    | (simp +zetaHave +contextual (maxDischargeDepth := 60) only [State.canon_mk, State.canon_eta, apply_ite State.Canon, apply_ite Prod.fst, ite_self, implies_true,
        State.foldl_canon, State.foldl_fst_canon, State.xsend_canon, hc]; done)
    | split
    | intro _
    | (dsimp +zetaHave only)
    | refine State.foldl_canon _ _ _ ?_ (fun _ _ hc => ?_)
    | refine State.foldl_fst_canon _ _ _ ?_ (fun _ _ hc => ?_))

theorem State.sendHeldLogs_canon (s : State) (hc : s.Canon) : (State.sendHeldLogs s).Canon := by
  unfold State.sendHeldLogs
  refine State.sendHeldReps_canon _ ?_
  repeat' (first
    | with_reducible assumption
    | (simp +zetaHave +contextual (maxDischargeDepth := 60) only [State.canon_mk, State.canon_eta, apply_ite State.Canon, apply_ite Prod.fst, ite_self, implies_true,
        State.each_canon, State.foldl_canon, State.foldl_fst_canon, State.sendLog_canon, State.sendHeldReps_canon, hc]; done)
    | split
    | intro _
    | (dsimp +zetaHave only)
    | refine State.each_canon _ _ _ ?_ (fun _ _ hc => ?_)
    | refine State.foldl_canon _ _ _ ?_ (fun _ _ hc => ?_)
    | refine State.foldl_fst_canon _ _ _ ?_ (fun _ _ hc => ?_))

theorem State.endLocal_canon (s : State) (reason : Nat) (hc : s.Canon) : (State.endLocal s reason).Canon := by
  unfold State.endLocal
  repeat' (first
    | with_reducible assumption
    | (simp +zetaHave +contextual (maxDischargeDepth := 60) only [State.canon_mk, State.canon_eta, apply_ite State.Canon, apply_ite Prod.fst, ite_self, implies_true,
        State.each_canon, State.setHandle_canon, hc]; done)
    | split
    | intro _
    | (dsimp +zetaHave only)
    | refine State.each_canon _ _ _ ?_ (fun _ _ hc => ?_))

theorem State.abortAll_canon (s : State) (reason : Nat) (hc : s.Canon) : (State.abortAll s reason).Canon := by
  unfold State.abortAll
  repeat' (first
    | with_reducible assumption
    | (simp +zetaHave +contextual (maxDischargeDepth := 60) only [State.canon_mk, State.canon_eta, apply_ite State.Canon, apply_ite Prod.fst, ite_self, implies_true,
        State.each_canon, State.foldl_canon, State.foldl_fst_canon, State.abortReq_canon, hc]; done)
    | split
    | intro _
    | (dsimp +zetaHave only)
    | refine State.each_canon _ _ _ ?_ (fun _ _ hc => ?_)
    | refine State.foldl_canon _ _ _ ?_ (fun _ _ hc => ?_)
    | refine State.foldl_fst_canon _ _ _ ?_ (fun _ _ hc => ?_))

theorem State.putCtr_canon (s : State) (c : TreeCtr) (hc : s.Canon) : (State.putCtr s c).Canon := by
  unfold State.putCtr
  repeat' (first
    | with_reducible assumption
    | (simp +zetaHave (maxDischargeDepth := 60) only [State.canon_mk, State.canon_eta, apply_ite State.Canon, apply_ite Prod.fst, ite_self, implies_true,
        hc]; done)
    | split
    | intro _
    | (dsimp +zetaHave only))

theorem State.sendHome_canon (s : State) (m : CollUp) (hc : s.Canon) : (State.sendHome s m).Canon := by
  unfold State.sendHome
  repeat' (first
    | with_reducible assumption
    | (simp +zetaHave (maxDischargeDepth := 60) only [State.canon_mk, State.canon_eta, apply_ite State.Canon, apply_ite Prod.fst, ite_self, implies_true,
        State.emit_canon, State.xsend_canon, hc]; done)
    | split
    | intro _
    | (dsimp +zetaHave only))

theorem State.rootDown_canon (s : State) (c : TreeCtr) (status : Nat) (step : Nat) (results : List Nat) (hc : s.Canon) : (State.rootDown s c status step results).Canon := by
  unfold State.rootDown
  repeat' (first
    | with_reducible assumption
    | (simp +zetaHave (maxDischargeDepth := 60) only [State.canon_mk, State.canon_eta, apply_ite State.Canon, apply_ite Prod.fst, ite_self, implies_true,
        State.count_canon, State.evt_canon, State.xsendAll_canon, State.dropCtrs_canon, State.dropMoves_canon,
        State.close_canon, State.toMembers_canon, hc]; done)
    | split
    | intro _
    | (dsimp +zetaHave only))

theorem State.rootComplete_canon (s : State) (c : TreeCtr) (g : Group) (hc : s.Canon) : (State.rootComplete s c g).Canon := by
  unfold State.rootComplete
  repeat' (first
    | with_reducible assumption
    | (simp +zetaHave (maxDischargeDepth := 60) only [State.canon_mk, State.canon_eta, apply_ite State.Canon, apply_ite Prod.fst, ite_self, implies_true,
        State.count_canon, State.xsendAll_canon, State.rootAbort_canon, State.putCtr_canon, State.rootDown_canon,
        State.toMembers_canon, hc]; done)
    | split
    | intro _
    | (dsimp +zetaHave only))

theorem State.rootVerdict_canon (s : State) (c : TreeCtr) (g : Group) (cand : Ballot) (hc : s.Canon) : (State.rootVerdict s c g cand).Canon := by
  unfold State.rootVerdict
  repeat' (first
    | with_reducible assumption
    | (simp +zetaHave (maxDischargeDepth := 60) only [State.canon_mk, State.canon_eta, apply_ite State.Canon, apply_ite Prod.fst, ite_self, implies_true,
        State.count_canon, State.rootDown_canon, hc]; done)
    | split
    | intro _
    | (dsimp +zetaHave only))

theorem State.sendUp_canon (s : State) (c : TreeCtr) (hc : s.Canon) : (State.sendUp s c).Canon := by
  unfold State.sendUp
  repeat' (first
    | with_reducible assumption
    | (simp +zetaHave (maxDischargeDepth := 60) only [State.canon_mk, State.canon_eta, apply_ite State.Canon, apply_ite Prod.fst, ite_self, implies_true,
        State.count_canon, State.xsend_canon, State.putCtr_canon, State.sendHome_canon, hc]; done)
    | split
    | intro _
    | (dsimp +zetaHave only))

theorem State.afterFold_canon (s : State) (c : TreeCtr) (hc : s.Canon) : (State.afterFold s c).Canon := by
  unfold State.afterFold
  repeat' (first
    | with_reducible assumption
    | (simp +zetaHave (maxDischargeDepth := 60) only [State.canon_mk, State.canon_eta, apply_ite State.Canon, apply_ite Prod.fst, ite_self, implies_true,
        State.putCtr_canon, State.rootComplete_canon, State.sendUp_canon, hc]; done)
    | split
    | intro _
    | (dsimp +zetaHave only))

theorem State.ridgeMatch_canon (s : State) (p : Nat) (m : CollUp) (b : Ballot) (hc : s.Canon) : (State.ridgeMatch s p m b).Canon := by
  unfold State.ridgeMatch
  repeat' (first
    | with_reducible assumption
    | (simp +zetaHave (maxDischargeDepth := 60) only [State.canon_mk, State.canon_eta, apply_ite State.Canon, apply_ite Prod.fst, ite_self, implies_true,
        State.count_canon, State.xsend_canon, State.abortReq_canon, State.putCtr_canon, State.rootVerdict_canon,
        State.sendHome_canon, hc]; done)
    | split
    | intro _
    | (dsimp +zetaHave only))

theorem State.ridgeReport_canon (s : State) (m : CollUp) (status : Nat) (results : List Nat) (hc : s.Canon) : (State.ridgeReport s m status results).Canon := by
  unfold State.ridgeReport
  repeat' (first
    | with_reducible assumption
    | (simp +zetaHave (maxDischargeDepth := 60) only [State.canon_mk, State.canon_eta, apply_ite State.Canon, apply_ite Prod.fst, ite_self, implies_true,
        State.xsend_canon, State.rootDown_canon, State.sendHome_canon, hc]; done)
    | split
    | intro _
    | (dsimp +zetaHave only))

theorem State.ridgeUp_canon (s : State) (p : Nat) (m : CollUp) (hc : s.Canon) : (State.ridgeUp s p m).Canon := by
  unfold State.ridgeUp
  repeat' (first
    | with_reducible assumption
    | (simp +zetaHave (maxDischargeDepth := 60) only [State.canon_mk, State.canon_eta, apply_ite State.Canon, apply_ite Prod.fst, ite_self, implies_true,
        State.count_canon, State.raise_canon, State.evt_canon, State.abortReq_canon, State.afterFold_canon,
        State.ridgeMatch_canon, State.ridgeReport_canon, hc]; done)
    | split
    | intro _
    | (dsimp +zetaHave only))

theorem State.spreadDown_canon (s : State) (m : CollDown) (hc : s.Canon) : (State.spreadDown s m).Canon := by
  unfold State.spreadDown
  repeat' (first
    | with_reducible assumption
    | (simp +zetaHave (maxDischargeDepth := 60) only [State.canon_mk, State.canon_eta, apply_ite State.Canon, apply_ite Prod.fst, ite_self, implies_true,
        State.count_canon, State.evt_canon, State.xsendAll_canon, State.dropCtrs_canon, State.dropMoves_canon,
        State.toMembers_canon, State.putCtr_canon, hc]; done)
    | split
    | intro _
    | (dsimp +zetaHave only))

theorem State.ridgeDown_canon (s : State) (p : Nat) (m : CollDown) (hc : s.Canon) : (State.ridgeDown s p m).Canon := by
  unfold State.ridgeDown
  repeat' (first
    | with_reducible assumption
    | (simp +zetaHave (maxDischargeDepth := 60) only [State.canon_mk, State.canon_eta, apply_ite State.Canon, apply_ite Prod.fst, ite_self, implies_true,
        State.count_canon, State.evt_canon, State.xsendAll_canon, State.dropCtrs_canon, State.dropMoves_canon,
        State.putCtr_canon, State.spreadDown_canon, hc]; done)
    | split
    | intro _
    | (dsimp +zetaHave only))

theorem State.spreadMove_canon (s : State) (m : CollMove) (hc : s.Canon) : (State.spreadMove s m).Canon := by
  unfold State.spreadMove
  repeat' (first
    | with_reducible assumption
    | (simp +zetaHave (maxDischargeDepth := 60) only [State.canon_mk, State.canon_eta, apply_ite State.Canon, apply_ite Prod.fst, ite_self, implies_true,
        State.count_canon, State.evt_canon, State.xsendAll_canon, State.dropCtrs_canon, State.dropMoves_canon,
        State.toMembers_canon, hc]; done)
    | split
    | intro _
    | (dsimp +zetaHave only))

theorem State.ridgeMove_canon (s : State) (p : Nat) (m : CollMove) (hc : s.Canon) : (State.ridgeMove s p m).Canon := by
  unfold State.ridgeMove
  repeat' (first
    | with_reducible assumption
    | (simp +zetaHave (maxDischargeDepth := 60) only [State.canon_mk, State.canon_eta, apply_ite State.Canon, apply_ite Prod.fst, ite_self, implies_true,
        State.count_canon, State.evt_canon, State.xsendAll_canon, State.dropCtrs_canon, State.dropMoves_canon,
        State.spreadMove_canon, hc]; done)
    | split
    | intro _
    | (dsimp +zetaHave only))

theorem State.spreadAbort_canon (s : State) (m : CollAbort) (hc : s.Canon) : (State.spreadAbort s m).Canon := by
  unfold State.spreadAbort
  repeat' (first
    | with_reducible assumption
    | (simp +zetaHave (maxDischargeDepth := 60) only [State.canon_mk, State.canon_eta, apply_ite State.Canon, apply_ite Prod.fst, ite_self, implies_true,
        State.count_canon, State.evt_canon, State.xsendAll_canon, State.noteAbort_canon, State.dropCtrs_canon,
        State.dropMoves_canon, State.toMembers_canon, State.close_canon, hc]; done)
    | split
    | intro _
    | (dsimp +zetaHave only))

theorem State.ridgeAbort_canon (s : State) (p : Nat) (m : CollAbort) (hc : s.Canon) : (State.ridgeAbort s p m).Canon := by
  unfold State.ridgeAbort
  repeat' (first
    | with_reducible assumption
    | (simp +zetaHave (maxDischargeDepth := 60) only [State.canon_mk, State.canon_eta, apply_ite State.Canon, apply_ite Prod.fst, ite_self, implies_true,
        State.count_canon, State.evt_canon, State.xsendAll_canon, State.noteAbort_canon, State.dropCtrs_canon,
        State.dropMoves_canon, State.close_canon, State.spreadAbort_canon, hc]; done)
    | split
    | intro _
    | (dsimp +zetaHave only))

theorem State.freeOrphans_canon (s : State) (t : Nat) (hc : s.Canon) : (State.freeOrphans s t).Canon := by
  unfold State.freeOrphans
  repeat' (first
    | with_reducible assumption
    | (simp +zetaHave (maxDischargeDepth := 60) only [State.canon_mk, State.canon_eta, apply_ite State.Canon, apply_ite Prod.fst, ite_self, implies_true,
        State.count_canon, State.raise_canon, hc]; done)
    | split
    | intro _
    | (dsimp +zetaHave only))

theorem State.moveTimeouts_canon (s : State) (t : Nat) (hc : s.Canon) : (State.moveTimeouts s t).Canon := by
  unfold State.moveTimeouts
  repeat' (first
    | with_reducible assumption
    | (simp +zetaHave +contextual (maxDischargeDepth := 60) only [State.canon_mk, State.canon_eta, apply_ite State.Canon, apply_ite Prod.fst, ite_self, implies_true,
        State.foldl_canon, State.foldl_fst_canon, State.rootAbort_canon, hc]; done)
    | split
    | intro _
    | (dsimp +zetaHave only)
    | refine State.foldl_canon _ _ _ ?_ (fun _ _ hc => ?_)
    | refine State.foldl_fst_canon _ _ _ ?_ (fun _ _ hc => ?_))

theorem State.resendMoves_canon (s : State) (ports : List Nat) (hc : s.Canon) : (State.resendMoves s ports).Canon := by
  unfold State.resendMoves
  repeat' (first
    | with_reducible assumption
    | (simp +zetaHave +contextual (maxDischargeDepth := 60) only [State.canon_mk, State.canon_eta, apply_ite State.Canon, apply_ite Prod.fst, ite_self, implies_true,
        State.each_canon, State.foldl_canon, State.foldl_fst_canon, State.xsend_canon, hc]; done)
    | split
    | intro _
    | (dsimp +zetaHave only)
    | refine State.each_canon _ _ _ ?_ (fun _ _ hc => ?_)
    | refine State.foldl_canon _ _ _ ?_ (fun _ _ hc => ?_)
    | refine State.foldl_fst_canon _ _ _ ?_ (fun _ _ hc => ?_))

theorem State.ageClosed_canon (s : State) (t : Nat) (hc : s.Canon) : (State.ageClosed s t).Canon := by
  unfold State.ageClosed
  repeat' (first
    | with_reducible assumption
    | (simp +zetaHave (maxDischargeDepth := 60) only [State.canon_mk, State.canon_eta, apply_ite State.Canon, apply_ite Prod.fst, ite_self, implies_true,
        hc]; done)
    | split
    | intro _
    | (dsimp +zetaHave only))

end Sys2Proof.Machine
end

