-- ==== Sys2Proof/Laws/CanonContain.lean ====
section
/-! SUPPORT. Sys2Proof/Laws/CanonContain.lean: every operation of Machine/Contain.lean keeps the tables of the state in canonical
form. -/

set_option linter.all false
set_option Elab.async false

namespace Sys2Proof.Machine
open Sys2Proof.Config
set_option linter.unusedSimpArgs false

theorem State.underlayRequests_canon (s : State) (hc : s.Canon) : (State.underlayRequests s).Canon := by
  unfold State.underlayRequests
  repeat' (first
    | with_reducible assumption
    | (simp +zetaHave (maxDischargeDepth := 60) only [State.canon_mk, State.canon_eta, apply_ite State.Canon, apply_ite Prod.fst, ite_self, implies_true,
        State.raiseReq_canon, State.abortAll_canon, hc]; done)
    | split
    | intro _
    | (dsimp +zetaHave only))

theorem State.underlayCause_canon (s : State) (cause : Nat) (unit : Nat) (hc : s.Canon) : (State.underlayCause s cause unit).Canon := by
  unfold State.underlayCause
  repeat' (first
    | with_reducible assumption
    | (simp +zetaHave (maxDischargeDepth := 60) only [State.canon_mk, State.canon_eta, apply_ite State.Canon, apply_ite Prod.fst, ite_self, implies_true,
        State.raise_canon, State.underlayRequests_canon, hc]; done)
    | split
    | intro _
    | (dsimp +zetaHave only))

theorem State.contained_canon (s : State) (unit : Nat) (hc : s.Canon) : (State.contained s unit).Canon := by
  unfold State.contained
  repeat' (first
    | with_reducible assumption
    | (simp +zetaHave (maxDischargeDepth := 60) only [State.canon_mk, State.canon_eta, apply_ite State.Canon, apply_ite Prod.fst, ite_self, implies_true,
        State.count_canon, State.raise_canon, State.evt_canon, State.underlayCause_canon, hc]; done)
    | split
    | intro _
    | (dsimp +zetaHave only))

theorem State.uncontained_canon (s : State) (unit : Nat) (hc : s.Canon) : (State.uncontained s unit).Canon := by
  unfold State.uncontained
  repeat' (first
    | with_reducible assumption
    | (simp +zetaHave (maxDischargeDepth := 60) only [State.canon_mk, State.canon_eta, apply_ite State.Canon, apply_ite Prod.fst, ite_self, implies_true,
        State.count_canon, State.underlayCause_canon, hc]; done)
    | split
    | intro _
    | (dsimp +zetaHave only))

end Sys2Proof.Machine
end

