-- ==== Sys2Proof/Laws/CanonBatten.lean ====
section
/-! SUPPORT. Sys2Proof/Laws/CanonBatten.lean: every operation of Machine/Batten.lean keeps the tables of the state in canonical
form. -/

set_option linter.all false
set_option Elab.async false

namespace Sys2Proof.Machine
open Sys2Proof.Config
set_option linter.unusedSimpArgs false

theorem State.setTap_canon (s : State) (n : Nat) (v : Tap) (hc : s.Canon) : (State.setTap s n v).Canon := by
  unfold State.setTap
  repeat' (first
    | with_reducible assumption
    | (simp +zetaHave (maxDischargeDepth := 60) only [State.canon_mk, State.canon_eta, apply_ite State.Canon, apply_ite Prod.fst, ite_self, implies_true,
        hc]; done)
    | split
    | intro _
    | (dsimp +zetaHave only))

theorem State.modTap_canon (s : State) (n : Nat) (f : Tap → Tap) (hc : s.Canon) : (State.modTap s n f).Canon := by
  unfold State.modTap
  repeat' (first
    | with_reducible assumption
    | (simp +zetaHave (maxDischargeDepth := 60) only [State.canon_mk, State.canon_eta, apply_ite State.Canon, apply_ite Prod.fst, ite_self, implies_true,
        State.setTap_canon, hc]; done)
    | split
    | intro _
    | (dsimp +zetaHave only))

theorem State.tapReport_canon (s : State) (n : Nat) (l : Launch) (code : Nat) (hc : s.Canon) : (State.tapReport s n l code).Canon := by
  unfold State.tapReport
  repeat' (first
    | with_reducible assumption
    | (simp +zetaHave (maxDischargeDepth := 60) only [State.canon_mk, State.canon_eta, apply_ite State.Canon, apply_ite Prod.fst, ite_self, implies_true,
        State.count_canon, State.raiseIf_canon, State.evt_canon, State.modTap_canon, hc]; done)
    | split
    | intro _
    | (dsimp +zetaHave only))

theorem State.endLaunches_canon (s : State) (n : Nat) (hc : s.Canon) : (State.endLaunches s n).Canon := by
  unfold State.endLaunches
  repeat' (first
    | with_reducible assumption
    | (simp +zetaHave +contextual (maxDischargeDepth := 60) only [State.canon_mk, State.canon_eta, apply_ite State.Canon, apply_ite Prod.fst, ite_self, implies_true,
        State.foldl_canon, State.foldl_fst_canon, State.setTap_canon, State.tapReport_canon, hc]; done)
    | split
    | intro _
    | (dsimp +zetaHave only)
    | refine State.foldl_canon _ _ _ ?_ (fun _ _ hc => ?_)
    | refine State.foldl_fst_canon _ _ _ ?_ (fun _ _ hc => ?_))

theorem State.flagCrossing_canon (s : State) (n : Nat) (hc : s.Canon) : (State.flagCrossing s n).Canon := by
  unfold State.flagCrossing
  repeat' (first
    | with_reducible assumption
    | (simp +zetaHave +contextual (maxDischargeDepth := 60) only [State.canon_mk, State.canon_eta, apply_ite State.Canon, apply_ite Prod.fst, ite_self, implies_true,
        State.each_canon, State.count_canon, State.raise_canon, State.modTap_canon, hc]; done)
    | split
    | intro _
    | (dsimp +zetaHave only)
    | refine State.each_canon _ _ _ ?_ (fun _ _ hc => ?_))

theorem State.setWaiting_canon (s : State) (n : Nat) (l : List DownWord) (hc : s.Canon) : (State.setWaiting s n l).Canon := by
  unfold State.setWaiting
  repeat' (first
    | with_reducible assumption
    | (simp +zetaHave (maxDischargeDepth := 60) only [State.canon_mk, State.canon_eta, apply_ite State.Canon, apply_ite Prod.fst, ite_self, implies_true,
        State.modTap_canon, hc]; done)
    | split
    | intro _
    | (dsimp +zetaHave only))

theorem State.laneTick_canon (s : State) (n : Nat) (hc : s.Canon) : (State.laneTick s n).Canon := by
  unfold State.laneTick
  repeat' (first
    | with_reducible assumption
    | (simp +zetaHave (maxDischargeDepth := 60) only [State.canon_mk, State.canon_eta, apply_ite State.Canon, apply_ite Prod.fst, ite_self, implies_true,
        State.setTap_canon, State.modTap_canon, State.setWaiting_canon, hc]; done)
    | split
    | intro _
    | (dsimp +zetaHave only))

theorem State.laneRun_canon (s : State) (n fuel : Nat) (hc : s.Canon) : (s.laneRun n fuel).Canon := by
  induction fuel generalizing s with
  | zero => exact hc
  | succ k ih => rw [State.laneRun]; exact ih _ (State.laneTick_canon _ _ hc)

theorem State.lanesTick_canon (s : State) (n : Nat) (t0 : Int) (step : Nat) (hc : s.Canon) : (State.lanesTick s n t0 step).Canon := by
  unfold State.lanesTick
  repeat' (first
    | with_reducible assumption
    | (simp +zetaHave +contextual (maxDischargeDepth := 60) only [State.canon_mk, State.canon_eta, apply_ite State.Canon, apply_ite Prod.fst, ite_self, implies_true,
        State.each_canon, State.laneTick_canon, State.laneRun_canon, hc]; done)
    | split
    | intro _
    | (dsimp +zetaHave only)
    | refine State.each_canon _ _ _ ?_ (fun _ _ hc => ?_))

theorem State.laneForce_canon (s : State) (n : Nat) (hc : s.Canon) : (State.laneForce s n).Canon := by
  unfold State.laneForce
  repeat' (first
    | with_reducible assumption
    | (simp +zetaHave (maxDischargeDepth := 60) only [State.canon_mk, State.canon_eta, apply_ite State.Canon, apply_ite Prod.fst, ite_self, implies_true,
        State.laneTick_canon, hc]; done)
    | split
    | intro _
    | (dsimp +zetaHave only))

theorem State.relayAll_canon (s : State) (n : Nat) (l : List DownWord) (hc : s.Canon) : (State.relayAll s n l).Canon := by
  unfold State.relayAll
  repeat' (first
    | with_reducible assumption
    | (simp +zetaHave (maxDischargeDepth := 60) only [State.canon_mk, State.canon_eta, apply_ite State.Canon, apply_ite Prod.fst, ite_self, implies_true,
        State.modTap_canon, hc]; done)
    | split
    | intro _
    | (dsimp +zetaHave only))

theorem State.stretched_canon (s : State) (n : Nat) (hc : s.Canon) : (State.stretched s n).Canon := by
  unfold State.stretched
  repeat' (first
    | with_reducible assumption
    | (simp +zetaHave +contextual (maxDischargeDepth := 60) only [State.canon_mk, State.canon_eta, apply_ite State.Canon, apply_ite Prod.fst, ite_self, implies_true,
        State.each_canon, State.modTap_canon, State.flagCrossing_canon, hc]; done)
    | split
    | intro _
    | (dsimp +zetaHave only)
    | refine State.each_canon _ _ _ ?_ (fun _ _ hc => ?_))

theorem State.tapEdge_canon (s : State) (n : Nat) (str : Bool) (hc : s.Canon) : (State.tapEdge s n str).Canon := by
  unfold State.tapEdge
  repeat' (first
    | with_reducible assumption
    | (simp +zetaHave +contextual (maxDischargeDepth := 60) only [State.canon_mk, State.canon_eta, apply_ite State.Canon, apply_ite Prod.fst, ite_self, implies_true,
        State.foldl_canon, State.foldl_fst_canon, State.count_canon, State.emit_canon, State.evt_canon,
        State.setTap_canon, State.tapReport_canon, State.stretched_canon, State.lanesTick_canon, hc]; done)
    | split
    | intro _
    | (dsimp +zetaHave only)
    | refine State.foldl_canon _ _ _ ?_ (fun _ _ hc => ?_)
    | refine State.foldl_fst_canon _ _ _ ?_ (fun _ _ hc => ?_))

theorem State.tapRun_canon (s : State) (n k : Nat) (hc : s.Canon) : (s.tapRun n k).Canon := by
  induction k generalizing s with
  | zero => exact hc
  | succ k ih => rw [State.tapRun]; exact ih _ (State.tapEdge_canon _ _ _ hc)

theorem State.tapUntil_canon (s : State) (n k : Nat) (stop : Tap → Tap → Bool) (hc : s.Canon) : (s.tapUntil n k stop).Canon := by
  induction k generalizing s with
  | zero => exact hc
  | succ k ih =>
    unfold State.tapUntil
    dsimp +zetaHave only
    split
    · exact State.tapEdge_canon s n false hc
    · exact ih _ (State.tapEdge_canon s n false hc)

theorem State.takeArm_canon (s : State) (n : Nat) (line : Nat) (target : Int) (nw : Nat) (tol : Nat) (hc : s.Canon) : (State.takeArm s n line target nw tol).Canon := by
  unfold State.takeArm
  repeat' (first
    | with_reducible assumption
    | (simp +zetaHave (maxDischargeDepth := 60) only [State.canon_mk, State.canon_eta, apply_ite State.Canon, apply_ite Prod.fst, ite_self, implies_true,
        State.modTap_canon, State.tapReport_canon, hc]; done)
    | split
    | intro _
    | (dsimp +zetaHave only))

theorem State.takeCancel_canon (s : State) (n : Nat) (line : Nat) (target : Int) (hc : s.Canon) : (State.takeCancel s n line target).Canon := by
  unfold State.takeCancel
  repeat' (first
    | with_reducible assumption
    | (simp +zetaHave (maxDischargeDepth := 60) only [State.canon_mk, State.canon_eta, apply_ite State.Canon, apply_ite Prod.fst, ite_self, implies_true,
        State.setTap_canon, State.tapReport_canon, hc]; done)
    | split
    | intro _
    | (dsimp +zetaHave only))

theorem State.sendDown_canon (s : State) (w : DownWord) (hc : s.Canon) : (State.sendDown s w).Canon := by
  unfold State.sendDown
  repeat' (first
    | with_reducible assumption
    | (simp +zetaHave (maxDischargeDepth := 60) only [State.canon_mk, State.canon_eta, apply_ite State.Canon, apply_ite Prod.fst, ite_self, implies_true,
        hc]; done)
    | split
    | intro _
    | (dsimp +zetaHave only))

theorem State.wordIn_canon (s : State) (n : Nat) (k : Nat) (hc : s.Canon) : (State.wordIn s n k).Canon := by
  unfold State.wordIn
  repeat' (first
    | with_reducible assumption
    | (simp +zetaHave (maxDischargeDepth := 60) only [State.canon_mk, State.canon_eta, apply_ite State.Canon, apply_ite Prod.fst, ite_self, implies_true,
        State.count_canon, State.setTap_canon, State.flagCrossing_canon, State.modTap_canon, hc]; done)
    | split
    | intro _
    | (dsimp +zetaHave only))

theorem State.arrive_canon (s : State) (n : Nat) (w : DownWord) (hc : s.Canon) : (State.arrive s n w).Canon := by
  unfold State.arrive
  repeat' (first
    | with_reducible assumption
    | (simp +zetaHave (maxDischargeDepth := 60) only [State.canon_mk, State.canon_eta, apply_ite State.Canon, apply_ite Prod.fst, ite_self, implies_true,
        State.emit_canon, State.relayAll_canon, State.takeArm_canon, State.takeCancel_canon, hc]; done)
    | split
    | intro _
    | (dsimp +zetaHave only))

theorem State.takeWord_canon (s : State) (n : Nat) (hc : s.Canon) : (State.takeWord s n).Canon := by
  unfold State.takeWord
  repeat' (first
    | with_reducible assumption
    | (simp +zetaHave (maxDischargeDepth := 60) only [State.canon_mk, State.canon_eta, apply_ite State.Canon, apply_ite Prod.fst, ite_self, implies_true,
        State.setTap_canon, State.wordIn_canon, State.arrive_canon, hc]; done)
    | split
    | intro _
    | (dsimp +zetaHave only))

theorem State.upTo_canon (s : State) (n : Nat) (p : DownWord → Bool) (fuel : Nat) (hc : s.Canon) : (s.upTo n p fuel).Canon := by
  induction fuel generalizing s with
  | zero => exact hc
  | succ k ih =>
    unfold State.upTo
    dsimp +zetaHave only
    have h := State.laneForce_canon s n hc
    split
    · exact h
    · split
      · exact h
      · exact ih _ (State.takeWord_canon _ _ h)

theorem State.ahead_canon (s : State) (n : Nat) (p : DownWord → Bool) (hc : s.Canon) : (State.ahead s n p).Canon := by
  unfold State.ahead
  repeat' (first
    | with_reducible assumption
    | (simp +zetaHave (maxDischargeDepth := 60) only [State.canon_mk, State.canon_eta, apply_ite State.Canon, apply_ite Prod.fst, ite_self, implies_true,
        State.upTo_canon, hc]; done)
    | split
    | intro _
    | (dsimp +zetaHave only))

theorem State.bring_canon (s : State) (n : Nat) (p : DownWord → Bool) (hc : s.Canon) : (State.bring s n p).Canon := by
  unfold State.bring
  repeat' (first
    | with_reducible assumption
    | (simp +zetaHave (maxDischargeDepth := 60) only [State.canon_mk, State.canon_eta, apply_ite State.Canon, apply_ite Prod.fst, ite_self, implies_true,
        State.takeWord_canon, State.ahead_canon, hc]; done)
    | split
    | intro _
    | (dsimp +zetaHave only))

theorem State.bringDown_canon (s : State) (n : Nat) (p : DownWord → Bool) (hc : s.Canon) : (State.bringDown s n p).Canon := by
  unfold State.bringDown
  repeat' (first
    | with_reducible assumption
    | (simp +zetaHave +contextual (maxDischargeDepth := 60) only [State.canon_mk, State.canon_eta, apply_ite State.Canon, apply_ite Prod.fst, ite_self, implies_true,
        State.each_canon, State.bring_canon, hc]; done)
    | split
    | intro _
    | (dsimp +zetaHave only)
    | refine State.each_canon _ _ _ ?_ (fun _ _ hc => ?_))

theorem State.capture_canon (s : State) (n : Nat) (r : Nat) (m : MarkWord) (hc : s.Canon) : (State.capture s n r m).Canon := by
  unfold State.capture
  repeat' (first
    | with_reducible assumption
    | (simp +zetaHave (maxDischargeDepth := 60) only [State.canon_mk, State.canon_eta, apply_ite State.Canon, apply_ite Prod.fst, ite_self, implies_true,
        State.setTap_canon, State.wordIn_canon, hc]; done)
    | split
    | intro _
    | (dsimp +zetaHave only))

theorem State.takeMark_canon (s : State) (n : Nat) (r : Nat) (hc : s.Canon) : (State.takeMark s n r).Canon := by
  unfold State.takeMark
  repeat' (first
    | with_reducible assumption
    | (simp +zetaHave (maxDischargeDepth := 60) only [State.canon_mk, State.canon_eta, apply_ite State.Canon, apply_ite Prod.fst, ite_self, implies_true,
        State.capture_canon, State.setTap_canon, State.wordIn_canon, hc]; done)
    | split
    | intro _
    | (dsimp +zetaHave only))

theorem State.markIn_canon (s : State) (n : Nat) (r : Nat) (step : Bool) (hc : s.Canon) : (State.markIn s n r step).Canon := by
  unfold State.markIn
  repeat' (first
    | with_reducible assumption
    | (simp +zetaHave (maxDischargeDepth := 60) only [State.canon_mk, State.canon_eta, apply_ite State.Canon, apply_ite Prod.fst, ite_self, implies_true,
        State.ahead_canon, State.takeMark_canon, hc]; done)
    | split
    | intro _
    | (dsimp +zetaHave only))

theorem State.startCal_canon (s : State) (hc : s.Canon) : (State.startCal s).Canon := by
  unfold State.startCal
  repeat' (first
    | with_reducible assumption
    | (simp +zetaHave +contextual (maxDischargeDepth := 60) only [State.canon_mk, State.canon_eta, apply_ite State.Canon, apply_ite Prod.fst, ite_self, implies_true,
        State.each_canon, State.busy_canon, State.setTap_canon, State.modTap_canon, hc]; done)
    | split
    | intro _
    | (dsimp +zetaHave only)
    | refine State.each_canon _ _ _ ?_ (fun _ _ hc => ?_))

theorem State.calOne_canon (s : State) (rs : List CalResult) (n : Nat) (hc : s.Canon) : (State.calOne s rs n).Canon := by
  unfold State.calOne
  repeat' (first
    | with_reducible assumption
    | (simp +zetaHave (maxDischargeDepth := 60) only [State.canon_mk, State.canon_eta, apply_ite State.Canon, apply_ite Prod.fst, ite_self, implies_true,
        State.raise_canon, State.modTap_canon, hc]; done)
    | split
    | intro _
    | (dsimp +zetaHave only))

theorem State.calDone_canon (s : State) (rs : List CalResult) (hc : s.Canon) : (State.calDone s rs).Canon := by
  unfold State.calDone
  repeat' (first
    | with_reducible assumption
    | (simp +zetaHave +contextual (maxDischargeDepth := 60) only [State.canon_mk, State.canon_eta, apply_ite State.Canon, apply_ite Prod.fst, ite_self, implies_true,
        State.each_canon, State.busy_canon, State.modTap_canon, State.calOne_canon, hc]; done)
    | split
    | intro _
    | (dsimp +zetaHave only)
    | refine State.each_canon _ _ _ ?_ (fun _ _ hc => ?_))

theorem State.recalOne_canon (s : State) (r : CalResult) (hc : s.Canon) : (State.recalOne s r).Canon := by
  unfold State.recalOne
  repeat' (first
    | with_reducible assumption
    | (simp +zetaHave +contextual (maxDischargeDepth := 60) only [State.canon_mk, State.canon_eta, apply_ite State.Canon, apply_ite Prod.fst, ite_self, implies_true,
        State.each_canon, State.raise_canon, State.setTap_canon, State.modTap_canon, State.endLaunches_canon, hc]; done)
    | split
    | intro _
    | (dsimp +zetaHave only)
    | refine State.each_canon _ _ _ ?_ (fun _ _ hc => ?_))

theorem State.chainOff_canon (s : State) (hc : s.Canon) : (State.chainOff s).Canon := by
  unfold State.chainOff
  repeat' (first
    | with_reducible assumption
    | (simp +zetaHave +contextual (maxDischargeDepth := 60) only [State.canon_mk, State.canon_eta, apply_ite State.Canon, apply_ite Prod.fst, ite_self, implies_true,
        State.each_canon, State.foldl_canon, State.foldl_fst_canon, State.busy_canon, State.setTap_canon,
        State.endLaunches_canon, State.modTap_canon, State.tapReport_canon, hc]; done)
    | split
    | intro _
    | (dsimp +zetaHave only)
    | refine State.each_canon _ _ _ ?_ (fun _ _ hc => ?_)
    | refine State.foldl_canon _ _ _ ?_ (fun _ _ hc => ?_)
    | refine State.foldl_fst_canon _ _ _ ?_ (fun _ _ hc => ?_))

theorem State.battenCtl_canon (s : State) (v : Nat) (hc : s.Canon) : (State.battenCtl s v).Canon := by
  unfold State.battenCtl
  repeat' (first
    | with_reducible assumption
    | (simp +zetaHave (maxDischargeDepth := 60) only [State.canon_mk, State.canon_eta, apply_ite State.Canon, apply_ite Prod.fst, ite_self, implies_true,
        State.wr_canon, State.startCal_canon, hc]; done)
    | split
    | intro _
    | (dsimp +zetaHave only))

theorem State.battenBoundary_canon (s : State) (hc : s.Canon) : (State.battenBoundary s).Canon := by
  unfold State.battenBoundary
  repeat' (first
    | with_reducible assumption
    | (simp +zetaHave (maxDischargeDepth := 60) only [State.canon_mk, State.canon_eta, apply_ite State.Canon, apply_ite Prod.fst, ite_self, implies_true,
        State.busy_canon, State.startCal_canon, State.chainOff_canon, hc]; done)
    | split
    | intro _
    | (dsimp +zetaHave only))

theorem State.headMark_canon (s : State) (code : Nat) (hc : s.Canon) : (State.headMark s code).Canon := by
  unfold State.headMark
  repeat' (first
    | with_reducible assumption
    | (simp +zetaHave +contextual (maxDischargeDepth := 60) only [State.canon_mk, State.canon_eta, apply_ite State.Canon, apply_ite Prod.fst, ite_self, implies_true,
        State.each_canon, State.modTap_canon, hc]; done)
    | split
    | intro _
    | (dsimp +zetaHave only)
    | refine State.each_canon _ _ _ ?_ (fun _ _ hc => ?_))

end Sys2Proof.Machine
end

