-- ==== Sys2Proof/Laws/CanonObjects.lean ====
section
/-! SUPPORT. Sys2Proof/Laws/CanonObjects.lean: every operation of Machine/Objects.lean keeps the tables of the state in canonical
form. -/

set_option linter.all false
set_option Elab.async false

namespace Sys2Proof.Machine
open Sys2Proof.Config
set_option linter.unusedSimpArgs false

theorem State.setSlot_canon (s : State) (k : Nat) (v : Slot) (hc : s.Canon) : (s.setSlot k v).Canon :=
  { hc with slots := Map.wf_set _ _ _ _ hc.slots }

theorem State.modCtx_canon (s : State) (x : Nat) (f : Ctx → Ctx) (hc : s.Canon) : (State.modCtx s x f).Canon := by
  unfold State.modCtx
  repeat' (first
    | with_reducible assumption
    | (simp +zetaHave (maxDischargeDepth := 60) only [State.canon_mk, State.canon_eta, apply_ite State.Canon, apply_ite Prod.fst, ite_self, implies_true,
        hc]; done)
    | split
    | intro _
    | (dsimp +zetaHave only))

theorem State.ended_canon (s : State) (h : Nat) (r : Nat) (hc : s.Canon) : (State.ended s h r).Canon := by
  unfold State.ended
  repeat' (first
    | with_reducible assumption
    | (simp +zetaHave (maxDischargeDepth := 60) only [State.canon_mk, State.canon_eta, apply_ite State.Canon, apply_ite Prod.fst, ite_self, implies_true,
        State.count_canon, State.raiseIf_canon, State.evt_canon, State.modCtx_canon, hc]; done)
    | split
    | intro _
    | (dsimp +zetaHave only))

theorem State.noteLast_canon (s : State) (k : Nat) (r : Nat) (hc : s.Canon) : (State.noteLast s k r).Canon := by
  unfold State.noteLast
  repeat' (first
    | with_reducible assumption
    | (simp +zetaHave (maxDischargeDepth := 60) only [State.canon_mk, State.canon_eta, apply_ite State.Canon, apply_ite Prod.fst, ite_self, implies_true,
        State.setSlot_canon, hc]; done)
    | split
    | intro _
    | (dsimp +zetaHave only))

theorem State.valueOf_canon (s : State) (v : Option Nat) (hc : s.Canon) : (State.valueOf s v).1.Canon := by
  unfold State.valueOf
  repeat' (first
    | with_reducible assumption
    | (simp +zetaHave (maxDischargeDepth := 60) only [State.canon_mk, State.canon_eta, apply_ite State.Canon, apply_ite Prod.fst, ite_self, implies_true,
        State.drawFree_canon, hc]; done)
    | split
    | intro _
    | (dsimp +zetaHave only))

theorem State.respond_canon (s : State) (r : EngReq) (res : Nat) (val : Nat) (hc : s.Canon) : (State.respond s r res val).Canon := by
  unfold State.respond
  repeat' (first
    | with_reducible assumption
    | (simp +zetaHave (maxDischargeDepth := 60) only [State.canon_mk, State.canon_eta, apply_ite State.Canon, apply_ite Prod.fst, ite_self, implies_true,
        State.emit_canon, hc]; done)
    | split
    | intro _
    | (dsimp +zetaHave only))

theorem State.endEngine_canon (s : State) (r : EngReq) (res : Nat) (hc : s.Canon) : (State.endEngine s r res).Canon := by
  unfold State.endEngine
  repeat' (first
    | with_reducible assumption
    | (simp +zetaHave (maxDischargeDepth := 60) only [State.canon_mk, State.canon_eta, apply_ite State.Canon, apply_ite Prod.fst, ite_self, implies_true,
        State.ended_canon, State.valueOf_canon, State.respond_canon, hc]; done)
    | split
    | intro _
    | (dsimp +zetaHave only))

theorem State.refresh_canon (s : State) (k : Nat) (hc : s.Canon) : (State.refresh s k).Canon := by
  unfold State.refresh
  repeat' (first
    | with_reducible assumption
    | (simp +zetaHave (maxDischargeDepth := 60) only [State.canon_mk, State.canon_eta, apply_ite State.Canon, apply_ite Prod.fst, ite_self, implies_true,
        State.setSlot_canon, hc]; done)
    | split
    | intro _
    | (dsimp +zetaHave only))

theorem State.endWaiter_canon (s : State) (w : Waiter) (res : Nat) (val : Nat) (hold : Bool) (hc : s.Canon) : (State.endWaiter s w res val hold).Canon := by
  unfold State.endWaiter
  repeat' (first
    | with_reducible assumption
    | (simp +zetaHave (maxDischargeDepth := 60) only [State.canon_mk, State.canon_eta, apply_ite State.Canon, apply_ite Prod.fst, ite_self, implies_true,
        State.emit_canon, State.ended_canon, State.noteLast_canon, hc]; done)
    | split
    | intro _
    | (dsimp +zetaHave only))

theorem State.failWaiter_canon (s : State) (w : Waiter) (res : Nat) (hold : Bool) (hc : s.Canon) : (State.failWaiter s w res hold).Canon := by
  unfold State.failWaiter
  repeat' (first
    | with_reducible assumption
    | (simp +zetaHave (maxDischargeDepth := 60) only [State.canon_mk, State.canon_eta, apply_ite State.Canon, apply_ite Prod.fst, ite_self, implies_true,
        State.valueOf_canon, State.endWaiter_canon, hc]; done)
    | split
    | intro _
    | (dsimp +zetaHave only))

theorem State.reeval_canon (s : State) (k : Nat) (hc : s.Canon) : (State.reeval s k).Canon := by
  unfold State.reeval
  repeat' (first
    | with_reducible assumption
    | (simp +zetaHave +contextual (maxDischargeDepth := 60) only [State.canon_mk, State.canon_eta, apply_ite State.Canon, apply_ite Prod.fst, ite_self, implies_true,
        State.foldl_canon, State.foldl_fst_canon, State.setSlot_canon, State.valueOf_canon, State.endWaiter_canon, hc]; done)
    | split
    | intro _
    | (dsimp +zetaHave only)
    | refine State.foldl_canon _ _ _ ?_ (fun _ _ hc => ?_)
    | refine State.foldl_fst_canon _ _ _ ?_ (fun _ _ hc => ?_))

theorem State.barrierAfter_canon (s : State) (h : Nat) (k : Nat) (hc : s.Canon) : (State.barrierAfter s h k).Canon := by
  unfold State.barrierAfter
  repeat' (first
    | with_reducible assumption
    | (simp +zetaHave +contextual (maxDischargeDepth := 60) only [State.canon_mk, State.canon_eta, apply_ite State.Canon, apply_ite Prod.fst, ite_self, implies_true,
        State.foldl_canon, State.foldl_fst_canon, State.contributeHeld_canon, hc]; done)
    | split
    | intro _
    | (dsimp +zetaHave only)
    | refine State.foldl_canon _ _ _ ?_ (fun _ _ hc => ?_)
    | refine State.foldl_fst_canon _ _ _ ?_ (fun _ _ hc => ?_))

theorem State.afterOp_canon (s : State) (op : Nat) (h : Nat) (k : Nat) (res : Nat) (hc : s.Canon) : (State.afterOp s op h k res).Canon := by
  unfold State.afterOp
  repeat' (first
    | with_reducible assumption
    | (simp +zetaHave (maxDischargeDepth := 60) only [State.canon_mk, State.canon_eta, apply_ite State.Canon, apply_ite Prod.fst, ite_self, implies_true,
        State.reeval_canon, State.barrierAfter_canon, hc]; done)
    | split
    | intro _
    | (dsimp +zetaHave only))

theorem State.opAt_canon (s : State) (op : Nat) (operand : Nat) (h : Nat) (k : Nat) (hc : s.Canon) : (State.opAt s op operand h k).1.Canon := by
  unfold State.opAt
  repeat' (first
    | with_reducible assumption
    | (simp +zetaHave (maxDischargeDepth := 60) only [State.canon_mk, State.canon_eta, apply_ite State.Canon, apply_ite Prod.fst, ite_self, implies_true,
        State.setSlot_canon, State.ended_canon, State.noteLast_canon, State.valueOf_canon, State.refresh_canon,
        State.afterOp_canon, hc]; done)
    | split
    | intro _
    | (dsimp +zetaHave only))

theorem State.engineAt_canon (s : State) (op : Nat) (r : EngReq) (course : Nat) (k : Nat) (hc : s.Canon) : (State.engineAt s op r course k).Canon := by
  unfold State.engineAt
  repeat' (first
    | with_reducible assumption
    | (simp +zetaHave (maxDischargeDepth := 60) only [State.canon_mk, State.canon_eta, apply_ite State.Canon, apply_ite Prod.fst, ite_self, implies_true,
        State.evt_canon, State.setSlot_canon, State.ended_canon, State.noteLast_canon, State.valueOf_canon,
        State.respond_canon, State.endEngine_canon, State.refresh_canon, State.afterOp_canon, hc]; done)
    | split
    | intro _
    | (dsimp +zetaHave only))

theorem State.issueTrans_canon (s : State) (h : Nat) (who : TransFor) (hc : s.Canon) : (State.issueTrans s h who).Canon := by
  unfold State.issueTrans
  repeat' (first
    | with_reducible assumption
    | (simp +zetaHave (maxDischargeDepth := 60) only [State.canon_mk, State.canon_eta, apply_ite State.Canon, apply_ite Prod.fst, ite_self, implies_true,
        State.count_canon, State.memRead_canon, hc]; done)
    | split
    | intro _
    | (dsimp +zetaHave only))

theorem State.localReq_canon (s : State) (op : Nat) (r : EngReq) (course : Nat) (hc : s.Canon) : (State.localReq s op r course).Canon := by
  unfold State.localReq
  repeat' (first
    | with_reducible assumption
    | (simp +zetaHave (maxDischargeDepth := 60) only [State.canon_mk, State.canon_eta, apply_ite State.Canon, apply_ite Prod.fst, ite_self, implies_true,
        State.endEngine_canon, State.engineAt_canon, State.issueTrans_canon, hc]; done)
    | split
    | intro _
    | (dsimp +zetaHave only))

theorem State.fencedReq_canon (s : State) (op : Nat) (r : EngReq) (course : Nat) (hc : s.Canon) : (State.fencedReq s op r course).Canon := by
  unfold State.fencedReq
  repeat' (first
    | with_reducible assumption
    | (simp +zetaHave (maxDischargeDepth := 60) only [State.canon_mk, State.canon_eta, apply_ite State.Canon, apply_ite Prod.fst, ite_self, implies_true,
        State.endEngine_canon, State.localReq_canon, hc]; done)
    | split
    | intro _
    | (dsimp +zetaHave only))

theorem State.sendObj_canon (s : State) (b : Body) (hc : s.Canon) : (State.sendObj s b).Canon := by
  unfold State.sendObj
  repeat' (first
    | with_reducible assumption
    | (simp +zetaHave (maxDischargeDepth := 60) only [State.canon_mk, State.canon_eta, apply_ite State.Canon, apply_ite Prod.fst, ite_self, implies_true,
        State.xsend_canon, hc]; done)
    | split
    | intro _
    | (dsimp +zetaHave only))

theorem State.remoteReq_canon (s : State) (op : Nat) (r : EngReq) (hc : s.Canon) : (State.remoteReq s op r).Canon := by
  unfold State.remoteReq
  repeat' (first
    | with_reducible assumption
    | (simp +zetaHave (maxDischargeDepth := 60) only [State.canon_mk, State.canon_eta, apply_ite State.Canon, apply_ite Prod.fst, ite_self, implies_true,
        State.endEngine_canon, State.sendObj_canon, hc]; done)
    | split
    | intro _
    | (dsimp +zetaHave only))

theorem State.engine_canon (s : State) (op : Nat) (r : EngReq) (hc : s.Canon) : (State.engine s op r).Canon := by
  unfold State.engine
  repeat' (first
    | with_reducible assumption
    | (simp +zetaHave (maxDischargeDepth := 60) only [State.canon_mk, State.canon_eta, apply_ite State.Canon, apply_ite Prod.fst, ite_self, implies_true,
        State.endEngine_canon, State.localReq_canon, State.fencedReq_canon, State.remoteReq_canon, hc]; done)
    | split
    | intro _
    | (dsimp +zetaHave only))

theorem State.drainTap_canon (s : State) (tap : Nat) (hc : s.Canon) : (State.drainTap s tap).Canon := by
  unfold State.drainTap
  repeat' (first
    | with_reducible assumption
    | (simp +zetaHave +contextual (maxDischargeDepth := 60) only [State.canon_mk, State.canon_eta, apply_ite State.Canon, apply_ite Prod.fst, ite_self, implies_true,
        State.foldl_canon, State.foldl_fst_canon, State.localReq_canon, hc]; done)
    | split
    | intro _
    | (dsimp +zetaHave only)
    | refine State.foldl_canon _ _ _ ?_ (fun _ _ hc => ?_)
    | refine State.foldl_fst_canon _ _ _ ?_ (fun _ _ hc => ?_))

theorem State.wack_canon (s : State) (tap : Nat) (tag : Nat) (hc : s.Canon) : (State.wack s tap tag).Canon := by
  unfold State.wack
  repeat' (first
    | with_reducible assumption
    | (simp +zetaHave (maxDischargeDepth := 60) only [State.canon_mk, State.canon_eta, apply_ite State.Canon, apply_ite Prod.fst, ite_self, implies_true,
        State.count_canon, State.localReq_canon, hc]; done)
    | split
    | intro _
    | (dsimp +zetaHave only))

theorem State.programOp_canon (s : State) (op : Nat) (operand : Nat) (h : Nat) (hc : s.Canon) : (State.programOp s op operand h).1.Canon := by
  unfold State.programOp
  repeat' (first
    | with_reducible assumption
    | (simp +zetaHave (maxDischargeDepth := 60) only [State.canon_mk, State.canon_eta, apply_ite State.Canon, apply_ite Prod.fst, ite_self, implies_true,
        State.ended_canon, State.valueOf_canon, State.opAt_canon, State.issueTrans_canon, hc]; done)
    | split
    | intro _
    | (dsimp +zetaHave only))

theorem State.commandTrans_canon (s : State) (h : Nat) (own : Bool) (hc : s.Canon) : (State.commandTrans s h own).1.Canon := by
  unfold State.commandTrans
  repeat' (first
    | with_reducible assumption
    | (simp +zetaHave (maxDischargeDepth := 60) only [State.canon_mk, State.canon_eta, apply_ite State.Canon, apply_ite Prod.fst, ite_self, implies_true,
        State.issueTrans_canon, hc]; done)
    | split
    | intro _
    | (dsimp +zetaHave only))

theorem State.doneSignal_canon (s : State) (h : Nat) (hc : s.Canon) : (State.doneSignal s h).Canon := by
  unfold State.doneSignal
  repeat' (first
    | with_reducible assumption
    | (simp +zetaHave (maxDischargeDepth := 60) only [State.canon_mk, State.canon_eta, apply_ite State.Canon, apply_ite Prod.fst, ite_self, implies_true,
        State.ended_canon, State.opAt_canon, State.issueTrans_canon, hc]; done)
    | split
    | intro _
    | (dsimp +zetaHave only))

theorem State.answer_canon (s : State) (src : Nat) (rtag : Nat) (res : Nat) (val : Option Nat) (hc : s.Canon) : (State.answer s src rtag res val).Canon := by
  unfold State.answer
  repeat' (first
    | with_reducible assumption
    | (simp +zetaHave (maxDischargeDepth := 60) only [State.canon_mk, State.canon_eta, apply_ite State.Canon, apply_ite Prod.fst, ite_self, implies_true,
        State.valueOf_canon, State.sendObj_canon, hc]; done)
    | split
    | intro _
    | (dsimp +zetaHave only))

theorem State.remoteAt_canon (s : State) (m : ObjReqMsg) (src : Nat) (k : Nat) (hc : s.Canon) : (State.remoteAt s m src k).Canon := by
  unfold State.remoteAt
  repeat' (first
    | with_reducible assumption
    | (simp +zetaHave (maxDischargeDepth := 60) only [State.canon_mk, State.canon_eta, apply_ite State.Canon, apply_ite Prod.fst, ite_self, implies_true,
        State.opAt_canon, State.answer_canon, hc]; done)
    | split
    | intro _
    | (dsimp +zetaHave only))

theorem State.remoteApply_canon (s : State) (m : ObjReqMsg) (src : Nat) (course : Nat) (hc : s.Canon) : (State.remoteApply s m src course).Canon := by
  unfold State.remoteApply
  repeat' (first
    | with_reducible assumption
    | (simp +zetaHave (maxDischargeDepth := 60) only [State.canon_mk, State.canon_eta, apply_ite State.Canon, apply_ite Prod.fst, ite_self, implies_true,
        State.ended_canon, State.issueTrans_canon, State.answer_canon, State.remoteAt_canon, hc]; done)
    | split
    | intro _
    | (dsimp +zetaHave only))

theorem State.transFor_canon (s : State) (key : Nat) (res : TransRes) (who : TransFor) (hc : s.Canon) : (State.transFor s key res who).Canon := by
  unfold State.transFor
  repeat' (first
    | with_reducible assumption
    | (simp +zetaHave (maxDischargeDepth := 60) only [State.canon_mk, State.canon_eta, apply_ite State.Canon, apply_ite Prod.fst, ite_self, implies_true,
        State.ended_canon, State.endEngine_canon, State.opAt_canon, State.engineAt_canon, State.engine_canon,
        State.drainTap_canon, State.answer_canon, State.remoteAt_canon, hc]; done)
    | split
    | intro _
    | (dsimp +zetaHave only))

theorem State.transDone_canon (s : State) (key : Nat) (entry : Nat) (bad : Bool) (hc : s.Canon) : (State.transDone s key entry bad).Canon := by
  unfold State.transDone
  repeat' (first
    | with_reducible assumption
    | (simp +zetaHave (maxDischargeDepth := 60) only [State.canon_mk, State.canon_eta, apply_ite State.Canon, apply_ite Prod.fst, ite_self, implies_true,
        State.transFor_canon, hc]; done)
    | split
    | intro _
    | (dsimp +zetaHave only))

theorem State.endCtx_canon (s : State) (x : Nat) (res : Nat) (hc : s.Canon) : (State.endCtx s x res).Canon := by
  unfold State.endCtx
  repeat' (first
    | with_reducible assumption
    | (simp +zetaHave +contextual (maxDischargeDepth := 60) only [State.canon_mk, State.canon_eta, apply_ite State.Canon, apply_ite Prod.fst, ite_self, implies_true,
        State.foldl_canon, State.foldl_fst_canon, State.endEngine_canon, State.failWaiter_canon, hc]; done)
    | split
    | intro _
    | (dsimp +zetaHave only)
    | refine State.foldl_canon _ _ _ ?_ (fun _ _ hc => ?_)
    | refine State.foldl_fst_canon _ _ _ ?_ (fun _ _ hc => ?_))

theorem State.clearCtx_canon (s : State) (x : Nat) (hc : s.Canon) : (State.clearCtx s x).Canon := by
  unfold State.clearCtx
  repeat' (first
    | with_reducible assumption
    | (simp +zetaHave (maxDischargeDepth := 60) only [State.canon_mk, State.canon_eta, apply_ite State.Canon, apply_ite Prod.fst, ite_self, implies_true,
        State.modCtx_canon, State.endCtx_canon, hc]; done)
    | split
    | intro _
    | (dsimp +zetaHave only))

theorem State.releaseCtx_canon (s : State) (x : Nat) (hc : s.Canon) : (State.releaseCtx s x).Canon := by
  unfold State.releaseCtx
  repeat' (first
    | with_reducible assumption
    | (simp +zetaHave (maxDischargeDepth := 60) only [State.canon_mk, State.canon_eta, apply_ite State.Canon, apply_ite Prod.fst, ite_self, implies_true,
        State.modCtx_canon, State.endCtx_canon, hc]; done)
    | split
    | intro _
    | (dsimp +zetaHave only))

theorem State.defineCtx_canon (s : State) (x : Nat) (ovf : Bool) (segs : List (Nat × Nat)) (hc : s.Canon) : (State.defineCtx s x ovf segs).Canon := by
  unfold State.defineCtx
  repeat' (first
    | with_reducible assumption
    | (simp +zetaHave (maxDischargeDepth := 60) only [State.canon_mk, State.canon_eta, apply_ite State.Canon, apply_ite Prod.fst, ite_self, implies_true,
        State.modCtx_canon, hc]; done)
    | split
    | intro _
    | (dsimp +zetaHave only))

theorem State.initSlot_canon (s : State) (x : Nat) (k : Nat) (kind : Nat) (e : Nat) (hc : s.Canon) : (State.initSlot s x k kind e).Canon := by
  unfold State.initSlot
  repeat' (first
    | with_reducible assumption
    | (simp +zetaHave (maxDischargeDepth := 60) only [State.canon_mk, State.canon_eta, apply_ite State.Canon, apply_ite Prod.fst, ite_self, implies_true,
        State.setSlot_canon, hc]; done)
    | split
    | intro _
    | (dsimp +zetaHave only))

theorem State.scrub_canon (s : State) (hc : s.Canon) : (State.scrub s).Canon := by
  unfold State.scrub
  repeat' (first
    | with_reducible assumption
    | (simp +zetaHave +contextual (maxDischargeDepth := 60) only [State.canon_mk, State.canon_eta, apply_ite State.Canon, apply_ite Prod.fst, ite_self, implies_true,
        State.foldl_canon, State.foldl_fst_canon, State.modCtx_canon, State.refresh_canon, hc]; done)
    | split
    | intro _
    | (dsimp +zetaHave only)
    | refine State.foldl_canon _ _ _ ?_ (fun _ _ hc => ?_)
    | refine State.foldl_fst_canon _ _ _ ?_ (fun _ _ hc => ?_))

theorem State.heldDeadlines_canon (s : State) (n : Nat) (hc : s.Canon) : (State.heldDeadlines s n).Canon := by
  unfold State.heldDeadlines
  repeat' (first
    | with_reducible assumption
    | (simp +zetaHave +contextual (maxDischargeDepth := 60) only [State.canon_mk, State.canon_eta, apply_ite State.Canon, apply_ite Prod.fst, ite_self, implies_true,
        State.foldl_canon, State.foldl_fst_canon, State.endEngine_canon, State.engine_canon, State.drainTap_canon, hc]; done)
    | split
    | intro _
    | (dsimp +zetaHave only)
    | refine State.foldl_canon _ _ _ ?_ (fun _ _ hc => ?_)
    | refine State.foldl_fst_canon _ _ _ ?_ (fun _ _ hc => ?_))

theorem State.objDeadlines_canon (s : State) (n : Nat) (hc : s.Canon) : (State.objDeadlines s n).Canon := by
  unfold State.objDeadlines
  repeat' (first
    | with_reducible assumption
    | (simp +zetaHave +contextual (maxDischargeDepth := 60) only [State.canon_mk, State.canon_eta, apply_ite State.Canon, apply_ite Prod.fst, ite_self, implies_true,
        State.foldl_canon, State.foldl_fst_canon, State.failWaiter_canon, State.heldDeadlines_canon, hc]; done)
    | split
    | intro _
    | (dsimp +zetaHave only)
    | refine State.foldl_canon _ _ _ ?_ (fun _ _ hc => ?_)
    | refine State.foldl_fst_canon _ _ _ ?_ (fun _ _ hc => ?_))

theorem State.fenceTimeouts_canon (s : State) (t : Nat) (hc : s.Canon) : (State.fenceTimeouts s t).Canon := by
  unfold State.fenceTimeouts
  repeat' (first
    | with_reducible assumption
    | (simp +zetaHave +contextual (maxDischargeDepth := 60) only [State.canon_mk, State.canon_eta, apply_ite State.Canon, apply_ite Prod.fst, ite_self, implies_true,
        State.foldl_canon, State.foldl_fst_canon, State.endEngine_canon, hc]; done)
    | split
    | intro _
    | (dsimp +zetaHave only)
    | refine State.foldl_canon _ _ _ ?_ (fun _ _ hc => ?_)
    | refine State.foldl_fst_canon _ _ _ ?_ (fun _ _ hc => ?_))

theorem State.remoteTimeouts_canon (s : State) (t : Nat) (hc : s.Canon) : (State.remoteTimeouts s t).Canon := by
  unfold State.remoteTimeouts
  repeat' (first
    | with_reducible assumption
    | (simp +zetaHave +contextual (maxDischargeDepth := 60) only [State.canon_mk, State.canon_eta, apply_ite State.Canon, apply_ite Prod.fst, ite_self, implies_true,
        State.foldl_canon, State.foldl_fst_canon, State.endEngine_canon, hc]; done)
    | split
    | intro _
    | (dsimp +zetaHave only)
    | refine State.foldl_canon _ _ _ ?_ (fun _ _ hc => ?_)
    | refine State.foldl_fst_canon _ _ _ ?_ (fun _ _ hc => ?_))

theorem State.deadlock_canon (s : State) (t : Nat) (nc : Nat) (hc : s.Canon) : (State.deadlock s t nc).Canon := by
  unfold State.deadlock
  repeat' (first
    | with_reducible assumption
    | (simp +zetaHave +contextual (maxDischargeDepth := 60) only [State.canon_mk, State.canon_eta, apply_ite State.Canon, apply_ite Prod.fst, ite_self, implies_true,
        State.each_canon, State.raise_canon, State.modCtx_canon, hc]; done)
    | split
    | intro _
    | (dsimp +zetaHave only)
    | refine State.each_canon _ _ _ ?_ (fun _ _ hc => ?_))

theorem State.lendOut_canon (s : State) (t : Nat) (nc : Nat) (hc : s.Canon) : (State.lendOut s t nc).Canon := by
  unfold State.lendOut
  repeat' (first
    | with_reducible assumption
    | (simp +zetaHave +contextual (maxDischargeDepth := 60) only [State.canon_mk, State.canon_eta, apply_ite State.Canon, apply_ite Prod.fst, ite_self, implies_true,
        State.foldl_canon, State.foldl_fst_canon, State.count_canon, State.emit_canon, State.evt_canon, hc]; done)
    | split
    | intro _
    | (dsimp +zetaHave only)
    | refine State.foldl_canon _ _ _ ?_ (fun _ _ hc => ?_)
    | refine State.foldl_fst_canon _ _ _ ?_ (fun _ _ hc => ?_))

theorem State.lendReturns_canon (s : State) (nc : Nat) (hc : s.Canon) : (State.lendReturns s nc).Canon := by
  unfold State.lendReturns
  repeat' (first
    | with_reducible assumption
    | (simp +zetaHave +contextual (maxDischargeDepth := 60) only [State.canon_mk, State.canon_eta, apply_ite State.Canon, apply_ite Prod.fst, ite_self, implies_true,
        State.foldl_canon, State.foldl_fst_canon, State.emit_canon, hc]; done)
    | split
    | intro _
    | (dsimp +zetaHave only)
    | refine State.foldl_canon _ _ _ ?_ (fun _ _ hc => ?_)
    | refine State.foldl_fst_canon _ _ _ ?_ (fun _ _ hc => ?_))

theorem State.retAck_canon (s : State) (id : Nat) (hc : s.Canon) : (State.retAck s id).Canon := by
  unfold State.retAck
  repeat' (first
    | with_reducible assumption
    | (simp +zetaHave (maxDischargeDepth := 60) only [State.canon_mk, State.canon_eta, apply_ite State.Canon, apply_ite Prod.fst, ite_self, implies_true,
        State.emit_canon, hc]; done)
    | split
    | intro _
    | (dsimp +zetaHave only))

theorem State.objBoundary_canon (s : State) (n : Nat) (nc : Nat) (t : Nat) (hc : s.Canon) : (State.objBoundary s n nc t).Canon := by
  unfold State.objBoundary
  repeat' (first
    | with_reducible assumption
    | (simp +zetaHave +contextual (maxDischargeDepth := 60) only [State.canon_mk, State.canon_eta, apply_ite State.Canon, apply_ite Prod.fst, ite_self, implies_true,
        State.each_canon, State.modCtx_canon, State.scrub_canon, State.objDeadlines_canon, State.fenceTimeouts_canon,
        State.remoteTimeouts_canon, State.deadlock_canon, State.lendOut_canon, State.lendReturns_canon, hc]; done)
    | split
    | intro _
    | (dsimp +zetaHave only)
    | refine State.each_canon _ _ _ ?_ (fun _ _ hc => ?_))

theorem State.objStop_canon (s : State) (hc : s.Canon) : (State.objStop s).Canon := by
  unfold State.objStop
  repeat' (first
    | with_reducible assumption
    | (simp +zetaHave +contextual (maxDischargeDepth := 60) only [State.canon_mk, State.canon_eta, apply_ite State.Canon, apply_ite Prod.fst, ite_self, implies_true,
        State.foldl_canon, State.foldl_fst_canon, State.emit_canon, State.endEngine_canon, State.failWaiter_canon,
        State.engine_canon, hc]; done)
    | split
    | intro _
    | (dsimp +zetaHave only)
    | refine State.foldl_canon _ _ _ ?_ (fun _ _ hc => ?_)
    | refine State.foldl_fst_canon _ _ _ ?_ (fun _ _ hc => ?_))

theorem State.objReset_canon (s : State) (hc : s.Canon) : s.objReset.Canon :=
  { hc with slots := rfl }

theorem State.loseWord_canon (s : State) (n : Nat) (p : DownWord → Bool) (hc : s.Canon) : (State.loseWord s n p).Canon := by
  unfold State.loseWord
  repeat' (first
    | with_reducible assumption
    | (simp +zetaHave (maxDischargeDepth := 60) only [State.canon_mk, State.canon_eta, apply_ite State.Canon, apply_ite Prod.fst, ite_self, implies_true,
        State.modTap_canon, State.ahead_canon, hc]; done)
    | split
    | intro _
    | (dsimp +zetaHave only))

theorem State.dropWord_canon (s : State) (n : Nat) (k : LostWord) (hc : s.Canon) : (State.dropWord s n k).Canon := by
  unfold State.dropWord
  repeat' (first
    | with_reducible assumption
    | (simp +zetaHave (maxDischargeDepth := 60) only [State.canon_mk, State.canon_eta, apply_ite State.Canon, apply_ite Prod.fst, ite_self, implies_true,
        State.modTap_canon, State.count_canon, State.emit_canon, State.arrive_canon, State.valueOf_canon,
        State.endEngine_canon, State.loseWord_canon, hc]; done)
    | split
    | intro _
    | (dsimp +zetaHave only))

theorem State.windowRead_canon (s : State) (m : Master) (k : Nat) (sub : Nat) (wide : Bool) (hc : s.Canon) : (State.windowRead s m k sub wide).1.Canon := by
  unfold State.windowRead
  repeat' (first
    | with_reducible assumption
    | (simp +zetaHave (maxDischargeDepth := 60) only [State.canon_mk, State.canon_eta, apply_ite State.Canon, apply_ite Prod.fst, ite_self, implies_true,
        hc]; done)
    | split
    | intro _
    | (dsimp +zetaHave only))

theorem State.tapRequest_canon (s : State) (op : Nat) (r : EngReq) (hc : s.Canon) : (State.tapRequest s op r).Canon := by
  unfold State.tapRequest
  repeat' (first
    | with_reducible assumption
    | (simp +zetaHave (maxDischargeDepth := 60) only [State.canon_mk, State.canon_eta, apply_ite State.Canon, apply_ite Prod.fst, ite_self, implies_true,
        State.openGate_canon, State.busy_canon, State.wake_canon, State.engine_canon, hc]; done)
    | split
    | intro _
    | (dsimp +zetaHave only))

theorem State.objForward_canon (s : State) (dst : Nat) (b : Body) (hc : s.Canon) : (State.objForward s dst b).Canon := by
  unfold State.objForward
  repeat' (first
    | with_reducible assumption
    | (simp +zetaHave (maxDischargeDepth := 60) only [State.canon_mk, State.canon_eta, apply_ite State.Canon, apply_ite Prod.fst, ite_self, implies_true,
        State.count_canon, State.xsend_canon, hc]; done)
    | split
    | intro _
    | (dsimp +zetaHave only))

end Sys2Proof.Machine
end

