-- ==== Sys2Proof/Laws/CanonHealth.lean ====
section
/-! SUPPORT. Sys2Proof/Laws/CanonHealth.lean: every operation of Machine/Health.lean keeps the tables of the state in canonical
form. -/

set_option linter.all false
set_option Elab.async false

namespace Sys2Proof.Machine
open Sys2Proof.Config
set_option linter.unusedSimpArgs false

theorem State.setHealth_canon (s : State) (p : Nat) (h : Health) (reason : Nat) (nc : Nat) (hc : s.Canon) : (State.setHealth s p h reason nc).Canon := by
  unfold State.setHealth
  repeat' (first
    | with_reducible assumption
    | (simp +zetaHave (maxDischargeDepth := 60) only [State.canon_mk, State.canon_eta, apply_ite State.Canon, apply_ite Prod.fst, ite_self, implies_true,
        State.modPort_canon, hc]; done)
    | split
    | intro _
    | (dsimp +zetaHave only))

theorem State.retire_canon (s : State) (p : Nat) (reason : Nat) (nc : Nat) (hc : s.Canon) : (State.retire s p reason nc).Canon := by
  unfold State.retire
  repeat' (first
    | with_reducible assumption
    | (simp +zetaHave (maxDischargeDepth := 60) only [State.canon_mk, State.canon_eta, apply_ite State.Canon, apply_ite Prod.fst, ite_self, implies_true,
        State.count_canon, State.raise_canon, State.evt_canon, State.modPort_canon, State.flushPort_canon,
        State.dropExch_canon, State.withdrawClock_canon, State.pathFault_canon, State.setHealth_canon, hc]; done)
    | split
    | intro _
    | (dsimp +zetaHave only))

theorem State.makeLive_canon (s : State) (p : Nat) (nc : Nat) (hc : s.Canon) : (State.makeLive s p nc).Canon := by
  unfold State.makeLive
  repeat' (first
    | with_reducible assumption
    | (simp +zetaHave (maxDischargeDepth := 60) only [State.canon_mk, State.canon_eta, apply_ite State.Canon, apply_ite Prod.fst, ite_self, implies_true,
        State.count_canon, State.sendHeldLogs_canon, State.resendMoves_canon, State.setHealth_canon, hc]; done)
    | split
    | intro _
    | (dsimp +zetaHave only))

theorem State.probation_canon (s : State) (p : Nat) (reason : Nat) (nc : Nat) (hc : s.Canon) : (State.probation s p reason nc).Canon := by
  unfold State.probation
  repeat' (first
    | with_reducible assumption
    | (simp +zetaHave (maxDischargeDepth := 60) only [State.canon_mk, State.canon_eta, apply_ite State.Canon, apply_ite Prod.fst, ite_self, implies_true,
        State.count_canon, State.raise_canon, State.setHealth_canon, hc]; done)
    | split
    | intro _
    | (dsimp +zetaHave only))

theorem State.startAdmission_canon (s : State) (p : Nat) (hc : s.Canon) : (State.startAdmission s p).Canon := by
  unfold State.startAdmission
  repeat' (first
    | with_reducible assumption
    | (simp +zetaHave (maxDischargeDepth := 60) only [State.canon_mk, State.canon_eta, apply_ite State.Canon, apply_ite Prod.fst, ite_self, implies_true,
        State.modPort_canon, State.flushPort_canon, State.dropExch_canon, State.restartLink_canon,
        State.setHealth_canon, hc]; done)
    | split
    | intro _
    | (dsimp +zetaHave only))

theorem State.judge_canon (s : State) (p : Nat) (reason : Nat) (nc : Nat) (hc : s.Canon) : (State.judge s p reason nc).Canon := by
  unfold State.judge
  repeat' (first
    | with_reducible assumption
    | (simp +zetaHave (maxDischargeDepth := 60) only [State.canon_mk, State.canon_eta, apply_ite State.Canon, apply_ite Prod.fst, ite_self, implies_true,
        Rx.drop_canon, State.retire_canon, State.probation_canon, hc]; done)
    | split
    | intro _
    | (dsimp +zetaHave only))

theorem State.decay_canon (s : State) (nc : Nat) (hc : s.Canon) : (State.decay s nc).Canon := by
  unfold State.decay
  repeat' (first
    | with_reducible assumption
    | (simp +zetaHave +contextual (maxDischargeDepth := 60) only [State.canon_mk, State.canon_eta, apply_ite State.Canon, apply_ite Prod.fst, ite_self, implies_true,
        State.each_canon, State.modPort_canon, State.openGate_canon, hc]; done)
    | split
    | intro _
    | (dsimp +zetaHave only)
    | refine State.each_canon _ _ _ ?_ (fun _ _ hc => ?_))

theorem State.expireRecords_canon (s : State) (nc : Nat) (hc : s.Canon) : (State.expireRecords s nc).Canon := by
  unfold State.expireRecords
  repeat' (first
    | with_reducible assumption
    | (simp +zetaHave (maxDischargeDepth := 60) only [State.canon_mk, State.canon_eta, apply_ite State.Canon, apply_ite Prod.fst, ite_self, implies_true,
        hc]; done)
    | split
    | intro _
    | (dsimp +zetaHave only))

theorem State.healthCommands_canon (s : State) (nc : Nat) (hc : s.Canon) : (State.healthCommands s nc).Canon := by
  unfold State.healthCommands
  repeat' (first
    | with_reducible assumption
    | (simp +zetaHave +contextual (maxDischargeDepth := 60) only [State.canon_mk, State.canon_eta, apply_ite State.Canon, apply_ite Prod.fst, ite_self, implies_true,
        State.each_canon, State.modPort_canon, State.retire_canon, State.makeLive_canon, State.probation_canon, hc]; done)
    | split
    | intro _
    | (dsimp +zetaHave only)
    | refine State.each_canon _ _ _ ?_ (fun _ _ hc => ?_))

theorem State.admission_canon (s : State) (p : Nat) (t : Nat) (nc : Nat) (hc : s.Canon) : (State.admission s p t nc).Canon := by
  unfold State.admission
  repeat' (first
    | with_reducible assumption
    | (simp +zetaHave (maxDischargeDepth := 60) only [State.canon_mk, State.canon_eta, apply_ite State.Canon, apply_ite Prod.fst, ite_self, implies_true,
        State.modPort_canon, State.makeLive_canon, hc]; done)
    | split
    | intro _
    | (dsimp +zetaHave only))

theorem State.retireLost_canon (s : State) (nc : Nat) (hc : s.Canon) : (State.retireLost s nc).Canon := by
  unfold State.retireLost
  repeat' (first
    | with_reducible assumption
    | (simp +zetaHave +contextual (maxDischargeDepth := 60) only [State.canon_mk, State.canon_eta, apply_ite State.Canon, apply_ite Prod.fst, ite_self, implies_true,
        State.each_canon, State.retire_canon, hc]; done)
    | split
    | intro _
    | (dsimp +zetaHave only)
    | refine State.each_canon _ _ _ ?_ (fun _ _ hc => ?_))

theorem State.judgeAll_canon (s : State) (nc : Nat) (hc : s.Canon) : (State.judgeAll s nc).Canon := by
  unfold State.judgeAll
  repeat' (first
    | with_reducible assumption
    | (simp +zetaHave +contextual (maxDischargeDepth := 60) only [State.canon_mk, State.canon_eta, apply_ite State.Canon, apply_ite Prod.fst, ite_self, implies_true,
        State.each_canon, State.judge_canon, hc]; done)
    | split
    | intro _
    | (dsimp +zetaHave only)
    | refine State.each_canon _ _ _ ?_ (fun _ _ hc => ?_))

theorem State.probationExit_canon (s : State) (p : Nat) (nc : Nat) (hc : s.Canon) : (State.probationExit s p nc).Canon := by
  unfold State.probationExit
  repeat' (first
    | with_reducible assumption
    | (simp +zetaHave (maxDischargeDepth := 60) only [State.canon_mk, State.canon_eta, apply_ite State.Canon, apply_ite Prod.fst, ite_self, implies_true,
        State.makeLive_canon, State.probation_canon, State.judge_canon, hc]; done)
    | split
    | intro _
    | (dsimp +zetaHave only))

theorem State.healthBoundary_canon (s : State) (nc : Nat) (t : Nat) (hc : s.Canon) : (State.healthBoundary s nc t).Canon := by
  unfold State.healthBoundary
  repeat' (first
    | with_reducible assumption
    | (simp +zetaHave +contextual (maxDischargeDepth := 60) only [State.canon_mk, State.canon_eta, apply_ite State.Canon, apply_ite Prod.fst, ite_self, implies_true,
        State.each_canon, State.modPort_canon, State.probation_canon, State.decay_canon, State.expireRecords_canon,
        State.healthCommands_canon, State.admission_canon, State.retireLost_canon, State.judgeAll_canon,
        State.probationExit_canon, hc]; done)
    | split
    | intro _
    | (dsimp +zetaHave only)
    | refine State.each_canon _ _ _ ?_ (fun _ _ hc => ?_))

theorem State.keepaliveLost_canon (s : State) (p : Nat) (hc : s.Canon) : (State.keepaliveLost s p).Canon := by
  unfold State.keepaliveLost
  repeat' (first
    | with_reducible assumption
    | (simp +zetaHave (maxDischargeDepth := 60) only [State.canon_mk, State.canon_eta, apply_ite State.Canon, apply_ite Prod.fst, ite_self, implies_true,
        State.count_canon, State.evt_canon, State.setPort_canon, State.pathFault_canon, hc]; done)
    | split
    | intro _
    | (dsimp +zetaHave only))

theorem State.cmdPortRetire_canon (s : State) (p : Nat) (force : Bool) (t : State) (h : s.cmdPortRetire p force = some t)
    (hc : s.Canon) : t.Canon := by
  unfold State.cmdPortRetire at h
  dsimp +zetaHave only at h
  repeat' split at h
  · cases h
  · cases h
  · exact Option.some.inj h ▸ State.modPort_canon _ _ _ hc

theorem State.cmdPortRestore_canon (s : State) (p : Nat) (t : State) (h : s.cmdPortRestore p = some t) (hc : s.Canon) :
    t.Canon := by
  unfold State.cmdPortRestore at h
  split at h
  · exact Option.some.inj h ▸ State.modPort_canon _ _ _ hc
  · exact Option.some.inj h ▸ State.startAdmission_canon _ _ hc
  · cases h

theorem State.cmdPortSpare_canon (s : State) (p id : Nat) (t : State) (h : s.cmdPortSpare p id = some t) (hc : s.Canon) :
    t.Canon := by
  unfold State.cmdPortSpare at h
  split at h
  · exact Option.some.inj h ▸ State.startAdmission_canon _ _ (State.modPort_canon _ _ _ hc)
  · cases h

theorem State.kick_canon (s : State) (m : Master) (v : Nat) (hc : s.Canon) : (State.kick s m v).Canon := by
  unfold State.kick
  repeat' (first
    | with_reducible assumption
    | (simp +zetaHave (maxDischargeDepth := 60) only [State.canon_mk, State.canon_eta, apply_ite State.Canon, apply_ite Prod.fst, ite_self, implies_true,
        hc]; done)
    | split
    | intro _
    | (dsimp +zetaHave only))

theorem State.wdogExpire_canon (s : State) (hc : s.Canon) : (State.wdogExpire s).Canon := by
  unfold State.wdogExpire
  repeat' (first
    | with_reducible assumption
    | (simp +zetaHave (maxDischargeDepth := 60) only [State.canon_mk, State.canon_eta, apply_ite State.Canon, apply_ite Prod.fst, ite_self, implies_true,
        State.count_canon, State.underlayCause_canon, hc]; done)
    | split
    | intro _
    | (dsimp +zetaHave only))

theorem State.wdogBoundary_canon (s : State) (hc : s.Canon) : (State.wdogBoundary s).Canon := by
  unfold State.wdogBoundary
  repeat' (first
    | with_reducible assumption
    | (simp +zetaHave (maxDischargeDepth := 60) only [State.canon_mk, State.canon_eta, apply_ite State.Canon, apply_ite Prod.fst, ite_self, implies_true,
        State.wdogExpire_canon, hc]; done)
    | split
    | intro _
    | (dsimp +zetaHave only))

theorem State.ulControl_canon (s : State) (v : Nat) (hc : s.Canon) : (State.ulControl s v).Canon := by
  unfold State.ulControl
  repeat' (first
    | with_reducible assumption
    | (simp +zetaHave (maxDischargeDepth := 60) only [State.canon_mk, State.canon_eta, apply_ite State.Canon, apply_ite Prod.fst, ite_self, implies_true,
        State.underlayCause_canon, hc]; done)
    | split
    | intro _
    | (dsimp +zetaHave only))

end Sys2Proof.Machine
end

