-- ==== Sys2Proof/Laws/CanonRefs.lean ====
section
/-! SUPPORT. Sys2Proof/Laws/CanonRefs.lean: every operation of Machine/Refs.lean keeps the tables of the state in canonical
form. -/

set_option linter.all false
set_option Elab.async false

namespace Sys2Proof.Machine
open Sys2Proof.Config
set_option linter.unusedSimpArgs false

theorem State.candJump_canon (s : State) (n : Nat) (hc : s.Canon) : (State.candJump s n).Canon := by
  unfold State.candJump
  repeat' (first
    | with_reducible assumption
    | (simp +zetaHave (maxDischargeDepth := 60) only [State.canon_mk, State.canon_eta, apply_ite State.Canon, apply_ite Prod.fst, ite_self, implies_true,
        State.count_canon, State.setCand_canon, hc]; done)
    | split
    | intro _
    | (dsimp +zetaHave only))

theorem State.portClock_canon (s : State) (p : Nat) (fifths : Int) (hc : s.Canon) : (State.portClock s p fifths).Canon := by
  unfold State.portClock
  repeat' (first
    | with_reducible assumption
    | (simp +zetaHave (maxDischargeDepth := 60) only [State.canon_mk, State.canon_eta, apply_ite State.Canon, apply_ite Prod.fst, ite_self, implies_true,
        State.modPort_canon, hc]; done)
    | split
    | intro _
    | (dsimp +zetaHave only))

theorem State.portTiming_canon (s : State) (hc : s.Canon) : (State.portTiming s).Canon := by
  unfold State.portTiming
  repeat' (first
    | with_reducible assumption
    | (simp +zetaHave +contextual (maxDischargeDepth := 60) only [State.canon_mk, State.canon_eta, apply_ite State.Canon, apply_ite Prod.fst, ite_self, implies_true,
        State.each_canon, State.foldl_canon, State.foldl_fst_canon, State.modPort_canon, State.portClock_canon, hc]; done)
    | split
    | intro _
    | (dsimp +zetaHave only)
    | refine State.each_canon _ _ _ ?_ (fun _ _ hc => ?_)
    | refine State.foldl_canon _ _ _ ?_ (fun _ _ hc => ?_)
    | refine State.foldl_fst_canon _ _ _ ?_ (fun _ _ hc => ?_))

theorem State.candEdge_canon (s : State) (n : Nat) (fifths : Int) (edges : Nat) (hc : s.Canon) : (State.candEdge s n fifths edges).Canon := by
  unfold State.candEdge
  repeat' (first
    | with_reducible assumption
    | (simp +zetaHave (maxDischargeDepth := 60) only [State.canon_mk, State.canon_eta, apply_ite State.Canon, apply_ite Prod.fst, ite_self, implies_true,
        State.modPort_canon, State.setCand_canon, State.candJump_canon, hc]; done)
    | split
    | intro _
    | (dsimp +zetaHave only))

theorem State.candNoEdge_canon (s : State) (n : Nat) (hc : s.Canon) : (State.candNoEdge s n).Canon := by
  unfold State.candNoEdge
  repeat' (first
    | with_reducible assumption
    | (simp +zetaHave (maxDischargeDepth := 60) only [State.canon_mk, State.canon_eta, apply_ite State.Canon, apply_ite Prod.fst, ite_self, implies_true,
        State.setCand_canon, hc]; done)
    | split
    | intro _
    | (dsimp +zetaHave only))

theorem State.candTiming_canon (s : State) (refs : List RefEdge) (hc : s.Canon) : (State.candTiming s refs).Canon := by
  unfold State.candTiming
  repeat' (first
    | with_reducible assumption
    | (simp +zetaHave +contextual (maxDischargeDepth := 60) only [State.canon_mk, State.canon_eta, apply_ite State.Canon, apply_ite Prod.fst, ite_self, implies_true,
        State.each_canon, State.count_canon, State.candEdge_canon, State.candNoEdge_canon, hc]; done)
    | split
    | intro _
    | (dsimp +zetaHave only)
    | refine State.each_canon _ _ _ ?_ (fun _ _ hc => ?_))

theorem State.candGo_canon (s : State) (n : Nat) (st : CandState) (t : Nat) (hc : s.Canon) : (State.candGo s n st t).Canon := by
  unfold State.candGo
  repeat' (first
    | with_reducible assumption
    | (simp +zetaHave (maxDischargeDepth := 60) only [State.canon_mk, State.canon_eta, apply_ite State.Canon, apply_ite Prod.fst, ite_self, implies_true,
        State.count_canon, State.setCand_canon, hc]; done)
    | split
    | intro _
    | (dsimp +zetaHave only))

theorem State.candTimer_canon (s : State) (n : Nat) (t : Nat) (hc : s.Canon) : (State.candTimer s n t).Canon := by
  unfold State.candTimer
  repeat' (first
    | with_reducible assumption
    | (simp +zetaHave (maxDischargeDepth := 60) only [State.canon_mk, State.canon_eta, apply_ite State.Canon, apply_ite Prod.fst, ite_self, implies_true,
        State.candGo_canon, hc]; done)
    | split
    | intro _
    | (dsimp +zetaHave only))

theorem State.candTests_canon (s : State) (n : Nat) (t : Nat) (hc : s.Canon) : (State.candTests s n t).Canon := by
  unfold State.candTests
  repeat' (first
    | with_reducible assumption
    | (simp +zetaHave (maxDischargeDepth := 60) only [State.canon_mk, State.canon_eta, apply_ite State.Canon, apply_ite Prod.fst, ite_self, implies_true,
        State.count_canon, State.candGo_canon, hc]; done)
    | split
    | intro _
    | (dsimp +zetaHave only))

theorem State.candMove_canon (s : State) (n : Nat) (t : Nat) (hc : s.Canon) : (State.candMove s n t).Canon := by
  unfold State.candMove
  repeat' (first
    | with_reducible assumption
    | (simp +zetaHave (maxDischargeDepth := 60) only [State.canon_mk, State.canon_eta, apply_ite State.Canon, apply_ite Prod.fst, ite_self, implies_true,
        State.setCand_canon, State.candGo_canon, State.candTimer_canon, State.candTests_canon, hc]; done)
    | split
    | intro _
    | (dsimp +zetaHave only))

theorem State.oscMove_canon (s : State) (t : Nat) (hc : s.Canon) : (State.oscMove s t).Canon := by
  unfold State.oscMove
  repeat' (first
    | with_reducible assumption
    | (simp +zetaHave (maxDischargeDepth := 60) only [State.canon_mk, State.canon_eta, apply_ite State.Canon, apply_ite Prod.fst, ite_self, implies_true,
        State.candGo_canon, hc]; done)
    | split
    | intro _
    | (dsimp +zetaHave only))

theorem State.ppsLoss_canon (s : State) (n : Nat) (t : Nat) (hc : s.Canon) : (State.ppsLoss s n t).Canon := by
  unfold State.ppsLoss
  repeat' (first
    | with_reducible assumption
    | (simp +zetaHave (maxDischargeDepth := 60) only [State.canon_mk, State.canon_eta, apply_ite State.Canon, apply_ite Prod.fst, ite_self, implies_true,
        State.setCand_canon, hc]; done)
    | split
    | intro _
    | (dsimp +zetaHave only))

theorem State.candBoundary_canon (s : State) (t : Nat) (hc : s.Canon) : (State.candBoundary s t).Canon := by
  unfold State.candBoundary
  repeat' (first
    | with_reducible assumption
    | (simp +zetaHave +contextual (maxDischargeDepth := 60) only [State.canon_mk, State.canon_eta, apply_ite State.Canon, apply_ite Prod.fst, ite_self, implies_true,
        State.each_canon, State.candMove_canon, State.oscMove_canon, State.ppsLoss_canon, hc]; done)
    | split
    | intro _
    | (dsimp +zetaHave only)
    | refine State.each_canon _ _ _ ?_ (fun _ _ hc => ?_))

theorem State.candReconfigure_canon (s : State) (n : Nat) (hc : s.Canon) : (State.candReconfigure s n).Canon := by
  unfold State.candReconfigure
  repeat' (first
    | with_reducible assumption
    | (simp +zetaHave (maxDischargeDepth := 60) only [State.canon_mk, State.canon_eta, apply_ite State.Canon, apply_ite Prod.fst, ite_self, implies_true,
        State.setCand_canon, State.candGo_canon, hc]; done)
    | split
    | intro _
    | (dsimp +zetaHave only))

theorem State.candCfgWrite_canon (s : State) (n : Nat) (v : Nat) (hc : s.Canon) : (State.candCfgWrite s n v).Canon := by
  unfold State.candCfgWrite
  repeat' (first
    | with_reducible assumption
    | (simp +zetaHave (maxDischargeDepth := 60) only [State.canon_mk, State.canon_eta, apply_ite State.Canon, apply_ite Prod.fst, ite_self, implies_true,
        State.wr_canon, State.candReconfigure_canon, hc]; done)
    | split
    | intro _
    | (dsimp +zetaHave only))

theorem State.candDelayWrite_canon (s : State) (n : Nat) (v : Nat) (hc : s.Canon) : (State.candDelayWrite s n v).Canon := by
  unfold State.candDelayWrite
  repeat' (first
    | with_reducible assumption
    | (simp +zetaHave (maxDischargeDepth := 60) only [State.canon_mk, State.canon_eta, apply_ite State.Canon, apply_ite Prod.fst, ite_self, implies_true,
        State.wr_canon, State.candReconfigure_canon, hc]; done)
    | split
    | intro _
    | (dsimp +zetaHave only))

theorem State.select_canon (s : State) (d : Dom) (t : Nat) (hc : s.Canon) : (State.select s d t).Canon := by
  unfold State.select
  repeat' (first
    | with_reducible assumption
    | (simp +zetaHave (maxDischargeDepth := 60) only [State.canon_mk, State.canon_eta, apply_ite State.Canon, apply_ite Prod.fst, ite_self, implies_true,
        State.count_canon, State.raise_canon, State.setServo_canon, hc]; done)
    | split
    | intro _
    | (dsimp +zetaHave only))

theorem State.wtrExpiry_canon (s : State) (d : Dom) (t : Nat) (hc : s.Canon) : (State.wtrExpiry s d t).Canon := by
  unfold State.wtrExpiry
  repeat' (first
    | with_reducible assumption
    | (simp +zetaHave (maxDischargeDepth := 60) only [State.canon_mk, State.canon_eta, apply_ite State.Canon, apply_ite Prod.fst, ite_self, implies_true,
        State.select_canon, hc]; done)
    | split
    | intro _
    | (dsimp +zetaHave only))

theorem State.setAnchor_canon (s : State) (n : Nat) (a : Anchor) (hc : s.Canon) : (State.setAnchor s n a).Canon := by
  unfold State.setAnchor
  repeat' (first
    | with_reducible assumption
    | (simp +zetaHave (maxDischargeDepth := 60) only [State.canon_mk, State.canon_eta, apply_ite State.Canon, apply_ite Prod.fst, ite_self, implies_true,
        hc]; done)
    | split
    | intro _
    | (dsimp +zetaHave only))

theorem State.ppsCoherence_canon (s : State) (n : Nat) (ref : Nat) (stamp : Int) (k : Nat) (hc : s.Canon) : (State.ppsCoherence s n ref stamp k).Canon := by
  unfold State.ppsCoherence
  repeat' (first
    | with_reducible assumption
    | (simp +zetaHave (maxDischargeDepth := 60) only [State.canon_mk, State.canon_eta, apply_ite State.Canon, apply_ite Prod.fst, ite_self, implies_true,
        State.count_canon, State.setCand_canon, hc]; done)
    | split
    | intro _
    | (dsimp +zetaHave only))

theorem State.ppsEdge_canon (s : State) (n : Nat) (e : Edge) (before : Nat) (hc : s.Canon) : (State.ppsEdge s n e before).Canon := by
  unfold State.ppsEdge
  repeat' (first
    | with_reducible assumption
    | (simp +zetaHave (maxDischargeDepth := 60) only [State.canon_mk, State.canon_eta, apply_ite State.Canon, apply_ite Prod.fst, ite_self, implies_true,
        State.count_canon, State.atCyc_canon, State.setCand_canon, State.setAnchor_canon, State.clkoutPulse_canon,
        State.ppsCoherence_canon, hc]; done)
    | split
    | intro _
    | (dsimp +zetaHave only))

theorem State.advanceAnchors_canon (s : State) (hc : s.Canon) : (State.advanceAnchors s).Canon := by
  unfold State.advanceAnchors
  repeat' (first
    | with_reducible assumption
    | (simp +zetaHave +contextual (maxDischargeDepth := 60) only [State.canon_mk, State.canon_eta, apply_ite State.Canon, apply_ite Prod.fst, ite_self, implies_true,
        State.each_canon, State.setAnchor_canon, hc]; done)
    | split
    | intro _
    | (dsimp +zetaHave only)
    | refine State.each_canon _ _ _ ?_ (fun _ _ hc => ?_))

theorem State.enterHold_canon (s : State) (d : Dom) (nc : Nat) (hc : s.Canon) : (State.enterHold s d nc).Canon := by
  unfold State.enterHold
  repeat' (first
    | with_reducible assumption
    | (simp +zetaHave (maxDischargeDepth := 60) only [State.canon_mk, State.canon_eta, apply_ite State.Canon, apply_ite Prod.fst, ite_self, implies_true,
        State.count_canon, State.raise_canon, State.raiseIf_canon, State.setServo_canon, hc]; done)
    | split
    | intro _
    | (dsimp +zetaHave only))

theorem State.syntFollow_canon (s : State) (d : Dom) (nc : Nat) (hc : s.Canon) : (State.syntFollow s d nc).Canon := by
  unfold State.syntFollow
  repeat' (first
    | with_reducible assumption
    | (simp +zetaHave (maxDischargeDepth := 60) only [State.canon_mk, State.canon_eta, apply_ite State.Canon, apply_ite Prod.fst, ite_self, implies_true,
        State.setServo_canon, hc]; done)
    | split
    | intro _
    | (dsimp +zetaHave only))

theorem State.grow_canon (s : State) (d : Dom) (nc : Nat) (hc : s.Canon) : (State.grow s d nc).Canon := by
  unfold State.grow
  repeat' (first
    | with_reducible assumption
    | (simp +zetaHave (maxDischargeDepth := 60) only [State.canon_mk, State.canon_eta, apply_ite State.Canon, apply_ite Prod.fst, ite_self, implies_true,
        State.setServo_canon, hc]; done)
    | split
    | intro _
    | (dsimp +zetaHave only))

theorem State.holdCourse_canon (s : State) (d : Dom) (nc : Nat) (hc : s.Canon) : (State.holdCourse s d nc).Canon := by
  unfold State.holdCourse
  repeat' (first
    | with_reducible assumption
    | (simp +zetaHave (maxDischargeDepth := 60) only [State.canon_mk, State.canon_eta, apply_ite State.Canon, apply_ite Prod.fst, ite_self, implies_true,
        State.syntFollow_canon, State.grow_canon, hc]; done)
    | split
    | intro _
    | (dsimp +zetaHave only))

theorem State.fixTe_canon (s : State) (hc : s.Canon) : (State.fixTe s).Canon := by
  unfold State.fixTe
  repeat' (first
    | with_reducible assumption
    | (simp +zetaHave (maxDischargeDepth := 60) only [State.canon_mk, State.canon_eta, apply_ite State.Canon, apply_ite Prod.fst, ite_self, implies_true,
        State.modServo_canon, hc]; done)
    | split
    | intro _
    | (dsimp +zetaHave only))

theorem State.agePoint_canon (s : State) (t : Nat) (hc : s.Canon) : (State.agePoint s t).Canon := by
  unfold State.agePoint
  repeat' (first
    | with_reducible assumption
    | (simp +zetaHave (maxDischargeDepth := 60) only [State.canon_mk, State.canon_eta, apply_ite State.Canon, apply_ite Prod.fst, ite_self, implies_true,
        hc]; done)
    | split
    | intro _
    | (dsimp +zetaHave only))

theorem State.ageEnd_canon (s : State) (t : Nat) (hc : s.Canon) : (State.ageEnd s t).Canon := by
  unfold State.ageEnd
  repeat' (first
    | with_reducible assumption
    | (simp +zetaHave (maxDischargeDepth := 60) only [State.canon_mk, State.canon_eta, apply_ite State.Canon, apply_ite Prod.fst, ite_self, implies_true,
        State.wr_canon, hc]; done)
    | split
    | intro _
    | (dsimp +zetaHave only))

theorem State.ageBoundary_canon (s : State) (t : Nat) (hc : s.Canon) : (State.ageBoundary s t).Canon := by
  unfold State.ageBoundary
  repeat' (first
    | with_reducible assumption
    | (simp +zetaHave (maxDischargeDepth := 60) only [State.canon_mk, State.canon_eta, apply_ite State.Canon, apply_ite Prod.fst, ite_self, implies_true,
        State.ageEnd_canon, hc]; done)
    | split
    | intro _
    | (dsimp +zetaHave only))

theorem State.qualityOrFree_canon (s : State) (hc : s.Canon) : (State.qualityOrFree s).1.Canon := by
  unfold State.qualityOrFree
  repeat' (first
    | with_reducible assumption
    | (simp +zetaHave (maxDischargeDepth := 60) only [State.canon_mk, State.canon_eta, apply_ite State.Canon, apply_ite Prod.fst, ite_self, implies_true,
        State.drawFree_canon, hc]; done)
    | split
    | intro _
    | (dsimp +zetaHave only))

end Sys2Proof.Machine
end

