-- ==== Sys2Proof/Laws/CanonServo.lean ====
section
/-! SUPPORT. Sys2Proof/Laws/CanonServo.lean: every operation of Machine/Servo.lean keeps the tables of the state in canonical
form. -/

set_option linter.all false
set_option Elab.async false

namespace Sys2Proof.Machine
open Sys2Proof.Config
set_option linter.unusedSimpArgs false

theorem State.steer_canon (s : State) (hc : s.Canon) : (State.steer s).Canon := by
  unfold State.steer
  repeat' (first
    | with_reducible assumption
    | (simp +zetaHave (maxDischargeDepth := 60) only [State.canon_mk, State.canon_eta, apply_ite State.Canon, apply_ite Prod.fst, ite_self, implies_true,
        hc]; done)
    | split
    | intro _
    | (dsimp +zetaHave only))

theorem State.resteer_canon (s : State) (hc : s.Canon) : (State.resteer s).Canon := by
  unfold State.resteer
  repeat' (first
    | with_reducible assumption
    | (simp +zetaHave (maxDischargeDepth := 60) only [State.canon_mk, State.canon_eta, apply_ite State.Canon, apply_ite Prod.fst, ite_self, implies_true,
        State.steer_canon, hc]; done)
    | split
    | intro _
    | (dsimp +zetaHave only))

theorem State.rootSample_canon (s : State) (d : Dom) (hc : s.Canon) : (State.rootSample s d).1.Canon := by
  unfold State.rootSample
  repeat' (first
    | with_reducible assumption
    | (simp +zetaHave (maxDischargeDepth := 60) only [State.canon_mk, State.canon_eta, apply_ite State.Canon, apply_ite Prod.fst, ite_self, implies_true,
        State.setServo_canon, State.flagInterval_canon, hc]; done)
    | split
    | intro _
    | (dsimp +zetaHave only))

theorem State.hardwareSample_canon (s : State) (d : Dom) (hc : s.Canon) : (State.hardwareSample s d).1.Canon := by
  unfold State.hardwareSample
  repeat' (first
    | with_reducible assumption
    | (simp +zetaHave (maxDischargeDepth := 60) only [State.canon_mk, State.canon_eta, apply_ite State.Canon, apply_ite Prod.fst, ite_self, implies_true,
        State.rootSample_canon, hc]; done)
    | split
    | intro _
    | (dsimp +zetaHave only))

theorem State.unlock_canon (s : State) (d : Dom) (hc : s.Canon) : (State.unlock s d).Canon := by
  unfold State.unlock
  repeat' (first
    | with_reducible assumption
    | (simp +zetaHave (maxDischargeDepth := 60) only [State.canon_mk, State.canon_eta, apply_ite State.Canon, apply_ite Prod.fst, ite_self, implies_true,
        State.raiseIf_canon, State.modServo_canon, hc]; done)
    | split
    | intro _
    | (dsimp +zetaHave only))

theorem State.firstSample_canon (s : State) (d : Dom) (hc : s.Canon) : (State.firstSample s d).Canon := by
  unfold State.firstSample
  repeat' (first
    | with_reducible assumption
    | (simp +zetaHave (maxDischargeDepth := 60) only [State.canon_mk, State.canon_eta, apply_ite State.Canon, apply_ite Prod.fst, ite_self, implies_true,
        State.modServo_canon, hc]; done)
    | split
    | intro _
    | (dsimp +zetaHave only))

theorem State.freqUpdate_canon (s : State) (d : Dom) (th : Int) (t : Nat) (hc : s.Canon) : (State.freqUpdate s d th t).Canon := by
  unfold State.freqUpdate
  repeat' (first
    | with_reducible assumption
    | (simp +zetaHave (maxDischargeDepth := 60) only [State.canon_mk, State.canon_eta, apply_ite State.Canon, apply_ite Prod.fst, ite_self, implies_true,
        State.setServo_canon, hc]; done)
    | split
    | intro _
    | (dsimp +zetaHave only))

theorem State.steerUpdate_canon (s : State) (hc : s.Canon) : (State.steerUpdate s).Canon := by
  unfold State.steerUpdate
  repeat' (first
    | with_reducible assumption
    | (simp +zetaHave (maxDischargeDepth := 60) only [State.canon_mk, State.canon_eta, apply_ite State.Canon, apply_ite Prod.fst, ite_self, implies_true,
        State.count_canon, State.raise_canon, State.steer_canon, hc]; done)
    | split
    | intro _
    | (dsimp +zetaHave only))

theorem State.trackUpdate_canon (s : State) (d : Dom) (th : Int) (t : Nat) (hc : s.Canon) : (State.trackUpdate s d th t).Canon := by
  unfold State.trackUpdate
  repeat' (first
    | with_reducible assumption
    | (simp +zetaHave (maxDischargeDepth := 60) only [State.canon_mk, State.canon_eta, apply_ite State.Canon, apply_ite Prod.fst, ite_self, implies_true,
        State.setServo_canon, State.unlock_canon, State.steerUpdate_canon, hc]; done)
    | split
    | intro _
    | (dsimp +zetaHave only))

theorem State.skipUpdate_canon (s : State) (d : Dom) (nc : Nat) (hc : s.Canon) : (State.skipUpdate s d nc).Canon := by
  unfold State.skipUpdate
  repeat' (first
    | with_reducible assumption
    | (simp +zetaHave (maxDischargeDepth := 60) only [State.canon_mk, State.canon_eta, apply_ite State.Canon, apply_ite Prod.fst, ite_self, implies_true,
        State.count_canon, State.setServo_canon, State.enterHold_canon, hc]; done)
    | split
    | intro _
    | (dsimp +zetaHave only))

theorem State.servoUpdate_canon (s : State) (d : Dom) (hw : Option Int) (nc : Nat) (t : Nat) (hc : s.Canon) : (State.servoUpdate s d hw nc t).Canon := by
  unfold State.servoUpdate
  repeat' (first
    | with_reducible assumption
    | (simp +zetaHave (maxDischargeDepth := 60) only [State.canon_mk, State.canon_eta, apply_ite State.Canon, apply_ite Prod.fst, ite_self, implies_true,
        State.count_canon, State.evt_canon, State.setServo_canon, State.modServo_canon, State.freqUpdate_canon,
        State.trackUpdate_canon, State.skipUpdate_canon, State.firstSample_canon, hc]; done)
    | split
    | intro _
    | (dsimp +zetaHave only))

theorem State.autoAcquire_canon (s : State) (hc : s.Canon) : (State.autoAcquire s).Canon := by
  unfold State.autoAcquire
  repeat' (first
    | with_reducible assumption
    | (simp +zetaHave (maxDischargeDepth := 60) only [State.canon_mk, State.canon_eta, apply_ite State.Canon, apply_ite Prod.fst, ite_self, implies_true,
        hc]; done)
    | split
    | intro _
    | (dsimp +zetaHave only))

theorem State.acqCheck_canon (s : State) (hc : s.Canon) : (State.acqCheck s).Canon := by
  unfold State.acqCheck
  repeat' (first
    | with_reducible assumption
    | (simp +zetaHave (maxDischargeDepth := 60) only [State.canon_mk, State.canon_eta, apply_ite State.Canon, apply_ite Prod.fst, ite_self, implies_true,
        hc]; done)
    | split
    | intro _
    | (dsimp +zetaHave only))

theorem State.updates_canon (s : State) (n : Nat) (nc : Nat) (t : Nat) (hc : s.Canon) : (State.updates s n nc t).Canon := by
  unfold State.updates
  repeat' (first
    | with_reducible assumption
    | (simp +zetaHave (maxDischargeDepth := 60) only [State.canon_mk, State.canon_eta, apply_ite State.Canon, apply_ite Prod.fst, ite_self, implies_true,
        State.agePoint_canon, State.hardwareSample_canon, State.servoUpdate_canon, State.autoAcquire_canon,
        State.acqCheck_canon, State.modServo_canon, hc]; done)
    | split
    | intro _
    | (dsimp +zetaHave only))

theorem State.stepTime_canon (s : State) (d : Dom) (th : Int) (hc : s.Canon) : (s.stepTime d th).Canon := by
  have hstep : ∀ (t : State) (l : List Nat) (f : State → Nat → State), t.Canon → (∀ u n, u.Canon → (f u n).Canon) →
      (t.each l f).Canon := fun t l f h1 h2 => State.each_canon t l f h1 h2
  unfold State.stepTime
  dsimp +zetaHave only
  split
  · refine hstep _ _ _ ?_ fun u n hu => State.count_canon _ _ _ (State.setPort_canon _ _ _ hu)
    exact { hc with cyc := Nat.le_of_lt_succ (Nat.mod_lt _ (by decide)), steps := Nat.min_le_left _ _ }
  · refine State.raise_canon _ _ (hstep _ _ _ ?_ fun u n hu => State.count_canon _ _ _ (State.setPort_canon _ _ _ hu))
    exact { hc with cyc := Nat.le_of_lt_succ (Nat.mod_lt _ (by decide)), steps := Nat.min_le_left _ _ }

theorem State.switchTo_canon (s : State) (d : Dom) (k : SwitchKind) (hc : s.Canon) : (State.switchTo s d k).Canon := by
  unfold State.switchTo
  repeat' (first
    | with_reducible assumption
    | (simp +zetaHave (maxDischargeDepth := 60) only [State.canon_mk, State.canon_eta, apply_ite State.Canon, apply_ite Prod.fst, ite_self, implies_true,
        State.count_canon, State.raise_canon, State.modServo_canon, State.steer_canon, hc]; done)
    | split
    | intro _
    | (dsimp +zetaHave only))

theorem State.holdPlan_canon (s : State) (id : Nat) (target : Dom) (course : Nat) (hc : s.Canon) : (State.holdPlan s id target course).Canon := by
  unfold State.holdPlan
  repeat' (first
    | with_reducible assumption
    | (simp +zetaHave (maxDischargeDepth := 60) only [State.canon_mk, State.canon_eta, apply_ite State.Canon, apply_ite Prod.fst, ite_self, implies_true,
        hc]; done)
    | split
    | intro _
    | (dsimp +zetaHave only))

theorem State.cancelPlan_canon (s : State) (hc : s.Canon) : (State.cancelPlan s).Canon := by
  unfold State.cancelPlan
  repeat' (first
    | with_reducible assumption
    | (simp +zetaHave (maxDischargeDepth := 60) only [State.canon_mk, State.canon_eta, apply_ite State.Canon, apply_ite Prod.fst, ite_self, implies_true,
        hc]; done)
    | split
    | intro _
    | (dsimp +zetaHave only))

theorem State.planEvaluate_canon (s : State) (nc : Nat) (hc : s.Canon) : (State.planEvaluate s nc).Canon := by
  unfold State.planEvaluate
  repeat' (first
    | with_reducible assumption
    | (simp +zetaHave (maxDischargeDepth := 60) only [State.canon_mk, State.canon_eta, apply_ite State.Canon, apply_ite Prod.fst, ite_self, implies_true,
        State.raise_canon, State.switchTo_canon, hc]; done)
    | split
    | intro _
    | (dsimp +zetaHave only))

theorem State.selectBoundary_canon (s : State) (hc : s.Canon) : (State.selectBoundary s).Canon := by
  unfold State.selectBoundary
  repeat' (first
    | with_reducible assumption
    | (simp +zetaHave (maxDischargeDepth := 60) only [State.canon_mk, State.canon_eta, apply_ite State.Canon, apply_ite Prod.fst, ite_self, implies_true,
        State.switchTo_canon, hc]; done)
    | split
    | intro _
    | (dsimp +zetaHave only))

theorem State.autoSwitch_canon (s : State) (hc : s.Canon) : (State.autoSwitch s).Canon := by
  unfold State.autoSwitch
  repeat' (first
    | with_reducible assumption
    | (simp +zetaHave (maxDischargeDepth := 60) only [State.canon_mk, State.canon_eta, apply_ite State.Canon, apply_ite Prod.fst, ite_self, implies_true,
        State.switchTo_canon, hc]; done)
    | split
    | intro _
    | (dsimp +zetaHave only))

theorem State.bridge_canon (s : State) (hc : s.Canon) : (State.bridge s).Canon := by
  unfold State.bridge
  repeat' (first
    | with_reducible assumption
    | (simp +zetaHave (maxDischargeDepth := 60) only [State.canon_mk, State.canon_eta, apply_ite State.Canon, apply_ite Prod.fst, ite_self, implies_true,
        State.modServo_canon, State.steer_canon, hc]; done)
    | split
    | intro _
    | (dsimp +zetaHave only))

theorem State.followBoundary_canon (s : State) (hc : s.Canon) : (State.followBoundary s).Canon := by
  unfold State.followBoundary
  repeat' (first
    | with_reducible assumption
    | (simp +zetaHave (maxDischargeDepth := 60) only [State.canon_mk, State.canon_eta, apply_ite State.Canon, apply_ite Prod.fst, ite_self, implies_true,
        State.modServo_canon, hc]; done)
    | split
    | intro _
    | (dsimp +zetaHave only))

theorem State.advancePhase_canon (s : State) (hc : s.Canon) : (State.advancePhase s).Canon := by
  unfold State.advancePhase
  repeat' (first
    | with_reducible assumption
    | (simp +zetaHave (maxDischargeDepth := 60) only [State.canon_mk, State.canon_eta, apply_ite State.Canon, apply_ite Prod.fst, ite_self, implies_true,
        State.modServo_canon, hc]; done)
    | split
    | intro _
    | (dsimp +zetaHave only))

theorem State.loopBoundary_canon (s : State) (d : Dom) (t : Nat) (hc : s.Canon) : (State.loopBoundary s d t).Canon := by
  unfold State.loopBoundary
  repeat' (first
    | with_reducible assumption
    | (simp +zetaHave (maxDischargeDepth := 60) only [State.canon_mk, State.canon_eta, apply_ite State.Canon, apply_ite Prod.fst, ite_self, implies_true,
        State.setServo_canon, State.resteer_canon, hc]; done)
    | split
    | intro _
    | (dsimp +zetaHave only))

theorem State.loopTimeout_canon (s : State) (d : Dom) (nc : Nat) (t : Nat) (hc : s.Canon) : (State.loopTimeout s d nc t).Canon := by
  unfold State.loopTimeout
  repeat' (first
    | with_reducible assumption
    | (simp +zetaHave (maxDischargeDepth := 60) only [State.canon_mk, State.canon_eta, apply_ite State.Canon, apply_ite Prod.fst, ite_self, implies_true,
        State.enterHold_canon, hc]; done)
    | split
    | intro _
    | (dsimp +zetaHave only))

theorem State.servoStates_canon (s : State) (d : Dom) (nc : Nat) (t : Nat) (hc : s.Canon) : (State.servoStates s d nc t).Canon := by
  unfold State.servoStates
  repeat' (first
    | with_reducible assumption
    | (simp +zetaHave (maxDischargeDepth := 60) only [State.canon_mk, State.canon_eta, apply_ite State.Canon, apply_ite Prod.fst, ite_self, implies_true,
        State.setServo_canon, State.enterHold_canon, State.loopTimeout_canon, State.modServo_canon,
        State.firstSample_canon, hc]; done)
    | split
    | intro _
    | (dsimp +zetaHave only))

theorem State.holdBoundary_canon (s : State) (d : Dom) (was : Bool) (nc : Nat) (hc : s.Canon) : (State.holdBoundary s d was nc).Canon := by
  unfold State.holdBoundary
  repeat' (first
    | with_reducible assumption
    | (simp +zetaHave (maxDischargeDepth := 60) only [State.canon_mk, State.canon_eta, apply_ite State.Canon, apply_ite Prod.fst, ite_self, implies_true,
        State.modServo_canon, State.holdCourse_canon, hc]; done)
    | split
    | intro _
    | (dsimp +zetaHave only))

theorem State.timeBoundary_canon (s : State) (n : Nat) (nc : Nat) (t : Nat) (hc : s.Canon) : (State.timeBoundary s n nc t).Canon := by
  unfold State.timeBoundary
  repeat' (first
    | with_reducible assumption
    | (simp +zetaHave (maxDischargeDepth := 60) only [State.canon_mk, State.canon_eta, apply_ite State.Canon, apply_ite Prod.fst, ite_self, implies_true,
        State.select_canon, State.fixTe_canon, State.ageBoundary_canon, State.acqCheck_canon, State.updates_canon,
        State.planEvaluate_canon, State.selectBoundary_canon, State.autoSwitch_canon, State.bridge_canon,
        State.followBoundary_canon, State.loopBoundary_canon, State.servoStates_canon, State.holdBoundary_canon, hc]; done)
    | split
    | intro _
    | (dsimp +zetaHave only))

theorem State.underlayHold_canon (s : State) (nc : Nat) (hc : s.Canon) : (State.underlayHold s nc).Canon := by
  unfold State.underlayHold
  repeat' (first
    | with_reducible assumption
    | (simp +zetaHave (maxDischargeDepth := 60) only [State.canon_mk, State.canon_eta, apply_ite State.Canon, apply_ite Prod.fst, ite_self, implies_true,
        State.enterHold_canon, hc]; done)
    | split
    | intro _
    | (dsimp +zetaHave only))

end Sys2Proof.Machine
end

