-- ==== Sys2Proof/Laws/CanonExchange.lean ====
section
/-! SUPPORT. Sys2Proof/Laws/CanonExchange.lean: every operation of Machine/Exchange.lean keeps the tables of the state in canonical
form. -/

set_option linter.all false
set_option Elab.async false

namespace Sys2Proof.Machine
open Sys2Proof.Config
set_option linter.unusedSimpArgs false

theorem State.noteSent_canon (s : State) (p : Nat) (key : Nat) (hc : s.Canon) : (State.noteSent s p key).Canon := by
  unfold State.noteSent
  repeat' (first
    | with_reducible assumption
    | (simp +zetaHave (maxDischargeDepth := 60) only [State.canon_mk, State.canon_eta, apply_ite State.Canon, apply_ite Prod.fst, ite_self, implies_true,
        State.modPort_canon, hc]; done)
    | split
    | intro _
    | (dsimp +zetaHave only))

theorem State.syncSend_canon (s : State) (p : Nat) (hc : s.Canon) : (State.syncSend s p).Canon := by
  unfold State.syncSend
  repeat' (first
    | with_reducible assumption
    | (simp +zetaHave (maxDischargeDepth := 60) only [State.canon_mk, State.canon_eta, apply_ite State.Canon, apply_ite Prod.fst, ite_self, implies_true,
        State.xsend_canon, State.noteSent_canon, hc]; done)
    | split
    | intro _
    | (dsimp +zetaHave only))

theorem State.syncArrived_canon (s : State) (p : Nat) (h : PtpHead) (st : Stamp) (t1 : Int) (hc : s.Canon) : (State.syncArrived s p h st t1).Canon := by
  unfold State.syncArrived
  repeat' (first
    | with_reducible assumption
    | (simp +zetaHave (maxDischargeDepth := 60) only [State.canon_mk, State.canon_eta, apply_ite State.Canon, apply_ite Prod.fst, ite_self, implies_true,
        State.count_canon, State.modPort_canon, hc]; done)
    | split
    | intro _
    | (dsimp +zetaHave only))

theorem State.delayReqSend_canon (s : State) (p : Nat) (hc : s.Canon) : (State.delayReqSend s p).Canon := by
  unfold State.delayReqSend
  repeat' (first
    | with_reducible assumption
    | (simp +zetaHave (maxDischargeDepth := 60) only [State.canon_mk, State.canon_eta, apply_ite State.Canon, apply_ite Prod.fst, ite_self, implies_true,
        State.modPort_canon, State.xsend_canon, hc]; done)
    | split
    | intro _
    | (dsimp +zetaHave only))

theorem State.delayReqArrived_canon (s : State) (p : Nat) (h : PtpHead) (st : Stamp) (hc : s.Canon) : (State.delayReqArrived s p h st).Canon := by
  unfold State.delayReqArrived
  repeat' (first
    | with_reducible assumption
    | (simp +zetaHave (maxDischargeDepth := 60) only [State.canon_mk, State.canon_eta, apply_ite State.Canon, apply_ite Prod.fst, ite_self, implies_true,
        State.count_canon, State.setPort_canon, hc]; done)
    | split
    | intro _
    | (dsimp +zetaHave only))

theorem State.delayRespSend_canon (s : State) (p : Nat) (hc : s.Canon) : (State.delayRespSend s p).Canon := by
  unfold State.delayRespSend
  repeat' (first
    | with_reducible assumption
    | (simp +zetaHave (maxDischargeDepth := 60) only [State.canon_mk, State.canon_eta, apply_ite State.Canon, apply_ite Prod.fst, ite_self, implies_true,
        State.count_canon, State.setPort_canon, State.xsend_canon, hc]; done)
    | split
    | intro _
    | (dsimp +zetaHave only))

theorem State.deliver_canon (s : State) (p : Nat) (th : Int) (hc : s.Canon) : (State.deliver s p th).Canon := by
  unfold State.deliver
  repeat' (first
    | with_reducible assumption
    | (simp +zetaHave (maxDischargeDepth := 60) only [State.canon_mk, State.canon_eta, apply_ite State.Canon, apply_ite Prod.fst, ite_self, implies_true,
        State.modServo_canon, State.flagInterval_canon, hc]; done)
    | split
    | intro _
    | (dsimp +zetaHave only))

theorem State.delayRespArrived_canon (s : State) (p : Nat) (h : PtpHead) (t4 : Int) (reqClock : Nat) (reqPort : Nat) (hc : s.Canon) : (State.delayRespArrived s p h t4 reqClock reqPort).Canon := by
  unfold State.delayRespArrived
  repeat' (first
    | with_reducible assumption
    | (simp +zetaHave (maxDischargeDepth := 60) only [State.canon_mk, State.canon_eta, apply_ite State.Canon, apply_ite Prod.fst, ite_self, implies_true,
        State.count_canon, State.drawFree_canon, State.setPort_canon, State.modPort_canon, State.deliver_canon, hc]; done)
    | split
    | intro _
    | (dsimp +zetaHave only))

theorem State.exchBoundary_canon (s : State) (p : Nat) (t : Nat) (hc : s.Canon) : (State.exchBoundary s p t).Canon := by
  unfold State.exchBoundary
  repeat' (first
    | with_reducible assumption
    | (simp +zetaHave (maxDischargeDepth := 60) only [State.canon_mk, State.canon_eta, apply_ite State.Canon, apply_ite Prod.fst, ite_self, implies_true,
        State.count_canon, State.setPort_canon, hc]; done)
    | split
    | intro _
    | (dsimp +zetaHave only))

theorem State.announceBody_canon (s : State) (hc : s.Canon) : (State.announceBody s).1.Canon := by
  unfold State.announceBody
  repeat' (first
    | with_reducible assumption
    | (simp +zetaHave (maxDischargeDepth := 60) only [State.canon_mk, State.canon_eta, apply_ite State.Canon, apply_ite Prod.fst, ite_self, implies_true,
        State.drawFree_canon, State.qualityOrFree_canon, hc]; done)
    | split
    | intro _
    | (dsimp +zetaHave only))

theorem State.announceSend_canon (s : State) (p : Nat) (hc : s.Canon) : (State.announceSend s p).Canon := by
  unfold State.announceSend
  repeat' (first
    | with_reducible assumption
    | (simp +zetaHave (maxDischargeDepth := 60) only [State.canon_mk, State.canon_eta, apply_ite State.Canon, apply_ite Prod.fst, ite_self, implies_true,
        State.xsend_canon, State.noteSent_canon, State.announceBody_canon, hc]; done)
    | split
    | intro _
    | (dsimp +zetaHave only))

theorem State.announceArrived_canon (s : State) (p : Nat) (b : AnnounceBody) (hc : s.Canon) : (State.announceArrived s p b).Canon := by
  unfold State.announceArrived
  repeat' (first
    | with_reducible assumption
    | (simp +zetaHave (maxDischargeDepth := 60) only [State.canon_mk, State.canon_eta, apply_ite State.Canon, apply_ite Prod.fst, ite_self, implies_true,
        State.wr_canon, hc]; done)
    | split
    | intro _
    | (dsimp +zetaHave only))

theorem State.helloSend_canon (s : State) (p : Nat) (hc : s.Canon) : (State.helloSend s p).Canon := by
  unfold State.helloSend
  repeat' (first
    | with_reducible assumption
    | (simp +zetaHave (maxDischargeDepth := 60) only [State.canon_mk, State.canon_eta, apply_ite State.Canon, apply_ite Prod.fst, ite_self, implies_true,
        State.sendHello_canon, State.noteSent_canon, hc]; done)
    | split
    | intro _
    | (dsimp +zetaHave only))

theorem State.judged_canon (s : State) (p : Nat) (f : Port → Port) (hc : s.Canon) : (State.judged s p f).Canon := by
  unfold State.judged
  repeat' (first
    | with_reducible assumption
    | (simp +zetaHave (maxDischargeDepth := 60) only [State.canon_mk, State.canon_eta, apply_ite State.Canon, apply_ite Prod.fst, ite_self, implies_true,
        State.raiseIf_canon, State.modPort_canon, hc]; done)
    | split
    | intro _
    | (dsimp +zetaHave only))

theorem State.judgeId_canon (s : State) (p : Nat) (src : Nat) (hc : s.Canon) : (State.judgeId s p src).Canon := by
  unfold State.judgeId
  repeat' (first
    | with_reducible assumption
    | (simp +zetaHave (maxDischargeDepth := 60) only [State.canon_mk, State.canon_eta, apply_ite State.Canon, apply_ite Prod.fst, ite_self, implies_true,
        State.judged_canon, hc]; done)
    | split
    | intro _
    | (dsimp +zetaHave only))

theorem State.judgeRole_canon (s : State) (p : Nat) (prole : Nat) (hc : s.Canon) : (State.judgeRole s p prole).Canon := by
  unfold State.judgeRole
  repeat' (first
    | with_reducible assumption
    | (simp +zetaHave (maxDischargeDepth := 60) only [State.canon_mk, State.canon_eta, apply_ite State.Canon, apply_ite Prod.fst, ite_self, implies_true,
        State.judged_canon, hc]; done)
    | split
    | intro _
    | (dsimp +zetaHave only))

theorem State.keepaliveSend_canon (s : State) (p : Nat) (hc : s.Canon) : (State.keepaliveSend s p).Canon := by
  unfold State.keepaliveSend
  repeat' (first
    | with_reducible assumption
    | (simp +zetaHave (maxDischargeDepth := 60) only [State.canon_mk, State.canon_eta, apply_ite State.Canon, apply_ite Prod.fst, ite_self, implies_true,
        State.xsend_canon, State.noteSent_canon, hc]; done)
    | split
    | intro _
    | (dsimp +zetaHave only))

theorem State.continuity_canon (s : State) (p : Nat) (st : Stamp) (tx : Int) (hc : s.Canon) : (State.continuity s p st tx).Canon := by
  unfold State.continuity
  repeat' (first
    | with_reducible assumption
    | (simp +zetaHave (maxDischargeDepth := 60) only [State.canon_mk, State.canon_eta, apply_ite State.Canon, apply_ite Prod.fst, ite_self, implies_true,
        State.count_canon, State.candJump_canon, hc]; done)
    | split
    | intro _
    | (dsimp +zetaHave only))

theorem State.keepaliveArrived_canon (s : State) (p : Nat) (src : Nat) (st : Stamp) (tx : Int) (status : Nat) (te : Nat) (hc : s.Canon) : (State.keepaliveArrived s p src st tx status te).Canon := by
  unfold State.keepaliveArrived
  repeat' (first
    | with_reducible assumption
    | (simp +zetaHave (maxDischargeDepth := 60) only [State.canon_mk, State.canon_eta, apply_ite State.Canon, apply_ite Prod.fst, ite_self, implies_true,
        State.modPort_canon, State.judgeId_canon, State.continuity_canon, hc]; done)
    | split
    | intro _
    | (dsimp +zetaHave only))

theorem State.broadcast_canon (s : State) (p : Nat) (typ : Nat) (id : Nat) (b : Body) (hc : s.Canon) : (State.broadcast s p typ id b).1.Canon := by
  unfold State.broadcast
  repeat' (first
    | with_reducible assumption
    | (simp +zetaHave (maxDischargeDepth := 60) only [State.canon_mk, State.canon_eta, apply_ite State.Canon, apply_ite Prod.fst, ite_self, implies_true,
        State.xsendAll_canon, hc]; done)
    | split
    | intro _
    | (dsimp +zetaHave only))

theorem State.originate_canon (s : State) (typ : Nat) (id : Nat) (b : Body) (hc : s.Canon) : (State.originate s typ id b).Canon := by
  unfold State.originate
  repeat' (first
    | with_reducible assumption
    | (simp +zetaHave (maxDischargeDepth := 60) only [State.canon_mk, State.canon_eta, apply_ite State.Canon, apply_ite Prod.fst, ite_self, implies_true,
        State.xsendAll_canon, hc]; done)
    | split
    | intro _
    | (dsimp +zetaHave only))

theorem State.planArrived_canon (s : State) (id : Nat) (target : Dom) (sw : Nat) (hc : s.Canon) : (State.planArrived s id target sw).Canon := by
  unfold State.planArrived
  repeat' (first
    | with_reducible assumption
    | (simp +zetaHave (maxDischargeDepth := 60) only [State.canon_mk, State.canon_eta, apply_ite State.Canon, apply_ite Prod.fst, ite_self, implies_true,
        State.count_canon, State.holdPlan_canon, hc]; done)
    | split
    | intro _
    | (dsimp +zetaHave only))

theorem State.esmcSend_canon (s : State) (p : Nat) (hc : s.Canon) : (State.esmcSend s p).Canon := by
  unfold State.esmcSend
  repeat' (first
    | with_reducible assumption
    | (simp +zetaHave (maxDischargeDepth := 60) only [State.canon_mk, State.canon_eta, apply_ite State.Canon, apply_ite Prod.fst, ite_self, implies_true,
        State.modPort_canon, State.xsend_canon, State.qualityOrFree_canon, hc]; done)
    | split
    | intro _
    | (dsimp +zetaHave only))

theorem State.esmcBoundary_canon (s : State) (hc : s.Canon) : (State.esmcBoundary s).Canon := by
  unfold State.esmcBoundary
  repeat' (first
    | with_reducible assumption
    | (simp +zetaHave (maxDischargeDepth := 60) only [State.canon_mk, State.canon_eta, apply_ite State.Canon, apply_ite Prod.fst, ite_self, implies_true,
        State.xsendAll_canon, hc]; done)
    | split
    | intro _
    | (dsimp +zetaHave only))

theorem State.rxEsmc_canon (s : State) (h : RxBase) (event : Bool) (hc : s.Canon) : (State.rxEsmc s h event).s.Canon := by
  unfold State.rxEsmc
  repeat' (first
    | with_reducible assumption
    | (simp +zetaHave (maxDischargeDepth := 60) only [State.canon_mk, State.canon_eta, apply_ite State.Canon, apply_ite Prod.fst, ite_self, implies_true,
        apply_ite Rx.s, Rx.drop_s, State.count_canon, Rx.drop_canon, State.rxBegin_canon, hc]; done)
    | split
    | intro _
    | (dsimp +zetaHave only))

theorem State.portSends_canon (s : State) (p : Nat) (hc : s.Canon) : (State.portSends s p).Canon := by
  unfold State.portSends
  repeat' (first
    | with_reducible assumption
    | (simp +zetaHave (maxDischargeDepth := 60) only [State.canon_mk, State.canon_eta, apply_ite State.Canon, apply_ite Prod.fst, ite_self, implies_true,
        State.syncSend_canon, State.delayReqSend_canon, State.delayRespSend_canon, State.announceSend_canon,
        State.helloSend_canon, State.keepaliveSend_canon, State.esmcSend_canon, hc]; done)
    | split
    | intro _
    | (dsimp +zetaHave only))

theorem State.portBoundary_canon (s : State) (p : Nat) (t : Nat) (hc : s.Canon) : (State.portBoundary s p t).Canon := by
  unfold State.portBoundary
  repeat' (first
    | with_reducible assumption
    | (simp +zetaHave (maxDischargeDepth := 60) only [State.canon_mk, State.canon_eta, apply_ite State.Canon, apply_ite Prod.fst, ite_self, implies_true,
        State.replayTimeout_canon, State.sendAck_canon, State.applyConstants_canon, State.exchBoundary_canon,
        State.portSends_canon, hc]; done)
    | split
    | intro _
    | (dsimp +zetaHave only))

end Sys2Proof.Machine
end

