-- ==== Sys2Proof/Laws/CanonInterval.lean ====
section
/-! SUPPORT. Sys2Proof/Laws/CanonInterval.lean: every operation of Machine/Interval.lean keeps the tables of the state in canonical
form. -/

set_option linter.all false
set_option Elab.async false

namespace Sys2Proof.Machine
open Sys2Proof.Config
set_option linter.unusedSimpArgs false

theorem State.startMeas_canon (s : State) (c : MeasCfg) (hc : s.Canon) : (State.startMeas s c).Canon := by
  unfold State.startMeas
  repeat' (first
    | with_reducible assumption
    | (simp +zetaHave (maxDischargeDepth := 60) only [State.canon_mk, State.canon_eta, apply_ite State.Canon, apply_ite Prod.fst, ite_self, implies_true,
        State.ended_canon, hc]; done)
    | split
    | intro _
    | (dsimp +zetaHave only))

theorem State.imArm_canon (s : State) (hc : s.Canon) : (State.imArm s).Canon := by
  unfold State.imArm
  repeat' (first
    | with_reducible assumption
    | (simp +zetaHave (maxDischargeDepth := 60) only [State.canon_mk, State.canon_eta, apply_ite State.Canon, apply_ite Prod.fst, ite_self, implies_true,
        State.openGate_canon, State.startMeas_canon, hc]; done)
    | split
    | intro _
    | (dsimp +zetaHave only))

theorem State.imAbort_canon (s : State) (hc : s.Canon) : (State.imAbort s).Canon := by
  unfold State.imAbort
  repeat' (first
    | with_reducible assumption
    | (simp +zetaHave (maxDischargeDepth := 60) only [State.canon_mk, State.canon_eta, apply_ite State.Canon, apply_ite Prod.fst, ite_self, implies_true,
        State.abortShots_canon, hc]; done)
    | split
    | intro _
    | (dsimp +zetaHave only))

theorem State.imGo_canon (s : State) (hc : s.Canon) : (State.imGo s).Canon := by
  unfold State.imGo
  repeat' (first
    | with_reducible assumption
    | (simp +zetaHave (maxDischargeDepth := 60) only [State.canon_mk, State.canon_eta, apply_ite State.Canon, apply_ite Prod.fst, ite_self, implies_true,
        State.shotEdge_canon, hc]; done)
    | split
    | intro _
    | (dsimp +zetaHave only))

theorem State.imMode_canon (s : State) (on : Bool) (hc : s.Canon) : (State.imMode s on).Canon := by
  unfold State.imMode
  repeat' (first
    | with_reducible assumption
    | (simp +zetaHave (maxDischargeDepth := 60) only [State.canon_mk, State.canon_eta, apply_ite State.Canon, apply_ite Prod.fst, ite_self, implies_true,
        State.wrFld_canon, State.openGate_canon, hc]; done)
    | split
    | intro _
    | (dsimp +zetaHave only))

theorem State.imCtlWrite_canon (s : State) (v : Nat) (hc : s.Canon) : (State.imCtlWrite s v).Canon := by
  unfold State.imCtlWrite
  repeat' (first
    | with_reducible assumption
    | (simp +zetaHave (maxDischargeDepth := 60) only [State.canon_mk, State.canon_eta, apply_ite State.Canon, apply_ite Prod.fst, ite_self, implies_true,
        State.wrFld_canon, State.imArm_canon, State.imAbort_canon, State.imGo_canon, State.imMode_canon, hc]; done)
    | split
    | intro _
    | (dsimp +zetaHave only))

theorem State.timedStart_canon (s : State) (upTo : Nat) (hc : s.Canon) : (State.timedStart s upTo).Canon := by
  unfold State.timedStart
  repeat' (first
    | with_reducible assumption
    | (simp +zetaHave (maxDischargeDepth := 60) only [State.canon_mk, State.canon_eta, apply_ite State.Canon, apply_ite Prod.fst, ite_self, implies_true,
        State.shotEdge_canon, State.upTo_canon, hc]; done)
    | split
    | intro _
    | (dsimp +zetaHave only))

theorem State.claimEngine_canon (s : State) (p : Nat) (n : Nat) (hc : s.Canon) : (State.claimEngine s p n).Canon := by
  unfold State.claimEngine
  repeat' (first
    | with_reducible assumption
    | (simp +zetaHave (maxDischargeDepth := 60) only [State.canon_mk, State.canon_eta, apply_ite State.Canon, apply_ite Prod.fst, ite_self, implies_true,
        State.modPort_canon, State.startMeas_canon, hc]; done)
    | split
    | intro _
    | (dsimp +zetaHave only))

theorem State.calibrateFinish_canon (s : State) (hc : s.Canon) : (State.calibrateFinish s).Canon := by
  unfold State.calibrateFinish
  repeat' (first
    | with_reducible assumption
    | (simp +zetaHave (maxDischargeDepth := 60) only [State.canon_mk, State.canon_eta, apply_ite State.Canon, apply_ite Prod.fst, ite_self, implies_true,
        State.modPort_canon, hc]; done)
    | split
    | intro _
    | (dsimp +zetaHave only))

theorem State.calFrame_canon (s : State) (hc : s.Canon) : (State.calFrame s).Canon := by
  unfold State.calFrame
  repeat' (first
    | with_reducible assumption
    | (simp +zetaHave (maxDischargeDepth := 60) only [State.canon_mk, State.canon_eta, apply_ite State.Canon, apply_ite Prod.fst, ite_self, implies_true,
        State.xsend_canon, hc]; done)
    | split
    | intro _
    | (dsimp +zetaHave only))

theorem State.setZc_canon (s : State) (z : ZcUnit) (hc : s.Canon) : (State.setZc s z).Canon := by
  unfold State.setZc
  repeat' (first
    | with_reducible assumption
    | (simp +zetaHave (maxDischargeDepth := 60) only [State.canon_mk, State.canon_eta, apply_ite State.Canon, apply_ite Prod.fst, ite_self, implies_true,
        hc]; done)
    | split
    | intro _
    | (dsimp +zetaHave only))

theorem State.zcTimeoutEnd_canon (s : State) (hc : s.Canon) : (State.zcTimeoutEnd s).Canon := by
  unfold State.zcTimeoutEnd
  repeat' (first
    | with_reducible assumption
    | (simp +zetaHave (maxDischargeDepth := 60) only [State.canon_mk, State.canon_eta, apply_ite State.Canon, apply_ite Prod.fst, ite_self, implies_true,
        State.setZc_canon, hc]; done)
    | split
    | intro _
    | (dsimp +zetaHave only))

theorem State.zcTimeout_canon (s : State) (now : Nat) (hc : s.Canon) : (State.zcTimeout s now).Canon := by
  unfold State.zcTimeout
  repeat' (first
    | with_reducible assumption
    | (simp +zetaHave (maxDischargeDepth := 60) only [State.canon_mk, State.canon_eta, apply_ite State.Canon, apply_ite Prod.fst, ite_self, implies_true,
        State.zcTimeoutEnd_canon, hc]; done)
    | split
    | intro _
    | (dsimp +zetaHave only))

theorem State.zcEvent_canon (s : State) (src : Nat) (falling : Bool) (cyc : Nat) (fine : Nat) (hc : s.Canon) : (State.zcEvent s src falling cyc fine).Canon := by
  unfold State.zcEvent
  repeat' (first
    | with_reducible assumption
    | (simp +zetaHave (maxDischargeDepth := 60) only [State.canon_mk, State.canon_eta, apply_ite State.Canon, apply_ite Prod.fst, ite_self, implies_true,
        State.setZc_canon, State.zcTimeoutEnd_canon, hc]; done)
    | split
    | intro _
    | (dsimp +zetaHave only))

theorem State.zcArm_canon (s : State) (hc : s.Canon) : (State.zcArm s).Canon := by
  unfold State.zcArm
  repeat' (first
    | with_reducible assumption
    | (simp +zetaHave (maxDischargeDepth := 60) only [State.canon_mk, State.canon_eta, apply_ite State.Canon, apply_ite Prod.fst, ite_self, implies_true,
        State.setZc_canon, State.zcEvent_canon, hc]; done)
    | split
    | intro _
    | (dsimp +zetaHave only))

theorem State.zcStart_canon (s : State) (hc : s.Canon) : (State.zcStart s).Canon := by
  unfold State.zcStart
  repeat' (first
    | with_reducible assumption
    | (simp +zetaHave (maxDischargeDepth := 60) only [State.canon_mk, State.canon_eta, apply_ite State.Canon, apply_ite Prod.fst, ite_self, implies_true,
        State.setZc_canon, State.zcArm_canon, hc]; done)
    | split
    | intro _
    | (dsimp +zetaHave only))

theorem State.zcClr_canon (s : State) (hc : s.Canon) : (State.zcClr s).Canon := by
  unfold State.zcClr
  repeat' (first
    | with_reducible assumption
    | (simp +zetaHave (maxDischargeDepth := 60) only [State.canon_mk, State.canon_eta, apply_ite State.Canon, apply_ite Prod.fst, ite_self, implies_true,
        State.setZc_canon, hc]; done)
    | split
    | intro _
    | (dsimp +zetaHave only))

theorem State.zcCtlWrite_canon (s : State) (v : Nat) (hc : s.Canon) : (State.zcCtlWrite s v).Canon := by
  unfold State.zcCtlWrite
  repeat' (first
    | with_reducible assumption
    | (simp +zetaHave (maxDischargeDepth := 60) only [State.canon_mk, State.canon_eta, apply_ite State.Canon, apply_ite Prod.fst, ite_self, implies_true,
        State.wr_canon, State.zcStart_canon, State.zcClr_canon, hc]; done)
    | split
    | intro _
    | (dsimp +zetaHave only))

theorem State.pinEdge_canon (s : State) (pin : Nat) (falling : Bool) (e : Edge) (hc : s.Canon) : (State.pinEdge s pin falling e).Canon := by
  unfold State.pinEdge
  repeat' (first
    | with_reducible assumption
    | (simp +zetaHave (maxDischargeDepth := 60) only [State.canon_mk, State.canon_eta, apply_ite State.Canon, apply_ite Prod.fst, ite_self, implies_true,
        State.count_canon, State.atCyc_canon, State.pulseFeedback_canon, State.shotEdge_canon, State.close_canon,
        State.zcEvent_canon, hc]; done)
    | split
    | intro _
    | (dsimp +zetaHave only))

theorem State.rampFails_canon (s : State) (c : Nat) (hc : s.Canon) : (State.rampFails s c).Canon := by
  unfold State.rampFails
  repeat' (first
    | with_reducible assumption
    | (simp +zetaHave (maxDischargeDepth := 60) only [State.canon_mk, State.canon_eta, apply_ite State.Canon, apply_ite Prod.fst, ite_self, implies_true,
        apply_ite Rx.s, Rx.drop_s, State.raise_canon, hc]; done)
    | split
    | intro _
    | (dsimp +zetaHave only))

theorem State.imCalCfgWrite_canon (s : State) (v : Nat) (hc : s.Canon) : (State.imCalCfgWrite s v).Canon := by
  unfold State.imCalCfgWrite
  repeat' (first
    | with_reducible assumption
    | (simp +zetaHave (maxDischargeDepth := 60) only [State.canon_mk, State.canon_eta, apply_ite State.Canon, apply_ite Prod.fst, ite_self, implies_true,
        State.wr_canon, hc]; done)
    | split
    | intro _
    | (dsimp +zetaHave only))

theorem State.imBoundary_canon (s : State) (hc : s.Canon) : (State.imBoundary s).Canon := by
  unfold State.imBoundary
  repeat' (first
    | with_reducible assumption
    | (simp +zetaHave (maxDischargeDepth := 60) only [State.canon_mk, State.canon_eta, apply_ite State.Canon, apply_ite Prod.fst, ite_self, implies_true,
        State.count_canon, State.closeWindows_canon, State.shotEdge_canon, State.timedStart_canon,
        State.calFrame_canon, State.zcTimeout_canon, State.zcEvent_canon, State.shotTime_canon, hc]; done)
    | split
    | intro _
    | (dsimp +zetaHave only))

theorem State.takeClocks_canon (s : State) (l : List PortEdge) (hc : s.Canon) : (State.takeClocks s l).Canon := by
  unfold State.takeClocks
  repeat' (first
    | with_reducible assumption
    | (simp +zetaHave (maxDischargeDepth := 60) only [State.canon_mk, State.canon_eta, apply_ite State.Canon, apply_ite Prod.fst, ite_self, implies_true,
        hc]; done)
    | split
    | intro _
    | (dsimp +zetaHave only))

theorem State.rampsFail_canon (s : State) (l : List RampCal) (hc : s.Canon) : (State.rampsFail s l).Canon := by
  unfold State.rampsFail
  repeat' (first
    | with_reducible assumption
    | (simp +zetaHave +contextual (maxDischargeDepth := 60) only [State.canon_mk, State.canon_eta, apply_ite State.Canon, apply_ite Prod.fst, ite_self, implies_true,
        State.each_canon, State.rampFails_canon, hc]; done)
    | split
    | intro _
    | (dsimp +zetaHave only)
    | refine State.each_canon _ _ _ ?_ (fun _ _ hc => ?_))

theorem State.latchStat_canon (s : State) (m : Master) (k : Nat) (hc : s.Canon) : (State.latchStat s m k).Canon := by
  unfold State.latchStat
  repeat' (first
    | with_reducible assumption
    | (simp +zetaHave (maxDischargeDepth := 60) only [State.canon_mk, State.canon_eta, apply_ite State.Canon, apply_ite Prod.fst, ite_self, implies_true,
        hc]; done)
    | split
    | intro _
    | (dsimp +zetaHave only))

theorem State.popRaw_canon (s : State) (m : Master) (hc : s.Canon) : (State.popRaw s m).Canon := by
  unfold State.popRaw
  repeat' (first
    | with_reducible assumption
    | (simp +zetaHave (maxDischargeDepth := 60) only [State.canon_mk, State.canon_eta, apply_ite State.Canon, apply_ite Prod.fst, ite_self, implies_true,
        hc]; done)
    | split
    | intro _
    | (dsimp +zetaHave only))

end Sys2Proof.Machine
end

