-- ==== Sys2Proof/Laws/CanonSeq.lean ====
section
/-! SUPPORT. Sys2Proof/Laws/CanonSeq.lean: every operation of Machine/Seq.lean keeps the tables of the state in canonical
form. -/

set_option linter.all false
set_option Elab.async false

namespace Sys2Proof.Machine
open Sys2Proof.Config
set_option linter.unusedSimpArgs false

theorem State.setSq_canon (s : State) (v : SeqUnit) :
    (s.setSq v).Canon = Cells s.cnt s.regs s.ports s.od.slots v.store s.cp.mem s.clk.cyc s.td.steps s.cp.credits := (rfl)

theorem State.setG_canon (s : State) (k : Nat) (v : Nat) (agreed : Bool) (hc : s.Canon) : (State.setG s k v agreed).Canon := by
  unfold State.setG
  repeat' (first
    | with_reducible assumption
    | (simp +zetaHave (maxDischargeDepth := 60) only [State.canon_mk, State.canon_eta, apply_ite State.Canon, apply_ite Prod.fst, ite_self, implies_true,
        State.setSq_canon, hc]; done)
    | split
    | intro _
    | (dsimp +zetaHave only))

theorem State.putWord_canon (s : State) (i w : Nat) (hc : s.Canon) : (s.putWord i w).Canon :=
  { hc with store := Map.wf_set _ _ _ _ hc.store }

theorem State.storeWrite_canon (s : State) (i : Nat) (w : Nat) (hc : s.Canon) : (State.storeWrite s i w).Canon := by
  unfold State.storeWrite
  repeat' (first
    | with_reducible assumption
    | (simp +zetaHave (maxDischargeDepth := 60) only [State.canon_mk, State.canon_eta, apply_ite State.Canon, apply_ite Prod.fst, ite_self, implies_true,
        State.count_canon, State.putWord_canon, hc]; done)
    | split
    | intro _
    | (dsimp +zetaHave only))

theorem State.digestSeed_canon (s : State) (hc : s.Canon) : (State.digestSeed s).Canon := by
  unfold State.digestSeed
  repeat' (first
    | with_reducible assumption
    | (simp +zetaHave (maxDischargeDepth := 60) only [State.canon_mk, State.canon_eta, apply_ite State.Canon, apply_ite Prod.fst, ite_self, implies_true,
        State.setSq_canon, hc]; done)
    | split
    | intro _
    | (dsimp +zetaHave only))

theorem State.record_canon (s : State) (op : Nat) (v : Nat) (hc : s.Canon) : (State.record s op v).Canon := by
  unfold State.record
  repeat' (first
    | with_reducible assumption
    | (simp +zetaHave (maxDischargeDepth := 60) only [State.canon_mk, State.canon_eta, apply_ite State.Canon, apply_ite Prod.fst, ite_self, implies_true,
        State.setSq_canon, hc]; done)
    | split
    | intro _
    | (dsimp +zetaHave only))

theorem State.cancelLaunches_canon (s : State) (hc : s.Canon) : (State.cancelLaunches s).Canon := by
  unfold State.cancelLaunches
  repeat' (first
    | with_reducible assumption
    | (simp +zetaHave +contextual (maxDischargeDepth := 60) only [State.canon_mk, State.canon_eta, apply_ite State.Canon, apply_ite Prod.fst, ite_self, implies_true,
        State.foldl_canon, State.foldl_fst_canon, State.sendDown_canon, hc]; done)
    | split
    | intro _
    | (dsimp +zetaHave only)
    | refine State.foldl_canon _ _ _ ?_ (fun _ _ hc => ?_)
    | refine State.foldl_fst_canon _ _ _ ?_ (fun _ _ hc => ?_))

theorem State.programEnds_canon (s : State) (st : SeqState) (code : Nat) (words : Bool) (hc : s.Canon) : (State.programEnds s st code words).Canon := by
  unfold State.programEnds
  repeat' (first
    | with_reducible assumption
    | (simp +zetaHave (maxDischargeDepth := 60) only [State.canon_mk, State.canon_eta, apply_ite State.Canon, apply_ite Prod.fst, ite_self, implies_true,
        State.cancelArmed_canon, State.setSq_canon, State.cancelLaunches_canon, hc]; done)
    | split
    | intro _
    | (dsimp +zetaHave only))

theorem State.abortProgram_canon (s : State) (hc : s.Canon) : (State.abortProgram s).Canon := by
  unfold State.abortProgram
  repeat' (first
    | with_reducible assumption
    | (simp +zetaHave +contextual (maxDischargeDepth := 60) only [State.canon_mk, State.canon_eta, apply_ite State.Canon, apply_ite Prod.fst, ite_self, implies_true,
        State.foldl_canon, State.foldl_fst_canon, State.abortReq_canon, hc]; done)
    | split
    | intro _
    | (dsimp +zetaHave only)
    | refine State.foldl_canon _ _ _ ?_ (fun _ _ hc => ?_)
    | refine State.foldl_fst_canon _ _ _ ?_ (fun _ _ hc => ?_))

theorem State.seqFails_canon (s : State) (st : SeqState) (code : Nat) (hc : s.Canon) : (State.seqFails s st code).Canon := by
  unfold State.seqFails
  repeat' (first
    | with_reducible assumption
    | (simp +zetaHave (maxDischargeDepth := 60) only [State.canon_mk, State.canon_eta, apply_ite State.Canon, apply_ite Prod.fst, ite_self, implies_true,
        apply_ite SqOut.s, State.raise_canon, State.programEnds_canon, State.abortProgram_canon, hc]; done)
    | split
    | intro _
    | (dsimp +zetaHave only))

theorem State.seqFault_canon (s : State) (code : Nat) (hc : s.Canon) : (State.seqFault s code).Canon := by
  unfold State.seqFault
  repeat' (first
    | with_reducible assumption
    | (simp +zetaHave (maxDischargeDepth := 60) only [State.canon_mk, State.canon_eta, apply_ite State.Canon, apply_ite Prod.fst, ite_self, implies_true,
        State.seqFails_canon, hc]; done)
    | split
    | intro _
    | (dsimp +zetaHave only))

theorem State.castVote_canon (s : State) (step : Nat) (dig : Nat) (hc : s.Canon) : (State.castVote s step dig).1.Canon := by
  unfold State.castVote
  repeat' (first
    | with_reducible assumption
    | (simp +zetaHave (maxDischargeDepth := 60) only [State.canon_mk, State.canon_eta, apply_ite State.Canon, apply_ite Prod.fst, ite_self, implies_true,
        State.count_canon, State.contributeHeld_canon, State.setSq_canon, State.contribute_canon, hc]; done)
    | split
    | intro _
    | (dsimp +zetaHave only))

theorem State.gangStepDone_canon (s : State) (step : Nat) (hc : s.Canon) : (State.gangStepDone s step).Canon := by
  unfold State.gangStepDone
  repeat' (first
    | with_reducible assumption
    | (simp +zetaHave (maxDischargeDepth := 60) only [State.canon_mk, State.canon_eta, apply_ite State.Canon, apply_ite Prod.fst, ite_self, implies_true,
        State.setSq_canon, hc]; done)
    | split
    | intro _
    | (dsimp +zetaHave only))

theorem State.gangTold_canon (s : State) (hc : s.Canon) : (State.gangTold s).Canon := by
  unfold State.gangTold
  repeat' (first
    | with_reducible assumption
    | (simp +zetaHave (maxDischargeDepth := 60) only [State.canon_mk, State.canon_eta, apply_ite State.Canon, apply_ite Prod.fst, ite_self, implies_true,
        State.setSq_canon, State.seqFails_canon, hc]; done)
    | split
    | intro _
    | (dsimp +zetaHave only))

theorem State.gangJudge_canon (s : State) (hc : s.Canon) : (State.gangJudge s).Canon := by
  unfold State.gangJudge
  repeat' (first
    | with_reducible assumption
    | (simp +zetaHave (maxDischargeDepth := 60) only [State.canon_mk, State.canon_eta, apply_ite State.Canon, apply_ite Prod.fst, ite_self, implies_true,
        State.setSq_canon, State.seqFails_canon, State.castVote_canon, State.toMembers_canon, State.gangStepDone_canon,
        hc]; done)
    | split
    | intro _
    | (dsimp +zetaHave only))

theorem State.gangDigest_canon (s : State) (pos : Nat) (step : Nat) (dig : Nat) (hc : s.Canon) : (State.gangDigest s pos step dig).Canon := by
  unfold State.gangDigest
  repeat' (first
    | with_reducible assumption
    | (simp +zetaHave (maxDischargeDepth := 60) only [State.canon_mk, State.canon_eta, apply_ite State.Canon, apply_ite Prod.fst, ite_self, implies_true,
        State.setSq_canon, State.gangJudge_canon, hc]; done)
    | split
    | intro _
    | (dsimp +zetaHave only))

theorem State.verdict_canon (s : State) (a : Applied) (hc : s.Canon) : (State.verdict s a).Canon := by
  unfold State.verdict
  repeat' (first
    | with_reducible assumption
    | (simp +zetaHave (maxDischargeDepth := 60) only [State.canon_mk, State.canon_eta, apply_ite State.Canon, apply_ite Prod.fst, ite_self, implies_true,
        State.count_canon, State.setSq_canon, State.seqFails_canon, hc]; done)
    | split
    | intro _
    | (dsimp +zetaHave only))

theorem State.countReport_canon (s : State) (r : LaunchReport) (hc : s.Canon) : (State.countReport s r).Canon := by
  unfold State.countReport
  repeat' (first
    | with_reducible assumption
    | (simp +zetaHave (maxDischargeDepth := 60) only [State.canon_mk, State.canon_eta, apply_ite State.Canon, apply_ite Prod.fst, ite_self, implies_true,
        State.count_canon, State.setSq_canon, hc]; done)
    | split
    | intro _
    | (dsimp +zetaHave only))

theorem State.takeReport_canon (s : State) (r : LaunchReport) (hc : s.Canon) : (State.takeReport s r).Canon := by
  unfold State.takeReport
  repeat' (first
    | with_reducible assumption
    | (simp +zetaHave (maxDischargeDepth := 60) only [State.canon_mk, State.canon_eta, apply_ite State.Canon, apply_ite Prod.fst, ite_self, implies_true,
        State.setSq_canon, State.countReport_canon, hc]; done)
    | split
    | intro _
    | (dsimp +zetaHave only))

theorem State.nextReport_canon (s : State) (hc : s.Canon) : (State.nextReport s).Canon := by
  unfold State.nextReport
  repeat' (first
    | with_reducible assumption
    | (simp +zetaHave (maxDischargeDepth := 60) only [State.canon_mk, State.canon_eta, apply_ite State.Canon, apply_ite Prod.fst, ite_self, implies_true,
        State.takeReport_canon, hc]; done)
    | split
    | intro _
    | (dsimp +zetaHave only))

theorem State.drainReports_canon (s : State) (hc : s.Canon) : (State.drainReports s).Canon := by
  unfold State.drainReports
  repeat' (first
    | with_reducible assumption
    | (simp +zetaHave +contextual (maxDischargeDepth := 60) only [State.canon_mk, State.canon_eta, apply_ite State.Canon, apply_ite Prod.fst, ite_self, implies_true,
        State.foldl_canon, State.foldl_fst_canon, State.takeReport_canon, hc]; done)
    | split
    | intro _
    | (dsimp +zetaHave only)
    | refine State.foldl_canon _ _ _ ?_ (fun _ _ hc => ?_)
    | refine State.foldl_fst_canon _ _ _ ?_ (fun _ _ hc => ?_))

theorem State.reportsMissing_canon (s : State) (n : Nat) (hc : s.Canon) : (State.reportsMissing s n).Canon := by
  unfold State.reportsMissing
  repeat' (first
    | with_reducible assumption
    | (simp +zetaHave (maxDischargeDepth := 60) only [State.canon_mk, State.canon_eta, apply_ite State.Canon, apply_ite Prod.fst, ite_self, implies_true,
        State.count_canon, State.raise_canon, State.setSq_canon, hc]; done)
    | split
    | intro _
    | (dsimp +zetaHave only))

theorem State.armOne_canon (s : State) (tap : Nat) (line : Nat) (target : Int) (hc : s.Canon) : (State.armOne s tap line target).Canon := by
  unfold State.armOne
  repeat' (first
    | with_reducible assumption
    | (simp +zetaHave (maxDischargeDepth := 60) only [State.canon_mk, State.canon_eta, apply_ite State.Canon, apply_ite Prod.fst, ite_self, implies_true,
        State.count_canon, State.raise_canon, State.evt_canon, State.sendDown_canon, State.setSq_canon,
        State.countReport_canon, hc]; done)
    | split
    | intro _
    | (dsimp +zetaHave only))

theorem State.armList_canon (s : State) (taps : List Nat) (line : Nat) (target : Int) (hc : s.Canon) :
    (s.armList taps line target).1.Canon := by
  induction taps generalizing s with
  | nil => exact hc
  | cons t l ih =>
    unfold State.armList
    split
    · exact hc
    · exact ih _ (State.armOne_canon _ _ _ _ hc)

theorem State.programStart_canon (s : State) (r : StartReq) (step : Nat) (nc : Nat) (hc : s.Canon) : (State.programStart s r step nc).Canon := by
  unfold State.programStart
  repeat' (first
    | with_reducible assumption
    | (simp +zetaHave +contextual (maxDischargeDepth := 60) only [State.canon_mk, State.canon_eta, apply_ite State.Canon, apply_ite Prod.fst, ite_self, implies_true,
        State.foldl_canon, State.foldl_fst_canon, State.setSq_canon, State.digestSeed_canon, hc]; done)
    | split
    | intro _
    | (dsimp +zetaHave only)
    | refine State.foldl_canon _ _ _ ?_ (fun _ _ hc => ?_)
    | refine State.foldl_fst_canon _ _ _ ?_ (fun _ _ hc => ?_))

theorem State.startBoundary_canon (s : State) (nc : Nat) (hc : s.Canon) : (State.startBoundary s nc).Canon := by
  unfold State.startBoundary
  repeat' (first
    | with_reducible assumption
    | (simp +zetaHave (maxDischargeDepth := 60) only [State.canon_mk, State.canon_eta, apply_ite State.Canon, apply_ite Prod.fst, ite_self, implies_true,
        State.setSq_canon, State.programStart_canon, hc]; done)
    | split
    | intro _
    | (dsimp +zetaHave only))

theorem State.stopBoundary_canon (s : State) (nc : Nat) (hc : s.Canon) : (State.stopBoundary s nc).Canon := by
  unfold State.stopBoundary
  repeat' (first
    | with_reducible assumption
    | (simp +zetaHave (maxDischargeDepth := 60) only [State.canon_mk, State.canon_eta, apply_ite State.Canon, apply_ite Prod.fst, ite_self, implies_true,
        State.setSq_canon, State.programEnds_canon, hc]; done)
    | split
    | intro _
    | (dsimp +zetaHave only))

theorem State.dueEvent_canon (s : State) (kind nc : Nat) {q : EventRec × State} (h : s.dueEvent kind nc = some q) (hc : s.Canon) :
    q.2.Canon := by
  unfold State.dueEvent at h
  obtain ⟨e, -, rfl⟩ := Option.map_eq_some_iff.mp h
  exact hc

theorem State.eventStop_canon (s : State) (nc : Nat) (stopped : Bool) (hc : s.Canon) : (s.eventStop nc stopped).Canon := by
  unfold State.eventStop
  split
  · exact hc
  · rename_i e t h
    have ht := State.dueEvent_canon s _ _ h hc
    (repeat' split) <;> first | exact ht | exact State.count_canon _ _ _ ht | exact State.programEnds_canon _ _ _ ht | exact State.programEnds_canon _ _ _ _ ht

theorem State.eventStart_canon (s : State) (nc : Nat) (hc : s.Canon) : (s.eventStart nc).Canon := by
  unfold State.eventStart
  split
  · exact hc
  · rename_i e t h
    have ht := State.dueEvent_canon s _ _ h hc
    (repeat' split) <;> first | exact ht | exact State.count_canon _ _ _ ht | simp (maxDischargeDepth := 60) only [State.programStart_canon, State.count_canon, ht]

theorem State.eventStops_canon (s : State) (nc : Nat) (stopped : Bool) (hc : s.Canon) : (State.eventStops s nc stopped).Canon := by
  unfold State.eventStops
  repeat' (first
    | with_reducible assumption
    | (simp +zetaHave +contextual (maxDischargeDepth := 60) only [State.canon_mk, State.canon_eta, apply_ite State.Canon, apply_ite Prod.fst, ite_self, implies_true,
        State.each_canon, State.eventStop_canon, hc]; done)
    | split
    | intro _
    | (dsimp +zetaHave only)
    | refine State.each_canon _ _ _ ?_ (fun _ _ hc => ?_))

theorem State.eventStarts_canon (s : State) (nc : Nat) (hc : s.Canon) : (State.eventStarts s nc).Canon := by
  unfold State.eventStarts
  repeat' (first
    | with_reducible assumption
    | (simp +zetaHave +contextual (maxDischargeDepth := 60) only [State.canon_mk, State.canon_eta, apply_ite State.Canon, apply_ite Prod.fst, ite_self, implies_true,
        State.each_canon, State.eventStart_canon, hc]; done)
    | split
    | intro _
    | (dsimp +zetaHave only)
    | refine State.each_canon _ _ _ ?_ (fun _ _ hc => ?_))

theorem State.retireAt_canon (s : State) (pc : Nat) (hc : s.Canon) : (State.retireAt s pc).Canon := by
  unfold State.retireAt
  repeat' (first
    | with_reducible assumption
    | (simp +zetaHave (maxDischargeDepth := 60) only [State.canon_mk, State.canon_eta, apply_ite State.Canon, apply_ite Prod.fst, ite_self, implies_true,
        State.evt_canon, State.setSq_canon, hc]; done)
    | split
    | intro _
    | (dsimp +zetaHave only))

theorem State.runInstr_canon (s : State) (op : Nat) (m : Option (State → SqOut)) (f : SeqArgs)
    (h : ∀ g, m = some g → ∀ t, t.Canon → (g t).s.Canon) (hc : s.Canon) : (s.runInstr op m f).1.Canon := by
  unfold State.runInstr
  dsimp +zetaHave only
  repeat' split
  all_goals first
    | (simp (maxDischargeDepth := 60) only [State.seqFault_canon, State.retireAt_canon, State.setSq_canon,
        State.openGate_canon, State.busy_canon, State.canon_eta, hc]; done)
    | (simp (maxDischargeDepth := 60) only [State.seqFault_canon, State.retireAt_canon, State.setSq_canon,
        State.openGate_canon, State.busy_canon, State.canon_eta, h _ rfl, hc]; done)

theorem State.stall_canon (s : State) (hc : s.Canon) : (State.stall s).s.Canon := by
  unfold State.stall
  repeat' (first
    | with_reducible assumption
    | (simp +zetaHave (maxDischargeDepth := 60) only [State.canon_mk, State.canon_eta, apply_ite State.Canon, apply_ite Prod.fst, ite_self, implies_true,
        apply_ite SqOut.s, State.count_canon, State.setSq_canon, hc]; done)
    | split
    | intro _
    | (dsimp +zetaHave only))

theorem State.seqHorizon_canon (s : State) (nc : Nat) (hc : s.Canon) : (State.seqHorizon s nc).Canon := by
  unfold State.seqHorizon
  repeat' (first
    | with_reducible assumption
    | (simp +zetaHave (maxDischargeDepth := 60) only [State.canon_mk, State.canon_eta, apply_ite State.Canon, apply_ite Prod.fst, ite_self, implies_true,
        State.setSq_canon, hc]; done)
    | split
    | intro _
    | (dsimp +zetaHave only))

theorem State.seqUnderlay_canon (s : State) (hc : s.Canon) : (State.seqUnderlay s).Canon := by
  unfold State.seqUnderlay
  repeat' (first
    | with_reducible assumption
    | (simp +zetaHave (maxDischargeDepth := 60) only [State.canon_mk, State.canon_eta, apply_ite State.Canon, apply_ite Prod.fst, ite_self, implies_true,
        State.freezesDropped_canon, State.setSq_canon, State.programEnds_canon, hc]; done)
    | split
    | intro _
    | (dsimp +zetaHave only))

theorem State.seqTimeStep_canon (s : State) (hc : s.Canon) : (State.seqTimeStep s).Canon := by
  unfold State.seqTimeStep
  repeat' (first
    | with_reducible assumption
    | (simp +zetaHave (maxDischargeDepth := 60) only [State.canon_mk, State.canon_eta, apply_ite State.Canon, apply_ite Prod.fst, ite_self, implies_true,
        State.programEnds_canon, hc]; done)
    | split
    | intro _
    | (dsimp +zetaHave only))

theorem State.seqReset_canon (s : State) (hc : s.Canon) : s.seqReset.Canon :=
  { hc with store := rfl }

end Sys2Proof.Machine
end

