-- ==== Sys2Proof/Laws/CanonProgram.lean ====
section
/-! SUPPORT. Sys2Proof/Laws/CanonProgram.lean: every operation of Machine/Program.lean keeps the tables of the state in canonical
form. -/

set_option linter.all false
set_option Elab.async false

namespace Sys2Proof.Machine
open Sys2Proof.Config
set_option linter.unusedSimpArgs false

theorem State.gives_canon (s : State) (d : Nat) (v : Nat) (agreed : Bool) (hc : s.Canon) : (State.gives s d v agreed).s.Canon := by
  unfold State.gives
  repeat' (first
    | with_reducible assumption
    | (simp +zetaHave (maxDischargeDepth := 60) only [State.canon_mk, State.canon_eta, apply_ite State.Canon, apply_ite Prod.fst, ite_self, implies_true,
        apply_ite SqOut.s, State.setG_canon, hc]; done)
    | split
    | intro _
    | (dsimp +zetaHave only))

theorem State.alu_canon (s : State) (f : SeqArgs) (v : Nat) (hc : s.Canon) : (State.alu s f v).s.Canon := by
  unfold State.alu
  repeat' (first
    | with_reducible assumption
    | (simp +zetaHave (maxDischargeDepth := 60) only [State.canon_mk, State.canon_eta, apply_ite State.Canon, apply_ite Prod.fst, ite_self, implies_true,
        apply_ite SqOut.s, State.gives_canon, hc]; done)
    | split
    | intro _
    | (dsimp +zetaHave only))

theorem State.alu1_canon (s : State) (f : SeqArgs) (v : Nat) (hc : s.Canon) : (State.alu1 s f v).s.Canon := by
  unfold State.alu1
  repeat' (first
    | with_reducible assumption
    | (simp +zetaHave (maxDischargeDepth := 60) only [State.canon_mk, State.canon_eta, apply_ite State.Canon, apply_ite Prod.fst, ite_self, implies_true,
        apply_ite SqOut.s, State.gives_canon, hc]; done)
    | split
    | intro _
    | (dsimp +zetaHave only))

theorem sqNop_canon (x0 : SeqArgs) (x1 : Nat) (s : State) (hc : s.Canon) : (sqNop x0 x1 s).s.Canon := by
  unfold sqNop
  repeat' (first
    | with_reducible assumption
    | (simp +zetaHave (maxDischargeDepth := 60) only [State.canon_mk, State.canon_eta, apply_ite State.Canon, apply_ite Prod.fst, ite_self, implies_true,
        apply_ite SqOut.s, hc]; done)
    | split
    | intro _
    | (dsimp +zetaHave only))

theorem sqHalt_canon (x0 : SeqArgs) (x1 : Nat) (s : State) (hc : s.Canon) : (sqHalt x0 x1 s).s.Canon := by
  unfold sqHalt
  repeat' (first
    | with_reducible assumption
    | (simp +zetaHave (maxDischargeDepth := 60) only [State.canon_mk, State.canon_eta, apply_ite State.Canon, apply_ite Prod.fst, ite_self, implies_true,
        apply_ite SqOut.s, State.programEnds_canon, hc]; done)
    | split
    | intro _
    | (dsimp +zetaHave only))

theorem sqJmp_canon (f : SeqArgs) (x1 : Nat) (s : State) (hc : s.Canon) : (sqJmp f x1 s).s.Canon := by
  unfold sqJmp
  repeat' (first
    | with_reducible assumption
    | (simp +zetaHave (maxDischargeDepth := 60) only [State.canon_mk, State.canon_eta, apply_ite State.Canon, apply_ite Prod.fst, ite_self, implies_true,
        apply_ite SqOut.s, hc]; done)
    | split
    | intro _
    | (dsimp +zetaHave only))

theorem State.branch_canon (s : State) (op : Nat) (f : SeqArgs) (taken : Bool) (hc : s.Canon) : (State.branch s op f taken).s.Canon := by
  unfold State.branch
  repeat' (first
    | with_reducible assumption
    | (simp +zetaHave (maxDischargeDepth := 60) only [State.canon_mk, State.canon_eta, apply_ite State.Canon, apply_ite Prod.fst, ite_self, implies_true,
        apply_ite SqOut.s, State.record_canon, hc]; done)
    | split
    | intro _
    | (dsimp +zetaHave only))

theorem sqBr_canon (f : SeqArgs) (x1 : Nat) (s : State) (hc : s.Canon) : (sqBr f x1 s).s.Canon := by
  unfold sqBr
  repeat' (first
    | with_reducible assumption
    | (simp +zetaHave (maxDischargeDepth := 60) only [State.canon_mk, State.canon_eta, apply_ite State.Canon, apply_ite Prod.fst, ite_self, implies_true,
        apply_ite SqOut.s, State.branch_canon, hc]; done)
    | split
    | intro _
    | (dsimp +zetaHave only))

theorem sqBri_canon (f : SeqArgs) (x1 : Nat) (s : State) (hc : s.Canon) : (sqBri f x1 s).s.Canon := by
  unfold sqBri
  repeat' (first
    | with_reducible assumption
    | (simp +zetaHave (maxDischargeDepth := 60) only [State.canon_mk, State.canon_eta, apply_ite State.Canon, apply_ite Prod.fst, ite_self, implies_true,
        apply_ite SqOut.s, State.branch_canon, hc]; done)
    | split
    | intro _
    | (dsimp +zetaHave only))

theorem State.awaitRoom_canon (s : State) (hc : s.Canon) : (State.awaitRoom s).s.Canon := by
  unfold State.awaitRoom
  repeat' (first
    | with_reducible assumption
    | (simp +zetaHave (maxDischargeDepth := 60) only [State.canon_mk, State.canon_eta, apply_ite State.Canon, apply_ite Prod.fst, ite_self, implies_true,
        apply_ite SqOut.s, State.count_canon, State.setSq_canon, hc]; done)
    | split
    | intro _
    | (dsimp +zetaHave only))

theorem State.stepDone_canon (s : State) (step : Nat) (dig : Nat) (hc : s.Canon) : (State.stepDone s step dig).Canon := by
  unfold State.stepDone
  repeat' (first
    | with_reducible assumption
    | (simp +zetaHave (maxDischargeDepth := 60) only [State.canon_mk, State.canon_eta, apply_ite State.Canon, apply_ite Prod.fst, ite_self, implies_true,
        State.evt_canon, State.setSq_canon, State.digestSeed_canon, hc]; done)
    | split
    | intro _
    | (dsimp +zetaHave only))

theorem sqStepend_canon (x0 : SeqArgs) (x1 : Nat) (s : State) (hc : s.Canon) : (sqStepend x0 x1 s).s.Canon := by
  unfold sqStepend
  repeat' (first
    | with_reducible assumption
    | (simp +zetaHave (maxDischargeDepth := 60) only [State.canon_mk, State.canon_eta, apply_ite State.Canon, apply_ite Prod.fst, ite_self, implies_true,
        apply_ite SqOut.s, State.emit_canon, State.evt_canon, State.setSq_canon, State.digestSeed_canon,
        State.castVote_canon, State.gangJudge_canon, State.gangDigest_canon, State.stall_canon, State.stepDone_canon,
        State.awaitRoom_canon, hc]; done)
    | split
    | intro _
    | (dsimp +zetaHave only))

theorem sqWaitc_canon (f : SeqArgs) (nc : Nat) (s : State) (hc : s.Canon) : (sqWaitc f nc s).s.Canon := by
  unfold sqWaitc
  repeat' (first
    | with_reducible assumption
    | (simp +zetaHave (maxDischargeDepth := 60) only [State.canon_mk, State.canon_eta, apply_ite State.Canon, apply_ite Prod.fst, ite_self, implies_true,
        apply_ite SqOut.s, State.setSq_canon, State.record_canon, hc]; done)
    | split
    | intro _
    | (dsimp +zetaHave only))

theorem sqLi_canon (f : SeqArgs) (x1 : Nat) (s : State) (hc : s.Canon) : (sqLi f x1 s).s.Canon := by
  unfold sqLi
  repeat' (first
    | with_reducible assumption
    | (simp +zetaHave (maxDischargeDepth := 60) only [State.canon_mk, State.canon_eta, apply_ite State.Canon, apply_ite Prod.fst, ite_self, implies_true,
        apply_ite SqOut.s, State.gives_canon, hc]; done)
    | split
    | intro _
    | (dsimp +zetaHave only))

theorem sqLih_canon (f : SeqArgs) (x1 : Nat) (s : State) (hc : s.Canon) : (sqLih f x1 s).s.Canon := by
  unfold sqLih
  repeat' (first
    | with_reducible assumption
    | (simp +zetaHave (maxDischargeDepth := 60) only [State.canon_mk, State.canon_eta, apply_ite State.Canon, apply_ite Prod.fst, ite_self, implies_true,
        apply_ite SqOut.s, State.gives_canon, hc]; done)
    | split
    | intro _
    | (dsimp +zetaHave only))

theorem sqMov_canon (f : SeqArgs) (x1 : Nat) (s : State) (hc : s.Canon) : (sqMov f x1 s).s.Canon := by
  unfold sqMov
  repeat' (first
    | with_reducible assumption
    | (simp +zetaHave (maxDischargeDepth := 60) only [State.canon_mk, State.canon_eta, apply_ite State.Canon, apply_ite Prod.fst, ite_self, implies_true,
        apply_ite SqOut.s, State.alu1_canon, hc]; done)
    | split
    | intro _
    | (dsimp +zetaHave only))

theorem sqAdd_canon (f : SeqArgs) (x1 : Nat) (s : State) (hc : s.Canon) : (sqAdd f x1 s).s.Canon := by
  unfold sqAdd
  repeat' (first
    | with_reducible assumption
    | (simp +zetaHave (maxDischargeDepth := 60) only [State.canon_mk, State.canon_eta, apply_ite State.Canon, apply_ite Prod.fst, ite_self, implies_true,
        apply_ite SqOut.s, State.alu_canon, hc]; done)
    | split
    | intro _
    | (dsimp +zetaHave only))

theorem sqSub_canon (f : SeqArgs) (x1 : Nat) (s : State) (hc : s.Canon) : (sqSub f x1 s).s.Canon := by
  unfold sqSub
  repeat' (first
    | with_reducible assumption
    | (simp +zetaHave (maxDischargeDepth := 60) only [State.canon_mk, State.canon_eta, apply_ite State.Canon, apply_ite Prod.fst, ite_self, implies_true,
        apply_ite SqOut.s, State.alu_canon, hc]; done)
    | split
    | intro _
    | (dsimp +zetaHave only))

theorem sqAnd_canon (f : SeqArgs) (x1 : Nat) (s : State) (hc : s.Canon) : (sqAnd f x1 s).s.Canon := by
  unfold sqAnd
  repeat' (first
    | with_reducible assumption
    | (simp +zetaHave (maxDischargeDepth := 60) only [State.canon_mk, State.canon_eta, apply_ite State.Canon, apply_ite Prod.fst, ite_self, implies_true,
        apply_ite SqOut.s, State.alu_canon, hc]; done)
    | split
    | intro _
    | (dsimp +zetaHave only))

theorem sqOr_canon (f : SeqArgs) (x1 : Nat) (s : State) (hc : s.Canon) : (sqOr f x1 s).s.Canon := by
  unfold sqOr
  repeat' (first
    | with_reducible assumption
    | (simp +zetaHave (maxDischargeDepth := 60) only [State.canon_mk, State.canon_eta, apply_ite State.Canon, apply_ite Prod.fst, ite_self, implies_true,
        apply_ite SqOut.s, State.alu_canon, hc]; done)
    | split
    | intro _
    | (dsimp +zetaHave only))

theorem sqXor_canon (f : SeqArgs) (x1 : Nat) (s : State) (hc : s.Canon) : (sqXor f x1 s).s.Canon := by
  unfold sqXor
  repeat' (first
    | with_reducible assumption
    | (simp +zetaHave (maxDischargeDepth := 60) only [State.canon_mk, State.canon_eta, apply_ite State.Canon, apply_ite Prod.fst, ite_self, implies_true,
        apply_ite SqOut.s, State.alu_canon, hc]; done)
    | split
    | intro _
    | (dsimp +zetaHave only))

theorem sqAddi_canon (f : SeqArgs) (x1 : Nat) (s : State) (hc : s.Canon) : (sqAddi f x1 s).s.Canon := by
  unfold sqAddi
  repeat' (first
    | with_reducible assumption
    | (simp +zetaHave (maxDischargeDepth := 60) only [State.canon_mk, State.canon_eta, apply_ite State.Canon, apply_ite Prod.fst, ite_self, implies_true,
        apply_ite SqOut.s, State.alu1_canon, hc]; done)
    | split
    | intro _
    | (dsimp +zetaHave only))

theorem sqShl_canon (f : SeqArgs) (x1 : Nat) (s : State) (hc : s.Canon) : (sqShl f x1 s).s.Canon := by
  unfold sqShl
  repeat' (first
    | with_reducible assumption
    | (simp +zetaHave (maxDischargeDepth := 60) only [State.canon_mk, State.canon_eta, apply_ite State.Canon, apply_ite Prod.fst, ite_self, implies_true,
        apply_ite SqOut.s, State.alu1_canon, hc]; done)
    | split
    | intro _
    | (dsimp +zetaHave only))

theorem sqShr_canon (f : SeqArgs) (x1 : Nat) (s : State) (hc : s.Canon) : (sqShr f x1 s).s.Canon := by
  unfold sqShr
  repeat' (first
    | with_reducible assumption
    | (simp +zetaHave (maxDischargeDepth := 60) only [State.canon_mk, State.canon_eta, apply_ite State.Canon, apply_ite Prod.fst, ite_self, implies_true,
        apply_ite SqOut.s, State.alu1_canon, hc]; done)
    | split
    | intro _
    | (dsimp +zetaHave only))

theorem sqSar_canon (f : SeqArgs) (x1 : Nat) (s : State) (hc : s.Canon) : (sqSar f x1 s).s.Canon := by
  unfold sqSar
  repeat' (first
    | with_reducible assumption
    | (simp +zetaHave (maxDischargeDepth := 60) only [State.canon_mk, State.canon_eta, apply_ite State.Canon, apply_ite Prod.fst, ite_self, implies_true,
        apply_ite SqOut.s, State.alu1_canon, hc]; done)
    | split
    | intro _
    | (dsimp +zetaHave only))

theorem sqMul_canon (f : SeqArgs) (x1 : Nat) (s : State) (hc : s.Canon) : (sqMul f x1 s).s.Canon := by
  unfold sqMul
  repeat' (first
    | with_reducible assumption
    | (simp +zetaHave (maxDischargeDepth := 60) only [State.canon_mk, State.canon_eta, apply_ite State.Canon, apply_ite Prod.fst, ite_self, implies_true,
        apply_ite SqOut.s, State.alu_canon, hc]; done)
    | split
    | intro _
    | (dsimp +zetaHave only))

theorem sqMinu_canon (f : SeqArgs) (x1 : Nat) (s : State) (hc : s.Canon) : (sqMinu f x1 s).s.Canon := by
  unfold sqMinu
  repeat' (first
    | with_reducible assumption
    | (simp +zetaHave (maxDischargeDepth := 60) only [State.canon_mk, State.canon_eta, apply_ite State.Canon, apply_ite Prod.fst, ite_self, implies_true,
        apply_ite SqOut.s, State.alu_canon, hc]; done)
    | split
    | intro _
    | (dsimp +zetaHave only))

theorem sqMaxu_canon (f : SeqArgs) (x1 : Nat) (s : State) (hc : s.Canon) : (sqMaxu f x1 s).s.Canon := by
  unfold sqMaxu
  repeat' (first
    | with_reducible assumption
    | (simp +zetaHave (maxDischargeDepth := 60) only [State.canon_mk, State.canon_eta, apply_ite State.Canon, apply_ite Prod.fst, ite_self, implies_true,
        apply_ite SqOut.s, State.alu_canon, hc]; done)
    | split
    | intro _
    | (dsimp +zetaHave only))

theorem sqRdstep_canon (f : SeqArgs) (x1 : Nat) (s : State) (hc : s.Canon) : (sqRdstep f x1 s).s.Canon := by
  unfold sqRdstep
  repeat' (first
    | with_reducible assumption
    | (simp +zetaHave (maxDischargeDepth := 60) only [State.canon_mk, State.canon_eta, apply_ite State.Canon, apply_ite Prod.fst, ite_self, implies_true,
        apply_ite SqOut.s, State.gives_canon, hc]; done)
    | split
    | intro _
    | (dsimp +zetaHave only))

theorem sqRdcrs_canon (f : SeqArgs) (nc : Nat) (s : State) (hc : s.Canon) : (sqRdcrs f nc s).s.Canon := by
  unfold sqRdcrs
  repeat' (first
    | with_reducible assumption
    | (simp +zetaHave (maxDischargeDepth := 60) only [State.canon_mk, State.canon_eta, apply_ite State.Canon, apply_ite Prod.fst, ite_self, implies_true,
        apply_ite SqOut.s, State.gives_canon, hc]; done)
    | split
    | intro _
    | (dsimp +zetaHave only))

theorem sqRdte_canon (f : SeqArgs) (x1 : Nat) (s : State) (hc : s.Canon) : (sqRdte f x1 s).s.Canon := by
  unfold sqRdte
  repeat' (first
    | with_reducible assumption
    | (simp +zetaHave (maxDischargeDepth := 60) only [State.canon_mk, State.canon_eta, apply_ite State.Canon, apply_ite Prod.fst, ite_self, implies_true,
        apply_ite SqOut.s, State.gives_canon, hc]; done)
    | split
    | intro _
    | (dsimp +zetaHave only))

theorem sqRdlr_canon (f : SeqArgs) (x1 : Nat) (s : State) (hc : s.Canon) : (sqRdlr f x1 s).s.Canon := by
  unfold sqRdlr
  repeat' (first
    | with_reducible assumption
    | (simp +zetaHave (maxDischargeDepth := 60) only [State.canon_mk, State.canon_eta, apply_ite State.Canon, apply_ite Prod.fst, ite_self, implies_true,
        apply_ite SqOut.s, State.setSq_canon, State.gives_canon, hc]; done)
    | split
    | intro _
    | (dsimp +zetaHave only))

theorem sqLcfg_canon (f : SeqArgs) (x1 : Nat) (s : State) (hc : s.Canon) : (sqLcfg f x1 s).s.Canon := by
  unfold sqLcfg
  repeat' (first
    | with_reducible assumption
    | (simp +zetaHave (maxDischargeDepth := 60) only [State.canon_mk, State.canon_eta, apply_ite State.Canon, apply_ite Prod.fst, ite_self, implies_true,
        apply_ite SqOut.s, State.setSq_canon, hc]; done)
    | split
    | intro _
    | (dsimp +zetaHave only))

theorem sqArm_canon (f : SeqArgs) (x1 : Nat) (s : State) (hc : s.Canon) : (sqArm f x1 s).s.Canon := by
  unfold sqArm
  repeat' (first
    | with_reducible assumption
    | (simp +zetaHave (maxDischargeDepth := 60) only [State.canon_mk, State.canon_eta, apply_ite State.Canon, apply_ite Prod.fst, ite_self, implies_true,
        apply_ite SqOut.s, State.record_canon, State.armOne_canon, State.stall_canon, hc]; done)
    | split
    | intro _
    | (dsimp +zetaHave only))

theorem sqArmm_canon (f : SeqArgs) (x1 : Nat) (s : State) (hc : s.Canon) : (sqArmm f x1 s).s.Canon := by
  unfold sqArmm
  repeat' (first
    | with_reducible assumption
    | (simp +zetaHave +contextual (maxDischargeDepth := 60) only [State.canon_mk, State.canon_eta, apply_ite State.Canon, apply_ite Prod.fst, ite_self, implies_true,
        State.foldl_canon, State.foldl_fst_canon, apply_ite SqOut.s, State.setSq_canon, State.record_canon,
        State.armList_canon, State.stall_canon, hc]; done)
    | split
    | intro _
    | (dsimp +zetaHave only)
    | refine State.foldl_canon _ _ _ ?_ (fun _ _ hc => ?_)
    | refine State.foldl_fst_canon _ _ _ ?_ (fun _ _ hc => ?_))

theorem sqCancel_canon (f : SeqArgs) (x1 : Nat) (s : State) (hc : s.Canon) : (sqCancel f x1 s).s.Canon := by
  unfold sqCancel
  repeat' (first
    | with_reducible assumption
    | (simp +zetaHave +contextual (maxDischargeDepth := 60) only [State.canon_mk, State.canon_eta, apply_ite State.Canon, apply_ite Prod.fst, ite_self, implies_true,
        State.each_canon, apply_ite SqOut.s, State.sendDown_canon, State.record_canon, hc]; done)
    | split
    | intro _
    | (dsimp +zetaHave only)
    | refine State.each_canon _ _ _ ?_ (fun _ _ hc => ?_))

theorem sqPulse_canon (f : SeqArgs) (nc : Nat) (s : State) (hc : s.Canon) : (sqPulse f nc s).s.Canon := by
  unfold sqPulse
  repeat' (first
    | with_reducible assumption
    | (simp +zetaHave (maxDischargeDepth := 60) only [State.canon_mk, State.canon_eta, apply_ite State.Canon, apply_ite Prod.fst, ite_self, implies_true,
        apply_ite SqOut.s, State.addPulse_canon, State.record_canon, hc]; done)
    | split
    | intro _
    | (dsimp +zetaHave only))

theorem sqFrz_canon (f : SeqArgs) (nc : Nat) (s : State) (hc : s.Canon) : (sqFrz f nc s).s.Canon := by
  unfold sqFrz
  repeat' (first
    | with_reducible assumption
    | (simp +zetaHave (maxDischargeDepth := 60) only [State.canon_mk, State.canon_eta, apply_ite State.Canon, apply_ite Prod.fst, ite_self, implies_true,
        apply_ite SqOut.s, State.addFreeze_canon, State.record_canon, hc]; done)
    | split
    | intro _
    | (dsimp +zetaHave only))

theorem sqContrib_canon (f : SeqArgs) (x1 : Nat) (s : State) (hc : s.Canon) : (sqContrib f x1 s).s.Canon := by
  unfold sqContrib
  repeat' (first
    | with_reducible assumption
    | (simp +zetaHave (maxDischargeDepth := 60) only [State.canon_mk, State.canon_eta, apply_ite State.Canon, apply_ite Prod.fst, ite_self, implies_true,
        apply_ite SqOut.s, State.count_canon, State.contribute_canon, State.setSq_canon, State.record_canon,
        State.awaitRoom_canon, hc]; done)
    | split
    | intro _
    | (dsimp +zetaHave only))

theorem sqWaitr_canon (f : SeqArgs) (x1 : Nat) (s : State) (hc : s.Canon) : (sqWaitr f x1 s).s.Canon := by
  unfold sqWaitr
  repeat' (first
    | with_reducible assumption
    | (simp +zetaHave (maxDischargeDepth := 60) only [State.canon_mk, State.canon_eta, apply_ite State.Canon, apply_ite Prod.fst, ite_self, implies_true,
        apply_ite SqOut.s, State.record_canon, State.gives_canon, hc]; done)
    | split
    | intro _
    | (dsimp +zetaHave only))

theorem State.resultLane_canon (s : State) (o : CollOutcome) (k : Nat) (hc : s.Canon) : (State.resultLane s o k).1.Canon := by
  unfold State.resultLane
  repeat' (first
    | with_reducible assumption
    | (simp +zetaHave (maxDischargeDepth := 60) only [State.canon_mk, State.canon_eta, apply_ite State.Canon, apply_ite Prod.fst, ite_self, implies_true,
        apply_ite SqOut.s, State.drawFree_canon, hc]; done)
    | split
    | intro _
    | (dsimp +zetaHave only))

theorem sqResult_canon (f : SeqArgs) (x1 : Nat) (s : State) (hc : s.Canon) : (sqResult f x1 s).s.Canon := by
  unfold sqResult
  repeat' (first
    | with_reducible assumption
    | (simp +zetaHave (maxDischargeDepth := 60) only [State.canon_mk, State.canon_eta, apply_ite State.Canon, apply_ite Prod.fst, ite_self, implies_true,
        apply_ite SqOut.s, State.record_canon, State.gives_canon, State.resultLane_canon, hc]; done)
    | split
    | intro _
    | (dsimp +zetaHave only))

theorem sqDeadl_canon (f : SeqArgs) (x1 : Nat) (s : State) (hc : s.Canon) : (sqDeadl f x1 s).s.Canon := by
  unfold sqDeadl
  repeat' (first
    | with_reducible assumption
    | (simp +zetaHave (maxDischargeDepth := 60) only [State.canon_mk, State.canon_eta, apply_ite State.Canon, apply_ite Prod.fst, ite_self, implies_true,
        apply_ite SqOut.s, State.setHandle_canon, State.record_canon, hc]; done)
    | split
    | intro _
    | (dsimp +zetaHave only))

theorem sqObjop_canon (f : SeqArgs) (x1 : Nat) (s : State) (hc : s.Canon) : (sqObjop f x1 s).s.Canon := by
  unfold sqObjop
  repeat' (first
    | with_reducible assumption
    | (simp +zetaHave (maxDischargeDepth := 60) only [State.canon_mk, State.canon_eta, apply_ite State.Canon, apply_ite Prod.fst, ite_self, implies_true,
        apply_ite SqOut.s, State.programOp_canon, State.gives_canon, hc]; done)
    | split
    | intro _
    | (dsimp +zetaHave only))

theorem sqMeaning_canon (op : Nat) (f : SeqArgs) (nc : Nat) (g : State → SqOut) (h : sqMeaning op f nc = some g) (t : State)
    (hc : t.Canon) : (g t).s.Canon := by
  unfold sqMeaning at h
  split at h <;> first | cases h | skip
  all_goals simp only [hc, sqNop_canon, sqHalt_canon, sqJmp_canon, sqBr_canon, sqBri_canon, sqStepend_canon, sqWaitc_canon,
        sqLi_canon, sqLih_canon, sqMov_canon, sqAdd_canon, sqSub_canon, sqAnd_canon, sqOr_canon, sqXor_canon,
        sqAddi_canon, sqShl_canon, sqShr_canon, sqSar_canon, sqMul_canon, sqMinu_canon, sqMaxu_canon,
        sqRdstep_canon, sqRdcrs_canon, sqRdte_canon, sqRdlr_canon, sqLcfg_canon, sqArm_canon, sqArmm_canon,
        sqCancel_canon, sqPulse_canon, sqFrz_canon, sqContrib_canon, sqWaitr_canon, sqResult_canon, sqDeadl_canon,
        sqObjop_canon]

theorem State.fetchRun_canon (s : State) (nc : Nat) (hc : s.Canon) : (s.fetchRun nc).1.Canon :=
  State.runInstr_canon s _ _ _ (fun g h t ht => sqMeaning_canon _ _ _ g h t ht) hc

theorem State.seqBurst_canon (s : State) (k nc : Nat) (hc : s.Canon) : (s.seqBurst k nc).Canon := by
  induction k generalizing s with
  | zero => exact State.count_canon s _ _ hc
  | succ k ih =>
    unfold State.seqBurst
    dsimp +zetaHave only
    split
    · exact ih _ (State.fetchRun_canon _ _ hc)
    · exact State.fetchRun_canon s nc hc

theorem State.runBurst_canon (s : State) (nc : Nat) (hc : s.Canon) : (State.runBurst s nc).Canon := by
  unfold State.runBurst
  repeat' (first
    | with_reducible assumption
    | (simp +zetaHave (maxDischargeDepth := 60) only [State.canon_mk, State.canon_eta, apply_ite State.Canon, apply_ite Prod.fst, ite_self, implies_true,
        apply_ite SqOut.s, State.seqBurst_canon, hc]; done)
    | split
    | intro _
    | (dsimp +zetaHave only))

theorem State.seqBoundary_canon (s : State) (n : Nat) (nc : Nat) (hc : s.Canon) : (State.seqBoundary s n nc).Canon := by
  unfold State.seqBoundary
  repeat' (first
    | with_reducible assumption
    | (simp +zetaHave (maxDischargeDepth := 60) only [State.canon_mk, State.canon_eta, apply_ite State.Canon, apply_ite Prod.fst, ite_self, implies_true,
        apply_ite SqOut.s, State.expireEvents_canon, State.gangJudge_canon, State.drainReports_canon,
        State.reportsMissing_canon, State.startBoundary_canon, State.stopBoundary_canon, State.eventStop_canon,
        State.eventStart_canon, State.seqHorizon_canon, State.runBurst_canon, State.gangTold_canon,
        State.eventStops_canon, State.eventStarts_canon, hc]; done)
    | split
    | intro _
    | (dsimp +zetaHave only))

theorem State.atPc_run_canon (s : State) (op : Nat) (f : SeqArgs) (nc : Nat) (hc : s.Canon) :
    (s.runInstr op (sqMeaning op f nc) f).1.Canon :=
  State.runInstr_canon s _ _ _ (fun g h t ht => sqMeaning_canon _ _ _ g h t ht) hc

end Sys2Proof.Machine
end

