-- ==== Sys2Proof/Laws/CanonPower.lean ====
section
/-! SUPPORT. Sys2Proof/Laws/CanonPower.lean: every operation of Machine/Power.lean keeps the tables of the state in canonical
form. -/

set_option linter.all false
set_option Elab.async false

namespace Sys2Proof.Machine
open Sys2Proof.Config
set_option linter.unusedSimpArgs false

theorem State.refused_canon (s : State) (l : List Nat) (st : Nat) (hc : s.Canon) : (State.refused s l st).Canon := by
  unfold State.refused
  repeat' (first
    | with_reducible assumption
    | (simp +zetaHave +contextual (maxDischargeDepth := 60) only [State.canon_mk, State.canon_eta, apply_ite State.Canon, apply_ite Prod.fst, ite_self, implies_true,
        State.foldl_canon, State.foldl_fst_canon, State.count_canon, State.evt_canon, hc]; done)
    | split
    | intro _
    | (dsimp +zetaHave only)
    | refine State.foldl_canon _ _ _ ?_ (fun _ _ hc => ?_)
    | refine State.foldl_fst_canon _ _ _ ?_ (fun _ _ hc => ?_))

theorem State.tryEnter_canon (s : State) (st : Nat) (nc : Nat) (member : Bool) (hc : s.Canon) : (State.tryEnter s st nc member).Canon := by
  unfold State.tryEnter
  repeat' (first
    | with_reducible assumption
    | (simp +zetaHave (maxDischargeDepth := 60) only [State.canon_mk, State.canon_eta, apply_ite State.Canon, apply_ite Prod.fst, ite_self, implies_true,
        State.refused_canon, hc]; done)
    | split
    | intro _
    | (dsimp +zetaHave only))

theorem State.powerAttempt_canon (s : State) (nc : Nat) (i : TickIn) (hc : s.Canon) : (State.powerAttempt s nc i).Canon := by
  unfold State.powerAttempt
  repeat' (first
    | with_reducible assumption
    | (simp +zetaHave (maxDischargeDepth := 60) only [State.canon_mk, State.canon_eta, apply_ite State.Canon, apply_ite Prod.fst, ite_self, implies_true,
        State.refused_canon, State.tryEnter_canon, hc]; done)
    | split
    | intro _
    | (dsimp +zetaHave only))

theorem State.enterNap_canon (s : State) (hc : s.Canon) : (State.enterNap s).Canon := by
  unfold State.enterNap
  repeat' (first
    | with_reducible assumption
    | (simp +zetaHave (maxDischargeDepth := 60) only [State.canon_mk, State.canon_eta, apply_ite State.Canon, apply_ite Prod.fst, ite_self, implies_true,
        State.count_canon, State.evt_canon, State.setPower_canon, hc]; done)
    | split
    | intro _
    | (dsimp +zetaHave only))

theorem State.napPlanned_canon (s : State) (nc : Nat) (hc : s.Canon) : (State.napPlanned s nc).Canon := by
  unfold State.napPlanned
  repeat' (first
    | with_reducible assumption
    | (simp +zetaHave (maxDischargeDepth := 60) only [State.canon_mk, State.canon_eta, apply_ite State.Canon, apply_ite Prod.fst, ite_self, implies_true,
        State.wake_canon, hc]; done)
    | split
    | intro _
    | (dsimp +zetaHave only))

theorem State.thatchHold_canon (s : State) (d : Dom) (nc : Nat) (hc : s.Canon) : (State.thatchHold s d nc).Canon := by
  unfold State.thatchHold
  repeat' (first
    | with_reducible assumption
    | (simp +zetaHave (maxDischargeDepth := 60) only [State.canon_mk, State.canon_eta, apply_ite State.Canon, apply_ite Prod.fst, ite_self, implies_true,
        State.modServo_canon, State.enterHold_canon, hc]; done)
    | split
    | intro _
    | (dsimp +zetaHave only))

theorem State.enterThatch_canon (s : State) (nc : Nat) (osc : Edge) (hc : s.Canon) : (State.enterThatch s nc osc).Canon := by
  unfold State.enterThatch
  repeat' (first
    | with_reducible assumption
    | (simp +zetaHave +contextual (maxDischargeDepth := 60) only [State.canon_mk, State.canon_eta, apply_ite State.Canon, apply_ite Prod.fst, ite_self, implies_true,
        State.each_canon, State.count_canon, State.setPower_canon, State.abortShots_canon, State.retire_canon,
        State.thatchHold_canon, State.clkoutDrive_canon, State.fillAll_canon, hc]; done)
    | split
    | intro _
    | (dsimp +zetaHave only)
    | refine State.each_canon _ _ _ ?_ (fun _ _ hc => ?_))

theorem State.powerBoundary_canon (s : State) (nc : Nat) (i : TickIn) (hc : s.Canon) : (State.powerBoundary s nc i).Canon := by
  unfold State.powerBoundary
  repeat' (first
    | with_reducible assumption
    | (simp +zetaHave (maxDischargeDepth := 60) only [State.canon_mk, State.canon_eta, apply_ite State.Canon, apply_ite Prod.fst, ite_self, implies_true,
        State.busy_canon, State.powerAttempt_canon, State.enterNap_canon, State.enterThatch_canon, hc]; done)
    | split
    | intro _
    | (dsimp +zetaHave only))

theorem State.growSlept_canon (s : State) (d : Dom) (from_ : Nat) (c : Nat) (hc : s.Canon) : (State.growSlept s d from_ c).Canon := by
  unfold State.growSlept
  repeat' (first
    | with_reducible assumption
    | (simp +zetaHave (maxDischargeDepth := 60) only [State.canon_mk, State.canon_eta, apply_ite State.Canon, apply_ite Prod.fst, ite_self, implies_true,
        State.setServo_canon, hc]; done)
    | split
    | intro _
    | (dsimp +zetaHave only))

theorem State.loadTime_canon (s : State) (u : Int) (hc : s.Canon) : (s.loadTime u).Canon := by
  have hk : ∀ (x : State) (hf : HealthMgr) (td : TimeState) (clk : CourseClock), x.Canon → clk.cyc ≤ 624 → td.steps = x.td.steps →
      ({ x with hf := hf, td := td, clk := clk } : State).Canon := fun x hf td clk h h1 h2 =>
    { h with cyc := h1, steps := h2 ▸ h.steps }
  unfold State.loadTime
  dsimp +zetaHave only
  refine State.pulsesCatchUp_canon _ (State.skipFill_canon _ ?_)
  refine hk _ _ _ _ ?_ (Nat.le_of_lt_succ (Nat.mod_lt _ (by decide))) rfl
  exact State.modServo_canon _ _ _ (State.modServo_canon _ _ _ (State.growSlept_canon _ _ _ _ (State.growSlept_canon _ _ _ _
    (State.each_canon _ _ _ hc fun t n ht => State.modPort_canon t n _ ht))))

theorem State.noRebuild_canon (s : State) (hc : s.Canon) : s.noRebuild.Canon :=
  { State.drawFree_canon _ (State.count_canon s PW_CNT_NOREBUILD 1 hc) with cyc := Nat.zero_le _ }

theorem State.timeRebuild_canon (s : State) (k : Nat) (cw : Nat) (temp : Int) (tempOk : Bool) (hc : s.Canon) : (State.timeRebuild s k cw temp tempOk).Canon := by
  unfold State.timeRebuild
  repeat' (first
    | with_reducible assumption
    | (simp +zetaHave (maxDischargeDepth := 60) only [State.canon_mk, State.canon_eta, apply_ite State.Canon, apply_ite Prod.fst, ite_self, implies_true,
        State.modServo_canon, State.unlock_canon, State.loadTime_canon, State.noRebuild_canon, hc]; done)
    | split
    | intro _
    | (dsimp +zetaHave only))

theorem State.awaken_canon (s : State) (hc : s.Canon) : (State.awaken s).Canon := by
  unfold State.awaken
  repeat' (first
    | with_reducible assumption
    | (simp +zetaHave +contextual (maxDischargeDepth := 60) only [State.canon_mk, State.canon_eta, apply_ite State.Canon, apply_ite Prod.fst, ite_self, implies_true,
        State.each_canon, State.raise_canon, State.setPower_canon, State.startAdmission_canon, State.raiseIf_canon, hc]; done)
    | split
    | intro _
    | (dsimp +zetaHave only)
    | refine State.each_canon _ _ _ ?_ (fun _ _ hc => ?_))

theorem State.waitLockBoundary_canon (s : State) (hc : s.Canon) : (State.waitLockBoundary s).Canon := by
  unfold State.waitLockBoundary
  repeat' (first
    | with_reducible assumption
    | (simp +zetaHave (maxDischargeDepth := 60) only [State.canon_mk, State.canon_eta, apply_ite State.Canon, apply_ite Prod.fst, ite_self, implies_true,
        hc]; done)
    | split
    | intro _
    | (dsimp +zetaHave only))

theorem State.powerRequest_canon (s : State) (st : Nat) (t : State) (h : s.powerRequest st = some t) (hc : s.Canon) :
    t.Canon := by
  unfold State.powerRequest at h
  split at h
  · rw [← Option.some.inj h, State.canon_mk, State.canon_eta]; exact hc
  · cases h

end Sys2Proof.Machine
end

