-- ==== Sys2Proof/Laws/CanonClock.lean ====
section
/-! SUPPORT. Sys2Proof/Laws/CanonClock.lean: every operation of Machine/Clock.lean keeps the tables of the state in canonical
form. -/

set_option linter.all false
set_option Elab.async false

namespace Sys2Proof.Machine
open Sys2Proof.Config
set_option linter.unusedSimpArgs false

theorem State.oscGoodSet_canon (s : State) (hc : s.Canon) : (State.oscGoodSet s).Canon := by
  unfold State.oscGoodSet
  repeat' (first
    | with_reducible assumption
    | (simp +zetaHave (maxDischargeDepth := 60) only [State.canon_mk, State.canon_eta, apply_ite State.Canon, apply_ite Prod.fst, ite_self, implies_true,
        hc]; done)
    | split
    | intro _
    | (dsimp +zetaHave only))

theorem State.timingUnlock_canon (s : State) (hc : s.Canon) : (State.timingUnlock s).Canon := by
  unfold State.timingUnlock
  repeat' (first
    | with_reducible assumption
    | (simp +zetaHave (maxDischargeDepth := 60) only [State.canon_mk, State.canon_eta, apply_ite State.Canon, apply_ite Prod.fst, ite_self, implies_true,
        State.count_canon, State.raise_canon, hc]; done)
    | split
    | intro _
    | (dsimp +zetaHave only))

theorem State.logicUnlock_canon (s : State) (hc : s.Canon) : (State.logicUnlock s).Canon := by
  unfold State.logicUnlock
  repeat' (first
    | with_reducible assumption
    | (simp +zetaHave (maxDischargeDepth := 60) only [State.canon_mk, State.canon_eta, apply_ite State.Canon, apply_ite Prod.fst, ite_self, implies_true,
        State.count_canon, State.raise_canon, State.underlayCause_canon, State.fillAll_canon, hc]; done)
    | split
    | intro _
    | (dsimp +zetaHave only))

theorem State.ovenFall_canon (s : State) (hc : s.Canon) : (State.ovenFall s).Canon := by
  unfold State.ovenFall
  repeat' (first
    | with_reducible assumption
    | (simp +zetaHave (maxDischargeDepth := 60) only [State.canon_mk, State.canon_eta, apply_ite State.Canon, apply_ite Prod.fst, ite_self, implies_true,
        State.count_canon, State.raise_canon, hc]; done)
    | split
    | intro _
    | (dsimp +zetaHave only))

theorem State.oscLose_canon (s : State) (hc : s.Canon) : (State.oscLose s).Canon := by
  unfold State.oscLose
  repeat' (first
    | with_reducible assumption
    | (simp +zetaHave (maxDischargeDepth := 60) only [State.canon_mk, State.canon_eta, apply_ite State.Canon, apply_ite Prod.fst, ite_self, implies_true,
        State.count_canon, State.raise_canon, State.timingUnlock_canon, State.logicUnlock_canon, State.ovenFall_canon,
        hc]; done)
    | split
    | intro _
    | (dsimp +zetaHave only))

theorem State.oscCycle_canon (s : State) (mon : Nat) (hc : s.Canon) : (State.oscCycle s mon).Canon := by
  unfold State.oscCycle
  repeat' (first
    | with_reducible assumption
    | (simp +zetaHave (maxDischargeDepth := 60) only [State.canon_mk, State.canon_eta, apply_ite State.Canon, apply_ite Prod.fst, ite_self, implies_true,
        State.oscGoodSet_canon, State.oscLose_canon, hc]; done)
    | split
    | intro _
    | (dsimp +zetaHave only))

theorem State.startTime_canon (s : State) (oven : Bool) (hc : s.Canon) : (s.startTime oven).Canon := by
  unfold State.startTime
  split
  · exact { hc with cyc := Nat.zero_le _ }
  · exact hc

theorem State.pllLocks_canon (s : State) (p : Pll) (cycles : Nat) (oven : Bool) (hc : s.Canon) : (State.pllLocks s p cycles oven).Canon := by
  unfold State.pllLocks
  repeat' (first
    | with_reducible assumption
    | (simp +zetaHave (maxDischargeDepth := 60) only [State.canon_mk, State.canon_eta, apply_ite State.Canon, apply_ite Prod.fst, ite_self, implies_true,
        State.startTime_canon, hc]; done)
    | split
    | intro _
    | (dsimp +zetaHave only))

theorem State.pllTimeout_canon (s : State) (p : Pll) (hc : s.Canon) : (State.pllTimeout s p).Canon := by
  unfold State.pllTimeout
  repeat' (first
    | with_reducible assumption
    | (simp +zetaHave (maxDischargeDepth := 60) only [State.canon_mk, State.canon_eta, apply_ite State.Canon, apply_ite Prod.fst, ite_self, implies_true,
        hc]; done)
    | split
    | intro _
    | (dsimp +zetaHave only))

theorem State.ovenDrop_canon (s : State) (hc : s.Canon) : (State.ovenDrop s).Canon := by
  unfold State.ovenDrop
  repeat' (first
    | with_reducible assumption
    | (simp +zetaHave (maxDischargeDepth := 60) only [State.canon_mk, State.canon_eta, apply_ite State.Canon, apply_ite Prod.fst, ite_self, implies_true,
        State.ovenFall_canon, hc]; done)
    | split
    | intro _
    | (dsimp +zetaHave only))

theorem State.ovenRise_canon (s : State) (hc : s.Canon) : (State.ovenRise s).Canon := by
  unfold State.ovenRise
  repeat' (first
    | with_reducible assumption
    | (simp +zetaHave (maxDischargeDepth := 60) only [State.canon_mk, State.canon_eta, apply_ite State.Canon, apply_ite Prod.fst, ite_self, implies_true,
        hc]; done)
    | split
    | intro _
    | (dsimp +zetaHave only))

theorem State.ovenTick_canon (s : State) (level : Bool) (hc : s.Canon) : (State.ovenTick s level).Canon := by
  unfold State.ovenTick
  repeat' (first
    | with_reducible assumption
    | (simp +zetaHave (maxDischargeDepth := 60) only [State.canon_mk, State.canon_eta, apply_ite State.Canon, apply_ite Prod.fst, ite_self, implies_true,
        State.ovenDrop_canon, State.ovenRise_canon, hc]; done)
    | split
    | intro _
    | (dsimp +zetaHave only))

theorem State.cgCtlWrite_canon (s : State) (v : Nat) (hc : s.Canon) : (State.cgCtlWrite s v).Canon := by
  unfold State.cgCtlWrite
  repeat' (first
    | with_reducible assumption
    | (simp +zetaHave (maxDischargeDepth := 60) only [State.canon_mk, State.canon_eta, apply_ite State.Canon, apply_ite Prod.fst, ite_self, implies_true,
        State.wr_canon, State.ovenFall_canon, hc]; done)
    | split
    | intro _
    | (dsimp +zetaHave only))

theorem State.closeGate_canon (s : State) (k : Nat) (hc : s.Canon) : (State.closeGate s k).Canon := by
  unfold State.closeGate
  repeat' (first
    | with_reducible assumption
    | (simp +zetaHave (maxDischargeDepth := 60) only [State.canon_mk, State.canon_eta, apply_ite State.Canon, apply_ite Prod.fst, ite_self, implies_true,
        hc]; done)
    | split
    | intro _
    | (dsimp +zetaHave only))

theorem State.gateAccess_canon (s : State) (k : Nat) (hc : s.Canon) : (State.gateAccess s k).Canon := by
  unfold State.gateAccess
  repeat' (first
    | with_reducible assumption
    | (simp +zetaHave (maxDischargeDepth := 60) only [State.canon_mk, State.canon_eta, apply_ite State.Canon, apply_ite Prod.fst, ite_self, implies_true,
        State.count_canon, State.openGate_canon, hc]; done)
    | split
    | intro _
    | (dsimp +zetaHave only))

theorem State.clkoutWrite_canon (s : State) (v : Nat) (hc : s.Canon) : (State.clkoutWrite s v).Canon := by
  unfold State.clkoutWrite
  repeat' (first
    | with_reducible assumption
    | (simp +zetaHave (maxDischargeDepth := 60) only [State.canon_mk, State.canon_eta, apply_ite State.Canon, apply_ite Prod.fst, ite_self, implies_true,
        State.wr_canon, State.emit_canon, State.openGate_canon, State.clkoutDrive_canon, hc]; done)
    | split
    | intro _
    | (dsimp +zetaHave only))

theorem State.clkoutTick_canon (s : State) (hc : s.Canon) : (State.clkoutTick s).Canon := by
  unfold State.clkoutTick
  repeat' (first
    | with_reducible assumption
    | (simp +zetaHave (maxDischargeDepth := 60) only [State.canon_mk, State.canon_eta, apply_ite State.Canon, apply_ite Prod.fst, ite_self, implies_true,
        State.clkoutPulse_canon, State.clkoutDrive_canon, hc]; done)
    | split
    | intro _
    | (dsimp +zetaHave only))

end Sys2Proof.Machine
end

