-- ==== Sys2Proof/Laws/CanonTree.lean ====
section
/-! SUPPORT. Sys2Proof/Laws/CanonTree.lean: every operation of Machine/Tree.lean keeps the tables of the state in canonical
form. -/

set_option linter.all false
set_option Elab.async false

namespace Sys2Proof.Machine
open Sys2Proof.Config
set_option linter.unusedSimpArgs false

theorem State.afterOutcome_canon (s : State) (a : Applied) (hc : s.Canon) : (State.afterOutcome s a).Canon := by
  unfold State.afterOutcome
  repeat' (first
    | with_reducible assumption
    | (simp +zetaHave (maxDischargeDepth := 60) only [State.canon_mk, State.canon_eta, apply_ite State.Canon, apply_ite Prod.fst, ite_self, implies_true,
        State.doneSignal_canon, State.verdict_canon, hc]; done)
    | split
    | intro _
    | (dsimp +zetaHave only))

theorem State.afterOutcomes_canon (s : State) (l : List Applied) (hc : s.Canon) : (State.afterOutcomes s l).Canon := by
  unfold State.afterOutcomes
  repeat' (first
    | with_reducible assumption
    | (simp +zetaHave +contextual (maxDischargeDepth := 60) only [State.canon_mk, State.canon_eta, apply_ite State.Canon, apply_ite Prod.fst, ite_self, implies_true,
        State.foldl_canon, State.foldl_fst_canon, State.afterOutcome_canon, hc]; done)
    | split
    | intro _
    | (dsimp +zetaHave only)
    | refine State.foldl_canon _ _ _ ?_ (fun _ _ hc => ?_)
    | refine State.foldl_fst_canon _ _ _ ?_ (fun _ _ hc => ?_))

theorem State.collArrivals_canon (s : State) (hc : s.Canon) : (State.collArrivals s).Canon := by
  unfold State.collArrivals
  repeat' (first
    | with_reducible assumption
    | (simp +zetaHave (maxDischargeDepth := 60) only [State.canon_mk, State.canon_eta, apply_ite State.Canon, apply_ite Prod.fst, ite_self, implies_true,
        State.applyOutcomes_canon, State.afterOutcomes_canon, hc]; done)
    | split
    | intro _
    | (dsimp +zetaHave only))

theorem State.collIsolated_canon (s : State) (t : Nat) (hc : s.Canon) : (State.collIsolated s t).Canon := by
  unfold State.collIsolated
  repeat' (first
    | with_reducible assumption
    | (simp +zetaHave (maxDischargeDepth := 60) only [State.canon_mk, State.canon_eta, apply_ite State.Canon, apply_ite Prod.fst, ite_self, implies_true,
        State.isolate_canon, State.afterOutcomes_canon, hc]; done)
    | split
    | intro _
    | (dsimp +zetaHave only))

theorem State.collBoundary_canon (s : State) (n : Nat) (t : Nat) (hc : s.Canon) : (State.collBoundary s n t).Canon := by
  unfold State.collBoundary
  repeat' (first
    | with_reducible assumption
    | (simp +zetaHave (maxDischargeDepth := 60) only [State.canon_mk, State.canon_eta, apply_ite State.Canon, apply_ite Prod.fst, ite_self, implies_true,
        State.releaseHeld_canon, State.collDeadlines_canon, State.sendHeldLogs_canon, State.freeOrphans_canon,
        State.moveTimeouts_canon, State.ageClosed_canon, State.collArrivals_canon, State.collIsolated_canon, hc]; done)
    | split
    | intro _
    | (dsimp +zetaHave only))

theorem State.collFrame_canon (s : State) (h : RxHead) (k : RxKind) (f : State → State) (hf : ∀ t, t.Canon → (f t).Canon)
    (hc : s.Canon) : (s.collFrame h k f).Canon := by
  have h0 := State.rxZudar_canon s h k true hc
  unfold State.collFrame
  dsimp +zetaHave only
  split
  · exact hf _ (State.openGate_canon _ _ h0)
  · exact h0

theorem State.gangHold_canon (s : State) (nc : Nat) (hc : s.Canon) : (State.gangHold s nc).Canon := by
  unfold State.gangHold
  repeat' (first
    | with_reducible assumption
    | (simp +zetaHave (maxDischargeDepth := 60) only [State.canon_mk, State.canon_eta, apply_ite State.Canon, apply_ite Prod.fst, ite_self, implies_true,
        State.modServo_canon, State.enterHold_canon, hc]; done)
    | split
    | intro _
    | (dsimp +zetaHave only))

theorem State.gangQuit_canon (s : State) (dead : Bool) (nc : Nat) (hc : s.Canon) : (State.gangQuit s dead nc).Canon := by
  unfold State.gangQuit
  repeat' (first
    | with_reducible assumption
    | (simp +zetaHave (maxDischargeDepth := 60) only [State.canon_mk, State.canon_eta, apply_ite State.Canon, apply_ite Prod.fst, ite_self, implies_true,
        State.endLocal_canon, State.gangHold_canon, hc]; done)
    | split
    | intro _
    | (dsimp +zetaHave only))

theorem State.gangGoOn_canon (s : State) (rest : List Nat) (heir : Nat) (nc : Nat) (hc : s.Canon) : (State.gangGoOn s rest heir nc).Canon := by
  unfold State.gangGoOn
  repeat' (first
    | with_reducible assumption
    | (simp +zetaHave (maxDischargeDepth := 60) only [State.canon_mk, State.canon_eta, apply_ite State.Canon, apply_ite Prod.fst, ite_self, implies_true,
        State.abortAll_canon, State.gangHold_canon, hc]; done)
    | split
    | intro _
    | (dsimp +zetaHave only))

theorem State.gangLeave_canon (s : State) (nc : Nat) (hc : s.Canon) : (State.gangLeave s nc).Canon := by
  unfold State.gangLeave
  repeat' (first
    | with_reducible assumption
    | (simp +zetaHave (maxDischargeDepth := 60) only [State.canon_mk, State.canon_eta, apply_ite State.Canon, apply_ite Prod.fst, ite_self, implies_true,
        State.abortAll_canon, State.gangHold_canon, State.emit_canon, State.gangQuit_canon, State.gangGoOn_canon, hc]; done)
    | split
    | intro _
    | (dsimp +zetaHave only))

theorem State.atLeader_canon (s : State) (pos : Nat) (m : GangMsg) (hc : s.Canon) : (State.atLeader s pos m).Canon := by
  unfold State.atLeader
  repeat' (first
    | with_reducible assumption
    | (simp +zetaHave (maxDischargeDepth := 60) only [State.canon_mk, State.canon_eta, apply_ite State.Canon, apply_ite Prod.fst, ite_self, implies_true,
        State.openGate_canon, State.busy_canon, State.routeReq_canon, State.gangContribution_canon,
        State.ridgeUp_canon, State.gangDigest_canon, State.gangQuit_canon, hc]; done)
    | split
    | intro _
    | (dsimp +zetaHave only))

theorem State.atMember_canon (s : State) (m : GangMsg) (hc : s.Canon) : (State.atMember s m).Canon := by
  unfold State.atMember
  repeat' (first
    | with_reducible assumption
    | (simp +zetaHave (maxDischargeDepth := 60) only [State.canon_mk, State.canon_eta, apply_ite State.Canon, apply_ite Prod.fst, ite_self, implies_true,
        State.eaveDown_canon, State.eaveAbort_canon, State.eaveMove_canon, State.spreadDown_canon,
        State.spreadMove_canon, State.spreadAbort_canon, State.setSq_canon, State.gangQuit_canon, hc]; done)
    | split
    | intro _
    | (dsimp +zetaHave only))

end Sys2Proof.Machine
end

