-- ==== Sys2Proof/Laws/CanonGang.lean ====
section
/-! SUPPORT. Sys2Proof/Laws/CanonGang.lean: every operation of Machine/Gang.lean keeps the tables of the state in canonical
form. -/

set_option linter.all false
set_option Elab.async false

namespace Sys2Proof.Machine
open Sys2Proof.Config
set_option linter.unusedSimpArgs false

theorem State.gangKeepalive_canon (s : State) (ka : Bool) (hc : s.Canon) : (State.gangKeepalive s ka).Canon := by
  unfold State.gangKeepalive
  repeat' (first
    | with_reducible assumption
    | (simp +zetaHave (maxDischargeDepth := 60) only [State.canon_mk, State.canon_eta, apply_ite State.Canon, apply_ite Prod.fst, ite_self, implies_true,
        State.raise_canon, hc]; done)
    | split
    | intro _
    | (dsimp +zetaHave only))

theorem State.gangTake_canon (s : State) (l : LeadTime) (hc : s.Canon) : (State.gangTake s l).Canon := by
  unfold State.gangTake
  repeat' (first
    | with_reducible assumption
    | (simp +zetaHave (maxDischargeDepth := 60) only [State.canon_mk, State.canon_eta, apply_ite State.Canon, apply_ite Prod.fst, ite_self, implies_true,
        State.raise_canon, hc]; done)
    | split
    | intro _
    | (dsimp +zetaHave only))

theorem State.gangTime_canon (s : State) (l : Option LeadTime) (hc : s.Canon) : (State.gangTime s l).Canon := by
  unfold State.gangTime
  repeat' (first
    | with_reducible assumption
    | (simp +zetaHave (maxDischargeDepth := 60) only [State.canon_mk, State.canon_eta, apply_ite State.Canon, apply_ite Prod.fst, ite_self, implies_true,
        State.gangTake_canon, hc]; done)
    | split
    | intro _
    | (dsimp +zetaHave only))

theorem State.gangCalOver_canon (s : State) (hc : s.Canon) : (State.gangCalOver s).Canon := by
  unfold State.gangCalOver
  repeat' (first
    | with_reducible assumption
    | (simp +zetaHave (maxDischargeDepth := 60) only [State.canon_mk, State.canon_eta, apply_ite State.Canon, apply_ite Prod.fst, ite_self, implies_true,
        State.raise_canon, hc]; done)
    | split
    | intro _
    | (dsimp +zetaHave only))

theorem State.gangBeat_canon (s : State) (hc : s.Canon) : (State.gangBeat s).Canon := by
  unfold State.gangBeat
  repeat' (first
    | with_reducible assumption
    | (simp +zetaHave (maxDischargeDepth := 60) only [State.canon_mk, State.canon_eta, apply_ite State.Canon, apply_ite Prod.fst, ite_self, implies_true,
        State.emit_canon, State.gangKeepalive_canon, hc]; done)
    | split
    | intro _
    | (dsimp +zetaHave only))

theorem State.gangLost_canon (s : State) (l : List Nat) (hc : s.Canon) : (State.gangLost s l).Canon := by
  unfold State.gangLost
  repeat' (first
    | with_reducible assumption
    | (simp +zetaHave (maxDischargeDepth := 60) only [State.canon_mk, State.canon_eta, apply_ite State.Canon, apply_ite Prod.fst, ite_self, implies_true,
        hc]; done)
    | split
    | intro _
    | (dsimp +zetaHave only))

theorem State.gangLose_canon (s : State) (l : List Nat) (hc : s.Canon) : (State.gangLose s l).Canon := by
  unfold State.gangLose
  repeat' (first
    | with_reducible assumption
    | (simp +zetaHave (maxDischargeDepth := 60) only [State.canon_mk, State.canon_eta, apply_ite State.Canon, apply_ite Prod.fst, ite_self, implies_true,
        State.raise_canon, State.gangLost_canon, hc]; done)
    | split
    | intro _
    | (dsimp +zetaHave only))

end Sys2Proof.Machine
end

