-- ==== Sys2Proof/Laws/CanonRead.lean ====
section
/-! SUPPORT. Sys2Proof/Laws/CanonRead.lean: every operation of Machine/Read.lean keeps the tables of the state in canonical
form. -/

set_option linter.all false
set_option Elab.async false

namespace Sys2Proof.Machine
open Sys2Proof.Config
set_option linter.unusedSimpArgs false

theorem State.latchNow_canon (s : State) (m : Master) (hc : s.Canon) : (State.latchNow s m).Canon := by
  unfold State.latchNow
  repeat' (first
    | with_reducible assumption
    | (simp +zetaHave (maxDischargeDepth := 60) only [State.canon_mk, State.canon_eta, apply_ite State.Canon, apply_ite Prod.fst, ite_self, implies_true,
        hc]; done)
    | split
    | intro _
    | (dsimp +zetaHave only))

theorem State.readDoes_canon (s : State) (m : Master) (off : Nat) (hc : s.Canon) : (State.readDoes s m off).Canon := by
  unfold State.readDoes
  repeat' (first
    | with_reducible assumption
    | (simp +zetaHave (maxDischargeDepth := 60) only [State.canon_mk, State.canon_eta, apply_ite State.Canon, apply_ite Prod.fst, ite_self, implies_true,
        State.popStamp_canon, State.latchStat_canon, State.popRaw_canon, State.latchNow_canon, hc]; done)
    | split
    | intro _
    | (dsimp +zetaHave only))

theorem State.drawn_canon (s : State) (off : Nat) (hc : s.Canon) : (State.drawn s off).Canon := by
  unfold State.drawn
  repeat' (first
    | with_reducible assumption
    | (simp +zetaHave (maxDischargeDepth := 60) only [State.canon_mk, State.canon_eta, apply_ite State.Canon, apply_ite Prod.fst, ite_self, implies_true,
        State.drawFree_canon, hc]; done)
    | split
    | intro _
    | (dsimp +zetaHave only))

theorem State.regRead_canon (s : State) (m : Master) (off : Nat) (wide : Bool) (hc : s.Canon) : (State.regRead s m off wide).1.Canon := by
  unfold State.regRead
  repeat' (first
    | with_reducible assumption
    | (simp +zetaHave (maxDischargeDepth := 60) only [State.canon_mk, State.canon_eta, apply_ite State.Canon, apply_ite Prod.fst, ite_self, implies_true,
        State.windowRead_canon, State.readDoes_canon, State.drawn_canon, hc]; done)
    | split
    | intro _
    | (dsimp +zetaHave only))

end Sys2Proof.Machine
end

