-- ==== Sys2Proof/Laws/CanonCmd.lean ====
section
/-! SUPPORT. Sys2Proof/Laws/CanonCmd.lean: every operation of Machine/Cmd.lean keeps the tables of the state in canonical
form. -/

set_option linter.all false
set_option Elab.async false

namespace Sys2Proof.Machine
open Sys2Proof.Config
set_option linter.unusedSimpArgs false

theorem CmdOut.status_canon (s : State) (st : Nat) (hc : s.Canon) : (CmdOut.status s st).st.Canon := by
  unfold CmdOut.status
  repeat' (first
    | with_reducible assumption
    | (simp +zetaHave (maxDischargeDepth := 60) only [State.canon_mk, State.canon_eta, apply_ite State.Canon, apply_ite Prod.fst, ite_self, implies_true,
        apply_ite CmdOut.st, CmdOut.status_st, CmdOut.ok_st, CmdOut.done_st, CmdOut.wait_st, hc]; done)
    | split
    | intro _
    | (dsimp +zetaHave only))

theorem CmdOut.ok_canon (s : State) (d : List Nat) (hc : s.Canon) : (CmdOut.ok s d).st.Canon := by
  unfold CmdOut.ok
  repeat' (first
    | with_reducible assumption
    | (simp +zetaHave (maxDischargeDepth := 60) only [State.canon_mk, State.canon_eta, apply_ite State.Canon, apply_ite Prod.fst, ite_self, implies_true,
        apply_ite CmdOut.st, CmdOut.status_st, CmdOut.ok_st, CmdOut.done_st, CmdOut.wait_st, hc]; done)
    | split
    | intro _
    | (dsimp +zetaHave only))

theorem State.setCmdSlot_canon (s : State) (k : Nat) (c : CmdSlot) (hc : s.Canon) : (State.setCmdSlot s k c).Canon := by
  unfold State.setCmdSlot
  repeat' (first
    | with_reducible assumption
    | (simp +zetaHave (maxDischargeDepth := 60) only [State.canon_mk, State.canon_eta, apply_ite State.Canon, apply_ite Prod.fst, ite_self, implies_true,
        apply_ite CmdOut.st, CmdOut.status_st, CmdOut.ok_st, CmdOut.done_st, CmdOut.wait_st, hc]; done)
    | split
    | intro _
    | (dsimp +zetaHave only))

theorem State.queueSlot_canon (s : State) (k : Nat) (c : CmdSlot) (hc : s.Canon) : (State.queueSlot s k c).Canon := by
  unfold State.queueSlot
  repeat' (first
    | with_reducible assumption
    | (simp +zetaHave (maxDischargeDepth := 60) only [State.canon_mk, State.canon_eta, apply_ite State.Canon, apply_ite Prod.fst, ite_self, implies_true,
        apply_ite CmdOut.st, CmdOut.status_st, CmdOut.ok_st, CmdOut.done_st, CmdOut.wait_st, State.setCmdSlot_canon,
        hc]; done)
    | split
    | intro _
    | (dsimp +zetaHave only))

theorem State.takeSlot_canon (s : State) (k : Nat) (hc : s.Canon) : (State.takeSlot s k).Canon := by
  unfold State.takeSlot
  repeat' (first
    | with_reducible assumption
    | (simp +zetaHave (maxDischargeDepth := 60) only [State.canon_mk, State.canon_eta, apply_ite State.Canon, apply_ite Prod.fst, ite_self, implies_true,
        hc]; done)
    | split
    | intro _
    | (dsimp +zetaHave only))

theorem State.putRun_canon (s : State) (r : RunCmd) (hc : s.Canon) : (State.putRun s r).Canon := by
  unfold State.putRun
  repeat' (first
    | with_reducible assumption
    | (simp +zetaHave (maxDischargeDepth := 60) only [State.canon_mk, State.canon_eta, apply_ite State.Canon, apply_ite Prod.fst, ite_self, implies_true,
        apply_ite CmdOut.st, CmdOut.status_st, CmdOut.ok_st, CmdOut.done_st, CmdOut.wait_st, hc]; done)
    | split
    | intro _
    | (dsimp +zetaHave only))

theorem State.irqComplete_canon (s : State) (hc : s.Canon) : (State.irqComplete s).Canon := by
  unfold State.irqComplete
  repeat' (first
    | with_reducible assumption
    | (simp +zetaHave (maxDischargeDepth := 60) only [State.canon_mk, State.canon_eta, apply_ite State.Canon, apply_ite Prod.fst, ite_self, implies_true,
        State.raiseIf_canon, hc]; done)
    | split
    | intro _
    | (dsimp +zetaHave only))

theorem State.irqTimeout_canon (s : State) (t : Nat) (hc : s.Canon) : (State.irqTimeout s t).Canon := by
  unfold State.irqTimeout
  repeat' (first
    | with_reducible assumption
    | (simp +zetaHave (maxDischargeDepth := 60) only [State.canon_mk, State.canon_eta, apply_ite State.Canon, apply_ite Prod.fst, ite_self, implies_true,
        State.raiseIf_canon, hc]; done)
    | split
    | intro _
    | (dsimp +zetaHave only))

theorem State.irqRestart_canon (s : State) (hc : s.Canon) : (State.irqRestart s).Canon := by
  unfold State.irqRestart
  repeat' (first
    | with_reducible assumption
    | (simp +zetaHave (maxDischargeDepth := 60) only [State.canon_mk, State.canon_eta, apply_ite State.Canon, apply_ite Prod.fst, ite_self, implies_true,
        hc]; done)
    | split
    | intro _
    | (dsimp +zetaHave only))

theorem State.finalize_canon (s : State) (r : RunCmd) (rep : Reply) (words : List Nat) (hc : s.Canon) : (State.finalize s r rep words).Canon := by
  unfold State.finalize
  repeat' (first
    | with_reducible assumption
    | (simp +zetaHave (maxDischargeDepth := 60) only [State.canon_mk, State.canon_eta, apply_ite State.Canon, apply_ite Prod.fst, ite_self, implies_true,
        apply_ite CmdOut.st, CmdOut.status_st, CmdOut.ok_st, CmdOut.done_st, CmdOut.wait_st, State.count_canon,
        State.emit_canon, State.evt_canon, CmdOut.status_canon, State.setCmdSlot_canon, State.irqComplete_canon, hc]; done)
    | split
    | intro _
    | (dsimp +zetaHave only))

theorem State.complete_canon (s : State) (r : RunCmd) (rep : Reply) (hc : s.Canon) : (State.complete s r rep).Canon := by
  unfold State.complete
  repeat' (first
    | with_reducible assumption
    | (simp +zetaHave (maxDischargeDepth := 60) only [State.canon_mk, State.canon_eta, apply_ite State.Canon, apply_ite Prod.fst, ite_self, implies_true,
        apply_ite CmdOut.st, CmdOut.status_st, CmdOut.ok_st, CmdOut.done_st, CmdOut.wait_st, State.count_canon,
        State.memWrite_canon, State.putRun_canon, State.finalize_canon, hc]; done)
    | split
    | intro _
    | (dsimp +zetaHave only))

theorem State.ringAcked_canon (s : State) (slot : Nat) (hc : s.Canon) : (State.ringAcked s slot).Canon := by
  unfold State.ringAcked
  repeat' (first
    | with_reducible assumption
    | (simp +zetaHave (maxDischargeDepth := 60) only [State.canon_mk, State.canon_eta, apply_ite State.Canon, apply_ite Prod.fst, ite_self, implies_true,
        State.finalize_canon, hc]; done)
    | split
    | intro _
    | (dsimp +zetaHave only))

theorem CmdOut.settle_canon (o : CmdOut) (r : RunCmd) (hc : o.st.Canon) : (o.settle r).Canon := by
  cases o
  · exact State.complete_canon _ _ _ hc
  · exact State.putRun_canon _ _ hc

theorem State.readOn_canon (s : State) (r : RunCmd) (hc : s.Canon) : (State.readOn s r).st.Canon := by
  unfold State.readOn
  repeat' (first
    | with_reducible assumption
    | (simp +zetaHave (maxDischargeDepth := 60) only [State.canon_mk, State.canon_eta, apply_ite State.Canon, apply_ite Prod.fst, ite_self, implies_true,
        apply_ite CmdOut.st, CmdOut.status_st, CmdOut.ok_st, CmdOut.done_st, CmdOut.wait_st, State.memRead_canon, hc]; done)
    | split
    | intro _
    | (dsimp +zetaHave only))

theorem State.readFrom_canon (s : State) (r : RunCmd) (addr : Nat) (n : Nat) (hc : s.Canon) : (State.readFrom s r addr n).st.Canon := by
  unfold State.readFrom
  repeat' (first
    | with_reducible assumption
    | (simp +zetaHave (maxDischargeDepth := 60) only [State.canon_mk, State.canon_eta, apply_ite State.Canon, apply_ite Prod.fst, ite_self, implies_true,
        apply_ite CmdOut.st, CmdOut.status_st, CmdOut.ok_st, CmdOut.done_st, CmdOut.wait_st, State.readOn_canon, hc]; done)
    | split
    | intro _
    | (dsimp +zetaHave only))

theorem State.whenRead_canon (s : State) (r : RunCmd) (f : List Nat → CmdOut) (hc : s.Canon) (hf : ∀ b, (f b).st.Canon) :
    (s.whenRead r f).st.Canon := by
  unfold State.whenRead
  repeat' split
  · exact hc
  · exact hc
  · exact State.readOn_canon s r hc
  · exact hf _

end Sys2Proof.Machine
end

