-- ==== Sys2Proof/Laws/CanonTopo.lean ====
section
/-! SUPPORT. Sys2Proof/Laws/CanonTopo.lean: every operation of Machine/Topo.lean keeps the tables of the state in canonical
form. -/

set_option linter.all false
set_option Elab.async false

namespace Sys2Proof.Machine
open Sys2Proof.Config
set_option linter.unusedSimpArgs false

theorem State.applyTopo_canon (s : State) (t : TopoImage) (hc : s.Canon) : (State.applyTopo s t).Canon := by
  unfold State.applyTopo
  repeat' (first
    | with_reducible assumption
    | (simp +zetaHave +contextual (maxDischargeDepth := 60) only [State.canon_mk, State.canon_eta, apply_ite State.Canon, apply_ite Prod.fst, ite_self, implies_true,
        State.each_canon, State.foldl_canon, State.foldl_fst_canon, State.judged_canon, hc]; done)
    | split
    | intro _
    | (dsimp +zetaHave only)
    | refine State.each_canon _ _ _ ?_ (fun _ _ hc => ?_)
    | refine State.foldl_canon _ _ _ ?_ (fun _ _ hc => ?_)
    | refine State.foldl_fst_canon _ _ _ ?_ (fun _ _ hc => ?_))

theorem cmdTopologyLoad_canon (s : State) (r : RunCmd) (hc : s.Canon) : (cmdTopologyLoad.start s r).st.Canon ∧ (cmdTopologyLoad.later s r).st.Canon := by
  constructor
  all_goals
    dsimp +zetaHave only [cmdTopologyLoad]
    repeat' (first
      | with_reducible assumption
      | (simp +zetaHave (maxDischargeDepth := 60) only [State.canon_mk, State.canon_eta, apply_ite State.Canon, apply_ite Prod.fst, ite_self, implies_true,
          apply_ite CmdOut.st, CmdOut.status_st, CmdOut.ok_st, CmdOut.done_st, CmdOut.wait_st, CmdOut.status_canon,
          CmdOut.ok_canon, State.readFrom_canon, State.whenRead_canon, State.applyTopo_canon, hc]; done)
      | split
      | intro _
      | (dsimp +zetaHave only)
      | refine State.whenRead_canon _ _ _ ?_ ?_
      | refine CmdOut.orState_canon _ _ ?_ ?_)

end Sys2Proof.Machine
end

