-- ==== Sys2Proof/Laws/CanonCmds.lean ====
section
/-! SUPPORT. Sys2Proof/Laws/CanonCmds.lean: every operation of Machine/Cmds.lean keeps the tables of the state in canonical
form. -/

set_option linter.all false
set_option Elab.async false

namespace Sys2Proof.Machine
open Sys2Proof.Config
set_option linter.unusedSimpArgs false

theorem cmdGenIdentify_canon (s : State) (r : RunCmd) (hc : s.Canon) : (cmdGenIdentify.start s r).st.Canon ∧ (cmdGenIdentify.later s r).st.Canon := by
  constructor
  all_goals
    dsimp +zetaHave only [cmdGenIdentify]
    repeat' (first
      | with_reducible assumption
      | (simp +zetaHave (maxDischargeDepth := 60) only [State.canon_mk, State.canon_eta, apply_ite State.Canon, apply_ite Prod.fst, ite_self, implies_true,
          apply_ite CmdOut.st, CmdOut.status_st, CmdOut.ok_st, CmdOut.done_st, CmdOut.wait_st, CmdOut.ok_canon, hc]; done)
      | split
      | intro _
      | (dsimp +zetaHave only)
      | refine State.whenRead_canon _ _ _ ?_ ?_
      | refine CmdOut.orState_canon _ _ ?_ ?_)

theorem cmdGenStatus_canon (s : State) (r : RunCmd) (hc : s.Canon) : (cmdGenStatus.start s r).st.Canon ∧ (cmdGenStatus.later s r).st.Canon := by
  constructor
  all_goals
    dsimp +zetaHave only [cmdGenStatus]
    repeat' (first
      | with_reducible assumption
      | (simp +zetaHave (maxDischargeDepth := 60) only [State.canon_mk, State.canon_eta, apply_ite State.Canon, apply_ite Prod.fst, ite_self, implies_true,
          apply_ite CmdOut.st, CmdOut.status_st, CmdOut.ok_st, CmdOut.done_st, CmdOut.wait_st, State.latchNow_canon,
          CmdOut.ok_canon, hc]; done)
      | split
      | intro _
      | (dsimp +zetaHave only)
      | refine State.whenRead_canon _ _ _ ?_ ?_
      | refine CmdOut.orState_canon _ _ ?_ ?_)

theorem State.resetUnits_canon (s : State) (m : Nat) (hc : s.Canon) : (s.resetUnits m).Canon := by
  unfold State.resetUnits
  dsimp +zetaHave only
  have h1 : (if bitOf m 0 ∧ s.isEave then s.seqReset else s).Canon := by
    split
    · exact State.seqReset_canon s hc
    · exact hc
  generalize (if bitOf m 0 ∧ s.isEave then s.seqReset else s) = a at h1
  have h2 : (if bitOf m 1 ∧ a.isEave then a.objReset else a).Canon := by
    split
    · exact State.objReset_canon a h1
    · exact h1
  generalize (if bitOf m 1 ∧ a.isEave then a.objReset else a) = b at h2
  have h3 : ∀ c : State, c.Canon → (if bitOf m 4 then { c with cnt := [] } else c : State).Canon := fun c h => by
    split
    · exact { h with cnt := rfl }
    · exact h
  refine h3 _ ?_
  repeat' (first
    | with_reducible assumption
    | (simp +zetaHave (maxDischargeDepth := 60) only [State.canon_mk, State.canon_eta, State.imAbort_canon, h2]; done)
    | split)

theorem State.resetBoundary_canon (s : State) (hc : s.Canon) : (State.resetBoundary s).Canon := by
  unfold State.resetBoundary
  repeat' (first
    | with_reducible assumption
    | (simp +zetaHave (maxDischargeDepth := 60) only [State.canon_mk, State.canon_eta, apply_ite State.Canon, apply_ite Prod.fst, ite_self, implies_true,
        State.resetUnits_canon, hc]; done)
    | split
    | intro _
    | (dsimp +zetaHave only))

theorem cmdGenReset_canon (s : State) (r : RunCmd) (hc : s.Canon) : (cmdGenReset.start s r).st.Canon ∧ (cmdGenReset.later s r).st.Canon := by
  constructor
  all_goals
    dsimp +zetaHave only [cmdGenReset]
    repeat' (first
      | with_reducible assumption
      | (simp +zetaHave (maxDischargeDepth := 60) only [State.canon_mk, State.canon_eta, apply_ite State.Canon, apply_ite Prod.fst, ite_self, implies_true,
          apply_ite CmdOut.st, CmdOut.status_st, CmdOut.ok_st, CmdOut.done_st, CmdOut.wait_st, CmdOut.status_canon,
          CmdOut.ok_canon, hc]; done)
      | split
      | intro _
      | (dsimp +zetaHave only)
      | refine State.whenRead_canon _ _ _ ?_ ?_
      | refine CmdOut.orState_canon _ _ ?_ ?_)

theorem State.loadFw_canon (s : State) (off : Nat) (b : List Nat) (hc : s.Canon) : (s.loadFw off b).Canon := by
  refine { hc with mem := ?_ }
  have key : ∀ (l : List Nat) (a : Map Nat × Nat), a.1.wf 0 = true →
      ((l.foldl (fun (acc : Map Nat × Nat) v =>
        ((acc.1.set 0 (acc.2 / 8) (acc.1.get 0 (acc.2 / 8) - acc.1.get 0 (acc.2 / 8) / 256 ^ (acc.2 % 8) % 256 * 256 ^ (acc.2 % 8) +
          v % 256 * 256 ^ (acc.2 % 8)) : Map Nat), acc.2 + 1)) a).1).wf 0 = true := by
    intro l
    induction l with
    | nil => exact fun a h => h
    | cons v l ih => exact fun a h => ih _ (Map.wf_set _ _ _ _ h)
  exact key b (s.cp.mem, off) hc.mem

theorem cmdFwLoad_canon (s : State) (r : RunCmd) (hc : s.Canon) : (cmdFwLoad.start s r).st.Canon ∧ (cmdFwLoad.later s r).st.Canon := by
  constructor
  all_goals
    dsimp +zetaHave only [cmdFwLoad]
    repeat' (first
      | with_reducible assumption
      | (simp +zetaHave (maxDischargeDepth := 60) only [State.canon_mk, State.canon_eta, apply_ite State.Canon, apply_ite Prod.fst, ite_self, implies_true,
          apply_ite CmdOut.st, CmdOut.status_st, CmdOut.ok_st, CmdOut.done_st, CmdOut.wait_st, Rx.drop_canon,
          CmdOut.status_canon, CmdOut.ok_canon, State.readFrom_canon, State.whenRead_canon, State.loadFw_canon, hc]; done)
      | split
      | intro _
      | (dsimp +zetaHave only)
      | refine State.whenRead_canon _ _ _ ?_ ?_
      | refine CmdOut.orState_canon _ _ ?_ ?_)

theorem cmdFwStart_canon (s : State) (r : RunCmd) (hc : s.Canon) : (cmdFwStart.start s r).st.Canon ∧ (cmdFwStart.later s r).st.Canon := by
  constructor
  all_goals
    dsimp +zetaHave only [cmdFwStart]
    repeat' (first
      | with_reducible assumption
      | (simp +zetaHave (maxDischargeDepth := 60) only [State.canon_mk, State.canon_eta, apply_ite State.Canon, apply_ite Prod.fst, ite_self, implies_true,
          apply_ite CmdOut.st, CmdOut.status_st, CmdOut.ok_st, CmdOut.done_st, CmdOut.wait_st, CmdOut.status_canon,
          CmdOut.ok_canon, hc]; done)
      | split
      | intro _
      | (dsimp +zetaHave only)
      | refine State.whenRead_canon _ _ _ ?_ ?_
      | refine CmdOut.orState_canon _ _ ?_ ?_)

theorem cmdTimeAcquire_canon (s : State) (r : RunCmd) (hc : s.Canon) : (cmdTimeAcquire.start s r).st.Canon ∧ (cmdTimeAcquire.later s r).st.Canon := by
  constructor
  all_goals
    dsimp +zetaHave only [cmdTimeAcquire]
    repeat' (first
      | with_reducible assumption
      | (simp +zetaHave (maxDischargeDepth := 60) only [State.canon_mk, State.canon_eta, apply_ite State.Canon, apply_ite Prod.fst, ite_self, implies_true,
          apply_ite CmdOut.st, CmdOut.status_st, CmdOut.ok_st, CmdOut.done_st, CmdOut.wait_st, CmdOut.status_canon,
          CmdOut.ok_canon, hc]; done)
      | split
      | intro _
      | (dsimp +zetaHave only)
      | refine State.whenRead_canon _ _ _ ?_ ?_
      | refine CmdOut.orState_canon _ _ ?_ ?_)

theorem cmdTimeRestep_canon (s : State) (r : RunCmd) (hc : s.Canon) : (cmdTimeRestep.start s r).st.Canon ∧ (cmdTimeRestep.later s r).st.Canon := by
  constructor
  all_goals
    dsimp +zetaHave only [cmdTimeRestep]
    repeat' (first
      | with_reducible assumption
      | (simp +zetaHave (maxDischargeDepth := 60) only [State.canon_mk, State.canon_eta, apply_ite State.Canon, apply_ite Prod.fst, ite_self, implies_true,
          apply_ite CmdOut.st, CmdOut.status_st, CmdOut.ok_st, CmdOut.done_st, CmdOut.wait_st, CmdOut.status_canon,
          CmdOut.ok_canon, hc]; done)
      | split
      | intro _
      | (dsimp +zetaHave only)
      | refine State.whenRead_canon _ _ _ ?_ ?_
      | refine CmdOut.orState_canon _ _ ?_ ?_)

theorem cmdTimeSlewLimit_canon (s : State) (r : RunCmd) (hc : s.Canon) : (cmdTimeSlewLimit.start s r).st.Canon ∧ (cmdTimeSlewLimit.later s r).st.Canon := by
  constructor
  all_goals
    dsimp +zetaHave only [cmdTimeSlewLimit]
    repeat' (first
      | with_reducible assumption
      | (simp +zetaHave (maxDischargeDepth := 60) only [State.canon_mk, State.canon_eta, apply_ite State.Canon, apply_ite Prod.fst, ite_self, implies_true,
          apply_ite CmdOut.st, CmdOut.status_st, CmdOut.ok_st, CmdOut.done_st, CmdOut.wait_st, State.wr_canon,
          CmdOut.status_canon, CmdOut.ok_canon, State.resteer_canon, hc]; done)
      | split
      | intro _
      | (dsimp +zetaHave only)
      | refine State.whenRead_canon _ _ _ ?_ ?_
      | refine CmdOut.orState_canon _ _ ?_ ?_)

theorem cmdTimeDomainSelect_canon (s : State) (r : RunCmd) (hc : s.Canon) : (cmdTimeDomainSelect.start s r).st.Canon ∧ (cmdTimeDomainSelect.later s r).st.Canon := by
  constructor
  all_goals
    dsimp +zetaHave only [cmdTimeDomainSelect]
    repeat' (first
      | with_reducible assumption
      | (simp +zetaHave (maxDischargeDepth := 60) only [State.canon_mk, State.canon_eta, apply_ite State.Canon, apply_ite Prod.fst, ite_self, implies_true,
          apply_ite CmdOut.st, CmdOut.status_st, CmdOut.ok_st, CmdOut.done_st, CmdOut.wait_st, CmdOut.status_canon,
          CmdOut.ok_canon, hc]; done)
      | split
      | intro _
      | (dsimp +zetaHave only)
      | refine State.whenRead_canon _ _ _ ?_ ?_
      | refine CmdOut.orState_canon _ _ ?_ ?_)

theorem cmdTimeSwitchAt_canon (s : State) (r : RunCmd) (hc : s.Canon) : (cmdTimeSwitchAt.start s r).st.Canon ∧ (cmdTimeSwitchAt.later s r).st.Canon := by
  constructor
  all_goals
    dsimp +zetaHave only [cmdTimeSwitchAt]
    repeat' (first
      | with_reducible assumption
      | (simp +zetaHave (maxDischargeDepth := 60) only [State.canon_mk, State.canon_eta, apply_ite State.Canon, apply_ite Prod.fst, ite_self, implies_true,
          apply_ite CmdOut.st, CmdOut.status_st, CmdOut.ok_st, CmdOut.done_st, CmdOut.wait_st, State.holdPlan_canon,
          State.cancelPlan_canon, State.originate_canon, CmdOut.status_canon, CmdOut.ok_canon, hc]; done)
      | split
      | intro _
      | (dsimp +zetaHave only)
      | refine State.whenRead_canon _ _ _ ?_ ?_
      | refine CmdOut.orState_canon _ _ ?_ ?_)

theorem cmdTimeHoldoverForce_canon (s : State) (r : RunCmd) (hc : s.Canon) : (cmdTimeHoldoverForce.start s r).st.Canon ∧ (cmdTimeHoldoverForce.later s r).st.Canon := by
  constructor
  all_goals
    dsimp +zetaHave only [cmdTimeHoldoverForce]
    repeat' (first
      | with_reducible assumption
      | (simp +zetaHave (maxDischargeDepth := 60) only [State.canon_mk, State.canon_eta, apply_ite State.Canon, apply_ite Prod.fst, ite_self, implies_true,
          apply_ite CmdOut.st, CmdOut.status_st, CmdOut.ok_st, CmdOut.done_st, CmdOut.wait_st, State.setServo_canon,
          CmdOut.status_canon, CmdOut.ok_canon, hc]; done)
      | split
      | intro _
      | (dsimp +zetaHave only)
      | refine State.whenRead_canon _ _ _ ?_ ?_
      | refine CmdOut.orState_canon _ _ ?_ ?_)

theorem cmdTimeEpochSet_canon (s : State) (r : RunCmd) (hc : s.Canon) : (cmdTimeEpochSet.start s r).st.Canon ∧ (cmdTimeEpochSet.later s r).st.Canon := by
  constructor
  all_goals
    dsimp +zetaHave only [cmdTimeEpochSet]
    repeat' (first
      | with_reducible assumption
      | (simp +zetaHave (maxDischargeDepth := 60) only [State.canon_mk, State.canon_eta, apply_ite State.Canon, apply_ite Prod.fst, ite_self, implies_true,
          apply_ite CmdOut.st, CmdOut.status_st, CmdOut.ok_st, CmdOut.done_st, CmdOut.wait_st, CmdOut.ok_canon, hc]; done)
      | split
      | intro _
      | (dsimp +zetaHave only)
      | refine State.whenRead_canon _ _ _ ?_ ?_
      | refine CmdOut.orState_canon _ _ ?_ ?_)

theorem cmdRefConfigure_canon (s : State) (r : RunCmd) (hc : s.Canon) : (cmdRefConfigure.start s r).st.Canon ∧ (cmdRefConfigure.later s r).st.Canon := by
  constructor
  all_goals
    dsimp +zetaHave only [cmdRefConfigure]
    repeat' (first
      | with_reducible assumption
      | (simp +zetaHave (maxDischargeDepth := 60) only [State.canon_mk, State.canon_eta, apply_ite State.Canon, apply_ite Prod.fst, ite_self, implies_true,
          apply_ite CmdOut.st, CmdOut.status_st, CmdOut.ok_st, CmdOut.done_st, CmdOut.wait_st, State.wr_canon,
          State.candReconfigure_canon, CmdOut.status_canon, CmdOut.ok_canon, hc]; done)
      | split
      | intro _
      | (dsimp +zetaHave only)
      | refine State.whenRead_canon _ _ _ ?_ ?_
      | refine CmdOut.orState_canon _ _ ?_ ?_)

theorem cmdRefPriority_canon (s : State) (r : RunCmd) (hc : s.Canon) : (cmdRefPriority.start s r).st.Canon ∧ (cmdRefPriority.later s r).st.Canon := by
  constructor
  all_goals
    dsimp +zetaHave only [cmdRefPriority]
    repeat' (first
      | with_reducible assumption
      | (simp +zetaHave +contextual (maxDischargeDepth := 60) only [State.canon_mk, State.canon_eta, apply_ite State.Canon, apply_ite Prod.fst, ite_self, implies_true,
          State.foldl_canon, State.foldl_fst_canon, apply_ite CmdOut.st, CmdOut.status_st, CmdOut.ok_st,
          CmdOut.done_st, CmdOut.wait_st, CmdOut.ok_canon, hc]; done)
      | split
      | intro _
      | (dsimp +zetaHave only)
      | refine State.whenRead_canon _ _ _ ?_ ?_
      | refine CmdOut.orState_canon _ _ ?_ ?_
      | refine State.foldl_canon _ _ _ ?_ (fun _ _ hc => ?_)
      | refine State.foldl_fst_canon _ _ _ ?_ (fun _ _ hc => ?_))

theorem State.prioBoundary_canon (s : State) (hc : s.Canon) : (State.prioBoundary s).Canon := by
  unfold State.prioBoundary
  repeat' (first
    | with_reducible assumption
    | (simp +zetaHave +contextual (maxDischargeDepth := 60) only [State.canon_mk, State.canon_eta, apply_ite State.Canon, apply_ite Prod.fst, ite_self, implies_true,
        State.each_canon, State.wrFld_canon, hc]; done)
    | split
    | intro _
    | (dsimp +zetaHave only)
    | refine State.each_canon _ _ _ ?_ (fun _ _ hc => ?_))

theorem cmdRefLoopOpen_canon (s : State) (r : RunCmd) (hc : s.Canon) : (cmdRefLoopOpen.start s r).st.Canon ∧ (cmdRefLoopOpen.later s r).st.Canon := by
  constructor
  all_goals
    dsimp +zetaHave only [cmdRefLoopOpen]
    repeat' (first
      | with_reducible assumption
      | (simp +zetaHave (maxDischargeDepth := 60) only [State.canon_mk, State.canon_eta, apply_ite State.Canon, apply_ite Prod.fst, ite_self, implies_true,
          apply_ite CmdOut.st, CmdOut.status_st, CmdOut.ok_st, CmdOut.done_st, CmdOut.wait_st, State.setServo_canon,
          CmdOut.status_canon, CmdOut.ok_canon, hc]; done)
      | split
      | intro _
      | (dsimp +zetaHave only)
      | refine State.whenRead_canon _ _ _ ?_ ?_
      | refine CmdOut.orState_canon _ _ ?_ ?_)

theorem cmdRefLoopClose_canon (s : State) (r : RunCmd) (hc : s.Canon) : (cmdRefLoopClose.start s r).st.Canon ∧ (cmdRefLoopClose.later s r).st.Canon := by
  constructor
  all_goals
    dsimp +zetaHave only [cmdRefLoopClose]
    repeat' (first
      | with_reducible assumption
      | (simp +zetaHave (maxDischargeDepth := 60) only [State.canon_mk, State.canon_eta, apply_ite State.Canon, apply_ite Prod.fst, ite_self, implies_true,
          apply_ite CmdOut.st, CmdOut.status_st, CmdOut.ok_st, CmdOut.done_st, CmdOut.wait_st, State.setServo_canon,
          CmdOut.status_canon, CmdOut.ok_canon, hc]; done)
      | split
      | intro _
      | (dsimp +zetaHave only)
      | refine State.whenRead_canon _ _ _ ?_ ?_
      | refine CmdOut.orState_canon _ _ ?_ ?_)

theorem cmdRefCorrect_canon (s : State) (r : RunCmd) (hc : s.Canon) : (cmdRefCorrect.start s r).st.Canon ∧ (cmdRefCorrect.later s r).st.Canon := by
  constructor
  all_goals
    dsimp +zetaHave only [cmdRefCorrect]
    repeat' (first
      | with_reducible assumption
      | (simp +zetaHave (maxDischargeDepth := 60) only [State.canon_mk, State.canon_eta, apply_ite State.Canon, apply_ite Prod.fst, ite_self, implies_true,
          apply_ite CmdOut.st, CmdOut.status_st, CmdOut.ok_st, CmdOut.done_st, CmdOut.wait_st, State.count_canon,
          State.setServo_canon, CmdOut.status_canon, CmdOut.ok_canon, hc]; done)
      | split
      | intro _
      | (dsimp +zetaHave only)
      | refine State.whenRead_canon _ _ _ ?_ ?_
      | refine CmdOut.orState_canon _ _ ?_ ?_)

theorem cmdIntervalArm_canon (s : State) (r : RunCmd) (hc : s.Canon) : (cmdIntervalArm.start s r).st.Canon ∧ (cmdIntervalArm.later s r).st.Canon := by
  constructor
  all_goals
    dsimp +zetaHave only [cmdIntervalArm]
    repeat' (first
      | with_reducible assumption
      | (simp +zetaHave (maxDischargeDepth := 60) only [State.canon_mk, State.canon_eta, apply_ite State.Canon, apply_ite Prod.fst, ite_self, implies_true,
          apply_ite CmdOut.st, CmdOut.status_st, CmdOut.ok_st, CmdOut.done_st, CmdOut.wait_st, State.imArm_canon,
          CmdOut.status_canon, CmdOut.ok_canon, hc]; done)
      | split
      | intro _
      | (dsimp +zetaHave only)
      | refine State.whenRead_canon _ _ _ ?_ ?_
      | refine CmdOut.orState_canon _ _ ?_ ?_)

theorem cmdIntervalAbort_canon (s : State) (r : RunCmd) (hc : s.Canon) : (cmdIntervalAbort.start s r).st.Canon ∧ (cmdIntervalAbort.later s r).st.Canon := by
  constructor
  all_goals
    dsimp +zetaHave only [cmdIntervalAbort]
    repeat' (first
      | with_reducible assumption
      | (simp +zetaHave (maxDischargeDepth := 60) only [State.canon_mk, State.canon_eta, apply_ite State.Canon, apply_ite Prod.fst, ite_self, implies_true,
          apply_ite CmdOut.st, CmdOut.status_st, CmdOut.ok_st, CmdOut.done_st, CmdOut.wait_st, State.imAbort_canon,
          CmdOut.status_canon, CmdOut.ok_canon, hc]; done)
      | split
      | intro _
      | (dsimp +zetaHave only)
      | refine State.whenRead_canon _ _ _ ?_ ?_
      | refine CmdOut.orState_canon _ _ ?_ ?_)

theorem State.putWords_canon (s : State) (i : Nat) (l : List Nat) (hc : s.Canon) : (s.putWords i l).Canon := by
  induction l generalizing s i with
  | nil => exact hc
  | cons w l ih => rw [State.putWords]; exact ih _ _ (State.putWord_canon _ _ _ hc)

theorem cmdSeqLoad_canon (s : State) (r : RunCmd) (hc : s.Canon) : (cmdSeqLoad.start s r).st.Canon ∧ (cmdSeqLoad.later s r).st.Canon := by
  constructor
  all_goals
    dsimp +zetaHave only [cmdSeqLoad]
    repeat' (first
      | with_reducible assumption
      | (simp +zetaHave (maxDischargeDepth := 60) only [State.canon_mk, State.canon_eta, apply_ite State.Canon, apply_ite Prod.fst, ite_self, implies_true,
          apply_ite CmdOut.st, CmdOut.status_st, CmdOut.ok_st, CmdOut.done_st, CmdOut.wait_st, CmdOut.status_canon,
          CmdOut.ok_canon, State.readFrom_canon, State.whenRead_canon, State.putWords_canon, hc]; done)
      | split
      | intro _
      | (dsimp +zetaHave only)
      | refine State.whenRead_canon _ _ _ ?_ ?_
      | refine CmdOut.orState_canon _ _ ?_ ?_)

theorem cmdSeqStart_canon (s : State) (r : RunCmd) (hc : s.Canon) : (cmdSeqStart.start s r).st.Canon ∧ (cmdSeqStart.later s r).st.Canon := by
  constructor
  all_goals
    dsimp +zetaHave only [cmdSeqStart]
    repeat' (first
      | with_reducible assumption
      | (simp +zetaHave (maxDischargeDepth := 60) only [State.canon_mk, State.canon_eta, apply_ite State.Canon, apply_ite Prod.fst, ite_self, implies_true,
          apply_ite CmdOut.st, CmdOut.status_st, CmdOut.ok_st, CmdOut.done_st, CmdOut.wait_st, Rx.drop_canon,
          State.setSq_canon, CmdOut.status_canon, CmdOut.ok_canon, hc]; done)
      | split
      | intro _
      | (dsimp +zetaHave only)
      | refine State.whenRead_canon _ _ _ ?_ ?_
      | refine CmdOut.orState_canon _ _ ?_ ?_)

theorem cmdSeqStop_canon (s : State) (r : RunCmd) (hc : s.Canon) : (cmdSeqStop.start s r).st.Canon ∧ (cmdSeqStop.later s r).st.Canon := by
  constructor
  all_goals
    dsimp +zetaHave only [cmdSeqStop]
    repeat' (first
      | with_reducible assumption
      | (simp +zetaHave (maxDischargeDepth := 60) only [State.canon_mk, State.canon_eta, apply_ite State.Canon, apply_ite Prod.fst, ite_self, implies_true,
          apply_ite CmdOut.st, CmdOut.status_st, CmdOut.ok_st, CmdOut.done_st, CmdOut.wait_st, State.setSq_canon,
          CmdOut.status_canon, CmdOut.ok_canon, hc]; done)
      | split
      | intro _
      | (dsimp +zetaHave only)
      | refine State.whenRead_canon _ _ _ ?_ ?_
      | refine CmdOut.orState_canon _ _ ?_ ?_)

theorem State.rootEvent_canon (s : State) (kind : Nat) (w : WireTime) (arg : Nat) (hc : s.Canon) : (State.rootEvent s kind w arg).1.Canon := by
  unfold State.rootEvent
  repeat' (first
    | with_reducible assumption
    | (simp +zetaHave (maxDischargeDepth := 60) only [State.canon_mk, State.canon_eta, apply_ite State.Canon, apply_ite Prod.fst, ite_self, implies_true,
        State.takeEvent_canon, State.originate_canon, hc]; done)
    | split
    | intro _
    | (dsimp +zetaHave only))

theorem cmdSeqArm_canon (s : State) (r : RunCmd) (hc : s.Canon) : (cmdSeqArm.start s r).st.Canon ∧ (cmdSeqArm.later s r).st.Canon := by
  constructor
  all_goals
    dsimp +zetaHave only [cmdSeqArm]
    repeat' (first
      | with_reducible assumption
      | (simp +zetaHave (maxDischargeDepth := 60) only [State.canon_mk, State.canon_eta, apply_ite State.Canon, apply_ite Prod.fst, ite_self, implies_true,
          apply_ite CmdOut.st, CmdOut.status_st, CmdOut.ok_st, CmdOut.done_st, CmdOut.wait_st, State.takeEvent_canon,
          CmdOut.status_canon, CmdOut.ok_canon, State.rootEvent_canon, hc]; done)
      | split
      | intro _
      | (dsimp +zetaHave only)
      | refine State.whenRead_canon _ _ _ ?_ ?_
      | refine CmdOut.orState_canon _ _ ?_ ?_)

theorem cmdSeqCancel_canon (s : State) (r : RunCmd) (hc : s.Canon) : (cmdSeqCancel.start s r).st.Canon ∧ (cmdSeqCancel.later s r).st.Canon := by
  constructor
  all_goals
    dsimp +zetaHave only [cmdSeqCancel]
    repeat' (first
      | with_reducible assumption
      | (simp +zetaHave (maxDischargeDepth := 60) only [State.canon_mk, State.canon_eta, apply_ite State.Canon, apply_ite Prod.fst, ite_self, implies_true,
          apply_ite CmdOut.st, CmdOut.status_st, CmdOut.ok_st, CmdOut.done_st, CmdOut.wait_st, State.cancelEvent_canon,
          CmdOut.ok_canon, State.rootEvent_canon, hc]; done)
      | split
      | intro _
      | (dsimp +zetaHave only)
      | refine State.whenRead_canon _ _ _ ?_ ?_
      | refine CmdOut.orState_canon _ _ ?_ ?_)

theorem cmdObjCtxDefine_canon (s : State) (r : RunCmd) (hc : s.Canon) : (cmdObjCtxDefine.start s r).st.Canon ∧ (cmdObjCtxDefine.later s r).st.Canon := by
  constructor
  all_goals
    dsimp +zetaHave only [cmdObjCtxDefine]
    repeat' (first
      | with_reducible assumption
      | (simp +zetaHave (maxDischargeDepth := 60) only [State.canon_mk, State.canon_eta, apply_ite State.Canon, apply_ite Prod.fst, ite_self, implies_true,
          apply_ite CmdOut.st, CmdOut.status_st, CmdOut.ok_st, CmdOut.done_st, CmdOut.wait_st, State.defineCtx_canon,
          CmdOut.status_canon, CmdOut.ok_canon, hc]; done)
      | split
      | intro _
      | (dsimp +zetaHave only)
      | refine State.whenRead_canon _ _ _ ?_ ?_
      | refine CmdOut.orState_canon _ _ ?_ ?_)

theorem State.transRange_canon (s : State) (h : Nat) (own : Bool) (n : Nat) (acc : List Nat) (hs : s.Canon) :
    (s.transRange h own n acc).1.Canon := by
  induction n generalizing s h acc with
  | zero => exact hs
  | succ n ih =>
    have hc := State.commandTrans_canon s h own hs
    unfold State.transRange
    split
    · exact hs
    · split <;> rename_i e <;> rw [e] at hc
      · exact hc
      · exact ih _ _ _ hc
      · exact hc

theorem State.dropTrans_canon (s : State) (hc : s.Canon) : (State.dropTrans s).Canon := by
  unfold State.dropTrans
  repeat' (first
    | with_reducible assumption
    | (simp +zetaHave (maxDischargeDepth := 60) only [State.canon_mk, State.canon_eta, apply_ite State.Canon, apply_ite Prod.fst, ite_self, implies_true,
        hc]; done)
    | split
    | intro _
    | (dsimp +zetaHave only))

theorem CmdOut.untranslated_canon (s : State) (r : TransRes) (hc : s.Canon) : (CmdOut.untranslated s r).st.Canon := by
  unfold CmdOut.untranslated
  split <;> exact State.dropTrans_canon s hc

theorem State.objInit_canon (s : State) (r : RunCmd) (hs : s.Canon) : (s.objInit r).st.Canon := by
  have hc := State.transRange_canon s (prm r.p 1) false (prm r.p 2) [] hs
  unfold State.objInit
  dsimp +zetaHave only
  split <;> rename_i e <;> rw [e] at hc
  · exact hc
  · exact CmdOut.untranslated_canon _ _ hc
  · exact State.each_canon _ _ _ (State.dropTrans_canon _ hc) fun t n ht => State.initSlot_canon t _ _ _ _ ht

theorem cmdObjInit_canon (s : State) (r : RunCmd) (hc : s.Canon) : (cmdObjInit.start s r).st.Canon ∧ (cmdObjInit.later s r).st.Canon := by
  constructor
  all_goals
    dsimp +zetaHave only [cmdObjInit]
    repeat' (first
      | with_reducible assumption
      | (simp +zetaHave (maxDischargeDepth := 60) only [State.canon_mk, State.canon_eta, apply_ite State.Canon, apply_ite Prod.fst, ite_self, implies_true,
          apply_ite CmdOut.st, CmdOut.status_st, CmdOut.ok_st, CmdOut.done_st, CmdOut.wait_st, CmdOut.status_canon,
          State.objInit_canon, hc]; done)
      | split
      | intro _
      | (dsimp +zetaHave only)
      | refine State.whenRead_canon _ _ _ ?_ ?_
      | refine CmdOut.orState_canon _ _ ?_ ?_)

theorem cmdObjCtxClear_canon (s : State) (r : RunCmd) (hc : s.Canon) : (cmdObjCtxClear.start s r).st.Canon ∧ (cmdObjCtxClear.later s r).st.Canon := by
  constructor
  all_goals
    dsimp +zetaHave only [cmdObjCtxClear]
    repeat' (first
      | with_reducible assumption
      | (simp +zetaHave (maxDischargeDepth := 60) only [State.canon_mk, State.canon_eta, apply_ite State.Canon, apply_ite Prod.fst, ite_self, implies_true,
          apply_ite CmdOut.st, CmdOut.status_st, CmdOut.ok_st, CmdOut.done_st, CmdOut.wait_st, State.clearCtx_canon,
          State.scrub_canon, CmdOut.status_canon, CmdOut.ok_canon, hc]; done)
      | split
      | intro _
      | (dsimp +zetaHave only)
      | refine State.whenRead_canon _ _ _ ?_ ?_
      | refine CmdOut.orState_canon _ _ ?_ ?_)

theorem cmdObjCtxRelease_canon (s : State) (r : RunCmd) (hc : s.Canon) : (cmdObjCtxRelease.start s r).st.Canon ∧ (cmdObjCtxRelease.later s r).st.Canon := by
  constructor
  all_goals
    dsimp +zetaHave only [cmdObjCtxRelease]
    repeat' (first
      | with_reducible assumption
      | (simp +zetaHave (maxDischargeDepth := 60) only [State.canon_mk, State.canon_eta, apply_ite State.Canon, apply_ite Prod.fst, ite_self, implies_true,
          apply_ite CmdOut.st, CmdOut.status_st, CmdOut.ok_st, CmdOut.done_st, CmdOut.wait_st, State.releaseCtx_canon,
          State.scrub_canon, CmdOut.status_canon, CmdOut.ok_canon, hc]; done)
      | split
      | intro _
      | (dsimp +zetaHave only)
      | refine State.whenRead_canon _ _ _ ?_ ?_
      | refine CmdOut.orState_canon _ _ ?_ ?_)

theorem State.objWake_canon (s : State) (r : RunCmd) (hs : s.Canon) : (s.objWake r).st.Canon := by
  have hc := State.commandTrans_canon s (prm r.p 1) true hs
  unfold State.objWake
  split <;> rename_i e <;> rw [e] at hc
  · exact hc
  · exact State.foldl_canon _ _ _ (State.dropTrans_canon _ hc) fun t w ht => State.failWaiter_canon t w rWake true ht
  · exact CmdOut.untranslated_canon _ _ hc

theorem cmdObjWake_canon (s : State) (r : RunCmd) (hc : s.Canon) : (cmdObjWake.start s r).st.Canon ∧ (cmdObjWake.later s r).st.Canon := by
  constructor
  all_goals
    dsimp +zetaHave only [cmdObjWake]
    repeat' (first
      | with_reducible assumption
      | (simp +zetaHave (maxDischargeDepth := 60) only [State.canon_mk, State.canon_eta, apply_ite State.Canon, apply_ite Prod.fst, ite_self, implies_true,
          apply_ite CmdOut.st, CmdOut.status_st, CmdOut.ok_st, CmdOut.done_st, CmdOut.wait_st, CmdOut.status_canon,
          State.objWake_canon, hc]; done)
      | split
      | intro _
      | (dsimp +zetaHave only)
      | refine State.whenRead_canon _ _ _ ?_ ?_
      | refine CmdOut.orState_canon _ _ ?_ ?_)

theorem State.objOp_canon (s : State) (r : RunCmd) (hs : s.Canon) : (s.objOp r).st.Canon := by
  have hc := State.commandTrans_canon s (prm r.p 1) true hs
  have he : ∀ (t : State) (res : Nat), t.Canon → ((t.dropTrans.ended (prm r.p 1) res).valueOf none).1.Canon := fun t res ht =>
    State.valueOf_canon _ _ (State.ended_canon _ _ _ (State.dropTrans_canon _ ht))
  unfold State.objOp
  dsimp +zetaHave only
  split
  · exact he _ _ hs
  · split <;> rename_i e <;> rw [e] at hc
    · exact hc
    · exact State.opAt_canon _ _ _ _ _ (State.dropTrans_canon _ hc)
    · exact he _ _ hc
    · exact he _ _ hc

theorem cmdObjOp_canon (s : State) (r : RunCmd) (hc : s.Canon) : (cmdObjOp.start s r).st.Canon ∧ (cmdObjOp.later s r).st.Canon := by
  constructor
  all_goals
    dsimp +zetaHave only [cmdObjOp]
    repeat' (first
      | with_reducible assumption
      | (simp +zetaHave (maxDischargeDepth := 60) only [State.canon_mk, State.canon_eta, apply_ite State.Canon, apply_ite Prod.fst, ite_self, implies_true,
          apply_ite CmdOut.st, CmdOut.status_st, CmdOut.ok_st, CmdOut.done_st, CmdOut.wait_st, CmdOut.status_canon,
          State.objOp_canon, hc]; done)
      | split
      | intro _
      | (dsimp +zetaHave only)
      | refine State.whenRead_canon _ _ _ ?_ ?_
      | refine CmdOut.orState_canon _ _ ?_ ?_)

theorem cmdCollDefine_canon (s : State) (r : RunCmd) (hc : s.Canon) : (cmdCollDefine.start s r).st.Canon ∧ (cmdCollDefine.later s r).st.Canon := by
  constructor
  all_goals
    dsimp +zetaHave only [cmdCollDefine]
    repeat' (first
      | with_reducible assumption
      | (simp +zetaHave (maxDischargeDepth := 60) only [State.canon_mk, State.canon_eta, apply_ite State.Canon, apply_ite Prod.fst, ite_self, implies_true,
          apply_ite CmdOut.st, CmdOut.status_st, CmdOut.ok_st, CmdOut.done_st, CmdOut.wait_st, State.setHandle_canon,
          CmdOut.status_canon, CmdOut.ok_canon, hc]; done)
      | split
      | intro _
      | (dsimp +zetaHave only)
      | refine State.whenRead_canon _ _ _ ?_ ?_
      | refine CmdOut.orState_canon _ _ ?_ ?_)

theorem cmdCollRelease_canon (s : State) (r : RunCmd) (hc : s.Canon) : (cmdCollRelease.start s r).st.Canon ∧ (cmdCollRelease.later s r).st.Canon := by
  constructor
  all_goals
    dsimp +zetaHave only [cmdCollRelease]
    repeat' (first
      | with_reducible assumption
      | (simp +zetaHave (maxDischargeDepth := 60) only [State.canon_mk, State.canon_eta, apply_ite State.Canon, apply_ite Prod.fst, ite_self, implies_true,
          apply_ite CmdOut.st, CmdOut.status_st, CmdOut.ok_st, CmdOut.done_st, CmdOut.wait_st, State.setHandle_canon,
          CmdOut.status_canon, CmdOut.ok_canon, hc]; done)
      | split
      | intro _
      | (dsimp +zetaHave only)
      | refine State.whenRead_canon _ _ _ ?_ ?_
      | refine CmdOut.orState_canon _ _ ?_ ?_)

theorem cmdCollAbort_canon (s : State) (r : RunCmd) (hc : s.Canon) : (cmdCollAbort.start s r).st.Canon ∧ (cmdCollAbort.later s r).st.Canon := by
  constructor
  all_goals
    dsimp +zetaHave only [cmdCollAbort]
    repeat' (first
      | with_reducible assumption
      | (simp +zetaHave +contextual (maxDischargeDepth := 60) only [State.canon_mk, State.canon_eta, apply_ite State.Canon, apply_ite Prod.fst, ite_self, implies_true,
          State.foldl_canon, State.foldl_fst_canon, apply_ite CmdOut.st, CmdOut.status_st, CmdOut.ok_st,
          CmdOut.done_st, CmdOut.wait_st, State.rootAbort_canon, State.abortReq_canon, CmdOut.status_canon,
          CmdOut.ok_canon, hc]; done)
      | split
      | intro _
      | (dsimp +zetaHave only)
      | refine State.whenRead_canon _ _ _ ?_ ?_
      | refine CmdOut.orState_canon _ _ ?_ ?_
      | refine State.foldl_canon _ _ _ ?_ (fun _ _ hc => ?_)
      | refine State.foldl_fst_canon _ _ _ ?_ (fun _ _ hc => ?_))

theorem cmdPortCalibrate_canon (s : State) (r : RunCmd) (hc : s.Canon) : (cmdPortCalibrate.start s r).st.Canon ∧ (cmdPortCalibrate.later s r).st.Canon := by
  constructor
  all_goals
    dsimp +zetaHave only [cmdPortCalibrate]
    repeat' (first
      | with_reducible assumption
      | (simp +zetaHave (maxDischargeDepth := 60) only [State.canon_mk, State.canon_eta, apply_ite State.Canon, apply_ite Prod.fst, ite_self, implies_true,
          apply_ite CmdOut.st, CmdOut.status_st, CmdOut.ok_st, CmdOut.done_st, CmdOut.wait_st, State.claimEngine_canon,
          CmdOut.status_canon, CmdOut.ok_canon, hc]; done)
      | split
      | intro _
      | (dsimp +zetaHave only)
      | refine State.whenRead_canon _ _ _ ?_ ?_
      | refine CmdOut.orState_canon _ _ ?_ ?_)

theorem CmdOut.orState_canon (s : State) (o : Option State) (hc : s.Canon) (h : ∀ t, o = some t → t.Canon) :
    (CmdOut.orState s o).st.Canon := by
  unfold CmdOut.orState
  split
  · exact h _ rfl
  · exact hc

theorem cmdPortRetireRow_canon (s : State) (r : RunCmd) (hc : s.Canon) : (cmdPortRetireRow.start s r).st.Canon ∧ (cmdPortRetireRow.later s r).st.Canon := by
  refine ⟨?_, hc⟩
  unfold cmdPortRetireRow
  dsimp +zetaHave only
  repeat' (first | (simp only [CmdOut.status_st, hc]; done) | split)
  exact CmdOut.orState_canon _ _ hc fun t h => State.cmdPortRetire_canon s _ _ t h hc

theorem cmdPortRestoreRow_canon (s : State) (r : RunCmd) (hc : s.Canon) : (cmdPortRestoreRow.start s r).st.Canon ∧ (cmdPortRestoreRow.later s r).st.Canon := by
  refine ⟨?_, hc⟩
  unfold cmdPortRestoreRow
  dsimp +zetaHave only
  repeat' (first | (simp only [CmdOut.status_st, hc]; done) | split)
  exact CmdOut.orState_canon _ _ hc fun t h => State.cmdPortRestore_canon s _ t h hc

theorem cmdPortSpareRow_canon (s : State) (r : RunCmd) (hc : s.Canon) : (cmdPortSpareRow.start s r).st.Canon ∧ (cmdPortSpareRow.later s r).st.Canon := by
  refine ⟨?_, hc⟩
  unfold cmdPortSpareRow
  dsimp +zetaHave only
  repeat' (first | (simp only [CmdOut.status_st, hc]; done) | split)
  refine CmdOut.orState_canon _ _ hc fun t h => ?_
  obtain ⟨u, hu, rfl⟩ := Option.map_eq_some_iff.mp h
  exact State.judged_canon _ _ _ (State.cmdPortSpare_canon s _ _ u hu hc)

theorem cmdPowerEnter_canon (s : State) (r : RunCmd) (hc : s.Canon) : (cmdPowerEnter.start s r).st.Canon ∧ (cmdPowerEnter.later s r).st.Canon := by
  refine ⟨?_, hc⟩
  unfold cmdPowerEnter
  dsimp +zetaHave only
  repeat' (first | (simp only [CmdOut.status_st, hc]; done) | split)
  exact CmdOut.orState_canon _ _ hc fun t h => State.powerRequest_canon s _ t h hc

theorem cmdPulseArm_canon (s : State) (r : RunCmd) (hc : s.Canon) : (cmdPulseArm.start s r).st.Canon ∧ (cmdPulseArm.later s r).st.Canon := by
  constructor
  all_goals
    dsimp +zetaHave only [cmdPulseArm]
    repeat' (first
      | with_reducible assumption
      | (simp +zetaHave (maxDischargeDepth := 60) only [State.canon_mk, State.canon_eta, apply_ite State.Canon, apply_ite Prod.fst, ite_self, implies_true,
          apply_ite CmdOut.st, CmdOut.status_st, CmdOut.ok_st, CmdOut.done_st, CmdOut.wait_st, State.addPulse_canon,
          CmdOut.status_canon, hc]; done)
      | split
      | intro _
      | (dsimp +zetaHave only)
      | refine State.whenRead_canon _ _ _ ?_ ?_
      | refine CmdOut.orState_canon _ _ ?_ ?_)

theorem cmdPulseCancel_canon (s : State) (r : RunCmd) (hc : s.Canon) : (cmdPulseCancel.start s r).st.Canon ∧ (cmdPulseCancel.later s r).st.Canon := by
  constructor
  all_goals
    dsimp +zetaHave only [cmdPulseCancel]
    repeat' (first
      | with_reducible assumption
      | (simp +zetaHave (maxDischargeDepth := 60) only [State.canon_mk, State.canon_eta, apply_ite State.Canon, apply_ite Prod.fst, ite_self, implies_true,
          apply_ite CmdOut.st, CmdOut.status_st, CmdOut.ok_st, CmdOut.done_st, CmdOut.wait_st, State.modPulse_canon,
          CmdOut.status_canon, CmdOut.ok_canon, hc]; done)
      | split
      | intro _
      | (dsimp +zetaHave only)
      | refine State.whenRead_canon _ _ _ ?_ ?_
      | refine CmdOut.orState_canon _ _ ?_ ?_)

theorem cmdClockClkout_canon (s : State) (r : RunCmd) (hc : s.Canon) : (cmdClockClkout.start s r).st.Canon ∧ (cmdClockClkout.later s r).st.Canon := by
  constructor
  all_goals
    dsimp +zetaHave only [cmdClockClkout]
    repeat' (first
      | with_reducible assumption
      | (simp +zetaHave (maxDischargeDepth := 60) only [State.canon_mk, State.canon_eta, apply_ite State.Canon, apply_ite Prod.fst, ite_self, implies_true,
          apply_ite CmdOut.st, CmdOut.status_st, CmdOut.ok_st, CmdOut.done_st, CmdOut.wait_st, State.clkoutWrite_canon,
          CmdOut.ok_canon, hc]; done)
      | split
      | intro _
      | (dsimp +zetaHave only)
      | refine State.whenRead_canon _ _ _ ?_ ?_
      | refine CmdOut.orState_canon _ _ ?_ ?_)

theorem cmdOf_canon (op : Nat) (c : Cmd) (h : cmdOf op = some c) (s : State) (r : RunCmd) (hc : s.Canon) :
    (c.start s r).st.Canon ∧ (c.later s r).st.Canon := by
  unfold cmdOf at h
  split at h <;> first | cases h | skip
  · exact cmdGenIdentify_canon s r hc
  · exact cmdGenStatus_canon s r hc
  · exact cmdTopologyLoad_canon s r hc
  · exact cmdGenReset_canon s r hc
  · exact cmdFwLoad_canon s r hc
  · exact cmdFwStart_canon s r hc
  · exact cmdTimeAcquire_canon s r hc
  · exact cmdTimeRestep_canon s r hc
  · exact cmdTimeSlewLimit_canon s r hc
  · exact cmdTimeDomainSelect_canon s r hc
  · exact cmdTimeSwitchAt_canon s r hc
  · exact cmdTimeHoldoverForce_canon s r hc
  · exact cmdTimeEpochSet_canon s r hc
  · exact cmdRefConfigure_canon s r hc
  · exact cmdRefPriority_canon s r hc
  · exact cmdRefLoopOpen_canon s r hc
  · exact cmdRefLoopClose_canon s r hc
  · exact cmdRefCorrect_canon s r hc
  · exact cmdIntervalArm_canon s r hc
  · exact cmdIntervalAbort_canon s r hc
  · exact cmdSeqLoad_canon s r hc
  · exact cmdSeqStart_canon s r hc
  · exact cmdSeqStop_canon s r hc
  · exact cmdSeqArm_canon s r hc
  · exact cmdSeqCancel_canon s r hc
  · exact cmdObjCtxDefine_canon s r hc
  · exact cmdObjInit_canon s r hc
  · exact cmdObjCtxClear_canon s r hc
  · exact cmdObjCtxRelease_canon s r hc
  · exact cmdObjWake_canon s r hc
  · exact cmdObjOp_canon s r hc
  · exact cmdCollDefine_canon s r hc
  · exact cmdCollRelease_canon s r hc
  · exact cmdCollAbort_canon s r hc
  · exact cmdPortCalibrate_canon s r hc
  · exact cmdPortRetireRow_canon s r hc
  · exact cmdPortRestoreRow_canon s r hc
  · exact cmdPortSpareRow_canon s r hc
  · exact cmdPowerEnter_canon s r hc
  · exact cmdPulseArm_canon s r hc
  · exact cmdPulseCancel_canon s r hc
  · exact cmdClockClkout_canon s r hc

theorem State.acceptIf_canon (s : State) (wanted : Nat → Bool) (f : State → RunCmd → Nat → State)
    (h : ∀ t r k, t.Canon → (f t r k).Canon) (hc : s.Canon) : (s.acceptIf wanted f).Canon := by
  unfold State.acceptIf
  dsimp +zetaHave only
  repeat' split
  · exact hc
  · exact hc
  · exact hc
  · exact h _ _ _ (State.setCmdSlot_canon _ _ _ (State.takeSlot_canon _ _ hc))

theorem State.acceptOp_canon (s : State) (op : Nat) (c : Cmd) (h : ∀ t r, t.Canon → (c.start t r).st.Canon) (hc : s.Canon) :
    (s.acceptOp op c).Canon := by
  unfold State.acceptOp
  refine State.acceptIf_canon s _ _ (fun t r k ht => ?_) hc
  split
  · refine State.complete_canon _ _ _ ?_
    split
    · exact State.count_canon _ _ _ ht
    · exact ht
  · exact CmdOut.settle_canon _ _ (h _ _ ht)

theorem State.pumpCmds_canon (s : State) (hc : s.Canon) : s.pumpCmds.Canon := by
  unfold State.pumpCmds
  refine State.foldl_canon _ _ _ hc fun t k ht => ?_
  split
  · exact ht
  · split
    · exact State.complete_canon _ _ _ ht
    · split
      · rename_i c h
        exact CmdOut.settle_canon _ _ (cmdOf_canon _ c h t _ ht).2
      · exact ht

theorem State.abortLong_canon (s : State) (hc : s.Canon) : (State.abortLong s).Canon := by
  unfold State.abortLong
  repeat' (first
    | with_reducible assumption
    | (simp +zetaHave +contextual (maxDischargeDepth := 60) only [State.canon_mk, State.canon_eta, apply_ite State.Canon, apply_ite Prod.fst, ite_self, implies_true,
        State.foldl_canon, State.foldl_fst_canon, apply_ite CmdOut.st, CmdOut.status_st, CmdOut.ok_st, CmdOut.done_st,
        CmdOut.wait_st, CmdOut.status_canon, State.complete_canon, hc]; done)
    | split
    | intro _
    | (dsimp +zetaHave only)
    | refine State.foldl_canon _ _ _ ?_ (fun _ _ hc => ?_)
    | refine State.foldl_fst_canon _ _ _ ?_ (fun _ _ hc => ?_))

end Sys2Proof.Machine
end

