-- ==== Sys2Proof/Laws/CanonMem.lean ====
section
/-! SUPPORT. Sys2Proof/Laws/CanonMem.lean: every operation of Machine/Mem.lean keeps the tables of the state in canonical
form. -/

set_option linter.all false
set_option Elab.async false

namespace Sys2Proof.Machine
open Sys2Proof.Config
set_option linter.unusedSimpArgs false

theorem State.readEnds_canon (s : State) (q : MemReq) (bad : Bool) (hc : s.Canon) : (State.readEnds s q bad).Canon := by
  unfold State.readEnds
  repeat' (first
    | with_reducible assumption
    | (simp +zetaHave (maxDischargeDepth := 60) only [State.canon_mk, State.canon_eta, apply_ite State.Canon, apply_ite Prod.fst, ite_self, implies_true,
        apply_ite CmdOut.st, CmdOut.status_st, CmdOut.ok_st, CmdOut.done_st, CmdOut.wait_st, State.memPump_canon,
        Rx.drop_canon, State.contained_canon, State.transDone_canon, State.putRun_canon, State.pumpCmds_canon, hc]; done)
    | split
    | intro _
    | (dsimp +zetaHave only))

theorem State.readBeats_canon (s : State) (id : Nat) (bytes : List Nat) (bad : Bool) (hc : s.Canon) : (State.readBeats s id bytes bad).Canon := by
  unfold State.readBeats
  repeat' (first
    | with_reducible assumption
    | (simp +zetaHave (maxDischargeDepth := 60) only [State.canon_mk, State.canon_eta, apply_ite State.Canon, apply_ite Prod.fst, ite_self, implies_true,
        State.readEnds_canon, hc]; done)
    | split
    | intro _
    | (dsimp +zetaHave only))

theorem State.writeEnds_canon (s : State) (q : MemReq) (err : Bool) (hc : s.Canon) : (State.writeEnds s q err).Canon := by
  unfold State.writeEnds
  repeat' (first
    | with_reducible assumption
    | (simp +zetaHave (maxDischargeDepth := 60) only [State.canon_mk, State.canon_eta, apply_ite State.Canon, apply_ite Prod.fst, ite_self, implies_true,
        State.count_canon, State.raise_canon, State.memPump_canon, State.ringAcked_canon, hc]; done)
    | split
    | intro _
    | (dsimp +zetaHave only))

theorem State.memTimeouts_canon (s : State) (t : Nat) (hc : s.Canon) : (State.memTimeouts s t).Canon := by
  unfold State.memTimeouts
  repeat' (first
    | with_reducible assumption
    | (simp +zetaHave +contextual (maxDischargeDepth := 60) only [State.canon_mk, State.canon_eta, apply_ite State.Canon, apply_ite Prod.fst, ite_self, implies_true,
        State.foldl_canon, State.foldl_fst_canon, State.readEnds_canon, State.writeEnds_canon, hc]; done)
    | split
    | intro _
    | (dsimp +zetaHave only)
    | refine State.foldl_canon _ _ _ ?_ (fun _ _ hc => ?_)
    | refine State.foldl_fst_canon _ _ _ ?_ (fun _ _ hc => ?_))

end Sys2Proof.Machine
end

