-- ==== Sys2Proof/Laws/CanonFault.lean ====
section
/-! SUPPORT. Sys2Proof/Laws/CanonFault.lean: every operation of Machine/Fault.lean keeps the tables of the state in canonical
form. -/

set_option linter.all false
set_option Elab.async false

namespace Sys2Proof.Machine
open Sys2Proof.Config
set_option linter.unusedSimpArgs false

theorem State.badSlot_canon (s : State) (h : Nat) (who : TransFor) (hc : s.Canon) : (State.badSlot s h who).Canon := by
  unfold State.badSlot
  repeat' (first
    | with_reducible assumption
    | (simp +zetaHave (maxDischargeDepth := 60) only [State.canon_mk, State.canon_eta, apply_ite State.Canon, apply_ite Prod.fst, ite_self, implies_true,
        State.contained_canon, State.endEngine_canon, State.transFor_canon, hc]; done)
    | split
    | intro _
    | (dsimp +zetaHave only))

theorem State.badCounter_canon (s : State) (cid : Nat) (isn : Nat) (attempt : Nat) (hc : s.Canon) : (State.badCounter s cid isn attempt).Canon := by
  unfold State.badCounter
  repeat' (first
    | with_reducible assumption
    | (simp +zetaHave (maxDischargeDepth := 60) only [State.canon_mk, State.canon_eta, apply_ite State.Canon, apply_ite Prod.fst, ite_self, implies_true,
        State.abortReq_canon, State.contained_canon, hc]; done)
    | split
    | intro _
    | (dsimp +zetaHave only))

theorem State.badLog_canon (s : State) (h : Nat) (isn : Nat) (hc : s.Canon) : (State.badLog s h isn).Canon := by
  unfold State.badLog
  repeat' (first
    | with_reducible assumption
    | (simp +zetaHave (maxDischargeDepth := 60) only [State.canon_mk, State.canon_eta, apply_ite State.Canon, apply_ite Prod.fst, ite_self, implies_true,
        State.abortReq_canon, State.contained_canon, hc]; done)
    | split
    | intro _
    | (dsimp +zetaHave only))

theorem State.badStamp_canon (s : State) (p : Nat) (hc : s.Canon) : (State.badStamp s p).Canon := by
  unfold State.badStamp
  repeat' (first
    | with_reducible assumption
    | (simp +zetaHave (maxDischargeDepth := 60) only [State.canon_mk, State.canon_eta, apply_ite State.Canon, apply_ite Prod.fst, ite_self, implies_true,
        State.count_canon, State.setPort_canon, State.dropExch_canon, State.contained_canon, hc]; done)
    | split
    | intro _
    | (dsimp +zetaHave only))

theorem State.badReplay_canon (s : State) (p : Nat) (hc : s.Canon) : (State.badReplay s p).Canon := by
  unfold State.badReplay
  repeat' (first
    | with_reducible assumption
    | (simp +zetaHave (maxDischargeDepth := 60) only [State.canon_mk, State.canon_eta, apply_ite State.Canon, apply_ite Prod.fst, ite_self, implies_true,
        State.attemptFails_canon, State.contained_canon, hc]; done)
    | split
    | intro _
    | (dsimp +zetaHave only))

theorem State.badTranslation_canon (s : State) (id : Nat) (hc : s.Canon) : (State.badTranslation s id).Canon := by
  unfold State.badTranslation
  repeat' (first
    | with_reducible assumption
    | (simp +zetaHave (maxDischargeDepth := 60) only [State.canon_mk, State.canon_eta, apply_ite State.Canon, apply_ite Prod.fst, ite_self, implies_true,
        State.readEnds_canon, hc]; done)
    | split
    | intro _
    | (dsimp +zetaHave only))

theorem State.zeroRead_canon (s : State) (m : Master) (hc : s.Canon) : (State.zeroRead s m).Canon := by
  unfold State.zeroRead
  repeat' (first
    | with_reducible assumption
    | (simp +zetaHave (maxDischargeDepth := 60) only [State.canon_mk, State.canon_eta, apply_ite State.Canon, apply_ite Prod.fst, ite_self, implies_true,
        State.emit_canon, hc]; done)
    | split
    | intro _
    | (dsimp +zetaHave only))

theorem State.underlayEnter_canon (s : State) (nc : Nat) (hc : s.Canon) : (State.underlayEnter s nc).Canon := by
  unfold State.underlayEnter
  repeat' (first
    | with_reducible assumption
    | (simp +zetaHave +contextual (maxDischargeDepth := 60) only [State.canon_mk, State.canon_eta, apply_ite State.Canon, apply_ite Prod.fst, ite_self, implies_true,
        State.each_canon, State.count_canon, State.napWake_canon, State.abortShots_canon, State.flushCT_canon,
        State.objStop_canon, State.underlayHold_canon, State.seqUnderlay_canon, State.gangLose_canon,
        State.abortLong_canon, hc]; done)
    | split
    | intro _
    | (dsimp +zetaHave only)
    | refine State.each_canon _ _ _ ?_ (fun _ _ hc => ?_))

theorem State.underlayBoundary_canon (s : State) (nc : Nat) (hc : s.Canon) : (State.underlayBoundary s nc).Canon := by
  unfold State.underlayBoundary
  repeat' (first
    | with_reducible assumption
    | (simp +zetaHave (maxDischargeDepth := 60) only [State.canon_mk, State.canon_eta, apply_ite State.Canon, apply_ite Prod.fst, ite_self, implies_true,
        State.underlayEnter_canon, hc]; done)
    | split
    | intro _
    | (dsimp +zetaHave only))

theorem State.underlayExit_canon (s : State) (hc : s.Canon) : (State.underlayExit s).Canon := by
  unfold State.underlayExit
  repeat' (first
    | with_reducible assumption
    | (simp +zetaHave (maxDischargeDepth := 60) only [State.canon_mk, State.canon_eta, apply_ite State.Canon, apply_ite Prod.fst, ite_self, implies_true,
        State.objReset_canon, State.seqReset_canon, State.fillAll_canon, hc]; done)
    | split
    | intro _
    | (dsimp +zetaHave only))

end Sys2Proof.Machine
end

