-- ==== Sys2Proof/Laws/CanonWrite.lean ====
section
/-! SUPPORT. Sys2Proof/Laws/CanonWrite.lean: every operation of Machine/Write.lean keeps the tables of the state in canonical
form. -/

set_option linter.all false
set_option Elab.async false

namespace Sys2Proof.Machine
open Sys2Proof.Config
set_option linter.unusedSimpArgs false

theorem State.ownWrite_canon (s : State) (m : Master) (v : Nat) (hc : s.Canon) : (State.ownWrite s m v).Canon := by
  unfold State.ownWrite
  repeat' (first
    | with_reducible assumption
    | (simp +zetaHave +contextual (maxDischargeDepth := 60) only [State.canon_mk, State.canon_eta, apply_ite State.Canon, apply_ite Prod.fst, ite_self, implies_true,
        State.foldl_canon, State.foldl_fst_canon, State.wr_canon, hc]; done)
    | split
    | intro _
    | (dsimp +zetaHave only)
    | refine State.foldl_canon _ _ _ ?_ (fun _ _ hc => ?_)
    | refine State.foldl_fst_canon _ _ _ ?_ (fun _ _ hc => ?_))

theorem State.ringCfgWrite_canon (s : State) (v : Nat) (hc : s.Canon) : (State.ringCfgWrite s v).Canon := by
  unfold State.ringCfgWrite
  repeat' (first
    | with_reducible assumption
    | (simp +zetaHave (maxDischargeDepth := 60) only [State.canon_mk, State.canon_eta, apply_ite State.Canon, apply_ite Prod.fst, ite_self, implies_true,
        State.wr_canon, hc]; done)
    | split
    | intro _
    | (dsimp +zetaHave only))

theorem State.putBlock_canon (s : State) (r : Reg) (v : Nat) (hc : s.Canon) : (State.putBlock s r v).Canon := by
  unfold State.putBlock
  repeat' (first
    | with_reducible assumption
    | (simp +zetaHave (maxDischargeDepth := 60) only [State.canon_mk, State.canon_eta, apply_ite State.Canon, apply_ite Prod.fst, ite_self, implies_true,
        State.wr_canon, State.pulseCfgWrite_canon, State.profileWrite_canon, State.candCfgWrite_canon,
        State.candDelayWrite_canon, hc]; done)
    | split
    | intro _
    | (dsimp +zetaHave only))

theorem State.putRw_canon (s : State) (m : Master) (r : Reg) (v : Nat) (hc : s.Canon) : (State.putRw s m r v).Canon := by
  unfold State.putRw
  repeat' (first
    | with_reducible assumption
    | (simp +zetaHave (maxDischargeDepth := 60) only [State.canon_mk, State.canon_eta, apply_ite State.Canon, apply_ite Prod.fst, ite_self, implies_true,
        State.wr_canon, State.portCtlWrite_canon, State.portConstWrite_canon, State.battenCtl_canon,
        State.imCtlWrite_canon, State.zcCtlWrite_canon, State.imCalCfgWrite_canon, State.cgCtlWrite_canon,
        State.clkoutWrite_canon, State.ownWrite_canon, State.ringCfgWrite_canon, State.putBlock_canon,
        State.resteer_canon, hc]; done)
    | split
    | intro _
    | (dsimp +zetaHave only))

theorem State.causeWrite_canon (s : State) (v : Nat) (hc : s.Canon) : (State.causeWrite s v).Canon := by
  unfold State.causeWrite
  repeat' (first
    | with_reducible assumption
    | (simp +zetaHave (maxDischargeDepth := 60) only [State.canon_mk, State.canon_eta, apply_ite State.Canon, apply_ite Prod.fst, ite_self, implies_true,
        State.irqRestart_canon, hc]; done)
    | split
    | intro _
    | (dsimp +zetaHave only))

theorem State.heartbeat_canon (s : State) (m : Master) (hc : s.Canon) : (State.heartbeat s m).Canon := by
  unfold State.heartbeat
  repeat' (first
    | with_reducible assumption
    | (simp +zetaHave (maxDischargeDepth := 60) only [State.canon_mk, State.canon_eta, apply_ite State.Canon, apply_ite Prod.fst, ite_self, implies_true,
        hc]; done)
    | split
    | intro _
    | (dsimp +zetaHave only))

theorem State.putOther_canon (s : State) (m : Master) (off : Nat) (v : Nat) (hc : s.Canon) : (State.putOther s m off v).Canon := by
  unfold State.putOther
  repeat' (first
    | with_reducible assumption
    | (simp +zetaHave (maxDischargeDepth := 60) only [State.canon_mk, State.canon_eta, apply_ite State.Canon, apply_ite Prod.fst, ite_self, implies_true,
        State.clearCounters_canon, State.raiseIf_canon, State.debtClear_canon, State.kick_canon, State.ulControl_canon,
        State.causeWrite_canon, State.heartbeat_canon, hc]; done)
    | split
    | intro _
    | (dsimp +zetaHave only))

theorem State.slotWrite_canon (s : State) (k : Nat) (b : Nat) (v : Nat) (wide : Bool) (hc : s.Canon) : (State.slotWrite s k b v wide).Canon := by
  unfold State.slotWrite
  repeat' (first
    | with_reducible assumption
    | (simp +zetaHave (maxDischargeDepth := 60) only [State.canon_mk, State.canon_eta, apply_ite State.Canon, apply_ite Prod.fst, ite_self, implies_true,
        apply_ite CmdOut.st, CmdOut.status_st, CmdOut.ok_st, CmdOut.done_st, CmdOut.wait_st, State.count_canon,
        State.openGate_canon, State.busy_canon, State.setCmdSlot_canon, State.queueSlot_canon, hc]; done)
    | split
    | intro _
    | (dsimp +zetaHave only))

theorem State.putReg_canon (s : State) (m : Master) (off : Nat) (v : Nat) (hc : s.Canon) : (State.putReg s m off v).Canon := by
  unfold State.putReg
  repeat' (first
    | with_reducible assumption
    | (simp +zetaHave (maxDischargeDepth := 60) only [State.canon_mk, State.canon_eta, apply_ite State.Canon, apply_ite Prod.fst, ite_self, implies_true,
        State.putRw_canon, State.putOther_canon, hc]; done)
    | split
    | intro _
    | (dsimp +zetaHave only))

theorem State.put32_canon (s : State) (m : Master) (off : Nat) (v : Nat) (hc : s.Canon) : (State.put32 s m off v).Canon := by
  unfold State.put32
  repeat' (first
    | with_reducible assumption
    | (simp +zetaHave (maxDischargeDepth := 60) only [State.canon_mk, State.canon_eta, apply_ite State.Canon, apply_ite Prod.fst, ite_self, implies_true,
        State.putReg_canon, hc]; done)
    | split
    | intro _
    | (dsimp +zetaHave only))

theorem State.regWrite_canon (s : State) (m : Master) (off : Nat) (wide : Bool) (v : Nat) (hc : s.Canon) : (State.regWrite s m off wide v).Canon := by
  unfold State.regWrite
  repeat' (first
    | with_reducible assumption
    | (simp +zetaHave (maxDischargeDepth := 60) only [State.canon_mk, State.canon_eta, apply_ite State.Canon, apply_ite Prod.fst, ite_self, implies_true,
        State.storeWrite_canon, State.slotWrite_canon, State.putReg_canon, State.put32_canon, hc]; done)
    | split
    | intro _
    | (dsimp +zetaHave only))

theorem State.touch_canon (s : State) (m : Master) (off : Nat) (hc : s.Canon) : (State.touch s m off).Canon := by
  unfold State.touch
  repeat' (first
    | with_reducible assumption
    | (simp +zetaHave (maxDischargeDepth := 60) only [State.canon_mk, State.canon_eta, apply_ite State.Canon, apply_ite Prod.fst, ite_self, implies_true,
        State.busy_canon, State.gateAccess_canon, hc]; done)
    | split
    | intro _
    | (dsimp +zetaHave only))

theorem State.access_canon (s : State) (m : Master) (off : Nat) (req : HeldReq) (f : State → State)
    (hf : ∀ t, t.Canon → (f t).Canon) (hc : s.Canon) : (s.access m off req f).Canon := by
  unfold State.access
  repeat' split
  · exact hc
  · exact hf _ hc
  · exact hc
  · exact State.wake_canon _ _ _ _ hc
  · exact hf _ (State.touch_canon _ _ _ hc)
  · exact hf _ (State.touch_canon _ _ _ (State.wake_canon _ _ _ _ hc))

theorem State.doWrite_canon (s : State) (m : Master) (off : Nat) (wide : Bool) (v : Nat) (hc : s.Canon) : (State.doWrite s m off wide v).Canon := by
  unfold State.doWrite
  repeat' (first
    | with_reducible assumption
    | (simp +zetaHave (maxDischargeDepth := 60) only [State.canon_mk, State.canon_eta, apply_ite State.Canon, apply_ite Prod.fst, ite_self, implies_true,
        State.regWrite_canon, hc]; done)
    | split
    | intro _
    | (dsimp +zetaHave only))

theorem State.writeBy_canon (s : State) (m : Master) (off : Nat) (wide : Bool) (v : Nat) (hc : s.Canon) : (State.writeBy s m off wide v).Canon := by
  unfold State.writeBy
  repeat' (first
    | with_reducible assumption
    | (simp +zetaHave +contextual (maxDischargeDepth := 60) only [State.canon_mk, State.canon_eta, apply_ite State.Canon, apply_ite Prod.fst, ite_self, implies_true,
        State.access_canon, State.doWrite_canon, hc]; done)
    | split
    | intro _
    | (dsimp +zetaHave only))

theorem State.readBy_canon (s : State) (m : Master) (off : Nat) (wide : Bool) (hc : s.Canon) : (State.readBy s m off wide).Canon := by
  unfold State.readBy
  repeat' (first
    | with_reducible assumption
    | (simp +zetaHave +contextual (maxDischargeDepth := 60) only [State.canon_mk, State.canon_eta, apply_ite State.Canon, apply_ite Prod.fst, ite_self, implies_true,
        State.regRead_canon, State.access_canon, hc]; done)
    | split
    | intro _
    | (dsimp +zetaHave only))

theorem State.hostDo_canon (s : State) (a : Access) (hc : s.Canon) : (s.hostDo a).Canon := by
  unfold State.hostDo
  dsimp +zetaHave only
  split
  · refine State.emit_canon _ _ (State.doWrite_canon _ _ _ _ _ ?_)
    exact { hc with credits := Nat.min_le_left _ _ }
  · refine State.emit_canon _ _ (State.regRead_canon _ _ _ _ ?_)
    exact { hc with credits := Nat.min_le_left _ _ }

theorem State.holdBehind_canon (s : State) (q : HeldReq) (hc : s.Canon) : (State.holdBehind s q).Canon := by
  unfold State.holdBehind
  repeat' (first
    | with_reducible assumption
    | (simp +zetaHave (maxDischargeDepth := 60) only [State.canon_mk, State.canon_eta, apply_ite State.Canon, apply_ite Prod.fst, ite_self, implies_true,
        hc]; done)
    | split
    | intro _
    | (dsimp +zetaHave only))

theorem State.hostBad_canon (s : State) (hc : s.Canon) : s.hostBad.Canon :=
  State.emit_canon _ _ { hc with credits := Nat.min_le_left _ _ }

theorem State.hostRequest_canon (s : State) (a : Access) (parityOk : Bool) (hc : s.Canon) : (s.hostRequest a parityOk).Canon := by
  unfold State.hostRequest
  split
  · exact hc
  · extract_lets _ t u
    have ht : t.Canon := { hc with credits := Nat.le_trans (Nat.sub_le _ _) hc.credits }
    have hu : u.Canon := by
      dsimp +zetaHave only [u]
      split
      · exact ht
      · exact State.count_canon _ _ _ ht
    split
    · exact State.holdBehind_canon _ _ hu
    · split
      · exact State.hostBad_canon _ hu
      · exact State.access_canon _ _ _ _ _ (fun t ht => State.hostDo_canon t a ht) hu

theorem State.setHostDown_canon (s : State) (hc : s.Canon) : (State.setHostDown s).Canon := by
  unfold State.setHostDown
  repeat' (first
    | with_reducible assumption
    | (simp +zetaHave (maxDischargeDepth := 60) only [State.canon_mk, State.canon_eta, apply_ite State.Canon, apply_ite Prod.fst, ite_self, implies_true,
        State.raiseIf_canon, hc]; done)
    | split
    | intro _
    | (dsimp +zetaHave only))

theorem State.heartbeatTimeout_canon (s : State) (t : Nat) (hc : s.Canon) : (State.heartbeatTimeout s t).Canon := by
  unfold State.heartbeatTimeout
  repeat' (first
    | with_reducible assumption
    | (simp +zetaHave (maxDischargeDepth := 60) only [State.canon_mk, State.canon_eta, apply_ite State.Canon, apply_ite Prod.fst, ite_self, implies_true,
        State.setHostDown_canon, hc]; done)
    | split
    | intro _
    | (dsimp +zetaHave only))

theorem State.hostReset_canon (s : State) (hc : s.Canon) : s.hostReset.Canon := by
  unfold State.hostReset
  refine State.setHostDown_canon _ ?_
  exact { hc with credits := Nat.zero_le _ }

theorem State.mctp_canon (s : State) (cmd : Nat) (data : Nat) (hc : s.Canon) : (State.mctp s cmd data).Canon := by
  unfold State.mctp
  repeat' (first
    | with_reducible assumption
    | (simp +zetaHave (maxDischargeDepth := 60) only [State.canon_mk, State.canon_eta, apply_ite State.Canon, apply_ite Prod.fst, ite_self, implies_true,
        State.emit_canon, hc]; done)
    | split
    | intro _
    | (dsimp +zetaHave only))

theorem State.slotless_canon (s : State) (header : Nat) (st : Nat) (hc : s.Canon) : (State.slotless s header st).Canon := by
  unfold State.slotless
  repeat' (first
    | with_reducible assumption
    | (simp +zetaHave (maxDischargeDepth := 60) only [State.canon_mk, State.canon_eta, apply_ite State.Canon, apply_ite Prod.fst, ite_self, implies_true,
        State.emit_canon, CmdOut.status_canon, hc]; done)
    | split
    | intro _
    | (dsimp +zetaHave only))

theorem State.sbCommand_canon (s : State) (words : List Nat) (hc : s.Canon) : (State.sbCommand s words).Canon := by
  unfold State.sbCommand
  repeat' (first
    | with_reducible assumption
    | (simp +zetaHave +contextual (maxDischargeDepth := 60) only [State.canon_mk, State.canon_eta, apply_ite State.Canon, apply_ite Prod.fst, ite_self, implies_true,
        State.foldl_canon, State.foldl_fst_canon, State.count_canon, State.openGate_canon, State.busy_canon,
        State.queueSlot_canon, State.slotless_canon, hc]; done)
    | split
    | intro _
    | (dsimp +zetaHave only)
    | refine State.foldl_canon _ _ _ ?_ (fun _ _ hc => ?_)
    | refine State.foldl_fst_canon _ _ _ ?_ (fun _ _ hc => ?_))

theorem State.sbGate_canon (s : State) (hc : s.Canon) : (State.sbGate s).Canon := by
  unfold State.sbGate
  repeat' (first
    | with_reducible assumption
    | (simp +zetaHave (maxDischargeDepth := 60) only [State.canon_mk, State.canon_eta, apply_ite State.Canon, apply_ite Prod.fst, ite_self, implies_true,
        State.openGate_canon, hc]; done)
    | split
    | intro _
    | (dsimp +zetaHave only))

theorem State.sbDo_canon (s : State) (m : SbMsg) (hc : s.Canon) : (State.sbDo s m).Canon := by
  unfold State.sbDo
  repeat' (first
    | with_reducible assumption
    | (simp +zetaHave (maxDischargeDepth := 60) only [State.canon_mk, State.canon_eta, apply_ite State.Canon, apply_ite Prod.fst, ite_self, implies_true,
        State.emit_canon, State.regRead_canon, State.regWrite_canon, State.doWrite_canon, State.mctp_canon,
        State.sbCommand_canon, State.sbGate_canon, hc]; done)
    | split
    | intro _
    | (dsimp +zetaHave only))

theorem State.sbMessage_canon (s : State) (m : SbMsg) (hc : s.Canon) : (State.sbMessage s m).Canon := by
  unfold State.sbMessage
  repeat' (first
    | with_reducible assumption
    | (simp +zetaHave +contextual (maxDischargeDepth := 60) only [State.canon_mk, State.canon_eta, apply_ite State.Canon, apply_ite Prod.fst, ite_self, implies_true,
        State.wake_canon, State.regRead_canon, State.regWrite_canon, State.access_canon, State.sbDo_canon, hc]; done)
    | split
    | intro _
    | (dsimp +zetaHave only))

end Sys2Proof.Machine
end

