-- ==== Sys2Proof/Laws/CanonTick.lean ====
section
/-! SUPPORT. Sys2Proof/Laws/CanonTick.lean: every operation of Machine/Tick.lean keeps the tables of the state in canonical
form. -/

set_option linter.all false
set_option Elab.async false

namespace Sys2Proof.Machine
open Sys2Proof.Config
set_option linter.unusedSimpArgs false

theorem State.closeCourse_canon (s : State) (i : TickIn) (hc : s.Canon) : (State.closeCourse s i).Canon := by
  unfold State.closeCourse
  repeat' (first
    | with_reducible assumption
    | (simp +zetaHave (maxDischargeDepth := 60) only [State.canon_mk, State.canon_eta, apply_ite State.Canon, apply_ite Prod.fst, ite_self, implies_true,
        State.pulsesLeft_canon, State.freezesLeft_canon, State.candTiming_canon, State.advanceAnchors_canon,
        State.clocksUpTo_canon, State.windowWaits_canon, State.portTiming_canon, hc]; done)
    | split
    | intro _
    | (dsimp +zetaHave only))

theorem State.senseTemp_canon (s : State) (i : TickIn) (hc : s.Canon) : (State.senseTemp s i).Canon := by
  unfold State.senseTemp
  repeat' (first
    | with_reducible assumption
    | (simp +zetaHave (maxDischargeDepth := 60) only [State.canon_mk, State.canon_eta, apply_ite State.Canon, apply_ite Prod.fst, ite_self, implies_true,
        hc]; done)
    | split
    | intro _
    | (dsimp +zetaHave only))

theorem State.rclkLevel_canon (s : State) (p : Nat) (high : Bool) (hc : s.Canon) : (State.rclkLevel s p high).Canon := by
  unfold State.rclkLevel
  repeat' (first
    | with_reducible assumption
    | (simp +zetaHave (maxDischargeDepth := 60) only [State.canon_mk, State.canon_eta, apply_ite State.Canon, apply_ite Prod.fst, ite_self, implies_true,
        State.count_canon, State.modPort_canon, State.withdrawClock_canon, hc]; done)
    | split
    | intro _
    | (dsimp +zetaHave only))

theorem State.rclkLevels_canon (s : State) (high : List Nat) (hc : s.Canon) : (State.rclkLevels s high).Canon := by
  unfold State.rclkLevels
  repeat' (first
    | with_reducible assumption
    | (simp +zetaHave +contextual (maxDischargeDepth := 60) only [State.canon_mk, State.canon_eta, apply_ite State.Canon, apply_ite Prod.fst, ite_self, implies_true,
        State.each_canon, State.rclkLevel_canon, hc]; done)
    | split
    | intro _
    | (dsimp +zetaHave only)
    | refine State.each_canon _ _ _ ?_ (fun _ _ hc => ?_))

theorem State.openCourse_canon (s : State) (hc : s.Canon) : s.openCourse.Canon :=
  { hc with cyc := Nat.zero_le _ }

theorem State.keepaliveLosses_canon (s : State) (t : Nat) (hc : s.Canon) : (State.keepaliveLosses s t).Canon := by
  unfold State.keepaliveLosses
  repeat' (first
    | with_reducible assumption
    | (simp +zetaHave +contextual (maxDischargeDepth := 60) only [State.canon_mk, State.canon_eta, apply_ite State.Canon, apply_ite Prod.fst, ite_self, implies_true,
        State.each_canon, State.keepaliveLost_canon, hc]; done)
    | split
    | intro _
    | (dsimp +zetaHave only)
    | refine State.each_canon _ _ _ ?_ (fun _ _ hc => ?_))

theorem State.stepHealth_canon (s : State) (nc : Nat) (t : Nat) (hc : s.Canon) : (State.stepHealth s nc t).Canon := by
  unfold State.stepHealth
  repeat' (first
    | with_reducible assumption
    | (simp +zetaHave (maxDischargeDepth := 60) only [State.canon_mk, State.canon_eta, apply_ite State.Canon, apply_ite Prod.fst, ite_self, implies_true,
        State.healthBoundary_canon, State.collArrivals_canon, State.underlayBoundary_canon, State.underlayExit_canon,
        State.keepaliveLosses_canon, hc]; done)
    | split
    | intro _
    | (dsimp +zetaHave only))

theorem State.stepTimeEngine_canon (s : State) (n : Nat) (nc : Nat) (t : Nat) (hc : s.Canon) : (State.stepTimeEngine s n nc t).Canon := by
  unfold State.stepTimeEngine
  repeat' (first
    | with_reducible assumption
    | (simp +zetaHave (maxDischargeDepth := 60) only [State.canon_mk, State.canon_eta, apply_ite State.Canon, apply_ite Prod.fst, ite_self, implies_true,
        State.timeBoundary_canon, State.esmcBoundary_canon, State.waitLockBoundary_canon, State.prioBoundary_canon,
        State.candBoundary_canon, hc]; done)
    | split
    | intro _
    | (dsimp +zetaHave only))

theorem State.stepWork_canon (s : State) (n : Nat) (nc : Nat) (t : Nat) (i : TickIn) (hc : s.Canon) : (State.stepWork s n nc t i).Canon := by
  unfold State.stepWork
  repeat' (first
    | with_reducible assumption
    | (simp +zetaHave (maxDischargeDepth := 60) only [State.canon_mk, State.canon_eta, apply_ite State.Canon, apply_ite Prod.fst, ite_self, implies_true,
        State.expireEvents_canon, State.objBoundary_canon, State.seqBoundary_canon, State.powerBoundary_canon,
        State.collBoundary_canon, State.resetBoundary_canon, hc]; done)
    | split
    | intro _
    | (dsimp +zetaHave only))

theorem State.stepCommands_canon (s : State) (t : Nat) (hc : s.Canon) : (State.stepCommands s t).Canon := by
  unfold State.stepCommands
  repeat' (first
    | with_reducible assumption
    | (simp +zetaHave (maxDischargeDepth := 60) only [State.canon_mk, State.canon_eta, apply_ite State.Canon, apply_ite Prod.fst, ite_self, implies_true,
        apply_ite CmdOut.st, CmdOut.status_st, CmdOut.ok_st, CmdOut.done_st, CmdOut.wait_st, State.wdogBoundary_canon,
        State.irqTimeout_canon, State.pumpCmds_canon, State.memTimeouts_canon, State.heartbeatTimeout_canon, hc]; done)
    | split
    | intro _
    | (dsimp +zetaHave only))

theorem State.serveHeld_canon (s : State) (q : HeldReq) (hc : s.Canon) : (State.serveHeld s q).Canon := by
  unfold State.serveHeld
  repeat' (first
    | with_reducible assumption
    | (simp +zetaHave (maxDischargeDepth := 60) only [State.canon_mk, State.canon_eta, apply_ite State.Canon, apply_ite Prod.fst, ite_self, implies_true,
        State.tapRequest_canon, State.touch_canon, State.hostDo_canon, State.sbDo_canon, State.regRead_canon,
        State.regWrite_canon, State.hostBad_canon, hc]; done)
    | split
    | intro _
    | (dsimp +zetaHave only))

theorem State.replayHeld_canon (s : State) (hc : s.Canon) : (State.replayHeld s).Canon := by
  unfold State.replayHeld
  repeat' (first
    | with_reducible assumption
    | (simp +zetaHave +contextual (maxDischargeDepth := 60) only [State.canon_mk, State.canon_eta, apply_ite State.Canon, apply_ite Prod.fst, ite_self, implies_true,
        State.foldl_canon, State.foldl_fst_canon, State.serveHeld_canon, hc]; done)
    | split
    | intro _
    | (dsimp +zetaHave only)
    | refine State.foldl_canon _ _ _ ?_ (fun _ _ hc => ?_)
    | refine State.foldl_fst_canon _ _ _ ?_ (fun _ _ hc => ?_))

theorem State.tickParts_canon (s : State) (t : Nat) (hc : s.Canon) : (State.tickParts s t).Canon := by
  unfold State.tickParts
  repeat' (first
    | with_reducible assumption
    | (simp +zetaHave +contextual (maxDischargeDepth := 60) only [State.canon_mk, State.canon_eta, apply_ite State.Canon, apply_ite Prod.fst, ite_self, implies_true,
        State.each_canon, State.pulseCalTick_canon, State.battenBoundary_canon, State.headMark_canon,
        State.portBoundary_canon, State.calibrateFinish_canon, State.imBoundary_canon, State.clkoutTick_canon, hc]; done)
    | split
    | intro _
    | (dsimp +zetaHave only)
    | refine State.each_canon _ _ _ ?_ (fun _ _ hc => ?_))

theorem State.courseTick_canon (s : State) (i : TickIn) (hc : s.Canon) : (State.courseTick s i).Canon := by
  unfold State.courseTick
  repeat' (first
    | with_reducible assumption
    | (simp +zetaHave (maxDischargeDepth := 60) only [State.canon_mk, State.canon_eta, apply_ite State.Canon, apply_ite Prod.fst, ite_self, implies_true,
        State.evt_canon, State.candBoundary_canon, State.advancePhase_canon, State.napPlanned_canon,
        State.awaken_canon, State.ovenTick_canon, State.gangLeave_canon, State.gangKeepalive_canon,
        State.gangTime_canon, State.closeCourse_canon, State.senseTemp_canon, State.rclkLevels_canon,
        State.openCourse_canon, State.stepHealth_canon, State.stepTimeEngine_canon, State.stepWork_canon,
        State.stepCommands_canon, State.replayHeld_canon, State.tickParts_canon, State.takeClocks_canon,
        State.gangCalOver_canon, State.gangBeat_canon, hc]; done)
    | split
    | intro _
    | (dsimp +zetaHave only))

theorem State.stepEdgeWork_canon (s : State) (n : Nat) (i : TickIn) (hc : s.Canon) : (State.stepEdgeWork s n i).Canon := by
  unfold State.stepEdgeWork
  repeat' (first
    | with_reducible assumption
    | (simp +zetaHave (maxDischargeDepth := 60) only [State.canon_mk, State.canon_eta, apply_ite State.Canon, apply_ite Prod.fst, ite_self, implies_true,
        State.stepHealth_canon, State.stepTimeEngine_canon, State.stepWork_canon, State.stepCommands_canon, hc]; done)
    | split
    | intro _
    | (dsimp +zetaHave only))

theorem State.stepBy_canon (s : State) (d : Dom) (th : Int) (hc : s.Canon) : (State.stepBy s d th).Canon := by
  unfold State.stepBy
  repeat' (first
    | with_reducible assumption
    | (simp +zetaHave (maxDischargeDepth := 60) only [State.canon_mk, State.canon_eta, apply_ite State.Canon, apply_ite Prod.fst, ite_self, implies_true,
        State.pulsesLeft_canon, State.pulsesCatchUp_canon, State.freezesLeft_canon, State.stepShot_canon,
        State.stepTime_canon, State.seqTimeStep_canon, hc]; done)
    | split
    | intro _
    | (dsimp +zetaHave only))

theorem State.acquisitionStep_canon (s : State) (osc : Edge) (hc : s.Canon) : (State.acquisitionStep s osc).Canon := by
  unfold State.acquisitionStep
  repeat' (first
    | with_reducible assumption
    | (simp +zetaHave (maxDischargeDepth := 60) only [State.canon_mk, State.canon_eta, apply_ite State.Canon, apply_ite Prod.fst, ite_self, implies_true,
        State.pulsesLeft_canon, State.pulsesCatchUp_canon, State.freezesLeft_canon, State.stepShot_canon,
        State.candBoundary_canon, State.stepTime_canon, State.seqTimeStep_canon, State.stepHealth_canon,
        State.stepTimeEngine_canon, State.stepWork_canon, State.stepCommands_canon, State.stepEdgeWork_canon,
        State.stepBy_canon, hc]; done)
    | split
    | intro _
    | (dsimp +zetaHave only))

theorem State.gangStep_canon (s : State) (l : LeadTime) (i : TickIn) (hc : s.Canon) : (s.gangStep l i).Canon := by
  unfold State.gangStep
  dsimp +zetaHave only
  exact State.stepEdgeWork_canon _ _ _ (State.gangTake_canon _ _ (State.stepBy_canon _ _ _ { hc with cyc := Nat.zero_le _ }))

theorem State.endCourse_canon (s : State) (i : TickIn) (hc : s.Canon) : (State.endCourse s i).Canon := by
  unfold State.endCourse
  repeat' (first
    | with_reducible assumption
    | (simp +zetaHave (maxDischargeDepth := 60) only [State.canon_mk, State.canon_eta, apply_ite State.Canon, apply_ite Prod.fst, ite_self, implies_true,
        State.courseTick_canon, State.gangStep_canon, hc]; done)
    | split
    | intro _
    | (dsimp +zetaHave only))

end Sys2Proof.Machine
end

