-- ==== Sys2Proof/Laws/CanonExec.lean ====
section
/-! SUPPORT. Sys2Proof/Laws/CanonExec.lean: every meaning answers a next state, and what it leaves alone there. -/

set_option linter.all false
set_option Elab.async false

namespace Sys2Proof.Machine
open Sys2Proof.Config
set_option linter.unusedSimpArgs false

theorem execReceiveMark_canon (p : Nat) (id : Nat) (e : Edge) (adj : Nat) (s : State) (hc : s.Canon) : ∃ t, execReceiveMark p id e adj s = .next t ∧ t.Canon := by
  refine ⟨_, rfl, ?_⟩
  repeat' (first
    | with_reducible assumption
    | (simp +zetaHave (maxDischargeDepth := 60) only [State.canon_mk, State.canon_eta, apply_ite State.Canon, apply_ite Prod.fst, ite_self, implies_true,
        apply_ite Rx.s, Rx.drop_s, State.receiveMark_canon, State.tapRun_canon, State.tapRequest_canon, hc]; done)
    | split
    | intro _
    | (dsimp +zetaHave only))

theorem execTransmitMark_canon (p : Nat) (e : Edge) (adj : Nat) (s : State) (hc : s.Canon) : ∃ t, execTransmitMark p e adj s = .next t ∧ t.Canon := by
  refine ⟨_, rfl, ?_⟩
  repeat' (first
    | with_reducible assumption
    | (simp +zetaHave (maxDischargeDepth := 60) only [State.canon_mk, State.canon_eta, apply_ite State.Canon, apply_ite Prod.fst, ite_self, implies_true,
        apply_ite Rx.s, Rx.drop_s, State.transmitMark_canon, State.tapRun_canon, State.tapRequest_canon, hc]; done)
    | split
    | intro _
    | (dsimp +zetaHave only))

theorem execTxInsLate_canon (p : Nat) (s : State) (hc : s.Canon) : ∃ t, execTxInsLate p s = .next t ∧ t.Canon := by
  refine ⟨_, rfl, ?_⟩
  repeat' (first
    | with_reducible assumption
    | (simp +zetaHave (maxDischargeDepth := 60) only [State.canon_mk, State.canon_eta, apply_ite State.Canon, apply_ite Prod.fst, ite_self, implies_true,
        apply_ite Rx.s, Rx.drop_s, State.txInsLate_canon, State.tapRun_canon, State.tapRequest_canon, hc]; done)
    | split
    | intro _
    | (dsimp +zetaHave only))

theorem execPortUpRise_canon (p : Nat) (s : State) (hc : s.Canon) : ∃ t, execPortUpRise p s = .next t ∧ t.Canon := by
  refine ⟨_, rfl, ?_⟩
  repeat' (first
    | with_reducible assumption
    | (simp +zetaHave (maxDischargeDepth := 60) only [State.canon_mk, State.canon_eta, apply_ite State.Canon, apply_ite Prod.fst, ite_self, implies_true,
        apply_ite Rx.s, Rx.drop_s, State.modPort_canon, State.sendHello_canon, State.comeUp_canon, State.tapRun_canon,
        State.tapRequest_canon, hc]; done)
    | split
    | intro _
    | (dsimp +zetaHave only))

theorem execPortUpFall_canon (p : Nat) (s : State) (hc : s.Canon) : ∃ t, execPortUpFall p s = .next t ∧ t.Canon := by
  refine ⟨_, rfl, ?_⟩
  repeat' (first
    | with_reducible assumption
    | (simp +zetaHave (maxDischargeDepth := 60) only [State.canon_mk, State.canon_eta, apply_ite State.Canon, apply_ite Prod.fst, ite_self, implies_true,
        apply_ite Rx.s, Rx.drop_s, State.modPort_canon, State.scoreFlap_canon, State.flushPort_canon,
        State.dropExch_canon, State.withdrawClock_canon, State.tapRun_canon, State.tapRequest_canon, hc]; done)
    | split
    | intro _
    | (dsimp +zetaHave only))

theorem execLaneFlap_canon (p : Nat) (s : State) (hc : s.Canon) : ∃ t, execLaneFlap p s = .next t ∧ t.Canon := by
  refine ⟨_, rfl, ?_⟩
  repeat' (first
    | with_reducible assumption
    | (simp +zetaHave (maxDischargeDepth := 60) only [State.canon_mk, State.canon_eta, apply_ite State.Canon, apply_ite Prod.fst, ite_self, implies_true,
        apply_ite Rx.s, Rx.drop_s, State.count_canon, State.scoreFlap_canon, State.tapRun_canon,
        State.tapRequest_canon, hc]; done)
    | split
    | intro _
    | (dsimp +zetaHave only))

theorem execRclkOkFall_canon (p : Nat) (s : State) (hc : s.Canon) : ∃ t, execRclkOkFall p s = .next t ∧ t.Canon := by
  refine ⟨_, rfl, ?_⟩
  repeat' (first
    | with_reducible assumption
    | (simp +zetaHave (maxDischargeDepth := 60) only [State.canon_mk, State.canon_eta, apply_ite State.Canon, apply_ite Prod.fst, ite_self, implies_true,
        apply_ite Rx.s, Rx.drop_s, State.count_canon, State.modPort_canon, State.withdrawClock_canon,
        State.tapRun_canon, State.tapRequest_canon, hc]; done)
    | split
    | intro _
    | (dsimp +zetaHave only))

theorem execAckReceive_canon (h : RxHead) (s : State) (hc : s.Canon) : ∃ t, execAckReceive h s = .next t ∧ t.Canon := by
  refine ⟨_, rfl, ?_⟩
  repeat' (first
    | with_reducible assumption
    | (simp +zetaHave (maxDischargeDepth := 60) only [State.canon_mk, State.canon_eta, apply_ite State.Canon, apply_ite Prod.fst, ite_self, implies_true,
        apply_ite Rx.s, Rx.drop_s, State.rxZudar_canon, State.tapRun_canon, State.tapRequest_canon, hc]; done)
    | split
    | intro _
    | (dsimp +zetaHave only))

theorem execNakReceive_canon (h : RxHead) (s : State) (hc : s.Canon) : ∃ t, execNakReceive h s = .next t ∧ t.Canon := by
  refine ⟨_, rfl, ?_⟩
  repeat' (first
    | with_reducible assumption
    | (simp +zetaHave (maxDischargeDepth := 60) only [State.canon_mk, State.canon_eta, apply_ite State.Canon, apply_ite Prod.fst, ite_self, implies_true,
        apply_ite Rx.s, Rx.drop_s, State.takeNak_canon, State.rxZudar_canon, State.tapRun_canon,
        State.tapRequest_canon, CmdOut.ok_canon, hc]; done)
    | split
    | intro _
    | (dsimp +zetaHave only))

theorem execAckSend_canon (p : Nat) (s : State) (hc : s.Canon) : ∃ t, execAckSend p s = .next t ∧ t.Canon := by
  refine ⟨_, rfl, ?_⟩
  repeat' (first
    | with_reducible assumption
    | (simp +zetaHave (maxDischargeDepth := 60) only [State.canon_mk, State.canon_eta, apply_ite State.Canon, apply_ite Prod.fst, ite_self, implies_true,
        apply_ite Rx.s, Rx.drop_s, State.sendAck_canon, State.tapRun_canon, State.tapRequest_canon, hc]; done)
    | split
    | intro _
    | (dsimp +zetaHave only))

theorem execReplayTimeout_canon (p : Nat) (s : State) (hc : s.Canon) : ∃ t, execReplayTimeout p s = .next t ∧ t.Canon := by
  refine ⟨_, rfl, ?_⟩
  repeat' (first
    | with_reducible assumption
    | (simp +zetaHave (maxDischargeDepth := 60) only [State.canon_mk, State.canon_eta, apply_ite State.Canon, apply_ite Prod.fst, ite_self, implies_true,
        apply_ite Rx.s, Rx.drop_s, State.replayTimeout_canon, State.tapRun_canon, State.tapRequest_canon, hc]; done)
    | split
    | intro _
    | (dsimp +zetaHave only))

theorem execRxfFcsErr_canon (h : RxBase) (bad : RxBad) (s : State) (hc : s.Canon) : ∃ t, execRxfFcsErr h bad s = .next t ∧ t.Canon := by
  refine ⟨_, rfl, ?_⟩
  repeat' (first
    | with_reducible assumption
    | (simp +zetaHave (maxDischargeDepth := 60) only [State.canon_mk, State.canon_eta, apply_ite State.Canon, apply_ite Prod.fst, ite_self, implies_true,
        apply_ite Rx.s, Rx.drop_s, State.atCyc_canon, State.claimMark_canon, State.rxCorrupt_canon, State.tapRun_canon,
        State.tapRequest_canon, State.rxSpoilt_canon, hc]; done)
    | split
    | intro _
    | (dsimp +zetaHave only))

theorem execPtpOtherReceive_canon (h : PtpHead) (typ : Nat) (s : State) (hc : s.Canon) : ∃ t, execPtpOtherReceive h typ s = .next t ∧ t.Canon := by
  refine ⟨_, rfl, ?_⟩
  repeat' (first
    | with_reducible assumption
    | (simp +zetaHave (maxDischargeDepth := 60) only [State.canon_mk, State.canon_eta, apply_ite State.Canon, apply_ite Prod.fst, ite_self, implies_true,
        apply_ite Rx.s, Rx.drop_s, State.count_canon, State.rxBegin_canon, State.tapRun_canon, State.tapRequest_canon,
        CmdOut.ok_canon, hc]; done)
    | split
    | intro _
    | (dsimp +zetaHave only))

theorem execZudarReservedType_canon (h : RxHead) (typ : Nat) (s : State) (hc : s.Canon) : ∃ t, execZudarReservedType h typ s = .next t ∧ t.Canon := by
  refine ⟨_, rfl, ?_⟩
  repeat' (first
    | with_reducible assumption
    | (simp +zetaHave (maxDischargeDepth := 60) only [State.canon_mk, State.canon_eta, apply_ite State.Canon, apply_ite Prod.fst, ite_self, implies_true,
        apply_ite Rx.s, Rx.drop_s, State.count_canon, State.rxZudar_canon, State.tapRun_canon, State.tapRequest_canon,
        CmdOut.ok_canon, hc]; done)
    | split
    | intro _
    | (dsimp +zetaHave only))

theorem execEgressHandover_canon (p : Nat) (cyc : Nat) (s : State) (hc : s.Canon) : ∃ t, execEgressHandover p cyc s = .next t ∧ t.Canon := by
  refine ⟨_, rfl, ?_⟩
  repeat' (first
    | with_reducible assumption
    | (simp +zetaHave (maxDischargeDepth := 60) only [State.canon_mk, State.canon_eta, apply_ite State.Canon, apply_ite Prod.fst, ite_self, implies_true,
        apply_ite Rx.s, Rx.drop_s, State.atCyc_canon, State.handover_canon, State.tapRun_canon, State.tapRequest_canon,
        hc]; done)
    | split
    | intro _
    | (dsimp +zetaHave only))

theorem execBattenCalDone_canon (rs : List CalResult) (s : State) (hc : s.Canon) : ∃ t, execBattenCalDone rs s = .next t ∧ t.Canon := by
  refine ⟨_, rfl, ?_⟩
  repeat' (first
    | with_reducible assumption
    | (simp +zetaHave (maxDischargeDepth := 60) only [State.canon_mk, State.canon_eta, apply_ite State.Canon, apply_ite Prod.fst, ite_self, implies_true,
        apply_ite Rx.s, Rx.drop_s, State.tapRun_canon, State.calDone_canon, State.tapRequest_canon, hc]; done)
    | split
    | intro _
    | (dsimp +zetaHave only))

theorem execCrossingRecalibration_canon (r : CalResult) (s : State) (hc : s.Canon) : ∃ t, execCrossingRecalibration r s = .next t ∧ t.Canon := by
  refine ⟨_, rfl, ?_⟩
  repeat' (first
    | with_reducible assumption
    | (simp +zetaHave (maxDischargeDepth := 60) only [State.canon_mk, State.canon_eta, apply_ite State.Canon, apply_ite Prod.fst, ite_self, implies_true,
        apply_ite Rx.s, Rx.drop_s, State.tapRun_canon, State.recalOne_canon, State.tapRequest_canon, hc]; done)
    | split
    | intro _
    | (dsimp +zetaHave only))

theorem execMark_canon (n : Nat) (edges : Nat) (r : Nat) (s : State) (hc : s.Canon) : ∃ t, execMark n edges r s = .next t ∧ t.Canon := by
  refine ⟨_, rfl, ?_⟩
  repeat' (first
    | with_reducible assumption
    | (simp +zetaHave (maxDischargeDepth := 60) only [State.canon_mk, State.canon_eta, apply_ite State.Canon, apply_ite Prod.fst, ite_self, implies_true,
        apply_ite Rx.s, Rx.drop_s, State.tapRun_canon, State.takeMark_canon, State.tapRequest_canon,
        State.markIn_canon, hc]; done)
    | split
    | intro _
    | (dsimp +zetaHave only))

theorem execMarkStep_canon (n : Nat) (edges : Nat) (r : Nat) (s : State) (hc : s.Canon) : ∃ t, execMarkStep n edges r s = .next t ∧ t.Canon := by
  refine ⟨_, rfl, ?_⟩
  repeat' (first
    | with_reducible assumption
    | (simp +zetaHave (maxDischargeDepth := 60) only [State.canon_mk, State.canon_eta, apply_ite State.Canon, apply_ite Prod.fst, ite_self, implies_true,
        apply_ite Rx.s, Rx.drop_s, State.tapRun_canon, State.takeMark_canon, State.tapRequest_canon,
        State.markIn_canon, hc]; done)
    | split
    | intro _
    | (dsimp +zetaHave only))

theorem execStretchIndication_canon (n : Nat) (edges : Nat) (s : State) (hc : s.Canon) : ∃ t, execStretchIndication n edges s = .next t ∧ t.Canon := by
  refine ⟨_, rfl, ?_⟩
  repeat' (first
    | with_reducible assumption
    | (simp +zetaHave (maxDischargeDepth := 60) only [State.canon_mk, State.canon_eta, apply_ite State.Canon, apply_ite Prod.fst, ite_self, implies_true,
        apply_ite Rx.s, Rx.drop_s, State.tapEdge_canon, State.tapRun_canon, State.tapRequest_canon, hc]; done)
    | split
    | intro _
    | (dsimp +zetaHave only))

theorem execFillWord_canon (n : Nat) (edges : Nat) (s : State) (hc : s.Canon) : ∃ t, execFillWord n edges s = .next t ∧ t.Canon := by
  refine ⟨_, rfl, ?_⟩
  repeat' (first
    | with_reducible assumption
    | (simp +zetaHave (maxDischargeDepth := 60) only [State.canon_mk, State.canon_eta, apply_ite State.Canon, apply_ite Prod.fst, ite_self, implies_true,
        apply_ite Rx.s, Rx.drop_s, State.tapRun_canon, State.wordIn_canon, State.tapRequest_canon,
        State.takeWord_canon, State.ahead_canon, hc]; done)
    | split
    | intro _
    | (dsimp +zetaHave only))

theorem execMarginWarning_canon (n : Nat) (mismatches : Nat) (s : State) (hc : s.Canon) : ∃ t, execMarginWarning n mismatches s = .next t ∧ t.Canon := by
  refine ⟨_, rfl, ?_⟩
  repeat' (first
    | with_reducible assumption
    | (simp +zetaHave (maxDischargeDepth := 60) only [State.canon_mk, State.canon_eta, apply_ite State.Canon, apply_ite Prod.fst, ite_self, implies_true,
        apply_ite Rx.s, Rx.drop_s, State.count_canon, State.raise_canon, State.setTap_canon, State.modTap_canon,
        State.flagCrossing_canon, State.tapRun_canon, State.tapRequest_canon, hc]; done)
    | split
    | intro _
    | (dsimp +zetaHave only))

theorem execArmWord_canon (n : Nat) (edges : Nat) (s : State) (hc : s.Canon) : ∃ t, execArmWord n edges s = .next t ∧ t.Canon := by
  refine ⟨_, rfl, ?_⟩
  repeat' (first
    | with_reducible assumption
    | (simp +zetaHave (maxDischargeDepth := 60) only [State.canon_mk, State.canon_eta, apply_ite State.Canon, apply_ite Prod.fst, ite_self, implies_true,
        apply_ite Rx.s, Rx.drop_s, State.tapRun_canon, State.wordIn_canon, State.takeArm_canon, State.tapRequest_canon,
        State.bringDown_canon, hc]; done)
    | split
    | intro _
    | (dsimp +zetaHave only))

theorem execCancelWord_canon (n : Nat) (edges : Nat) (s : State) (hc : s.Canon) : ∃ t, execCancelWord n edges s = .next t ∧ t.Canon := by
  refine ⟨_, rfl, ?_⟩
  repeat' (first
    | with_reducible assumption
    | (simp +zetaHave (maxDischargeDepth := 60) only [State.canon_mk, State.canon_eta, apply_ite State.Canon, apply_ite Prod.fst, ite_self, implies_true,
        apply_ite Rx.s, Rx.drop_s, State.tapRun_canon, State.wordIn_canon, State.takeCancel_canon,
        State.tapRequest_canon, State.bringDown_canon, hc]; done)
    | split
    | intro _
    | (dsimp +zetaHave only))

theorem execNswReqRise_canon (n : Nat) (edges : Nat) (s : State) (hc : s.Canon) : ∃ t, execNswReqRise n edges s = .next t ∧ t.Canon := by
  refine ⟨_, rfl, ?_⟩
  repeat' (first
    | with_reducible assumption
    | (simp +zetaHave (maxDischargeDepth := 60) only [State.canon_mk, State.canon_eta, apply_ite State.Canon, apply_ite Prod.fst, ite_self, implies_true,
        apply_ite Rx.s, Rx.drop_s, State.tapRun_canon, State.tapUntil_canon, State.tapRequest_canon, hc]; done)
    | split
    | intro _
    | (dsimp +zetaHave only))

theorem execLaunchFire_canon (n : Nat) (edges : Nat) (s : State) (hc : s.Canon) : ∃ t, execLaunchFire n edges s = .next t ∧ t.Canon := by
  refine ⟨_, rfl, ?_⟩
  repeat' (first
    | with_reducible assumption
    | (simp +zetaHave (maxDischargeDepth := 60) only [State.canon_mk, State.canon_eta, apply_ite State.Canon, apply_ite Prod.fst, ite_self, implies_true,
        apply_ite Rx.s, Rx.drop_s, State.tapRun_canon, State.tapUntil_canon, State.tapRequest_canon, hc]; done)
    | split
    | intro _
    | (dsimp +zetaHave only))

theorem execLaunchLineFall_canon (n : Nat) (edges : Nat) (s : State) (hc : s.Canon) : ∃ t, execLaunchLineFall n edges s = .next t ∧ t.Canon := by
  refine ⟨_, rfl, ?_⟩
  repeat' (first
    | with_reducible assumption
    | (simp +zetaHave (maxDischargeDepth := 60) only [State.canon_mk, State.canon_eta, apply_ite State.Canon, apply_ite Prod.fst, ite_self, implies_true,
        apply_ite Rx.s, Rx.drop_s, State.tapRun_canon, State.tapUntil_canon, State.tapRequest_canon, hc]; done)
    | split
    | intro _
    | (dsimp +zetaHave only))

theorem execLaunchReport_canon (n : Nat) (edges : Nat) (s : State) (hc : s.Canon) : ∃ t, execLaunchReport n edges s = .next t ∧ t.Canon := by
  refine ⟨_, rfl, ?_⟩
  repeat' (first
    | with_reducible assumption
    | (simp +zetaHave (maxDischargeDepth := 60) only [State.canon_mk, State.canon_eta, apply_ite State.Canon, apply_ite Prod.fst, ite_self, implies_true,
        apply_ite Rx.s, Rx.drop_s, State.tapRun_canon, State.tapUntil_canon, State.tapRequest_canon, hc]; done)
    | split
    | intro _
    | (dsimp +zetaHave only))

theorem execReleaseWord_canon (s : State) (hc : s.Canon) : ∃ t, execReleaseWord s = .next t ∧ t.Canon := by
  refine ⟨_, rfl, ?_⟩
  repeat' (first
    | with_reducible assumption
    | (simp +zetaHave +contextual (maxDischargeDepth := 60) only [State.canon_mk, State.canon_eta, apply_ite State.Canon, apply_ite Prod.fst, ite_self, implies_true,
        State.each_canon, apply_ite Rx.s, Rx.drop_s, State.emit_canon, State.tapRun_canon, State.tapRequest_canon,
        State.bring_canon, hc]; done)
    | split
    | intro _
    | (dsimp +zetaHave only)
    | refine State.each_canon _ _ _ ?_ (fun _ _ hc => ?_))

theorem execCrossingWordBad_canon (n : Nat) (edges : Nat) (k : LostWord) (s : State) (hc : s.Canon) : ∃ t, execCrossingWordBad n edges k s = .next t ∧ t.Canon := by
  refine ⟨_, rfl, ?_⟩
  repeat' (first
    | with_reducible assumption
    | (simp +zetaHave (maxDischargeDepth := 60) only [State.canon_mk, State.canon_eta, apply_ite State.Canon, apply_ite Prod.fst, ite_self, implies_true,
        apply_ite Rx.s, Rx.drop_s, State.count_canon, State.contained_canon, State.tapRun_canon, State.dropWord_canon,
        State.tapRequest_canon, hc]; done)
    | split
    | intro _
    | (dsimp +zetaHave only))

theorem execPeek_canon (r : EngReq) (s : State) (hc : s.Canon) : ∃ t, execPeek r s = .next t ∧ t.Canon := by
  refine ⟨_, rfl, ?_⟩
  repeat' (first
    | with_reducible assumption
    | (simp +zetaHave (maxDischargeDepth := 60) only [State.canon_mk, State.canon_eta, apply_ite State.Canon, apply_ite Prod.fst, ite_self, implies_true,
        apply_ite Rx.s, Rx.drop_s, State.tapRun_canon, State.tapRequest_canon, hc]; done)
    | split
    | intro _
    | (dsimp +zetaHave only))

theorem execRead_canon (r : EngReq) (s : State) (hc : s.Canon) : ∃ t, execRead r s = .next t ∧ t.Canon := by
  refine ⟨_, rfl, ?_⟩
  repeat' (first
    | with_reducible assumption
    | (simp +zetaHave (maxDischargeDepth := 60) only [State.canon_mk, State.canon_eta, apply_ite State.Canon, apply_ite Prod.fst, ite_self, implies_true,
        apply_ite Rx.s, Rx.drop_s, State.tapRun_canon, State.tapRequest_canon, hc]; done)
    | split
    | intro _
    | (dsimp +zetaHave only))

theorem execFill_canon (r : EngReq) (s : State) (hc : s.Canon) : ∃ t, execFill r s = .next t ∧ t.Canon := by
  refine ⟨_, rfl, ?_⟩
  repeat' (first
    | with_reducible assumption
    | (simp +zetaHave (maxDischargeDepth := 60) only [State.canon_mk, State.canon_eta, apply_ite State.Canon, apply_ite Prod.fst, ite_self, implies_true,
        apply_ite Rx.s, Rx.drop_s, State.tapRun_canon, State.tapRequest_canon, hc]; done)
    | split
    | intro _
    | (dsimp +zetaHave only))

theorem execSignal_canon (r : EngReq) (s : State) (hc : s.Canon) : ∃ t, execSignal r s = .next t ∧ t.Canon := by
  refine ⟨_, rfl, ?_⟩
  repeat' (first
    | with_reducible assumption
    | (simp +zetaHave (maxDischargeDepth := 60) only [State.canon_mk, State.canon_eta, apply_ite State.Canon, apply_ite Prod.fst, ite_self, implies_true,
        apply_ite Rx.s, Rx.drop_s, State.tapRun_canon, State.tapRequest_canon, hc]; done)
    | split
    | intro _
    | (dsimp +zetaHave only))

theorem execWaitge_canon (r : EngReq) (s : State) (hc : s.Canon) : ∃ t, execWaitge r s = .next t ∧ t.Canon := by
  refine ⟨_, rfl, ?_⟩
  repeat' (first
    | with_reducible assumption
    | (simp +zetaHave (maxDischargeDepth := 60) only [State.canon_mk, State.canon_eta, apply_ite State.Canon, apply_ite Prod.fst, ite_self, implies_true,
        apply_ite Rx.s, Rx.drop_s, State.tapRun_canon, State.tapRequest_canon, hc]; done)
    | split
    | intro _
    | (dsimp +zetaHave only))

theorem execDec_canon (r : EngReq) (s : State) (hc : s.Canon) : ∃ t, execDec r s = .next t ∧ t.Canon := by
  refine ⟨_, rfl, ?_⟩
  repeat' (first
    | with_reducible assumption
    | (simp +zetaHave (maxDischargeDepth := 60) only [State.canon_mk, State.canon_eta, apply_ite State.Canon, apply_ite Prod.fst, ite_self, implies_true,
        apply_ite Rx.s, Rx.drop_s, State.tapRun_canon, State.tapRequest_canon, hc]; done)
    | split
    | intro _
    | (dsimp +zetaHave only))

theorem execWdec_canon (r : EngReq) (s : State) (hc : s.Canon) : ∃ t, execWdec r s = .next t ∧ t.Canon := by
  refine ⟨_, rfl, ?_⟩
  repeat' (first
    | with_reducible assumption
    | (simp +zetaHave (maxDischargeDepth := 60) only [State.canon_mk, State.canon_eta, apply_ite State.Canon, apply_ite Prod.fst, ite_self, implies_true,
        apply_ite Rx.s, Rx.drop_s, State.tapRun_canon, State.tapRequest_canon, hc]; done)
    | split
    | intro _
    | (dsimp +zetaHave only))

theorem execRealign_canon (r : EngReq) (s : State) (hc : s.Canon) : ∃ t, execRealign r s = .next t ∧ t.Canon := by
  refine ⟨_, rfl, ?_⟩
  repeat' (first
    | with_reducible assumption
    | (simp +zetaHave (maxDischargeDepth := 60) only [State.canon_mk, State.canon_eta, apply_ite State.Canon, apply_ite Prod.fst, ite_self, implies_true,
        apply_ite Rx.s, Rx.drop_s, State.tapRun_canon, State.tapRequest_canon, hc]; done)
    | split
    | intro _
    | (dsimp +zetaHave only))

theorem execArrive_canon (r : EngReq) (s : State) (hc : s.Canon) : ∃ t, execArrive r s = .next t ∧ t.Canon := by
  refine ⟨_, rfl, ?_⟩
  repeat' (first
    | with_reducible assumption
    | (simp +zetaHave (maxDischargeDepth := 60) only [State.canon_mk, State.canon_eta, apply_ite State.Canon, apply_ite Prod.fst, ite_self, implies_true,
        apply_ite Rx.s, Rx.drop_s, State.tapRun_canon, State.tapRequest_canon, hc]; done)
    | split
    | intro _
    | (dsimp +zetaHave only))

theorem execSet_canon (r : EngReq) (s : State) (hc : s.Canon) : ∃ t, execSet r s = .next t ∧ t.Canon := by
  refine ⟨_, rfl, ?_⟩
  repeat' (first
    | with_reducible assumption
    | (simp +zetaHave (maxDischargeDepth := 60) only [State.canon_mk, State.canon_eta, apply_ite State.Canon, apply_ite Prod.fst, ite_self, implies_true,
        apply_ite Rx.s, Rx.drop_s, State.tapRun_canon, State.tapRequest_canon, hc]; done)
    | split
    | intro _
    | (dsimp +zetaHave only))

theorem execWack_canon (tap : Nat) (tag : Nat) (s : State) (hc : s.Canon) : ∃ t, execWack tap tag s = .next t ∧ t.Canon := by
  refine ⟨_, rfl, ?_⟩
  repeat' (first
    | with_reducible assumption
    | (simp +zetaHave (maxDischargeDepth := 60) only [State.canon_mk, State.canon_eta, apply_ite State.Canon, apply_ite Prod.fst, ite_self, implies_true,
        apply_ite Rx.s, Rx.drop_s, State.tapRun_canon, State.wack_canon, State.tapRequest_canon, hc]; done)
    | split
    | intro _
    | (dsimp +zetaHave only))

theorem execFenceTimeout_canon (s : State) (hc : s.Canon) : ∃ t, execFenceTimeout s = .next t ∧ t.Canon := by
  refine ⟨_, rfl, ?_⟩
  repeat' (first
    | with_reducible assumption
    | (simp +zetaHave (maxDischargeDepth := 60) only [State.canon_mk, State.canon_eta, apply_ite State.Canon, apply_ite Prod.fst, ite_self, implies_true,
        apply_ite Rx.s, Rx.drop_s, State.tapRun_canon, State.fenceTimeouts_canon, State.tapRequest_canon, hc]; done)
    | split
    | intro _
    | (dsimp +zetaHave only))

theorem execObjectDeadline_canon (s : State) (hc : s.Canon) : ∃ t, execObjectDeadline s = .next t ∧ t.Canon := by
  refine ⟨_, rfl, ?_⟩
  repeat' (first
    | with_reducible assumption
    | (simp +zetaHave (maxDischargeDepth := 60) only [State.canon_mk, State.canon_eta, apply_ite State.Canon, apply_ite Prod.fst, ite_self, implies_true,
        apply_ite Rx.s, Rx.drop_s, State.tapRun_canon, State.objDeadlines_canon, State.tapRequest_canon, hc]; done)
    | split
    | intro _
    | (dsimp +zetaHave only))

theorem execRemoteTimeout_canon (s : State) (hc : s.Canon) : ∃ t, execRemoteTimeout s = .next t ∧ t.Canon := by
  refine ⟨_, rfl, ?_⟩
  repeat' (first
    | with_reducible assumption
    | (simp +zetaHave (maxDischargeDepth := 60) only [State.canon_mk, State.canon_eta, apply_ite State.Canon, apply_ite Prod.fst, ite_self, implies_true,
        apply_ite Rx.s, Rx.drop_s, State.tapRun_canon, State.remoteTimeouts_canon, State.tapRequest_canon, hc]; done)
    | split
    | intro _
    | (dsimp +zetaHave only))

theorem execLend_canon (s : State) (hc : s.Canon) : ∃ t, execLend s = .next t ∧ t.Canon := by
  refine ⟨_, rfl, ?_⟩
  repeat' (first
    | with_reducible assumption
    | (simp +zetaHave (maxDischargeDepth := 60) only [State.canon_mk, State.canon_eta, apply_ite State.Canon, apply_ite Prod.fst, ite_self, implies_true,
        apply_ite Rx.s, Rx.drop_s, State.tapRun_canon, State.lendOut_canon, State.tapRequest_canon, hc]; done)
    | split
    | intro _
    | (dsimp +zetaHave only))

theorem execLendReturn_canon (s : State) (hc : s.Canon) : ∃ t, execLendReturn s = .next t ∧ t.Canon := by
  refine ⟨_, rfl, ?_⟩
  repeat' (first
    | with_reducible assumption
    | (simp +zetaHave (maxDischargeDepth := 60) only [State.canon_mk, State.canon_eta, apply_ite State.Canon, apply_ite Prod.fst, ite_self, implies_true,
        apply_ite Rx.s, Rx.drop_s, State.tapRun_canon, State.lendReturns_canon, State.tapRequest_canon, hc]; done)
    | split
    | intro _
    | (dsimp +zetaHave only))

theorem execRetAck_canon (id : Nat) (s : State) (hc : s.Canon) : ∃ t, execRetAck id s = .next t ∧ t.Canon := by
  refine ⟨_, rfl, ?_⟩
  repeat' (first
    | with_reducible assumption
    | (simp +zetaHave (maxDischargeDepth := 60) only [State.canon_mk, State.canon_eta, apply_ite State.Canon, apply_ite Prod.fst, ite_self, implies_true,
        apply_ite Rx.s, Rx.drop_s, State.tapRun_canon, State.retAck_canon, State.tapRequest_canon, hc]; done)
    | split
    | intro _
    | (dsimp +zetaHave only))

theorem execDeadlockDetect_canon (s : State) (hc : s.Canon) : ∃ t, execDeadlockDetect s = .next t ∧ t.Canon := by
  refine ⟨_, rfl, ?_⟩
  repeat' (first
    | with_reducible assumption
    | (simp +zetaHave (maxDischargeDepth := 60) only [State.canon_mk, State.canon_eta, apply_ite State.Canon, apply_ite Prod.fst, ite_self, implies_true,
        apply_ite Rx.s, Rx.drop_s, State.tapRun_canon, State.deadlock_canon, State.tapRequest_canon, hc]; done)
    | split
    | intro _
    | (dsimp +zetaHave only))

theorem execObjReqReceive_canon (h : RxHead) (m : ObjReqMsg) (s : State) (hc : s.Canon) : ∃ t, execObjReqReceive h m s = .next t ∧ t.Canon := by
  refine ⟨_, rfl, ?_⟩
  repeat' (first
    | with_reducible assumption
    | (simp +zetaHave (maxDischargeDepth := 60) only [State.canon_mk, State.canon_eta, apply_ite State.Canon, apply_ite Prod.fst, ite_self, implies_true,
        apply_ite Rx.s, Rx.drop_s, State.count_canon, State.rxZudar_canon, State.tapRun_canon, State.remoteApply_canon,
        State.tapRequest_canon, State.objForward_canon, CmdOut.ok_canon, hc]; done)
    | split
    | intro _
    | (dsimp +zetaHave only))

theorem execObjRspReceive_canon (h : RxHead) (m : ObjRspMsg) (s : State) (hc : s.Canon) : ∃ t, execObjRspReceive h m s = .next t ∧ t.Canon := by
  refine ⟨_, rfl, ?_⟩
  repeat' (first
    | with_reducible assumption
    | (simp +zetaHave (maxDischargeDepth := 60) only [State.canon_mk, State.canon_eta, apply_ite State.Canon, apply_ite Prod.fst, ite_self, implies_true,
        apply_ite Rx.s, Rx.drop_s, State.count_canon, State.emit_canon, State.rxZudar_canon, State.tapRun_canon,
        State.modCtx_canon, State.tapRequest_canon, State.objForward_canon, CmdOut.ok_canon, hc]; done)
    | split
    | intro _
    | (dsimp +zetaHave only))

theorem execKeepaliveLoss_canon (p : Nat) (s : State) (hc : s.Canon) : ∃ t, execKeepaliveLoss p s = .next t ∧ t.Canon := by
  refine ⟨_, rfl, ?_⟩
  repeat' (first
    | with_reducible assumption
    | (simp +zetaHave (maxDischargeDepth := 60) only [State.canon_mk, State.canon_eta, apply_ite State.Canon, apply_ite Prod.fst, ite_self, implies_true,
        apply_ite Rx.s, Rx.drop_s, State.tapRun_canon, State.tapRequest_canon, State.keepaliveLost_canon, hc]; done)
    | split
    | intro _
    | (dsimp +zetaHave only))

theorem execScoreDecay_canon (s : State) (hc : s.Canon) : ∃ t, execScoreDecay s = .next t ∧ t.Canon := by
  refine ⟨_, rfl, ?_⟩
  repeat' (first
    | with_reducible assumption
    | (simp +zetaHave (maxDischargeDepth := 60) only [State.canon_mk, State.canon_eta, apply_ite State.Canon, apply_ite Prod.fst, ite_self, implies_true,
        apply_ite Rx.s, Rx.drop_s, State.tapRun_canon, State.tapRequest_canon, State.decay_canon, hc]; done)
    | split
    | intro _
    | (dsimp +zetaHave only))

theorem execBudgetRecordExpiry_canon (s : State) (hc : s.Canon) : ∃ t, execBudgetRecordExpiry s = .next t ∧ t.Canon := by
  refine ⟨_, rfl, ?_⟩
  repeat' (first
    | with_reducible assumption
    | (simp +zetaHave (maxDischargeDepth := 60) only [State.canon_mk, State.canon_eta, apply_ite State.Canon, apply_ite Prod.fst, ite_self, implies_true,
        apply_ite Rx.s, Rx.drop_s, State.tapRun_canon, State.tapRequest_canon, State.expireRecords_canon, hc]; done)
    | split
    | intro _
    | (dsimp +zetaHave only))

theorem execAdmissionComplete_canon (p : Nat) (s : State) (hc : s.Canon) : ∃ t, execAdmissionComplete p s = .next t ∧ t.Canon := by
  refine ⟨_, rfl, ?_⟩
  repeat' (first
    | with_reducible assumption
    | (simp +zetaHave (maxDischargeDepth := 60) only [State.canon_mk, State.canon_eta, apply_ite State.Canon, apply_ite Prod.fst, ite_self, implies_true,
        apply_ite Rx.s, Rx.drop_s, State.tapRun_canon, State.tapRequest_canon, State.admission_canon, hc]; done)
    | split
    | intro _
    | (dsimp +zetaHave only))

theorem execWatchdogExpiry_canon (s : State) (hc : s.Canon) : ∃ t, execWatchdogExpiry s = .next t ∧ t.Canon := by
  refine ⟨_, rfl, ?_⟩
  repeat' (first
    | with_reducible assumption
    | (simp +zetaHave (maxDischargeDepth := 60) only [State.canon_mk, State.canon_eta, apply_ite State.Canon, apply_ite Prod.fst, ite_self, implies_true,
        apply_ite Rx.s, Rx.drop_s, State.tapRun_canon, State.tapRequest_canon, State.wdogExpire_canon, hc]; done)
    | split
    | intro _
    | (dsimp +zetaHave only))

theorem execCandidateQualifyTimer_canon (n : Nat) (s : State) (hc : s.Canon) : ∃ t, execCandidateQualifyTimer n s = .next t ∧ t.Canon := by
  refine ⟨_, rfl, ?_⟩
  repeat' (first
    | with_reducible assumption
    | (simp +zetaHave (maxDischargeDepth := 60) only [State.canon_mk, State.canon_eta, apply_ite State.Canon, apply_ite Prod.fst, ite_self, implies_true,
        apply_ite Rx.s, Rx.drop_s, State.tapRun_canon, State.tapRequest_canon, State.candTimer_canon, hc]; done)
    | split
    | intro _
    | (dsimp +zetaHave only))

theorem execWtrExpiry_canon (d : Dom) (s : State) (hc : s.Canon) : ∃ t, execWtrExpiry d s = .next t ∧ t.Canon := by
  refine ⟨_, rfl, ?_⟩
  repeat' (first
    | with_reducible assumption
    | (simp +zetaHave (maxDischargeDepth := 60) only [State.canon_mk, State.canon_eta, apply_ite State.Canon, apply_ite Prod.fst, ite_self, implies_true,
        apply_ite Rx.s, Rx.drop_s, State.tapRun_canon, State.tapRequest_canon, State.wtrExpiry_canon, hc]; done)
    | split
    | intro _
    | (dsimp +zetaHave only))

theorem execPpsEdge_canon (n : Nat) (e : Edge) (before : Nat) (s : State) (hc : s.Canon) : ∃ t, execPpsEdge n e before s = .next t ∧ t.Canon := by
  refine ⟨_, rfl, ?_⟩
  repeat' (first
    | with_reducible assumption
    | (simp +zetaHave (maxDischargeDepth := 60) only [State.canon_mk, State.canon_eta, apply_ite State.Canon, apply_ite Prod.fst, ite_self, implies_true,
        apply_ite Rx.s, Rx.drop_s, State.tapRun_canon, State.tapRequest_canon, State.ppsEdge_canon, hc]; done)
    | split
    | intro _
    | (dsimp +zetaHave only))

theorem execPpsLoss_canon (n : Nat) (s : State) (hc : s.Canon) : ∃ t, execPpsLoss n s = .next t ∧ t.Canon := by
  refine ⟨_, rfl, ?_⟩
  repeat' (first
    | with_reducible assumption
    | (simp +zetaHave (maxDischargeDepth := 60) only [State.canon_mk, State.canon_eta, apply_ite State.Canon, apply_ite Prod.fst, ite_self, implies_true,
        apply_ite Rx.s, Rx.drop_s, State.tapRun_canon, State.tapRequest_canon, State.ppsLoss_canon, hc]; done)
    | split
    | intro _
    | (dsimp +zetaHave only))

theorem execAgeWindowEnd_canon (s : State) (hc : s.Canon) : ∃ t, execAgeWindowEnd s = .next t ∧ t.Canon := by
  refine ⟨_, rfl, ?_⟩
  repeat' (first
    | with_reducible assumption
    | (simp +zetaHave (maxDischargeDepth := 60) only [State.canon_mk, State.canon_eta, apply_ite State.Canon, apply_ite Prod.fst, ite_self, implies_true,
        apply_ite Rx.s, Rx.drop_s, State.tapRun_canon, State.tapRequest_canon, State.ageEnd_canon, hc]; done)
    | split
    | intro _
    | (dsimp +zetaHave only))

theorem execServoUpdate_canon (s : State) (hc : s.Canon) : ∃ t, execServoUpdate s = .next t ∧ t.Canon := by
  refine ⟨_, rfl, ?_⟩
  repeat' (first
    | with_reducible assumption
    | (simp +zetaHave (maxDischargeDepth := 60) only [State.canon_mk, State.canon_eta, apply_ite State.Canon, apply_ite Prod.fst, ite_self, implies_true,
        apply_ite Rx.s, Rx.drop_s, State.tapRun_canon, State.tapRequest_canon, State.updates_canon,
        State.advancePhase_canon, hc]; done)
    | split
    | intro _
    | (dsimp +zetaHave only))

theorem execPlanEvaluate_canon (s : State) (hc : s.Canon) : ∃ t, execPlanEvaluate s = .next t ∧ t.Canon := by
  refine ⟨_, rfl, ?_⟩
  repeat' (first
    | with_reducible assumption
    | (simp +zetaHave (maxDischargeDepth := 60) only [State.canon_mk, State.canon_eta, apply_ite State.Canon, apply_ite Prod.fst, ite_self, implies_true,
        apply_ite Rx.s, Rx.drop_s, State.tapRun_canon, State.tapRequest_canon, State.planEvaluate_canon,
        State.advancePhase_canon, hc]; done)
    | split
    | intro _
    | (dsimp +zetaHave only))

theorem execLoopOpenTimeout_canon (d : Dom) (s : State) (hc : s.Canon) : ∃ t, execLoopOpenTimeout d s = .next t ∧ t.Canon := by
  refine ⟨_, rfl, ?_⟩
  repeat' (first
    | with_reducible assumption
    | (simp +zetaHave (maxDischargeDepth := 60) only [State.canon_mk, State.canon_eta, apply_ite State.Canon, apply_ite Prod.fst, ite_self, implies_true,
        apply_ite Rx.s, Rx.drop_s, State.tapRun_canon, State.tapRequest_canon, State.loopTimeout_canon, hc]; done)
    | split
    | intro _
    | (dsimp +zetaHave only))

theorem execSyncSend_canon (p : Nat) (s : State) (hc : s.Canon) : ∃ t, execSyncSend p s = .next t ∧ t.Canon := by
  refine ⟨_, rfl, ?_⟩
  repeat' (first
    | with_reducible assumption
    | (simp +zetaHave (maxDischargeDepth := 60) only [State.canon_mk, State.canon_eta, apply_ite State.Canon, apply_ite Prod.fst, ite_self, implies_true,
        apply_ite Rx.s, Rx.drop_s, State.tapRun_canon, State.tapRequest_canon, State.syncSend_canon, hc]; done)
    | split
    | intro _
    | (dsimp +zetaHave only))

theorem execSyncReceive_canon (h : PtpHead) (origin : WireTime) (s : State) (hc : s.Canon) : ∃ t, execSyncReceive h origin s = .next t ∧ t.Canon := by
  refine ⟨_, rfl, ?_⟩
  repeat' (first
    | with_reducible assumption
    | (simp +zetaHave (maxDischargeDepth := 60) only [State.canon_mk, State.canon_eta, apply_ite State.Canon, apply_ite Prod.fst, ite_self, implies_true,
        apply_ite Rx.s, Rx.drop_s, State.rxPtp_canon, State.tapRun_canon, State.tapRequest_canon,
        State.syncArrived_canon, CmdOut.ok_canon, hc]; done)
    | split
    | intro _
    | (dsimp +zetaHave only))

theorem execDelayReqSend_canon (p : Nat) (s : State) (hc : s.Canon) : ∃ t, execDelayReqSend p s = .next t ∧ t.Canon := by
  refine ⟨_, rfl, ?_⟩
  repeat' (first
    | with_reducible assumption
    | (simp +zetaHave (maxDischargeDepth := 60) only [State.canon_mk, State.canon_eta, apply_ite State.Canon, apply_ite Prod.fst, ite_self, implies_true,
        apply_ite Rx.s, Rx.drop_s, State.tapRun_canon, State.tapRequest_canon, State.delayReqSend_canon, hc]; done)
    | split
    | intro _
    | (dsimp +zetaHave only))

theorem execDelayReqReceive_canon (h : PtpHead) (s : State) (hc : s.Canon) : ∃ t, execDelayReqReceive h s = .next t ∧ t.Canon := by
  refine ⟨_, rfl, ?_⟩
  repeat' (first
    | with_reducible assumption
    | (simp +zetaHave (maxDischargeDepth := 60) only [State.canon_mk, State.canon_eta, apply_ite State.Canon, apply_ite Prod.fst, ite_self, implies_true,
        apply_ite Rx.s, Rx.drop_s, State.rxPtp_canon, State.tapRun_canon, State.tapRequest_canon,
        State.delayReqArrived_canon, CmdOut.ok_canon, hc]; done)
    | split
    | intro _
    | (dsimp +zetaHave only))

theorem execDelayRespSend_canon (p : Nat) (s : State) (hc : s.Canon) : ∃ t, execDelayRespSend p s = .next t ∧ t.Canon := by
  refine ⟨_, rfl, ?_⟩
  repeat' (first
    | with_reducible assumption
    | (simp +zetaHave (maxDischargeDepth := 60) only [State.canon_mk, State.canon_eta, apply_ite State.Canon, apply_ite Prod.fst, ite_self, implies_true,
        apply_ite Rx.s, Rx.drop_s, State.tapRun_canon, State.tapRequest_canon, State.delayRespSend_canon, hc]; done)
    | split
    | intro _
    | (dsimp +zetaHave only))

theorem execDelayRespReceive_canon (h : PtpHead) (receive : WireTime) (reqClock : Nat) (reqPort : Nat) (s : State) (hc : s.Canon) : ∃ t, execDelayRespReceive h receive reqClock reqPort s = .next t ∧ t.Canon := by
  refine ⟨_, rfl, ?_⟩
  repeat' (first
    | with_reducible assumption
    | (simp +zetaHave (maxDischargeDepth := 60) only [State.canon_mk, State.canon_eta, apply_ite State.Canon, apply_ite Prod.fst, ite_self, implies_true,
        apply_ite Rx.s, Rx.drop_s, State.rxPtp_canon, State.tapRun_canon, State.tapRequest_canon,
        State.delayRespArrived_canon, CmdOut.ok_canon, hc]; done)
    | split
    | intro _
    | (dsimp +zetaHave only))

theorem execAnnounceSend_canon (p : Nat) (s : State) (hc : s.Canon) : ∃ t, execAnnounceSend p s = .next t ∧ t.Canon := by
  refine ⟨_, rfl, ?_⟩
  repeat' (first
    | with_reducible assumption
    | (simp +zetaHave (maxDischargeDepth := 60) only [State.canon_mk, State.canon_eta, apply_ite State.Canon, apply_ite Prod.fst, ite_self, implies_true,
        apply_ite Rx.s, Rx.drop_s, State.tapRun_canon, State.tapRequest_canon, State.announceSend_canon, hc]; done)
    | split
    | intro _
    | (dsimp +zetaHave only))

theorem execAnnounceReceive_canon (h : PtpHead) (b : AnnounceBody) (s : State) (hc : s.Canon) : ∃ t, execAnnounceReceive h b s = .next t ∧ t.Canon := by
  refine ⟨_, rfl, ?_⟩
  repeat' (first
    | with_reducible assumption
    | (simp +zetaHave (maxDischargeDepth := 60) only [State.canon_mk, State.canon_eta, apply_ite State.Canon, apply_ite Prod.fst, ite_self, implies_true,
        apply_ite Rx.s, Rx.drop_s, State.rxPtp_canon, State.tapRun_canon, State.tapRequest_canon,
        State.announceArrived_canon, CmdOut.ok_canon, hc]; done)
    | split
    | intro _
    | (dsimp +zetaHave only))

theorem execHelloSend_canon (p : Nat) (s : State) (hc : s.Canon) : ∃ t, execHelloSend p s = .next t ∧ t.Canon := by
  refine ⟨_, rfl, ?_⟩
  repeat' (first
    | with_reducible assumption
    | (simp +zetaHave (maxDischargeDepth := 60) only [State.canon_mk, State.canon_eta, apply_ite State.Canon, apply_ite Prod.fst, ite_self, implies_true,
        apply_ite Rx.s, Rx.drop_s, State.tapRun_canon, State.tapRequest_canon, State.helloSend_canon, hc]; done)
    | split
    | intro _
    | (dsimp +zetaHave only))

theorem execHelloReceive_canon (h : RxHead) (b : HelloBody) (s : State) (hc : s.Canon) : ∃ t, execHelloReceive h b s = .next t ∧ t.Canon := by
  refine ⟨_, rfl, ?_⟩
  repeat' (first
    | with_reducible assumption
    | (simp +zetaHave (maxDischargeDepth := 60) only [State.canon_mk, State.canon_eta, apply_ite State.Canon, apply_ite Prod.fst, ite_self, implies_true,
        apply_ite Rx.s, Rx.drop_s, State.rxZudar_canon, State.tapRun_canon, State.tapRequest_canon,
        State.judgeId_canon, State.judgeRole_canon, CmdOut.ok_canon, hc]; done)
    | split
    | intro _
    | (dsimp +zetaHave only))

theorem execKeepaliveSend_canon (p : Nat) (s : State) (hc : s.Canon) : ∃ t, execKeepaliveSend p s = .next t ∧ t.Canon := by
  refine ⟨_, rfl, ?_⟩
  repeat' (first
    | with_reducible assumption
    | (simp +zetaHave (maxDischargeDepth := 60) only [State.canon_mk, State.canon_eta, apply_ite State.Canon, apply_ite Prod.fst, ite_self, implies_true,
        apply_ite Rx.s, Rx.drop_s, State.tapRun_canon, State.tapRequest_canon, State.keepaliveSend_canon, hc]; done)
    | split
    | intro _
    | (dsimp +zetaHave only))

theorem execKeepaliveReceive_canon (h : RxHead) (tx : WireTime) (status : Nat) (te : Nat) (s : State) (hc : s.Canon) : ∃ t, execKeepaliveReceive h tx status te s = .next t ∧ t.Canon := by
  refine ⟨_, rfl, ?_⟩
  repeat' (first
    | with_reducible assumption
    | (simp +zetaHave (maxDischargeDepth := 60) only [State.canon_mk, State.canon_eta, apply_ite State.Canon, apply_ite Prod.fst, ite_self, implies_true,
        apply_ite Rx.s, Rx.drop_s, State.rxZudar_canon, State.tapRun_canon, State.tapRequest_canon,
        State.keepaliveArrived_canon, CmdOut.status_canon, CmdOut.ok_canon, hc]; done)
    | split
    | intro _
    | (dsimp +zetaHave only))

theorem execSwitchPlanReceive_canon (h : RxHead) (id : Nat) (target : Dom) (sw : Nat) (s : State) (hc : s.Canon) : ∃ t, execSwitchPlanReceive h id target sw s = .next t ∧ t.Canon := by
  refine ⟨_, rfl, ?_⟩
  repeat' (first
    | with_reducible assumption
    | (simp +zetaHave (maxDischargeDepth := 60) only [State.canon_mk, State.canon_eta, apply_ite State.Canon, apply_ite Prod.fst, ite_self, implies_true,
        apply_ite Rx.s, Rx.drop_s, State.rxZudar_canon, State.tapRun_canon, State.tapRequest_canon,
        State.broadcast_canon, State.planArrived_canon, CmdOut.ok_canon, State.count_canon, hc]; done)
    | split
    | intro _
    | (dsimp +zetaHave only))

theorem execSwitchCancelReceive_canon (h : RxHead) (id : Nat) (s : State) (hc : s.Canon) : ∃ t, execSwitchCancelReceive h id s = .next t ∧ t.Canon := by
  refine ⟨_, rfl, ?_⟩
  repeat' (first
    | with_reducible assumption
    | (simp +zetaHave (maxDischargeDepth := 60) only [State.canon_mk, State.canon_eta, apply_ite State.Canon, apply_ite Prod.fst, ite_self, implies_true,
        apply_ite Rx.s, Rx.drop_s, State.rxZudar_canon, State.tapRun_canon, State.tapRequest_canon,
        State.cancelPlan_canon, State.broadcast_canon, CmdOut.ok_canon, hc]; done)
    | split
    | intro _
    | (dsimp +zetaHave only))

theorem execEsmcInfoReceive_canon (h : RxBase) (ql : Nat) (s : State) (hc : s.Canon) : ∃ t, execEsmcInfoReceive h ql s = .next t ∧ t.Canon := by
  refine ⟨_, rfl, ?_⟩
  repeat' (first
    | with_reducible assumption
    | (simp +zetaHave (maxDischargeDepth := 60) only [State.canon_mk, State.canon_eta, apply_ite State.Canon, apply_ite Prod.fst, ite_self, implies_true,
        apply_ite Rx.s, Rx.drop_s, State.setCand_canon, State.tapRun_canon, State.tapRequest_canon, State.rxEsmc_canon,
        CmdOut.ok_canon, hc]; done)
    | split
    | intro _
    | (dsimp +zetaHave only))

theorem execEsmcEventReceive_canon (h : RxBase) (s : State) (hc : s.Canon) : ∃ t, execEsmcEventReceive h s = .next t ∧ t.Canon := by
  refine ⟨_, rfl, ?_⟩
  repeat' (first
    | with_reducible assumption
    | (simp +zetaHave (maxDischargeDepth := 60) only [State.canon_mk, State.canon_eta, apply_ite State.Canon, apply_ite Prod.fst, ite_self, implies_true,
        apply_ite Rx.s, Rx.drop_s, State.tapRun_canon, State.tapRequest_canon, State.rxEsmc_canon, hc]; done)
    | split
    | intro _
    | (dsimp +zetaHave only))

theorem execEsmcInfoSend_canon (p : Nat) (s : State) (hc : s.Canon) : ∃ t, execEsmcInfoSend p s = .next t ∧ t.Canon := by
  refine ⟨_, rfl, ?_⟩
  repeat' (first
    | with_reducible assumption
    | (simp +zetaHave (maxDischargeDepth := 60) only [State.canon_mk, State.canon_eta, apply_ite State.Canon, apply_ite Prod.fst, ite_self, implies_true,
        apply_ite Rx.s, Rx.drop_s, State.tapRun_canon, State.tapRequest_canon, State.esmcSend_canon, hc]; done)
    | split
    | intro _
    | (dsimp +zetaHave only))

theorem execConverterCalReady_canon (ramps : List RampCal) (part : Option (List Nat)) (s : State) (hc : s.Canon) : ∃ t, execConverterCalReady ramps part s = .next t ∧ t.Canon := by
  refine ⟨_, rfl, ?_⟩
  repeat' (first
    | with_reducible assumption
    | (simp +zetaHave +contextual (maxDischargeDepth := 60) only [State.canon_mk, State.canon_eta, apply_ite State.Canon, apply_ite Prod.fst, ite_self, implies_true,
        State.each_canon, apply_ite Rx.s, Rx.drop_s, State.tapRun_canon, State.tapRequest_canon, State.rampFails_canon,
        State.calDone_canon, State.rampsFail_canon, hc]; done)
    | split
    | intro _
    | (dsimp +zetaHave only)
    | refine State.each_canon _ _ _ ?_ (fun _ _ hc => ?_))

theorem execPadMeasurement_canon (vals : List (Nat × Nat)) (s : State) (hc : s.Canon) : ∃ t, execPadMeasurement vals s = .next t ∧ t.Canon := by
  refine ⟨_, rfl, ?_⟩
  repeat' (first
    | with_reducible assumption
    | (simp +zetaHave +contextual (maxDischargeDepth := 60) only [State.canon_mk, State.canon_eta, apply_ite State.Canon, apply_ite Prod.fst, ite_self, implies_true,
        State.foldl_canon, State.foldl_fst_canon, apply_ite Rx.s, Rx.drop_s, State.tapRun_canon,
        State.tapRequest_canon, hc]; done)
    | split
    | intro _
    | (dsimp +zetaHave only)
    | refine State.foldl_canon _ _ _ ?_ (fun _ _ hc => ?_)
    | refine State.foldl_fst_canon _ _ _ ?_ (fun _ _ hc => ?_))

theorem execRampCalibration_canon (ramps : List RampCal) (edges : Nat) (s : State) (hc : s.Canon) : ∃ t, execRampCalibration ramps edges s = .next t ∧ t.Canon := by
  refine ⟨_, rfl, ?_⟩
  repeat' (first
    | with_reducible assumption
    | (simp +zetaHave +contextual (maxDischargeDepth := 60) only [State.canon_mk, State.canon_eta, apply_ite State.Canon, apply_ite Prod.fst, ite_self, implies_true,
        State.each_canon, apply_ite Rx.s, Rx.drop_s, State.tapRun_canon, State.tapRequest_canon, State.rampFails_canon,
        State.rampsFail_canon, hc]; done)
    | split
    | intro _
    | (dsimp +zetaHave only)
    | refine State.each_canon _ _ _ ?_ (fun _ _ hc => ?_))

theorem execPinEdge_canon (pin : Nat) (falling : Bool) (e : Edge) (s : State) (hc : s.Canon) : ∃ t, execPinEdge pin falling e s = .next t ∧ t.Canon := by
  refine ⟨_, rfl, ?_⟩
  repeat' (first
    | with_reducible assumption
    | (simp +zetaHave (maxDischargeDepth := 60) only [State.canon_mk, State.canon_eta, apply_ite State.Canon, apply_ite Prod.fst, ite_self, implies_true,
        apply_ite Rx.s, Rx.drop_s, State.tapRun_canon, State.tapRequest_canon, State.pinEdge_canon, hc]; done)
    | split
    | intro _
    | (dsimp +zetaHave only))

theorem execTimedStart_canon (s : State) (hc : s.Canon) : ∃ t, execTimedStart s = .next t ∧ t.Canon := by
  refine ⟨_, rfl, ?_⟩
  repeat' (first
    | with_reducible assumption
    | (simp +zetaHave (maxDischargeDepth := 60) only [State.canon_mk, State.canon_eta, apply_ite State.Canon, apply_ite Prod.fst, ite_self, implies_true,
        apply_ite Rx.s, Rx.drop_s, State.tapRun_canon, State.tapRequest_canon, State.timedStart_canon, hc]; done)
    | split
    | intro _
    | (dsimp +zetaHave only))

theorem execShotWindowClose_canon (cyc : Nat) (s : State) (hc : s.Canon) : ∃ t, execShotWindowClose cyc s = .next t ∧ t.Canon := by
  refine ⟨_, rfl, ?_⟩
  repeat' (first
    | with_reducible assumption
    | (simp +zetaHave (maxDischargeDepth := 60) only [State.canon_mk, State.canon_eta, apply_ite State.Canon, apply_ite Prod.fst, ite_self, implies_true,
        apply_ite Rx.s, Rx.drop_s, State.atCyc_canon, State.closeWindows_canon, State.tapRun_canon,
        State.tapRequest_canon, State.shotTime_canon, hc]; done)
    | split
    | intro _
    | (dsimp +zetaHave only))

theorem execZcDllLock_canon (s : State) (hc : s.Canon) : ∃ t, execZcDllLock s = .next t ∧ t.Canon := by
  refine ⟨_, rfl, ?_⟩
  repeat' (first
    | with_reducible assumption
    | (simp +zetaHave (maxDischargeDepth := 60) only [State.canon_mk, State.canon_eta, apply_ite State.Canon, apply_ite Prod.fst, ite_self, implies_true,
        apply_ite Rx.s, Rx.drop_s, State.drawFree_canon, State.tapRun_canon, State.tapRequest_canon, State.setZc_canon,
        State.zcArm_canon, hc]; done)
    | split
    | intro _
    | (dsimp +zetaHave only))

theorem execZcTimeout_canon (cyc : Nat) (s : State) (hc : s.Canon) : ∃ t, execZcTimeout cyc s = .next t ∧ t.Canon := by
  refine ⟨_, rfl, ?_⟩
  repeat' (first
    | with_reducible assumption
    | (simp +zetaHave (maxDischargeDepth := 60) only [State.canon_mk, State.canon_eta, apply_ite State.Canon, apply_ite Prod.fst, ite_self, implies_true,
        apply_ite Rx.s, Rx.drop_s, State.atCyc_canon, State.tapRun_canon, State.tapRequest_canon,
        State.zcTimeout_canon, hc]; done)
    | split
    | intro _
    | (dsimp +zetaHave only))

theorem execCalFrameReceive_canon (h : RxHead) (tx : WireTime) (s : State) (hc : s.Canon) : ∃ t, execCalFrameReceive h tx s = .next t ∧ t.Canon := by
  refine ⟨_, rfl, ?_⟩
  repeat' (first
    | with_reducible assumption
    | (simp +zetaHave (maxDischargeDepth := 60) only [State.canon_mk, State.canon_eta, apply_ite State.Canon, apply_ite Prod.fst, ite_self, implies_true,
        apply_ite Rx.s, Rx.drop_s, State.count_canon, State.rxBegin_canon, State.rxZudar_canon, State.tapRun_canon,
        State.tapRequest_canon, CmdOut.ok_canon, State.heldGone_canon, hc]; done)
    | split
    | intro _
    | (dsimp +zetaHave only))

theorem execNop_canon (f : SeqArgs) (s : State) (hc : s.Canon) : ∃ t, execNop f s = .next t ∧ t.Canon := by
  refine ⟨_, rfl, ?_⟩
  split
  · show (if _ then _ else s : State).Canon
    split
    · exact State.atPc_run_canon s _ f _ hc
    · exact hc
  · exact hc

theorem execHalt_canon (f : SeqArgs) (s : State) (hc : s.Canon) : ∃ t, execHalt f s = .next t ∧ t.Canon := by
  refine ⟨_, rfl, ?_⟩
  split
  · show (if _ then _ else s : State).Canon
    split
    · exact State.atPc_run_canon s _ f _ hc
    · exact hc
  · exact hc

theorem execJmp_canon (f : SeqArgs) (s : State) (hc : s.Canon) : ∃ t, execJmp f s = .next t ∧ t.Canon := by
  refine ⟨_, rfl, ?_⟩
  split
  · show (if _ then _ else s : State).Canon
    split
    · exact State.atPc_run_canon s _ f _ hc
    · exact hc
  · exact hc

theorem execBr_canon (f : SeqArgs) (s : State) (hc : s.Canon) : ∃ t, execBr f s = .next t ∧ t.Canon := by
  refine ⟨_, rfl, ?_⟩
  split
  · show (if _ then _ else s : State).Canon
    split
    · exact State.atPc_run_canon s _ f _ hc
    · exact hc
  · exact hc

theorem execBri_canon (f : SeqArgs) (s : State) (hc : s.Canon) : ∃ t, execBri f s = .next t ∧ t.Canon := by
  refine ⟨_, rfl, ?_⟩
  split
  · show (if _ then _ else s : State).Canon
    split
    · exact State.atPc_run_canon s _ f _ hc
    · exact hc
  · exact hc

theorem execStepend_canon (f : SeqArgs) (s : State) (hc : s.Canon) : ∃ t, execStepend f s = .next t ∧ t.Canon := by
  refine ⟨_, rfl, ?_⟩
  split
  · show (if _ then _ else s : State).Canon
    split
    · exact State.atPc_run_canon s _ f _ hc
    · exact hc
  · exact hc

theorem execWaitc_canon (f : SeqArgs) (s : State) (hc : s.Canon) : ∃ t, execWaitc f s = .next t ∧ t.Canon := by
  refine ⟨_, rfl, ?_⟩
  split
  · show (if _ then _ else s : State).Canon
    split
    · exact State.atPc_run_canon s _ f _ hc
    · exact hc
  · exact hc

theorem execLi_canon (f : SeqArgs) (s : State) (hc : s.Canon) : ∃ t, execLi f s = .next t ∧ t.Canon := by
  refine ⟨_, rfl, ?_⟩
  split
  · show (if _ then _ else s : State).Canon
    split
    · exact State.atPc_run_canon s _ f _ hc
    · exact hc
  · exact hc

theorem execLih_canon (f : SeqArgs) (s : State) (hc : s.Canon) : ∃ t, execLih f s = .next t ∧ t.Canon := by
  refine ⟨_, rfl, ?_⟩
  split
  · show (if _ then _ else s : State).Canon
    split
    · exact State.atPc_run_canon s _ f _ hc
    · exact hc
  · exact hc

theorem execMov_canon (f : SeqArgs) (s : State) (hc : s.Canon) : ∃ t, execMov f s = .next t ∧ t.Canon := by
  refine ⟨_, rfl, ?_⟩
  split
  · show (if _ then _ else s : State).Canon
    split
    · exact State.atPc_run_canon s _ f _ hc
    · exact hc
  · exact hc

theorem execAdd_canon (f : SeqArgs) (s : State) (hc : s.Canon) : ∃ t, execAdd f s = .next t ∧ t.Canon := by
  refine ⟨_, rfl, ?_⟩
  split
  · show (if _ then _ else s : State).Canon
    split
    · exact State.atPc_run_canon s _ f _ hc
    · exact hc
  · exact hc

theorem execSub_canon (f : SeqArgs) (s : State) (hc : s.Canon) : ∃ t, execSub f s = .next t ∧ t.Canon := by
  refine ⟨_, rfl, ?_⟩
  split
  · show (if _ then _ else s : State).Canon
    split
    · exact State.atPc_run_canon s _ f _ hc
    · exact hc
  · exact hc

theorem execAnd_canon (f : SeqArgs) (s : State) (hc : s.Canon) : ∃ t, execAnd f s = .next t ∧ t.Canon := by
  refine ⟨_, rfl, ?_⟩
  split
  · show (if _ then _ else s : State).Canon
    split
    · exact State.atPc_run_canon s _ f _ hc
    · exact hc
  · exact hc

theorem execOr_canon (f : SeqArgs) (s : State) (hc : s.Canon) : ∃ t, execOr f s = .next t ∧ t.Canon := by
  refine ⟨_, rfl, ?_⟩
  split
  · show (if _ then _ else s : State).Canon
    split
    · exact State.atPc_run_canon s _ f _ hc
    · exact hc
  · exact hc

theorem execXor_canon (f : SeqArgs) (s : State) (hc : s.Canon) : ∃ t, execXor f s = .next t ∧ t.Canon := by
  refine ⟨_, rfl, ?_⟩
  split
  · show (if _ then _ else s : State).Canon
    split
    · exact State.atPc_run_canon s _ f _ hc
    · exact hc
  · exact hc

theorem execAddi_canon (f : SeqArgs) (s : State) (hc : s.Canon) : ∃ t, execAddi f s = .next t ∧ t.Canon := by
  refine ⟨_, rfl, ?_⟩
  split
  · show (if _ then _ else s : State).Canon
    split
    · exact State.atPc_run_canon s _ f _ hc
    · exact hc
  · exact hc

theorem execShl_canon (f : SeqArgs) (s : State) (hc : s.Canon) : ∃ t, execShl f s = .next t ∧ t.Canon := by
  refine ⟨_, rfl, ?_⟩
  split
  · show (if _ then _ else s : State).Canon
    split
    · exact State.atPc_run_canon s _ f _ hc
    · exact hc
  · exact hc

theorem execShr_canon (f : SeqArgs) (s : State) (hc : s.Canon) : ∃ t, execShr f s = .next t ∧ t.Canon := by
  refine ⟨_, rfl, ?_⟩
  split
  · show (if _ then _ else s : State).Canon
    split
    · exact State.atPc_run_canon s _ f _ hc
    · exact hc
  · exact hc

theorem execSar_canon (f : SeqArgs) (s : State) (hc : s.Canon) : ∃ t, execSar f s = .next t ∧ t.Canon := by
  refine ⟨_, rfl, ?_⟩
  split
  · show (if _ then _ else s : State).Canon
    split
    · exact State.atPc_run_canon s _ f _ hc
    · exact hc
  · exact hc

theorem execMul_canon (f : SeqArgs) (s : State) (hc : s.Canon) : ∃ t, execMul f s = .next t ∧ t.Canon := by
  refine ⟨_, rfl, ?_⟩
  split
  · show (if _ then _ else s : State).Canon
    split
    · exact State.atPc_run_canon s _ f _ hc
    · exact hc
  · exact hc

theorem execMinu_canon (f : SeqArgs) (s : State) (hc : s.Canon) : ∃ t, execMinu f s = .next t ∧ t.Canon := by
  refine ⟨_, rfl, ?_⟩
  split
  · show (if _ then _ else s : State).Canon
    split
    · exact State.atPc_run_canon s _ f _ hc
    · exact hc
  · exact hc

theorem execMaxu_canon (f : SeqArgs) (s : State) (hc : s.Canon) : ∃ t, execMaxu f s = .next t ∧ t.Canon := by
  refine ⟨_, rfl, ?_⟩
  split
  · show (if _ then _ else s : State).Canon
    split
    · exact State.atPc_run_canon s _ f _ hc
    · exact hc
  · exact hc

theorem execRdstep_canon (f : SeqArgs) (s : State) (hc : s.Canon) : ∃ t, execRdstep f s = .next t ∧ t.Canon := by
  refine ⟨_, rfl, ?_⟩
  split
  · show (if _ then _ else s : State).Canon
    split
    · exact State.atPc_run_canon s _ f _ hc
    · exact hc
  · exact hc

theorem execRdcrs_canon (f : SeqArgs) (s : State) (hc : s.Canon) : ∃ t, execRdcrs f s = .next t ∧ t.Canon := by
  refine ⟨_, rfl, ?_⟩
  split
  · show (if _ then _ else s : State).Canon
    split
    · exact State.atPc_run_canon s _ f _ hc
    · exact hc
  · exact hc

theorem execRdte_canon (f : SeqArgs) (s : State) (hc : s.Canon) : ∃ t, execRdte f s = .next t ∧ t.Canon := by
  refine ⟨_, rfl, ?_⟩
  split
  · show (if _ then _ else s : State).Canon
    split
    · exact State.atPc_run_canon s _ f _ hc
    · exact hc
  · exact hc

theorem execRdlr_canon (f : SeqArgs) (s : State) (hc : s.Canon) : ∃ t, execRdlr f s = .next t ∧ t.Canon := by
  refine ⟨_, rfl, ?_⟩
  split
  · show (if _ then _ else s : State).Canon
    split
    · exact State.atPc_run_canon s _ f _ hc
    · exact hc
  · exact hc

theorem execLcfg_canon (f : SeqArgs) (s : State) (hc : s.Canon) : ∃ t, execLcfg f s = .next t ∧ t.Canon := by
  refine ⟨_, rfl, ?_⟩
  split
  · show (if _ then _ else s : State).Canon
    split
    · exact State.atPc_run_canon s _ f _ hc
    · exact hc
  · exact hc

theorem execArm_canon (f : SeqArgs) (s : State) (hc : s.Canon) : ∃ t, execArm f s = .next t ∧ t.Canon := by
  refine ⟨_, rfl, ?_⟩
  split
  · show (if _ then _ else s : State).Canon
    split
    · exact State.atPc_run_canon s _ f _ hc
    · exact hc
  · exact hc

theorem execArmm_canon (f : SeqArgs) (s : State) (hc : s.Canon) : ∃ t, execArmm f s = .next t ∧ t.Canon := by
  refine ⟨_, rfl, ?_⟩
  split
  · show (if _ then _ else s : State).Canon
    split
    · exact State.atPc_run_canon s _ f _ hc
    · exact hc
  · exact hc

theorem execCancel_canon (f : SeqArgs) (s : State) (hc : s.Canon) : ∃ t, execCancel f s = .next t ∧ t.Canon := by
  refine ⟨_, rfl, ?_⟩
  split
  · show (if _ then _ else s : State).Canon
    split
    · exact State.atPc_run_canon s _ f _ hc
    · exact hc
  · exact hc

theorem execPulse_canon (f : SeqArgs) (s : State) (hc : s.Canon) : ∃ t, execPulse f s = .next t ∧ t.Canon := by
  refine ⟨_, rfl, ?_⟩
  split
  · show (if _ then _ else s : State).Canon
    split
    · exact State.atPc_run_canon s _ f _ hc
    · exact hc
  · exact hc

theorem execFrz_canon (f : SeqArgs) (s : State) (hc : s.Canon) : ∃ t, execFrz f s = .next t ∧ t.Canon := by
  refine ⟨_, rfl, ?_⟩
  split
  · show (if _ then _ else s : State).Canon
    split
    · exact State.atPc_run_canon s _ f _ hc
    · exact hc
  · exact hc

theorem execContrib_canon (f : SeqArgs) (s : State) (hc : s.Canon) : ∃ t, execContrib f s = .next t ∧ t.Canon := by
  refine ⟨_, rfl, ?_⟩
  split
  · show (if _ then _ else s : State).Canon
    split
    · exact State.atPc_run_canon s _ f _ hc
    · exact hc
  · exact hc

theorem execWaitr_canon (f : SeqArgs) (s : State) (hc : s.Canon) : ∃ t, execWaitr f s = .next t ∧ t.Canon := by
  refine ⟨_, rfl, ?_⟩
  split
  · show (if _ then _ else s : State).Canon
    split
    · exact State.atPc_run_canon s _ f _ hc
    · exact hc
  · exact hc

theorem execResult_canon (f : SeqArgs) (s : State) (hc : s.Canon) : ∃ t, execResult f s = .next t ∧ t.Canon := by
  refine ⟨_, rfl, ?_⟩
  split
  · show (if _ then _ else s : State).Canon
    split
    · exact State.atPc_run_canon s _ f _ hc
    · exact hc
  · exact hc

theorem execDeadl_canon (f : SeqArgs) (s : State) (hc : s.Canon) : ∃ t, execDeadl f s = .next t ∧ t.Canon := by
  refine ⟨_, rfl, ?_⟩
  split
  · show (if _ then _ else s : State).Canon
    split
    · exact State.atPc_run_canon s _ f _ hc
    · exact hc
  · exact hc

theorem execObjop_canon (f : SeqArgs) (s : State) (hc : s.Canon) : ∃ t, execObjop f s = .next t ∧ t.Canon := by
  refine ⟨_, rfl, ?_⟩
  split
  · show (if _ then _ else s : State).Canon
    split
    · exact State.atPc_run_canon s _ f _ hc
    · exact hc
  · exact hc

theorem execProgramStart_canon (s : State) (hc : s.Canon) : ∃ t, execProgramStart s = .next t ∧ t.Canon := by
  refine ⟨_, rfl, ?_⟩
  repeat' (first
    | with_reducible assumption
    | (simp +zetaHave (maxDischargeDepth := 60) only [State.canon_mk, State.canon_eta, apply_ite State.Canon, apply_ite Prod.fst, ite_self, implies_true,
        apply_ite Rx.s, Rx.drop_s, State.tapRun_canon, State.tapRequest_canon, State.startBoundary_canon,
        State.runBurst_canon, hc]; done)
    | split
    | intro _
    | (dsimp +zetaHave only))

theorem execProgramStop_canon (s : State) (hc : s.Canon) : ∃ t, execProgramStop s = .next t ∧ t.Canon := by
  refine ⟨_, rfl, ?_⟩
  repeat' (first
    | with_reducible assumption
    | (simp +zetaHave (maxDischargeDepth := 60) only [State.canon_mk, State.canon_eta, apply_ite State.Canon, apply_ite Prod.fst, ite_self, implies_true,
        apply_ite Rx.s, Rx.drop_s, State.tapRun_canon, State.tapRequest_canon, State.stopBoundary_canon, hc]; done)
    | split
    | intro _
    | (dsimp +zetaHave only))

theorem execEventStart_canon (s : State) (hc : s.Canon) : ∃ t, execEventStart s = .next t ∧ t.Canon := by
  refine ⟨_, rfl, ?_⟩
  repeat' (first
    | with_reducible assumption
    | (simp +zetaHave (maxDischargeDepth := 60) only [State.canon_mk, State.canon_eta, apply_ite State.Canon, apply_ite Prod.fst, ite_self, implies_true,
        apply_ite Rx.s, Rx.drop_s, State.tapRun_canon, State.tapRequest_canon, State.eventStart_canon,
        State.runBurst_canon, hc]; done)
    | split
    | intro _
    | (dsimp +zetaHave only))

theorem execEventStop_canon (s : State) (hc : s.Canon) : ∃ t, execEventStop s = .next t ∧ t.Canon := by
  refine ⟨_, rfl, ?_⟩
  repeat' (first
    | with_reducible assumption
    | (simp +zetaHave (maxDischargeDepth := 60) only [State.canon_mk, State.canon_eta, apply_ite State.Canon, apply_ite Prod.fst, ite_self, implies_true,
        apply_ite Rx.s, Rx.drop_s, State.tapRun_canon, State.tapRequest_canon, State.eventStop_canon, hc]; done)
    | split
    | intro _
    | (dsimp +zetaHave only))

theorem execReportWord_canon (s : State) (hc : s.Canon) : ∃ t, execReportWord s = .next t ∧ t.Canon := by
  refine ⟨_, rfl, ?_⟩
  repeat' (first
    | with_reducible assumption
    | (simp +zetaHave (maxDischargeDepth := 60) only [State.canon_mk, State.canon_eta, apply_ite State.Canon, apply_ite Prod.fst, ite_self, implies_true,
        apply_ite Rx.s, Rx.drop_s, State.tapRun_canon, State.tapRequest_canon, State.nextReport_canon, hc]; done)
    | split
    | intro _
    | (dsimp +zetaHave only))

theorem execReportMissing_canon (s : State) (hc : s.Canon) : ∃ t, execReportMissing s = .next t ∧ t.Canon := by
  refine ⟨_, rfl, ?_⟩
  repeat' (first
    | with_reducible assumption
    | (simp +zetaHave (maxDischargeDepth := 60) only [State.canon_mk, State.canon_eta, apply_ite State.Canon, apply_ite Prod.fst, ite_self, implies_true,
        apply_ite Rx.s, Rx.drop_s, State.tapRun_canon, State.tapRequest_canon, State.reportsMissing_canon, hc]; done)
    | split
    | intro _
    | (dsimp +zetaHave only))

theorem execPulseEmit_canon (out : Nat) (fb : Option Edge) (s : State) (hc : s.Canon) : ∃ t, execPulseEmit out fb s = .next t ∧ t.Canon := by
  refine ⟨_, rfl, ?_⟩
  repeat' (first
    | with_reducible assumption
    | (simp +zetaHave (maxDischargeDepth := 60) only [State.canon_mk, State.canon_eta, apply_ite State.Canon, apply_ite Prod.fst, ite_self, implies_true,
        apply_ite Rx.s, Rx.drop_s, State.pulseEmit_canon, State.tapRun_canon, State.tapRequest_canon,
        State.pinEdge_canon, hc]; done)
    | split
    | intro _
    | (dsimp +zetaHave only))

theorem execPulseCalDone_canon (out : Nat) (s : State) (hc : s.Canon) : ∃ t, execPulseCalDone out s = .next t ∧ t.Canon := by
  refine ⟨_, rfl, ?_⟩
  repeat' (first
    | with_reducible assumption
    | (simp +zetaHave (maxDischargeDepth := 60) only [State.canon_mk, State.canon_eta, apply_ite State.Canon, apply_ite Prod.fst, ite_self, implies_true,
        apply_ite Rx.s, Rx.drop_s, State.pulseCalDone_canon, State.tapRun_canon, State.tapRequest_canon, hc]; done)
    | split
    | intro _
    | (dsimp +zetaHave only))

theorem execFreezeEmit_canon (s : State) (hc : s.Canon) : ∃ t, execFreezeEmit s = .next t ∧ t.Canon := by
  refine ⟨_, rfl, ?_⟩
  repeat' (first
    | with_reducible assumption
    | (simp +zetaHave (maxDischargeDepth := 60) only [State.canon_mk, State.canon_eta, apply_ite State.Canon, apply_ite Prod.fst, ite_self, implies_true,
        apply_ite Rx.s, Rx.drop_s, State.freezeEmit_canon, State.tapRun_canon, State.tapRequest_canon, hc]; done)
    | split
    | intro _
    | (dsimp +zetaHave only))

theorem execLaunchReceive_canon (h : RxHead) (b : LaunchBody) (s : State) (hc : s.Canon) : ∃ t, execLaunchReceive h b s = .next t ∧ t.Canon := by
  refine ⟨_, rfl, ?_⟩
  repeat' (first
    | with_reducible assumption
    | (simp +zetaHave (maxDischargeDepth := 60) only [State.canon_mk, State.canon_eta, apply_ite State.Canon, apply_ite Prod.fst, ite_self, implies_true,
        apply_ite Rx.s, Rx.drop_s, State.takeEvent_canon, State.rxZudar_canon, State.tapRun_canon,
        State.tapRequest_canon, State.broadcast_canon, CmdOut.ok_canon, hc]; done)
    | split
    | intro _
    | (dsimp +zetaHave only))

theorem execPowerEntryAttempt_canon (member : Bool) (s : State) (hc : s.Canon) : ∃ t, execPowerEntryAttempt member s = .next t ∧ t.Canon := by
  refine ⟨_, rfl, ?_⟩
  repeat' (first
    | with_reducible assumption
    | (simp +zetaHave (maxDischargeDepth := 60) only [State.canon_mk, State.canon_eta, apply_ite State.Canon, apply_ite Prod.fst, ite_self, implies_true,
        apply_ite Rx.s, Rx.drop_s, State.tapRun_canon, State.tapRequest_canon, State.powerAttempt_canon, hc]; done)
    | split
    | intro _
    | (dsimp +zetaHave only))

theorem execNapWake_canon (src : Nat) (arg : Nat) (s : State) (hc : s.Canon) : ∃ t, execNapWake src arg s = .next t ∧ t.Canon := by
  refine ⟨_, rfl, ?_⟩
  repeat' (first
    | with_reducible assumption
    | (simp +zetaHave (maxDischargeDepth := 60) only [State.canon_mk, State.canon_eta, apply_ite State.Canon, apply_ite Prod.fst, ite_self, implies_true,
        apply_ite Rx.s, Rx.drop_s, State.wake_canon, State.tapRun_canon, State.tapRequest_canon, hc]; done)
    | split
    | intro _
    | (dsimp +zetaHave only))

theorem execNapPlannedWake_canon (s : State) (hc : s.Canon) : ∃ t, execNapPlannedWake s = .next t ∧ t.Canon := by
  refine ⟨_, rfl, ?_⟩
  repeat' (first
    | with_reducible assumption
    | (simp +zetaHave (maxDischargeDepth := 60) only [State.canon_mk, State.canon_eta, apply_ite State.Canon, apply_ite Prod.fst, ite_self, implies_true,
        apply_ite Rx.s, Rx.drop_s, State.tapRun_canon, State.tapRequest_canon, State.napPlanned_canon, hc]; done)
    | split
    | intro _
    | (dsimp +zetaHave only))

theorem execThatchWake_canon (src : Nat) (arg : Nat) (s : State) (hc : s.Canon) : ∃ t, execThatchWake src arg s = .next t ∧ t.Canon := by
  refine ⟨_, rfl, ?_⟩
  repeat' (first
    | with_reducible assumption
    | (simp +zetaHave (maxDischargeDepth := 60) only [State.canon_mk, State.canon_eta, apply_ite State.Canon, apply_ite Prod.fst, ite_self, implies_true,
        apply_ite Rx.s, Rx.drop_s, State.wake_canon, State.tapRun_canon, State.tapRequest_canon, hc]; done)
    | split
    | intro _
    | (dsimp +zetaHave only))

theorem execThatchTimerWake_canon (s : State) (hc : s.Canon) : ∃ t, execThatchTimerWake s = .next t ∧ t.Canon := by
  refine ⟨_, rfl, ?_⟩
  repeat' (first
    | with_reducible assumption
    | (simp +zetaHave (maxDischargeDepth := 60) only [State.canon_mk, State.canon_eta, apply_ite State.Canon, apply_ite Prod.fst, ite_self, implies_true,
        apply_ite Rx.s, Rx.drop_s, State.wake_canon, State.tapRun_canon, State.tapRequest_canon, hc]; done)
    | split
    | intro _
    | (dsimp +zetaHave only))

theorem execPwWake_canon (s : State) (hc : s.Canon) : ∃ t, execPwWake s = .next t ∧ t.Canon := by
  refine ⟨_, rfl, ?_⟩
  repeat' (first
    | with_reducible assumption
    | (simp +zetaHave (maxDischargeDepth := 60) only [State.canon_mk, State.canon_eta, apply_ite State.Canon, apply_ite Prod.fst, ite_self, implies_true,
        apply_ite Rx.s, Rx.drop_s, State.wake_canon, State.tapRun_canon, State.tapRequest_canon, hc]; done)
    | split
    | intro _
    | (dsimp +zetaHave only))

theorem execTimeRebuild_canon (k : Nat) (cw : Nat) (temp : Int) (tempOk : Bool) (s : State) (hc : s.Canon) : ∃ t, execTimeRebuild k cw temp tempOk s = .next t ∧ t.Canon := by
  refine ⟨_, rfl, ?_⟩
  repeat' (first
    | with_reducible assumption
    | (simp +zetaHave (maxDischargeDepth := 60) only [State.canon_mk, State.canon_eta, apply_ite State.Canon, apply_ite Prod.fst, ite_self, implies_true,
        apply_ite Rx.s, Rx.drop_s, State.tapRun_canon, State.tapRequest_canon, State.timeRebuild_canon, hc]; done)
    | split
    | intro _
    | (dsimp +zetaHave only))

theorem execOscGood_canon (s : State) (hc : s.Canon) : ∃ t, execOscGood s = .next t ∧ t.Canon := by
  refine ⟨_, rfl, ?_⟩
  repeat' (first
    | with_reducible assumption
    | (simp +zetaHave (maxDischargeDepth := 60) only [State.canon_mk, State.canon_eta, apply_ite State.Canon, apply_ite Prod.fst, ite_self, implies_true,
        apply_ite Rx.s, Rx.drop_s, State.tapRun_canon, State.tapRequest_canon, State.oscGoodSet_canon, hc]; done)
    | split
    | intro _
    | (dsimp +zetaHave only))

theorem execOscLoss_canon (s : State) (hc : s.Canon) : ∃ t, execOscLoss s = .next t ∧ t.Canon := by
  refine ⟨_, rfl, ?_⟩
  repeat' (first
    | with_reducible assumption
    | (simp +zetaHave (maxDischargeDepth := 60) only [State.canon_mk, State.canon_eta, apply_ite State.Canon, apply_ite Prod.fst, ite_self, implies_true,
        apply_ite Rx.s, Rx.drop_s, State.tapRun_canon, State.tapRequest_canon, State.oscLose_canon,
        State.oscCycle_canon, hc]; done)
    | split
    | intro _
    | (dsimp +zetaHave only))

theorem execPllLock_canon (p : Pll) (cycles : Nat) (oven : Bool) (s : State) (hc : s.Canon) : ∃ t, execPllLock p cycles oven s = .next t ∧ t.Canon := by
  refine ⟨_, rfl, ?_⟩
  repeat' (first
    | with_reducible assumption
    | (simp +zetaHave (maxDischargeDepth := 60) only [State.canon_mk, State.canon_eta, apply_ite State.Canon, apply_ite Prod.fst, ite_self, implies_true,
        apply_ite Rx.s, Rx.drop_s, State.tapRun_canon, State.tapRequest_canon, State.pllLocks_canon, hc]; done)
    | split
    | intro _
    | (dsimp +zetaHave only))

theorem execPllLockTimeout_canon (p : Pll) (s : State) (hc : s.Canon) : ∃ t, execPllLockTimeout p s = .next t ∧ t.Canon := by
  refine ⟨_, rfl, ?_⟩
  repeat' (first
    | with_reducible assumption
    | (simp +zetaHave (maxDischargeDepth := 60) only [State.canon_mk, State.canon_eta, apply_ite State.Canon, apply_ite Prod.fst, ite_self, implies_true,
        apply_ite Rx.s, Rx.drop_s, State.tapRun_canon, State.tapRequest_canon, State.pllTimeout_canon, hc]; done)
    | split
    | intro _
    | (dsimp +zetaHave only))

theorem execTimingPllUnlock_canon (s : State) (hc : s.Canon) : ∃ t, execTimingPllUnlock s = .next t ∧ t.Canon := by
  refine ⟨_, rfl, ?_⟩
  repeat' (first
    | with_reducible assumption
    | (simp +zetaHave (maxDischargeDepth := 60) only [State.canon_mk, State.canon_eta, apply_ite State.Canon, apply_ite Prod.fst, ite_self, implies_true,
        apply_ite Rx.s, Rx.drop_s, State.tapRun_canon, State.tapRequest_canon, State.timingUnlock_canon, hc]; done)
    | split
    | intro _
    | (dsimp +zetaHave only))

theorem execTimingPllRelock_canon (s : State) (hc : s.Canon) : ∃ t, execTimingPllRelock s = .next t ∧ t.Canon := by
  refine ⟨_, rfl, ?_⟩
  repeat' (first
    | with_reducible assumption
    | (simp +zetaHave (maxDischargeDepth := 60) only [State.canon_mk, State.canon_eta, apply_ite State.Canon, apply_ite Prod.fst, ite_self, implies_true,
        apply_ite Rx.s, Rx.drop_s, State.tapRun_canon, State.tapRequest_canon, State.drawFree_canon, hc]; done)
    | split
    | intro _
    | (dsimp +zetaHave only))

theorem execLogicPllUnlock_canon (s : State) (hc : s.Canon) : ∃ t, execLogicPllUnlock s = .next t ∧ t.Canon := by
  refine ⟨_, rfl, ?_⟩
  repeat' (first
    | with_reducible assumption
    | (simp +zetaHave (maxDischargeDepth := 60) only [State.canon_mk, State.canon_eta, apply_ite State.Canon, apply_ite Prod.fst, ite_self, implies_true,
        apply_ite Rx.s, Rx.drop_s, State.tapRun_canon, State.tapRequest_canon, State.logicUnlock_canon, hc]; done)
    | split
    | intro _
    | (dsimp +zetaHave only))

theorem execLogicPllRelock_canon (s : State) (hc : s.Canon) : ∃ t, execLogicPllRelock s = .next t ∧ t.Canon := by
  refine ⟨_, rfl, ?_⟩
  repeat' (first
    | with_reducible assumption
    | (simp +zetaHave (maxDischargeDepth := 60) only [State.canon_mk, State.canon_eta, apply_ite State.Canon, apply_ite Prod.fst, ite_self, implies_true,
        apply_ite Rx.s, Rx.drop_s, State.tapRun_canon, State.tapRequest_canon, State.drawFree_canon, hc]; done)
    | split
    | intro _
    | (dsimp +zetaHave only))

theorem execOvenFlagFall_canon (s : State) (hc : s.Canon) : ∃ t, execOvenFlagFall s = .next t ∧ t.Canon := by
  refine ⟨_, rfl, ?_⟩
  repeat' (first
    | with_reducible assumption
    | (simp +zetaHave (maxDischargeDepth := 60) only [State.canon_mk, State.canon_eta, apply_ite State.Canon, apply_ite Prod.fst, ite_self, implies_true,
        apply_ite Rx.s, Rx.drop_s, State.tapRun_canon, State.tapRequest_canon, State.ovenDrop_canon, hc]; done)
    | split
    | intro _
    | (dsimp +zetaHave only))

theorem execOvenOkRise_canon (s : State) (hc : s.Canon) : ∃ t, execOvenOkRise s = .next t ∧ t.Canon := by
  refine ⟨_, rfl, ?_⟩
  repeat' (first
    | with_reducible assumption
    | (simp +zetaHave (maxDischargeDepth := 60) only [State.canon_mk, State.canon_eta, apply_ite State.Canon, apply_ite Prod.fst, ite_self, implies_true,
        apply_ite Rx.s, Rx.drop_s, State.tapRun_canon, State.tapRequest_canon, State.ovenRise_canon, hc]; done)
    | split
    | intro _
    | (dsimp +zetaHave only))

theorem execGateClose_canon (k : Nat) (s : State) (hc : s.Canon) : ∃ t, execGateClose k s = .next t ∧ t.Canon := by
  refine ⟨_, rfl, ?_⟩
  repeat' (first
    | with_reducible assumption
    | (simp +zetaHave (maxDischargeDepth := 60) only [State.canon_mk, State.canon_eta, apply_ite State.Canon, apply_ite Prod.fst, ite_self, implies_true,
        apply_ite Rx.s, Rx.drop_s, State.tapRun_canon, State.tapRequest_canon, State.closeGate_canon, hc]; done)
    | split
    | intro _
    | (dsimp +zetaHave only))

theorem execCollUpReceive_canon (h : RxHead) (m : CollUp) (s : State) (hc : s.Canon) : ∃ t, execCollUpReceive h m s = .next t ∧ t.Canon := by
  refine ⟨_, rfl, ?_⟩
  repeat' (first
    | with_reducible assumption
    | (simp +zetaHave +contextual (maxDischargeDepth := 60) only [State.canon_mk, State.canon_eta, apply_ite State.Canon, apply_ite Prod.fst, ite_self, implies_true,
        apply_ite Rx.s, Rx.drop_s, State.ridgeUp_canon, State.tapRun_canon, State.tapRequest_canon,
        State.collFrame_canon, State.count_canon, hc]; done)
    | split
    | intro _
    | (dsimp +zetaHave only))

theorem execCollDownReceive_canon (h : RxHead) (m : CollDown) (s : State) (hc : s.Canon) : ∃ t, execCollDownReceive h m s = .next t ∧ t.Canon := by
  refine ⟨_, rfl, ?_⟩
  repeat' (first
    | with_reducible assumption
    | (simp +zetaHave +contextual (maxDischargeDepth := 60) only [State.canon_mk, State.canon_eta, apply_ite State.Canon, apply_ite Prod.fst, ite_self, implies_true,
        apply_ite Rx.s, Rx.drop_s, State.eaveDown_canon, State.ridgeDown_canon, State.tapRun_canon,
        State.tapRequest_canon, State.collFrame_canon, hc]; done)
    | split
    | intro _
    | (dsimp +zetaHave only))

theorem execCollMoveReceive_canon (h : RxHead) (m : CollMove) (s : State) (hc : s.Canon) : ∃ t, execCollMoveReceive h m s = .next t ∧ t.Canon := by
  refine ⟨_, rfl, ?_⟩
  repeat' (first
    | with_reducible assumption
    | (simp +zetaHave +contextual (maxDischargeDepth := 60) only [State.canon_mk, State.canon_eta, apply_ite State.Canon, apply_ite Prod.fst, ite_self, implies_true,
        apply_ite Rx.s, Rx.drop_s, State.eaveMove_canon, State.ridgeMove_canon, State.tapRun_canon,
        State.tapRequest_canon, State.collFrame_canon, hc]; done)
    | split
    | intro _
    | (dsimp +zetaHave only))

theorem execCollAbortReceive_canon (h : RxHead) (m : CollAbort) (s : State) (hc : s.Canon) : ∃ t, execCollAbortReceive h m s = .next t ∧ t.Canon := by
  refine ⟨_, rfl, ?_⟩
  repeat' (first
    | with_reducible assumption
    | (simp +zetaHave +contextual (maxDischargeDepth := 60) only [State.canon_mk, State.canon_eta, apply_ite State.Canon, apply_ite Prod.fst, ite_self, implies_true,
        apply_ite Rx.s, Rx.drop_s, State.eaveAbort_canon, State.ridgeAbort_canon, State.tapRun_canon,
        State.tapRequest_canon, State.collFrame_canon, hc]; done)
    | split
    | intro _
    | (dsimp +zetaHave only))

theorem execCollReqReceive_canon (h : RxHead) (q : CollReq) (s : State) (hc : s.Canon) : ∃ t, execCollReqReceive h q s = .next t ∧ t.Canon := by
  refine ⟨_, rfl, ?_⟩
  repeat' (first
    | with_reducible assumption
    | (simp +zetaHave +contextual (maxDischargeDepth := 60) only [State.canon_mk, State.canon_eta, apply_ite State.Canon, apply_ite Prod.fst, ite_self, implies_true,
        apply_ite Rx.s, Rx.drop_s, State.routeReq_canon, State.tapRun_canon, State.tapRequest_canon,
        State.collFrame_canon, hc]; done)
    | split
    | intro _
    | (dsimp +zetaHave only))

theorem execGangContribution_canon (pos : Nat) (m : GangMsg) (s : State) (hc : s.Canon) : ∃ t, execGangContribution pos m s = .next t ∧ t.Canon := by
  refine ⟨_, rfl, ?_⟩
  repeat' (first
    | with_reducible assumption
    | (simp +zetaHave (maxDischargeDepth := 60) only [State.canon_mk, State.canon_eta, apply_ite State.Canon, apply_ite Prod.fst, ite_self, implies_true,
        apply_ite Rx.s, Rx.drop_s, State.openGate_canon, State.busy_canon, State.gangContribution_canon,
        State.tapRun_canon, State.tapRequest_canon, State.gangDigest_canon, State.atLeader_canon, State.atMember_canon,
        hc]; done)
    | split
    | intro _
    | (dsimp +zetaHave only))

theorem execOrphanCounterFree_canon (s : State) (hc : s.Canon) : ∃ t, execOrphanCounterFree s = .next t ∧ t.Canon := by
  refine ⟨_, rfl, ?_⟩
  repeat' (first
    | with_reducible assumption
    | (simp +zetaHave (maxDischargeDepth := 60) only [State.canon_mk, State.canon_eta, apply_ite State.Canon, apply_ite Prod.fst, ite_self, implies_true,
        apply_ite Rx.s, Rx.drop_s, State.freeOrphans_canon, State.tapRun_canon, State.tapRequest_canon, hc]; done)
    | split
    | intro _
    | (dsimp +zetaHave only))

theorem execMoveTimeout_canon (s : State) (hc : s.Canon) : ∃ t, execMoveTimeout s = .next t ∧ t.Canon := by
  refine ⟨_, rfl, ?_⟩
  repeat' (first
    | with_reducible assumption
    | (simp +zetaHave (maxDischargeDepth := 60) only [State.canon_mk, State.canon_eta, apply_ite State.Canon, apply_ite Prod.fst, ite_self, implies_true,
        apply_ite Rx.s, Rx.drop_s, State.moveTimeouts_canon, State.tapRun_canon, State.tapRequest_canon, hc]; done)
    | split
    | intro _
    | (dsimp +zetaHave only))

theorem execIsolated_canon (s : State) (hc : s.Canon) : ∃ t, execIsolated s = .next t ∧ t.Canon := by
  refine ⟨_, rfl, ?_⟩
  repeat' (first
    | with_reducible assumption
    | (simp +zetaHave (maxDischargeDepth := 60) only [State.canon_mk, State.canon_eta, apply_ite State.Canon, apply_ite Prod.fst, ite_self, implies_true,
        apply_ite Rx.s, Rx.drop_s, State.tapRun_canon, State.tapRequest_canon, State.collArrivals_canon,
        State.collIsolated_canon, hc]; done)
    | split
    | intro _
    | (dsimp +zetaHave only))

theorem execCollectiveDeadline_canon (s : State) (hc : s.Canon) : ∃ t, execCollectiveDeadline s = .next t ∧ t.Canon := by
  refine ⟨_, rfl, ?_⟩
  repeat' (first
    | with_reducible assumption
    | (simp +zetaHave (maxDischargeDepth := 60) only [State.canon_mk, State.canon_eta, apply_ite State.Canon, apply_ite Prod.fst, ite_self, implies_true,
        apply_ite Rx.s, Rx.drop_s, State.collDeadlines_canon, State.tapRun_canon, State.tapRequest_canon,
        State.collArrivals_canon, hc]; done)
    | split
    | intro _
    | (dsimp +zetaHave only))

theorem execGangLinkCalibrationDone_canon (hops : List GangHop) (s : State) (hc : s.Canon) : ∃ t, execGangLinkCalibrationDone hops s = .next t ∧ t.Canon := by
  refine ⟨_, rfl, ?_⟩
  repeat' (first
    | with_reducible assumption
    | (simp +zetaHave (maxDischargeDepth := 60) only [State.canon_mk, State.canon_eta, apply_ite State.Canon, apply_ite Prod.fst, ite_self, implies_true,
        apply_ite Rx.s, Rx.drop_s, State.tapRun_canon, State.tapRequest_canon, hc]; done)
    | split
    | intro _
    | (dsimp +zetaHave only))

theorem execGangCalTimeout_canon (pos : Nat) (s : State) (hc : s.Canon) : ∃ t, execGangCalTimeout pos s = .next t ∧ t.Canon := by
  refine ⟨_, rfl, ?_⟩
  repeat' (first
    | with_reducible assumption
    | (simp +zetaHave (maxDischargeDepth := 60) only [State.canon_mk, State.canon_eta, apply_ite State.Canon, apply_ite Prod.fst, ite_self, implies_true,
        apply_ite Rx.s, Rx.drop_s, State.raise_canon, State.tapRun_canon, State.tapRequest_canon,
        State.gangCalOver_canon, hc]; done)
    | split
    | intro _
    | (dsimp +zetaHave only))

theorem execGangLinkFail_canon (lost : List Nat) (s : State) (hc : s.Canon) : ∃ t, execGangLinkFail lost s = .next t ∧ t.Canon := by
  refine ⟨_, rfl, ?_⟩
  repeat' (first
    | with_reducible assumption
    | (simp +zetaHave (maxDischargeDepth := 60) only [State.canon_mk, State.canon_eta, apply_ite State.Canon, apply_ite Prod.fst, ite_self, implies_true,
        apply_ite Rx.s, Rx.drop_s, State.tapRun_canon, State.tapRequest_canon, State.gangLose_canon, State.wake_canon,
        State.gangLost_canon, hc]; done)
    | split
    | intro _
    | (dsimp +zetaHave only))

theorem execBadOpcode_canon (s : State) (hc : s.Canon) : ∃ t, execBadOpcode s = .next t ∧ t.Canon := by
  refine ⟨_, rfl, ?_⟩
  repeat' (first
    | with_reducible assumption
    | (simp +zetaHave +contextual (maxDischargeDepth := 60) only [State.canon_mk, State.canon_eta, apply_ite State.Canon, apply_ite Prod.fst, ite_self, implies_true,
        apply_ite Rx.s, Rx.drop_s, apply_ite CmdOut.st, CmdOut.status_st, CmdOut.ok_st, CmdOut.done_st, CmdOut.wait_st,
        State.tapRun_canon, State.tapRequest_canon, CmdOut.status_canon, State.complete_canon, cmdOf_canon,
        State.acceptIf_canon, hc]; done)
    | split
    | intro _
    | (dsimp +zetaHave only))

theorem execGenIdentify_canon (s : State) (hc : s.Canon) : ∃ t, execGenIdentify s = .next t ∧ t.Canon := by
  refine ⟨_, rfl, ?_⟩
  split
  · exact State.acceptOp_canon s _ _ (fun t r ht => (cmdGenIdentify_canon t r ht).1) hc
  · exact hc

theorem execGenStatus_canon (s : State) (hc : s.Canon) : ∃ t, execGenStatus s = .next t ∧ t.Canon := by
  refine ⟨_, rfl, ?_⟩
  split
  · exact State.acceptOp_canon s _ _ (fun t r ht => (cmdGenStatus_canon t r ht).1) hc
  · exact hc

theorem execTopologyLoad_canon (s : State) (hc : s.Canon) : ∃ t, execTopologyLoad s = .next t ∧ t.Canon := by
  refine ⟨_, rfl, ?_⟩
  split
  · exact State.acceptOp_canon s _ _ (fun t r ht => (cmdTopologyLoad_canon t r ht).1) hc
  · exact hc

theorem execGenReset_canon (s : State) (hc : s.Canon) : ∃ t, execGenReset s = .next t ∧ t.Canon := by
  refine ⟨_, rfl, ?_⟩
  split
  · exact State.acceptOp_canon s _ _ (fun t r ht => (cmdGenReset_canon t r ht).1) hc
  · exact hc

theorem execFwLoad_canon (s : State) (hc : s.Canon) : ∃ t, execFwLoad s = .next t ∧ t.Canon := by
  refine ⟨_, rfl, ?_⟩
  split
  · exact State.acceptOp_canon s _ _ (fun t r ht => (cmdFwLoad_canon t r ht).1) hc
  · exact hc

theorem execFwStart_canon (s : State) (hc : s.Canon) : ∃ t, execFwStart s = .next t ∧ t.Canon := by
  refine ⟨_, rfl, ?_⟩
  split
  · exact State.acceptOp_canon s _ _ (fun t r ht => (cmdFwStart_canon t r ht).1) hc
  · exact hc

theorem execTimeAcquire_canon (s : State) (hc : s.Canon) : ∃ t, execTimeAcquire s = .next t ∧ t.Canon := by
  refine ⟨_, rfl, ?_⟩
  split
  · exact State.acceptOp_canon s _ _ (fun t r ht => (cmdTimeAcquire_canon t r ht).1) hc
  · exact hc

theorem execTimeRestep_canon (s : State) (hc : s.Canon) : ∃ t, execTimeRestep s = .next t ∧ t.Canon := by
  refine ⟨_, rfl, ?_⟩
  split
  · exact State.acceptOp_canon s _ _ (fun t r ht => (cmdTimeRestep_canon t r ht).1) hc
  · exact hc

theorem execTimeSlewLimit_canon (s : State) (hc : s.Canon) : ∃ t, execTimeSlewLimit s = .next t ∧ t.Canon := by
  refine ⟨_, rfl, ?_⟩
  split
  · exact State.acceptOp_canon s _ _ (fun t r ht => (cmdTimeSlewLimit_canon t r ht).1) hc
  · exact hc

theorem execTimeDomainSelect_canon (s : State) (hc : s.Canon) : ∃ t, execTimeDomainSelect s = .next t ∧ t.Canon := by
  refine ⟨_, rfl, ?_⟩
  split
  · exact State.acceptOp_canon s _ _ (fun t r ht => (cmdTimeDomainSelect_canon t r ht).1) hc
  · exact hc

theorem execTimeSwitchAt_canon (s : State) (hc : s.Canon) : ∃ t, execTimeSwitchAt s = .next t ∧ t.Canon := by
  refine ⟨_, rfl, ?_⟩
  split
  · exact State.acceptOp_canon s _ _ (fun t r ht => (cmdTimeSwitchAt_canon t r ht).1) hc
  · exact hc

theorem execTimeHoldoverForce_canon (s : State) (hc : s.Canon) : ∃ t, execTimeHoldoverForce s = .next t ∧ t.Canon := by
  refine ⟨_, rfl, ?_⟩
  split
  · exact State.acceptOp_canon s _ _ (fun t r ht => (cmdTimeHoldoverForce_canon t r ht).1) hc
  · exact hc

theorem execTimeEpochSet_canon (s : State) (hc : s.Canon) : ∃ t, execTimeEpochSet s = .next t ∧ t.Canon := by
  refine ⟨_, rfl, ?_⟩
  split
  · exact State.acceptOp_canon s _ _ (fun t r ht => (cmdTimeEpochSet_canon t r ht).1) hc
  · exact hc

theorem execRefConfigure_canon (s : State) (hc : s.Canon) : ∃ t, execRefConfigure s = .next t ∧ t.Canon := by
  refine ⟨_, rfl, ?_⟩
  split
  · exact State.acceptOp_canon s _ _ (fun t r ht => (cmdRefConfigure_canon t r ht).1) hc
  · exact hc

theorem execRefPriority_canon (s : State) (hc : s.Canon) : ∃ t, execRefPriority s = .next t ∧ t.Canon := by
  refine ⟨_, rfl, ?_⟩
  split
  · exact State.acceptOp_canon s _ _ (fun t r ht => (cmdRefPriority_canon t r ht).1) hc
  · exact hc

theorem execRefLoopOpen_canon (s : State) (hc : s.Canon) : ∃ t, execRefLoopOpen s = .next t ∧ t.Canon := by
  refine ⟨_, rfl, ?_⟩
  split
  · exact State.acceptOp_canon s _ _ (fun t r ht => (cmdRefLoopOpen_canon t r ht).1) hc
  · exact hc

theorem execRefLoopClose_canon (s : State) (hc : s.Canon) : ∃ t, execRefLoopClose s = .next t ∧ t.Canon := by
  refine ⟨_, rfl, ?_⟩
  split
  · exact State.acceptOp_canon s _ _ (fun t r ht => (cmdRefLoopClose_canon t r ht).1) hc
  · exact hc

theorem execRefCorrect_canon (s : State) (hc : s.Canon) : ∃ t, execRefCorrect s = .next t ∧ t.Canon := by
  refine ⟨_, rfl, ?_⟩
  split
  · exact State.acceptOp_canon s _ _ (fun t r ht => (cmdRefCorrect_canon t r ht).1) hc
  · exact hc

theorem execIntervalArm_canon (s : State) (hc : s.Canon) : ∃ t, execIntervalArm s = .next t ∧ t.Canon := by
  refine ⟨_, rfl, ?_⟩
  split
  · exact State.acceptOp_canon s _ _ (fun t r ht => (cmdIntervalArm_canon t r ht).1) hc
  · exact hc

theorem execIntervalAbort_canon (s : State) (hc : s.Canon) : ∃ t, execIntervalAbort s = .next t ∧ t.Canon := by
  refine ⟨_, rfl, ?_⟩
  split
  · exact State.acceptOp_canon s _ _ (fun t r ht => (cmdIntervalAbort_canon t r ht).1) hc
  · exact hc

theorem execSeqLoad_canon (s : State) (hc : s.Canon) : ∃ t, execSeqLoad s = .next t ∧ t.Canon := by
  refine ⟨_, rfl, ?_⟩
  split
  · exact State.acceptOp_canon s _ _ (fun t r ht => (cmdSeqLoad_canon t r ht).1) hc
  · exact hc

theorem execSeqStart_canon (s : State) (hc : s.Canon) : ∃ t, execSeqStart s = .next t ∧ t.Canon := by
  refine ⟨_, rfl, ?_⟩
  split
  · exact State.acceptOp_canon s _ _ (fun t r ht => (cmdSeqStart_canon t r ht).1) hc
  · exact hc

theorem execSeqStop_canon (s : State) (hc : s.Canon) : ∃ t, execSeqStop s = .next t ∧ t.Canon := by
  refine ⟨_, rfl, ?_⟩
  split
  · exact State.acceptOp_canon s _ _ (fun t r ht => (cmdSeqStop_canon t r ht).1) hc
  · exact hc

theorem execSeqArm_canon (s : State) (hc : s.Canon) : ∃ t, execSeqArm s = .next t ∧ t.Canon := by
  refine ⟨_, rfl, ?_⟩
  split
  · exact State.acceptOp_canon s _ _ (fun t r ht => (cmdSeqArm_canon t r ht).1) hc
  · exact hc

theorem execSeqCancel_canon (s : State) (hc : s.Canon) : ∃ t, execSeqCancel s = .next t ∧ t.Canon := by
  refine ⟨_, rfl, ?_⟩
  split
  · exact State.acceptOp_canon s _ _ (fun t r ht => (cmdSeqCancel_canon t r ht).1) hc
  · exact hc

theorem execObjCtxDefine_canon (s : State) (hc : s.Canon) : ∃ t, execObjCtxDefine s = .next t ∧ t.Canon := by
  refine ⟨_, rfl, ?_⟩
  split
  · exact State.acceptOp_canon s _ _ (fun t r ht => (cmdObjCtxDefine_canon t r ht).1) hc
  · exact hc

theorem execObjInit_canon (s : State) (hc : s.Canon) : ∃ t, execObjInit s = .next t ∧ t.Canon := by
  refine ⟨_, rfl, ?_⟩
  split
  · exact State.acceptOp_canon s _ _ (fun t r ht => (cmdObjInit_canon t r ht).1) hc
  · exact hc

theorem execObjCtxClear_canon (s : State) (hc : s.Canon) : ∃ t, execObjCtxClear s = .next t ∧ t.Canon := by
  refine ⟨_, rfl, ?_⟩
  split
  · exact State.acceptOp_canon s _ _ (fun t r ht => (cmdObjCtxClear_canon t r ht).1) hc
  · exact hc

theorem execObjCtxRelease_canon (s : State) (hc : s.Canon) : ∃ t, execObjCtxRelease s = .next t ∧ t.Canon := by
  refine ⟨_, rfl, ?_⟩
  split
  · exact State.acceptOp_canon s _ _ (fun t r ht => (cmdObjCtxRelease_canon t r ht).1) hc
  · exact hc

theorem execObjWake_canon (s : State) (hc : s.Canon) : ∃ t, execObjWake s = .next t ∧ t.Canon := by
  refine ⟨_, rfl, ?_⟩
  split
  · exact State.acceptOp_canon s _ _ (fun t r ht => (cmdObjWake_canon t r ht).1) hc
  · exact hc

theorem execObjOp_canon (s : State) (hc : s.Canon) : ∃ t, execObjOp s = .next t ∧ t.Canon := by
  refine ⟨_, rfl, ?_⟩
  split
  · exact State.acceptOp_canon s _ _ (fun t r ht => (cmdObjOp_canon t r ht).1) hc
  · exact hc

theorem execCollDefine_canon (s : State) (hc : s.Canon) : ∃ t, execCollDefine s = .next t ∧ t.Canon := by
  refine ⟨_, rfl, ?_⟩
  split
  · exact State.acceptOp_canon s _ _ (fun t r ht => (cmdCollDefine_canon t r ht).1) hc
  · exact hc

theorem execCollRelease_canon (s : State) (hc : s.Canon) : ∃ t, execCollRelease s = .next t ∧ t.Canon := by
  refine ⟨_, rfl, ?_⟩
  split
  · exact State.acceptOp_canon s _ _ (fun t r ht => (cmdCollRelease_canon t r ht).1) hc
  · exact hc

theorem execCollAbort_canon (s : State) (hc : s.Canon) : ∃ t, execCollAbort s = .next t ∧ t.Canon := by
  refine ⟨_, rfl, ?_⟩
  split
  · exact State.acceptOp_canon s _ _ (fun t r ht => (cmdCollAbort_canon t r ht).1) hc
  · exact hc

theorem execPortCalibrate_canon (s : State) (hc : s.Canon) : ∃ t, execPortCalibrate s = .next t ∧ t.Canon := by
  refine ⟨_, rfl, ?_⟩
  split
  · exact State.acceptOp_canon s _ _ (fun t r ht => (cmdPortCalibrate_canon t r ht).1) hc
  · exact hc

theorem execPortRetire_canon (s : State) (hc : s.Canon) : ∃ t, execPortRetire s = .next t ∧ t.Canon := by
  refine ⟨_, rfl, ?_⟩
  split
  · exact State.acceptOp_canon s _ _ (fun t r ht => (cmdPortRetireRow_canon t r ht).1) hc
  · exact hc

theorem execPortRestore_canon (s : State) (hc : s.Canon) : ∃ t, execPortRestore s = .next t ∧ t.Canon := by
  refine ⟨_, rfl, ?_⟩
  split
  · exact State.acceptOp_canon s _ _ (fun t r ht => (cmdPortRestoreRow_canon t r ht).1) hc
  · exact hc

theorem execPortSpareAdmit_canon (s : State) (hc : s.Canon) : ∃ t, execPortSpareAdmit s = .next t ∧ t.Canon := by
  refine ⟨_, rfl, ?_⟩
  split
  · exact State.acceptOp_canon s _ _ (fun t r ht => (cmdPortSpareRow_canon t r ht).1) hc
  · exact hc

theorem execPowerEnter_canon (s : State) (hc : s.Canon) : ∃ t, execPowerEnter s = .next t ∧ t.Canon := by
  refine ⟨_, rfl, ?_⟩
  split
  · exact State.acceptOp_canon s _ _ (fun t r ht => (cmdPowerEnter_canon t r ht).1) hc
  · exact hc

theorem execPulseArm_canon (s : State) (hc : s.Canon) : ∃ t, execPulseArm s = .next t ∧ t.Canon := by
  refine ⟨_, rfl, ?_⟩
  split
  · exact State.acceptOp_canon s _ _ (fun t r ht => (cmdPulseArm_canon t r ht).1) hc
  · exact hc

theorem execPulseCancel_canon (s : State) (hc : s.Canon) : ∃ t, execPulseCancel s = .next t ∧ t.Canon := by
  refine ⟨_, rfl, ?_⟩
  split
  · exact State.acceptOp_canon s _ _ (fun t r ht => (cmdPulseCancel_canon t r ht).1) hc
  · exact hc

theorem execClockClkout_canon (s : State) (hc : s.Canon) : ∃ t, execClockClkout s = .next t ∧ t.Canon := by
  refine ⟨_, rfl, ?_⟩
  split
  · exact State.acceptOp_canon s _ _ (fun t r ht => (cmdClockClkout_canon t r ht).1) hc
  · exact hc

theorem execPortCalibrateDone_canon (s : State) (hc : s.Canon) : ∃ t, execPortCalibrateDone s = .next t ∧ t.Canon := by
  refine ⟨_, rfl, ?_⟩
  repeat' (first
    | with_reducible assumption
    | (simp +zetaHave (maxDischargeDepth := 60) only [State.canon_mk, State.canon_eta, apply_ite State.Canon, apply_ite Prod.fst, ite_self, implies_true,
        apply_ite Rx.s, Rx.drop_s, apply_ite CmdOut.st, CmdOut.status_st, CmdOut.ok_st, CmdOut.done_st, CmdOut.wait_st,
        State.tapRun_canon, State.tapRequest_canon, State.calibrateFinish_canon, State.pumpCmds_canon, hc]; done)
    | split
    | intro _
    | (dsimp +zetaHave only))

theorem execCommandCompletion_canon (s : State) (hc : s.Canon) : ∃ t, execCommandCompletion s = .next t ∧ t.Canon := by
  refine ⟨_, rfl, ?_⟩
  repeat' (first
    | with_reducible assumption
    | (simp +zetaHave (maxDischargeDepth := 60) only [State.canon_mk, State.canon_eta, apply_ite State.Canon, apply_ite Prod.fst, ite_self, implies_true,
        apply_ite Rx.s, Rx.drop_s, apply_ite CmdOut.st, CmdOut.status_st, CmdOut.ok_st, CmdOut.done_st, CmdOut.wait_st,
        State.tapRun_canon, State.tapRequest_canon, State.pumpCmds_canon, hc]; done)
    | split
    | intro _
    | (dsimp +zetaHave only))

theorem execIrqCoalesceTimeout_canon (s : State) (hc : s.Canon) : ∃ t, execIrqCoalesceTimeout s = .next t ∧ t.Canon := by
  refine ⟨_, rfl, ?_⟩
  repeat' (first
    | with_reducible assumption
    | (simp +zetaHave (maxDischargeDepth := 60) only [State.canon_mk, State.canon_eta, apply_ite State.Canon, apply_ite Prod.fst, ite_self, implies_true,
        apply_ite Rx.s, Rx.drop_s, apply_ite CmdOut.st, CmdOut.status_st, CmdOut.ok_st, CmdOut.done_st, CmdOut.wait_st,
        State.tapRun_canon, State.tapRequest_canon, State.irqTimeout_canon, hc]; done)
    | split
    | intro _
    | (dsimp +zetaHave only))

theorem execMemoryReadResponse_canon (id : Nat) (bytes : List Nat) (bad : Bool) (s : State) (hc : s.Canon) : ∃ t, execMemoryReadResponse id bytes bad s = .next t ∧ t.Canon := by
  refine ⟨_, rfl, ?_⟩
  repeat' (first
    | with_reducible assumption
    | (simp +zetaHave (maxDischargeDepth := 60) only [State.canon_mk, State.canon_eta, apply_ite State.Canon, apply_ite Prod.fst, ite_self, implies_true,
        apply_ite Rx.s, Rx.drop_s, State.tapRun_canon, State.tapRequest_canon, State.readBeats_canon, hc]; done)
    | split
    | intro _
    | (dsimp +zetaHave only))

theorem execTranslationReadDone_canon (id : Nat) (bytes : List Nat) (bad : Bool) (s : State) (hc : s.Canon) : ∃ t, execTranslationReadDone id bytes bad s = .next t ∧ t.Canon := by
  refine ⟨_, rfl, ?_⟩
  repeat' (first
    | with_reducible assumption
    | (simp +zetaHave (maxDischargeDepth := 60) only [State.canon_mk, State.canon_eta, apply_ite State.Canon, apply_ite Prod.fst, ite_self, implies_true,
        apply_ite Rx.s, Rx.drop_s, State.tapRun_canon, State.tapRequest_canon, State.readEnds_canon, hc]; done)
    | split
    | intro _
    | (dsimp +zetaHave only))

theorem execMemoryWriteAck_canon (id : Nat) (err : Bool) (s : State) (hc : s.Canon) : ∃ t, execMemoryWriteAck id err s = .next t ∧ t.Canon := by
  refine ⟨_, rfl, ?_⟩
  repeat' (first
    | with_reducible assumption
    | (simp +zetaHave (maxDischargeDepth := 60) only [State.canon_mk, State.canon_eta, apply_ite State.Canon, apply_ite Prod.fst, ite_self, implies_true,
        apply_ite Rx.s, Rx.drop_s, State.tapRun_canon, State.tapRequest_canon, State.writeEnds_canon, hc]; done)
    | split
    | intro _
    | (dsimp +zetaHave only))

theorem execMemoryTimeout_canon (s : State) (hc : s.Canon) : ∃ t, execMemoryTimeout s = .next t ∧ t.Canon := by
  refine ⟨_, rfl, ?_⟩
  repeat' (first
    | with_reducible assumption
    | (simp +zetaHave (maxDischargeDepth := 60) only [State.canon_mk, State.canon_eta, apply_ite State.Canon, apply_ite Prod.fst, ite_self, implies_true,
        apply_ite Rx.s, Rx.drop_s, State.tapRun_canon, State.tapRequest_canon, State.memTimeouts_canon, hc]; done)
    | split
    | intro _
    | (dsimp +zetaHave only))

theorem execInternalParityFailure_canon (f : ParityAt) (s : State) (hc : s.Canon) : ∃ t, execInternalParityFailure f s = .next t ∧ t.Canon := by
  cases f <;> refine ⟨_, rfl, ?_⟩
  all_goals
   repeat' (first
    | with_reducible assumption
    | (simp +zetaHave (maxDischargeDepth := 60) only [State.canon_mk, State.canon_eta, apply_ite State.Canon, apply_ite Prod.fst, ite_self, implies_true,
        apply_ite Rx.s, Rx.drop_s, State.count_canon, State.stampRecord_canon, State.contained_canon,
        State.uncontained_canon, State.tapRun_canon, State.dropWord_canon, State.tapRequest_canon,
        State.badSlot_canon, State.badCounter_canon, State.badLog_canon, State.badStamp_canon,
        State.badReplay_canon, State.badTranslation_canon, State.zeroRead_canon, hc]; done)
    | split
    | intro _
    | (dsimp +zetaHave only))

theorem execFirmwareTrap_canon (s : State) (hc : s.Canon) : ∃ t, execFirmwareTrap s = .next t ∧ t.Canon := by
  refine ⟨_, rfl, ?_⟩
  repeat' (first
    | with_reducible assumption
    | (simp +zetaHave (maxDischargeDepth := 60) only [State.canon_mk, State.canon_eta, apply_ite State.Canon, apply_ite Prod.fst, ite_self, implies_true,
        apply_ite Rx.s, Rx.drop_s, State.underlayCause_canon, State.tapRun_canon, State.tapRequest_canon, hc]; done)
    | split
    | intro _
    | (dsimp +zetaHave only))

theorem execUnderlayEntry_canon (s : State) (hc : s.Canon) : ∃ t, execUnderlayEntry s = .next t ∧ t.Canon := by
  refine ⟨_, rfl, ?_⟩
  repeat' (first
    | with_reducible assumption
    | (simp +zetaHave (maxDischargeDepth := 60) only [State.canon_mk, State.canon_eta, apply_ite State.Canon, apply_ite Prod.fst, ite_self, implies_true,
        apply_ite Rx.s, Rx.drop_s, State.tapRun_canon, State.tapRequest_canon, State.underlayBoundary_canon, hc]; done)
    | split
    | intro _
    | (dsimp +zetaHave only))

theorem execUnderlayExit_canon (s : State) (hc : s.Canon) : ∃ t, execUnderlayExit s = .next t ∧ t.Canon := by
  refine ⟨_, rfl, ?_⟩
  repeat' (first
    | with_reducible assumption
    | (simp +zetaHave (maxDischargeDepth := 60) only [State.canon_mk, State.canon_eta, apply_ite State.Canon, apply_ite Prod.fst, ite_self, implies_true,
        apply_ite Rx.s, Rx.drop_s, State.tapRun_canon, State.tapRequest_canon, State.underlayExit_canon, hc]; done)
    | split
    | intro _
    | (dsimp +zetaHave only))

theorem execRegisterWrite_canon (m : Master) (off : Nat) (width : Nat) (value : Nat) (s : State) (hc : s.Canon) : ∃ t, execRegisterWrite m off width value s = .next t ∧ t.Canon := by
  refine ⟨_, rfl, ?_⟩
  repeat' (first
    | with_reducible assumption
    | (simp +zetaHave (maxDischargeDepth := 60) only [State.canon_mk, State.canon_eta, apply_ite State.Canon, apply_ite Prod.fst, ite_self, implies_true,
        apply_ite Rx.s, Rx.drop_s, State.tapRun_canon, State.tapRequest_canon, State.writeBy_canon, hc]; done)
    | split
    | intro _
    | (dsimp +zetaHave only))

theorem execTdNowNsRead_canon (m : Master) (s : State) (hc : s.Canon) : ∃ t, execTdNowNsRead m s = .next t ∧ t.Canon := by
  refine ⟨_, rfl, ?_⟩
  repeat' (first
    | with_reducible assumption
    | (simp +zetaHave (maxDischargeDepth := 60) only [State.canon_mk, State.canon_eta, apply_ite State.Canon, apply_ite Prod.fst, ite_self, implies_true,
        apply_ite Rx.s, Rx.drop_s, State.tapRun_canon, State.tapRequest_canon, State.readBy_canon, hc]; done)
    | split
    | intro _
    | (dsimp +zetaHave only))

theorem execPfStampLoRead_canon (m : Master) (p : Nat) (s : State) (hc : s.Canon) : ∃ t, execPfStampLoRead m p s = .next t ∧ t.Canon := by
  refine ⟨_, rfl, ?_⟩
  repeat' (first
    | with_reducible assumption
    | (simp +zetaHave (maxDischargeDepth := 60) only [State.canon_mk, State.canon_eta, apply_ite State.Canon, apply_ite Prod.fst, ite_self, implies_true,
        apply_ite Rx.s, Rx.drop_s, State.tapRun_canon, State.tapRequest_canon, State.readBy_canon, hc]; done)
    | split
    | intro _
    | (dsimp +zetaHave only))

theorem execImSkCountRead_canon (m : Master) (k : Nat) (s : State) (hc : s.Canon) : ∃ t, execImSkCountRead m k s = .next t ∧ t.Canon := by
  refine ⟨_, rfl, ?_⟩
  repeat' (first
    | with_reducible assumption
    | (simp +zetaHave (maxDischargeDepth := 60) only [State.canon_mk, State.canon_eta, apply_ite State.Canon, apply_ite Prod.fst, ite_self, implies_true,
        apply_ite Rx.s, Rx.drop_s, State.tapRun_canon, State.tapRequest_canon, State.readBy_canon, hc]; done)
    | split
    | intro _
    | (dsimp +zetaHave only))

theorem execImRawLoRead_canon (m : Master) (s : State) (hc : s.Canon) : ∃ t, execImRawLoRead m s = .next t ∧ t.Canon := by
  refine ⟨_, rfl, ?_⟩
  repeat' (first
    | with_reducible assumption
    | (simp +zetaHave (maxDischargeDepth := 60) only [State.canon_mk, State.canon_eta, apply_ite State.Canon, apply_ite Prod.fst, ite_self, implies_true,
        apply_ite Rx.s, Rx.drop_s, State.tapRun_canon, State.tapRequest_canon, State.readBy_canon, hc]; done)
    | split
    | intro _
    | (dsimp +zetaHave only))

theorem execOdWindowRead_canon (m : Master) (off : Nat) (s : State) (hc : s.Canon) : ∃ t, execOdWindowRead m off s = .next t ∧ t.Canon := by
  refine ⟨_, rfl, ?_⟩
  repeat' (first
    | with_reducible assumption
    | (simp +zetaHave (maxDischargeDepth := 60) only [State.canon_mk, State.canon_eta, apply_ite State.Canon, apply_ite Prod.fst, ite_self, implies_true,
        apply_ite Rx.s, Rx.drop_s, State.tapRun_canon, State.tapRequest_canon, State.readBy_canon, hc]; done)
    | split
    | intro _
    | (dsimp +zetaHave only))

theorem execPortEnable_canon (p : Nat) (v : Nat) (s : State) (hc : s.Canon) : ∃ t, execPortEnable p v s = .next t ∧ t.Canon := by
  refine ⟨_, rfl, ?_⟩
  repeat' (first
    | with_reducible assumption
    | (simp +zetaHave (maxDischargeDepth := 60) only [State.canon_mk, State.canon_eta, apply_ite State.Canon, apply_ite Prod.fst, ite_self, implies_true,
        apply_ite Rx.s, Rx.drop_s, State.tapRun_canon, State.tapRequest_canon, State.writeBy_canon, hc]; done)
    | split
    | intro _
    | (dsimp +zetaHave only))

theorem execPortDisable_canon (p : Nat) (v : Nat) (s : State) (hc : s.Canon) : ∃ t, execPortDisable p v s = .next t ∧ t.Canon := by
  refine ⟨_, rfl, ?_⟩
  repeat' (first
    | with_reducible assumption
    | (simp +zetaHave (maxDischargeDepth := 60) only [State.canon_mk, State.canon_eta, apply_ite State.Canon, apply_ite Prod.fst, ite_self, implies_true,
        apply_ite Rx.s, Rx.drop_s, State.tapRun_canon, State.tapRequest_canon, State.writeBy_canon, hc]; done)
    | split
    | intro _
    | (dsimp +zetaHave only))

theorem execPortConstantsWrite_canon (p : Nat) (which : Nat) (v : Nat) (s : State) (hc : s.Canon) : ∃ t, execPortConstantsWrite p which v s = .next t ∧ t.Canon := by
  refine ⟨_, rfl, ?_⟩
  repeat' (first
    | with_reducible assumption
    | (simp +zetaHave (maxDischargeDepth := 60) only [State.canon_mk, State.canon_eta, apply_ite State.Canon, apply_ite Prod.fst, ite_self, implies_true,
        apply_ite Rx.s, Rx.drop_s, State.tapRun_canon, State.tapRequest_canon, State.writeBy_canon, hc]; done)
    | split
    | intro _
    | (dsimp +zetaHave only))

theorem execTpDebtClr_canon (v : Nat) (s : State) (hc : s.Canon) : ∃ t, execTpDebtClr v s = .next t ∧ t.Canon := by
  refine ⟨_, rfl, ?_⟩
  repeat' (first
    | with_reducible assumption
    | (simp +zetaHave (maxDischargeDepth := 60) only [State.canon_mk, State.canon_eta, apply_ite State.Canon, apply_ite Prod.fst, ite_self, implies_true,
        apply_ite Rx.s, Rx.drop_s, State.tapRun_canon, State.tapRequest_canon, State.writeBy_canon, hc]; done)
    | split
    | intro _
    | (dsimp +zetaHave only))

theorem execProfileWrite_canon (off : Nat) (v : Nat) (s : State) (hc : s.Canon) : ∃ t, execProfileWrite off v s = .next t ∧ t.Canon := by
  refine ⟨_, rfl, ?_⟩
  repeat' (first
    | with_reducible assumption
    | (simp +zetaHave (maxDischargeDepth := 60) only [State.canon_mk, State.canon_eta, apply_ite State.Canon, apply_ite Prod.fst, ite_self, implies_true,
        apply_ite Rx.s, Rx.drop_s, State.tapRun_canon, State.tapRequest_canon, State.writeBy_canon, hc]; done)
    | split
    | intro _
    | (dsimp +zetaHave only))

theorem execOvenUseWrite_canon (v : Nat) (s : State) (hc : s.Canon) : ∃ t, execOvenUseWrite v s = .next t ∧ t.Canon := by
  refine ⟨_, rfl, ?_⟩
  repeat' (first
    | with_reducible assumption
    | (simp +zetaHave (maxDischargeDepth := 60) only [State.canon_mk, State.canon_eta, apply_ite State.Canon, apply_ite Prod.fst, ite_self, implies_true,
        apply_ite Rx.s, Rx.drop_s, State.tapRun_canon, State.tapRequest_canon, State.writeBy_canon, hc]; done)
    | split
    | intro _
    | (dsimp +zetaHave only))

theorem execCgClkoutWrite_canon (v : Nat) (s : State) (hc : s.Canon) : ∃ t, execCgClkoutWrite v s = .next t ∧ t.Canon := by
  refine ⟨_, rfl, ?_⟩
  repeat' (first
    | with_reducible assumption
    | (simp +zetaHave (maxDischargeDepth := 60) only [State.canon_mk, State.canon_eta, apply_ite State.Canon, apply_ite Prod.fst, ite_self, implies_true,
        apply_ite Rx.s, Rx.drop_s, State.tapRun_canon, State.tapRequest_canon, State.writeBy_canon, hc]; done)
    | split
    | intro _
    | (dsimp +zetaHave only))

theorem execBattenEnable_canon (s : State) (hc : s.Canon) : ∃ t, execBattenEnable s = .next t ∧ t.Canon := by
  refine ⟨_, rfl, ?_⟩
  repeat' (first
    | with_reducible assumption
    | (simp +zetaHave (maxDischargeDepth := 60) only [State.canon_mk, State.canon_eta, apply_ite State.Canon, apply_ite Prod.fst, ite_self, implies_true,
        apply_ite Rx.s, Rx.drop_s, State.tapRun_canon, State.tapRequest_canon, State.writeBy_canon, hc]; done)
    | split
    | intro _
    | (dsimp +zetaHave only))

theorem execBattenDisable_canon (s : State) (hc : s.Canon) : ∃ t, execBattenDisable s = .next t ∧ t.Canon := by
  refine ⟨_, rfl, ?_⟩
  repeat' (first
    | with_reducible assumption
    | (simp +zetaHave (maxDischargeDepth := 60) only [State.canon_mk, State.canon_eta, apply_ite State.Canon, apply_ite Prod.fst, ite_self, implies_true,
        apply_ite Rx.s, Rx.drop_s, State.tapRun_canon, State.tapRequest_canon, State.writeBy_canon, hc]; done)
    | split
    | intro _
    | (dsimp +zetaHave only))

theorem execBattenRecal_canon (s : State) (hc : s.Canon) : ∃ t, execBattenRecal s = .next t ∧ t.Canon := by
  refine ⟨_, rfl, ?_⟩
  repeat' (first
    | with_reducible assumption
    | (simp +zetaHave (maxDischargeDepth := 60) only [State.canon_mk, State.canon_eta, apply_ite State.Canon, apply_ite Prod.fst, ite_self, implies_true,
        apply_ite Rx.s, Rx.drop_s, State.tapRun_canon, State.tapRequest_canon, State.writeBy_canon, hc]; done)
    | split
    | intro _
    | (dsimp +zetaHave only))

theorem execPadRecal_canon (s : State) (hc : s.Canon) : ∃ t, execPadRecal s = .next t ∧ t.Canon := by
  refine ⟨_, rfl, ?_⟩
  repeat' (first
    | with_reducible assumption
    | (simp +zetaHave (maxDischargeDepth := 60) only [State.canon_mk, State.canon_eta, apply_ite State.Canon, apply_ite Prod.fst, ite_self, implies_true,
        apply_ite Rx.s, Rx.drop_s, State.tapRun_canon, State.tapRequest_canon, State.writeBy_canon, hc]; done)
    | split
    | intro _
    | (dsimp +zetaHave only))

theorem execImArm_canon (s : State) (hc : s.Canon) : ∃ t, execImArm s = .next t ∧ t.Canon := by
  refine ⟨_, rfl, ?_⟩
  repeat' (first
    | with_reducible assumption
    | (simp +zetaHave (maxDischargeDepth := 60) only [State.canon_mk, State.canon_eta, apply_ite State.Canon, apply_ite Prod.fst, ite_self, implies_true,
        apply_ite Rx.s, Rx.drop_s, State.tapRun_canon, State.tapRequest_canon, State.writeBy_canon, hc]; done)
    | split
    | intro _
    | (dsimp +zetaHave only))

theorem execImAbort_canon (s : State) (hc : s.Canon) : ∃ t, execImAbort s = .next t ∧ t.Canon := by
  refine ⟨_, rfl, ?_⟩
  repeat' (first
    | with_reducible assumption
    | (simp +zetaHave (maxDischargeDepth := 60) only [State.canon_mk, State.canon_eta, apply_ite State.Canon, apply_ite Prod.fst, ite_self, implies_true,
        apply_ite Rx.s, Rx.drop_s, State.tapRun_canon, State.tapRequest_canon, State.writeBy_canon, hc]; done)
    | split
    | intro _
    | (dsimp +zetaHave only))

theorem execImGo_canon (s : State) (hc : s.Canon) : ∃ t, execImGo s = .next t ∧ t.Canon := by
  refine ⟨_, rfl, ?_⟩
  repeat' (first
    | with_reducible assumption
    | (simp +zetaHave (maxDischargeDepth := 60) only [State.canon_mk, State.canon_eta, apply_ite State.Canon, apply_ite Prod.fst, ite_self, implies_true,
        apply_ite Rx.s, Rx.drop_s, State.tapRun_canon, State.tapRequest_canon, State.writeBy_canon, hc]; done)
    | split
    | intro _
    | (dsimp +zetaHave only))

theorem execImModeWrite_canon (on : Bool) (s : State) (hc : s.Canon) : ∃ t, execImModeWrite on s = .next t ∧ t.Canon := by
  refine ⟨_, rfl, ?_⟩
  repeat' (first
    | with_reducible assumption
    | (simp +zetaHave (maxDischargeDepth := 60) only [State.canon_mk, State.canon_eta, apply_ite State.Canon, apply_ite Prod.fst, ite_self, implies_true,
        apply_ite Rx.s, Rx.drop_s, State.tapRun_canon, State.tapRequest_canon, State.writeBy_canon, hc]; done)
    | split
    | intro _
    | (dsimp +zetaHave only))

theorem execZcStart_canon (s : State) (hc : s.Canon) : ∃ t, execZcStart s = .next t ∧ t.Canon := by
  refine ⟨_, rfl, ?_⟩
  repeat' (first
    | with_reducible assumption
    | (simp +zetaHave (maxDischargeDepth := 60) only [State.canon_mk, State.canon_eta, apply_ite State.Canon, apply_ite Prod.fst, ite_self, implies_true,
        apply_ite Rx.s, Rx.drop_s, State.tapRun_canon, State.tapRequest_canon, State.writeBy_canon, hc]; done)
    | split
    | intro _
    | (dsimp +zetaHave only))

theorem execZcClr_canon (s : State) (hc : s.Canon) : ∃ t, execZcClr s = .next t ∧ t.Canon := by
  refine ⟨_, rfl, ?_⟩
  repeat' (first
    | with_reducible assumption
    | (simp +zetaHave (maxDischargeDepth := 60) only [State.canon_mk, State.canon_eta, apply_ite State.Canon, apply_ite Prod.fst, ite_self, implies_true,
        apply_ite Rx.s, Rx.drop_s, State.tapRun_canon, State.tapRequest_canon, State.writeBy_canon, hc]; done)
    | split
    | intro _
    | (dsimp +zetaHave only))

theorem execProgramStoreWrite_canon (idx : Nat) (w : Nat) (s : State) (hc : s.Canon) : ∃ t, execProgramStoreWrite idx w s = .next t ∧ t.Canon := by
  refine ⟨_, rfl, ?_⟩
  repeat' (first
    | with_reducible assumption
    | (simp +zetaHave (maxDischargeDepth := 60) only [State.canon_mk, State.canon_eta, apply_ite State.Canon, apply_ite Prod.fst, ite_self, implies_true,
        apply_ite Rx.s, Rx.drop_s, State.tapRun_canon, State.tapRequest_canon, State.writeBy_canon, hc]; done)
    | split
    | intro _
    | (dsimp +zetaHave only))

theorem execPulseOutputEnable_canon (out : Nat) (s : State) (hc : s.Canon) : ∃ t, execPulseOutputEnable out s = .next t ∧ t.Canon := by
  refine ⟨_, rfl, ?_⟩
  repeat' (first
    | with_reducible assumption
    | (simp +zetaHave (maxDischargeDepth := 60) only [State.canon_mk, State.canon_eta, apply_ite State.Canon, apply_ite Prod.fst, ite_self, implies_true,
        apply_ite Rx.s, Rx.drop_s, State.tapRun_canon, State.tapRequest_canon, State.writeBy_canon, hc]; done)
    | split
    | intro _
    | (dsimp +zetaHave only))

theorem execPeriodicModeSet_canon (out : Nat) (s : State) (hc : s.Canon) : ∃ t, execPeriodicModeSet out s = .next t ∧ t.Canon := by
  refine ⟨_, rfl, ?_⟩
  repeat' (first
    | with_reducible assumption
    | (simp +zetaHave (maxDischargeDepth := 60) only [State.canon_mk, State.canon_eta, apply_ite State.Canon, apply_ite Prod.fst, ite_self, implies_true,
        apply_ite Rx.s, Rx.drop_s, State.tapRun_canon, State.tapRequest_canon, State.writeBy_canon, hc]; done)
    | split
    | intro _
    | (dsimp +zetaHave only))

theorem execRsCandnCfgWrite_canon (n : Nat) (v : Nat) (s : State) (hc : s.Canon) : ∃ t, execRsCandnCfgWrite n v s = .next t ∧ t.Canon := by
  refine ⟨_, rfl, ?_⟩
  repeat' (first
    | with_reducible assumption
    | (simp +zetaHave (maxDischargeDepth := 60) only [State.canon_mk, State.canon_eta, apply_ite State.Canon, apply_ite Prod.fst, ite_self, implies_true,
        apply_ite Rx.s, Rx.drop_s, State.tapRun_canon, State.tapRequest_canon, State.writeBy_canon, hc]; done)
    | split
    | intro _
    | (dsimp +zetaHave only))

theorem execRsCandnDelayWrite_canon (n : Nat) (v : Nat) (s : State) (hc : s.Canon) : ∃ t, execRsCandnDelayWrite n v s = .next t ∧ t.Canon := by
  refine ⟨_, rfl, ?_⟩
  repeat' (first
    | with_reducible assumption
    | (simp +zetaHave (maxDischargeDepth := 60) only [State.canon_mk, State.canon_eta, apply_ite State.Canon, apply_ite Prod.fst, ite_self, implies_true,
        apply_ite Rx.s, Rx.drop_s, State.tapRun_canon, State.tapRequest_canon, State.writeBy_canon, hc]; done)
    | split
    | intro _
    | (dsimp +zetaHave only))

theorem execHfWdogKick_canon (m : Master) (v : Nat) (s : State) (hc : s.Canon) : ∃ t, execHfWdogKick m v s = .next t ∧ t.Canon := by
  refine ⟨_, rfl, ?_⟩
  repeat' (first
    | with_reducible assumption
    | (simp +zetaHave (maxDischargeDepth := 60) only [State.canon_mk, State.canon_eta, apply_ite State.Canon, apply_ite Prod.fst, ite_self, implies_true,
        apply_ite Rx.s, Rx.drop_s, State.tapRun_canon, State.tapRequest_canon, State.writeBy_canon, hc]; done)
    | split
    | intro _
    | (dsimp +zetaHave only))

theorem execHfUlEnter_canon (s : State) (hc : s.Canon) : ∃ t, execHfUlEnter s = .next t ∧ t.Canon := by
  refine ⟨_, rfl, ?_⟩
  repeat' (first
    | with_reducible assumption
    | (simp +zetaHave (maxDischargeDepth := 60) only [State.canon_mk, State.canon_eta, apply_ite State.Canon, apply_ite Prod.fst, ite_self, implies_true,
        apply_ite Rx.s, Rx.drop_s, State.tapRun_canon, State.tapRequest_canon, State.writeBy_canon, hc]; done)
    | split
    | intro _
    | (dsimp +zetaHave only))

theorem execHfUlExit_canon (s : State) (hc : s.Canon) : ∃ t, execHfUlExit s = .next t ∧ t.Canon := by
  refine ⟨_, rfl, ?_⟩
  repeat' (first
    | with_reducible assumption
    | (simp +zetaHave (maxDischargeDepth := 60) only [State.canon_mk, State.canon_eta, apply_ite State.Canon, apply_ite Prod.fst, ite_self, implies_true,
        apply_ite Rx.s, Rx.drop_s, State.tapRun_canon, State.tapRequest_canon, State.writeBy_canon, hc]; done)
    | split
    | intro _
    | (dsimp +zetaHave only))

theorem execGcIrqSet_canon (v : Nat) (s : State) (hc : s.Canon) : ∃ t, execGcIrqSet v s = .next t ∧ t.Canon := by
  refine ⟨_, rfl, ?_⟩
  repeat' (first
    | with_reducible assumption
    | (simp +zetaHave (maxDischargeDepth := 60) only [State.canon_mk, State.canon_eta, apply_ite State.Canon, apply_ite Prod.fst, ite_self, implies_true,
        apply_ite Rx.s, Rx.drop_s, State.tapRun_canon, State.tapRequest_canon, State.writeBy_canon, hc]; done)
    | split
    | intro _
    | (dsimp +zetaHave only))

theorem execCommandHandover_canon (slot : Nat) (header : Nat) (s : State) (hc : s.Canon) : ∃ t, execCommandHandover slot header s = .next t ∧ t.Canon := by
  refine ⟨_, rfl, ?_⟩
  repeat' (first
    | with_reducible assumption
    | (simp +zetaHave (maxDischargeDepth := 60) only [State.canon_mk, State.canon_eta, apply_ite State.Canon, apply_ite Prod.fst, ite_self, implies_true,
        apply_ite Rx.s, Rx.drop_s, State.tapRun_canon, State.tapRequest_canon, State.writeBy_canon, hc]; done)
    | split
    | intro _
    | (dsimp +zetaHave only))

theorem execCpHostHb_canon (s : State) (hc : s.Canon) : ∃ t, execCpHostHb s = .next t ∧ t.Canon := by
  refine ⟨_, rfl, ?_⟩
  repeat' (first
    | with_reducible assumption
    | (simp +zetaHave (maxDischargeDepth := 60) only [State.canon_mk, State.canon_eta, apply_ite State.Canon, apply_ite Prod.fst, ite_self, implies_true,
        apply_ite Rx.s, Rx.drop_s, State.tapRun_canon, State.tapRequest_canon, State.writeBy_canon, hc]; done)
    | split
    | intro _
    | (dsimp +zetaHave only))

theorem execRingEnable_canon (v : Nat) (s : State) (hc : s.Canon) : ∃ t, execRingEnable v s = .next t ∧ t.Canon := by
  refine ⟨_, rfl, ?_⟩
  repeat' (first
    | with_reducible assumption
    | (simp +zetaHave (maxDischargeDepth := 60) only [State.canon_mk, State.canon_eta, apply_ite State.Canon, apply_ite Prod.fst, ite_self, implies_true,
        apply_ite Rx.s, Rx.drop_s, State.tapRun_canon, State.tapRequest_canon, State.writeBy_canon, hc]; done)
    | split
    | intro _
    | (dsimp +zetaHave only))

theorem execCpOwnWrite_canon (m : Master) (v : Nat) (s : State) (hc : s.Canon) : ∃ t, execCpOwnWrite m v s = .next t ∧ t.Canon := by
  refine ⟨_, rfl, ?_⟩
  repeat' (first
    | with_reducible assumption
    | (simp +zetaHave (maxDischargeDepth := 60) only [State.canon_mk, State.canon_eta, apply_ite State.Canon, apply_ite Prod.fst, ite_self, implies_true,
        apply_ite Rx.s, Rx.drop_s, State.tapRun_canon, State.tapRequest_canon, State.writeBy_canon, hc]; done)
    | split
    | intro _
    | (dsimp +zetaHave only))

theorem execPfCntClr_canon (p : Nat) (s : State) (hc : s.Canon) : ∃ t, execPfCntClr p s = .next t ∧ t.Canon := by
  refine ⟨_, rfl, ?_⟩
  repeat' (first
    | with_reducible assumption
    | (simp +zetaHave (maxDischargeDepth := 60) only [State.canon_mk, State.canon_eta, apply_ite State.Canon, apply_ite Prod.fst, ite_self, implies_true,
        apply_ite Rx.s, Rx.drop_s, State.tapRun_canon, State.tapRequest_canon, State.writeBy_canon, hc]; done)
    | split
    | intro _
    | (dsimp +zetaHave only))

theorem execTdCntClr_canon (s : State) (hc : s.Canon) : ∃ t, execTdCntClr s = .next t ∧ t.Canon := by
  refine ⟨_, rfl, ?_⟩
  repeat' (first
    | with_reducible assumption
    | (simp +zetaHave (maxDischargeDepth := 60) only [State.canon_mk, State.canon_eta, apply_ite State.Canon, apply_ite Prod.fst, ite_self, implies_true,
        apply_ite Rx.s, Rx.drop_s, State.tapRun_canon, State.tapRequest_canon, State.writeBy_canon, hc]; done)
    | split
    | intro _
    | (dsimp +zetaHave only))

theorem execRsCntClr_canon (s : State) (hc : s.Canon) : ∃ t, execRsCntClr s = .next t ∧ t.Canon := by
  refine ⟨_, rfl, ?_⟩
  repeat' (first
    | with_reducible assumption
    | (simp +zetaHave (maxDischargeDepth := 60) only [State.canon_mk, State.canon_eta, apply_ite State.Canon, apply_ite Prod.fst, ite_self, implies_true,
        apply_ite Rx.s, Rx.drop_s, State.tapRun_canon, State.tapRequest_canon, State.writeBy_canon, hc]; done)
    | split
    | intro _
    | (dsimp +zetaHave only))

theorem execCgCntClr_canon (s : State) (hc : s.Canon) : ∃ t, execCgCntClr s = .next t ∧ t.Canon := by
  refine ⟨_, rfl, ?_⟩
  repeat' (first
    | with_reducible assumption
    | (simp +zetaHave (maxDischargeDepth := 60) only [State.canon_mk, State.canon_eta, apply_ite State.Canon, apply_ite Prod.fst, ite_self, implies_true,
        apply_ite Rx.s, Rx.drop_s, State.tapRun_canon, State.tapRequest_canon, State.writeBy_canon, hc]; done)
    | split
    | intro _
    | (dsimp +zetaHave only))

theorem execBtCntClr_canon (s : State) (hc : s.Canon) : ∃ t, execBtCntClr s = .next t ∧ t.Canon := by
  refine ⟨_, rfl, ?_⟩
  repeat' (first
    | with_reducible assumption
    | (simp +zetaHave (maxDischargeDepth := 60) only [State.canon_mk, State.canon_eta, apply_ite State.Canon, apply_ite Prod.fst, ite_self, implies_true,
        apply_ite Rx.s, Rx.drop_s, State.tapRun_canon, State.tapRequest_canon, State.writeBy_canon, hc]; done)
    | split
    | intro _
    | (dsimp +zetaHave only))

theorem execImCntClr_canon (s : State) (hc : s.Canon) : ∃ t, execImCntClr s = .next t ∧ t.Canon := by
  refine ⟨_, rfl, ?_⟩
  repeat' (first
    | with_reducible assumption
    | (simp +zetaHave (maxDischargeDepth := 60) only [State.canon_mk, State.canon_eta, apply_ite State.Canon, apply_ite Prod.fst, ite_self, implies_true,
        apply_ite Rx.s, Rx.drop_s, State.tapRun_canon, State.tapRequest_canon, State.writeBy_canon, hc]; done)
    | split
    | intro _
    | (dsimp +zetaHave only))

theorem execSqCntClr_canon (s : State) (hc : s.Canon) : ∃ t, execSqCntClr s = .next t ∧ t.Canon := by
  refine ⟨_, rfl, ?_⟩
  repeat' (first
    | with_reducible assumption
    | (simp +zetaHave (maxDischargeDepth := 60) only [State.canon_mk, State.canon_eta, apply_ite State.Canon, apply_ite Prod.fst, ite_self, implies_true,
        apply_ite Rx.s, Rx.drop_s, State.tapRun_canon, State.tapRequest_canon, State.writeBy_canon, hc]; done)
    | split
    | intro _
    | (dsimp +zetaHave only))

theorem execOdCntClr_canon (s : State) (hc : s.Canon) : ∃ t, execOdCntClr s = .next t ∧ t.Canon := by
  refine ⟨_, rfl, ?_⟩
  repeat' (first
    | with_reducible assumption
    | (simp +zetaHave (maxDischargeDepth := 60) only [State.canon_mk, State.canon_eta, apply_ite State.Canon, apply_ite Prod.fst, ite_self, implies_true,
        apply_ite Rx.s, Rx.drop_s, State.tapRun_canon, State.tapRequest_canon, State.writeBy_canon, hc]; done)
    | split
    | intro _
    | (dsimp +zetaHave only))

theorem execCeCntClr_canon (s : State) (hc : s.Canon) : ∃ t, execCeCntClr s = .next t ∧ t.Canon := by
  refine ⟨_, rfl, ?_⟩
  repeat' (first
    | with_reducible assumption
    | (simp +zetaHave (maxDischargeDepth := 60) only [State.canon_mk, State.canon_eta, apply_ite State.Canon, apply_ite Prod.fst, ite_self, implies_true,
        apply_ite Rx.s, Rx.drop_s, State.tapRun_canon, State.tapRequest_canon, State.writeBy_canon, hc]; done)
    | split
    | intro _
    | (dsimp +zetaHave only))

theorem execTpCntClr_canon (s : State) (hc : s.Canon) : ∃ t, execTpCntClr s = .next t ∧ t.Canon := by
  refine ⟨_, rfl, ?_⟩
  repeat' (first
    | with_reducible assumption
    | (simp +zetaHave (maxDischargeDepth := 60) only [State.canon_mk, State.canon_eta, apply_ite State.Canon, apply_ite Prod.fst, ite_self, implies_true,
        apply_ite Rx.s, Rx.drop_s, State.tapRun_canon, State.tapRequest_canon, State.writeBy_canon, hc]; done)
    | split
    | intro _
    | (dsimp +zetaHave only))

theorem execHfCntClr_canon (s : State) (hc : s.Canon) : ∃ t, execHfCntClr s = .next t ∧ t.Canon := by
  refine ⟨_, rfl, ?_⟩
  repeat' (first
    | with_reducible assumption
    | (simp +zetaHave (maxDischargeDepth := 60) only [State.canon_mk, State.canon_eta, apply_ite State.Canon, apply_ite Prod.fst, ite_self, implies_true,
        apply_ite Rx.s, Rx.drop_s, State.tapRun_canon, State.tapRequest_canon, State.writeBy_canon, hc]; done)
    | split
    | intro _
    | (dsimp +zetaHave only))

theorem execPwCntClr_canon (s : State) (hc : s.Canon) : ∃ t, execPwCntClr s = .next t ∧ t.Canon := by
  refine ⟨_, rfl, ?_⟩
  repeat' (first
    | with_reducible assumption
    | (simp +zetaHave (maxDischargeDepth := 60) only [State.canon_mk, State.canon_eta, apply_ite State.Canon, apply_ite Prod.fst, ite_self, implies_true,
        apply_ite Rx.s, Rx.drop_s, State.tapRun_canon, State.tapRequest_canon, State.writeBy_canon, hc]; done)
    | split
    | intro _
    | (dsimp +zetaHave only))

theorem execCpCntClr_canon (s : State) (hc : s.Canon) : ∃ t, execCpCntClr s = .next t ∧ t.Canon := by
  refine ⟨_, rfl, ?_⟩
  repeat' (first
    | with_reducible assumption
    | (simp +zetaHave (maxDischargeDepth := 60) only [State.canon_mk, State.canon_eta, apply_ite State.Canon, apply_ite Prod.fst, ite_self, implies_true,
        apply_ite Rx.s, Rx.drop_s, State.tapRun_canon, State.tapRequest_canon, State.writeBy_canon, hc]; done)
    | split
    | intro _
    | (dsimp +zetaHave only))

theorem execGcCntClr_canon (s : State) (hc : s.Canon) : ∃ t, execGcCntClr s = .next t ∧ t.Canon := by
  refine ⟨_, rfl, ?_⟩
  repeat' (first
    | with_reducible assumption
    | (simp +zetaHave (maxDischargeDepth := 60) only [State.canon_mk, State.canon_eta, apply_ite State.Canon, apply_ite Prod.fst, ite_self, implies_true,
        apply_ite Rx.s, Rx.drop_s, State.tapRun_canon, State.tapRequest_canon, State.writeBy_canon, hc]; done)
    | split
    | intro _
    | (dsimp +zetaHave only))

theorem execHostRequest_canon (a : Access) (parityOk : Bool) (s : State) (hc : s.Canon) : ∃ t, execHostRequest a parityOk s = .next t ∧ t.Canon := by
  refine ⟨_, rfl, ?_⟩
  repeat' (first
    | with_reducible assumption
    | (simp +zetaHave (maxDischargeDepth := 60) only [State.canon_mk, State.canon_eta, apply_ite State.Canon, apply_ite Prod.fst, ite_self, implies_true,
        apply_ite Rx.s, Rx.drop_s, State.tapRun_canon, State.tapRequest_canon, State.hostRequest_canon, hc]; done)
    | split
    | intro _
    | (dsimp +zetaHave only))

theorem execHostPortReset_canon (s : State) (hc : s.Canon) : ∃ t, execHostPortReset s = .next t ∧ t.Canon := by
  refine ⟨_, rfl, ?_⟩
  repeat' (first
    | with_reducible assumption
    | (simp +zetaHave (maxDischargeDepth := 60) only [State.canon_mk, State.canon_eta, apply_ite State.Canon, apply_ite Prod.fst, ite_self, implies_true,
        apply_ite Rx.s, Rx.drop_s, State.tapRun_canon, State.tapRequest_canon, State.hostReset_canon, hc]; done)
    | split
    | intro _
    | (dsimp +zetaHave only))

theorem execHostPortResetRelease_canon (s : State) (hc : s.Canon) : ∃ t, execHostPortResetRelease s = .next t ∧ t.Canon := by
  refine ⟨_, rfl, ?_⟩
  split
  · exact hc
  · exact { hc with credits := Nat.le_refl _ }

theorem execHostHeartbeatTimeout_canon (s : State) (hc : s.Canon) : ∃ t, execHostHeartbeatTimeout s = .next t ∧ t.Canon := by
  refine ⟨_, rfl, ?_⟩
  repeat' (first
    | with_reducible assumption
    | (simp +zetaHave (maxDischargeDepth := 60) only [State.canon_mk, State.canon_eta, apply_ite State.Canon, apply_ite Prod.fst, ite_self, implies_true,
        apply_ite Rx.s, Rx.drop_s, State.tapRun_canon, State.tapRequest_canon, State.heartbeatTimeout_canon, hc]; done)
    | split
    | intro _
    | (dsimp +zetaHave only))

theorem execSbMctpControl_canon (cmd : Nat) (data : Nat) (s : State) (hc : s.Canon) : ∃ t, execSbMctpControl cmd data s = .next t ∧ t.Canon := by
  refine ⟨_, rfl, ?_⟩
  repeat' (first
    | with_reducible assumption
    | (simp +zetaHave (maxDischargeDepth := 60) only [State.canon_mk, State.canon_eta, apply_ite State.Canon, apply_ite Prod.fst, ite_self, implies_true,
        apply_ite Rx.s, Rx.drop_s, State.tapRun_canon, State.tapRequest_canon, State.sbMessage_canon, hc]; done)
    | split
    | intro _
    | (dsimp +zetaHave only))

theorem execSbCommandRequest_canon (words : List Nat) (s : State) (hc : s.Canon) : ∃ t, execSbCommandRequest words s = .next t ∧ t.Canon := by
  refine ⟨_, rfl, ?_⟩
  repeat' (first
    | with_reducible assumption
    | (simp +zetaHave (maxDischargeDepth := 60) only [State.canon_mk, State.canon_eta, apply_ite State.Canon, apply_ite Prod.fst, ite_self, implies_true,
        apply_ite Rx.s, Rx.drop_s, State.tapRun_canon, State.tapRequest_canon, State.sbMessage_canon, hc]; done)
    | split
    | intro _
    | (dsimp +zetaHave only))

theorem execSbRegisterRead_canon (off : Nat) (width : Nat) (s : State) (hc : s.Canon) : ∃ t, execSbRegisterRead off width s = .next t ∧ t.Canon := by
  refine ⟨_, rfl, ?_⟩
  repeat' (first
    | with_reducible assumption
    | (simp +zetaHave (maxDischargeDepth := 60) only [State.canon_mk, State.canon_eta, apply_ite State.Canon, apply_ite Prod.fst, ite_self, implies_true,
        apply_ite Rx.s, Rx.drop_s, State.tapRun_canon, State.tapRequest_canon, State.regRead_canon,
        State.sbMessage_canon, hc]; done)
    | split
    | intro _
    | (dsimp +zetaHave only))

theorem execSbRegisterWrite_canon (off : Nat) (width : Nat) (value : Nat) (s : State) (hc : s.Canon) : ∃ t, execSbRegisterWrite off width value s = .next t ∧ t.Canon := by
  refine ⟨_, rfl, ?_⟩
  repeat' (first
    | with_reducible assumption
    | (simp +zetaHave (maxDischargeDepth := 60) only [State.canon_mk, State.canon_eta, apply_ite State.Canon, apply_ite Prod.fst, ite_self, implies_true,
        apply_ite Rx.s, Rx.drop_s, State.tapRun_canon, State.tapRequest_canon, State.regWrite_canon,
        State.sbMessage_canon, hc]; done)
    | split
    | intro _
    | (dsimp +zetaHave only))

theorem execSbPacketBad_canon (pec : Bool) (s : State) (hc : s.Canon) : ∃ t, execSbPacketBad pec s = .next t ∧ t.Canon := by
  refine ⟨_, rfl, ?_⟩
  repeat' (first
    | with_reducible assumption
    | (simp +zetaHave (maxDischargeDepth := 60) only [State.canon_mk, State.canon_eta, apply_ite State.Canon, apply_ite Prod.fst, ite_self, implies_true,
        apply_ite Rx.s, Rx.drop_s, State.count_canon, State.tapRun_canon, State.tapRequest_canon, hc]; done)
    | split
    | intro _
    | (dsimp +zetaHave only))

theorem execCourseTick_canon (tick : TickIn) (s : State) (hc : s.Canon) : ∃ t, execCourseTick tick s = .next t ∧ t.Canon := by
  refine ⟨_, rfl, ?_⟩
  repeat' (first
    | with_reducible assumption
    | (simp +zetaHave (maxDischargeDepth := 60) only [State.canon_mk, State.canon_eta, apply_ite State.Canon, apply_ite Prod.fst, ite_self, implies_true,
        apply_ite Rx.s, Rx.drop_s, State.tapRun_canon, State.tapRequest_canon, State.courseTick_canon,
        State.acquisitionStep_canon, State.endCourse_canon, hc]; done)
    | split
    | intro _
    | (dsimp +zetaHave only))

theorem execAcquisitionStep_canon (osc : Edge) (s : State) (hc : s.Canon) : ∃ t, execAcquisitionStep osc s = .next t ∧ t.Canon := by
  refine ⟨_, rfl, ?_⟩
  repeat' (first
    | with_reducible assumption
    | (simp +zetaHave (maxDischargeDepth := 60) only [State.canon_mk, State.canon_eta, apply_ite State.Canon, apply_ite Prod.fst, ite_self, implies_true,
        apply_ite Rx.s, Rx.drop_s, State.tapRun_canon, State.tapRequest_canon, State.acquisitionStep_canon, hc]; done)
    | split
    | intro _
    | (dsimp +zetaHave only))

end Sys2Proof.Machine
end

