-- ==== Sys2Proof/Laws/FrameOps.lean ====
section
/-! SUPPORT. Sys2Proof/Laws/FrameOps.lean: no operation of Machine/Ops.lean touches the queue, the tie-offs or the start
phase of the block. -/

set_option linter.all false
set_option Elab.async false

namespace Sys2Proof.Machine
open Sys2Proof.Config
set_option linter.unusedSimpArgs false

theorem State.wr_fixed (s : State) (r : Reg) (v : Nat) : (State.wr s r v).fixed = s.fixed := by
  unfold State.wr
  repeat' (first
    | with_reducible rfl
    | (simp +zetaHave only [State.fixed_mk, State.fixed_eta, apply_ite State.fixed, apply_ite Prod.fst, ite_self, implies_true]; done)
    | split
    | intro _
    | (dsimp +zetaHave only))

theorem State.wrFld_fixed (s : State) (r : Reg) (lo : Nat) (w : Nat) (v : Nat) : (State.wrFld s r lo w v).fixed = s.fixed := by
  unfold State.wrFld
  repeat' (first
    | with_reducible rfl
    | (simp +zetaHave only [State.fixed_mk, State.fixed_eta, apply_ite State.fixed, apply_ite Prod.fst, ite_self, implies_true,
        State.wr_fixed]; done)
    | split
    | intro _
    | (dsimp +zetaHave only))

theorem State.count_fixed (s : State) (off : Nat) (k : Nat) : (State.count s off k).fixed = s.fixed := by
  unfold State.count
  repeat' (first
    | with_reducible rfl
    | (simp +zetaHave only [State.fixed_mk, State.fixed_eta, apply_ite State.fixed, apply_ite Prod.fst, ite_self, implies_true]; done)
    | split
    | intro _
    | (dsimp +zetaHave only))

theorem State.clearCounters_fixed (s : State) (lo : Nat) (hi : Nat) : (State.clearCounters s lo hi).fixed = s.fixed := by
  unfold State.clearCounters
  repeat' (first
    | with_reducible rfl
    | (simp +zetaHave only [State.fixed_mk, State.fixed_eta, apply_ite State.fixed, apply_ite Prod.fst, ite_self, implies_true]; done)
    | split
    | intro _
    | (dsimp +zetaHave only))

theorem State.drawFree_fixed (s : State) : (State.drawFree s).1.fixed = s.fixed := by
  unfold State.drawFree
  repeat' (first
    | with_reducible rfl
    | (simp +zetaHave only [State.fixed_mk, State.fixed_eta, apply_ite State.fixed, apply_ite Prod.fst, ite_self, implies_true]; done)
    | split
    | intro _
    | (dsimp +zetaHave only))

theorem State.raise_fixed (s : State) (k : Nat) : (State.raise s k).fixed = s.fixed := by
  unfold State.raise
  repeat' (first
    | with_reducible rfl
    | (simp +zetaHave only [State.fixed_mk, State.fixed_eta, apply_ite State.fixed, apply_ite Prod.fst, ite_self, implies_true]; done)
    | split
    | intro _
    | (dsimp +zetaHave only))

theorem State.raiseIf_fixed (s : State) (c : Bool) (k : Nat) : (State.raiseIf s c k).fixed = s.fixed := by
  unfold State.raiseIf
  repeat' (first
    | with_reducible rfl
    | (simp +zetaHave only [State.fixed_mk, State.fixed_eta, apply_ite State.fixed, apply_ite Prod.fst, ite_self, implies_true,
        State.raise_fixed]; done)
    | split
    | intro _
    | (dsimp +zetaHave only))

theorem State.emit_fixed (s : State) (o : Output) : (State.emit s o).fixed = s.fixed := by
  unfold State.emit
  repeat' (first
    | with_reducible rfl
    | (simp +zetaHave only [State.fixed_mk, State.fixed_eta, apply_ite State.fixed, apply_ite Prod.fst, ite_self, implies_true]; done)
    | split
    | intro _
    | (dsimp +zetaHave only))

theorem State.evt_fixed (s : State) (line : Nat) (k : Nat) : (State.evt s line k).fixed = s.fixed := by
  unfold State.evt
  repeat' (first
    | with_reducible rfl
    | (simp +zetaHave only [State.fixed_mk, State.fixed_eta, apply_ite State.fixed, apply_ite Prod.fst, ite_self, implies_true,
        State.count_fixed, State.emit_fixed]; done)
    | split
    | intro _
    | (dsimp +zetaHave only))

theorem State.clkoutPulse_fixed (s : State) (src : Nat) : (State.clkoutPulse s src).fixed = s.fixed := by
  unfold State.clkoutPulse
  repeat' (first
    | with_reducible rfl
    | (simp +zetaHave only [State.fixed_mk, State.fixed_eta, apply_ite State.fixed, apply_ite Prod.fst, ite_self, implies_true,
        State.emit_fixed]; done)
    | split
    | intro _
    | (dsimp +zetaHave only))

theorem State.clkoutDrive_fixed (s : State) (low : Bool) : (State.clkoutDrive s low).fixed = s.fixed := by
  unfold State.clkoutDrive
  repeat' (first
    | with_reducible rfl
    | (simp +zetaHave only [State.fixed_mk, State.fixed_eta, apply_ite State.fixed, apply_ite Prod.fst, ite_self, implies_true,
        State.emit_fixed]; done)
    | split
    | intro _
    | (dsimp +zetaHave only))

theorem State.openGate_fixed (s : State) (k : Nat) : (State.openGate s k).fixed = s.fixed := by
  unfold State.openGate
  repeat' (first
    | with_reducible rfl
    | (simp +zetaHave only [State.fixed_mk, State.fixed_eta, apply_ite State.fixed, apply_ite Prod.fst, ite_self, implies_true,
        State.evt_fixed]; done)
    | split
    | intro _
    | (dsimp +zetaHave only))

theorem State.busy_fixed (s : State) : (State.busy s).fixed = s.fixed := by
  unfold State.busy
  repeat' (first
    | with_reducible rfl
    | (simp +zetaHave only [State.fixed_mk, State.fixed_eta, apply_ite State.fixed, apply_ite Prod.fst, ite_self, implies_true]; done)
    | split
    | intro _
    | (dsimp +zetaHave only))

theorem State.setPower_fixed (s : State) (st : PowerState) : (State.setPower s st).fixed = s.fixed := by
  unfold State.setPower
  repeat' (first
    | with_reducible rfl
    | (simp +zetaHave only [State.fixed_mk, State.fixed_eta, apply_ite State.fixed, apply_ite Prod.fst, ite_self, implies_true]; done)
    | split
    | intro _
    | (dsimp +zetaHave only))

theorem State.napWake_fixed (s : State) : (State.napWake s).fixed = s.fixed := by
  unfold State.napWake
  repeat' (first
    | with_reducible rfl
    | (simp +zetaHave only [State.fixed_mk, State.fixed_eta, apply_ite State.fixed, apply_ite Prod.fst, ite_self, implies_true,
        State.foldl_fixed, State.foldl_fst_fixed, State.openGate_fixed, State.setPower_fixed]; done)
    | split
    | intro _
    | (dsimp +zetaHave only)
    | refine (State.foldl_fixed _ _ _ ?_).trans ?_
    | refine (State.foldl_fst_fixed _ _ _ ?_).trans ?_)

theorem State.latchWake_fixed (s : State) (src : Nat) (arg : Nat) (req : Option HeldReq) : (State.latchWake s src arg req).fixed = s.fixed := by
  unfold State.latchWake
  repeat' (first
    | with_reducible rfl
    | (simp +zetaHave only [State.fixed_mk, State.fixed_eta, apply_ite State.fixed, apply_ite Prod.fst, ite_self, implies_true]; done)
    | split
    | intro _
    | (dsimp +zetaHave only))

theorem State.wake_fixed (s : State) (src : Nat) (arg : Nat) (req : Option HeldReq) : (State.wake s src arg req).fixed = s.fixed := by
  unfold State.wake
  repeat' (first
    | with_reducible rfl
    | (simp +zetaHave only [State.fixed_mk, State.fixed_eta, apply_ite State.fixed, apply_ite Prod.fst, ite_self, implies_true,
        State.setPower_fixed, State.napWake_fixed, State.latchWake_fixed, State.busy_fixed]; done)
    | split
    | intro _
    | (dsimp +zetaHave only))

theorem State.atCyc_fixed (s : State) (c : Nat) : (State.atCyc s c).fixed = s.fixed := by
  unfold State.atCyc
  repeat' (first
    | with_reducible rfl
    | (simp +zetaHave only [State.fixed_mk, State.fixed_eta, apply_ite State.fixed, apply_ite Prod.fst, ite_self, implies_true]; done)
    | split
    | intro _
    | (dsimp +zetaHave only))

theorem State.flagInterval_fixed (s : State) (i : Int) : (State.flagInterval s i).fixed = s.fixed := by
  unfold State.flagInterval
  repeat' (first
    | with_reducible rfl
    | (simp +zetaHave only [State.fixed_mk, State.fixed_eta, apply_ite State.fixed, apply_ite Prod.fst, ite_self, implies_true]; done)
    | split
    | intro _
    | (dsimp +zetaHave only))

theorem State.setPort_fixed (s : State) (p : Nat) (v : Port) : (State.setPort s p v).fixed = s.fixed := by
  unfold State.setPort
  repeat' (first
    | with_reducible rfl
    | (simp +zetaHave only [State.fixed_mk, State.fixed_eta, apply_ite State.fixed, apply_ite Prod.fst, ite_self, implies_true]; done)
    | split
    | intro _
    | (dsimp +zetaHave only))

theorem State.modPort_fixed (s : State) (p : Nat) (f : Port → Port) : (State.modPort s p f).fixed = s.fixed := by
  unfold State.modPort
  repeat' (first
    | with_reducible rfl
    | (simp +zetaHave only [State.fixed_mk, State.fixed_eta, apply_ite State.fixed, apply_ite Prod.fst, ite_self, implies_true,
        State.setPort_fixed]; done)
    | split
    | intro _
    | (dsimp +zetaHave only))

theorem State.setServo_fixed (s : State) (d : Dom) (v : Servo) : (State.setServo s d v).fixed = s.fixed := by
  unfold State.setServo
  repeat' (first
    | with_reducible rfl
    | (simp +zetaHave only [State.fixed_mk, State.fixed_eta, apply_ite State.fixed, apply_ite Prod.fst, ite_self, implies_true]; done)
    | split
    | intro _
    | (dsimp +zetaHave only))

theorem State.modServo_fixed (s : State) (d : Dom) (f : Servo → Servo) : (State.modServo s d f).fixed = s.fixed := by
  unfold State.modServo
  repeat' (first
    | with_reducible rfl
    | (simp +zetaHave only [State.fixed_mk, State.fixed_eta, apply_ite State.fixed, apply_ite Prod.fst, ite_self, implies_true,
        State.setServo_fixed]; done)
    | split
    | intro _
    | (dsimp +zetaHave only))

theorem State.memRead_fixed (s : State) (use : MemUse) (addr : Nat) (beats : Nat) : (State.memRead s use addr beats).fixed = s.fixed := by
  unfold State.memRead
  repeat' (first
    | with_reducible rfl
    | (simp +zetaHave only [State.fixed_mk, State.fixed_eta, apply_ite State.fixed, apply_ite Prod.fst, ite_self, implies_true,
        State.openGate_fixed]; done)
    | split
    | intro _
    | (dsimp +zetaHave only))

theorem State.memWrite_fixed (s : State) (use : MemUse) (addr : Nat) (bytes : List Nat) : (State.memWrite s use addr bytes).fixed = s.fixed := by
  unfold State.memWrite
  repeat' (first
    | with_reducible rfl
    | (simp +zetaHave only [State.fixed_mk, State.fixed_eta, apply_ite State.fixed, apply_ite Prod.fst, ite_self, implies_true,
        State.openGate_fixed]; done)
    | split
    | intro _
    | (dsimp +zetaHave only))

theorem State.memPump_fixed (s : State) : (State.memPump s).fixed = s.fixed := by
  unfold State.memPump
  repeat' (first
    | with_reducible rfl
    | (simp +zetaHave only [State.fixed_mk, State.fixed_eta, apply_ite State.fixed, apply_ite Prod.fst, ite_self, implies_true,
        State.memRead_fixed, State.memWrite_fixed]; done)
    | split
    | intro _
    | (dsimp +zetaHave only))

end Sys2Proof.Machine
end

