-- ==== Sys2Proof/Laws/FramePulse.lean ====
section
/-! SUPPORT. Sys2Proof/Laws/FramePulse.lean: no operation of Machine/Pulse.lean touches the queue, the tie-offs or the start
phase of the block. -/

set_option linter.all false
set_option Elab.async false

namespace Sys2Proof.Machine
open Sys2Proof.Config
set_option linter.unusedSimpArgs false

theorem State.setPulse_fixed (s : State) (n : Nat) (v : PulseOut) : (State.setPulse s n v).fixed = s.fixed := by
  unfold State.setPulse
  repeat' (first
    | with_reducible rfl
    | (simp +zetaHave only [State.fixed_mk, State.fixed_eta, apply_ite State.fixed, apply_ite Prod.fst, ite_self, implies_true]; done)
    | split
    | intro _
    | (dsimp +zetaHave only))

theorem State.modPulse_fixed (s : State) (n : Nat) (f : PulseOut → PulseOut) : (State.modPulse s n f).fixed = s.fixed := by
  unfold State.modPulse
  repeat' (first
    | with_reducible rfl
    | (simp +zetaHave only [State.fixed_mk, State.fixed_eta, apply_ite State.fixed, apply_ite Prod.fst, ite_self, implies_true,
        State.setPulse_fixed]; done)
    | split
    | intro _
    | (dsimp +zetaHave only))

theorem State.pulseAdvance_fixed (s : State) (n : Nat) (k : Nat) : (State.pulseAdvance s n k).fixed = s.fixed := by
  unfold State.pulseAdvance
  repeat' (first
    | with_reducible rfl
    | (simp +zetaHave only [State.fixed_mk, State.fixed_eta, apply_ite State.fixed, apply_ite Prod.fst, ite_self, implies_true,
        State.wr_fixed]; done)
    | split
    | intro _
    | (dsimp +zetaHave only))

theorem State.pulseCatchUp_fixed (s : State) (n : Nat) (c : Nat) : (State.pulseCatchUp s n c).fixed = s.fixed := by
  unfold State.pulseCatchUp
  repeat' (first
    | with_reducible rfl
    | (simp +zetaHave only [State.fixed_mk, State.fixed_eta, apply_ite State.fixed, apply_ite Prod.fst, ite_self, implies_true,
        State.pulseAdvance_fixed]; done)
    | split
    | intro _
    | (dsimp +zetaHave only))

theorem State.dropPulse_fixed (s : State) (k : Nat) : (State.dropPulse s k).fixed = s.fixed := by
  unfold State.dropPulse
  repeat' (first
    | with_reducible rfl
    | (simp +zetaHave only [State.fixed_mk, State.fixed_eta, apply_ite State.fixed, apply_ite Prod.fst, ite_self, implies_true,
        State.count_fixed, State.raise_fixed]; done)
    | split
    | intro _
    | (dsimp +zetaHave only))

theorem State.addPulse_fixed (s : State) (n : Nat) (r : PulseReq) (cur : Nat) : (State.addPulse s n r cur).fixed = s.fixed := by
  unfold State.addPulse
  repeat' (first
    | with_reducible rfl
    | (simp +zetaHave only [State.fixed_mk, State.fixed_eta, apply_ite State.fixed, apply_ite Prod.fst, ite_self, implies_true,
        State.modPulse_fixed, State.dropPulse_fixed]; done)
    | split
    | intro _
    | (dsimp +zetaHave only))

theorem State.pulseRise_fixed (s : State) (n : Nat) (target : Int) (width : Nat) : (State.pulseRise s n target width).fixed = s.fixed := by
  unfold State.pulseRise
  repeat' (first
    | with_reducible rfl
    | (simp +zetaHave only [State.fixed_mk, State.fixed_eta, apply_ite State.fixed, apply_ite Prod.fst, ite_self, implies_true,
        State.count_fixed, State.emit_fixed, State.evt_fixed, State.atCyc_fixed, State.modPulse_fixed]; done)
    | split
    | intro _
    | (dsimp +zetaHave only))

theorem State.periodicNext_fixed (s : State) (n : Nat) : (State.periodicNext s n).fixed = s.fixed := by
  unfold State.periodicNext
  repeat' (first
    | with_reducible rfl
    | (simp +zetaHave only [State.fixed_mk, State.fixed_eta, apply_ite State.fixed, apply_ite Prod.fst, ite_self, implies_true,
        State.wr_fixed, State.wrFld_fixed, State.pulseAdvance_fixed]; done)
    | split
    | intro _
    | (dsimp +zetaHave only))

theorem State.pulseEmit_fixed (s : State) (n : Nat) : (State.pulseEmit s n).fixed = s.fixed := by
  unfold State.pulseEmit
  repeat' (first
    | with_reducible rfl
    | (simp +zetaHave only [State.fixed_mk, State.fixed_eta, apply_ite State.fixed, apply_ite Prod.fst, ite_self, implies_true,
        State.modPulse_fixed, State.pulseAdvance_fixed, State.dropPulse_fixed, State.pulseRise_fixed,
        State.periodicNext_fixed]; done)
    | split
    | intro _
    | (dsimp +zetaHave only))

theorem State.pulsesLeft_fixed (s : State) : (State.pulsesLeft s).fixed = s.fixed := by
  unfold State.pulsesLeft
  repeat' (first
    | with_reducible rfl
    | (simp +zetaHave only [State.fixed_mk, State.fixed_eta, apply_ite State.fixed, apply_ite Prod.fst, ite_self, implies_true,
        State.each_fixed, State.pulseEmit_fixed]; done)
    | split
    | intro _
    | (dsimp +zetaHave only)
    | refine (State.each_fixed _ _ _ ?_).trans ?_)

theorem State.pulseCalDone_fixed (s : State) (n : Nat) : (State.pulseCalDone s n).fixed = s.fixed := by
  unfold State.pulseCalDone
  repeat' (first
    | with_reducible rfl
    | (simp +zetaHave only [State.fixed_mk, State.fixed_eta, apply_ite State.fixed, apply_ite Prod.fst, ite_self, implies_true,
        State.drawFree_fixed, State.setPulse_fixed]; done)
    | split
    | intro _
    | (dsimp +zetaHave only))

theorem State.pulseCalTick_fixed (s : State) (n : Nat) : (State.pulseCalTick s n).fixed = s.fixed := by
  unfold State.pulseCalTick
  repeat' (first
    | with_reducible rfl
    | (simp +zetaHave only [State.fixed_mk, State.fixed_eta, apply_ite State.fixed, apply_ite Prod.fst, ite_self, implies_true,
        State.emit_fixed, State.setPulse_fixed, State.pulseCalDone_fixed]; done)
    | split
    | intro _
    | (dsimp +zetaHave only))

theorem State.pulseFeedback_fixed (s : State) (n : Nat) (t : Int) : (State.pulseFeedback s n t).fixed = s.fixed := by
  unfold State.pulseFeedback
  repeat' (first
    | with_reducible rfl
    | (simp +zetaHave only [State.fixed_mk, State.fixed_eta, apply_ite State.fixed, apply_ite Prod.fst, ite_self, implies_true,
        State.setPulse_fixed]; done)
    | split
    | intro _
    | (dsimp +zetaHave only))

theorem State.dropPending_fixed (s : State) (n : Nat) : (State.dropPending s n).fixed = s.fixed := by
  unfold State.dropPending
  repeat' (first
    | with_reducible rfl
    | (simp +zetaHave only [State.fixed_mk, State.fixed_eta, apply_ite State.fixed, apply_ite Prod.fst, ite_self, implies_true,
        State.modPulse_fixed, State.dropPulse_fixed]; done)
    | split
    | intro _
    | (dsimp +zetaHave only))

theorem State.pulseCfgWrite_fixed (s : State) (n : Nat) (v : Nat) : (State.pulseCfgWrite s n v).fixed = s.fixed := by
  unfold State.pulseCfgWrite
  repeat' (first
    | with_reducible rfl
    | (simp +zetaHave only [State.fixed_mk, State.fixed_eta, apply_ite State.fixed, apply_ite Prod.fst, ite_self, implies_true,
        State.wr_fixed, State.modPulse_fixed, State.pulseCatchUp_fixed, State.dropPending_fixed]; done)
    | split
    | intro _
    | (dsimp +zetaHave only))

theorem State.pulsesCatchUp_fixed (s : State) : (State.pulsesCatchUp s).fixed = s.fixed := by
  unfold State.pulsesCatchUp
  repeat' (first
    | with_reducible rfl
    | (simp +zetaHave only [State.fixed_mk, State.fixed_eta, apply_ite State.fixed, apply_ite Prod.fst, ite_self, implies_true,
        State.each_fixed, State.pulseCatchUp_fixed]; done)
    | split
    | intro _
    | (dsimp +zetaHave only)
    | refine (State.each_fixed _ _ _ ?_).trans ?_)

theorem State.dropFreeze_fixed (s : State) : (State.dropFreeze s).fixed = s.fixed := by
  unfold State.dropFreeze
  repeat' (first
    | with_reducible rfl
    | (simp +zetaHave only [State.fixed_mk, State.fixed_eta, apply_ite State.fixed, apply_ite Prod.fst, ite_self, implies_true,
        State.count_fixed, State.raise_fixed]; done)
    | split
    | intro _
    | (dsimp +zetaHave only))

theorem State.addFreeze_fixed (s : State) (target : Int) (id : Nat) (src : ArmSrc) (cur : Nat) : (State.addFreeze s target id src cur).fixed = s.fixed := by
  unfold State.addFreeze
  repeat' (first
    | with_reducible rfl
    | (simp +zetaHave only [State.fixed_mk, State.fixed_eta, apply_ite State.fixed, apply_ite Prod.fst, ite_self, implies_true,
        State.dropFreeze_fixed]; done)
    | split
    | intro _
    | (dsimp +zetaHave only))

theorem State.freezeEmit_fixed (s : State) : (State.freezeEmit s).fixed = s.fixed := by
  unfold State.freezeEmit
  repeat' (first
    | with_reducible rfl
    | (simp +zetaHave only [State.fixed_mk, State.fixed_eta, apply_ite State.fixed, apply_ite Prod.fst, ite_self, implies_true,
        State.evt_fixed, State.atCyc_fixed, State.dropFreeze_fixed]; done)
    | split
    | intro _
    | (dsimp +zetaHave only))

theorem State.freezesLeft_fixed (s : State) : (State.freezesLeft s).fixed = s.fixed := by
  unfold State.freezesLeft
  repeat' (first
    | with_reducible rfl
    | (simp +zetaHave only [State.fixed_mk, State.fixed_eta, apply_ite State.fixed, apply_ite Prod.fst, ite_self, implies_true,
        State.each_fixed, State.freezeEmit_fixed]; done)
    | split
    | intro _
    | (dsimp +zetaHave only)
    | refine (State.each_fixed _ _ _ ?_).trans ?_)

theorem State.freezesDropped_fixed (s : State) : (State.freezesDropped s).fixed = s.fixed := by
  unfold State.freezesDropped
  repeat' (first
    | with_reducible rfl
    | (simp +zetaHave only [State.fixed_mk, State.fixed_eta, apply_ite State.fixed, apply_ite Prod.fst, ite_self, implies_true,
        State.count_fixed]; done)
    | split
    | intro _
    | (dsimp +zetaHave only))

theorem State.cancelArmed_fixed (s : State) (src : ArmSrc) : (State.cancelArmed s src).fixed = s.fixed := by
  unfold State.cancelArmed
  repeat' (first
    | with_reducible rfl
    | (simp +zetaHave only [State.fixed_mk, State.fixed_eta, apply_ite State.fixed, apply_ite Prod.fst, ite_self, implies_true,
        State.foldl_fixed, State.foldl_fst_fixed]; done)
    | split
    | intro _
    | (dsimp +zetaHave only)
    | refine (State.foldl_fixed _ _ _ ?_).trans ?_
    | refine (State.foldl_fst_fixed _ _ _ ?_).trans ?_)

theorem State.schedule_fixed (s : State) (e : EventRec) : (State.schedule s e).fixed = s.fixed := by
  unfold State.schedule
  repeat' (first
    | with_reducible rfl
    | (simp +zetaHave only [State.fixed_mk, State.fixed_eta, apply_ite State.fixed, apply_ite Prod.fst, ite_self, implies_true,
        State.each_fixed, State.addPulse_fixed, State.addFreeze_fixed]; done)
    | split
    | intro _
    | (dsimp +zetaHave only)
    | refine (State.each_fixed _ _ _ ?_).trans ?_)

theorem State.cancelEvent_fixed (s : State) (id : Nat) : (State.cancelEvent s id).fixed = s.fixed := by
  unfold State.cancelEvent
  repeat' (first
    | with_reducible rfl
    | (simp +zetaHave only [State.fixed_mk, State.fixed_eta, apply_ite State.fixed, apply_ite Prod.fst, ite_self, implies_true,
        State.cancelArmed_fixed]; done)
    | split
    | intro _
    | (dsimp +zetaHave only))

theorem State.takeEvent_fixed (s : State) (e : EventRec) : (State.takeEvent s e).fixed = s.fixed := by
  unfold State.takeEvent
  repeat' (first
    | with_reducible rfl
    | (simp +zetaHave only [State.fixed_mk, State.fixed_eta, apply_ite State.fixed, apply_ite Prod.fst, ite_self, implies_true,
        State.count_fixed, State.raise_fixed, State.schedule_fixed, State.cancelEvent_fixed]; done)
    | split
    | intro _
    | (dsimp +zetaHave only))

theorem State.expireEvents_fixed (s : State) (nc : Nat) : (State.expireEvents s nc).fixed = s.fixed := by
  unfold State.expireEvents
  repeat' (first
    | with_reducible rfl
    | (simp +zetaHave only [State.fixed_mk, State.fixed_eta, apply_ite State.fixed, apply_ite Prod.fst, ite_self, implies_true]; done)
    | split
    | intro _
    | (dsimp +zetaHave only))

end Sys2Proof.Machine
end

