-- ==== Sys2Proof/Laws/FrameShot.lean ====
section
/-! SUPPORT. Sys2Proof/Laws/FrameShot.lean: no operation of Machine/Shot.lean touches the queue, the tie-offs or the start
phase of the block. -/

set_option linter.all false
set_option Elab.async false

namespace Sys2Proof.Machine
open Sys2Proof.Config
set_option linter.unusedSimpArgs false

theorem State.pushRaw_fixed (s : State) (r : StampRec) : (State.pushRaw s r).fixed = s.fixed := by
  unfold State.pushRaw
  repeat' (first
    | with_reducible rfl
    | (simp +zetaHave only [State.fixed_mk, State.fixed_eta, apply_ite State.fixed, apply_ite Prod.fst, ite_self, implies_true,
        State.count_fixed]; done)
    | split
    | intro _
    | (dsimp +zetaHave only))

theorem State.endShot_fixed (s : State) (sh : Shot) (t : Int) : (State.endShot s sh t).fixed = s.fixed := by
  unfold State.endShot
  repeat' (first
    | with_reducible rfl
    | (simp +zetaHave only [State.fixed_mk, State.fixed_eta, apply_ite State.fixed, apply_ite Prod.fst, ite_self, implies_true,
        State.foldl_fixed, State.foldl_fst_fixed, State.raiseIf_fixed, State.pushRaw_fixed]; done)
    | split
    | intro _
    | (dsimp +zetaHave only)
    | refine (State.foldl_fixed _ _ _ ?_).trans ?_
    | refine (State.foldl_fst_fixed _ _ _ ?_).trans ?_)

theorem State.putShot_fixed (s : State) (sh : Shot) (t : Int) : (State.putShot s sh t).fixed = s.fixed := by
  unfold State.putShot
  repeat' (first
    | with_reducible rfl
    | (simp +zetaHave only [State.fixed_mk, State.fixed_eta, apply_ite State.fixed, apply_ite Prod.fst, ite_self, implies_true,
        State.endShot_fixed]; done)
    | split
    | intro _
    | (dsimp +zetaHave only))

theorem State.closeWindows_fixed (s : State) (t : Int) : (State.closeWindows s t).fixed = s.fixed := by
  unfold State.closeWindows
  repeat' (first
    | with_reducible rfl
    | (simp +zetaHave only [State.fixed_mk, State.fixed_eta, apply_ite State.fixed, apply_ite Prod.fst, ite_self, implies_true,
        State.foldl_fixed, State.foldl_fst_fixed, State.putShot_fixed]; done)
    | split
    | intro _
    | (dsimp +zetaHave only)
    | refine (State.foldl_fixed _ _ _ ?_).trans ?_
    | refine (State.foldl_fst_fixed _ _ _ ?_).trans ?_)

theorem State.openShot_fixed (s : State) (src : Nat) (t : Int) (same : List PastEdge) : (State.openShot s src t same).fixed = s.fixed := by
  unfold State.openShot
  repeat' (first
    | with_reducible rfl
    | (simp +zetaHave only [State.fixed_mk, State.fixed_eta, apply_ite State.fixed, apply_ite Prod.fst, ite_self, implies_true,
        State.foldl_fixed, State.foldl_fst_fixed, State.putShot_fixed]; done)
    | split
    | intro _
    | (dsimp +zetaHave only)
    | refine (State.foldl_fixed _ _ _ ?_).trans ?_
    | refine (State.foldl_fst_fixed _ _ _ ?_).trans ?_)

theorem State.remember_fixed (s : State) (e : PastEdge) : (State.remember s e).fixed = s.fixed := by
  unfold State.remember
  repeat' (first
    | with_reducible rfl
    | (simp +zetaHave only [State.fixed_mk, State.fixed_eta, apply_ite State.fixed, apply_ite Prod.fst, ite_self, implies_true]; done)
    | split
    | intro _
    | (dsimp +zetaHave only))

theorem State.shotFeed_fixed (s : State) (src : Nat) (falling : Bool) (t : Int) (timed : Bool) : (State.shotFeed s src falling t timed).fixed = s.fixed := by
  unfold State.shotFeed
  repeat' (first
    | with_reducible rfl
    | (simp +zetaHave only [State.fixed_mk, State.fixed_eta, apply_ite State.fixed, apply_ite Prod.fst, ite_self, implies_true,
        State.count_fixed, State.putShot_fixed, State.closeWindows_fixed, State.openShot_fixed, State.remember_fixed]; done)
    | split
    | intro _
    | (dsimp +zetaHave only))

theorem State.clocksUpTo_fixed (s : State) (t : Int) : (State.clocksUpTo s t).fixed = s.fixed := by
  unfold State.clocksUpTo
  repeat' (first
    | with_reducible rfl
    | (simp +zetaHave only [State.fixed_mk, State.fixed_eta, apply_ite State.fixed, apply_ite Prod.fst, ite_self, implies_true,
        State.foldl_fixed, State.foldl_fst_fixed, State.shotFeed_fixed]; done)
    | split
    | intro _
    | (dsimp +zetaHave only)
    | refine (State.foldl_fixed _ _ _ ?_).trans ?_
    | refine (State.foldl_fst_fixed _ _ _ ?_).trans ?_)

theorem State.shotEdge_fixed (s : State) (src : Nat) (falling : Bool) (t : Int) (timed : Bool) : (State.shotEdge s src falling t timed).fixed = s.fixed := by
  unfold State.shotEdge
  repeat' (first
    | with_reducible rfl
    | (simp +zetaHave only [State.fixed_mk, State.fixed_eta, apply_ite State.fixed, apply_ite Prod.fst, ite_self, implies_true,
        State.count_fixed, State.putShot_fixed, State.closeWindows_fixed, State.openShot_fixed, State.shotFeed_fixed,
        State.clocksUpTo_fixed]; done)
    | split
    | intro _
    | (dsimp +zetaHave only))

theorem State.shotTime_fixed (s : State) (t : Int) : (State.shotTime s t).fixed = s.fixed := by
  unfold State.shotTime
  repeat' (first
    | with_reducible rfl
    | (simp +zetaHave only [State.fixed_mk, State.fixed_eta, apply_ite State.fixed, apply_ite Prod.fst, ite_self, implies_true,
        State.closeWindows_fixed, State.clocksUpTo_fixed]; done)
    | split
    | intro _
    | (dsimp +zetaHave only))

theorem State.portMark_fixed (s : State) (src : Nat) (p : Nat) (t : Int) (timed : Bool) : (State.portMark s src p t timed).fixed = s.fixed := by
  unfold State.portMark
  repeat' (first
    | with_reducible rfl
    | (simp +zetaHave only [State.fixed_mk, State.fixed_eta, apply_ite State.fixed, apply_ite Prod.fst, ite_self, implies_true,
        State.shotEdge_fixed]; done)
    | split
    | intro _
    | (dsimp +zetaHave only))

theorem State.stepShot_fixed (s : State) : (State.stepShot s).fixed = s.fixed := by
  unfold State.stepShot
  repeat' (first
    | with_reducible rfl
    | (simp +zetaHave only [State.fixed_mk, State.fixed_eta, apply_ite State.fixed, apply_ite Prod.fst, ite_self, implies_true,
        State.count_fixed]; done)
    | split
    | intro _
    | (dsimp +zetaHave only))

theorem State.abortShots_fixed (s : State) (reason : Nat) : (State.abortShots s reason).fixed = s.fixed := by
  unfold State.abortShots
  repeat' (first
    | with_reducible rfl
    | (simp +zetaHave only [State.fixed_mk, State.fixed_eta, apply_ite State.fixed, apply_ite Prod.fst, ite_self, implies_true]; done)
    | split
    | intro _
    | (dsimp +zetaHave only))

end Sys2Proof.Machine
end

