-- ==== Sys2Proof/Laws/FramePort.lean ====
section
/-! SUPPORT. Sys2Proof/Laws/FramePort.lean: no operation of Machine/Port.lean touches the queue, the tie-offs or the start
phase of the block. -/

set_option linter.all false
set_option Elab.async false

namespace Sys2Proof.Machine
open Sys2Proof.Config
set_option linter.unusedSimpArgs false

theorem State.scoreEvent_fixed (s : State) (p : Nat) (w : Nat) : (State.scoreEvent s p w).fixed = s.fixed := by
  unfold State.scoreEvent
  repeat' (first
    | with_reducible rfl
    | (simp +zetaHave only [State.fixed_mk, State.fixed_eta, apply_ite State.fixed, apply_ite Prod.fst, ite_self, implies_true,
        State.openGate_fixed, State.setPort_fixed]; done)
    | split
    | intro _
    | (dsimp +zetaHave only))

theorem State.scorePar_fixed (s : State) (p : Nat) (words : Nat) : (State.scorePar s p words).fixed = s.fixed := by
  unfold State.scorePar
  repeat' (first
    | with_reducible rfl
    | (simp +zetaHave only [State.fixed_mk, State.fixed_eta, apply_ite State.fixed, apply_ite Prod.fst, ite_self, implies_true,
        State.scoreEvent_fixed]; done)
    | split
    | intro _
    | (dsimp +zetaHave only))

theorem State.scoreFcs_fixed (s : State) (p : Nat) : (State.scoreFcs s p).fixed = s.fixed := by
  unfold State.scoreFcs
  repeat' (first
    | with_reducible rfl
    | (simp +zetaHave only [State.fixed_mk, State.fixed_eta, apply_ite State.fixed, apply_ite Prod.fst, ite_self, implies_true,
        State.scoreEvent_fixed]; done)
    | split
    | intro _
    | (dsimp +zetaHave only))

theorem State.scoreFlap_fixed (s : State) (p : Nat) : (State.scoreFlap s p).fixed = s.fixed := by
  unfold State.scoreFlap
  repeat' (first
    | with_reducible rfl
    | (simp +zetaHave only [State.fixed_mk, State.fixed_eta, apply_ite State.fixed, apply_ite Prod.fst, ite_self, implies_true,
        State.scoreEvent_fixed]; done)
    | split
    | intro _
    | (dsimp +zetaHave only))

theorem State.scoreRfail_fixed (s : State) (p : Nat) : (State.scoreRfail s p).fixed = s.fixed := by
  unfold State.scoreRfail
  repeat' (first
    | with_reducible rfl
    | (simp +zetaHave only [State.fixed_mk, State.fixed_eta, apply_ite State.fixed, apply_ite Prod.fst, ite_self, implies_true,
        State.scoreEvent_fixed]; done)
    | split
    | intro _
    | (dsimp +zetaHave only))

theorem State.logRecord_fixed (s : State) (r : StampRec) : (State.logRecord s r).fixed = s.fixed := by
  unfold State.logRecord
  repeat' (first
    | with_reducible rfl
    | (simp +zetaHave only [State.fixed_mk, State.fixed_eta, apply_ite State.fixed, apply_ite Prod.fst, ite_self, implies_true,
        State.count_fixed, State.raiseIf_fixed, State.memWrite_fixed]; done)
    | split
    | intro _
    | (dsimp +zetaHave only))

theorem State.stampRecord_fixed (s : State) (p : Nat) (tx : Bool) (proto : Bool) (seq : Nat) (mtype : Nat) (express : Bool) (miss : Bool) (late : Bool) (t : Option Int) (cgen : Nat) : (State.stampRecord s p tx proto seq mtype express miss late t cgen).fixed = s.fixed := by
  unfold State.stampRecord
  repeat' (first
    | with_reducible rfl
    | (simp +zetaHave only [State.fixed_mk, State.fixed_eta, apply_ite State.fixed, apply_ite Prod.fst, ite_self, implies_true,
        State.count_fixed, State.drawFree_fixed, State.setPort_fixed, State.logRecord_fixed, State.modPort_fixed]; done)
    | split
    | intro _
    | (dsimp +zetaHave only))

theorem State.popStamp_fixed (s : State) (m : Master) (p : Nat) : (State.popStamp s m p).fixed = s.fixed := by
  unfold State.popStamp
  repeat' (first
    | with_reducible rfl
    | (simp +zetaHave only [State.fixed_mk, State.fixed_eta, apply_ite State.fixed, apply_ite Prod.fst, ite_self, implies_true,
        State.setPort_fixed]; done)
    | split
    | intro _
    | (dsimp +zetaHave only))

theorem State.xsend_fixed (s : State) (p : Nat) (b : Body) : (State.xsend s p b).fixed = s.fixed := by
  unfold State.xsend
  repeat' (first
    | with_reducible rfl
    | (simp +zetaHave only [State.fixed_mk, State.fixed_eta, apply_ite State.fixed, apply_ite Prod.fst, ite_self, implies_true,
        State.count_fixed, State.openGate_fixed, State.setPort_fixed]; done)
    | split
    | intro _
    | (dsimp +zetaHave only))

theorem State.xsendAll_fixed (s : State) (ps : List Nat) (b : Body) : (State.xsendAll s ps b).fixed = s.fixed := by
  unfold State.xsendAll
  repeat' (first
    | with_reducible rfl
    | (simp +zetaHave only [State.fixed_mk, State.fixed_eta, apply_ite State.fixed, apply_ite Prod.fst, ite_self, implies_true,
        State.each_fixed, State.xsend_fixed]; done)
    | split
    | intro _
    | (dsimp +zetaHave only)
    | refine (State.each_fixed _ _ _ ?_).trans ?_)

theorem State.refillX_fixed (s : State) (p : Nat) : (State.refillX s p).fixed = s.fixed := by
  unfold State.refillX
  repeat' (first
    | with_reducible rfl
    | (simp +zetaHave only [State.fixed_mk, State.fixed_eta, apply_ite State.fixed, apply_ite Prod.fst, ite_self, implies_true,
        State.setPort_fixed]; done)
    | split
    | intro _
    | (dsimp +zetaHave only))

theorem State.refillC_fixed (s : State) (p : Nat) : (State.refillC s p).fixed = s.fixed := by
  unfold State.refillC
  repeat' (first
    | with_reducible rfl
    | (simp +zetaHave only [State.fixed_mk, State.fixed_eta, apply_ite State.fixed, apply_ite Prod.fst, ite_self, implies_true,
        State.setPort_fixed]; done)
    | split
    | intro _
    | (dsimp +zetaHave only))

theorem State.refill_fixed (s : State) (p : Nat) : (State.refill s p).fixed = s.fixed := by
  unfold State.refill
  repeat' (first
    | with_reducible rfl
    | (simp +zetaHave only [State.fixed_mk, State.fixed_eta, apply_ite State.fixed, apply_ite Prod.fst, ite_self, implies_true,
        State.each_fixed, State.refillX_fixed, State.refillC_fixed]; done)
    | split
    | intro _
    | (dsimp +zetaHave only)
    | refine (State.each_fixed _ _ _ ?_).trans ?_)

theorem State.flushPort_fixed (s : State) (p : Nat) : (State.flushPort s p).fixed = s.fixed := by
  unfold State.flushPort
  repeat' (first
    | with_reducible rfl
    | (simp +zetaHave only [State.fixed_mk, State.fixed_eta, apply_ite State.fixed, apply_ite Prod.fst, ite_self, implies_true,
        State.count_fixed, State.setPort_fixed]; done)
    | split
    | intro _
    | (dsimp +zetaHave only))

theorem State.flushCT_fixed (s : State) (p : Nat) : (State.flushCT s p).fixed = s.fixed := by
  unfold State.flushCT
  repeat' (first
    | with_reducible rfl
    | (simp +zetaHave only [State.fixed_mk, State.fixed_eta, apply_ite State.fixed, apply_ite Prod.fst, ite_self, implies_true,
        State.count_fixed, State.setPort_fixed]; done)
    | split
    | intro _
    | (dsimp +zetaHave only))

theorem State.dropExch_fixed (s : State) (p : Nat) : (State.dropExch s p).fixed = s.fixed := by
  unfold State.dropExch
  repeat' (first
    | with_reducible rfl
    | (simp +zetaHave only [State.fixed_mk, State.fixed_eta, apply_ite State.fixed, apply_ite Prod.fst, ite_self, implies_true,
        State.count_fixed, State.setPort_fixed]; done)
    | split
    | intro _
    | (dsimp +zetaHave only))

theorem State.restartLink_fixed (s : State) (p : Nat) : (State.restartLink s p).fixed = s.fixed := by
  unfold State.restartLink
  repeat' (first
    | with_reducible rfl
    | (simp +zetaHave only [State.fixed_mk, State.fixed_eta, apply_ite State.fixed, apply_ite Prod.fst, ite_self, implies_true,
        State.modPort_fixed]; done)
    | split
    | intro _
    | (dsimp +zetaHave only))

theorem State.takeAck_fixed (s : State) (p : Nat) (lack : Nat) : (State.takeAck s p lack).fixed = s.fixed := by
  unfold State.takeAck
  repeat' (first
    | with_reducible rfl
    | (simp +zetaHave only [State.fixed_mk, State.fixed_eta, apply_ite State.fixed, apply_ite Prod.fst, ite_self, implies_true,
        State.setPort_fixed, State.refill_fixed]; done)
    | split
    | intro _
    | (dsimp +zetaHave only))

theorem State.attemptFails_fixed (s : State) (p : Nat) : (State.attemptFails s p).fixed = s.fixed := by
  unfold State.attemptFails
  repeat' (first
    | with_reducible rfl
    | (simp +zetaHave only [State.fixed_mk, State.fixed_eta, apply_ite State.fixed, apply_ite Prod.fst, ite_self, implies_true,
        State.count_fixed, State.evt_fixed, State.modPort_fixed, State.scoreRfail_fixed]; done)
    | split
    | intro _
    | (dsimp +zetaHave only))

theorem State.startAttempt_fixed (s : State) (p : Nat) (n : Nat) (t : Nat) : (State.startAttempt s p n t).fixed = s.fixed := by
  unfold State.startAttempt
  repeat' (first
    | with_reducible rfl
    | (simp +zetaHave only [State.fixed_mk, State.fixed_eta, apply_ite State.fixed, apply_ite Prod.fst, ite_self, implies_true,
        State.count_fixed, State.evt_fixed, State.setPort_fixed]; done)
    | split
    | intro _
    | (dsimp +zetaHave only))

theorem State.takeNak_fixed (s : State) (p : Nat) (n : Nat) : (State.takeNak s p n).fixed = s.fixed := by
  unfold State.takeNak
  repeat' (first
    | with_reducible rfl
    | (simp +zetaHave only [State.fixed_mk, State.fixed_eta, apply_ite State.fixed, apply_ite Prod.fst, ite_self, implies_true,
        State.takeAck_fixed, State.attemptFails_fixed, State.startAttempt_fixed]; done)
    | split
    | intro _
    | (dsimp +zetaHave only))

theorem State.replayTimeout_fixed (s : State) (p : Nat) (t : Nat) : (State.replayTimeout s p t).fixed = s.fixed := by
  unfold State.replayTimeout
  repeat' (first
    | with_reducible rfl
    | (simp +zetaHave only [State.fixed_mk, State.fixed_eta, apply_ite State.fixed, apply_ite Prod.fst, ite_self, implies_true,
        State.attemptFails_fixed, State.startAttempt_fixed]; done)
    | split
    | intro _
    | (dsimp +zetaHave only))

theorem State.fillBuckets_fixed (s : State) (p : Nat) : (State.fillBuckets s p).fixed = s.fixed := by
  unfold State.fillBuckets
  repeat' (first
    | with_reducible rfl
    | (simp +zetaHave only [State.fixed_mk, State.fixed_eta, apply_ite State.fixed, apply_ite Prod.fst, ite_self, implies_true,
        State.setPort_fixed]; done)
    | split
    | intro _
    | (dsimp +zetaHave only))

theorem State.fillAll_fixed (s : State) : (State.fillAll s).fixed = s.fixed := by
  unfold State.fillAll
  repeat' (first
    | with_reducible rfl
    | (simp +zetaHave only [State.fixed_mk, State.fixed_eta, apply_ite State.fixed, apply_ite Prod.fst, ite_self, implies_true,
        State.each_fixed, State.fillBuckets_fixed]; done)
    | split
    | intro _
    | (dsimp +zetaHave only)
    | refine (State.each_fixed _ _ _ ?_).trans ?_)

theorem State.skipFill_fixed (s : State) : (State.skipFill s).fixed = s.fixed := by
  unfold State.skipFill
  repeat' (first
    | with_reducible rfl
    | (simp +zetaHave only [State.fixed_mk, State.fixed_eta, apply_ite State.fixed, apply_ite Prod.fst, ite_self, implies_true,
        State.each_fixed, State.modPort_fixed]; done)
    | split
    | intro _
    | (dsimp +zetaHave only)
    | refine (State.each_fixed _ _ _ ?_).trans ?_)

theorem State.dropTooLong_fixed (s : State) (p : Nat) : (State.dropTooLong s p).fixed = s.fixed := by
  unfold State.dropTooLong
  repeat' (first
    | with_reducible rfl
    | (simp +zetaHave only [State.fixed_mk, State.fixed_eta, apply_ite State.fixed, apply_ite Prod.fst, ite_self, implies_true,
        State.count_fixed, State.setPort_fixed]; done)
    | split
    | intro _
    | (dsimp +zetaHave only))

theorem State.handOver_fixed (s : State) (p : Nat) (q : QFrame) : (State.handOver s p q).fixed = s.fixed := by
  unfold State.handOver
  repeat' (first
    | with_reducible rfl
    | (simp +zetaHave only [State.fixed_mk, State.fixed_eta, apply_ite State.fixed, apply_ite Prod.fst, ite_self, implies_true,
        State.count_fixed, State.emit_fixed, State.evt_fixed, State.setPort_fixed]; done)
    | split
    | intro _
    | (dsimp +zetaHave only))

theorem State.windowWait_fixed (s : State) (p : Nat) : (State.windowWait s p).fixed = s.fixed := by
  unfold State.windowWait
  repeat' (first
    | with_reducible rfl
    | (simp +zetaHave only [State.fixed_mk, State.fixed_eta, apply_ite State.fixed, apply_ite Prod.fst, ite_self, implies_true,
        State.count_fixed, State.setPort_fixed]; done)
    | split
    | intro _
    | (dsimp +zetaHave only))

theorem State.windowWaits_fixed (s : State) : (State.windowWaits s).fixed = s.fixed := by
  unfold State.windowWaits
  repeat' (first
    | with_reducible rfl
    | (simp +zetaHave only [State.fixed_mk, State.fixed_eta, apply_ite State.fixed, apply_ite Prod.fst, ite_self, implies_true,
        State.each_fixed, State.atCyc_fixed, State.windowWait_fixed]; done)
    | split
    | intro _
    | (dsimp +zetaHave only)
    | refine (State.each_fixed _ _ _ ?_).trans ?_)

theorem State.handoverT_fixed (s : State) (p : Nat) : (State.handoverT s p).fixed = s.fixed := by
  unfold State.handoverT
  repeat' (first
    | with_reducible rfl
    | (simp +zetaHave only [State.fixed_mk, State.fixed_eta, apply_ite State.fixed, apply_ite Prod.fst, ite_self, implies_true,
        State.count_fixed, State.setPort_fixed, State.handOver_fixed, State.windowWait_fixed]; done)
    | split
    | intro _
    | (dsimp +zetaHave only))

theorem State.handoverCT_fixed (s : State) (p : Nat) : (State.handoverCT s p).fixed = s.fixed := by
  unfold State.handoverCT
  repeat' (first
    | with_reducible rfl
    | (simp +zetaHave only [State.fixed_mk, State.fixed_eta, apply_ite State.fixed, apply_ite Prod.fst, ite_self, implies_true,
        State.setPort_fixed, State.handOver_fixed, State.handoverT_fixed]; done)
    | split
    | intro _
    | (dsimp +zetaHave only))

theorem State.dropMismatched_fixed (s : State) (p : Nat) : (State.dropMismatched s p).fixed = s.fixed := by
  unfold State.dropMismatched
  repeat' (first
    | with_reducible rfl
    | (simp +zetaHave only [State.fixed_mk, State.fixed_eta, apply_ite State.fixed, apply_ite Prod.fst, ite_self, implies_true,
        State.count_fixed, State.setPort_fixed]; done)
    | split
    | intro _
    | (dsimp +zetaHave only))

theorem State.handover_fixed (s : State) (p : Nat) : (State.handover s p).fixed = s.fixed := by
  unfold State.handover
  repeat' (first
    | with_reducible rfl
    | (simp +zetaHave only [State.fixed_mk, State.fixed_eta, apply_ite State.fixed, apply_ite Prod.fst, ite_self, implies_true,
        State.setPort_fixed, State.fillBuckets_fixed, State.dropTooLong_fixed, State.handOver_fixed,
        State.refillX_fixed, State.handoverCT_fixed, State.refill_fixed, State.dropMismatched_fixed]; done)
    | split
    | intro _
    | (dsimp +zetaHave only))

end Sys2Proof.Machine
end

