-- ==== Sys2Proof/Laws/FrameRx.lean ====
section
/-! SUPPORT. Sys2Proof/Laws/FrameRx.lean: no operation of Machine/Rx.lean touches the queue, the tie-offs or the start
phase of the block. -/

set_option linter.all false
set_option Elab.async false

namespace Sys2Proof.Machine
open Sys2Proof.Config
set_option linter.unusedSimpArgs false

theorem State.openGap_fixed (s : State) (p : Nat) (scored : Bool) : (State.openGap s p scored).fixed = s.fixed := by
  unfold State.openGap
  repeat' (first
    | with_reducible rfl
    | (simp +zetaHave only [State.fixed_mk, State.fixed_eta, apply_ite State.fixed, apply_ite Prod.fst, ite_self, implies_true,
        State.count_fixed, State.evt_fixed, State.setPort_fixed, State.scoreFcs_fixed, State.xsend_fixed]; done)
    | split
    | intro _
    | (dsimp +zetaHave only))

theorem State.heldGone_fixed (s : State) (p : Nat) (mark : Nat) : (State.heldGone s p mark).fixed = s.fixed := by
  unfold State.heldGone
  repeat' (first
    | with_reducible rfl
    | (simp +zetaHave only [State.fixed_mk, State.fixed_eta, apply_ite State.fixed, apply_ite Prod.fst, ite_self, implies_true,
        State.setPort_fixed, State.openGap_fixed]; done)
    | split
    | intro _
    | (dsimp +zetaHave only))

theorem State.receiveMark_fixed (s : State) (p : Nat) (id : Nat) (e : Edge) (adj : Nat) : (State.receiveMark s p id e adj).fixed = s.fixed := by
  unfold State.receiveMark
  repeat' (first
    | with_reducible rfl
    | (simp +zetaHave only [State.fixed_mk, State.fixed_eta, apply_ite State.fixed, apply_ite Prod.fst, ite_self, implies_true,
        apply_ite Rx.s, Rx.drop_s, State.count_fixed, State.atCyc_fixed, State.setPort_fixed, State.portMark_fixed,
        State.heldGone_fixed]; done)
    | split
    | intro _
    | (dsimp +zetaHave only))

theorem State.claimMark_fixed (s : State) (p : Nat) (id : Nat) : (State.claimMark s p id).1.fixed = s.fixed := by
  unfold State.claimMark
  repeat' (first
    | with_reducible rfl
    | (simp +zetaHave only [State.fixed_mk, State.fixed_eta, apply_ite State.fixed, apply_ite Prod.fst, ite_self, implies_true,
        State.setPort_fixed]; done)
    | split
    | intro _
    | (dsimp +zetaHave only))

theorem State.transmitMark_fixed (s : State) (p : Nat) (e : Edge) (adj : Nat) : (State.transmitMark s p e adj).fixed = s.fixed := by
  unfold State.transmitMark
  repeat' (first
    | with_reducible rfl
    | (simp +zetaHave only [State.fixed_mk, State.fixed_eta, apply_ite State.fixed, apply_ite Prod.fst, ite_self, implies_true,
        State.drawFree_fixed, State.emit_fixed, State.atCyc_fixed, State.setPort_fixed, State.portMark_fixed,
        State.stampRecord_fixed]; done)
    | split
    | intro _
    | (dsimp +zetaHave only))

theorem State.txInsLate_fixed (s : State) (p : Nat) : (State.txInsLate s p).fixed = s.fixed := by
  unfold State.txInsLate
  repeat' (first
    | with_reducible rfl
    | (simp +zetaHave only [State.fixed_mk, State.fixed_eta, apply_ite State.fixed, apply_ite Prod.fst, ite_self, implies_true,
        State.count_fixed, State.setPort_fixed, State.memWrite_fixed]; done)
    | split
    | intro _
    | (dsimp +zetaHave only))

theorem State.rxSeq_fixed (s : State) (p : Nat) (lseq : Nat) (mark : Nat) (express : Bool) : (State.rxSeq s p lseq mark express).1.fixed = s.fixed := by
  unfold State.rxSeq
  repeat' (first
    | with_reducible rfl
    | (simp +zetaHave only [State.fixed_mk, State.fixed_eta, apply_ite State.fixed, apply_ite Prod.fst, ite_self, implies_true,
        State.count_fixed, State.setPort_fixed, State.openGap_fixed, State.heldGone_fixed]; done)
    | split
    | intro _
    | (dsimp +zetaHave only))

theorem State.rxCorrupt_fixed (s : State) (p : Nat) (bad : RxBad) : (State.rxCorrupt s p bad).fixed = s.fixed := by
  unfold State.rxCorrupt
  repeat' (first
    | with_reducible rfl
    | (simp +zetaHave only [State.fixed_mk, State.fixed_eta, apply_ite State.fixed, apply_ite Prod.fst, ite_self, implies_true,
        State.count_fixed, State.evt_fixed, State.scorePar_fixed, State.scoreFcs_fixed, State.openGap_fixed]; done)
    | split
    | intro _
    | (dsimp +zetaHave only))

theorem Rx.drop_fixed (s : State) (st : Stamp) : (Rx.drop s st).s.fixed = s.fixed := by
  unfold Rx.drop
  repeat' (first
    | with_reducible rfl
    | (simp +zetaHave only [State.fixed_mk, State.fixed_eta, apply_ite State.fixed, apply_ite Prod.fst, ite_self, implies_true,
        apply_ite Rx.s, Rx.drop_s]; done)
    | split
    | intro _
    | (dsimp +zetaHave only))

theorem State.rxBegin_fixed (s : State) (h : RxBase) (proto : Bool) (seq : Nat) (typ : Nat) (express : Bool) : (State.rxBegin s h proto seq typ express).s.fixed = s.fixed := by
  unfold State.rxBegin
  repeat' (first
    | with_reducible rfl
    | (simp +zetaHave only [State.fixed_mk, State.fixed_eta, apply_ite State.fixed, apply_ite Prod.fst, ite_self, implies_true,
        apply_ite Rx.s, Rx.drop_s, State.count_fixed, State.evt_fixed, State.atCyc_fixed, State.stampRecord_fixed,
        State.claimMark_fixed, Rx.drop_fixed, State.heldGone_fixed]; done)
    | split
    | intro _
    | (dsimp +zetaHave only))

theorem State.rxZudar_fixed (s : State) (h : RxHead) (k : RxKind) (bodyOk : Bool) : (s.rxZudar h k bodyOk).s.fixed = s.fixed := by
  have h1 : ∀ t : State, (if k.express then t else (t.napWake).busy).fixed = t.fixed := fun t => by
    split
    · rfl
    · rw [State.busy_fixed, State.napWake_fixed]
  have h2 : ∀ t : State, (if k.typ = 0x04 then t else t.takeAck h.port h.lack).fixed = t.fixed := fun t => by
    split
    · rfl
    · exact State.takeAck_fixed _ _ _
  have h3 : ∀ t : State, (if h.rpl then t.rxSeq h.port h.lseq h.mark k.express else (t.heldGone h.port h.mark, true)).1.fixed = t.fixed :=
    fun t => by
      split
      · exact State.rxSeq_fixed _ _ _ _ _
      · exact State.heldGone_fixed _ _ _
  have hb := State.rxBegin_fixed s h.toRxBase true h.seq k.typ k.express
  unfold State.rxZudar
  extract_lets r
  split
  · exact hb
  rename_i s1 p v s2 q s3 hr
  have e1 : s1.fixed = s.fixed := (h1 _).trans hb
  have e3 : s3.fixed = s.fixed := (h3 _).trans ((h2 _).trans e1)
  clear_value s1 s3 q
  repeat' split
  all_goals simp only [Rx.drop_s, State.count_fixed, State.heldGone_fixed, e1, e3, apply_ite State.fixed, ite_self]

theorem State.rxPtp_fixed (s : State) (h : PtpHead) (typ : Nat) (need : Nat) : (State.rxPtp s h typ need).s.fixed = s.fixed := by
  unfold State.rxPtp
  repeat' (first
    | with_reducible rfl
    | (simp +zetaHave only [State.fixed_mk, State.fixed_eta, apply_ite State.fixed, apply_ite Prod.fst, ite_self, implies_true,
        apply_ite Rx.s, Rx.drop_s, State.count_fixed, Rx.drop_fixed, State.rxBegin_fixed]; done)
    | split
    | intro _
    | (dsimp +zetaHave only))

theorem State.setCand_fixed (s : State) (n : Nat) (c : Cand) : (State.setCand s n c).fixed = s.fixed := by
  unfold State.setCand
  repeat' (first
    | with_reducible rfl
    | (simp +zetaHave only [State.fixed_mk, State.fixed_eta, apply_ite State.fixed, apply_ite Prod.fst, ite_self, implies_true]; done)
    | split
    | intro _
    | (dsimp +zetaHave only))

theorem State.withdrawClock_fixed (s : State) (p : Nat) : (State.withdrawClock s p).fixed = s.fixed := by
  unfold State.withdrawClock
  repeat' (first
    | with_reducible rfl
    | (simp +zetaHave only [State.fixed_mk, State.fixed_eta, apply_ite State.fixed, apply_ite Prod.fst, ite_self, implies_true,
        State.setCand_fixed]; done)
    | split
    | intro _
    | (dsimp +zetaHave only))

end Sys2Proof.Machine
end

