-- ==== Sys2Proof/Laws/FrameLink.lean ====
section
/-! SUPPORT. Sys2Proof/Laws/FrameLink.lean: no operation of Machine/Link.lean touches the queue, the tie-offs or the start
phase of the block. -/

set_option linter.all false
set_option Elab.async false

namespace Sys2Proof.Machine
open Sys2Proof.Config
set_option linter.unusedSimpArgs false

theorem State.sendHello_fixed (s : State) (p : Nat) : (State.sendHello s p).fixed = s.fixed := by
  unfold State.sendHello
  repeat' (first
    | with_reducible rfl
    | (simp +zetaHave only [State.fixed_mk, State.fixed_eta, apply_ite State.fixed, apply_ite Prod.fst, ite_self, implies_true,
        State.xsend_fixed]; done)
    | split
    | intro _
    | (dsimp +zetaHave only))

theorem State.comeUp_fixed (s : State) (p : Nat) : (State.comeUp s p).fixed = s.fixed := by
  unfold State.comeUp
  repeat' (first
    | with_reducible rfl
    | (simp +zetaHave only [State.fixed_mk, State.fixed_eta, apply_ite State.fixed, apply_ite Prod.fst, ite_self, implies_true,
        State.modPort_fixed, State.dropExch_fixed, State.restartLink_fixed]; done)
    | split
    | intro _
    | (dsimp +zetaHave only))

theorem State.sendAck_fixed (s : State) (p : Nat) : (State.sendAck s p).fixed = s.fixed := by
  unfold State.sendAck
  repeat' (first
    | with_reducible rfl
    | (simp +zetaHave only [State.fixed_mk, State.fixed_eta, apply_ite State.fixed, apply_ite Prod.fst, ite_self, implies_true,
        State.modPort_fixed, State.xsend_fixed]; done)
    | split
    | intro _
    | (dsimp +zetaHave only))

theorem State.rxSpoilt_fixed (s : State) (h : RxBase) : (State.rxSpoilt s h).fixed = s.fixed := by
  unfold State.rxSpoilt
  repeat' (first
    | with_reducible rfl
    | (simp +zetaHave only [State.fixed_mk, State.fixed_eta, apply_ite State.fixed, apply_ite Prod.fst, ite_self, implies_true,
        State.count_fixed, State.drawFree_fixed, State.evt_fixed, State.atCyc_fixed, State.stampRecord_fixed,
        State.claimMark_fixed]; done)
    | split
    | intro _
    | (dsimp +zetaHave only))

theorem State.debtClear_fixed (s : State) (v : Nat) : (State.debtClear s v).fixed = s.fixed := by
  unfold State.debtClear
  repeat' (first
    | with_reducible rfl
    | (simp +zetaHave only [State.fixed_mk, State.fixed_eta, apply_ite State.fixed, apply_ite Prod.fst, ite_self, implies_true,
        State.each_fixed, State.modPort_fixed, State.fillBuckets_fixed]; done)
    | split
    | intro _
    | (dsimp +zetaHave only)
    | refine (State.each_fixed _ _ _ ?_).trans ?_)

theorem State.profileWrite_fixed (s : State) (r : Reg) (v : Nat) : (State.profileWrite s r v).fixed = s.fixed := by
  unfold State.profileWrite
  repeat' (first
    | with_reducible rfl
    | (simp +zetaHave only [State.fixed_mk, State.fixed_eta, apply_ite State.fixed, apply_ite Prod.fst, ite_self, implies_true,
        State.each_fixed, State.wr_fixed, State.fillBuckets_fixed]; done)
    | split
    | intro _
    | (dsimp +zetaHave only)
    | refine (State.each_fixed _ _ _ ?_).trans ?_)

theorem State.portCtlWrite_fixed (s : State) (p : Nat) (v : Nat) : (State.portCtlWrite s p v).fixed = s.fixed := by
  unfold State.portCtlWrite
  repeat' (first
    | with_reducible rfl
    | (simp +zetaHave only [State.fixed_mk, State.fixed_eta, apply_ite State.fixed, apply_ite Prod.fst, ite_self, implies_true,
        State.wr_fixed, State.openGate_fixed, State.modPort_fixed, State.flushPort_fixed, State.dropExch_fixed,
        State.comeUp_fixed]; done)
    | split
    | intro _
    | (dsimp +zetaHave only))

theorem State.portConstWrite_fixed (s : State) (p : Nat) (r : Reg) (v : Nat) : (State.portConstWrite s p r v).fixed = s.fixed := by
  unfold State.portConstWrite
  repeat' (first
    | with_reducible rfl
    | (simp +zetaHave only [State.fixed_mk, State.fixed_eta, apply_ite State.fixed, apply_ite Prod.fst, ite_self, implies_true,
        State.wr_fixed, State.modPort_fixed]; done)
    | split
    | intro _
    | (dsimp +zetaHave only))

theorem State.applyConstants_fixed (s : State) (p : Nat) : (State.applyConstants s p).fixed = s.fixed := by
  unfold State.applyConstants
  repeat' (first
    | with_reducible rfl
    | (simp +zetaHave only [State.fixed_mk, State.fixed_eta, apply_ite State.fixed, apply_ite Prod.fst, ite_self, implies_true,
        State.setPort_fixed]; done)
    | split
    | intro _
    | (dsimp +zetaHave only))

end Sys2Proof.Machine
end

