-- ==== Sys2Proof/Laws/FrameColl.lean ====
section
/-! SUPPORT. Sys2Proof/Laws/FrameColl.lean: no operation of Machine/Coll.lean touches the queue, the tie-offs or the start
phase of the block. -/

set_option linter.all false
set_option Elab.async false

namespace Sys2Proof.Machine
open Sys2Proof.Config
set_option linter.unusedSimpArgs false

theorem State.noteAbort_fixed (s : State) (m : CollAbort) : (State.noteAbort s m).fixed = s.fixed := by
  unfold State.noteAbort
  repeat' (first
    | with_reducible rfl
    | (simp +zetaHave only [State.fixed_mk, State.fixed_eta, apply_ite State.fixed, apply_ite Prod.fst, ite_self, implies_true]; done)
    | split
    | intro _
    | (dsimp +zetaHave only))

theorem State.dropCtrs_fixed (s : State) (cid : Nat) (isn : Nat) (upto : Nat) : (State.dropCtrs s cid isn upto).fixed = s.fixed := by
  unfold State.dropCtrs
  repeat' (first
    | with_reducible rfl
    | (simp +zetaHave only [State.fixed_mk, State.fixed_eta, apply_ite State.fixed, apply_ite Prod.fst, ite_self, implies_true]; done)
    | split
    | intro _
    | (dsimp +zetaHave only))

theorem State.dropMoves_fixed (s : State) (cid : Nat) (isn : Nat) : (State.dropMoves s cid isn).fixed = s.fixed := by
  unfold State.dropMoves
  repeat' (first
    | with_reducible rfl
    | (simp +zetaHave only [State.fixed_mk, State.fixed_eta, apply_ite State.fixed, apply_ite Prod.fst, ite_self, implies_true]; done)
    | split
    | intro _
    | (dsimp +zetaHave only))

theorem State.toMembers_fixed (s : State) (m : GangMsg) : (State.toMembers s m).fixed = s.fixed := by
  unfold State.toMembers
  repeat' (first
    | with_reducible rfl
    | (simp +zetaHave only [State.fixed_mk, State.fixed_eta, apply_ite State.fixed, apply_ite Prod.fst, ite_self, implies_true,
        State.emit_fixed]; done)
    | split
    | intro _
    | (dsimp +zetaHave only))

theorem State.close_fixed (s : State) (cid : Nat) (isn : Nat) : (State.close s cid isn).fixed = s.fixed := by
  unfold State.close
  repeat' (first
    | with_reducible rfl
    | (simp +zetaHave only [State.fixed_mk, State.fixed_eta, apply_ite State.fixed, apply_ite Prod.fst, ite_self, implies_true]; done)
    | split
    | intro _
    | (dsimp +zetaHave only))

theorem State.rootAbort_fixed (s : State) (cid : Nat) (isn : Nat) (attempt : Nat) (reason : Nat) (o : Origin) : (State.rootAbort s cid isn attempt reason o).fixed = s.fixed := by
  unfold State.rootAbort
  repeat' (first
    | with_reducible rfl
    | (simp +zetaHave only [State.fixed_mk, State.fixed_eta, apply_ite State.fixed, apply_ite Prod.fst, ite_self, implies_true,
        State.count_fixed, State.raise_fixed, State.evt_fixed, State.xsendAll_fixed, State.noteAbort_fixed,
        State.dropCtrs_fixed, State.dropMoves_fixed, State.close_fixed, State.toMembers_fixed]; done)
    | split
    | intro _
    | (dsimp +zetaHave only))

theorem State.rootMove_fixed (s : State) (cid : Nat) (isn : Nat) (attempt : Nat) (group : Option Nat) (o : Origin) : (State.rootMove s cid isn attempt group o).fixed = s.fixed := by
  unfold State.rootMove
  repeat' (first
    | with_reducible rfl
    | (simp +zetaHave only [State.fixed_mk, State.fixed_eta, apply_ite State.fixed, apply_ite Prod.fst, ite_self, implies_true,
        State.count_fixed, State.evt_fixed, State.xsendAll_fixed, State.dropCtrs_fixed, State.dropMoves_fixed,
        State.toMembers_fixed]; done)
    | split
    | intro _
    | (dsimp +zetaHave only))

theorem State.pathDecision_fixed (s : State) (cid : Nat) (isn : Nat) (attempt : Nat) (group : Option Nat) (o : Origin) : (State.pathDecision s cid isn attempt group o).fixed = s.fixed := by
  unfold State.pathDecision
  repeat' (first
    | with_reducible rfl
    | (simp +zetaHave only [State.fixed_mk, State.fixed_eta, apply_ite State.fixed, apply_ite Prod.fst, ite_self, implies_true,
        State.rootAbort_fixed, State.rootMove_fixed]; done)
    | split
    | intro _
    | (dsimp +zetaHave only))

theorem State.rootRequest_fixed (s : State) (q : CollReq) : (State.rootRequest s q).fixed = s.fixed := by
  unfold State.rootRequest
  repeat' (first
    | with_reducible rfl
    | (simp +zetaHave only [State.fixed_mk, State.fixed_eta, apply_ite State.fixed, apply_ite Prod.fst, ite_self, implies_true,
        State.foldl_fixed, State.foldl_fst_fixed, State.rootAbort_fixed, State.pathDecision_fixed]; done)
    | split
    | intro _
    | (dsimp +zetaHave only)
    | refine (State.foldl_fixed _ _ _ ?_).trans ?_
    | refine (State.foldl_fst_fixed _ _ _ ?_).trans ?_)

theorem State.routeReq_fixed (s : State) (q : CollReq) : (State.routeReq s q).fixed = s.fixed := by
  unfold State.routeReq
  repeat' (first
    | with_reducible rfl
    | (simp +zetaHave only [State.fixed_mk, State.fixed_eta, apply_ite State.fixed, apply_ite Prod.fst, ite_self, implies_true,
        State.xsend_fixed, State.rootRequest_fixed, State.emit_fixed]; done)
    | split
    | intro _
    | (dsimp +zetaHave only))

theorem State.raiseReq_fixed (s : State) (q : CollReq) : (State.raiseReq s q).fixed = s.fixed := by
  unfold State.raiseReq
  repeat' (first
    | with_reducible rfl
    | (simp +zetaHave only [State.fixed_mk, State.fixed_eta, apply_ite State.fixed, apply_ite Prod.fst, ite_self, implies_true,
        State.count_fixed, State.routeReq_fixed]; done)
    | split
    | intro _
    | (dsimp +zetaHave only))

theorem State.abortReq_fixed (s : State) (cid : Nat) (isn : Nat) (attempt : Nat) (d : Dom) (reason : Nat) (port : Nat) : (State.abortReq s cid isn attempt d reason port).fixed = s.fixed := by
  unfold State.abortReq
  repeat' (first
    | with_reducible rfl
    | (simp +zetaHave only [State.fixed_mk, State.fixed_eta, apply_ite State.fixed, apply_ite Prod.fst, ite_self, implies_true,
        State.raiseReq_fixed]; done)
    | split
    | intro _
    | (dsimp +zetaHave only))

theorem State.pathFault_fixed (s : State) (p : Nat) : (State.pathFault s p).fixed = s.fixed := by
  unfold State.pathFault
  repeat' (first
    | with_reducible rfl
    | (simp +zetaHave only [State.fixed_mk, State.fixed_eta, apply_ite State.fixed, apply_ite Prod.fst, ite_self, implies_true,
        State.raiseReq_fixed]; done)
    | split
    | intro _
    | (dsimp +zetaHave only))

theorem State.setHandle_fixed (s : State) (h : Nat) (v : Option Handle) : (State.setHandle s h v).fixed = s.fixed := by
  unfold State.setHandle
  repeat' (first
    | with_reducible rfl
    | (simp +zetaHave only [State.fixed_mk, State.fixed_eta, apply_ite State.fixed, apply_ite Prod.fst, ite_self, implies_true]; done)
    | split
    | intro _
    | (dsimp +zetaHave only))

theorem State.gather_fixed (s : State) (hd : Handle) (i : Inst) : (State.gather s hd i).1.fixed = s.fixed := by
  unfold State.gather
  repeat' (first
    | with_reducible rfl
    | (simp +zetaHave only [State.fixed_mk, State.fixed_eta, apply_ite State.fixed, apply_ite Prod.fst, ite_self, implies_true,
        State.foldl_fixed, State.foldl_fst_fixed]; done)
    | split
    | intro _
    | (dsimp +zetaHave only)
    | refine (State.foldl_fixed _ _ _ ?_).trans ?_
    | refine (State.foldl_fst_fixed _ _ _ ?_).trans ?_)

theorem State.sendLog_fixed (s : State) (h : Nat) (hd : Handle) (i : Inst) : (State.sendLog s h hd i).fixed = s.fixed := by
  unfold State.sendLog
  repeat' (first
    | with_reducible rfl
    | (simp +zetaHave only [State.fixed_mk, State.fixed_eta, apply_ite State.fixed, apply_ite Prod.fst, ite_self, implies_true,
        State.foldl_fixed, State.foldl_fst_fixed, State.count_fixed, State.emit_fixed, State.xsend_fixed,
        State.raiseReq_fixed, State.setHandle_fixed, State.gather_fixed]; done)
    | split
    | intro _
    | (dsimp +zetaHave only)
    | refine (State.foldl_fixed _ _ _ ?_).trans ?_
    | refine (State.foldl_fst_fixed _ _ _ ?_).trans ?_)

theorem State.startInst_fixed (s : State) (h : Nat) (hd : Handle) (data : UpData) (step : Nat) (lanes : Nat) : (State.startInst s h hd data step lanes).fixed = s.fixed := by
  unfold State.startInst
  repeat' (first
    | with_reducible rfl
    | (simp +zetaHave only [State.fixed_mk, State.fixed_eta, apply_ite State.fixed, apply_ite Prod.fst, ite_self, implies_true,
        State.evt_fixed, State.openGate_fixed, State.busy_fixed, State.abortReq_fixed, State.sendLog_fixed]; done)
    | split
    | intro _
    | (dsimp +zetaHave only))

theorem State.contribute_fixed (s : State) (h : Nat) (data : UpData) (step : Nat) (lanes : Nat) : (State.contribute s h data step lanes).1.fixed = s.fixed := by
  unfold State.contribute
  repeat' (first
    | with_reducible rfl
    | (simp +zetaHave only [State.fixed_mk, State.fixed_eta, apply_ite State.fixed, apply_ite Prod.fst, ite_self, implies_true,
        State.count_fixed, State.raise_fixed, State.startInst_fixed]; done)
    | split
    | intro _
    | (dsimp +zetaHave only))

theorem State.contributeHeld_fixed (s : State) (h : Nat) (data : UpData) (step : Nat) (lanes : Nat) : (State.contributeHeld s h data step lanes).fixed = s.fixed := by
  unfold State.contributeHeld
  repeat' (first
    | with_reducible rfl
    | (simp +zetaHave only [State.fixed_mk, State.fixed_eta, apply_ite State.fixed, apply_ite Prod.fst, ite_self, implies_true,
        State.count_fixed, State.contribute_fixed]; done)
    | split
    | intro _
    | (dsimp +zetaHave only))

theorem State.releaseHeld_fixed (s : State) : (State.releaseHeld s).fixed = s.fixed := by
  unfold State.releaseHeld
  repeat' (first
    | with_reducible rfl
    | (simp +zetaHave only [State.fixed_mk, State.fixed_eta, apply_ite State.fixed, apply_ite Prod.fst, ite_self, implies_true,
        State.foldl_fixed, State.foldl_fst_fixed, State.contribute_fixed]; done)
    | split
    | intro _
    | (dsimp +zetaHave only)
    | refine (State.foldl_fixed _ _ _ ?_).trans ?_
    | refine (State.foldl_fst_fixed _ _ _ ?_).trans ?_)

theorem State.setOut_fixed (s : State) (h : Nat) (hd : Handle) (i : Inst) (o : CollOutcome) : (State.setOut s h hd i o).fixed = s.fixed := by
  unfold State.setOut
  repeat' (first
    | with_reducible rfl
    | (simp +zetaHave only [State.fixed_mk, State.fixed_eta, apply_ite State.fixed, apply_ite Prod.fst, ite_self, implies_true,
        State.setHandle_fixed]; done)
    | split
    | intro _
    | (dsimp +zetaHave only))

theorem State.eaveDown_fixed (s : State) (p : Nat) (m : CollDown) : (State.eaveDown s p m).fixed = s.fixed := by
  unfold State.eaveDown
  repeat' (first
    | with_reducible rfl
    | (simp +zetaHave only [State.fixed_mk, State.fixed_eta, apply_ite State.fixed, apply_ite Prod.fst, ite_self, implies_true,
        State.count_fixed, State.evt_fixed, State.xsend_fixed, State.setHandle_fixed, State.setOut_fixed,
        State.toMembers_fixed]; done)
    | split
    | intro _
    | (dsimp +zetaHave only))

theorem State.eaveAbort_fixed (s : State) (m : CollAbort) : (State.eaveAbort s m).fixed = s.fixed := by
  unfold State.eaveAbort
  repeat' (first
    | with_reducible rfl
    | (simp +zetaHave only [State.fixed_mk, State.fixed_eta, apply_ite State.fixed, apply_ite Prod.fst, ite_self, implies_true,
        State.count_fixed, State.evt_fixed, State.noteAbort_fixed, State.setOut_fixed, State.toMembers_fixed]; done)
    | split
    | intro _
    | (dsimp +zetaHave only))

theorem State.reportDone_fixed (s : State) (hd : Handle) (m : CollMove) (o : CollOutcome) : (State.reportDone s hd m o).fixed = s.fixed := by
  unfold State.reportDone
  repeat' (first
    | with_reducible rfl
    | (simp +zetaHave only [State.fixed_mk, State.fixed_eta, apply_ite State.fixed, apply_ite Prod.fst, ite_self, implies_true,
        State.count_fixed, State.evt_fixed, State.xsend_fixed]; done)
    | split
    | intro _
    | (dsimp +zetaHave only))

theorem State.eaveMove_fixed (s : State) (m : CollMove) : (State.eaveMove s m).fixed = s.fixed := by
  unfold State.eaveMove
  repeat' (first
    | with_reducible rfl
    | (simp +zetaHave only [State.fixed_mk, State.fixed_eta, apply_ite State.fixed, apply_ite Prod.fst, ite_self, implies_true,
        State.count_fixed, State.evt_fixed, State.xsend_fixed, State.abortReq_fixed, State.setHandle_fixed,
        State.sendLog_fixed, State.toMembers_fixed, State.reportDone_fixed]; done)
    | split
    | intro _
    | (dsimp +zetaHave only))

theorem State.gangContribution_fixed (s : State) (pos : Nat) (m : CollUp) : (State.gangContribution s pos m).fixed = s.fixed := by
  unfold State.gangContribution
  repeat' (first
    | with_reducible rfl
    | (simp +zetaHave only [State.fixed_mk, State.fixed_eta, apply_ite State.fixed, apply_ite Prod.fst, ite_self, implies_true,
        State.sendLog_fixed]; done)
    | split
    | intro _
    | (dsimp +zetaHave only))

theorem State.applyOutcomes_fixed (s : State) : (State.applyOutcomes s).1.fixed = s.fixed := by
  unfold State.applyOutcomes
  repeat' (first
    | with_reducible rfl
    | (simp +zetaHave only [State.fixed_mk, State.fixed_eta, apply_ite State.fixed, apply_ite Prod.fst, ite_self, implies_true,
        State.foldl_fixed, State.foldl_fst_fixed, State.raiseIf_fixed, State.setHandle_fixed]; done)
    | split
    | intro _
    | (dsimp +zetaHave only)
    | refine (State.foldl_fixed _ _ _ ?_).trans ?_
    | refine (State.foldl_fst_fixed _ _ _ ?_).trans ?_)

theorem State.localOutcome_fixed (s : State) (h : Nat) (hd : Handle) (i : Inst) (reason : Nat) : (State.localOutcome s h hd i reason).fixed = s.fixed := by
  unfold State.localOutcome
  repeat' (first
    | with_reducible rfl
    | (simp +zetaHave only [State.fixed_mk, State.fixed_eta, apply_ite State.fixed, apply_ite Prod.fst, ite_self, implies_true,
        State.count_fixed, State.raise_fixed, State.noteAbort_fixed, State.setHandle_fixed]; done)
    | split
    | intro _
    | (dsimp +zetaHave only))

theorem State.collDeadlines_fixed (s : State) (n : Nat) : (State.collDeadlines s n).fixed = s.fixed := by
  unfold State.collDeadlines
  repeat' (first
    | with_reducible rfl
    | (simp +zetaHave only [State.fixed_mk, State.fixed_eta, apply_ite State.fixed, apply_ite Prod.fst, ite_self, implies_true,
        State.each_fixed, State.foldl_fixed, State.foldl_fst_fixed, State.abortReq_fixed, State.setHandle_fixed]; done)
    | split
    | intro _
    | (dsimp +zetaHave only)
    | refine (State.each_fixed _ _ _ ?_).trans ?_
    | refine (State.foldl_fixed _ _ _ ?_).trans ?_
    | refine (State.foldl_fst_fixed _ _ _ ?_).trans ?_)

theorem State.isolate_fixed (s : State) (t : Nat) : (State.isolate s t).1.fixed = s.fixed := by
  unfold State.isolate
  repeat' (first
    | with_reducible rfl
    | (simp +zetaHave only [State.fixed_mk, State.fixed_eta, apply_ite State.fixed, apply_ite Prod.fst, ite_self, implies_true,
        State.foldl_fixed, State.foldl_fst_fixed, State.localOutcome_fixed]; done)
    | split
    | intro _
    | (dsimp +zetaHave only)
    | refine (State.foldl_fixed _ _ _ ?_).trans ?_
    | refine (State.foldl_fst_fixed _ _ _ ?_).trans ?_)

theorem State.sendHeldReps_fixed (s : State) : (State.sendHeldReps s).fixed = s.fixed := by
  unfold State.sendHeldReps
  repeat' (first
    | with_reducible rfl
    | (simp +zetaHave only [State.fixed_mk, State.fixed_eta, apply_ite State.fixed, apply_ite Prod.fst, ite_self, implies_true,
        State.foldl_fixed, State.foldl_fst_fixed, State.xsend_fixed]; done)
    | split
    | intro _
    | (dsimp +zetaHave only)
    | refine (State.foldl_fixed _ _ _ ?_).trans ?_
    | refine (State.foldl_fst_fixed _ _ _ ?_).trans ?_)

theorem State.sendHeldLogs_fixed (s : State) : (State.sendHeldLogs s).fixed = s.fixed := by
  unfold State.sendHeldLogs
  refine (State.sendHeldReps_fixed _).trans ?_
  repeat' (first
    | with_reducible rfl
    | (simp +zetaHave only [State.fixed_mk, State.fixed_eta, apply_ite State.fixed, apply_ite Prod.fst, ite_self, implies_true,
        State.each_fixed, State.foldl_fixed, State.foldl_fst_fixed, State.sendLog_fixed, State.sendHeldReps_fixed]; done)
    | split
    | intro _
    | (dsimp +zetaHave only)
    | refine (State.each_fixed _ _ _ ?_).trans ?_
    | refine (State.foldl_fixed _ _ _ ?_).trans ?_
    | refine (State.foldl_fst_fixed _ _ _ ?_).trans ?_)

theorem State.endLocal_fixed (s : State) (reason : Nat) : (State.endLocal s reason).fixed = s.fixed := by
  unfold State.endLocal
  repeat' (first
    | with_reducible rfl
    | (simp +zetaHave only [State.fixed_mk, State.fixed_eta, apply_ite State.fixed, apply_ite Prod.fst, ite_self, implies_true,
        State.each_fixed, State.setHandle_fixed]; done)
    | split
    | intro _
    | (dsimp +zetaHave only)
    | refine (State.each_fixed _ _ _ ?_).trans ?_)

theorem State.abortAll_fixed (s : State) (reason : Nat) : (State.abortAll s reason).fixed = s.fixed := by
  unfold State.abortAll
  repeat' (first
    | with_reducible rfl
    | (simp +zetaHave only [State.fixed_mk, State.fixed_eta, apply_ite State.fixed, apply_ite Prod.fst, ite_self, implies_true,
        State.each_fixed, State.foldl_fixed, State.foldl_fst_fixed, State.abortReq_fixed]; done)
    | split
    | intro _
    | (dsimp +zetaHave only)
    | refine (State.each_fixed _ _ _ ?_).trans ?_
    | refine (State.foldl_fixed _ _ _ ?_).trans ?_
    | refine (State.foldl_fst_fixed _ _ _ ?_).trans ?_)

theorem State.putCtr_fixed (s : State) (c : TreeCtr) : (State.putCtr s c).fixed = s.fixed := by
  unfold State.putCtr
  repeat' (first
    | with_reducible rfl
    | (simp +zetaHave only [State.fixed_mk, State.fixed_eta, apply_ite State.fixed, apply_ite Prod.fst, ite_self, implies_true]; done)
    | split
    | intro _
    | (dsimp +zetaHave only))

theorem State.sendHome_fixed (s : State) (m : CollUp) : (State.sendHome s m).fixed = s.fixed := by
  unfold State.sendHome
  repeat' (first
    | with_reducible rfl
    | (simp +zetaHave only [State.fixed_mk, State.fixed_eta, apply_ite State.fixed, apply_ite Prod.fst, ite_self, implies_true,
        State.emit_fixed, State.xsend_fixed]; done)
    | split
    | intro _
    | (dsimp +zetaHave only))

theorem State.rootDown_fixed (s : State) (c : TreeCtr) (status : Nat) (step : Nat) (results : List Nat) : (State.rootDown s c status step results).fixed = s.fixed := by
  unfold State.rootDown
  repeat' (first
    | with_reducible rfl
    | (simp +zetaHave only [State.fixed_mk, State.fixed_eta, apply_ite State.fixed, apply_ite Prod.fst, ite_self, implies_true,
        State.count_fixed, State.evt_fixed, State.xsendAll_fixed, State.dropCtrs_fixed, State.dropMoves_fixed,
        State.close_fixed, State.toMembers_fixed]; done)
    | split
    | intro _
    | (dsimp +zetaHave only))

theorem State.rootComplete_fixed (s : State) (c : TreeCtr) (g : Group) : (State.rootComplete s c g).fixed = s.fixed := by
  unfold State.rootComplete
  repeat' (first
    | with_reducible rfl
    | (simp +zetaHave only [State.fixed_mk, State.fixed_eta, apply_ite State.fixed, apply_ite Prod.fst, ite_self, implies_true,
        State.count_fixed, State.xsendAll_fixed, State.rootAbort_fixed, State.putCtr_fixed, State.rootDown_fixed,
        State.toMembers_fixed]; done)
    | split
    | intro _
    | (dsimp +zetaHave only))

theorem State.rootVerdict_fixed (s : State) (c : TreeCtr) (g : Group) (cand : Ballot) : (State.rootVerdict s c g cand).fixed = s.fixed := by
  unfold State.rootVerdict
  repeat' (first
    | with_reducible rfl
    | (simp +zetaHave only [State.fixed_mk, State.fixed_eta, apply_ite State.fixed, apply_ite Prod.fst, ite_self, implies_true,
        State.count_fixed, State.rootDown_fixed]; done)
    | split
    | intro _
    | (dsimp +zetaHave only))

theorem State.sendUp_fixed (s : State) (c : TreeCtr) : (State.sendUp s c).fixed = s.fixed := by
  unfold State.sendUp
  repeat' (first
    | with_reducible rfl
    | (simp +zetaHave only [State.fixed_mk, State.fixed_eta, apply_ite State.fixed, apply_ite Prod.fst, ite_self, implies_true,
        State.count_fixed, State.xsend_fixed, State.putCtr_fixed, State.sendHome_fixed]; done)
    | split
    | intro _
    | (dsimp +zetaHave only))

theorem State.afterFold_fixed (s : State) (c : TreeCtr) : (State.afterFold s c).fixed = s.fixed := by
  unfold State.afterFold
  repeat' (first
    | with_reducible rfl
    | (simp +zetaHave only [State.fixed_mk, State.fixed_eta, apply_ite State.fixed, apply_ite Prod.fst, ite_self, implies_true,
        State.putCtr_fixed, State.rootComplete_fixed, State.sendUp_fixed]; done)
    | split
    | intro _
    | (dsimp +zetaHave only))

theorem State.ridgeMatch_fixed (s : State) (p : Nat) (m : CollUp) (b : Ballot) : (State.ridgeMatch s p m b).fixed = s.fixed := by
  unfold State.ridgeMatch
  repeat' (first
    | with_reducible rfl
    | (simp +zetaHave only [State.fixed_mk, State.fixed_eta, apply_ite State.fixed, apply_ite Prod.fst, ite_self, implies_true,
        State.count_fixed, State.xsend_fixed, State.abortReq_fixed, State.putCtr_fixed, State.rootVerdict_fixed,
        State.sendHome_fixed]; done)
    | split
    | intro _
    | (dsimp +zetaHave only))

theorem State.ridgeReport_fixed (s : State) (m : CollUp) (status : Nat) (results : List Nat) : (State.ridgeReport s m status results).fixed = s.fixed := by
  unfold State.ridgeReport
  repeat' (first
    | with_reducible rfl
    | (simp +zetaHave only [State.fixed_mk, State.fixed_eta, apply_ite State.fixed, apply_ite Prod.fst, ite_self, implies_true,
        State.xsend_fixed, State.rootDown_fixed, State.sendHome_fixed]; done)
    | split
    | intro _
    | (dsimp +zetaHave only))

theorem State.ridgeUp_fixed (s : State) (p : Nat) (m : CollUp) : (State.ridgeUp s p m).fixed = s.fixed := by
  unfold State.ridgeUp
  repeat' (first
    | with_reducible rfl
    | (simp +zetaHave only [State.fixed_mk, State.fixed_eta, apply_ite State.fixed, apply_ite Prod.fst, ite_self, implies_true,
        State.count_fixed, State.raise_fixed, State.evt_fixed, State.abortReq_fixed, State.afterFold_fixed,
        State.ridgeMatch_fixed, State.ridgeReport_fixed]; done)
    | split
    | intro _
    | (dsimp +zetaHave only))

theorem State.spreadDown_fixed (s : State) (m : CollDown) : (State.spreadDown s m).fixed = s.fixed := by
  unfold State.spreadDown
  repeat' (first
    | with_reducible rfl
    | (simp +zetaHave only [State.fixed_mk, State.fixed_eta, apply_ite State.fixed, apply_ite Prod.fst, ite_self, implies_true,
        State.count_fixed, State.evt_fixed, State.xsendAll_fixed, State.dropCtrs_fixed, State.dropMoves_fixed,
        State.toMembers_fixed, State.putCtr_fixed]; done)
    | split
    | intro _
    | (dsimp +zetaHave only))

theorem State.ridgeDown_fixed (s : State) (p : Nat) (m : CollDown) : (State.ridgeDown s p m).fixed = s.fixed := by
  unfold State.ridgeDown
  repeat' (first
    | with_reducible rfl
    | (simp +zetaHave only [State.fixed_mk, State.fixed_eta, apply_ite State.fixed, apply_ite Prod.fst, ite_self, implies_true,
        State.count_fixed, State.evt_fixed, State.xsendAll_fixed, State.dropCtrs_fixed, State.dropMoves_fixed,
        State.putCtr_fixed, State.spreadDown_fixed]; done)
    | split
    | intro _
    | (dsimp +zetaHave only))

theorem State.spreadMove_fixed (s : State) (m : CollMove) : (State.spreadMove s m).fixed = s.fixed := by
  unfold State.spreadMove
  repeat' (first
    | with_reducible rfl
    | (simp +zetaHave only [State.fixed_mk, State.fixed_eta, apply_ite State.fixed, apply_ite Prod.fst, ite_self, implies_true,
        State.count_fixed, State.evt_fixed, State.xsendAll_fixed, State.dropCtrs_fixed, State.dropMoves_fixed,
        State.toMembers_fixed]; done)
    | split
    | intro _
    | (dsimp +zetaHave only))

theorem State.ridgeMove_fixed (s : State) (p : Nat) (m : CollMove) : (State.ridgeMove s p m).fixed = s.fixed := by
  unfold State.ridgeMove
  repeat' (first
    | with_reducible rfl
    | (simp +zetaHave only [State.fixed_mk, State.fixed_eta, apply_ite State.fixed, apply_ite Prod.fst, ite_self, implies_true,
        State.count_fixed, State.evt_fixed, State.xsendAll_fixed, State.dropCtrs_fixed, State.dropMoves_fixed,
        State.spreadMove_fixed]; done)
    | split
    | intro _
    | (dsimp +zetaHave only))

theorem State.spreadAbort_fixed (s : State) (m : CollAbort) : (State.spreadAbort s m).fixed = s.fixed := by
  unfold State.spreadAbort
  repeat' (first
    | with_reducible rfl
    | (simp +zetaHave only [State.fixed_mk, State.fixed_eta, apply_ite State.fixed, apply_ite Prod.fst, ite_self, implies_true,
        State.count_fixed, State.evt_fixed, State.xsendAll_fixed, State.noteAbort_fixed, State.dropCtrs_fixed,
        State.dropMoves_fixed, State.toMembers_fixed, State.close_fixed]; done)
    | split
    | intro _
    | (dsimp +zetaHave only))

theorem State.ridgeAbort_fixed (s : State) (p : Nat) (m : CollAbort) : (State.ridgeAbort s p m).fixed = s.fixed := by
  unfold State.ridgeAbort
  repeat' (first
    | with_reducible rfl
    | (simp +zetaHave only [State.fixed_mk, State.fixed_eta, apply_ite State.fixed, apply_ite Prod.fst, ite_self, implies_true,
        State.count_fixed, State.evt_fixed, State.xsendAll_fixed, State.noteAbort_fixed, State.dropCtrs_fixed,
        State.dropMoves_fixed, State.close_fixed, State.spreadAbort_fixed]; done)
    | split
    | intro _
    | (dsimp +zetaHave only))

theorem State.freeOrphans_fixed (s : State) (t : Nat) : (State.freeOrphans s t).fixed = s.fixed := by
  unfold State.freeOrphans
  repeat' (first
    | with_reducible rfl
    | (simp +zetaHave only [State.fixed_mk, State.fixed_eta, apply_ite State.fixed, apply_ite Prod.fst, ite_self, implies_true,
        State.count_fixed, State.raise_fixed]; done)
    | split
    | intro _
    | (dsimp +zetaHave only))

theorem State.moveTimeouts_fixed (s : State) (t : Nat) : (State.moveTimeouts s t).fixed = s.fixed := by
  unfold State.moveTimeouts
  repeat' (first
    | with_reducible rfl
    | (simp +zetaHave only [State.fixed_mk, State.fixed_eta, apply_ite State.fixed, apply_ite Prod.fst, ite_self, implies_true,
        State.foldl_fixed, State.foldl_fst_fixed, State.rootAbort_fixed]; done)
    | split
    | intro _
    | (dsimp +zetaHave only)
    | refine (State.foldl_fixed _ _ _ ?_).trans ?_
    | refine (State.foldl_fst_fixed _ _ _ ?_).trans ?_)

theorem State.resendMoves_fixed (s : State) (ports : List Nat) : (State.resendMoves s ports).fixed = s.fixed := by
  unfold State.resendMoves
  repeat' (first
    | with_reducible rfl
    | (simp +zetaHave only [State.fixed_mk, State.fixed_eta, apply_ite State.fixed, apply_ite Prod.fst, ite_self, implies_true,
        State.each_fixed, State.foldl_fixed, State.foldl_fst_fixed, State.xsend_fixed]; done)
    | split
    | intro _
    | (dsimp +zetaHave only)
    | refine (State.each_fixed _ _ _ ?_).trans ?_
    | refine (State.foldl_fixed _ _ _ ?_).trans ?_
    | refine (State.foldl_fst_fixed _ _ _ ?_).trans ?_)

theorem State.ageClosed_fixed (s : State) (t : Nat) : (State.ageClosed s t).fixed = s.fixed := by
  unfold State.ageClosed
  repeat' (first
    | with_reducible rfl
    | (simp +zetaHave only [State.fixed_mk, State.fixed_eta, apply_ite State.fixed, apply_ite Prod.fst, ite_self, implies_true]; done)
    | split
    | intro _
    | (dsimp +zetaHave only))

end Sys2Proof.Machine
end

