-- ==== Sys2Proof/Laws/FrameContain.lean ====
section
/-! SUPPORT. Sys2Proof/Laws/FrameContain.lean: no operation of Machine/Contain.lean touches the queue, the tie-offs or the start
phase of the block. -/

set_option linter.all false
set_option Elab.async false

namespace Sys2Proof.Machine
open Sys2Proof.Config
set_option linter.unusedSimpArgs false

theorem State.underlayRequests_fixed (s : State) : (State.underlayRequests s).fixed = s.fixed := by
  unfold State.underlayRequests
  repeat' (first
    | with_reducible rfl
    | (simp +zetaHave only [State.fixed_mk, State.fixed_eta, apply_ite State.fixed, apply_ite Prod.fst, ite_self, implies_true,
        State.raiseReq_fixed, State.abortAll_fixed]; done)
    | split
    | intro _
    | (dsimp +zetaHave only))

theorem State.underlayCause_fixed (s : State) (cause : Nat) (unit : Nat) : (State.underlayCause s cause unit).fixed = s.fixed := by
  unfold State.underlayCause
  repeat' (first
    | with_reducible rfl
    | (simp +zetaHave only [State.fixed_mk, State.fixed_eta, apply_ite State.fixed, apply_ite Prod.fst, ite_self, implies_true,
        State.raise_fixed, State.underlayRequests_fixed]; done)
    | split
    | intro _
    | (dsimp +zetaHave only))

theorem State.contained_fixed (s : State) (unit : Nat) : (State.contained s unit).fixed = s.fixed := by
  unfold State.contained
  repeat' (first
    | with_reducible rfl
    | (simp +zetaHave only [State.fixed_mk, State.fixed_eta, apply_ite State.fixed, apply_ite Prod.fst, ite_self, implies_true,
        State.count_fixed, State.raise_fixed, State.evt_fixed, State.underlayCause_fixed]; done)
    | split
    | intro _
    | (dsimp +zetaHave only))

theorem State.uncontained_fixed (s : State) (unit : Nat) : (State.uncontained s unit).fixed = s.fixed := by
  unfold State.uncontained
  repeat' (first
    | with_reducible rfl
    | (simp +zetaHave only [State.fixed_mk, State.fixed_eta, apply_ite State.fixed, apply_ite Prod.fst, ite_self, implies_true,
        State.count_fixed, State.underlayCause_fixed]; done)
    | split
    | intro _
    | (dsimp +zetaHave only))

end Sys2Proof.Machine
end

