-- ==== Sys2Proof/Laws/FrameBatten.lean ====
section
/-! SUPPORT. Sys2Proof/Laws/FrameBatten.lean: no operation of Machine/Batten.lean touches the queue, the tie-offs or the start
phase of the block. -/

set_option linter.all false
set_option Elab.async false

namespace Sys2Proof.Machine
open Sys2Proof.Config
set_option linter.unusedSimpArgs false

theorem State.setTap_fixed (s : State) (n : Nat) (v : Tap) : (State.setTap s n v).fixed = s.fixed := by
  unfold State.setTap
  repeat' (first
    | with_reducible rfl
    | (simp +zetaHave only [State.fixed_mk, State.fixed_eta, apply_ite State.fixed, apply_ite Prod.fst, ite_self, implies_true]; done)
    | split
    | intro _
    | (dsimp +zetaHave only))

theorem State.modTap_fixed (s : State) (n : Nat) (f : Tap → Tap) : (State.modTap s n f).fixed = s.fixed := by
  unfold State.modTap
  repeat' (first
    | with_reducible rfl
    | (simp +zetaHave only [State.fixed_mk, State.fixed_eta, apply_ite State.fixed, apply_ite Prod.fst, ite_self, implies_true,
        State.setTap_fixed]; done)
    | split
    | intro _
    | (dsimp +zetaHave only))

theorem State.tapReport_fixed (s : State) (n : Nat) (l : Launch) (code : Nat) : (State.tapReport s n l code).fixed = s.fixed := by
  unfold State.tapReport
  repeat' (first
    | with_reducible rfl
    | (simp +zetaHave only [State.fixed_mk, State.fixed_eta, apply_ite State.fixed, apply_ite Prod.fst, ite_self, implies_true,
        State.count_fixed, State.raiseIf_fixed, State.evt_fixed, State.modTap_fixed]; done)
    | split
    | intro _
    | (dsimp +zetaHave only))

theorem State.endLaunches_fixed (s : State) (n : Nat) : (State.endLaunches s n).fixed = s.fixed := by
  unfold State.endLaunches
  repeat' (first
    | with_reducible rfl
    | (simp +zetaHave only [State.fixed_mk, State.fixed_eta, apply_ite State.fixed, apply_ite Prod.fst, ite_self, implies_true,
        State.foldl_fixed, State.foldl_fst_fixed, State.setTap_fixed, State.tapReport_fixed]; done)
    | split
    | intro _
    | (dsimp +zetaHave only)
    | refine (State.foldl_fixed _ _ _ ?_).trans ?_
    | refine (State.foldl_fst_fixed _ _ _ ?_).trans ?_)

theorem State.flagCrossing_fixed (s : State) (n : Nat) : (State.flagCrossing s n).fixed = s.fixed := by
  unfold State.flagCrossing
  repeat' (first
    | with_reducible rfl
    | (simp +zetaHave only [State.fixed_mk, State.fixed_eta, apply_ite State.fixed, apply_ite Prod.fst, ite_self, implies_true,
        State.each_fixed, State.count_fixed, State.raise_fixed, State.modTap_fixed]; done)
    | split
    | intro _
    | (dsimp +zetaHave only)
    | refine (State.each_fixed _ _ _ ?_).trans ?_)

theorem State.setWaiting_fixed (s : State) (n : Nat) (l : List DownWord) : (State.setWaiting s n l).fixed = s.fixed := by
  unfold State.setWaiting
  repeat' (first
    | with_reducible rfl
    | (simp +zetaHave only [State.fixed_mk, State.fixed_eta, apply_ite State.fixed, apply_ite Prod.fst, ite_self, implies_true,
        State.modTap_fixed]; done)
    | split
    | intro _
    | (dsimp +zetaHave only))

theorem State.laneTick_fixed (s : State) (n : Nat) : (State.laneTick s n).fixed = s.fixed := by
  unfold State.laneTick
  repeat' (first
    | with_reducible rfl
    | (simp +zetaHave only [State.fixed_mk, State.fixed_eta, apply_ite State.fixed, apply_ite Prod.fst, ite_self, implies_true,
        State.setTap_fixed, State.modTap_fixed, State.setWaiting_fixed]; done)
    | split
    | intro _
    | (dsimp +zetaHave only))

theorem State.laneRun_fixed (s : State) (n fuel : Nat) : (s.laneRun n fuel).fixed = s.fixed := by
  induction fuel generalizing s with
  | zero => rfl
  | succ k ih => rw [State.laneRun, ih, State.laneTick_fixed]

theorem State.lanesTick_fixed (s : State) (n : Nat) (t0 : Int) (step : Nat) : (State.lanesTick s n t0 step).fixed = s.fixed := by
  unfold State.lanesTick
  repeat' (first
    | with_reducible rfl
    | (simp +zetaHave only [State.fixed_mk, State.fixed_eta, apply_ite State.fixed, apply_ite Prod.fst, ite_self, implies_true,
        State.each_fixed, State.laneTick_fixed, State.laneRun_fixed]; done)
    | split
    | intro _
    | (dsimp +zetaHave only)
    | refine (State.each_fixed _ _ _ ?_).trans ?_)

theorem State.laneForce_fixed (s : State) (n : Nat) : (State.laneForce s n).fixed = s.fixed := by
  unfold State.laneForce
  repeat' (first
    | with_reducible rfl
    | (simp +zetaHave only [State.fixed_mk, State.fixed_eta, apply_ite State.fixed, apply_ite Prod.fst, ite_self, implies_true,
        State.laneTick_fixed]; done)
    | split
    | intro _
    | (dsimp +zetaHave only))

theorem State.relayAll_fixed (s : State) (n : Nat) (l : List DownWord) : (State.relayAll s n l).fixed = s.fixed := by
  unfold State.relayAll
  repeat' (first
    | with_reducible rfl
    | (simp +zetaHave only [State.fixed_mk, State.fixed_eta, apply_ite State.fixed, apply_ite Prod.fst, ite_self, implies_true,
        State.modTap_fixed]; done)
    | split
    | intro _
    | (dsimp +zetaHave only))

theorem State.stretched_fixed (s : State) (n : Nat) : (State.stretched s n).fixed = s.fixed := by
  unfold State.stretched
  repeat' (first
    | with_reducible rfl
    | (simp +zetaHave only [State.fixed_mk, State.fixed_eta, apply_ite State.fixed, apply_ite Prod.fst, ite_self, implies_true,
        State.each_fixed, State.modTap_fixed, State.flagCrossing_fixed]; done)
    | split
    | intro _
    | (dsimp +zetaHave only)
    | refine (State.each_fixed _ _ _ ?_).trans ?_)

theorem State.tapEdge_fixed (s : State) (n : Nat) (str : Bool) : (State.tapEdge s n str).fixed = s.fixed := by
  unfold State.tapEdge
  repeat' (first
    | with_reducible rfl
    | (simp +zetaHave only [State.fixed_mk, State.fixed_eta, apply_ite State.fixed, apply_ite Prod.fst, ite_self, implies_true,
        State.foldl_fixed, State.foldl_fst_fixed, State.count_fixed, State.emit_fixed, State.evt_fixed,
        State.setTap_fixed, State.tapReport_fixed, State.stretched_fixed, State.lanesTick_fixed]; done)
    | split
    | intro _
    | (dsimp +zetaHave only)
    | refine (State.foldl_fixed _ _ _ ?_).trans ?_
    | refine (State.foldl_fst_fixed _ _ _ ?_).trans ?_)

theorem State.tapRun_fixed (s : State) (n k : Nat) : (s.tapRun n k).fixed = s.fixed := by
  induction k generalizing s with
  | zero => rfl
  | succ k ih => rw [State.tapRun, ih, State.tapEdge_fixed]

theorem State.tapUntil_fixed (s : State) (n k : Nat) (stop : Tap → Tap → Bool) : (s.tapUntil n k stop).fixed = s.fixed := by
  induction k generalizing s with
  | zero => rfl
  | succ k ih =>
    unfold State.tapUntil
    dsimp +zetaHave only
    split
    · exact State.tapEdge_fixed s n false
    · rw [ih, State.tapEdge_fixed]

theorem State.takeArm_fixed (s : State) (n : Nat) (line : Nat) (target : Int) (nw : Nat) (tol : Nat) : (State.takeArm s n line target nw tol).fixed = s.fixed := by
  unfold State.takeArm
  repeat' (first
    | with_reducible rfl
    | (simp +zetaHave only [State.fixed_mk, State.fixed_eta, apply_ite State.fixed, apply_ite Prod.fst, ite_self, implies_true,
        State.modTap_fixed, State.tapReport_fixed]; done)
    | split
    | intro _
    | (dsimp +zetaHave only))

theorem State.takeCancel_fixed (s : State) (n : Nat) (line : Nat) (target : Int) : (State.takeCancel s n line target).fixed = s.fixed := by
  unfold State.takeCancel
  repeat' (first
    | with_reducible rfl
    | (simp +zetaHave only [State.fixed_mk, State.fixed_eta, apply_ite State.fixed, apply_ite Prod.fst, ite_self, implies_true,
        State.setTap_fixed, State.tapReport_fixed]; done)
    | split
    | intro _
    | (dsimp +zetaHave only))

theorem State.sendDown_fixed (s : State) (w : DownWord) : (State.sendDown s w).fixed = s.fixed := by
  unfold State.sendDown
  repeat' (first
    | with_reducible rfl
    | (simp +zetaHave only [State.fixed_mk, State.fixed_eta, apply_ite State.fixed, apply_ite Prod.fst, ite_self, implies_true]; done)
    | split
    | intro _
    | (dsimp +zetaHave only))

theorem State.wordIn_fixed (s : State) (n : Nat) (k : Nat) : (State.wordIn s n k).fixed = s.fixed := by
  unfold State.wordIn
  repeat' (first
    | with_reducible rfl
    | (simp +zetaHave only [State.fixed_mk, State.fixed_eta, apply_ite State.fixed, apply_ite Prod.fst, ite_self, implies_true,
        State.count_fixed, State.setTap_fixed, State.flagCrossing_fixed, State.modTap_fixed]; done)
    | split
    | intro _
    | (dsimp +zetaHave only))

theorem State.arrive_fixed (s : State) (n : Nat) (w : DownWord) : (State.arrive s n w).fixed = s.fixed := by
  unfold State.arrive
  repeat' (first
    | with_reducible rfl
    | (simp +zetaHave only [State.fixed_mk, State.fixed_eta, apply_ite State.fixed, apply_ite Prod.fst, ite_self, implies_true,
        State.emit_fixed, State.relayAll_fixed, State.takeArm_fixed, State.takeCancel_fixed]; done)
    | split
    | intro _
    | (dsimp +zetaHave only))

theorem State.takeWord_fixed (s : State) (n : Nat) : (State.takeWord s n).fixed = s.fixed := by
  unfold State.takeWord
  repeat' (first
    | with_reducible rfl
    | (simp +zetaHave only [State.fixed_mk, State.fixed_eta, apply_ite State.fixed, apply_ite Prod.fst, ite_self, implies_true,
        State.setTap_fixed, State.wordIn_fixed, State.arrive_fixed]; done)
    | split
    | intro _
    | (dsimp +zetaHave only))

theorem State.upTo_fixed (s : State) (n : Nat) (p : DownWord → Bool) (fuel : Nat) : (s.upTo n p fuel).fixed = s.fixed := by
  induction fuel generalizing s with
  | zero => rfl
  | succ k ih =>
    unfold State.upTo
    dsimp +zetaHave only
    split
    · exact State.laneForce_fixed _ _
    · split
      · exact State.laneForce_fixed _ _
      · rw [ih, State.takeWord_fixed, State.laneForce_fixed]

theorem State.ahead_fixed (s : State) (n : Nat) (p : DownWord → Bool) : (State.ahead s n p).fixed = s.fixed := by
  unfold State.ahead
  repeat' (first
    | with_reducible rfl
    | (simp +zetaHave only [State.fixed_mk, State.fixed_eta, apply_ite State.fixed, apply_ite Prod.fst, ite_self, implies_true,
        State.upTo_fixed]; done)
    | split
    | intro _
    | (dsimp +zetaHave only))

theorem State.bring_fixed (s : State) (n : Nat) (p : DownWord → Bool) : (State.bring s n p).fixed = s.fixed := by
  unfold State.bring
  repeat' (first
    | with_reducible rfl
    | (simp +zetaHave only [State.fixed_mk, State.fixed_eta, apply_ite State.fixed, apply_ite Prod.fst, ite_self, implies_true,
        State.takeWord_fixed, State.ahead_fixed]; done)
    | split
    | intro _
    | (dsimp +zetaHave only))

theorem State.bringDown_fixed (s : State) (n : Nat) (p : DownWord → Bool) : (State.bringDown s n p).fixed = s.fixed := by
  unfold State.bringDown
  repeat' (first
    | with_reducible rfl
    | (simp +zetaHave only [State.fixed_mk, State.fixed_eta, apply_ite State.fixed, apply_ite Prod.fst, ite_self, implies_true,
        State.each_fixed, State.bring_fixed]; done)
    | split
    | intro _
    | (dsimp +zetaHave only)
    | refine (State.each_fixed _ _ _ ?_).trans ?_)

theorem State.capture_fixed (s : State) (n : Nat) (r : Nat) (m : MarkWord) : (State.capture s n r m).fixed = s.fixed := by
  unfold State.capture
  repeat' (first
    | with_reducible rfl
    | (simp +zetaHave only [State.fixed_mk, State.fixed_eta, apply_ite State.fixed, apply_ite Prod.fst, ite_self, implies_true,
        State.setTap_fixed, State.wordIn_fixed]; done)
    | split
    | intro _
    | (dsimp +zetaHave only))

theorem State.takeMark_fixed (s : State) (n : Nat) (r : Nat) : (State.takeMark s n r).fixed = s.fixed := by
  unfold State.takeMark
  repeat' (first
    | with_reducible rfl
    | (simp +zetaHave only [State.fixed_mk, State.fixed_eta, apply_ite State.fixed, apply_ite Prod.fst, ite_self, implies_true,
        State.capture_fixed, State.setTap_fixed, State.wordIn_fixed]; done)
    | split
    | intro _
    | (dsimp +zetaHave only))

theorem State.markIn_fixed (s : State) (n : Nat) (r : Nat) (step : Bool) : (State.markIn s n r step).fixed = s.fixed := by
  unfold State.markIn
  repeat' (first
    | with_reducible rfl
    | (simp +zetaHave only [State.fixed_mk, State.fixed_eta, apply_ite State.fixed, apply_ite Prod.fst, ite_self, implies_true,
        State.ahead_fixed, State.takeMark_fixed]; done)
    | split
    | intro _
    | (dsimp +zetaHave only))

theorem State.startCal_fixed (s : State) : (State.startCal s).fixed = s.fixed := by
  unfold State.startCal
  repeat' (first
    | with_reducible rfl
    | (simp +zetaHave only [State.fixed_mk, State.fixed_eta, apply_ite State.fixed, apply_ite Prod.fst, ite_self, implies_true,
        State.each_fixed, State.busy_fixed, State.setTap_fixed, State.modTap_fixed]; done)
    | split
    | intro _
    | (dsimp +zetaHave only)
    | refine (State.each_fixed _ _ _ ?_).trans ?_)

theorem State.calOne_fixed (s : State) (rs : List CalResult) (n : Nat) : (State.calOne s rs n).fixed = s.fixed := by
  unfold State.calOne
  repeat' (first
    | with_reducible rfl
    | (simp +zetaHave only [State.fixed_mk, State.fixed_eta, apply_ite State.fixed, apply_ite Prod.fst, ite_self, implies_true,
        State.raise_fixed, State.modTap_fixed]; done)
    | split
    | intro _
    | (dsimp +zetaHave only))

theorem State.calDone_fixed (s : State) (rs : List CalResult) : (State.calDone s rs).fixed = s.fixed := by
  unfold State.calDone
  repeat' (first
    | with_reducible rfl
    | (simp +zetaHave only [State.fixed_mk, State.fixed_eta, apply_ite State.fixed, apply_ite Prod.fst, ite_self, implies_true,
        State.each_fixed, State.busy_fixed, State.modTap_fixed, State.calOne_fixed]; done)
    | split
    | intro _
    | (dsimp +zetaHave only)
    | refine (State.each_fixed _ _ _ ?_).trans ?_)

theorem State.recalOne_fixed (s : State) (r : CalResult) : (State.recalOne s r).fixed = s.fixed := by
  unfold State.recalOne
  repeat' (first
    | with_reducible rfl
    | (simp +zetaHave only [State.fixed_mk, State.fixed_eta, apply_ite State.fixed, apply_ite Prod.fst, ite_self, implies_true,
        State.each_fixed, State.raise_fixed, State.setTap_fixed, State.modTap_fixed, State.endLaunches_fixed]; done)
    | split
    | intro _
    | (dsimp +zetaHave only)
    | refine (State.each_fixed _ _ _ ?_).trans ?_)

theorem State.chainOff_fixed (s : State) : (State.chainOff s).fixed = s.fixed := by
  unfold State.chainOff
  repeat' (first
    | with_reducible rfl
    | (simp +zetaHave only [State.fixed_mk, State.fixed_eta, apply_ite State.fixed, apply_ite Prod.fst, ite_self, implies_true,
        State.each_fixed, State.foldl_fixed, State.foldl_fst_fixed, State.busy_fixed, State.setTap_fixed,
        State.endLaunches_fixed, State.modTap_fixed, State.tapReport_fixed]; done)
    | split
    | intro _
    | (dsimp +zetaHave only)
    | refine (State.each_fixed _ _ _ ?_).trans ?_
    | refine (State.foldl_fixed _ _ _ ?_).trans ?_
    | refine (State.foldl_fst_fixed _ _ _ ?_).trans ?_)

theorem State.battenCtl_fixed (s : State) (v : Nat) : (State.battenCtl s v).fixed = s.fixed := by
  unfold State.battenCtl
  repeat' (first
    | with_reducible rfl
    | (simp +zetaHave only [State.fixed_mk, State.fixed_eta, apply_ite State.fixed, apply_ite Prod.fst, ite_self, implies_true,
        State.wr_fixed, State.startCal_fixed]; done)
    | split
    | intro _
    | (dsimp +zetaHave only))

theorem State.battenBoundary_fixed (s : State) : (State.battenBoundary s).fixed = s.fixed := by
  unfold State.battenBoundary
  repeat' (first
    | with_reducible rfl
    | (simp +zetaHave only [State.fixed_mk, State.fixed_eta, apply_ite State.fixed, apply_ite Prod.fst, ite_self, implies_true,
        State.busy_fixed, State.startCal_fixed, State.chainOff_fixed]; done)
    | split
    | intro _
    | (dsimp +zetaHave only))

theorem State.headMark_fixed (s : State) (code : Nat) : (State.headMark s code).fixed = s.fixed := by
  unfold State.headMark
  repeat' (first
    | with_reducible rfl
    | (simp +zetaHave only [State.fixed_mk, State.fixed_eta, apply_ite State.fixed, apply_ite Prod.fst, ite_self, implies_true,
        State.each_fixed, State.modTap_fixed]; done)
    | split
    | intro _
    | (dsimp +zetaHave only)
    | refine (State.each_fixed _ _ _ ?_).trans ?_)

end Sys2Proof.Machine
end

