-- ==== Sys2Proof/Laws/FrameObjects.lean ====
section
/-! SUPPORT. Sys2Proof/Laws/FrameObjects.lean: no operation of Machine/Objects.lean touches the queue, the tie-offs or the start
phase of the block. -/

set_option linter.all false
set_option Elab.async false

namespace Sys2Proof.Machine
open Sys2Proof.Config
set_option linter.unusedSimpArgs false

theorem State.setSlot_fixed (s : State) (k : Nat) (v : Slot) : (State.setSlot s k v).fixed = s.fixed := by
  unfold State.setSlot
  repeat' (first
    | with_reducible rfl
    | (simp +zetaHave only [State.fixed_mk, State.fixed_eta, apply_ite State.fixed, apply_ite Prod.fst, ite_self, implies_true]; done)
    | split
    | intro _
    | (dsimp +zetaHave only))

theorem State.modCtx_fixed (s : State) (x : Nat) (f : Ctx → Ctx) : (State.modCtx s x f).fixed = s.fixed := by
  unfold State.modCtx
  repeat' (first
    | with_reducible rfl
    | (simp +zetaHave only [State.fixed_mk, State.fixed_eta, apply_ite State.fixed, apply_ite Prod.fst, ite_self, implies_true]; done)
    | split
    | intro _
    | (dsimp +zetaHave only))

theorem State.ended_fixed (s : State) (h : Nat) (r : Nat) : (State.ended s h r).fixed = s.fixed := by
  unfold State.ended
  repeat' (first
    | with_reducible rfl
    | (simp +zetaHave only [State.fixed_mk, State.fixed_eta, apply_ite State.fixed, apply_ite Prod.fst, ite_self, implies_true,
        State.count_fixed, State.raiseIf_fixed, State.evt_fixed, State.modCtx_fixed]; done)
    | split
    | intro _
    | (dsimp +zetaHave only))

theorem State.noteLast_fixed (s : State) (k : Nat) (r : Nat) : (State.noteLast s k r).fixed = s.fixed := by
  unfold State.noteLast
  repeat' (first
    | with_reducible rfl
    | (simp +zetaHave only [State.fixed_mk, State.fixed_eta, apply_ite State.fixed, apply_ite Prod.fst, ite_self, implies_true,
        State.setSlot_fixed]; done)
    | split
    | intro _
    | (dsimp +zetaHave only))

theorem State.valueOf_fixed (s : State) (v : Option Nat) : (State.valueOf s v).1.fixed = s.fixed := by
  unfold State.valueOf
  repeat' (first
    | with_reducible rfl
    | (simp +zetaHave only [State.fixed_mk, State.fixed_eta, apply_ite State.fixed, apply_ite Prod.fst, ite_self, implies_true,
        State.drawFree_fixed]; done)
    | split
    | intro _
    | (dsimp +zetaHave only))

theorem State.respond_fixed (s : State) (r : EngReq) (res : Nat) (val : Nat) : (State.respond s r res val).fixed = s.fixed := by
  unfold State.respond
  repeat' (first
    | with_reducible rfl
    | (simp +zetaHave only [State.fixed_mk, State.fixed_eta, apply_ite State.fixed, apply_ite Prod.fst, ite_self, implies_true,
        State.emit_fixed]; done)
    | split
    | intro _
    | (dsimp +zetaHave only))

theorem State.endEngine_fixed (s : State) (r : EngReq) (res : Nat) : (State.endEngine s r res).fixed = s.fixed := by
  unfold State.endEngine
  repeat' (first
    | with_reducible rfl
    | (simp +zetaHave only [State.fixed_mk, State.fixed_eta, apply_ite State.fixed, apply_ite Prod.fst, ite_self, implies_true,
        State.ended_fixed, State.valueOf_fixed, State.respond_fixed]; done)
    | split
    | intro _
    | (dsimp +zetaHave only))

theorem State.refresh_fixed (s : State) (k : Nat) : (State.refresh s k).fixed = s.fixed := by
  unfold State.refresh
  repeat' (first
    | with_reducible rfl
    | (simp +zetaHave only [State.fixed_mk, State.fixed_eta, apply_ite State.fixed, apply_ite Prod.fst, ite_self, implies_true,
        State.setSlot_fixed]; done)
    | split
    | intro _
    | (dsimp +zetaHave only))

theorem State.endWaiter_fixed (s : State) (w : Waiter) (res : Nat) (val : Nat) (hold : Bool) : (State.endWaiter s w res val hold).fixed = s.fixed := by
  unfold State.endWaiter
  repeat' (first
    | with_reducible rfl
    | (simp +zetaHave only [State.fixed_mk, State.fixed_eta, apply_ite State.fixed, apply_ite Prod.fst, ite_self, implies_true,
        State.emit_fixed, State.ended_fixed, State.noteLast_fixed]; done)
    | split
    | intro _
    | (dsimp +zetaHave only))

theorem State.failWaiter_fixed (s : State) (w : Waiter) (res : Nat) (hold : Bool) : (State.failWaiter s w res hold).fixed = s.fixed := by
  unfold State.failWaiter
  repeat' (first
    | with_reducible rfl
    | (simp +zetaHave only [State.fixed_mk, State.fixed_eta, apply_ite State.fixed, apply_ite Prod.fst, ite_self, implies_true,
        State.valueOf_fixed, State.endWaiter_fixed]; done)
    | split
    | intro _
    | (dsimp +zetaHave only))

theorem State.reeval_fixed (s : State) (k : Nat) : (State.reeval s k).fixed = s.fixed := by
  unfold State.reeval
  repeat' (first
    | with_reducible rfl
    | (simp +zetaHave only [State.fixed_mk, State.fixed_eta, apply_ite State.fixed, apply_ite Prod.fst, ite_self, implies_true,
        State.foldl_fixed, State.foldl_fst_fixed, State.setSlot_fixed, State.valueOf_fixed, State.endWaiter_fixed]; done)
    | split
    | intro _
    | (dsimp +zetaHave only)
    | refine (State.foldl_fixed _ _ _ ?_).trans ?_
    | refine (State.foldl_fst_fixed _ _ _ ?_).trans ?_)

theorem State.barrierAfter_fixed (s : State) (h : Nat) (k : Nat) : (State.barrierAfter s h k).fixed = s.fixed := by
  unfold State.barrierAfter
  repeat' (first
    | with_reducible rfl
    | (simp +zetaHave only [State.fixed_mk, State.fixed_eta, apply_ite State.fixed, apply_ite Prod.fst, ite_self, implies_true,
        State.foldl_fixed, State.foldl_fst_fixed, State.contributeHeld_fixed]; done)
    | split
    | intro _
    | (dsimp +zetaHave only)
    | refine (State.foldl_fixed _ _ _ ?_).trans ?_
    | refine (State.foldl_fst_fixed _ _ _ ?_).trans ?_)

theorem State.afterOp_fixed (s : State) (op : Nat) (h : Nat) (k : Nat) (res : Nat) : (State.afterOp s op h k res).fixed = s.fixed := by
  unfold State.afterOp
  repeat' (first
    | with_reducible rfl
    | (simp +zetaHave only [State.fixed_mk, State.fixed_eta, apply_ite State.fixed, apply_ite Prod.fst, ite_self, implies_true,
        State.reeval_fixed, State.barrierAfter_fixed]; done)
    | split
    | intro _
    | (dsimp +zetaHave only))

theorem State.opAt_fixed (s : State) (op : Nat) (operand : Nat) (h : Nat) (k : Nat) : (State.opAt s op operand h k).1.fixed = s.fixed := by
  unfold State.opAt
  repeat' (first
    | with_reducible rfl
    | (simp +zetaHave only [State.fixed_mk, State.fixed_eta, apply_ite State.fixed, apply_ite Prod.fst, ite_self, implies_true,
        State.setSlot_fixed, State.ended_fixed, State.noteLast_fixed, State.valueOf_fixed, State.refresh_fixed,
        State.afterOp_fixed]; done)
    | split
    | intro _
    | (dsimp +zetaHave only))

theorem State.engineAt_fixed (s : State) (op : Nat) (r : EngReq) (course : Nat) (k : Nat) : (State.engineAt s op r course k).fixed = s.fixed := by
  unfold State.engineAt
  repeat' (first
    | with_reducible rfl
    | (simp +zetaHave only [State.fixed_mk, State.fixed_eta, apply_ite State.fixed, apply_ite Prod.fst, ite_self, implies_true,
        State.evt_fixed, State.setSlot_fixed, State.ended_fixed, State.noteLast_fixed, State.valueOf_fixed,
        State.respond_fixed, State.endEngine_fixed, State.refresh_fixed, State.afterOp_fixed]; done)
    | split
    | intro _
    | (dsimp +zetaHave only))

theorem State.issueTrans_fixed (s : State) (h : Nat) (who : TransFor) : (State.issueTrans s h who).fixed = s.fixed := by
  unfold State.issueTrans
  repeat' (first
    | with_reducible rfl
    | (simp +zetaHave only [State.fixed_mk, State.fixed_eta, apply_ite State.fixed, apply_ite Prod.fst, ite_self, implies_true,
        State.count_fixed, State.memRead_fixed]; done)
    | split
    | intro _
    | (dsimp +zetaHave only))

theorem State.localReq_fixed (s : State) (op : Nat) (r : EngReq) (course : Nat) : (State.localReq s op r course).fixed = s.fixed := by
  unfold State.localReq
  repeat' (first
    | with_reducible rfl
    | (simp +zetaHave only [State.fixed_mk, State.fixed_eta, apply_ite State.fixed, apply_ite Prod.fst, ite_self, implies_true,
        State.endEngine_fixed, State.engineAt_fixed, State.issueTrans_fixed]; done)
    | split
    | intro _
    | (dsimp +zetaHave only))

theorem State.fencedReq_fixed (s : State) (op : Nat) (r : EngReq) (course : Nat) : (State.fencedReq s op r course).fixed = s.fixed := by
  unfold State.fencedReq
  repeat' (first
    | with_reducible rfl
    | (simp +zetaHave only [State.fixed_mk, State.fixed_eta, apply_ite State.fixed, apply_ite Prod.fst, ite_self, implies_true,
        State.endEngine_fixed, State.localReq_fixed]; done)
    | split
    | intro _
    | (dsimp +zetaHave only))

theorem State.sendObj_fixed (s : State) (b : Body) : (State.sendObj s b).fixed = s.fixed := by
  unfold State.sendObj
  repeat' (first
    | with_reducible rfl
    | (simp +zetaHave only [State.fixed_mk, State.fixed_eta, apply_ite State.fixed, apply_ite Prod.fst, ite_self, implies_true,
        State.xsend_fixed]; done)
    | split
    | intro _
    | (dsimp +zetaHave only))

theorem State.remoteReq_fixed (s : State) (op : Nat) (r : EngReq) : (State.remoteReq s op r).fixed = s.fixed := by
  unfold State.remoteReq
  repeat' (first
    | with_reducible rfl
    | (simp +zetaHave only [State.fixed_mk, State.fixed_eta, apply_ite State.fixed, apply_ite Prod.fst, ite_self, implies_true,
        State.endEngine_fixed, State.sendObj_fixed]; done)
    | split
    | intro _
    | (dsimp +zetaHave only))

theorem State.engine_fixed (s : State) (op : Nat) (r : EngReq) : (State.engine s op r).fixed = s.fixed := by
  unfold State.engine
  repeat' (first
    | with_reducible rfl
    | (simp +zetaHave only [State.fixed_mk, State.fixed_eta, apply_ite State.fixed, apply_ite Prod.fst, ite_self, implies_true,
        State.endEngine_fixed, State.localReq_fixed, State.fencedReq_fixed, State.remoteReq_fixed]; done)
    | split
    | intro _
    | (dsimp +zetaHave only))

theorem State.drainTap_fixed (s : State) (tap : Nat) : (State.drainTap s tap).fixed = s.fixed := by
  unfold State.drainTap
  repeat' (first
    | with_reducible rfl
    | (simp +zetaHave only [State.fixed_mk, State.fixed_eta, apply_ite State.fixed, apply_ite Prod.fst, ite_self, implies_true,
        State.foldl_fixed, State.foldl_fst_fixed, State.localReq_fixed]; done)
    | split
    | intro _
    | (dsimp +zetaHave only)
    | refine (State.foldl_fixed _ _ _ ?_).trans ?_
    | refine (State.foldl_fst_fixed _ _ _ ?_).trans ?_)

theorem State.wack_fixed (s : State) (tap : Nat) (tag : Nat) : (State.wack s tap tag).fixed = s.fixed := by
  unfold State.wack
  repeat' (first
    | with_reducible rfl
    | (simp +zetaHave only [State.fixed_mk, State.fixed_eta, apply_ite State.fixed, apply_ite Prod.fst, ite_self, implies_true,
        State.count_fixed, State.localReq_fixed]; done)
    | split
    | intro _
    | (dsimp +zetaHave only))

theorem State.programOp_fixed (s : State) (op : Nat) (operand : Nat) (h : Nat) : (State.programOp s op operand h).1.fixed = s.fixed := by
  unfold State.programOp
  repeat' (first
    | with_reducible rfl
    | (simp +zetaHave only [State.fixed_mk, State.fixed_eta, apply_ite State.fixed, apply_ite Prod.fst, ite_self, implies_true,
        State.ended_fixed, State.valueOf_fixed, State.opAt_fixed, State.issueTrans_fixed]; done)
    | split
    | intro _
    | (dsimp +zetaHave only))

theorem State.commandTrans_fixed (s : State) (h : Nat) (own : Bool) : (State.commandTrans s h own).1.fixed = s.fixed := by
  unfold State.commandTrans
  repeat' (first
    | with_reducible rfl
    | (simp +zetaHave only [State.fixed_mk, State.fixed_eta, apply_ite State.fixed, apply_ite Prod.fst, ite_self, implies_true,
        State.issueTrans_fixed]; done)
    | split
    | intro _
    | (dsimp +zetaHave only))

theorem State.doneSignal_fixed (s : State) (h : Nat) : (State.doneSignal s h).fixed = s.fixed := by
  unfold State.doneSignal
  repeat' (first
    | with_reducible rfl
    | (simp +zetaHave only [State.fixed_mk, State.fixed_eta, apply_ite State.fixed, apply_ite Prod.fst, ite_self, implies_true,
        State.ended_fixed, State.opAt_fixed, State.issueTrans_fixed]; done)
    | split
    | intro _
    | (dsimp +zetaHave only))

theorem State.answer_fixed (s : State) (src : Nat) (rtag : Nat) (res : Nat) (val : Option Nat) : (State.answer s src rtag res val).fixed = s.fixed := by
  unfold State.answer
  repeat' (first
    | with_reducible rfl
    | (simp +zetaHave only [State.fixed_mk, State.fixed_eta, apply_ite State.fixed, apply_ite Prod.fst, ite_self, implies_true,
        State.valueOf_fixed, State.sendObj_fixed]; done)
    | split
    | intro _
    | (dsimp +zetaHave only))

theorem State.remoteAt_fixed (s : State) (m : ObjReqMsg) (src : Nat) (k : Nat) : (State.remoteAt s m src k).fixed = s.fixed := by
  unfold State.remoteAt
  repeat' (first
    | with_reducible rfl
    | (simp +zetaHave only [State.fixed_mk, State.fixed_eta, apply_ite State.fixed, apply_ite Prod.fst, ite_self, implies_true,
        State.opAt_fixed, State.answer_fixed]; done)
    | split
    | intro _
    | (dsimp +zetaHave only))

theorem State.remoteApply_fixed (s : State) (m : ObjReqMsg) (src : Nat) (course : Nat) : (State.remoteApply s m src course).fixed = s.fixed := by
  unfold State.remoteApply
  repeat' (first
    | with_reducible rfl
    | (simp +zetaHave only [State.fixed_mk, State.fixed_eta, apply_ite State.fixed, apply_ite Prod.fst, ite_self, implies_true,
        State.ended_fixed, State.issueTrans_fixed, State.answer_fixed, State.remoteAt_fixed]; done)
    | split
    | intro _
    | (dsimp +zetaHave only))

theorem State.transFor_fixed (s : State) (key : Nat) (res : TransRes) (who : TransFor) : (State.transFor s key res who).fixed = s.fixed := by
  unfold State.transFor
  repeat' (first
    | with_reducible rfl
    | (simp +zetaHave only [State.fixed_mk, State.fixed_eta, apply_ite State.fixed, apply_ite Prod.fst, ite_self, implies_true,
        State.ended_fixed, State.endEngine_fixed, State.opAt_fixed, State.engineAt_fixed, State.engine_fixed,
        State.drainTap_fixed, State.answer_fixed, State.remoteAt_fixed]; done)
    | split
    | intro _
    | (dsimp +zetaHave only))

theorem State.transDone_fixed (s : State) (key : Nat) (entry : Nat) (bad : Bool) : (State.transDone s key entry bad).fixed = s.fixed := by
  unfold State.transDone
  repeat' (first
    | with_reducible rfl
    | (simp +zetaHave only [State.fixed_mk, State.fixed_eta, apply_ite State.fixed, apply_ite Prod.fst, ite_self, implies_true,
        State.transFor_fixed]; done)
    | split
    | intro _
    | (dsimp +zetaHave only))

theorem State.endCtx_fixed (s : State) (x : Nat) (res : Nat) : (State.endCtx s x res).fixed = s.fixed := by
  unfold State.endCtx
  repeat' (first
    | with_reducible rfl
    | (simp +zetaHave only [State.fixed_mk, State.fixed_eta, apply_ite State.fixed, apply_ite Prod.fst, ite_self, implies_true,
        State.foldl_fixed, State.foldl_fst_fixed, State.endEngine_fixed, State.failWaiter_fixed]; done)
    | split
    | intro _
    | (dsimp +zetaHave only)
    | refine (State.foldl_fixed _ _ _ ?_).trans ?_
    | refine (State.foldl_fst_fixed _ _ _ ?_).trans ?_)

theorem State.clearCtx_fixed (s : State) (x : Nat) : (State.clearCtx s x).fixed = s.fixed := by
  unfold State.clearCtx
  repeat' (first
    | with_reducible rfl
    | (simp +zetaHave only [State.fixed_mk, State.fixed_eta, apply_ite State.fixed, apply_ite Prod.fst, ite_self, implies_true,
        State.modCtx_fixed, State.endCtx_fixed]; done)
    | split
    | intro _
    | (dsimp +zetaHave only))

theorem State.releaseCtx_fixed (s : State) (x : Nat) : (State.releaseCtx s x).fixed = s.fixed := by
  unfold State.releaseCtx
  repeat' (first
    | with_reducible rfl
    | (simp +zetaHave only [State.fixed_mk, State.fixed_eta, apply_ite State.fixed, apply_ite Prod.fst, ite_self, implies_true,
        State.modCtx_fixed, State.endCtx_fixed]; done)
    | split
    | intro _
    | (dsimp +zetaHave only))

theorem State.defineCtx_fixed (s : State) (x : Nat) (ovf : Bool) (segs : List (Nat × Nat)) : (State.defineCtx s x ovf segs).fixed = s.fixed := by
  unfold State.defineCtx
  repeat' (first
    | with_reducible rfl
    | (simp +zetaHave only [State.fixed_mk, State.fixed_eta, apply_ite State.fixed, apply_ite Prod.fst, ite_self, implies_true,
        State.modCtx_fixed]; done)
    | split
    | intro _
    | (dsimp +zetaHave only))

theorem State.initSlot_fixed (s : State) (x : Nat) (k : Nat) (kind : Nat) (e : Nat) : (State.initSlot s x k kind e).fixed = s.fixed := by
  unfold State.initSlot
  repeat' (first
    | with_reducible rfl
    | (simp +zetaHave only [State.fixed_mk, State.fixed_eta, apply_ite State.fixed, apply_ite Prod.fst, ite_self, implies_true,
        State.setSlot_fixed]; done)
    | split
    | intro _
    | (dsimp +zetaHave only))

theorem State.scrub_fixed (s : State) : (State.scrub s).fixed = s.fixed := by
  unfold State.scrub
  repeat' (first
    | with_reducible rfl
    | (simp +zetaHave only [State.fixed_mk, State.fixed_eta, apply_ite State.fixed, apply_ite Prod.fst, ite_self, implies_true,
        State.foldl_fixed, State.foldl_fst_fixed, State.modCtx_fixed, State.refresh_fixed]; done)
    | split
    | intro _
    | (dsimp +zetaHave only)
    | refine (State.foldl_fixed _ _ _ ?_).trans ?_
    | refine (State.foldl_fst_fixed _ _ _ ?_).trans ?_)

theorem State.heldDeadlines_fixed (s : State) (n : Nat) : (State.heldDeadlines s n).fixed = s.fixed := by
  unfold State.heldDeadlines
  repeat' (first
    | with_reducible rfl
    | (simp +zetaHave only [State.fixed_mk, State.fixed_eta, apply_ite State.fixed, apply_ite Prod.fst, ite_self, implies_true,
        State.foldl_fixed, State.foldl_fst_fixed, State.endEngine_fixed, State.engine_fixed, State.drainTap_fixed]; done)
    | split
    | intro _
    | (dsimp +zetaHave only)
    | refine (State.foldl_fixed _ _ _ ?_).trans ?_
    | refine (State.foldl_fst_fixed _ _ _ ?_).trans ?_)

theorem State.objDeadlines_fixed (s : State) (n : Nat) : (State.objDeadlines s n).fixed = s.fixed := by
  unfold State.objDeadlines
  repeat' (first
    | with_reducible rfl
    | (simp +zetaHave only [State.fixed_mk, State.fixed_eta, apply_ite State.fixed, apply_ite Prod.fst, ite_self, implies_true,
        State.foldl_fixed, State.foldl_fst_fixed, State.failWaiter_fixed, State.heldDeadlines_fixed]; done)
    | split
    | intro _
    | (dsimp +zetaHave only)
    | refine (State.foldl_fixed _ _ _ ?_).trans ?_
    | refine (State.foldl_fst_fixed _ _ _ ?_).trans ?_)

theorem State.fenceTimeouts_fixed (s : State) (t : Nat) : (State.fenceTimeouts s t).fixed = s.fixed := by
  unfold State.fenceTimeouts
  repeat' (first
    | with_reducible rfl
    | (simp +zetaHave only [State.fixed_mk, State.fixed_eta, apply_ite State.fixed, apply_ite Prod.fst, ite_self, implies_true,
        State.foldl_fixed, State.foldl_fst_fixed, State.endEngine_fixed]; done)
    | split
    | intro _
    | (dsimp +zetaHave only)
    | refine (State.foldl_fixed _ _ _ ?_).trans ?_
    | refine (State.foldl_fst_fixed _ _ _ ?_).trans ?_)

theorem State.remoteTimeouts_fixed (s : State) (t : Nat) : (State.remoteTimeouts s t).fixed = s.fixed := by
  unfold State.remoteTimeouts
  repeat' (first
    | with_reducible rfl
    | (simp +zetaHave only [State.fixed_mk, State.fixed_eta, apply_ite State.fixed, apply_ite Prod.fst, ite_self, implies_true,
        State.foldl_fixed, State.foldl_fst_fixed, State.endEngine_fixed]; done)
    | split
    | intro _
    | (dsimp +zetaHave only)
    | refine (State.foldl_fixed _ _ _ ?_).trans ?_
    | refine (State.foldl_fst_fixed _ _ _ ?_).trans ?_)

theorem State.deadlock_fixed (s : State) (t : Nat) (nc : Nat) : (State.deadlock s t nc).fixed = s.fixed := by
  unfold State.deadlock
  repeat' (first
    | with_reducible rfl
    | (simp +zetaHave only [State.fixed_mk, State.fixed_eta, apply_ite State.fixed, apply_ite Prod.fst, ite_self, implies_true,
        State.each_fixed, State.raise_fixed, State.modCtx_fixed]; done)
    | split
    | intro _
    | (dsimp +zetaHave only)
    | refine (State.each_fixed _ _ _ ?_).trans ?_)

theorem State.lendOut_fixed (s : State) (t : Nat) (nc : Nat) : (State.lendOut s t nc).fixed = s.fixed := by
  unfold State.lendOut
  repeat' (first
    | with_reducible rfl
    | (simp +zetaHave only [State.fixed_mk, State.fixed_eta, apply_ite State.fixed, apply_ite Prod.fst, ite_self, implies_true,
        State.foldl_fixed, State.foldl_fst_fixed, State.count_fixed, State.emit_fixed, State.evt_fixed]; done)
    | split
    | intro _
    | (dsimp +zetaHave only)
    | refine (State.foldl_fixed _ _ _ ?_).trans ?_
    | refine (State.foldl_fst_fixed _ _ _ ?_).trans ?_)

theorem State.lendReturns_fixed (s : State) (nc : Nat) : (State.lendReturns s nc).fixed = s.fixed := by
  unfold State.lendReturns
  repeat' (first
    | with_reducible rfl
    | (simp +zetaHave only [State.fixed_mk, State.fixed_eta, apply_ite State.fixed, apply_ite Prod.fst, ite_self, implies_true,
        State.foldl_fixed, State.foldl_fst_fixed, State.emit_fixed]; done)
    | split
    | intro _
    | (dsimp +zetaHave only)
    | refine (State.foldl_fixed _ _ _ ?_).trans ?_
    | refine (State.foldl_fst_fixed _ _ _ ?_).trans ?_)

theorem State.retAck_fixed (s : State) (id : Nat) : (State.retAck s id).fixed = s.fixed := by
  unfold State.retAck
  repeat' (first
    | with_reducible rfl
    | (simp +zetaHave only [State.fixed_mk, State.fixed_eta, apply_ite State.fixed, apply_ite Prod.fst, ite_self, implies_true,
        State.emit_fixed]; done)
    | split
    | intro _
    | (dsimp +zetaHave only))

theorem State.objBoundary_fixed (s : State) (n : Nat) (nc : Nat) (t : Nat) : (State.objBoundary s n nc t).fixed = s.fixed := by
  unfold State.objBoundary
  repeat' (first
    | with_reducible rfl
    | (simp +zetaHave only [State.fixed_mk, State.fixed_eta, apply_ite State.fixed, apply_ite Prod.fst, ite_self, implies_true,
        State.each_fixed, State.modCtx_fixed, State.scrub_fixed, State.objDeadlines_fixed, State.fenceTimeouts_fixed,
        State.remoteTimeouts_fixed, State.deadlock_fixed, State.lendOut_fixed, State.lendReturns_fixed]; done)
    | split
    | intro _
    | (dsimp +zetaHave only)
    | refine (State.each_fixed _ _ _ ?_).trans ?_)

theorem State.objStop_fixed (s : State) : (State.objStop s).fixed = s.fixed := by
  unfold State.objStop
  repeat' (first
    | with_reducible rfl
    | (simp +zetaHave only [State.fixed_mk, State.fixed_eta, apply_ite State.fixed, apply_ite Prod.fst, ite_self, implies_true,
        State.foldl_fixed, State.foldl_fst_fixed, State.emit_fixed, State.endEngine_fixed, State.failWaiter_fixed,
        State.engine_fixed]; done)
    | split
    | intro _
    | (dsimp +zetaHave only)
    | refine (State.foldl_fixed _ _ _ ?_).trans ?_
    | refine (State.foldl_fst_fixed _ _ _ ?_).trans ?_)

theorem State.objReset_fixed (s : State) : (State.objReset s).fixed = s.fixed := by
  unfold State.objReset
  repeat' (first
    | with_reducible rfl
    | (simp +zetaHave only [State.fixed_mk, State.fixed_eta, apply_ite State.fixed, apply_ite Prod.fst, ite_self, implies_true]; done)
    | split
    | intro _
    | (dsimp +zetaHave only))

theorem State.loseWord_fixed (s : State) (n : Nat) (p : DownWord → Bool) : (State.loseWord s n p).fixed = s.fixed := by
  unfold State.loseWord
  repeat' (first
    | with_reducible rfl
    | (simp +zetaHave only [State.fixed_mk, State.fixed_eta, apply_ite State.fixed, apply_ite Prod.fst, ite_self, implies_true,
        State.modTap_fixed, State.ahead_fixed]; done)
    | split
    | intro _
    | (dsimp +zetaHave only))

theorem State.dropWord_fixed (s : State) (n : Nat) (k : LostWord) : (State.dropWord s n k).fixed = s.fixed := by
  unfold State.dropWord
  repeat' (first
    | with_reducible rfl
    | (simp +zetaHave only [State.fixed_mk, State.fixed_eta, apply_ite State.fixed, apply_ite Prod.fst, ite_self, implies_true,
        State.modTap_fixed, State.count_fixed, State.emit_fixed, State.arrive_fixed, State.valueOf_fixed,
        State.endEngine_fixed, State.loseWord_fixed]; done)
    | split
    | intro _
    | (dsimp +zetaHave only))

theorem State.windowRead_fixed (s : State) (m : Master) (k : Nat) (sub : Nat) (wide : Bool) : (State.windowRead s m k sub wide).1.fixed = s.fixed := by
  unfold State.windowRead
  repeat' (first
    | with_reducible rfl
    | (simp +zetaHave only [State.fixed_mk, State.fixed_eta, apply_ite State.fixed, apply_ite Prod.fst, ite_self, implies_true]; done)
    | split
    | intro _
    | (dsimp +zetaHave only))

theorem State.tapRequest_fixed (s : State) (op : Nat) (r : EngReq) : (State.tapRequest s op r).fixed = s.fixed := by
  unfold State.tapRequest
  repeat' (first
    | with_reducible rfl
    | (simp +zetaHave only [State.fixed_mk, State.fixed_eta, apply_ite State.fixed, apply_ite Prod.fst, ite_self, implies_true,
        State.openGate_fixed, State.busy_fixed, State.wake_fixed, State.engine_fixed]; done)
    | split
    | intro _
    | (dsimp +zetaHave only))

theorem State.objForward_fixed (s : State) (dst : Nat) (b : Body) : (State.objForward s dst b).fixed = s.fixed := by
  unfold State.objForward
  repeat' (first
    | with_reducible rfl
    | (simp +zetaHave only [State.fixed_mk, State.fixed_eta, apply_ite State.fixed, apply_ite Prod.fst, ite_self, implies_true,
        State.count_fixed, State.xsend_fixed]; done)
    | split
    | intro _
    | (dsimp +zetaHave only))

end Sys2Proof.Machine
end

