-- ==== Sys2Proof/Laws/FrameHealth.lean ====
section
/-! SUPPORT. Sys2Proof/Laws/FrameHealth.lean: no operation of Machine/Health.lean touches the queue, the tie-offs or the start
phase of the block. -/

set_option linter.all false
set_option Elab.async false

namespace Sys2Proof.Machine
open Sys2Proof.Config
set_option linter.unusedSimpArgs false

theorem State.setHealth_fixed (s : State) (p : Nat) (h : Health) (reason : Nat) (nc : Nat) : (State.setHealth s p h reason nc).fixed = s.fixed := by
  unfold State.setHealth
  repeat' (first
    | with_reducible rfl
    | (simp +zetaHave only [State.fixed_mk, State.fixed_eta, apply_ite State.fixed, apply_ite Prod.fst, ite_self, implies_true,
        State.modPort_fixed]; done)
    | split
    | intro _
    | (dsimp +zetaHave only))

theorem State.retire_fixed (s : State) (p : Nat) (reason : Nat) (nc : Nat) : (State.retire s p reason nc).fixed = s.fixed := by
  unfold State.retire
  repeat' (first
    | with_reducible rfl
    | (simp +zetaHave only [State.fixed_mk, State.fixed_eta, apply_ite State.fixed, apply_ite Prod.fst, ite_self, implies_true,
        State.count_fixed, State.raise_fixed, State.evt_fixed, State.modPort_fixed, State.flushPort_fixed,
        State.dropExch_fixed, State.withdrawClock_fixed, State.pathFault_fixed, State.setHealth_fixed]; done)
    | split
    | intro _
    | (dsimp +zetaHave only))

theorem State.makeLive_fixed (s : State) (p : Nat) (nc : Nat) : (State.makeLive s p nc).fixed = s.fixed := by
  unfold State.makeLive
  repeat' (first
    | with_reducible rfl
    | (simp +zetaHave only [State.fixed_mk, State.fixed_eta, apply_ite State.fixed, apply_ite Prod.fst, ite_self, implies_true,
        State.count_fixed, State.sendHeldLogs_fixed, State.resendMoves_fixed, State.setHealth_fixed]; done)
    | split
    | intro _
    | (dsimp +zetaHave only))

theorem State.probation_fixed (s : State) (p : Nat) (reason : Nat) (nc : Nat) : (State.probation s p reason nc).fixed = s.fixed := by
  unfold State.probation
  repeat' (first
    | with_reducible rfl
    | (simp +zetaHave only [State.fixed_mk, State.fixed_eta, apply_ite State.fixed, apply_ite Prod.fst, ite_self, implies_true,
        State.count_fixed, State.raise_fixed, State.setHealth_fixed]; done)
    | split
    | intro _
    | (dsimp +zetaHave only))

theorem State.startAdmission_fixed (s : State) (p : Nat) : (State.startAdmission s p).fixed = s.fixed := by
  unfold State.startAdmission
  repeat' (first
    | with_reducible rfl
    | (simp +zetaHave only [State.fixed_mk, State.fixed_eta, apply_ite State.fixed, apply_ite Prod.fst, ite_self, implies_true,
        State.modPort_fixed, State.flushPort_fixed, State.dropExch_fixed, State.restartLink_fixed,
        State.setHealth_fixed]; done)
    | split
    | intro _
    | (dsimp +zetaHave only))

theorem State.judge_fixed (s : State) (p : Nat) (reason : Nat) (nc : Nat) : (State.judge s p reason nc).fixed = s.fixed := by
  unfold State.judge
  repeat' (first
    | with_reducible rfl
    | (simp +zetaHave only [State.fixed_mk, State.fixed_eta, apply_ite State.fixed, apply_ite Prod.fst, ite_self, implies_true,
        Rx.drop_fixed, State.retire_fixed, State.probation_fixed]; done)
    | split
    | intro _
    | (dsimp +zetaHave only))

theorem State.decay_fixed (s : State) (nc : Nat) : (State.decay s nc).fixed = s.fixed := by
  unfold State.decay
  repeat' (first
    | with_reducible rfl
    | (simp +zetaHave only [State.fixed_mk, State.fixed_eta, apply_ite State.fixed, apply_ite Prod.fst, ite_self, implies_true,
        State.each_fixed, State.modPort_fixed, State.openGate_fixed]; done)
    | split
    | intro _
    | (dsimp +zetaHave only)
    | refine (State.each_fixed _ _ _ ?_).trans ?_)

theorem State.expireRecords_fixed (s : State) (nc : Nat) : (State.expireRecords s nc).fixed = s.fixed := by
  unfold State.expireRecords
  repeat' (first
    | with_reducible rfl
    | (simp +zetaHave only [State.fixed_mk, State.fixed_eta, apply_ite State.fixed, apply_ite Prod.fst, ite_self, implies_true]; done)
    | split
    | intro _
    | (dsimp +zetaHave only))

theorem State.healthCommands_fixed (s : State) (nc : Nat) : (State.healthCommands s nc).fixed = s.fixed := by
  unfold State.healthCommands
  repeat' (first
    | with_reducible rfl
    | (simp +zetaHave only [State.fixed_mk, State.fixed_eta, apply_ite State.fixed, apply_ite Prod.fst, ite_self, implies_true,
        State.each_fixed, State.modPort_fixed, State.retire_fixed, State.makeLive_fixed, State.probation_fixed]; done)
    | split
    | intro _
    | (dsimp +zetaHave only)
    | refine (State.each_fixed _ _ _ ?_).trans ?_)

theorem State.admission_fixed (s : State) (p : Nat) (t : Nat) (nc : Nat) : (State.admission s p t nc).fixed = s.fixed := by
  unfold State.admission
  repeat' (first
    | with_reducible rfl
    | (simp +zetaHave only [State.fixed_mk, State.fixed_eta, apply_ite State.fixed, apply_ite Prod.fst, ite_self, implies_true,
        State.modPort_fixed, State.makeLive_fixed]; done)
    | split
    | intro _
    | (dsimp +zetaHave only))

theorem State.retireLost_fixed (s : State) (nc : Nat) : (State.retireLost s nc).fixed = s.fixed := by
  unfold State.retireLost
  repeat' (first
    | with_reducible rfl
    | (simp +zetaHave only [State.fixed_mk, State.fixed_eta, apply_ite State.fixed, apply_ite Prod.fst, ite_self, implies_true,
        State.each_fixed, State.retire_fixed]; done)
    | split
    | intro _
    | (dsimp +zetaHave only)
    | refine (State.each_fixed _ _ _ ?_).trans ?_)

theorem State.judgeAll_fixed (s : State) (nc : Nat) : (State.judgeAll s nc).fixed = s.fixed := by
  unfold State.judgeAll
  repeat' (first
    | with_reducible rfl
    | (simp +zetaHave only [State.fixed_mk, State.fixed_eta, apply_ite State.fixed, apply_ite Prod.fst, ite_self, implies_true,
        State.each_fixed, State.judge_fixed]; done)
    | split
    | intro _
    | (dsimp +zetaHave only)
    | refine (State.each_fixed _ _ _ ?_).trans ?_)

theorem State.probationExit_fixed (s : State) (p : Nat) (nc : Nat) : (State.probationExit s p nc).fixed = s.fixed := by
  unfold State.probationExit
  repeat' (first
    | with_reducible rfl
    | (simp +zetaHave only [State.fixed_mk, State.fixed_eta, apply_ite State.fixed, apply_ite Prod.fst, ite_self, implies_true,
        State.makeLive_fixed, State.probation_fixed, State.judge_fixed]; done)
    | split
    | intro _
    | (dsimp +zetaHave only))

theorem State.healthBoundary_fixed (s : State) (nc : Nat) (t : Nat) : (State.healthBoundary s nc t).fixed = s.fixed := by
  unfold State.healthBoundary
  repeat' (first
    | with_reducible rfl
    | (simp +zetaHave only [State.fixed_mk, State.fixed_eta, apply_ite State.fixed, apply_ite Prod.fst, ite_self, implies_true,
        State.each_fixed, State.modPort_fixed, State.probation_fixed, State.decay_fixed, State.expireRecords_fixed,
        State.healthCommands_fixed, State.admission_fixed, State.retireLost_fixed, State.judgeAll_fixed,
        State.probationExit_fixed]; done)
    | split
    | intro _
    | (dsimp +zetaHave only)
    | refine (State.each_fixed _ _ _ ?_).trans ?_)

theorem State.keepaliveLost_fixed (s : State) (p : Nat) : (State.keepaliveLost s p).fixed = s.fixed := by
  unfold State.keepaliveLost
  repeat' (first
    | with_reducible rfl
    | (simp +zetaHave only [State.fixed_mk, State.fixed_eta, apply_ite State.fixed, apply_ite Prod.fst, ite_self, implies_true,
        State.count_fixed, State.evt_fixed, State.setPort_fixed, State.pathFault_fixed]; done)
    | split
    | intro _
    | (dsimp +zetaHave only))

theorem State.cmdPortRetire_fixed (s : State) (p : Nat) (force : Bool) (t : State) (h : s.cmdPortRetire p force = some t) :
    t.fixed = s.fixed := by
  unfold State.cmdPortRetire at h
  dsimp +zetaHave only at h
  repeat' split at h
  · cases h
  · cases h
  · rw [← Option.some.inj h, State.modPort_fixed]

theorem State.cmdPortRestore_fixed (s : State) (p : Nat) (t : State) (h : s.cmdPortRestore p = some t) : t.fixed = s.fixed := by
  unfold State.cmdPortRestore at h
  split at h
  · rw [← Option.some.inj h, State.modPort_fixed]
  · rw [← Option.some.inj h, State.startAdmission_fixed]
  · cases h

theorem State.cmdPortSpare_fixed (s : State) (p id : Nat) (t : State) (h : s.cmdPortSpare p id = some t) : t.fixed = s.fixed := by
  unfold State.cmdPortSpare at h
  split at h
  · rw [← Option.some.inj h, State.startAdmission_fixed, State.modPort_fixed]
  · cases h

theorem State.kick_fixed (s : State) (m : Master) (v : Nat) : (State.kick s m v).fixed = s.fixed := by
  unfold State.kick
  repeat' (first
    | with_reducible rfl
    | (simp +zetaHave only [State.fixed_mk, State.fixed_eta, apply_ite State.fixed, apply_ite Prod.fst, ite_self, implies_true]; done)
    | split
    | intro _
    | (dsimp +zetaHave only))

theorem State.wdogExpire_fixed (s : State) : (State.wdogExpire s).fixed = s.fixed := by
  unfold State.wdogExpire
  repeat' (first
    | with_reducible rfl
    | (simp +zetaHave only [State.fixed_mk, State.fixed_eta, apply_ite State.fixed, apply_ite Prod.fst, ite_self, implies_true,
        State.count_fixed, State.underlayCause_fixed]; done)
    | split
    | intro _
    | (dsimp +zetaHave only))

theorem State.wdogBoundary_fixed (s : State) : (State.wdogBoundary s).fixed = s.fixed := by
  unfold State.wdogBoundary
  repeat' (first
    | with_reducible rfl
    | (simp +zetaHave only [State.fixed_mk, State.fixed_eta, apply_ite State.fixed, apply_ite Prod.fst, ite_self, implies_true,
        State.wdogExpire_fixed]; done)
    | split
    | intro _
    | (dsimp +zetaHave only))

theorem State.ulControl_fixed (s : State) (v : Nat) : (State.ulControl s v).fixed = s.fixed := by
  unfold State.ulControl
  repeat' (first
    | with_reducible rfl
    | (simp +zetaHave only [State.fixed_mk, State.fixed_eta, apply_ite State.fixed, apply_ite Prod.fst, ite_self, implies_true,
        State.underlayCause_fixed]; done)
    | split
    | intro _
    | (dsimp +zetaHave only))

end Sys2Proof.Machine
end

