-- ==== Sys2Proof/Laws/FrameRefs.lean ====
section
/-! SUPPORT. Sys2Proof/Laws/FrameRefs.lean: no operation of Machine/Refs.lean touches the queue, the tie-offs or the start
phase of the block. -/

set_option linter.all false
set_option Elab.async false

namespace Sys2Proof.Machine
open Sys2Proof.Config
set_option linter.unusedSimpArgs false

theorem State.candJump_fixed (s : State) (n : Nat) : (State.candJump s n).fixed = s.fixed := by
  unfold State.candJump
  repeat' (first
    | with_reducible rfl
    | (simp +zetaHave only [State.fixed_mk, State.fixed_eta, apply_ite State.fixed, apply_ite Prod.fst, ite_self, implies_true,
        State.count_fixed, State.setCand_fixed]; done)
    | split
    | intro _
    | (dsimp +zetaHave only))

theorem State.portClock_fixed (s : State) (p : Nat) (fifths : Int) : (State.portClock s p fifths).fixed = s.fixed := by
  unfold State.portClock
  repeat' (first
    | with_reducible rfl
    | (simp +zetaHave only [State.fixed_mk, State.fixed_eta, apply_ite State.fixed, apply_ite Prod.fst, ite_self, implies_true,
        State.modPort_fixed]; done)
    | split
    | intro _
    | (dsimp +zetaHave only))

theorem State.portTiming_fixed (s : State) : (State.portTiming s).fixed = s.fixed := by
  unfold State.portTiming
  repeat' (first
    | with_reducible rfl
    | (simp +zetaHave only [State.fixed_mk, State.fixed_eta, apply_ite State.fixed, apply_ite Prod.fst, ite_self, implies_true,
        State.each_fixed, State.foldl_fixed, State.foldl_fst_fixed, State.modPort_fixed, State.portClock_fixed]; done)
    | split
    | intro _
    | (dsimp +zetaHave only)
    | refine (State.each_fixed _ _ _ ?_).trans ?_
    | refine (State.foldl_fixed _ _ _ ?_).trans ?_
    | refine (State.foldl_fst_fixed _ _ _ ?_).trans ?_)

theorem State.candEdge_fixed (s : State) (n : Nat) (fifths : Int) (edges : Nat) : (State.candEdge s n fifths edges).fixed = s.fixed := by
  unfold State.candEdge
  repeat' (first
    | with_reducible rfl
    | (simp +zetaHave only [State.fixed_mk, State.fixed_eta, apply_ite State.fixed, apply_ite Prod.fst, ite_self, implies_true,
        State.modPort_fixed, State.setCand_fixed, State.candJump_fixed]; done)
    | split
    | intro _
    | (dsimp +zetaHave only))

theorem State.candNoEdge_fixed (s : State) (n : Nat) : (State.candNoEdge s n).fixed = s.fixed := by
  unfold State.candNoEdge
  repeat' (first
    | with_reducible rfl
    | (simp +zetaHave only [State.fixed_mk, State.fixed_eta, apply_ite State.fixed, apply_ite Prod.fst, ite_self, implies_true,
        State.setCand_fixed]; done)
    | split
    | intro _
    | (dsimp +zetaHave only))

theorem State.candTiming_fixed (s : State) (refs : List RefEdge) : (State.candTiming s refs).fixed = s.fixed := by
  unfold State.candTiming
  repeat' (first
    | with_reducible rfl
    | (simp +zetaHave only [State.fixed_mk, State.fixed_eta, apply_ite State.fixed, apply_ite Prod.fst, ite_self, implies_true,
        State.each_fixed, State.count_fixed, State.candEdge_fixed, State.candNoEdge_fixed]; done)
    | split
    | intro _
    | (dsimp +zetaHave only)
    | refine (State.each_fixed _ _ _ ?_).trans ?_)

theorem State.candGo_fixed (s : State) (n : Nat) (st : CandState) (t : Nat) : (State.candGo s n st t).fixed = s.fixed := by
  unfold State.candGo
  repeat' (first
    | with_reducible rfl
    | (simp +zetaHave only [State.fixed_mk, State.fixed_eta, apply_ite State.fixed, apply_ite Prod.fst, ite_self, implies_true,
        State.count_fixed, State.setCand_fixed]; done)
    | split
    | intro _
    | (dsimp +zetaHave only))

theorem State.candTimer_fixed (s : State) (n : Nat) (t : Nat) : (State.candTimer s n t).fixed = s.fixed := by
  unfold State.candTimer
  repeat' (first
    | with_reducible rfl
    | (simp +zetaHave only [State.fixed_mk, State.fixed_eta, apply_ite State.fixed, apply_ite Prod.fst, ite_self, implies_true,
        State.candGo_fixed]; done)
    | split
    | intro _
    | (dsimp +zetaHave only))

theorem State.candTests_fixed (s : State) (n : Nat) (t : Nat) : (State.candTests s n t).fixed = s.fixed := by
  unfold State.candTests
  repeat' (first
    | with_reducible rfl
    | (simp +zetaHave only [State.fixed_mk, State.fixed_eta, apply_ite State.fixed, apply_ite Prod.fst, ite_self, implies_true,
        State.count_fixed, State.candGo_fixed]; done)
    | split
    | intro _
    | (dsimp +zetaHave only))

theorem State.candMove_fixed (s : State) (n : Nat) (t : Nat) : (State.candMove s n t).fixed = s.fixed := by
  unfold State.candMove
  repeat' (first
    | with_reducible rfl
    | (simp +zetaHave only [State.fixed_mk, State.fixed_eta, apply_ite State.fixed, apply_ite Prod.fst, ite_self, implies_true,
        State.setCand_fixed, State.candGo_fixed, State.candTimer_fixed, State.candTests_fixed]; done)
    | split
    | intro _
    | (dsimp +zetaHave only))

theorem State.oscMove_fixed (s : State) (t : Nat) : (State.oscMove s t).fixed = s.fixed := by
  unfold State.oscMove
  repeat' (first
    | with_reducible rfl
    | (simp +zetaHave only [State.fixed_mk, State.fixed_eta, apply_ite State.fixed, apply_ite Prod.fst, ite_self, implies_true,
        State.candGo_fixed]; done)
    | split
    | intro _
    | (dsimp +zetaHave only))

theorem State.ppsLoss_fixed (s : State) (n : Nat) (t : Nat) : (State.ppsLoss s n t).fixed = s.fixed := by
  unfold State.ppsLoss
  repeat' (first
    | with_reducible rfl
    | (simp +zetaHave only [State.fixed_mk, State.fixed_eta, apply_ite State.fixed, apply_ite Prod.fst, ite_self, implies_true,
        State.setCand_fixed]; done)
    | split
    | intro _
    | (dsimp +zetaHave only))

theorem State.candBoundary_fixed (s : State) (t : Nat) : (State.candBoundary s t).fixed = s.fixed := by
  unfold State.candBoundary
  repeat' (first
    | with_reducible rfl
    | (simp +zetaHave only [State.fixed_mk, State.fixed_eta, apply_ite State.fixed, apply_ite Prod.fst, ite_self, implies_true,
        State.each_fixed, State.candMove_fixed, State.oscMove_fixed, State.ppsLoss_fixed]; done)
    | split
    | intro _
    | (dsimp +zetaHave only)
    | refine (State.each_fixed _ _ _ ?_).trans ?_)

theorem State.candReconfigure_fixed (s : State) (n : Nat) : (State.candReconfigure s n).fixed = s.fixed := by
  unfold State.candReconfigure
  repeat' (first
    | with_reducible rfl
    | (simp +zetaHave only [State.fixed_mk, State.fixed_eta, apply_ite State.fixed, apply_ite Prod.fst, ite_self, implies_true,
        State.setCand_fixed, State.candGo_fixed]; done)
    | split
    | intro _
    | (dsimp +zetaHave only))

theorem State.candCfgWrite_fixed (s : State) (n : Nat) (v : Nat) : (State.candCfgWrite s n v).fixed = s.fixed := by
  unfold State.candCfgWrite
  repeat' (first
    | with_reducible rfl
    | (simp +zetaHave only [State.fixed_mk, State.fixed_eta, apply_ite State.fixed, apply_ite Prod.fst, ite_self, implies_true,
        State.wr_fixed, State.candReconfigure_fixed]; done)
    | split
    | intro _
    | (dsimp +zetaHave only))

theorem State.candDelayWrite_fixed (s : State) (n : Nat) (v : Nat) : (State.candDelayWrite s n v).fixed = s.fixed := by
  unfold State.candDelayWrite
  repeat' (first
    | with_reducible rfl
    | (simp +zetaHave only [State.fixed_mk, State.fixed_eta, apply_ite State.fixed, apply_ite Prod.fst, ite_self, implies_true,
        State.wr_fixed, State.candReconfigure_fixed]; done)
    | split
    | intro _
    | (dsimp +zetaHave only))

theorem State.select_fixed (s : State) (d : Dom) (t : Nat) : (State.select s d t).fixed = s.fixed := by
  unfold State.select
  repeat' (first
    | with_reducible rfl
    | (simp +zetaHave only [State.fixed_mk, State.fixed_eta, apply_ite State.fixed, apply_ite Prod.fst, ite_self, implies_true,
        State.count_fixed, State.raise_fixed, State.setServo_fixed]; done)
    | split
    | intro _
    | (dsimp +zetaHave only))

theorem State.wtrExpiry_fixed (s : State) (d : Dom) (t : Nat) : (State.wtrExpiry s d t).fixed = s.fixed := by
  unfold State.wtrExpiry
  repeat' (first
    | with_reducible rfl
    | (simp +zetaHave only [State.fixed_mk, State.fixed_eta, apply_ite State.fixed, apply_ite Prod.fst, ite_self, implies_true,
        State.select_fixed]; done)
    | split
    | intro _
    | (dsimp +zetaHave only))

theorem State.setAnchor_fixed (s : State) (n : Nat) (a : Anchor) : (State.setAnchor s n a).fixed = s.fixed := by
  unfold State.setAnchor
  repeat' (first
    | with_reducible rfl
    | (simp +zetaHave only [State.fixed_mk, State.fixed_eta, apply_ite State.fixed, apply_ite Prod.fst, ite_self, implies_true]; done)
    | split
    | intro _
    | (dsimp +zetaHave only))

theorem State.ppsCoherence_fixed (s : State) (n : Nat) (ref : Nat) (stamp : Int) (k : Nat) : (State.ppsCoherence s n ref stamp k).fixed = s.fixed := by
  unfold State.ppsCoherence
  repeat' (first
    | with_reducible rfl
    | (simp +zetaHave only [State.fixed_mk, State.fixed_eta, apply_ite State.fixed, apply_ite Prod.fst, ite_self, implies_true,
        State.count_fixed, State.setCand_fixed]; done)
    | split
    | intro _
    | (dsimp +zetaHave only))

theorem State.ppsEdge_fixed (s : State) (n : Nat) (e : Edge) (before : Nat) : (State.ppsEdge s n e before).fixed = s.fixed := by
  unfold State.ppsEdge
  repeat' (first
    | with_reducible rfl
    | (simp +zetaHave only [State.fixed_mk, State.fixed_eta, apply_ite State.fixed, apply_ite Prod.fst, ite_self, implies_true,
        State.count_fixed, State.atCyc_fixed, State.setCand_fixed, State.setAnchor_fixed, State.clkoutPulse_fixed,
        State.ppsCoherence_fixed]; done)
    | split
    | intro _
    | (dsimp +zetaHave only))

theorem State.advanceAnchors_fixed (s : State) : (State.advanceAnchors s).fixed = s.fixed := by
  unfold State.advanceAnchors
  repeat' (first
    | with_reducible rfl
    | (simp +zetaHave only [State.fixed_mk, State.fixed_eta, apply_ite State.fixed, apply_ite Prod.fst, ite_self, implies_true,
        State.each_fixed, State.setAnchor_fixed]; done)
    | split
    | intro _
    | (dsimp +zetaHave only)
    | refine (State.each_fixed _ _ _ ?_).trans ?_)

theorem State.enterHold_fixed (s : State) (d : Dom) (nc : Nat) : (State.enterHold s d nc).fixed = s.fixed := by
  unfold State.enterHold
  repeat' (first
    | with_reducible rfl
    | (simp +zetaHave only [State.fixed_mk, State.fixed_eta, apply_ite State.fixed, apply_ite Prod.fst, ite_self, implies_true,
        State.count_fixed, State.raise_fixed, State.raiseIf_fixed, State.setServo_fixed]; done)
    | split
    | intro _
    | (dsimp +zetaHave only))

theorem State.syntFollow_fixed (s : State) (d : Dom) (nc : Nat) : (State.syntFollow s d nc).fixed = s.fixed := by
  unfold State.syntFollow
  repeat' (first
    | with_reducible rfl
    | (simp +zetaHave only [State.fixed_mk, State.fixed_eta, apply_ite State.fixed, apply_ite Prod.fst, ite_self, implies_true,
        State.setServo_fixed]; done)
    | split
    | intro _
    | (dsimp +zetaHave only))

theorem State.grow_fixed (s : State) (d : Dom) (nc : Nat) : (State.grow s d nc).fixed = s.fixed := by
  unfold State.grow
  repeat' (first
    | with_reducible rfl
    | (simp +zetaHave only [State.fixed_mk, State.fixed_eta, apply_ite State.fixed, apply_ite Prod.fst, ite_self, implies_true,
        State.setServo_fixed]; done)
    | split
    | intro _
    | (dsimp +zetaHave only))

theorem State.holdCourse_fixed (s : State) (d : Dom) (nc : Nat) : (State.holdCourse s d nc).fixed = s.fixed := by
  unfold State.holdCourse
  repeat' (first
    | with_reducible rfl
    | (simp +zetaHave only [State.fixed_mk, State.fixed_eta, apply_ite State.fixed, apply_ite Prod.fst, ite_self, implies_true,
        State.syntFollow_fixed, State.grow_fixed]; done)
    | split
    | intro _
    | (dsimp +zetaHave only))

theorem State.fixTe_fixed (s : State) : (State.fixTe s).fixed = s.fixed := by
  unfold State.fixTe
  repeat' (first
    | with_reducible rfl
    | (simp +zetaHave only [State.fixed_mk, State.fixed_eta, apply_ite State.fixed, apply_ite Prod.fst, ite_self, implies_true,
        State.modServo_fixed]; done)
    | split
    | intro _
    | (dsimp +zetaHave only))

theorem State.agePoint_fixed (s : State) (t : Nat) : (State.agePoint s t).fixed = s.fixed := by
  unfold State.agePoint
  repeat' (first
    | with_reducible rfl
    | (simp +zetaHave only [State.fixed_mk, State.fixed_eta, apply_ite State.fixed, apply_ite Prod.fst, ite_self, implies_true]; done)
    | split
    | intro _
    | (dsimp +zetaHave only))

theorem State.ageEnd_fixed (s : State) (t : Nat) : (State.ageEnd s t).fixed = s.fixed := by
  unfold State.ageEnd
  repeat' (first
    | with_reducible rfl
    | (simp +zetaHave only [State.fixed_mk, State.fixed_eta, apply_ite State.fixed, apply_ite Prod.fst, ite_self, implies_true,
        State.wr_fixed]; done)
    | split
    | intro _
    | (dsimp +zetaHave only))

theorem State.ageBoundary_fixed (s : State) (t : Nat) : (State.ageBoundary s t).fixed = s.fixed := by
  unfold State.ageBoundary
  repeat' (first
    | with_reducible rfl
    | (simp +zetaHave only [State.fixed_mk, State.fixed_eta, apply_ite State.fixed, apply_ite Prod.fst, ite_self, implies_true,
        State.ageEnd_fixed]; done)
    | split
    | intro _
    | (dsimp +zetaHave only))

theorem State.qualityOrFree_fixed (s : State) : (State.qualityOrFree s).1.fixed = s.fixed := by
  unfold State.qualityOrFree
  repeat' (first
    | with_reducible rfl
    | (simp +zetaHave only [State.fixed_mk, State.fixed_eta, apply_ite State.fixed, apply_ite Prod.fst, ite_self, implies_true,
        State.drawFree_fixed]; done)
    | split
    | intro _
    | (dsimp +zetaHave only))

end Sys2Proof.Machine
end

