-- ==== Sys2Proof/Laws/FrameServo.lean ====
section
/-! SUPPORT. Sys2Proof/Laws/FrameServo.lean: no operation of Machine/Servo.lean touches the queue, the tie-offs or the start
phase of the block. -/

set_option linter.all false
set_option Elab.async false

namespace Sys2Proof.Machine
open Sys2Proof.Config
set_option linter.unusedSimpArgs false

theorem State.steer_fixed (s : State) : (State.steer s).fixed = s.fixed := by
  unfold State.steer
  repeat' (first
    | with_reducible rfl
    | (simp +zetaHave only [State.fixed_mk, State.fixed_eta, apply_ite State.fixed, apply_ite Prod.fst, ite_self, implies_true]; done)
    | split
    | intro _
    | (dsimp +zetaHave only))

theorem State.resteer_fixed (s : State) : (State.resteer s).fixed = s.fixed := by
  unfold State.resteer
  repeat' (first
    | with_reducible rfl
    | (simp +zetaHave only [State.fixed_mk, State.fixed_eta, apply_ite State.fixed, apply_ite Prod.fst, ite_self, implies_true,
        State.steer_fixed]; done)
    | split
    | intro _
    | (dsimp +zetaHave only))

theorem State.rootSample_fixed (s : State) (d : Dom) : (State.rootSample s d).1.fixed = s.fixed := by
  unfold State.rootSample
  repeat' (first
    | with_reducible rfl
    | (simp +zetaHave only [State.fixed_mk, State.fixed_eta, apply_ite State.fixed, apply_ite Prod.fst, ite_self, implies_true,
        State.setServo_fixed, State.flagInterval_fixed]; done)
    | split
    | intro _
    | (dsimp +zetaHave only))

theorem State.hardwareSample_fixed (s : State) (d : Dom) : (State.hardwareSample s d).1.fixed = s.fixed := by
  unfold State.hardwareSample
  repeat' (first
    | with_reducible rfl
    | (simp +zetaHave only [State.fixed_mk, State.fixed_eta, apply_ite State.fixed, apply_ite Prod.fst, ite_self, implies_true,
        State.rootSample_fixed]; done)
    | split
    | intro _
    | (dsimp +zetaHave only))

theorem State.unlock_fixed (s : State) (d : Dom) : (State.unlock s d).fixed = s.fixed := by
  unfold State.unlock
  repeat' (first
    | with_reducible rfl
    | (simp +zetaHave only [State.fixed_mk, State.fixed_eta, apply_ite State.fixed, apply_ite Prod.fst, ite_self, implies_true,
        State.raiseIf_fixed, State.modServo_fixed]; done)
    | split
    | intro _
    | (dsimp +zetaHave only))

theorem State.firstSample_fixed (s : State) (d : Dom) : (State.firstSample s d).fixed = s.fixed := by
  unfold State.firstSample
  repeat' (first
    | with_reducible rfl
    | (simp +zetaHave only [State.fixed_mk, State.fixed_eta, apply_ite State.fixed, apply_ite Prod.fst, ite_self, implies_true,
        State.modServo_fixed]; done)
    | split
    | intro _
    | (dsimp +zetaHave only))

theorem State.freqUpdate_fixed (s : State) (d : Dom) (th : Int) (t : Nat) : (State.freqUpdate s d th t).fixed = s.fixed := by
  unfold State.freqUpdate
  repeat' (first
    | with_reducible rfl
    | (simp +zetaHave only [State.fixed_mk, State.fixed_eta, apply_ite State.fixed, apply_ite Prod.fst, ite_self, implies_true,
        State.setServo_fixed]; done)
    | split
    | intro _
    | (dsimp +zetaHave only))

theorem State.steerUpdate_fixed (s : State) : (State.steerUpdate s).fixed = s.fixed := by
  unfold State.steerUpdate
  repeat' (first
    | with_reducible rfl
    | (simp +zetaHave only [State.fixed_mk, State.fixed_eta, apply_ite State.fixed, apply_ite Prod.fst, ite_self, implies_true,
        State.count_fixed, State.raise_fixed, State.steer_fixed]; done)
    | split
    | intro _
    | (dsimp +zetaHave only))

theorem State.trackUpdate_fixed (s : State) (d : Dom) (th : Int) (t : Nat) : (State.trackUpdate s d th t).fixed = s.fixed := by
  unfold State.trackUpdate
  repeat' (first
    | with_reducible rfl
    | (simp +zetaHave only [State.fixed_mk, State.fixed_eta, apply_ite State.fixed, apply_ite Prod.fst, ite_self, implies_true,
        State.setServo_fixed, State.unlock_fixed, State.steerUpdate_fixed]; done)
    | split
    | intro _
    | (dsimp +zetaHave only))

theorem State.skipUpdate_fixed (s : State) (d : Dom) (nc : Nat) : (State.skipUpdate s d nc).fixed = s.fixed := by
  unfold State.skipUpdate
  repeat' (first
    | with_reducible rfl
    | (simp +zetaHave only [State.fixed_mk, State.fixed_eta, apply_ite State.fixed, apply_ite Prod.fst, ite_self, implies_true,
        State.count_fixed, State.setServo_fixed, State.enterHold_fixed]; done)
    | split
    | intro _
    | (dsimp +zetaHave only))

theorem State.servoUpdate_fixed (s : State) (d : Dom) (hw : Option Int) (nc : Nat) (t : Nat) : (State.servoUpdate s d hw nc t).fixed = s.fixed := by
  unfold State.servoUpdate
  repeat' (first
    | with_reducible rfl
    | (simp +zetaHave only [State.fixed_mk, State.fixed_eta, apply_ite State.fixed, apply_ite Prod.fst, ite_self, implies_true,
        State.count_fixed, State.evt_fixed, State.setServo_fixed, State.modServo_fixed, State.freqUpdate_fixed,
        State.trackUpdate_fixed, State.skipUpdate_fixed, State.firstSample_fixed]; done)
    | split
    | intro _
    | (dsimp +zetaHave only))

theorem State.autoAcquire_fixed (s : State) : (State.autoAcquire s).fixed = s.fixed := by
  unfold State.autoAcquire
  repeat' (first
    | with_reducible rfl
    | (simp +zetaHave only [State.fixed_mk, State.fixed_eta, apply_ite State.fixed, apply_ite Prod.fst, ite_self, implies_true]; done)
    | split
    | intro _
    | (dsimp +zetaHave only))

theorem State.acqCheck_fixed (s : State) : (State.acqCheck s).fixed = s.fixed := by
  unfold State.acqCheck
  repeat' (first
    | with_reducible rfl
    | (simp +zetaHave only [State.fixed_mk, State.fixed_eta, apply_ite State.fixed, apply_ite Prod.fst, ite_self, implies_true]; done)
    | split
    | intro _
    | (dsimp +zetaHave only))

theorem State.updates_fixed (s : State) (n : Nat) (nc : Nat) (t : Nat) : (State.updates s n nc t).fixed = s.fixed := by
  unfold State.updates
  repeat' (first
    | with_reducible rfl
    | (simp +zetaHave only [State.fixed_mk, State.fixed_eta, apply_ite State.fixed, apply_ite Prod.fst, ite_self, implies_true,
        State.agePoint_fixed, State.hardwareSample_fixed, State.servoUpdate_fixed, State.autoAcquire_fixed,
        State.acqCheck_fixed, State.modServo_fixed]; done)
    | split
    | intro _
    | (dsimp +zetaHave only))

theorem State.switchTo_fixed (s : State) (d : Dom) (k : SwitchKind) : (State.switchTo s d k).fixed = s.fixed := by
  unfold State.switchTo
  repeat' (first
    | with_reducible rfl
    | (simp +zetaHave only [State.fixed_mk, State.fixed_eta, apply_ite State.fixed, apply_ite Prod.fst, ite_self, implies_true,
        State.count_fixed, State.raise_fixed, State.modServo_fixed, State.steer_fixed]; done)
    | split
    | intro _
    | (dsimp +zetaHave only))

theorem State.holdPlan_fixed (s : State) (id : Nat) (target : Dom) (course : Nat) : (State.holdPlan s id target course).fixed = s.fixed := by
  unfold State.holdPlan
  repeat' (first
    | with_reducible rfl
    | (simp +zetaHave only [State.fixed_mk, State.fixed_eta, apply_ite State.fixed, apply_ite Prod.fst, ite_self, implies_true]; done)
    | split
    | intro _
    | (dsimp +zetaHave only))

theorem State.cancelPlan_fixed (s : State) : (State.cancelPlan s).fixed = s.fixed := by
  unfold State.cancelPlan
  repeat' (first
    | with_reducible rfl
    | (simp +zetaHave only [State.fixed_mk, State.fixed_eta, apply_ite State.fixed, apply_ite Prod.fst, ite_self, implies_true]; done)
    | split
    | intro _
    | (dsimp +zetaHave only))

theorem State.planEvaluate_fixed (s : State) (nc : Nat) : (State.planEvaluate s nc).fixed = s.fixed := by
  unfold State.planEvaluate
  repeat' (first
    | with_reducible rfl
    | (simp +zetaHave only [State.fixed_mk, State.fixed_eta, apply_ite State.fixed, apply_ite Prod.fst, ite_self, implies_true,
        State.raise_fixed, State.switchTo_fixed]; done)
    | split
    | intro _
    | (dsimp +zetaHave only))

theorem State.selectBoundary_fixed (s : State) : (State.selectBoundary s).fixed = s.fixed := by
  unfold State.selectBoundary
  repeat' (first
    | with_reducible rfl
    | (simp +zetaHave only [State.fixed_mk, State.fixed_eta, apply_ite State.fixed, apply_ite Prod.fst, ite_self, implies_true,
        State.switchTo_fixed]; done)
    | split
    | intro _
    | (dsimp +zetaHave only))

theorem State.autoSwitch_fixed (s : State) : (State.autoSwitch s).fixed = s.fixed := by
  unfold State.autoSwitch
  repeat' (first
    | with_reducible rfl
    | (simp +zetaHave only [State.fixed_mk, State.fixed_eta, apply_ite State.fixed, apply_ite Prod.fst, ite_self, implies_true,
        State.switchTo_fixed]; done)
    | split
    | intro _
    | (dsimp +zetaHave only))

theorem State.bridge_fixed (s : State) : (State.bridge s).fixed = s.fixed := by
  unfold State.bridge
  repeat' (first
    | with_reducible rfl
    | (simp +zetaHave only [State.fixed_mk, State.fixed_eta, apply_ite State.fixed, apply_ite Prod.fst, ite_self, implies_true,
        State.modServo_fixed, State.steer_fixed]; done)
    | split
    | intro _
    | (dsimp +zetaHave only))

theorem State.followBoundary_fixed (s : State) : (State.followBoundary s).fixed = s.fixed := by
  unfold State.followBoundary
  repeat' (first
    | with_reducible rfl
    | (simp +zetaHave only [State.fixed_mk, State.fixed_eta, apply_ite State.fixed, apply_ite Prod.fst, ite_self, implies_true,
        State.modServo_fixed]; done)
    | split
    | intro _
    | (dsimp +zetaHave only))

theorem State.advancePhase_fixed (s : State) : (State.advancePhase s).fixed = s.fixed := by
  unfold State.advancePhase
  repeat' (first
    | with_reducible rfl
    | (simp +zetaHave only [State.fixed_mk, State.fixed_eta, apply_ite State.fixed, apply_ite Prod.fst, ite_self, implies_true,
        State.modServo_fixed]; done)
    | split
    | intro _
    | (dsimp +zetaHave only))

theorem State.loopBoundary_fixed (s : State) (d : Dom) (t : Nat) : (State.loopBoundary s d t).fixed = s.fixed := by
  unfold State.loopBoundary
  repeat' (first
    | with_reducible rfl
    | (simp +zetaHave only [State.fixed_mk, State.fixed_eta, apply_ite State.fixed, apply_ite Prod.fst, ite_self, implies_true,
        State.setServo_fixed, State.resteer_fixed]; done)
    | split
    | intro _
    | (dsimp +zetaHave only))

theorem State.loopTimeout_fixed (s : State) (d : Dom) (nc : Nat) (t : Nat) : (State.loopTimeout s d nc t).fixed = s.fixed := by
  unfold State.loopTimeout
  repeat' (first
    | with_reducible rfl
    | (simp +zetaHave only [State.fixed_mk, State.fixed_eta, apply_ite State.fixed, apply_ite Prod.fst, ite_self, implies_true,
        State.enterHold_fixed]; done)
    | split
    | intro _
    | (dsimp +zetaHave only))

theorem State.servoStates_fixed (s : State) (d : Dom) (nc : Nat) (t : Nat) : (State.servoStates s d nc t).fixed = s.fixed := by
  unfold State.servoStates
  repeat' (first
    | with_reducible rfl
    | (simp +zetaHave only [State.fixed_mk, State.fixed_eta, apply_ite State.fixed, apply_ite Prod.fst, ite_self, implies_true,
        State.setServo_fixed, State.enterHold_fixed, State.loopTimeout_fixed, State.modServo_fixed,
        State.firstSample_fixed]; done)
    | split
    | intro _
    | (dsimp +zetaHave only))

theorem State.holdBoundary_fixed (s : State) (d : Dom) (was : Bool) (nc : Nat) : (State.holdBoundary s d was nc).fixed = s.fixed := by
  unfold State.holdBoundary
  repeat' (first
    | with_reducible rfl
    | (simp +zetaHave only [State.fixed_mk, State.fixed_eta, apply_ite State.fixed, apply_ite Prod.fst, ite_self, implies_true,
        State.modServo_fixed, State.holdCourse_fixed]; done)
    | split
    | intro _
    | (dsimp +zetaHave only))

theorem State.timeBoundary_fixed (s : State) (n : Nat) (nc : Nat) (t : Nat) : (State.timeBoundary s n nc t).fixed = s.fixed := by
  unfold State.timeBoundary
  repeat' (first
    | with_reducible rfl
    | (simp +zetaHave only [State.fixed_mk, State.fixed_eta, apply_ite State.fixed, apply_ite Prod.fst, ite_self, implies_true,
        State.select_fixed, State.fixTe_fixed, State.ageBoundary_fixed, State.acqCheck_fixed, State.updates_fixed,
        State.planEvaluate_fixed, State.selectBoundary_fixed, State.autoSwitch_fixed, State.bridge_fixed,
        State.followBoundary_fixed, State.loopBoundary_fixed, State.servoStates_fixed, State.holdBoundary_fixed]; done)
    | split
    | intro _
    | (dsimp +zetaHave only))

theorem State.underlayHold_fixed (s : State) (nc : Nat) : (State.underlayHold s nc).fixed = s.fixed := by
  unfold State.underlayHold
  repeat' (first
    | with_reducible rfl
    | (simp +zetaHave only [State.fixed_mk, State.fixed_eta, apply_ite State.fixed, apply_ite Prod.fst, ite_self, implies_true,
        State.enterHold_fixed]; done)
    | split
    | intro _
    | (dsimp +zetaHave only))

end Sys2Proof.Machine
end

