-- ==== Sys2Proof/Laws/FrameExchange.lean ====
section
/-! SUPPORT. Sys2Proof/Laws/FrameExchange.lean: no operation of Machine/Exchange.lean touches the queue, the tie-offs or the start
phase of the block. -/

set_option linter.all false
set_option Elab.async false

namespace Sys2Proof.Machine
open Sys2Proof.Config
set_option linter.unusedSimpArgs false

theorem State.noteSent_fixed (s : State) (p : Nat) (key : Nat) : (State.noteSent s p key).fixed = s.fixed := by
  unfold State.noteSent
  repeat' (first
    | with_reducible rfl
    | (simp +zetaHave only [State.fixed_mk, State.fixed_eta, apply_ite State.fixed, apply_ite Prod.fst, ite_self, implies_true,
        State.modPort_fixed]; done)
    | split
    | intro _
    | (dsimp +zetaHave only))

theorem State.syncSend_fixed (s : State) (p : Nat) : (State.syncSend s p).fixed = s.fixed := by
  unfold State.syncSend
  repeat' (first
    | with_reducible rfl
    | (simp +zetaHave only [State.fixed_mk, State.fixed_eta, apply_ite State.fixed, apply_ite Prod.fst, ite_self, implies_true,
        State.xsend_fixed, State.noteSent_fixed]; done)
    | split
    | intro _
    | (dsimp +zetaHave only))

theorem State.syncArrived_fixed (s : State) (p : Nat) (h : PtpHead) (st : Stamp) (t1 : Int) : (State.syncArrived s p h st t1).fixed = s.fixed := by
  unfold State.syncArrived
  repeat' (first
    | with_reducible rfl
    | (simp +zetaHave only [State.fixed_mk, State.fixed_eta, apply_ite State.fixed, apply_ite Prod.fst, ite_self, implies_true,
        State.count_fixed, State.modPort_fixed]; done)
    | split
    | intro _
    | (dsimp +zetaHave only))

theorem State.delayReqSend_fixed (s : State) (p : Nat) : (State.delayReqSend s p).fixed = s.fixed := by
  unfold State.delayReqSend
  repeat' (first
    | with_reducible rfl
    | (simp +zetaHave only [State.fixed_mk, State.fixed_eta, apply_ite State.fixed, apply_ite Prod.fst, ite_self, implies_true,
        State.modPort_fixed, State.xsend_fixed]; done)
    | split
    | intro _
    | (dsimp +zetaHave only))

theorem State.delayReqArrived_fixed (s : State) (p : Nat) (h : PtpHead) (st : Stamp) : (State.delayReqArrived s p h st).fixed = s.fixed := by
  unfold State.delayReqArrived
  repeat' (first
    | with_reducible rfl
    | (simp +zetaHave only [State.fixed_mk, State.fixed_eta, apply_ite State.fixed, apply_ite Prod.fst, ite_self, implies_true,
        State.count_fixed, State.setPort_fixed]; done)
    | split
    | intro _
    | (dsimp +zetaHave only))

theorem State.delayRespSend_fixed (s : State) (p : Nat) : (State.delayRespSend s p).fixed = s.fixed := by
  unfold State.delayRespSend
  repeat' (first
    | with_reducible rfl
    | (simp +zetaHave only [State.fixed_mk, State.fixed_eta, apply_ite State.fixed, apply_ite Prod.fst, ite_self, implies_true,
        State.count_fixed, State.setPort_fixed, State.xsend_fixed]; done)
    | split
    | intro _
    | (dsimp +zetaHave only))

theorem State.deliver_fixed (s : State) (p : Nat) (th : Int) : (State.deliver s p th).fixed = s.fixed := by
  unfold State.deliver
  repeat' (first
    | with_reducible rfl
    | (simp +zetaHave only [State.fixed_mk, State.fixed_eta, apply_ite State.fixed, apply_ite Prod.fst, ite_self, implies_true,
        State.modServo_fixed, State.flagInterval_fixed]; done)
    | split
    | intro _
    | (dsimp +zetaHave only))

theorem State.delayRespArrived_fixed (s : State) (p : Nat) (h : PtpHead) (t4 : Int) (reqClock : Nat) (reqPort : Nat) : (State.delayRespArrived s p h t4 reqClock reqPort).fixed = s.fixed := by
  unfold State.delayRespArrived
  repeat' (first
    | with_reducible rfl
    | (simp +zetaHave only [State.fixed_mk, State.fixed_eta, apply_ite State.fixed, apply_ite Prod.fst, ite_self, implies_true,
        State.count_fixed, State.drawFree_fixed, State.setPort_fixed, State.modPort_fixed, State.deliver_fixed]; done)
    | split
    | intro _
    | (dsimp +zetaHave only))

theorem State.exchBoundary_fixed (s : State) (p : Nat) (t : Nat) : (State.exchBoundary s p t).fixed = s.fixed := by
  unfold State.exchBoundary
  repeat' (first
    | with_reducible rfl
    | (simp +zetaHave only [State.fixed_mk, State.fixed_eta, apply_ite State.fixed, apply_ite Prod.fst, ite_self, implies_true,
        State.count_fixed, State.setPort_fixed]; done)
    | split
    | intro _
    | (dsimp +zetaHave only))

theorem State.announceBody_fixed (s : State) : (State.announceBody s).1.fixed = s.fixed := by
  unfold State.announceBody
  repeat' (first
    | with_reducible rfl
    | (simp +zetaHave only [State.fixed_mk, State.fixed_eta, apply_ite State.fixed, apply_ite Prod.fst, ite_self, implies_true,
        State.drawFree_fixed, State.qualityOrFree_fixed]; done)
    | split
    | intro _
    | (dsimp +zetaHave only))

theorem State.announceSend_fixed (s : State) (p : Nat) : (State.announceSend s p).fixed = s.fixed := by
  unfold State.announceSend
  repeat' (first
    | with_reducible rfl
    | (simp +zetaHave only [State.fixed_mk, State.fixed_eta, apply_ite State.fixed, apply_ite Prod.fst, ite_self, implies_true,
        State.xsend_fixed, State.noteSent_fixed, State.announceBody_fixed]; done)
    | split
    | intro _
    | (dsimp +zetaHave only))

theorem State.announceArrived_fixed (s : State) (p : Nat) (b : AnnounceBody) : (State.announceArrived s p b).fixed = s.fixed := by
  unfold State.announceArrived
  repeat' (first
    | with_reducible rfl
    | (simp +zetaHave only [State.fixed_mk, State.fixed_eta, apply_ite State.fixed, apply_ite Prod.fst, ite_self, implies_true,
        State.wr_fixed]; done)
    | split
    | intro _
    | (dsimp +zetaHave only))

theorem State.helloSend_fixed (s : State) (p : Nat) : (State.helloSend s p).fixed = s.fixed := by
  unfold State.helloSend
  repeat' (first
    | with_reducible rfl
    | (simp +zetaHave only [State.fixed_mk, State.fixed_eta, apply_ite State.fixed, apply_ite Prod.fst, ite_self, implies_true,
        State.sendHello_fixed, State.noteSent_fixed]; done)
    | split
    | intro _
    | (dsimp +zetaHave only))

theorem State.judged_fixed (s : State) (p : Nat) (f : Port → Port) : (State.judged s p f).fixed = s.fixed := by
  unfold State.judged
  repeat' (first
    | with_reducible rfl
    | (simp +zetaHave only [State.fixed_mk, State.fixed_eta, apply_ite State.fixed, apply_ite Prod.fst, ite_self, implies_true,
        State.raiseIf_fixed, State.modPort_fixed]; done)
    | split
    | intro _
    | (dsimp +zetaHave only))

theorem State.judgeId_fixed (s : State) (p : Nat) (src : Nat) : (State.judgeId s p src).fixed = s.fixed := by
  unfold State.judgeId
  repeat' (first
    | with_reducible rfl
    | (simp +zetaHave only [State.fixed_mk, State.fixed_eta, apply_ite State.fixed, apply_ite Prod.fst, ite_self, implies_true,
        State.judged_fixed]; done)
    | split
    | intro _
    | (dsimp +zetaHave only))

theorem State.judgeRole_fixed (s : State) (p : Nat) (prole : Nat) : (State.judgeRole s p prole).fixed = s.fixed := by
  unfold State.judgeRole
  repeat' (first
    | with_reducible rfl
    | (simp +zetaHave only [State.fixed_mk, State.fixed_eta, apply_ite State.fixed, apply_ite Prod.fst, ite_self, implies_true,
        State.judged_fixed]; done)
    | split
    | intro _
    | (dsimp +zetaHave only))

theorem State.keepaliveSend_fixed (s : State) (p : Nat) : (State.keepaliveSend s p).fixed = s.fixed := by
  unfold State.keepaliveSend
  repeat' (first
    | with_reducible rfl
    | (simp +zetaHave only [State.fixed_mk, State.fixed_eta, apply_ite State.fixed, apply_ite Prod.fst, ite_self, implies_true,
        State.xsend_fixed, State.noteSent_fixed]; done)
    | split
    | intro _
    | (dsimp +zetaHave only))

theorem State.continuity_fixed (s : State) (p : Nat) (st : Stamp) (tx : Int) : (State.continuity s p st tx).fixed = s.fixed := by
  unfold State.continuity
  repeat' (first
    | with_reducible rfl
    | (simp +zetaHave only [State.fixed_mk, State.fixed_eta, apply_ite State.fixed, apply_ite Prod.fst, ite_self, implies_true,
        State.count_fixed, State.candJump_fixed]; done)
    | split
    | intro _
    | (dsimp +zetaHave only))

theorem State.keepaliveArrived_fixed (s : State) (p : Nat) (src : Nat) (st : Stamp) (tx : Int) (status : Nat) (te : Nat) : (State.keepaliveArrived s p src st tx status te).fixed = s.fixed := by
  unfold State.keepaliveArrived
  repeat' (first
    | with_reducible rfl
    | (simp +zetaHave only [State.fixed_mk, State.fixed_eta, apply_ite State.fixed, apply_ite Prod.fst, ite_self, implies_true,
        State.modPort_fixed, State.judgeId_fixed, State.continuity_fixed]; done)
    | split
    | intro _
    | (dsimp +zetaHave only))

theorem State.broadcast_fixed (s : State) (p : Nat) (typ : Nat) (id : Nat) (b : Body) : (State.broadcast s p typ id b).1.fixed = s.fixed := by
  unfold State.broadcast
  repeat' (first
    | with_reducible rfl
    | (simp +zetaHave only [State.fixed_mk, State.fixed_eta, apply_ite State.fixed, apply_ite Prod.fst, ite_self, implies_true,
        State.xsendAll_fixed]; done)
    | split
    | intro _
    | (dsimp +zetaHave only))

theorem State.originate_fixed (s : State) (typ : Nat) (id : Nat) (b : Body) : (State.originate s typ id b).fixed = s.fixed := by
  unfold State.originate
  repeat' (first
    | with_reducible rfl
    | (simp +zetaHave only [State.fixed_mk, State.fixed_eta, apply_ite State.fixed, apply_ite Prod.fst, ite_self, implies_true,
        State.xsendAll_fixed]; done)
    | split
    | intro _
    | (dsimp +zetaHave only))

theorem State.planArrived_fixed (s : State) (id : Nat) (target : Dom) (sw : Nat) : (State.planArrived s id target sw).fixed = s.fixed := by
  unfold State.planArrived
  repeat' (first
    | with_reducible rfl
    | (simp +zetaHave only [State.fixed_mk, State.fixed_eta, apply_ite State.fixed, apply_ite Prod.fst, ite_self, implies_true,
        State.count_fixed, State.holdPlan_fixed]; done)
    | split
    | intro _
    | (dsimp +zetaHave only))

theorem State.esmcSend_fixed (s : State) (p : Nat) : (State.esmcSend s p).fixed = s.fixed := by
  unfold State.esmcSend
  repeat' (first
    | with_reducible rfl
    | (simp +zetaHave only [State.fixed_mk, State.fixed_eta, apply_ite State.fixed, apply_ite Prod.fst, ite_self, implies_true,
        State.modPort_fixed, State.xsend_fixed, State.qualityOrFree_fixed]; done)
    | split
    | intro _
    | (dsimp +zetaHave only))

theorem State.esmcBoundary_fixed (s : State) : (State.esmcBoundary s).fixed = s.fixed := by
  unfold State.esmcBoundary
  repeat' (first
    | with_reducible rfl
    | (simp +zetaHave only [State.fixed_mk, State.fixed_eta, apply_ite State.fixed, apply_ite Prod.fst, ite_self, implies_true,
        State.xsendAll_fixed]; done)
    | split
    | intro _
    | (dsimp +zetaHave only))

theorem State.rxEsmc_fixed (s : State) (h : RxBase) (event : Bool) : (State.rxEsmc s h event).s.fixed = s.fixed := by
  unfold State.rxEsmc
  repeat' (first
    | with_reducible rfl
    | (simp +zetaHave only [State.fixed_mk, State.fixed_eta, apply_ite State.fixed, apply_ite Prod.fst, ite_self, implies_true,
        apply_ite Rx.s, Rx.drop_s, State.count_fixed, Rx.drop_fixed, State.rxBegin_fixed]; done)
    | split
    | intro _
    | (dsimp +zetaHave only))

theorem State.portSends_fixed (s : State) (p : Nat) : (State.portSends s p).fixed = s.fixed := by
  unfold State.portSends
  repeat' (first
    | with_reducible rfl
    | (simp +zetaHave only [State.fixed_mk, State.fixed_eta, apply_ite State.fixed, apply_ite Prod.fst, ite_self, implies_true,
        State.syncSend_fixed, State.delayReqSend_fixed, State.delayRespSend_fixed, State.announceSend_fixed,
        State.helloSend_fixed, State.keepaliveSend_fixed, State.esmcSend_fixed]; done)
    | split
    | intro _
    | (dsimp +zetaHave only))

theorem State.portBoundary_fixed (s : State) (p : Nat) (t : Nat) : (State.portBoundary s p t).fixed = s.fixed := by
  unfold State.portBoundary
  repeat' (first
    | with_reducible rfl
    | (simp +zetaHave only [State.fixed_mk, State.fixed_eta, apply_ite State.fixed, apply_ite Prod.fst, ite_self, implies_true,
        State.replayTimeout_fixed, State.sendAck_fixed, State.applyConstants_fixed, State.exchBoundary_fixed,
        State.portSends_fixed]; done)
    | split
    | intro _
    | (dsimp +zetaHave only))

end Sys2Proof.Machine
end

