-- ==== Sys2Proof/Laws/FrameInterval.lean ====
section
/-! SUPPORT. Sys2Proof/Laws/FrameInterval.lean: no operation of Machine/Interval.lean touches the queue, the tie-offs or the start
phase of the block. -/

set_option linter.all false
set_option Elab.async false

namespace Sys2Proof.Machine
open Sys2Proof.Config
set_option linter.unusedSimpArgs false

theorem State.startMeas_fixed (s : State) (c : MeasCfg) : (State.startMeas s c).fixed = s.fixed := by
  unfold State.startMeas
  repeat' (first
    | with_reducible rfl
    | (simp +zetaHave only [State.fixed_mk, State.fixed_eta, apply_ite State.fixed, apply_ite Prod.fst, ite_self, implies_true,
        State.ended_fixed]; done)
    | split
    | intro _
    | (dsimp +zetaHave only))

theorem State.imArm_fixed (s : State) : (State.imArm s).fixed = s.fixed := by
  unfold State.imArm
  repeat' (first
    | with_reducible rfl
    | (simp +zetaHave only [State.fixed_mk, State.fixed_eta, apply_ite State.fixed, apply_ite Prod.fst, ite_self, implies_true,
        State.openGate_fixed, State.startMeas_fixed]; done)
    | split
    | intro _
    | (dsimp +zetaHave only))

theorem State.imAbort_fixed (s : State) : (State.imAbort s).fixed = s.fixed := by
  unfold State.imAbort
  repeat' (first
    | with_reducible rfl
    | (simp +zetaHave only [State.fixed_mk, State.fixed_eta, apply_ite State.fixed, apply_ite Prod.fst, ite_self, implies_true,
        State.abortShots_fixed]; done)
    | split
    | intro _
    | (dsimp +zetaHave only))

theorem State.imGo_fixed (s : State) : (State.imGo s).fixed = s.fixed := by
  unfold State.imGo
  repeat' (first
    | with_reducible rfl
    | (simp +zetaHave only [State.fixed_mk, State.fixed_eta, apply_ite State.fixed, apply_ite Prod.fst, ite_self, implies_true,
        State.shotEdge_fixed]; done)
    | split
    | intro _
    | (dsimp +zetaHave only))

theorem State.imMode_fixed (s : State) (on : Bool) : (State.imMode s on).fixed = s.fixed := by
  unfold State.imMode
  repeat' (first
    | with_reducible rfl
    | (simp +zetaHave only [State.fixed_mk, State.fixed_eta, apply_ite State.fixed, apply_ite Prod.fst, ite_self, implies_true,
        State.wrFld_fixed, State.openGate_fixed]; done)
    | split
    | intro _
    | (dsimp +zetaHave only))

theorem State.imCtlWrite_fixed (s : State) (v : Nat) : (State.imCtlWrite s v).fixed = s.fixed := by
  unfold State.imCtlWrite
  repeat' (first
    | with_reducible rfl
    | (simp +zetaHave only [State.fixed_mk, State.fixed_eta, apply_ite State.fixed, apply_ite Prod.fst, ite_self, implies_true,
        State.wrFld_fixed, State.imArm_fixed, State.imAbort_fixed, State.imGo_fixed, State.imMode_fixed]; done)
    | split
    | intro _
    | (dsimp +zetaHave only))

theorem State.timedStart_fixed (s : State) (upTo : Nat) : (State.timedStart s upTo).fixed = s.fixed := by
  unfold State.timedStart
  repeat' (first
    | with_reducible rfl
    | (simp +zetaHave only [State.fixed_mk, State.fixed_eta, apply_ite State.fixed, apply_ite Prod.fst, ite_self, implies_true,
        State.shotEdge_fixed, State.upTo_fixed]; done)
    | split
    | intro _
    | (dsimp +zetaHave only))

theorem State.claimEngine_fixed (s : State) (p : Nat) (n : Nat) : (State.claimEngine s p n).fixed = s.fixed := by
  unfold State.claimEngine
  repeat' (first
    | with_reducible rfl
    | (simp +zetaHave only [State.fixed_mk, State.fixed_eta, apply_ite State.fixed, apply_ite Prod.fst, ite_self, implies_true,
        State.modPort_fixed, State.startMeas_fixed]; done)
    | split
    | intro _
    | (dsimp +zetaHave only))

theorem State.calibrateFinish_fixed (s : State) : (State.calibrateFinish s).fixed = s.fixed := by
  unfold State.calibrateFinish
  repeat' (first
    | with_reducible rfl
    | (simp +zetaHave only [State.fixed_mk, State.fixed_eta, apply_ite State.fixed, apply_ite Prod.fst, ite_self, implies_true,
        State.modPort_fixed]; done)
    | split
    | intro _
    | (dsimp +zetaHave only))

theorem State.calFrame_fixed (s : State) : (State.calFrame s).fixed = s.fixed := by
  unfold State.calFrame
  repeat' (first
    | with_reducible rfl
    | (simp +zetaHave only [State.fixed_mk, State.fixed_eta, apply_ite State.fixed, apply_ite Prod.fst, ite_self, implies_true,
        State.xsend_fixed]; done)
    | split
    | intro _
    | (dsimp +zetaHave only))

theorem State.setZc_fixed (s : State) (z : ZcUnit) : (State.setZc s z).fixed = s.fixed := by
  unfold State.setZc
  repeat' (first
    | with_reducible rfl
    | (simp +zetaHave only [State.fixed_mk, State.fixed_eta, apply_ite State.fixed, apply_ite Prod.fst, ite_self, implies_true]; done)
    | split
    | intro _
    | (dsimp +zetaHave only))

theorem State.zcTimeoutEnd_fixed (s : State) : (State.zcTimeoutEnd s).fixed = s.fixed := by
  unfold State.zcTimeoutEnd
  repeat' (first
    | with_reducible rfl
    | (simp +zetaHave only [State.fixed_mk, State.fixed_eta, apply_ite State.fixed, apply_ite Prod.fst, ite_self, implies_true,
        State.setZc_fixed]; done)
    | split
    | intro _
    | (dsimp +zetaHave only))

theorem State.zcTimeout_fixed (s : State) (now : Nat) : (State.zcTimeout s now).fixed = s.fixed := by
  unfold State.zcTimeout
  repeat' (first
    | with_reducible rfl
    | (simp +zetaHave only [State.fixed_mk, State.fixed_eta, apply_ite State.fixed, apply_ite Prod.fst, ite_self, implies_true,
        State.zcTimeoutEnd_fixed]; done)
    | split
    | intro _
    | (dsimp +zetaHave only))

theorem State.zcEvent_fixed (s : State) (src : Nat) (falling : Bool) (cyc : Nat) (fine : Nat) : (State.zcEvent s src falling cyc fine).fixed = s.fixed := by
  unfold State.zcEvent
  repeat' (first
    | with_reducible rfl
    | (simp +zetaHave only [State.fixed_mk, State.fixed_eta, apply_ite State.fixed, apply_ite Prod.fst, ite_self, implies_true,
        State.setZc_fixed, State.zcTimeoutEnd_fixed]; done)
    | split
    | intro _
    | (dsimp +zetaHave only))

theorem State.zcArm_fixed (s : State) : (State.zcArm s).fixed = s.fixed := by
  unfold State.zcArm
  repeat' (first
    | with_reducible rfl
    | (simp +zetaHave only [State.fixed_mk, State.fixed_eta, apply_ite State.fixed, apply_ite Prod.fst, ite_self, implies_true,
        State.setZc_fixed, State.zcEvent_fixed]; done)
    | split
    | intro _
    | (dsimp +zetaHave only))

theorem State.zcStart_fixed (s : State) : (State.zcStart s).fixed = s.fixed := by
  unfold State.zcStart
  repeat' (first
    | with_reducible rfl
    | (simp +zetaHave only [State.fixed_mk, State.fixed_eta, apply_ite State.fixed, apply_ite Prod.fst, ite_self, implies_true,
        State.setZc_fixed, State.zcArm_fixed]; done)
    | split
    | intro _
    | (dsimp +zetaHave only))

theorem State.zcClr_fixed (s : State) : (State.zcClr s).fixed = s.fixed := by
  unfold State.zcClr
  repeat' (first
    | with_reducible rfl
    | (simp +zetaHave only [State.fixed_mk, State.fixed_eta, apply_ite State.fixed, apply_ite Prod.fst, ite_self, implies_true,
        State.setZc_fixed]; done)
    | split
    | intro _
    | (dsimp +zetaHave only))

theorem State.zcCtlWrite_fixed (s : State) (v : Nat) : (State.zcCtlWrite s v).fixed = s.fixed := by
  unfold State.zcCtlWrite
  repeat' (first
    | with_reducible rfl
    | (simp +zetaHave only [State.fixed_mk, State.fixed_eta, apply_ite State.fixed, apply_ite Prod.fst, ite_self, implies_true,
        State.wr_fixed, State.zcStart_fixed, State.zcClr_fixed]; done)
    | split
    | intro _
    | (dsimp +zetaHave only))

theorem State.pinEdge_fixed (s : State) (pin : Nat) (falling : Bool) (e : Edge) : (State.pinEdge s pin falling e).fixed = s.fixed := by
  unfold State.pinEdge
  repeat' (first
    | with_reducible rfl
    | (simp +zetaHave only [State.fixed_mk, State.fixed_eta, apply_ite State.fixed, apply_ite Prod.fst, ite_self, implies_true,
        State.count_fixed, State.atCyc_fixed, State.pulseFeedback_fixed, State.shotEdge_fixed, State.close_fixed,
        State.zcEvent_fixed]; done)
    | split
    | intro _
    | (dsimp +zetaHave only))

theorem State.rampFails_fixed (s : State) (c : Nat) : (State.rampFails s c).fixed = s.fixed := by
  unfold State.rampFails
  repeat' (first
    | with_reducible rfl
    | (simp +zetaHave only [State.fixed_mk, State.fixed_eta, apply_ite State.fixed, apply_ite Prod.fst, ite_self, implies_true,
        apply_ite Rx.s, Rx.drop_s, State.raise_fixed]; done)
    | split
    | intro _
    | (dsimp +zetaHave only))

theorem State.imCalCfgWrite_fixed (s : State) (v : Nat) : (State.imCalCfgWrite s v).fixed = s.fixed := by
  unfold State.imCalCfgWrite
  repeat' (first
    | with_reducible rfl
    | (simp +zetaHave only [State.fixed_mk, State.fixed_eta, apply_ite State.fixed, apply_ite Prod.fst, ite_self, implies_true,
        State.wr_fixed]; done)
    | split
    | intro _
    | (dsimp +zetaHave only))

theorem State.imBoundary_fixed (s : State) : (State.imBoundary s).fixed = s.fixed := by
  unfold State.imBoundary
  repeat' (first
    | with_reducible rfl
    | (simp +zetaHave only [State.fixed_mk, State.fixed_eta, apply_ite State.fixed, apply_ite Prod.fst, ite_self, implies_true,
        State.count_fixed, State.closeWindows_fixed, State.shotEdge_fixed, State.timedStart_fixed,
        State.calFrame_fixed, State.zcTimeout_fixed, State.zcEvent_fixed, State.shotTime_fixed]; done)
    | split
    | intro _
    | (dsimp +zetaHave only))

theorem State.takeClocks_fixed (s : State) (l : List PortEdge) : (State.takeClocks s l).fixed = s.fixed := by
  unfold State.takeClocks
  repeat' (first
    | with_reducible rfl
    | (simp +zetaHave only [State.fixed_mk, State.fixed_eta, apply_ite State.fixed, apply_ite Prod.fst, ite_self, implies_true]; done)
    | split
    | intro _
    | (dsimp +zetaHave only))

theorem State.rampsFail_fixed (s : State) (l : List RampCal) : (State.rampsFail s l).fixed = s.fixed := by
  unfold State.rampsFail
  repeat' (first
    | with_reducible rfl
    | (simp +zetaHave only [State.fixed_mk, State.fixed_eta, apply_ite State.fixed, apply_ite Prod.fst, ite_self, implies_true,
        State.each_fixed, State.rampFails_fixed]; done)
    | split
    | intro _
    | (dsimp +zetaHave only)
    | refine (State.each_fixed _ _ _ ?_).trans ?_)

theorem State.latchStat_fixed (s : State) (m : Master) (k : Nat) : (State.latchStat s m k).fixed = s.fixed := by
  unfold State.latchStat
  repeat' (first
    | with_reducible rfl
    | (simp +zetaHave only [State.fixed_mk, State.fixed_eta, apply_ite State.fixed, apply_ite Prod.fst, ite_self, implies_true]; done)
    | split
    | intro _
    | (dsimp +zetaHave only))

theorem State.popRaw_fixed (s : State) (m : Master) : (State.popRaw s m).fixed = s.fixed := by
  unfold State.popRaw
  repeat' (first
    | with_reducible rfl
    | (simp +zetaHave only [State.fixed_mk, State.fixed_eta, apply_ite State.fixed, apply_ite Prod.fst, ite_self, implies_true]; done)
    | split
    | intro _
    | (dsimp +zetaHave only))

end Sys2Proof.Machine
end

