-- ==== Sys2Proof/Laws/FrameSeq.lean ====
section
/-! SUPPORT. Sys2Proof/Laws/FrameSeq.lean: no operation of Machine/Seq.lean touches the queue, the tie-offs or the start
phase of the block. -/

set_option linter.all false
set_option Elab.async false

namespace Sys2Proof.Machine
open Sys2Proof.Config
set_option linter.unusedSimpArgs false

theorem State.setSq_fixed (s : State) (v : SeqUnit) : (State.setSq s v).fixed = s.fixed := by
  unfold State.setSq
  repeat' (first
    | with_reducible rfl
    | (simp +zetaHave only [State.fixed_mk, State.fixed_eta, apply_ite State.fixed, apply_ite Prod.fst, ite_self, implies_true]; done)
    | split
    | intro _
    | (dsimp +zetaHave only))

theorem State.setG_fixed (s : State) (k : Nat) (v : Nat) (agreed : Bool) : (State.setG s k v agreed).fixed = s.fixed := by
  unfold State.setG
  repeat' (first
    | with_reducible rfl
    | (simp +zetaHave only [State.fixed_mk, State.fixed_eta, apply_ite State.fixed, apply_ite Prod.fst, ite_self, implies_true,
        State.setSq_fixed]; done)
    | split
    | intro _
    | (dsimp +zetaHave only))

theorem State.putWord_fixed (s : State) (i : Nat) (w : Nat) : (State.putWord s i w).fixed = s.fixed := by
  unfold State.putWord
  repeat' (first
    | with_reducible rfl
    | (simp +zetaHave only [State.fixed_mk, State.fixed_eta, apply_ite State.fixed, apply_ite Prod.fst, ite_self, implies_true,
        State.setSq_fixed]; done)
    | split
    | intro _
    | (dsimp +zetaHave only))

theorem State.storeWrite_fixed (s : State) (i : Nat) (w : Nat) : (State.storeWrite s i w).fixed = s.fixed := by
  unfold State.storeWrite
  repeat' (first
    | with_reducible rfl
    | (simp +zetaHave only [State.fixed_mk, State.fixed_eta, apply_ite State.fixed, apply_ite Prod.fst, ite_self, implies_true,
        State.count_fixed, State.putWord_fixed]; done)
    | split
    | intro _
    | (dsimp +zetaHave only))

theorem State.digestSeed_fixed (s : State) : (State.digestSeed s).fixed = s.fixed := by
  unfold State.digestSeed
  repeat' (first
    | with_reducible rfl
    | (simp +zetaHave only [State.fixed_mk, State.fixed_eta, apply_ite State.fixed, apply_ite Prod.fst, ite_self, implies_true,
        State.setSq_fixed]; done)
    | split
    | intro _
    | (dsimp +zetaHave only))

theorem State.record_fixed (s : State) (op : Nat) (v : Nat) : (State.record s op v).fixed = s.fixed := by
  unfold State.record
  repeat' (first
    | with_reducible rfl
    | (simp +zetaHave only [State.fixed_mk, State.fixed_eta, apply_ite State.fixed, apply_ite Prod.fst, ite_self, implies_true,
        State.setSq_fixed]; done)
    | split
    | intro _
    | (dsimp +zetaHave only))

theorem State.cancelLaunches_fixed (s : State) : (State.cancelLaunches s).fixed = s.fixed := by
  unfold State.cancelLaunches
  repeat' (first
    | with_reducible rfl
    | (simp +zetaHave only [State.fixed_mk, State.fixed_eta, apply_ite State.fixed, apply_ite Prod.fst, ite_self, implies_true,
        State.foldl_fixed, State.foldl_fst_fixed, State.sendDown_fixed]; done)
    | split
    | intro _
    | (dsimp +zetaHave only)
    | refine (State.foldl_fixed _ _ _ ?_).trans ?_
    | refine (State.foldl_fst_fixed _ _ _ ?_).trans ?_)

theorem State.programEnds_fixed (s : State) (st : SeqState) (code : Nat) (words : Bool) : (State.programEnds s st code words).fixed = s.fixed := by
  unfold State.programEnds
  repeat' (first
    | with_reducible rfl
    | (simp +zetaHave only [State.fixed_mk, State.fixed_eta, apply_ite State.fixed, apply_ite Prod.fst, ite_self, implies_true,
        State.cancelArmed_fixed, State.setSq_fixed, State.cancelLaunches_fixed]; done)
    | split
    | intro _
    | (dsimp +zetaHave only))

theorem State.abortProgram_fixed (s : State) : (State.abortProgram s).fixed = s.fixed := by
  unfold State.abortProgram
  repeat' (first
    | with_reducible rfl
    | (simp +zetaHave only [State.fixed_mk, State.fixed_eta, apply_ite State.fixed, apply_ite Prod.fst, ite_self, implies_true,
        State.foldl_fixed, State.foldl_fst_fixed, State.abortReq_fixed]; done)
    | split
    | intro _
    | (dsimp +zetaHave only)
    | refine (State.foldl_fixed _ _ _ ?_).trans ?_
    | refine (State.foldl_fst_fixed _ _ _ ?_).trans ?_)

theorem State.seqFails_fixed (s : State) (st : SeqState) (code : Nat) : (State.seqFails s st code).fixed = s.fixed := by
  unfold State.seqFails
  repeat' (first
    | with_reducible rfl
    | (simp +zetaHave only [State.fixed_mk, State.fixed_eta, apply_ite State.fixed, apply_ite Prod.fst, ite_self, implies_true,
        apply_ite SqOut.s, State.raise_fixed, State.programEnds_fixed, State.abortProgram_fixed]; done)
    | split
    | intro _
    | (dsimp +zetaHave only))

theorem State.seqFault_fixed (s : State) (code : Nat) : (State.seqFault s code).fixed = s.fixed := by
  unfold State.seqFault
  repeat' (first
    | with_reducible rfl
    | (simp +zetaHave only [State.fixed_mk, State.fixed_eta, apply_ite State.fixed, apply_ite Prod.fst, ite_self, implies_true,
        State.seqFails_fixed]; done)
    | split
    | intro _
    | (dsimp +zetaHave only))

theorem State.castVote_fixed (s : State) (step : Nat) (dig : Nat) : (State.castVote s step dig).1.fixed = s.fixed := by
  unfold State.castVote
  repeat' (first
    | with_reducible rfl
    | (simp +zetaHave only [State.fixed_mk, State.fixed_eta, apply_ite State.fixed, apply_ite Prod.fst, ite_self, implies_true,
        State.count_fixed, State.contributeHeld_fixed, State.setSq_fixed, State.contribute_fixed]; done)
    | split
    | intro _
    | (dsimp +zetaHave only))

theorem State.gangStepDone_fixed (s : State) (step : Nat) : (State.gangStepDone s step).fixed = s.fixed := by
  unfold State.gangStepDone
  repeat' (first
    | with_reducible rfl
    | (simp +zetaHave only [State.fixed_mk, State.fixed_eta, apply_ite State.fixed, apply_ite Prod.fst, ite_self, implies_true,
        State.setSq_fixed]; done)
    | split
    | intro _
    | (dsimp +zetaHave only))

theorem State.gangTold_fixed (s : State) : (State.gangTold s).fixed = s.fixed := by
  unfold State.gangTold
  repeat' (first
    | with_reducible rfl
    | (simp +zetaHave only [State.fixed_mk, State.fixed_eta, apply_ite State.fixed, apply_ite Prod.fst, ite_self, implies_true,
        State.setSq_fixed, State.seqFails_fixed]; done)
    | split
    | intro _
    | (dsimp +zetaHave only))

theorem State.gangJudge_fixed (s : State) : (State.gangJudge s).fixed = s.fixed := by
  unfold State.gangJudge
  repeat' (first
    | with_reducible rfl
    | (simp +zetaHave only [State.fixed_mk, State.fixed_eta, apply_ite State.fixed, apply_ite Prod.fst, ite_self, implies_true,
        State.setSq_fixed, State.seqFails_fixed, State.castVote_fixed, State.toMembers_fixed, State.gangStepDone_fixed]; done)
    | split
    | intro _
    | (dsimp +zetaHave only))

theorem State.gangDigest_fixed (s : State) (pos : Nat) (step : Nat) (dig : Nat) : (State.gangDigest s pos step dig).fixed = s.fixed := by
  unfold State.gangDigest
  repeat' (first
    | with_reducible rfl
    | (simp +zetaHave only [State.fixed_mk, State.fixed_eta, apply_ite State.fixed, apply_ite Prod.fst, ite_self, implies_true,
        State.setSq_fixed, State.gangJudge_fixed]; done)
    | split
    | intro _
    | (dsimp +zetaHave only))

theorem State.verdict_fixed (s : State) (a : Applied) : (State.verdict s a).fixed = s.fixed := by
  unfold State.verdict
  repeat' (first
    | with_reducible rfl
    | (simp +zetaHave only [State.fixed_mk, State.fixed_eta, apply_ite State.fixed, apply_ite Prod.fst, ite_self, implies_true,
        State.count_fixed, State.setSq_fixed, State.seqFails_fixed]; done)
    | split
    | intro _
    | (dsimp +zetaHave only))

theorem State.countReport_fixed (s : State) (r : LaunchReport) : (State.countReport s r).fixed = s.fixed := by
  unfold State.countReport
  repeat' (first
    | with_reducible rfl
    | (simp +zetaHave only [State.fixed_mk, State.fixed_eta, apply_ite State.fixed, apply_ite Prod.fst, ite_self, implies_true,
        State.count_fixed, State.setSq_fixed]; done)
    | split
    | intro _
    | (dsimp +zetaHave only))

theorem State.takeReport_fixed (s : State) (r : LaunchReport) : (State.takeReport s r).fixed = s.fixed := by
  unfold State.takeReport
  repeat' (first
    | with_reducible rfl
    | (simp +zetaHave only [State.fixed_mk, State.fixed_eta, apply_ite State.fixed, apply_ite Prod.fst, ite_self, implies_true,
        State.setSq_fixed, State.countReport_fixed]; done)
    | split
    | intro _
    | (dsimp +zetaHave only))

theorem State.nextReport_fixed (s : State) : (State.nextReport s).fixed = s.fixed := by
  unfold State.nextReport
  repeat' (first
    | with_reducible rfl
    | (simp +zetaHave only [State.fixed_mk, State.fixed_eta, apply_ite State.fixed, apply_ite Prod.fst, ite_self, implies_true,
        State.takeReport_fixed]; done)
    | split
    | intro _
    | (dsimp +zetaHave only))

theorem State.drainReports_fixed (s : State) : (State.drainReports s).fixed = s.fixed := by
  unfold State.drainReports
  repeat' (first
    | with_reducible rfl
    | (simp +zetaHave only [State.fixed_mk, State.fixed_eta, apply_ite State.fixed, apply_ite Prod.fst, ite_self, implies_true,
        State.foldl_fixed, State.foldl_fst_fixed, State.takeReport_fixed]; done)
    | split
    | intro _
    | (dsimp +zetaHave only)
    | refine (State.foldl_fixed _ _ _ ?_).trans ?_
    | refine (State.foldl_fst_fixed _ _ _ ?_).trans ?_)

theorem State.reportsMissing_fixed (s : State) (n : Nat) : (State.reportsMissing s n).fixed = s.fixed := by
  unfold State.reportsMissing
  repeat' (first
    | with_reducible rfl
    | (simp +zetaHave only [State.fixed_mk, State.fixed_eta, apply_ite State.fixed, apply_ite Prod.fst, ite_self, implies_true,
        State.count_fixed, State.raise_fixed, State.setSq_fixed]; done)
    | split
    | intro _
    | (dsimp +zetaHave only))

theorem State.armOne_fixed (s : State) (tap : Nat) (line : Nat) (target : Int) : (State.armOne s tap line target).fixed = s.fixed := by
  unfold State.armOne
  repeat' (first
    | with_reducible rfl
    | (simp +zetaHave only [State.fixed_mk, State.fixed_eta, apply_ite State.fixed, apply_ite Prod.fst, ite_self, implies_true,
        State.count_fixed, State.raise_fixed, State.evt_fixed, State.sendDown_fixed, State.setSq_fixed,
        State.countReport_fixed]; done)
    | split
    | intro _
    | (dsimp +zetaHave only))

theorem State.armList_fixed (s : State) (taps : List Nat) (line : Nat) (target : Int) :
    (s.armList taps line target).1.fixed = s.fixed := by
  induction taps generalizing s with
  | nil => rfl
  | cons t l ih =>
    unfold State.armList
    split
    · rfl
    · rw [ih, State.armOne_fixed]

theorem State.programStart_fixed (s : State) (r : StartReq) (step : Nat) (nc : Nat) : (State.programStart s r step nc).fixed = s.fixed := by
  unfold State.programStart
  repeat' (first
    | with_reducible rfl
    | (simp +zetaHave only [State.fixed_mk, State.fixed_eta, apply_ite State.fixed, apply_ite Prod.fst, ite_self, implies_true,
        State.foldl_fixed, State.foldl_fst_fixed, State.setSq_fixed, State.digestSeed_fixed]; done)
    | split
    | intro _
    | (dsimp +zetaHave only)
    | refine (State.foldl_fixed _ _ _ ?_).trans ?_
    | refine (State.foldl_fst_fixed _ _ _ ?_).trans ?_)

theorem State.startBoundary_fixed (s : State) (nc : Nat) : (State.startBoundary s nc).fixed = s.fixed := by
  unfold State.startBoundary
  repeat' (first
    | with_reducible rfl
    | (simp +zetaHave only [State.fixed_mk, State.fixed_eta, apply_ite State.fixed, apply_ite Prod.fst, ite_self, implies_true,
        State.setSq_fixed, State.programStart_fixed]; done)
    | split
    | intro _
    | (dsimp +zetaHave only))

theorem State.stopBoundary_fixed (s : State) (nc : Nat) : (State.stopBoundary s nc).fixed = s.fixed := by
  unfold State.stopBoundary
  repeat' (first
    | with_reducible rfl
    | (simp +zetaHave only [State.fixed_mk, State.fixed_eta, apply_ite State.fixed, apply_ite Prod.fst, ite_self, implies_true,
        State.setSq_fixed, State.programEnds_fixed]; done)
    | split
    | intro _
    | (dsimp +zetaHave only))

theorem State.dueEvent_fixed (s : State) (kind nc : Nat) {q : EventRec × State} (h : s.dueEvent kind nc = some q) :
    q.2.fixed = s.fixed := by
  unfold State.dueEvent at h
  obtain ⟨e, -, rfl⟩ := Option.map_eq_some_iff.mp h
  rfl

theorem State.eventStop_fixed (s : State) (nc : Nat) (stopped : Bool) : (s.eventStop nc stopped).fixed = s.fixed := by
  unfold State.eventStop
  split
  · rfl
  · rename_i e t h
    rw [← State.dueEvent_fixed s _ _ h]
    (repeat' split) <;> simp only [State.programEnds_fixed, State.count_fixed]

theorem State.eventStart_fixed (s : State) (nc : Nat) : (s.eventStart nc).fixed = s.fixed := by
  unfold State.eventStart
  split
  · rfl
  · rename_i e t h
    rw [← State.dueEvent_fixed s _ _ h]
    (repeat' split) <;> simp only [State.programStart_fixed, State.count_fixed]

theorem State.eventStops_fixed (s : State) (nc : Nat) (stopped : Bool) : (State.eventStops s nc stopped).fixed = s.fixed := by
  unfold State.eventStops
  repeat' (first
    | with_reducible rfl
    | (simp +zetaHave only [State.fixed_mk, State.fixed_eta, apply_ite State.fixed, apply_ite Prod.fst, ite_self, implies_true,
        State.each_fixed, State.eventStop_fixed]; done)
    | split
    | intro _
    | (dsimp +zetaHave only)
    | refine (State.each_fixed _ _ _ ?_).trans ?_)

theorem State.eventStarts_fixed (s : State) (nc : Nat) : (State.eventStarts s nc).fixed = s.fixed := by
  unfold State.eventStarts
  repeat' (first
    | with_reducible rfl
    | (simp +zetaHave only [State.fixed_mk, State.fixed_eta, apply_ite State.fixed, apply_ite Prod.fst, ite_self, implies_true,
        State.each_fixed, State.eventStart_fixed]; done)
    | split
    | intro _
    | (dsimp +zetaHave only)
    | refine (State.each_fixed _ _ _ ?_).trans ?_)

theorem State.retireAt_fixed (s : State) (pc : Nat) : (State.retireAt s pc).fixed = s.fixed := by
  unfold State.retireAt
  repeat' (first
    | with_reducible rfl
    | (simp +zetaHave only [State.fixed_mk, State.fixed_eta, apply_ite State.fixed, apply_ite Prod.fst, ite_self, implies_true,
        State.evt_fixed, State.setSq_fixed]; done)
    | split
    | intro _
    | (dsimp +zetaHave only))

theorem State.runInstr_fixed (s : State) (op : Nat) (m : Option (State → SqOut)) (f : SeqArgs)
    (h : ∀ g, m = some g → ∀ t, (g t).s.fixed = t.fixed) : (s.runInstr op m f).1.fixed = s.fixed := by
  unfold State.runInstr
  dsimp +zetaHave only
  repeat' split
  all_goals simp only [State.seqFault_fixed, State.retireAt_fixed, State.setSq_fixed, State.openGate_fixed, State.busy_fixed]
  all_goals simp only [h _ rfl, State.openGate_fixed, State.busy_fixed]

theorem State.stall_fixed (s : State) : (State.stall s).s.fixed = s.fixed := by
  unfold State.stall
  repeat' (first
    | with_reducible rfl
    | (simp +zetaHave only [State.fixed_mk, State.fixed_eta, apply_ite State.fixed, apply_ite Prod.fst, ite_self, implies_true,
        apply_ite SqOut.s, State.count_fixed, State.setSq_fixed]; done)
    | split
    | intro _
    | (dsimp +zetaHave only))

theorem State.seqHorizon_fixed (s : State) (nc : Nat) : (State.seqHorizon s nc).fixed = s.fixed := by
  unfold State.seqHorizon
  repeat' (first
    | with_reducible rfl
    | (simp +zetaHave only [State.fixed_mk, State.fixed_eta, apply_ite State.fixed, apply_ite Prod.fst, ite_self, implies_true,
        State.setSq_fixed]; done)
    | split
    | intro _
    | (dsimp +zetaHave only))

theorem State.seqUnderlay_fixed (s : State) : (State.seqUnderlay s).fixed = s.fixed := by
  unfold State.seqUnderlay
  repeat' (first
    | with_reducible rfl
    | (simp +zetaHave only [State.fixed_mk, State.fixed_eta, apply_ite State.fixed, apply_ite Prod.fst, ite_self, implies_true,
        State.freezesDropped_fixed, State.setSq_fixed, State.programEnds_fixed]; done)
    | split
    | intro _
    | (dsimp +zetaHave only))

theorem State.seqTimeStep_fixed (s : State) : (State.seqTimeStep s).fixed = s.fixed := by
  unfold State.seqTimeStep
  repeat' (first
    | with_reducible rfl
    | (simp +zetaHave only [State.fixed_mk, State.fixed_eta, apply_ite State.fixed, apply_ite Prod.fst, ite_self, implies_true,
        State.programEnds_fixed]; done)
    | split
    | intro _
    | (dsimp +zetaHave only))

theorem State.seqReset_fixed (s : State) : (State.seqReset s).fixed = s.fixed := by
  unfold State.seqReset
  repeat' (first
    | with_reducible rfl
    | (simp +zetaHave only [State.fixed_mk, State.fixed_eta, apply_ite State.fixed, apply_ite Prod.fst, ite_self, implies_true,
        State.setSq_fixed]; done)
    | split
    | intro _
    | (dsimp +zetaHave only))

end Sys2Proof.Machine
end

