-- ==== Sys2Proof/Laws/FrameProgram.lean ====
section
/-! SUPPORT. Sys2Proof/Laws/FrameProgram.lean: no operation of Machine/Program.lean touches the queue, the tie-offs or the start
phase of the block. -/

set_option linter.all false
set_option Elab.async false

namespace Sys2Proof.Machine
open Sys2Proof.Config
set_option linter.unusedSimpArgs false

theorem State.gives_fixed (s : State) (d : Nat) (v : Nat) (agreed : Bool) : (State.gives s d v agreed).s.fixed = s.fixed := by
  unfold State.gives
  repeat' (first
    | with_reducible rfl
    | (simp +zetaHave only [State.fixed_mk, State.fixed_eta, apply_ite State.fixed, apply_ite Prod.fst, ite_self, implies_true,
        apply_ite SqOut.s, State.setG_fixed]; done)
    | split
    | intro _
    | (dsimp +zetaHave only))

theorem State.alu_fixed (s : State) (f : SeqArgs) (v : Nat) : (State.alu s f v).s.fixed = s.fixed := by
  unfold State.alu
  repeat' (first
    | with_reducible rfl
    | (simp +zetaHave only [State.fixed_mk, State.fixed_eta, apply_ite State.fixed, apply_ite Prod.fst, ite_self, implies_true,
        apply_ite SqOut.s, State.gives_fixed]; done)
    | split
    | intro _
    | (dsimp +zetaHave only))

theorem State.alu1_fixed (s : State) (f : SeqArgs) (v : Nat) : (State.alu1 s f v).s.fixed = s.fixed := by
  unfold State.alu1
  repeat' (first
    | with_reducible rfl
    | (simp +zetaHave only [State.fixed_mk, State.fixed_eta, apply_ite State.fixed, apply_ite Prod.fst, ite_self, implies_true,
        apply_ite SqOut.s, State.gives_fixed]; done)
    | split
    | intro _
    | (dsimp +zetaHave only))

theorem sqNop_fixed (x0 : SeqArgs) (x1 : Nat) (s : State) : (sqNop x0 x1 s).s.fixed = s.fixed := by
  unfold sqNop
  repeat' (first
    | with_reducible rfl
    | (simp +zetaHave only [State.fixed_mk, State.fixed_eta, apply_ite State.fixed, apply_ite Prod.fst, ite_self, implies_true,
        apply_ite SqOut.s]; done)
    | split
    | intro _
    | (dsimp +zetaHave only))

theorem sqHalt_fixed (x0 : SeqArgs) (x1 : Nat) (s : State) : (sqHalt x0 x1 s).s.fixed = s.fixed := by
  unfold sqHalt
  repeat' (first
    | with_reducible rfl
    | (simp +zetaHave only [State.fixed_mk, State.fixed_eta, apply_ite State.fixed, apply_ite Prod.fst, ite_self, implies_true,
        apply_ite SqOut.s, State.programEnds_fixed]; done)
    | split
    | intro _
    | (dsimp +zetaHave only))

theorem sqJmp_fixed (f : SeqArgs) (x1 : Nat) (s : State) : (sqJmp f x1 s).s.fixed = s.fixed := by
  unfold sqJmp
  repeat' (first
    | with_reducible rfl
    | (simp +zetaHave only [State.fixed_mk, State.fixed_eta, apply_ite State.fixed, apply_ite Prod.fst, ite_self, implies_true,
        apply_ite SqOut.s]; done)
    | split
    | intro _
    | (dsimp +zetaHave only))

theorem State.branch_fixed (s : State) (op : Nat) (f : SeqArgs) (taken : Bool) : (State.branch s op f taken).s.fixed = s.fixed := by
  unfold State.branch
  repeat' (first
    | with_reducible rfl
    | (simp +zetaHave only [State.fixed_mk, State.fixed_eta, apply_ite State.fixed, apply_ite Prod.fst, ite_self, implies_true,
        apply_ite SqOut.s, State.record_fixed]; done)
    | split
    | intro _
    | (dsimp +zetaHave only))

theorem sqBr_fixed (f : SeqArgs) (x1 : Nat) (s : State) : (sqBr f x1 s).s.fixed = s.fixed := by
  unfold sqBr
  repeat' (first
    | with_reducible rfl
    | (simp +zetaHave only [State.fixed_mk, State.fixed_eta, apply_ite State.fixed, apply_ite Prod.fst, ite_self, implies_true,
        apply_ite SqOut.s, State.branch_fixed]; done)
    | split
    | intro _
    | (dsimp +zetaHave only))

theorem sqBri_fixed (f : SeqArgs) (x1 : Nat) (s : State) : (sqBri f x1 s).s.fixed = s.fixed := by
  unfold sqBri
  repeat' (first
    | with_reducible rfl
    | (simp +zetaHave only [State.fixed_mk, State.fixed_eta, apply_ite State.fixed, apply_ite Prod.fst, ite_self, implies_true,
        apply_ite SqOut.s, State.branch_fixed]; done)
    | split
    | intro _
    | (dsimp +zetaHave only))

theorem State.awaitRoom_fixed (s : State) : (State.awaitRoom s).s.fixed = s.fixed := by
  unfold State.awaitRoom
  repeat' (first
    | with_reducible rfl
    | (simp +zetaHave only [State.fixed_mk, State.fixed_eta, apply_ite State.fixed, apply_ite Prod.fst, ite_self, implies_true,
        apply_ite SqOut.s, State.count_fixed, State.setSq_fixed]; done)
    | split
    | intro _
    | (dsimp +zetaHave only))

theorem State.stepDone_fixed (s : State) (step : Nat) (dig : Nat) : (State.stepDone s step dig).fixed = s.fixed := by
  unfold State.stepDone
  repeat' (first
    | with_reducible rfl
    | (simp +zetaHave only [State.fixed_mk, State.fixed_eta, apply_ite State.fixed, apply_ite Prod.fst, ite_self, implies_true,
        State.evt_fixed, State.setSq_fixed, State.digestSeed_fixed]; done)
    | split
    | intro _
    | (dsimp +zetaHave only))

theorem sqStepend_fixed (x0 : SeqArgs) (x1 : Nat) (s : State) : (sqStepend x0 x1 s).s.fixed = s.fixed := by
  unfold sqStepend
  repeat' (first
    | with_reducible rfl
    | (simp +zetaHave only [State.fixed_mk, State.fixed_eta, apply_ite State.fixed, apply_ite Prod.fst, ite_self, implies_true,
        apply_ite SqOut.s, State.emit_fixed, State.evt_fixed, State.setSq_fixed, State.digestSeed_fixed,
        State.castVote_fixed, State.gangJudge_fixed, State.gangDigest_fixed, State.stall_fixed, State.stepDone_fixed,
        State.awaitRoom_fixed]; done)
    | split
    | intro _
    | (dsimp +zetaHave only))

theorem sqWaitc_fixed (f : SeqArgs) (nc : Nat) (s : State) : (sqWaitc f nc s).s.fixed = s.fixed := by
  unfold sqWaitc
  repeat' (first
    | with_reducible rfl
    | (simp +zetaHave only [State.fixed_mk, State.fixed_eta, apply_ite State.fixed, apply_ite Prod.fst, ite_self, implies_true,
        apply_ite SqOut.s, State.setSq_fixed, State.record_fixed]; done)
    | split
    | intro _
    | (dsimp +zetaHave only))

theorem sqLi_fixed (f : SeqArgs) (x1 : Nat) (s : State) : (sqLi f x1 s).s.fixed = s.fixed := by
  unfold sqLi
  repeat' (first
    | with_reducible rfl
    | (simp +zetaHave only [State.fixed_mk, State.fixed_eta, apply_ite State.fixed, apply_ite Prod.fst, ite_self, implies_true,
        apply_ite SqOut.s, State.gives_fixed]; done)
    | split
    | intro _
    | (dsimp +zetaHave only))

theorem sqLih_fixed (f : SeqArgs) (x1 : Nat) (s : State) : (sqLih f x1 s).s.fixed = s.fixed := by
  unfold sqLih
  repeat' (first
    | with_reducible rfl
    | (simp +zetaHave only [State.fixed_mk, State.fixed_eta, apply_ite State.fixed, apply_ite Prod.fst, ite_self, implies_true,
        apply_ite SqOut.s, State.gives_fixed]; done)
    | split
    | intro _
    | (dsimp +zetaHave only))

theorem sqMov_fixed (f : SeqArgs) (x1 : Nat) (s : State) : (sqMov f x1 s).s.fixed = s.fixed := by
  unfold sqMov
  repeat' (first
    | with_reducible rfl
    | (simp +zetaHave only [State.fixed_mk, State.fixed_eta, apply_ite State.fixed, apply_ite Prod.fst, ite_self, implies_true,
        apply_ite SqOut.s, State.alu1_fixed]; done)
    | split
    | intro _
    | (dsimp +zetaHave only))

theorem sqAdd_fixed (f : SeqArgs) (x1 : Nat) (s : State) : (sqAdd f x1 s).s.fixed = s.fixed := by
  unfold sqAdd
  repeat' (first
    | with_reducible rfl
    | (simp +zetaHave only [State.fixed_mk, State.fixed_eta, apply_ite State.fixed, apply_ite Prod.fst, ite_self, implies_true,
        apply_ite SqOut.s, State.alu_fixed]; done)
    | split
    | intro _
    | (dsimp +zetaHave only))

theorem sqSub_fixed (f : SeqArgs) (x1 : Nat) (s : State) : (sqSub f x1 s).s.fixed = s.fixed := by
  unfold sqSub
  repeat' (first
    | with_reducible rfl
    | (simp +zetaHave only [State.fixed_mk, State.fixed_eta, apply_ite State.fixed, apply_ite Prod.fst, ite_self, implies_true,
        apply_ite SqOut.s, State.alu_fixed]; done)
    | split
    | intro _
    | (dsimp +zetaHave only))

theorem sqAnd_fixed (f : SeqArgs) (x1 : Nat) (s : State) : (sqAnd f x1 s).s.fixed = s.fixed := by
  unfold sqAnd
  repeat' (first
    | with_reducible rfl
    | (simp +zetaHave only [State.fixed_mk, State.fixed_eta, apply_ite State.fixed, apply_ite Prod.fst, ite_self, implies_true,
        apply_ite SqOut.s, State.alu_fixed]; done)
    | split
    | intro _
    | (dsimp +zetaHave only))

theorem sqOr_fixed (f : SeqArgs) (x1 : Nat) (s : State) : (sqOr f x1 s).s.fixed = s.fixed := by
  unfold sqOr
  repeat' (first
    | with_reducible rfl
    | (simp +zetaHave only [State.fixed_mk, State.fixed_eta, apply_ite State.fixed, apply_ite Prod.fst, ite_self, implies_true,
        apply_ite SqOut.s, State.alu_fixed]; done)
    | split
    | intro _
    | (dsimp +zetaHave only))

theorem sqXor_fixed (f : SeqArgs) (x1 : Nat) (s : State) : (sqXor f x1 s).s.fixed = s.fixed := by
  unfold sqXor
  repeat' (first
    | with_reducible rfl
    | (simp +zetaHave only [State.fixed_mk, State.fixed_eta, apply_ite State.fixed, apply_ite Prod.fst, ite_self, implies_true,
        apply_ite SqOut.s, State.alu_fixed]; done)
    | split
    | intro _
    | (dsimp +zetaHave only))

theorem sqAddi_fixed (f : SeqArgs) (x1 : Nat) (s : State) : (sqAddi f x1 s).s.fixed = s.fixed := by
  unfold sqAddi
  repeat' (first
    | with_reducible rfl
    | (simp +zetaHave only [State.fixed_mk, State.fixed_eta, apply_ite State.fixed, apply_ite Prod.fst, ite_self, implies_true,
        apply_ite SqOut.s, State.alu1_fixed]; done)
    | split
    | intro _
    | (dsimp +zetaHave only))

theorem sqShl_fixed (f : SeqArgs) (x1 : Nat) (s : State) : (sqShl f x1 s).s.fixed = s.fixed := by
  unfold sqShl
  repeat' (first
    | with_reducible rfl
    | (simp +zetaHave only [State.fixed_mk, State.fixed_eta, apply_ite State.fixed, apply_ite Prod.fst, ite_self, implies_true,
        apply_ite SqOut.s, State.alu1_fixed]; done)
    | split
    | intro _
    | (dsimp +zetaHave only))

theorem sqShr_fixed (f : SeqArgs) (x1 : Nat) (s : State) : (sqShr f x1 s).s.fixed = s.fixed := by
  unfold sqShr
  repeat' (first
    | with_reducible rfl
    | (simp +zetaHave only [State.fixed_mk, State.fixed_eta, apply_ite State.fixed, apply_ite Prod.fst, ite_self, implies_true,
        apply_ite SqOut.s, State.alu1_fixed]; done)
    | split
    | intro _
    | (dsimp +zetaHave only))

theorem sqSar_fixed (f : SeqArgs) (x1 : Nat) (s : State) : (sqSar f x1 s).s.fixed = s.fixed := by
  unfold sqSar
  repeat' (first
    | with_reducible rfl
    | (simp +zetaHave only [State.fixed_mk, State.fixed_eta, apply_ite State.fixed, apply_ite Prod.fst, ite_self, implies_true,
        apply_ite SqOut.s, State.alu1_fixed]; done)
    | split
    | intro _
    | (dsimp +zetaHave only))

theorem sqMul_fixed (f : SeqArgs) (x1 : Nat) (s : State) : (sqMul f x1 s).s.fixed = s.fixed := by
  unfold sqMul
  repeat' (first
    | with_reducible rfl
    | (simp +zetaHave only [State.fixed_mk, State.fixed_eta, apply_ite State.fixed, apply_ite Prod.fst, ite_self, implies_true,
        apply_ite SqOut.s, State.alu_fixed]; done)
    | split
    | intro _
    | (dsimp +zetaHave only))

theorem sqMinu_fixed (f : SeqArgs) (x1 : Nat) (s : State) : (sqMinu f x1 s).s.fixed = s.fixed := by
  unfold sqMinu
  repeat' (first
    | with_reducible rfl
    | (simp +zetaHave only [State.fixed_mk, State.fixed_eta, apply_ite State.fixed, apply_ite Prod.fst, ite_self, implies_true,
        apply_ite SqOut.s, State.alu_fixed]; done)
    | split
    | intro _
    | (dsimp +zetaHave only))

theorem sqMaxu_fixed (f : SeqArgs) (x1 : Nat) (s : State) : (sqMaxu f x1 s).s.fixed = s.fixed := by
  unfold sqMaxu
  repeat' (first
    | with_reducible rfl
    | (simp +zetaHave only [State.fixed_mk, State.fixed_eta, apply_ite State.fixed, apply_ite Prod.fst, ite_self, implies_true,
        apply_ite SqOut.s, State.alu_fixed]; done)
    | split
    | intro _
    | (dsimp +zetaHave only))

theorem sqRdstep_fixed (f : SeqArgs) (x1 : Nat) (s : State) : (sqRdstep f x1 s).s.fixed = s.fixed := by
  unfold sqRdstep
  repeat' (first
    | with_reducible rfl
    | (simp +zetaHave only [State.fixed_mk, State.fixed_eta, apply_ite State.fixed, apply_ite Prod.fst, ite_self, implies_true,
        apply_ite SqOut.s, State.gives_fixed]; done)
    | split
    | intro _
    | (dsimp +zetaHave only))

theorem sqRdcrs_fixed (f : SeqArgs) (nc : Nat) (s : State) : (sqRdcrs f nc s).s.fixed = s.fixed := by
  unfold sqRdcrs
  repeat' (first
    | with_reducible rfl
    | (simp +zetaHave only [State.fixed_mk, State.fixed_eta, apply_ite State.fixed, apply_ite Prod.fst, ite_self, implies_true,
        apply_ite SqOut.s, State.gives_fixed]; done)
    | split
    | intro _
    | (dsimp +zetaHave only))

theorem sqRdte_fixed (f : SeqArgs) (x1 : Nat) (s : State) : (sqRdte f x1 s).s.fixed = s.fixed := by
  unfold sqRdte
  repeat' (first
    | with_reducible rfl
    | (simp +zetaHave only [State.fixed_mk, State.fixed_eta, apply_ite State.fixed, apply_ite Prod.fst, ite_self, implies_true,
        apply_ite SqOut.s, State.gives_fixed]; done)
    | split
    | intro _
    | (dsimp +zetaHave only))

theorem sqRdlr_fixed (f : SeqArgs) (x1 : Nat) (s : State) : (sqRdlr f x1 s).s.fixed = s.fixed := by
  unfold sqRdlr
  repeat' (first
    | with_reducible rfl
    | (simp +zetaHave only [State.fixed_mk, State.fixed_eta, apply_ite State.fixed, apply_ite Prod.fst, ite_self, implies_true,
        apply_ite SqOut.s, State.setSq_fixed, State.gives_fixed]; done)
    | split
    | intro _
    | (dsimp +zetaHave only))

theorem sqLcfg_fixed (f : SeqArgs) (x1 : Nat) (s : State) : (sqLcfg f x1 s).s.fixed = s.fixed := by
  unfold sqLcfg
  repeat' (first
    | with_reducible rfl
    | (simp +zetaHave only [State.fixed_mk, State.fixed_eta, apply_ite State.fixed, apply_ite Prod.fst, ite_self, implies_true,
        apply_ite SqOut.s, State.setSq_fixed]; done)
    | split
    | intro _
    | (dsimp +zetaHave only))

theorem sqArm_fixed (f : SeqArgs) (x1 : Nat) (s : State) : (sqArm f x1 s).s.fixed = s.fixed := by
  unfold sqArm
  repeat' (first
    | with_reducible rfl
    | (simp +zetaHave only [State.fixed_mk, State.fixed_eta, apply_ite State.fixed, apply_ite Prod.fst, ite_self, implies_true,
        apply_ite SqOut.s, State.record_fixed, State.armOne_fixed, State.stall_fixed]; done)
    | split
    | intro _
    | (dsimp +zetaHave only))

theorem sqArmm_fixed (f : SeqArgs) (x1 : Nat) (s : State) : (sqArmm f x1 s).s.fixed = s.fixed := by
  unfold sqArmm
  repeat' (first
    | with_reducible rfl
    | (simp +zetaHave only [State.fixed_mk, State.fixed_eta, apply_ite State.fixed, apply_ite Prod.fst, ite_self, implies_true,
        State.foldl_fixed, State.foldl_fst_fixed, apply_ite SqOut.s, State.setSq_fixed, State.record_fixed,
        State.armList_fixed, State.stall_fixed]; done)
    | split
    | intro _
    | (dsimp +zetaHave only)
    | refine (State.foldl_fixed _ _ _ ?_).trans ?_
    | refine (State.foldl_fst_fixed _ _ _ ?_).trans ?_)

theorem sqCancel_fixed (f : SeqArgs) (x1 : Nat) (s : State) : (sqCancel f x1 s).s.fixed = s.fixed := by
  unfold sqCancel
  repeat' (first
    | with_reducible rfl
    | (simp +zetaHave only [State.fixed_mk, State.fixed_eta, apply_ite State.fixed, apply_ite Prod.fst, ite_self, implies_true,
        State.each_fixed, apply_ite SqOut.s, State.sendDown_fixed, State.record_fixed]; done)
    | split
    | intro _
    | (dsimp +zetaHave only)
    | refine (State.each_fixed _ _ _ ?_).trans ?_)

theorem sqPulse_fixed (f : SeqArgs) (nc : Nat) (s : State) : (sqPulse f nc s).s.fixed = s.fixed := by
  unfold sqPulse
  repeat' (first
    | with_reducible rfl
    | (simp +zetaHave only [State.fixed_mk, State.fixed_eta, apply_ite State.fixed, apply_ite Prod.fst, ite_self, implies_true,
        apply_ite SqOut.s, State.addPulse_fixed, State.record_fixed]; done)
    | split
    | intro _
    | (dsimp +zetaHave only))

theorem sqFrz_fixed (f : SeqArgs) (nc : Nat) (s : State) : (sqFrz f nc s).s.fixed = s.fixed := by
  unfold sqFrz
  repeat' (first
    | with_reducible rfl
    | (simp +zetaHave only [State.fixed_mk, State.fixed_eta, apply_ite State.fixed, apply_ite Prod.fst, ite_self, implies_true,
        apply_ite SqOut.s, State.addFreeze_fixed, State.record_fixed]; done)
    | split
    | intro _
    | (dsimp +zetaHave only))

theorem sqContrib_fixed (f : SeqArgs) (x1 : Nat) (s : State) : (sqContrib f x1 s).s.fixed = s.fixed := by
  unfold sqContrib
  repeat' (first
    | with_reducible rfl
    | (simp +zetaHave only [State.fixed_mk, State.fixed_eta, apply_ite State.fixed, apply_ite Prod.fst, ite_self, implies_true,
        apply_ite SqOut.s, State.count_fixed, State.contribute_fixed, State.setSq_fixed, State.record_fixed,
        State.awaitRoom_fixed]; done)
    | split
    | intro _
    | (dsimp +zetaHave only))

theorem sqWaitr_fixed (f : SeqArgs) (x1 : Nat) (s : State) : (sqWaitr f x1 s).s.fixed = s.fixed := by
  unfold sqWaitr
  repeat' (first
    | with_reducible rfl
    | (simp +zetaHave only [State.fixed_mk, State.fixed_eta, apply_ite State.fixed, apply_ite Prod.fst, ite_self, implies_true,
        apply_ite SqOut.s, State.record_fixed, State.gives_fixed]; done)
    | split
    | intro _
    | (dsimp +zetaHave only))

theorem State.resultLane_fixed (s : State) (o : CollOutcome) (k : Nat) : (State.resultLane s o k).1.fixed = s.fixed := by
  unfold State.resultLane
  repeat' (first
    | with_reducible rfl
    | (simp +zetaHave only [State.fixed_mk, State.fixed_eta, apply_ite State.fixed, apply_ite Prod.fst, ite_self, implies_true,
        apply_ite SqOut.s, State.drawFree_fixed]; done)
    | split
    | intro _
    | (dsimp +zetaHave only))

theorem sqResult_fixed (f : SeqArgs) (x1 : Nat) (s : State) : (sqResult f x1 s).s.fixed = s.fixed := by
  unfold sqResult
  repeat' (first
    | with_reducible rfl
    | (simp +zetaHave only [State.fixed_mk, State.fixed_eta, apply_ite State.fixed, apply_ite Prod.fst, ite_self, implies_true,
        apply_ite SqOut.s, State.record_fixed, State.gives_fixed, State.resultLane_fixed]; done)
    | split
    | intro _
    | (dsimp +zetaHave only))

theorem sqDeadl_fixed (f : SeqArgs) (x1 : Nat) (s : State) : (sqDeadl f x1 s).s.fixed = s.fixed := by
  unfold sqDeadl
  repeat' (first
    | with_reducible rfl
    | (simp +zetaHave only [State.fixed_mk, State.fixed_eta, apply_ite State.fixed, apply_ite Prod.fst, ite_self, implies_true,
        apply_ite SqOut.s, State.setHandle_fixed, State.record_fixed]; done)
    | split
    | intro _
    | (dsimp +zetaHave only))

theorem sqObjop_fixed (f : SeqArgs) (x1 : Nat) (s : State) : (sqObjop f x1 s).s.fixed = s.fixed := by
  unfold sqObjop
  repeat' (first
    | with_reducible rfl
    | (simp +zetaHave only [State.fixed_mk, State.fixed_eta, apply_ite State.fixed, apply_ite Prod.fst, ite_self, implies_true,
        apply_ite SqOut.s, State.programOp_fixed, State.gives_fixed]; done)
    | split
    | intro _
    | (dsimp +zetaHave only))

theorem sqMeaning_fixed (op : Nat) (f : SeqArgs) (nc : Nat) (g : State → SqOut) (h : sqMeaning op f nc = some g) (t : State) :
    (g t).s.fixed = t.fixed := by
  unfold sqMeaning at h
  split at h <;> first | cases h | skip
  all_goals simp only [sqNop_fixed, sqHalt_fixed, sqJmp_fixed, sqBr_fixed, sqBri_fixed, sqStepend_fixed, sqWaitc_fixed,
        sqLi_fixed, sqLih_fixed, sqMov_fixed, sqAdd_fixed, sqSub_fixed, sqAnd_fixed, sqOr_fixed, sqXor_fixed,
        sqAddi_fixed, sqShl_fixed, sqShr_fixed, sqSar_fixed, sqMul_fixed, sqMinu_fixed, sqMaxu_fixed,
        sqRdstep_fixed, sqRdcrs_fixed, sqRdte_fixed, sqRdlr_fixed, sqLcfg_fixed, sqArm_fixed, sqArmm_fixed,
        sqCancel_fixed, sqPulse_fixed, sqFrz_fixed, sqContrib_fixed, sqWaitr_fixed, sqResult_fixed, sqDeadl_fixed,
        sqObjop_fixed]

theorem State.fetchRun_fixed (s : State) (nc : Nat) : (s.fetchRun nc).1.fixed = s.fixed :=
  State.runInstr_fixed s _ _ _ fun g h t => sqMeaning_fixed _ _ _ g h t

theorem State.seqBurst_fixed (s : State) (k nc : Nat) : (s.seqBurst k nc).fixed = s.fixed := by
  induction k generalizing s with
  | zero => exact State.count_fixed s _ _
  | succ k ih =>
    unfold State.seqBurst
    dsimp +zetaHave only
    split
    · rw [ih, State.fetchRun_fixed]
    · exact State.fetchRun_fixed s nc

theorem State.runBurst_fixed (s : State) (nc : Nat) : (State.runBurst s nc).fixed = s.fixed := by
  unfold State.runBurst
  repeat' (first
    | with_reducible rfl
    | (simp +zetaHave only [State.fixed_mk, State.fixed_eta, apply_ite State.fixed, apply_ite Prod.fst, ite_self, implies_true,
        apply_ite SqOut.s, State.seqBurst_fixed]; done)
    | split
    | intro _
    | (dsimp +zetaHave only))

theorem State.seqBoundary_fixed (s : State) (n : Nat) (nc : Nat) : (State.seqBoundary s n nc).fixed = s.fixed := by
  unfold State.seqBoundary
  repeat' (first
    | with_reducible rfl
    | (simp +zetaHave only [State.fixed_mk, State.fixed_eta, apply_ite State.fixed, apply_ite Prod.fst, ite_self, implies_true,
        apply_ite SqOut.s, State.expireEvents_fixed, State.gangJudge_fixed, State.drainReports_fixed,
        State.reportsMissing_fixed, State.startBoundary_fixed, State.stopBoundary_fixed, State.eventStop_fixed,
        State.eventStart_fixed, State.seqHorizon_fixed, State.runBurst_fixed, State.gangTold_fixed,
        State.eventStops_fixed, State.eventStarts_fixed]; done)
    | split
    | intro _
    | (dsimp +zetaHave only))

theorem State.atPc_run_fixed (s : State) (op : Nat) (f : SeqArgs) (nc : Nat) :
    (s.runInstr op (sqMeaning op f nc) f).1.fixed = s.fixed :=
  State.runInstr_fixed s _ _ _ fun g h t => sqMeaning_fixed _ _ _ g h t

end Sys2Proof.Machine
end

