-- ==== Sys2Proof/Laws/FramePower.lean ====
section
/-! SUPPORT. Sys2Proof/Laws/FramePower.lean: no operation of Machine/Power.lean touches the queue, the tie-offs or the start
phase of the block. -/

set_option linter.all false
set_option Elab.async false

namespace Sys2Proof.Machine
open Sys2Proof.Config
set_option linter.unusedSimpArgs false

theorem State.refused_fixed (s : State) (l : List Nat) (st : Nat) : (State.refused s l st).fixed = s.fixed := by
  unfold State.refused
  repeat' (first
    | with_reducible rfl
    | (simp +zetaHave only [State.fixed_mk, State.fixed_eta, apply_ite State.fixed, apply_ite Prod.fst, ite_self, implies_true,
        State.foldl_fixed, State.foldl_fst_fixed, State.count_fixed, State.evt_fixed]; done)
    | split
    | intro _
    | (dsimp +zetaHave only)
    | refine (State.foldl_fixed _ _ _ ?_).trans ?_
    | refine (State.foldl_fst_fixed _ _ _ ?_).trans ?_)

theorem State.tryEnter_fixed (s : State) (st : Nat) (nc : Nat) (member : Bool) : (State.tryEnter s st nc member).fixed = s.fixed := by
  unfold State.tryEnter
  repeat' (first
    | with_reducible rfl
    | (simp +zetaHave only [State.fixed_mk, State.fixed_eta, apply_ite State.fixed, apply_ite Prod.fst, ite_self, implies_true,
        State.refused_fixed]; done)
    | split
    | intro _
    | (dsimp +zetaHave only))

theorem State.powerAttempt_fixed (s : State) (nc : Nat) (i : TickIn) : (State.powerAttempt s nc i).fixed = s.fixed := by
  unfold State.powerAttempt
  repeat' (first
    | with_reducible rfl
    | (simp +zetaHave only [State.fixed_mk, State.fixed_eta, apply_ite State.fixed, apply_ite Prod.fst, ite_self, implies_true,
        State.refused_fixed, State.tryEnter_fixed]; done)
    | split
    | intro _
    | (dsimp +zetaHave only))

theorem State.enterNap_fixed (s : State) : (State.enterNap s).fixed = s.fixed := by
  unfold State.enterNap
  repeat' (first
    | with_reducible rfl
    | (simp +zetaHave only [State.fixed_mk, State.fixed_eta, apply_ite State.fixed, apply_ite Prod.fst, ite_self, implies_true,
        State.count_fixed, State.evt_fixed, State.setPower_fixed]; done)
    | split
    | intro _
    | (dsimp +zetaHave only))

theorem State.napPlanned_fixed (s : State) (nc : Nat) : (State.napPlanned s nc).fixed = s.fixed := by
  unfold State.napPlanned
  repeat' (first
    | with_reducible rfl
    | (simp +zetaHave only [State.fixed_mk, State.fixed_eta, apply_ite State.fixed, apply_ite Prod.fst, ite_self, implies_true,
        State.wake_fixed]; done)
    | split
    | intro _
    | (dsimp +zetaHave only))

theorem State.thatchHold_fixed (s : State) (d : Dom) (nc : Nat) : (State.thatchHold s d nc).fixed = s.fixed := by
  unfold State.thatchHold
  repeat' (first
    | with_reducible rfl
    | (simp +zetaHave only [State.fixed_mk, State.fixed_eta, apply_ite State.fixed, apply_ite Prod.fst, ite_self, implies_true,
        State.modServo_fixed, State.enterHold_fixed]; done)
    | split
    | intro _
    | (dsimp +zetaHave only))

theorem State.enterThatch_fixed (s : State) (nc : Nat) (osc : Edge) : (State.enterThatch s nc osc).fixed = s.fixed := by
  unfold State.enterThatch
  repeat' (first
    | with_reducible rfl
    | (simp +zetaHave only [State.fixed_mk, State.fixed_eta, apply_ite State.fixed, apply_ite Prod.fst, ite_self, implies_true,
        State.each_fixed, State.count_fixed, State.setPower_fixed, State.abortShots_fixed, State.retire_fixed,
        State.thatchHold_fixed, State.clkoutDrive_fixed, State.fillAll_fixed]; done)
    | split
    | intro _
    | (dsimp +zetaHave only)
    | refine (State.each_fixed _ _ _ ?_).trans ?_)

theorem State.powerBoundary_fixed (s : State) (nc : Nat) (i : TickIn) : (State.powerBoundary s nc i).fixed = s.fixed := by
  unfold State.powerBoundary
  repeat' (first
    | with_reducible rfl
    | (simp +zetaHave only [State.fixed_mk, State.fixed_eta, apply_ite State.fixed, apply_ite Prod.fst, ite_self, implies_true,
        State.busy_fixed, State.powerAttempt_fixed, State.enterNap_fixed, State.enterThatch_fixed]; done)
    | split
    | intro _
    | (dsimp +zetaHave only))

theorem State.growSlept_fixed (s : State) (d : Dom) (from_ : Nat) (c : Nat) : (State.growSlept s d from_ c).fixed = s.fixed := by
  unfold State.growSlept
  repeat' (first
    | with_reducible rfl
    | (simp +zetaHave only [State.fixed_mk, State.fixed_eta, apply_ite State.fixed, apply_ite Prod.fst, ite_self, implies_true,
        State.setServo_fixed]; done)
    | split
    | intro _
    | (dsimp +zetaHave only))

theorem State.awaken_fixed (s : State) : (State.awaken s).fixed = s.fixed := by
  unfold State.awaken
  repeat' (first
    | with_reducible rfl
    | (simp +zetaHave only [State.fixed_mk, State.fixed_eta, apply_ite State.fixed, apply_ite Prod.fst, ite_self, implies_true,
        State.each_fixed, State.raise_fixed, State.setPower_fixed, State.startAdmission_fixed, State.raiseIf_fixed]; done)
    | split
    | intro _
    | (dsimp +zetaHave only)
    | refine (State.each_fixed _ _ _ ?_).trans ?_)

theorem State.waitLockBoundary_fixed (s : State) : (State.waitLockBoundary s).fixed = s.fixed := by
  unfold State.waitLockBoundary
  repeat' (first
    | with_reducible rfl
    | (simp +zetaHave only [State.fixed_mk, State.fixed_eta, apply_ite State.fixed, apply_ite Prod.fst, ite_self, implies_true]; done)
    | split
    | intro _
    | (dsimp +zetaHave only))

theorem State.powerRequest_fixed (s : State) (st : Nat) (t : State) (h : s.powerRequest st = some t) : t.fixed = s.fixed := by
  unfold State.powerRequest at h
  split at h
  · rw [← Option.some.inj h, State.fixed_mk, State.fixed_eta]
  · cases h

end Sys2Proof.Machine
end

