-- ==== Sys2Proof/Laws/FrameClock.lean ====
section
/-! SUPPORT. Sys2Proof/Laws/FrameClock.lean: no operation of Machine/Clock.lean touches the queue, the tie-offs or the start
phase of the block. -/

set_option linter.all false
set_option Elab.async false

namespace Sys2Proof.Machine
open Sys2Proof.Config
set_option linter.unusedSimpArgs false

theorem State.timingUnlock_fixed (s : State) : (State.timingUnlock s).fixed = s.fixed := by
  unfold State.timingUnlock
  repeat' (first
    | with_reducible rfl
    | (simp +zetaHave only [State.fixed_mk, State.fixed_eta, apply_ite State.fixed, apply_ite Prod.fst, ite_self, implies_true,
        State.count_fixed, State.raise_fixed]; done)
    | split
    | intro _
    | (dsimp +zetaHave only))

theorem State.logicUnlock_fixed (s : State) : (State.logicUnlock s).fixed = s.fixed := by
  unfold State.logicUnlock
  repeat' (first
    | with_reducible rfl
    | (simp +zetaHave only [State.fixed_mk, State.fixed_eta, apply_ite State.fixed, apply_ite Prod.fst, ite_self, implies_true,
        State.count_fixed, State.raise_fixed, State.underlayCause_fixed, State.fillAll_fixed]; done)
    | split
    | intro _
    | (dsimp +zetaHave only))

theorem State.ovenFall_fixed (s : State) : (State.ovenFall s).fixed = s.fixed := by
  unfold State.ovenFall
  repeat' (first
    | with_reducible rfl
    | (simp +zetaHave only [State.fixed_mk, State.fixed_eta, apply_ite State.fixed, apply_ite Prod.fst, ite_self, implies_true,
        State.count_fixed, State.raise_fixed]; done)
    | split
    | intro _
    | (dsimp +zetaHave only))

theorem State.ovenDrop_fixed (s : State) : (State.ovenDrop s).fixed = s.fixed := by
  unfold State.ovenDrop
  repeat' (first
    | with_reducible rfl
    | (simp +zetaHave only [State.fixed_mk, State.fixed_eta, apply_ite State.fixed, apply_ite Prod.fst, ite_self, implies_true,
        State.ovenFall_fixed]; done)
    | split
    | intro _
    | (dsimp +zetaHave only))

theorem State.ovenRise_fixed (s : State) : (State.ovenRise s).fixed = s.fixed := by
  unfold State.ovenRise
  repeat' (first
    | with_reducible rfl
    | (simp +zetaHave only [State.fixed_mk, State.fixed_eta, apply_ite State.fixed, apply_ite Prod.fst, ite_self, implies_true]; done)
    | split
    | intro _
    | (dsimp +zetaHave only))

theorem State.ovenTick_fixed (s : State) (level : Bool) : (State.ovenTick s level).fixed = s.fixed := by
  unfold State.ovenTick
  repeat' (first
    | with_reducible rfl
    | (simp +zetaHave only [State.fixed_mk, State.fixed_eta, apply_ite State.fixed, apply_ite Prod.fst, ite_self, implies_true,
        State.ovenDrop_fixed, State.ovenRise_fixed]; done)
    | split
    | intro _
    | (dsimp +zetaHave only))

theorem State.cgCtlWrite_fixed (s : State) (v : Nat) : (State.cgCtlWrite s v).fixed = s.fixed := by
  unfold State.cgCtlWrite
  repeat' (first
    | with_reducible rfl
    | (simp +zetaHave only [State.fixed_mk, State.fixed_eta, apply_ite State.fixed, apply_ite Prod.fst, ite_self, implies_true,
        State.wr_fixed, State.ovenFall_fixed]; done)
    | split
    | intro _
    | (dsimp +zetaHave only))

theorem State.closeGate_fixed (s : State) (k : Nat) : (State.closeGate s k).fixed = s.fixed := by
  unfold State.closeGate
  repeat' (first
    | with_reducible rfl
    | (simp +zetaHave only [State.fixed_mk, State.fixed_eta, apply_ite State.fixed, apply_ite Prod.fst, ite_self, implies_true]; done)
    | split
    | intro _
    | (dsimp +zetaHave only))

theorem State.gateAccess_fixed (s : State) (k : Nat) : (State.gateAccess s k).fixed = s.fixed := by
  unfold State.gateAccess
  repeat' (first
    | with_reducible rfl
    | (simp +zetaHave only [State.fixed_mk, State.fixed_eta, apply_ite State.fixed, apply_ite Prod.fst, ite_self, implies_true,
        State.count_fixed, State.openGate_fixed]; done)
    | split
    | intro _
    | (dsimp +zetaHave only))

theorem State.clkoutWrite_fixed (s : State) (v : Nat) : (State.clkoutWrite s v).fixed = s.fixed := by
  unfold State.clkoutWrite
  repeat' (first
    | with_reducible rfl
    | (simp +zetaHave only [State.fixed_mk, State.fixed_eta, apply_ite State.fixed, apply_ite Prod.fst, ite_self, implies_true,
        State.wr_fixed, State.emit_fixed, State.openGate_fixed, State.clkoutDrive_fixed]; done)
    | split
    | intro _
    | (dsimp +zetaHave only))

theorem State.clkoutTick_fixed (s : State) : (State.clkoutTick s).fixed = s.fixed := by
  unfold State.clkoutTick
  repeat' (first
    | with_reducible rfl
    | (simp +zetaHave only [State.fixed_mk, State.fixed_eta, apply_ite State.fixed, apply_ite Prod.fst, ite_self, implies_true,
        State.clkoutPulse_fixed, State.clkoutDrive_fixed]; done)
    | split
    | intro _
    | (dsimp +zetaHave only))

end Sys2Proof.Machine
end

