-- ==== Sys2Proof/Laws/FrameTree.lean ====
section
/-! SUPPORT. Sys2Proof/Laws/FrameTree.lean: no operation of Machine/Tree.lean touches the queue, the tie-offs or the start
phase of the block. -/

set_option linter.all false
set_option Elab.async false

namespace Sys2Proof.Machine
open Sys2Proof.Config
set_option linter.unusedSimpArgs false

theorem State.afterOutcome_fixed (s : State) (a : Applied) : (State.afterOutcome s a).fixed = s.fixed := by
  unfold State.afterOutcome
  repeat' (first
    | with_reducible rfl
    | (simp +zetaHave only [State.fixed_mk, State.fixed_eta, apply_ite State.fixed, apply_ite Prod.fst, ite_self, implies_true,
        State.doneSignal_fixed, State.verdict_fixed]; done)
    | split
    | intro _
    | (dsimp +zetaHave only))

theorem State.afterOutcomes_fixed (s : State) (l : List Applied) : (State.afterOutcomes s l).fixed = s.fixed := by
  unfold State.afterOutcomes
  repeat' (first
    | with_reducible rfl
    | (simp +zetaHave only [State.fixed_mk, State.fixed_eta, apply_ite State.fixed, apply_ite Prod.fst, ite_self, implies_true,
        State.foldl_fixed, State.foldl_fst_fixed, State.afterOutcome_fixed]; done)
    | split
    | intro _
    | (dsimp +zetaHave only)
    | refine (State.foldl_fixed _ _ _ ?_).trans ?_
    | refine (State.foldl_fst_fixed _ _ _ ?_).trans ?_)

theorem State.collArrivals_fixed (s : State) : (State.collArrivals s).fixed = s.fixed := by
  unfold State.collArrivals
  repeat' (first
    | with_reducible rfl
    | (simp +zetaHave only [State.fixed_mk, State.fixed_eta, apply_ite State.fixed, apply_ite Prod.fst, ite_self, implies_true,
        State.applyOutcomes_fixed, State.afterOutcomes_fixed]; done)
    | split
    | intro _
    | (dsimp +zetaHave only))

theorem State.collIsolated_fixed (s : State) (t : Nat) : (State.collIsolated s t).fixed = s.fixed := by
  unfold State.collIsolated
  repeat' (first
    | with_reducible rfl
    | (simp +zetaHave only [State.fixed_mk, State.fixed_eta, apply_ite State.fixed, apply_ite Prod.fst, ite_self, implies_true,
        State.isolate_fixed, State.afterOutcomes_fixed]; done)
    | split
    | intro _
    | (dsimp +zetaHave only))

theorem State.collBoundary_fixed (s : State) (n : Nat) (t : Nat) : (State.collBoundary s n t).fixed = s.fixed := by
  unfold State.collBoundary
  repeat' (first
    | with_reducible rfl
    | (simp +zetaHave only [State.fixed_mk, State.fixed_eta, apply_ite State.fixed, apply_ite Prod.fst, ite_self, implies_true,
        State.releaseHeld_fixed, State.collDeadlines_fixed, State.sendHeldLogs_fixed, State.freeOrphans_fixed,
        State.moveTimeouts_fixed, State.ageClosed_fixed, State.collArrivals_fixed, State.collIsolated_fixed]; done)
    | split
    | intro _
    | (dsimp +zetaHave only))

theorem State.collFrame_fixed (s : State) (h : RxHead) (k : RxKind) (f : State → State) (hf : ∀ t, (f t).fixed = t.fixed) :
    (s.collFrame h k f).fixed = s.fixed := by
  unfold State.collFrame
  dsimp +zetaHave only
  split
  · rw [hf, State.openGate_fixed, State.rxZudar_fixed]
  · exact State.rxZudar_fixed s h k true

theorem State.gangHold_fixed (s : State) (nc : Nat) : (State.gangHold s nc).fixed = s.fixed := by
  unfold State.gangHold
  repeat' (first
    | with_reducible rfl
    | (simp +zetaHave only [State.fixed_mk, State.fixed_eta, apply_ite State.fixed, apply_ite Prod.fst, ite_self, implies_true,
        State.modServo_fixed, State.enterHold_fixed]; done)
    | split
    | intro _
    | (dsimp +zetaHave only))

theorem State.gangQuit_fixed (s : State) (dead : Bool) (nc : Nat) : (State.gangQuit s dead nc).fixed = s.fixed := by
  unfold State.gangQuit
  repeat' (first
    | with_reducible rfl
    | (simp +zetaHave only [State.fixed_mk, State.fixed_eta, apply_ite State.fixed, apply_ite Prod.fst, ite_self, implies_true,
        State.endLocal_fixed, State.gangHold_fixed]; done)
    | split
    | intro _
    | (dsimp +zetaHave only))

theorem State.gangGoOn_fixed (s : State) (rest : List Nat) (heir : Nat) (nc : Nat) : (State.gangGoOn s rest heir nc).fixed = s.fixed := by
  unfold State.gangGoOn
  repeat' (first
    | with_reducible rfl
    | (simp +zetaHave only [State.fixed_mk, State.fixed_eta, apply_ite State.fixed, apply_ite Prod.fst, ite_self, implies_true,
        State.abortAll_fixed, State.gangHold_fixed]; done)
    | split
    | intro _
    | (dsimp +zetaHave only))

theorem State.gangLeave_fixed (s : State) (nc : Nat) : (State.gangLeave s nc).fixed = s.fixed := by
  unfold State.gangLeave
  repeat' (first
    | with_reducible rfl
    | (simp +zetaHave only [State.fixed_mk, State.fixed_eta, apply_ite State.fixed, apply_ite Prod.fst, ite_self, implies_true,
        State.abortAll_fixed, State.gangHold_fixed, State.emit_fixed, State.gangQuit_fixed, State.gangGoOn_fixed]; done)
    | split
    | intro _
    | (dsimp +zetaHave only))

theorem State.atLeader_fixed (s : State) (pos : Nat) (m : GangMsg) : (State.atLeader s pos m).fixed = s.fixed := by
  unfold State.atLeader
  repeat' (first
    | with_reducible rfl
    | (simp +zetaHave only [State.fixed_mk, State.fixed_eta, apply_ite State.fixed, apply_ite Prod.fst, ite_self, implies_true,
        State.openGate_fixed, State.busy_fixed, State.routeReq_fixed, State.gangContribution_fixed,
        State.ridgeUp_fixed, State.gangDigest_fixed, State.gangQuit_fixed]; done)
    | split
    | intro _
    | (dsimp +zetaHave only))

theorem State.atMember_fixed (s : State) (m : GangMsg) : (State.atMember s m).fixed = s.fixed := by
  unfold State.atMember
  repeat' (first
    | with_reducible rfl
    | (simp +zetaHave only [State.fixed_mk, State.fixed_eta, apply_ite State.fixed, apply_ite Prod.fst, ite_self, implies_true,
        State.eaveDown_fixed, State.eaveAbort_fixed, State.eaveMove_fixed, State.spreadDown_fixed,
        State.spreadMove_fixed, State.spreadAbort_fixed, State.setSq_fixed, State.gangQuit_fixed]; done)
    | split
    | intro _
    | (dsimp +zetaHave only))

end Sys2Proof.Machine
end

