-- ==== Sys2Proof/Laws/FrameGang.lean ====
section
/-! SUPPORT. Sys2Proof/Laws/FrameGang.lean: no operation of Machine/Gang.lean touches the queue, the tie-offs or the start
phase of the block. -/

set_option linter.all false
set_option Elab.async false

namespace Sys2Proof.Machine
open Sys2Proof.Config
set_option linter.unusedSimpArgs false

theorem State.gangKeepalive_fixed (s : State) (ka : Bool) : (State.gangKeepalive s ka).fixed = s.fixed := by
  unfold State.gangKeepalive
  repeat' (first
    | with_reducible rfl
    | (simp +zetaHave only [State.fixed_mk, State.fixed_eta, apply_ite State.fixed, apply_ite Prod.fst, ite_self, implies_true,
        State.raise_fixed]; done)
    | split
    | intro _
    | (dsimp +zetaHave only))

theorem State.gangTake_fixed (s : State) (l : LeadTime) : (State.gangTake s l).fixed = s.fixed := by
  unfold State.gangTake
  repeat' (first
    | with_reducible rfl
    | (simp +zetaHave only [State.fixed_mk, State.fixed_eta, apply_ite State.fixed, apply_ite Prod.fst, ite_self, implies_true,
        State.raise_fixed]; done)
    | split
    | intro _
    | (dsimp +zetaHave only))

theorem State.gangTime_fixed (s : State) (l : Option LeadTime) : (State.gangTime s l).fixed = s.fixed := by
  unfold State.gangTime
  repeat' (first
    | with_reducible rfl
    | (simp +zetaHave only [State.fixed_mk, State.fixed_eta, apply_ite State.fixed, apply_ite Prod.fst, ite_self, implies_true,
        State.gangTake_fixed]; done)
    | split
    | intro _
    | (dsimp +zetaHave only))

theorem State.gangCalOver_fixed (s : State) : (State.gangCalOver s).fixed = s.fixed := by
  unfold State.gangCalOver
  repeat' (first
    | with_reducible rfl
    | (simp +zetaHave only [State.fixed_mk, State.fixed_eta, apply_ite State.fixed, apply_ite Prod.fst, ite_self, implies_true,
        State.raise_fixed]; done)
    | split
    | intro _
    | (dsimp +zetaHave only))

theorem State.gangBeat_fixed (s : State) : (State.gangBeat s).fixed = s.fixed := by
  unfold State.gangBeat
  repeat' (first
    | with_reducible rfl
    | (simp +zetaHave only [State.fixed_mk, State.fixed_eta, apply_ite State.fixed, apply_ite Prod.fst, ite_self, implies_true,
        State.emit_fixed, State.gangKeepalive_fixed]; done)
    | split
    | intro _
    | (dsimp +zetaHave only))

theorem State.gangLost_fixed (s : State) (l : List Nat) : (State.gangLost s l).fixed = s.fixed := by
  unfold State.gangLost
  repeat' (first
    | with_reducible rfl
    | (simp +zetaHave only [State.fixed_mk, State.fixed_eta, apply_ite State.fixed, apply_ite Prod.fst, ite_self, implies_true]; done)
    | split
    | intro _
    | (dsimp +zetaHave only))

theorem State.gangLose_fixed (s : State) (l : List Nat) : (State.gangLose s l).fixed = s.fixed := by
  unfold State.gangLose
  repeat' (first
    | with_reducible rfl
    | (simp +zetaHave only [State.fixed_mk, State.fixed_eta, apply_ite State.fixed, apply_ite Prod.fst, ite_self, implies_true,
        State.raise_fixed, State.gangLost_fixed]; done)
    | split
    | intro _
    | (dsimp +zetaHave only))

end Sys2Proof.Machine
end

