-- ==== Sys2Proof/Laws/FrameRead.lean ====
section
/-! SUPPORT. Sys2Proof/Laws/FrameRead.lean: no operation of Machine/Read.lean touches the queue, the tie-offs or the start
phase of the block. -/

set_option linter.all false
set_option Elab.async false

namespace Sys2Proof.Machine
open Sys2Proof.Config
set_option linter.unusedSimpArgs false

theorem State.latchNow_fixed (s : State) (m : Master) : (State.latchNow s m).fixed = s.fixed := by
  unfold State.latchNow
  repeat' (first
    | with_reducible rfl
    | (simp +zetaHave only [State.fixed_mk, State.fixed_eta, apply_ite State.fixed, apply_ite Prod.fst, ite_self, implies_true]; done)
    | split
    | intro _
    | (dsimp +zetaHave only))

theorem State.readDoes_fixed (s : State) (m : Master) (off : Nat) : (State.readDoes s m off).fixed = s.fixed := by
  unfold State.readDoes
  repeat' (first
    | with_reducible rfl
    | (simp +zetaHave only [State.fixed_mk, State.fixed_eta, apply_ite State.fixed, apply_ite Prod.fst, ite_self, implies_true,
        State.popStamp_fixed, State.latchStat_fixed, State.popRaw_fixed, State.latchNow_fixed]; done)
    | split
    | intro _
    | (dsimp +zetaHave only))

theorem State.drawn_fixed (s : State) (off : Nat) : (State.drawn s off).fixed = s.fixed := by
  unfold State.drawn
  repeat' (first
    | with_reducible rfl
    | (simp +zetaHave only [State.fixed_mk, State.fixed_eta, apply_ite State.fixed, apply_ite Prod.fst, ite_self, implies_true,
        State.drawFree_fixed]; done)
    | split
    | intro _
    | (dsimp +zetaHave only))

theorem State.regRead_fixed (s : State) (m : Master) (off : Nat) (wide : Bool) : (State.regRead s m off wide).1.fixed = s.fixed := by
  unfold State.regRead
  repeat' (first
    | with_reducible rfl
    | (simp +zetaHave only [State.fixed_mk, State.fixed_eta, apply_ite State.fixed, apply_ite Prod.fst, ite_self, implies_true,
        State.windowRead_fixed, State.readDoes_fixed, State.drawn_fixed]; done)
    | split
    | intro _
    | (dsimp +zetaHave only))

end Sys2Proof.Machine
end

