-- ==== Sys2Proof/Laws/FrameCmd.lean ====
section
/-! SUPPORT. Sys2Proof/Laws/FrameCmd.lean: no operation of Machine/Cmd.lean touches the queue, the tie-offs or the start
phase of the block. -/

set_option linter.all false
set_option Elab.async false

namespace Sys2Proof.Machine
open Sys2Proof.Config
set_option linter.unusedSimpArgs false

theorem CmdOut.status_fixed (s : State) (st : Nat) : (CmdOut.status s st).st.fixed = s.fixed := by
  unfold CmdOut.status
  repeat' (first
    | with_reducible rfl
    | (simp +zetaHave only [State.fixed_mk, State.fixed_eta, apply_ite State.fixed, apply_ite Prod.fst, ite_self, implies_true,
        apply_ite CmdOut.st, CmdOut.status_st, CmdOut.ok_st, CmdOut.done_st, CmdOut.wait_st]; done)
    | split
    | intro _
    | (dsimp +zetaHave only))

theorem CmdOut.ok_fixed (s : State) (d : List Nat) : (CmdOut.ok s d).st.fixed = s.fixed := by
  unfold CmdOut.ok
  repeat' (first
    | with_reducible rfl
    | (simp +zetaHave only [State.fixed_mk, State.fixed_eta, apply_ite State.fixed, apply_ite Prod.fst, ite_self, implies_true,
        apply_ite CmdOut.st, CmdOut.status_st, CmdOut.ok_st, CmdOut.done_st, CmdOut.wait_st]; done)
    | split
    | intro _
    | (dsimp +zetaHave only))

theorem State.setCmdSlot_fixed (s : State) (k : Nat) (c : CmdSlot) : (State.setCmdSlot s k c).fixed = s.fixed := by
  unfold State.setCmdSlot
  repeat' (first
    | with_reducible rfl
    | (simp +zetaHave only [State.fixed_mk, State.fixed_eta, apply_ite State.fixed, apply_ite Prod.fst, ite_self, implies_true,
        apply_ite CmdOut.st, CmdOut.status_st, CmdOut.ok_st, CmdOut.done_st, CmdOut.wait_st]; done)
    | split
    | intro _
    | (dsimp +zetaHave only))

theorem State.queueSlot_fixed (s : State) (k : Nat) (c : CmdSlot) : (State.queueSlot s k c).fixed = s.fixed := by
  unfold State.queueSlot
  repeat' (first
    | with_reducible rfl
    | (simp +zetaHave only [State.fixed_mk, State.fixed_eta, apply_ite State.fixed, apply_ite Prod.fst, ite_self, implies_true,
        apply_ite CmdOut.st, CmdOut.status_st, CmdOut.ok_st, CmdOut.done_st, CmdOut.wait_st, State.setCmdSlot_fixed]; done)
    | split
    | intro _
    | (dsimp +zetaHave only))

theorem State.takeSlot_fixed (s : State) (k : Nat) : (State.takeSlot s k).fixed = s.fixed := by
  unfold State.takeSlot
  repeat' (first
    | with_reducible rfl
    | (simp +zetaHave only [State.fixed_mk, State.fixed_eta, apply_ite State.fixed, apply_ite Prod.fst, ite_self, implies_true]; done)
    | split
    | intro _
    | (dsimp +zetaHave only))

theorem State.putRun_fixed (s : State) (r : RunCmd) : (State.putRun s r).fixed = s.fixed := by
  unfold State.putRun
  repeat' (first
    | with_reducible rfl
    | (simp +zetaHave only [State.fixed_mk, State.fixed_eta, apply_ite State.fixed, apply_ite Prod.fst, ite_self, implies_true,
        apply_ite CmdOut.st, CmdOut.status_st, CmdOut.ok_st, CmdOut.done_st, CmdOut.wait_st]; done)
    | split
    | intro _
    | (dsimp +zetaHave only))

theorem State.irqComplete_fixed (s : State) : (State.irqComplete s).fixed = s.fixed := by
  unfold State.irqComplete
  repeat' (first
    | with_reducible rfl
    | (simp +zetaHave only [State.fixed_mk, State.fixed_eta, apply_ite State.fixed, apply_ite Prod.fst, ite_self, implies_true,
        State.raiseIf_fixed]; done)
    | split
    | intro _
    | (dsimp +zetaHave only))

theorem State.irqTimeout_fixed (s : State) (t : Nat) : (State.irqTimeout s t).fixed = s.fixed := by
  unfold State.irqTimeout
  repeat' (first
    | with_reducible rfl
    | (simp +zetaHave only [State.fixed_mk, State.fixed_eta, apply_ite State.fixed, apply_ite Prod.fst, ite_self, implies_true,
        State.raiseIf_fixed]; done)
    | split
    | intro _
    | (dsimp +zetaHave only))

theorem State.irqRestart_fixed (s : State) : (State.irqRestart s).fixed = s.fixed := by
  unfold State.irqRestart
  repeat' (first
    | with_reducible rfl
    | (simp +zetaHave only [State.fixed_mk, State.fixed_eta, apply_ite State.fixed, apply_ite Prod.fst, ite_self, implies_true]; done)
    | split
    | intro _
    | (dsimp +zetaHave only))

theorem State.finalize_fixed (s : State) (r : RunCmd) (rep : Reply) (words : List Nat) : (State.finalize s r rep words).fixed = s.fixed := by
  unfold State.finalize
  repeat' (first
    | with_reducible rfl
    | (simp +zetaHave only [State.fixed_mk, State.fixed_eta, apply_ite State.fixed, apply_ite Prod.fst, ite_self, implies_true,
        apply_ite CmdOut.st, CmdOut.status_st, CmdOut.ok_st, CmdOut.done_st, CmdOut.wait_st, State.count_fixed,
        State.emit_fixed, State.evt_fixed, CmdOut.status_fixed, State.setCmdSlot_fixed, State.irqComplete_fixed]; done)
    | split
    | intro _
    | (dsimp +zetaHave only))

theorem State.complete_fixed (s : State) (r : RunCmd) (rep : Reply) : (State.complete s r rep).fixed = s.fixed := by
  unfold State.complete
  repeat' (first
    | with_reducible rfl
    | (simp +zetaHave only [State.fixed_mk, State.fixed_eta, apply_ite State.fixed, apply_ite Prod.fst, ite_self, implies_true,
        apply_ite CmdOut.st, CmdOut.status_st, CmdOut.ok_st, CmdOut.done_st, CmdOut.wait_st, State.count_fixed,
        State.memWrite_fixed, State.putRun_fixed, State.finalize_fixed]; done)
    | split
    | intro _
    | (dsimp +zetaHave only))

theorem State.ringAcked_fixed (s : State) (slot : Nat) : (State.ringAcked s slot).fixed = s.fixed := by
  unfold State.ringAcked
  repeat' (first
    | with_reducible rfl
    | (simp +zetaHave only [State.fixed_mk, State.fixed_eta, apply_ite State.fixed, apply_ite Prod.fst, ite_self, implies_true,
        State.finalize_fixed]; done)
    | split
    | intro _
    | (dsimp +zetaHave only))

theorem CmdOut.settle_fixed (o : CmdOut) (r : RunCmd) : (o.settle r).fixed = o.st.fixed := by
  cases o
  · exact State.complete_fixed _ _ _
  · exact State.putRun_fixed _ _

theorem State.readOn_fixed (s : State) (r : RunCmd) : (State.readOn s r).st.fixed = s.fixed := by
  unfold State.readOn
  repeat' (first
    | with_reducible rfl
    | (simp +zetaHave only [State.fixed_mk, State.fixed_eta, apply_ite State.fixed, apply_ite Prod.fst, ite_self, implies_true,
        apply_ite CmdOut.st, CmdOut.status_st, CmdOut.ok_st, CmdOut.done_st, CmdOut.wait_st, State.memRead_fixed]; done)
    | split
    | intro _
    | (dsimp +zetaHave only))

theorem State.readFrom_fixed (s : State) (r : RunCmd) (addr : Nat) (n : Nat) : (State.readFrom s r addr n).st.fixed = s.fixed := by
  unfold State.readFrom
  repeat' (first
    | with_reducible rfl
    | (simp +zetaHave only [State.fixed_mk, State.fixed_eta, apply_ite State.fixed, apply_ite Prod.fst, ite_self, implies_true,
        apply_ite CmdOut.st, CmdOut.status_st, CmdOut.ok_st, CmdOut.done_st, CmdOut.wait_st, State.readOn_fixed]; done)
    | split
    | intro _
    | (dsimp +zetaHave only))

theorem State.whenRead_fixed (s : State) (r : RunCmd) (f : List Nat → CmdOut) (hf : ∀ b, (f b).st.fixed = s.fixed) :
    (s.whenRead r f).st.fixed = s.fixed := by
  unfold State.whenRead
  repeat' split
  · rfl
  · rfl
  · exact State.readOn_fixed s r
  · exact hf _

end Sys2Proof.Machine
end

