-- ==== Sys2Proof/Laws/FrameTopo.lean ====
section
/-! SUPPORT. Sys2Proof/Laws/FrameTopo.lean: no operation of Machine/Topo.lean touches the queue, the tie-offs or the start
phase of the block. -/

set_option linter.all false
set_option Elab.async false

namespace Sys2Proof.Machine
open Sys2Proof.Config
set_option linter.unusedSimpArgs false

theorem State.applyTopo_fixed (s : State) (t : TopoImage) : (State.applyTopo s t).fixed = s.fixed := by
  unfold State.applyTopo
  repeat' (first
    | with_reducible rfl
    | (simp +zetaHave only [State.fixed_mk, State.fixed_eta, apply_ite State.fixed, apply_ite Prod.fst, ite_self, implies_true,
        State.each_fixed, State.foldl_fixed, State.foldl_fst_fixed, State.judged_fixed]; done)
    | split
    | intro _
    | (dsimp +zetaHave only)
    | refine (State.each_fixed _ _ _ ?_).trans ?_
    | refine (State.foldl_fixed _ _ _ ?_).trans ?_
    | refine (State.foldl_fst_fixed _ _ _ ?_).trans ?_)

theorem cmdTopologyLoad_fixed (s : State) (r : RunCmd) : (cmdTopologyLoad.start s r).st.fixed = s.fixed ∧ (cmdTopologyLoad.later s r).st.fixed = s.fixed := by
  constructor
  all_goals
    dsimp +zetaHave only [cmdTopologyLoad]
    repeat' (first
      | with_reducible rfl
      | (simp +zetaHave only [State.fixed_mk, State.fixed_eta, apply_ite State.fixed, apply_ite Prod.fst, ite_self, implies_true,
          apply_ite CmdOut.st, CmdOut.status_st, CmdOut.ok_st, CmdOut.done_st, CmdOut.wait_st, CmdOut.status_fixed,
          CmdOut.ok_fixed, State.readFrom_fixed, State.whenRead_fixed, State.applyTopo_fixed]; done)
      | split
      | intro _
      | (dsimp +zetaHave only)
      | refine State.whenRead_fixed _ _ _ ?_
      | refine CmdOut.orState_fixed _ _ ?_)

end Sys2Proof.Machine
end

