-- ==== Sys2Proof/Laws/FrameCmds.lean ====
section
/-! SUPPORT. Sys2Proof/Laws/FrameCmds.lean: no operation of Machine/Cmds.lean touches the queue, the tie-offs or the start
phase of the block. -/

set_option linter.all false
set_option Elab.async false

namespace Sys2Proof.Machine
open Sys2Proof.Config
set_option linter.unusedSimpArgs false

theorem cmdGenIdentify_fixed (s : State) (r : RunCmd) : (cmdGenIdentify.start s r).st.fixed = s.fixed ∧ (cmdGenIdentify.later s r).st.fixed = s.fixed := by
  constructor
  all_goals
    dsimp +zetaHave only [cmdGenIdentify]
    repeat' (first
      | with_reducible rfl
      | (simp +zetaHave only [State.fixed_mk, State.fixed_eta, apply_ite State.fixed, apply_ite Prod.fst, ite_self, implies_true,
          apply_ite CmdOut.st, CmdOut.status_st, CmdOut.ok_st, CmdOut.done_st, CmdOut.wait_st, CmdOut.ok_fixed]; done)
      | split
      | intro _
      | (dsimp +zetaHave only)
      | refine State.whenRead_fixed _ _ _ ?_
      | refine CmdOut.orState_fixed _ _ ?_)

theorem cmdGenStatus_fixed (s : State) (r : RunCmd) : (cmdGenStatus.start s r).st.fixed = s.fixed ∧ (cmdGenStatus.later s r).st.fixed = s.fixed := by
  constructor
  all_goals
    dsimp +zetaHave only [cmdGenStatus]
    repeat' (first
      | with_reducible rfl
      | (simp +zetaHave only [State.fixed_mk, State.fixed_eta, apply_ite State.fixed, apply_ite Prod.fst, ite_self, implies_true,
          apply_ite CmdOut.st, CmdOut.status_st, CmdOut.ok_st, CmdOut.done_st, CmdOut.wait_st, State.latchNow_fixed,
          CmdOut.ok_fixed]; done)
      | split
      | intro _
      | (dsimp +zetaHave only)
      | refine State.whenRead_fixed _ _ _ ?_
      | refine CmdOut.orState_fixed _ _ ?_)

theorem State.resetUnits_fixed (s : State) (m : Nat) : (State.resetUnits s m).fixed = s.fixed := by
  unfold State.resetUnits
  repeat' (first
    | with_reducible rfl
    | (simp +zetaHave only [State.fixed_mk, State.fixed_eta, apply_ite State.fixed, apply_ite Prod.fst, ite_self, implies_true,
        State.objReset_fixed, State.imAbort_fixed, State.seqReset_fixed]; done)
    | split
    | intro _
    | (dsimp +zetaHave only))

theorem State.resetBoundary_fixed (s : State) : (State.resetBoundary s).fixed = s.fixed := by
  unfold State.resetBoundary
  repeat' (first
    | with_reducible rfl
    | (simp +zetaHave only [State.fixed_mk, State.fixed_eta, apply_ite State.fixed, apply_ite Prod.fst, ite_self, implies_true,
        State.resetUnits_fixed]; done)
    | split
    | intro _
    | (dsimp +zetaHave only))

theorem cmdGenReset_fixed (s : State) (r : RunCmd) : (cmdGenReset.start s r).st.fixed = s.fixed ∧ (cmdGenReset.later s r).st.fixed = s.fixed := by
  constructor
  all_goals
    dsimp +zetaHave only [cmdGenReset]
    repeat' (first
      | with_reducible rfl
      | (simp +zetaHave only [State.fixed_mk, State.fixed_eta, apply_ite State.fixed, apply_ite Prod.fst, ite_self, implies_true,
          apply_ite CmdOut.st, CmdOut.status_st, CmdOut.ok_st, CmdOut.done_st, CmdOut.wait_st, CmdOut.status_fixed,
          CmdOut.ok_fixed]; done)
      | split
      | intro _
      | (dsimp +zetaHave only)
      | refine State.whenRead_fixed _ _ _ ?_
      | refine CmdOut.orState_fixed _ _ ?_)

theorem State.loadFw_fixed (s : State) (off : Nat) (b : List Nat) : (State.loadFw s off b).fixed = s.fixed := by
  unfold State.loadFw
  repeat' (first
    | with_reducible rfl
    | (simp +zetaHave only [State.fixed_mk, State.fixed_eta, apply_ite State.fixed, apply_ite Prod.fst, ite_self, implies_true,
        State.foldl_fixed, State.foldl_fst_fixed]; done)
    | split
    | intro _
    | (dsimp +zetaHave only)
    | refine (State.foldl_fixed _ _ _ ?_).trans ?_
    | refine (State.foldl_fst_fixed _ _ _ ?_).trans ?_)

theorem cmdFwLoad_fixed (s : State) (r : RunCmd) : (cmdFwLoad.start s r).st.fixed = s.fixed ∧ (cmdFwLoad.later s r).st.fixed = s.fixed := by
  constructor
  all_goals
    dsimp +zetaHave only [cmdFwLoad]
    repeat' (first
      | with_reducible rfl
      | (simp +zetaHave only [State.fixed_mk, State.fixed_eta, apply_ite State.fixed, apply_ite Prod.fst, ite_self, implies_true,
          apply_ite CmdOut.st, CmdOut.status_st, CmdOut.ok_st, CmdOut.done_st, CmdOut.wait_st, Rx.drop_fixed,
          CmdOut.status_fixed, CmdOut.ok_fixed, State.readFrom_fixed, State.whenRead_fixed, State.loadFw_fixed]; done)
      | split
      | intro _
      | (dsimp +zetaHave only)
      | refine State.whenRead_fixed _ _ _ ?_
      | refine CmdOut.orState_fixed _ _ ?_)

theorem cmdFwStart_fixed (s : State) (r : RunCmd) : (cmdFwStart.start s r).st.fixed = s.fixed ∧ (cmdFwStart.later s r).st.fixed = s.fixed := by
  constructor
  all_goals
    dsimp +zetaHave only [cmdFwStart]
    repeat' (first
      | with_reducible rfl
      | (simp +zetaHave only [State.fixed_mk, State.fixed_eta, apply_ite State.fixed, apply_ite Prod.fst, ite_self, implies_true,
          apply_ite CmdOut.st, CmdOut.status_st, CmdOut.ok_st, CmdOut.done_st, CmdOut.wait_st, CmdOut.status_fixed,
          CmdOut.ok_fixed]; done)
      | split
      | intro _
      | (dsimp +zetaHave only)
      | refine State.whenRead_fixed _ _ _ ?_
      | refine CmdOut.orState_fixed _ _ ?_)

theorem cmdTimeAcquire_fixed (s : State) (r : RunCmd) : (cmdTimeAcquire.start s r).st.fixed = s.fixed ∧ (cmdTimeAcquire.later s r).st.fixed = s.fixed := by
  constructor
  all_goals
    dsimp +zetaHave only [cmdTimeAcquire]
    repeat' (first
      | with_reducible rfl
      | (simp +zetaHave only [State.fixed_mk, State.fixed_eta, apply_ite State.fixed, apply_ite Prod.fst, ite_self, implies_true,
          apply_ite CmdOut.st, CmdOut.status_st, CmdOut.ok_st, CmdOut.done_st, CmdOut.wait_st, CmdOut.status_fixed,
          CmdOut.ok_fixed]; done)
      | split
      | intro _
      | (dsimp +zetaHave only)
      | refine State.whenRead_fixed _ _ _ ?_
      | refine CmdOut.orState_fixed _ _ ?_)

theorem cmdTimeRestep_fixed (s : State) (r : RunCmd) : (cmdTimeRestep.start s r).st.fixed = s.fixed ∧ (cmdTimeRestep.later s r).st.fixed = s.fixed := by
  constructor
  all_goals
    dsimp +zetaHave only [cmdTimeRestep]
    repeat' (first
      | with_reducible rfl
      | (simp +zetaHave only [State.fixed_mk, State.fixed_eta, apply_ite State.fixed, apply_ite Prod.fst, ite_self, implies_true,
          apply_ite CmdOut.st, CmdOut.status_st, CmdOut.ok_st, CmdOut.done_st, CmdOut.wait_st, CmdOut.status_fixed,
          CmdOut.ok_fixed]; done)
      | split
      | intro _
      | (dsimp +zetaHave only)
      | refine State.whenRead_fixed _ _ _ ?_
      | refine CmdOut.orState_fixed _ _ ?_)

theorem cmdTimeSlewLimit_fixed (s : State) (r : RunCmd) : (cmdTimeSlewLimit.start s r).st.fixed = s.fixed ∧ (cmdTimeSlewLimit.later s r).st.fixed = s.fixed := by
  constructor
  all_goals
    dsimp +zetaHave only [cmdTimeSlewLimit]
    repeat' (first
      | with_reducible rfl
      | (simp +zetaHave only [State.fixed_mk, State.fixed_eta, apply_ite State.fixed, apply_ite Prod.fst, ite_self, implies_true,
          apply_ite CmdOut.st, CmdOut.status_st, CmdOut.ok_st, CmdOut.done_st, CmdOut.wait_st, State.wr_fixed,
          CmdOut.status_fixed, CmdOut.ok_fixed, State.resteer_fixed]; done)
      | split
      | intro _
      | (dsimp +zetaHave only)
      | refine State.whenRead_fixed _ _ _ ?_
      | refine CmdOut.orState_fixed _ _ ?_)

theorem cmdTimeDomainSelect_fixed (s : State) (r : RunCmd) : (cmdTimeDomainSelect.start s r).st.fixed = s.fixed ∧ (cmdTimeDomainSelect.later s r).st.fixed = s.fixed := by
  constructor
  all_goals
    dsimp +zetaHave only [cmdTimeDomainSelect]
    repeat' (first
      | with_reducible rfl
      | (simp +zetaHave only [State.fixed_mk, State.fixed_eta, apply_ite State.fixed, apply_ite Prod.fst, ite_self, implies_true,
          apply_ite CmdOut.st, CmdOut.status_st, CmdOut.ok_st, CmdOut.done_st, CmdOut.wait_st, CmdOut.status_fixed,
          CmdOut.ok_fixed]; done)
      | split
      | intro _
      | (dsimp +zetaHave only)
      | refine State.whenRead_fixed _ _ _ ?_
      | refine CmdOut.orState_fixed _ _ ?_)

theorem cmdTimeSwitchAt_fixed (s : State) (r : RunCmd) : (cmdTimeSwitchAt.start s r).st.fixed = s.fixed ∧ (cmdTimeSwitchAt.later s r).st.fixed = s.fixed := by
  constructor
  all_goals
    dsimp +zetaHave only [cmdTimeSwitchAt]
    repeat' (first
      | with_reducible rfl
      | (simp +zetaHave only [State.fixed_mk, State.fixed_eta, apply_ite State.fixed, apply_ite Prod.fst, ite_self, implies_true,
          apply_ite CmdOut.st, CmdOut.status_st, CmdOut.ok_st, CmdOut.done_st, CmdOut.wait_st, State.holdPlan_fixed,
          State.cancelPlan_fixed, State.originate_fixed, CmdOut.status_fixed, CmdOut.ok_fixed]; done)
      | split
      | intro _
      | (dsimp +zetaHave only)
      | refine State.whenRead_fixed _ _ _ ?_
      | refine CmdOut.orState_fixed _ _ ?_)

theorem cmdTimeHoldoverForce_fixed (s : State) (r : RunCmd) : (cmdTimeHoldoverForce.start s r).st.fixed = s.fixed ∧ (cmdTimeHoldoverForce.later s r).st.fixed = s.fixed := by
  constructor
  all_goals
    dsimp +zetaHave only [cmdTimeHoldoverForce]
    repeat' (first
      | with_reducible rfl
      | (simp +zetaHave only [State.fixed_mk, State.fixed_eta, apply_ite State.fixed, apply_ite Prod.fst, ite_self, implies_true,
          apply_ite CmdOut.st, CmdOut.status_st, CmdOut.ok_st, CmdOut.done_st, CmdOut.wait_st, State.setServo_fixed,
          CmdOut.status_fixed, CmdOut.ok_fixed]; done)
      | split
      | intro _
      | (dsimp +zetaHave only)
      | refine State.whenRead_fixed _ _ _ ?_
      | refine CmdOut.orState_fixed _ _ ?_)

theorem cmdTimeEpochSet_fixed (s : State) (r : RunCmd) : (cmdTimeEpochSet.start s r).st.fixed = s.fixed ∧ (cmdTimeEpochSet.later s r).st.fixed = s.fixed := by
  constructor
  all_goals
    dsimp +zetaHave only [cmdTimeEpochSet]
    repeat' (first
      | with_reducible rfl
      | (simp +zetaHave only [State.fixed_mk, State.fixed_eta, apply_ite State.fixed, apply_ite Prod.fst, ite_self, implies_true,
          apply_ite CmdOut.st, CmdOut.status_st, CmdOut.ok_st, CmdOut.done_st, CmdOut.wait_st, CmdOut.ok_fixed]; done)
      | split
      | intro _
      | (dsimp +zetaHave only)
      | refine State.whenRead_fixed _ _ _ ?_
      | refine CmdOut.orState_fixed _ _ ?_)

theorem cmdRefConfigure_fixed (s : State) (r : RunCmd) : (cmdRefConfigure.start s r).st.fixed = s.fixed ∧ (cmdRefConfigure.later s r).st.fixed = s.fixed := by
  constructor
  all_goals
    dsimp +zetaHave only [cmdRefConfigure]
    repeat' (first
      | with_reducible rfl
      | (simp +zetaHave only [State.fixed_mk, State.fixed_eta, apply_ite State.fixed, apply_ite Prod.fst, ite_self, implies_true,
          apply_ite CmdOut.st, CmdOut.status_st, CmdOut.ok_st, CmdOut.done_st, CmdOut.wait_st, State.wr_fixed,
          State.candReconfigure_fixed, CmdOut.status_fixed, CmdOut.ok_fixed]; done)
      | split
      | intro _
      | (dsimp +zetaHave only)
      | refine State.whenRead_fixed _ _ _ ?_
      | refine CmdOut.orState_fixed _ _ ?_)

theorem cmdRefPriority_fixed (s : State) (r : RunCmd) : (cmdRefPriority.start s r).st.fixed = s.fixed ∧ (cmdRefPriority.later s r).st.fixed = s.fixed := by
  constructor
  all_goals
    dsimp +zetaHave only [cmdRefPriority]
    repeat' (first
      | with_reducible rfl
      | (simp +zetaHave only [State.fixed_mk, State.fixed_eta, apply_ite State.fixed, apply_ite Prod.fst, ite_self, implies_true,
          State.foldl_fixed, State.foldl_fst_fixed, apply_ite CmdOut.st, CmdOut.status_st, CmdOut.ok_st,
          CmdOut.done_st, CmdOut.wait_st, CmdOut.ok_fixed]; done)
      | split
      | intro _
      | (dsimp +zetaHave only)
      | refine State.whenRead_fixed _ _ _ ?_
      | refine CmdOut.orState_fixed _ _ ?_
      | refine (State.foldl_fixed _ _ _ ?_).trans ?_
      | refine (State.foldl_fst_fixed _ _ _ ?_).trans ?_)

theorem State.prioBoundary_fixed (s : State) : (State.prioBoundary s).fixed = s.fixed := by
  unfold State.prioBoundary
  repeat' (first
    | with_reducible rfl
    | (simp +zetaHave only [State.fixed_mk, State.fixed_eta, apply_ite State.fixed, apply_ite Prod.fst, ite_self, implies_true,
        State.each_fixed, State.wrFld_fixed]; done)
    | split
    | intro _
    | (dsimp +zetaHave only)
    | refine (State.each_fixed _ _ _ ?_).trans ?_)

theorem cmdRefLoopOpen_fixed (s : State) (r : RunCmd) : (cmdRefLoopOpen.start s r).st.fixed = s.fixed ∧ (cmdRefLoopOpen.later s r).st.fixed = s.fixed := by
  constructor
  all_goals
    dsimp +zetaHave only [cmdRefLoopOpen]
    repeat' (first
      | with_reducible rfl
      | (simp +zetaHave only [State.fixed_mk, State.fixed_eta, apply_ite State.fixed, apply_ite Prod.fst, ite_self, implies_true,
          apply_ite CmdOut.st, CmdOut.status_st, CmdOut.ok_st, CmdOut.done_st, CmdOut.wait_st, State.setServo_fixed,
          CmdOut.status_fixed, CmdOut.ok_fixed]; done)
      | split
      | intro _
      | (dsimp +zetaHave only)
      | refine State.whenRead_fixed _ _ _ ?_
      | refine CmdOut.orState_fixed _ _ ?_)

theorem cmdRefLoopClose_fixed (s : State) (r : RunCmd) : (cmdRefLoopClose.start s r).st.fixed = s.fixed ∧ (cmdRefLoopClose.later s r).st.fixed = s.fixed := by
  constructor
  all_goals
    dsimp +zetaHave only [cmdRefLoopClose]
    repeat' (first
      | with_reducible rfl
      | (simp +zetaHave only [State.fixed_mk, State.fixed_eta, apply_ite State.fixed, apply_ite Prod.fst, ite_self, implies_true,
          apply_ite CmdOut.st, CmdOut.status_st, CmdOut.ok_st, CmdOut.done_st, CmdOut.wait_st, State.setServo_fixed,
          CmdOut.status_fixed, CmdOut.ok_fixed]; done)
      | split
      | intro _
      | (dsimp +zetaHave only)
      | refine State.whenRead_fixed _ _ _ ?_
      | refine CmdOut.orState_fixed _ _ ?_)

theorem cmdRefCorrect_fixed (s : State) (r : RunCmd) : (cmdRefCorrect.start s r).st.fixed = s.fixed ∧ (cmdRefCorrect.later s r).st.fixed = s.fixed := by
  constructor
  all_goals
    dsimp +zetaHave only [cmdRefCorrect]
    repeat' (first
      | with_reducible rfl
      | (simp +zetaHave only [State.fixed_mk, State.fixed_eta, apply_ite State.fixed, apply_ite Prod.fst, ite_self, implies_true,
          apply_ite CmdOut.st, CmdOut.status_st, CmdOut.ok_st, CmdOut.done_st, CmdOut.wait_st, State.count_fixed,
          State.setServo_fixed, CmdOut.status_fixed, CmdOut.ok_fixed]; done)
      | split
      | intro _
      | (dsimp +zetaHave only)
      | refine State.whenRead_fixed _ _ _ ?_
      | refine CmdOut.orState_fixed _ _ ?_)

theorem cmdIntervalArm_fixed (s : State) (r : RunCmd) : (cmdIntervalArm.start s r).st.fixed = s.fixed ∧ (cmdIntervalArm.later s r).st.fixed = s.fixed := by
  constructor
  all_goals
    dsimp +zetaHave only [cmdIntervalArm]
    repeat' (first
      | with_reducible rfl
      | (simp +zetaHave only [State.fixed_mk, State.fixed_eta, apply_ite State.fixed, apply_ite Prod.fst, ite_self, implies_true,
          apply_ite CmdOut.st, CmdOut.status_st, CmdOut.ok_st, CmdOut.done_st, CmdOut.wait_st, State.imArm_fixed,
          CmdOut.status_fixed, CmdOut.ok_fixed]; done)
      | split
      | intro _
      | (dsimp +zetaHave only)
      | refine State.whenRead_fixed _ _ _ ?_
      | refine CmdOut.orState_fixed _ _ ?_)

theorem cmdIntervalAbort_fixed (s : State) (r : RunCmd) : (cmdIntervalAbort.start s r).st.fixed = s.fixed ∧ (cmdIntervalAbort.later s r).st.fixed = s.fixed := by
  constructor
  all_goals
    dsimp +zetaHave only [cmdIntervalAbort]
    repeat' (first
      | with_reducible rfl
      | (simp +zetaHave only [State.fixed_mk, State.fixed_eta, apply_ite State.fixed, apply_ite Prod.fst, ite_self, implies_true,
          apply_ite CmdOut.st, CmdOut.status_st, CmdOut.ok_st, CmdOut.done_st, CmdOut.wait_st, State.imAbort_fixed,
          CmdOut.status_fixed, CmdOut.ok_fixed]; done)
      | split
      | intro _
      | (dsimp +zetaHave only)
      | refine State.whenRead_fixed _ _ _ ?_
      | refine CmdOut.orState_fixed _ _ ?_)

theorem State.putWords_fixed (s : State) (i : Nat) (l : List Nat) : (s.putWords i l).fixed = s.fixed := by
  induction l generalizing s i with
  | nil => rfl
  | cons w l ih => rw [State.putWords, ih, State.putWord_fixed]

theorem cmdSeqLoad_fixed (s : State) (r : RunCmd) : (cmdSeqLoad.start s r).st.fixed = s.fixed ∧ (cmdSeqLoad.later s r).st.fixed = s.fixed := by
  constructor
  all_goals
    dsimp +zetaHave only [cmdSeqLoad]
    repeat' (first
      | with_reducible rfl
      | (simp +zetaHave only [State.fixed_mk, State.fixed_eta, apply_ite State.fixed, apply_ite Prod.fst, ite_self, implies_true,
          apply_ite CmdOut.st, CmdOut.status_st, CmdOut.ok_st, CmdOut.done_st, CmdOut.wait_st, CmdOut.status_fixed,
          CmdOut.ok_fixed, State.readFrom_fixed, State.whenRead_fixed, State.putWords_fixed]; done)
      | split
      | intro _
      | (dsimp +zetaHave only)
      | refine State.whenRead_fixed _ _ _ ?_
      | refine CmdOut.orState_fixed _ _ ?_)

theorem cmdSeqStart_fixed (s : State) (r : RunCmd) : (cmdSeqStart.start s r).st.fixed = s.fixed ∧ (cmdSeqStart.later s r).st.fixed = s.fixed := by
  constructor
  all_goals
    dsimp +zetaHave only [cmdSeqStart]
    repeat' (first
      | with_reducible rfl
      | (simp +zetaHave only [State.fixed_mk, State.fixed_eta, apply_ite State.fixed, apply_ite Prod.fst, ite_self, implies_true,
          apply_ite CmdOut.st, CmdOut.status_st, CmdOut.ok_st, CmdOut.done_st, CmdOut.wait_st, Rx.drop_fixed,
          State.setSq_fixed, CmdOut.status_fixed, CmdOut.ok_fixed]; done)
      | split
      | intro _
      | (dsimp +zetaHave only)
      | refine State.whenRead_fixed _ _ _ ?_
      | refine CmdOut.orState_fixed _ _ ?_)

theorem cmdSeqStop_fixed (s : State) (r : RunCmd) : (cmdSeqStop.start s r).st.fixed = s.fixed ∧ (cmdSeqStop.later s r).st.fixed = s.fixed := by
  constructor
  all_goals
    dsimp +zetaHave only [cmdSeqStop]
    repeat' (first
      | with_reducible rfl
      | (simp +zetaHave only [State.fixed_mk, State.fixed_eta, apply_ite State.fixed, apply_ite Prod.fst, ite_self, implies_true,
          apply_ite CmdOut.st, CmdOut.status_st, CmdOut.ok_st, CmdOut.done_st, CmdOut.wait_st, State.setSq_fixed,
          CmdOut.status_fixed, CmdOut.ok_fixed]; done)
      | split
      | intro _
      | (dsimp +zetaHave only)
      | refine State.whenRead_fixed _ _ _ ?_
      | refine CmdOut.orState_fixed _ _ ?_)

theorem State.rootEvent_fixed (s : State) (kind : Nat) (w : WireTime) (arg : Nat) : (State.rootEvent s kind w arg).1.fixed = s.fixed := by
  unfold State.rootEvent
  repeat' (first
    | with_reducible rfl
    | (simp +zetaHave only [State.fixed_mk, State.fixed_eta, apply_ite State.fixed, apply_ite Prod.fst, ite_self, implies_true,
        State.takeEvent_fixed, State.originate_fixed]; done)
    | split
    | intro _
    | (dsimp +zetaHave only))

theorem cmdSeqArm_fixed (s : State) (r : RunCmd) : (cmdSeqArm.start s r).st.fixed = s.fixed ∧ (cmdSeqArm.later s r).st.fixed = s.fixed := by
  constructor
  all_goals
    dsimp +zetaHave only [cmdSeqArm]
    repeat' (first
      | with_reducible rfl
      | (simp +zetaHave only [State.fixed_mk, State.fixed_eta, apply_ite State.fixed, apply_ite Prod.fst, ite_self, implies_true,
          apply_ite CmdOut.st, CmdOut.status_st, CmdOut.ok_st, CmdOut.done_st, CmdOut.wait_st, State.takeEvent_fixed,
          CmdOut.status_fixed, CmdOut.ok_fixed, State.rootEvent_fixed]; done)
      | split
      | intro _
      | (dsimp +zetaHave only)
      | refine State.whenRead_fixed _ _ _ ?_
      | refine CmdOut.orState_fixed _ _ ?_)

theorem cmdSeqCancel_fixed (s : State) (r : RunCmd) : (cmdSeqCancel.start s r).st.fixed = s.fixed ∧ (cmdSeqCancel.later s r).st.fixed = s.fixed := by
  constructor
  all_goals
    dsimp +zetaHave only [cmdSeqCancel]
    repeat' (first
      | with_reducible rfl
      | (simp +zetaHave only [State.fixed_mk, State.fixed_eta, apply_ite State.fixed, apply_ite Prod.fst, ite_self, implies_true,
          apply_ite CmdOut.st, CmdOut.status_st, CmdOut.ok_st, CmdOut.done_st, CmdOut.wait_st, State.cancelEvent_fixed,
          CmdOut.ok_fixed, State.rootEvent_fixed]; done)
      | split
      | intro _
      | (dsimp +zetaHave only)
      | refine State.whenRead_fixed _ _ _ ?_
      | refine CmdOut.orState_fixed _ _ ?_)

theorem cmdObjCtxDefine_fixed (s : State) (r : RunCmd) : (cmdObjCtxDefine.start s r).st.fixed = s.fixed ∧ (cmdObjCtxDefine.later s r).st.fixed = s.fixed := by
  constructor
  all_goals
    dsimp +zetaHave only [cmdObjCtxDefine]
    repeat' (first
      | with_reducible rfl
      | (simp +zetaHave only [State.fixed_mk, State.fixed_eta, apply_ite State.fixed, apply_ite Prod.fst, ite_self, implies_true,
          apply_ite CmdOut.st, CmdOut.status_st, CmdOut.ok_st, CmdOut.done_st, CmdOut.wait_st, State.defineCtx_fixed,
          CmdOut.status_fixed, CmdOut.ok_fixed]; done)
      | split
      | intro _
      | (dsimp +zetaHave only)
      | refine State.whenRead_fixed _ _ _ ?_
      | refine CmdOut.orState_fixed _ _ ?_)

theorem State.transRange_fixed (s : State) (h : Nat) (own : Bool) (n : Nat) (acc : List Nat) :
    (s.transRange h own n acc).1.fixed = s.fixed := by
  induction n generalizing s h acc with
  | zero => rfl
  | succ n ih =>
    have hc := State.commandTrans_fixed s h own
    unfold State.transRange
    split
    · rfl
    · split <;> rename_i e <;> rw [e] at hc
      · exact hc
      · rw [ih]; exact hc
      · exact hc

theorem State.dropTrans_fixed (s : State) : (State.dropTrans s).fixed = s.fixed := by
  unfold State.dropTrans
  repeat' (first
    | with_reducible rfl
    | (simp +zetaHave only [State.fixed_mk, State.fixed_eta, apply_ite State.fixed, apply_ite Prod.fst, ite_self, implies_true]; done)
    | split
    | intro _
    | (dsimp +zetaHave only))

theorem CmdOut.untranslated_fixed (s : State) (r : TransRes) : (CmdOut.untranslated s r).st.fixed = s.fixed := by
  unfold CmdOut.untranslated
  split <;> rfl

theorem State.objInit_fixed (s : State) (r : RunCmd) : (s.objInit r).st.fixed = s.fixed := by
  have hc := State.transRange_fixed s (prm r.p 1) false (prm r.p 2) []
  unfold State.objInit
  dsimp +zetaHave only
  split <;> rename_i e <;> rw [e] at hc
  · exact hc
  · rw [CmdOut.untranslated_fixed]; exact hc
  · rw [CmdOut.ok_st, State.each_fixed _ _ _ fun t n => State.initSlot_fixed t _ _ _ _, State.dropTrans_fixed]; exact hc

theorem cmdObjInit_fixed (s : State) (r : RunCmd) : (cmdObjInit.start s r).st.fixed = s.fixed ∧ (cmdObjInit.later s r).st.fixed = s.fixed := by
  constructor
  all_goals
    dsimp +zetaHave only [cmdObjInit]
    repeat' (first
      | with_reducible rfl
      | (simp +zetaHave only [State.fixed_mk, State.fixed_eta, apply_ite State.fixed, apply_ite Prod.fst, ite_self, implies_true,
          apply_ite CmdOut.st, CmdOut.status_st, CmdOut.ok_st, CmdOut.done_st, CmdOut.wait_st, CmdOut.status_fixed,
          State.objInit_fixed]; done)
      | split
      | intro _
      | (dsimp +zetaHave only)
      | refine State.whenRead_fixed _ _ _ ?_
      | refine CmdOut.orState_fixed _ _ ?_)

theorem cmdObjCtxClear_fixed (s : State) (r : RunCmd) : (cmdObjCtxClear.start s r).st.fixed = s.fixed ∧ (cmdObjCtxClear.later s r).st.fixed = s.fixed := by
  constructor
  all_goals
    dsimp +zetaHave only [cmdObjCtxClear]
    repeat' (first
      | with_reducible rfl
      | (simp +zetaHave only [State.fixed_mk, State.fixed_eta, apply_ite State.fixed, apply_ite Prod.fst, ite_self, implies_true,
          apply_ite CmdOut.st, CmdOut.status_st, CmdOut.ok_st, CmdOut.done_st, CmdOut.wait_st, State.clearCtx_fixed,
          State.scrub_fixed, CmdOut.status_fixed, CmdOut.ok_fixed]; done)
      | split
      | intro _
      | (dsimp +zetaHave only)
      | refine State.whenRead_fixed _ _ _ ?_
      | refine CmdOut.orState_fixed _ _ ?_)

theorem cmdObjCtxRelease_fixed (s : State) (r : RunCmd) : (cmdObjCtxRelease.start s r).st.fixed = s.fixed ∧ (cmdObjCtxRelease.later s r).st.fixed = s.fixed := by
  constructor
  all_goals
    dsimp +zetaHave only [cmdObjCtxRelease]
    repeat' (first
      | with_reducible rfl
      | (simp +zetaHave only [State.fixed_mk, State.fixed_eta, apply_ite State.fixed, apply_ite Prod.fst, ite_self, implies_true,
          apply_ite CmdOut.st, CmdOut.status_st, CmdOut.ok_st, CmdOut.done_st, CmdOut.wait_st, State.releaseCtx_fixed,
          State.scrub_fixed, CmdOut.status_fixed, CmdOut.ok_fixed]; done)
      | split
      | intro _
      | (dsimp +zetaHave only)
      | refine State.whenRead_fixed _ _ _ ?_
      | refine CmdOut.orState_fixed _ _ ?_)

theorem State.objWake_fixed (s : State) (r : RunCmd) : (s.objWake r).st.fixed = s.fixed := by
  have hc := State.commandTrans_fixed s (prm r.p 1) true
  unfold State.objWake
  split <;> rename_i e <;> rw [e] at hc
  · exact hc
  · rw [CmdOut.ok_st, State.foldl_fixed _ _ _ fun t w => State.failWaiter_fixed t w rWake true, State.dropTrans_fixed]; exact hc
  · rw [CmdOut.untranslated_fixed]; exact hc

theorem cmdObjWake_fixed (s : State) (r : RunCmd) : (cmdObjWake.start s r).st.fixed = s.fixed ∧ (cmdObjWake.later s r).st.fixed = s.fixed := by
  constructor
  all_goals
    dsimp +zetaHave only [cmdObjWake]
    repeat' (first
      | with_reducible rfl
      | (simp +zetaHave only [State.fixed_mk, State.fixed_eta, apply_ite State.fixed, apply_ite Prod.fst, ite_self, implies_true,
          apply_ite CmdOut.st, CmdOut.status_st, CmdOut.ok_st, CmdOut.done_st, CmdOut.wait_st, CmdOut.status_fixed,
          State.objWake_fixed]; done)
      | split
      | intro _
      | (dsimp +zetaHave only)
      | refine State.whenRead_fixed _ _ _ ?_
      | refine CmdOut.orState_fixed _ _ ?_)

theorem State.objOp_fixed (s : State) (r : RunCmd) : (s.objOp r).st.fixed = s.fixed := by
  have hc := State.commandTrans_fixed s (prm r.p 1) true
  unfold State.objOp
  dsimp +zetaHave only
  split
  · rw [CmdOut.done_st, State.valueOf_fixed, State.ended_fixed, State.dropTrans_fixed]
  · split <;> rename_i e <;> rw [e] at hc
    · exact hc
    · rw [CmdOut.done_st, State.opAt_fixed, State.dropTrans_fixed]; exact hc
    · rw [CmdOut.done_st, State.valueOf_fixed, State.ended_fixed, State.dropTrans_fixed]; exact hc
    · rw [CmdOut.done_st, State.valueOf_fixed, State.ended_fixed, State.dropTrans_fixed]; exact hc

theorem cmdObjOp_fixed (s : State) (r : RunCmd) : (cmdObjOp.start s r).st.fixed = s.fixed ∧ (cmdObjOp.later s r).st.fixed = s.fixed := by
  constructor
  all_goals
    dsimp +zetaHave only [cmdObjOp]
    repeat' (first
      | with_reducible rfl
      | (simp +zetaHave only [State.fixed_mk, State.fixed_eta, apply_ite State.fixed, apply_ite Prod.fst, ite_self, implies_true,
          apply_ite CmdOut.st, CmdOut.status_st, CmdOut.ok_st, CmdOut.done_st, CmdOut.wait_st, CmdOut.status_fixed,
          State.objOp_fixed]; done)
      | split
      | intro _
      | (dsimp +zetaHave only)
      | refine State.whenRead_fixed _ _ _ ?_
      | refine CmdOut.orState_fixed _ _ ?_)

theorem cmdCollDefine_fixed (s : State) (r : RunCmd) : (cmdCollDefine.start s r).st.fixed = s.fixed ∧ (cmdCollDefine.later s r).st.fixed = s.fixed := by
  constructor
  all_goals
    dsimp +zetaHave only [cmdCollDefine]
    repeat' (first
      | with_reducible rfl
      | (simp +zetaHave only [State.fixed_mk, State.fixed_eta, apply_ite State.fixed, apply_ite Prod.fst, ite_self, implies_true,
          apply_ite CmdOut.st, CmdOut.status_st, CmdOut.ok_st, CmdOut.done_st, CmdOut.wait_st, State.setHandle_fixed,
          CmdOut.status_fixed, CmdOut.ok_fixed]; done)
      | split
      | intro _
      | (dsimp +zetaHave only)
      | refine State.whenRead_fixed _ _ _ ?_
      | refine CmdOut.orState_fixed _ _ ?_)

theorem cmdCollRelease_fixed (s : State) (r : RunCmd) : (cmdCollRelease.start s r).st.fixed = s.fixed ∧ (cmdCollRelease.later s r).st.fixed = s.fixed := by
  constructor
  all_goals
    dsimp +zetaHave only [cmdCollRelease]
    repeat' (first
      | with_reducible rfl
      | (simp +zetaHave only [State.fixed_mk, State.fixed_eta, apply_ite State.fixed, apply_ite Prod.fst, ite_self, implies_true,
          apply_ite CmdOut.st, CmdOut.status_st, CmdOut.ok_st, CmdOut.done_st, CmdOut.wait_st, State.setHandle_fixed,
          CmdOut.status_fixed, CmdOut.ok_fixed]; done)
      | split
      | intro _
      | (dsimp +zetaHave only)
      | refine State.whenRead_fixed _ _ _ ?_
      | refine CmdOut.orState_fixed _ _ ?_)

theorem cmdCollAbort_fixed (s : State) (r : RunCmd) : (cmdCollAbort.start s r).st.fixed = s.fixed ∧ (cmdCollAbort.later s r).st.fixed = s.fixed := by
  constructor
  all_goals
    dsimp +zetaHave only [cmdCollAbort]
    repeat' (first
      | with_reducible rfl
      | (simp +zetaHave only [State.fixed_mk, State.fixed_eta, apply_ite State.fixed, apply_ite Prod.fst, ite_self, implies_true,
          State.foldl_fixed, State.foldl_fst_fixed, apply_ite CmdOut.st, CmdOut.status_st, CmdOut.ok_st,
          CmdOut.done_st, CmdOut.wait_st, State.rootAbort_fixed, State.abortReq_fixed, CmdOut.status_fixed,
          CmdOut.ok_fixed]; done)
      | split
      | intro _
      | (dsimp +zetaHave only)
      | refine State.whenRead_fixed _ _ _ ?_
      | refine CmdOut.orState_fixed _ _ ?_
      | refine (State.foldl_fixed _ _ _ ?_).trans ?_
      | refine (State.foldl_fst_fixed _ _ _ ?_).trans ?_)

theorem cmdPortCalibrate_fixed (s : State) (r : RunCmd) : (cmdPortCalibrate.start s r).st.fixed = s.fixed ∧ (cmdPortCalibrate.later s r).st.fixed = s.fixed := by
  constructor
  all_goals
    dsimp +zetaHave only [cmdPortCalibrate]
    repeat' (first
      | with_reducible rfl
      | (simp +zetaHave only [State.fixed_mk, State.fixed_eta, apply_ite State.fixed, apply_ite Prod.fst, ite_self, implies_true,
          apply_ite CmdOut.st, CmdOut.status_st, CmdOut.ok_st, CmdOut.done_st, CmdOut.wait_st, State.claimEngine_fixed,
          CmdOut.status_fixed, CmdOut.ok_fixed]; done)
      | split
      | intro _
      | (dsimp +zetaHave only)
      | refine State.whenRead_fixed _ _ _ ?_
      | refine CmdOut.orState_fixed _ _ ?_)

theorem CmdOut.orState_fixed (s : State) (o : Option State) (h : ∀ t, o = some t → t.fixed = s.fixed) :
    (CmdOut.orState s o).st.fixed = s.fixed := by
  unfold CmdOut.orState
  split
  · exact h _ rfl
  · rfl

theorem cmdPortRetireRow_fixed (s : State) (r : RunCmd) : (cmdPortRetireRow.start s r).st.fixed = s.fixed ∧ (cmdPortRetireRow.later s r).st.fixed = s.fixed := by
  refine ⟨?_, rfl⟩
  unfold cmdPortRetireRow
  dsimp +zetaHave only
  repeat' (first | (simp only [CmdOut.status_st]; done) | split)
  exact CmdOut.orState_fixed _ _ fun t h => State.cmdPortRetire_fixed s _ _ t h

theorem cmdPortRestoreRow_fixed (s : State) (r : RunCmd) : (cmdPortRestoreRow.start s r).st.fixed = s.fixed ∧ (cmdPortRestoreRow.later s r).st.fixed = s.fixed := by
  refine ⟨?_, rfl⟩
  unfold cmdPortRestoreRow
  dsimp +zetaHave only
  repeat' (first | (simp only [CmdOut.status_st]; done) | split)
  exact CmdOut.orState_fixed _ _ fun t h => State.cmdPortRestore_fixed s _ t h

theorem cmdPortSpareRow_fixed (s : State) (r : RunCmd) : (cmdPortSpareRow.start s r).st.fixed = s.fixed ∧ (cmdPortSpareRow.later s r).st.fixed = s.fixed := by
  refine ⟨?_, rfl⟩
  unfold cmdPortSpareRow
  dsimp +zetaHave only
  repeat' (first | (simp only [CmdOut.status_st]; done) | split)
  refine CmdOut.orState_fixed _ _ fun t h => ?_
  obtain ⟨u, hu, rfl⟩ := Option.map_eq_some_iff.mp h
  rw [State.judged_fixed, State.cmdPortSpare_fixed s _ _ u hu]

theorem cmdPowerEnter_fixed (s : State) (r : RunCmd) : (cmdPowerEnter.start s r).st.fixed = s.fixed ∧ (cmdPowerEnter.later s r).st.fixed = s.fixed := by
  refine ⟨?_, rfl⟩
  unfold cmdPowerEnter
  dsimp +zetaHave only
  repeat' (first | (simp only [CmdOut.status_st]; done) | split)
  exact CmdOut.orState_fixed _ _ fun t h => State.powerRequest_fixed s _ t h

theorem cmdPulseArm_fixed (s : State) (r : RunCmd) : (cmdPulseArm.start s r).st.fixed = s.fixed ∧ (cmdPulseArm.later s r).st.fixed = s.fixed := by
  constructor
  all_goals
    dsimp +zetaHave only [cmdPulseArm]
    repeat' (first
      | with_reducible rfl
      | (simp +zetaHave only [State.fixed_mk, State.fixed_eta, apply_ite State.fixed, apply_ite Prod.fst, ite_self, implies_true,
          apply_ite CmdOut.st, CmdOut.status_st, CmdOut.ok_st, CmdOut.done_st, CmdOut.wait_st, State.addPulse_fixed,
          CmdOut.status_fixed]; done)
      | split
      | intro _
      | (dsimp +zetaHave only)
      | refine State.whenRead_fixed _ _ _ ?_
      | refine CmdOut.orState_fixed _ _ ?_)

theorem cmdPulseCancel_fixed (s : State) (r : RunCmd) : (cmdPulseCancel.start s r).st.fixed = s.fixed ∧ (cmdPulseCancel.later s r).st.fixed = s.fixed := by
  constructor
  all_goals
    dsimp +zetaHave only [cmdPulseCancel]
    repeat' (first
      | with_reducible rfl
      | (simp +zetaHave only [State.fixed_mk, State.fixed_eta, apply_ite State.fixed, apply_ite Prod.fst, ite_self, implies_true,
          apply_ite CmdOut.st, CmdOut.status_st, CmdOut.ok_st, CmdOut.done_st, CmdOut.wait_st, State.modPulse_fixed,
          CmdOut.status_fixed, CmdOut.ok_fixed]; done)
      | split
      | intro _
      | (dsimp +zetaHave only)
      | refine State.whenRead_fixed _ _ _ ?_
      | refine CmdOut.orState_fixed _ _ ?_)

theorem cmdClockClkout_fixed (s : State) (r : RunCmd) : (cmdClockClkout.start s r).st.fixed = s.fixed ∧ (cmdClockClkout.later s r).st.fixed = s.fixed := by
  constructor
  all_goals
    dsimp +zetaHave only [cmdClockClkout]
    repeat' (first
      | with_reducible rfl
      | (simp +zetaHave only [State.fixed_mk, State.fixed_eta, apply_ite State.fixed, apply_ite Prod.fst, ite_self, implies_true,
          apply_ite CmdOut.st, CmdOut.status_st, CmdOut.ok_st, CmdOut.done_st, CmdOut.wait_st, State.clkoutWrite_fixed,
          CmdOut.ok_fixed]; done)
      | split
      | intro _
      | (dsimp +zetaHave only)
      | refine State.whenRead_fixed _ _ _ ?_
      | refine CmdOut.orState_fixed _ _ ?_)

theorem cmdOf_fixed (op : Nat) (c : Cmd) (h : cmdOf op = some c) (s : State) (r : RunCmd) :
    (c.start s r).st.fixed = s.fixed ∧ (c.later s r).st.fixed = s.fixed := by
  unfold cmdOf at h
  split at h <;> first | cases h | skip
  · exact cmdGenIdentify_fixed s r
  · exact cmdGenStatus_fixed s r
  · exact cmdTopologyLoad_fixed s r
  · exact cmdGenReset_fixed s r
  · exact cmdFwLoad_fixed s r
  · exact cmdFwStart_fixed s r
  · exact cmdTimeAcquire_fixed s r
  · exact cmdTimeRestep_fixed s r
  · exact cmdTimeSlewLimit_fixed s r
  · exact cmdTimeDomainSelect_fixed s r
  · exact cmdTimeSwitchAt_fixed s r
  · exact cmdTimeHoldoverForce_fixed s r
  · exact cmdTimeEpochSet_fixed s r
  · exact cmdRefConfigure_fixed s r
  · exact cmdRefPriority_fixed s r
  · exact cmdRefLoopOpen_fixed s r
  · exact cmdRefLoopClose_fixed s r
  · exact cmdRefCorrect_fixed s r
  · exact cmdIntervalArm_fixed s r
  · exact cmdIntervalAbort_fixed s r
  · exact cmdSeqLoad_fixed s r
  · exact cmdSeqStart_fixed s r
  · exact cmdSeqStop_fixed s r
  · exact cmdSeqArm_fixed s r
  · exact cmdSeqCancel_fixed s r
  · exact cmdObjCtxDefine_fixed s r
  · exact cmdObjInit_fixed s r
  · exact cmdObjCtxClear_fixed s r
  · exact cmdObjCtxRelease_fixed s r
  · exact cmdObjWake_fixed s r
  · exact cmdObjOp_fixed s r
  · exact cmdCollDefine_fixed s r
  · exact cmdCollRelease_fixed s r
  · exact cmdCollAbort_fixed s r
  · exact cmdPortCalibrate_fixed s r
  · exact cmdPortRetireRow_fixed s r
  · exact cmdPortRestoreRow_fixed s r
  · exact cmdPortSpareRow_fixed s r
  · exact cmdPowerEnter_fixed s r
  · exact cmdPulseArm_fixed s r
  · exact cmdPulseCancel_fixed s r
  · exact cmdClockClkout_fixed s r

theorem State.acceptIf_fixed (s : State) (wanted : Nat → Bool) (f : State → RunCmd → Nat → State)
    (h : ∀ t r k, (f t r k).fixed = t.fixed) : (s.acceptIf wanted f).fixed = s.fixed := by
  unfold State.acceptIf
  dsimp +zetaHave only
  repeat' split
  all_goals simp only [h, State.setCmdSlot_fixed, State.takeSlot_fixed]

theorem State.acceptOp_fixed (s : State) (op : Nat) (c : Cmd) (h : ∀ t r, (c.start t r).st.fixed = t.fixed) :
    (s.acceptOp op c).fixed = s.fixed := by
  unfold State.acceptOp
  refine State.acceptIf_fixed s _ _ fun t r k => ?_
  split
  · rw [State.complete_fixed]
    split
    · exact State.count_fixed _ _ _
    · rfl
  · rw [CmdOut.settle_fixed, h]

theorem State.pumpCmds_fixed (s : State) : s.pumpCmds.fixed = s.fixed := by
  unfold State.pumpCmds
  refine State.foldl_fixed _ _ _ fun t k => ?_
  split
  · rfl
  · split
    · exact State.complete_fixed _ _ _
    · split
      · rename_i c h
        rw [CmdOut.settle_fixed]
        exact (cmdOf_fixed _ c h t _).2
      · rfl

theorem State.abortLong_fixed (s : State) : (State.abortLong s).fixed = s.fixed := by
  unfold State.abortLong
  repeat' (first
    | with_reducible rfl
    | (simp +zetaHave only [State.fixed_mk, State.fixed_eta, apply_ite State.fixed, apply_ite Prod.fst, ite_self, implies_true,
        State.foldl_fixed, State.foldl_fst_fixed, apply_ite CmdOut.st, CmdOut.status_st, CmdOut.ok_st, CmdOut.done_st,
        CmdOut.wait_st, CmdOut.status_fixed, State.complete_fixed]; done)
    | split
    | intro _
    | (dsimp +zetaHave only)
    | refine (State.foldl_fixed _ _ _ ?_).trans ?_
    | refine (State.foldl_fst_fixed _ _ _ ?_).trans ?_)

end Sys2Proof.Machine
end

