-- ==== Sys2Proof/Laws/FrameMem.lean ====
section
/-! SUPPORT. Sys2Proof/Laws/FrameMem.lean: no operation of Machine/Mem.lean touches the queue, the tie-offs or the start
phase of the block. -/

set_option linter.all false
set_option Elab.async false

namespace Sys2Proof.Machine
open Sys2Proof.Config
set_option linter.unusedSimpArgs false

theorem State.readEnds_fixed (s : State) (q : MemReq) (bad : Bool) : (State.readEnds s q bad).fixed = s.fixed := by
  unfold State.readEnds
  repeat' (first
    | with_reducible rfl
    | (simp +zetaHave only [State.fixed_mk, State.fixed_eta, apply_ite State.fixed, apply_ite Prod.fst, ite_self, implies_true,
        apply_ite CmdOut.st, CmdOut.status_st, CmdOut.ok_st, CmdOut.done_st, CmdOut.wait_st, State.memPump_fixed,
        Rx.drop_fixed, State.contained_fixed, State.transDone_fixed, State.putRun_fixed, State.pumpCmds_fixed]; done)
    | split
    | intro _
    | (dsimp +zetaHave only))

theorem State.readBeats_fixed (s : State) (id : Nat) (bytes : List Nat) (bad : Bool) : (State.readBeats s id bytes bad).fixed = s.fixed := by
  unfold State.readBeats
  repeat' (first
    | with_reducible rfl
    | (simp +zetaHave only [State.fixed_mk, State.fixed_eta, apply_ite State.fixed, apply_ite Prod.fst, ite_self, implies_true,
        State.readEnds_fixed]; done)
    | split
    | intro _
    | (dsimp +zetaHave only))

theorem State.writeEnds_fixed (s : State) (q : MemReq) (err : Bool) : (State.writeEnds s q err).fixed = s.fixed := by
  unfold State.writeEnds
  repeat' (first
    | with_reducible rfl
    | (simp +zetaHave only [State.fixed_mk, State.fixed_eta, apply_ite State.fixed, apply_ite Prod.fst, ite_self, implies_true,
        State.count_fixed, State.raise_fixed, State.memPump_fixed, State.ringAcked_fixed]; done)
    | split
    | intro _
    | (dsimp +zetaHave only))

theorem State.memTimeouts_fixed (s : State) (t : Nat) : (State.memTimeouts s t).fixed = s.fixed := by
  unfold State.memTimeouts
  repeat' (first
    | with_reducible rfl
    | (simp +zetaHave only [State.fixed_mk, State.fixed_eta, apply_ite State.fixed, apply_ite Prod.fst, ite_self, implies_true,
        State.foldl_fixed, State.foldl_fst_fixed, State.readEnds_fixed, State.writeEnds_fixed]; done)
    | split
    | intro _
    | (dsimp +zetaHave only)
    | refine (State.foldl_fixed _ _ _ ?_).trans ?_
    | refine (State.foldl_fst_fixed _ _ _ ?_).trans ?_)

end Sys2Proof.Machine
end

