-- ==== Sys2Proof/Laws/FrameFault.lean ====
section
/-! SUPPORT. Sys2Proof/Laws/FrameFault.lean: no operation of Machine/Fault.lean touches the queue, the tie-offs or the start
phase of the block. -/

set_option linter.all false
set_option Elab.async false

namespace Sys2Proof.Machine
open Sys2Proof.Config
set_option linter.unusedSimpArgs false

theorem State.badSlot_fixed (s : State) (h : Nat) (who : TransFor) : (State.badSlot s h who).fixed = s.fixed := by
  unfold State.badSlot
  repeat' (first
    | with_reducible rfl
    | (simp +zetaHave only [State.fixed_mk, State.fixed_eta, apply_ite State.fixed, apply_ite Prod.fst, ite_self, implies_true,
        State.contained_fixed, State.endEngine_fixed, State.transFor_fixed]; done)
    | split
    | intro _
    | (dsimp +zetaHave only))

theorem State.badCounter_fixed (s : State) (cid : Nat) (isn : Nat) (attempt : Nat) : (State.badCounter s cid isn attempt).fixed = s.fixed := by
  unfold State.badCounter
  repeat' (first
    | with_reducible rfl
    | (simp +zetaHave only [State.fixed_mk, State.fixed_eta, apply_ite State.fixed, apply_ite Prod.fst, ite_self, implies_true,
        State.abortReq_fixed, State.contained_fixed]; done)
    | split
    | intro _
    | (dsimp +zetaHave only))

theorem State.badLog_fixed (s : State) (h : Nat) (isn : Nat) : (State.badLog s h isn).fixed = s.fixed := by
  unfold State.badLog
  repeat' (first
    | with_reducible rfl
    | (simp +zetaHave only [State.fixed_mk, State.fixed_eta, apply_ite State.fixed, apply_ite Prod.fst, ite_self, implies_true,
        State.abortReq_fixed, State.contained_fixed]; done)
    | split
    | intro _
    | (dsimp +zetaHave only))

theorem State.badStamp_fixed (s : State) (p : Nat) : (State.badStamp s p).fixed = s.fixed := by
  unfold State.badStamp
  repeat' (first
    | with_reducible rfl
    | (simp +zetaHave only [State.fixed_mk, State.fixed_eta, apply_ite State.fixed, apply_ite Prod.fst, ite_self, implies_true,
        State.count_fixed, State.setPort_fixed, State.dropExch_fixed, State.contained_fixed]; done)
    | split
    | intro _
    | (dsimp +zetaHave only))

theorem State.badReplay_fixed (s : State) (p : Nat) : (State.badReplay s p).fixed = s.fixed := by
  unfold State.badReplay
  repeat' (first
    | with_reducible rfl
    | (simp +zetaHave only [State.fixed_mk, State.fixed_eta, apply_ite State.fixed, apply_ite Prod.fst, ite_self, implies_true,
        State.attemptFails_fixed, State.contained_fixed]; done)
    | split
    | intro _
    | (dsimp +zetaHave only))

theorem State.badTranslation_fixed (s : State) (id : Nat) : (State.badTranslation s id).fixed = s.fixed := by
  unfold State.badTranslation
  repeat' (first
    | with_reducible rfl
    | (simp +zetaHave only [State.fixed_mk, State.fixed_eta, apply_ite State.fixed, apply_ite Prod.fst, ite_self, implies_true,
        State.readEnds_fixed]; done)
    | split
    | intro _
    | (dsimp +zetaHave only))

theorem State.zeroRead_fixed (s : State) (m : Master) : (State.zeroRead s m).fixed = s.fixed := by
  unfold State.zeroRead
  repeat' (first
    | with_reducible rfl
    | (simp +zetaHave only [State.fixed_mk, State.fixed_eta, apply_ite State.fixed, apply_ite Prod.fst, ite_self, implies_true,
        State.emit_fixed]; done)
    | split
    | intro _
    | (dsimp +zetaHave only))

theorem State.underlayEnter_fixed (s : State) (nc : Nat) : (State.underlayEnter s nc).fixed = s.fixed := by
  unfold State.underlayEnter
  repeat' (first
    | with_reducible rfl
    | (simp +zetaHave only [State.fixed_mk, State.fixed_eta, apply_ite State.fixed, apply_ite Prod.fst, ite_self, implies_true,
        State.each_fixed, State.count_fixed, State.napWake_fixed, State.abortShots_fixed, State.flushCT_fixed,
        State.objStop_fixed, State.underlayHold_fixed, State.seqUnderlay_fixed, State.gangLose_fixed,
        State.abortLong_fixed]; done)
    | split
    | intro _
    | (dsimp +zetaHave only)
    | refine (State.each_fixed _ _ _ ?_).trans ?_)

theorem State.underlayBoundary_fixed (s : State) (nc : Nat) : (State.underlayBoundary s nc).fixed = s.fixed := by
  unfold State.underlayBoundary
  repeat' (first
    | with_reducible rfl
    | (simp +zetaHave only [State.fixed_mk, State.fixed_eta, apply_ite State.fixed, apply_ite Prod.fst, ite_self, implies_true,
        State.underlayEnter_fixed]; done)
    | split
    | intro _
    | (dsimp +zetaHave only))

theorem State.underlayExit_fixed (s : State) : (State.underlayExit s).fixed = s.fixed := by
  unfold State.underlayExit
  repeat' (first
    | with_reducible rfl
    | (simp +zetaHave only [State.fixed_mk, State.fixed_eta, apply_ite State.fixed, apply_ite Prod.fst, ite_self, implies_true,
        State.objReset_fixed, State.seqReset_fixed, State.fillAll_fixed]; done)
    | split
    | intro _
    | (dsimp +zetaHave only))

end Sys2Proof.Machine
end

