-- ==== Sys2Proof/Laws/FrameWrite.lean ====
section
/-! SUPPORT. Sys2Proof/Laws/FrameWrite.lean: no operation of Machine/Write.lean touches the queue, the tie-offs or the start
phase of the block. -/

set_option linter.all false
set_option Elab.async false

namespace Sys2Proof.Machine
open Sys2Proof.Config
set_option linter.unusedSimpArgs false

theorem State.ownWrite_fixed (s : State) (m : Master) (v : Nat) : (State.ownWrite s m v).fixed = s.fixed := by
  unfold State.ownWrite
  repeat' (first
    | with_reducible rfl
    | (simp +zetaHave only [State.fixed_mk, State.fixed_eta, apply_ite State.fixed, apply_ite Prod.fst, ite_self, implies_true,
        State.foldl_fixed, State.foldl_fst_fixed, State.wr_fixed]; done)
    | split
    | intro _
    | (dsimp +zetaHave only)
    | refine (State.foldl_fixed _ _ _ ?_).trans ?_
    | refine (State.foldl_fst_fixed _ _ _ ?_).trans ?_)

theorem State.ringCfgWrite_fixed (s : State) (v : Nat) : (State.ringCfgWrite s v).fixed = s.fixed := by
  unfold State.ringCfgWrite
  repeat' (first
    | with_reducible rfl
    | (simp +zetaHave only [State.fixed_mk, State.fixed_eta, apply_ite State.fixed, apply_ite Prod.fst, ite_self, implies_true,
        State.wr_fixed]; done)
    | split
    | intro _
    | (dsimp +zetaHave only))

theorem State.putBlock_fixed (s : State) (r : Reg) (v : Nat) : (State.putBlock s r v).fixed = s.fixed := by
  unfold State.putBlock
  repeat' (first
    | with_reducible rfl
    | (simp +zetaHave only [State.fixed_mk, State.fixed_eta, apply_ite State.fixed, apply_ite Prod.fst, ite_self, implies_true,
        State.wr_fixed, State.pulseCfgWrite_fixed, State.profileWrite_fixed, State.candCfgWrite_fixed,
        State.candDelayWrite_fixed]; done)
    | split
    | intro _
    | (dsimp +zetaHave only))

theorem State.putRw_fixed (s : State) (m : Master) (r : Reg) (v : Nat) : (State.putRw s m r v).fixed = s.fixed := by
  unfold State.putRw
  repeat' (first
    | with_reducible rfl
    | (simp +zetaHave only [State.fixed_mk, State.fixed_eta, apply_ite State.fixed, apply_ite Prod.fst, ite_self, implies_true,
        State.wr_fixed, State.portCtlWrite_fixed, State.portConstWrite_fixed, State.battenCtl_fixed,
        State.imCtlWrite_fixed, State.zcCtlWrite_fixed, State.imCalCfgWrite_fixed, State.cgCtlWrite_fixed,
        State.clkoutWrite_fixed, State.ownWrite_fixed, State.ringCfgWrite_fixed, State.putBlock_fixed,
        State.resteer_fixed]; done)
    | split
    | intro _
    | (dsimp +zetaHave only))

theorem State.causeWrite_fixed (s : State) (v : Nat) : (State.causeWrite s v).fixed = s.fixed := by
  unfold State.causeWrite
  repeat' (first
    | with_reducible rfl
    | (simp +zetaHave only [State.fixed_mk, State.fixed_eta, apply_ite State.fixed, apply_ite Prod.fst, ite_self, implies_true,
        State.irqRestart_fixed]; done)
    | split
    | intro _
    | (dsimp +zetaHave only))

theorem State.heartbeat_fixed (s : State) (m : Master) : (State.heartbeat s m).fixed = s.fixed := by
  unfold State.heartbeat
  repeat' (first
    | with_reducible rfl
    | (simp +zetaHave only [State.fixed_mk, State.fixed_eta, apply_ite State.fixed, apply_ite Prod.fst, ite_self, implies_true]; done)
    | split
    | intro _
    | (dsimp +zetaHave only))

theorem State.putOther_fixed (s : State) (m : Master) (off : Nat) (v : Nat) : (State.putOther s m off v).fixed = s.fixed := by
  unfold State.putOther
  repeat' (first
    | with_reducible rfl
    | (simp +zetaHave only [State.fixed_mk, State.fixed_eta, apply_ite State.fixed, apply_ite Prod.fst, ite_self, implies_true,
        State.clearCounters_fixed, State.raiseIf_fixed, State.debtClear_fixed, State.kick_fixed, State.ulControl_fixed,
        State.causeWrite_fixed, State.heartbeat_fixed]; done)
    | split
    | intro _
    | (dsimp +zetaHave only))

theorem State.slotWrite_fixed (s : State) (k : Nat) (b : Nat) (v : Nat) (wide : Bool) : (State.slotWrite s k b v wide).fixed = s.fixed := by
  unfold State.slotWrite
  repeat' (first
    | with_reducible rfl
    | (simp +zetaHave only [State.fixed_mk, State.fixed_eta, apply_ite State.fixed, apply_ite Prod.fst, ite_self, implies_true,
        apply_ite CmdOut.st, CmdOut.status_st, CmdOut.ok_st, CmdOut.done_st, CmdOut.wait_st, State.count_fixed,
        State.openGate_fixed, State.busy_fixed, State.setCmdSlot_fixed, State.queueSlot_fixed]; done)
    | split
    | intro _
    | (dsimp +zetaHave only))

theorem State.putReg_fixed (s : State) (m : Master) (off : Nat) (v : Nat) : (State.putReg s m off v).fixed = s.fixed := by
  unfold State.putReg
  repeat' (first
    | with_reducible rfl
    | (simp +zetaHave only [State.fixed_mk, State.fixed_eta, apply_ite State.fixed, apply_ite Prod.fst, ite_self, implies_true,
        State.putRw_fixed, State.putOther_fixed]; done)
    | split
    | intro _
    | (dsimp +zetaHave only))

theorem State.put32_fixed (s : State) (m : Master) (off : Nat) (v : Nat) : (State.put32 s m off v).fixed = s.fixed := by
  unfold State.put32
  repeat' (first
    | with_reducible rfl
    | (simp +zetaHave only [State.fixed_mk, State.fixed_eta, apply_ite State.fixed, apply_ite Prod.fst, ite_self, implies_true,
        State.putReg_fixed]; done)
    | split
    | intro _
    | (dsimp +zetaHave only))

theorem State.regWrite_fixed (s : State) (m : Master) (off : Nat) (wide : Bool) (v : Nat) : (State.regWrite s m off wide v).fixed = s.fixed := by
  unfold State.regWrite
  repeat' (first
    | with_reducible rfl
    | (simp +zetaHave only [State.fixed_mk, State.fixed_eta, apply_ite State.fixed, apply_ite Prod.fst, ite_self, implies_true,
        State.storeWrite_fixed, State.slotWrite_fixed, State.putReg_fixed, State.put32_fixed]; done)
    | split
    | intro _
    | (dsimp +zetaHave only))

theorem State.touch_fixed (s : State) (m : Master) (off : Nat) : (State.touch s m off).fixed = s.fixed := by
  unfold State.touch
  repeat' (first
    | with_reducible rfl
    | (simp +zetaHave only [State.fixed_mk, State.fixed_eta, apply_ite State.fixed, apply_ite Prod.fst, ite_self, implies_true,
        State.busy_fixed, State.gateAccess_fixed]; done)
    | split
    | intro _
    | (dsimp +zetaHave only))

theorem State.access_fixed (s : State) (m : Master) (off : Nat) (req : HeldReq) (f : State → State)
    (hf : ∀ t, (f t).fixed = t.fixed) : (s.access m off req f).fixed = s.fixed := by
  unfold State.access
  repeat' split
  all_goals simp only [hf, State.touch_fixed, State.wake_fixed]

theorem State.doWrite_fixed (s : State) (m : Master) (off : Nat) (wide : Bool) (v : Nat) : (State.doWrite s m off wide v).fixed = s.fixed := by
  unfold State.doWrite
  repeat' (first
    | with_reducible rfl
    | (simp +zetaHave only [State.fixed_mk, State.fixed_eta, apply_ite State.fixed, apply_ite Prod.fst, ite_self, implies_true,
        State.regWrite_fixed]; done)
    | split
    | intro _
    | (dsimp +zetaHave only))

theorem State.writeBy_fixed (s : State) (m : Master) (off : Nat) (wide : Bool) (v : Nat) : (State.writeBy s m off wide v).fixed = s.fixed := by
  unfold State.writeBy
  repeat' (first
    | with_reducible rfl
    | (simp +zetaHave only [State.fixed_mk, State.fixed_eta, apply_ite State.fixed, apply_ite Prod.fst, ite_self, implies_true,
        State.access_fixed, State.doWrite_fixed]; done)
    | split
    | intro _
    | (dsimp +zetaHave only))

theorem State.readBy_fixed (s : State) (m : Master) (off : Nat) (wide : Bool) : (State.readBy s m off wide).fixed = s.fixed := by
  unfold State.readBy
  repeat' (first
    | with_reducible rfl
    | (simp +zetaHave only [State.fixed_mk, State.fixed_eta, apply_ite State.fixed, apply_ite Prod.fst, ite_self, implies_true,
        State.regRead_fixed, State.access_fixed]; done)
    | split
    | intro _
    | (dsimp +zetaHave only))

theorem State.hostDo_fixed (s : State) (a : Access) : (State.hostDo s a).fixed = s.fixed := by
  unfold State.hostDo
  repeat' (first
    | with_reducible rfl
    | (simp +zetaHave only [State.fixed_mk, State.fixed_eta, apply_ite State.fixed, apply_ite Prod.fst, ite_self, implies_true,
        State.emit_fixed, State.regRead_fixed, State.doWrite_fixed]; done)
    | split
    | intro _
    | (dsimp +zetaHave only))

theorem State.holdBehind_fixed (s : State) (q : HeldReq) : (State.holdBehind s q).fixed = s.fixed := by
  unfold State.holdBehind
  repeat' (first
    | with_reducible rfl
    | (simp +zetaHave only [State.fixed_mk, State.fixed_eta, apply_ite State.fixed, apply_ite Prod.fst, ite_self, implies_true]; done)
    | split
    | intro _
    | (dsimp +zetaHave only))

theorem State.hostBad_fixed (s : State) : (State.hostBad s).fixed = s.fixed := by
  unfold State.hostBad
  repeat' (first
    | with_reducible rfl
    | (simp +zetaHave only [State.fixed_mk, State.fixed_eta, apply_ite State.fixed, apply_ite Prod.fst, ite_self, implies_true,
        State.emit_fixed]; done)
    | split
    | intro _
    | (dsimp +zetaHave only))

theorem State.hostRequest_fixed (s : State) (a : Access) (parityOk : Bool) : (State.hostRequest s a parityOk).fixed = s.fixed := by
  unfold State.hostRequest
  repeat' (first
    | with_reducible rfl
    | (simp +zetaHave only [State.fixed_mk, State.fixed_eta, apply_ite State.fixed, apply_ite Prod.fst, ite_self, implies_true,
        State.count_fixed, State.emit_fixed, State.access_fixed, State.hostDo_fixed, State.holdBehind_fixed,
        State.hostBad_fixed]; done)
    | split
    | intro _
    | (dsimp +zetaHave only))

theorem State.setHostDown_fixed (s : State) : (State.setHostDown s).fixed = s.fixed := by
  unfold State.setHostDown
  repeat' (first
    | with_reducible rfl
    | (simp +zetaHave only [State.fixed_mk, State.fixed_eta, apply_ite State.fixed, apply_ite Prod.fst, ite_self, implies_true,
        State.raiseIf_fixed]; done)
    | split
    | intro _
    | (dsimp +zetaHave only))

theorem State.heartbeatTimeout_fixed (s : State) (t : Nat) : (State.heartbeatTimeout s t).fixed = s.fixed := by
  unfold State.heartbeatTimeout
  repeat' (first
    | with_reducible rfl
    | (simp +zetaHave only [State.fixed_mk, State.fixed_eta, apply_ite State.fixed, apply_ite Prod.fst, ite_self, implies_true,
        State.setHostDown_fixed]; done)
    | split
    | intro _
    | (dsimp +zetaHave only))

theorem State.hostReset_fixed (s : State) : (State.hostReset s).fixed = s.fixed := by
  unfold State.hostReset
  repeat' (first
    | with_reducible rfl
    | (simp +zetaHave only [State.fixed_mk, State.fixed_eta, apply_ite State.fixed, apply_ite Prod.fst, ite_self, implies_true,
        State.setHostDown_fixed]; done)
    | split
    | intro _
    | (dsimp +zetaHave only))

theorem State.mctp_fixed (s : State) (cmd : Nat) (data : Nat) : (State.mctp s cmd data).fixed = s.fixed := by
  unfold State.mctp
  repeat' (first
    | with_reducible rfl
    | (simp +zetaHave only [State.fixed_mk, State.fixed_eta, apply_ite State.fixed, apply_ite Prod.fst, ite_self, implies_true,
        State.emit_fixed]; done)
    | split
    | intro _
    | (dsimp +zetaHave only))

theorem State.slotless_fixed (s : State) (header : Nat) (st : Nat) : (State.slotless s header st).fixed = s.fixed := by
  unfold State.slotless
  repeat' (first
    | with_reducible rfl
    | (simp +zetaHave only [State.fixed_mk, State.fixed_eta, apply_ite State.fixed, apply_ite Prod.fst, ite_self, implies_true,
        State.emit_fixed, CmdOut.status_fixed]; done)
    | split
    | intro _
    | (dsimp +zetaHave only))

theorem State.sbCommand_fixed (s : State) (words : List Nat) : (State.sbCommand s words).fixed = s.fixed := by
  unfold State.sbCommand
  repeat' (first
    | with_reducible rfl
    | (simp +zetaHave only [State.fixed_mk, State.fixed_eta, apply_ite State.fixed, apply_ite Prod.fst, ite_self, implies_true,
        State.foldl_fixed, State.foldl_fst_fixed, State.count_fixed, State.openGate_fixed, State.busy_fixed,
        State.queueSlot_fixed, State.slotless_fixed]; done)
    | split
    | intro _
    | (dsimp +zetaHave only)
    | refine (State.foldl_fixed _ _ _ ?_).trans ?_
    | refine (State.foldl_fst_fixed _ _ _ ?_).trans ?_)

theorem State.sbGate_fixed (s : State) : (State.sbGate s).fixed = s.fixed := by
  unfold State.sbGate
  repeat' (first
    | with_reducible rfl
    | (simp +zetaHave only [State.fixed_mk, State.fixed_eta, apply_ite State.fixed, apply_ite Prod.fst, ite_self, implies_true,
        State.openGate_fixed]; done)
    | split
    | intro _
    | (dsimp +zetaHave only))

theorem State.sbDo_fixed (s : State) (m : SbMsg) : (State.sbDo s m).fixed = s.fixed := by
  unfold State.sbDo
  repeat' (first
    | with_reducible rfl
    | (simp +zetaHave only [State.fixed_mk, State.fixed_eta, apply_ite State.fixed, apply_ite Prod.fst, ite_self, implies_true,
        State.emit_fixed, State.regRead_fixed, State.regWrite_fixed, State.doWrite_fixed, State.mctp_fixed,
        State.sbCommand_fixed, State.sbGate_fixed]; done)
    | split
    | intro _
    | (dsimp +zetaHave only))

theorem State.sbMessage_fixed (s : State) (m : SbMsg) : (State.sbMessage s m).fixed = s.fixed := by
  unfold State.sbMessage
  repeat' (first
    | with_reducible rfl
    | (simp +zetaHave only [State.fixed_mk, State.fixed_eta, apply_ite State.fixed, apply_ite Prod.fst, ite_self, implies_true,
        State.wake_fixed, State.regRead_fixed, State.regWrite_fixed, State.access_fixed, State.sbDo_fixed]; done)
    | split
    | intro _
    | (dsimp +zetaHave only))

end Sys2Proof.Machine
end

