-- ==== Sys2Proof/Laws/FrameTick.lean ====
section
/-! SUPPORT. Sys2Proof/Laws/FrameTick.lean: no operation of Machine/Tick.lean touches the queue, the tie-offs or the start
phase of the block. -/

set_option linter.all false
set_option Elab.async false

namespace Sys2Proof.Machine
open Sys2Proof.Config
set_option linter.unusedSimpArgs false

theorem State.closeCourse_fixed (s : State) (i : TickIn) : (State.closeCourse s i).fixed = s.fixed := by
  unfold State.closeCourse
  repeat' (first
    | with_reducible rfl
    | (simp +zetaHave only [State.fixed_mk, State.fixed_eta, apply_ite State.fixed, apply_ite Prod.fst, ite_self, implies_true,
        State.pulsesLeft_fixed, State.freezesLeft_fixed, State.candTiming_fixed, State.advanceAnchors_fixed,
        State.clocksUpTo_fixed, State.windowWaits_fixed, State.portTiming_fixed]; done)
    | split
    | intro _
    | (dsimp +zetaHave only))

theorem State.senseTemp_fixed (s : State) (i : TickIn) : (State.senseTemp s i).fixed = s.fixed := by
  unfold State.senseTemp
  repeat' (first
    | with_reducible rfl
    | (simp +zetaHave only [State.fixed_mk, State.fixed_eta, apply_ite State.fixed, apply_ite Prod.fst, ite_self, implies_true]; done)
    | split
    | intro _
    | (dsimp +zetaHave only))

theorem State.rclkLevel_fixed (s : State) (p : Nat) (high : Bool) : (State.rclkLevel s p high).fixed = s.fixed := by
  unfold State.rclkLevel
  repeat' (first
    | with_reducible rfl
    | (simp +zetaHave only [State.fixed_mk, State.fixed_eta, apply_ite State.fixed, apply_ite Prod.fst, ite_self, implies_true,
        State.count_fixed, State.modPort_fixed, State.withdrawClock_fixed]; done)
    | split
    | intro _
    | (dsimp +zetaHave only))

theorem State.rclkLevels_fixed (s : State) (high : List Nat) : (State.rclkLevels s high).fixed = s.fixed := by
  unfold State.rclkLevels
  repeat' (first
    | with_reducible rfl
    | (simp +zetaHave only [State.fixed_mk, State.fixed_eta, apply_ite State.fixed, apply_ite Prod.fst, ite_self, implies_true,
        State.each_fixed, State.rclkLevel_fixed]; done)
    | split
    | intro _
    | (dsimp +zetaHave only)
    | refine (State.each_fixed _ _ _ ?_).trans ?_)

theorem State.keepaliveLosses_fixed (s : State) (t : Nat) : (State.keepaliveLosses s t).fixed = s.fixed := by
  unfold State.keepaliveLosses
  repeat' (first
    | with_reducible rfl
    | (simp +zetaHave only [State.fixed_mk, State.fixed_eta, apply_ite State.fixed, apply_ite Prod.fst, ite_self, implies_true,
        State.each_fixed, State.keepaliveLost_fixed]; done)
    | split
    | intro _
    | (dsimp +zetaHave only)
    | refine (State.each_fixed _ _ _ ?_).trans ?_)

theorem State.stepHealth_fixed (s : State) (nc : Nat) (t : Nat) : (State.stepHealth s nc t).fixed = s.fixed := by
  unfold State.stepHealth
  repeat' (first
    | with_reducible rfl
    | (simp +zetaHave only [State.fixed_mk, State.fixed_eta, apply_ite State.fixed, apply_ite Prod.fst, ite_self, implies_true,
        State.healthBoundary_fixed, State.collArrivals_fixed, State.underlayBoundary_fixed, State.underlayExit_fixed,
        State.keepaliveLosses_fixed]; done)
    | split
    | intro _
    | (dsimp +zetaHave only))

theorem State.stepTimeEngine_fixed (s : State) (n : Nat) (nc : Nat) (t : Nat) : (State.stepTimeEngine s n nc t).fixed = s.fixed := by
  unfold State.stepTimeEngine
  repeat' (first
    | with_reducible rfl
    | (simp +zetaHave only [State.fixed_mk, State.fixed_eta, apply_ite State.fixed, apply_ite Prod.fst, ite_self, implies_true,
        State.timeBoundary_fixed, State.esmcBoundary_fixed, State.waitLockBoundary_fixed, State.prioBoundary_fixed,
        State.candBoundary_fixed]; done)
    | split
    | intro _
    | (dsimp +zetaHave only))

theorem State.stepWork_fixed (s : State) (n : Nat) (nc : Nat) (t : Nat) (i : TickIn) : (State.stepWork s n nc t i).fixed = s.fixed := by
  unfold State.stepWork
  repeat' (first
    | with_reducible rfl
    | (simp +zetaHave only [State.fixed_mk, State.fixed_eta, apply_ite State.fixed, apply_ite Prod.fst, ite_self, implies_true,
        State.expireEvents_fixed, State.objBoundary_fixed, State.seqBoundary_fixed, State.powerBoundary_fixed,
        State.collBoundary_fixed, State.resetBoundary_fixed]; done)
    | split
    | intro _
    | (dsimp +zetaHave only))

theorem State.stepCommands_fixed (s : State) (t : Nat) : (State.stepCommands s t).fixed = s.fixed := by
  unfold State.stepCommands
  repeat' (first
    | with_reducible rfl
    | (simp +zetaHave only [State.fixed_mk, State.fixed_eta, apply_ite State.fixed, apply_ite Prod.fst, ite_self, implies_true,
        apply_ite CmdOut.st, CmdOut.status_st, CmdOut.ok_st, CmdOut.done_st, CmdOut.wait_st, State.wdogBoundary_fixed,
        State.irqTimeout_fixed, State.pumpCmds_fixed, State.memTimeouts_fixed, State.heartbeatTimeout_fixed]; done)
    | split
    | intro _
    | (dsimp +zetaHave only))

theorem State.serveHeld_fixed (s : State) (q : HeldReq) : (State.serveHeld s q).fixed = s.fixed := by
  unfold State.serveHeld
  repeat' (first
    | with_reducible rfl
    | (simp +zetaHave only [State.fixed_mk, State.fixed_eta, apply_ite State.fixed, apply_ite Prod.fst, ite_self, implies_true,
        State.tapRequest_fixed, State.touch_fixed, State.hostDo_fixed, State.sbDo_fixed, State.regRead_fixed,
        State.regWrite_fixed, State.hostBad_fixed]; done)
    | split
    | intro _
    | (dsimp +zetaHave only))

theorem State.replayHeld_fixed (s : State) : (State.replayHeld s).fixed = s.fixed := by
  unfold State.replayHeld
  repeat' (first
    | with_reducible rfl
    | (simp +zetaHave only [State.fixed_mk, State.fixed_eta, apply_ite State.fixed, apply_ite Prod.fst, ite_self, implies_true,
        State.foldl_fixed, State.foldl_fst_fixed, State.serveHeld_fixed]; done)
    | split
    | intro _
    | (dsimp +zetaHave only)
    | refine (State.foldl_fixed _ _ _ ?_).trans ?_
    | refine (State.foldl_fst_fixed _ _ _ ?_).trans ?_)

theorem State.tickParts_fixed (s : State) (t : Nat) : (State.tickParts s t).fixed = s.fixed := by
  unfold State.tickParts
  repeat' (first
    | with_reducible rfl
    | (simp +zetaHave only [State.fixed_mk, State.fixed_eta, apply_ite State.fixed, apply_ite Prod.fst, ite_self, implies_true,
        State.each_fixed, State.pulseCalTick_fixed, State.battenBoundary_fixed, State.headMark_fixed,
        State.portBoundary_fixed, State.calibrateFinish_fixed, State.imBoundary_fixed, State.clkoutTick_fixed]; done)
    | split
    | intro _
    | (dsimp +zetaHave only)
    | refine (State.each_fixed _ _ _ ?_).trans ?_)

theorem State.stepEdgeWork_fixed (s : State) (n : Nat) (i : TickIn) : (State.stepEdgeWork s n i).fixed = s.fixed := by
  unfold State.stepEdgeWork
  repeat' (first
    | with_reducible rfl
    | (simp +zetaHave only [State.fixed_mk, State.fixed_eta, apply_ite State.fixed, apply_ite Prod.fst, ite_self, implies_true,
        State.stepHealth_fixed, State.stepTimeEngine_fixed, State.stepWork_fixed, State.stepCommands_fixed]; done)
    | split
    | intro _
    | (dsimp +zetaHave only))

end Sys2Proof.Machine
end

