-- ==== Sys2Proof/Laws/FrameTime.lean ====
section
/-! SUPPORT. Sys2Proof/Laws/FrameTime.lean: the operations that set the course number, and what they leave alone. -/

set_option linter.all false
set_option Elab.async false

namespace Sys2Proof.Machine
open Sys2Proof.Config
set_option linter.unusedSimpArgs false

theorem State.fixed_parts {s t : State} (h : t.fixed = s.fixed) :
    t.pending = s.pending ∧ t.ties = s.ties ∧ t.ck.phase = s.ck.phase ∧ t.clk.course = s.clk.course ∧ t.clk.ticks = s.clk.ticks := by
  simpa only [State.fixed, Prod.mk.injEq] using h

theorem State.base_parts {s t : State} (h : t.base = s.base) :
    t.pending = s.pending ∧ t.ties = s.ties ∧ t.ck.phase = s.ck.phase := by
  simpa only [State.base, Prod.mk.injEq] using h

theorem State.base_mk (ties ck clk td rs regs cnt irq ports root home topo ce od hf pw gang im bt sq ev mm cp did logWr out free pending) :
    (State.mk ties ck clk td rs regs cnt irq ports root home topo ce od hf pw gang im bt sq ev mm cp did logWr out free pending).base =
      (pending, ties, ck.phase) := (rfl)

theorem State.base_eta (s : State) : (s.pending, s.ties, s.ck.phase) = s.base := (rfl)

theorem State.each_base (s : State) (l : List Nat) (f : State → Nat → State) (h : ∀ s n, (f s n).fixed = s.fixed) :
    (s.each l f).base = s.base := State.base_eq (State.each_fixed s l f h)

theorem State.openCourse_base (s : State) : s.openCourse.base = s.base := rfl

theorem State.count_base (s : State) (off : Nat) (k : Nat) : (State.count s off k).base = s.base := State.base_eq (State.count_fixed s off k)
theorem State.raise_base (s : State) (k : Nat) : (State.raise s k).base = s.base := State.base_eq (State.raise_fixed s k)
theorem State.setPort_base (s : State) (p : Nat) (v : Port) : (State.setPort s p v).base = s.base := State.base_eq (State.setPort_fixed s p v)
theorem State.setServo_base (s : State) (d : Dom) (v : Servo) : (State.setServo s d v).base = s.base := State.base_eq (State.setServo_fixed s d v)
theorem State.drawFree_base (s : State) : (State.drawFree s).1.base = s.base := State.base_eq (State.drawFree_fixed s)
theorem State.modServo_base (s : State) (d : Dom) (f : Servo → Servo) : (State.modServo s d f).base = s.base := State.base_eq (State.modServo_fixed s d f)
theorem State.modPort_base (s : State) (p : Nat) (f : Port → Port) : (State.modPort s p f).base = s.base := State.base_eq (State.modPort_fixed s p f)
theorem State.growSlept_base (s : State) (d : Dom) (from_ : Nat) (c : Nat) : (State.growSlept s d from_ c).base = s.base := State.base_eq (State.growSlept_fixed s d from_ c)
theorem State.pulsesCatchUp_base (s : State) : (State.pulsesCatchUp s).base = s.base := State.base_eq (State.pulsesCatchUp_fixed s)
theorem State.stepShot_base (s : State) : (State.stepShot s).base = s.base := State.base_eq (State.stepShot_fixed s)
theorem State.seqTimeStep_base (s : State) : (State.seqTimeStep s).base = s.base := State.base_eq (State.seqTimeStep_fixed s)
theorem State.pulsesLeft_base (s : State) : (State.pulsesLeft s).base = s.base := State.base_eq (State.pulsesLeft_fixed s)
theorem State.freezesLeft_base (s : State) : (State.freezesLeft s).base = s.base := State.base_eq (State.freezesLeft_fixed s)
theorem State.candBoundary_base (s : State) (t : Nat) : (State.candBoundary s t).base = s.base := State.base_eq (State.candBoundary_fixed s t)
theorem State.stepHealth_base (s : State) (nc : Nat) (t : Nat) : (State.stepHealth s nc t).base = s.base := State.base_eq (State.stepHealth_fixed s nc t)
theorem State.stepTimeEngine_base (s : State) (n : Nat) (nc : Nat) (t : Nat) : (State.stepTimeEngine s n nc t).base = s.base := State.base_eq (State.stepTimeEngine_fixed s n nc t)
theorem State.stepWork_base (s : State) (n : Nat) (nc : Nat) (t : Nat) (i : TickIn) : (State.stepWork s n nc t i).base = s.base := State.base_eq (State.stepWork_fixed s n nc t i)
theorem State.stepCommands_base (s : State) (t : Nat) : (State.stepCommands s t).base = s.base := State.base_eq (State.stepCommands_fixed s t)
theorem State.evt_base (s : State) (line : Nat) (k : Nat) : (State.evt s line k).base = s.base := State.base_eq (State.evt_fixed s line k)
theorem State.advancePhase_base (s : State) : (State.advancePhase s).base = s.base := State.base_eq (State.advancePhase_fixed s)
theorem State.napPlanned_base (s : State) (nc : Nat) : (State.napPlanned s nc).base = s.base := State.base_eq (State.napPlanned_fixed s nc)
theorem State.awaken_base (s : State) : (State.awaken s).base = s.base := State.base_eq (State.awaken_fixed s)
theorem State.ovenTick_base (s : State) (level : Bool) : (State.ovenTick s level).base = s.base := State.base_eq (State.ovenTick_fixed s level)
theorem State.gangLeave_base (s : State) (nc : Nat) : (State.gangLeave s nc).base = s.base := State.base_eq (State.gangLeave_fixed s nc)
theorem State.gangKeepalive_base (s : State) (ka : Bool) : (State.gangKeepalive s ka).base = s.base := State.base_eq (State.gangKeepalive_fixed s ka)
theorem State.closeCourse_base (s : State) (i : TickIn) : (State.closeCourse s i).base = s.base := State.base_eq (State.closeCourse_fixed s i)
theorem State.senseTemp_base (s : State) (i : TickIn) : (State.senseTemp s i).base = s.base := State.base_eq (State.senseTemp_fixed s i)
theorem State.rclkLevels_base (s : State) (high : List Nat) : (State.rclkLevels s high).base = s.base := State.base_eq (State.rclkLevels_fixed s high)
theorem State.replayHeld_base (s : State) : (State.replayHeld s).base = s.base := State.base_eq (State.replayHeld_fixed s)
theorem State.tickParts_base (s : State) (t : Nat) : (State.tickParts s t).base = s.base := State.base_eq (State.tickParts_fixed s t)

theorem State.gangTime_base (s : State) (l : Option LeadTime) : (State.gangTime s l).base = s.base := State.base_eq (State.gangTime_fixed s l)
theorem State.gangBeat_base (s : State) : (State.gangBeat s).base = s.base := State.base_eq (State.gangBeat_fixed s)
theorem State.gangCalOver_base (s : State) : (State.gangCalOver s).base = s.base := State.base_eq (State.gangCalOver_fixed s)
theorem State.takeClocks_base (s : State) (l : List PortEdge) : (State.takeClocks s l).base = s.base := State.base_eq (State.takeClocks_fixed s l)
theorem State.skipFill_base (s : State) : (State.skipFill s).base = s.base := State.base_eq (State.skipFill_fixed s)
theorem State.gangTake_base (s : State) (l : LeadTime) : (State.gangTake s l).base = s.base := State.base_eq (State.gangTake_fixed s l)
theorem State.stepEdgeWork_base (s : State) (n : Nat) (i : TickIn) : (State.stepEdgeWork s n i).base = s.base := State.base_eq (State.stepEdgeWork_fixed s n i)

theorem State.stepTime_base (s : State) (d : Dom) (th : Int) : (State.stepTime s d th).base = s.base := by
  unfold State.stepTime
  repeat' (first
    | with_reducible rfl
    | (simp +zetaHave only [State.base_mk, State.base_eta, apply_ite State.base, apply_ite Prod.fst, ite_self, implies_true, State.count_base, State.raise_base, State.setPort_base, State.setServo_base, State.each_base, State.setPort_fixed, State.count_fixed, State.modPort_fixed]; done)
    | split
    | (dsimp +zetaHave only))

theorem State.noRebuild_base (s : State) : (State.noRebuild s).base = s.base := by
  unfold State.noRebuild
  repeat' (first
    | with_reducible rfl
    | (simp +zetaHave only [State.base_mk, State.base_eta, apply_ite State.base, apply_ite Prod.fst, ite_self, implies_true, State.count_base, State.drawFree_base, State.modServo_base]; done)
    | split
    | (dsimp +zetaHave only))

theorem State.loadTime_base (s : State) (u : Int) : (State.loadTime s u).base = s.base := by
  unfold State.loadTime
  repeat' (first
    | with_reducible rfl
    | (simp +zetaHave only [State.base_mk, State.base_eta, apply_ite State.base, apply_ite Prod.fst, ite_self, implies_true, State.modServo_base, State.modPort_base, State.growSlept_base, State.skipFill_base, State.pulsesCatchUp_base, State.each_base, State.setPort_fixed, State.count_fixed, State.modPort_fixed]; done)
    | split
    | (dsimp +zetaHave only))

theorem State.timeRebuild_base (s : State) (k cw : Nat) (temp : Int) (tempOk : Bool) : (State.timeRebuild s k cw temp tempOk).base = s.base := by
  unfold State.timeRebuild
  repeat' (first
    | with_reducible rfl
    | (simp +zetaHave only [State.base_mk, State.base_eta, apply_ite State.base, apply_ite Prod.fst, ite_self, implies_true, State.modServo_base, State.noRebuild_base, State.loadTime_base]; done)
    | split
    | (dsimp +zetaHave only))

theorem State.stepBy_base (s : State) (d : Dom) (th : Int) : (State.stepBy s d th).base = s.base := by
  unfold State.stepBy
  repeat' (first
    | with_reducible rfl
    | (simp +zetaHave only [State.base_mk, State.base_eta, apply_ite State.base, apply_ite Prod.fst, ite_self, implies_true, State.pulsesCatchUp_base, State.seqTimeStep_base, State.stepShot_base, State.stepTime_base, State.freezesLeft_base, State.pulsesLeft_base]; done)
    | split
    | (dsimp +zetaHave only))

theorem State.acquisitionStep_base (s : State) (osc : Edge) : (State.acquisitionStep s osc).base = s.base := by
  unfold State.acquisitionStep
  repeat' (first
    | with_reducible rfl
    | (simp +zetaHave only [State.base_mk, State.base_eta, apply_ite State.base, apply_ite Prod.fst, ite_self, implies_true, State.stepBy_base, State.stepEdgeWork_base]; done)
    | split
    | (dsimp +zetaHave only))

theorem State.gangStep_base (s : State) (l : LeadTime) (i : TickIn) : (State.gangStep s l i).base = s.base := by
  unfold State.gangStep
  repeat' (first
    | with_reducible rfl
    | (simp +zetaHave only [State.base_mk, State.base_eta, apply_ite State.base, apply_ite Prod.fst, ite_self, implies_true, State.stepBy_base, State.stepEdgeWork_base, State.gangTake_base]; done)
    | split
    | (dsimp +zetaHave only))

theorem State.courseTick_base (s : State) (i : TickIn) : (State.courseTick s i).base = s.base := by
  unfold State.courseTick
  repeat' (first
    | with_reducible rfl
    | (simp +zetaHave only [State.base_mk, State.base_eta, apply_ite State.base, apply_ite Prod.fst, ite_self, implies_true, State.stepHealth_base, State.stepTimeEngine_base, State.stepWork_base, State.stepCommands_base, State.evt_base, State.advancePhase_base, State.napPlanned_base, State.awaken_base, State.ovenTick_base, State.gangLeave_base, State.gangKeepalive_base, State.closeCourse_base, State.senseTemp_base, State.rclkLevels_base, State.takeClocks_base, State.replayHeld_base, State.tickParts_base, State.openCourse_base, State.gangBeat_base, State.gangCalOver_base, State.gangTime_base]; done)
    | split
    | (dsimp +zetaHave only))

theorem State.endCourse_base (s : State) (i : TickIn) : (State.endCourse s i).base = s.base := by
  unfold State.endCourse
  repeat' (first
    | with_reducible rfl
    | (simp +zetaHave only [State.base_mk, State.base_eta, apply_ite State.base, apply_ite Prod.fst, ite_self, implies_true, State.courseTick_base, State.gangStep_base]; done)
    | split
    | (dsimp +zetaHave only))

end Sys2Proof.Machine
end

