-- ==== Sys2Proof/Laws/FrameExec.lean ====
section
/-! SUPPORT. Sys2Proof/Laws/FrameExec.lean: every meaning answers a next state, and what it leaves alone there. -/

set_option linter.all false
set_option Elab.async false

namespace Sys2Proof.Machine
open Sys2Proof.Config
set_option linter.unusedSimpArgs false

theorem execReceiveMark_fixed (p : Nat) (id : Nat) (e : Edge) (adj : Nat) (s : State) : ∃ t, execReceiveMark p id e adj s = .next t ∧ t.fixed = s.fixed := by
  refine ⟨_, rfl, ?_⟩
  repeat' (first
    | with_reducible rfl
    | (simp +zetaHave only [State.fixed_mk, State.fixed_eta, apply_ite State.fixed, apply_ite Prod.fst, ite_self, implies_true,
        apply_ite Rx.s, Rx.drop_s, State.receiveMark_fixed, State.tapRun_fixed, State.tapRequest_fixed]; done)
    | split
    | intro _
    | (dsimp +zetaHave only))

theorem execTransmitMark_fixed (p : Nat) (e : Edge) (adj : Nat) (s : State) : ∃ t, execTransmitMark p e adj s = .next t ∧ t.fixed = s.fixed := by
  refine ⟨_, rfl, ?_⟩
  repeat' (first
    | with_reducible rfl
    | (simp +zetaHave only [State.fixed_mk, State.fixed_eta, apply_ite State.fixed, apply_ite Prod.fst, ite_self, implies_true,
        apply_ite Rx.s, Rx.drop_s, State.transmitMark_fixed, State.tapRun_fixed, State.tapRequest_fixed]; done)
    | split
    | intro _
    | (dsimp +zetaHave only))

theorem execTxInsLate_fixed (p : Nat) (s : State) : ∃ t, execTxInsLate p s = .next t ∧ t.fixed = s.fixed := by
  refine ⟨_, rfl, ?_⟩
  repeat' (first
    | with_reducible rfl
    | (simp +zetaHave only [State.fixed_mk, State.fixed_eta, apply_ite State.fixed, apply_ite Prod.fst, ite_self, implies_true,
        apply_ite Rx.s, Rx.drop_s, State.txInsLate_fixed, State.tapRun_fixed, State.tapRequest_fixed]; done)
    | split
    | intro _
    | (dsimp +zetaHave only))

theorem execPortUpRise_fixed (p : Nat) (s : State) : ∃ t, execPortUpRise p s = .next t ∧ t.fixed = s.fixed := by
  refine ⟨_, rfl, ?_⟩
  repeat' (first
    | with_reducible rfl
    | (simp +zetaHave only [State.fixed_mk, State.fixed_eta, apply_ite State.fixed, apply_ite Prod.fst, ite_self, implies_true,
        apply_ite Rx.s, Rx.drop_s, State.modPort_fixed, State.sendHello_fixed, State.comeUp_fixed, State.tapRun_fixed,
        State.tapRequest_fixed]; done)
    | split
    | intro _
    | (dsimp +zetaHave only))

theorem execPortUpFall_fixed (p : Nat) (s : State) : ∃ t, execPortUpFall p s = .next t ∧ t.fixed = s.fixed := by
  refine ⟨_, rfl, ?_⟩
  repeat' (first
    | with_reducible rfl
    | (simp +zetaHave only [State.fixed_mk, State.fixed_eta, apply_ite State.fixed, apply_ite Prod.fst, ite_self, implies_true,
        apply_ite Rx.s, Rx.drop_s, State.modPort_fixed, State.scoreFlap_fixed, State.flushPort_fixed,
        State.dropExch_fixed, State.withdrawClock_fixed, State.tapRun_fixed, State.tapRequest_fixed]; done)
    | split
    | intro _
    | (dsimp +zetaHave only))

theorem execLaneFlap_fixed (p : Nat) (s : State) : ∃ t, execLaneFlap p s = .next t ∧ t.fixed = s.fixed := by
  refine ⟨_, rfl, ?_⟩
  repeat' (first
    | with_reducible rfl
    | (simp +zetaHave only [State.fixed_mk, State.fixed_eta, apply_ite State.fixed, apply_ite Prod.fst, ite_self, implies_true,
        apply_ite Rx.s, Rx.drop_s, State.count_fixed, State.scoreFlap_fixed, State.tapRun_fixed,
        State.tapRequest_fixed]; done)
    | split
    | intro _
    | (dsimp +zetaHave only))

theorem execRclkOkFall_fixed (p : Nat) (s : State) : ∃ t, execRclkOkFall p s = .next t ∧ t.fixed = s.fixed := by
  refine ⟨_, rfl, ?_⟩
  repeat' (first
    | with_reducible rfl
    | (simp +zetaHave only [State.fixed_mk, State.fixed_eta, apply_ite State.fixed, apply_ite Prod.fst, ite_self, implies_true,
        apply_ite Rx.s, Rx.drop_s, State.count_fixed, State.modPort_fixed, State.withdrawClock_fixed,
        State.tapRun_fixed, State.tapRequest_fixed]; done)
    | split
    | intro _
    | (dsimp +zetaHave only))

theorem execAckReceive_fixed (h : RxHead) (s : State) : ∃ t, execAckReceive h s = .next t ∧ t.fixed = s.fixed := by
  refine ⟨_, rfl, ?_⟩
  repeat' (first
    | with_reducible rfl
    | (simp +zetaHave only [State.fixed_mk, State.fixed_eta, apply_ite State.fixed, apply_ite Prod.fst, ite_self, implies_true,
        apply_ite Rx.s, Rx.drop_s, State.rxZudar_fixed, State.tapRun_fixed, State.tapRequest_fixed]; done)
    | split
    | intro _
    | (dsimp +zetaHave only))

theorem execNakReceive_fixed (h : RxHead) (s : State) : ∃ t, execNakReceive h s = .next t ∧ t.fixed = s.fixed := by
  refine ⟨_, rfl, ?_⟩
  repeat' (first
    | with_reducible rfl
    | (simp +zetaHave only [State.fixed_mk, State.fixed_eta, apply_ite State.fixed, apply_ite Prod.fst, ite_self, implies_true,
        apply_ite Rx.s, Rx.drop_s, State.takeNak_fixed, State.rxZudar_fixed, State.tapRun_fixed,
        State.tapRequest_fixed, CmdOut.ok_fixed]; done)
    | split
    | intro _
    | (dsimp +zetaHave only))

theorem execAckSend_fixed (p : Nat) (s : State) : ∃ t, execAckSend p s = .next t ∧ t.fixed = s.fixed := by
  refine ⟨_, rfl, ?_⟩
  repeat' (first
    | with_reducible rfl
    | (simp +zetaHave only [State.fixed_mk, State.fixed_eta, apply_ite State.fixed, apply_ite Prod.fst, ite_self, implies_true,
        apply_ite Rx.s, Rx.drop_s, State.sendAck_fixed, State.tapRun_fixed, State.tapRequest_fixed]; done)
    | split
    | intro _
    | (dsimp +zetaHave only))

theorem execReplayTimeout_fixed (p : Nat) (s : State) : ∃ t, execReplayTimeout p s = .next t ∧ t.fixed = s.fixed := by
  refine ⟨_, rfl, ?_⟩
  repeat' (first
    | with_reducible rfl
    | (simp +zetaHave only [State.fixed_mk, State.fixed_eta, apply_ite State.fixed, apply_ite Prod.fst, ite_self, implies_true,
        apply_ite Rx.s, Rx.drop_s, State.replayTimeout_fixed, State.tapRun_fixed, State.tapRequest_fixed]; done)
    | split
    | intro _
    | (dsimp +zetaHave only))

theorem execRxfFcsErr_fixed (h : RxBase) (bad : RxBad) (s : State) : ∃ t, execRxfFcsErr h bad s = .next t ∧ t.fixed = s.fixed := by
  refine ⟨_, rfl, ?_⟩
  repeat' (first
    | with_reducible rfl
    | (simp +zetaHave only [State.fixed_mk, State.fixed_eta, apply_ite State.fixed, apply_ite Prod.fst, ite_self, implies_true,
        apply_ite Rx.s, Rx.drop_s, State.atCyc_fixed, State.claimMark_fixed, State.rxCorrupt_fixed, State.tapRun_fixed,
        State.tapRequest_fixed, State.rxSpoilt_fixed]; done)
    | split
    | intro _
    | (dsimp +zetaHave only))

theorem execPtpOtherReceive_fixed (h : PtpHead) (typ : Nat) (s : State) : ∃ t, execPtpOtherReceive h typ s = .next t ∧ t.fixed = s.fixed := by
  refine ⟨_, rfl, ?_⟩
  repeat' (first
    | with_reducible rfl
    | (simp +zetaHave only [State.fixed_mk, State.fixed_eta, apply_ite State.fixed, apply_ite Prod.fst, ite_self, implies_true,
        apply_ite Rx.s, Rx.drop_s, State.count_fixed, State.rxBegin_fixed, State.tapRun_fixed, State.tapRequest_fixed,
        CmdOut.ok_fixed]; done)
    | split
    | intro _
    | (dsimp +zetaHave only))

theorem execZudarReservedType_fixed (h : RxHead) (typ : Nat) (s : State) : ∃ t, execZudarReservedType h typ s = .next t ∧ t.fixed = s.fixed := by
  refine ⟨_, rfl, ?_⟩
  repeat' (first
    | with_reducible rfl
    | (simp +zetaHave only [State.fixed_mk, State.fixed_eta, apply_ite State.fixed, apply_ite Prod.fst, ite_self, implies_true,
        apply_ite Rx.s, Rx.drop_s, State.count_fixed, State.rxZudar_fixed, State.tapRun_fixed, State.tapRequest_fixed,
        CmdOut.ok_fixed]; done)
    | split
    | intro _
    | (dsimp +zetaHave only))

theorem execEgressHandover_fixed (p : Nat) (cyc : Nat) (s : State) : ∃ t, execEgressHandover p cyc s = .next t ∧ t.fixed = s.fixed := by
  refine ⟨_, rfl, ?_⟩
  repeat' (first
    | with_reducible rfl
    | (simp +zetaHave only [State.fixed_mk, State.fixed_eta, apply_ite State.fixed, apply_ite Prod.fst, ite_self, implies_true,
        apply_ite Rx.s, Rx.drop_s, State.atCyc_fixed, State.handover_fixed, State.tapRun_fixed, State.tapRequest_fixed]; done)
    | split
    | intro _
    | (dsimp +zetaHave only))

theorem execBattenCalDone_fixed (rs : List CalResult) (s : State) : ∃ t, execBattenCalDone rs s = .next t ∧ t.fixed = s.fixed := by
  refine ⟨_, rfl, ?_⟩
  repeat' (first
    | with_reducible rfl
    | (simp +zetaHave only [State.fixed_mk, State.fixed_eta, apply_ite State.fixed, apply_ite Prod.fst, ite_self, implies_true,
        apply_ite Rx.s, Rx.drop_s, State.tapRun_fixed, State.calDone_fixed, State.tapRequest_fixed]; done)
    | split
    | intro _
    | (dsimp +zetaHave only))

theorem execCrossingRecalibration_fixed (r : CalResult) (s : State) : ∃ t, execCrossingRecalibration r s = .next t ∧ t.fixed = s.fixed := by
  refine ⟨_, rfl, ?_⟩
  repeat' (first
    | with_reducible rfl
    | (simp +zetaHave only [State.fixed_mk, State.fixed_eta, apply_ite State.fixed, apply_ite Prod.fst, ite_self, implies_true,
        apply_ite Rx.s, Rx.drop_s, State.tapRun_fixed, State.recalOne_fixed, State.tapRequest_fixed]; done)
    | split
    | intro _
    | (dsimp +zetaHave only))

theorem execMark_fixed (n : Nat) (edges : Nat) (r : Nat) (s : State) : ∃ t, execMark n edges r s = .next t ∧ t.fixed = s.fixed := by
  refine ⟨_, rfl, ?_⟩
  repeat' (first
    | with_reducible rfl
    | (simp +zetaHave only [State.fixed_mk, State.fixed_eta, apply_ite State.fixed, apply_ite Prod.fst, ite_self, implies_true,
        apply_ite Rx.s, Rx.drop_s, State.tapRun_fixed, State.takeMark_fixed, State.tapRequest_fixed,
        State.markIn_fixed]; done)
    | split
    | intro _
    | (dsimp +zetaHave only))

theorem execMarkStep_fixed (n : Nat) (edges : Nat) (r : Nat) (s : State) : ∃ t, execMarkStep n edges r s = .next t ∧ t.fixed = s.fixed := by
  refine ⟨_, rfl, ?_⟩
  repeat' (first
    | with_reducible rfl
    | (simp +zetaHave only [State.fixed_mk, State.fixed_eta, apply_ite State.fixed, apply_ite Prod.fst, ite_self, implies_true,
        apply_ite Rx.s, Rx.drop_s, State.tapRun_fixed, State.takeMark_fixed, State.tapRequest_fixed,
        State.markIn_fixed]; done)
    | split
    | intro _
    | (dsimp +zetaHave only))

theorem execStretchIndication_fixed (n : Nat) (edges : Nat) (s : State) : ∃ t, execStretchIndication n edges s = .next t ∧ t.fixed = s.fixed := by
  refine ⟨_, rfl, ?_⟩
  repeat' (first
    | with_reducible rfl
    | (simp +zetaHave only [State.fixed_mk, State.fixed_eta, apply_ite State.fixed, apply_ite Prod.fst, ite_self, implies_true,
        apply_ite Rx.s, Rx.drop_s, State.tapEdge_fixed, State.tapRun_fixed, State.tapRequest_fixed]; done)
    | split
    | intro _
    | (dsimp +zetaHave only))

theorem execFillWord_fixed (n : Nat) (edges : Nat) (s : State) : ∃ t, execFillWord n edges s = .next t ∧ t.fixed = s.fixed := by
  refine ⟨_, rfl, ?_⟩
  repeat' (first
    | with_reducible rfl
    | (simp +zetaHave only [State.fixed_mk, State.fixed_eta, apply_ite State.fixed, apply_ite Prod.fst, ite_self, implies_true,
        apply_ite Rx.s, Rx.drop_s, State.tapRun_fixed, State.wordIn_fixed, State.tapRequest_fixed,
        State.takeWord_fixed, State.ahead_fixed]; done)
    | split
    | intro _
    | (dsimp +zetaHave only))

theorem execMarginWarning_fixed (n : Nat) (mismatches : Nat) (s : State) : ∃ t, execMarginWarning n mismatches s = .next t ∧ t.fixed = s.fixed := by
  refine ⟨_, rfl, ?_⟩
  repeat' (first
    | with_reducible rfl
    | (simp +zetaHave only [State.fixed_mk, State.fixed_eta, apply_ite State.fixed, apply_ite Prod.fst, ite_self, implies_true,
        apply_ite Rx.s, Rx.drop_s, State.count_fixed, State.raise_fixed, State.setTap_fixed, State.modTap_fixed,
        State.flagCrossing_fixed, State.tapRun_fixed, State.tapRequest_fixed]; done)
    | split
    | intro _
    | (dsimp +zetaHave only))

theorem execArmWord_fixed (n : Nat) (edges : Nat) (s : State) : ∃ t, execArmWord n edges s = .next t ∧ t.fixed = s.fixed := by
  refine ⟨_, rfl, ?_⟩
  repeat' (first
    | with_reducible rfl
    | (simp +zetaHave only [State.fixed_mk, State.fixed_eta, apply_ite State.fixed, apply_ite Prod.fst, ite_self, implies_true,
        apply_ite Rx.s, Rx.drop_s, State.tapRun_fixed, State.wordIn_fixed, State.takeArm_fixed, State.tapRequest_fixed,
        State.bringDown_fixed]; done)
    | split
    | intro _
    | (dsimp +zetaHave only))

theorem execCancelWord_fixed (n : Nat) (edges : Nat) (s : State) : ∃ t, execCancelWord n edges s = .next t ∧ t.fixed = s.fixed := by
  refine ⟨_, rfl, ?_⟩
  repeat' (first
    | with_reducible rfl
    | (simp +zetaHave only [State.fixed_mk, State.fixed_eta, apply_ite State.fixed, apply_ite Prod.fst, ite_self, implies_true,
        apply_ite Rx.s, Rx.drop_s, State.tapRun_fixed, State.wordIn_fixed, State.takeCancel_fixed,
        State.tapRequest_fixed, State.bringDown_fixed]; done)
    | split
    | intro _
    | (dsimp +zetaHave only))

theorem execNswReqRise_fixed (n : Nat) (edges : Nat) (s : State) : ∃ t, execNswReqRise n edges s = .next t ∧ t.fixed = s.fixed := by
  refine ⟨_, rfl, ?_⟩
  repeat' (first
    | with_reducible rfl
    | (simp +zetaHave only [State.fixed_mk, State.fixed_eta, apply_ite State.fixed, apply_ite Prod.fst, ite_self, implies_true,
        apply_ite Rx.s, Rx.drop_s, State.tapRun_fixed, State.tapUntil_fixed, State.tapRequest_fixed]; done)
    | split
    | intro _
    | (dsimp +zetaHave only))

theorem execLaunchFire_fixed (n : Nat) (edges : Nat) (s : State) : ∃ t, execLaunchFire n edges s = .next t ∧ t.fixed = s.fixed := by
  refine ⟨_, rfl, ?_⟩
  repeat' (first
    | with_reducible rfl
    | (simp +zetaHave only [State.fixed_mk, State.fixed_eta, apply_ite State.fixed, apply_ite Prod.fst, ite_self, implies_true,
        apply_ite Rx.s, Rx.drop_s, State.tapRun_fixed, State.tapUntil_fixed, State.tapRequest_fixed]; done)
    | split
    | intro _
    | (dsimp +zetaHave only))

theorem execLaunchLineFall_fixed (n : Nat) (edges : Nat) (s : State) : ∃ t, execLaunchLineFall n edges s = .next t ∧ t.fixed = s.fixed := by
  refine ⟨_, rfl, ?_⟩
  repeat' (first
    | with_reducible rfl
    | (simp +zetaHave only [State.fixed_mk, State.fixed_eta, apply_ite State.fixed, apply_ite Prod.fst, ite_self, implies_true,
        apply_ite Rx.s, Rx.drop_s, State.tapRun_fixed, State.tapUntil_fixed, State.tapRequest_fixed]; done)
    | split
    | intro _
    | (dsimp +zetaHave only))

theorem execLaunchReport_fixed (n : Nat) (edges : Nat) (s : State) : ∃ t, execLaunchReport n edges s = .next t ∧ t.fixed = s.fixed := by
  refine ⟨_, rfl, ?_⟩
  repeat' (first
    | with_reducible rfl
    | (simp +zetaHave only [State.fixed_mk, State.fixed_eta, apply_ite State.fixed, apply_ite Prod.fst, ite_self, implies_true,
        apply_ite Rx.s, Rx.drop_s, State.tapRun_fixed, State.tapUntil_fixed, State.tapRequest_fixed]; done)
    | split
    | intro _
    | (dsimp +zetaHave only))

theorem execReleaseWord_fixed (s : State) : ∃ t, execReleaseWord s = .next t ∧ t.fixed = s.fixed := by
  refine ⟨_, rfl, ?_⟩
  repeat' (first
    | with_reducible rfl
    | (simp +zetaHave only [State.fixed_mk, State.fixed_eta, apply_ite State.fixed, apply_ite Prod.fst, ite_self, implies_true,
        State.each_fixed, apply_ite Rx.s, Rx.drop_s, State.emit_fixed, State.tapRun_fixed, State.tapRequest_fixed,
        State.bring_fixed]; done)
    | split
    | intro _
    | (dsimp +zetaHave only)
    | refine (State.each_fixed _ _ _ ?_).trans ?_)

theorem execCrossingWordBad_fixed (n : Nat) (edges : Nat) (k : LostWord) (s : State) : ∃ t, execCrossingWordBad n edges k s = .next t ∧ t.fixed = s.fixed := by
  refine ⟨_, rfl, ?_⟩
  repeat' (first
    | with_reducible rfl
    | (simp +zetaHave only [State.fixed_mk, State.fixed_eta, apply_ite State.fixed, apply_ite Prod.fst, ite_self, implies_true,
        apply_ite Rx.s, Rx.drop_s, State.count_fixed, State.contained_fixed, State.tapRun_fixed, State.dropWord_fixed,
        State.tapRequest_fixed]; done)
    | split
    | intro _
    | (dsimp +zetaHave only))

theorem execPeek_fixed (r : EngReq) (s : State) : ∃ t, execPeek r s = .next t ∧ t.fixed = s.fixed := by
  refine ⟨_, rfl, ?_⟩
  repeat' (first
    | with_reducible rfl
    | (simp +zetaHave only [State.fixed_mk, State.fixed_eta, apply_ite State.fixed, apply_ite Prod.fst, ite_self, implies_true,
        apply_ite Rx.s, Rx.drop_s, State.tapRun_fixed, State.tapRequest_fixed]; done)
    | split
    | intro _
    | (dsimp +zetaHave only))

theorem execRead_fixed (r : EngReq) (s : State) : ∃ t, execRead r s = .next t ∧ t.fixed = s.fixed := by
  refine ⟨_, rfl, ?_⟩
  repeat' (first
    | with_reducible rfl
    | (simp +zetaHave only [State.fixed_mk, State.fixed_eta, apply_ite State.fixed, apply_ite Prod.fst, ite_self, implies_true,
        apply_ite Rx.s, Rx.drop_s, State.tapRun_fixed, State.tapRequest_fixed]; done)
    | split
    | intro _
    | (dsimp +zetaHave only))

theorem execFill_fixed (r : EngReq) (s : State) : ∃ t, execFill r s = .next t ∧ t.fixed = s.fixed := by
  refine ⟨_, rfl, ?_⟩
  repeat' (first
    | with_reducible rfl
    | (simp +zetaHave only [State.fixed_mk, State.fixed_eta, apply_ite State.fixed, apply_ite Prod.fst, ite_self, implies_true,
        apply_ite Rx.s, Rx.drop_s, State.tapRun_fixed, State.tapRequest_fixed]; done)
    | split
    | intro _
    | (dsimp +zetaHave only))

theorem execSignal_fixed (r : EngReq) (s : State) : ∃ t, execSignal r s = .next t ∧ t.fixed = s.fixed := by
  refine ⟨_, rfl, ?_⟩
  repeat' (first
    | with_reducible rfl
    | (simp +zetaHave only [State.fixed_mk, State.fixed_eta, apply_ite State.fixed, apply_ite Prod.fst, ite_self, implies_true,
        apply_ite Rx.s, Rx.drop_s, State.tapRun_fixed, State.tapRequest_fixed]; done)
    | split
    | intro _
    | (dsimp +zetaHave only))

theorem execWaitge_fixed (r : EngReq) (s : State) : ∃ t, execWaitge r s = .next t ∧ t.fixed = s.fixed := by
  refine ⟨_, rfl, ?_⟩
  repeat' (first
    | with_reducible rfl
    | (simp +zetaHave only [State.fixed_mk, State.fixed_eta, apply_ite State.fixed, apply_ite Prod.fst, ite_self, implies_true,
        apply_ite Rx.s, Rx.drop_s, State.tapRun_fixed, State.tapRequest_fixed]; done)
    | split
    | intro _
    | (dsimp +zetaHave only))

theorem execDec_fixed (r : EngReq) (s : State) : ∃ t, execDec r s = .next t ∧ t.fixed = s.fixed := by
  refine ⟨_, rfl, ?_⟩
  repeat' (first
    | with_reducible rfl
    | (simp +zetaHave only [State.fixed_mk, State.fixed_eta, apply_ite State.fixed, apply_ite Prod.fst, ite_self, implies_true,
        apply_ite Rx.s, Rx.drop_s, State.tapRun_fixed, State.tapRequest_fixed]; done)
    | split
    | intro _
    | (dsimp +zetaHave only))

theorem execWdec_fixed (r : EngReq) (s : State) : ∃ t, execWdec r s = .next t ∧ t.fixed = s.fixed := by
  refine ⟨_, rfl, ?_⟩
  repeat' (first
    | with_reducible rfl
    | (simp +zetaHave only [State.fixed_mk, State.fixed_eta, apply_ite State.fixed, apply_ite Prod.fst, ite_self, implies_true,
        apply_ite Rx.s, Rx.drop_s, State.tapRun_fixed, State.tapRequest_fixed]; done)
    | split
    | intro _
    | (dsimp +zetaHave only))

theorem execRealign_fixed (r : EngReq) (s : State) : ∃ t, execRealign r s = .next t ∧ t.fixed = s.fixed := by
  refine ⟨_, rfl, ?_⟩
  repeat' (first
    | with_reducible rfl
    | (simp +zetaHave only [State.fixed_mk, State.fixed_eta, apply_ite State.fixed, apply_ite Prod.fst, ite_self, implies_true,
        apply_ite Rx.s, Rx.drop_s, State.tapRun_fixed, State.tapRequest_fixed]; done)
    | split
    | intro _
    | (dsimp +zetaHave only))

theorem execArrive_fixed (r : EngReq) (s : State) : ∃ t, execArrive r s = .next t ∧ t.fixed = s.fixed := by
  refine ⟨_, rfl, ?_⟩
  repeat' (first
    | with_reducible rfl
    | (simp +zetaHave only [State.fixed_mk, State.fixed_eta, apply_ite State.fixed, apply_ite Prod.fst, ite_self, implies_true,
        apply_ite Rx.s, Rx.drop_s, State.tapRun_fixed, State.tapRequest_fixed]; done)
    | split
    | intro _
    | (dsimp +zetaHave only))

theorem execSet_fixed (r : EngReq) (s : State) : ∃ t, execSet r s = .next t ∧ t.fixed = s.fixed := by
  refine ⟨_, rfl, ?_⟩
  repeat' (first
    | with_reducible rfl
    | (simp +zetaHave only [State.fixed_mk, State.fixed_eta, apply_ite State.fixed, apply_ite Prod.fst, ite_self, implies_true,
        apply_ite Rx.s, Rx.drop_s, State.tapRun_fixed, State.tapRequest_fixed]; done)
    | split
    | intro _
    | (dsimp +zetaHave only))

theorem execWack_fixed (tap : Nat) (tag : Nat) (s : State) : ∃ t, execWack tap tag s = .next t ∧ t.fixed = s.fixed := by
  refine ⟨_, rfl, ?_⟩
  repeat' (first
    | with_reducible rfl
    | (simp +zetaHave only [State.fixed_mk, State.fixed_eta, apply_ite State.fixed, apply_ite Prod.fst, ite_self, implies_true,
        apply_ite Rx.s, Rx.drop_s, State.tapRun_fixed, State.wack_fixed, State.tapRequest_fixed]; done)
    | split
    | intro _
    | (dsimp +zetaHave only))

theorem execFenceTimeout_fixed (s : State) : ∃ t, execFenceTimeout s = .next t ∧ t.fixed = s.fixed := by
  refine ⟨_, rfl, ?_⟩
  repeat' (first
    | with_reducible rfl
    | (simp +zetaHave only [State.fixed_mk, State.fixed_eta, apply_ite State.fixed, apply_ite Prod.fst, ite_self, implies_true,
        apply_ite Rx.s, Rx.drop_s, State.tapRun_fixed, State.fenceTimeouts_fixed, State.tapRequest_fixed]; done)
    | split
    | intro _
    | (dsimp +zetaHave only))

theorem execObjectDeadline_fixed (s : State) : ∃ t, execObjectDeadline s = .next t ∧ t.fixed = s.fixed := by
  refine ⟨_, rfl, ?_⟩
  repeat' (first
    | with_reducible rfl
    | (simp +zetaHave only [State.fixed_mk, State.fixed_eta, apply_ite State.fixed, apply_ite Prod.fst, ite_self, implies_true,
        apply_ite Rx.s, Rx.drop_s, State.tapRun_fixed, State.objDeadlines_fixed, State.tapRequest_fixed]; done)
    | split
    | intro _
    | (dsimp +zetaHave only))

theorem execRemoteTimeout_fixed (s : State) : ∃ t, execRemoteTimeout s = .next t ∧ t.fixed = s.fixed := by
  refine ⟨_, rfl, ?_⟩
  repeat' (first
    | with_reducible rfl
    | (simp +zetaHave only [State.fixed_mk, State.fixed_eta, apply_ite State.fixed, apply_ite Prod.fst, ite_self, implies_true,
        apply_ite Rx.s, Rx.drop_s, State.tapRun_fixed, State.remoteTimeouts_fixed, State.tapRequest_fixed]; done)
    | split
    | intro _
    | (dsimp +zetaHave only))

theorem execLend_fixed (s : State) : ∃ t, execLend s = .next t ∧ t.fixed = s.fixed := by
  refine ⟨_, rfl, ?_⟩
  repeat' (first
    | with_reducible rfl
    | (simp +zetaHave only [State.fixed_mk, State.fixed_eta, apply_ite State.fixed, apply_ite Prod.fst, ite_self, implies_true,
        apply_ite Rx.s, Rx.drop_s, State.tapRun_fixed, State.lendOut_fixed, State.tapRequest_fixed]; done)
    | split
    | intro _
    | (dsimp +zetaHave only))

theorem execLendReturn_fixed (s : State) : ∃ t, execLendReturn s = .next t ∧ t.fixed = s.fixed := by
  refine ⟨_, rfl, ?_⟩
  repeat' (first
    | with_reducible rfl
    | (simp +zetaHave only [State.fixed_mk, State.fixed_eta, apply_ite State.fixed, apply_ite Prod.fst, ite_self, implies_true,
        apply_ite Rx.s, Rx.drop_s, State.tapRun_fixed, State.lendReturns_fixed, State.tapRequest_fixed]; done)
    | split
    | intro _
    | (dsimp +zetaHave only))

theorem execRetAck_fixed (id : Nat) (s : State) : ∃ t, execRetAck id s = .next t ∧ t.fixed = s.fixed := by
  refine ⟨_, rfl, ?_⟩
  repeat' (first
    | with_reducible rfl
    | (simp +zetaHave only [State.fixed_mk, State.fixed_eta, apply_ite State.fixed, apply_ite Prod.fst, ite_self, implies_true,
        apply_ite Rx.s, Rx.drop_s, State.tapRun_fixed, State.retAck_fixed, State.tapRequest_fixed]; done)
    | split
    | intro _
    | (dsimp +zetaHave only))

theorem execDeadlockDetect_fixed (s : State) : ∃ t, execDeadlockDetect s = .next t ∧ t.fixed = s.fixed := by
  refine ⟨_, rfl, ?_⟩
  repeat' (first
    | with_reducible rfl
    | (simp +zetaHave only [State.fixed_mk, State.fixed_eta, apply_ite State.fixed, apply_ite Prod.fst, ite_self, implies_true,
        apply_ite Rx.s, Rx.drop_s, State.tapRun_fixed, State.deadlock_fixed, State.tapRequest_fixed]; done)
    | split
    | intro _
    | (dsimp +zetaHave only))

theorem execObjReqReceive_fixed (h : RxHead) (m : ObjReqMsg) (s : State) : ∃ t, execObjReqReceive h m s = .next t ∧ t.fixed = s.fixed := by
  refine ⟨_, rfl, ?_⟩
  repeat' (first
    | with_reducible rfl
    | (simp +zetaHave only [State.fixed_mk, State.fixed_eta, apply_ite State.fixed, apply_ite Prod.fst, ite_self, implies_true,
        apply_ite Rx.s, Rx.drop_s, State.count_fixed, State.rxZudar_fixed, State.tapRun_fixed, State.remoteApply_fixed,
        State.tapRequest_fixed, State.objForward_fixed, CmdOut.ok_fixed]; done)
    | split
    | intro _
    | (dsimp +zetaHave only))

theorem execObjRspReceive_fixed (h : RxHead) (m : ObjRspMsg) (s : State) : ∃ t, execObjRspReceive h m s = .next t ∧ t.fixed = s.fixed := by
  refine ⟨_, rfl, ?_⟩
  repeat' (first
    | with_reducible rfl
    | (simp +zetaHave only [State.fixed_mk, State.fixed_eta, apply_ite State.fixed, apply_ite Prod.fst, ite_self, implies_true,
        apply_ite Rx.s, Rx.drop_s, State.count_fixed, State.emit_fixed, State.rxZudar_fixed, State.tapRun_fixed,
        State.modCtx_fixed, State.tapRequest_fixed, State.objForward_fixed, CmdOut.ok_fixed]; done)
    | split
    | intro _
    | (dsimp +zetaHave only))

theorem execKeepaliveLoss_fixed (p : Nat) (s : State) : ∃ t, execKeepaliveLoss p s = .next t ∧ t.fixed = s.fixed := by
  refine ⟨_, rfl, ?_⟩
  repeat' (first
    | with_reducible rfl
    | (simp +zetaHave only [State.fixed_mk, State.fixed_eta, apply_ite State.fixed, apply_ite Prod.fst, ite_self, implies_true,
        apply_ite Rx.s, Rx.drop_s, State.tapRun_fixed, State.tapRequest_fixed, State.keepaliveLost_fixed]; done)
    | split
    | intro _
    | (dsimp +zetaHave only))

theorem execScoreDecay_fixed (s : State) : ∃ t, execScoreDecay s = .next t ∧ t.fixed = s.fixed := by
  refine ⟨_, rfl, ?_⟩
  repeat' (first
    | with_reducible rfl
    | (simp +zetaHave only [State.fixed_mk, State.fixed_eta, apply_ite State.fixed, apply_ite Prod.fst, ite_self, implies_true,
        apply_ite Rx.s, Rx.drop_s, State.tapRun_fixed, State.tapRequest_fixed, State.decay_fixed]; done)
    | split
    | intro _
    | (dsimp +zetaHave only))

theorem execBudgetRecordExpiry_fixed (s : State) : ∃ t, execBudgetRecordExpiry s = .next t ∧ t.fixed = s.fixed := by
  refine ⟨_, rfl, ?_⟩
  repeat' (first
    | with_reducible rfl
    | (simp +zetaHave only [State.fixed_mk, State.fixed_eta, apply_ite State.fixed, apply_ite Prod.fst, ite_self, implies_true,
        apply_ite Rx.s, Rx.drop_s, State.tapRun_fixed, State.tapRequest_fixed, State.expireRecords_fixed]; done)
    | split
    | intro _
    | (dsimp +zetaHave only))

theorem execAdmissionComplete_fixed (p : Nat) (s : State) : ∃ t, execAdmissionComplete p s = .next t ∧ t.fixed = s.fixed := by
  refine ⟨_, rfl, ?_⟩
  repeat' (first
    | with_reducible rfl
    | (simp +zetaHave only [State.fixed_mk, State.fixed_eta, apply_ite State.fixed, apply_ite Prod.fst, ite_self, implies_true,
        apply_ite Rx.s, Rx.drop_s, State.tapRun_fixed, State.tapRequest_fixed, State.admission_fixed]; done)
    | split
    | intro _
    | (dsimp +zetaHave only))

theorem execWatchdogExpiry_fixed (s : State) : ∃ t, execWatchdogExpiry s = .next t ∧ t.fixed = s.fixed := by
  refine ⟨_, rfl, ?_⟩
  repeat' (first
    | with_reducible rfl
    | (simp +zetaHave only [State.fixed_mk, State.fixed_eta, apply_ite State.fixed, apply_ite Prod.fst, ite_self, implies_true,
        apply_ite Rx.s, Rx.drop_s, State.tapRun_fixed, State.tapRequest_fixed, State.wdogExpire_fixed]; done)
    | split
    | intro _
    | (dsimp +zetaHave only))

theorem execCandidateQualifyTimer_fixed (n : Nat) (s : State) : ∃ t, execCandidateQualifyTimer n s = .next t ∧ t.fixed = s.fixed := by
  refine ⟨_, rfl, ?_⟩
  repeat' (first
    | with_reducible rfl
    | (simp +zetaHave only [State.fixed_mk, State.fixed_eta, apply_ite State.fixed, apply_ite Prod.fst, ite_self, implies_true,
        apply_ite Rx.s, Rx.drop_s, State.tapRun_fixed, State.tapRequest_fixed, State.candTimer_fixed]; done)
    | split
    | intro _
    | (dsimp +zetaHave only))

theorem execWtrExpiry_fixed (d : Dom) (s : State) : ∃ t, execWtrExpiry d s = .next t ∧ t.fixed = s.fixed := by
  refine ⟨_, rfl, ?_⟩
  repeat' (first
    | with_reducible rfl
    | (simp +zetaHave only [State.fixed_mk, State.fixed_eta, apply_ite State.fixed, apply_ite Prod.fst, ite_self, implies_true,
        apply_ite Rx.s, Rx.drop_s, State.tapRun_fixed, State.tapRequest_fixed, State.wtrExpiry_fixed]; done)
    | split
    | intro _
    | (dsimp +zetaHave only))

theorem execPpsEdge_fixed (n : Nat) (e : Edge) (before : Nat) (s : State) : ∃ t, execPpsEdge n e before s = .next t ∧ t.fixed = s.fixed := by
  refine ⟨_, rfl, ?_⟩
  repeat' (first
    | with_reducible rfl
    | (simp +zetaHave only [State.fixed_mk, State.fixed_eta, apply_ite State.fixed, apply_ite Prod.fst, ite_self, implies_true,
        apply_ite Rx.s, Rx.drop_s, State.tapRun_fixed, State.tapRequest_fixed, State.ppsEdge_fixed]; done)
    | split
    | intro _
    | (dsimp +zetaHave only))

theorem execPpsLoss_fixed (n : Nat) (s : State) : ∃ t, execPpsLoss n s = .next t ∧ t.fixed = s.fixed := by
  refine ⟨_, rfl, ?_⟩
  repeat' (first
    | with_reducible rfl
    | (simp +zetaHave only [State.fixed_mk, State.fixed_eta, apply_ite State.fixed, apply_ite Prod.fst, ite_self, implies_true,
        apply_ite Rx.s, Rx.drop_s, State.tapRun_fixed, State.tapRequest_fixed, State.ppsLoss_fixed]; done)
    | split
    | intro _
    | (dsimp +zetaHave only))

theorem execAgeWindowEnd_fixed (s : State) : ∃ t, execAgeWindowEnd s = .next t ∧ t.fixed = s.fixed := by
  refine ⟨_, rfl, ?_⟩
  repeat' (first
    | with_reducible rfl
    | (simp +zetaHave only [State.fixed_mk, State.fixed_eta, apply_ite State.fixed, apply_ite Prod.fst, ite_self, implies_true,
        apply_ite Rx.s, Rx.drop_s, State.tapRun_fixed, State.tapRequest_fixed, State.ageEnd_fixed]; done)
    | split
    | intro _
    | (dsimp +zetaHave only))

theorem execServoUpdate_fixed (s : State) : ∃ t, execServoUpdate s = .next t ∧ t.fixed = s.fixed := by
  refine ⟨_, rfl, ?_⟩
  repeat' (first
    | with_reducible rfl
    | (simp +zetaHave only [State.fixed_mk, State.fixed_eta, apply_ite State.fixed, apply_ite Prod.fst, ite_self, implies_true,
        apply_ite Rx.s, Rx.drop_s, State.tapRun_fixed, State.tapRequest_fixed, State.updates_fixed,
        State.advancePhase_fixed]; done)
    | split
    | intro _
    | (dsimp +zetaHave only))

theorem execPlanEvaluate_fixed (s : State) : ∃ t, execPlanEvaluate s = .next t ∧ t.fixed = s.fixed := by
  refine ⟨_, rfl, ?_⟩
  repeat' (first
    | with_reducible rfl
    | (simp +zetaHave only [State.fixed_mk, State.fixed_eta, apply_ite State.fixed, apply_ite Prod.fst, ite_self, implies_true,
        apply_ite Rx.s, Rx.drop_s, State.tapRun_fixed, State.tapRequest_fixed, State.planEvaluate_fixed,
        State.advancePhase_fixed]; done)
    | split
    | intro _
    | (dsimp +zetaHave only))

theorem execLoopOpenTimeout_fixed (d : Dom) (s : State) : ∃ t, execLoopOpenTimeout d s = .next t ∧ t.fixed = s.fixed := by
  refine ⟨_, rfl, ?_⟩
  repeat' (first
    | with_reducible rfl
    | (simp +zetaHave only [State.fixed_mk, State.fixed_eta, apply_ite State.fixed, apply_ite Prod.fst, ite_self, implies_true,
        apply_ite Rx.s, Rx.drop_s, State.tapRun_fixed, State.tapRequest_fixed, State.loopTimeout_fixed]; done)
    | split
    | intro _
    | (dsimp +zetaHave only))

theorem execSyncSend_fixed (p : Nat) (s : State) : ∃ t, execSyncSend p s = .next t ∧ t.fixed = s.fixed := by
  refine ⟨_, rfl, ?_⟩
  repeat' (first
    | with_reducible rfl
    | (simp +zetaHave only [State.fixed_mk, State.fixed_eta, apply_ite State.fixed, apply_ite Prod.fst, ite_self, implies_true,
        apply_ite Rx.s, Rx.drop_s, State.tapRun_fixed, State.tapRequest_fixed, State.syncSend_fixed]; done)
    | split
    | intro _
    | (dsimp +zetaHave only))

theorem execSyncReceive_fixed (h : PtpHead) (origin : WireTime) (s : State) : ∃ t, execSyncReceive h origin s = .next t ∧ t.fixed = s.fixed := by
  refine ⟨_, rfl, ?_⟩
  repeat' (first
    | with_reducible rfl
    | (simp +zetaHave only [State.fixed_mk, State.fixed_eta, apply_ite State.fixed, apply_ite Prod.fst, ite_self, implies_true,
        apply_ite Rx.s, Rx.drop_s, State.rxPtp_fixed, State.tapRun_fixed, State.tapRequest_fixed,
        State.syncArrived_fixed, CmdOut.ok_fixed]; done)
    | split
    | intro _
    | (dsimp +zetaHave only))

theorem execDelayReqSend_fixed (p : Nat) (s : State) : ∃ t, execDelayReqSend p s = .next t ∧ t.fixed = s.fixed := by
  refine ⟨_, rfl, ?_⟩
  repeat' (first
    | with_reducible rfl
    | (simp +zetaHave only [State.fixed_mk, State.fixed_eta, apply_ite State.fixed, apply_ite Prod.fst, ite_self, implies_true,
        apply_ite Rx.s, Rx.drop_s, State.tapRun_fixed, State.tapRequest_fixed, State.delayReqSend_fixed]; done)
    | split
    | intro _
    | (dsimp +zetaHave only))

theorem execDelayReqReceive_fixed (h : PtpHead) (s : State) : ∃ t, execDelayReqReceive h s = .next t ∧ t.fixed = s.fixed := by
  refine ⟨_, rfl, ?_⟩
  repeat' (first
    | with_reducible rfl
    | (simp +zetaHave only [State.fixed_mk, State.fixed_eta, apply_ite State.fixed, apply_ite Prod.fst, ite_self, implies_true,
        apply_ite Rx.s, Rx.drop_s, State.rxPtp_fixed, State.tapRun_fixed, State.tapRequest_fixed,
        State.delayReqArrived_fixed, CmdOut.ok_fixed]; done)
    | split
    | intro _
    | (dsimp +zetaHave only))

theorem execDelayRespSend_fixed (p : Nat) (s : State) : ∃ t, execDelayRespSend p s = .next t ∧ t.fixed = s.fixed := by
  refine ⟨_, rfl, ?_⟩
  repeat' (first
    | with_reducible rfl
    | (simp +zetaHave only [State.fixed_mk, State.fixed_eta, apply_ite State.fixed, apply_ite Prod.fst, ite_self, implies_true,
        apply_ite Rx.s, Rx.drop_s, State.tapRun_fixed, State.tapRequest_fixed, State.delayRespSend_fixed]; done)
    | split
    | intro _
    | (dsimp +zetaHave only))

theorem execDelayRespReceive_fixed (h : PtpHead) (receive : WireTime) (reqClock : Nat) (reqPort : Nat) (s : State) : ∃ t, execDelayRespReceive h receive reqClock reqPort s = .next t ∧ t.fixed = s.fixed := by
  refine ⟨_, rfl, ?_⟩
  repeat' (first
    | with_reducible rfl
    | (simp +zetaHave only [State.fixed_mk, State.fixed_eta, apply_ite State.fixed, apply_ite Prod.fst, ite_self, implies_true,
        apply_ite Rx.s, Rx.drop_s, State.rxPtp_fixed, State.tapRun_fixed, State.tapRequest_fixed,
        State.delayRespArrived_fixed, CmdOut.ok_fixed]; done)
    | split
    | intro _
    | (dsimp +zetaHave only))

theorem execAnnounceSend_fixed (p : Nat) (s : State) : ∃ t, execAnnounceSend p s = .next t ∧ t.fixed = s.fixed := by
  refine ⟨_, rfl, ?_⟩
  repeat' (first
    | with_reducible rfl
    | (simp +zetaHave only [State.fixed_mk, State.fixed_eta, apply_ite State.fixed, apply_ite Prod.fst, ite_self, implies_true,
        apply_ite Rx.s, Rx.drop_s, State.tapRun_fixed, State.tapRequest_fixed, State.announceSend_fixed]; done)
    | split
    | intro _
    | (dsimp +zetaHave only))

theorem execAnnounceReceive_fixed (h : PtpHead) (b : AnnounceBody) (s : State) : ∃ t, execAnnounceReceive h b s = .next t ∧ t.fixed = s.fixed := by
  refine ⟨_, rfl, ?_⟩
  repeat' (first
    | with_reducible rfl
    | (simp +zetaHave only [State.fixed_mk, State.fixed_eta, apply_ite State.fixed, apply_ite Prod.fst, ite_self, implies_true,
        apply_ite Rx.s, Rx.drop_s, State.rxPtp_fixed, State.tapRun_fixed, State.tapRequest_fixed,
        State.announceArrived_fixed, CmdOut.ok_fixed]; done)
    | split
    | intro _
    | (dsimp +zetaHave only))

theorem execHelloSend_fixed (p : Nat) (s : State) : ∃ t, execHelloSend p s = .next t ∧ t.fixed = s.fixed := by
  refine ⟨_, rfl, ?_⟩
  repeat' (first
    | with_reducible rfl
    | (simp +zetaHave only [State.fixed_mk, State.fixed_eta, apply_ite State.fixed, apply_ite Prod.fst, ite_self, implies_true,
        apply_ite Rx.s, Rx.drop_s, State.tapRun_fixed, State.tapRequest_fixed, State.helloSend_fixed]; done)
    | split
    | intro _
    | (dsimp +zetaHave only))

theorem execHelloReceive_fixed (h : RxHead) (b : HelloBody) (s : State) : ∃ t, execHelloReceive h b s = .next t ∧ t.fixed = s.fixed := by
  refine ⟨_, rfl, ?_⟩
  repeat' (first
    | with_reducible rfl
    | (simp +zetaHave only [State.fixed_mk, State.fixed_eta, apply_ite State.fixed, apply_ite Prod.fst, ite_self, implies_true,
        apply_ite Rx.s, Rx.drop_s, State.rxZudar_fixed, State.tapRun_fixed, State.tapRequest_fixed,
        State.judgeId_fixed, State.judgeRole_fixed, CmdOut.ok_fixed]; done)
    | split
    | intro _
    | (dsimp +zetaHave only))

theorem execKeepaliveSend_fixed (p : Nat) (s : State) : ∃ t, execKeepaliveSend p s = .next t ∧ t.fixed = s.fixed := by
  refine ⟨_, rfl, ?_⟩
  repeat' (first
    | with_reducible rfl
    | (simp +zetaHave only [State.fixed_mk, State.fixed_eta, apply_ite State.fixed, apply_ite Prod.fst, ite_self, implies_true,
        apply_ite Rx.s, Rx.drop_s, State.tapRun_fixed, State.tapRequest_fixed, State.keepaliveSend_fixed]; done)
    | split
    | intro _
    | (dsimp +zetaHave only))

theorem execKeepaliveReceive_fixed (h : RxHead) (tx : WireTime) (status : Nat) (te : Nat) (s : State) : ∃ t, execKeepaliveReceive h tx status te s = .next t ∧ t.fixed = s.fixed := by
  refine ⟨_, rfl, ?_⟩
  repeat' (first
    | with_reducible rfl
    | (simp +zetaHave only [State.fixed_mk, State.fixed_eta, apply_ite State.fixed, apply_ite Prod.fst, ite_self, implies_true,
        apply_ite Rx.s, Rx.drop_s, State.rxZudar_fixed, State.tapRun_fixed, State.tapRequest_fixed,
        State.keepaliveArrived_fixed, CmdOut.status_fixed, CmdOut.ok_fixed]; done)
    | split
    | intro _
    | (dsimp +zetaHave only))

theorem execSwitchPlanReceive_fixed (h : RxHead) (id : Nat) (target : Dom) (sw : Nat) (s : State) : ∃ t, execSwitchPlanReceive h id target sw s = .next t ∧ t.fixed = s.fixed := by
  refine ⟨_, rfl, ?_⟩
  repeat' (first
    | with_reducible rfl
    | (simp +zetaHave only [State.fixed_mk, State.fixed_eta, apply_ite State.fixed, apply_ite Prod.fst, ite_self, implies_true,
        apply_ite Rx.s, Rx.drop_s, State.rxZudar_fixed, State.tapRun_fixed, State.tapRequest_fixed,
        State.broadcast_fixed, State.planArrived_fixed, CmdOut.ok_fixed, State.count_fixed]; done)
    | split
    | intro _
    | (dsimp +zetaHave only))

theorem execSwitchCancelReceive_fixed (h : RxHead) (id : Nat) (s : State) : ∃ t, execSwitchCancelReceive h id s = .next t ∧ t.fixed = s.fixed := by
  refine ⟨_, rfl, ?_⟩
  repeat' (first
    | with_reducible rfl
    | (simp +zetaHave only [State.fixed_mk, State.fixed_eta, apply_ite State.fixed, apply_ite Prod.fst, ite_self, implies_true,
        apply_ite Rx.s, Rx.drop_s, State.rxZudar_fixed, State.tapRun_fixed, State.tapRequest_fixed,
        State.cancelPlan_fixed, State.broadcast_fixed, CmdOut.ok_fixed]; done)
    | split
    | intro _
    | (dsimp +zetaHave only))

theorem execEsmcInfoReceive_fixed (h : RxBase) (ql : Nat) (s : State) : ∃ t, execEsmcInfoReceive h ql s = .next t ∧ t.fixed = s.fixed := by
  refine ⟨_, rfl, ?_⟩
  repeat' (first
    | with_reducible rfl
    | (simp +zetaHave only [State.fixed_mk, State.fixed_eta, apply_ite State.fixed, apply_ite Prod.fst, ite_self, implies_true,
        apply_ite Rx.s, Rx.drop_s, State.setCand_fixed, State.tapRun_fixed, State.tapRequest_fixed, State.rxEsmc_fixed,
        CmdOut.ok_fixed]; done)
    | split
    | intro _
    | (dsimp +zetaHave only))

theorem execEsmcEventReceive_fixed (h : RxBase) (s : State) : ∃ t, execEsmcEventReceive h s = .next t ∧ t.fixed = s.fixed := by
  refine ⟨_, rfl, ?_⟩
  repeat' (first
    | with_reducible rfl
    | (simp +zetaHave only [State.fixed_mk, State.fixed_eta, apply_ite State.fixed, apply_ite Prod.fst, ite_self, implies_true,
        apply_ite Rx.s, Rx.drop_s, State.tapRun_fixed, State.tapRequest_fixed, State.rxEsmc_fixed]; done)
    | split
    | intro _
    | (dsimp +zetaHave only))

theorem execEsmcInfoSend_fixed (p : Nat) (s : State) : ∃ t, execEsmcInfoSend p s = .next t ∧ t.fixed = s.fixed := by
  refine ⟨_, rfl, ?_⟩
  repeat' (first
    | with_reducible rfl
    | (simp +zetaHave only [State.fixed_mk, State.fixed_eta, apply_ite State.fixed, apply_ite Prod.fst, ite_self, implies_true,
        apply_ite Rx.s, Rx.drop_s, State.tapRun_fixed, State.tapRequest_fixed, State.esmcSend_fixed]; done)
    | split
    | intro _
    | (dsimp +zetaHave only))

theorem execConverterCalReady_fixed (ramps : List RampCal) (part : Option (List Nat)) (s : State) : ∃ t, execConverterCalReady ramps part s = .next t ∧ t.fixed = s.fixed := by
  refine ⟨_, rfl, ?_⟩
  repeat' (first
    | with_reducible rfl
    | (simp +zetaHave only [State.fixed_mk, State.fixed_eta, apply_ite State.fixed, apply_ite Prod.fst, ite_self, implies_true,
        State.each_fixed, apply_ite Rx.s, Rx.drop_s, State.tapRun_fixed, State.tapRequest_fixed, State.rampFails_fixed,
        State.calDone_fixed, State.rampsFail_fixed]; done)
    | split
    | intro _
    | (dsimp +zetaHave only)
    | refine (State.each_fixed _ _ _ ?_).trans ?_)

theorem execPadMeasurement_fixed (vals : List (Nat × Nat)) (s : State) : ∃ t, execPadMeasurement vals s = .next t ∧ t.fixed = s.fixed := by
  refine ⟨_, rfl, ?_⟩
  repeat' (first
    | with_reducible rfl
    | (simp +zetaHave only [State.fixed_mk, State.fixed_eta, apply_ite State.fixed, apply_ite Prod.fst, ite_self, implies_true,
        State.foldl_fixed, State.foldl_fst_fixed, apply_ite Rx.s, Rx.drop_s, State.tapRun_fixed,
        State.tapRequest_fixed]; done)
    | split
    | intro _
    | (dsimp +zetaHave only)
    | refine (State.foldl_fixed _ _ _ ?_).trans ?_
    | refine (State.foldl_fst_fixed _ _ _ ?_).trans ?_)

theorem execRampCalibration_fixed (ramps : List RampCal) (edges : Nat) (s : State) : ∃ t, execRampCalibration ramps edges s = .next t ∧ t.fixed = s.fixed := by
  refine ⟨_, rfl, ?_⟩
  repeat' (first
    | with_reducible rfl
    | (simp +zetaHave only [State.fixed_mk, State.fixed_eta, apply_ite State.fixed, apply_ite Prod.fst, ite_self, implies_true,
        State.each_fixed, apply_ite Rx.s, Rx.drop_s, State.tapRun_fixed, State.tapRequest_fixed, State.rampFails_fixed,
        State.rampsFail_fixed]; done)
    | split
    | intro _
    | (dsimp +zetaHave only)
    | refine (State.each_fixed _ _ _ ?_).trans ?_)

theorem execPinEdge_fixed (pin : Nat) (falling : Bool) (e : Edge) (s : State) : ∃ t, execPinEdge pin falling e s = .next t ∧ t.fixed = s.fixed := by
  refine ⟨_, rfl, ?_⟩
  repeat' (first
    | with_reducible rfl
    | (simp +zetaHave only [State.fixed_mk, State.fixed_eta, apply_ite State.fixed, apply_ite Prod.fst, ite_self, implies_true,
        apply_ite Rx.s, Rx.drop_s, State.tapRun_fixed, State.tapRequest_fixed, State.pinEdge_fixed]; done)
    | split
    | intro _
    | (dsimp +zetaHave only))

theorem execTimedStart_fixed (s : State) : ∃ t, execTimedStart s = .next t ∧ t.fixed = s.fixed := by
  refine ⟨_, rfl, ?_⟩
  repeat' (first
    | with_reducible rfl
    | (simp +zetaHave only [State.fixed_mk, State.fixed_eta, apply_ite State.fixed, apply_ite Prod.fst, ite_self, implies_true,
        apply_ite Rx.s, Rx.drop_s, State.tapRun_fixed, State.tapRequest_fixed, State.timedStart_fixed]; done)
    | split
    | intro _
    | (dsimp +zetaHave only))

theorem execShotWindowClose_fixed (cyc : Nat) (s : State) : ∃ t, execShotWindowClose cyc s = .next t ∧ t.fixed = s.fixed := by
  refine ⟨_, rfl, ?_⟩
  repeat' (first
    | with_reducible rfl
    | (simp +zetaHave only [State.fixed_mk, State.fixed_eta, apply_ite State.fixed, apply_ite Prod.fst, ite_self, implies_true,
        apply_ite Rx.s, Rx.drop_s, State.atCyc_fixed, State.closeWindows_fixed, State.tapRun_fixed,
        State.tapRequest_fixed, State.shotTime_fixed]; done)
    | split
    | intro _
    | (dsimp +zetaHave only))

theorem execZcDllLock_fixed (s : State) : ∃ t, execZcDllLock s = .next t ∧ t.fixed = s.fixed := by
  refine ⟨_, rfl, ?_⟩
  repeat' (first
    | with_reducible rfl
    | (simp +zetaHave only [State.fixed_mk, State.fixed_eta, apply_ite State.fixed, apply_ite Prod.fst, ite_self, implies_true,
        apply_ite Rx.s, Rx.drop_s, State.drawFree_fixed, State.tapRun_fixed, State.tapRequest_fixed, State.setZc_fixed,
        State.zcArm_fixed]; done)
    | split
    | intro _
    | (dsimp +zetaHave only))

theorem execZcTimeout_fixed (cyc : Nat) (s : State) : ∃ t, execZcTimeout cyc s = .next t ∧ t.fixed = s.fixed := by
  refine ⟨_, rfl, ?_⟩
  repeat' (first
    | with_reducible rfl
    | (simp +zetaHave only [State.fixed_mk, State.fixed_eta, apply_ite State.fixed, apply_ite Prod.fst, ite_self, implies_true,
        apply_ite Rx.s, Rx.drop_s, State.atCyc_fixed, State.tapRun_fixed, State.tapRequest_fixed,
        State.zcTimeout_fixed]; done)
    | split
    | intro _
    | (dsimp +zetaHave only))

theorem execCalFrameReceive_fixed (h : RxHead) (tx : WireTime) (s : State) : ∃ t, execCalFrameReceive h tx s = .next t ∧ t.fixed = s.fixed := by
  refine ⟨_, rfl, ?_⟩
  repeat' (first
    | with_reducible rfl
    | (simp +zetaHave only [State.fixed_mk, State.fixed_eta, apply_ite State.fixed, apply_ite Prod.fst, ite_self, implies_true,
        apply_ite Rx.s, Rx.drop_s, State.count_fixed, State.rxBegin_fixed, State.rxZudar_fixed, State.tapRun_fixed,
        State.tapRequest_fixed, CmdOut.ok_fixed, State.heldGone_fixed]; done)
    | split
    | intro _
    | (dsimp +zetaHave only))

theorem execNop_fixed (f : SeqArgs) (s : State) : ∃ t, execNop f s = .next t ∧ t.fixed = s.fixed := by
  refine ⟨_, rfl, ?_⟩
  split
  · show (if _ then _ else s : State).fixed = s.fixed
    split
    · exact State.atPc_run_fixed s _ f _
    · rfl
  · rfl

theorem execHalt_fixed (f : SeqArgs) (s : State) : ∃ t, execHalt f s = .next t ∧ t.fixed = s.fixed := by
  refine ⟨_, rfl, ?_⟩
  split
  · show (if _ then _ else s : State).fixed = s.fixed
    split
    · exact State.atPc_run_fixed s _ f _
    · rfl
  · rfl

theorem execJmp_fixed (f : SeqArgs) (s : State) : ∃ t, execJmp f s = .next t ∧ t.fixed = s.fixed := by
  refine ⟨_, rfl, ?_⟩
  split
  · show (if _ then _ else s : State).fixed = s.fixed
    split
    · exact State.atPc_run_fixed s _ f _
    · rfl
  · rfl

theorem execBr_fixed (f : SeqArgs) (s : State) : ∃ t, execBr f s = .next t ∧ t.fixed = s.fixed := by
  refine ⟨_, rfl, ?_⟩
  split
  · show (if _ then _ else s : State).fixed = s.fixed
    split
    · exact State.atPc_run_fixed s _ f _
    · rfl
  · rfl

theorem execBri_fixed (f : SeqArgs) (s : State) : ∃ t, execBri f s = .next t ∧ t.fixed = s.fixed := by
  refine ⟨_, rfl, ?_⟩
  split
  · show (if _ then _ else s : State).fixed = s.fixed
    split
    · exact State.atPc_run_fixed s _ f _
    · rfl
  · rfl

theorem execStepend_fixed (f : SeqArgs) (s : State) : ∃ t, execStepend f s = .next t ∧ t.fixed = s.fixed := by
  refine ⟨_, rfl, ?_⟩
  split
  · show (if _ then _ else s : State).fixed = s.fixed
    split
    · exact State.atPc_run_fixed s _ f _
    · rfl
  · rfl

theorem execWaitc_fixed (f : SeqArgs) (s : State) : ∃ t, execWaitc f s = .next t ∧ t.fixed = s.fixed := by
  refine ⟨_, rfl, ?_⟩
  split
  · show (if _ then _ else s : State).fixed = s.fixed
    split
    · exact State.atPc_run_fixed s _ f _
    · rfl
  · rfl

theorem execLi_fixed (f : SeqArgs) (s : State) : ∃ t, execLi f s = .next t ∧ t.fixed = s.fixed := by
  refine ⟨_, rfl, ?_⟩
  split
  · show (if _ then _ else s : State).fixed = s.fixed
    split
    · exact State.atPc_run_fixed s _ f _
    · rfl
  · rfl

theorem execLih_fixed (f : SeqArgs) (s : State) : ∃ t, execLih f s = .next t ∧ t.fixed = s.fixed := by
  refine ⟨_, rfl, ?_⟩
  split
  · show (if _ then _ else s : State).fixed = s.fixed
    split
    · exact State.atPc_run_fixed s _ f _
    · rfl
  · rfl

theorem execMov_fixed (f : SeqArgs) (s : State) : ∃ t, execMov f s = .next t ∧ t.fixed = s.fixed := by
  refine ⟨_, rfl, ?_⟩
  split
  · show (if _ then _ else s : State).fixed = s.fixed
    split
    · exact State.atPc_run_fixed s _ f _
    · rfl
  · rfl

theorem execAdd_fixed (f : SeqArgs) (s : State) : ∃ t, execAdd f s = .next t ∧ t.fixed = s.fixed := by
  refine ⟨_, rfl, ?_⟩
  split
  · show (if _ then _ else s : State).fixed = s.fixed
    split
    · exact State.atPc_run_fixed s _ f _
    · rfl
  · rfl

theorem execSub_fixed (f : SeqArgs) (s : State) : ∃ t, execSub f s = .next t ∧ t.fixed = s.fixed := by
  refine ⟨_, rfl, ?_⟩
  split
  · show (if _ then _ else s : State).fixed = s.fixed
    split
    · exact State.atPc_run_fixed s _ f _
    · rfl
  · rfl

theorem execAnd_fixed (f : SeqArgs) (s : State) : ∃ t, execAnd f s = .next t ∧ t.fixed = s.fixed := by
  refine ⟨_, rfl, ?_⟩
  split
  · show (if _ then _ else s : State).fixed = s.fixed
    split
    · exact State.atPc_run_fixed s _ f _
    · rfl
  · rfl

theorem execOr_fixed (f : SeqArgs) (s : State) : ∃ t, execOr f s = .next t ∧ t.fixed = s.fixed := by
  refine ⟨_, rfl, ?_⟩
  split
  · show (if _ then _ else s : State).fixed = s.fixed
    split
    · exact State.atPc_run_fixed s _ f _
    · rfl
  · rfl

theorem execXor_fixed (f : SeqArgs) (s : State) : ∃ t, execXor f s = .next t ∧ t.fixed = s.fixed := by
  refine ⟨_, rfl, ?_⟩
  split
  · show (if _ then _ else s : State).fixed = s.fixed
    split
    · exact State.atPc_run_fixed s _ f _
    · rfl
  · rfl

theorem execAddi_fixed (f : SeqArgs) (s : State) : ∃ t, execAddi f s = .next t ∧ t.fixed = s.fixed := by
  refine ⟨_, rfl, ?_⟩
  split
  · show (if _ then _ else s : State).fixed = s.fixed
    split
    · exact State.atPc_run_fixed s _ f _
    · rfl
  · rfl

theorem execShl_fixed (f : SeqArgs) (s : State) : ∃ t, execShl f s = .next t ∧ t.fixed = s.fixed := by
  refine ⟨_, rfl, ?_⟩
  split
  · show (if _ then _ else s : State).fixed = s.fixed
    split
    · exact State.atPc_run_fixed s _ f _
    · rfl
  · rfl

theorem execShr_fixed (f : SeqArgs) (s : State) : ∃ t, execShr f s = .next t ∧ t.fixed = s.fixed := by
  refine ⟨_, rfl, ?_⟩
  split
  · show (if _ then _ else s : State).fixed = s.fixed
    split
    · exact State.atPc_run_fixed s _ f _
    · rfl
  · rfl

theorem execSar_fixed (f : SeqArgs) (s : State) : ∃ t, execSar f s = .next t ∧ t.fixed = s.fixed := by
  refine ⟨_, rfl, ?_⟩
  split
  · show (if _ then _ else s : State).fixed = s.fixed
    split
    · exact State.atPc_run_fixed s _ f _
    · rfl
  · rfl

theorem execMul_fixed (f : SeqArgs) (s : State) : ∃ t, execMul f s = .next t ∧ t.fixed = s.fixed := by
  refine ⟨_, rfl, ?_⟩
  split
  · show (if _ then _ else s : State).fixed = s.fixed
    split
    · exact State.atPc_run_fixed s _ f _
    · rfl
  · rfl

theorem execMinu_fixed (f : SeqArgs) (s : State) : ∃ t, execMinu f s = .next t ∧ t.fixed = s.fixed := by
  refine ⟨_, rfl, ?_⟩
  split
  · show (if _ then _ else s : State).fixed = s.fixed
    split
    · exact State.atPc_run_fixed s _ f _
    · rfl
  · rfl

theorem execMaxu_fixed (f : SeqArgs) (s : State) : ∃ t, execMaxu f s = .next t ∧ t.fixed = s.fixed := by
  refine ⟨_, rfl, ?_⟩
  split
  · show (if _ then _ else s : State).fixed = s.fixed
    split
    · exact State.atPc_run_fixed s _ f _
    · rfl
  · rfl

theorem execRdstep_fixed (f : SeqArgs) (s : State) : ∃ t, execRdstep f s = .next t ∧ t.fixed = s.fixed := by
  refine ⟨_, rfl, ?_⟩
  split
  · show (if _ then _ else s : State).fixed = s.fixed
    split
    · exact State.atPc_run_fixed s _ f _
    · rfl
  · rfl

theorem execRdcrs_fixed (f : SeqArgs) (s : State) : ∃ t, execRdcrs f s = .next t ∧ t.fixed = s.fixed := by
  refine ⟨_, rfl, ?_⟩
  split
  · show (if _ then _ else s : State).fixed = s.fixed
    split
    · exact State.atPc_run_fixed s _ f _
    · rfl
  · rfl

theorem execRdte_fixed (f : SeqArgs) (s : State) : ∃ t, execRdte f s = .next t ∧ t.fixed = s.fixed := by
  refine ⟨_, rfl, ?_⟩
  split
  · show (if _ then _ else s : State).fixed = s.fixed
    split
    · exact State.atPc_run_fixed s _ f _
    · rfl
  · rfl

theorem execRdlr_fixed (f : SeqArgs) (s : State) : ∃ t, execRdlr f s = .next t ∧ t.fixed = s.fixed := by
  refine ⟨_, rfl, ?_⟩
  split
  · show (if _ then _ else s : State).fixed = s.fixed
    split
    · exact State.atPc_run_fixed s _ f _
    · rfl
  · rfl

theorem execLcfg_fixed (f : SeqArgs) (s : State) : ∃ t, execLcfg f s = .next t ∧ t.fixed = s.fixed := by
  refine ⟨_, rfl, ?_⟩
  split
  · show (if _ then _ else s : State).fixed = s.fixed
    split
    · exact State.atPc_run_fixed s _ f _
    · rfl
  · rfl

theorem execArm_fixed (f : SeqArgs) (s : State) : ∃ t, execArm f s = .next t ∧ t.fixed = s.fixed := by
  refine ⟨_, rfl, ?_⟩
  split
  · show (if _ then _ else s : State).fixed = s.fixed
    split
    · exact State.atPc_run_fixed s _ f _
    · rfl
  · rfl

theorem execArmm_fixed (f : SeqArgs) (s : State) : ∃ t, execArmm f s = .next t ∧ t.fixed = s.fixed := by
  refine ⟨_, rfl, ?_⟩
  split
  · show (if _ then _ else s : State).fixed = s.fixed
    split
    · exact State.atPc_run_fixed s _ f _
    · rfl
  · rfl

theorem execCancel_fixed (f : SeqArgs) (s : State) : ∃ t, execCancel f s = .next t ∧ t.fixed = s.fixed := by
  refine ⟨_, rfl, ?_⟩
  split
  · show (if _ then _ else s : State).fixed = s.fixed
    split
    · exact State.atPc_run_fixed s _ f _
    · rfl
  · rfl

theorem execPulse_fixed (f : SeqArgs) (s : State) : ∃ t, execPulse f s = .next t ∧ t.fixed = s.fixed := by
  refine ⟨_, rfl, ?_⟩
  split
  · show (if _ then _ else s : State).fixed = s.fixed
    split
    · exact State.atPc_run_fixed s _ f _
    · rfl
  · rfl

theorem execFrz_fixed (f : SeqArgs) (s : State) : ∃ t, execFrz f s = .next t ∧ t.fixed = s.fixed := by
  refine ⟨_, rfl, ?_⟩
  split
  · show (if _ then _ else s : State).fixed = s.fixed
    split
    · exact State.atPc_run_fixed s _ f _
    · rfl
  · rfl

theorem execContrib_fixed (f : SeqArgs) (s : State) : ∃ t, execContrib f s = .next t ∧ t.fixed = s.fixed := by
  refine ⟨_, rfl, ?_⟩
  split
  · show (if _ then _ else s : State).fixed = s.fixed
    split
    · exact State.atPc_run_fixed s _ f _
    · rfl
  · rfl

theorem execWaitr_fixed (f : SeqArgs) (s : State) : ∃ t, execWaitr f s = .next t ∧ t.fixed = s.fixed := by
  refine ⟨_, rfl, ?_⟩
  split
  · show (if _ then _ else s : State).fixed = s.fixed
    split
    · exact State.atPc_run_fixed s _ f _
    · rfl
  · rfl

theorem execResult_fixed (f : SeqArgs) (s : State) : ∃ t, execResult f s = .next t ∧ t.fixed = s.fixed := by
  refine ⟨_, rfl, ?_⟩
  split
  · show (if _ then _ else s : State).fixed = s.fixed
    split
    · exact State.atPc_run_fixed s _ f _
    · rfl
  · rfl

theorem execDeadl_fixed (f : SeqArgs) (s : State) : ∃ t, execDeadl f s = .next t ∧ t.fixed = s.fixed := by
  refine ⟨_, rfl, ?_⟩
  split
  · show (if _ then _ else s : State).fixed = s.fixed
    split
    · exact State.atPc_run_fixed s _ f _
    · rfl
  · rfl

theorem execObjop_fixed (f : SeqArgs) (s : State) : ∃ t, execObjop f s = .next t ∧ t.fixed = s.fixed := by
  refine ⟨_, rfl, ?_⟩
  split
  · show (if _ then _ else s : State).fixed = s.fixed
    split
    · exact State.atPc_run_fixed s _ f _
    · rfl
  · rfl

theorem execProgramStart_fixed (s : State) : ∃ t, execProgramStart s = .next t ∧ t.fixed = s.fixed := by
  refine ⟨_, rfl, ?_⟩
  repeat' (first
    | with_reducible rfl
    | (simp +zetaHave only [State.fixed_mk, State.fixed_eta, apply_ite State.fixed, apply_ite Prod.fst, ite_self, implies_true,
        apply_ite Rx.s, Rx.drop_s, State.tapRun_fixed, State.tapRequest_fixed, State.startBoundary_fixed,
        State.runBurst_fixed]; done)
    | split
    | intro _
    | (dsimp +zetaHave only))

theorem execProgramStop_fixed (s : State) : ∃ t, execProgramStop s = .next t ∧ t.fixed = s.fixed := by
  refine ⟨_, rfl, ?_⟩
  repeat' (first
    | with_reducible rfl
    | (simp +zetaHave only [State.fixed_mk, State.fixed_eta, apply_ite State.fixed, apply_ite Prod.fst, ite_self, implies_true,
        apply_ite Rx.s, Rx.drop_s, State.tapRun_fixed, State.tapRequest_fixed, State.stopBoundary_fixed]; done)
    | split
    | intro _
    | (dsimp +zetaHave only))

theorem execEventStart_fixed (s : State) : ∃ t, execEventStart s = .next t ∧ t.fixed = s.fixed := by
  refine ⟨_, rfl, ?_⟩
  repeat' (first
    | with_reducible rfl
    | (simp +zetaHave only [State.fixed_mk, State.fixed_eta, apply_ite State.fixed, apply_ite Prod.fst, ite_self, implies_true,
        apply_ite Rx.s, Rx.drop_s, State.tapRun_fixed, State.tapRequest_fixed, State.eventStart_fixed,
        State.runBurst_fixed]; done)
    | split
    | intro _
    | (dsimp +zetaHave only))

theorem execEventStop_fixed (s : State) : ∃ t, execEventStop s = .next t ∧ t.fixed = s.fixed := by
  refine ⟨_, rfl, ?_⟩
  repeat' (first
    | with_reducible rfl
    | (simp +zetaHave only [State.fixed_mk, State.fixed_eta, apply_ite State.fixed, apply_ite Prod.fst, ite_self, implies_true,
        apply_ite Rx.s, Rx.drop_s, State.tapRun_fixed, State.tapRequest_fixed, State.eventStop_fixed]; done)
    | split
    | intro _
    | (dsimp +zetaHave only))

theorem execReportWord_fixed (s : State) : ∃ t, execReportWord s = .next t ∧ t.fixed = s.fixed := by
  refine ⟨_, rfl, ?_⟩
  repeat' (first
    | with_reducible rfl
    | (simp +zetaHave only [State.fixed_mk, State.fixed_eta, apply_ite State.fixed, apply_ite Prod.fst, ite_self, implies_true,
        apply_ite Rx.s, Rx.drop_s, State.tapRun_fixed, State.tapRequest_fixed, State.nextReport_fixed]; done)
    | split
    | intro _
    | (dsimp +zetaHave only))

theorem execReportMissing_fixed (s : State) : ∃ t, execReportMissing s = .next t ∧ t.fixed = s.fixed := by
  refine ⟨_, rfl, ?_⟩
  repeat' (first
    | with_reducible rfl
    | (simp +zetaHave only [State.fixed_mk, State.fixed_eta, apply_ite State.fixed, apply_ite Prod.fst, ite_self, implies_true,
        apply_ite Rx.s, Rx.drop_s, State.tapRun_fixed, State.tapRequest_fixed, State.reportsMissing_fixed]; done)
    | split
    | intro _
    | (dsimp +zetaHave only))

theorem execPulseEmit_fixed (out : Nat) (fb : Option Edge) (s : State) : ∃ t, execPulseEmit out fb s = .next t ∧ t.fixed = s.fixed := by
  refine ⟨_, rfl, ?_⟩
  repeat' (first
    | with_reducible rfl
    | (simp +zetaHave only [State.fixed_mk, State.fixed_eta, apply_ite State.fixed, apply_ite Prod.fst, ite_self, implies_true,
        apply_ite Rx.s, Rx.drop_s, State.pulseEmit_fixed, State.tapRun_fixed, State.tapRequest_fixed,
        State.pinEdge_fixed]; done)
    | split
    | intro _
    | (dsimp +zetaHave only))

theorem execPulseCalDone_fixed (out : Nat) (s : State) : ∃ t, execPulseCalDone out s = .next t ∧ t.fixed = s.fixed := by
  refine ⟨_, rfl, ?_⟩
  repeat' (first
    | with_reducible rfl
    | (simp +zetaHave only [State.fixed_mk, State.fixed_eta, apply_ite State.fixed, apply_ite Prod.fst, ite_self, implies_true,
        apply_ite Rx.s, Rx.drop_s, State.pulseCalDone_fixed, State.tapRun_fixed, State.tapRequest_fixed]; done)
    | split
    | intro _
    | (dsimp +zetaHave only))

theorem execFreezeEmit_fixed (s : State) : ∃ t, execFreezeEmit s = .next t ∧ t.fixed = s.fixed := by
  refine ⟨_, rfl, ?_⟩
  repeat' (first
    | with_reducible rfl
    | (simp +zetaHave only [State.fixed_mk, State.fixed_eta, apply_ite State.fixed, apply_ite Prod.fst, ite_self, implies_true,
        apply_ite Rx.s, Rx.drop_s, State.freezeEmit_fixed, State.tapRun_fixed, State.tapRequest_fixed]; done)
    | split
    | intro _
    | (dsimp +zetaHave only))

theorem execLaunchReceive_fixed (h : RxHead) (b : LaunchBody) (s : State) : ∃ t, execLaunchReceive h b s = .next t ∧ t.fixed = s.fixed := by
  refine ⟨_, rfl, ?_⟩
  repeat' (first
    | with_reducible rfl
    | (simp +zetaHave only [State.fixed_mk, State.fixed_eta, apply_ite State.fixed, apply_ite Prod.fst, ite_self, implies_true,
        apply_ite Rx.s, Rx.drop_s, State.takeEvent_fixed, State.rxZudar_fixed, State.tapRun_fixed,
        State.tapRequest_fixed, State.broadcast_fixed, CmdOut.ok_fixed]; done)
    | split
    | intro _
    | (dsimp +zetaHave only))

theorem execPowerEntryAttempt_fixed (member : Bool) (s : State) : ∃ t, execPowerEntryAttempt member s = .next t ∧ t.fixed = s.fixed := by
  refine ⟨_, rfl, ?_⟩
  repeat' (first
    | with_reducible rfl
    | (simp +zetaHave only [State.fixed_mk, State.fixed_eta, apply_ite State.fixed, apply_ite Prod.fst, ite_self, implies_true,
        apply_ite Rx.s, Rx.drop_s, State.tapRun_fixed, State.tapRequest_fixed, State.powerAttempt_fixed]; done)
    | split
    | intro _
    | (dsimp +zetaHave only))

theorem execNapWake_fixed (src : Nat) (arg : Nat) (s : State) : ∃ t, execNapWake src arg s = .next t ∧ t.fixed = s.fixed := by
  refine ⟨_, rfl, ?_⟩
  repeat' (first
    | with_reducible rfl
    | (simp +zetaHave only [State.fixed_mk, State.fixed_eta, apply_ite State.fixed, apply_ite Prod.fst, ite_self, implies_true,
        apply_ite Rx.s, Rx.drop_s, State.wake_fixed, State.tapRun_fixed, State.tapRequest_fixed]; done)
    | split
    | intro _
    | (dsimp +zetaHave only))

theorem execNapPlannedWake_fixed (s : State) : ∃ t, execNapPlannedWake s = .next t ∧ t.fixed = s.fixed := by
  refine ⟨_, rfl, ?_⟩
  repeat' (first
    | with_reducible rfl
    | (simp +zetaHave only [State.fixed_mk, State.fixed_eta, apply_ite State.fixed, apply_ite Prod.fst, ite_self, implies_true,
        apply_ite Rx.s, Rx.drop_s, State.tapRun_fixed, State.tapRequest_fixed, State.napPlanned_fixed]; done)
    | split
    | intro _
    | (dsimp +zetaHave only))

theorem execThatchWake_fixed (src : Nat) (arg : Nat) (s : State) : ∃ t, execThatchWake src arg s = .next t ∧ t.fixed = s.fixed := by
  refine ⟨_, rfl, ?_⟩
  repeat' (first
    | with_reducible rfl
    | (simp +zetaHave only [State.fixed_mk, State.fixed_eta, apply_ite State.fixed, apply_ite Prod.fst, ite_self, implies_true,
        apply_ite Rx.s, Rx.drop_s, State.wake_fixed, State.tapRun_fixed, State.tapRequest_fixed]; done)
    | split
    | intro _
    | (dsimp +zetaHave only))

theorem execThatchTimerWake_fixed (s : State) : ∃ t, execThatchTimerWake s = .next t ∧ t.fixed = s.fixed := by
  refine ⟨_, rfl, ?_⟩
  repeat' (first
    | with_reducible rfl
    | (simp +zetaHave only [State.fixed_mk, State.fixed_eta, apply_ite State.fixed, apply_ite Prod.fst, ite_self, implies_true,
        apply_ite Rx.s, Rx.drop_s, State.wake_fixed, State.tapRun_fixed, State.tapRequest_fixed]; done)
    | split
    | intro _
    | (dsimp +zetaHave only))

theorem execPwWake_fixed (s : State) : ∃ t, execPwWake s = .next t ∧ t.fixed = s.fixed := by
  refine ⟨_, rfl, ?_⟩
  repeat' (first
    | with_reducible rfl
    | (simp +zetaHave only [State.fixed_mk, State.fixed_eta, apply_ite State.fixed, apply_ite Prod.fst, ite_self, implies_true,
        apply_ite Rx.s, Rx.drop_s, State.wake_fixed, State.tapRun_fixed, State.tapRequest_fixed]; done)
    | split
    | intro _
    | (dsimp +zetaHave only))

theorem execTimingPllUnlock_fixed (s : State) : ∃ t, execTimingPllUnlock s = .next t ∧ t.fixed = s.fixed := by
  refine ⟨_, rfl, ?_⟩
  repeat' (first
    | with_reducible rfl
    | (simp +zetaHave only [State.fixed_mk, State.fixed_eta, apply_ite State.fixed, apply_ite Prod.fst, ite_self, implies_true,
        apply_ite Rx.s, Rx.drop_s, State.tapRun_fixed, State.tapRequest_fixed, State.timingUnlock_fixed]; done)
    | split
    | intro _
    | (dsimp +zetaHave only))

theorem execTimingPllRelock_fixed (s : State) : ∃ t, execTimingPllRelock s = .next t ∧ t.fixed = s.fixed := by
  refine ⟨_, rfl, ?_⟩
  repeat' (first
    | with_reducible rfl
    | (simp +zetaHave only [State.fixed_mk, State.fixed_eta, apply_ite State.fixed, apply_ite Prod.fst, ite_self, implies_true,
        apply_ite Rx.s, Rx.drop_s, State.tapRun_fixed, State.tapRequest_fixed, State.drawFree_fixed]; done)
    | split
    | intro _
    | (dsimp +zetaHave only))

theorem execLogicPllUnlock_fixed (s : State) : ∃ t, execLogicPllUnlock s = .next t ∧ t.fixed = s.fixed := by
  refine ⟨_, rfl, ?_⟩
  repeat' (first
    | with_reducible rfl
    | (simp +zetaHave only [State.fixed_mk, State.fixed_eta, apply_ite State.fixed, apply_ite Prod.fst, ite_self, implies_true,
        apply_ite Rx.s, Rx.drop_s, State.tapRun_fixed, State.tapRequest_fixed, State.logicUnlock_fixed]; done)
    | split
    | intro _
    | (dsimp +zetaHave only))

theorem execLogicPllRelock_fixed (s : State) : ∃ t, execLogicPllRelock s = .next t ∧ t.fixed = s.fixed := by
  refine ⟨_, rfl, ?_⟩
  repeat' (first
    | with_reducible rfl
    | (simp +zetaHave only [State.fixed_mk, State.fixed_eta, apply_ite State.fixed, apply_ite Prod.fst, ite_self, implies_true,
        apply_ite Rx.s, Rx.drop_s, State.tapRun_fixed, State.tapRequest_fixed, State.drawFree_fixed]; done)
    | split
    | intro _
    | (dsimp +zetaHave only))

theorem execOvenFlagFall_fixed (s : State) : ∃ t, execOvenFlagFall s = .next t ∧ t.fixed = s.fixed := by
  refine ⟨_, rfl, ?_⟩
  repeat' (first
    | with_reducible rfl
    | (simp +zetaHave only [State.fixed_mk, State.fixed_eta, apply_ite State.fixed, apply_ite Prod.fst, ite_self, implies_true,
        apply_ite Rx.s, Rx.drop_s, State.tapRun_fixed, State.tapRequest_fixed, State.ovenDrop_fixed]; done)
    | split
    | intro _
    | (dsimp +zetaHave only))

theorem execOvenOkRise_fixed (s : State) : ∃ t, execOvenOkRise s = .next t ∧ t.fixed = s.fixed := by
  refine ⟨_, rfl, ?_⟩
  repeat' (first
    | with_reducible rfl
    | (simp +zetaHave only [State.fixed_mk, State.fixed_eta, apply_ite State.fixed, apply_ite Prod.fst, ite_self, implies_true,
        apply_ite Rx.s, Rx.drop_s, State.tapRun_fixed, State.tapRequest_fixed, State.ovenRise_fixed]; done)
    | split
    | intro _
    | (dsimp +zetaHave only))

theorem execGateClose_fixed (k : Nat) (s : State) : ∃ t, execGateClose k s = .next t ∧ t.fixed = s.fixed := by
  refine ⟨_, rfl, ?_⟩
  repeat' (first
    | with_reducible rfl
    | (simp +zetaHave only [State.fixed_mk, State.fixed_eta, apply_ite State.fixed, apply_ite Prod.fst, ite_self, implies_true,
        apply_ite Rx.s, Rx.drop_s, State.tapRun_fixed, State.tapRequest_fixed, State.closeGate_fixed]; done)
    | split
    | intro _
    | (dsimp +zetaHave only))

theorem execCollUpReceive_fixed (h : RxHead) (m : CollUp) (s : State) : ∃ t, execCollUpReceive h m s = .next t ∧ t.fixed = s.fixed := by
  refine ⟨_, rfl, ?_⟩
  repeat' (first
    | with_reducible rfl
    | (simp +zetaHave only [State.fixed_mk, State.fixed_eta, apply_ite State.fixed, apply_ite Prod.fst, ite_self, implies_true,
        apply_ite Rx.s, Rx.drop_s, State.ridgeUp_fixed, State.tapRun_fixed, State.tapRequest_fixed,
        State.collFrame_fixed, State.count_fixed]; done)
    | split
    | intro _
    | (dsimp +zetaHave only))

theorem execCollDownReceive_fixed (h : RxHead) (m : CollDown) (s : State) : ∃ t, execCollDownReceive h m s = .next t ∧ t.fixed = s.fixed := by
  refine ⟨_, rfl, ?_⟩
  repeat' (first
    | with_reducible rfl
    | (simp +zetaHave only [State.fixed_mk, State.fixed_eta, apply_ite State.fixed, apply_ite Prod.fst, ite_self, implies_true,
        apply_ite Rx.s, Rx.drop_s, State.eaveDown_fixed, State.ridgeDown_fixed, State.tapRun_fixed,
        State.tapRequest_fixed, State.collFrame_fixed]; done)
    | split
    | intro _
    | (dsimp +zetaHave only))

theorem execCollMoveReceive_fixed (h : RxHead) (m : CollMove) (s : State) : ∃ t, execCollMoveReceive h m s = .next t ∧ t.fixed = s.fixed := by
  refine ⟨_, rfl, ?_⟩
  repeat' (first
    | with_reducible rfl
    | (simp +zetaHave only [State.fixed_mk, State.fixed_eta, apply_ite State.fixed, apply_ite Prod.fst, ite_self, implies_true,
        apply_ite Rx.s, Rx.drop_s, State.eaveMove_fixed, State.ridgeMove_fixed, State.tapRun_fixed,
        State.tapRequest_fixed, State.collFrame_fixed]; done)
    | split
    | intro _
    | (dsimp +zetaHave only))

theorem execCollAbortReceive_fixed (h : RxHead) (m : CollAbort) (s : State) : ∃ t, execCollAbortReceive h m s = .next t ∧ t.fixed = s.fixed := by
  refine ⟨_, rfl, ?_⟩
  repeat' (first
    | with_reducible rfl
    | (simp +zetaHave only [State.fixed_mk, State.fixed_eta, apply_ite State.fixed, apply_ite Prod.fst, ite_self, implies_true,
        apply_ite Rx.s, Rx.drop_s, State.eaveAbort_fixed, State.ridgeAbort_fixed, State.tapRun_fixed,
        State.tapRequest_fixed, State.collFrame_fixed]; done)
    | split
    | intro _
    | (dsimp +zetaHave only))

theorem execCollReqReceive_fixed (h : RxHead) (q : CollReq) (s : State) : ∃ t, execCollReqReceive h q s = .next t ∧ t.fixed = s.fixed := by
  refine ⟨_, rfl, ?_⟩
  repeat' (first
    | with_reducible rfl
    | (simp +zetaHave only [State.fixed_mk, State.fixed_eta, apply_ite State.fixed, apply_ite Prod.fst, ite_self, implies_true,
        apply_ite Rx.s, Rx.drop_s, State.routeReq_fixed, State.tapRun_fixed, State.tapRequest_fixed,
        State.collFrame_fixed]; done)
    | split
    | intro _
    | (dsimp +zetaHave only))

theorem execGangContribution_fixed (pos : Nat) (m : GangMsg) (s : State) : ∃ t, execGangContribution pos m s = .next t ∧ t.fixed = s.fixed := by
  refine ⟨_, rfl, ?_⟩
  repeat' (first
    | with_reducible rfl
    | (simp +zetaHave only [State.fixed_mk, State.fixed_eta, apply_ite State.fixed, apply_ite Prod.fst, ite_self, implies_true,
        apply_ite Rx.s, Rx.drop_s, State.openGate_fixed, State.busy_fixed, State.gangContribution_fixed,
        State.tapRun_fixed, State.tapRequest_fixed, State.gangDigest_fixed, State.atLeader_fixed, State.atMember_fixed]; done)
    | split
    | intro _
    | (dsimp +zetaHave only))

theorem execOrphanCounterFree_fixed (s : State) : ∃ t, execOrphanCounterFree s = .next t ∧ t.fixed = s.fixed := by
  refine ⟨_, rfl, ?_⟩
  repeat' (first
    | with_reducible rfl
    | (simp +zetaHave only [State.fixed_mk, State.fixed_eta, apply_ite State.fixed, apply_ite Prod.fst, ite_self, implies_true,
        apply_ite Rx.s, Rx.drop_s, State.freeOrphans_fixed, State.tapRun_fixed, State.tapRequest_fixed]; done)
    | split
    | intro _
    | (dsimp +zetaHave only))

theorem execMoveTimeout_fixed (s : State) : ∃ t, execMoveTimeout s = .next t ∧ t.fixed = s.fixed := by
  refine ⟨_, rfl, ?_⟩
  repeat' (first
    | with_reducible rfl
    | (simp +zetaHave only [State.fixed_mk, State.fixed_eta, apply_ite State.fixed, apply_ite Prod.fst, ite_self, implies_true,
        apply_ite Rx.s, Rx.drop_s, State.moveTimeouts_fixed, State.tapRun_fixed, State.tapRequest_fixed]; done)
    | split
    | intro _
    | (dsimp +zetaHave only))

theorem execIsolated_fixed (s : State) : ∃ t, execIsolated s = .next t ∧ t.fixed = s.fixed := by
  refine ⟨_, rfl, ?_⟩
  repeat' (first
    | with_reducible rfl
    | (simp +zetaHave only [State.fixed_mk, State.fixed_eta, apply_ite State.fixed, apply_ite Prod.fst, ite_self, implies_true,
        apply_ite Rx.s, Rx.drop_s, State.tapRun_fixed, State.tapRequest_fixed, State.collArrivals_fixed,
        State.collIsolated_fixed]; done)
    | split
    | intro _
    | (dsimp +zetaHave only))

theorem execCollectiveDeadline_fixed (s : State) : ∃ t, execCollectiveDeadline s = .next t ∧ t.fixed = s.fixed := by
  refine ⟨_, rfl, ?_⟩
  repeat' (first
    | with_reducible rfl
    | (simp +zetaHave only [State.fixed_mk, State.fixed_eta, apply_ite State.fixed, apply_ite Prod.fst, ite_self, implies_true,
        apply_ite Rx.s, Rx.drop_s, State.collDeadlines_fixed, State.tapRun_fixed, State.tapRequest_fixed,
        State.collArrivals_fixed]; done)
    | split
    | intro _
    | (dsimp +zetaHave only))

theorem execGangLinkCalibrationDone_fixed (hops : List GangHop) (s : State) : ∃ t, execGangLinkCalibrationDone hops s = .next t ∧ t.fixed = s.fixed := by
  refine ⟨_, rfl, ?_⟩
  repeat' (first
    | with_reducible rfl
    | (simp +zetaHave only [State.fixed_mk, State.fixed_eta, apply_ite State.fixed, apply_ite Prod.fst, ite_self, implies_true,
        apply_ite Rx.s, Rx.drop_s, State.tapRun_fixed, State.tapRequest_fixed]; done)
    | split
    | intro _
    | (dsimp +zetaHave only))

theorem execGangCalTimeout_fixed (pos : Nat) (s : State) : ∃ t, execGangCalTimeout pos s = .next t ∧ t.fixed = s.fixed := by
  refine ⟨_, rfl, ?_⟩
  repeat' (first
    | with_reducible rfl
    | (simp +zetaHave only [State.fixed_mk, State.fixed_eta, apply_ite State.fixed, apply_ite Prod.fst, ite_self, implies_true,
        apply_ite Rx.s, Rx.drop_s, State.raise_fixed, State.tapRun_fixed, State.tapRequest_fixed,
        State.gangCalOver_fixed]; done)
    | split
    | intro _
    | (dsimp +zetaHave only))

theorem execGangLinkFail_fixed (lost : List Nat) (s : State) : ∃ t, execGangLinkFail lost s = .next t ∧ t.fixed = s.fixed := by
  refine ⟨_, rfl, ?_⟩
  repeat' (first
    | with_reducible rfl
    | (simp +zetaHave only [State.fixed_mk, State.fixed_eta, apply_ite State.fixed, apply_ite Prod.fst, ite_self, implies_true,
        apply_ite Rx.s, Rx.drop_s, State.tapRun_fixed, State.tapRequest_fixed, State.gangLose_fixed, State.wake_fixed,
        State.gangLost_fixed]; done)
    | split
    | intro _
    | (dsimp +zetaHave only))

theorem execBadOpcode_fixed (s : State) : ∃ t, execBadOpcode s = .next t ∧ t.fixed = s.fixed := by
  refine ⟨_, rfl, ?_⟩
  repeat' (first
    | with_reducible rfl
    | (simp +zetaHave only [State.fixed_mk, State.fixed_eta, apply_ite State.fixed, apply_ite Prod.fst, ite_self, implies_true,
        apply_ite Rx.s, Rx.drop_s, apply_ite CmdOut.st, CmdOut.status_st, CmdOut.ok_st, CmdOut.done_st, CmdOut.wait_st,
        State.tapRun_fixed, State.tapRequest_fixed, CmdOut.status_fixed, State.complete_fixed, cmdOf_fixed,
        State.acceptIf_fixed]; done)
    | split
    | intro _
    | (dsimp +zetaHave only))

theorem execGenIdentify_fixed (s : State) : ∃ t, execGenIdentify s = .next t ∧ t.fixed = s.fixed := by
  refine ⟨_, rfl, ?_⟩
  split
  · exact State.acceptOp_fixed s _ _ fun t r => (cmdGenIdentify_fixed t r).1
  · rfl

theorem execGenStatus_fixed (s : State) : ∃ t, execGenStatus s = .next t ∧ t.fixed = s.fixed := by
  refine ⟨_, rfl, ?_⟩
  split
  · exact State.acceptOp_fixed s _ _ fun t r => (cmdGenStatus_fixed t r).1
  · rfl

theorem execTopologyLoad_fixed (s : State) : ∃ t, execTopologyLoad s = .next t ∧ t.fixed = s.fixed := by
  refine ⟨_, rfl, ?_⟩
  split
  · exact State.acceptOp_fixed s _ _ fun t r => (cmdTopologyLoad_fixed t r).1
  · rfl

theorem execGenReset_fixed (s : State) : ∃ t, execGenReset s = .next t ∧ t.fixed = s.fixed := by
  refine ⟨_, rfl, ?_⟩
  split
  · exact State.acceptOp_fixed s _ _ fun t r => (cmdGenReset_fixed t r).1
  · rfl

theorem execFwLoad_fixed (s : State) : ∃ t, execFwLoad s = .next t ∧ t.fixed = s.fixed := by
  refine ⟨_, rfl, ?_⟩
  split
  · exact State.acceptOp_fixed s _ _ fun t r => (cmdFwLoad_fixed t r).1
  · rfl

theorem execFwStart_fixed (s : State) : ∃ t, execFwStart s = .next t ∧ t.fixed = s.fixed := by
  refine ⟨_, rfl, ?_⟩
  split
  · exact State.acceptOp_fixed s _ _ fun t r => (cmdFwStart_fixed t r).1
  · rfl

theorem execTimeAcquire_fixed (s : State) : ∃ t, execTimeAcquire s = .next t ∧ t.fixed = s.fixed := by
  refine ⟨_, rfl, ?_⟩
  split
  · exact State.acceptOp_fixed s _ _ fun t r => (cmdTimeAcquire_fixed t r).1
  · rfl

theorem execTimeRestep_fixed (s : State) : ∃ t, execTimeRestep s = .next t ∧ t.fixed = s.fixed := by
  refine ⟨_, rfl, ?_⟩
  split
  · exact State.acceptOp_fixed s _ _ fun t r => (cmdTimeRestep_fixed t r).1
  · rfl

theorem execTimeSlewLimit_fixed (s : State) : ∃ t, execTimeSlewLimit s = .next t ∧ t.fixed = s.fixed := by
  refine ⟨_, rfl, ?_⟩
  split
  · exact State.acceptOp_fixed s _ _ fun t r => (cmdTimeSlewLimit_fixed t r).1
  · rfl

theorem execTimeDomainSelect_fixed (s : State) : ∃ t, execTimeDomainSelect s = .next t ∧ t.fixed = s.fixed := by
  refine ⟨_, rfl, ?_⟩
  split
  · exact State.acceptOp_fixed s _ _ fun t r => (cmdTimeDomainSelect_fixed t r).1
  · rfl

theorem execTimeSwitchAt_fixed (s : State) : ∃ t, execTimeSwitchAt s = .next t ∧ t.fixed = s.fixed := by
  refine ⟨_, rfl, ?_⟩
  split
  · exact State.acceptOp_fixed s _ _ fun t r => (cmdTimeSwitchAt_fixed t r).1
  · rfl

theorem execTimeHoldoverForce_fixed (s : State) : ∃ t, execTimeHoldoverForce s = .next t ∧ t.fixed = s.fixed := by
  refine ⟨_, rfl, ?_⟩
  split
  · exact State.acceptOp_fixed s _ _ fun t r => (cmdTimeHoldoverForce_fixed t r).1
  · rfl

theorem execTimeEpochSet_fixed (s : State) : ∃ t, execTimeEpochSet s = .next t ∧ t.fixed = s.fixed := by
  refine ⟨_, rfl, ?_⟩
  split
  · exact State.acceptOp_fixed s _ _ fun t r => (cmdTimeEpochSet_fixed t r).1
  · rfl

theorem execRefConfigure_fixed (s : State) : ∃ t, execRefConfigure s = .next t ∧ t.fixed = s.fixed := by
  refine ⟨_, rfl, ?_⟩
  split
  · exact State.acceptOp_fixed s _ _ fun t r => (cmdRefConfigure_fixed t r).1
  · rfl

theorem execRefPriority_fixed (s : State) : ∃ t, execRefPriority s = .next t ∧ t.fixed = s.fixed := by
  refine ⟨_, rfl, ?_⟩
  split
  · exact State.acceptOp_fixed s _ _ fun t r => (cmdRefPriority_fixed t r).1
  · rfl

theorem execRefLoopOpen_fixed (s : State) : ∃ t, execRefLoopOpen s = .next t ∧ t.fixed = s.fixed := by
  refine ⟨_, rfl, ?_⟩
  split
  · exact State.acceptOp_fixed s _ _ fun t r => (cmdRefLoopOpen_fixed t r).1
  · rfl

theorem execRefLoopClose_fixed (s : State) : ∃ t, execRefLoopClose s = .next t ∧ t.fixed = s.fixed := by
  refine ⟨_, rfl, ?_⟩
  split
  · exact State.acceptOp_fixed s _ _ fun t r => (cmdRefLoopClose_fixed t r).1
  · rfl

theorem execRefCorrect_fixed (s : State) : ∃ t, execRefCorrect s = .next t ∧ t.fixed = s.fixed := by
  refine ⟨_, rfl, ?_⟩
  split
  · exact State.acceptOp_fixed s _ _ fun t r => (cmdRefCorrect_fixed t r).1
  · rfl

theorem execIntervalArm_fixed (s : State) : ∃ t, execIntervalArm s = .next t ∧ t.fixed = s.fixed := by
  refine ⟨_, rfl, ?_⟩
  split
  · exact State.acceptOp_fixed s _ _ fun t r => (cmdIntervalArm_fixed t r).1
  · rfl

theorem execIntervalAbort_fixed (s : State) : ∃ t, execIntervalAbort s = .next t ∧ t.fixed = s.fixed := by
  refine ⟨_, rfl, ?_⟩
  split
  · exact State.acceptOp_fixed s _ _ fun t r => (cmdIntervalAbort_fixed t r).1
  · rfl

theorem execSeqLoad_fixed (s : State) : ∃ t, execSeqLoad s = .next t ∧ t.fixed = s.fixed := by
  refine ⟨_, rfl, ?_⟩
  split
  · exact State.acceptOp_fixed s _ _ fun t r => (cmdSeqLoad_fixed t r).1
  · rfl

theorem execSeqStart_fixed (s : State) : ∃ t, execSeqStart s = .next t ∧ t.fixed = s.fixed := by
  refine ⟨_, rfl, ?_⟩
  split
  · exact State.acceptOp_fixed s _ _ fun t r => (cmdSeqStart_fixed t r).1
  · rfl

theorem execSeqStop_fixed (s : State) : ∃ t, execSeqStop s = .next t ∧ t.fixed = s.fixed := by
  refine ⟨_, rfl, ?_⟩
  split
  · exact State.acceptOp_fixed s _ _ fun t r => (cmdSeqStop_fixed t r).1
  · rfl

theorem execSeqArm_fixed (s : State) : ∃ t, execSeqArm s = .next t ∧ t.fixed = s.fixed := by
  refine ⟨_, rfl, ?_⟩
  split
  · exact State.acceptOp_fixed s _ _ fun t r => (cmdSeqArm_fixed t r).1
  · rfl

theorem execSeqCancel_fixed (s : State) : ∃ t, execSeqCancel s = .next t ∧ t.fixed = s.fixed := by
  refine ⟨_, rfl, ?_⟩
  split
  · exact State.acceptOp_fixed s _ _ fun t r => (cmdSeqCancel_fixed t r).1
  · rfl

theorem execObjCtxDefine_fixed (s : State) : ∃ t, execObjCtxDefine s = .next t ∧ t.fixed = s.fixed := by
  refine ⟨_, rfl, ?_⟩
  split
  · exact State.acceptOp_fixed s _ _ fun t r => (cmdObjCtxDefine_fixed t r).1
  · rfl

theorem execObjInit_fixed (s : State) : ∃ t, execObjInit s = .next t ∧ t.fixed = s.fixed := by
  refine ⟨_, rfl, ?_⟩
  split
  · exact State.acceptOp_fixed s _ _ fun t r => (cmdObjInit_fixed t r).1
  · rfl

theorem execObjCtxClear_fixed (s : State) : ∃ t, execObjCtxClear s = .next t ∧ t.fixed = s.fixed := by
  refine ⟨_, rfl, ?_⟩
  split
  · exact State.acceptOp_fixed s _ _ fun t r => (cmdObjCtxClear_fixed t r).1
  · rfl

theorem execObjCtxRelease_fixed (s : State) : ∃ t, execObjCtxRelease s = .next t ∧ t.fixed = s.fixed := by
  refine ⟨_, rfl, ?_⟩
  split
  · exact State.acceptOp_fixed s _ _ fun t r => (cmdObjCtxRelease_fixed t r).1
  · rfl

theorem execObjWake_fixed (s : State) : ∃ t, execObjWake s = .next t ∧ t.fixed = s.fixed := by
  refine ⟨_, rfl, ?_⟩
  split
  · exact State.acceptOp_fixed s _ _ fun t r => (cmdObjWake_fixed t r).1
  · rfl

theorem execObjOp_fixed (s : State) : ∃ t, execObjOp s = .next t ∧ t.fixed = s.fixed := by
  refine ⟨_, rfl, ?_⟩
  split
  · exact State.acceptOp_fixed s _ _ fun t r => (cmdObjOp_fixed t r).1
  · rfl

theorem execCollDefine_fixed (s : State) : ∃ t, execCollDefine s = .next t ∧ t.fixed = s.fixed := by
  refine ⟨_, rfl, ?_⟩
  split
  · exact State.acceptOp_fixed s _ _ fun t r => (cmdCollDefine_fixed t r).1
  · rfl

theorem execCollRelease_fixed (s : State) : ∃ t, execCollRelease s = .next t ∧ t.fixed = s.fixed := by
  refine ⟨_, rfl, ?_⟩
  split
  · exact State.acceptOp_fixed s _ _ fun t r => (cmdCollRelease_fixed t r).1
  · rfl

theorem execCollAbort_fixed (s : State) : ∃ t, execCollAbort s = .next t ∧ t.fixed = s.fixed := by
  refine ⟨_, rfl, ?_⟩
  split
  · exact State.acceptOp_fixed s _ _ fun t r => (cmdCollAbort_fixed t r).1
  · rfl

theorem execPortCalibrate_fixed (s : State) : ∃ t, execPortCalibrate s = .next t ∧ t.fixed = s.fixed := by
  refine ⟨_, rfl, ?_⟩
  split
  · exact State.acceptOp_fixed s _ _ fun t r => (cmdPortCalibrate_fixed t r).1
  · rfl

theorem execPortRetire_fixed (s : State) : ∃ t, execPortRetire s = .next t ∧ t.fixed = s.fixed := by
  refine ⟨_, rfl, ?_⟩
  split
  · exact State.acceptOp_fixed s _ _ fun t r => (cmdPortRetireRow_fixed t r).1
  · rfl

theorem execPortRestore_fixed (s : State) : ∃ t, execPortRestore s = .next t ∧ t.fixed = s.fixed := by
  refine ⟨_, rfl, ?_⟩
  split
  · exact State.acceptOp_fixed s _ _ fun t r => (cmdPortRestoreRow_fixed t r).1
  · rfl

theorem execPortSpareAdmit_fixed (s : State) : ∃ t, execPortSpareAdmit s = .next t ∧ t.fixed = s.fixed := by
  refine ⟨_, rfl, ?_⟩
  split
  · exact State.acceptOp_fixed s _ _ fun t r => (cmdPortSpareRow_fixed t r).1
  · rfl

theorem execPowerEnter_fixed (s : State) : ∃ t, execPowerEnter s = .next t ∧ t.fixed = s.fixed := by
  refine ⟨_, rfl, ?_⟩
  split
  · exact State.acceptOp_fixed s _ _ fun t r => (cmdPowerEnter_fixed t r).1
  · rfl

theorem execPulseArm_fixed (s : State) : ∃ t, execPulseArm s = .next t ∧ t.fixed = s.fixed := by
  refine ⟨_, rfl, ?_⟩
  split
  · exact State.acceptOp_fixed s _ _ fun t r => (cmdPulseArm_fixed t r).1
  · rfl

theorem execPulseCancel_fixed (s : State) : ∃ t, execPulseCancel s = .next t ∧ t.fixed = s.fixed := by
  refine ⟨_, rfl, ?_⟩
  split
  · exact State.acceptOp_fixed s _ _ fun t r => (cmdPulseCancel_fixed t r).1
  · rfl

theorem execClockClkout_fixed (s : State) : ∃ t, execClockClkout s = .next t ∧ t.fixed = s.fixed := by
  refine ⟨_, rfl, ?_⟩
  split
  · exact State.acceptOp_fixed s _ _ fun t r => (cmdClockClkout_fixed t r).1
  · rfl

theorem execPortCalibrateDone_fixed (s : State) : ∃ t, execPortCalibrateDone s = .next t ∧ t.fixed = s.fixed := by
  refine ⟨_, rfl, ?_⟩
  repeat' (first
    | with_reducible rfl
    | (simp +zetaHave only [State.fixed_mk, State.fixed_eta, apply_ite State.fixed, apply_ite Prod.fst, ite_self, implies_true,
        apply_ite Rx.s, Rx.drop_s, apply_ite CmdOut.st, CmdOut.status_st, CmdOut.ok_st, CmdOut.done_st, CmdOut.wait_st,
        State.tapRun_fixed, State.tapRequest_fixed, State.calibrateFinish_fixed, State.pumpCmds_fixed]; done)
    | split
    | intro _
    | (dsimp +zetaHave only))

theorem execCommandCompletion_fixed (s : State) : ∃ t, execCommandCompletion s = .next t ∧ t.fixed = s.fixed := by
  refine ⟨_, rfl, ?_⟩
  repeat' (first
    | with_reducible rfl
    | (simp +zetaHave only [State.fixed_mk, State.fixed_eta, apply_ite State.fixed, apply_ite Prod.fst, ite_self, implies_true,
        apply_ite Rx.s, Rx.drop_s, apply_ite CmdOut.st, CmdOut.status_st, CmdOut.ok_st, CmdOut.done_st, CmdOut.wait_st,
        State.tapRun_fixed, State.tapRequest_fixed, State.pumpCmds_fixed]; done)
    | split
    | intro _
    | (dsimp +zetaHave only))

theorem execIrqCoalesceTimeout_fixed (s : State) : ∃ t, execIrqCoalesceTimeout s = .next t ∧ t.fixed = s.fixed := by
  refine ⟨_, rfl, ?_⟩
  repeat' (first
    | with_reducible rfl
    | (simp +zetaHave only [State.fixed_mk, State.fixed_eta, apply_ite State.fixed, apply_ite Prod.fst, ite_self, implies_true,
        apply_ite Rx.s, Rx.drop_s, apply_ite CmdOut.st, CmdOut.status_st, CmdOut.ok_st, CmdOut.done_st, CmdOut.wait_st,
        State.tapRun_fixed, State.tapRequest_fixed, State.irqTimeout_fixed]; done)
    | split
    | intro _
    | (dsimp +zetaHave only))

theorem execMemoryReadResponse_fixed (id : Nat) (bytes : List Nat) (bad : Bool) (s : State) : ∃ t, execMemoryReadResponse id bytes bad s = .next t ∧ t.fixed = s.fixed := by
  refine ⟨_, rfl, ?_⟩
  repeat' (first
    | with_reducible rfl
    | (simp +zetaHave only [State.fixed_mk, State.fixed_eta, apply_ite State.fixed, apply_ite Prod.fst, ite_self, implies_true,
        apply_ite Rx.s, Rx.drop_s, State.tapRun_fixed, State.tapRequest_fixed, State.readBeats_fixed]; done)
    | split
    | intro _
    | (dsimp +zetaHave only))

theorem execTranslationReadDone_fixed (id : Nat) (bytes : List Nat) (bad : Bool) (s : State) : ∃ t, execTranslationReadDone id bytes bad s = .next t ∧ t.fixed = s.fixed := by
  refine ⟨_, rfl, ?_⟩
  repeat' (first
    | with_reducible rfl
    | (simp +zetaHave only [State.fixed_mk, State.fixed_eta, apply_ite State.fixed, apply_ite Prod.fst, ite_self, implies_true,
        apply_ite Rx.s, Rx.drop_s, State.tapRun_fixed, State.tapRequest_fixed, State.readEnds_fixed]; done)
    | split
    | intro _
    | (dsimp +zetaHave only))

theorem execMemoryWriteAck_fixed (id : Nat) (err : Bool) (s : State) : ∃ t, execMemoryWriteAck id err s = .next t ∧ t.fixed = s.fixed := by
  refine ⟨_, rfl, ?_⟩
  repeat' (first
    | with_reducible rfl
    | (simp +zetaHave only [State.fixed_mk, State.fixed_eta, apply_ite State.fixed, apply_ite Prod.fst, ite_self, implies_true,
        apply_ite Rx.s, Rx.drop_s, State.tapRun_fixed, State.tapRequest_fixed, State.writeEnds_fixed]; done)
    | split
    | intro _
    | (dsimp +zetaHave only))

theorem execMemoryTimeout_fixed (s : State) : ∃ t, execMemoryTimeout s = .next t ∧ t.fixed = s.fixed := by
  refine ⟨_, rfl, ?_⟩
  repeat' (first
    | with_reducible rfl
    | (simp +zetaHave only [State.fixed_mk, State.fixed_eta, apply_ite State.fixed, apply_ite Prod.fst, ite_self, implies_true,
        apply_ite Rx.s, Rx.drop_s, State.tapRun_fixed, State.tapRequest_fixed, State.memTimeouts_fixed]; done)
    | split
    | intro _
    | (dsimp +zetaHave only))

theorem execInternalParityFailure_fixed (f : ParityAt) (s : State) : ∃ t, execInternalParityFailure f s = .next t ∧ t.fixed = s.fixed := by
  cases f <;> refine ⟨_, rfl, ?_⟩
  all_goals
   repeat' (first
    | with_reducible rfl
    | (simp +zetaHave only [State.fixed_mk, State.fixed_eta, apply_ite State.fixed, apply_ite Prod.fst, ite_self, implies_true,
        apply_ite Rx.s, Rx.drop_s, State.count_fixed, State.stampRecord_fixed, State.contained_fixed,
        State.uncontained_fixed, State.tapRun_fixed, State.dropWord_fixed, State.tapRequest_fixed,
        State.badSlot_fixed, State.badCounter_fixed, State.badLog_fixed, State.badStamp_fixed,
        State.badReplay_fixed, State.badTranslation_fixed, State.zeroRead_fixed]; done)
    | split
    | intro _
    | (dsimp +zetaHave only))

theorem execFirmwareTrap_fixed (s : State) : ∃ t, execFirmwareTrap s = .next t ∧ t.fixed = s.fixed := by
  refine ⟨_, rfl, ?_⟩
  repeat' (first
    | with_reducible rfl
    | (simp +zetaHave only [State.fixed_mk, State.fixed_eta, apply_ite State.fixed, apply_ite Prod.fst, ite_self, implies_true,
        apply_ite Rx.s, Rx.drop_s, State.underlayCause_fixed, State.tapRun_fixed, State.tapRequest_fixed]; done)
    | split
    | intro _
    | (dsimp +zetaHave only))

theorem execUnderlayEntry_fixed (s : State) : ∃ t, execUnderlayEntry s = .next t ∧ t.fixed = s.fixed := by
  refine ⟨_, rfl, ?_⟩
  repeat' (first
    | with_reducible rfl
    | (simp +zetaHave only [State.fixed_mk, State.fixed_eta, apply_ite State.fixed, apply_ite Prod.fst, ite_self, implies_true,
        apply_ite Rx.s, Rx.drop_s, State.tapRun_fixed, State.tapRequest_fixed, State.underlayBoundary_fixed]; done)
    | split
    | intro _
    | (dsimp +zetaHave only))

theorem execUnderlayExit_fixed (s : State) : ∃ t, execUnderlayExit s = .next t ∧ t.fixed = s.fixed := by
  refine ⟨_, rfl, ?_⟩
  repeat' (first
    | with_reducible rfl
    | (simp +zetaHave only [State.fixed_mk, State.fixed_eta, apply_ite State.fixed, apply_ite Prod.fst, ite_self, implies_true,
        apply_ite Rx.s, Rx.drop_s, State.tapRun_fixed, State.tapRequest_fixed, State.underlayExit_fixed]; done)
    | split
    | intro _
    | (dsimp +zetaHave only))

theorem execRegisterWrite_fixed (m : Master) (off : Nat) (width : Nat) (value : Nat) (s : State) : ∃ t, execRegisterWrite m off width value s = .next t ∧ t.fixed = s.fixed := by
  refine ⟨_, rfl, ?_⟩
  repeat' (first
    | with_reducible rfl
    | (simp +zetaHave only [State.fixed_mk, State.fixed_eta, apply_ite State.fixed, apply_ite Prod.fst, ite_self, implies_true,
        apply_ite Rx.s, Rx.drop_s, State.tapRun_fixed, State.tapRequest_fixed, State.writeBy_fixed]; done)
    | split
    | intro _
    | (dsimp +zetaHave only))

theorem execTdNowNsRead_fixed (m : Master) (s : State) : ∃ t, execTdNowNsRead m s = .next t ∧ t.fixed = s.fixed := by
  refine ⟨_, rfl, ?_⟩
  repeat' (first
    | with_reducible rfl
    | (simp +zetaHave only [State.fixed_mk, State.fixed_eta, apply_ite State.fixed, apply_ite Prod.fst, ite_self, implies_true,
        apply_ite Rx.s, Rx.drop_s, State.tapRun_fixed, State.tapRequest_fixed, State.readBy_fixed]; done)
    | split
    | intro _
    | (dsimp +zetaHave only))

theorem execPfStampLoRead_fixed (m : Master) (p : Nat) (s : State) : ∃ t, execPfStampLoRead m p s = .next t ∧ t.fixed = s.fixed := by
  refine ⟨_, rfl, ?_⟩
  repeat' (first
    | with_reducible rfl
    | (simp +zetaHave only [State.fixed_mk, State.fixed_eta, apply_ite State.fixed, apply_ite Prod.fst, ite_self, implies_true,
        apply_ite Rx.s, Rx.drop_s, State.tapRun_fixed, State.tapRequest_fixed, State.readBy_fixed]; done)
    | split
    | intro _
    | (dsimp +zetaHave only))

theorem execImSkCountRead_fixed (m : Master) (k : Nat) (s : State) : ∃ t, execImSkCountRead m k s = .next t ∧ t.fixed = s.fixed := by
  refine ⟨_, rfl, ?_⟩
  repeat' (first
    | with_reducible rfl
    | (simp +zetaHave only [State.fixed_mk, State.fixed_eta, apply_ite State.fixed, apply_ite Prod.fst, ite_self, implies_true,
        apply_ite Rx.s, Rx.drop_s, State.tapRun_fixed, State.tapRequest_fixed, State.readBy_fixed]; done)
    | split
    | intro _
    | (dsimp +zetaHave only))

theorem execImRawLoRead_fixed (m : Master) (s : State) : ∃ t, execImRawLoRead m s = .next t ∧ t.fixed = s.fixed := by
  refine ⟨_, rfl, ?_⟩
  repeat' (first
    | with_reducible rfl
    | (simp +zetaHave only [State.fixed_mk, State.fixed_eta, apply_ite State.fixed, apply_ite Prod.fst, ite_self, implies_true,
        apply_ite Rx.s, Rx.drop_s, State.tapRun_fixed, State.tapRequest_fixed, State.readBy_fixed]; done)
    | split
    | intro _
    | (dsimp +zetaHave only))

theorem execOdWindowRead_fixed (m : Master) (off : Nat) (s : State) : ∃ t, execOdWindowRead m off s = .next t ∧ t.fixed = s.fixed := by
  refine ⟨_, rfl, ?_⟩
  repeat' (first
    | with_reducible rfl
    | (simp +zetaHave only [State.fixed_mk, State.fixed_eta, apply_ite State.fixed, apply_ite Prod.fst, ite_self, implies_true,
        apply_ite Rx.s, Rx.drop_s, State.tapRun_fixed, State.tapRequest_fixed, State.readBy_fixed]; done)
    | split
    | intro _
    | (dsimp +zetaHave only))

theorem execPortEnable_fixed (p : Nat) (v : Nat) (s : State) : ∃ t, execPortEnable p v s = .next t ∧ t.fixed = s.fixed := by
  refine ⟨_, rfl, ?_⟩
  repeat' (first
    | with_reducible rfl
    | (simp +zetaHave only [State.fixed_mk, State.fixed_eta, apply_ite State.fixed, apply_ite Prod.fst, ite_self, implies_true,
        apply_ite Rx.s, Rx.drop_s, State.tapRun_fixed, State.tapRequest_fixed, State.writeBy_fixed]; done)
    | split
    | intro _
    | (dsimp +zetaHave only))

theorem execPortDisable_fixed (p : Nat) (v : Nat) (s : State) : ∃ t, execPortDisable p v s = .next t ∧ t.fixed = s.fixed := by
  refine ⟨_, rfl, ?_⟩
  repeat' (first
    | with_reducible rfl
    | (simp +zetaHave only [State.fixed_mk, State.fixed_eta, apply_ite State.fixed, apply_ite Prod.fst, ite_self, implies_true,
        apply_ite Rx.s, Rx.drop_s, State.tapRun_fixed, State.tapRequest_fixed, State.writeBy_fixed]; done)
    | split
    | intro _
    | (dsimp +zetaHave only))

theorem execPortConstantsWrite_fixed (p : Nat) (which : Nat) (v : Nat) (s : State) : ∃ t, execPortConstantsWrite p which v s = .next t ∧ t.fixed = s.fixed := by
  refine ⟨_, rfl, ?_⟩
  repeat' (first
    | with_reducible rfl
    | (simp +zetaHave only [State.fixed_mk, State.fixed_eta, apply_ite State.fixed, apply_ite Prod.fst, ite_self, implies_true,
        apply_ite Rx.s, Rx.drop_s, State.tapRun_fixed, State.tapRequest_fixed, State.writeBy_fixed]; done)
    | split
    | intro _
    | (dsimp +zetaHave only))

theorem execTpDebtClr_fixed (v : Nat) (s : State) : ∃ t, execTpDebtClr v s = .next t ∧ t.fixed = s.fixed := by
  refine ⟨_, rfl, ?_⟩
  repeat' (first
    | with_reducible rfl
    | (simp +zetaHave only [State.fixed_mk, State.fixed_eta, apply_ite State.fixed, apply_ite Prod.fst, ite_self, implies_true,
        apply_ite Rx.s, Rx.drop_s, State.tapRun_fixed, State.tapRequest_fixed, State.writeBy_fixed]; done)
    | split
    | intro _
    | (dsimp +zetaHave only))

theorem execProfileWrite_fixed (off : Nat) (v : Nat) (s : State) : ∃ t, execProfileWrite off v s = .next t ∧ t.fixed = s.fixed := by
  refine ⟨_, rfl, ?_⟩
  repeat' (first
    | with_reducible rfl
    | (simp +zetaHave only [State.fixed_mk, State.fixed_eta, apply_ite State.fixed, apply_ite Prod.fst, ite_self, implies_true,
        apply_ite Rx.s, Rx.drop_s, State.tapRun_fixed, State.tapRequest_fixed, State.writeBy_fixed]; done)
    | split
    | intro _
    | (dsimp +zetaHave only))

theorem execOvenUseWrite_fixed (v : Nat) (s : State) : ∃ t, execOvenUseWrite v s = .next t ∧ t.fixed = s.fixed := by
  refine ⟨_, rfl, ?_⟩
  repeat' (first
    | with_reducible rfl
    | (simp +zetaHave only [State.fixed_mk, State.fixed_eta, apply_ite State.fixed, apply_ite Prod.fst, ite_self, implies_true,
        apply_ite Rx.s, Rx.drop_s, State.tapRun_fixed, State.tapRequest_fixed, State.writeBy_fixed]; done)
    | split
    | intro _
    | (dsimp +zetaHave only))

theorem execCgClkoutWrite_fixed (v : Nat) (s : State) : ∃ t, execCgClkoutWrite v s = .next t ∧ t.fixed = s.fixed := by
  refine ⟨_, rfl, ?_⟩
  repeat' (first
    | with_reducible rfl
    | (simp +zetaHave only [State.fixed_mk, State.fixed_eta, apply_ite State.fixed, apply_ite Prod.fst, ite_self, implies_true,
        apply_ite Rx.s, Rx.drop_s, State.tapRun_fixed, State.tapRequest_fixed, State.writeBy_fixed]; done)
    | split
    | intro _
    | (dsimp +zetaHave only))

theorem execBattenEnable_fixed (s : State) : ∃ t, execBattenEnable s = .next t ∧ t.fixed = s.fixed := by
  refine ⟨_, rfl, ?_⟩
  repeat' (first
    | with_reducible rfl
    | (simp +zetaHave only [State.fixed_mk, State.fixed_eta, apply_ite State.fixed, apply_ite Prod.fst, ite_self, implies_true,
        apply_ite Rx.s, Rx.drop_s, State.tapRun_fixed, State.tapRequest_fixed, State.writeBy_fixed]; done)
    | split
    | intro _
    | (dsimp +zetaHave only))

theorem execBattenDisable_fixed (s : State) : ∃ t, execBattenDisable s = .next t ∧ t.fixed = s.fixed := by
  refine ⟨_, rfl, ?_⟩
  repeat' (first
    | with_reducible rfl
    | (simp +zetaHave only [State.fixed_mk, State.fixed_eta, apply_ite State.fixed, apply_ite Prod.fst, ite_self, implies_true,
        apply_ite Rx.s, Rx.drop_s, State.tapRun_fixed, State.tapRequest_fixed, State.writeBy_fixed]; done)
    | split
    | intro _
    | (dsimp +zetaHave only))

theorem execBattenRecal_fixed (s : State) : ∃ t, execBattenRecal s = .next t ∧ t.fixed = s.fixed := by
  refine ⟨_, rfl, ?_⟩
  repeat' (first
    | with_reducible rfl
    | (simp +zetaHave only [State.fixed_mk, State.fixed_eta, apply_ite State.fixed, apply_ite Prod.fst, ite_self, implies_true,
        apply_ite Rx.s, Rx.drop_s, State.tapRun_fixed, State.tapRequest_fixed, State.writeBy_fixed]; done)
    | split
    | intro _
    | (dsimp +zetaHave only))

theorem execPadRecal_fixed (s : State) : ∃ t, execPadRecal s = .next t ∧ t.fixed = s.fixed := by
  refine ⟨_, rfl, ?_⟩
  repeat' (first
    | with_reducible rfl
    | (simp +zetaHave only [State.fixed_mk, State.fixed_eta, apply_ite State.fixed, apply_ite Prod.fst, ite_self, implies_true,
        apply_ite Rx.s, Rx.drop_s, State.tapRun_fixed, State.tapRequest_fixed, State.writeBy_fixed]; done)
    | split
    | intro _
    | (dsimp +zetaHave only))

theorem execImArm_fixed (s : State) : ∃ t, execImArm s = .next t ∧ t.fixed = s.fixed := by
  refine ⟨_, rfl, ?_⟩
  repeat' (first
    | with_reducible rfl
    | (simp +zetaHave only [State.fixed_mk, State.fixed_eta, apply_ite State.fixed, apply_ite Prod.fst, ite_self, implies_true,
        apply_ite Rx.s, Rx.drop_s, State.tapRun_fixed, State.tapRequest_fixed, State.writeBy_fixed]; done)
    | split
    | intro _
    | (dsimp +zetaHave only))

theorem execImAbort_fixed (s : State) : ∃ t, execImAbort s = .next t ∧ t.fixed = s.fixed := by
  refine ⟨_, rfl, ?_⟩
  repeat' (first
    | with_reducible rfl
    | (simp +zetaHave only [State.fixed_mk, State.fixed_eta, apply_ite State.fixed, apply_ite Prod.fst, ite_self, implies_true,
        apply_ite Rx.s, Rx.drop_s, State.tapRun_fixed, State.tapRequest_fixed, State.writeBy_fixed]; done)
    | split
    | intro _
    | (dsimp +zetaHave only))

theorem execImGo_fixed (s : State) : ∃ t, execImGo s = .next t ∧ t.fixed = s.fixed := by
  refine ⟨_, rfl, ?_⟩
  repeat' (first
    | with_reducible rfl
    | (simp +zetaHave only [State.fixed_mk, State.fixed_eta, apply_ite State.fixed, apply_ite Prod.fst, ite_self, implies_true,
        apply_ite Rx.s, Rx.drop_s, State.tapRun_fixed, State.tapRequest_fixed, State.writeBy_fixed]; done)
    | split
    | intro _
    | (dsimp +zetaHave only))

theorem execImModeWrite_fixed (on : Bool) (s : State) : ∃ t, execImModeWrite on s = .next t ∧ t.fixed = s.fixed := by
  refine ⟨_, rfl, ?_⟩
  repeat' (first
    | with_reducible rfl
    | (simp +zetaHave only [State.fixed_mk, State.fixed_eta, apply_ite State.fixed, apply_ite Prod.fst, ite_self, implies_true,
        apply_ite Rx.s, Rx.drop_s, State.tapRun_fixed, State.tapRequest_fixed, State.writeBy_fixed]; done)
    | split
    | intro _
    | (dsimp +zetaHave only))

theorem execZcStart_fixed (s : State) : ∃ t, execZcStart s = .next t ∧ t.fixed = s.fixed := by
  refine ⟨_, rfl, ?_⟩
  repeat' (first
    | with_reducible rfl
    | (simp +zetaHave only [State.fixed_mk, State.fixed_eta, apply_ite State.fixed, apply_ite Prod.fst, ite_self, implies_true,
        apply_ite Rx.s, Rx.drop_s, State.tapRun_fixed, State.tapRequest_fixed, State.writeBy_fixed]; done)
    | split
    | intro _
    | (dsimp +zetaHave only))

theorem execZcClr_fixed (s : State) : ∃ t, execZcClr s = .next t ∧ t.fixed = s.fixed := by
  refine ⟨_, rfl, ?_⟩
  repeat' (first
    | with_reducible rfl
    | (simp +zetaHave only [State.fixed_mk, State.fixed_eta, apply_ite State.fixed, apply_ite Prod.fst, ite_self, implies_true,
        apply_ite Rx.s, Rx.drop_s, State.tapRun_fixed, State.tapRequest_fixed, State.writeBy_fixed]; done)
    | split
    | intro _
    | (dsimp +zetaHave only))

theorem execProgramStoreWrite_fixed (idx : Nat) (w : Nat) (s : State) : ∃ t, execProgramStoreWrite idx w s = .next t ∧ t.fixed = s.fixed := by
  refine ⟨_, rfl, ?_⟩
  repeat' (first
    | with_reducible rfl
    | (simp +zetaHave only [State.fixed_mk, State.fixed_eta, apply_ite State.fixed, apply_ite Prod.fst, ite_self, implies_true,
        apply_ite Rx.s, Rx.drop_s, State.tapRun_fixed, State.tapRequest_fixed, State.writeBy_fixed]; done)
    | split
    | intro _
    | (dsimp +zetaHave only))

theorem execPulseOutputEnable_fixed (out : Nat) (s : State) : ∃ t, execPulseOutputEnable out s = .next t ∧ t.fixed = s.fixed := by
  refine ⟨_, rfl, ?_⟩
  repeat' (first
    | with_reducible rfl
    | (simp +zetaHave only [State.fixed_mk, State.fixed_eta, apply_ite State.fixed, apply_ite Prod.fst, ite_self, implies_true,
        apply_ite Rx.s, Rx.drop_s, State.tapRun_fixed, State.tapRequest_fixed, State.writeBy_fixed]; done)
    | split
    | intro _
    | (dsimp +zetaHave only))

theorem execPeriodicModeSet_fixed (out : Nat) (s : State) : ∃ t, execPeriodicModeSet out s = .next t ∧ t.fixed = s.fixed := by
  refine ⟨_, rfl, ?_⟩
  repeat' (first
    | with_reducible rfl
    | (simp +zetaHave only [State.fixed_mk, State.fixed_eta, apply_ite State.fixed, apply_ite Prod.fst, ite_self, implies_true,
        apply_ite Rx.s, Rx.drop_s, State.tapRun_fixed, State.tapRequest_fixed, State.writeBy_fixed]; done)
    | split
    | intro _
    | (dsimp +zetaHave only))

theorem execRsCandnCfgWrite_fixed (n : Nat) (v : Nat) (s : State) : ∃ t, execRsCandnCfgWrite n v s = .next t ∧ t.fixed = s.fixed := by
  refine ⟨_, rfl, ?_⟩
  repeat' (first
    | with_reducible rfl
    | (simp +zetaHave only [State.fixed_mk, State.fixed_eta, apply_ite State.fixed, apply_ite Prod.fst, ite_self, implies_true,
        apply_ite Rx.s, Rx.drop_s, State.tapRun_fixed, State.tapRequest_fixed, State.writeBy_fixed]; done)
    | split
    | intro _
    | (dsimp +zetaHave only))

theorem execRsCandnDelayWrite_fixed (n : Nat) (v : Nat) (s : State) : ∃ t, execRsCandnDelayWrite n v s = .next t ∧ t.fixed = s.fixed := by
  refine ⟨_, rfl, ?_⟩
  repeat' (first
    | with_reducible rfl
    | (simp +zetaHave only [State.fixed_mk, State.fixed_eta, apply_ite State.fixed, apply_ite Prod.fst, ite_self, implies_true,
        apply_ite Rx.s, Rx.drop_s, State.tapRun_fixed, State.tapRequest_fixed, State.writeBy_fixed]; done)
    | split
    | intro _
    | (dsimp +zetaHave only))

theorem execHfWdogKick_fixed (m : Master) (v : Nat) (s : State) : ∃ t, execHfWdogKick m v s = .next t ∧ t.fixed = s.fixed := by
  refine ⟨_, rfl, ?_⟩
  repeat' (first
    | with_reducible rfl
    | (simp +zetaHave only [State.fixed_mk, State.fixed_eta, apply_ite State.fixed, apply_ite Prod.fst, ite_self, implies_true,
        apply_ite Rx.s, Rx.drop_s, State.tapRun_fixed, State.tapRequest_fixed, State.writeBy_fixed]; done)
    | split
    | intro _
    | (dsimp +zetaHave only))

theorem execHfUlEnter_fixed (s : State) : ∃ t, execHfUlEnter s = .next t ∧ t.fixed = s.fixed := by
  refine ⟨_, rfl, ?_⟩
  repeat' (first
    | with_reducible rfl
    | (simp +zetaHave only [State.fixed_mk, State.fixed_eta, apply_ite State.fixed, apply_ite Prod.fst, ite_self, implies_true,
        apply_ite Rx.s, Rx.drop_s, State.tapRun_fixed, State.tapRequest_fixed, State.writeBy_fixed]; done)
    | split
    | intro _
    | (dsimp +zetaHave only))

theorem execHfUlExit_fixed (s : State) : ∃ t, execHfUlExit s = .next t ∧ t.fixed = s.fixed := by
  refine ⟨_, rfl, ?_⟩
  repeat' (first
    | with_reducible rfl
    | (simp +zetaHave only [State.fixed_mk, State.fixed_eta, apply_ite State.fixed, apply_ite Prod.fst, ite_self, implies_true,
        apply_ite Rx.s, Rx.drop_s, State.tapRun_fixed, State.tapRequest_fixed, State.writeBy_fixed]; done)
    | split
    | intro _
    | (dsimp +zetaHave only))

theorem execGcIrqSet_fixed (v : Nat) (s : State) : ∃ t, execGcIrqSet v s = .next t ∧ t.fixed = s.fixed := by
  refine ⟨_, rfl, ?_⟩
  repeat' (first
    | with_reducible rfl
    | (simp +zetaHave only [State.fixed_mk, State.fixed_eta, apply_ite State.fixed, apply_ite Prod.fst, ite_self, implies_true,
        apply_ite Rx.s, Rx.drop_s, State.tapRun_fixed, State.tapRequest_fixed, State.writeBy_fixed]; done)
    | split
    | intro _
    | (dsimp +zetaHave only))

theorem execCommandHandover_fixed (slot : Nat) (header : Nat) (s : State) : ∃ t, execCommandHandover slot header s = .next t ∧ t.fixed = s.fixed := by
  refine ⟨_, rfl, ?_⟩
  repeat' (first
    | with_reducible rfl
    | (simp +zetaHave only [State.fixed_mk, State.fixed_eta, apply_ite State.fixed, apply_ite Prod.fst, ite_self, implies_true,
        apply_ite Rx.s, Rx.drop_s, State.tapRun_fixed, State.tapRequest_fixed, State.writeBy_fixed]; done)
    | split
    | intro _
    | (dsimp +zetaHave only))

theorem execCpHostHb_fixed (s : State) : ∃ t, execCpHostHb s = .next t ∧ t.fixed = s.fixed := by
  refine ⟨_, rfl, ?_⟩
  repeat' (first
    | with_reducible rfl
    | (simp +zetaHave only [State.fixed_mk, State.fixed_eta, apply_ite State.fixed, apply_ite Prod.fst, ite_self, implies_true,
        apply_ite Rx.s, Rx.drop_s, State.tapRun_fixed, State.tapRequest_fixed, State.writeBy_fixed]; done)
    | split
    | intro _
    | (dsimp +zetaHave only))

theorem execRingEnable_fixed (v : Nat) (s : State) : ∃ t, execRingEnable v s = .next t ∧ t.fixed = s.fixed := by
  refine ⟨_, rfl, ?_⟩
  repeat' (first
    | with_reducible rfl
    | (simp +zetaHave only [State.fixed_mk, State.fixed_eta, apply_ite State.fixed, apply_ite Prod.fst, ite_self, implies_true,
        apply_ite Rx.s, Rx.drop_s, State.tapRun_fixed, State.tapRequest_fixed, State.writeBy_fixed]; done)
    | split
    | intro _
    | (dsimp +zetaHave only))

theorem execCpOwnWrite_fixed (m : Master) (v : Nat) (s : State) : ∃ t, execCpOwnWrite m v s = .next t ∧ t.fixed = s.fixed := by
  refine ⟨_, rfl, ?_⟩
  repeat' (first
    | with_reducible rfl
    | (simp +zetaHave only [State.fixed_mk, State.fixed_eta, apply_ite State.fixed, apply_ite Prod.fst, ite_self, implies_true,
        apply_ite Rx.s, Rx.drop_s, State.tapRun_fixed, State.tapRequest_fixed, State.writeBy_fixed]; done)
    | split
    | intro _
    | (dsimp +zetaHave only))

theorem execPfCntClr_fixed (p : Nat) (s : State) : ∃ t, execPfCntClr p s = .next t ∧ t.fixed = s.fixed := by
  refine ⟨_, rfl, ?_⟩
  repeat' (first
    | with_reducible rfl
    | (simp +zetaHave only [State.fixed_mk, State.fixed_eta, apply_ite State.fixed, apply_ite Prod.fst, ite_self, implies_true,
        apply_ite Rx.s, Rx.drop_s, State.tapRun_fixed, State.tapRequest_fixed, State.writeBy_fixed]; done)
    | split
    | intro _
    | (dsimp +zetaHave only))

theorem execTdCntClr_fixed (s : State) : ∃ t, execTdCntClr s = .next t ∧ t.fixed = s.fixed := by
  refine ⟨_, rfl, ?_⟩
  repeat' (first
    | with_reducible rfl
    | (simp +zetaHave only [State.fixed_mk, State.fixed_eta, apply_ite State.fixed, apply_ite Prod.fst, ite_self, implies_true,
        apply_ite Rx.s, Rx.drop_s, State.tapRun_fixed, State.tapRequest_fixed, State.writeBy_fixed]; done)
    | split
    | intro _
    | (dsimp +zetaHave only))

theorem execRsCntClr_fixed (s : State) : ∃ t, execRsCntClr s = .next t ∧ t.fixed = s.fixed := by
  refine ⟨_, rfl, ?_⟩
  repeat' (first
    | with_reducible rfl
    | (simp +zetaHave only [State.fixed_mk, State.fixed_eta, apply_ite State.fixed, apply_ite Prod.fst, ite_self, implies_true,
        apply_ite Rx.s, Rx.drop_s, State.tapRun_fixed, State.tapRequest_fixed, State.writeBy_fixed]; done)
    | split
    | intro _
    | (dsimp +zetaHave only))

theorem execCgCntClr_fixed (s : State) : ∃ t, execCgCntClr s = .next t ∧ t.fixed = s.fixed := by
  refine ⟨_, rfl, ?_⟩
  repeat' (first
    | with_reducible rfl
    | (simp +zetaHave only [State.fixed_mk, State.fixed_eta, apply_ite State.fixed, apply_ite Prod.fst, ite_self, implies_true,
        apply_ite Rx.s, Rx.drop_s, State.tapRun_fixed, State.tapRequest_fixed, State.writeBy_fixed]; done)
    | split
    | intro _
    | (dsimp +zetaHave only))

theorem execBtCntClr_fixed (s : State) : ∃ t, execBtCntClr s = .next t ∧ t.fixed = s.fixed := by
  refine ⟨_, rfl, ?_⟩
  repeat' (first
    | with_reducible rfl
    | (simp +zetaHave only [State.fixed_mk, State.fixed_eta, apply_ite State.fixed, apply_ite Prod.fst, ite_self, implies_true,
        apply_ite Rx.s, Rx.drop_s, State.tapRun_fixed, State.tapRequest_fixed, State.writeBy_fixed]; done)
    | split
    | intro _
    | (dsimp +zetaHave only))

theorem execImCntClr_fixed (s : State) : ∃ t, execImCntClr s = .next t ∧ t.fixed = s.fixed := by
  refine ⟨_, rfl, ?_⟩
  repeat' (first
    | with_reducible rfl
    | (simp +zetaHave only [State.fixed_mk, State.fixed_eta, apply_ite State.fixed, apply_ite Prod.fst, ite_self, implies_true,
        apply_ite Rx.s, Rx.drop_s, State.tapRun_fixed, State.tapRequest_fixed, State.writeBy_fixed]; done)
    | split
    | intro _
    | (dsimp +zetaHave only))

theorem execSqCntClr_fixed (s : State) : ∃ t, execSqCntClr s = .next t ∧ t.fixed = s.fixed := by
  refine ⟨_, rfl, ?_⟩
  repeat' (first
    | with_reducible rfl
    | (simp +zetaHave only [State.fixed_mk, State.fixed_eta, apply_ite State.fixed, apply_ite Prod.fst, ite_self, implies_true,
        apply_ite Rx.s, Rx.drop_s, State.tapRun_fixed, State.tapRequest_fixed, State.writeBy_fixed]; done)
    | split
    | intro _
    | (dsimp +zetaHave only))

theorem execOdCntClr_fixed (s : State) : ∃ t, execOdCntClr s = .next t ∧ t.fixed = s.fixed := by
  refine ⟨_, rfl, ?_⟩
  repeat' (first
    | with_reducible rfl
    | (simp +zetaHave only [State.fixed_mk, State.fixed_eta, apply_ite State.fixed, apply_ite Prod.fst, ite_self, implies_true,
        apply_ite Rx.s, Rx.drop_s, State.tapRun_fixed, State.tapRequest_fixed, State.writeBy_fixed]; done)
    | split
    | intro _
    | (dsimp +zetaHave only))

theorem execCeCntClr_fixed (s : State) : ∃ t, execCeCntClr s = .next t ∧ t.fixed = s.fixed := by
  refine ⟨_, rfl, ?_⟩
  repeat' (first
    | with_reducible rfl
    | (simp +zetaHave only [State.fixed_mk, State.fixed_eta, apply_ite State.fixed, apply_ite Prod.fst, ite_self, implies_true,
        apply_ite Rx.s, Rx.drop_s, State.tapRun_fixed, State.tapRequest_fixed, State.writeBy_fixed]; done)
    | split
    | intro _
    | (dsimp +zetaHave only))

theorem execTpCntClr_fixed (s : State) : ∃ t, execTpCntClr s = .next t ∧ t.fixed = s.fixed := by
  refine ⟨_, rfl, ?_⟩
  repeat' (first
    | with_reducible rfl
    | (simp +zetaHave only [State.fixed_mk, State.fixed_eta, apply_ite State.fixed, apply_ite Prod.fst, ite_self, implies_true,
        apply_ite Rx.s, Rx.drop_s, State.tapRun_fixed, State.tapRequest_fixed, State.writeBy_fixed]; done)
    | split
    | intro _
    | (dsimp +zetaHave only))

theorem execHfCntClr_fixed (s : State) : ∃ t, execHfCntClr s = .next t ∧ t.fixed = s.fixed := by
  refine ⟨_, rfl, ?_⟩
  repeat' (first
    | with_reducible rfl
    | (simp +zetaHave only [State.fixed_mk, State.fixed_eta, apply_ite State.fixed, apply_ite Prod.fst, ite_self, implies_true,
        apply_ite Rx.s, Rx.drop_s, State.tapRun_fixed, State.tapRequest_fixed, State.writeBy_fixed]; done)
    | split
    | intro _
    | (dsimp +zetaHave only))

theorem execPwCntClr_fixed (s : State) : ∃ t, execPwCntClr s = .next t ∧ t.fixed = s.fixed := by
  refine ⟨_, rfl, ?_⟩
  repeat' (first
    | with_reducible rfl
    | (simp +zetaHave only [State.fixed_mk, State.fixed_eta, apply_ite State.fixed, apply_ite Prod.fst, ite_self, implies_true,
        apply_ite Rx.s, Rx.drop_s, State.tapRun_fixed, State.tapRequest_fixed, State.writeBy_fixed]; done)
    | split
    | intro _
    | (dsimp +zetaHave only))

theorem execCpCntClr_fixed (s : State) : ∃ t, execCpCntClr s = .next t ∧ t.fixed = s.fixed := by
  refine ⟨_, rfl, ?_⟩
  repeat' (first
    | with_reducible rfl
    | (simp +zetaHave only [State.fixed_mk, State.fixed_eta, apply_ite State.fixed, apply_ite Prod.fst, ite_self, implies_true,
        apply_ite Rx.s, Rx.drop_s, State.tapRun_fixed, State.tapRequest_fixed, State.writeBy_fixed]; done)
    | split
    | intro _
    | (dsimp +zetaHave only))

theorem execGcCntClr_fixed (s : State) : ∃ t, execGcCntClr s = .next t ∧ t.fixed = s.fixed := by
  refine ⟨_, rfl, ?_⟩
  repeat' (first
    | with_reducible rfl
    | (simp +zetaHave only [State.fixed_mk, State.fixed_eta, apply_ite State.fixed, apply_ite Prod.fst, ite_self, implies_true,
        apply_ite Rx.s, Rx.drop_s, State.tapRun_fixed, State.tapRequest_fixed, State.writeBy_fixed]; done)
    | split
    | intro _
    | (dsimp +zetaHave only))

theorem execHostRequest_fixed (a : Access) (parityOk : Bool) (s : State) : ∃ t, execHostRequest a parityOk s = .next t ∧ t.fixed = s.fixed := by
  refine ⟨_, rfl, ?_⟩
  repeat' (first
    | with_reducible rfl
    | (simp +zetaHave only [State.fixed_mk, State.fixed_eta, apply_ite State.fixed, apply_ite Prod.fst, ite_self, implies_true,
        apply_ite Rx.s, Rx.drop_s, State.tapRun_fixed, State.tapRequest_fixed, State.hostRequest_fixed]; done)
    | split
    | intro _
    | (dsimp +zetaHave only))

theorem execHostPortReset_fixed (s : State) : ∃ t, execHostPortReset s = .next t ∧ t.fixed = s.fixed := by
  refine ⟨_, rfl, ?_⟩
  repeat' (first
    | with_reducible rfl
    | (simp +zetaHave only [State.fixed_mk, State.fixed_eta, apply_ite State.fixed, apply_ite Prod.fst, ite_self, implies_true,
        apply_ite Rx.s, Rx.drop_s, State.tapRun_fixed, State.tapRequest_fixed, State.hostReset_fixed]; done)
    | split
    | intro _
    | (dsimp +zetaHave only))

theorem execHostPortResetRelease_fixed (s : State) : ∃ t, execHostPortResetRelease s = .next t ∧ t.fixed = s.fixed := by
  refine ⟨_, rfl, ?_⟩
  repeat' (first
    | with_reducible rfl
    | (simp +zetaHave only [State.fixed_mk, State.fixed_eta, apply_ite State.fixed, apply_ite Prod.fst, ite_self, implies_true,
        apply_ite Rx.s, Rx.drop_s, State.tapRun_fixed, State.tapRequest_fixed]; done)
    | split
    | intro _
    | (dsimp +zetaHave only))

theorem execHostHeartbeatTimeout_fixed (s : State) : ∃ t, execHostHeartbeatTimeout s = .next t ∧ t.fixed = s.fixed := by
  refine ⟨_, rfl, ?_⟩
  repeat' (first
    | with_reducible rfl
    | (simp +zetaHave only [State.fixed_mk, State.fixed_eta, apply_ite State.fixed, apply_ite Prod.fst, ite_self, implies_true,
        apply_ite Rx.s, Rx.drop_s, State.tapRun_fixed, State.tapRequest_fixed, State.heartbeatTimeout_fixed]; done)
    | split
    | intro _
    | (dsimp +zetaHave only))

theorem execSbMctpControl_fixed (cmd : Nat) (data : Nat) (s : State) : ∃ t, execSbMctpControl cmd data s = .next t ∧ t.fixed = s.fixed := by
  refine ⟨_, rfl, ?_⟩
  repeat' (first
    | with_reducible rfl
    | (simp +zetaHave only [State.fixed_mk, State.fixed_eta, apply_ite State.fixed, apply_ite Prod.fst, ite_self, implies_true,
        apply_ite Rx.s, Rx.drop_s, State.tapRun_fixed, State.tapRequest_fixed, State.sbMessage_fixed]; done)
    | split
    | intro _
    | (dsimp +zetaHave only))

theorem execSbCommandRequest_fixed (words : List Nat) (s : State) : ∃ t, execSbCommandRequest words s = .next t ∧ t.fixed = s.fixed := by
  refine ⟨_, rfl, ?_⟩
  repeat' (first
    | with_reducible rfl
    | (simp +zetaHave only [State.fixed_mk, State.fixed_eta, apply_ite State.fixed, apply_ite Prod.fst, ite_self, implies_true,
        apply_ite Rx.s, Rx.drop_s, State.tapRun_fixed, State.tapRequest_fixed, State.sbMessage_fixed]; done)
    | split
    | intro _
    | (dsimp +zetaHave only))

theorem execSbRegisterRead_fixed (off : Nat) (width : Nat) (s : State) : ∃ t, execSbRegisterRead off width s = .next t ∧ t.fixed = s.fixed := by
  refine ⟨_, rfl, ?_⟩
  repeat' (first
    | with_reducible rfl
    | (simp +zetaHave only [State.fixed_mk, State.fixed_eta, apply_ite State.fixed, apply_ite Prod.fst, ite_self, implies_true,
        apply_ite Rx.s, Rx.drop_s, State.tapRun_fixed, State.tapRequest_fixed, State.regRead_fixed,
        State.sbMessage_fixed]; done)
    | split
    | intro _
    | (dsimp +zetaHave only))

theorem execSbRegisterWrite_fixed (off : Nat) (width : Nat) (value : Nat) (s : State) : ∃ t, execSbRegisterWrite off width value s = .next t ∧ t.fixed = s.fixed := by
  refine ⟨_, rfl, ?_⟩
  repeat' (first
    | with_reducible rfl
    | (simp +zetaHave only [State.fixed_mk, State.fixed_eta, apply_ite State.fixed, apply_ite Prod.fst, ite_self, implies_true,
        apply_ite Rx.s, Rx.drop_s, State.tapRun_fixed, State.tapRequest_fixed, State.regWrite_fixed,
        State.sbMessage_fixed]; done)
    | split
    | intro _
    | (dsimp +zetaHave only))

theorem execSbPacketBad_fixed (pec : Bool) (s : State) : ∃ t, execSbPacketBad pec s = .next t ∧ t.fixed = s.fixed := by
  refine ⟨_, rfl, ?_⟩
  repeat' (first
    | with_reducible rfl
    | (simp +zetaHave only [State.fixed_mk, State.fixed_eta, apply_ite State.fixed, apply_ite Prod.fst, ite_self, implies_true,
        apply_ite Rx.s, Rx.drop_s, State.count_fixed, State.tapRun_fixed, State.tapRequest_fixed]; done)
    | split
    | intro _
    | (dsimp +zetaHave only))

end Sys2Proof.Machine
end

