-- ==== Sys2Proof/Laws/QuietBase.lean ====
section
/-! SUPPORT. Sys2Proof/Laws/QuietBase.lean: what the sending of frames and the collective engine leave alone, and how it passes through the ways in which
states are put together. -/

set_option linter.all false
set_option Elab.async false

namespace Sys2Proof.Machine
/-- What the sending of frames and the collective engine leave alone. -/
def State.quiet (s : State) := (s.hf, s.td, s.regs, s.rs, s.im, s.bt, s.ev, ({ s.sq with nodef := [] } : SeqUnit), s.od, s.gang, s.cp, s.home, s.root, s.topo, s.ties, s.clk, s.pw.st, s.mm, ({ s.ck with gates := 0 } : ClockGen))
theorem State.quiet_mk (ties ck clk td rs regs cnt irq ports root home topo ce od hf pw gang im bt sq ev mm cp did logWr out free pending) :
    (State.mk ties ck clk td rs regs cnt irq ports root home topo ce od hf pw gang im bt sq ev mm cp did logWr out free pending).quiet = (hf, td, regs, rs, im, bt, ev, ({ sq with nodef := [] } : SeqUnit), od, gang, cp, home, root, topo, ties, clk, pw.st, mm, ({ ck with gates := 0 } : ClockGen)) := (rfl)
theorem State.quiet_eta (s : State) : (s.hf, s.td, s.regs, s.rs, s.im, s.bt, s.ev, ({ s.sq with nodef := [] } : SeqUnit), s.od, s.gang, s.cp, s.home, s.root, s.topo, s.ties, s.clk, s.pw.st, s.mm, ({ s.ck with gates := 0 } : ClockGen)) = s.quiet := (rfl)
theorem State.foldl_quiet {α : Type} (s : State) (l : List α) (f : State → α → State) (h : ∀ s a, (f s a).quiet = s.quiet) :
    (l.foldl f s).quiet = s.quiet := by
  induction l generalizing s with
  | nil => rfl
  | cons a l ih => simp [List.foldl, ih, h]
theorem State.each_quiet (s : State) (l : List Nat) (f : State → Nat → State) (h : ∀ s n, (f s n).quiet = s.quiet) :
    (s.each l f).quiet = s.quiet := State.foldl_quiet s l f h
theorem State.foldl_fst_quiet {α β : Type} (a : State × α) (l : List β) (f : State × α → β → State × α)
    (h : ∀ a b, (f a b).1.quiet = a.1.quiet) : (l.foldl f a).1.quiet = a.1.quiet := by
  induction l generalizing a with
  | nil => rfl
  | cons b l ih => simp [List.foldl, ih, h]
end Sys2Proof.Machine
end

