-- ==== Sys2Proof/Laws/QuietOps.lean ====
section
/-! SUPPORT. Sys2Proof/Laws/QuietOps.lean: the operations of Machine/Ops.lean that leave it alone. -/

set_option linter.all false
set_option Elab.async false

namespace Sys2Proof.Machine
open Sys2Proof.Config
set_option linter.unusedSimpArgs false

theorem State.count_quiet (s : State) (off : Nat) (k : Nat) : (State.count s off k).quiet = s.quiet := by
  unfold State.count
  repeat' (first
    | with_reducible rfl
    | (simp +zetaHave only [State.quiet_mk, State.quiet_eta, apply_ite State.quiet, apply_ite Prod.fst, ite_self, implies_true]; done)
    | split
    | intro _
    | (dsimp +zetaHave only))

theorem State.clearCounters_quiet (s : State) (lo : Nat) (hi : Nat) : (State.clearCounters s lo hi).quiet = s.quiet := by
  unfold State.clearCounters
  repeat' (first
    | with_reducible rfl
    | (simp +zetaHave only [State.quiet_mk, State.quiet_eta, apply_ite State.quiet, apply_ite Prod.fst, ite_self, implies_true]; done)
    | split
    | intro _
    | (dsimp +zetaHave only))

theorem State.drawFree_quiet (s : State) : (State.drawFree s).1.quiet = s.quiet := by
  unfold State.drawFree
  repeat' (first
    | with_reducible rfl
    | (simp +zetaHave only [State.quiet_mk, State.quiet_eta, apply_ite State.quiet, apply_ite Prod.fst, ite_self, implies_true]; done)
    | split
    | intro _
    | (dsimp +zetaHave only))

theorem State.raise_quiet (s : State) (k : Nat) : (State.raise s k).quiet = s.quiet := by
  unfold State.raise
  repeat' (first
    | with_reducible rfl
    | (simp +zetaHave only [State.quiet_mk, State.quiet_eta, apply_ite State.quiet, apply_ite Prod.fst, ite_self, implies_true]; done)
    | split
    | intro _
    | (dsimp +zetaHave only))

theorem State.raiseIf_quiet (s : State) (c : Bool) (k : Nat) : (State.raiseIf s c k).quiet = s.quiet := by
  unfold State.raiseIf
  repeat' (first
    | with_reducible rfl
    | (simp +zetaHave only [State.quiet_mk, State.quiet_eta, apply_ite State.quiet, apply_ite Prod.fst, ite_self, implies_true,
        State.raise_quiet]; done)
    | split
    | intro _
    | (dsimp +zetaHave only))

theorem State.emit_quiet (s : State) (o : Output) : (State.emit s o).quiet = s.quiet := by
  unfold State.emit
  repeat' (first
    | with_reducible rfl
    | (simp +zetaHave only [State.quiet_mk, State.quiet_eta, apply_ite State.quiet, apply_ite Prod.fst, ite_self, implies_true]; done)
    | split
    | intro _
    | (dsimp +zetaHave only))

theorem State.evt_quiet (s : State) (line : Nat) (k : Nat) : (State.evt s line k).quiet = s.quiet := by
  unfold State.evt
  repeat' (first
    | with_reducible rfl
    | (simp +zetaHave only [State.quiet_mk, State.quiet_eta, apply_ite State.quiet, apply_ite Prod.fst, ite_self, implies_true,
        State.count_quiet, State.emit_quiet]; done)
    | split
    | intro _
    | (dsimp +zetaHave only))

theorem State.openGate_quiet (s : State) (k : Nat) : (State.openGate s k).quiet = s.quiet := by
  unfold State.openGate
  repeat' (first
    | with_reducible rfl
    | (simp +zetaHave only [State.quiet_mk, State.quiet_eta, apply_ite State.quiet, apply_ite Prod.fst, ite_self, implies_true,
        State.evt_quiet]; done)
    | split
    | intro _
    | (dsimp +zetaHave only))

theorem State.busy_quiet (s : State) : (State.busy s).quiet = s.quiet := by
  unfold State.busy
  repeat' (first
    | with_reducible rfl
    | (simp +zetaHave only [State.quiet_mk, State.quiet_eta, apply_ite State.quiet, apply_ite Prod.fst, ite_self, implies_true]; done)
    | split
    | intro _
    | (dsimp +zetaHave only))

theorem State.latchWake_quiet (s : State) (src : Nat) (arg : Nat) (req : Option HeldReq) : (State.latchWake s src arg req).quiet = s.quiet := by
  unfold State.latchWake
  repeat' (first
    | with_reducible rfl
    | (simp +zetaHave only [State.quiet_mk, State.quiet_eta, apply_ite State.quiet, apply_ite Prod.fst, ite_self, implies_true]; done)
    | split
    | intro _
    | (dsimp +zetaHave only))

theorem State.setPort_quiet (s : State) (p : Nat) (v : Port) : (State.setPort s p v).quiet = s.quiet := by
  unfold State.setPort
  repeat' (first
    | with_reducible rfl
    | (simp +zetaHave only [State.quiet_mk, State.quiet_eta, apply_ite State.quiet, apply_ite Prod.fst, ite_self, implies_true]; done)
    | split
    | intro _
    | (dsimp +zetaHave only))

theorem State.modPort_quiet (s : State) (p : Nat) (f : Port → Port) : (State.modPort s p f).quiet = s.quiet := by
  unfold State.modPort
  repeat' (first
    | with_reducible rfl
    | (simp +zetaHave only [State.quiet_mk, State.quiet_eta, apply_ite State.quiet, apply_ite Prod.fst, ite_self, implies_true,
        State.setPort_quiet]; done)
    | split
    | intro _
    | (dsimp +zetaHave only))

end Sys2Proof.Machine
end

