-- ==== Sys2Proof/Laws/QuietPort.lean ====
section
/-! SUPPORT. Sys2Proof/Laws/QuietPort.lean: the operations of Machine/Port.lean that leave it alone. -/

set_option linter.all false
set_option Elab.async false

namespace Sys2Proof.Machine
open Sys2Proof.Config
set_option linter.unusedSimpArgs false

theorem State.scoreEvent_quiet (s : State) (p : Nat) (w : Nat) : (State.scoreEvent s p w).quiet = s.quiet := by
  unfold State.scoreEvent
  repeat' (first
    | with_reducible rfl
    | (simp +zetaHave only [State.quiet_mk, State.quiet_eta, apply_ite State.quiet, apply_ite Prod.fst, ite_self, implies_true,
        State.openGate_quiet, State.setPort_quiet]; done)
    | split
    | intro _
    | (dsimp +zetaHave only))

theorem State.scorePar_quiet (s : State) (p : Nat) (words : Nat) : (State.scorePar s p words).quiet = s.quiet := by
  unfold State.scorePar
  repeat' (first
    | with_reducible rfl
    | (simp +zetaHave only [State.quiet_mk, State.quiet_eta, apply_ite State.quiet, apply_ite Prod.fst, ite_self, implies_true,
        State.scoreEvent_quiet]; done)
    | split
    | intro _
    | (dsimp +zetaHave only))

theorem State.scoreFcs_quiet (s : State) (p : Nat) : (State.scoreFcs s p).quiet = s.quiet := by
  unfold State.scoreFcs
  repeat' (first
    | with_reducible rfl
    | (simp +zetaHave only [State.quiet_mk, State.quiet_eta, apply_ite State.quiet, apply_ite Prod.fst, ite_self, implies_true,
        State.scoreEvent_quiet]; done)
    | split
    | intro _
    | (dsimp +zetaHave only))

theorem State.scoreFlap_quiet (s : State) (p : Nat) : (State.scoreFlap s p).quiet = s.quiet := by
  unfold State.scoreFlap
  repeat' (first
    | with_reducible rfl
    | (simp +zetaHave only [State.quiet_mk, State.quiet_eta, apply_ite State.quiet, apply_ite Prod.fst, ite_self, implies_true,
        State.scoreEvent_quiet]; done)
    | split
    | intro _
    | (dsimp +zetaHave only))

theorem State.scoreRfail_quiet (s : State) (p : Nat) : (State.scoreRfail s p).quiet = s.quiet := by
  unfold State.scoreRfail
  repeat' (first
    | with_reducible rfl
    | (simp +zetaHave only [State.quiet_mk, State.quiet_eta, apply_ite State.quiet, apply_ite Prod.fst, ite_self, implies_true,
        State.scoreEvent_quiet]; done)
    | split
    | intro _
    | (dsimp +zetaHave only))

theorem State.popStamp_quiet (s : State) (m : Master) (p : Nat) : (State.popStamp s m p).quiet = s.quiet := by
  unfold State.popStamp
  repeat' (first
    | with_reducible rfl
    | (simp +zetaHave only [State.quiet_mk, State.quiet_eta, apply_ite State.quiet, apply_ite Prod.fst, ite_self, implies_true,
        State.setPort_quiet]; done)
    | split
    | intro _
    | (dsimp +zetaHave only))

theorem State.xsend_quiet (s : State) (p : Nat) (b : Body) : (State.xsend s p b).quiet = s.quiet := by
  unfold State.xsend
  repeat' (first
    | with_reducible rfl
    | (simp +zetaHave only [State.quiet_mk, State.quiet_eta, apply_ite State.quiet, apply_ite Prod.fst, ite_self, implies_true,
        State.count_quiet, State.openGate_quiet, State.setPort_quiet]; done)
    | split
    | intro _
    | (dsimp +zetaHave only))

theorem State.xsendAll_quiet (s : State) (ps : List Nat) (b : Body) : (State.xsendAll s ps b).quiet = s.quiet := by
  unfold State.xsendAll
  repeat' (first
    | with_reducible rfl
    | (simp +zetaHave only [State.quiet_mk, State.quiet_eta, apply_ite State.quiet, apply_ite Prod.fst, ite_self, implies_true,
        State.each_quiet, State.xsend_quiet]; done)
    | split
    | intro _
    | (dsimp +zetaHave only)
    | refine (State.each_quiet _ _ _ ?_).trans ?_)

theorem State.refillX_quiet (s : State) (p : Nat) : (State.refillX s p).quiet = s.quiet := by
  unfold State.refillX
  repeat' (first
    | with_reducible rfl
    | (simp +zetaHave only [State.quiet_mk, State.quiet_eta, apply_ite State.quiet, apply_ite Prod.fst, ite_self, implies_true,
        State.setPort_quiet]; done)
    | split
    | intro _
    | (dsimp +zetaHave only))

theorem State.refillC_quiet (s : State) (p : Nat) : (State.refillC s p).quiet = s.quiet := by
  unfold State.refillC
  repeat' (first
    | with_reducible rfl
    | (simp +zetaHave only [State.quiet_mk, State.quiet_eta, apply_ite State.quiet, apply_ite Prod.fst, ite_self, implies_true,
        State.setPort_quiet]; done)
    | split
    | intro _
    | (dsimp +zetaHave only))

theorem State.refill_quiet (s : State) (p : Nat) : (State.refill s p).quiet = s.quiet := by
  unfold State.refill
  repeat' (first
    | with_reducible rfl
    | (simp +zetaHave only [State.quiet_mk, State.quiet_eta, apply_ite State.quiet, apply_ite Prod.fst, ite_self, implies_true,
        State.each_quiet, State.refillX_quiet, State.refillC_quiet]; done)
    | split
    | intro _
    | (dsimp +zetaHave only)
    | refine (State.each_quiet _ _ _ ?_).trans ?_)

theorem State.flushPort_quiet (s : State) (p : Nat) : (State.flushPort s p).quiet = s.quiet := by
  unfold State.flushPort
  repeat' (first
    | with_reducible rfl
    | (simp +zetaHave only [State.quiet_mk, State.quiet_eta, apply_ite State.quiet, apply_ite Prod.fst, ite_self, implies_true,
        State.count_quiet, State.setPort_quiet]; done)
    | split
    | intro _
    | (dsimp +zetaHave only))

theorem State.flushCT_quiet (s : State) (p : Nat) : (State.flushCT s p).quiet = s.quiet := by
  unfold State.flushCT
  repeat' (first
    | with_reducible rfl
    | (simp +zetaHave only [State.quiet_mk, State.quiet_eta, apply_ite State.quiet, apply_ite Prod.fst, ite_self, implies_true,
        State.count_quiet, State.setPort_quiet]; done)
    | split
    | intro _
    | (dsimp +zetaHave only))

theorem State.dropExch_quiet (s : State) (p : Nat) : (State.dropExch s p).quiet = s.quiet := by
  unfold State.dropExch
  repeat' (first
    | with_reducible rfl
    | (simp +zetaHave only [State.quiet_mk, State.quiet_eta, apply_ite State.quiet, apply_ite Prod.fst, ite_self, implies_true,
        State.count_quiet, State.setPort_quiet]; done)
    | split
    | intro _
    | (dsimp +zetaHave only))

theorem State.restartLink_quiet (s : State) (p : Nat) : (State.restartLink s p).quiet = s.quiet := by
  unfold State.restartLink
  repeat' (first
    | with_reducible rfl
    | (simp +zetaHave only [State.quiet_mk, State.quiet_eta, apply_ite State.quiet, apply_ite Prod.fst, ite_self, implies_true,
        State.modPort_quiet]; done)
    | split
    | intro _
    | (dsimp +zetaHave only))

theorem State.takeAck_quiet (s : State) (p : Nat) (lack : Nat) : (State.takeAck s p lack).quiet = s.quiet := by
  unfold State.takeAck
  repeat' (first
    | with_reducible rfl
    | (simp +zetaHave only [State.quiet_mk, State.quiet_eta, apply_ite State.quiet, apply_ite Prod.fst, ite_self, implies_true,
        State.setPort_quiet, State.refill_quiet]; done)
    | split
    | intro _
    | (dsimp +zetaHave only))

theorem State.attemptFails_quiet (s : State) (p : Nat) : (State.attemptFails s p).quiet = s.quiet := by
  unfold State.attemptFails
  repeat' (first
    | with_reducible rfl
    | (simp +zetaHave only [State.quiet_mk, State.quiet_eta, apply_ite State.quiet, apply_ite Prod.fst, ite_self, implies_true,
        State.count_quiet, State.evt_quiet, State.modPort_quiet, State.scoreRfail_quiet]; done)
    | split
    | intro _
    | (dsimp +zetaHave only))

theorem State.startAttempt_quiet (s : State) (p : Nat) (n : Nat) (t : Nat) : (State.startAttempt s p n t).quiet = s.quiet := by
  unfold State.startAttempt
  repeat' (first
    | with_reducible rfl
    | (simp +zetaHave only [State.quiet_mk, State.quiet_eta, apply_ite State.quiet, apply_ite Prod.fst, ite_self, implies_true,
        State.count_quiet, State.evt_quiet, State.setPort_quiet]; done)
    | split
    | intro _
    | (dsimp +zetaHave only))

theorem State.takeNak_quiet (s : State) (p : Nat) (n : Nat) : (State.takeNak s p n).quiet = s.quiet := by
  unfold State.takeNak
  repeat' (first
    | with_reducible rfl
    | (simp +zetaHave only [State.quiet_mk, State.quiet_eta, apply_ite State.quiet, apply_ite Prod.fst, ite_self, implies_true,
        State.takeAck_quiet, State.attemptFails_quiet, State.startAttempt_quiet]; done)
    | split
    | intro _
    | (dsimp +zetaHave only))

theorem State.replayTimeout_quiet (s : State) (p : Nat) (t : Nat) : (State.replayTimeout s p t).quiet = s.quiet := by
  unfold State.replayTimeout
  repeat' (first
    | with_reducible rfl
    | (simp +zetaHave only [State.quiet_mk, State.quiet_eta, apply_ite State.quiet, apply_ite Prod.fst, ite_self, implies_true,
        State.attemptFails_quiet, State.startAttempt_quiet]; done)
    | split
    | intro _
    | (dsimp +zetaHave only))

theorem State.fillBuckets_quiet (s : State) (p : Nat) : (State.fillBuckets s p).quiet = s.quiet := by
  unfold State.fillBuckets
  repeat' (first
    | with_reducible rfl
    | (simp +zetaHave only [State.quiet_mk, State.quiet_eta, apply_ite State.quiet, apply_ite Prod.fst, ite_self, implies_true,
        State.setPort_quiet]; done)
    | split
    | intro _
    | (dsimp +zetaHave only))

theorem State.dropTooLong_quiet (s : State) (p : Nat) : (State.dropTooLong s p).quiet = s.quiet := by
  unfold State.dropTooLong
  repeat' (first
    | with_reducible rfl
    | (simp +zetaHave only [State.quiet_mk, State.quiet_eta, apply_ite State.quiet, apply_ite Prod.fst, ite_self, implies_true,
        State.count_quiet, State.setPort_quiet]; done)
    | split
    | intro _
    | (dsimp +zetaHave only))

theorem State.handOver_quiet (s : State) (p : Nat) (q : QFrame) : (State.handOver s p q).quiet = s.quiet := by
  unfold State.handOver
  repeat' (first
    | with_reducible rfl
    | (simp +zetaHave only [State.quiet_mk, State.quiet_eta, apply_ite State.quiet, apply_ite Prod.fst, ite_self, implies_true,
        State.count_quiet, State.emit_quiet, State.evt_quiet, State.setPort_quiet]; done)
    | split
    | intro _
    | (dsimp +zetaHave only))

theorem State.windowWait_quiet (s : State) (p : Nat) : (State.windowWait s p).quiet = s.quiet := by
  unfold State.windowWait
  repeat' (first
    | with_reducible rfl
    | (simp +zetaHave only [State.quiet_mk, State.quiet_eta, apply_ite State.quiet, apply_ite Prod.fst, ite_self, implies_true,
        State.count_quiet, State.setPort_quiet]; done)
    | split
    | intro _
    | (dsimp +zetaHave only))

theorem State.handoverT_quiet (s : State) (p : Nat) : (State.handoverT s p).quiet = s.quiet := by
  unfold State.handoverT
  repeat' (first
    | with_reducible rfl
    | (simp +zetaHave only [State.quiet_mk, State.quiet_eta, apply_ite State.quiet, apply_ite Prod.fst, ite_self, implies_true,
        State.count_quiet, State.setPort_quiet, State.handOver_quiet, State.windowWait_quiet]; done)
    | split
    | intro _
    | (dsimp +zetaHave only))

theorem State.handoverCT_quiet (s : State) (p : Nat) : (State.handoverCT s p).quiet = s.quiet := by
  unfold State.handoverCT
  repeat' (first
    | with_reducible rfl
    | (simp +zetaHave only [State.quiet_mk, State.quiet_eta, apply_ite State.quiet, apply_ite Prod.fst, ite_self, implies_true,
        State.setPort_quiet, State.handOver_quiet, State.handoverT_quiet]; done)
    | split
    | intro _
    | (dsimp +zetaHave only))

theorem State.dropMismatched_quiet (s : State) (p : Nat) : (State.dropMismatched s p).quiet = s.quiet := by
  unfold State.dropMismatched
  repeat' (first
    | with_reducible rfl
    | (simp +zetaHave only [State.quiet_mk, State.quiet_eta, apply_ite State.quiet, apply_ite Prod.fst, ite_self, implies_true,
        State.count_quiet, State.setPort_quiet]; done)
    | split
    | intro _
    | (dsimp +zetaHave only))

theorem State.handover_quiet (s : State) (p : Nat) : (State.handover s p).quiet = s.quiet := by
  unfold State.handover
  repeat' (first
    | with_reducible rfl
    | (simp +zetaHave only [State.quiet_mk, State.quiet_eta, apply_ite State.quiet, apply_ite Prod.fst, ite_self, implies_true,
        State.setPort_quiet, State.fillBuckets_quiet, State.dropTooLong_quiet, State.handOver_quiet,
        State.refillX_quiet, State.handoverCT_quiet, State.refill_quiet, State.dropMismatched_quiet]; done)
    | split
    | intro _
    | (dsimp +zetaHave only))

end Sys2Proof.Machine
end

