-- ==== Sys2Proof/Laws/QuietColl.lean ====
section
/-! SUPPORT. Sys2Proof/Laws/QuietColl.lean: the operations of Machine/Coll.lean that leave it alone. -/

set_option linter.all false
set_option Elab.async false

namespace Sys2Proof.Machine
open Sys2Proof.Config
set_option linter.unusedSimpArgs false

theorem State.noteAbort_quiet (s : State) (m : CollAbort) : (State.noteAbort s m).quiet = s.quiet := by
  unfold State.noteAbort
  repeat' (first
    | with_reducible rfl
    | (simp +zetaHave only [State.quiet_mk, State.quiet_eta, apply_ite State.quiet, apply_ite Prod.fst, ite_self, implies_true]; done)
    | split
    | intro _
    | (dsimp +zetaHave only))

theorem State.dropCtrs_quiet (s : State) (cid : Nat) (isn : Nat) (upto : Nat) : (State.dropCtrs s cid isn upto).quiet = s.quiet := by
  unfold State.dropCtrs
  repeat' (first
    | with_reducible rfl
    | (simp +zetaHave only [State.quiet_mk, State.quiet_eta, apply_ite State.quiet, apply_ite Prod.fst, ite_self, implies_true]; done)
    | split
    | intro _
    | (dsimp +zetaHave only))

theorem State.dropMoves_quiet (s : State) (cid : Nat) (isn : Nat) : (State.dropMoves s cid isn).quiet = s.quiet := by
  unfold State.dropMoves
  repeat' (first
    | with_reducible rfl
    | (simp +zetaHave only [State.quiet_mk, State.quiet_eta, apply_ite State.quiet, apply_ite Prod.fst, ite_self, implies_true]; done)
    | split
    | intro _
    | (dsimp +zetaHave only))

theorem State.toMembers_quiet (s : State) (m : GangMsg) : (State.toMembers s m).quiet = s.quiet := by
  unfold State.toMembers
  repeat' (first
    | with_reducible rfl
    | (simp +zetaHave only [State.quiet_mk, State.quiet_eta, apply_ite State.quiet, apply_ite Prod.fst, ite_self, implies_true,
        State.emit_quiet]; done)
    | split
    | intro _
    | (dsimp +zetaHave only))

theorem State.close_quiet (s : State) (cid : Nat) (isn : Nat) : (State.close s cid isn).quiet = s.quiet := by
  unfold State.close
  repeat' (first
    | with_reducible rfl
    | (simp +zetaHave only [State.quiet_mk, State.quiet_eta, apply_ite State.quiet, apply_ite Prod.fst, ite_self, implies_true]; done)
    | split
    | intro _
    | (dsimp +zetaHave only))

theorem State.rootAbort_quiet (s : State) (cid : Nat) (isn : Nat) (attempt : Nat) (reason : Nat) (o : Origin) : (State.rootAbort s cid isn attempt reason o).quiet = s.quiet := by
  unfold State.rootAbort
  repeat' (first
    | with_reducible rfl
    | (simp +zetaHave only [State.quiet_mk, State.quiet_eta, apply_ite State.quiet, apply_ite Prod.fst, ite_self, implies_true,
        State.count_quiet, State.raise_quiet, State.evt_quiet, State.xsendAll_quiet, State.noteAbort_quiet,
        State.dropCtrs_quiet, State.dropMoves_quiet, State.close_quiet, State.toMembers_quiet]; done)
    | split
    | intro _
    | (dsimp +zetaHave only))

theorem State.rootMove_quiet (s : State) (cid : Nat) (isn : Nat) (attempt : Nat) (group : Option Nat) (o : Origin) : (State.rootMove s cid isn attempt group o).quiet = s.quiet := by
  unfold State.rootMove
  repeat' (first
    | with_reducible rfl
    | (simp +zetaHave only [State.quiet_mk, State.quiet_eta, apply_ite State.quiet, apply_ite Prod.fst, ite_self, implies_true,
        State.count_quiet, State.evt_quiet, State.xsendAll_quiet, State.dropCtrs_quiet, State.dropMoves_quiet,
        State.toMembers_quiet]; done)
    | split
    | intro _
    | (dsimp +zetaHave only))

theorem State.pathDecision_quiet (s : State) (cid : Nat) (isn : Nat) (attempt : Nat) (group : Option Nat) (o : Origin) : (State.pathDecision s cid isn attempt group o).quiet = s.quiet := by
  unfold State.pathDecision
  repeat' (first
    | with_reducible rfl
    | (simp +zetaHave only [State.quiet_mk, State.quiet_eta, apply_ite State.quiet, apply_ite Prod.fst, ite_self, implies_true,
        State.rootAbort_quiet, State.rootMove_quiet]; done)
    | split
    | intro _
    | (dsimp +zetaHave only))

theorem State.rootRequest_quiet (s : State) (q : CollReq) : (State.rootRequest s q).quiet = s.quiet := by
  unfold State.rootRequest
  repeat' (first
    | with_reducible rfl
    | (simp +zetaHave only [State.quiet_mk, State.quiet_eta, apply_ite State.quiet, apply_ite Prod.fst, ite_self, implies_true,
        State.foldl_quiet, State.foldl_fst_quiet, State.rootAbort_quiet, State.pathDecision_quiet]; done)
    | split
    | intro _
    | (dsimp +zetaHave only)
    | refine (State.foldl_quiet _ _ _ ?_).trans ?_
    | refine (State.foldl_fst_quiet _ _ _ ?_).trans ?_)

theorem State.routeReq_quiet (s : State) (q : CollReq) : (State.routeReq s q).quiet = s.quiet := by
  unfold State.routeReq
  repeat' (first
    | with_reducible rfl
    | (simp +zetaHave only [State.quiet_mk, State.quiet_eta, apply_ite State.quiet, apply_ite Prod.fst, ite_self, implies_true,
        State.xsend_quiet, State.rootRequest_quiet, State.emit_quiet]; done)
    | split
    | intro _
    | (dsimp +zetaHave only))

theorem State.raiseReq_quiet (s : State) (q : CollReq) : (State.raiseReq s q).quiet = s.quiet := by
  unfold State.raiseReq
  repeat' (first
    | with_reducible rfl
    | (simp +zetaHave only [State.quiet_mk, State.quiet_eta, apply_ite State.quiet, apply_ite Prod.fst, ite_self, implies_true,
        State.count_quiet, State.routeReq_quiet]; done)
    | split
    | intro _
    | (dsimp +zetaHave only))

theorem State.abortReq_quiet (s : State) (cid : Nat) (isn : Nat) (attempt : Nat) (d : Dom) (reason : Nat) (port : Nat) : (State.abortReq s cid isn attempt d reason port).quiet = s.quiet := by
  unfold State.abortReq
  repeat' (first
    | with_reducible rfl
    | (simp +zetaHave only [State.quiet_mk, State.quiet_eta, apply_ite State.quiet, apply_ite Prod.fst, ite_self, implies_true,
        State.raiseReq_quiet]; done)
    | split
    | intro _
    | (dsimp +zetaHave only))

theorem State.pathFault_quiet (s : State) (p : Nat) : (State.pathFault s p).quiet = s.quiet := by
  unfold State.pathFault
  repeat' (first
    | with_reducible rfl
    | (simp +zetaHave only [State.quiet_mk, State.quiet_eta, apply_ite State.quiet, apply_ite Prod.fst, ite_self, implies_true,
        State.raiseReq_quiet]; done)
    | split
    | intro _
    | (dsimp +zetaHave only))

theorem State.setHandle_quiet (s : State) (h : Nat) (v : Option Handle) : (State.setHandle s h v).quiet = s.quiet := by
  unfold State.setHandle
  repeat' (first
    | with_reducible rfl
    | (simp +zetaHave only [State.quiet_mk, State.quiet_eta, apply_ite State.quiet, apply_ite Prod.fst, ite_self, implies_true]; done)
    | split
    | intro _
    | (dsimp +zetaHave only))

theorem State.gather_quiet (s : State) (hd : Handle) (i : Inst) : (State.gather s hd i).1.quiet = s.quiet := by
  unfold State.gather
  repeat' (first
    | with_reducible rfl
    | (simp +zetaHave only [State.quiet_mk, State.quiet_eta, apply_ite State.quiet, apply_ite Prod.fst, ite_self, implies_true,
        State.foldl_quiet, State.foldl_fst_quiet]; done)
    | split
    | intro _
    | (dsimp +zetaHave only)
    | refine (State.foldl_quiet _ _ _ ?_).trans ?_
    | refine (State.foldl_fst_quiet _ _ _ ?_).trans ?_)

theorem State.sendLog_quiet (s : State) (h : Nat) (hd : Handle) (i : Inst) : (State.sendLog s h hd i).quiet = s.quiet := by
  unfold State.sendLog
  repeat' (first
    | with_reducible rfl
    | (simp +zetaHave only [State.quiet_mk, State.quiet_eta, apply_ite State.quiet, apply_ite Prod.fst, ite_self, implies_true,
        State.foldl_quiet, State.foldl_fst_quiet, State.count_quiet, State.emit_quiet, State.xsend_quiet,
        State.raiseReq_quiet, State.setHandle_quiet, State.gather_quiet]; done)
    | split
    | intro _
    | (dsimp +zetaHave only)
    | refine (State.foldl_quiet _ _ _ ?_).trans ?_
    | refine (State.foldl_fst_quiet _ _ _ ?_).trans ?_)

theorem State.startInst_quiet (s : State) (h : Nat) (hd : Handle) (data : UpData) (step : Nat) (lanes : Nat) : (State.startInst s h hd data step lanes).quiet = s.quiet := by
  unfold State.startInst
  repeat' (first
    | with_reducible rfl
    | (simp +zetaHave only [State.quiet_mk, State.quiet_eta, apply_ite State.quiet, apply_ite Prod.fst, ite_self, implies_true,
        State.evt_quiet, State.openGate_quiet, State.busy_quiet, State.abortReq_quiet, State.sendLog_quiet]; done)
    | split
    | intro _
    | (dsimp +zetaHave only))

theorem State.contribute_quiet (s : State) (h : Nat) (data : UpData) (step : Nat) (lanes : Nat) : (State.contribute s h data step lanes).1.quiet = s.quiet := by
  unfold State.contribute
  repeat' (first
    | with_reducible rfl
    | (simp +zetaHave only [State.quiet_mk, State.quiet_eta, apply_ite State.quiet, apply_ite Prod.fst, ite_self, implies_true,
        State.count_quiet, State.raise_quiet, State.startInst_quiet]; done)
    | split
    | intro _
    | (dsimp +zetaHave only))

theorem State.contributeHeld_quiet (s : State) (h : Nat) (data : UpData) (step : Nat) (lanes : Nat) : (State.contributeHeld s h data step lanes).quiet = s.quiet := by
  unfold State.contributeHeld
  repeat' (first
    | with_reducible rfl
    | (simp +zetaHave only [State.quiet_mk, State.quiet_eta, apply_ite State.quiet, apply_ite Prod.fst, ite_self, implies_true,
        State.count_quiet, State.contribute_quiet]; done)
    | split
    | intro _
    | (dsimp +zetaHave only))

theorem State.releaseHeld_quiet (s : State) : (State.releaseHeld s).quiet = s.quiet := by
  unfold State.releaseHeld
  repeat' (first
    | with_reducible rfl
    | (simp +zetaHave only [State.quiet_mk, State.quiet_eta, apply_ite State.quiet, apply_ite Prod.fst, ite_self, implies_true,
        State.foldl_quiet, State.foldl_fst_quiet, State.contribute_quiet]; done)
    | split
    | intro _
    | (dsimp +zetaHave only)
    | refine (State.foldl_quiet _ _ _ ?_).trans ?_
    | refine (State.foldl_fst_quiet _ _ _ ?_).trans ?_)

theorem State.setOut_quiet (s : State) (h : Nat) (hd : Handle) (i : Inst) (o : CollOutcome) : (State.setOut s h hd i o).quiet = s.quiet := by
  unfold State.setOut
  repeat' (first
    | with_reducible rfl
    | (simp +zetaHave only [State.quiet_mk, State.quiet_eta, apply_ite State.quiet, apply_ite Prod.fst, ite_self, implies_true,
        State.setHandle_quiet]; done)
    | split
    | intro _
    | (dsimp +zetaHave only))

theorem State.eaveDown_quiet (s : State) (p : Nat) (m : CollDown) : (State.eaveDown s p m).quiet = s.quiet := by
  unfold State.eaveDown
  repeat' (first
    | with_reducible rfl
    | (simp +zetaHave only [State.quiet_mk, State.quiet_eta, apply_ite State.quiet, apply_ite Prod.fst, ite_self, implies_true,
        State.count_quiet, State.evt_quiet, State.xsend_quiet, State.setHandle_quiet, State.setOut_quiet,
        State.toMembers_quiet]; done)
    | split
    | intro _
    | (dsimp +zetaHave only))

theorem State.eaveAbort_quiet (s : State) (m : CollAbort) : (State.eaveAbort s m).quiet = s.quiet := by
  unfold State.eaveAbort
  repeat' (first
    | with_reducible rfl
    | (simp +zetaHave only [State.quiet_mk, State.quiet_eta, apply_ite State.quiet, apply_ite Prod.fst, ite_self, implies_true,
        State.count_quiet, State.evt_quiet, State.noteAbort_quiet, State.setOut_quiet, State.toMembers_quiet]; done)
    | split
    | intro _
    | (dsimp +zetaHave only))

theorem State.reportDone_quiet (s : State) (hd : Handle) (m : CollMove) (o : CollOutcome) : (State.reportDone s hd m o).quiet = s.quiet := by
  unfold State.reportDone
  repeat' (first
    | with_reducible rfl
    | (simp +zetaHave only [State.quiet_mk, State.quiet_eta, apply_ite State.quiet, apply_ite Prod.fst, ite_self, implies_true,
        State.count_quiet, State.evt_quiet, State.xsend_quiet]; done)
    | split
    | intro _
    | (dsimp +zetaHave only))

theorem State.eaveMove_quiet (s : State) (m : CollMove) : (State.eaveMove s m).quiet = s.quiet := by
  unfold State.eaveMove
  repeat' (first
    | with_reducible rfl
    | (simp +zetaHave only [State.quiet_mk, State.quiet_eta, apply_ite State.quiet, apply_ite Prod.fst, ite_self, implies_true,
        State.count_quiet, State.evt_quiet, State.xsend_quiet, State.abortReq_quiet, State.setHandle_quiet,
        State.sendLog_quiet, State.toMembers_quiet, State.reportDone_quiet]; done)
    | split
    | intro _
    | (dsimp +zetaHave only))

theorem State.gangContribution_quiet (s : State) (pos : Nat) (m : CollUp) : (State.gangContribution s pos m).quiet = s.quiet := by
  unfold State.gangContribution
  repeat' (first
    | with_reducible rfl
    | (simp +zetaHave only [State.quiet_mk, State.quiet_eta, apply_ite State.quiet, apply_ite Prod.fst, ite_self, implies_true,
        State.sendLog_quiet]; done)
    | split
    | intro _
    | (dsimp +zetaHave only))

theorem State.applyOutcomes_quiet (s : State) : (State.applyOutcomes s).1.quiet = s.quiet := by
  unfold State.applyOutcomes
  repeat' (first
    | with_reducible rfl
    | (simp +zetaHave only [State.quiet_mk, State.quiet_eta, apply_ite State.quiet, apply_ite Prod.fst, ite_self, implies_true,
        State.foldl_quiet, State.foldl_fst_quiet, State.raiseIf_quiet, State.setHandle_quiet]; done)
    | split
    | intro _
    | (dsimp +zetaHave only)
    | refine (State.foldl_quiet _ _ _ ?_).trans ?_
    | refine (State.foldl_fst_quiet _ _ _ ?_).trans ?_)

theorem State.localOutcome_quiet (s : State) (h : Nat) (hd : Handle) (i : Inst) (reason : Nat) : (State.localOutcome s h hd i reason).quiet = s.quiet := by
  unfold State.localOutcome
  repeat' (first
    | with_reducible rfl
    | (simp +zetaHave only [State.quiet_mk, State.quiet_eta, apply_ite State.quiet, apply_ite Prod.fst, ite_self, implies_true,
        State.count_quiet, State.raise_quiet, State.noteAbort_quiet, State.setHandle_quiet]; done)
    | split
    | intro _
    | (dsimp +zetaHave only))

theorem State.collDeadlines_quiet (s : State) (n : Nat) : (State.collDeadlines s n).quiet = s.quiet := by
  unfold State.collDeadlines
  repeat' (first
    | with_reducible rfl
    | (simp +zetaHave only [State.quiet_mk, State.quiet_eta, apply_ite State.quiet, apply_ite Prod.fst, ite_self, implies_true,
        State.each_quiet, State.foldl_quiet, State.foldl_fst_quiet, State.abortReq_quiet, State.setHandle_quiet]; done)
    | split
    | intro _
    | (dsimp +zetaHave only)
    | refine (State.each_quiet _ _ _ ?_).trans ?_
    | refine (State.foldl_quiet _ _ _ ?_).trans ?_
    | refine (State.foldl_fst_quiet _ _ _ ?_).trans ?_)

theorem State.isolate_quiet (s : State) (t : Nat) : (State.isolate s t).1.quiet = s.quiet := by
  unfold State.isolate
  repeat' (first
    | with_reducible rfl
    | (simp +zetaHave only [State.quiet_mk, State.quiet_eta, apply_ite State.quiet, apply_ite Prod.fst, ite_self, implies_true,
        State.foldl_quiet, State.foldl_fst_quiet, State.localOutcome_quiet]; done)
    | split
    | intro _
    | (dsimp +zetaHave only)
    | refine (State.foldl_quiet _ _ _ ?_).trans ?_
    | refine (State.foldl_fst_quiet _ _ _ ?_).trans ?_)

theorem State.sendHeldReps_quiet (s : State) : (State.sendHeldReps s).quiet = s.quiet := by
  unfold State.sendHeldReps
  repeat' (first
    | with_reducible rfl
    | (simp +zetaHave only [State.quiet_mk, State.quiet_eta, apply_ite State.quiet, apply_ite Prod.fst, ite_self, implies_true,
        State.foldl_quiet, State.foldl_fst_quiet, State.xsend_quiet]; done)
    | split
    | intro _
    | (dsimp +zetaHave only)
    | refine (State.foldl_quiet _ _ _ ?_).trans ?_
    | refine (State.foldl_fst_quiet _ _ _ ?_).trans ?_)

theorem State.sendHeldLogs_quiet (s : State) : (State.sendHeldLogs s).quiet = s.quiet := by
  unfold State.sendHeldLogs
  refine (State.sendHeldReps_quiet _).trans ?_
  repeat' (first
    | with_reducible rfl
    | (simp +zetaHave only [State.quiet_mk, State.quiet_eta, apply_ite State.quiet, apply_ite Prod.fst, ite_self, implies_true,
        State.each_quiet, State.foldl_quiet, State.foldl_fst_quiet, State.sendLog_quiet, State.sendHeldReps_quiet]; done)
    | split
    | intro _
    | (dsimp +zetaHave only)
    | refine (State.each_quiet _ _ _ ?_).trans ?_
    | refine (State.foldl_quiet _ _ _ ?_).trans ?_
    | refine (State.foldl_fst_quiet _ _ _ ?_).trans ?_)

theorem State.abortAll_quiet (s : State) (reason : Nat) : (State.abortAll s reason).quiet = s.quiet := by
  unfold State.abortAll
  repeat' (first
    | with_reducible rfl
    | (simp +zetaHave only [State.quiet_mk, State.quiet_eta, apply_ite State.quiet, apply_ite Prod.fst, ite_self, implies_true,
        State.each_quiet, State.foldl_quiet, State.foldl_fst_quiet, State.abortReq_quiet]; done)
    | split
    | intro _
    | (dsimp +zetaHave only)
    | refine (State.each_quiet _ _ _ ?_).trans ?_
    | refine (State.foldl_quiet _ _ _ ?_).trans ?_
    | refine (State.foldl_fst_quiet _ _ _ ?_).trans ?_)

theorem State.putCtr_quiet (s : State) (c : TreeCtr) : (State.putCtr s c).quiet = s.quiet := by
  unfold State.putCtr
  repeat' (first
    | with_reducible rfl
    | (simp +zetaHave only [State.quiet_mk, State.quiet_eta, apply_ite State.quiet, apply_ite Prod.fst, ite_self, implies_true]; done)
    | split
    | intro _
    | (dsimp +zetaHave only))

theorem State.sendHome_quiet (s : State) (m : CollUp) : (State.sendHome s m).quiet = s.quiet := by
  unfold State.sendHome
  repeat' (first
    | with_reducible rfl
    | (simp +zetaHave only [State.quiet_mk, State.quiet_eta, apply_ite State.quiet, apply_ite Prod.fst, ite_self, implies_true,
        State.emit_quiet, State.xsend_quiet]; done)
    | split
    | intro _
    | (dsimp +zetaHave only))

theorem State.rootDown_quiet (s : State) (c : TreeCtr) (status : Nat) (step : Nat) (results : List Nat) : (State.rootDown s c status step results).quiet = s.quiet := by
  unfold State.rootDown
  repeat' (first
    | with_reducible rfl
    | (simp +zetaHave only [State.quiet_mk, State.quiet_eta, apply_ite State.quiet, apply_ite Prod.fst, ite_self, implies_true,
        State.count_quiet, State.evt_quiet, State.xsendAll_quiet, State.dropCtrs_quiet, State.dropMoves_quiet,
        State.close_quiet, State.toMembers_quiet]; done)
    | split
    | intro _
    | (dsimp +zetaHave only))

theorem State.rootComplete_quiet (s : State) (c : TreeCtr) (g : Group) : (State.rootComplete s c g).quiet = s.quiet := by
  unfold State.rootComplete
  repeat' (first
    | with_reducible rfl
    | (simp +zetaHave only [State.quiet_mk, State.quiet_eta, apply_ite State.quiet, apply_ite Prod.fst, ite_self, implies_true,
        State.count_quiet, State.xsendAll_quiet, State.rootAbort_quiet, State.putCtr_quiet, State.rootDown_quiet,
        State.toMembers_quiet]; done)
    | split
    | intro _
    | (dsimp +zetaHave only))

theorem State.rootVerdict_quiet (s : State) (c : TreeCtr) (g : Group) (cand : Ballot) : (State.rootVerdict s c g cand).quiet = s.quiet := by
  unfold State.rootVerdict
  repeat' (first
    | with_reducible rfl
    | (simp +zetaHave only [State.quiet_mk, State.quiet_eta, apply_ite State.quiet, apply_ite Prod.fst, ite_self, implies_true,
        State.count_quiet, State.rootDown_quiet]; done)
    | split
    | intro _
    | (dsimp +zetaHave only))

theorem State.sendUp_quiet (s : State) (c : TreeCtr) : (State.sendUp s c).quiet = s.quiet := by
  unfold State.sendUp
  repeat' (first
    | with_reducible rfl
    | (simp +zetaHave only [State.quiet_mk, State.quiet_eta, apply_ite State.quiet, apply_ite Prod.fst, ite_self, implies_true,
        State.count_quiet, State.xsend_quiet, State.putCtr_quiet, State.sendHome_quiet]; done)
    | split
    | intro _
    | (dsimp +zetaHave only))

theorem State.afterFold_quiet (s : State) (c : TreeCtr) : (State.afterFold s c).quiet = s.quiet := by
  unfold State.afterFold
  repeat' (first
    | with_reducible rfl
    | (simp +zetaHave only [State.quiet_mk, State.quiet_eta, apply_ite State.quiet, apply_ite Prod.fst, ite_self, implies_true,
        State.putCtr_quiet, State.rootComplete_quiet, State.sendUp_quiet]; done)
    | split
    | intro _
    | (dsimp +zetaHave only))

theorem State.ridgeMatch_quiet (s : State) (p : Nat) (m : CollUp) (b : Ballot) : (State.ridgeMatch s p m b).quiet = s.quiet := by
  unfold State.ridgeMatch
  repeat' (first
    | with_reducible rfl
    | (simp +zetaHave only [State.quiet_mk, State.quiet_eta, apply_ite State.quiet, apply_ite Prod.fst, ite_self, implies_true,
        State.count_quiet, State.xsend_quiet, State.abortReq_quiet, State.putCtr_quiet, State.rootVerdict_quiet,
        State.sendHome_quiet]; done)
    | split
    | intro _
    | (dsimp +zetaHave only))

theorem State.ridgeReport_quiet (s : State) (m : CollUp) (status : Nat) (results : List Nat) : (State.ridgeReport s m status results).quiet = s.quiet := by
  unfold State.ridgeReport
  repeat' (first
    | with_reducible rfl
    | (simp +zetaHave only [State.quiet_mk, State.quiet_eta, apply_ite State.quiet, apply_ite Prod.fst, ite_self, implies_true,
        State.xsend_quiet, State.rootDown_quiet, State.sendHome_quiet]; done)
    | split
    | intro _
    | (dsimp +zetaHave only))

theorem State.ridgeUp_quiet (s : State) (p : Nat) (m : CollUp) : (State.ridgeUp s p m).quiet = s.quiet := by
  unfold State.ridgeUp
  repeat' (first
    | with_reducible rfl
    | (simp +zetaHave only [State.quiet_mk, State.quiet_eta, apply_ite State.quiet, apply_ite Prod.fst, ite_self, implies_true,
        State.count_quiet, State.raise_quiet, State.evt_quiet, State.abortReq_quiet, State.afterFold_quiet,
        State.ridgeMatch_quiet, State.ridgeReport_quiet]; done)
    | split
    | intro _
    | (dsimp +zetaHave only))

theorem State.spreadDown_quiet (s : State) (m : CollDown) : (State.spreadDown s m).quiet = s.quiet := by
  unfold State.spreadDown
  repeat' (first
    | with_reducible rfl
    | (simp +zetaHave only [State.quiet_mk, State.quiet_eta, apply_ite State.quiet, apply_ite Prod.fst, ite_self, implies_true,
        State.count_quiet, State.evt_quiet, State.xsendAll_quiet, State.dropCtrs_quiet, State.dropMoves_quiet,
        State.toMembers_quiet, State.putCtr_quiet]; done)
    | split
    | intro _
    | (dsimp +zetaHave only))

theorem State.ridgeDown_quiet (s : State) (p : Nat) (m : CollDown) : (State.ridgeDown s p m).quiet = s.quiet := by
  unfold State.ridgeDown
  repeat' (first
    | with_reducible rfl
    | (simp +zetaHave only [State.quiet_mk, State.quiet_eta, apply_ite State.quiet, apply_ite Prod.fst, ite_self, implies_true,
        State.count_quiet, State.evt_quiet, State.xsendAll_quiet, State.dropCtrs_quiet, State.dropMoves_quiet,
        State.putCtr_quiet, State.spreadDown_quiet]; done)
    | split
    | intro _
    | (dsimp +zetaHave only))

theorem State.spreadMove_quiet (s : State) (m : CollMove) : (State.spreadMove s m).quiet = s.quiet := by
  unfold State.spreadMove
  repeat' (first
    | with_reducible rfl
    | (simp +zetaHave only [State.quiet_mk, State.quiet_eta, apply_ite State.quiet, apply_ite Prod.fst, ite_self, implies_true,
        State.count_quiet, State.evt_quiet, State.xsendAll_quiet, State.dropCtrs_quiet, State.dropMoves_quiet,
        State.toMembers_quiet]; done)
    | split
    | intro _
    | (dsimp +zetaHave only))

theorem State.ridgeMove_quiet (s : State) (p : Nat) (m : CollMove) : (State.ridgeMove s p m).quiet = s.quiet := by
  unfold State.ridgeMove
  repeat' (first
    | with_reducible rfl
    | (simp +zetaHave only [State.quiet_mk, State.quiet_eta, apply_ite State.quiet, apply_ite Prod.fst, ite_self, implies_true,
        State.count_quiet, State.evt_quiet, State.xsendAll_quiet, State.dropCtrs_quiet, State.dropMoves_quiet,
        State.spreadMove_quiet]; done)
    | split
    | intro _
    | (dsimp +zetaHave only))

theorem State.spreadAbort_quiet (s : State) (m : CollAbort) : (State.spreadAbort s m).quiet = s.quiet := by
  unfold State.spreadAbort
  repeat' (first
    | with_reducible rfl
    | (simp +zetaHave only [State.quiet_mk, State.quiet_eta, apply_ite State.quiet, apply_ite Prod.fst, ite_self, implies_true,
        State.count_quiet, State.evt_quiet, State.xsendAll_quiet, State.noteAbort_quiet, State.dropCtrs_quiet,
        State.dropMoves_quiet, State.toMembers_quiet, State.close_quiet]; done)
    | split
    | intro _
    | (dsimp +zetaHave only))

theorem State.ridgeAbort_quiet (s : State) (p : Nat) (m : CollAbort) : (State.ridgeAbort s p m).quiet = s.quiet := by
  unfold State.ridgeAbort
  repeat' (first
    | with_reducible rfl
    | (simp +zetaHave only [State.quiet_mk, State.quiet_eta, apply_ite State.quiet, apply_ite Prod.fst, ite_self, implies_true,
        State.count_quiet, State.evt_quiet, State.xsendAll_quiet, State.noteAbort_quiet, State.dropCtrs_quiet,
        State.dropMoves_quiet, State.close_quiet, State.spreadAbort_quiet]; done)
    | split
    | intro _
    | (dsimp +zetaHave only))

theorem State.freeOrphans_quiet (s : State) (t : Nat) : (State.freeOrphans s t).quiet = s.quiet := by
  unfold State.freeOrphans
  repeat' (first
    | with_reducible rfl
    | (simp +zetaHave only [State.quiet_mk, State.quiet_eta, apply_ite State.quiet, apply_ite Prod.fst, ite_self, implies_true,
        State.count_quiet, State.raise_quiet]; done)
    | split
    | intro _
    | (dsimp +zetaHave only))

theorem State.moveTimeouts_quiet (s : State) (t : Nat) : (State.moveTimeouts s t).quiet = s.quiet := by
  unfold State.moveTimeouts
  repeat' (first
    | with_reducible rfl
    | (simp +zetaHave only [State.quiet_mk, State.quiet_eta, apply_ite State.quiet, apply_ite Prod.fst, ite_self, implies_true,
        State.foldl_quiet, State.foldl_fst_quiet, State.rootAbort_quiet]; done)
    | split
    | intro _
    | (dsimp +zetaHave only)
    | refine (State.foldl_quiet _ _ _ ?_).trans ?_
    | refine (State.foldl_fst_quiet _ _ _ ?_).trans ?_)

theorem State.resendMoves_quiet (s : State) (ports : List Nat) : (State.resendMoves s ports).quiet = s.quiet := by
  unfold State.resendMoves
  repeat' (first
    | with_reducible rfl
    | (simp +zetaHave only [State.quiet_mk, State.quiet_eta, apply_ite State.quiet, apply_ite Prod.fst, ite_self, implies_true,
        State.each_quiet, State.foldl_quiet, State.foldl_fst_quiet, State.xsend_quiet]; done)
    | split
    | intro _
    | (dsimp +zetaHave only)
    | refine (State.each_quiet _ _ _ ?_).trans ?_
    | refine (State.foldl_quiet _ _ _ ?_).trans ?_
    | refine (State.foldl_fst_quiet _ _ _ ?_).trans ?_)

theorem State.ageClosed_quiet (s : State) (t : Nat) : (State.ageClosed s t).quiet = s.quiet := by
  unfold State.ageClosed
  repeat' (first
    | with_reducible rfl
    | (simp +zetaHave only [State.quiet_mk, State.quiet_eta, apply_ite State.quiet, apply_ite Prod.fst, ite_self, implies_true]; done)
    | split
    | intro _
    | (dsimp +zetaHave only))

end Sys2Proof.Machine
end

