-- ==== Sys2Proof/Laws/QuietContain.lean ====
section
/-! SUPPORT. Sys2Proof/Laws/QuietContain.lean: the operations of Machine/Contain.lean that leave it alone. -/

set_option linter.all false
set_option Elab.async false

namespace Sys2Proof.Machine
open Sys2Proof.Config
set_option linter.unusedSimpArgs false

theorem State.underlayRequests_quiet (s : State) : (State.underlayRequests s).quiet = s.quiet := by
  unfold State.underlayRequests
  repeat' (first
    | with_reducible rfl
    | (simp +zetaHave only [State.quiet_mk, State.quiet_eta, apply_ite State.quiet, apply_ite Prod.fst, ite_self, implies_true,
        State.raiseReq_quiet, State.abortAll_quiet]; done)
    | split
    | intro _
    | (dsimp +zetaHave only))

end Sys2Proof.Machine
end

