-- ==== Sys2Proof/Laws/Quiet.lean ====
section
/-! SUPPORT. Sys2Proof/Laws/Quiet.lean: the parts of what the sending of frames leaves alone, and what a cause of Underlay
mode does. -/

set_option linter.all false
set_option Elab.async false

namespace Sys2Proof.Machine

theorem State.quiet_parts {s t : State} (h : t.quiet = s.quiet) :
    t.hf = s.hf ∧ t.td = s.td ∧ t.regs = s.regs ∧ t.rs = s.rs ∧ t.im = s.im ∧ t.bt = s.bt ∧ t.ev = s.ev ∧ ({ t.sq with nodef := [] } : SeqUnit) = { s.sq with nodef := [] } ∧ t.od = s.od ∧
    t.gang = s.gang ∧ t.cp = s.cp ∧ t.home = s.home ∧ t.root = s.root ∧ t.topo = s.topo ∧ t.ties = s.ties ∧ t.clk = s.clk ∧
    t.pw.st = s.pw.st ∧ t.mm = s.mm ∧ ({ t.ck with gates := 0 } : ClockGen) = { s.ck with gates := 0 } := by
  simpa only [State.quiet, Prod.mk.injEq] using h

/-- The first cause of Underlay mode is latched with its unit, and MORE restarts. -/
theorem State.underlayCause_first (s : State) (c u : Nat) (h1 : s.hf.active = false) (h2 : s.hf.pend = false) :
    (s.underlayCause c u).quiet =
      ({ s with hf := { s.hf with newCause := true, pend := true, cause := c, unit := u, more := 0 } } : State).quiet := by
  unfold State.underlayCause
  simp only [h1, h2, Bool.or_false, Bool.false_eq_true, if_false, State.underlayRequests_quiet, State.raise_quiet]

/-- A later cause is only counted in MORE, which saturates. -/
theorem State.underlayCause_more (s : State) (c u : Nat) (h : s.hf.active = true ∨ s.hf.pend = true) :
    s.underlayCause c u = { s with hf := { s.hf with newCause := true, more := min 255 (s.hf.more + 1) } } := by
  unfold State.underlayCause
  rcases h with h | h <;> simp [h]

end Sys2Proof.Machine
end

