-- ==== Sys2Proof/Laws/ShotBase.lean ====
section
/-! SUPPORT. Sys2Proof/Laws/ShotBase.lean: what an edge at the shot engine may not change, and how it passes through the ways in which
states are put together. -/

set_option linter.all false
set_option Elab.async false

namespace Sys2Proof.Machine
/-- What an edge at the shot engine may not change. -/
def State.shot (s : State) := (s.ties, s.ck, s.clk, s.td, s.rs, s.regs, s.ports, s.root, s.home, s.topo, s.ce, s.od, s.hf, s.pw, s.gang, s.bt, s.sq, s.ev, s.mm, s.cp, s.did, s.logWr, s.out, s.free, s.pending)
theorem State.shot_mk (ties ck clk td rs regs cnt irq ports root home topo ce od hf pw gang im bt sq ev mm cp did logWr out free pending) :
    (State.mk ties ck clk td rs regs cnt irq ports root home topo ce od hf pw gang im bt sq ev mm cp did logWr out free pending).shot = (ties, ck, clk, td, rs, regs, ports, root, home, topo, ce, od, hf, pw, gang, bt, sq, ev, mm, cp, did, logWr, out, free, pending) := (rfl)
theorem State.shot_eta (s : State) : (s.ties, s.ck, s.clk, s.td, s.rs, s.regs, s.ports, s.root, s.home, s.topo, s.ce, s.od, s.hf, s.pw, s.gang, s.bt, s.sq, s.ev, s.mm, s.cp, s.did, s.logWr, s.out, s.free, s.pending) = s.shot := (rfl)
theorem State.foldl_shot {α : Type} (s : State) (l : List α) (f : State → α → State) (h : ∀ s a, (f s a).shot = s.shot) :
    (l.foldl f s).shot = s.shot := by
  induction l generalizing s with
  | nil => rfl
  | cons a l ih => simp [List.foldl, ih, h]
theorem State.each_shot (s : State) (l : List Nat) (f : State → Nat → State) (h : ∀ s n, (f s n).shot = s.shot) :
    (s.each l f).shot = s.shot := State.foldl_shot s l f h
theorem State.foldl_fst_shot {α β : Type} (a : State × α) (l : List β) (f : State × α → β → State × α)
    (h : ∀ a b, (f a b).1.shot = a.1.shot) : (l.foldl f a).1.shot = a.1.shot := by
  induction l generalizing a with
  | nil => rfl
  | cons b l ih => simp [List.foldl, ih, h]
end Sys2Proof.Machine
end

