-- ==== Sys2Proof/Laws/ShotOps.lean ====
section
/-! SUPPORT. Sys2Proof/Laws/ShotOps.lean: the operations of Machine/Ops.lean that leave it alone. -/

set_option linter.all false
set_option Elab.async false

namespace Sys2Proof.Machine
open Sys2Proof.Config
set_option linter.unusedSimpArgs false

theorem State.count_shot (s : State) (off : Nat) (k : Nat) : (State.count s off k).shot = s.shot := by
  unfold State.count
  repeat' (first
    | with_reducible rfl
    | (simp +zetaHave only [State.shot_mk, State.shot_eta, apply_ite State.shot, apply_ite Prod.fst, ite_self, implies_true]; done)
    | split
    | intro _
    | (dsimp +zetaHave only))

theorem State.clearCounters_shot (s : State) (lo : Nat) (hi : Nat) : (State.clearCounters s lo hi).shot = s.shot := by
  unfold State.clearCounters
  repeat' (first
    | with_reducible rfl
    | (simp +zetaHave only [State.shot_mk, State.shot_eta, apply_ite State.shot, apply_ite Prod.fst, ite_self, implies_true]; done)
    | split
    | intro _
    | (dsimp +zetaHave only))

theorem State.raise_shot (s : State) (k : Nat) : (State.raise s k).shot = s.shot := by
  unfold State.raise
  repeat' (first
    | with_reducible rfl
    | (simp +zetaHave only [State.shot_mk, State.shot_eta, apply_ite State.shot, apply_ite Prod.fst, ite_self, implies_true]; done)
    | split
    | intro _
    | (dsimp +zetaHave only))

theorem State.raiseIf_shot (s : State) (c : Bool) (k : Nat) : (State.raiseIf s c k).shot = s.shot := by
  unfold State.raiseIf
  repeat' (first
    | with_reducible rfl
    | (simp +zetaHave only [State.shot_mk, State.shot_eta, apply_ite State.shot, apply_ite Prod.fst, ite_self, implies_true,
        State.raise_shot]; done)
    | split
    | intro _
    | (dsimp +zetaHave only))

end Sys2Proof.Machine
end

