-- ==== Sys2Proof/Laws/ShotShot.lean ====
section
/-! SUPPORT. Sys2Proof/Laws/ShotShot.lean: the operations of Machine/Shot.lean that leave it alone. -/

set_option linter.all false
set_option Elab.async false

namespace Sys2Proof.Machine
open Sys2Proof.Config
set_option linter.unusedSimpArgs false

theorem State.pushRaw_shot (s : State) (r : StampRec) : (State.pushRaw s r).shot = s.shot := by
  unfold State.pushRaw
  repeat' (first
    | with_reducible rfl
    | (simp +zetaHave only [State.shot_mk, State.shot_eta, apply_ite State.shot, apply_ite Prod.fst, ite_self, implies_true,
        State.count_shot]; done)
    | split
    | intro _
    | (dsimp +zetaHave only))

theorem State.endShot_shot (s : State) (sh : Shot) (t : Int) : (State.endShot s sh t).shot = s.shot := by
  unfold State.endShot
  repeat' (first
    | with_reducible rfl
    | (simp +zetaHave only [State.shot_mk, State.shot_eta, apply_ite State.shot, apply_ite Prod.fst, ite_self, implies_true,
        State.foldl_shot, State.foldl_fst_shot, State.raiseIf_shot, State.pushRaw_shot]; done)
    | split
    | intro _
    | (dsimp +zetaHave only)
    | refine (State.foldl_shot _ _ _ ?_).trans ?_
    | refine (State.foldl_fst_shot _ _ _ ?_).trans ?_)

theorem State.putShot_shot (s : State) (sh : Shot) (t : Int) : (State.putShot s sh t).shot = s.shot := by
  unfold State.putShot
  repeat' (first
    | with_reducible rfl
    | (simp +zetaHave only [State.shot_mk, State.shot_eta, apply_ite State.shot, apply_ite Prod.fst, ite_self, implies_true,
        State.endShot_shot]; done)
    | split
    | intro _
    | (dsimp +zetaHave only))

theorem State.closeWindows_shot (s : State) (t : Int) : (State.closeWindows s t).shot = s.shot := by
  unfold State.closeWindows
  repeat' (first
    | with_reducible rfl
    | (simp +zetaHave only [State.shot_mk, State.shot_eta, apply_ite State.shot, apply_ite Prod.fst, ite_self, implies_true,
        State.foldl_shot, State.foldl_fst_shot, State.putShot_shot]; done)
    | split
    | intro _
    | (dsimp +zetaHave only)
    | refine (State.foldl_shot _ _ _ ?_).trans ?_
    | refine (State.foldl_fst_shot _ _ _ ?_).trans ?_)

theorem State.openShot_shot (s : State) (src : Nat) (t : Int) (same : List PastEdge) : (State.openShot s src t same).shot = s.shot := by
  unfold State.openShot
  repeat' (first
    | with_reducible rfl
    | (simp +zetaHave only [State.shot_mk, State.shot_eta, apply_ite State.shot, apply_ite Prod.fst, ite_self, implies_true,
        State.foldl_shot, State.foldl_fst_shot, State.putShot_shot]; done)
    | split
    | intro _
    | (dsimp +zetaHave only)
    | refine (State.foldl_shot _ _ _ ?_).trans ?_
    | refine (State.foldl_fst_shot _ _ _ ?_).trans ?_)

theorem State.remember_shot (s : State) (e : PastEdge) : (State.remember s e).shot = s.shot := by
  unfold State.remember
  repeat' (first
    | with_reducible rfl
    | (simp +zetaHave only [State.shot_mk, State.shot_eta, apply_ite State.shot, apply_ite Prod.fst, ite_self, implies_true]; done)
    | split
    | intro _
    | (dsimp +zetaHave only))

theorem State.shotFeed_shot (s : State) (src : Nat) (falling : Bool) (t : Int) (timed : Bool) : (State.shotFeed s src falling t timed).shot = s.shot := by
  unfold State.shotFeed
  repeat' (first
    | with_reducible rfl
    | (simp +zetaHave only [State.shot_mk, State.shot_eta, apply_ite State.shot, apply_ite Prod.fst, ite_self, implies_true,
        State.count_shot, State.putShot_shot, State.closeWindows_shot, State.openShot_shot, State.remember_shot]; done)
    | split
    | intro _
    | (dsimp +zetaHave only))

theorem State.clocksUpTo_shot (s : State) (t : Int) : (State.clocksUpTo s t).shot = s.shot := by
  unfold State.clocksUpTo
  repeat' (first
    | with_reducible rfl
    | (simp +zetaHave only [State.shot_mk, State.shot_eta, apply_ite State.shot, apply_ite Prod.fst, ite_self, implies_true,
        State.foldl_shot, State.foldl_fst_shot, State.shotFeed_shot]; done)
    | split
    | intro _
    | (dsimp +zetaHave only)
    | refine (State.foldl_shot _ _ _ ?_).trans ?_
    | refine (State.foldl_fst_shot _ _ _ ?_).trans ?_)

theorem State.shotEdge_shot (s : State) (src : Nat) (falling : Bool) (t : Int) (timed : Bool) : (State.shotEdge s src falling t timed).shot = s.shot := by
  unfold State.shotEdge
  repeat' (first
    | with_reducible rfl
    | (simp +zetaHave only [State.shot_mk, State.shot_eta, apply_ite State.shot, apply_ite Prod.fst, ite_self, implies_true,
        State.count_shot, State.putShot_shot, State.closeWindows_shot, State.openShot_shot, State.shotFeed_shot,
        State.clocksUpTo_shot]; done)
    | split
    | intro _
    | (dsimp +zetaHave only))

theorem State.portMark_shot (s : State) (src : Nat) (p : Nat) (t : Int) (timed : Bool) : (State.portMark s src p t timed).shot = s.shot := by
  unfold State.portMark
  repeat' (first
    | with_reducible rfl
    | (simp +zetaHave only [State.shot_mk, State.shot_eta, apply_ite State.shot, apply_ite Prod.fst, ite_self, implies_true,
        State.shotEdge_shot]; done)
    | split
    | intro _
    | (dsimp +zetaHave only))

theorem State.stepShot_shot (s : State) : (State.stepShot s).shot = s.shot := by
  unfold State.stepShot
  repeat' (first
    | with_reducible rfl
    | (simp +zetaHave only [State.shot_mk, State.shot_eta, apply_ite State.shot, apply_ite Prod.fst, ite_self, implies_true,
        State.count_shot]; done)
    | split
    | intro _
    | (dsimp +zetaHave only))

theorem State.abortShots_shot (s : State) (reason : Nat) : (State.abortShots s reason).shot = s.shot := by
  unfold State.abortShots
  repeat' (first
    | with_reducible rfl
    | (simp +zetaHave only [State.shot_mk, State.shot_eta, apply_ite State.shot, apply_ite Prod.fst, ite_self, implies_true]; done)
    | split
    | intro _
    | (dsimp +zetaHave only))

end Sys2Proof.Machine
end

