-- ==== Sys2Proof/Laws/WireBase.lean ====
section
/-! SUPPORT. Sys2Proof/Laws/WireBase.lean: what the delivery of a frame may not change, and how it passes through the ways in which
states are put together. -/

set_option linter.all false
set_option Elab.async false

namespace Sys2Proof.Machine
theorem State.wire_mk (ties ck clk td rs regs cnt irq ports root home topo ce od hf pw gang im bt sq ev mm cp did logWr out free pending) :
    (State.mk ties ck clk td rs regs cnt irq ports root home topo ce od hf pw gang im bt sq ev mm cp did logWr out free pending).wire = (td, regs, rs, im, bt, ev, sq, od, gang, ce, cp, home, root, topo, ties, did, pending, ({ clk with cyc := 0 } : CourseClock), ({ hf with wdog := none } : HealthMgr), ({ ck with gates := 0 } : ClockGen)) := (rfl)
theorem State.wire_eta (s : State) : (s.td, s.regs, s.rs, s.im, s.bt, s.ev, s.sq, s.od, s.gang, s.ce, s.cp, s.home, s.root, s.topo, s.ties, s.did, s.pending, ({ s.clk with cyc := 0 } : CourseClock), ({ s.hf with wdog := none } : HealthMgr), ({ s.ck with gates := 0 } : ClockGen)) = s.wire := (rfl)
theorem State.foldl_wire {α : Type} (s : State) (l : List α) (f : State → α → State) (h : ∀ s a, (f s a).wire = s.wire) :
    (l.foldl f s).wire = s.wire := by
  induction l generalizing s with
  | nil => rfl
  | cons a l ih => simp [List.foldl, ih, h]
theorem State.each_wire (s : State) (l : List Nat) (f : State → Nat → State) (h : ∀ s n, (f s n).wire = s.wire) :
    (s.each l f).wire = s.wire := State.foldl_wire s l f h
theorem State.foldl_fst_wire {α β : Type} (a : State × α) (l : List β) (f : State × α → β → State × α)
    (h : ∀ a b, (f a b).1.wire = a.1.wire) : (l.foldl f a).1.wire = a.1.wire := by
  induction l generalizing a with
  | nil => rfl
  | cons b l ih => simp [List.foldl, ih, h]
end Sys2Proof.Machine
end

