-- ==== Sys2Proof/Laws/WireOps.lean ====
section
/-! SUPPORT. Sys2Proof/Laws/WireOps.lean: the operations of Machine/Ops.lean that leave it alone. -/

set_option linter.all false
set_option Elab.async false

namespace Sys2Proof.Machine
open Sys2Proof.Config
set_option linter.unusedSimpArgs false

theorem State.count_wire (s : State) (off : Nat) (k : Nat) : (State.count s off k).wire = s.wire := by
  unfold State.count
  repeat' (first
    | with_reducible rfl
    | (simp +zetaHave only [State.wire_mk, State.wire_eta, apply_ite State.wire, apply_ite Prod.fst, ite_self, implies_true]; done)
    | split
    | intro _
    | (dsimp +zetaHave only))

theorem State.clearCounters_wire (s : State) (lo : Nat) (hi : Nat) : (State.clearCounters s lo hi).wire = s.wire := by
  unfold State.clearCounters
  repeat' (first
    | with_reducible rfl
    | (simp +zetaHave only [State.wire_mk, State.wire_eta, apply_ite State.wire, apply_ite Prod.fst, ite_self, implies_true]; done)
    | split
    | intro _
    | (dsimp +zetaHave only))

theorem State.drawFree_wire (s : State) : (State.drawFree s).1.wire = s.wire := by
  unfold State.drawFree
  repeat' (first
    | with_reducible rfl
    | (simp +zetaHave only [State.wire_mk, State.wire_eta, apply_ite State.wire, apply_ite Prod.fst, ite_self, implies_true]; done)
    | split
    | intro _
    | (dsimp +zetaHave only))

theorem State.raise_wire (s : State) (k : Nat) : (State.raise s k).wire = s.wire := by
  unfold State.raise
  repeat' (first
    | with_reducible rfl
    | (simp +zetaHave only [State.wire_mk, State.wire_eta, apply_ite State.wire, apply_ite Prod.fst, ite_self, implies_true]; done)
    | split
    | intro _
    | (dsimp +zetaHave only))

theorem State.raiseIf_wire (s : State) (c : Bool) (k : Nat) : (State.raiseIf s c k).wire = s.wire := by
  unfold State.raiseIf
  repeat' (first
    | with_reducible rfl
    | (simp +zetaHave only [State.wire_mk, State.wire_eta, apply_ite State.wire, apply_ite Prod.fst, ite_self, implies_true,
        State.raise_wire]; done)
    | split
    | intro _
    | (dsimp +zetaHave only))

theorem State.emit_wire (s : State) (o : Output) : (State.emit s o).wire = s.wire := by
  unfold State.emit
  repeat' (first
    | with_reducible rfl
    | (simp +zetaHave only [State.wire_mk, State.wire_eta, apply_ite State.wire, apply_ite Prod.fst, ite_self, implies_true]; done)
    | split
    | intro _
    | (dsimp +zetaHave only))

theorem State.evt_wire (s : State) (line : Nat) (k : Nat) : (State.evt s line k).wire = s.wire := by
  unfold State.evt
  repeat' (first
    | with_reducible rfl
    | (simp +zetaHave only [State.wire_mk, State.wire_eta, apply_ite State.wire, apply_ite Prod.fst, ite_self, implies_true,
        State.count_wire, State.emit_wire]; done)
    | split
    | intro _
    | (dsimp +zetaHave only))

theorem State.openGate_wire (s : State) (k : Nat) : (State.openGate s k).wire = s.wire := by
  unfold State.openGate
  repeat' (first
    | with_reducible rfl
    | (simp +zetaHave only [State.wire_mk, State.wire_eta, apply_ite State.wire, apply_ite Prod.fst, ite_self, implies_true,
        State.evt_wire]; done)
    | split
    | intro _
    | (dsimp +zetaHave only))

theorem State.busy_wire (s : State) : (State.busy s).wire = s.wire := by
  unfold State.busy
  repeat' (first
    | with_reducible rfl
    | (simp +zetaHave only [State.wire_mk, State.wire_eta, apply_ite State.wire, apply_ite Prod.fst, ite_self, implies_true]; done)
    | split
    | intro _
    | (dsimp +zetaHave only))

theorem State.setPower_wire (s : State) (st : PowerState) : (State.setPower s st).wire = s.wire := by
  unfold State.setPower
  repeat' (first
    | with_reducible rfl
    | (simp +zetaHave only [State.wire_mk, State.wire_eta, apply_ite State.wire, apply_ite Prod.fst, ite_self, implies_true]; done)
    | split
    | intro _
    | (dsimp +zetaHave only))

theorem State.napWake_wire (s : State) : (State.napWake s).wire = s.wire := by
  unfold State.napWake
  repeat' (first
    | with_reducible rfl
    | (simp +zetaHave only [State.wire_mk, State.wire_eta, apply_ite State.wire, apply_ite Prod.fst, ite_self, implies_true,
        State.foldl_wire, State.foldl_fst_wire, State.openGate_wire, State.setPower_wire]; done)
    | split
    | intro _
    | (dsimp +zetaHave only)
    | refine (State.foldl_wire _ _ _ ?_).trans ?_
    | refine (State.foldl_fst_wire _ _ _ ?_).trans ?_)

theorem State.latchWake_wire (s : State) (src : Nat) (arg : Nat) (req : Option HeldReq) : (State.latchWake s src arg req).wire = s.wire := by
  unfold State.latchWake
  repeat' (first
    | with_reducible rfl
    | (simp +zetaHave only [State.wire_mk, State.wire_eta, apply_ite State.wire, apply_ite Prod.fst, ite_self, implies_true]; done)
    | split
    | intro _
    | (dsimp +zetaHave only))

theorem State.atCyc_wire (s : State) (c : Nat) : (State.atCyc s c).wire = s.wire := by
  unfold State.atCyc
  repeat' (first
    | with_reducible rfl
    | (simp +zetaHave only [State.wire_mk, State.wire_eta, apply_ite State.wire, apply_ite Prod.fst, ite_self, implies_true]; done)
    | split
    | intro _
    | (dsimp +zetaHave only))

theorem State.setPort_wire (s : State) (p : Nat) (v : Port) : (State.setPort s p v).wire = s.wire := by
  unfold State.setPort
  repeat' (first
    | with_reducible rfl
    | (simp +zetaHave only [State.wire_mk, State.wire_eta, apply_ite State.wire, apply_ite Prod.fst, ite_self, implies_true]; done)
    | split
    | intro _
    | (dsimp +zetaHave only))

theorem State.modPort_wire (s : State) (p : Nat) (f : Port → Port) : (State.modPort s p f).wire = s.wire := by
  unfold State.modPort
  repeat' (first
    | with_reducible rfl
    | (simp +zetaHave only [State.wire_mk, State.wire_eta, apply_ite State.wire, apply_ite Prod.fst, ite_self, implies_true,
        State.setPort_wire]; done)
    | split
    | intro _
    | (dsimp +zetaHave only))

theorem State.memRead_wire (s : State) (use : MemUse) (addr : Nat) (beats : Nat) : (State.memRead s use addr beats).wire = s.wire := by
  unfold State.memRead
  repeat' (first
    | with_reducible rfl
    | (simp +zetaHave only [State.wire_mk, State.wire_eta, apply_ite State.wire, apply_ite Prod.fst, ite_self, implies_true,
        State.openGate_wire]; done)
    | split
    | intro _
    | (dsimp +zetaHave only))

theorem State.memWrite_wire (s : State) (use : MemUse) (addr : Nat) (bytes : List Nat) : (State.memWrite s use addr bytes).wire = s.wire := by
  unfold State.memWrite
  repeat' (first
    | with_reducible rfl
    | (simp +zetaHave only [State.wire_mk, State.wire_eta, apply_ite State.wire, apply_ite Prod.fst, ite_self, implies_true,
        State.openGate_wire]; done)
    | split
    | intro _
    | (dsimp +zetaHave only))

theorem State.memPump_wire (s : State) : (State.memPump s).wire = s.wire := by
  unfold State.memPump
  repeat' (first
    | with_reducible rfl
    | (simp +zetaHave only [State.wire_mk, State.wire_eta, apply_ite State.wire, apply_ite Prod.fst, ite_self, implies_true,
        State.memRead_wire, State.memWrite_wire]; done)
    | split
    | intro _
    | (dsimp +zetaHave only))

end Sys2Proof.Machine
end

