-- ==== Sys2Proof/Laws/WirePort.lean ====
section
/-! SUPPORT. Sys2Proof/Laws/WirePort.lean: the operations of Machine/Port.lean that leave it alone. -/

set_option linter.all false
set_option Elab.async false

namespace Sys2Proof.Machine
open Sys2Proof.Config
set_option linter.unusedSimpArgs false

theorem State.scoreEvent_wire (s : State) (p : Nat) (w : Nat) : (State.scoreEvent s p w).wire = s.wire := by
  unfold State.scoreEvent
  repeat' (first
    | with_reducible rfl
    | (simp +zetaHave only [State.wire_mk, State.wire_eta, apply_ite State.wire, apply_ite Prod.fst, ite_self, implies_true,
        State.openGate_wire, State.setPort_wire]; done)
    | split
    | intro _
    | (dsimp +zetaHave only))

theorem State.scorePar_wire (s : State) (p : Nat) (words : Nat) : (State.scorePar s p words).wire = s.wire := by
  unfold State.scorePar
  repeat' (first
    | with_reducible rfl
    | (simp +zetaHave only [State.wire_mk, State.wire_eta, apply_ite State.wire, apply_ite Prod.fst, ite_self, implies_true,
        State.scoreEvent_wire]; done)
    | split
    | intro _
    | (dsimp +zetaHave only))

theorem State.scoreFcs_wire (s : State) (p : Nat) : (State.scoreFcs s p).wire = s.wire := by
  unfold State.scoreFcs
  repeat' (first
    | with_reducible rfl
    | (simp +zetaHave only [State.wire_mk, State.wire_eta, apply_ite State.wire, apply_ite Prod.fst, ite_self, implies_true,
        State.scoreEvent_wire]; done)
    | split
    | intro _
    | (dsimp +zetaHave only))

theorem State.scoreFlap_wire (s : State) (p : Nat) : (State.scoreFlap s p).wire = s.wire := by
  unfold State.scoreFlap
  repeat' (first
    | with_reducible rfl
    | (simp +zetaHave only [State.wire_mk, State.wire_eta, apply_ite State.wire, apply_ite Prod.fst, ite_self, implies_true,
        State.scoreEvent_wire]; done)
    | split
    | intro _
    | (dsimp +zetaHave only))

theorem State.scoreRfail_wire (s : State) (p : Nat) : (State.scoreRfail s p).wire = s.wire := by
  unfold State.scoreRfail
  repeat' (first
    | with_reducible rfl
    | (simp +zetaHave only [State.wire_mk, State.wire_eta, apply_ite State.wire, apply_ite Prod.fst, ite_self, implies_true,
        State.scoreEvent_wire]; done)
    | split
    | intro _
    | (dsimp +zetaHave only))

theorem State.logRecord_wire (s : State) (r : StampRec) : (State.logRecord s r).wire = s.wire := by
  unfold State.logRecord
  repeat' (first
    | with_reducible rfl
    | (simp +zetaHave only [State.wire_mk, State.wire_eta, apply_ite State.wire, apply_ite Prod.fst, ite_self, implies_true,
        State.count_wire, State.raiseIf_wire, State.memWrite_wire]; done)
    | split
    | intro _
    | (dsimp +zetaHave only))

theorem State.stampRecord_wire (s : State) (p : Nat) (tx : Bool) (proto : Bool) (seq : Nat) (mtype : Nat) (express : Bool) (miss : Bool) (late : Bool) (t : Option Int) (cgen : Nat) : (State.stampRecord s p tx proto seq mtype express miss late t cgen).wire = s.wire := by
  unfold State.stampRecord
  repeat' (first
    | with_reducible rfl
    | (simp +zetaHave only [State.wire_mk, State.wire_eta, apply_ite State.wire, apply_ite Prod.fst, ite_self, implies_true,
        State.count_wire, State.drawFree_wire, State.setPort_wire, State.logRecord_wire, State.modPort_wire]; done)
    | split
    | intro _
    | (dsimp +zetaHave only))

theorem State.popStamp_wire (s : State) (m : Master) (p : Nat) : (State.popStamp s m p).wire = s.wire := by
  unfold State.popStamp
  repeat' (first
    | with_reducible rfl
    | (simp +zetaHave only [State.wire_mk, State.wire_eta, apply_ite State.wire, apply_ite Prod.fst, ite_self, implies_true,
        State.setPort_wire]; done)
    | split
    | intro _
    | (dsimp +zetaHave only))

theorem State.xsend_wire (s : State) (p : Nat) (b : Body) : (State.xsend s p b).wire = s.wire := by
  unfold State.xsend
  repeat' (first
    | with_reducible rfl
    | (simp +zetaHave only [State.wire_mk, State.wire_eta, apply_ite State.wire, apply_ite Prod.fst, ite_self, implies_true,
        State.count_wire, State.openGate_wire, State.setPort_wire]; done)
    | split
    | intro _
    | (dsimp +zetaHave only))

theorem State.xsendAll_wire (s : State) (ps : List Nat) (b : Body) : (State.xsendAll s ps b).wire = s.wire := by
  unfold State.xsendAll
  repeat' (first
    | with_reducible rfl
    | (simp +zetaHave only [State.wire_mk, State.wire_eta, apply_ite State.wire, apply_ite Prod.fst, ite_self, implies_true,
        State.each_wire, State.xsend_wire]; done)
    | split
    | intro _
    | (dsimp +zetaHave only)
    | refine (State.each_wire _ _ _ ?_).trans ?_)

theorem State.refillX_wire (s : State) (p : Nat) : (State.refillX s p).wire = s.wire := by
  unfold State.refillX
  repeat' (first
    | with_reducible rfl
    | (simp +zetaHave only [State.wire_mk, State.wire_eta, apply_ite State.wire, apply_ite Prod.fst, ite_self, implies_true,
        State.setPort_wire]; done)
    | split
    | intro _
    | (dsimp +zetaHave only))

theorem State.refillC_wire (s : State) (p : Nat) : (State.refillC s p).wire = s.wire := by
  unfold State.refillC
  repeat' (first
    | with_reducible rfl
    | (simp +zetaHave only [State.wire_mk, State.wire_eta, apply_ite State.wire, apply_ite Prod.fst, ite_self, implies_true,
        State.setPort_wire]; done)
    | split
    | intro _
    | (dsimp +zetaHave only))

theorem State.refill_wire (s : State) (p : Nat) : (State.refill s p).wire = s.wire := by
  unfold State.refill
  repeat' (first
    | with_reducible rfl
    | (simp +zetaHave only [State.wire_mk, State.wire_eta, apply_ite State.wire, apply_ite Prod.fst, ite_self, implies_true,
        State.each_wire, State.refillX_wire, State.refillC_wire]; done)
    | split
    | intro _
    | (dsimp +zetaHave only)
    | refine (State.each_wire _ _ _ ?_).trans ?_)

theorem State.flushPort_wire (s : State) (p : Nat) : (State.flushPort s p).wire = s.wire := by
  unfold State.flushPort
  repeat' (first
    | with_reducible rfl
    | (simp +zetaHave only [State.wire_mk, State.wire_eta, apply_ite State.wire, apply_ite Prod.fst, ite_self, implies_true,
        State.count_wire, State.setPort_wire]; done)
    | split
    | intro _
    | (dsimp +zetaHave only))

theorem State.flushCT_wire (s : State) (p : Nat) : (State.flushCT s p).wire = s.wire := by
  unfold State.flushCT
  repeat' (first
    | with_reducible rfl
    | (simp +zetaHave only [State.wire_mk, State.wire_eta, apply_ite State.wire, apply_ite Prod.fst, ite_self, implies_true,
        State.count_wire, State.setPort_wire]; done)
    | split
    | intro _
    | (dsimp +zetaHave only))

theorem State.dropExch_wire (s : State) (p : Nat) : (State.dropExch s p).wire = s.wire := by
  unfold State.dropExch
  repeat' (first
    | with_reducible rfl
    | (simp +zetaHave only [State.wire_mk, State.wire_eta, apply_ite State.wire, apply_ite Prod.fst, ite_self, implies_true,
        State.count_wire, State.setPort_wire]; done)
    | split
    | intro _
    | (dsimp +zetaHave only))

theorem State.restartLink_wire (s : State) (p : Nat) : (State.restartLink s p).wire = s.wire := by
  unfold State.restartLink
  repeat' (first
    | with_reducible rfl
    | (simp +zetaHave only [State.wire_mk, State.wire_eta, apply_ite State.wire, apply_ite Prod.fst, ite_self, implies_true,
        State.modPort_wire]; done)
    | split
    | intro _
    | (dsimp +zetaHave only))

theorem State.takeAck_wire (s : State) (p : Nat) (lack : Nat) : (State.takeAck s p lack).wire = s.wire := by
  unfold State.takeAck
  repeat' (first
    | with_reducible rfl
    | (simp +zetaHave only [State.wire_mk, State.wire_eta, apply_ite State.wire, apply_ite Prod.fst, ite_self, implies_true,
        State.setPort_wire, State.refill_wire]; done)
    | split
    | intro _
    | (dsimp +zetaHave only))

theorem State.attemptFails_wire (s : State) (p : Nat) : (State.attemptFails s p).wire = s.wire := by
  unfold State.attemptFails
  repeat' (first
    | with_reducible rfl
    | (simp +zetaHave only [State.wire_mk, State.wire_eta, apply_ite State.wire, apply_ite Prod.fst, ite_self, implies_true,
        State.count_wire, State.evt_wire, State.modPort_wire, State.scoreRfail_wire]; done)
    | split
    | intro _
    | (dsimp +zetaHave only))

theorem State.startAttempt_wire (s : State) (p : Nat) (n : Nat) (t : Nat) : (State.startAttempt s p n t).wire = s.wire := by
  unfold State.startAttempt
  repeat' (first
    | with_reducible rfl
    | (simp +zetaHave only [State.wire_mk, State.wire_eta, apply_ite State.wire, apply_ite Prod.fst, ite_self, implies_true,
        State.count_wire, State.evt_wire, State.setPort_wire]; done)
    | split
    | intro _
    | (dsimp +zetaHave only))

theorem State.takeNak_wire (s : State) (p : Nat) (n : Nat) : (State.takeNak s p n).wire = s.wire := by
  unfold State.takeNak
  repeat' (first
    | with_reducible rfl
    | (simp +zetaHave only [State.wire_mk, State.wire_eta, apply_ite State.wire, apply_ite Prod.fst, ite_self, implies_true,
        State.takeAck_wire, State.attemptFails_wire, State.startAttempt_wire]; done)
    | split
    | intro _
    | (dsimp +zetaHave only))

theorem State.replayTimeout_wire (s : State) (p : Nat) (t : Nat) : (State.replayTimeout s p t).wire = s.wire := by
  unfold State.replayTimeout
  repeat' (first
    | with_reducible rfl
    | (simp +zetaHave only [State.wire_mk, State.wire_eta, apply_ite State.wire, apply_ite Prod.fst, ite_self, implies_true,
        State.attemptFails_wire, State.startAttempt_wire]; done)
    | split
    | intro _
    | (dsimp +zetaHave only))

theorem State.fillBuckets_wire (s : State) (p : Nat) : (State.fillBuckets s p).wire = s.wire := by
  unfold State.fillBuckets
  repeat' (first
    | with_reducible rfl
    | (simp +zetaHave only [State.wire_mk, State.wire_eta, apply_ite State.wire, apply_ite Prod.fst, ite_self, implies_true,
        State.setPort_wire]; done)
    | split
    | intro _
    | (dsimp +zetaHave only))

theorem State.dropTooLong_wire (s : State) (p : Nat) : (State.dropTooLong s p).wire = s.wire := by
  unfold State.dropTooLong
  repeat' (first
    | with_reducible rfl
    | (simp +zetaHave only [State.wire_mk, State.wire_eta, apply_ite State.wire, apply_ite Prod.fst, ite_self, implies_true,
        State.count_wire, State.setPort_wire]; done)
    | split
    | intro _
    | (dsimp +zetaHave only))

theorem State.handOver_wire (s : State) (p : Nat) (q : QFrame) : (State.handOver s p q).wire = s.wire := by
  unfold State.handOver
  repeat' (first
    | with_reducible rfl
    | (simp +zetaHave only [State.wire_mk, State.wire_eta, apply_ite State.wire, apply_ite Prod.fst, ite_self, implies_true,
        State.count_wire, State.emit_wire, State.evt_wire, State.setPort_wire]; done)
    | split
    | intro _
    | (dsimp +zetaHave only))

theorem State.windowWait_wire (s : State) (p : Nat) : (State.windowWait s p).wire = s.wire := by
  unfold State.windowWait
  repeat' (first
    | with_reducible rfl
    | (simp +zetaHave only [State.wire_mk, State.wire_eta, apply_ite State.wire, apply_ite Prod.fst, ite_self, implies_true,
        State.count_wire, State.setPort_wire]; done)
    | split
    | intro _
    | (dsimp +zetaHave only))

theorem State.handoverT_wire (s : State) (p : Nat) : (State.handoverT s p).wire = s.wire := by
  unfold State.handoverT
  repeat' (first
    | with_reducible rfl
    | (simp +zetaHave only [State.wire_mk, State.wire_eta, apply_ite State.wire, apply_ite Prod.fst, ite_self, implies_true,
        State.count_wire, State.setPort_wire, State.handOver_wire, State.windowWait_wire]; done)
    | split
    | intro _
    | (dsimp +zetaHave only))

theorem State.handoverCT_wire (s : State) (p : Nat) : (State.handoverCT s p).wire = s.wire := by
  unfold State.handoverCT
  repeat' (first
    | with_reducible rfl
    | (simp +zetaHave only [State.wire_mk, State.wire_eta, apply_ite State.wire, apply_ite Prod.fst, ite_self, implies_true,
        State.setPort_wire, State.handOver_wire, State.handoverT_wire]; done)
    | split
    | intro _
    | (dsimp +zetaHave only))

theorem State.dropMismatched_wire (s : State) (p : Nat) : (State.dropMismatched s p).wire = s.wire := by
  unfold State.dropMismatched
  repeat' (first
    | with_reducible rfl
    | (simp +zetaHave only [State.wire_mk, State.wire_eta, apply_ite State.wire, apply_ite Prod.fst, ite_self, implies_true,
        State.count_wire, State.setPort_wire]; done)
    | split
    | intro _
    | (dsimp +zetaHave only))

theorem State.handover_wire (s : State) (p : Nat) : (State.handover s p).wire = s.wire := by
  unfold State.handover
  repeat' (first
    | with_reducible rfl
    | (simp +zetaHave only [State.wire_mk, State.wire_eta, apply_ite State.wire, apply_ite Prod.fst, ite_self, implies_true,
        State.setPort_wire, State.fillBuckets_wire, State.dropTooLong_wire, State.handOver_wire, State.refillX_wire,
        State.handoverCT_wire, State.refill_wire, State.dropMismatched_wire]; done)
    | split
    | intro _
    | (dsimp +zetaHave only))

end Sys2Proof.Machine
end

