-- ==== Sys2Proof/Laws/WireRx.lean ====
section
/-! SUPPORT. Sys2Proof/Laws/WireRx.lean: the operations of Machine/Rx.lean that leave it alone. -/

set_option linter.all false
set_option Elab.async false

namespace Sys2Proof.Machine
open Sys2Proof.Config
set_option linter.unusedSimpArgs false

theorem State.openGap_wire (s : State) (p : Nat) (scored : Bool) : (State.openGap s p scored).wire = s.wire := by
  unfold State.openGap
  repeat' (first
    | with_reducible rfl
    | (simp +zetaHave only [State.wire_mk, State.wire_eta, apply_ite State.wire, apply_ite Prod.fst, ite_self, implies_true,
        State.count_wire, State.evt_wire, State.setPort_wire, State.scoreFcs_wire, State.xsend_wire]; done)
    | split
    | intro _
    | (dsimp +zetaHave only))

theorem State.heldGone_wire (s : State) (p : Nat) (mark : Nat) : (State.heldGone s p mark).wire = s.wire := by
  unfold State.heldGone
  repeat' (first
    | with_reducible rfl
    | (simp +zetaHave only [State.wire_mk, State.wire_eta, apply_ite State.wire, apply_ite Prod.fst, ite_self, implies_true,
        State.setPort_wire, State.openGap_wire]; done)
    | split
    | intro _
    | (dsimp +zetaHave only))

theorem State.claimMark_wire (s : State) (p : Nat) (id : Nat) : (State.claimMark s p id).1.wire = s.wire := by
  unfold State.claimMark
  repeat' (first
    | with_reducible rfl
    | (simp +zetaHave only [State.wire_mk, State.wire_eta, apply_ite State.wire, apply_ite Prod.fst, ite_self, implies_true,
        State.setPort_wire]; done)
    | split
    | intro _
    | (dsimp +zetaHave only))

theorem State.txInsLate_wire (s : State) (p : Nat) : (State.txInsLate s p).wire = s.wire := by
  unfold State.txInsLate
  repeat' (first
    | with_reducible rfl
    | (simp +zetaHave only [State.wire_mk, State.wire_eta, apply_ite State.wire, apply_ite Prod.fst, ite_self, implies_true,
        State.count_wire, State.setPort_wire, State.memWrite_wire]; done)
    | split
    | intro _
    | (dsimp +zetaHave only))

theorem State.rxSeq_wire (s : State) (p : Nat) (lseq : Nat) (mark : Nat) (express : Bool) : (State.rxSeq s p lseq mark express).1.wire = s.wire := by
  unfold State.rxSeq
  repeat' (first
    | with_reducible rfl
    | (simp +zetaHave only [State.wire_mk, State.wire_eta, apply_ite State.wire, apply_ite Prod.fst, ite_self, implies_true,
        State.count_wire, State.setPort_wire, State.openGap_wire, State.heldGone_wire]; done)
    | split
    | intro _
    | (dsimp +zetaHave only))

theorem State.rxCorrupt_wire (s : State) (p : Nat) (bad : RxBad) : (State.rxCorrupt s p bad).wire = s.wire := by
  unfold State.rxCorrupt
  repeat' (first
    | with_reducible rfl
    | (simp +zetaHave only [State.wire_mk, State.wire_eta, apply_ite State.wire, apply_ite Prod.fst, ite_self, implies_true,
        State.count_wire, State.evt_wire, State.scorePar_wire, State.scoreFcs_wire, State.openGap_wire]; done)
    | split
    | intro _
    | (dsimp +zetaHave only))

theorem Rx.drop_wire (s : State) (st : Stamp) : (Rx.drop s st).s.wire = s.wire := by
  unfold Rx.drop
  repeat' (first
    | with_reducible rfl
    | (simp +zetaHave only [State.wire_mk, State.wire_eta, apply_ite State.wire, apply_ite Prod.fst, ite_self, implies_true,
        apply_ite Rx.s, Rx.drop_s]; done)
    | split
    | intro _
    | (dsimp +zetaHave only))

theorem State.rxBegin_wire (s : State) (h : RxBase) (proto : Bool) (seq : Nat) (typ : Nat) (express : Bool) : (State.rxBegin s h proto seq typ express).s.wire = s.wire := by
  unfold State.rxBegin
  repeat' (first
    | with_reducible rfl
    | (simp +zetaHave only [State.wire_mk, State.wire_eta, apply_ite State.wire, apply_ite Prod.fst, ite_self, implies_true,
        apply_ite Rx.s, Rx.drop_s, State.count_wire, State.evt_wire, State.atCyc_wire, State.stampRecord_wire,
        State.claimMark_wire, Rx.drop_wire, State.heldGone_wire]; done)
    | split
    | intro _
    | (dsimp +zetaHave only))

theorem State.rxZudar_wire (s : State) (h : RxHead) (k : RxKind) (bodyOk : Bool) : (s.rxZudar h k bodyOk).s.wire = s.wire := by
  have h1 : ∀ t : State, (if k.express then t else (t.napWake).busy).wire = t.wire := fun t => by
    split
    · rfl
    · rw [State.busy_wire, State.napWake_wire]
  have h2 : ∀ t : State, (if k.typ = 0x04 then t else t.takeAck h.port h.lack).wire = t.wire := fun t => by
    split
    · rfl
    · exact State.takeAck_wire _ _ _
  have h3 : ∀ t : State, (if h.rpl then t.rxSeq h.port h.lseq h.mark k.express else (t.heldGone h.port h.mark, true)).1.wire = t.wire :=
    fun t => by
      split
      · exact State.rxSeq_wire _ _ _ _ _
      · exact State.heldGone_wire _ _ _
  have hb := State.rxBegin_wire s h.toRxBase true h.seq k.typ k.express
  unfold State.rxZudar
  extract_lets r
  split
  · exact hb
  rename_i s1 p v s2 q s3 hr
  have e1 : s1.wire = s.wire := (h1 _).trans hb
  have e3 : s3.wire = s.wire := (h3 _).trans ((h2 _).trans e1)
  clear_value s1 s3 q
  repeat' split
  all_goals simp only [Rx.drop_s, State.count_wire, State.heldGone_wire, e1, e3, apply_ite State.wire, ite_self]

theorem State.rxPtp_wire (s : State) (h : PtpHead) (typ : Nat) (need : Nat) : (State.rxPtp s h typ need).s.wire = s.wire := by
  unfold State.rxPtp
  repeat' (first
    | with_reducible rfl
    | (simp +zetaHave only [State.wire_mk, State.wire_eta, apply_ite State.wire, apply_ite Prod.fst, ite_self, implies_true,
        apply_ite Rx.s, Rx.drop_s, State.count_wire, Rx.drop_wire, State.rxBegin_wire]; done)
    | split
    | intro _
    | (dsimp +zetaHave only))

end Sys2Proof.Machine
end

