-- ==== Sys2Proof/Laws/WireLink.lean ====
section
/-! SUPPORT. Sys2Proof/Laws/WireLink.lean: the operations of Machine/Link.lean that leave it alone. -/

set_option linter.all false
set_option Elab.async false

namespace Sys2Proof.Machine
open Sys2Proof.Config
set_option linter.unusedSimpArgs false

theorem State.sendHello_wire (s : State) (p : Nat) : (State.sendHello s p).wire = s.wire := by
  unfold State.sendHello
  repeat' (first
    | with_reducible rfl
    | (simp +zetaHave only [State.wire_mk, State.wire_eta, apply_ite State.wire, apply_ite Prod.fst, ite_self, implies_true,
        State.xsend_wire]; done)
    | split
    | intro _
    | (dsimp +zetaHave only))

theorem State.comeUp_wire (s : State) (p : Nat) : (State.comeUp s p).wire = s.wire := by
  unfold State.comeUp
  repeat' (first
    | with_reducible rfl
    | (simp +zetaHave only [State.wire_mk, State.wire_eta, apply_ite State.wire, apply_ite Prod.fst, ite_self, implies_true,
        State.modPort_wire, State.dropExch_wire, State.restartLink_wire]; done)
    | split
    | intro _
    | (dsimp +zetaHave only))

theorem State.sendAck_wire (s : State) (p : Nat) : (State.sendAck s p).wire = s.wire := by
  unfold State.sendAck
  repeat' (first
    | with_reducible rfl
    | (simp +zetaHave only [State.wire_mk, State.wire_eta, apply_ite State.wire, apply_ite Prod.fst, ite_self, implies_true,
        State.modPort_wire, State.xsend_wire]; done)
    | split
    | intro _
    | (dsimp +zetaHave only))

theorem State.debtClear_wire (s : State) (v : Nat) : (State.debtClear s v).wire = s.wire := by
  unfold State.debtClear
  repeat' (first
    | with_reducible rfl
    | (simp +zetaHave only [State.wire_mk, State.wire_eta, apply_ite State.wire, apply_ite Prod.fst, ite_self, implies_true,
        State.each_wire, State.modPort_wire, State.fillBuckets_wire]; done)
    | split
    | intro _
    | (dsimp +zetaHave only)
    | refine (State.each_wire _ _ _ ?_).trans ?_)

theorem State.applyConstants_wire (s : State) (p : Nat) : (State.applyConstants s p).wire = s.wire := by
  unfold State.applyConstants
  repeat' (first
    | with_reducible rfl
    | (simp +zetaHave only [State.wire_mk, State.wire_eta, apply_ite State.wire, apply_ite Prod.fst, ite_self, implies_true,
        State.setPort_wire]; done)
    | split
    | intro _
    | (dsimp +zetaHave only))

end Sys2Proof.Machine
end

