-- ==== Sys2Proof/Laws/Write.lean ====
section
/-! SUPPORT. Sys2Proof/Laws/Write.lean: what a register write by a master comes to in service: the path from the access to
the operation of the register, once for every write. -/

set_option linter.all false
set_option Elab.async false

namespace Sys2Proof.Machine
open Sys2Proof.Config

theorem State.Serving.up {s : State} (h : s.Serving) : s.up = true := by simp [State.up, h.1, h.2]
theorem State.main_up {s : State} {f : State → State} (h : s.up = true) : s.main f = .next (f s) := by
  unfold State.main; rw [if_pos h]
theorem State.Serving.main {s : State} {f : State → State} (h : s.Serving) : s.main f = .next (f s) := State.main_up h.up
theorem State.Serving.asleep {s : State} (h : s.Serving) : s.asleep = false := by simp [State.asleep, h.2]
theorem State.busy_phase (s : State) : s.busy.ck.phase = s.ck.phase := rfl
theorem State.openGate_phase (s : State) (k : Nat) : (s.openGate k).ck.phase = s.ck.phase :=
  (State.fixed_parts (State.openGate_fixed s k)).2.2.1
theorem State.touch_phase (s : State) (m : Master) (off : Nat) : (s.touch m off).ck.phase = s.ck.phase :=
  (State.fixed_parts (State.touch_fixed s m off)).2.2.1

/-- The access of a master to the block in service wakes nothing. -/
theorem State.wake_touch {s : State} (h : s.pw.st = .active) (m : Master) (off : Nat) :
    (if m = .cp then s else s.wake m.wakeSrc 0 none).touch m off = s.touch m off := by
  have hb : s.busy.pw.st = .active := h
  by_cases hm : m = .cp
  · rw [if_pos hm]
  · rw [if_neg hm]
    have hw : s.wake m.wakeSrc 0 none = s.busy := by unfold State.wake; dsimp +zetaHave only; rw [hb]
    rw [hw]
    unfold State.touch
    simp only [if_neg hm]
    rfl

/-- A write by the host or the sideband to the main logic in service. -/
theorem State.writeBy_serving {s : State} (h : s.Serving) (m : Master) (off : Nat) (wide : Bool) (v : Nat)
    (ha : alwaysOn off = false) : s.writeBy m off wide v = (s.touch m off).regWrite m off wide v := by
  have hw := State.wake_touch h.2 m off
  have ht : (s.touch m off).ck.phase = .running := (State.touch_phase s m off).trans h.1
  unfold State.writeBy State.access
  rw [hw]
  simp [h.1, ha, h.asleep, State.doWrite, ht]

theorem State.writeBy_aon {s : State} (h : s.ck.phase = .running) (m : Master) (off : Nat) (wide : Bool) (v : Nat)
    (ha : alwaysOn off = true) : s.writeBy m off wide v = s.regWrite m off wide v := by
  unfold State.writeBy State.access
  simp [h, ha, State.doWrite]

theorem State.touch_none {s : State} (m : Master) (hm : m ≠ .cp) (off : Nat) (h : s.busy.gateOf off = none) : s.touch m off = s.busy := by
  unfold State.touch
  simp [hm, h]

/-- A 32-bit write of a register that is 32 bits wide and is no half of a wider one. -/
theorem State.regWrite_word (s : State) (m : Master) (off v : Nat) (h4 : off % 4 = 0) (lo : off < 0x100000)
    (hs : slotAt off = none) (hw : s.isWide m off = false) (hh : off % 8 = 4 → s.isWide m (off - 4) = false) :
    s.regWrite m off false v = s.putReg m off (v % 2 ^ 32) := by
  unfold State.regWrite
  rw [if_neg (by simp [h4]), if_neg (by omega), if_neg (by omega), hs]
  simp only [if_true]
  unfold State.put32
  simp only [hw, Bool.false_eq_true, if_false]
  rw [if_neg]
  intro h
  rw [hh h.1] at h
  exact absurd h.2 (by simp)

theorem State.portAt_low (s : State) (off : Nat) (h : off < 0x10000) : s.portAt off = none := by
  unfold State.portAt; rw [if_neg (by omega)]

/-! ### The offsets of the commands that stand for register writes -/

theorem State.rwReg_00C0 (s : State) : s.rwReg 0x00C0 = none := by
  unfold State.rwReg; cases h : s.isEave <;> rfl
theorem State.rwReg_12C0 (s : State) : s.rwReg 0x12C0 = none := by
  unfold State.rwReg; cases h : s.isEave <;> rfl
theorem State.rwReg_2340 (s : State) : s.rwReg 0x2340 = none := by
  unfold State.rwReg; cases h : s.isEave <;> rfl
theorem State.rwReg_30C0 (s : State) : s.rwReg 0x30C0 = none := by
  unfold State.rwReg; cases h : s.isEave <;> rfl
theorem State.rwReg_40C0 (s : State) : s.rwReg 0x40C0 = none := by
  unfold State.rwReg; cases h : s.isEave <;> rfl
theorem State.rwReg_5240 (s : State) : s.rwReg 0x5240 = none := by
  unfold State.rwReg; cases h : s.isEave <;> rfl
theorem State.rwReg_60C0 (s : State) : s.rwReg 0x60C0 = none := by
  unfold State.rwReg; cases h : s.isEave <;> rfl
theorem State.rwReg_70C0 (s : State) : s.rwReg 0x70C0 = none := by
  unfold State.rwReg; cases h : s.isEave <;> rfl
theorem State.rwReg_80C0 (s : State) : s.rwReg 0x80C0 = none := by
  unfold State.rwReg; cases h : s.isEave <;> rfl
theorem State.rwReg_90C0 (s : State) : s.rwReg 0x90C0 = none := by
  unfold State.rwReg; cases h : s.isEave <;> rfl
theorem State.rwReg_A0C0 (s : State) : s.rwReg 0xA0C0 = none := by
  unfold State.rwReg; cases h : s.isEave <;> rfl
theorem State.rwReg_B0C0 (s : State) : s.rwReg 0xB0C0 = none := by
  unfold State.rwReg; cases h : s.isEave <;> rfl
theorem State.rwReg_D0C0 (s : State) : s.rwReg 0xD0C0 = none := by
  unfold State.rwReg; cases h : s.isEave <;> rfl
theorem State.rwReg_0010 (s : State) : s.rwReg 0x0010 = none := by
  unfold State.rwReg; cases h : s.isEave <;> rfl
theorem State.rwReg_001C (s : State) : s.rwReg 0x001C = none := by
  unfold State.rwReg; cases h : s.isEave <;> rfl
theorem State.rwReg_7018 (s : State) : s.rwReg 0x7018 = none := by
  unfold State.rwReg; cases h : s.isEave <;> rfl
theorem State.rwReg_8040 (s : State) : s.rwReg 0x8040 = none := by
  unfold State.rwReg; cases h : s.isEave <;> rfl
theorem State.rwReg_8048 (s : State) : s.rwReg 0x8048 = none := by
  unfold State.rwReg; cases h : s.isEave <;> rfl
theorem State.rwReg_A01C (s : State) : s.rwReg 0xA01C = none := by
  unfold State.rwReg; cases h : s.isEave <;> rfl
theorem State.rwReg_3000 (s : State) : s.rwReg 0x3000 = some CG_CTL := by
  unfold State.rwReg; cases h : s.isEave <;> rfl
theorem State.rwReg_3030 (s : State) : s.rwReg 0x3030 = some CG_CLKOUT := by
  unfold State.rwReg; cases h : s.isEave <;> rfl
theorem State.rwReg_4000 (s : State) : s.rwReg 0x4000 = some IM_CTL := by
  unfold State.rwReg; cases h : s.isEave <;> rfl
theorem State.rwReg_4050 (s : State) : s.rwReg 0x4050 = some IM_CAL_CFG := by
  unfold State.rwReg; cases h : s.isEave <;> rfl
theorem State.rwReg_C000 (s : State) : s.rwReg 0xC000 = some ZC_CTL := by
  unfold State.rwReg; cases h : s.isEave <;> rfl
theorem State.rwReg_A018 (s : State) : s.rwReg 0xA018 = some CP_OWN := by
  unfold State.rwReg; cases h : s.isEave <;> rfl
theorem State.rwReg_A030 (s : State) : s.rwReg 0xA030 = some CP_RING_CFG := by
  unfold State.rwReg; cases h : s.isEave <;> rfl
theorem State.rwReg_0018 (s : State) : s.rwReg 0x0018 = some GC_IRQ_SB_EN := by
  unfold State.rwReg; cases h : s.isEave <;> rfl
theorem State.isWide_0010 (s : State) (m : Master) : s.isWide m 0x0010 = false := by
  unfold State.isWide State.regAt State.isCounter; rw [State.rwReg_0010]; cases h : s.isEave <;> simp only [] <;> rfl
theorem State.isWide_0018 (s : State) (m : Master) : s.isWide m 0x0018 = false := by
  unfold State.isWide State.regAt State.isCounter; rw [State.rwReg_0018]; cases h : s.isEave <;> simp only [] <;> rfl
theorem State.isWide_001C (s : State) (m : Master) : s.isWide m 0x001C = false := by
  unfold State.isWide State.regAt State.isCounter; rw [State.rwReg_001C]; cases h : s.isEave <;> simp only [] <;> rfl
theorem State.isWide_00C0 (s : State) (m : Master) : s.isWide m 0x00C0 = false := by
  unfold State.isWide State.regAt State.isCounter; rw [State.rwReg_00C0]; cases h : s.isEave <;> simp only [] <;> rfl
theorem State.isWide_12C0 (s : State) (m : Master) : s.isWide m 0x12C0 = false := by
  unfold State.isWide State.regAt State.isCounter; rw [State.rwReg_12C0]; cases h : s.isEave <;> simp only [] <;> rfl
theorem State.isWide_2340 (s : State) (m : Master) : s.isWide m 0x2340 = false := by
  unfold State.isWide State.regAt State.isCounter; rw [State.rwReg_2340]; cases h : s.isEave <;> simp only [] <;> rfl
theorem State.isWide_3000 (s : State) (m : Master) : s.isWide m 0x3000 = false := by
  unfold State.isWide State.regAt State.isCounter; rw [State.rwReg_3000]; cases h : s.isEave <;> simp only [] <;> rfl
theorem State.isWide_3030 (s : State) (m : Master) : s.isWide m 0x3030 = false := by
  unfold State.isWide State.regAt State.isCounter; rw [State.rwReg_3030]; cases h : s.isEave <;> simp only [] <;> rfl
theorem State.isWide_30C0 (s : State) (m : Master) : s.isWide m 0x30C0 = false := by
  unfold State.isWide State.regAt State.isCounter; rw [State.rwReg_30C0]; cases h : s.isEave <;> simp only [] <;> rfl
theorem State.isWide_4000 (s : State) (m : Master) : s.isWide m 0x4000 = false := by
  unfold State.isWide State.regAt State.isCounter; rw [State.rwReg_4000]; cases h : s.isEave <;> simp only [] <;> rfl
theorem State.isWide_4050 (s : State) (m : Master) : s.isWide m 0x4050 = false := by
  unfold State.isWide State.regAt State.isCounter; rw [State.rwReg_4050]; cases h : s.isEave <;> simp only [] <;> rfl
theorem State.isWide_40C0 (s : State) (m : Master) : s.isWide m 0x40C0 = false := by
  unfold State.isWide State.regAt State.isCounter; rw [State.rwReg_40C0]; cases h : s.isEave <;> simp only [] <;> rfl
theorem State.sqView_5240 (s : State) : s.sqView 0x5240 = none := by
  unfold State.sqView; cases h : s.isEave <;> rfl
theorem State.isWide_5240 (s : State) (m : Master) : s.isWide m 0x5240 = false := by
  unfold State.isWide State.regAt State.isCounter; rw [State.rwReg_5240]; cases h : s.isEave <;>
    simp [State.portAt_low, State.sqView_5240, inRun, blockAt, slotAt, PF_LOG_DROP]
theorem State.isWide_60C0 (s : State) (m : Master) : s.isWide m 0x60C0 = false := by
  unfold State.isWide State.regAt State.isCounter; rw [State.rwReg_60C0]; cases h : s.isEave <;> simp only [] <;> rfl
theorem State.isWide_7018 (s : State) (m : Master) : s.isWide m 0x7018 = false := by
  unfold State.isWide State.regAt State.isCounter; rw [State.rwReg_7018]; cases h : s.isEave <;> simp only [] <;> rfl
theorem State.isWide_70C0 (s : State) (m : Master) : s.isWide m 0x70C0 = false := by
  unfold State.isWide State.regAt State.isCounter; rw [State.rwReg_70C0]; cases h : s.isEave <;> simp only [] <;> rfl
theorem State.isWide_8040 (s : State) (m : Master) : s.isWide m 0x8040 = false := by
  unfold State.isWide State.regAt State.isCounter; rw [State.rwReg_8040]; cases h : s.isEave <;> simp only [] <;> rfl
theorem State.isWide_8048 (s : State) (m : Master) : s.isWide m 0x8048 = false := by
  unfold State.isWide State.regAt State.isCounter; rw [State.rwReg_8048]; cases h : s.isEave <;> simp only [] <;> rfl
theorem State.isWide_80C0 (s : State) (m : Master) : s.isWide m 0x80C0 = false := by
  unfold State.isWide State.regAt State.isCounter; rw [State.rwReg_80C0]; cases h : s.isEave <;> simp only [] <;> rfl
theorem State.isWide_90C0 (s : State) (m : Master) : s.isWide m 0x90C0 = false := by
  unfold State.isWide State.regAt State.isCounter; rw [State.rwReg_90C0]; cases h : s.isEave <;> simp only [] <;> rfl
theorem State.isWide_A018 (s : State) (m : Master) : s.isWide m 0xA018 = false := by
  unfold State.isWide State.regAt State.isCounter; rw [State.rwReg_A018]; cases h : s.isEave <;> simp only [] <;> rfl
theorem State.isWide_A01C (s : State) (m : Master) : s.isWide m 0xA01C = false := by
  unfold State.isWide State.regAt State.isCounter; rw [State.rwReg_A01C]; cases h : s.isEave <;> simp only [] <;> rfl
theorem State.isWide_A030 (s : State) (m : Master) : s.isWide m 0xA030 = false := by
  unfold State.isWide State.regAt State.isCounter; rw [State.rwReg_A030]; cases h : s.isEave <;> simp only [] <;> rfl
theorem State.isWide_A0C0 (s : State) (m : Master) : s.isWide m 0xA0C0 = false := by
  unfold State.isWide State.regAt State.isCounter; rw [State.rwReg_A0C0]; cases h : s.isEave <;> simp only [] <;> rfl
theorem State.isWide_B0C0 (s : State) (m : Master) : s.isWide m 0xB0C0 = false := by
  unfold State.isWide State.regAt State.isCounter; rw [State.rwReg_B0C0]; cases h : s.isEave <;> simp only [] <;> rfl
theorem State.isWide_C000 (s : State) (m : Master) : s.isWide m 0xC000 = false := by
  unfold State.isWide State.regAt State.isCounter; rw [State.rwReg_C000]; cases h : s.isEave <;> simp only [] <;> rfl
theorem State.isWide_D0C0 (s : State) (m : Master) : s.isWide m 0xD0C0 = false := by
  unfold State.isWide State.regAt State.isCounter; rw [State.rwReg_D0C0]; cases h : s.isEave <;> simp only [] <;> rfl
theorem State.regWrite_00C0 (s : State) (m : Master) (v : Nat) : s.regWrite m 0x00C0 false v = s.putReg m 0x00C0 (v % 2 ^ 32) :=
  s.regWrite_word m 0x00C0 v (by decide) (by decide) (by decide) (s.isWide_00C0 m) (fun h => absurd h (by decide))
theorem State.regWrite_12C0 (s : State) (m : Master) (v : Nat) : s.regWrite m 0x12C0 false v = s.putReg m 0x12C0 (v % 2 ^ 32) :=
  s.regWrite_word m 0x12C0 v (by decide) (by decide) (by decide) (s.isWide_12C0 m) (fun h => absurd h (by decide))
theorem State.regWrite_2340 (s : State) (m : Master) (v : Nat) : s.regWrite m 0x2340 false v = s.putReg m 0x2340 (v % 2 ^ 32) :=
  s.regWrite_word m 0x2340 v (by decide) (by decide) (by decide) (s.isWide_2340 m) (fun h => absurd h (by decide))
theorem State.regWrite_30C0 (s : State) (m : Master) (v : Nat) : s.regWrite m 0x30C0 false v = s.putReg m 0x30C0 (v % 2 ^ 32) :=
  s.regWrite_word m 0x30C0 v (by decide) (by decide) (by decide) (s.isWide_30C0 m) (fun h => absurd h (by decide))
theorem State.regWrite_40C0 (s : State) (m : Master) (v : Nat) : s.regWrite m 0x40C0 false v = s.putReg m 0x40C0 (v % 2 ^ 32) :=
  s.regWrite_word m 0x40C0 v (by decide) (by decide) (by decide) (s.isWide_40C0 m) (fun h => absurd h (by decide))
theorem State.regWrite_5240 (s : State) (m : Master) (v : Nat) : s.regWrite m 0x5240 false v = s.putReg m 0x5240 (v % 2 ^ 32) :=
  s.regWrite_word m 0x5240 v (by decide) (by decide) (by decide) (s.isWide_5240 m) (fun h => absurd h (by decide))
theorem State.regWrite_60C0 (s : State) (m : Master) (v : Nat) : s.regWrite m 0x60C0 false v = s.putReg m 0x60C0 (v % 2 ^ 32) :=
  s.regWrite_word m 0x60C0 v (by decide) (by decide) (by decide) (s.isWide_60C0 m) (fun h => absurd h (by decide))
theorem State.regWrite_70C0 (s : State) (m : Master) (v : Nat) : s.regWrite m 0x70C0 false v = s.putReg m 0x70C0 (v % 2 ^ 32) :=
  s.regWrite_word m 0x70C0 v (by decide) (by decide) (by decide) (s.isWide_70C0 m) (fun h => absurd h (by decide))
theorem State.regWrite_80C0 (s : State) (m : Master) (v : Nat) : s.regWrite m 0x80C0 false v = s.putReg m 0x80C0 (v % 2 ^ 32) :=
  s.regWrite_word m 0x80C0 v (by decide) (by decide) (by decide) (s.isWide_80C0 m) (fun h => absurd h (by decide))
theorem State.regWrite_90C0 (s : State) (m : Master) (v : Nat) : s.regWrite m 0x90C0 false v = s.putReg m 0x90C0 (v % 2 ^ 32) :=
  s.regWrite_word m 0x90C0 v (by decide) (by decide) (by decide) (s.isWide_90C0 m) (fun h => absurd h (by decide))
theorem State.regWrite_A0C0 (s : State) (m : Master) (v : Nat) : s.regWrite m 0xA0C0 false v = s.putReg m 0xA0C0 (v % 2 ^ 32) :=
  s.regWrite_word m 0xA0C0 v (by decide) (by decide) (by decide) (s.isWide_A0C0 m) (fun h => absurd h (by decide))
theorem State.regWrite_B0C0 (s : State) (m : Master) (v : Nat) : s.regWrite m 0xB0C0 false v = s.putReg m 0xB0C0 (v % 2 ^ 32) :=
  s.regWrite_word m 0xB0C0 v (by decide) (by decide) (by decide) (s.isWide_B0C0 m) (fun h => absurd h (by decide))
theorem State.regWrite_D0C0 (s : State) (m : Master) (v : Nat) : s.regWrite m 0xD0C0 false v = s.putReg m 0xD0C0 (v % 2 ^ 32) :=
  s.regWrite_word m 0xD0C0 v (by decide) (by decide) (by decide) (s.isWide_D0C0 m) (fun h => absurd h (by decide))
theorem State.regWrite_0010 (s : State) (m : Master) (v : Nat) : s.regWrite m 0x0010 false v = s.putReg m 0x0010 (v % 2 ^ 32) :=
  s.regWrite_word m 0x0010 v (by decide) (by decide) (by decide) (s.isWide_0010 m) (fun h => absurd h (by decide))
theorem State.regWrite_001C (s : State) (m : Master) (v : Nat) : s.regWrite m 0x001C false v = s.putReg m 0x001C (v % 2 ^ 32) :=
  s.regWrite_word m 0x001C v (by decide) (by decide) (by decide) (s.isWide_001C m) (fun _ => s.isWide_0018 m)
theorem State.regWrite_7018 (s : State) (m : Master) (v : Nat) : s.regWrite m 0x7018 false v = s.putReg m 0x7018 (v % 2 ^ 32) :=
  s.regWrite_word m 0x7018 v (by decide) (by decide) (by decide) (s.isWide_7018 m) (fun h => absurd h (by decide))
theorem State.regWrite_8040 (s : State) (m : Master) (v : Nat) : s.regWrite m 0x8040 false v = s.putReg m 0x8040 (v % 2 ^ 32) :=
  s.regWrite_word m 0x8040 v (by decide) (by decide) (by decide) (s.isWide_8040 m) (fun h => absurd h (by decide))
theorem State.regWrite_8048 (s : State) (m : Master) (v : Nat) : s.regWrite m 0x8048 false v = s.putReg m 0x8048 (v % 2 ^ 32) :=
  s.regWrite_word m 0x8048 v (by decide) (by decide) (by decide) (s.isWide_8048 m) (fun h => absurd h (by decide))
theorem State.regWrite_A01C (s : State) (m : Master) (v : Nat) : s.regWrite m 0xA01C false v = s.putReg m 0xA01C (v % 2 ^ 32) :=
  s.regWrite_word m 0xA01C v (by decide) (by decide) (by decide) (s.isWide_A01C m) (fun _ => s.isWide_A018 m)
theorem State.regWrite_3000 (s : State) (m : Master) (v : Nat) : s.regWrite m 0x3000 false v = s.putReg m 0x3000 (v % 2 ^ 32) :=
  s.regWrite_word m 0x3000 v (by decide) (by decide) (by decide) (s.isWide_3000 m) (fun h => absurd h (by decide))
theorem State.regWrite_3030 (s : State) (m : Master) (v : Nat) : s.regWrite m 0x3030 false v = s.putReg m 0x3030 (v % 2 ^ 32) :=
  s.regWrite_word m 0x3030 v (by decide) (by decide) (by decide) (s.isWide_3030 m) (fun h => absurd h (by decide))
theorem State.regWrite_4000 (s : State) (m : Master) (v : Nat) : s.regWrite m 0x4000 false v = s.putReg m 0x4000 (v % 2 ^ 32) :=
  s.regWrite_word m 0x4000 v (by decide) (by decide) (by decide) (s.isWide_4000 m) (fun h => absurd h (by decide))
theorem State.regWrite_4050 (s : State) (m : Master) (v : Nat) : s.regWrite m 0x4050 false v = s.putReg m 0x4050 (v % 2 ^ 32) :=
  s.regWrite_word m 0x4050 v (by decide) (by decide) (by decide) (s.isWide_4050 m) (fun h => absurd h (by decide))
theorem State.regWrite_C000 (s : State) (m : Master) (v : Nat) : s.regWrite m 0xC000 false v = s.putReg m 0xC000 (v % 2 ^ 32) :=
  s.regWrite_word m 0xC000 v (by decide) (by decide) (by decide) (s.isWide_C000 m) (fun h => absurd h (by decide))
theorem State.regWrite_A018 (s : State) (m : Master) (v : Nat) : s.regWrite m 0xA018 false v = s.putReg m 0xA018 (v % 2 ^ 32) :=
  s.regWrite_word m 0xA018 v (by decide) (by decide) (by decide) (s.isWide_A018 m) (fun h => absurd h (by decide))
theorem State.regWrite_A030 (s : State) (m : Master) (v : Nat) : s.regWrite m 0xA030 false v = s.putReg m 0xA030 (v % 2 ^ 32) :=
  s.regWrite_word m 0xA030 v (by decide) (by decide) (by decide) (s.isWide_A030 m) (fun h => absurd h (by decide))

theorem State.isWide_B000 (s : State) (m : Master) : s.isWide m 0xB000 = false := by
  unfold State.isWide State.regAt State.isCounter State.rwReg
  cases h : s.isEave <;> simp only [] <;> rfl
theorem State.rwReg_B000 (s : State) : s.rwReg 0xB000 = if s.isEave then some BT_CTL else none := by
  unfold State.rwReg; cases h : s.isEave <;> rfl
theorem State.regWrite_B000 (s : State) (m : Master) (v : Nat) : s.regWrite m 0xB000 false v = s.putReg m 0xB000 (v % 2 ^ 32) :=
  s.regWrite_word m 0xB000 v (by decide) (by decide) (by decide) (s.isWide_B000 m) (fun h => absurd h (by decide))

/-! ### What a register reads after a write -/

theorem Reg.and_lt (r : Reg) (hm : r.mask < 2 ^ 64) (v : Nat) : v &&& r.mask < 2 ^ 64 :=
  Nat.lt_of_le_of_lt Nat.and_le_right hm

/-- A register reads back the writable bits of what was written. -/
theorem State.rd_wr (s : State) (r : Reg) (v : Nat) (hm : r.mask < 2 ^ 64) :
    (s.wr r v).rd r = v &&& r.mask := by
  unfold State.rd State.wr
  rw [Map.get_set_same, BitVec.toNat_ofNat, Nat.mod_eq_of_lt (Reg.and_lt r hm v)]

/-- A write of one register leaves the others. -/
theorem State.rd_wr_other (s : State) (r q : Reg) (v : Nat) (h : q.off ≠ r.off) : (s.wr r v).rd q = s.rd q := by
  unfold State.rd State.wr
  dsimp only
  rw [Map.get_other_default _ _ _ _ _ _ h]

/-- An access in service outside GC_ and PW_, by the host. -/
theorem State.write_serving {s : State} (h : s.Serving) (m : Master) (off v : Nat) (ha : alwaysOn off = false)
    (hw : ∀ t : State, t.regWrite m off false v = t.putReg m off (v % 2 ^ 32)) :
    s.writeBy m off false v = (s.touch m off).putReg m off (v % 2 ^ 32) := by
  rw [State.writeBy_serving h m off false v ha, hw]

/-! ### What an access does beside itself -/

theorem State.openGate_form (s : State) (k : Nat) : ∃ o g,
    s.openGate k = { s with out := o, ck := { s.ck with gates := g } } := by
  unfold State.openGate
  dsimp +zetaHave only
  split
  · exact ⟨_, _, rfl⟩
  · exact ⟨_, _, rfl⟩

/-- An access makes the course busy and may open a gate, count a wait for it and issue its event; nothing else. -/
theorem State.touch_form (s : State) (m : Master) (off : Nat) : ∃ c o b g,
    s.touch m off = { s with cnt := c, out := o, pw := { s.pw with busy := b }, ck := { s.ck with gates := g } } ∧
    (∀ d k, k ≠ CG_CNT_GATE_WAIT → c.get d k = s.cnt.get d k) := by
  have h0 : ∃ b, (if m = .cp then s else s.busy) = { s with pw := { s.pw with busy := b } } := by
    by_cases hm : m = .cp
    · exact ⟨s.pw.busy, by rw [if_pos hm]⟩
    · exact ⟨true, by rw [if_neg hm]; rfl⟩
  obtain ⟨b, h0⟩ := h0
  unfold State.touch
  dsimp +zetaHave only
  rw [h0]
  generalize hs : ({ s with pw := { s.pw with busy := b } } : State) = s1
  have h1 : ∀ k, ∃ c o g, s1.gateAccess k = { s1 with cnt := c, out := o, ck := { s1.ck with gates := g } } ∧
      (∀ d k, k ≠ CG_CNT_GATE_WAIT → c.get d k = s1.cnt.get d k) := by
    intro k
    unfold State.gateAccess
    split
    · obtain ⟨o, g, h⟩ := State.openGate_form (s1.count CG_CNT_GATE_WAIT) k
      rw [h]
      exact ⟨_, o, g, rfl, fun d j hj => Map.get_other_default _ _ _ _ _ _ hj⟩
    · exact ⟨s1.cnt, s1.out, s1.ck.gates, rfl, fun _ _ _ => rfl⟩
  split
  · rename_i k _
    obtain ⟨c, o, g, h, hc⟩ := h1 k
    rw [h, ← hs]
    exact ⟨c, o, b, g, rfl, fun d j hj => by rw [hc d j hj, ← hs]⟩
  · rw [← hs]; exact ⟨s.cnt, s.out, b, s.ck.gates, rfl, fun _ _ _ => rfl⟩

theorem State.touch_still (s : State) (m : Master) (off : Nat) : (s.touch m off).still = s.still := by
  obtain ⟨c, o, b, g, h, _⟩ := s.touch_form m off
  rw [h]; rfl

theorem State.touch_counter (s : State) (m : Master) (off k : Nat) (h : k ≠ CG_CNT_GATE_WAIT) :
    (s.touch m off).counter k = s.counter k := by
  obtain ⟨c, o, b, g, ht, hc⟩ := s.touch_form m off
  rw [ht]
  show (c.get 0 k).toNat = _
  rw [hc 0 k h]; rfl

/-- A read by the host or the sideband of the main logic in service. -/
theorem State.readBy_serving {s : State} (h : s.Serving) (m : Master) (off : Nat) (wide : Bool) (ha : alwaysOn off = false) :
    s.readBy m off wide = ((s.touch m off).regRead m off wide).1 := by
  have hw := State.wake_touch h.2 m off
  unfold State.readBy State.access
  rw [hw]
  simp [h.1, ha, h.asleep]

/-- Counters after the clear of a range. -/
theorem State.counter_clear (s : State) (lo hi k : Nat) :
    (s.clearCounters lo hi).counter k = if lo ≤ k ∧ k ≤ hi then 0 else s.counter k := by
  unfold State.counter State.clearCounters
  dsimp only
  rw [Map.get_clearRange]
  split <;> rfl

end Sys2Proof.Machine
end

