-- ==== Sys2Proof/Laws/Common.lean ====
section
/-! SUPPORT. Sys2Proof/Laws/Common.lean: counters, and the registers of a port. -/

set_option linter.all false
set_option Elab.async false

namespace Sys2Proof.Machine
open Sys2Proof Sys2Proof.Config

theorem count_other (s : State) (a b : Nat) (h : b ≠ a) (k : Nat) : (s.count a k).counter b = s.counter b := by
  unfold State.count State.counter; dsimp only; rw [Map.get_set_other _ _ _ _ _ h]

theorem count_same (s : State) (a k : Nat) : (s.count a k).counter a = (s.counter a + k) % 2 ^ 32 := by
  unfold State.count State.counter; dsimp only
  rw [Map.get_set_same, BitVec.toNat_add, BitVec.toNat_ofNat, Nat.add_mod_mod]

theorem nPorts_le (s : State) : s.nPorts ≤ 512 := by unfold State.nPorts; split; decide; split <;> decide

theorem rwReg_port (s : State) (p sub : Nat) (h : p < s.nPorts) (hs : sub < 0x400) :
    s.rwReg (0x10000 + p * 0x400 + sub) = portReg p sub ∧ s.portAt (0x10000 + p * 0x400 + sub) = some p := by
  have hp : p < 512 := by
    have : s.nPorts ≤ 512 := nPorts_le s
    omega
  have h1 : (0x10000 + p * 0x400 + sub - 0x10000) / 0x400 = p := by omega
  have h2 : (0x10000 + p * 0x400 + sub - 0x10000) % 0x400 = sub := by omega
  have h3 : s.portAt (0x10000 + p * 0x400 + sub) = some p := by
    unfold State.portAt; rw [h1, if_pos (by omega)]
  refine ⟨?_, h3⟩
  unfold State.rwReg; rw [h3, h2]

theorem touch_more (s : State) (m : Master) (off : Nat) : (∀ r, (s.touch m off).rd r = s.rd r) ∧ (s.touch m off).bt = s.bt ∧
    (s.touch m off).ties = s.ties ∧ (s.touch m off).clk = s.clk ∧ (s.touch m off).im = s.im ∧ (s.touch m off).td = s.td ∧
    (s.touch m off).regs = s.regs ∧ (s.touch m off).rs = s.rs ∧ (s.touch m off).ports = s.ports ∧ (s.touch m off).hf = s.hf ∧
    (s.touch m off).irq = s.irq ∧ (s.touch m off).root = s.root ∧ (s.touch m off).topo = s.topo := by
  obtain ⟨c, o, b, g, ht, hc⟩ := s.touch_form m off
  rw [ht]; exact ⟨fun _ => rfl, rfl, rfl, rfl, rfl, rfl, rfl, rfl, rfl, rfl, rfl, rfl, rfl⟩

theorem still_im (w s : State) (im : Imu) (rg : Map (BitVec 64)) (h : w.still = ({ s with regs := rg } : State).still) :
    ({ w with im := im } : State).still = ({ s with im := im, regs := rg } : State).still := by
  have := congrArg (fun x : State => ({ x with im := im } : State)) h
  exact this

theorem wr_keep (s : State) (r : Reg) (v : Nat) (hm : r.mask < 2 ^ 64) (h : v &&& r.mask = s.rd r) (q : Reg) (hq : q = r ∨ q.off ≠ r.off) :
    (s.wr r v).rd q = s.rd q := by
  rcases hq with rfl | hq
  · rw [State.rd_wr s q v hm, h]
  · exact State.rd_wr_other s r q v hq

end Sys2Proof.Machine
end

