-- ==== Sys2Proof/Laws/PortOps.lean ====
section
/-! SUPPORT. Sys2Proof/Laws/PortOps.lean: what the shared operations on ports, stamps, frames and servos leave. -/

set_option linter.all false
set_option Elab.async false

namespace Sys2Proof.Machine
open Sys2Proof Sys2Proof.Config

theorem wire_parts {s t : State} (h : t.wire = s.wire) : t.td = s.td ∧ t.regs = s.regs ∧ t.rs = s.rs ∧ t.im = s.im ∧ t.od = s.od ∧ t.gang = s.gang ∧
    t.ce = s.ce ∧ t.home = s.home ∧ t.root = s.root ∧ t.ties = s.ties ∧ t.hf.active = s.hf.active ∧ t.clk.ticks = s.clk.ticks ∧
    t.clk.course = s.clk.course ∧ t.bt = s.bt ∧ t.sq = s.sq ∧ t.ev = s.ev ∧ t.topo = s.topo ∧ t.cp = s.cp := by
  simp only [State.wire, Prod.mk.injEq, HealthMgr.mk.injEq, CourseClock.mk.injEq] at h
  obtain ⟨h1, h2, h3, h4, h5, h6, h7, h8, h9, h10, h11, h12, h13, h14, h15, h16, h17, h18, h19, h20⟩ := h
  exact ⟨h1, h2, h3, h4, h8, h9, h10, h12, h13, h15, h19.2.2.2.2.2.1, h18.2.2, h18.1, h5, h7, h6, h14, h11⟩

theorem shot_eq {s t : State} (h : t.shot = s.shot) : t = { s with im := t.im, cnt := t.cnt, irq := t.irq } := by
  simp only [State.shot, Prod.mk.injEq] at h
  obtain ⟨h1, h2, h3, h4, h5, h6, h7, h8, h9, h10, h11, h12, h13, h14, h15, h16, h17, h18, h19, h20, h21, h22, h23, h24, h25⟩ := h
  cases t; cases s
  simp only at h1 h2 h3 h4 h5 h6 h7 h8 h9 h10 h11 h12 h13 h14 h15 h16 h17 h18 h19 h20 h21 h22 h23 h24 h25
  subst h1 h2 h3 h4 h5 h6 h7 h8 h9 h10 h11 h12 h13 h14 h15 h16 h17 h18 h19 h20 h21 h22 h23 h24 h25
  rfl

theorem setPort_same (s : State) (p : Nat) (v : Port) : (s.setPort p v).port p = v := Map.get_set_same _ _ _ _

theorem setPort_other (s : State) (p q : Nat) (v : Port) (h : q ≠ p) : (s.setPort p v).port q = s.port q := Map.get_set_other _ _ _ _ _ h

theorem counter_one (s : State) (a o : Nat) : (s.count a).counter o = if o = a then (s.counter o + 1) % 2 ^ 32 else s.counter o := by
  by_cases h : o = a
  · rw [if_pos h, h, count_same]
  · rw [if_neg h, count_other _ _ _ h]

theorem portMark_other (s : State) (src p : Nat) (t : Int) (b : Bool) (h : s.im.cfg.port ≠ p) : s.portMark src p t b = s := if_neg h

theorem atPort_in {s : State} {p : Nat} {f : State → State} (h : s.up = true) (hp : p < s.nPorts) : s.atPort p f = .next (f s) := by
  unfold State.atPort; rw [State.main_up h, if_pos hp]

theorem log_cases (w : State) (r : StampRec) : w.logRecord r = w ∨ w.logRecord r = w.count PF_LOG_DROP ∨
    ∃ a b c d k, w.logRecord r = State.raiseIf { w.memWrite .log a b with logWr := c } d k := by
  unfold State.logRecord
  by_cases h : w.bit PF_LOG_CFG 31 = false
  · left; rw [if_pos h]
  · right
    rw [if_neg h]
    generalize hu : (w.logWr + 2 ^ 32 - w.rd PF_LOG_RD) % 2 ^ 32 = used
    by_cases h2 : used = w.logSize
    · left; exact if_pos h2
    · right; exact ⟨_, _, _, _, _, if_neg h2⟩

theorem log_ports (w : State) (r : StampRec) : (w.logRecord r).ports = w.ports ∧ ∀ o, o ∈ w.out → o ∈ (w.logRecord r).out := by
  have hm : ∀ (a : Nat) (b : List Nat), (w.memWrite .log a b).ports = w.ports ∧ ∀ o, o ∈ w.out → o ∈ (w.memWrite .log a b).out := by
    intro a b
    unfold State.memWrite
    have hg : (w.openGate 8).ports = w.ports ∧ ∀ o, o ∈ w.out → o ∈ (w.openGate 8).out := by
      unfold State.openGate
      dsimp +zetaHave only
      split
      · exact ⟨rfl, fun _ h => h⟩
      · exact ⟨rfl, fun _ h => List.mem_cons_of_mem _ h⟩
    dsimp +zetaHave only
    split
    · exact ⟨hg.1, fun o h => List.mem_cons_of_mem _ (hg.2 o h)⟩
    · exact ⟨hg.1, fun o h => hg.2 o h⟩
  have hr : ∀ (y : State) (b : Bool) (k : Nat), (y.raiseIf b k).ports = y.ports ∧ (y.raiseIf b k).out = y.out := by
    intro y b k; unfold State.raiseIf; cases b <;> exact ⟨rfl, rfl⟩
  rcases log_cases w r with h | h | ⟨a, b, c, d, k, h⟩
  · rw [h]; exact ⟨rfl, fun _ h => h⟩
  · rw [h]; exact ⟨rfl, fun _ h => h⟩
  · rw [h]
    refine ⟨?_, ?_⟩
    · rw [(hr _ _ _).1]; exact (hm _ _).1
    · intro o h; rw [(hr _ _ _).2]; exact (hm _ _).2 o h

/-- Where a stamp record goes once its number is settled: the log, the FIFO, or a count (the last part of `State.stampRecord`). -/
theorem stamp_put (s w : State) (p : Nat) (tx : Bool) (r : StampRec) (h1 : w.ports = s.ports) (h2 : ∀ o, o ∈ s.out → o ∈ w.out) (h3 : w.regs = s.regs)
    (z : State) (hz : z = if w.bit (PF_CTL p) 1 = true then (if tx = true then (w.logRecord r).modPort p fun v => { v with
          lastLog := if (w.logRecord r).logWr = w.logWr then none else some (w.logAddr, r) } else w.logRecord r)
        else if (s.port p).fifo.length < 16 then w.setPort p { s.port p with fifo := (s.port p).fifo ++ [r] } else w.count (PF_CNT_FIFO_OVF p)) :
    (∃ f g, z.port p = { s.port p with fifo := f, lastLog := g }) ∧ (∀ q, q ≠ p → z.port q = s.port q) ∧ (∀ o, o ∈ s.out → o ∈ z.out) ∧
    (s.bit (PF_CTL p) 1 = false → (s.port p).fifo.length < 16 → (z.port p).fifo = (s.port p).fifo ++ [r]) := by
  have hb : w.bit (PF_CTL p) 1 = s.bit (PF_CTL p) 1 := by unfold State.bit State.rd; rw [h3]
  have hpw : ∀ (y : State) q, y.ports = s.ports → y.port q = s.port q := by intro y q h; unfold State.port; rw [h]
  rw [hb] at hz
  by_cases c1 : s.bit (PF_CTL p) 1 = true
  · rw [if_pos c1] at hz
    obtain ⟨l1, l2⟩ := log_ports w r
    cases tx
    · rw [if_neg (by decide)] at hz
      subst hz
      refine ⟨⟨(s.port p).fifo, (s.port p).lastLog, ?_⟩, fun q _ => hpw _ q (l1.trans h1), fun o h => l2 o (h2 o h), fun h => absurd (c1.symm.trans h) (by decide)⟩
      rw [hpw _ p (l1.trans h1)]
    · rw [if_pos rfl] at hz
      generalize w.logRecord r = l at hz l1 l2
      subst hz
      refine ⟨⟨(s.port p).fifo, if l.logWr = w.logWr then none else some (w.logAddr, r), ?_⟩, fun q hq => ?_, fun o h => l2 o (h2 o h), fun h => absurd (c1.symm.trans h) (by decide)⟩
      · unfold State.modPort; rw [setPort_same, hpw l p (l1.trans h1)]
      · unfold State.modPort; rw [setPort_other _ _ _ _ hq]; exact hpw l q (l1.trans h1)
  · rw [if_neg c1] at hz
    by_cases c2 : (s.port p).fifo.length < 16
    · rw [if_pos c2] at hz
      subst hz
      refine ⟨⟨_, (s.port p).lastLog, setPort_same _ _ _⟩, fun q hq => ?_, h2, fun _ _ => by rw [setPort_same]⟩
      rw [setPort_other _ _ _ _ hq]; exact hpw w q h1
    · rw [if_neg c2] at hz
      subst hz
      exact ⟨⟨(s.port p).fifo, (s.port p).lastLog, hpw _ p h1⟩, fun q _ => hpw _ q h1, h2, fun _ h => absurd h c2⟩

theorem stamp_ports (s : State) (p : Nat) (tx proto : Bool) (seq mt : Nat) (x m l : Bool) (tt : Option Int) (g : Nat) :
    (∃ f k, (s.stampRecord p tx proto seq mt x m l tt g).port p = { s.port p with fifo := f, lastLog := k }) ∧
    (∀ q, q ≠ p → (s.stampRecord p tx proto seq mt x m l tt g).port q = s.port q) ∧
    (∀ o, o ∈ s.out → o ∈ (s.stampRecord p tx proto seq mt x m l tt g).out) ∧
    (s.bit (PF_CTL p) 1 = false → (s.port p).fifo.length < 16 → mt < 0x100 →
      ((s.stampRecord p tx proto seq mt x m l tt g).port p).fifo = (s.port p).fifo ++ [mkRec (s.portNum p) (if m then none else tt) seq mt
        (bnat tx * 128 + bnat proto * 64 + (s.port p).dom.num * 32 + bnat x * 16 + bnat m * 8 + bnat l * 4 + 1) g]) := by
  unfold State.stampRecord
  dsimp +zetaHave only
  by_cases hmt : 0x100 ≤ mt
  · rw [if_pos hmt]
    dsimp only
    generalize mkRec _ _ _ _ _ _ = R
    have hd : ∀ w : State, w = (if m = true then s.drawFree.1.count (PF_CNT_MISS p) else s.drawFree.1) →
        w.ports = s.ports ∧ (∀ o, o ∈ s.out → o ∈ w.out) ∧ w.regs = s.regs := by
      rintro w rfl; cases m <;> exact ⟨rfl, fun _ h => h, rfl⟩
    obtain ⟨d1, d2, d3⟩ := hd _ rfl
    obtain ⟨a, b, c, d⟩ := stamp_put s _ p tx R d1 d2 d3 _ rfl
    exact ⟨a, b, c, fun _ _ h => absurd h (by omega)⟩
  · rw [if_neg hmt]
    dsimp only
    generalize mkRec _ _ _ _ _ _ = R
    have hd : ∀ w : State, w = (if m = true then s.count (PF_CNT_MISS p) else s) →
        w.ports = s.ports ∧ (∀ o, o ∈ s.out → o ∈ w.out) ∧ w.regs = s.regs := by
      rintro w rfl; cases m <;> exact ⟨rfl, fun _ h => h, rfl⟩
    obtain ⟨d1, d2, d3⟩ := hd _ rfl
    obtain ⟨a, b, c, d⟩ := stamp_put s _ p tx R d1 d2 d3 _ rfl
    exact ⟨a, b, c, fun h1 h2 _ => d h1 h2⟩

theorem openGate_port (s : State) (k q : Nat) : (s.openGate k).port q = s.port q := by
  obtain ⟨o, g, h⟩ := s.openGate_form k; rw [h]; rfl

theorem openGate_counter (s : State) (k q : Nat) : (s.openGate k).counter q = s.counter q := by
  obtain ⟨o, g, h⟩ := s.openGate_form k; rw [h]; rfl

theorem openGate_rd (s : State) (k : Nat) (r : Reg) : (s.openGate k).rd r = s.rd r := by
  obtain ⟨o, g, h⟩ := s.openGate_form k; rw [h]; rfl

/-- What the queueing of a frame may change of the ports. -/
theorem xsend_ports (s : State) (p : Nat) (b : Body) :
    (∃ a c d e f, (s.xsend p b).port p = { s.port p with xq := a, cq := c, tq := d, xWait := e, cWait := f }) ∧
    (∀ q, q ≠ p → (s.xsend p b).port q = s.port q) := by
  have hg : ∀ q, (s.openGate 4).port q = s.port q := openGate_port s 4
  have h0 : ∃ a c d e f, s.port p = { s.port p with xq := a, cq := c, tq := d, xWait := e, cWait := f } :=
    ⟨(s.port p).xq, (s.port p).cq, (s.port p).tq, (s.port p).xWait, (s.port p).cWait, rfl⟩
  unfold State.xsend
  dsimp +zetaHave only
  split
  · exact ⟨h0, fun _ _ => rfl⟩
  split
  · exact ⟨h0, fun _ _ => rfl⟩
  have hs : ∀ v' : Port, ((s.openGate 4).setPort p v').port p = v' ∧ ∀ q, q ≠ p → ((s.openGate 4).setPort p v').port q = s.port q :=
    fun v' => ⟨setPort_same _ _ _, fun q hq => (setPort_other _ _ _ _ hq).trans (hg q)⟩
  have hc : ∀ o k, (((s.openGate 4).count o k).port p = s.port p) ∧ ∀ q, q ≠ p → ((s.openGate 4).count o k).port q = s.port q :=
    fun o k => ⟨hg p, fun q _ => hg q⟩
  split
  · split
    · exact ⟨⟨_, _, _, _, _, (hs _).1⟩, (hs _).2⟩
    · split
      · refine ⟨?_, (hc _ _).2⟩; rw [(hc _ _).1]; exact h0
      · exact ⟨⟨_, _, _, _, _, (hs _).1⟩, (hs _).2⟩
  · split
    · exact ⟨⟨_, _, _, _, _, (hs _).1⟩, (hs _).2⟩
    · exact ⟨⟨_, _, _, _, _, (hs _).1⟩, (hs _).2⟩
  · split
    · exact ⟨⟨_, _, _, _, _, (hs _).1⟩, (hs _).2⟩
    · refine ⟨?_, (hc _ _).2⟩; rw [(hc _ _).1]; exact h0

/-- An express frame enters its queue. -/
theorem xsend_express (s : State) (p : Nat) (b : Body) (hm : s.maySend p b = true)
    (hx : (s.port p).mismatch = false ∨ b.identityBearing = true ∨ (s.port p).cal.running = true)
    (hc : b.cls = .express) (hl : (s.port p).xq.length < 64) (hw : (s.port p).xWait = []) :
    (s.xsend p b).port p = { s.port p with xq := (s.port p).xq ++ [{ body := b }] } ∧ (s.xsend p b).cnt = s.cnt := by
  unfold State.xsend
  dsimp +zetaHave only
  rw [if_neg (by rw [hm]; decide), if_neg (by rintro ⟨a, b, c⟩; rcases hx with h | h | h <;> simp_all), hc]
  dsimp only
  rw [if_pos ⟨hl, hw⟩]
  refine ⟨setPort_same _ _ _, ?_⟩
  obtain ⟨o, g, h⟩ := s.openGate_form 4
  show (s.openGate 4).cnt = _
  rw [h]

theorem score_port (s : State) (p w : Nat) :
    (s.scoreEvent p w).cnt = s.cnt ∧ (∀ q, q ≠ p → (s.scoreEvent p w).port q = s.port q) ∧
    ((s.port p).scores = false → (s.scoreEvent p w).port p = s.port p) ∧
    ((s.port p).scores = true → (s.scoreEvent p w).port p = { s.port p with
      score := min 255 ((s.port p).score + w)
      cand := if (s.port p).cand = 0 ∧ s.retireThr ≤ min 255 ((s.port p).score + w) ∧ (s.port p).health = .live then 1 else (s.port p).cand
      admitAt := if (s.port p).health = .admitting ∧ (s.port p).admitAt.isSome then some s.clk.ticks else (s.port p).admitAt }) := by
  have hg : ∀ q, (s.openGate 5).port q = s.port q := openGate_port s 5
  have hcn : (s.openGate 5).cnt = s.cnt := by obtain ⟨o, g, h⟩ := s.openGate_form 5; rw [h]
  have hr : (s.openGate 5).retireThr = s.retireThr := by unfold State.retireThr State.fl; rw [openGate_rd]
  have hk : (s.openGate 5).clk = s.clk := by obtain ⟨o, g, h⟩ := s.openGate_form 5; rw [h]
  unfold State.scoreEvent
  dsimp +zetaHave only
  rw [hg, hr, hk]
  by_cases c : (s.port p).scores = true
  · rw [if_pos c]
    exact ⟨hcn, fun q hq => (setPort_other _ _ _ _ hq).trans (hg q), fun h => absurd (c.symm.trans h) (by decide), fun _ => setPort_same _ _ _⟩
  · rw [if_neg c]
    exact ⟨hcn, fun q _ => hg q, fun _ => hg p, fun h => absurd h c⟩

theorem evt_one (s : State) (l : Nat) : s.evt l = s.emit (.perfEvt l 1) := rfl

theorem withdraw_loss (s : State) (p : Nat) : (∀ n, (s.withdrawClock p).candOf p = some n → ((s.withdrawClock p).cand n).loss = true) ∧
    s.withdrawClock p = { s with rs := (s.withdrawClock p).rs } := by
  have hco : ∀ c : Refs, State.candOf { s with rs := c } p = s.candOf p := fun _ => rfl
  unfold State.withdrawClock
  cases h : s.candOf p with
  | none => exact ⟨fun n hn => absurd (h.symm.trans hn) (by simp), rfl⟩
  | some k =>
    refine ⟨fun n hn => ?_, rfl⟩
    have : s.candOf p = some n := hn
    have hk : k = n := Option.some.inj (h.symm.trans this)
    subst hk
    show (((s.setCand k { s.cand k with loss := true }).rs.cand).get {} k).loss = true
    unfold State.setCand
    rw [Map.get_set_same]

theorem count_at (s : State) (a k o : Nat) : (s.count a k).counter o = if o = a then (s.counter o + k) % 2 ^ 32 else s.counter o := by
  by_cases h : o = a
  · rw [if_pos h, h, count_same]
  · rw [if_neg h, count_other _ _ _ h]

theorem counter_cnt {s t : State} (h : t.cnt = s.cnt) (o : Nat) : t.counter o = s.counter o := by unfold State.counter; rw [h]

theorem port_ports {s t : State} (h : t.ports = s.ports) (q : Nat) : t.port q = s.port q := by unfold State.port; rw [h]

theorem count_port (s : State) (a k q : Nat) : (s.count a k).port q = s.port q := rfl

theorem flush_port (s : State) (p : Nat) : (s.flushPort p).port p = { s.port p with
    xq := [], cq := [], tq := [], xWait := [], cWait := [], rpl := { (s.port p).rpl with entries := [], attempt := none } } ∧
    (∀ q, q ≠ p → (s.flushPort p).port q = s.port q) := by
  unfold State.flushPort
  dsimp +zetaHave only
  exact ⟨setPort_same _ _ _, fun q hq => setPort_other _ _ _ _ hq⟩

theorem dropExch_port (s : State) (p : Nat) : (s.dropExch p).port p = { s.port p with lower := none, upper := {} } ∧
    (∀ q, q ≠ p → (s.dropExch p).port q = s.port q) := by
  unfold State.dropExch
  dsimp +zetaHave only
  exact ⟨setPort_same _ _ _, fun q hq => setPort_other _ _ _ _ hq⟩

theorem modPort_same (s : State) (p : Nat) (f : Port → Port) : (s.modPort p f).port p = f (s.port p) := setPort_same _ _ _

theorem modPort_other (s : State) (p q : Nat) (f : Port → Port) (h : q ≠ p) : (s.modPort p f).port q = s.port q := setPort_other _ _ _ _ h

theorem comeUp_port (s : State) (p : Nat) : (s.comeUp p).port p = { s.port p with
    rpl := {}, upTick := s.clk.ticks, kaTick := none, lossDecl := false, fibDone := false, lower := none, upper := {} } ∧
    (∀ q, q ≠ p → (s.comeUp p).port q = s.port q) := by
  unfold State.comeUp State.restartLink
  generalize ha : (s.modPort p fun v => { v with rpl := {} }) = a
  have a1 : a.port p = { s.port p with rpl := {} } := by rw [← ha, modPort_same]
  have a2 : ∀ q, q ≠ p → a.port q = s.port q := fun q hq => by rw [← ha, modPort_other _ _ _ _ hq]
  have a3 : a.clk = s.clk := by rw [← ha]; rfl
  generalize hb : (a.modPort p fun v => { v with upTick := s.clk.ticks, kaTick := none, lossDecl := false, fibDone := false }) = b
  have b1 : b.port p = { a.port p with upTick := s.clk.ticks, kaTick := none, lossDecl := false, fibDone := false } := by rw [← hb, modPort_same]
  have b2 : ∀ q, q ≠ p → b.port q = a.port q := fun q hq => by rw [← hb, modPort_other _ _ _ _ hq]
  obtain ⟨d1, d2⟩ := dropExch_port b p
  exact ⟨by rw [d1, b1, a1], fun q hq => by rw [d2 q hq, b2 q hq, a2 q hq]⟩

theorem claim_port (s : State) (p id : Nat) : (∃ m, (s.claimMark p id).1.port p = { s.port p with marks := m }) ∧
    (∀ q, q ≠ p → (s.claimMark p id).1.port q = s.port q) ∧ (s.claimMark p id).1 = { s with ports := (s.claimMark p id).1.ports } := by
  unfold State.claimMark
  dsimp +zetaHave only
  split
  · exact ⟨⟨_, setPort_same _ _ _⟩, fun q hq => setPort_other _ _ _ _ hq, rfl⟩
  · split
    · exact ⟨⟨_, setPort_same _ _ _⟩, fun q hq => setPort_other _ _ _ _ hq, rfl⟩
    · exact ⟨⟨_, rfl⟩, fun _ _ => rfl, rfl⟩

/-- Filling the buckets changes ports alone. -/
theorem fillAll_form (s : State) : ∃ ps, s.fillAll = { s with ports := ps } := by
  unfold State.fillAll State.each
  generalize s.portList = l
  induction l generalizing s with
  | nil => exact ⟨s.ports, rfl⟩
  | cons a l ih =>
    obtain ⟨q, hq⟩ := ih (s.fillBuckets a)
    exact ⟨q, by rw [List.foldl_cons, hq]; rfl⟩

theorem servo_put (s : State) (d : Dom) (v : Servo) : (s.setServo d v).servo d = v ∧ ∀ e, e ≠ d → (s.setServo d v).servo e = s.servo e := by
  unfold State.servo State.setServo
  refine ⟨?_, fun e he => ?_⟩
  · cases d <;> rfl
  · cases d <;> cases e <;> first | rfl | exact absurd rfl he

theorem each_keep {α : Type} (f : State → Nat → State) (P : State → α) (hP : ∀ s n, P (f s n) = P s) :
    ∀ (l : List Nat) (s : State), P (s.each l f) = P s := by
  intro l
  induction l with
  | nil => intro s; rfl
  | cons a l ih => intro s; show P ((f s a).each l f) = _; rw [ih, hP]

theorem each_port (f : State → Nat → State) (R : Port → Port → Prop) (hr : ∀ v, R v v) (ht : ∀ a b c, R a b → R b c → R a c)
    (hf : ∀ s n q, R (s.port q) ((f s n).port q)) : ∀ (l : List Nat) (s : State) (q : Nat), R (s.port q) ((s.each l f).port q) := by
  intro l
  induction l with
  | nil => intro s q; exact hr _
  | cons a l ih => intro s q; exact ht _ _ _ (hf s a q) (ih (f s a) q)

theorem log_counter (w : State) (r : StampRec) (o : Nat) (h : o ≠ PF_LOG_DROP) : (w.logRecord r).counter o = w.counter o := by
  have hm : ∀ (a : Nat) (b : List Nat), (w.memWrite .log a b).cnt = w.cnt := by
    intro a b
    unfold State.memWrite
    have hg : (w.openGate 8).cnt = w.cnt := by obtain ⟨o, g, h⟩ := w.openGate_form 8; rw [h]
    dsimp +zetaHave only
    split <;> exact hg
  have hr : ∀ (y : State) (b : Bool) (k : Nat), (y.raiseIf b k).cnt = y.cnt := by
    intro y b k; unfold State.raiseIf; cases b <;> rfl
  rcases log_cases w r with h' | h' | ⟨a, b, c, d, k, h'⟩
  · rw [h']
  · rw [h', count_other _ _ _ h]
  · rw [h']; unfold State.counter; rw [hr]; show ((w.memWrite .log a b).cnt.get 0 o).toNat = _; rw [hm]

theorem stamp_counter (s : State) (p : Nat) (tx proto : Bool) (seq mt : Nat) (x m l : Bool) (tt : Option Int) (g o : Nat)
    (h1 : o ≠ PF_LOG_DROP) (h2 : o ≠ PF_CNT_MISS p) (h3 : o ≠ PF_CNT_FIFO_OVF p) :
    (s.stampRecord p tx proto seq mt x m l tt g).counter o = s.counter o := by
  have fin : ∀ (w : State) (r : StampRec) (v : Port), w.counter o = s.counter o →
      (if w.bit (PF_CTL p) 1 = true then (if tx = true then (w.logRecord r).modPort p fun v => { v with
          lastLog := if (w.logRecord r).logWr = w.logWr then none else some (w.logAddr, r) } else w.logRecord r)
        else if v.fifo.length < 16 then w.setPort p { v with fifo := v.fifo ++ [r] }
        else w.count (PF_CNT_FIFO_OVF p)).counter o = s.counter o := by
    intro w r v hw
    split
    · split
      · exact (log_counter _ _ _ h1).trans hw
      · rw [log_counter _ _ _ h1, hw]
    · split
      · exact hw
      · rw [count_other _ _ _ h3, hw]
  unfold State.stampRecord
  dsimp +zetaHave only
  by_cases hmt : 0x100 ≤ mt
  · rw [if_pos hmt]
    dsimp only
    generalize mkRec _ _ _ _ _ _ = R
    refine fin _ R (s.port p) ?_
    cases m
    · rfl
    · exact count_other _ _ _ h2 1
  · rw [if_neg hmt]
    dsimp only
    generalize mkRec _ _ _ _ _ _ = R
    refine fin _ R (s.port p) ?_
    cases m
    · rfl
    · exact count_other _ _ _ h2 1

theorem xsend_counter (s : State) (p : Nat) (b : Body) (o : Nat) (h1 : o ≠ TP_CNT_FLUSH) (h2 : o ≠ TP_CNT_QFULL) :
    (s.xsend p b).counter o = s.counter o := by
  have hg : (s.openGate 4).counter o = s.counter o := openGate_counter s 4 o
  have hq : (State.count (s.openGate 4) TP_CNT_QFULL).counter o = s.counter o := (count_other _ _ _ h2 1).trans hg
  unfold State.xsend
  dsimp +zetaHave only
  split
  · rfl
  split
  · exact count_other _ _ _ h1 1
  split
  · split
    · exact hg
    · split
      · exact hq
      · exact hg
  · split
    · exact hg
    · exact hg
  · split
    · exact hg
    · exact hq

theorem openGap_counter (s : State) (p : Nat) (b : Bool) (o : Nat) (h1 : o ≠ TP_CNT_FLUSH) (h2 : o ≠ TP_CNT_QFULL) (h3 : o ≠ PF_CNT_FCS p) :
    (s.openGap p b).counter o = s.counter o := by
  unfold State.openGap
  dsimp +zetaHave only
  split
  · rfl
  · rw [xsend_counter _ _ _ _ h1 h2]
    split
    · unfold State.scoreFcs
      rw [counter_cnt (score_port _ _ _).1]
      exact count_other _ _ _ h3 1
    · rfl

theorem openGap_other (u : State) (p q : Nat) (c : Bool) (hq : q ≠ p) : (u.openGap p c).port q = u.port q := by
  unfold State.openGap
  dsimp +zetaHave only
  split
  · rfl
  · rw [(xsend_ports _ _ _).2 q hq]
    split
    · unfold State.scoreFcs
      rw [(score_port _ _ _).2.1 q hq]
      exact setPort_other _ _ _ _ hq
    · exact setPort_other _ _ _ _ hq

/-- A frame that does not hold the expected number leaves no gap by going. -/
theorem gone_none (s : State) (p m : Nat) (h : (s.port p).rpl.held ≠ some (m % 16)) : s.heldGone p m = s := if_neg h

theorem gone_other (s : State) (p m q : Nat) (hq : q ≠ p) : (s.heldGone p m).port q = s.port q := by
  unfold State.heldGone
  dsimp +zetaHave only
  split
  · rw [openGap_other _ _ _ _ hq]; exact setPort_other _ _ _ _ hq
  · rfl

theorem gone_counter (s : State) (p m o : Nat) (h1 : o ≠ TP_CNT_FLUSH) (h2 : o ≠ TP_CNT_QFULL) (h3 : o ≠ PF_CNT_FCS p) :
    (s.heldGone p m).counter o = s.counter o := by
  unfold State.heldGone
  dsimp +zetaHave only
  split
  · rw [openGap_counter _ _ _ _ h1 h2 h3]; rfl
  · rfl

end Sys2Proof.Machine
end

