-- ==== Sys2Proof/Laws/RegWrites.lean ====
section
/-! SUPPORT. Sys2Proof/Laws/RegWrites.lean: what a write of each register with an effect leaves. -/

set_option linter.all false
set_option Elab.async false

namespace Sys2Proof.Machine
open Sys2Proof Sys2Proof.Config

/-! registers of the repeated blocks -/

theorem pulse_reg (s : State) (m : Master) (n : Nat) (h : n < 8) :
    s.rwReg (0x5400 + n * 0x40) = some (SQ_Pn_CFG n) ∧ s.isWide m (0x5400 + n * 0x40) = false := by
  have h1 : s.rwReg (0x5400 + n * 0x40) = some (SQ_Pn_CFG n) := by
    have : n = 0 ∨ n = 1 ∨ n = 2 ∨ n = 3 ∨ n = 4 ∨ n = 5 ∨ n = 6 ∨ n = 7 := by omega
    unfold State.rwReg
    rcases this with h | h | h | h | h | h | h | h <;> subst h <;> cases s.isEave <;> rfl
  exact ⟨h1, by unfold State.isWide State.regAt; rw [h1]; rfl⟩

theorem pulse_write (s : State) (m : Master) (n v : Nat) (h : n < 8) (hv : v < 2 ^ 32) :
    s.regWrite m (SQ_Pn_CFG n).off false v = s.pulseCfgWrite n v := by
  have e : (SQ_Pn_CFG n).off = 0x5400 + n * 0x40 := rfl
  rw [e, State.regWrite_word s m _ v (by omega) (by omega) (by unfold slotAt; rw [if_neg (by omega), if_neg (by omega)])
    (pulse_reg s m n h).2 (fun hh => absurd hh (by omega)), Nat.mod_eq_of_lt hv]
  unfold State.putReg
  rw [(pulse_reg s m n h).1]
  dsimp only
  unfold State.putRw
  dsimp +zetaHave only
  rw [State.portAt_low _ _ (by rw [e]; omega)]
  have hb : ∀ q : Reg, q.off = 0x5400 + n * 0x40 → State.putBlock s q v = (match blockAt 0x5400 0x40 8 q.off with
    | some n => if (q.off - 0x5400) % 0x40 = 0 then s.pulseCfgWrite n v else s.wr q v
    | none => s.wr q v) := by
    intro q hq
    unfold State.putBlock
    dsimp +zetaHave only
    (rw [if_neg (by omega), if_pos (by omega)]) <;> rfl
  have hblk : blockAt 0x5400 0x40 8 (0x5400 + n * 0x40) = some n := by
    unfold blockAt; rw [if_pos (by omega)]; congr 1; omega
  simp only [e]
  rw [if_neg (by show _ ≠ 0x3000; omega),
    if_neg (by show _ ≠ 0x1044; omega),
    if_neg (by show _ ≠ 0x3030; omega),
    if_neg (by show _ ≠ 0x4000; omega),
    if_neg (by show _ ≠ 0x4050; omega),
    if_neg (by show _ ≠ 0xC000; omega),
    if_neg (by show _ ≠ 0xC008; omega),
    if_neg (by show _ ≠ 0xA018; omega),
    if_neg (by show _ ≠ 0xA030; omega),
    if_neg (by show _ ≠ 0xB000; omega),
    if_neg (by show _ ≠ 0xB008; omega), hb _ e, e, hblk]
  dsimp only
  rw [if_pos (by omega)]

theorem cand_reg (s : State) (m : Master) (n : Nat) (h : n ≤ 10) :
    (s.rwReg (0x2400 + n * 0x10) = some (RS_CANDn_CFG n) ∧ s.isWide m (0x2400 + n * 0x10) = false) ∧
    (s.rwReg (0x2400 + n * 0x10 + 8) = some (RS_CANDn_DELAY n) ∧ s.isWide m (0x2400 + n * 0x10 + 8) = false) := by
  have this : n = 0 ∨ n = 1 ∨ n = 2 ∨ n = 3 ∨ n = 4 ∨ n = 5 ∨ n = 6 ∨ n = 7 ∨ n = 8 ∨ n = 9 ∨ n = 10 := by omega
  have h1 : s.rwReg (0x2400 + n * 0x10) = some (RS_CANDn_CFG n) := by
    unfold State.rwReg
    rcases this with h | h | h | h | h | h | h | h | h | h | h <;> subst h <;> cases s.isEave <;> rfl
  have h2 : s.rwReg (0x2400 + n * 0x10 + 8) = some (RS_CANDn_DELAY n) := by
    unfold State.rwReg
    rcases this with h | h | h | h | h | h | h | h | h | h | h <;> subst h <;> cases s.isEave <;> rfl
  exact ⟨⟨h1, by unfold State.isWide State.regAt; rw [h1]; rfl⟩, ⟨h2, by unfold State.isWide State.regAt; rw [h2]; rfl⟩⟩

theorem cand_block (s : State) (q : Reg) (v n k : Nat) (h : n ≤ 10) (hk : k = 0 ∨ k = 8) (hq : q.off = 0x2400 + n * 0x10 + k) :
    State.putBlock s q v = if k = 0 then s.candCfgWrite n v else s.candDelayWrite n v := by
  unfold State.putBlock
  dsimp +zetaHave only
  have hblk : blockAt 0x2400 0x10 11 q.off = some n := by
    unfold blockAt; rw [if_pos (by omega)]; congr 1; omega
  rw [if_pos (by omega), hblk]
  dsimp only
  rcases hk with hk | hk
  · rw [if_pos (by omega), if_pos hk]
  · rw [if_neg (by omega), if_neg (by omega)]

theorem cand_put (s : State) (m : Master) (q : Reg) (v n k : Nat) (h : n ≤ 10) (hk : k = 0 ∨ k = 8) (hq : q.off = 0x2400 + n * 0x10 + k) :
    State.putRw s m q v = if k = 0 then s.candCfgWrite n v else s.candDelayWrite n v := by
  unfold State.putRw
  dsimp +zetaHave only
  rw [State.portAt_low _ _ (by omega)]
  dsimp only
  rw [if_neg (by rw [hq]; show _ ≠ 0x3000; omega),
    if_neg (by rw [hq]; show _ ≠ 0x1044; omega),
    if_neg (by rw [hq]; show _ ≠ 0x3030; omega),
    if_neg (by rw [hq]; show _ ≠ 0x4000; omega),
    if_neg (by rw [hq]; show _ ≠ 0x4050; omega),
    if_neg (by rw [hq]; show _ ≠ 0xC000; omega),
    if_neg (by rw [hq]; show _ ≠ 0xC008; omega),
    if_neg (by rw [hq]; show _ ≠ 0xA018; omega),
    if_neg (by rw [hq]; show _ ≠ 0xA030; omega),
    if_neg (by rw [hq]; show _ ≠ 0xB000; omega),
    if_neg (by rw [hq]; show _ ≠ 0xB008; omega)]
  exact cand_block s q v n k h hk hq

theorem cand_cfg_write (s : State) (m : Master) (n v : Nat) (h : n ≤ 10) (hv : v < 2 ^ 32) :
    s.regWrite m (RS_CANDn_CFG n).off false v = s.candCfgWrite n v := by
  have e : (RS_CANDn_CFG n).off = 0x2400 + n * 0x10 := rfl
  rw [e, State.regWrite_word s m _ v (by omega) (by omega) (by unfold slotAt; rw [if_neg (by omega), if_neg (by omega)])
    (cand_reg s m n h).1.2 (fun hh => absurd hh (by omega)), Nat.mod_eq_of_lt hv]
  unfold State.putReg
  rw [(cand_reg s m n h).1.1]
  exact (cand_put s m _ v n 0 h (.inl rfl) e).trans (if_pos rfl)

theorem cand_delay_write (s : State) (m : Master) (n v : Nat) (h : n ≤ 10) (hv : v < 2 ^ 32) :
    s.regWrite m (RS_CANDn_DELAY n).off false v = s.candDelayWrite n v := by
  have e : (RS_CANDn_DELAY n).off = 0x2400 + n * 0x10 + 8 := rfl
  rw [e, State.regWrite_word s m _ v (by omega) (by omega) (by unfold slotAt; rw [if_neg (by omega), if_neg (by omega)])
    (cand_reg s m n h).2.2 (fun hh => absurd hh (by omega)), Nat.mod_eq_of_lt hv]
  unfold State.putReg
  rw [(cand_reg s m n h).2.1]
  exact (cand_put s m _ v n 8 h (.inr rfl) e).trans (if_neg (by decide))

theorem port_count (s : State) (m : Master) (p sub : Nat) (h : p < s.nPorts) (hs : sub < 0x400) (r : Reg) (hr : portReg p sub = some r) (hb : r.bytes = 4) :
    s.isWide m (0x10000 + p * 0x400 + sub) = false := by
  unfold State.isWide State.regAt; rw [(rwReg_port s p sub h hs).1, hr]; simp [hb]

/-- A 32-bit write of a register of a port. -/
theorem port_word (s : State) (m : Master) (p sub v : Nat) (h : p < s.nPorts) (hs : sub < 0x400) (r : Reg) (hr : portReg p sub = some r)
    (ho : r.off = 0x10000 + p * 0x400 + sub) (h4 : sub % 4 = 0) (hb : r.bytes = 4)
    (hlow : sub % 8 = 4 → ∃ q, portReg p (sub - 4) = some q ∧ q.bytes = 4) (hv : v < 2 ^ 32) :
    s.regWrite m r.off false v = s.putRw m r v ∧ s.portAt r.off = some p := by
  have hp : p < 512 := Nat.lt_of_lt_of_le h (nPorts_le s)
  rw [ho]
  refine ⟨?_, (rwReg_port s p sub h hs).2⟩
  rw [State.regWrite_word s m _ v (by omega) (by omega) (by unfold slotAt; rw [if_neg (by omega), if_neg (by omega)])
    (port_count s m p sub h hs r hr hb) ?_, Nat.mod_eq_of_lt hv]
  · unfold State.putReg
    rw [(rwReg_port s p sub h hs).1, hr]
  · intro h8
    obtain ⟨q, hq, hq4⟩ := hlow (by omega)
    have : 0x10000 + p * 0x400 + sub - 4 = 0x10000 + p * 0x400 + (sub - 4) := by omega
    rw [this]
    exact port_count s m p (sub - 4) h (by omega) q hq hq4

theorem portCtl_write (s : State) (m : Master) (p v : Nat) (h : p < s.nPorts) (hv : v < 2 ^ 32) :
    s.regWrite m (PF_CTL p).off false v = s.portCtlWrite p v := by
  obtain ⟨h1, h2⟩ := port_word s m p 0 v h (by decide) (PF_CTL p) rfl rfl (by decide) rfl (fun hh => absurd hh (by decide)) hv
  rw [h1]
  unfold State.putRw
  dsimp +zetaHave only
  rw [h2]
  dsimp only
  rw [if_pos (by show (0x10000 + p * 0x400 + 0 - 0x10000) % 0x400 = 0; omega)]

theorem portConst_write (s : State) (m : Master) (p sub v : Nat) (h : p < s.nPorts) (hv : v < 2 ^ 32) (r : Reg)
    (hr : portReg p sub = some r) (hs : sub = 8 ∨ sub = 0xC ∨ sub = 0x10) (ho : r.off = 0x10000 + p * 0x400 + sub) (hb : r.bytes = 4) :
    s.regWrite m r.off false v = s.portConstWrite p r v := by
  obtain ⟨h1, h2⟩ := port_word s m p sub v h (by omega) r hr ho (by omega) hb
    (fun hh => by have : sub = 0xC := by omega
                  subst this; exact ⟨_, rfl, rfl⟩) hv
  rw [h1]
  unfold State.putRw
  dsimp +zetaHave only
  rw [h2]
  dsimp only
  rw [if_neg (by rw [ho]; omega), if_pos (by rw [ho]; omega)]

end Sys2Proof.Machine
end

