-- ==== Sys2Proof/Laws/RowsBatten.lean ====
section
/-! SUPPORT. Sys2Proof/Laws/RowsBatten.lean: the chain and the taps. -/

set_option linter.all false
set_option Elab.async false

namespace Sys2Proof.Machine
open Sys2Proof Sys2Proof.Config

theorem bt_write {s : State} (h : s.Serving) (he : s.isEave = true) (v : Nat) (hv : v < 2 ^ 32) :
    s.writeBy .host BT_CTL.off false v = (s.touch .host BT_CTL.off).battenCtl v := by
  rw [State.writeBy_serving h _ _ _ _ (by decide)]
  rw [show BT_CTL.off = 0xB000 from rfl, State.regWrite_B000, Nat.mod_eq_of_lt hv]
  have he' : (s.touch .host 0xB000).isEave = true := by
    obtain ⟨c, o, b, g, ht, hc⟩ := s.touch_form .host 0xB000
    rw [ht]; exact he
  unfold State.putReg
  rw [State.rwReg_B000, if_pos he']
  dsimp only
  unfold State.putRw
  dsimp +zetaHave only
  rw [show BT_CTL.off = 0xB000 from rfl, State.portAt_low _ _ (by decide)]
  rfl

theorem each_tap_other (f : State → Nat → State) (k : Nat) (ho : ∀ s n, k ≠ n → (f s n).tap k = s.tap k) :
    ∀ (l : List Nat) (s : State), k ∉ l → (s.each l f).tap k = s.tap k := by
  intro l
  induction l with
  | nil => intro s _; rfl
  | cons a l ih =>
    intro s h
    have h1 : k ≠ a := fun e => h (e ▸ List.mem_cons_self ..)
    have h2 : k ∉ l := fun e => h (List.mem_cons_of_mem _ e)
    show ((f s a).each l f).tap k = _
    rw [ih _ h2, ho _ _ h1]

theorem each_inv {α : Type} (f : State → Nat → State) (P : State → α) (hP : ∀ s n, P (f s n) = P s) :
    ∀ (l : List Nat) (s : State), P (s.each l f) = P s := by
  intro l
  induction l with
  | nil => intro s; rfl
  | cons a l ih => intro s; show P ((f s a).each l f) = _; rw [ih, hP]

theorem each_tap_at {α : Type} (f : State → Nat → State) (P : State → α) (hP : ∀ s n, P (f s n) = P s)
    (ho : ∀ s n k, k ≠ n → (f s n).tap k = s.tap k) :
    ∀ (l : List Nat) (s : State) (n : Nat), l.Nodup → n ∈ l → ∃ s', P s' = P s ∧ s'.tap n = s.tap n ∧
      (∀ k, k ∉ l → s'.tap k = s.tap k) ∧ (s.each l f).tap n = (f s' n).tap n := by
  intro l
  induction l with
  | nil => intro s n _ h; exact absurd h (List.not_mem_nil)
  | cons a l ih =>
    intro s n hn hm
    obtain ⟨h1, h2⟩ := List.nodup_cons.mp hn
    by_cases hna : n = a
    · subst hna
      refine ⟨s, rfl, rfl, fun _ _ => rfl, ?_⟩
      show ((f s n).each l f).tap n = _
      exact each_tap_other f n (fun s k hk => ho s k n hk) l _ h1
    · have hml : n ∈ l := by
        rcases List.mem_cons.mp hm with h | h
        · exact absurd h hna
        · exact h
      obtain ⟨s', e1, e2, e3, e4⟩ := ih (f s a) n h2 hml
      refine ⟨s', by rw [e1, hP], by rw [e2, ho _ _ _ hna], ?_, e4⟩
      intro k hk
      rw [e3 k (fun h => hk (List.mem_cons_of_mem _ h)), ho _ _ _ (fun h => hk (by rw [h]; exact List.mem_cons_self ..))]

theorem setTap_same (s : State) (n : Nat) (v : Tap) : (s.setTap n v).tap n = v := Map.get_set_same _ _ _ _

theorem setTap_other (s : State) (n k : Nat) (v : Tap) (h : k ≠ n) : (s.setTap n v).tap k = s.tap k := Map.get_set_other _ _ _ _ _ h

theorem modTap_same (s : State) (n : Nat) (f : Tap → Tap) : (s.modTap n f).tap n = f (s.tap n) := Map.get_set_same _ _ _ _

theorem modTap_other (s : State) (n k : Nat) (f : Tap → Tap) (h : k ≠ n) : (s.modTap n f).tap k = s.tap k := Map.get_set_other _ _ _ _ _ h

theorem tapList_nodup (s : State) : s.tapList.Nodup := List.Pairwise.filter _ List.nodup_range

theorem mem_tapList (s : State) (n : Nat) : n ∈ s.tapList ↔ s.tapEn n = true := by
  unfold State.tapList
  rw [List.mem_filter, List.mem_range]
  constructor
  · exact fun h => h.2
  · intro h
    refine ⟨?_, h⟩
    unfold State.tapEn at h
    simp at h
    exact h.1

theorem battenCtl_start (u : State) (v : Nat) (h : u.bit BT_CTL 0 = false) (h0 : bitOf v 0 = true) (h2 : bitOf v 2 = false)
    (hd : u.bt.disPend = false) : u.battenCtl v = (u.wr BT_CTL v).startCal := by
  unfold State.battenCtl; simp only [h, h0, h2, and_true, and_self, Bool.false_eq_true, false_and, reduceIte]
  rw [if_neg]; show ¬ u.bt.disPend = true; rw [hd]; decide

theorem battenCtl_keep (u : State) (v : Nat) (h : u.bit BT_CTL 0 = true) (h0 : bitOf v 0 = true) (h2 : bitOf v 2 = false) :
    u.battenCtl v = u.wr BT_CTL v := by
  unfold State.battenCtl; simp only [h, h0, h2, Bool.true_eq_false, and_true, and_false, and_self, Bool.false_eq_true, false_and, reduceIte]

theorem battenCtl_off (u : State) (v : Nat) (h : u.bit BT_CTL 0 = true) (h0 : bitOf v 0 = false) (h2 : bitOf v 2 = false) :
    u.battenCtl v = { u.wr BT_CTL v with bt := { u.bt with disPend := true } } := by
  unfold State.battenCtl; simp only [h, h0, h2, Bool.true_eq_false, and_true, and_false, and_self, Bool.false_eq_true, false_and, reduceIte]
  rfl

theorem battenCtl_recal (u : State) (v : Nat) (h : u.bit BT_CTL 0 = true) (h0 : bitOf v 0 = true) (h2 : bitOf v 2 = true) :
    u.battenCtl v = { u.wr BT_CTL v with bt := { u.bt with recalPend := true } } := by
  unfold State.battenCtl; simp only [h, h0, h2, Bool.true_eq_false, and_true, and_false, and_self, Bool.false_eq_true, false_and, reduceIte]
  rfl

/-- What the rows BATTEN_ENABLE, BATTEN_DISABLE, BATTEN_RECAL do (R197). -/
theorem exec_battenEnable_battenDisable_battenRecal (s u : State) (h : s.Serving) (he : s.isEave = true) (hu : u = s.touch .host BT_CTL.off) (hlt : s.rd BT_CTL < 16)
    (h2 : bitOf (s.rd BT_CTL) 2 = false) :
    (s.bit BT_CTL 0 = false → s.bt.disPend = false → s.topoBad = false → ∃ t, exec .battenEnable s = .next t ∧
      t.bit BT_CTL 0 = true ∧ t.bt.busy = true ∧ t.bt.done = false ∧ t.bt.topoErr = false ∧
      (∀ n, s.tapEn n = true → (t.tap n).st = .cal ∧ (t.tap n).armed = [] ∧ (t.tap n).wire = [] ∧ (t.tap n).past = (s.tap n).past ∧ (t.tap n).rep = (s.tap n).rep) ∧ t.bt.fly = []) ∧
    (s.bit BT_CTL 0 = false → s.bt.disPend = false → s.topoBad = true → ∃ t, exec .battenEnable s = .next t ∧
      t.bt = { s.bt with topoErr := true } ∧ t.bit BT_CTL 0 = true) ∧
    (s.bit BT_CTL 0 = true → exec .battenEnable s = .next (u.wr BT_CTL (s.rd BT_CTL ||| 1))) ∧
    (s.bit BT_CTL 0 = true → exec .battenDisable s =
      .next { u.wr BT_CTL (s.rd BT_CTL &&& 8) with bt := { s.bt with disPend := true } }) ∧
    (s.bit BT_CTL 0 = true → exec .battenRecal s =
      .next { u.wr BT_CTL (s.rd BT_CTL ||| 4) with bt := { s.bt with recalPend := true } }) := by
  obtain ⟨m1, m2, m3, m4, m5, m6, m7, m8, m9, m10, m11, m12, m13⟩ := touch_more s .host BT_CTL.off
  rw [← hu] at m1 m2 m3 m4 m5 m6 m7 m8 m9 m10 m11 m12 m13
  have e1 : s.rd BT_CTL ||| 1 < 2 ^ 32 := Nat.or_lt_two_pow (by omega) (by decide)
  have e4 : s.rd BT_CTL ||| 4 < 2 ^ 32 := Nat.or_lt_two_pow (by omega) (by decide)
  have e8 : s.rd BT_CTL &&& 8 < 2 ^ 32 := Nat.lt_of_le_of_lt Nat.and_le_right (by decide)
  have x1 : exec .battenEnable s = .next (u.battenCtl (s.rd BT_CTL ||| 1)) := by
    rw [hu]; exact congrArg _ (bt_write h he _ e1)
  have x8 : exec .battenDisable s = .next (u.battenCtl (s.rd BT_CTL &&& 8)) := by
    rw [hu]; exact congrArg _ (bt_write h he _ e8)
  have x4 : exec .battenRecal s = .next (u.battenCtl (s.rd BT_CTL ||| 4)) := by
    rw [hu]; exact congrArg _ (bt_write h he _ e4)
  have b0 : bitOf (s.rd BT_CTL ||| 1) 0 = true := by unfold bitOf; rw [Nat.testBit_or]; simp
  have b2 : bitOf (s.rd BT_CTL ||| 1) 2 = false := by
    have : bitOf (s.rd BT_CTL ||| 1) 2 = (bitOf (s.rd BT_CTL) 2 || bitOf 1 2) := by unfold bitOf; rw [Nat.testBit_or]
    rw [this, h2]; decide
  have hbit : u.bit BT_CTL 0 = s.bit BT_CTL 0 := by unfold State.bit; rw [m1]
  have hw : ∀ v, (u.wr BT_CTL v).tapEn = s.tapEn := by
    intro v; funext n; unfold State.tapEn State.bit
    rw [State.rd_wr_other _ _ _ _ (by decide), m1]
  have hwb : (u.wr BT_CTL (s.rd BT_CTL ||| 1)).bit BT_CTL 0 = true := by
    unfold State.bit; rw [State.rd_wr _ _ _ (by decide)]
    have : bitOf ((s.rd BT_CTL ||| 1) &&& BT_CTL.mask) 0 = (bitOf (s.rd BT_CTL ||| 1) 0 && bitOf BT_CTL.mask 0) := by unfold bitOf; rw [Nat.testBit_and]
    rw [this, b0]; decide
  have htopo : ∀ v, (u.wr BT_CTL v).topoBad = s.topoBad := by
    intro v
    unfold State.topoBad State.tapList
    rw [hw]
    rw [show (u.wr BT_CTL v).ties = s.ties from m3]
  have en : s.bit BT_CTL 0 = false → s.bt.disPend = false → exec .battenEnable s = .next ((u.wr BT_CTL (s.rd BT_CTL ||| 1)).startCal) := by
    intro h0 hd
    rw [x1, battenCtl_start u _ (by rw [hbit, h0]) b0 b2 (by rw [m2, hd])]
  refine ⟨?_, ?_, ?_, ?_, ?_⟩
  · intro h0 hd ht
    refine ⟨_, en h0 hd, ?_⟩
    unfold State.startCal; dsimp +zetaHave only
    rw [htopo, ht, if_neg (by decide)]
    have hW : ({ u.wr BT_CTL (s.rd BT_CTL ||| 1) with bt := { (u.wr BT_CTL (s.rd BT_CTL ||| 1)).bt with topoErr := false } } : State).bit BT_CTL 0 = true := hwb
    have hE : ({ u.wr BT_CTL (s.rd BT_CTL ||| 1) with bt := { (u.wr BT_CTL (s.rd BT_CTL ||| 1)).bt with topoErr := false } } : State).tapEn = s.tapEn := hw _
    have hT : ({ u.wr BT_CTL (s.rd BT_CTL ||| 1) with bt := { (u.wr BT_CTL (s.rd BT_CTL ||| 1)).bt with topoErr := false } } : State).tap = s.tap := by
      funext n; show u.bt.taps.get {} n = _; rw [m2]; rfl
    have hte : ({ u.wr BT_CTL (s.rd BT_CTL ||| 1) with bt := { (u.wr BT_CTL (s.rd BT_CTL ||| 1)).bt with topoErr := false } } : State).bt.topoErr = false := rfl
    generalize ({ u.wr BT_CTL (s.rd BT_CTL ||| 1) with bt := { (u.wr BT_CTL (s.rd BT_CTL ||| 1)).bt with topoErr := false } } : State) = W at *
    have g1 := each_inv (fun s n => s.modTap n fun v => { v.rest with st := .cal }) (fun v : State => (v.regs, v.bt.topoErr)) (fun _ _ => rfl) W.tapList W
    refine ⟨?_, rfl, rfl, ?_, ?_, rfl⟩
    · have := congrArg Prod.fst g1
      unfold State.bit State.rd at hW ⊢
      dsimp only at this ⊢
      rw [this]; exact hW
    · exact (congrArg Prod.snd g1).trans hte
    · intro n hn
      have hm : n ∈ W.tapList := (mem_tapList W n).mpr (by rw [hE]; exact hn)
      obtain ⟨s', _, q2, _, q4⟩ := each_tap_at (fun s n => s.modTap n fun v => { v.rest with st := .cal }) (fun _ => ()) (fun _ _ => rfl)
        (fun s n k hk => modTap_other _ _ _ _ hk) W.tapList W n (tapList_nodup W) hm
      have : (W.each W.tapList fun s n => s.modTap n fun v => { v.rest with st := .cal }).tap n = { (s.tap n).rest with st := .cal } := by
        rw [q4, modTap_same, q2, hT]
      have h4 := congrArg Tap.past this
      have h5 := congrArg Tap.rep this
      exact ⟨congrArg Tap.st this, congrArg Tap.armed this, congrArg Tap.wire this, h4, h5⟩
  · intro h0 hd ht
    refine ⟨_, en h0 hd, ?_⟩
    unfold State.startCal; dsimp +zetaHave only
    rw [htopo, ht, if_pos rfl]
    refine ⟨?_, hwb⟩
    show { u.bt with topoErr := true } = _
    rw [m2]
  · intro h0
    rw [x1, battenCtl_keep u _ (by rw [hbit, h0]) b0 b2]
  · intro h0
    have c0 : bitOf (s.rd BT_CTL &&& 8) 0 = false := by unfold bitOf; rw [Nat.testBit_and]; simp
    have c2 : bitOf (s.rd BT_CTL &&& 8) 2 = false := by
      unfold bitOf; rw [Nat.testBit_and, show Nat.testBit 8 2 = false by decide, Bool.and_false]
    rw [x8, battenCtl_off u _ (by rw [hbit, h0]) c0 c2, m2]
  · intro h0
    have c0 : bitOf (s.rd BT_CTL ||| 4) 0 = true := by
      have : bitOf (s.rd BT_CTL) 0 = true := h0
      unfold bitOf at this ⊢; rw [Nat.testBit_or, this, Bool.true_or]
    have c2 : bitOf (s.rd BT_CTL ||| 4) 2 = true := by
      unfold bitOf; rw [Nat.testBit_or, show Nat.testBit 4 2 = true by decide, Bool.or_true]
    rw [x4, battenCtl_recal u _ (by rw [hbit, h0]) c0 c2, m2]

theorem calOne_keep (s : State) (rs : List CalResult) (n : Nat) : (s.calOne rs n).regs = s.regs ∧ (s.calOne rs n).ties = s.ties ∧
    (∀ k, k ≠ n → (s.calOne rs n).tap k = s.tap k) ∧ ((s.calOne rs n).tap n).st = (s.tap n).st ∧
    ((s.calOne rs n).tap n).xfail = !(s.calOk ((rs.find? fun r => r.tap = n).getD { tap := n, back := false })) := by
  unfold State.calOne
  dsimp +zetaHave only
  generalize (rs.find? fun r => r.tap = n).getD { tap := n, back := false } = r
  cases hc : s.calOk r
  · rw [if_neg (by decide)]
    refine ⟨rfl, rfl, ?_, ?_, ?_⟩
    · intro k hk; rw [modTap_other _ _ _ _ hk]; rfl
    · rw [modTap_same]; rfl
    · rw [modTap_same]; rfl
  · rw [if_pos rfl]
    refine ⟨rfl, rfl, ?_, ?_, ?_⟩
    · intro k hk; rw [modTap_other _ _ _ _ hk]
    · rw [modTap_same]
    · rw [modTap_same]; rfl

theorem tapList_regs (a b : State) (h : a.regs = b.regs) : a.tapList = b.tapList := by
  unfold State.tapList State.tapEn State.bit State.rd; rw [h]

theorem calOk_regs (a b : State) (h : a.regs = b.regs) (r : CalResult) : a.calOk r = b.calOk r := by
  unfold State.calOk State.pnomOk State.fl State.rd; rw [h]

theorem pathOk_of (a b : State) (h : a.ties = b.ties) (hx : ∀ k, (a.tap k).xfail = (b.tap k).xfail) (n : Nat) : a.pathOk n = b.pathOk n := by
  unfold State.pathOk State.tapPath; rw [h]; congr 1; funext k; rw [hx]

/-- What the second pass of a calibration does to a tap. -/
def calMove (s : State) (n : Nat) : State :=
  let st := (s.tap n).st
  if st = .cal ∨ st = .fail then
    s.modTap n fun v =>
      if s.pathOk n then { v with st := .acq, ptrk := s.rd (BT_Tn_PNOM n), mark := none, pend := none }
      else { v with st := .fail }
  else s

theorem calMove_keep (s : State) (n : Nat) : (calMove s n).ties = s.ties ∧ (∀ k, k ≠ n → (calMove s n).tap k = s.tap k) ∧
    (∀ k, ((calMove s n).tap k).xfail = (s.tap k).xfail) ∧
    (((s.tap n).st = .cal ∨ (s.tap n).st = .fail) → ((calMove s n).tap n).st = if s.pathOk n then .acq else .fail) := by
  unfold calMove
  dsimp +zetaHave only
  by_cases h : (s.tap n).st = .cal ∨ (s.tap n).st = .fail
  · rw [if_pos h]
    refine ⟨rfl, fun k hk => modTap_other _ _ _ _ hk, ?_, ?_⟩
    · intro k
      by_cases hk : k = n
      · subst hk; rw [modTap_same]; split <;> rfl
      · rw [modTap_other _ _ _ _ hk]
    · intro _; rw [modTap_same]; split <;> rfl
  · rw [if_neg h]
    exact ⟨rfl, fun _ _ => rfl, fun _ => rfl, fun hh => absurd hh h⟩

/-- What the row BATTEN_CAL_DONE does (R197). -/
theorem exec_battenCalDone (s : State) (rs : List CalResult) (h : s.up = true) (he : s.isEave = true) :
    (s.bt.busy = false → exec (.battenCalDone rs) s = .next s) ∧
    (s.bt.busy = true → ∃ t, exec (.battenCalDone rs) s = .next t ∧ t.bt.busy = false ∧ t.bt.done = true ∧
      (∀ n, s.tapEn n = true → ((s.tap n).st = .cal ∨ (s.tap n).st = .fail) → (t.tap n).st = if t.pathOk n then .acq else .fail) ∧
      (s.bt.recal = false → ∀ n, s.tapEn n = true →
        (t.tap n).xfail = !(s.calOk ((rs.find? fun r => r.tap = n).getD { tap := n, back := false })))) := by
  rw [exec, execBattenCalDone, State.main_up h, if_pos he]
  unfold State.calDone
  constructor
  · intro hb; rw [if_pos hb]
  · intro hb
    rw [if_neg (by rw [hb]; decide)]
    refine ⟨_, rfl, rfl, rfl, ?_⟩
    dsimp +zetaHave only
    show (∀ n, s.tapEn n = true → ((s.tap n).st = .cal ∨ (s.tap n).st = .fail) →
      (((s.each s.calSet fun s n => s.calOne rs n).each (s.each s.calSet fun s n => s.calOne rs n).tapList calMove).tap n).st =
        if State.pathOk ((s.each s.calSet fun s n => s.calOne rs n).each (s.each s.calSet fun s n => s.calOne rs n).tapList calMove) n then .acq else .fail) ∧
      (s.bt.recal = false → ∀ n, s.tapEn n = true →
        (((s.each s.calSet fun s n => s.calOne rs n).each (s.each s.calSet fun s n => s.calOne rs n).tapList calMove).tap n).xfail = _)
    have k1 := each_inv (fun s n => s.calOne rs n) (fun v : State => v.regs) (fun a n => (calOne_keep a rs n).1) s.calSet s
    have k2 := each_inv (fun s n => s.calOne rs n) (fun v : State => v.ties) (fun a n => (calOne_keep a rs n).2.1) s.calSet s
    have k3 : ∀ n, (((s.each s.calSet fun s n => s.calOne rs n).tap n).st = (s.tap n).st) := by
      intro n
      refine congrFun (each_inv (fun s n => s.calOne rs n) (fun v : State => fun n => (v.tap n).st) ?_ s.calSet s) n
      intro a m; funext k
      by_cases hk : k = m
      · subst hk; exact (calOne_keep a rs k).2.2.2.1
      · show ((a.calOne rs m).tap k).st = _; rw [(calOne_keep a rs m).2.2.1 k hk]
    have k4 : s.bt.recal = false → ∀ n, s.tapEn n = true → (((s.each s.calSet fun s n => s.calOne rs n).tap n).xfail =
        !(s.calOk ((rs.find? fun r => r.tap = n).getD { tap := n, back := false }))) := by
      intro hr n hn
      have hcs : s.calSet = s.tapList := by unfold State.calSet; rw [hr]; rfl
      rw [hcs]
      obtain ⟨s', q1, q2, _, q4⟩ := each_tap_at (fun s n => s.calOne rs n) (fun v : State => v.regs) (fun a n => (calOne_keep a rs n).1)
        (fun a n k hk => (calOne_keep a rs n).2.2.1 k hk) s.tapList s n (tapList_nodup s) ((mem_tapList s n).mpr hn)
      rw [q4, (calOne_keep s' rs n).2.2.2.2, calOk_regs s' s q1]
    generalize (s.each s.calSet fun s n => s.calOne rs n) = A at *
    have j1 := each_inv calMove (fun v : State => v.ties) (fun a n => (calMove_keep a n).1) A.tapList A
    have j2 := each_inv calMove (fun v : State => fun k => (v.tap k).xfail) (fun a n => funext (calMove_keep a n).2.2.1) A.tapList A
    refine ⟨?_, ?_⟩
    · intro n hn hst
      obtain ⟨s', q1, q2, _, q4⟩ := each_tap_at calMove (fun v : State => (v.ties, fun k => (v.tap k).xfail))
        (fun a n => Prod.ext (calMove_keep a n).1 (funext (calMove_keep a n).2.2.1))
        (fun a n k hk => (calMove_keep a n).2.1 k hk) A.tapList A n (tapList_nodup A) ((mem_tapList A n).mpr (by
          have := tapList_regs A s k1
          have hm := (mem_tapList s n).mpr hn
          rw [← this] at hm
          exact (mem_tapList A n).mp hm))
      rw [q4, (calMove_keep s' n).2.2.2 (by rw [q2, k3]; exact hst)]
      rw [pathOk_of s' (A.each A.tapList calMove) ((congrArg Prod.fst q1).trans j1.symm)
        (fun k => (congrFun (congrArg Prod.snd q1) k).trans (congrFun j2 k).symm) n]
    · intro hr n hn
      rw [show ((A.each A.tapList calMove).tap n).xfail = (A.tap n).xfail from congrFun j2 n]
      exact k4 hr n hn

theorem evt_form' (s : State) (k : Nat) : s.evt k = { s with out := .perfEvt k 1 :: s.out } := rfl

def repOf (n : Nat) (l : Launch) (code : Nat) : LaunchReport :=
  { tap := n, line := l.line, target := l.target, code := code, late := l.late, fireStr := l.fireStr, win := l.win }

theorem tapReport_form (s : State) (n : Nat) (l : Launch) (code : Nat) : ∃ c q o, s.tapReport n l code =
    ({ s with bt := { s.bt with taps := s.bt.taps.set {} n { s.tap n with seq := ((s.tap n).seq + 1) % 256, rep := repOf n l code }
                                reports := s.bt.reports ++ [repOf n l code] }, cnt := c, irq := q, out := o } : State) ∧ ∀ x, x ∈ s.out → x ∈ o := by
  unfold State.tapReport
  dsimp +zetaHave only
  have g1 : ∀ V : State, ∃ c, (if l.late = true then (if code = 3 then V.count BT_CNT_NOMARK else if code = 1 then V.count BT_CNT_MISSED else V).count (BT_Tn_CNT_LATE n)
      else (if code = 3 then V.count BT_CNT_NOMARK else if code = 1 then V.count BT_CNT_MISSED else V)) = { V with cnt := c } := by
    intro V
    have h0 : ∃ c, (if code = 3 then V.count BT_CNT_NOMARK else if code = 1 then V.count BT_CNT_MISSED else V) = { V with cnt := c } := by
      split
      · exact ⟨_, rfl⟩
      · split
        · exact ⟨_, rfl⟩
        · exact ⟨_, rfl⟩
    obtain ⟨c, h0⟩ := h0
    rw [h0]
    split
    · exact ⟨_, rfl⟩
    · exact ⟨_, rfl⟩
  have g2 : ∀ V : State, ∃ q, V.raiseIf (code = 1 || code = 3 || code = 4 || code = 8) 20 = { V with irq := q } := by
    intro V; unfold State.raiseIf; split
    · exact ⟨_, rfl⟩
    · exact ⟨_, rfl⟩
  have g3 : ∀ V : State, ∃ o, (if code = 0 then (V.evt 2).evt (32 + n / 2) else if code = 6 then V.evt 2 else V.evt 3) = { V with out := o } ∧ ∀ x, x ∈ V.out → x ∈ o := by
    intro V
    split
    · exact ⟨_, rfl, fun x hx => List.mem_cons_of_mem _ (List.mem_cons_of_mem _ hx)⟩
    · split
      · exact ⟨_, rfl, fun x hx => List.mem_cons_of_mem _ hx⟩
      · exact ⟨_, rfl, fun x hx => List.mem_cons_of_mem _ hx⟩
  have hV : ({ (s.modTap n fun v => { v with seq := (v.seq + 1) % 256, rep := { tap := n, line := l.line, target := l.target, code := code, late := l.late, fireStr := l.fireStr, win := l.win } }) with
      bt := { (s.modTap n fun v => { v with seq := (v.seq + 1) % 256, rep := { tap := n, line := l.line, target := l.target, code := code, late := l.late, fireStr := l.fireStr, win := l.win } }).bt with
        reports := (s.modTap n fun v => { v with seq := (v.seq + 1) % 256, rep := { tap := n, line := l.line, target := l.target, code := code, late := l.late, fireStr := l.fireStr, win := l.win } }).bt.reports ++ [{ tap := n, line := l.line, target := l.target, code := code, late := l.late, fireStr := l.fireStr, win := l.win }] } } : State) =
      { s with bt := { s.bt with taps := s.bt.taps.set {} n { s.tap n with seq := ((s.tap n).seq + 1) % 256, rep := repOf n l code }
                                 reports := s.bt.reports ++ [repOf n l code] } } := rfl
  rw [hV]
  have ho : ({ s with bt := { s.bt with taps := s.bt.taps.set {} n { s.tap n with seq := ((s.tap n).seq + 1) % 256, rep := repOf n l code }
                                        reports := s.bt.reports ++ [repOf n l code] } } : State).out = s.out := rfl
  obtain ⟨c, e1⟩ := g1 { s with bt := { s.bt with taps := s.bt.taps.set {} n { s.tap n with seq := ((s.tap n).seq + 1) % 256, rep := repOf n l code }
                                                  reports := s.bt.reports ++ [repOf n l code] } }
  rw [e1]
  obtain ⟨q, e2⟩ := g2 { s with bt := { s.bt with taps := s.bt.taps.set {} n { s.tap n with seq := ((s.tap n).seq + 1) % 256, rep := repOf n l code }
                                                  reports := s.bt.reports ++ [repOf n l code] }, cnt := c }
  rw [e2]
  obtain ⟨o, e3, e4⟩ := g3 { s with bt := { s.bt with taps := s.bt.taps.set {} n { s.tap n with seq := ((s.tap n).seq + 1) % 256, rep := repOf n l code }
                                                      reports := s.bt.reports ++ [repOf n l code] }, cnt := c, irq := q }
  rw [e3]
  exact ⟨c, q, o, rfl, e4⟩

theorem tapReport_tap (s : State) (n : Nat) (l : Launch) (code : Nat) :
    (s.tapReport n l code).tap n = { s.tap n with seq := ((s.tap n).seq + 1) % 256, rep := repOf n l code } ∧
    (s.tapReport n l code).bt.reports = s.bt.reports ++ [repOf n l code] ∧ (∀ x, x ∈ s.out → x ∈ (s.tapReport n l code).out) := by
  obtain ⟨c, q, o, h, ho⟩ := tapReport_form s n l code
  rw [h]
  exact ⟨Map.get_set_same s.bt.taps {} n _, rfl, ho⟩

theorem reports_keep (n : Nat) (code : Nat) : ∀ (l : List Launch) (s : State), (l.foldl (fun s x => s.tapReport n x code) s).bt.calFail = s.bt.calFail ∧
    (∀ k : Nat, ((l.foldl (fun s x => s.tapReport n x code) s).tap k).xfail = (s.tap k).xfail ∧ ((l.foldl (fun s x => s.tapReport n x code) s).tap k).skew = (s.tap k).skew ∧
      ((l.foldl (fun s x => s.tapReport n x code) s).tap k).flagged = (s.tap k).flagged) := by
  intro l
  induction l with
  | nil => exact fun s => ⟨rfl, fun _ => ⟨rfl, rfl, rfl⟩⟩
  | cons a l ih =>
    intro s
    obtain ⟨i1, i2⟩ := ih (s.tapReport n a code)
    obtain ⟨c, q, o, h, _⟩ := tapReport_form s n a code
    have ht := (tapReport_tap s n a code).1
    have h1 : (s.tapReport n a code).bt.calFail = s.bt.calFail := by rw [h]
    have h2 : ∀ k, k ≠ n → (s.tapReport n a code).tap k = s.tap k := by
      intro k hk; rw [h]; exact Map.get_set_other _ _ _ _ _ hk
    refine ⟨i1.trans h1, fun k => ?_⟩
    obtain ⟨j1, j2, j3⟩ := i2 k
    rw [List.foldl_cons, j1, j2, j3]
    by_cases hk : k = n
    · subst hk; rw [ht]; exact ⟨rfl, rfl, rfl⟩
    · rw [h2 k hk]; exact ⟨rfl, rfl, rfl⟩

theorem endLaunches_keep (s : State) (n : Nat) : (s.endLaunches n).bt.calFail = s.bt.calFail ∧
    (∀ k : Nat, ((s.endLaunches n).tap k).xfail = (s.tap k).xfail ∧ ((s.endLaunches n).tap k).skew = (s.tap k).skew ∧
      ((s.endLaunches n).tap k).flagged = (s.tap k).flagged) := by
  unfold State.endLaunches
  dsimp +zetaHave only
  obtain ⟨h1, h2⟩ := reports_keep n 8 (s.tap n).armed (s.setTap n { s.tap n with armed := [] })
  refine ⟨h1, fun k => ?_⟩
  obtain ⟨j1, j2, j3⟩ := h2 k
  rw [j1, j2, j3]
  by_cases hk : k = n
  · subst hk; rw [setTap_same]; exact ⟨rfl, rfl, rfl⟩
  · rw [setTap_other _ _ _ _ hk]; exact ⟨rfl, rfl, rfl⟩

/-- What the row CROSSING_RECALIBRATION does (R195). -/
theorem exec_crossingRecalibration (s : State) (r : CalResult) (h : s.up = true) (he : s.isEave = true) (hn : s.tapEn r.tap = true) :
    (((s.tap r.tap).flagged = false ∨ s.clk.ticks ≤ (s.tap r.tap).flagTick) → exec (.crossingRecalibration r) s = .next s) ∧
    ((s.tap r.tap).flagged = true → (s.tap r.tap).flagTick < s.clk.ticks → s.calOk r = true →
      exec (.crossingRecalibration r) s =
        .next (s.setTap r.tap { s.tap r.tap with w := r.w, sigma := r.sigma, skew := 0, flagged := false })) ∧
    ((s.tap r.tap).flagged = true → (s.tap r.tap).flagTick < s.clk.ticks → s.calOk r = false → ∃ t, exec (.crossingRecalibration r) s = .next t ∧
      t.bt.calFail = true ∧ (t.tap r.tap).xfail = true ∧ (t.tap r.tap).skew = 0 ∧ (t.tap r.tap).flagged = false) := by
  rw [exec, execCrossingRecalibration, State.main_up h, if_pos ⟨he, hn⟩]
  unfold State.recalOne
  dsimp +zetaHave only
  have hne : (s.tap r.tap).flagged = true → (s.tap r.tap).flagTick < s.clk.ticks → ¬ ((s.tap r.tap).flagged = false ∨ s.clk.ticks ≤ (s.tap r.tap).flagTick) := by
    intro h1 h2; rw [h1]; intro hh; rcases hh with hh | hh; exact absurd hh (by decide); omega
  refine ⟨fun hc => by rw [if_pos hc], fun h1 h2 h3 => by rw [if_neg (hne h1 h2), if_pos h3], fun h1 h2 h3 => ?_⟩
  rw [if_neg (hne h1 h2), if_neg (by rw [h3]; decide)]
  refine ⟨_, rfl, ?_⟩
  generalize hW : ((({ s with bt := { s.bt with calFail := true } } : State).raise 16).modTap r.tap fun v =>
    { v with w := r.w, sigma := r.sigma, skew := 0, xfail := true, flagged := false }) = W
  have w1 : W.bt.calFail = true := by rw [← hW]; rfl
  have w2 : (W.tap r.tap).xfail = true ∧ (W.tap r.tap).skew = 0 ∧ (W.tap r.tap).flagged = false := by
    rw [← hW, modTap_same]; exact ⟨rfl, rfl, rfl⟩
  have key : ∀ (l : List Nat) (V : State), (V.each l fun s k => if (s.tap k).st = .off then s else (s.endLaunches k).modTap k fun v => { v with st := .fail }).bt.calFail = V.bt.calFail ∧
      (∀ x : Nat, ((V.each l fun s k => if (s.tap k).st = .off then s else (s.endLaunches k).modTap k fun v => { v with st := .fail }).tap x).xfail = (V.tap x).xfail ∧
        ((V.each l fun s k => if (s.tap k).st = .off then s else (s.endLaunches k).modTap k fun v => { v with st := .fail }).tap x).skew = (V.tap x).skew ∧
        ((V.each l fun s k => if (s.tap k).st = .off then s else (s.endLaunches k).modTap k fun v => { v with st := .fail }).tap x).flagged = (V.tap x).flagged) := by
    intro l
    induction l with
    | nil => exact fun V => ⟨rfl, fun _ => ⟨rfl, rfl, rfl⟩⟩
    | cons a l ih =>
      intro V
      have one : (if (V.tap a).st = .off then V else (V.endLaunches a).modTap a fun v => { v with st := .fail }).bt.calFail = V.bt.calFail ∧
          (∀ x : Nat, ((if (V.tap a).st = .off then V else (V.endLaunches a).modTap a fun v => { v with st := .fail }).tap x).xfail = (V.tap x).xfail ∧
            ((if (V.tap a).st = .off then V else (V.endLaunches a).modTap a fun v => { v with st := .fail }).tap x).skew = (V.tap x).skew ∧
            ((if (V.tap a).st = .off then V else (V.endLaunches a).modTap a fun v => { v with st := .fail }).tap x).flagged = (V.tap x).flagged) := by
        split
        · exact ⟨rfl, fun _ => ⟨rfl, rfl, rfl⟩⟩
        · obtain ⟨e1, e2⟩ := endLaunches_keep V a
          refine ⟨e1, fun x => ?_⟩
          by_cases hx : x = a
          · subst hx; rw [modTap_same]; exact e2 x
          · rw [modTap_other _ _ _ _ hx]; exact e2 x
      obtain ⟨i1, i2⟩ := ih (if (V.tap a).st = .off then V else (V.endLaunches a).modTap a fun v => { v with st := .fail })
      refine ⟨i1.trans one.1, fun x => ?_⟩
      obtain ⟨j1, j2, j3⟩ := i2 x
      obtain ⟨k1, k2, k3⟩ := one.2 x
      exact ⟨j1.trans k1, j2.trans k2, j3.trans k3⟩
  obtain ⟨k1, k2⟩ := key (W.below r.tap) W
  obtain ⟨k3, k4, k5⟩ := k2 r.tap
  exact ⟨k1.trans w1, k3.trans w2.1, k4.trans w2.2.1, k5.trans w2.2.2⟩

theorem atTap_exec (s : State) (n edges : Nat) (f : State → State) (h : s.up = true) (he : s.isEave = true) (hn : s.tapEn n = true) :
    s.atTap n edges f = .next (f (s.tapRun n edges)) := by
  unfold State.atTap; rw [State.main_up h, if_pos ⟨he, hn⟩]

/-- What a flagged crossing leaves of every tap. -/
theorem flag_tap (s : State) (n k : Nat) : ∃ fl ft st, (s.flagCrossing n).tap k = { s.tap k with flagged := fl, flagTick := ft, st := st } := by
  unfold State.flagCrossing
  split
  · exact ⟨_, _, _, rfl⟩
  · dsimp +zetaHave only
    have h1 : ∃ fl ft, (({ (s.modTap n fun v => { v with flagged := true, flagTick := s.clk.ticks }) with
        bt := { (s.modTap n fun v => { v with flagged := true, flagTick := s.clk.ticks }).bt with
          flag := (s.modTap n fun v => { v with flagged := true, flagTick := s.clk.ticks }).bt.flag ||| BitVec.ofNat 64 (2 ^ n) } } : State).count
        BT_CNT_RECAL |>.raise 16).tap k = { s.tap k with flagged := fl, flagTick := ft } := by
      have e : ∀ (W : State) (x : BitVec 64), ((({ W with bt := { W.bt with flag := x } } : State).count BT_CNT_RECAL).raise 16).tap k = W.tap k :=
        fun _ _ => rfl
      rw [e]
      by_cases hk : k = n
      · subst hk; exact ⟨true, s.clk.ticks, modTap_same _ _ _⟩
      · exact ⟨_, _, modTap_other _ _ _ _ hk⟩
    obtain ⟨fl, ft, h1⟩ := h1
    generalize (({ (s.modTap n fun v => { v with flagged := true, flagTick := s.clk.ticks }) with
        bt := { (s.modTap n fun v => { v with flagged := true, flagTick := s.clk.ticks }).bt with
          flag := (s.modTap n fun v => { v with flagged := true, flagTick := s.clk.ticks }).bt.flag ||| BitVec.ofNat 64 (2 ^ n) } } : State).count
        BT_CNT_RECAL |>.raise 16) = W at h1 ⊢
    have key : ∀ (l : List Nat) (W : State), (∃ fl ft st, W.tap k = { s.tap k with flagged := fl, flagTick := ft, st := st }) →
        ∃ fl ft st, (W.each l fun s k => s.modTap k fun v => if v.st = .track ∨ v.st = .acq then { v with st := .free } else v).tap k =
          { s.tap k with flagged := fl, flagTick := ft, st := st } := by
      intro l
      induction l with
      | nil => exact fun _ h => h
      | cons a l ih =>
        intro W hW
        refine ih (W.modTap a fun v => if v.st = .track ∨ v.st = .acq then { v with st := .free } else v) ?_
        obtain ⟨fl, ft, st, hW⟩ := hW
        by_cases ha : k = a
        · subst ha
          rw [modTap_same, hW]
          by_cases hs : st = .track ∨ st = .acq
          · exact ⟨fl, ft, .free, if_pos hs⟩
          · exact ⟨fl, ft, st, if_neg hs⟩
        · rw [modTap_other _ _ _ _ ha, hW]; exact ⟨_, _, _, rfl⟩
    exact key _ W ⟨fl, ft, _, h1⟩

/-! ### Lanes -/

theorem pick_rank (p : DownWord → Bool) (l : List DownWord) (w : DownWord) (rest : List DownWord) (h : pickWord p l = some (w, rest)) :
    p w = true ∧ w ∈ l ∧ ∀ x ∈ l, p x = true → x.isFill = false → w.rank ≤ x.rank := by
  have tk : ∀ (q : DownWord → Bool) (l : List DownWord), (∀ w rest, takeFirst q l = some (w, rest) → q w = true ∧ w ∈ l) ∧
      (takeFirst q l = none → ∀ x ∈ l, q x = false) := by
    intro q l
    induction l with
    | nil => exact ⟨fun _ _ h => (by cases h), fun _ x hx => absurd hx (List.not_mem_nil)⟩
    | cons a l ih =>
      unfold takeFirst
      by_cases ha : q a = true
      · rw [if_pos ha]
        refine ⟨fun w rest h => ?_, fun h => by cases h⟩
        cases h
        exact ⟨ha, List.mem_cons_self ..⟩
      · rw [if_neg ha]
        refine ⟨fun w rest h => ?_, fun h x hx => ?_⟩
        · cases ht : takeFirst q l with
          | none => rw [ht] at h; cases h
          | some y =>
            rw [ht] at h
            cases h
            obtain ⟨h1, h2⟩ := ih.1 y.1 y.2 ht
            exact ⟨h1, List.mem_cons_of_mem _ h2⟩
        · cases ht : takeFirst q l with
          | none =>
            rcases List.mem_cons.mp hx with hx | hx
            · rw [hx]; simpa using ha
            · exact ih.2 ht x hx
          | some y => rw [ht] at h; cases h
  have hr : ∀ x : DownWord, x.isFill = false → x.rank ≤ 2 := by intro x hx; cases x <;> simp_all [DownWord.rank, DownWord.isFill]
  unfold pickWord at h
  cases h0 : takeFirst (fun w => p w && decide (w.rank = 0)) l with
  | some y =>
    rw [h0] at h
    cases h
    obtain ⟨a, b⟩ := (tk _ l).1 w rest h0
    simp only [Bool.and_eq_true, decide_eq_true_eq] at a
    exact ⟨a.1, b, fun x _ _ _ => by omega⟩
  | none =>
    have n0 := (tk _ l).2 h0
    rw [h0] at h
    cases h1 : takeFirst (fun w => p w && decide (w.rank = 1)) l with
    | some y =>
      rw [h1] at h
      cases h
      obtain ⟨a, b⟩ := (tk _ l).1 w rest h1
      simp only [Bool.and_eq_true, decide_eq_true_eq] at a
      refine ⟨a.1, b, fun x hx hp _ => ?_⟩
      have := n0 x hx
      simp only [hp, Bool.true_and, decide_eq_false_iff_not] at this
      omega
    | none =>
      have n1 := (tk _ l).2 h1
      rw [h1] at h
      obtain ⟨a, b⟩ := (tk _ l).1 w rest h
      simp only [Bool.and_eq_true, decide_eq_true_eq] at a
      refine ⟨a.1, b, fun x hx hp hf => ?_⟩
      have q0 := n0 x hx
      have q1 := n1 x hx
      simp only [hp, Bool.true_and, decide_eq_false_iff_not] at q0 q1
      have := hr x hf
      omega

/-- One sender cycle of a lane (R192, R194). -/
theorem exec_lane (s : State) (n : Nat) (v : Tap) (hv : v = s.tap n) :
    (∀ w c, v.xfer = some (w, c) → s.laneTick n = s.setTap n { v with xfer := none, wire := v.wire ++ [(w, c + v.upStr)], upStr := 0 }) ∧
    (v.xfer = none → ∀ w rest, pickWord (s.boundFor n) (s.waiting n) = some (w, rest) →
      s.boundFor n w = true ∧ w ∈ s.waiting n ∧ (∀ x ∈ s.waiting n, s.boundFor n x = true → x.isFill = false → w.rank ≤ x.rank) ∧
      s.laneTick n = ((s.setWaiting n rest).modTap n fun v => if (s.sent n w).isArm then { v with xfer := some (s.sent n w, v.upStr), upStr := 0 }
        else { v with wire := v.wire ++ [(s.sent n w, v.upStr)], upStr := 0 })) ∧
    (v.xfer = none → pickWord (s.boundFor n) (s.waiting n) = none → s.laneTick n =
      if 8 ≤ v.upStr then s.setTap n { v with wire := v.wire ++ [(.fill, v.upStr)], upStr := 0 } else s) := by
  subst hv
  refine ⟨fun w c h => ?_, fun h w rest hw => ?_, fun h hw => ?_⟩
  · unfold State.laneTick; dsimp +zetaHave only; rw [h]
  · obtain ⟨a, b, c⟩ := pick_rank _ _ w rest hw
    refine ⟨a, b, c, ?_⟩
    unfold State.laneTick; dsimp +zetaHave only; rw [h, hw]
  · unfold State.laneTick; dsimp +zetaHave only; rw [h, hw]

theorem laneForce_wire (s : State) (n : Nat) (h : (s.tap n).wire ≠ []) : s.laneForce n = s := if_pos h

theorem laneWords_wire (s : State) (n : Nat) (w : DownWord) (c : Nat) (rest : List (DownWord × Nat)) (h : (s.tap n).wire = (w, c) :: rest) :
    ∃ l, s.laneWords n = w :: l := by
  unfold State.laneWords; dsimp +zetaHave only; rw [h]; exact ⟨_, rfl⟩

/-- A lane whose next word satisfies the test takes none ahead of it. -/
theorem ahead_next (s z : State) (n : Nat) (p : DownWord → Bool) (w : DownWord) (c : Nat) (rest : List (DownWord × Nat)) (hz : z = s.laneForce n)
    (hw : (z.tap n).wire = (w, c) :: rest) (hp : p w = true ∨ w.isMark = true) : s.ahead n p = z := by
  unfold State.ahead State.upTo
  dsimp +zetaHave only
  rw [← hz, hw]
  dsimp only
  rw [if_pos (by rcases hp with h | h <;> simp [h])]

theorem takeWord_next (z : State) (n : Nat) (w : DownWord) (c : Nat) (rest : List (DownWord × Nat)) (hw : (z.tap n).wire = (w, c) :: rest) :
    z.takeWord n = ((z.setTap n { z.tap n with wire := rest }).wordIn n c).arrive n w := by
  unfold State.takeWord; dsimp +zetaHave only; rw [hw]

theorem nextIs_next (z : State) (n : Nat) (p : DownWord → Bool) (w : DownWord) (c : Nat) (rest : List (DownWord × Nat)) (hw : (z.tap n).wire = (w, c) :: rest)
    (hp : p w = true) : (z.tap n).nextIs p = true := by
  unfold Tap.nextIs; rw [hw]; exact hp

theorem bring_next (s z : State) (n : Nat) (p : DownWord → Bool) (w : DownWord) (c : Nat) (rest : List (DownWord × Nat)) (hz : z = s.laneForce n)
    (ha : (s.laneWords n).any p = true) (hw : (z.tap n).wire = (w, c) :: rest) (hp : p w = true) :
    s.bring n p = ((z.setTap n { z.tap n with wire := rest }).wordIn n c).arrive n w := by
  unfold State.bring
  dsimp +zetaHave only
  rw [if_pos ha, ahead_next s z n p w c rest hz hw (.inl hp), if_pos (nextIs_next z n p w c rest hw hp), takeWord_next z n w c rest hw]

theorem bring_none (s : State) (n : Nat) (p : DownWord → Bool) (h : (s.laneWords n).any p = false) : s.bring n p = s := by
  unfold State.bring; rw [if_neg (by rw [h]; decide)]

/-- One word waits at the head, and nothing is on the lane: it is sent, an ARM word with both its words. -/
theorem exec_laneForce (s : State) (n : Nat) (w : DownWord) (h0 : s.ties.up n = none) (h1 : (s.tap n).xfer = none) (h2 : (s.tap n).wire = [])
    (h3 : s.bt.fly = [w]) (h4 : s.boundFor n w = true) :
    ∃ z, s.laneForce n = z ∧ z = { s with bt := { s.bt with fly := [], taps := z.bt.taps } } ∧
      z.tap n = { s.tap n with wire := [(w, (s.tap n).upStr)], upStr := 0 } ∧ (∀ k, k ≠ n → z.tap k = s.tap k) := by
  have hf : w.isFill = false := by cases w <;> first | rfl | (unfold State.boundFor at h4; cases h4)
  have hs : ∀ z : State, z.ties = s.ties → z.sent n w = w := by
    intro z hz; unfold State.sent; rw [hz, h0]; cases w <;> rfl
  have hb : pickWord (s.boundFor n) (s.waiting n) = some (w, []) := by
    unfold State.waiting pickWord takeFirst
    rw [h0]; dsimp only
    rw [h3]
    have h4' : s.boundFor n w = true := h4
    have hr : w.rank = 0 ∨ w.rank = 1 ∨ w.rank = 2 := by cases w <;> simp_all [DownWord.rank, DownWord.isFill]
    rcases hr with hr | hr | hr <;> simp [h4', hr, takeFirst]
  have t1 := (exec_lane s n _ rfl).2.1 h1 w [] hb
  have hsw : s.setWaiting n [] = { s with bt := { s.bt with fly := [] } } := by unfold State.setWaiting; rw [h0]
  rw [hs s rfl, hsw] at t1
  have e1 := t1.2.2.2
  unfold State.laneForce
  dsimp +zetaHave only
  rw [if_neg (by rw [h2]; simp), e1]
  have hzt : ({ s with bt := { s.bt with fly := [] } } : State).tap n = s.tap n := rfl
  have hzo : ∀ k, ({ s with bt := { s.bt with fly := [] } } : State).tap k = s.tap k := fun _ => rfl
  have hzf : ({ s with bt := { s.bt with fly := [] } } : State) = { s with bt := { s.bt with fly := [] } } := rfl
  by_cases ha : w.isArm = true
  · simp only [ha, if_true]
    generalize hz : ({ s with bt := { s.bt with fly := [] } } : State) = z at hzt hzo hzf ⊢
    have e2 : ((z.modTap n fun v => { v with xfer := some (w, v.upStr), upStr := 0 }).tap n) = { s.tap n with xfer := some (w, (s.tap n).upStr), upStr := 0 } := by
      rw [modTap_same, hzt]
    rw [if_neg (by rw [e2]; simp [h2])]
    have t2 := (exec_lane (z.modTap n fun v => { v with xfer := some (w, v.upStr), upStr := 0 }) n _ rfl).1 w (s.tap n).upStr (by rw [e2])
    rw [e2] at t2
    refine ⟨_, rfl, ?_, ?_, fun k hk => ?_⟩
    · rw [t2, ← hz]; rfl
    · rw [t2, setTap_same]
      dsimp only
      rw [h2, h1]; rfl
    · rw [t2, setTap_other _ _ _ _ hk, modTap_other _ _ _ _ hk, hzo]
  · simp only [ha]
    generalize hz : ({ s with bt := { s.bt with fly := [] } } : State) = z at hzt hzo hzf ⊢
    have e2 : ((z.modTap n fun v => { v with wire := v.wire ++ [(w, v.upStr)], upStr := 0 }).tap n) = { s.tap n with wire := [(w, (s.tap n).upStr)], upStr := 0 } := by
      rw [modTap_same, hzt, h2]; rfl
    simp only [Bool.false_eq_true, if_false]
    rw [if_pos (by rw [e2]; simp)]
    refine ⟨_, rfl, ?_, e2, fun k hk => ?_⟩
    · rw [← hz]; rfl
    · rw [modTap_other _ _ _ _ hk, hzo]

/-! ### Marks -/

theorem capture_form (u : State) (n r : Nat) (m : MarkWord) : ∀ t, t = u.capture n r m →
    (t.tap n).age = m.age + (u.tap n).w + r ∧ (t.tap n).since = 0 ∧
    (t.tap n).pend = some ({ m with age := m.age + (u.tap n).w + r }, (u.tap n).since) ∧ (t.tap n).t = (u.tap n).t ∧
    (t.tap n).capT = (u.tap n).t ∧ (t.tap n).hold = 0 ∧
    (t.tap n).q = (u.tap n).q ++ (u.nextDown n).map (fun k => .mark k { m with age := m.age + (u.tap n).w + r }) ∧
    (∀ k, k ≠ n → t.tap k = u.tap k) ∧ t.bt.ageMax = max u.bt.ageMax (m.age + (u.tap n).w + r) ∧
    t.bt.guardErr = (u.bt.guardErr || decide (u.guardUnits < m.age + (u.tap n).w + r)) ∧ t.td = u.td ∧ t.out = u.out := by
  intro t ht
  unfold State.capture at ht
  dsimp +zetaHave only at ht
  subst ht
  have e : ∀ v : Tap, (({ u.setTap n v with bt := { (u.setTap n v).bt with
    ageMax := max (u.setTap n v).bt.ageMax (m.age + (u.tap n).w + r)
    guardErr := (u.setTap n v).bt.guardErr || decide ((u.setTap n v).guardUnits < m.age + (u.tap n).w + r) } } : State).tap n) = v :=
    fun v => setTap_same u n v
  refine ⟨?_, ?_, ?_, ?_, ?_, ?_, ?_, ?_, rfl, rfl, rfl, rfl⟩
  · rw [e]
  · rw [e]
  · rw [e]
  · rw [e]
  · rw [e]
  · rw [e]
  · rw [e]
  · intro k hk
    exact setTap_other _ _ _ _ hk

theorem markComes_kind (v : State) (n : Nat) (b : Bool) (h : v.markComes n b = true) : v.markComes n (!b) = false := by
  unfold State.markComes at h ⊢
  split at h
  · rename_i m hm
    have : m.step = b := by simpa using h
    rw [this]; cases b <;> rfl
  · cases h

/-- What the rows MARK, MARK_STEP do (R190). -/
theorem exec_mark_markStep (s v : State) (n edges r : Nat) (h : s.up = true) (he : s.isEave = true) (hn : s.tapEn n = true) (hv : v = s.tapRun n edges) :
    (((v.tap n).serves = false ∨ v.underlay = true ∨ v.markComes n false = false) → exec (.mark n edges r) s = .next v) ∧
    (((v.tap n).serves = false ∨ v.underlay = true ∨ v.markComes n true = false) → exec (.markStep n edges r) s = .next v) ∧
    (∀ z u x m c rest, (v.tap n).serves = true → v.underlay = false → v.markComes n m.step = true → z = v.laneForce n →
      (z.tap n).wire = (.mark x m, c) :: rest → u = (z.setTap n { z.tap n with wire := rest }).wordIn n c →
      ∃ t, exec (if m.step then .markStep n edges r else .mark n edges r) s = .next t ∧
        exec (if m.step then .mark n edges r else .markStep n edges r) s = .next v ∧
        (t.tap n).age = m.age + (u.tap n).w + r ∧ (t.tap n).since = 0 ∧
        (t.tap n).pend = some ({ m with age := m.age + (u.tap n).w + r }, (u.tap n).since) ∧ (t.tap n).t = (u.tap n).t ∧
        (t.tap n).capT = (u.tap n).t ∧ (t.tap n).hold = 0 ∧
        (t.tap n).q = (u.tap n).q ++ (u.nextDown n).map (fun k => .mark k { m with age := m.age + (u.tap n).w + r }) ∧
        (∀ k, k ≠ n → t.tap k = u.tap k) ∧ t.bt.ageMax = max u.bt.ageMax (m.age + (u.tap n).w + r) ∧
        t.bt.guardErr = (u.bt.guardErr || decide (u.guardUnits < m.age + (u.tap n).w + r)) ∧ t.td = u.td ∧ t.out = u.out) := by
  have x1 : exec (.mark n edges r) s = .next (v.markIn n r false) := by rw [hv]; exact atTap_exec s n edges (fun s => s.markIn n r false) h he hn
  have x2 : exec (.markStep n edges r) s = .next (v.markIn n r true) := by rw [hv]; exact atTap_exec s n edges (fun s => s.markIn n r true) h he hn
  have no : ∀ b, ((v.tap n).serves = false ∨ v.underlay = true ∨ v.markComes n b = false) → v.markIn n r b = v := by
    intro b hc
    unfold State.markIn
    rw [if_neg]
    rintro ⟨a1, a2, a3⟩
    rcases hc with hc | hc | hc
    · rw [hc] at a1; cases a1
    · rw [hc] at a3; cases a3
    · rw [hc] at a2; cases a2
  refine ⟨fun hc => by rw [x1, no _ hc], fun hc => by rw [x2, no _ hc], fun z u x m c rest h1 h2 h3 hz hw hu => ?_⟩
  have y1 : v.markIn n r m.step = u.capture n r m := by
    unfold State.markIn
    rw [if_pos ⟨h1, h3, h2⟩, ahead_next v z n DownWord.isMark _ c rest hz hw (.inl rfl)]
    unfold State.takeMark
    dsimp +zetaHave only
    rw [hw, hu]
  have y2 : v.markIn n r (!m.step) = v := no _ (.inr (.inr (markComes_kind v n _ h3)))
  refine ⟨u.capture n r m, ?_, ?_, capture_form u n r m _ rfl⟩
  · cases hs : m.step
    · rw [if_neg (by decide), x1, ← hs, y1]
    · rw [if_pos rfl, x2, ← hs, y1]
  · cases hs : m.step
    · rw [hs] at y2; rw [if_neg (by decide), x2]; exact congrArg _ y2
    · rw [hs] at y2; rw [if_pos rfl, x1]; exact congrArg _ y2

/-! ### Edges -/

theorem edge_idle (v : Tap) (c : TapCfg) (str : Bool) (h1 : v.pend = none) (h2 : v.armed = []) (h3 : v.past = []) (h4 : v.lines = []) :
    v.edge c str = { tap := { v with
      t := v.t + v.period c.stretch, since := v.since + 1, hold := v.hold + v.period c.stretch, nsw := false, str := str } } := by
  unfold Tap.edge Tap.fire
  simp [h1, h2, h3, h4]

/-- A tap whose lane alone differs. -/
def laneTap (v w : Tap) : Prop := w = { v with xfer := w.xfer, wire := w.wire, upStr := w.upStr, q := w.q }

theorem laneTap_trans {a b c : Tap} (h1 : laneTap a b) (h2 : laneTap b c) : laneTap a c := by
  unfold laneTap at *
  rw [h2, h1]

/-- What the lanes of some crossings may change. -/
def laneKeep (s t : State) : Prop := (∃ a b, t = ({ s with bt := { s.bt with taps := a, fly := b } } : State)) ∧
    ∀ k, laneTap (s.tap k) (t.tap k)

theorem laneKeep_refl (s : State) : laneKeep s s := ⟨⟨s.bt.taps, s.bt.fly, rfl⟩, fun _ => rfl⟩

theorem laneKeep_trans {a b c : State} (h1 : laneKeep a b) (h2 : laneKeep b c) : laneKeep a c := by
  obtain ⟨⟨x, y, e1⟩, t1⟩ := h1
  obtain ⟨⟨x', y', e2⟩, t2⟩ := h2
  exact ⟨⟨x', y', by rw [e2, e1]⟩, fun k => laneTap_trans (t1 k) (t2 k)⟩

theorem laneKeep_set (z : State) (n : Nat) (x : Tap) (hx : laneTap (z.tap n) x) : laneKeep z (z.setTap n x) := by
  refine ⟨⟨z.bt.taps.set {} n x, z.bt.fly, rfl⟩, fun k => ?_⟩
  by_cases hk : k = n
  · subst hk; rw [setTap_same]; exact hx
  · rw [setTap_other _ _ _ _ hk]; rfl

theorem laneKeep_mod (z : State) (n : Nat) (f : Tap → Tap) (hf : ∀ v, laneTap v (f v)) : laneKeep z (z.modTap n f) :=
  laneKeep_set z n _ (hf _)

/-- The lanes change the words on them, and nothing else. -/
theorem laneTick_keep (s : State) (n : Nat) : laneKeep s (s.laneTick n) := by
  unfold State.laneTick
  dsimp +zetaHave only
  cases hx : (s.tap n).xfer with
  | some y =>
    exact laneKeep_set s n _ rfl
  | none =>
    dsimp only
    cases hp : pickWord (s.boundFor n) (s.waiting n) with
    | some y =>
      dsimp only
      have hsw : laneKeep s (s.setWaiting n y.2) := by
        unfold State.setWaiting
        split
        · exact ⟨⟨_, _, rfl⟩, fun _ => rfl⟩
        · exact laneKeep_mod _ _ _ (fun _ => rfl)
      refine laneKeep_trans hsw (laneKeep_mod _ _ _ fun v => ?_)
      split <;> rfl
    | none =>
      dsimp only
      split
      · exact laneKeep_set s n _ rfl
      · exact laneKeep_refl s

theorem lanesTick_keep (s : State) (n : Nat) (t0 : Int) (p : Nat) : laneKeep s (s.lanesTick n t0 p) := by
  have one := laneTick_keep
  have run : ∀ (k : Nat) (z : State), laneKeep z (z.laneRun n k) := by
    intro k
    induction k with
    | zero => exact fun z => laneKeep_refl z
    | succ k ih => exact fun z => laneKeep_trans (one z n) (ih (z.laneTick n))
  have all : ∀ (l : List Nat) (z : State), laneKeep z (z.each l fun s k => s.laneTick k) := by
    intro l
    induction l with
    | nil => exact fun z => laneKeep_refl z
    | cons a l ih => exact fun z => laneKeep_trans (one z a) (ih (z.laneTick a))
  unfold State.lanesTick
  dsimp +zetaHave only
  split
  · exact laneKeep_trans (run _ s) (all _ _)
  · exact all _ _

/-- With nothing to send the lanes stay as they are. -/
theorem lanesTick_idle (s : State) (n : Nat) (t0 : Int) (p : Nat) (h1 : s.bt.fly = []) (h2 : (s.tap n).q = [])
    (h3 : ∀ k, (s.tap k).xfer = none ∧ (s.tap k).upStr < 8) : s.lanesTick n t0 p = s := by
  have pick : ∀ p, pickWord p [] = none := fun _ => rfl
  have one : ∀ k, (s.ties.up k = none ∨ s.ties.up k = some n) → s.laneTick k = s := by
    intro k hk
    have hw : s.waiting k = [] := by
      unfold State.waiting
      rcases hk with hk | hk <;> rw [hk]
      · exact h1
      · exact h2
    rw [(exec_lane s k _ rfl).2.2 (h3 k).1 (by rw [hw]; rfl), if_neg (by have := (h3 k).2; omega)]
  have run : ∀ (k : Nat), s.ties.up n = none → s.laneRun n k = s := by
    intro k hk
    induction k with
    | zero => rfl
    | succ k ih => show (s.laneTick n).laneRun n k = s; rw [one n (.inl hk), ih]
  have all : ∀ (l : List Nat), (∀ k ∈ l, s.ties.up k = some n) → (s.each l fun s k => s.laneTick k) = s := by
    intro l
    induction l with
    | nil => exact fun _ => rfl
    | cons a l ih =>
      intro hl
      show ((s.laneTick a).each l fun s k => s.laneTick k) = s
      rw [one a (.inr (hl a (List.mem_cons_self ..))), ih (fun k hk => hl k (List.mem_cons_of_mem _ hk))]
  have hnd : ∀ k ∈ s.nextDown n, s.ties.up k = some n := by
    intro k hk
    unfold State.nextDown at hk
    have := (List.mem_filter.mp hk).2
    simpa using this
  unfold State.lanesTick
  dsimp +zetaHave only
  split
  · rename_i hu; rw [run _ hu, all _ hnd]
  · exact all _ hnd

theorem tapEdge_idle (s : State) (n : Nat) (str : Bool) (h0 : (s.tap n).st = .track) (h1 : (s.tap n).pend = none) (h2 : (s.tap n).armed = [])
    (h3 : (s.tap n).past = []) (h4 : (s.tap n).lines = []) (h5 : (s.tap n).nsw = false) (l1 : s.bt.fly = []) (l2 : (s.tap n).q = [])
    (l3 : ∀ k, (s.tap k).xfer = none ∧ (s.tap k).upStr < 8) :
    s.tapEdge n str = (let s := s.setTap n { s.tap n with
      t := (s.tap n).t + (s.tap n).period (s.stretch n), since := (s.tap n).since + 1, hold := (s.tap n).hold + (s.tap n).period (s.stretch n)
      nsw := false, str := str }
      if str then s.stretched n else s) := by
  unfold State.tapEdge
  have : s.tapRuns n = true := by unfold State.tapRuns; rw [h0]; decide
  rw [if_neg (by rw [this]; simp), edge_idle _ _ _ h1 h2 h3 h4]
  dsimp +zetaHave only [List.foldl]
  rw [if_pos h5.symm]
  simp only [Bool.false_eq_true, reduceIte, this]
  have e : (s.tapCfg n).stretch = s.stretch n := rfl
  rw [e]
  generalize hx : ({ s.tap n with
      t := (s.tap n).t + (s.tap n).period (s.stretch n), since := (s.tap n).since + 1, hold := (s.tap n).hold + (s.tap n).period (s.stretch n)
      nsw := false, str := str } : Tap) = X
  have hX : X.q = [] ∧ X.xfer = none ∧ X.upStr < 8 := by rw [← hx]; exact ⟨l2, (l3 n).1, (l3 n).2⟩
  rw [lanesTick_idle (s.setTap n X) n _ _ l1 (by rw [setTap_same]; exact hX.1) (by
    intro k
    by_cases hk : k = n
    · subst hk; rw [setTap_same]; exact hX.2
    · rw [setTap_other _ _ _ _ hk]; exact l3 k)]

/-! ### Stretches, fill words and lost words -/

theorem stretched_tap (s : State) (n k : Nat) (hn : s.ties.up n ≠ some n) : ∀ t, t = s.stretched n →
    ∃ fl ft st, (t.tap k) = (if k = n then { s.tap n with skew := (s.tap n).skew - s.stretch n, flagged := fl, flagTick := ft, st := st }
      else if s.tapEn k = true ∧ s.ties.up k = some n then { s.tap k with upStr := min 15 ((s.tap k).upStr + 1), flagged := fl, flagTick := ft, st := st }
      else { s.tap k with flagged := fl, flagTick := ft, st := st }) := by
  intro t ht
  have hd : (s.modTap n fun v => { v with skew := v.skew - s.stretch n }).nextDown n = s.nextDown n := rfl
  have base : ((s.modTap n fun v => { v with skew := v.skew - s.stretch n }).each (s.nextDown n) fun s k => s.modTap k fun v => { v with
      upStr := min 15 (v.upStr + 1) }).tap k =
      (if k = n then { s.tap n with skew := (s.tap n).skew - s.stretch n }
        else if s.tapEn k = true ∧ s.ties.up k = some n then { s.tap k with upStr := min 15 ((s.tap k).upStr + 1) } else s.tap k) := by
    have hnd : (s.nextDown n).Nodup := List.Pairwise.filter _ (tapList_nodup s)
    have hmem : k ∈ s.nextDown n ↔ s.tapEn k = true ∧ s.ties.up k = some n := by
      unfold State.nextDown; rw [List.mem_filter, mem_tapList]; simp
    by_cases hk : k = n
    · subst hk
      rw [if_pos rfl, each_tap_other _ k (fun a b hab => modTap_other _ _ _ _ hab) _ _ (fun hm => hn (hmem.mp hm).2), modTap_same]
    · rw [if_neg hk]
      by_cases hm : k ∈ s.nextDown n
      · rw [if_pos (hmem.mp hm)]
        obtain ⟨s', _, q2, _, q4⟩ := each_tap_at (fun s k => s.modTap k fun v => { v with upStr := min 15 (v.upStr + 1) }) (fun _ => ()) (fun _ _ => rfl)
          (fun a b k hab => modTap_other _ _ _ _ hab) (s.nextDown n) (s.modTap n fun v => { v with skew := v.skew - s.stretch n }) k hnd hm
        rw [q4, modTap_same, q2, modTap_other _ _ _ _ hk]
      · rw [if_neg (fun hh => hm (hmem.mpr hh)), each_tap_other _ k (fun a b hab => modTap_other _ _ _ _ hab) _ _ hm, modTap_other _ _ _ _ hk]
  unfold State.stretched at ht
  dsimp +zetaHave only at ht
  rw [hd] at ht
  generalize (s.modTap n fun v => { v with skew := v.skew - s.stretch n }).each (s.nextDown n) (fun s k => s.modTap k fun v => { v with
      upStr := min 15 (v.upStr + 1) }) = W at base ht
  have fin : ∃ fl ft st, t.tap k = { W.tap k with flagged := fl, flagTick := ft, st := st } := by
    rw [ht]
    split
    · exact flag_tap W n k
    · exact ⟨_, _, _, rfl⟩
  obtain ⟨fl, ft, st, hf⟩ := fin
  refine ⟨fl, ft, st, ?_⟩
  rw [hf, base]
  by_cases hk : k = n
  · rw [if_pos hk, if_pos hk]
  · rw [if_neg hk, if_neg hk]
    split <;> rfl

/-- What the row STRETCH_INDICATION does (R195). -/
theorem exec_stretchIndication (s : State) (n : Nat) (h : s.up = true) (he : s.isEave = true) (hn : s.tapEn n = true) (hup : s.ties.up n ≠ some n) :
    ((s.tap n).st = .off → (s.tap n).past = [] → (s.tap n).lines = [] → (s.tap n).nsw = false → exec (.stretchIndication n 1) s = .next s) ∧
    ((s.tap n).st = .track → (s.tap n).pend = none → (s.tap n).armed = [] → (s.tap n).past = [] → (s.tap n).lines = [] →
      (s.tap n).nsw = false → s.bt.fly = [] → (s.tap n).q = [] → (∀ k, (s.tap k).xfer = none ∧ (s.tap k).upStr < 8) →
      ∃ t, exec (.stretchIndication n 1) s = .next t ∧ (t.tap n).str = true ∧
      (t.tap n).t = (s.tap n).t + (s.tap n).period (s.stretch n) ∧
      (t.tap n).skew = (s.tap n).skew - s.stretch n ∧
      (∀ k, s.tapEn k = true → s.ties.up k = some n → (t.tap k).upStr = (s.tap k).upStr + 1)) := by
  have hx : exec (.stretchIndication n 1) s = .next (s.tapEdge n true) := by
    rw [exec, execStretchIndication, State.main_up h, if_pos ⟨he, hn⟩]; rfl
  rw [hx]
  constructor
  · intro h0 h1 h2 h3
    unfold State.tapEdge
    dsimp +zetaHave only
    rw [if_pos ⟨by unfold State.tapRuns; rw [h0]; rfl, h1, h2, h3⟩]
  · intro h0 h1 h2 h3 h4 h5 l1 l2 l3
    refine ⟨_, rfl, ?_⟩
    rw [tapEdge_idle s n true h0 h1 h2 h3 h4 h5 l1 l2 l3]
    dsimp +zetaHave only
    rw [if_pos rfl]
    generalize hX : ({ s.tap n with
      t := (s.tap n).t + (s.tap n).period (s.stretch n), since := (s.tap n).since + 1, hold := (s.tap n).hold + (s.tap n).period (s.stretch n)
      nsw := false, str := true } : Tap) = X
    have x1 : X.str = true ∧ X.t = (s.tap n).t + (s.tap n).period (s.stretch n) ∧ X.skew = (s.tap n).skew := by rw [← hX]; exact ⟨rfl, rfl, rfl⟩
    have e : ∀ k, k ≠ n → (s.setTap n X).tap k = s.tap k := fun k hk => setTap_other _ _ _ _ hk
    have e0 : (s.setTap n X).tap n = X := setTap_same _ _ _
    have e1 : (s.setTap n X).stretch n = s.stretch n := rfl
    have e2 : (s.setTap n X).ties = s.ties := rfl
    have e3 : (s.setTap n X).tapEn = s.tapEn := rfl
    generalize s.setTap n X = W at *
    obtain ⟨fl, ft, st, q⟩ := stretched_tap W n n (by rw [e2]; exact hup) _ rfl
    rw [if_pos rfl, e0, e1] at q
    refine ⟨by rw [q]; exact x1.1, by rw [q]; exact x1.2.1, by rw [q]; dsimp only; rw [x1.2.2], ?_⟩
    intro k hk hku
    have hkn : k ≠ n := fun hh => hup (by rw [← hh]; rw [hh] at hku ⊢; exact hku)
    obtain ⟨fl, ft, st, q⟩ := stretched_tap W n k (by rw [e2]; exact hup) _ rfl
    rw [if_neg hkn, if_pos ⟨by rw [e3]; exact hk, by rw [e2]; exact hku⟩, e k hkn] at q
    rw [q]
    dsimp only
    have := (l3 k).2
    omega

theorem wordIn_tap (v : State) (n c : Nat) : ∃ fl ft st, (v.wordIn n c).tap n = { v.tap n with
    skew := (v.tap n).skew + (match v.ties.up n with | some u => (c * v.stretch u : Nat) | none => 0)
    flagged := fl, flagTick := ft, st := st } := by
  unfold State.wordIn
  dsimp +zetaHave only
  have fin : ∀ (x : Tap) (W : State) (q : Prop) [Decidable q], W.tap n = x → ∃ fl ft st,
      (if q then W.flagCrossing n else W).tap n = { x with flagged := fl, flagTick := ft, st := st } := by
    intro x W q _ hW
    split
    · obtain ⟨fl, ft, st, e⟩ := flag_tap W n n
      exact ⟨fl, ft, st, by rw [e, hW]⟩
    · exact ⟨_, _, _, hW⟩
  have rise : ∀ r : Nat, ∃ fl ft st, (if (15 ≤ c ∨ ((if 15 ≤ c then (v.modTap n fun v => { v with skew := v.skew + r }).count BT_CNT_SAT
      else v.modTap n fun v => { v with skew := v.skew + r }).tap n).overSlack = true) ∧
      ((if 15 ≤ c then (v.modTap n fun v => { v with skew := v.skew + r }).count BT_CNT_SAT
      else v.modTap n fun v => { v with skew := v.skew + r }).tap n).serves = true then
      (if 15 ≤ c then (v.modTap n fun v => { v with skew := v.skew + r }).count BT_CNT_SAT
      else v.modTap n fun v => { v with skew := v.skew + r }).flagCrossing n
      else (if 15 ≤ c then (v.modTap n fun v => { v with skew := v.skew + r }).count BT_CNT_SAT
      else v.modTap n fun v => { v with skew := v.skew + r })).tap n = { v.tap n with skew := (v.tap n).skew + r, flagged := fl, flagTick := ft, st := st } := by
    intro r
    refine fin { v.tap n with skew := (v.tap n).skew + r } _ _ ?_
    split <;> exact modTap_same v n fun v => { v with skew := v.skew + r }
  cases v.ties.up n with
  | none => exact rise 0
  | some u => exact rise (c * v.stretch u)

/-- What the row FILL_WORD does (R192). -/
theorem exec_fillWord (s v : State) (n edges : Nat) (h : s.up = true) (he : s.isEave = true) (hn : s.tapEn n = true) (hv : v = s.tapRun n edges) :
    ((v.laneWords n).any DownWord.isFill = false → (v.tap n).upStr < 8 → exec (.fillWord n edges) s = .next v) ∧
    (∀ z c rest, ((v.laneWords n).any DownWord.isFill = true ∨ 8 ≤ (v.tap n).upStr) → z = v.laneForce n → (z.tap n).wire = (.fill, c) :: rest →
      ∃ t, exec (.fillWord n edges) s = .next t ∧ (t.tap n).wire = rest ∧ (t.tap n).upStr = (z.tap n).upStr ∧ (t.tap n).t = (z.tap n).t ∧
      (t.tap n).skew = (z.tap n).skew + (match z.ties.up n with | some u => (c * z.stretch u : Nat) | none => 0)) ∧
    ((v.tap n).wire = [] → (v.tap n).xfer = none → (v.waiting n).filter (v.boundFor n) = [] → 8 ≤ (v.tap n).upStr →
      ∃ z, v.laneForce n = z ∧ (z.tap n).wire = [(.fill, (v.tap n).upStr)] ∧ (z.tap n).upStr = 0 ∧ (z.tap n).skew = (v.tap n).skew) := by
  have hx : exec (.fillWord n edges) s = .next (if (v.laneWords n).any DownWord.isFill ∨ 8 ≤ (v.tap n).upStr then
      (if ((v.ahead n DownWord.isFill).tap n).nextIs DownWord.isFill then (v.ahead n DownWord.isFill).takeWord n else v.ahead n DownWord.isFill) else v) := by
    rw [hv]; exact atTap_exec s n edges (fun s => if (s.laneWords n).any DownWord.isFill ∨ 8 ≤ (s.tap n).upStr then
      (if ((s.ahead n DownWord.isFill).tap n).nextIs DownWord.isFill then (s.ahead n DownWord.isFill).takeWord n else s.ahead n DownWord.isFill) else s) h he hn
  rw [hx]
  refine ⟨?_, ?_, ?_⟩
  · intro h1 h2; rw [if_neg (by rw [h1]; simp; omega)]
  · intro z c rest h1 hz hw
    rw [if_pos h1, ahead_next v z n DownWord.isFill _ c rest hz hw (.inl rfl), if_pos (nextIs_next z n _ _ c rest hw rfl), takeWord_next z n _ c rest hw]
    obtain ⟨fl, ft, st, q⟩ := wordIn_tap (z.setTap n { z.tap n with wire := rest }) n c
    rw [setTap_same] at q
    refine ⟨_, rfl, ?_⟩
    show (((z.setTap n { z.tap n with wire := rest }).wordIn n c).tap n).wire = _ ∧ (((z.setTap n { z.tap n with wire := rest }).wordIn n c).tap n).upStr = _ ∧
      (((z.setTap n { z.tap n with wire := rest }).wordIn n c).tap n).t = _ ∧ (((z.setTap n { z.tap n with wire := rest }).wordIn n c).tap n).skew = _
    rw [q]; exact ⟨rfl, rfl, rfl, rfl⟩
  · intro h1 h2 h3 h4
    have none_ : ∀ (l : List DownWord) (p q : DownWord → Bool), l.filter p = [] → takeFirst (fun w => p w && q w) l = none := by
      intro l p q
      induction l with
      | nil => exact fun _ => rfl
      | cons a l ih =>
        intro hl
        rw [List.filter_cons] at hl
        by_cases ha : p a = true
        · rw [if_pos ha] at hl; cases hl
        · rw [if_neg ha] at hl
          unfold takeFirst
          rw [if_neg (by simp [ha]), ih hl]; rfl
    have hp : pickWord (v.boundFor n) (v.waiting n) = none := by
      unfold pickWord
      rw [none_ _ _ _ h3, none_ _ _ _ h3, none_ _ _ _ h3]; rfl
    unfold State.laneForce
    dsimp +zetaHave only
    rw [if_neg (by rw [h1]; simp), (exec_lane v n _ rfl).2.2 h2 hp, if_pos h4, h1]
    rw [if_pos (by rw [setTap_same]; exact List.cons_ne_nil _ _)]
    exact ⟨_, rfl, by rw [setTap_same]; rfl, by rw [setTap_same], by rw [setTap_same]⟩

/-- What the row CROSSING_WORD_BAD does (R196). -/
theorem exec_crossingWordBad (s v : State) (n edges : Nat) (h : s.up = true) (he : s.isEave = true) (hn : s.tapEn n = true) (hv : v = s.tapRun n edges) :
    (∀ k p, ((k = .arm ∧ p = DownWord.isArm) ∨ (k = .cancel ∧ p = DownWord.isCancel) ∨ (k = .release ∧ p = DownWord.isRelease) ∨
        (k = .mark ∧ p = DownWord.isMark) ∨ (k = .fill ∧ p = DownWord.isFill)) →
      ((v.laneWords n).any p = false → exec (.crossingWordBad n edges k) s = .next ((v.count BT_CNT_PAR).contained 0x06)) ∧
      (∀ z w c rest, (v.laneWords n).any p = true → z = v.laneForce n → (z.tap n).wire = (w, c) :: rest → p w = true →
        exec (.crossingWordBad n edges k) s = .next (((z.setTap n { z.tap n with wire := rest }).count BT_CNT_PAR).contained 0x06))) ∧
    (∀ r, exec (.crossingWordBad n edges (.arrive r)) s = .next (((v.endEngine r rParity).count BT_CNT_PAR).contained 0x06)) ∧
    (∀ op r, exec (.crossingWordBad n edges (.objReq op r)) s = .next (((v.endEngine r rParity).count BT_CNT_PAR).contained 0x06)) ∧
    (∀ tap rtag q, q = (v.count OD_CNT_PAR).valueOf none → exec (.crossingWordBad n edges (.objRsp tap rtag)) s =
      .next (((q.1.emit (.objRsp tap rtag rParity q.2)).count BT_CNT_PAR).contained 0x06)) ∧
    (∀ r rest, takeFirst (fun (r : LaunchReport) => (v.tapPath r.tap).contains n) v.bt.reports = some (r, rest) →
      exec (.crossingWordBad n edges .report) s = .next ((({ v with bt := { v.bt with reports := rest } } : State).count BT_CNT_PAR).contained 0x06)) ∧
    exec (.crossingWordBad n edges .unused) s = .next ((v.count BT_CNT_PAR).contained 0x06) := by
  have hx : ∀ k, exec (.crossingWordBad n edges k) s = .next (((v.dropWord n k).count BT_CNT_PAR).contained 0x06) := by
    intro k
    rw [hv]; exact atTap_exec s n edges (fun s => ((s.dropWord n k).count BT_CNT_PAR).contained 0x06) h he hn
  refine ⟨fun k p hk => ?_, fun r => hx _, fun op r => hx _, fun tap rtag q hq => by rw [hq]; exact hx _, fun r rest hr => ?_, hx _⟩
  · have hd : v.dropWord n k = v.loseWord n p := by
      rcases hk with hk | hk | hk | hk | hk <;> (rw [hk.1, hk.2]; rfl)
    rw [hx, hd]
    refine ⟨fun hp => ?_, fun z w c rest hp hz hw hpw => ?_⟩
    · unfold State.loseWord; rw [if_neg (by rw [hp]; decide)]
    · unfold State.loseWord
      dsimp +zetaHave only
      rw [if_pos hp, ahead_next v z n p w c rest hz hw (.inl hpw), if_pos (nextIs_next z n p w c rest hw hpw)]
      unfold State.modTap
      dsimp only
      rw [hw]; rfl
  · rw [hx]; unfold State.dropWord; dsimp only; rw [hr]

/-- What the row MARGIN_WARNING does (R198). -/
theorem exec_marginWarning (s u : State) (n k : Nat) (h : s.up = true) (he : s.isEave = true) (hn : s.tapEn n = true)
    (hu : u = (s.setTap n { s.tap n with mis := (s.tap n).mis + k }).count (BT_Tn_CNT_MFAIL n) k) :
    ((s.tap n).mis + k < max 1 (s.fl BT_MARGIN 0 8) → exec (.marginWarning n k) s = .next u) ∧
    (max 1 (s.fl BT_MARGIN 0 8) ≤ (s.tap n).mis + k → (s.tap n).mis < max 1 (s.fl BT_MARGIN 0 8) → s.bit BT_CTL 3 = false →
      exec (.marginWarning n k) s = .next (({ u.modTap n fun v => { v with warn := true } with
        bt := { (u.modTap n fun v => { v with warn := true }).bt with warn := s.bt.warn ||| BitVec.ofNat 64 (2 ^ n) } } : State).raise 17)) := by
  rw [exec, execMarginWarning, State.main_up h, if_pos ⟨he, hn⟩]
  dsimp +zetaHave only
  rw [← hu]
  constructor
  · intro hc; rw [if_neg (by omega)]
  · intro h1 h2 h3
    rw [if_pos ⟨h1, h2⟩]
    have hb : ∀ x, (({ u.modTap n fun v => { v with warn := true } with
        bt := { (u.modTap n fun v => { v with warn := true }).bt with warn := x } } : State).raise 17).bit BT_CTL 3 = false := by
      intro x
      rw [← h3]; show u.bit BT_CTL 3 = _; rw [hu]; rfl
    rw [if_neg (by rw [hb]; decide)]
    have hw : (u.modTap n fun v => { v with warn := true }).bt.warn = s.bt.warn := by
      show u.bt.warn = _; rw [hu]; rfl
    rw [hw]

/-! ### Launches -/

theorem head_path (s : State) (n : Nat) (hu : s.ties.up n = none) : s.tapPath n = [n] := by
  unfold State.tapPath Ties.path
  rw [hu]; rfl

theorem each_none (s : State) (f : State → Nat → State) (l : List Nat) (h : ∀ k ∈ l, f s k = s) : s.each l f = s := by
  induction l with
  | nil => rfl
  | cons a l ih =>
    show (f s a).each l f = s
    rw [h a (List.mem_cons_self ..)]; exact ih fun k hk => h k (List.mem_cons_of_mem _ hk)

/-- What the row ARM_WORD does (R199). -/
theorem exec_armWord (s v : State) (n edges : Nat) (h : s.up = true) (he : s.isEave = true)
    (hn : s.tapEn n = true) (hv : v = s.tapRun n edges) :
    ((∀ k ∈ v.tapPath n, (v.laneWords k).any (DownWord.armFor n) = false) → exec (.armWord n edges) s = .next v) ∧
    (∀ z u line nw tol target c rest, v.ties.up n = none → (v.laneWords n).any (DownWord.armFor n) = true → z = v.laneForce n →
      (z.tap n).wire = (.arm n line target nw tol, c) :: rest → u = (z.setTap n { z.tap n with wire := rest }).wordIn n c →
      (u.armCheck n line target = none → exec (.armWord n edges) s = .next (u.modTap n fun w => { w with
        armed := w.armed ++ [{ line := line, target := target, n := nw, tol := tol }] })) ∧
      (∀ c, u.armCheck n line target = some c → ∃ t, exec (.armWord n edges) s = .next t ∧
        t.bt.reports = u.bt.reports ++ [{ tap := n, line := line, target := target, code := c }] ∧
        (t.tap n).armed = (u.tap n).armed ∧ (t.tap n).seq = ((u.tap n).seq + 1) % 256)) := by
  have hx : exec (.armWord n edges) s = .next (v.bringDown n (DownWord.armFor n)) := by
    rw [hv]; exact atTap_exec s n edges (fun s => s.bringDown n (DownWord.armFor n)) h he hn
  rw [hx]
  refine ⟨fun hc => ?_, fun z u line nw tol target c rest hu ha hz hw hu2 => ?_⟩
  · exact congrArg _ (each_none v _ _ fun k hk => bring_none v k _ (hc k (List.mem_reverse.mp hk)))
  · have e : v.bringDown n (DownWord.armFor n) = u.takeArm n line target nw tol := by
      unfold State.bringDown
      rw [head_path v n hu]
      show v.bring n (DownWord.armFor n) = _
      rw [bring_next v z n _ _ c rest hz ha hw (by unfold DownWord.armFor; simp), ← hu2]
      unfold State.arrive
      dsimp only
      rw [if_pos rfl]
    rw [e]
    unfold State.takeArm
    dsimp +zetaHave only
    refine ⟨fun hc => by rw [hc], fun c hc => ?_⟩
    rw [hc]
    obtain ⟨k1, k2, _⟩ := tapReport_tap u n { line := line, target := target, n := nw, tol := tol } c
    exact ⟨_, rfl, k2, by rw [k1], by rw [k1]⟩

/-- What the row CANCEL_WORD does (R199). -/
theorem exec_cancelWord (s v : State) (n edges : Nat) (h : s.up = true) (he : s.isEave = true)
    (hn : s.tapEn n = true) (hv : v = s.tapRun n edges) :
    ((∀ k ∈ v.tapPath n, (v.laneWords k).any (DownWord.cancelFor n) = false) → exec (.cancelWord n edges) s = .next v) ∧
    (∀ z u line target c rest l, v.ties.up n = none → (v.laneWords n).any (DownWord.cancelFor n) = true → z = v.laneForce n →
      (z.tap n).wire = (.cancel n line target, c) :: rest → u = (z.setTap n { z.tap n with wire := rest }).wordIn n c →
      (u.tap n).armed = [l] → l.line = line → l.target = target →
      (u.firesNext n l = false → ∃ t, exec (.cancelWord n edges) s = .next t ∧ (t.tap n).armed = [] ∧
        t.bt.reports.getLast?.map (·.code) = some 5) ∧
      (u.firesNext n l = true → ∃ t, exec (.cancelWord n edges) s = .next t ∧ (t.tap n).armed = [{ l with cancelLate := true }] ∧
        t.bt.reports = u.bt.reports)) := by
  have hx : exec (.cancelWord n edges) s = .next (v.bringDown n (DownWord.cancelFor n)) := by
    rw [hv]; exact atTap_exec s n edges (fun s => s.bringDown n (DownWord.cancelFor n)) h he hn
  rw [hx]
  refine ⟨fun hc => ?_, fun z u line target c rest l hu ha hz hw hu2 hl h1 h2 => ?_⟩
  · exact congrArg _ (each_none v _ _ fun k hk => bring_none v k _ (hc k (List.mem_reverse.mp hk)))
  · have e : v.bringDown n (DownWord.cancelFor n) = u.takeCancel n line target := by
      unfold State.bringDown
      rw [head_path v n hu]
      show v.bring n (DownWord.cancelFor n) = _
      rw [bring_next v z n _ _ c rest hz ha hw (by unfold DownWord.cancelFor; simp), ← hu2]
      unfold State.arrive
      dsimp only
      rw [if_pos rfl]
    rw [e]
    have hit : (decide (l.line = line) && decide (l.target = target)) = true := by rw [h1, h2]; simp
    unfold State.takeCancel
    dsimp +zetaHave only
    rw [hl]
    simp only [List.find?, hit, List.filter, List.map, reduceIte, Bool.not_true]
    constructor
    · intro hc
      rw [if_neg (by rw [hc]; decide)]
      obtain ⟨k1, k2, _⟩ := tapReport_tap (u.setTap n { u.tap n with armed := [] }) n l 5
      refine ⟨_, rfl, ?_, ?_⟩
      · rw [k1, setTap_same]
      · rw [k2]; simp [repOf]
    · intro hc
      rw [if_pos hc]
      exact ⟨_, rfl, by rw [setTap_same], rfl⟩

theorem tapUntil_succ (s : State) (n k : Nat) (stop : Tap → Tap → Bool) : s.tapUntil n (k + 1) stop =
    if stop (s.tap n) ((s.tapEdge n false).tap n) then s.tapEdge n false else (s.tapEdge n false).tapUntil n k stop := rfl

/-- What the rows LAUNCH_FIRE, LAUNCH_LINE_FALL, LAUNCH_REPORT, NSW_REQ_RISE do (R201, R202, R203). -/
theorem exec_launchFire_launchLineFall_launchReport_more (s : State) (n k : Nat) (h : s.up = true) (he : s.isEave = true) (hn : s.tapEn n = true) (w : State) (hw : w = s.tapEdge n false) :
    exec (.launchFire n 0) s = .next s ∧ exec (.launchLineFall n 0) s = .next s ∧ exec (.launchReport n 0) s = .next s ∧
    exec (.nswReqRise n 0) s = .next s ∧
    exec (.launchFire n (k + 1)) s =
      .next (if (w.tap n).armed.length < (s.tap n).armed.length then w else w.tapUntil n k fun a b => decide (b.armed.length < a.armed.length)) ∧
    exec (.launchReport n (k + 1)) s = .next (if (s.tap n).seq ≠ (w.tap n).seq then w else w.tapUntil n k fun a b => a.seq != b.seq) ∧
    exec (.nswReqRise n (k + 1)) s =
      .next (if (s.tap n).nsw = false ∧ (w.tap n).nsw = true then w else w.tapUntil n k fun a b => !a.nsw && b.nsw) ∧
    exec (.launchLineFall n (k + 1)) s = .next (if (s.tap n).lines.any (fun e => decide (e.2 = 1)) = true then w else
      w.tapUntil n k fun a _ => a.lines.any fun e => decide (e.2 = 1)) := by
  subst hw
  have hd : s.isEave = true ∧ s.tapEn n = true := ⟨he, hn⟩
  refine ⟨?_, ?_, ?_, ?_, ?_, ?_, ?_, ?_⟩
  · rw [exec, execLaunchFire, State.main_up h, if_pos hd]; rfl
  · rw [exec, execLaunchLineFall, State.main_up h, if_pos hd]; rfl
  · rw [exec, execLaunchReport, State.main_up h, if_pos hd]; rfl
  · rw [exec, execNswReqRise, State.main_up h, if_pos hd]; rfl
  · rw [exec, execLaunchFire, State.main_up h, if_pos hd, tapUntil_succ]
    simp only [decide_eq_true_eq]
  · rw [exec, execLaunchReport, State.main_up h, if_pos hd, tapUntil_succ]
    simp only [bne_iff_ne]
  · rw [exec, execNswReqRise, State.main_up h, if_pos hd, tapUntil_succ]
    simp only [Bool.and_eq_true, Bool.not_eq_true']
  · rw [exec, execLaunchLineFall, State.main_up h, if_pos hd, tapUntil_succ]

theorem tapUntil_one (s : State) (n : Nat) (stop : Tap → Tap → Bool) : s.tapUntil n 1 stop = s.tapEdge n false := by
  rw [tapUntil_succ]; split <;> rfl

theorem edge_fire (v : Tap) (c : TapCfg) (l : Launch) (code : Nat) (h0 : v.st = .track) (h1 : v.pend = none) (hs : v.str = false) (h2 : v.armed = [l])
    (h3 : v.past = []) (h4 : v.lines = []) (hd : l.at28 ≤ v.t + 16 * v.ptrk) (hm : v.mark = some (courseOf l.target, code)) (ht : code ≤ l.tol)
    (ha : l.after = 0) :
    ∃ ns, v.edge c false = { tap := { v with
      t := v.t + 16 * v.ptrk, since := v.since + 1, hold := v.hold + 16 * v.ptrk, nsw := ns, str := false, armed := []
      lines := Map.set [] 0 l.line (c.lw + 1), past := [{ l with code := 0, fireStr := false, late := false, fall := c.lw + 1 }] }, rose := [l.line] } := by
  have e1 : ((Map.set [] 0 l.line (c.lw + 1)).get 0 l.line) = c.lw + 1 := Map.get_set_same _ _ _ _
  have e0 : Map.get [] 0 l.line = 0 := rfl
  refine ⟨decide (l.after < l.n), ?_⟩
  unfold Tap.edge Tap.fire Tap.period
  simp [h0, h1, hs, h2, h3, h4, hd, hm, ht, fireCode, e1, e0, Nat.not_lt.mpr ht, bnat, ha]

theorem edge_fall (v : Tap) (c : TapCfg) (line : Nat) (h0 : v.st = .track) (h1 : v.pend = none) (hs : v.str = false) (h2 : v.armed = [])
    (h3 : v.past = []) (h4 : v.lines = [(line, 1)]) :
    v.edge c false = { tap := { v with
      t := v.t + 16 * v.ptrk, since := v.since + 1, hold := v.hold + 16 * v.ptrk, nsw := false, str := false, armed := [], past := [], lines := [] }, fell := [line] } := by
  unfold Tap.edge Tap.fire Tap.period
  simp [h0, h1, hs, h2, h3, h4]

theorem edge_report (v : Tap) (c : TapCfg) (l : Launch) (h0 : v.st = .track) (h1 : v.pend = none) (hs : v.str = false) (h2 : v.armed = [])
    (h3 : v.past = [l]) (h4 : v.lines = []) (h5 : l.n ≤ l.after + 1) (h6 : l.fall ≤ l.after + 1) :
    v.edge c false = { tap := { v with
      t := v.t + 16 * v.ptrk, since := v.since + 1, hold := v.hold + 16 * v.ptrk, nsw := false, str := false, armed := [], past := [], lines := [] }, ended := [{ l with after := l.after + 1 }] } := by
  unfold Tap.edge Tap.fire Tap.period
  simp [h0, h1, hs, h2, h3, h4, h5, h6, Nat.not_lt.mpr h5]

/-- A line's edges are emitted. -/
theorem lines_out (n : Nat) (b : Bool) : ∀ (l : List Nat) (s : State), ∃ o, (l.foldl (fun s k => s.emit (.launchLine n k b)) s) = { s with out := o } ∧
    (∀ x ∈ s.out, x ∈ o) ∧ ∀ k ∈ l, .launchLine n k b ∈ o := by
  intro l
  induction l with
  | nil => exact fun s => ⟨s.out, rfl, fun _ h => h, fun _ h => absurd h List.not_mem_nil⟩
  | cons a l ih =>
    intro s
    obtain ⟨o, e, h1, h2⟩ := ih (s.emit (.launchLine n a b))
    refine ⟨o, e, fun x hx => h1 x (List.mem_cons_of_mem _ hx), fun k hk => ?_⟩
    rcases List.mem_cons.mp hk with hk | hk
    · rw [hk]; exact h1 _ (List.mem_cons_self ..)
    · exact h2 k hk

/-- One edge of a running tap that neither reloads nor counts. -/
theorem tapEdge_on (s : State) (n : Nat) (o : EdgeOut) (hr : s.tapRuns n = true) (ho : (s.tap n).edge (s.tapCfg n) false = o)
    (h1 : o.inWindow = false) (h2 : o.reload = false) (h3 : o.counted = false) (h4 : o.missed = []) :
    ∃ u, laneKeep (o.ended.foldl (fun s l => s.tapReport n l l.finalCode) u) (s.tapEdge n false) ∧ u.tap n = o.tap ∧ u.bt.reports = s.bt.reports ∧
      (∀ l ∈ o.rose, .launchLine n l true ∈ u.out) ∧ ∀ l ∈ o.fell, .launchLine n l false ∈ u.out := by
  unfold State.tapEdge
  dsimp +zetaHave only
  rw [if_neg (by rw [hr]; simp), ho, h1, h2, h3, h4, hr]
  simp only [Bool.false_eq_true, reduceIte, List.foldl_nil]
  obtain ⟨o1, e1, m1, k1⟩ := lines_out n false o.fell (s.setTap n o.tap)
  rw [e1]
  obtain ⟨o2, e2, m2, k2⟩ := lines_out n true o.rose { s.setTap n o.tap with out := o1 }
  rw [e2]
  have nsw : ∃ q, (if o.tap.nsw = (s.tap n).nsw then { s.setTap n o.tap with out := o2 } else State.emit { s.setTap n o.tap with out := o2 } (.nsw n o.tap.nsw)) =
      { s.setTap n o.tap with out := q } ∧ ∀ x ∈ o2, x ∈ q := by
    split
    · exact ⟨o2, rfl, fun _ h => h⟩
    · exact ⟨_, rfl, fun _ h => List.mem_cons_of_mem _ h⟩
  obtain ⟨q, e3, m3⟩ := nsw
  rw [e3]
  refine ⟨{ s.setTap n o.tap with out := q }, lanesTick_keep _ _ _ _, setTap_same s n o.tap, rfl, fun l hl => m3 _ (k2 l hl), fun l hl => m3 _ (m2 _ (k1 l hl))⟩

theorem laneKeep_same {s t : State} (h : laneKeep s t) : t.out = s.out ∧ t.bt.reports = s.bt.reports := by
  obtain ⟨⟨a, b, e⟩, _⟩ := h
  rw [e]; exact ⟨rfl, rfl⟩

/-- What the rows LAUNCH_FIRE, LAUNCH_LINE_FALL, LAUNCH_REPORT do (R201, R203). -/
theorem exec_launchFire_launchLineFall_launchReport (s : State) (n : Nat) (v : Tap) (h : s.up = true) (he : s.isEave = true) (hn : s.tapEn n = true) (hv : s.tap n = v) (h0 : v.st = .track)
    (h1 : v.pend = none) (hs : v.str = false) :
    (∀ l code, v.armed = [l] → v.past = [] → v.lines = [] → l.at28 ≤ v.t + 16 * v.ptrk → v.mark = some (courseOf l.target, code) →
      code ≤ l.tol → l.after = 0 → ∃ t, exec (.launchFire n 1) s = .next t ∧ (t.tap n).armed = [] ∧
      (t.tap n).lines.get 0 l.line = s.fl (BT_Tn_CFG n) 16 4 + 1 ∧ (t.tap n).past.map (·.code) = [0] ∧
      .launchLine n l.line true ∈ t.out ∧ (t.tap n).t = v.t + 16 * v.ptrk) ∧
    (∀ line, v.armed = [] → v.past = [] → v.lines = [(line, 1)] → ∃ t, exec (.launchLineFall n 1) s = .next t ∧
      (t.tap n).lines = [] ∧ .launchLine n line false ∈ t.out) ∧
    (∀ l, v.armed = [] → v.past = [l] → v.lines = [] → l.code = 0 → l.cancelLate = false → l.n ≤ l.after + 1 → l.fall ≤ l.after + 1 →
      ∃ t, exec (.launchReport n 1) s = .next t ∧ (t.tap n).past = [] ∧ t.bt.reports.map (·.code) = s.bt.reports.map (·.code) ++ [0] ∧
      (t.tap n).seq = (v.seq + 1) % 256) := by
  have hd : s.isEave = true ∧ s.tapEn n = true := ⟨he, hn⟩
  have hruns : s.tapRuns n = true := by unfold State.tapRuns; rw [hv, h0]; decide
  have hon : ∀ o, v.edge (s.tapCfg n) false = o → (s.tap n).edge (s.tapCfg n) false = o := fun o h => by rw [hv]; exact h
  refine ⟨?_, ?_, ?_⟩
  · intro l code a1 a2 a3 a4 a5 a6 a7
    refine ⟨s.tapEdge n false, by rw [exec, execLaunchFire, State.main_up h, if_pos hd, tapUntil_one], ?_⟩
    obtain ⟨ns, e⟩ := edge_fire v (s.tapCfg n) l code h0 h1 hs a1 a2 a3 a4 a5 a6 a7
    obtain ⟨u, k1, k2, _, k4, _⟩ := tapEdge_on s n _ hruns (hon _ e) rfl rfl rfl rfl
    have l1 := k1.2 n
    dsimp only [List.foldl] at l1
    unfold laneTap at l1
    rw [l1, k2, (laneKeep_same k1).1]
    refine ⟨rfl, ?_, rfl, k4 _ (List.mem_cons_self ..), rfl⟩
    show Map.get (Map.set [] 0 l.line ((s.tapCfg n).lw + 1)) 0 l.line = _
    rw [Map.get_set_same]; rfl
  · intro line a1 a2 a3
    refine ⟨s.tapEdge n false, by rw [exec, execLaunchLineFall, State.main_up h, if_pos hd, tapUntil_one], ?_⟩
    have e := edge_fall v (s.tapCfg n) line h0 h1 hs a1 a2 a3
    obtain ⟨u, k1, k2, _, _, k5⟩ := tapEdge_on s n _ hruns (hon _ e) rfl rfl rfl rfl
    have l1 := k1.2 n
    dsimp only [List.foldl] at l1
    unfold laneTap at l1
    rw [l1, k2, (laneKeep_same k1).1]
    exact ⟨rfl, k5 _ (List.mem_cons_self ..)⟩
  · intro l a1 a2 a3 a4 a5 a6 a7
    refine ⟨s.tapEdge n false, by rw [exec, execLaunchReport, State.main_up h, if_pos hd, tapUntil_one], ?_⟩
    have e := edge_report v (s.tapCfg n) l h0 h1 hs a1 a2 a3 a6 a7
    obtain ⟨u, k1, k2, k3, _, _⟩ := tapEdge_on s n _ hruns (hon _ e) rfl rfl rfl rfl
    have hfc : Launch.finalCode { l with after := l.after + 1 } = 0 := by
      unfold Launch.finalCode; dsimp only; rw [a4, a5]; rfl
    dsimp only [List.foldl] at k1
    rw [hfc] at k1
    obtain ⟨j1, j2, _⟩ := tapReport_tap u n { l with after := l.after + 1 } 0
    rw [k2] at j1
    rw [k3] at j2
    have l1 := k1.2 n
    unfold laneTap at l1
    rw [l1, (laneKeep_same k1).2]
    refine ⟨by rw [j1], ?_, by rw [j1]⟩
    rw [j2, List.map_append]; rfl

/-- What the row RELEASE_WORD does (R194, R264). -/
theorem exec_releaseWord (s : State) (h : s.up = true) (he : s.isEave = true) :
    exec .releaseWord s = .next (s.each s.chainOrder fun s n => s.bring n DownWord.isRelease) ∧
    ((∀ n ∈ s.chainOrder, (s.laneWords n).any DownWord.isRelease = false) → exec .releaseWord s = .next s) ∧
    (∀ (v z u : State) (n x hd c : Nat) (ph : Bool) (rest : List (DownWord × Nat)), (v.laneWords n).any DownWord.isRelease = true → z = v.laneForce n →
      (z.tap n).wire = (.release x hd ph, c) :: rest → u = (z.setTap n { z.tap n with wire := rest }).wordIn n c →
      ∃ t, v.bring n DownWord.isRelease = t ∧ t.out = .barRsp n hd ph :: u.out ∧
        (t.tap n).q = (u.tap n).q ++ (u.nextDown n).map (fun k => .release k hd ph) ∧ (∀ k, k ≠ n → t.tap k = u.tap k) ∧ t.td = u.td) := by
  have hx : exec .releaseWord s = .next (s.each s.chainOrder fun s n => s.bring n DownWord.isRelease) := by
    rw [exec, execReleaseWord, State.main_up h, if_pos he]
  refine ⟨hx, fun hc => ?_, fun v z u n x hd c ph rest ha hz hw hu => ?_⟩
  · rw [hx]; exact congrArg _ (each_none s _ _ fun k hk => bring_none s k _ (hc k hk))
  · rw [bring_next v z n _ _ c rest hz ha hw rfl, ← hu]
    refine ⟨(u.relayAll n ((u.nextDown n).map fun k => .release k hd ph)).emit (.barRsp n hd ph), rfl, rfl, ?_, fun k hk => ?_, rfl⟩
    · exact congrArg Tap.q (modTap_same u n fun v => { v with q := v.q ++ (u.nextDown n).map fun k => .release k hd ph })
    · exact modTap_other u n k (fun v => { v with q := v.q ++ (u.nextDown n).map fun k => .release k hd ph }) hk

end Sys2Proof.Machine
end

