-- ==== Sys2Proof/Laws/RowsClock.lean ====
section
/-! SUPPORT. Sys2Proof/Laws/RowsClock.lean: the rows of reset and clocks. -/

set_option linter.all false
set_option Elab.async false

namespace Sys2Proof.Machine
open Sys2Proof Sys2Proof.Config

/-- What the row OSC_GOOD does (R164). -/
theorem exec_oscGood :
    (∀ s : State, s.ck.phase = .oscCount → s.ck.oscGood = false →
      exec .oscGood s = .next { s with ck := { s.ck with oscGood := true, oscCnt := 1048576, monOk := true, phase := .pllWait } }) := by
  intro s h1 h2
  simp [exec, execOscGood, State.oscRuns, h1, h2, State.oscGoodSet, oscTarget]

/-- One cycle of the oscillator while it is counted (R164, R165). -/
theorem exec_oscCycle :
    (∀ (s : State) (mon : Nat), s.ck.oscGood = false → (2 ≤ mon ∧ mon ≤ 6 → s.ck.oscCnt + 1 < 1048576 →
        s.oscCycle mon = { s with ck := { s.ck with oscCnt := s.ck.oscCnt + 1, monOk := true } }) ∧
      (2 ≤ mon ∧ mon ≤ 6 → s.ck.oscCnt + 1 = 1048576 → (s.oscCycle mon).ck.oscGood = true) ∧
      (¬ (2 ≤ mon ∧ mon ≤ 6) → (s.oscCycle mon).ck.oscCnt = 0 ∧ (s.oscCycle mon).ck.oscGood = false)) := by
  intro s mon h
  refine ⟨fun h1 h2 => ?_, fun h1 h2 => ?_, fun h1 => ?_⟩
  · unfold State.oscCycle
    rw [if_neg (by simp [oscAccepts, h1.1, h1.2]), if_neg (by simp [h]), if_neg (by unfold oscTarget; omega)]
  · unfold State.oscCycle
    rw [if_neg (by simp [oscAccepts, h1.1, h1.2]), if_neg (by simp [h]), if_pos (by unfold oscTarget; omega)]
    unfold State.oscGoodSet
    dsimp only
    split <;> rfl
  · unfold State.oscCycle
    rw [if_pos (by simp only [oscAccepts, Bool.and_eq_false_iff, decide_eq_false_iff_not]; omega)]
    unfold State.oscLose
    rw [if_pos h]
    exact ⟨rfl, h⟩

/-- What the row PLL_LOCK does (R171). -/
theorem exec_pllLock :
    (∀ (s : State) (k : Nat) (oven : Bool), s.ck.phase = .pllWait → s.ck.oscGood = true → s.ck.tLock = false → s.ck.lLock = false →
      exec (.pllLock .timing k oven) s = .next { s with ck := { s.ck with tLock := true, tLockT := k % 2 ^ 16, ovenLevel := oven } } ∧
      exec (.pllLock .logic k oven) s = .next { s with ck := { s.ck with lLock := true, lLockT := k % 2 ^ 16, ovenLevel := oven } }) := by
  intro s k o h1 h2 h3 h4
  constructor <;> simp [exec, execPllLock, State.pllLocks, h1, h2, h3, h4, State.startTime]

/-- What the row PLL_LOCK does (R171). -/
theorem exec_pllLock_2 :
    (∀ (s : State) (k : Nat) (oven : Bool), s.ck.phase = .pllWait → s.ck.oscGood = true →
      (s.ck.tLock = true → s.ck.lLock = false → exec (.pllLock .logic k oven) s = .next { s with
        ck := { s.ck with
          lLock := true, lLockT := k % 2 ^ 16, phase := .running, ovenLevel := oven, ovenAll := oven, ovenCnt := 0 }
        clk := { course := 0, cyc := 0, ticks := 0 } }) ∧
      (s.ck.tLock = false → s.ck.lLock = true → exec (.pllLock .timing k oven) s = .next { s with
        ck := { s.ck with
          tLock := true, tLockT := k % 2 ^ 16, phase := .running, ovenLevel := oven, ovenAll := oven, ovenCnt := 0 }
        clk := { course := 0, cyc := 0, ticks := 0 } })) := by
  intro s k o h1 h2
  constructor <;> intro h3 h4 <;> simp [exec, execPllLock, State.pllLocks, h1, h2, h3, h4, State.startTime]

/-- What the row PLL_LOCK_TIMEOUT does (R171). -/
theorem exec_pllLockTimeout :
    (∀ s : State, s.ck.phase = .pllWait →
      (s.ck.tLock = false → s.ck.tTry = 0 → exec (.pllLockTimeout .timing) s = .next { s with ck := { s.ck with tFail := true, tTry := 1 } }) ∧
      (s.ck.lLock = false → s.ck.lTry = 0 → exec (.pllLockTimeout .logic) s = .next { s with ck := { s.ck with lFail := true, lTry := 1 } })) := by
  intro s h1
  constructor <;> intro h2 h3 <;> simp [exec, execPllLockTimeout, State.pllTimeout, h1, h2, h3]

/-- What the row PLL_LOCK_TIMEOUT does (R171). -/
theorem exec_pllLockTimeout_2 :
    (∀ s : State, s.ck.phase = .pllWait →
      (s.ck.tLock = false → s.ck.tTry = 1 →
        exec (.pllLockTimeout .timing) s = .next { s with ck := { s.ck with tFail := true, tTry := 2, phase := .stuck } }) ∧
      (s.ck.lLock = false → s.ck.lTry = 1 →
        exec (.pllLockTimeout .logic) s = .next { s with ck := { s.ck with lFail := true, lTry := 2, phase := .stuck } })) := by
  intro s h1
  constructor <;> intro h2 h3 <;> simp [exec, execPllLockTimeout, State.pllTimeout, h1, h2, h3]

theorem ck_parts {a b : ClockGen} (h : ({ a with gates := 0 } : ClockGen) = { b with gates := 0 }) :
    a.phase = b.phase ∧ a.oscGood = b.oscGood ∧ a.tLock = b.tLock ∧ a.lLock = b.lLock ∧ a.lclkFb = b.lclkFb := by
  simp only [ClockGen.mk.injEq] at h
  exact ⟨h.1, h.2.1, h.2.2.2.2.1, h.2.2.2.2.2.1, h.2.2.2.2.2.2.2.2.2.2.1⟩

theorem logicUnlock_parts (s : State) (h : s.ck.lLock = true) :
    s.logicUnlock.ck.lLock = false ∧ s.logicUnlock.ck.lclkFb = true ∧ s.logicUnlock.td = s.td ∧ s.logicUnlock.regs = s.regs ∧
    s.logicUnlock.ck.oscGood = s.ck.oscGood ∧ s.logicUnlock.ck.tLock = s.ck.tLock ∧ s.logicUnlock.clk = s.clk ∧
    (s.hf.active = false → s.hf.pend = false → s.logicUnlock.hf.pend = true ∧ s.logicUnlock.hf.cause = 3) := by
  unfold State.logicUnlock
  rw [if_pos h]
  dsimp +zetaHave only
  obtain ⟨ps, hq⟩ := fillAll_form s
  generalize s.fillAll = z at hq ⊢
  generalize hu : (({ z with ck := { z.ck with lLock := false, lclkFb := true } } : State).count CG_CNT_LPLL_UNLOCK).raise 2 = u
  have e1 : u.ck.lLock = false ∧ u.ck.lclkFb = true ∧ u.td = s.td ∧ u.regs = s.regs ∧ u.ck.oscGood = s.ck.oscGood ∧ u.ck.tLock = s.ck.tLock ∧ u.hf = s.hf ∧ u.clk = s.clk := by
    subst hu hq; exact ⟨rfl, rfl, rfl, rfl, rfl, rfl, rfl, rfl⟩
  obtain ⟨a1, a2, a3, a4, a5, a6, a7, a8⟩ := e1
  by_cases hh : u.hf.active = false ∧ u.hf.pend = false
  · have q := State.quiet_parts (State.underlayCause_first u 3 0 hh.1 hh.2)
    have k := ck_parts q.2.2.2.2.2.2.2.2.2.2.2.2.2.2.2.2.2.2
    refine ⟨k.2.2.2.1.trans a1, k.2.2.2.2.trans a2, q.2.1.trans a3, q.2.2.1.trans a4, k.2.1.trans a5, k.2.2.1.trans a6, q.2.2.2.2.2.2.2.2.2.2.2.2.2.2.2.1.trans a8, fun _ _ => ?_⟩
    rw [q.1]; exact ⟨rfl, rfl⟩
  · rw [State.underlayCause_more u 3 0 (by revert hh; cases u.hf.active <;> cases u.hf.pend <;> simp)]
    refine ⟨a1, a2, a3, a4, a5, a6, a8, fun h1 h2 => absurd ⟨a7 ▸ h1, a7 ▸ h2⟩ hh⟩

/-- What the row OSC_LOSS does (R165). -/
theorem exec_oscLoss :
    (∀ s : State, s.ck.phase = .oscCount → s.ck.oscGood = false →
      exec .oscLoss s = .next (({ s with ck := { s.ck with oscCnt := 0, monOk := true } } : State).count CG_CNT_OSC_RESTART)) := by
  intro s h1 h2
  simp [exec, execOscLoss, State.oscRuns, h1, State.oscCycle, oscAccepts, State.oscLose, h2]

theorem oscLoss_serving (s : State) (h1 : s.Serving) (h2 : s.ck.oscGood = true) : exec .oscLoss s = .next
    (let u := (({ s with ck := { s.ck with oscGood := false, oscCnt := 0 } } : State).count CG_CNT_OSC_LOSS).raise 2
     (if s.bit CG_CTL 1 then u else u.ovenFall).timingUnlock.logicUnlock) := by
  have hr : s.oscRuns = true := by simp [State.oscRuns, h1.1]
  have hc : s.oscCycle 7 = s.oscLose := if_pos (by decide)
  rw [exec, execOscLoss, if_pos hr, hc]
  unfold State.oscLose
  rw [if_neg (by simp [h2])]
  have ha : ({ s with ck := { s.ck with oscGood := false, oscCnt := 0 } } : State).asleep = false := by
    simp [State.asleep, h1.2]
  dsimp only
  rw [if_neg (by simp [ha])]
  have hp : (if ((({ s with ck := { s.ck with oscGood := false, oscCnt := 0 } } : State).count CG_CNT_OSC_LOSS).raise 2).bit CG_CTL 1 = true
      then (({ s with ck := { s.ck with oscGood := false, oscCnt := 0 } } : State).count CG_CNT_OSC_LOSS).raise 2
      else ((({ s with ck := { s.ck with oscGood := false, oscCnt := 0 } } : State).count CG_CNT_OSC_LOSS).raise 2).ovenFall).ck.phase = .running := by
    split <;> exact h1.1
  exact congrArg Host.Outcome.next (if_pos hp)

/-- What the row OSC_LOSS does (R165, R166). -/
theorem exec_oscLoss_2 :
    (∀ s : State, s.Serving → s.ck.oscGood = true → s.ck.tLock = false → s.ck.lLock = false →
      exec .oscLoss s =
        .next (let u := (({ s with ck := { s.ck with oscGood := false, oscCnt := 0 } } : State).count CG_CNT_OSC_LOSS).raise 2
          if s.bit CG_CTL 1 then u else (u.count CG_CNT_OVEN_FALL).raise 2)) := by
  intro s h1 h2 h3 h4
  rw [oscLoss_serving s h1 h2]
  dsimp +zetaHave only
  congr 1
  split
  · unfold State.timingUnlock
    rw [if_neg (by show ¬ s.ck.tLock = true; simp [h3])]
    unfold State.logicUnlock
    rw [if_neg (by show ¬ s.ck.lLock = true; simp [h4])]
  · unfold State.timingUnlock
    rw [if_neg (by show ¬ s.ck.tLock = true; simp [h3])]
    unfold State.logicUnlock
    rw [if_neg (by show ¬ s.ck.lLock = true; simp [h4])]
    rfl

/-- What the row OSC_LOSS does (R165). -/
theorem exec_oscLoss_3 :
    (∀ s : State, s.Serving → s.ck.oscGood = true → s.ck.lLock = true → ∃ t, exec .oscLoss s = .next t ∧
      t.ck.oscGood = false ∧ t.ck.tLock = false ∧ t.ck.lLock = false ∧ t.ck.lclkFb = true ∧ t.td = s.td ∧ t.regs = s.regs ∧ t.clk = s.clk ∧
      (s.hf.active = false → s.hf.pend = false → t.hf.pend = true ∧ t.hf.cause = 3)) := by
  intro s h1 h2 h3
  refine ⟨_, oscLoss_serving s h1 h2, ?_⟩
  dsimp +zetaHave only
  generalize hv : (if s.bit CG_CTL 1 then (({ s with ck := { s.ck with oscGood := false, oscCnt := 0 } } : State).count CG_CNT_OSC_LOSS).raise 2
    else ((({ s with ck := { s.ck with oscGood := false, oscCnt := 0 } } : State).count CG_CNT_OSC_LOSS).raise 2).ovenFall) = v
  have ev : v.ck = { s.ck with oscGood := false, oscCnt := 0 } ∧ v.td = s.td ∧ v.regs = s.regs ∧ v.hf = s.hf ∧ v.clk = s.clk := by
    subst hv; split <;> exact ⟨rfl, rfl, rfl, rfl, rfl⟩
  obtain ⟨v1, v2, v3, v4, v5⟩ := ev
  generalize hu : v.timingUnlock = u
  have e : u.ck.oscGood = false ∧ u.ck.tLock = false ∧ u.ck.lLock = true ∧ u.td = s.td ∧ u.regs = s.regs ∧ u.hf = s.hf ∧ u.clk = s.clk := by
    subst hu
    unfold State.timingUnlock
    split
    · exact ⟨by show v.ck.oscGood = _; rw [v1], rfl, by show v.ck.lLock = _; rw [v1]; exact h3, v2, v3, v4, v5⟩
    · rename_i hn
      exact ⟨by rw [v1], Bool.eq_false_iff.mpr hn, by rw [v1]; exact h3, v2, v3, v4, v5⟩
  have q := logicUnlock_parts u e.2.2.1
  exact ⟨q.2.2.2.2.1.trans e.1, q.2.2.2.2.2.1.trans e.2.1, q.1, q.2.1, q.2.2.1.trans e.2.2.2.1, q.2.2.2.1.trans e.2.2.2.2.1,
    q.2.2.2.2.2.2.1.trans e.2.2.2.2.2.2,
    fun h1 h2 => q.2.2.2.2.2.2.2 (e.2.2.2.2.2.1 ▸ h1) (e.2.2.2.2.2.1 ▸ h2)⟩

/-- What the row TIMING_PLL_UNLOCK does (R173). -/
theorem exec_timingPllUnlock :
    (∀ s : State, s.up = true → s.ck.tLock = true →
      exec .timingPllUnlock s =
        .next ((({ s with ck := { s.ck with tLock := false, relock := none } } : State).count CG_CNT_TPLL_UNLOCK).raise 2)) := by
  intro s h1 h2
  simp [exec, execTimingPllUnlock, State.main_up h1, State.timingUnlock, h2]

/-- What the row TIMING_PLL_RELOCK does (R173). -/
theorem exec_timingPllRelock :
    (∀ s : State, s.up = true → s.ck.oscGood = true → s.ck.tLock = false →
      exec .timingPllRelock s = .next { s.drawFree.1 with
        ck := { s.ck with tLock := true, tLockT := s.drawFree.2 % 2 ^ 16, relock := some (s.clk.ticks + 1) } }) := by
  intro s h1 h2 h3
  rw [exec, execTimingPllRelock, State.main_up h1, if_pos ⟨h2, h3⟩]
  rfl

/-- What the row LOGIC_PLL_UNLOCK does (R173). -/
theorem exec_logicPllUnlock :
    (∀ s : State, s.up = true → s.ck.lLock = true → ∃ t, exec .logicPllUnlock s = .next t ∧
      t = (((({ s.fillAll with ck := { s.fillAll.ck with lLock := false, lclkFb := true } } : State).count CG_CNT_LPLL_UNLOCK).raise 2).underlayCause 3 0) ∧
      t.ck.lLock = false ∧ t.ck.lclkFb = true ∧ t.td = s.td ∧ t.regs = s.regs ∧ t.clk = s.clk ∧
      (s.hf.active = false → s.hf.pend = false → t.hf.pend = true ∧ t.hf.cause = 3)) := by
  intro s h1 h2
  refine ⟨_, by unfold exec execLogicPllUnlock; rw [State.main_up h1], ?_⟩
  have q := logicUnlock_parts s h2
  exact ⟨if_pos h2, q.1, q.2.1, q.2.2.1, q.2.2.2.1, q.2.2.2.2.2.2.1, q.2.2.2.2.2.2.2⟩

/-- What the row LOGIC_PLL_RELOCK does (R173). -/
theorem exec_logicPllRelock :
    (∀ s : State, s.up = true → s.ck.oscGood = true → s.ck.lLock = false →
      exec .logicPllRelock s = .next { s.drawFree.1 with ck := { s.ck with lLock := true, lLockT := s.drawFree.2 % 2 ^ 16 } }) := by
  intro s h1 h2 h3
  rw [exec, execLogicPllRelock, State.main_up h1, if_pos ⟨h2, h3⟩]
  rfl

theorem exec_rows :
    (∀ (s : State) (t : Nat), (s.ck.tLock = false ∨ ∃ r, s.ck.relock = some r ∧ t < r + 16) → s.teCode t = 0xFFFF) := by
  intro s t h
  unfold State.teCode
  rcases h with h | ⟨r, h1, h2⟩
  · simp [h]
  · simp [h1, h2]

/-- What the row OVEN_FLAG_FALL does (R166). -/
theorem exec_ovenFlagFall :
    (∀ s : State, s.Serving → ∃ t, exec .ovenFlagFall s = .next t ∧ t.ck.ovenOk = false ∧ t.ck.ovenCnt = 0 ∧ t.td = s.td ∧
      t.regs = s.regs ∧ t.ports = s.ports ∧
      (s.bit CG_CTL 1 = true → s.ck.ovenOk = true →
        t.irq.getLsbD 2 = true ∧ t.cnt = (s.count CG_CNT_OVEN_FALL).cnt) ∧
      (s.bit CG_CTL 1 = false → t.irq = s.irq ∧ t.cnt = s.cnt)) := by
  intro s h
  refine ⟨_, rfl, ?_⟩
  rw [if_pos h.1]
  unfold State.ovenDrop
  dsimp +zetaHave only
  have ha : s.asleep = false := h.asleep
  unfold State.asleep at ha
  simp only [State.asleep, ha]
  by_cases h1 : s.bit CG_CTL 1 = true <;> by_cases h2 : s.ck.ovenOk = true <;> simp [h1, h2, State.ovenFall, State.raise, State.count]

/-- What the row OVEN_OK_RISE does (R166). -/
theorem exec_ovenOkRise :
    (∀ s : State, s.up = true → s.ovenDeb ≤ s.ck.ovenCnt →
      exec .ovenOkRise s = .next { s with ck := { s.ck with ovenOk := true } }) := by
  intro s h1 h2
  simp [exec, execOvenOkRise, State.main_up h1, State.ovenRise, h2]

/-- What the row OVEN_USE_WRITE does (R166). -/
theorem exec_ovenUseWrite :
    (∀ (s : State) (v : Nat), s.Serving → bitOf v 1 = true → v < 2 ^ 32 → s.bit CG_CTL 1 = false →
      ∃ t, exec (.ovenUseWrite v) s = .next t ∧ t.ck.ovenOk = decide (s.ovenDeb ≤ s.ck.ovenCnt)) := by
  intro s v h h1 h2 h3
  refine ⟨_, rfl, ?_⟩
  rw [show CG_CTL.off = 0x3000 from rfl, State.write_serving h _ _ _ rfl (fun t => t.regWrite_3000 _ _), State.touch_none _ (by decide) _ (by rfl),
    Nat.mod_eq_of_lt h2]
  show (State.cgCtlWrite s.busy v).ck.ovenOk = _
  have hd : (s.busy.wr CG_CTL v).ovenDeb = s.ovenDeb := by
    unfold State.ovenDeb State.fl; rw [State.rd_wr_other _ _ _ _ (by decide)]; rfl
  have hr : s.busy.bit CG_CTL 1 = false := h3
  unfold State.cgCtlWrite
  dsimp +zetaHave only
  rw [hd, h1, hr]
  simp only [Bool.not_false, Bool.and_self, if_true]
  split
  · rfl
  · rfl

/-- What the row GATE_CLOSE does (R177). -/
theorem exec_gateClose :
    (∀ (s : State) (k : Nat), s.up = true → k < 12 → s.bit CG_CTL 0 = true → s.bit CG_GATE_FORCE k = false → s.groupWork k = false →
      exec (.gateClose k) s = .next { s with ck := { s.ck with gates := s.ck.gates &&& ~~~(BitVec.ofNat 12 (2 ^ k)) } }) := by
  intro s k h1 h2 h3 h4 h5
  simp [exec, execGateClose, State.main_up h1, h2, State.closeGate, h3, h4, h5]

/-- What the row GATE_CLOSE does (R177). -/
theorem exec_gateClose_2 :
    (∀ (s : State) (k : Nat), s.up = true → (s.bit CG_CTL 0 = false ∨ s.bit CG_GATE_FORCE k = true ∨ s.groupWork k = true) →
      exec (.gateClose k) s = .next s) := by
  intro s k h1 h2
  rw [exec, execGateClose, State.main_up h1]
  unfold State.closeGate
  rw [if_pos h2]
  simp

/-- What the row CG_CLKOUT_WRITE does (R182). -/
theorem exec_cgClkoutWrite :
    (∀ (s : State) (v : Nat), s.Serving → v < 2 ^ 32 →
      (bitOf v 31 = true → exec (.cgClkoutWrite v) s = .next (((s.busy.wr CG_CLKOUT v).openGate 10).clkoutDrive
        (s.busy.wr CG_CLKOUT v).clkoutBad)) ∧
      (bitOf v 31 = false → s.bit CG_CLKOUT 31 = true →
        exec (.cgClkoutWrite v) s = .next ((s.busy.wr CG_CLKOUT v).clkoutDrive true)) ∧
      (bitOf v 31 = false → s.bit CG_CLKOUT 31 = false → exec (.cgClkoutWrite v) s = .next (s.busy.wr CG_CLKOUT v))) := by
  intro s v h h2
  rw [exec, execCgClkoutWrite]
  rw [show CG_CLKOUT.off = 0x3030 from rfl, State.write_serving h _ _ _ rfl (fun t => t.regWrite_3030 _ _),
    State.touch_none _ (by decide) _ (by rfl), Nat.mod_eq_of_lt h2]
  rw [show s.busy.putReg Master.host 0x3030 v = State.clkoutWrite s.busy v from rfl]
  have hb : (s.busy.wr CG_CLKOUT v).bit CG_CLKOUT 31 = bitOf v 31 := by
    unfold State.bit; rw [State.rd_wr s.busy CG_CLKOUT v (by decide)]
    unfold bitOf
    simp [CG_CLKOUT]
    intro _; decide
  have hw : s.busy.bit CG_CLKOUT 31 = s.bit CG_CLKOUT 31 := rfl
  unfold State.clkoutWrite
  dsimp +zetaHave only
  rw [hb, hw]
  refine ⟨?_, ?_, ?_⟩
  · intro h; simp [h]
  · intro h h'; simp [h, h']
  · intro h h'; simp [h, h']

end Sys2Proof.Machine
end

