-- ==== Sys2Proof/Laws/RowsCmds.lean ====
section
/-! SUPPORT. Sys2Proof/Laws/RowsCmds.lean: the rows of the command table. -/

set_option linter.all false
set_option Elab.async false

namespace Sys2Proof.Machine
open Sys2Proof Sys2Proof.Config

theorem State.Takes.accept {s u : State} {r : RunCmd} (h : s.Takes u r) (wanted : Nat → Bool) (f : State → RunCmd → Nat → State) :
    s.acceptIf wanted f = if wanted r.op then f u r (s.cmdSlot r.slot).header else s := by
  unfold State.acceptIf
  rw [h.short, if_neg (by decide), h.next]
  dsimp +zetaHave only
  have ho : r.op = hdrOp (s.cmdSlot r.slot).header := by
    have := congrArg RunCmd.op h.cmd; exact this
  rw [← h.state, ← ho]
  have hr : ({ slot := r.slot, op := r.op, p := (List.range (min 23 (hdrLen (s.cmdSlot r.slot).header))).map fun i => (s.cmdSlot r.slot).params.get 0 (i + 1) } : RunCmd) = r := by
    rw [ho]; exact h.cmd.symm
  rw [hr]
  cases wanted r.op <;> rfl

theorem State.Accepts.accept {s u : State} {r : RunCmd} {op : Nat} {c : Cmd} (h : s.Accepts u r op c) :
    s.acceptOp op c = (c.start u r).settle r := by
  unfold State.acceptOp
  rw [h.takes.accept, h.op]
  simp [h.served]

theorem acceptRefused {s u : State} {r : RunCmd} {op : Nat} {c : Cmd} {st : Nat} (h : s.Takes u r) (ho : r.op = op)
    (hr : u.cmdRefused c r (s.cmdSlot r.slot).header = some st) :
    s.acceptOp op c = (if st = stNotOwner then u.count CP_CNT_OWNER else u).complete r { status := st } := by
  unfold State.acceptOp
  rw [h.accept, ho]
  simp [hr]

theorem acceptOther {s u : State} {r : RunCmd} {op : Nat} {c : Cmd} (h : s.Takes u r) (ho : r.op ≠ op) : s.acceptOp op c = s := by
  unfold State.acceptOp
  rw [h.accept]
  simp [ho]

theorem settle_ite (p : Prop) [Decidable p] (a b : CmdOut) (r : RunCmd) :
    (if p then a else b).settle r = if p then a.settle r else b.settle r := by split <;> rfl

theorem settle_bif (p : Bool) (a b : CmdOut) (r : RunCmd) :
    (match p with | true => a | false => b).settle r = match p with | true => a.settle r | false => b.settle r := by cases p <;> rfl

theorem setCmd_ne (s : State) (k : Nat) (c : CmdSlot) (h : c ≠ {}) : (s.setCmdSlot k c).cmdSlot k = c := by
  unfold State.setCmdSlot State.cmdSlot
  exact Map.get_set_ne _ _ _ _ h

theorem latchNow_cpStat (u : State) : (u.latchNow .cp).cpStat = u.cpStat := by unfold State.latchNow State.cpStat State.longRuns; rfl

theorem latchNow_ulStat (u : State)  : (u.latchNow .cp).ulStat = u.ulStat := by unfold State.latchNow State.ulStat; rfl

theorem latchNow_clk (u : State)  : (u.latchNow .cp).clk = u.clk := by unfold State.latchNow; rfl

theorem now_te (td : TimeState) (x : PerMaster NowLatch) : ({ td with now := x } : TimeState).te = td.te := rfl

theorem latchNow_te (u : State)  : (u.latchNow .cp).td.te = u.td.te := now_te u.td _

theorem latchNow_stat (u : State)  : ((u.latchNow .cp).td.now.get .cp).stat = u.nowStat := by
  unfold State.latchNow; simp only [PerMaster.put, PerMaster.get]

theorem latchNow_pwStat (u : State)  : (u.latchNow .cp).pwStat = u.pwStat := by unfold State.latchNow State.pwStat; rfl

/-- What the row BAD_OPCODE does (R372). -/
theorem exec_badOpcode :
    (∀ (s u : State) (r : RunCmd), s.Takes u r → cmdOf r.op = none →
      exec .badOpcode s = .next (u.complete r { status := stBadOpcode })) := by
  intro s u r h ho
  rw [exec, execBadOpcode, State.main_up h.up, h.accept]
  simp [ho]

/-- What the row GEN_IDENTIFY does (R372). -/
theorem exec_genIdentify :
    (∀ (s u : State) (r : RunCmd), s.Accepts u r 0x00 cmdGenIdentify → exec .genIdentify s = .next (u.complete r { d :=
      [(if u.isEave then 0 else 1) + u.ties.gangPos % 8 * 4 + u.ties.gangSize % 8 * 32 + revision % 65536 * 65536, u.ownId % 2 ^ 24,
       u.nPorts + bitAt u.root 16, if u.isEave then u.rd BT_TAP_EN else 0,
       u.ties.romVer % 2 ^ 32 * 2 ^ 32 + u.cp.fwVer % 2 ^ 32, u.cp.iana] })) := by
  intro s u r h
  rw [exec, execGenIdentify, State.main_up h.takes.up, h.accept]
  unfold cmdGenIdentify CmdOut.ok
  dsimp +zetaHave only [CmdOut.settle]

/-- What the row GEN_STATUS does (R372). -/
theorem exec_genStatus :
    (∀ (s u : State) (r : RunCmd), s.Accepts u r 0x01 cmdGenStatus → ∃ d, exec .genStatus s = .next ((u.latchNow .cp).complete r { d := d }) ∧
      d.length = 6 ∧ d[0]? = some u.cpStat ∧ d[1]? = some u.ulStat ∧ d[2]? = some (u.nowStat + u.pwStat * 2 ^ 32) ∧
      d[3]? = some (u.clk.course % 2 ^ 64) ∧ d[4]? = some (sat32 u.td.te)) := by
  intro s u r h
  rw [exec, execGenStatus, State.main_up h.takes.up, h.accept]
  have hd : ∃ a b c d e f, cmdGenStatus.start u r = CmdOut.ok (u.latchNow .cp) [a, b, c, d, e, f] ∧
      a = (u.latchNow .cp).cpStat ∧ b = (u.latchNow .cp).ulStat ∧
      c = ((u.latchNow .cp).td.now.get .cp).stat + (u.latchNow .cp).pwStat * 2 ^ 32 ∧ d = (u.latchNow .cp).clk.course % 2 ^ 64 ∧
      e = sat32 (u.latchNow .cp).td.te := by
    unfold cmdGenStatus; exact ⟨_, _, _, _, _, _, rfl, rfl, rfl, rfl, rfl, rfl⟩
  obtain ⟨a, b, c, d, e, f, hd, ha, hb, hc, hdd, he⟩ := hd
  rw [hd]
  have e0 := latchNow_cpStat u
  have e1 := latchNow_ulStat u
  have e2 := latchNow_pwStat u
  have e3 := latchNow_clk u
  have e4 := latchNow_te u
  have e5 := latchNow_stat u
  rw [e0] at ha
  rw [e1] at hb
  rw [e5, e2] at hc
  rw [e3] at hdd
  rw [e4] at he
  refine ⟨[a, b, c, d, e, f], rfl, rfl, ?_, ?_, ?_, ?_, ?_⟩
  · rw [← ha]; rfl
  · rw [← hb]; rfl
  · rw [← hc]; rfl
  · rw [← hdd]; rfl
  · rw [← he]; rfl

/-- What the row GEN_RESET does (R372). -/
theorem exec_genReset :
    (∀ (s u : State) (r : RunCmd), s.Accepts u r 0x03 cmdGenReset → prm r.p 1 ≠ 0 →
      exec .genReset s = .next (
        if bitOf (prm r.p 1) 0 ∧ (u.sq.st = .running ∨ u.sq.st = .held) then u.complete r { status := stInvalidState }
        else if bitOf (prm r.p 1) 1 ∧ (u.od.waiters ≠ [] ∨ u.od.lends ≠ []) then u.complete r { status := stBusy }
        else if bitOf (prm r.p 1) 2 ∧ u.collBusy then u.complete r { status := stBusy }
        else ({ u with cp := { u.cp with resetReq := prm r.p 1 } } : State).putRun r)) := by
  intro s u r h hm
  rw [exec, execGenReset, State.main_up h.takes.up, h.accept]
  unfold cmdGenReset
  dsimp +zetaHave only
  simp only [settle_ite, hm, if_false]
  rfl

/-- What the row FW_LOAD does (R375). -/
theorem exec_fwLoad :
    (∀ (s u : State) (r : RunCmd), s.Accepts u r 0x04 cmdFwLoad → prm r.p 1 = 1 → prm r.p 3 % 8 = 0 → 8 ≤ prm r.p 3 → prm r.p 3 ≤ 160 →
      prm r.p 2 + prm r.p 3 ≤ 262144 →
      exec .fwLoad s = .next (if u.fwServes then u.complete r { status := stInvalidState }
        else (u.loadFw (prm r.p 2) (((r.p.drop 3).take (prm r.p 3 / 8)).flatMap (leBytes 8))).complete r {})) := by
  intro s u r h h1 h2 h3 h4 h5
  rw [exec, execFwLoad, State.main_up h.takes.up, h.accept]
  unfold cmdFwLoad
  dsimp +zetaHave only
  rw [h1, if_neg (by decide), if_neg (by omega), settle_ite]
  rfl

/-- What the row FW_START does (R375). -/
theorem exec_fwStart :
    (∀ (s u : State) (r : RunCmd), s.Accepts u r 0x05 cmdFwStart → exec .fwStart s = .next (
      if u.fwServes then u.complete r { status := stInvalidState }
      else if u.fwImageOk = false then u.complete r { status := stImageBad }
      else ({ u with
        cp := { u.cp with fw := .running, fwVer := u.cp.mem.get 0 0 / 2 ^ 32 }
        hf := { u.hf with kicked := false, wdog := some 0 } } : State).complete r { d := [u.cp.mem.get 0 0 / 2 ^ 32] })) := by
  intro s u r h
  rw [exec, execFwStart, State.main_up h.takes.up, h.accept]
  unfold cmdFwStart
  dsimp +zetaHave only
  simp only [settle_ite]
  rfl

/-- What the row TOPOLOGY_LOAD does (R373). -/
theorem exec_topologyLoad :
    (∀ (s u : State) (r : RunCmd), s.Accepts u r 0x02 cmdTopologyLoad → exec .topologyLoad s = .next (
      if prm r.p 1 % 8 ≠ 0 ∨ prm r.p 2 < 64 ∨ 307264 < prm r.p 2 then u.complete r { status := stInvalidParam }
      else if u.collBusy then u.complete r { status := stBusy }
      else (u.readFrom r (prm r.p 1) (prm r.p 2)).settle r)) := by
  intro s u r h
  rw [exec, execTopologyLoad, State.main_up h.takes.up, h.accept]
  unfold cmdTopologyLoad
  dsimp +zetaHave only
  simp only [settle_ite]
  rfl

theorem pump_one (s : State) (r : RunCmd) (rep : Reply) (h : s.cp.run = [r]) (hr : r.reply = some rep) : s.pumpCmds = s.complete r rep := by
  unfold State.pumpCmds
  rw [h]
  simp only [List.map_cons, List.map_nil, List.foldl_cons, List.foldl_nil]
  have : s.cp.run.find? (fun x => decide (x.slot = r.slot)) = some r := by rw [h]; simp
  rw [this]
  dsimp only
  rw [hr]

/-- What the row COMMAND_COMPLETION does (R363). -/
theorem exec_commandCompletion :
    (∀ (s : State) (r : RunCmd) (rep : Reply), s.up = true → s.cp.run = [r] → r.reply = some rep → r.ring = false → r.slot < 16 →
      bitOf (hdrFlags (s.cmdSlot r.slot).header) 1 = true → s.ringOn = true → s.ringFull = true →
      exec .commandCompletion s = .next (if r.waited then s else
        ({ s with cp := { s.cp with run := [{ r with waited := true }] } } : State).count CP_CNT_RING_WAIT)) := by
  intro s r rep h hrun hrep hring hsl hf hon hfull
  have hsb : sbSlot r.slot = false := by unfold sbSlot; simp; omega
  rw [exec, execCommandCompletion, State.main_up h, pump_one s r rep hrun hrep]
  unfold State.complete
  dsimp +zetaHave only
  rw [hring, if_neg (by decide), if_neg (by simp [hsb, hf, hon]), hfull, if_pos rfl]
  obtain ⟨slot, op, p, long, bytes, addr, left, reads, failed, reply, words, ring, acked, waited⟩ := r
  simp only at *
  subst hrep hring
  cases waited with
  | true =>
    simp only [if_true]
    unfold State.putRun
    rw [hrun]
    simp only [List.any_cons, decide_true, List.any_nil, Bool.or_false, if_true, List.map_cons, List.map_nil]
    rw [← hrun]
  | false =>
    simp only [Bool.false_eq_true, if_false]
    unfold State.putRun State.count
    simp [hrun]

/-- What the row COMMAND_COMPLETION does (R363). -/
theorem exec_commandCompletion_2 :
    (∀ (s : State) (r : RunCmd) (rep : Reply), s.up = true → s.cp.run = [r] → r.reply = some rep → r.ring = false → r.slot < 16 →
      s.ringOn = false →
      exec .commandCompletion s = .next (s.finalize r rep (s.replyWords r.slot (s.cmdSlot r.slot).header false rep))) := by
  intro s r rep h hrun hrep hring hsl hon
  rw [exec, execCommandCompletion, State.main_up h, pump_one s r rep hrun hrep]
  unfold State.complete
  dsimp +zetaHave only
  rw [hring, if_neg (by decide), if_pos (by simp [hon])]

/-- What the row IRQ_COALESCE_TIMEOUT does (R366). -/
theorem exec_irqCoalesceTimeout :
    (∀ s : State, s.up = true → exec .irqCoalesceTimeout s = .next
      (if s.fl CP_IRQ_CFG 0 16 ≠ 0 ∧ s.cp.irqCnt ≠ 0 ∧ s.cp.irqTick + s.fl CP_IRQ_CFG 0 16 ≤ s.clk.ticks then s.raise 0 else s)) := by
  intro s h
  rw [exec, execIrqCoalesceTimeout, State.main_up h]
  unfold State.irqTimeout State.raiseIf
  dsimp +zetaHave only
  have : (s.fl CP_IRQ_CFG 0 16 ≠ 0 ∧ s.cp.irqCnt ≠ 0 ∧ s.cp.irqTick + s.fl CP_IRQ_CFG 0 16 < s.clk.ticks + 1) =
      (s.fl CP_IRQ_CFG 0 16 ≠ 0 ∧ s.cp.irqCnt ≠ 0 ∧ s.cp.irqTick + s.fl CP_IRQ_CFG 0 16 ≤ s.clk.ticks) :=
    propext ⟨fun ⟨a, b, c⟩ => ⟨a, b, by omega⟩, fun ⟨a, b, c⟩ => ⟨a, b, by omega⟩⟩
  simp only [this, decide_eq_true_eq]

/-- What the row TIME_ACQUIRE does (R115). -/
theorem exec_timeAcquire :
    (∀ (s u : State) (r : RunCmd), s.Accepts u r 0x10 cmdTimeAcquire → ∀ d, d = Dom.ofBit (prm r.p 1 = 1) →
      exec .timeAcquire s = .next (
        if u.isRidge ∧ d ≠ u.home then u.complete r { status := stInvalidParam }
        else if u.td.acq ∨ (u.servo d).st ≠ .ready then u.complete r { status := stInvalidState }
        else ({ u with td := { u.td with acqDom := some d } } : State).complete r {})) := by
  intro s u r h d hd
  rw [exec, execTimeAcquire, State.main_up h.takes.up, h.accept]
  unfold cmdTimeAcquire; dsimp +zetaHave only; subst hd
  simp only [settle_ite]; rfl

/-- What the row TIME_RESTEP does (R116). -/
theorem exec_timeRestep :
    (∀ (s u : State) (r : RunCmd), s.Accepts u r 0x11 cmdTimeRestep → exec .timeRestep s = .next (
        if u.td.acq = false ∨ (u.servo u.td.sel).st ≠ .track ∨ (u.tapList.any fun n => !(u.tap n).armed.isEmpty) ∨ u.pulseDue then
          u.complete r { status := stInvalidState }
        else ({ u with td := { u.td with restep := true } } : State).complete r {})) := by
  intro s u r h
  rw [exec, execTimeRestep, State.main_up h.takes.up, h.accept]
  unfold cmdTimeRestep; dsimp +zetaHave only
  simp only [settle_ite]; rfl

/-- What the row TIME_SLEW_LIMIT does (R118). -/
theorem exec_timeSlewLimit :
    (∀ (s u : State) (r : RunCmd), s.Accepts u r 0x12 cmdTimeSlewLimit → exec .timeSlewLimit s = .next (
        if prm r.p 1 < 1 ∨ 2000 < prm r.p 1 then u.complete r { status := stInvalidParam }
        else (u.wr TD_SLEW (prm r.p 1)).resteer.complete r {})) := by
  intro s u r h
  rw [exec, execTimeSlewLimit, State.main_up h.takes.up, h.accept]
  unfold cmdTimeSlewLimit; dsimp +zetaHave only
  simp only [settle_ite]; rfl

/-- What the row TIME_DOMAIN_SELECT does (R121). -/
theorem exec_timeDomainSelect :
    (∀ (s u : State) (r : RunCmd), s.Accepts u r 0x13 cmdTimeDomainSelect → ∀ d, d = Dom.ofBit (prm r.p 1 = 1) →
      exec .timeDomainSelect s = .next (
        if d = u.td.sel then u.complete r {}
        else if u.tracked d = false then u.complete r { status := stInvalidState }
        else ({ u with td := { u.td with selReq := some d, selOk := none } } : State).putRun r)) := by
  intro s u r h d hd
  rw [exec, execTimeDomainSelect, State.main_up h.takes.up, h.accept]
  unfold cmdTimeDomainSelect; dsimp +zetaHave only; subst hd
  simp only [settle_ite]; rfl

/-- What the row TIME_SWITCH_AT does (R122). -/
theorem exec_timeSwitchAt :
    (∀ (s u : State) (r : RunCmd), s.Accepts u r 0x14 cmdTimeSwitchAt → u.isEave = true → bitOf (prm r.p 1) 8 = false →
      exec .timeSwitchAt s = .next (
        if prm r.p 2 < u.clk.course + 8192 ∨ u.clk.course + 2 ^ 30 < prm r.p 2 then u.complete r { status := stInvalidParam }
        else ({ u with td := { u.td with
          plan := some ⟨0, Dom.ofBit (bitOf (prm r.p 1) 0), prm r.p 2⟩, planCourse := prm r.p 2, planId := 0
          planTarget := Dom.ofBit (bitOf (prm r.p 1) 0), outcome := 0 } } : State).complete r { d := [0] })) := by
  intro s u r h he hb
  rw [exec, execTimeSwitchAt, State.main_up h.takes.up, h.accept]
  unfold cmdTimeSwitchAt; dsimp +zetaHave only
  rw [hb, if_neg (by decide)]
  simp only [settle_ite, he, if_true]; rfl

/-- What the row TIME_SWITCH_AT does (R122). -/
theorem exec_timeSwitchAt_2 :
    (∀ (s u v : State) (r : RunCmd), s.Accepts u r 0x14 cmdTimeSwitchAt → u.isEave = true → bitOf (prm r.p 1) 8 = true →
      v = { u with td := { u.td with plan := none, outcome := 3 } } →
      exec .timeSwitchAt s =
        .next (if u.td.plan = none then u.complete r { status := stInvalidState } else v.complete r { d := [0] })) := by
  intro s u v r h he hb hv
  rw [exec, execTimeSwitchAt, State.main_up h.takes.up, h.accept]
  unfold cmdTimeSwitchAt; dsimp +zetaHave only
  have hc : u.cancelPlan = v := hv.symm
  rw [hb, if_pos rfl, he, hc]
  by_cases hp : u.td.plan = none
  · rw [hp, if_pos rfl]; rfl
  · rw [if_neg hp]
    obtain ⟨pl, hp⟩ := Option.ne_none_iff_exists'.1 hp
    rw [hp]; rfl

/-- What the row TIME_HOLDOVER_FORCE does (R155). -/
theorem exec_timeHoldoverForce :
    (∀ (s u : State) (r : RunCmd), s.Accepts u r 0x15 cmdTimeHoldoverForce → ∀ v, v = u.servo (Dom.ofBit (bitOf (prm r.p 1) 0)) →
      exec .timeHoldoverForce s = .next (
        if bitOf (prm r.p 1) 8 = true then
          if v.st ≠ .track then u.complete r { status := stInvalidState }
          else (u.setServo (Dom.ofBit (bitOf (prm r.p 1) 0)) { v with forced := true }).complete r {}
        else if v.forced = false then u.complete r { status := stInvalidState }
        else (u.setServo (Dom.ofBit (bitOf (prm r.p 1) 0)) { v with forced := false }).complete r {})) := by
  intro s u r h v hv
  rw [exec, execTimeHoldoverForce, State.main_up h.takes.up, h.accept]
  unfold cmdTimeHoldoverForce; dsimp +zetaHave only; subst hv
  simp only [settle_ite]; rfl

/-- What the row TIME_EPOCH_SET does (R140). -/
theorem exec_timeEpochSet :
    (∀ (s u : State) (r : RunCmd), s.Accepts u r 0x16 cmdTimeEpochSet →
      exec .timeEpochSet s = .next (({ u with rs := { u.rs with epoch := some (prm r.p 1) } } : State).complete r {})) := by
  intro s u r h
  rw [exec, execTimeEpochSet, State.main_up h.takes.up, h.accept]; rfl

theorem digits16_get (f : Nat → Nat) (hf : ∀ i, f i < 16) (n g : Nat) (hg : g < n) :
    (List.range n).foldl (fun acc i => acc + f i * 16 ^ i) 0 / 16 ^ g % 16 = f g ∧
    (List.range n).foldl (fun acc i => acc + f i * 16 ^ i) 0 < 16 ^ n := by
  induction n with
  | zero => omega
  | succ n ih =>
    rw [List.range_succ, List.foldl_append]
    simp only [List.foldl_cons, List.foldl_nil]
    have hl : (List.range n).foldl (fun acc i => acc + f i * 16 ^ i) 0 < 16 ^ n := by
      clear ih hg g
      induction n with
      | zero => simp
      | succ n ih =>
        rw [List.range_succ, List.foldl_append]
        simp only [List.foldl_cons, List.foldl_nil]
        have h1 := hf n
        have h2 : f n * 16 ^ n ≤ 15 * 16 ^ n := Nat.mul_le_mul_right _ (by omega)
        rw [Nat.pow_succ]; omega
    constructor
    · by_cases h : g = n
      · subst h
        rw [Nat.add_mul_div_right _ _ (Nat.pow_pos (by decide)), Nat.div_eq_of_lt hl, Nat.zero_add, Nat.mod_eq_of_lt (hf g)]
      · have hg' : g < n := by omega
        have e : f n * 16 ^ n = (f n * 16 ^ (n - g - 1) * 16) * 16 ^ g := by
          have : 16 ^ n = 16 ^ (n - g - 1) * 16 * 16 ^ g := by
            rw [← Nat.pow_succ, ← Nat.pow_add]; congr 1; omega
          rw [this]; simp [Nat.mul_assoc]
        rw [e, Nat.add_mul_div_right _ _ (Nat.pow_pos (by decide)), Nat.add_mul_mod_self_right]
        exact (ih hg').1
    · have h1 := hf n
      have h2 : f n * 16 ^ n ≤ 15 * 16 ^ n := Nat.mul_le_mul_right _ (by omega)
      rw [Nat.pow_succ]; omega

/-- What the row REF_CONFIGURE does (R139). -/
theorem exec_refConfigure :
    (∀ (s u : State) (r : RunCmd), s.Accepts u r 0x20 cmdRefConfigure → exec .refConfigure s = .next (
        if 10 < prm r.p 1 then u.complete r { status := stInvalidParam }
        else (((u.wr (RS_CANDn_CFG (prm r.p 1)) (prm r.p 2 + u.candPrio (prm r.p 1))).wr (RS_CANDn_DELAY (prm r.p 1))
          (prm r.p 3)).candReconfigure (prm r.p 1)).complete r {})) := by
  intro s u r h
  rw [exec, execRefConfigure, State.main_up h.takes.up, h.accept]
  unfold cmdRefConfigure; dsimp +zetaHave only
  simp only [settle_ite]; rfl

/-- What the row REF_PRIORITY does (R139). -/
theorem exec_refPriority :
    (∀ (s u : State) (r : RunCmd), s.Accepts u r 0x21 cmdRefPriority → u.cp.prioReq = none → ∃ v, exec .refPriority s =
        .next (({ u with cp := { u.cp with prioReq := some (prm r.p 1 ||| 0, v) } } : State).complete r {}) ∧
        ∀ i < 11, field v (4 * i) 4 = if bitOf (prm r.p 1) i then field (prm r.p 2) (4 * i) 4 else 0) := by
  intro s u r h hn
  rw [exec, execRefPriority, State.main_up h.takes.up, h.accept]
  unfold cmdRefPriority; dsimp +zetaHave only
  rw [hn]
  refine ⟨_, rfl, ?_⟩
  intro i hi
  have hf : ∀ j, field (if bitOf (prm r.p 1) j = true then prm r.p 2 else 0) (4 * j) 4 < 16 := by intro j; unfold field; omega
  have := (digits16_get (fun j => field (if bitOf (prm r.p 1) j = true then prm r.p 2 else 0) (4 * j) 4) hf 11 i hi).1
  simp only [Option.getD_none]
  unfold field at *
  rw [Nat.shiftRight_eq_div_pow, show 2 ^ (4 * i) = 16 ^ i by rw [Nat.pow_mul], show (2 : Nat) ^ 4 = 16 from rfl] at *
  refine this.trans ?_
  split
  · rw [Nat.shiftRight_eq_div_pow, show 2 ^ (4 * i) = 16 ^ i by rw [Nat.pow_mul]]
  · simp

/-- What the row REF_LOOP_OPEN does (R144). -/
theorem exec_refLoopOpen :
    (∀ (s u : State) (r : RunCmd), s.Accepts u r 0x22 cmdRefLoopOpen → ∀ d, d = Dom.ofBit (prm r.p 1 = 1) →
      exec .refLoopOpen s = .next (
        if (u.servo d).st ≠ .track ∨ (u.servo d).openLoop = true then u.complete r { status := stInvalidState }
        else (u.setServo d { u.servo d with openReq := true }).complete r {})) := by
  intro s u r h d hd
  rw [exec, execRefLoopOpen, State.main_up h.takes.up, h.accept]
  unfold cmdRefLoopOpen; dsimp +zetaHave only; subst hd
  simp only [settle_ite]; rfl

/-- What the row REF_LOOP_CLOSE does (R146). -/
theorem exec_refLoopClose :
    (∀ (s u : State) (r : RunCmd), s.Accepts u r 0x23 cmdRefLoopClose → ∀ d, d = Dom.ofBit (prm r.p 1 = 1) →
      exec .refLoopClose s = .next (
        if (u.servo d).openLoop = false then u.complete r { status := stInvalidState }
        else (u.setServo d { u.servo d with closeReq := true }).complete r {})) := by
  intro s u r h d hd
  rw [exec, execRefLoopClose, State.main_up h.takes.up, h.accept]
  unfold cmdRefLoopClose; dsimp +zetaHave only; subst hd
  simp only [settle_ite]; rfl

/-- What the row REF_CORRECT does (R145). -/
theorem exec_refCorrect :
    (∀ (s u : State) (r : RunCmd), s.Accepts u r 0x24 cmdRefCorrect → ∀ d, d = Dom.ofBit (bitOf (prm r.p 1) 0) →
      exec .refCorrect s = .next (
        if (u.servo d).openLoop = false ∨ (u.servo d).forced = true then u.complete r { status := stInvalidState }
        else if bitOf (prm r.p 1) 8 = true then
          ((if (u.servo d).corrR.isSome = true then u.count RS_CNT_CORR else u).setServo d
            { u.servo d with corrR := some (toSigned 64 (prm r.p 2)) }).complete r {}
        else ((if (u.servo d).corrP.isSome = true then u.count RS_CNT_CORR else u).setServo d
            { u.servo d with corrP := some (toSigned 64 (prm r.p 2)) }).complete r {})) := by
  intro s u r h d hd
  rw [exec, execRefCorrect, State.main_up h.takes.up, h.accept]
  unfold cmdRefCorrect; dsimp +zetaHave only; subst hd
  simp only [settle_ite]; rfl

theorem intervalAbort_start (u : State) (r : RunCmd) : cmdIntervalAbort.start u r =
    .done u.imAbort { status := if u.imBusy then stDone else stInvalidState, d := [u.imAbort.imStat] } := rfl

/-- What the row INTERVAL_ARM does (R227). -/
theorem exec_intervalArm :
    (∀ (s u : State) (r : RunCmd), s.Accepts u r 0x30 cmdIntervalArm → exec .intervalArm s = .next (u.imArm.complete r
        { status := if u.armOk then stDone else stInvalidState, d := [u.imArm.imStat] })) := by
  intro s u r h
  rw [exec, execIntervalArm, State.main_up h.takes.up, h.accept]; rfl

/-- What the row INTERVAL_ABORT does (R223). -/
theorem exec_intervalAbort :
    (∀ (s u v : State) (r : RunCmd), s.Accepts u r 0x31 cmdIntervalAbort →
      v = { u with im := { u.im with shot := none, st := .aborted, reason := 1, claimDone := u.im.claim.isSome } } →
      exec .intervalAbort s = .next (
        if u.imBusy then v.complete r { d := [v.imStat] } else u.complete r { status := stInvalidState, d := [u.imStat] })) := by
  intro s u v r h hv
  rw [exec, execIntervalAbort, State.main_up h.takes.up, h.accept]
  rw [intervalAbort_start]
  cases hb : u.imBusy with
  | true =>
    have hb' : u.im.st = .armed ∨ u.im.st = .running := by unfold State.imBusy at hb; simpa using hb
    have hc : u.imAbort = v := by
      unfold State.imAbort State.abortShots; rw [if_pos hb', hv]
    rw [hc, if_pos rfl, if_pos rfl]; rfl
  | false =>
    have hb' : ¬ (u.im.st = .armed ∨ u.im.st = .running) := by unfold State.imBusy at hb; simpa using hb
    have hc : u.imAbort = u := by
      unfold State.imAbort State.abortShots; rw [if_neg hb']
    rw [hc, if_neg (by decide), if_neg (by decide)]; rfl

/-- What the row PULSE_ARM does (R248). -/
theorem exec_pulseArm :
    (∀ (s u : State) (r : RunCmd) (t : Int), s.Accepts u r 0x90 cmdPulseArm → timeParam r.p 2 = some t →
      u.pulseEn (prm r.p 1 % 8) = true → u.pulsePer (prm r.p 1 % 8) = false → u.td.acq = true → u.clk.course + 2 ≤ courseOf t →
      (u.pulse (prm r.p 1 % 8)).pending.length < 4 →
      exec .pulseArm s = .next ((u.addPulse (prm r.p 1 % 8)
        { target := t, width := field (prm r.p 1) 8 8, src := .host } u.clk.course).complete r {})) := by
  intro s u r t h ht h1 h2 h3 h4 h5
  rw [exec, execPulseArm, State.main_up h.takes.up, h.accept]
  unfold cmdPulseArm; dsimp +zetaHave only
  rw [ht]
  dsimp only
  rw [if_neg (by simp [h1, h2, h3]), if_neg (by omega), if_neg (by omega)]
  rfl

/-- What the row PULSE_CANCEL does (R372). -/
theorem exec_pulseCancel :
    (∀ (s u : State) (r : RunCmd) (t : Int), s.Accepts u r 0x91 cmdPulseCancel → timeParam r.p 2 = some t →
      exec .pulseCancel s = .next (match (u.pulse (prm r.p 1)).pending.find? fun q => q.target = t with
        | none => u.complete r { status := stInvalidParam }
        | some q => (u.modPulse (prm r.p 1) fun v => { v with pending := v.pending.erase q }).complete r {})) := by
  intro s u r t h ht
  rw [exec, execPulseCancel, State.main_up h.takes.up, h.accept]
  unfold cmdPulseCancel; dsimp +zetaHave only
  rw [ht]
  dsimp only
  cases (u.pulse (prm r.p 1)).pending.find? fun q => decide (q.target = t) <;> rfl

/-- What the row CLOCK_CLKOUT does (R182). -/
theorem exec_clockClkout :
    (∀ (s u : State) (r : RunCmd), s.Accepts u r 0xA0 cmdClockClkout →
      exec .clockClkout s = .next ((u.clkoutWrite (prm r.p 1)).complete r { d := [(u.clkoutWrite (prm r.p 1)).cgStat] })) := by
  intro s u r h
  rw [exec, execClockClkout, State.main_up h.takes.up, h.accept]; rfl

/-- What the row POWER_ENTER does (R372). -/
theorem exec_powerEnter :
    (∀ (s u v : State) (r : RunCmd), s.Accepts u r 0x80 cmdPowerEnter →
      v = { u with pw := { u.pw with req := prm r.p 1, reqIdle := false } } → exec .powerEnter s = .next (
        if prm r.p 1 < 1 ∨ 2 < prm r.p 1 then u.complete r { status := stInvalidParam }
        else if prm r.p 1 = 2 ∧ u.isRidge then u.complete r { status := stNotInRole }
        else if u.bit PW_CTL (prm r.p 1 - 1) then v.complete r {}
        else u.complete r { status := stInvalidState })) := by
  intro s u v r h hv
  rw [exec, execPowerEnter, State.main_up h.takes.up, h.accept]
  unfold cmdPowerEnter; dsimp +zetaHave only
  simp only [settle_ite]
  have hp : u.powerRequest (prm r.p 1) = if u.bit PW_CTL (prm r.p 1 - 1) then some v else none := by
    unfold State.powerRequest; rw [hv]
  rw [hp]
  by_cases hb : u.bit PW_CTL (prm r.p 1 - 1) = true
  · rw [if_pos hb, if_pos hb]; rfl
  · rw [if_neg hb, if_neg hb]; rfl

/-- What the row SEQ_LOAD does (R230). -/
theorem exec_seqLoad :
    (∀ (s u : State) (r : RunCmd), s.Accepts u r 0x40 cmdSeqLoad → exec .seqLoad s = .next (
        if prm r.p 3 < 1 ∨ 16384 < prm r.p 3 ∨ 16384 < prm r.p 2 + prm r.p 3 then u.complete r { status := stInvalidParam }
        else if u.sq.st.writable = false then u.complete r { status := stInvalidState }
        else (u.readFrom r (prm r.p 1) (8 * prm r.p 3)).settle r)) := by
  intro s u r h
  rw [exec, execSeqLoad, State.main_up h.takes.up, h.accept]
  unfold cmdSeqLoad; dsimp +zetaHave only
  simp only [settle_ite]; rfl

/-- What the row SEQ_START does (R236). -/
theorem exec_seqStart :
    (∀ (s u : State) (r : RunCmd), s.Accepts u r 0x41 cmdSeqStart → exec .seqStart s = .next (
        if u.sq.st = .idle ∨ u.sq.st = .running ∨ u.sq.st = .held ∨ u.td.acq = false then u.complete r { status := stInvalidState }
        else if u.sq.len ≤ prm r.p 1 ∨ (bitOf (prm r.p 4) 32 = false ∧ prm r.p 3 < u.clk.course + 8) then
          u.complete r { status := stInvalidParam }
        else (u.setSq { u.sq with start := some {
          addr := prm r.p 1, step := prm r.p 2, course := prm r.p 3, tol := prm r.p 4 % 65536
          vote := if bitOf (prm r.p 4) 31 then some (field (prm r.p 4) 16 10) else none, handle := field (prm r.p 4) 16 10
          hold := bitOf (prm r.p 4) 32, g := r.p.drop 4 } }).complete r { d := [u.progCrc] })) := by
  intro s u r h
  rw [exec, execSeqStart, State.main_up h.takes.up, h.accept]
  unfold cmdSeqStart; dsimp +zetaHave only
  simp only [settle_ite]; rfl

/-- What the row SEQ_STOP does (R238). -/
theorem exec_seqStop :
    (∀ (s u : State) (r : RunCmd), s.Accepts u r 0x42 cmdSeqStop → exec .seqStop s = .next (
        if u.sq.st ≠ .running ∧ u.sq.st ≠ .held then u.complete r { status := stInvalidState }
        else if prm r.p 1 ≠ 0 ∧ prm r.p 1 ≤ u.clk.course then u.complete r { status := stInvalidParam }
        else (u.setSq { u.sq with stop := some (prm r.p 1) }).complete r {})) := by
  intro s u r h
  rw [exec, execSeqStop, State.main_up h.takes.up, h.accept]
  unfold cmdSeqStop; dsimp +zetaHave only
  simp only [settle_ite]; rfl

/-- What the row SEQ_ARM does (R251). -/
theorem exec_seqArm :
    (∀ (s u : State) (r : RunCmd) (t : Int), s.Accepts u r 0x43 cmdSeqArm → timeParam r.p 2 = some t → u.isEave = true →
      eventKind (prm r.p 1) = true → u.clk.course + 2 ≤ courseOf t → u.ev.events.length < 16 →
      exec .seqArm s =
        .next ((u.takeEvent { id := 0, kind := prm r.p 1, target := t, arg := prm r.p 4 }).complete r { d := [0] })) := by
  intro s u r t h ht he hk hc hl
  have hr : u.isRoot = false := by
    unfold State.isRoot State.isRidge
    unfold State.isEave at he
    have : u.ties.strap = 1 := by simpa using he
    rw [this]; rfl
  rw [exec, execSeqArm, State.main_up h.takes.up, h.accept]
  unfold cmdSeqArm; dsimp +zetaHave only
  rw [ht]
  dsimp only
  rw [hk, if_neg (by decide), if_neg (by simp [hr]), if_neg (by omega), if_neg (by omega), he, if_pos rfl]
  rfl

/-- What the row SEQ_CANCEL does (R251). -/
theorem exec_seqCancel :
    (∀ (s u : State) (r : RunCmd), s.Accepts u r 0x44 cmdSeqCancel → u.isEave = true →
      exec .seqCancel s = .next ((u.cancelEvent (prm r.p 1)).complete r {})) := by
  intro s u r h he
  rw [exec, execSeqCancel, State.main_up h.takes.up, h.accept]
  unfold cmdSeqCancel; dsimp +zetaHave only
  rw [he, if_pos rfl]; rfl

/-- What the row OBJ_CTX_DEFINE does (R258). -/
theorem exec_objCtxDefine :
    (∀ (s u : State) (r : RunCmd), s.Accepts u r 0x50 cmdObjCtxDefine → ∀ x n segs, x = prm r.p 1 % 256 → n = field (prm r.p 1) 16 3 →
      segs = (List.range n).map (fun j => (prm r.p (j + 2) / 65536, prm r.p (j + 2) % 65536 + 1)) →
      exec .objCtxDefine s = .next (
        if n < 1 ∨ 4 < n then u.complete r { status := stInvalidParam }
        else if (u.ctx x).st ≠ .undef then u.complete r { status := stInvalidState }
        else if u.segsOk x segs = false then u.complete r { status := stInvalidParam }
        else (u.modCtx x fun c => { gen := c.gen, clear := c.clear, st := .active, ovf := bitOf (prm r.p 1) 8, segs := segs }).complete r {})) := by
  intro s u r h x n segs hx hn hseg
  rw [exec, execObjCtxDefine, State.main_up h.takes.up, h.accept]
  unfold cmdObjCtxDefine; dsimp +zetaHave only
  subst hx hn hseg
  simp only [settle_ite]; rfl

/-- What the row OBJ_INIT does (R258). -/
theorem exec_objInit :
    (∀ (s u v : State) (r : RunCmd) (ks : List Nat), s.Accepts u r 0x51 cmdObjInit → 1 ≤ prm r.p 2 → prm r.p 2 ≤ 65536 →
      1 ≤ prm r.p 3 → prm r.p 3 ≤ 3 → (prm r.p 3 = 3 → 1 ≤ prm r.p 4 ∧ prm r.p 4 ≤ 65536) → (u.ctx (hCtx (prm r.p 1))).st ≠ .undef →
      u.transRange (prm r.p 1) false (prm r.p 2) [] = (v, some (.inr ks)) →
      exec .objInit s = .next ((v.dropTrans.each ks fun s k => s.initSlot (hCtx (prm r.p 1)) k (prm r.p 3) (prm r.p 4)).complete r
        { d := [ks.length] })) := by
  intro s u v r ks h h1 h2 h3 h4 h5 h6 ht
  rw [exec, execObjInit, State.main_up h.takes.up, h.accept]
  unfold cmdObjInit; dsimp +zetaHave only
  rw [if_neg (by
    intro hh
    rcases hh with hh | hh | hh | hh | ⟨hh, hh'⟩
    · omega
    · omega
    · omega
    · omega
    · have := h5 hh; omega), if_neg h6]
  unfold State.objInit
  dsimp +zetaHave only
  rw [ht]; rfl

/-- What the row OBJ_CTX_CLEAR does (R271). -/
theorem exec_objCtxClear :
    (∀ (s u : State) (r : RunCmd), s.Accepts u r 0x52 cmdObjCtxClear → exec .objCtxClear s = .next (
        match (u.ctx (prm r.p 1)).st with
        | .undef => u.complete r { status := stInvalidState }
        | .scrub => u.complete r { status := stBusy }
        | .active => (u.clearCtx (prm r.p 1)).complete r { d := [((u.clearCtx (prm r.p 1)).ctx (prm r.p 1)).gen] })) := by
  intro s u r h
  rw [exec, execObjCtxClear, State.main_up h.takes.up, h.accept]
  unfold cmdObjCtxClear; dsimp +zetaHave only
  cases (u.ctx (prm r.p 1)).st <;> rfl

/-- What the row OBJ_CTX_RELEASE does (R258). -/
theorem exec_objCtxRelease :
    (∀ (s u : State) (r : RunCmd), s.Accepts u r 0x53 cmdObjCtxRelease → exec .objCtxRelease s = .next (
        match (u.ctx (prm r.p 1)).st with
        | .undef => u.complete r { status := stInvalidState }
        | .scrub => u.complete r { status := stBusy }
        | .active => (u.releaseCtx (prm r.p 1)).complete r {})) := by
  intro s u r h
  rw [exec, execObjCtxRelease, State.main_up h.takes.up, h.accept]
  unfold cmdObjCtxRelease; dsimp +zetaHave only
  cases (u.ctx (prm r.p 1)).st <;> rfl

/-- What the row OBJ_WAKE does (R372). -/
theorem exec_objWake :
    (∀ (s u v : State) (r : RunCmd) (k : Nat), s.Accepts u r 0x54 cmdObjWake → (u.ctx (hCtx (prm r.p 1))).st ≠ .undef →
      u.commandTrans (prm r.p 1) true = (v, some (.slot k)) →
      exec .objWake s = .next (((v.od.waiters.filter fun w => w.slot = k).foldl (fun s w => s.failWaiter w rWake) v.dropTrans).complete r
        { d := [(v.od.waiters.filter fun w => w.slot = k).length] })) := by
  intro s u v r k h h1 ht
  rw [exec, execObjWake, State.main_up h.takes.up, h.accept]
  unfold cmdObjWake; dsimp +zetaHave only
  rw [if_neg h1]
  unfold State.objWake
  rw [ht]; rfl

/-- What the row OBJ_OP does (R262). -/
theorem exec_objOp :
    (∀ (s u v : State) (r : RunCmd) (k : Nat), s.Accepts u r 0x55 cmdObjOp → (u.ctx (hCtx (prm r.p 1))).st ≠ .undef → u.odOn = true →
      u.commandTrans (prm r.p 1) true = (v, some (.slot k)) → ∀ q, q = v.dropTrans.opAt (prm r.p 2) (prm r.p 3) (prm r.p 1) k →
      exec .objOp s = .next (q.1.complete r { detail := q.2.1, d := [q.2.2] })) := by
  intro s u v r k h h1 h2 ht q hq
  rw [exec, execObjOp, State.main_up h.takes.up, h.accept]
  unfold cmdObjOp; dsimp +zetaHave only
  rw [if_neg h1]
  unfold State.objOp
  dsimp +zetaHave only
  rw [h2, if_neg (by decide), ht]
  subst hq; rfl

/-- What the row COLL_DEFINE does (R283). -/
theorem exec_collDefine :
    (∀ (s u : State) (r : RunCmd), s.Accepts u r 0x60 cmdCollDefine → ∀ h f, h = prm r.p 1 → f = prm r.p 3 →
      exec .collDefine s = .next (
        if (u.handle h).isSome then u.complete r { status := stInvalidState }
        else if collParamsOk (field f 16 8) (field f 24 4) (field f 28 4) (field f 32 5) (bitOf f 41) (bitOf f 48) = false then
          u.complete r { status := stInvalidParam }
        else (u.setHandle h (some {
          cid := prm r.p 2, group := field f 0 12, dom := Dom.ofBit (bitOf f 12), op := field f 16 8
          fmt := if field f 16 8 = 0 then 0 else field f 24 4, rfmt := if field f 16 8 = 0 then 0 else field f 28 4
          lanes := field f 32 5, move := bitOf f 40, sat := bitOf f 41
          arriveObj := if bitOf f 48 then some (prm r.p 4 % 2 ^ 24) else none
          doneObj := if bitOf f 49 then some (prm r.p 4 / 2 ^ 32) else none })).complete r {})) := by
  intro s u r h a f ha hf
  rw [exec, execCollDefine, State.main_up h.takes.up, h.accept]
  unfold cmdCollDefine; dsimp +zetaHave only
  subst ha hf
  simp only [settle_ite, decide_eq_true_eq]; rfl

/-- What the row COLL_RELEASE does (R283). -/
theorem exec_collRelease :
    (∀ (s u : State) (r : RunCmd), s.Accepts u r 0x61 cmdCollRelease → exec .collRelease s = .next (
        match u.handle (prm r.p 1) with
        | none => u.complete r { status := stInvalidState }
        | some hd => if hd.insts ≠ [] then u.complete r { status := stBusy } else (u.setHandle (prm r.p 1) none).complete r {})) := by
  intro s u r h
  rw [exec, execCollRelease, State.main_up h.takes.up, h.accept]
  unfold cmdCollRelease; dsimp +zetaHave only
  cases u.handle (prm r.p 1) with
  | none => rfl
  | some hd => simp only [settle_ite]; rfl

/-- What the row COLL_ABORT does (R301). -/
theorem exec_collAbort :
    (∀ (s u : State) (r : RunCmd), s.Accepts u r 0x62 cmdCollAbort → u.isEave = true → exec .collAbort s = .next (
        match u.handle (prm r.p 1) with
        | none => u.complete r { status := stInvalidState }
        | some hd =>
          if hd.insts = [] then u.complete r { status := stInvalidState }
          else (hd.insts.foldl (fun s i => s.abortReq hd.cid i.isn i.attempt (hd.domOf i.attempt) 0x01 0) u).complete r {})) := by
  intro s u r h he
  rw [exec, execCollAbort, State.main_up h.takes.up, h.accept]
  unfold cmdCollAbort; dsimp +zetaHave only
  rw [he, if_pos rfl]
  cases u.handle (prm r.p 1) with
  | none => rfl
  | some hd => simp only [settle_ite]; rfl

/-- What the row PORT_CALIBRATE does (R79). -/
theorem exec_portCalibrate :
    (∀ (s u : State) (r : RunCmd), s.Accepts u r 0x70 cmdPortCalibrate → exec .portCalibrate s = .next (
        if u.nPorts ≤ prm r.p 1 ∨ prm r.p 2 < 1 ∨ 65536 < prm r.p 2 then u.complete r { status := stInvalidParam }
        else if (u.port (prm r.p 1)).role ≠ .unused ∧ (u.port (prm r.p 1)).health ≠ .retired then
          u.complete r { status := stPortInUse }
        else if u.imBusy then u.complete r { status := stBusy }
        else (u.claimEngine (prm r.p 1) (prm r.p 2)).putRun { r with long := true })) := by
  intro s u r h
  rw [exec, execPortCalibrate, State.main_up h.takes.up, h.accept]
  unfold cmdPortCalibrate; dsimp +zetaHave only
  simp only [settle_ite]; rfl

/-- What the row PORT_RETIRE does (R331). -/
theorem exec_portRetire :
    (∀ (s u : State) (r : RunCmd), s.Accepts u r 0x71 cmdPortRetireRow → ∀ p, p = prm r.p 1 % 512 → exec .portRetire s = .next (
        if u.nPorts ≤ p then u.complete r { status := stInvalidParam }
        else if (u.port p).health = .retired ∨ (u.port p).health = .noTree ∨
            (bitOf (prm r.p 1) 16 = false ∧ (u.port p).health = .live ∧ u.lastUplink p = true) then
          u.complete r { status := stInvalidState }
        else (u.modPort p fun v => { v with cmdRetire := true }).complete r {})) := by
  intro s u r h p hp
  rw [exec, execPortRetire, State.main_up h.takes.up, h.accept]
  unfold cmdPortRetireRow; dsimp +zetaHave only
  subst hp
  rw [settle_ite]
  unfold State.cmdPortRetire
  dsimp +zetaHave only
  by_cases h0 : u.nPorts ≤ prm r.p 1 % 512
  · rw [if_pos h0, if_pos h0]; rfl
  · rw [if_neg h0, if_neg h0]
    by_cases h1 : (u.port (prm r.p 1 % 512)).health = .retired ∨ (u.port (prm r.p 1 % 512)).health = .noTree
    · rw [if_pos h1, if_pos (by rcases h1 with h1 | h1; exact .inl h1; exact .inr (.inl h1))]; rfl
    · rw [if_neg h1]
      by_cases h2 : bitOf (prm r.p 1) 16 = false ∧ (u.port (prm r.p 1 % 512)).health = .live ∧ u.lastUplink (prm r.p 1 % 512) = true
      · rw [if_pos h2, if_pos (.inr (.inr h2))]; rfl
      · rw [if_neg h2, if_neg (fun hh => by rcases hh with hh | hh | hh; exact h1 (.inl hh); exact h1 (.inr hh); exact h2 hh)]; rfl

/-- What the row PORT_RESTORE does (R331). -/
theorem exec_portRestore :
    (∀ (s u : State) (r : RunCmd), s.Accepts u r 0x72 cmdPortRestoreRow → ∀ p, p = prm r.p 1 → exec .portRestore s = .next (
        if u.nPorts ≤ p then u.complete r { status := stInvalidParam }
        else match (u.port p).health with
          | .probation => (u.modPort p fun v => { v with score := 0, cmdLive := true }).complete r {}
          | .retired => (u.startAdmission p).complete r {}
          | _ => u.complete r { status := stInvalidState })) := by
  intro s u r h p hp
  rw [exec, execPortRestore, State.main_up h.takes.up, h.accept]
  unfold cmdPortRestoreRow; dsimp +zetaHave only
  subst hp
  rw [settle_ite]
  unfold State.cmdPortRestore
  cases hh : (u.port (prm r.p 1)).health <;> rfl

/-- What the row PORT_SPARE_ADMIT does (R331). -/
theorem exec_portSpareAdmit :
    (∀ (s u : State) (r : RunCmd), s.Accepts u r 0x73 cmdPortSpareRow → ∀ p, p = prm r.p 1 → exec .portSpareAdmit s = .next (
        if u.nPorts ≤ p then u.complete r { status := stInvalidParam }
        else if (u.port p).health = .retired then
          ((((u.modPort p fun v => { v with peerExp := prm r.p 2 }).startAdmission p)).judged p Port.rejudged).complete r {}
        else u.complete r { status := stInvalidState })) := by
  intro s u r h p hp
  rw [exec, execPortSpareAdmit, State.main_up h.takes.up, h.accept]
  unfold cmdPortSpareRow; dsimp +zetaHave only
  subst hp
  rw [settle_ite]
  unfold State.cmdPortSpare
  by_cases hh : (u.port (prm r.p 1)).health = .retired
  · rw [if_pos hh, if_pos hh]; rfl
  · rw [if_neg hh, if_neg hh]; rfl

/-- What the row PORT_CALIBRATE_DONE does (R224). -/
theorem exec_portCalibrateDone :
    (∀ (s : State) (p : Nat), s.up = true → s.im.claim = some p → s.im.claimDone = true → s.cp.run = [] →
      exec .portCalibrateDone s = .next (({ s with im := { s.im with claim := none, claimDone := false } } : State).modPort p fun q =>
        { q with cal := { running := false, n := (s.im.stats.get {} 0).n, lost := (s.im.stats.get {} 0).missed
                          mean := (s.im.stats.get {} 0).mean, sdev := (s.im.stats.get {} 0).sdev } })) := by
  intro s p h h1 h2 h3
  rw [exec, execPortCalibrateDone, State.main_up h]
  unfold State.calibrateFinish
  rw [h1]
  dsimp +zetaHave only
  rw [h2, if_pos rfl]
  have : ∀ (t : State), t.cp.run = [] → t.pumpCmds = t := by intro t ht; unfold State.pumpCmds; rw [ht]; rfl
  exact congrArg Host.Outcome.next (this _ h3)

end Sys2Proof.Machine
end

