-- ==== Sys2Proof/Laws/RowsColl.lean ====
section
/-! SUPPORT. Sys2Proof/Laws/RowsColl.lean: the collective frames. -/

set_option linter.all false
set_option Elab.async false

namespace Sys2Proof.Machine
open Sys2Proof Sys2Proof.Config

theorem coll_frame (s : State) (h : RxHead) (k : RxKind) (f : State → State) (hu : s.up = true) (hp : h.port < s.nPorts) :
    (s.atPort h.port fun s => s.collFrame h k f) = .next (if (s.rxZudar h k).ok = true ∧ (s.rxZudar h k).s.ceOn = true then f ((s.rxZudar h k).s.openGate 3) else (s.rxZudar h k).s) := by
  rw [atPort_in hu hp]; rfl

/-- What the rows COLL_UP_RECEIVE, COLL_DOWN_RECEIVE, COLL_MOVE_RECEIVE, COLL_ABORT_RECEIVE, COLL_REQ_RECEIVE do
(R286, R287, R300, R302, R303). -/
theorem exec_collUpReceive_collDownReceive_collMoveReceive_more : ∀ (s u : State) (h : RxHead) (k : RxKind) (c : Instr), s.up = true → h.port < s.nPorts →
    (∃ m, c = .collUpReceive h m ∧ k = kColl 0x40 (Body.collUp m).msgLen false) ∨ (∃ m, c = .collDownReceive h m ∧ k = kColl 0x41 (Body.collDown m).msgLen false) ∨
      (∃ m, c = .collMoveReceive h m ∧ k = kColl 0x42 44 true) ∨ (∃ m, c = .collAbortReceive h m ∧ k = kColl 0x43 44 true) ∨
      (∃ m, c = .collReqReceive h m ∧ k = kColl 0x44 52 true) →
    u = (s.rxZudar h k).s → u.wire = s.wire ∧ ((s.rxZudar h k).ok = false ∨ u.ceOn = false → exec c s = .next u) := by
  intro s u h k c hu hp hc hur
  have hk : ∃ f, exec c s = s.atPort h.port fun s => s.collFrame h k f := by
    rcases hc with ⟨m, rfl, rfl⟩ | ⟨m, rfl, rfl⟩ | ⟨m, rfl, rfl⟩ | ⟨m, rfl, rfl⟩ | ⟨m, rfl, rfl⟩
    · exact ⟨fun s => if s.isRidge then (if (s.port h.port).role = .child then s.ridgeUp h.port m else s.count CE_CNT_STRAY) else s, rfl⟩
    · exact ⟨fun s => if s.isEave then s.eaveDown h.port m else s.ridgeDown h.port m, rfl⟩
    · exact ⟨fun s => if s.isEave then s.eaveMove m else s.ridgeMove h.port m, rfl⟩
    · exact ⟨fun s => if s.isEave then s.eaveAbort m else s.ridgeAbort h.port m, rfl⟩
    · exact ⟨fun s => if s.isRidge then s.routeReq m else s, rfl⟩
  obtain ⟨f, hk⟩ := hk
  rw [hk, coll_frame _ _ _ _ hu hp]
  refine ⟨by rw [hur]; exact State.rxZudar_wire _ _ _ _, fun hh => ?_⟩
  rw [if_neg, hur]
  rintro ⟨a, b⟩
  rw [← hur] at b
  rcases hh with h | h
  · exact absurd (a.symm.trans h) (by decide)
  · exact absurd (b.symm.trans h) (by decide)

theorem role_same (z y : State) (h1 : y.ports = z.ports) (h2 : y.ties = z.ties) (h3 : y.gang = z.gang) (r : PortRole) : y.rolePorts r = z.rolePorts r := by
  unfold State.rolePorts State.portList State.nPorts State.isEave State.isRidge State.port
  rw [h1, h2, h3]

theorem decide_same (z y : State) (h1 : y.ports = z.ports) (h2 : y.ties = z.ties) (h3 : y.gang = z.gang) : y.decisionPorts = z.liveChildren ++ z.rolePorts .crossDown := by
  unfold State.decisionPorts State.liveChildren
  rw [role_same z y h1 h2 h3, role_same z y h1 h2 h3]

theorem exec_rows_3 : (∀ (z : State) (cid isn a reason : Nat) (o : Origin), ∃ y : State, z.rootAbort cid isn a reason o =
      (((y.xsendAll (z.liveChildren ++ z.rolePorts .crossDown) (.collAbort { cid := cid, isn := isn, attempt := a, reason := reason, origin := o })).toMembers
      (.abort { cid := cid, isn := isn, attempt := a, reason := reason, origin := o })).count CE_CNT_ABORT).evt 22 ∧
    y = { z with irq := z.irq ||| BitVec.ofNat 32 (2 ^ 21), ce := { z.ce with
      ctrs := z.ce.ctrs.filter fun c => ¬ (c.par.cid = cid ∧ c.par.isn = isn ∧ c.attempt ≤ 3)
      moves := z.ce.moves.filter fun x => ¬ (x.m.cid = cid ∧ x.m.isn = isn)
      closed := (cid, isn, z.clk.ticks) :: z.ce.closed
      last := { cid := cid, isn := isn, reason := reason, originId := o.id, port := o.port % 4096 } } }) ∧
  (∀ (z : State) (cid isn a : Nat) (g : Option Nat) (o : Origin) (m : CollMove), m = { cid := cid, isn := isn, attempt := a + 1, dom := z.home.other, origin := o } →
    ∃ y : State, z.rootMove cid isn a g o = (((y.xsendAll (z.liveChildren ++ z.rolePorts .crossDown) (.collMove m)).toMembers (.move m)).count CE_CNT_MOVE).evt 23 ∧
    y = { z with ce := { z.ce with
      ctrs := z.ce.ctrs.filter fun c => ¬ (c.par.cid = cid ∧ c.par.isn = isn ∧ c.attempt ≤ a)
      moves := { m := m, group := g, own := false, tick := z.clk.ticks, ports := z.liveChildren ++ z.rolePorts .crossDown } :: z.ce.moves.filter fun x => ¬ (x.m.cid = cid ∧ x.m.isn = isn) } }) := by
  refine ⟨fun z cid isn a reason o => ?_, ?_⟩
  · unfold State.rootAbort
    dsimp +zetaHave only
    generalize hx : ((z.dropCtrs cid isn 3).dropMoves cid isn).close cid isn = x
    have x1 : x.ports = z.ports ∧ x.ties = z.ties ∧ x.gang = z.gang := by rw [← hx]; exact ⟨rfl, rfl, rfl⟩
    generalize hy : (x.noteAbort { cid := cid, isn := isn, attempt := a, reason := reason, origin := o }).raise 21 = y
    have x2 : x = { z with ce := x.ce } ∧ x.ce = { z.ce with ctrs := z.ce.ctrs.filter fun c => ¬ (c.par.cid = cid ∧ c.par.isn = isn ∧ c.attempt ≤ 3), moves := z.ce.moves.filter fun x => ¬ (x.m.cid = cid ∧ x.m.isn = isn), closed := (cid, isn, z.clk.ticks) :: z.ce.closed } := by
      rw [← hx]; exact ⟨rfl, rfl⟩
    have y1 : y = { x with irq := x.irq ||| BitVec.ofNat 32 (2 ^ 21), ce := { x.ce with last := { cid := cid, isn := isn, reason := reason, originId := o.id, port := o.port % 4096 } } } := by
      rw [← hy]; rfl
    refine ⟨y, ?_, ?_⟩
    · rw [decide_same z x x1.1 x1.2.1 x1.2.2]
    · rw [y1, x2.2]; rw [x2.1]
  · rintro z cid isn a g o m rfl
    unfold State.rootMove
    dsimp +zetaHave only
    generalize hx : (z.dropCtrs cid isn a).dropMoves cid isn = x
    have x1 : x = { z with ce := x.ce } ∧ x.ce = { z.ce with ctrs := z.ce.ctrs.filter fun c => ¬ (c.par.cid = cid ∧ c.par.isn = isn ∧ c.attempt ≤ a), moves := z.ce.moves.filter fun x => ¬ (x.m.cid = cid ∧ x.m.isn = isn) } := by
      rw [← hx]; exact ⟨rfl, rfl⟩
    rw [decide_same z x (by rw [x1.1]) (by rw [x1.1]) (by rw [x1.1])]
    have h2 : x.home = z.home ∧ x.clk = z.clk := by rw [x1.1]; exact ⟨rfl, rfl⟩
    rw [h2.1]
    refine ⟨_, rfl, ?_⟩
    rw [h2.2, x1.2]
    rw [x1.1]

theorem exec_rows_4 : (∀ (z : State) (c : TreeCtr) (g : Group) (own : Origin), own = { id := z.ownId, onset := z.clk.course % 2 ^ 32 } →
    (c.count ≠ g.m → z.rootComplete c g = z.rootAbort c.par.cid c.par.isn c.attempt 0x07 own) ∧
    (∀ (status step : Nat) (results : List Nat) (d : CollDown), c.count = g.m →
      d = { par := c.par, attempt := c.attempt, status := status, count := c.count, step := step, doneCourse := z.clk.course % 2 ^ 32, results := results } →
      (c.par.op = 0 ∧ status = 0 ∧ step = c.step ∧ results = []) ∨ (c.par.op = 7 ∧ g.m < 2 * c.ballot.count ∧ status = 0 ∧ step = c.ballot.step ∧ results = [c.ballot.digest]) ∨
        (c.par.op ≠ 0 ∧ c.par.op ≠ 7 ∧ step = c.step ∧ results = c.lanes.map (fun l => (roundLane c.par.op c.par.fmt c.par.rfmt c.par.sat l).bits) ∧
          status = (c.lanes.map (roundLane c.par.op c.par.fmt c.par.rfmt c.par.sat)).foldl (fun a r => a ||| r.status) 0) →
      ∃ y : State, z.rootComplete c g = (((y.xsendAll (z.groupPorts c.par.group) (.collDown d)).toMembers (.down d)).count CE_CNT_DONE).evt 21 ∧
        y = { z with ce := { z.ce with
          ctrs := z.ce.ctrs.filter fun x => ¬ (x.par.cid = c.par.cid ∧ x.par.isn = c.par.isn ∧ x.attempt ≤ 3)
          moves := z.ce.moves.filter fun x => ¬ (x.m.cid = c.par.cid ∧ x.m.isn = c.par.isn)
          closed := (c.par.cid, c.par.isn, z.clk.ticks) :: z.ce.closed } }) ∧
    (∀ d : CollDown, c.count = g.m → c.par.op = 7 → 2 * c.ballot.count ≤ g.m →
      d = { par := c.par, attempt := c.attempt, phase := 1, count := c.count, step := c.ballot.step, doneCourse := z.clk.course % 2 ^ 32, results := [c.ballot.digest] } →
      z.rootComplete c g = ((z.putCtr { c with match2 := some { c.ballot with count := 0 } }).xsendAll (z.groupPorts c.par.group) (.collDown d)).toMembers (.down d))) := by
  rintro z c g own rfl
  refine ⟨fun h => ?_, fun status step results d hc hd hs => ?_, fun d hc h7 hb hd => ?_⟩
  · unfold State.rootComplete; dsimp +zetaHave only; rw [if_pos h]
  · unfold State.rootComplete
    dsimp +zetaHave only
    rw [if_neg (fun h => h hc), hd]
    rcases hs with ⟨h0, rfl, rfl, rfl⟩ | ⟨h7, hb, rfl, rfl, rfl⟩ | ⟨h0, h7, rfl, rfl, rfl⟩
    · rw [if_pos h0]; exact ⟨_, rfl, rfl⟩
    · rw [if_neg (by omega), if_pos h7, if_pos hb]; exact ⟨_, rfl, rfl⟩
    · rw [if_neg h0, if_neg h7, List.map_map]; exact ⟨_, rfl, rfl⟩
  · unfold State.rootComplete
    dsimp +zetaHave only
    rw [if_neg (fun h => h hc), if_neg (by omega), if_pos h7, if_neg (by omega), hd]

theorem contains_iff (p : Nat) (l : List Nat) : l.contains p = true ↔ p ∈ l := List.contains_iff_mem

theorem allDelivered_iff (z : State) (g : Group) (ps : List Nat) : z.allDelivered g ps = true ↔ ∀ p ∈ g.ports ++ z.gangSrcs, p ∈ ps := by
  unfold State.allDelivered; rw [List.all_eq_true]; simp only [List.contains_iff_mem]

/-- A local port is no member of the gang. -/
theorem port_no_src (s z : State) (p : Nat) (hp : p < s.nPorts) : z.gangSrcs.contains p = false ∧ z.srcNum p = z.portNum p := by
  have h1 : p < 512 := by
    have : s.nPorts ≤ 512 := by unfold State.nPorts; split; omega; split <;> omega
    omega
  constructor
  · rw [Bool.eq_false_iff]
    intro hh
    have hh := (contains_iff _ _).mp hh
    unfold State.gangSrcs at hh
    split at hh
    · obtain ⟨x, _, hx⟩ := List.mem_map.mp hh
      unfold gangSrc at hx; omega
    · cases hh
  · unfold State.srcNum; rw [if_neg (by omega)]

/-- What the row COLL_UP_RECEIVE does (R286). -/
theorem exec_collUpReceive : (∀ (s z : State) (h : RxHead) (m : CollUp) (r : Rx), s.up = true → h.port < s.nPorts → r = s.rxZudar h (kColl 0x40 (Body.collUp m).msgLen false) →
    r.ok = true → r.s.ceOn = true → z = r.s.openGate 3 →
    (z.isRidge = false → exec (.collUpReceive h m) s = .next z) ∧
    (z.isRidge = true → (z.port h.port).role ≠ .child → exec (.collUpReceive h m) s = .next (z.count CE_CNT_STRAY)) ∧
    (z.isRidge = true → (z.port h.port).role = .child →
      (∀ (b : Ballot), m.data = .matched b → z.ctr m.par.cid m.par.isn m.attempt = none → exec (.collUpReceive h m) s = .next (z.count CE_CNT_STRAY)) ∧
      (∀ (b : Ballot) (c : TreeCtr) (g : Group), m.data = .matched b → z.ctr m.par.cid m.par.isn m.attempt = some c → z.group c.par.group = some g →
        (h.port ∉ g.ports → exec (.collUpReceive h m) s = .next (z.count CE_CNT_STRAY)) ∧
        (h.port ∈ g.ports → (sameParams c.par m.par = false ∨ (c.ports2 ≠ [] ∧ (c.match2.getD b).sameKey b = false)) →
          exec (.collUpReceive h m) s = .next (z.abortReq m.par.cid m.par.isn m.attempt z.home 0x06 (z.portNum h.port))) ∧
        (h.port ∈ g.ports → sameParams c.par m.par = true → (c.match2.getD b).sameKey b = true → h.port ∈ c.ports2 → exec (.collUpReceive h m) s = .next z)) ∧
      (∀ st rs, m.data = .report st rs → z.isRoot = true → z.follower = false →
        exec (.collUpReceive h m) s = .next (if z.isClosed m.par.cid m.par.isn then z
          else z.rootDown ((z.ctr m.par.cid m.par.isn m.attempt).getD { par := m.par, attempt := m.attempt }) st m.step rs)) ∧
      (∀ (c : TreeCtr) (g : Group), (∃ l, m.data = .partial_ l) ∨ (∃ b, m.data = .vote b) → z.ctr m.par.cid m.par.isn m.attempt = some c → z.group c.par.group = some g →
        (h.port ∉ g.ports → exec (.collUpReceive h m) s = .next (z.count CE_CNT_STRAY)) ∧
        (h.port ∈ g.ports → sameParams c.par m.par = false →
          exec (.collUpReceive h m) s = .next (z.abortReq m.par.cid m.par.isn m.attempt z.home 0x06 (z.portNum h.port))) ∧
        (h.port ∈ g.ports → sameParams c.par m.par = true → h.port ∈ c.ports → exec (.collUpReceive h m) s = .next z) ∧
        (∀ c' : TreeCtr, h.port ∈ g.ports → sameParams c.par m.par = true → h.port ∉ c.ports →
          c' = { c with ports := c.ports ++ [h.port], count := c.count + m.count, tick := z.clk.ticks, lanes := c'.lanes, ballot := c'.ballot } →
          (∀ l, m.data = .partial_ l → c'.lanes = List.zipWith (foldLane c.par.op) c.lanes l ∧ c'.ballot = c.ballot) →
          (∀ b, m.data = .vote b → c'.lanes = c.lanes ∧ c'.ballot = if c.ports = [] then b else foldBallot c.ballot b) →
          ((∃ p ∈ g.ports ++ z.gangSrcs, p ∉ c'.ports) → exec (.collUpReceive h m) s = .next ((z.evt 20).putCtr c')) ∧
          (∀ up : CollUp, up = { par := c'.par, attempt := c'.attempt, count := c'.count, step := c'.step, data := if c'.par.op = 0x07 then .vote c'.ballot else .partial_ c'.lanes } →
            (∀ p ∈ g.ports ++ z.gangSrcs, p ∈ c'.ports) → (z.isRoot = false ∨ z.follower = true) →
            (z.follower = true → exec (.collUpReceive h m) s = .next (((z.evt 20).putCtr { c' with sentUp := true }).emit (.gangPartial up))) ∧
            (z.follower = false → z.homeUplink = none → exec (.collUpReceive h m) s = .next ((z.evt 20).putCtr { c' with sentUp := true })) ∧
            (∀ q, z.follower = false → z.homeUplink = some q →
              exec (.collUpReceive h m) s = .next (((z.evt 20).putCtr { c' with sentUp := true }).xsend q (.collUp up)))) ∧
          ((∀ p ∈ g.ports ++ z.gangSrcs, p ∈ c'.ports) → z.isRoot = true → z.follower = false → exec (.collUpReceive h m) s = .next ((z.evt 20).rootComplete c' g)))) ∧
      (∀ (g : Group), (∃ l, m.data = .partial_ l) ∨ (∃ b, m.data = .vote b) → z.ctr m.par.cid m.par.isn m.attempt = none → z.group m.par.group = some g →
        (h.port ∉ g.ports → exec (.collUpReceive h m) s = .next (z.count CE_CNT_STRAY)) ∧
        (h.port ∈ g.ports → z.isRoot = true → z.isClosed m.par.cid m.par.isn = true → exec (.collUpReceive h m) s = .next z) ∧
        (h.port ∈ g.ports → (z.isRoot = false ∨ z.isClosed m.par.cid m.par.isn = false) → (262144 ≤ z.ce.ctrs.length ∨ (m.par.lanes ≠ 0 ∧ 4096 ≤ z.slotsUsed) ∨
            z.storeSize < z.storeUsed [] + z.storeReserved + (newCtr m).reserve) →
          exec (.collUpReceive h m) s = .next ((z.raise 22).abortReq m.par.cid m.par.isn m.attempt z.home 0x08 (z.portNum h.port))) ∧
        (∀ l, h.port ∈ g.ports → (z.isRoot = false ∨ z.isClosed m.par.cid m.par.isn = false) → z.ce.ctrs.length < 262144 → (m.par.lanes = 0 ∨ z.slotsUsed < 4096) →
          z.storeUsed [] + z.storeReserved + (newCtr m).reserve ≤ z.storeSize → m.data = .partial_ l → (∃ p ∈ g.ports ++ z.gangSrcs, p ≠ h.port) →
          exec (.collUpReceive h m) s = .next ((z.evt 20).putCtr { par := m.par, attempt := m.attempt, step := m.step, slot := decide (m.par.lanes ≠ 0), ports := [h.port], count := m.count, tick := z.clk.ticks, lanes := List.zipWith (foldLane m.par.op) (l.map fun _ => identityLane m.par.op) l }))))) := by
  intro s z h m r hu hp hr hok hce hz
  have k : exec (.collUpReceive h m) s = s.atPort h.port fun s => s.collFrame h (kColl 0x40 (Body.collUp m).msgLen false) fun s =>
    if s.isRidge then (if (s.port h.port).role = .child then s.ridgeUp h.port m else s.count CE_CNT_STRAY) else s := rfl
  rw [k, coll_frame _ _ _ _ hu hp, ← hr, if_pos ⟨hok, hce⟩, ← hz]
  obtain ⟨ns1, ns2⟩ := port_no_src s z h.port hp
  have inG : ∀ (g : Group) (n : Nat), z.group n = some g → z.inGroup h.port n = g.ports.contains h.port := by
    intro g n hg
    unfold State.inGroup
    rw [hg]; dsimp only; rw [ns1, Bool.or_false]
  refine ⟨fun hh => by rw [if_neg (by rw [hh]; decide)], fun h1 h2 => by rw [if_pos h1, if_neg h2],
    fun h1 h2 => ⟨fun b hb hc => ?_, fun b c g hb hc hg => ?_, fun st rs hd hr1 hr2 => ?_, fun c g hd hc hg => ?_, fun g hd hc hg => ?_⟩⟩
  · rw [if_pos h1, if_pos h2]
    unfold State.ridgeUp State.ridgeMatch
    rw [hb]; dsimp only; rw [hc]
  · rw [if_pos h1, if_pos h2]
    have hm : z.ridgeUp h.port m = z.ridgeMatch h.port m b := by unfold State.ridgeUp; rw [hb]
    rw [hm]
    unfold State.ridgeMatch
    rw [hc]
    dsimp +zetaHave only
    rw [inG g _ hg, ns2]
    have key : ∀ x y : Ballot, x.sameKey x = true := fun x y => by unfold Ballot.sameKey; simp
    refine ⟨fun h3 => ?_, fun h3 h4 => ?_, fun h3 h4 h5 h6 => ?_⟩
    · rw [if_pos (by rw [Bool.eq_false_iff]; exact fun hh => h3 ((contains_iff _ _).mp hh))]
    · rw [if_neg (by rw [(contains_iff _ _).mpr h3]; decide), if_pos]
      rcases h4 with h | ⟨h, h'⟩
      · exact .inl h
      · exact .inr (by rw [if_neg h]; exact h')
    · have hne : c.ports2 ≠ [] := List.ne_nil_of_mem h6
      rw [if_neg (by rw [(contains_iff _ _).mpr h3]; decide), if_neg (by rw [h4, if_neg hne, h5]; simp), if_pos ((contains_iff _ _).mpr h6)]
  · rw [if_pos h1, if_pos h2]
    unfold State.ridgeUp State.ridgeReport
    rw [hd]
    dsimp +zetaHave only
    rw [if_pos ⟨hr1, hr2⟩]
  · rw [if_pos h1, if_pos h2]
    have hup : z.ridgeUp h.port m = if z.inGroup h.port c.par.group = false then z.count CE_CNT_STRAY
      else if sameParams c.par m.par = false then z.abortReq m.par.cid m.par.isn m.attempt z.home 0x06 (z.srcNum h.port)
      else if c.ports.contains h.port then z
      else (z.evt 20).afterFold (c.fold h.port m z.clk.ticks) := by
      unfold State.ridgeUp
      rcases hd with ⟨l, hl⟩ | ⟨b, hb⟩
      · rw [hl]; dsimp +zetaHave only; (rw [hc]) <;> rfl
      · rw [hb]; dsimp +zetaHave only; (rw [hc]) <;> rfl
    rw [hup, inG g _ hg, ns2]
    refine ⟨fun h3 => ?_, fun h3 h4 => ?_, fun h3 h4 h5 => ?_, fun c' h3 h4 h5 h6 h7 h8 => ?_⟩
    · rw [if_pos (by rw [Bool.eq_false_iff]; exact fun hh => h3 ((contains_iff _ _).mp hh))]
    · rw [if_neg (by rw [(contains_iff _ _).mpr h3]; decide), if_pos h4]
    · rw [if_neg (by rw [(contains_iff _ _).mpr h3]; decide), if_neg (by rw [h4]; decide), if_pos ((contains_iff _ _).mpr h5)]
    · rw [if_neg (by rw [(contains_iff _ _).mpr h3]; decide), if_neg (by rw [h4]; decide), if_neg (fun hh => h5 ((contains_iff _ _).mp hh))]
      have hfold : c.fold h.port m z.clk.ticks = c' := by
        rw [h6]
        unfold TreeCtr.fold
        rcases hd with ⟨l, hl⟩ | ⟨b, hb⟩
        · rw [(h7 l hl).1, (h7 l hl).2, hl]; rfl
        · rw [(h8 b hb).1, (h8 b hb).2, hb]
      rw [hfold]
      have hg' : (z.evt 20).group c'.par.group = some g := by rw [h6]; exact hg
      have gs : (z.evt 20).allDelivered g c'.ports = z.allDelivered g c'.ports := rfl
      unfold State.afterFold
      rw [hg']
      dsimp only
      rw [gs]
      refine ⟨fun ⟨p, hp1, hp2⟩ => ?_, fun up hup hall hroot => ?_, fun hall hroot hfo => ?_⟩
      · rw [if_neg (fun hh => hp2 ((allDelivered_iff _ _ _).mp hh p hp1))]
      · have hnr : ¬ ((z.evt 20).isRoot = true ∧ (z.evt 20).follower = false) := by
          rintro ⟨a, b⟩
          have a : z.isRoot = true := a
          have b : z.follower = false := b
          rcases hroot with h | h
          · exact absurd (a.symm.trans h) (by decide)
          · exact absurd (b.symm.trans h) (by decide)
        rw [if_pos ((allDelivered_iff _ _ _).mpr hall), if_neg hnr]
        unfold State.sendUp State.sendHome
        dsimp +zetaHave only
        rw [← hup]
        have hf : ((z.evt 20).putCtr { c' with sentUp := true }).follower = z.follower := rfl
        have hh : ((z.evt 20).putCtr { c' with sentUp := true }).homeUplink = z.homeUplink := rfl
        rw [hf, hh]
        refine ⟨fun h1 => by rw [if_pos h1], fun h1 hq => by rw [if_neg (by rw [h1]; decide), hq], fun q h1 hq => by rw [if_neg (by rw [h1]; decide), hq]⟩
      · rw [if_pos ((allDelivered_iff _ _ _).mpr hall), if_pos ⟨hroot, hfo⟩]
  · rw [if_pos h1, if_pos h2]
    have hup : z.ridgeUp h.port m = if z.inGroup h.port m.par.group = false then z.count CE_CNT_STRAY
      else if (z.isRoot && z.isClosed m.par.cid m.par.isn) = true then z
      else if z.ctrFree (newCtr m) = false then (z.raise 22).abortReq m.par.cid m.par.isn m.attempt z.home 0x08 (z.srcNum h.port)
      else (z.evt 20).afterFold ((newCtr m).fold h.port m z.clk.ticks) := by
      unfold State.ridgeUp
      rcases hd with ⟨l, hl⟩ | ⟨b, hb⟩
      · rw [hl]; dsimp +zetaHave only; rw [hc]
      · rw [hb]; dsimp +zetaHave only; rw [hc]
    rw [hup, inG g _ hg, ns2]
    have hcf : z.ctrFree (newCtr m) = true ↔ z.ce.ctrs.length < 262144 ∧ (m.par.lanes = 0 ∨ z.slotsUsed < 4096) ∧
        z.storeUsed [] + z.storeReserved + (newCtr m).reserve ≤ z.storeSize := by
      unfold State.ctrFree
      simp only [Bool.and_eq_true, Bool.or_eq_true, decide_eq_true_eq, and_assoc]
      rfl
    refine ⟨fun h3 => ?_, fun h3 h4 h5 => ?_, fun h3 h4 h5 => ?_, fun l h3 h4 h5 h6 h6' h7 h8 => ?_⟩
    · rw [if_pos (by rw [Bool.eq_false_iff]; exact fun hh => h3 ((contains_iff _ _).mp hh))]
    · rw [if_neg (by rw [(contains_iff _ _).mpr h3]; decide), if_pos (by rw [h4, h5]; rfl)]
    · rw [if_neg (by rw [(contains_iff _ _).mpr h3]; decide), if_neg (by rcases h4 with h | h <;> rw [h] <;> simp), if_pos]
      rw [Bool.eq_false_iff, Ne, hcf]
      rcases h5 with h | h | h <;> omega
    · rw [if_neg (by rw [(contains_iff _ _).mpr h3]; decide), if_neg (by rcases h4 with h | h <;> rw [h] <;> simp), if_neg (by rw [hcf.mpr ⟨h5, h6, h6'⟩]; decide)]
      have hf : (newCtr m).fold h.port m z.clk.ticks =
          { par := m.par, attempt := m.attempt, step := m.step, slot := decide (m.par.lanes ≠ 0), ports := [h.port], count := m.count, tick := z.clk.ticks, lanes := List.zipWith (foldLane m.par.op) (l.map fun _ => identityLane m.par.op) l } := by
        unfold TreeCtr.fold newCtr
        rw [h7]
        simp only [List.nil_append, Nat.zero_add]
        rfl
      rw [hf]
      have hg' : (z.evt 20).group m.par.group = some g := hg
      unfold State.afterFold
      dsimp only
      rw [hg']
      dsimp only
      rw [if_neg]
      intro hh
      obtain ⟨p, hp1, hp2⟩ := h8
      have := (allDelivered_iff _ _ _).mp hh p hp1
      simp at this
      exact hp2 this

/-- What the row COLL_DOWN_RECEIVE does (R287). -/
theorem exec_collDownReceive : (∀ (s z : State) (h : RxHead) (m : CollDown) (r : Rx), s.up = true → h.port < s.nPorts → r = s.rxZudar h (kColl 0x41 (Body.collDown m).msgLen false) →
    r.ok = true → r.s.ceOn = true → z = r.s.openGate 3 →
    (z.isEave = true → (z.handleOf m.par.cid = none → exec (.collDownReceive h m) s = .next z) ∧
      (∀ n hd i, z.handleOf m.par.cid = some (n, hd) → hd.inst m.par.isn = some i → (i.out.isSome = true ∨ m.attempt < i.attempt → exec (.collDownReceive h m) s = .next z) ∧
        (i.out = none → i.attempt ≤ m.attempt → serialRebuild z.sq.step m.step = none → exec (.collDownReceive h m) s = .next (z.count TD_CNT_RANGE)) ∧
        (∀ st, i.out = none → i.attempt ≤ m.attempt → serialRebuild z.sq.step m.step = some st → m.phase = 0 →
          exec (.collDownReceive h m) s = .next ((((z.toMembers (.down m)).setHandle n (some (hd.setInst
          { i with out := some { reason := 0, status := m.status, step := st, results := m.results } }))).count CE_CNT_DONE).evt 21)) ∧
        (∀ (b : Ballot) (c : Ballot) (st : Nat), i.data = .vote b → i.out = none → i.attempt ≤ m.attempt → serialRebuild z.sq.step m.step = some st → m.phase ≠ 0 → z.follower = false →
          c = { step := st % 2 ^ 32, digest := m.results.headD 0 } → exec (.collDownReceive h m) s = .next ((z.setHandle n (some (hd.setInst { i with cand := some c }))).xsend h.port
          (.collUp { par := hd.params i.isn, attempt := m.attempt, count := 1, step := i.step, data := .matched { c with count := if b.step = c.step ∧ b.digest = c.digest then 1 else 0 } }))))) ∧
    (z.isEave = false → (z.isRoot = true ∨ (z.port h.port).role ≠ .homeUp → exec (.collDownReceive h m) s = .next z) ∧
      (∀ y, z.isRoot = false → (z.port h.port).role = .homeUp → m.phase = 0 → y = { z with ce := { z.ce with
          ctrs := z.ce.ctrs.filter fun c => ¬ (c.par.cid = m.par.cid ∧ c.par.isn = m.par.isn ∧ c.attempt ≤ 3)
          moves := z.ce.moves.filter fun x => ¬ (x.m.cid = m.par.cid ∧ x.m.isn = m.par.isn) } } →
        exec (.collDownReceive h m) s = .next ((((y.xsendAll (z.groupPorts m.par.group) (.collDown m)).toMembers (.down m)).count CE_CNT_DONE).evt 21)) ∧
      (∀ y c, z.isRoot = false → (z.port h.port).role = .homeUp → m.phase ≠ 0 → y = (z.xsendAll (z.groupPorts m.par.group) (.collDown m)).toMembers (.down m) →
        y.ctr m.par.cid m.par.isn m.attempt = some c → exec (.collDownReceive h m) s = .next (y.putCtr { c with match2 := some { step := m.step, digest := m.results.headD 0 }, tick := y.clk.ticks })))) := by
  intro s z h m r hu hp hr hok hce hz
  have k : exec (.collDownReceive h m) s = s.atPort h.port fun s => s.collFrame h (kColl 0x41 (Body.collDown m).msgLen false) fun s =>
    if s.isEave then s.eaveDown h.port m else s.ridgeDown h.port m := rfl
  rw [k, coll_frame _ _ _ _ hu hp, ← hr, if_pos ⟨hok, hce⟩, ← hz]
  refine ⟨fun h1 => ?_, fun h1 => ?_⟩
  · rw [if_pos h1]
    unfold State.eaveDown
    refine ⟨fun h2 => by rw [h2], fun n hd i h2 h3 => ?_⟩
    rw [h2]
    dsimp only
    rw [h3]
    dsimp only
    have go : i.out = none → i.attempt ≤ m.attempt → ¬ (i.out.isSome = true ∨ m.attempt < i.attempt) := by
      intro h4 h5; rw [h4]; rintro (h | h); exact absurd h (by decide); omega
    refine ⟨fun h4 => by rw [if_pos h4], fun h4 h5 h6 => by rw [if_neg (go h4 h5), h6], fun st h4 h5 hs h6 => ?_, fun b c st hb h4 h5 hs h6 hf hc => ?_⟩
    · rw [if_neg (go h4 h5), hs]; dsimp only; rw [if_pos h6]; rfl
    · rw [if_neg (go h4 h5), hs]; dsimp only
      rw [if_neg h6, if_neg (by rw [hf]; decide), hb]
      dsimp +zetaHave only
      rw [← hc]
      have : bnat (b.sameKey c) = if b.step = c.step ∧ b.digest = c.digest then 1 else 0 := by
        unfold Ballot.sameKey bnat
        by_cases a : b.step = c.step <;> by_cases d : b.digest = c.digest <;> simp [a, d]
      rw [this, hc]
  · rw [if_neg (by rw [h1]; decide)]
    unfold State.ridgeDown State.spreadDown
    refine ⟨fun h2 => by rw [if_pos h2], fun y h2 h3 h4 h5 => ?_, fun y c h2 h3 h4 h5 h6 => ?_⟩
    · rw [if_neg (by rintro (h | h); exact absurd (h.symm.trans h2) (by decide); exact h h3)]
      dsimp +zetaHave only
      rw [if_pos h4, h5]
      rfl
    · rw [if_neg (by rintro (h | h); exact absurd (h.symm.trans h2) (by decide); exact h h3)]
      dsimp +zetaHave only
      rw [if_neg h4, ← h5, h6]

theorem send_log (x : State) (n : Nat) (hd : Handle) (j : Inst) (p : Nat) (h1 : j.mism = false) (h2 : x.gang.inGang = false) (h3 : x.rafter (hd.domOf j.attempt) = some p)
    (h4 : ∀ w ∈ x.ce.gangWait, ¬ (w.2.par.cid = hd.cid ∧ w.2.par.isn = j.isn)) :
    x.sendLog n hd j = (x.setHandle n (some (hd.setInst { j with held := false, gathered := true }))).xsend p
      (.collUp { par := hd.params j.isn, attempt := j.attempt, count := 1, step := j.step, data := j.data }) := by
  unfold State.sendLog
  dsimp +zetaHave only
  have a1 : x.follower = false := by unfold State.follower; rw [h2]; rfl
  have a2 : x.gangComplete hd.cid j.isn = true := by unfold State.gangComplete; rw [h2]; rfl
  have a3 : (x.ce.gangWait.filter fun w => decide (w.2.par.cid = hd.cid ∧ w.2.par.isn = j.isn)) = [] := by
    rw [List.filter_eq_nil_iff]; intro w hw hh; exact h4 w hw (of_decide_eq_true hh)
  have a4 : (x.ce.gangWait.filter fun w => !decide (w.2.par.cid = hd.cid ∧ w.2.par.isn = j.isn)) = x.ce.gangWait := by
    rw [List.filter_eq_self]; intro w hw; rw [decide_eq_false (h4 w hw)]; rfl
  have ag : x.gather hd j = (x, { j with gathered := true }) := by
    unfold State.gather
    by_cases hg : j.gathered = true
    · rw [if_pos hg]
      have : j = { j with gathered := true } := by rw [← hg]
      rw [← this]
    · rw [if_neg hg]
      dsimp +zetaHave only
      rw [a3, a4, List.foldl_nil]
  rw [h1, if_neg (by decide), a1, if_neg (by decide), a2, if_neg (by simp), ag]
  dsimp only
  rw [h3, h1]

/-- What the row COLL_MOVE_RECEIVE does (R303). -/
theorem exec_collMoveReceive : (∀ (s z : State) (h : RxHead) (m : CollMove) (r : Rx), s.up = true → h.port < s.nPorts → r = s.rxZudar h (kColl 0x42 44 true) →
    r.ok = true → r.s.ceOn = true → z = r.s.openGate 3 →
    (z.isEave = true → (z.handleOf m.cid = none → exec (.collMoveReceive h m) s = .next z) ∧
      (∀ n hd i, z.handleOf m.cid = some (n, hd) → hd.inst m.isn = some i → i.out = none →
        (m.attempt ≤ i.attempt → exec (.collMoveReceive h m) s = .next z) ∧
        (∀ p, i.attempt < m.attempt → i.mism = false → z.gang.inGang = false → z.rafter (hd.domOf m.attempt) = some p → (∀ w ∈ z.ce.gangWait, ¬ (w.2.par.cid = hd.cid ∧ w.2.par.isn = i.isn)) →
          ∃ y : State, exec (.collMoveReceive h m) s = .next (y.xsend p (.collUp { par := hd.params i.isn, attempt := m.attempt, count := 1, step := i.step, data := i.data })) ∧
            y = ((z.count CE_CNT_MOVE).evt 23).setHandle n (some (hd.setInst { i with attempt := m.attempt, tick := z.clk.ticks, held := false, asked := false, cand := none, gathered := true })))) ∧
      (∀ n hd, z.handleOf m.cid = some (n, hd) → hd.inst m.isn = none → hd.isn ≤ m.isn → exec (.collMoveReceive h m) s =
        .next ((((z.toMembers (.move m)).count CE_CNT_MOVE).evt 23).setHandle n (some { hd with early := (m.isn, m.attempt) :: hd.early.filter fun e => e.1 ≠ m.isn })))) ∧
    (z.isEave = false → (z.fromAbove h.port = false ∨ (∃ x ∈ z.ce.moves, x.m.cid = m.cid ∧ x.m.isn = m.isn ∧ m.attempt ≤ x.m.attempt) → exec (.collMoveReceive h m) s = .next z) ∧
      (z.fromAbove h.port = true → (∀ x ∈ z.ce.moves, ¬ (x.m.cid = m.cid ∧ x.m.isn = m.isn ∧ m.attempt ≤ x.m.attempt)) →
        ∃ y : State, exec (.collMoveReceive h m) s = .next ((((y.xsendAll z.liveChildren (.collMove m)).toMembers (.move m)).count CE_CNT_MOVE).evt 23) ∧ y = { z with ce := { z.ce with
          ctrs := z.ce.ctrs.filter fun c => ¬ (c.par.cid = m.cid ∧ c.par.isn = m.isn ∧ c.attempt ≤ m.attempt - 1)
          moves := { m := m, group := (z.ce.ctrs.find? fun c => c.par.cid = m.cid ∧ c.par.isn = m.isn).map (fun c => c.par.group), own := z.isAuthority m.dom && !z.follower, tick := z.clk.ticks, ports := z.liveChildren } :: z.ce.moves.filter fun x => ¬ (x.m.cid = m.cid ∧ x.m.isn = m.isn) } }))) := by
  intro s z h m r hu hp hr hok hce hz
  have k : exec (.collMoveReceive h m) s = s.atPort h.port fun s => s.collFrame h (kColl 0x42 44 true) fun s =>
    if s.isEave then s.eaveMove m else s.ridgeMove h.port m := rfl
  rw [k, coll_frame _ _ _ _ hu hp, ← hr, if_pos ⟨hok, hce⟩, ← hz]
  refine ⟨fun h1 => ?_, fun h1 => ?_⟩
  · rw [if_pos h1]
    unfold State.eaveMove
    refine ⟨fun h2 => by rw [h2], fun n hd i h2 h3 h4 => ?_, fun n hd h2 h3 h4 => ?_⟩
    · rw [h2]
      dsimp +zetaHave only
      rw [h3]
      dsimp only
      rw [h4]
      dsimp only
      refine ⟨fun h5 => by rw [if_pos h5], fun p h5 h6 h7 h8 h9 => ?_⟩
      have tm : z.toMembers (.move m) = z := by unfold State.toMembers; rw [h7]; rfl
      have fo : ((z.count CE_CNT_MOVE).evt 23).follower = false := by
        show z.follower = false
        unfold State.follower; rw [h7]; rfl
      rw [if_neg (by omega), tm, if_neg (by rw [fo]; decide), if_neg (by rw [h6]; decide)]
      have e := send_log ((z.count CE_CNT_MOVE).evt 23) n hd (i.moved m.attempt z.clk.ticks) p h6 h7 h8 h9
      rw [e]
      exact ⟨_, rfl, by unfold Inst.moved; dsimp only; rw [h4]⟩
    · rw [h2]
      dsimp +zetaHave only
      rw [h3]
      dsimp only
      rw [if_pos h4]
  · rw [if_neg (by rw [h1]; decide)]
    unfold State.ridgeMove State.spreadMove
    have hany : (z.ce.moves.any fun r => decide (r.m.cid = m.cid ∧ r.m.isn = m.isn ∧ m.attempt ≤ r.m.attempt)) = true ↔ ∃ x ∈ z.ce.moves, x.m.cid = m.cid ∧ x.m.isn = m.isn ∧ m.attempt ≤ x.m.attempt := by
      rw [List.any_eq_true]; simp only [decide_eq_true_eq]
    refine ⟨fun h2 => ?_, fun h2 h3 => ?_⟩
    · by_cases hf : z.fromAbove h.port = false
      · rw [if_pos hf]
      · rw [if_neg hf]
        dsimp +zetaHave only
        rw [if_pos (hany.mpr (h2.resolve_left hf))]
    · rw [if_neg (by rw [h2]; decide)]
      dsimp +zetaHave only
      rw [if_neg (fun hh => by obtain ⟨x, hx, hh⟩ := hany.mp hh; exact h3 x hx hh)]
      generalize hx : (z.dropCtrs m.cid m.isn (m.attempt - 1)).dropMoves m.cid m.isn = x
      have x1 : x = { z with ce := x.ce } ∧ x.ce = { z.ce with ctrs := z.ce.ctrs.filter fun c => ¬ (c.par.cid = m.cid ∧ c.par.isn = m.isn ∧ c.attempt ≤ m.attempt - 1), moves := z.ce.moves.filter fun x => ¬ (x.m.cid = m.cid ∧ x.m.isn = m.isn) } := by
        rw [← hx]; exact ⟨rfl, rfl⟩
      have x2 : x.liveChildren = z.liveChildren ∧ x.isAuthority m.dom = z.isAuthority m.dom ∧ x.clk = z.clk ∧ x.follower = z.follower := by rw [x1.1]; exact ⟨rfl, rfl, rfl, rfl⟩
      rw [x2.1, x2.2.1, x2.2.2.1, x2.2.2.2]
      refine ⟨_, rfl, ?_⟩
      rw [x1.2]
      rw [x1.1]

/-- What the row COLL_ABORT_RECEIVE does (R300). -/
theorem exec_collAbortReceive : (∀ (s z : State) (h : RxHead) (m : CollAbort) (r : Rx) (l : AbortRec), s.up = true → h.port < s.nPorts → r = s.rxZudar h (kColl 0x43 44 true) →
    r.ok = true → r.s.ceOn = true → z = r.s.openGate 3 → l = { cid := m.cid, isn := m.isn, reason := m.reason, originId := m.origin.id, port := m.origin.port % 4096 } →
    (z.isEave = true → (z.handleOf m.cid = none → exec (.collAbortReceive h m) s = .next z) ∧
      (∀ n hd i, z.handleOf m.cid = some (n, hd) → hd.inst m.isn = some i → (i.out.isSome = true ∨ m.attempt < i.attempt → exec (.collAbortReceive h m) s = .next z) ∧
        (i.out = none → i.attempt ≤ m.attempt → ∃ y : State, exec (.collAbortReceive h m) s = .next ((State.count { y with ce := { y.ce with last := l } } CE_CNT_ABORT).evt 22) ∧
          y = (z.toMembers (.abort m)).setHandle n (some (hd.setInst { i with out := some { reason := m.reason } }))))) ∧
    (z.isEave = false → (z.fromAbove h.port = false → exec (.collAbortReceive h m) s = .next z) ∧
      (z.fromAbove h.port = true → ∃ y : State, exec (.collAbortReceive h m) s = .next ((((y.xsendAll z.liveChildren (.collAbort m)).toMembers (.abort m)).count CE_CNT_ABORT).evt 22) ∧ y = { z with ce := { z.ce with
        ctrs := z.ce.ctrs.filter fun c => ¬ (c.par.cid = m.cid ∧ c.par.isn = m.isn ∧ c.attempt ≤ 3)
        moves := z.ce.moves.filter fun x => ¬ (x.m.cid = m.cid ∧ x.m.isn = m.isn)
        last := l, closed := if z.isRoot then (m.cid, m.isn, z.clk.ticks) :: z.ce.closed else z.ce.closed } }))) := by
  rintro s z h m r l hu hp hr hok hce hz rfl
  have k : exec (.collAbortReceive h m) s = s.atPort h.port fun s => s.collFrame h (kColl 0x43 44 true) fun s =>
    if s.isEave then s.eaveAbort m else s.ridgeAbort h.port m := rfl
  rw [k, coll_frame _ _ _ _ hu hp, ← hr, if_pos ⟨hok, hce⟩, ← hz]
  refine ⟨fun h1 => ?_, fun h1 => ?_⟩
  · rw [if_pos h1]
    unfold State.eaveAbort
    refine ⟨fun h2 => by rw [h2], fun n hd i h2 h3 => ?_⟩
    rw [h2]
    dsimp only
    rw [h3]
    dsimp only
    refine ⟨fun h4 => by rw [if_pos h4], fun h4 h5 => ?_⟩
    rw [if_neg (by rw [h4]; rintro (h | h); exact absurd h (by decide); omega)]
    exact ⟨_, rfl, rfl⟩
  · rw [if_neg (by rw [h1]; decide)]
    unfold State.ridgeAbort State.spreadAbort
    refine ⟨fun h2 => by rw [if_pos h2], fun h2 => ?_⟩
    rw [if_neg (by rw [h2]; decide)]
    dsimp +zetaHave only
    generalize hx : ((z.dropCtrs m.cid m.isn 3).dropMoves m.cid m.isn).noteAbort m = x
    have x1 : x = { z with ce := x.ce } ∧ x.ce = { z.ce with ctrs := z.ce.ctrs.filter fun c => ¬ (c.par.cid = m.cid ∧ c.par.isn = m.isn ∧ c.attempt ≤ 3), moves := z.ce.moves.filter fun x => ¬ (x.m.cid = m.cid ∧ x.m.isn = m.isn), last := { cid := m.cid, isn := m.isn, reason := m.reason, originId := m.origin.id, port := m.origin.port % 4096 } } := by
      rw [← hx]; exact ⟨rfl, rfl⟩
    have x2 : x.isRoot = z.isRoot := by rw [x1.1]; rfl
    rw [x2]
    have live : ∀ y : State, y.ports = z.ports → y.ties = z.ties → y.gang = z.gang → y.liveChildren = z.liveChildren := fun y h1 h2 h3 => role_same z y h1 h2 h3 _
    by_cases hq : z.isRoot = true
    · rw [if_pos hq, live (x.close m.cid m.isn) (by show x.ports = _; rw [x1.1]) (by show x.ties = _; rw [x1.1]) (by show x.gang = _; rw [x1.1]), if_pos hq]
      refine ⟨_, rfl, ?_⟩
      have : x.close m.cid m.isn = { x with ce := { x.ce with closed := (m.cid, m.isn, x.clk.ticks) :: x.ce.closed } } := rfl
      rw [this, x1.2]
      rw [x1.1]
    · rw [if_neg hq, live x (by rw [x1.1]) (by rw [x1.1]) (by rw [x1.1]), if_neg hq]
      refine ⟨_, rfl, ?_⟩
      rw [x1.1, x1.2]

/-- What the row COLL_REQ_RECEIVE does (R302). -/
theorem exec_collReqReceive : (∀ (s z : State) (h : RxHead) (q : CollReq) (r : Rx) (o : Origin), s.up = true → h.port < s.nPorts → r = s.rxZudar h (kColl 0x44 52 true) →
    r.ok = true → r.s.ceOn = true → z = r.s.openGate 3 → o = { id := q.originId, port := q.port % 4096, onset := q.onset } →
    (z.isRidge = false → exec (.collReqReceive h q) s = .next z) ∧
    (z.isRidge = true → z.follower = true → exec (.collReqReceive h q) s = .next (z.emit (.gangSend (.request q)))) ∧
    (z.isRidge = true → z.follower = false → z.isAuthority q.dom = false → (z.reqPort q.dom = none → exec (.collReqReceive h q) s = .next z) ∧
      (∀ p, z.reqPort q.dom = some p → exec (.collReqReceive h q) s = .next (z.xsend p (.collReq q)))) ∧
    (z.isRidge = true → z.follower = false → z.isAuthority q.dom = true → (q.rtype = 0 ∨ q.cid ≠ 0 ∨ q.isn ≠ 0) →
      (z.isClosed q.cid q.isn = true ∨ (∃ x ∈ z.ce.moves, x.m.cid = q.cid ∧ x.m.isn = q.isn ∧ q.attempt < x.m.attempt) → exec (.collReqReceive h q) s = .next z) ∧
      (z.isClosed q.cid q.isn = false → (∀ x ∈ z.ce.moves, ¬ (x.m.cid = q.cid ∧ x.m.isn = q.isn ∧ q.attempt < x.m.attempt)) →
        (q.rtype = 0 → exec (.collReqReceive h q) s = .next (z.rootAbort q.cid q.isn q.attempt q.reason o)) ∧
        (q.rtype ≠ 0 → collMove q.cid = false → exec (.collReqReceive h q) s = .next (z.rootAbort q.cid q.isn q.attempt 0x03 o)) ∧
        (q.rtype ≠ 0 → collMove q.cid = true → 3 ≤ q.attempt → exec (.collReqReceive h q) s = .next (z.rootAbort q.cid q.isn q.attempt 0x04 o)) ∧
        (q.rtype ≠ 0 → collMove q.cid = true → q.attempt < 3 → exec (.collReqReceive h q) s = .next (z.rootMove q.cid q.isn q.attempt
          ((z.ce.ctrs.find? fun c => c.par.cid = q.cid ∧ c.par.isn = q.isn).map fun c => c.par.group) o))))) := by
  rintro s z h q r o hu hp hr hok hce hz rfl
  have k : exec (.collReqReceive h q) s = s.atPort h.port fun s => s.collFrame h (kColl 0x44 52 true) fun s => if s.isRidge then s.routeReq q else s := rfl
  rw [k, coll_frame _ _ _ _ hu hp, ← hr, if_pos ⟨hok, hce⟩, ← hz]
  refine ⟨fun h1 => by rw [if_neg (by rw [h1]; decide)], fun h1 h0 => by rw [if_pos h1]; unfold State.routeReq; rw [if_pos h0], fun h1 h0 h2 => ?_, fun h1 h0 h2 h3 => ?_⟩
  · rw [if_pos h1]
    unfold State.routeReq
    rw [if_neg (by rw [h0]; decide), if_neg (by rw [h2]; decide)]
    exact ⟨fun h3 => by rw [h3], fun p h3 => by rw [h3]⟩
  · rw [if_pos h1]
    unfold State.routeReq
    rw [if_neg (by rw [h0]; decide), if_pos h2]
    have hany : (z.ce.moves.any fun r => decide (r.m.cid = q.cid ∧ r.m.isn = q.isn ∧ q.attempt < r.m.attempt)) = true ↔ ∃ x ∈ z.ce.moves, x.m.cid = q.cid ∧ x.m.isn = q.isn ∧ q.attempt < x.m.attempt := by
      rw [List.any_eq_true]; simp only [decide_eq_true_eq]
    have hreq : z.rootRequest q = if z.isClosed q.cid q.isn = true ∨ (z.ce.moves.any fun r => decide (r.m.cid = q.cid ∧ r.m.isn = q.isn ∧ q.attempt < r.m.attempt)) = true then z
        else if q.rtype = 0 then z.rootAbort q.cid q.isn q.attempt q.reason { id := q.originId, port := q.port % 4096, onset := q.onset }
        else z.pathDecision q.cid q.isn q.attempt ((z.ce.ctrs.find? fun c => c.par.cid = q.cid ∧ c.par.isn = q.isn).map fun c => c.par.group) { id := q.originId, port := q.port % 4096, onset := q.onset } := by
      unfold State.rootRequest
      dsimp +zetaHave only
      by_cases h0 : q.rtype = 0
      · rw [if_pos h0, if_pos h0]
      · rw [if_neg h0, if_neg h0, if_pos (h3.resolve_left h0)]
    rw [hreq]
    refine ⟨fun h4 => ?_, fun h4 h5 => ?_⟩
    · rw [if_pos (h4.imp id hany.mpr)]
    · rw [if_neg]
      · refine ⟨fun h6 => by rw [if_pos h6], fun h6 h7 => ?_, fun h6 h7 h8 => ?_, fun h6 h7 h8 => ?_⟩
        · rw [if_neg h6]; unfold State.pathDecision; rw [if_neg (by rw [h7]; decide)]
        · rw [if_neg h6]; unfold State.pathDecision; rw [if_pos h7, if_neg (by omega)]
        · rw [if_neg h6]; unfold State.pathDecision; rw [if_pos h7, if_pos h8]
      · rintro (h | h)
        · exact absurd (h.symm.trans h4) (by decide)
        · obtain ⟨x, hx, hh⟩ := hany.mp h; exact h5 x hx hh

end Sys2Proof.Machine
end

