-- ==== Sys2Proof/Laws/RowsFrames.lean ====
section
/-! SUPPORT. Sys2Proof/Laws/RowsFrames.lean: received frames. -/

set_option linter.all false
set_option Elab.async false

namespace Sys2Proof.Machine
open Sys2Proof Sys2Proof.Config

/-- Delivery of a frame on a port that is up. -/
theorem begin_up (s : State) (h : RxBase) (proto : Bool) (seq typ : Nat) (x : Bool) (hu : s.isUp h.port = true) :
    (s.rxBegin h proto seq typ x).s.wire = s.wire ∧ (∀ q, q ≠ h.port → (s.rxBegin h proto seq typ x).s.port q = s.port q) ∧
    (s.rxBegin h proto seq typ x).s.counter (PF_CNT_RX h.port) = (s.counter (PF_CNT_RX h.port) + 1) % 2 ^ 32 ∧
    ((s.port h.port).rpl.held ≠ some (h.mark % 16) → (∃ f g, (s.rxBegin h proto seq typ x).s.port h.port = { s.port h.port with
      marks := (((s.atCyc h.cyc).claimMark h.port h.mark).1.port h.port).marks, fifo := f, lastLog := g }) ∧
    (s.rxBegin h proto seq typ x).stamp = ((s.atCyc h.cyc).claimMark h.port h.mark).2 ∧
    (∀ o, o ≠ PF_LOG_DROP → o ≠ PF_CNT_MISS h.port → o ≠ PF_CNT_FIFO_OVF h.port → (s.rxBegin h proto seq typ x).s.counter o =
      (s.counter o + (if o = PF_CNT_RX h.port then 1 else 0) + (if o = PF_CNT_DROP h.port ∧ (h.tagged || h.tooLong || h.incomplete) = true then 1 else 0)) % 2 ^ 32) ∧
    (s.rxBegin h proto seq typ x).ok = (!(h.tagged || h.tooLong || h.incomplete) &&
      !(decide ((s.port h.port).health = .retired) && !(proto && decide (typ = 0x06))))) := by
  have wire0 : (s.rxBegin h proto seq typ x).s.wire = s.wire := State.rxBegin_wire _ _ _ _ _ _
  refine ⟨wire0, ?_⟩
  unfold State.rxBegin
  rw [if_neg (by rw [hu]; decide)]
  dsimp +zetaHave only
  generalize hb : (if ((((s.atCyc h.cyc).count (PF_CNT_RX h.port)).evt 11).isRidge) = true then
    (((s.atCyc h.cyc).count (PF_CNT_RX h.port)).evt 11).evt (32 + h.port / 16) else ((s.atCyc h.cyc).count (PF_CNT_RX h.port)).evt 11) = b
  have b1 : b.ports = s.ports := by rw [← hb]; split <;> rfl
  have b2 : b.cnt = ((s.atCyc h.cyc).count (PF_CNT_RX h.port)).cnt := by rw [← hb]; split <;> rfl
  have hcl : (b.claimMark h.port h.mark).1.ports = ((s.atCyc h.cyc).claimMark h.port h.mark).1.ports ∧
      (b.claimMark h.port h.mark).2 = ((s.atCyc h.cyc).claimMark h.port h.mark).2 ∧ (b.claimMark h.port h.mark).1.cnt = b.cnt := by
    have hpp : ∀ q, b.port q = (s.atCyc h.cyc).port q := fun q => by unfold State.port; rw [b1]; rfl
    have hps : ∀ v, (b.setPort h.port v).ports = ((s.atCyc h.cyc).setPort h.port v).ports := fun v => by unfold State.setPort; dsimp only; rw [b1]; rfl
    unfold State.claimMark
    dsimp +zetaHave only
    rw [hpp]
    split
    · exact ⟨hps _, rfl, rfl⟩
    · split
      · exact ⟨hps _, rfl, rfl⟩
      · exact ⟨b1, rfl, rfl⟩
  obtain ⟨⟨mk, c1⟩, c2, c3⟩ := claim_port (s.atCyc h.cyc) h.port h.mark
  generalize hcm : b.claimMark h.port h.mark = cm at hcl
  obtain ⟨m1, m2, m3⟩ := hcl
  have mp : ∀ q, cm.1.port q = ((s.atCyc h.cyc).claimMark h.port h.mark).1.port q := fun q => port_ports m1 q
  have c1' : ((s.atCyc h.cyc).claimMark h.port h.mark).1.port h.port = { s.port h.port with marks := mk } := c1
  obtain ⟨⟨f, g, s1⟩, s2, s3, s4⟩ := stamp_ports cm.1 h.port false proto seq typ x cm.2.bad false (some cm.2.t) cm.2.cgen
  have sc := stamp_counter cm.1 h.port false proto seq typ x cm.2.bad false (some cm.2.t) cm.2.cgen
  generalize cm.1.stampRecord h.port false proto seq typ x cm.2.bad false (some cm.2.t) cm.2.cgen = y at s1 s2 s3 s4 sc
  have yp : y.port h.port = { s.port h.port with marks := (((s.atCyc h.cyc).claimMark h.port h.mark).1.port h.port).marks, fifo := f, lastLog := g } := by
    rw [s1, mp, c1']
  have yq : ∀ q, q ≠ h.port → y.port q = s.port q := fun q hq => by rw [s2 q hq, mp, c2 q hq]; rfl
  have yc : ∀ o, o ≠ PF_LOG_DROP → o ≠ PF_CNT_MISS h.port → o ≠ PF_CNT_FIFO_OVF h.port → y.counter o = (s.counter o + if o = PF_CNT_RX h.port then 1 else 0) % 2 ^ 32 := by
    intro o o1 o2 o3
    have hlt : s.counter o < 2 ^ 32 := (s.cnt.get 0 o).isLt
    rw [sc o o1 o2 o3, counter_cnt (m3.trans b2), counter_one]
    show (if o = PF_CNT_RX h.port then (s.counter o + 1) % 2 ^ 32 else s.counter o) = _
    split
    · rfl
    · rw [Nat.add_zero, Nat.mod_eq_of_lt hlt]
  have yh : (y.port h.port).health = (s.port h.port).health := by rw [yp]
  have rx : ∀ o, o < 0x10000 → PF_CNT_RX h.port ≠ o := by
    intro o ho; show 0x10000 + h.port * 0x400 + 0x080 ≠ o; omega
  have rxp : ∀ k, k < 0x400 → k ≠ 0x080 → PF_CNT_RX h.port ≠ 0x10000 + h.port * 0x400 + k := by
    intro k hk hn; show 0x10000 + h.port * 0x400 + 0x080 ≠ _; omega
  have gk : ∀ u : State, (∀ q, q ≠ h.port → u.port q = s.port q) → u.counter (PF_CNT_RX h.port) = (s.counter (PF_CNT_RX h.port) + 1) % 2 ^ 32 →
      (∀ q, q ≠ h.port → (u.heldGone h.port h.mark).port q = s.port q) ∧
      (u.heldGone h.port h.mark).counter (PF_CNT_RX h.port) = (s.counter (PF_CNT_RX h.port) + 1) % 2 ^ 32 := by
    intro u u1 u2
    exact ⟨fun q hq => (gone_other _ _ _ _ hq).trans (u1 q hq),
      (gone_counter _ _ _ _ (rx _ (by decide)) (rx _ (by decide)) (rxp 0x0A0 (by decide) (by decide))).trans u2⟩
  have yr : y.counter (PF_CNT_RX h.port) = (s.counter (PF_CNT_RX h.port) + 1) % 2 ^ 32 := by
    have h1 : PF_CNT_RX h.port ≠ PF_LOG_DROP := by
      show 0x10000 + h.port * 0x400 + 0x080 ≠ 0x10314; omega
    rw [yc _ h1 (rxp 0x088 (by decide) (by decide)) (rxp 0x0B0 (by decide) (by decide)), if_pos rfl]
  have wk : (∀ q, q ≠ h.port → (if proto = true then y else y.heldGone h.port h.mark).port q = s.port q) ∧
      (if proto = true then y else y.heldGone h.port h.mark).counter (PF_CNT_RX h.port) = (s.counter (PF_CNT_RX h.port) + 1) % 2 ^ 32 := by
    split
    · exact ⟨yq, yr⟩
    · exact gk y yq yr
  have hgw : (s.port h.port).rpl.held ≠ some (h.mark % 16) → (if proto = true then y else y.heldGone h.port h.mark) = y ∧ y.heldGone h.port h.mark = y := by
    intro hg
    have : y.heldGone h.port h.mark = y := gone_none _ _ _ (by rw [yp]; exact hg)
    rw [this]; exact ⟨by split <;> rfl, rfl⟩
  generalize (if proto = true then y else y.heldGone h.port h.mark) = w at wk hgw
  obtain ⟨wk1, wk2⟩ := wk
  by_cases hd : (h.tagged || h.tooLong || h.incomplete) = true
  · rw [if_pos hd, hd]
    refine ⟨(gk w wk1 wk2).1, (count_other _ _ _ (rxp 0x094 (by decide) (by decide)) 1).trans (gk w wk1 wk2).2, fun hg => ?_⟩
    rw [(hgw hg).1, (hgw hg).2]
    refine ⟨⟨f, g, yp⟩, m2, ?_, rfl⟩
    intro o o1 o2 o3
    show (y.count (PF_CNT_DROP h.port)).counter o = _
    rw [counter_one, yc o o1 o2 o3]
    by_cases e : o = PF_CNT_DROP h.port
    · rw [if_pos e, if_pos (c := o = PF_CNT_DROP h.port ∧ true = true) ⟨e, rfl⟩]; exact Nat.mod_add_mod _ _ _
    · rw [if_neg e, if_neg (c := o = PF_CNT_DROP h.port ∧ true = true) (fun hh => e hh.1), Nat.add_zero]
  · rw [if_neg hd]
    have hd' : (h.tagged || h.tooLong || h.incomplete) = false := by simpa using hd
    rw [hd']
    have cf : ∀ o, o ≠ PF_LOG_DROP → o ≠ PF_CNT_MISS h.port → o ≠ PF_CNT_FIFO_OVF h.port → y.counter o =
        (s.counter o + (if o = PF_CNT_RX h.port then 1 else 0) + (if o = PF_CNT_DROP h.port ∧ false = true then 1 else 0)) % 2 ^ 32 := by
      intro o o1 o2 o3
      rw [yc o o1 o2 o3, if_neg (c := o = PF_CNT_DROP h.port ∧ false = true) (fun hh => absurd hh.2 (by decide)), Nat.add_zero]
    refine ⟨?_, ?_, fun hg => ?_⟩
    · split <;> exact wk1
    · split <;> exact wk2
    rw [(hgw hg).1, yh]
    by_cases hr : (s.port h.port).health = .retired ∧ ¬ (proto = true ∧ typ = 0x06)
    · rw [if_pos hr]
      refine ⟨⟨f, g, yp⟩, m2, cf, ?_⟩
      have : (proto && decide (typ = 6)) = false := by
        cases hp : proto
        · rfl
        · have : ¬ typ = 6 := fun e => hr.2 ⟨hp, e⟩
          rw [decide_eq_false this]; rfl
      rw [hr.1, this]; rfl
    · rw [if_neg hr]
      refine ⟨⟨f, g, yp⟩, m2, cf, ?_⟩
      show true = _
      by_cases h1 : (s.port h.port).health = .retired
      · have h2 : proto = true ∧ typ = 0x06 := Classical.not_not.mp fun e => hr ⟨h1, e⟩
        rw [h2.1, h2.2]; simp
      · rw [decide_eq_false h1]; rfl

theorem refill_keep (s : State) (p : Nat) : (∀ q, q ≠ p → (s.refill p).port q = s.port q) ∧ (s.refill p).counter = s.counter := by
  have one : ∀ u : State, (∀ q, q ≠ p → (u.refillC p).port q = u.port q) ∧ (u.refillC p).counter = u.counter := by
    intro u
    unfold State.refillC
    dsimp +zetaHave only
    split
    · split
      · exact ⟨fun q hq => setPort_other _ _ _ _ hq, rfl⟩
      · exact ⟨fun _ _ => rfl, rfl⟩
    · exact ⟨fun _ _ => rfl, rfl⟩
  have all : ∀ (l : List Nat) (u : State), (∀ q, q ≠ p → (u.each l fun s _ => s.refillC p).port q = u.port q) ∧
      (u.each l fun s _ => s.refillC p).counter = u.counter := by
    intro l
    induction l with
    | nil => exact fun u => ⟨fun _ _ => rfl, rfl⟩
    | cons a l ih =>
      intro u
      obtain ⟨i1, i2⟩ := ih (u.refillC p)
      obtain ⟨o1, o2⟩ := one u
      exact ⟨fun q hq => (i1 q hq).trans (o1 q hq), i2.trans o2⟩
  obtain ⟨a1, a2⟩ := all (List.range (s.port p).cWait.length) (s.refillX p)
  exact ⟨fun q hq => (a1 q hq).trans (setPort_other _ _ _ _ hq), a2⟩

theorem take_nothing (s : State) (p lack : Nat) (h : (s.port p).rpl.entries = []) : s.takeAck p lack = s := by
  unfold State.takeAck
  dsimp +zetaHave only
  rw [h]
  generalize (lack + 256 - (s.port p).rpl.ackSeq) % 256 = k
  rw [if_pos]
  cases k with
  | zero => exact .inl rfl
  | succ k => exact .inr (Nat.succ_pos k)

/-- What the rows ZUDAR_RESERVED_TYPE, PTP_OTHER_RECEIVE do (R12, R103). -/
theorem exec_zudarReservedType_ptpOtherReceive :
    (∀ (s : State) (h : RxHead) (q : PtpHead) (typ : Nat), s.up = true →
      ((s.nPorts ≤ h.port ∨ s.isUp h.port = false) → exec (.zudarReservedType h typ) s = .next s) ∧
      ((s.nPorts ≤ q.port ∨ s.isUp q.port = false) → exec (.ptpOtherReceive q typ) s = .next s)) := by
  have kz : ∀ (s : State) (h : RxHead) (typ : Nat), exec (.zudarReservedType h typ) s = s.atPort h.port fun s =>
      if (s.rxZudar h { typ := typ, need := 24, identity := true, underlay := true }).ok = true then
        (s.rxZudar h { typ := typ, need := 24, identity := true, underlay := true }).s.count TD_CNT_MALFORMED
      else (s.rxZudar h { typ := typ, need := 24, identity := true, underlay := true }).s := fun _ _ _ => rfl
  have kp : ∀ (s : State) (h : PtpHead) (typ : Nat), exec (.ptpOtherReceive h typ) s = s.atPort h.port fun s =>
      if (s.rxBegin h.toRxBase false h.seq typ true).ok = true then (s.rxBegin h.toRxBase false h.seq typ true).s.count (PF_CNT_PTP_OTHER h.port)
      else (s.rxBegin h.toRxBase false h.seq typ true).s := fun _ _ _ => rfl
  have hdown : ∀ (s : State) (h : RxBase) (proto : Bool) (seq typ : Nat) (x : Bool), s.isUp h.port = false → s.rxBegin h proto seq typ x = .drop s ⟨0, 0, true⟩ := by
    intro s h proto seq typ x hh; unfold State.rxBegin; rw [if_pos hh]
  intro s h q typ hup
  refine ⟨?_, ?_⟩
  · intro hh
    rw [kz]; unfold State.atPort; rw [State.main_up hup]
    rcases hh with hh | hh
    · rw [if_neg (by omega)]
    · have : s.rxZudar h { typ := typ, need := 24, identity := true, underlay := true } = .drop s ⟨0, 0, true⟩ := by
        unfold State.rxZudar
        dsimp +zetaHave only
        rw [hdown _ _ _ _ _ _ hh]; rfl
      dsimp only
      rw [this]; split <;> rfl
  · intro hh
    rw [kp]; unfold State.atPort; rw [State.main_up hup]
    rcases hh with hh | hh
    · rw [if_neg (by omega)]
    · dsimp only; rw [hdown _ _ _ _ _ _ hh]; split <;> rfl

/-- What the row PTP_OTHER_RECEIVE does (R12). -/
theorem exec_ptpOtherReceive :
    (∀ (s : State) (h : PtpHead) (typ : Nat), s.up = true → h.port < s.nPorts → s.isUp h.port = true →
      ∃ t, exec (.ptpOtherReceive h typ) s = .next t ∧ t.wire = s.wire ∧ (∀ q, q ≠ h.port → t.port q = s.port q) ∧
        t.counter (PF_CNT_RX h.port) = (s.counter (PF_CNT_RX h.port) + 1) % 2 ^ 32 ∧
        ((s.port h.port).rpl.held ≠ some (h.mark % 16) → (∀ o, o < 0x10000 → t.counter o = s.counter o) ∧
        (t.port h.port).marks = (((s.atCyc h.cyc).claimMark h.port h.mark).1.port h.port).marks ∧ (t.port h.port).rpl = (s.port h.port).rpl ∧
        ((h.tagged || h.tooLong || h.incomplete) = true → t.counter (PF_CNT_DROP h.port) = (s.counter (PF_CNT_DROP h.port) + 1) % 2 ^ 32) ∧
        ((h.tagged || h.tooLong || h.incomplete) = false → (s.port h.port).health ≠ .retired →
          t.counter (PF_CNT_PTP_OTHER h.port) = (s.counter (PF_CNT_PTP_OTHER h.port) + 1) % 2 ^ 32))) := by
  have kp : ∀ (s : State) (h : PtpHead) (typ : Nat), exec (.ptpOtherReceive h typ) s = s.atPort h.port fun s =>
      if (s.rxBegin h.toRxBase false h.seq typ true).ok = true then (s.rxBegin h.toRxBase false h.seq typ true).s.count (PF_CNT_PTP_OTHER h.port)
      else (s.rxBegin h.toRxBase false h.seq typ true).s := fun _ _ _ => rfl
  have ho : ∀ p o, o < 0x10000 → o ≠ PF_LOG_DROP ∧ o ≠ PF_CNT_MISS p ∧ o ≠ PF_CNT_FIFO_OVF p ∧ o ≠ PF_CNT_RX p ∧ o ≠ PF_CNT_DROP p ∧ o ≠ PF_CNT_PTP_OTHER p := by
    intro p o h
    refine ⟨?_, ?_, ?_, ?_, ?_, ?_⟩
    · show o ≠ 0x10314; omega
    · show o ≠ 0x10000 + p * 0x400 + 0x088; omega
    · show o ≠ 0x10000 + p * 0x400 + 0x0B0; omega
    · show o ≠ 0x10000 + p * 0x400 + 0x080; omega
    · show o ≠ 0x10000 + p * 0x400 + 0x094; omega
    · show o ≠ 0x10000 + p * 0x400 + 0x098; omega
  have hrx : ∀ p, PF_CNT_RX p ≠ PF_LOG_DROP ∧ PF_CNT_RX p ≠ PF_CNT_MISS p ∧ PF_CNT_RX p ≠ PF_CNT_FIFO_OVF p ∧ PF_CNT_RX p ≠ PF_CNT_DROP p ∧ PF_CNT_RX p ≠ PF_CNT_PTP_OTHER p := by
    intro p
    refine ⟨?_, ?_, ?_, ?_, ?_⟩
    · show 0x10000 + p * 0x400 + 0x080 ≠ 0x10314; omega
    · show 0x10000 + p * 0x400 + 0x080 ≠ 0x10000 + p * 0x400 + 0x088; omega
    · show 0x10000 + p * 0x400 + 0x080 ≠ 0x10000 + p * 0x400 + 0x0B0; omega
    · show 0x10000 + p * 0x400 + 0x080 ≠ 0x10000 + p * 0x400 + 0x094; omega
    · show 0x10000 + p * 0x400 + 0x080 ≠ 0x10000 + p * 0x400 + 0x098; omega
  have hdr : ∀ p, PF_CNT_DROP p ≠ PF_LOG_DROP ∧ PF_CNT_DROP p ≠ PF_CNT_MISS p ∧ PF_CNT_DROP p ≠ PF_CNT_FIFO_OVF p ∧ PF_CNT_DROP p ≠ PF_CNT_PTP_OTHER p := by
    intro p
    refine ⟨?_, ?_, ?_, ?_⟩
    · show 0x10000 + p * 0x400 + 0x094 ≠ 0x10314; omega
    · show 0x10000 + p * 0x400 + 0x094 ≠ 0x10000 + p * 0x400 + 0x088; omega
    · show 0x10000 + p * 0x400 + 0x094 ≠ 0x10000 + p * 0x400 + 0x0B0; omega
    · show 0x10000 + p * 0x400 + 0x094 ≠ 0x10000 + p * 0x400 + 0x098; omega
  have hpo : ∀ p, PF_CNT_PTP_OTHER p ≠ PF_LOG_DROP ∧ PF_CNT_PTP_OTHER p ≠ PF_CNT_MISS p ∧ PF_CNT_PTP_OTHER p ≠ PF_CNT_FIFO_OVF p := by
    intro p
    refine ⟨?_, ?_, ?_⟩
    · show 0x10000 + p * 0x400 + 0x098 ≠ 0x10314; omega
    · show 0x10000 + p * 0x400 + 0x098 ≠ 0x10000 + p * 0x400 + 0x088; omega
    · show 0x10000 + p * 0x400 + 0x098 ≠ 0x10000 + p * 0x400 + 0x0B0; omega
  intro s h typ hup hp hu
  rw [kp, atPort_in hup hp]
  obtain ⟨b1, b2, brx, bh⟩ := begin_up s h.toRxBase false h.seq typ true hu
  generalize s.rxBegin h.toRxBase false h.seq typ true = r at b1 b2 brx bh
  refine ⟨_, rfl, ?_, ?_, ?_, fun hg => ?_⟩
  · split
    · exact (State.count_wire _ _ _).trans b1
    · exact b1
  · intro q hq; split
    · exact b2 q hq
    · exact b2 q hq
  · split
    · rw [count_other _ _ _ (hrx h.port).2.2.2.2]; exact brx
    · exact brx
  obtain ⟨⟨f, g, b3⟩, b4, b5, b6⟩ := bh hg
  have hlt : ∀ o, s.counter o < 2 ^ 32 := fun o => (s.cnt.get 0 o).isLt
  have cs : ∀ o, o < 0x10000 → r.s.counter o = s.counter o := by
    intro o h'
    obtain ⟨a1, a2, a3, a4, a5, _⟩ := ho h.port o h'
    rw [b5 o a1 a2 a3, if_neg a4, if_neg (fun hh => a5 hh.1), Nat.add_zero, Nat.mod_eq_of_lt (hlt o)]
  have crx : r.s.counter (PF_CNT_RX h.port) = (s.counter (PF_CNT_RX h.port) + 1) % 2 ^ 32 := by
    obtain ⟨a1, a2, a3, a4, _⟩ := hrx h.port
    rw [b5 _ a1 a2 a3, if_pos rfl, if_neg (fun hh => a4 hh.1)]
  have cdr : (h.tagged || h.tooLong || h.incomplete) = true → r.s.counter (PF_CNT_DROP h.port) = (s.counter (PF_CNT_DROP h.port) + 1) % 2 ^ 32 := by
    intro hh
    obtain ⟨a1, a2, a3, _⟩ := hdr h.port
    rw [b5 _ a1 a2 a3, if_neg (fun e => (hrx h.port).2.2.2.1 e.symm), if_pos ⟨rfl, hh⟩]
  have cpo : r.s.counter (PF_CNT_PTP_OTHER h.port) = s.counter (PF_CNT_PTP_OTHER h.port) := by
    obtain ⟨a1, a2, a3⟩ := hpo h.port
    rw [b5 _ a1 a2 a3, if_neg (fun e => (hrx h.port).2.2.2.2 e.symm), if_neg (fun hh => (hdr h.port).2.2.2 hh.1.symm), Nat.add_zero,
      Nat.mod_eq_of_lt (hlt _)]
  by_cases hok : r.ok = true
  · rw [if_pos hok]
    have hnd : (h.tagged || h.tooLong || h.incomplete) = false := by
      cases hh : (h.tagged || h.tooLong || h.incomplete) with
      | false => rfl
      | true => rw [b6, hh] at hok; exact absurd hok (by rw [Bool.not_true, Bool.false_and]; decide)
    refine ⟨?_, ?_, ?_, ?_, ?_⟩
    · intro o h'
      rw [count_other _ _ _ (ho h.port o h').2.2.2.2.2]; exact cs o h'
    · rw [count_port, b3]
    · rw [count_port, b3]
    · intro hh; rw [hnd] at hh; exact absurd hh (by decide)
    · intro _ _; rw [count_same, cpo]
  · rw [if_neg hok]
    refine ⟨cs, by rw [b3], by rw [b3], cdr, fun h1 h2 => absurd ?_ hok⟩
    rw [b6, h1, decide_eq_false h2]; rfl

/-- What the row ZUDAR_RESERVED_TYPE does (R103). -/
theorem exec_zudarReservedType :
    (∀ (s : State) (h : RxHead) (typ : Nat) (v : Port), s.up = true → h.port < s.nPorts → s.isUp h.port = true → v = s.port h.port →
      ∃ t, exec (.zudarReservedType h typ) s = .next t ∧ t.wire = s.wire ∧ (∀ q, q ≠ h.port → t.port q = s.port q) ∧
        t.counter (PF_CNT_RX h.port) = (s.counter (PF_CNT_RX h.port) + 1) % 2 ^ 32 ∧
        (v.rpl.held ≠ some (h.mark % 16) →
        ((h.tagged || h.tooLong || h.incomplete) = true → t.counter (PF_CNT_DROP h.port) = (s.counter (PF_CNT_DROP h.port) + 1) % 2 ^ 32) ∧
        ((h.tagged || h.tooLong || h.incomplete) = false → (v.health ≠ .retired ∨ typ = 0x06) →
          ((h.ver ≠ 2 ∨ h.len < 24 ∨ h.pastFcs = true) → t.counter TD_CNT_MALFORMED = (s.counter TD_CNT_MALFORMED + 1) % 2 ^ 32 ∧
            (t.port h.port).rpl = v.rpl) ∧
          (h.ver = 2 → 24 ≤ h.len → h.pastFcs = false →
            (h.dom ≠ v.dom → t.counter TD_CNT_DOMNUM = (s.counter TD_CNT_DOMNUM + 1) % 2 ^ 32 ∧ (t.port h.port).rpl = v.rpl) ∧
            (h.dom = v.dom → h.rpl = false → v.rpl.entries = [] → typ ≠ 0x04 →
              t.counter TD_CNT_MALFORMED = (s.counter TD_CNT_MALFORMED + 1) % 2 ^ 32 ∧ (t.port h.port).rpl = v.rpl) ∧
            (h.dom = v.dom → h.rpl = true → h.lseq = v.rpl.expect → v.rpl.expect < 256 → v.rpl.entries = [] →
              t.counter TD_CNT_MALFORMED = (s.counter TD_CNT_MALFORMED + 1) % 2 ^ 32 ∧
              (t.port h.port).rpl.expect = (v.rpl.expect + 1 + v.rpl.ahead) % 256 ∧
              (t.port h.port).rpl.unacked = v.rpl.unacked + 1 + v.rpl.ahead ∧ (t.port h.port).rpl.gap = false) ∧
            (h.dom = v.dom → h.rpl = true → v.rpl.expect < 256 → v.rpl.entries = [] → 128 ≤ v.dist h.lseq →
              t.counter TD_CNT_MALFORMED = s.counter TD_CNT_MALFORMED ∧ (t.port h.port).rpl = v.rpl))))) := by
  have kz : ∀ (s : State) (h : RxHead) (typ : Nat), exec (.zudarReservedType h typ) s = s.atPort h.port fun s =>
      if (s.rxZudar h { typ := typ, need := 24, identity := true, underlay := true }).ok = true then
        (s.rxZudar h { typ := typ, need := 24, identity := true, underlay := true }).s.count TD_CNT_MALFORMED
      else (s.rxZudar h { typ := typ, need := 24, identity := true, underlay := true }).s := fun _ _ _ => rfl
  have ho : ∀ p o, o < 0x10000 → o ≠ PF_LOG_DROP ∧ o ≠ PF_CNT_MISS p ∧ o ≠ PF_CNT_FIFO_OVF p ∧ o ≠ PF_CNT_RX p ∧ o ≠ PF_CNT_DROP p ∧ o ≠ PF_CNT_PTP_OTHER p := by
    intro p o h
    refine ⟨?_, ?_, ?_, ?_, ?_, ?_⟩
    · show o ≠ 0x10314; omega
    · show o ≠ 0x10000 + p * 0x400 + 0x088; omega
    · show o ≠ 0x10000 + p * 0x400 + 0x0B0; omega
    · show o ≠ 0x10000 + p * 0x400 + 0x080; omega
    · show o ≠ 0x10000 + p * 0x400 + 0x094; omega
    · show o ≠ 0x10000 + p * 0x400 + 0x098; omega
  have hrx : ∀ p, PF_CNT_RX p ≠ PF_LOG_DROP ∧ PF_CNT_RX p ≠ PF_CNT_MISS p ∧ PF_CNT_RX p ≠ PF_CNT_FIFO_OVF p ∧ PF_CNT_RX p ≠ PF_CNT_DROP p ∧ PF_CNT_RX p ≠ PF_CNT_PTP_OTHER p := by
    intro p
    refine ⟨?_, ?_, ?_, ?_, ?_⟩
    · show 0x10000 + p * 0x400 + 0x080 ≠ 0x10314; omega
    · show 0x10000 + p * 0x400 + 0x080 ≠ 0x10000 + p * 0x400 + 0x088; omega
    · show 0x10000 + p * 0x400 + 0x080 ≠ 0x10000 + p * 0x400 + 0x0B0; omega
    · show 0x10000 + p * 0x400 + 0x080 ≠ 0x10000 + p * 0x400 + 0x094; omega
    · show 0x10000 + p * 0x400 + 0x080 ≠ 0x10000 + p * 0x400 + 0x098; omega
  have hdr : ∀ p, PF_CNT_DROP p ≠ PF_LOG_DROP ∧ PF_CNT_DROP p ≠ PF_CNT_MISS p ∧ PF_CNT_DROP p ≠ PF_CNT_FIFO_OVF p ∧ PF_CNT_DROP p ≠ PF_CNT_PTP_OTHER p := by
    intro p
    refine ⟨?_, ?_, ?_, ?_⟩
    · show 0x10000 + p * 0x400 + 0x094 ≠ 0x10314; omega
    · show 0x10000 + p * 0x400 + 0x094 ≠ 0x10000 + p * 0x400 + 0x088; omega
    · show 0x10000 + p * 0x400 + 0x094 ≠ 0x10000 + p * 0x400 + 0x0B0; omega
    · show 0x10000 + p * 0x400 + 0x094 ≠ 0x10000 + p * 0x400 + 0x098; omega
  intro s h typ v hup hp hu hv
  rw [kz, atPort_in hup hp]
  have wz := State.rxZudar_wire s h { typ := typ, need := 24, identity := true, underlay := true } true
  obtain ⟨b1, b2, crx, bh⟩ := begin_up s h.toRxBase true h.seq typ true hu
  have hz : s.rxZudar h { typ := typ, need := 24, identity := true, underlay := true } true =
      (if (s.rxBegin h.toRxBase true h.seq typ true).ok = false then s.rxBegin h.toRxBase true h.seq typ true
       else
        if h.ver ≠ 2 ∨ h.len < 24 ∨ h.pastFcs then .drop (((s.rxBegin h.toRxBase true h.seq typ true).s.heldGone h.port h.mark).count TD_CNT_MALFORMED) (s.rxBegin h.toRxBase true h.seq typ true).stamp
        else if h.dom ≠ ((s.rxBegin h.toRxBase true h.seq typ true).s.port h.port).dom then .drop (((s.rxBegin h.toRxBase true h.seq typ true).s.heldGone h.port h.mark).count TD_CNT_DOMNUM) (s.rxBegin h.toRxBase true h.seq typ true).stamp
        else
          (let u := if typ = 0x04 then (s.rxBegin h.toRxBase true h.seq typ true).s else (s.rxBegin h.toRxBase true h.seq typ true).s.takeAck h.port h.lack
           let q := if h.rpl then u.rxSeq h.port h.lseq h.mark true else (u.heldGone h.port h.mark, true)
           if q.2 = false then .drop q.1 (s.rxBegin h.toRxBase true h.seq typ true).stamp
           else ⟨q.1, (s.rxBegin h.toRxBase true h.seq typ true).stamp, true, 0⟩)) := by
    unfold State.rxZudar
    dsimp +zetaHave only
    generalize s.rxBegin h.toRxBase true h.seq typ true = r
    by_cases c1 : r.ok = false
    · rw [if_pos c1, if_pos c1]
    rw [if_neg c1, if_neg c1]
    by_cases c2 : h.ver ≠ 2 ∨ h.len < 24 ∨ h.pastFcs = true
    · simp only [c2, reduceIte]
    have c2' : ¬ h.len < 24 := fun e => c2 (.inr (.inl e))
    simp only [c2, reduceIte, c2', Bool.true_eq_false, and_false, or_false, Bool.false_eq_true]
  generalize s.rxZudar h { typ := typ, need := 24, identity := true, underlay := true } true = z at wz hz
  generalize s.rxBegin h.toRxBase true h.seq typ true = r at b1 b2 crx bh hz
  have hlt : ∀ o, s.counter o < 2 ^ 32 := fun o => (s.cnt.get 0 o).isLt
  have md : TD_CNT_MALFORMED < 0x10000 ∧ TD_CNT_DOMNUM < 0x10000 ∧ TP_CNT_OVERTAKE < 0x10000 := by decide
  have rxn : ∀ o, o < 0x10000 → PF_CNT_RX h.port ≠ o := fun o h' e => (ho h.port o h').2.2.2.1 e.symm
  -- what is counted and kept on every path
  have fcs : PF_CNT_RX h.port ≠ PF_CNT_FCS h.port := by
    show 0x10000 + h.port * 0x400 + 0x080 ≠ 0x10000 + h.port * 0x400 + 0x0A0; omega
  have keep : ∀ u : State, (∀ q, q ≠ h.port → u.port q = s.port q) → u.counter (PF_CNT_RX h.port) = (s.counter (PF_CNT_RX h.port) + 1) % 2 ^ 32 →
      ((∀ q, q ≠ h.port → (u.heldGone h.port h.mark).port q = s.port q) ∧
        (u.heldGone h.port h.mark).counter (PF_CNT_RX h.port) = (s.counter (PF_CNT_RX h.port) + 1) % 2 ^ 32) ∧
      ((∀ q, q ≠ h.port → (u.rxSeq h.port h.lseq h.mark true).1.port q = s.port q) ∧
        (u.rxSeq h.port h.lseq h.mark true).1.counter (PF_CNT_RX h.port) = (s.counter (PF_CNT_RX h.port) + 1) % 2 ^ 32) := by
    intro u u1 u2
    have g1 : (∀ q, q ≠ h.port → (u.heldGone h.port h.mark).port q = s.port q) ∧
        (u.heldGone h.port h.mark).counter (PF_CNT_RX h.port) = (s.counter (PF_CNT_RX h.port) + 1) % 2 ^ 32 :=
      ⟨fun q hq => (gone_other _ _ _ _ hq).trans (u1 q hq), (gone_counter _ _ _ _ (rxn _ (by decide)) (rxn _ (by decide)) fcs).trans u2⟩
    refine ⟨g1, ?_⟩
    unfold State.rxSeq
    dsimp +zetaHave only
    split
    · exact ⟨fun q hq => (setPort_other _ _ _ _ hq).trans (u1 q hq), u2⟩
    · split
      · exact g1
      · split
        · exact ⟨u1, u2⟩
        · split
          · exact ⟨fun q hq => (setPort_other _ _ _ _ hq).trans (u1 q hq), (count_other _ _ _ (rxn _ md.2.2) 1).trans u2⟩
          · exact ⟨fun q hq => (openGap_other _ _ _ _ hq).trans (u1 q hq), (openGap_counter _ _ _ _ (rxn _ (by decide)) (rxn _ (by decide)) fcs).trans u2⟩
  have hta : ∀ (q : Nat), (q ≠ h.port → (r.s.takeAck h.port h.lack).port q = s.port q) ∧
      (r.s.takeAck h.port h.lack).counter = r.s.counter := by
    intro q
    unfold State.takeAck
    dsimp +zetaHave only
    split
    · exact ⟨fun hq' => b2 q hq', rfl⟩
    · exact ⟨fun hq' => ((refill_keep _ _).1 q hq').trans ((setPort_other _ _ _ _ hq').trans (b2 q hq')), (refill_keep _ _).2⟩
  have zport : (∀ q, q ≠ h.port → z.s.port q = s.port q) ∧ z.s.counter (PF_CNT_RX h.port) = (s.counter (PF_CNT_RX h.port) + 1) % 2 ^ 32 := by
    rw [hz]
    split
    · exact ⟨b2, crx⟩
    split
    · exact ⟨(keep r.s b2 crx).1.1, (count_other _ _ _ (rxn _ md.1) 1).trans (keep r.s b2 crx).1.2⟩
    split
    · exact ⟨(keep r.s b2 crx).1.1, (count_other _ _ _ (rxn _ md.2.1) 1).trans (keep r.s b2 crx).1.2⟩
    · generalize hu' : (if typ = 0x04 then r.s else r.s.takeAck h.port h.lack) = u
      have u1 : ∀ q, q ≠ h.port → u.port q = s.port q := by
        intro q hq'; rw [← hu']; split
        · exact b2 q hq'
        · exact (hta q).1 hq'
      have u2 : u.counter (PF_CNT_RX h.port) = (s.counter (PF_CNT_RX h.port) + 1) % 2 ^ 32 := by
        rw [← hu']; split
        · exact crx
        · rw [(hta 0).2]; exact crx
      dsimp +zetaHave only
      split
      · split
        · exact (keep u u1 u2).2
        · exact (keep u u1 u2).2
      · split
        · exact (keep u u1 u2).1
        · exact (keep u u1 u2).1
  refine ⟨_, rfl, ?_, ?_, ?_, fun hg => ?_⟩
  · split
    · exact (State.count_wire _ _ _).trans wz
    · exact wz
  · intro q hq'
    split
    · exact zport.1 q hq'
    · exact zport.1 q hq'
  · split
    · rw [count_other _ _ _ (rxn _ md.1)]; exact zport.2
    · exact zport.2
  obtain ⟨⟨f, g, b3⟩, b4, b5, b6⟩ := bh (by rw [← hv]; exact hg)
  have cs : ∀ o, o < 0x10000 → r.s.counter o = s.counter o := by
    intro o h'
    obtain ⟨a1, a2, a3, a4, a5, _⟩ := ho h.port o h'
    rw [b5 o a1 a2 a3, if_neg a4, if_neg (fun hh => a5 hh.1), Nat.add_zero, Nat.mod_eq_of_lt (hlt o)]
  have cdr : (h.tagged || h.tooLong || h.incomplete) = true → r.s.counter (PF_CNT_DROP h.port) = (s.counter (PF_CNT_DROP h.port) + 1) % 2 ^ 32 := by
    intro hh
    obtain ⟨a1, a2, a3, _⟩ := hdr h.port
    rw [b5 _ a1 a2 a3, if_neg (fun e => (hrx h.port).2.2.2.1 e.symm), if_pos ⟨rfl, hh⟩]
  have rg : r.s.heldGone h.port h.mark = r.s := gone_none _ _ _ (by rw [b3, ← hv]; exact hg)
  rw [rg] at hz
  refine ⟨?_, ?_⟩
  · intro hh
    have hok : r.ok = false := by rw [b6, hh]; rfl
    rw [hz, if_pos hok, if_neg (by rw [hok]; decide)]
    exact cdr hh
  · intro hh hret
    have hok : r.ok = true := by
      rw [b6, hh, ← hv]
      rcases hret with h1 | h1
      · rw [decide_eq_false h1]; rfl
      · rw [h1]; simp
    rw [if_neg (by rw [hok]; decide)] at hz
    have hrp : (r.s.port h.port).rpl = v.rpl ∧ (r.s.port h.port).dom = v.dom := by rw [b3, hv]; exact ⟨rfl, rfl⟩
    refine ⟨?_, ?_⟩
    · intro hbad
      rw [if_pos hbad] at hz
      simp only [hz, Rx.drop, Bool.false_eq_true, reduceIte]
      exact ⟨by rw [count_same, cs _ md.1], by rw [count_port]; exact hrp.1⟩
    · intro g1 g2 g3
      have hgood : ¬ (h.ver ≠ 2 ∨ h.len < 24 ∨ h.pastFcs = true) := by
        rintro (e | e | e)
        · exact e g1
        · omega
        · rw [g3] at e; exact absurd e (by decide)
      rw [if_neg hgood, hrp.2] at hz
      refine ⟨?_, ?_, ?_, ?_⟩
      · intro hd
        rw [if_pos hd] at hz
        simp only [hz, Rx.drop, Bool.false_eq_true, reduceIte]
        exact ⟨by rw [count_same, cs _ md.2.1], by rw [count_port]; exact hrp.1⟩
      all_goals
        intro hd hrpl
        rw [if_neg (by rw [hd]; exact fun e => e rfl)] at hz
        rw [hrpl] at hz
        dsimp +zetaHave only at hz
      · intro he ht
        rw [if_neg ht, take_nothing _ _ _ (by rw [hrp.1]; exact he)] at hz
        rw [rg] at hz
        simp only [Bool.false_eq_true, reduceIte, Bool.true_eq_false] at hz
        rw [hz]
        dsimp only
        rw [if_pos rfl]
        exact ⟨by rw [count_same, cs _ md.1], by rw [count_port]; exact hrp.1⟩
      · intro hs hlt' he
        have hu' : (if typ = 0x04 then r.s else r.s.takeAck h.port h.lack) = r.s := by
          split
          · rfl
          · exact take_nothing _ _ _ (by rw [hrp.1]; exact he)
        rw [hu', if_pos rfl] at hz
        have hdist : (r.s.port h.port).dist h.lseq = 0 := by
          unfold Port.dist; rw [hrp.1, hs]; omega
        have hseq : r.s.rxSeq h.port h.lseq h.mark true = (r.s.setPort h.port { r.s.port h.port with rpl := { v.rpl with
            expect := (v.rpl.expect + 1 + v.rpl.ahead) % 256, unacked := v.rpl.unacked + 1 + v.rpl.ahead
            ahead := 0, held := none, gap := false, nakSent := false } }, true) := by
          unfold State.rxSeq; dsimp +zetaHave only; rw [hdist, if_pos rfl, hrp.1]
        rw [hseq] at hz
        simp only [reduceIte, Bool.true_eq_false] at hz
        rw [hz]
        dsimp only
        rw [if_pos rfl]
        rw [count_same, count_port, setPort_same]
        refine ⟨?_, rfl, rfl, rfl⟩
        show (r.s.counter TD_CNT_MALFORMED + 1) % 2 ^ 32 = _
        rw [cs _ md.1]
      · intro hlt' he h128
        have hu' : (if typ = 0x04 then r.s else r.s.takeAck h.port h.lack) = r.s := by
          split
          · rfl
          · exact take_nothing _ _ _ (by rw [hrp.1]; exact he)
        rw [hu', if_pos rfl] at hz
        have hdist : (r.s.port h.port).dist h.lseq = v.dist h.lseq := by unfold Port.dist; rw [hrp.1]
        have hseq : r.s.rxSeq h.port h.lseq h.mark true = (r.s, false) := by
          unfold State.rxSeq; dsimp +zetaHave only
          rw [hdist, if_neg (by omega), if_neg (by rw [hrp.1]; exact hg), if_pos (.inl h128)]
        rw [hseq] at hz
        simp only [reduceIte] at hz
        simp only [hz, Rx.drop, Bool.false_eq_true, reduceIte]
        exact ⟨cs _ md.1, hrp.1⟩

end Sys2Proof.Machine
end

