-- ==== Sys2Proof/Laws/RowsGang.lean ====
section
/-! SUPPORT. Sys2Proof/Laws/RowsGang.lean: the timers of the collective engine and the gang. -/

set_option linter.all false
set_option Elab.async false

namespace Sys2Proof.Machine
open Sys2Proof Sys2Proof.Config

/-- What the row ORPHAN_COUNTER_FREE does (R286). -/
theorem exec_orphanCounterFree : (∀ (s : State) (old : List TreeCtr), s.up = true → old = s.ce.ctrs.filter (fun c => c.tick + s.ceTmo CE_ORPHAN ≤ s.clk.ticks + 1) →
    (old = [] → exec .orphanCounterFree s = .next s) ∧
    (old ≠ [] → ∃ t, exec .orphanCounterFree s = .next t ∧ t = { s with cnt := t.cnt, irq := s.irq ||| BitVec.ofNat 32 (2 ^ 22), ce := { s.ce with ctrs := t.ce.ctrs } } ∧
      t.ce.ctrs = s.ce.ctrs.filter (fun c => ¬ (c.tick + s.ceTmo CE_ORPHAN ≤ s.clk.ticks + 1)) ∧
      (∀ o, t.counter o = if o = CE_CNT_ORPHAN then (s.counter o + old.length) % 2 ^ 32 else s.counter o))) := by
  rintro s old hu rfl
  have k : exec .orphanCounterFree s = s.main fun s => s.freeOrphans (s.clk.ticks + 1) := rfl
  rw [k, State.main_up hu]
  unfold State.freeOrphans
  dsimp +zetaHave only
  refine ⟨fun h => by rw [if_pos h], fun h => ?_⟩
  rw [if_neg h]
  generalize (s.ce.ctrs.filter fun c => decide (c.tick + s.ceTmo CE_ORPHAN ≤ s.clk.ticks + 1)).length = n
  refine ⟨_, rfl, rfl, ?_, fun o => ?_⟩
  · show s.ce.ctrs.filter _ = _
    congr 1; funext c; exact (decide_not).symm
  · exact count_at s CE_CNT_ORPHAN n o

/-- What the row MOVE_TIMEOUT does (R303). -/
theorem exec_moveTimeout : (∀ (s : State), s.up = true → ((∀ x ∈ s.ce.moves, x.own = false ∨ s.clk.ticks + 1 < x.tick + s.ceTmo CE_MOVE_TMO) → exec .moveTimeout s = .next s) ∧
    (∀ x, (s.ce.moves.filter fun r => r.own && decide (r.tick + s.ceTmo CE_MOVE_TMO ≤ s.clk.ticks + 1)) = [x] →
      exec .moveTimeout s = .next (s.rootAbort x.m.cid x.m.isn x.m.attempt 0x04 { id := s.ownId, onset := s.clk.course % 2 ^ 32 }))) := by
  intro s hu
  have k : exec .moveTimeout s = s.main fun s => s.moveTimeouts (s.clk.ticks + 1) := rfl
  rw [k, State.main_up hu]
  unfold State.moveTimeouts
  dsimp +zetaHave only
  refine ⟨fun h => ?_, fun x hx => ?_⟩
  · have : (s.ce.moves.filter fun r => r.own && decide (r.tick + s.ceTmo CE_MOVE_TMO ≤ s.clk.ticks + 1)) = [] := by
      rw [List.filter_eq_nil_iff]
      intro x hx hh
      simp only [Bool.and_eq_true, decide_eq_true_eq] at hh
      rcases h x hx with h | h
      · exact absurd (hh.1.symm.trans h) (by decide)
      · omega
    rw [this]; rfl
  · rw [hx]; rfl

theorem keys_one (n : Nat) (v : Option Handle) : Map.keys [(n, v)] = [n] := rfl

theorem handle_one {s : State} {n : Nat} {v : Option Handle} (h : s.ce.handles = [(n, v)]) : s.handle n = v := by
  unfold State.handle; rw [h]; unfold Map.get Map.look; rw [if_pos rfl]; rfl

theorem arrive_none {s : State} {n : Nat} {hd : Handle} {i : Inst} (h : s.ce.handles = [(n, some hd)]) (hi : hd.insts = [i]) (ho : i.out = none) : s.collArrivals = s := by
  unfold State.collArrivals State.applyOutcomes
  rw [h, keys_one, List.foldl_cons, List.foldl_nil]
  dsimp +zetaHave only
  rw [handle_one h]
  dsimp only
  rw [hi, List.foldl_cons, List.foldl_nil, ho]
  rfl

theorem no_handles {s : State} (h : ∀ e ∈ s.ce.handles, e.2 = none) (n : Nat) : s.handle n = none := by
  have : ∀ m : Map (Option Handle), (∀ e ∈ m, e.2 = none) → m.get none n = none := by
    intro m
    induction m with
    | nil => intro _; rfl
    | cons e m ih =>
      intro h
      unfold Map.get Map.look
      obtain ⟨j, v⟩ := e
      by_cases hj : j = n
      · rw [if_pos hj]; exact h _ List.mem_cons_self
      · rw [if_neg hj]; exact ih fun e he => h e (List.mem_cons_of_mem _ he)
  exact this _ h

/-- What the rows ISOLATED, COLLECTIVE_DEADLINE do (R301). -/
theorem exec_isolated_collectiveDeadline : (∀ (s : State), s.up = true → (∀ e ∈ s.ce.handles, e.2 = none) → exec .isolated s = .next s ∧ exec .collectiveDeadline s = .next s) := by
  intro s hu h
  have k1 : exec .isolated s = s.main fun s => s.collArrivals.collIsolated (s.clk.ticks + 1) := rfl
  have k2 : exec .collectiveDeadline s = s.main fun s => s.collArrivals.collDeadlines s.clk.course := rfl
  have nn := no_handles h
  have fold : ∀ {α : Type} (l : List Nat) (a : α) (f : α → Nat → α), (∀ n, f a n = a) → l.foldl f a = a := by
    intro α l a f hf
    induction l with
    | nil => rfl
    | cons b l ih => rw [List.foldl_cons, hf]; exact ih
  have ha : s.collArrivals = s := by
    unfold State.collArrivals State.applyOutcomes
    rw [fold]
    · rfl
    · intro n; dsimp only; rw [nn]
  rw [k1, k2, State.main_up hu, State.main_up hu, ha]
  refine ⟨congrArg _ ?_, congrArg _ ?_⟩
  · unfold State.collIsolated State.isolate
    rw [fold]
    · rfl
    · intro n; dsimp only; rw [nn]
  · unfold State.collDeadlines State.each
    rw [fold]
    intro n; rw [nn]

theorem verdict_none (s : State) (a : Applied) (h : s.sq.votes = []) : s.verdict a = s := by
  unfold State.verdict takeFirst
  rw [h]
  split <;> rfl

/-- What the row ISOLATED does (R301). -/
theorem exec_isolated : (∀ (s : State) (n : Nat) (hd hd' : Handle) (i : Inst), s.up = true → s.ce.handles = [(n, some hd)] → hd.insts = [i] → i.out = none → s.sq.votes = [] →
    hd' = { hd with insts := [], recent := ((i.isn, { reason := 0x80 }) :: hd.recent).take 4 } →
    (s.clk.ticks + 1 < i.tick + s.ceTmo CE_ISO_TMO → exec .isolated s = .next s) ∧
    (i.tick + s.ceTmo CE_ISO_TMO ≤ s.clk.ticks + 1 → ∃ t, exec .isolated s = .next t ∧
      t = { s with cnt := t.cnt, irq := s.irq ||| BitVec.ofNat 32 (2 ^ 21), ce := { s.ce with handles := t.ce.handles, last := t.ce.last } } ∧
      t.handle n = some hd' ∧ t.ce.last = { cid := hd.cid, isn := i.isn, reason := 0x80, originId := s.ownId } ∧
      (∀ o, t.counter o = if o = CE_CNT_ISO then (s.counter o + 1) % 2 ^ 32 else s.counter o))) := by
  rintro s n hd hd' i hu h hi ho hv rfl
  have k : exec .isolated s = s.main fun s => s.collArrivals.collIsolated (s.clk.ticks + 1) := rfl
  rw [k, State.main_up hu, arrive_none h hi ho]
  unfold State.collIsolated State.isolate
  rw [h, keys_one, List.foldl_cons, List.foldl_nil]
  dsimp +zetaHave only
  rw [handle_one h]
  dsimp only
  rw [hi, List.foldl_cons, List.foldl_nil, ho]
  dsimp only
  rw [handle_one h]
  dsimp only
  refine ⟨fun hl => ?_, fun hl => ?_⟩
  · rw [decide_eq_false (by omega : ¬ (i.tick + s.ceTmo CE_ISO_TMO ≤ s.clk.ticks + 1))]; rfl
  · rw [decide_eq_true hl]
    show ∃ t, (Host.Outcome.next ((s.localOutcome n hd i 0x80).afterOutcomes [⟨n, hd, i, { reason := 0x80 }⟩]) : Result) = .next t ∧ _
    unfold State.afterOutcomes
    rw [List.foldl_cons, List.foldl_nil]
    generalize hy : s.localOutcome n hd i 0x80 = y
    have y1 : y = { s with cnt := y.cnt, irq := s.irq ||| BitVec.ofNat 32 (2 ^ 21), ce := { s.ce with handles := y.ce.handles, last := y.ce.last } } := by rw [← hy]; rfl
    have y2 : y.handle n = some (hd.finish i.isn { reason := 0x80 }) := by rw [← hy]; show (s.ce.handles.set none n (some (hd.finish i.isn { reason := 0x80 }))).get none n = _; exact Map.get_set_same (α := Option Handle) _ _ _ _
    have y3 : y.ce.last = { cid := hd.cid, isn := i.isn, reason := 0x80, originId := s.ownId } := by rw [← hy]; rfl
    have y4 : ∀ o, y.counter o = if o = CE_CNT_ISO then (s.counter o + 1) % 2 ^ 32 else s.counter o := by
      intro o; rw [← hy]
      exact counter_one s CE_CNT_ISO o
    have hv2 : State.afterOutcome y ⟨n, hd, i, { reason := 0x80 }⟩ = y := by
      have yv : y.sq.votes = [] := by rw [y1]; exact hv
      unfold State.afterOutcome
      dsimp only
      cases hd.doneObj <;> exact verdict_none _ _ yv
    rw [hv2]
    refine ⟨y, rfl, ?_⟩
    refine ⟨y1, ?_, y3, y4⟩
    rw [y2]
    unfold Handle.finish
    rw [hi, List.filter_cons_of_neg (by simp)]; rfl

/-- What the row COLLECTIVE_DEADLINE does (R301). -/
theorem exec_collectiveDeadline : (∀ (s : State) (n : Nat) (hd : Handle) (i : Inst), s.up = true → s.ce.handles = [(n, some hd)] → hd.insts = [i] → i.out = none →
    ((i.asked = true ∨ i.deadline = none ∨ ∃ d, i.deadline = some d ∧ s.clk.course < d) → exec .collectiveDeadline s = .next s) ∧
    (∀ d, i.asked = false → i.deadline = some d → d ≤ s.clk.course → exec .collectiveDeadline s = .next
      ((s.setHandle n (some { hd with insts := [{ i with asked := true }] })).abortReq hd.cid i.isn i.attempt (hd.domOf i.attempt) 0x02 0))) := by
  intro s n hd i hu h hi ho
  have k : exec .collectiveDeadline s = s.main fun s => s.collArrivals.collDeadlines s.clk.course := rfl
  rw [k, State.main_up hu, arrive_none h hi ho]
  unfold State.collDeadlines State.each
  rw [h, keys_one, List.foldl_cons, List.foldl_nil, handle_one h]
  dsimp only
  rw [hi, List.foldl_cons, List.foldl_nil, handle_one h]
  dsimp only
  refine ⟨fun hh => ?_, fun d h1 h2 h3 => ?_⟩
  · rw [if_neg]
    unfold Inst.deadlineDue
    rcases hh with h | h | ⟨d, h, hd⟩
    · rw [h]; simp
    · rw [h]; simp
    · rw [h]; simp; intros; omega
  · rw [if_pos]
    · have : hd.setInst { i with asked := true } = { hd with insts := [{ i with asked := true }] } := by
        unfold Handle.setInst; rw [hi]; simp
      rw [this]
    · unfold Inst.deadlineDue
      rw [h1, ho, h2]
      simp [h3]

/-- What the rows ISOLATED, COLLECTIVE_DEADLINE do (R301). -/
theorem exec_isolated_collectiveDeadline_2 : (∀ (s : State) (n : Nat) (hd : Handle) (i : Inst) (o : CollOutcome) (c : Instr), s.up = true → s.ce.handles = [(n, some hd)] → hd.insts = [i] → i.out = some o →
    s.sq.votes = [] → hd.doneObj = none → c = .isolated ∨ c = .collectiveDeadline →
    ∃ t, exec c s = .next t ∧ t = { s with irq := if o.reason = 0 then s.irq else s.irq ||| BitVec.ofNat 32 (2 ^ 21), ce := { s.ce with handles := t.ce.handles } } ∧
      t.handle n = some { hd with insts := [], recent := ((i.isn, o) :: hd.recent).take 4, lastStatus := if o.reason = 0 then o.status else hd.lastStatus }) := by
  intro s n hd i o c hu h hi ho hv hdn hc
  have ka : s.collArrivals = s.applyOutcomes.1.afterOutcomes s.applyOutcomes.2 := rfl
  have hap : s.applyOutcomes = ((s.setHandle n (some (hd.finish i.isn o))).raiseIf (decide (o.reason ≠ 0)) 21, [⟨n, hd, i, o⟩]) := by
    unfold State.applyOutcomes
    rw [h, keys_one, List.foldl_cons, List.foldl_nil]
    dsimp +zetaHave only
    rw [handle_one h]
    dsimp only
    rw [hi, List.foldl_cons, List.foldl_nil, ho]
    dsimp only
    rw [handle_one h]
    rfl
  rw [hap] at ka
  generalize hy : (s.setHandle n (some (hd.finish i.isn o))).raiseIf (decide (o.reason ≠ 0)) 21 = y at ka
  have y1 : y = { s with irq := if o.reason = 0 then s.irq else s.irq ||| BitVec.ofNat 32 (2 ^ 21), ce := { s.ce with handles := y.ce.handles } } := by
    rw [← hy]; unfold State.raiseIf
    by_cases hr : o.reason = 0
    · rw [if_pos hr, decide_eq_false (fun h => h hr), if_neg (by decide)]; rfl
    · rw [if_neg hr, decide_eq_true hr, if_pos rfl]; rfl
  have hf : hd.finish i.isn o = { hd with insts := [], recent := ((i.isn, o) :: hd.recent).take 4, lastStatus := if o.reason = 0 then o.status else hd.lastStatus } := by
    unfold Handle.finish; rw [hi, List.filter_cons_of_neg (by simp)]; rfl
  have y2 : y.ce.handles = [(n, some (hd.finish i.isn o))] := by
    have : y.ce.handles = s.ce.handles.set none n (some (hd.finish i.isn o)) := by rw [← hy]; unfold State.raiseIf; split <;> rfl
    rw [this, h]
    unfold Map.set
    rw [if_neg (by simp)]
    unfold Map.insert
    rw [if_neg (by omega), if_pos rfl]
  have yv : y.sq.votes = [] := by rw [y1]; exact hv
  have kb : s.collArrivals = y := by
    rw [ka]
    unfold State.afterOutcomes
    rw [List.foldl_cons, List.foldl_nil]
    unfold State.afterOutcome
    dsimp only
    rw [hdn]
    exact verdict_none _ _ yv
  have ye : (hd.finish i.isn o).insts = [] := by rw [hf]
  have none1 : y.collIsolated (s.clk.ticks + 1) = y := by
    unfold State.collIsolated State.isolate
    rw [y2, keys_one, List.foldl_cons, List.foldl_nil]
    dsimp +zetaHave only
    rw [handle_one y2]
    dsimp only
    rw [ye]
    rfl
  have none2 : y.collDeadlines s.clk.course = y := by
    unfold State.collDeadlines State.each
    rw [y2, keys_one, List.foldl_cons, List.foldl_nil, handle_one y2]
    dsimp only
    rw [ye]
    rfl
  have kc : exec c s = .next y := by
    rcases hc with rfl | rfl
    · have k : exec .isolated s = s.main fun s => s.collArrivals.collIsolated (s.clk.ticks + 1) := rfl
      rw [k, State.main_up hu, kb, none1]
    · have k : exec .collectiveDeadline s = s.main fun s => s.collArrivals.collDeadlines s.clk.course := rfl
      rw [k, State.main_up hu, kb, none2]
  exact ⟨y, kc, y1, by rw [handle_one y2, hf]⟩

/-- What the row GANG_CONTRIBUTION does (R29, R31, R241, R285). -/
theorem exec_gangContribution : (∀ (s : State) (pos : Nat) (m : GangMsg), s.up = true →
    (s.gang.inGang = false ∨ pos = s.ties.gangPos ∨ pos ∉ s.gang.members ∨ (s.follower = true ∧ pos ≠ s.gang.leader) → exec (.gangContribution pos m) s = .next s) ∧
    (s.gang.inGang = true → s.gang.leader = s.ties.gangPos → pos ≠ s.ties.gangPos → pos ∈ s.gang.members →
      (∀ step dig, m = .digest step dig → (s.sq.st ≠ .running → exec (.gangContribution pos m) s = .next s) ∧
        (s.sq.st = .running → exec (.gangContribution pos m) s = .next { s with sq := { s.sq with gangDigests := s.sq.gangDigests ++ [(pos, step, dig)] } })) ∧
      (∀ q, m = .request q → (s.ceOn = false → exec (.gangContribution pos m) s = .next s) ∧ (s.ceOn = true → exec (.gangContribution pos m) s = .next (s.routeReq q))) ∧
      (m = .dead → exec (.gangContribution pos m) s = .next (s.gangQuit true s.clk.course)) ∧
      (∀ c, m = .contribution c → (s.ceOn = false ∨ s.underlay = true → exec (.gangContribution pos m) s = .next s) ∧
        (∀ z, s.ceOn = true → s.underlay = false → s.isEave = false → z = s.busy.openGate 3 → exec (.gangContribution pos m) s = .next (z.ridgeUp (gangSrc pos) c)) ∧
        (∀ z w, s.ceOn = true → s.underlay = false → s.isEave = true → z = s.busy.openGate 3 → w = { z with ce := { z.ce with
            gangWait := (z.ce.gangWait.filter fun x => ¬ (x.1 = pos ∧ x.2.par.cid = c.par.cid ∧ x.2.par.isn = c.par.isn)) ++ [(pos, c)] } } →
          (w.handleOf c.par.cid = none → exec (.gangContribution pos m) s = .next w) ∧
          (∀ n hd i, w.handleOf c.par.cid = some (n, hd) → hd.inst c.par.isn = some i → (i.out.isSome = true ∨ i.gathered = true) → exec (.gangContribution pos m) s = .next w) ∧
          (∀ n hd i, w.handleOf c.par.cid = some (n, hd) → hd.inst c.par.isn = some i → i.out = none → i.gathered = false → i.mism = false →
            ((∃ q ∈ s.gang.members, q ≠ s.ties.gangPos ∧ ∀ x ∈ w.ce.gangWait, ¬ (x.1 = q ∧ x.2.par.cid = hd.cid ∧ x.2.par.isn = i.isn)) →
              exec (.gangContribution pos m) s = .next (w.setHandle n (some (hd.setInst i)))) ∧
            (∀ p d, (∀ q ∈ s.gang.members, q = s.ties.gangPos ∨ ∃ x ∈ w.ce.gangWait, x.1 = q ∧ x.2.par.cid = hd.cid ∧ x.2.par.isn = i.isn) →
              w.rafter (hd.domOf i.attempt) = some p →
              d = (w.ce.gangWait.filter fun x => x.2.par.cid = hd.cid ∧ x.2.par.isn = i.isn).foldl (fun a x => foldData hd.op a x.2.data) i.data →
              ∃ y : State, exec (.gangContribution pos m) s = .next (y.xsend p (.collUp { par := hd.params i.isn, attempt := i.attempt, count := 1, step := i.step, data := d })) ∧
                y = State.setHandle { w with ce := { w.ce with gangWait := w.ce.gangWait.filter fun x => ¬ (x.2.par.cid = hd.cid ∧ x.2.par.isn = i.isn) } } n
                  (some (hd.setInst { i with data := d, held := false, gathered := true }))))))) ∧
    (s.gang.inGang = true → s.gang.leader ≠ s.ties.gangPos → pos = s.gang.leader → pos ∈ s.gang.members →
      (∀ d, m = .down d → exec (.gangContribution pos m) s = .next (if s.isEave then s.eaveDown 0 d else s.spreadDown d)) ∧
      (∀ v, m = .move v → exec (.gangContribution pos m) s = .next (if s.isEave then s.eaveMove v else s.spreadMove v)) ∧
      (∀ a, m = .abort a → exec (.gangContribution pos m) s = .next (if s.isEave then s.eaveAbort a else s.spreadAbort a)) ∧
      (m = .diverged → (s.sq.st ≠ .running → exec (.gangContribution pos m) s = .next s) ∧
        (s.sq.st = .running → exec (.gangContribution pos m) s = .next { s with sq := { s.sq with told := true } })) ∧
      (m = .dead → exec (.gangContribution pos m) s = .next (s.gangQuit true s.clk.course)))) := by
  intro s pos m hu
  have k : exec (.gangContribution pos m) s = s.main fun s =>
    if s.gang.inGang ∧ pos ≠ s.ties.gangPos ∧ pos ∈ s.gang.members then
      if s.follower = false then s.atLeader pos m
      else if pos = s.gang.leader then s.atMember m else s
    else s := rfl
  rw [k, State.main_up hu]
  refine ⟨fun h => ?_, fun h1 h2 h3 h4 => ?_, fun h1 h2 h3 h4 => ?_⟩
  · rcases h with h | h | h | ⟨h, h'⟩
    · rw [if_neg (by rw [h]; simp)]
    · rw [if_neg (by rintro ⟨_, b, _⟩; exact b h)]
    · rw [if_neg (by rintro ⟨_, _, b⟩; exact h b)]
    · split
      · simp only [h, h', Bool.true_eq_false, if_false]
      · rfl
  · have hf : s.follower = false := by unfold State.follower; rw [h2]; simp
    rw [if_pos ⟨h1, h3, h4⟩, if_pos hf]
    refine ⟨?_, ?_, ?_, ?_⟩
    · rintro step dig rfl
      unfold State.atLeader State.gangDigest
      exact ⟨fun h => by dsimp only; rw [if_neg h], fun h => by dsimp only; rw [if_pos h]; rfl⟩
    · rintro q rfl
      unfold State.atLeader
      exact ⟨fun h => by dsimp only; rw [if_neg (by rw [h]; decide)], fun h => by dsimp only; rw [if_pos h]⟩
    · rintro rfl; rfl
    · rintro c rfl
      unfold State.atLeader
      dsimp +zetaHave only
      have z0 : ∀ z, z = s.busy.openGate 3 → z.gang = s.gang ∧ z.ties = s.ties := by
        intro z hz
        obtain ⟨o, g, hop⟩ := s.busy.openGate_form 3
        rw [hz, hop]; exact ⟨rfl, rfl⟩
      have e0 : ∀ z, z = s.busy.openGate 3 → z.isEave = s.isEave := by
        intro z hz; unfold State.isEave; rw [(z0 z hz).2]
      refine ⟨fun h => ?_, fun z g1 g2 g3 hz => ?_, fun z w g1 g2 g3 hz hw => ?_⟩
      · rw [if_neg]
        rintro ⟨a, b⟩
        rcases h with h | h
        · exact absurd (a.symm.trans h) (by decide)
        · exact absurd (h.symm.trans b) (by decide)
      · rw [if_pos ⟨g1, g2⟩, ← hz, if_neg (by rw [e0 z hz, g3]; decide)]
      · rw [if_pos ⟨g1, g2⟩, ← hz, if_pos (by rw [e0 z hz, g3])]
        have w1 : w.gang = s.gang ∧ w.ties = s.ties := by rw [hw]; exact z0 z hz
        have hw' : w = { z with ce := { z.ce with
            gangWait := (z.ce.gangWait.filter fun x => !decide (x.1 = pos ∧ x.2.par.cid = c.par.cid ∧ x.2.par.isn = c.par.isn)) ++ [(pos, c)] } } := by
          rw [hw]; simp only [decide_not]
        unfold State.gangContribution
        dsimp +zetaHave only
        rw [← hw']
        refine ⟨fun h => by rw [h], fun n hd i h5 h6 h7 => ?_, fun n hd i h5 h6 h8 h9 h7 => ?_⟩
        · rw [h5]; dsimp only; rw [h6]; dsimp only; rw [if_pos h7]
        rw [h5]
        dsimp only
        rw [h6]
        dsimp only
        rw [if_neg (by rw [h8, h9]; simp)]
        unfold State.sendLog
        dsimp +zetaHave only
        have a1 : w.follower = false := by unfold State.follower; rw [w1.1, w1.2, h2]; simp
        rw [h7, if_neg (by decide), a1, if_neg (by decide), h9]
        have a2 : w.gangComplete hd.cid i.isn = true ↔ ∀ q ∈ s.gang.members, q = s.ties.gangPos ∨ ∃ x ∈ w.ce.gangWait, x.1 = q ∧ x.2.par.cid = hd.cid ∧ x.2.par.isn = i.isn := by
          unfold State.gangComplete
          rw [w1.1, w1.2, h1]
          simp
        refine ⟨fun ⟨q, hq1, hq2, hq3⟩ => ?_, fun p d hall hr hd' => ?_⟩
        · rw [if_pos]
          refine ⟨rfl, ?_⟩
          rw [Bool.eq_false_iff, Ne, a2]
          intro hh
          rcases hh q hq1 with h | ⟨x, hx, hh⟩
          · exact hq2 h
          · exact hq3 x hx hh
        · rw [if_neg (by rw [a2.mpr hall]; simp)]
          have ag : w.gather hd i = ({ w with ce := { w.ce with gangWait := w.ce.gangWait.filter fun x => ¬ (x.2.par.cid = hd.cid ∧ x.2.par.isn = i.isn) } },
              { i with gathered := true, data := d }) := by
            unfold State.gather
            rw [h9, if_neg (by decide), hd']
            simp only [decide_not]
          rw [ag]
          dsimp only
          have : ({ w with ce := { w.ce with gangWait := w.ce.gangWait.filter fun x => decide ¬ (x.2.par.cid = hd.cid ∧ x.2.par.isn = i.isn) } } : State).rafter (hd.domOf i.attempt) = some p := hr
          rw [this]
          exact ⟨_, rfl, by rw [h7]⟩
  · have hf : s.follower = true := by unfold State.follower; rw [h1]; simpa using fun h => h2 h.symm
    rw [if_pos ⟨h1, by rw [h3]; exact h2, h4⟩, if_neg (by rw [hf]; decide), if_pos h3]
    refine ⟨fun d hm => by rw [hm]; rfl, fun d hm => by rw [hm]; rfl, fun d hm => by rw [hm]; rfl, fun hm => ?_, fun hm => by rw [hm]; rfl⟩
    rw [hm]
    unfold State.atMember
    exact ⟨fun h => by dsimp only; rw [if_neg h], fun h => by dsimp only; rw [if_pos h]; rfl⟩

/-- What the row GANG_LINK_CALIBRATION_DONE does (R28). -/
theorem exec_gangLinkCalibrationDone : (∀ (s : State) (l : List GangHop), s.up = true → (s.gang.inGang = false ∨ s.gang.calibrated = true → exec (.gangLinkCalibrationDone l) s = .next s) ∧
    (s.gang.inGang = true → s.gang.calibrated = false → exec (.gangLinkCalibrationDone l) s = .next { s with gang := { s.gang with calibrated := true, hops := l } })) := by
  intro s l hu
  have k : exec (.gangLinkCalibrationDone l) s = s.main fun s => if s.gang.inGang ∧ s.gang.calibrated = false then { s with gang := { s.gang with calibrated := true, hops := l } } else s := rfl
  rw [k, State.main_up hu]
  refine ⟨fun h => ?_, fun h1 h2 => by rw [if_pos ⟨h1, h2⟩]⟩
  rw [if_neg]
  rintro ⟨a, b⟩
  rcases h with h | h
  · exact absurd (a.symm.trans h) (by decide)
  · exact absurd (h.symm.trans b) (by decide)

/-- What the row GANG_CAL_TIMEOUT does (R28). -/
theorem exec_gangCalTimeout : (∀ (s : State) (pos : Nat), s.up = true →
    (s.gang.inGang = false ∨ pos ∉ s.gang.members ∨ pos = s.gang.leader ∨ s.clk.ticks < 1024 ∨ (pos = s.ties.gangPos ∧ s.gang.calibrated = true) →
      exec (.gangCalTimeout pos) s = .next s) ∧
    (s.gang.inGang = true → pos ∈ s.gang.members → pos ≠ s.gang.leader → 1024 ≤ s.clk.ticks → (pos ≠ s.ties.gangPos ∨ s.gang.calibrated = false) →
      exec (.gangCalTimeout pos) s = .next { s with irq := s.irq ||| BitVec.ofNat 32 (2 ^ 26), gang := if pos = s.ties.gangPos then { s.gang with inGang := false, members := [] }
        else { s.gang with members := s.gang.members.filter fun m => m ≠ pos } })) := by
  intro s pos hu
  have k : exec (.gangCalTimeout pos) s = s.main fun s =>
    if s.gang.inGang = false ∨ pos ∉ s.gang.members ∨ pos = s.gang.leader ∨ s.clk.ticks < 1024 then s
    else if pos = s.ties.gangPos then s.gangCalOver
    else (({ s with gang := { s.gang with members := s.gang.members.filter fun m => decide (m ≠ pos) } } : State)).raise 26 := rfl
  rw [k, State.main_up hu]
  refine ⟨fun h => ?_, fun h1 h2 h3 h5 h4 => ?_⟩
  · by_cases c : s.gang.inGang = false ∨ pos ∉ s.gang.members ∨ pos = s.gang.leader ∨ s.clk.ticks < 1024
    · rw [if_pos c]
    · rw [if_neg c]
      have h : pos = s.ties.gangPos ∧ s.gang.calibrated = true := by
        rcases h with h | h | h | h | h
        · exact absurd (.inl h) c
        · exact absurd (.inr (.inl h)) c
        · exact absurd (.inr (.inr (.inl h))) c
        · exact absurd (.inr (.inr (.inr h))) c
        · exact h
      rw [if_pos h.1]
      unfold State.gangCalOver
      rw [if_neg (by rw [h.2]; simp)]
  · rw [if_neg (by rintro (h | h | h | h); exact absurd (h1.symm.trans h) (by decide); exact h h2; exact h3 h; omega)]
    by_cases c : pos = s.ties.gangPos
    · rw [if_pos c, if_pos c]
      unfold State.gangCalOver
      rw [if_pos ⟨h1, h4.resolve_left fun h => h c, h5⟩]; rfl
    · rw [if_neg c, if_neg c]; rfl

/-- What the row GANG_LINK_FAIL does (R31, R357, R395). -/
theorem exec_gangLinkFail : (∀ (s : State) (ps l : List Nat), l = ps.filter (fun m => m ∈ s.gang.members ∧ m ∉ s.gang.lost) →
    (s.asleep = false → s.up = false → exec (.gangLinkFail ps) s = .next s) ∧
    (s.asleep = true → exec (.gangLinkFail ps) s =
      .next ((if s.gang.inGang = false ∨ l = [] then s else { s with gang := { s.gang with lost := s.gang.lost ++ l } }).wake 5 0 none)) ∧
    (s.asleep = false → s.up = true → (s.gang.inGang = false ∨ l = []) → exec (.gangLinkFail ps) s = .next s) ∧
    (s.asleep = false → s.up = true → s.gang.inGang = true → l ≠ [] →
      exec (.gangLinkFail ps) s = .next { s with irq := s.irq ||| BitVec.ofNat 32 (2 ^ 26), gang := { s.gang with lost := s.gang.lost ++ l } })) := by
  intro s ps l hl
  have k : exec (.gangLinkFail ps) s = .next (if s.asleep then (s.gangLost ps).wake 5 0 none else if s.up then s.gangLose ps else s) := rfl
  have hl' : s.gang.fresh ps = l := by rw [hl]; rfl
  rw [k]
  unfold State.gangLose State.gangLost
  rw [hl']
  refine ⟨fun h1 h2 => by rw [h1, h2]; rfl, fun h1 => by rw [if_pos h1], fun h1 h2 h => ?_, fun h1 h2 h3 h4 => ?_⟩
  · rw [if_neg (by rw [h1]; decide), if_pos h2, if_pos h]
  · have hn : ¬ (s.gang.inGang = false ∨ l = []) := by rintro (h | h); exact absurd (h3.symm.trans h) (by decide); exact h4 h
    rw [if_neg (by rw [h1]; decide), if_pos h2, if_neg hn, if_neg hn]
    rfl

end Sys2Proof.Machine
end

