-- ==== Sys2Proof/Laws/RowsObjects.lean ====
section
/-! SUPPORT. Sys2Proof/Laws/RowsObjects.lean: the operations of the object store. -/

set_option linter.all false
set_option Elab.async false

namespace Sys2Proof.Machine
open Sys2Proof Sys2Proof.Config

theorem slotOp_1 (n : Nat) (v : Slot) :
    slotOp 1 n v = if v.kind = 1 ∨ v.kind = 2 ∨ v.kind = 3 then ⟨v, rDone, some v.value, false⟩ else ⟨v, rKind, none, false⟩ := rfl

theorem slotOp_2 (n : Nat) (v : Slot) :
    slotOp 2 n v = if v.kind ≠ 1 then ⟨v, rKind, none, false⟩ else if v.full then ⟨{ v with full := false }, rDone, some v.value, false⟩ else ⟨v, rEmpty, none, true⟩ := rfl

theorem slotOp_3 (n : Nat) (v : Slot) :
    slotOp 3 n v = if v.kind ≠ 1 then ⟨v, rKind, none, false⟩ else if v.full then ⟨v, rFull, none, false⟩ else ⟨{ v with value := n % 2 ^ 32, full := true }, rDone, none, false⟩ := rfl

theorem slotOp_4 (n : Nat) (v : Slot) :
    slotOp 4 n v = if v.kind ≠ 2 then ⟨v, rKind, none, false⟩ else ⟨{ v with value := (v.value + n) % 2 ^ 32, p := (v.p + n) % 2 ^ 32 }, rDone, none, false⟩ := rfl

theorem slotOp_5 (n : Nat) (v : Slot) :
    slotOp 5 n v = if v.kind ≠ 2 then ⟨v, rKind, none, false⟩ else if n ≤ v.value then ⟨v, rDone, some v.value, false⟩ else ⟨v, rNotReady, none, true⟩ := rfl

theorem slotOp_6 (n : Nat) (v : Slot) :
    slotOp 6 n v = if v.kind ≠ 2 then ⟨v, rKind, none, false⟩ else if n ≤ v.value then ⟨{ v with value := v.value - n, c := (v.c + n) % 2 ^ 32 }, rDone, some v.value, false⟩ else ⟨v, rUnder, none, false⟩ := rfl

theorem slotOp_7 (n : Nat) (v : Slot) :
    slotOp 7 n v = if v.kind ≠ 2 then ⟨v, rKind, none, false⟩ else if n ≤ v.value then ⟨{ v with value := v.value - n, c := (v.c + n) % 2 ^ 32 }, rDone, some v.value, false⟩ else ⟨v, rNotReady, none, true⟩ := rfl

theorem slotOp_8 (n : Nat) (v : Slot) :
    slotOp 8 n v = if v.kind ≠ 2 then ⟨v, rKind, none, false⟩ else if v.p = n ∧ v.c = n then ⟨{ v with p := 0, c := 0, drift := false }, rDone, none, false⟩ else ⟨{ v with drift := true }, rDrift, none, false⟩ := rfl

theorem slotOp_9 (n : Nat) (v : Slot) :
    slotOp 9 n v = if v.kind ≠ 3 then ⟨v, rKind, none, false⟩ else if v.c ≤ v.value then ⟨{ v with value := 0, phase := !v.phase }, rDone, some (bnat v.phase), false⟩ else ⟨{ v with value := v.value + 1 }, rDone, some (bnat v.phase), false⟩ := rfl

theorem slotOp_10 (n : Nat) (v : Slot) :
    slotOp 10 n v = if v.kind = 1 then ⟨{ v with value := n % 2 ^ 32, full := true, drift := false }, rDone, none, false⟩ else if v.kind = 2 then ⟨{ v with value := n % 2 ^ 32, p := 0, c := 0, drift := false }, rDone, none, false⟩ else ⟨v, rKind, none, false⟩ := rfl

theorem slot_set_same (s : State) (k : Nat) (v : Slot) : (s.setSlot k v).slot k = v := Map.get_set_same _ _ _ _

theorem slot_set_other (s : State) (k j : Nat) (v : Slot) (h : j ≠ k) : (s.setSlot k v).slot j = s.slot j := Map.get_set_other _ _ _ _ _ h

theorem evt_facts (s : State) (l : Nat) : (s.evt l).cnt = s.cnt ∧ (s.evt l).irq = s.irq ∧ (s.evt l).od = s.od ∧ (s.evt l).regs = s.regs ∧ (s.evt l).ports = s.ports ∧ (s.evt l).clk = s.clk ∧
    (s.evt l).td = s.td ∧ (s.evt l).sq = s.sq ∧ (s.evt l).bt = s.bt ∧ (s.evt l).ce = s.ce ∧ (∀ o, o ∈ s.out → o ∈ (s.evt l).out) := by
  rw [evt_one]; exact ⟨rfl, rfl, rfl, rfl, rfl, rfl, rfl, rfl, rfl, rfl, fun _ h => List.mem_cons_of_mem _ h⟩

theorem counter_ne (r c : Nat) (h : resultCounter r = some c) : c ≠ OD_CNT_OPS := by
  unfold resultCounter at h
  repeat' split at h
  all_goals cases h
  all_goals decide

/-- What the end of an operation changes. -/
theorem ended_facts (s : State) (h r : Nat) : (∀ j, (s.ended h r).slot j = s.slot j) ∧ (s.ended h r).od.waiters = s.od.waiters ∧ (s.ended h r).od.lends = s.od.lends ∧
    (s.ended h r).counter OD_CNT_OPS = (s.counter OD_CNT_OPS + 1) % 2 ^ 32 ∧ (s.ended h r).regs = s.regs ∧ (s.ended h r).ports = s.ports ∧
    (s.ended h r).clk = s.clk ∧ (s.ended h r).td = s.td ∧ (s.ended h r).sq = s.sq ∧ (s.ended h r).bt = s.bt ∧ (s.ended h r).ce = s.ce ∧
    (∀ o, o ∈ s.out → o ∈ (s.ended h r).out) ∧ (r = rUnder ∨ r = rDrift → (s.ended h r).irq.getLsbD 23 = true) := by
  unfold State.ended
  dsimp +zetaHave only
  obtain ⟨e1, e2, e3, e4, e5, e6, e7, e8, e9, e10, e11⟩ := evt_facts (s.count OD_CNT_OPS) 16
  generalize (s.count OD_CNT_OPS).evt 16 = a at e1 e2 e3 e4 e5 e6 e7 e8 e9 e10 e11
  have a0 : a.counter OD_CNT_OPS = (s.counter OD_CNT_OPS + 1) % 2 ^ 32 := by rw [counter_cnt e1, count_same]
  have hb : ∀ b : State, (b = a ∨ ∃ c, c ≠ OD_CNT_OPS ∧ b = a.count c) → b.od = s.od ∧ b.counter OD_CNT_OPS = (s.counter OD_CNT_OPS + 1) % 2 ^ 32 ∧ b.regs = s.regs ∧ b.ports = s.ports ∧
      b.clk = s.clk ∧ b.td = s.td ∧ b.sq = s.sq ∧ b.bt = s.bt ∧ b.ce = s.ce ∧ (∀ o, o ∈ s.out → o ∈ b.out) := by
    rintro b (rfl | ⟨c, hc, rfl⟩)
    · exact ⟨e3, a0, e4, e5, e6, e7, e8, e9, e10, e11⟩
    · exact ⟨e3, (count_other _ _ _ (fun h => hc h.symm) 1).trans a0, e4, e5, e6, e7, e8, e9, e10, e11⟩
  have tail : ∀ b : State, (b = a ∨ ∃ c, c ≠ OD_CNT_OPS ∧ b = a.count c) → ∀ d X : State,
      d = (if r = rFull ∨ r = rUnder ∨ r = rDrift then (b.raiseIf (decide (r = rUnder) || decide (r = rDrift)) 23).evt 18 else b.raiseIf (decide (r = rUnder) || decide (r = rDrift)) 23) →
      X = (if (d.ctx (hCtx h)).st = .undef then d else d.modCtx (hCtx h) fun c => { c with done := true }) →
      (∀ j, X.slot j = s.slot j) ∧ X.od.waiters = s.od.waiters ∧ X.od.lends = s.od.lends ∧
      X.counter OD_CNT_OPS = (s.counter OD_CNT_OPS + 1) % 2 ^ 32 ∧ X.regs = s.regs ∧ X.ports = s.ports ∧
      X.clk = s.clk ∧ X.td = s.td ∧ X.sq = s.sq ∧ X.bt = s.bt ∧ X.ce = s.ce ∧
      (∀ o, o ∈ s.out → o ∈ X.out) ∧ (r = rUnder ∨ r = rDrift → X.irq.getLsbD 23 = true) := by
    intro b b0 d X hd hX
    obtain ⟨b1, b2, b3, b4, b5, b6, b7, b8, b9, b10⟩ := hb b b0
    generalize hq : (decide (r = rUnder) || decide (r = rDrift)) = q at hd
    have c0 : ∀ w, w = b.raiseIf q 23 → w.od = s.od ∧ w.counter OD_CNT_OPS = (s.counter OD_CNT_OPS + 1) % 2 ^ 32 ∧ w.regs = s.regs ∧ w.ports = s.ports ∧
        w.clk = s.clk ∧ w.td = s.td ∧ w.sq = s.sq ∧ w.bt = s.bt ∧ w.ce = s.ce ∧ (∀ o, o ∈ s.out → o ∈ w.out) ∧ (q = true → w.irq.getLsbD 23 = true) := by
      rintro w rfl
      unfold State.raiseIf
      cases q with
      | false => exact ⟨b1, b2, b3, b4, b5, b6, b7, b8, b9, b10, fun h => absurd h (by decide)⟩
      | true => exact ⟨b1, b2, b3, b4, b5, b6, b7, b8, b9, b10, fun _ => by simp [State.raise]⟩
    have c1 := c0 _ rfl
    generalize b.raiseIf q 23 = w at c1 hd
    obtain ⟨w1, w2, w3, w4, w5, w6, w7, w8, w9, w10, w11⟩ := c1
    have d0 : ∀ d, (d = w ∨ d = w.evt 18) → d.od = s.od ∧ d.counter OD_CNT_OPS = (s.counter OD_CNT_OPS + 1) % 2 ^ 32 ∧ d.regs = s.regs ∧ d.ports = s.ports ∧
        d.clk = s.clk ∧ d.td = s.td ∧ d.sq = s.sq ∧ d.bt = s.bt ∧ d.ce = s.ce ∧ (∀ o, o ∈ s.out → o ∈ d.out) ∧ (q = true → d.irq.getLsbD 23 = true) := by
      obtain ⟨f1, f2, f3, f4, f5, f6, f7, f8, f9, f10, f11⟩ := evt_facts w 18
      rintro d (rfl | rfl)
      · exact ⟨w1, w2, w3, w4, w5, w6, w7, w8, w9, w10, w11⟩
      · exact ⟨f3.trans w1, (counter_cnt f1 _).trans w2, f4.trans w3, f5.trans w4, f6.trans w5, f7.trans w6, f8.trans w7, f9.trans w8, f10.trans w9, fun o h => f11 o (w10 o h), fun h => by rw [f2]; exact w11 h⟩
    have dd : d = w ∨ d = w.evt 18 := by rw [hd]; split; exact .inr rfl; exact .inl rfl
    obtain ⟨d1, d2, d3, d4, d5, d6, d7, d8, d9, d10, d11⟩ := d0 d dd
    have hq' : r = rUnder ∨ r = rDrift → q = true := by
      intro h; rw [← hq]; rcases h with h | h <;> rw [h] <;> rfl
    have ds : ∀ j, d.slot j = s.slot j := fun j => by unfold State.slot; rw [d1]
    rw [hX]
    split
    · exact ⟨ds, by rw [d1], by rw [d1], d2, d3, d4, d5, d6, d7, d8, d9, d10, fun h => d11 (hq' h)⟩
    · refine ⟨ds, ?_, ?_, d2, d3, d4, d5, d6, d7, d8, d9, d10, fun h => d11 (hq' h)⟩
      · show d.od.waiters = _; rw [d1]
      · show d.od.lends = _; rw [d1]
  cases hc : resultCounter r with
  | none => exact tail a (.inl rfl) _ _ rfl rfl
  | some c => exact tail (a.count c) (.inr ⟨c, counter_ne r c hc, rfl⟩) _ _ rfl rfl

theorem note_facts (s : State) (k r : Nat) (v : Slot) (h : s.slot k = v) : (s.noteLast k r).slot k = (if r = 0 then v else { v with last := r }) ∧
    (∀ j, j ≠ k → (s.noteLast k r).slot j = s.slot j) ∧ s.noteLast k r = { s with od := { s.od with slots := (s.noteLast k r).od.slots } } := by
  unfold State.noteLast
  by_cases hr : r = rDone
  · rw [if_pos hr, if_pos (c := r = 0) hr]; exact ⟨h, fun _ _ => rfl, rfl⟩
  · rw [if_neg hr, if_neg (c := r = 0) hr]
    exact ⟨by rw [slot_set_same, h], fun j hj => slot_set_other _ _ _ _ hj, rfl⟩

/-- The reach of a request to its slot. -/
theorem obj_reach {s : State} {r : EngReq} {k : Nat} {v : Slot} (h : s.ObjTo r k v) (op : Nat) : ∃ u : State,
    s.fromTap op r = .next (u.engineAt op r s.clk.course k) ∧ u.slot = s.slot ∧ u.od = s.od ∧ u.cnt = s.cnt ∧ u.regs = s.regs ∧ u.ports = s.ports ∧ u.clk = s.clk ∧
    u.td = s.td ∧ u.sq = s.sq ∧ u.bt = s.bt ∧ u.ce = s.ce ∧ u.refresh k = u ∧ u.ties = s.ties ∧ u.irq = s.irq := by
  obtain ⟨hs, ⟨ht1, ht2⟩, hon, ⟨hr, hf⟩, hfr, hsl, hv, hg⟩ := h
  have he : s.isEave = true := by unfold State.odOn State.odRuns at hon; simp only [Bool.and_eq_true] at hon; exact hon.1.1
  obtain ⟨o, g, hop⟩ := s.busy.openGate_form 2
  refine ⟨s.busy.openGate 2, ?_, ?_⟩
  · unfold State.fromTap State.tapRequest
    rw [if_pos hs.1, if_pos ⟨he, ht1, ht2⟩]
    have hw : ∀ a b c, s.wake a b c = s.busy := by
      intro a b c
      unfold State.wake
      dsimp +zetaHave only
      rw [show s.busy.pw.st = .active from hs.2]
    rw [hw]
    dsimp only
    rw [if_pos (show s.busy.up = true from hs.up), show s.busy.busy = s.busy from rfl]
    unfold State.engine
    have q1 : (s.busy.openGate 2).odOn = true := by rw [hop]; exact hon
    have q2 : (s.busy.openGate 2).tapHeld r.tap = false := by rw [hop]; exact hfr
    have q3 : (s.busy.openGate 2).translate r.handle = .slot k := by rw [hop]; exact hsl
    have q4 : (s.busy.openGate 2).clk = s.clk := by rw [hop]; rfl
    rw [q1, hr, hf, q4]
    simp only [Bool.true_eq_false, Bool.false_eq_true, reduceIte]
    unfold State.localReq
    rw [q2, q3]
    simp only [Bool.false_eq_true, reduceIte]
  · have hrf : (s.busy.openGate 2).refresh k = s.busy.openGate 2 := by
      unfold State.refresh
      dsimp +zetaHave only
      have : (s.busy.openGate 2).slot k = v := by rw [hop, hv]; rfl
      rw [this]
      have : ((s.busy.openGate 2).ctx v.ctx).gen = v.gen := by rw [hop, hg]; rfl
      rw [this, if_pos rfl]
    refine ⟨?_, ?_, ?_, ?_, ?_, ?_, ?_, ?_, ?_, ?_, hrf, ?_, ?_⟩ <;> rw [hop] <;> rfl

/-- The re-evaluation of a slot nobody waits on. -/
theorem reeval_none (s : State) (k : Nat) (h : ∀ w ∈ s.od.waiters, w.slot ≠ k) : s.reeval k = s := by
  unfold State.reeval
  have : (s.od.waiters.filter fun w => decide (w.slot = k)) = [] := by
    rw [List.filter_eq_nil_iff]
    intro w hw hh; exact h w hw (of_decide_eq_true hh)
  rw [this]; rfl

/-- An operation that ends at once. -/
theorem obj_ends {s : State} {r : EngReq} {k : Nat} {v : Slot} (h : s.ObjTo r k v) (op : Nat) (ho : ¬ ((slotOp op r.operand v).waits = true ∧ r.wait = true))
    (ha : ∀ w ∈ s.od.waiters, w.slot ≠ k) (h9 : op ≠ 9 ∨ (slotOp op r.operand v).res ≠ 0 ∨ (slotOp op r.operand v).slot.value ≠ 0 ∨
      (s.td.acq = false ∨ ∀ e ∈ s.ce.handles, ∀ g, e.2 = some g → g.arriveObj ≠ some (hKey r.handle))) :
    ∃ t, s.fromTap op r = .next t ∧ s.ObjEnds t r k (slotOp op r.operand v).slot (slotOp op r.operand v).res (slotOp op r.operand v).val ∧
      ((slotOp op r.operand v).res = 3 ∨ (slotOp op r.operand v).res = 4 → t.irq.getLsbD 23 = true) ∧
      (op = 9 → (slotOp op r.operand v).res = 0 → (slotOp op r.operand v).slot.value = 0 →
        t.bt.fly = s.bt.fly ++ s.releaseWords (hKey r.handle) (slotOp op r.operand v).slot.phase) := by
  obtain ⟨u, hu, u0, u1, u2, u3, u4, u5, u6, u7, u8, u9, u10, u11, u12⟩ := obj_reach h op
  rw [hu]
  refine ⟨_, rfl, ?_⟩
  unfold State.engineAt
  rw [u10]
  dsimp +zetaHave only
  rw [u0, ← h.slot.2.1]
  generalize slotOp op r.operand v = o at ho h9
  rw [if_neg ho]
  generalize hy : u.setSlot k o.slot = y
  have y1 : y.slot k = o.slot := by rw [← hy, slot_set_same]
  have y2 : ∀ j, j ≠ k → y.slot j = s.slot j := fun j hj => by rw [← hy, slot_set_other _ _ _ _ hj, u0]
  have y3 : y.od.waiters = s.od.waiters ∧ y.od.lends = s.od.lends ∧ y.cnt = s.cnt ∧ y.regs = s.regs ∧ y.ports = s.ports ∧ y.clk = s.clk ∧ y.td = s.td ∧ y.sq = s.sq ∧
      y.bt = s.bt ∧ y.ce = s.ce := by
    rw [← hy]; exact ⟨by show u.od.waiters = _; rw [u1], by show u.od.lends = _; rw [u1], u2, u3, u4, u5, u6, u7, u8, u9⟩
  obtain ⟨n1, n2, n3⟩ := note_facts y k o.res o.slot y1
  have n4 : (y.noteLast k o.res).od.waiters = y.od.waiters ∧ (y.noteLast k o.res).od.lends = y.od.lends ∧ (y.noteLast k o.res).cnt = y.cnt ∧ (y.noteLast k o.res).regs = y.regs ∧
      (y.noteLast k o.res).ports = y.ports ∧ (y.noteLast k o.res).clk = y.clk ∧ (y.noteLast k o.res).td = y.td ∧ (y.noteLast k o.res).sq = y.sq ∧
      (y.noteLast k o.res).bt = y.bt ∧ (y.noteLast k o.res).ce = y.ce := by rw [n3]; exact ⟨rfl, rfl, rfl, rfl, rfl, rfl, rfl, rfl, rfl, rfl⟩
  have ties : ∀ {a c : State}, a.fixed = c.fixed → c.ties = s.ties → a.ties = s.ties := by
    intro a c h hc
    simp only [State.fixed, Prod.mk.injEq] at h
    exact h.2.1.trans hc
  have zt : (y.noteLast k o.res).ties = s.ties := ties (State.noteLast_fixed _ _ _) (by rw [← hy]; exact u11)
  generalize y.noteLast k o.res = z at n1 n2 n4 zt
  obtain ⟨e1, e2, e3, e4, e5, e6, e7, e8, e9, e10, e11, e12, e13⟩ := ended_facts z r.handle o.res
  have xt : (z.ended r.handle o.res).ties = s.ties := ties (State.ended_fixed _ _ _) zt
  generalize z.ended r.handle o.res = x at xt e1 e2 e3 e4 e5 e6 e7 e8 e9 e10 e11 e12 e13
  -- the value, the response
  have hval : ∀ q, q = x.valueOf o.val → q.1.od = x.od ∧ q.1.cnt = x.cnt ∧ q.1.regs = x.regs ∧ q.1.ports = x.ports ∧ q.1.clk = x.clk ∧ q.1.td = x.td ∧ q.1.sq = x.sq ∧ q.1.bt = x.bt ∧
      q.1.ce = x.ce ∧ q.1.irq = x.irq ∧ (∀ y, o.val = some y → q.2 = y) := by
    rintro q rfl
    unfold State.valueOf
    cases o.val with
    | none => exact ⟨rfl, rfl, rfl, rfl, rfl, rfl, rfl, rfl, rfl, rfl, fun y h => by cases h⟩
    | some a => exact ⟨rfl, rfl, rfl, rfl, rfl, rfl, rfl, rfl, rfl, rfl, fun y h => by cases h; rfl⟩
  have hv := hval _ rfl
  have qt : (x.valueOf o.val).1.ties = s.ties := ties (State.valueOf_fixed _ _) xt
  generalize x.valueOf o.val = q at hv qt
  obtain ⟨v1, v2, v3, v4, v5, v6, v7, v8, v9, v10, v11⟩ := hv
  have hrsp : ∀ w, w = q.1.respond r o.res q.2 → w.od = x.od ∧ w.cnt = x.cnt ∧ w.regs = x.regs ∧ w.ports = x.ports ∧ w.clk = x.clk ∧ w.td = x.td ∧ w.sq = x.sq ∧ w.bt = x.bt ∧
      w.ce = x.ce ∧ w.irq = x.irq ∧ (r.bar = false → Output.objRsp r.tap r.rtag o.res q.2 ∈ w.out) := by
    rintro w rfl
    unfold State.respond
    cases r.bar with
    | true => exact ⟨v1, v2, v3, v4, v5, v6, v7, v8, v9, v10, fun h => absurd h (by decide)⟩
    | false => exact ⟨v1, v2, v3, v4, v5, v6, v7, v8, v9, v10, fun _ => List.mem_cons_self⟩
  have hw := hrsp _ rfl
  have wt : (q.1.respond r o.res q.2).ties = s.ties := ties (State.respond_fixed _ _ _ _) qt
  generalize q.1.respond r o.res q.2 = w at hw wt
  obtain ⟨w1, w2, w3, w4, w5, w6, w7, w8, w9, w10, w11⟩ := hw
  -- what follows
  have base : ∀ t : State, (∀ j, t.slot j = w.slot j) → t.od.waiters = w.od.waiters → t.out = w.out → t.counter OD_CNT_OPS = w.counter OD_CNT_OPS → t.regs = w.regs → t.ports = w.ports →
      t.clk = w.clk → t.td = w.td → t.sq = w.sq → s.ObjEnds t r k o.slot o.res o.val := by
    intro t t1 t2 t3 t4 t5 t6 t7 t8 t9
    have ws : ∀ j, w.slot j = z.slot j := fun j => by rw [← e1 j]; unfold State.slot; rw [w1]
    refine ⟨?_, fun j hj => ?_, fun hb => ⟨q.2, by rw [t3]; exact w11 hb, v11⟩, ?_, ?_, ⟨?_, ?_, ?_, ?_, ?_⟩⟩
    · rw [t1, ws, n1]
    · rw [t1, ws, n2 j hj, y2 j hj]
    · rw [t4, counter_cnt w2, e4, counter_cnt n4.2.2.1, counter_cnt y3.2.2.1]
    · rw [t2, w1, e2, n4.1, y3.1]
    · rw [t5, w3, e5, n4.2.2.2.1, y3.2.2.2.1]
    · rw [t6, w4, e6, n4.2.2.2.2.1, y3.2.2.2.2.1]
    · rw [t7, w5, e7, n4.2.2.2.2.2.1, y3.2.2.2.2.2.1]
    · rw [t8, w6, e8, n4.2.2.2.2.2.2.1, y3.2.2.2.2.2.2.1]
    · rw [t9, w7, e9, n4.2.2.2.2.2.2.2.1, y3.2.2.2.2.2.2.2.1]
  have hww : ∀ a ∈ w.od.waiters, a.slot ≠ k := by
    intro a ha'; rw [w1, e2, n4.1, y3.1] at ha'; exact ha a ha'
  have wirq : o.res = 3 ∨ o.res = 4 → w.irq.getLsbD 23 = true := fun h => by rw [w10]; exact e13 h
  have wrel : w.bt = s.bt := by rw [w8, e10, n4.2.2.2.2.2.2.2.2.1, y3.2.2.2.2.2.2.2.2.1]
  have whead : ∀ h p, w.releaseWords h p = s.releaseWords h p := by
    have hr : w.regs = s.regs := by rw [w3, e5, n4.2.2.2.1, y3.2.2.2.1]
    intro h p
    unfold State.releaseWords State.headTaps State.tapList State.tapEn State.bit State.rd
    rw [hr, wt]
  have wtd : w.td = s.td := by rw [w6, e8, n4.2.2.2.2.2.2.1, y3.2.2.2.2.2.2.1]
  have wce : w.ce = s.ce := by rw [w9, e11, n4.2.2.2.2.2.2.2.2.2, y3.2.2.2.2.2.2.2.2.2]
  unfold State.afterOp
  by_cases hres : o.res ≠ rDone
  · rw [if_pos hres]
    exact ⟨base w (fun _ => rfl) rfl rfl rfl rfl rfl rfl rfl rfl, wirq, fun _ h0 => absurd h0 hres⟩
  · rw [if_neg hres]
    have hres' : o.res = 0 := Classical.not_not.mp hres
    by_cases h9' : op = 9
    · rw [if_pos h9']
      unfold State.barrierAfter
      dsimp +zetaHave only
      have wk : w.slot k = o.slot := by
        have : w.slot k = z.slot k := by rw [← e1 k]; unfold State.slot; rw [w1]
        rw [this, n1, if_pos hres']
      rw [wk]
      by_cases h0 : o.slot.value = 0
      · rw [if_pos h0]
        have hce : s.td.acq = false ∨ ∀ e ∈ s.ce.handles, ∀ g, e.2 = some g → g.arriveObj ≠ some (hKey r.handle) := by
          rcases h9 with h | h | h | h
          · exact absurd h9' h
          · exact absurd hres' h
          · exact absurd h0 h
          · exact h
        by_cases hq : w.td.acq = false
        · rw [if_pos hq]
          exact ⟨base _ (fun _ => rfl) rfl rfl rfl rfl rfl rfl rfl rfl, wirq, fun _ _ _ => by rw [← wrel, ← whead]⟩
        rw [if_neg hq]
        generalize hb : ({ w with od := { w.od with part := w.od.part.filter fun e => decide (e.1 ≠ k) }, bt := { w.bt with fly := w.bt.fly ++ w.releaseWords (hKey r.handle) o.slot.phase } } : State) = b
        have b1 : (∀ j, b.slot j = w.slot j) ∧ b.od.waiters = w.od.waiters ∧ b.out = w.out ∧ b.counter OD_CNT_OPS = w.counter OD_CNT_OPS ∧ b.regs = w.regs ∧ b.ports = w.ports ∧
            b.clk = w.clk ∧ b.td = w.td ∧ b.sq = w.sq ∧ b.irq = w.irq ∧ b.bt.fly = s.bt.fly ++ s.releaseWords (hKey r.handle) o.slot.phase ∧ b.ce = s.ce := by
          rw [← hb]; exact ⟨fun _ => rfl, rfl, rfl, rfl, rfl, rfl, rfl, rfl, rfl, rfl, by rw [← wrel, ← whead], wce⟩
        obtain ⟨b1, b2, b3, b4, b5, b6, b7, b8, b9, b10, b11, b12⟩ := b1
        have hfold : ∀ (l : List (Nat × Option Handle)) (x : State) (f : State → Nat × Option Handle → State), (∀ e ∈ l, f x e = x) → l.foldl f x = x := by
          intro l x f hf
          induction l with
          | nil => rfl
          | cons a l ih =>
            rw [List.foldl_cons, hf a List.mem_cons_self]
            exact ih fun e he => hf e (List.mem_cons_of_mem _ he)
        have hce' : ∀ e ∈ s.ce.handles, ∀ g, e.2 = some g → g.arriveObj ≠ some (hKey r.handle) := by
          rcases hce with h | h
          · rw [wtd] at hq; exact absurd h hq
          · exact h
        rw [hfold]
        · exact ⟨base b b1 b2 b3 b4 b5 b6 b7 b8 b9, fun h => by rw [b10]; exact wirq h, fun _ _ _ => b11⟩
        · intro e he
          rw [wce] at he
          cases hg : e.2 with
          | none => rfl
          | some g => dsimp only; rw [if_neg (hce' e he g hg)]
      · rw [if_neg h0]
        split
        · exact ⟨base _ (fun _ => rfl) rfl rfl rfl rfl rfl rfl rfl rfl, wirq, fun _ _ h => absurd h h0⟩
        · exact ⟨base w (fun _ => rfl) rfl rfl rfl rfl rfl rfl rfl rfl, wirq, fun _ _ h => absurd h h0⟩
    · rw [if_neg h9', reeval_none w k hww]
      exact ⟨base w (fun _ => rfl) rfl rfl rfl rfl rfl rfl rfl rfl, wirq, fun h => absurd h h9'⟩

/-- A request that ends before it reaches a slot. -/
theorem end_engine (s : State) (r : EngReq) (res : Nat) : (r.bar = false → ∃ x, Output.objRsp r.tap r.rtag res x ∈ (s.endEngine r res).out) ∧
    (∀ j, (s.endEngine r res).slot j = s.slot j) ∧ (s.endEngine r res).od.waiters = s.od.waiters := by
  obtain ⟨e1, e2, e3, e4, e5, e6, e7, e8, e9, e10, e11, e12, e13⟩ := ended_facts s r.handle res
  unfold State.endEngine
  dsimp +zetaHave only
  generalize s.ended r.handle res = x at e1 e2 e12
  unfold State.respond
  cases hb : r.bar with
  | true => exact ⟨fun h => absurd h (by decide), e1, e2⟩
  | false => exact ⟨fun _ => ⟨_, List.mem_cons_self⟩, e1, e2⟩

/-- What the row FILL does (R260). -/
theorem exec_fill : ∀ (s : State) (r : EngReq) (k : Nat) (v : Slot) (w : Waiter), s.ObjTo r k v → v.kind = 1 → v.full = false →
    (s.od.waiters.filter fun x => x.slot = k) = [w] → w.op = 2 → (s.od.lends.find? fun l => l.id = w.id) = none →
    ∃ t, exec (.fill r) s = .next t ∧ t.slot k = { v with value := r.operand % 2 ^ 32 } ∧
      .objRsp w.tap w.rtag 0 (r.operand % 2 ^ 32) ∈ t.out ∧ t.od.waiters = s.od.waiters.filter (fun x => x.id ≠ w.id) := by
  intro s r k v w h hk hf hw hop hl
  obtain ⟨u, hu, u0, u1, u2, u3, u4, u5, u6, u7, u8, u9, u10, u11, u12⟩ := obj_reach h 3
  have kk : exec (.fill r) s = s.fromTap 3 r := rfl
  rw [kk, hu]
  refine ⟨_, rfl, ?_⟩
  unfold State.engineAt
  rw [u10]
  dsimp +zetaHave only
  rw [u0, ← h.slot.2.1]
  have ho : slotOp 3 r.operand v = ⟨{ v with value := r.operand % 2 ^ 32, full := true }, rDone, none, false⟩ := by
    rw [slotOp_3, if_neg (by rw [hk]; decide), hf, if_neg (by decide)]
  rw [ho]
  dsimp only
  rw [if_neg (by simp)]
  generalize hv1 : ({ v with value := r.operand % 2 ^ 32, full := true } : Slot) = v1
  generalize hy : u.setSlot k v1 = y
  have y1 : y.slot k = v1 := by rw [← hy, slot_set_same]
  have y3 : y.od.waiters = s.od.waiters ∧ y.od.lends = s.od.lends := by rw [← hy]; exact ⟨by show u.od.waiters = _; rw [u1], by show u.od.lends = _; rw [u1]⟩
  obtain ⟨n1, n2, n3⟩ := note_facts y k rDone v1 y1
  rw [if_pos (c := rDone = 0) rfl] at n1
  have n4 : (y.noteLast k rDone).od.waiters = y.od.waiters ∧ (y.noteLast k rDone).od.lends = y.od.lends := by rw [n3]; exact ⟨rfl, rfl⟩
  generalize y.noteLast k rDone = z at n1 n4
  obtain ⟨e1, e2, e3, _⟩ := ended_facts z r.handle rDone
  generalize z.ended r.handle rDone = x at e1 e2 e3
  have hq : ∀ q, q = (x.valueOf none) → q.1.od = x.od := by rintro q rfl; rfl
  have hq' := hq _ rfl
  generalize x.valueOf none = q at hq'
  have hr : (q.1.respond r rDone q.2).od = x.od := by unfold State.respond; split <;> exact hq'
  generalize q.1.respond r rDone q.2 = p at hr
  have p1 : p.slot k = v1 := by
    have : p.slot k = x.slot k := by unfold State.slot; rw [hr]
    rw [this, e1, n1]
  have p2 : p.od.waiters = s.od.waiters ∧ p.od.lends = s.od.lends := by rw [hr, e2, e3, n4.1, n4.2]; exact y3
  unfold State.afterOp
  rw [if_neg (by decide), if_neg (by decide)]
  unfold State.reeval
  rw [p2.1, hw, List.foldl_cons, List.foldl_nil]
  dsimp +zetaHave only
  rw [p1, hop]
  have ho2 : slotOp 2 w.operand v1 = ⟨{ v1 with full := false }, rDone, some v1.value, false⟩ := by
    rw [slotOp_2, ← hv1]; dsimp only; rw [if_neg (by rw [hk]; decide), if_pos rfl]
  rw [ho2]
  dsimp only
  rw [if_pos rfl]
  have vo : ∀ (a : State) (b : Nat), a.valueOf (some b) = (a, b) := fun _ _ => rfl
  rw [vo]
  dsimp only
  unfold State.endWaiter
  dsimp +zetaHave only
  generalize hm : ({ (p.setSlot k { v1 with full := false }) with od := { (p.setSlot k { v1 with full := false }).od with waiters := (p.setSlot k { v1 with full := false }).od.waiters.filter fun x => decide (x.id ≠ w.id) } } : State) = m
  have m1 : m.slot k = { v1 with full := false } := by rw [← hm]; exact slot_set_same p k _
  have m2 : m.od.waiters = s.od.waiters.filter (fun x => decide (x.id ≠ w.id)) ∧ m.od.lends = s.od.lends := by
    rw [← hm]; exact ⟨by show p.od.waiters.filter _ = _; rw [p2.1], p2.2⟩
  have mn : m.noteLast w.slot rDone = m := by unfold State.noteLast; rw [if_pos rfl]
  rw [mn]
  obtain ⟨a1, a2, a3, _⟩ := ended_facts m w.handle rDone
  generalize m.ended w.handle rDone = a at a1 a2 a3
  rw [a3, m2.2, hl]
  dsimp only
  refine ⟨?_, ?_, a2.trans m2.1⟩
  · show a.slot k = _
    rw [a1, m1, ← hv1]
    show ({ v with value := r.operand % 2 ^ 32, full := false } : Slot) = _
    rw [← hf]
  · have : v1.value = r.operand % 2 ^ 32 := by rw [← hv1]
    rw [this]; exact List.mem_cons_self

/-- What the rows READ, WAITGE, WDEC do (R260). -/
theorem exec_read_waitge_wdec : ∀ (s : State) (r : EngReq) (k op i : Nat) (v : Slot) (c : EngReq → Instr), s.ObjTo r k v → r.wait = true → s.waiterId = some i →
    (c = .read ∧ op = 2 ∧ v.kind = 1 ∧ v.full = false) ∨ (c = .waitge ∧ op = 5 ∧ v.kind = 2 ∧ v.value < r.operand) ∨
      (c = .wdec ∧ op = 7 ∧ v.kind = 2 ∧ v.value < r.operand) →
    ∃ t, exec (c r) s = .next t ∧ (∀ j, t.slot j = s.slot j) ∧ t.cnt = s.cnt ∧ t.regs = s.regs ∧ t.ports = s.ports ∧
      t.od.waiters = s.od.waiters ++ [{ id := i, tap := r.tap, rtag := r.rtag, handle := hKey r.handle, slot := k, op := op, operand := r.operand, deadline := if r.dl = 0 then none else some (s.clk.course + r.dl), lend := r.lend, tick := s.clk.ticks, ord := s.od.nextOrd }] := by
  intro s r k op i v c h hw hi hc
  have kk : exec (c r) s = s.fromTap op r := by rcases hc with ⟨rfl, rfl, _⟩ | ⟨rfl, rfl, _⟩ | ⟨rfl, rfl, _⟩ <;> rfl
  obtain ⟨u, hu, u0, u1, u2, u3, u4, u5, u6, u7, u8, u9, u10, u11, u12⟩ := obj_reach h op
  have ho : (slotOp op r.operand v).waits = true := by
    rcases hc with ⟨_, rfl, h1, h2⟩ | ⟨_, rfl, h1, h2⟩ | ⟨_, rfl, h1, h2⟩
    · rw [slotOp_2, if_neg (by rw [h1]; decide), h2, if_neg (by decide)]
    · rw [slotOp_5, if_neg (by rw [h1]; decide), if_neg (by omega)]
    · rw [slotOp_7, if_neg (by rw [h1]; decide), if_neg (by omega)]
  rw [kk, hu]
  refine ⟨_, rfl, ?_⟩
  unfold State.engineAt
  rw [u10]
  dsimp +zetaHave only
  rw [u0, ← h.slot.2.1, if_pos ⟨ho, hw⟩]
  have : u.waiterId = some i := by rw [← hi]; unfold State.waiterId; rw [u1]
  rw [this]
  dsimp only
  rw [evt_one, u5]
  refine ⟨fun j => ?_, u2, u3, u4, ?_⟩
  · show u.slot j = _; rw [u0]
  · show u.od.waiters ++ _ = _; rw [u1]

/-- What the rows READ, FILL, SIGNAL, WAITGE, DEC, WDEC and others do (R260, R264, R268). -/
theorem exec_read_fill_signal_more : ∀ (s : State) (r : EngReq) (c : EngReq → Instr), c ∈ [Instr.peek, .read, .fill, .signal, .waitge, .dec, .wdec, .realign, .arrive, .set] →
    s.Serving → s.isEave = true →
    (s.tapEn r.tap = false ∨ s.tapRuns r.tap = false → exec (c r) s = .next s) ∧
    (s.tapEn r.tap = true → s.tapRuns r.tap = true → r.bar = false →
      (s.odOn = false → ∃ t x, exec (c r) s = .next t ∧ .objRsp r.tap r.rtag 0x0D x ∈ t.out ∧ (∀ j, t.slot j = s.slot j)) ∧
      (s.odOn = true → r.remote = false → r.fence = false → s.tapHeld r.tap = false → s.translate r.handle = .fail →
        ∃ t x, exec (c r) s = .next t ∧ .objRsp r.tap r.rtag 8 x ∈ t.out ∧ (∀ j, t.slot j = s.slot j))) := by
  intro s r c hc hs he
  have kk : ∃ op, exec (c r) s = s.fromTap op r := by
    simp only [List.mem_cons, List.not_mem_nil, or_false] at hc
    rcases hc with h | h | h | h | h | h | h | h | h | h <;> subst h <;> exact ⟨_, rfl⟩
  obtain ⟨op, kk⟩ := kk
  rw [kk]
  unfold State.fromTap
  rw [if_pos hs.1]
  unfold State.tapRequest
  refine ⟨fun h => ?_, fun h1 h2 hb => ?_⟩
  · rw [if_neg]
    rintro ⟨_, a, b⟩
    rcases h with h | h
    · rw [h] at a; exact absurd a (by decide)
    · rw [h] at b; exact absurd b (by decide)
  · rw [if_pos ⟨he, h1, h2⟩]
    have hw : ∀ a b c, s.wake a b c = s.busy := by
      intro a b c
      unfold State.wake
      dsimp +zetaHave only
      rw [show s.busy.pw.st = .active from hs.2]
    rw [hw]
    dsimp only
    rw [if_pos (show s.busy.up = true from hs.up), show s.busy.busy = s.busy from rfl]
    obtain ⟨o, g, hop⟩ := s.busy.openGate_form 2
    have q0 : ∀ j, (s.busy.openGate 2).slot j = s.slot j := fun j => by rw [hop]; rfl
    have q1 : (s.busy.openGate 2).odOn = s.odOn := by rw [hop]; rfl
    have q2 : (s.busy.openGate 2).tapHeld r.tap = s.tapHeld r.tap := by rw [hop]; rfl
    have q3 : (s.busy.openGate 2).translate r.handle = s.translate r.handle := by rw [hop]; rfl
    generalize s.busy.openGate 2 = u at q0 q1 q2 q3
    unfold State.engine
    rw [q1]
    refine ⟨fun h => ?_, fun h3 h4 h5 h6 h7 => ?_⟩
    · rw [if_pos h]
      obtain ⟨a1, a2, _⟩ := end_engine u r rDisabled
      obtain ⟨x, hx⟩ := a1 hb
      exact ⟨_, x, rfl, hx, fun j => (a2 j).trans (q0 j)⟩
    · rw [if_neg (by rw [h3]; decide), if_neg (by rw [h4]; decide), if_neg (by rw [h5]; decide)]
      unfold State.localReq
      rw [q2, if_neg (by rw [h6]; decide), q3, h7]
      obtain ⟨a1, a2, _⟩ := end_engine u r rHandle
      obtain ⟨x, hx⟩ := a1 hb
      exact ⟨_, x, rfl, hx, fun j => (a2 j).trans (q0 j)⟩

theorem ends_val {s t : State} {r : EngReq} {k : Nat} {v : Slot} {res : Nat} {val : Option Nat} (h : s.ObjEnds t r k v res val) : s.ObjEnds t r k v res none :=
  ⟨h.slot, h.others, fun hb => (h.response hb).elim fun x hx => ⟨x, hx.1, fun _ h => by cases h⟩, h.counted, h.waiters, h.kept⟩

/-- What the rows PEEK, READ, FILL, SIGNAL, WAITGE, DEC and others do (R260, R264, R268). -/
theorem exec_peek_read_fill_more :
    (∀ (s : State) (r : EngReq) (k : Nat) (v : Slot), s.ObjTo r k v → (∀ w ∈ s.od.waiters, w.slot ≠ k) →
      (v.kind = 1 ∨ v.kind = 2 ∨ v.kind = 3 → ∃ t, exec (.peek r) s = .next t ∧ s.ObjEnds t r k v 0 (some v.value)) ∧
      (v.kind = 1 → v.full = true → ∃ t, exec (.read r) s = .next t ∧ s.ObjEnds t r k { v with full := false } 0 (some v.value)) ∧
      (v.kind = 1 → v.full = false → r.wait = false → ∃ t, exec (.read r) s = .next t ∧ s.ObjEnds t r k v 1 none) ∧
      (v.kind = 1 → v.full = false →
        ∃ t, exec (.fill r) s = .next t ∧ s.ObjEnds t r k { v with value := r.operand % 2 ^ 32, full := true } 0 none) ∧
      (v.kind = 1 → v.full = true → ∃ t, exec (.fill r) s = .next t ∧ s.ObjEnds t r k v 2 none) ∧
      (v.kind = 2 → ∃ t, exec (.signal r) s = .next t ∧
        s.ObjEnds t r k { v with value := (v.value + r.operand) % 2 ^ 32, p := (v.p + r.operand) % 2 ^ 32 } 0 none) ∧
      (v.kind = 2 → r.operand ≤ v.value → ∃ t, exec (.waitge r) s = .next t ∧ s.ObjEnds t r k v 0 (some v.value)) ∧
      (v.kind = 2 → v.value < r.operand → r.wait = false → ∃ t, exec (.waitge r) s = .next t ∧ s.ObjEnds t r k v 0x0F none) ∧
      (v.kind = 2 → r.operand ≤ v.value →
        (∃ t, exec (.dec r) s = .next t ∧
          s.ObjEnds t r k { v with value := v.value - r.operand, c := (v.c + r.operand) % 2 ^ 32 } 0 none) ∧
        (∃ t, exec (.wdec r) s = .next t ∧
          s.ObjEnds t r k { v with value := v.value - r.operand, c := (v.c + r.operand) % 2 ^ 32 } 0 none)) ∧
      (v.kind = 2 → v.value < r.operand → ∃ t, exec (.dec r) s = .next t ∧ s.ObjEnds t r k v 3 none ∧ t.irq.getLsbD 23 = true) ∧
      (v.kind = 2 → v.value < r.operand → r.wait = false → ∃ t, exec (.wdec r) s = .next t ∧ s.ObjEnds t r k v 0x0F none) ∧
      (v.kind = 2 → v.p = r.operand → v.c = r.operand →
        ∃ t, exec (.realign r) s = .next t ∧ s.ObjEnds t r k { v with p := 0, c := 0, drift := false } 0 none) ∧
      (v.kind = 2 → (v.p ≠ r.operand ∨ v.c ≠ r.operand) →
        ∃ t, exec (.realign r) s = .next t ∧ s.ObjEnds t r k { v with drift := true } 4 none ∧ t.irq.getLsbD 23 = true) ∧
      (v.kind = 3 → v.value < v.c →
        ∃ t, exec (.arrive r) s = .next t ∧ s.ObjEnds t r k { v with value := v.value + 1 } 0 (some (bnat v.phase))) ∧
      (v.kind = 3 → v.c ≤ v.value → (s.td.acq = false ∨ ∀ e ∈ s.ce.handles, ∀ g, e.2 = some g → g.arriveObj ≠ some (hKey r.handle)) →
        ∃ t, exec (.arrive r) s = .next t ∧ s.ObjEnds t r k { v with value := 0, phase := !v.phase } 0 (some (bnat v.phase)) ∧
          t.bt.fly = s.bt.fly ++ s.releaseWords (hKey r.handle) (!v.phase)) ∧
      (v.kind = 1 → ∃ t, exec (.set r) s = .next t ∧ s.ObjEnds t r k { v with value := r.operand % 2 ^ 32, full := true, drift := false } 0 none) ∧
      (v.kind = 2 → ∃ t, exec (.set r) s = .next t ∧
        s.ObjEnds t r k { v with value := r.operand % 2 ^ 32, p := 0, c := 0, drift := false } 0 none) ∧
      (∀ c : EngReq → Instr, (c ∈ [Instr.read, .fill] ∧ v.kind ≠ 1) ∨ (c ∈ [Instr.signal, .waitge, .dec, .wdec, .realign] ∧ v.kind ≠ 2) ∨
        (c = .arrive ∧ v.kind ≠ 3) ∨ (c = .set ∧ v.kind ≠ 1 ∧ v.kind ≠ 2) ∨ (c = .peek ∧ v.kind ≠ 1 ∧ v.kind ≠ 2 ∧ v.kind ≠ 3) →
        ∃ t, exec (c r) s = .next t ∧ s.ObjEnds t r k v 7 none)) := by
  intro s r k v h ha
  have key : ∀ (c : EngReq → Instr) (op : Nat) (o : SlotOut), exec (c r) s = s.fromTap op r → slotOp op r.operand v = o → ¬ (o.waits = true ∧ r.wait = true) →
      (op ≠ 9 ∨ o.res ≠ 0 ∨ o.slot.value ≠ 0 ∨ (s.td.acq = false ∨ ∀ e ∈ s.ce.handles, ∀ g, e.2 = some g → g.arriveObj ≠ some (hKey r.handle))) →
      ∃ t, exec (c r) s = .next t ∧ s.ObjEnds t r k o.slot o.res o.val ∧ (o.res = 3 ∨ o.res = 4 → t.irq.getLsbD 23 = true) ∧
        (op = 9 → o.res = 0 → o.slot.value = 0 → t.bt.fly = s.bt.fly ++ s.releaseWords (hKey r.handle) o.slot.phase) := by
    intro c op o hc ho hw h9
    subst ho
    rw [hc]
    exact obj_ends h op hw ha h9
  have plain : ∀ (c : EngReq → Instr) (op : Nat) (o : SlotOut), exec (c r) s = s.fromTap op r → slotOp op r.operand v = o → (o.waits = false ∨ r.wait = false) → (op ≠ 9 ∨ o.res ≠ 0) →
      ∃ t, exec (c r) s = .next t ∧ s.ObjEnds t r k o.slot o.res o.val := by
    intro c op o hc ho hw h9
    obtain ⟨t, t1, t2, _⟩ := key c op o hc ho (by rintro ⟨a, b⟩; rcases hw with h | h <;> simp_all) (h9.elim .inl fun h => .inr (.inl h))
    exact ⟨t, t1, t2⟩
  refine ⟨?_, ?_, ?_, ?_, ?_, ?_, ?_, ?_, ?_, ?_, ?_, ?_, ?_, ?_, ?_, ?_, ?_, ?_⟩
  · intro hk; exact plain .peek 1 ⟨v, rDone, some v.value, false⟩ rfl (by rw [slotOp_1, if_pos hk]) (.inl rfl) (.inl (by decide))
  · intro h1 h2; exact plain .read 2 ⟨{ v with full := false }, rDone, some v.value, false⟩ rfl (by rw [slotOp_2, if_neg (by rw [h1]; decide), if_pos h2]) (.inl rfl) (.inl (by decide))
  · intro h1 h2 h3; exact plain .read 2 ⟨v, rEmpty, none, true⟩ rfl (by rw [slotOp_2, if_neg (by rw [h1]; decide), h2, if_neg (by decide)]) (.inr h3) (.inl (by decide))
  · intro h1 h2; exact plain .fill 3 ⟨{ v with value := r.operand % 2 ^ 32, full := true }, rDone, none, false⟩ rfl (by rw [slotOp_3, if_neg (by rw [h1]; decide), h2, if_neg (by decide)]) (.inl rfl) (.inl (by decide))
  · intro h1 h2; exact plain .fill 3 ⟨v, rFull, none, false⟩ rfl (by rw [slotOp_3, if_neg (by rw [h1]; decide), if_pos h2]) (.inl rfl) (.inl (by decide))
  · intro h1; exact plain .signal 4 ⟨{ v with value := (v.value + r.operand) % 2 ^ 32, p := (v.p + r.operand) % 2 ^ 32 }, rDone, none, false⟩ rfl (by rw [slotOp_4, if_neg (by rw [h1]; decide)]) (.inl rfl) (.inl (by decide))
  · intro h1 h2; exact plain .waitge 5 ⟨v, rDone, some v.value, false⟩ rfl (by rw [slotOp_5, if_neg (by rw [h1]; decide), if_pos h2]) (.inl rfl) (.inl (by decide))
  · intro h1 h2 h3; exact plain .waitge 5 ⟨v, rNotReady, none, true⟩ rfl (by rw [slotOp_5, if_neg (by rw [h1]; decide), if_neg (by omega)]) (.inr h3) (.inl (by decide))
  · intro h1 h2
    refine ⟨?_, ?_⟩
    · obtain ⟨t, t1, t2⟩ := plain .dec 6 ⟨{ v with value := v.value - r.operand, c := (v.c + r.operand) % 2 ^ 32 }, rDone, some v.value, false⟩ rfl (by rw [slotOp_6, if_neg (by rw [h1]; decide), if_pos h2]) (.inl rfl) (.inl (by decide))
      exact ⟨t, t1, ends_val t2⟩
    · obtain ⟨t, t1, t2⟩ := plain .wdec 7 ⟨{ v with value := v.value - r.operand, c := (v.c + r.operand) % 2 ^ 32 }, rDone, some v.value, false⟩ rfl (by rw [slotOp_7, if_neg (by rw [h1]; decide), if_pos h2]) (.inl rfl) (.inl (by decide))
      exact ⟨t, t1, ends_val t2⟩
  · intro h1 h2
    obtain ⟨t, t1, t2, t3, _⟩ := key .dec 6 ⟨v, rUnder, none, false⟩ rfl (by rw [slotOp_6, if_neg (by rw [h1]; decide), if_neg (by omega)]) (by simp) (.inl (by decide))
    exact ⟨t, t1, t2, t3 (.inl rfl)⟩
  · intro h1 h2 h3; exact plain .wdec 7 ⟨v, rNotReady, none, true⟩ rfl (by rw [slotOp_7, if_neg (by rw [h1]; decide), if_neg (by omega)]) (.inr h3) (.inl (by decide))
  · intro h1 h2 h3; exact plain .realign 8 ⟨{ v with p := 0, c := 0, drift := false }, rDone, none, false⟩ rfl (by rw [slotOp_8, if_neg (by rw [h1]; decide), if_pos ⟨h2, h3⟩]) (.inl rfl) (.inl (by decide))
  · intro h1 h2
    obtain ⟨t, t1, t2, t3, _⟩ := key .realign 8 ⟨{ v with drift := true }, rDrift, none, false⟩ rfl (by rw [slotOp_8, if_neg (by rw [h1]; decide), if_neg (by rintro ⟨a, b⟩; exact h2.elim (fun h => h a) fun h => h b)]) (by simp) (.inl (by decide))
    exact ⟨t, t1, t2, t3 (.inr rfl)⟩
  · intro h1 h2
    obtain ⟨t, t1, t2, t3, _⟩ := key .arrive 9 ⟨{ v with value := v.value + 1 }, rDone, some (bnat v.phase), false⟩ rfl (by rw [slotOp_9, if_neg (by rw [h1]; decide), if_neg (by omega)]) (by simp) (.inr (.inr (.inl (Nat.succ_ne_zero _))))
    exact ⟨t, t1, t2⟩
  · intro h1 h2 h3
    obtain ⟨t, t1, t2, _, t3⟩ := key .arrive 9 ⟨{ v with value := 0, phase := !v.phase }, rDone, some (bnat v.phase), false⟩ rfl (by rw [slotOp_9, if_neg (by rw [h1]; decide), if_pos h2]) (by simp) (.inr (.inr (.inr h3)))
    exact ⟨t, t1, t2, t3 rfl rfl rfl⟩
  · intro h1; exact plain .set 10 ⟨{ v with value := r.operand % 2 ^ 32, full := true, drift := false }, rDone, none, false⟩ rfl (by rw [slotOp_10, if_pos h1]) (.inl rfl) (.inl (by decide))
  · intro h1; exact plain .set 10 ⟨{ v with value := r.operand % 2 ^ 32, p := 0, c := 0, drift := false }, rDone, none, false⟩ rfl (by rw [slotOp_10, if_neg (by rw [h1]; decide), if_pos h1]) (.inl rfl) (.inl (by decide))
  · intro c hc
    have go : ∀ op, exec (c r) s = s.fromTap op r → slotOp op r.operand v = ⟨v, rKind, none, false⟩ → ∃ t, exec (c r) s = .next t ∧ s.ObjEnds t r k v 7 none :=
      fun op h1 h2 => plain c op ⟨v, rKind, none, false⟩ h1 h2 (.inl rfl) (.inr (by show (7 : Nat) ≠ 0; decide))
    simp only [List.mem_cons, List.not_mem_nil, or_false] at hc
    rcases hc with ⟨h | h, n⟩ | ⟨h | h | h | h | h, n⟩ | ⟨h, n⟩ | ⟨h, n1, n2⟩ | ⟨h, n1, n2, n3⟩ <;> subst h
    · exact go 2 rfl (by rw [slotOp_2, if_pos n])
    · exact go 3 rfl (by rw [slotOp_3, if_pos n])
    · exact go 4 rfl (by rw [slotOp_4, if_pos n])
    · exact go 5 rfl (by rw [slotOp_5, if_pos n])
    · exact go 6 rfl (by rw [slotOp_6, if_pos n])
    · exact go 7 rfl (by rw [slotOp_7, if_pos n])
    · exact go 8 rfl (by rw [slotOp_8, if_pos n])
    · exact go 9 rfl (by rw [slotOp_9, if_pos n])
    · exact go 10 rfl (by rw [slotOp_10, if_neg n1, if_neg n2])
    · exact go 1 rfl (by rw [slotOp_1, if_neg (fun h => h.elim n1 fun h => h.elim n2 n3)])

end Sys2Proof.Machine
end

