-- ==== Sys2Proof/Laws/RowsStore.lean ====
section
/-! SUPPORT. Sys2Proof/Laws/RowsStore.lean: fences, deadlines, remote operations, lending. -/

set_option linter.all false
set_option Elab.async false

namespace Sys2Proof.Machine
open Sys2Proof Sys2Proof.Config

/-- Only slots, contexts, counters, interrupts, outputs and drawn values change. -/
def SlotsOnly (s t : State) : Prop := t = { s with od := { s.od with slots := t.od.slots, ctxs := t.od.ctxs }, cnt := t.cnt, irq := t.irq, out := t.out, free := t.free } ∧
  ∀ o, o ∈ s.out → o ∈ t.out

theorem so_refl (s : State) : SlotsOnly s s := ⟨rfl, fun _ h => h⟩

theorem so_trans {a b c : State} (h : SlotsOnly a b) (g : SlotsOnly b c) : SlotsOnly a c := by
  refine ⟨?_, fun o ho => g.2 o (h.2 o ho)⟩
  have g1 := g.1
  rw [h.1] at g1
  exact g1

theorem so_count (s : State) (c : Nat) : SlotsOnly s (s.count c) := ⟨rfl, fun _ h => h⟩

theorem so_evt (s : State) (l : Nat) : SlotsOnly s (s.evt l) := by rw [evt_one]; exact ⟨rfl, fun _ h => List.mem_cons_of_mem _ h⟩

theorem so_raiseIf (s : State) (b : Bool) (k : Nat) : SlotsOnly s (s.raiseIf b k) := by unfold State.raiseIf; cases b <;> exact ⟨rfl, fun _ h => h⟩

theorem so_modCtx (s : State) (x : Nat) (f : Ctx → Ctx) : SlotsOnly s (s.modCtx x f) := ⟨rfl, fun _ h => h⟩

theorem so_setSlot (s : State) (k : Nat) (v : Slot) : SlotsOnly s (s.setSlot k v) := ⟨rfl, fun _ h => h⟩

theorem so_value (s : State) (o : Option Nat) : SlotsOnly s (s.valueOf o).1 := by cases o <;> exact ⟨rfl, fun _ h => h⟩

theorem so_respond (s : State) (r : EngReq) (a b : Nat) : SlotsOnly s (s.respond r a b) := by
  unfold State.respond; split; exact so_refl s; exact ⟨rfl, fun _ h => List.mem_cons_of_mem _ h⟩

theorem so_note (s : State) (k r : Nat) : SlotsOnly s (s.noteLast k r) := by
  unfold State.noteLast; split; exact so_refl s; exact so_setSlot _ _ _

theorem so_tail (s b : State) (h r : Nat) (hb : SlotsOnly s b ∧ b.od.slots = s.od.slots) (c d X : State) (hc : c = b.raiseIf (decide (r = rUnder) || decide (r = rDrift)) 23)
    (hd : d = (if r = rFull ∨ r = rUnder ∨ r = rDrift then c.evt 18 else c))
    (hX : X = (if (d.ctx (hCtx h)).st = .undef then d else d.modCtx (hCtx h) fun c => { c with done := true })) : SlotsOnly s X ∧ X.od.slots = s.od.slots := by
  have h3 : SlotsOnly s c ∧ c.od.slots = s.od.slots := by
    rw [hc]
    refine ⟨so_trans hb.1 (so_raiseIf _ _ _), ?_⟩
    have : (b.raiseIf (decide (r = rUnder) || decide (r = rDrift)) 23).od = b.od := by unfold State.raiseIf; split <;> rfl
    rw [this]; exact hb.2
  have h4 : SlotsOnly s d ∧ d.od.slots = s.od.slots := by
    rw [hd]
    split
    · refine ⟨so_trans h3.1 (so_evt _ _), ?_⟩
      rw [evt_one]; exact h3.2
    · exact h3
  rw [hX]
  split
  · exact h4
  · exact ⟨so_trans h4.1 (so_modCtx _ _ _), h4.2⟩

theorem so_end2 (s : State) (h r : Nat) : SlotsOnly s (s.ended h r) ∧ (s.ended h r).od.slots = s.od.slots := by
  unfold State.ended
  dsimp +zetaHave only
  have h1 : SlotsOnly s ((s.count OD_CNT_OPS).evt 16) ∧ ((s.count OD_CNT_OPS).evt 16).od.slots = s.od.slots :=
    ⟨so_trans (so_count s OD_CNT_OPS) (so_evt (s.count OD_CNT_OPS) 16), by rw [evt_one]; rfl⟩
  generalize (s.count OD_CNT_OPS).evt 16 = a at h1
  cases resultCounter r with
  | none => exact so_tail s a h r h1 _ _ _ rfl rfl rfl
  | some c => exact so_tail s (a.count c) h r ⟨so_trans h1.1 (so_count _ _), h1.2⟩ _ _ _ rfl rfl rfl

theorem so_ended (s : State) (h r : Nat) : SlotsOnly s (s.ended h r) := (so_end2 s h r).1

/-- The slots a change keeps. -/
theorem so_only {s t : State} (h : SlotsOnly s t) : s.StoreOnly t ∧ t.od = { s.od with slots := t.od.slots, ctxs := t.od.ctxs } := by
  refine ⟨?_, ?_⟩
  · have h1 := h.1
    unfold State.StoreOnly
    rw [h1]
  · have h1 := h.1
    exact congrArg State.od h1

/-- An operation on a slot nobody waits on, from its refresh to the end. -/
theorem op_facts (s : State) (h k op operand : Nat) (hg : (s.slot k).gen = (s.ctx (s.slot k).ctx).gen) (o : SlotOut) (ho : o = slotOp op operand (s.slot k)) :
    s.refresh k = s ∧ ∃ x, x = ((s.setSlot k o.slot).noteLast k o.res).ended h o.res ∧ s.OpApplied x k o ∧ SlotsOnly s x := by
  refine ⟨?_, _, rfl, ?_⟩
  · unfold State.refresh
    dsimp +zetaHave only
    rw [if_pos hg]
  · generalize hy : s.setSlot k o.slot = y
    have y1 : y.slot k = o.slot := by rw [← hy, slot_set_same]
    have y2 : ∀ j, j ≠ k → y.slot j = s.slot j := fun j hj => by rw [← hy, slot_set_other _ _ _ _ hj]
    have y3 : SlotsOnly s y := by rw [← hy]; exact so_setSlot _ _ _
    obtain ⟨n1, n2, _⟩ := note_facts y k o.res o.slot y1
    have n3 := so_trans y3 (so_note y k o.res)
    generalize y.noteLast k o.res = z at n1 n2 n3
    obtain ⟨e1, _⟩ := ended_facts z h o.res
    have e2 := so_trans n3 (so_ended z h o.res)
    refine ⟨⟨?_, fun j hj => ?_, (so_only e2).2, (so_only e2).1⟩, e2⟩
    · rw [e1, n1]
    · rw [e1, n2 j hj, y2 j hj]

theorem applied_more {s x t : State} {k : Nat} {o : SlotOut} (h : s.OpApplied x k o) (hs : SlotsOnly s x) (h2 : SlotsOnly x t) (h3 : t.od = x.od) : s.OpApplied t k o := by
  have := so_trans hs h2
  have hj : ∀ j, t.slot j = x.slot j := fun j => by unfold State.slot; rw [h3]
  exact ⟨by rw [hj]; exact h.slot, fun j hj' => by rw [hj]; exact h.others j hj', (so_only this).2, (so_only this).1⟩

theorem after_none (s : State) (op h k res : Nat) (h9 : op ≠ 9) (hw : ∀ w ∈ s.od.waiters, w.slot ≠ k) : s.afterOp op h k res = s := by
  unfold State.afterOp
  split
  · rfl
  · exact reeval_none s k hw

theorem value_facts (x : State) (v : Option Nat) : (x.valueOf v).1.od = x.od ∧ ∀ y, v = some y → (x.valueOf v).2 = y := by
  cases v with
  | none => exact ⟨rfl, fun y h => by cases h⟩
  | some a => exact ⟨rfl, fun y h => by cases h; rfl⟩

/-- The request of an engine that completes on its slot. -/
theorem engine_at (s : State) (op course k : Nat) (r : EngReq) (hg : (s.slot k).gen = (s.ctx (s.slot k).ctx).gen) (hw : ∀ w ∈ s.od.waiters, w.slot ≠ k) (o : SlotOut)
    (ho : o = slotOp op r.operand (s.slot k)) (hn : o.waits = false ∨ r.wait = false) (h9 : op ≠ 9) :
    s.OpApplied (s.engineAt op r course k) k o ∧
      (r.bar = false → ∃ x, Output.objRsp r.tap r.rtag o.res x ∈ (s.engineAt op r course k).out ∧ ∀ y, o.val = some y → x = y) := by
  obtain ⟨hr, x, hx, ha, hs⟩ := op_facts s r.handle k op r.operand hg o ho
  unfold State.engineAt
  rw [hr]
  dsimp +zetaHave only
  rw [← ho, if_neg (by rintro ⟨a, b⟩; rcases hn with h | h <;> simp_all), ← hx]
  obtain ⟨v1, v2⟩ := value_facts x o.val
  have v3 := so_value x o.val
  generalize x.valueOf o.val = q at v1 v2 v3
  have r1 := so_respond q.1 r o.res q.2
  have r2 : (q.1.respond r o.res q.2).od = q.1.od := by unfold State.respond; split <;> rfl
  have r3 : r.bar = false → Output.objRsp r.tap r.rtag o.res q.2 ∈ (q.1.respond r o.res q.2).out := by
    intro h; unfold State.respond; rw [h]; exact List.mem_cons_self
  generalize q.1.respond r o.res q.2 = w at r1 r2 r3
  have hod : w.od = x.od := r2.trans v1
  rw [after_none]
  · exact ⟨applied_more ha hs (so_trans v3 r1) hod, fun h => ⟨q.2, r3 h, v2⟩⟩
  · exact h9
  · intro a ha'
    rw [hod, (so_only hs).2] at ha'
    exact hw a ha'

/-- A request that reaches no slot. -/
theorem so_end (s : State) (r : EngReq) (res : Nat) : SlotsOnly s (s.endEngine r res) ∧ (∀ j, (s.endEngine r res).slot j = s.slot j) ∧
    (r.bar = false → ∃ x, Output.objRsp r.tap r.rtag res x ∈ (s.endEngine r res).out) := by
  obtain ⟨a, b, c⟩ := end_engine s r res
  refine ⟨?_, b, a⟩
  unfold State.endEngine
  dsimp +zetaHave only
  exact so_trans (so_trans (so_ended s r.handle res) (so_value _ none)) (so_respond _ _ _ _)

theorem take_first {α : Type} (p : α → Bool) : ∀ (a : List α) (f : α) (b : List α), (∀ x ∈ a, p x = false) → p f = true → takeFirst p (a ++ f :: b) = some (f, a ++ b) := by
  intro a f b
  induction a with
  | nil => intro _ h; show (if p f then _ else _) = _; rw [if_pos h]; rfl
  | cons c a ih =>
    intro h hf
    show (if p c then _ else _) = _
    rw [if_neg (by rw [h c List.mem_cons_self]; decide)]
    show Option.map _ (takeFirst p (a ++ f :: b)) = _
    rw [ih (fun x hx => h x (List.mem_cons_of_mem _ hx)) hf]
    rfl

theorem take_none {α : Type} (p : α → Bool) : ∀ (a : List α), (∀ x ∈ a, p x = false) → takeFirst p a = none := by
  intro a
  induction a with
  | nil => intro _; rfl
  | cons c a ih =>
    intro h
    show (if p c then _ else _) = _
    rw [if_neg (by rw [h c List.mem_cons_self]; decide), ih fun x hx => h x (List.mem_cons_of_mem _ hx)]
    rfl

theorem on_eave {s : State} (h : s.odOn = true) : s.isEave = true := by
  unfold State.odOn State.odRuns at h; simp only [Bool.and_eq_true] at h; exact h.1.1

/-- What the row WACK does (R265). -/
theorem exec_wack : ∀ (s : State) (tap tag k : Nat), s.up = true → s.tapEn tap = true → s.isEave = true → k = fenceKey tap tag →
    (s.od.boards.get false k = true → exec (.wack tap tag) s = .next (s.count OD_CNT_FENCE_DUP)) ∧
    (s.od.boards.get false k = false → (∀ f ∈ s.od.fenced, fenceKey f.req.tap f.req.ftag ≠ k) →
      exec (.wack tap tag) s = .next { s with od := { s.od with boards := s.od.boards.set false k true } }) ∧
    (∀ (a b : List Fenced) (f : Fenced) (j : Nat) (o : SlotOut), s.od.boards.get false k = false → s.od.fenced = a ++ f :: b →
      fenceKey f.req.tap f.req.ftag = k → (∀ x ∈ a, fenceKey x.req.tap x.req.ftag ≠ k) → s.tapHeld f.req.tap = false →
      s.Rests f.req.handle j → o = slotOp f.op f.req.operand (s.slot j) → (o.waits = false ∨ f.req.wait = false) → f.op ≠ 9 →
      ∃ t, exec (.wack tap tag) s = .next t ∧ State.OpApplied { s with od := { s.od with fenced := a ++ b } } t j o ∧
        (f.req.bar = false → ∃ x, .objRsp f.req.tap f.req.rtag o.res x ∈ t.out ∧ ∀ y, o.val = some y → x = y)) := by
  intro s tap tag k hu ht ho hk
  have kk : exec (.wack tap tag) s = s.main fun s => if s.isEave ∧ s.tapEn tap then s.wack tap tag else s := rfl
  have k2 : exec (.wack tap tag) s = .next (s.wack tap tag) := by rw [kk, State.main_up hu, if_pos ⟨ho, ht⟩]
  rw [k2]
  unfold State.wack
  dsimp +zetaHave only
  rw [← hk]
  refine ⟨fun hb => by rw [if_pos hb], fun hb hf => ?_, fun a b f j o hb hf hfk ha hh hr hoo hn h9 => ?_⟩
  · rw [if_neg (by rw [hb]; decide), take_none _ _ fun x hx => decide_eq_false (hf x hx)]
  · rw [if_neg (by rw [hb]; decide), hf, take_first _ a f b (fun x hx => decide_eq_false (ha x hx)) (decide_eq_true hfk)]
    dsimp only
    refine ⟨_, rfl, ?_⟩
    generalize hz : ({ s with od := { s.od with fenced := a ++ b } } : State) = z
    unfold State.localReq
    have z1 : z.tapHeld f.req.tap = false := by rw [← hz]; exact hh
    have z2 : z.translate f.req.handle = .slot j := by rw [← hz]; exact hr.1
    rw [z1, if_neg (by decide), z2]
    dsimp only
    refine engine_at z f.op f.course j f.req ?_ ?_ o ?_ hn h9
    · rw [← hz]; exact hr.2.1
    · rw [← hz]; exact hr.2.2
    · rw [← hz]; exact hoo

/-- The end of some requests that reach no slot. -/
theorem fold_end {α : Type} (g : α → EngReq) (res : Nat) : ∀ (l : List α) (s : State),
    (SlotsOnly s (l.foldl (fun s f => s.endEngine (g f) res) s) ∧ (l.foldl (fun s f => s.endEngine (g f) res) s).od.slots = s.od.slots) ∧
    ∀ f ∈ l, (g f).bar = false → ∃ x, Output.objRsp (g f).tap (g f).rtag res x ∈ (l.foldl (fun s f => s.endEngine (g f) res) s).out := by
  intro l
  induction l with
  | nil => intro s; exact ⟨⟨so_refl s, rfl⟩, fun f hf => by cases hf⟩
  | cons a l ih =>
    intro s
    obtain ⟨e1, e2, e3⟩ := so_end s (g a) res
    have e4 : (s.endEngine (g a) res).od.slots = s.od.slots := by
      have hr : ∀ (x : State) (a b : Nat) r, (x.respond r a b).od = x.od := by intro x a b r; unfold State.respond; split <;> rfl
      unfold State.endEngine
      dsimp +zetaHave only
      rw [hr]
      exact (so_end2 s (g a).handle res).2
    obtain ⟨⟨i1, i2⟩, i3⟩ := ih (s.endEngine (g a) res)
    rw [List.foldl_cons]
    refine ⟨⟨so_trans e1 i1, i2.trans e4⟩, fun f hf hb => ?_⟩
    rcases List.mem_cons.mp hf with h | h
    · subst h
      obtain ⟨x, hx⟩ := e3 hb
      exact ⟨x, i1.2 _ hx⟩
    · exact i3 f h hb

/-- What the row FENCE_TIMEOUT does (R267). -/
theorem exec_fenceTimeout : ∀ (s : State), s.up = true → s.odRuns = true → ∃ t, exec .fenceTimeout s = .next t ∧
    t.od.fenced = s.od.fenced.filter (fun f => ¬ (f.tick + max 1 (s.rd OD_FENCE_TMO) < s.clk.ticks + 1)) ∧
    (∀ f ∈ s.od.fenced, f.tick + max 1 (s.rd OD_FENCE_TMO) < s.clk.ticks + 1 → f.req.bar = false →
      ∃ x, .objRsp f.req.tap f.req.rtag 5 x ∈ t.out) ∧
    t.od = { s.od with fenced := t.od.fenced, ctxs := t.od.ctxs } ∧ s.StoreOnly t := by
  intro s hu ho
  have k : exec .fenceTimeout s = s.main fun s => if s.odRuns then s.fenceTimeouts (s.clk.ticks + 1) else s := rfl
  rw [k, State.main_up hu, if_pos ho]
  refine ⟨_, rfl, ?_⟩
  unfold State.fenceTimeouts
  dsimp +zetaHave only
  generalize max 1 (s.rd OD_FENCE_TMO) = w
  generalize hz : ({ s with od := { s.od with fenced := s.od.fenced.filter fun f => !decide (f.tick + w < s.clk.ticks + 1) } } : State) = z
  have z1 : s.StoreOnly z ∧ z.od = { s.od with fenced := s.od.fenced.filter fun f => !decide (f.tick + w < s.clk.ticks + 1) } := by rw [← hz]; exact ⟨rfl, rfl⟩
  obtain ⟨⟨f1, f2⟩, f3⟩ := fold_end (fun f : Fenced => f.req) rTimeout (s.od.fenced.filter fun f => decide (f.tick + w < s.clk.ticks + 1)) z
  obtain ⟨g1, g2⟩ := so_only f1
  generalize ht : (s.od.fenced.filter fun f => decide (f.tick + w < s.clk.ticks + 1)).foldl (fun s f => s.endEngine f.req rTimeout) z = t at f1 f2 f3 g1 g2
  rw [f2] at g2
  have t1 : t.od.fenced = s.od.fenced.filter fun f => !decide (f.tick + w < s.clk.ticks + 1) := by rw [g2, z1.2]
  refine ⟨?_, fun f hf hl hb => f3 f (List.mem_filter.mpr ⟨hf, decide_eq_true hl⟩) hb, ?_, ?_⟩
  · rw [t1]; congr 1; funext f; exact (decide_not).symm
  · rw [t1]; rw [z1.2] at g2; exact g2
  · unfold State.StoreOnly at g1 ⊢; rw [z1.1] at g1; exact g1

/-- What the row REMOTE_TIMEOUT does (R276). -/
theorem exec_remoteTimeout : ∀ (s : State), s.up = true → s.odRuns = true → ∃ t, exec .remoteTimeout s = .next t ∧
    t.od.remote = s.od.remote.filter (fun f => ¬ (f.tick + max 1 (s.rd OD_RMT_TMO) < s.clk.ticks + 1)) ∧
    (∀ f ∈ s.od.remote, f.tick + max 1 (s.rd OD_RMT_TMO) < s.clk.ticks + 1 → ∃ x, .objRsp f.tap f.rtag 0x0C x ∈ t.out) ∧
    t.od = { s.od with remote := t.od.remote, ctxs := t.od.ctxs } ∧ s.StoreOnly t := by
  intro s hu ho
  have k : exec .remoteTimeout s = s.main fun s => if s.odRuns then s.remoteTimeouts (s.clk.ticks + 1) else s := rfl
  rw [k, State.main_up hu, if_pos ho]
  refine ⟨_, rfl, ?_⟩
  unfold State.remoteTimeouts
  dsimp +zetaHave only
  generalize max 1 (s.rd OD_RMT_TMO) = w
  generalize hz : ({ s with od := { s.od with remote := s.od.remote.filter fun f => !decide (f.tick + w < s.clk.ticks + 1) } } : State) = z
  have z1 : s.StoreOnly z ∧ z.od = { s.od with remote := s.od.remote.filter fun f => !decide (f.tick + w < s.clk.ticks + 1) } := by rw [← hz]; exact ⟨rfl, rfl⟩
  obtain ⟨⟨f1, f2⟩, f3⟩ := fold_end (fun r : RemoteReq => { tap := r.tap, handle := r.ctx * 65536, rtag := r.rtag }) rNoRoute
    (s.od.remote.filter fun f => decide (f.tick + w < s.clk.ticks + 1)) z
  obtain ⟨g1, g2⟩ := so_only f1
  generalize ht : (s.od.remote.filter fun f => decide (f.tick + w < s.clk.ticks + 1)).foldl (fun s r => s.endEngine { tap := r.tap, handle := r.ctx * 65536, rtag := r.rtag } rNoRoute) z = t at f1 f2 f3 g1 g2
  rw [f2] at g2
  have t1 : t.od.remote = s.od.remote.filter fun f => !decide (f.tick + w < s.clk.ticks + 1) := by rw [g2, z1.2]
  refine ⟨?_, fun f hf hl => f3 f (List.mem_filter.mpr ⟨hf, decide_eq_true hl⟩) rfl, ?_, ?_⟩
  · rw [t1]; congr 1; funext f; exact (decide_not).symm
  · rw [t1]; rw [z1.2] at g2; exact g2
  · unfold State.StoreOnly at g1 ⊢; rw [z1.1] at g1; exact g1

/-- The end of a waiter, without lends. -/
theorem fail_facts (s : State) (w : Waiter) (res : Nat) (hl : s.od.lends = []) : (s.failWaiter w res).od.waiters = s.od.waiters.filter (fun x => decide (x.id ≠ w.id)) ∧
    s.StoreOnly (s.failWaiter w res) ∧ (s.failWaiter w res).od = { s.od with waiters := (s.failWaiter w res).od.waiters, slots := (s.failWaiter w res).od.slots, ctxs := (s.failWaiter w res).od.ctxs } ∧
    (∀ j, (s.failWaiter w res).slot j = { s.slot j with last := ((s.failWaiter w res).slot j).last }) ∧ (∃ x, Output.objRsp w.tap w.rtag res x ∈ (s.failWaiter w res).out) ∧
    (∀ o, o ∈ s.out → o ∈ (s.failWaiter w res).out) := by
  unfold State.failWaiter State.endWaiter
  dsimp +zetaHave only
  generalize hz : ({ (s.valueOf none).1 with od := { (s.valueOf none).1.od with waiters := (s.valueOf none).1.od.waiters.filter fun x => decide (x.id ≠ w.id) } } : State) = z
  have z1 : z.od = { s.od with waiters := s.od.waiters.filter fun x => decide (x.id ≠ w.id) } ∧ s.StoreOnly z ∧ z.out = s.out := by rw [← hz]; exact ⟨rfl, rfl, rfl⟩
  have zj : ∀ j, z.slot j = s.slot j := fun j => by unfold State.slot; rw [z1.1]
  have n1 := so_trans (so_note z w.slot res) (so_ended (z.noteLast w.slot res) w.handle res)
  have n2 : ∀ j, ((z.noteLast w.slot res).ended w.handle res).slot j = { s.slot j with last := (((z.noteLast w.slot res).ended w.handle res).slot j).last } := by
    intro j
    rw [(ended_facts _ _ _).1 j]
    obtain ⟨a, b, _⟩ := note_facts z w.slot res _ rfl
    by_cases hj : j = w.slot
    · rw [hj, a, zj]; split <;> rfl
    · rw [b j hj, zj]
  generalize (z.noteLast w.slot res).ended w.handle res = e at n1 n2
  obtain ⟨g1, g2⟩ := so_only n1
  have e1 : e.od.waiters = s.od.waiters.filter fun x => decide (x.id ≠ w.id) := by rw [g2, z1.1]
  have e2 : e.od.lends = [] := by rw [g2, z1.1]; exact hl
  have e3 : e.od = { s.od with waiters := e.od.waiters, slots := e.od.slots, ctxs := e.od.ctxs } := by rw [e1]; rw [z1.1] at g2; exact g2
  have e4 : s.StoreOnly e := by unfold State.StoreOnly at g1 ⊢; rw [z1.2.1] at g1; exact g1
  rw [e2]
  dsimp only [List.find?]
  generalize (s.valueOf none).2 = v
  generalize hf : e.emit (.objRsp w.tap w.rtag res v) = f
  have f0 : f.od = e.od ∧ f.out = .objRsp w.tap w.rtag res v :: e.out ∧ e.StoreOnly f := by rw [← hf]; exact ⟨rfl, rfl, rfl⟩
  have fj : ∀ j, f.slot j = e.slot j := fun j => by unfold State.slot; rw [f0.1]
  refine ⟨by rw [f0.1, e1], ?_, by rw [f0.1]; exact e3, fun j => by rw [fj]; exact n2 j, ⟨v, by rw [f0.2.1]; exact List.mem_cons_self⟩,
    fun o ho => by rw [f0.2.1]; exact List.mem_cons_of_mem _ (n1.2 o (by rw [z1.2.2]; exact ho))⟩
  have := f0.2.2
  unfold State.StoreOnly at this e4 ⊢
  rw [e4] at this; exact this

theorem fold_fail (res : Nat) : ∀ (l : List Waiter) (s : State), s.od.lends = [] →
    (∀ x, x ∈ (l.foldl (fun s w => s.failWaiter w res) s).od.waiters ↔ x ∈ s.od.waiters ∧ ∀ w ∈ l, w.id ≠ x.id) ∧
    s.StoreOnly (l.foldl (fun s w => s.failWaiter w res) s) ∧
    (l.foldl (fun s w => s.failWaiter w res) s).od = { s.od with waiters := (l.foldl (fun s w => s.failWaiter w res) s).od.waiters, slots := (l.foldl (fun s w => s.failWaiter w res) s).od.slots, ctxs := (l.foldl (fun s w => s.failWaiter w res) s).od.ctxs } ∧
    (∀ j, (l.foldl (fun s w => s.failWaiter w res) s).slot j = { s.slot j with last := ((l.foldl (fun s w => s.failWaiter w res) s).slot j).last }) ∧
    (∀ w ∈ l, ∃ x, Output.objRsp w.tap w.rtag res x ∈ (l.foldl (fun s w => s.failWaiter w res) s).out) ∧
    (∀ o, o ∈ s.out → o ∈ (l.foldl (fun s w => s.failWaiter w res) s).out) := by
  intro l
  induction l with
  | nil => intro s _; exact ⟨fun x => ⟨fun h => ⟨h, fun w hw => (by cases hw)⟩, fun h => h.1⟩, rfl, rfl, fun _ => rfl, fun w (hw : w ∈ []) => (by cases hw), fun _ h => h⟩
  | cons a l ih =>
    intro s hl
    obtain ⟨a1, a2, a3, a4, ⟨v, a5⟩, a6⟩ := fail_facts s a res hl
    rw [List.foldl_cons]
    generalize s.failWaiter a res = z at a1 a2 a3 a4 a5 a6
    obtain ⟨i1, i2, i3, i4, i5, i6⟩ := ih z (by rw [a3]; exact hl)
    generalize l.foldl (fun s w => s.failWaiter w res) z = t at i1 i2 i3 i4 i5 i6
    refine ⟨fun x => ?_, ?_, ?_, fun j => ?_, fun w hw => ?_, fun o ho => i6 o (a6 o ho)⟩
    · rw [i1, a1, List.mem_filter]
      constructor
      · rintro ⟨⟨h1, h2⟩, h3⟩
        refine ⟨h1, fun w hw => ?_⟩
        rcases List.mem_cons.mp hw with h | h
        · rw [h]; exact fun hh => (of_decide_eq_true h2) hh.symm
        · exact h3 w h
      · rintro ⟨h1, h2⟩
        exact ⟨⟨h1, decide_eq_true fun hh => h2 a List.mem_cons_self hh.symm⟩, fun w hw => h2 w (List.mem_cons_of_mem _ hw)⟩
    · unfold State.StoreOnly at a2 i2 ⊢; rw [a2] at i2; exact i2
    · rw [a3] at i3; exact i3
    · have := i4 j; rw [a4 j] at this; exact this
    · rcases List.mem_cons.mp hw with h | h
      · rw [h]; exact ⟨v, i6 _ a5⟩
      · exact i5 w h

/-- The late requests that the store holds before their slot. -/
theorem held_facts (s : State) (n : Nat) (rLate : TransRead → Option EngReq)
    (hr : ∀ x, (∀ op r c, x.who = .engine op r c → rLate x = if r.overdue c n then some r else none) ∧ ((∀ op r c, x.who ≠ .engine op r c) → rLate x = none))
    (hc : (∀ x ∈ s.od.reads, rLate x = none) ∨ s.od.tapQ = []) (late : List EngReq) (t : State)
    (hl : late = (s.od.fenced.filter fun f => f.req.overdue f.course n).map (fun f => f.req) ++ s.od.reads.filterMap rLate ++
      (s.od.tapQ.filter fun t => t.req.overdue t.course n).map fun t => t.req)
    (ht : t = ((s.od.reads.filterMap rLate).map fun r => r.tap).foldl (fun s tap => s.drainTap tap) (late.foldl (fun s r => s.endEngine r rTimeout)
      { s with od := { s.od with
        fenced := s.od.fenced.filter (fun f => !f.req.overdue f.course n), reads := s.od.reads.filter (fun t => (rLate t).isNone)
        tapQ := s.od.tapQ.filter fun t => !t.req.overdue t.course n } })) :
    SlotsOnly { s with od := { s.od with
        fenced := s.od.fenced.filter (fun f => !f.req.overdue f.course n), reads := s.od.reads.filter (fun t => (rLate t).isNone)
        tapQ := s.od.tapQ.filter fun t => !t.req.overdue t.course n } } t ∧ t.od.slots = s.od.slots ∧
    ∀ r ∈ late, r.bar = false → ∃ x, Output.objRsp r.tap r.rtag 5 x ∈ t.out := by
  obtain ⟨⟨f1, f2⟩, f3⟩ := fold_end (fun r : EngReq => r) rTimeout late { s with od := { s.od with
        fenced := s.od.fenced.filter (fun f => !f.req.overdue f.course n), reads := s.od.reads.filter (fun t => (rLate t).isNone)
        tapQ := s.od.tapQ.filter fun t => !t.req.overdue t.course n } }
  generalize hx : late.foldl (fun (s : State) (r : EngReq) => s.endEngine r rTimeout) _ = x at f1 f2 f3 ht
  have hd : ∀ (l : List Nat) (y : State), y.od.tapQ = [] → l.foldl (fun s tap => s.drainTap tap) y = y := by
    intro l
    induction l with
    | nil => intro _ _; rfl
    | cons a l ih =>
      intro y hy
      have : y.drainTap a = y := by
        unfold State.drainTap
        rw [hy]
        show ({ y with od := { y.od with tapQ := [] } } : State) = y
        rw [← hy]
      rw [List.foldl_cons, this, ih y hy]
  have key : t = x := by
    rw [ht]
    rcases hc with h | h
    · have : s.od.reads.filterMap rLate = [] := List.filterMap_eq_nil_iff.mpr h
      rw [this]; rfl
    · refine hd _ _ ?_
      rw [(so_only f1).2, h]; rfl
  rw [key]
  exact ⟨f1, f2, f3⟩

/-- What the row OBJECT_DEADLINE does (R269). -/
theorem exec_objectDeadline : ∀ (s : State), s.up = true → s.odRuns = true → (s.td.acq = false → exec .objectDeadline s = .next s) ∧
    (∀ n, n = s.clk.course → s.td.acq = true → s.od.lends = [] →
      ((∀ x ∈ s.od.reads, ∀ op r c, x.who = .engine op r c → r.overdue c n = false) ∨ s.od.tapQ = []) → ∃ t, exec .objectDeadline s = .next t ∧
      (∀ w, w ∈ t.od.waiters ↔ w ∈ s.od.waiters ∧ ∀ x ∈ s.od.waiters, ∀ d, x.deadline = some d → d ≤ n → x.id ≠ w.id) ∧
      (∀ w ∈ s.od.waiters, ∀ d, w.deadline = some d → d ≤ n → ∃ x, .objRsp w.tap w.rtag 5 x ∈ t.out) ∧
      t.od.fenced = s.od.fenced.filter (fun f => !f.req.overdue f.course n) ∧ t.od.tapQ = s.od.tapQ.filter (fun f => !f.req.overdue f.course n) ∧
      (∀ x, x ∈ t.od.reads ↔ x ∈ s.od.reads ∧ ∀ op r c, x.who = .engine op r c → r.overdue c n = false) ∧
      (∀ r, ((∃ f ∈ s.od.fenced, f.req = r ∧ r.overdue f.course n = true) ∨ (∃ f ∈ s.od.tapQ, f.req = r ∧ r.overdue f.course n = true) ∨
        (∃ x ∈ s.od.reads, ∃ op c, x.who = .engine op r c ∧ r.overdue c n = true)) → r.bar = false → ∃ x, .objRsp r.tap r.rtag 5 x ∈ t.out) ∧
      (∀ j, t.slot j = { s.slot j with last := (t.slot j).last }) ∧
      t.od = { s.od with waiters := t.od.waiters, slots := t.od.slots, ctxs := t.od.ctxs, fenced := t.od.fenced, reads := t.od.reads, tapQ := t.od.tapQ } ∧
      s.StoreOnly t) := by
  intro s hu ho
  have k : exec .objectDeadline s = s.main fun s => if s.odRuns then s.objDeadlines s.clk.course else s := rfl
  rw [k, State.main_up hu, if_pos ho]
  unfold State.objDeadlines
  refine ⟨fun h => by rw [if_pos h], fun n hn ha hl hc => ?_⟩
  rw [if_neg (by rw [ha]; decide), ← hn]
  refine ⟨_, rfl, ?_⟩
  have main : ∀ p : Waiter → Bool, (∀ w, p w = true ↔ ∃ d, w.deadline = some d ∧ d ≤ n) → ∀ t, t = (s.od.waiters.filter p).foldl (fun s w => s.failWaiter w rTimeout) s →
      (∀ w, w ∈ t.od.waiters ↔ w ∈ s.od.waiters ∧ ∀ x ∈ s.od.waiters, ∀ d, x.deadline = some d → d ≤ n → x.id ≠ w.id) ∧
      (∀ w ∈ s.od.waiters, ∀ d, w.deadline = some d → d ≤ n → ∃ x, Output.objRsp w.tap w.rtag 5 x ∈ t.out) ∧
      (∀ j, t.slot j = { s.slot j with last := (t.slot j).last }) ∧
      t.od = { s.od with waiters := t.od.waiters, slots := t.od.slots, ctxs := t.od.ctxs } ∧ s.StoreOnly t := by
    intro p hp t ht
    obtain ⟨i1, i2, i3, i4, i5, i6⟩ := fold_fail rTimeout (s.od.waiters.filter p) s hl
    rw [← ht] at i1 i2 i3 i4 i5 i6
    have hm : ∀ w, w ∈ s.od.waiters.filter p ↔ w ∈ s.od.waiters ∧ ∃ d, w.deadline = some d ∧ d ≤ n := fun w => by rw [List.mem_filter, hp]
    refine ⟨fun w => ?_, fun w hw d hd hc => i5 w ((hm w).mpr ⟨hw, d, hd, hc⟩), i4, i3, i2⟩
    rw [i1]
    exact ⟨fun h => ⟨h.1, fun x hx d hd hc => h.2 x ((hm x).mpr ⟨hx, d, hd, hc⟩)⟩, fun h => ⟨h.1, fun x hx => by obtain ⟨a, d, b, c⟩ := (hm x).mp hx; exact h.2 x a d b c⟩⟩
  have m := main (fun w => match w.deadline with | some d => decide (d ≤ n) | none => false) (by
    intro w
    cases h : w.deadline with
    | none => exact ⟨fun h => absurd (show false = true from h) (by decide), fun ⟨d, hd, _⟩ => (by cases hd)⟩
    | some d => exact ⟨fun h => ⟨d, rfl, of_decide_eq_true h⟩, fun ⟨e, he, hc⟩ => decide_eq_true (by cases he; exact hc)⟩) _ rfl
  generalize hz : (s.od.waiters.filter fun w => match w.deadline with | some d => decide (d ≤ n) | none => false).foldl (fun s w => s.failWaiter w rTimeout) s = z at m
  obtain ⟨m1, m2, m3, m4, m5⟩ := m
  have mo : ∀ o, o ∈ s.out → o ∈ z.out := by rw [← hz]; exact (fold_fail rTimeout _ s hl).2.2.2.2.2
  obtain ⟨rL, hrL⟩ : ∃ rL : TransRead → Option EngReq, rL = fun t => match t.who with
    | .engine _ r course => if r.overdue course n then some r else none
    | _ => none := ⟨_, rfl⟩
  have hr : ∀ x, (∀ op r c, x.who = .engine op r c → rL x = if r.overdue c n then some r else none) ∧ ((∀ op r c, x.who ≠ .engine op r c) → rL x = none) := by
    intro x
    rw [hrL]
    refine ⟨fun op r c h => by dsimp only; rw [h], fun h => ?_⟩
    dsimp only
    cases hw : x.who with
    | engine op r c => exact absurd hw (h op r c)
    | _ => rfl
  have hn' : ∀ x, rL x = none ↔ ∀ op r c, x.who = .engine op r c → r.overdue c n = false := by
    intro x
    constructor
    · intro h op r c hw
      rw [(hr x).1 op r c hw] at h
      cases ho : r.overdue c n with
      | false => rfl
      | true => rw [ho] at h; cases h
    · intro h
      by_cases hw : ∃ op r c, x.who = .engine op r c
      · obtain ⟨op, r, c, hw⟩ := hw
        rw [(hr x).1 op r c hw, h op r c hw]; rfl
      · exact (hr x).2 fun op r c h => hw ⟨op, r, c, h⟩
  have zr : z.od.reads = s.od.reads ∧ z.od.tapQ = s.od.tapQ ∧ z.od.fenced = s.od.fenced := by rw [m4]; exact ⟨rfl, rfl, rfl⟩
  obtain ⟨h1, h2, h3⟩ := held_facts z n rL hr (by
    rw [zr.1, zr.2.1]
    exact hc.imp (fun h x hx => (hn' x).mpr (h x hx)) id) _ (z.heldDeadlines n) rfl (by rw [hrL]; rfl)
  generalize z.heldDeadlines n = t at h1 h2 h3
  obtain ⟨g1, g2⟩ := so_only h1
  have w1 : t.od.waiters = z.od.waiters := by rw [g2]
  have w2 : t.od.fenced = z.od.fenced.filter (fun f => !f.req.overdue f.course n) ∧ t.od.tapQ = z.od.tapQ.filter (fun f => !f.req.overdue f.course n) ∧
      t.od.reads = z.od.reads.filter (fun t => (rL t).isNone) := by rw [g2]; exact ⟨rfl, rfl, rfl⟩
  refine ⟨fun w => by rw [w1]; exact m1 w, fun w hw d hd hc => ?_, by rw [w2.1, zr.2.2], by rw [w2.2.1, zr.2.1], fun x => ?_, fun r hh hb => ?_, fun j => ?_, ?_, ?_⟩
  · obtain ⟨x, hx⟩ := m2 w hw d hd hc
    exact ⟨x, h1.2 _ hx⟩
  · rw [w2.2.2, zr.1, List.mem_filter, Option.isNone_iff_eq_none, hn']
  · refine h3 r ?_ hb
    rw [zr.1, zr.2.1, zr.2.2]
    rcases hh with ⟨f, hf, rfl, hl⟩ | ⟨f, hf, rfl, hl⟩ | ⟨x, hx, op, c, hw, hl⟩
    · exact List.mem_append_left _ (List.mem_append_left _ (List.mem_map.mpr ⟨f, List.mem_filter.mpr ⟨hf, hl⟩, rfl⟩))
    · exact List.mem_append_right _ (List.mem_map.mpr ⟨f, List.mem_filter.mpr ⟨hf, hl⟩, rfl⟩)
    · exact List.mem_append_left _ (List.mem_append_right _ (List.mem_filterMap.mpr ⟨x, hx, by rw [(hr x).1 op r c hw, if_pos hl]⟩))
  · have : t.slot j = z.slot j := by unfold State.slot; rw [h2]
    rw [this]; exact m3 j
  · refine g2.trans ?_
    rw [w1, w2.1, w2.2.1, w2.2.2]
    show ({ z.od with fenced := _, reads := _, tapQ := _, slots := t.od.slots, ctxs := t.od.ctxs } : Objs) = _
    rw [m4]
  · unfold State.StoreOnly at g1 m5 ⊢
    rw [m5] at g1; exact g1

/-- What the row LEND does (R272). -/
theorem exec_lend : ∀ (s : State) (w : Waiter), s.up = true → s.odRuns = true →
    (s.od.waiters.filter fun w => w.lend ∧ w.tick < s.clk.ticks + 1) = [w] → ∃ t, exec .lend s = .next t ∧ s.StoreOnly t ∧
    t.od.waiters = s.od.waiters.map (fun x => if x.id = w.id then { x with lend := false } else x) ∧
    (∀ c, s.returnCourse w (s.clk.ticks + 1) (s.clk.course + 1) = some c → s.bit OD_CTL 2 = true → s.clk.course + 1 + s.fl OD_LEND 16 16 ≤ c →
      t.od.lends = s.od.lends ++ [{ id := w.id, tap := w.tap, ctx := hCtx w.handle, ret := c }] ∧ .lend w.id w.tap (c % 2 ^ 32) ∈ t.out ∧
      t.counter OD_CNT_LEND = (s.counter OD_CNT_LEND + 1) % 2 ^ 32) ∧
    (s.returnCourse w (s.clk.ticks + 1) (s.clk.course + 1) = none ∨ s.bit OD_CTL 2 = false ∨
        (∀ c, s.returnCourse w (s.clk.ticks + 1) (s.clk.course + 1) = some c → c < s.clk.course + 1 + s.fl OD_LEND 16 16) →
      t.od.lends = s.od.lends ∧ t.out = s.out ∧ t.cnt = s.cnt) := by
  intro s w hu ho hf
  have k : exec .lend s = s.main fun s => if s.odRuns then s.lendOut (s.clk.ticks + 1) (s.clk.course + 1) else s := rfl
  rw [k, State.main_up hu, if_pos ho]
  refine ⟨_, rfl, ?_⟩
  unfold State.lendOut
  rw [hf, List.foldl_cons, List.foldl_nil]
  dsimp +zetaHave only
  generalize hz : ({ s with od := { s.od with waiters := s.od.waiters.map fun x => if x.id = w.id then { x with lend := false } else x } } : State) = z
  have zr : z.returnCourse w (s.clk.ticks + 1) (s.clk.course + 1) = s.returnCourse w (s.clk.ticks + 1) (s.clk.course + 1) := by rw [← hz]; rfl
  have zb : z.bit OD_CTL 2 = s.bit OD_CTL 2 ∧ z.fl OD_LEND 16 16 = s.fl OD_LEND 16 16 ∧ z.od.lends = s.od.lends ∧ z.out = s.out ∧ z.cnt = s.cnt ∧ s.StoreOnly z ∧
      z.od.waiters = s.od.waiters.map fun x => if x.id = w.id then { x with lend := false } else x := by rw [← hz]; exact ⟨rfl, rfl, rfl, rfl, rfl, rfl, rfl⟩
  obtain ⟨b1, b2, b3, b4, b5, b6, b7⟩ := zb
  rw [zr]
  cases hc : s.returnCourse w (s.clk.ticks + 1) (s.clk.course + 1) with
  | none => exact ⟨b6, b7, fun c h => (by cases h), fun _ => ⟨b3, b4, b5⟩⟩
  | some c =>
    dsimp only
    rw [b1, b2]
    by_cases hy : s.bit OD_CTL 2 = true ∧ s.clk.course + 1 + s.fl OD_LEND 16 16 ≤ c
    · rw [if_pos hy, evt_one]
      refine ⟨rfl, rfl, fun d hd _ _ => ?_, fun h => ?_⟩
      · cases hd
        refine ⟨rfl, List.mem_cons_of_mem _ List.mem_cons_self, ?_⟩
        have : ∀ x y : State, x.cnt = y.cnt → (x.count OD_CNT_LEND).counter OD_CNT_LEND = (y.counter OD_CNT_LEND + 1) % 2 ^ 32 := fun x y h => by rw [count_same, counter_cnt h]
        exact this _ s rfl
      · rcases h with h | h | h
        · cases h
        · exact absurd (hy.1.symm.trans h) (by decide)
        · exact absurd (h c rfl) (by omega)
    · rw [if_neg hy]
      exact ⟨b6, b7, fun d hd h1 h2 => (by cases hd; exact absurd ⟨h1, h2⟩ hy), fun _ => ⟨b3, b4, b5⟩⟩

/-- One lend at a boundary. -/
def retStep (h : Nat) (s : State) (l : Lend) : State :=
  if l.early then s
  else if l.ret ≤ h then State.emit { s with od := { s.od with lends := s.od.lends.filter fun x => x.id ≠ l.id } } (.lendRet l.id false)
  else if (s.tapTargets l.tap).any fun c => decide (c < l.ret) && decide (c ≤ h) then
    State.emit { s with od := { s.od with lends := s.od.lends.map fun x => if x.id = l.id then { x with early := true } else x } } (.lendRet l.id true)
  else s

theorem ret_step (h : Nat) (s : State) (l : Lend) :
    retStep h s l = { s with od := { s.od with lends := (retStep h s l).od.lends }, out := (retStep h s l).out } ∧
    (∀ o, o ∈ s.out → o ∈ (retStep h s l).out) ∧
    (∀ x ∈ (retStep h s l).od.lends, ∃ y ∈ s.od.lends, y.id = x.id ∧ (y.early = true → x.early = true)) ∧
    (l.early = false → l.ret ≤ h → .lendRet l.id false ∈ (retStep h s l).out ∧ ∀ x ∈ (retStep h s l).od.lends, x.id ≠ l.id) ∧
    (l.early = false → h < l.ret → (∃ c ∈ s.tapTargets l.tap, c < l.ret ∧ c ≤ h) →
      .lendRet l.id true ∈ (retStep h s l).out ∧ ∀ x ∈ (retStep h s l).od.lends, x.id = l.id → x.early = true) ∧
    (l.early = true ∨ (h < l.ret ∧ ∀ c ∈ s.tapTargets l.tap, l.ret ≤ c ∨ h < c) → retStep h s l = s) := by
  have self : ∀ x ∈ s.od.lends, ∃ y ∈ s.od.lends, y.id = x.id ∧ (y.early = true → x.early = true) := fun x hx => ⟨x, hx, rfl, fun h => h⟩
  unfold retStep
  by_cases h1 : l.early = true
  · rw [if_pos h1]
    exact ⟨rfl, fun _ h => h, self, fun h => absurd (h1.symm.trans h) (by decide), fun h => absurd (h1.symm.trans h) (by decide), fun _ => rfl⟩
  · rw [if_neg h1]
    by_cases h2 : l.ret ≤ h
    · rw [if_pos h2]
      refine ⟨rfl, fun _ h => List.mem_cons_of_mem _ h, fun x hx => self x (List.mem_filter.mp hx).1, fun _ _ => ⟨List.mem_cons_self, fun x hx => ?_⟩, fun _ hh => absurd hh (by omega), fun hh => ?_⟩
      · exact of_decide_eq_true (List.mem_filter.mp hx).2
      · rcases hh with hh | hh
        · exact absurd hh h1
        · exact absurd hh.1 (by omega)
    · rw [if_neg h2]
      have hany : ((s.tapTargets l.tap).any fun c => decide (c < l.ret) && decide (c ≤ h)) = true ↔ ∃ c ∈ s.tapTargets l.tap, c < l.ret ∧ c ≤ h := by
        rw [List.any_eq_true]
        simp only [Bool.and_eq_true, decide_eq_true_eq]
      by_cases h3 : ((s.tapTargets l.tap).any fun c => decide (c < l.ret) && decide (c ≤ h)) = true
      · rw [if_pos h3]
        refine ⟨rfl, fun _ h => List.mem_cons_of_mem _ h, fun x hx => ?_, fun _ hh => absurd hh h2, fun _ _ _ => ⟨List.mem_cons_self, fun x hx hid => ?_⟩, fun hh => ?_⟩
        · obtain ⟨y, hy, rfl⟩ := List.mem_map.mp hx
          refine ⟨y, hy, ?_, ?_⟩
          · split <;> rfl
          · intro he; split
            · rfl
            · exact he
        · obtain ⟨y, hy, rfl⟩ := List.mem_map.mp hx
          by_cases hq : y.id = l.id
          · rw [if_pos hq]
          · rw [if_neg hq] at hid; exact absurd hid hq
        · rcases hh with hh | hh
          · exact absurd hh h1
          · obtain ⟨c, hc, c1, c2⟩ := hany.mp h3
            rcases hh.2 c hc with q | q <;> omega
      · rw [if_neg h3]
        exact ⟨rfl, fun _ h => h, self, fun _ hh => absurd hh h2, fun _ _ hh => absurd (hany.mpr hh) h3, fun _ => rfl⟩

theorem ret_fold (h : Nat) : ∀ (ls : List Lend) (s : State),
    ls.foldl (retStep h) s = { s with od := { s.od with lends := (ls.foldl (retStep h) s).od.lends }, out := (ls.foldl (retStep h) s).out } ∧
    (∀ o, o ∈ s.out → o ∈ (ls.foldl (retStep h) s).out) ∧
    (∀ x ∈ (ls.foldl (retStep h) s).od.lends, ∃ y ∈ s.od.lends, y.id = x.id ∧ (y.early = true → x.early = true)) ∧
    (∀ l ∈ ls, (l.early = false → l.ret ≤ h → .lendRet l.id false ∈ (ls.foldl (retStep h) s).out ∧ ∀ x ∈ (ls.foldl (retStep h) s).od.lends, x.id ≠ l.id) ∧
      (l.early = false → h < l.ret → (∃ c ∈ s.tapTargets l.tap, c < l.ret ∧ c ≤ h) →
        .lendRet l.id true ∈ (ls.foldl (retStep h) s).out ∧ ∀ x ∈ (ls.foldl (retStep h) s).od.lends, x.id = l.id → x.early = true)) ∧
    ((∀ l ∈ ls, l.early = true ∨ (h < l.ret ∧ ∀ c ∈ s.tapTargets l.tap, l.ret ≤ c ∨ h < c)) → ls.foldl (retStep h) s = s) := by
  intro ls
  induction ls with
  | nil => intro s; exact ⟨rfl, fun _ h => h, fun x hx => ⟨x, hx, rfl, fun h => h⟩, fun l (hl : l ∈ []) => (by cases hl), fun _ => rfl⟩
  | cons a ls ih =>
    intro s
    rw [List.foldl_cons]
    obtain ⟨a1, a2, a3, a4, a5, a6⟩ := ret_step h s a
    have tt : ∀ n, (retStep h s a).tapTargets n = s.tapTargets n := fun n => by rw [a1]; rfl
    generalize retStep h s a = z at a1 a2 a3 a4 a5 a6 tt
    obtain ⟨i1, i2, i3, i4, i5⟩ := ih z
    generalize ls.foldl (retStep h) z = t at i1 i2 i3 i4 i5
    refine ⟨?_, fun o ho => i2 o (a2 o ho), fun x hx => ?_, fun l hl => ?_, fun hh => ?_⟩
    · rw [a1] at i1; exact i1
    · obtain ⟨y, hy, y1, y2⟩ := i3 x hx
      obtain ⟨v, hv, v1, v2⟩ := a3 y hy
      exact ⟨v, hv, v1.trans y1, fun h => y2 (v2 h)⟩
    · rcases List.mem_cons.mp hl with rfl | hl
      · refine ⟨fun h1 h2 => ?_, fun h1 h2 h3 => ?_⟩
        · obtain ⟨b1, b2⟩ := a4 h1 h2
          refine ⟨i2 _ b1, fun x hx => ?_⟩
          obtain ⟨y, hy, y1, _⟩ := i3 x hx
          rw [← y1]; exact b2 y hy
        · obtain ⟨b1, b2⟩ := a5 h1 h2 h3
          refine ⟨i2 _ b1, fun x hx hid => ?_⟩
          obtain ⟨y, hy, y1, y2⟩ := i3 x hx
          exact y2 (b2 y hy (y1.trans hid))
      · obtain ⟨b1, b2⟩ := i4 l hl
        exact ⟨b1, fun h1 h2 h3 => b2 h1 h2 (by rw [tt]; exact h3)⟩
    · have hz := a6 (hh a List.mem_cons_self)
      subst hz
      exact i5 fun l hl => hh l (List.mem_cons_of_mem _ hl)

/-- What the row LEND_RETURN does (R274). -/
theorem exec_lendReturn : ∀ (s : State) (h : Nat), s.up = true → s.odRuns = true → h = s.clk.course + 1 + s.fl OD_LEND 0 16 → ∃ t, exec .lendReturn s = .next t ∧
    t = { s with od := { s.od with lends := t.od.lends }, out := t.out } ∧
    (∀ l ∈ s.od.lends, l.early = false → l.ret ≤ h → .lendRet l.id false ∈ t.out ∧ ∀ x ∈ t.od.lends, x.id ≠ l.id) ∧
    (∀ l ∈ s.od.lends, l.early = false → h < l.ret → (∃ c ∈ s.tapTargets l.tap, c < l.ret ∧ c ≤ h) →
      .lendRet l.id true ∈ t.out ∧ ∀ x ∈ t.od.lends, x.id = l.id → x.early = true) ∧
    ((∀ l ∈ s.od.lends, l.early = true ∨ (h < l.ret ∧ ∀ c ∈ s.tapTargets l.tap, l.ret ≤ c ∨ h < c)) → t = s) := by
  intro s h hu ho hh
  have k : exec .lendReturn s = s.main fun s => if s.odRuns then s.lendReturns (s.clk.course + 1) else s := rfl
  rw [k, State.main_up hu, if_pos ho]
  refine ⟨_, rfl, ?_⟩
  have hr : s.lendReturns (s.clk.course + 1) = s.od.lends.foldl (retStep h) s := by
    unfold State.lendReturns
    dsimp +zetaHave only
    rw [← hh]
    rfl
  rw [hr]
  obtain ⟨i1, i2, i3, i4, i5⟩ := ret_fold h s.od.lends s
  exact ⟨i1, fun l hl => (i4 l hl).1, fun l hl => (i4 l hl).2, i5⟩

/-- What the row RET_ACK does (R274). -/
theorem exec_retAck : ∀ (s : State) (id : Nat), s.up = true → s.isEave = true →
    ((∀ l ∈ s.od.lends, l.id = id → l.early = false) → exec (.retAck id) s = .next s) ∧
    (∀ l, s.od.lends.find? (fun l => l.id = id ∧ l.early) = some l →
      (∀ tap tag res val, l.rsp = some (tap, tag, res, val) → exec (.retAck id) s = .next (State.emit
        { s with od := { s.od with lends := s.od.lends.filter fun x => x.id ≠ id } } (.objRsp tap tag res val))) ∧
      (l.rsp = none → exec (.retAck id) s = .next { s with od := { s.od with lends := s.od.lends.filter fun x => x.id ≠ id } })) := by
  intro s id hu he
  have k : exec (.retAck id) s = s.main fun s => if s.isEave then s.retAck id else s := rfl
  rw [k, State.main_up hu, if_pos he]
  unfold State.retAck
  refine ⟨fun h => ?_, fun l hl => ?_⟩
  · have : (s.od.lends.find? fun l => decide (l.id = id ∧ l.early = true)) = none := by
      rw [List.find?_eq_none]
      intro l hl hh
      have := of_decide_eq_true hh
      exact absurd ((h l hl this.1).symm.trans this.2) (by decide)
    rw [this]
  · rw [hl]
    refine ⟨fun a b c d hr => ?_, fun hr => ?_⟩ <;> (dsimp only; rw [hr])

theorem ctx_set (s : State) (x y : Nat) (f : Ctx → Ctx) : (s.modCtx x f).ctx y = if y = x then f (s.ctx x) else s.ctx y := by
  by_cases h : y = x
  · rw [if_pos h, h]; exact Map.get_set_same _ _ _ _
  · rw [if_neg h]; exact Map.get_set_other _ _ _ _ _ h

/-- The judgement of one context. -/
def dlkStep (t : Nat) (s : State) (x : Nat) : State :=
  if s.ctxBlocked x then s.modCtx x fun c => { c with blocked := some (c.blocked.getD t) }
  else s.modCtx x fun c => { c with blocked := none, reported := false }

/-- What it makes of a context. -/
def dlkCtx (t : Nat) (b : Bool) (c : Ctx) : Ctx := if b then { c with blocked := some (c.blocked.getD t) } else { c with blocked := none, reported := false }

theorem dlk_step (t : Nat) (s : State) (x : Nat) : dlkStep t s x = { s with od := { s.od with ctxs := (dlkStep t s x).od.ctxs } } ∧
    (∀ y, (dlkStep t s x).ctx y = if y = x then dlkCtx t (s.ctxBlocked x) (s.ctx x) else s.ctx y) ∧ (∀ y, (dlkStep t s x).ctxBlocked y = s.ctxBlocked y) := by
  have hc : ∀ y, (dlkStep t s x).ctx y = if y = x then dlkCtx t (s.ctxBlocked x) (s.ctx x) else s.ctx y := by
    intro y
    unfold dlkStep dlkCtx
    cases s.ctxBlocked x with
    | true => rw [if_pos rfl, if_pos rfl]; exact ctx_set _ _ _ _
    | false => simp only [Bool.false_eq_true, reduceIte]; exact ctx_set _ _ _ _
  have hs : dlkStep t s x = { s with od := { s.od with ctxs := (dlkStep t s x).od.ctxs } } := by unfold dlkStep; split <;> rfl
  refine ⟨hs, hc, fun y => ?_⟩
  have hd : ((dlkStep t s x).ctx y).done = (s.ctx y).done := by
    rw [hc]
    split
    · next h => rw [h]; unfold dlkCtx; split <;> rfl
    · rfl
  unfold State.ctxBlocked State.ctxBusy
  rw [hd, hs]

theorem dlk_idem (t : Nat) (b : Bool) (c : Ctx) : dlkCtx t b (dlkCtx t b c) = dlkCtx t b c := by cases b <;> rfl

theorem dlk_fold (t : Nat) : ∀ (l : List Nat) (s : State), s.each l (dlkStep t) = { s with od := { s.od with ctxs := (s.each l (dlkStep t)).od.ctxs } } ∧
    (∀ y ∈ l, (s.each l (dlkStep t)).ctx y = dlkCtx t (s.ctxBlocked y) (s.ctx y)) ∧ (∀ y, y ∉ l → (s.each l (dlkStep t)).ctx y = s.ctx y) := by
  intro l
  induction l with
  | nil => intro s; exact ⟨rfl, fun y (hy : y ∈ []) => (by cases hy), fun _ _ => rfl⟩
  | cons a l ih =>
    intro s
    have e : s.each (a :: l) (dlkStep t) = (dlkStep t s a).each l (dlkStep t) := rfl
    rw [e]
    obtain ⟨a1, a2, a3⟩ := dlk_step t s a
    generalize dlkStep t s a = z at a1 a2 a3
    obtain ⟨i1, i2, i3⟩ := ih z
    generalize z.each l (dlkStep t) = w at i1 i2 i3
    refine ⟨?_, fun y hy => ?_, fun y hy => ?_⟩
    · rw [a1] at i1; exact i1
    · by_cases hl : y ∈ l
      · rw [i2 y hl, a3, a2]
        split
        · next h => rw [h, dlk_idem]
        · rfl
      · rcases List.mem_cons.mp hy with h | h
        · rw [i3 y hl, a2, if_pos h, h]
        · exact absurd h hl
    · rw [i3 y fun h => hy (List.mem_cons_of_mem _ h), a2, if_neg fun h => hy (by rw [h]; exact List.mem_cons_self)]

theorem mem_look {α : Type} : ∀ (m : Map α) (k : Nat) (v : α), m.look k = some v → (k, v) ∈ m := by
  intro m
  induction m with
  | nil => intro k v h; exact absurd (show none = some v from h) (by simp)
  | cons e m ih =>
    intro k v h
    obtain ⟨j, a⟩ := e
    unfold Map.look at h
    by_cases hj : j = k
    · rw [if_pos hj] at h; cases h; rw [hj]; exact List.mem_cons_self
    · rw [if_neg hj] at h; exact List.mem_cons_of_mem _ (ih k v h)

theorem ctx_mem (s : State) (x : Nat) (h : (s.ctx x).blocked ≠ none) : (x, s.ctx x) ∈ s.od.ctxs := by
  unfold State.ctx Map.get at h ⊢
  cases hl : s.od.ctxs.look x with
  | none => rw [hl] at h; exact absurd rfl h
  | some v => exact mem_look _ _ _ hl

/-- What the row DEADLOCK_DETECT does (R275). -/
theorem exec_deadlockDetect : ∀ (s : State), s.up = true → s.odRuns = true → ∃ t, exec .deadlockDetect s = .next t ∧
    (∀ x ∈ s.od.ctxs.map Prod.fst, (s.ctxBlocked x = true → (t.ctx x).blocked = some ((s.ctx x).blocked.getD (s.clk.ticks + 1))) ∧
      (s.ctxBlocked x = false → (t.ctx x).blocked = none ∧ (t.od.dlk = s.od.dlk → (t.ctx x).reported = false))) ∧
    (s.bit OD_CTL 1 = false ∨ s.od.dlk = true → t.od.dlk = s.od.dlk ∧ t.irq = s.irq ∧ t.od.dlkCtx = s.od.dlkCtx ∧ t.od.dlkW = s.od.dlkW) ∧
    (∀ x b, s.bit OD_CTL 1 = true → s.od.dlk = false → s.ctxBlocked x = true → (s.ctx x).blocked = some b → (s.ctx x).reported = false →
      b + s.dlkWin ≤ s.clk.ticks + 1 → t.od.dlk = true ∧ t.od.dlkCourse = s.clk.course + 1 ∧ t.irq.getLsbD 24 = true ∧
        (t.ctx t.od.dlkCtx).reported = true ∧ t.od.dlkCount = min 4096 (s.blockedItems t.od.dlkCtx).length ∧
        t.od.dlkW = (s.blockedItems t.od.dlkCtx).take 64) ∧
    (∀ j, t.slot j = s.slot j) ∧ t.od.waiters = s.od.waiters ∧ t.od.part = s.od.part ∧ t.cnt = s.cnt ∧ t.out = s.out ∧ s.StoreOnly t := by
  intro s hu ho
  have k : exec .deadlockDetect s = s.main fun s => if s.odRuns then s.deadlock (s.clk.ticks + 1) (s.clk.course + 1) else s := rfl
  rw [k, State.main_up hu, if_pos ho]
  refine ⟨_, rfl, ?_⟩
  unfold State.deadlock
  dsimp +zetaHave only
  have hst : (fun (s : State) x => if s.ctxBlocked x = true then s.modCtx x fun c => { c with blocked := some (c.blocked.getD (s.clk.ticks + 1)) } else s.modCtx x fun c => { c with blocked := none, reported := false }) =
      fun (s : State) x => dlkStep (s.clk.ticks + 1) s x := rfl
  have hfn : (s.each (s.od.ctxs.map Prod.fst) fun s' x => if s'.ctxBlocked x = true then s'.modCtx x fun c => { c with blocked := some (c.blocked.getD (s.clk.ticks + 1)) } else s'.modCtx x fun c => { c with blocked := none, reported := false }) =
      s.each (s.od.ctxs.map Prod.fst) (dlkStep (s.clk.ticks + 1)) := rfl
  rw [hfn]
  obtain ⟨f1, f2, f3⟩ := dlk_fold (s.clk.ticks + 1) (s.od.ctxs.map Prod.fst) s
  generalize s.each (s.od.ctxs.map Prod.fst) (dlkStep (s.clk.ticks + 1)) = u at f1 f2 f3
  have ub : u.bit OD_CTL 1 = s.bit OD_CTL 1 ∧ u.od.dlk = s.od.dlk ∧ u.dlkWin = s.dlkWin ∧ (∀ x, u.blockedItems x = s.blockedItems x) := by rw [f1]; exact ⟨rfl, rfl, rfl, fun _ => rfl⟩
  have base : ∀ t : State, (∀ x, (t.ctx x).blocked = (u.ctx x).blocked) → (t.od.dlk = s.od.dlk → ∀ x, (t.ctx x).reported = (u.ctx x).reported) →
      (∀ x ∈ s.od.ctxs.map Prod.fst, (s.ctxBlocked x = true → (t.ctx x).blocked = some ((s.ctx x).blocked.getD (s.clk.ticks + 1))) ∧
      (s.ctxBlocked x = false → (t.ctx x).blocked = none ∧ (t.od.dlk = s.od.dlk → (t.ctx x).reported = false))) := by
    intro t h1 h2 x hx
    have := f2 x hx
    refine ⟨fun hb => ?_, fun hb => ?_⟩
    · rw [h1, this, hb]; rfl
    · rw [hb] at this
      have h3 : (u.ctx x).blocked = none := by rw [this]; rfl
      exact ⟨(h1 x).trans h3, fun hd => by rw [h2 hd x, this]; rfl⟩
  have u1 : (∀ j, u.slot j = s.slot j) ∧ u.od.waiters = s.od.waiters ∧ u.od.part = s.od.part ∧ u.cnt = s.cnt ∧ u.out = s.out ∧ s.StoreOnly u ∧ u.irq = s.irq ∧ u.od.dlkCtx = s.od.dlkCtx ∧ u.od.dlkW = s.od.dlkW := by
    rw [f1]; exact ⟨fun _ => rfl, rfl, rfl, rfl, rfl, rfl, rfl, rfl, rfl⟩
  obtain ⟨v1, v2, v3, v4, v5, v6, v7, v8, v9⟩ := u1
  by_cases hoff : u.bit OD_CTL 1 = false ∨ u.od.dlk = true
  · rw [if_pos hoff]
    refine ⟨base u (fun _ => rfl) fun _ _ => rfl, fun _ => ⟨ub.2.1, v7, v8, v9⟩, fun x b h1 h2 => ?_, v1, v2, v3, v4, v5, v6⟩
    rcases hoff with h | h
    · rw [ub.1] at h; exact absurd (h1.symm.trans h) (by decide)
    · rw [ub.2.1] at h; exact absurd (h2.symm.trans h) (by decide)
  · rw [if_neg hoff]
    have hdue : ∀ b (e : Nat × Ctx), (decide (b + u.dlkWin ≤ s.clk.ticks + 1) && !e.2.reported) = true ↔ ∃ c, some b = some c ∧ c + u.dlkWin ≤ s.clk.ticks + 1 ∧ e.2.reported = false := by
      intro b e
      constructor
      · intro h
        simp only [Bool.and_eq_true, decide_eq_true_eq, Bool.not_eq_true'] at h
        exact ⟨b, rfl, h⟩
      · rintro ⟨c, hc, h1, h2⟩
        cases hc
        rw [decide_eq_true h1, h2]; rfl
    have hon : ¬ (s.bit OD_CTL 1 = false ∨ s.od.dlk = true) := by rw [← ub.1, ← ub.2.1]; exact hoff
    have due : ∀ p : Nat × Ctx → Bool, (∀ e, p e = true ↔ ∃ b, e.2.blocked = some b ∧ b + u.dlkWin ≤ s.clk.ticks + 1 ∧ e.2.reported = false) →
        ∀ t q, u.od.ctxs.find? p = q → ((q = none → t = u) ∧ (∀ e, q = some e → t = State.raise
          { (u.modCtx e.1 fun c => { c with reported := true }) with od := { (u.modCtx e.1 fun c => { c with reported := true }).od with dlk := true, dlkCtx := e.1, dlkCount := min 4096 (u.blockedItems e.1).length, dlkCourse := s.clk.course + 1, dlkW := (u.blockedItems e.1).take 64 } } 24)) →
        (∀ x ∈ s.od.ctxs.map Prod.fst, (s.ctxBlocked x = true → (t.ctx x).blocked = some ((s.ctx x).blocked.getD (s.clk.ticks + 1))) ∧
          (s.ctxBlocked x = false → (t.ctx x).blocked = none ∧ (t.od.dlk = s.od.dlk → (t.ctx x).reported = false))) ∧
        (s.bit OD_CTL 1 = false ∨ s.od.dlk = true → t.od.dlk = s.od.dlk ∧ t.irq = s.irq ∧ t.od.dlkCtx = s.od.dlkCtx ∧ t.od.dlkW = s.od.dlkW) ∧
        (∀ x b, s.bit OD_CTL 1 = true → s.od.dlk = false → s.ctxBlocked x = true → (s.ctx x).blocked = some b → (s.ctx x).reported = false →
          b + s.dlkWin ≤ s.clk.ticks + 1 → t.od.dlk = true ∧ t.od.dlkCourse = s.clk.course + 1 ∧ t.irq.getLsbD 24 = true ∧
            (t.ctx t.od.dlkCtx).reported = true ∧ t.od.dlkCount = min 4096 (s.blockedItems t.od.dlkCtx).length ∧
            t.od.dlkW = (s.blockedItems t.od.dlkCtx).take 64) ∧
        (∀ j, t.slot j = s.slot j) ∧ t.od.waiters = s.od.waiters ∧ t.od.part = s.od.part ∧ t.cnt = s.cnt ∧ t.out = s.out ∧ s.StoreOnly t := by
      intro p hp t q hf ⟨t1, t2⟩
      cases q with
      | none =>
        have := t1 rfl
        subst this
        refine ⟨base t (fun _ => rfl) fun _ _ => rfl, fun h => absurd h hon, fun x b h1 h2 h3 h4 h5 h6 => ?_, v1, v2, v3, v4, v5, v6⟩
        exfalso
        rw [List.find?_eq_none] at hf
        have hx : x ∈ s.od.ctxs.map Prod.fst := List.mem_map.mpr ⟨_, ctx_mem s x (by rw [h4]; exact fun h => by cases h), rfl⟩
        have hc := f2 x hx
        rw [h3] at hc
        have hb : (t.ctx x).blocked = some b := by rw [hc]; show some ((s.ctx x).blocked.getD _) = _; rw [h4]; rfl
        refine hf _ (ctx_mem t x (by rw [hb]; exact fun h => by cases h)) ((hp _).mpr ⟨b, hb, by rw [ub.2.2.1]; exact h6, ?_⟩)
        show (t.ctx x).reported = false
        rw [hc]; exact h5
      | some e =>
        have ht := t2 e rfl
        have hpe := (hp e).mp (List.find?_some hf)
        have hmem := List.mem_of_find?_eq_some hf
        have tc : ∀ x, t.ctx x = (u.modCtx e.1 fun c => { c with reported := true }).ctx x := fun x => by rw [ht]; rfl
        have td : t.od.dlkCtx = e.1 ∧ t.od.dlk = true ∧ t.od.dlkCourse = s.clk.course + 1 ∧ t.od.dlkCount = min 4096 (u.blockedItems e.1).length ∧ t.od.dlkW = (u.blockedItems e.1).take 64 ∧
            (∀ j, t.slot j = u.slot j) ∧ t.od.waiters = u.od.waiters ∧ t.od.part = u.od.part ∧ t.cnt = u.cnt ∧ t.out = u.out ∧ u.StoreOnly t ∧ t.irq.getLsbD 24 = true := by
          rw [ht]; exact ⟨rfl, rfl, rfl, rfl, rfl, fun _ => rfl, rfl, rfl, rfl, rfl, rfl, by simp [State.raise]⟩
        obtain ⟨d1, d2, d3, d4, d5, d6, d7, d8, d9, d10, d11, d12⟩ := td
        have hcb : ∀ x, (t.ctx x).blocked = (u.ctx x).blocked := by
          intro x; rw [tc, ctx_set]; split
          · next h => rw [h]
          · rfl
        have hrep : (t.ctx e.1).reported = true := by rw [tc, ctx_set, if_pos rfl]
        refine ⟨?_, fun h => absurd h hon, fun x b _ _ _ _ _ _ => ⟨d2, d3, d12, by rw [d1]; exact hrep, by rw [d4, d1, ub.2.2.2], by rw [d5, d1, ub.2.2.2]⟩,
          fun j => (d6 j).trans (v1 j), d7.trans v2, d8.trans v3, d9.trans v4, d10.trans v5, ?_⟩
        · refine base t hcb fun hd => ?_
          rw [d2] at hd
          exact absurd (Or.inr hd.symm) hon
        · unfold State.StoreOnly at v6 d11 ⊢; rw [v6] at d11; exact d11
    split
    · next h =>
      refine due _ ?_ _ _ h ⟨fun _ => rfl, fun e he => (by cases he)⟩
      intro e
      cases hb : e.2.blocked with
      | none => exact ⟨fun h => absurd (show false = true from h) (by decide), fun ⟨b, h, _⟩ => by cases h⟩
      | some b => exact hdue b e
    · next h =>
      refine due _ ?_ _ _ h ⟨fun he => (by cases he), fun e he => (by cases he; rfl)⟩
      intro e
      cases hb : e.2.blocked with
      | none => exact ⟨fun h => absurd (show false = true from h) (by decide), fun ⟨b, h, _⟩ => by cases h⟩
      | some b => exact hdue b e

/-- What the row OBJ_REQ_RECEIVE does (R276). -/
theorem exec_objReqReceive : (∀ (s u : State) (h : RxHead) (m : ObjReqMsg) (r : Rx), s.up = true → h.port < s.nPorts → r = s.rxZudar h kObjReq → u = r.s →
    u.wire = s.wire ∧ (r.ok = false → exec (.objReqReceive h m) s = .next u) ∧
    (r.ok = true → u.isRidge = true → exec (.objReqReceive h m) s = .next (u.objForward m.dst (.objReq { m with origin := some (h.srcId, h.course) }))) ∧
    (r.ok = true → u.isRidge = false → m.dst ≠ u.ties.idNum → exec (.objReqReceive h m) s = .next (u.count OD_CNT_STALE)) ∧
    (∀ a, r.ok = true → u.isRidge = false → m.dst = u.ties.idNum → a = m.ctx * 65536 + m.loc →
      (∀ res, (u.odOn = false ∧ res = 0x0D) ∨ (u.odOn = true ∧ remoteOp m.op = false ∧ res = 0x10) ∨
          (u.odOn = true ∧ remoteOp m.op = true ∧ r.course < (u.ctx m.ctx).clear ∧ res = 0x0A) ∨
          (u.odOn = true ∧ remoteOp m.op = true ∧ (u.ctx m.ctx).clear ≤ r.course ∧ u.translate a = .fail ∧ res = 8) →
        ∃ t x, exec (.objReqReceive h m) s = .next (t.sendObj (.objRsp { dst := h.srcId % 1048576, result := res, rtag := m.rtag, value := x })) ∧
          u.StoreOnly t ∧ ∀ j, t.slot j = u.slot j) ∧
      (∀ k o, u.odOn = true → remoteOp m.op = true → (u.ctx m.ctx).clear ≤ r.course → u.Rests a k → o = slotOp m.op m.operand (u.slot k) →
        ∃ t x, exec (.objReqReceive h m) s = .next (t.sendObj (.objRsp { dst := h.srcId % 1048576, result := o.res, rtag := m.rtag, value := x })) ∧
          u.OpApplied t k o ∧ ∀ y, o.val = some y → x = y % 2 ^ 32))) := by
  intro s u h m r hu hp hr hur
  have k : exec (.objReqReceive h m) s = s.atPort h.port fun s =>
    let r := s.rxZudar h kObjReq
    if r.ok = false then r.s
    else if r.s.isRidge then r.s.objForward m.dst (.objReq { m with origin := some (h.srcId, h.course) })
    else if m.dst ≠ r.s.ties.idNum then r.s.count OD_CNT_STALE
    else r.s.remoteApply m h.srcId r.course := rfl
  rw [k, atPort_in hu hp]
  dsimp +zetaHave only
  rw [← hr, ← hur]
  have ans : ∀ (t : State) (src rtag res : Nat) (v : Option Nat), t.answer src rtag res v = (t.valueOf v).1.sendObj (.objRsp { dst := src % 1048576, result := res, rtag := rtag, value := (t.valueOf v).2 % 2 ^ 32 }) := fun _ _ _ _ _ => rfl
  refine ⟨by rw [hur, hr]; exact State.rxZudar_wire _ _ _ _, fun h => by rw [if_pos h], fun h1 h2 => by rw [if_neg (by rw [h1]; decide), if_pos h2],
    fun h1 h2 h3 => by rw [if_neg (by rw [h1]; decide), if_neg (by rw [h2]; decide), if_pos h3], fun a h1 h2 h3 ha => ?_⟩
  rw [if_neg (by rw [h1]; decide), if_neg (by rw [h2]; decide), if_neg (by rw [h3]; exact fun h => h rfl)]
  unfold State.remoteApply
  dsimp +zetaHave only
  rw [← ha]
  refine ⟨fun res hres => ?_, fun kk o g1 g2 g3 hrest ho => ?_⟩
  · have fin : ∀ t : State, t = (u.ended a res).answer h.srcId m.rtag res none → ∃ t' x, (.next t : Result) = .next (t'.sendObj (.objRsp { dst := h.srcId % 1048576, result := res, rtag := m.rtag, value := x })) ∧
        u.StoreOnly t' ∧ ∀ j, t'.slot j = u.slot j := by
      rintro t rfl
      rw [ans]
      have e1 := so_trans (so_ended u a res) (so_value (u.ended a res) none)
      exact ⟨_, _, rfl, (so_only e1).1, fun j => by
        have : ((u.ended a res).valueOf none).1.slot j = (u.ended a res).slot j := rfl
        rw [this]; exact (ended_facts u a res).1 j⟩
    rcases hres with ⟨g1, rfl⟩ | ⟨g1, g2, rfl⟩ | ⟨g1, g2, g3, rfl⟩ | ⟨g1, g2, g3, g4, rfl⟩
    · exact fin _ (if_pos g1)
    · exact fin _ ((if_neg (by rw [g1]; decide)).trans (if_pos g2))
    · exact fin _ ((if_neg (by rw [g1]; decide)).trans ((if_neg (by rw [g2]; decide)).trans (if_pos g3)))
    · refine fin _ ((if_neg (by rw [g1]; decide)).trans ((if_neg (by rw [g2]; decide)).trans ((if_neg (by omega)).trans ?_)))
      rw [g4]; rfl
  · rw [if_neg (by rw [g1]; decide), if_neg (by rw [g2]; decide), if_neg (by omega), hrest.1]
    dsimp only
    unfold State.remoteAt State.opAt
    rw [← ha]
    obtain ⟨q1, x, hx, q2, q3⟩ := op_facts u a kk m.op m.operand hrest.2.1 o ho
    rw [q1]
    dsimp +zetaHave only
    rw [← ho, ← hx]
    have h9 : m.op ≠ 9 := by intro h; rw [h] at g2; exact absurd g2 (by decide)
    rw [after_none x m.op a kk o.res h9 fun w hw => hrest.2.2 w (by rw [(so_only q3).2] at hw; exact hw)]
    obtain ⟨v1, v2⟩ := value_facts x o.val
    have v3 := so_value x o.val
    generalize x.valueOf o.val = q at v1 v2 v3
    rw [ans]
    exact ⟨q.1, _, rfl, applied_more q2 q3 v3 v1, fun y hy => by rw [← v2 y hy]; rfl⟩

theorem exec_rows_2 : (∀ (u : State) (d : Nat) (b : Body),
    ((∀ p ∈ u.portList, (u.port p).role = .child → d < (u.port p).rangeLo ∨ (u.port p).rangeHi < d) → u.isRoot = true ∨ u.homeUplink = none →
      u.objForward d b = u.count TP_CNT_OBJDROP) ∧
    (∀ p, u.portList.find? (fun p => decide ((u.port p).role = .child) && decide ((u.port p).rangeLo ≤ d) && decide (d ≤ (u.port p).rangeHi)) = some p →
      u.objForward d b = if (u.port p).health.routes = false ∨ max 1 (u.fl TP_QLIM 0 8) ≤ objQueued (u.port p) then u.count TP_CNT_OBJDROP else u.xsend p b)) := by
  intro u d b
  refine ⟨fun h hr => ?_, fun p hp => ?_⟩
  · have hn : u.portList.find? (fun p => decide ((u.port p).role = .child) && decide ((u.port p).rangeLo ≤ d) && decide (d ≤ (u.port p).rangeHi)) = none := by
      rw [List.find?_eq_none]
      intro p hp hh
      simp only [Bool.and_eq_true, decide_eq_true_eq] at hh
      rcases h p hp hh.1.1 with q | q <;> omega
    unfold State.objForward
    dsimp +zetaHave only
    rw [hn]
    dsimp only
    rcases hr with h | h
    · rw [h]; rfl
    · rw [h]; cases u.isRoot <;> rfl
  · unfold State.objForward
    dsimp +zetaHave only
    rw [hp]

/-- What the row OBJ_RSP_RECEIVE does (R276). -/
theorem exec_objRspReceive : (∀ (s u : State) (h : RxHead) (m : ObjRspMsg) (r : Rx), s.up = true → h.port < s.nPorts → r = s.rxZudar h kObjRsp → u = r.s →
    u.wire = s.wire ∧ (r.ok = false → exec (.objRspReceive h m) s = .next u) ∧
    (r.ok = true → u.isRidge = true → exec (.objRspReceive h m) s = .next (u.objForward m.dst (.objRsp { m with origin := some (h.srcId, h.course) }))) ∧
    (r.ok = true → u.isRidge = false → (∀ q ∈ u.od.remote, ¬ (q.tap = m.rtag / 1024 ∧ q.rtag = m.rtag % 256)) →
      exec (.objRspReceive h m) s = .next (u.count OD_CNT_STALE)) ∧
    (∀ a b q, r.ok = true → u.isRidge = false → u.od.remote = a ++ q :: b → (∀ x ∈ a, ¬ (x.tap = m.rtag / 1024 ∧ x.rtag = m.rtag % 256)) →
      q.tap = m.rtag / 1024 → q.rtag = m.rtag % 256 → ∃ t, exec (.objRspReceive h m) s = .next t ∧ t.od.remote = a ++ b ∧
        t.out = .objRsp q.tap q.rtag m.result m.value :: u.out ∧ t.od = { u.od with remote := a ++ b, ctxs := t.od.ctxs } ∧
        t = { u with od := t.od, out := t.out })) := by
  intro s u h m r hu hp hr hur
  have k : exec (.objRspReceive h m) s = s.atPort h.port fun s =>
    let r := s.rxZudar h kObjRsp
    if r.ok = false then r.s
    else if r.s.isRidge then r.s.objForward m.dst (.objRsp { m with origin := some (h.srcId, h.course) })
    else
      let tap := m.rtag / 1024
      let tag := m.rtag % 256
      match takeFirst (fun (q : RemoteReq) => decide (q.tap = tap ∧ q.rtag = tag)) r.s.od.remote with
      | some (q, rest) =>
        let s : State := { r.s with od := { r.s.od with remote := rest } }
        let s := if (s.ctx q.ctx).st = .undef then s else s.modCtx q.ctx fun c => { c with done := true }
        s.emit (.objRsp tap tag m.result m.value)
      | none => r.s.count OD_CNT_STALE := rfl
  rw [k, atPort_in hu hp]
  dsimp +zetaHave only
  rw [← hr, ← hur]
  refine ⟨by rw [hur, hr]; exact State.rxZudar_wire _ _ _ _, fun h => by rw [if_pos h], fun h1 h2 => by rw [if_neg (by rw [h1]; decide), if_pos h2],
    fun h1 h2 h3 => ?_, fun a b q h1 h2 h3 h4 h5 h6 => ?_⟩
  · rw [if_neg (by rw [h1]; decide), if_neg (by rw [h2]; decide), take_none _ _ fun x hx => decide_eq_false (h3 x hx)]
  · rw [if_neg (by rw [h1]; decide), if_neg (by rw [h2]; decide), h3, take_first _ a q b (fun x hx => decide_eq_false (h4 x hx)) (decide_eq_true ⟨h5, h6⟩)]
    dsimp only
    refine ⟨_, rfl, ?_⟩
    rw [← h5, ← h6]
    generalize hz : ({ u with od := { u.od with remote := a ++ b } } : State) = z
    have z1 : z.od = { u.od with remote := a ++ b } ∧ z.out = u.out ∧ z = { u with od := z.od } := by rw [← hz]; exact ⟨rfl, rfl, rfl⟩
    obtain ⟨z1, z2, z3⟩ := z1
    have : ∀ y : State, y = (if (z.ctx q.ctx).st = .undef then z else z.modCtx q.ctx fun c => { c with done := true }) → y = { z with od := y.od } ∧ y.od = { z.od with ctxs := y.od.ctxs } := by
      rintro y rfl; split <;> exact ⟨rfl, rfl⟩
    have hy := this _ rfl
    revert hy
    generalize (if (z.ctx q.ctx).st = .undef then z else z.modCtx q.ctx fun c => { c with done := true }) = y
    rintro ⟨hy, ho⟩
    have y1 : y.od = { u.od with remote := a ++ b, ctxs := y.od.ctxs } := by rw [z1] at ho; exact ho
    have y2 : y.out = u.out := by rw [hy]; exact z2
    refine ⟨?_, ?_, y1, ?_⟩
    · show y.od.remote = _; rw [y1]
    · show _ :: y.out = _; rw [y2]
    · show State.emit y _ = _
      have y3 : y = { u with od := y.od } := by
        have : ({ z with od := y.od } : State) = { u with od := y.od } := by rw [z3]
        exact hy.trans this
      show ({ y with out := _ :: y.out } : State) = { u with od := y.od, out := _ :: y.out }
      rw [y3]

/-- What the rows REMOTE_TIMEOUT, OBJECT_DEADLINE, LEND, LEND_RETURN, DEADLOCK_DETECT do (R269, R272, R274, R275,
R276). -/
theorem exec_remoteTimeout_objectDeadline_lend_more : (∀ (s : State), s.up = true → (s.odRuns = false → ∀ c ∈ [Instr.fenceTimeout, .remoteTimeout, .objectDeadline, .lend, .lendReturn, .deadlockDetect],
    exec c s = .next s)) := by
  intro s hu ho c hc
  simp only [List.mem_cons, List.not_mem_nil, or_false] at hc
  have go : ∀ f : State → State, (s.main fun s => if s.odRuns then f s else s) = .next s := fun f => by rw [State.main_up hu, if_neg (by rw [ho]; decide)]
  rcases hc with h | h | h | h | h | h <;> subst h
  · exact go fun s => s.fenceTimeouts (s.clk.ticks + 1)
  · exact go fun s => s.remoteTimeouts (s.clk.ticks + 1)
  · exact go fun s => s.objDeadlines s.clk.course
  · exact go fun s => s.lendOut (s.clk.ticks + 1) (s.clk.course + 1)
  · exact go fun s => s.lendReturns (s.clk.course + 1)
  · exact go fun s => s.deadlock (s.clk.ticks + 1) (s.clk.course + 1)

/-- The completion of a translation read for the one who waits. -/
theorem trans_one (w z : State) (key e : Nat) (bad : Bool) (who : TransFor) (h : w.od.reads = [⟨key, who⟩])
    (hz : z = { w with od := { w.od with reads := [], cache := z.od.cache } })
    (hc : z.od.cache = if bad = false ∧ bitOf e 31 = true ∧ (∀ c ∈ w.od.cache, c.1 ≠ key) then ((key, e % 65536) :: w.od.cache).take 1024 else w.od.cache) :
    w.transDone key e bad = z.transFor key (if bad then .parity else if bitOf e 31 = false ∨ (w.ctx (hCtx key)).st = .undef then .fail
      else if (w.slot (e % 65536)).ctx = hCtx key ∨ who = .command then .slot (e % 65536) else .fail) who := by
  unfold State.transDone
  have h1 : takeFirst (fun t : TransRead => decide (t.key = key)) [⟨key, who⟩] = some (⟨key, who⟩, []) :=
    take_first (fun t : TransRead => decide (t.key = key)) [] ⟨key, who⟩ [] (fun x (hx : x ∈ []) => (by cases hx)) (decide_eq_true rfl)
  have hall : (w.od.cache.all fun e => decide (e.1 ≠ key)) = true ↔ ∀ c ∈ w.od.cache, c.1 ≠ key := by
    rw [List.all_eq_true]; simp only [decide_eq_true_eq]
  have hx : (if bad = false ∧ bitOf e 31 = true ∧ (w.od.cache.all fun e => decide (e.1 ≠ key)) = true then ({ w with od := { w.od with reads := [], cache := ((key, e % 65536) :: w.od.cache).take 1024 } } : State) else { w with od := { w.od with reads := [] } }) = z := by
    by_cases c : bad = false ∧ bitOf e 31 = true ∧ (∀ c ∈ w.od.cache, c.1 ≠ key)
    · rw [if_pos ⟨c.1, c.2.1, hall.mpr c.2.2⟩, hz, hc, if_pos c]
    · rw [if_neg fun hh => c ⟨hh.1, hh.2.1, hall.mp hh.2.2⟩, hz, hc, if_neg c]
  have zc : z.ctx (hCtx key) = w.ctx (hCtx key) ∧ ∀ k, z.slot k = w.slot k := by rw [hz]; exact ⟨rfl, fun _ => rfl⟩
  have main : ∀ X, X = z → X.transFor key (if bad then .parity else if bitOf e 31 = false ∨ (X.ctx (hCtx key)).st = .undef then .fail
      else if (X.slot (e % 65536)).ctx = hCtx key ∨ who = .command then .slot (e % 65536) else .fail) who = z.transFor key (if bad then .parity else if bitOf e 31 = false ∨ (w.ctx (hCtx key)).st = .undef then .fail
      else if (w.slot (e % 65536)).ctx = hCtx key ∨ who = .command then .slot (e % 65536) else .fail) who := by
    rintro X rfl
    rw [zc.1, zc.2]
  rw [h, h1]
  exact main _ hx

/-- What the row TRANSLATION_READ_DONE does (R257). -/
theorem exec_translationReadDone : (∀ (s : State) (id : Nat) (bytes : List Nat) (bad : Bool), s.up = true →
    ((∀ q ∈ s.mm.reads, q.id = id → ∀ key, q.use ≠ .trans key) → exec (.translationReadDone id bytes bad) s = .next s) ∧
    (∀ (q : MemReq) (key e : Nat) (z : State), s.mm.reads = [q] → q.id = id → q.use = .trans key → s.mm.waitR = [] → s.mm.waitW = [] →
      s.cp.run = [] → s.od.tapQ = [] → e = ofLe (((q.got ++ bytes).drop (key * 4 % 16)).take 4) →
      z = { s with mm := { s.mm with reads := [] }, od := { s.od with reads := [], cache := z.od.cache } } →
      z.od.cache = (if bad = false ∧ bitOf e 31 = true ∧ (∀ c ∈ s.od.cache, c.1 ≠ key) then ((key, e % 65536) :: s.od.cache).take 1024 else s.od.cache) →
      (s.od.reads = [⟨key, .program⟩] → bad = false → ∃ v, exec (.translationReadDone id bytes bad) s = .next { z with od := { z.od with progRes := some (key, v) } } ∧
        v = if bitOf e 31 = true ∧ (s.ctx (hCtx key)).st ≠ .undef ∧ (s.slot (e % 65536)).ctx = hCtx key then .slot (e % 65536) else .fail) ∧
      (∀ op r course, s.od.reads = [⟨key, .engine op r course⟩] →
        (bad = true → r.bar = false → min 255 (s.hf.score + 1) < s.retireThr → ∃ t x, exec (.translationReadDone id bytes bad) s = .next t ∧ .objRsp r.tap r.rtag 0x0B x ∈ t.out ∧
          (∀ j, t.slot j = s.slot j)) ∧
        (bad = false → bitOf e 31 = false ∨ (s.ctx (hCtx key)).st = .undef ∨ (s.slot (e % 65536)).ctx ≠ hCtx key → r.bar = false →
          ∃ t x, exec (.translationReadDone id bytes bad) s = .next t ∧ .objRsp r.tap r.rtag 8 x ∈ t.out ∧ (∀ j, t.slot j = s.slot j) ∧
            z.StoreOnly t ∧ t.od.cache = z.od.cache) ∧
        (∀ k o, bad = false → bitOf e 31 = true → (s.ctx (hCtx key)).st ≠ .undef → k = e % 65536 → (s.slot k).ctx = hCtx key →
          (s.slot k).gen = (s.ctx (hCtx key)).gen → (∀ w ∈ s.od.waiters, w.slot ≠ k) → o = slotOp op r.operand (s.slot k) →
          (o.waits = false ∨ r.wait = false) → op ≠ 9 →
          ∃ t, exec (.translationReadDone id bytes bad) s = .next t ∧ z.OpApplied t k o ∧
            (r.bar = false → ∃ x, .objRsp r.tap r.rtag o.res x ∈ t.out ∧ ∀ y, o.val = some y → x = y))))) := by
  intro s id bytes bad hu
  have k : exec (.translationReadDone id bytes bad) s = s.main fun s =>
    match s.mm.reads.find? fun q => q.id = id with
    | some q =>
      match q.use with
      | .trans _ => s.readEnds { q with got := q.got ++ bytes } bad
      | _ => s
    | none => s := rfl
  rw [k, State.main_up hu]
  refine ⟨fun h => ?_, fun q key e z h1 h2 h3 h4 h5 h6 h7 he hz hc => ?_⟩
  · cases hf : s.mm.reads.find? fun q => decide (q.id = id) with
    | none => rfl
    | some q =>
      have hq := h q (List.mem_of_find?_eq_some hf) ((by simpa using List.find?_some hf))
      dsimp only
      cases hq' : q.use with
      | trans key => exact absurd hq' (hq key)
      | _ => rfl
  · have hf : (s.mm.reads.find? fun q => decide (q.id = id)) = some q := by rw [h1]; simp [h2]
    rw [hf]
    dsimp only
    rw [h3]
    dsimp only
    unfold State.readEnds
    dsimp +zetaHave only
    generalize hw : ({ s with mm := { s.mm with reads := s.mm.reads.filter fun x => decide (x.id ≠ q.id) } } : State) = w
    have w1 : w = { s with mm := { s.mm with reads := [] } } := by
      rw [← hw, h1, List.filter_cons_of_neg (by simp)]; rfl
    have w2 : w.memPump = w := by
      unfold State.memPump
      dsimp +zetaHave only
      have a : w.mm.waitR = [] := by rw [w1]; exact h4
      have b : w.mm.waitW = [] := by rw [w1]; exact h5
      rw [a]; dsimp only; rw [b]
    rw [w2, ← he]
    have pump : ∀ t : State, t.cp.run = [] → t.pumpCmds = t := by
      intro t ht; unfold State.pumpCmds; rw [ht]; rfl
    have drain : ∀ (t : State) (n : Nat), t.od.tapQ = [] → t.drainTap n = t := by
      intro t n ht
      unfold State.drainTap
      dsimp +zetaHave only
      rw [ht]
      show ({ t with od := { t.od with tapQ := [] } } : State) = t
      rw [← ht]
    have z0 : z = { w with od := { w.od with reads := [], cache := z.od.cache } } := by rw [w1]; exact hz
    have wc : w.od.cache = s.od.cache := by rw [w1]
    have z2 : z.od.tapQ = [] ∧ z.cp.run = [] ∧ (∀ j, z.slot j = s.slot j) ∧ z.od.waiters = s.od.waiters ∧ (∀ x, z.ctx x = s.ctx x) := by
      rw [hz]; exact ⟨h7, h6, fun _ => rfl, rfl, fun _ => rfl⟩
    obtain ⟨z2, z3, z4, z5, z6⟩ := z2
    have wctx : ∀ x, w.ctx x = s.ctx x := fun x => by rw [w1]; rfl
    have wsl : ∀ j, w.slot j = s.slot j := fun j => by rw [w1]; rfl
    refine ⟨fun hr hb => ?_, fun op r course hr => ⟨fun hb hbar hsc => ?_, fun hb hinv hbar => ?_, fun kk o hb hval hdef hk hown hgen hwt ho hn h9 => ?_⟩⟩
    · have wr : w.od.reads = [⟨key, .program⟩] := by rw [w1]; exact hr
      rw [hb, if_neg (by decide), trans_one w z key e false .program wr z0 (by rw [wc]; rw [hb] at hc; exact hc), if_neg (by decide), wctx, wsl]
      refine ⟨_, congrArg _ (pump _ z3), ?_⟩
      by_cases c1 : bitOf e 31 = false ∨ (s.ctx (hCtx key)).st = .undef
      · rw [if_pos c1, if_neg]
        rintro ⟨a, b, _⟩
        rcases c1 with h | h
        · exact absurd (a.symm.trans h) (by decide)
        · exact b h
      · rw [if_neg c1]
        by_cases c2 : (s.slot (e % 65536)).ctx = hCtx key
        · rw [if_pos (.inl c2), if_pos ⟨Bool.of_not_eq_false fun h => c1 (.inl h), fun h => c1 (.inr h), c2⟩]
        · rw [if_neg (fun h => h.elim c2 fun h => by cases h), if_neg fun h => c2 h.2.2]
    · rw [if_pos hb]
      have cf : w.contained 0x0A = (((({ w with hf := { w.hf with score := min 255 (w.hf.score + 1), lastUnit := 0x0A } } : State).count HF_CNT_INT).raise 29).evt 30) := by
        unfold State.contained
        dsimp +zetaHave only
        rw [if_neg]
        have : ∀ a : State, a.regs = s.regs → a.retireThr = s.retireThr := by intro a h; unfold State.retireThr State.fl State.rd; rw [h]
        rw [this _ (by rw [evt_one, w1]; rfl)]
        have : w.hf = s.hf := by rw [w1]
        rw [this]; omega
      rw [cf, evt_one]
      generalize hy : (((({ w with hf := { w.hf with score := min 255 (w.hf.score + 1), lastUnit := 0x0A } } : State).count HF_CNT_INT).raise 29).emit (.perfEvt 30 1)) = y
      have y1 : y.od = s.od ∧ y.cp = s.cp := by rw [← hy]; exact ⟨by show w.od = _; rw [w1], by show w.cp = _; rw [w1]⟩
      rw [trans_one y { y with od := { y.od with reads := [] } } key e bad _ (by rw [y1.1]; exact hr) rfl (by rw [if_neg (fun hh => by rw [hb] at hh; exact absurd hh.1 (by decide))]), if_pos hb]
      unfold State.transFor
      dsimp +zetaHave only
      generalize hv : ({ y with od := { y.od with reads := [] } } : State) = v
      have v1 : v.od.tapQ = [] ∧ v.cp.run = [] ∧ (∀ j, v.slot j = s.slot j) := by
        rw [← hv]
        exact ⟨by show y.od.tapQ = _; rw [y1.1]; exact h7, by show y.cp.run = _; rw [y1.2]; exact h6, fun j => by show y.od.slots.get _ _ = _; rw [y1.1]; rfl⟩
      obtain ⟨e1, e2, e3⟩ := so_end v r rParity
      obtain ⟨x, hx⟩ := e3 hbar
      have g := (so_only e1).2
      have hcp : (v.endEngine r rParity).cp = v.cp := by rw [e1.1]
      rw [drain _ _ (by rw [g]; exact v1.1), pump _ (by rw [hcp]; exact v1.2.1)]
      exact ⟨_, x, rfl, hx, fun j => (e2 j).trans (v1.2.2 j)⟩
    · have wr : w.od.reads = [⟨key, .engine op r course⟩] := by rw [w1]; exact hr
      rw [hb, if_neg (by decide), trans_one w z key e false _ wr z0 (by rw [wc]; rw [hb] at hc; exact hc), if_neg (by decide), wctx, wsl]
      have : (if bitOf e 31 = false ∨ (s.ctx (hCtx key)).st = .undef then TransRes.fail else if (s.slot (e % 65536)).ctx = hCtx key ∨ TransFor.engine op r course = .command then .slot (e % 65536) else .fail) = .fail := by
        by_cases c1 : bitOf e 31 = false ∨ (s.ctx (hCtx key)).st = .undef
        · exact if_pos c1
        · rw [if_neg c1, if_neg]
          rintro (h | h)
          · rcases hinv with q | q | q
            · exact c1 (.inl q)
            · exact c1 (.inr q)
            · exact q h
          · cases h
      rw [this]
      unfold State.transFor
      dsimp +zetaHave only
      obtain ⟨e1, e2, e3⟩ := so_end z r rHandle
      obtain ⟨x, hx⟩ := e3 hbar
      have g := (so_only e1).2
      have hcp : (z.endEngine r rHandle).cp = z.cp := by rw [e1.1]
      rw [drain _ _ (by rw [g]; exact z2), pump _ (by rw [hcp]; exact z3)]
      exact ⟨_, x, rfl, hx, fun j => (e2 j).trans (z4 j), (so_only e1).1, by rw [g]⟩
    · have wr : w.od.reads = [⟨key, .engine op r course⟩] := by rw [w1]; exact hr
      rw [hb, if_neg (by decide), trans_one w z key e false _ wr z0 (by rw [wc]; rw [hb] at hc; exact hc), if_neg (by decide), wctx, wsl]
      rw [if_neg (by rintro (h | h); exact absurd (hval.symm.trans h) (by decide); exact hdef h), if_pos (.inl (by rw [← hk]; exact hown))]
      unfold State.transFor
      dsimp +zetaHave only
      obtain ⟨a1, a2⟩ := engine_at z op course (e % 65536) r (by rw [← hk, z4, z6, hown]; exact hgen) (by rw [z5, ← hk]; exact hwt) o (by rw [← hk, z4]; exact ho) hn h9
      have ho' := a1.only
      have hs' := a1.store
      rw [drain _ _ (by rw [hs']; exact z2), pump _ (by unfold State.StoreOnly at ho'; rw [ho']; exact z3)]
      rw [← hk] at a1 a2 ⊢
      exact ⟨_, rfl, a1, a2⟩

end Sys2Proof.Machine
end

