-- ==== Sys2Proof/Laws/Underlay.lean ====
section
/-! SUPPORT. Sys2Proof/Laws/Underlay.lean: what Underlay entry and the units it stops leave. -/

set_option linter.all false
set_option Elab.async false

namespace Sys2Proof.Machine
open Sys2Proof Sys2Proof.Config

def State.ul (s : State) := (s.hf.active, s.hf.pend, s.hf.course, s.ce, s.clk, s.home, s.regs)

theorem State.ul_mk (ties ck clk td rs regs cnt irq ports root home topo ce od hf pw gang im bt sq ev mm cp did logWr out free pending) :
    (State.mk ties ck clk td rs regs cnt irq ports root home topo ce od hf pw gang im bt sq ev mm cp did logWr out free pending).ul = (hf.active, hf.pend, hf.course, ce, clk, home, regs) := (rfl)

theorem State.ul_eta (s : State) : (s.hf.active, s.hf.pend, s.hf.course, s.ce, s.clk, s.home, s.regs) = s.ul := (rfl)

theorem State.foldl_ul {α : Type} (s : State) (l : List α) (f : State → α → State) (h : ∀ s a, (f s a).ul = s.ul) :
    (l.foldl f s).ul = s.ul := by
  induction l generalizing s with
  | nil => rfl
  | cons a l ih => simp [List.foldl, ih, h]

theorem State.each_ul (s : State) (l : List Nat) (f : State → Nat → State) (h : ∀ s n, (f s n).ul = s.ul) :
    (s.each l f).ul = s.ul := State.foldl_ul s l f h

theorem State.foldl_fst_ul {α β : Type} (a : State × α) (l : List β) (f : State × α → β → State × α)
    (h : ∀ a b, (f a b).1.ul = a.1.ul) : (l.foldl f a).1.ul = a.1.ul := by
  induction l generalizing a with
  | nil => rfl
  | cons b l ih => simp [List.foldl, ih, h]

theorem State.count_ul (s : State) (off : Nat) (k : Nat) : (State.count s off k).ul = s.ul := by
  unfold State.count
  repeat' (first
    | with_reducible rfl
    | (simp +zetaHave only [State.ul_mk, State.ul_eta, apply_ite State.ul, apply_ite Prod.fst, ite_self, implies_true]; done)
    | split
    | intro _
    | (dsimp +zetaHave only))

theorem State.drawFree_ul (s : State) : (State.drawFree s).1.ul = s.ul := by
  unfold State.drawFree
  repeat' (first
    | with_reducible rfl
    | (simp +zetaHave only [State.ul_mk, State.ul_eta, apply_ite State.ul, apply_ite Prod.fst, ite_self, implies_true]; done)
    | split
    | intro _
    | (dsimp +zetaHave only))

theorem State.raise_ul (s : State) (k : Nat) : (State.raise s k).ul = s.ul := by
  unfold State.raise
  repeat' (first
    | with_reducible rfl
    | (simp +zetaHave only [State.ul_mk, State.ul_eta, apply_ite State.ul, apply_ite Prod.fst, ite_self, implies_true]; done)
    | split
    | intro _
    | (dsimp +zetaHave only))

theorem State.raiseIf_ul (s : State) (c : Bool) (k : Nat) : (State.raiseIf s c k).ul = s.ul := by
  unfold State.raiseIf
  repeat' (first
    | with_reducible rfl
    | (simp +zetaHave only [State.ul_mk, State.ul_eta, apply_ite State.ul, apply_ite Prod.fst, ite_self, implies_true, State.raise_ul]; done)
    | split
    | intro _
    | (dsimp +zetaHave only))

theorem State.emit_ul (s : State) (o : Output) : (State.emit s o).ul = s.ul := by
  unfold State.emit
  repeat' (first
    | with_reducible rfl
    | (simp +zetaHave only [State.ul_mk, State.ul_eta, apply_ite State.ul, apply_ite Prod.fst, ite_self, implies_true]; done)
    | split
    | intro _
    | (dsimp +zetaHave only))

theorem State.evt_ul (s : State) (line : Nat) (k : Nat) : (State.evt s line k).ul = s.ul := by
  unfold State.evt
  repeat' (first
    | with_reducible rfl
    | (simp +zetaHave only [State.ul_mk, State.ul_eta, apply_ite State.ul, apply_ite Prod.fst, ite_self, implies_true, State.count_ul, State.emit_ul]; done)
    | split
    | intro _
    | (dsimp +zetaHave only))

theorem State.openGate_ul (s : State) (k : Nat) : (State.openGate s k).ul = s.ul := by
  unfold State.openGate
  repeat' (first
    | with_reducible rfl
    | (simp +zetaHave only [State.ul_mk, State.ul_eta, apply_ite State.ul, apply_ite Prod.fst, ite_self, implies_true, State.evt_ul]; done)
    | split
    | intro _
    | (dsimp +zetaHave only))

theorem State.setPower_ul (s : State) (st : PowerState) : (State.setPower s st).ul = s.ul := by
  unfold State.setPower
  repeat' (first
    | with_reducible rfl
    | (simp +zetaHave only [State.ul_mk, State.ul_eta, apply_ite State.ul, apply_ite Prod.fst, ite_self, implies_true]; done)
    | split
    | intro _
    | (dsimp +zetaHave only))

theorem State.napWake_ul (s : State) : (State.napWake s).ul = s.ul := by
  unfold State.napWake
  repeat' (first
    | with_reducible rfl
    | (simp +zetaHave only [State.ul_mk, State.ul_eta, apply_ite State.ul, apply_ite Prod.fst, ite_self, implies_true, State.foldl_ul, State.foldl_fst_ul, State.openGate_ul, State.setPower_ul]; done)
    | split
    | intro _
    | (dsimp +zetaHave only)
    | refine (State.foldl_ul _ _ _ ?_).trans ?_
    | refine (State.foldl_fst_ul _ _ _ ?_).trans ?_)

theorem State.setPort_ul (s : State) (p : Nat) (v : Port) : (State.setPort s p v).ul = s.ul := by
  unfold State.setPort
  repeat' (first
    | with_reducible rfl
    | (simp +zetaHave only [State.ul_mk, State.ul_eta, apply_ite State.ul, apply_ite Prod.fst, ite_self, implies_true]; done)
    | split
    | intro _
    | (dsimp +zetaHave only))

theorem State.setServo_ul (s : State) (d : Dom) (v : Servo) : (State.setServo s d v).ul = s.ul := by
  unfold State.setServo
  repeat' (first
    | with_reducible rfl
    | (simp +zetaHave only [State.ul_mk, State.ul_eta, apply_ite State.ul, apply_ite Prod.fst, ite_self, implies_true]; done)
    | split
    | intro _
    | (dsimp +zetaHave only))

theorem State.modServo_ul (s : State) (d : Dom) (f : Servo → Servo) : (State.modServo s d f).ul = s.ul := by
  unfold State.modServo
  repeat' (first
    | with_reducible rfl
    | (simp +zetaHave only [State.ul_mk, State.ul_eta, apply_ite State.ul, apply_ite Prod.fst, ite_self, implies_true, State.setServo_ul]; done)
    | split
    | intro _
    | (dsimp +zetaHave only))

theorem State.memWrite_ul (s : State) (use : MemUse) (addr : Nat) (bytes : List Nat) : (State.memWrite s use addr bytes).ul = s.ul := by
  unfold State.memWrite
  repeat' (first
    | with_reducible rfl
    | (simp +zetaHave only [State.ul_mk, State.ul_eta, apply_ite State.ul, apply_ite Prod.fst, ite_self, implies_true, State.openGate_ul]; done)
    | split
    | intro _
    | (dsimp +zetaHave only))

theorem State.freezesDropped_ul (s : State) : (State.freezesDropped s).ul = s.ul := by
  unfold State.freezesDropped
  repeat' (first
    | with_reducible rfl
    | (simp +zetaHave only [State.ul_mk, State.ul_eta, apply_ite State.ul, apply_ite Prod.fst, ite_self, implies_true, State.count_ul]; done)
    | split
    | intro _
    | (dsimp +zetaHave only))

theorem State.cancelArmed_ul (s : State) (src : ArmSrc) : (State.cancelArmed s src).ul = s.ul := by
  unfold State.cancelArmed
  repeat' (first
    | with_reducible rfl
    | (simp +zetaHave only [State.ul_mk, State.ul_eta, apply_ite State.ul, apply_ite Prod.fst, ite_self, implies_true, State.foldl_ul, State.foldl_fst_ul]; done)
    | split
    | intro _
    | (dsimp +zetaHave only)
    | refine (State.foldl_ul _ _ _ ?_).trans ?_
    | refine (State.foldl_fst_ul _ _ _ ?_).trans ?_)

theorem State.abortShots_ul (s : State) (reason : Nat) : (State.abortShots s reason).ul = s.ul := by
  unfold State.abortShots
  repeat' (first
    | with_reducible rfl
    | (simp +zetaHave only [State.ul_mk, State.ul_eta, apply_ite State.ul, apply_ite Prod.fst, ite_self, implies_true]; done)
    | split
    | intro _
    | (dsimp +zetaHave only))

theorem State.flushCT_ul (s : State) (p : Nat) : (State.flushCT s p).ul = s.ul := by
  unfold State.flushCT
  repeat' (first
    | with_reducible rfl
    | (simp +zetaHave only [State.ul_mk, State.ul_eta, apply_ite State.ul, apply_ite Prod.fst, ite_self, implies_true, State.count_ul, State.setPort_ul]; done)
    | split
    | intro _
    | (dsimp +zetaHave only))

theorem State.setSlot_ul (s : State) (k : Nat) (v : Slot) : (State.setSlot s k v).ul = s.ul := by
  unfold State.setSlot
  repeat' (first
    | with_reducible rfl
    | (simp +zetaHave only [State.ul_mk, State.ul_eta, apply_ite State.ul, apply_ite Prod.fst, ite_self, implies_true]; done)
    | split
    | intro _
    | (dsimp +zetaHave only))

theorem State.modCtx_ul (s : State) (x : Nat) (f : Ctx → Ctx) : (State.modCtx s x f).ul = s.ul := by
  unfold State.modCtx
  repeat' (first
    | with_reducible rfl
    | (simp +zetaHave only [State.ul_mk, State.ul_eta, apply_ite State.ul, apply_ite Prod.fst, ite_self, implies_true]; done)
    | split
    | intro _
    | (dsimp +zetaHave only))

theorem State.ended_ul (s : State) (h : Nat) (r : Nat) : (State.ended s h r).ul = s.ul := by
  unfold State.ended
  repeat' (first
    | with_reducible rfl
    | (simp +zetaHave only [State.ul_mk, State.ul_eta, apply_ite State.ul, apply_ite Prod.fst, ite_self, implies_true, State.count_ul, State.raiseIf_ul, State.evt_ul, State.modCtx_ul]; done)
    | split
    | intro _
    | (dsimp +zetaHave only))

theorem State.noteLast_ul (s : State) (k : Nat) (r : Nat) : (State.noteLast s k r).ul = s.ul := by
  unfold State.noteLast
  repeat' (first
    | with_reducible rfl
    | (simp +zetaHave only [State.ul_mk, State.ul_eta, apply_ite State.ul, apply_ite Prod.fst, ite_self, implies_true, State.setSlot_ul]; done)
    | split
    | intro _
    | (dsimp +zetaHave only))

theorem State.valueOf_ul (s : State) (v : Option Nat) : (State.valueOf s v).1.ul = s.ul := by
  unfold State.valueOf
  repeat' (first
    | with_reducible rfl
    | (simp +zetaHave only [State.ul_mk, State.ul_eta, apply_ite State.ul, apply_ite Prod.fst, ite_self, implies_true, State.drawFree_ul]; done)
    | split
    | intro _
    | (dsimp +zetaHave only))

theorem State.respond_ul (s : State) (r : EngReq) (res : Nat) (val : Nat) : (State.respond s r res val).ul = s.ul := by
  unfold State.respond
  repeat' (first
    | with_reducible rfl
    | (simp +zetaHave only [State.ul_mk, State.ul_eta, apply_ite State.ul, apply_ite Prod.fst, ite_self, implies_true, State.emit_ul]; done)
    | split
    | intro _
    | (dsimp +zetaHave only))

theorem State.endEngine_ul (s : State) (r : EngReq) (res : Nat) : (State.endEngine s r res).ul = s.ul := by
  unfold State.endEngine
  repeat' (first
    | with_reducible rfl
    | (simp +zetaHave only [State.ul_mk, State.ul_eta, apply_ite State.ul, apply_ite Prod.fst, ite_self, implies_true, State.ended_ul, State.valueOf_ul, State.respond_ul]; done)
    | split
    | intro _
    | (dsimp +zetaHave only))

theorem State.endWaiter_ul (s : State) (w : Waiter) (res : Nat) (val : Nat) (hold : Bool) : (State.endWaiter s w res val hold).ul = s.ul := by
  unfold State.endWaiter
  repeat' (first
    | with_reducible rfl
    | (simp +zetaHave only [State.ul_mk, State.ul_eta, apply_ite State.ul, apply_ite Prod.fst, ite_self, implies_true, State.emit_ul, State.ended_ul, State.noteLast_ul]; done)
    | split
    | intro _
    | (dsimp +zetaHave only))

theorem State.failWaiter_ul (s : State) (w : Waiter) (res : Nat) (hold : Bool) : (State.failWaiter s w res hold).ul = s.ul := by
  unfold State.failWaiter
  repeat' (first
    | with_reducible rfl
    | (simp +zetaHave only [State.ul_mk, State.ul_eta, apply_ite State.ul, apply_ite Prod.fst, ite_self, implies_true, State.valueOf_ul, State.endWaiter_ul]; done)
    | split
    | intro _
    | (dsimp +zetaHave only))

theorem State.objStop_ul (s : State) : (State.objStop s).ul = s.ul := by
  unfold State.objStop
  repeat' (first
    | with_reducible rfl
    | (simp +zetaHave only [State.ul_mk, State.ul_eta, apply_ite State.ul, apply_ite Prod.fst, ite_self, implies_true, State.foldl_ul, State.foldl_fst_ul, State.emit_ul, State.endEngine_ul, State.failWaiter_ul]; done)
    | split
    | intro _
    | (dsimp +zetaHave only)
    | refine (State.foldl_ul _ _ _ ?_).trans ?_
    | refine (State.foldl_fst_ul _ _ _ ?_).trans ?_)

theorem State.enterHold_ul (s : State) (d : Dom) (nc : Nat) : (State.enterHold s d nc).ul = s.ul := by
  unfold State.enterHold
  repeat' (first
    | with_reducible rfl
    | (simp +zetaHave only [State.ul_mk, State.ul_eta, apply_ite State.ul, apply_ite Prod.fst, ite_self, implies_true, State.count_ul, State.raise_ul, State.raiseIf_ul, State.setServo_ul]; done)
    | split
    | intro _
    | (dsimp +zetaHave only))

theorem State.underlayHold_ul (s : State) (nc : Nat) : (State.underlayHold s nc).ul = s.ul := by
  unfold State.underlayHold
  repeat' (first
    | with_reducible rfl
    | (simp +zetaHave only [State.ul_mk, State.ul_eta, apply_ite State.ul, apply_ite Prod.fst, ite_self, implies_true, State.enterHold_ul]; done)
    | split
    | intro _
    | (dsimp +zetaHave only))

theorem State.setSq_ul (s : State) (v : SeqUnit) : (State.setSq s v).ul = s.ul := by
  unfold State.setSq
  repeat' (first
    | with_reducible rfl
    | (simp +zetaHave only [State.ul_mk, State.ul_eta, apply_ite State.ul, apply_ite Prod.fst, ite_self, implies_true]; done)
    | split
    | intro _
    | (dsimp +zetaHave only))

theorem State.setCmdSlot_ul (s : State) (k : Nat) (c : CmdSlot) : (State.setCmdSlot s k c).ul = s.ul := by
  unfold State.setCmdSlot
  repeat' (first
    | with_reducible rfl
    | (simp +zetaHave only [State.ul_mk, State.ul_eta, apply_ite State.ul, apply_ite Prod.fst, ite_self, implies_true, apply_ite CmdOut.st, CmdOut.status_st, CmdOut.ok_st, CmdOut.done_st, CmdOut.wait_st]; done)
    | split
    | intro _
    | (dsimp +zetaHave only))

theorem State.putRun_ul (s : State) (r : RunCmd) : (State.putRun s r).ul = s.ul := by
  unfold State.putRun
  repeat' (first
    | with_reducible rfl
    | (simp +zetaHave only [State.ul_mk, State.ul_eta, apply_ite State.ul, apply_ite Prod.fst, ite_self, implies_true, apply_ite CmdOut.st, CmdOut.status_st, CmdOut.ok_st, CmdOut.done_st, CmdOut.wait_st]; done)
    | split
    | intro _
    | (dsimp +zetaHave only))

theorem State.irqComplete_ul (s : State) : (State.irqComplete s).ul = s.ul := by
  unfold State.irqComplete
  repeat' (first
    | with_reducible rfl
    | (simp +zetaHave only [State.ul_mk, State.ul_eta, apply_ite State.ul, apply_ite Prod.fst, ite_self, implies_true, State.raiseIf_ul]; done)
    | split
    | intro _
    | (dsimp +zetaHave only))

theorem State.finalize_ul (s : State) (r : RunCmd) (rep : Reply) (words : List Nat) : (State.finalize s r rep words).ul = s.ul := by
  unfold State.finalize
  repeat' (first
    | with_reducible rfl
    | (simp +zetaHave only [State.ul_mk, State.ul_eta, apply_ite State.ul, apply_ite Prod.fst, ite_self, implies_true, apply_ite CmdOut.st, CmdOut.status_st, CmdOut.ok_st, CmdOut.done_st, CmdOut.wait_st, State.count_ul, State.emit_ul, State.evt_ul, State.setCmdSlot_ul, State.irqComplete_ul]; done)
    | split
    | intro _
    | (dsimp +zetaHave only))

theorem State.complete_ul (s : State) (r : RunCmd) (rep : Reply) : (State.complete s r rep).ul = s.ul := by
  unfold State.complete
  repeat' (first
    | with_reducible rfl
    | (simp +zetaHave only [State.ul_mk, State.ul_eta, apply_ite State.ul, apply_ite Prod.fst, ite_self, implies_true, apply_ite CmdOut.st, CmdOut.status_st, CmdOut.ok_st, CmdOut.done_st, CmdOut.wait_st, State.count_ul, State.memWrite_ul, State.putRun_ul, State.finalize_ul]; done)
    | split
    | intro _
    | (dsimp +zetaHave only))

theorem State.abortLong_ul (s : State) : (State.abortLong s).ul = s.ul := by
  unfold State.abortLong
  repeat' (first
    | with_reducible rfl
    | (simp +zetaHave only [State.ul_mk, State.ul_eta, apply_ite State.ul, apply_ite Prod.fst, ite_self, implies_true, apply_ite CmdOut.st, CmdOut.status_st, CmdOut.ok_st, CmdOut.done_st, CmdOut.wait_st, State.foldl_ul, State.foldl_fst_ul, State.complete_ul]; done)
    | split
    | intro _
    | (dsimp +zetaHave only)
    | refine (State.foldl_ul _ _ _ ?_).trans ?_
    | refine (State.foldl_fst_ul _ _ _ ?_).trans ?_)

theorem programEnds_ul (s : State) (st : SeqState) (c : Nat) : (s.programEnds st c false).ul = s.ul := rfl

theorem seqUnderlay_ul (s : State) : s.seqUnderlay.ul = s.ul := by
  unfold State.seqUnderlay
  dsimp +zetaHave only
  split <;> rfl

theorem gangLose_ul (s : State) (l : List Nat) : (s.gangLose l).ul = s.ul := by
  unfold State.gangLose
  split
  · rfl
  · rw [State.raise_ul]
    unfold State.gangLost
    split <;> rfl

def State.uq (s : State) := (s.sq, s.td)

theorem State.uq_mk (ties ck clk td rs regs cnt irq ports root home topo ce od hf pw gang im bt sq ev mm cp did logWr out free pending) :
    (State.mk ties ck clk td rs regs cnt irq ports root home topo ce od hf pw gang im bt sq ev mm cp did logWr out free pending).uq = (sq, td) := (rfl)

theorem State.uq_eta (s : State) : (s.sq, s.td) = s.uq := (rfl)

theorem State.foldl_uq {α : Type} (s : State) (l : List α) (f : State → α → State) (h : ∀ s a, (f s a).uq = s.uq) :
    (l.foldl f s).uq = s.uq := by
  induction l generalizing s with
  | nil => rfl
  | cons a l ih => simp [List.foldl, ih, h]

theorem State.each_uq (s : State) (l : List Nat) (f : State → Nat → State) (h : ∀ s n, (f s n).uq = s.uq) :
    (s.each l f).uq = s.uq := State.foldl_uq s l f h

theorem State.foldl_fst_uq {α β : Type} (a : State × α) (l : List β) (f : State × α → β → State × α)
    (h : ∀ a b, (f a b).1.uq = a.1.uq) : (l.foldl f a).1.uq = a.1.uq := by
  induction l generalizing a with
  | nil => rfl
  | cons b l ih => simp [List.foldl, ih, h]

theorem State.count_uq (s : State) (off : Nat) (k : Nat) : (State.count s off k).uq = s.uq := by
  unfold State.count
  repeat' (first
    | with_reducible rfl
    | (simp +zetaHave only [State.uq_mk, State.uq_eta, apply_ite State.uq, apply_ite Prod.fst, ite_self, implies_true]; done)
    | split
    | intro _
    | (dsimp +zetaHave only))

theorem State.drawFree_uq (s : State) : (State.drawFree s).1.uq = s.uq := by
  unfold State.drawFree
  repeat' (first
    | with_reducible rfl
    | (simp +zetaHave only [State.uq_mk, State.uq_eta, apply_ite State.uq, apply_ite Prod.fst, ite_self, implies_true]; done)
    | split
    | intro _
    | (dsimp +zetaHave only))

theorem State.raise_uq (s : State) (k : Nat) : (State.raise s k).uq = s.uq := by
  unfold State.raise
  repeat' (first
    | with_reducible rfl
    | (simp +zetaHave only [State.uq_mk, State.uq_eta, apply_ite State.uq, apply_ite Prod.fst, ite_self, implies_true]; done)
    | split
    | intro _
    | (dsimp +zetaHave only))

theorem State.raiseIf_uq (s : State) (c : Bool) (k : Nat) : (State.raiseIf s c k).uq = s.uq := by
  unfold State.raiseIf
  repeat' (first
    | with_reducible rfl
    | (simp +zetaHave only [State.uq_mk, State.uq_eta, apply_ite State.uq, apply_ite Prod.fst, ite_self, implies_true, State.raise_uq]; done)
    | split
    | intro _
    | (dsimp +zetaHave only))

theorem State.emit_uq (s : State) (o : Output) : (State.emit s o).uq = s.uq := by
  unfold State.emit
  repeat' (first
    | with_reducible rfl
    | (simp +zetaHave only [State.uq_mk, State.uq_eta, apply_ite State.uq, apply_ite Prod.fst, ite_self, implies_true]; done)
    | split
    | intro _
    | (dsimp +zetaHave only))

theorem State.evt_uq (s : State) (line : Nat) (k : Nat) : (State.evt s line k).uq = s.uq := by
  unfold State.evt
  repeat' (first
    | with_reducible rfl
    | (simp +zetaHave only [State.uq_mk, State.uq_eta, apply_ite State.uq, apply_ite Prod.fst, ite_self, implies_true, State.count_uq, State.emit_uq]; done)
    | split
    | intro _
    | (dsimp +zetaHave only))

theorem State.openGate_uq (s : State) (k : Nat) : (State.openGate s k).uq = s.uq := by
  unfold State.openGate
  repeat' (first
    | with_reducible rfl
    | (simp +zetaHave only [State.uq_mk, State.uq_eta, apply_ite State.uq, apply_ite Prod.fst, ite_self, implies_true, State.evt_uq]; done)
    | split
    | intro _
    | (dsimp +zetaHave only))

theorem State.setPower_uq (s : State) (st : PowerState) : (State.setPower s st).uq = s.uq := by
  unfold State.setPower
  repeat' (first
    | with_reducible rfl
    | (simp +zetaHave only [State.uq_mk, State.uq_eta, apply_ite State.uq, apply_ite Prod.fst, ite_self, implies_true]; done)
    | split
    | intro _
    | (dsimp +zetaHave only))

theorem State.napWake_uq (s : State) : (State.napWake s).uq = s.uq := by
  unfold State.napWake
  repeat' (first
    | with_reducible rfl
    | (simp +zetaHave only [State.uq_mk, State.uq_eta, apply_ite State.uq, apply_ite Prod.fst, ite_self, implies_true, State.foldl_uq, State.foldl_fst_uq, State.openGate_uq, State.setPower_uq]; done)
    | split
    | intro _
    | (dsimp +zetaHave only)
    | refine (State.foldl_uq _ _ _ ?_).trans ?_
    | refine (State.foldl_fst_uq _ _ _ ?_).trans ?_)

theorem State.setPort_uq (s : State) (p : Nat) (v : Port) : (State.setPort s p v).uq = s.uq := by
  unfold State.setPort
  repeat' (first
    | with_reducible rfl
    | (simp +zetaHave only [State.uq_mk, State.uq_eta, apply_ite State.uq, apply_ite Prod.fst, ite_self, implies_true]; done)
    | split
    | intro _
    | (dsimp +zetaHave only))

theorem State.memWrite_uq (s : State) (use : MemUse) (addr : Nat) (bytes : List Nat) : (State.memWrite s use addr bytes).uq = s.uq := by
  unfold State.memWrite
  repeat' (first
    | with_reducible rfl
    | (simp +zetaHave only [State.uq_mk, State.uq_eta, apply_ite State.uq, apply_ite Prod.fst, ite_self, implies_true, State.openGate_uq]; done)
    | split
    | intro _
    | (dsimp +zetaHave only))

theorem State.abortShots_uq (s : State) (reason : Nat) : (State.abortShots s reason).uq = s.uq := by
  unfold State.abortShots
  repeat' (first
    | with_reducible rfl
    | (simp +zetaHave only [State.uq_mk, State.uq_eta, apply_ite State.uq, apply_ite Prod.fst, ite_self, implies_true]; done)
    | split
    | intro _
    | (dsimp +zetaHave only))

theorem State.flushCT_uq (s : State) (p : Nat) : (State.flushCT s p).uq = s.uq := by
  unfold State.flushCT
  repeat' (first
    | with_reducible rfl
    | (simp +zetaHave only [State.uq_mk, State.uq_eta, apply_ite State.uq, apply_ite Prod.fst, ite_self, implies_true, State.count_uq, State.setPort_uq]; done)
    | split
    | intro _
    | (dsimp +zetaHave only))

theorem State.setSlot_uq (s : State) (k : Nat) (v : Slot) : (State.setSlot s k v).uq = s.uq := by
  unfold State.setSlot
  repeat' (first
    | with_reducible rfl
    | (simp +zetaHave only [State.uq_mk, State.uq_eta, apply_ite State.uq, apply_ite Prod.fst, ite_self, implies_true]; done)
    | split
    | intro _
    | (dsimp +zetaHave only))

theorem State.modCtx_uq (s : State) (x : Nat) (f : Ctx → Ctx) : (State.modCtx s x f).uq = s.uq := by
  unfold State.modCtx
  repeat' (first
    | with_reducible rfl
    | (simp +zetaHave only [State.uq_mk, State.uq_eta, apply_ite State.uq, apply_ite Prod.fst, ite_self, implies_true]; done)
    | split
    | intro _
    | (dsimp +zetaHave only))

theorem State.ended_uq (s : State) (h : Nat) (r : Nat) : (State.ended s h r).uq = s.uq := by
  unfold State.ended
  repeat' (first
    | with_reducible rfl
    | (simp +zetaHave only [State.uq_mk, State.uq_eta, apply_ite State.uq, apply_ite Prod.fst, ite_self, implies_true, State.count_uq, State.raiseIf_uq, State.evt_uq, State.modCtx_uq]; done)
    | split
    | intro _
    | (dsimp +zetaHave only))

theorem State.noteLast_uq (s : State) (k : Nat) (r : Nat) : (State.noteLast s k r).uq = s.uq := by
  unfold State.noteLast
  repeat' (first
    | with_reducible rfl
    | (simp +zetaHave only [State.uq_mk, State.uq_eta, apply_ite State.uq, apply_ite Prod.fst, ite_self, implies_true, State.setSlot_uq]; done)
    | split
    | intro _
    | (dsimp +zetaHave only))

theorem State.valueOf_uq (s : State) (v : Option Nat) : (State.valueOf s v).1.uq = s.uq := by
  unfold State.valueOf
  repeat' (first
    | with_reducible rfl
    | (simp +zetaHave only [State.uq_mk, State.uq_eta, apply_ite State.uq, apply_ite Prod.fst, ite_self, implies_true, State.drawFree_uq]; done)
    | split
    | intro _
    | (dsimp +zetaHave only))

theorem State.respond_uq (s : State) (r : EngReq) (res : Nat) (val : Nat) : (State.respond s r res val).uq = s.uq := by
  unfold State.respond
  repeat' (first
    | with_reducible rfl
    | (simp +zetaHave only [State.uq_mk, State.uq_eta, apply_ite State.uq, apply_ite Prod.fst, ite_self, implies_true, State.emit_uq]; done)
    | split
    | intro _
    | (dsimp +zetaHave only))

theorem State.endEngine_uq (s : State) (r : EngReq) (res : Nat) : (State.endEngine s r res).uq = s.uq := by
  unfold State.endEngine
  repeat' (first
    | with_reducible rfl
    | (simp +zetaHave only [State.uq_mk, State.uq_eta, apply_ite State.uq, apply_ite Prod.fst, ite_self, implies_true, State.ended_uq, State.valueOf_uq, State.respond_uq]; done)
    | split
    | intro _
    | (dsimp +zetaHave only))

theorem State.endWaiter_uq (s : State) (w : Waiter) (res : Nat) (val : Nat) (hold : Bool) : (State.endWaiter s w res val hold).uq = s.uq := by
  unfold State.endWaiter
  repeat' (first
    | with_reducible rfl
    | (simp +zetaHave only [State.uq_mk, State.uq_eta, apply_ite State.uq, apply_ite Prod.fst, ite_self, implies_true, State.emit_uq, State.ended_uq, State.noteLast_uq]; done)
    | split
    | intro _
    | (dsimp +zetaHave only))

theorem State.failWaiter_uq (s : State) (w : Waiter) (res : Nat) (hold : Bool) : (State.failWaiter s w res hold).uq = s.uq := by
  unfold State.failWaiter
  repeat' (first
    | with_reducible rfl
    | (simp +zetaHave only [State.uq_mk, State.uq_eta, apply_ite State.uq, apply_ite Prod.fst, ite_self, implies_true, State.valueOf_uq, State.endWaiter_uq]; done)
    | split
    | intro _
    | (dsimp +zetaHave only))

theorem State.objStop_uq (s : State) : (State.objStop s).uq = s.uq := by
  unfold State.objStop
  repeat' (first
    | with_reducible rfl
    | (simp +zetaHave only [State.uq_mk, State.uq_eta, apply_ite State.uq, apply_ite Prod.fst, ite_self, implies_true, State.foldl_uq, State.foldl_fst_uq, State.emit_uq, State.endEngine_uq, State.failWaiter_uq]; done)
    | split
    | intro _
    | (dsimp +zetaHave only)
    | refine (State.foldl_uq _ _ _ ?_).trans ?_
    | refine (State.foldl_fst_uq _ _ _ ?_).trans ?_)

theorem State.setCmdSlot_uq (s : State) (k : Nat) (c : CmdSlot) : (State.setCmdSlot s k c).uq = s.uq := by
  unfold State.setCmdSlot
  repeat' (first
    | with_reducible rfl
    | (simp +zetaHave only [State.uq_mk, State.uq_eta, apply_ite State.uq, apply_ite Prod.fst, ite_self, implies_true, apply_ite CmdOut.st, CmdOut.status_st, CmdOut.ok_st, CmdOut.done_st, CmdOut.wait_st]; done)
    | split
    | intro _
    | (dsimp +zetaHave only))

theorem State.putRun_uq (s : State) (r : RunCmd) : (State.putRun s r).uq = s.uq := by
  unfold State.putRun
  repeat' (first
    | with_reducible rfl
    | (simp +zetaHave only [State.uq_mk, State.uq_eta, apply_ite State.uq, apply_ite Prod.fst, ite_self, implies_true, apply_ite CmdOut.st, CmdOut.status_st, CmdOut.ok_st, CmdOut.done_st, CmdOut.wait_st]; done)
    | split
    | intro _
    | (dsimp +zetaHave only))

theorem State.irqComplete_uq (s : State) : (State.irqComplete s).uq = s.uq := by
  unfold State.irqComplete
  repeat' (first
    | with_reducible rfl
    | (simp +zetaHave only [State.uq_mk, State.uq_eta, apply_ite State.uq, apply_ite Prod.fst, ite_self, implies_true, State.raiseIf_uq]; done)
    | split
    | intro _
    | (dsimp +zetaHave only))

theorem State.finalize_uq (s : State) (r : RunCmd) (rep : Reply) (words : List Nat) : (State.finalize s r rep words).uq = s.uq := by
  unfold State.finalize
  repeat' (first
    | with_reducible rfl
    | (simp +zetaHave only [State.uq_mk, State.uq_eta, apply_ite State.uq, apply_ite Prod.fst, ite_self, implies_true, apply_ite CmdOut.st, CmdOut.status_st, CmdOut.ok_st, CmdOut.done_st, CmdOut.wait_st, State.count_uq, State.emit_uq, State.evt_uq, State.setCmdSlot_uq, State.irqComplete_uq]; done)
    | split
    | intro _
    | (dsimp +zetaHave only))

theorem State.complete_uq (s : State) (r : RunCmd) (rep : Reply) : (State.complete s r rep).uq = s.uq := by
  unfold State.complete
  repeat' (first
    | with_reducible rfl
    | (simp +zetaHave only [State.uq_mk, State.uq_eta, apply_ite State.uq, apply_ite Prod.fst, ite_self, implies_true, apply_ite CmdOut.st, CmdOut.status_st, CmdOut.ok_st, CmdOut.done_st, CmdOut.wait_st, State.count_uq, State.memWrite_uq, State.putRun_uq, State.finalize_uq]; done)
    | split
    | intro _
    | (dsimp +zetaHave only))

theorem State.abortLong_uq (s : State) : (State.abortLong s).uq = s.uq := by
  unfold State.abortLong
  repeat' (first
    | with_reducible rfl
    | (simp +zetaHave only [State.uq_mk, State.uq_eta, apply_ite State.uq, apply_ite Prod.fst, ite_self, implies_true, apply_ite CmdOut.st, CmdOut.status_st, CmdOut.ok_st, CmdOut.done_st, CmdOut.wait_st, State.foldl_uq, State.foldl_fst_uq, State.complete_uq]; done)
    | split
    | intro _
    | (dsimp +zetaHave only)
    | refine (State.foldl_uq _ _ _ ?_).trans ?_
    | refine (State.foldl_fst_uq _ _ _ ?_).trans ?_)

def State.uo (s : State) := (s.od)

theorem State.uo_mk (ties ck clk td rs regs cnt irq ports root home topo ce od hf pw gang im bt sq ev mm cp did logWr out free pending) :
    (State.mk ties ck clk td rs regs cnt irq ports root home topo ce od hf pw gang im bt sq ev mm cp did logWr out free pending).uo = (od) := (rfl)

theorem State.uo_eta (s : State) : (s.od) = s.uo := (rfl)

theorem State.foldl_uo {α : Type} (s : State) (l : List α) (f : State → α → State) (h : ∀ s a, (f s a).uo = s.uo) :
    (l.foldl f s).uo = s.uo := by
  induction l generalizing s with
  | nil => rfl
  | cons a l ih => simp [List.foldl, ih, h]

theorem State.each_uo (s : State) (l : List Nat) (f : State → Nat → State) (h : ∀ s n, (f s n).uo = s.uo) :
    (s.each l f).uo = s.uo := State.foldl_uo s l f h

theorem State.foldl_fst_uo {α β : Type} (a : State × α) (l : List β) (f : State × α → β → State × α)
    (h : ∀ a b, (f a b).1.uo = a.1.uo) : (l.foldl f a).1.uo = a.1.uo := by
  induction l generalizing a with
  | nil => rfl
  | cons b l ih => simp [List.foldl, ih, h]

theorem State.count_uo (s : State) (off : Nat) (k : Nat) : (State.count s off k).uo = s.uo := by
  unfold State.count
  repeat' (first
    | with_reducible rfl
    | (simp +zetaHave only [State.uo_mk, State.uo_eta, apply_ite State.uo, apply_ite Prod.fst, ite_self, implies_true]; done)
    | split
    | intro _
    | (dsimp +zetaHave only))

theorem State.drawFree_uo (s : State) : (State.drawFree s).1.uo = s.uo := by
  unfold State.drawFree
  repeat' (first
    | with_reducible rfl
    | (simp +zetaHave only [State.uo_mk, State.uo_eta, apply_ite State.uo, apply_ite Prod.fst, ite_self, implies_true]; done)
    | split
    | intro _
    | (dsimp +zetaHave only))

theorem State.raise_uo (s : State) (k : Nat) : (State.raise s k).uo = s.uo := by
  unfold State.raise
  repeat' (first
    | with_reducible rfl
    | (simp +zetaHave only [State.uo_mk, State.uo_eta, apply_ite State.uo, apply_ite Prod.fst, ite_self, implies_true]; done)
    | split
    | intro _
    | (dsimp +zetaHave only))

theorem State.raiseIf_uo (s : State) (c : Bool) (k : Nat) : (State.raiseIf s c k).uo = s.uo := by
  unfold State.raiseIf
  repeat' (first
    | with_reducible rfl
    | (simp +zetaHave only [State.uo_mk, State.uo_eta, apply_ite State.uo, apply_ite Prod.fst, ite_self, implies_true, State.raise_uo]; done)
    | split
    | intro _
    | (dsimp +zetaHave only))

theorem State.emit_uo (s : State) (o : Output) : (State.emit s o).uo = s.uo := by
  unfold State.emit
  repeat' (first
    | with_reducible rfl
    | (simp +zetaHave only [State.uo_mk, State.uo_eta, apply_ite State.uo, apply_ite Prod.fst, ite_self, implies_true]; done)
    | split
    | intro _
    | (dsimp +zetaHave only))

theorem State.evt_uo (s : State) (line : Nat) (k : Nat) : (State.evt s line k).uo = s.uo := by
  unfold State.evt
  repeat' (first
    | with_reducible rfl
    | (simp +zetaHave only [State.uo_mk, State.uo_eta, apply_ite State.uo, apply_ite Prod.fst, ite_self, implies_true, State.count_uo, State.emit_uo]; done)
    | split
    | intro _
    | (dsimp +zetaHave only))

theorem State.openGate_uo (s : State) (k : Nat) : (State.openGate s k).uo = s.uo := by
  unfold State.openGate
  repeat' (first
    | with_reducible rfl
    | (simp +zetaHave only [State.uo_mk, State.uo_eta, apply_ite State.uo, apply_ite Prod.fst, ite_self, implies_true, State.evt_uo]; done)
    | split
    | intro _
    | (dsimp +zetaHave only))

theorem State.setPower_uo (s : State) (st : PowerState) : (State.setPower s st).uo = s.uo := by
  unfold State.setPower
  repeat' (first
    | with_reducible rfl
    | (simp +zetaHave only [State.uo_mk, State.uo_eta, apply_ite State.uo, apply_ite Prod.fst, ite_self, implies_true]; done)
    | split
    | intro _
    | (dsimp +zetaHave only))

theorem State.napWake_uo (s : State) : (State.napWake s).uo = s.uo := by
  unfold State.napWake
  repeat' (first
    | with_reducible rfl
    | (simp +zetaHave only [State.uo_mk, State.uo_eta, apply_ite State.uo, apply_ite Prod.fst, ite_self, implies_true, State.foldl_uo, State.foldl_fst_uo, State.openGate_uo, State.setPower_uo]; done)
    | split
    | intro _
    | (dsimp +zetaHave only)
    | refine (State.foldl_uo _ _ _ ?_).trans ?_
    | refine (State.foldl_fst_uo _ _ _ ?_).trans ?_)

theorem State.setPort_uo (s : State) (p : Nat) (v : Port) : (State.setPort s p v).uo = s.uo := by
  unfold State.setPort
  repeat' (first
    | with_reducible rfl
    | (simp +zetaHave only [State.uo_mk, State.uo_eta, apply_ite State.uo, apply_ite Prod.fst, ite_self, implies_true]; done)
    | split
    | intro _
    | (dsimp +zetaHave only))

theorem State.setServo_uo (s : State) (d : Dom) (v : Servo) : (State.setServo s d v).uo = s.uo := by
  unfold State.setServo
  repeat' (first
    | with_reducible rfl
    | (simp +zetaHave only [State.uo_mk, State.uo_eta, apply_ite State.uo, apply_ite Prod.fst, ite_self, implies_true]; done)
    | split
    | intro _
    | (dsimp +zetaHave only))

theorem State.memWrite_uo (s : State) (use : MemUse) (addr : Nat) (bytes : List Nat) : (State.memWrite s use addr bytes).uo = s.uo := by
  unfold State.memWrite
  repeat' (first
    | with_reducible rfl
    | (simp +zetaHave only [State.uo_mk, State.uo_eta, apply_ite State.uo, apply_ite Prod.fst, ite_self, implies_true, State.openGate_uo]; done)
    | split
    | intro _
    | (dsimp +zetaHave only))

theorem State.abortShots_uo (s : State) (reason : Nat) : (State.abortShots s reason).uo = s.uo := by
  unfold State.abortShots
  repeat' (first
    | with_reducible rfl
    | (simp +zetaHave only [State.uo_mk, State.uo_eta, apply_ite State.uo, apply_ite Prod.fst, ite_self, implies_true]; done)
    | split
    | intro _
    | (dsimp +zetaHave only))

theorem State.flushCT_uo (s : State) (p : Nat) : (State.flushCT s p).uo = s.uo := by
  unfold State.flushCT
  repeat' (first
    | with_reducible rfl
    | (simp +zetaHave only [State.uo_mk, State.uo_eta, apply_ite State.uo, apply_ite Prod.fst, ite_self, implies_true, State.count_uo, State.setPort_uo]; done)
    | split
    | intro _
    | (dsimp +zetaHave only))

theorem State.enterHold_uo (s : State) (d : Dom) (nc : Nat) : (State.enterHold s d nc).uo = s.uo := by
  unfold State.enterHold
  repeat' (first
    | with_reducible rfl
    | (simp +zetaHave only [State.uo_mk, State.uo_eta, apply_ite State.uo, apply_ite Prod.fst, ite_self, implies_true, State.count_uo, State.raise_uo, State.raiseIf_uo, State.setServo_uo]; done)
    | split
    | intro _
    | (dsimp +zetaHave only))

theorem State.underlayHold_uo (s : State) (nc : Nat) : (State.underlayHold s nc).uo = s.uo := by
  unfold State.underlayHold
  repeat' (first
    | with_reducible rfl
    | (simp +zetaHave only [State.uo_mk, State.uo_eta, apply_ite State.uo, apply_ite Prod.fst, ite_self, implies_true, State.enterHold_uo]; done)
    | split
    | intro _
    | (dsimp +zetaHave only))

theorem State.setCmdSlot_uo (s : State) (k : Nat) (c : CmdSlot) : (State.setCmdSlot s k c).uo = s.uo := by
  unfold State.setCmdSlot
  repeat' (first
    | with_reducible rfl
    | (simp +zetaHave only [State.uo_mk, State.uo_eta, apply_ite State.uo, apply_ite Prod.fst, ite_self, implies_true, apply_ite CmdOut.st, CmdOut.status_st, CmdOut.ok_st, CmdOut.done_st, CmdOut.wait_st]; done)
    | split
    | intro _
    | (dsimp +zetaHave only))

theorem State.putRun_uo (s : State) (r : RunCmd) : (State.putRun s r).uo = s.uo := by
  unfold State.putRun
  repeat' (first
    | with_reducible rfl
    | (simp +zetaHave only [State.uo_mk, State.uo_eta, apply_ite State.uo, apply_ite Prod.fst, ite_self, implies_true, apply_ite CmdOut.st, CmdOut.status_st, CmdOut.ok_st, CmdOut.done_st, CmdOut.wait_st]; done)
    | split
    | intro _
    | (dsimp +zetaHave only))

theorem State.irqComplete_uo (s : State) : (State.irqComplete s).uo = s.uo := by
  unfold State.irqComplete
  repeat' (first
    | with_reducible rfl
    | (simp +zetaHave only [State.uo_mk, State.uo_eta, apply_ite State.uo, apply_ite Prod.fst, ite_self, implies_true, State.raiseIf_uo]; done)
    | split
    | intro _
    | (dsimp +zetaHave only))

theorem State.finalize_uo (s : State) (r : RunCmd) (rep : Reply) (words : List Nat) : (State.finalize s r rep words).uo = s.uo := by
  unfold State.finalize
  repeat' (first
    | with_reducible rfl
    | (simp +zetaHave only [State.uo_mk, State.uo_eta, apply_ite State.uo, apply_ite Prod.fst, ite_self, implies_true, apply_ite CmdOut.st, CmdOut.status_st, CmdOut.ok_st, CmdOut.done_st, CmdOut.wait_st, State.count_uo, State.emit_uo, State.evt_uo, State.setCmdSlot_uo, State.irqComplete_uo]; done)
    | split
    | intro _
    | (dsimp +zetaHave only))

theorem State.complete_uo (s : State) (r : RunCmd) (rep : Reply) : (State.complete s r rep).uo = s.uo := by
  unfold State.complete
  repeat' (first
    | with_reducible rfl
    | (simp +zetaHave only [State.uo_mk, State.uo_eta, apply_ite State.uo, apply_ite Prod.fst, ite_self, implies_true, apply_ite CmdOut.st, CmdOut.status_st, CmdOut.ok_st, CmdOut.done_st, CmdOut.wait_st, State.count_uo, State.memWrite_uo, State.putRun_uo, State.finalize_uo]; done)
    | split
    | intro _
    | (dsimp +zetaHave only))

theorem State.abortLong_uo (s : State) : (State.abortLong s).uo = s.uo := by
  unfold State.abortLong
  repeat' (first
    | with_reducible rfl
    | (simp +zetaHave only [State.uo_mk, State.uo_eta, apply_ite State.uo, apply_ite Prod.fst, ite_self, implies_true, apply_ite CmdOut.st, CmdOut.status_st, CmdOut.ok_st, CmdOut.done_st, CmdOut.wait_st, State.foldl_uo, State.foldl_fst_uo, State.complete_uo]; done)
    | split
    | intro _
    | (dsimp +zetaHave only)
    | refine (State.foldl_uo _ _ _ ?_).trans ?_
    | refine (State.foldl_fst_uo _ _ _ ?_).trans ?_)

def State.uz (s : State) := (s.ports, s.ties)

theorem State.uz_mk (ties ck clk td rs regs cnt irq ports root home topo ce od hf pw gang im bt sq ev mm cp did logWr out free pending) :
    (State.mk ties ck clk td rs regs cnt irq ports root home topo ce od hf pw gang im bt sq ev mm cp did logWr out free pending).uz = (ports, ties) := (rfl)

theorem State.uz_eta (s : State) : (s.ports, s.ties) = s.uz := (rfl)

theorem State.foldl_uz {α : Type} (s : State) (l : List α) (f : State → α → State) (h : ∀ s a, (f s a).uz = s.uz) :
    (l.foldl f s).uz = s.uz := by
  induction l generalizing s with
  | nil => rfl
  | cons a l ih => simp [List.foldl, ih, h]

theorem State.each_uz (s : State) (l : List Nat) (f : State → Nat → State) (h : ∀ s n, (f s n).uz = s.uz) :
    (s.each l f).uz = s.uz := State.foldl_uz s l f h

theorem State.foldl_fst_uz {α β : Type} (a : State × α) (l : List β) (f : State × α → β → State × α)
    (h : ∀ a b, (f a b).1.uz = a.1.uz) : (l.foldl f a).1.uz = a.1.uz := by
  induction l generalizing a with
  | nil => rfl
  | cons b l ih => simp [List.foldl, ih, h]

theorem State.count_uz (s : State) (off : Nat) (k : Nat) : (State.count s off k).uz = s.uz := by
  unfold State.count
  repeat' (first
    | with_reducible rfl
    | (simp +zetaHave only [State.uz_mk, State.uz_eta, apply_ite State.uz, apply_ite Prod.fst, ite_self, implies_true]; done)
    | split
    | intro _
    | (dsimp +zetaHave only))

theorem State.drawFree_uz (s : State) : (State.drawFree s).1.uz = s.uz := by
  unfold State.drawFree
  repeat' (first
    | with_reducible rfl
    | (simp +zetaHave only [State.uz_mk, State.uz_eta, apply_ite State.uz, apply_ite Prod.fst, ite_self, implies_true]; done)
    | split
    | intro _
    | (dsimp +zetaHave only))

theorem State.raise_uz (s : State) (k : Nat) : (State.raise s k).uz = s.uz := by
  unfold State.raise
  repeat' (first
    | with_reducible rfl
    | (simp +zetaHave only [State.uz_mk, State.uz_eta, apply_ite State.uz, apply_ite Prod.fst, ite_self, implies_true]; done)
    | split
    | intro _
    | (dsimp +zetaHave only))

theorem State.raiseIf_uz (s : State) (c : Bool) (k : Nat) : (State.raiseIf s c k).uz = s.uz := by
  unfold State.raiseIf
  repeat' (first
    | with_reducible rfl
    | (simp +zetaHave only [State.uz_mk, State.uz_eta, apply_ite State.uz, apply_ite Prod.fst, ite_self, implies_true, State.raise_uz]; done)
    | split
    | intro _
    | (dsimp +zetaHave only))

theorem State.emit_uz (s : State) (o : Output) : (State.emit s o).uz = s.uz := by
  unfold State.emit
  repeat' (first
    | with_reducible rfl
    | (simp +zetaHave only [State.uz_mk, State.uz_eta, apply_ite State.uz, apply_ite Prod.fst, ite_self, implies_true]; done)
    | split
    | intro _
    | (dsimp +zetaHave only))

theorem State.evt_uz (s : State) (line : Nat) (k : Nat) : (State.evt s line k).uz = s.uz := by
  unfold State.evt
  repeat' (first
    | with_reducible rfl
    | (simp +zetaHave only [State.uz_mk, State.uz_eta, apply_ite State.uz, apply_ite Prod.fst, ite_self, implies_true, State.count_uz, State.emit_uz]; done)
    | split
    | intro _
    | (dsimp +zetaHave only))

theorem State.openGate_uz (s : State) (k : Nat) : (State.openGate s k).uz = s.uz := by
  unfold State.openGate
  repeat' (first
    | with_reducible rfl
    | (simp +zetaHave only [State.uz_mk, State.uz_eta, apply_ite State.uz, apply_ite Prod.fst, ite_self, implies_true, State.evt_uz]; done)
    | split
    | intro _
    | (dsimp +zetaHave only))

theorem State.setPower_uz (s : State) (st : PowerState) : (State.setPower s st).uz = s.uz := by
  unfold State.setPower
  repeat' (first
    | with_reducible rfl
    | (simp +zetaHave only [State.uz_mk, State.uz_eta, apply_ite State.uz, apply_ite Prod.fst, ite_self, implies_true]; done)
    | split
    | intro _
    | (dsimp +zetaHave only))

theorem State.napWake_uz (s : State) : (State.napWake s).uz = s.uz := by
  unfold State.napWake
  repeat' (first
    | with_reducible rfl
    | (simp +zetaHave only [State.uz_mk, State.uz_eta, apply_ite State.uz, apply_ite Prod.fst, ite_self, implies_true, State.foldl_uz, State.foldl_fst_uz, State.openGate_uz, State.setPower_uz]; done)
    | split
    | intro _
    | (dsimp +zetaHave only)
    | refine (State.foldl_uz _ _ _ ?_).trans ?_
    | refine (State.foldl_fst_uz _ _ _ ?_).trans ?_)

theorem State.setServo_uz (s : State) (d : Dom) (v : Servo) : (State.setServo s d v).uz = s.uz := by
  unfold State.setServo
  repeat' (first
    | with_reducible rfl
    | (simp +zetaHave only [State.uz_mk, State.uz_eta, apply_ite State.uz, apply_ite Prod.fst, ite_self, implies_true]; done)
    | split
    | intro _
    | (dsimp +zetaHave only))

theorem State.memWrite_uz (s : State) (use : MemUse) (addr : Nat) (bytes : List Nat) : (State.memWrite s use addr bytes).uz = s.uz := by
  unfold State.memWrite
  repeat' (first
    | with_reducible rfl
    | (simp +zetaHave only [State.uz_mk, State.uz_eta, apply_ite State.uz, apply_ite Prod.fst, ite_self, implies_true, State.openGate_uz]; done)
    | split
    | intro _
    | (dsimp +zetaHave only))

theorem State.abortShots_uz (s : State) (reason : Nat) : (State.abortShots s reason).uz = s.uz := by
  unfold State.abortShots
  repeat' (first
    | with_reducible rfl
    | (simp +zetaHave only [State.uz_mk, State.uz_eta, apply_ite State.uz, apply_ite Prod.fst, ite_self, implies_true]; done)
    | split
    | intro _
    | (dsimp +zetaHave only))

theorem State.setSlot_uz (s : State) (k : Nat) (v : Slot) : (State.setSlot s k v).uz = s.uz := by
  unfold State.setSlot
  repeat' (first
    | with_reducible rfl
    | (simp +zetaHave only [State.uz_mk, State.uz_eta, apply_ite State.uz, apply_ite Prod.fst, ite_self, implies_true]; done)
    | split
    | intro _
    | (dsimp +zetaHave only))

theorem State.modCtx_uz (s : State) (x : Nat) (f : Ctx → Ctx) : (State.modCtx s x f).uz = s.uz := by
  unfold State.modCtx
  repeat' (first
    | with_reducible rfl
    | (simp +zetaHave only [State.uz_mk, State.uz_eta, apply_ite State.uz, apply_ite Prod.fst, ite_self, implies_true]; done)
    | split
    | intro _
    | (dsimp +zetaHave only))

theorem State.ended_uz (s : State) (h : Nat) (r : Nat) : (State.ended s h r).uz = s.uz := by
  unfold State.ended
  repeat' (first
    | with_reducible rfl
    | (simp +zetaHave only [State.uz_mk, State.uz_eta, apply_ite State.uz, apply_ite Prod.fst, ite_self, implies_true, State.count_uz, State.raiseIf_uz, State.evt_uz, State.modCtx_uz]; done)
    | split
    | intro _
    | (dsimp +zetaHave only))

theorem State.noteLast_uz (s : State) (k : Nat) (r : Nat) : (State.noteLast s k r).uz = s.uz := by
  unfold State.noteLast
  repeat' (first
    | with_reducible rfl
    | (simp +zetaHave only [State.uz_mk, State.uz_eta, apply_ite State.uz, apply_ite Prod.fst, ite_self, implies_true, State.setSlot_uz]; done)
    | split
    | intro _
    | (dsimp +zetaHave only))

theorem State.valueOf_uz (s : State) (v : Option Nat) : (State.valueOf s v).1.uz = s.uz := by
  unfold State.valueOf
  repeat' (first
    | with_reducible rfl
    | (simp +zetaHave only [State.uz_mk, State.uz_eta, apply_ite State.uz, apply_ite Prod.fst, ite_self, implies_true, State.drawFree_uz]; done)
    | split
    | intro _
    | (dsimp +zetaHave only))

theorem State.respond_uz (s : State) (r : EngReq) (res : Nat) (val : Nat) : (State.respond s r res val).uz = s.uz := by
  unfold State.respond
  repeat' (first
    | with_reducible rfl
    | (simp +zetaHave only [State.uz_mk, State.uz_eta, apply_ite State.uz, apply_ite Prod.fst, ite_self, implies_true, State.emit_uz]; done)
    | split
    | intro _
    | (dsimp +zetaHave only))

theorem State.endEngine_uz (s : State) (r : EngReq) (res : Nat) : (State.endEngine s r res).uz = s.uz := by
  unfold State.endEngine
  repeat' (first
    | with_reducible rfl
    | (simp +zetaHave only [State.uz_mk, State.uz_eta, apply_ite State.uz, apply_ite Prod.fst, ite_self, implies_true, State.ended_uz, State.valueOf_uz, State.respond_uz]; done)
    | split
    | intro _
    | (dsimp +zetaHave only))

theorem State.endWaiter_uz (s : State) (w : Waiter) (res : Nat) (val : Nat) (hold : Bool) : (State.endWaiter s w res val hold).uz = s.uz := by
  unfold State.endWaiter
  repeat' (first
    | with_reducible rfl
    | (simp +zetaHave only [State.uz_mk, State.uz_eta, apply_ite State.uz, apply_ite Prod.fst, ite_self, implies_true, State.emit_uz, State.ended_uz, State.noteLast_uz]; done)
    | split
    | intro _
    | (dsimp +zetaHave only))

theorem State.failWaiter_uz (s : State) (w : Waiter) (res : Nat) (hold : Bool) : (State.failWaiter s w res hold).uz = s.uz := by
  unfold State.failWaiter
  repeat' (first
    | with_reducible rfl
    | (simp +zetaHave only [State.uz_mk, State.uz_eta, apply_ite State.uz, apply_ite Prod.fst, ite_self, implies_true, State.valueOf_uz, State.endWaiter_uz]; done)
    | split
    | intro _
    | (dsimp +zetaHave only))

theorem State.objStop_uz (s : State) : (State.objStop s).uz = s.uz := by
  unfold State.objStop
  repeat' (first
    | with_reducible rfl
    | (simp +zetaHave only [State.uz_mk, State.uz_eta, apply_ite State.uz, apply_ite Prod.fst, ite_self, implies_true, State.foldl_uz, State.foldl_fst_uz, State.emit_uz, State.endEngine_uz, State.failWaiter_uz]; done)
    | split
    | intro _
    | (dsimp +zetaHave only)
    | refine (State.foldl_uz _ _ _ ?_).trans ?_
    | refine (State.foldl_fst_uz _ _ _ ?_).trans ?_)

theorem State.enterHold_uz (s : State) (d : Dom) (nc : Nat) : (State.enterHold s d nc).uz = s.uz := by
  unfold State.enterHold
  repeat' (first
    | with_reducible rfl
    | (simp +zetaHave only [State.uz_mk, State.uz_eta, apply_ite State.uz, apply_ite Prod.fst, ite_self, implies_true, State.count_uz, State.raise_uz, State.raiseIf_uz, State.setServo_uz]; done)
    | split
    | intro _
    | (dsimp +zetaHave only))

theorem State.underlayHold_uz (s : State) (nc : Nat) : (State.underlayHold s nc).uz = s.uz := by
  unfold State.underlayHold
  repeat' (first
    | with_reducible rfl
    | (simp +zetaHave only [State.uz_mk, State.uz_eta, apply_ite State.uz, apply_ite Prod.fst, ite_self, implies_true, State.enterHold_uz]; done)
    | split
    | intro _
    | (dsimp +zetaHave only))

theorem State.setCmdSlot_uz (s : State) (k : Nat) (c : CmdSlot) : (State.setCmdSlot s k c).uz = s.uz := by
  unfold State.setCmdSlot
  repeat' (first
    | with_reducible rfl
    | (simp +zetaHave only [State.uz_mk, State.uz_eta, apply_ite State.uz, apply_ite Prod.fst, ite_self, implies_true, apply_ite CmdOut.st, CmdOut.status_st, CmdOut.ok_st, CmdOut.done_st, CmdOut.wait_st]; done)
    | split
    | intro _
    | (dsimp +zetaHave only))

theorem State.putRun_uz (s : State) (r : RunCmd) : (State.putRun s r).uz = s.uz := by
  unfold State.putRun
  repeat' (first
    | with_reducible rfl
    | (simp +zetaHave only [State.uz_mk, State.uz_eta, apply_ite State.uz, apply_ite Prod.fst, ite_self, implies_true, apply_ite CmdOut.st, CmdOut.status_st, CmdOut.ok_st, CmdOut.done_st, CmdOut.wait_st]; done)
    | split
    | intro _
    | (dsimp +zetaHave only))

theorem State.irqComplete_uz (s : State) : (State.irqComplete s).uz = s.uz := by
  unfold State.irqComplete
  repeat' (first
    | with_reducible rfl
    | (simp +zetaHave only [State.uz_mk, State.uz_eta, apply_ite State.uz, apply_ite Prod.fst, ite_self, implies_true, State.raiseIf_uz]; done)
    | split
    | intro _
    | (dsimp +zetaHave only))

theorem State.finalize_uz (s : State) (r : RunCmd) (rep : Reply) (words : List Nat) : (State.finalize s r rep words).uz = s.uz := by
  unfold State.finalize
  repeat' (first
    | with_reducible rfl
    | (simp +zetaHave only [State.uz_mk, State.uz_eta, apply_ite State.uz, apply_ite Prod.fst, ite_self, implies_true, apply_ite CmdOut.st, CmdOut.status_st, CmdOut.ok_st, CmdOut.done_st, CmdOut.wait_st, State.count_uz, State.emit_uz, State.evt_uz, State.setCmdSlot_uz, State.irqComplete_uz]; done)
    | split
    | intro _
    | (dsimp +zetaHave only))

theorem State.complete_uz (s : State) (r : RunCmd) (rep : Reply) : (State.complete s r rep).uz = s.uz := by
  unfold State.complete
  repeat' (first
    | with_reducible rfl
    | (simp +zetaHave only [State.uz_mk, State.uz_eta, apply_ite State.uz, apply_ite Prod.fst, ite_self, implies_true, apply_ite CmdOut.st, CmdOut.status_st, CmdOut.ok_st, CmdOut.done_st, CmdOut.wait_st, State.count_uz, State.memWrite_uz, State.putRun_uz, State.finalize_uz]; done)
    | split
    | intro _
    | (dsimp +zetaHave only))

theorem State.abortLong_uz (s : State) : (State.abortLong s).uz = s.uz := by
  unfold State.abortLong
  repeat' (first
    | with_reducible rfl
    | (simp +zetaHave only [State.uz_mk, State.uz_eta, apply_ite State.uz, apply_ite Prod.fst, ite_self, implies_true, apply_ite CmdOut.st, CmdOut.status_st, CmdOut.ok_st, CmdOut.done_st, CmdOut.wait_st, State.foldl_uz, State.foldl_fst_uz, State.complete_uz]; done)
    | split
    | intro _
    | (dsimp +zetaHave only)
    | refine (State.foldl_uz _ _ _ ?_).trans ?_
    | refine (State.foldl_fst_uz _ _ _ ?_).trans ?_)

end Sys2Proof.Machine
end

