-- ==== Sys2Proof/Laws/RowsHealth.lean ====
section
/-! SUPPORT. Sys2Proof/Laws/RowsHealth.lean: the health manager, the watchdog and Underlay mode. -/

set_option linter.all false
set_option Elab.async false

namespace Sys2Proof.Machine
open Sys2Proof Sys2Proof.Config

theorem keys_map {α : Type} (m : Map α) : m.keys = m.map Prod.fst := rfl

theorem sorted_keys {α : Type} : ∀ (m : Map α), m.sorted = true → m.keys.Pairwise (· < ·) := by
  intro m
  induction m with
  | nil => intro _; exact List.Pairwise.nil
  | cons e m ih =>
    intro h
    rw [Map.sorted_cons] at h
    refine List.Pairwise.cons ?_ (ih h.2)
    intro k hk
    obtain ⟨x, hx, rfl⟩ := List.mem_map.mp hk
    exact h.1 x hx

theorem channels_nodup (s : State) (h : s.Canon) : s.channels.Nodup := by
  have h1 := (Map.wf_iff _ _).mp h.ports
  have := sorted_keys s.ports h1.1
  unfold State.channels State.portList
  exact ((this.imp fun h => Nat.ne_of_lt h).filter _).filter _

theorem each_mod (f : Port → Port) : ∀ (l : List Nat) (s : State), l.Nodup →
    s.each l (fun s p => s.modPort p f) = { s with ports := (s.each l fun s p => s.modPort p f).ports } ∧
    ∀ p, (s.each l fun s p => s.modPort p f).port p = if p ∈ l then f (s.port p) else s.port p := by
  intro l
  induction l with
  | nil => intro s _; exact ⟨rfl, fun p => (if_neg (by simp)).symm⟩
  | cons a l ih =>
    intro s hn
    rw [List.nodup_cons] at hn
    have e : s.each (a :: l) (fun s p => s.modPort p f) = (s.modPort a f).each l (fun s p => s.modPort p f) := rfl
    rw [e]
    obtain ⟨i1, i2⟩ := ih (s.modPort a f) hn.2
    have h0 : s.modPort a f = { s with ports := (s.modPort a f).ports } := rfl
    have h1 := modPort_same s a f
    have h2 : ∀ p, p ≠ a → (s.modPort a f).port p = s.port p := fun p hp => modPort_other s a p f hp
    generalize s.modPort a f = z at i1 i2 h0 h1 h2
    generalize z.each l (fun s p => s.modPort p f) = w at i1 i2
    refine ⟨?_, fun p => ?_⟩
    · rw [h0] at i1; exact i1
    · rw [i2]
      by_cases hp : p = a
      · subst hp
        rw [if_neg hn.1, if_pos List.mem_cons_self, h1]
      · rw [h2 p hp]
        by_cases hl : p ∈ l
        · rw [if_pos hl, if_pos (List.mem_cons_of_mem _ hl)]
        · rw [if_neg hl, if_neg]; intro h; rcases List.mem_cons.mp h with h | h; exact hp h; exact hl h

/-- What the row SCORE_DECAY does (R323). -/
theorem exec_scoreDecay : (∀ (s : State) (k : Nat), s.up = true → s.Canon → k = (if 16 ≤ s.fl HF_SCORE 16 5 ∧ s.fl HF_SCORE 16 5 ≤ 30 then s.fl HF_SCORE 16 5 else 20) →
    ((s.clk.course + 1) % 2 ^ k ≠ 0 ∨ s.did.decay = true → exec .scoreDecay s = .next s) ∧
    ((s.clk.course + 1) % 2 ^ k = 0 → s.did.decay = false → ∃ t, exec .scoreDecay s = .next t ∧
      t = { s.openGate 5 with ports := t.ports, hf := { s.hf with score := s.hf.score / 2 }, did := { s.did with decay := true } } ∧
      (∀ p, t.port p = if p ∈ s.channels then { s.port p with score := (s.port p).score / 2 } else s.port p))) := by
  rintro s k hu hc rfl
  have kk : exec .scoreDecay s = s.main fun s => s.decay (s.clk.course + 1) := rfl
  rw [kk, State.main_up hu]
  unfold State.decay
  have hk : s.decayExp = if 16 ≤ s.fl HF_SCORE 16 5 ∧ s.fl HF_SCORE 16 5 ≤ 30 then s.fl HF_SCORE 16 5 else 20 := rfl
  rw [← hk]
  generalize s.decayExp = k
  refine ⟨fun h => ?_, fun h1 h2 => ?_⟩
  · rw [if_neg]
    rintro ⟨a, b⟩
    rcases h with h | h
    · exact h a
    · exact absurd (h.symm.trans b) (by decide)
  · rw [if_pos ⟨h1, h2⟩]
    dsimp +zetaHave only
    have ho : (s.openGate 5).ports = s.ports ∧ (s.openGate 5).hf = s.hf ∧ (s.openGate 5).did = s.did ∧ (s.openGate 5).nPorts = s.nPorts := by
      unfold State.openGate; dsimp +zetaHave only
      split
      · exact ⟨rfl, rfl, rfl, rfl⟩
      · rw [evt_one]; exact ⟨rfl, rfl, rfl, rfl⟩
    have hch : (s.openGate 5).channels = s.channels := by unfold State.channels State.portList State.port; rw [ho.1, ho.2.2.2]
    rw [hch]
    obtain ⟨e1, e2⟩ := each_mod (fun v => { v with score := v.score / 2 }) s.channels (s.openGate 5) (channels_nodup s hc)
    generalize ((s.openGate 5).each s.channels fun s p => s.modPort p fun v => { v with score := v.score / 2 }) = z at e1 e2
    have hz : z.hf = s.hf ∧ z.did = s.did := by rw [e1]; exact ⟨ho.2.1, ho.2.2.1⟩
    refine ⟨_, rfl, ?_, fun p => (e2 p).trans (by rw [openGate_port])⟩
    rw [hz.1, hz.2]
    exact congrArg (fun x : State => { x with hf := { s.hf with score := s.hf.score / 2 }, did := { s.did with decay := true } }) e1

/-- What the row BUDGET_RECORD_EXPIRY does (R327). -/
theorem exec_budgetRecordExpiry : (∀ (s : State) (w : Nat), s.up = true → w = (if 20 ≤ s.fl HF_BUDGET 8 5 ∧ s.fl HF_BUDGET 8 5 ≤ 31 then s.fl HF_BUDGET 8 5 else 30) →
    exec .budgetRecordExpiry s = .next { s with hf := { s.hf with rets := s.hf.rets.filter fun r => s.clk.course + 1 < r.course + 2 ^ w } }) := by
  rintro s w hu rfl
  have kk : exec .budgetRecordExpiry s = s.main fun s => s.expireRecords (s.clk.course + 1) := rfl
  rw [kk, State.main_up hu]
  rfl

/-- What the row ADMISSION_COMPLETE does (R333). -/
theorem exec_admissionComplete : (∀ (s : State) (p : Nat) (v : Port), s.up = true → p < s.nPorts → v = s.port p →
    (v.health ≠ .admitting ∨ v.lossDecl = true → exec (.admissionComplete p) s = .next s) ∧
    (v.health = .admitting → v.lossDecl = false →
      (v.mismatch = true ∨ (∀ k, v.kaTick = some k → k + 9 < s.clk.ticks + 1) ∨ bitOf v.kaStatus 7 = false ∨ bitOf v.kaStatus 6 = false →
        exec (.admissionComplete p) s = .next (s.setPort p { v with admitAt := none })) ∧
      (∀ k a, v.mismatch = false → v.kaTick = some k → s.clk.ticks + 1 ≤ k + 9 → bitOf v.kaStatus 7 = true → bitOf v.kaStatus 6 = true → v.admitAt = some a →
        (s.clk.ticks + 1 ≤ a + max 1024 (s.rd HF_ADMIT) → exec (.admissionComplete p) s = .next s) ∧
        (a + max 1024 (s.rd HF_ADMIT) < s.clk.ticks + 1 → ∃ y : State, exec (.admissionComplete p) s = .next ((y.resendMoves [p]).sendHeldLogs) ∧
          y = (s.setPort p { v with health := .live, reason := 0, chg := (s.clk.course + 1) % 2 ^ 32, cand := 0, admitAt := none }).count HF_CNT_RESTORE)))) := by
  rintro s p v hu hp hv
  have kk : exec (.admissionComplete p) s = s.atPort p fun s => s.admission p (s.clk.ticks + 1) (s.clk.course + 1) := rfl
  rw [kk, atPort_in hu hp]
  unfold State.admission
  dsimp +zetaHave only
  rw [← hv]
  refine ⟨fun h => by rw [if_pos h], fun h1 h2 => ?_⟩
  rw [if_neg (by rintro (h | h); exact h h1; exact absurd (h.symm.trans h2) (by decide))]
  have hr : s.holdRuns p (s.clk.ticks + 1) = (!v.mismatch && (match v.kaTick with | some k => decide (s.clk.ticks + 1 ≤ k + 9) | none => false) && bitOf v.kaStatus 7 && bitOf v.kaStatus 6) := by
    rw [hv]; rfl
  refine ⟨fun h => ?_, fun k a h3 h4 h5 h6 h7 h8 => ?_⟩
  · have : s.holdRuns p (s.clk.ticks + 1) = false := by
      rw [hr]
      rcases h with h | h | h | h
      · rw [h]; rfl
      · cases hk : v.kaTick with
        | none => simp
        | some k => have := h k hk; dsimp only; rw [decide_eq_false (by omega)]; simp
      · rw [h]; simp
      · rw [h]; simp
    rw [if_pos this]
    unfold State.modPort
    rw [← hv]
  · have : s.holdRuns p (s.clk.ticks + 1) = true := by
      rw [hr, h3, h4, h6, h7]; dsimp only; rw [decide_eq_true h5]; rfl
    rw [if_neg (by rw [this]; decide), h8]
    dsimp only
    have hh : s.admitHold = max 1024 (s.rd HF_ADMIT) := rfl
    rw [hh]
    refine ⟨fun h => by rw [if_neg (by omega)], fun h => ?_⟩
    rw [if_pos h]
    unfold State.makeLive
    dsimp +zetaHave only
    rw [← hv, if_pos h1]
    refine ⟨_, rfl, ?_⟩
    unfold State.setHealth State.modPort
    rw [← hv]
    dsimp only
    rw [if_neg (by rw [h1]; decide)]

theorem exec_rows_5 : (∀ (x : State) (unit sc : Nat) (y : State), sc = min 255 (x.hf.score + 1) → y = { x with cnt := y.cnt, irq := x.irq ||| BitVec.ofNat 32 (2 ^ 29), out := .perfEvt 30 1 :: x.out, hf := { x.hf with score := sc, lastUnit := unit } } →
    (∀ o, y.counter o = if o = HF_CNT_INT then (x.counter o + 1) % 2 ^ 32 else x.counter o) → y.cnt = (x.count HF_CNT_INT).cnt →
    x.contained unit = if max 1 (x.fl HF_SCORE 0 8) ≤ sc then y.underlayCause 2 unit else y) := by
  rintro x unit sc y rfl hy ho hc
  unfold State.contained
  dsimp +zetaHave only
  generalize hz : (((({ x with hf := { x.hf with score := min 255 (x.hf.score + 1), lastUnit := unit } } : State).count HF_CNT_INT).raise 29).evt 30) = z
  have h1 : z = { x with cnt := (x.count HF_CNT_INT).cnt, irq := x.irq ||| BitVec.ofNat 32 (2 ^ 29), out := .perfEvt 30 1 :: x.out, hf := { x.hf with score := min 255 (x.hf.score + 1), lastUnit := unit } } := by
    rw [← hz, evt_one]; rfl
  have : z = y := by rw [h1, hy, hc]
  subst this
  have hr : z.retireThr = max 1 (x.fl HF_SCORE 0 8) := by
    have : z.regs = x.regs := by rw [h1]
    unfold State.retireThr State.fl State.rd; rw [this]
  rw [hr]

/-- What the row INTERNAL_PARITY_FAILURE does (R334). -/
theorem exec_internalParityFailure : (∀ (s : State) (n e : Nat) (k : LostWord), s.up = true → s.isEave = true → s.tapEn n = true →
    exec (.internalParityFailure (.crossing n e k)) s = .next ((((s.tapRun n e).dropWord n k).count BT_CNT_PAR).contained 0x06)) := by
  intro s n e k hu he ht
  have kk : exec (.internalParityFailure (.crossing n e k)) s = s.atTap n e fun s => ((s.dropWord n k).count BT_CNT_PAR).contained 0x06 := rfl
  rw [kk]; unfold State.atTap
  rw [State.main_up hu, if_pos ⟨he, ht⟩]

/-- What the row INTERNAL_PARITY_FAILURE does (R334). -/
theorem exec_internalParityFailure_2 : (∀ (s : State) (u : Nat), s.up = true → (u = 0 ∨ 5 < u → exec (.internalParityFailure (.uncontained u)) s = .next s) ∧
    (1 ≤ u → u ≤ 5 → exec (.internalParityFailure (.uncontained u)) s = .next ((State.count { s with hf := { s.hf with lastUnit := u } } HF_CNT_UNCONT).underlayCause 1 u))) := by
  intro s u hu
  have kk : exec (.internalParityFailure (.uncontained u)) s = s.main fun s => if 1 ≤ u ∧ u ≤ 5 then s.uncontained u else s := rfl
  rw [kk, State.main_up hu]
  exact ⟨fun h => by rw [if_neg (by omega)], fun h1 h2 => by rw [if_pos ⟨h1, h2⟩]; rfl⟩

/-- What the row INTERNAL_PARITY_FAILURE does (R334). -/
theorem exec_internalParityFailure_3 : (∀ (s : State) (h : Nat) (who : TransFor), s.up = true → s.isEave = true →
    ∃ y : State, exec (.internalParityFailure (.objectSlot h who)) s = .next (y.contained 0x07) ∧
      (∀ op r course, who = .engine op r course → (∀ f ∈ s.od.tapQ, f.req.tap ≠ r.tap) →
        (∀ j, y.slot j = s.slot j) ∧ y.od.waiters = s.od.waiters ∧ (r.bar = false → ∃ x, .objRsp r.tap r.rtag 0x0B x ∈ y.out)) ∧
      (∀ m src, who = .remote m src → y = (s.ended (hKey h) 0x0B).answer src m.rtag 0x0B none ∧ ∀ j, (s.ended (hKey h) 0x0B).slot j = s.slot j) ∧
      (who = .signal → y = s.ended (hKey h) 0x0B ∧ ∀ j, y.slot j = s.slot j) ∧
      (who = .program → y = { s with od := { s.od with progRes := some (hKey h, .parity) } }) ∧
      (who = .command → y = { s with od := { s.od with cmdRes := s.od.cmdRes.set none (hKey h) (some .parity) } })) := by
  intro s h who hu he
  have kk : exec (.internalParityFailure (.objectSlot h who)) s = s.main fun s => if s.isEave then s.badSlot h who else s := rfl
  rw [kk, State.main_up hu, if_pos he]
  unfold State.badSlot
  refine ⟨_, rfl, ?_, ?_, ?_, ?_, ?_⟩
  · rintro op r course rfl hq
    obtain ⟨a, b, c⟩ := end_engine s r rParity
    have d : (s.endEngine r rParity).od.tapQ = s.od.tapQ := by
      unfold State.endEngine
      dsimp +zetaHave only
      have hr : ∀ (x : State) (a b : Nat) r, (x.respond r a b).od = x.od := by intro x a b r; unfold State.respond; split <;> rfl
      rw [hr]
      show (s.ended r.handle rParity).od.tapQ = _
      rw [(so_only (so_ended s r.handle rParity)).2]
    show (∀ j, ((s.endEngine r rParity).drainTap r.tap).slot j = _) ∧ ((s.endEngine r rParity).drainTap r.tap).od.waiters = _ ∧ _
    have key : (s.endEngine r rParity).drainTap r.tap = s.endEngine r rParity := by
      unfold State.drainTap
      dsimp +zetaHave only
      have d1 : (s.od.tapQ.filter fun f => decide (f.req.tap = r.tap)) = [] :=
        List.filter_eq_nil_iff.mpr fun f hf h => hq f hf (of_decide_eq_true h)
      have d2 : (s.od.tapQ.filter fun f => decide (f.req.tap ≠ r.tap)) = s.od.tapQ :=
        List.filter_eq_self.mpr fun f hf => decide_eq_true (hq f hf)
      rw [d, d1, d2, ← d]; rfl
    exact ⟨fun j => by rw [key]; exact b j, by rw [key]; exact c, fun hb => by
      obtain ⟨x, hx⟩ := a hb
      exact ⟨x, by rw [show s.transFor (hKey h) .parity (.engine op r course) = (s.endEngine r rParity).drainTap r.tap from rfl, key]; exact hx⟩⟩
  · rintro m src rfl; exact ⟨rfl, (ended_facts _ _ _).1⟩
  · rintro rfl; exact ⟨rfl, (ended_facts _ _ _).1⟩
  · rintro rfl; rfl
  · rintro rfl; rfl

/-- What the row INTERNAL_PARITY_FAILURE does (R334). -/
theorem exec_internalParityFailure_8 : (∀ s : State, s.up = true →
    exec (.internalParityFailure (.registerRead .host)) s = .next ((s.emit (.hostRsp 0 false)).uncontained 3) ∧
    exec (.internalParityFailure (.registerRead .sideband)) s = .next ((s.emit (.sbAnswer 0x82 0 [0])).uncontained 3) ∧
    exec (.internalParityFailure (.registerRead .cp)) s = .next (s.uncontained 3)) := by
  intro s hu
  have kk : ∀ m, exec (.internalParityFailure (.registerRead m)) s = s.main fun s => (s.zeroRead m).uncontained 0x03 := fun _ => rfl
  exact ⟨by rw [kk, State.main_up hu]; rfl, by rw [kk, State.main_up hu]; rfl, by rw [kk, State.main_up hu]; rfl⟩

/-- What the row INTERNAL_PARITY_FAILURE does (R334). -/
theorem exec_internalParityFailure_4 : (∀ (s : State) (cid isn a : Nat), s.up = true → s.isRidge = true → (s.ctr cid isn a = none → exec (.internalParityFailure (.treeCounter cid isn a)) s = .next s) ∧
    (∀ c, s.ctr cid isn a = some c → ∃ y : State, exec (.internalParityFailure (.treeCounter cid isn a)) s = .next ((y.abortReq cid isn a s.home 0x09 0).contained 0x08) ∧
      y = { s with ce := { s.ce with ctrs := s.ce.ctrs.filter fun x => ¬ (x.par.cid = cid ∧ x.par.isn = isn ∧ x.attempt = a) } })) := by
  intro s cid isn a hu he
  have kk : exec (.internalParityFailure (.treeCounter cid isn a)) s = s.main fun s => if s.isRidge then s.badCounter cid isn a else s := rfl
  rw [kk, State.main_up hu, if_pos he]
  unfold State.badCounter
  exact ⟨fun h => by rw [h], fun c h => by rw [h]; exact ⟨_, rfl, rfl⟩⟩

/-- What the row INTERNAL_PARITY_FAILURE does (R334). -/
theorem exec_internalParityFailure_5 : (∀ (s : State) (h isn : Nat) (hd : Handle) (i : Inst), s.up = true → s.isEave = true → s.handle h = some hd → hd.inst isn = some i →
    exec (.internalParityFailure (.contribLog h isn)) s = .next ((s.abortReq hd.cid isn i.attempt (hd.domOf i.attempt) 0x09 0).contained 0x09)) := by
  intro s h isn hd i hu he h1 h2
  have kk : exec (.internalParityFailure (.contribLog h isn)) s = s.main fun s => if s.isEave then s.badLog h isn else s := rfl
  rw [kk, State.main_up hu, if_pos he]
  unfold State.badLog
  rw [h1]; dsimp only; rw [h2]

/-- What the rows INTERNAL_PARITY_FAILURE, TRANSLATION_READ_DONE do (R257, R334). -/
theorem exec_internalParityFailure_translationReadDone : (∀ (s : State) (id : Nat) (q : MemReq) (key : Nat), s.up = true → s.mm.reads.find? (fun q => q.id = id) = some q → q.use = .trans key →
    exec (.internalParityFailure (.translation id)) s = exec (.translationReadDone id [] true) s) := by
  intro s id q key hu hq hk
  have kk : exec (.internalParityFailure (.translation id)) s = s.main fun s => s.badTranslation id := rfl
  have k : exec (.translationReadDone id [] true) s = s.main fun s =>
    match s.mm.reads.find? fun q => q.id = id with
    | some q =>
      match q.use with
      | .trans _ => s.readEnds { q with got := q.got ++ [] } true
      | _ => s
    | none => s := rfl
  rw [kk, k, State.main_up hu, State.main_up hu]
  unfold State.badTranslation
  rw [hq]; dsimp only; rw [hk]; dsimp only
  rw [List.append_nil]
  have : q = { q with use := .trans key } := by cases q; cases hk; rfl
  rw [← this]

/-- What the row INTERNAL_PARITY_FAILURE does (R334). -/
theorem exec_internalParityFailure_6 : (∀ (s : State) (p : Nat) (l : List StampRec) (r : StampRec), s.up = true → p < s.nPorts → (s.port p).fifo = l ++ [r] →
    ∃ y : State, exec (.internalParityFailure (.stampRecord p)) s = .next (y.contained 0x0B) ∧
      y.port p = { s.port p with fifo := l ++ [{ lo := r.lo / 2 ^ 48 * 2 ^ 48, hi := r.hi ||| 2 ^ 27 }], lower := none, upper := {} } ∧ (∀ q, q ≠ p → y.port q = s.port q) ∧
      (∀ o, o ≠ TD_CNT_EXCH_BAD → y.counter o = if o = PF_CNT_MISS p then (s.counter o + 1) % 2 ^ 32 else s.counter o) ∧
      y.counter TD_CNT_EXCH_BAD = (s.counter TD_CNT_EXCH_BAD + if (s.port p).lower.isSome then 1 else 0) % 2 ^ 32) := by
  intro s p l r hu hp hf
  have kk : exec (.internalParityFailure (.stampRecord p)) s = s.atPort p fun s => s.badStamp p := rfl
  rw [kk, atPort_in hu hp]
  unfold State.badStamp
  dsimp +zetaHave only
  rw [hf, List.getLast?_concat]
  dsimp only
  rw [List.dropLast_concat]
  generalize hy : (s.setPort p { s.port p with fifo := l ++ [r.missed] }).count (PF_CNT_MISS p) = y
  have y1 : y.port p = { s.port p with fifo := l ++ [r.missed] } := by rw [← hy]; exact setPort_same _ _ _
  have y2 : ∀ q, q ≠ p → y.port q = s.port q := fun q hq => by rw [← hy]; exact setPort_other _ _ _ _ hq
  have y3 : ∀ o, y.counter o = if o = PF_CNT_MISS p then (s.counter o + 1) % 2 ^ 32 else s.counter o := fun o => by rw [← hy]; exact counter_one (s.setPort p { s.port p with fifo := l ++ [r.missed] }) (PF_CNT_MISS p) o
  obtain ⟨d1, d2⟩ := dropExch_port y p
  refine ⟨_, rfl, by rw [d1, y1]; rfl, fun q hq => by rw [d2 q hq, y2 q hq], ?_⟩
  have hd : ∀ o, (y.dropExch p).counter o = if o = TD_CNT_EXCH_BAD then (y.counter o + bnat (y.port p).lower.isSome) % 2 ^ 32 else y.counter o := by
    intro o
    unfold State.dropExch
    dsimp +zetaHave only
    rw [count_at]
    rfl
  refine ⟨fun o ho => by rw [hd, if_neg ho, y3], ?_⟩
  have hne : TD_CNT_EXCH_BAD ≠ PF_CNT_MISS p := by unfold PF_CNT_MISS TD_CNT_EXCH_BAD; omega
  rw [hd, if_pos rfl, y3, if_neg hne, y1]
  rfl

/-- What the row INTERNAL_PARITY_FAILURE does (R334). -/
theorem exec_internalParityFailure_7 : (∀ (s : State) (p : Nat), s.up = true → p < s.nPorts → ((s.port p).rpl.attempt = none → exec (.internalParityFailure (.replayWord p)) s = .next (s.contained 0x0C)) ∧
    ((s.port p).rpl.attempt ≠ none → ∃ y : State, exec (.internalParityFailure (.replayWord p)) s = .next (y.contained 0x0C) ∧
      (y.port p).rpl = { (s.port p).rpl with attempt := none, failRun := min 3 ((s.port p).rpl.failRun + 1) } ∧ (∀ q, q ≠ p → y.port q = s.port q) ∧
      (∀ o, y.counter o = if o = PF_CNT_RFAIL p then (s.counter o + 1) % 2 ^ 32 else s.counter o))) := by
  intro s p hu hp
  have kk : exec (.internalParityFailure (.replayWord p)) s = s.atPort p fun s => s.badReplay p := rfl
  rw [kk, atPort_in hu hp]
  unfold State.badReplay
  refine ⟨fun h => by rw [h]; rfl, fun h => ?_⟩
  rw [if_pos (by cases hh : (s.port p).rpl.attempt <;> simp_all)]
  refine ⟨_, rfl, ?_⟩
  unfold State.attemptFails
  dsimp +zetaHave only
  generalize hm : (s.modPort p fun v => { v with rpl := { v.rpl with attempt := none, failRun := min 3 (v.rpl.failRun + 1) }, cand := if min 3 (v.rpl.failRun + 1) = 3 ∧ v.health = .live then 2 else v.cand }) = m
  have m1 : (m.port p).rpl = { (s.port p).rpl with attempt := none, failRun := min 3 ((s.port p).rpl.failRun + 1) } := by rw [← hm, modPort_same]
  have m2 : ∀ q, q ≠ p → m.port q = s.port q := fun q hq => by rw [← hm, modPort_other _ _ _ _ hq]
  have m3 : m.cnt = s.cnt := by rw [← hm]; rfl
  generalize hw : (m.count (PF_CNT_RFAIL p)).evt 13 = w
  have w1 : (∀ q, w.port q = m.port q) ∧ ∀ o, w.counter o = if o = PF_CNT_RFAIL p then (s.counter o + 1) % 2 ^ 32 else s.counter o := by
    rw [← hw, evt_one]
    refine ⟨fun _ => rfl, fun o => ?_⟩
    have : ((m.count (PF_CNT_RFAIL p)).emit (.perfEvt 13 1)).counter o = (m.count (PF_CNT_RFAIL p)).counter o := rfl
    rw [this, counter_one, counter_cnt m3]
  unfold State.scoreRfail
  obtain ⟨s1, s2, s3, s4⟩ := score_port w p (w.fl HF_WEIGHT 24 8)
  refine ⟨?_, fun q hq => by rw [s2 q hq, w1.1, m2 q hq], fun o => by rw [counter_cnt s1, w1.2]⟩
  cases hs : (w.port p).scores with
  | false => rw [s3 hs, w1.1, m1]
  | true => rw [s4 hs]; show (w.port p).rpl = _; rw [w1.1, m1]

theorem exec_rows_6 : (∀ (x : State) (cause unit : Nat), (x.hf.active = true ∨ x.hf.pend = true → x.underlayCause cause unit = { x with hf := { x.hf with newCause := true, more := min 255 (x.hf.more + 1) } }) ∧
    (x.hf.active = false → x.hf.pend = false → ∃ z : State, x.underlayCause cause unit = z.underlayRequests ∧
      z = { x with irq := x.irq ||| BitVec.ofNat 32 (2 ^ 1), hf := { x.hf with newCause := true, pend := true, cause := cause, unit := unit, more := 0 } } ∧
      (x.isEave = true → x.ce.handles = [] → z.underlayRequests = z) ∧
      (x.isEave = false → z.underlayRequests = z.raiseReq { rtype := 1, dom := x.home, port := (x.homeUplink.map x.portNum).getD 0, lo := x.ownRange.1, hi := x.ownRange.2 }))) := by
  intro x cause unit
  unfold State.underlayCause
  dsimp +zetaHave only
  refine ⟨fun h => ?_, fun h1 h2 => ?_⟩
  · rw [if_pos (by rcases h with h | h <;> rw [h] <;> simp)]
  · rw [h1, h2, if_neg (by decide)]
    have q1 : ∀ z : State, z.isEave = true → z.ce.handles = [] → z.underlayRequests = z := by
      intro z he hh
      unfold State.underlayRequests
      rw [if_pos he]
      unfold State.abortAll
      rw [hh]; rfl
    have q2 : ∀ z : State, z.isEave = false → z.underlayRequests = z.raiseReq { rtype := 1, dom := z.home, port := (z.homeUplink.map z.portNum).getD 0, lo := z.ownRange.1, hi := z.ownRange.2 } := by
      intro z he
      unfold State.underlayRequests
      rw [if_neg (by rw [he]; decide)]
    exact ⟨_, rfl, rfl, fun he hh => q1 _ he hh, fun he => q2 _ he⟩

/-- What the row HF_WDOG_KICK does (R336). -/
theorem exec_hfWdogKick : (∀ (s : State) (m : Master) (v : Nat), s.Serving → v < 2 ^ 32 → ∃ t, exec (.hfWdogKick m v) s = .next t ∧
    t.still = (if m = .cp ∧ bitOf v 0 = true then { s with hf := { s.hf with kicked := true, wdog := s.hf.wdog.map fun _ => 0 } } else s : State).still) := by
  intro s m v hs hv
  have kk : exec (.hfWdogKick m v) s = .next (s.writeBy m 0x8048 false v) := rfl
  rw [kk, State.writeBy_serving hs _ _ _ _ (by decide), State.regWrite_8048, Nat.mod_eq_of_lt hv]
  obtain ⟨c, o, b, g, ht, _⟩ := s.touch_form m 0x8048
  generalize s.touch m 0x8048 = u at ht
  have hd : u.putReg m 0x8048 v = u.kick m v := by
    unfold State.putReg; rw [State.rwReg_8048]; dsimp only; unfold State.putOther; rw [State.portAt_low _ _ (by decide)]; rfl
  rw [hd]
  refine ⟨_, rfl, ?_⟩
  unfold State.kick
  split <;> rw [ht] <;> rfl

/-- What the row WATCHDOG_EXPIRY does (R336). -/
theorem exec_watchdogExpiry : (∀ (s : State), s.up = true → (s.rd HF_WDOG_CFG = 0 ∨ s.pw.st ≠ .active ∨ (∀ k, s.hf.wdog = some k → k + 1 < s.rd HF_WDOG_CFG) → exec .watchdogExpiry s = .next s) ∧
    (∀ k, s.rd HF_WDOG_CFG ≠ 0 → s.pw.st = .active → s.hf.wdog = some k → s.rd HF_WDOG_CFG ≤ k + 1 →
      exec .watchdogExpiry s = .next ((State.count { s with hf := { s.hf with wdog := none } } HF_CNT_WDOG).underlayCause 4 0))) := by
  intro s hu
  have kk : exec .watchdogExpiry s = s.main fun s => if s.wdogDue then s.wdogExpire else s := rfl
  rw [kk, State.main_up hu]
  refine ⟨fun h => ?_, fun k h1 h2 h3 h4 => ?_⟩
  · rw [if_neg]
    unfold State.wdogDue
    cases hk : s.hf.wdog with
    | none => simp
    | some k =>
      rcases h with h | h | h
      · rw [h]; simp
      · simp [h]
      · have := h k hk
        dsimp only
        rw [decide_eq_false (by omega : ¬ s.rd HF_WDOG_CFG ≤ k + 1)]; simp
  · rw [if_pos]
    · rfl
    · unfold State.wdogDue; rw [h3]; dsimp only; rw [decide_eq_true h1, decide_eq_true h4, decide_eq_true h2]; rfl

/-- What the row FIRMWARE_TRAP does (R375). -/
theorem exec_firmwareTrap : (∀ (s : State), s.up = true → (s.cp.fw ≠ .running → exec .firmwareTrap s = .next s) ∧
    (s.cp.fw = .running → exec .firmwareTrap s = .next (State.underlayCause { s with cp := { s.cp with fw := .trap }, hf := { s.hf with wdog := none } } 5 0))) := by
  intro s hu
  have kk : exec .firmwareTrap s = s.main fun s => if s.cp.fw = .running then ({ s with cp := { s.cp with fw := .trap }, hf := { s.hf with wdog := none } } : State).underlayCause 5 0 else s := rfl
  rw [kk, State.main_up hu]
  exact ⟨fun h => by rw [if_neg h], fun h => by rw [if_pos h]⟩

/-- What the row HF_UL_ENTER does (R337). -/
theorem exec_hfUlEnter : (∀ (s : State), s.Serving → ∃ u : State, exec .hfUlEnter s = .next (u.underlayCause 6 0) ∧ u.still = s.still) := by
  intro s hs
  have kk : exec .hfUlEnter s = .next (s.writeBy .host 0x8040 false 2) := rfl
  rw [kk, State.writeBy_serving hs _ _ _ _ (by decide), State.regWrite_8040]
  have hst := State.touch_still s .host 0x8040
  generalize s.touch .host 0x8040 = u at hst
  have hd : u.putReg .host 0x8040 (2 % 2 ^ 32) = u.ulControl 2 := by
    unfold State.putReg; rw [State.rwReg_8040]; dsimp only; unfold State.putOther; rw [State.portAt_low _ _ (by decide)]; rfl
  rw [hd]
  exact ⟨u, rfl, hst⟩

/-- What the row HF_UL_EXIT does (R340). -/
theorem exec_hfUlExit : (∀ (s : State), s.Serving → ∃ t, exec .hfUlExit s = .next t ∧
    t.still = (if s.hf.active = true ∧ s.ck.lLock = true ∧ s.hf.kicked = true then { s with hf := { s.hf with exitAcc := true } } else s : State).still) := by
  intro s hs
  have kk : exec .hfUlExit s = .next (s.writeBy .host 0x8040 false 1) := rfl
  rw [kk, State.writeBy_serving hs _ _ _ _ (by decide), State.regWrite_8040]
  obtain ⟨c, o, b, g, ht, _⟩ := s.touch_form .host 0x8040
  generalize s.touch .host 0x8040 = u at ht
  have hd : u.putReg .host 0x8040 (1 % 2 ^ 32) = u.ulControl 1 := by
    unfold State.putReg; rw [State.rwReg_8040]; dsimp only; unfold State.putOther; rw [State.portAt_low _ _ (by decide)]; rfl
  rw [hd]
  refine ⟨_, rfl, ?_⟩
  unfold State.ulControl
  dsimp +zetaHave only
  have b1 : bitOf 1 1 = false := by decide
  have b0 : bitOf 1 0 = true := by decide
  rw [b1, b0, if_neg (c := false = true) (by decide)]
  have hh : u.hf = s.hf ∧ u.ck.lLock = s.ck.lLock := by rw [ht]; exact ⟨rfl, rfl⟩
  rw [hh.1, hh.2]
  by_cases c : s.hf.active = true ∧ s.ck.lLock = true ∧ s.hf.kicked = true
  · rw [if_pos ⟨rfl, c⟩, if_pos c, ht]; rfl
  · rw [if_neg (fun h => c h.2), if_neg c, ht]; rfl

/-- Filling buckets changes their levels and the time they are filled up to. -/
theorem fillAll_only (s : State) : s.fillAll = { s with ports := s.fillAll.ports } ∧
    ∀ p, s.fillAll.port p = { s.port p with cLevel := (s.fillAll.port p).cLevel, tLevel := (s.fillAll.port p).tLevel, bktCyc := (s.fillAll.port p).bktCyc } := by
  have key : ∀ (l : List Nat) (s : State), s.each l (fun s p => s.fillBuckets p) = { s with ports := (s.each l fun s p => s.fillBuckets p).ports } ∧
      ∀ p, (s.each l fun s p => s.fillBuckets p).port p = { s.port p with cLevel := ((s.each l fun s p => s.fillBuckets p).port p).cLevel, tLevel := ((s.each l fun s p => s.fillBuckets p).port p).tLevel, bktCyc := ((s.each l fun s p => s.fillBuckets p).port p).bktCyc } := by
    intro l
    induction l with
    | nil => intro s; exact ⟨rfl, fun _ => rfl⟩
    | cons a l ih =>
      intro s
      have e : s.each (a :: l) (fun s p => s.fillBuckets p) = (s.fillBuckets a).each l (fun s p => s.fillBuckets p) := rfl
      rw [e]
      obtain ⟨i1, i2⟩ := ih (s.fillBuckets a)
      have h0 : s.fillBuckets a = { s with ports := (s.fillBuckets a).ports } := rfl
      have h1 : ∀ p, (s.fillBuckets a).port p = { s.port p with cLevel := ((s.fillBuckets a).port p).cLevel, tLevel := ((s.fillBuckets a).port p).tLevel, bktCyc := ((s.fillBuckets a).port p).bktCyc } := by
        intro p
        by_cases hp : p = a
        · subst hp
          have : (s.fillBuckets p).port p = _ := setPort_same _ _ _
          rw [this]
        · have : (s.fillBuckets a).port p = s.port p := setPort_other _ _ _ _ hp
          rw [this]
      generalize s.fillBuckets a = z at i1 i2 h0 h1
      generalize z.each l (fun s p => s.fillBuckets p) = w at i1 i2
      refine ⟨?_, fun p => ?_⟩
      · rw [h0] at i1; exact i1
      · have := i2 p; rw [h1 p] at this; exact this
  exact key _ _

/-- What the row UNDERLAY_EXIT does (R340). -/
theorem exec_underlayExit : (∀ (s : State), s.up = true → (s.hf.active = false ∨ s.hf.exitAcc = false ∨ s.hf.newCause = true → exec .underlayExit s = .next s) ∧
    (s.hf.active = true → s.hf.exitAcc = true → s.hf.newCause = false → ∃ t, exec .underlayExit s = .next t ∧
      t = { s with ck := { s.ck with lclkFb := false }, ce := { s.ce with handles := [] }, im := { s.im with st := .idle, shot := none, reason := 0 }, hf := { s.hf with active := false, pend := false, exitAcc := false }, sq := t.sq, od := t.od, ports := t.ports } ∧
      (∀ p, t.port p = { s.port p with cLevel := (t.port p).cLevel, tLevel := (t.port p).tLevel, bktCyc := (t.port p).bktCyc }) ∧
      (s.isEave = true → t.sq = { arms := s.sq.arms, reports := s.sq.reports } ∧ t.od = { s.od with slots := [], ctxs := [], part := [], cache := [], reads := [], tapQ := [], progRes := none, cmdRes := [], stopped := false }) ∧
      (s.isEave = false → t.sq = s.sq ∧ t.od = s.od))) := by
  intro s hu
  have kk : exec .underlayExit s = s.main fun s => s.underlayExit := rfl
  rw [kk, State.main_up hu]
  unfold State.underlayExit
  refine ⟨fun h => by rw [if_pos h], fun h1 h2 h3 => ?_⟩
  rw [if_neg (by rw [h1, h2, h3]; simp)]
  dsimp +zetaHave only
  by_cases he : s.isEave = true
  · rw [if_pos he]
    obtain ⟨f1, f2⟩ := fillAll_only s.seqReset.objReset
    generalize s.seqReset.objReset.fillAll = z at f1 f2
    refine ⟨_, rfl, ?_, f2, fun _ => ?_, fun h => absurd (he.symm.trans h) (by decide)⟩
    · show _ = ({ s with ck := _, ce := _, im := _, hf := _, sq := z.sq, od := z.od, ports := z.ports } : State)
      rw [f1]; rfl
    · show z.sq = _ ∧ z.od = _
      rw [f1]; exact ⟨rfl, rfl⟩
  · rw [if_neg he]
    obtain ⟨f1, f2⟩ := fillAll_only s
    generalize s.fillAll = z at f1 f2
    refine ⟨_, rfl, ?_, f2, fun h => absurd h he, fun _ => ?_⟩
    · show _ = ({ s with ck := _, ce := _, im := _, hf := _, sq := z.sq, od := z.od, ports := z.ports } : State)
      rw [f1]
    · show z.sq = _ ∧ z.od = _
      rw [f1]; exact ⟨rfl, rfl⟩

theorem ul_parts {s t : State} (h : t.ul = s.ul) : t.hf.active = s.hf.active ∧ t.hf.pend = s.hf.pend ∧ t.hf.course = s.hf.course ∧ t.ce = s.ce ∧ t.clk = s.clk ∧ t.home = s.home ∧ t.regs = s.regs := by
  unfold State.ul at h
  injection h with h1 h; injection h with h2 h; injection h with h3 h; injection h with h4 h; injection h with h5 h; injection h with h6 h7
  exact ⟨h1, h2, h3, h4, h5, h6, h7⟩

theorem uq_parts {s t : State} (h : t.uq = s.uq) : t.sq = s.sq ∧ t.td = s.td := by
  unfold State.uq at h; injection h with h1 h2; exact ⟨h1, h2⟩

theorem uz_parts {s t : State} (h : t.uz = s.uz) : t.ports = s.ports ∧ t.ties = s.ties := by
  unfold State.uz at h; injection h with h1 h2; exact ⟨h1, h2⟩

theorem uo_parts {s t : State} (h : t.uo = s.uo) : t.od = s.od := h

theorem flush_all : ∀ (l : List Nat) (s : State),
    (∀ p ∈ l, ((s.each l State.flushCT).port p).cq = [] ∧ ((s.each l State.flushCT).port p).tq = []) ∧
    (∀ p, ((s.port p).cq = [] ∧ (s.port p).tq = [] → ((s.each l State.flushCT).port p).cq = [] ∧ ((s.each l State.flushCT).port p).tq = []) ∧
      ((s.each l State.flushCT).port p).health = (s.port p).health ∧ ((s.each l State.flushCT).port p).xq = (s.port p).xq) := by
  intro l
  induction l with
  | nil => intro s; exact ⟨fun p (h : p ∈ []) => (by cases h), fun p => ⟨fun h => h, rfl, rfl⟩⟩
  | cons a l ih =>
    intro s
    have e : s.each (a :: l) State.flushCT = (s.flushCT a).each l State.flushCT := rfl
    rw [e]
    obtain ⟨i1, i2⟩ := ih (s.flushCT a)
    have f1 : (s.flushCT a).port a = { s.port a with cq := [], tq := [], cWait := [] } := setPort_same _ _ _
    have f2 : ∀ q, q ≠ a → (s.flushCT a).port q = s.port q := fun q hq => setPort_other _ _ _ _ hq
    refine ⟨fun p hp => ?_, fun p => ?_⟩
    · by_cases h : p = a
      · rw [h]; exact (i2 a).1 (by rw [f1]; exact ⟨rfl, rfl⟩)
      · exact i1 p ((List.mem_cons.mp hp).resolve_left h)
    · by_cases h : p = a
      · rw [h]
        obtain ⟨j1, j2, j3⟩ := i2 a
        rw [f1] at j1 j2 j3
        exact ⟨fun _ => j1 ⟨rfl, rfl⟩, j2, j3⟩
      · have := i2 p
        rw [f2 p h] at this
        exact this

theorem seq_under (s : State) : s.seqUnderlay.sq.start = none ∧ (s.sq.st = .running ∨ s.sq.st = .held → s.seqUnderlay.sq.st = .stopped ∧ s.seqUnderlay.sq.code = 4) ∧
    s.seqUnderlay = { s with sq := s.seqUnderlay.sq, ev := s.seqUnderlay.ev, cnt := s.seqUnderlay.cnt } := by
  unfold State.seqUnderlay
  dsimp +zetaHave only
  by_cases h : s.sq.st = .running ∨ s.sq.st = .held
  · rw [if_pos h]
    refine ⟨rfl, fun _ => ⟨rfl, rfl⟩, ?_⟩
    (dsimp only [State.freezesDropped, State.programEnds, State.cancelArmed, State.setSq, State.count, Bool.false_eq_true, if_false]) <;> rfl
  · rw [if_neg h]
    refine ⟨rfl, fun hh => absurd hh h, ?_⟩
    (dsimp only [State.freezesDropped, State.setSq, State.count]) <;> rfl

theorem hold_one (s : State) (nc : Nat) (d : Dom) : ((s.enterHold d nc).servo d).st = .hold ∧ (∀ e, e ≠ d → (s.enterHold d nc).servo e = s.servo e) ∧ (s.enterHold d nc).sq = s.sq := by
  unfold State.enterHold
  dsimp +zetaHave only
  generalize hr : s.raiseIf ((s.servo d).locked && decide (d = s.td.sel) && s.td.acq) 7 = r
  have r1 : (∀ e, r.servo e = s.servo e) ∧ r.sq = s.sq := by rw [← hr]; unfold State.raiseIf; split <;> exact ⟨fun _ => rfl, rfl⟩
  refine ⟨?_, fun e he => ?_, r1.2⟩
  · refine Eq.trans (congrArg Servo.st (servo_put r d _).1) ?_
    rfl
  · exact Eq.trans ((servo_put r d _).2 e he) (r1.1 e)

theorem hold_all (s : State) (nc : Nat) : (∀ d, ((s.underlayHold nc).servo d).st = if (s.servo d).st = .track then .hold else (s.servo d).st) ∧ (s.underlayHold nc).sq = s.sq := by
  have one : ∀ (s : State) (d : Dom), ∃ y : State, y = (if (s.servo d).st = .track then s.enterHold d nc else s) ∧ (y.servo d).st = (if (s.servo d).st = .track then .hold else (s.servo d).st) ∧ (∀ e, e ≠ d → y.servo e = s.servo e) ∧ y.sq = s.sq := by
    intro s d
    refine ⟨_, rfl, ?_⟩
    by_cases h : (s.servo d).st = .track
    · rw [if_pos h, if_pos h]; exact hold_one s nc d
    · rw [if_neg h, if_neg h]; exact ⟨rfl, fun _ _ => rfl, rfl⟩
  have k : s.underlayHold nc = (if ((if (s.servo .a).st = .track then s.enterHold .a nc else s).servo .b).st = .track then (if (s.servo .a).st = .track then s.enterHold .a nc else s).enterHold .b nc else (if (s.servo .a).st = .track then s.enterHold .a nc else s)) := rfl
  obtain ⟨y, hy, y1, y2, y3⟩ := one s .a
  obtain ⟨z, hz, z1, z2, z3⟩ := one y .b
  rw [k, ← hy, ← hz]
  refine ⟨fun d => ?_, z3.trans y3⟩
  cases d
  · rw [z2 .a (by decide)]; exact y1
  · rw [z1, y2 .b (by decide)]

/-- What the row UNDERLAY_ENTRY does (R338). -/
theorem exec_underlayEntry : (∀ (s : State), s.up = true → (s.hf.pend = false → exec .underlayEntry s = .next s) ∧
    (s.hf.pend = true → ∃ t, exec .underlayEntry s = .next t ∧ t.hf.active = true ∧ t.hf.pend = false ∧ t.hf.course = s.clk.course + 1 ∧
      t.ce = { s.ce with handles := [], held := [], ctrs := [], moves := [], gangWait := [], closed := [] } ∧ t.clk = s.clk ∧ t.regs = s.regs ∧
      (∀ p ∈ s.portList, (t.port p).cq = [] ∧ (t.port p).tq = []) ∧ (∀ p, (t.port p).health = (s.port p).health ∧ (t.port p).xq = (s.port p).xq) ∧
      t.sq.start = none ∧ (s.sq.st = .running ∨ s.sq.st = .held → t.sq.st = .stopped ∧ t.sq.code = 4) ∧
      (∀ d, (t.servo d).st = if (s.servo d).st = .track then .hold else (s.servo d).st) ∧
      (s.isEave = true → t.od.stopped = true ∧ t.od.lends = [] ∧ t.od.fenced = [] ∧ t.od.remote = [] ∧ t.od.reads = []) ∧
      (s.isEave = false → t.od = s.od))) := by
  intro s hu
  have kk : exec .underlayEntry s = s.main fun s => s.underlayBoundary (s.clk.course + 1) := rfl
  rw [kk, State.main_up hu]
  unfold State.underlayBoundary
  refine ⟨fun h => by rw [if_neg (by rw [h]; decide)], fun h => ?_⟩
  rw [if_pos h]
  unfold State.underlayEnter
  dsimp +zetaHave only
  generalize hx0 : (({ s with hf := { s.hf with pend := false, active := true, course := s.clk.course + 1, exitAcc := false, wdog := none }, cp := { s.cp with fw := if s.cp.fw = .running then .rom else s.cp.fw } } : State).count HF_CNT_UL) = x0
  have a0 : x0.hf.active = true ∧ x0.hf.pend = false ∧ x0.hf.course = s.clk.course + 1 ∧ x0.ce = s.ce ∧ x0.clk = s.clk ∧ x0.regs = s.regs ∧ x0.ports = s.ports ∧ x0.ties = s.ties ∧ x0.sq = s.sq ∧ x0.td = s.td ∧ x0.od = s.od := by
    rw [← hx0]; exact ⟨rfl, rfl, rfl, rfl, rfl, rfl, rfl, rfl, rfl, rfl, rfl⟩
  obtain ⟨b1, b2, b3⟩ := seq_under x0
  generalize x0.seqUnderlay = x1 at b1 b2 b3
  have a1 : x1.hf.active = true ∧ x1.hf.pend = false ∧ x1.hf.course = s.clk.course + 1 ∧ x1.ce = s.ce ∧ x1.clk = s.clk ∧ x1.regs = s.regs ∧ x1.ports = s.ports ∧ x1.ties = s.ties ∧ x1.td = s.td ∧ x1.od = s.od := by
    rw [b3]; exact ⟨a0.1, a0.2.1, a0.2.2.1, a0.2.2.2.1, a0.2.2.2.2.1, a0.2.2.2.2.2.1, a0.2.2.2.2.2.2.1, a0.2.2.2.2.2.2.2.1, a0.2.2.2.2.2.2.2.2.2.1, a0.2.2.2.2.2.2.2.2.2.2⟩
  rw [a0.2.2.2.2.2.2.2.2.1] at b2
  clear b3 hx0 a0
  obtain ⟨c1, c2, c3, c4, c5, c6, c7, c8, c9, c10⟩ := a1
  -- the store stops
  have hst : ∃ x2, x2 = (if x1.isEave = true then x1.objStop else x1) ∧ x2.ul = x1.ul ∧ x2.uq = x1.uq ∧ x2.uz = x1.uz ∧
      (s.isEave = true → x2.od.stopped = true ∧ x2.od.lends = [] ∧ x2.od.fenced = [] ∧ x2.od.remote = [] ∧ x2.od.reads = []) ∧ (s.isEave = false → x2.od = s.od) := by
    have he : x1.isEave = s.isEave := by unfold State.isEave; rw [c8]
    rw [he]
    by_cases e : s.isEave = true
    · rw [if_pos e]
      exact ⟨_, rfl, State.objStop_ul _, State.objStop_uq _, State.objStop_uz _, fun _ => ⟨rfl, rfl, rfl, rfl, rfl⟩, fun h => absurd (e.symm.trans h) (by decide)⟩
    · rw [if_neg e]
      exact ⟨_, rfl, rfl, rfl, rfl, fun h => absurd h e, fun _ => c10⟩
  obtain ⟨x2, hx2, d1, d2, d3, d4, d5⟩ := hst
  rw [← hx2]
  clear hx2
  generalize hx3 : ({ x2 with ce := { x2.ce with handles := [], held := [], ctrs := [], moves := [], gangWait := [], closed := [] } } : State) = x3
  have a3 : x3 = { x2 with ce := x3.ce } ∧ x3.ce = { s.ce with handles := [], held := [], ctrs := [], moves := [], gangWait := [], closed := [] } := by
    rw [← hx3]; refine ⟨rfl, ?_⟩; show ({ x2.ce with handles := [], held := [], ctrs := [], moves := [], gangWait := [], closed := [] } : Coll) = _
    rw [(ul_parts d1).2.2.2.1, c4]
  have u3 : x3.hf.active = true ∧ x3.hf.pend = false ∧ x3.hf.course = s.clk.course + 1 ∧ x3.clk = s.clk ∧ x3.regs = s.regs ∧ x3.ports = s.ports ∧ x3.ties = s.ties ∧ x3.td = s.td ∧ x3.od = x2.od ∧ x3.sq = x1.sq := by
    obtain ⟨e1, e2, e3, _, e5, _, e7⟩ := ul_parts d1
    rw [a3.1]
    exact ⟨e1.trans c1, e2.trans c2, e3.trans c3, e5.trans c5, e7.trans c6, (uz_parts d3).1.trans c7, (uz_parts d3).2.trans c8, (uq_parts d2).2.trans c9, rfl, (uq_parts d2).1⟩
  clear hx3
  obtain ⟨_, a3⟩ := a3
  clear d1 d2 d3
  -- commands, shots
  generalize hx5 : x3.abortLong.abortShots 3 = x5
  have f1 : x5.ul = x3.ul := by rw [← hx5, State.abortShots_ul, State.abortLong_ul]
  have f2 : x5.uq = x3.uq := by rw [← hx5, State.abortShots_uq, State.abortLong_uq]
  have f3 : x5.uz = x3.uz := by rw [← hx5, State.abortShots_uz, State.abortLong_uz]
  have f4 : x5.uo = x3.uo := by rw [← hx5, State.abortShots_uo, State.abortLong_uo]
  have hpl : x5.portList = s.portList := by
    have := uz_parts f3
    unfold State.portList State.nPorts State.isEave State.isRidge
    rw [this.1, this.2, u3.2.2.2.2.2.1, u3.2.2.2.2.2.2.1]
  rw [hpl]
  obtain ⟨g1, g2⟩ := flush_all s.portList x5
  generalize hx6 : x5.each s.portList State.flushCT = x6 at g1 g2
  have h1 : x6.ul = x5.ul := by rw [← hx6]; exact State.each_ul _ _ _ fun s n => State.flushCT_ul s n
  have h2 : x6.uq = x5.uq := by rw [← hx6]; exact State.each_uq _ _ _ fun s n => State.flushCT_uq s n
  have h4 : x6.uo = x5.uo := by rw [← hx6]; exact State.each_uo _ _ _ fun s n => State.flushCT_uo s n
  obtain ⟨k1, k2⟩ := hold_all x6 (s.clk.course + 1)
  have l1 := State.underlayHold_ul x6 (s.clk.course + 1)
  have l3 := State.underlayHold_uz x6 (s.clk.course + 1)
  have l4 := State.underlayHold_uo x6 (s.clk.course + 1)
  generalize x6.underlayHold (s.clk.course + 1) = x7 at k1 k2 l1 l3 l4
  have gl : ∀ l, (x7.gangLose l).ul = x7.ul ∧ (x7.gangLose l).uq = x7.uq ∧ (x7.gangLose l).uz = x7.uz ∧ (x7.gangLose l).uo = x7.uo := by
    intro l
    unfold State.gangLose
    split
    · exact ⟨rfl, rfl, rfl, rfl⟩
    · unfold State.gangLost
      split <;> exact ⟨rfl, rfl, rfl, rfl⟩
  obtain ⟨m1, m2, m3, m4⟩ := gl [x7.ties.gangPos]
  generalize x7.gangLose [x7.ties.gangPos] = x8 at m1 m2 m3 m4
  have last : ∀ x9, x9 = (if x8.pw.st = .nap then x8.napWake else x8) → x9.ul = x8.ul ∧ x9.uq = x8.uq ∧ x9.uz = x8.uz ∧ x9.uo = x8.uo := by
    rintro x9 rfl
    split
    · exact ⟨State.napWake_ul _, State.napWake_uq _, State.napWake_uz _, State.napWake_uo _⟩
    · exact ⟨rfl, rfl, rfl, rfl⟩
  refine ⟨_, rfl, ?_⟩
  obtain ⟨n1, n2, n3, n4⟩ := last _ rfl
  generalize (if x8.pw.st = .nap then x8.napWake else x8) = x9 at n1 n2 n3 n4
  obtain ⟨p1, p2, p3, p4, p5, _, p7⟩ := ul_parts ((((n1.trans m1).trans l1).trans h1).trans f1)
  obtain ⟨q1, q2⟩ := uq_parts (n2.trans m2)
  obtain ⟨r1, r2⟩ := uz_parts ((n3.trans m3).trans l3)
  have t1 := uo_parts (((((n4.trans m4).trans l4).trans h4).trans f4))
  have prt : ∀ p, x9.port p = x6.port p := fun p => by unfold State.port; rw [r1]
  have p5' : ∀ p, x5.port p = s.port p := fun p => by unfold State.port; rw [(uz_parts f3).1, u3.2.2.2.2.2.1]
  have tsq : x9.sq = x1.sq := by rw [q1, k2, (uq_parts h2).1, (uq_parts f2).1, u3.2.2.2.2.2.2.2.2.2]
  have tsv : ∀ d, x6.servo d = s.servo d := fun d => by unfold State.servo; rw [(uq_parts h2).2, (uq_parts f2).2, u3.2.2.2.2.2.2.2.1]
  refine ⟨p1.trans u3.1, p2.trans u3.2.1, p3.trans u3.2.2.1, p4.trans a3, p5.trans u3.2.2.2.1, p7.trans u3.2.2.2.2.1, fun p hp => by rw [prt]; exact g1 p hp, fun p => ?_, ?_, ?_, fun d => ?_, ?_, ?_⟩
  · rw [prt, ← p5']; exact (g2 p).2
  · rw [tsq]; exact b1
  · rw [tsq]; exact b2
  · have : x9.servo d = x7.servo d := by unfold State.servo; rw [q2]
    rw [this, k1, tsv]
  · rw [t1, u3.2.2.2.2.2.2.2.2.1]; exact d4
  · rw [t1, u3.2.2.2.2.2.2.2.2.1]; exact d5

end Sys2Proof.Machine
end

