-- ==== Sys2Proof/Laws/RowsHost.lean ====
section
/-! SUPPORT. Sys2Proof/Laws/RowsHost.lean: the rows of the host port, the sideband and memory. -/

set_option linter.all false
set_option Elab.async false

namespace Sys2Proof.Machine
open Sys2Proof Sys2Proof.Config

/-- In service a wake event only marks the course busy. -/
theorem State.wakeServing {s : State} (h : s.Serving) (src arg : Nat) (r : Option HeldReq) : s.wake src arg r = s.busy := by
  unfold State.wake
  dsimp +zetaHave only
  have : s.busy.pw.st = .active := h.2
  rw [this]

theorem State.busy_touch (s : State) (m : Master) (off : Nat) :
    (if m = .cp then s else s.busy).touch m off = s.touch m off := by
  unfold State.touch
  by_cases h : m = .cp
  · simp only [if_pos h]
  · simp only [if_neg h]; rfl

theorem State.access_serving {s : State} (h : s.Serving) (m : Master) (off : Nat) (r : HeldReq) (f : State → State)
    (ha : alwaysOn off = false) : s.access m off r f = f (s.touch m off) := by
  unfold State.access
  simp only [State.wakeServing h, State.busy_touch]
  simp only [h.1, ha, h.asleep, ne_eq, not_true_eq_false, or_self, Bool.false_eq_true, if_false, ite_self, reduceCtorEq]

theorem State.doWrite_running (s : State) (h : s.ck.phase = .running) (m : Master) (off : Nat) (w : Bool) (v : Nat) :
    s.doWrite m off w v = s.regWrite m off w v := by
  unfold State.doWrite; simp [h]

theorem regWrite_misaligned (s : State) (m : Master) (off : Nat) (w : Bool) (v : Nat) (h : off % (if w then 8 else 4) ≠ 0) :
    s.regWrite m off w v = s ∧ s.regRead m off w = (s, 0) := by
  unfold State.regWrite State.regRead
  rw [if_pos h, if_pos h]; exact ⟨rfl, rfl⟩

theorem credit_back {s : State} (h1 : 1 ≤ s.cp.credits) (h2 : s.cp.credits ≤ 16) : min 16 (s.cp.credits - 1 + 1) = s.cp.credits := by omega

/-- The state with another number of credits. -/
def withCredits (s : State) (n : Nat) : State := { s with cp := { s.cp with credits := n } }

theorem openGate_credits (s : State) (k n : Nat) : (withCredits s n).openGate k = withCredits (s.openGate k) n := by
  unfold State.openGate
  dsimp +zetaHave only
  by_cases hc : s.gateStat &&& BitVec.ofNat 12 (2 ^ k) = BitVec.ofNat 12 (2 ^ k) ∨ s.gatesPresent &&& BitVec.ofNat 12 (2 ^ k) = 0
  · rw [if_pos hc, if_pos (show (withCredits s n).gateStat &&& _ = _ ∨ (withCredits s n).gatesPresent &&& _ = 0 from hc)]; rfl
  · rw [if_neg hc, if_neg (show ¬ ((withCredits s n).gateStat &&& _ = _ ∨ (withCredits s n).gatesPresent &&& _ = 0) from hc)]; rfl

/-- The credits play no part in what an access does beside itself. -/
theorem touch_credits (s : State) (m : Master) (off n : Nat) : (withCredits s n).touch m off = withCredits (s.touch m off) n := by
  have hg : ∀ (u : State) k, (withCredits u n).gateAccess k = withCredits (u.gateAccess k) n := by
    intro u k
    unfold State.gateAccess
    by_cases hc : u.gatesPresent.getLsbD k ∧ u.gateStat.getLsbD k = false
    · rw [if_pos hc, if_pos (show (withCredits u n).gatesPresent.getLsbD k ∧ (withCredits u n).gateStat.getLsbD k = false from hc)]
      exact openGate_credits (u.count CG_CNT_GATE_WAIT) k n
    · rw [if_neg hc, if_neg (show ¬ ((withCredits u n).gatesPresent.getLsbD k ∧ (withCredits u n).gateStat.getLsbD k = false) from hc)]
  unfold State.touch
  dsimp +zetaHave only
  have e0 : (if m = .cp then withCredits s n else (withCredits s n).busy) = withCredits (if m = .cp then s else s.busy) n := by
    split <;> rfl
  rw [e0]
  generalize (if m = .cp then s else s.busy) = u
  have e1 : (withCredits u n).gateOf off = u.gateOf off := rfl
  rw [e1]
  cases u.gateOf off with
  | none => rfl
  | some k => exact hg u k

theorem credits_same (s : State) (h : min 16 n = s.cp.credits) : ({ s with cp := { s.cp with credits := min 16 n } } : State) = s := by
  rw [h]

theorem touch_cp (s : State) (m : Master) (off : Nat) : (s.touch m off).cp = s.cp ∧ (s.touch m off).ck.phase = s.ck.phase := by
  obtain ⟨c, o, b, g, ht, _⟩ := s.touch_form m off
  rw [ht]; exact ⟨rfl, rfl⟩

/-- A request with its credit, in service: the credit returns. -/
theorem host_credit {s : State} (h2 : s.cp.hrst = false) (hp : s.ck.phase ≠ .held) (c1 : 1 ≤ s.cp.credits) (c2 : s.cp.credits ≤ 16)
    (u : State) (n : Nat) (hn : n = s.cp.credits - 1) (hu : u.cp = s.cp) :
    ({ withCredits u n with cp := { (withCredits u n).cp with credits := min 16 ((withCredits u n).cp.credits + 1) } } : State) = u := by
  have : min 16 (n + 1) = u.cp.credits := by rw [hu]; omega
  show ({ u with cp := { u.cp with credits := min 16 (n + 1) } } : State) = u
  rw [this]

/-- A request that passes parity: it waits behind what a sleep holds, or is performed. -/
theorem hostRequest_good (a : Access) (s : State) (h1 : s.ck.phase ≠ .held) (h3 : s.ck.phase ≠ .roleErr) (h2 : s.cp.hrst = false) :
    s.hostRequest a true = (if s.hostWaits then (withCredits s (s.cp.credits - 1)).holdBehind (.host a true)
      else (withCredits s (s.cp.credits - 1)).access .host (a.addr % 2 ^ 24) (.host a true) fun s => s.hostDo a) := by
  unfold State.hostRequest
  rw [if_neg (by simp [h1, h2, h3])]; rfl

/-- A request that fails parity: it waits behind what a sleep holds, or is answered with an error. -/
theorem hostRequest_bad (a : Access) (s : State) (h1 : s.ck.phase ≠ .held) (h3 : s.ck.phase ≠ .roleErr) (h2 : s.cp.hrst = false) :
    s.hostRequest a false = (if s.hostWaits then ((withCredits s (s.cp.credits - 1)).count GC_CNT_HPAR).holdBehind (.host a false)
      else ((withCredits s (s.cp.credits - 1)).count GC_CNT_HPAR).hostBad) := by
  unfold State.hostRequest
  rw [if_neg (by simp [h1, h2, h3])]; rfl

/-- What the row HOST_REQUEST does (R391). -/
theorem exec_hostRequest :
    (∀ (a : Access) (s : State), s.ck.phase ≠ .held → s.ck.phase ≠ .roleErr → s.cp.hrst = false → s.hostWaits = false →
      1 ≤ s.cp.credits → s.cp.credits ≤ 16 →
        exec (.hostRequest a false) s = .next ((s.count GC_CNT_HPAR).emit (.hostRsp 0 true))) := by
  intro a s h1 h3 h2 hw c1 c2
  have hx : exec (.hostRequest a false) s = .next (s.hostRequest a false) := rfl
  rw [hx]
  rw [hostRequest_bad a s h1 h3 h2, hw, if_neg (by decide)]
  unfold State.hostBad
  have e : min 16 (s.cp.credits - 1 + 1) = s.cp.credits := credit_back c1 c2
  show Host.Outcome.next (State.emit ({ s.count GC_CNT_HPAR with cp := { s.cp with credits := min 16 (s.cp.credits - 1 + 1) } } : State) _) = _
  rw [e]; rfl

/-- What the row HOST_REQUEST does behind an earlier request that a sleep holds (R391). -/
theorem exec_hostRequest_4 :
    (∀ (a : Access) (ok : Bool) (s : State), s.ck.phase ≠ .held → s.ck.phase ≠ .roleErr → s.cp.hrst = false → s.hostWaits = true →
      ∃ t, exec (.hostRequest a ok) s = .next t ∧ t.out = s.out ∧ t.cp.credits = s.cp.credits - 1 ∧ t.cnt = (if ok then s else s.count GC_CNT_HPAR).cnt ∧ t.still =
        ({ s with
          cp := { s.cp with credits := s.cp.credits - 1 }
          pw := { s.pw with
            held := if s.pw.late.any (fun w => w.req.isHost) then s.pw.held else s.pw.held ++ [.host a ok]
            late := if s.pw.late.any (fun w => w.req.isHost) then s.pw.late ++ [⟨1, 0, .host a ok⟩] else s.pw.late } } : State).still) := by
  intro a ok s h1 h3 h2 hw
  have hx : exec (.hostRequest a ok) s = .next (s.hostRequest a ok) := rfl
  rw [hx]
  refine ⟨_, rfl, ?_⟩
  cases ok
  all_goals first | rw [hostRequest_bad a s h1 h3 h2, if_pos hw] | rw [hostRequest_good a s h1 h3 h2, if_pos hw]
  all_goals
    unfold State.holdBehind
    simp only [show ∀ n, ((withCredits s n).count GC_CNT_HPAR).pw = s.pw from fun _ => rfl,
      show ∀ n, (withCredits s n).pw = s.pw from fun _ => rfl]
    by_cases hl : (s.pw.late.any fun w => w.req.isHost) = true
    · simp only [hl, if_true]; exact ⟨rfl, rfl, rfl, rfl⟩
    · simp only [hl]; exact ⟨rfl, rfl, rfl, rfl⟩

/-- What the row HOST_REQUEST does (R391). -/
theorem exec_hostRequest_2 :
    (∀ (a : Access) (s : State), s.Serving → s.cp.hrst = false → s.hostWaits = false → 1 ≤ s.cp.credits → s.cp.credits ≤ 16 →
      a.addr % 2 ^ 24 % (if a.wide then 8 else 4) ≠ 0 → ∃ t, exec (.hostRequest a true) s = .next t ∧
        t.out.head? = some (.hostRsp 0 false) ∧ t.still = s.still) := by
  intro a s h h2 hw c1 c2 hm
  have hh : s.ck.phase ≠ .held := by rw [h.1]; decide
  have hx : exec (.hostRequest a true) s = .next (s.hostRequest a true) := rfl
  rw [hx]
  refine ⟨_, rfl, ?_⟩
  rw [hostRequest_good a s hh (by rw [h.1]; decide) h2, hw, if_neg (by decide)]
  have key : ∀ u : State, u.cp = s.cp → (State.hostDo (withCredits u (s.cp.credits - 1)) a).out.head? = some (.hostRsp 0 false) ∧
      (State.hostDo (withCredits u (s.cp.credits - 1)) a).still = u.still := by
    intro u hu
    unfold State.hostDo
    dsimp +zetaHave only
    rw [host_credit h2 hh c1 c2 u _ rfl hu]
    split
    · unfold State.doWrite
      split
      · exact ⟨rfl, rfl⟩
      · split
        · rw [(regWrite_misaligned u _ _ _ _ hm).1]; exact ⟨rfl, rfl⟩
        · exact ⟨rfl, rfl⟩
    · rw [(regWrite_misaligned u .host _ _ 0 hm).2]
      refine ⟨?_, rfl⟩
      simp [State.emit]
  have hs' : (withCredits s (s.cp.credits - 1)).Serving := h
  show (State.access (withCredits s (s.cp.credits - 1)) .host (a.addr % 2 ^ 24) (.host a true) fun s => s.hostDo a).out.head? = _ ∧ _
  by_cases ha : alwaysOn (a.addr % 2 ^ 24) = true
  · have : (State.access (withCredits s (s.cp.credits - 1)) .host (a.addr % 2 ^ 24) (.host a true) fun s => s.hostDo a) =
        State.hostDo (withCredits s (s.cp.credits - 1)) a := by
      unfold State.access; rw [if_neg (by rw [hs'.1]; decide), if_pos (.inl ha)]
    exact this ▸ key s rfl
  · have : (State.access (withCredits s (s.cp.credits - 1)) .host (a.addr % 2 ^ 24) (.host a true) fun s => s.hostDo a) =
        State.hostDo (withCredits (s.touch .host (a.addr % 2 ^ 24)) (s.cp.credits - 1)) a := by
      rw [State.access_serving hs' _ _ _ _ (by simpa using ha), touch_credits]
    have k := key (s.touch .host (a.addr % 2 ^ 24)) (touch_cp s _ _).1
    rw [State.touch_still] at k
    exact this ▸ k

/-- What the row HOST_REQUEST does (R391). -/
theorem exec_hostRequest_3 :
    (∀ (a : Access) (s : State), s.Serving → s.cp.hrst = false → s.hostWaits = false → 1 ≤ s.cp.credits → s.cp.credits ≤ 16 →
      a.write = true →
      a.wide = true → alwaysOn (a.addr % 2 ^ 24) = false →
        exec (.hostRequest a true) s =
          .next (((s.touch .host (a.addr % 2 ^ 24)).regWrite .host (a.addr % 2 ^ 24) true a.data).emit (.hostRsp 0 false))) := by
  intro a s h h2 hw c1 c2 hwr hwd ha
  have hh : s.ck.phase ≠ .held := by rw [h.1]; decide
  have hx : exec (.hostRequest a true) s = .next (s.hostRequest a true) := rfl
  rw [hx]
  rw [hostRequest_good a s hh (by rw [h.1]; decide) h2, hw, if_neg (by decide)]
  have hs' : (withCredits s (s.cp.credits - 1)).Serving := h
  show Host.Outcome.next (State.access (withCredits s (s.cp.credits - 1)) .host (a.addr % 2 ^ 24) (.host a true) fun s => s.hostDo a) = _
  rw [State.access_serving hs' _ _ _ _ ha, touch_credits]
  unfold State.hostDo
  dsimp +zetaHave only
  rw [host_credit h2 hh c1 c2 _ _ rfl (touch_cp s _ _).1, hwr, if_pos rfl]
  rw [State.doWrite_running _ ((touch_cp s _ _).2.trans h.1), hwd]
  rfl

/-- What the row HOST_PORT_RESET does (R391). -/
theorem exec_hostPortReset :
    (∀ s : State, s.ck.phase ≠ .held → ∃ t, exec .hostPortReset s = .next t ∧ t.cp.hostDown = true ∧ t.cp.hrst = true ∧
      t.cp.credits = 0 ∧ t.cp.hostQ = s.cp.hostQ ∧ t.cp.run = s.cp.run ∧ t.cp.slots = s.cp.slots ∧
      (∀ a ok, HeldReq.host a ok ∉ t.pw.held) ∧ (s.cp.hostDown = false → t.irq = (s.raise 28).irq) ∧
      (s.cp.hostDown = true → t.irq = s.irq)) := by
  intro s h
  refine ⟨_, rfl, ?_⟩
  rw [if_neg h]
  unfold State.hostReset State.setHostDown
  dsimp +zetaHave only
  by_cases hd : s.cp.hostDown = true
  · simp [State.raiseIf, hd, HeldReq.isHost]
  · simp [State.raiseIf, hd, State.raise, HeldReq.isHost]

/-- What the row HOST_PORT_RESET_RELEASE does (R391). -/
theorem exec_hostPortResetRelease :
    (∀ s : State, s.ck.phase ≠ .held → s.cp.hrst = true →
      exec .hostPortResetRelease s = .next { s with cp := { s.cp with hrst := false, credits := 16 } }) := by
  intro s h1 h2
  simp [exec, execHostPortResetRelease, h1, h2]

/-- What the row HOST_HEARTBEAT_TIMEOUT does (R371). -/
theorem exec_hostHeartbeatTimeout :
    (∀ s : State, s.up = true → exec .hostHeartbeatTimeout s =
      .next (if s.rd CP_HB_TMO ≠ 0 ∧ s.cp.hbTick + s.rd CP_HB_TMO ≤ s.clk.ticks then
        ({ s with cp := { s.cp with hostDown := true } } : State).raiseIf (!s.cp.hostDown) 28 else s)) := by
  intro s h
  rw [exec, execHostHeartbeatTimeout, State.main_up h]
  unfold State.heartbeatTimeout State.setHostDown
  dsimp +zetaHave only
  congr 1
  have e : (s.rd CP_HB_TMO ≠ 0 ∧ s.cp.hbTick + s.rd CP_HB_TMO < s.clk.ticks + 1) =
      (s.rd CP_HB_TMO ≠ 0 ∧ s.cp.hbTick + s.rd CP_HB_TMO ≤ s.clk.ticks) := propext ⟨fun ⟨a, b⟩ => ⟨a, by omega⟩, fun ⟨a, b⟩ => ⟨a, by omega⟩⟩
  simp only [e]

/-- What the row CP_HOST_HB does (R371). -/
theorem exec_cpHostHb :
    (∀ s : State, s.Serving → s.cp.hrst = false →
      exec .cpHostHb s = .next { s.busy with cp := { s.cp with hbTick := s.clk.ticks, hostDown := false } }) := by
  intro s h h2
  rw [exec, execCpHostHb, State.write_serving h _ _ _ rfl (fun t => t.regWrite_A01C _ _), State.touch_none _ (by decide) _ (by rfl)]
  unfold State.putReg
  rw [State.rwReg_A01C]
  have : ∀ t : State, t.cp.hrst = false → t.putOther .host 0xA01C 1 = { t with cp := { t.cp with hbTick := t.clk.ticks, hostDown := false } } := by
    intro t ht
    show t.heartbeat .host = _
    unfold State.heartbeat
    simp [ht]
  rw [show (1 : Nat) % 2 ^ 32 = 1 from rfl]
  dsimp only
  rw [this s.busy h2]
  rfl

/-- A packet of the sideband changes nothing beside the gate it opens. -/
theorem sbGate_keep (s : State) : s.sbGate.cp = s.cp ∧ s.sbGate.ck.phase = s.ck.phase ∧ s.sbGate.still = s.still ∧
    s.sbGate.counter = s.counter := by
  unfold State.sbGate
  split
  · obtain ⟨o, g, h⟩ := State.openGate_form s 0
    rw [h]; exact ⟨rfl, rfl, rfl, rfl⟩
  · exact ⟨rfl, rfl, rfl, rfl⟩

/-- What the rows SB_REGISTER_WRITE, SB_REGISTER_READ do (R378). -/
theorem exec_sbRegisterWrite_sbRegisterRead :
    (∀ (off width v : Nat) (s : State), s.Serving → sbAccessOk off width = true → alwaysOn off = false →
      exec (.sbRegisterWrite off width v) s =
        .next (((s.touch .sideband off).sbGate.regWrite .sideband off (decide (width = 8)) v).emit (.sbAnswer 0x83 0 [])) ∧
      exec (.sbRegisterRead off width) s =
        .next (((s.touch .sideband off).sbGate.regRead .sideband off (decide (width = 8))).1.emit
          (.sbAnswer 0x82 0 [((s.touch .sideband off).sbGate.regRead .sideband off (decide (width = 8))).2]))) := by
  intro off width v s h hok ha
  have hr := (touch_cp s .sideband off).2.trans h.1
  constructor
  · rw [exec, execSbRegisterWrite, State.sbMessage, if_pos hok, State.access_serving h _ _ _ _ ha]
    unfold State.sbDo
    dsimp only
    rw [if_pos hok, State.doWrite_running _ ((sbGate_keep _).2.1.trans hr)]
  · rw [exec, execSbRegisterRead, State.sbMessage, if_pos hok, State.access_serving h _ _ _ _ ha]
    unfold State.sbDo
    dsimp +zetaHave only
    rw [if_pos hok]

/-- What the rows SB_REGISTER_WRITE, SB_REGISTER_READ do (R378). -/
theorem exec_sbRegisterWrite_sbRegisterRead_2 :
    (∀ (off width v : Nat) (s : State), s.ck.phase ≠ .held → sbAccessOk off width = false →
      exec (.sbRegisterWrite off width v) s = .next (s.sbGate.emit (.sbAnswer 0x83 1 [])) ∧
      exec (.sbRegisterRead off width) s = .next (s.sbGate.emit (.sbAnswer 0x82 1 [0]))) := by
  intro off width v s h hok
  constructor
  · simp [exec, execSbRegisterWrite, State.sbMessage, hok, h, State.sbDo]
  · simp [exec, execSbRegisterRead, State.sbMessage, hok, h, State.sbDo]

theorem setCmd_same (s : State) (k : Nat) (c : CmdSlot) (hs : c.st = .queued) : (s.setCmdSlot k c).cmdSlot k = c := by
  unfold State.setCmdSlot State.cmdSlot
  exact Map.get_set_ne _ _ _ _ (fun h => by rw [h] at hs; cases hs)

theorem setCmd_other (s : State) (k j : Nat) (c : CmdSlot) (h : j ≠ k) : (s.setCmdSlot k c).cmdSlot j = s.cmdSlot j := by
  unfold State.setCmdSlot State.cmdSlot; exact Map.get_set_other _ _ _ _ _ h

theorem queueSlot_same (s : State) (k : Nat) (c : CmdSlot) : (s.queueSlot k c).cmdSlot k = { c with st := .queued } := by
  unfold State.queueSlot
  dsimp +zetaHave only
  split
  · exact setCmd_same s k { c with st := .queued } rfl
  · exact setCmd_same s k { c with st := .queued } rfl

theorem queueSlot_other (s : State) (k j : Nat) (c : CmdSlot) (h : j ≠ k) : (s.queueSlot k c).cmdSlot j = s.cmdSlot j := by
  unfold State.queueSlot
  dsimp +zetaHave only
  split
  · exact setCmd_other s k j { c with st := .queued } h
  · exact setCmd_other s k j { c with st := .queued } h

theorem queueSlot_host (s : State) (k : Nat) (c : CmdSlot) (h : k < 16) :
    (s.queueSlot k c).cp.hostQ = s.cp.hostQ ++ [k] ∧ (s.queueSlot k c).cp.sbQ = s.cp.sbQ := by
  unfold State.queueSlot
  dsimp +zetaHave only
  rw [if_neg (by unfold sbSlot; simp; omega)]
  exact ⟨rfl, rfl⟩

theorem queueSlot_sb (s : State) (k : Nat) (c : CmdSlot) (h : 16 ≤ k) :
    (s.queueSlot k c).cp.sbQ = s.cp.sbQ ++ [k] ∧ (s.queueSlot k c).cp.hostQ = s.cp.hostQ := by
  unfold State.queueSlot
  dsimp +zetaHave only
  rw [if_pos (by unfold sbSlot; simp; omega)]
  exact ⟨rfl, rfl⟩

theorem openGate_cp (s : State) (k : Nat) : (s.openGate k).cp = s.cp := by
  obtain ⟨o, g, h⟩ := State.openGate_form s k
  rw [h]

/-- What the row SB_MCTP_CONTROL does (R377). -/
theorem exec_sbMctpControl :
    (∀ (cmd data : Nat) (s : State), s.Serving → ∃ t, exec (.sbMctpControl cmd data) s = .next t ∧ t.still =
        (if cmd = 1 then ({ s with cp := { s.cp with eid := some (data % 256) } } : State) else s).still ∧
      t.out = (match cmd with
        | 1 => .sbAnswer 1 0 [data % 256]
        | 2 => .sbAnswer 2 0 [s.cp.eid.getD 0]
        | 4 => .sbAnswer 4 0 []
        | 5 => .sbAnswer 5 0 [0x7F]
        | 6 => .sbAnswer 6 0 [s.cp.iana]
        | _ => .sbAnswer cmd 5 []) :: s.busy.sbGate.out) := by
  intro cmd data s h
  refine ⟨_, rfl, ?_⟩
  have : s.sbMessage (.control cmd data) = s.busy.sbGate.mctp cmd data := by
    simp [State.sbMessage, h.1, h.asleep, State.wakeServing h, State.sbDo]
  rw [this]
  obtain ⟨k1, _, k3, _⟩ := sbGate_keep s.busy
  have hcp : s.busy.sbGate.cp = s.cp := k1
  have hst : ∀ e : Option Nat, ({ s.busy.sbGate with cp := { s.cp with eid := e } } : State).still =
      ({ s with cp := { s.cp with eid := e } } : State).still := by
    intro e
    unfold State.sbGate
    split
    · obtain ⟨o, g, h⟩ := State.openGate_form s.busy 0
      rw [h]; rfl
    · rfl
  have hss : s.busy.sbGate.still = s.still := k3
  generalize s.busy.sbGate = u at *
  unfold State.mctp
  rw [hcp]
  split
  · exact ⟨hst _, rfl⟩
  · exact ⟨hss, rfl⟩
  · exact ⟨hss, rfl⟩
  · exact ⟨hss, rfl⟩
  · exact ⟨hss, rfl⟩
  · rename_i h1 _ _ _ _
    rw [if_neg h1]
    refine ⟨hss, ?_⟩
    first | rfl | (split <;> simp_all [State.emit])

/-- What the row SB_PACKET_BAD does (R377). -/
theorem exec_sbPacketBad :
    (∀ (pec : Bool) (s : State), s.ck.phase ≠ .held →
      exec (.sbPacketBad pec) s = .next (s.count (if pec then CP_CNT_SB_PEC else CP_CNT_SB_BAD))) := by
  intro pec s h
  simp [exec, execSbPacketBad, h]

/-- What the row SB_COMMAND_REQUEST does (R379). -/
theorem exec_sbCommandRequest :
    (∀ (words : List Nat) (s : State), s.Serving → (∀ k ∈ [16, 17, 18, 19], (s.cmdSlot k).st = .queued ∨ (s.cmdSlot k).st = .running) →
      ∃ t, exec (.sbCommandRequest words) s = .next t ∧ t.counter CP_CNT_SB_BUSY = (s.count CP_CNT_SB_BUSY).counter CP_CNT_SB_BUSY ∧
        t.still = s.still) := by
  intro words s h hb
  refine ⟨_, rfl, ?_⟩
  have e : s.sbMessage (.command words) = s.busy.sbGate.sbCommand words := by
    simp [State.sbMessage, h.1, h.asleep, State.wakeServing h, State.sbDo]
  rw [e]
  obtain ⟨k1, k2, k3, k4⟩ := sbGate_keep s.busy
  have hcp : s.busy.sbGate.cp = s.cp := k1
  have hph : s.busy.sbGate.ck.phase = .running := k2.trans h.1
  have hst : s.busy.sbGate.still = s.still := k3
  have hct : s.busy.sbGate.counter = s.counter := k4
  generalize s.busy.sbGate = u at *
  have hsl : ∀ k, u.cmdSlot k = s.cmdSlot k := by intro k; unfold State.cmdSlot; rw [hcp]
  unfold State.sbCommand
  dsimp +zetaHave only
  rw [if_neg (by rw [hph]; decide)]
  simp only [hsl]
  have hf : ([16, 17, 18, 19].find? fun k => decide ((s.cmdSlot k).st = .free ∨ (s.cmdSlot k).st = .done)) = none := by
    rw [List.find?_eq_none]
    intro k hk
    rcases hb k hk with h1 | h1 <;> simp [h1]
  rw [hf]
  refine ⟨?_, hst⟩
  dsimp only
  rw [count_same, count_same, show State.counter (u.slotless _ _) = u.counter from rfl, hct]

/-- What the row SB_COMMAND_REQUEST does (R379). -/
theorem exec_sbCommandRequest_2 :
    (∀ (words : List Nat) (s : State), s.Serving → ((s.cmdSlot 16).st = .free ∨ (s.cmdSlot 16).st = .done) →
      ∃ t, exec (.sbCommandRequest words) s = .next t ∧ (t.cmdSlot 16).st = .queued ∧
        (t.cmdSlot 16).header = words.headD 0 % 2 ^ 64 ∧ t.cp.sbQ = s.cp.sbQ ++ [16] ∧ t.cp.hostQ = s.cp.hostQ ∧
        ∀ k, k ≠ 16 → t.cmdSlot k = s.cmdSlot k) := by
  intro words s h h16
  refine ⟨_, rfl, ?_⟩
  have e : s.sbMessage (.command words) = s.busy.sbGate.sbCommand words := by
    simp [State.sbMessage, h.1, h.asleep, State.wakeServing h, State.sbDo]
  rw [e]
  obtain ⟨k1, k2, k3, k4⟩ := sbGate_keep s.busy
  have hcp : s.busy.sbGate.cp = s.cp := k1
  have hph : s.busy.sbGate.ck.phase = .running := k2.trans h.1
  have hst : s.busy.sbGate.still = s.still := k3
  have hct : s.busy.sbGate.counter = s.counter := k4
  generalize s.busy.sbGate = u at *
  have hsl : ∀ k, u.cmdSlot k = s.cmdSlot k := by intro k; unfold State.cmdSlot; rw [hcp]
  unfold State.sbCommand
  dsimp +zetaHave only
  rw [if_neg (by rw [hph]; decide)]
  simp only [hsl]
  have hf : ([16, 17, 18, 19].find? fun k => decide ((s.cmdSlot k).st = .free ∨ (s.cmdSlot k).st = .done)) = some 16 := by
    simp only [List.find?, decide_eq_true h16]
  rw [hf]
  dsimp only
  have hcp : (u.busy.openGate 0).cp = s.cp := (openGate_cp _ _).trans hcp
  generalize u.busy.openGate 0 = u at *
  have e1 := fun c => queueSlot_sb u 16 c (by decide)
  refine ⟨?_, ?_, ?_, ?_, ?_⟩
  · rw [queueSlot_same]
  · rw [queueSlot_same]
  · rw [(e1 _).1, hcp]
  · rw [(e1 _).2, hcp]
  · intro k hk
    rw [queueSlot_other _ _ _ _ hk]
    unfold State.cmdSlot; rw [hcp]

theorem slot_write (s : State) (k h : Nat) (hk : k < 16) (hh : h < 2 ^ 64) (off : Nat) (ho : slotAt off = some (k, 0)) (h8 : off % 8 = 0) (hl : off < 0x10000) :
    s.regWrite .host off true h = s.slotWrite k 0 h true := by
  unfold State.regWrite
  rw [if_neg (by simp [h8]), if_neg (by omega), if_neg (by omega), ho]

theorem slot_off (k : Nat) (hk : k < 16) (h : Nat) (s : State) :
    exec (.commandHandover k h) s = .next (s.writeBy .host (if k < 12 then 0xA400 + k * 0x100 else 0xF000 + (k - 12) * 0x100) true h) ∧
    slotAt (if k < 12 then 0xA400 + k * 0x100 else 0xF000 + (k - 12) * 0x100) = some (k, 0) := by
  by_cases h1 : k < 12
  · simp only [exec, execCommandHandover, h1, if_true, true_and]
    have e1 : (0xA400 + k * 0x100 - 0xA400) / 256 = k := by omega
    have e2 : (0xA400 + k * 0x100 - 0xA400) % 256 = 0 := by omega
    unfold slotAt; rw [if_pos (by omega), e1, e2]
  · simp only [exec, execCommandHandover, h1, if_false, hk, if_true, true_and]
    have e1 : 12 + (0xF000 + (k - 12) * 0x100 - 0xF000) / 256 = k := by omega
    have e2 : (0xF000 + (k - 12) * 0x100 - 0xF000) % 256 = 0 := by omega
    unfold slotAt; rw [if_neg (by omega), if_pos (by omega), e1, e2]

theorem slot_touch (s : State) (k : Nat) (hk : k < 16) :
    s.touch .host (if k < 12 then 0xA400 + k * 0x100 else 0xF000 + (k - 12) * 0x100) = s.busy := by
  apply State.touch_none _ (by decide)
  unfold State.gateOf
  rw [State.portAt_low _ _ (by split <;> omega)]
  dsimp only
  rw [if_neg (by split <;> omega), if_neg (by split <;> omega)]
  have : (if k < 12 then 0xA400 + k * 0x100 else 0xF000 + (k - 12) * 0x100) / 0x1000 = 10 ∨
      (if k < 12 then 0xA400 + k * 0x100 else 0xF000 + (k - 12) * 0x100) / 0x1000 = 15 := by split <;> omega
  rcases this with h | h <;> rw [h] <;> rfl

/-- What the row COMMAND_HANDOVER does (R361). -/
theorem exec_commandHandover :
    (∀ (k h : Nat) (s : State), s.Serving → k < 16 → h < 2 ^ 64 → ((s.cmdSlot k).st = .free ∨ (s.cmdSlot k).st = .done) →
      ∃ t, exec (.commandHandover k h) s = .next t ∧ t.cmdSlot k = { s.cmdSlot k with st := .queued, header := h } ∧
        t.cp.hostQ = s.cp.hostQ ++ [k] ∧ t.cp.sbQ = s.cp.sbQ ∧ ∀ j, j ≠ k → t.cmdSlot j = s.cmdSlot j) := by
  intro k h s hs hk hh hst
  obtain ⟨h1, h2⟩ := slot_off k hk h s
  rw [h1]
  refine ⟨_, rfl, ?_⟩
  have ha : alwaysOn (if k < 12 then 0xA400 + k * 0x100 else 0xF000 + (k - 12) * 0x100) = false := by
    unfold alwaysOn; simp; split <;> omega
  rw [State.writeBy_serving hs _ _ _ _ ha, slot_touch s k hk, slot_write _ k h hk hh _ h2 (by split <;> omega) (by split <;> omega)]
  unfold State.slotWrite
  dsimp +zetaHave only
  have hc : s.busy.cmdSlot k = s.cmdSlot k := rfl
  rw [hc, if_neg (by rcases hst with h | h <;> simp [h]), if_pos (by decide), if_pos rfl]
  have hcp : (s.busy.busy.openGate 0).cp = s.cp := openGate_cp _ _
  generalize s.busy.busy.openGate 0 = u at *
  refine ⟨?_, ?_, ?_, ?_⟩
  · rw [queueSlot_same, Nat.mod_eq_of_lt hh]
  · rw [(queueSlot_host u k _ hk).1, hcp]
  · rw [(queueSlot_host u k _ hk).2, hcp]
  · intro j hj
    rw [queueSlot_other _ _ _ _ hj]
    unfold State.cmdSlot; rw [hcp]

/-- What the row COMMAND_HANDOVER does (R361). -/
theorem exec_commandHandover_2 :
    (∀ (k h : Nat) (s : State), s.Serving → k < 16 → ((s.cmdSlot k).st = .queued ∨ (s.cmdSlot k).st = .running) →
      exec (.commandHandover k h) s = .next (s.busy.count CP_CNT_IGN)) := by
  intro k h s hs hk hst
  obtain ⟨h1, h2⟩ := slot_off k hk h s
  rw [h1]
  have ha : alwaysOn (if k < 12 then 0xA400 + k * 0x100 else 0xF000 + (k - 12) * 0x100) = false := by
    unfold alwaysOn; simp; split <;> omega
  rw [State.writeBy_serving hs _ _ _ _ ha, slot_touch s k hk]
  have : s.busy.regWrite .host (if k < 12 then 0xA400 + k * 0x100 else 0xF000 + (k - 12) * 0x100) true h = s.busy.slotWrite k 0 h true := by
    unfold State.regWrite
    rw [if_neg (by simp; split <;> omega), if_neg (by split <;> omega), if_neg (by split <;> omega), h2]
  rw [this]
  unfold State.slotWrite
  dsimp +zetaHave only
  have hc : s.busy.cmdSlot k = s.cmdSlot k := rfl
  rw [hc, if_pos hst]

theorem digits_lt (f : Nat → Nat) (hf : ∀ i, f i < 4) (n : Nat) :
    (List.range n).foldl (fun acc i => acc + f i * 4 ^ i) 0 < 4 ^ n := by
  induction n with
  | zero => simp
  | succ n ih =>
    rw [List.range_succ, List.foldl_append]
    simp only [List.foldl_cons, List.foldl_nil]
    have h1 := hf n
    have h2 : f n * 4 ^ n ≤ 3 * 4 ^ n := Nat.mul_le_mul_right _ (by omega)
    rw [Nat.pow_succ]; omega

theorem digits_get (f : Nat → Nat) (hf : ∀ i, f i < 4) (n g : Nat) (hg : g < n) :
    (List.range n).foldl (fun acc i => acc + f i * 4 ^ i) 0 / 4 ^ g % 4 = f g := by
  induction n with
  | zero => omega
  | succ n ih =>
    rw [List.range_succ, List.foldl_append]
    simp only [List.foldl_cons, List.foldl_nil]
    have hl := digits_lt f hf n
    by_cases h : g = n
    · subst h
      rw [Nat.add_mul_div_right _ _ (Nat.pow_pos (by decide)), Nat.div_eq_of_lt hl, Nat.zero_add, Nat.mod_eq_of_lt (hf g)]
    · have hg' : g < n := by omega
      have e : f n * 4 ^ n = (f n * 4 ^ (n - g - 1) * 4) * 4 ^ g := by
        have : 4 ^ n = 4 ^ (n - g - 1) * 4 * 4 ^ g := by
          rw [← Nat.pow_succ, ← Nat.pow_add]; congr 1; omega
        rw [this]; simp [Nat.mul_assoc]
      rw [e, Nat.add_mul_div_right _ _ (Nat.pow_pos (by decide)), Nat.add_mul_mod_self_right]
      exact ih hg'

theorem field_lt4 (v g : Nat) : field v (2 * g) 2 < 4 := by unfold field; omega

theorem ownWrite_field (s : State) (m : Master) (v g : Nat) (hg : g < 11) :
    field ((s.ownWrite m v).rd CP_OWN) (2 * g) 2 =
      (if m ≠ .sideband ∨ s.cp.hostDown = true ∨ field (s.rd CP_OWN) (2 * g) 2 ≠ 1 then field v (2 * g) 2
       else field (s.rd CP_OWN) (2 * g) 2) := by
  unfold State.ownWrite
  dsimp +zetaHave only
  rw [State.rd_wr _ _ _ (by decide)]
  generalize hf : (fun i => field (if (decide (m ≠ .sideband) || s.cp.hostDown || decide (field (s.rd CP_OWN) (2 * i) 2 ≠ 1)) = true then v else s.rd CP_OWN) (2 * i) 2) = f
  have hlt : ∀ i, f i < 4 := by intro i; rw [← hf]; exact field_lt4 _ _
  have e : (List.range 11).foldl (fun acc i => acc + field (if (decide (m ≠ .sideband) || s.cp.hostDown || decide (field (s.rd CP_OWN) (2 * i) 2 ≠ 1)) = true then v else s.rd CP_OWN) (2 * i) 2 * 4 ^ i) 0 =
      (List.range 11).foldl (fun acc i => acc + f i * 4 ^ i) 0 := by rw [← hf]
  rw [e]
  have h1 := digits_lt f hlt 11
  have h2 := digits_get f hlt 11 g hg
  have hm : CP_OWN.mask = 2 ^ 22 - 1 := by decide
  rw [hm, Nat.and_two_pow_sub_one_eq_mod, Nat.mod_eq_of_lt (by simpa using h1)]
  have fe : ∀ x, field x (2 * g) 2 = x / 4 ^ g % 4 := by
    intro x; unfold field; rw [Nat.shiftRight_eq_div_pow, Nat.pow_mul] <;> rfl
  rw [fe, h2, ← hf]
  simp only [Bool.or_eq_true, decide_eq_true_eq]
  by_cases c : (m ≠ .sideband ∨ s.cp.hostDown = true) ∨ field (s.rd CP_OWN) (2 * g) 2 ≠ 1
  · rw [if_pos c, if_pos (by rcases c with (c | c) | c; exact .inl c; exact .inr (.inl c); exact .inr (.inr c))]
  · rw [if_neg c, if_neg (fun h => c (by rcases h with h | h | h; exact .inl (.inl h); exact .inl (.inr h); exact .inr h))]

/-- What the row CP_OWN_WRITE does (R370). -/
theorem exec_cpOwnWrite :
    (∀ (m : Master) (v g : Nat) (s : State), s.Serving → g < 11 → v < 2 ^ 32 → ∃ t, exec (.cpOwnWrite m v) s = .next t ∧
      field (t.rd CP_OWN) (2 * g) 2 =
        (if m ≠ .sideband ∨ s.cp.hostDown = true ∨ field (s.rd CP_OWN) (2 * g) 2 ≠ 1 then field v (2 * g) 2
         else field (s.rd CP_OWN) (2 * g) 2)) := by
  intro m v g s h hg hv
  refine ⟨_, rfl, ?_⟩
  rw [show CP_OWN.off = 0xA018 from rfl, State.write_serving h m _ _ rfl (fun t => t.regWrite_A018 _ _), Nat.mod_eq_of_lt hv]
  obtain ⟨c, o, b, gg, ht, _⟩ := s.touch_form m 0xA018
  have e : (s.touch m 0xA018).putReg m 0xA018 v = (s.touch m 0xA018).ownWrite m v := by
    unfold State.putReg; rw [State.rwReg_A018]; rfl
  rw [e, ownWrite_field _ _ _ _ hg, ht]
  rfl

/-- What the row RING_ENABLE does (R364). -/
theorem exec_ringEnable :
    (∀ (v : Nat) (s : State), s.Serving → v < 2 ^ 32 → bitOf v 31 = true → s.ringOn = false →
      ∃ t, exec (.ringEnable v) s = .next t ∧ t.cp.ringWr = 0 ∧ t.rd CP_RING_RD = 0 ∧ t.rd CP_RING_CFG = v &&& CP_RING_CFG.mask) := by
  intro v s h hv hb hr
  refine ⟨_, rfl, ?_⟩
  rw [show CP_RING_CFG.off = 0xA030 from rfl, State.write_serving h _ _ _ rfl (fun t => t.regWrite_A030 _ _), Nat.mod_eq_of_lt hv,
    State.touch_none _ (by decide) _ (by rfl)]
  have e : s.busy.putReg .host 0xA030 v = s.busy.ringCfgWrite v := by
    unfold State.putReg; rw [State.rwReg_A030]; rfl
  have h1 := State.rd_wr s.busy CP_RING_CFG v (by decide)
  have h2 : (s.busy.wr CP_RING_CFG v).ringOn = true := by
    unfold State.ringOn State.bit; rw [h1]
    unfold bitOf at *
    simp [CP_RING_CFG, hb]
    decide
  rw [e]
  unfold State.ringCfgWrite
  dsimp +zetaHave only
  rw [if_pos ⟨hr, h2⟩]
  exact ⟨rfl, (State.rd_wr _ CP_RING_RD 0 (by decide)).trans rfl, (State.rd_wr_other _ CP_RING_RD CP_RING_CFG 0 (by decide)).trans h1⟩

/-- What the row RING_ENABLE does (R364). -/
theorem exec_ringEnable_2 :
    (∀ (v : Nat) (s : State), s.Serving → v < 2 ^ 32 → (bitOf v 31 = false ∨ s.ringOn = true) →
      exec (.ringEnable v) s = .next (s.busy.wr CP_RING_CFG v)) := by
  intro v s h hv hb
  rw [exec, execRingEnable, show CP_RING_CFG.off = 0xA030 from rfl, State.write_serving h _ _ _ rfl (fun t => t.regWrite_A030 _ _),
    Nat.mod_eq_of_lt hv, State.touch_none _ (by decide) _ (by rfl)]
  have e : s.busy.putReg .host 0xA030 v = s.busy.ringCfgWrite v := by
    unfold State.putReg; rw [State.rwReg_A030]; rfl
  have h1 := State.rd_wr s.busy CP_RING_CFG v (by decide)
  have h2 : (s.busy.wr CP_RING_CFG v).ringOn = bitOf v 31 := by
    unfold State.ringOn State.bit; rw [h1]
    unfold bitOf
    simp [CP_RING_CFG]
    intro _; decide
  rw [e]
  unfold State.ringCfgWrite
  dsimp +zetaHave only
  rw [if_neg]
  intro ⟨hr, hn⟩
  rw [h2] at hn
  rcases hb with hb | hb
  · rw [hb] at hn; cases hn
  · have hr : s.ringOn = false := hr
    rw [hb] at hr; cases hr

/-- What the row GC_IRQ_SET does (R398). -/
theorem exec_gcIrqSet :
    (∀ (v : Nat) (s : State), s.ck.phase ≠ .held → v < 2 ^ 32 →
      exec (.gcIrqSet v) s = .next (if bitOf v 31 then s.raise 31 else s)) := by
  intro v s h hv
  rw [exec, execGcIrqSet]
  have : s.writeBy .host 0x001C false v = s.regWrite .host 0x001C false v := by
    unfold State.writeBy State.access State.doWrite
    rw [if_neg h]
    simp [alwaysOn]
  rw [this, State.regWrite_001C, Nat.mod_eq_of_lt hv]
  unfold State.putReg
  rw [State.rwReg_001C]
  show Host.Outcome.next (s.raiseIf (bitOf v 31) 31) = _
  unfold State.raiseIf
  rfl

/-- What the row MEMORY_READ_RESPONSE does (R393). -/
theorem exec_memoryReadResponse :
    (∀ (id : Nat) (bytes : List Nat) (q : MemReq) (s : State), s.up = true → (s.mm.reads.find? fun r => r.id = id) = some q →
      q.got.length + bytes.length < 16 * q.beats → exec (.memoryReadResponse id bytes false) s =
        .next { s with mm := { s.mm with reads := s.mm.reads.map fun r => if r.id = id then { q with got := q.got ++ bytes } else r } }) := by
  intro id bytes q s h hf hl
  rw [exec, execMemoryReadResponse, State.main_up h]
  unfold State.readBeats
  rw [hf]
  dsimp +zetaHave only
  rw [if_neg (by simp; omega)]

/-- What the row MEMORY_WRITE_ACK does (R393). -/
theorem exec_memoryWriteAck :
    (∀ (id : Nat) (q : MemReq) (s : State), s.up = true → s.mm.waitR = [] → s.mm.waitW = [] →
      (s.mm.writes.find? fun r => r.id = id) = some q → (∀ k, q.use ≠ .ring k) →
      exec (.memoryWriteAck id false) s = .next { s with mm := { s.mm with writes := s.mm.writes.filter fun r => r.id ≠ id } } ∧
      exec (.memoryWriteAck id true) s =
        .next ((({ s with mm := { s.mm with writes := s.mm.writes.filter fun r => r.id ≠ id } } : State).count GC_CNT_MERR).raise 27)) := by
  intro id q s h h1 h2 hf hu
  have hid : q.id = id := by have := List.find?_some hf; simpa using this
  have hp : ∀ (l : List MemReq), State.memPump ({ s with mm := { s.mm with writes := l } } : State) = ({ s with mm := { s.mm with writes := l } } : State) := by
    intro l; unfold State.memPump; dsimp +zetaHave only; rw [h1]; dsimp only; rw [h2]
  constructor
  · rw [exec, execMemoryWriteAck, State.main_up h, hf]
    dsimp only
    unfold State.writeEnds
    dsimp +zetaHave only
    rw [hp, if_neg (by decide), hid]
    split
    · rename_i k hk; exact absurd hk (hu k)
    · rfl
  · rw [exec, execMemoryWriteAck, State.main_up h, hf]
    dsimp only
    unfold State.writeEnds
    dsimp +zetaHave only
    rw [hp, if_pos rfl, hid]
    split
    · rename_i k hk; exact absurd hk (hu k)
    · rfl

/-- What the row MEMORY_TIMEOUT does (R393). -/
theorem exec_memoryTimeout :
    (∀ s : State, s.up = true → (∀ q ∈ s.mm.reads, s.clk.ticks ≤ q.tick + 1023) → (∀ q ∈ s.mm.writes, s.clk.ticks ≤ q.tick + 1023) →
      exec .memoryTimeout s = .next s) := by
  intro s h h1 h2
  rw [exec, execMemoryTimeout, State.main_up h]
  unfold State.memTimeouts
  dsimp +zetaHave only
  have e1 : s.mm.reads.filter (fun q => decide (q.tick + 1024 < s.clk.ticks + 1)) = [] := by
    rw [List.filter_eq_nil_iff]; intro q hq; have := h1 q hq; simp; omega
  have e2 : s.mm.writes.filter (fun q => decide (q.tick + 1024 < s.clk.ticks + 1)) = [] := by
    rw [List.filter_eq_nil_iff]; intro q hq; have := h2 q hq; simp; omega
  rw [e1]
  simp only [List.foldl_nil]
  rw [e2]; rfl

/-- What the row MEMORY_TIMEOUT does (R393). -/
theorem exec_memoryTimeout_2 :
    (∀ (q : MemReq) (s : State), s.up = true → s.mm.waitR = [] → s.mm.waitW = [] → s.mm.reads = [] → s.mm.writes = [q] → q.use = .log →
      q.tick + 1024 ≤ s.clk.ticks →
      exec .memoryTimeout s = .next ((({ s with mm := { s.mm with writes := [] } } : State).count GC_CNT_MERR).raise 27)) := by
  intro q s h h1 h2 h3 h4 hu ht
  rw [exec, execMemoryTimeout, State.main_up h]
  unfold State.memTimeouts
  dsimp +zetaHave only
  rw [h3]
  simp only [List.filter_nil, List.foldl_nil]
  rw [h4]
  have e : [q].filter (fun q => decide (q.tick + 1024 < s.clk.ticks + 1)) = [q] := by
    rw [List.filter_cons_of_pos (by simp; omega)]; rfl
  rw [e]
  simp only [List.foldl_cons, List.foldl_nil]
  unfold State.writeEnds
  dsimp +zetaHave only
  rw [h4]
  have ef : [q].filter (fun x => decide (x.id ≠ q.id)) = [] := by simp
  rw [ef, if_pos rfl, hu]
  have hp : State.memPump ({ s with mm := { s.mm with writes := [] } } : State) = ({ s with mm := { s.mm with writes := [] } } : State) := by
    unfold State.memPump; dsimp +zetaHave only; rw [h1]; dsimp only; rw [h2]
  rw [hp]
  simp only [h3]

end Sys2Proof.Machine
end

