-- ==== Sys2Proof/Laws/SeqKeep.lean ====
section
/-! SUPPORT. Sys2Proof/Laws/SeqKeep.lean: the sending of a contribution leaves the sequencer as it is. -/

set_option linter.all false
set_option Elab.async false

namespace Sys2Proof.Machine
open Sys2Proof.Config

/-- The sequencer. -/
def State.seqk (s : State) := s.sq
theorem State.seqk_mk (ties ck clk td rs regs cnt irq ports root home topo ce od hf pw gang im bt sq ev mm cp did logWr out free pending) :
    (State.mk ties ck clk td rs regs cnt irq ports root home topo ce od hf pw gang im bt sq ev mm cp did logWr out free pending).seqk = sq := (rfl)
theorem State.seqk_eta (s : State) : s.sq = s.seqk := (rfl)
theorem State.foldl_seqk {α : Type} (s : State) (l : List α) (f : State → α → State) (h : ∀ s a, (f s a).seqk = s.seqk) :
    (l.foldl f s).seqk = s.seqk := by
  induction l generalizing s with
  | nil => rfl
  | cons a l ih => simp [List.foldl, ih, h]
theorem State.each_seqk (s : State) (l : List Nat) (f : State → Nat → State) (h : ∀ s n, (f s n).seqk = s.seqk) :
    (s.each l f).seqk = s.seqk := State.foldl_seqk s l f h
theorem State.foldl_fst_seqk {α β : Type} (a : State × α) (l : List β) (f : State × α → β → State × α)
    (h : ∀ a b, (f a b).1.seqk = a.1.seqk) : (l.foldl f a).1.seqk = a.1.seqk := by
  induction l generalizing a with
  | nil => rfl
  | cons b l ih => simp [List.foldl, ih, h]

theorem State.count_seqk (s : State) (off : Nat) (k : Nat) : (State.count s off k).seqk = s.seqk := by
  unfold State.count
  repeat' (first
    | with_reducible rfl
    | (simp +zetaHave only [State.seqk_mk, State.seqk_eta, apply_ite State.seqk, apply_ite Prod.fst, ite_self, implies_true]; done)
    | split
    | intro _
    | (dsimp +zetaHave only))

theorem State.raise_seqk (s : State) (k : Nat) : (State.raise s k).seqk = s.seqk := by
  unfold State.raise
  repeat' (first
    | with_reducible rfl
    | (simp +zetaHave only [State.seqk_mk, State.seqk_eta, apply_ite State.seqk, apply_ite Prod.fst, ite_self, implies_true]; done)
    | split
    | intro _
    | (dsimp +zetaHave only))

theorem State.emit_seqk (s : State) (o : Output) : (State.emit s o).seqk = s.seqk := by
  unfold State.emit
  repeat' (first
    | with_reducible rfl
    | (simp +zetaHave only [State.seqk_mk, State.seqk_eta, apply_ite State.seqk, apply_ite Prod.fst, ite_self, implies_true]; done)
    | split
    | intro _
    | (dsimp +zetaHave only))

theorem State.evt_seqk (s : State) (line : Nat) (k : Nat) : (State.evt s line k).seqk = s.seqk := by
  unfold State.evt
  repeat' (first
    | with_reducible rfl
    | (simp +zetaHave only [State.seqk_mk, State.seqk_eta, apply_ite State.seqk, apply_ite Prod.fst, ite_self, implies_true,
        State.count_seqk, State.emit_seqk]; done)
    | split
    | intro _
    | (dsimp +zetaHave only))

theorem State.openGate_seqk (s : State) (k : Nat) : (State.openGate s k).seqk = s.seqk := by
  unfold State.openGate
  repeat' (first
    | with_reducible rfl
    | (simp +zetaHave only [State.seqk_mk, State.seqk_eta, apply_ite State.seqk, apply_ite Prod.fst, ite_self, implies_true,
        State.evt_seqk]; done)
    | split
    | intro _
    | (dsimp +zetaHave only))

theorem State.busy_seqk (s : State) : (State.busy s).seqk = s.seqk := by
  unfold State.busy
  repeat' (first
    | with_reducible rfl
    | (simp +zetaHave only [State.seqk_mk, State.seqk_eta, apply_ite State.seqk, apply_ite Prod.fst, ite_self, implies_true]; done)
    | split
    | intro _
    | (dsimp +zetaHave only))

theorem State.setPort_seqk (s : State) (p : Nat) (v : Port) : (State.setPort s p v).seqk = s.seqk := by
  unfold State.setPort
  repeat' (first
    | with_reducible rfl
    | (simp +zetaHave only [State.seqk_mk, State.seqk_eta, apply_ite State.seqk, apply_ite Prod.fst, ite_self, implies_true]; done)
    | split
    | intro _
    | (dsimp +zetaHave only))

theorem State.xsend_seqk (s : State) (p : Nat) (b : Body) : (State.xsend s p b).seqk = s.seqk := by
  unfold State.xsend
  repeat' (first
    | with_reducible rfl
    | (simp +zetaHave only [State.seqk_mk, State.seqk_eta, apply_ite State.seqk, apply_ite Prod.fst, ite_self, implies_true,
        State.count_seqk, State.openGate_seqk, State.setPort_seqk]; done)
    | split
    | intro _
    | (dsimp +zetaHave only))

theorem State.xsendAll_seqk (s : State) (ps : List Nat) (b : Body) : (State.xsendAll s ps b).seqk = s.seqk := by
  unfold State.xsendAll
  repeat' (first
    | with_reducible rfl
    | (simp +zetaHave only [State.seqk_mk, State.seqk_eta, apply_ite State.seqk, apply_ite Prod.fst, ite_self, implies_true,
        State.each_seqk, State.xsend_seqk]; done)
    | split
    | intro _
    | (dsimp +zetaHave only)
    | refine (State.each_seqk _ _ _ ?_).trans ?_)

theorem State.noteAbort_seqk (s : State) (m : CollAbort) : (State.noteAbort s m).seqk = s.seqk := by
  unfold State.noteAbort
  repeat' (first
    | with_reducible rfl
    | (simp +zetaHave only [State.seqk_mk, State.seqk_eta, apply_ite State.seqk, apply_ite Prod.fst, ite_self, implies_true]; done)
    | split
    | intro _
    | (dsimp +zetaHave only))

theorem State.dropCtrs_seqk (s : State) (cid : Nat) (isn : Nat) (upto : Nat) : (State.dropCtrs s cid isn upto).seqk = s.seqk := by
  unfold State.dropCtrs
  repeat' (first
    | with_reducible rfl
    | (simp +zetaHave only [State.seqk_mk, State.seqk_eta, apply_ite State.seqk, apply_ite Prod.fst, ite_self, implies_true]; done)
    | split
    | intro _
    | (dsimp +zetaHave only))

theorem State.dropMoves_seqk (s : State) (cid : Nat) (isn : Nat) : (State.dropMoves s cid isn).seqk = s.seqk := by
  unfold State.dropMoves
  repeat' (first
    | with_reducible rfl
    | (simp +zetaHave only [State.seqk_mk, State.seqk_eta, apply_ite State.seqk, apply_ite Prod.fst, ite_self, implies_true]; done)
    | split
    | intro _
    | (dsimp +zetaHave only))

theorem State.toMembers_seqk (s : State) (m : GangMsg) : (State.toMembers s m).seqk = s.seqk := by
  unfold State.toMembers
  repeat' (first
    | with_reducible rfl
    | (simp +zetaHave only [State.seqk_mk, State.seqk_eta, apply_ite State.seqk, apply_ite Prod.fst, ite_self, implies_true,
        State.emit_seqk]; done)
    | split
    | intro _
    | (dsimp +zetaHave only))

theorem State.close_seqk (s : State) (cid : Nat) (isn : Nat) : (State.close s cid isn).seqk = s.seqk := by
  unfold State.close
  repeat' (first
    | with_reducible rfl
    | (simp +zetaHave only [State.seqk_mk, State.seqk_eta, apply_ite State.seqk, apply_ite Prod.fst, ite_self, implies_true]; done)
    | split
    | intro _
    | (dsimp +zetaHave only))

theorem State.rootAbort_seqk (s : State) (cid : Nat) (isn : Nat) (attempt : Nat) (reason : Nat) (o : Origin) : (State.rootAbort s cid isn attempt reason o).seqk = s.seqk := by
  unfold State.rootAbort
  repeat' (first
    | with_reducible rfl
    | (simp +zetaHave only [State.seqk_mk, State.seqk_eta, apply_ite State.seqk, apply_ite Prod.fst, ite_self, implies_true,
        State.count_seqk, State.raise_seqk, State.evt_seqk, State.xsendAll_seqk, State.noteAbort_seqk,
        State.dropCtrs_seqk, State.dropMoves_seqk, State.close_seqk, State.toMembers_seqk]; done)
    | split
    | intro _
    | (dsimp +zetaHave only))

theorem State.rootMove_seqk (s : State) (cid : Nat) (isn : Nat) (attempt : Nat) (group : Option Nat) (o : Origin) : (State.rootMove s cid isn attempt group o).seqk = s.seqk := by
  unfold State.rootMove
  repeat' (first
    | with_reducible rfl
    | (simp +zetaHave only [State.seqk_mk, State.seqk_eta, apply_ite State.seqk, apply_ite Prod.fst, ite_self, implies_true,
        State.count_seqk, State.evt_seqk, State.xsendAll_seqk, State.dropCtrs_seqk, State.dropMoves_seqk,
        State.toMembers_seqk]; done)
    | split
    | intro _
    | (dsimp +zetaHave only))

theorem State.pathDecision_seqk (s : State) (cid : Nat) (isn : Nat) (attempt : Nat) (group : Option Nat) (o : Origin) : (State.pathDecision s cid isn attempt group o).seqk = s.seqk := by
  unfold State.pathDecision
  repeat' (first
    | with_reducible rfl
    | (simp +zetaHave only [State.seqk_mk, State.seqk_eta, apply_ite State.seqk, apply_ite Prod.fst, ite_self, implies_true,
        State.rootAbort_seqk, State.rootMove_seqk]; done)
    | split
    | intro _
    | (dsimp +zetaHave only))

theorem State.rootRequest_seqk (s : State) (q : CollReq) : (State.rootRequest s q).seqk = s.seqk := by
  unfold State.rootRequest
  repeat' (first
    | with_reducible rfl
    | (simp +zetaHave only [State.seqk_mk, State.seqk_eta, apply_ite State.seqk, apply_ite Prod.fst, ite_self, implies_true,
        State.foldl_seqk, State.foldl_fst_seqk, State.rootAbort_seqk, State.pathDecision_seqk]; done)
    | split
    | intro _
    | (dsimp +zetaHave only)
    | refine (State.foldl_seqk _ _ _ ?_).trans ?_
    | refine (State.foldl_fst_seqk _ _ _ ?_).trans ?_)

theorem State.routeReq_seqk (s : State) (q : CollReq) : (State.routeReq s q).seqk = s.seqk := by
  unfold State.routeReq
  repeat' (first
    | with_reducible rfl
    | (simp +zetaHave only [State.seqk_mk, State.seqk_eta, apply_ite State.seqk, apply_ite Prod.fst, ite_self, implies_true,
        State.xsend_seqk, State.rootRequest_seqk, State.emit_seqk]; done)
    | split
    | intro _
    | (dsimp +zetaHave only))

theorem State.raiseReq_seqk (s : State) (q : CollReq) : (State.raiseReq s q).seqk = s.seqk := by
  unfold State.raiseReq
  repeat' (first
    | with_reducible rfl
    | (simp +zetaHave only [State.seqk_mk, State.seqk_eta, apply_ite State.seqk, apply_ite Prod.fst, ite_self, implies_true,
        State.count_seqk, State.routeReq_seqk]; done)
    | split
    | intro _
    | (dsimp +zetaHave only))

theorem State.abortReq_seqk (s : State) (cid : Nat) (isn : Nat) (attempt : Nat) (d : Dom) (reason : Nat) (port : Nat) : (State.abortReq s cid isn attempt d reason port).seqk = s.seqk := by
  unfold State.abortReq
  repeat' (first
    | with_reducible rfl
    | (simp +zetaHave only [State.seqk_mk, State.seqk_eta, apply_ite State.seqk, apply_ite Prod.fst, ite_self, implies_true,
        State.raiseReq_seqk]; done)
    | split
    | intro _
    | (dsimp +zetaHave only))

theorem State.setHandle_seqk (s : State) (h : Nat) (v : Option Handle) : (State.setHandle s h v).seqk = s.seqk := by
  unfold State.setHandle
  repeat' (first
    | with_reducible rfl
    | (simp +zetaHave only [State.seqk_mk, State.seqk_eta, apply_ite State.seqk, apply_ite Prod.fst, ite_self, implies_true]; done)
    | split
    | intro _
    | (dsimp +zetaHave only))

theorem State.gather_seqk (s : State) (hd : Handle) (i : Inst) : (State.gather s hd i).1.seqk = s.seqk := by
  unfold State.gather
  repeat' (first
    | with_reducible rfl
    | (simp +zetaHave only [State.seqk_mk, State.seqk_eta, apply_ite State.seqk, apply_ite Prod.fst, ite_self, implies_true,
        State.foldl_seqk, State.foldl_fst_seqk]; done)
    | split
    | intro _
    | (dsimp +zetaHave only)
    | refine (State.foldl_seqk _ _ _ ?_).trans ?_
    | refine (State.foldl_fst_seqk _ _ _ ?_).trans ?_)

theorem State.sendLog_seqk (s : State) (h : Nat) (hd : Handle) (i : Inst) : (State.sendLog s h hd i).seqk = s.seqk := by
  unfold State.sendLog
  repeat' (first
    | with_reducible rfl
    | (simp +zetaHave only [State.seqk_mk, State.seqk_eta, apply_ite State.seqk, apply_ite Prod.fst, ite_self, implies_true,
        State.foldl_seqk, State.foldl_fst_seqk, State.count_seqk, State.emit_seqk, State.xsend_seqk,
        State.raiseReq_seqk, State.setHandle_seqk, State.gather_seqk]; done)
    | split
    | intro _
    | (dsimp +zetaHave only)
    | refine (State.foldl_seqk _ _ _ ?_).trans ?_
    | refine (State.foldl_fst_seqk _ _ _ ?_).trans ?_)

/-- A new instance on a handle: a CONTRIB that met no definition there is forgotten, and nothing else of the sequencer changes
(R243). -/
theorem State.startInst_seqk (s : State) (h : Nat) (hd : Handle) (data : UpData) (step lanes : Nat) :
    (s.startInst h hd data step lanes).sq = { s.sq with nodef := s.sq.nodef.filter fun k => k ≠ h } := by
  show (s.startInst h hd data step lanes).seqk = _
  unfold State.startInst
  dsimp +zetaHave only
  have h0 : (s.busy.openGate 3).sq = s.sq := State.openGate_seqk _ _
  split
  · rw [State.abortReq_seqk, State.sendLog_seqk, State.evt_seqk, ← h0]; rfl
  · rw [State.sendLog_seqk, State.evt_seqk, ← h0]; rfl

end Sys2Proof.Machine
end

