-- ==== Sys2Proof/Laws/RowsInstr.lean ====
section
/-! SUPPORT. Sys2Proof/Laws/RowsInstr.lean: the program instructions. -/

set_option linter.all false
set_option Elab.async false

namespace Sys2Proof.Machine
open Sys2Proof Sys2Proof.Config

theorem State.Runs.form {s u : State} {op : Nat} {f : SeqArgs} (h : s.Runs u op f) : ∃ o g,
    u = { s with out := o, pw := { s.pw with busy := true }, ck := { s.ck with gates := g } } := by
  obtain ⟨o, g, h1⟩ := s.busy.openGate_form 1
  obtain ⟨o', g', h2⟩ := (s.busy.openGate 1).openGate_form 9
  refine ⟨o', g', ?_⟩
  rw [h.state, h2, h1]; rfl

theorem runInstr_ok {s u : State} {op : Nat} {f : SeqArgs} (h : s.Runs u op f) (m : State → SqOut) :
    (s.runInstr op (some m) f).1 = (m u).after := by
  unfold State.runInstr
  dsimp +zetaHave only
  rw [← h.state, h.fits]
  have hlt : ¬ u.sq.len ≤ u.sq.pc := by
    obtain ⟨o, g, hu⟩ := h.form
    rw [hu]; exact Nat.not_le.mpr h.inside
  rw [if_neg hlt]
  dsimp +zetaHave only
  unfold SqOut.after
  cases (m u).res <;> rfl

theorem runs_exec {s u : State} {op : Nat} {f : SeqArgs} {i : Instr} {m : State → SqOut} (h : s.Runs u op f)
    (hx : ∀ s : State, exec i s = s.atPc op f) (hm : sqMeaning op f (s.clk.course + 1) = some m) : exec i s = .next (m u).after := by
  rw [hx, State.atPc, State.main_up h.up, if_pos ⟨h.eave, h.running⟩, hm, runInstr_ok h]

theorem agreed_same (g : BitVec 16) (d : Nat) (a : Bool) :
    (if a then g ||| BitVec.ofNat 16 (2 ^ (d % 16)) else g &&& ~~~BitVec.ofNat 16 (2 ^ (d % 16))).getLsbD (d % 16) = a := by
  have h : d % 16 < 16 := Nat.mod_lt _ (by decide)
  generalize d % 16 = k at h
  cases a
  · have : (BitVec.ofNat 16 (2 ^ k)).getLsbD k = true := by
      rw [BitVec.getLsbD_ofNat]; simp [h, Nat.testBit_two_pow_self]
    generalize BitVec.ofNat 16 (2 ^ k) = b at this
    simp [this]
  · have : (BitVec.ofNat 16 (2 ^ k)).getLsbD k = true := by
      rw [BitVec.getLsbD_ofNat]; simp [h, Nat.testBit_two_pow_self]
    generalize BitVec.ofNat 16 (2 ^ k) = b at this
    simp [this]

theorem agreed_other (g : BitVec 16) (d k : Nat) (a : Bool) (h : k % 16 ≠ d % 16) :
    (if a then g ||| BitVec.ofNat 16 (2 ^ (d % 16)) else g &&& ~~~BitVec.ofNat 16 (2 ^ (d % 16))).getLsbD (k % 16) = g.getLsbD (k % 16) := by
  have h1 : k % 16 < 16 := Nat.mod_lt _ (by decide)
  have : (BitVec.ofNat 16 (2 ^ (d % 16))).getLsbD (k % 16) = false := by
    rw [BitVec.getLsbD_ofNat]; simp [Nat.testBit_two_pow, Ne.symm h]
  cases a
  · rw [if_neg (by decide), BitVec.getLsbD_and, BitVec.getLsbD_not, this]; simp [h1]
  · rw [if_pos rfl, BitVec.getLsbD_or, this, Bool.or_false]

theorem gives_after {s u : State} {op : Nat} {f : SeqArgs} (h : s.Runs u op f) (d v : Nat) (a : Bool) (r : ReportCounts) :
    ∀ t, t = (State.gives (u.setSq { u.sq with reports := r }) d v a).after →
      t.g d = v % 2 ^ 64 ∧ t.gAgreed d = a ∧ (∀ k, k % 16 ≠ d % 16 → t.g k = s.g k ∧ t.gAgreed k = s.gAgreed k) ∧
      t.sq.pc = s.sq.pc + 1 ∧ t.sq.st = .running ∧ t.sq.store = s.sq.store ∧ t.sq.acc = s.sq.acc ∧ t.sq.arms = s.sq.arms ∧
      t.sq.reports = r ∧ t.still = ({ s with sq := t.sq } : State).still := by
  obtain ⟨o, g, hu⟩ := h.form
  have hr := h.running
  intro t ht
  have e : t = { s with out := .perfEvt 7 1 :: o, pw := { s.pw with busy := true }, ck := { s.ck with gates := g }, sq := t.sq } := by
    rw [ht, hu]; rfl
  have e2 : t.sq = { s.sq with
      g := s.sq.g.set 0 (d % 16) (v % 2 ^ 64)
      agreed := if a then s.sq.agreed ||| BitVec.ofNat 16 (2 ^ (d % 16)) else s.sq.agreed &&& ~~~BitVec.ofNat 16 (2 ^ (d % 16))
      reports := r, pc := s.sq.pc + 1, wait := false, stalled := false, waitC := none } := by rw [ht, hu]; rfl
  have e3 : t.still = ({ s with sq := t.sq } : State).still := by
    generalize hq : t.sq = q at e
    rw [e]; rfl
  refine ⟨?_, ?_, ?_, ?_, ?_, ?_, ?_, ?_, ?_, e3⟩
  · unfold State.g; rw [e2]; dsimp only; rw [Map.get_set_same]
  · unfold State.gAgreed; rw [e2]; exact agreed_same _ _ _
  · intro k hk
    refine ⟨?_, ?_⟩
    · unfold State.g; rw [e2]; dsimp only; rw [Map.get_set_other _ _ _ _ _ hk]
    · unfold State.gAgreed; rw [e2]; exact agreed_other _ _ _ _ hk
  all_goals rw [e2]
  exact hr

theorem runs_reg {s u : State} {op : Nat} {f : SeqArgs} (h : s.Runs u op f) :
    (∀ k, u.g k = s.g k) ∧ (∀ k, u.gAgreed k = s.gAgreed k) ∧ u.sq = s.sq ∧ u.clk = s.clk ∧ u.td = s.td := by
  obtain ⟨o, g, hu⟩ := h.form
  rw [hu]; exact ⟨fun _ => rfl, fun _ => rfl, rfl, rfl, rfl⟩

theorem runs_gives {s u : State} {op : Nat} {f : SeqArgs} {i : Instr} (m : State → SqOut) (h : s.Runs u op f)
    (hx : ∀ s : State, exec i s = s.atPc op f) (hm : sqMeaning op f (s.clk.course + 1) = some m) (v : Nat) (a : Bool)
    (r : ReportCounts) (hv : m u = State.gives (u.setSq { u.sq with reports := r }) f.d v a) :
    ∃ t, exec i s = .next t ∧ t.g f.d = v % 2 ^ 64 ∧ t.gAgreed f.d = a ∧
      (∀ k, k % 16 ≠ f.d % 16 → t.g k = s.g k ∧ t.gAgreed k = s.gAgreed k) ∧
      t.sq.pc = s.sq.pc + 1 ∧ t.sq.st = .running ∧ t.sq.store = s.sq.store ∧ t.sq.acc = s.sq.acc ∧ t.sq.arms = s.sq.arms ∧
      t.sq.reports = r ∧ t.still = ({ s with sq := t.sq } : State).still :=
  ⟨_, runs_exec h hx hm, gives_after h f.d v a r _ (by rw [hv])⟩

theorem retire_still {s u t : State} {op : Nat} {f : SeqArgs} (h : s.Runs u op f) (q : SeqUnit) (o : List Output)
    (ht : t = ({ u with sq := q, out := o } : State)) : t.still = ({ s with sq := t.sq } : State).still := by
  obtain ⟨o', g, hu⟩ := h.form
  have hq : t.sq = q := by rw [ht]
  rw [hq, ht, hu]; rfl

theorem evt_form (s : State) (k : Nat) : s.evt k = { s with out := .perfEvt k 1 :: s.out } := rfl

theorem retire_fields (u : State) (pc : Nat) : (u.retireAt pc).sq = { u.sq with pc := pc, wait := false, stalled := false, waitC := none } ∧
    ∃ o, u.retireAt pc = { u with sq := (u.retireAt pc).sq, out := o } := ⟨rfl, _, rfl⟩

theorem retireAt_still {s u v : State} {op : Nat} {f : SeqArgs} (h : s.Runs u op f) (pc : Nat) (q : SeqUnit) (o : List Output)
    (hv : v = { u with sq := q, out := o }) : (v.retireAt pc).still = ({ s with sq := (v.retireAt pc).sq } : State).still :=
  retire_still h _ _ (by rw [hv]; rfl)

/-- What the row NOP does (R232). -/
theorem exec_nop (s u : State) (f : SeqArgs) (h : s.Runs u 0x00 f) : ∃ t, exec (.nop f) s = .next t ∧ t.sq.pc = s.sq.pc + 1 ∧ t.sq.g = s.sq.g ∧ t.sq.acc = s.sq.acc ∧
      t.still = ({ s with sq := t.sq } : State).still := by
  obtain ⟨hg, hag, hsq, hck, htd⟩ := runs_reg h
  refine ⟨_, runs_exec h (fun _ => rfl) rfl, ?_, ?_, ?_, ?_⟩
  · rw [← hsq]; rfl
  · rw [← hsq]; rfl
  · rw [← hsq]; rfl
  · exact retire_still h _ _ rfl

/-- What the row JMP does (R232). -/
theorem exec_jmp (s u : State) (f : SeqArgs) (h : s.Runs u 0x02 f) : ∃ t, exec (.jmp f) s = .next t ∧ t.sq.pc = f.addr ∧ t.sq.g = s.sq.g ∧ t.sq.acc = s.sq.acc ∧
      t.still = ({ s with sq := t.sq } : State).still := by
  obtain ⟨hg, hag, hsq, hck, htd⟩ := runs_reg h
  refine ⟨_, runs_exec h (fun _ => rfl) rfl, ?_, ?_, ?_, ?_⟩
  · rfl
  · rw [← hsq]; rfl
  · rw [← hsq]; rfl
  · exact retire_still h _ _ rfl

theorem branch_after {s u : State} {op' : Nat} {f : SeqArgs} (h : s.Runs u op' f) (op : Nat) (c : Bool) :
    ∀ t, t = (u.branch op f c).after → t.sq.pc = (if c = true then f.addr else s.sq.pc + 1) ∧ t.sq.g = s.sq.g ∧
      t.sq.acc = crcWord (crcBytes s.sq.acc (leBytes 2 s.sq.pc ++ [op, 0, 0, 0, 0, 0])) (bnat c) ∧
      t.still = ({ s with sq := t.sq } : State).still := by
  obtain ⟨hg, hag, hsq, hck, htd⟩ := runs_reg h
  intro t ht
  unfold State.branch SqOut.after State.record at ht
  dsimp +zetaHave only at ht
  rw [hsq] at ht
  generalize crcWord (crcBytes s.sq.acc (leBytes 2 s.sq.pc ++ [op, 0, 0, 0, 0, 0])) (bnat c) = A at ht ⊢
  cases c
  · subst ht
    exact ⟨rfl, rfl, rfl, retire_still h _ _ rfl⟩
  · subst ht
    exact ⟨rfl, rfl, rfl, retire_still h _ _ rfl⟩

/-- What the row WAITC does (R232). -/
theorem exec_waitc (s u : State) (f : SeqArgs) (h : s.Runs u 0x06 f) : ∃ t, exec (.waitc f) s = .next t ∧ t.sq.g = s.sq.g ∧ t.sq.st = .running ∧
      (s.waitCourse f ≤ s.clk.course + 1 → t.sq.pc = s.sq.pc + 1 ∧ t.sq.wait = false) ∧
      (s.clk.course + 1 < s.waitCourse f → t.sq.pc = s.sq.pc ∧ t.sq.wait = true ∧ t.sq.waitC = some (s.waitCourse f) ∧
        t.sq.acc = s.sq.acc) ∧ t.still = ({ s with sq := t.sq } : State).still := by
  obtain ⟨hg, hag, hsq, hck, htd⟩ := runs_reg h
  have hr := h.running
  refine ⟨_, runs_exec h (fun _ => rfl) rfl, ?_⟩
  have hw : u.waitCourse f = s.waitCourse f := by unfold State.waitCourse; rw [hg]
  unfold sqWaitc
  dsimp +zetaHave only
  rw [hw]
  by_cases hc : s.waitCourse f ≤ s.clk.course + 1
  · rw [if_pos hc]
    unfold State.record
    generalize crcWord _ _ = A
    exact ⟨by rw [← hsq]; rfl, by rw [← hr, ← hsq]; rfl, fun _ => ⟨by rw [← hsq]; rfl, rfl⟩, fun hh => absurd hc (Nat.not_le.mpr hh), retire_still h _ _ rfl⟩
  · rw [if_neg hc]
    exact ⟨by rw [← hsq]; rfl, by rw [← hr, ← hsq]; rfl, fun hh => absurd hh hc, fun _ => ⟨by rw [← hsq]; rfl, rfl, rfl, by rw [← hsq]; rfl⟩, retire_still h _ _ rfl⟩

theorem modPulse_sq (s : State) (n : Nat) (f : PulseOut → PulseOut) : (s.modPulse n f).sq = s.sq ∧ (s.modPulse n f).td = s.td ∧ (s.modPulse n f).regs = s.regs := ⟨rfl, rfl, rfl⟩

/-- What the row HALT does (R238). -/
theorem exec_halt (s u : State) (f : SeqArgs) (h : s.Runs u 0x01 f) (ha : s.sq.arms = []) : ∃ t, exec (.halt f) s = .next t ∧ t.sq.st = .stopped ∧ t.sq.code = 1 ∧
      t.sq.pc = s.sq.pc + 1 ∧ t.sq.g = s.sq.g ∧ t.td = s.td ∧ t.regs = s.regs := by
  obtain ⟨hg, hag, hsq, hck, htd⟩ := runs_reg h
  obtain ⟨o, g, hu⟩ := h.form
  refine ⟨_, runs_exec h (fun _ => rfl) rfl, ?_⟩
  have hc : u.cancelLaunches = u := by unfold State.cancelLaunches; rw [hsq, ha]; rfl
  unfold sqHalt State.programEnds
  dsimp +zetaHave only
  rw [if_pos rfl, hc]
  have hreg : u.regs = s.regs := by rw [hu]
  exact ⟨rfl, rfl, by rw [← hsq]; rfl, by rw [← hsq]; rfl, htd, hreg⟩

/-- What the row STEPEND does (R239). -/
theorem exec_stepend (s u : State) (f : SeqArgs) (h : s.Runs u 0x05 f) (hv : s.sq.voteEn = false) (hga : s.gang.inGang = false) : ∃ t, exec (.stepend f) s = .next t ∧
      t.sq.digest = s.sq.acc ∧ t.sq.step = (s.sq.step + 1) % 2 ^ 64 ∧ t.sq.acc = crcWord s.sq.crc ((s.sq.step + 1) % 2 ^ 64) ∧
      t.sq.pc = s.sq.pc + 1 ∧ t.sq.g = s.sq.g ∧ t.still = ({ s with sq := t.sq } : State).still := by
  obtain ⟨hg, hag, hsq, hck, htd⟩ := runs_reg h
  obtain ⟨o, g, hu⟩ := h.form
  refine ⟨_, runs_exec h (fun _ => rfl) rfl, ?_⟩
  have hm : u.gang = s.gang := by rw [hu]
  have hr : u.sq.st = .running := by rw [hsq]; exact h.running
  have hfo : ∀ v : State, v.gang = u.gang → ¬ (v.follower = true) := by
    intro v hv; unfold State.follower; rw [hv, hm, hga]; simp
  have hle : (u.gang.inGang && !u.follower) = false := by rw [hm, hga]; rfl
  have hve : u.sq.voteEn = false := by rw [hsq]; exact hv
  unfold sqStepend
  dsimp +zetaHave only
  rw [if_neg (by rw [hve]; exact fun hh => absurd hh.1 (by decide)), hve, hle]
  have hr0 : (if (false && !false) = true then u.castVote u.sq.step u.sq.acc else (u, ContribRes.started)) = (u, .started) := rfl
  rw [hr0]
  dsimp only
  rw [if_neg (show ¬ (ContribRes.started = .waits) by decide)]
  generalize hB : (u.sq.step + 1) % 2 ^ 64 = B
  generalize hV : u.stepDone u.sq.step u.sq.acc = V
  have q : V.sq = { u.sq with digest := u.sq.acc, step := B, acc := crcWord u.sq.crc B } := by rw [← hV, ← hB]; rfl
  have hs : V = { u with sq := V.sq, out := V.out } := by rw [← hV]; rfl
  have h1 : V.gang = u.gang := by rw [← hV]; rfl
  rw [if_neg (hfo V h1), if_neg (by decide)]
  have h3 : V.sq.st = .running := by rw [q]; exact hr
  rw [if_pos h3]
  have hst := retireAt_still h (V.sq.pc + 1) V.sq V.out hs
  clear hV
  rw [← hsq, hB]
  refine ⟨?_, ?_, ?_, ?_, ?_, hst⟩
  · show V.sq.digest = _; rw [q]
  · show V.sq.step = _; rw [q]
  · show V.sq.acc = _; rw [q]
  · show V.sq.pc + 1 = _; rw [q]
  · show V.sq.g = _; rw [q]

/-- What the row STEPEND does while four votes are in flight (R239). -/
theorem exec_stepend_2 (s u : State) (f : SeqArgs) (h : s.Runs u 0x05 f) (hv : s.sq.voteEn = true) (h4 : 4 ≤ s.sq.votes.length + s.sq.gangVotes.length)
    (hst : s.sq.stalled = false) : ∃ t, exec (.stepend f) s = .next t ∧ t.sq = { s.sq with stalled := true, wait := true } ∧ t.counter SQ_CNT_STALL = (s.counter SQ_CNT_STALL + 1) % 2 ^ 32 := by
  obtain ⟨hg, hag, hsq, hck, htd⟩ := runs_reg h
  obtain ⟨o, g, hu⟩ := h.form
  refine ⟨_, runs_exec h (fun _ => rfl) rfl, ?_⟩
  unfold sqStepend
  dsimp +zetaHave only
  rw [if_pos (by rw [hsq]; exact ⟨hv, h4⟩)]
  unfold State.stall
  rw [if_neg (by rw [hsq, hst]; decide), ← hsq]
  have hc : s.counter SQ_CNT_STALL = (u.setSq { u.sq with stalled := true }).counter SQ_CNT_STALL := by rw [hu]; rfl
  rw [hc]
  exact ⟨rfl, count_same _ _ _⟩

/-- A contribution without room waits on its instruction. -/
theorem awaitRoom_after {s u : State} {op : Nat} {f : SeqArgs} (h : s.Runs u op f) (hst : s.sq.stalled = false) :
    (u.awaitRoom.after).sq = { s.sq with stalled := true, wait := true } ∧
    (u.awaitRoom.after).ce = s.ce ∧ (u.awaitRoom.after).counter CE_CNT_WAIT = (s.counter CE_CNT_WAIT + 1) % 2 ^ 32 := by
  obtain ⟨hg, hag, hsq, hck, htd⟩ := runs_reg h
  obtain ⟨o, g, hu⟩ := h.form
  unfold State.awaitRoom
  rw [if_neg (by rw [hsq, hst]; decide), ← hsq]
  have hc : s.counter CE_CNT_WAIT = (u.setSq { u.sq with stalled := true }).counter CE_CNT_WAIT := by rw [hu]; rfl
  rw [hc]
  exact ⟨rfl, by rw [hu]; rfl, count_same _ _ _⟩

/-- What the row STEPEND does when its vote finds no room (R239, R284). -/
theorem exec_stepend_3 (s u : State) (f : SeqArgs) (h : s.Runs u 0x05 f) (hv : s.sq.voteEn = true) (hga : s.gang.inGang = false)
    (h4 : s.sq.votes.length + s.sq.gangVotes.length < 4) (hd : Handle) (hn : s.handle s.sq.voteHandle = some hd) (hop : hd.op = 0x07)
    (hon : s.ceOn = true) (hroom : hd.room = false ∨ 1024 ≤ s.inFlight) (hst : s.sq.stalled = false) :
    ∃ t, exec (.stepend f) s = .next t ∧ t.sq = { s.sq with stalled := true, wait := true } ∧ t.ce = s.ce ∧
      t.counter CE_CNT_WAIT = (s.counter CE_CNT_WAIT + 1) % 2 ^ 32 := by
  obtain ⟨hg, hag, hsq, hck, htd⟩ := runs_reg h
  obtain ⟨o, g, hu⟩ := h.form
  refine ⟨_, runs_exec h (fun _ => rfl) rfl, ?_⟩
  have hm : u.gang = s.gang := by rw [hu]
  have hle : (u.gang.inGang && !u.follower) = false := by rw [hm, hga]; rfl
  have hh : u.handle = s.handle := by rw [hu]; rfl
  have hw : ∀ st dig, u.castVote st dig = (u, .waits) := by
    intro st dig
    unfold State.castVote
    dsimp +zetaHave only
    rw [hsq, hh, hn]
    dsimp only
    rw [if_pos hop]
    have : ∀ d st l, u.contribute s.sq.voteHandle d st l = (u, .waits) := by
      intro d st l; unfold State.contribute; rw [hh, hn]
      dsimp only
      rw [if_neg (by rw [show u.ceOn = s.ceOn by rw [hu]; rfl, hon]; decide), if_pos (by rw [show u.inFlight = s.inFlight by rw [hu]; rfl]; exact hroom)]
    rw [this]
  unfold sqStepend
  dsimp +zetaHave only
  rw [if_neg (by rw [hsq]; exact fun hh => absurd hh.2 (by omega)), show u.sq.voteEn = true by rw [hsq]; exact hv, hle]
  simp only [Bool.not_false, Bool.and_self, if_true, hw]
  exact awaitRoom_after h hst

/-- What the row LCFG does (R232). -/
theorem exec_lcfg (s u : State) (f : SeqArgs) (h : s.Runs u 0x30 f) : ∃ t, exec (.lcfg f) s = .next t ∧ t.sq.n = field f.x 0 8 ∧ t.sq.tol = min (field f.x 8 16) 0xFFFE ∧
      t.sq.pc = s.sq.pc + 1 ∧ t.sq.g = s.sq.g ∧ t.sq.acc = s.sq.acc ∧ t.still = ({ s with sq := t.sq } : State).still := by
  obtain ⟨hg, hag, hsq, hck, htd⟩ := runs_reg h
  refine ⟨_, runs_exec h (fun _ => rfl) rfl, rfl, rfl, ?_, ?_, ?_, retire_still h _ _ rfl⟩
  · rw [← hsq]; rfl
  · rw [← hsq]; rfl
  · rw [← hsq]; rfl

theorem runs_more {s u : State} {op : Nat} {f : SeqArgs} (h : s.Runs u op f) :
    u.bt = s.bt ∧ u.ev = s.ev ∧ u.ce = s.ce ∧ u.od = s.od ∧ u.irq = s.irq ∧ u.cnt = s.cnt ∧ u.regs = s.regs ∧
    (∀ n, u.tapServed n = s.tapServed n) ∧ (∀ hh, u.collOutcome hh = s.collOutcome hh) ∧ u.handle = s.handle := by
  obtain ⟨o, g, hu⟩ := h.form
  subst hu; exact ⟨rfl, rfl, rfl, rfl, rfl, rfl, rfl, fun _ => rfl, fun _ => rfl, rfl⟩

theorem target_same {s u : State} {op : Nat} {f : SeqArgs} (h : s.Runs u op f) : u.target f = s.target f := by
  unfold State.target; rw [(runs_reg h).1]

structure Keeps (v t : State) : Prop where
  pc : t.sq.pc = v.sq.pc + 1
  g : t.sq.g = v.sq.g
  arms : t.sq.arms = v.sq.arms
  nodef : t.sq.nodef = v.sq.nodef
  bt : t.bt = v.bt
  ev : t.ev = v.ev
  irq : t.irq = v.irq
  cnt : t.cnt = v.cnt
  td : t.td = v.td
  ce : t.ce = v.ce

theorem record_after (v : State) (op x : Nat) : Keeps v ({ s := v.record op x } : SqOut).after := by
  unfold State.record
  generalize crcWord _ _ = A
  exact ⟨rfl, rfl, rfl, rfl, rfl, rfl, rfl, rfl, rfl, rfl⟩

theorem record2_after (v : State) (op x op' x' : Nat) : Keeps v ({ s := (v.record op x).record op' x' } : SqOut).after := by
  have h := record_after (v.record op x) op' x'
  unfold State.record at h ⊢
  revert h
  generalize crcWord _ _ = A
  generalize crcWord _ _ = B
  intro h
  exact ⟨h.pc, h.g, h.arms, h.nodef, h.bt, h.ev, h.irq, h.cnt, h.td, h.ce⟩

theorem keeps_counter {v t : State} (h : Keeps v t) (a : Nat) : t.counter a = v.counter a := by unfold State.counter; rw [h.cnt]

/-- What the row ARM does (R244). -/
theorem exec_arm (s u : State) (f : SeqArgs) (h : s.Runs u 0x31 f) (hl : s.sq.arms.length < 1024) (ht : s.tapServed f.tap = true) :
    ∃ t, exec (.arm f) s = .next t ∧
      t.sq.arms = s.sq.arms ++ [{ tap := f.tap, line := f.line, target := s.target f }] ∧
      t.bt.fly = s.bt.fly ++ [.arm f.tap f.line (s.target f) s.sq.n s.sq.tol] ∧ t.sq.pc = s.sq.pc + 1 ∧ t.sq.g = s.sq.g ∧
      t.counter SQ_CNT_ARM = (s.counter SQ_CNT_ARM + 1) % 2 ^ 32 := by
  obtain ⟨hg, hag, hsq, hck, htd⟩ := runs_reg h
  obtain ⟨hbt, hev, hce, hod, hirq, hcnt, hregs, hts, hco, hh⟩ := runs_more h
  refine ⟨_, runs_exec h (fun _ => rfl) rfl, ?_⟩
  unfold sqArm
  rw [if_neg (by rw [hsq]; exact Nat.not_le.mpr hl)]
  unfold State.armOne
  rw [hts, if_pos ht]
  have k := record_after (((u.setSq { u.sq with arms := u.sq.arms ++ [{ tap := f.tap, line := f.line, target := u.target f }] }).sendDown
      (.arm f.tap f.line (u.target f) u.sq.n u.sq.tol)).count SQ_CNT_ARM) 0x31 (u.targetValue f)
  refine ⟨k.arms.trans ?_, (congrArg Batten.fly k.bt).trans ?_, k.pc.trans ?_, k.g.trans ?_, (keeps_counter k _).trans ?_⟩
  · rw [← hsq, ← target_same h]; rfl
  · rw [← hbt, ← target_same h, ← hsq]; rfl
  · rw [← hsq]; rfl
  · rw [← hsq]; rfl
  · rw [show s.counter SQ_CNT_ARM = u.counter SQ_CNT_ARM by unfold State.counter; rw [hcnt]]
    exact count_same u SQ_CNT_ARM 1

/-- What the row ARM does (R244). -/
theorem exec_arm_2 (s u : State) (f : SeqArgs) (h : s.Runs u 0x31 f) (hl : 1024 ≤ s.sq.arms.length) (ht : s.sq.stalled = false) :
    ∃ t, exec (.arm f) s = .next t ∧
      t.sq.arms = s.sq.arms ∧ t.sq.pc = s.sq.pc ∧ t.sq.wait = true ∧ t.counter SQ_CNT_STALL = (s.counter SQ_CNT_STALL + 1) % 2 ^ 32 := by
  obtain ⟨hg, hag, hsq, hck, htd⟩ := runs_reg h
  obtain ⟨hbt, hev, hce, hod, hirq, hcnt, hregs, hts, hco, hh⟩ := runs_more h
  refine ⟨_, runs_exec h (fun _ => rfl) rfl, ?_⟩
  unfold sqArm
  rw [if_pos (by rw [hsq]; exact hl)]
  unfold State.stall
  rw [if_neg (by rw [hsq, ht]; decide)]
  rw [← hsq]
  refine ⟨by rfl, by rfl, by rfl, ?_⟩
  rw [show s.counter SQ_CNT_STALL = u.counter SQ_CNT_STALL by unfold State.counter; rw [hcnt]]
  exact count_same u SQ_CNT_STALL 1

/-- What the row ARM does (R244). -/
theorem exec_arm_3 (s u : State) (f : SeqArgs) (h : s.Runs u 0x31 f) (hl : s.sq.arms.length < 1024) (ht : s.tapServed f.tap = false) :
    ∃ t, exec (.arm f) s = .next t ∧
      t.sq.arms = s.sq.arms ∧ t.bt.fly = s.bt.fly ∧ t.irq.getLsbD 20 = true ∧ t.sq.pc = s.sq.pc + 1 ∧
      t.counter SQ_CNT_NOTFIRED = (s.counter SQ_CNT_NOTFIRED + 1) % 2 ^ 32 := by
  obtain ⟨hg, hag, hsq, hck, htd⟩ := runs_reg h
  obtain ⟨hbt, hev, hce, hod, hirq, hcnt, hregs, hts, hco, hh⟩ := runs_more h
  refine ⟨_, runs_exec h (fun _ => rfl) rfl, ?_⟩
  unfold sqArm
  rw [if_neg (by rw [hsq]; exact Nat.not_le.mpr hl)]
  unfold State.armOne
  rw [hts, if_neg (by rw [ht]; decide)]
  have hv : u.countReport { tap := f.tap, line := f.line, target := u.target f, code := 8 } =
      (u.setSq { u.sq with reports := { u.sq.reports with other := sat16 (u.sq.reports.other + 1) } }).count SQ_CNT_NOTFIRED := rfl
  rw [hv]
  have k := record_after ((((u.setSq { u.sq with reports := { u.sq.reports with other := sat16 (u.sq.reports.other + 1) } }).count
    SQ_CNT_NOTFIRED).raise 20).evt 3) 0x31 (u.targetValue f)
  refine ⟨k.arms.trans ?_, (congrArg Batten.fly k.bt).trans ?_, (congrArg (fun x => x.getLsbD 20) k.irq).trans ?_, k.pc.trans ?_, (keeps_counter k _).trans ?_⟩
  · rw [← hsq]; rfl
  · rw [← hbt]; rfl
  · show (u.irq ||| BitVec.ofNat 32 (2 ^ 20)).getLsbD 20 = true
    rw [BitVec.getLsbD_or]; simp
  · rw [← hsq]; rfl
  · rw [show s.counter SQ_CNT_NOTFIRED = u.counter SQ_CNT_NOTFIRED by unfold State.counter; rw [hcnt]]
    exact count_same u SQ_CNT_NOTFIRED 1

theorem bits_zero : ((List.range 64).filter fun t => bitOf 0 t) = [] := by
  rw [List.filter_eq_nil_iff]; intro a _; simp [bitOf]

theorem bits_pow (k : Nat) (hk : k < 64) : ((List.range 64).filter fun t => bitOf (2 ^ k) t) = [k] := by
  have : ∀ k < 64, ((List.range 64).filter fun t => bitOf (2 ^ k) t) = [k] := by decide
  exact this k hk

/-- What the row ARMM does (R244). -/
theorem exec_armm (s u : State) (f : SeqArgs) (h : s.Runs u 0x32 f) (hl : s.sq.armLeft = none) (h0 : s.g f.b = 0) :
    ∃ t, exec (.armm f) s = .next t ∧ t.sq.arms = s.sq.arms ∧
      t.bt.fly = s.bt.fly ∧ t.sq.pc = s.sq.pc + 1 ∧ t.sq.g = s.sq.g := by
  obtain ⟨hg, hag, hsq, hck, htd⟩ := runs_reg h
  obtain ⟨hbt, hev, hce, hod, hirq, hcnt, hregs, hts, hco, hh⟩ := runs_more h
  refine ⟨_, runs_exec h (fun _ => rfl) rfl, ?_⟩
  unfold sqArmm
  dsimp +zetaHave only
  rw [hsq, hl, Option.getD_none, hg, h0, bits_zero]
  unfold State.armList
  dsimp +zetaHave only
  have k := record2_after (u.setSq { u.sq with armLeft := none }) 0x32
    ((u.setSq { u.sq with armLeft := none }).targetValue f) 0x32 ((u.setSq { u.sq with armLeft := none }).g f.b)
  rw [← hsq, ← hbt]
  exact ⟨k.arms, congrArg Batten.fly k.bt, k.pc, k.g⟩

/-- The arms of a list of served taps that fit the table (R244). -/
theorem armList_fits (line : Nat) (target : Int) (l : List Nat) : ∀ s : State, (∀ k ∈ l, s.tapServed k = true) → s.sq.arms.length + l.length ≤ 1024 →
    (s.armList l line target).2 = [] ∧ (s.armList l line target).1.sq =
      { s.sq with arms := s.sq.arms ++ l.map fun k => { tap := k, line := line, target := target } } ∧
    (s.armList l line target).1.bt.fly = s.bt.fly ++ l.map fun k => .arm k line target s.sq.n s.sq.tol := by
  induction l with
  | nil => intro s _ _; exact ⟨rfl, by simp [State.armList], by simp [State.armList]⟩
  | cons x l ih =>
    intro s hs hl
    rw [List.length_cons] at hl
    unfold State.armList
    rw [if_neg (by omega)]
    have ho : s.armOne x line target = ((s.setSq { s.sq with arms := s.sq.arms ++ [{ tap := x, line := line, target := target }] }).sendDown
        (.arm x line target s.sq.n s.sq.tol)).count SQ_CNT_ARM := by
      unfold State.armOne; rw [if_pos (hs x List.mem_cons_self)]
    have hq : (s.armOne x line target).sq = { s.sq with arms := s.sq.arms ++ [{ tap := x, line := line, target := target }] } := by rw [ho]; rfl
    have hf : (s.armOne x line target).bt.fly = s.bt.fly ++ [.arm x line target s.sq.n s.sq.tol] := by rw [ho]; rfl
    obtain ⟨h1, h2, h3⟩ := ih (s.armOne x line target) (fun k hk => by
      have : (s.armOne x line target).tapServed k = s.tapServed k := by rw [ho]; rfl
      rw [this]; exact hs k (List.mem_cons_of_mem _ hk)) (by rw [hq]; simp only [List.length_append, List.length_singleton]; omega)
    refine ⟨h1, h2.trans ?_, h3.trans ?_⟩
    · rw [hq]; simp
    · rw [hf, hq]; simp

/-- What the row ARMM does (R244). -/
theorem exec_armm_2 (s u : State) (f : SeqArgs) (h : s.Runs u 0x32 f) (hl : s.sq.armLeft = none) (l : List Nat)
    (h0 : l = (List.range 64).filter fun k => bitOf (s.g f.b) k) (hlen : s.sq.arms.length + l.length ≤ 1024) (ht : ∀ k ∈ l, s.tapServed k = true) :
    ∃ t, exec (.armm f) s = .next t ∧
      t.sq.arms = s.sq.arms ++ l.map (fun k => { tap := k, line := f.line, target := s.target f }) ∧
      t.bt.fly = s.bt.fly ++ l.map (fun k => .arm k f.line (s.target f) s.sq.n s.sq.tol) ∧ t.sq.pc = s.sq.pc + 1 ∧ t.sq.g = s.sq.g := by
  obtain ⟨hg, hag, hsq, hck, htd⟩ := runs_reg h
  obtain ⟨hbt, hev, hce, hod, hirq, hcnt, hregs, hts, hco, hh⟩ := runs_more h
  refine ⟨_, runs_exec h (fun _ => rfl) rfl, ?_⟩
  unfold sqArmm
  dsimp +zetaHave only
  rw [hsq, hl, Option.getD_none, hg, ← h0]
  obtain ⟨h1, h2, h3⟩ := armList_fits f.line (u.target f) l u (fun k hk => by rw [hts]; exact ht k hk) (by rw [hsq]; exact hlen)
  rw [h1]
  dsimp only
  have ha := congrArg SeqUnit.arms h2
  have hp := congrArg SeqUnit.pc h2
  have hG := congrArg SeqUnit.g h2
  dsimp only at ha hp hG
  clear h2
  generalize (u.armList l f.line (u.target f)).1 = W at ha hp hG h3
  have q := record2_after (W.setSq { W.sq with armLeft := none }) 0x32
    ((W.setSq { W.sq with armLeft := none }).targetValue f) 0x32 ((W.setSq { W.sq with armLeft := none }).g f.b)
  rw [hsq] at ha hp hG
  rw [hsq, hbt] at h3
  rw [← target_same h]
  exact ⟨q.arms.trans ha, (congrArg Batten.fly q.bt).trans h3, q.pc.trans (congrArg (· + 1) hp), q.g.trans hG⟩

/-- What the row ARMM does (R244). -/
theorem exec_armm_3 (s u : State) (f : SeqArgs) (h : s.Runs u 0x32 f) (hl : s.sq.armLeft = none)
    (h0 : ((List.range 64).filter fun k => bitOf (s.g f.b) k) ≠ []) (hlen : 1024 ≤ s.sq.arms.length) :
    ∃ t, exec (.armm f) s = .next t ∧ t.sq.arms = s.sq.arms ∧ t.bt.fly = s.bt.fly ∧ t.sq.pc = s.sq.pc ∧ t.sq.wait = true ∧ t.sq.g = s.sq.g := by
  obtain ⟨hg, hag, hsq, hck, htd⟩ := runs_reg h
  obtain ⟨hbt, hev, hce, hod, hirq, hcnt, hregs, hts, hco, hh⟩ := runs_more h
  refine ⟨_, runs_exec h (fun _ => rfl) rfl, ?_⟩
  unfold sqArmm
  dsimp +zetaHave only
  rw [hsq, hl, Option.getD_none, hg]
  cases hx : (List.range 64).filter fun k => bitOf (s.g f.b) k with
  | nil => exact absurd hx h0
  | cons a l =>
    have hw : u.armList (a :: l) f.line (u.target f) = (u, a :: l) := by
      unfold State.armList; rw [if_pos (by rw [hsq]; exact hlen)]
    rw [hw]
    dsimp only
    unfold State.stall
    rw [← hsq, ← hbt]
    split
    · exact ⟨by rfl, by rfl, by rfl, by rfl, by rfl⟩
    · exact ⟨by rfl, by rfl, by rfl, by rfl, by rfl⟩

/-- What the row CANCEL does (R244). -/
theorem exec_cancel (s u : State) (f : SeqArgs) (h : s.Runs u 0x33 f) : ∃ t, exec (.cancel f) s = .next t ∧
      t.bt.fly = s.bt.fly ++ ((List.range 64).filter fun k => bitOf (s.g f.b) k && s.tapServed k).map (fun k => .cancel k f.line (s.target f)) ∧
      t.sq.arms = s.sq.arms ∧ t.sq.pc = s.sq.pc + 1 ∧ t.sq.g = s.sq.g := by
  obtain ⟨hg, hag, hsq, hck, htd⟩ := runs_reg h
  obtain ⟨hbt, hev, hce, hod, hirq, hcnt, hregs, hts, hco, hh⟩ := runs_more h
  refine ⟨_, runs_exec h (fun _ => rfl) rfl, ?_⟩
  unfold sqCancel
  dsimp +zetaHave only
  rw [hg, show u.tapServed = s.tapServed from funext hts, ← target_same h]
  have hw : ∀ (l : List Nat) (v : State), (v.each l fun s t => s.sendDown (.cancel t f.line (s.target f))).sq = v.sq ∧
      (v.each l fun s t => s.sendDown (.cancel t f.line (s.target f))).bt.fly = v.bt.fly ++ l.map (fun k => .cancel k f.line (v.target f)) := by
    intro l
    induction l with
    | nil => intro v; exact ⟨rfl, by simp [State.each]⟩
    | cons a l ih =>
      intro v
      obtain ⟨h1, h2⟩ := ih (v.sendDown (.cancel a f.line (v.target f)))
      have ht : (v.sendDown (.cancel a f.line (v.target f))).target f = v.target f := rfl
      refine ⟨h1, h2.trans ?_⟩
      rw [ht]
      show (v.bt.fly ++ [_]) ++ _ = _
      rw [List.map_cons, List.append_assoc]; rfl
  obtain ⟨h1, h2⟩ := hw ((List.range 64).filter fun k => bitOf (s.g f.b) k && s.tapServed k) u
  generalize (u.each ((List.range 64).filter fun k => bitOf (s.g f.b) k && s.tapServed k) fun s t => s.sendDown (.cancel t f.line (s.target f))) = W at h1 h2
  have q := record2_after W 0x33 (W.targetValue f) 0x33 (W.g f.b)
  rw [← hsq, ← hbt]
  exact ⟨(congrArg Batten.fly q.bt).trans h2, q.arms.trans (congrArg SeqUnit.arms h1), q.pc.trans (congrArg (fun x => SeqUnit.pc x + 1) h1), q.g.trans (congrArg SeqUnit.g h1)⟩

/-- What the row PULSE does (R248). -/
theorem exec_pulse (s u : State) (f : SeqArgs) (h : s.Runs u 0x34 f) : ∃ t, exec (.pulse f) s = .next t ∧ t.sq.pc = s.sq.pc + 1 ∧ t.sq.g = s.sq.g ∧
      (s.pulseRefused f.out (s.target f) (s.clk.course + 1) = true → t.ev = s.ev ∧ t.irq = (s.raise 30).irq ∧
        t.counter SQ_CNT_PLS_DROP = (s.counter SQ_CNT_PLS_DROP + 1) % 2 ^ 32) ∧
      (s.pulseRefused f.out (s.target f) (s.clk.course + 1) = false → (t.pulse f.out).pending =
        insertPulse (s.pulse f.out).pending { target := s.target f, width := max 1 f.w8, src := .program }) := by
  obtain ⟨hg, hag, hsq, hck, htd⟩ := runs_reg h
  obtain ⟨hbt, hev, hce, hod, hirq, hcnt, hregs, hts, hco, hh⟩ := runs_more h
  obtain ⟨o, g, hu⟩ := h.form
  refine ⟨_, runs_exec h (fun _ => rfl) rfl, ?_⟩
  unfold sqPulse State.addPulse
  dsimp +zetaHave only
  have hp : u.pulseRefused f.out (s.target f) (s.clk.course + 1) = s.pulseRefused f.out (s.target f) (s.clk.course + 1) := by
    rw [hu]; rfl
  rw [target_same h, hp]
  cases s.pulseRefused f.out (s.target f) (s.clk.course + 1)
  · rw [if_neg (by decide)]
    have k := record_after (u.modPulse f.out fun v => { v with pending := insertPulse v.pending { target := s.target f, width := max 1 f.w8, src := .program } })
      0x34 (u.targetValue f)
    rw [← hsq]
    refine ⟨k.pc, k.g, (fun hh => absurd hh (by decide)), fun _ => ?_⟩
    have hpu : s.pulse f.out = u.pulse f.out := by unfold State.pulse; rw [hev]
    rw [hpu]
    have e := congrArg (fun x => PulseOut.pending (x.pulses.get {} f.out)) k.ev
    exact e.trans (congrArg PulseOut.pending (Map.get_set_same u.ev.pulses {} f.out _))
  · rw [if_pos rfl]
    have k := record_after u.dropPulse 0x34 (u.targetValue f)
    rw [← hsq]
    refine ⟨k.pc, k.g, (fun _ => ⟨k.ev.trans hev, k.irq.trans ?_, (keeps_counter k _).trans ?_⟩), fun hh => absurd hh (by decide)⟩
    · unfold State.raise; rw [← hirq]; rfl
    · rw [show s.counter SQ_CNT_PLS_DROP = u.counter SQ_CNT_PLS_DROP by unfold State.counter; rw [hcnt]]
      exact count_same u SQ_CNT_PLS_DROP 1

theorem addFreeze_early (s : State) (T : Int) (id : Nat) (src : ArmSrc) (cur : Nat) (h : s.td.acq = false ∨ courseOf T < cur + 2) :
    s.addFreeze T id src cur = s.dropFreeze := by
  unfold State.addFreeze; dsimp +zetaHave only
  exact if_pos (by rcases h with h | h; exact .inl h; exact .inr (.inl h))

theorem addFreeze_first (s : State) (T : Int) (id : Nat) (src : ArmSrc) (cur : Nat) (h : s.td.acq = true) (h2 : cur + 2 ≤ courseOf T)
    (h3 : s.ev.freezes = []) (h4 : s.ev.lastRise = none) : s.addFreeze T id src cur =
      { s with ev := { s.ev with freezes := [{ rise := gridAtOrAfter T, id := id % 65536, src := src, target := T }] } } := by
  unfold State.addFreeze; dsimp +zetaHave only
  have hfb : s.freezeBefore (gridAtOrAfter T) = none := by
    unfold State.freezeBefore; rw [h3, h4]; rfl
  rw [hfb, h3, h]
  dsimp only
  rw [if_neg (by intro hh; rcases hh with hc | hc | hc | hc; exact absurd hc (by decide); omega; exact absurd hc (by decide); exact absurd hc (by decide))]
  rfl

theorem addFreeze_frame (s : State) (T : Int) (id : Nat) (src : ArmSrc) (cur : Nat) :
    (s.addFreeze T id src cur).sq = s.sq ∧ (s.addFreeze T id src cur).td = s.td := by
  unfold State.addFreeze; dsimp +zetaHave only
  split
  · split <;> exact ⟨rfl, rfl⟩
  · split <;> exact ⟨rfl, rfl⟩

/-- What the row FRZ does (R249). -/
theorem exec_frz (s u : State) (f : SeqArgs) (h : s.Runs u 0x35 f) : ∃ t, exec (.frz f) s = .next t ∧ t.sq.pc = s.sq.pc + 1 ∧ t.sq.g = s.sq.g ∧ t.td = s.td ∧
      (s.td.acq = false ∨ courseOf (s.target f) < s.clk.course + 3 → t.ev = s.ev ∧ t.irq = (s.raise 30).irq ∧
        t.counter SQ_CNT_FRZ_DROP = (s.counter SQ_CNT_FRZ_DROP + 1) % 2 ^ 32) ∧
      (s.td.acq = true → s.clk.course + 3 ≤ courseOf (s.target f) → s.ev.freezes = [] → s.ev.lastRise = none →
        t.ev.freezes = [{ rise := gridAtOrAfter (s.target f), id := f.w8 % 65536, src := .program, target := s.target f }] ∧ t.irq = s.irq) := by
  obtain ⟨hg, hag, hsq, hck, htd⟩ := runs_reg h
  obtain ⟨hbt, hev, hce, hod, hirq, hcnt, hregs, hts, hco, hh⟩ := runs_more h
  refine ⟨_, runs_exec h (fun _ => rfl) rfl, ?_⟩
  unfold sqFrz
  rw [target_same h]
  have k := record_after (u.addFreeze (s.target f) f.w8 .program (s.clk.course + 1)) 0x35 (u.targetValue f)
  obtain ⟨q1, q2⟩ := addFreeze_frame u (s.target f) f.w8 .program (s.clk.course + 1)
  refine ⟨k.pc.trans (by rw [q1, hsq]), k.g.trans (by rw [q1, hsq]), k.td.trans (by rw [q2, htd]), ?_, ?_⟩
  · intro h1
    have e := addFreeze_early u (s.target f) f.w8 .program (s.clk.course + 1) (by rw [htd]; rcases h1 with h1 | h1; exact .inl h1; exact .inr h1)
    refine ⟨k.ev.trans (by rw [e]; exact hev), k.irq.trans (by rw [e]; unfold State.raise; rw [← hirq]; rfl), (keeps_counter k _).trans ?_⟩
    rw [e, show s.counter SQ_CNT_FRZ_DROP = u.counter SQ_CNT_FRZ_DROP by unfold State.counter; rw [hcnt]]
    exact count_same u SQ_CNT_FRZ_DROP 1
  · intro h1 h2 h3 h4
    have e := addFreeze_first u (s.target f) f.w8 .program (s.clk.course + 1) (by rw [htd]; exact h1) h2 (by rw [hev]; exact h3) (by rw [hev]; exact h4)
    exact ⟨(congrArg EventUnit.freezes k.ev).trans (by rw [e]), k.irq.trans (by rw [e]; exact hirq)⟩

/-- What the row CONTRIB does (R284). -/
theorem exec_contrib (s u : State) (f : SeqArgs) (h : s.Runs u 0x40 f) (hn : s.handle (s.seqHandle f) = none) : ∃ t, exec (.contrib f) s = .next t ∧
      s.seqHandle f ∈ t.sq.nodef ∧ t.sq.pc = s.sq.pc + 1 ∧ t.sq.g = s.sq.g ∧ t.ce = s.ce := by
  obtain ⟨hg, hag, hsq, hck, htd⟩ := runs_reg h
  obtain ⟨hbt, hev, hce, hod, hirq, hcnt, hregs, hts, hco, hh⟩ := runs_more h
  refine ⟨_, runs_exec h (fun _ => rfl) rfl, ?_⟩
  have hsh : u.seqHandle f = s.seqHandle f := by unfold State.seqHandle; rw [hg]
  have hc : ∀ d st l, u.contribute (s.seqHandle f) d st l = ((u.count CE_CNT_ISO).raise 21, .nodef) := by
    intro d st l; unfold State.contribute; rw [hh, hn]
  unfold sqContrib
  dsimp +zetaHave only
  simp only [hsh, hh, hn, hc]
  have h1 : ((u.count CE_CNT_ISO).raise 21).sq = u.sq := rfl
  have h2 : ((u.count CE_CNT_ISO).raise 21).ce = u.ce := rfl
  rw [← hsq, ← hce]
  generalize (u.count CE_CNT_ISO).raise 21 = W at h1 h2
  have k := record_after (W.setSq { W.sq with nodef := s.seqHandle f :: W.sq.nodef.filter (· ≠ s.seqHandle f) }) 0x40 (s.seqHandle f)
  rw [← h1, ← h2]
  exact ⟨by rw [k.nodef]; exact List.mem_cons_self .., k.pc, k.g, k.ce⟩

/-- What the row CONTRIB does (R284). -/
theorem exec_contrib_2 (s u : State) (f : SeqArgs) (h : s.Runs u 0x40 f) (hd : Handle) (hn : s.handle (s.seqHandle f) = some hd)
    (hon : s.ceOn = true) (hroom : hd.room = true) (hfl : s.inFlight < 1024) :
      ∃ t, exec (.contrib f) s = .next t ∧ s.seqHandle f ∉ t.sq.nodef ∧ t.sq.pc = s.sq.pc + 1 ∧ t.sq.g = s.sq.g ∧
      t.ce = (u.startInst (s.seqHandle f) hd (u.contribData f hd).1 (u.contribData f hd).2.1 (u.contribData f hd).2.2).ce := by
  obtain ⟨hg, hag, hsq, hck, htd⟩ := runs_reg h
  obtain ⟨hbt, hev, hce, hod, hirq, hcnt, hregs, hts, hco, hh⟩ := runs_more h
  obtain ⟨o, g, hu⟩ := h.form
  refine ⟨_, runs_exec h (fun _ => rfl) rfl, ?_⟩
  have hsh : u.seqHandle f = s.seqHandle f := by unfold State.seqHandle; rw [hg]
  have hon' : u.ceOn = true := by rw [hu]; exact hon
  have hfl' : u.inFlight < 1024 := by rw [hu]; exact hfl
  have hc : ∀ d st l, u.contribute (s.seqHandle f) d st l = (u.startInst (s.seqHandle f) hd d st l, .started) := by
    intro d st l; unfold State.contribute; rw [hh, hn]
    dsimp only
    rw [if_neg (by rw [hon']; decide), if_neg (by rw [hroom]; intro hx; rcases hx with hx | hx; exact absurd hx (by decide); exact absurd hx (Nat.not_le.mpr hfl'))]
  unfold sqContrib
  dsimp +zetaHave only
  simp only [hsh, hh, hn, hc]
  have hq := State.startInst_seqk u (s.seqHandle f) hd (u.contribData f hd).1 (u.contribData f hd).2.1 (u.contribData f hd).2.2
  generalize u.startInst (s.seqHandle f) hd (u.contribData f hd).1 (u.contribData f hd).2.1 (u.contribData f hd).2.2 = W at hq
  generalize (match W.handle (s.seqHandle f) with | some hd => hd.isn - 1 | none => 0) = isn
  have k := record_after (W.setSq { W.sq with
    started := (s.seqHandle f, isn) :: W.sq.started.filter (· ≠ (s.seqHandle f, isn)) }) 0x40 (s.seqHandle f)
  have hv : W.sq = { s.sq with nodef := s.sq.nodef.filter fun k => k ≠ s.seqHandle f } := by rw [← hsq]; exact hq
  refine ⟨?_, ?_, ?_, k.ce⟩
  · exact fun hm => absurd (k.nodef ▸ hm) (by
      show s.seqHandle f ∉ W.sq.nodef
      rw [hv]; simp)
  · exact k.pc.trans (by show W.sq.pc + 1 = _; rw [hv])
  · exact k.g.trans (by show W.sq.g = _; rw [hv])

theorem handle_set (u : State) (h : Nat) (v : Option Handle) : (u.setHandle h v).handle h = v := by
  unfold State.setHandle State.handle; exact Map.get_set_same _ _ _ _

theorem gives_od (v : State) (d w : Nat) (a : Bool) : (v.gives d w a).after.od = v.od := rfl

theorem record_pc (u : State) (op x : Nat) : (u.record op x).sq.pc = u.sq.pc := by
  unfold State.record; generalize crcWord _ _ = A; rfl

theorem gives_pc (u : State) (d v : Nat) (a : Bool) : ∀ t, t = (u.gives d v a).after → t.g d = v % 2 ^ 64 ∧ t.gAgreed d = a ∧ t.sq.pc = u.sq.pc + 1 := by
  intro t ht
  have e2 : t.sq = { u.sq with
      g := u.sq.g.set 0 (d % 16) (v % 2 ^ 64)
      agreed := if a then u.sq.agreed ||| BitVec.ofNat 16 (2 ^ (d % 16)) else u.sq.agreed &&& ~~~BitVec.ofNat 16 (2 ^ (d % 16))
      pc := u.sq.pc + 1, wait := false, stalled := false, waitC := none } := by rw [ht]; rfl
  refine ⟨?_, ?_, ?_⟩
  · unfold State.g; rw [e2]; dsimp only; rw [Map.get_set_same]
  · unfold State.gAgreed; rw [e2]; exact agreed_same _ _ _
  · rw [e2]

/-- What the row CONTRIB does without room for a new instance (R284). -/
theorem exec_contrib_3 (s u : State) (f : SeqArgs) (h : s.Runs u 0x40 f) (hd : Handle) (hn : s.handle (s.seqHandle f) = some hd)
    (hon : s.ceOn = true) (hroom : hd.room = false ∨ 1024 ≤ s.inFlight) (hst : s.sq.stalled = false) :
      ∃ t, exec (.contrib f) s = .next t ∧ t.sq = { s.sq with stalled := true, wait := true } ∧ t.ce = s.ce ∧
      t.counter CE_CNT_WAIT = (s.counter CE_CNT_WAIT + 1) % 2 ^ 32 := by
  obtain ⟨hg, hag, hsq, hck, htd⟩ := runs_reg h
  obtain ⟨hbt, hev, hce, hod, hirq, hcnt, hregs, hts, hco, hh⟩ := runs_more h
  obtain ⟨o, g, hu⟩ := h.form
  refine ⟨_, runs_exec h (fun _ => rfl) rfl, ?_⟩
  have hsh : u.seqHandle f = s.seqHandle f := by unfold State.seqHandle; rw [hg]
  have hc : ∀ d st l, u.contribute (s.seqHandle f) d st l = (u, .waits) := by
    intro d st l; unfold State.contribute; rw [hh, hn]
    dsimp only
    rw [if_neg (by rw [show u.ceOn = s.ceOn by rw [hu]; rfl, hon]; decide), if_pos (by rw [show u.inFlight = s.inFlight by rw [hu]; rfl]; exact hroom)]
  unfold sqContrib
  dsimp +zetaHave only
  simp only [hsh, hh, hn, hc]
  exact awaitRoom_after h hst

/-- What the row WAITR does (R243). -/
theorem exec_waitr (s u : State) (f : SeqArgs) (h : s.Runs u 0x41 f) (o : CollOutcome) (ho : s.collOutcome (s.seqHandle f) = some o) :
    ∃ t, exec (.waitr f) s = .next t ∧ t.g f.d = o.reason % 2 ^ 64 ∧ t.gAgreed f.d = true ∧ t.sq.pc = s.sq.pc + 1 := by
  obtain ⟨hg, hag, hsq, hck, htd⟩ := runs_reg h
  obtain ⟨hbt, hev, hce, hod, hirq, hcnt, hregs, hts, hco, hh⟩ := runs_more h
  refine ⟨_, runs_exec h (fun _ => rfl) rfl, ?_⟩
  have hsh : u.seqHandle f = s.seqHandle f := by unfold State.seqHandle; rw [hg]
  unfold sqWaitr
  rw [hsh, hco, ho]
  have := gives_pc (u.record 0x41 o.reason) f.d o.reason true _ rfl
  rw [record_pc, hsq] at this
  exact this

/-- What the row WAITR does (R243). -/
theorem exec_waitr_2 (s u : State) (f : SeqArgs) (h : s.Runs u 0x41 f) (ho : s.collOutcome (s.seqHandle f) = none) :
    ∃ t, exec (.waitr f) s = .next t ∧ t.sq.g = s.sq.g ∧ t.sq.pc = s.sq.pc ∧ t.sq.wait = true := by
  obtain ⟨hg, hag, hsq, hck, htd⟩ := runs_reg h
  obtain ⟨hbt, hev, hce, hod, hirq, hcnt, hregs, hts, hco, hh⟩ := runs_more h
  refine ⟨_, runs_exec h (fun _ => rfl) rfl, ?_⟩
  have hsh : u.seqHandle f = s.seqHandle f := by unfold State.seqHandle; rw [hg]
  unfold sqWaitr
  rw [hsh, hco, ho, ← hsq]
  exact ⟨rfl, rfl, rfl⟩

/-- What the row RESULT does (R243). -/
theorem exec_result (s u : State) (f : SeqArgs) (h : s.Runs u 0x42 f) (o : CollOutcome) (v : Nat) (ho : s.collOutcome (s.seqHandle f) = some o)
    (h1 : o.reason = 0) (h2 : bitOf o.status 4 = false) (h3 : o.results[f.lane]? = some v) :
    ∃ t, exec (.result f) s = .next t ∧ t.g f.d = v % 2 ^ 64 ∧ t.gAgreed f.d = true ∧ t.sq.pc = s.sq.pc + 1 := by
  obtain ⟨hg, hag, hsq, hck, htd⟩ := runs_reg h
  obtain ⟨hbt, hev, hce, hod, hirq, hcnt, hregs, hts, hco, hh⟩ := runs_more h
  refine ⟨_, runs_exec h (fun _ => rfl) rfl, ?_⟩
  have hsh : u.seqHandle f = s.seqHandle f := by unfold State.seqHandle; rw [hg]
  have hl : u.resultLane o f.lane = (u, v) := by
    unfold State.resultLane
    rw [h1, h2, if_neg (by simp), h3]
  unfold sqResult
  rw [hsh, hco, ho]
  dsimp +zetaHave only
  rw [hl]
  have := gives_pc (u.record 0x42 v) f.d v true _ rfl
  rw [record_pc, hsq] at this
  exact this

/-- What the row RESULT does (R243). -/
theorem exec_result_2 (s u : State) (f : SeqArgs) (h : s.Runs u 0x42 f) (o : CollOutcome) (ho : s.collOutcome (s.seqHandle f) = some o)
    (h1 : o.reason ≠ 0) :
    ∃ t, exec (.result f) s = .next t ∧ t.g f.d = 0 ∧ t.gAgreed f.d = true ∧ t.sq.pc = s.sq.pc + 1 := by
  obtain ⟨hg, hag, hsq, hck, htd⟩ := runs_reg h
  obtain ⟨hbt, hev, hce, hod, hirq, hcnt, hregs, hts, hco, hh⟩ := runs_more h
  refine ⟨_, runs_exec h (fun _ => rfl) rfl, ?_⟩
  have hsh : u.seqHandle f = s.seqHandle f := by unfold State.seqHandle; rw [hg]
  have hl : u.resultLane o f.lane = (u, 0) := by
    unfold State.resultLane
    rw [if_pos (.inl h1)]
  unfold sqResult
  rw [hsh, hco, ho]
  dsimp +zetaHave only
  rw [hl]
  have := gives_pc (u.record 0x42 0) f.d 0 true _ rfl
  rw [record_pc, hsq] at this
  exact this

/-- What the row DEADL does (R232). -/
theorem exec_deadl (s u : State) (f : SeqArgs) (h : s.Runs u 0x43 f) (hd : Handle) (hn : s.handle (s.seqHandle f) = some hd)
    (hi : hd.inst (hd.isn - 1) = none) : ∃ t, exec (.deadl f) s = .next t ∧
      t.handle (s.seqHandle f) = some { hd with deadline := some (s.waitCourse f) } ∧ t.sq.pc = s.sq.pc + 1 ∧ t.sq.g = s.sq.g := by
  obtain ⟨hg, hag, hsq, hck, htd⟩ := runs_reg h
  obtain ⟨hbt, hev, hce, hod, hirq, hcnt, hregs, hts, hco, hh⟩ := runs_more h
  refine ⟨_, runs_exec h (fun _ => rfl) rfl, ?_⟩
  have hsh : u.seqHandle f = s.seqHandle f := by unfold State.seqHandle; rw [hg]
  have hw : u.waitCourse f = s.waitCourse f := by unfold State.waitCourse; rw [hg]
  unfold sqDeadl
  dsimp +zetaHave only
  rw [hsh, hh, hn, hw]
  dsimp +zetaHave only
  rw [hi]
  have k := record_after (u.setHandle (s.seqHandle f) (some { hd with deadline := some (s.waitCourse f) })) 0x43 (s.seqHandle f)
  rw [← hsq]
  exact ⟨(congrArg (fun c => c.handles.get none (s.seqHandle f)) k.ce).trans (handle_set _ _ _), k.pc, k.g⟩

/-- What the row OBJOP does (R262). -/
theorem exec_objop (s u : State) (f : SeqArgs) (h : s.Runs u 0x50 f) (v : State) (res x : Nat)
    (hp : u.programOp (field f.x 0 8) (s.g f.a) (s.g f.b) = (v, some (res, x))) (hv : v.sq = s.sq) :
    ∃ t, exec (.objop f) s = .next t ∧ t.g f.d = (res * 2 ^ 56 + x % 2 ^ 32) % 2 ^ 64 ∧ t.gAgreed f.d = false ∧
        t.sq.pc = s.sq.pc + 1 ∧ t.od = v.od := by
  obtain ⟨hg, hag, hsq, hck, htd⟩ := runs_reg h
  have e : ∀ w, w = res * 2 ^ 56 + x % 2 ^ 32 → sqObjop f (s.clk.course + 1) u = v.gives f.d w false := by
    intro w hw
    have : sqObjop f (s.clk.course + 1) u = match (u.programOp (field f.x 0 8) (u.g f.a) (u.g f.b)).2 with
      | some (res, x) => (u.programOp (field f.x 0 8) (u.g f.a) (u.g f.b)).1.gives f.d (res * 2 ^ 56 + x % 2 ^ 32) false
      | none => { s := (u.programOp (field f.x 0 8) (u.g f.a) (u.g f.b)).1, res := .wait } := rfl
    rw [this, hg, hg, hp, hw]
  generalize res * 2 ^ 56 + x % 2 ^ 32 = w at e ⊢
  have hm := runs_exec (i := .objop f) h (fun _ => rfl) rfl
  rw [e w rfl] at hm
  refine ⟨_, hm, ?_⟩
  have := gives_pc v f.d w false _ rfl
  rw [hv] at this
  exact ⟨this.1, this.2.1, this.2.2, gives_od _ _ _ _⟩

end Sys2Proof.Machine
end

