-- ==== Sys2Proof/Laws/RowsInterval.lean ====
section
/-! SUPPORT. Sys2Proof/Laws/RowsInterval.lean: the interval unit. -/

set_option linter.all false
set_option Elab.async false

namespace Sys2Proof.Machine
open Sys2Proof Sys2Proof.Config

theorem ramp_one (s : State) (c : Nat) : (s.rampFails c).im.ramps.get 0 c = min 2 (s.im.ramps.get 0 c + 1) ∧
    (∀ k, k ≠ c → (s.rampFails c).im.ramps.get 0 k = s.im.ramps.get 0 k) ∧ (s.rampFails c).irq.getLsbD 14 = true ∧
    (s.rampFails c).im.calReady = s.im.calReady ∧ (s.rampFails c).im.swapPend = s.im.swapPend := by
  unfold State.rampFails
  dsimp +zetaHave only
  refine ⟨Map.get_set_same _ _ _ _, fun k hk => Map.get_set_other _ _ _ _ _ hk, ?_, rfl, rfl⟩
  show (s.irq ||| BitVec.ofNat 32 (2 ^ 14)).getLsbD 14 = true
  rw [BitVec.getLsbD_or]; simp

theorem not_over (l : List StopCfg) (h : l ≠ []) : ((l.map fun c => ({ cfg := c } : StopRun)).all StopRun.over) = false := by
  cases l with
  | nil => exact absurd rfl h
  | cons a l => rfl

/-- A start at a time at which the engine has seen no other edge: every slot begins without an edge. -/
theorem open_shot (v : State) (src : Nat) (t : Int) (same : List PastEdge) (hn : ∀ e ∈ same, e.t ≠ t) (hs : v.im.cfg.slots ≠ []) :
    v.openShot src t same = { v with im := { v.im with
      st := .running, shot := some { start := t, slots := v.im.cfg.slots.map fun c => { cfg := c } } } } := by
  have hf : (same.filter fun e => decide (e.t = t) && decide (e.src ≠ src)) = [] := by
    rw [List.filter_eq_nil_iff]; intro e he; simp [hn e he]
  unfold State.openShot State.putShot
  dsimp +zetaHave only
  rw [hf]
  simp only [List.foldl_nil]
  simp only [not_over _ hs, Bool.false_eq_true, if_false]

/-- Recovered-clock edges that are still to come are not taken. -/
theorem clocks_none (v : State) (t : Int) (h : ∀ e ∈ v.im.clkDue, t < e.2) : v.clocksUpTo t = v := by
  have h1 : (v.im.clkDue.filter fun e => decide (e.2 ≤ t)) = [] := by
    rw [List.filter_eq_nil_iff]; intro e he; have := h e he; simp; omega
  have h2 : (v.im.clkDue.filter fun e => !decide (e.2 ≤ t)) = v.im.clkDue := by
    rw [List.filter_eq_self]; intro e he; have := h e he; simp; omega
  unfold State.clocksUpTo
  dsimp +zetaHave only
  rw [h1, h2]; rfl

/-- The engine's memory of the last edges after one at a time of its own. -/
theorem recent_one (l : List PastEdge) (e : PastEdge) (h : ∀ x ∈ l, x.t ≠ e.t) : (l.filter fun x => decide (x.t = e.t)) ++ [e] = [e] := by
  have : (l.filter fun x => decide (x.t = e.t)) = [] := by
    rw [List.filter_eq_nil_iff]; intro x hx; simp [h x hx]
  rw [this]; rfl

theorem start_edge (v : State) (src : Nat) (f : Bool) (t : Int) (h : v.im.st = .armed) (h1 : v.im.cfg.src = src)
    (h2 : edgeOk src v.im.cfg.edge f = true) (h3 : v.im.convFail = false) (h4 : v.im.shot = none) (h5 : v.im.ended = none)
    (h6 : v.im.cfg.slots ≠ []) (h7 : ∀ e ∈ v.im.clkDue, t < e.2) (h8 : ∀ e ∈ v.im.recent, e.t ≠ t) :
    v.shotEdge src f t true = { v with im := { v.im with
      st := .running, recent := [⟨src, f, t, true⟩]
      shot := some { start := t, slots := v.im.cfg.slots.map fun c => { cfg := c } } } } := by
  unfold State.shotEdge
  rw [clocks_none v t h7]
  unfold State.shotFeed State.closeWindows State.remember
  simp only [h, ne_eq, not_true_eq_false, false_and, reduceIte, h4, h1, h2, h3, h5, decide_true, Bool.and_self, Bool.true_eq_false, or_self,
    Bool.false_eq_true]
  rw [open_shot _ src t v.im.recent h8 (by exact h6), recent_one _ ⟨src, f, t, true⟩ h8]

theorem other_edge (v : State) (src : Nat) (f : Bool) (t : Int) (b : Bool) (h : v.im.st = .armed)
    (h2 : v.im.cfg.src ≠ src ∨ edgeOk src v.im.cfg.edge f = false) (h4 : v.im.shot = none)
    (h7 : ∀ e ∈ v.im.clkDue, t < e.2) (h8 : ∀ e ∈ v.im.recent, e.t ≠ t) :
    v.shotEdge src f t b = { v with im := { v.im with recent := [⟨src, f, t, b⟩] } } := by
  have hd : (decide (v.im.cfg.src = src) && edgeOk src v.im.cfg.edge f) = false := by
    rcases h2 with h | h
    · rw [decide_eq_false h]; rfl
    · rw [h, Bool.and_false]
  unfold State.shotEdge
  rw [clocks_none v t h7]
  unfold State.shotFeed State.closeWindows State.remember
  simp only [h, ne_eq, not_true_eq_false, false_and, reduceIte, h4, hd, true_or]
  rw [recent_one _ ⟨src, f, t, b⟩ h8]

/-- An engine that is neither armed nor running takes no edge; recovered-clock edges up to the time have passed. -/
theorem idle_edge (v : State) (src : Nat) (f : Bool) (t : Int) (b : Bool) (h : v.im.st ≠ .armed) (h' : v.im.st ≠ .running) :
    v.shotEdge src f t b = { v with im := { v.im with clkDue := v.im.clkDue.filter fun e => !decide (e.2 ≤ t) } } := by
  have hf : ∀ (w : State) a c d e, w.im.st = v.im.st → w.shotFeed a c d e = w := by
    intro w a c d e hw; unfold State.shotFeed; rw [if_pos ⟨by rw [hw]; exact h, by rw [hw]; exact h'⟩]
  have hl : ∀ (l : List (Nat × Int)) (w : State), w.im.st = v.im.st → l.foldl (fun s e => s.shotFeed e.1 false e.2 true) w = w := by
    intro l
    induction l with
    | nil => intro w _; rfl
    | cons a l ih => intro w hw; rw [List.foldl_cons, hf w _ _ _ _ hw]; exact ih w hw
  unfold State.shotEdge State.clocksUpTo
  dsimp +zetaHave only
  rw [hl _ _ (by rfl), hf _ _ _ _ _ (by rfl)]

theorem zc_off (v : State) (src : Nat) (f : Bool) (c d : Nat) (h : v.compat = false) : v.zcEvent src f c d = v := by
  unfold State.zcEvent; dsimp +zetaHave only; rw [if_pos (.inl h)]

theorem pad_fold (r : List Nat) : ∀ (vals : List (Nat × Nat)) (s : State), (vals.map (·.1)).Nodup → s.im.padRun = r →
    ∃ p, (vals.foldl (fun s v => if v.1 ∈ s.im.padRun then
      ({ s with im := { s.im with pad := s.im.pad.set 0 v.1 (v.2 % 2 ^ 32) } } : State) else s) s) =
      { s with im := { s.im with pad := p } } ∧ (∀ v ∈ vals, v.1 ∈ r → p.get 0 v.1 = v.2 % 2 ^ 32) ∧
    (∀ q, (q ∉ r ∨ q ∉ vals.map (·.1)) → p.get 0 q = s.im.pad.get 0 q) := by
  intro vals
  induction vals with
  | nil => intro s _ _; exact ⟨s.im.pad, rfl, fun v h => absurd h List.not_mem_nil, fun _ _ => rfl⟩
  | cons a l ih =>
    intro s hn hr
    obtain ⟨h1, h2⟩ := List.nodup_cons.mp hn
    rw [List.foldl_cons, hr]
    by_cases ha : a.1 ∈ r
    · rw [if_pos ha]
      obtain ⟨p, e1, e2, e3⟩ := ih ({ s with im := { s.im with pad := s.im.pad.set 0 a.1 (a.2 % 2 ^ 32) } } : State) h2 hr
      refine ⟨p, e1, ?_, ?_⟩
      · intro v hv hvr
        rcases List.mem_cons.mp hv with rfl | hv
        · rw [e3 v.1 (.inr h1)]; exact Map.get_set_same _ _ _ _
        · exact e2 v hv hvr
      · intro q hq
        rw [e3 q (hq.imp id fun h hh => h (List.mem_cons_of_mem _ hh))]
        refine Map.get_set_other _ _ _ _ _ ?_
        rintro rfl
        rcases hq with hq | hq
        · exact hq ha
        · exact hq (List.mem_cons_self ..)
    · rw [if_neg ha]
      obtain ⟨p, e1, e2, e3⟩ := ih s h2 hr
      refine ⟨p, e1, ?_, ?_⟩
      · intro v hv hvr
        rcases List.mem_cons.mp hv with rfl | hv
        · exact absurd hvr ha
        · exact e2 v hv hvr
      · exact fun q hq => e3 q (hq.imp id fun h hh => h (List.mem_cons_of_mem _ hh))

theorem raw_fold (st : Int) : ∀ (l : List StopRun) (x : State), ∃ r c, l.foldl (fun s q => s.pushRaw (rawRec st q)) x =
    { x with im := { x.im with raw := r }, cnt := c } := by
  intro l
  induction l with
  | nil => intro x; exact ⟨x.im.raw, x.cnt, rfl⟩
  | cons a l ih =>
    intro x
    have h : ∃ r c, x.pushRaw (rawRec st a) = { x with im := { x.im with raw := r }, cnt := c } := by
      unfold State.pushRaw; split
      · exact ⟨_, x.cnt, rfl⟩
      · exact ⟨x.im.raw, _, rfl⟩
    obtain ⟨r, c, h⟩ := h
    obtain ⟨r', c', h'⟩ := ih (x.pushRaw (rawRec st a))
    refine ⟨r', c', ?_⟩
    rw [List.foldl_cons, h', h]

theorem end_one (w : State) (sh : Shot) (r : StopRun) (t : Int) (h : sh.slots = [r]) (hs : r.stop = none) :
    (w.endShot sh t).im.shot = none ∧ (w.endShot sh t).im.shots = w.im.shots + 1 ∧
    (w.endShot sh t).im.stats.get {} r.cfg.k = { w.im.stats.get {} r.cfg.k with missed := (w.im.stats.get {} r.cfg.k).missed + 1 } ∧
    (w.endShot sh t).im.st = (if w.im.cfg.n ≤ w.im.shots + 1 then .done else .running) := by
  have hraw : ∀ (x : State) (b : Bool), ∃ r, (if b = true then sh.slots.foldl (fun s q => s.pushRaw (rawRec sh.start q)) x else x).im =
      { x.im with raw := r } := by
    intro x b
    cases b
    · exact ⟨x.im.raw, rfl⟩
    · obtain ⟨r, c, e⟩ := raw_fold sh.start sh.slots x
      refine ⟨r, ?_⟩
      rw [if_pos rfl, e]
  have hri : ∀ (w : State) (b : Bool) (k : Nat), (w.raiseIf b k).im = w.im := by
    intro w b k; unfold State.raiseIf; cases b <;> rfl
  unfold State.endShot
  dsimp +zetaHave only
  rw [hri]
  have key := hraw
  generalize hx : ({ w with im := { w.im with
    stats := sh.slots.foldl (fun m r =>
      m.set {} r.cfg.k (match r.stop with
      | some x => (m.get {} r.cfg.k).add x
      | none => { m.get {} r.cfg.k with missed := (m.get {} r.cfg.k).missed + 1 })) w.im.stats
    shots := w.im.shots + 1, shot := none, ended := some t
    start0 := if w.im.shots = 0 then sh.start else w.im.start0
    st := if decide (w.im.cfg.n ≤ w.im.shots + 1) = true then .done else .running
    claimDone := w.im.claimDone || (decide (w.im.cfg.n ≤ w.im.shots + 1) && w.im.claim.isSome) } } : State) = x
  obtain ⟨rr, e⟩ := hraw x (x.bit IM_CTL 5)
  have hx' := congrArg State.im hx
  have : (if (x.bit IM_CTL 5) = true then sh.slots.foldl (fun s q => s.pushRaw (rawRec sh.start q)) x else x).im.shot = none ∧
     (if (x.bit IM_CTL 5) = true then sh.slots.foldl (fun s q => s.pushRaw (rawRec sh.start q)) x else x).im.shots = w.im.shots + 1 ∧
     (if (x.bit IM_CTL 5) = true then sh.slots.foldl (fun s q => s.pushRaw (rawRec sh.start q)) x else x).im.stats.get {} r.cfg.k = { w.im.stats.get {} r.cfg.k with missed := (w.im.stats.get {} r.cfg.k).missed + 1 } ∧
     (if (x.bit IM_CTL 5) = true then sh.slots.foldl (fun s q => s.pushRaw (rawRec sh.start q)) x else x).im.st = (if w.im.cfg.n ≤ w.im.shots + 1 then .done else .running) := by
    rw [e, ← hx']
    dsimp only
    refine ⟨rfl, rfl, ?_, ?_⟩
    · rw [h]; dsimp only [List.foldl_cons, List.foldl_nil]; rw [hs]; exact Map.get_set_same _ _ _ _
    · by_cases hf : w.im.cfg.n ≤ w.im.shots + 1 <;> simp [hf]
  subst hx
  exact this

theorem ramps_none (s : State) (l : List RampCal) (h : ∀ r ∈ l, r.fails = false) : s.rampsFail l = s := by
  have : l.filter RampCal.fails = [] := by
    rw [List.filter_eq_nil_iff]; intro r hr; simp [h r hr]
  unfold State.rampsFail; rw [this]; rfl

theorem ramps_single (s : State) (r : RampCal) (h : r.fails = true) : s.rampsFail [r] = s.rampFails r.conv := by
  unfold State.rampsFail
  rw [List.filter_cons_of_pos h]; rfl

/-- What the rows CONVERTER_CAL_READY, RAMP_CALIBRATION do (R212, R213, R214). -/
theorem exec_converterCalReady_rampCalibration :
    (∀ r : RampCal, r.fails = true ↔ (65536 < 5 * mag ((r.span : Int) - 65536) ∨ r.codes < 4096 ∨ 20 < r.residual)) ∧
    (∀ (s : State) (ramps : List RampCal), s.up = true →
      (∀ part, s.im.calReady = true → exec (.converterCalReady ramps part) s = .next s) ∧
      (s.im.calReady = false → (∀ r ∈ ramps, r.fails = false) →
        exec (.converterCalReady ramps none) s = .next { s with im := { s.im with
          calReady := true, calDone := [], inl := max s.im.inl (inlOf ramps), padPend := true, calTick := s.clk.ticks } } ∧
        ∀ l, exec (.converterCalReady ramps (some l)) s = .next { s with im := { s.im with
          inl := max s.im.inl (inlOf ramps), calDone := (s.im.calDone ++ l).eraseDups } }) ∧
      (∀ edges, (s.im.calReady = false ∨ s.clk.ticks < s.im.calTick + s.calPeriod ∨ edges < 65536) →
        exec (.rampCalibration ramps edges) s = .next s) ∧
      (∀ edges, s.im.calReady = true → s.im.calTick + s.calPeriod ≤ s.clk.ticks → 65536 ≤ edges →
        (∀ r ∈ ramps, s.im.ramps.get 0 r.conv = 0 → r.fails = false) → exec (.rampCalibration ramps edges) s =
          .next { s with im := { s.im with
            inl := inlOf (ramps.filter fun r => decide (s.im.ramps.get 0 r.conv = 0)), swapPend := true, calTick := s.clk.ticks } }) ∧
      (∀ r : RampCal, r.fails = true →
        (s.im.calReady = false → ∃ t, exec (.converterCalReady [r] none) s = .next t ∧ t.im.calReady = true ∧
          t.im.ramps.get 0 r.conv = min 2 (s.im.ramps.get 0 r.conv + 1) ∧ (∀ k, k ≠ r.conv → t.im.ramps.get 0 k = s.im.ramps.get 0 k) ∧
          t.irq.getLsbD 14 = true) ∧
        (∀ edges, s.im.calReady = true → s.im.calTick + s.calPeriod ≤ s.clk.ticks → 65536 ≤ edges → s.im.ramps.get 0 r.conv = 0 →
          ∃ t, exec (.rampCalibration [r] edges) s = .next t ∧
          t.im.swapPend = true ∧ t.im.ramps.get 0 r.conv = 1 ∧
          (∀ k, k ≠ r.conv → t.im.ramps.get 0 k = s.im.ramps.get 0 k) ∧ t.irq.getLsbD 14 = true))) := by
  refine ⟨fun r => by unfold RampCal.fails; simp [or_assoc], ?_⟩
  intro s ramps hup
  have c1 : ∀ ramps part, exec (.converterCalReady ramps part) s = execConverterCalReady ramps part s := fun _ _ => rfl
  have c2 : ∀ ramps edges, exec (.rampCalibration ramps edges) s = execRampCalibration ramps edges s := fun _ _ => rfl
  refine ⟨?_, ?_, ?_, ?_, ?_⟩
  · intro part h; rw [c1, execConverterCalReady, State.main_up hup, if_pos h]
  · intro h hr
    refine ⟨?_, fun l => ?_⟩ <;>
    · rw [c1, execConverterCalReady, State.main_up hup, if_neg (by rw [h]; decide)]
      dsimp +zetaHave only
      rw [ramps_none _ _ hr]
  · intro edges h
    rw [c2, execRampCalibration, State.main_up hup, if_neg]
    rintro ⟨a, b, c⟩
    rcases h with h | h | h
    · rw [h] at a; exact absurd a (by decide)
    · omega
    · omega
  · intro edges h h' he hr
    rw [c2, execRampCalibration, State.main_up hup, if_pos ⟨h, h', he⟩]
    dsimp +zetaHave only
    rw [ramps_none]
    intro r hm
    obtain ⟨m1, m2⟩ := List.mem_filter.mp hm
    exact hr r m1 (of_decide_eq_true m2)
  · intro r hf
    refine ⟨?_, ?_⟩
    · intro h
      rw [c1, execConverterCalReady, State.main_up hup, if_neg (by rw [h]; decide)]
      dsimp +zetaHave only
      rw [ramps_single _ _ hf]
      obtain ⟨a, b, d, e, f⟩ := ramp_one { s with im := { s.im with inl := max s.im.inl (inlOf [r]) } } r.conv
      exact ⟨_, rfl, rfl, a, b, d⟩
    · intro edges h h' he h0
      rw [c2, execRampCalibration, State.main_up hup, if_pos ⟨h, h', he⟩]
      dsimp +zetaHave only
      rw [List.filter_cons_of_pos (by simp [h0]), List.filter_nil, ramps_single _ _ hf]
      obtain ⟨a, b, d, e, f⟩ := ramp_one { s with im := { s.im with inl := inlOf [r], swapPend := true, calTick := s.clk.ticks } } r.conv
      refine ⟨_, rfl, f, a.trans ?_, b, d⟩
      show min 2 (s.im.ramps.get 0 r.conv + 1) = 1
      rw [h0]; rfl

/-- What the row PAD_MEASUREMENT does (R216). -/
theorem exec_padMeasurement :
    (∀ (s : State) (vals : List (Nat × Nat)), s.up = true → (vals.map (·.1)).Nodup → ∃ t, exec (.padMeasurement vals) s = .next t ∧
      (∀ v ∈ vals, v.1 ∈ s.im.padRun → t.im.pad.get 0 v.1 = v.2 % 2 ^ 32) ∧
      (∀ p, (p ∉ s.im.padRun ∨ p ∉ vals.map (·.1)) → t.im.pad.get 0 p = s.im.pad.get 0 p) ∧
      t = { s with im := { s.im with pad := t.im.pad } }) := by
  intro s vals hup hn
  obtain ⟨p, e1, e2, e3⟩ := pad_fold s.im.padRun vals s hn rfl
  have c : exec (.padMeasurement vals) s = s.main fun s => vals.foldl (fun s v =>
    if v.1 ∈ s.im.padRun then { s with im := { s.im with pad := s.im.pad.set 0 v.1 (v.2 % 2 ^ 32) } } else s) s := rfl
  rw [c, State.main_up hup, e1]
  exact ⟨_, rfl, e2, e3, rfl⟩

/-- What the row PIN_EDGE does (R211). -/
theorem exec_pinEdge :
    (∀ (s : State) (pin : Nat) (falling : Bool) (e : Edge), s.up = true → (22 ≤ pin ∨ pin ∈ s.im.padRun) →
      exec (.pinEdge pin falling e) s = .next s) := by
  intro s pin falling e hup h
  rw [show exec (.pinEdge pin falling e) s = s.main fun s => s.pinEdge pin falling e from rfl, State.main_up hup]
  unfold State.pinEdge; rw [if_pos h]

/-- What the row PIN_EDGE does (R211). -/
theorem exec_pinEdge_2 :
    (∀ (s : State) (pin last : Nat) (falling : Bool) (e : Edge) (tt : Int), s.up = true → pin < 22 → pin ∉ s.im.padRun → s.im.st = .idle →
      s.compat = false → s.im.lastEdge.get none pin = some last → (s.atCyc e.cyc).absCode e < last + 8192 →
      tt = toUnits ((s.atCyc e.cyc).edgeFifths e - 5 * (if pin ≤ 13 then (s.padOf pin : Int) + toSigned 32 (s.rd (IM_INn_DELAY pin)) else 0)) →
      exec (.pinEdge pin falling e) s = .next (State.count { s.atCyc e.cyc with im := { s.im with
        clkDue := s.im.clkDue.filter fun e => !decide (e.2 ≤ tt) } } IM_CNT_CLOSE)) := by
  intro s pin last falling e tt hup hp hr hst hc hl hlt htt
  rw [show exec (.pinEdge pin falling e) s = s.main fun s => s.pinEdge pin falling e from rfl, State.main_up hup]
  unfold State.pinEdge
  rw [if_neg (by rintro (h | h); omega; exact hr h)]
  dsimp +zetaHave only
  have hl' : (s.atCyc e.cyc).im.lastEdge.get none pin = some last := hl
  rw [hl']
  dsimp only
  simp only [hlt, decide_true, reduceIte, Bool.true_eq_false, false_and, and_false]
  rw [idle_edge _ _ _ _ _ (by show s.im.st ≠ _; rw [hst]; decide) (by show s.im.st ≠ _; rw [hst]; decide), htt]
  split
  · rfl
  · split
    · rw [zc_off]
      · rfl
      · exact hc
    · rfl

/-- What the row PIN_EDGE does (R211). -/
theorem exec_pinEdge_3 :
    (∀ (s v : State) (pin : Nat) (falling : Bool) (e : Edge) (tt : Int), s.up = true → pin < 14 → pin ∉ s.im.padRun → s.im.st = .armed →
      s.compat = false → s.convTimes pin = true → s.im.lastEdge.get none pin = none → s.im.convFail = false →
      s.im.shot = none → s.im.ended = none → s.im.cfg.slots ≠ [] → v = s.atCyc e.cyc →
      tt = toUnits (v.edgeFifths e - 5 * ((s.padOf pin : Int) + toSigned 32 (s.rd (IM_INn_DELAY pin)))) →
      (∀ c ∈ s.im.clkDue, tt < c.2) → (∀ c ∈ s.im.recent, c.t ≠ tt) →
      (s.im.cfg.src = pin ∧ edgeOk pin s.im.cfg.edge falling = true →
        exec (.pinEdge pin falling e) s = .next { v with im := { s.im with
          st := .running, lastEdge := s.im.lastEdge.set none pin (some (v.absCode e)), recent := [⟨pin, falling, tt, true⟩]
          shot := some { start := tt, slots := s.im.cfg.slots.map fun c => { cfg := c } } } }) ∧
      ((s.im.cfg.src ≠ pin ∨ edgeOk pin s.im.cfg.edge falling = false) → exec (.pinEdge pin falling e) s =
        .next { v with im := { s.im with
          lastEdge := s.im.lastEdge.set none pin (some (v.absCode e)), recent := [⟨pin, falling, tt, true⟩] } })) := by
  intro s v pin falling e tt hup hp hr hst hc hcv hl hf hsh hen hsl rfl htt hck hrc
  generalize hw : ({ s.atCyc e.cyc with im := { s.im with lastEdge := s.im.lastEdge.set none pin (some ((s.atCyc e.cyc).absCode e)) } } : State) = w
  have key : exec (.pinEdge pin falling e) s = .next (w.shotEdge pin falling tt true) := by
    rw [show exec (.pinEdge pin falling e) s = s.main fun s => s.pinEdge pin falling e from rfl, State.main_up hup]
    unfold State.pinEdge
    rw [if_neg (by rintro (h | h); omega; exact hr h)]
    dsimp +zetaHave only
    have hl' : (s.atCyc e.cyc).im.lastEdge.get none pin = none := hl
    rw [hl']
    dsimp only
    simp only [Bool.false_eq_true, reduceIte, show ¬ 14 ≤ pin by omega, show pin ≤ 13 by omega, Bool.not_false, Bool.true_and]
    have ht : ∀ w : State, w.convTimes pin = s.convTimes pin → w.im.padRun = s.im.padRun → w.pinTimed pin = true := by
      intro w h1 h3
      unfold State.pinTimed
      rw [h1, h3, hcv, decide_eq_true hr]; rfl
    have hz : ∀ w : State, w.regs = s.regs → (if pin ≤ 7 then w.zcEvent pin falling (zcSample (w.absCyc e.cyc) e.code).1
        (zcSample (w.absCyc e.cyc) e.code).2 else w) = w := by
      intro w hw
      split
      · rw [zc_off]; show bitOf (w.regs.get _ _).toNat 4 = false; rw [hw]; exact hc
      · rfl
    have hps : pinSrc pin = pin := if_pos (by omega)
    rw [ht, hps]
    rotate_left
    · rfl
    · rfl
    rw [show (s.atCyc e.cyc).padOf pin = s.padOf pin from rfl, show (s.atCyc e.cyc).rd (IM_INn_DELAY pin) = s.rd (IM_INn_DELAY pin) from rfl]
    have hw2 : ({ s.atCyc e.cyc with im := { (s.atCyc e.cyc).im with lastEdge := (s.atCyc e.cyc).im.lastEdge.set none pin (some ((s.atCyc e.cyc).absCode e)) } } : State) = w := hw
    dsimp only at hw2
    rw [hw2, ← htt]
    have g4 : (w.shotEdge pin falling tt true).regs = s.regs := by
      have g : w.regs = s.regs := by rw [← hw]; rfl
      by_cases hh : s.im.cfg.src ≠ pin ∨ edgeOk pin s.im.cfg.edge falling = false
      · rw [other_edge _ _ _ _ _ (by rw [← hw]; exact hst) (by rw [← hw]; exact hh) (by rw [← hw]; exact hsh)
          (by rw [← hw]; exact hck) (by rw [← hw]; exact hrc)]
        exact g
      · have h1 : s.im.cfg.src = pin := Classical.not_not.mp fun h => hh (.inl h)
        have h2 : edgeOk pin s.im.cfg.edge falling = true := by
          cases h : edgeOk pin s.im.cfg.edge falling
          · exact absurd (.inr h) hh
          · rfl
        rw [start_edge _ _ _ _ (by rw [← hw]; exact hst) (by rw [← hw]; exact h1) (by rw [← hw]; exact h2) (by rw [← hw]; exact hf)
          (by rw [← hw]; exact hsh) (by rw [← hw]; exact hen) (by rw [← hw]; exact hsl) (by rw [← hw]; exact hck) (by rw [← hw]; exact hrc)]
        exact g
    rw [hz _ g4]
  refine ⟨?_, ?_⟩
  · rintro ⟨h1, h2⟩
    rw [key, start_edge _ _ _ _ (by rw [← hw]; exact hst) (by rw [← hw]; exact h1) (by rw [← hw]; exact h2) (by rw [← hw]; exact hf)
      (by rw [← hw]; exact hsh) (by rw [← hw]; exact hen) (by rw [← hw]; exact hsl) (by rw [← hw]; exact hck) (by rw [← hw]; exact hrc), ← hw]
  · intro h
    rw [key, other_edge _ _ _ _ _ (by rw [← hw]; exact hst) (by rw [← hw]; exact h) (by rw [← hw]; exact hsh)
      (by rw [← hw]; exact hck) (by rw [← hw]; exact hrc), ← hw]

/-- What the row TIMED_START does (R217). -/
theorem exec_timedStart :
    (∀ s : State, s.up = true →
      ((s.im.st ≠ .armed ∨ s.im.cfg.src ≠ 0x19 ∨ s.clk.course * 625 + 624 < s.im.cfg.timedCycle) → exec .timedStart s = .next s) ∧
      (∀ tt, s.im.st = .armed → s.im.cfg.src = 0x19 → s.im.cfg.timedCycle ≤ s.clk.course * 625 + 624 → s.im.convFail = false →
        s.im.shot = none → s.im.ended = none → s.im.cfg.slots ≠ [] → tt = toUnits ((s.im.cfg.timedCycle : Int) * cycleFifths) →
        (∀ c ∈ s.im.clkDue, tt < c.2) → (∀ c ∈ s.im.recent, c.t ≠ tt) → exec .timedStart s = .next { s with im := { s.im with
          st := .running, recent := [⟨0x19, false, tt, true⟩]
          shot := some { start := tt, slots := s.im.cfg.slots.map fun c => { cfg := c } } } })) := by
  intro s hup
  have c : exec .timedStart s = s.main fun s => s.timedStart (s.clk.course * 625 + 624) := rfl
  refine ⟨?_, ?_⟩
  · intro h
    rw [c, State.main_up hup]
    unfold State.timedStart; dsimp +zetaHave only
    rw [if_neg]
    rintro ⟨h1, h2, h3⟩
    rcases h with h | h | h
    · exact h h1
    · exact h h2
    · omega
  · rintro tt h1 h2 h3 h4 h5 h6 h7 rfl h8 h9
    rw [c, State.main_up hup]
    unfold State.timedStart; dsimp +zetaHave only
    rw [if_pos ⟨h1, h2, h3⟩, start_edge _ _ _ _ h1 h2 rfl h4 h5 h6 h7 h8 h9]

/-- What the row SHOT_WINDOW_CLOSE does (R218). -/
theorem exec_shotWindowClose :
    (∀ (s v : State) (cyc : Nat), s.up = true → v = s.atCyc cyc → (∀ c ∈ s.im.clkDue, v.nowUnits < c.2) →
      (s.im.shot = none → exec (.shotWindowClose cyc) s = .next v) ∧
      (∀ sh : Shot, s.im.shot = some sh → (∀ r ∈ sh.slots, r.over = true ∨ pastCycles (v.nowUnits - sh.start) r.cfg.hi = false) →
        exec (.shotWindowClose cyc) s = .next v) ∧
      (∀ (sh : Shot) (r : StopRun), s.im.shot = some sh → sh.slots = [r] → r.over = false → pastCycles (v.nowUnits - sh.start) r.cfg.hi = true →
        ∃ t, exec (.shotWindowClose cyc) s = .next t ∧ t.im.shot = none ∧ t.im.shots = s.im.shots + 1 ∧
        t.im.stats.get {} r.cfg.k = { s.im.stats.get {} r.cfg.k with missed := (s.im.stats.get {} r.cfg.k).missed + 1 } ∧
        t.im.st = (if s.im.cfg.n ≤ s.im.shots + 1 then .done else .running))) := by
  intro s v cyc hup rfl hck
  have c : exec (.shotWindowClose cyc) s = s.main fun s => (s.atCyc cyc).shotTime (s.atCyc cyc).nowUnits := rfl
  have c' : exec (.shotWindowClose cyc) s = .next ((s.atCyc cyc).closeWindows (s.atCyc cyc).nowUnits) := by
    rw [c, State.main_up hup]; unfold State.shotTime; rw [clocks_none _ _ (by exact hck)]
  refine ⟨?_, ?_, ?_⟩
  · intro h
    rw [c']; unfold State.closeWindows
    rw [show (s.atCyc cyc).im.shot = none from h]
  · intro sh h h'
    rw [c']; unfold State.closeWindows
    rw [show (s.atCyc cyc).im.shot = some sh from h]
    dsimp +zetaHave only
    rw [if_neg]
    simp only [Bool.not_eq_true, List.any_eq_false]
    intro r hr
    rcases h' r hr with h'' | h'' <;> simp [h'']
  · intro sh r h h1 h2 h3
    rw [c']; unfold State.closeWindows
    rw [show (s.atCyc cyc).im.shot = some sh from h]
    dsimp +zetaHave only
    rw [h1]
    rw [if_pos (by simp [h2, h3])]
    unfold State.putShot
    dsimp only [List.map_cons, List.map_nil]
    rw [if_pos (by simp only [List.map_cons, List.map_nil, h2, h3]; dsimp; simp [StopRun.over])]
    simp only [List.map_cons, List.map_nil, h2, h3]
    simp only [List.foldl_cons, List.foldl_nil, h2, h3, Bool.not_false, Bool.and_self, reduceIte]
    generalize max sh.start (winEnd sh.start r.cfg) = tt
    have hr : r.stop = none := by
      unfold StopRun.over at h2
      cases hh : r.stop with
      | none => rfl
      | some x => rw [hh] at h2; exact absurd h2 (by simp)
    generalize hu : s.atCyc cyc = u
    have hi : u.im = s.im := by rw [← hu]; rfl
    refine ⟨_, rfl, ?_⟩
    have := end_one u { sh with slots := [{ r with missed := true }] } { r with missed := true } tt rfl hr
    rw [hi] at this
    exact this

theorem im_rd (v : Nat) (h : v &&& 0x30 = v) : v = 0 ∨ v = 16 ∨ v = 32 ∨ v = 48 := by
  have h1 : v ≤ 0x30 := by rw [← h]; exact Nat.and_le_right
  have : ∀ n, n ≤ 0x30 → n &&& 0x30 = n → n = 0 ∨ n = 16 ∨ n = 32 ∨ n = 48 := by decide
  exact this v h1 h

theorem im_write {s : State} (h : s.Serving) (v : Nat) (hv : v < 2 ^ 32) :
    s.writeBy .host IM_CTL.off false v = (s.touch .host IM_CTL.off).imCtlWrite v := by
  rw [State.writeBy_serving h _ _ _ _ (by decide)]
  rw [show IM_CTL.off = 0x4000 from rfl, State.regWrite_4000, Nat.mod_eq_of_lt hv]
  have e : (s.touch .host 0x4000).rwReg 0x4000 = some IM_CTL := by
    unfold State.rwReg; cases (s.touch .host 0x4000).isEave <;> rfl
  unfold State.putReg
  rw [e]
  dsimp only
  unfold State.putRw
  dsimp +zetaHave only
  rw [show IM_CTL.off = 0x4000 from rfl, State.portAt_low _ _ (by decide)]
  rfl

theorem imcal_write {s : State} (h : s.Serving) (v : Nat) (hv : v < 2 ^ 32) :
    s.writeBy .host IM_CAL_CFG.off false v = (s.touch .host IM_CAL_CFG.off).imCalCfgWrite v := by
  rw [State.writeBy_serving h _ _ _ _ (by decide)]
  rw [show IM_CAL_CFG.off = 0x4050 from rfl, State.regWrite_4050, Nat.mod_eq_of_lt hv]
  have e : (s.touch .host 0x4050).rwReg 0x4050 = some IM_CAL_CFG := by
    unfold State.rwReg; cases (s.touch .host 0x4050).isEave <;> rfl
  unfold State.putReg
  rw [e]
  dsimp only
  unfold State.putRw
  dsimp +zetaHave only
  rw [show IM_CAL_CFG.off = 0x4050 from rfl, State.portAt_low _ _ (by decide)]
  rfl

theorem zc_write {s : State} (h : s.Serving) (v : Nat) (hv : v < 2 ^ 32) :
    s.writeBy .host ZC_CTL.off false v = (s.touch .host ZC_CTL.off).zcCtlWrite v := by
  rw [State.writeBy_serving h _ _ _ _ (by decide)]
  rw [show ZC_CTL.off = 0xC000 from rfl, State.regWrite_C000, Nat.mod_eq_of_lt hv]
  have e : (s.touch .host 0xC000).rwReg 0xC000 = some ZC_CTL := by
    unfold State.rwReg; cases (s.touch .host 0xC000).isEave <;> rfl
  unfold State.putReg
  rw [e]
  dsimp only
  unfold State.putRw
  dsimp +zetaHave only
  rw [show ZC_CTL.off = 0xC000 from rfl, State.portAt_low _ _ (by decide)]
  rfl

theorem im_bits (u : State) (v : Nat) (h : u.rd IM_CTL &&& 0x30 = u.rd IM_CTL) (h5 : bitOf v 5 = bitOf (u.rd IM_CTL) 5) :
    u.wrFld IM_CTL 5 1 (bnat (bitOf v 5)) = u.wr IM_CTL (u.rd IM_CTL) := by
  unfold State.wrFld
  dsimp +zetaHave only
  rw [h5]
  congr 1
  rcases im_rd _ h with h | h | h | h <;> rw [h] <;> decide

theorem im_ctl (u : State) (v : Nat) (h : u.rd IM_CTL &&& 0x30 = u.rd IM_CTL) (h5 : bitOf v 5 = bitOf (u.rd IM_CTL) 5)
    (h4 : bitOf v 4 = bitOf (u.rd IM_CTL) 4) : u.imCtlWrite v =
      (let s := u.wr IM_CTL (u.rd IM_CTL)
       let s := if bitOf v 2 then s.imAbort else s
       let s := if bitOf v 1 then s.imArm else s
       if bitOf v 3 then s.imGo else s) := by
  unfold State.imCtlWrite
  rw [im_bits u v h h5]
  have hm : (u.wr IM_CTL (u.rd IM_CTL)).imMode (bitOf v 4) = u.wr IM_CTL (u.rd IM_CTL) := by
    unfold State.imMode
    rw [if_pos]
    right
    unfold State.compat State.bit
    rw [wr_keep u IM_CTL _ (by decide) h IM_CTL (.inl rfl), h4]
  rw [hm]

theorem armOk_wr (s w : State) (hr : ∀ q, q = IM_CTL ∨ q.off ≠ IM_CTL.off → w.rd q = s.rd q) (hi : w.im = s.im) (hc : w.clk = s.clk)
    (ht : w.ties = s.ties) : w.measCfg = s.measCfg ∧ w.armOk = s.armOk := by
  have hm : w.measCfg = s.measCfg := by
    unfold State.measCfg State.imN State.fl State.bit
    have hk : ∀ k, w.rd (IM_Sk_CFG k) = s.rd (IM_Sk_CFG k) := fun k => hr _ (.inr (by show 0x4100 + k * 0x40 + 0x00 ≠ 0x4000; omega))
    have hk2 : ∀ k, w.rd (IM_Sk_EDGE_N k) = s.rd (IM_Sk_EDGE_N k) := fun k => hr _ (.inr (by show 0x4100 + k * 0x40 + 0x04 ≠ 0x4000; omega))
    have hk3 : ∀ k, w.rd (IM_Sk_WIN_LO k) = s.rd (IM_Sk_WIN_LO k) := fun k => hr _ (.inr (by show 0x4100 + k * 0x40 + 0x08 ≠ 0x4000; omega))
    have hk4 : ∀ k, w.rd (IM_Sk_WIN_HI k) = s.rd (IM_Sk_WIN_HI k) := fun k => hr _ (.inr (by show 0x4100 + k * 0x40 + 0x0C ≠ 0x4000; omega))
    rw [hr IM_START_CFG (.inr (by decide)), hr IM_PORT (.inr (by decide)), hr IM_N (.inr (by decide)), hr IM_START_AT (.inr (by decide))]
    simp only [hk, hk2, hk3, hk4]
  refine ⟨hm, ?_⟩
  unfold State.armOk State.imBusy State.compat State.bit State.nowUnits State.nPorts State.isEave State.isRidge
  rw [hm, hr IM_CTL (.inl rfl), hi, hc, ht]

/-- The three single actions of IM_CTL: the write stores the bits it held. -/
theorem im_action {s : State} (h : s.Serving) (hm : s.rd IM_CTL &&& 0x30 = s.rd IM_CTL) (k : Nat) (hk : k = 2 ∨ k = 4 ∨ k = 8) :
    ∃ w : State, w.im = s.im ∧ (∀ r, r = IM_CTL ∨ r.off ≠ IM_CTL.off → w.rd r = s.rd r) ∧ w.clk = s.clk ∧ w.ties = s.ties ∧
      w.still = ({ s with regs := w.regs } : State).still ∧
      s.writeBy .host IM_CTL.off false (s.rd IM_CTL + k) = if k = 4 then w.imAbort else if k = 2 then w.imArm else w.imGo := by
  have hv := im_rd _ hm
  rw [im_write h _ (by omega)]
  have ht := touch_more s .host IM_CTL.off
  have hrd := ht.1 IM_CTL
  have e := im_ctl (s.touch .host IM_CTL.off) (s.rd IM_CTL + k) (by rw [hrd]; exact hm)
    (by rw [hrd]; rcases hv with h | h | h | h <;> rw [h] <;> rcases hk with rfl | rfl | rfl <;> decide)
    (by rw [hrd]; rcases hv with h | h | h | h <;> rw [h] <;> rcases hk with rfl | rfl | rfl <;> decide)
  have b1 : bitOf (s.rd IM_CTL + k) 1 = decide (k = 2) := by rcases hv with h | h | h | h <;> rw [h] <;> rcases hk with rfl | rfl | rfl <;> decide
  have b2 : bitOf (s.rd IM_CTL + k) 2 = decide (k = 4) := by rcases hv with h | h | h | h <;> rw [h] <;> rcases hk with rfl | rfl | rfl <;> decide
  have b3 : bitOf (s.rd IM_CTL + k) 3 = decide (k = 8) := by rcases hv with h | h | h | h <;> rw [h] <;> rcases hk with rfl | rfl | rfl <;> decide
  rw [e, b1, b2, b3]
  refine ⟨(s.touch .host IM_CTL.off).wr IM_CTL ((s.touch .host IM_CTL.off).rd IM_CTL), ht.2.2.2.2.1, ?_, ht.2.2.2.1, ht.2.2.1, ?_, ?_⟩
  · intro r hr
    rw [wr_keep _ IM_CTL _ (by decide) (by rw [hrd]; exact hm) r hr, ht.1]
  · obtain ⟨c, o, b, g, ht, hc⟩ := s.touch_form .host IM_CTL.off
    rw [ht]; rfl
  · rcases hk with rfl | rfl | rfl <;> rfl

theorem zcArm_eq (w : State) (hc : w.compat = true) : w.zcArm = w.setZc { w.im.zc with
    armed := true, held := false, start := if w.zcStartSrc = 9 then some (w.absCyc w.clk.cyc, 0) else none } := by
  unfold State.zcArm
  dsimp +zetaHave only
  generalize hx : w.setZc { w.im.zc with armed := true, held := false, start := none } = x
  have h1 : x.zcStartSrc = w.zcStartSrc := by rw [← hx]; rfl
  have h2 : x.compat = true := by rw [← hx]; exact hc
  have h3 : x.im.zc = { w.im.zc with armed := true, held := false, start := none } := by rw [← hx]; rfl
  have h4 : x.absCyc x.clk.cyc = w.absCyc w.clk.cyc := by rw [← hx]; rfl
  rw [h1]
  by_cases h9 : w.zcStartSrc = 9
  · rw [if_pos h9, if_pos h9]
    unfold State.zcEvent
    rw [h1, h2, h3, h4, h9]
    simp only [Bool.true_eq_false, or_self, reduceIte, true_and, or_true, true_or]
    rw [← hx]; rfl
  · rw [if_neg h9, if_neg h9, hx]

/-- What the rows IM_ARM, IM_ABORT, IM_GO, IM_MODE_WRITE do (R217, R223, R225, R227). -/
theorem exec_imArm_imAbort_imGo_more :
    (∀ s : State, s.Serving → s.rd IM_CTL &&& 0x30 = s.rd IM_CTL →
      (∃ t, exec .imArm s = .next t ∧ (∀ r, r = IM_CTL ∨ r.off ≠ IM_CTL.off → t.rd r = s.rd r) ∧
        t.still = ({ s with im := t.im, regs := t.regs } : State).still ∧
        t.im = if s.armOk then { s.im with
            st := .armed, reason := 0, convFail := false, cfg := s.measCfg, shots := 0, start0 := 0, shot := none, ended := none
            recent := [], stats := [], raw := [], claimDone := false }
          else { s.im with armErr := true }) ∧
      (∃ t, exec .imAbort s = .next t ∧ (∀ r, r = IM_CTL ∨ r.off ≠ IM_CTL.off → t.rd r = s.rd r) ∧
        t.still = ({ s with im := t.im, regs := t.regs } : State).still ∧
        t.im = if s.im.st = .armed ∨ s.im.st = .running then
            { s.im with shot := none, st := .aborted, reason := 1, claimDone := s.im.claim.isSome }
          else s.im) ∧
      (s.im.st ≠ .armed → s.im.st ≠ .running → ∃ t, exec .imGo s = .next t ∧ (∀ r, r = IM_CTL ∨ r.off ≠ IM_CTL.off → t.rd r = s.rd r) ∧
        t.still = ({ s with
          regs := t.regs, im := { s.im with clkDue := s.im.clkDue.filter fun e => !decide (e.2 ≤ s.nowUnits) } } : State).still) ∧
      (s.im.st = .armed → s.im.cfg.src = 0x1A → s.im.convFail = false → s.im.shot = none → s.im.ended = none → s.im.cfg.slots ≠ [] →
        (∀ c ∈ s.im.clkDue, s.nowUnits < c.2) → (∀ c ∈ s.im.recent, c.t ≠ s.nowUnits) →
        ∃ t, exec .imGo s = .next t ∧ (∀ r, r = IM_CTL ∨ r.off ≠ IM_CTL.off → t.rd r = s.rd r) ∧
        t.still = ({ s with im := t.im, regs := t.regs } : State).still ∧
        t.im = { s.im with
          st := .running, recent := [⟨0x1A, false, s.nowUnits, true⟩]
          shot := some { start := s.nowUnits, slots := s.im.cfg.slots.map fun c => { cfg := c } } }) ∧
      (∀ on : Bool, ((s.im.st = .armed ∨ s.im.st = .running ∨ s.compat = on) → ∃ t, exec (.imModeWrite on) s = .next t ∧
          (∀ r, r = IM_CTL ∨ r.off ≠ IM_CTL.off → t.rd r = s.rd r) ∧ t.still = ({ s with regs := t.regs } : State).still) ∧
        (s.im.st ≠ .armed → s.im.st ≠ .running → s.compat ≠ on → ∃ t, exec (.imModeWrite on) s = .next t ∧
          t.compat = on ∧ t.bit IM_CTL 5 = s.bit IM_CTL 5 ∧ (∀ r : Reg, r.off ≠ IM_CTL.off → t.rd r = s.rd r) ∧
          t.still = ({ s with im := { s.im with zc := {} }, regs := t.regs } : State).still))) := by
  intro s hs hm
  refine ⟨?_, ?_, ?_, ?_, ?_⟩
  · obtain ⟨w, e1, e2, e3, e4, e5, e6⟩ := im_action hs hm 2 (.inl rfl)
    obtain ⟨a1, a2⟩ := armOk_wr s w e2 e1 e3 e4
    refine ⟨w.imArm, congrArg _ (e6.trans rfl), ?_⟩
    unfold State.imArm
    rw [a1, a2]
    by_cases hb : s.armOk = true
    · rw [if_pos hb, if_pos hb]
      obtain ⟨o, g, hg⟩ := w.openGate_form 6
      rw [hg]
      refine ⟨fun r hr => (e2 r hr), still_im w s { w.im with
        st := .armed, reason := 0, convFail := false, cfg := s.measCfg, shots := 0, start0 := 0, shot := none, ended := none
        recent := [], stats := [], raw := [], claimDone := false } w.regs e5, ?_⟩
      show ({ w.im with
        st := _, reason := _, convFail := _, cfg := _, shots := _, start0 := _, shot := _, ended := _, recent := _, stats := _, raw := _, claimDone := _ } : Imu) = _
      rw [e1]
    · rw [if_neg hb, if_neg hb]
      refine ⟨fun r hr => (e2 r hr), still_im w s _ w.regs e5, ?_⟩
      show ({ w.im with armErr := true } : Imu) = _
      rw [e1]
  · obtain ⟨w, e1, e2, e3, e4, e5, e6⟩ := im_action hs hm 4 (.inr (.inl rfl))
    refine ⟨w.imAbort, congrArg _ (e6.trans rfl), ?_⟩
    unfold State.imAbort State.abortShots
    rw [e1]
    split
    · refine ⟨fun r hr => (e2 r hr), still_im w s _ w.regs e5, ?_⟩
      rfl
    · exact ⟨fun r hr => (e2 r hr), still_im w s w.im w.regs e5, e1⟩
  · intro h1 h2
    obtain ⟨w, e1, e2, e3, e4, e5, e6⟩ := im_action hs hm 8 (.inr (.inr rfl))
    refine ⟨w.imGo, congrArg _ (e6.trans rfl), ?_⟩
    unfold State.imGo
    rw [idle_edge _ _ _ _ _ (by rw [e1]; exact h1) (by rw [e1]; exact h2)]
    refine ⟨e2, ?_⟩
    rw [show w.nowUnits = s.nowUnits by unfold State.nowUnits; rw [e3], e1]
    exact congrArg (fun x : State => ({ x with im := { s.im with clkDue := s.im.clkDue.filter fun e => !decide (e.2 ≤ s.nowUnits) } } : State)) e5
  · intro h1 h2 h3 h4 h5 h6 h7 h8
    obtain ⟨w, e1, e2, e3, e4, e5, e6⟩ := im_action hs hm 8 (.inr (.inr rfl))
    refine ⟨w.imGo, congrArg _ (e6.trans rfl), ?_⟩
    unfold State.imGo
    have hn : w.nowUnits = s.nowUnits := by unfold State.nowUnits; rw [e3]
    rw [start_edge _ _ _ _ (by rw [e1]; exact h1) (by rw [e1]; exact h2) rfl (by rw [e1]; exact h3) (by rw [e1]; exact h4) (by rw [e1]; exact h5)
      (by rw [e1]; exact h6) (by rw [e1, hn]; exact h7) (by rw [e1, hn]; exact h8)]
    refine ⟨fun r hr => (e2 r hr), still_im w s _ w.regs e5, ?_⟩
    show ({ w.im with st := _, recent := _, shot := _ } : Imu) = _
    rw [e1, hn]
  · intro on
    have hv := im_rd _ hm
    have hlt : s.rd IM_CTL &&& 0x20 ||| bitAt on 4 < 2 ^ 32 := by rcases hv with h | h | h | h <;> rw [h] <;> cases on <;> decide
    have key : exec (.imModeWrite on) s = .next ((s.touch .host IM_CTL.off).imCtlWrite (s.rd IM_CTL &&& 0x20 ||| bitAt on 4)) :=
      congrArg _ (im_write hs _ hlt)
    have ht := touch_more s .host IM_CTL.off
    have hrd := ht.1 IM_CTL
    have b5 : bitOf (s.rd IM_CTL &&& 0x20 ||| bitAt on 4) 5 = bitOf (s.rd IM_CTL) 5 := by rcases hv with h | h | h | h <;> rw [h] <;> cases on <;> decide
    have b4 : bitOf (s.rd IM_CTL &&& 0x20 ||| bitAt on 4) 4 = on := by rcases hv with h | h | h | h <;> rw [h] <;> cases on <;> decide
    have b1 : bitOf (s.rd IM_CTL &&& 0x20 ||| bitAt on 4) 1 = false := by rcases hv with h | h | h | h <;> rw [h] <;> cases on <;> decide
    have b2 : bitOf (s.rd IM_CTL &&& 0x20 ||| bitAt on 4) 2 = false := by rcases hv with h | h | h | h <;> rw [h] <;> cases on <;> decide
    have b3 : bitOf (s.rd IM_CTL &&& 0x20 ||| bitAt on 4) 3 = false := by rcases hv with h | h | h | h <;> rw [h] <;> cases on <;> decide
    have hmode : ∀ u : State, u.rd IM_CTL = s.rd IM_CTL →
        u.imCtlWrite (s.rd IM_CTL &&& 0x20 ||| bitAt on 4) = (u.wr IM_CTL (u.rd IM_CTL)).imMode on := by
      intro u hu
      unfold State.imCtlWrite
      rw [im_bits u _ (by rw [hu]; exact hm) (by rw [hu]; exact b5), b4, b1, b2, b3]
      rfl
    rw [key, hmode _ hrd]
    obtain ⟨c, o, b, g, hf, hc⟩ := s.touch_form .host IM_CTL.off
    have hk : ∀ r, r = IM_CTL ∨ r.off ≠ IM_CTL.off → ((s.touch .host IM_CTL.off).wr IM_CTL ((s.touch .host IM_CTL.off).rd IM_CTL)).rd r = s.rd r := by
      intro r hr
      rw [wr_keep _ IM_CTL _ (by decide) (by rw [hrd]; exact hm) r hr, ht.1]
    generalize hw : (s.touch .host IM_CTL.off).wr IM_CTL ((s.touch .host IM_CTL.off).rd IM_CTL) = w at hk
    have e1 : w.im = s.im := by rw [← hw]; exact ht.2.2.2.2.1
    have e5 : w.still = ({ s with regs := w.regs } : State).still := by rw [← hw, hf]; rfl
    have hcmp : w.compat = s.compat := by unfold State.compat State.bit; rw [hk IM_CTL (.inl rfl)]
    refine ⟨?_, ?_⟩
    · intro h
      refine ⟨_, rfl, ?_⟩
      unfold State.imMode State.imBusy
      rw [if_pos]
      · exact ⟨hk, e5⟩
      · rw [e1, hcmp]
        rcases h with h | h | h
        · left; rw [h]; rfl
        · left; rw [h]; rfl
        · right; exact h
    · intro h1 h2 h3
      refine ⟨_, rfl, ?_⟩
      unfold State.imMode State.imBusy
      rw [if_neg]
      · obtain ⟨o', g', hg⟩ := ({ w with im := { w.im with zc := {} } } : State).openGate_form 7
        generalize hx : State.openGate ({ w with im := { w.im with zc := {} } } : State) 7 = x at hg
        have hr2 : x.rd IM_CTL = s.rd IM_CTL := by rw [hg]; exact hk IM_CTL (.inl rfl)
        unfold State.wrFld
        dsimp +zetaHave only
        have hv2 : ∀ x : State, x.rd IM_CTL = s.rd IM_CTL → (x.wr IM_CTL (x.rd IM_CTL - field (x.rd IM_CTL) 4 1 * 2 ^ 4 + (bnat on % 2 ^ 1) * 2 ^ 4)).rd IM_CTL
            = s.rd IM_CTL &&& 0x20 ||| bitAt on 4 := by
          intro x hx
          rw [State.rd_wr _ _ _ (by decide), hx]
          rcases hv with h | h | h | h <;> rw [h] <;> cases on <;> decide
        refine ⟨?_, ?_, ?_, ?_⟩
        · unfold State.compat State.bit
          rw [hv2 _ hr2]; exact b4
        · unfold State.bit
          rw [hv2 _ hr2]; exact b5
        · intro r hr
          rw [State.rd_wr_other _ _ _ _ hr, hg]
          exact hk r (.inr hr)
        · generalize x.rd IM_CTL - field (x.rd IM_CTL) 4 1 * 2 ^ 4 + (bnat on % 2 ^ 1) * 2 ^ 4 = vv
          have := congrArg (fun y : State => ({ y with im := { w.im with zc := {} }, regs := (x.wr IM_CTL vv).regs } : State)) e5
          rw [hg] at this ⊢
          rw [← e1]
          exact this
      · rw [e1, hcmp, decide_eq_false h1, decide_eq_false h2]
        rintro (h | h)
        · exact absurd h (by decide)
        · exact h3 h

/-- What the row PAD_RECAL does (R216). -/
theorem exec_padRecal :
    (∀ s : State, s.Serving → s.rd IM_CAL_CFG &&& IM_CAL_CFG.mask = s.rd IM_CAL_CFG → ∃ t, exec .padRecal s = .next t ∧
      (∀ r, r = IM_CAL_CFG ∨ r.off ≠ IM_CAL_CFG.off → t.rd r = s.rd r) ∧ t.still = ({ s with im := { s.im with padPend := true }, regs := t.regs } : State).still) := by
  intro s hs hm
  have hlt : s.rd IM_CAL_CFG + 256 < 2 ^ 32 := by
    have : s.rd IM_CAL_CFG ≤ IM_CAL_CFG.mask := by rw [← hm]; exact Nat.and_le_right
    have : IM_CAL_CFG.mask = 31 := rfl
    omega
  have hle : s.rd IM_CAL_CFG < 32 := by
    have : s.rd IM_CAL_CFG ≤ IM_CAL_CFG.mask := by rw [← hm]; exact Nat.and_le_right
    have : IM_CAL_CFG.mask = 31 := rfl
    omega
  have key : exec .padRecal s = .next ((s.touch .host IM_CAL_CFG.off).imCalCfgWrite (s.rd IM_CAL_CFG + 256)) :=
    congrArg _ (imcal_write hs _ hlt)
  have ht := touch_more s .host IM_CAL_CFG.off
  have hrd := ht.1 IM_CAL_CFG
  have f1 : ∀ n, n < 32 → (n + 256) &&& 31 = n ∧ bitOf (n + 256) 8 = true := by decide
  have b8 := (f1 _ hle).2
  rw [key]
  unfold State.imCalCfgWrite
  rw [b8]
  obtain ⟨c, o, b, g, hf, hc⟩ := s.touch_form .host IM_CAL_CFG.off
  have hk : ∀ r, r = IM_CAL_CFG ∨ r.off ≠ IM_CAL_CFG.off → ((s.touch .host IM_CAL_CFG.off).wr IM_CAL_CFG (s.rd IM_CAL_CFG + 256)).rd r = s.rd r := by
    intro r hr
    rw [wr_keep _ IM_CAL_CFG _ (by decide) (by rw [hrd]; exact (f1 _ hle).1) r hr, ht.1]
  refine ⟨_, rfl, fun r hr => hk r hr, ?_⟩
  dsimp +zetaHave only
  rw [if_pos rfl, hf]
  rfl

/-- What the rows ZC_START, ZC_CLR do (R225, R228). -/
theorem exec_zcStart_zcClr :
    (∀ s : State, s.Serving → s.rd ZC_CTL &&& ZC_CTL.mask = s.rd ZC_CTL →
      (∃ t, exec .zcStart s = .next t ∧ (∀ r, r = ZC_CTL ∨ r.off ≠ ZC_CTL.off → t.rd r = s.rd r) ∧
        t.still = ({ s with im := t.im, regs := t.regs } : State).still ∧
        t.im = { s.im with zc :=
          if s.compat = false ∨ s.im.zc.armed = true then s.im.zc
          else if s.im.zc.lock = false then { s.im.zc with held := true }
          else { s.im.zc with
            armed := true, held := false
            start := if s.zcStartSrc = 9 then some (s.absCyc s.clk.cyc, 0) else none } }) ∧
      (∃ t, exec .zcClr s = .next t ∧ (∀ r, r = ZC_CTL ∨ r.off ≠ ZC_CTL.off → t.rd r = s.rd r) ∧
        t.still = ({ s with im := t.im, regs := t.regs } : State).still ∧
        t.im = { s.im with zc := if s.compat then { lock := s.im.zc.lock, code := s.im.zc.code } else s.im.zc })) := by
  intro s hs hm
  have hle : s.rd ZC_CTL ≤ 0x3ff0 := by rw [← hm]; exact Nat.and_le_right
  have hd : s.rd ZC_CTL % 16 = 0 := by
    rw [← hm]
    have : (s.rd ZC_CTL &&& ZC_CTL.mask) % 2 ^ 4 = (s.rd ZC_CTL % 2 ^ 4) &&& (ZC_CTL.mask % 2 ^ 4) := Nat.and_mod_two_pow
    rw [show (16 : Nat) = 2 ^ 4 from rfl, this, show ZC_CTL.mask % 2 ^ 4 = 0 by decide, Nat.and_zero]
  have hst : ∀ k, k < 16 → (s.rd ZC_CTL + k) &&& ZC_CTL.mask = s.rd ZC_CTL := by
    intro k hk
    have hor : s.rd ZC_CTL + k = s.rd ZC_CTL ||| k := by
      have : s.rd ZC_CTL = 2 ^ 4 * (s.rd ZC_CTL / 16) := by omega
      rw [this]; exact Nat.two_pow_add_eq_or_of_lt hk _
    rw [hor, Nat.and_or_distrib_right, hm]
    have : ∀ k, k < 16 → k &&& ZC_CTL.mask = 0 := by decide
    rw [this k hk, Nat.or_zero]
  have hb : ∀ k i, k < 16 → i < 4 → bitOf (s.rd ZC_CTL + k) i = bitOf k i := by
    intro k i hk hi
    unfold bitOf
    have : s.rd ZC_CTL = 2 ^ 4 * (s.rd ZC_CTL / 16) := by omega
    rw [this, Nat.testBit_two_pow_mul_add _ (by omega) i, if_pos hi]
  have ht := touch_more s .host ZC_CTL.off
  have hrd := ht.1 ZC_CTL
  obtain ⟨c, o, b, g, hf, hc⟩ := s.touch_form .host ZC_CTL.off
  have hkey : ∀ k, k < 16 → ∃ w : State, w.im = s.im ∧ (∀ r, r = ZC_CTL ∨ r.off ≠ ZC_CTL.off → w.rd r = s.rd r) ∧ w.clk = s.clk ∧
      w.still = ({ s with regs := w.regs } : State).still ∧
      (s.touch .host ZC_CTL.off).zcCtlWrite (s.rd ZC_CTL + k) = if s.compat then
        (if bitOf k 0 then (if bitOf k 1 then w.zcClr else w).zcStart else (if bitOf k 1 then w.zcClr else w)) else w := by
    intro k hk
    have hcmp : (s.touch .host ZC_CTL.off).compat = s.compat := by unfold State.compat State.bit; rw [ht.1]
    unfold State.zcCtlWrite
    rw [hcmp, hb k 0 hk (by decide), hb k 1 hk (by decide)]
    by_cases hb' : s.compat = true
    · rw [if_pos hb']
      refine ⟨(s.touch .host ZC_CTL.off).wr ZC_CTL (s.rd ZC_CTL + k), ht.2.2.2.2.1, ?_, ht.2.2.2.1, ?_, ?_⟩
      · intro r hr
        rw [wr_keep _ ZC_CTL _ (by decide) (by rw [hrd]; exact hst k hk) r hr, ht.1]
      · rw [hf]; rfl
      · rw [if_pos hb']
    · rw [if_neg hb']
      refine ⟨s.touch .host ZC_CTL.off, ht.2.2.2.2.1, fun r _ => ht.1 r, ht.2.2.2.1, ?_, ?_⟩
      · rw [hf]; rfl
      · rw [if_neg hb']
  have hw : ∀ k, k < 16 → s.writeBy .host ZC_CTL.off false (s.rd ZC_CTL + k) = (s.touch .host ZC_CTL.off).zcCtlWrite (s.rd ZC_CTL + k) :=
    fun k hk => zc_write hs _ (by omega)
  refine ⟨?_, ?_⟩
  · obtain ⟨w, e1, e2, e3, e4, e5⟩ := hkey 1 (by decide)
    have hx : exec .zcStart s = .next (if s.compat then w.zcStart else w) := congrArg _ ((hw 1 (by decide)).trans e5)
    rw [hx]
    refine ⟨_, rfl, ?_⟩
    have hcmp : w.compat = s.compat := by unfold State.compat State.bit; rw [e2 IM_CTL (.inr (by decide))]
    have hsrc : w.zcStartSrc = s.zcStartSrc := by unfold State.zcStartSrc State.fl; rw [e2 ZC_CTL (.inl rfl)]
    by_cases hb' : s.compat = true
    · rw [if_pos hb']
      unfold State.zcStart
      rw [hcmp, e1, hb']
      by_cases ha : s.im.zc.armed = true
      · simp only [ha, or_true, reduceIte, Bool.true_eq_false]
        exact ⟨e2, still_im w s w.im w.regs e4, e1⟩
      · simp only [ha, or_false, reduceIte, Bool.true_eq_false, Bool.false_eq_true]
        by_cases hl : s.im.zc.lock = true
        · simp only [hl, reduceIte, Bool.true_eq_false]
          rw [zcArm_eq w (by rw [hcmp]; exact hb')]
          have h7 : w.absCyc w.clk.cyc = s.absCyc s.clk.cyc := by unfold State.absCyc; rw [e3]
          rw [h7, hsrc, e1]
          refine ⟨fun r hr => e2 r hr, still_im w s _ w.regs e4, ?_⟩
          show ({ w.im with zc := _ } : Imu) = _
          rw [e1]
          dsimp only
          rw [hl]
        · simp only [hl, reduceIte, Bool.false_eq_true]
          refine ⟨fun r hr => e2 r hr, still_im w s _ w.regs e4, ?_⟩
          show ({ w.im with zc := _ } : Imu) = _
          rw [e1]
    · rw [if_neg hb']
      have : s.compat = false := by simpa using hb'
      rw [this]
      simp only [true_or, reduceIte]
      exact ⟨e2, still_im w s w.im w.regs e4, e1⟩
  · obtain ⟨w, e1, e2, e3, e4, e5⟩ := hkey 2 (by decide)
    have hx : exec .zcClr s = .next (if s.compat then w.zcClr else w) := congrArg _ ((hw 2 (by decide)).trans e5)
    rw [hx]
    refine ⟨_, rfl, ?_⟩
    have hcmp : w.compat = s.compat := by unfold State.compat State.bit; rw [e2 IM_CTL (.inr (by decide))]
    unfold State.zcClr
    rw [hcmp]
    by_cases hb' : s.compat = true
    · simp only [hb', reduceIte]
      rw [e1]
      refine ⟨fun r hr => e2 r hr, still_im w s _ w.regs e4, ?_⟩
      show ({ w.im with zc := _ } : Imu) = _
      rw [e1]
    · simp only [hb', reduceIte, Bool.false_eq_true]
      exact ⟨e2, still_im w s w.im w.regs e4, e1⟩

/-- What the row ZC_DLL_LOCK does (R225). -/
theorem exec_zcDllLock :
    (∀ s : State, s.up = true →
      ((s.compat = false ∨ s.im.zc.lock = true) → exec .zcDllLock s = .next s) ∧
      (s.compat = true → s.im.zc.lock = false → ∃ t, exec .zcDllLock s = .next t ∧
        t = ({ s with im := { s.im with zc := t.im.zc }, free := s.free + 1 } : State) ∧ t.im.zc.lock = true ∧
        t.im.zc.code = (freeValue s.free).toNat % 256 ∧
        (s.im.zc.held = true → t.im.zc.armed = true ∧ t.im.zc.held = false) ∧
        (s.im.zc.held = false → t.im.zc.armed = s.im.zc.armed ∧ t.im.zc.held = false))) := by
  intro s hup
  have c : exec .zcDllLock s = s.main fun s => if s.compat = true ∧ s.im.zc.lock = false then
    (let w := s.drawFree.1.setZc { s.drawFree.1.im.zc with lock := true, code := s.drawFree.2 % 256 }
     if w.im.zc.held then w.zcArm else w) else s := rfl
  refine ⟨?_, ?_⟩
  · intro h
    rw [c, State.main_up hup, if_neg]
    rintro ⟨h1, h2⟩
    rw [h1, h2] at h
    exact absurd h (by decide)
  · intro h1 h2
    rw [c, State.main_up hup, if_pos ⟨h1, h2⟩]
    refine ⟨_, rfl, ?_⟩
    generalize hw : s.drawFree.1.setZc { s.drawFree.1.im.zc with lock := true, code := s.drawFree.2 % 256 } = w
    have w1 : w = { s with im := { s.im with zc := { s.im.zc with lock := true, code := (freeValue s.free).toNat % 256 } }, free := s.free + 1 } := by
      rw [← hw]; rfl
    dsimp +zetaHave only
    have w2 : w.im.zc.held = s.im.zc.held := by rw [w1]
    rw [w2]
    by_cases hh : s.im.zc.held = true
    · rw [if_pos hh, zcArm_eq w (by rw [w1]; exact h1), w1]
      exact ⟨rfl, rfl, rfl, fun _ => ⟨rfl, rfl⟩, fun h => absurd (hh.symm.trans h) (by decide)⟩
    · rw [if_neg hh, w1]
      exact ⟨rfl, rfl, rfl, fun h => absurd h hh, fun h => ⟨rfl, h⟩⟩

/-- What the row ZC_TIMEOUT does (R225). -/
theorem exec_zcTimeout :
    (∀ (s v : State) (cyc : Nat), s.up = true → v = s.atCyc cyc →
      (s.compat = false → exec (.zcTimeout cyc) s = .next s) ∧
      (s.compat = true → s.im.zc.start = none → exec (.zcTimeout cyc) s = .next v) ∧
      (∀ c f, s.compat = true → s.im.zc.start = some (c, f) → exec (.zcTimeout cyc) s = .next
        (if c + s.zcTmo < s.absCyc cyc then
          v.setZc { s.im.zc with armed := false, start := none, done := false, timeout := true } else v))) := by
  intro s v cyc hup hv
  have c : exec (.zcTimeout cyc) s = s.main fun s => if s.compat = true then (s.atCyc cyc).zcTimeout (s.absCyc cyc) else s := rfl
  rw [c, State.main_up hup, hv]
  refine ⟨?_, ?_, ?_⟩
  · intro h; rw [if_neg (by rw [h]; decide)]
  · intro h1 h2
    rw [if_pos h1]; unfold State.zcTimeout
    rw [show (s.atCyc cyc).im.zc.start = none from h2]
  · intro a b h1 h2
    rw [if_pos h1]; unfold State.zcTimeout
    rw [show (s.atCyc cyc).im.zc.start = some (a, b) from h2]
    rfl

end Sys2Proof.Machine
end

