-- ==== Sys2Proof/Laws/RowsLink.lean ====
section
/-! SUPPORT. Sys2Proof/Laws/RowsLink.lean: the link sequence, the scheduler and the broadcasts. -/

set_option linter.all false
set_option Elab.async false

namespace Sys2Proof.Machine
open Sys2Proof Sys2Proof.Config

/-- Refilling the queues of a port leaves its link state as it is. -/
theorem refill_same (s : State) (p : Nat) : ((s.refill p).port p).rpl = (s.port p).rpl ∧ ((s.refill p).port p).tq = (s.port p).tq ∧
    ((s.port p).xWait = [] → (s.port p).cWait = [] → (s.refill p).port p = s.port p) ∧ ∃ ps, s.refill p = { s with ports := ps } := by
  have hx : ((s.refillX p).port p).rpl = (s.port p).rpl ∧ ((s.refillX p).port p).tq = (s.port p).tq ∧
      ((s.port p).xWait = [] → (s.refillX p).port p = s.port p) := by
    unfold State.refillX
    dsimp +zetaHave only
    rw [setPort_same]
    exact ⟨rfl, rfl, fun h => by rw [h, List.take_nil, List.drop_nil, List.append_nil, ← h]⟩
  have one : ∀ u : State, ((u.refillC p).port p).rpl = (u.port p).rpl ∧ ((u.refillC p).port p).tq = (u.port p).tq ∧ ∃ ps, u.refillC p = { u with ports := ps } := by
    intro u
    unfold State.refillC
    dsimp +zetaHave only
    split
    · split
      · rw [setPort_same]; exact ⟨rfl, rfl, _, rfl⟩
      · exact ⟨rfl, rfl, _, rfl⟩
    · exact ⟨rfl, rfl, _, rfl⟩
  have all : ∀ (l : List Nat) (u : State), ((u.each l fun s _ => s.refillC p).port p).rpl = (u.port p).rpl ∧ ((u.each l fun s _ => s.refillC p).port p).tq = (u.port p).tq ∧
      ∃ ps, u.each l (fun s _ => s.refillC p) = { u with ports := ps } := by
    intro l
    induction l with
    | nil => exact fun u => ⟨rfl, rfl, _, rfl⟩
    | cons a l ih =>
      intro u
      obtain ⟨i1, i2, ps, i3⟩ := ih (u.refillC p)
      obtain ⟨o1, o2, qs, o3⟩ := one u
      refine ⟨i1.trans o1, i2.trans o2, ps, i3.trans ?_⟩
      rw [o3]
  obtain ⟨a1, a2, ps, a3⟩ := all (List.range (s.port p).cWait.length) (s.refillX p)
  refine ⟨a1.trans hx.1, a2.trans hx.2.1, fun h1 h2 => ?_, ps, a3⟩
  unfold State.refill
  rw [h2]
  exact hx.2.2 h1

/-- What the row ACK_RECEIVE does (R88). -/
theorem exec_ackReceive : ∀ (s : State) (h : RxHead) (v : Port) (k : Nat), s.up = true → h.port < s.nPorts → s.isUp h.port = true → v = s.port h.port →
    (h.tagged || h.tooLong || h.incomplete) = false → v.health ≠ .retired → v.mismatch = false → h.ver = 2 → 24 ≤ h.len → h.pastFcs = false →
    h.dom = v.dom → h.rpl = false → v.rpl.held ≠ some (h.mark % 16) → k = (h.lack + 256 - v.rpl.ackSeq) % 256 → k ≤ v.rpl.entries.length →
    ∃ t, exec (.ackReceive h) s = .next t ∧ t.wire = s.wire ∧ (∀ q, q ≠ h.port → t.port q = s.port q) ∧
      (t.port h.port).rpl.entries = v.rpl.entries.drop k ∧ (t.port h.port).rpl.next = v.rpl.next ∧ (t.port h.port).rpl.expect = v.rpl.expect ∧
      (0 < k → (t.port h.port).rpl.waitTick = s.clk.ticks) := by
  intro s h v k hup hp hu hv hd hr hm h1 h2 h3 hdom hrpl hah hk hkl
  have kk : exec (.ackReceive h) s = s.atPort h.port fun s => (s.rxZudar h kAck).s := rfl
  rw [kk, atPort_in hup hp]
  refine ⟨_, rfl, State.rxZudar_wire _ _ _ _, ?_⟩
  obtain ⟨b1, b2, _, bb⟩ := begin_up s h.toRxBase true h.seq 0x03 true hu
  obtain ⟨⟨f, g, b3⟩, b4, b5, b6⟩ := bb (by rw [← hv]; exact hah)
  have hz : ∀ q, (s.rxZudar h kAck).s.port q = ((s.rxBegin h.toRxBase true h.seq 0x03 true).s.takeAck h.port h.lack).port q := by
    intro q
    unfold State.rxZudar
    dsimp +zetaHave only [kAck]
    generalize s.rxBegin h.toRxBase true h.seq 0x03 true = r at b1 b2 b3 b4 b5 b6
    have hrp : ∀ w, ((r.s.takeAck h.port w).port h.port).rpl.held = v.rpl.held := by
      intro w
      have e2 : (r.s.port h.port).rpl.held = v.rpl.held := by rw [b3, ← hv]
      unfold State.takeAck
      dsimp +zetaHave only
      split
      · exact e2
      · rw [(refill_same _ _).1, setPort_same]; exact e2
    have hok : r.ok = true := by rw [b6, hd, ← hv, decide_eq_false hr]; rfl
    have e1 : (r.s.port h.port).dom = v.dom := by rw [b3, hv]
    have e2 : (r.s.port h.port).mismatch = false := by rw [b3, ← hv]; exact hm
    have hn : (r.s.takeAck h.port h.lack).heldGone h.port h.mark = r.s.takeAck h.port h.lack := by
      unfold State.heldGone; dsimp +zetaHave only; rw [hrp, if_neg hah]
    have hg : ¬ (h.ver ≠ 2 ∨ h.len < 24 ∨ h.pastFcs = true) := by
      rintro (e | e | e)
      · exact e h1
      · omega
      · rw [h3] at e; exact absurd e (by decide)
    rw [if_neg (by rw [hok]; decide)]
    simp only [reduceIte, Bool.false_eq_true]
    rw [if_neg hg, e1, if_neg (fun e => e hdom), e2, hrpl]
    simp only [Bool.false_eq_true, false_and, reduceIte, show ¬ (3 = 4) by decide, hn]
    repeat' split
    all_goals first | rfl | exact absurd ‹_› (by decide) | skip
  have e0 : (s.rxBegin h.toRxBase true h.seq 0x03 true).s.clk.ticks = s.clk.ticks := (wire_parts b1).2.2.2.2.2.2.2.2.2.2.2.1
  generalize s.rxBegin h.toRxBase true h.seq 0x03 true = r at b1 b2 b3 b4 b5 b6 hz e0
  have e3 : (r.s.port h.port).rpl = v.rpl := by rw [b3, hv]
  refine ⟨fun q hq => ?_, ?_⟩
  · rw [hz, ← b2 q hq]
    unfold State.takeAck; dsimp +zetaHave only
    split
    · rfl
    · exact ((refill_keep _ _).1 q hq).trans (setPort_other _ _ _ _ hq)
  · rw [hz]
    unfold State.takeAck; dsimp +zetaHave only
    rw [e3, ← hk]
    split
    · rename_i hh
      have : k = 0 := by omega
      rw [e3, this]; exact ⟨rfl, rfl, rfl, fun h => absurd h (by decide)⟩
    · rw [(refill_same _ _).1, setPort_same]; exact ⟨rfl, rfl, rfl, fun _ => e0⟩

/-- What the row NAK_RECEIVE does (R88). -/
theorem exec_nakReceive : ∀ (s u : State) (h : RxHead) (r : Rx) (v : Port), s.up = true → h.port < s.nPorts → r = s.rxZudar h kNak → u = r.s → v = u.port h.port →
    u.wire = s.wire ∧ (r.ok = false → exec (.nakReceive h) s = .next u) ∧
    (r.ok = true → (v.rpl.entries.length < (h.lack + 256 - v.rpl.ackSeq) % 256 → exec (.nakReceive h) s = .next u) ∧
      (∀ e es, v.rpl.entries = e :: es → h.lack = e.lseq → v.rpl.attempt = none → v.mismatch = false →
        ∃ t, exec (.nakReceive h) s = .next t ∧ t.wire = u.wire ∧ (∀ q, q ≠ h.port → t.port q = u.port q) ∧ (t.port h.port).rpl.attempt = some h.lack ∧ (t.port h.port).rpl.entries = v.rpl.entries ∧
        (t.port h.port).rpl.waitTick = u.clk.ticks ∧
        (t.port h.port).cq = ((v.rpl.entries.filter fun e => e.body.cls = .coll).map fun e => { body := e.body, retx := some e.lseq }) ++
          v.cq.filter (fun f => f.retx.isNone) ∧
        (∀ o, t.counter o = if o = PF_CNT_REPLAY h.port then (u.counter o + 1) % 2 ^ 32 else u.counter o))) := by
  intro s u h r v hup hp hr hu hv
  have kk : exec (.nakReceive h) s = s.atPort h.port fun s => if (s.rxZudar h kNak).ok = true then (s.rxZudar h kNak).s.takeNak h.port h.lack else (s.rxZudar h kNak).s := rfl
  rw [kk, atPort_in hup hp]
  have w0 := State.rxZudar_wire s h kNak true
  rw [← hr] at w0 ⊢
  rw [← hu] at w0 ⊢
  refine ⟨w0, fun ho => by rw [if_neg (by rw [ho]; decide)], fun ho => ?_⟩
  rw [if_pos ho]
  refine ⟨fun hl => ?_, fun e es he hn ha hm => ?_⟩
  · unfold State.takeNak; dsimp +zetaHave only; rw [← hv, if_pos hl]
  · have hack : v.rpl.ackSeq = h.lack := by rw [hn]; unfold Replay.ackSeq; rw [he]
    have hk : (h.lack + 256 - v.rpl.ackSeq) % 256 = 0 := by rw [hack]; omega
    have hta : u.takeAck h.port h.lack = u := by
      unfold State.takeAck; dsimp +zetaHave only; rw [← hv, hk, if_pos (.inl rfl)]
    have htn : u.takeNak h.port h.lack = u.startAttempt h.port h.lack u.clk.ticks := by
      unfold State.takeNak; dsimp +zetaHave only; rw [← hv, hk, if_neg (by omega), hta, if_neg (by rw [← hv, ha]; exact fun h => by cases h)]
    rw [htn]
    refine ⟨_, rfl, State.startAttempt_wire _ _ _ _, ?_⟩
    have hdw : (v.rpl.entries.dropWhile fun x => decide (x.lseq ≠ h.lack)) = v.rpl.entries := by
      rw [he, List.dropWhile_cons, if_neg (by rw [hn]; simp)]
    unfold State.startAttempt
    dsimp +zetaHave only
    rw [← hv, hdw, if_neg (by rw [he, hm]; simp), evt_one]
    refine ⟨fun q hq => setPort_other _ _ _ _ hq, ?_⟩
    have e1 : ∀ (w : State) (x : Port), (State.emit ((w.setPort h.port x).count (PF_CNT_REPLAY h.port)) (.perfEvt 12 1)).port h.port = x := fun w x => setPort_same _ _ _
    rw [e1]
    refine ⟨rfl, rfl, rfl, rfl, fun o => ?_⟩
    show ((u.setPort h.port _).count (PF_CNT_REPLAY h.port)).counter o = _
    rw [counter_one]; rfl

/-- What the row REPLAY_TIMEOUT does (R88). -/
theorem exec_replayTimeout : ∀ (s : State) (p : Nat) (v : Port), s.up = true → p < s.nPorts → v = s.port p →
    (s.replayDue p (s.clk.ticks + 1) = false → exec (.replayTimeout p) s = .next s) ∧
    (∀ e es, v.rpl.entries = e :: es → v.rpl.waitTick + s.rplTimeout p < s.clk.ticks + 1 → v.mismatch = false →
      ∃ t, exec (.replayTimeout p) s = .next t ∧ t.wire = s.wire ∧ (∀ q, q ≠ p → t.port q = s.port q) ∧
      (t.port p).rpl.attempt = some e.lseq ∧ (t.port p).rpl.waitTick = s.clk.ticks ∧ (t.port p).rpl.entries = v.rpl.entries ∧
      t.counter (PF_CNT_REPLAY p) = (s.counter (PF_CNT_REPLAY p) + 1) % 2 ^ 32 ∧
      (v.rpl.attempt = none → (t.port p).rpl.failRun = v.rpl.failRun ∧ t.counter (PF_CNT_RFAIL p) = s.counter (PF_CNT_RFAIL p)) ∧
      (v.rpl.attempt ≠ none → (t.port p).rpl.failRun = min 3 (v.rpl.failRun + 1) ∧
        t.counter (PF_CNT_RFAIL p) = (s.counter (PF_CNT_RFAIL p) + 1) % 2 ^ 32)) := by
  intro s p v hup hp hv
  have kk : exec (.replayTimeout p) s = s.atPort p fun s => if s.replayDue p (s.clk.ticks + 1) = true then s.replayTimeout p (s.clk.ticks + 1) else s := rfl
  rw [kk, atPort_in hup hp]
  refine ⟨fun hd => by rw [if_neg (by rw [hd]; decide)], fun e es he hw hm => ?_⟩
  rw [if_pos (by unfold State.replayDue; dsimp +zetaHave only; rw [← hv, he, hm]; simp; omega)]
  refine ⟨_, rfl, State.replayTimeout_wire _ _ _, ?_⟩
  have hne : PF_CNT_RFAIL p ≠ PF_CNT_REPLAY p := by show 0x10000 + p * 0x400 + _ ≠ 0x10000 + p * 0x400 + _; intro h; have := Nat.add_left_cancel h; exact absurd this (by decide)
  have hu : ∀ u : State, (∀ q, q ≠ p → u.port q = s.port q) → (u.port p).mismatch = false → (u.port p).rpl.entries = e :: es →
      ∀ t, t = u.startAttempt p e.lseq (s.clk.ticks + 1 - 1) →
      (∀ q, q ≠ p → t.port q = s.port q) ∧ (t.port p).rpl.attempt = some e.lseq ∧ (t.port p).rpl.waitTick = s.clk.ticks ∧
      (t.port p).rpl.entries = e :: es ∧ (t.port p).rpl.failRun = (u.port p).rpl.failRun ∧
      (∀ o, t.counter o = if o = PF_CNT_REPLAY p then (u.counter o + 1) % 2 ^ 32 else u.counter o) := by
    intro u u1 u2 u3 t ht
    have hdw : ((u.port p).rpl.entries.dropWhile fun x => decide (x.lseq ≠ e.lseq)) = (u.port p).rpl.entries := by
      rw [u3, List.dropWhile_cons, if_neg (by simp)]
    unfold State.startAttempt at ht
    dsimp +zetaHave only at ht
    rw [hdw, if_neg (by rw [u3, u2]; simp), evt_one] at ht
    subst ht
    refine ⟨fun q hq => (setPort_other _ _ _ _ hq).trans (u1 q hq), ?_⟩
    have e1 : ∀ (w : State) (x : Port), (State.emit ((w.setPort p x).count (PF_CNT_REPLAY p)) (.perfEvt 12 1)).port p = x := fun w x => setPort_same _ _ _
    rw [e1]
    refine ⟨rfl, rfl, u3, rfl, fun o => ?_⟩
    show ((u.setPort p _).count (PF_CNT_REPLAY p)).counter o = _
    rw [counter_one]; rfl
  have hack : ∀ r : Replay, r.entries = e :: es → r.ackSeq = e.lseq := by intro r h; unfold Replay.ackSeq; rw [h]
  unfold State.replayTimeout
  dsimp +zetaHave only
  rw [← hv]
  cases ha : v.rpl.attempt with
  | none =>
    rw [if_neg (by decide)]
    rw [← hv, hack _ he]
    obtain ⟨a1, a2, a3, a4, a5, a6⟩ := hu s (fun _ _ => rfl) (by rw [← hv]; exact hm) (by rw [← hv]; exact he) _ rfl
    refine ⟨a1, a2, a3, a4.trans he.symm, by rw [a6, if_pos rfl], fun _ => ⟨a5.trans (by rw [← hv]), ?_⟩, fun h => absurd rfl h⟩
    rw [a6, if_neg hne]
  | some a =>
    rw [if_pos (by rfl)]
    have hf : (∀ q, q ≠ p → (s.attemptFails p).port q = s.port q) ∧ (∃ sc c ad, (s.attemptFails p).port p = { v with
        rpl := { v.rpl with attempt := none, failRun := min 3 (v.rpl.failRun + 1) }, score := sc, cand := c, admitAt := ad }) ∧
        (∀ o, (s.attemptFails p).counter o = if o = PF_CNT_RFAIL p then (s.counter o + 1) % 2 ^ 32 else s.counter o) := by
      unfold State.attemptFails
      dsimp +zetaHave only
      rw [evt_one]
      generalize hw : ((s.modPort p _).count (PF_CNT_RFAIL p)).emit (.perfEvt 13 1) = w
      have w1 : ∀ q, q ≠ p → w.port q = s.port q := fun q hq => by rw [← hw]; exact setPort_other _ _ _ _ hq
      have w2 : ∃ c, w.port p = { v with rpl := { v.rpl with attempt := none, failRun := min 3 (v.rpl.failRun + 1) }, cand := c } := by
        rw [← hw]; refine ⟨if min 3 (v.rpl.failRun + 1) = 3 ∧ v.health = .live then 2 else v.cand, (setPort_same _ _ _).trans ?_⟩; rw [← hv]
      have w3 : ∀ o, w.counter o = if o = PF_CNT_RFAIL p then (s.counter o + 1) % 2 ^ 32 else s.counter o := fun o => by
        rw [← hw]; exact counter_one (s.modPort p _) _ _
      obtain ⟨c, w2⟩ := w2
      unfold State.scoreRfail
      obtain ⟨k1, k2, k3, k4⟩ := score_port w p (w.fl HF_WEIGHT 24 8)
      refine ⟨fun q hq => (k2 q hq).trans (w1 q hq), ?_, fun o => (counter_cnt k1 o).trans (w3 o)⟩
      by_cases hs : (w.port p).scores = true
      · rw [k4 hs, w2]; exact ⟨_, _, _, rfl⟩
      · rw [k3 (by simpa using hs), w2]; exact ⟨_, _, _, rfl⟩
    obtain ⟨f1, ⟨sc, c, ad, f2⟩, f3⟩ := hf
    generalize s.attemptFails p = u at f1 f2 f3
    have : (u.port p).rpl.entries = e :: es := by rw [f2]; exact he
    rw [hack _ this]
    obtain ⟨a1, a2, a3, a4, a5, a6⟩ := hu u f1 (by rw [f2]; exact hm) this _ rfl
    refine ⟨a1, a2, a3, a4.trans he.symm, ?_, fun h => absurd h (by simp), fun _ => ⟨a5.trans (by rw [f2]), ?_⟩⟩
    · rw [a6, if_pos rfl, f3, if_neg (fun h => hne h.symm)]
    · rw [a6, if_neg hne, f3, if_pos rfl]

theorem fill_port (s : State) (p : Nat) : (s.fillBuckets p).port p = { s.port p with cLevel := ((s.fillBuckets p).port p).cLevel, tLevel := ((s.fillBuckets p).port p).tLevel, bktCyc := s.absCyc s.clk.cyc } ∧
    (∀ q, q ≠ p → (s.fillBuckets p).port q = s.port q) ∧ s.fillBuckets p = { s with ports := (s.fillBuckets p).ports } := by
  have h : (s.fillBuckets p).port p = _ := setPort_same _ _ _
  rw [h]
  exact ⟨rfl, fun q hq => setPort_other _ _ _ _ hq, rfl⟩

theorem emit_port (s : State) (o : Output) (q : Nat) : (s.emit o).port q = s.port q := rfl

/-- What the row EGRESS_HANDOVER does (R91, R310). -/
theorem exec_egressHandover : ∀ (s : State) (p cyc : Nat) (v : Port), s.up = true → p < s.nPorts → v = s.port p → s.windowed p = false →
    v.xWait = [] → v.cWait = [] → ((v.mismatch = false ∨ v.cal.running = true) →
    (v.xq = [] → v.cq = [] → v.tq = [] → ∃ t, exec (.egressHandover p cyc) s = .next t ∧ t.out = s.out ∧ t.cnt = s.cnt ∧
      t.port p = { v with cLevel := (t.port p).cLevel, tLevel := (t.port p).tLevel, bktCyc := (s.atCyc cyc).absCyc (s.atCyc cyc).clk.cyc }) ∧
    (∀ q rest, v.xq = q :: rest → q.body.cls = .express → q.body.replayed = false → q.retx = none →
      ∃ t, exec (.egressHandover p cyc) s = .next t ∧ (t.port p).xq = rest ∧ (t.port p).cq = v.cq ∧ (t.port p).tq = v.tq ∧
      (t.port p).txWait = v.txWait ++ [{ typ := q.body.typ, seq := v.seqFor q.body, proto := q.body.zudar, express := true }] ∧
      (t.port p).rpl.entries = v.rpl.entries ∧ (t.port p).rpl.next = v.rpl.next ∧
      (∃ hd : SentHead, .frame p hd q.body true ∈ t.out ∧ hd.typ = q.body.typ ∧ hd.len = q.body.msgLen ∧ hd.dom = v.dom ∧
        hd.seq = v.seqFor q.body ∧ hd.srcPort = s.portNum p ∧ hd.domNum = s.ptpDom v.dom ∧ hd.clockId = s.rd TD_CLOCK_ID ∧ hd.clockPort = p + 1) ∧
      (∀ a, a ≠ p → t.port a = s.port a) ∧ t.wire = s.wire ∧
      (∀ o, t.counter o = if o = PF_CNT_TX p ∨ o = TP_CNT_X then (s.counter o + 1) % 2 ^ 32 else s.counter o))) ∧
    (v.mismatch = true → v.cal.running = false → (∀ q ∈ v.xq ++ v.cq ++ v.tq, q.body.identityBearing = false) →
      ∃ t, exec (.egressHandover p cyc) s = .next t ∧ t.out = s.out ∧ (t.port p).xq = [] ∧ (t.port p).cq = [] ∧ (t.port p).tq = [] ∧
      (t.port p).rpl = { v.rpl with attempt := none } ∧
      t.counter TP_CNT_FLUSH = (s.counter TP_CNT_FLUSH + ((v.xq ++ v.cq ++ v.tq).filter fun q => q.retx.isNone).length) % 2 ^ 32) := by
  intro s p cyc v hup hp hv hw hxw hcw
  have kk : exec (.egressHandover p cyc) s = s.atPort p fun s => (s.atCyc cyc).handover p := rfl
  rw [kk, atPort_in hup hp]
  obtain ⟨f1, f4, f5⟩ := fill_port (s.atCyc cyc) p
  have f1' : ((s.atCyc cyc).fillBuckets p).port p = { v with cLevel := (((s.atCyc cyc).fillBuckets p).port p).cLevel, tLevel := (((s.atCyc cyc).fillBuckets p).port p).tLevel, bktCyc := (s.atCyc cyc).absCyc (s.atCyc cyc).clk.cyc } := by
    rw [hv]; exact f1
  have empty : ∀ u : State, (u.port p).xq = [] → (u.port p).cq = [] → (u.port p).tq = [] → u.handoverCT p = u := by
    intro u h1 h2 h3
    unfold State.handoverCT
    dsimp +zetaHave only
    rw [h2]
    dsimp only
    unfold State.handoverT
    dsimp +zetaHave only
    rw [h3]
  have nolong : ∀ u : State, u.windowed p = false → u.dropTooLong p = u := by
    intro u h
    unfold State.dropTooLong
    dsimp +zetaHave only
    rw [if_neg (by rw [h]; decide)]
  have hwin : ∀ u : State, u.regs = s.regs → u.windowed p = false := by
    intro u h
    have : u.windowed p = s.windowed p := by unfold State.windowed State.profile State.bit State.fl State.rd; rw [h]
    rw [this, hw]
  refine ⟨fun hmm => ?_, fun hmm hcal hid => ?_⟩
  case refine_2 =>
    refine ⟨_, rfl, ?_⟩
    have f5' : ∃ ps, (s.atCyc cyc).fillBuckets p = { s.atCyc cyc with ports := ps } := ⟨_, f5⟩
    generalize hu : (s.atCyc cyc).fillBuckets p = u at f1' f5'
    have nil : ∀ l : List QFrame, (∀ q ∈ l, q.body.identityBearing = false) → l.filter (fun q => q.body.identityBearing) = [] :=
      fun l h => List.filter_eq_nil_iff.mpr fun q hq e => absurd ((h q hq).symm.trans e) (by decide)
    have gone : ∀ l : List QFrame, (∀ q ∈ l, q.body.identityBearing = false) →
        l.filter (fun q => !q.body.identityBearing && q.retx.isNone) = l.filter fun q => q.retx.isNone :=
      fun l h => List.filter_congr fun q hq => by rw [h q hq]; rfl
    have ix : ∀ q ∈ v.xq, q.body.identityBearing = false := fun q h => hid q (List.mem_append_left _ (List.mem_append_left _ h))
    have ic : ∀ q ∈ v.cq, q.body.identityBearing = false := fun q h => hid q (List.mem_append_left _ (List.mem_append_right _ h))
    have it : ∀ q ∈ v.tq, q.body.identityBearing = false := fun q h => hid q (List.mem_append_right _ h)
    have hm : (u.port p).mismatch = true ∧ (u.port p).cal.running = false := by rw [f1']; exact ⟨hmm, hcal⟩
    generalize hd : u.dropMismatched p = d
    have d0 : (d.port p).xq = [] ∧ (d.port p).cq = [] ∧ (d.port p).tq = [] ∧ (d.port p).xWait = [] ∧ (d.port p).cWait = [] ∧
        (d.port p).rpl = { v.rpl with attempt := none } ∧ d.regs = s.regs ∧ d.out = s.out ∧
        d.counter TP_CNT_FLUSH = (s.counter TP_CNT_FLUSH + ((v.xq ++ v.cq ++ v.tq).filter fun q => q.retx.isNone).length) % 2 ^ 32 := by
      obtain ⟨ps, h5⟩ := f5'
      have q1 : (u.port p).xq = v.xq ∧ (u.port p).cq = v.cq ∧ (u.port p).tq = v.tq ∧ (u.port p).xWait = [] ∧ (u.port p).cWait = [] ∧ (u.port p).rpl = v.rpl := by
        rw [f1']; exact ⟨rfl, rfl, rfl, hxw, hcw, rfl⟩
      have q2 : u.counter TP_CNT_FLUSH = s.counter TP_CNT_FLUSH ∧ u.regs = s.regs ∧ u.out = s.out := by rw [h5]; exact ⟨rfl, rfl, rfl⟩
      unfold State.dropMismatched at hd
      dsimp +zetaHave only at hd
      rw [if_pos hm, q1.1, q1.2.1, q1.2.2.1, q1.2.2.2.1, q1.2.2.2.2.1, q1.2.2.2.2.2, nil _ ix, nil _ ic, nil _ it, gone _ ix, gone _ ic, gone _ it] at hd
      rw [← hd]
      have hp' : ∀ (x : Port) n, ((u.setPort p x).count TP_CNT_FLUSH n).port p = x := fun x n => setPort_same _ _ _
      rw [hp']
      refine ⟨rfl, rfl, rfl, rfl, rfl, rfl, q2.2.1, q2.2.2, ?_⟩
      rw [count_same]
      show (u.counter TP_CNT_FLUSH + _) % _ = _
      rw [q2.1, List.filter_append, List.filter_append, List.length_append, List.length_append]
    obtain ⟨d1, d2, d3, d4, d5, d6, d7, d8, d9⟩ := d0
    obtain ⟨r1, r2, r3, ps, r4⟩ := refill_same d p
    have r5 := r3 d4 d5
    have e : (s.atCyc cyc).handover p = d.refill p := by
      unfold State.handover
      dsimp +zetaHave only
      rw [hu, hd, nolong _ (hwin _ (by rw [r4]; exact d7)), r5, d1]
      dsimp only
      exact empty _ (by rw [r5]; exact d1) (by rw [r5]; exact d2) (by rw [r5]; exact d3)
    rw [e, r5]
    exact ⟨by rw [r4]; exact d8, d1, d2, d3, d6, by rw [r4]; exact d9⟩
  have hm : ¬ ((((s.atCyc cyc).fillBuckets p).port p).mismatch = true ∧ (((s.atCyc cyc).fillBuckets p).port p).cal.running = false) := by
    rw [f1']
    show ¬ (v.mismatch = true ∧ v.cal.running = false)
    rintro ⟨h1, h2⟩
    rcases hmm with h | h
    · exact absurd (h.symm.trans h1) (by decide)
    · exact absurd (h.symm.trans h2) (by decide)
  have hdm : ((s.atCyc cyc).fillBuckets p).dropMismatched p = (s.atCyc cyc).fillBuckets p := by
    unfold State.dropMismatched
    dsimp +zetaHave only
    rw [if_neg hm]
  have f4' : ∀ q, q ≠ p → ((s.atCyc cyc).fillBuckets p).port q = s.port q := f4
  obtain ⟨r1, r2, r3, ps, r4⟩ := refill_same ((s.atCyc cyc).fillBuckets p) p
  have r3 := r3 (by rw [f1']; exact hxw) (by rw [f1']; exact hcw)
  have r5 := (refill_keep ((s.atCyc cyc).fillBuckets p) p).1
  have f1' : (((s.atCyc cyc).fillBuckets p).refill p).port p = { v with cLevel := ((((s.atCyc cyc).fillBuckets p).refill p).port p).cLevel, tLevel := ((((s.atCyc cyc).fillBuckets p).refill p).port p).tLevel, bktCyc := (s.atCyc cyc).absCyc (s.atCyc cyc).clk.cyc } := by
    rw [r3]; exact f1'
  have f5' : ∃ ps, ((s.atCyc cyc).fillBuckets p).refill p = { s.atCyc cyc with ports := ps } := ⟨ps, r4.trans (by rw [f5])⟩
  have f4' : ∀ q, q ≠ p → (((s.atCyc cyc).fillBuckets p).refill p).port q = s.port q := fun q hq => (r5 q hq).trans (f4' q hq)
  have hd : (((s.atCyc cyc).fillBuckets p).refill p).dropTooLong p = ((s.atCyc cyc).fillBuckets p).refill p := nolong _ (hwin _ (by obtain ⟨ps, h⟩ := f5'; rw [h]; rfl))
  generalize hu : ((s.atCyc cyc).fillBuckets p).refill p = u at f1' f4' f5' hd
  refine ⟨fun hx hc ht => ?_, fun q rest hx hcl hrp hre => ?_⟩
  · have e : (s.atCyc cyc).handover p = u := by
      unfold State.handover
      dsimp +zetaHave only
      rw [hdm, hu, hd, show (u.port p).xq = [] by rw [f1']; exact hx]
      dsimp only
      exact empty u (by rw [f1']; exact hx) (by rw [f1']; exact hc) (by rw [f1']; exact ht)
    rw [e]
    obtain ⟨ps, hps⟩ := f5'
    exact ⟨_, rfl, by rw [hps]; rfl, by rw [hps]; rfl, f1'⟩
  · refine ⟨_, rfl, ?_⟩
    have hwr := (State.handover_wire (s.atCyc cyc) p).trans (State.atCyc_wire _ _)
    have u1 : (u.port p).xq = q :: rest := by rw [f1']; exact hx
    have hfree : u.entryFree p q = true := by
      unfold State.entryFree State.numbered
      dsimp +zetaHave only
      rw [hrp, hcl]; simp
    have hh : (s.atCyc cyc).handover p = ((u.setPort p { u.port p with xq := rest }).refillX p).handOver p q := by
      unfold State.handover
      dsimp +zetaHave only
      rw [hdm, hu, hd, u1]
      dsimp only
      rw [if_pos hfree]
    have hxw' : (u.port p).xWait = [] := by rw [f1']; exact hxw
    have r1 : ((u.setPort p { u.port p with xq := rest }).refillX p).port p = { u.port p with xq := rest } := by
      unfold State.refillX
      dsimp +zetaHave only
      rw [setPort_same, setPort_same]
      dsimp only
      rw [hxw', List.take_nil, List.drop_nil, List.append_nil]
    have r2 : ∀ a, a ≠ p → ((u.setPort p { u.port p with xq := rest }).refillX p).port a = s.port a := by
      intro a ha
      unfold State.refillX
      dsimp +zetaHave only
      rw [setPort_other _ _ _ _ ha, setPort_other _ _ _ _ ha, f4' a ha]
    have r3 : ∃ ps, (u.setPort p { u.port p with xq := rest }).refillX p = { s.atCyc cyc with ports := ps } := by
      obtain ⟨ps, hps⟩ := f5'
      unfold State.refillX State.setPort
      dsimp +zetaHave only
      rw [hps]
      exact ⟨_, rfl⟩
    rw [hh] at hwr ⊢
    obtain ⟨ps, r3⟩ := r3
    have r1' : ((u.setPort p { u.port p with xq := rest }).refillX p).port p = { v with xq := rest, cLevel := (u.port p).cLevel, tLevel := (u.port p).tLevel, bktCyc := (s.atCyc cyc).absCyc (s.atCyc cyc).clk.cyc } := by rw [r1, f1']
    generalize (u.setPort p { u.port p with xq := rest }).refillX p = w at r1' r2 r3 hwr
    have wn : w.numbered p q.body = false := by unfold State.numbered; rw [hrp]; rfl
    have wpn : w.portNum p = s.portNum p := by rw [r3]; rfl
    have wc : w.cnt = s.cnt := by rw [r3]; rfl
    have hval : ∃ (x : Port) (hd : SentHead), w.handOver p q = ((((w.setPort p x).emit (.frame p hd q.body true)).count (PF_CNT_TX p)).count TP_CNT_X).evt 8 ∧
        x.xq = rest ∧ x.cq = v.cq ∧ x.tq = v.tq ∧ x.txWait = v.txWait ++ [{ typ := q.body.typ, seq := v.seqFor q.body, proto := q.body.zudar, express := true }] ∧
        x.rpl.entries = v.rpl.entries ∧ x.rpl.next = v.rpl.next ∧ hd.typ = q.body.typ ∧ hd.len = q.body.msgLen ∧ hd.dom = v.dom ∧
        hd.seq = v.seqFor q.body ∧ hd.srcPort = s.portNum p ∧ hd.domNum = s.ptpDom v.dom ∧ hd.clockId = s.rd TD_CLOCK_ID ∧ hd.clockPort = p + 1 := by
      have hpd : w.ptpDom (w.port p).dom = s.ptpDom v.dom ∧ w.rd TD_CLOCK_ID = s.rd TD_CLOCK_ID := by
        have : (w.port p).dom = v.dom := by rw [r1']
        rw [this, r3]; exact ⟨rfl, rfl⟩
      have hsq : (w.port p).seqFor q.body = v.seqFor q.body := by rw [r1']; rfl
      unfold State.handOver
      dsimp +zetaHave only
      rw [wn, hcl, wpn, hsq, hpd.1, hpd.2]
      simp only [Bool.false_eq_true, false_and, reduceIte, decide_true]
      refine ⟨_, _, rfl, ?_⟩
      rw [r1']
      exact ⟨rfl, rfl, rfl, rfl, rfl, rfl, rfl, rfl, rfl, rfl, rfl, rfl, rfl, rfl⟩
    obtain ⟨x, hd', e, x1, x2, x3, x4, x5, x6, x7⟩ := hval
    rw [e, evt_one] at hwr
    rw [e, evt_one]
    simp only [emit_port, count_port, setPort_same]
    refine ⟨x1, x2, x3, x4, x5, x6, ⟨hd', ?_, x7⟩, fun a ha => by rw [setPort_other _ _ _ _ ha, r2 a ha], hwr, fun o => ?_⟩
    · exact List.mem_cons_of_mem _ (List.mem_cons_self)
    · show ((((w.setPort p x).emit (.frame p hd' q.body true)).count (PF_CNT_TX p)).count TP_CNT_X).counter o = _
      have hne : PF_CNT_TX p ≠ TP_CNT_X := by show 0x10000 + p * 0x400 + _ ≠ TP_CNT_X; unfold TP_CNT_X; omega
      have hws : (((w.setPort p x).emit (.frame p hd' q.body true))).counter o = s.counter o := counter_cnt wc o
      rw [counter_one, counter_one, hws]
      by_cases c1 : o = TP_CNT_X
      · rw [if_pos c1, if_neg (fun h => hne (h.symm.trans c1)), if_pos (.inr c1)]
      · rw [if_neg c1]
        by_cases c2 : o = PF_CNT_TX p
        · rw [if_pos c2, if_pos (.inl c2)]
        · rw [if_neg c2, if_neg (fun h => h.elim c2 c1)]

/-- What the row TP_DEBT_CLR does (R314). -/
theorem exec_tpDebtClr : ∀ (s : State) (p v : Nat), s.Serving → v < 2 ^ 32 → bitOf v 31 = false →
    (s.nPorts ≤ field v 0 9 → ∃ t, exec (.tpDebtClr v) s = .next t ∧ t.still = s.still) ∧
    (p = field v 0 9 → p < s.nPorts → ∃ t, exec (.tpDebtClr v) s = .next t ∧ (∀ q, q ≠ p → t.port q = s.port q) ∧
      (bitOf v 10 = true → (t.port p).tLevel = max 0 ((s.fillBuckets p).port p).tLevel) ∧
      (bitOf v 9 = true → (t.port p).cLevel = max 0 ((s.fillBuckets p).port p).cLevel) ∧
      (bitOf v 10 = false → (t.port p).tLevel = ((s.fillBuckets p).port p).tLevel) ∧
      (bitOf v 9 = false → (t.port p).cLevel = ((s.fillBuckets p).port p).cLevel) ∧
      t.port p = { s.port p with cLevel := (t.port p).cLevel, tLevel := (t.port p).tLevel, bktCyc := s.absCyc s.clk.cyc }) := by
  intro s p v hs hv hb
  have kk : exec (.tpDebtClr v) s = .next (s.writeBy .host 0x7018 false v) := rfl
  rw [kk, State.writeBy_serving hs _ _ _ _ (by decide), State.regWrite_7018, Nat.mod_eq_of_lt hv]
  have hst := State.touch_still s .host 0x7018
  obtain ⟨c, o, b, g, ht, _⟩ := s.touch_form .host 0x7018
  have hpp : ∀ q, (s.touch .host 0x7018).port q = s.port q := fun q => by rw [ht]; rfl
  have hnp : (s.touch .host 0x7018).nPorts = s.nPorts := by rw [ht]; rfl
  have hck : (s.touch .host 0x7018).absCyc (s.touch .host 0x7018).clk.cyc = s.absCyc s.clk.cyc := by rw [ht]; rfl
  have hfl : ∀ p, ((s.touch .host 0x7018).fillBuckets p).port p = (s.fillBuckets p).port p := by
    intro p
    refine (setPort_same _ _ _).trans (Eq.trans ?_ (setPort_same _ _ _).symm)
    rw [ht]; rfl
  generalize s.touch .host 0x7018 = u at hst hpp hnp hck hfl
  have hd : u.putReg .host 0x7018 v = u.debtClear v := by
    unfold State.putReg; rw [State.rwReg_7018]; dsimp only; unfold State.putOther; rw [State.portAt_low _ _ (by decide)]; rfl
  rw [hd]
  unfold State.debtClear
  dsimp +zetaHave only
  rw [hb, hnp, if_neg (by decide)]
  refine ⟨fun h => ?_, fun h1 h2 => ?_⟩
  · rw [if_neg (by omega)]; exact ⟨_, rfl, hst⟩
  · rw [← h1, if_pos h2]
    refine ⟨_, rfl, ?_⟩
    obtain ⟨f1, f4, f5⟩ := fill_port u p
    simp only [State.each, List.foldl_cons, List.foldl_nil]
    have hm := modPort_same (u.fillBuckets p) p fun q => { q with tLevel := if bitOf v 10 = true then forgive q.tLevel else q.tLevel, cLevel := if bitOf v 9 = true then forgive q.cLevel else q.cLevel }
    refine ⟨fun q hq => ?_, ?_⟩
    · rw [modPort_other _ _ _ _ hq, f4 q hq, hpp]
    · rw [hm]
      rw [hfl] at f1
      rw [hpp, hck] at f1
      rw [hfl]
      refine ⟨fun h => ?_, fun h => ?_, fun h => ?_, fun h => ?_, ?_⟩
      · exact if_pos h
      · exact if_pos h
      · exact if_neg (by rw [h]; decide)
      · exact if_neg (by rw [h]; decide)
      · rw [f1]

theorem sub_mod (off m : Nat) (h : (off - 0x7100) % 0x20 = m) (h1 : 0x7100 ≤ off) (h4 : 4 ≤ m) : (off - 4 - 0x7100) % 0x20 = m - 4 := by
  obtain ⟨x, rfl⟩ := Nat.exists_eq_add_of_le h1
  rw [Nat.add_sub_cancel_left] at h
  rw [show 0x7100 + x - 4 - 0x7100 = x - 4 by rw [Nat.sub_right_comm, Nat.add_sub_cancel_left]]
  omega

theorem prof_facts (off : Nat) (r : Reg) (h : profileReg off = some r) : r.off = off ∧ r.bytes = 4 ∧ r.mask < 2 ^ 64 ∧ 0x7100 ≤ off ∧ off < 0x7500 ∧
    off % 4 = 0 ∧ (off % 8 = 4 → ∃ q, profileReg (off - 4) = some q) := by
  unfold profileReg at h
  by_cases c : 0x7100 ≤ off ∧ off < 0x7300
  · rw [if_pos c] at h
    generalize hm : (off - 0x7100) % 0x20 = m at h
    dsimp +zetaHave only at h
    have h0 : m = 4 → ∃ q, profileReg (off - 4) = some q := by
      intro hj
      unfold profileReg
      rw [if_pos (by omega)]
      dsimp +zetaHave only
      rw [show (off - 4 - 0x7100) % 0x20 = 0 from (sub_mod off m hm c.1 (Nat.le_of_eq hj.symm)).trans (congrArg (· - 4) hj)]
      exact ⟨_, rfl⟩
    have h8 : m = 12 → ∃ q, profileReg (off - 4) = some q := by
      intro hj
      unfold profileReg
      rw [if_pos (by omega)]
      dsimp +zetaHave only
      rw [show (off - 4 - 0x7100) % 0x20 = 8 from (sub_mod off m hm c.1 (Nat.le_trans (by decide) (Nat.le_of_eq hj.symm))).trans (congrArg (· - 4) hj)]
      exact ⟨_, rfl⟩
    split at h
    · refine ⟨?_, ?_⟩
      · cases h; show 0x7100 + (off - 0x7100) / 0x20 * 0x20 + 0 = off; omega
      · cases h; exact ⟨rfl, (by decide : (0xe00000ff : Nat) < 2 ^ 64), by omega, by omega, by omega, fun h' => absurd h' (by omega)⟩
    · refine ⟨?_, ?_⟩
      · cases h; show 0x7100 + (off - 0x7100) / 0x20 * 0x20 + 4 = off; omega
      · cases h; exact ⟨rfl, (by decide : (0xffff : Nat) < 2 ^ 64), by omega, by omega, by omega, fun _ => h0 rfl⟩
    · refine ⟨?_, ?_⟩
      · cases h; show 0x7100 + (off - 0x7100) / 0x20 * 0x20 + 8 = off; omega
      · cases h; exact ⟨rfl, (by decide : (0xffffff : Nat) < 2 ^ 64), by omega, by omega, by omega, fun h' => absurd h' (by omega)⟩
    · refine ⟨?_, ?_⟩
      · cases h; show 0x7100 + (off - 0x7100) / 0x20 * 0x20 + 0xC = off; omega
      · cases h; exact ⟨rfl, (by decide : (0xffff : Nat) < 2 ^ 64), by omega, by omega, by omega, fun _ => h8 rfl⟩
    · refine ⟨?_, ?_⟩
      · cases h; show 0x7100 + (off - 0x7100) / 0x20 * 0x20 + 0x10 = off; omega
      · cases h; exact ⟨rfl, (by decide : (0xffffff : Nat) < 2 ^ 64), by omega, by omega, by omega, fun h' => absurd h' (by omega)⟩
    · cases h
  · rw [if_neg c] at h
    by_cases c2 : 0x7400 ≤ off ∧ off < 0x7500 ∧ off % 4 = 0
    · rw [if_pos c2] at h
      cases h
      refine ⟨?_, rfl, (by decide : (0xffffffff : Nat) < 2 ^ 64), by omega, by omega, by omega, fun h' => ⟨TP_PMAPj ((off - 4 - 0x7400) / 4), ?_⟩⟩
      · show 0x7400 + (off - 0x7400) / 4 * 4 = off; omega
      · unfold profileReg; rw [if_neg (by omega), if_pos (by omega)]
    · rw [if_neg c2] at h; cases h

set_option maxRecDepth 20000 in

theorem fixed_prof : ∀ r ∈ fixedRegs, ¬ (0x7100 ≤ r.off ∧ r.off < 0x7500) := by decide

set_option maxRecDepth 20000 in

theorem eave_prof : ∀ r ∈ eaveRegs, ¬ (0x7100 ≤ r.off ∧ r.off < 0x7500) := by decide

theorem prof_rw (s : State) (off : Nat) (r : Reg) (h : profileReg off = some r) : s.rwReg off = some r := by
  obtain ⟨h1, h2, h3, h4, h5, h6, h7⟩ := prof_facts off r h
  have e1 : fixedRegs.find? (fun r => decide (r.off = off)) = none := by
    rw [List.find?_eq_none]
    intro x hx hh
    exact fixed_prof x hx (by have := of_decide_eq_true hh; omega)
  have e2 : (if s.isEave = true then eaveRegs.find? (fun r => decide (r.off = off)) else none) = none := by
    split
    · rw [List.find?_eq_none]
      intro x hx hh
      exact eave_prof x hx (by have := of_decide_eq_true hh; omega)
    · rfl
  unfold State.rwReg
  rw [State.portAt_low _ _ (by omega)]
  dsimp only
  rw [if_neg (by omega), e1]
  dsimp only
  rw [e2, show off / 0x1000 = 7 by omega]
  exact h

theorem prof_wide (s : State) (m : Master) (off : Nat) (r : Reg) (h : profileReg off = some r) : s.isWide m off = false := by
  unfold State.isWide State.regAt
  rw [prof_rw s off r h]
  simp [(prof_facts off r h).2.1]

/-- What the row PROFILE_WRITE does (R314). -/
theorem exec_profileWrite : (∀ (s : State) (off v : Nat), s.up = true → profileReg off = none → exec (.profileWrite off v) s = .next s) ∧
  (∀ (s : State) (off v : Nat) (r : Reg), s.Serving → profileReg off = some r → v < 2 ^ 32 →
    ∃ t, exec (.profileWrite off v) s = .next t ∧ t.rd r = v &&& r.mask ∧ (∀ q : Reg, q.off ≠ r.off → t.rd q = s.rd q) ∧
      (∀ p, ∃ c l b, t.port p = { s.port p with cLevel := c, tLevel := l, bktCyc := b })) := by
  have kk : ∀ (s : State) off v, exec (.profileWrite off v) s = .next (if (profileReg off).isSome then s.writeBy .host off false v else s) := fun _ _ _ => rfl
  refine ⟨fun s off v _ h => by rw [kk, h]; rfl, ?_⟩
  intro s off v r hs h hv
  obtain ⟨h1, h2, h3, h4, h5, h6, h7⟩ := prof_facts off r h
  have hsl : slotAt off = none := by unfold slotAt; rw [if_neg (by omega), if_neg (by omega)]
  have hao : alwaysOn off = false := by unfold alwaysOn; simp; omega
  rw [kk, h, Option.isSome_some, if_pos rfl, State.writeBy_serving hs _ _ _ _ hao,
    State.regWrite_word _ _ _ _ h6 (by omega) hsl (prof_wide _ _ _ _ h) (fun h' => by obtain ⟨q, hq⟩ := h7 h'; exact prof_wide _ _ _ _ hq), Nat.mod_eq_of_lt hv]
  obtain ⟨t1, _, _, _, _, _, _, _, t9, _⟩ := touch_more s .host off
  generalize s.touch .host off = u at t1 t9
  have hput : u.putReg .host off v = u.profileWrite r v := by
    unfold State.putReg
    rw [prof_rw u off r h]
    dsimp only
    unfold State.putRw
    dsimp +zetaHave only
    rw [h1, State.portAt_low _ _ (by omega)]
    dsimp only
    rw [if_neg (by show _ ≠ 0x3000; omega), if_neg (by show _ ≠ TD_SLEW.off; unfold TD_SLEW; dsimp only; omega), if_neg (by show _ ≠ 0x3030; omega), if_neg (by show _ ≠ 0x4000; omega),
      if_neg (by show _ ≠ 0x4050; omega), if_neg (by show _ ≠ 0xC000; omega), if_neg (by show _ ≠ ZC_TMO.off; unfold ZC_TMO; dsimp only; omega), if_neg (by show _ ≠ 0xA018; omega),
      if_neg (by show _ ≠ 0xA030; omega), if_neg (by show _ ≠ 0xB000; omega), if_neg (by show _ ≠ 0xB008; omega)]
    unfold State.putBlock
    dsimp +zetaHave only
    rw [h1, if_neg (by omega), if_neg (by omega), if_pos ⟨by omega, by rw [h]; rfl⟩]
  rw [hput]
  refine ⟨_, rfl, ?_⟩
  unfold State.profileWrite
  dsimp +zetaHave only
  have hrd : ∀ (w : State) l q, (w.each l fun s p => s.fillBuckets p).rd q = w.rd q := fun w l q => each_keep _ (fun s => s.rd q) (fun s n => by
    rw [(fill_port s n).2.2]; rfl) l w
  have hpt : ∀ (w : State) l p, ∃ c k b, (w.each l fun s p => s.fillBuckets p).port p = { w.port p with cLevel := c, tLevel := k, bktCyc := b } := by
    intro w l p
    refine each_port _ (fun x y => ∃ c k b, y = { x with cLevel := c, tLevel := k, bktCyc := b }) (fun v => ⟨v.cLevel, v.tLevel, v.bktCyc, rfl⟩) ?_ ?_ l w p
    · rintro a b c ⟨_, _, _, rfl⟩ ⟨_, _, _, rfl⟩; exact ⟨_, _, _, rfl⟩
    · intro s n q
      by_cases hq : q = n
      · rw [hq, (fill_port s n).1]; exact ⟨_, _, _, rfl⟩
      · rw [(fill_port s n).2.1 q hq]; exact ⟨(s.port q).cLevel, (s.port q).tLevel, (s.port q).bktCyc, rfl⟩
  refine ⟨?_, fun q hq => ?_, fun p => ?_⟩
  · rw [hrd, State.rd_wr _ _ _ h3]
  · rw [hrd, State.rd_wr_other _ _ _ _ hq, hrd, t1]
  · obtain ⟨c, l, b, h⟩ := hpt (State.wr (u.each (List.range u.nPorts) fun s p => s.fillBuckets p) r v) (List.range (u.nPorts)) p
    obtain ⟨c', l', b', h'⟩ := hpt u (List.range u.nPorts) p
    refine ⟨c, l, b, h.trans ?_⟩
    show ({ (u.each (List.range u.nPorts) fun s p => s.fillBuckets p).port p with cLevel := c, tLevel := l, bktCyc := b } : Port) = _
    rw [h', port_ports t9]

theorem bc_eave (s : State) (p typ id : Nat) (b : Body) (he : s.isEave = true) : s.broadcast p typ id b =
    if (typ, id) ∈ s.td.seen then (s, false) else ({ s with td := { s.td with seen := ((typ, id) :: s.td.seen).take 16 } }, true) := by
  have hr : s.isRidge = false := by
    unfold State.isRidge; unfold State.isEave at he
    rw [of_decide_eq_true he]; rfl
  unfold State.broadcast
  dsimp +zetaHave only
  rw [he]
  by_cases h : (typ, id) ∈ s.td.seen
  · rw [if_pos (.inl h), if_pos h]
  · rw [if_neg (fun a => a.elim h (fun a => absurd a (by simp))), if_neg h]
    show (if s.isRidge = true then _ else _, true) = _
    rw [hr]; rfl

/-- What the rows SWITCH_PLAN_RECEIVE, SWITCH_CANCEL_RECEIVE, LAUNCH_RECEIVE do (R123, R250). -/
theorem exec_switchPlanReceive_switchCancelReceive_launchReceive : (∀ (s u : State) (h : RxHead) (id sw : Nat) (tgt : Dom) (r : Rx), s.up = true → h.port < s.nPorts → s.isEave = true →
    r = s.rxZudar h kSwitchPlan → u = r.s → u.wire = s.wire ∧
    (r.ok = true → serialRebuild u.clk.course sw = none → exec (.switchPlanReceive h id tgt sw) s = .next (u.count TD_CNT_RANGE)) ∧
    ((r.ok = false ∨ ((0x10, id) ∈ u.td.seen ∧ serialRebuild u.clk.course sw ≠ none)) → exec (.switchPlanReceive h id tgt sw) s = .next u) ∧
    (∀ c, r.ok = true → (0x10, id) ∉ u.td.seen → serialRebuild u.clk.course sw = some c → ∃ t, exec (.switchPlanReceive h id tgt sw) s = .next t ∧
      t.td.seen = ((0x10, id) :: u.td.seen).take 16 ∧ t.ports = u.ports ∧ t.regs = u.regs ∧
        (c < u.clk.course + 16 → t.td.plan = u.td.plan ∧ t.td.late = true ∧
          t.counter TD_CNT_PLAN_LATE = (u.counter TD_CNT_PLAN_LATE + 1) % 2 ^ 32) ∧
        (u.clk.course + 16 ≤ c → t.td.plan = some ⟨id, tgt, c⟩ ∧ t.td.outcome = 0 ∧ t.cnt = u.cnt))) ∧
  (∀ (s u : State) (h : RxHead) (id : Nat) (r : Rx), s.up = true → h.port < s.nPorts → s.isEave = true →
    r = s.rxZudar h kSwitchCancel → u = r.s → u.wire = s.wire ∧
    ((r.ok = false ∨ (0x11, id) ∈ u.td.seen) → exec (.switchCancelReceive h id) s = .next u) ∧
    (r.ok = true → (0x11, id) ∉ u.td.seen → ∃ t, exec (.switchCancelReceive h id) s = .next t ∧ t.ports = u.ports ∧ t.cnt = u.cnt ∧
      (u.td.plan.map Plan.id = some id → t.td.plan = none ∧ t.td.outcome = 3) ∧
      (u.td.plan.map Plan.id ≠ some id → t.td.plan = u.td.plan ∧ t.td.outcome = u.td.outcome))) ∧
  (∀ (s u : State) (h : RxHead) (b : LaunchBody) (r : Rx), s.up = true → h.port < s.nPorts → s.isEave = true →
    r = s.rxZudar h kLaunch b.target.ok → u = r.s → u.wire = s.wire ∧
    ((r.ok = false ∨ (0x14, b.id) ∈ u.td.seen) → exec (.launchReceive h b) s = .next u) ∧
    (r.ok = true → (0x14, b.id) ∉ u.td.seen → eventKind b.kind = true → b.kind ≠ 5 →
      (courseOf b.target.units < u.clk.course + 2 → ∃ t, exec (.launchReceive h b) s = .next t ∧ t.ev = u.ev ∧ t.irq.getLsbD 19 = true ∧
        t.counter SQ_CNT_EVT_LATE = (u.counter SQ_CNT_EVT_LATE + 1) % 2 ^ 32) ∧
      (u.clk.course + 2 ≤ courseOf b.target.units → u.ev.events.length < 16 → b.kind ≠ 1 → b.kind ≠ 2 →
        ∃ t, exec (.launchReceive h b) s = .next t ∧ t.cnt = u.cnt ∧ t.irq = u.irq ∧ t.ev = { u.ev with
          events := u.ev.events ++ [{ id := b.id % 2 ^ 32, kind := b.kind, target := b.target.units, arg := b.arg }] }))) := by
  have he : ∀ (s u : State), u.wire = s.wire → s.isEave = true → u.isEave = true := by
    intro s u h h2
    obtain ⟨_, _, _, _, _, _, _, _, _, t10, _⟩ := wire_parts h
    unfold State.isEave at *; rw [t10]; exact h2
  refine ⟨?_, ?_, ?_⟩
  · intro s u h id sw tgt r hup hp hev hr hu
    have w0 : u.wire = s.wire := by rw [hu, hr]; exact State.rxZudar_wire _ _ _ _
    have ue := he s u w0 hev
    have kk : exec (.switchPlanReceive h id tgt sw) s = s.atPort h.port fun s => if (s.rxZudar h kSwitchPlan).ok = true ∧ (serialRebuild (s.rxZudar h kSwitchPlan).s.clk.course sw).isNone = true then
        (s.rxZudar h kSwitchPlan).s.count TD_CNT_RANGE
      else if (s.rxZudar h kSwitchPlan).ok = true then
        (if ((s.rxZudar h kSwitchPlan).s.broadcast h.port 0x10 id (.switchPlan id tgt sw)).2 = true ∧ ((s.rxZudar h kSwitchPlan).s.broadcast h.port 0x10 id (.switchPlan id tgt sw)).1.isEave = true then
          ((s.rxZudar h kSwitchPlan).s.broadcast h.port 0x10 id (.switchPlan id tgt sw)).1.planArrived id tgt sw
        else ((s.rxZudar h kSwitchPlan).s.broadcast h.port 0x10 id (.switchPlan id tgt sw)).1)
      else (s.rxZudar h kSwitchPlan).s := rfl
    rw [kk, atPort_in hup hp, ← hr, ← hu, bc_eave _ _ _ _ _ ue]
    refine ⟨w0, fun ho hn => by rw [if_pos ⟨ho, by rw [hn]; rfl⟩], fun hh => ?_, fun c ho hs hc => ?_⟩
    · rcases hh with hh | ⟨hh, hn⟩
      · rw [if_neg (fun x => absurd (x.1.symm.trans hh) (by decide)), if_neg (by rw [hh]; decide)]
      · rw [if_neg (fun x => hn (Option.isNone_iff_eq_none.mp x.2))]
        simp only [if_pos hh]
        rw [if_neg (c := false = true ∧ u.isEave = true) (fun h => absurd h.1 (by decide)), ite_self]
    · rw [if_neg (fun x => by rw [hc] at x; exact absurd x.2 (by simp)), if_pos ho]
      simp only [if_neg hs]
      rw [if_pos ⟨trivial, ue⟩]
      refine ⟨_, rfl, ?_⟩
      generalize hw : ({ u with td := { u.td with seen := ((0x10, id) :: u.td.seen).take 16 } } : State) = w
      have w1 : w.td = { u.td with seen := ((0x10, id) :: u.td.seen).take 16 } := by rw [← hw]
      have w2 : w.ports = u.ports := by rw [← hw]
      have w3 : w.regs = u.regs := by rw [← hw]
      have w4 : w.clk = u.clk := by rw [← hw]
      have w5 : w.cnt = u.cnt := by rw [← hw]
      unfold State.planArrived
      rw [w4, hc]
      dsimp only
      by_cases hl : c < u.clk.course + 16
      · rw [if_pos hl]
        refine ⟨by show w.td.seen = _; rw [w1], w2, w3, fun _ => ⟨by show w.td.plan = _; rw [w1], rfl, ?_⟩, fun h => absurd hl (by omega)⟩
        rw [count_same]
        show (w.counter _ + 1) % _ = _
        rw [counter_cnt w5]
      · rw [if_neg hl]
        exact ⟨by show w.td.seen = _; rw [w1], w2, w3, fun h => absurd h hl, fun _ => ⟨rfl, rfl, w5⟩⟩
  · intro s u h id r hup hp hev hr hu
    have w0 : u.wire = s.wire := by rw [hu, hr]; exact State.rxZudar_wire _ _ _ _
    have ue := he s u w0 hev
    have kk : exec (.switchCancelReceive h id) s = s.atPort h.port fun s => if (s.rxZudar h kSwitchCancel).ok = true then
        (if ((s.rxZudar h kSwitchCancel).s.broadcast h.port 0x11 id (.switchCancel id)).2 = true ∧ ((s.rxZudar h kSwitchCancel).s.broadcast h.port 0x11 id (.switchCancel id)).1.isEave = true ∧
            (((s.rxZudar h kSwitchCancel).s.broadcast h.port 0x11 id (.switchCancel id)).1.td.plan.map Plan.id) = some id then
          ((s.rxZudar h kSwitchCancel).s.broadcast h.port 0x11 id (.switchCancel id)).1.cancelPlan
        else ((s.rxZudar h kSwitchCancel).s.broadcast h.port 0x11 id (.switchCancel id)).1)
      else (s.rxZudar h kSwitchCancel).s := rfl
    rw [kk, atPort_in hup hp, ← hr, ← hu, bc_eave _ _ _ _ _ ue]
    refine ⟨w0, fun hh => ?_, fun ho hs => ?_⟩
    · rcases hh with hh | hh
      · rw [if_neg (by rw [hh]; decide)]
      · simp only [if_pos hh]
        rw [if_neg (c := false = true ∧ _) (fun h => absurd h.1 (by decide)), ite_self]
    · rw [if_pos ho]
      simp only [if_neg hs]
      by_cases hi : u.td.plan.map Plan.id = some id
      · rw [if_pos ⟨trivial, ue, hi⟩]
        exact ⟨_, rfl, rfl, rfl, fun _ => ⟨rfl, rfl⟩, fun h => absurd hi h⟩
      · rw [if_neg (fun h => hi h.2.2)]
        exact ⟨_, rfl, rfl, rfl, fun h => absurd h hi, fun _ => ⟨rfl, rfl⟩⟩
  · intro s u h b r hup hp hev hr hu
    have w0 : u.wire = s.wire := by rw [hu, hr]; exact State.rxZudar_wire _ _ _ _
    have ue := he s u w0 hev
    have kk : exec (.launchReceive h b) s = s.atPort h.port fun s => if (s.rxZudar h kLaunch b.target.ok).ok = true then
        (if ((s.rxZudar h kLaunch b.target.ok).s.broadcast h.port 0x14 b.id (.launch b)).2 = true then
          ((s.rxZudar h kLaunch b.target.ok).s.broadcast h.port 0x14 b.id (.launch b)).1.takeEvent { id := b.id % 2 ^ 32, kind := b.kind, target := b.target.units, arg := b.arg }
        else ((s.rxZudar h kLaunch b.target.ok).s.broadcast h.port 0x14 b.id (.launch b)).1)
      else (s.rxZudar h kLaunch b.target.ok).s := rfl
    rw [kk, atPort_in hup hp, ← hr, ← hu, bc_eave _ _ _ _ _ ue]
    refine ⟨w0, fun hh => ?_, fun ho hs hk h5 => ?_⟩
    · rcases hh with hh | hh
      · rw [if_neg (by rw [hh]; decide)]
      · simp only [if_pos hh]
        rw [if_neg (c := false = true) (by decide), ite_self]
    · rw [if_pos ho]
      simp only [if_neg hs]
      rw [if_pos trivial]
      generalize hw : ({ u with td := { u.td with seen := ((0x14, b.id) :: u.td.seen).take 16 } } : State) = w
      have w1 : w.isRidge = false := by
        have : u.isRidge = false := by unfold State.isRidge; unfold State.isEave at ue; rw [of_decide_eq_true ue]; rfl
        rw [← hw]; exact this
      have w2 : w.ev = u.ev := by rw [← hw]
      have w3 : w.irq = u.irq := by rw [← hw]
      have w4 : w.clk = u.clk := by rw [← hw]
      have w5 : w.cnt = u.cnt := by rw [← hw]
      unfold State.takeEvent
      rw [hk, w4, w1, w2]
      dsimp only
      rw [if_neg (c := true = false) (by decide), if_neg h5, if_neg (c := false = true ∧ _) (fun h => absurd h.1 (by decide))]
      refine ⟨fun hl => ?_, fun hl hn h1 h2 => ?_⟩
      · rw [if_pos hl]
        refine ⟨_, rfl, w2, ?_, ?_⟩
        · unfold State.raise; simp
        · show (w.count SQ_CNT_EVT_LATE).counter _ = _
          rw [count_same, counter_cnt w5]
      · rw [if_neg (by omega), if_neg (by omega)]
        unfold State.schedule
        dsimp +zetaHave only
        rw [if_neg (by simp [h1]), if_neg (by simp [h2])]
        exact ⟨_, rfl, w5, w3, by rw [← w2]⟩

end Sys2Proof.Machine
end

