-- ==== Sys2Proof/Laws/RowsMarks.lean ====
section
/-! SUPPORT. Sys2Proof/Laws/RowsMarks.lean: marks, stamps and the level of a port. -/

set_option linter.all false
set_option Elab.async false

namespace Sys2Proof.Machine
open Sys2Proof Sys2Proof.Config

/-- What the rows RECEIVE_MARK, TRANSMIT_MARK do (R69, R73). -/
theorem exec_receiveMark_transmitMark :
    (∀ (s : State) (p id adj : Nat) (e : Edge), s.up = true → (s.nPorts ≤ p ∨ s.isUp p = false) →
      exec (.receiveMark p id e adj) s = .next s ∧ exec (.transmitMark p e adj) s = .next s) := by
  intro s p id adj e hup h
  have h1 : exec (.receiveMark p id e adj) s = s.main fun s => if p < s.nPorts then (if s.isUp p then s.receiveMark p id e adj else s) else s := rfl
  have h2 : exec (.transmitMark p e adj) s = s.main fun s => if p < s.nPorts then (if s.isUp p then s.transmitMark p e adj else s) else s := rfl
  rw [h1, h2, State.main_up hup, State.main_up hup]
  rcases h with h | h
  · rw [if_neg (by omega), if_neg (by omega)]; exact ⟨rfl, rfl⟩
  · rw [h]; constructor <;> split <;> rfl

/-- What a receive mark writes at its port. -/
theorem receiveMark_eq (s u : State) (p id adj : Nat) (e : Edge) (v v' : Port) (old : MarkSlot) (miss : Bool) (hu : u = s.atCyc e.cyc)
    (hv : v = s.port p) (hold : old = v.marks.get {} (id % 16))
    (hmiss : miss = ((match v.lastRx with | some l => decide (u.absCode e < l + 8192) | none => false) || !s.convTimes (convRx p)))
    (hv' : v' = { v with lastRx := some (u.absCode e), marks := v.marks.set {} (id % 16) {
      stamp := if miss then none else some (u.rxTime p e adj), cgen := v.cgen, miss := miss, waiting := true
      lost := old.lost + bnat old.waiting, at_ := u.absCode e } }) :
    s.receiveMark p id e adj = State.portMark
      (if old.waiting = true then ((u.setPort p v').count (PF_CNT_ORPHAN p)).heldGone p id else u.setPort p v') 0x21 p
      (State.rxTime (if old.waiting = true then ((u.setPort p v').count (PF_CNT_ORPHAN p)).heldGone p id else u.setPort p v') p e adj) (!miss) := by
  subst hv' hmiss hold hv hu; rfl

/-- What the row RECEIVE_MARK does (R69). -/
theorem exec_receiveMark :
    (∀ (s u : State) (p id adj : Nat) (e : Edge) (v : Port) (old : MarkSlot) (miss : Bool), s.up = true → p < s.nPorts → s.isUp p = true →
      u = s.atCyc e.cyc → v = s.port p → old = v.marks.get {} (id % 16) →
      miss = ((match v.lastRx with | some l => decide (u.absCode e < l + 8192) | none => false) || !s.convTimes (convRx p)) →
      (old.waiting = true → v.rpl.held ≠ some (id % 16)) →
      ∃ t, exec (.receiveMark p id e adj) s = .next t ∧
        t = { u with ports := t.ports, cnt := t.cnt, im := t.im, irq := t.irq } ∧ (∀ q, q ≠ p → t.port q = s.port q) ∧
        t.port p = { v with lastRx := some (u.absCode e), marks := v.marks.set {} (id % 16) {
          stamp := if miss then none else some (u.rxTime p e adj), cgen := v.cgen, miss := miss, waiting := true
          lost := old.lost + bnat old.waiting, at_ := u.absCode e } } ∧
        (s.im.cfg.port ≠ p → t.im = s.im ∧ t.irq = s.irq ∧
          ∀ o, t.counter o = if old.waiting = true ∧ o = PF_CNT_ORPHAN p then (s.counter o + 1) % 2 ^ 32 else s.counter o)) := by
  intro s u p id adj e v old miss hup hp hu hu' hv hold hmiss hheld
  have h1 : exec (.receiveMark p id e adj) s = s.atPort p fun s => (if s.isUp p then s.receiveMark p id e adj else s) := rfl
  generalize hv' : ({ v with lastRx := some (u.absCode e), marks := v.marks.set {} (id % 16) {
      stamp := if miss then none else some (u.rxTime p e adj), cgen := v.cgen, miss := miss, waiting := true
      lost := old.lost + bnat old.waiting, at_ := u.absCode e } } : Port) = v'
  rw [h1, atPort_in hup hp, if_pos hu, receiveMark_eq s u p id adj e v v' old miss hu' hv hold hmiss hv'.symm]
  generalize hx : u.setPort p v' = x
  have x1 : x.port p = v' := by rw [← hx]; exact setPort_same _ _ _
  have x2 : ∀ q, q ≠ p → x.port q = s.port q := by intro q hq; rw [← hx, setPort_other _ _ _ _ hq, hu']; rfl
  have x3 : x = { u with ports := x.ports } := by rw [← hx]; rfl
  have hg : old.waiting = true → (x.count (PF_CNT_ORPHAN p)).heldGone p id = x.count (PF_CNT_ORPHAN p) := by
    intro hw
    refine gone_none _ _ _ ?_
    rw [count_port, x1, ← hv']; exact hheld hw
  have hy0 : (if old.waiting = true then (x.count (PF_CNT_ORPHAN p)).heldGone p id else x) = (if old.waiting = true then x.count (PF_CNT_ORPHAN p) else x) := by
    by_cases hw : old.waiting = true
    · rw [if_pos hw, if_pos hw, hg hw]
    · rw [if_neg hw, if_neg hw]
  rw [hy0]
  have x4 : ∀ c : Prop, ∀ _ : Decidable c, (if c then x.count (PF_CNT_ORPHAN p) else x) = { x with cnt := (if c then x.count (PF_CNT_ORPHAN p) else x).cnt } := by
    intro c _; split <;> rfl
  generalize hy : (if old.waiting = true then x.count (PF_CNT_ORPHAN p) else x) = y
  have y1 : y = { x with cnt := y.cnt } := by rw [← hy]; exact x4 _ _
  have y2 : ∀ o, y.counter o = if old.waiting = true ∧ o = PF_CNT_ORPHAN p then (s.counter o + 1) % 2 ^ 32 else s.counter o := by
    intro o
    have hc : x.counter o = s.counter o := by rw [x3, hu']; rfl
    rw [← hy]
    by_cases hw : old.waiting = true
    · rw [if_pos hw, counter_one, hc]; simp [hw]
    · rw [if_neg hw, hc]; simp [hw]
  generalize y.rxTime p e adj = tt
  have z := shot_eq (State.portMark_shot y 0x21 p tt (!miss))
  refine ⟨_, rfl, ?_, ?_, ?_, ?_⟩
  · rw [z, y1, x3]
  · intro q hq; rw [z, y1]; exact x2 q hq
  · rw [z, y1]; exact x1
  · intro hne
    have : y.im.cfg.port ≠ p := by rw [y1, x3, hu']; exact hne
    rw [portMark_other _ _ _ _ _ this]
    exact ⟨by rw [y1, x3, hu']; rfl, by rw [y1, x3, hu']; rfl, y2⟩

/-- A gap is open after it is opened; the port's other link state stays. -/
theorem openGap_rpl (s : State) (p : Nat) (c : Bool) : ((s.openGap p c).port p).rpl.gap = true ∧
    ((s.openGap p c).port p).rpl.held = (s.port p).rpl.held ∧ ((s.openGap p c).port p).rpl.expect = (s.port p).rpl.expect := by
  unfold State.openGap
  dsimp +zetaHave only
  split
  · rename_i h; exact ⟨h, rfl, rfl⟩
  · obtain ⟨⟨a1, a2, a3, a4, a5, h⟩, _⟩ := xsend_ports (if c = true then
      (((s.setPort p { s.port p with rpl := { (s.port p).rpl with gap := true, nakSent := true } }).count (PF_CNT_FCS p)).evt 15).scoreFcs p
      else s.setPort p { s.port p with rpl := { (s.port p).rpl with gap := true, nakSent := true } }) p (.nak (s.port p).rpl.expect)
    rw [h]
    dsimp only
    have hb : ((s.setPort p { s.port p with rpl := { (s.port p).rpl with gap := true, nakSent := true } }).port p).rpl =
        { (s.port p).rpl with gap := true, nakSent := true } := by rw [setPort_same]
    cases c
    · rw [if_neg (by decide), hb]; exact ⟨rfl, rfl, rfl⟩
    · rw [if_pos rfl]
      generalize hw : (((s.setPort p { s.port p with rpl := { (s.port p).rpl with gap := true, nakSent := true } }).count (PF_CNT_FCS p)).evt 15) = w
      have hw' : (w.port p).rpl = { (s.port p).rpl with gap := true, nakSent := true } := by rw [← hw]; exact hb
      unfold State.scoreFcs
      obtain ⟨_, _, s3, s4⟩ := score_port w p (w.fl HF_WEIGHT 8 8)
      cases hs : (w.port p).scores with
      | true => rw [s4 hs]; dsimp only; rw [hw']; exact ⟨rfl, rfl, rfl⟩
      | false => rw [s3 hs, hw']; exact ⟨rfl, rfl, rfl⟩

/-- What the row RECEIVE_MARK does when it takes the mark identity of a frame that held the expected number (R69, R312). -/
theorem exec_receiveMark_2 :
    (∀ (s : State) (p id adj : Nat) (e : Edge) (v : Port), s.up = true → p < s.nPorts → s.isUp p = true → v = s.port p →
      (v.marks.get {} (id % 16)).waiting = true → v.rpl.held = some (id % 16) →
      ∃ t, exec (.receiveMark p id e adj) s = .next t ∧ (∀ q, q ≠ p → t.port q = s.port q) ∧ (t.port p).rpl.held = none ∧
        (t.port p).rpl.gap = true ∧ (t.port p).rpl.expect = v.rpl.expect ∧
        (s.im.cfg.port ≠ p → t.counter (PF_CNT_ORPHAN p) = (s.counter (PF_CNT_ORPHAN p) + 1) % 2 ^ 32)) := by
  intro s p id adj e v hup hp hu hv hw hheld
  have h1 : exec (.receiveMark p id e adj) s = s.atPort p fun s => (if s.isUp p then s.receiveMark p id e adj else s) := rfl
  generalize hu' : s.atCyc e.cyc = u
  generalize hm : ((match v.lastRx with | some l => decide (u.absCode e < l + 8192) | none => false) || !s.convTimes (convRx p)) = miss
  generalize hold : v.marks.get {} (id % 16) = old at hw
  generalize hv' : ({ v with lastRx := some (u.absCode e), marks := v.marks.set {} (id % 16) {
      stamp := if miss then none else some (u.rxTime p e adj), cgen := v.cgen, miss := miss, waiting := true
      lost := old.lost + bnat old.waiting, at_ := u.absCode e } } : Port) = v'
  rw [h1, atPort_in hup hp, if_pos hu, receiveMark_eq s u p id adj e v v' old miss hu'.symm hv hold.symm hm.symm hv'.symm, if_pos hw]
  generalize hx : (u.setPort p v').count (PF_CNT_ORPHAN p) = x
  have x1 : x.port p = v' := by rw [← hx, count_port]; exact setPort_same _ _ _
  have x2 : ∀ q, q ≠ p → x.port q = s.port q := by intro q hq; rw [← hx, count_port, setPort_other _ _ _ _ hq, ← hu']; rfl
  have x3 : x.counter (PF_CNT_ORPHAN p) = (s.counter (PF_CNT_ORPHAN p) + 1) % 2 ^ 32 := by
    rw [← hx, counter_one, if_pos rfl, ← hu']; rfl
  have x4 : x.im = s.im := by rw [← hx, ← hu']; rfl
  have hxh : (x.port p).rpl.held = some (id % 16) := by rw [x1, ← hv']; exact hheld
  have hg : x.heldGone p id = (x.setPort p { x.port p with rpl := { (x.port p).rpl with held := none } }).openGap p true := if_pos hxh
  have g0 : ∀ q, q ≠ p → (x.heldGone p id).port q = s.port q := fun q hq => (gone_other _ _ _ _ hq).trans (x2 q hq)
  have g1 : (x.heldGone p id).im = s.im := by
    have := (wire_parts (State.heldGone_wire x p id)).2.2.2.1
    exact this.trans x4
  have g2 : (x.heldGone p id).counter (PF_CNT_ORPHAN p) = x.counter (PF_CNT_ORPHAN p) :=
    gone_counter _ _ _ _ (by unfold PF_CNT_ORPHAN TP_CNT_FLUSH; omega) (by unfold PF_CNT_ORPHAN TP_CNT_QFULL; omega) (by unfold PF_CNT_ORPHAN PF_CNT_FCS; omega)
  have g3 : ((x.heldGone p id).port p).rpl.gap = true ∧ ((x.heldGone p id).port p).rpl.held = none ∧
      ((x.heldGone p id).port p).rpl.expect = v.rpl.expect := by
    obtain ⟨a, b, c⟩ := openGap_rpl (x.setPort p { x.port p with rpl := { (x.port p).rpl with held := none } }) p true
    rw [hg]
    rw [setPort_same] at b c
    refine ⟨a, b, c.trans ?_⟩
    rw [x1, ← hv']
  generalize x.heldGone p id = y at g0 g1 g2 g3
  generalize y.rxTime p e adj = tt
  have z := shot_eq (State.portMark_shot y 0x21 p tt (!miss))
  refine ⟨_, rfl, ?_, ?_, ?_, ?_, ?_⟩
  · intro q hq; rw [z]; exact g0 q hq
  · rw [z]; exact g3.2.1
  · rw [z]; exact g3.1
  · rw [z]; exact g3.2.2
  · intro hne
    rw [portMark_other _ _ _ _ _ (by rw [g1]; exact hne), g2, x3]

/-- What the row TRANSMIT_MARK does (R73). -/
theorem exec_transmitMark :
    (∀ (s u : State) (p adj : Nat) (e : Edge) (v : Port), s.up = true → p < s.nPorts → s.isUp p = true → u = s.atCyc e.cyc → v = s.port p →
      (v.txWait = [] → exec (.transmitMark p e adj) s = .next u) ∧
      (∀ w rest, v.txWait = w :: rest → s.convTimes (convTx p) = true →
        ∃ t, exec (.transmitMark p e adj) s = .next t ∧ (t.port p).txWait = rest ∧ (t.port p).lastMarked = some w ∧
        (t.port p).lastTx = some (u.absCode e) ∧ (w.stamped = true → .insertion p w.typ (u.txTime p e adj) ∈ t.out) ∧
        (w.proto = false → w.typ = 0 → (t.port p).upper.t1 = some ⟨u.txTime p e adj, v.cgen, false⟩ ∧ (t.port p).upper.seq = w.seq) ∧
        (w.proto = false → w.typ = 1 → ∀ x, v.lower = some x →
          (t.port p).lower = some { x with t3 := some ⟨u.txTime p e adj, v.cgen, false⟩ }) ∧
        (s.bit (PF_CTL p) 1 = false → v.fifo.length < 16 → w.typ < 0x100 → (t.port p).fifo = v.fifo ++
          [mkRec (s.portNum p) (some (u.txTime p e adj)) w.seq w.typ
            (128 + bnat w.proto * 64 + v.dom.num * 32 + bnat w.express * 16 + 1) v.cgen]) ∧
        (∀ q, q ≠ p → t.port q = s.port q) ∧ t.td = s.td ∧ t.regs = s.regs ∧ t.rs = s.rs) ∧
      (∀ w rest, v.txWait = w :: rest → s.convTimes (convTx p) = false →
        ∃ t, exec (.transmitMark p e adj) s = .next t ∧ (t.port p).txWait = rest ∧ (t.port p).lastMarked = some w ∧
        (w.proto = false → w.typ = 0 → (t.port p).upper.t1.map (·.bad) = some true) ∧
        (s.bit (PF_CTL p) 1 = false → v.fifo.length < 16 → w.typ < 0x100 → (t.port p).fifo = v.fifo ++
          [mkRec (s.portNum p) none w.seq w.typ
            (128 + bnat w.proto * 64 + v.dom.num * 32 + bnat w.express * 16 + 9) v.cgen]) ∧
        (∀ q, q ≠ p → t.port q = s.port q) ∧ t.td = s.td ∧ t.regs = s.regs ∧ t.rs = s.rs)) := by
  intro s u p adj e v hup hp hu hu' hv
  have h1 : exec (.transmitMark p e adj) s = s.atPort p fun s => (if s.isUp p then s.transmitMark p e adj else s) := rfl
  have hvu : u.port p = v := by rw [hu', hv]; rfl
  have fin : ∀ (u' x : State) (w : TxWait) (v' : Port) (miss : Bool) (T : Int), x = (if w.stamped = true then (u'.setPort p v').emit (.insertion p w.typ T) else u'.setPort p v') →
      u'.ports = u.ports → u'.td = u.td → u'.regs = u.regs → u'.rs = u.rs → u'.ties = u.ties → v'.fifo = v.fifo → v'.dom = v.dom → ∀ g b A,
      ∀ t, t = (x.stampRecord p true w.proto w.seq w.typ w.express miss false (some T) g).portMark 0x20 p A b →
      (∃ f k, t.port p = { v' with fifo := f, lastLog := k }) ∧ (w.stamped = true → .insertion p w.typ T ∈ t.out) ∧
      (s.bit (PF_CTL p) 1 = false → v.fifo.length < 16 → w.typ < 0x100 → (t.port p).fifo = v.fifo ++
        [mkRec (s.portNum p) (if miss then none else some T) w.seq w.typ
          (128 + bnat w.proto * 64 + v.dom.num * 32 + bnat w.express * 16 + bnat miss * 8 + 1) g]) ∧
      (∀ q, q ≠ p → t.port q = s.port q) ∧ t.td = s.td ∧ t.regs = s.regs ∧ t.rs = s.rs := by
    intro u' x w v' miss T hx a1 a2 a3 a4 a5 a6 a7 g b A t ht
    have z := shot_eq (State.portMark_shot (x.stampRecord p true w.proto w.seq w.typ w.express miss false (some T) g) 0x20 p A b)
    rw [← ht] at z
    have x1 : x.port p = v' := by rw [hx]; split <;> exact setPort_same _ _ _
    have x2 : ∀ q, q ≠ p → x.port q = s.port q := by
      intro q hq; rw [hx]
      have h : (u'.setPort p v').port q = s.port q := by
        rw [setPort_other _ _ _ _ hq]; unfold State.port; rw [a1, hu']; rfl
      split <;> exact h
    have x3 : x.td = s.td ∧ x.regs = s.regs ∧ x.rs = s.rs ∧ x.ties = s.ties := by
      have h : (u'.setPort p v').td = s.td ∧ (u'.setPort p v').regs = s.regs ∧ (u'.setPort p v').rs = s.rs ∧ (u'.setPort p v').ties = s.ties :=
        ⟨a2.trans (by rw [hu']; rfl), a3.trans (by rw [hu']; rfl), a4.trans (by rw [hu']; rfl), a5.trans (by rw [hu']; rfl)⟩
      rw [hx]; split <;> exact h
    have x4 : w.stamped = true → .insertion p w.typ T ∈ x.out := by
      intro h; rw [hx, if_pos h]; exact List.mem_cons_self ..
    obtain ⟨⟨f, k, s1⟩, s2, s3, s4⟩ := stamp_ports x p true w.proto w.seq w.typ w.express miss false (some T) g
    have s5 := State.stampRecord_wire x p true w.proto w.seq w.typ w.express miss false (some T) g
    generalize x.stampRecord p true w.proto w.seq w.typ w.express miss false (some T) g = y at z s1 s2 s3 s4 s5
    have tp : ∀ q, t.port q = y.port q := by intro q; rw [z]; rfl
    have tOut : t.out = y.out := by rw [z]
    have t3 : t.td = s.td ∧ t.regs = s.regs ∧ t.rs = s.rs := by
      simp only [State.wire, Prod.mk.injEq] at s5
      rw [z]
      exact ⟨s5.1.trans x3.1, s5.2.1.trans x3.2.1, s5.2.2.1.trans x3.2.2.1⟩
    refine ⟨⟨f, k, by rw [tp, s1, x1]⟩, fun h => by rw [tOut]; exact s3 _ (x4 h), ?_, fun q hq => by rw [tp, s2 q hq]; exact x2 q hq, t3⟩
    intro c1 c2 c3
    rw [tp]
    have hb : x.bit (PF_CTL p) 1 = false := by unfold State.bit State.rd; rw [x3.2.1]; exact c1
    have hn : x.portNum p = s.portNum p := by unfold State.portNum; rw [x3.2.2.2]
    have := s4 hb (by rw [x1, a6]; exact c2) c3
    rw [x1, a6, a7, hn] at this
    rw [this]
    have e1 : bnat true * 128 = 128 := rfl
    have e2 : ∀ n, n + bnat false * 4 + 1 = n + 1 := fun _ => rfl
    rw [e1, e2]
  refine ⟨?_, ?_, ?_⟩
  · intro hw
    rw [h1, atPort_in hup hp, if_pos hu]
    unfold State.transmitMark
    rw [← hu']
    dsimp +zetaHave only
    rw [hvu, hw]
  · intro w rest hw hc
    rw [h1, atPort_in hup hp, if_pos hu]
    refine ⟨_, rfl, ?_⟩
    have hc' : u.convTimes (convTx p) = true := by rw [hu']; exact hc
    generalize hT : u.txTime p e adj = T
    generalize hv' : ({ v with
      txWait := rest, lastMarked := some w, lastTx := some (u.absCode e)
      upper := if w.proto = false ∧ w.typ = 0x0 then { v.upper with t1 := some ⟨T, v.cgen, false⟩, seq := w.seq } else v.upper
      lower := if w.proto = false ∧ w.typ = 0x1 then v.lower.map fun x => { x with t3 := some ⟨T, v.cgen, false⟩ } else v.lower } : Port) = v'
    have key : s.transmitMark p e adj = ((if w.stamped = true then (u.setPort p v').emit (.insertion p w.typ T) else u.setPort p v').stampRecord p true w.proto w.seq w.typ w.express false false (some T) v.cgen).portMark 0x20 p T true := by
      unfold State.transmitMark
      rw [← hu']
      dsimp +zetaHave only
      rw [hvu, hw]
      dsimp only
      rw [hc']
      simp only [Bool.not_true, Bool.false_eq_true, reduceIte, Bool.not_false]
      rw [hT, hv']
    obtain ⟨⟨f, kk, b1⟩, b2, b3, b4, b5, b6, b7⟩ := fin u _ w v' false T rfl rfl rfl rfl rfl rfl (by rw [← hv']) (by rw [← hv']) v.cgen true _ _ key
    refine ⟨by rw [b1, ← hv'], by rw [b1, ← hv'], by rw [b1, ← hv'], b2, ?_, ?_, ?_, b4, b5, b6, b7⟩
    · intro c1 c2
      rw [b1, ← hv']
      dsimp only
      rw [if_pos ⟨c1, c2⟩]; exact ⟨rfl, rfl⟩
    · intro c1 c2 x hx
      rw [b1, ← hv']
      dsimp only
      rw [if_pos ⟨c1, c2⟩, hx]; rfl
    · intro c1 c2 c3
      exact b3 c1 c2 c3
  · intro w rest hw hc
    rw [h1, atPort_in hup hp, if_pos hu]
    refine ⟨_, rfl, ?_⟩
    have hc' : u.convTimes (convTx p) = false := by rw [hu']; exact hc
    generalize hT : ((freeValue u.free).toNat : Int) = T
    generalize hv' : ({ v with
      txWait := rest, lastMarked := some w, lastTx := some (u.absCode e)
      upper := if w.proto = false ∧ w.typ = 0x0 then { v.upper with t1 := some ⟨T, v.cgen, true⟩, seq := w.seq } else v.upper
      lower := if w.proto = false ∧ w.typ = 0x1 then v.lower.map fun x => { x with t3 := some ⟨T, v.cgen, true⟩ } else v.lower } : Port) = v'
    have key : s.transmitMark p e adj = ((if w.stamped = true then (u.drawFree.1.setPort p v').emit (.insertion p w.typ T) else u.drawFree.1.setPort p v').stampRecord p true w.proto w.seq w.typ w.express true false (some T) v.cgen).portMark 0x20 p (u.txTime p e adj) false := by
      unfold State.transmitMark
      rw [← hu']
      dsimp +zetaHave only
      rw [hvu, hw]
      dsimp only
      rw [hc']
      simp only [reduceIte, Bool.not_true, Bool.not_false]
      have hT' : (u.drawFree.2 : Int) = T := hT
      have ha : u.drawFree.1.absCode e = u.absCode e := rfl
      rw [hT', ha, hv']
    obtain ⟨⟨f, kk, b1⟩, b2, b3, b4, b5, b6, b7⟩ := fin u.drawFree.1 _ w v' true T rfl rfl rfl rfl rfl rfl (by rw [← hv']) (by rw [← hv']) v.cgen false _ _ key
    refine ⟨by rw [b1, ← hv'], by rw [b1, ← hv'], ?_, ?_, b4, b5, b6, b7⟩
    · intro c1 c2
      rw [b1, ← hv']
      dsimp only
      rw [if_pos ⟨c1, c2⟩]; rfl
    · intro c1 c2 c3
      have := b3 c1 c2 c3
      rw [if_pos rfl] at this
      exact this

theorem memWrite_ports (s : State) (u : MemUse) (a : Nat) (b : List Nat) : (s.memWrite u a b).ports = s.ports := by
  obtain ⟨o, g, h⟩ := s.openGate_form 8
  unfold State.memWrite
  dsimp +zetaHave only
  split <;> rw [h]

theorem flag_first (w : TxWait) (r : StampRec) (hr : w.made r = true) (m : List StampRec) : ∀ l : List StampRec,
    (∀ x ∈ l, w.made x = false) → flagFirst w (l ++ r :: m) = l ++ { r with hi := r.hi + 2 ^ 26 } :: m := by
  intro l
  induction l with
  | nil => intro _; show flagFirst w (r :: m) = _; unfold flagFirst; rw [if_pos hr]; rfl
  | cons a l ih =>
    intro h
    show flagFirst w (a :: (l ++ r :: m)) = _
    unfold flagFirst
    rw [if_neg (by rw [h a (List.mem_cons_self ..)]; decide), ih fun x hx => h x (List.mem_cons_of_mem _ hx)]
    rfl

/-- What the row TX_INS_LATE does (R74). -/
theorem exec_txInsLate :
    (∀ (s : State) (p : Nat) (v : Port), s.up = true → p < s.nPorts → v = s.port p →
      (v.lastMarked = none → exec (.txInsLate p) s = .next (s.count (PF_CNT_LATE p))) ∧
      (∀ w, v.lastMarked = some w → ∃ t, exec (.txInsLate p) s = .next t ∧ (∀ q, q ≠ p → t.port q = s.port q) ∧
        ((∀ a r, v.lastLog = some (a, r) → w.made r = false) → t = { s.count (PF_CNT_LATE p) with ports := t.ports }) ∧
        (∀ a r, v.lastLog = some (a, r) → w.made r = true →
          t = { (s.count (PF_CNT_LATE p)).memWrite .log a (leBytes 8 r.lo ++ leBytes 8 (r.hi + 2 ^ 26)) with ports := t.ports }) ∧
        (w.proto = false → w.typ = 0 → (t.port p).upper.t1 = v.upper.t1.map fun x => { x with bad := true }) ∧
        (w.proto = false → w.typ = 1 → (t.port p).lower = v.lower.map fun x => { x with t3 := x.t3.map fun y => { y with bad := true } }) ∧
        (∀ l r m, v.fifo = l ++ r :: m → w.made r = true → (∀ x ∈ m, w.made x = false) →
          (t.port p).fifo = l ++ { r with hi := r.hi + 2 ^ 26 } :: m))) := by
  intro s p v hup hp hv
  have h1 : exec (.txInsLate p) s = s.atPort p fun s => s.txInsLate p := rfl
  rw [h1, atPort_in hup hp]
  have hvp : s.port p = v := hv.symm
  refine ⟨?_, ?_⟩
  · intro hl
    unfold State.txInsLate
    dsimp +zetaHave only
    rw [hvp, hl]
  · intro w hl
    refine ⟨_, rfl, ?_⟩
    unfold State.txInsLate
    dsimp +zetaHave only
    rw [hvp, hl]
    dsimp only
    generalize hv' : ({ v with
      lastMarked := some w
      fifo := (flagFirst w v.fifo.reverse).reverse
      lastLog := none
      upper := if w.proto = false ∧ w.typ = 0x0 then { v.upper with t1 := v.upper.t1.map fun x => { x with bad := true } } else v.upper
      lower := if w.proto = false ∧ w.typ = 0x1 then
          v.lower.map fun x => { x with t3 := x.t3.map fun y => { y with bad := true } } else v.lower } : Port) = v'
    have fin : ∀ x : State, x.ports = s.ports → (∀ q, q ≠ p → (x.setPort p v').port q = s.port q) ∧
        (w.proto = false → w.typ = 0 → ((x.setPort p v').port p).upper.t1 = v.upper.t1.map fun x => { x with bad := true }) ∧
        (w.proto = false → w.typ = 1 →
          ((x.setPort p v').port p).lower = v.lower.map fun x => { x with t3 := x.t3.map fun y => { y with bad := true } }) ∧
        (∀ l r m, v.fifo = l ++ r :: m → w.made r = true → (∀ x ∈ m, w.made x = false) →
          ((x.setPort p v').port p).fifo = l ++ { r with hi := r.hi + 2 ^ 26 } :: m) := by
      intro x hx
      rw [setPort_same, ← hv']
      refine ⟨fun q hq => (setPort_other _ _ _ _ hq).trans (by unfold State.port; rw [hx]), fun c1 c2 => ?_, fun c1 c2 => ?_, fun l r m hf hr hm => ?_⟩
      · dsimp only; rw [if_pos ⟨c1, c2⟩]
      · dsimp only; rw [if_pos ⟨c1, c2⟩]
      · dsimp only
        rw [hf, List.reverse_append, List.reverse_cons, List.append_assoc, List.singleton_append,
          flag_first w r hr l.reverse m.reverse fun x hx => ?_]
        · simp
        · exact hm x (List.mem_reverse.mp hx)
    cases hlog : v.lastLog with
    | none =>
      obtain ⟨f1, f2, f3, f4⟩ := fin (s.count (PF_CNT_LATE p)) rfl
      exact ⟨f1, fun _ => rfl, (fun a r h => nomatch h), f2, f3, f4⟩
    | some ar =>
      obtain ⟨a, r⟩ := ar
      dsimp only
      by_cases hm : w.made r = true
      · rw [if_pos hm]
        obtain ⟨f1, f2, f3, f4⟩ := fin _ (memWrite_ports (s.count (PF_CNT_LATE p)) .log a (leBytes 8 r.lo ++ leBytes 8 (r.hi + 2 ^ 26)))
        refine ⟨f1, fun h => ?_, fun a' r' h _ => ?_, f2, f3, f4⟩
        · rw [h a r rfl] at hm; cases hm
        · cases h; rfl
      · rw [if_neg hm]
        obtain ⟨f1, f2, f3, f4⟩ := fin (s.count (PF_CNT_LATE p)) rfl
        refine ⟨f1, fun _ => rfl, fun a' r' h hm' => ?_, f2, f3, f4⟩
        cases h; exact absurd hm' hm

theorem port_ctl {s : State} (h : s.Serving) (p v : Nat) (hp : p < s.nPorts) (hv : v < 2 ^ 32) :
    s.writeBy .host (PF_CTL p).off false v = (s.touch .host (PF_CTL p).off).portCtlWrite p v := by
  have ha : alwaysOn (PF_CTL p).off = false := by
    show alwaysOn (0x10000 + p * 0x400 + 0) = false
    unfold alwaysOn; simp; omega
  rw [State.writeBy_serving h _ _ _ _ ha]
  refine portCtl_write _ _ _ _ ?_ hv
  obtain ⟨c, o, b, g, ht, _⟩ := s.touch_form .host (PF_CTL p).off
  rw [ht]; exact hp

theorem ctl_field (v g : Nat) (hg : g < 4) : bitOf (v - field v 10 2 * 1024 + g * 1024 &&& 0xc1f) 0 = bitOf v 0 ∧
    field (v - field v 10 2 * 1024 + g * 1024 &&& 0xc1f) 10 2 = g := by
  unfold bitOf field
  rw [Nat.shiftRight_eq_div_pow, Nat.shiftRight_eq_div_pow]
  have h1 : v / 2 ^ 10 % 2 ^ 2 = v / 1024 % 4 := rfl
  rw [h1]
  have hdec : v - v / 1024 % 4 * 1024 + g * 1024 = v % 1024 + 1024 * (v / 4096 * 4 + g) := by omega
  rw [hdec]
  refine ⟨?_, ?_⟩
  · rw [Nat.testBit_and]
    have : (0xc1f : Nat).testBit 0 = true := by decide
    rw [this, Bool.and_true, Nat.testBit_zero, Nat.testBit_zero]
    congr 1
    apply propext
    constructor <;> intro h <;> omega
  · rw [Nat.and_div_two_pow, Nat.and_mod_two_pow]
    have e : (v % 1024 + 1024 * (v / 4096 * 4 + g)) / 2 ^ 10 % 2 ^ 2 = g := by
      show _ / 1024 % 4 = g
      omega
    rw [e]
    have : ∀ g, g < 4 → g &&& (0xc1f / 2 ^ 10 % 2 ^ 2) = g := by decide
    exact this g hg

theorem and_bit0 (v : Nat) : bitOf (v &&& 0xc1f) 0 = bitOf v 0 := by
  unfold bitOf
  rw [Nat.testBit_and]
  have : (0xc1f : Nat).testBit 0 = true := by decide
  rw [this, Bool.and_true]

theorem bit_even (v : Nat) : bitOf (v / 2 * 2) 0 = false ∧ bitOf (v / 2 * 2 + 1) 0 = true := by
  unfold bitOf
  rw [Nat.testBit_zero, Nat.testBit_zero]
  constructor
  · exact decide_eq_false (by omega)
  · exact decide_eq_true (by omega)

/-- A write of PF_CTL. -/
theorem portCtl_cases (u : State) (p v : Nat) : ∃ w : State, ∃ x, w = u.wr (PF_CTL p) x ∧
    (u.enabled p = false → x = v) ∧ (u.enabled p = true → x = v - field v 10 2 * 1024 + u.fl (PF_CTL p) 10 2 * 1024) ∧
    u.portCtlWrite p v = if u.enabled p = false ∧ bitOf x 0 = true then (if (u.port p).up then (w.openGate 11).comeUp p else w.openGate 11)
      else if u.enabled p = true ∧ bitOf x 0 = false then
        ((w.flushPort p).modPort p fun q => { q with marks := [], txWait := [], kaTick := none }).dropExch p
      else w := by
  unfold State.portCtlWrite
  dsimp +zetaHave only
  generalize hx : (if u.enabled p = true then v - field v 10 2 * 1024 + field (u.rd (PF_CTL p)) 10 2 * 1024 else v) = x
  refine ⟨u.wr (PF_CTL p) x, x, rfl, fun h => ?_, fun h => ?_, ?_⟩
  · rw [← hx, h]; rfl
  · rw [← hx, h]; rfl
  · have : ((u.wr (PF_CTL p) x).openGate 11).port p = u.port p := openGate_port _ _ _
    rw [this]

/-- What the rows PORT_ENABLE, PORT_DISABLE, PORT_CONSTANTS_WRITE do (R75, R76, R90). -/
theorem exec_portEnable_portDisable_portConstantsWrite : ∀ (s : State) (p v : Nat), s.Serving → p < s.nPorts → v < 2 ^ 32 →
    (s.enabled p = true → ∃ t, exec (.portEnable p v) s = .next t ∧ t.enabled p = true ∧
      t.fl (PF_CTL p) 10 2 = s.fl (PF_CTL p) 10 2 ∧ t.ports = s.ports) ∧
    (s.enabled p = false → ∃ t, exec (.portEnable p v) s = .next t ∧ t.enabled p = true ∧
      t.rd (PF_CTL p) = (v / 2 * 2 + 1) &&& 0xc1f ∧ (∀ q, q ≠ p → t.port q = s.port q) ∧ ((s.port p).up = false → t.ports = s.ports) ∧
      ((s.port p).up = true → (t.port p).rpl = {} ∧ (t.port p).upTick = s.clk.ticks ∧ (t.port p).kaTick = none)) ∧
    (s.enabled p = false → ∃ t, exec (.portDisable p v) s = .next t ∧ t.enabled p = false ∧ t.ports = s.ports) ∧
    (s.enabled p = true → ∃ t, exec (.portDisable p v) s = .next t ∧ t.enabled p = false ∧ (t.port p).xq = [] ∧ (t.port p).cq = [] ∧
      (t.port p).tq = [] ∧ (t.port p).marks = [] ∧ (t.port p).txWait = [] ∧ (t.port p).lower = none ∧ (∀ q, q ≠ p → t.port q = s.port q)) ∧
    (∀ which r, (which, r) ∈ [(0, PF_TX_LAT p), (1, PF_RX_LAT p), (2, PF_FIB_CORR p)] →
      ∃ t, exec (.portConstantsWrite p which v) s = .next t ∧ t.rd r = v ∧ (∀ q : Reg, q.off ≠ r.off → t.rd q = s.rd q) ∧
      t.port p = { s.port p with constPend := true } ∧ (∀ q, q ≠ p → t.port q = s.port q)) := by
  intro s p v hs hp hv
  have k1 : exec (.portEnable p v) s = .next (s.writeBy .host (PF_CTL p).off false (v / 2 * 2 + 1)) := rfl
  have k2 : exec (.portDisable p v) s = .next (s.writeBy .host (PF_CTL p).off false (v / 2 * 2)) := rfl
  rw [k1, k2, port_ctl hs p _ hp (by omega), port_ctl hs p _ hp (by omega)]
  have ht := touch_more s .host (PF_CTL p).off
  have hte : (s.touch .host (PF_CTL p).off).enabled p = s.enabled p := by unfold State.enabled State.bit; rw [ht.1]
  have htf : (s.touch .host (PF_CTL p).off).fl (PF_CTL p) 10 2 = s.fl (PF_CTL p) 10 2 := by unfold State.fl; rw [ht.1]
  have htp : (s.touch .host (PF_CTL p).off).ports = s.ports := ht.2.2.2.2.2.2.2.2.1
  have htc : (s.touch .host (PF_CTL p).off).clk = s.clk := ht.2.2.2.1
  have hfl : s.fl (PF_CTL p) 10 2 < 4 := by unfold State.fl field; exact Nat.mod_lt _ (by decide)
  generalize s.touch .host (PF_CTL p).off = u at hte htf htp htc
  have hpu : u.port p = s.port p := port_ports htp p
  have hm : (PF_CTL p).mask = 0xc1f := rfl
  have hen : ∀ (w : State) x, w.rd (PF_CTL p) = x &&& 0xc1f → w.enabled p = bitOf x 0 := by
    intro w x h; unfold State.enabled State.bit; rw [h, and_bit0]
  have hwr : ∀ x, (u.wr (PF_CTL p) x).rd (PF_CTL p) = x &&& 0xc1f := fun x => State.rd_wr u (PF_CTL p) x (by rw [hm]; decide)
  have hwp : ∀ x, (u.wr (PF_CTL p) x).ports = s.ports := fun x => htp
  have hwc : ∀ x, (u.wr (PF_CTL p) x).clk = s.clk := fun x => htc
  refine ⟨?_, ?_, ?_, ?_, ?_⟩
  · intro he
    obtain ⟨w, x, e1, e2, e3, e4⟩ := portCtl_cases u p (v / 2 * 2 + 1)
    rw [e4]
    have hx := e3 (hte.trans he)
    rw [htf] at hx
    have hc := ctl_field (v / 2 * 2 + 1) _ hfl
    rw [← hx] at hc
    have hb : bitOf x 0 = true := by rw [← and_bit0, hc.1]; exact (bit_even v).2
    rw [if_neg (by rw [hte, he]; rintro ⟨a, _⟩; exact absurd a (by decide)), if_neg (by rw [hb]; rintro ⟨_, a⟩; exact absurd a (by decide))]
    refine ⟨w, rfl, ?_, ?_, ?_⟩
    · rw [hen w x (by rw [e1, hwr])]; exact hb
    · unfold State.fl; rw [e1, hwr]; exact hc.2
    · rw [e1]; exact hwp x
  · intro he
    obtain ⟨w, x, e1, e2, e3, e4⟩ := portCtl_cases u p (v / 2 * 2 + 1)
    rw [e4]
    have hx := e2 (hte.trans he)
    have hb : bitOf x 0 = true := by rw [hx]; exact (bit_even v).2
    rw [if_pos ⟨hte.trans he, hb⟩, hpu]
    have wr : w.rd (PF_CTL p) = (v / 2 * 2 + 1) &&& 0xc1f := by rw [e1, hwr, hx]
    have wp : w.ports = s.ports := by rw [e1]; exact hwp x
    have wc : w.clk = s.clk := by rw [e1]; exact hwc x
    obtain ⟨o, g, hg⟩ := w.openGate_form 11
    have g1 : (w.openGate 11).rd (PF_CTL p) = (v / 2 * 2 + 1) &&& 0xc1f := (openGate_rd w 11 _).trans wr
    have g2 : (w.openGate 11).ports = s.ports := by rw [hg]; exact wp
    have g3 : (w.openGate 11).clk = s.clk := by rw [hg]; exact wc
    generalize w.openGate 11 = y at g1 g2 g3
    by_cases hup : (s.port p).up = true
    · rw [if_pos hup]
      obtain ⟨c1, c2⟩ := comeUp_port y p
      have cw := State.comeUp_wire y p
      have cr : (y.comeUp p).rd (PF_CTL p) = (v / 2 * 2 + 1) &&& 0xc1f := by
        simp only [State.wire, Prod.mk.injEq] at cw
        rw [← g1]; unfold State.rd; rw [cw.2.1]
      refine ⟨_, rfl, ?_, cr, fun q hq => ?_, fun h => absurd (hup.symm.trans h) (by decide), fun _ => ?_⟩
      · rw [hen _ _ cr]; exact (bit_even v).2
      · rw [c2 q hq]; exact port_ports g2 q
      · rw [c1]; exact ⟨rfl, by rw [← g3], rfl⟩
    · rw [if_neg hup]
      refine ⟨y, rfl, ?_, g1, fun q _ => port_ports g2 q, fun _ => g2, fun h => absurd h hup⟩
      rw [hen _ _ g1]; exact (bit_even v).2
  · intro he
    obtain ⟨w, x, e1, e2, e3, e4⟩ := portCtl_cases u p (v / 2 * 2)
    rw [e4]
    have hx := e2 (hte.trans he)
    have hb : bitOf x 0 = false := by rw [hx]; exact (bit_even v).1
    rw [if_neg (by rw [hb]; rintro ⟨_, a⟩; exact absurd a (by decide)), if_neg (by rw [hte, he]; rintro ⟨a, _⟩; exact absurd a (by decide))]
    refine ⟨w, rfl, ?_, by rw [e1]; exact hwp x⟩
    rw [hen w x (by rw [e1, hwr])]; exact hb
  · intro he
    obtain ⟨w, x, e1, e2, e3, e4⟩ := portCtl_cases u p (v / 2 * 2)
    rw [e4]
    have hx := e3 (hte.trans he)
    rw [htf] at hx
    have hc := ctl_field (v / 2 * 2) _ hfl
    rw [← hx] at hc
    have hb : bitOf x 0 = false := by rw [← and_bit0, hc.1]; exact (bit_even v).1
    rw [if_neg (by rw [hb]; rintro ⟨_, a⟩; exact absurd a (by decide)), if_pos ⟨hte.trans he, hb⟩]
    obtain ⟨f1, f2⟩ := flush_port w p
    have fw := State.flushPort_wire w p
    generalize w.flushPort p = a at f1 f2 fw
    generalize hb2 : (a.modPort p fun q => { q with marks := [], txWait := [], kaTick := none }) = b
    have b1 : b.port p = { a.port p with marks := [], txWait := [], kaTick := none } := by rw [← hb2, modPort_same]
    have b2 : ∀ q, q ≠ p → b.port q = a.port q := fun q hq => by rw [← hb2, modPort_other _ _ _ _ hq]
    have b3 : b.wire = w.wire := by rw [← hb2]; exact fw
    obtain ⟨d1, d2⟩ := dropExch_port b p
    have dw := (State.dropExch_wire b p).trans b3
    rw [b1, f1] at d1
    refine ⟨_, rfl, ?_, by rw [d1], by rw [d1], by rw [d1], by rw [d1], by rw [d1], by rw [d1], fun q hq => ?_⟩
    · rw [hen _ x ?_]
      · exact hb
      · simp only [State.wire, Prod.mk.injEq] at dw
        rw [← hwr x, ← e1]; unfold State.rd; rw [dw.2.1]
    · rw [d2 q hq, b2 q hq, f2 q hq]; exact port_ports (by rw [e1]; exact hwp x) q
  · intro which r hr
    have key : ∀ sub, (sub = 8 ∨ sub = 0xC ∨ sub = 0x10) → portReg p sub = some r → r.off = 0x10000 + p * 0x400 + sub → r.bytes = 4 → r.mask = 0xffffffff →
        ∃ t, (.next (s.writeBy .host r.off false v) : Result) = .next t ∧ t.rd r = v ∧ (∀ q : Reg, q.off ≠ r.off → t.rd q = s.rd q) ∧
        t.port p = { s.port p with constPend := true } ∧ (∀ q, q ≠ p → t.port q = s.port q) := by
      intro sub h1 h2 h3 h4 h5
      have ha : alwaysOn r.off = false := by
        rw [h3]; unfold alwaysOn; simp; omega
      have hp' : p < (s.touch .host r.off).nPorts := by
        obtain ⟨c, o, b, g, ht, _⟩ := s.touch_form .host r.off
        rw [ht]; exact hp
      rw [State.writeBy_serving hs _ _ _ _ ha, portConst_write _ _ p sub v hp' hv r h2 h1 h3 h4]
      obtain ⟨m1, _, _, _, _, _, _, _, m9, _⟩ := touch_more s .host r.off
      generalize s.touch .host r.off = w at m1 m9
      refine ⟨_, rfl, ?_, ?_, ?_, ?_⟩
      · show (w.wr r v).rd r = v
        rw [State.rd_wr _ _ _ (by rw [h5]; decide), h5]
        exact (Nat.and_two_pow_sub_one_eq_mod v 32).trans (Nat.mod_eq_of_lt hv)
      · intro q hq
        show (w.wr r v).rd q = s.rd q
        rw [State.rd_wr_other _ _ _ _ hq, m1]
      · show State.port (State.modPort (w.wr r v) p _) p = _
        rw [modPort_same]
        have : (w.wr r v).port p = s.port p := port_ports (s := s) (t := w.wr r v) m9 p
        rw [this]
      · intro q hq
        show State.port (State.modPort (w.wr r v) p _) q = _
        rw [modPort_other _ _ _ _ hq]
        exact port_ports (s := s) (t := w.wr r v) m9 q
    have hc : ∀ which, exec (.portConstantsWrite p which v) s = .next (s.writeBy .host (match which with
        | 0 => (PF_TX_LAT p).off | 1 => (PF_RX_LAT p).off | _ => (PF_FIB_CORR p).off) false v) := fun _ => rfl
    rw [hc]
    simp only [List.mem_cons, List.not_mem_nil, or_false, Prod.mk.injEq] at hr
    rcases hr with ⟨rfl, rfl⟩ | ⟨rfl, rfl⟩ | ⟨rfl, rfl⟩
    · exact key 8 (.inl rfl) rfl rfl rfl rfl
    · exact key 0xC (.inr (.inl rfl)) rfl rfl rfl rfl
    · exact key 0x10 (.inr (.inr rfl)) rfl rfl rfl rfl

/-- What the rows PORT_UP_RISE, PORT_UP_FALL, LANE_FLAP, RCLK_OK_FALL do (R81, R86, R90, R322). -/
theorem exec_portUpRise_portUpFall_laneFlap_more :
    (∀ (s : State) (p : Nat) (v : Port), s.up = true → p < s.nPorts → v = s.port p →
      (v.up = true → exec (.portUpRise p) s = .next s) ∧
      (v.up = false → s.enabled p = false → exec (.portUpRise p) s = .next (s.modPort p fun v => { v with up := true })) ∧
      (v.up = false → s.enabled p = true → ∃ t, exec (.portUpRise p) s = .next t ∧ t.wire = s.wire ∧ (∀ q, q ≠ p → t.port q = s.port q) ∧
        (t.port p).up = true ∧ (t.port p).upTick = s.clk.ticks ∧ (t.port p).kaTick = none ∧ (t.port p).rpl = {} ∧
        (t.port p).lossDecl = false ∧ (t.port p).fibDone = false ∧ (t.port p).lower = none ∧ (t.port p).upper = {} ∧
        (s.underlay = false → v.health ≠ .retired → v.xq.length < 64 → v.xWait = [] →
          (t.port p).xq = v.xq ++ [{ body := .hello (s.helloBody p) }])) ∧
      (v.up = false → exec (.portUpFall p) s = .next s) ∧
      (v.up = true → ∃ t, exec (.portUpFall p) s = .next t ∧ (t.port p).up = false ∧ (t.port p).marks = [] ∧ (t.port p).txWait = [] ∧
        (t.port p).xq = [] ∧ (t.port p).cq = [] ∧ (t.port p).tq = [] ∧ (t.port p).rpl.entries = [] ∧ (t.port p).lower = none ∧
        (t.port p).upper = {} ∧ (t.port p).score = (if v.scores then min 255 (v.score + s.fl HF_WEIGHT 16 8) else v.score) ∧
        (∀ n, t.candOf p = some n → (t.cand n).loss = true) ∧ (∀ q, q ≠ p → t.port q = s.port q) ∧ t.td = s.td ∧ t.regs = s.regs ∧ t.im = s.im) ∧
      (∃ t, exec (.laneFlap p) s = .next t ∧ t.wire = s.wire ∧ (∀ q, q ≠ p → t.port q = s.port q) ∧
        (∀ o, t.counter o = if o = PF_CNT_FLAP p then (s.counter o + 1) % 2 ^ 32 else s.counter o) ∧
        (v.scores = false → t.port p = v) ∧
        (v.scores = true → (t.port p).score = min 255 (v.score + s.fl HF_WEIGHT 16 8) ∧
          (t.port p).cand = if v.cand = 0 ∧ s.retireThr ≤ min 255 (v.score + s.fl HF_WEIGHT 16 8) ∧ v.health = .live then 1 else v.cand)) ∧
      (v.rclkOk = false → exec (.rclkOkFall p) s = .next s) ∧
      (v.rclkOk = true → ∃ t, exec (.rclkOkFall p) s = .next t ∧ t.port p = { v with rclkOk := false } ∧
        (∀ q, q ≠ p → t.port q = s.port q) ∧ (∀ n, t.candOf p = some n → (t.cand n).loss = true) ∧
        (∀ o, t.counter o = if o = PF_CNT_RCLK p then (s.counter o + 1) % 2 ^ 32 else s.counter o) ∧
        t = { s with ports := t.ports, cnt := t.cnt, rs := t.rs })) := by
  intro s p v hup hp hv
  have hvp : s.port p = v := hv.symm
  have x1 : exec (.portUpRise p) s = s.atPort p fun s => if (s.port p).up = true then s else
    (let s := s.modPort p fun v => { v with up := true }
     if s.enabled p then (s.comeUp p).sendHello p else s) := rfl
  have x2 : exec (.portUpFall p) s = s.atPort p fun s => if (s.port p).up = false then s else
    State.withdrawClock (State.dropExch (State.modPort (State.scoreFlap (s.flushPort p) p) p fun v => { v with up := false, marks := [], txWait := [] }) p) p := rfl
  have x3 : exec (.laneFlap p) s = s.atPort p fun s => (s.count (PF_CNT_FLAP p)).scoreFlap p := rfl
  have x4 : exec (.rclkOkFall p) s = s.atPort p fun s => if (s.port p).rclkOk = true then
    ((s.modPort p fun v => { v with rclkOk := false }).count (PF_CNT_RCLK p)).withdrawClock p else s := rfl
  refine ⟨?_, ?_, ?_, ?_, ?_, ?_, ?_, ?_⟩
  · intro h; rw [x1, atPort_in hup hp, hvp, if_pos h]
  · intro h h2; rw [x1, atPort_in hup hp, hvp, if_neg (by rw [h]; decide)]
    dsimp +zetaHave only
    rw [if_neg]
    show ¬ s.enabled p = true
    rw [h2]; decide
  · intro h h2; rw [x1, atPort_in hup hp, hvp, if_neg (by rw [h]; decide)]
    dsimp +zetaHave only
    rw [if_pos (show State.enabled (s.modPort p fun v => { v with up := true }) p = true from h2)]
    refine ⟨_, rfl, ?_⟩
    generalize hw : (s.modPort p fun v => { v with up := true }) = w
    have w1 : w.port p = { v with up := true } := by rw [← hw, modPort_same, hvp]
    have w2 : ∀ q, q ≠ p → w.port q = s.port q := fun q hq => by rw [← hw, modPort_other _ _ _ _ hq]
    have w3 : w.wire = s.wire := by rw [← hw]; rfl
    have w4 : w.regs = s.regs ∧ w.hf = s.hf ∧ w.ties = s.ties ∧ w.home = s.home ∧ w.clk = s.clk := by rw [← hw]; exact ⟨rfl, rfl, rfl, rfl, rfl⟩
    obtain ⟨c1, c2⟩ := comeUp_port w p
    have cw : (w.comeUp p).wire = s.wire := by rw [State.comeUp_wire, w3]
    rw [w1] at c1
    generalize w.comeUp p = x at c1 c2 cw
    have cw' := cw
    obtain ⟨_, c3, _, _, _, _, _, c6, _, c5, c4, _⟩ := wire_parts cw'
    have hb : x.helloBody p = s.helloBody p := by
      unfold State.helloBody State.portNum State.isRidge
      rw [c5, c6, c1, hvp]
    unfold State.sendHello
    rw [hb]
    obtain ⟨⟨a, b, c, d, f, e1⟩, e2⟩ := xsend_ports x p (.hello (s.helloBody p))
    refine ⟨(State.xsend_wire _ _ _).trans cw, fun q hq => by rw [e2 q hq, c2 q hq, w2 q hq], ?_⟩
    refine ⟨by rw [e1, c1], by rw [e1, c1, w4.2.2.2.2], by rw [e1, c1], by rw [e1, c1], by rw [e1, c1], by rw [e1, c1], by rw [e1, c1], by rw [e1, c1], ?_⟩
    intro g1 g2 g3 g4
    have hm : x.maySend p (.hello (s.helloBody p)) = true := by
      have u1 : x.isUp p = true := by
        unfold State.isUp State.enabled State.bit State.rd
        rw [c1, c3]
        have : s.enabled p = true := h2
        unfold State.enabled State.bit State.rd at this
        rw [this]; rfl
      have u2 : x.underlay = false := by unfold State.underlay; rw [c4]; exact g1
      unfold State.maySend
      rw [u1, u2, c1]
      dsimp +zetaHave only
      cases hh : v.health <;> first | rfl | exact absurd hh g2
    have e3 := (xsend_express x p _ hm (.inr (.inl rfl)) rfl (by rw [c1]; exact g3) (by rw [c1]; exact g4)).1
    rw [e3, c1]
  · intro h; rw [x2, atPort_in hup hp, hvp, if_pos h]
  · intro h; rw [x2, atPort_in hup hp, hvp, if_neg (by rw [h]; decide)]
    refine ⟨_, rfl, ?_⟩
    obtain ⟨f1, f2⟩ := flush_port s p
    have fw := State.flushPort_wire s p
    rw [hvp] at f1
    generalize s.flushPort p = x at f1 f2 fw
    obtain ⟨s1, s2, s3, s4⟩ := score_port x p (x.fl HF_WEIGHT 16 8)
    have sw : (x.scoreFlap p).wire = s.wire := (State.scoreFlap_wire _ _).trans fw
    have hreg : x.fl HF_WEIGHT 16 8 = s.fl HF_WEIGHT 16 8 := by
      simp only [State.wire, Prod.mk.injEq] at fw
      unfold State.fl State.rd; rw [fw.2.1]
    have hsf : x.scoreFlap p = x.scoreEvent p (x.fl HF_WEIGHT 16 8) := rfl
    rw [hsf] at sw ⊢
    have hsc : (x.port p).scores = v.scores := by rw [f1]; rfl
    have sp : ∃ cd at_, (x.scoreEvent p (x.fl HF_WEIGHT 16 8)).port p = { x.port p with
        score := if v.scores then min 255 (v.score + s.fl HF_WEIGHT 16 8) else v.score, cand := cd, admitAt := at_ } := by
      rw [hreg] at s3 s4 ⊢
      cases hs : v.scores with
      | true =>
        rw [s4 (hsc.trans hs)]
        exact ⟨_, _, by rw [if_pos rfl, f1]⟩
      | false =>
        rw [s3 (hsc.trans hs)]
        exact ⟨(x.port p).cand, (x.port p).admitAt, by rw [if_neg (by decide), f1]⟩
    obtain ⟨cd, at_, sp⟩ := sp
    rw [f1] at sp
    generalize x.scoreEvent p (x.fl HF_WEIGHT 16 8) = y at s2 sp sw
    generalize hz : (y.modPort p fun v => { v with up := false, marks := [], txWait := [] }) = z
    have z1 : z.port p = { y.port p with up := false, marks := [], txWait := [] } := by rw [← hz, modPort_same]
    have z2 : ∀ q, q ≠ p → z.port q = s.port q := fun q hq => by rw [← hz, modPort_other _ _ _ _ hq, s2 q hq, f2 q hq]
    have z3 : z.wire = s.wire := by rw [← hz]; exact sw
    obtain ⟨d1, d2⟩ := dropExch_port z p
    have dw : (z.dropExch p).wire = s.wire := (State.dropExch_wire _ _).trans z3
    rw [z1, sp] at d1
    generalize z.dropExch p = d at d1 d2 dw
    obtain ⟨l1, l2⟩ := withdraw_loss d p
    have lp : ∀ q, (d.withdrawClock p).port q = d.port q := by intro q; rw [l2]; rfl
    simp only [State.wire, Prod.mk.injEq] at dw
    refine ⟨by rw [lp, d1], by rw [lp, d1], by rw [lp, d1], by rw [lp, d1], by rw [lp, d1], by rw [lp, d1], by rw [lp, d1], by rw [lp, d1], by rw [lp, d1],
      by rw [lp, d1], l1, fun q hq => by rw [lp, d2 q hq, z2 q hq], ?_, ?_, ?_⟩
    · rw [l2]; exact dw.1
    · rw [l2]; exact dw.2.1
    · rw [l2]; exact dw.2.2.2.1
  · rw [x3, atPort_in hup hp]
    refine ⟨_, rfl, ?_⟩
    have hreg : (s.count (PF_CNT_FLAP p)).fl HF_WEIGHT 16 8 = s.fl HF_WEIGHT 16 8 := rfl
    obtain ⟨s1, s2, s3, s4⟩ := score_port (s.count (PF_CNT_FLAP p)) p (s.fl HF_WEIGHT 16 8)
    have hsf : (s.count (PF_CNT_FLAP p)).scoreFlap p = (s.count (PF_CNT_FLAP p)).scoreEvent p (s.fl HF_WEIGHT 16 8) := rfl
    rw [hsf]
    have hpc : (s.count (PF_CNT_FLAP p)).port p = v := hv.symm
    rw [hpc] at s3 s4
    refine ⟨(State.scoreEvent_wire _ _ _).trans (State.count_wire _ _ _), fun q hq => s2 q hq, ?_, fun h => s3 h, ?_⟩
    · intro o; rw [counter_cnt s1, counter_one]
    · intro h; rw [s4 h]; exact ⟨rfl, rfl⟩
  · intro h; rw [x4, atPort_in hup hp, hvp, if_neg (by rw [h]; decide)]
  · intro h; rw [x4, atPort_in hup hp, hvp, if_pos h]
    refine ⟨_, rfl, ?_⟩
    generalize hw : (s.modPort p fun v => { v with rclkOk := false }).count (PF_CNT_RCLK p) = w
    obtain ⟨l1, l2⟩ := withdraw_loss w p
    have lp : ∀ q, (w.withdrawClock p).port q = w.port q := by intro q; rw [l2]; rfl
    refine ⟨?_, ?_, l1, ?_, ?_⟩
    · rw [lp, ← hw, count_port, modPort_same, hvp]
    · intro q hq; rw [lp, ← hw, count_port, modPort_other _ _ _ _ hq]
    · intro o; rw [counter_cnt (s := w) (by rw [l2]), ← hw, counter_one]; rfl
    · rw [l2, ← hw]; rfl

/-- A counted fault of a port with its score. -/
theorem fault_step (y : State) (p k n w sc : Nat) :
    (∀ q, q ≠ p → (((y.count k n).evt w).scoreEvent p sc).port q = y.port q) ∧
    (∀ o, (((y.count k n).evt w).scoreEvent p sc).counter o = if o = k then (y.counter o + n) % 2 ^ 32 else y.counter o) ∧
    (∃ cd ad, (((y.count k n).evt w).scoreEvent p sc).port p = { y.port p with
      score := if (y.port p).scores then min 255 ((y.port p).score + sc) else (y.port p).score, cand := cd, admitAt := ad }) ∧
    (((y.count k n).evt w).scoreEvent p sc).wire = y.wire := by
  generalize hz : (y.count k n).evt w = z
  have zp : ∀ q, z.port q = y.port q := by intro q; rw [← hz]; rfl
  have zc : z.cnt = (y.count k n).cnt := by rw [← hz]; rfl
  have zw : z.wire = y.wire := by rw [← hz]; exact (State.evt_wire _ _ _).trans (State.count_wire _ _ _)
  obtain ⟨s1, s2, s3, s4⟩ := score_port z p sc
  refine ⟨fun q hq => (s2 q hq).trans (zp q), fun o => ?_, ?_, (State.scoreEvent_wire _ _ _).trans zw⟩
  · rw [counter_cnt s1, counter_cnt zc, count_at]
  · rw [zp] at s3 s4
    cases hs : (y.port p).scores with
    | true => rw [s4 hs]; exact ⟨_, _, by rw [if_pos rfl]⟩
    | false => rw [s3 hs]; exact ⟨(y.port p).cand, (y.port p).admitAt, by rw [if_neg (by decide)]⟩

/-- The reception of a spoilt frame, before its faults count. -/
theorem spoilt_keep (s : State) (h : RxBase) (st : Stamp) (hst : st = ((s.atCyc h.cyc).claimMark h.port h.mark).2) :
    (s.rxSpoilt h).wire = s.wire ∧ (∀ q, q ≠ h.port → (s.rxSpoilt h).port q = s.port q) ∧
    (s.rxSpoilt h).counter (PF_CNT_RX h.port) = (s.counter (PF_CNT_RX h.port) + 1) % 2 ^ 32 ∧
    (∃ m f k, (s.rxSpoilt h).port h.port = { s.port h.port with marks := m, fifo := f, lastLog := k }) ∧
    (s.bit (PF_CTL h.port) 1 = false → (s.port h.port).fifo.length < 16 → ∃ seq typ fl, ((s.rxSpoilt h).port h.port).fifo =
      (s.port h.port).fifo ++ [mkRec (s.portNum h.port) (if st.bad then none else some st.t) seq typ fl st.cgen]) := by
  unfold State.rxSpoilt
  dsimp +zetaHave only
  generalize ha : (if (((s.atCyc h.cyc).count (PF_CNT_RX h.port)).evt 11).isRidge = true then
    (((s.atCyc h.cyc).count (PF_CNT_RX h.port)).evt 11).evt (32 + h.port / 16) else ((s.atCyc h.cyc).count (PF_CNT_RX h.port)).evt 11) = a
  have a0 : a = { s.atCyc h.cyc with cnt := ((s.atCyc h.cyc).count (PF_CNT_RX h.port)).cnt, out := a.out } := by
    rw [← ha]; split <;> rfl
  have a1 : a.wire = s.wire := by
    have e : (((s.atCyc h.cyc).count (PF_CNT_RX h.port)).evt 11).wire = s.wire :=
      (State.evt_wire _ _ _).trans ((State.count_wire _ _ _).trans (State.atCyc_wire _ _))
    rw [← ha]; split
    · exact (State.evt_wire _ _ _).trans e
    · exact e
  have a2 : ∀ q, a.port q = s.port q := by intro q; rw [a0]; rfl
  have a3 : ∀ o, a.counter o = if o = PF_CNT_RX h.port then (s.counter o + 1) % 2 ^ 32 else s.counter o := by
    intro o; rw [counter_cnt (s := (s.atCyc h.cyc).count (PF_CNT_RX h.port)) (by rw [a0]), counter_one]; rfl
  have hcl : (a.claimMark h.port h.mark).2 = st := by
    rw [hst]
    unfold State.claimMark
    dsimp +zetaHave only
    rw [a2, show (s.atCyc h.cyc).port h.port = s.port h.port from rfl]
    split
    · rfl
    · split <;> rfl
  obtain ⟨⟨mk, c1⟩, c2, c3⟩ := claim_port a h.port h.mark
  have cw := (State.claimMark_wire a h.port h.mark).trans a1
  rw [a2] at c1
  rw [hcl]
  generalize (a.claimMark h.port h.mark).1 = b at c1 c2 c3 cw
  generalize hr : b.drawFree.2 = r
  have d1 : b.drawFree.1.wire = s.wire := cw
  have d2 : ∀ q, b.drawFree.1.port q = b.port q := fun _ => rfl
  have d3 : ∀ o, b.drawFree.1.counter o = a.counter o := by intro o; show b.counter o = _; rw [c3]; rfl
  generalize b.drawFree.1 = d at d1 d2 d3
  obtain ⟨⟨f, k, s1⟩, s2, s3, s4⟩ := stamp_ports d h.port false (bitOf r 24) (r % 65536) (r / 65536 % 256) (bitOf r 25) st.bad false (some st.t) st.cgen
  have hn := (wire_parts d1)
  refine ⟨(State.stampRecord_wire _ _ _ _ _ _ _ _ _ _ _).trans d1, fun q hq => ?_, ?_, ⟨mk, f, k, ?_⟩, ?_⟩
  · rw [s2 q hq, d2, c2 q hq, a2]
  · rw [stamp_counter _ _ _ _ _ _ _ _ _ _ _ _ (by unfold PF_CNT_RX PF_LOG_DROP; omega) (by unfold PF_CNT_RX PF_CNT_MISS; omega)
      (by unfold PF_CNT_RX PF_CNT_FIFO_OVF; omega), d3, a3, if_pos rfl]
  · rw [s1, d2, c1]
  · intro e1 e2
    have hb : d.bit (PF_CTL h.port) 1 = false := by unfold State.bit State.rd; rw [hn.2.1]; exact e1
    have hp : d.portNum h.port = s.portNum h.port := by unfold State.portNum; rw [hn.2.2.2.2.2.2.2.2.2.1]
    have := s4 hb (by rw [d2, c1]; exact e2) (by omega)
    rw [d2, c1, hp] at this
    exact ⟨_, _, _, this⟩

/-- What the row RXF_FCS_ERR does (R84, R87, R92). -/
theorem exec_rxfFcsErr :
    (∀ (s u : State) (h : RxBase) (bad : RxBad) (v : Port) (st : Stamp) (s1 : Nat), s.up = true → h.port < s.nPorts → u = s.rxSpoilt h →
      st = ((s.atCyc h.cyc).claimMark h.port h.mark).2 → v = u.port h.port →
      s1 = (if bad.words = 0 then v.score else min 255 (v.score + bad.words * s.fl HF_WEIGHT 0 8)) →
      (s.isUp h.port = false → exec (.rxfFcsErr h bad) s = .next s) ∧
      (s.isUp h.port = true → (s.port h.port).health = .retired → exec (.rxfFcsErr h bad) s = .next u) ∧
      (u.wire = s.wire ∧ (∀ q, q ≠ h.port → u.port q = s.port q) ∧ u.counter (PF_CNT_RX h.port) = (s.counter (PF_CNT_RX h.port) + 1) % 2 ^ 32 ∧
        (s.bit (PF_CTL h.port) 1 = false → (s.port h.port).fifo.length < 16 → ∃ seq typ fl, v.fifo = (s.port h.port).fifo ++
          [mkRec (s.portNum h.port) (if st.bad then none else some st.t) seq typ fl st.cgen])) ∧
      (s.isUp h.port = true → (s.port h.port).health ≠ .retired → ∃ t, exec (.rxfFcsErr h bad) s = .next t ∧ t.wire = s.wire ∧
        (∀ q, q ≠ h.port → t.port q = s.port q) ∧ (t.port h.port).rpl.gap = true ∧
        (v.rpl.gap = true → ∀ o, t.counter o = if o = PF_CNT_PAR h.port then (u.counter o + bad.words) % 2 ^ 32
          else if o = PF_CNT_FCS h.port then (u.counter o + bnat bad.fcs) % 2 ^ 32 else u.counter o) ∧
        (t.port h.port).score = (if v.scores = false then v.score else if bad.fcs then min 255 (s1 + s.fl HF_WEIGHT 8 8) else s1) ∧
        (v.rpl.gap = false → s.underlay = false → v.mismatch = false → v.xq.length < 64 → v.xWait = [] →
          (t.port h.port).rpl.nakSent = true ∧ (t.port h.port).xq = v.xq ++ [{ body := .nak v.rpl.expect }]))) := by
  intro s u h bad v st s1 hup hp hu hst hv hs1
  have k : exec (.rxfFcsErr h bad) s = s.atPort h.port fun s => if s.isUp h.port = false then s
    else if ((s.rxSpoilt h).port h.port).health = .retired then s.rxSpoilt h else (s.rxSpoilt h).rxCorrupt h.port bad := rfl
  obtain ⟨cw, uq, urx, ⟨mk, ff, fk, up⟩, urec⟩ := spoilt_keep s h st hst
  rw [k, atPort_in hup hp, ← hu]
  rw [← hu] at cw uq urx up urec
  rw [← hv] at up urec ⊢
  have uh : v.health = (s.port h.port).health := by rw [up]
  have ucnt : ∀ o, u.counter o < 2 ^ 32 := fun o => by unfold State.counter; exact BitVec.isLt _
  refine ⟨fun h1 => by rw [if_pos h1], fun h1 h2 => by rw [if_neg (by rw [h1]; decide), if_pos (uh.trans h2)], ⟨cw, uq, urx, urec⟩, ?_⟩
  intro h1 h2
  rw [if_neg (by rw [h1]; decide), if_neg (by rw [uh]; exact h2)]
  refine ⟨_, rfl, (State.rxCorrupt_wire _ _ _).trans cw, ?_⟩
  have ur : ∀ (y : State), y.wire = u.wire → ∀ a b, y.fl HF_WEIGHT a b = s.fl HF_WEIGHT a b := by
    intro y hy a b; unfold State.fl State.rd; rw [(wire_parts (hy.trans cw)).2.1]
  have hx : ∃ x : State, u.rxCorrupt h.port bad = x.openGap h.port false ∧ (∀ q, q ≠ h.port → x.port q = u.port q) ∧
      (∀ o, x.counter o = if o = PF_CNT_PAR h.port then (u.counter o + bad.words) % 2 ^ 32
          else if o = PF_CNT_FCS h.port then (u.counter o + bnat bad.fcs) % 2 ^ 32 else u.counter o) ∧
      (∃ cd ad, x.port h.port = { v with
        score := (if v.scores = false then v.score else if bad.fcs then min 255 (s1 + s.fl HF_WEIGHT 8 8) else s1), cand := cd, admitAt := ad }) ∧
      x.wire = u.wire := by
    -- the words that fail parity
    have first : ∃ y : State, y = (if bad.words = 0 then u else ((u.count (PF_CNT_PAR h.port) bad.words).evt 14).scorePar h.port bad.words) ∧
        (∀ q, q ≠ h.port → y.port q = u.port q) ∧
        (∀ o, y.counter o = if o = PF_CNT_PAR h.port then (u.counter o + bad.words) % 2 ^ 32 else u.counter o) ∧
        (∃ cd ad, y.port h.port = { v with score := if v.scores then s1 else v.score, cand := cd, admitAt := ad }) ∧ y.wire = u.wire := by
      by_cases hw : bad.words = 0
      · refine ⟨u, (if_pos hw).symm, fun _ _ => rfl, fun o => ?_, ⟨v.cand, v.admitAt, ?_⟩, rfl⟩
        · rw [hw, Nat.add_zero, Nat.mod_eq_of_lt (ucnt o), ite_self]
        · rw [← hv, hs1, if_pos hw, ite_self]
      · refine ⟨_, rfl, ?_⟩
        rw [if_neg hw]
        unfold State.scorePar
        rw [ur _ ((State.evt_wire _ _ _).trans (State.count_wire _ _ _))]
        obtain ⟨f1, f2, ⟨cd, ad, f3⟩, f4⟩ := fault_step u h.port (PF_CNT_PAR h.port) bad.words 14 (bad.words * s.fl HF_WEIGHT 0 8)
        refine ⟨f1, f2, ⟨cd, ad, ?_⟩, f4⟩
        rw [f3, ← hv, hs1, if_neg hw]
    obtain ⟨y, y0, y1, y2, ⟨cd, ad, y3⟩, y4⟩ := first
    have ysc : (y.port h.port).scores = v.scores := by rw [y3]; rfl
    unfold State.rxCorrupt
    dsimp +zetaHave only
    rw [← y0]
    cases hf : bad.fcs with
    | false =>
      refine ⟨y, by rw [if_neg (by decide)], y1, fun o => ?_, ⟨cd, ad, ?_⟩, y4⟩
      · rw [y2]
        split
        · rfl
        · show _ = if _ then (u.counter o + 0) % 2 ^ 32 else _
          rw [Nat.add_zero, Nat.mod_eq_of_lt (ucnt o), ite_self]
      · rw [y3]; cases v.scores <;> rfl
    | true =>
      refine ⟨_, by rw [if_pos rfl], ?_⟩
      unfold State.scoreFcs
      rw [ur _ ((State.evt_wire _ _ _).trans ((State.count_wire _ _ _).trans y4))]
      obtain ⟨f1, f2, ⟨cd', ad', f3⟩, f4⟩ := fault_step y h.port (PF_CNT_FCS h.port) 1 15 (s.fl HF_WEIGHT 8 8)
      refine ⟨fun q hq => (f1 q hq).trans (y1 q hq), fun o => ?_, ⟨cd', ad', ?_⟩, f4.trans y4⟩
      · rw [f2, y2]
        have hne : PF_CNT_FCS h.port ≠ PF_CNT_PAR h.port := by unfold PF_CNT_FCS PF_CNT_PAR; omega
        by_cases ho : o = PF_CNT_FCS h.port
        · subst ho; rw [if_pos rfl, if_neg hne, if_neg hne, if_pos rfl]; rfl
        · rw [if_neg ho, if_neg ho]
      · rw [f3, ysc, y3]; cases v.scores <;> rfl
  obtain ⟨x, x0, x1, x2, ⟨cd, ad, x3⟩, x5⟩ := hx
  rw [x0]
  have xw := wire_parts (x5.trans cw)
  have xg : (x.port h.port).rpl = v.rpl := by rw [x3]
  unfold State.openGap
  dsimp +zetaHave only
  by_cases hg : v.rpl.gap = true
  · rw [if_pos (by rw [xg]; exact hg)]
    refine ⟨fun q hq => (x1 q hq).trans (uq q hq), by rw [xg]; exact hg, fun _ => x2, by rw [x3], fun h => absurd (hg.symm.trans h) (by decide)⟩
  · rw [if_neg (by rw [xg]; exact hg), if_neg (by decide), xg]
    generalize hy : x.setPort h.port { x.port h.port with rpl := { v.rpl with gap := true, nakSent := true } } = y
    have y1 : y.port h.port = { x.port h.port with rpl := { v.rpl with gap := true, nakSent := true } } := by rw [← hy, setPort_same]
    have y2 : ∀ q, q ≠ h.port → y.port q = s.port q := fun q hq => by rw [← hy, setPort_other _ _ _ _ hq, x1 q hq, uq q hq]
    obtain ⟨⟨a, b, c, d, f, e1⟩, e2⟩ := xsend_ports y h.port (.nak v.rpl.expect)
    refine ⟨fun q hq => (e2 q hq).trans (y2 q hq), by rw [e1, y1], fun h => absurd h hg, by rw [e1, y1, x3], ?_⟩
    intro g1 g2 g3 g4 g5
    refine ⟨by rw [e1, y1], ?_⟩
    have hm : y.maySend h.port (.nak v.rpl.expect) = true := by
      have z1 : y.isUp h.port = true := by
        unfold State.isUp at h1 ⊢
        have z2 : y.enabled h.port = s.enabled h.port := by
          unfold State.enabled State.bit State.rd
          have : y.regs = s.regs := by rw [← hy]; exact xw.2.1
          rw [this]
        have z3 : (y.port h.port).up = (s.port h.port).up := by rw [y1, x3, up]
        rw [z2, z3]; exact h1
      have z4 : y.underlay = false := by
        unfold State.underlay
        have : y.hf.active = s.hf.active := by rw [← hy]; exact xw.2.2.2.2.2.2.2.2.2.2.1
        rw [this]; exact g2
      unfold State.maySend
      rw [z1, z4, y1, x3]
      dsimp +zetaHave only
      rw [uh]
      cases hh : (s.port h.port).health <;> first | rfl | exact absurd hh h2
    have e3 := (xsend_express y h.port _ hm (.inl (by rw [y1, x3]; exact g3)) rfl (by rw [y1, x3]; exact g4) (by rw [y1, x3]; exact g5)).1
    rw [e3, y1, x3]

/-- What the row CAL_FRAME_RECEIVE does (R106). -/
theorem exec_calFrameReceive :
    (∀ (s : State) (h : RxHead) (tx : WireTime) (r : Rx), s.up = true → h.port < s.nPorts →
      r = s.rxBegin h.toRxBase true h.seq 0x06 true →
      ((s.port h.port).cal.running = false → exec (.calFrameReceive h tx) s =
        .next (if r.ok then (r.s.heldGone h.port h.mark).count (PF_CNT_DROP h.port) else r.s)) ∧
      ((s.port h.port).cal.running = true → exec (.calFrameReceive h tx) s = .next (s.rxZudar h kCal tx.ok).s ∧
        (s.rxZudar h kCal tx.ok).s.wire = s.wire)) := by
  intro s h tx r hup hp hr
  have k : exec (.calFrameReceive h tx) s = s.atPort h.port fun s => if (s.port h.port).cal.running = true then (s.rxZudar h kCal tx.ok).s
    else (if (s.rxBegin h.toRxBase true h.seq 0x06 true).ok = true then ((s.rxBegin h.toRxBase true h.seq 0x06 true).s.heldGone h.port h.mark).count (PF_CNT_DROP h.port)
      else (s.rxBegin h.toRxBase true h.seq 0x06 true).s) := rfl
  rw [k, atPort_in hup hp]
  refine ⟨?_, ?_⟩
  · intro hc; rw [if_neg (by rw [hc]; decide), ← hr]
  · intro hc; rw [if_pos hc]; exact ⟨rfl, State.rxZudar_wire _ _ _ _⟩

end Sys2Proof.Machine
end

