-- ==== Sys2Proof/Laws/RowsPower.lean ====
section
/-! SUPPORT. Sys2Proof/Laws/RowsPower.lean: Nap, Thatch and the rebuild of time. -/

set_option linter.all false
set_option Elab.async false

namespace Sys2Proof.Machine
open Sys2Proof Sys2Proof.Config

theorem ref_fold (l : List Nat) : ∀ s : State, l.Nodup → l.foldl (fun s k => s.count (PW_REF_CNT k)) s = { s with cnt := (l.foldl (fun s k => s.count (PW_REF_CNT k)) s).cnt } ∧
    (∀ k, (l.foldl (fun s k => s.count (PW_REF_CNT k)) s).counter (PW_REF_CNT k) = if k ∈ l then (s.counter (PW_REF_CNT k) + 1) % 2 ^ 32 else s.counter (PW_REF_CNT k)) ∧
    (∀ o, (∀ k, o ≠ PW_REF_CNT k) → (l.foldl (fun s k => s.count (PW_REF_CNT k)) s).counter o = s.counter o) := by
  have inj : ∀ a b, PW_REF_CNT a = PW_REF_CNT b ↔ a = b := by intro a b; unfold PW_REF_CNT; omega
  induction l with
  | nil => intro s _; exact ⟨rfl, fun k => by simp, fun _ _ => rfl⟩
  | cons a l ih =>
    intro s hn
    obtain ⟨h1, h2⟩ := List.nodup_cons.mp hn
    obtain ⟨i1, i2, i3⟩ := ih (s.count (PW_REF_CNT a)) h2
    simp only [List.foldl_cons]
    refine ⟨i1.trans rfl, fun k => ?_, fun o ho => ?_⟩
    · rw [i2, counter_one]
      by_cases hk : k = a
      · subst hk; simp [h1]
      · have : PW_REF_CNT k ≠ PW_REF_CNT a := fun h => hk ((inj _ _).1 h)
        rw [if_neg this]; simp [hk]
    · rw [i3 o ho, counter_one, if_neg (ho a)]

theorem refusers_nodup (s : State) (b : Bool) (nc : Nat) (m : Bool) : (s.refusers b nc m).Nodup := by
  unfold State.refusers
  refine List.Nodup.sublist List.filter_sublist ?_
  decide

theorem refused_form (s : State) (l : List Nat) (st : Nat) (hl : l.Nodup) : ∃ t, s.refused l st = t ∧
    t = { s with pw := { s.pw with lastRef := l.headD 0, lastSt := st }, cnt := t.cnt, out := .perfEvt 27 1 :: s.out } ∧
    (∀ k, t.counter (PW_REF_CNT k) = if k ∈ l then (s.counter (PW_REF_CNT k) + 1) % 2 ^ 32 else s.counter (PW_REF_CNT k)) ∧
    (∀ o, (∀ k, o ≠ PW_REF_CNT k) → t.counter o = s.counter o) := by
  obtain ⟨h1, h2, h3⟩ := ref_fold l s hl
  unfold State.refused
  dsimp +zetaHave only
  rw [evt_one]
  generalize l.foldl (fun s k => s.count (PW_REF_CNT k)) s = z at h1 h2 h3
  refine ⟨_, rfl, ?_, fun k => h2 k, fun o ho => h3 o ho⟩
  rw [h1]; rfl

/-- What the row POWER_ENTRY_ATTEMPT does (R346). -/
theorem exec_powerEntryAttempt : (∀ (s d : State) (m : Bool) (nc : Nat), s.up = true → nc = s.clk.course + 1 → d = { s with did := { s.did with power := true } } →
    (s.did.power = true → exec (.powerEntryAttempt m) s = .next s) ∧
    (s.did.power = false → s.follower = true → exec (.powerEntryAttempt m) s = .next { d with pw := { s.pw with enter := 0 } }) ∧
    (s.did.power = false → s.follower = false →
      (s.attemptDue 2 = true → s.refusers true nc m = [] →
        exec (.powerEntryAttempt m) s = .next { d with pw := { s.pw with enter := 2, req := 0, reqIdle := false } }) ∧
      (s.attemptDue 2 = false → s.pw.st = .active → s.attemptDue 1 = true → s.refusers false nc m = [] →
        exec (.powerEntryAttempt m) s = .next { d with pw := { s.pw with enter := 1, req := 0, reqIdle := false } }) ∧
      (s.attemptDue 2 = false → (s.pw.st ≠ .active ∨ s.attemptDue 1 = false) → exec (.powerEntryAttempt m) s = .next { d with pw := { s.pw with enter := 0 } }) ∧
      (∀ (st : Nat) (l : List Nat), l ≠ [] →
        (st = 2 ∧ s.attemptDue 2 = true ∧ l = s.refusers true nc m ∧ (s.pw.st ≠ .active ∨ s.attemptDue 1 = false)) ∨
          (st = 1 ∧ s.attemptDue 2 = false ∧ s.pw.st = .active ∧ s.attemptDue 1 = true ∧ l = s.refusers false nc m) →
        ∃ t, exec (.powerEntryAttempt m) s = .next t ∧
          t = { d with pw := { s.pw with enter := 0, lastRef := l.headD 0, lastSt := st }, cnt := t.cnt, out := .perfEvt 27 1 :: s.out } ∧
          (∀ k, t.counter (PW_REF_CNT k) = if k ∈ l then (s.counter (PW_REF_CNT k) + 1) % 2 ^ 32 else s.counter (PW_REF_CNT k)) ∧
          (∀ o, (∀ k, o ≠ PW_REF_CNT k) → t.counter o = s.counter o)))) := by
  intro s d m nc hup hnc hd
  have kk : exec (.powerEntryAttempt m) s = s.main fun s => s.powerAttempt (s.clk.course + 1) { gangRefuse := m } := rfl
  rw [kk, State.main_up hup, ← hnc]
  generalize hi : ({ gangRefuse := m } : TickIn) = i
  have i1 : i.gangRefuse = m := by rw [← hi]
  have i2 : i.gangEnter = none := by rw [← hi]
  unfold State.powerAttempt
  dsimp +zetaHave only
  refine ⟨fun h => by rw [if_pos h], fun h hf => ?_, fun h hf => ?_⟩
  · rw [if_neg (by rw [h]; decide)]
    have : ({ s with did := { s.did with power := true }, pw := { s.pw with enter := 0 } } : State).follower = true := hf
    rw [if_pos this, i2, hd]
  · rw [if_neg (by rw [h]; decide)]
    have : ¬ ({ s with did := { s.did with power := true }, pw := { s.pw with enter := 0 } } : State).follower = true := by rw [show ({ s with did := { s.did with power := true }, pw := { s.pw with enter := 0 } } : State).follower = s.follower from rfl, hf]; decide
    rw [if_neg this, i1]
    generalize hy : ({ s with did := { s.did with power := true }, pw := { s.pw with enter := 0 } } : State) = y
    have y1 : ∀ st, y.attemptDue st = s.attemptDue st := fun st => by rw [← hy]; rfl
    have y2 : ∀ b, y.refusers b nc m = s.refusers b nc m := fun b => by rw [← hy]; rfl
    have y3 : y.pw.st = s.pw.st := by rw [← hy]
    have y4 : y.pw.enter = 0 := by rw [← hy]
    have yd : y = { d with pw := { s.pw with enter := 0 } } := by rw [← hy, hd]
    have acc : ∀ (b : Nat) (z : State), z.refusers (decide (b = 2)) nc m = [] → z.tryEnter b nc m = { z with pw := { z.pw with enter := b, req := 0, reqIdle := false } } := by
      intro b z hz; unfold State.tryEnter; rw [hz]
    have ref : ∀ (b : Nat) (z : State) (l : List Nat), l ≠ [] → z.refusers (decide (b = 2)) nc m = l → z.tryEnter b nc m = z.refused l b := by
      intro b z l hl hz; unfold State.tryEnter; rw [hz]; cases l with
      | nil => exact absurd rfl hl
      | cons _ _ => rfl
    refine ⟨fun h1 h2 => ?_, fun h1 h2 h3 h4 => ?_, fun h1 h2 => ?_, fun st l hl h => ?_⟩
    · rw [if_pos ((y1 2).trans h1), acc 2 y ((y2 true).trans h2)]
      rw [if_neg (fun x => absurd x.1 (show ¬ (2 = 0) by decide)), yd]
    · have q2 : (if y.attemptDue 2 = true then y.tryEnter 2 nc m else y) = y := if_neg (by rw [y1, h1]; decide)
      rw [q2, if_pos ⟨y4, y3.trans h2, (y1 1).trans h3⟩, acc 1 y ((y2 false).trans h4), yd]
    · have q2 : (if y.attemptDue 2 = true then y.tryEnter 2 nc m else y) = y := if_neg (by rw [y1, h1]; decide)
      rw [q2, if_neg (by rintro ⟨_, a, b⟩; rcases h2 with h2 | h2; exact h2 (y3.symm.trans a); exact absurd ((y1 1).symm.trans b) (by rw [h2]; decide)), yd]
    · rcases h with ⟨rfl, h1, h2, h3⟩ | ⟨rfl, h1, h2, h3, h4⟩
      · rw [if_pos ((y1 2).trans h1), ref 2 y l hl ((y2 true).trans h2.symm)]
        obtain ⟨t, ht, t1, t2, t3⟩ := refused_form y l 2 (h2 ▸ refusers_nodup s true nc m)
        rw [ht]
        have c : ¬ (t.pw.enter = 0 ∧ t.pw.st = .active ∧ t.attemptDue 1 = true) := by
          rintro ⟨_, a, b⟩
          have e1 : t.pw.st = s.pw.st := by rw [t1]; exact y3
          have e2 : t.attemptDue 1 = s.attemptDue 1 := by rw [← y1]; rw [t1]; rfl
          rcases h3 with h3 | h3
          · exact h3 (e1.symm.trans a)
          · exact absurd (e2.symm.trans b) (by rw [h3]; decide)
        rw [if_neg c]
        refine ⟨t, rfl, ?_, fun k => (t2 k).trans ?_, fun o ho => (t3 o ho).trans ?_⟩
        · rw [t1, yd, hd]
        · rw [yd, hd]; rfl
        · rw [yd, hd]; rfl
      · have q2 : (if y.attemptDue 2 = true then y.tryEnter 2 nc m else y) = y := if_neg (by rw [y1, h1]; decide)
        rw [q2, if_pos ⟨y4, y3.trans h2, (y1 1).trans h3⟩, ref 1 y l hl ((y2 false).trans h4.symm)]
        obtain ⟨t, ht, t1, t2, t3⟩ := refused_form y l 1 (h4 ▸ refusers_nodup s false nc m)
        rw [ht]
        refine ⟨t, rfl, ?_, fun k => (t2 k).trans ?_, fun o ho => (t3 o ho).trans ?_⟩
        · rw [t1, yd, hd]
        · rw [yd, hd]; rfl
        · rw [yd, hd]; rfl

theorem gates_form (k : Nat) (s : State) : (s.openGate k = { s with ck := { s.ck with gates := (s.openGate k).ck.gates }, out := (s.openGate k).out }) ∧ ∀ o ∈ s.out, o ∈ (s.openGate k).out := by
  unfold State.openGate
  dsimp +zetaHave only
  split
  · exact ⟨rfl, fun _ h => h⟩
  · exact ⟨rfl, fun _ h => List.mem_cons_of_mem _ h⟩

theorem gates_fold (l : List Nat) : ∀ s : State, ∃ t, l.foldl (fun s k => if napGroups.getLsbD k then s else s.openGate k) s = t ∧
    t = { s with ck := { s.ck with gates := t.ck.gates }, out := t.out } ∧ ∀ o ∈ s.out, o ∈ t.out := by
  induction l with
  | nil => intro s; exact ⟨s, rfl, rfl, fun _ h => h⟩
  | cons a l ih =>
    intro s
    simp only [List.foldl_cons]
    by_cases h : napGroups.getLsbD a = true
    · rw [if_pos h]; exact ih s
    · rw [if_neg h]
      obtain ⟨g1, g2⟩ := gates_form a s
      obtain ⟨t, t0, t1, t2⟩ := ih (s.openGate a)
      refine ⟨t, t0, ?_, fun o ho => t2 o (g2 o ho)⟩
      rw [t1, g1]

theorem latch_form (s : State) (src arg : Nat) (r : Power) (l : List (Nat × Nat)) (v : Nat)
    (hl : l = (if s.pw.fresh then [] else s.pw.latch)) (hv : v = (if s.pw.fresh then 0 else s.pw.ovf))
    (hr : r = { s.pw with busy := true, fresh := false, latch := if l.length < 64 then l ++ [(src, arg)] else l, ovf := if l.length < 64 then v else min 0xFFFF (v + 1) }) :
    s.busy.latchWake src arg none = { s with pw := r } := by
  unfold State.latchWake State.busy
  dsimp +zetaHave only
  rw [← hl, ← hv, hr]
  by_cases h : l.length < 64
  · rw [if_pos h, if_pos h, if_pos h]; simp
  · rw [if_neg h, if_neg h, if_neg h]; simp

/-- What the rows NAP_WAKE, THATCH_WAKE do (R344, R349). -/
theorem exec_napWake_thatchWake : (∀ (s : State) (src arg : Nat) (r : Power) (l : List (Nat × Nat)) (v : Nat),
    l = (if s.pw.fresh then [] else s.pw.latch) → v = (if s.pw.fresh then 0 else s.pw.ovf) →
    r = { s.pw with busy := true, fresh := false, latch := if l.length < 64 then l ++ [(src, arg)] else l, ovf := if l.length < 64 then v else min 0xFFFF (v + 1) } →
    (s.up = true → (s.pw.st ≠ .nap → exec (.napWake src arg) s = .next s) ∧
      (s.pw.st = .nap → ∃ t, exec (.napWake src arg) s = .next t ∧ .pwState 0 ∈ t.out ∧ (∀ o ∈ s.out, o ∈ t.out) ∧
        t = { s with pw := { r with st := .active, planned := none }, hf := { s.hf with wdog := if s.cp.fw = .running then some 0 else none }, ck := { s.ck with gates := t.ck.gates }, out := t.out })) ∧
    (s.asleep = false → exec (.thatchWake src arg) s = .next s) ∧
    (s.ck.phase = .running → s.pw.st = .thatch → exec (.thatchWake src arg) s =
      .next { s with pw := { r with st := .waking }, ck := { s.ck with tTry := 0, lTry := 0 }, out := .pwState 3 :: s.out }) ∧
    (s.ck.phase = .running → s.pw.st = .waking → exec (.thatchWake src arg) s = .next { s with pw := r })) := by
  intro s src arg r l v hl hv hr
  have hlat := latch_form s src arg r l v hl hv hr
  have rst : r.st = s.pw.st := by rw [hr]
  refine ⟨fun hup => ?_, fun h => ?_, fun h1 h2 => ?_, fun h1 h2 => ?_⟩
  · have kk : exec (.napWake src arg) s = s.main fun s => if s.pw.st = .nap then s.wake src arg none else s := rfl
    rw [kk, State.main_up hup]
    refine ⟨fun h => by rw [if_neg h], fun h => ?_⟩
    rw [if_pos h]
    have hw : s.wake src arg none = (s.busy.latchWake src arg none).napWake := by
      unfold State.wake; dsimp +zetaHave only; rw [show s.busy.pw.st = .nap from h]
    rw [hw, hlat]
    unfold State.napWake
    have h' : ({ s with pw := r } : State).pw.st = .nap := rst.trans h
    rw [if_pos h']
    dsimp +zetaHave only
    unfold State.setPower
    rw [if_neg (by rw [h']; decide)]
    obtain ⟨t, t0, t1, t2⟩ := gates_fold (List.range 12) { s with pw := { r with st := .active, planned := none }, out := .pwState PowerState.active.num :: s.out, hf := { s.hf with wdog := if s.cp.fw = .running then some 0 else none } }
    refine ⟨t, congrArg _ t0, t2 _ List.mem_cons_self, fun o ho => t2 o (List.mem_cons_of_mem _ ho), t1⟩
  · have kk : exec (.thatchWake src arg) s = .next (if s.asleep then s.wake src arg none else s) := rfl
    rw [kk, if_neg (by rw [h]; decide)]
  · have kk : exec (.thatchWake src arg) s = .next (if s.asleep then s.wake src arg none else s) := rfl
    rw [kk, if_pos (by unfold State.asleep; rw [h1, h2]; decide)]
    have hw : s.wake src arg none = (let z := (s.busy.latchWake src arg none).setPower .waking
        ({ z with ck := { z.ck with tTry := 0, lTry := 0 } } : State)) := by
      unfold State.wake; dsimp +zetaHave only; rw [show s.busy.pw.st = .thatch from h2]
    rw [hw, hlat]
    dsimp +zetaHave only
    unfold State.setPower
    rw [if_neg (by show ¬ r.st = _; rw [rst, h2]; decide)]
    rfl
  · have kk : exec (.thatchWake src arg) s = .next (if s.asleep then s.wake src arg none else s) := rfl
    rw [kk, if_pos (by unfold State.asleep; rw [h1, h2]; decide)]
    have hw : s.wake src arg none = s.busy.latchWake src arg none := by
      unfold State.wake; dsimp +zetaHave only; rw [show s.busy.pw.st = .waking from h2]
    rw [hw, hlat]

theorem nap_up {s : State} (h1 : s.ck.phase = .running) (h2 : s.pw.st = .nap) : s.up = true := by unfold State.up; rw [h1, h2]; decide

/-- What the rows NAP_PLANNED_WAKE, NAP_WAKE do (R344). -/
theorem exec_napPlannedWake_napWake : (∀ (s : State), s.up = true →
    ((s.pw.st ≠ .nap ∨ s.pw.planned = none ∨ ∃ c, s.pw.planned = some c ∧ s.clk.course + 1 < c) → exec .napPlannedWake s = .next s) ∧
    (∀ c, s.pw.st = .nap → s.pw.planned = some c → c ≤ s.clk.course + 1 → ∃ t, exec .napPlannedWake s = .next t ∧ exec (.napWake 7 0) s = .next t)) := by
  intro s hup
  have kk : exec .napPlannedWake s = s.main fun s => s.napPlanned (s.clk.course + 1) := rfl
  have k2 : exec (.napWake 7 0) s = s.main fun s => if s.pw.st = .nap then s.wake 7 0 none else s := rfl
  rw [kk, k2, State.main_up hup, State.main_up hup]
  unfold State.napPlanned
  refine ⟨fun h => ?_, fun c h1 h2 h3 => ⟨_, rfl, ?_⟩⟩
  · by_cases hn : s.pw.st = .nap
    · rw [if_pos hn]
      rcases h with h | h | ⟨c, h, hc⟩
      · exact absurd hn h
      · rw [h]
      · rw [h]; dsimp only; rw [if_neg (by omega)]
    · rw [if_neg hn]
  · rw [if_pos h1, if_pos h1, h2]; dsimp only; rw [if_pos h3]

/-- What the rows THATCH_TIMER_WAKE, THATCH_WAKE do (R349). -/
theorem exec_thatchTimerWake_thatchWake : (∀ (s : State), ((s.asleep = false ∨ s.pw.st = .waking ∨ s.rd PW_THATCH_WAKE = 0) → exec .thatchTimerWake s = .next s) ∧
    (s.ck.phase = .running → s.pw.st = .thatch → s.rd PW_THATCH_WAKE ≠ 0 → ∃ t, exec .thatchTimerWake s = .next t ∧ exec (.thatchWake 6 0) s = .next t)) := by
  intro s
  have kk : exec .thatchTimerWake s = .next (if s.asleep ∧ s.pw.st = .thatch ∧ s.rd PW_THATCH_WAKE ≠ 0 then s.wake 6 0 none else s) := rfl
  have k2 : exec (.thatchWake 6 0) s = .next (if s.asleep then s.wake 6 0 none else s) := rfl
  rw [kk, k2]
  refine ⟨fun h => ?_, fun h1 h2 h3 => ⟨_, rfl, ?_⟩⟩
  · rw [if_neg]
    rintro ⟨a, b, c⟩
    rcases h with h | h | h
    · rw [h] at a; cases a
    · rw [h] at b; cases b
    · exact c h
  · have : s.asleep = true := by unfold State.asleep; rw [h1, h2]; decide
    rw [if_pos this, if_pos ⟨this, h2, h3⟩]

/-- What the rows PW_WAKE, NAP_WAKE, THATCH_WAKE do (R344, R349, R356). -/
theorem exec_pwWake_napWake_thatchWake : (∀ (s : State), (s.ck.phase ≠ .running → exec .pwWake s = .next s) ∧
    (s.ck.phase = .running → s.pw.st = .active → exec .pwWake s = .next s.busy) ∧
    (s.ck.phase = .running → s.pw.st = .nap → ∃ t, exec .pwWake s = .next t ∧ exec (.napWake 3 0) s = .next t) ∧
    (s.ck.phase = .running → (s.pw.st = .thatch ∨ s.pw.st = .waking) → ∃ t, exec .pwWake s = .next t ∧ exec (.thatchWake 3 0) s = .next t)) := by
  intro s
  have kk : exec .pwWake s = .next (if s.ck.phase = .running then s.wake 3 0 none else s) := rfl
  rw [kk]
  refine ⟨fun h => by rw [if_neg h], fun h1 h2 => ?_, fun h1 h2 => ⟨_, rfl, ?_⟩, fun h1 h2 => ⟨_, rfl, ?_⟩⟩
  · rw [if_pos h1]
    unfold State.wake; dsimp +zetaHave only; rw [show s.busy.pw.st = .active from h2]
  · have k2 : exec (.napWake 3 0) s = s.main fun s => if s.pw.st = .nap then s.wake 3 0 none else s := rfl
    rw [k2, State.main_up (nap_up h1 h2), if_pos h1, if_pos h2]
  · have k2 : exec (.thatchWake 3 0) s = .next (if s.asleep then s.wake 3 0 none else s) := rfl
    rw [k2, if_pos h1, if_pos]
    unfold State.asleep; rcases h2 with h2 | h2 <;> rw [h1, h2] <;> decide

theorem mod_servo (s : State) (d : Dom) (f : Servo → Servo) : s.modServo d f = { s with td := { s.td with dom := (s.modServo d f).td.dom } } ∧
    (s.modServo d f).servo d = f (s.servo d) ∧ ∀ e, e ≠ d → (s.modServo d f).servo e = s.servo e :=
  ⟨rfl, (servo_put s d _).1, (servo_put s d _).2⟩

theorem mod_both (s : State) (f : Servo → Servo) : ∃ t, (s.modServo .a f).modServo .b f = t ∧ t = { s with td := { s.td with dom := t.td.dom } } ∧ ∀ d, t.servo d = f (s.servo d) := by
  refine ⟨_, rfl, rfl, fun d => ?_⟩
  obtain ⟨_, a1, a2⟩ := mod_servo s .a f
  obtain ⟨_, b1, b2⟩ := mod_servo (s.modServo .a f) .b f
  cases d
  · rw [b2 .a (by decide), a1]
  · rw [b1, a2 .b (by decide)]

theorem grow_form (s : State) (d : Dom) (f c : Nat) : ∃ t, s.growSlept d f c = t ∧ t = { s with td := { s.td with dom := t.td.dom } } ∧
    (∀ e, (t.servo e).st = (s.servo e).st ∧ (t.servo e).f = (s.servo e).f) := by
  unfold State.growSlept
  dsimp +zetaHave only
  by_cases h : (s.servo d).st ≠ .hold
  · rw [if_pos h]; exact ⟨s, rfl, rfl, fun _ => ⟨rfl, rfl⟩⟩
  · rw [if_neg h]
    generalize min (0xFFFFFFFF * 65536) _ = a
    generalize (_ % 1000000 : Nat) = b
    obtain ⟨p1, p2⟩ := servo_put s d { s.servo d with teAcc := a, teRem := b }
    refine ⟨_, rfl, rfl, fun e => ?_⟩
    by_cases he : e = d
    · subst he; rw [p1]; exact ⟨rfl, rfl⟩
    · rw [p2 e he]; exact ⟨rfl, rfl⟩

theorem score_each (n : Nat) (l : List Nat) : ∀ s : State, ∃ t, s.each l (fun s p => s.modPort p fun v => { v with score := v.score >>> n }) = t ∧ t = { s with ports := t.ports } := by
  induction l with
  | nil => intro s; exact ⟨s, rfl, rfl⟩
  | cons a l ih =>
    intro s
    obtain ⟨t, t0, t1⟩ := ih (s.modPort a fun v => { v with score := v.score >>> n })
    exact ⟨t, t0, t1.trans rfl⟩

/-- NEXT of the periodic outputs catches up: nothing but SQ_Pn_NEXT changes. -/
theorem catch_form (s : State) : ∃ t, s.pulsesCatchUp = t ∧ t = { s with regs := t.regs } ∧
    (∀ r : Reg, (∀ n, r.off ≠ (SQ_Pn_NEXT n).off) → t.rd r = s.rd r) := by
  unfold State.pulsesCatchUp State.each
  generalize List.range 8 = l
  induction l generalizing s with
  | nil => exact ⟨s, rfl, rfl, fun _ _ => rfl⟩
  | cons a l ih =>
    have h0 : ∃ z, (if s.pulsePer a then s.pulseCatchUp a (s.clk.course + 2) else s) = z ∧ z = { s with regs := z.regs } ∧
        (∀ r : Reg, (∀ n, r.off ≠ (SQ_Pn_NEXT n).off) → z.rd r = s.rd r) := by
      refine ⟨_, rfl, ?_⟩
      split
      · unfold State.pulseCatchUp
        dsimp +zetaHave only
        split
        · exact ⟨rfl, fun r hr => State.rd_wr_other _ _ _ _ (hr a)⟩
        · exact ⟨rfl, fun _ _ => rfl⟩
      · exact ⟨rfl, fun _ _ => rfl⟩
    obtain ⟨z, z0, z1, z2⟩ := h0
    rw [List.foldl_cons, z0]
    obtain ⟨t, t0, t1, t2⟩ := ih z
    refine ⟨t, t0, ?_, fun r hr => (t2 r hr).trans (z2 r hr)⟩
    rw [t1, z1]

theorem skip_form (s : State) : ∃ ps, s.skipFill = { s with ports := ps } := by
  unfold State.skipFill State.each
  generalize s.portList = l
  induction l generalizing s with
  | nil => exact ⟨s.ports, rfl⟩
  | cons a l ih =>
    obtain ⟨q, hq⟩ := ih (s.modPort a fun v => { v with bktCyc := s.absCyc s.clk.cyc })
    exact ⟨q, by rw [List.foldl_cons]; exact hq⟩

theorem load_form (s : State) (u : Int) (g : Nat) (hg : g = (5 * u / cycleFifths).toNat) : ∃ t, s.loadTime u = t ∧
    t = { s with td := t.td, clk := t.clk, hf := { s.hf with score := t.hf.score }, ports := t.ports, regs := t.regs } ∧
    (∀ r : Reg, (∀ n, r.off ≠ (SQ_Pn_NEXT n).off) → t.rd r = s.rd r) ∧
    t.clk = { course := g / 625, cyc := g % 625, ticks := s.clk.ticks + (g / 625 - s.clk.course) } ∧ t.td.acq = s.td.acq ∧ t.td.sel = s.td.sel ∧
    t.hf.score = s.hf.score >>> (g / 625 / 2 ^ s.decayExp - s.clk.course / 2 ^ s.decayExp) ∧
    (∀ d, (t.servo d).st = (s.servo d).st ∧ (t.servo d).f = (s.servo d).f) := by
  unfold State.loadTime
  dsimp +zetaHave only
  rw [← hg]
  obtain ⟨a, a0, a1⟩ := score_each (g / 625 / 2 ^ s.decayExp - s.clk.course / 2 ^ s.decayExp) s.channels s
  rw [a0]
  obtain ⟨b, b0, b1, b2⟩ := grow_form a .a a.clk.course (g / 625 - s.clk.course)
  have e1 : a.clk.course = s.clk.course := by rw [a1]
  rw [b0]
  obtain ⟨c, c0, c1, c2⟩ := grow_form b .b a.clk.course (g / 625 - s.clk.course)
  rw [c0]
  obtain ⟨e, e0, e1, e2⟩ := mod_both c (fun v => { v with lockTick := v.lockTick + (g / 625 - s.clk.course) })
  rw [e0]
  clear a0 b0 c0 e0
  have k1 : e = { s with td := { s.td with dom := e.td.dom }, ports := e.ports } := by
    have c2 : c = { a with td := { a.td with dom := c.td.dom } } := by rw [c1, b1]
    have e3 : e = { a with td := { a.td with dom := e.td.dom } } := by rw [e1, c2]
    rw [e3, a1]
  have k2 : ∀ d, (e.servo d).st = (s.servo d).st ∧ (e.servo d).f = (s.servo d).f := by
    intro d
    rw [e2]
    have ha : a.servo d = s.servo d := by rw [a1]; rfl
    rw [← ha]
    exact ⟨(c2 d).1.trans (b2 d).1, (c2 d).2.trans (b2 d).2⟩
  obtain ⟨ps, hps⟩ := skip_form ({ e with
    hf := { e.hf with score := e.hf.score >>> (g / 625 / 2 ^ s.decayExp - s.clk.course / 2 ^ s.decayExp) }
    clk := { course := g / 625, cyc := g % 625, ticks := e.clk.ticks + (g / 625 - s.clk.course) }
    td := { e.td with rot := (roundDiv (5 * u % cycleFifths) 512).toNat, rotCyc := g % 625 } } : State)
  rw [hps]
  obtain ⟨f, f0, f1, f2⟩ := catch_form ({ e with
    hf := { e.hf with score := e.hf.score >>> (g / 625 / 2 ^ s.decayExp - s.clk.course / 2 ^ s.decayExp) }
    clk := { course := g / 625, cyc := g % 625, ticks := e.clk.ticks + (g / 625 - s.clk.course) }
    td := { e.td with rot := (roundDiv (5 * u % cycleFifths) 512).toNat, rotCyc := g % 625 }, ports := ps } : State)
  refine ⟨f, f0, ?_, fun r hr => (f2 r hr).trans ?_, ?_, ?_, ?_, ?_, fun d => ?_⟩
  · rw [f1, k1]
  · rw [k1]; rfl
  · rw [f1, k1]
  · rw [f1, k1]
  · rw [f1, k1]
  · rw [f1, k1]
  · rw [f1]; exact k2 d

theorem lost_form (s : State) : ∃ t, s.noRebuild = t ∧
    t = { s with td := t.td, clk := t.clk, cnt := t.cnt, free := t.free } ∧
    t.clk = { course := (freeValue s.free).toNat, cyc := 0, ticks := s.clk.ticks } ∧ t.td.acq = false ∧ t.td.te = 0xFFFFFFFF ∧
    (∀ d, (t.servo d).st = .none ∧ (t.servo d).f = 0) ∧ t.cnt = (s.count PW_CNT_NOREBUILD).cnt := by
  unfold State.noRebuild
  dsimp +zetaHave only
  generalize hr : (s.count PW_CNT_NOREBUILD).drawFree = r
  have r1 : r.1 = { s with cnt := r.1.cnt, free := r.1.free } ∧ r.2 = (freeValue s.free).toNat ∧ r.1.cnt = (s.count PW_CNT_NOREBUILD).cnt := by rw [← hr]; exact ⟨rfl, rfl, rfl⟩
  obtain ⟨r1, r2, r3⟩ := r1
  obtain ⟨e, e0, e1, e2⟩ := mod_both r.1 (fun v => { v with st := .none, p := 0, f := 0, synt := false, freqPts := [], skipRun := 0 })
  rw [e0, r2]
  have k1 : e = { s with td := { s.td with dom := e.td.dom }, cnt := e.cnt, free := e.free } := by rw [e1, r1]
  have k3 : e.cnt = r.1.cnt := by rw [e1]
  have k2 : ∀ d, (e.servo d).st = .none ∧ (e.servo d).f = 0 := fun d => by rw [e2]; exact ⟨rfl, rfl⟩
  clear e0 e1 e2
  refine ⟨_, rfl, ?_, ?_, rfl, rfl, k2, k3.trans r3⟩
  · rw [k1]
  · rw [k1]

/-- What the row TIME_REBUILD does (R350). -/
theorem exec_timeRebuild : (∀ (s : State) (k cw : Nat) (temp : Int) (ok : Bool) (w : State),
    w = { s with rs := { s.rs with temp := if ok then temp else s.rs.temp, tempBad := !ok, cand := [] } } →
    ((s.ck.phase ≠ .running ∨ s.pw.st ≠ .waking ∨ s.ck.tLock = false ∨ s.ck.lLock = false ∨ s.pw.loaded = true) → exec (.timeRebuild k cw temp ok) s = .next s) ∧
    (s.ck.phase = .running → s.pw.st = .waking → s.ck.tLock = true → s.ck.lLock = true → s.pw.loaded = false → ∃ t, exec (.timeRebuild k cw temp ok) s = .next t ∧
      t = { s with clk := t.clk, td := t.td, pw := t.pw, ports := t.ports, regs := t.regs, rs := w.rs, cnt := t.cnt, free := t.free, bt := { s.bt with stepNext := true }, hf := { s.hf with score := t.hf.score } } ∧
      t.pw = { s.pw with rebuilt := s.canRebuild k, cyc := k, te := t.pw.te, waitLock := true, loaded := true } ∧
      (∀ d, (t.servo d).locked = false ∧ (t.servo d).lockRun = 0) ∧
      (∀ r : Reg, (∀ n, r.off ≠ (SQ_Pn_NEXT n).off) → t.rd r = s.rd r) ∧
      (∀ g, s.canRebuild k = true → g = (5 * w.rebuiltTime k cw / cycleFifths).toNat →
        t.clk = { course := g / 625, cyc := g % 625, ticks := s.clk.ticks + (g / 625 - s.clk.course) } ∧ t.cnt = s.cnt ∧ t.free = s.free ∧ t.td.acq = s.td.acq ∧
        (∀ d, (t.servo d).st = (s.servo d).st ∧ (t.servo d).f = (s.servo d).f) ∧
        t.hf.score = s.hf.score >>> (g / 625 / 2 ^ s.decayExp - s.clk.course / 2 ^ s.decayExp)) ∧
      (s.canRebuild k = false → t.clk = { course := (freeValue s.free).toNat, cyc := 0, ticks := s.clk.ticks } ∧ t.td.acq = false ∧ t.td.te = 0xFFFFFFFF ∧
        t.pw.te = 0xFFFFFFFF ∧ (∀ d, (t.servo d).st = .none ∧ (t.servo d).f = 0) ∧ t.ports = s.ports ∧ t.regs = s.regs ∧
        (∀ o, t.counter o = if o = PW_CNT_NOREBUILD then (s.counter o + 1) % 2 ^ 32 else s.counter o)))) := by
  intro s k cw temp ok w hw
  have kk : exec (.timeRebuild k cw temp ok) s = .next (if s.asleep then s.timeRebuild k cw temp ok else s) := rfl
  rw [kk]
  unfold State.timeRebuild
  refine ⟨fun h => ?_, fun h1 h2 h3 h4 h5 => ?_⟩
  · by_cases ha : s.asleep = true
    · rw [if_pos ha, if_pos]
      rcases h with h | h | h | h | h
      · refine absurd ?_ h
        unfold State.asleep at ha
        simp only [Bool.and_eq_true, decide_eq_true_eq] at ha
        exact ha.1
      · exact .inl h
      · exact .inr (.inl h)
      · exact .inr (.inr (.inl h))
      · exact .inr (.inr (.inr h))
    · rw [if_neg ha]
  · have ha : s.asleep = true := by unfold State.asleep; rw [h1, h2]; decide
    have hn : ¬ (s.pw.st ≠ .waking ∨ s.ck.tLock = false ∨ s.ck.lLock = false ∨ s.pw.loaded = true) := by
      rw [h2, h3, h4, h5]; simp
    rw [if_pos ha, if_neg hn]
    dsimp +zetaHave only
    rw [← hw]
    have hc : w.canRebuild k = s.canRebuild k := by rw [hw]; rfl
    have hfl : w.decayExp = s.decayExp := by rw [hw]; rfl
    rw [hc]
    by_cases hk : s.canRebuild k = true
    · rw [if_pos hk, hk]
      obtain ⟨a, a0, a1, aR, a2, a3, a4, a5, a6⟩ := load_form w (w.rebuiltTime k cw) _ rfl
      rw [a0]
      obtain ⟨b, b0, b1, b2⟩ := mod_both a (fun v => { v with locked := false, lockRun := 0, unlockRun := 0 })
      rw [b0]
      have e1 : b = { s with td := { a.td with dom := b.td.dom }, clk := b.clk, hf := { s.hf with score := b.hf.score }, ports := b.ports, regs := b.regs, rs := w.rs } := by
        rw [b1, a1, hw]
      have eR : ∀ r : Reg, (∀ n, r.off ≠ (SQ_Pn_NEXT n).off) → b.rd r = s.rd r := fun r hr => by
        have e : a.rd r = s.rd r := by rw [aR r hr, hw]; rfl
        rw [b1, ← e]; rfl
      have e2 : b.clk = a.clk := by rw [b1]
      have e3 : b.hf = a.hf := by rw [b1]
      have e4 : b.td.acq = a.td.acq := by rw [b1]
      rw [if_pos rfl]
      generalize sat32 (ceilDiv (b.servo b.td.sel).teAcc 65536) = te
      have q : b.clk.ticks = b.clk.ticks := rfl
      have e5 : ∀ d, (b.servo d).locked = false ∧ (b.servo d).lockRun = 0 := fun d => by rw [b2]; exact ⟨rfl, rfl⟩
      have e6 : ∀ d, (b.servo d).st = (s.servo d).st ∧ (b.servo d).f = (s.servo d).f := fun d => by
        rw [b2]
        have hs : w.servo d = s.servo d := by rw [hw]; rfl
        rw [← hs]; exact a6 d
      have w1 : w.clk = s.clk := by rw [hw]
      have w2 : w.hf = s.hf := by rw [hw]
      have w3 : w.td = s.td := by rw [hw]
      clear b2 a6 a0 b0 hc
      refine ⟨_, rfl, ?_, ?_, e5, eR, ?_, fun h => absurd h (by decide)⟩
      · rw [e1]
      · rw [e1]
      · intro g _ hg
        rw [hg]
        refine ⟨?_, ?_, ?_, ?_, e6, ?_⟩
        · show b.clk = _
          rw [e2, a2, w1]
        · show b.cnt = _
          rw [e1]
        · show b.free = _
          rw [e1]
        · show b.td.acq = _
          rw [e4, a3, w3]
        · show b.hf.score = _
          rw [e3, a5, hfl, w2, w1]
    · have hk' : s.canRebuild k = false := by simpa using hk
      rw [if_neg hk, hk']
      obtain ⟨a, a0, a1, a2, a3, a4, a5, a6⟩ := lost_form w
      rw [a0]
      obtain ⟨b, b0, b1, b2⟩ := mod_both a (fun v => { v with locked := false, lockRun := 0, unlockRun := 0 })
      rw [b0]
      have e1 : b = { s with td := { a.td with dom := b.td.dom }, clk := b.clk, cnt := b.cnt, free := b.free, rs := w.rs } := by
        rw [b1, a1, hw]
      have e2 : b.clk = a.clk := by rw [b1]
      have e3 : b.cnt = a.cnt := by rw [b1]
      have e4 : b.td.acq = a.td.acq ∧ b.td.te = a.td.te := by rw [b1]; exact ⟨rfl, rfl⟩
      rw [if_neg (by decide)]
      have e5 : ∀ d, (b.servo d).locked = false ∧ (b.servo d).lockRun = 0 := fun d => by rw [b2]; exact ⟨rfl, rfl⟩
      have e6 : ∀ d, (b.servo d).st = .none ∧ (b.servo d).f = 0 := fun d => by rw [b2]; exact a5 d
      have w1 : w.clk = s.clk := by rw [hw]
      have w2 : w.free = s.free := by rw [hw]
      have w3 : ∀ o, (w.count PW_CNT_NOREBUILD).counter o = if o = PW_CNT_NOREBUILD then (s.counter o + 1) % 2 ^ 32 else s.counter o := fun o => by
        rw [counter_one]; rw [hw]; rfl
      clear b2 a5 a0 b0 hc
      refine ⟨_, rfl, ?_, ?_, e5, fun r _ => ?_, fun g h => (by cases h), fun _ => ⟨?_, ?_, ?_, rfl, e6, ?_, ?_, fun o => ?_⟩⟩
      · rw [e1]
      · rw [e1]
      · rw [e1]; rfl
      · show b.clk = _
        rw [e2, a2, w1, w2]
      · show b.td.acq = _
        rw [e4.1, a3]
      · show b.td.te = _
        rw [e4.2, a4]
      · show b.ports = _
        rw [e1]
      · show b.regs = _
        rw [e1]
      · rw [← w3]
        exact counter_cnt (e3.trans a6) o

end Sys2Proof.Machine
end

