-- ==== Sys2Proof/Laws/RowsRegs.lean ====
section
/-! SUPPORT. Sys2Proof/Laws/RowsRegs.lean: the rows of registers. -/

set_option linter.all false
set_option Elab.async false

namespace Sys2Proof.Machine
open Sys2Proof Sys2Proof.Config

theorem clrWrite {s : State} (h : s.Serving) (off lo n : Nat) (ha : alwaysOn off = false) (hn : lo = n * 0x1000)
    (hw : ∀ t : State, t.regWrite .host off false 1 = t.clearCounters lo (lo + 0xFFF)) :
    ∃ t, (Host.Outcome.next (s.writeBy .host off false 1) : Host.Outcome State Fault Refusal) = .next t ∧
      (∀ o, o / 0x1000 = n → t.counter o = 0) ∧
      (∀ o, o / 0x1000 ≠ n → o ≠ CG_CNT_GATE_WAIT → t.counter o = s.counter o) ∧ t.still = s.still := by
  refine ⟨_, rfl, ?_⟩
  rw [State.writeBy_serving h _ _ _ _ ha, hw]
  refine ⟨?_, ?_, ?_⟩
  · intro o ho
    rw [State.counter_clear, if_pos (by omega)]
  · intro o ho h1
    rw [State.counter_clear, if_neg (by omega), State.touch_counter _ _ _ _ h1]
  · rw [← State.touch_still s .host off]; rfl

theorem clrWriteAon {s : State} (h : s.ck.phase ≠ .held) (off lo n : Nat) (ha : alwaysOn off = true) (hn : lo = n * 0x1000)
    (hw : ∀ t : State, t.regWrite .host off false 1 = t.clearCounters lo (lo + 0xFFF)) :
    ∃ t, (Host.Outcome.next (s.writeBy .host off false 1) : Host.Outcome State Fault Refusal) = .next t ∧
      (∀ o, t.counter o = if o / 0x1000 = n then 0 else s.counter o) ∧ t.still = s.still := by
  refine ⟨_, rfl, ?_⟩
  have : s.writeBy .host off false 1 = s.clearCounters lo (lo + 0xFFF) := by
    unfold State.writeBy State.access
    simp [h, ha, State.doWrite, hw]
  rw [this]
  refine ⟨?_, rfl⟩
  intro o
  rw [State.counter_clear]
  by_cases ho : o / 0x1000 = n
  · rw [if_pos ho, if_pos (by omega)]
  · rw [if_neg ho, if_neg (by omega)]

/-- What the rows RS_CNT_CLR, CG_CNT_CLR, IM_CNT_CLR, SQ_CNT_CLR, CE_CNT_CLR, TP_CNT_CLR and others do (R163, R184,
R207, R227, R254, R281, R307, R321). -/
theorem exec_rsCntClr_cgCntClr_imCntClr_more :
    (∀ e ∈ [(Instr.tdCntClr, 1), (.rsCntClr, 2), (.cgCntClr, 3), (.imCntClr, 4), (.sqCntClr, 5), (.ceCntClr, 6), (.tpCntClr, 7),
        (.hfCntClr, 8), (.cpCntClr, 10), (.btCntClr, 11), (.odCntClr, 13)], ∀ s : State, s.Serving →
      ∃ t, exec e.1 s = .next t ∧ (∀ o, o / 0x1000 = e.2 → t.counter o = 0) ∧
        (∀ o, o / 0x1000 ≠ e.2 → o ≠ CG_CNT_GATE_WAIT → t.counter o = s.counter o) ∧ t.still = s.still) := by
  intro e he s h
  simp only [List.mem_cons, List.not_mem_nil, or_false] at he
  rcases he with he|he|he|he|he|he|he|he|he|he|he <;> subst he
  · exact clrWrite h 0x12C0 0x1000 1 rfl rfl (fun t => by rw [State.regWrite_12C0]; unfold State.putReg; rw [State.rwReg_12C0]; rfl)
  · exact clrWrite h 0x2340 0x2000 2 rfl rfl (fun t => by rw [State.regWrite_2340]; unfold State.putReg; rw [State.rwReg_2340]; rfl)
  · exact clrWrite h 0x30C0 0x3000 3 rfl rfl (fun t => by rw [State.regWrite_30C0]; unfold State.putReg; rw [State.rwReg_30C0]; rfl)
  · exact clrWrite h 0x40C0 0x4000 4 rfl rfl (fun t => by rw [State.regWrite_40C0]; unfold State.putReg; rw [State.rwReg_40C0]; rfl)
  · exact clrWrite h 0x5240 0x5000 5 rfl rfl (fun t => by rw [State.regWrite_5240]; unfold State.putReg; rw [State.rwReg_5240]; rfl)
  · exact clrWrite h 0x60C0 0x6000 6 rfl rfl (fun t => by rw [State.regWrite_60C0]; unfold State.putReg; rw [State.rwReg_60C0]; rfl)
  · exact clrWrite h 0x70C0 0x7000 7 rfl rfl (fun t => by rw [State.regWrite_70C0]; unfold State.putReg; rw [State.rwReg_70C0]; rfl)
  · exact clrWrite h 0x80C0 0x8000 8 rfl rfl (fun t => by rw [State.regWrite_80C0]; unfold State.putReg; rw [State.rwReg_80C0]; rfl)
  · exact clrWrite h 0xA0C0 0xA000 10 rfl rfl (fun t => by rw [State.regWrite_A0C0]; unfold State.putReg; rw [State.rwReg_A0C0]; rfl)
  · exact clrWrite h 0xB0C0 0xB000 11 rfl rfl (fun t => by rw [State.regWrite_B0C0]; unfold State.putReg; rw [State.rwReg_B0C0]; rfl)
  · exact clrWrite h 0xD0C0 0xD000 13 rfl rfl (fun t => by rw [State.regWrite_D0C0]; unfold State.putReg; rw [State.rwReg_D0C0]; rfl)

/-- What the row PW_CNT_CLR does (R358). -/
theorem exec_pwCntClr :
    (∀ e ∈ [(Instr.gcCntClr, 0), (.pwCntClr, 9)], ∀ s : State, s.ck.phase ≠ .held →
      ∃ t, exec e.1 s = .next t ∧ (∀ o, t.counter o = if o / 0x1000 = e.2 then 0 else s.counter o) ∧ t.still = s.still) := by
  intro e he s h
  simp only [List.mem_cons, List.not_mem_nil, or_false] at he
  rcases he with he|he <;> subst he
  · exact clrWriteAon h 0x00C0 0 0 rfl rfl (fun t => by rw [State.regWrite_00C0]; unfold State.putReg; rw [State.rwReg_00C0]; rfl)
  · exact clrWriteAon h 0x90C0 0x9000 9 rfl rfl (fun t => by rw [State.regWrite_90C0]; unfold State.putReg; rw [State.rwReg_90C0]; rfl)

/-- What the row PF_CNT_CLR does (R92). -/
theorem exec_pfCntClr :
    (∀ (s : State) (p : Nat), s.Serving → p < s.nPorts →
      ∃ t, exec (.pfCntClr p) s = .next t ∧
        (∀ o, 0x10000 + 0x400 * p ≤ o → o ≤ 0x100FF + 0x400 * p → t.counter o = 0) ∧
        (∀ o, (o < 0x10000 + 0x400 * p ∨ 0x100FF + 0x400 * p < o) → o ≠ CG_CNT_GATE_WAIT → t.counter o = s.counter o) ∧
        t.still = s.still) := by
  intro s p h hp
  have hp5 : p < 512 := Nat.lt_of_lt_of_le hp (nPorts_le s)
  refine ⟨_, rfl, ?_⟩
  have ho : 0x100C0 + p * 0x400 = 0x10000 + p * 0x400 + 0xC0 := by omega
  have ha : alwaysOn (0x100C0 + p * 0x400) = false := by unfold alwaysOn; simp; omega
  rw [State.writeBy_serving h _ _ _ _ ha]
  have hw : ∀ t : State, p < t.nPorts → t.regWrite .host (0x100C0 + p * 0x400) false 1 =
      t.clearCounters (0x10000 + p * 0x400) (0x10000 + p * 0x400 + 0x0FF) := by
    intro t ht
    obtain ⟨h1, h2⟩ := rwReg_port t p 0xC0 ht (by decide)
    rw [← ho] at h1 h2
    have h3 : t.rwReg (0x100C0 + p * 0x400) = none := by rw [h1]; simp [portReg]
    have h4 : (0x100C0 + p * 0x400 - 0x10000) % 0x400 = 0xC0 := by omega
    have hs : slotAt (0x100C0 + p * 0x400) = none := by
      unfold slotAt; rw [if_neg (by omega), if_neg (by omega)]
    have hi : t.isWide .host (0x100C0 + p * 0x400) = false := by
      have hc : t.isCounter (0x100C0 + p * 0x400) = false := by
        have hr : ∀ lo hi, hi < 0x10000 → inRun lo hi (0x100C0 + p * 0x400) = false := by
          intro lo hi hh; unfold inRun; simp; omega
        have hb : ∀ b z n, 0 < z → b + z * n ≤ 0x10000 → blockAt b z n (0x100C0 + p * 0x400) = none := by
          intro b z n hz hh
          unfold blockAt
          rw [if_neg]
          intro ⟨_, hx⟩
          have := (Nat.div_lt_iff_lt_mul hz).1 hx
          have h' := Nat.mul_comm z n
          omega
        unfold State.isCounter
        simp only [hr, hb 0x5400 0x40 8 (by decide) (by decide), hb 0xB400 0x30 64 (by decide) (by decide), h2, h4, Nat.reduceLT,
          Bool.or_false, Bool.and_false, Option.isSome_none, Bool.false_and]
        simp [inRun, PF_LOG_DROP]
        exact decide_eq_false (by omega)
      unfold State.isWide State.regAt
      rw [h3, hc, h2, h4]
      simp [State.pfView]
    rw [State.regWrite_word t .host _ 1 (by omega) (by omega) hs hi (fun h => absurd h (by omega))]
    unfold State.putReg
    rw [h3]
    unfold State.putOther
    rw [h2, h4]
    rfl
  rw [hw _ (by obtain ⟨c, o, b, g, hf, _⟩ := s.touch_form .host (0x100C0 + p * 0x400); rw [hf]; exact hp)]
  refine ⟨?_, ?_, ?_⟩
  · intro o h1 h2
    rw [State.counter_clear, if_pos (by omega)]
  · intro o h1 h2
    rw [State.counter_clear, if_neg (by omega), State.touch_counter _ _ _ _ h2]
  · rw [← State.touch_still s .host (0x100C0 + p * 0x400)]; rfl

set_option maxRecDepth 20000 in

theorem fixed_find : ∀ r ∈ fixedRegs, (fixedRegs.find? fun q => q.off = r.off) = some r ∧ r.off < 0x10000 ∧ r.off % 4 = 0 ∧
    slotAt r.off = none := by decide

theorem fixed_rwReg (t : State) (r : Reg) (h : r ∈ fixedRegs) : t.rwReg r.off = some r := by
  obtain ⟨h1, h2, _⟩ := fixed_find r h
  unfold State.rwReg
  rw [State.portAt_low _ _ h2]
  dsimp only
  rw [if_neg (by omega), h1]

theorem fixed_isWide (t : State) (m : Master) (r : Reg) (h : r ∈ fixedRegs) (hb : r.bytes = 4) : t.isWide m r.off = false := by
  unfold State.isWide State.regAt
  rw [fixed_rwReg t r h]
  simp [hb]

set_option maxRecDepth 20000 in

theorem fixed_below : ∀ r ∈ fixedRegs, r.bytes = 4 → r.off % 8 = 4 →
    (r.off - 4 = 0x10 ∨ r.off - 4 = 0x8040 ∨ ∃ q ∈ fixedRegs, q.off = r.off - 4 ∧ q.bytes = 4) := by decide

set_option maxRecDepth 20000 in

theorem fixed_plain : ∀ r ∈ fixedRegs, r ∉ [CG_CTL, CG_CLKOUT, TD_SLEW, IM_CTL, IM_CAL_CFG, ZC_CTL, ZC_TMO, CP_OWN, CP_RING_CFG] →
    (r.off ≠ CG_CTL.off ∧ r.off ≠ CG_CLKOUT.off ∧ r.off ≠ IM_CTL.off ∧ r.off ≠ IM_CAL_CFG.off ∧ r.off ≠ ZC_CTL.off ∧ r.off ≠ CP_OWN.off ∧
     r.off ≠ CP_RING_CFG.off ∧ r.off ≠ BT_CTL.off ∧ r.off ≠ BT_TAP_EN.off ∧ r.off ≠ TD_SLEW.off ∧ r.off ≠ ZC_TMO.off) ∧
    (r.off / 0x1000 = 2 → blockAt 0x2400 0x10 11 r.off = none) ∧ (r.off / 0x1000 = 5 → blockAt 0x5400 0x40 8 r.off = none) ∧
    (r.off / 0x1000 = 7 → profileReg r.off = none) ∧ r.off / 0x1000 ≠ 11 := by decide

theorem fixed_write (t : State) (r : Reg) (v : Nat) (h : r ∈ fixedRegs) (hb : r.bytes = 4)
    (hn : r ∉ [CG_CTL, CG_CLKOUT, TD_SLEW, IM_CTL, IM_CAL_CFG, ZC_CTL, ZC_TMO, CP_OWN, CP_RING_CFG]) (hv : v < 2 ^ 32) :
    t.regWrite .host r.off false v = t.wr r v := by
  obtain ⟨h1, h2, h3, h4⟩ := fixed_find r h
  rw [State.regWrite_word t .host r.off v h3 (by omega) h4 (fixed_isWide t .host r h hb), Nat.mod_eq_of_lt hv]
  · unfold State.putReg
    rw [fixed_rwReg t r h]
    dsimp only
    unfold State.putRw
    dsimp +zetaHave only
    rw [State.portAt_low _ _ h2]
    obtain ⟨⟨e1, e2, e3, e4, e5, e6, e7, e8, e9, e10, e11⟩, b2, b5, b7, b11⟩ := fixed_plain r h hn
    simp only [e1, e2, e3, e4, e5, e6, e7, e8, e9, e10, e11, if_false]
    unfold State.putBlock
    dsimp +zetaHave only
    by_cases c2 : r.off / 0x1000 = 2
    · rw [if_pos c2, b2 c2]
    · rw [if_neg c2]
      by_cases c5 : r.off / 0x1000 = 5
      · rw [if_pos c5, b5 c5]
      · rw [if_neg c5, if_neg, if_neg (by omega)]
        intro hh
        rw [b7 hh.1] at hh
        exact absurd hh.2 (by simp)
  · intro h8
    rcases fixed_below r h hb h8 with hh | hh | ⟨q, hq, hq1, hq2⟩
    · rw [hh]; exact t.isWide_0010 .host
    · rw [hh]; exact t.isWide_8040 .host
    · rw [← hq1]; exact fixed_isWide t .host q hq hq2

set_option maxRecDepth 20000 in

theorem mask_small : ∀ r ∈ fixedRegs, r.mask < 2 ^ 64 := by decide

theorem hostWrite (s : State) (off v : Nat) (h : s.Serving) : exec (.registerWrite .host off 4 v) s =
    .next ((if alwaysOn off then s else s.touch .host off).regWrite .host off false v) := by
  have e : exec (.registerWrite .host off 4 v) s = .next (s.writeBy .host off false v) := rfl
  rw [e]
  by_cases ha : alwaysOn off = true
  · rw [State.writeBy_aon h.1 _ _ _ _ ha, if_pos ha]
  · rw [State.writeBy_serving h _ _ _ _ (by simpa using ha), if_neg ha]

theorem still_wr {s u : State} (h : u.still = s.still) (r : Reg) (v : Nat) : (u.wr r v).still = (s.wr r v).still := by
  have hr : u.regs = s.regs := by have := congrArg State.regs h; exact this
  have h1 : ∀ z : State, (z.wr r v).still = { z.still with regs := (z.wr r v).regs } := fun _ => rfl
  rw [h1, h1, h]
  unfold State.wr
  rw [hr]

theorem still_rd {s u : State} (h : u.still = s.still) (r : Reg) : u.rd r = s.rd r := by
  have hr : u.regs = s.regs := by have := congrArg State.regs h; exact this
  unfold State.rd; rw [hr]

/-- What the row REGISTER_WRITE does at a register that only stores (R7). -/
theorem exec_registerWrite :
    (∀ r ∈ fixedRegs, r.bytes = 4 →
    r ∉ [CG_CTL, CG_CLKOUT, TD_SLEW, IM_CTL, IM_CAL_CFG, ZC_CTL, ZC_TMO, CP_OWN, CP_RING_CFG] → ∀ (s : State) (v : Nat), s.Serving → v < 2 ^ 32 →
    ∃ t, exec (.registerWrite .host r.off 4 v) s = .next t ∧ t.rd r = v &&& r.mask ∧ (∀ q : Reg, q.off ≠ r.off → t.rd q = s.rd q) ∧
      t.still = (s.wr r v).still) := by
  intro r hr hb hn s v h hv
  refine ⟨_, hostWrite s r.off v h, ?_⟩
  rw [fixed_write _ r v hr hb hn hv]
  have hs : (if alwaysOn r.off then s else s.touch .host r.off).still = s.still := by
    split
    · rfl
    · exact s.touch_still _ _
  refine ⟨State.rd_wr _ r v (mask_small r hr), fun q hq => ?_, still_wr hs r v⟩
  rw [State.rd_wr_other _ _ _ _ hq, still_rd hs]

/-- A write of TD_SLEW stores the limit and forms R_out again with it (R118). -/
theorem exec_registerWrite_2 :
    (∀ (s : State) (v : Nat), s.Serving → v < 2 ^ 32 →
    ∃ t, exec (.registerWrite .host TD_SLEW.off 4 v) s = .next t ∧ t.rd TD_SLEW = v &&& TD_SLEW.mask ∧
      (∀ q : Reg, q.off ≠ TD_SLEW.off → t.rd q = s.rd q) ∧ t.still = (s.wr TD_SLEW v).resteer.still ∧
      (s.td.acq = true → (s.servo s.td.sel).st = .track →
        t.td.rOut = clamp40 ((s.servo s.td.sel).f + clampI (-slewUnits t.slewLimit) (slewUnits t.slewLimit) (sar (toRate s.steerErr) s.kpShift)))) := by
  intro s v h hv
  refine ⟨_, hostWrite s _ v h, ?_⟩
  rw [show alwaysOn TD_SLEW.off = false from rfl, if_neg (by decide)]
  have hw : (s.touch .host TD_SLEW.off).regWrite .host TD_SLEW.off false v = ((s.touch .host TD_SLEW.off).wr TD_SLEW v).resteer := by
    have hf : TD_SLEW ∈ fixedRegs := by decide
    obtain ⟨h1, h2, h3, h4⟩ := fixed_find _ hf
    rw [State.regWrite_word _ .host _ v h3 (by decide) h4 (fixed_isWide _ .host _ hf rfl), Nat.mod_eq_of_lt hv]
    · unfold State.putReg
      rw [fixed_rwReg _ _ hf]
      dsimp only
      unfold State.putRw
      dsimp +zetaHave only
      rw [State.portAt_low _ _ h2]
      dsimp only
      rw [if_neg (by decide), if_pos rfl]
    · intro h8
      rcases fixed_below _ hf rfl h8 with hh | hh | ⟨q, hq, hq1, hq2⟩
      · exact absurd hh (by decide)
      · exact absurd hh (by decide)
      · rw [← hq1]; exact fixed_isWide _ .host q hq hq2
  rw [hw]
  have hs := s.touch_still .host TD_SLEW.off
  generalize s.touch .host TD_SLEW.off = u at hs ⊢
  have htd : (u.wr TD_SLEW v).td = s.td := by have := congrArg State.td hs; exact this
  have hregs : ∀ z : State, z.resteer.regs = z.regs := by intro z; unfold State.resteer; split <;> rfl
  have hrd : ∀ (z : State) (q : Reg), z.resteer.rd q = z.rd q := fun z q => by unfold State.rd; rw [hregs]
  have hst := still_wr hs TD_SLEW v
  have hsv : (u.wr TD_SLEW v).rd TD_SERVO = s.rd TD_SERVO := (State.rd_wr_other _ _ _ _ (by decide)).trans (still_rd hs _)
  have hyes : ∀ z : State, z.td = s.td → s.td.acq = true ∧ (s.servo s.td.sel).st = .track → z.resteer = z.steer := by
    intro z hz hc; unfold State.resteer; rw [if_pos]; unfold State.servo; rw [hz]; exact hc
  have hno : ∀ z : State, z.td = s.td → ¬ (s.td.acq = true ∧ (s.servo s.td.sel).st = .track) → z.resteer = z := by
    intro z hz hc; unfold State.resteer; rw [if_neg]; unfold State.servo; rw [hz]; exact hc
  refine ⟨?_, fun q hq => ?_, ?_, fun a1 a2 => ?_⟩
  · rw [hrd]; exact State.rd_wr _ _ v (by decide)
  · rw [hrd, State.rd_wr_other _ _ _ _ hq, still_rd hs]
  · generalize hz : u.wr TD_SLEW v = z at htd hst ⊢
    have ez : (s.wr TD_SLEW v).td = s.td := rfl
    generalize s.wr TD_SLEW v = y at ez hst ⊢
    by_cases hc : s.td.acq = true ∧ (s.servo s.td.sel).st = .track
    · rw [hyes z htd hc, hyes y ez hc]
      have hr : z.regs = y.regs := by have := congrArg State.regs hst; exact this
      have h1 : ∀ w : State, w.steer.still = { w.still with td := w.steer.td } := fun _ => rfl
      rw [h1, h1, hst]
      unfold State.steer State.steerErr State.servo State.kpShift State.slewLimit State.fl State.rd
      dsimp +zetaHave only
      rw [htd, ez, hr]
    · rw [hno z htd hc, hno y ez hc, hst]
  · have hl : (u.wr TD_SLEW v).resteer.slewLimit = (u.wr TD_SLEW v).slewLimit := by unfold State.slewLimit State.fl; rw [hrd]
    rw [hl, hyes _ htd ⟨a1, a2⟩]
    generalize u.wr TD_SLEW v = z at htd hsv ⊢
    unfold State.steer State.steerErr State.servo State.kpShift State.fl
    dsimp +zetaHave only
    rw [htd, hsv]

/-- A write of ZC_TMO stores outside compatibility mode nothing (R228). -/
theorem exec_registerWrite_3 :
    (∀ (s : State) (v : Nat), s.Serving → v < 2 ^ 32 →
    ∃ t, exec (.registerWrite .host ZC_TMO.off 4 v) s = .next t ∧ t.rd ZC_TMO = (if s.compat then v &&& ZC_TMO.mask else s.rd ZC_TMO) ∧
      (∀ q : Reg, q.off ≠ ZC_TMO.off → t.rd q = s.rd q) ∧ t.still = (if s.compat then s.wr ZC_TMO v else s).still) := by
  intro s v h hv
  refine ⟨_, hostWrite s _ v h, ?_⟩
  rw [show alwaysOn ZC_TMO.off = false from rfl, if_neg (by decide)]
  have hs := s.touch_still .host ZC_TMO.off
  generalize s.touch .host ZC_TMO.off = u at hs ⊢
  have hw : u.regWrite .host ZC_TMO.off false v = if u.compat then u.wr ZC_TMO v else u := by
    have hf : ZC_TMO ∈ fixedRegs := by decide
    obtain ⟨h1, h2, h3, h4⟩ := fixed_find _ hf
    rw [State.regWrite_word _ .host _ v h3 (by decide) h4 (fixed_isWide _ .host _ hf rfl), Nat.mod_eq_of_lt hv]
    · unfold State.putReg
      rw [fixed_rwReg _ _ hf]
      dsimp only
      unfold State.putRw
      dsimp +zetaHave only
      rw [State.portAt_low _ _ h2]
      rfl
    · intro h8
      rcases fixed_below _ hf rfl h8 with hh | hh | ⟨q, hq, hq1, hq2⟩
      · exact absurd hh (by decide)
      · exact absurd hh (by decide)
      · rw [← hq1]; exact fixed_isWide _ .host q hq hq2
  rw [hw, show u.compat = s.compat by unfold State.compat State.bit; rw [still_rd hs]]
  by_cases hc : s.compat = true
  · rw [if_pos hc, if_pos hc, if_pos hc]
    exact ⟨State.rd_wr _ _ v (by decide), fun q hq => by rw [State.rd_wr_other _ _ _ _ hq, still_rd hs], still_wr hs _ v⟩
  · rw [if_neg hc, if_neg hc, if_neg hc]
    exact ⟨still_rd hs _, fun q _ => still_rd hs q, hs⟩

theorem reduceRead32 (s : State) (m : Master) (off : Nat) (h4 : off % 4 = 0) (lo : off < 0x100000)
    (hf : (s.readDoes m off).showsFree off = false) : (s.regRead m off false).1 = s.readDoes m off := by
  unfold State.regRead
  rw [if_neg (by simp [h4]), if_neg (by omega)]
  simp only [Bool.false_eq_true, if_false]
  unfold State.drawn
  rw [hf]; simp

theorem reduceRead64 (s : State) (m : Master) (off : Nat) (h4 : off % 8 = 0) (lo : off < 0x100000)
    (h1 : ∀ t : State, t.showsFree off = false) (h2 : ∀ t : State, t.showsFree (off + 4) = false) :
    (s.regRead m off true).1 = (s.readDoes m off).readDoes m (off + 4) := by
  unfold State.regRead
  rw [if_neg (by simp [h4]), if_neg (by omega)]
  simp [State.drawn, h1, h2]

theorem showsFree_low (t : State) (off : Nat) (h : off < 0x10000) (h2 : off / 0x1000 ≠ 2) : t.showsFree off = false := by
  unfold State.showsFree
  rw [State.portAt_low t off h]
  have : blockAt 0x2400 0x10 11 off = none := by unfold blockAt; rw [if_neg (by omega)]
  rw [this]
  simp only [Bool.and_eq_false_iff, decide_eq_false_iff_not]
  left; omega

theorem readDoes_none (t : State) (m : Master) (off : Nat) (h0 : off ≠ 0x1000) (h1 : off ≠ 0x4040) (h : off < 0x10000)
    (h2 : off < 0x4100 ∨ 0x4300 ≤ off ∨ (off - 0x4100) % 0x40 ≠ 0x10) : t.readDoes m off = t := by
  unfold State.readDoes
  rw [if_neg h0, if_neg h1]
  split
  · rename_i k hk
    rw [if_neg]
    intro hh
    have : off < 0x5000 := by
      apply Classical.byContradiction; intro hx; rw [if_neg hx] at hk; cases hk
    rw [if_pos this] at hk
    unfold blockAt at hk
    split at hk
    · omega
    · cases hk
  · rw [State.portAt_low t off h]

theorem perMaster_put {α : Type} (x : PerMaster α) (m k : Master) (v : α) :
    (x.put m v).get k = if k = m then v else x.get k := by
  cases m <;> cases k <;> rfl

/-- What the row TD_NOW_NS_READ does (R42). -/
theorem exec_tdNowNsRead :
    (∀ (s : State) (m : Master), s.Serving → ∃ t, exec (.tdNowNsRead m) s = .next t ∧
      (t.td.now.get m).ns = (s.nowUnits / 65536).toNat % 1000000000 ∧ (t.td.now.get m).frac = (s.nowUnits % 65536).toNat ∧
      (t.td.now.get m).epoch = (s.nowUnits / 65536).toNat % 2 ^ 64 ∧ (t.td.now.get m).stat = s.nowStat ∧
      (∀ k, k ≠ m → t.td.now.get k = s.td.now.get k) ∧ t.still = ({ s with td := { s.td with now := t.td.now } } : State).still) := by
  intro s m h
  refine ⟨_, rfl, ?_⟩
  rw [State.readBy_serving h _ _ _ rfl]
  obtain ⟨c, o, b, g, ht, _⟩ := s.touch_form m 0x1000
  rw [ht, reduceRead32 _ _ _ (by decide) (by decide) (showsFree_low _ _ (by decide) (by decide))]
  unfold State.readDoes
  rw [if_pos rfl]
  unfold State.latchNow
  dsimp +zetaHave only
  simp only [perMaster_put, if_true]
  refine ⟨by trivial, by trivial, by trivial, by trivial, ?_, by trivial⟩
  intro k hk; rw [if_neg hk]

/-- What the row PF_STAMP_LO_READ does (R85). -/
theorem exec_pfStampLoRead :
    (∀ (s : State) (m : Master) (p : Nat), s.Serving → p < s.nPorts → ∃ t, exec (.pfStampLoRead m p) s = .next t ∧
      (t.port p).fifo = (s.port p).fifo.tail ∧ (t.port p).latch.get m = (s.port p).fifo.headD {} ∧
      (∀ k, k ≠ m → (t.port p).latch.get k = (s.port p).latch.get k) ∧ (∀ q, q ≠ p → t.port q = s.port q) ∧
      t.still = (s.popStamp m p).still) := by
  intro s m p h hp
  refine ⟨_, rfl, ?_⟩
  have hp5 : p < 512 := Nat.lt_of_lt_of_le hp (nPorts_le s)
  have ha : alwaysOn (0x10048 + p * 0x400) = false := by unfold alwaysOn; simp; omega
  rw [State.readBy_serving h _ _ _ ha]
  obtain ⟨c, o, b, g, ht, _⟩ := s.touch_form m (0x10048 + p * 0x400)
  rw [ht]
  generalize hu : ({ s with cnt := c, out := o, pw := { s.pw with busy := b }, ck := { s.ck with gates := g } } : State) = u
  have hpu : p < u.nPorts := by rw [← hu]; exact hp
  have hports : u.ports = s.ports := by rw [← hu]
  have h1 : ∀ t : State, p < t.nPorts → t.portAt (0x10048 + p * 0x400) = some p ∧ t.portAt (0x10048 + p * 0x400 + 4) = some p := by
    intro t htp
    have e1 := (rwReg_port t p 0x48 htp (by decide)).2
    have e2 := (rwReg_port t p 0x4C htp (by decide)).2
    rw [show 0x10000 + p * 0x400 + 0x48 = 0x10048 + p * 0x400 by omega] at e1
    rw [show 0x10000 + p * 0x400 + 0x4C = 0x10048 + p * 0x400 + 4 by omega] at e2
    exact ⟨e1, e2⟩
  have hsf : ∀ t : State, p < t.nPorts → t.showsFree (0x10048 + p * 0x400) = false ∧ t.showsFree (0x10048 + p * 0x400 + 4) = false := by
    intro t htp
    obtain ⟨e1, e2⟩ := h1 t htp
    unfold State.showsFree
    rw [e1, e2]
    constructor <;> simp only [Bool.and_eq_false_iff, decide_eq_false_iff_not] <;> left <;> omega
  have hblk : ∀ d, 0x10048 + p * 0x400 ≤ d → (if d < 0x5000 then blockAt 0x4100 0x40 8 d else none) = none := by
    intro d hd; rw [if_neg (by omega)]
  have hd1 : u.readDoes m (0x10048 + p * 0x400) = u.popStamp m p := by
    unfold State.readDoes
    rw [if_neg (by omega), if_neg (by omega), hblk _ (by omega)]
    simp only [(h1 u hpu).1]
    rw [if_pos (by omega)]
  have hpp : p < (u.popStamp m p).nPorts := hpu
  have hd2 : (u.popStamp m p).readDoes m (0x10048 + p * 0x400 + 4) = u.popStamp m p := by
    unfold State.readDoes
    rw [if_neg (by omega), if_neg (by omega), hblk _ (by omega)]
    simp only [(h1 _ hpp).2]
    rw [if_neg (by omega)]
  have hrd : (u.regRead m (0x10048 + p * 0x400) true).1 = u.popStamp m p := by
    unfold State.regRead
    rw [if_neg (by simp; omega), if_neg (by omega)]
    simp only [if_true, hd1, hd2]
    simp [State.drawn, (hsf _ hpp).1, (hsf _ hpp).2]
  rw [hrd]
  unfold State.popStamp State.setPort State.port
  dsimp +zetaHave only
  rw [hports]
  simp only [Map.get_set_same, perMaster_put, if_true]
  refine ⟨by trivial, by trivial, ?_, ?_, ?_⟩
  · intro k hk; rw [if_neg hk]
  · intro q hq; rw [Map.get_set_other _ _ _ _ _ hq]
  · rw [← hu]; rfl

/-- What the row IM_SK_COUNT_READ does (R221). -/
theorem exec_imSkCountRead :
    (∀ (s : State) (m : Master) (k : Nat), s.Serving → k < 8 → ∃ t, exec (.imSkCountRead m k) s = .next t ∧
      t.im.latch.get m = (s.im.latch.get m).set {} k (s.im.stats.get {} k) ∧ (∀ j, j ≠ m → t.im.latch.get j = s.im.latch.get j) ∧
      t.still = ({ s with im := { s.im with latch := t.im.latch } } : State).still) := by
  intro s m k h hk
  have : execImSkCountRead m k s = .next (s.readBy m (0x4110 + k * 0x40) false) := by unfold execImSkCountRead; rw [if_pos hk]
  refine ⟨_, this, ?_⟩
  have ha : alwaysOn (0x4110 + k * 0x40) = false := by unfold alwaysOn; simp; omega
  rw [State.readBy_serving h _ _ _ ha]
  obtain ⟨c, o, b, g, ht, _⟩ := s.touch_form m (0x4110 + k * 0x40)
  rw [ht, reduceRead32 _ _ _ (by omega) (by omega) (showsFree_low _ _ (by omega) (by omega))]
  generalize hu : ({ s with cnt := c, out := o, pw := { s.pw with busy := b }, ck := { s.ck with gates := g } } : State) = u
  have hd : u.readDoes m (0x4110 + k * 0x40) = u.latchStat m k := by
    unfold State.readDoes
    rw [if_neg (by omega), if_neg (by omega), if_pos (by omega)]
    have : blockAt 0x4100 0x40 8 (0x4110 + k * 0x40) = some k := by
      unfold blockAt
      have e : (0x4110 + k * 0x40 - 0x4100) / 0x40 = k := by omega
      rw [e, if_pos (by omega)]
    rw [this]
    dsimp only
    rw [if_pos (by omega)]
  rw [hd, ← hu]
  unfold State.latchStat
  simp only [perMaster_put, if_true]
  refine ⟨by trivial, ?_, by trivial⟩
  intro j hj; rw [if_neg hj]

/-- What the row IM_RAW_LO_READ does (R222). -/
theorem exec_imRawLoRead :
    (∀ (s : State) (m : Master), s.Serving → ∃ t, exec (.imRawLoRead m) s = .next t ∧
      t.im.raw = s.im.raw.tail ∧ t.im.rawLatch.get m = s.im.raw.headD {} ∧ (∀ k, k ≠ m → t.im.rawLatch.get k = s.im.rawLatch.get k) ∧
      t.still = ({ s with im := { s.im with raw := t.im.raw, rawLatch := t.im.rawLatch } } : State).still) := by
  intro s m h
  refine ⟨_, rfl, ?_⟩
  rw [State.readBy_serving h _ _ _ rfl]
  obtain ⟨c, o, b, g, ht, _⟩ := s.touch_form m 0x4040
  rw [ht, reduceRead64 _ _ _ (by decide) (by decide) (fun t => showsFree_low t _ (by decide) (by decide))
    (fun t => showsFree_low t _ (by decide) (by decide))]
  rw [readDoes_none _ _ (0x4040 + 4) (by decide) (by decide) (by decide) (by decide)]
  unfold State.readDoes
  rw [if_neg (by decide), if_pos rfl]
  unfold State.popRaw
  simp only [perMaster_put, if_true]
  exact ⟨by trivial, by trivial, fun k hk => by rw [if_neg hk], by trivial⟩

/-- What the row OD_WINDOW_READ does (R280). -/
theorem exec_odWindowRead :
    (∀ (s : State) (m : Master) (k : Nat), s.Serving → s.isEave = true → k < 65536 → ∃ t,
      exec (.odWindowRead m (16 * k)) s = .next t ∧ t.od.latch.get m = some (k, s.slotHi k) ∧ (∀ j, j ≠ m → t.od.latch.get j = s.od.latch.get j) ∧
      t.still = ({ s with od := { s.od with latch := t.od.latch } } : State).still) := by
  intro s m k h he hk
  refine ⟨_, rfl, ?_⟩
  have e0 : 0x100000 + 16 * k % 0x100000 / 8 * 8 = 0x100000 + 16 * k := by omega
  rw [e0]
  have ha : alwaysOn (0x100000 + 16 * k) = false := by unfold alwaysOn; simp; omega
  rw [State.readBy_serving h _ _ _ ha]
  obtain ⟨c, o, b, g, ht, _⟩ := s.touch_form m (0x100000 + 16 * k)
  rw [ht]
  generalize hu : ({ s with cnt := c, out := o, pw := { s.pw with busy := b }, ck := { s.ck with gates := g } } : State) = u
  have he' : u.isEave = true := by rw [← hu]; exact he
  unfold State.regRead
  rw [if_neg (by simp; omega), if_pos (by omega), if_pos he']
  have e1 : (0x100000 + 16 * k - 0x100000) / 16 = k := by omega
  have e2 : (0x100000 + 16 * k) % 16 = 0 := by omega
  rw [e1, e2]
  unfold State.windowRead
  simp only [if_true, perMaster_put]
  rw [← hu]
  exact ⟨by trivial, fun j hj => by rw [if_neg hj], by trivial⟩

end Sys2Proof.Machine
end

