-- ==== Sys2Proof/Laws/RowsSends.lean ====
section
/-! SUPPORT. Sys2Proof/Laws/RowsSends.lean: the messages a port sends of its own. -/

set_option linter.all false
set_option Elab.async false

namespace Sys2Proof.Machine
open Sys2Proof Sys2Proof.Config

theorem open_may {s : State} {p : Nat} (h : s.QueueOpen p) (b : Body) (hb : b.inAdmission = true) (hc : ∀ n, b ≠ .cal n) : s.maySend p b = true := by
  unfold State.maySend
  dsimp +zetaHave only
  rw [h.1, h.2.1]
  cases b <;> first | exact absurd rfl (hc _) | (dsimp only; cases hh : (s.port p).health <;> first | rfl | exact hb | exact absurd hh h.2.2.1)

/-- A frame queued on a port whose queue is open, after a change of the port that leaves that alone. -/
theorem open_send {s w : State} {p : Nat} (h : s.QueueOpen p) (b : Body) (hb : b.inAdmission = true) (hc : ∀ n, b ≠ .cal n) (hx : b.cls = .express)
    (v' : Port) (w1 : w.port p = v') (w2 : ∀ q, q ≠ p → w.port q = s.port q) (w3 : w.wire = s.wire)
    (e1 : v'.up = (s.port p).up) (e2 : v'.health = (s.port p).health) (e3 : v'.mismatch = (s.port p).mismatch)
    (e4 : v'.xq = (s.port p).xq) (e5 : v'.xWait = (s.port p).xWait) :
    (w.xsend p b).wire = s.wire ∧ (∀ q, q ≠ p → (w.xsend p b).port q = s.port q) ∧ (w.xsend p b).cnt = w.cnt ∧
      (w.xsend p b).port p = { v' with xq := (s.port p).xq ++ [{ body := b }] } := by
  have hw : w.QueueOpen p := by
    obtain ⟨a1, a2, a3, a4, a5, a6⟩ := h
    obtain ⟨_, r2, _, _, _, _, _, _, _, _, r11, _⟩ := wire_parts w3
    refine ⟨?_, ?_, ?_, ?_, ?_, ?_⟩
    · unfold State.isUp State.enabled State.bit State.rd at a1 ⊢
      rw [r2, w1, e1]; exact a1
    · unfold State.underlay at a2 ⊢; rw [r11]; exact a2
    · rw [w1, e2]; exact a3
    · rw [w1, e3]; exact a4
    · rw [w1, e4]; exact a5
    · rw [w1, e5]; exact a6
  obtain ⟨x1, x2⟩ := xsend_express w p b (open_may hw b hb hc) (.inl hw.2.2.2.1) hx hw.2.2.2.2.1 hw.2.2.2.2.2
  refine ⟨(State.xsend_wire _ _ _).trans w3, fun q hq => by rw [(xsend_ports w p b).2 q hq, w2 q hq], x2, ?_⟩
  rw [x1, w1, e4]

/-- What the rows SYNC_SEND, ANNOUNCE_SEND, HELLO_SEND, KEEPALIVE_SEND, ESMC_INFO_SEND, KEEPALIVE_LOSS and others
do (R83, R87, R97, R100, R104, R105). -/
theorem exec_syncSend_announceSend_helloSend_more :
    (∀ (s : State) (p : Nat), s.up = true → p < s.nPorts →
      (s.syncDue p = false → exec (.syncSend p) s = .next s) ∧ (s.announceDue p = false → exec (.announceSend p) s = .next s) ∧
      (s.helloDue p = false → exec (.helloSend p) s = .next s) ∧ (s.keepaliveDue p = false → exec (.keepaliveSend p) s = .next s) ∧
      (s.esmcDue p = false → exec (.esmcInfoSend p) s = .next s) ∧ (s.lossDue p s.clk.ticks = false → exec (.keepaliveLoss p) s = .next s) ∧
      ((s.port p).lower = none → exec (.delayReqSend p) s = .next s) ∧ ((s.port p).upper.t4 = none → exec (.delayRespSend p) s = .next s) ∧
      ((s.port p).rpl.unacked < s.ackEvery p → exec (.ackSend p) s = .next s)) := by
  have k1 : ∀ (s : State) p, exec (.syncSend p) s = s.atPort p fun s => s.syncSend p := fun _ _ => rfl
  have k2 : ∀ (s : State) p, exec (.announceSend p) s = s.atPort p fun s => s.announceSend p := fun _ _ => rfl
  have k3 : ∀ (s : State) p, exec (.helloSend p) s = s.atPort p fun s => s.helloSend p := fun _ _ => rfl
  have k4 : ∀ (s : State) p, exec (.keepaliveSend p) s = s.atPort p fun s => s.keepaliveSend p := fun _ _ => rfl
  have k5 : ∀ (s : State) p, exec (.esmcInfoSend p) s = s.atPort p fun s => s.esmcSend p := fun _ _ => rfl
  have k6 : ∀ (s : State) p, exec (.keepaliveLoss p) s = s.atPort p fun s => if s.lossDue p s.clk.ticks = true then s.keepaliveLost p else s := fun _ _ => rfl
  have k7 : ∀ (s : State) p, exec (.delayReqSend p) s = s.atPort p fun s => s.delayReqSend p := fun _ _ => rfl
  have k8 : ∀ (s : State) p, exec (.delayRespSend p) s = s.atPort p fun s => s.delayRespSend p := fun _ _ => rfl
  have k9 : ∀ (s : State) p, exec (.ackSend p) s = s.atPort p fun s => if s.ackEvery p ≤ (s.port p).rpl.unacked then s.sendAck p else s := fun _ _ => rfl
  intro s p hup hp
  rw [k1, k2, k3, k4, k5, k6, k7, k8, k9]
  repeat rw [atPort_in hup hp]
  refine ⟨?_, ?_, ?_, ?_, ?_, ?_, ?_, ?_, ?_⟩
  · intro h; unfold State.syncSend; rw [h]; rfl
  · intro h; unfold State.announceSend; rw [h]; rfl
  · intro h; unfold State.helloSend; rw [h]; rfl
  · intro h; unfold State.keepaliveSend; rw [h]; rfl
  · intro h; unfold State.esmcSend; rw [h]; rfl
  · intro h; rw [if_neg (by rw [h]; decide)]
  · intro h; unfold State.delayReqSend; rw [h]
  · intro h; unfold State.delayRespSend; dsimp +zetaHave only; rw [h]
  · intro h; rw [if_neg (by omega)]

/-- What the rows SYNC_SEND, ANNOUNCE_SEND, DELAY_REQ_SEND, DELAY_RESP_SEND, HELLO_SEND, KEEPALIVE_SEND and others
do (R83, R87, R97, R100, R104, R105). -/
theorem exec_syncSend_announceSend_delayReqSend_more :
    (∀ (s : State) (p : Nat) (v : Port), s.up = true → p < s.nPorts → v = s.port p → s.QueueOpen p →
      (s.bit TD_CTL 0 = true → v.role.isUpper = true → s.td.acq = true →
        (s.clk.course % 1024 = (2 * p) % 1024 → v.lastSent.get 0 0 ≠ s.clk.course + 1 →
          ∃ t, exec (.syncSend p) s = .next t ∧ t.wire = s.wire ∧ (∀ q, q ≠ p → t.port q = s.port q) ∧ t.cnt = s.cnt ∧
            t.port p = { v with lastSent := v.lastSent.set 0 0 (s.clk.course + 1), xq := v.xq ++ [{ body := .sync (v.nextSeq 0) }] }) ∧
        (s.clk.course % 16384 = 2 * p + 1 → v.lastSent.get 0 0xB ≠ s.clk.course + 1 →
          ∃ t, exec (.announceSend p) s = .next t ∧ t.wire = s.wire ∧ (∀ q, q ≠ p → t.port q = s.port q) ∧
            t.port p = { v with lastSent := v.lastSent.set 0 0xB (s.clk.course + 1), xq := v.xq ++ [{ body := .announce s.announceBody.2 }] })) ∧
      (s.bit TD_CTL 0 = true →
        (∀ x, v.lower = some x → x.asked = false → x.rxTick < s.clk.ticks →
          ∃ t, exec (.delayReqSend p) s = .next t ∧ t.wire = s.wire ∧ (∀ q, q ≠ p → t.port q = s.port q) ∧ t.cnt = s.cnt ∧
            t.port p = { v with lower := some { x with asked := true }, xq := v.xq ++ [{ body := .delayReq x.seq }] }) ∧
        (∀ t4, v.upper.t4 = some t4 → v.upper.reqTick < s.clk.ticks →
          (v.upper.good = false → exec (.delayRespSend p) s = .next ((s.setPort p { v with upper := {} }).count TD_CNT_EXCH_BAD)) ∧
          (v.upper.good = true → s.td.acq = true → ∃ t, exec (.delayRespSend p) s = .next t ∧ t.wire = s.wire ∧
            (∀ q, q ≠ p → t.port q = s.port q) ∧ t.cnt = s.cnt ∧ t.port p = { v with
              upper := {}, xq := v.xq ++ [{ body := .delayResp v.upper.reqSeq t4.t v.upper.reqClock v.upper.reqPort }] }))) ∧
      (v.peerSeen = none → v.upTick < s.clk.ticks → (s.clk.ticks - v.upTick) % 64 = 0 → v.lastSent.get 0 0x201 ≠ s.clk.course + 1 →
        ∃ t, exec (.helloSend p) s = .next t ∧ t.wire = s.wire ∧ (∀ q, q ≠ p → t.port q = s.port q) ∧ t.cnt = s.cnt ∧
          t.port p = { v with lastSent := v.lastSent.set 0 0x201 (s.clk.course + 1), xq := v.xq ++ [{ body := .hello (s.helloBody p) }] }) ∧
      (s.clk.course % 8 = p % 8 → v.lastSent.get 0 0x202 ≠ s.clk.course + 1 →
        ∃ t, exec (.keepaliveSend p) s = .next t ∧ t.wire = s.wire ∧ (∀ q, q ≠ p → t.port q = s.port q) ∧ t.cnt = s.cnt ∧
          t.port p = { v with
            lastSent := v.lastSent.set 0 0x202 (s.clk.course + 1), xq := v.xq ++ [{ body := .keepalive s.kaStatus s.td.te }] }) ∧
      (s.bit (PF_CTL p) 3 = true → (v.lastSent.get 0 0x100 = 0 ∨ v.lastSent.get 0 0x100 + 1000000 ≤ s.clk.ticks + 1) →
        v.health ≠ .admitting → v.tq.length < 16 →
        ∃ t, exec (.esmcInfoSend p) s = .next t ∧ t.wire = s.wire ∧ (∀ q, q ≠ p → t.port q = s.port q) ∧
          t.port p = { v with
            lastSent := v.lastSent.set 0 0x100 (s.clk.ticks + 1), tq := v.tq ++ [{ body := .esmcInfo s.qualityOrFree.2.2 }] }) ∧
      (s.ackEvery p ≤ v.rpl.unacked →
        ∃ t, exec (.ackSend p) s = .next t ∧ t.wire = s.wire ∧ (∀ q, q ≠ p → t.port q = s.port q) ∧ t.cnt = s.cnt ∧
          t.port p = { v with rpl := { v.rpl with unacked := 0 }, xq := v.xq ++ [{ body := .ack }] })) := by
  have k1 : ∀ (s : State) p, exec (.syncSend p) s = s.atPort p fun s => s.syncSend p := fun _ _ => rfl
  have k2 : ∀ (s : State) p, exec (.announceSend p) s = s.atPort p fun s => s.announceSend p := fun _ _ => rfl
  have k3 : ∀ (s : State) p, exec (.helloSend p) s = s.atPort p fun s => s.helloSend p := fun _ _ => rfl
  have k4 : ∀ (s : State) p, exec (.keepaliveSend p) s = s.atPort p fun s => s.keepaliveSend p := fun _ _ => rfl
  have k5 : ∀ (s : State) p, exec (.esmcInfoSend p) s = s.atPort p fun s => s.esmcSend p := fun _ _ => rfl
  have k7 : ∀ (s : State) p, exec (.delayReqSend p) s = s.atPort p fun s => s.delayReqSend p := fun _ _ => rfl
  have k8 : ∀ (s : State) p, exec (.delayRespSend p) s = s.atPort p fun s => s.delayRespSend p := fun _ _ => rfl
  have k9 : ∀ (s : State) p, exec (.ackSend p) s = s.atPort p fun s => if s.ackEvery p ≤ (s.port p).rpl.unacked then s.sendAck p else s := fun _ _ => rfl
  intro s p v hup hp hv ho
  have hup' := ho.1
  have hvp : s.port p = v := hv.symm
  have note : ∀ (x : State) key, x.ports = s.ports → x.clk = s.clk → (x.noteSent p key).port p = { v with lastSent := v.lastSent.set 0 key (s.clk.course + 1) } ∧
      (∀ q, q ≠ p → (x.noteSent p key).port q = s.port q) ∧ (x.noteSent p key).cnt = x.cnt := by
    intro x key hx hc
    unfold State.noteSent
    refine ⟨?_, fun q hq => ?_, rfl⟩
    · rw [modPort_same, port_ports hx, hvp, hc]
    · rw [modPort_other _ _ _ _ hq, port_ports hx]
  have noteW : ∀ (x : State) key, x.wire = s.wire → (x.noteSent p key).wire = s.wire := fun x key hx => (State.modPort_wire _ _ _).trans hx
  refine ⟨?_, ?_, ?_, ?_, ?_, ?_⟩
  · intro he hr ha
    refine ⟨?_, ?_⟩
    · intro hc hl
      rw [k1, atPort_in hup hp]
      have hd : s.syncDue p = true := by
        unfold State.syncDue State.transferOn State.unsent
        rw [he, hup', hvp, hr, ha, decide_eq_true hc, decide_eq_true hl]; rfl
      unfold State.syncSend
      rw [if_pos hd, hvp]
      obtain ⟨n1, n2, n3⟩ := note s 0 rfl rfl
      obtain ⟨x1, x2, x3, x4⟩ := open_send ho (.sync (v.nextSeq 0)) rfl (fun _ h => by cases h) rfl _ n1 n2 (noteW s 0 rfl) (by rw [hvp]) (by rw [hvp]) (by rw [hvp]; rfl) (by rw [hvp]) (by rw [hvp])
      exact ⟨_, rfl, x1, x2, x3.trans n3, by rw [x4, hvp]⟩
    · intro hc hl
      rw [k2, atPort_in hup hp]
      have hd : s.announceDue p = true := by
        unfold State.announceDue State.transferOn State.unsent
        rw [he, hup', hvp, hr, ha, decide_eq_true hc, decide_eq_true hl]; rfl
      unfold State.announceSend
      rw [if_pos hd]
      dsimp +zetaHave only
      have hb : s.announceBody.1.ports = s.ports ∧ s.announceBody.1.clk = s.clk ∧ s.announceBody.1.wire = s.wire := by
        have hq : s.qualityOrFree.1.ports = s.ports ∧ s.qualityOrFree.1.clk = s.clk ∧ s.qualityOrFree.1.wire = s.wire := by
          unfold State.qualityOrFree; split <;> exact ⟨rfl, rfl, rfl⟩
        unfold State.announceBody
        dsimp +zetaHave only
        split
        · exact hq
        · split <;> exact ⟨rfl, rfl, rfl⟩
      obtain ⟨n1, n2, n3⟩ := note s.announceBody.1 0xB hb.1 hb.2.1
      obtain ⟨x1, x2, x3, x4⟩ := open_send ho (.announce s.announceBody.2) rfl (fun _ h => by cases h) rfl _ n1 n2 (noteW _ _ hb.2.2) (by rw [hvp]) (by rw [hvp]) (by rw [hvp]; rfl) (by rw [hvp]) (by rw [hvp])
      exact ⟨_, rfl, x1, x2, by rw [x4, hvp]⟩
  · intro he
    have htr : s.transferOn p = true := by unfold State.transferOn; rw [he, hup']; rfl
    refine ⟨?_, ?_⟩
    · intro x hx h1 h2
      rw [k7, atPort_in hup hp]
      unfold State.delayReqSend
      rw [hvp, hx]
      dsimp only
      rw [if_pos ⟨h1, h2, htr⟩]
      have n1 : (s.modPort p fun v => { v with lower := some { x with asked := true } }).port p = { v with lower := some { x with asked := true } } := by rw [modPort_same, hvp]
      have n2 : ∀ q, q ≠ p → (s.modPort p fun v => { v with lower := some { x with asked := true } }).port q = s.port q := fun q hq => modPort_other _ _ _ _ hq
      obtain ⟨x1, x2, x3, x4⟩ := open_send ho (.delayReq x.seq) rfl (fun _ h => by cases h) rfl _ n1 n2 (State.modPort_wire _ _ _) (by rw [hvp]) (by rw [hvp]) (by rw [hvp]; rfl) (by rw [hvp]) (by rw [hvp])
      exact ⟨_, rfl, x1, x2, x3, by rw [x4, hvp]⟩
    · intro t4 h4 ht
      rw [k8, atPort_in hup hp]
      unfold State.delayRespSend
      dsimp +zetaHave only
      rw [hvp, h4]
      dsimp only
      rw [if_pos ⟨ht, htr⟩]
      refine ⟨?_, ?_⟩
      · intro hg; rw [if_pos hg]
      · intro hg ha
        rw [if_neg (by rw [hg]; decide), if_pos (show (s.setPort p { v with upper := {} }).td.acq = true from ha)]
        obtain ⟨x1, x2, x3, x4⟩ := open_send ho (.delayResp v.upper.reqSeq t4.t v.upper.reqClock v.upper.reqPort) rfl (fun _ h => by cases h) rfl _
          (setPort_same s p { v with upper := {} }) (fun q hq => setPort_other _ _ _ _ hq) (State.setPort_wire _ _ _) (by rw [hvp]) (by rw [hvp]) (by rw [hvp]; rfl) (by rw [hvp]) (by rw [hvp])
        exact ⟨_, rfl, x1, x2, x3, by rw [x4, hvp]⟩
  · intro h1 h2 h3 h4
    rw [k3, atPort_in hup hp]
    have hd : s.helloDue p = true := by
      unfold State.helloDue State.unsent
      dsimp +zetaHave only
      rw [hup', hvp, h1, decide_eq_true h2, decide_eq_true h3, decide_eq_true h4]; simp
    unfold State.helloSend
    rw [if_pos hd]
    obtain ⟨n1, n2, n3⟩ := note s 0x201 rfl rfl
    unfold State.sendHello
    have hb : (s.noteSent p 0x201).helloBody p = s.helloBody p := by
      unfold State.helloBody State.portNum State.isRidge
      rw [n1, hvp]; rfl
    rw [hb]
    obtain ⟨x1, x2, x3, x4⟩ := open_send ho (.hello (s.helloBody p)) rfl (fun _ h => by cases h) rfl _ n1 n2 (noteW s _ rfl) (by rw [hvp]) (by rw [hvp]) (by rw [hvp]; rfl) (by rw [hvp]) (by rw [hvp])
    exact ⟨_, rfl, x1, x2, x3.trans n3, by rw [x4, hvp]⟩
  · intro h1 h2
    rw [k4, atPort_in hup hp]
    have hd : s.keepaliveDue p = true := by
      unfold State.keepaliveDue State.unsent
      rw [hup', hvp, decide_eq_true h1, decide_eq_true h2]; rfl
    unfold State.keepaliveSend
    rw [if_pos hd]
    obtain ⟨n1, n2, n3⟩ := note s 0x202 rfl rfl
    obtain ⟨x1, x2, x3, x4⟩ := open_send ho (.keepalive s.kaStatus s.td.te) rfl (fun _ h => by cases h) rfl _ n1 n2 (noteW s _ rfl) (by rw [hvp]) (by rw [hvp]) (by rw [hvp]; rfl) (by rw [hvp]) (by rw [hvp])
    exact ⟨_, rfl, x1, x2, x3.trans n3, by rw [x4, hvp]⟩
  · intro h1 h2 h3 h4
    rw [k5, atPort_in hup hp]
    have hd : s.esmcDue p = true := by
      unfold State.esmcDue State.esmcOn
      dsimp +zetaHave only
      rw [hup', hvp, h1]
      rcases h2 with h2 | h2
      · rw [decide_eq_true h2]; rfl
      · rw [decide_eq_true h2]; simp
    unfold State.esmcSend
    rw [if_pos hd]
    dsimp +zetaHave only
    have hq : s.qualityOrFree.1.ports = s.ports ∧ s.qualityOrFree.1.clk = s.clk ∧ s.qualityOrFree.1.wire = s.wire := by
      unfold State.qualityOrFree; split <;> exact ⟨rfl, rfl, rfl⟩
    generalize s.qualityOrFree = Q at hq
    generalize hw : (Q.1.modPort p fun v => { v with lastSent := v.lastSent.set 0 0x100 (Q.1.clk.ticks + 1) }) = w
    have w1 : w.port p = { v with lastSent := v.lastSent.set 0 0x100 (s.clk.ticks + 1) } := by
      rw [← hw, modPort_same, port_ports hq.1, hvp, hq.2.1]
    have w2 : ∀ q, q ≠ p → w.port q = s.port q := fun q hq' => by rw [← hw, modPort_other _ _ _ _ hq', port_ports hq.1]
    have w3 : w.wire = s.wire := by rw [← hw]; exact (State.modPort_wire _ _ _).trans hq.2.2
    refine ⟨_, rfl, (State.xsend_wire _ _ _).trans w3, fun q hq' => by rw [(xsend_ports w p _).2 q hq', w2 q hq'], ?_⟩
    obtain ⟨a1, a2, a3, a4, a5, a6⟩ := ho
    obtain ⟨_, r2, _, _, _, _, _, _, _, _, r11, _⟩ := wire_parts w3
    have m1 : w.isUp p = true := by
      unfold State.isUp State.enabled State.bit State.rd at a1 ⊢
      rw [r2, w1]; rw [hvp] at a1; exact a1
    have m2 : w.underlay = false := by unfold State.underlay at a2 ⊢; rw [r11]; exact a2
    rw [hvp] at a3 a4
    have m3 : w.maySend p (.esmcInfo Q.2.2) = true := by
      unfold State.maySend
      dsimp +zetaHave only
      rw [m1, m2, w1]
      dsimp only
      cases hh : v.health <;> first | rfl | exact absurd hh a3 | exact absurd hh h3
    unfold State.xsend
    dsimp +zetaHave only
    rw [if_neg (by rw [m3]; decide), if_neg (by rw [w1]; rintro ⟨b, _⟩; exact absurd ((show v.mismatch = true from b).symm.trans a4) (by decide))]
    show State.port (if (w.port p).tq.length < 16 then _ else _) p = _
    rw [if_pos (by rw [w1]; exact h4), setPort_same, w1]
  · intro h1
    rw [k9, atPort_in hup hp, hvp, if_pos h1]
    have hn : v.rpl.unacked ≠ 0 := by
      have : 1 ≤ s.ackEvery p := by
        unfold State.ackEvery
        dsimp +zetaHave only
        split
        · rename_i hh; exact hh.1
        · decide
      omega
    unfold State.sendAck
    rw [hvp, if_neg hn]
    obtain ⟨x1, x2, x3, x4⟩ := open_send ho .ack rfl (fun _ h => by cases h) rfl v hvp (fun _ _ => rfl) rfl (by rw [hvp]) (by rw [hvp]) (by rw [hvp]) (by rw [hvp]) (by rw [hvp])
    dsimp +zetaHave only
    generalize s.xsend p .ack = z at x1 x2 x3 x4 ⊢
    have hz : ¬ (z.port p).xq.length = v.xq.length := by
      rw [x4, hvp]; dsimp only; rw [List.length_append, List.length_singleton]; omega
    rw [if_neg hz]
    refine ⟨_, rfl, (State.modPort_wire _ _ _).trans x1, fun q hq => by rw [modPort_other _ _ _ _ hq, x2 q hq], x3, ?_⟩
    rw [modPort_same, x4, hvp]

/-- What the row ACK_SEND does while the queue of class X is full (R87, R310). -/
theorem exec_ackSend :
    (∀ (s : State) (p : Nat) (v : Port), s.up = true → p < s.nPorts → v = s.port p → s.isUp p = true → s.underlay = false → v.health ≠ .retired →
      v.mismatch = false → 64 ≤ v.xq.length → s.ackEvery p ≤ v.rpl.unacked →
      ∃ t, exec (.ackSend p) s = .next t ∧ t.wire = s.wire ∧ t.ports = s.ports ∧
        t.counter TP_CNT_QFULL = (s.counter TP_CNT_QFULL + 1) % 2 ^ 32) := by
  intro s p v hup hp hv h1 h2 h3 h4 h5 h6
  have hvp : s.port p = v := hv.symm
  have k9 : exec (.ackSend p) s = s.atPort p fun s => if s.ackEvery p ≤ (s.port p).rpl.unacked then s.sendAck p else s := rfl
  rw [k9, atPort_in hup hp, hvp, if_pos h6]
  have hn : v.rpl.unacked ≠ 0 := by
    have : 1 ≤ s.ackEvery p := by
      unfold State.ackEvery
      dsimp +zetaHave only
      split
      · rename_i hh; exact hh.1
      · decide
    omega
  have hm : s.maySend p .ack = true := by
    unfold State.maySend
    dsimp +zetaHave only
    rw [h1, h2, hvp]
    cases hh : v.health <;> first | rfl | exact absurd hh h3
  have hx : s.xsend p .ack = (s.openGate 4).count TP_CNT_QFULL := by
    unfold State.xsend
    dsimp +zetaHave only
    rw [hvp, if_neg (by rw [hm]; decide), if_neg (by rw [h4]; simp)]
    show (if v.xq.length < 64 ∧ v.xWait = [] then _ else if Body.ack.droppable = true then _ else _) = _
    rw [if_neg (by omega), if_pos (show Body.ack.droppable = true from rfl)]
  obtain ⟨o, g, hop⟩ := s.openGate_form 4
  unfold State.sendAck
  rw [hvp, if_neg hn, hx]
  dsimp +zetaHave only
  have hp' : ((s.openGate 4).count TP_CNT_QFULL).port p = v := by rw [hop]; exact hvp
  rw [hp', if_pos rfl]
  refine ⟨_, rfl, ?_, by rw [hop]; rfl, ?_⟩
  · rw [← hx]; exact State.xsend_wire _ _ _
  · rw [count_same, openGate_counter]

/-- What the row KEEPALIVE_LOSS does (R105). -/
theorem exec_keepaliveLoss :
    (∀ (s : State) (p k : Nat) (v : Port), s.up = true → p < s.nPorts → v = s.port p → s.enabled p = true → v.lossDecl = false →
      v.kaTick = some k → k + 24 ≤ s.clk.ticks →
      ((v.health = .noTree ∨ v.health = .retired) → exec (.keepaliveLoss p) s = .next (s.setPort p { v with lossDecl := true })) ∧
      (v.health ≠ .noTree → v.health ≠ .retired →
        exec (.keepaliveLoss p) s = .next ((((s.setPort p { v with lossDecl := true }).count HF_CNT_LOST).evt 28).pathFault p))) := by
  have k6 : ∀ (s : State) p, exec (.keepaliveLoss p) s = s.atPort p fun s => if s.lossDue p s.clk.ticks = true then s.keepaliveLost p else s := fun _ _ => rfl
  intro s p k v hup hp hv he hl hk ht
  have hvp : s.port p = v := hv.symm
  have hd : s.lossDue p s.clk.ticks = true := by
    unfold State.lossDue
    dsimp +zetaHave only
    rw [he, hvp, hl, hk]
    dsimp only
    rw [decide_eq_true ht]; rfl
  rw [k6, atPort_in hup hp, if_pos hd]
  unfold State.keepaliveLost
  dsimp +zetaHave only
  rw [hvp]
  refine ⟨?_, ?_⟩
  · intro h; rw [if_pos h]
  · intro h1 h2
    rw [if_neg (by rintro (e | e); exact h1 e; exact h2 e)]

end Sys2Proof.Machine
end

