-- ==== Sys2Proof/Laws/RowsSeq.lean ====
section
/-! SUPPORT. Sys2Proof/Laws/RowsSeq.lean: the sequencer, pulses and freezes. -/

set_option linter.all false
set_option Elab.async false

namespace Sys2Proof.Machine
open Sys2Proof Sys2Proof.Config

/-- What the row PROGRAM_STORE_WRITE does (R230). -/
theorem exec_programStoreWrite (s : State) (k w : Nat) (h : s.Serving) (he : s.isEave = true) (hk : k < 16384) (hw : w < 2 ^ 64) :
    (s.sq.st.writable = true → ∃ t, exec (.programStoreWrite k w) s = .next t ∧ t.word k = w ∧ (∀ j, j ≠ k → t.word j = s.word j) ∧
      t.sq.len = max s.sq.len (k + 1) ∧ t.sq.st = .loaded ∧ t.sq.code = 0 ∧ t.sq.g = s.sq.g ∧ t.td = s.td ∧ t.regs = s.regs) ∧
    (s.sq.st.writable = false → ∃ t, exec (.programStoreWrite k w) s = .next t ∧ t.sq = s.sq ∧
      t.counter SQ_CNT_STALL = (s.counter SQ_CNT_STALL + 1) % 2 ^ 32) := by
  have ha : alwaysOn (0x200000 + 8 * k) = false := by unfold alwaysOn; simp; omega
  obtain ⟨c, o, b, g, ht, hc⟩ := s.touch_form .host (0x200000 + 8 * k)
  have hx : exec (.programStoreWrite k w) s = .next ((s.touch .host (0x200000 + 8 * k)).storeWrite k w) := by
    show Host.Outcome.next (if k < 16384 then s.writeBy .host (0x200000 + 8 * k) true w else s) = _
    rw [if_pos hk, State.writeBy_serving h _ _ _ _ ha]
    unfold State.regWrite
    rw [if_neg (by show ¬ (0x200000 + 8 * k) % 8 ≠ 0; omega), if_neg (by omega), if_pos (by omega), if_pos rfl, Nat.mod_eq_of_lt hw]
    have : (0x200000 + 8 * k - 0x200000) / 8 = k := by omega
    rw [this]
  have hcnt := s.touch_counter .host (0x200000 + 8 * k) SQ_CNT_STALL (by decide)
  rw [hx]
  have hv : (s.touch .host (0x200000 + 8 * k)).isEave = true := by rw [ht]; exact he
  have hsq : (s.touch .host (0x200000 + 8 * k)).sq = s.sq := by rw [ht]
  have htd : (s.touch .host (0x200000 + 8 * k)).td = s.td := by rw [ht]
  have hrg : (s.touch .host (0x200000 + 8 * k)).regs = s.regs := by rw [ht]
  generalize s.touch .host (0x200000 + 8 * k) = u at *
  unfold State.storeWrite
  rw [if_neg (by rw [hv]; decide), hsq]
  constructor
  · intro hwr
    refine ⟨_, rfl, ?_⟩
    rw [if_pos hwr]
    refine ⟨?_, ?_, ?_, rfl, rfl, ?_, htd, hrg⟩
    · unfold State.word State.putWord State.setSq; dsimp only
      rw [Map.get_set_same, BitVec.toNat_ofNat, Nat.mod_eq_of_lt hw]
    · intro j hj
      unfold State.word State.putWord State.setSq; dsimp only
      rw [Map.get_set_other _ _ _ _ _ hj, hsq]
    · rw [← hsq]; rfl
    · rw [← hsq]; rfl
  · intro hwr
    refine ⟨_, rfl, ?_⟩
    rw [if_neg (by rw [hwr]; decide)]
    refine ⟨hsq, ?_⟩
    rw [← hcnt]; exact count_same u SQ_CNT_STALL 1

theorem setList_get' (f : Nat → Nat) (n : Nat) : ∀ (m : Map Nat) (j : Nat),
    ((List.range n).foldl (fun (m : Map Nat) k => Map.set m 0 k (f k)) m).get 0 j = if j < n then f j else m.get 0 j := by
  induction n with
  | zero => intro m j; simp
  | succ n ih =>
    intro m j
    rw [List.range_succ, List.foldl_append]
    dsimp only [List.foldl]
    by_cases hj : j = n
    · subst hj; rw [Map.get_set_same, if_pos (by omega)]
    · rw [Map.get_set_other _ _ _ _ _ hj, ih]
      by_cases h2 : j < n
      · rw [if_pos h2, if_pos (by omega)]
      · rw [if_neg h2, if_neg (by omega)]

structure Started (s v : State) (r : StartReq) (step nc : Nat) : Prop where
  st : v.sq.st = .running
  pc : v.sq.pc = r.addr
  step : v.sq.step = step % 2 ^ 64
  at_ : v.sq.startCourse = nc
  n : v.sq.n = 0
  tol : v.sq.tol = min r.tol 0xFFFE
  crc : v.sq.crc = s.progCrc
  agreed : v.sq.agreed = 0xFFFF
  vote : v.sq.voteEn = r.vote.isSome
  arms : v.sq.arms = s.sq.arms
  g : ∀ k < 16, v.g k = r.g.getD k 0 % 2 ^ 64
  td : v.td = s.td
  ev : v.ev = s.ev

theorem started (s : State) (r : StartReq) (step nc : Nat) : Started s (s.programStart r step nc) r step nc := by
  have hg := fun k => setList_get' (fun k => r.g.getD k 0 % 2 ^ 64) 16 [] k
  unfold State.programStart
  dsimp +zetaHave only
  generalize (List.range 16).foldl (fun (m : Map Nat) k => Map.set m 0 k ((r.g.getD k 0) % 2 ^ 64)) [] = G at hg
  unfold State.digestSeed
  generalize crcWord _ _ = A
  refine ⟨rfl, rfl, by rfl, rfl, rfl, rfl, rfl, rfl, rfl, rfl, ?_, rfl, rfl⟩
  intro k hk
  show G.get 0 (k % 16) = _
  rw [hg (k % 16), Nat.mod_eq_of_lt hk, if_pos hk]

/-- What the row PROGRAM_START does (R236). -/
theorem exec_programStart (s : State) (r : StartReq) (nc : Nat) (h : s.up = true) (he : s.isEave = true) (hs : s.sq.start = some r) (h1 : s.sq.st ≠ .running)
    (h2 : s.sq.st ≠ .held) (hn : nc = s.clk.course + 1) :
    (r.hold = true → exec .programStart s = .next (s.setSq { s.sq with
      st := .held, code := 0, step := r.step, voteEn := r.vote.isSome, voteHandle := r.handle })) ∧
    (r.hold = false → (nc < r.course ∨ s.td.acq = false) → exec .programStart s = .next s) ∧
    (r.hold = false → r.course ≤ nc → s.td.acq = true → ∃ v : State, exec .programStart s = .next (v.runBurst nc) ∧
      v.sq.st = .running ∧ v.sq.pc = r.addr ∧ v.sq.step = r.step % 2 ^ 64 ∧ v.sq.startCourse = nc ∧ v.sq.n = 0 ∧
      v.sq.tol = min r.tol 0xFFFE ∧ v.sq.crc = s.progCrc ∧ v.sq.agreed = 0xFFFF ∧ v.sq.voteEn = r.vote.isSome ∧
      v.sq.arms = s.sq.arms ∧ (∀ k < 16, v.g k = r.g.getD k 0 % 2 ^ 64) ∧ v.td = s.td) := by
  subst hn
  have hb : ∀ v : State, v.sq.st ≠ .running → ∀ n, v.runBurst n = v := by
    intro v hv n; unfold State.runBurst; rw [if_neg (fun hh => hv hh.1)]
  have hx : ∀ v, s.startBoundary (s.clk.course + 1) = v → exec .programStart s = .next (v.runBurst (s.clk.course + 1)) := by
    intro v hv
    rw [exec, execProgramStart, State.main_up h, if_pos ⟨he, by rw [hs]; rfl, h1⟩, hv]
  refine ⟨?_, ?_, ?_⟩
  · intro hh
    rw [hx (s.setSq { s.sq with st := .held, code := 0, step := r.step, voteEn := r.vote.isSome, voteHandle := r.handle }) ?_]
    · exact congrArg _ (hb _ (by show SeqState.held ≠ .running; decide) _)
    · unfold State.startBoundary; rw [hs]; dsimp only; rw [if_neg h2, if_pos hh]
  · intro hh hc
    rw [hx s ?_]
    · exact congrArg _ (hb _ h1 _)
    · unfold State.startBoundary; rw [hs]; dsimp only; rw [if_neg h2, if_neg (by rw [hh]; decide), if_neg]
      rintro ⟨a, b⟩
      rcases hc with hc | hc
      · omega
      · rw [hc] at b; exact absurd b (by decide)
  · intro hh hc hq
    have k := started s r r.step (s.clk.course + 1)
    refine ⟨_, hx (s.programStart r r.step (s.clk.course + 1)) ?_, k.st, k.pc, k.step, k.at_, k.n, k.tol, k.crc, k.agreed, k.vote, k.arms, k.g, k.td⟩
    unfold State.startBoundary; rw [hs]; dsimp only; rw [if_neg h2, if_neg (by rw [hh]; decide), if_pos ⟨hc, hq⟩]

theorem ends_fields (s : State) (st : SeqState) (code : Nat) (ha : s.sq.arms = []) :
    ∀ t, t = s.programEnds st code true → t.sq.st = st ∧ t.sq.code = code ∧ t.sq.stop = none ∧ t.sq.g = s.sq.g ∧ t.td = s.td ∧ t.regs = s.regs ∧
      t.ev.events = s.ev.events ∧ t.sq.start = s.sq.start := by
  intro t ht
  unfold State.programEnds at ht
  dsimp +zetaHave only at ht
  have hc : s.cancelLaunches = s := by unfold State.cancelLaunches; rw [ha]; rfl
  rw [if_pos rfl, hc] at ht
  subst ht
  exact ⟨rfl, rfl, rfl, rfl, rfl, rfl, rfl, rfl⟩

/-- What the row PROGRAM_STOP does (R238). -/
theorem exec_programStop (s : State) (c : Nat) (h : s.up = true) (hs : s.sq.stop = some c) :
    (s.clk.course + 1 < c → exec .programStop s = .next s) ∧
    (c ≤ s.clk.course + 1 → s.sq.st = .running → s.sq.arms = [] → ∃ t, exec .programStop s = .next t ∧ t.sq.st = .stopped ∧
      t.sq.code = 2 ∧ t.sq.stop = none ∧ t.sq.start = none ∧ t.sq.g = s.sq.g ∧ t.td = s.td ∧ t.regs = s.regs) := by
  rw [exec, execProgramStop, State.main_up h]
  unfold State.stopBoundary
  rw [hs]
  dsimp only
  constructor
  · intro hc; rw [if_neg (by omega)]
  · intro hc hr ha
    rw [if_pos hc, if_pos (.inl hr)]
    obtain ⟨k1, k2, k3, k4, k5, k6, k7, k8⟩ := ends_fields s .stopped 2 ha _ rfl
    exact ⟨_, rfl, k1, k2, k3, rfl, k4, k5, k6⟩

/-- What the row EVENT_START does (R250). -/
theorem exec_eventStart (s : State) (e : EventRec) (w : State) (h : s.up = true) (he : s.isEave = true) (hd : s.dueEvent 3 (s.clk.course + 1) = some (e, w))
    (hw : w.sq = s.sq) (hdid : w.did = s.did) :
    (s.sq.start = none → s.sq.st ≠ .running → exec .eventStart s = .next (w.count SQ_CNT_EVT_DROP)) ∧
    (∀ r, s.sq.start = some r → s.sq.st = .held → ∃ v : State, exec .eventStart s = .next (v.runBurst (s.clk.course + 1)) ∧
      v.sq.st = .running ∧ v.sq.pc = r.addr ∧ v.sq.step = e.arg % 2 ^ 64 ∧ v.sq.startCourse = s.clk.course + 1 ∧ v.ev = w.ev) := by
  have hb : ∀ v : State, v.sq.st ≠ .running → ∀ n, v.runBurst n = v := by
    intro v hv n; unfold State.runBurst; rw [if_neg (fun hh => hv hh.1)]
  have hx : ∀ v, s.eventStart (s.clk.course + 1) = v → exec .eventStart s = .next (v.runBurst (s.clk.course + 1)) := by
    intro v hv
    rw [exec, execEventStart, State.main_up h, if_pos he, hv]
  constructor
  · intro h1 h2
    rw [hx (w.count SQ_CNT_EVT_DROP) ?_]
    · exact congrArg _ (hb _ (by show w.sq.st ≠ _; rw [hw]; exact h2) _)
    · unfold State.eventStart; rw [hd]; dsimp only; rw [hw, h1]
  · intro r h1 h2
    have k := started w r e.arg (s.clk.course + 1)
    refine ⟨_, hx (w.programStart r e.arg (s.clk.course + 1)) ?_, k.st, k.pc, k.step, k.at_, k.ev⟩
    unfold State.eventStart; rw [hd]; dsimp only; rw [hw, h1]; dsimp only; rw [if_pos h2]

/-- What the row EVENT_STOP does (R250). -/
theorem exec_eventStop (s : State) (e : EventRec) (w : State) (h : s.up = true) (he : s.isEave = true) (hd : s.dueEvent 4 (s.clk.course + 1) = some (e, w))
    (hw : w.sq = s.sq) :
    (s.sq.st ≠ .running → exec .eventStop s = .next (w.count SQ_CNT_EVT_DROP)) ∧
    (s.sq.st = .running → s.sq.arms = [] → ∃ t, exec .eventStop s = .next t ∧ t.sq.st = .stopped ∧ t.sq.code = 3 ∧
      t.ev.events = w.ev.events ∧ t.td = w.td) := by
  rw [exec, execEventStop, State.main_up h, if_pos he]
  unfold State.eventStop
  rw [hd]
  dsimp only
  rw [hw]
  constructor
  · intro h1; rw [if_neg h1]; rfl
  · intro h1 h2
    rw [if_pos h1]
    obtain ⟨k1, k2, k3, k4, k5, k6, k7, k8⟩ := ends_fields w .stopped 3 (by rw [hw]; exact h2) _ rfl
    exact ⟨_, rfl, k1, k2, k7, k5⟩

/-- What the rows EVENT_STOP, EVENT_START do (R250). -/
theorem exec_eventStop_eventStart (s : State) (nc : Nat) (h : s.up = true) (he : s.isEave = true) (hn : nc = s.clk.course + 1) :
    (s.dueEvent 4 nc = none → exec .eventStop s = .next s) ∧
    (s.dueEvent 3 nc = none → s.sq.st ≠ .running → exec .eventStart s = .next s) := by
  subst hn
  constructor
  · intro hd
    rw [exec, execEventStop, State.main_up h, if_pos he]
    unfold State.eventStop; rw [hd]
  · intro hd h1
    rw [exec, execEventStart, State.main_up h, if_pos he]
    unfold State.eventStart; rw [hd]
    dsimp only
    unfold State.runBurst; rw [if_neg (fun hh => h1 hh.1)]

/-- What the row REPORT_WORD does (R245). -/
theorem exec_reportWord (s : State) (r : LaunchReport) (rest : List LaunchReport) (h : s.up = true) (hr : s.bt.reports = r :: rest) :
    ((ArmRec.mk r.tap r.line r.target) ∉ s.sq.arms →
      exec .reportWord s = .next { s with bt := { s.bt with reports := rest } }) ∧
    ((ArmRec.mk r.tap r.line r.target) ∈ s.sq.arms → ∃ t, exec .reportWord s = .next t ∧ t.bt.reports = rest ∧
      t.sq.arms = s.sq.arms.erase (ArmRec.mk r.tap r.line r.target) ∧
      (r.code = 0 → t.sq.reports.fired = min (s.sq.reports.fired + 1) 0xFFFF ∧
        t.counter SQ_CNT_FIRED = (s.counter SQ_CNT_FIRED + 1) % 2 ^ 32) ∧
      (r.code = 2 → t.sq.reports.refused = min (s.sq.reports.refused + 1) 0xFFFF ∧
        t.counter SQ_CNT_REFUSED = (s.counter SQ_CNT_REFUSED + 1) % 2 ^ 32)) := by
  rw [exec, execReportWord, State.main_up h]
  unfold State.nextReport
  rw [hr]
  dsimp only
  unfold State.takeReport
  dsimp +zetaHave only
  constructor
  · intro hn; rw [if_neg hn]
  · intro hn
    rw [if_pos hn]
    refine ⟨_, rfl, ?_⟩
    generalize s.sq.arms.erase (ArmRec.mk r.tap r.line r.target) = L
    unfold State.countReport
    dsimp +zetaHave only
    refine ⟨rfl, rfl, ?_, ?_⟩
    · intro hc
      rw [hc]
      refine ⟨rfl, ?_⟩
      exact count_same s SQ_CNT_FIRED 1
    · intro hc
      rw [hc]
      refine ⟨rfl, ?_⟩
      exact count_same s SQ_CNT_REFUSED 1

/-- What the row REPORT_MISSING does (R245). -/
theorem exec_reportMissing (s : State) (h : s.up = true) : ((∀ a ∈ s.sq.arms, s.clk.course < courseOf a.target + 2) → exec .reportMissing s = .next s) ∧
    (s.sq.arms ≠ [] → (∀ a ∈ s.sq.arms, courseOf a.target + 2 ≤ s.clk.course) → ∃ t, exec .reportMissing s = .next t ∧
      t.sq.arms = [] ∧ t.counter SQ_CNT_LOSTREP = (s.counter SQ_CNT_LOSTREP + s.sq.arms.length) % 2 ^ 32 ∧
      t.irq = (s.raise 20).irq) := by
  rw [exec, execReportMissing, State.main_up h]
  unfold State.reportsMissing
  dsimp +zetaHave only
  constructor
  · intro hn
    rw [if_pos]
    rw [List.filter_eq_nil_iff]
    intro a ha
    have := hn a ha
    simp; omega
  · intro hne hn
    have hf : (s.sq.arms.filter fun a => decide (courseOf a.target + 2 ≤ s.clk.course)) = s.sq.arms := by
      rw [List.filter_eq_self]; intro a ha; simpa using hn a ha
    rw [hf, if_neg hne]
    refine ⟨_, rfl, ?_, ?_, rfl⟩
    · show s.sq.arms.filter (fun a => !decide (courseOf a.target + 2 ≤ s.clk.course)) = []
      rw [List.filter_eq_nil_iff]; intro a ha; simp [hn a ha]
    · exact count_same s SQ_CNT_LOSTREP s.sq.arms.length

theorem modPulse_same (s : State) (n : Nat) (f : PulseOut → PulseOut) : (s.modPulse n f).pulse n = f (s.pulse n) :=
  Map.get_set_same _ _ _ _

theorem modPulse_other (s : State) (n k : Nat) (f : PulseOut → PulseOut) (h : k ≠ n) : (s.modPulse n f).pulse k = s.pulse k :=
  Map.get_set_other _ _ _ _ _ h

theorem pulseEmit_exec (s : State) (n : Nat) (h : s.up = true) (hn : n < 8) : exec (.pulseEmit n none) s = .next (s.pulseEmit n) := by
  rw [exec, execPulseEmit, State.main_up h, if_neg (by omega)]

/-- What the row PULSE_EMIT does (R246). -/
theorem exec_pulseEmit (s : State) (n : Nat) (h : s.up = true) (hn : n < 8) :
    ((s.pulseEn n = false ∨ s.td.acq = false) → exec (.pulseEmit n none) s = .next s) ∧
    (∀ e t, exec (.pulseEmit n none) s = .next t → exec (.pulseEmit n (some e)) s = .next (t.pinEdge (14 + n) false e)) ∧
    (∀ g v, s.pulseEn n = true → s.td.acq = true → s.pulsePer n = true → s.pulsePlace n (s.pulseNext n) = (g, v) →
      ((s.clk.course : Int) * 625 + 625 ≤ g → exec (.pulseEmit n none) s = .next s) ∧
      (g < (s.clk.course : Int) * 625 → exec (.pulseEmit n none) s = .next (s.pulseAdvance n 1))) ∧
    (∀ r rest, s.pulseEn n = true → s.td.acq = true → s.pulsePer n = false → (s.pulse n).pending = r :: rest →
      ∀ g v, s.pulsePlace n r.target = (g, v) →
      ((s.clk.course : Int) * 625 + 625 ≤ g → exec (.pulseEmit n none) s = .next s) ∧
      (g < (s.clk.course : Int) * 625 → exec (.pulseEmit n none) s =
        .next (((s.modPulse n fun q => { q with pending := rest }).count SQ_CNT_PLS_DROP).raise 30)) ∧
      ((s.clk.course : Int) * 625 ≤ g → g < (s.clk.course : Int) * 625 + 625 → ∃ t, exec (.pulseEmit n none) s = .next t ∧
        t.out = .perfEvt 4 1 :: .pulse n g.toNat v r.width :: s.out ∧ (t.pulse n).pending = rest ∧
        (∀ k, k ≠ n → t.pulse k = s.pulse k) ∧ t.counter (SQ_Pn_CNT n) = (s.counter (SQ_Pn_CNT n) + 1) % 2 ^ 32 ∧ t.td = s.td)) := by
  rw [pulseEmit_exec s n h hn]
  refine ⟨?_, ?_, ?_, ?_⟩
  · intro hc
    unfold State.pulseEmit; rw [if_pos hc]
  · intro e t ht
    rw [exec, execPulseEmit, State.main_up h, if_neg (by omega)]
    rw [Host.Outcome.next.inj ht]
  · intro g v h1 h2 h3 h4
    unfold State.pulseEmit
    rw [if_neg (by rw [h1, h2]; simp), if_pos h3, h4]
    dsimp only
    constructor
    · intro hc; rw [if_pos hc]
    · intro hc; rw [if_neg (by omega), if_pos hc]
  · intro r rest h1 h2 h3 h4 g v h5
    unfold State.pulseEmit
    rw [if_neg (by rw [h1, h2]; simp)]
    dsimp +zetaHave only
    rw [if_neg (by rw [h3]; decide), h4]
    dsimp only
    rw [h5]
    dsimp only
    refine ⟨?_, ?_, ?_⟩
    · intro hc; rw [if_pos hc]
    · intro hc; rw [if_neg (by omega), if_pos hc]; rfl
    · intro hc hd
      rw [if_neg (by omega), if_neg (by omega)]
      refine ⟨_, rfl, ?_⟩
      have hp : (s.modPulse n fun q => { q with pending := rest }).pulsePlace n r.target = (g, v) := by
        rw [← h5]
        unfold State.pulsePlace
        rw [show ((s.modPulse n fun q => { q with pending := rest }).pulse n).drv = (s.pulse n).drv by rw [modPulse_same]]
        rfl
      unfold State.pulseRise
      dsimp +zetaHave only
      rw [hp]
      dsimp only
      have hout : (s.modPulse n fun q => { q with pending := rest }).out = s.out := rfl
      have hctr : (s.modPulse n fun q => { q with pending := rest }).counter (SQ_Pn_CNT n) = s.counter (SQ_Pn_CNT n) := rfl
      have htd : (s.modPulse n fun q => { q with pending := rest }).td = s.td := rfl
      have hsame : ((s.modPulse n fun q => { q with pending := rest }).pulse n).pending = rest := by rw [modPulse_same]
      have hoth : ∀ k, k ≠ n → (s.modPulse n fun q => { q with pending := rest }).pulse k = s.pulse k := fun k hk => modPulse_other _ _ _ _ hk
      generalize (s.modPulse n fun q => { q with pending := rest }) = U at *
      refine ⟨?_, ?_, ?_, ?_, ?_⟩
      · rw [← hout]; rfl
      · rw [modPulse_same]; exact hsame
      · intro k hk; rw [modPulse_other _ _ _ _ hk]; exact hoth k hk
      · rw [← hctr]; exact count_same U (SQ_Pn_CNT n) 1
      · exact htd

/-- What the row PULSE_CAL_DONE does (R247). -/
theorem exec_pulseCalDone (s : State) (n : Nat) (h : s.up = true) (hn : n < 8) :
    (((s.pulse n).cal = false ∨ (s.pulse n).calLeft ≠ 0) → exec (.pulseCalDone n) s = .next s) ∧
    ((s.pulse n).cal = true → (s.pulse n).calLeft = 0 → (s.pulse n).calN ≠ 0 → exec (.pulseCalDone n) s =
      .next (s.setPulse n { s.pulse n with
        cal := false, calAt := none, drv := (roundDiv (s.pulse n).calSum (s.pulse n).calN).toNat % 2 ^ 32 })) ∧
    ((s.pulse n).cal = true → (s.pulse n).calLeft = 0 → (s.pulse n).calN = 0 → ∃ x, exec (.pulseCalDone n) s =
      .next (({ s with free := s.free + 1 } : State).setPulse n { s.pulse n with cal := false, calAt := none, drv := x })) := by
  rw [exec, execPulseCalDone, State.main_up h, if_pos hn]
  unfold State.pulseCalDone
  dsimp +zetaHave only
  refine ⟨?_, ?_, ?_⟩
  · intro hc
    rw [if_neg]
    rintro ⟨a, b⟩
    rcases hc with hc | hc
    · rw [hc] at a; exact absurd a (by decide)
    · exact hc b
  · intro h1 h2 h3
    rw [if_pos ⟨h1, h2⟩, if_neg h3]
  · intro h1 h2 h3
    rw [if_pos ⟨h1, h2⟩, if_pos h3]
    exact ⟨_, rfl⟩

theorem bit_mask (v m k : Nat) : bitOf (v &&& m) k = (bitOf v k && bitOf m k) := by
  unfold bitOf; rw [Nat.testBit_and]

theorem bit_or (v m k : Nat) : bitOf (v ||| m) k = (bitOf v k || bitOf m k) := by
  unfold bitOf; rw [Nat.testBit_or]

theorem bit_wr (u : State) (r : Reg) (v k : Nat) (hm : r.mask < 2 ^ 64) : (u.wr r v).bit r k = (bitOf v k && bitOf r.mask k) := by
  unfold State.bit; rw [State.rd_wr u r v hm, bit_mask]

/-- What the rows PULSE_OUTPUT_ENABLE, PERIODIC_MODE_SET do (R247, R248). -/
theorem exec_pulseOutputEnable_periodicModeSet (s u : State) (n v : Nat) (h : s.Serving) (hn : n < 8) (hu : u = s.touch .host (SQ_Pn_CFG n).off) :
    (v = s.rd (SQ_Pn_CFG n) ||| 2 ^ 31 → v < 2 ^ 32 →
      (s.pulseEn n = true → exec (.pulseOutputEnable n) s = .next (u.wr (SQ_Pn_CFG n) v)) ∧
      (s.pulseEn n = false → exec (.pulseOutputEnable n) s = .next ((u.wr (SQ_Pn_CFG n) v).modPulse n fun p => { p with
        cal := true, calLeft := 256, calAt := none, calSum := 0, calN := 0, expect := none }))) ∧
    (v = s.rd (SQ_Pn_CFG n) ||| 2 ^ 30 → v < 2 ^ 32 →
      (s.pulsePer n = true → exec (.periodicModeSet n) s = .next (u.wr (SQ_Pn_CFG n) v)) ∧
      (s.pulsePer n = false → exec (.periodicModeSet n) s = .next ((((u.wr (SQ_Pn_CFG n) v).dropPending n).modPulse n fun p => { p with
        unlimited := decide (u.rd (SQ_Pn_COUNT n) = 0) }).pulseCatchUp n (s.clk.course + 2)))) := by
  have ha : alwaysOn (SQ_Pn_CFG n).off = false := by
    show (decide ((0x5400 + n * 0x40 + 0) / 0x1000 = 0) || decide ((0x5400 + n * 0x40 + 0) / 0x1000 = 9)) = false
    simp; omega
  have hrd : ∀ r, u.rd r = s.rd r := by
    intro r
    obtain ⟨c, o, b, g, ht, hc⟩ := s.touch_form .host (SQ_Pn_CFG n).off
    rw [hu, ht]; rfl
  have hck : u.clk = s.clk := by
    obtain ⟨c, o, b, g, ht, hc⟩ := s.touch_form .host (SQ_Pn_CFG n).off
    rw [hu, ht]
  have hen : u.pulseEn n = s.pulseEn n := by unfold State.pulseEn State.bit; rw [hrd]
  have hper : u.pulsePer n = s.pulsePer n := by unfold State.pulsePer State.bit; rw [hrd]
  have hm : (SQ_Pn_CFG n).mask < 2 ^ 64 := by show 0xe000ff00 < 2 ^ 64; decide
  have hco : (u.wr (SQ_Pn_CFG n) v).rd (SQ_Pn_COUNT n) = u.rd (SQ_Pn_COUNT n) := State.rd_wr_other _ _ _ _ (by
    show 0x5400 + n * 0x40 + 0x18 ≠ 0x5400 + n * 0x40 + 0; omega)
  constructor
  · intro hv hlt
    have hx : exec (.pulseOutputEnable n) s = .next (u.pulseCfgWrite n v) := by
      show Host.Outcome.next (if n < 8 then s.writeBy .host (SQ_Pn_CFG n).off false (s.rd (SQ_Pn_CFG n) ||| 2 ^ 31) else s) = _
      rw [if_pos hn, ← hv, State.writeBy_serving h _ _ _ _ ha, pulse_write _ _ n v hn hlt, hu]
    have e1 : (u.wr (SQ_Pn_CFG n) v).pulseEn n = true := by
      unfold State.pulseEn; rw [bit_wr _ _ _ _ hm, hv, bit_or]
      rw [show bitOf (2 ^ 31) 31 = true by decide, show bitOf (SQ_Pn_CFG n).mask 31 = true by show bitOf 0xe000ff00 31 = true; decide]
      simp
    have e2 : (u.wr (SQ_Pn_CFG n) v).pulsePer n = s.pulsePer n := by
      unfold State.pulsePer; rw [bit_wr _ _ _ _ hm, hv, bit_or]
      rw [show bitOf (2 ^ 31) 30 = false by decide, show bitOf (SQ_Pn_CFG n).mask 30 = true by show bitOf 0xe000ff00 30 = true; decide]
      simp [State.bit]
    rw [hx]
    unfold State.pulseCfgWrite
    dsimp +zetaHave only
    rw [hen, hper]
    constructor
    · intro h1
      have c1 : ¬ ((u.wr (SQ_Pn_CFG n) v).pulseEn n = true ∧ s.pulseEn n = false) := by rw [h1]; simp
      have c2 : ¬ ((u.wr (SQ_Pn_CFG n) v).pulseEn n = false ∧ s.pulseEn n = true) := by rw [e1]; simp
      have c3 : ¬ ((u.wr (SQ_Pn_CFG n) v).pulsePer n = true ∧ s.pulsePer n = false) := by rw [e2]; simp
      rw [if_neg c1, if_neg c2, if_neg c3]
    · intro h1
      have c1 : (u.wr (SQ_Pn_CFG n) v).pulseEn n = true ∧ s.pulseEn n = false := ⟨e1, h1⟩
      rw [if_pos c1]
      have c3 : ¬ (((u.wr (SQ_Pn_CFG n) v).modPulse n fun p => { p with
        cal := true, calLeft := 256, calAt := none, calSum := 0, calN := 0, expect := none }).pulsePer n = true ∧ s.pulsePer n = false) := by
        have : ((u.wr (SQ_Pn_CFG n) v).modPulse n fun p => { p with
          cal := true, calLeft := 256, calAt := none, calSum := 0, calN := 0, expect := none }).pulsePer n = (u.wr (SQ_Pn_CFG n) v).pulsePer n := rfl
        rw [this, e2]; simp
      rw [if_neg c3]
  · intro hv hlt
    have hx : exec (.periodicModeSet n) s = .next (u.pulseCfgWrite n v) := by
      show Host.Outcome.next (if n < 8 then s.writeBy .host (SQ_Pn_CFG n).off false (s.rd (SQ_Pn_CFG n) ||| 2 ^ 30) else s) = _
      rw [if_pos hn, ← hv, State.writeBy_serving h _ _ _ _ ha, pulse_write _ _ n v hn hlt, hu]
    have e1 : (u.wr (SQ_Pn_CFG n) v).pulseEn n = s.pulseEn n := by
      unfold State.pulseEn; rw [bit_wr _ _ _ _ hm, hv, bit_or]
      rw [show bitOf (2 ^ 30) 31 = false by decide, show bitOf (SQ_Pn_CFG n).mask 31 = true by show bitOf 0xe000ff00 31 = true; decide]
      simp [State.bit]
    have e2 : (u.wr (SQ_Pn_CFG n) v).pulsePer n = true := by
      unfold State.pulsePer; rw [bit_wr _ _ _ _ hm, hv, bit_or]
      rw [show bitOf (2 ^ 30) 30 = true by decide, show bitOf (SQ_Pn_CFG n).mask 30 = true by show bitOf 0xe000ff00 30 = true; decide]
      simp
    rw [hx]
    unfold State.pulseCfgWrite
    dsimp +zetaHave only
    rw [hen, hper]
    have c1 : ¬ ((u.wr (SQ_Pn_CFG n) v).pulseEn n = true ∧ s.pulseEn n = false) := by rw [e1]; simp
    have c2 : ¬ ((u.wr (SQ_Pn_CFG n) v).pulseEn n = false ∧ s.pulseEn n = true) := by rw [e1]; simp
    rw [if_neg c1, if_neg c2]
    constructor
    · intro h1; rw [if_neg (by rw [h1]; simp)]
    · intro h1
      rw [if_pos ⟨e2, h1⟩, hco, show (u.wr (SQ_Pn_CFG n) v).clk.course = s.clk.course by rw [← hck]; rfl]

/-- What the row FREEZE_EMIT does (R249). -/
theorem exec_freezeEmit (s : State) (r : FreezeReq) (rest : List FreezeReq) (h : s.up = true) (hr : s.ev.freezes = r :: rest) :
    ((s.clk.course + 1) * 625 ≤ r.rise → exec .freezeEmit s = .next s) ∧
    (r.rise < (s.clk.course + 1) * 625 → s.freezeNear r.rise = true → exec .freezeEmit s =
      .next (((({ s with ev := { s.ev with freezes := rest } } : State).count SQ_CNT_FRZ_DROP)).raise 30)) ∧
    (r.rise < (s.clk.course + 1) * 625 → s.freezeNear r.rise = false → ∃ t, exec .freezeEmit s = .next t ∧ t.ev.freezes = rest ∧ t.ev.lastRise = some r.rise ∧
      t.ev.frzSeq = (s.ev.frzSeq + 1) % 2 ^ 32 ∧ t.ev.frzLast = r.rise / 625 ∧ t.ev.frzId = r.id ∧ t.ev.pulses = s.ev.pulses ∧
      t.out = .perfEvt 5 1 :: .freezeRise r.id s.freezeWidth :: s.out ∧ t.td = s.td ∧ t.regs = s.regs) := by
  rw [exec, execFreezeEmit, State.main_up h]
  unfold State.freezeEmit
  rw [hr]
  dsimp +zetaHave only
  refine ⟨fun hc => by rw [if_pos hc], fun hc hn => ?_, fun hc hn => ?_⟩
  · rw [if_neg (by omega), if_pos hn]; rfl
  · rw [if_neg (by omega), if_neg (by simp [hn])]
    exact ⟨_, rfl, rfl, rfl, by trivial, rfl, rfl, rfl, rfl, rfl, rfl⟩

end Sys2Proof.Machine
end

