-- ==== Sys2Proof/Laws/RowsServo.lean ====
section
/-! SUPPORT. Sys2Proof/Laws/RowsServo.lean: the reference selector and the servos. -/

set_option linter.all false
set_option Elab.async false

namespace Sys2Proof.Machine
open Sys2Proof Sys2Proof.Config

theorem modServo_put (s : State) (d : Dom) (f : Servo → Servo) : (s.modServo d f).servo d = f (s.servo d) ∧ ∀ e, e ≠ d → (s.modServo d f).servo e = s.servo e :=
  servo_put _ _ _

/-- What the row CANDIDATE_QUALIFY_TIMER does (R137). -/
theorem exec_candidateQualifyTimer : ∀ (s : State) (n : Nat) (c : Cand), s.up = true → c = s.cand n →
    (10 ≤ n ∨ c.loss = true ∨ (s.bit RS_CTL 1 = true ∧ c.dnu = true) ∨ s.clk.ticks + 1 < c.since + max 1 (s.fl RS_QUAL 24 8) * 1000000 ∨
      (c.st = .qualifying ∧ c.fail = true) ∨ (c.st ≠ .disq ∧ c.st ≠ .qualifying) → exec (.candidateQualifyTimer n) s = .next s) ∧
    (n < 10 → c.loss = false → (s.bit RS_CTL 1 = false ∨ c.dnu = false) →
      c.since + max 1 (s.fl RS_QUAL 24 8) * 1000000 ≤ s.clk.ticks + 1 →
      (c.st = .disq → exec (.candidateQualifyTimer n) s = .next (s.setCand n { c with st := .qualifying, since := s.clk.ticks + 1, run := 0 })) ∧
      (c.st = .qualifying → c.fail = false →
        exec (.candidateQualifyTimer n) s = .next (s.setCand n { c with st := .qualified, since := s.clk.ticks + 1, run := 0 }))) := by
  intro s n c hup hc
  have kk : exec (.candidateQualifyTimer n) s = s.main fun s => if n < 10 then s.candTimer n (s.clk.ticks + 1) else s := rfl
  rw [kk, State.main_up hup]
  refine ⟨fun h => ?_, fun hn hl hd ht => ?_⟩
  · by_cases hn : n < 10
    · rw [if_pos hn]
      unfold State.candTimer State.dnuHolds State.qualCourses
      dsimp +zetaHave only
      rw [← hc]
      by_cases hh : c.loss = true ∨ (s.bit RS_CTL 1 && c.dnu) = true ∨ s.clk.ticks + 1 < c.since + max 1 (s.fl RS_QUAL 24 8) * 1000000
      · rw [if_pos hh]
      · rw [if_neg hh]
        rcases h with h | h | h | h | h | h
        · omega
        · exact absurd (.inl h) hh
        · exact absurd (.inr (.inl (by rw [h.1, h.2]; rfl))) hh
        · exact absurd (.inr (.inr h)) hh
        · rw [if_neg (by rw [h.1]; decide), if_neg (by rw [h.2]; simp)]
        · rw [if_neg h.1, if_neg (fun x => h.2 x.1)]
    · rw [if_neg hn]
  · rw [if_pos hn]
    unfold State.candTimer State.dnuHolds State.qualCourses
    dsimp +zetaHave only
    rw [← hc, if_neg (by
      rintro (h | h | h)
      · rw [hl] at h; exact absurd h (by decide)
      · rcases hd with hd | hd <;> rw [hd] at h <;> simp at h
      · omega)]
    have hg : ∀ st, st ≠ .lost → s.candGo n st (s.clk.ticks + 1) = s.setCand n { c with st := st, since := s.clk.ticks + 1, run := 0 } := by
      intro st h
      unfold State.candGo
      dsimp +zetaHave only
      rw [if_neg (fun hh => h hh.1), ← hc]
    refine ⟨fun h => ?_, fun h hf => ?_⟩
    · rw [if_pos h, hg _ (by decide)]
    · rw [if_neg (by rw [h]; decide), if_pos ⟨h, hf⟩, hg _ (by decide)]

theorem find_first {α : Type} (p q : α → Bool) (a b : α) (l : List α) (h1 : p a = true) (h2 : q a = true) :
    (((a :: l).takeWhile p).find? q).getD b = a := by
  rw [List.takeWhile_cons, h1, if_pos rfl, List.find?_cons, h2]; rfl

theorem choose_better (s : State) (a cur t : Nat) (rest : List Nat) (h1 : cur ∈ rest) (h2 : a ≠ cur) (h3 : s.bit RS_CTL 0 = true)
    (h4 : (s.cand a).since + s.wtrCourses ≤ t) : s.choose (a :: rest) cur t = a := by
  unfold State.choose
  rw [if_pos (List.mem_cons_of_mem _ h1), if_pos h3]
  exact find_first _ _ _ _ _ (decide_eq_true h2) (decide_eq_true h4)

/-- What the row WTR_EXPIRY does (R139). -/
theorem exec_wtrExpiry : ∀ (s : State) (d : Dom) (v : Servo) (a : Nat) (rest : List Nat), s.up = true → s.isEave = true → v = s.servo d → v.timeSrc = 15 →
    s.freqOrder d = a :: rest →
    (v.freqSrc ∉ a :: rest → exec (.wtrExpiry d) s = .next s) ∧
    (v.freqSrc ∈ rest → a ≠ v.freqSrc → s.bit RS_CTL 0 = true → (s.cand a).since + s.wtrCourses ≤ s.clk.ticks + 1 →
      exec (.wtrExpiry d) s = .next (((s.setServo d { v with freqSrc := a }).count RS_CNT_SEL).raise 9)) ∧
    (v.freqSrc ∈ a :: rest → s.bit RS_CTL 0 = false → exec (.wtrExpiry d) s = .next s) := by
  intro s d v a rest hup he hv ht ho
  have kk : exec (.wtrExpiry d) s = s.main fun s => s.wtrExpiry d (s.clk.ticks + 1) := rfl
  rw [kk, State.main_up hup]
  have hto : s.timeOrder d = [] := by
    unfold State.timeOrder
    have : s.isRoot = false := by unfold State.isRoot State.isRidge; unfold State.isEave at he; rw [of_decide_eq_true he]; rfl
    rw [this]; simp
  have hsel : ∀ t, s.select d t = if s.choose (a :: rest) v.freqSrc t = v.freqSrc then s else
      ((s.setServo d { v with freqSrc := s.choose (a :: rest) v.freqSrc t }).count RS_CNT_SEL).raise 9 := by
    intro t
    unfold State.select
    dsimp +zetaHave only
    rw [← hv, ht, hto, ho]
    have h15 : s.choose [] 15 t = 15 := by unfold State.choose; rw [if_neg (List.not_mem_nil), List.headD_nil]
    rw [h15]
    simp only [ne_eq, not_true_eq_false, reduceIte, true_and]
  unfold State.wtrExpiry
  dsimp +zetaHave only
  rw [← hv, ht, ho]
  simp only [ne_eq, not_true_eq_false, reduceIte]
  refine ⟨fun h => by rw [if_neg h], fun h1 h2 h3 h4 => ?_, fun h1 h2 => ?_⟩
  · rw [if_pos (List.mem_cons_of_mem _ h1), hsel]
    have hc := choose_better s a v.freqSrc (s.clk.ticks + 1) rest h1 h2 h3 h4
    rw [hc, if_neg h2, ht]
  · rw [if_pos h1, hsel]
    have hc : s.choose (a :: rest) v.freqSrc (s.clk.ticks + 1) = v.freqSrc := by
      unfold State.choose; rw [if_pos h1, if_neg (by rw [h2]; decide)]
    rw [hc, if_pos rfl]

/-- What the row PPS_LOSS does (R136). -/
theorem exec_ppsLoss : ∀ (s : State) (n : Nat) (c : Cand), s.up = true → c = s.cand n →
    ((n ≠ 4 ∧ n ≠ 5) ∨ c.st = .off ∨ s.clk.ticks + 1 ≤ c.ppsTick.getD c.since + 2000000 → exec (.ppsLoss n) s = .next s) ∧
    ((n = 4 ∨ n = 5) → c.st ≠ .off → c.ppsTick.getD c.since + 2000000 < s.clk.ticks + 1 →
      exec (.ppsLoss n) s = .next (s.setCand n { c with loss := true, run := 0 })) := by
  intro s n c hup hc
  have kk : exec (.ppsLoss n) s = s.main fun s => if n = 4 ∨ n = 5 then s.ppsLoss n (s.clk.ticks + 1) else s := rfl
  rw [kk, State.main_up hup]
  unfold State.ppsLoss State.ppsSilent
  rw [← hc]
  refine ⟨fun h => ?_, fun h1 h2 h3 => by rw [if_pos h1, if_pos ⟨h2, decide_eq_true h3⟩]⟩
  split
  · rename_i h4
    rcases h with h | h | h
    · omega
    · rw [if_neg (fun hh => hh.1 h)]
    · rw [if_neg (fun hh => by have := of_decide_eq_true hh.2; omega)]
  · rfl

/-- What the row LOOP_OPEN_TIMEOUT does (R144). -/
theorem exec_loopOpenTimeout : ∀ (s : State) (d : Dom) (v : Servo), s.up = true → v = s.servo d →
    (v.openLoop = false ∨ v.st ≠ .track ∨ s.clk.ticks + 1 ≤ v.openTick + (if s.rd RS_OPEN_TMO = 0 then 1024 else s.rd RS_OPEN_TMO) →
      exec (.loopOpenTimeout d) s = .next s) ∧
    (v.openLoop = true → v.st = .track → v.openTick + (if s.rd RS_OPEN_TMO = 0 then 1024 else s.rd RS_OPEN_TMO) < s.clk.ticks + 1 →
      ∃ t, exec (.loopOpenTimeout d) s = .next t ∧ (t.servo d).st = .hold ∧ (t.servo d).locked = false ∧ (t.servo d).entry = s.clk.course + 1 ∧
        (t.servo d).p = v.p ∧ (t.servo d).f = v.f ∧ t.servo d.other = s.servo d.other ∧ t.irq.getLsbD 4 = true ∧
        t.counter RS_CNT_HOLD = (s.counter RS_CNT_HOLD + 1) % 2 ^ 32 ∧ t.ports = s.ports ∧ t.regs = s.regs ∧ t.rs = s.rs) := by
  intro s d v hup hv
  have kk : exec (.loopOpenTimeout d) s = s.main fun s => s.loopTimeout d (s.clk.course + 1) (s.clk.ticks + 1) := rfl
  rw [kk, State.main_up hup]
  unfold State.loopTimeout State.openTmo
  dsimp +zetaHave only
  rw [← hv]
  refine ⟨fun h => ?_, fun h1 h2 h3 => ?_⟩
  · rw [if_neg]
    rintro ⟨a, b, c⟩
    rcases h with h | h | h
    · rw [h] at a; exact absurd a (by decide)
    · exact h b
    · omega
  · rw [if_pos ⟨h1, h2, h3⟩]
    refine ⟨_, rfl, ?_⟩
    unfold State.enterHold
    dsimp +zetaHave only
    rw [← hv]
    generalize (v.locked && decide (d = s.td.sel) && s.td.acq) = q
    have hk : ∀ (x : Servo) (y : State), ((y.setServo d x).count RS_CNT_HOLD).raise 4 = { (y.setServo d x) with cnt := ((y.setServo d x).count RS_CNT_HOLD).cnt, irq := y.irq ||| BitVec.ofNat 32 16 } := fun _ _ => rfl
    rw [hk]
    have hsv : ∀ (x : Servo) (y : State) cn ir e, ({ (y.setServo d x) with cnt := cn, irq := ir } : State).servo e = (y.setServo d x).servo e := fun _ _ _ _ _ => rfl
    rw [hsv, hsv, (servo_put _ d _).1]
    have hy : (s.raiseIf q 7).servo d.other = s.servo d.other ∧ (s.raiseIf q 7).cnt = s.cnt ∧ (s.raiseIf q 7).ports = s.ports ∧
        (s.raiseIf q 7).regs = s.regs ∧ (s.raiseIf q 7).rs = s.rs := by unfold State.raiseIf; split <;> exact ⟨rfl, rfl, rfl, rfl, rfl⟩
    have ho : d.other ≠ d := by cases d <;> decide
    refine ⟨rfl, rfl, rfl, rfl, rfl, ((servo_put _ d _).2 _ ho).trans hy.1, ?_, ?_, hy.2.2.1, hy.2.2.2.1, hy.2.2.2.2⟩
    · simp
    · show ((State.setServo (s.raiseIf q 7) d _).count RS_CNT_HOLD).counter RS_CNT_HOLD = _
      rw [count_same]
      show ((s.raiseIf q 7).counter _ + 1) % _ = _
      rw [counter_cnt hy.2.1]

theorem setCand_same (s : State) (n : Nat) (c : Cand) : (s.setCand n c).cand n = c := Map.get_set_same _ _ _ _

theorem setCand_other (s : State) (n k : Nat) (c : Cand) (h : k ≠ n) : (s.setCand n c).cand k = s.cand k := Map.get_set_other _ _ _ _ _ h

/-- A pulse of a CLKOUT source changes nothing but the count of pulses and what goes out. -/
theorem clkoutPulse_same {α : Type} (f : State → α) (h : ∀ s n o, f { s with ck := { s.ck with coN := n }, out := o } = f s) (s : State) (src : Nat) :
    f (s.clkoutPulse src) = f s := by
  unfold State.clkoutPulse
  split
  · rfl
  · split
    · exact h s 0 _
    · exact h s _ s.out

/-- The coherence test marks a failure of its own candidate and counts it, and does nothing else. -/
theorem ppsCoherence_only (s : State) (n ref : Nat) (st : Int) (k : Nat) :
    s.ppsCoherence n ref st k = s ∨ s.ppsCoherence n ref st k = (s.setCand n { s.cand n with fail := true }).count RS_CNT_PPS := by
  unfold State.ppsCoherence
  split
  · split
    · exact .inr rfl
    · exact .inl rfl
  · exact .inl rfl

theorem ppsCoherence_free (s : State) (n ref : Nat) (st : Int) (k : Nat) (h : s.rs.anchors.look n = none) : s.ppsCoherence n ref st k = s := by
  unfold State.ppsCoherence; rw [h]

/-- What the row PPS_EDGE does (R136, R140, R180). -/
theorem exec_ppsEdge : (∀ (s : State) (n b : Nat) (e : Edge), s.up = true → (n ≠ 4 ∧ n ≠ 5) → exec (.ppsEdge n e b) s = .next s) ∧
  (∀ (s : State) (n b : Nat) (e : Edge), s.up = true → n = 4 ∨ n = 5 →
    (s.candPresent n = false ∨ s.candEn n = false ∨ s.pinTimed (8 + n) = false) → exec (.ppsEdge n e b) s = .next (s.clkoutPulse (6 + n))) ∧
  (∀ (s u : State) (n b : Nat) (e : Edge) (st : Int), s.up = true → s.candPresent n = true → s.candEn n = true → n = 4 ∨ n = 5 →
    s.pinTimed (8 + n) = true → u = s.atCyc e.cyc →
    st = toUnits (gridFifths s.clk.course e.cyc + e.code * codeFifths) - s.candDelay n - s.padOf (8 + n) →
    ∃ t, exec (.ppsEdge n e b) s = .next t ∧ (t.cand n).ppsTick = some s.clk.ticks ∧ (t.cand n).edge = some st ∧ (t.cand n).st = (s.cand n).st ∧
      t.regs = s.regs ∧ t.td = s.td ∧ t.ports = s.ports ∧ t.clk = u.clk ∧ (∀ k, k ≠ n → t.cand k = s.cand k) ∧
      (∀ o, o ≠ RS_CNT_PPS → t.counter o = s.counter o) ∧ (s.rs.anchors.look n = none → t.cnt = s.cnt) ∧
      (∀ sec, s.rs.epoch = some sec → t.rs.epoch = none ∧ t.rs.epochSec = sec ∧
        t.rs.anchors = [(n, ⟨sec, st, (s.cand (s.pairOf n)).edges + b⟩)]) ∧
      (∀ a, s.rs.epoch = none → s.rs.anchors.look n = some a →
        t.rs.epochSec = a.sec + 1 ∧ t.rs.anchors = s.rs.anchors.insert n ⟨a.sec + 1, st, (s.cand (s.pairOf n)).edges + b⟩)) := by
  have kk : ∀ (s : State) n e b, exec (.ppsEdge n e b) s = s.main fun s => s.ppsEdge n e b := fun _ _ _ _ => rfl
  refine ⟨fun s n b e hup h => ?_, fun s n b e hup hn h => ?_, fun s u n b e st hup h1 h2 h3 h4 hu hst => ?_⟩
  · rw [kk, State.main_up hup]; unfold State.ppsEdge; dsimp +zetaHave only
    have hn : ¬(n = 4 ∨ n = 5) := fun x => x.elim h.1 h.2
    rw [if_neg hn, if_pos (.inr (.inr (.inl h)))]
  · rw [kk, State.main_up hup]; unfold State.ppsEdge; dsimp +zetaHave only
    rw [if_pos hn]
    have e1 : (s.clkoutPulse (6 + n)).candPresent n = s.candPresent n := clkoutPulse_same (fun x => x.candPresent n) (fun _ _ _ => rfl) s _
    have e2 : (s.clkoutPulse (6 + n)).candEn n = s.candEn n := clkoutPulse_same (fun x => x.candEn n) (fun _ _ _ => rfl) s _
    have e3 : (s.clkoutPulse (6 + n)).pinTimed (8 + n) = s.pinTimed (8 + n) := clkoutPulse_same (fun x => x.pinTimed (8 + n)) (fun _ _ _ => rfl) s _
    rw [e1, e2, e3, if_pos]
    rcases h with h | h | h
    · exact .inl h
    · exact .inr (.inl h)
    · exact .inr (.inr (.inr h))
  · rw [kk, State.main_up hup]
    refine ⟨_, rfl, ?_⟩
    unfold State.ppsEdge
    dsimp +zetaHave only
    rw [if_pos h3]
    have e1 : (s.clkoutPulse (6 + n)).candPresent n = s.candPresent n := clkoutPulse_same (fun x => x.candPresent n) (fun _ _ _ => rfl) s _
    have e2 : (s.clkoutPulse (6 + n)).candEn n = s.candEn n := clkoutPulse_same (fun x => x.candEn n) (fun _ _ _ => rfl) s _
    have e3 : (s.clkoutPulse (6 + n)).pinTimed (8 + n) = s.pinTimed (8 + n) := clkoutPulse_same (fun x => x.pinTimed (8 + n)) (fun _ _ _ => rfl) s _
    have e4 : (s.clkoutPulse (6 + n)).candDelay n = s.candDelay n := clkoutPulse_same (fun x => x.candDelay n) (fun _ _ _ => rfl) s _
    have e5 : (s.clkoutPulse (6 + n)).padOf (8 + n) = s.padOf (8 + n) := clkoutPulse_same (fun x => x.padOf (8 + n)) (fun _ _ _ => rfl) s _
    have e6 : (s.clkoutPulse (6 + n)).pairOf n = s.pairOf n := clkoutPulse_same (fun x => x.pairOf n) (fun _ _ _ => rfl) s _
    rw [e1, e2, e3, if_neg (by
      rintro (h | h | h | h)
      · rw [h1] at h; exact absurd h (by decide)
      · rw [h2] at h; exact absurd h (by decide)
      · omega
      · rw [h4] at h; exact absurd h (by decide))]
    have p5 : (s.clkoutPulse (6 + n)).clk = s.clk := clkoutPulse_same (fun x => x.clk) (fun _ _ _ => rfl) s _
    generalize hv : (s.clkoutPulse (6 + n)).atCyc e.cyc = v
    have u1 : v.rs = s.rs := by rw [← hv]; exact clkoutPulse_same (fun x => x.rs) (fun _ _ _ => rfl) s _
    have u2 : v.clk = u.clk := by rw [← hv, hu]; unfold State.atCyc; rw [p5]
    have u2' : v.clk.ticks = s.clk.ticks := by rw [u2, hu]; rfl
    have u3 : v.td = s.td := by rw [← hv]; exact clkoutPulse_same (fun x => x.td) (fun _ _ _ => rfl) s _
    have u4 : v.regs = s.regs := by rw [← hv]; exact clkoutPulse_same (fun x => x.regs) (fun _ _ _ => rfl) s _
    have u5 : v.ports = s.ports := by rw [← hv]; exact clkoutPulse_same (fun x => x.ports) (fun _ _ _ => rfl) s _
    have u6 : v.cnt = s.cnt := by rw [← hv]; exact clkoutPulse_same (fun x => x.cnt) (fun _ _ _ => rfl) s _
    have u7 : v.pairOf n = s.pairOf n := by rw [← hv]; exact e6
    have u8 : ∀ k, v.cand k = s.cand k := fun k => by unfold State.cand; rw [u1]
    have u9 : toUnits (v.edgeFifths e) - v.candDelay n - v.padOf (8 + n) = st := by
      rw [hst, ← hv]
      show toUnits (gridFifths (s.clkoutPulse (6 + n)).clk.course e.cyc + e.code * codeFifths) - (s.clkoutPulse (6 + n)).candDelay n - (s.clkoutPulse (6 + n)).padOf (8 + n) = _
      rw [e4, e5, p5]
    rw [u9, u8, u8, u7, u2']
    generalize hR : (if (s.cand n).st = CandState.lost ∧ (match (s.cand n).ppsTick with | some k => decide (k + 999000 ≤ s.clk.ticks) && decide (s.clk.ticks ≤ k + 1001000) | none => false) = true then (s.cand n).run + 1 else 0) = R
    generalize hc : ({ s.cand n with ppsTick := some s.clk.ticks, edge := some st, run := R } : Cand) = c
    generalize hx : v.setCand n c = x
    have x1 : x.rs = { s.rs with cand := s.rs.cand.set {} n c } := by rw [← hx, ← u1]; rfl
    have c1 : c.ppsTick = some s.clk.ticks ∧ c.edge = some st ∧ c.st = (s.cand n).st := by rw [← hc]; exact ⟨rfl, rfl, rfl⟩
    have x2 : x.regs = s.regs ∧ x.td = s.td ∧ x.ports = s.ports ∧ x.clk = u.clk ∧ x.cnt = s.cnt := by
      rw [← hx]; exact ⟨u4, u3, u5, u2, u6⟩
    have xc : x.cand n = c ∧ ∀ k, k ≠ n → x.cand k = s.cand k := by
      unfold State.cand; rw [x1]
      exact ⟨Map.get_set_same _ _ _ _, fun k hk => Map.get_set_other _ _ _ _ _ hk⟩
    generalize hK : (s.cand (s.pairOf n)).edges + b = K
    generalize hy : x.ppsCoherence n (s.pairOf n) st K = y
    have y1 : (y.cand n).ppsTick = some s.clk.ticks ∧ (y.cand n).edge = some st ∧ (y.cand n).st = (s.cand n).st ∧
        y.regs = s.regs ∧ y.td = s.td ∧ y.ports = s.ports ∧ y.clk = u.clk ∧ (∀ k, k ≠ n → y.cand k = s.cand k) ∧
        (∀ o, o ≠ RS_CNT_PPS → y.counter o = s.counter o) ∧ (s.rs.anchors.look n = none → y.cnt = s.cnt) ∧
        y.rs.epoch = s.rs.epoch ∧ y.rs.anchors = s.rs.anchors := by
      have hn : s.rs.anchors.look n = none → y = x := fun h => by rw [← hy]; exact ppsCoherence_free _ _ _ _ _ (by rw [x1]; exact h)
      rcases ppsCoherence_only x n (s.pairOf n) st K with h | h
      · rw [hy] at h
        rw [h, xc.1]
        exact ⟨c1.1, c1.2.1, c1.2.2, x2.1, x2.2.1, x2.2.2.1, x2.2.2.2.1, xc.2, fun o _ => counter_cnt x2.2.2.2.2 o, fun _ => x2.2.2.2.2,
          by rw [x1], by rw [x1]⟩
      · rw [hy, xc.1] at h
        have y2 : y.cand n = { c with fail := true } := by rw [h]; exact Map.get_set_same _ _ _ _
        rw [y2]
        refine ⟨c1.1, c1.2.1, c1.2.2, ?_, ?_, ?_, ?_, fun k hk => ?_, fun o ho => ?_, fun hh => ?_, ?_, ?_⟩
        · rw [h]; exact x2.1
        · rw [h]; exact x2.2.1
        · rw [h]; exact x2.2.2.1
        · rw [h]; exact x2.2.2.2.1
        · rw [← xc.2 k hk, h]; exact Map.get_set_other _ _ _ _ _ hk
        · rw [h, count_other _ _ _ ho]; exact counter_cnt x2.2.2.2.2 o
        · rw [hn hh]; exact x2.2.2.2.2
        · rw [h]; show x.rs.epoch = _; rw [x1]
        · rw [h]; show x.rs.anchors = _; rw [x1]
    obtain ⟨q1, q2, q3, q4, q5, q6, q7, q8, q9, q10, q11, q12⟩ := y1
    rw [q11, q12]
    split
    · rename_i sec hsec
      refine ⟨q1, q2, q3, q4, q5, q6, q7, q8, q9, q10, fun sec' h => ?_, fun a h => ?_⟩
      · rw [hsec] at h; cases h; exact ⟨rfl, rfl, rfl⟩
      · rw [hsec] at h; cases h
    · rename_i a hn ha
      refine ⟨q1, q2, q3, q4, q5, q6, q7, q8, q9, q10, fun sec h => ?_, fun a' _ h => ?_⟩
      · rw [hn] at h; cases h
      · rw [ha] at h; cases h
        refine ⟨rfl, ?_⟩
        show y.rs.anchors.insert n _ = _
        rw [q12]
    · rename_i hn ha
      split
      · refine ⟨q1, q2, q3, q4, q5, q6, q7, q8, q9, q10, fun sec h => ?_, fun a' _ h => ?_⟩
        · rw [hn] at h; cases h
        · rw [ha] at h; cases h
      · refine ⟨q1, q2, q3, q4, q5, q6, q7, q8, q9, q10, fun sec h => ?_, fun a' _ h => ?_⟩
        · rw [hn] at h; cases h
        · rw [ha] at h; cases h

/-- What the row AGE_WINDOW_END does (R151). -/
theorem exec_ageWindowEnd : (∀ s : State, s.up = true → ((s.clk.ticks + 1) % s.ageSpan ≠ 0 ∨ s.rs.age.valid = false) → exec .ageWindowEnd s = .next s) ∧
  (∀ s : State, s.up = true → (s.clk.ticks + 1) % s.ageSpan = 0 → s.rs.age.valid = true →
    ∃ t, exec .ageWindowEnd s = .next t ∧ t.rs.age.valid = false ∧ t.td = s.td ∧ t.ports = s.ports ∧ t.cnt = s.cnt ∧ t.irq = s.irq ∧
      (∀ q : Reg, q.off ≠ RS_AGE.off → t.rd q = s.rd q) ∧
      (s.bit RS_CTL 2 = false ∨ (s.rs.age.n : Int) * s.rs.age.sxx ≤ s.rs.age.sx * s.rs.age.sx → t.regs = s.regs) ∧
      (∀ den : Int, den = (s.rs.age.n : Int) * s.rs.age.sxx - s.rs.age.sx * s.rs.age.sx → s.bit RS_CTL 2 = true → 0 < den →
        t.rd RS_AGE = ofSigned 32 (clampS 32 (roundDiv (((s.rs.age.n : Int) * s.rs.age.sxy - s.rs.age.sx * s.rs.age.sy) * 86400000000)
          (den.toNat * 65536))) &&& RS_AGE.mask)) := by
  have kk : ∀ s : State, exec .ageWindowEnd s = s.main fun s => s.ageEnd (s.clk.ticks + 1) := fun _ => rfl
  refine ⟨fun s hup h => ?_, fun s hup h1 h2 => ?_⟩
  · rw [kk, State.main_up hup]; unfold State.ageEnd; dsimp +zetaHave only; rw [if_pos h]
  · rw [kk, State.main_up hup]
    refine ⟨_, rfl, ?_⟩
    unfold State.ageEnd
    dsimp +zetaHave only
    rw [if_neg (by rintro (h | h); exact h h1; rw [h2] at h; exact absurd h (by decide))]
    generalize hden : (s.rs.age.n : Int) * s.rs.age.sxx - s.rs.age.sx * s.rs.age.sx = den
    generalize (((s.rs.age.n : Int) * s.rs.age.sxy - s.rs.age.sx * s.rs.age.sy) * 86400000000) = num
    by_cases hb : s.bit RS_CTL 2 = true ∧ 0 < den
    · rw [if_pos hb]
      refine ⟨rfl, rfl, rfl, rfl, rfl, fun q hq => State.rd_wr_other s RS_AGE q _ hq, fun h => ?_, fun d hd h1 h2 => ?_⟩
      · rcases h with h | h
        · rw [h] at hb; exact absurd hb.1 (by decide)
        · have := hb.2; omega
      · subst hd; exact State.rd_wr s RS_AGE _ (by decide)
    · rw [if_neg hb]
      refine ⟨rfl, rfl, rfl, rfl, rfl, fun q hq => rfl, fun h => rfl, fun d hd h1 h2 => absurd ⟨h1, hd ▸ h2⟩ hb⟩

/-- What the rows RS_CANDN_CFG_WRITE, RS_CANDN_DELAY_WRITE do (R139). -/
theorem exec_rsCandnCfgWrite_rsCandnDelayWrite : (∀ (s : State) (n v : Nat), s.up = true → 10 < n →
    exec (.rsCandnCfgWrite n v) s = .next s ∧ exec (.rsCandnDelayWrite n v) s = .next s) ∧
  (∀ (s : State) (n v : Nat) (c : Cand), s.Serving → n ≤ 10 → v < 2 ^ 32 → c = s.cand n →
    (∃ t, exec (.rsCandnCfgWrite n v) s = .next t ∧ t.rd (RS_CANDn_CFG n) = v &&& (RS_CANDn_CFG n).mask ∧
      (∀ q : Reg, q.off ≠ (RS_CANDn_CFG n).off → t.rd q = s.rd q) ∧ (∀ k, k ≠ n → t.cand k = s.cand k) ∧
      ((v &&& (RS_CANDn_CFG n).mask) / 16 = s.rd (RS_CANDn_CFG n) / 16 ∨ c.st = .off ∨ n = 10 → t.rs = s.rs) ∧
      ((v &&& (RS_CANDn_CFG n).mask) / 16 ≠ s.rd (RS_CANDn_CFG n) / 16 → c.st ≠ .off → n < 10 → (t.cand n).st = .lost ∧ (t.cand n).since = s.clk.ticks ∧
        (t.cand n).hist = [])) ∧
    (∃ t, exec (.rsCandnDelayWrite n v) s = .next t ∧ t.rd (RS_CANDn_DELAY n) = v &&& (RS_CANDn_DELAY n).mask ∧
      (∀ q : Reg, q.off ≠ (RS_CANDn_DELAY n).off → t.rd q = s.rd q) ∧ (∀ k, k ≠ n → t.cand k = s.cand k) ∧
      ((v &&& (RS_CANDn_DELAY n).mask) = s.rd (RS_CANDn_DELAY n) ∨ c.st = .off ∨ n = 10 → t.rs = s.rs) ∧
      ((v &&& (RS_CANDn_DELAY n).mask) ≠ s.rd (RS_CANDn_DELAY n) → c.st ≠ .off → n < 10 → (t.cand n).st = .lost ∧ (t.cand n).since = s.clk.ticks ∧
        (t.cand n).hist = []))) := by
  have k1 : ∀ (s : State) n v, exec (.rsCandnCfgWrite n v) s = .next (if n ≤ 10 then s.writeBy .host (RS_CANDn_CFG n).off false v else s) := fun _ _ _ => rfl
  have k2 : ∀ (s : State) n v, exec (.rsCandnDelayWrite n v) s = .next (if n ≤ 10 then s.writeBy .host (RS_CANDn_DELAY n).off false v else s) := fun _ _ _ => rfl
  refine ⟨fun s n v hup h => ⟨by rw [k1, if_neg (by omega)], by rw [k2, if_neg (by omega)]⟩, ?_⟩
  intro s n v c hs hn hv hc
  have hre : ∀ (w : State), w.rs = s.rs → w.clk = s.clk → (∀ q, (w.candReconfigure n).rd q = w.rd q) ∧ (∀ k, k ≠ n → (w.candReconfigure n).cand k = s.cand k) ∧
      (c.st = .off ∨ n = 10 → w.candReconfigure n = w) ∧
      (c.st ≠ .off → n < 10 → ((w.candReconfigure n).cand n).st = .lost ∧ ((w.candReconfigure n).cand n).since = s.clk.ticks ∧ ((w.candReconfigure n).cand n).hist = []) := by
    intro w hr hk
    have hw : ∀ k, w.cand k = s.cand k := fun k => by unfold State.cand; rw [hr]
    unfold State.candReconfigure
    dsimp +zetaHave only
    rw [hw, ← hc]
    by_cases h : c.st = .off ∨ n = 10
    · rw [if_pos h]
      refine ⟨fun _ => rfl, fun k _ => hw k, fun _ => rfl, fun h1 h2 => ?_⟩
      rcases h with h | h
      · exact absurd h h1
      · omega
    · rw [if_neg h]
      have hg : (w.candGo n .lost w.clk.ticks).cand n = { c with st := .lost, since := s.clk.ticks, run := 0 } ∧
          (∀ k, k ≠ n → (w.candGo n .lost w.clk.ticks).cand k = s.cand k) ∧ (w.candGo n .lost w.clk.ticks).regs = w.regs := by
        unfold State.candGo
        dsimp +zetaHave only
        rw [hw, ← hc, hk]
        generalize hy : (if CandState.lost = CandState.lost ∧ c.st ≠ CandState.off ∧ c.st ≠ CandState.lost then w.count RS_CNT_LOSS else w) = y
        have y1 : y.rs = s.rs ∧ y.regs = w.regs := by rw [← hy]; split <;> exact ⟨hr, rfl⟩
        refine ⟨setCand_same _ _ _, fun k hk => (setCand_other _ _ _ _ hk).trans ?_, y1.2⟩
        unfold State.cand; rw [y1.1]
      generalize w.candGo n .lost w.clk.ticks = y at hg
      obtain ⟨g1, g2, g3⟩ := hg
      have q1 : (y.setCand n { y.cand n with phi := none, hist := [] }).cand n = { y.cand n with phi := none, hist := [] } := Map.get_set_same _ _ _ _
      refine ⟨fun q => ?_, fun k hk => (Map.get_set_other _ _ _ _ _ hk).trans (g2 k hk), fun h' => absurd h' h, fun h1 h2 => ?_⟩
      · show y.rd q = _; unfold State.rd; rw [g3]
      · rw [q1, g1]; exact ⟨rfl, rfl, rfl⟩
  have ha : ∀ k, k = 0 ∨ k = 8 → alwaysOn (0x2400 + n * 0x10 + k) = false := by
    intro k hk; unfold alwaysOn; simp; omega
  refine ⟨?_, ?_⟩
  · rw [k1, if_pos hn, State.writeBy_serving hs _ _ _ _ (show alwaysOn (RS_CANDn_CFG n).off = false from ha 0 (.inl rfl)), cand_cfg_write _ _ _ _ hn hv]
    obtain ⟨t1, _, _, t4, _, _, t7, t8, _⟩ := touch_more s .host (RS_CANDn_CFG n).off
    generalize s.touch .host (RS_CANDn_CFG n).off = u at t1 t4 t7 t8
    refine ⟨_, rfl, ?_⟩
    unfold State.candCfgWrite
    dsimp +zetaHave only
    have r1 := State.rd_wr u (RS_CANDn_CFG n) v (by show (65503 : Nat) < 2 ^ 64; decide)
    have r2 : ∀ q : Reg, q.off ≠ (RS_CANDn_CFG n).off → (u.wr (RS_CANDn_CFG n) v).rd q = s.rd q := fun q hq => (State.rd_wr_other u _ q v hq).trans (t1 q)
    obtain ⟨h1, h2, h3, h4⟩ := hre (u.wr (RS_CANDn_CFG n) v) t8 t4
    rw [t1, r1]
    by_cases he : s.rd (RS_CANDn_CFG n) / 16 = (v &&& (RS_CANDn_CFG n).mask) / 16
    · rw [if_pos he]
      refine ⟨r1, r2, fun k _ => ?_, fun _ => t8, fun h => absurd he.symm h⟩
      show u.cand k = _; unfold State.cand; rw [t8]
    · rw [if_neg he]
      refine ⟨(h1 _).trans r1, fun q hq => (h1 q).trans (r2 q hq), h2, fun h => ?_, fun _ => h4⟩
      rcases h with h | h
      · exact absurd h.symm he
      · rw [h3 h]; exact t8
  · rw [k2, if_pos hn, State.writeBy_serving hs _ _ _ _ (show alwaysOn (RS_CANDn_DELAY n).off = false from ha 8 (.inr rfl)), cand_delay_write _ _ _ _ hn hv]
    obtain ⟨t1, _, _, t4, _, _, t7, t8, _⟩ := touch_more s .host (RS_CANDn_DELAY n).off
    generalize s.touch .host (RS_CANDn_DELAY n).off = u at t1 t4 t7 t8
    refine ⟨_, rfl, ?_⟩
    unfold State.candDelayWrite
    dsimp +zetaHave only
    have r1 := State.rd_wr u (RS_CANDn_DELAY n) v (by show (4294967295 : Nat) < 2 ^ 64; decide)
    have r2 : ∀ q : Reg, q.off ≠ (RS_CANDn_DELAY n).off → (u.wr (RS_CANDn_DELAY n) v).rd q = s.rd q := fun q hq => (State.rd_wr_other u _ q v hq).trans (t1 q)
    obtain ⟨h1, h2, h3, h4⟩ := hre (u.wr (RS_CANDn_DELAY n) v) t8 t4
    rw [t1, r1]
    by_cases he : s.rd (RS_CANDn_DELAY n) = (v &&& (RS_CANDn_DELAY n).mask)
    · rw [if_pos he]
      refine ⟨r1, r2, fun k _ => ?_, fun _ => t8, fun h => absurd he.symm h⟩
      show u.cand k = _; unfold State.cand; rw [t8]
    · rw [if_neg he]
      refine ⟨(h1 _).trans r1, fun q hq => (h1 q).trans (r2 q hq), h2, fun h => ?_, fun _ => h4⟩
      rcases h with h | h
      · exact absurd h.symm he
      · rw [h3 h]; exact t8

/-- What the row ACQUISITION_STEP does (R115). -/
theorem exec_acquisitionStep : (∀ (s : State) (e : Edge), s.up = true → s.td.stepDue = none → exec (.acquisitionStep e) s = .next s) ∧
  (∀ (s : State) (e : Edge) (d : Dom) (th : Int) (n : Nat), s.up = true → s.td.stepDue = some (d, th) → s.ev.freezes = [] →
    (s.td.acq = false ∨ ∀ k, s.pulseEn k = false) →
    n = ((gridFifths s.clk.course s.clk.cyc + 5 * th) / cycleFifths).toNat →
    ∃ t, exec (.acquisitionStep e) s = .next t ∧ t.clk.course = n / 625 ∧ t.clk.ticks = s.clk.ticks + 1 ∧ t.did = {} ∧ t.pending = s.pending ∧ t.ties = s.ties) := by
  have kk : ∀ (s : State) e, exec (.acquisitionStep e) s = s.main fun s => s.acquisitionStep e := fun _ _ => rfl
  refine ⟨fun s e hup h => ?_, fun s e d th n hup h hfz hpz hn => ?_⟩
  · rw [kk, State.main_up hup]; unfold State.acquisitionStep; rw [h]
  · rw [kk, State.main_up hup]
    refine ⟨_, rfl, ?_⟩
    unfold State.acquisitionStep
    rw [h]
    dsimp +zetaHave only
    unfold State.stepBy
    have e1 : s.pulsesLeft = s := by
      have hem : ∀ k, s.pulseEmit k = s := by
        intro k; unfold State.pulseEmit; rw [if_pos (hpz.elim .inr fun h => .inl (h k))]
      have hin : ∀ (l : List Nat) n, s.each l (fun s _ => s.pulseEmit n) = s := by
        intro l n
        induction l with
        | nil => rfl
        | cons a l ih => show State.each (s.pulseEmit n) l _ = s; rw [hem, ih]
      unfold State.pulsesLeft
      generalize List.range 8 = l
      induction l with
      | nil => rfl
      | cons a l ih => show State.each (s.each (List.range 5) fun s _ => s.pulseEmit a) l _ = s; rw [hin, ih]
    have e2 : s.freezesLeft = s := by
      have hem : s.freezeEmit = s := by unfold State.freezeEmit; rw [hfz]
      unfold State.freezesLeft
      generalize List.range 4 = l
      induction l with
      | nil => rfl
      | cons a l ih => show State.each s.freezeEmit l _ = s; rw [hem, ih]
    rw [e1, e2]
    have hst : (s.stepTime d th).clk.course = n / 625 ∧ (s.stepTime d th).clk.ticks = s.clk.ticks + 1 ∧ (s.stepTime d th).pending = s.pending ∧ (s.stepTime d th).ties = s.ties := by
      unfold State.stepTime
      dsimp +zetaHave only
      generalize hy : State.each _ _ _ = y
      have y1 : y.fixed = (s.pending, s.ties, s.ck.phase, n / 625, s.clk.ticks + 1) := by
        rw [← hy]
        refine (State.each_fixed _ _ _ fun x m => ?_).trans ?_
        · rfl
        · rw [hn]; rfl
      simp only [State.fixed, Prod.mk.injEq] at y1
      split
      · exact ⟨y1.2.2.2.1, y1.2.2.2.2, y1.1, y1.2.1⟩
      · exact ⟨y1.2.2.2.1, y1.2.2.2.2, y1.1, y1.2.1⟩
    generalize s.stepTime d th = x at hst
    have f1 := State.fixed_parts ((State.pulsesCatchUp_fixed _).trans ((State.seqTimeStep_fixed _).trans (State.stepShot_fixed x)))
    generalize x.stepShot.seqTimeStep.pulsesCatchUp = y at f1
    unfold State.stepEdgeWork
    dsimp +zetaHave only
    have f2 := State.fixed_parts (State.stepHealth_fixed y y.clk.course y.clk.ticks)
    generalize y.stepHealth y.clk.course y.clk.ticks = z at f2
    have key : ∀ (z : State) n nc t i, ((({ z with did := { z.did with servo := true } } : State).stepTimeEngine n nc t).stepWork n nc t i |>.stepCommands t).fixed = z.fixed :=
      fun z n nc t i => (State.stepCommands_fixed _ t).trans ((State.stepWork_fixed _ n nc t i).trans (State.stepTimeEngine_fixed _ n nc t))
    generalize hX : State.stepCommands _ _ = X
    have kp := State.fixed_parts (show X.fixed = z.fixed by rw [← hX]; exact key z _ _ _ _)
    exact ⟨kp.2.2.2.1.trans (f2.2.2.2.1.trans (f1.2.2.2.1.trans hst.1)), kp.2.2.2.2.trans (f2.2.2.2.2.trans (f1.2.2.2.2.trans hst.2.1)), rfl,
      kp.1.trans (f2.1.trans (f1.1.trans hst.2.2.1)), kp.2.1.trans (f2.2.1.trans (f1.2.1.trans hst.2.2.2))⟩

/-- What the row PLAN_EVALUATE does (R124). -/
theorem exec_planEvaluate : (∀ s : State, s.up = true → (s.td.acq = false ∨ s.td.plan = none) → exec .planEvaluate s = .next s) ∧
  (∀ (s : State) (pl : Plan), s.up = true → s.isEave = true → s.td.acq = true → s.td.plan = some pl →
    ∃ t, exec .planEvaluate s = .next t ∧
      (s.clk.course + 1 < pl.course → t.td.plan = some pl ∧ t.td.outcome = s.td.outcome ∧ t.td.sel = s.td.sel ∧ t.cnt = s.cnt ∧ t.irq = s.irq) ∧
      (pl.course ≤ s.clk.course + 1 → t.td.plan = none ∧
        (s.td.sel = pl.target → t.td.outcome = 1 ∧ t.td.sel = s.td.sel ∧ t.cnt = s.cnt ∧ t.irq = s.irq) ∧
        (s.td.sel ≠ pl.target → s.tracked pl.target = true → t.td.outcome = 1 ∧ t.td.sel = pl.target ∧ (t.servo pl.target).b = 0 ∧
          t.counter TD_CNT_SWITCH = (s.counter TD_CNT_SWITCH + 1) % 2 ^ 32) ∧
        (s.td.sel ≠ pl.target → s.tracked pl.target = false → t.td.outcome = 2 ∧ t.td.sel = s.td.sel ∧ t.cnt = s.cnt ∧
          t.irq.getLsbD 5 = true))) := by
  have kk : ∀ (s : State), exec .planEvaluate s = s.main fun s => if s.td.acq = true ∧ s.td.plan.isSome = true then s.advancePhase.planEvaluate (s.clk.course + 1) else s := fun _ => rfl
  refine ⟨fun s hup h => ?_, fun s pl hup he ha hpl => ?_⟩
  · rw [kk, State.main_up hup, if_neg]
    rintro ⟨h1, h2⟩
    rcases h with h | h
    · rw [h] at h1; exact absurd h1 (by decide)
    · rw [h] at h2; exact absurd h2 (by decide)
  · rw [kk, State.main_up hup, if_pos ⟨ha, by rw [hpl]; rfl⟩]
    refine ⟨_, rfl, ?_⟩
    have w1 : s.advancePhase.td.plan = some pl ∧ s.advancePhase.td.outcome = s.td.outcome ∧ s.advancePhase.td.sel = s.td.sel ∧ s.advancePhase.cnt = s.cnt ∧
        s.advancePhase.irq = s.irq ∧ s.advancePhase.isEave = true ∧ (∀ d, s.advancePhase.tracked d = s.tracked d) := by
      unfold State.advancePhase
      split
      · exact ⟨hpl, rfl, rfl, rfl, rfl, he, fun _ => rfl⟩
      · dsimp +zetaHave only
        exact ⟨hpl, rfl, rfl, rfl, rfl, he, fun d => by cases d <;> rfl⟩
    generalize s.advancePhase = w at w1
    obtain ⟨w1, w2, w3, w4, w5, w6, w7⟩ := w1
    unfold State.planEvaluate
    rw [w1]
    dsimp +zetaHave only
    by_cases hl : s.clk.course + 1 < pl.course
    · rw [if_pos hl]
      exact ⟨fun _ => ⟨w1, w2, w3, w4, w5⟩, fun h => by omega⟩
    · rw [if_neg hl]
      refine ⟨fun h => absurd h hl, fun _ => ?_⟩
      rw [if_neg (c := State.isEave { w with td := { w.td with plan := none } } = false) (by show ¬ w.isEave = false; rw [w6]; decide)]
      have ht : ∀ d, State.tracked { w with td := { w.td with plan := none } } d = s.tracked d := fun d => w7 d
      rw [ht, w3]
      by_cases hsel : s.td.sel = pl.target
      · rw [if_pos hsel]
        exact ⟨rfl, fun _ => ⟨rfl, rfl, w4, w5⟩, fun h => absurd hsel h, fun h => absurd hsel h⟩
      · rw [if_neg hsel]
        by_cases htr : s.tracked pl.target = true
        · rw [if_pos htr]
          refine ⟨?_, fun h => absurd h hsel, fun _ _ => ?_, fun _ h => absurd (h.symm.trans htr) (by decide)⟩
          · generalize (if overPs _ _ = true then SwitchKind.wide else SwitchKind.plan) = k
            generalize overPs _ _ = wd
            unfold State.switchTo
            cases k <;> rfl
          · generalize (if overPs _ _ = true then SwitchKind.wide else SwitchKind.plan) = k
            generalize overPs _ _ = wd
            refine ⟨rfl, ?_, ?_, ?_⟩
            · unfold State.switchTo; cases k <;> rfl
            · unfold State.switchTo; cases k <;> cases pl.target <;> rfl
            · rw [← counter_cnt w4]
              unfold State.switchTo
              have hc : ∀ y : State, y.cnt = w.cnt → ∀ k, (match k with | SwitchKind.plan => y.count TD_CNT_SWITCH | .wide => (y.count TD_CNT_SWITCH).raise 8 | .unplanned => (y.count TD_CNT_SWITCH).raise 8).counter TD_CNT_SWITCH = (w.counter TD_CNT_SWITCH + 1) % 2 ^ 32 := by
                intro y hy k
                have : (y.count TD_CNT_SWITCH).counter TD_CNT_SWITCH = (w.counter TD_CNT_SWITCH + 1) % 2 ^ 32 := by rw [count_same, counter_cnt hy]
                cases k <;> exact this
              cases k <;> first | exact hc _ rfl .plan | exact hc _ rfl .wide | exact hc _ rfl .unplanned
        · rw [if_neg htr]
          refine ⟨rfl, fun h => absurd h hsel, fun _ h => absurd h htr, fun _ _ => ⟨rfl, rfl, w4, ?_⟩⟩
          unfold State.raise; simp

/-- What one domain's update leaves alone: the other domain, the clock, the ports and the counters but those named. -/
structure ServoKeep (d : Dom) (s r : State) : Prop where
  other : r.servo d.other = s.servo d.other
  clk : r.clk = s.clk
  ports : r.ports = s.ports
  did : r.did = s.did
  ties : r.ties = s.ties
  th : (r.servo d).th = (s.servo d).th
  corr : (r.servo d).corrP = (s.servo d).corrP
  upd : (r.servo d).upd = (s.servo d).upd

theorem other_ne (d : Dom) : d.other ≠ d := by cases d <;> decide

theorem put_keep (s : State) (d : Dom) (v : Servo) (h1 : v.th = (s.servo d).th) (h2 : v.corrP = (s.servo d).corrP) (h3 : v.upd = (s.servo d).upd) :
    ServoKeep d s (s.setServo d v) := by
  obtain ⟨a, b⟩ := servo_put s d v
  exact ⟨b _ (other_ne d), rfl, rfl, rfl, rfl, by rw [a, h1], by rw [a, h2], by rw [a, h3]⟩

theorem keep_trans {d : Dom} {s r t : State} (h1 : ServoKeep d s r) (h2 : ServoKeep d r t) : ServoKeep d s t :=
  ⟨h2.other.trans h1.other, h2.clk.trans h1.clk, h2.ports.trans h1.ports, h2.did.trans h1.did, h2.ties.trans h1.ties, h2.th.trans h1.th, h2.corr.trans h1.corr, h2.upd.trans h1.upd⟩

theorem count_keep (d : Dom) (s : State) (a k : Nat) : ServoKeep d s (s.count a k) := ⟨rfl, rfl, rfl, rfl, rfl, rfl, rfl, rfl⟩

theorem raise_keep (d : Dom) (s : State) (k : Nat) : ServoKeep d s (s.raise k) := ⟨rfl, rfl, rfl, rfl, rfl, rfl, rfl, rfl⟩

theorem raiseIf_keep (d : Dom) (s : State) (c : Bool) (k : Nat) : ServoKeep d s (s.raiseIf c k) ∧ (s.raiseIf c k).cnt = s.cnt ∧ (s.raiseIf c k).servo d = s.servo d := by
  unfold State.raiseIf; cases c
  · exact ⟨⟨rfl, rfl, rfl, rfl, rfl, rfl, rfl, rfl⟩, rfl, rfl⟩
  · exact ⟨⟨rfl, rfl, rfl, rfl, rfl, rfl, rfl, rfl⟩, rfl, rfl⟩

theorem self_keep (d : Dom) (s : State) : ServoKeep d s s := ⟨rfl, rfl, rfl, rfl, rfl, rfl, rfl, rfl⟩

theorem hold_keep (s : State) (d : Dom) (nc : Nat) : ServoKeep d s (s.enterHold d nc) ∧ ((s.enterHold d nc).servo d).p = (s.servo d).p ∧
    (∀ o, o ≠ RS_CNT_HOLD → (s.enterHold d nc).counter o = s.counter o) := by
  unfold State.enterHold
  dsimp +zetaHave only
  obtain ⟨k1, k2, k3⟩ := raiseIf_keep d s ((s.servo d).locked && decide (d = s.td.sel) && s.td.acq) 7
  generalize s.raiseIf _ 7 = y at k1 k2 k3
  have hp : ∀ v : Servo, v.th = (s.servo d).th → v.corrP = (s.servo d).corrP → v.upd = (s.servo d).upd → v.p = (s.servo d).p →
      ServoKeep d s (((y.setServo d v).count RS_CNT_HOLD).raise 4) ∧ ((((y.setServo d v).count RS_CNT_HOLD).raise 4).servo d).p = (s.servo d).p ∧
      (∀ o, o ≠ RS_CNT_HOLD → (((y.setServo d v).count RS_CNT_HOLD).raise 4).counter o = s.counter o) := by
    intro v h1 h2 h3 h4
    have a := keep_trans k1 (put_keep y d v (by rw [k3, h1]) (by rw [k3, h2]) (by rw [k3, h3]))
    refine ⟨keep_trans (keep_trans a (count_keep d _ _ _)) (raise_keep d _ _), ?_, fun o ho => ?_⟩
    · show ((y.setServo d v).servo d).p = _; rw [(servo_put y d v).1, h4]
    · show ((y.setServo d v).count RS_CNT_HOLD).counter o = _
      rw [count_other _ _ _ ho]
      exact counter_cnt k2 o
  refine hp _ ?_ ?_ ?_ ?_ <;> rfl

theorem skip_facts (s : State) (d : Dom) (nc : Nat) : ServoKeep d s (s.skipUpdate d nc) ∧ ((s.skipUpdate d nc).servo d).p = (s.servo d).p ∧
    (∀ o, o ≠ RS_CNT_HOLD → (s.skipUpdate d nc).counter o = if o = TD_x_CNT_SKIP d.num then (s.counter o + 1) % 2 ^ 32 else s.counter o) := by
  have hc : ∀ (r : State), r.cnt = (s.count (TD_x_CNT_SKIP d.num)).cnt → ∀ o, r.counter o = if o = TD_x_CNT_SKIP d.num then (s.counter o + 1) % 2 ^ 32 else s.counter o :=
    fun r hr o => by rw [counter_cnt hr, counter_one]
  have hp : ∀ v : Servo, v.th = (s.servo d).th → v.corrP = (s.servo d).corrP → v.upd = (s.servo d).upd → v.p = (s.servo d).p →
      ServoKeep d s ((s.count (TD_x_CNT_SKIP d.num)).setServo d v) ∧ (((s.count (TD_x_CNT_SKIP d.num)).setServo d v).servo d).p = (s.servo d).p ∧
      (∀ o, o ≠ RS_CNT_HOLD → ((s.count (TD_x_CNT_SKIP d.num)).setServo d v).counter o = if o = TD_x_CNT_SKIP d.num then (s.counter o + 1) % 2 ^ 32 else s.counter o) :=
    fun v h1 h2 h3 h4 => ⟨keep_trans (count_keep d s _ _) (put_keep _ d v h1 h2 h3), by rw [(servo_put _ d v).1, h4], fun o _ => hc _ rfl o⟩
  unfold State.skipUpdate
  dsimp +zetaHave only
  split
  · exact ⟨count_keep d s _ _, rfl, fun o _ => hc _ rfl o⟩
  · split
    · refine hp _ ?_ ?_ ?_ ?_ <;> rfl
    · split
      · refine hp _ ?_ ?_ ?_ ?_ <;> rfl
      · refine hp _ ?_ ?_ ?_ ?_ <;> rfl
    · split
      · obtain ⟨a1, a2, a3⟩ := hp { s.servo d with skipRun := (s.servo d).skipRun + 1 } rfl rfl rfl rfl
        obtain ⟨b1, b2, b3⟩ := hold_keep ((s.count (TD_x_CNT_SKIP d.num)).setServo d { s.servo d with skipRun := (s.servo d).skipRun + 1 }) d nc
        exact ⟨keep_trans a1 b1, b2.trans a2, fun o ho => (b3 o ho).trans (a3 o ho)⟩
      · refine hp _ ?_ ?_ ?_ ?_ <;> rfl
    · refine hp _ ?_ ?_ ?_ ?_ <;> rfl

theorem freq_facts (s : State) (d : Dom) (th : Int) (t : Nat) : ServoKeep d s (s.freqUpdate d th t) ∧ ((s.freqUpdate d th t).servo d).p = th * phaseScale ∧
    ((s.freqUpdate d th t).servo d).skipRun = (s.servo d).skipRun ∧ (s.freqUpdate d th t).cnt = s.cnt := by
  have hp : ∀ v : Servo, v.th = (s.servo d).th → v.corrP = (s.servo d).corrP → v.upd = (s.servo d).upd → v.p = th * phaseScale → v.skipRun = (s.servo d).skipRun →
      ServoKeep d s (s.setServo d v) ∧ ((s.setServo d v).servo d).p = th * phaseScale ∧ ((s.setServo d v).servo d).skipRun = (s.servo d).skipRun ∧ (s.setServo d v).cnt = s.cnt :=
    fun v h1 h2 h3 h4 h5 => ⟨put_keep _ d v h1 h2 h3, by rw [(servo_put _ d v).1, h4], by rw [(servo_put _ d v).1, h5], rfl⟩
  unfold State.freqUpdate
  dsimp +zetaHave only
  repeat' split
  all_goals refine hp _ ?_ ?_ ?_ ?_ ?_ <;> rfl

theorem track_facts (s : State) (d : Dom) (th : Int) (t : Nat) : ServoKeep d s (s.trackUpdate d th t) ∧ ((s.trackUpdate d th t).servo d).p = th * phaseScale ∧
    ((s.trackUpdate d th t).servo d).skipRun = (s.servo d).skipRun ∧ (∀ o, o ≠ TD_CNT_ALARM → (s.trackUpdate d th t).counter o = s.counter o) := by
  have hst : ∀ w : State, ServoKeep d w w.steerUpdate ∧ w.steerUpdate.servo d = w.servo d ∧ (∀ o, o ≠ TD_CNT_ALARM → w.steerUpdate.counter o = w.counter o) := by
    intro w
    unfold State.steerUpdate
    dsimp +zetaHave only
    have hs : ∀ z, z = w.steer → ServoKeep d w z ∧ z.servo d = w.servo d ∧ z.cnt = w.cnt := by
      rintro z rfl; exact ⟨⟨rfl, rfl, rfl, rfl, rfl, rfl, rfl, rfl⟩, rfl, rfl⟩
    obtain ⟨a1, a2, a3⟩ := hs _ rfl
    generalize w.steer = z at a1 a2 a3
    split
    · refine ⟨keep_trans a1 ⟨rfl, rfl, rfl, rfl, rfl, rfl, rfl, rfl⟩, a2, fun o ho => ?_⟩
      show (State.count _ TD_CNT_ALARM).counter o = _
      rw [count_other _ _ _ ho]
      exact counter_cnt a3 o
    · exact ⟨keep_trans a1 ⟨rfl, rfl, rfl, rfl, rfl, rfl, rfl, rfl⟩, a2, fun o _ => counter_cnt a3 o⟩
  unfold State.trackUpdate
  dsimp +zetaHave only
  generalize hy : s.setServo d _ = y
  have y0 : ServoKeep d s y ∧ (y.servo d).p = th * phaseScale ∧ (y.servo d).skipRun = (s.servo d).skipRun ∧ y.cnt = s.cnt := by
    rw [← hy]
    exact ⟨put_keep _ d _ rfl rfl rfl, by rw [(servo_put _ d _).1], by rw [(servo_put _ d _).1], rfl⟩
  have hz : ∀ z, (z = y ∨ z = y.unlock d) → ServoKeep d s z ∧ (z.servo d).p = th * phaseScale ∧ (z.servo d).skipRun = (s.servo d).skipRun ∧ z.cnt = s.cnt := by
    rintro z (rfl | rfl)
    · exact y0
    · unfold State.unlock State.modServo
      obtain ⟨r1, r2, r3⟩ := raiseIf_keep d (y.setServo d { y.servo d with locked := false }) (decide (d = y.td.sel) && y.td.acq) 7
      have p1 := put_keep y d { y.servo d with locked := false } rfl rfl rfl
      refine ⟨keep_trans y0.1 (keep_trans p1 r1), ?_, ?_, r2.trans y0.2.2.2⟩
      · rw [r3, (servo_put y d _).1]; exact y0.2.1
      · rw [r3, (servo_put y d _).1]; exact y0.2.2.1
  have hfin : ∀ z, (z = y ∨ z = y.unlock d) → ∀ c : Bool, ServoKeep d s (if c = true then z.steerUpdate else z) ∧ ((if c = true then z.steerUpdate else z).servo d).p = th * phaseScale ∧
      ((if c = true then z.steerUpdate else z).servo d).skipRun = (s.servo d).skipRun ∧ (∀ o, o ≠ TD_CNT_ALARM → (if c = true then z.steerUpdate else z).counter o = s.counter o) := by
    intro z h c
    obtain ⟨z1, z2, z3, z4⟩ := hz z h
    cases c with
    | false => exact ⟨z1, z2, z3, fun o _ => counter_cnt z4 o⟩
    | true =>
      obtain ⟨t1, t2, t3⟩ := hst z
      exact ⟨keep_trans z1 t1, by simp only [reduceIte]; rw [t2, z2], by simp only [reduceIte]; rw [t2, z3], fun o ho => (t3 o ho).trans (counter_cnt z4 o)⟩
  have hT := fun z h => hfin z h true
  have hF := fun z h => hfin z h false
  simp only [Bool.false_eq_true, reduceIte] at hT hF
  repeat' split
  all_goals first | exact hT _ (.inr rfl) | exact hT _ (.inl rfl) | exact hF _ (.inr rfl) | exact hF _ (.inl rfl)

/-- The first valid sample of FREQ sets the rate and its marks, and nothing of the update. -/
theorem first_facts (s : State) (d : Dom) : ServoKeep d s (s.firstSample d) ∧ ((s.firstSample d).servo d).skipRun = (s.servo d).skipRun ∧ (s.firstSample d).cnt = s.cnt := by
  unfold State.firstSample
  dsimp +zetaHave only
  refine ⟨put_keep _ d _ rfl rfl rfl, ?_, rfl⟩
  rw [(modServo_put _ d _).1]

/-- One domain's update. -/
theorem update_facts (s : State) (d : Dom) (hw : Option Int) (nc t : Nat) (x : Option Int)
    (hx : x = (if (s.servo d).forced then none else if (s.servo d).openLoop then (s.servo d).corrP else hw)) (r : State) (hr : r = s.servoUpdate d hw nc t) :
    r.servo d.other = s.servo d.other ∧ r.clk = s.clk ∧ r.ports = s.ports ∧ r.did = s.did ∧ r.ties = s.ties ∧
    (r.servo d).th = [] ∧ (r.servo d).corrP = none ∧
    (x = none → (r.servo d).upd = (s.servo d).upd ∧ (r.servo d).p = (s.servo d).p) ∧
    (∀ th, x = some th → (r.servo d).upd = nc - 1 ∧ (r.servo d).skipRun = 0 ∧ (r.servo d).p = th * phaseScale) ∧
    (∀ o, o ≠ RS_CNT_HOLD → o ≠ TD_CNT_ALARM → r.counter o = if o = (if x = none then TD_x_CNT_SKIP d.num else TD_x_CNT_UPD d.num) then (s.counter o + 1) % 2 ^ 32 else s.counter o) := by
  have hu : s.updateSample d hw = x := by rw [hx]; rfl
  subst hr
  unfold State.servoUpdate
  dsimp +zetaHave only
  rw [hu]
  generalize hv : ({ s.servo d with latest := _, th := [], corrP := none, corrCnt := _, openTick := _ } : Servo) = v
  obtain ⟨p1, p2⟩ := servo_put s d v
  have v1 : v.th = [] ∧ v.corrP = none ∧ v.upd = (s.servo d).upd ∧ v.p = (s.servo d).p := by rw [← hv]; exact ⟨rfl, rfl, rfl, rfl⟩
  have o1 : (s.setServo d v).servo d.other = s.servo d.other := p2 _ (other_ne d)
  have c1 : (s.setServo d v).cnt = s.cnt := rfl
  have e1 : (s.setServo d v).clk = s.clk ∧ (s.setServo d v).ports = s.ports ∧ (s.setServo d v).did = s.did ∧ (s.setServo d v).ties = s.ties := ⟨rfl, rfl, rfl, rfl⟩
  generalize s.setServo d v = w at p1 o1 c1 e1
  cases x with
  | none =>
    dsimp only
    obtain ⟨k, kp, kc⟩ := skip_facts w d nc
    refine ⟨k.other.trans o1, k.clk.trans e1.1, k.ports.trans e1.2.1, k.did.trans e1.2.2.1, k.ties.trans e1.2.2.2, by rw [k.th, p1, v1.1], by rw [k.corr, p1, v1.2.1],
      fun _ => ⟨by rw [k.upd, p1, v1.2.2.1], by rw [kp, p1, v1.2.2.2]⟩, fun th h => (by cases h), fun o h1 h2 => ?_⟩
    rw [kc o h1, if_pos rfl, counter_cnt c1]
  | some th =>
    dsimp only
    rw [evt_one]
    generalize hz : ((w.count (TD_x_CNT_UPD d.num)).modServo d fun v => { v with upd := nc - 1, skipRun := 0 }) = z
    have z0 : z.servo d = { v with upd := nc - 1, skipRun := 0 } ∧ z.servo d.other = s.servo d.other ∧ z.clk = s.clk ∧ z.ports = s.ports ∧ z.did = s.did ∧ z.ties = s.ties ∧
        z.cnt = (w.count (TD_x_CNT_UPD d.num)).cnt := by
      rw [← hz]
      obtain ⟨q1, q2⟩ := servo_put (w.count (TD_x_CNT_UPD d.num)) d { w.servo d with upd := nc - 1, skipRun := 0 }
      exact ⟨q1.trans (by rw [p1]), (q2 _ (other_ne d)).trans o1, e1.1, e1.2.1, e1.2.2.1, e1.2.2.2, rfl⟩
    have base : ∀ (y r : State), y.servo = z.servo → y.clk = z.clk → y.ports = z.ports → y.did = z.did → y.ties = z.ties → y.cnt = z.cnt →
        ServoKeep d y r → (r.servo d).p = th * phaseScale → (r.servo d).skipRun = 0 → (∀ o, o ≠ TD_CNT_ALARM → r.counter o = y.counter o) →
        r.servo d.other = s.servo d.other ∧ r.clk = s.clk ∧ r.ports = s.ports ∧ r.did = s.did ∧ r.ties = s.ties ∧
        (r.servo d).th = [] ∧ (r.servo d).corrP = none ∧
        (some th = none → (r.servo d).upd = (s.servo d).upd ∧ (r.servo d).p = (s.servo d).p) ∧
        (∀ th', some th = some th' → (r.servo d).upd = nc - 1 ∧ (r.servo d).skipRun = 0 ∧ (r.servo d).p = th' * phaseScale) ∧
        (∀ o, o ≠ RS_CNT_HOLD → o ≠ TD_CNT_ALARM → r.counter o = if o = (if some th = none then TD_x_CNT_SKIP d.num else TD_x_CNT_UPD d.num) then (s.counter o + 1) % 2 ^ 32 else s.counter o) := by
      intro y r y1 y2 y3 y4 y5 y6 k kp ks kc
      obtain ⟨z1, z2, z3, z4, z5, z6, z7⟩ := z0
      refine ⟨by rw [k.other, y1, z2], by rw [k.clk, y2, z3], by rw [k.ports, y3, z4], by rw [k.did, y4, z5], by rw [k.ties, y5, z6],
        by rw [k.th, y1, z1]; exact v1.1, by rw [k.corr, y1, z1]; exact v1.2.1, fun h => (by cases h), fun th' h => ?_, fun o h1 h2 => ?_⟩
      · cases h; exact ⟨by rw [k.upd, y1, z1], ks, kp⟩
      · rw [kc o h2, counter_cnt y6, counter_cnt z7, counter_one, counter_cnt c1, if_neg (c := some th = none) (by simp)]
    have zs : (z.servo d).skipRun = 0 := by rw [z0.1]
    generalize hy : z.emit (.perfEvt 1 1) = y
    have ys : (y.servo d).skipRun = 0 := by rw [← hy]; exact zs
    have fr : ∀ y' : State, ServoKeep d y y' → (y'.servo d).skipRun = 0 → y'.cnt = y.cnt →
        ServoKeep d y (y'.freqUpdate d th t) ∧ ((y'.freqUpdate d th t).servo d).p = th * phaseScale ∧ ((y'.freqUpdate d th t).servo d).skipRun = 0 ∧
          (∀ o, o ≠ TD_CNT_ALARM → (y'.freqUpdate d th t).counter o = y.counter o) := by
      intro y' h1 h2 h3
      obtain ⟨f1, f2, f3, f4⟩ := freq_facts y' d th t
      exact ⟨keep_trans h1 f1, f2, f3.trans h2, fun o _ => counter_cnt (f4.trans h3) o⟩
    obtain ⟨k1, k2, k3⟩ := first_facts y d
    have go : ∀ r, ServoKeep d y r → (r.servo d).p = th * phaseScale → (r.servo d).skipRun = 0 → (∀ o, o ≠ TD_CNT_ALARM → r.counter o = y.counter o) → _ :=
      fun r => base y r (by rw [← hy]; rfl) (by rw [← hy]; rfl) (by rw [← hy]; rfl) (by rw [← hy]; rfl) (by rw [← hy]; rfl) (by rw [← hy]; rfl)
    split
    · obtain ⟨f1, f2, f3, f4⟩ := fr _ k1 (k2.trans ys) k3
      exact go _ f1 f2 f3 f4
    · split
      · obtain ⟨f1, f2, f3, f4⟩ := fr _ k1 (k2.trans ys) k3
        exact go _ f1 f2 f3 f4
      · obtain ⟨f1, f2, f3, f4⟩ := fr y ⟨rfl, rfl, rfl, rfl, rfl, rfl, rfl, rfl⟩ ys rfl
        exact go _ f1 f2 f3 f4
    · obtain ⟨f1, f2, f3, f4⟩ := track_facts y d th t
      exact go _ f1 f2 (f3.trans ys) f4

theorem updates_eave (w : State) (n nc t : Nat) (he : w.isEave = true) (h1 : n % 1024 = 1023) (h2 : w.underlay = false) (h3 : w.follower = false)
    (h4 : w.did.servo = false) (w' q : State) (hw' : w' = { w with did := { w.did with servo := true } })
    (hq : q = ((w'.servoUpdate .a (w'.linkSample .a) nc t).servoUpdate .b (w'.linkSample .b) nc t).acqCheck.autoAcquire) :
    w.updates n nc t = if (q.servo q.td.sel).upd = n ∧ q.rs.age.valid = true then q.agePoint t else q := by
  have hroot : ∀ y : State, y.ties = w.ties → y.isRoot = false := by
    intro y hy
    unfold State.isEave at he
    unfold State.isRoot State.isRidge; rw [hy, of_decide_eq_true he]; rfl
  have hs : ∀ (y : State) d, y.ties = w.ties → y.hardwareSample d = (y, y.linkSample d) := by
    intro y d hy
    unfold State.hardwareSample
    rw [if_neg (by rw [hroot y hy]; rintro ⟨h, _⟩; exact absurd h (by decide))]
  unfold State.updates
  rw [if_neg (by rintro (h | h | h | h); exact h h1; rw [h2] at h; exact absurd h (by decide); rw [h3] at h; exact absurd h (by decide); rw [h4] at h; exact absurd h (by decide))]
  have t0 : w'.ties = w.ties := by rw [hw']
  have ra : ∀ x, (w'.servoUpdate .a x nc t).isRoot = false := fun x => hroot _ (((update_facts w' .a x nc t _ rfl _ rfl).2.2.2.2.1).trans t0)
  have r0 := hroot w' t0
  rw [hq]
  dsimp +zetaHave only
  rw [← hw', hs w' .a t0]
  dsimp only
  rw [hs w' .b t0]
  dsimp only
  cases ha : w'.linkSample .a <;> cases hb : w'.linkSample .b <;> dsimp only <;>
    simp only [r0, ra, Bool.false_eq_true, false_and, reduceIte]

/-- What the row SERVO_UPDATE does (R111). -/
theorem exec_servoUpdate : (∀ s : State, s.up = true → s.clk.course % 1024 ≠ 1023 → exec .servoUpdate s = .next s) ∧
  (∀ s : State, s.up = true → s.isEave = true → s.clk.course % 1024 = 1023 → s.underlay = false → s.follower = false → s.did.servo = false →
    ∃ t, exec .servoUpdate s = .next t ∧ t.clk = s.clk ∧ t.ports = s.ports ∧ t.did.servo = true ∧
      ∀ (d : Dom) (v : Servo) (x : Option Int), v = s.servo d →
        x = (if v.forced then none else if v.openLoop then v.corrP else s.linkSample d) →
        (t.servo d).th = [] ∧ (t.servo d).corrP = none ∧
        (x = none → (t.servo d).upd = v.upd ∧ t.counter (TD_x_CNT_SKIP d.num) = (s.counter (TD_x_CNT_SKIP d.num) + 1) % 2 ^ 32 ∧
          t.counter (TD_x_CNT_UPD d.num) = s.counter (TD_x_CNT_UPD d.num) ∧
          (s.did.phase = false → (t.servo d).p = clampS 112 (v.p + (v.f - s.td.rEff) * 65536000))) ∧
        (∀ th, x = some th → (t.servo d).upd = s.clk.course ∧ (t.servo d).skipRun = 0 ∧ (t.servo d).p = th * phaseScale ∧
          t.counter (TD_x_CNT_UPD d.num) = (s.counter (TD_x_CNT_UPD d.num) + 1) % 2 ^ 32 ∧
          t.counter (TD_x_CNT_SKIP d.num) = s.counter (TD_x_CNT_SKIP d.num))) := by
  have kk : ∀ (s : State), exec .servoUpdate s = s.main fun s => if s.clk.course % 1024 = 1023 then s.advancePhase.updates s.clk.course (s.clk.course + 1) (s.clk.ticks + 1) else s := fun _ => rfl
  refine ⟨fun s hup h => by rw [kk, State.main_up hup, if_neg h], fun s hup he h1 h2 h3 h4 => ?_⟩
  rw [kk, State.main_up hup, if_pos h1]
  refine ⟨_, rfl, ?_⟩
  have w0 : ∀ w, w = s.advancePhase → w.clk = s.clk ∧ w.ports = s.ports ∧ w.did.servo = false ∧ w.underlay = false ∧ w.follower = false ∧ w.isEave = true ∧ w.cnt = s.cnt ∧
      (∀ d, (w.servo d).forced = (s.servo d).forced ∧ (w.servo d).openLoop = (s.servo d).openLoop ∧ (w.servo d).corrP = (s.servo d).corrP ∧ (w.servo d).upd = (s.servo d).upd ∧
        w.linkSample d = s.linkSample d ∧ (s.did.phase = false → (w.servo d).p = clampS 112 ((s.servo d).p + ((s.servo d).f - s.td.rEff) * 65536000))) := by
    rintro w rfl
    unfold State.advancePhase
    split
    · rename_i hph
      exact ⟨rfl, rfl, h4, h2, h3, he, rfl, fun d => ⟨rfl, rfl, rfl, rfl, rfl, fun h => absurd (hph.symm.trans h) (by decide)⟩⟩
    · dsimp +zetaHave only
      refine ⟨rfl, rfl, h4, h2, h3, he, rfl, fun d => ?_⟩
      cases d <;> exact ⟨rfl, rfl, rfl, rfl, rfl, fun _ => rfl⟩
  obtain ⟨w1, w2, w3, w4, w5, w6, w7, w8⟩ := w0 _ rfl
  generalize s.advancePhase = w at w1 w2 w3 w4 w5 w6 w7 w8
  obtain ⟨w', hw'⟩ : ∃ w' : State, w' = { w with did := { w.did with servo := true } } := ⟨_, rfl⟩
  obtain ⟨q, hqq⟩ : ∃ q, q = ((w'.servoUpdate .a (w'.linkSample .a) (s.clk.course + 1) (s.clk.ticks + 1)).servoUpdate .b (w'.linkSample .b) (s.clk.course + 1) (s.clk.ticks + 1)).acqCheck.autoAcquire := ⟨_, rfl⟩
  have ht := updates_eave w s.clk.course (s.clk.course + 1) (s.clk.ticks + 1) w6 h1 w4 w5 w3 w' q hw' hqq
  generalize w.updates s.clk.course (s.clk.course + 1) (s.clk.ticks + 1) = t at ht
  have l1 : ∀ d, w'.linkSample d = s.linkSample d ∧ w'.servo d = w.servo d := fun d => by rw [hw']; exact ⟨(w8 d).2.2.2.2.1, rfl⟩
  obtain ⟨xa, hxa⟩ : ∃ x, x = (if (w'.servo .a).forced then none else if (w'.servo .a).openLoop then (w'.servo .a).corrP else w'.linkSample .a) := ⟨_, rfl⟩
  have ua := update_facts w' .a (w'.linkSample .a) (s.clk.course + 1) (s.clk.ticks + 1) xa hxa _ rfl
  generalize w'.servoUpdate .a _ _ _ = ra at ua hqq
  obtain ⟨a1, a2, a3, a4, a5, a6, a7, a8, a9, a10⟩ := ua
  obtain ⟨xb, hxb⟩ : ∃ x, x = (if (ra.servo .b).forced then none else if (ra.servo .b).openLoop then (ra.servo .b).corrP else w'.linkSample .b) := ⟨_, rfl⟩
  have ub := update_facts ra .b (w'.linkSample .b) (s.clk.course + 1) (s.clk.ticks + 1) xb hxb _ rfl
  generalize ra.servoUpdate .b _ _ _ = rb at ub hqq
  obtain ⟨b1, b2, b3, b4, b5, b6, b7, b8, b9, b10⟩ := ub
  have hq : ∀ q : State, q = rb.acqCheck.autoAcquire → q.clk = rb.clk ∧ q.ports = rb.ports ∧ q.did = rb.did ∧ q.cnt = rb.cnt ∧ (∀ d, q.servo d = rb.servo d) := by
    rintro q rfl
    have c1 : ∀ y : State, y.acqCheck.clk = y.clk ∧ y.acqCheck.ports = y.ports ∧ y.acqCheck.did = y.did ∧ y.acqCheck.cnt = y.cnt ∧ (∀ d, y.acqCheck.servo d = y.servo d) := by
      intro y; unfold State.acqCheck
      split
      · split
        · exact ⟨rfl, rfl, rfl, rfl, fun _ => rfl⟩
        · exact ⟨rfl, rfl, rfl, rfl, fun _ => rfl⟩
      · exact ⟨rfl, rfl, rfl, rfl, fun _ => rfl⟩
    have c2 : ∀ y : State, y.autoAcquire.clk = y.clk ∧ y.autoAcquire.ports = y.ports ∧ y.autoAcquire.did = y.did ∧ y.autoAcquire.cnt = y.cnt ∧ (∀ d, y.autoAcquire.servo d = y.servo d) := by
      intro y; unfold State.autoAcquire
      dsimp +zetaHave only
      split
      · exact ⟨rfl, rfl, rfl, rfl, fun _ => rfl⟩
      · exact ⟨rfl, rfl, rfl, rfl, fun _ => rfl⟩
    obtain ⟨x1, x2, x3, x4, x5⟩ := c1 rb
    obtain ⟨y1, y2, y3, y4, y5⟩ := c2 rb.acqCheck
    exact ⟨y1.trans x1, y2.trans x2, y3.trans x3, y4.trans x4, fun d => (y5 d).trans (x5 d)⟩
  obtain ⟨q1, q2, q3, q4, q5⟩ := hq _ hqq
  have fin : ∀ t : State, t.clk = q.clk → t.ports = q.ports → t.did = q.did → t.cnt = q.cnt → (∀ d, t.servo d = q.servo d) →
      t.clk = s.clk ∧ t.ports = s.ports ∧ t.did.servo = true ∧
      ∀ (d : Dom) (v : Servo) (x : Option Int), v = s.servo d →
        x = (if v.forced then none else if v.openLoop then v.corrP else s.linkSample d) →
        (t.servo d).th = [] ∧ (t.servo d).corrP = none ∧
        (x = none → (t.servo d).upd = v.upd ∧ t.counter (TD_x_CNT_SKIP d.num) = (s.counter (TD_x_CNT_SKIP d.num) + 1) % 2 ^ 32 ∧
          t.counter (TD_x_CNT_UPD d.num) = s.counter (TD_x_CNT_UPD d.num) ∧
          (s.did.phase = false → (t.servo d).p = clampS 112 (v.p + (v.f - s.td.rEff) * 65536000))) ∧
        (∀ th, x = some th → (t.servo d).upd = s.clk.course ∧ (t.servo d).skipRun = 0 ∧ (t.servo d).p = th * phaseScale ∧
          t.counter (TD_x_CNT_UPD d.num) = (s.counter (TD_x_CNT_UPD d.num) + 1) % 2 ^ 32 ∧
          t.counter (TD_x_CNT_SKIP d.num) = s.counter (TD_x_CNT_SKIP d.num)) := by
    intro t t1 t2 t3 t4 t5
    have wd : w'.clk = w.clk ∧ w'.ports = w.ports ∧ w'.did.servo = true ∧ w'.cnt = w.cnt := by rw [hw']; exact ⟨rfl, rfl, rfl, rfl⟩
    refine ⟨by rw [t1, q1, b2, a2, wd.1, w1], by rw [t2, q2, b3, a3, wd.2.1, w2], by rw [t3, q3, b4, a4]; exact wd.2.2.1, ?_⟩
    intro d v x hv hx
    have cn : ∀ o, t.counter o = rb.counter o := fun o => counter_cnt (t4.trans q4) o
    have cw : ∀ o, w'.counter o = s.counter o := fun o => counter_cnt (wd.2.2.2.trans w7) o
    cases d with
    | a =>
      have sa : t.servo .a = ra.servo .a := ((t5 .a).trans (q5 .a)).trans b1
      have hxx : x = xa := by
        rw [hx, hxa, (l1 .a).2, (l1 .a).1, (w8 .a).1, (w8 .a).2.1, (w8 .a).2.2.1, hv]
      have cb : ∀ o, (o = TD_x_CNT_SKIP Dom.a.num ∨ o = TD_x_CNT_UPD Dom.a.num) → rb.counter o = ra.counter o := by
        intro o ho
        rw [b10 o (by rcases ho with h | h <;> rw [h] <;> decide) (by rcases ho with h | h <;> rw [h] <;> decide)]
        rw [if_neg]
        rcases ho with h | h <;> rw [h] <;> split <;> decide
      rw [sa, hxx, cn, cn]
      refine ⟨a6, a7, fun h => ?_, fun th h => ?_⟩
      · obtain ⟨u1, u2⟩ := a8 h
        refine ⟨by rw [u1, (l1 .a).2, (w8 .a).2.2.2.1, hv], ?_, ?_, fun hp => by rw [u2, (l1 .a).2, (w8 .a).2.2.2.2.2 hp, hv]⟩
        · rw [cb _ (.inl rfl), a10 _ (by decide) (by decide), if_pos h, if_pos rfl, cw]
        · rw [cb _ (.inr rfl), a10 _ (by decide) (by decide), if_pos h, if_neg (by decide), cw]
      · obtain ⟨u1, u2, u3⟩ := a9 th h
        have hn : ¬ xa = none := by rw [h]; simp
        refine ⟨u1, u2, u3, ?_, ?_⟩
        · rw [cb _ (.inr rfl), a10 _ (by decide) (by decide), if_neg hn, if_pos rfl, cw]
        · rw [cb _ (.inl rfl), a10 _ (by decide) (by decide), if_neg hn, if_neg (by decide), cw]
    | b =>
      have sb : t.servo .b = rb.servo .b := (t5 .b).trans (q5 .b)
      have rab : ra.servo .b = w'.servo .b := a1
      have hxx : x = xb := by
        rw [hx, hxb, rab, (l1 .b).2, (l1 .b).1, (w8 .b).1, (w8 .b).2.1, (w8 .b).2.2.1, hv]
      have cb : ∀ o, (o = TD_x_CNT_SKIP Dom.b.num ∨ o = TD_x_CNT_UPD Dom.b.num) → ra.counter o = s.counter o := by
        intro o ho
        rw [a10 o (by rcases ho with h | h <;> rw [h] <;> decide) (by rcases ho with h | h <;> rw [h] <;> decide), if_neg, cw]
        rcases ho with h | h <;> rw [h] <;> split <;> decide
      rw [sb, hxx, cn, cn]
      refine ⟨b6, b7, fun h => ?_, fun th h => ?_⟩
      · obtain ⟨u1, u2⟩ := b8 h
        refine ⟨by rw [u1, rab, (l1 .b).2, (w8 .b).2.2.2.1, hv], ?_, ?_, fun hp => by rw [u2, rab, (l1 .b).2, (w8 .b).2.2.2.2.2 hp, hv]⟩
        · rw [b10 _ (by decide) (by decide), if_pos h, if_pos rfl, cb _ (.inl rfl)]
        · rw [b10 _ (by decide) (by decide), if_pos h, if_neg (by decide), cb _ (.inr rfl)]
      · obtain ⟨u1, u2, u3⟩ := b9 th h
        have hn : ¬ xb = none := by rw [h]; simp
        refine ⟨u1, u2, u3, ?_, ?_⟩
        · rw [b10 _ (by decide) (by decide), if_neg hn, if_pos rfl, cb _ (.inr rfl)]
        · rw [b10 _ (by decide) (by decide), if_neg hn, if_neg (by decide), cb _ (.inl rfl)]
  split at ht
  · subst ht; exact fin _ rfl rfl rfl rfl fun _ => rfl
  · subst ht; exact fin _ rfl rfl rfl rfl fun _ => rfl

end Sys2Proof.Machine
end

