-- ==== Sys2Proof/Laws/RowsTime.lean ====
section
/-! SUPPORT. Sys2Proof/Laws/RowsTime.lean: the messages of the time transfer. -/

set_option linter.all false
set_option Elab.async false

namespace Sys2Proof.Machine
open Sys2Proof Sys2Proof.Config

theorem wire_whole (w : WireTime) : ({ w with frac := 0 } : WireTime).units = ((w.sec * 1000000000 + w.ns) * 65536 : Nat) := by
  unfold WireTime.units
  dsimp only
  rw [Nat.add_zero]

theorem rxEsmc_wire (s : State) (h : RxBase) (e : Bool) : (s.rxEsmc h e).s.wire = s.wire := by
  have h0 := State.rxBegin_wire s h false 0 (0x100 + bnat e) false
  unfold State.rxEsmc
  dsimp +zetaHave only
  split
  · exact h0
  split
  · exact (State.count_wire _ _ _).trans h0
  split
  · exact h0
  · exact h0

/-- What the row DELAY_RESP_RECEIVE does (R99). -/
theorem exec_delayRespReceive : ∀ (s u : State) (h : PtpHead) (recv : WireTime) (ck pt : Nat) (r : Rx) (v : Port), s.up = true → h.port < s.nPorts →
    r = s.rxPtp h 0x9 54 → u = r.s → v = u.port h.port → u.wire = s.wire ∧
    ((r.ok = false ∨ v.role.isLower = false ∨ v.lower = none) → exec (.delayRespReceive h recv ck pt) s = .next u) ∧
    (∀ x, r.ok = true → v.role.isLower = true → v.lower = some x →
      ((h.seq ≠ x.seq ∨ ck ≠ u.rd TD_CLOCK_ID ∨ pt ≠ h.port + 1) → exec (.delayRespReceive h recv ck pt) s = .next u) ∧
      (h.seq = x.seq → ck = u.rd TD_CLOCK_ID → pt = h.port + 1 →
        (x.good u.clk.ticks = false → exec (.delayRespReceive h recv ck pt) s =
          .next ((u.setPort h.port { v with lower := none }).count TD_CNT_EXCH_BAD)) ∧
        (∀ t3 t4 raw th d, x.good u.clk.ticks = true → x.t3 = some t3 → t4 = ((recv.sec * 1000000000 + recv.ns) * 65536 : Nat) - h.corr →
          raw = ((x.t1 - x.t2.t) + (t4 - t3.t)) / 2 - x.shift → th = interval raw → d = ((x.t2.t - x.t1) + (t4 - t3.t)) / 2 → 0 ≤ d → d < 4294967296 →
          ∃ t, exec (.delayRespReceive h recv ck pt) s = .next t ∧
          t.port h.port = { v with
            lower := none, fibDelay := d.toNat, fibDone := true
            lenWarn := if v.fibLen = 0 then v.lenWarn else lenDiffers d v.fibLen } ∧
          (t.servo v.dom).th = (u.servo v.dom).th.insert h.port th ∧ (∀ e, e ≠ v.dom → t.servo e = u.servo e) ∧
          (∀ q, q ≠ h.port → t.port q = u.port q) ∧
          t.td.ivClamp = (u.td.ivClamp || decide (th ≠ raw)) ∧
          t.td.stepDue = (if u.wantsStep v.dom ∧ v.health = .live ∧ u.follower = false ∧ (u.isEave ∨ v.dom = u.home) then some (v.dom, th)
            else u.td.stepDue)))) := by
  intro s u h recv ck pt r v hup hp hr hu hv
  have w0 : u.wire = s.wire := by rw [hu, hr]; exact State.rxPtp_wire _ _ _ _
  have k : exec (.delayRespReceive h recv ck pt) s = s.atPort h.port fun s =>
    if (s.rxPtp h 0x9 54).ok = true ∧ ((s.rxPtp h 0x9 54).s.port h.port).role.isLower = true then
      (s.rxPtp h 0x9 54).s.delayRespArrived h.port h (({ recv with frac := 0 } : WireTime).units - h.corr) ck pt else (s.rxPtp h 0x9 54).s := rfl
  rw [k, atPort_in hup hp, ← hr, ← hu, ← hv]
  have hvu : u.port h.port = v := hv.symm
  refine ⟨w0, ?_, ?_⟩
  · intro hh
    by_cases c : r.ok = true ∧ v.role.isLower = true
    · rw [if_pos c]
      have hn : v.lower = none := by
        rcases hh with e | e | e
        · rw [e] at c; exact absurd c.1 (by decide)
        · rw [e] at c; exact absurd c.2 (by decide)
        · exact e
      unfold State.delayRespArrived
      dsimp +zetaHave only
      rw [hvu, hn]
    · rw [if_neg c]
  · intro x c1 c2 hx
    rw [if_pos ⟨c1, c2⟩]
    refine ⟨?_, ?_⟩
    · intro hh
      unfold State.delayRespArrived
      dsimp +zetaHave only
      rw [hvu, hx]
      dsimp only
      rw [if_pos hh]
    · intro g1 g2 g3
      have hng : ¬ (h.seq ≠ x.seq ∨ ck ≠ u.rd TD_CLOCK_ID ∨ pt ≠ h.port + 1) := by
        rintro (e | e | e)
        · exact e g1
        · exact e g2
        · exact e g3
      have ht : (u.setPort h.port { v with lower := none }).clk = u.clk := rfl
      refine ⟨?_, ?_⟩
      · intro hb
        unfold State.delayRespArrived
        dsimp +zetaHave only
        rw [hvu, hx]
        dsimp only
        rw [if_neg hng]
        cases h3 : x.t3 with
        | none => rfl
        | some t3 =>
          dsimp only
          rw [ht, hb]; rfl
      · intro t3 t4 raw th d hb h3 h4 hraw hth hd d0 d1
        have e4 : ({ recv with frac := 0 } : WireTime).units - h.corr = t4 := by rw [h4, wire_whole]
        rw [e4]
        have key : u.delayRespArrived h.port h t4 ck pt = State.deliver ((u.setPort h.port { v with lower := none }).modPort h.port fun v => { v with
            fibDelay := d.toNat, fibDone := true, lenWarn := if v.fibLen = 0 then v.lenWarn else lenDiffers d v.fibLen }) h.port raw := by
          unfold State.delayRespArrived
          dsimp +zetaHave only
          rw [hvu, hx]
          dsimp only
          rw [if_neg hng, h3]
          dsimp only
          rw [ht, hb, if_pos rfl, ← hd, ← hraw, if_pos ⟨d0, d1⟩]
        refine ⟨_, congrArg _ key, ?_⟩
        clear key
        generalize hw : ((u.setPort h.port { v with lower := none }).modPort h.port fun v => { v with
            fibDelay := d.toNat, fibDone := true, lenWarn := if v.fibLen = 0 then v.lenWarn else lenDiffers d v.fibLen }) = w
        have w1 : w.port h.port = { v with
            lower := none, fibDelay := d.toNat, fibDone := true
            lenWarn := if v.fibLen = 0 then v.lenWarn else lenDiffers d v.fibLen } := by
          rw [← hw, modPort_same, setPort_same]
        have w2 : ∀ q, q ≠ h.port → w.port q = u.port q := fun q hq => by rw [← hw, modPort_other _ _ _ _ hq, setPort_other _ _ _ _ hq]
        have w3 : w = { u with ports := w.ports } := by rw [← hw]; rfl
        have w5 : (w.port h.port).dom = v.dom ∧ (w.port h.port).health = v.health := by rw [w1]; exact ⟨rfl, rfl⟩
        unfold State.deliver
        dsimp +zetaHave only
        rw [w5.1, w5.2, ← hth]
        obtain ⟨z, hz⟩ : ∃ z, z = w.flagInterval raw := ⟨_, rfl⟩
        rw [← hz]
        have z0 : z = { u with ports := w.ports, td := { u.td with ivClamp := u.td.ivClamp || decide (th ≠ raw) } } := by
          rw [hz]; unfold State.flagInterval
          rw [hth]
          split
          · rename_i hc
            rw [decide_eq_false (fun h => h hc), Bool.or_false]; exact w3
          · rename_i hc
            rw [decide_eq_true hc, Bool.or_true, w3]
        generalize hy : z.modServo v.dom (fun x => { x with th := x.th.insert h.port th }) = y
        have y0 : y = { u with ports := w.ports, td := { u.td with dom := y.td.dom, ivClamp := u.td.ivClamp || decide (th ≠ raw) } } := by rw [← hy, z0]; rfl
        have sp := servo_put z v.dom { z.servo v.dom with th := (z.servo v.dom).th.insert h.port th }
        have yw : y = z.setServo v.dom { z.servo v.dom with th := (z.servo v.dom).th.insert h.port th } := hy.symm
        have ws : ∀ e, z.servo e = u.servo e := by intro e; rw [z0]; rfl
        have y1 : y.servo v.dom = { u.servo v.dom with th := (u.servo v.dom).th.insert h.port th } := by rw [yw, sp.1, ws]
        have y2 : ∀ e, e ≠ v.dom → y.servo e = u.servo e := fun e he => by rw [yw, sp.2 e he, ws]
        have y3 : y.wantsStep v.dom = u.wantsStep v.dom := by
          have a1 : (y.servo v.dom).openLoop = (u.servo v.dom).openLoop ∧ (y.servo v.dom).forced = (u.servo v.dom).forced := by rw [y1]; exact ⟨rfl, rfl⟩
          have a2 : y.td.acq = u.td.acq ∧ y.td.restep = u.td.restep ∧ y.td.sel = u.td.sel ∧ y.td.acqDom = u.td.acqDom := by rw [y0]; exact ⟨rfl, rfl, rfl, rfl⟩
          unfold State.wantsStep
          rw [a1.1, a1.2, a2.1, a2.2.1, a2.2.2.1, a2.2.2.2]
        have y4 : y.follower = u.follower := by rw [y0]; rfl
        have y5 : y.isEave = u.isEave ∧ y.home = u.home := by rw [y0]; exact ⟨rfl, rfl⟩
        have y6 : ∀ q, y.port q = w.port q := by intro q; rw [y0]; rfl
        have y7 : y.td.stepDue = u.td.stepDue := by rw [y0]
        have y8 : y.td.ivClamp = (u.td.ivClamp || decide (th ≠ raw)) := by rw [y0]
        rw [y3, y4, y5.1, y5.2]
        by_cases c : u.wantsStep v.dom = true ∧ v.health = .live ∧ u.follower = false ∧ (u.isEave = true ∨ v.dom = u.home)
        · rw [if_pos c, if_pos c]
          refine ⟨(y6 _).trans w1, ?_, ?_, fun q hq => (y6 q).trans (w2 q hq), y8, rfl⟩
          · show (y.servo v.dom).th = _; rw [y1]
          · intro e he; exact y2 e he
        · rw [if_neg c, if_neg c]
          exact ⟨(y6 _).trans w1, by rw [y1], y2, fun q hq => (y6 q).trans (w2 q hq), y8, y7⟩

theorem cont_facts (z : State) (p : Nat) (st : Stamp) (tx : Int) : (z.continuity p st tx).ports = z.ports ∧ (z.continuity p st tx).td = z.td ∧
    (z.continuity p st tx).regs = z.regs ∧ (z.continuity p st tx).counter TD_CNT_KA_JUMP = (z.counter TD_CNT_KA_JUMP +
      bnat ((z.port p).role.isLower && (z.port p).fibDone && !st.bad &&
        (decide ((z.servo (z.port p).dom).st = .track) || decide ((z.servo (z.port p).dom).st = .hold)) &&
        overNs (mag (st.t - (tx + (z.port p).fibDelay) + (z.servo (z.port p).dom).pUnits)) z.unlockThr)) % 2 ^ 32 := by
  have hlt : z.counter TD_CNT_KA_JUMP < 2 ^ 32 := (z.cnt.get 0 _).isLt
  unfold State.continuity
  dsimp +zetaHave only
  generalize ((z.port p).role.isLower && (z.port p).fibDone && !st.bad &&
        (decide ((z.servo (z.port p).dom).st = .track) || decide ((z.servo (z.port p).dom).st = .hold)) &&
        overNs (mag (st.t - (tx + (z.port p).fibDelay) + (z.servo (z.port p).dom).pUnits)) z.unlockThr) = C
  cases C with
  | false => exact ⟨rfl, rfl, rfl, (Nat.mod_eq_of_lt hlt).symm⟩
  | true =>
    simp only [reduceIte]
    have base : ∀ x : State, x = z.count TD_CNT_KA_JUMP → x.ports = z.ports ∧ x.td = z.td ∧ x.regs = z.regs ∧
        x.counter TD_CNT_KA_JUMP = (z.counter TD_CNT_KA_JUMP + 1) % 2 ^ 32 := by
      rintro x rfl; exact ⟨rfl, rfl, rfl, count_same _ _ _⟩
    split
    · unfold State.candJump
      dsimp +zetaHave only
      split
      · exact base _ rfl
      · obtain ⟨b1, b2, b3, b4⟩ := base _ rfl
        refine ⟨b1, b2, b3, ?_⟩
        rw [count_other _ _ _ (by decide)]
        exact b4
    · exact base _ rfl

/-- What the row SYNC_RECEIVE does (R96). -/
theorem exec_syncReceive :
    (∀ (s u : State) (h : PtpHead) (origin : WireTime) (r : Rx) (v : Port), s.up = true → h.port < s.nPorts → r = s.rxPtp h 0x0 44 → u = r.s →
      v = u.port h.port → u.wire = s.wire ∧
      ((r.ok = false ∨ v.role.isLower = false) → exec (.syncReceive h origin) s = .next u) ∧
      (r.ok = true → v.role.isLower = true → exec (.syncReceive h origin) s =
        .next ((u.count TD_CNT_EXCH_BAD (bnat v.lower.isSome)).setPort h.port { v with lower := some {
          seq := h.seq, t1 := ((origin.sec * 1000000000 + origin.ns) * 65536 : Nat) + h.corr, t2 := r.stamp, rxTick := u.clk.ticks
          srcClock := h.srcClock, srcPort := h.srcPort, live := v.health.routes } }))) := by
  intro s u h origin r v hup hp hr hu hv
  have k : exec (.syncReceive h origin) s = s.atPort h.port fun s =>
    if (s.rxPtp h 0x0 44).ok = true ∧ ((s.rxPtp h 0x0 44).s.port h.port).role.isLower = true then
      (s.rxPtp h 0x0 44).s.syncArrived h.port h (s.rxPtp h 0x0 44).stamp (({ origin with frac := 0 } : WireTime).units + h.corr) else (s.rxPtp h 0x0 44).s := rfl
  rw [k, atPort_in hup hp, ← hr, ← hu, ← hv]
  refine ⟨by rw [hu, hr]; exact State.rxPtp_wire _ _ _ _, ?_, ?_⟩
  · intro hh
    rw [if_neg]
    rintro ⟨a, b⟩
    rcases hh with e | e
    · rw [e] at a; exact absurd a (by decide)
    · rw [e] at b; exact absurd b (by decide)
  · intro c1 c2
    rw [if_pos ⟨c1, c2⟩]
    unfold State.syncArrived
    dsimp +zetaHave only
    unfold State.modPort
    rw [count_port, ← hv, wire_whole]
    rfl

/-- What the row DELAY_REQ_RECEIVE does (R96). -/
theorem exec_delayReqReceive :
    (∀ (s u : State) (h : PtpHead) (r : Rx) (v : Port), s.up = true → h.port < s.nPorts → r = s.rxPtp h 0x1 44 → u = r.s →
      v = u.port h.port → u.wire = s.wire ∧
      ((r.ok = false ∨ v.role.isUpper = false) → exec (.delayReqReceive h) s = .next u) ∧
      (r.ok = true → v.role.isUpper = true → v.upper.t1.isSome = true → v.upper.seq = h.seq → exec (.delayReqReceive h) s =
        .next (u.setPort h.port { v with upper := { v.upper with
          t4 := some r.stamp, reqSeq := h.seq, reqClock := h.srcClock, reqPort := h.srcPort, reqTick := u.clk.ticks } })) ∧
      (r.ok = true → v.role.isUpper = true → (v.upper.t1 = none ∨ v.upper.seq ≠ h.seq) → exec (.delayReqReceive h) s =
        .next (u.count TD_CNT_EXCH_BAD))) := by
  intro s u h r v hup hp hr hu hv
  have k : exec (.delayReqReceive h) s = s.atPort h.port fun s =>
    if (s.rxPtp h 0x1 44).ok = true ∧ ((s.rxPtp h 0x1 44).s.port h.port).role.isUpper = true then
      (s.rxPtp h 0x1 44).s.delayReqArrived h.port h (s.rxPtp h 0x1 44).stamp else (s.rxPtp h 0x1 44).s := rfl
  rw [k, atPort_in hup hp, ← hr, ← hu, ← hv]
  refine ⟨by rw [hu, hr]; exact State.rxPtp_wire _ _ _ _, ?_, ?_, ?_⟩
  · intro hh
    rw [if_neg]
    rintro ⟨a, b⟩
    rcases hh with e | e
    · rw [e] at a; exact absurd a (by decide)
    · rw [e] at b; exact absurd b (by decide)
  · intro c1 c2 c3 c4
    rw [if_pos ⟨c1, c2⟩]
    unfold State.delayReqArrived
    dsimp +zetaHave only
    rw [← hv, if_pos ⟨c3, c4⟩]
  · intro c1 c2 c3
    rw [if_pos ⟨c1, c2⟩]
    unfold State.delayReqArrived
    dsimp +zetaHave only
    rw [← hv, if_neg]
    rintro ⟨a, b⟩
    rcases c3 with e | e
    · rw [e] at a; exact absurd a (by decide)
    · exact e b

/-- What the row ANNOUNCE_RECEIVE does (R100). -/
theorem exec_announceReceive :
    (∀ (s u : State) (h : PtpHead) (b : AnnounceBody) (r : Rx) (v : Port), s.up = true → h.port < s.nPorts → r = s.rxPtp h 0xB 64 → u = r.s →
      v = u.port h.port → u.wire = s.wire ∧
      ((r.ok = false ∨ v.role.isLower = false) → exec (.announceReceive h b) s = .next u) ∧
      (r.ok = true → v.role.isLower = true → ∃ t, exec (.announceReceive h b) s = .next t ∧ t.td.ann.get v.dom = some b ∧
        (∀ e, e ≠ v.dom → t.td.ann.get e = u.td.ann.get e) ∧
        t = { u with td := { u.td with ann := t.td.ann }, regs := t.regs } ∧ (∀ q : Reg, q.off ≠ TD_UTC.off → t.rd q = u.rd q) ∧
        (u.isRoot = false → v.dom = u.td.sel → t.rd TD_UTC =
          (b.utcOffset % 65536 + bnat b.utcValid * 65536 + bnat b.li59 * 131072 + bnat b.li61 * 262144) &&& TD_UTC.mask) ∧
        ((u.isRoot = true ∨ v.dom ≠ u.td.sel) → t.regs = u.regs))) := by
  intro s u h b r v hup hp hr hu hv
  have k : exec (.announceReceive h b) s = s.atPort h.port fun s =>
    if (s.rxPtp h 0xB 64).ok = true ∧ ((s.rxPtp h 0xB 64).s.port h.port).role.isLower = true then
      (s.rxPtp h 0xB 64).s.announceArrived h.port b else (s.rxPtp h 0xB 64).s := rfl
  rw [k, atPort_in hup hp, ← hr, ← hu, ← hv]
  refine ⟨by rw [hu, hr]; exact State.rxPtp_wire _ _ _ _, ?_, ?_⟩
  · intro hh
    rw [if_neg]
    rintro ⟨a, b⟩
    rcases hh with e | e
    · rw [e] at a; exact absurd a (by decide)
    · rw [e] at b; exact absurd b (by decide)
  · intro c1 c2
    rw [if_pos ⟨c1, c2⟩]
    generalize hV : b.utcOffset % 65536 + bnat b.utcValid * 65536 + bnat b.li59 * 131072 + bnat b.li61 * 262144 = V
    have key : ∃ w : State, u.announceArrived h.port b = (if w.isRoot = false ∧ v.dom = w.td.sel then w.wr TD_UTC V else w) ∧
        w = { u with td := { u.td with ann := u.td.ann.put v.dom (some b) } } := by
      refine ⟨_, ?_, rfl⟩
      unfold State.announceArrived
      dsimp +zetaHave only
      rw [← hv, hV]
    obtain ⟨w, key, hw⟩ := key
    have w1 : w.td.ann.get v.dom = some b := by rw [hw]; cases v.dom <;> rfl
    have w2 : ∀ e, e ≠ v.dom → w.td.ann.get e = u.td.ann.get e := by
      intro e he; rw [hw]; dsimp only; cases hd : v.dom <;> cases e <;> first | rfl | exact absurd hd.symm he
    have w3 : w = { u with td := { u.td with ann := w.td.ann } } := by rw [hw]
    have w4 : w.isRoot = u.isRoot ∧ w.td.sel = u.td.sel ∧ (∀ q, w.rd q = u.rd q) ∧ w.regs = u.regs := by rw [hw]; exact ⟨rfl, rfl, fun _ => rfl, rfl⟩
    rw [key]
    clear hw key
    rw [w4.1, w4.2.1]
    by_cases c : u.isRoot = false ∧ v.dom = u.td.sel
    · rw [if_pos c]
      refine ⟨_, rfl, w1, w2, ?_, ?_, ?_, ?_⟩
      · have : ∀ rg, ({ w with regs := rg } : State) = { u with td := { u.td with ann := w.td.ann }, regs := rg } := by intro rg; rw [w3]
        exact this _
      · intro q hq; rw [State.rd_wr_other _ _ _ _ hq, w4.2.2.1]
      · intro _ _; exact State.rd_wr _ _ _ (by decide)
      · intro hh
        rcases hh with e | e
        · rw [c.1] at e; exact absurd e (by decide)
        · exact absurd c.2 e
    · rw [if_neg c]
      refine ⟨w, rfl, w1, w2, ?_, fun q _ => w4.2.2.1 q, fun a b => absurd ⟨a, b⟩ c, fun _ => w4.2.2.2⟩
      rw [w4.2.2.2]; exact w3

/-- What the row HELLO_RECEIVE does (R104). -/
theorem exec_helloReceive :
    (∀ (s u : State) (h : RxHead) (b : HelloBody) (r : Rx) (v : Port), s.up = true → h.port < s.nPorts → r = s.rxZudar h kHello → u = r.s →
      v = u.port h.port → u.wire = s.wire ∧
      (r.ok = false → exec (.helloReceive h b) s = .next u) ∧
      (r.ok = true → ∃ t, exec (.helloReceive h b) s = .next t ∧ t = { u with ports := t.ports, irq := t.irq } ∧
        (∀ q, q ≠ h.port → t.port q = u.port q) ∧ (v.cal.running = true → t.port h.port = v ∧ t.irq = u.irq) ∧
        (v.cal.running = false → t.port h.port = { v with
            peerSeen := some h.srcId, mmId := decide (h.srcId ≠ v.peerExp)
            mmRole := match v.role.peer with | some k => decide (b.prole ≠ k) | none => false } ∧
          (v.mismatch = false → (t.port h.port).mismatch = true → t.irq.getLsbD 12 = true)))) := by
  intro s u h b r v hup hp hr hu hv
  have k : exec (.helloReceive h b) s = s.atPort h.port fun s =>
    if (s.rxZudar h kHello).ok = true then ((s.rxZudar h kHello).s.judgeId h.port h.srcId).judgeRole h.port b.prole else (s.rxZudar h kHello).s := rfl
  rw [k, atPort_in hup hp, ← hr, ← hu]
  refine ⟨by rw [hu, hr]; exact State.rxZudar_wire _ _ _ _, ?_, ?_⟩
  · intro e; rw [if_neg (by rw [e]; decide)]
  · intro c1
    rw [if_pos c1]
    refine ⟨_, rfl, ?_⟩
    have hj : ∀ (x : State) (p : Nat) (f : Port → Port), x.judged p f = { x with ports := (x.modPort p f).ports, irq := (x.judged p f).irq } ∧
        ((x.port p).mismatch = false → (f (x.port p)).mismatch = true → (x.judged p f).irq.getLsbD 12 = true) ∧
        (f (x.port p) = x.port p → (x.judged p f).irq = x.irq) ∧ (x.irq.getLsbD 12 = true → (x.judged p f).irq.getLsbD 12 = true) ∧
        (x.judged p f).port p = f (x.port p) ∧ (∀ q, q ≠ p → (x.judged p f).port q = x.port q) := by
      intro x p f
      unfold State.judged
      dsimp +zetaHave only
      rw [modPort_same]
      have hri : ∀ (x : State) (b : Bool) (k q : Nat), (x.raiseIf b k).port q = x.port q := by intro x b k q; unfold State.raiseIf; cases b <;> rfl
      refine ⟨?_, ?_, ?_, ?_, (hri _ _ _ _).trans (modPort_same _ _ _), fun q hq => (hri _ _ _ _).trans (modPort_other _ _ _ _ hq)⟩
      · unfold State.raiseIf; split <;> rfl
      · intro a b; rw [a, b]
        show (x.irq ||| BitVec.ofNat 32 (2 ^ 12)).getLsbD 12 = true
        rw [BitVec.getLsbD_or]; simp
      · intro e; rw [e]
        have : (!(x.port p).mismatch && (x.port p).mismatch) = false := by cases (x.port p).mismatch <;> rfl
        rw [this]; rfl
      · intro e
        unfold State.raiseIf
        split
        · show (x.irq ||| BitVec.ofNat 32 (2 ^ 12)).getLsbD 12 = true
          rw [BitVec.getLsbD_or, e]; rfl
        · exact e
    unfold State.judgeId State.judgeRole
    obtain ⟨j1, j2, j3, j3b, j4, j5⟩ := hj u h.port (fun v => if v.cal.running = true then v else { v with peerSeen := some h.srcId, mmId := decide (h.srcId ≠ v.peerExp) })
    generalize u.judged h.port (fun v => if v.cal.running = true then v else { v with peerSeen := some h.srcId, mmId := decide (h.srcId ≠ v.peerExp) }) = y at j1 j2 j3 j3b j4 j5
    have y1 : y.port h.port = if v.cal.running = true then v else { v with peerSeen := some h.srcId, mmId := decide (h.srcId ≠ v.peerExp) } := by
      rw [j4, ← hv]
    have y2 : ∀ q, q ≠ h.port → y.port q = u.port q := by exact j5
    obtain ⟨k1, k2, k3, k3b, k4, k5⟩ := hj y h.port (fun v => if v.cal.running = true then v else { v with mmRole := match v.role.peer with
      | some r => decide (b.prole ≠ r)
      | none => false })
    generalize y.judged h.port (fun v => if v.cal.running = true then v else { v with mmRole := match v.role.peer with
      | some r => decide (b.prole ≠ r)
      | none => false }) = z at k1 k2 k3 k3b k4 k5
    have z1 : z.port h.port = if (y.port h.port).cal.running = true then y.port h.port else { y.port h.port with mmRole := match (y.port h.port).role.peer with
      | some r => decide (b.prole ≠ r)
      | none => false } := by
      exact k4
    have z2 : ∀ q, q ≠ h.port → z.port q = u.port q := by intro q hq; exact (k5 q hq).trans (y2 q hq)
    refine ⟨by rw [k1, j1], z2, ?_, ?_⟩
    · intro hc
      rw [if_pos hc] at y1
      have hyc : (y.port h.port).cal.running = true := by rw [y1]; exact hc
      rw [if_pos hyc] at z1
      refine ⟨z1.trans y1, ?_⟩
      rw [k3 (if_pos hyc), j3 (if_pos (by rw [← hv]; exact hc))]
    · intro hc
      rw [if_neg (by rw [hc]; decide)] at y1
      have hyc : ¬ (y.port h.port).cal.running = true := by rw [y1]; dsimp only; rw [hc]; decide
      rw [if_neg hyc, y1] at z1
      refine ⟨z1, ?_⟩
      intro m1 m2
      by_cases my : (y.port h.port).mismatch = true
      · have : y.irq.getLsbD 12 = true := by
          refine j2 (by rw [← hv]; exact m1) ?_
          rw [← hv, if_neg (by rw [hc]; decide)]
          rw [y1] at my; exact my
        exact k3b this
      · refine k2 (by simpa using my) ?_
        rw [if_neg hyc, y1]
        rw [z1] at m2
        exact m2

/-- What the row KEEPALIVE_RECEIVE does (R105). -/
theorem exec_keepaliveReceive :
    (∀ (s u : State) (h : RxHead) (tx : WireTime) (status te : Nat) (r : Rx) (v : Port), s.up = true → h.port < s.nPorts →
      r = s.rxZudar h kKeepalive tx.ok → u = r.s → v = u.port h.port → u.wire = s.wire ∧
      (r.ok = false → exec (.keepaliveReceive h tx status te) s = .next u) ∧
      (r.ok = true → v.cal.running = false → ∃ t, exec (.keepaliveReceive h tx status te) s = .next t ∧
        (∀ q, q ≠ h.port → t.port q = u.port q) ∧ t.td = u.td ∧ t.regs = u.regs ∧
        (t.port h.port).kaTick = some u.clk.ticks ∧ (t.port h.port).kaStatus = status % 256 ∧ (t.port h.port).kaTe = te % 2 ^ 32 ∧
        (t.port h.port).kaSeen = true ∧ (t.port h.port).peerSeen = some h.srcId ∧ (t.port h.port).mmId = decide (h.srcId ≠ v.peerExp) ∧
        (t.port h.port).lossDecl = (v.lossDecl && decide (v.health ≠ .noTree)) ∧
        (v.health = .admitting → v.admitAt = none → bitOf status 7 = true → bitOf status 6 = true → h.srcId = v.peerExp → v.mmRole = false →
          (t.port h.port).admitAt = some u.clk.ticks) ∧
        t.counter TD_CNT_KA_JUMP = (u.counter TD_CNT_KA_JUMP + bnat (v.role.isLower && v.fibDone && !r.stamp.bad &&
          (decide ((u.servo v.dom).st = .track) || decide ((u.servo v.dom).st = .hold)) &&
          overNs (mag (r.stamp.t - (tx.units + v.fibDelay) + (u.servo v.dom).pUnits)) u.unlockThr)) % 2 ^ 32)) := by
  intro s u h tx status te r v hup hp hr hu hv
  have k : exec (.keepaliveReceive h tx status te) s = s.atPort h.port fun s =>
    if (s.rxZudar h kKeepalive tx.ok).ok = true then (s.rxZudar h kKeepalive tx.ok).s.keepaliveArrived h.port h.srcId (s.rxZudar h kKeepalive tx.ok).stamp tx.units status te
    else (s.rxZudar h kKeepalive tx.ok).s := rfl
  rw [k, atPort_in hup hp, ← hr, ← hu]
  refine ⟨by rw [hu, hr]; exact State.rxZudar_wire _ _ _ _, ?_, ?_⟩
  · intro e; rw [if_neg (by rw [e]; decide)]
  · intro c1 c2
    rw [if_pos c1]
    generalize hV : tx.units = V
    refine ⟨_, rfl, ?_⟩
    unfold State.keepaliveArrived
    dsimp +zetaHave only
    obtain ⟨y1, y2, y3⟩ : (u.judgeId h.port h.srcId).port h.port = { v with peerSeen := some h.srcId, mmId := decide (h.srcId ≠ v.peerExp) } ∧
        (∀ q, q ≠ h.port → (u.judgeId h.port h.srcId).port q = u.port q) ∧
        u.judgeId h.port h.srcId = { u with ports := (u.judgeId h.port h.srcId).ports, irq := (u.judgeId h.port h.srcId).irq } := by
      unfold State.judgeId State.judged
      dsimp +zetaHave only
      have hri : ∀ (x : State) (b : Bool) (k q : Nat), (x.raiseIf b k).port q = x.port q := by intro x b k q; unfold State.raiseIf; cases b <;> rfl
      refine ⟨?_, ?_, ?_⟩
      · rw [hri, modPort_same, ← hv, if_neg (by rw [c2]; decide)]
      · intro q hq; rw [hri, modPort_other _ _ _ _ hq]
      · unfold State.raiseIf; split <;> rfl
    generalize u.judgeId h.port h.srcId = y at y1 y2 y3
    have y4 : y.clk = u.clk := by rw [y3]
    generalize hz : (y.modPort h.port fun v => { v with
        kaTick := some y.clk.ticks, kaStatus := status % 256, kaTe := te % 4294967296, kaSeen := true
        lossDecl := v.lossDecl && decide (v.health ≠ .noTree)
        admitAt := if v.health = .admitting ∧ v.admitAt = none ∧ bitOf status 7 ∧ bitOf status 6 ∧ ¬ v.mismatch
          then some y.clk.ticks else v.admitAt }) = z
    have z1 : z.port h.port = { v with
        peerSeen := some h.srcId, mmId := decide (h.srcId ≠ v.peerExp)
        kaTick := some u.clk.ticks, kaStatus := status % 256, kaTe := te % 4294967296, kaSeen := true
        lossDecl := v.lossDecl && decide (v.health ≠ .noTree)
        admitAt := if v.health = .admitting ∧ v.admitAt = none ∧ bitOf status 7 ∧ bitOf status 6 ∧ ¬ (y.port h.port).mismatch
          then some u.clk.ticks else v.admitAt } := by
      rw [← hz, modPort_same, y1, y4]
    have z2 : ∀ q, q ≠ h.port → z.port q = u.port q := fun q hq => by rw [← hz, modPort_other _ _ _ _ hq, y2 q hq]
    have z3 : z = { u with ports := z.ports, irq := z.irq } := by rw [← hz, y3]; rfl
    clear hz
    have z4 : (z.port h.port).role = v.role ∧ (z.port h.port).fibDone = v.fibDone ∧ (z.port h.port).fibDelay = v.fibDelay ∧ (z.port h.port).dom = v.dom := by
      rw [z1]; exact ⟨rfl, rfl, rfl, rfl⟩
    have z5 : z.servo v.dom = u.servo v.dom ∧ z.unlockThr = u.unlockThr := by rw [z3]; exact ⟨rfl, rfl⟩
    obtain ⟨f1, f2, f3, f4⟩ := cont_facts z h.port r.stamp V
    rw [z4.1, z4.2.1, z4.2.2.1, z4.2.2.2, z5.1, z5.2] at f4
    generalize z.continuity h.port r.stamp V = f at f1 f2 f3 f4
    have fp : ∀ q, f.port q = z.port q := fun q => port_ports f1 q
    refine ⟨fun q hq => by rw [fp, z2 q hq], by rw [f2, z3], by rw [f3, z3], by rw [fp, z1], by rw [fp, z1], by rw [fp, z1] <;> rfl, by rw [fp, z1], by rw [fp, z1],
      by rw [fp, z1], by rw [fp, z1], ?_, by rw [f4, z3]; rfl⟩
    intro g1 g2 g3 g4 g5 g6
    rw [fp, z1]
    dsimp only
    rw [if_pos]
    refine ⟨g1, g2, g3, g4, ?_⟩
    rw [y1]
    unfold Port.mismatch
    dsimp only
    rw [g6, g5]
    simp

/-- What the rows ESMC_EVENT_RECEIVE, ESMC_INFO_RECEIVE do (R83). -/
theorem exec_esmcEventReceive_esmcInfoReceive :
    (∀ (s u : State) (h : RxBase) (ql : Nat) (r : Rx), s.up = true → h.port < s.nPorts → r = s.rxEsmc h false → u = r.s →
      u.wire = s.wire ∧ (s.rxEsmc h true).s.wire = s.wire ∧ exec (.esmcEventReceive h) s = .next (s.rxEsmc h true).s ∧
      ((r.ok = false ∨ u.candOf h.port = none) → exec (.esmcInfoReceive h ql) s = .next u) ∧
      (∀ n, r.ok = true → u.candOf h.port = some n → exec (.esmcInfoReceive h ql) s =
        .next (u.setCand n { u.cand n with qlRx := ql % 16, dnu := decide (ql % 16 = 15) }))) := by
  intro s u h ql r hup hp hr hu
  have k1 : exec (.esmcEventReceive h) s = s.atPort h.port fun s => (s.rxEsmc h true).s := rfl
  have k2 : exec (.esmcInfoReceive h ql) s = s.atPort h.port fun s => if (s.rxEsmc h false).ok = true then
    (match (s.rxEsmc h false).s.candOf h.port with
    | some n => (s.rxEsmc h false).s.setCand n { (s.rxEsmc h false).s.cand n with qlRx := ql % 16, dnu := decide (ql % 16 = 15) }
    | none => (s.rxEsmc h false).s) else (s.rxEsmc h false).s := rfl
  rw [k1, k2, atPort_in hup hp, atPort_in hup hp, ← hr, ← hu]
  refine ⟨by rw [hu, hr]; exact rxEsmc_wire _ _ _, rxEsmc_wire _ _ _, rfl, ?_, ?_⟩
  · rintro (e | e)
    · rw [if_neg (by rw [e]; decide)]
    · rw [e]; split <;> rfl
  · intro n e1 e2
    rw [if_pos e1, e2]

end Sys2Proof.Machine
end

