-- ==== Sys2Proof/Laws/State.lean ====
section
/-! SUPPORT. Sys2Proof/Laws/State.lean: each update of State read back field by field, so that no proof unfolds a record update. -/

set_option linter.all false
set_option Elab.async false

namespace Sys2Proof.Machine
open Sys2Proof.Config

@[simp] theorem State.wr_ties (s : State) (r : Reg) (v : Nat) : (s.wr r v).ties = s.ties := rfl
@[simp] theorem State.wr_ck (s : State) (r : Reg) (v : Nat) : (s.wr r v).ck = s.ck := rfl
@[simp] theorem State.wr_clk (s : State) (r : Reg) (v : Nat) : (s.wr r v).clk = s.clk := rfl
@[simp] theorem State.wr_td (s : State) (r : Reg) (v : Nat) : (s.wr r v).td = s.td := rfl
@[simp] theorem State.wr_rs (s : State) (r : Reg) (v : Nat) : (s.wr r v).rs = s.rs := rfl
@[simp] theorem State.wr_regs (s : State) (r : Reg) (v : Nat) : (s.wr r v).regs = s.regs.set (BitVec.ofNat 64 r.reset) r.off (BitVec.ofNat 64 (v &&& r.mask)) := rfl
@[simp] theorem State.wr_cnt (s : State) (r : Reg) (v : Nat) : (s.wr r v).cnt = s.cnt := rfl
@[simp] theorem State.wr_irq (s : State) (r : Reg) (v : Nat) : (s.wr r v).irq = s.irq := rfl
@[simp] theorem State.wr_ports (s : State) (r : Reg) (v : Nat) : (s.wr r v).ports = s.ports := rfl
@[simp] theorem State.wr_root (s : State) (r : Reg) (v : Nat) : (s.wr r v).root = s.root := rfl
@[simp] theorem State.wr_home (s : State) (r : Reg) (v : Nat) : (s.wr r v).home = s.home := rfl
@[simp] theorem State.wr_topo (s : State) (r : Reg) (v : Nat) : (s.wr r v).topo = s.topo := rfl
@[simp] theorem State.wr_ce (s : State) (r : Reg) (v : Nat) : (s.wr r v).ce = s.ce := rfl
@[simp] theorem State.wr_od (s : State) (r : Reg) (v : Nat) : (s.wr r v).od = s.od := rfl
@[simp] theorem State.wr_hf (s : State) (r : Reg) (v : Nat) : (s.wr r v).hf = s.hf := rfl
@[simp] theorem State.wr_pw (s : State) (r : Reg) (v : Nat) : (s.wr r v).pw = s.pw := rfl
@[simp] theorem State.wr_gang (s : State) (r : Reg) (v : Nat) : (s.wr r v).gang = s.gang := rfl
@[simp] theorem State.wr_im (s : State) (r : Reg) (v : Nat) : (s.wr r v).im = s.im := rfl
@[simp] theorem State.wr_bt (s : State) (r : Reg) (v : Nat) : (s.wr r v).bt = s.bt := rfl
@[simp] theorem State.wr_sq (s : State) (r : Reg) (v : Nat) : (s.wr r v).sq = s.sq := rfl
@[simp] theorem State.wr_ev (s : State) (r : Reg) (v : Nat) : (s.wr r v).ev = s.ev := rfl
@[simp] theorem State.wr_mm (s : State) (r : Reg) (v : Nat) : (s.wr r v).mm = s.mm := rfl
@[simp] theorem State.wr_cp (s : State) (r : Reg) (v : Nat) : (s.wr r v).cp = s.cp := rfl
@[simp] theorem State.wr_did (s : State) (r : Reg) (v : Nat) : (s.wr r v).did = s.did := rfl
@[simp] theorem State.wr_logWr (s : State) (r : Reg) (v : Nat) : (s.wr r v).logWr = s.logWr := rfl
@[simp] theorem State.wr_out (s : State) (r : Reg) (v : Nat) : (s.wr r v).out = s.out := rfl
@[simp] theorem State.wr_free (s : State) (r : Reg) (v : Nat) : (s.wr r v).free = s.free := rfl
@[simp] theorem State.wr_pending (s : State) (r : Reg) (v : Nat) : (s.wr r v).pending = s.pending := rfl

@[simp] theorem State.raise_ties (s : State) (k : Nat) : (s.raise k).ties = s.ties := rfl
@[simp] theorem State.raise_ck (s : State) (k : Nat) : (s.raise k).ck = s.ck := rfl
@[simp] theorem State.raise_clk (s : State) (k : Nat) : (s.raise k).clk = s.clk := rfl
@[simp] theorem State.raise_td (s : State) (k : Nat) : (s.raise k).td = s.td := rfl
@[simp] theorem State.raise_rs (s : State) (k : Nat) : (s.raise k).rs = s.rs := rfl
@[simp] theorem State.raise_regs (s : State) (k : Nat) : (s.raise k).regs = s.regs := rfl
@[simp] theorem State.raise_cnt (s : State) (k : Nat) : (s.raise k).cnt = s.cnt := rfl
@[simp] theorem State.raise_irq (s : State) (k : Nat) : (s.raise k).irq = s.irq ||| BitVec.ofNat 32 (2 ^ k) := rfl
@[simp] theorem State.raise_ports (s : State) (k : Nat) : (s.raise k).ports = s.ports := rfl
@[simp] theorem State.raise_root (s : State) (k : Nat) : (s.raise k).root = s.root := rfl
@[simp] theorem State.raise_home (s : State) (k : Nat) : (s.raise k).home = s.home := rfl
@[simp] theorem State.raise_topo (s : State) (k : Nat) : (s.raise k).topo = s.topo := rfl
@[simp] theorem State.raise_ce (s : State) (k : Nat) : (s.raise k).ce = s.ce := rfl
@[simp] theorem State.raise_od (s : State) (k : Nat) : (s.raise k).od = s.od := rfl
@[simp] theorem State.raise_hf (s : State) (k : Nat) : (s.raise k).hf = s.hf := rfl
@[simp] theorem State.raise_pw (s : State) (k : Nat) : (s.raise k).pw = s.pw := rfl
@[simp] theorem State.raise_gang (s : State) (k : Nat) : (s.raise k).gang = s.gang := rfl
@[simp] theorem State.raise_im (s : State) (k : Nat) : (s.raise k).im = s.im := rfl
@[simp] theorem State.raise_bt (s : State) (k : Nat) : (s.raise k).bt = s.bt := rfl
@[simp] theorem State.raise_sq (s : State) (k : Nat) : (s.raise k).sq = s.sq := rfl
@[simp] theorem State.raise_ev (s : State) (k : Nat) : (s.raise k).ev = s.ev := rfl
@[simp] theorem State.raise_mm (s : State) (k : Nat) : (s.raise k).mm = s.mm := rfl
@[simp] theorem State.raise_cp (s : State) (k : Nat) : (s.raise k).cp = s.cp := rfl
@[simp] theorem State.raise_did (s : State) (k : Nat) : (s.raise k).did = s.did := rfl
@[simp] theorem State.raise_logWr (s : State) (k : Nat) : (s.raise k).logWr = s.logWr := rfl
@[simp] theorem State.raise_out (s : State) (k : Nat) : (s.raise k).out = s.out := rfl
@[simp] theorem State.raise_free (s : State) (k : Nat) : (s.raise k).free = s.free := rfl
@[simp] theorem State.raise_pending (s : State) (k : Nat) : (s.raise k).pending = s.pending := rfl

@[simp] theorem State.emit_ties (s : State) (o : Output) : (s.emit o).ties = s.ties := rfl
@[simp] theorem State.emit_ck (s : State) (o : Output) : (s.emit o).ck = s.ck := rfl
@[simp] theorem State.emit_clk (s : State) (o : Output) : (s.emit o).clk = s.clk := rfl
@[simp] theorem State.emit_td (s : State) (o : Output) : (s.emit o).td = s.td := rfl
@[simp] theorem State.emit_rs (s : State) (o : Output) : (s.emit o).rs = s.rs := rfl
@[simp] theorem State.emit_regs (s : State) (o : Output) : (s.emit o).regs = s.regs := rfl
@[simp] theorem State.emit_cnt (s : State) (o : Output) : (s.emit o).cnt = s.cnt := rfl
@[simp] theorem State.emit_irq (s : State) (o : Output) : (s.emit o).irq = s.irq := rfl
@[simp] theorem State.emit_ports (s : State) (o : Output) : (s.emit o).ports = s.ports := rfl
@[simp] theorem State.emit_root (s : State) (o : Output) : (s.emit o).root = s.root := rfl
@[simp] theorem State.emit_home (s : State) (o : Output) : (s.emit o).home = s.home := rfl
@[simp] theorem State.emit_topo (s : State) (o : Output) : (s.emit o).topo = s.topo := rfl
@[simp] theorem State.emit_ce (s : State) (o : Output) : (s.emit o).ce = s.ce := rfl
@[simp] theorem State.emit_od (s : State) (o : Output) : (s.emit o).od = s.od := rfl
@[simp] theorem State.emit_hf (s : State) (o : Output) : (s.emit o).hf = s.hf := rfl
@[simp] theorem State.emit_pw (s : State) (o : Output) : (s.emit o).pw = s.pw := rfl
@[simp] theorem State.emit_gang (s : State) (o : Output) : (s.emit o).gang = s.gang := rfl
@[simp] theorem State.emit_im (s : State) (o : Output) : (s.emit o).im = s.im := rfl
@[simp] theorem State.emit_bt (s : State) (o : Output) : (s.emit o).bt = s.bt := rfl
@[simp] theorem State.emit_sq (s : State) (o : Output) : (s.emit o).sq = s.sq := rfl
@[simp] theorem State.emit_ev (s : State) (o : Output) : (s.emit o).ev = s.ev := rfl
@[simp] theorem State.emit_mm (s : State) (o : Output) : (s.emit o).mm = s.mm := rfl
@[simp] theorem State.emit_cp (s : State) (o : Output) : (s.emit o).cp = s.cp := rfl
@[simp] theorem State.emit_did (s : State) (o : Output) : (s.emit o).did = s.did := rfl
@[simp] theorem State.emit_logWr (s : State) (o : Output) : (s.emit o).logWr = s.logWr := rfl
@[simp] theorem State.emit_out (s : State) (o : Output) : (s.emit o).out = o :: s.out := rfl
@[simp] theorem State.emit_free (s : State) (o : Output) : (s.emit o).free = s.free := rfl
@[simp] theorem State.emit_pending (s : State) (o : Output) : (s.emit o).pending = s.pending := rfl

@[simp] theorem State.busy_ties (s : State) : (s.busy).ties = s.ties := rfl
@[simp] theorem State.busy_ck (s : State) : (s.busy).ck = s.ck := rfl
@[simp] theorem State.busy_clk (s : State) : (s.busy).clk = s.clk := rfl
@[simp] theorem State.busy_td (s : State) : (s.busy).td = s.td := rfl
@[simp] theorem State.busy_rs (s : State) : (s.busy).rs = s.rs := rfl
@[simp] theorem State.busy_regs (s : State) : (s.busy).regs = s.regs := rfl
@[simp] theorem State.busy_cnt (s : State) : (s.busy).cnt = s.cnt := rfl
@[simp] theorem State.busy_irq (s : State) : (s.busy).irq = s.irq := rfl
@[simp] theorem State.busy_ports (s : State) : (s.busy).ports = s.ports := rfl
@[simp] theorem State.busy_root (s : State) : (s.busy).root = s.root := rfl
@[simp] theorem State.busy_home (s : State) : (s.busy).home = s.home := rfl
@[simp] theorem State.busy_topo (s : State) : (s.busy).topo = s.topo := rfl
@[simp] theorem State.busy_ce (s : State) : (s.busy).ce = s.ce := rfl
@[simp] theorem State.busy_od (s : State) : (s.busy).od = s.od := rfl
@[simp] theorem State.busy_hf (s : State) : (s.busy).hf = s.hf := rfl
@[simp] theorem State.busy_pw (s : State) : (s.busy).pw = { s.pw with busy := true } := rfl
@[simp] theorem State.busy_gang (s : State) : (s.busy).gang = s.gang := rfl
@[simp] theorem State.busy_im (s : State) : (s.busy).im = s.im := rfl
@[simp] theorem State.busy_bt (s : State) : (s.busy).bt = s.bt := rfl
@[simp] theorem State.busy_sq (s : State) : (s.busy).sq = s.sq := rfl
@[simp] theorem State.busy_ev (s : State) : (s.busy).ev = s.ev := rfl
@[simp] theorem State.busy_mm (s : State) : (s.busy).mm = s.mm := rfl
@[simp] theorem State.busy_cp (s : State) : (s.busy).cp = s.cp := rfl
@[simp] theorem State.busy_did (s : State) : (s.busy).did = s.did := rfl
@[simp] theorem State.busy_logWr (s : State) : (s.busy).logWr = s.logWr := rfl
@[simp] theorem State.busy_out (s : State) : (s.busy).out = s.out := rfl
@[simp] theorem State.busy_free (s : State) : (s.busy).free = s.free := rfl
@[simp] theorem State.busy_pending (s : State) : (s.busy).pending = s.pending := rfl

@[simp] theorem State.clearCounters_ties (s : State) (lo hi : Nat) : (s.clearCounters lo hi).ties = s.ties := rfl
@[simp] theorem State.clearCounters_ck (s : State) (lo hi : Nat) : (s.clearCounters lo hi).ck = s.ck := rfl
@[simp] theorem State.clearCounters_clk (s : State) (lo hi : Nat) : (s.clearCounters lo hi).clk = s.clk := rfl
@[simp] theorem State.clearCounters_td (s : State) (lo hi : Nat) : (s.clearCounters lo hi).td = s.td := rfl
@[simp] theorem State.clearCounters_rs (s : State) (lo hi : Nat) : (s.clearCounters lo hi).rs = s.rs := rfl
@[simp] theorem State.clearCounters_regs (s : State) (lo hi : Nat) : (s.clearCounters lo hi).regs = s.regs := rfl
@[simp] theorem State.clearCounters_cnt (s : State) (lo hi : Nat) : (s.clearCounters lo hi).cnt = s.cnt.clearRange lo hi := rfl
@[simp] theorem State.clearCounters_irq (s : State) (lo hi : Nat) : (s.clearCounters lo hi).irq = s.irq := rfl
@[simp] theorem State.clearCounters_ports (s : State) (lo hi : Nat) : (s.clearCounters lo hi).ports = s.ports := rfl
@[simp] theorem State.clearCounters_root (s : State) (lo hi : Nat) : (s.clearCounters lo hi).root = s.root := rfl
@[simp] theorem State.clearCounters_home (s : State) (lo hi : Nat) : (s.clearCounters lo hi).home = s.home := rfl
@[simp] theorem State.clearCounters_topo (s : State) (lo hi : Nat) : (s.clearCounters lo hi).topo = s.topo := rfl
@[simp] theorem State.clearCounters_ce (s : State) (lo hi : Nat) : (s.clearCounters lo hi).ce = s.ce := rfl
@[simp] theorem State.clearCounters_od (s : State) (lo hi : Nat) : (s.clearCounters lo hi).od = s.od := rfl
@[simp] theorem State.clearCounters_hf (s : State) (lo hi : Nat) : (s.clearCounters lo hi).hf = s.hf := rfl
@[simp] theorem State.clearCounters_pw (s : State) (lo hi : Nat) : (s.clearCounters lo hi).pw = s.pw := rfl
@[simp] theorem State.clearCounters_gang (s : State) (lo hi : Nat) : (s.clearCounters lo hi).gang = s.gang := rfl
@[simp] theorem State.clearCounters_im (s : State) (lo hi : Nat) : (s.clearCounters lo hi).im = s.im := rfl
@[simp] theorem State.clearCounters_bt (s : State) (lo hi : Nat) : (s.clearCounters lo hi).bt = s.bt := rfl
@[simp] theorem State.clearCounters_sq (s : State) (lo hi : Nat) : (s.clearCounters lo hi).sq = s.sq := rfl
@[simp] theorem State.clearCounters_ev (s : State) (lo hi : Nat) : (s.clearCounters lo hi).ev = s.ev := rfl
@[simp] theorem State.clearCounters_mm (s : State) (lo hi : Nat) : (s.clearCounters lo hi).mm = s.mm := rfl
@[simp] theorem State.clearCounters_cp (s : State) (lo hi : Nat) : (s.clearCounters lo hi).cp = s.cp := rfl
@[simp] theorem State.clearCounters_did (s : State) (lo hi : Nat) : (s.clearCounters lo hi).did = s.did := rfl
@[simp] theorem State.clearCounters_logWr (s : State) (lo hi : Nat) : (s.clearCounters lo hi).logWr = s.logWr := rfl
@[simp] theorem State.clearCounters_out (s : State) (lo hi : Nat) : (s.clearCounters lo hi).out = s.out := rfl
@[simp] theorem State.clearCounters_free (s : State) (lo hi : Nat) : (s.clearCounters lo hi).free = s.free := rfl
@[simp] theorem State.clearCounters_pending (s : State) (lo hi : Nat) : (s.clearCounters lo hi).pending = s.pending := rfl

@[simp] theorem State.setPort_ties (s : State) (p : Nat) (v : Port) : (s.setPort p v).ties = s.ties := rfl
@[simp] theorem State.setPort_ck (s : State) (p : Nat) (v : Port) : (s.setPort p v).ck = s.ck := rfl
@[simp] theorem State.setPort_clk (s : State) (p : Nat) (v : Port) : (s.setPort p v).clk = s.clk := rfl
@[simp] theorem State.setPort_td (s : State) (p : Nat) (v : Port) : (s.setPort p v).td = s.td := rfl
@[simp] theorem State.setPort_rs (s : State) (p : Nat) (v : Port) : (s.setPort p v).rs = s.rs := rfl
@[simp] theorem State.setPort_regs (s : State) (p : Nat) (v : Port) : (s.setPort p v).regs = s.regs := rfl
@[simp] theorem State.setPort_cnt (s : State) (p : Nat) (v : Port) : (s.setPort p v).cnt = s.cnt := rfl
@[simp] theorem State.setPort_irq (s : State) (p : Nat) (v : Port) : (s.setPort p v).irq = s.irq := rfl
@[simp] theorem State.setPort_ports (s : State) (p : Nat) (v : Port) : (s.setPort p v).ports = s.ports.set {} p v := rfl
@[simp] theorem State.setPort_root (s : State) (p : Nat) (v : Port) : (s.setPort p v).root = s.root := rfl
@[simp] theorem State.setPort_home (s : State) (p : Nat) (v : Port) : (s.setPort p v).home = s.home := rfl
@[simp] theorem State.setPort_topo (s : State) (p : Nat) (v : Port) : (s.setPort p v).topo = s.topo := rfl
@[simp] theorem State.setPort_ce (s : State) (p : Nat) (v : Port) : (s.setPort p v).ce = s.ce := rfl
@[simp] theorem State.setPort_od (s : State) (p : Nat) (v : Port) : (s.setPort p v).od = s.od := rfl
@[simp] theorem State.setPort_hf (s : State) (p : Nat) (v : Port) : (s.setPort p v).hf = s.hf := rfl
@[simp] theorem State.setPort_pw (s : State) (p : Nat) (v : Port) : (s.setPort p v).pw = s.pw := rfl
@[simp] theorem State.setPort_gang (s : State) (p : Nat) (v : Port) : (s.setPort p v).gang = s.gang := rfl
@[simp] theorem State.setPort_im (s : State) (p : Nat) (v : Port) : (s.setPort p v).im = s.im := rfl
@[simp] theorem State.setPort_bt (s : State) (p : Nat) (v : Port) : (s.setPort p v).bt = s.bt := rfl
@[simp] theorem State.setPort_sq (s : State) (p : Nat) (v : Port) : (s.setPort p v).sq = s.sq := rfl
@[simp] theorem State.setPort_ev (s : State) (p : Nat) (v : Port) : (s.setPort p v).ev = s.ev := rfl
@[simp] theorem State.setPort_mm (s : State) (p : Nat) (v : Port) : (s.setPort p v).mm = s.mm := rfl
@[simp] theorem State.setPort_cp (s : State) (p : Nat) (v : Port) : (s.setPort p v).cp = s.cp := rfl
@[simp] theorem State.setPort_did (s : State) (p : Nat) (v : Port) : (s.setPort p v).did = s.did := rfl
@[simp] theorem State.setPort_logWr (s : State) (p : Nat) (v : Port) : (s.setPort p v).logWr = s.logWr := rfl
@[simp] theorem State.setPort_out (s : State) (p : Nat) (v : Port) : (s.setPort p v).out = s.out := rfl
@[simp] theorem State.setPort_free (s : State) (p : Nat) (v : Port) : (s.setPort p v).free = s.free := rfl
@[simp] theorem State.setPort_pending (s : State) (p : Nat) (v : Port) : (s.setPort p v).pending = s.pending := rfl

@[simp] theorem State.setServo_ties (s : State) (d : Dom) (v : Servo) : (s.setServo d v).ties = s.ties := rfl
@[simp] theorem State.setServo_ck (s : State) (d : Dom) (v : Servo) : (s.setServo d v).ck = s.ck := rfl
@[simp] theorem State.setServo_clk (s : State) (d : Dom) (v : Servo) : (s.setServo d v).clk = s.clk := rfl
@[simp] theorem State.setServo_td (s : State) (d : Dom) (v : Servo) : (s.setServo d v).td = { s.td with dom := s.td.dom.put d v } := rfl
@[simp] theorem State.setServo_rs (s : State) (d : Dom) (v : Servo) : (s.setServo d v).rs = s.rs := rfl
@[simp] theorem State.setServo_regs (s : State) (d : Dom) (v : Servo) : (s.setServo d v).regs = s.regs := rfl
@[simp] theorem State.setServo_cnt (s : State) (d : Dom) (v : Servo) : (s.setServo d v).cnt = s.cnt := rfl
@[simp] theorem State.setServo_irq (s : State) (d : Dom) (v : Servo) : (s.setServo d v).irq = s.irq := rfl
@[simp] theorem State.setServo_ports (s : State) (d : Dom) (v : Servo) : (s.setServo d v).ports = s.ports := rfl
@[simp] theorem State.setServo_root (s : State) (d : Dom) (v : Servo) : (s.setServo d v).root = s.root := rfl
@[simp] theorem State.setServo_home (s : State) (d : Dom) (v : Servo) : (s.setServo d v).home = s.home := rfl
@[simp] theorem State.setServo_topo (s : State) (d : Dom) (v : Servo) : (s.setServo d v).topo = s.topo := rfl
@[simp] theorem State.setServo_ce (s : State) (d : Dom) (v : Servo) : (s.setServo d v).ce = s.ce := rfl
@[simp] theorem State.setServo_od (s : State) (d : Dom) (v : Servo) : (s.setServo d v).od = s.od := rfl
@[simp] theorem State.setServo_hf (s : State) (d : Dom) (v : Servo) : (s.setServo d v).hf = s.hf := rfl
@[simp] theorem State.setServo_pw (s : State) (d : Dom) (v : Servo) : (s.setServo d v).pw = s.pw := rfl
@[simp] theorem State.setServo_gang (s : State) (d : Dom) (v : Servo) : (s.setServo d v).gang = s.gang := rfl
@[simp] theorem State.setServo_im (s : State) (d : Dom) (v : Servo) : (s.setServo d v).im = s.im := rfl
@[simp] theorem State.setServo_bt (s : State) (d : Dom) (v : Servo) : (s.setServo d v).bt = s.bt := rfl
@[simp] theorem State.setServo_sq (s : State) (d : Dom) (v : Servo) : (s.setServo d v).sq = s.sq := rfl
@[simp] theorem State.setServo_ev (s : State) (d : Dom) (v : Servo) : (s.setServo d v).ev = s.ev := rfl
@[simp] theorem State.setServo_mm (s : State) (d : Dom) (v : Servo) : (s.setServo d v).mm = s.mm := rfl
@[simp] theorem State.setServo_cp (s : State) (d : Dom) (v : Servo) : (s.setServo d v).cp = s.cp := rfl
@[simp] theorem State.setServo_did (s : State) (d : Dom) (v : Servo) : (s.setServo d v).did = s.did := rfl
@[simp] theorem State.setServo_logWr (s : State) (d : Dom) (v : Servo) : (s.setServo d v).logWr = s.logWr := rfl
@[simp] theorem State.setServo_out (s : State) (d : Dom) (v : Servo) : (s.setServo d v).out = s.out := rfl
@[simp] theorem State.setServo_free (s : State) (d : Dom) (v : Servo) : (s.setServo d v).free = s.free := rfl
@[simp] theorem State.setServo_pending (s : State) (d : Dom) (v : Servo) : (s.setServo d v).pending = s.pending := rfl

@[simp] theorem State.setTap_ties (s : State) (n : Nat) (v : Tap) : (s.setTap n v).ties = s.ties := rfl
@[simp] theorem State.setTap_ck (s : State) (n : Nat) (v : Tap) : (s.setTap n v).ck = s.ck := rfl
@[simp] theorem State.setTap_clk (s : State) (n : Nat) (v : Tap) : (s.setTap n v).clk = s.clk := rfl
@[simp] theorem State.setTap_td (s : State) (n : Nat) (v : Tap) : (s.setTap n v).td = s.td := rfl
@[simp] theorem State.setTap_rs (s : State) (n : Nat) (v : Tap) : (s.setTap n v).rs = s.rs := rfl
@[simp] theorem State.setTap_regs (s : State) (n : Nat) (v : Tap) : (s.setTap n v).regs = s.regs := rfl
@[simp] theorem State.setTap_cnt (s : State) (n : Nat) (v : Tap) : (s.setTap n v).cnt = s.cnt := rfl
@[simp] theorem State.setTap_irq (s : State) (n : Nat) (v : Tap) : (s.setTap n v).irq = s.irq := rfl
@[simp] theorem State.setTap_ports (s : State) (n : Nat) (v : Tap) : (s.setTap n v).ports = s.ports := rfl
@[simp] theorem State.setTap_root (s : State) (n : Nat) (v : Tap) : (s.setTap n v).root = s.root := rfl
@[simp] theorem State.setTap_home (s : State) (n : Nat) (v : Tap) : (s.setTap n v).home = s.home := rfl
@[simp] theorem State.setTap_topo (s : State) (n : Nat) (v : Tap) : (s.setTap n v).topo = s.topo := rfl
@[simp] theorem State.setTap_ce (s : State) (n : Nat) (v : Tap) : (s.setTap n v).ce = s.ce := rfl
@[simp] theorem State.setTap_od (s : State) (n : Nat) (v : Tap) : (s.setTap n v).od = s.od := rfl
@[simp] theorem State.setTap_hf (s : State) (n : Nat) (v : Tap) : (s.setTap n v).hf = s.hf := rfl
@[simp] theorem State.setTap_pw (s : State) (n : Nat) (v : Tap) : (s.setTap n v).pw = s.pw := rfl
@[simp] theorem State.setTap_gang (s : State) (n : Nat) (v : Tap) : (s.setTap n v).gang = s.gang := rfl
@[simp] theorem State.setTap_im (s : State) (n : Nat) (v : Tap) : (s.setTap n v).im = s.im := rfl
@[simp] theorem State.setTap_bt (s : State) (n : Nat) (v : Tap) : (s.setTap n v).bt = { s.bt with taps := s.bt.taps.set {} n v } := rfl
@[simp] theorem State.setTap_sq (s : State) (n : Nat) (v : Tap) : (s.setTap n v).sq = s.sq := rfl
@[simp] theorem State.setTap_ev (s : State) (n : Nat) (v : Tap) : (s.setTap n v).ev = s.ev := rfl
@[simp] theorem State.setTap_mm (s : State) (n : Nat) (v : Tap) : (s.setTap n v).mm = s.mm := rfl
@[simp] theorem State.setTap_cp (s : State) (n : Nat) (v : Tap) : (s.setTap n v).cp = s.cp := rfl
@[simp] theorem State.setTap_did (s : State) (n : Nat) (v : Tap) : (s.setTap n v).did = s.did := rfl
@[simp] theorem State.setTap_logWr (s : State) (n : Nat) (v : Tap) : (s.setTap n v).logWr = s.logWr := rfl
@[simp] theorem State.setTap_out (s : State) (n : Nat) (v : Tap) : (s.setTap n v).out = s.out := rfl
@[simp] theorem State.setTap_free (s : State) (n : Nat) (v : Tap) : (s.setTap n v).free = s.free := rfl
@[simp] theorem State.setTap_pending (s : State) (n : Nat) (v : Tap) : (s.setTap n v).pending = s.pending := rfl

@[simp] theorem State.setCmdSlot_ties (s : State) (k : Nat) (c : CmdSlot) : (s.setCmdSlot k c).ties = s.ties := rfl
@[simp] theorem State.setCmdSlot_ck (s : State) (k : Nat) (c : CmdSlot) : (s.setCmdSlot k c).ck = s.ck := rfl
@[simp] theorem State.setCmdSlot_clk (s : State) (k : Nat) (c : CmdSlot) : (s.setCmdSlot k c).clk = s.clk := rfl
@[simp] theorem State.setCmdSlot_td (s : State) (k : Nat) (c : CmdSlot) : (s.setCmdSlot k c).td = s.td := rfl
@[simp] theorem State.setCmdSlot_rs (s : State) (k : Nat) (c : CmdSlot) : (s.setCmdSlot k c).rs = s.rs := rfl
@[simp] theorem State.setCmdSlot_regs (s : State) (k : Nat) (c : CmdSlot) : (s.setCmdSlot k c).regs = s.regs := rfl
@[simp] theorem State.setCmdSlot_cnt (s : State) (k : Nat) (c : CmdSlot) : (s.setCmdSlot k c).cnt = s.cnt := rfl
@[simp] theorem State.setCmdSlot_irq (s : State) (k : Nat) (c : CmdSlot) : (s.setCmdSlot k c).irq = s.irq := rfl
@[simp] theorem State.setCmdSlot_ports (s : State) (k : Nat) (c : CmdSlot) : (s.setCmdSlot k c).ports = s.ports := rfl
@[simp] theorem State.setCmdSlot_root (s : State) (k : Nat) (c : CmdSlot) : (s.setCmdSlot k c).root = s.root := rfl
@[simp] theorem State.setCmdSlot_home (s : State) (k : Nat) (c : CmdSlot) : (s.setCmdSlot k c).home = s.home := rfl
@[simp] theorem State.setCmdSlot_topo (s : State) (k : Nat) (c : CmdSlot) : (s.setCmdSlot k c).topo = s.topo := rfl
@[simp] theorem State.setCmdSlot_ce (s : State) (k : Nat) (c : CmdSlot) : (s.setCmdSlot k c).ce = s.ce := rfl
@[simp] theorem State.setCmdSlot_od (s : State) (k : Nat) (c : CmdSlot) : (s.setCmdSlot k c).od = s.od := rfl
@[simp] theorem State.setCmdSlot_hf (s : State) (k : Nat) (c : CmdSlot) : (s.setCmdSlot k c).hf = s.hf := rfl
@[simp] theorem State.setCmdSlot_pw (s : State) (k : Nat) (c : CmdSlot) : (s.setCmdSlot k c).pw = s.pw := rfl
@[simp] theorem State.setCmdSlot_gang (s : State) (k : Nat) (c : CmdSlot) : (s.setCmdSlot k c).gang = s.gang := rfl
@[simp] theorem State.setCmdSlot_im (s : State) (k : Nat) (c : CmdSlot) : (s.setCmdSlot k c).im = s.im := rfl
@[simp] theorem State.setCmdSlot_bt (s : State) (k : Nat) (c : CmdSlot) : (s.setCmdSlot k c).bt = s.bt := rfl
@[simp] theorem State.setCmdSlot_sq (s : State) (k : Nat) (c : CmdSlot) : (s.setCmdSlot k c).sq = s.sq := rfl
@[simp] theorem State.setCmdSlot_ev (s : State) (k : Nat) (c : CmdSlot) : (s.setCmdSlot k c).ev = s.ev := rfl
@[simp] theorem State.setCmdSlot_mm (s : State) (k : Nat) (c : CmdSlot) : (s.setCmdSlot k c).mm = s.mm := rfl
@[simp] theorem State.setCmdSlot_cp (s : State) (k : Nat) (c : CmdSlot) : (s.setCmdSlot k c).cp = { s.cp with slots := s.cp.slots.set {} k c } := rfl
@[simp] theorem State.setCmdSlot_did (s : State) (k : Nat) (c : CmdSlot) : (s.setCmdSlot k c).did = s.did := rfl
@[simp] theorem State.setCmdSlot_logWr (s : State) (k : Nat) (c : CmdSlot) : (s.setCmdSlot k c).logWr = s.logWr := rfl
@[simp] theorem State.setCmdSlot_out (s : State) (k : Nat) (c : CmdSlot) : (s.setCmdSlot k c).out = s.out := rfl
@[simp] theorem State.setCmdSlot_free (s : State) (k : Nat) (c : CmdSlot) : (s.setCmdSlot k c).free = s.free := rfl
@[simp] theorem State.setCmdSlot_pending (s : State) (k : Nat) (c : CmdSlot) : (s.setCmdSlot k c).pending = s.pending := rfl

@[simp] theorem State.setHandle_ties (s : State) (h : Nat) (v : Option Handle) : (s.setHandle h v).ties = s.ties := rfl
@[simp] theorem State.setHandle_ck (s : State) (h : Nat) (v : Option Handle) : (s.setHandle h v).ck = s.ck := rfl
@[simp] theorem State.setHandle_clk (s : State) (h : Nat) (v : Option Handle) : (s.setHandle h v).clk = s.clk := rfl
@[simp] theorem State.setHandle_td (s : State) (h : Nat) (v : Option Handle) : (s.setHandle h v).td = s.td := rfl
@[simp] theorem State.setHandle_rs (s : State) (h : Nat) (v : Option Handle) : (s.setHandle h v).rs = s.rs := rfl
@[simp] theorem State.setHandle_regs (s : State) (h : Nat) (v : Option Handle) : (s.setHandle h v).regs = s.regs := rfl
@[simp] theorem State.setHandle_cnt (s : State) (h : Nat) (v : Option Handle) : (s.setHandle h v).cnt = s.cnt := rfl
@[simp] theorem State.setHandle_irq (s : State) (h : Nat) (v : Option Handle) : (s.setHandle h v).irq = s.irq := rfl
@[simp] theorem State.setHandle_ports (s : State) (h : Nat) (v : Option Handle) : (s.setHandle h v).ports = s.ports := rfl
@[simp] theorem State.setHandle_root (s : State) (h : Nat) (v : Option Handle) : (s.setHandle h v).root = s.root := rfl
@[simp] theorem State.setHandle_home (s : State) (h : Nat) (v : Option Handle) : (s.setHandle h v).home = s.home := rfl
@[simp] theorem State.setHandle_topo (s : State) (h : Nat) (v : Option Handle) : (s.setHandle h v).topo = s.topo := rfl
@[simp] theorem State.setHandle_ce (s : State) (h : Nat) (v : Option Handle) : (s.setHandle h v).ce = { s.ce with handles := s.ce.handles.set none h v } := rfl
@[simp] theorem State.setHandle_od (s : State) (h : Nat) (v : Option Handle) : (s.setHandle h v).od = s.od := rfl
@[simp] theorem State.setHandle_hf (s : State) (h : Nat) (v : Option Handle) : (s.setHandle h v).hf = s.hf := rfl
@[simp] theorem State.setHandle_pw (s : State) (h : Nat) (v : Option Handle) : (s.setHandle h v).pw = s.pw := rfl
@[simp] theorem State.setHandle_gang (s : State) (h : Nat) (v : Option Handle) : (s.setHandle h v).gang = s.gang := rfl
@[simp] theorem State.setHandle_im (s : State) (h : Nat) (v : Option Handle) : (s.setHandle h v).im = s.im := rfl
@[simp] theorem State.setHandle_bt (s : State) (h : Nat) (v : Option Handle) : (s.setHandle h v).bt = s.bt := rfl
@[simp] theorem State.setHandle_sq (s : State) (h : Nat) (v : Option Handle) : (s.setHandle h v).sq = s.sq := rfl
@[simp] theorem State.setHandle_ev (s : State) (h : Nat) (v : Option Handle) : (s.setHandle h v).ev = s.ev := rfl
@[simp] theorem State.setHandle_mm (s : State) (h : Nat) (v : Option Handle) : (s.setHandle h v).mm = s.mm := rfl
@[simp] theorem State.setHandle_cp (s : State) (h : Nat) (v : Option Handle) : (s.setHandle h v).cp = s.cp := rfl
@[simp] theorem State.setHandle_did (s : State) (h : Nat) (v : Option Handle) : (s.setHandle h v).did = s.did := rfl
@[simp] theorem State.setHandle_logWr (s : State) (h : Nat) (v : Option Handle) : (s.setHandle h v).logWr = s.logWr := rfl
@[simp] theorem State.setHandle_out (s : State) (h : Nat) (v : Option Handle) : (s.setHandle h v).out = s.out := rfl
@[simp] theorem State.setHandle_free (s : State) (h : Nat) (v : Option Handle) : (s.setHandle h v).free = s.free := rfl
@[simp] theorem State.setHandle_pending (s : State) (h : Nat) (v : Option Handle) : (s.setHandle h v).pending = s.pending := rfl

@[simp] theorem State.setSlot_ties (s : State) (k : Nat) (v : Slot) : (s.setSlot k v).ties = s.ties := rfl
@[simp] theorem State.setSlot_ck (s : State) (k : Nat) (v : Slot) : (s.setSlot k v).ck = s.ck := rfl
@[simp] theorem State.setSlot_clk (s : State) (k : Nat) (v : Slot) : (s.setSlot k v).clk = s.clk := rfl
@[simp] theorem State.setSlot_td (s : State) (k : Nat) (v : Slot) : (s.setSlot k v).td = s.td := rfl
@[simp] theorem State.setSlot_rs (s : State) (k : Nat) (v : Slot) : (s.setSlot k v).rs = s.rs := rfl
@[simp] theorem State.setSlot_regs (s : State) (k : Nat) (v : Slot) : (s.setSlot k v).regs = s.regs := rfl
@[simp] theorem State.setSlot_cnt (s : State) (k : Nat) (v : Slot) : (s.setSlot k v).cnt = s.cnt := rfl
@[simp] theorem State.setSlot_irq (s : State) (k : Nat) (v : Slot) : (s.setSlot k v).irq = s.irq := rfl
@[simp] theorem State.setSlot_ports (s : State) (k : Nat) (v : Slot) : (s.setSlot k v).ports = s.ports := rfl
@[simp] theorem State.setSlot_root (s : State) (k : Nat) (v : Slot) : (s.setSlot k v).root = s.root := rfl
@[simp] theorem State.setSlot_home (s : State) (k : Nat) (v : Slot) : (s.setSlot k v).home = s.home := rfl
@[simp] theorem State.setSlot_topo (s : State) (k : Nat) (v : Slot) : (s.setSlot k v).topo = s.topo := rfl
@[simp] theorem State.setSlot_ce (s : State) (k : Nat) (v : Slot) : (s.setSlot k v).ce = s.ce := rfl
@[simp] theorem State.setSlot_od (s : State) (k : Nat) (v : Slot) : (s.setSlot k v).od = { s.od with slots := s.od.slots.set {} k v } := rfl
@[simp] theorem State.setSlot_hf (s : State) (k : Nat) (v : Slot) : (s.setSlot k v).hf = s.hf := rfl
@[simp] theorem State.setSlot_pw (s : State) (k : Nat) (v : Slot) : (s.setSlot k v).pw = s.pw := rfl
@[simp] theorem State.setSlot_gang (s : State) (k : Nat) (v : Slot) : (s.setSlot k v).gang = s.gang := rfl
@[simp] theorem State.setSlot_im (s : State) (k : Nat) (v : Slot) : (s.setSlot k v).im = s.im := rfl
@[simp] theorem State.setSlot_bt (s : State) (k : Nat) (v : Slot) : (s.setSlot k v).bt = s.bt := rfl
@[simp] theorem State.setSlot_sq (s : State) (k : Nat) (v : Slot) : (s.setSlot k v).sq = s.sq := rfl
@[simp] theorem State.setSlot_ev (s : State) (k : Nat) (v : Slot) : (s.setSlot k v).ev = s.ev := rfl
@[simp] theorem State.setSlot_mm (s : State) (k : Nat) (v : Slot) : (s.setSlot k v).mm = s.mm := rfl
@[simp] theorem State.setSlot_cp (s : State) (k : Nat) (v : Slot) : (s.setSlot k v).cp = s.cp := rfl
@[simp] theorem State.setSlot_did (s : State) (k : Nat) (v : Slot) : (s.setSlot k v).did = s.did := rfl
@[simp] theorem State.setSlot_logWr (s : State) (k : Nat) (v : Slot) : (s.setSlot k v).logWr = s.logWr := rfl
@[simp] theorem State.setSlot_out (s : State) (k : Nat) (v : Slot) : (s.setSlot k v).out = s.out := rfl
@[simp] theorem State.setSlot_free (s : State) (k : Nat) (v : Slot) : (s.setSlot k v).free = s.free := rfl
@[simp] theorem State.setSlot_pending (s : State) (k : Nat) (v : Slot) : (s.setSlot k v).pending = s.pending := rfl

@[simp] theorem State.setPulse_ties (s : State) (n : Nat) (v : PulseOut) : (s.setPulse n v).ties = s.ties := rfl
@[simp] theorem State.setPulse_ck (s : State) (n : Nat) (v : PulseOut) : (s.setPulse n v).ck = s.ck := rfl
@[simp] theorem State.setPulse_clk (s : State) (n : Nat) (v : PulseOut) : (s.setPulse n v).clk = s.clk := rfl
@[simp] theorem State.setPulse_td (s : State) (n : Nat) (v : PulseOut) : (s.setPulse n v).td = s.td := rfl
@[simp] theorem State.setPulse_rs (s : State) (n : Nat) (v : PulseOut) : (s.setPulse n v).rs = s.rs := rfl
@[simp] theorem State.setPulse_regs (s : State) (n : Nat) (v : PulseOut) : (s.setPulse n v).regs = s.regs := rfl
@[simp] theorem State.setPulse_cnt (s : State) (n : Nat) (v : PulseOut) : (s.setPulse n v).cnt = s.cnt := rfl
@[simp] theorem State.setPulse_irq (s : State) (n : Nat) (v : PulseOut) : (s.setPulse n v).irq = s.irq := rfl
@[simp] theorem State.setPulse_ports (s : State) (n : Nat) (v : PulseOut) : (s.setPulse n v).ports = s.ports := rfl
@[simp] theorem State.setPulse_root (s : State) (n : Nat) (v : PulseOut) : (s.setPulse n v).root = s.root := rfl
@[simp] theorem State.setPulse_home (s : State) (n : Nat) (v : PulseOut) : (s.setPulse n v).home = s.home := rfl
@[simp] theorem State.setPulse_topo (s : State) (n : Nat) (v : PulseOut) : (s.setPulse n v).topo = s.topo := rfl
@[simp] theorem State.setPulse_ce (s : State) (n : Nat) (v : PulseOut) : (s.setPulse n v).ce = s.ce := rfl
@[simp] theorem State.setPulse_od (s : State) (n : Nat) (v : PulseOut) : (s.setPulse n v).od = s.od := rfl
@[simp] theorem State.setPulse_hf (s : State) (n : Nat) (v : PulseOut) : (s.setPulse n v).hf = s.hf := rfl
@[simp] theorem State.setPulse_pw (s : State) (n : Nat) (v : PulseOut) : (s.setPulse n v).pw = s.pw := rfl
@[simp] theorem State.setPulse_gang (s : State) (n : Nat) (v : PulseOut) : (s.setPulse n v).gang = s.gang := rfl
@[simp] theorem State.setPulse_im (s : State) (n : Nat) (v : PulseOut) : (s.setPulse n v).im = s.im := rfl
@[simp] theorem State.setPulse_bt (s : State) (n : Nat) (v : PulseOut) : (s.setPulse n v).bt = s.bt := rfl
@[simp] theorem State.setPulse_sq (s : State) (n : Nat) (v : PulseOut) : (s.setPulse n v).sq = s.sq := rfl
@[simp] theorem State.setPulse_ev (s : State) (n : Nat) (v : PulseOut) : (s.setPulse n v).ev = { s.ev with pulses := s.ev.pulses.set {} n v } := rfl
@[simp] theorem State.setPulse_mm (s : State) (n : Nat) (v : PulseOut) : (s.setPulse n v).mm = s.mm := rfl
@[simp] theorem State.setPulse_cp (s : State) (n : Nat) (v : PulseOut) : (s.setPulse n v).cp = s.cp := rfl
@[simp] theorem State.setPulse_did (s : State) (n : Nat) (v : PulseOut) : (s.setPulse n v).did = s.did := rfl
@[simp] theorem State.setPulse_logWr (s : State) (n : Nat) (v : PulseOut) : (s.setPulse n v).logWr = s.logWr := rfl
@[simp] theorem State.setPulse_out (s : State) (n : Nat) (v : PulseOut) : (s.setPulse n v).out = s.out := rfl
@[simp] theorem State.setPulse_free (s : State) (n : Nat) (v : PulseOut) : (s.setPulse n v).free = s.free := rfl
@[simp] theorem State.setPulse_pending (s : State) (n : Nat) (v : PulseOut) : (s.setPulse n v).pending = s.pending := rfl

@[simp] theorem State.setCand_ties (s : State) (n : Nat) (c : Cand) : (s.setCand n c).ties = s.ties := rfl
@[simp] theorem State.setCand_ck (s : State) (n : Nat) (c : Cand) : (s.setCand n c).ck = s.ck := rfl
@[simp] theorem State.setCand_clk (s : State) (n : Nat) (c : Cand) : (s.setCand n c).clk = s.clk := rfl
@[simp] theorem State.setCand_td (s : State) (n : Nat) (c : Cand) : (s.setCand n c).td = s.td := rfl
@[simp] theorem State.setCand_rs (s : State) (n : Nat) (c : Cand) : (s.setCand n c).rs = { s.rs with cand := s.rs.cand.set {} n c } := rfl
@[simp] theorem State.setCand_regs (s : State) (n : Nat) (c : Cand) : (s.setCand n c).regs = s.regs := rfl
@[simp] theorem State.setCand_cnt (s : State) (n : Nat) (c : Cand) : (s.setCand n c).cnt = s.cnt := rfl
@[simp] theorem State.setCand_irq (s : State) (n : Nat) (c : Cand) : (s.setCand n c).irq = s.irq := rfl
@[simp] theorem State.setCand_ports (s : State) (n : Nat) (c : Cand) : (s.setCand n c).ports = s.ports := rfl
@[simp] theorem State.setCand_root (s : State) (n : Nat) (c : Cand) : (s.setCand n c).root = s.root := rfl
@[simp] theorem State.setCand_home (s : State) (n : Nat) (c : Cand) : (s.setCand n c).home = s.home := rfl
@[simp] theorem State.setCand_topo (s : State) (n : Nat) (c : Cand) : (s.setCand n c).topo = s.topo := rfl
@[simp] theorem State.setCand_ce (s : State) (n : Nat) (c : Cand) : (s.setCand n c).ce = s.ce := rfl
@[simp] theorem State.setCand_od (s : State) (n : Nat) (c : Cand) : (s.setCand n c).od = s.od := rfl
@[simp] theorem State.setCand_hf (s : State) (n : Nat) (c : Cand) : (s.setCand n c).hf = s.hf := rfl
@[simp] theorem State.setCand_pw (s : State) (n : Nat) (c : Cand) : (s.setCand n c).pw = s.pw := rfl
@[simp] theorem State.setCand_gang (s : State) (n : Nat) (c : Cand) : (s.setCand n c).gang = s.gang := rfl
@[simp] theorem State.setCand_im (s : State) (n : Nat) (c : Cand) : (s.setCand n c).im = s.im := rfl
@[simp] theorem State.setCand_bt (s : State) (n : Nat) (c : Cand) : (s.setCand n c).bt = s.bt := rfl
@[simp] theorem State.setCand_sq (s : State) (n : Nat) (c : Cand) : (s.setCand n c).sq = s.sq := rfl
@[simp] theorem State.setCand_ev (s : State) (n : Nat) (c : Cand) : (s.setCand n c).ev = s.ev := rfl
@[simp] theorem State.setCand_mm (s : State) (n : Nat) (c : Cand) : (s.setCand n c).mm = s.mm := rfl
@[simp] theorem State.setCand_cp (s : State) (n : Nat) (c : Cand) : (s.setCand n c).cp = s.cp := rfl
@[simp] theorem State.setCand_did (s : State) (n : Nat) (c : Cand) : (s.setCand n c).did = s.did := rfl
@[simp] theorem State.setCand_logWr (s : State) (n : Nat) (c : Cand) : (s.setCand n c).logWr = s.logWr := rfl
@[simp] theorem State.setCand_out (s : State) (n : Nat) (c : Cand) : (s.setCand n c).out = s.out := rfl
@[simp] theorem State.setCand_free (s : State) (n : Nat) (c : Cand) : (s.setCand n c).free = s.free := rfl
@[simp] theorem State.setCand_pending (s : State) (n : Nat) (c : Cand) : (s.setCand n c).pending = s.pending := rfl

@[simp] theorem State.setZc_ties (s : State) (z : ZcUnit) : (s.setZc z).ties = s.ties := rfl
@[simp] theorem State.setZc_ck (s : State) (z : ZcUnit) : (s.setZc z).ck = s.ck := rfl
@[simp] theorem State.setZc_clk (s : State) (z : ZcUnit) : (s.setZc z).clk = s.clk := rfl
@[simp] theorem State.setZc_td (s : State) (z : ZcUnit) : (s.setZc z).td = s.td := rfl
@[simp] theorem State.setZc_rs (s : State) (z : ZcUnit) : (s.setZc z).rs = s.rs := rfl
@[simp] theorem State.setZc_regs (s : State) (z : ZcUnit) : (s.setZc z).regs = s.regs := rfl
@[simp] theorem State.setZc_cnt (s : State) (z : ZcUnit) : (s.setZc z).cnt = s.cnt := rfl
@[simp] theorem State.setZc_irq (s : State) (z : ZcUnit) : (s.setZc z).irq = s.irq := rfl
@[simp] theorem State.setZc_ports (s : State) (z : ZcUnit) : (s.setZc z).ports = s.ports := rfl
@[simp] theorem State.setZc_root (s : State) (z : ZcUnit) : (s.setZc z).root = s.root := rfl
@[simp] theorem State.setZc_home (s : State) (z : ZcUnit) : (s.setZc z).home = s.home := rfl
@[simp] theorem State.setZc_topo (s : State) (z : ZcUnit) : (s.setZc z).topo = s.topo := rfl
@[simp] theorem State.setZc_ce (s : State) (z : ZcUnit) : (s.setZc z).ce = s.ce := rfl
@[simp] theorem State.setZc_od (s : State) (z : ZcUnit) : (s.setZc z).od = s.od := rfl
@[simp] theorem State.setZc_hf (s : State) (z : ZcUnit) : (s.setZc z).hf = s.hf := rfl
@[simp] theorem State.setZc_pw (s : State) (z : ZcUnit) : (s.setZc z).pw = s.pw := rfl
@[simp] theorem State.setZc_gang (s : State) (z : ZcUnit) : (s.setZc z).gang = s.gang := rfl
@[simp] theorem State.setZc_im (s : State) (z : ZcUnit) : (s.setZc z).im = { s.im with zc := z } := rfl
@[simp] theorem State.setZc_bt (s : State) (z : ZcUnit) : (s.setZc z).bt = s.bt := rfl
@[simp] theorem State.setZc_sq (s : State) (z : ZcUnit) : (s.setZc z).sq = s.sq := rfl
@[simp] theorem State.setZc_ev (s : State) (z : ZcUnit) : (s.setZc z).ev = s.ev := rfl
@[simp] theorem State.setZc_mm (s : State) (z : ZcUnit) : (s.setZc z).mm = s.mm := rfl
@[simp] theorem State.setZc_cp (s : State) (z : ZcUnit) : (s.setZc z).cp = s.cp := rfl
@[simp] theorem State.setZc_did (s : State) (z : ZcUnit) : (s.setZc z).did = s.did := rfl
@[simp] theorem State.setZc_logWr (s : State) (z : ZcUnit) : (s.setZc z).logWr = s.logWr := rfl
@[simp] theorem State.setZc_out (s : State) (z : ZcUnit) : (s.setZc z).out = s.out := rfl
@[simp] theorem State.setZc_free (s : State) (z : ZcUnit) : (s.setZc z).free = s.free := rfl
@[simp] theorem State.setZc_pending (s : State) (z : ZcUnit) : (s.setZc z).pending = s.pending := rfl

@[simp] theorem State.setSq_ties (s : State) (v : SeqUnit) : (s.setSq v).ties = s.ties := rfl
@[simp] theorem State.setSq_ck (s : State) (v : SeqUnit) : (s.setSq v).ck = s.ck := rfl
@[simp] theorem State.setSq_clk (s : State) (v : SeqUnit) : (s.setSq v).clk = s.clk := rfl
@[simp] theorem State.setSq_td (s : State) (v : SeqUnit) : (s.setSq v).td = s.td := rfl
@[simp] theorem State.setSq_rs (s : State) (v : SeqUnit) : (s.setSq v).rs = s.rs := rfl
@[simp] theorem State.setSq_regs (s : State) (v : SeqUnit) : (s.setSq v).regs = s.regs := rfl
@[simp] theorem State.setSq_cnt (s : State) (v : SeqUnit) : (s.setSq v).cnt = s.cnt := rfl
@[simp] theorem State.setSq_irq (s : State) (v : SeqUnit) : (s.setSq v).irq = s.irq := rfl
@[simp] theorem State.setSq_ports (s : State) (v : SeqUnit) : (s.setSq v).ports = s.ports := rfl
@[simp] theorem State.setSq_root (s : State) (v : SeqUnit) : (s.setSq v).root = s.root := rfl
@[simp] theorem State.setSq_home (s : State) (v : SeqUnit) : (s.setSq v).home = s.home := rfl
@[simp] theorem State.setSq_topo (s : State) (v : SeqUnit) : (s.setSq v).topo = s.topo := rfl
@[simp] theorem State.setSq_ce (s : State) (v : SeqUnit) : (s.setSq v).ce = s.ce := rfl
@[simp] theorem State.setSq_od (s : State) (v : SeqUnit) : (s.setSq v).od = s.od := rfl
@[simp] theorem State.setSq_hf (s : State) (v : SeqUnit) : (s.setSq v).hf = s.hf := rfl
@[simp] theorem State.setSq_pw (s : State) (v : SeqUnit) : (s.setSq v).pw = s.pw := rfl
@[simp] theorem State.setSq_gang (s : State) (v : SeqUnit) : (s.setSq v).gang = s.gang := rfl
@[simp] theorem State.setSq_im (s : State) (v : SeqUnit) : (s.setSq v).im = s.im := rfl
@[simp] theorem State.setSq_bt (s : State) (v : SeqUnit) : (s.setSq v).bt = s.bt := rfl
@[simp] theorem State.setSq_sq (s : State) (v : SeqUnit) : (s.setSq v).sq = v := rfl
@[simp] theorem State.setSq_ev (s : State) (v : SeqUnit) : (s.setSq v).ev = s.ev := rfl
@[simp] theorem State.setSq_mm (s : State) (v : SeqUnit) : (s.setSq v).mm = s.mm := rfl
@[simp] theorem State.setSq_cp (s : State) (v : SeqUnit) : (s.setSq v).cp = s.cp := rfl
@[simp] theorem State.setSq_did (s : State) (v : SeqUnit) : (s.setSq v).did = s.did := rfl
@[simp] theorem State.setSq_logWr (s : State) (v : SeqUnit) : (s.setSq v).logWr = s.logWr := rfl
@[simp] theorem State.setSq_out (s : State) (v : SeqUnit) : (s.setSq v).out = s.out := rfl
@[simp] theorem State.setSq_free (s : State) (v : SeqUnit) : (s.setSq v).free = s.free := rfl
@[simp] theorem State.setSq_pending (s : State) (v : SeqUnit) : (s.setSq v).pending = s.pending := rfl

end Sys2Proof.Machine
end

