-- ==== Sys2Proof/Laws/Whole.lean ====
section
/-! SUPPORT. Sys2Proof/Laws/Whole.lean: every row: the frame of time and tie-offs, the canonical tables, and the block held in reset. -/

set_option linter.all false
set_option Elab.async false

namespace Sys2Proof.Machine
open Sys2Proof Sys2Proof.Config

theorem exec_fixed (c : Instr) (s : State) (hm : movesTime c = false) (h1 : c ≠ .oscGood) (h2 : c ≠ .oscLoss) (h3 : ∀ p, c ≠ .pllLockTimeout p) : ∃ t, exec c s = .next t ∧ t.fixed = s.fixed := by
  cases c with
  | porRelease t g => cases hm
  | porAssert => cases hm
  | oscGood => exact absurd rfl h1
  | oscLoss => exact absurd rfl h2
  | pllLock p cycles oven => cases hm
  | pllLockTimeout p => exact absurd rfl (h3 p)
  | timingPllUnlock => exact execTimingPllUnlock_fixed s
  | timingPllRelock => exact execTimingPllRelock_fixed s
  | logicPllUnlock => exact execLogicPllUnlock_fixed s
  | logicPllRelock => exact execLogicPllRelock_fixed s
  | ovenFlagFall => exact execOvenFlagFall_fixed s
  | ovenOkRise => exact execOvenOkRise_fixed s
  | ovenUseWrite v => exact execOvenUseWrite_fixed v s
  | gateClose k => exact execGateClose_fixed k s
  | cgClkoutWrite v => exact execCgClkoutWrite_fixed v s
  | courseTick i => cases hm
  | servoUpdate => exact execServoUpdate_fixed s
  | acquisitionStep osc => cases hm
  | planEvaluate => exact execPlanEvaluate_fixed s
  | receiveMark p id e adj => exact execReceiveMark_fixed p id e adj s
  | transmitMark p e adj => exact execTransmitMark_fixed p e adj s
  | txInsLate p => exact execTxInsLate_fixed p s
  | portUpRise p => exact execPortUpRise_fixed p s
  | portUpFall p => exact execPortUpFall_fixed p s
  | laneFlap p => exact execLaneFlap_fixed p s
  | rclkOkFall p => exact execRclkOkFall_fixed p s
  | portEnable p v => exact execPortEnable_fixed p v s
  | portDisable p v => exact execPortDisable_fixed p v s
  | portConstantsWrite p which v => exact execPortConstantsWrite_fixed p which v s
  | pfStampLoRead m p => exact execPfStampLoRead_fixed m p s
  | ptpOtherReceive h typ => exact execPtpOtherReceive_fixed h typ s
  | zudarReservedType h typ => exact execZudarReservedType_fixed h typ s
  | esmcInfoReceive h ql => exact execEsmcInfoReceive_fixed h ql s
  | esmcEventReceive h => exact execEsmcEventReceive_fixed h s
  | esmcInfoSend p => exact execEsmcInfoSend_fixed p s
  | syncSend p => exact execSyncSend_fixed p s
  | syncReceive h origin => exact execSyncReceive_fixed h origin s
  | delayReqSend p => exact execDelayReqSend_fixed p s
  | delayReqReceive h => exact execDelayReqReceive_fixed h s
  | delayRespSend p => exact execDelayRespSend_fixed p s
  | delayRespReceive h receive reqClock reqPort => exact execDelayRespReceive_fixed h receive reqClock reqPort s
  | announceSend p => exact execAnnounceSend_fixed p s
  | announceReceive h b => exact execAnnounceReceive_fixed h b s
  | helloSend p => exact execHelloSend_fixed p s
  | helloReceive h b => exact execHelloReceive_fixed h b s
  | keepaliveSend p => exact execKeepaliveSend_fixed p s
  | keepaliveReceive h tx status te => exact execKeepaliveReceive_fixed h tx status te s
  | keepaliveLoss p => exact execKeepaliveLoss_fixed p s
  | ackReceive h => exact execAckReceive_fixed h s
  | nakReceive h => exact execNakReceive_fixed h s
  | ackSend p => exact execAckSend_fixed p s
  | replayTimeout p => exact execReplayTimeout_fixed p s
  | calFrameReceive h tx => exact execCalFrameReceive_fixed h tx s
  | switchPlanReceive h id target sw => exact execSwitchPlanReceive_fixed h id target sw s
  | switchCancelReceive h id => exact execSwitchCancelReceive_fixed h id s
  | launchReceive h b => exact execLaunchReceive_fixed h b s
  | candidateQualifyTimer n => exact execCandidateQualifyTimer_fixed n s
  | wtrExpiry d => exact execWtrExpiry_fixed d s
  | ppsEdge n e before => exact execPpsEdge_fixed n e before s
  | ppsLoss n => exact execPpsLoss_fixed n s
  | loopOpenTimeout d => exact execLoopOpenTimeout_fixed d s
  | ageWindowEnd => exact execAgeWindowEnd_fixed s
  | rsCandnCfgWrite n v => exact execRsCandnCfgWrite_fixed n v s
  | rsCandnDelayWrite n v => exact execRsCandnDelayWrite_fixed n v s
  | battenEnable => exact execBattenEnable_fixed s
  | battenDisable => exact execBattenDisable_fixed s
  | battenRecal => exact execBattenRecal_fixed s
  | battenCalDone rs => exact execBattenCalDone_fixed rs s
  | crossingRecalibration r => exact execCrossingRecalibration_fixed r s
  | mark n edges r => exact execMark_fixed n edges r s
  | markStep n edges r => exact execMarkStep_fixed n edges r s
  | stretchIndication n edges => exact execStretchIndication_fixed n edges s
  | fillWord n edges => exact execFillWord_fixed n edges s
  | crossingWordBad n edges k => exact execCrossingWordBad_fixed n edges k s
  | marginWarning n mismatches => exact execMarginWarning_fixed n mismatches s
  | armWord n edges => exact execArmWord_fixed n edges s
  | cancelWord n edges => exact execCancelWord_fixed n edges s
  | nswReqRise n edges => exact execNswReqRise_fixed n edges s
  | launchFire n edges => exact execLaunchFire_fixed n edges s
  | launchLineFall n edges => exact execLaunchLineFall_fixed n edges s
  | launchReport n edges => exact execLaunchReport_fixed n edges s
  | releaseWord => exact execReleaseWord_fixed s
  | reportWord => exact execReportWord_fixed s
  | reportMissing => exact execReportMissing_fixed s
  | converterCalReady inl failed => exact execConverterCalReady_fixed inl failed s
  | padMeasurement vals => exact execPadMeasurement_fixed vals s
  | padRecal => exact execPadRecal_fixed s
  | rampCalibration inl failed => exact execRampCalibration_fixed inl failed s
  | pinEdge pin falling e => exact execPinEdge_fixed pin falling e s
  | timedStart => exact execTimedStart_fixed s
  | shotWindowClose cyc => exact execShotWindowClose_fixed cyc s
  | imArm => exact execImArm_fixed s
  | imAbort => exact execImAbort_fixed s
  | imGo => exact execImGo_fixed s
  | imModeWrite on => exact execImModeWrite_fixed on s
  | imSkCountRead m k => exact execImSkCountRead_fixed m k s
  | imRawLoRead m => exact execImRawLoRead_fixed m s
  | zcDllLock => exact execZcDllLock_fixed s
  | zcStart => exact execZcStart_fixed s
  | zcClr => exact execZcClr_fixed s
  | zcTimeout cyc => exact execZcTimeout_fixed cyc s
  | portCalibrateDone => exact execPortCalibrateDone_fixed s
  | programStoreWrite i w => exact execProgramStoreWrite_fixed i w s
  | programStart => exact execProgramStart_fixed s
  | programStop => exact execProgramStop_fixed s
  | eventStart => exact execEventStart_fixed s
  | eventStop => exact execEventStop_fixed s
  | nop f => exact execNop_fixed f s
  | halt f => exact execHalt_fixed f s
  | jmp f => exact execJmp_fixed f s
  | br f => exact execBr_fixed f s
  | bri f => exact execBri_fixed f s
  | stepend f => exact execStepend_fixed f s
  | waitc f => exact execWaitc_fixed f s
  | li f => exact execLi_fixed f s
  | lih f => exact execLih_fixed f s
  | mov f => exact execMov_fixed f s
  | add f => exact execAdd_fixed f s
  | sub f => exact execSub_fixed f s
  | and f => exact execAnd_fixed f s
  | or f => exact execOr_fixed f s
  | xor f => exact execXor_fixed f s
  | addi f => exact execAddi_fixed f s
  | shl f => exact execShl_fixed f s
  | shr f => exact execShr_fixed f s
  | sar f => exact execSar_fixed f s
  | mul f => exact execMul_fixed f s
  | minu f => exact execMinu_fixed f s
  | maxu f => exact execMaxu_fixed f s
  | rdstep f => exact execRdstep_fixed f s
  | rdcrs f => exact execRdcrs_fixed f s
  | rdte f => exact execRdte_fixed f s
  | rdlr f => exact execRdlr_fixed f s
  | lcfg f => exact execLcfg_fixed f s
  | arm f => exact execArm_fixed f s
  | armm f => exact execArmm_fixed f s
  | cancel f => exact execCancel_fixed f s
  | pulse f => exact execPulse_fixed f s
  | frz f => exact execFrz_fixed f s
  | contrib f => exact execContrib_fixed f s
  | waitr f => exact execWaitr_fixed f s
  | result f => exact execResult_fixed f s
  | deadl f => exact execDeadl_fixed f s
  | objop f => exact execObjop_fixed f s
  | pulseEmit out fb => exact execPulseEmit_fixed out fb s
  | pulseOutputEnable out => exact execPulseOutputEnable_fixed out s
  | pulseCalDone out => exact execPulseCalDone_fixed out s
  | periodicModeSet out => exact execPeriodicModeSet_fixed out s
  | freezeEmit => exact execFreezeEmit_fixed s
  | peek r => exact execPeek_fixed r s
  | read r => exact execRead_fixed r s
  | fill r => exact execFill_fixed r s
  | signal r => exact execSignal_fixed r s
  | waitge r => exact execWaitge_fixed r s
  | dec r => exact execDec_fixed r s
  | wdec r => exact execWdec_fixed r s
  | realign r => exact execRealign_fixed r s
  | arrive r => exact execArrive_fixed r s
  | set r => exact execSet_fixed r s
  | wack tap tag => exact execWack_fixed tap tag s
  | fenceTimeout => exact execFenceTimeout_fixed s
  | objectDeadline => exact execObjectDeadline_fixed s
  | translationReadDone id bytes bad => exact execTranslationReadDone_fixed id bytes bad s
  | objReqReceive h m => exact execObjReqReceive_fixed h m s
  | objRspReceive h m => exact execObjRspReceive_fixed h m s
  | remoteTimeout => exact execRemoteTimeout_fixed s
  | lend => exact execLend_fixed s
  | lendReturn => exact execLendReturn_fixed s
  | retAck id => exact execRetAck_fixed id s
  | deadlockDetect => exact execDeadlockDetect_fixed s
  | odWindowRead m off => exact execOdWindowRead_fixed m off s
  | collUpReceive h m => exact execCollUpReceive_fixed h m s
  | collDownReceive h m => exact execCollDownReceive_fixed h m s
  | collMoveReceive h m => exact execCollMoveReceive_fixed h m s
  | collAbortReceive h m => exact execCollAbortReceive_fixed h m s
  | collReqReceive h q => exact execCollReqReceive_fixed h q s
  | gangContribution pos m => exact execGangContribution_fixed pos m s
  | orphanCounterFree => exact execOrphanCounterFree_fixed s
  | moveTimeout => exact execMoveTimeout_fixed s
  | isolated => exact execIsolated_fixed s
  | collectiveDeadline => exact execCollectiveDeadline_fixed s
  | egressHandover p cyc => exact execEgressHandover_fixed p cyc s
  | tpDebtClr v => exact execTpDebtClr_fixed v s
  | profileWrite off v => exact execProfileWrite_fixed off v s
  | scoreDecay => exact execScoreDecay_fixed s
  | budgetRecordExpiry => exact execBudgetRecordExpiry_fixed s
  | admissionComplete p => exact execAdmissionComplete_fixed p s
  | internalParityFailure f => exact execInternalParityFailure_fixed f s
  | hfWdogKick m v => exact execHfWdogKick_fixed m v s
  | watchdogExpiry => exact execWatchdogExpiry_fixed s
  | firmwareTrap => exact execFirmwareTrap_fixed s
  | underlayEntry => exact execUnderlayEntry_fixed s
  | hfUlEnter => exact execHfUlEnter_fixed s
  | hfUlExit => exact execHfUlExit_fixed s
  | underlayExit => exact execUnderlayExit_fixed s
  | powerEntryAttempt member => exact execPowerEntryAttempt_fixed member s
  | napWake src arg => exact execNapWake_fixed src arg s
  | napPlannedWake => exact execNapPlannedWake_fixed s
  | thatchWake src arg => exact execThatchWake_fixed src arg s
  | thatchTimerWake => exact execThatchTimerWake_fixed s
  | pwWake => exact execPwWake_fixed s
  | timeRebuild k cw temp tempOk => cases hm
  | commandHandover slot header => exact execCommandHandover_fixed slot header s
  | commandCompletion => exact execCommandCompletion_fixed s
  | irqCoalesceTimeout => exact execIrqCoalesceTimeout_fixed s
  | badOpcode => exact execBadOpcode_fixed s
  | genIdentify => exact execGenIdentify_fixed s
  | genStatus => exact execGenStatus_fixed s
  | topologyLoad => exact execTopologyLoad_fixed s
  | genReset => exact execGenReset_fixed s
  | fwLoad => exact execFwLoad_fixed s
  | fwStart => exact execFwStart_fixed s
  | timeAcquire => exact execTimeAcquire_fixed s
  | timeRestep => exact execTimeRestep_fixed s
  | timeSlewLimit => exact execTimeSlewLimit_fixed s
  | timeDomainSelect => exact execTimeDomainSelect_fixed s
  | timeSwitchAt => exact execTimeSwitchAt_fixed s
  | timeHoldoverForce => exact execTimeHoldoverForce_fixed s
  | timeEpochSet => exact execTimeEpochSet_fixed s
  | refConfigure => exact execRefConfigure_fixed s
  | refPriority => exact execRefPriority_fixed s
  | refLoopOpen => exact execRefLoopOpen_fixed s
  | refLoopClose => exact execRefLoopClose_fixed s
  | refCorrect => exact execRefCorrect_fixed s
  | intervalArm => exact execIntervalArm_fixed s
  | intervalAbort => exact execIntervalAbort_fixed s
  | seqLoad => exact execSeqLoad_fixed s
  | seqStart => exact execSeqStart_fixed s
  | seqStop => exact execSeqStop_fixed s
  | seqArm => exact execSeqArm_fixed s
  | seqCancel => exact execSeqCancel_fixed s
  | objCtxDefine => exact execObjCtxDefine_fixed s
  | objInit => exact execObjInit_fixed s
  | objCtxClear => exact execObjCtxClear_fixed s
  | objCtxRelease => exact execObjCtxRelease_fixed s
  | objWake => exact execObjWake_fixed s
  | objOp => exact execObjOp_fixed s
  | collDefine => exact execCollDefine_fixed s
  | collRelease => exact execCollRelease_fixed s
  | collAbort => exact execCollAbort_fixed s
  | portCalibrate => exact execPortCalibrate_fixed s
  | portRetire => exact execPortRetire_fixed s
  | portRestore => exact execPortRestore_fixed s
  | portSpareAdmit => exact execPortSpareAdmit_fixed s
  | powerEnter => exact execPowerEnter_fixed s
  | pulseArm => exact execPulseArm_fixed s
  | pulseCancel => exact execPulseCancel_fixed s
  | clockClkout => exact execClockClkout_fixed s
  | cpHostHb => exact execCpHostHb_fixed s
  | hostHeartbeatTimeout => exact execHostHeartbeatTimeout_fixed s
  | ringEnable v => exact execRingEnable_fixed v s
  | cpOwnWrite m v => exact execCpOwnWrite_fixed m v s
  | sbMctpControl cmd data => exact execSbMctpControl_fixed cmd data s
  | sbCommandRequest words => exact execSbCommandRequest_fixed words s
  | sbRegisterRead off width => exact execSbRegisterRead_fixed off width s
  | sbRegisterWrite off width value => exact execSbRegisterWrite_fixed off width value s
  | sbPacketBad pec => exact execSbPacketBad_fixed pec s
  | hostRequest a parityOk => exact execHostRequest_fixed a parityOk s
  | hostPortReset => exact execHostPortReset_fixed s
  | hostPortResetRelease => exact execHostPortResetRelease_fixed s
  | memoryReadResponse id bytes bad => exact execMemoryReadResponse_fixed id bytes bad s
  | memoryWriteAck id err => exact execMemoryWriteAck_fixed id err s
  | memoryTimeout => exact execMemoryTimeout_fixed s
  | gangCalTimeout pos => exact execGangCalTimeout_fixed pos s
  | gangLinkFail lost => exact execGangLinkFail_fixed lost s
  | gcIrqSet v => exact execGcIrqSet_fixed v s
  | pfCntClr p => exact execPfCntClr_fixed p s
  | tdCntClr => exact execTdCntClr_fixed s
  | rsCntClr => exact execRsCntClr_fixed s
  | cgCntClr => exact execCgCntClr_fixed s
  | btCntClr => exact execBtCntClr_fixed s
  | imCntClr => exact execImCntClr_fixed s
  | sqCntClr => exact execSqCntClr_fixed s
  | odCntClr => exact execOdCntClr_fixed s
  | ceCntClr => exact execCeCntClr_fixed s
  | tpCntClr => exact execTpCntClr_fixed s
  | hfCntClr => exact execHfCntClr_fixed s
  | pwCntClr => exact execPwCntClr_fixed s
  | cpCntClr => exact execCpCntClr_fixed s
  | gcCntClr => exact execGcCntClr_fixed s
  | tdNowNsRead m => exact execTdNowNsRead_fixed m s
  | registerWrite m off width value => exact execRegisterWrite_fixed m off width value s
  | gangLinkCalibrationDone latency => exact execGangLinkCalibrationDone_fixed latency s
  | rxfFcsErr h parity => exact execRxfFcsErr_fixed h parity s

theorem exec_canon (c : Instr) (s : State) (hc : s.Canon) (h1 : ∀ a g, c ≠ .porRelease a g) (h2 : c ≠ .porAssert) : ∃ t, exec c s = .next t ∧ t.Canon := by
  cases c with
  | porRelease t g => exact absurd rfl (h1 t g)
  | porAssert => exact absurd rfl h2
  | oscGood => exact execOscGood_canon s hc
  | oscLoss => exact execOscLoss_canon s hc
  | pllLock p cycles oven => exact execPllLock_canon p cycles oven s hc
  | pllLockTimeout p => exact execPllLockTimeout_canon p s hc
  | timingPllUnlock => exact execTimingPllUnlock_canon s hc
  | timingPllRelock => exact execTimingPllRelock_canon s hc
  | logicPllUnlock => exact execLogicPllUnlock_canon s hc
  | logicPllRelock => exact execLogicPllRelock_canon s hc
  | ovenFlagFall => exact execOvenFlagFall_canon s hc
  | ovenOkRise => exact execOvenOkRise_canon s hc
  | ovenUseWrite v => exact execOvenUseWrite_canon v s hc
  | gateClose k => exact execGateClose_canon k s hc
  | cgClkoutWrite v => exact execCgClkoutWrite_canon v s hc
  | courseTick i => exact execCourseTick_canon i s hc
  | servoUpdate => exact execServoUpdate_canon s hc
  | acquisitionStep osc => exact execAcquisitionStep_canon osc s hc
  | planEvaluate => exact execPlanEvaluate_canon s hc
  | receiveMark p id e adj => exact execReceiveMark_canon p id e adj s hc
  | transmitMark p e adj => exact execTransmitMark_canon p e adj s hc
  | txInsLate p => exact execTxInsLate_canon p s hc
  | portUpRise p => exact execPortUpRise_canon p s hc
  | portUpFall p => exact execPortUpFall_canon p s hc
  | laneFlap p => exact execLaneFlap_canon p s hc
  | rclkOkFall p => exact execRclkOkFall_canon p s hc
  | portEnable p v => exact execPortEnable_canon p v s hc
  | portDisable p v => exact execPortDisable_canon p v s hc
  | portConstantsWrite p which v => exact execPortConstantsWrite_canon p which v s hc
  | pfStampLoRead m p => exact execPfStampLoRead_canon m p s hc
  | ptpOtherReceive h typ => exact execPtpOtherReceive_canon h typ s hc
  | zudarReservedType h typ => exact execZudarReservedType_canon h typ s hc
  | esmcInfoReceive h ql => exact execEsmcInfoReceive_canon h ql s hc
  | esmcEventReceive h => exact execEsmcEventReceive_canon h s hc
  | esmcInfoSend p => exact execEsmcInfoSend_canon p s hc
  | syncSend p => exact execSyncSend_canon p s hc
  | syncReceive h origin => exact execSyncReceive_canon h origin s hc
  | delayReqSend p => exact execDelayReqSend_canon p s hc
  | delayReqReceive h => exact execDelayReqReceive_canon h s hc
  | delayRespSend p => exact execDelayRespSend_canon p s hc
  | delayRespReceive h receive reqClock reqPort => exact execDelayRespReceive_canon h receive reqClock reqPort s hc
  | announceSend p => exact execAnnounceSend_canon p s hc
  | announceReceive h b => exact execAnnounceReceive_canon h b s hc
  | helloSend p => exact execHelloSend_canon p s hc
  | helloReceive h b => exact execHelloReceive_canon h b s hc
  | keepaliveSend p => exact execKeepaliveSend_canon p s hc
  | keepaliveReceive h tx status te => exact execKeepaliveReceive_canon h tx status te s hc
  | keepaliveLoss p => exact execKeepaliveLoss_canon p s hc
  | ackReceive h => exact execAckReceive_canon h s hc
  | nakReceive h => exact execNakReceive_canon h s hc
  | ackSend p => exact execAckSend_canon p s hc
  | replayTimeout p => exact execReplayTimeout_canon p s hc
  | calFrameReceive h tx => exact execCalFrameReceive_canon h tx s hc
  | switchPlanReceive h id target sw => exact execSwitchPlanReceive_canon h id target sw s hc
  | switchCancelReceive h id => exact execSwitchCancelReceive_canon h id s hc
  | launchReceive h b => exact execLaunchReceive_canon h b s hc
  | candidateQualifyTimer n => exact execCandidateQualifyTimer_canon n s hc
  | wtrExpiry d => exact execWtrExpiry_canon d s hc
  | ppsEdge n e before => exact execPpsEdge_canon n e before s hc
  | ppsLoss n => exact execPpsLoss_canon n s hc
  | loopOpenTimeout d => exact execLoopOpenTimeout_canon d s hc
  | ageWindowEnd => exact execAgeWindowEnd_canon s hc
  | rsCandnCfgWrite n v => exact execRsCandnCfgWrite_canon n v s hc
  | rsCandnDelayWrite n v => exact execRsCandnDelayWrite_canon n v s hc
  | battenEnable => exact execBattenEnable_canon s hc
  | battenDisable => exact execBattenDisable_canon s hc
  | battenRecal => exact execBattenRecal_canon s hc
  | battenCalDone rs => exact execBattenCalDone_canon rs s hc
  | crossingRecalibration r => exact execCrossingRecalibration_canon r s hc
  | mark n edges r => exact execMark_canon n edges r s hc
  | markStep n edges r => exact execMarkStep_canon n edges r s hc
  | stretchIndication n edges => exact execStretchIndication_canon n edges s hc
  | fillWord n edges => exact execFillWord_canon n edges s hc
  | crossingWordBad n edges k => exact execCrossingWordBad_canon n edges k s hc
  | marginWarning n mismatches => exact execMarginWarning_canon n mismatches s hc
  | armWord n edges => exact execArmWord_canon n edges s hc
  | cancelWord n edges => exact execCancelWord_canon n edges s hc
  | nswReqRise n edges => exact execNswReqRise_canon n edges s hc
  | launchFire n edges => exact execLaunchFire_canon n edges s hc
  | launchLineFall n edges => exact execLaunchLineFall_canon n edges s hc
  | launchReport n edges => exact execLaunchReport_canon n edges s hc
  | releaseWord => exact execReleaseWord_canon s hc
  | reportWord => exact execReportWord_canon s hc
  | reportMissing => exact execReportMissing_canon s hc
  | converterCalReady inl failed => exact execConverterCalReady_canon inl failed s hc
  | padMeasurement vals => exact execPadMeasurement_canon vals s hc
  | padRecal => exact execPadRecal_canon s hc
  | rampCalibration inl failed => exact execRampCalibration_canon inl failed s hc
  | pinEdge pin falling e => exact execPinEdge_canon pin falling e s hc
  | timedStart => exact execTimedStart_canon s hc
  | shotWindowClose cyc => exact execShotWindowClose_canon cyc s hc
  | imArm => exact execImArm_canon s hc
  | imAbort => exact execImAbort_canon s hc
  | imGo => exact execImGo_canon s hc
  | imModeWrite on => exact execImModeWrite_canon on s hc
  | imSkCountRead m k => exact execImSkCountRead_canon m k s hc
  | imRawLoRead m => exact execImRawLoRead_canon m s hc
  | zcDllLock => exact execZcDllLock_canon s hc
  | zcStart => exact execZcStart_canon s hc
  | zcClr => exact execZcClr_canon s hc
  | zcTimeout cyc => exact execZcTimeout_canon cyc s hc
  | portCalibrateDone => exact execPortCalibrateDone_canon s hc
  | programStoreWrite i w => exact execProgramStoreWrite_canon i w s hc
  | programStart => exact execProgramStart_canon s hc
  | programStop => exact execProgramStop_canon s hc
  | eventStart => exact execEventStart_canon s hc
  | eventStop => exact execEventStop_canon s hc
  | nop f => exact execNop_canon f s hc
  | halt f => exact execHalt_canon f s hc
  | jmp f => exact execJmp_canon f s hc
  | br f => exact execBr_canon f s hc
  | bri f => exact execBri_canon f s hc
  | stepend f => exact execStepend_canon f s hc
  | waitc f => exact execWaitc_canon f s hc
  | li f => exact execLi_canon f s hc
  | lih f => exact execLih_canon f s hc
  | mov f => exact execMov_canon f s hc
  | add f => exact execAdd_canon f s hc
  | sub f => exact execSub_canon f s hc
  | and f => exact execAnd_canon f s hc
  | or f => exact execOr_canon f s hc
  | xor f => exact execXor_canon f s hc
  | addi f => exact execAddi_canon f s hc
  | shl f => exact execShl_canon f s hc
  | shr f => exact execShr_canon f s hc
  | sar f => exact execSar_canon f s hc
  | mul f => exact execMul_canon f s hc
  | minu f => exact execMinu_canon f s hc
  | maxu f => exact execMaxu_canon f s hc
  | rdstep f => exact execRdstep_canon f s hc
  | rdcrs f => exact execRdcrs_canon f s hc
  | rdte f => exact execRdte_canon f s hc
  | rdlr f => exact execRdlr_canon f s hc
  | lcfg f => exact execLcfg_canon f s hc
  | arm f => exact execArm_canon f s hc
  | armm f => exact execArmm_canon f s hc
  | cancel f => exact execCancel_canon f s hc
  | pulse f => exact execPulse_canon f s hc
  | frz f => exact execFrz_canon f s hc
  | contrib f => exact execContrib_canon f s hc
  | waitr f => exact execWaitr_canon f s hc
  | result f => exact execResult_canon f s hc
  | deadl f => exact execDeadl_canon f s hc
  | objop f => exact execObjop_canon f s hc
  | pulseEmit out fb => exact execPulseEmit_canon out fb s hc
  | pulseOutputEnable out => exact execPulseOutputEnable_canon out s hc
  | pulseCalDone out => exact execPulseCalDone_canon out s hc
  | periodicModeSet out => exact execPeriodicModeSet_canon out s hc
  | freezeEmit => exact execFreezeEmit_canon s hc
  | peek r => exact execPeek_canon r s hc
  | read r => exact execRead_canon r s hc
  | fill r => exact execFill_canon r s hc
  | signal r => exact execSignal_canon r s hc
  | waitge r => exact execWaitge_canon r s hc
  | dec r => exact execDec_canon r s hc
  | wdec r => exact execWdec_canon r s hc
  | realign r => exact execRealign_canon r s hc
  | arrive r => exact execArrive_canon r s hc
  | set r => exact execSet_canon r s hc
  | wack tap tag => exact execWack_canon tap tag s hc
  | fenceTimeout => exact execFenceTimeout_canon s hc
  | objectDeadline => exact execObjectDeadline_canon s hc
  | translationReadDone id bytes bad => exact execTranslationReadDone_canon id bytes bad s hc
  | objReqReceive h m => exact execObjReqReceive_canon h m s hc
  | objRspReceive h m => exact execObjRspReceive_canon h m s hc
  | remoteTimeout => exact execRemoteTimeout_canon s hc
  | lend => exact execLend_canon s hc
  | lendReturn => exact execLendReturn_canon s hc
  | retAck id => exact execRetAck_canon id s hc
  | deadlockDetect => exact execDeadlockDetect_canon s hc
  | odWindowRead m off => exact execOdWindowRead_canon m off s hc
  | collUpReceive h m => exact execCollUpReceive_canon h m s hc
  | collDownReceive h m => exact execCollDownReceive_canon h m s hc
  | collMoveReceive h m => exact execCollMoveReceive_canon h m s hc
  | collAbortReceive h m => exact execCollAbortReceive_canon h m s hc
  | collReqReceive h q => exact execCollReqReceive_canon h q s hc
  | gangContribution pos m => exact execGangContribution_canon pos m s hc
  | orphanCounterFree => exact execOrphanCounterFree_canon s hc
  | moveTimeout => exact execMoveTimeout_canon s hc
  | isolated => exact execIsolated_canon s hc
  | collectiveDeadline => exact execCollectiveDeadline_canon s hc
  | egressHandover p cyc => exact execEgressHandover_canon p cyc s hc
  | tpDebtClr v => exact execTpDebtClr_canon v s hc
  | profileWrite off v => exact execProfileWrite_canon off v s hc
  | scoreDecay => exact execScoreDecay_canon s hc
  | budgetRecordExpiry => exact execBudgetRecordExpiry_canon s hc
  | admissionComplete p => exact execAdmissionComplete_canon p s hc
  | internalParityFailure f => exact execInternalParityFailure_canon f s hc
  | hfWdogKick m v => exact execHfWdogKick_canon m v s hc
  | watchdogExpiry => exact execWatchdogExpiry_canon s hc
  | firmwareTrap => exact execFirmwareTrap_canon s hc
  | underlayEntry => exact execUnderlayEntry_canon s hc
  | hfUlEnter => exact execHfUlEnter_canon s hc
  | hfUlExit => exact execHfUlExit_canon s hc
  | underlayExit => exact execUnderlayExit_canon s hc
  | powerEntryAttempt member => exact execPowerEntryAttempt_canon member s hc
  | napWake src arg => exact execNapWake_canon src arg s hc
  | napPlannedWake => exact execNapPlannedWake_canon s hc
  | thatchWake src arg => exact execThatchWake_canon src arg s hc
  | thatchTimerWake => exact execThatchTimerWake_canon s hc
  | pwWake => exact execPwWake_canon s hc
  | timeRebuild k cw temp tempOk => exact execTimeRebuild_canon k cw temp tempOk s hc
  | commandHandover slot header => exact execCommandHandover_canon slot header s hc
  | commandCompletion => exact execCommandCompletion_canon s hc
  | irqCoalesceTimeout => exact execIrqCoalesceTimeout_canon s hc
  | badOpcode => exact execBadOpcode_canon s hc
  | genIdentify => exact execGenIdentify_canon s hc
  | genStatus => exact execGenStatus_canon s hc
  | topologyLoad => exact execTopologyLoad_canon s hc
  | genReset => exact execGenReset_canon s hc
  | fwLoad => exact execFwLoad_canon s hc
  | fwStart => exact execFwStart_canon s hc
  | timeAcquire => exact execTimeAcquire_canon s hc
  | timeRestep => exact execTimeRestep_canon s hc
  | timeSlewLimit => exact execTimeSlewLimit_canon s hc
  | timeDomainSelect => exact execTimeDomainSelect_canon s hc
  | timeSwitchAt => exact execTimeSwitchAt_canon s hc
  | timeHoldoverForce => exact execTimeHoldoverForce_canon s hc
  | timeEpochSet => exact execTimeEpochSet_canon s hc
  | refConfigure => exact execRefConfigure_canon s hc
  | refPriority => exact execRefPriority_canon s hc
  | refLoopOpen => exact execRefLoopOpen_canon s hc
  | refLoopClose => exact execRefLoopClose_canon s hc
  | refCorrect => exact execRefCorrect_canon s hc
  | intervalArm => exact execIntervalArm_canon s hc
  | intervalAbort => exact execIntervalAbort_canon s hc
  | seqLoad => exact execSeqLoad_canon s hc
  | seqStart => exact execSeqStart_canon s hc
  | seqStop => exact execSeqStop_canon s hc
  | seqArm => exact execSeqArm_canon s hc
  | seqCancel => exact execSeqCancel_canon s hc
  | objCtxDefine => exact execObjCtxDefine_canon s hc
  | objInit => exact execObjInit_canon s hc
  | objCtxClear => exact execObjCtxClear_canon s hc
  | objCtxRelease => exact execObjCtxRelease_canon s hc
  | objWake => exact execObjWake_canon s hc
  | objOp => exact execObjOp_canon s hc
  | collDefine => exact execCollDefine_canon s hc
  | collRelease => exact execCollRelease_canon s hc
  | collAbort => exact execCollAbort_canon s hc
  | portCalibrate => exact execPortCalibrate_canon s hc
  | portRetire => exact execPortRetire_canon s hc
  | portRestore => exact execPortRestore_canon s hc
  | portSpareAdmit => exact execPortSpareAdmit_canon s hc
  | powerEnter => exact execPowerEnter_canon s hc
  | pulseArm => exact execPulseArm_canon s hc
  | pulseCancel => exact execPulseCancel_canon s hc
  | clockClkout => exact execClockClkout_canon s hc
  | cpHostHb => exact execCpHostHb_canon s hc
  | hostHeartbeatTimeout => exact execHostHeartbeatTimeout_canon s hc
  | ringEnable v => exact execRingEnable_canon v s hc
  | cpOwnWrite m v => exact execCpOwnWrite_canon m v s hc
  | sbMctpControl cmd data => exact execSbMctpControl_canon cmd data s hc
  | sbCommandRequest words => exact execSbCommandRequest_canon words s hc
  | sbRegisterRead off width => exact execSbRegisterRead_canon off width s hc
  | sbRegisterWrite off width value => exact execSbRegisterWrite_canon off width value s hc
  | sbPacketBad pec => exact execSbPacketBad_canon pec s hc
  | hostRequest a parityOk => exact execHostRequest_canon a parityOk s hc
  | hostPortReset => exact execHostPortReset_canon s hc
  | hostPortResetRelease => exact execHostPortResetRelease_canon s hc
  | memoryReadResponse id bytes bad => exact execMemoryReadResponse_canon id bytes bad s hc
  | memoryWriteAck id err => exact execMemoryWriteAck_canon id err s hc
  | memoryTimeout => exact execMemoryTimeout_canon s hc
  | gangCalTimeout pos => exact execGangCalTimeout_canon pos s hc
  | gangLinkFail lost => exact execGangLinkFail_canon lost s hc
  | gcIrqSet v => exact execGcIrqSet_canon v s hc
  | pfCntClr p => exact execPfCntClr_canon p s hc
  | tdCntClr => exact execTdCntClr_canon s hc
  | rsCntClr => exact execRsCntClr_canon s hc
  | cgCntClr => exact execCgCntClr_canon s hc
  | btCntClr => exact execBtCntClr_canon s hc
  | imCntClr => exact execImCntClr_canon s hc
  | sqCntClr => exact execSqCntClr_canon s hc
  | odCntClr => exact execOdCntClr_canon s hc
  | ceCntClr => exact execCeCntClr_canon s hc
  | tpCntClr => exact execTpCntClr_canon s hc
  | hfCntClr => exact execHfCntClr_canon s hc
  | pwCntClr => exact execPwCntClr_canon s hc
  | cpCntClr => exact execCpCntClr_canon s hc
  | gcCntClr => exact execGcCntClr_canon s hc
  | tdNowNsRead m => exact execTdNowNsRead_canon m s hc
  | registerWrite m off width value => exact execRegisterWrite_canon m off width value s hc
  | gangLinkCalibrationDone latency => exact execGangLinkCalibrationDone_canon latency s hc
  | rxfFcsErr h parity => exact execRxfFcsErr_canon h parity s hc

theorem oscGood_base (s : State) : s.oscGoodSet.pending = s.pending ∧ s.oscGoodSet.ties = s.ties ∧ s.oscGoodSet.clk = s.clk := ⟨rfl, rfl, rfl⟩

theorem oscLose_base (s : State) : s.oscLose.pending = s.pending ∧ s.oscLose.ties = s.ties ∧ s.oscLose.clk.course = s.clk.course ∧ s.oscLose.clk.ticks = s.clk.ticks := by
  have key : ∀ t : State, t.pending = s.pending → t.ties = s.ties → t.clk.course = s.clk.course → t.clk.ticks = s.clk.ticks →
      t.timingUnlock.logicUnlock.pending = s.pending ∧ t.timingUnlock.logicUnlock.ties = s.ties ∧
      t.timingUnlock.logicUnlock.clk.course = s.clk.course ∧ t.timingUnlock.logicUnlock.clk.ticks = s.clk.ticks := by
    intro t a b c d
    have e := State.fixed_parts ((State.logicUnlock_fixed t.timingUnlock).trans (State.timingUnlock_fixed t))
    exact ⟨e.1.trans a, e.2.1.trans b, e.2.2.2.1.trans c, e.2.2.2.2.trans d⟩
  unfold State.oscLose
  dsimp +zetaHave only
  repeat' split
  all_goals first
    | exact ⟨rfl, rfl, rfl, rfl⟩
    | exact key _ rfl rfl rfl rfl

theorem pllTimeout_base (s : State) (p : Pll) : (s.pllTimeout p).pending = s.pending ∧ (s.pllTimeout p).ties = s.ties ∧ (s.pllTimeout p).clk = s.clk := by
  unfold State.pllTimeout
  dsimp +zetaHave only
  split
  · exact ⟨rfl, rfl, rfl⟩
  · exact ⟨rfl, rfl, rfl⟩

theorem startTime_base (s : State) (o : Bool) : (s.startTime o).pending = s.pending ∧ (s.startTime o).ties = s.ties := by
  unfold State.startTime
  split <;> exact ⟨rfl, rfl⟩

theorem pllLocks_base (s : State) (p : Pll) (k : Nat) (o : Bool) : (s.pllLocks p k o).pending = s.pending ∧ (s.pllLocks p k o).ties = s.ties := by
  unfold State.pllLocks
  dsimp +zetaHave only
  repeat' split
  all_goals first
    | exact ⟨rfl, rfl⟩
    | exact startTime_base _ _

/-- tuple -/
theorem exec_all (c : Instr) (s : State) : ∃ t, exec c s = .next t ∧ t.pending = s.pending ∧
    ((∀ a g, c ≠ .porRelease a g) → c ≠ .porAssert → t.ties = s.ties) ∧
    (movesTime c = false → t.clk.course = s.clk.course ∧ t.clk.ticks = s.clk.ticks) := by
  by_cases hm : movesTime c = false
  · by_cases h1 : c = .oscGood
    · subst h1
      refine ⟨_, rfl, ?_⟩
      split
      · exact ⟨rfl, fun _ _ => rfl, fun _ => ⟨rfl, rfl⟩⟩
      · exact ⟨rfl, fun _ _ => rfl, fun _ => ⟨rfl, rfl⟩⟩
    · by_cases h2 : c = .oscLoss
      · subst h2
        refine ⟨_, rfl, ?_⟩
        split
        · have e := oscLose_base s
          exact ⟨e.1, fun _ _ => e.2.1, fun _ => e.2.2⟩
        · exact ⟨rfl, fun _ _ => rfl, fun _ => ⟨rfl, rfl⟩⟩
      · by_cases h3 : ∃ p, c = .pllLockTimeout p
        · obtain ⟨p, rfl⟩ := h3
          have e := pllTimeout_base s p
          exact ⟨_, rfl, e.1, fun _ _ => e.2.1, fun _ => ⟨by rw [e.2.2], by rw [e.2.2]⟩⟩
        · obtain ⟨t, ht, hf⟩ := exec_fixed c s hm h1 h2 (fun p hp => h3 ⟨p, hp⟩)
          have e := State.fixed_parts hf
          exact ⟨t, ht, e.1, fun _ _ => e.2.1, fun _ => ⟨e.2.2.2.1, e.2.2.2.2⟩⟩
  · cases c with
    | porRelease a g =>
      refine ⟨_, rfl, ?_, fun h => absurd rfl (h a g), fun h => absurd h hm⟩
      split
      · unfold State.porRelease State.raiseIf
        dsimp +zetaHave only
        repeat' split
        all_goals rfl
      · rfl
    | porAssert => exact ⟨_, rfl, rfl, fun _ h => absurd rfl h, fun h => absurd h hm⟩
    | pllLock p k o =>
      have e := pllLocks_base s p k o
      exact ⟨_, rfl, e.1, fun _ _ => e.2, fun h => absurd h hm⟩
    | courseTick i =>
      refine ⟨_, rfl, ?_, ?_, fun h => absurd h hm⟩
      · split
        · exact (State.base_parts ((State.endCourse_base _ i).trans (State.acquisitionStep_base s i.osc))).1
        · rfl
      · intro _ _
        split
        · exact (State.base_parts ((State.endCourse_base _ i).trans (State.acquisitionStep_base s i.osc))).2.1
        · rfl
    | acquisitionStep o =>
      refine ⟨_, rfl, ?_, ?_, fun h => absurd h hm⟩
      · split
        · exact (State.base_parts (State.acquisitionStep_base s o)).1
        · rfl
      · intro _ _
        split
        · exact (State.base_parts (State.acquisitionStep_base s o)).2.1
        · rfl
    | timeRebuild k cw a b =>
      refine ⟨_, rfl, ?_, ?_, fun h => absurd h hm⟩
      · split
        · exact (State.base_parts (State.timeRebuild_base s k cw a b)).1
        · rfl
      · intro _ _
        split
        · exact (State.base_parts (State.timeRebuild_base s k cw a b)).2.1
        · rfl
    | _ => exact absurd rfl hm

theorem canonZ (z : State) (a : z.cnt = []) (b : z.regs = []) (c : z.ports = []) (d : z.od.slots = []) (e : z.sq.store = [])
    (f : z.cp.mem = []) (g : z.clk.cyc ≤ 624) (h : z.td.steps ≤ 255) (i : z.cp.credits ≤ 16) : z.Canon := by
  refine ⟨?_, ?_, ?_, ?_, ?_, ?_, g, h, i⟩
  · rw [a]; rfl
  · rw [b]; rfl
  · rw [c]; rfl
  · rw [d]; rfl
  · rw [e]; rfl
  · rw [f]; rfl

theorem strap_of_eq {s t : State} (h1 : t.ties = s.ties) (h2 : t.ck.phase = s.ck.phase) (h : s.StrapHeld) : t.StrapHeld := by
  unfold State.StrapHeld at *
  rw [h1, h2]; exact h

theorem strap_ok {t : State} (h : strapOk t.ties = true) (h2 : t.ck.phase ≠ .roleErr) : t.StrapHeld := by
  unfold State.StrapHeld
  revert h2
  cases t.ck.phase <;> simp_all

theorem main_held (s : State) (f : State → State) (h : s.ck.phase = .held) : s.main f = .next s := by
  simp [State.main, State.up, h]

theorem access_held (s : State) (m off req f) (h : s.ck.phase = .held) : s.access m off req f = s := by
  unfold State.access; rw [if_pos h]

theorem writeBy_held (s : State) (m off w v) (h : s.ck.phase = .held) : s.writeBy m off w v = s := access_held s _ _ _ _ h

theorem readBy_held (s : State) (m off w) (h : s.ck.phase = .held) : s.readBy m off w = s := access_held s _ _ _ _ h

theorem sb_held (s : State) (m) (h : s.ck.phase = .held) : s.sbMessage m = s := by
  unfold State.sbMessage
  cases m <;> simp only [access_held _ _ _ _ _ h, h, if_true, ite_self]

end Sys2Proof.Machine
end

