-- ==== Sys2Proof/WellFormed.lean ====
section
/-! DEFINITION. Sys2Proof/WellFormed.lean: the operand values that can occur: every operand lies within the width of the
signal or the field that carries it.  The meanings are total and do not rest on it; it says which commands can come from
hardware and memory that keep to the spec's field widths. -/
namespace Sys2Proof.Machine

/-- A value of a width in bits. -/
def fits (w v : Nat) : Bool := decide (v < 2 ^ w)

/-- A local port number: at most 512 ports (R1, R408). -/
def portWf (p : Nat) : Bool := fits 9 p

/-- A timing cycle of a course (R46). -/
def cycWf (c : Nat) : Bool := decide (c < 625)

/-- An edge: a timing cycle and a 12-bit code (R40). -/
def Edge.wf (e : Edge) : Bool := cycWf e.cyc && fits 12 e.code

/-- A time on the wire (R36): 48-bit seconds, 32-bit nanoseconds, 16-bit fraction; R35 is checked on receipt. -/
def WireTime.wf (w : WireTime) : Bool := fits 48 w.sec && fits 32 w.ns && fits 16 w.frac

/-- The tie-offs (R384). -/
def Ties.wf (t : Ties) : Bool :=
  fits 2 t.strap && fits 20 t.idNum && fits 3 t.gangPos && fits 3 t.gangSize && fits 7 t.sbAddr && fits 32 t.sbIana &&
    t.taps.all (fits 6) && t.tapUp.all fun e => fits 6 e.1 && fits 6 e.2.2

/-- What the gang link shows at reset. -/
def GangSeen.wf (g : GangSeen) : Bool := fits 4 g.counted && fits 20 g.leaderNum

/-- A candidate's edge at a tick. -/
def RefEdge.wf (r : RefEdge) : Bool := fits 4 r.cand && r.edge.wf && decide (0 < r.count)

/-- A recovered clock's edge at a tick. -/
def PortEdge.wf (r : PortEdge) : Bool := portWf r.port && r.edge.wf

/-- The calibration of a ramp (R208, R212). -/
def RampCal.wf (r : RampCal) : Bool := fits 11 r.conv && decide (r.codes ≤ 4096)

/-- The leader's time. -/
def LeadTime.wf (l : LeadTime) : Bool := decide (0 ≤ l.sent) && fits 32 l.te

/-- What a course tick tells (R133, R150). -/
def TickIn.wf (i : TickIn) : Bool :=
  i.rclk.all portWf && i.refs.all RefEdge.wf && i.rclkEdges.all PortEdge.wf && i.osc.wf && i.lead.all LeadTime.wf &&
    i.gangEnter.all fun e => decide (e.1 = 1 ∨ e.1 = 2)

/-- A delivery on rxf (R68). -/
def RxBase.wf (h : RxBase) : Bool := portWf h.port && fits 4 h.mark && cycWf h.cyc

/-- A Zudar header (R101). -/
def RxHead.wf (h : RxHead) : Bool :=
  h.toRxBase.wf && fits 8 h.ver && fits 16 h.len && fits 8 h.lseq && fits 8 h.lack && fits 16 h.seq && fits 24 h.srcId &&
    fits 16 h.srcPort && fits 32 h.course

/-- An IEEE 1588 header (R96). -/
def PtpHead.wf (h : PtpHead) : Bool :=
  h.toRxBase.wf && fits 4 h.sdo && fits 4 h.ver && fits 16 h.len && fits 8 h.domNum && fits 64 h.srcClock &&
    fits 16 h.srcPort && fits 16 h.seq

/-- Announce (R100). -/
def AnnounceBody.wf (b : AnnounceBody) : Bool :=
  fits 16 b.utcOffset && fits 8 b.timeSource && fits 64 b.gmId && fits 8 b.clockClass && fits 8 b.accuracy && fits 16 b.variance && fits 16 b.stepsRemoved

/-- HELLO (R104). -/
def HelloBody.wf (b : HelloBody) : Bool :=
  fits 8 b.role && fits 8 b.home && fits 16 b.port && fits 8 b.prole && fits 8 b.gang && fits 16 b.rev

/-- LAUNCH (R108). -/
def LaunchBody.wf (b : LaunchBody) : Bool := fits 32 b.id && fits 8 b.kind && b.target.wf && fits 64 b.arg

/-- The fields of an instruction word (R231). -/
def SeqArgs.wf (f : SeqArgs) : Bool := fits 4 f.d && fits 4 f.a && fits 4 f.b && fits 44 f.x

/-- A lane of 40 bytes (R291). -/
def Lane.wf (l : Lane) : Bool := decide (-(2 ^ 319 : Int) ≤ l.a) && decide (l.a < (2 ^ 319 : Int))

/-- A key and a count (R294). -/
def Ballot.wf (b : Ballot) : Bool := fits 32 b.step && fits 64 b.digest && fits 32 b.count

/-- The parameters of a collective frame (R297). -/
def CollParams.wf (c : CollParams) : Bool :=
  fits 32 c.cid && fits 32 c.isn && fits 8 c.op && fits 8 c.fmt && fits 8 c.rfmt && fits 5 c.lanes && fits 12 c.group

/-- What a COLL_UP carries: at most 16 lanes (R297). -/
def UpData.wf : UpData → Bool
  | .partial_ l => decide (l.length ≤ 16) && l.all Lane.wf
  | .vote b => b.wf
  | .report st l => fits 8 st && decide (l.length ≤ 16) && l.all (fits 64)
  | .matched b => b.wf

/-- COLL_UP (R297). -/
def CollUp.wf (m : CollUp) : Bool := m.par.wf && fits 2 m.attempt && fits 32 m.count && fits 32 m.step && m.data.wf

/-- COLL_DOWN (R297). -/
def CollDown.wf (m : CollDown) : Bool :=
  m.par.wf && fits 2 m.attempt && fits 2 m.phase && fits 8 m.status && fits 32 m.count && fits 32 m.step &&
    fits 32 m.doneCourse && decide (m.results.length ≤ 16) && m.results.all (fits 64)

/-- The request a decision answers (R298). -/
def Origin.wf (o : Origin) : Bool := fits 24 o.id && fits 12 o.port && fits 32 o.onset

/-- COLL_MOVE (R298). -/
def CollMove.wf (m : CollMove) : Bool := fits 32 m.cid && fits 32 m.isn && fits 8 m.attempt && m.origin.wf

/-- COLL_ABORT (R298). -/
def CollAbort.wf (m : CollAbort) : Bool :=
  fits 32 m.cid && fits 32 m.isn && fits 8 m.attempt && fits 8 m.reason && m.origin.wf

/-- COLL_REQ (R298). -/
def CollReq.wf (q : CollReq) : Bool :=
  fits 8 q.rtype && fits 8 q.reason && fits 2 q.attempt && fits 32 q.cid && fits 32 q.isn && fits 12 q.port &&
    fits 20 q.lo && fits 20 q.hi && fits 24 q.originId && fits 32 q.onset

/-- OBJ_REQ (R277). -/
def ObjReqMsg.wf (m : ObjReqMsg) : Bool :=
  fits 20 m.dst && fits 8 m.op && fits 8 m.ctx && fits 16 m.loc && fits 16 m.rtag && fits 32 m.operand

/-- OBJ_RSP (R277). -/
def ObjRspMsg.wf (m : ObjRspMsg) : Bool := fits 20 m.dst && fits 8 m.result && fits 16 m.rtag && fits 32 m.value

/-- What a gang member sends. -/
def GangMsg.wf : GangMsg → Bool
  | .contribution m => m.wf
  | .digest step dig => fits 64 step && fits 64 dig
  | .request q => q.wf
  | .down m => m.wf
  | .move m => m.wf
  | .abort m => m.wf
  | .diverged => true
  | .dead => true

/-- A request on obj_req or bar_req (R259). -/
def EngReq.wf (r : EngReq) : Bool :=
  fits 6 r.tap && fits 24 r.handle && fits 32 r.operand && fits 20 r.dst && fits 8 r.ftag && fits 16 r.dl && fits 8 r.rtag

/-- A request on the host port (R390). -/
def Access.wf (a : Access) : Bool := fits 24 a.addr && fits 64 a.data

/-- The calibration of one crossing (R197). -/
def CalResult.wf (r : CalResult) : Bool := fits 6 r.tap && fits 32 r.w && fits 16 r.sigma

/-- The operation or the response that a discarded word was of (R196). -/
def LostWord.wf : LostWord → Bool
  | .arrive r => r.wf
  | .objReq op r => fits 8 op && r.wf
  | .objRsp tap rtag => fits 6 tap && fits 8 rtag
  | .mark => true
  | .fill => true
  | .arm => true
  | .cancel => true
  | .release => true
  | .report => true
  | .unused => true

/-- Who requested an operation of the object store. -/
def TransFor.wf : TransFor → Bool
  | .engine op r course => fits 8 op && r.wf && fits 64 course
  | .remote m src => m.wf && fits 24 src
  | .signal => true
  | .program => true
  | .command => true

/-- Where a word failed parity (R334). -/
def ParityAt.wf : ParityAt → Bool
  | .uncontained u => fits 8 u
  | .registerRead _ => true
  | .crossing n _ k => fits 6 n && k.wf
  | .objectSlot h who => fits 24 h && who.wf
  | .treeCounter cid isn attempt => fits 32 cid && fits 32 isn && fits 2 attempt
  | .contribLog h isn => fits 10 h && fits 32 isn
  | .translation id => fits 5 id
  | .stampRecord p => portWf p
  | .replayWord p => portWf p

end Sys2Proof.Machine

namespace Sys2Proof
open Machine

/-- The operands of a command lie within their fields. -/
def Instr.wf (i : Instr) : Bool :=
  match i with
  | .porRelease t g => t.wf && g.wf
  | .porAssert => true
  | .oscGood => true
  | .oscLoss => true
  | .pllLock _ cycles _ => fits 16 cycles
  | .pllLockTimeout _ => true
  | .timingPllUnlock => true
  | .timingPllRelock => true
  | .logicPllUnlock => true
  | .logicPllRelock => true
  | .ovenFlagFall => true
  | .ovenOkRise => true
  | .ovenUseWrite v => fits 32 v
  | .gateClose k => fits 4 k
  | .cgClkoutWrite v => fits 32 v
  | .courseTick i => i.wf
  | .servoUpdate => true
  | .acquisitionStep osc => osc.wf
  | .planEvaluate => true
  | .receiveMark p id e _ => portWf p && fits 4 id && e.wf
  | .transmitMark p e _ => portWf p && e.wf
  | .txInsLate p => portWf p
  | .portUpRise p => portWf p
  | .portUpFall p => portWf p
  | .laneFlap p => portWf p
  | .rclkOkFall p => portWf p
  | .portEnable p v => portWf p && fits 32 v
  | .portDisable p v => portWf p && fits 32 v
  | .portConstantsWrite p which v => portWf p && fits 2 which && fits 32 v
  | .pfStampLoRead _ p => portWf p
  | .ptpOtherReceive h typ => h.wf && fits 8 typ
  | .zudarReservedType h typ => h.wf && fits 8 typ
  | .esmcInfoReceive h ql => h.wf && fits 4 ql
  | .esmcEventReceive h => h.wf
  | .esmcInfoSend p => portWf p
  | .syncSend p => portWf p
  | .syncReceive h origin => h.wf && origin.wf
  | .delayReqSend p => portWf p
  | .delayReqReceive h => h.wf
  | .delayRespSend p => portWf p
  | .delayRespReceive h receive reqClock reqPort => h.wf && receive.wf && fits 64 reqClock && fits 16 reqPort
  | .announceSend p => portWf p
  | .announceReceive h b => h.wf && b.wf
  | .helloSend p => portWf p
  | .helloReceive h b => h.wf && b.wf
  | .keepaliveSend p => portWf p
  | .keepaliveReceive h tx status te => h.wf && tx.wf && fits 8 status && fits 32 te
  | .keepaliveLoss p => portWf p
  | .ackReceive h => h.wf
  | .nakReceive h => h.wf
  | .ackSend p => portWf p
  | .replayTimeout p => portWf p
  | .calFrameReceive h tx => h.wf && tx.wf
  | .switchPlanReceive h id _ sw => h.wf && fits 32 id && fits 32 sw
  | .switchCancelReceive h id => h.wf && fits 32 id
  | .launchReceive h b => h.wf && b.wf
  | .candidateQualifyTimer n => fits 6 n
  | .wtrExpiry _ => true
  | .ppsEdge n e _ => fits 6 n && e.wf
  | .ppsLoss n => fits 6 n
  | .loopOpenTimeout _ => true
  | .ageWindowEnd => true
  | .rsCandnCfgWrite n v => fits 6 n && fits 32 v
  | .rsCandnDelayWrite n v => fits 6 n && fits 32 v
  | .battenEnable => true
  | .battenDisable => true
  | .battenRecal => true
  | .battenCalDone rs => rs.all CalResult.wf
  | .crossingRecalibration r => r.wf
  | .mark n _ _ => fits 6 n
  | .markStep n _ _ => fits 6 n
  | .stretchIndication n _ => fits 6 n
  | .fillWord n _ => fits 6 n
  | .crossingWordBad n _ k => fits 6 n && k.wf
  | .marginWarning n _ => fits 6 n
  | .armWord n _ => fits 6 n
  | .cancelWord n _ => fits 6 n
  | .nswReqRise n _ => fits 6 n
  | .launchFire n _ => fits 6 n
  | .launchLineFall n _ => fits 6 n
  | .launchReport n _ => fits 6 n
  | .releaseWord => true
  | .reportWord => true
  | .reportMissing => true
  | .converterCalReady ramps part => ramps.all RampCal.wf && part.all fun l => l.all (fits 11)
  | .padMeasurement vals => vals.all fun v => fits 6 v.1 && fits 32 v.2
  | .padRecal => true
  | .rampCalibration ramps _ => ramps.all RampCal.wf
  | .pinEdge pin _ e => fits 5 pin && e.wf
  | .timedStart => true
  | .shotWindowClose cyc => cycWf cyc
  | .imArm => true
  | .imAbort => true
  | .imGo => true
  | .imModeWrite _ => true
  | .imSkCountRead _ k => fits 3 k
  | .imRawLoRead _ => true
  | .zcDllLock => true
  | .zcStart => true
  | .zcClr => true
  | .zcTimeout cyc => cycWf cyc
  | .portCalibrateDone => true
  | .programStoreWrite i w => fits 14 i && fits 64 w
  | .programStart => true
  | .programStop => true
  | .eventStart => true
  | .eventStop => true
  | .nop f => f.wf
  | .halt f => f.wf
  | .jmp f => f.wf
  | .br f => f.wf
  | .bri f => f.wf
  | .stepend f => f.wf
  | .waitc f => f.wf
  | .li f => f.wf
  | .lih f => f.wf
  | .mov f => f.wf
  | .add f => f.wf
  | .sub f => f.wf
  | .and f => f.wf
  | .or f => f.wf
  | .xor f => f.wf
  | .addi f => f.wf
  | .shl f => f.wf
  | .shr f => f.wf
  | .sar f => f.wf
  | .mul f => f.wf
  | .minu f => f.wf
  | .maxu f => f.wf
  | .rdstep f => f.wf
  | .rdcrs f => f.wf
  | .rdte f => f.wf
  | .rdlr f => f.wf
  | .lcfg f => f.wf
  | .arm f => f.wf
  | .armm f => f.wf
  | .cancel f => f.wf
  | .pulse f => f.wf
  | .frz f => f.wf
  | .contrib f => f.wf
  | .waitr f => f.wf
  | .result f => f.wf
  | .deadl f => f.wf
  | .objop f => f.wf
  | .pulseEmit out fb => fits 3 out && fb.all Edge.wf
  | .pulseOutputEnable out => fits 3 out
  | .pulseCalDone out => fits 3 out
  | .periodicModeSet out => fits 3 out
  | .freezeEmit => true
  | .peek r => r.wf
  | .read r => r.wf
  | .fill r => r.wf
  | .signal r => r.wf
  | .waitge r => r.wf
  | .dec r => r.wf
  | .wdec r => r.wf
  | .realign r => r.wf
  | .arrive r => r.wf
  | .set r => r.wf
  | .wack tap tag => fits 6 tap && fits 8 tag
  | .fenceTimeout => true
  | .objectDeadline => true
  | .translationReadDone id bytes _ => fits 5 id && bytes.all (fits 8)
  | .objReqReceive h m => h.wf && m.wf
  | .objRspReceive h m => h.wf && m.wf
  | .remoteTimeout => true
  | .lend => true
  | .lendReturn => true
  | .retAck id => fits 12 id
  | .deadlockDetect => true
  | .odWindowRead _ off => fits 24 off
  | .collUpReceive h m => h.wf && m.wf
  | .collDownReceive h m => h.wf && m.wf
  | .collMoveReceive h m => h.wf && m.wf
  | .collAbortReceive h m => h.wf && m.wf
  | .collReqReceive h q => h.wf && q.wf
  | .gangContribution pos m => fits 3 pos && m.wf
  | .orphanCounterFree => true
  | .moveTimeout => true
  | .isolated => true
  | .collectiveDeadline => true
  | .egressHandover p cyc => portWf p && cycWf cyc
  | .tpDebtClr v => fits 32 v
  | .profileWrite off v => fits 24 off && fits 64 v
  | .scoreDecay => true
  | .budgetRecordExpiry => true
  | .admissionComplete p => portWf p
  | .internalParityFailure f => f.wf
  | .hfWdogKick _ v => fits 32 v
  | .watchdogExpiry => true
  | .firmwareTrap => true
  | .underlayEntry => true
  | .hfUlEnter => true
  | .hfUlExit => true
  | .underlayExit => true
  | .powerEntryAttempt _ => true
  | .napWake src arg => fits 3 src && fits 6 arg
  | .napPlannedWake => true
  | .thatchWake src arg => fits 3 src && fits 6 arg
  | .thatchTimerWake => true
  | .pwWake => true
  | .timeRebuild _ cw _ _ => fits 12 cw
  | .commandHandover slot header => fits 5 slot && fits 32 header
  | .commandCompletion => true
  | .irqCoalesceTimeout => true
  | .badOpcode => true
  | .genIdentify => true
  | .genStatus => true
  | .topologyLoad => true
  | .genReset => true
  | .fwLoad => true
  | .fwStart => true
  | .timeAcquire => true
  | .timeRestep => true
  | .timeSlewLimit => true
  | .timeDomainSelect => true
  | .timeSwitchAt => true
  | .timeHoldoverForce => true
  | .timeEpochSet => true
  | .refConfigure => true
  | .refPriority => true
  | .refLoopOpen => true
  | .refLoopClose => true
  | .refCorrect => true
  | .intervalArm => true
  | .intervalAbort => true
  | .seqLoad => true
  | .seqStart => true
  | .seqStop => true
  | .seqArm => true
  | .seqCancel => true
  | .objCtxDefine => true
  | .objInit => true
  | .objCtxClear => true
  | .objCtxRelease => true
  | .objWake => true
  | .objOp => true
  | .collDefine => true
  | .collRelease => true
  | .collAbort => true
  | .portCalibrate => true
  | .portRetire => true
  | .portRestore => true
  | .portSpareAdmit => true
  | .powerEnter => true
  | .pulseArm => true
  | .pulseCancel => true
  | .clockClkout => true
  | .cpHostHb => true
  | .hostHeartbeatTimeout => true
  | .ringEnable v => fits 32 v
  | .cpOwnWrite _ v => fits 32 v
  | .sbMctpControl cmd data => fits 8 cmd && fits 8 data
  | .sbCommandRequest words => words.all (fits 32)
  | .sbRegisterRead off width => fits 24 off && fits 4 width
  | .sbRegisterWrite off width value => fits 24 off && fits 4 width && fits 64 value
  | .sbPacketBad _ => true
  | .hostRequest a _ => a.wf
  | .hostPortReset => true
  | .hostPortResetRelease => true
  | .memoryReadResponse id bytes _ => fits 5 id && bytes.all (fits 8)
  | .memoryWriteAck id _ => fits 5 id
  | .memoryTimeout => true
  | .gangCalTimeout pos => fits 3 pos
  | .gangLinkFail lost => lost.all (fits 3)
  | .gcIrqSet v => fits 32 v
  | .pfCntClr p => portWf p
  | .tdCntClr => true
  | .rsCntClr => true
  | .cgCntClr => true
  | .btCntClr => true
  | .imCntClr => true
  | .sqCntClr => true
  | .odCntClr => true
  | .ceCntClr => true
  | .tpCntClr => true
  | .hfCntClr => true
  | .pwCntClr => true
  | .cpCntClr => true
  | .gcCntClr => true
  | .tdNowNsRead _ => true
  | .registerWrite _ off width value => fits 24 off && fits 4 width && fits 64 value
  | .gangLinkCalibrationDone hops => hops.all fun h => fits 12 h.code
  | .rxfFcsErr h bad => h.wf && (bad.fcs || decide (0 < bad.words))

end Sys2Proof
end

