-- ==== Sys2Proof/Tests/Slice0.lean ====
section
/-! SUPPORT. Sys2Proof/Tests/Slice0.lean: an ill-formed operand for each check of WellFormed.lean; for every statement with
hypotheses, states and operands that meet them, clause by clause; and small tests of single commands with results written out
from the spec. -/

set_option linter.all false
set_option Elab.async false

namespace Sys2Proof.Tests
open Sys2Proof Sys2Proof.Machine Sys2Proof.Config

/-! ### Small states -/

/-- An eave in service with taps 0 and 1, its engines enabled, its time acquired and its firmware running. -/
def eave : State :=
  { ties := { strap := 1, idNum := 5, taps := [0, 1], sbIana := 0x1234 }
    ck := { phase := .running, oscGood := true, tLock := true, lLock := true }
    clk := { course := 1000, ticks := 1000 }
    td := { acq := true }
    regs := [(0x6000, 1), (0x7000, 1), (0xB000, 1), (0xB008, 3), (0xD000, 0x4003), (0x10000, 5), (0x10400, 5)]
    ports := [(0, { up := true, role := .homeUp, health := .live }), (1, { up := true, role := .crossUp, dom := .b, health := .live })]
    bt := { taps := [(0, { st := .track }), (1, { st := .track })] }
    cp := { fw := .running } }

/-- A ridge in service with two ports up, a child and a cross downlink. -/
def ridge : State :=
  { eave with
    ties := { strap := 2, idNum := 7 }
    regs := [(0x6000, 1), (0x7000, 1), (0x10000, 5), (0x10400, 5)]
    ports := [(0, { up := true, role := .homeUp, health := .live }), (1, { up := true, role := .child, health := .live })]
    bt := {} }

/-- The root ridge. -/
def rootRidge : State := { ridge with root := true }

/-- The state with one packet in host slot 0, queued. -/
def packet (s : State) (op : Nat) (p : List Nat) : State :=
  { s with cp := { s.cp with
    hostQ := [0]
    slots := [(0, { st := .queued, header := op + 256 * p.length, params := (List.range p.length).map fun i => (i + 1, p.getD i 0) })] } }

/-- The state once the command processor has taken slot 0. -/
def taken (s : State) : State := (s.takeSlot 0).setCmdSlot 0 { s.cmdSlot 0 with st := .running }

/-- The record of the command in slot 0. -/
def record (s : State) : RunCmd :=
  { slot := 0, op := hdrOp (s.cmdSlot 0).header
    p := (List.range (min 23 (hdrLen (s.cmdSlot 0).header))).map fun i => (s.cmdSlot 0).params.get 0 (i + 1) }

/-- Slot 0 is taken. -/
def takes (s : State) : Bool := s.up && !s.shortRuns && decide (s.nextSlot = some 0)

/-- Slot 0 is taken and its command accepted as `c`. -/
def accepts (s : State) (op : Nat) (c : Cmd) : Bool :=
  takes s && decide (hdrOp (s.cmdSlot 0).header = op) && ((taken s).cmdRefused c (record s) (s.cmdSlot 0).header).isNone

theorem takes_spec (s : State) (h : takes s = true) : s.Takes (taken s) (record s) := by
  simp only [takes, Bool.and_eq_true, Bool.not_eq_true', decide_eq_true_eq] at h
  exact ⟨h.1.1, h.1.2, h.2, rfl, rfl⟩

theorem accepts_spec (s : State) (op : Nat) (c : Cmd) (h : accepts s op c = true) : s.Accepts (taken s) (record s) op c := by
  simp only [accepts, Bool.and_eq_true, decide_eq_true_eq, Option.isNone_iff_eq_none] at h
  exact ⟨takes_spec s h.1.1, h.1.2, h.2⟩

/-- Parameters with which an eave accepts each command of the opcode table, in its order. -/
def eaveParams : List (List Nat) :=
  [[], [], [0, 64], [1], [1, 0, 8, 0], [], [1], [], [1], [1], [0, 9192, 0], [0x100], [0], [0, 0, 0], [1, 15], [0], [0], [0x101, 5],
   [], [], [0, 0, 1], 0 :: 0 :: 1008 :: List.replicate 17 0, [0], [1, 0, 0, 0], [1], [0x10001, 0], [0, 1, 1], [0], [0], [0], [0, 0x14, 1], [0, 1, 0],
   [0], [0], [0, 1], [0], [0], [0, 0], [1], [0x0100, 0, 0], [0, 0, 0], [0]]

/-- The block that accepts each opcode: time.epoch_set is the root ridge's. -/
def hostOf (op : Nat) : State := if op = 0x16 then rootRidge else eave

theorem eave_serving : eave.Serving := ⟨rfl, rfl⟩
theorem ridge_serving : ridge.Serving := ⟨rfl, rfl⟩


/-- A packet in slot 0 of a state is taken and accepted. -/
def Took (s : State) (op : Nat) (c : Cmd) : Prop := s.Accepts (taken s) (record s) op c

theorem took (s : State) (op : Nat) (c : Cmd) (h : accepts s op c = true) : Took s op c := accepts_spec s op c h

/-! ### Witnesses: the queue, reset and clocks -/

/-- While por_n is low. -/
def low : State := State.reset
/-- Counting oscillator cycles. -/
def counting : State := { low with ties := { strap := 1 }, ck := { phase := .oscCount } }
/-- Waiting for the PLLs. -/
def waiting : State := { low with ties := { strap := 1 }, ck := { phase := .pllWait, oscGood := true } }

theorem witness_StepRunsTheFrontCommand : ({ eave with pending := [.oscLoss, .timeAcquire] } : State).pending = .oscLoss :: [.timeAcquire] ∧
    eave.pending = [] := ⟨rfl, rfl⟩

theorem witness_EveryCommandLeavesTheRestOfTheQueue :
    ({ eave with pending := [.oscLoss] } : State).pending = .oscLoss :: [] := rfl

theorem witness_TieOffsHeldUntilReset : low.ck.phase = .held ∧
    ((eave.ck.phase = .held → ∀ a g, Instr.oscGood ≠ .porRelease a g) ∧ Instr.oscGood ≠ .porAssert ∧ ∃ t, exec .oscGood eave = .next t) :=
  ⟨rfl, fun h => (by cases h), (by intro h; cases h), _, rfl⟩

theorem witness_StrapHeldByEveryStep : eave.StrapHeld ∧ (∃ t, step eave = .next t) ∧ low.StrapHeld ∧
    ({ low with ck := { phase := .roleErr } } : State).StrapHeld := ⟨rfl, ⟨_, rfl⟩, trivial, rfl⟩

theorem witness_TablesCanonicalAfterEveryStep : eave.Canon ∧ ∃ t, step eave = .next t :=
  ⟨⟨by decide, by decide, by decide, by decide, by decide, by decide, by decide, by decide, by decide⟩, _, rfl⟩

theorem witness_CourseNumberSetOnlyByTimeCommands : movesTime .oscGood = false ∧ ∃ t, exec .oscGood eave = .next t := ⟨rfl, _, rfl⟩

theorem witness_HeldBlockIgnoresCommands : low.ck.phase = .held ∧ (∀ a g, Instr.oscGood ≠ .porRelease a g) ∧ Instr.oscGood ≠ .porAssert :=
  ⟨rfl, (by intro a g h; cases h), by intro h; cases h⟩

theorem witness_CourseTickAdvancesTheCourse : eave.up = true ∧ eave.td.stepDue = none ∧ ({} : TickIn).lead = none := ⟨rfl, rfl, rfl⟩

theorem witness_ReleaseOfReset : low.ck.phase = .held := rfl

theorem witness_StartOfTheClocks : (counting.ck.phase = .oscCount ∧ counting.ck.oscGood = false) ∧
    (waiting.ck.phase = .pllWait ∧ waiting.ck.oscGood = true ∧ waiting.ck.tLock = false ∧ waiting.ck.lLock = false ∧ waiting.ck.tTry = 0) ∧
    (let s := { waiting with ck := { waiting.ck with tLock := true } }
     s.ck.phase = .pllWait ∧ s.ck.oscGood = true ∧ s.ck.tLock = true ∧ s.ck.lLock = false) ∧
    (let s := { waiting with ck := { waiting.ck with tTry := 1 } }
     s.ck.phase = .pllWait ∧ s.ck.tLock = false ∧ s.ck.tTry = 1) ∧
    (let s := { waiting with ck := { waiting.ck with lLock := true } }
     s.ck.phase = .pllWait ∧ s.ck.oscGood = true ∧ s.ck.tLock = false ∧ s.ck.lLock = true) ∧ waiting.ck.lTry = 0 ∧
    (let s := { waiting with ck := { waiting.ck with lTry := 1 } }
     s.ck.phase = .pllWait ∧ s.ck.lLock = false ∧ s.ck.lTry = 1) ∧
    (∀ mon ∈ [2, 6], 2 ≤ mon ∧ mon ≤ 6) ∧ (∀ mon ∈ [1, 7], ¬ (2 ≤ mon ∧ mon ≤ 6)) ∧ counting.ck.oscCnt + 1 < 1048576 ∧
    ({ counting with ck := { counting.ck with oscCnt := 1048575 } } : State).ck.oscCnt + 1 = 1048576 := by decide

theorem witness_LossOfTheOscillator : (counting.ck.phase = .oscCount ∧ counting.ck.oscGood = false) ∧
    (let s : State := { eave with ck := { phase := .running, oscGood := true } }
     s.Serving ∧ s.ck.oscGood = true ∧ s.ck.tLock = false ∧ s.ck.lLock = false) ∧
    (eave.Serving ∧ eave.ck.oscGood = true ∧ eave.ck.lLock = true ∧ eave.hf.active = false ∧ eave.hf.pend = false) :=
  ⟨⟨rfl, rfl⟩, ⟨⟨rfl, rfl⟩, rfl, rfl, rfl⟩, eave_serving, rfl, rfl, rfl, rfl⟩

theorem witness_LossAndReturnOfLock : (eave.up = true ∧ eave.ck.tLock = true ∧ eave.ck.lLock = true ∧ eave.ck.oscGood = true ∧
      eave.hf.active = false ∧ eave.hf.pend = false) ∧
    (let s : State := { eave with ck := { eave.ck with tLock := false } }
     s.up = true ∧ s.ck.oscGood = true ∧ s.ck.tLock = false ∧ ({ eave with ck := { eave.ck with lLock := false } } : State).ck.lLock = false) ∧
    (let s : State := { eave with ck := { eave.ck with relock := some 1000 } }
     ∃ r, s.ck.relock = some r ∧ 1015 < r + 16) := ⟨by decide, by decide, 1000, rfl, by decide⟩

theorem witness_OvenFlag : (let s : State := { eave with ck := { eave.ck with ovenOk := true } }
     s.Serving ∧ s.bit CG_CTL 1 = true ∧ s.ck.ovenOk = true) ∧
    (let s : State := { eave with regs := [(0x3000, 1)] }
     s.Serving ∧ s.bit CG_CTL 1 = false ∧ bitOf 2 1 = true ∧ 2 < 2 ^ 32) ∧
    (let s : State := { eave with ck := { eave.ck with ovenCnt := 1024 } }
     s.up = true ∧ s.ovenDeb ≤ s.ck.ovenCnt) :=
  ⟨⟨⟨rfl, rfl⟩, by decide, rfl⟩, ⟨⟨rfl, rfl⟩, by decide, by decide, by decide⟩, by decide⟩

theorem witness_GatesAndClkout :
    (eave.up = true ∧ eave.bit CG_CTL 0 = true ∧ ∀ k < 12, eave.bit CG_GATE_FORCE k = false ∧ eave.groupWork k = false) ∧
    (let s : State := { eave with regs := [(0x3000, 2)] }
     s.up = true ∧ s.bit CG_CTL 0 = false) ∧
    (let s : State := { eave with regs := [(0x3020, 0x800)] }
     s.up = true ∧ s.bit CG_GATE_FORCE 11 = true) ∧
    (let s : State := { eave with sq := { st := .running } }
     s.up = true ∧ s.groupWork 1 = true) ∧
    (eave.Serving ∧ bitOf 0x80000000 31 = true ∧ bitOf 0 31 = false ∧ eave.bit CG_CLKOUT 31 = false) ∧
    (let s : State := { eave with regs := [(0x3030, 0x80000000)] }
     s.Serving ∧ s.bit CG_CLKOUT 31 = true) :=
  ⟨by decide, by decide, by decide, by decide, ⟨eave_serving, by decide⟩, ⟨⟨rfl, rfl⟩, by decide⟩⟩

/-! ### Witnesses: registers, the host port and the sideband -/

theorem witness_CounterClears : eave.Serving ∧ eave.ck.phase ≠ .held ∧ 1 < eave.nPorts ∧ 511 < ridge.nPorts ∧
    (0x1280 / 0x1000 = 1 ∧ 0x2300 / 0x1000 ≠ 1 ∧ 0x2300 ≠ CG_CNT_GATE_WAIT) ∧
    (0x10000 + 0x400 * 1 ≤ PF_CNT_RX 1 ∧ PF_CNT_RX 1 ≤ 0x100FF + 0x400 * 1 ∧ PF_CNT_RX 0 < 0x10000 + 0x400 * 1) :=
  ⟨eave_serving, by decide⟩

theorem witness_PlainRegistersStoreTheirBits : TD_THR ∈ fixedRegs ∧ TD_THR.bytes = 4 ∧
    TD_THR ∉ [CG_CTL, CG_CLKOUT, TD_SLEW, IM_CTL, IM_CAL_CFG, ZC_CTL, ZC_TMO, CP_OWN, CP_RING_CFG] ∧ eave.Serving ∧ 2 ^ 32 - 1 < 2 ^ 32 ∧
    TD_CTL.off ≠ TD_THR.off ∧
    (let s : State := { eave with td := { eave.td with dom := { a := { st := .track }, b := {} } } }
     s.Serving ∧ s.td.acq = true ∧ (s.servo s.td.sel).st = .track) ∧
    eave.compat = false ∧ ({ eave with regs := [(0x4000, 0x10)] } : State).compat = true :=
  ⟨by decide, by decide, by decide, eave_serving, by decide, by decide, ⟨⟨rfl, rfl⟩, by decide⟩, by decide, by decide⟩

theorem witness_LatchingReads : eave.Serving ∧ 1 < eave.nPorts ∧ eave.isEave = true ∧ Master.host ≠ .cp :=
  ⟨eave_serving, by decide, rfl, by decide⟩

theorem witness_HostRequestsAreAnswered : (eave.ck.phase ≠ .held ∧ eave.ck.phase ≠ .roleErr ∧ eave.cp.hrst = false ∧ eave.hostWaits = false ∧
      (let s : State := { eave with pw := { eave.pw with held := [.host { addr := 0x1044, write := true, wide := false, data := 0 } true] } }
       s.ck.phase ≠ .held ∧ s.ck.phase ≠ .roleErr ∧ s.cp.hrst = false ∧ s.hostWaits = true)) ∧
    (eave.Serving ∧ 1 ≤ eave.cp.credits ∧ eave.cp.credits ≤ 16) ∧
    (let a : Access := { addr := 0x1044, write := false, wide := true, data := 0 }
     a.addr % 2 ^ 24 % (if a.wide then 8 else 4) ≠ 0) ∧
    (let a : Access := { addr := 0x1208, write := true, wide := true, data := 9 }
     a.write = true ∧ a.wide = true ∧ alwaysOn (a.addr % 2 ^ 24) = false) :=
  ⟨by decide, ⟨eave_serving, by decide⟩, by decide, by decide⟩

theorem witness_HostDown : eave.ck.phase ≠ .held ∧ eave.cp.hostDown = false ∧
    (let s : State := { eave with cp := { eave.cp with hrst := true, hostDown := true } }
     s.ck.phase ≠ .held ∧ s.cp.hrst = true ∧ s.cp.hostDown = true) ∧ eave.up = true ∧ eave.Serving ∧ eave.cp.hrst = false :=
  ⟨by decide, rfl, by decide, rfl, eave_serving, rfl⟩

theorem witness_SidebandRegisterAccesses : eave.Serving ∧ (sbAccessOk 0x1044 4 = true ∧ alwaysOn 0x1044 = false) ∧
    eave.ck.phase ≠ .held ∧ sbAccessOk 0x1044 8 = false := ⟨eave_serving, by decide, by decide, by decide⟩

theorem witness_SidebandMessages : (eave.Serving ∧ (eave.cmdSlot 16).st = .free) ∧
    (let s : State := { eave with cp := { eave.cp with
       slots := [(16, { st := .running }), (17, { st := .queued }), (18, { st := .queued }), (19, { st := .queued })] } }
     s.Serving ∧ ∀ k ∈ [16, 17, 18, 19], (s.cmdSlot k).st = .queued ∨ (s.cmdSlot k).st = .running) :=
  ⟨⟨eave_serving, rfl⟩, ⟨rfl, rfl⟩, by decide⟩

theorem witness_HandoverOfCommands : (eave.Serving ∧ 15 < 16 ∧ 2 ^ 64 - 1 < 2 ^ 64 ∧ (eave.cmdSlot 15).st = .free) ∧
    ((packet eave 0 []).Serving ∧ ((packet eave 0 []).cmdSlot 0).st = .queued) :=
  ⟨⟨eave_serving, by decide⟩, ⟨rfl, rfl⟩, by decide⟩

theorem witness_OwnershipRingAndSoftwareCause : eave.Serving ∧ 10 < 11 ∧ bitOf (2 ^ 31) 31 = true ∧ eave.ringOn = false ∧
    bitOf 0 31 = false ∧ ({ eave with regs := [(0xA030, 0x80000008)] } : State).ringOn = true ∧ eave.ck.phase ≠ .held :=
  ⟨eave_serving, by decide⟩

/-- A read and a write of memory in progress. -/
def memBusy : State :=
  { eave with mm := { reads := [{ id := 31, use := .trans 7, addr := 64, beats := 2, tick := 1000 }]
                      writes := [{ id := 0, use := .log, addr := 128, beats := 1, tick := 1000 }] } }

theorem witness_MemoryPortAnswers : (memBusy.up = true ∧
      (∃ q, (memBusy.mm.reads.find? fun r => r.id = 31) = some q ∧ q.got.length + (List.replicate 16 0).length < 16 * q.beats)) ∧
    (memBusy.mm.waitR = [] ∧ memBusy.mm.waitW = [] ∧ ∃ q, (memBusy.mm.writes.find? fun r => r.id = 0) = some q ∧ ∀ k, q.use ≠ .ring k) ∧
    ((∀ q ∈ memBusy.mm.reads, memBusy.clk.ticks ≤ q.tick + 1023) ∧ ∀ q ∈ memBusy.mm.writes, memBusy.clk.ticks ≤ q.tick + 1023) ∧
    (let q : MemReq := { id := 0, use := .log, addr := 128, beats := 1, tick := 0 }
     let s : State := { eave with clk := { course := 9, ticks := 1024 }, mm := { writes := [q] } }
     s.up = true ∧ s.mm.waitR = [] ∧ s.mm.waitW = [] ∧ s.mm.reads = [] ∧ s.mm.writes = [q] ∧ q.use = .log ∧ q.tick + 1024 ≤ s.clk.ticks) :=
  ⟨⟨rfl, _, rfl, by decide⟩, ⟨rfl, rfl, _, rfl, by intro k h; cases h⟩, by decide, by decide⟩

/-! ### Witnesses: commands -/

theorem witness_OpcodesRunByTheirRows :
    (∀ e ∈ opcodeRows.zip eaveParams, accepts (packet (hostOf e.1.2.1) e.1.2.1 e.2) e.1.2.1 e.1.2.2 = true) ∧
    (takes (packet eave 0 [1]) = true ∧
      (let s := packet ridge 0x40 [0, 0, 1]; (taken s).cmdRefused cmdSeqLoad (record s) (s.cmdSlot 0).header = some stNotInRole) ∧
      let s := packet { eave with regs := [(0xA018, 4)] } 0x10 [1]
      (taken s).cmdRefused cmdTimeAcquire (record s) (s.cmdSlot 0).header = none) ∧
    (takes (packet eave 1 []) = true ∧ (record (packet eave 1 [])).op ≠ 0) := by decide +kernel

theorem witness_CompletionsReply : (record (packet eave 0 [])).slot < 16 ∧ (record (packet eave 0 [])).ring = false ∧
    eave.ringOn = false ∧ bitOf (hdrFlags ((packet eave 0 []).cmdSlot 0).header) 0 = false ∧
    bitOf (hdrFlags ((packet eave 0 []).cmdSlot 0).header) 1 = false := by decide

theorem witness_GeneralCommands : ((packet eave 0xFF []).Takes (taken (packet eave 0xFF [])) (record (packet eave 0xFF [])) ∧
      cmdOf (record (packet eave 0xFF [])).op = none) ∧
    Took (packet eave 0 []) 0x00 cmdGenIdentify ∧ Took (packet ridge 1 []) 0x01 cmdGenStatus ∧
    (Took (packet eave 3 [0x1F]) 0x03 cmdGenReset ∧ prm (record (packet eave 3 [0x1F])).p 1 ≠ 0) ∧
    (let s := packet { eave with cp := { fw := .rom } } 4 [1, 262136, 8, 0x46]
     Took s 0x04 cmdFwLoad ∧ prm (record s).p 1 = 1 ∧ prm (record s).p 3 % 8 = 0 ∧ 8 ≤ prm (record s).p 3 ∧ prm (record s).p 3 ≤ 160 ∧
       prm (record s).p 2 + prm (record s).p 3 ≤ 262144) ∧
    Took (packet eave 5 []) 0x05 cmdFwStart ∧ Took (packet eave 2 [0, 64]) 0x02 cmdTopologyLoad := by
  refine ⟨⟨takes_spec _ (by decide +kernel), by decide +kernel⟩, took _ _ _ (by decide +kernel), took _ _ _ (by decide +kernel),
    ⟨took _ _ _ (by decide +kernel), by decide +kernel⟩, ⟨took _ _ _ (by decide +kernel), by decide +kernel⟩,
    took _ _ _ (by decide +kernel), took _ _ _ (by decide +kernel)⟩

/-- A completed command that waits for the ring, which is on and full. -/
def ringWaits : State :=
  { packet eave 0 [] with
    regs := [(0xA030, 0x80000004)]
    cp := { (packet eave 0 []).cp with
      hostQ := [], ringWr := 16, slots := [(0, { st := .running, header := 2 * 2 ^ 32 })]
      run := [{ slot := 0, op := 0, p := [], reply := some {} }] } }

theorem witness_WaitingCompletions : ∃ r rep, (ringWaits.up = true ∧ ringWaits.cp.run = [r] ∧ r.reply = some rep ∧ r.ring = false ∧ r.slot < 16 ∧
      bitOf (hdrFlags (ringWaits.cmdSlot r.slot).header) 1 = true ∧ ringWaits.ringOn = true ∧ ringWaits.ringFull = true) ∧
    ({ ringWaits with regs := [] } : State).ringOn = false := ⟨_, _, ⟨rfl, rfl, rfl, rfl, by decide, by decide, by decide, by decide⟩, by decide⟩

theorem witness_TimeCommands : Took (packet eave 0x10 [1]) 0x10 cmdTimeAcquire ∧ Took (packet eave 0x11 []) 0x11 cmdTimeRestep ∧
    Took (packet eave 0x12 [2000]) 0x12 cmdTimeSlewLimit ∧ Took (packet eave 0x13 [1]) 0x13 cmdTimeDomainSelect ∧
    (Took (packet eave 0x14 [1, 9192]) 0x14 cmdTimeSwitchAt ∧ (taken (packet eave 0x14 [1, 9192])).isEave = true ∧
      bitOf (prm (record (packet eave 0x14 [1, 9192])).p 1) 8 = false) ∧
    (Took (packet eave 0x14 [0x100, 0]) 0x14 cmdTimeSwitchAt ∧ bitOf (prm (record (packet eave 0x14 [0x100, 0])).p 1) 8 = true) ∧
    Took (packet eave 0x15 [0x101]) 0x15 cmdTimeHoldoverForce ∧ Took (packet rootRidge 0x16 [0]) 0x16 cmdTimeEpochSet := by
  refine ⟨took _ _ _ (by decide +kernel), took _ _ _ (by decide +kernel), took _ _ _ (by decide +kernel), took _ _ _ (by decide +kernel),
    ⟨took _ _ _ (by decide +kernel), by decide +kernel⟩, ⟨took _ _ _ (by decide +kernel), by decide +kernel⟩,
    took _ _ _ (by decide +kernel), took _ _ _ (by decide +kernel)⟩

theorem witness_ReferenceCommands : Took (packet eave 0x20 [10, 0, 0]) 0x20 cmdRefConfigure ∧
    (Took (packet ridge 0x21 [0x7FF, 0xF]) 0x21 cmdRefPriority ∧ (taken (packet ridge 0x21 [0x7FF, 0xF])).cp.prioReq = none) ∧
    Took (packet eave 0x22 [1]) 0x22 cmdRefLoopOpen ∧ Took (packet eave 0x23 [0]) 0x23 cmdRefLoopClose ∧
    Took (packet eave 0x24 [0x101, 2 ^ 64 - 1]) 0x24 cmdRefCorrect := by
  refine ⟨took _ _ _ (by decide +kernel), ⟨took _ _ _ (by decide +kernel), by decide +kernel⟩, took _ _ _ (by decide +kernel),
    took _ _ _ (by decide +kernel), took _ _ _ (by decide +kernel)⟩

/-- An eave whose pulse outputs 0 and 7 are enabled. -/
def pulsing : State := { eave with regs := [(0x5400, 0x80000000), (0x55C0, 0x80000000)] }

theorem witness_IntervalPulseClockAndPowerCommands : Took (packet eave 0x30 []) 0x30 cmdIntervalArm ∧
    Took (packet eave 0x31 []) 0x31 cmdIntervalAbort ∧
    (let s := packet pulsing 0x90 [7, 1, 0]
     Took s 0x90 cmdPulseArm ∧ ∃ t, timeParam (record s).p 2 = some t ∧ (taken s).pulseEn (prm (record s).p 1 % 8) = true ∧
       (taken s).pulsePer (prm (record s).p 1 % 8) = false ∧ (taken s).td.acq = true ∧ (taken s).clk.course + 2 ≤ courseOf t ∧
       ((taken s).pulse (prm (record s).p 1 % 8)).pending.length < 4) ∧
    (let s := packet eave 0x91 [7, 1, 999999999 + 65535 * 2 ^ 32]
     Took s 0x91 cmdPulseCancel ∧ ∃ t, timeParam (record s).p 2 = some t) ∧
    Took (packet eave 0xA0 [0x80000000]) 0xA0 cmdClockClkout ∧ Took (packet ridge 0x80 [2]) 0x80 cmdPowerEnter := by
  refine ⟨took _ _ _ (by decide +kernel), took _ _ _ (by decide +kernel), ⟨took _ _ _ (by decide +kernel), _, rfl, by decide +kernel⟩,
    ⟨took _ _ _ (by decide +kernel), _, rfl⟩, took _ _ _ (by decide +kernel), took _ _ _ (by decide +kernel)⟩

theorem witness_SequencerCommands : Took (packet eave 0x40 [0, 16383, 1]) 0x40 cmdSeqLoad ∧
    Took (packet eave 0x41 (0 :: 0 :: 1008 :: List.replicate 17 0)) 0x41 cmdSeqStart ∧ Took (packet eave 0x42 [1001]) 0x42 cmdSeqStop ∧
    (let s := packet eave 0x43 [1, 1, 0, 0]
     Took s 0x43 cmdSeqArm ∧ ∃ t, timeParam (record s).p 2 = some t ∧ (taken s).isEave = true ∧ eventKind (prm (record s).p 1) = true ∧
       (taken s).clk.course + 2 ≤ courseOf t ∧ (taken s).ev.events.length < 16) ∧
    (Took (packet eave 0x44 [1]) 0x44 cmdSeqCancel ∧ (taken (packet eave 0x44 [1])).isEave = true) := by
  refine ⟨took _ _ _ (by decide +kernel), took _ _ _ (by decide +kernel), took _ _ _ (by decide +kernel),
    ⟨took _ _ _ (by decide +kernel), _, rfl, by decide +kernel⟩, took _ _ _ (by decide +kernel), by decide +kernel⟩

/-- An eave with context 1 in two segments; slot 10 is a mailbox, slot 11 a semaphore. -/
def objects : State :=
  { eave with
    od := { ctxs := [(1, { st := .active, segs := [(10, 2), (100, 1)] })]
            slots := [(10, { kind := 1, ctx := 1 }), (11, { kind := 2, ctx := 1, c := 3 })] } }

theorem witness_ObjectCommands : Took (packet eave 0x50 [0x100FF, 0xFFFF0000]) 0x50 cmdObjCtxDefine ∧
    (let s := packet objects 0x51 [0x10000, 3, 1]
     Took s 0x51 cmdObjInit ∧ 1 ≤ prm (record s).p 2 ∧ prm (record s).p 2 ≤ 65536 ∧ 1 ≤ prm (record s).p 3 ∧ prm (record s).p 3 ≤ 3 ∧
       (prm (record s).p 3 = 3 → 1 ≤ prm (record s).p 4 ∧ prm (record s).p 4 ≤ 65536) ∧
       ((taken s).ctx (hCtx (prm (record s).p 1))).st ≠ .undef ∧
       ((taken s).transRange (prm (record s).p 1) false (prm (record s).p 2) []).2 = some (.inr [10, 11, 100])) ∧
    Took (packet objects 0x52 [1]) 0x52 cmdObjCtxClear ∧ Took (packet objects 0x53 [1]) 0x53 cmdObjCtxRelease ∧
    (let s := packet objects 0x54 [0x10001]
     Took s 0x54 cmdObjWake ∧ ((taken s).ctx (hCtx (prm (record s).p 1))).st ≠ .undef ∧
       ((taken s).commandTrans (prm (record s).p 1) true).2 = some (.slot 11)) ∧
    (let s := packet objects 0x55 [0x10001, 0, 1]
     Took s 0x55 cmdObjOp ∧ ((taken s).ctx (hCtx (prm (record s).p 1))).st ≠ .undef ∧ (taken s).odOn = true ∧
       ((taken s).commandTrans (prm (record s).p 1) true).2 = some (.slot 11)) := by
  refine ⟨took _ _ _ (by decide +kernel), ⟨took _ _ _ (by decide +kernel), by decide +kernel⟩, took _ _ _ (by decide +kernel),
    took _ _ _ (by decide +kernel), ⟨took _ _ _ (by decide +kernel), by decide +kernel⟩, took _ _ _ (by decide +kernel), by decide +kernel⟩

theorem witness_CollectiveAndPortCommands : Took (packet eave 0x60 [1023, 0x14, 1]) 0x60 cmdCollDefine ∧
    Took (packet eave 0x61 [0]) 0x61 cmdCollRelease ∧
    (Took (packet eave 0x62 [0]) 0x62 cmdCollAbort ∧ (taken (packet eave 0x62 [0])).isEave = true) ∧
    Took (packet eave 0x70 [1, 65536]) 0x70 cmdPortCalibrate ∧ Took (packet eave 0x71 [0x10001]) 0x71 cmdPortRetireRow ∧
    Took (packet ridge 0x72 [511]) 0x72 cmdPortRestoreRow ∧ Took (packet ridge 0x73 [1, 5]) 0x73 cmdPortSpareRow ∧
    (let s : State := { eave with im := { claim := some 1, claimDone := true } }
     s.up = true ∧ s.im.claim = some 1 ∧ s.im.claimDone = true ∧ s.cp.run = []) := by
  refine ⟨took _ _ _ (by decide +kernel), took _ _ _ (by decide +kernel), ⟨took _ _ _ (by decide +kernel), by decide +kernel⟩,
    took _ _ _ (by decide +kernel), took _ _ _ (by decide +kernel), took _ _ _ (by decide +kernel), took _ _ _ (by decide +kernel), by decide⟩

/-! ### Witnesses: the step sequencer -/

/-- A program runs with its counter at the last word of the store; every register is agreed, and g[1] is 1010. -/
def running : State :=
  { eave with sq := { st := .running, len := 16384, pc := 16383, agreed := 0xFFFF, g := [(1, 1010), (2, 2 ^ 63)] } }

/-- The opcode `op` with fields `f` runs in `s`. -/
def runs (s : State) (op : Nat) (f : SeqArgs) : Bool :=
  s.up && s.isEave && decide (s.sq.st = .running) && decide (s.sq.pc < s.sq.len) && (((s.busy.openGate 1).openGate 9).opFault op true f).isNone

theorem runs_spec (s : State) (op : Nat) (f : SeqArgs) (h : runs s op f = true) : s.Runs ((s.busy.openGate 1).openGate 9) op f := by
  simp only [runs, Bool.and_eq_true, decide_eq_true_eq, Option.isNone_iff_eq_none] at h
  exact ⟨h.1.1.1.1, h.1.1.1.2, h.1.1.2, h.1.2, h.2, rfl⟩

/-- Fields with registers 1 and 2 and destination 15. -/
def fields : SeqArgs := { d := 15, a := 1, b := 2 }

theorem witness_InstructionsRunByTheirOpcodes :
    (∀ e ∈ programRows, runs running e.2 { fields with d := 5 } = true) ∧
    (let s := { running with sq := { running.sq with pc := 16384 } }
     s.up = true ∧ s.isEave = true ∧ s.sq.st = .running ∧ s.sq.len ≤ s.sq.pc) ∧
    (running.sq.pc < running.sq.len ∧ ((running.busy.openGate 1).openGate 9).opFault 0x03 true { fields with d := 6 } = some 1) ∧
    (ridge.up = true ∧ ridge.isEave = false) ∧ (eave.up = true ∧ eave.sq.st ≠ .running) := by decide +kernel

theorem witness_RegisterInstructions : (∀ op ∈ [0x10, 0x11, 0x12, 0x13, 0x14, 0x15, 0x16, 0x17, 0x18, 0x19, 0x1A, 0x1B, 0x1C, 0x1D, 0x1E,
    0x20, 0x21, 0x22, 0x23], runs running op fields = true) ∧ 0 % 16 ≠ fields.d % 16 := by decide +kernel

theorem witness_ControlInstructions : (∀ op ∈ [0x00, 0x02, 0x03, 0x04, 0x06, 0x01, 0x05, 0x30], runs running op { fields with d := 0 } = true) ∧
    running.waitCourse fields = 1010 ∧ running.clk.course + 1 < running.waitCourse fields ∧
    (let s := { running with clk := { course := 1009, ticks := 1009 } }
     runs s 0x06 fields = true ∧ s.waitCourse fields ≤ s.clk.course + 1) ∧
    running.sq.arms = [] ∧ running.sq.voteEn = false ∧ running.gang.inGang = false ∧
    (let s := { running with sq := { running.sq with voteEn := true, votes := List.replicate 4 (0, 0, 0) } }
     runs s 0x05 fields = true ∧ s.sq.voteEn = true ∧ 4 ≤ s.sq.votes.length + s.sq.gangVotes.length ∧ s.sq.stalled = false) := by decide +kernel

/-- A handle of a vote that has no room. -/
def votesFull : Handle :=
  { cid := 9, group := 0, dom := .a, op := 0x07, fmt := 0, rfmt := 0, lanes := 1, move := false, sat := false, isn := 4
    insts := List.replicate 4 { isn := 0, data := .vote { step := 0, digest := 0, count := 1 } } }

theorem witness_ControlInstructions_room :
    (let s := { running with sq := { running.sq with voteEn := true, voteHandle := 1023 }, ce := { handles := [(1023, some votesFull)] } }
     runs s 0x05 fields = true ∧ s.sq.voteEn = true ∧ s.gang.inGang = false ∧ s.sq.votes.length + s.sq.gangVotes.length < 4 ∧
     s.handle s.sq.voteHandle = some votesFull ∧ votesFull.op = 0x07 ∧ s.ceOn = true ∧ votesFull.room = false ∧ s.sq.stalled = false) := by
  decide +kernel

/-- Fields of an arm at tap 1 and line 15. -/
def armFields : SeqArgs := { fields with x := 1 + 15 * 64 }
/-- An arm that the table holds. -/
def arms1024 : List ArmRec := List.replicate 1024 { tap := 1, line := 0, target := 0 }
/-- A barrier on handle 0, in no instance yet. -/
def barrier : Handle := { cid := 9, group := 0, dom := .a, op := 0, fmt := 0, rfmt := 0, lanes := 0, move := false, sat := false }
/-- A running program with handle 0 defined, its first instance completed with `o`. -/
def outcome (o : CollOutcome) : State :=
  { running with ce := { handles := [(0, some { barrier with isn := 1, recent := [(0, o)] })] } }

theorem witness_EffectInstructions_arms :
    (runs running 0x31 armFields = true ∧ running.sq.arms.length < 1024 ∧ running.tapServed armFields.tap = true) ∧
    (let s := { running with sq := { running.sq with arms := arms1024 } }
     runs s 0x31 armFields = true ∧ 1024 ≤ s.sq.arms.length ∧ s.sq.stalled = false) ∧
    (runs running 0x31 { fields with x := 63 } = true ∧ running.tapServed 63 = false) ∧
    (let s := { running with sq := { running.sq with g := [] } }
     runs s 0x32 fields = true ∧ s.sq.armLeft = none ∧ s.g fields.b = 0) ∧
    (let s := { running with sq := { running.sq with g := [(2, 2)] } }
     (runs s 0x32 fields = true ∧ s.sq.armLeft = none ∧ (List.range 64).filter (fun k => bitOf (s.g fields.b) k) = [1] ∧
       s.sq.arms.length + 1 ≤ 1024 ∧ s.tapServed 1 = true) ∧ runs s 0x33 fields = true) ∧
    (let s := { running with sq := { running.sq with g := [(2, 2)], arms := arms1024 } }
     runs s 0x32 fields = true ∧ s.sq.armLeft = none ∧ 1024 ≤ s.sq.arms.length ∧ (List.range 64).filter (fun k => bitOf (s.g fields.b) k) ≠ []) ∧
    (runs running 0x34 fields = true ∧ running.pulseRefused fields.out (running.target fields) (running.clk.course + 1) = true) ∧
    (let s := { running with regs := pulsing.regs }
     runs s 0x34 fields = true ∧ s.pulseRefused fields.out (s.target fields) (s.clk.course + 1) = false) ∧
    (runs running 0x35 fields = true ∧ running.td.acq = true ∧ running.clk.course + 3 ≤ courseOf (running.target fields) ∧
      running.ev.freezes = [] ∧ running.ev.lastRise = none) ∧
    (let s := { running with clk := { course := 1008, ticks := 1008 } }
     runs s 0x35 fields = true ∧ courseOf (s.target fields) < s.clk.course + 3) := by decide +kernel

theorem witness_EffectInstructions_collectives :
    (runs running 0x40 fields = true ∧ running.handle (running.seqHandle fields) = none) ∧
    (let s := { running with ce := { handles := [(0, some barrier)] } }
     runs s 0x40 fields = true ∧ (∃ hd, s.handle (s.seqHandle fields) = some hd ∧ hd.room = true ∧ hd.inst (hd.isn - 1) = none) ∧
     s.ceOn = true ∧ s.inFlight < 1024 ∧ runs s 0x43 fields = true) ∧
    (let hd := { barrier with insts := [{ isn := 0, data := .partial_ [] }], isn := 1 }
     let s := { running with ce := { handles := [(0, some hd)] } }
     runs s 0x40 fields = true ∧ s.handle (s.seqHandle fields) = some hd ∧ hd.room = false ∧ s.ceOn = true ∧ s.sq.stalled = false) ∧
    (let s := outcome { reason := 0x81 }
     runs s 0x41 fields = true ∧ s.collOutcome (s.seqHandle fields) = some { reason := 0x81 } ∧ runs s 0x42 fields = true ∧ 0x81 ≠ 0) ∧
    (runs running 0x41 fields = true ∧ running.collOutcome (running.seqHandle fields) = none) ∧
    (let s := outcome { reason := 0, results := [7] }
     runs s 0x42 fields = true ∧ s.collOutcome (s.seqHandle fields) = some { reason := 0, results := [7] } ∧
     bitOf (({ reason := 0, results := [7] } : CollOutcome).status) 4 = false ∧ ([7] : List Nat)[fields.lane]? = some 7) ∧
    (let s := { running with od := objects.od, sq := { running.sq with g := [(2, 0x10001)] } }
     runs s 0x50 fields = true ∧ (((s.busy.openGate 1).openGate 9).programOp (field fields.x 0 8) (s.g fields.a) (s.g fields.b)).2.isSome = true ∧
     (((s.busy.openGate 1).openGate 9).programOp (field fields.x 0 8) (s.g fields.a) (s.g fields.b)).1.sq = s.sq) :=
  ⟨by decide +kernel, ⟨by decide +kernel, ⟨_, rfl, by decide +kernel⟩, by decide +kernel⟩, by decide +kernel, by decide +kernel, by decide +kernel,
    by decide +kernel, by decide +kernel⟩

/-- A start that waits, with hold and without, and the state that holds it. -/
def started (hold : Bool) (course : Nat) : State :=
  { eave with sq := { st := .loaded, len := 1, start := some {
      addr := 0, step := 3, course := course, tol := 65535, vote := none, handle := 0, hold := hold, g := [] } } }
/-- A report of a launch, and the arm it answers. -/
def reported (arms : List ArmRec) (code : Nat) : State :=
  { running with
    sq := { running.sq with arms := arms }
    bt := { running.bt with reports := [{ tap := 1, line := 0, target := 0, code := code }] } }

theorem witness_ProgramRows_control : (eave.Serving ∧ eave.isEave = true ∧ 16383 < 16384 ∧ eave.sq.st.writable = true) ∧
    (running.Serving ∧ running.sq.st.writable = false) ∧
    (∃ r, (started true 0).up = true ∧ (started true 0).sq.start = some r ∧ (started true 0).sq.st ≠ .running ∧
      (started true 0).sq.st ≠ .held ∧ r.hold = true) ∧
    (∃ r, (started false 1002).sq.start = some r ∧ r.hold = false ∧ (started false 1002).clk.course + 1 < r.course) ∧
    (∃ r, (started false 1001).sq.start = some r ∧ r.hold = false ∧ r.course ≤ (started false 1001).clk.course + 1 ∧
      (started false 1001).td.acq = true) ∧
    (let s := { running with sq := { running.sq with stop := some 1002 } }
     s.up = true ∧ s.sq.stop = some 1002 ∧ s.clk.course + 1 < 1002) ∧
    (let s := { running with sq := { running.sq with stop := some 1001 } }
     s.sq.stop = some 1001 ∧ 1001 ≤ s.clk.course + 1 ∧ s.sq.st = .running ∧ s.sq.arms = []) :=
  ⟨⟨eave_serving, by decide⟩, ⟨⟨rfl, rfl⟩, rfl⟩, ⟨_, rfl, rfl, by decide, by decide, rfl⟩, ⟨_, rfl, rfl, by decide⟩,
    ⟨_, rfl, rfl, by decide, rfl⟩, by decide, by decide⟩

/-- An event of a kind whose target lies in the course that begins. -/
def event (kind : Nat) (s : State) : State := { s with ev := { s.ev with events := [{ id := 1, kind := kind, target := 1001 * courseUnits, arg := 4 }] } }

theorem witness_ProgramRows_events :
    (∃ e w, (event 3 eave).dueEvent 3 ((event 3 eave).clk.course + 1) = some (e, w) ∧ w.sq = (event 3 eave).sq ∧ w.did = (event 3 eave).did ∧
      (event 3 eave).sq.start = none ∧ (event 3 eave).sq.st ≠ .running) ∧
    (let s := event 3 { started true 0 with sq := { (started true 0).sq with st := .held } }
     ∃ e w r, s.dueEvent 3 (s.clk.course + 1) = some (e, w) ∧ s.sq.start = some r ∧ s.sq.st = .held) ∧
    (∃ e w, (event 4 running).dueEvent 4 ((event 4 running).clk.course + 1) = some (e, w) ∧ w.sq = (event 4 running).sq ∧
      (event 4 running).sq.st = .running ∧ (event 4 running).sq.arms = []) ∧
    (∃ e w, (event 4 eave).dueEvent 4 ((event 4 eave).clk.course + 1) = some (e, w) ∧ (event 4 eave).sq.st ≠ .running) ∧
    (eave.dueEvent 4 1001 = none ∧ eave.dueEvent 3 1001 = none ∧ eave.sq.st ≠ .running) ∧
    (∃ r rest, (reported [] 0).bt.reports = r :: rest ∧ (ArmRec.mk r.tap r.line r.target) ∉ (reported [] 0).sq.arms) ∧
    (∃ r rest, (reported [⟨1, 0, 0⟩] 0).bt.reports = r :: rest ∧ (ArmRec.mk r.tap r.line r.target) ∈ (reported [⟨1, 0, 0⟩] 0).sq.arms ∧ r.code = 0) ∧
    (∃ r rest, (reported [⟨1, 0, 0⟩] 2).bt.reports = r :: rest ∧ r.code = 2) ∧
    ((∀ a ∈ eave.sq.arms, eave.clk.course < courseOf a.target + 2) ∧
      (reported [⟨1, 0, 998 * courseUnits⟩] 0).sq.arms ≠ [] ∧
      ∀ a ∈ (reported [⟨1, 0, 998 * courseUnits⟩] 0).sq.arms, courseOf a.target + 2 ≤ (reported [⟨1, 0, 998 * courseUnits⟩] 0).clk.course) :=
  ⟨⟨_, _, rfl, rfl, rfl, rfl, by decide⟩, ⟨_, _, _, rfl, rfl, rfl⟩, ⟨_, _, rfl, rfl, rfl, rfl⟩, ⟨_, _, rfl, by decide⟩, by decide,
    ⟨_, _, rfl, by decide⟩, ⟨_, _, rfl, by decide, rfl⟩, ⟨_, _, rfl, rfl⟩, by decide⟩

/-- A one-shot pulse pending at output 0, at a target. -/
def oneShot (t : Int) : State := { pulsing with ev := { pulses := [(0, { pending := [{ target := t, width := 4, src := .host }] })] } }
/-- Periodic mode at output 0, the next target at a nanosecond. -/
def periodic (ns : Nat) : State := { eave with regs := [(0x5400, 0xC0000000), (0x5420, BitVec.ofNat 64 ns)] }

theorem witness_PulseAndFreezeRows :
    (eave.up = true ∧ 7 < 8 ∧ eave.pulseEn 7 = false ∧ ∃ t, exec (.pulseEmit 7 none) eave = .next t) ∧
    (let s := periodic 8009000
     s.pulseEn 0 = true ∧ s.td.acq = true ∧ s.pulsePer 0 = true ∧ (s.clk.course : Int) * 625 + 625 ≤ (s.pulsePlace 0 (s.pulseNext 0)).1) ∧
    (let s := periodic 0
     s.pulseEn 0 = true ∧ s.pulsePer 0 = true ∧ (s.pulsePlace 0 (s.pulseNext 0)).1 < (s.clk.course : Int) * 625) ∧
    (∀ t ∈ [0, 1000 * courseUnits, 1001 * courseUnits], (oneShot t).pulseEn 0 = true ∧ (oneShot t).pulsePer 0 = false ∧
      ((oneShot t).pulse 0).pending.length = 1) ∧
    ((((oneShot 0).pulsePlace 0 0).1 < 625000) ∧ 625000 ≤ ((oneShot 0).pulsePlace 0 (1000 * courseUnits)).1 ∧
      ((oneShot 0).pulsePlace 0 (1000 * courseUnits)).1 < 625625 ∧ 625625 ≤ ((oneShot 0).pulsePlace 0 (1001 * courseUnits)).1) ∧
    ((eave.pulse 0).cal = false ∧
      (let s : State := { pulsing with ev := { pulses := [(0, { cal := true, calLeft := 0, calN := 1 }), (7, { cal := true, calLeft := 0 })] } }
       (s.pulse 0).cal = true ∧ (s.pulse 0).calLeft = 0 ∧ (s.pulse 0).calN ≠ 0 ∧ (s.pulse 7).cal = true ∧ (s.pulse 7).calN = 0)) ∧
    (pulsing.rd (SQ_Pn_CFG 0) ||| 2 ^ 31 < 2 ^ 32 ∧ pulsing.pulseEn 0 = true ∧ eave.pulseEn 0 = false ∧
      (periodic 0).rd (SQ_Pn_CFG 0) ||| 2 ^ 30 < 2 ^ 32 ∧ (periodic 0).pulsePer 0 = true ∧ eave.pulsePer 0 = false) ∧
    (∀ c ∈ [625624, 625625], ∃ r rest, ({ eave with ev := { freezes := [{ rise := c, id := 1, src := .program }] } } : State).ev.freezes = r :: rest ∧
      (r.rise < (eave.clk.course + 1) * 625 ∨ (eave.clk.course + 1) * 625 ≤ r.rise)) ∧ eave.freezeNear 625624 = false ∧
    ({ eave with ev := { lastRise := some 625624 } } : State).freezeNear 625624 = true := by
  refine ⟨⟨by decide, by decide, by decide, _, rfl⟩, by decide +kernel, by decide +kernel, by decide +kernel, by decide +kernel, by decide +kernel,
    by decide +kernel, fun c hc => ⟨_, _, rfl, by omega⟩, by decide +kernel, by decide +kernel⟩

/-! ### Witnesses: the batten chain -/

/-- A tap of the eave in a state. -/
def withTap (v : Tap) : State := { eave with bt := { eave.bt with taps := [(0, { st := .track }), (1, v)] } }
/-- A word that waits at the head for the lane of a crossing, and a tap 1. -/
def flying (v : Tap) (w : DownWord) : State := { withTap v with bt := { (withTap v).bt with fly := [w] } }
/-- A mark of the running course for tap 1. -/
def mark1000 (step : Bool) : DownWord := .mark 1 { step := step, course := 1000, code := 0, age := 0 }

theorem witness_ChainRows_control :
    (let s : State := { eave with regs := [(0xB008, 3)] }
     s.Serving ∧ s.isEave = true ∧ s.rd BT_CTL < 16 ∧ bitOf (s.rd BT_CTL) 2 = false ∧ s.bit BT_CTL 0 = false ∧ s.bt.disPend = false ∧
     s.topoBad = false ∧ s.tapEn 1 = true) ∧
    (let s : State := { eave with regs := [(0xB008, 3)], ties := { eave.ties with tapUp := [(1, (false, 2))] } }
     s.bit BT_CTL 0 = false ∧ s.topoBad = true) ∧
    (eave.Serving ∧ eave.rd BT_CTL < 16 ∧ eave.bit BT_CTL 0 = true) ∧
    (eave.up = true ∧ eave.bt.busy = false ∧
      (let s : State := { eave with bt := { taps := [(0, { st := .cal }), (1, { st := .fail })], busy := true } }
       s.bt.busy = true ∧ s.tapEn 1 = true ∧ (s.tap 0).st = .cal ∧ (s.tap 1).st = .fail ∧ s.bt.recal = false)) ∧
    ((eave.tap 0).flagged = false ∧
      (let s : State := { withTap { st := .fail, flagged := true, flagTick := 999 } with
         regs := [(0x6000, 1), (0xB000, 1), (0xB008, 3), (0xB434, 4096000000)] }
       (s.tap 1).flagged = true ∧ (s.tap 1).flagTick < s.clk.ticks ∧ s.tapEn 1 = true)) :=
  ⟨⟨⟨rfl, rfl⟩, by decide +kernel⟩, by decide +kernel, ⟨eave_serving, by decide +kernel⟩, by decide +kernel, by decide +kernel⟩

theorem eave_lanes (k : Nat) : (eave.tap k).xfer = none ∧ (eave.tap k).upStr < 8 := by
  rcases k with _ | _ | k
  · decide
  · decide
  · have h : eave.tap (k + 2) = {} := rfl
    rw [h]; decide

theorem witness_ChainRows_lanes :
    (let s := withTap { st := .track, xfer := some (.arm 1 0 0 0 0, 1), upStr := 2 }
     (s.tap 1).xfer = some (.arm 1 0 0 0 0, 1)) ∧
    (let s := flying { st := .track } (mark1000 false)
     (s.tap 1).xfer = none ∧ pickWord (s.boundFor 1) (s.waiting 1) = some (mark1000 false, []) ∧ s.ties.up 1 = none ∧ (s.tap 1).wire = [] ∧
     s.bt.fly = [mark1000 false] ∧ s.boundFor 1 (mark1000 false) = true) ∧
    (∀ k ∈ [7, 8], let s := withTap { st := .track, upStr := k }
     (s.tap 1).xfer = none ∧ pickWord (s.boundFor 1) (s.waiting 1) = none) := by decide +kernel

theorem witness_ChainRows_words :
    (eave.tapEn 1 = true ∧ (eave.tapRun 1 0).markComes 1 true = false ∧ (eave.tapRun 1 0).markComes 1 false = false) ∧
    (∀ b ∈ [true, false], let v := (flying { st := .track } (mark1000 b)).tapRun 1 0
     let z := v.laneForce 1
     (v.tap 1).serves = true ∧ v.underlay = false ∧ v.markComes 1 b = true ∧ (z.tap 1).wire = [(mark1000 b, 0)]) ∧
    (eave.ties.up 1 ≠ some 1 ∧ ((withTap {}).tap 1).st = .off ∧ ((withTap {}).tap 1).nsw = false ∧ (eave.tap 1).st = .track ∧
      (eave.tap 1).pend = none ∧ (eave.tap 1).nsw = false ∧ eave.bt.fly = [] ∧ (eave.tap 1).q = []) ∧
    (∀ k ∈ [7, 8], let v := (withTap { st := .track, upStr := k }).tapRun 1 0
      (v.laneWords 1).any DownWord.isFill = false ∧ (v.tap 1).upStr = k) ∧
    (let v := (withTap { st := .track, upStr := 8 }).tapRun 1 0
     ((v.laneForce 1).tap 1).wire = [(.fill, 8)] ∧ (v.tap 1).wire = [] ∧ (v.tap 1).xfer = none ∧ (v.waiting 1).filter (v.boundFor 1) = []) ∧
    (∀ w ∈ [.arm 1 0 0 0 0, .cancel 1 0 0, .release 1 0 true, mark1000 false], let v := (flying { st := .track } w).tapRun 1 0
     (v.laneWords 1).any (fun x => decide (x = w)) = true ∧ ((v.laneForce 1).tap 1).wire = [(w, 0)]) ∧
    (takeFirst (fun r : LaunchReport => ((reported [] 0).tapPath r.tap).contains 1) (reported [] 0).bt.reports).isSome = true ∧
    (let s := { eave with regs := [(0xB000, 1), (0xB008, 3), (0xB01C, 2)] }
     (s.tap 1).mis + 1 < max 1 (s.fl BT_MARGIN 0 8) ∧ max 1 (s.fl BT_MARGIN 0 8) ≤ (s.tap 1).mis + 2 ∧
     (s.tap 1).mis < max 1 (s.fl BT_MARGIN 0 8) ∧ s.bit BT_CTL 3 = false ∧ s.tapEn 1 = true) := by decide +kernel

/-- An armed launch at course 2000 of line 15. -/
def launch2000 : Launch := { line := 15, target := 2000 * courseUnits + 2 ^ 23, n := 0, tol := 5 }
/-- A state once the word that waits for tap 1 has come. -/
def came (s : State) : State :=
  let z := (s.tapRun 1 0).laneForce 1
  (z.setTap 1 { z.tap 1 with wire := [] }).wordIn 1 0

theorem witness_LaunchRows_words :
    (∀ st ∈ [TapState.track, TapState.off], let w : DownWord := .arm 1 15 (2000 * courseUnits + 2 ^ 23) 0 5
     let s := flying { st := st } w
     let v := s.tapRun 1 0
     v.ties.up 1 = none ∧ (v.laneWords 1).any (DownWord.armFor 1) = true ∧ ((v.laneForce 1).tap 1).wire = [(w, 0)] ∧
     (came s).armCheck 1 15 (2000 * courseUnits + 2 ^ 23) = if st = .track then none else some 8) ∧
    (((eave.tapRun 1 0).tapPath 1).all (fun k => !(eave.laneWords k).any (DownWord.armFor 1) && !(eave.laneWords k).any (DownWord.cancelFor 1)) = true) ∧
    (∀ k ∈ [(0 : Int), launch2000.at28], let w : DownWord := .cancel 1 15 launch2000.target
     let s := flying { st := .track, t := k, armed := [launch2000] } w
     let v := s.tapRun 1 0
     v.ties.up 1 = none ∧ (v.laneWords 1).any (DownWord.cancelFor 1) = true ∧ ((v.laneForce 1).tap 1).wire = [(w, 0)] ∧
     ((came s).tap 1).armed = [launch2000] ∧ (came s).firesNext 1 launch2000 = decide (k = launch2000.at28)) := by decide +kernel

theorem witness_LaunchRows_edges : (eave.up = true ∧ eave.isEave = true ∧ eave.tapEn 1 = true) ∧
    (let v : Tap := { st := .track, t := launch2000.at28, mark := some (2000, 5), armed := [launch2000] }
     (withTap v).tap 1 = v ∧ v.pend = none ∧ v.str = false ∧ v.past = [] ∧ v.lines = [] ∧ launch2000.at28 ≤ v.t + 16 * v.ptrk ∧
     v.mark = some (courseOf launch2000.target, 5) ∧ 5 ≤ launch2000.tol ∧ launch2000.after = 0) ∧
    (let v : Tap := { st := .track, lines := [(15, 1)] }
     (withTap v).tap 1 = v ∧ v.armed = [] ∧ v.past = [] ∧ v.lines = [(15, 1)]) ∧
    (let v : Tap := { st := .track, past := [launch2000] }
     (withTap v).tap 1 = v ∧ launch2000.code = 0 ∧ launch2000.cancelLate = false ∧ launch2000.n ≤ launch2000.after + 1 ∧
     launch2000.fall ≤ launch2000.after + 1) ∧
    (∀ n ∈ eave.chainOrder, (eave.laneWords n).any DownWord.isRelease = false) ∧
    (let v := flying { st := .track } (.release 1 0x101 true)
     (v.laneWords 1).any DownWord.isRelease = true ∧ ((v.laneForce 1).tap 1).wire = [(.release 1 0x101 true, 0)]) := by
  decide +kernel

/-! ### Witnesses: the interval unit -/

/-- The unit with calibrated converters, in a state, its start on pin 13. -/
def unit (st : ImState) (src : Nat) : State :=
  { eave with im := { calReady := true, st := st, cfg := { src := src, at_ := 5000, slots := [{ k := 7, src := 1, edge := 0, n := 1, lo := 0, hi := 0 }] } } }

theorem witness_ConverterAndShotRows :
    ((unit .idle 0).im.calReady = true ∧ eave.im.calReady = false ∧ (unit .idle 0).clk.ticks < (unit .idle 0).im.calTick + (unit .idle 0).calPeriod) ∧
    (let s := { unit .idle 0 with clk := { course := 0, ticks := 2 ^ 20 } }
     s.im.calReady = true ∧ s.im.calTick + s.calPeriod ≤ s.clk.ticks) ∧
    (([(21, 3)] : List (Nat × Nat)).map (·.1)).Nodup ∧
    (22 ≤ 22 ∧ 21 ∈ ({ eave with im := { padRun := [21] } } : State).im.padRun) ∧
    (let s := { eave with im := { lastEdge := [(21, some 2559991809)] } }
     21 < 22 ∧ 21 ∉ s.im.padRun ∧ s.im.st = .idle ∧ s.compat = false ∧ s.im.lastEdge.get none 21 = some 2559991809 ∧
     ∃ e : Edge, (s.atCyc e.cyc).absCode e < 2559991809 + 8192) ∧
    (let s := unit .armed 13
     13 < 14 ∧ 13 ∉ s.im.padRun ∧ s.im.st = .armed ∧ s.compat = false ∧ s.convTimes 13 = true ∧ s.im.clkDue = [] ∧ s.im.recent = [] ∧
     s.im.lastEdge.get none 13 = none ∧ s.im.convFail = false ∧ s.im.shot = none ∧ s.im.ended = none ∧ s.im.cfg.slots ≠ [] ∧
     s.im.cfg.src = 13 ∧ edgeOk 13 s.im.cfg.edge false = true ∧ edgeOk 13 s.im.cfg.edge true = false) ∧
    ((unit .idle 0).im.st ≠ .armed ∧
      (let s := unit .armed 0x19
       s.im.st = .armed ∧ s.im.cfg.src = 0x19 ∧ s.im.cfg.timedCycle ≤ s.clk.course * 625 + 624 ∧ s.im.convFail = false ∧ s.im.shot = none ∧
       s.im.ended = none ∧ s.im.cfg.slots ≠ [] ∧ s.im.clkDue = [] ∧ s.im.recent = [])) ∧
    ((∀ r ∈ [(⟨2047, 78643, 4096, 20⟩ : RampCal), ⟨0, 65536, 4096, 0⟩], r.fails = false) ∧
      (∀ r ∈ [(⟨0, 78644, 4096, 0⟩ : RampCal), ⟨0, 65536, 4095, 0⟩, ⟨0, 65536, 4096, 21⟩], r.fails = true ∧ (unit .idle 0).im.ramps.get 0 r.conv = 0) ∧
      65535 < 65536 ∧ (eave.im.clkDue = [] ∧ (unit .running 13).im.clkDue = [])) ∧
    (eave.im.shot = none ∧
      (∀ x ∈ [true, false], let sh : Shot := { start := 0, slots := [{ cfg := { k := 7, src := 1, edge := 0, n := 1, lo := 0, hi := 0 }, missed := x }] }
        let s := { unit .running 13 with im := { (unit .running 13).im with shot := some sh } }
        s.im.shot = some sh ∧ (∀ r ∈ sh.slots, r.over = x) ∧ ∀ r ∈ sh.slots, pastCycles ((s.atCyc 624).nowUnits - sh.start) r.cfg.hi = true)) := by
  refine ⟨by decide +kernel, by decide +kernel, by decide, by decide, ⟨by decide, by decide, rfl, by decide, rfl, { cyc := 0, code := 0 }, ?_⟩,
    by decide +kernel, by decide +kernel, by decide +kernel, by decide +kernel⟩
  decide +kernel

theorem witness_MeasurementControl : (eave.Serving ∧ eave.rd IM_CTL &&& 0x30 = eave.rd IM_CTL ∧ eave.armOk = false ∧ eave.im.st ≠ .armed ∧
      eave.im.st ≠ .running) ∧
    (let s := unit .armed 0x1A
     s.Serving ∧ s.im.st = .armed ∧ s.im.cfg.src = 0x1A ∧ s.im.convFail = false ∧ s.im.shot = none ∧ s.im.ended = none ∧ s.im.cfg.slots ≠ [] ∧
     s.im.clkDue = [] ∧ s.im.recent = []) ∧
    (eave.compat = false ∧ eave.compat ≠ true) ∧ eave.rd IM_CAL_CFG &&& IM_CAL_CFG.mask = eave.rd IM_CAL_CFG ∧
    eave.rd ZC_CTL &&& ZC_CTL.mask = eave.rd ZC_CTL ∧ eave.up = true ∧
    (let s := { eave with regs := [(0x4000, 0x10)] }
     s.compat = true ∧ s.im.zc.lock = false ∧ s.im.zc.held = false ∧ s.im.zc.start = none) ∧
    (let s := { eave with regs := [(0x4000, 0x10)], im := { zc := { held := true, start := some (0, 0) } } }
     s.compat = true ∧ s.im.zc.lock = false ∧ s.im.zc.held = true ∧ s.im.zc.start = some (0, 0)) :=
  ⟨⟨eave_serving, by decide +kernel⟩, ⟨⟨rfl, rfl⟩, by decide⟩, by decide +kernel, by decide +kernel, by decide +kernel, rfl, by decide +kernel,
    by decide +kernel⟩

/-! ### Witnesses: ports and received frames -/

/-- A state with a port in its place. -/
def withPort (s : State) (p : Nat) (v : Port) : State := s.setPort p v
/-- A live home uplink of domain A, up. -/
def upPort : Port := { up := true, role := .homeUp, health := .live }
/-- A frame that waits for its transmit mark. -/
def marked (typ : Nat) : TxWait := { typ := typ, seq := 7, proto := false, express := true }
/-- A stamp. -/
def stamp0 : Stamp := ⟨0, 0, false⟩
/-- An exchange at a lower end, its four stamps there. -/
def lower0 : LowerExch := { seq := 7, t1 := 0, t2 := stamp0, t3 := some stamp0, rxTick := 992, srcClock := 1, srcPort := 1 }
/-- Calibrated converters. -/
def calibrated (s : State) : State := { s with im := { s.im with calReady := true } }
/-- A stamp record of transmit, valid, number 7, type 0. -/
def record7 : StampRec := { lo := 0, hi := 7 + 2 ^ 31 }

theorem witness_MarkRows : (eave.up = true ∧ eave.nPorts ≤ 2 ∧ eave.isUp 2 = false) ∧
    (1 < eave.nPorts ∧ eave.isUp 1 = true ∧ eave.im.cfg.port ≠ 1) ∧ (eave.port 0).txWait = [] ∧
    (∀ w ∈ [marked 0, marked 1], let s := calibrated (withPort eave 0 { upPort with txWait := [w], lower := some lower0 })
      (s.port 0).txWait = [w] ∧ s.convTimes (convTx 0) = true ∧ w.proto = false ∧ s.bit (PF_CTL 0) 1 = false ∧
      (s.port 0).fifo.length < 16 ∧ w.typ < 0x100 ∧ (s.port 0).lower = some lower0) ∧
    (let s := withPort eave 0 { upPort with txWait := [marked 0] }
     (s.port 0).txWait = [marked 0] ∧ s.convTimes (convTx 0) = false) ∧
    (∀ h ∈ [none, some 5], let s := withPort eave 0 { upPort with marks := [(5, { waiting := true })], rpl := { held := h } }
     s.isUp 0 = true ∧ ((s.port 0).marks.get {} (5 % 16)).waiting = true ∧ (s.port 0).rpl.held = h ∧ s.im.cfg.port = 0) ∧
    ((marked 0).made record7 = true ∧ (∀ x ∈ ([] : List StampRec), (marked 0).made x = false) ∧
      (let s := withPort eave 0 { upPort with lastMarked := some (marked 0), lastLog := some (64, record7) }
       (s.port 0).lastLog = some (64, record7))) ∧
    ((eave.port 0).lastMarked = none ∧
      (let v : Port := { upPort with lastMarked := some (marked 0), fifo := [record7] }
       v.lastMarked = some (marked 0) ∧ v.fifo = [] ++ [record7] ∧ bitOf record7.hi 31 = true ∧ field record7.hi 0 16 = (marked 0).seq ∧
       field record7.hi 16 8 = (marked 0).typ % 256 ∧ bitOf record7.hi 26 = false)) := by decide +kernel

theorem witness_PortRows_levels : (eave.up = true ∧ 1 < eave.nPorts ∧ (eave.port 1).up = true ∧ (eave.port 1).rclkOk = false) ∧
    (let s : State := { withPort eave 0 {} with regs := [] }
     (s.port 0).up = false ∧ s.enabled 0 = false) ∧
    (let s := withPort eave 0 { upPort with up := false }
     (s.port 0).up = false ∧ s.enabled 0 = true ∧ s.underlay = false ∧ (s.port 0).health ≠ .retired ∧ (s.port 0).xq.length < 64 ∧
     (s.port 0).xWait = []) ∧
    ((eave.port 0).scores = true ∧ (withPort eave 0 { upPort with health := .noTree }).port 0 = { upPort with health := .noTree } ∧
      ({ upPort with health := .noTree } : Port).scores = false ∧ ({ upPort with rclkOk := true } : Port).rclkOk = true) := by decide +kernel

/-- A head of a Zudar frame at port 0, its next in sequence, long enough for any payload. -/
def head : RxHead := { port := 0, len := 200, rpl := true }

theorem witness_PortRows_registers : (eave.Serving ∧ eave.enabled 0 = true ∧ 2 ^ 32 - 1 < 2 ^ 32 ∧
      (2, PF_FIB_CORR 1) ∈ [(0, PF_TX_LAT 1), (1, PF_RX_LAT 1), (2, PF_FIB_CORR 1)]) ∧
    (let s : State := { eave with regs := [] }
     s.Serving ∧ s.enabled 0 = false ∧ (s.port 0).up = true) ∧
    (let s : State := { withPort eave 0 {} with regs := [] }
     s.enabled 0 = false ∧ (s.port 0).up = false) ∧
    (eave.isUp 0 = true ∧ (eave.port 0).health ≠ .retired ∧ (((eave.atCyc 0).claimMark 0 0).1.port 0).rpl.gap = false ∧
      (withPort eave 0 { upPort with health := .retired }).isUp 0 = true) ∧
    (let s := withPort eave 0 { upPort with rpl := { gap := true } }
     (((s.atCyc 0).claimMark 0 0).1.port 0).rpl.gap = true) ∧
    ((eave.port 0).cal.running = false ∧ ({ upPort with cal := { running := true } } : Port).cal.running = true ∧
      (eave.rxBegin head.toRxBase true head.seq 0x06 true).ok = true) :=
  ⟨⟨eave_serving, by decide +kernel⟩, ⟨⟨rfl, rfl⟩, by decide +kernel⟩, by decide +kernel, by decide +kernel, by decide +kernel, by decide +kernel⟩

theorem witness_PortRows_bad : (eave.up = true ∧ (0 : Nat) < eave.nPorts ∧ eave.bit (PF_CTL 0) 1 = false ∧ (eave.port 0).fifo.length < 16) ∧
    (∀ g ∈ [true, false], let s := withPort eave 0 { upPort with rpl := { gap := g } }
     let v := (s.rxSpoilt head.toRxBase).port 0
     s.isUp 0 = true ∧ (s.port 0).health ≠ .retired ∧ v.rpl.gap = g ∧ s.underlay = false ∧ v.mismatch = false ∧ v.xq.length < 64 ∧ v.xWait = []) := by
  refine ⟨by decide +kernel, fun g hg => ?_⟩
  obtain ⟨m, f, k, h⟩ := (spoilt_keep (withPort eave 0 { upPort with rpl := { gap := g } }) head.toRxBase _ rfl).2.2.2.1
  have hp : (withPort eave 0 { upPort with rpl := { gap := g } }).port 0 = { upPort with rpl := { gap := g } } := by
    cases g <;> decide +kernel
  have hu : (withPort eave 0 { upPort with rpl := { gap := g } }).isUp 0 = true := by cases g <;> decide +kernel
  have hv : (withPort eave 0 { upPort with rpl := { gap := g } }).underlay = false := by cases g <;> decide +kernel
  dsimp +zetaHave only
  rw [show ((withPort eave 0 { upPort with rpl := { gap := g } }).rxSpoilt head.toRxBase).port 0 = _ from h]
  rw [show (withPort eave 0 { upPort with rpl := { gap := g } }).port head.toRxBase.port = _ from hp, hp]
  exact ⟨hu, (by decide : upPort.health ≠ .retired), rfl, hv, rfl, (by decide : upPort.xq.length < 64), rfl⟩

theorem witness_ReceivedFramesAreJudged : (eave.up = true ∧ eave.nPorts ≤ 2 ∧ ({ eave with regs := [] } : State).isUp 0 = false) ∧
    (head.port < eave.nPorts ∧ eave.isUp head.port = true ∧ (head.tagged || head.tooLong || head.incomplete) = false ∧
      (({ head with tooLong := true } : RxHead).tagged || true || false) = true ∧ (eave.port 0).health ≠ .retired) ∧
    ((∀ l ∈ [23], ({ head with len := l } : RxHead).len < 24) ∧ head.ver = 2 ∧ 24 ≤ 24 ∧ head.pastFcs = false ∧ Dom.b ≠ (eave.port 0).dom) ∧
    (head.dom = (eave.port 0).dom ∧ ({ head with rpl := false } : RxHead).rpl = false ∧ (eave.port 0).rpl.ahead = 0 ∧
      (eave.port 0).rpl.entries = [] ∧ 0x05 ≠ 0x04 ∧ head.rpl = true ∧ head.lseq = (eave.port 0).rpl.expect ∧ (eave.port 0).rpl.expect < 256 ∧
      128 ≤ (eave.port 0).dist 128) ∧ (eave.port 0).rpl.held ≠ some (head.mark % 16) := by decide +kernel

/-- The transfer of time is on at this eave. -/
def transfer (v : Port) : State := { withPort eave 0 v with regs := [(0x1040, 1), (0x1208, 0x55), (0x6000, 1), (0x10000, 0xD), (0x10400, 5)] }
/-- A head of a 1588 frame at port 0. -/
def ptpHead (s : State) : PtpHead := { port := 0, domNum := s.ptpDom .a, seq := 7 }
/-- A child port. -/
def childPort : Port := { upPort with role := .child }
/-- A Delay_Resp to this exchange has no fault. -/
def resp (x : LowerExch) : Bool :=
  let s := transfer { upPort with lower := some x }
  (s.rxPtp (ptpHead s) 0x9 54).ok && decide (((s.rxPtp (ptpHead s) 0x9 54).s.port 0).lower = some x)

theorem witness_TimeTransferReceipts_exchange :
    (let s := transfer upPort
     s.up = true ∧ 0 < s.nPorts ∧ (s.rxPtp (ptpHead s) 0x0 44).ok = true ∧ ((s.rxPtp (ptpHead s) 0x0 44).s.port 0).role.isLower = true ∧
     (eave.rxPtp (ptpHead eave) 0x0 44).ok = false) ∧
    (let s := transfer { childPort with upper := { t1 := some stamp0, seq := 7 } }
     let v := (s.rxPtp (ptpHead s) 0x1 44).s.port 0
     (s.rxPtp (ptpHead s) 0x1 44).ok = true ∧ v.role.isUpper = true ∧ v.upper.t1.isSome = true ∧ v.upper.seq = 7) ∧
    (let s := transfer childPort
     let v := (s.rxPtp (ptpHead s) 0x1 44).s.port 0
     (s.rxPtp (ptpHead s) 0x1 44).ok = true ∧ v.role.isUpper = true ∧ v.upper.t1 = none) ∧
    (resp lower0 = true ∧ lower0.good 1000 = true ∧ resp { lower0 with t3 := none } = true ∧
      ({ lower0 with t3 := none } : LowerExch).good 1000 = false ∧ (ptpHead (transfer upPort)).seq = lower0.seq ∧
      (transfer upPort).rd TD_CLOCK_ID = 0x55 ∧
      (0 : Int) ≤ ((lower0.t2.t - lower0.t1) + (2 * 4294967295 - stamp0.t)) / 2 ∧
      ((lower0.t2.t - lower0.t1) + (2 * 4294967295 - stamp0.t)) / 2 < 4294967296) := by decide +kernel

theorem witness_TimeTransferReceipts_others :
    (let s := transfer upPort
     (s.rxPtp (ptpHead s) 0xB 64).ok = true ∧ ((s.rxPtp (ptpHead s) 0xB 64).s.port 0).role.isLower = true ∧
     (s.rxPtp (ptpHead s) 0xB 64).s.isRoot = false ∧ ((s.rxPtp (ptpHead s) 0xB 64).s.port 0).dom = (s.rxPtp (ptpHead s) 0xB 64).s.td.sel ∧
     (let w := transfer { upPort with dom := .b }
      (w.rxPtp { ptpHead w with domNum := w.ptpDom .b } 0xB 64).ok = true)) ∧
    ((eave.rxZudar head kHello).ok = true ∧ ((eave.rxZudar head kHello).s.port 0).cal.running = false ∧
      (eave.rxZudar { head with ver := 1 } kHello).ok = false ∧
      (let s := withPort eave 0 { upPort with cal := { running := true } }
       (s.rxZudar head kHello).ok = true ∧ ((s.rxZudar head kHello).s.port 0).cal.running = true)) ∧
    ((eave.rxZudar head kKeepalive true).ok = true ∧ (eave.rxZudar head kKeepalive false).ok = false ∧
      (let s := withPort eave 0 { upPort with health := .admitting, peerExp := 3 }
       let r := s.rxZudar { head with srcId := 3 } kKeepalive true
       r.ok = true ∧ (r.s.port 0).health = .admitting ∧ (r.s.port 0).admitAt = none ∧ bitOf 0xC0 7 = true ∧ bitOf 0xC0 6 = true ∧
       (r.s.port 0).mmRole = false ∧ (r.s.port 0).peerExp = 3)) ∧
    (let s := transfer upPort
     (s.rxEsmc head.toRxBase false).ok = true ∧ (s.rxEsmc head.toRxBase false).s.candOf 0 = some 6 ∧
     (eave.rxEsmc head.toRxBase false).ok = false) := by decide +kernel

/-- The queue of a port is open to an express frame. -/
theorem open_of (s : State) (p : Nat) (h : (s.isUp p && !s.underlay && decide ((s.port p).health ≠ .retired) && !(s.port p).mismatch &&
    decide ((s.port p).xq.length < 64) && decide ((s.port p).xWait = [])) = true) : s.QueueOpen p := by
  simp only [Bool.and_eq_true, Bool.not_eq_true', decide_eq_true_eq] at h
  exact ⟨h.1.1.1.1.1, h.1.1.1.1.2, h.1.1.1.2, h.1.1.2, h.1.2, h.2⟩

/-- The transfer of time at a course. -/
def atCourse (n : Nat) (v : Port) : State := { transfer v with clk := { course := n, ticks := n } }

theorem witness_PeriodicMessages :
    (let s := { eave with clk := { course := 1001, ticks := 1001 }, regs := [(0x10000, 5)] }
     s.syncDue 0 = false ∧ s.announceDue 0 = false ∧ s.keepaliveDue 0 = false ∧ s.esmcDue 0 = false ∧ s.lossDue 0 s.clk.ticks = false ∧
     (s.port 0).lower = none ∧ (s.port 0).upper.t4 = none ∧ (s.port 0).rpl.unacked < s.ackEvery 0 ∧ s.helloDue 0 = false) ∧
    ((atCourse 1024 childPort).QueueOpen 0 ∧ (atCourse 1024 childPort).bit TD_CTL 0 = true ∧ (atCourse 1024 childPort).clk.course % 1024 = (2 * 0) % 1024 ∧
      (childPort.lastSent.get 0 0 ≠ 1025)) ∧
    ((atCourse 16385 childPort).QueueOpen 0 ∧ 16385 % 16384 = 2 * 0 + 1 ∧ childPort.lastSent.get 0 0xB ≠ 16386) ∧
    ((transfer { upPort with lower := some lower0 }).QueueOpen 0 ∧ lower0.asked = false ∧ lower0.rxTick < 1000) ∧
    ((transfer { childPort with upper := { t1 := some stamp0, t4 := some stamp0, reqTick := 999 } }).QueueOpen 0 ∧
      ({ t1 := some stamp0, t4 := some stamp0 } : UpperExch).good = true ∧ ({ t4 := some stamp0 } : UpperExch).good = false) ∧
    ((withPort eave 0 { upPort with upTick := 936 }).QueueOpen 0 ∧ (1000 - 936) % 64 = 0 ∧ upPort.peerSeen = none) ∧
    (eave.QueueOpen 0 ∧ 1000 % 8 = 0 % 8) ∧
    ((transfer upPort).bit (PF_CTL 0) 3 = true ∧ (transfer upPort).QueueOpen 0 ∧ upPort.lastSent.get 0 0x100 = 0 ∧ upPort.tq.length < 16) ∧
    ((withPort eave 0 { upPort with rpl := { unacked := 56 } }).QueueOpen 0 ∧ (withPort eave 0 { upPort with rpl := { unacked := 56 } }).ackEvery 0 ≤ 56) ∧
    (∀ hl ∈ [Health.noTree, .admitting, .live], let s := withPort eave 0 { upPort with health := hl, kaTick := some 976 }
      s.enabled 0 = true ∧ (s.port 0).lossDecl = false ∧ (s.port 0).kaTick = some 976 ∧ 976 + 24 ≤ s.clk.ticks) ∧
    (let s := withPort eave 0 { upPort with rpl := { unacked := 56 }, xq := List.replicate 64 { body := .ack } }
     s.isUp 0 = true ∧ s.underlay = false ∧ (s.port 0).health ≠ .retired ∧ (s.port 0).mismatch = false ∧ 64 ≤ (s.port 0).xq.length ∧
     s.ackEvery 0 ≤ (s.port 0).rpl.unacked) := by
  refine ⟨by decide +kernel, ⟨open_of _ _ (by decide +kernel), by decide +kernel⟩, ⟨open_of _ _ (by decide +kernel), by decide +kernel⟩,
    ⟨open_of _ _ (by decide +kernel), by decide +kernel⟩, ⟨open_of _ _ (by decide +kernel), by decide +kernel⟩,
    ⟨open_of _ _ (by decide +kernel), by decide +kernel⟩, ⟨open_of _ _ (by decide +kernel), by decide +kernel⟩,
    ⟨by decide +kernel, open_of _ _ (by decide +kernel), by decide +kernel⟩, ⟨open_of _ _ (by decide +kernel), by decide +kernel⟩, by decide +kernel,
    by decide +kernel⟩

/-- An entry of the replay buffer. -/
def entry0 : RplEntry := { lseq := 0, body := .switchCancel 1 }

theorem witness_LinkAndBroadcastRows_link :
    (let s := withPort eave 0 { upPort with rpl := { next := 1, entries := [entry0] } }
     s.up = true ∧ head.port < s.nPorts ∧ s.isUp head.port = true ∧ (head.tagged || head.tooLong || head.incomplete) = false ∧
     (s.port 0).health ≠ .retired ∧ (s.port 0).mismatch = false ∧ head.ver = 2 ∧ 24 ≤ head.len ∧ head.pastFcs = false ∧ head.dom = (s.port 0).dom ∧
     (1 + 256 - (s.port 0).rpl.ackSeq) % 256 = 1 ∧ 1 ≤ (s.port 0).rpl.entries.length ∧ (s.port 0).rpl.held ≠ some (head.mark % 16)) ∧
    (let s := withPort eave 0 { upPort with rpl := { next := 1, entries := [entry0] } }
     let r := s.rxZudar { head with rpl := false } kNak
     let v := r.s.port 0
     r.ok = true ∧ v.rpl.entries = entry0 :: [] ∧ head.lack = entry0.lseq ∧ v.rpl.attempt = none ∧ v.mismatch = false ∧
     v.rpl.entries.length < (2 + 256 - v.rpl.ackSeq) % 256 ∧ (s.rxZudar { head with ver := 0 } kNak).ok = false) ∧
    (eave.replayDue 0 (eave.clk.ticks + 1) = false ∧
      (∀ a ∈ [none, some 0], let s := withPort eave 0 { upPort with rpl := { next := 1, entries := [entry0], attempt := a } }
        (s.port 0).rpl.entries = entry0 :: [] ∧ (s.port 0).rpl.waitTick + s.rplTimeout 0 < s.clk.ticks + 1 ∧ (s.port 0).mismatch = false)) := by
  decide +kernel

theorem witness_LinkAndBroadcastRows_egress :
    (let s : State := { eave with regs := [(0x10000, 5)] }
     s.up = true ∧ 0 < s.nPorts ∧ s.windowed 0 = false ∧ (s.port 0).xq = [] ∧ (s.port 0).cq = [] ∧ (s.port 0).tq = [] ∧
     (s.port 0).xWait = [] ∧ (s.port 0).cWait = [] ∧ (s.port 0).mismatch = false) ∧
    (let s : State := { withPort eave 0 { upPort with mmId := true, xq := [{ body := .ack }] } with regs := [(0x10000, 5)] }
     s.windowed 0 = false ∧ (s.port 0).mismatch = true ∧ (s.port 0).cal.running = false ∧
     (∀ q ∈ (s.port 0).xq ++ (s.port 0).cq ++ (s.port 0).tq, q.body.identityBearing = false) ∧ (s.port 0).xWait = [] ∧ (s.port 0).cWait = []) ∧
    (let q : QFrame := { body := .sync 3 }
     q.body.cls = .express ∧ q.body.replayed = false ∧ q.retx = none ∧ (withPort eave 0 { upPort with xq := [q] } |>.port 0).xq = q :: []) ∧
    (eave.Serving ∧ bitOf 0x7FF 31 = false ∧ eave.nPorts ≤ field 0x7FF 0 9 ∧ field 0x600 0 9 = 0 ∧ bitOf 0x600 9 = true ∧ bitOf 0x600 10 = true) ∧
    (profileReg 0 = none ∧ (profileReg (TP_PROFk_CFG 7).off).isSome = true) :=
  ⟨by decide +kernel, by decide +kernel, by decide +kernel, ⟨eave_serving, by decide +kernel⟩, by decide +kernel⟩

/-- A head of a frame of the present course. -/
def nowHead : RxHead := { head with course := 1000 }
/-- A target in a course. -/
def wireAt (n : Nat) : WireTime := { sec := 0, ns := n * 1000 }

theorem witness_LinkAndBroadcastRows_broadcasts :
    (eave.isEave = true ∧ (eave.rxZudar nowHead kSwitchPlan).ok = true ∧ (0x10, 3) ∉ (eave.rxZudar nowHead kSwitchPlan).s.td.seen ∧
      (eave.rxZudar head kSwitchPlan).ok = true ∧
      (∀ c ∈ [1015, 1016], serialRebuild (eave.rxZudar nowHead kSwitchPlan).s.clk.course c = some c) ∧
      serialRebuild (eave.rxZudar nowHead kSwitchPlan).s.clk.course (2 ^ 31 + 1000) = none) ∧
    ((eave.rxZudar nowHead kSwitchCancel).ok = true ∧ (0x11, 3) ∉ (eave.rxZudar nowHead kSwitchCancel).s.td.seen ∧
      (let s : State := { eave with td := { eave.td with plan := some ⟨3, .b, 2000⟩ } }
       (s.rxZudar nowHead kSwitchCancel).s.td.plan.map Plan.id = some 3)) ∧
    ((eave.rxZudar nowHead kLaunch (wireAt 1002).ok).ok = true ∧ (0x14, 9) ∉ (eave.rxZudar nowHead kLaunch true).s.td.seen ∧ eventKind 3 = true ∧
      3 ≠ 5 ∧ 3 ≠ 1 ∧ 3 ≠ 2 ∧ courseOf (wireAt 1001).units < 1000 + 2 ∧ 1000 + 2 ≤ courseOf (wireAt 1002).units ∧
      (eave.rxZudar nowHead kLaunch true).s.ev.events.length < 16) := by decide +kernel

/-! ### Witnesses: servos, references and objects -/

/-- An eave at the last course before an update. -/
def beforeUpdate (v : Servo) : State :=
  { eave with clk := { course := 2047, ticks := 2047 }, td := { eave.td with dom := { a := v, b := {} } } }
/-- A root ridge with its PPS candidate 4 and its oscillator candidate 10. -/
def rootClock : State :=
  { calibrated rootRidge with
    regs := [(0x2440, 0x2018), (0x6000, 1), (0x10000, 5), (0x10400, 5)]
    rs := { cand := [(4, { st := .qualified }), (10, { st := .qualified })], epoch := some 5 } }

theorem witness_ServoAndReferenceRows_servo : (eave.up = true ∧ eave.clk.course % 1024 ≠ 1023) ∧
    (let s := beforeUpdate { st := .track, th := [(0, 3)] }
     s.isEave = true ∧ s.clk.course % 1024 = 1023 ∧ s.underlay = false ∧ s.follower = false ∧ s.did.servo = false ∧ s.linkSample .a = some 3 ∧
     s.linkSample .b = none ∧ s.did.phase = false) ∧
    eave.td.stepDue = none ∧
    (let s : State := { eave with td := { acq := false, stepDue := some (.a, 0) } }
     s.td.stepDue = some (.a, 0) ∧ s.ev.freezes = [] ∧ s.td.acq = false) ∧
    eave.td.plan = none ∧
    (∀ c ∈ [1001, 1002], ∀ d ∈ [Dom.a, .b], let s : State := { eave with td := { eave.td with plan := some ⟨3, d, c⟩ } }
      s.isEave = true ∧ s.td.acq = true ∧ s.td.plan = some ⟨3, d, c⟩) ∧
    ((eave.td.sel ≠ .b ∧ eave.tracked .b = false) ∧
      ({ eave with td := { eave.td with dom := { a := {}, b := { st := .track, locked := true } } } } : State).tracked .b = true) := by
  decide +kernel

theorem witness_ServoAndReferenceRows_references :
    ((∀ n ∈ [10, 11], 10 ≤ n) ∧ (eave.cand 9).st ≠ .disq ∧ (eave.cand 9).st ≠ .qualifying ∧
      (∀ st ∈ [CandState.disq, .qualifying], let s : State := { eave with clk := { course := 0, ticks := 9999999 }, rs := { cand := [(9, { st := st })] } }
        (s.cand 9).st = st ∧ (s.cand 9).fail = false ∧ (s.cand 9).loss = false ∧ s.bit RS_CTL 1 = false ∧
        (s.cand 9).since + max 1 (s.fl RS_QUAL 24 8) * 1000000 ≤ s.clk.ticks + 1)) ∧
    (let s : State := { eave with
       regs := [(0x2460, 0x2013), (0x2470, 0x2014), (0x10000, 5), (0x10400, 5)], clk := { course := 0, ticks := 2 ^ 40 }
       rs := { cand := [(6, { st := .qualified }), (10, { st := .qualified })] } }
     (s.servo .a).timeSrc = 15 ∧ s.freqOrder .a = [6, 10] ∧ 10 ∈ [10] ∧ s.bit RS_CTL 0 = true ∧ (s.cand 6).since + s.wtrCourses ≤ s.clk.ticks + 1) ∧
    (let s : State := { eave with regs := [(0x2000, 4)] }
     s.bit RS_CTL 0 = false) ∧
    (eave.candPresent 4 = false ∧ rootClock.candPresent 4 = true ∧ rootClock.candEn 4 = true ∧ rootClock.pinTimed 12 = true ∧
      rootClock.rs.epoch = some 5 ∧ (let s : State := { rootClock with rs := { rootClock.rs with epoch := none, anchors := [(4, ⟨9, 0, 0⟩)] } }
        s.rs.epoch = none ∧ s.rs.anchors.look 4 = some ⟨9, 0, 0⟩) ∧ (rootClock.cand 4).st ≠ .off ∧ (eave.cand 4).st = .off ∧
      (rootClock.cand 4).ppsTick.getD (rootClock.cand 4).since + 2000000 <
        ({ rootClock with clk := { course := 0, ticks := 2000000 } } : State).clk.ticks + 1) := by decide +kernel

theorem witness_ServoAndReferenceRows_loops :
    ((eave.servo .a).openLoop = false ∧
      (let s : State := { eave with regs := [(0x200C, 999)], td := { eave.td with dom := { a := { st := .track, openLoop := true, openTick := 1 }, b := {} } } }
       (s.servo .a).openLoop = true ∧ (s.servo .a).st = .track ∧ (s.servo .a).openTick + s.rd RS_OPEN_TMO < s.clk.ticks + 1)) ∧
    (eave.rs.age.valid = false ∧
      (∀ k ∈ [(0 : Int), 1], let s : State := { eave with clk := { course := 0, ticks := 2 ^ 36 - 1 }, rs := { age := { valid := true, n := 1, sxx := k } } }
        (s.clk.ticks + 1) % s.ageSpan = 0 ∧ s.rs.age.valid = true ∧ s.bit RS_CTL 2 = true ∧
        (s.rs.age.n : Int) * s.rs.age.sxx - s.rs.age.sx * s.rs.age.sx = k)) ∧
    (eave.Serving ∧ (10 : Nat) ≤ 10 ∧ 10 < 11 ∧
      (let s : State := { eave with rs := { cand := [(9, { st := .qualified })] } }
       (s.cand 9).st ≠ .off ∧ 9 < 10 ∧ (0xFFD0 &&& (RS_CANDn_CFG 9).mask) / 16 ≠ s.rd (RS_CANDn_CFG 9) / 16 ∧
       (7 &&& (RS_CANDn_DELAY 9).mask) ≠ s.rd (RS_CANDn_DELAY 9))) :=
  ⟨by decide +kernel, by decide +kernel, ⟨⟨rfl, rfl⟩, by decide +kernel⟩⟩

/-- The object store with one slot 10 in context 1, its handle 0x10000. -/
def oneSlot (v : Slot) : State := { objects with od := { objects.od with slots := [(10, { v with ctx := 1 })] } }
/-- A request at tap 1 on slot 10. -/
def request (operand : Nat) (wait : Bool := false) : EngReq :=
  { tap := 1, handle := 0x10000, operand := operand, remote := false, dst := 0, fence := false, ftag := 0, lend := false, wait := wait, dl := 0, rtag := 255, bar := false }

/-- Boolean form of a request of an engine at slot 10. -/
theorem obj_to (s : State) (r : EngReq) (k : Nat) (hs : s.Serving)
    (h : (s.tapEn r.tap && s.tapRuns r.tap && s.odOn && !r.remote && !r.fence && !s.tapHeld r.tap && decide (s.translate r.handle = .slot k) &&
      decide ((s.slot k).gen = (s.ctx (s.slot k).ctx).gen)) = true) : s.ObjTo r k (s.slot k) := by
  simp only [Bool.and_eq_true, Bool.not_eq_true', decide_eq_true_eq] at h
  exact ⟨hs, ⟨h.1.1.1.1.1.1.1, h.1.1.1.1.1.1.2⟩, h.1.1.1.1.1.2, ⟨h.1.1.1.1.2, h.1.1.1.2⟩, h.1.1.2, h.1.2, rfl, h.2⟩

/-- A slot of each kind and value that a clause names. -/
def slotsOf : List Slot :=
  [{}, { kind := 1 }, { kind := 1, full := true }, { kind := 2, value := 5, p := 5, c := 5 }, { kind := 3, value := 0, c := 1 }, { kind := 3, value := 1, c := 1 }]

theorem witness_ObjectOperations_slots : (∀ v ∈ slotsOf, (oneSlot v).ObjTo (request 5) 10 ((oneSlot v).slot 10)) ∧
    (∀ v ∈ slotsOf, (oneSlot v).slot 10 = { v with ctx := 1 } ∧ ∀ w ∈ (oneSlot v).od.waiters, w.slot ≠ 10) ∧
    ((request 5).operand ≤ 5 ∧ 5 < (request 6).operand ∧ (request 6).wait = false ∧ (5 : Nat) ≠ (request 6).operand) ∧
    (∀ e ∈ (oneSlot {}).ce.handles, ∀ g, e.2 = some g → g.arriveObj ≠ some (hKey (request 5).handle)) := by
  refine ⟨?_, by decide +kernel, by decide, ?_⟩
  · intro v hv
    simp only [slotsOf, List.mem_cons, List.not_mem_nil, or_false] at hv
    rcases hv with rfl | rfl | rfl | rfl | rfl | rfl <;> exact obj_to _ _ _ ⟨rfl, rfl⟩ (by decide +kernel)
  · intro e he
    exact absurd he (by simp [oneSlot, objects, eave])

/-- A waiter on slot 10. -/
def waiter0 : Waiter := { id := 0, tap := 0, rtag := 3, handle := 0x10000, slot := 10, op := 2, operand := 0 }
/-- The object store with waiters on an empty mailbox. -/
def waits (ws : List Waiter) : State := { oneSlot { kind := 1 } with od := { (oneSlot { kind := 1 }).od with waiters := ws } }

theorem witness_ObjectOperations_waits :
    ((waits [waiter0]).ObjTo (request 5) 10 ((waits [waiter0]).slot 10) ∧ ((waits [waiter0]).slot 10).kind = 1 ∧
      ((waits [waiter0]).slot 10).full = false ∧ ((waits [waiter0]).od.waiters.filter fun x => x.slot = 10) = [waiter0] ∧ waiter0.op = 2 ∧
      ((waits [waiter0]).od.lends.find? fun l => l.id = waiter0.id) = none) ∧
    ((waits [waiter0]).waiterId = some 1 ∧ (request 6 true).wait = true ∧ (oneSlot { kind := 2, value := 5 }).waiterId = some 0 ∧
      ((oneSlot { kind := 2, value := 5 }).slot 10).value < (request 6 true).operand) ∧
    (eave.Serving ∧ eave.isEave = true ∧ eave.tapEn 2 = false ∧ eave.tapEn 1 = true ∧ eave.tapRuns 1 = true ∧ (request 0).bar = false ∧
      eave.odOn = true ∧ (request 0).remote = false ∧ (request 0).fence = false ∧ eave.tapHeld 1 = false ∧ eave.translate (request 0).handle = .fail ∧
      ({ eave with regs := [(0xB000, 1), (0xB008, 3)] } : State).odOn = false) :=
  ⟨⟨obj_to _ _ _ ⟨rfl, rfl⟩ (by decide +kernel), by decide +kernel⟩, by decide +kernel, eave_serving, by decide +kernel⟩

/-- A fenced SIGNAL of tap 1, tag 7, on slot 10. -/
def fenced0 : Fenced := { op := 4, req := { request 5 with fence := true, ftag := 7 }, tick := 0, course := 0 }
/-- A semaphore with a fenced request and a remote one. -/
def fencing : State :=
  { oneSlot { kind := 2 } with
    od := { (oneSlot { kind := 2 }).od with fenced := [fenced0], remote := [{ tap := 1, rtag := 255, ctx := 1, tick := 700 }] }
    clk := { course := 1025, ticks := 1025 } }

/-- A waiter that may be lent, with a deadline. -/
def lender (dl : Nat) : Waiter := { waiter0 with lend := true, deadline := some dl }
/-- The object store with a waiter to lend and lending enabled, at its deadline. -/
def lending (dl : Nat) : State :=
  { waits [lender dl] with regs := [(0x6000, 1), (0xB000, 1), (0xB008, 3), (0xD000, 0x4007)] }

theorem witness_ObjectProtocols_engine :
    (fencing.up = true ∧ fencing.tapEn 1 = true ∧ fencing.odOn = true ∧
      ({ fencing with od := { fencing.od with boards := [(fenceKey 1 7, true)] } } : State).od.boards.get false (fenceKey 1 7) = true ∧
      fencing.od.boards.get false (fenceKey 1 255) = false ∧ (∀ f ∈ fencing.od.fenced, fenceKey f.req.tap f.req.ftag ≠ fenceKey 1 255)) ∧
    (fencing.od.fenced = [] ++ fenced0 :: [] ∧ fenceKey fenced0.req.tap fenced0.req.ftag = fenceKey 1 7 ∧ fencing.tapHeld 1 = false ∧
      fencing.Rests fenced0.req.handle 10 ∧ fenced0.op ≠ 9 ∧ fenced0.req.wait = false ∧ fenced0.req.bar = false) ∧
    (({ eave with od := { stopped := true } } : State).odRuns = false ∧ fencing.odRuns = true ∧ (lending 1065).odRuns = true) ∧
    (let r := { request 5 true with dl := 9 }
     let s := { fencing with od := { fencing.od with fenced := [{ op := 4, req := { r with fence := true }, tick := 0, course := 0 }], tapQ := [], reads := [⟨0x10005, .engine 5 r 0⟩] } }
     s.td.acq = true ∧ s.od.lends = [] ∧ s.od.tapQ = [] ∧ (∀ f ∈ s.od.fenced, f.req.overdue f.course s.clk.course = true) ∧ r.overdue 0 s.clk.course = true ∧ r.bar = false) ∧
    (∀ f ∈ fencing.od.fenced, f.tick + max 1 (fencing.rd OD_FENCE_TMO) < fencing.clk.ticks + 1 ∧ f.req.bar = false) ∧
    (∀ f ∈ fencing.od.remote, f.tick + max 1 (fencing.rd OD_RMT_TMO) < fencing.clk.ticks + 1) ∧
    (fencing.od.lends = [] ∧ (let s := waits [{ waiter0 with deadline := some 1000 }]
      ∀ w ∈ s.od.waiters, w.deadline = some 1000 ∧ 1000 ≤ s.clk.course)) ∧
    (((lending 1065).od.waiters.filter fun w => w.lend ∧ w.tick < (lending 1065).clk.ticks + 1) = [lender 1065] ∧
      (lending 1065).returnCourse (lender 1065) 1001 1001 = some 1065 ∧ (lending 1065).bit OD_CTL 2 = true ∧
      (lending 1065).clk.course + 1 + (lending 1065).fl OD_LEND 16 16 ≤ 1065 ∧ (lending 1064).returnCourse (lender 1064) 1001 1001 = some 1064 ∧
      1064 < (lending 1064).clk.course + 1 + (lending 1064).fl OD_LEND 16 16) := by
  refine ⟨by decide +kernel, ⟨rfl, by decide +kernel, by decide +kernel, ⟨by decide +kernel, by decide +kernel, by decide +kernel⟩, by decide, rfl, rfl⟩,
    by decide +kernel, by decide +kernel, by decide +kernel, by decide +kernel, by decide +kernel, by decide +kernel⟩

/-- A lend of waiter 0 at tap 1, and the state that holds it. -/
def lent (ret : Nat) (early : Bool) (rsp : Option (Nat × Nat × Nat × Nat) := none) : State :=
  { objects with od := { objects.od with lends := [{ id := 0, tap := 1, ctx := 1, ret := ret, early := early, rsp := rsp }] } }
/-- A lend whose tap has an arm before the return course. -/
def lentArmed : State :=
  { lent 2000 false with bt := { taps := [(1, { st := .track, armed := [{ line := 0, target := 1010 * courseUnits, n := 0, tol := 0 }] })] } }

/-- A translation read outstanding on the memory port. -/
def transRead (who : TransFor) : State :=
  { objects with
    mm := { reads := [{ id := 31, use := .trans 0x10005, addr := 0, beats := 1, tick := 0 }] }
    od := { objects.od with reads := [⟨0x10005, who⟩] } }
/-- The entry of local number 5: the valid bit and slot 11. -/
def entry5 : List Nat := [0, 0, 0, 0, 11, 0, 0, 0x80, 0, 0, 0, 0, 0, 0, 0, 0]

theorem witness_ObjectProtocols_lends : (∀ l ∈ (lent 1017 false).od.lends, l.early = false ∧ l.ret ≤ 1000 + 1 + (lent 1017 false).fl OD_LEND 0 16) ∧
    (∀ l ∈ lentArmed.od.lends, l.early = false ∧ 1017 < l.ret ∧ ∃ c ∈ lentArmed.tapTargets l.tap, c < l.ret ∧ c ≤ 1017) ∧
    (∀ l ∈ (lent 2000 false).od.lends, 1017 < l.ret ∧ ∀ c ∈ (lent 2000 false).tapTargets l.tap, l.ret ≤ c ∨ 1017 < c) ∧
    ((lent 2000 true).od.lends.find? (fun l => l.id = 0 ∧ l.early)).isSome = true ∧
    ((lent 2000 true (some (1, 2, 0, 7))).od.lends.find? (fun l => l.id = 0 ∧ l.early)).map (·.rsp) = some (some (1, 2, 0, 7)) ∧
    (let s : State := { waits [waiter0] with
       regs := [(0xB000, 1), (0xB008, 3), (0xD000, 0x4003), (0xD008, 16)]
       od := { (waits [waiter0]).od with ctxs := [(1, { st := .active, segs := [(10, 2)], blocked := some 985 })] } }
     s.up = true ∧ s.odOn = true ∧ s.bit OD_CTL 1 = true ∧ s.od.dlk = false ∧ s.ctxBlocked 1 = true ∧ (s.ctx 1).blocked = some 985 ∧
     (s.ctx 1).reported = false ∧ 985 + s.dlkWin ≤ s.clk.ticks + 1) := by decide +kernel

theorem witness_ObjectProtocols_reads :
    (∀ w ∈ [TransFor.program, .engine 4 { request 1 with handle := 0x10005 } 0], let s := transRead w
      (∃ q, s.mm.reads = [q] ∧ q.id = 31 ∧ q.use = .trans 0x10005 ∧
        ofLe (((q.got ++ entry5).drop (0x10005 * 4 % 16)).take 4) = 2 ^ 31 + 11) ∧ s.mm.waitR = [] ∧ s.mm.waitW = [] ∧ s.cp.run = [] ∧
      s.od.tapQ = [] ∧ s.od.reads = [⟨0x10005, w⟩] ∧ bitOf (2 ^ 31 + 11) 31 = true ∧ (2 ^ 31 + 11) % 65536 = 11 ∧ (s.slot 11).ctx = hCtx 0x10005 ∧
      (s.ctx (hCtx 0x10005)).st ≠ .undef ∧ (s.slot 11).gen = (s.ctx (hCtx 0x10005)).gen ∧ (∀ c ∈ s.od.cache, c.1 ≠ 0x10005) ∧
      (∀ x ∈ s.od.waiters, x.slot ≠ 11) ∧ min 255 (s.hf.score + 1) < s.retireThr) ∧
    (∀ q ∈ eave.mm.reads, q.id = 31 → ∀ key, q.use ≠ .trans key) := by
  refine ⟨?_, by intro q hq; cases hq⟩
  intro w hw
  simp only [List.mem_cons, List.not_mem_nil, or_false] at hw
  rcases hw with rfl | rfl <;> exact ⟨⟨_, rfl, by decide +kernel⟩, by decide +kernel⟩

theorem witness_ObjectProtocols_frames :
    (let r := objects.rxZudar nowHead kObjReq
     r.ok = true ∧ r.s.isRidge = false ∧ r.s.ties.idNum = 5 ∧ r.s.odOn = true ∧ remoteOp 4 = true ∧ remoteOp 2 = false ∧ (r.s.ctx 1).clear ≤ r.course ∧
     r.s.translate 0x10001 = .slot 11 ∧ r.s.translate 0x10009 = .fail ∧ (r.s.slot 11).gen = (r.s.ctx 1).gen ∧ ∀ w ∈ r.s.od.waiters, w.slot ≠ 11) ∧
    ((eave.rxZudar head kObjReq).ok = true ∧ (ridge.rxZudar nowHead kObjReq).ok = true ∧ (ridge.rxZudar nowHead kObjReq).s.isRidge = true) ∧
    (ridge.portList.find? (fun p => decide ((ridge.port p).role = .child) && decide ((ridge.port p).rangeLo ≤ 0) && decide (0 ≤ (ridge.port p).rangeHi)) =
      some 1 ∧ (∀ p ∈ ridge.portList, (ridge.port p).role = .child → 5 < (ridge.port p).rangeLo ∨ (ridge.port p).rangeHi < 5) ∧
      rootRidge.isRoot = true) ∧
    (let r := fencing.rxZudar { head with course := 1025 } kObjRsp
     r.ok = true ∧ r.s.isRidge = false ∧ r.s.od.remote = [] ++ { tap := 1, rtag := 255, ctx := 1, tick := 700 } :: [] ∧ 1 = (1024 + 255) / 1024 ∧
     255 = (1024 + 255) % 256) ∧ (objects.rxZudar nowHead kObjRsp).s.od.remote = [] := by decide +kernel

/-! ### Witnesses: collectives and the gang -/

/-- The class identity 0x14 of a collective. -/
def par0 : CollParams := { cid := 0x14, isn := 0, op := 1, fmt := 0, rfmt := 0, lanes := 1, group := 3 }
/-- A partial of one lane. -/
def up0 : CollUp := { par := par0, attempt := 0, count := 1, data := .partial_ [{ a := 5 }] }
/-- A vote. -/
def vote0 : CollUp := { par := { par0 with op := 7 }, attempt := 0, count := 1, data := .vote { step := 1, digest := 2, count := 1 } }
/-- The counter that port 1's partial leaves. -/
def ctr0 : TreeCtr := { par := par0, attempt := 0, ports := [1], count := 1, lanes := [{ a := 5 }], slot := true }
/-- A group of two children. -/
def twoChildren : Group := { ports := [0, 1], m := 2 }
/-- A ridge with two children in group 3 and counters. -/
def tree (root : Bool) (cs : List TreeCtr) : State :=
  { ridge with
    root := root
    ports := [(0, childPort), (1, childPort), (2, upPort)]
    regs := [(0x6000, 1), (0x7000, 1), (0x10000, 5), (0x10400, 5), (0x10800, 5)]
    ce := { ctrs := cs, groups := [(3, some twoChildren)] } }
/-- The state in which the engine takes a frame from port 0. -/
def engine (s : State) (k : RxKind) : State := (s.rxZudar nowHead k).s.openGate 3
/-- The engine takes it. -/
def engaged (s : State) (k : RxKind) : Bool := (s.rxZudar nowHead k).ok && (s.rxZudar nowHead k).s.ceOn

/-- The pipeline's view of the partial. -/
def kUp : RxKind := kColl 0x40 (Body.collUp up0).msgLen false

theorem witness_CollectiveFrames_ups :
    (eave.up = true ∧ nowHead.port < eave.nPorts ∧ (eave.rxZudar head (kColl 0x42 44 true)).ok = true ∧
      (eave.rxZudar { head with ver := 1 } (kColl 0x42 44 true)).ok = false) ∧
    (engaged eave kUp = true ∧ (engine eave kUp).isRidge = false) ∧
    (let s := tree false [ctr0]
     let z := engine s kUp
     engaged s kUp = true ∧ z.isRidge = true ∧ (z.port 0).role = .child ∧ z.ctr 0x14 0 0 = some ctr0 ∧ z.group ctr0.par.group = some twoChildren ∧
     0 ∈ twoChildren.ports ∧ 2 ∉ twoChildren.ports ∧ sameParams ctr0.par up0.par = true ∧ sameParams ctr0.par { up0.par with lanes := 2 } = false ∧ 0 ∉ ctr0.ports ∧
     (∀ p ∈ twoChildren.ports, p ∈ ctr0.ports ++ [0]) ∧ z.isRoot = false ∧ z.homeUplink = some 2) ∧
    (let z := engine (tree true [{ ctr0 with ports := [0] }]) kUp
     z.isRoot = true ∧ z.ctr 0x14 0 0 = some { ctr0 with ports := [0] } ∧ 0 ∈ ({ ctr0 with ports := [0] } : TreeCtr).ports) ∧
    (let z := engine (tree false []) kUp
     z.ctr 0x14 0 0 = none ∧ z.group up0.par.group = some twoChildren ∧ z.isRoot = false ∧ z.ce.ctrs.length < 262144 ∧ z.slotsUsed < 4096 ∧
     (∃ p ∈ twoChildren.ports, p ≠ 0)) ∧
    (let s := { tree true [] with ce := { (tree true []).ce with closed := [(0x14, 0, 9)] } }
     (engine s kUp).isRoot = true ∧ (engine s kUp).isClosed 0x14 0 = true) := by decide +kernel

/-- A ridge whose reduction slots are all used. -/
def slotsFull : State := tree false (List.replicate 4096 { ctr0 with par := { par0 with isn := 9 } })

theorem witness_CollectiveFrames_full : (engine slotsFull kUp).ctr 0x14 0 0 = none ∧ up0.par.lanes ≠ 0 ∧ 4096 ≤ (engine slotsFull kUp).slotsUsed := by
  decide +kernel

/-- An instance of the sum at an eave. -/
def inst0 : Inst := { isn := 0, data := .partial_ [{ a := 5 }] }
/-- Its handle. -/
def sum0 : Handle := { cid := 0x14, group := 3, dom := .a, op := 1, fmt := 0, rfmt := 0, lanes := 1, move := true, sat := false, isn := 1, insts := [inst0] }
/-- The eave in the collective. -/
def member (hd : Handle) : State := { eave with ce := { handles := [(1023, some hd)] } }
/-- A result. -/
def down0 (phase : Nat) : CollDown := { par := par0, attempt := 0, phase := phase, count := 2, results := [10] }
/-- The pipeline's view of the result. -/
def kDown : RxKind := kColl 0x41 (Body.collDown (down0 0)).msgLen false
/-- The pipeline's view of moves and aborts. -/
def kMove : RxKind := kColl 0x42 44 true
/-- See kMove. -/
def kAbort : RxKind := kColl 0x43 44 true
/-- See kMove. -/
def kReq : RxKind := kColl 0x44 52 true

theorem witness_CollectiveFrames_eave :
    (engaged eave kDown = true ∧ (engine eave kDown).isEave = true ∧ (engine eave kDown).handleOf 0x14 = none) ∧
    (let z := engine (member sum0) kDown
     z.handleOf 0x14 = some (1023, sum0) ∧ sum0.inst 0 = some inst0 ∧ inst0.out = none ∧ inst0.attempt ≤ (down0 0).attempt ∧ (down0 1).phase ≠ 0) ∧
    (let hd := { sum0 with insts := [{ inst0 with attempt := 1, out := some { reason := 0 } }] }
     (engine (member hd) kDown).handleOf 0x14 = some (1023, hd) ∧ hd.inst 0 = some { inst0 with attempt := 1, out := some { reason := 0 } } ∧ 0 < 1) ∧
    (let hd := { sum0 with op := 7, insts := [{ inst0 with data := .vote { step := 0, digest := 10, count := 1 } }] }
     (engine (member hd) kDown).handleOf 0x14 = some (1023, hd)) ∧
    (let z := engine (member sum0) kMove
     engaged (member sum0) kMove = true ∧ z.handleOf 0x14 = some (1023, sum0) ∧ inst0.attempt < 1 ∧ inst0.mism = false ∧ z.gang.inGang = false ∧
     z.rafter (sum0.domOf 1) = some 1 ∧ (∀ w ∈ z.ce.gangWait, ¬ (w.2.par.cid = sum0.cid ∧ w.2.par.isn = inst0.isn)) ∧ sum0.inst 1 = none ∧ sum0.isn ≤ 1) ∧
    (engaged (member sum0) kAbort = true ∧ (engine (member sum0) kAbort).handleOf 0x14 = some (1023, sum0)) := by decide +kernel

/-- A ridge with its home uplink at port 0. -/
def middle : State := { ridge with ce := { groups := [(3, some twoChildren)], ctrs := [ctr0] } }

theorem witness_CollectiveFrames_ridge :
    (engaged middle kDown = true ∧ (engine middle kDown).isEave = false ∧ (engine middle kDown).isRoot = false ∧
      ((engine middle kDown).port 0).role = .homeUp ∧ ((engine (tree true []) kDown).port 0).role ≠ .homeUp ∧
      (((engine middle kDown).xsendAll ((engine middle kDown).groupPorts 3) (.collDown (down0 1))).ctr 0x14 0 0) = some ctr0) ∧
    ((engine middle kMove).isEave = false ∧ (engine middle kMove).fromAbove 0 = true ∧ (engine (tree false []) kMove).fromAbove 0 = false ∧
      (engine middle kMove).ce.moves = []) ∧
    (engaged middle kAbort = true ∧ (engine middle kAbort).fromAbove 0 = true) ∧
    (engaged middle kReq = true ∧ (engine middle kReq).isRidge = true ∧ (engine middle kReq).isAuthority .a = false ∧
      (engine middle kReq).reqPort .a = some 0 ∧ (engine eave kReq).isRidge = false ∧
      (engine { middle with ports := [(0, childPort)] } kReq).reqPort .a = none) ∧
    ((engine (tree true []) kReq).isRidge = true ∧ (engine (tree true []) kReq).isAuthority .a = true ∧ (engine (tree true []) kReq).isClosed 0x14 0 = false ∧
      (engine (tree true []) kReq).ce.moves = [] ∧ (collMove 0x14 = true ∨ collMove 0x14 = false)) ∧
    (∀ c ∈ [1, 2], ({ ctr0 with count := c } : TreeCtr).count = twoChildren.m ∨ ({ ctr0 with count := c } : TreeCtr).count ≠ twoChildren.m) ∧
    (let c : TreeCtr := { ctr0 with par := { par0 with op := 7 }, count := 2, ballot := { step := 1, digest := 9, count := 1 } }
     c.count = twoChildren.m ∧ c.par.op = 7 ∧ 2 * c.ballot.count ≤ twoChildren.m ∧ twoChildren.m < 2 * 2) :=
  ⟨by decide +kernel, by decide +kernel, by decide +kernel, by decide +kernel,
    ⟨by decide +kernel, by decide +kernel, by decide +kernel, by decide +kernel, by cases collMove 0x14 <;> simp⟩,
    by decide +kernel, by decide +kernel⟩

/-- Three members of a gang led by position 0. -/
def gang3 (cal : Bool) : Gang := { inGang := true, calibrated := cal, members := [0, 1, 2], leader := 0 }
/-- A member at a position. -/
def ganged (pos : Nat) (cal : Bool) : State := { eave with ties := { eave.ties with gangPos := pos }, gang := gang3 cal }
/-- Late in the life of a block. -/
def late (s : State) : State := { s with clk := { course := 2 ^ 23, ticks := 2 ^ 23 } }

theorem witness_CollectiveTimersAndGang_timers :
    (eave.up = true ∧ eave.ce.ctrs.filter (fun c => c.tick + eave.ceTmo CE_ORPHAN ≤ eave.clk.ticks + 1) = [] ∧
      (late (tree false [ctr0])).ce.ctrs.filter (fun c => c.tick + (late (tree false [ctr0])).ceTmo CE_ORPHAN ≤ (late (tree false [ctr0])).clk.ticks + 1) = [ctr0]) ∧
    (eave.ce.moves = [] ∧
      (let x : MoveRec := { m := { cid := 0x14, isn := 0, attempt := 1, dom := .a }, group := none, own := true, tick := 0, ports := [] }
       let s := late { rootRidge with ce := { moves := [x] } }
       (s.ce.moves.filter fun r => r.own && decide (r.tick + s.ceTmo CE_MOVE_TMO ≤ s.clk.ticks + 1)) = [x])) ∧
    eave.ce.handles = [] ∧
    ((member sum0).ce.handles = [(1023, some sum0)] ∧ sum0.insts = [inst0] ∧ inst0.out = none ∧ (member sum0).sq.votes = [] ∧
      (member sum0).clk.ticks + 1 < inst0.tick + (member sum0).ceTmo CE_ISO_TMO ∧
      inst0.tick + (late (member sum0)).ceTmo CE_ISO_TMO ≤ (late (member sum0)).clk.ticks + 1) ∧
    (inst0.deadline = none ∧ (let i := { inst0 with deadline := some 1000 }
      (member { sum0 with insts := [i] }).ce.handles = [(1023, some { sum0 with insts := [i] })] ∧ i.asked = false ∧ i.deadline = some 1000 ∧
      1000 ≤ (member { sum0 with insts := [i] }).clk.course)) ∧
    (let i := { inst0 with out := some { reason := 0 } }
     (member { sum0 with insts := [i] }).ce.handles = [(1023, some { sum0 with insts := [i] })] ∧ sum0.doneObj = none) := by decide +kernel

theorem witness_CollectiveTimersAndGang_gang :
    (eave.gang.inGang = false ∧ (ganged 0 true).gang.inGang = true ∧ (ganged 0 true).gang.leader = (ganged 0 true).ties.gangPos ∧
      1 ≠ (ganged 0 true).ties.gangPos ∧ 1 ∈ (ganged 0 true).gang.members ∧ 7 ∉ (ganged 0 true).gang.members ∧ (ganged 0 true).sq.st ≠ .running ∧
      ({ running with gang := gang3 true } : State).sq.st = .running ∧ ({ running with gang := gang3 true } : State).sq.gangVotes = []) ∧
    ((ganged 0 true).ceOn = true ∧ (ganged 0 true).underlay = false ∧ ({ ganged 0 true with regs := [] } : State).ceOn = false) ∧
    (let s := { member sum0 with gang := gang3 true }
     let z := s.busy.openGate 3
     let w := { z with ce := { z.ce with gangWait := z.ce.gangWait ++ [(1, up0)] } }
     w.handleOf 0x14 = some (1023, sum0) ∧ sum0.inst 0 = some inst0 ∧ inst0.mism = false ∧
     (∃ q ∈ s.gang.members, q ≠ s.ties.gangPos ∧ ∀ x ∈ w.ce.gangWait, ¬ (x.1 = q ∧ x.2.par.cid = sum0.cid ∧ x.2.par.isn = inst0.isn))) ∧
    (let s := { member sum0 with gang := { gang3 true with members := [0, 1] } }
     let z := s.busy.openGate 3
     let w := { z with ce := { z.ce with gangWait := z.ce.gangWait ++ [(1, up0)] } }
     (∀ q ∈ s.gang.members, q = s.ties.gangPos ∨ ∃ x ∈ w.ce.gangWait, x.1 = q ∧ x.2.par.cid = sum0.cid ∧ x.2.par.isn = inst0.isn) ∧
     w.rafter (sum0.domOf inst0.attempt) = some 0) ∧
    ((ganged 1 false).gang.calibrated = false ∧ (ganged 1 true).gang.calibrated = true) ∧
    (2 ∈ (ganged 1 true).gang.members ∧ 2 ≠ (ganged 1 true).gang.leader ∧ 2 ≠ (ganged 1 true).ties.gangPos ∧ (ganged 1 false).ties.gangPos = 1) ∧
    ([2, 7].filter (fun m => m ∈ (ganged 1 true).gang.members ∧ m ∉ (ganged 1 true).gang.lost) = [2] ∧
      [7].filter (fun m => m ∈ (ganged 1 true).gang.members ∧ m ∉ (ganged 1 true).gang.lost) = []) := by decide +kernel

/-! ### Witnesses: health, Underlay mode and power -/

theorem canon_of (s : State) (h : (s.cnt.wf 0 && s.regs.sorted && s.ports.wf {} && s.od.slots.wf {} && s.sq.store.wf 0 && s.cp.mem.wf 0 &&
    decide (s.clk.cyc ≤ 624) && decide (s.td.steps ≤ 255) && decide (s.cp.credits ≤ 16)) = true) : s.Canon := by
  simp only [Bool.and_eq_true, decide_eq_true_eq] at h
  exact ⟨h.1.1.1.1.1.1.1.1, h.1.1.1.1.1.1.1.2, h.1.1.1.1.1.1.2, h.1.1.1.1.1.2, h.1.1.1.1.2, h.1.1.1.2, h.1.1.2, h.1.2, h.2⟩

theorem witness_ScoresHalveAtTheDecayBoundary : (eave.up = true ∧ eave.Canon ∧ (eave.clk.course + 1) % 2 ^ 20 ≠ 0) ∧
    (let s : State := { eave with clk := { course := 2 ^ 20 - 1, ticks := 5 } }
     s.Canon ∧ (s.clk.course + 1) % 2 ^ (if 16 ≤ s.fl HF_SCORE 16 5 ∧ s.fl HF_SCORE 16 5 ≤ 30 then s.fl HF_SCORE 16 5 else 20) = 0 ∧ s.did.decay = false) :=
  ⟨⟨rfl, canon_of _ (by decide +kernel), by decide⟩, canon_of _ (by decide +kernel), by decide +kernel⟩

/-- A port in admission. -/
def admitting : Port := { upPort with health := .admitting, kaStatus := 0xC0, kaTick := some 992, admitAt := some 0 }

theorem witness_HealthAndUnderlayRows_ports : (eave.up = true ∧ (eave.port 0).health ≠ .admitting) ∧
    (let s := withPort eave 0 admitting
     (s.port 0).health = .admitting ∧ (s.port 0).lossDecl = false ∧ (s.port 0).mismatch = false ∧ s.clk.ticks + 1 ≤ 992 + 9 ∧ bitOf (s.port 0).kaStatus 7 = true ∧
     bitOf (s.port 0).kaStatus 6 = true ∧ s.clk.ticks + 1 ≤ 0 + max 1024 (s.rd HF_ADMIT)) ∧
    (let s := { withPort eave 0 { admitting with kaTick := some 131072 } with clk := { course := 131072, ticks := 131072 } }
     0 + max 1024 (s.rd HF_ADMIT) < s.clk.ticks + 1 ∧ s.clk.ticks + 1 ≤ 131072 + 9) ∧
    (let s := withPort eave 0 { admitting with kaTick := none }
     (s.port 0).health = .admitting ∧ (s.port 0).kaTick = none) ∧
    (eave.isEave = true ∧ eave.tapEn 1 = true ∧ (1 : Nat) ≤ 1 ∧ 5 ≤ 5 ∧ 5 < 6) ∧
    ((tree false [ctr0]).isRidge = true ∧ (tree false [ctr0]).ctr 0x14 0 0 = some ctr0 ∧ ridge.ctr 0x14 0 0 = none) ∧
    ((member sum0).handle 1023 = some sum0 ∧ sum0.inst 0 = some inst0) ∧
    (let s := transRead .program
     ∃ q, s.mm.reads.find? (fun q => q.id = 31) = some q ∧ q.use = .trans 0x10005) ∧
    (let s := withPort eave 0 { upPort with fifo := [record7], rpl := { attempt := some 0 } }
     (s.port 0).fifo = [] ++ [record7] ∧ (s.port 0).rpl.attempt ≠ none) ∧ (eave.port 0).rpl.attempt = none :=
  ⟨by decide +kernel, by decide +kernel, by decide +kernel, by decide +kernel, by decide +kernel, by decide +kernel, by decide +kernel,
    ⟨_, rfl, rfl⟩, by decide +kernel, by decide +kernel⟩

/-- More cases of the collective frames: matches, reports, a follower, and the store. -/
theorem witness_CollectiveFrames_more :
    (let c : TreeCtr := { ctr0 with par := { par0 with op := 7 }, ports2 := [1], match2 := some { step := 1, digest := 2, count := 1 } }
     let z := engine (tree false [c]) kUp
     z.ctr 0x14 0 0 = some c ∧ z.group c.par.group = some twoChildren ∧ 0 ∈ twoChildren.ports ∧ 0 ∉ c.ports2 ∧ 1 ∈ c.ports2 ∧ sameParams c.par vote0.par = true ∧
     (c.match2.getD { step := 1, digest := 2, count := 1 }).sameKey { step := 1, digest := 2, count := 1 } = true ∧
     (c.match2.getD { step := 1, digest := 3, count := 1 }).sameKey { step := 1, digest := 3, count := 1 } = false ∧ (engine (tree false []) kUp).ctr 0x14 0 0 = none) ∧
    (let z := engine (tree true []) kUp
     z.isRoot = true ∧ z.follower = false ∧ z.isClosed 0x14 0 = false) ∧
    (let s := { tree false [ctr0] with gang := gang3 true, ties := { (tree false []).ties with gangPos := 1 } }
     let z := engine s kUp
     z.follower = true ∧ z.gangSrcs = [] ∧ (∀ p ∈ twoChildren.ports ++ z.gangSrcs, p ∈ ctr0.ports ++ [0]) ∧ z.ctr 0x14 0 0 = some ctr0) ∧
    ((engine { tree false [ctr0] with ports := [(0, childPort), (1, childPort)] } kUp).homeUplink = none ∧
      (let z := engine (tree false []) kUp
       z.gangSrcs = [] ∧ z.storeUsed [] + z.storeReserved + (newCtr up0).reserve ≤ z.storeSize)) ∧
    (let hd := { sum0 with op := 7, insts := [{ inst0 with data := .vote { step := 0, digest := 10, count := 1 } }] }
     let z := engine (member hd) kDown
     hd.inst 0 = some { inst0 with data := .vote { step := 0, digest := 10, count := 1 } } ∧ z.follower = false ∧ serialRebuild z.sq.step 0 = some 0 ∧
     serialRebuild z.sq.step (2 ^ 31) = none) ∧
    ((engine { middle with gang := gang3 true, ties := { ridge.ties with gangPos := 1 } } kReq).follower = true) := by decide +kernel

theorem witness_CollectiveTimersAndGang_members :
    (let s := ganged 1 true
     s.gang.inGang = true ∧ s.gang.leader ≠ s.ties.gangPos ∧ 0 = s.gang.leader ∧ 0 ∈ s.gang.members ∧ s.follower = true ∧ 2 ≠ s.gang.leader) ∧
    inst0.gathered = false ∧ ({ inst0 with gathered := true } : Inst).gathered = true ∧
    (let s := late (ganged 1 false)
     1024 ≤ s.clk.ticks ∧ 2 ∈ s.gang.members ∧ 2 ≠ s.gang.leader ∧ s.gang.calibrated = false) ∧ eave.clk.ticks < 1024 ∧
    ({ running with gang := gang3 true, ties := { running.ties with gangPos := 1 } } : State).sq.st = .running ∧
    ({ tree false [] with gang := gang3 true } : State).isEave = false := by decide +kernel

theorem witness_HealthAndUnderlayRows_slots : (eave.up = true ∧ eave.isEave = true ∧ (∀ f ∈ eave.od.tapQ, f.req.tap ≠ (request 5).tap) ∧ (request 5).bar = false) :=
  ⟨rfl, rfl, (by intro f hf; cases hf), rfl⟩

theorem witness_HealthAndUnderlayRows_underlay : (eave.hf.active = false ∧ eave.hf.pend = false ∧ eave.isEave = true ∧ eave.ce.handles = [] ∧
      ridge.isEave = false ∧ ({ eave with hf := { active := true } } : State).hf.active = true) ∧ eave.Serving ∧
    (eave.hf.wdog = none ∧ (let s : State := { eave with hf := { wdog := some 65535 } }
      s.rd HF_WDOG_CFG ≠ 0 ∧ s.pw.st = .active ∧ s.rd HF_WDOG_CFG ≤ 65535 + 1)) ∧
    (eave.cp.fw = .running ∧ ({ eave with cp := {} } : State).cp.fw ≠ .running) ∧
    (let s : State := { eave with hf := { active := true, kicked := true } }
     s.hf.active = true ∧ s.ck.lLock = true ∧ s.hf.kicked = true) ∧
    (let s : State := { running with hf := { pend := true } }
     s.up = true ∧ s.hf.pend = true ∧ s.sq.st = .running) ∧
    (let s : State := { eave with hf := { active := true, exitAcc := true } }
     s.hf.active = true ∧ s.hf.exitAcc = true ∧ s.hf.newCause = false) :=
  ⟨by decide, eave_serving, by decide +kernel, by decide, by decide, by decide, by decide⟩

/-- An eave that may sleep: its selected domain is locked and a request of power.enter waits. -/
def sleepy (st : Nat) : State :=
  { calibrated eave with
    td := { eave.td with dom := { a := { st := .track, locked := true }, b := {} } }, pw := { req := st, reqIdle := true } }
/-- A state in a power state. -/
def asleepIn (st : PowerState) : State := { eave with pw := { st := st, planned := some 1001 }, regs := [(0x9018, 7)] }

theorem witness_PowerRows_entry : (eave.up = true ∧ ({ eave with did := { power := true } } : State).did.power = true) ∧
    ((ganged 1 true).did.power = false ∧ (ganged 1 true).follower = true) ∧
    ((sleepy 2).did.power = false ∧ (sleepy 2).follower = false ∧ (sleepy 2).attemptDue 2 = true ∧ (sleepy 2).refusers true 1001 false = []) ∧
    ((sleepy 1).attemptDue 2 = false ∧ (sleepy 1).pw.st = .active ∧ (sleepy 1).attemptDue 1 = true ∧ (sleepy 1).refusers false 1001 false = [] ∧
      (sleepy 1).refusers false 1001 true = [0x0A] ∧ (sleepy 2).refusers true 1001 true = [0x0A] ∧ (sleepy 2).attemptDue 1 = false) ∧
    (eave.attemptDue 2 = false ∧ eave.attemptDue 1 = false) := by decide +kernel

theorem witness_PowerRows_wakes : (eave.pw.st ≠ .nap ∧ (asleepIn .nap).up = true ∧ (asleepIn .nap).pw.st = .nap) ∧
    (eave.asleep = false ∧ (asleepIn .thatch).ck.phase = .running ∧ (asleepIn .thatch).pw.st = .thatch ∧ (asleepIn .waking).pw.st = .waking) ∧
    ((asleepIn .nap).pw.planned = some 1001 ∧ 1001 ≤ (asleepIn .nap).clk.course + 1) ∧
    ((asleepIn .thatch).rd PW_THATCH_WAKE ≠ 0 ∧ ({ asleepIn .thatch with regs := [] } : State).rd PW_THATCH_WAKE = 0) ∧
    (let s := asleepIn .waking
     s.ck.tLock = true ∧ s.ck.lLock = true ∧ s.pw.loaded = false ∧ s.canRebuild (2 ^ 40 - 1) = true ∧ s.canRebuild (2 ^ 40) = false) := by decide +kernel

/-! ### Well-formedness: a command at the bounds of its fields, and one past each bound -/

/-- A fit edge, time and head. -/
def edge0 : Edge := { cyc := 624, code := 4095 }
/-- A head at the bounds. -/
def headMax : RxHead := { port := 511, mark := 15, cyc := 624, ver := 255, len := 65535, lseq := 255, lack := 255, seq := 65535, srcId := 2 ^ 24 - 1, srcPort := 65535, course := 2 ^ 32 - 1 }
/-- A 1588 head at the bounds. -/
def ptpMax : PtpHead := { port := 511, mark := 15, cyc := 624, sdo := 15, ver := 15, len := 65535, domNum := 255, srcClock := 2 ^ 64 - 1, srcPort := 65535, seq := 65535 }

/-- A request at the bounds. -/
def reqMax : CollReq :=
  { rtype := 255, reason := 255, dom := .a, attempt := 3, cid := 2 ^ 32 - 1, isn := 2 ^ 32 - 1, port := 4095, lo := 2 ^ 20 - 1, hi := 2 ^ 20 - 1, originId := 2 ^ 24 - 1, onset := 2 ^ 32 - 1 }

theorem test_wf_bounds : (∀ i ∈ [Instr.receiveMark 511 15 edge0 0, .keepaliveReceive headMax { sec := 2 ^ 48 - 1, ns := 2 ^ 32 - 1, frac := 65535 } 255 (2 ^ 32 - 1),
    .delayReqReceive ptpMax, .add { d := 15, a := 15, b := 15, x := 2 ^ 44 - 1 }, .hostRequest { addr := 2 ^ 24 - 1, write := true, wide := true, data := 2 ^ 64 - 1 } true,
    .pinEdge 31 false edge0, .collReqReceive headMax reqMax], i.wf = true) := by decide

theorem test_wf_widths : (Instr.pllLock .timing 65536 true).wf = false ∧ (Instr.ovenUseWrite (2 ^ 32)).wf = false ∧ (Instr.gateClose 16).wf = false ∧
    (Instr.txInsLate 512).wf = false ∧ (Instr.shotWindowClose 625).wf = false ∧ (Instr.programStoreWrite 16384 0).wf = false ∧
    (Instr.programStoreWrite 0 (2 ^ 64)).wf = false ∧ (Instr.profileWrite (2 ^ 24) 0).wf = false ∧ (Instr.commandHandover 32 0).wf = false ∧
    (Instr.timeRebuild 0 4096 0 true).wf = false ∧ (Instr.napWake 8 0).wf = false ∧ (Instr.thatchWake 0 64).wf = false ∧
    (Instr.retAck 4096).wf = false ∧ (Instr.translationReadDone 32 [] false).wf = false ∧ (Instr.memoryReadResponse 0 [256] false).wf = false ∧
    (Instr.sbRegisterRead 0 16).wf = false ∧ (Instr.sbCommandRequest [2 ^ 32]).wf = false ∧ (Instr.converterCalReady [] (some [2048])).wf = false ∧ (Instr.converterCalReady [⟨2048, 65536, 4096, 0⟩] none).wf = false ∧
    (Instr.rampCalibration [⟨0, 65536, 4097, 0⟩] 0).wf = false ∧
    (Instr.padMeasurement [(64, 0)]).wf = false ∧ (Instr.padMeasurement [(0, 2 ^ 32)]).wf = false ∧ (Instr.gangLinkFail [8]).wf = false := by decide

theorem test_wf_edges : (Instr.receiveMark 512 0 edge0 0).wf = false ∧ (Instr.receiveMark 0 16 edge0 0).wf = false ∧
    (Instr.receiveMark 0 0 { cyc := 625 } 0).wf = false ∧ (Instr.receiveMark 0 0 { code := 4096 } 0).wf = false ∧
    (Instr.pulseEmit 0 (some { cyc := 625 })).wf = false ∧ (Instr.pulseEmit 8 none).wf = false := by decide

theorem test_wf_ties : (∀ t ∈ [({ strap := 4 } : Ties), { idNum := 2 ^ 20 }, { gangPos := 8 }, { gangSize := 8 }, { sbAddr := 128 }, { sbIana := 2 ^ 32 },
    { taps := [64] }, { tapUp := [(64, (true, 0))] }, { tapUp := [(0, (false, 64))] }], (Instr.porRelease t {}).wf = false) ∧
    (Instr.porRelease {} { counted := 16 }).wf = false := by decide

theorem test_wf_tick : (∀ i ∈ [({ rclk := [512] } : TickIn), { refs := [{ cand := 16, edge := {} }] }, { refs := [{ cand := 0, edge := { cyc := 625 } }] },
    { refs := [{ cand := 0, edge := {}, count := 0 }] }, { osc := { code := 4096 } }, { lead := some { sent := -1, acq := true } },
    { lead := some { sent := 0, acq := true, te := 2 ^ 32 } }, { rclkEdges := [⟨512, {}⟩] }, { gangEnter := some (3, true) }], (Instr.courseTick i).wf = false) := by decide

theorem test_wf_heads : (∀ h ∈ [({ headMax with port := 512 } : RxHead), { headMax with mark := 16 }, { headMax with cyc := 625 }, { headMax with ver := 256 },
    { headMax with len := 65536 }, { headMax with lseq := 256 }, { headMax with lack := 256 }, { headMax with seq := 65536 }, { headMax with srcId := 2 ^ 24 },
    { headMax with srcPort := 65536 }, { headMax with course := 2 ^ 32 }], (Instr.ackReceive h).wf = false) ∧
    (∀ h ∈ [({ ptpMax with port := 512 } : PtpHead), { ptpMax with sdo := 16 }, { ptpMax with ver := 16 }, { ptpMax with len := 65536 }, { ptpMax with domNum := 256 },
      { ptpMax with srcClock := 2 ^ 64 }, { ptpMax with srcPort := 65536 }, { ptpMax with seq := 65536 }], (Instr.delayReqReceive h).wf = false) := by decide

theorem test_wf_times : (∀ w ∈ [({ sec := 2 ^ 48 } : WireTime), { ns := 2 ^ 32 }, { frac := 65536 }], (Instr.syncReceive ptpMax w).wf = false) ∧
    (∀ b ∈ [({ utcOffset := 65536 } : AnnounceBody), { timeSource := 256 }, { gmId := 2 ^ 64 }, { clockClass := 256 }, { stepsRemoved := 65536 }],
      (Instr.announceReceive ptpMax b).wf = false) ∧
    (∀ b ∈ [(⟨256, 0, 0, 0, 0, 0⟩ : HelloBody), ⟨0, 256, 0, 0, 0, 0⟩, ⟨0, 0, 65536, 0, 0, 0⟩, ⟨0, 0, 0, 256, 0, 0⟩, ⟨0, 0, 0, 0, 256, 0⟩, ⟨0, 0, 0, 0, 0, 65536⟩],
      (Instr.helloReceive headMax b).wf = false) ∧
    (∀ b ∈ [({ id := 2 ^ 32, kind := 0, target := {}, arg := 0 } : LaunchBody), { id := 0, kind := 256, target := {}, arg := 0 },
      { id := 0, kind := 0, target := { frac := 65536 }, arg := 0 }, { id := 0, kind := 0, target := {}, arg := 2 ^ 64 }], (Instr.launchReceive headMax b).wf = false) := by decide

theorem test_wf_program : (∀ f ∈ [({ d := 16 } : SeqArgs), { a := 16 }, { b := 16 }, { x := 2 ^ 44 }], (Instr.add f).wf = false) := by decide

theorem test_wf_collectives : (∀ p ∈ [({ par0 with cid := 2 ^ 32 } : CollParams), { par0 with isn := 2 ^ 32 }, { par0 with op := 256 }, { par0 with fmt := 256 },
      { par0 with rfmt := 256 }, { par0 with lanes := 32 }, { par0 with group := 4096 }], (Instr.collUpReceive headMax { up0 with par := p }).wf = false) ∧
    (∀ d ∈ [UpData.partial_ (List.replicate 17 {}), .partial_ [{ a := 2 ^ 319 }], .partial_ [{ a := -2 ^ 319 - 1 }], .vote { step := 2 ^ 32 }, .vote { digest := 2 ^ 64 },
      .vote { count := 2 ^ 32 }, .matched { count := 2 ^ 32 }, .report 256 [], .report 0 [2 ^ 64], .report 0 (List.replicate 17 0)],
      (Instr.collUpReceive headMax { up0 with data := d }).wf = false) ∧
    (∀ m ∈ [({ up0 with attempt := 4 } : CollUp), { up0 with count := 2 ^ 32 }, { up0 with step := 2 ^ 32 }], (Instr.gangContribution 0 (.contribution m)).wf = false) ∧
    (∀ m ∈ [({ down0 0 with attempt := 4 } : CollDown), { down0 0 with phase := 4 }, { down0 0 with status := 256 }, { down0 0 with count := 2 ^ 32 },
      { down0 0 with step := 2 ^ 32 }, { down0 0 with doneCourse := 2 ^ 32 }, { down0 0 with results := List.replicate 17 0 }, { down0 0 with results := [2 ^ 64] }],
      (Instr.collDownReceive headMax m).wf = false) ∧
    (Instr.gangContribution 0 (.digest (2 ^ 64) 0)).wf = false ∧ (Instr.gangContribution 0 (.digest 0 (2 ^ 64))).wf = false := by decide

theorem test_wf_decisions :
    (∀ m ∈ [({ cid := 2 ^ 32, isn := 0, attempt := 0, dom := .a } : CollMove), { cid := 0, isn := 2 ^ 32, attempt := 0, dom := .a }, { cid := 0, isn := 0, attempt := 256, dom := .a },
      { cid := 0, isn := 0, attempt := 0, dom := .a, origin := { id := 2 ^ 24 } }, { cid := 0, isn := 0, attempt := 0, dom := .a, origin := { port := 4096 } },
      { cid := 0, isn := 0, attempt := 0, dom := .a, origin := { onset := 2 ^ 32 } }], (Instr.collMoveReceive headMax m).wf = false) ∧
    (∀ m ∈ [({ cid := 2 ^ 32, isn := 0, attempt := 0, reason := 0 } : CollAbort), { cid := 0, isn := 2 ^ 32, attempt := 0, reason := 0 },
      { cid := 0, isn := 0, attempt := 256, reason := 0 }, { cid := 0, isn := 0, attempt := 0, reason := 256 },
      { cid := 0, isn := 0, attempt := 0, reason := 0, origin := { port := 4096 } }], (Instr.collAbortReceive headMax m).wf = false) ∧
    (∀ q ∈ [({ rtype := 256, dom := .a } : CollReq), { rtype := 0, dom := .a, reason := 256 }, { rtype := 0, dom := .a, attempt := 4 }, { rtype := 0, dom := .a, cid := 2 ^ 32 },
      { rtype := 0, dom := .a, isn := 2 ^ 32 }, { rtype := 0, dom := .a, port := 4096 }, { rtype := 0, dom := .a, lo := 2 ^ 20 }, { rtype := 0, dom := .a, hi := 2 ^ 20 },
      { rtype := 0, dom := .a, originId := 2 ^ 24 }, { rtype := 0, dom := .a, onset := 2 ^ 32 }], (Instr.collReqReceive headMax q).wf = false) := by decide

theorem test_wf_objects :
    (∀ m ∈ [({ dst := 2 ^ 20, op := 0, ctx := 0, loc := 0, rtag := 0, operand := 0 } : ObjReqMsg), { dst := 0, op := 256, ctx := 0, loc := 0, rtag := 0, operand := 0 },
      { dst := 0, op := 0, ctx := 256, loc := 0, rtag := 0, operand := 0 }, { dst := 0, op := 0, ctx := 0, loc := 65536, rtag := 0, operand := 0 },
      { dst := 0, op := 0, ctx := 0, loc := 0, rtag := 65536, operand := 0 }, { dst := 0, op := 0, ctx := 0, loc := 0, rtag := 0, operand := 2 ^ 32 }],
      (Instr.objReqReceive headMax m).wf = false) ∧
    (∀ m ∈ [({ dst := 2 ^ 20, result := 0, rtag := 0, value := 0 } : ObjRspMsg), { dst := 0, result := 256, rtag := 0, value := 0 },
      { dst := 0, result := 0, rtag := 65536, value := 0 }, { dst := 0, result := 0, rtag := 0, value := 2 ^ 32 }], (Instr.objRspReceive headMax m).wf = false) ∧
    (∀ r ∈ [({ request 0 with tap := 64 } : EngReq), { request 0 with handle := 2 ^ 24 }, { request 0 with operand := 2 ^ 32 }, { request 0 with dst := 2 ^ 20 },
      { request 0 with ftag := 256 }, { request 0 with dl := 65536 }, { request 0 with rtag := 256 }], (Instr.peek r).wf = false) ∧
    (∀ a ∈ [({ addr := 2 ^ 24, write := true, wide := false, data := 0 } : Access), { addr := 0, write := true, wide := true, data := 2 ^ 64 }],
      (Instr.hostRequest a true).wf = false) ∧
    (∀ r ∈ [({ tap := 64, back := true, w := 0, sigma := 0 } : CalResult), { tap := 0, back := true, w := 2 ^ 32, sigma := 0 }, { tap := 0, back := true, w := 0, sigma := 65536 }],
      (Instr.crossingRecalibration r).wf = false) ∧
    (∀ u ∈ [ParityAt.uncontained 256, .crossing 64 0 .mark, .objectSlot (2 ^ 24) .program, .objectSlot 0 (.engine 256 (request 0) 0), .objectSlot 0 (.engine 0 { request 0 with tap := 64 } 0), .objectSlot 0 (.remote { dst := 0, op := 0, ctx := 0, loc := 0, rtag := 0, operand := 0 } (2 ^ 24)), .treeCounter (2 ^ 32) 0 0,
      .treeCounter 0 (2 ^ 32) 0, .treeCounter 0 0 4, .contribLog 1024 0, .contribLog 0 (2 ^ 32), .translation 32, .stampRecord 512, .replayWord 512],
      (Instr.internalParityFailure u).wf = false) := by decide

/-! ### Single commands, the results written out from the rules named -/

/-- The state after a command, the state itself where the command does not answer one. -/
def after (i : Instr) (s : State) : State :=
  match exec i s with
  | .next t => t
  | _ => s

/-- R383: strap codes 0 and 3 are errors and hold the block in reset; codes 1 and 2 start the oscillator count. -/
theorem test_straps : (after (.porRelease { strap := 1 } {}) .reset).ck.phase = .oscCount ∧ (after (.porRelease { strap := 2 } {}) .reset).ck.phase = .oscCount ∧
    (after (.porRelease {} {}) .reset).ck.phase = .roleErr ∧ (after (.porRelease { strap := 3 } {}) .reset).ck.phase = .roleErr := by decide +kernel

/-- R46: a course tick takes the next course. -/
theorem test_tick : (after (.courseTick {}) eave).clk.course = 1001 ∧ (after (.courseTick {}) eave).clk.ticks = 1001 := by decide +kernel

/-- R118: SLEW takes 1 to 2,000; INVALID_PARAM is status 0x03 (R367), and TD_SLEW is 20 at reset. -/
theorem test_slew : (after .timeSlewLimit (packet eave 0x12 [2000])).rd TD_SLEW = 2000 ∧
    ((after .timeSlewLimit (packet eave 0x12 [2000])).cmdSlot 0).st = .done ∧
    (after .timeSlewLimit (packet eave 0x12 [2001])).rd TD_SLEW = 20 ∧
    (((after .timeSlewLimit (packet eave 0x12 [2001])).cmdSlot 0).reply.headD 0 / 2 ^ 24) % 256 = 3 := by decide +kernel

/-- R370: a word with a field that the table does not name completes with INVALID_PARAM and changes nothing. -/
theorem test_named_fields : ((after .timeAcquire (packet eave 0x10 [2])).td.acqDom = none) ∧
    (((after .timeAcquire (packet eave 0x10 [2])).cmdSlot 0).reply.headD 0 / 2 ^ 24) % 256 = 3 := by decide +kernel

/-- R232: ADD is modulo 2^64, SUB borrows, SAR keeps the sign, MINU compares as unsigned. -/
theorem test_arithmetic : let s := { running with sq := { running.sq with g := [(1, 2 ^ 64 - 1), (2, 2)] } }
    (after (.add fields) s).g 15 = 1 ∧ (after (.sub { fields with a := 2, b := 1 }) s).g 15 = 3 ∧ (after (.sar { fields with x := 4 }) s).g 15 = 2 ^ 64 - 1 ∧
    (after (.minu fields) s).g 15 = 2 ∧ (after (.mul { fields with d := 1 }) s).g 1 = 2 ^ 64 - 2 := by decide +kernel

/-- R260: SIGNAL adds modulo 2^32 to the value and to P; FILL of a full mailbox answers 2 (FULL) and keeps the value. -/
theorem test_objects : (let v := (after (.signal (request 5)) (oneSlot { kind := 2, value := 2 ^ 32 - 2 })).slot 10;
      v.value = 3 ∧ v.p = 5 ∧ v.c = 0) ∧
    (let t := after (.fill (request 5)) (oneSlot { kind := 1, full := true, value := 9 });
      (t.slot 10).value = 9 ∧ (t.slot 10).last = 2 ∧ .objRsp 1 255 2 ((freeValue 0).toNat % 2 ^ 32) ∈ t.out) ∧
    (let t := after (.arrive (request 0)) (oneSlot { kind := 3, value := 1, c := 1 });
      (t.slot 10).value = 0 ∧ (t.slot 10).phase = true) := by
  refine ⟨by decide +kernel, ?_, ?_⟩
  · refine ⟨by decide +kernel, by decide +kernel, ?_⟩
    exact List.mem_cons_self ..
  · decide +kernel

/-- R322: a lane flap adds the flap weight of HF_WEIGHT, 4 at reset, and is counted. -/
theorem test_flap : ((after (.laneFlap 1) eave).port 1).score = 4 ∧ (after (.laneFlap 1) eave).counter (PF_CNT_FLAP 1) = 1 ∧
    ((after (.laneFlap 1) eave).port 0).score = 0 := by decide +kernel

/-- R104, R101: when the port comes up HELLO, type 0x01, is sent as an express frame. -/
theorem test_hello : ((after (.portUpRise 0) (withPort eave 0 { upPort with up := false })).port 0).xq.map (·.body.typ) = [0x01] := by decide +kernel

/-- R390: a 32-bit access at an offset of 4 modulo 8 carries its data in the upper half; a request of the host on a register that fails parity is answered with an error and not performed. -/
theorem test_host_parity : (after (.hostRequest { addr := 0x1044, write := true, wide := false, data := 7 * 2 ^ 32 } false) eave).rd TD_SLEW = 20 ∧
    (after (.hostRequest { addr := 0x1044, write := true, wide := false, data := 7 * 2 ^ 32 } true) eave).rd TD_SLEW = 7 := by decide +kernel

/-- R123: a plan whose course has come and whose domain is not TRACK and LOCKED ends with outcome 2, and the domain stays. -/
theorem test_plan : (after .planEvaluate { eave with td := { eave.td with plan := some ⟨3, .b, 1001⟩ } }).td.outcome = 2 ∧
    (after .planEvaluate { eave with td := { eave.td with plan := some ⟨3, .b, 1001⟩ } }).td.sel = .a := by decide +kernel

/-- R286, R287: the second child's partial completes the sum at the root: 5 and 5 of 320 bits, sent down to both children. -/
theorem test_sum : let s := tree true [ctr0]
    (after (.collUpReceive nowHead up0) s).ce.ctrs = [] ∧ (after (.collUpReceive nowHead up0) s).counter CE_CNT_DONE = 1 := by decide +kernel

/-- R331: a commanded retirement waits for the boundary; the last live uplink of its domain is refused without FORCE. -/
theorem test_retire : ((after .portRetire (packet eave 0x71 [0x10000])).port 0).cmdRetire = true ∧
    ((after .portRetire (packet eave 0x71 [0])).port 0).cmdRetire = false := by decide +kernel

/-- R1: the fall of por_n gives the reset state again. -/
theorem test_por : (after .porAssert eave).ck.phase = .held ∧ (after .porAssert eave).ports = [] ∧ (after .porAssert eave).ties = {} := by decide +kernel

end Sys2Proof.Tests
end

section
/-! SUPPORT. The proof about the strap and the tie-offs (R1, R384). -/
namespace Sys2Proof.Machine

/-! ### What the release of por_n samples -/

theorem State.isEave_iff (s : State) : s.isEave = true ↔ s.ties.strap = 1 := decide_eq_true_iff

theorem State.isRidge_iff (s : State) : s.isRidge = true ↔ s.ties.strap = 2 := decide_eq_true_iff

@[simp] theorem State.raiseIf_ties (s : State) (c : Bool) (k : Nat) : (s.raiseIf c k).ties = s.ties := by
  obtain ⟨-, hties, -⟩ := State.fixed_parts (State.raiseIf_fixed s c k)
  exact hties

/-- With a valid strap code and with an invalid one alike, the tie-offs after the release are those sampled. -/
@[simp] theorem State.porRelease_ties (s : State) (a : Ties) (g : GangSeen) : (s.porRelease a g).ties = a := by
  unfold State.porRelease
  split
  · rw [State.raiseIf_ties]
  · rfl

/-- While por_n is held low its release is taken. -/
theorem exec_porRelease_of_held {s : State} (h : s.ck.phase = .held) (a : Ties) (g : GangSeen) :
    exec (.porRelease a g) s = .next (s.porRelease a g) :=
  congrArg Host.Outcome.next (if_pos h)

/-- With por_n already released there is nothing to release. -/
theorem exec_porRelease_of_not_held {s : State} (h : s.ck.phase ≠ .held) (a : Ties) (g : GangSeen) :
    exec (.porRelease a g) s = .next s :=
  congrArg Host.Outcome.next (if_neg h)

/-! ### What keeps the tie-offs -/

/-- Every command but the two edges of por_n keeps the tie-offs: `exec_all`, read at the answered state. -/
theorem ties_eq_of_exec {c : Instr} {s t : State} (hr : ∀ a g, c ≠ .porRelease a g) (ha : c ≠ .porAssert)
    (h : exec c s = .next t) : t.ties = s.ties := by
  obtain ⟨u, hu, -, hties, -⟩ := exec_all c s
  obtain rfl : u = t := Host.Outcome.next.inj (hu.symm.trans h)
  exact hties hr ha

/-- Settles O3: the release answers the state with the sampled tie-offs, whose strap code is the role; every other command
but the fall of por_n keeps them, and so does a release that comes when por_n is already high. -/
theorem tieOffsHeldUntilReset : Obligations.TieOffsHeldUntilReset := by
  unfold Obligations.TieOffsHeldUntilReset
  constructor
  · intro a g s hheld
    refine ⟨s.porRelease a g, exec_porRelease_of_held hheld a g, State.porRelease_ties s a g, ?_, ?_⟩
    · rw [State.isEave_iff, State.porRelease_ties]
    · rw [State.isRidge_iff, State.porRelease_ties]
  · intro c s t hrel hassert hexec
    by_cases hc : ∃ a g, c = .porRelease a g
    · obtain ⟨a, g, rfl⟩ := hc
      have hnot : s.ck.phase ≠ .held := fun hheld => hrel hheld a g rfl
      rw [exec_porRelease_of_not_held hnot] at hexec
      obtain rfl : s = t := Host.Outcome.next.inj hexec
      rfl
    · exact ties_eq_of_exec (fun a g h => hc ⟨a, g, h⟩) hassert hexec

end Sys2Proof.Machine
end

section
/-! SUPPORT. The proof about the decay of the scores (R323, R342). -/
namespace Sys2Proof.Machine
open Sys2Proof.Config

/-- A register that was never written reads its reset value. -/
theorem State.rd_reset {r : Reg} (h : r.reset < 2 ^ 64) : State.reset.rd r = r.reset :=
  BitVec.toNat_ofNat r.reset 64 |>.trans (Nat.mod_eq_of_lt h)

/-- HF_SCORE comes out of reset with DECAY = 20 (R342). -/
theorem State.fl_scoreDecay_reset : State.reset.fl HF_SCORE 16 5 = 20 := by
  unfold State.fl
  rw [State.rd_reset (r := HF_SCORE) (by decide)]
  decide

/-- Settles O58: `exec_scoreDecay` says what the row SCORE_DECAY does at the boundary that ends the running course (log
entry 9), once per boundary by the mark `did.decay` (log entry 3); the reset value of HF_SCORE gives the 1,048,576 courses
of R323. -/
theorem scoresHalveAtTheDecayBoundary : Obligations.ScoresHalveAtTheDecayBoundary := by
  unfold Obligations.ScoresHalveAtTheDecayBoundary
  exact ⟨exec_scoreDecay, State.fl_scoreDecay_reset, by norm_num⟩

end Sys2Proof.Machine
end

section
/-! SUPPORT. The proofs about the queue, the block held in reset and the invariants of every step (R1, R46 to R48, R382,
R383, R400). -/
namespace Sys2Proof.Machine
open Sys2Proof

/-! ### The block with por_n low -/

theorem State.oscRuns_of_held {s : State} (h : s.ck.phase = .held) : s.oscRuns = false := by simp [State.oscRuns, h]

theorem State.asleep_of_held {s : State} (h : s.ck.phase = .held) : s.asleep = false := by simp [State.asleep, h]

theorem State.not_up_of_held {s : State} (h : s.ck.phase = .held) : ¬ s.up = true := by simp [State.up, h]

theorem State.ticks_of_held {s : State} (h : s.ck.phase = .held) : s.ticks = false := by
  simp [State.ticks, s.not_up_of_held h, s.asleep_of_held h]

theorem State.pllLocks_of_held {s : State} (h : s.ck.phase = .held) (p : Pll) (k : Nat) (oven : Bool) :
    s.pllLocks p k oven = s := by simp [State.pllLocks, h]

theorem State.pllTimeout_of_held {s : State} (h : s.ck.phase = .held) (p : Pll) : s.pllTimeout p = s := by
  simp [State.pllTimeout, h]

theorem State.hostRequest_of_held {s : State} (h : s.ck.phase = .held) (a : Access) (ok : Bool) : s.hostRequest a ok = s :=
  if_pos (.inl h)

/-- A row that leaves the state as it is where its condition fails. -/
theorem next_ite_of_not {c : Prop} [Decidable c] {s t : State} (h : ¬ c) : (Host.Outcome.next (if c then t else s) : Result) = .next s :=
  congrArg Host.Outcome.next (if_neg h)

/-- A row that is the write or the read of a register, held back by por_n. -/
theorem next_of_eq {s t : State} (h : t = s) : (Host.Outcome.next t : Result) = .next s := congrArg Host.Outcome.next h

/-- While por_n is low every row but its edges leaves the state as it is: the rows of the main logic need the time counter,
the rows of the clocks need their phase, and no access of a master is taken. -/
theorem exec_of_held {s : State} (h : s.ck.phase = .held) {c : Instr} (hr : ∀ a g, c ≠ .porRelease a g) (ha : c ≠ .porAssert) :
    exec c s = .next s := by
  cases c with
  | porRelease a g => exact absurd rfl (hr a g)
  | porAssert => exact absurd rfl ha
  | oscGood => exact next_ite_of_not (by simp [s.oscRuns_of_held h])
  | oscLoss => exact next_ite_of_not (by simp [s.oscRuns_of_held h])
  | pllLock p k oven => exact next_of_eq (s.pllLocks_of_held h p k oven)
  | pllLockTimeout p => exact next_of_eq (s.pllTimeout_of_held h p)
  | ovenFlagFall => simp [exec, execOvenFlagFall, s.oscRuns_of_held h, h]
  | courseTick i => exact next_ite_of_not (by simp [s.ticks_of_held h])
  | thatchWake src arg => exact next_ite_of_not (by simp [s.asleep_of_held h])
  | thatchTimerWake => exact next_ite_of_not (by simp [s.asleep_of_held h])
  | pwWake => exact next_ite_of_not (by simp [h])
  | timeRebuild k cw temp ok => exact next_ite_of_not (by simp [s.asleep_of_held h])
  | gangLinkFail lost => simp [exec, execGangLinkFail, s.asleep_of_held h, s.not_up_of_held h]
  | internalParityFailure f => cases f <;> exact next_ite_of_not (s.not_up_of_held h)
  | peek | read | fill | signal | waitge | dec | wdec | realign | arrive | set => exact next_ite_of_not (by simp [h])
  | hostRequest a ok => exact next_of_eq (s.hostRequest_of_held h a ok)
  | hostPortReset | sbPacketBad => exact next_of_eq (if_pos h)
  | hostPortResetRelease => exact next_of_eq (if_pos (.inl h))
  | sbMctpControl | sbCommandRequest | sbRegisterRead | sbRegisterWrite => exact next_of_eq (sb_held s _ h)
  | pfStampLoRead | imRawLoRead | odWindowRead | tdNowNsRead => exact next_of_eq (readBy_held s _ _ _ h)
  | imSkCountRead m k => exact next_of_eq ((if_congr Iff.rfl (readBy_held s _ _ _ h) rfl).trans (ite_self s))
  | rsCandnCfgWrite | rsCandnDelayWrite | programStoreWrite | pulseOutputEnable | periodicModeSet | profileWrite | registerWrite =>
    exact next_of_eq ((if_congr Iff.rfl (writeBy_held s _ _ _ _ h) rfl).trans (ite_self s))
  | commandHandover k w =>
    exact next_of_eq (by simp only [writeBy_held s _ _ _ _ h, ite_self])
  | ovenUseWrite | cgClkoutWrite | portEnable | portDisable | portConstantsWrite | battenEnable | battenDisable | battenRecal
  | padRecal | imArm | imAbort | imGo | imModeWrite | zcStart | zcClr | tpDebtClr | hfWdogKick | hfUlEnter | hfUlExit
  | cpHostHb | ringEnable | cpOwnWrite | gcIrqSet | pfCntClr | tdCntClr | rsCntClr | cgCntClr | btCntClr | imCntClr | sqCntClr
  | odCntClr | ceCntClr | tpCntClr | hfCntClr | pwCntClr | cpCntClr | gcCntClr => exact next_of_eq (writeBy_held s _ _ _ _ h)
  | _ => exact next_ite_of_not (s.not_up_of_held h)

/-- Settles O8: no row but the edges of por_n has an effect while it is low (R383, R387; the model's choice of what a row
means there is log entries 4 and 6). -/
theorem heldBlockIgnoresCommands : Obligations.HeldBlockIgnoresCommands := by
  unfold Obligations.HeldBlockIgnoresCommands
  intro c s hheld hrel hassert
  exact exec_of_held hheld hrel hassert

/-! ### The queue -/

/-- Settles O1: what a step does is the definition of `step`; that it idles on an empty queue is the model's choice (log
entry 2). -/
theorem stepRunsTheFrontCommand : Obligations.StepRunsTheFrontCommand := by
  unfold Obligations.StepRunsTheFrontCommand
  constructor
  · intro c rest s hqueue
    rw [step, hqueue]
  · intro s hqueue
    rw [step, hqueue]

/-- A step that answers ran the front command on the state with the rest of the queue, or idled on an empty queue. -/
theorem step_cases {s t : State} (h : step s = .next t) :
    t = s ∨ ∃ c rest, s.pending = c :: rest ∧ exec c (s.withRest rest) = .next t := by
  cases hqueue : s.pending with
  | nil =>
    rw [stepRunsTheFrontCommand.2 s hqueue] at h
    exact .inl (Host.Outcome.next.inj h).symm
  | cons c rest =>
    rw [stepRunsTheFrontCommand.1 c rest s hqueue] at h
    exact .inr ⟨c, rest, rfl, h⟩

/-- Settles O2: `exec_all` has every command answer a next state that keeps the queue it was given, which is the rest (the
queue and its order are the model's own: log entry 2). -/
theorem everyCommandLeavesTheRestOfTheQueue : Obligations.EveryCommandLeavesTheRestOfTheQueue := by
  unfold Obligations.EveryCommandLeavesTheRestOfTheQueue
  intro c rest s hqueue
  obtain ⟨t, hexec, hpending, -, -⟩ := exec_all c (s.withRest rest)
  exact ⟨t, (stepRunsTheFrontCommand.1 c rest s hqueue).trans hexec, hpending⟩

/-! ### The time kept -/

/-- Settles O7: `exec_all`, read at the course number and the count of boundaries. -/
theorem courseNumberSetOnlyByTimeCommands : Obligations.CourseNumberSetOnlyByTimeCommands := by
  unfold Obligations.CourseNumberSetOnlyByTimeCommands
  intro c s t hmoves hexec
  obtain ⟨u, hu, -, -, htime⟩ := exec_all c s
  obtain rfl : u = t := Host.Outcome.next.inj (hu.symm.trans hexec)
  exact htime hmoves

/-- The opening of a course reads nothing of the state but its clock. -/
theorem State.openCourse_fixed_congr {s t : State} (h : s.fixed = t.fixed) : s.openCourse.fixed = t.openCourse.fixed := by
  obtain ⟨hpending, hties, hphase, hcourse, hticks⟩ := State.fixed_parts h
  simp only [State.fixed, State.openCourse, hpending, hties, hphase, hcourse, hticks]

/-- Of all the work of a boundary (R18) only the opening of the next course touches the time kept. -/
theorem State.courseTick_fixed (s : State) (i : TickIn) : (s.courseTick i).fixed = s.openCourse.fixed := by
  have hclose : (s.closeCourse i).advancePhase.fixed = s.fixed :=
    (State.advancePhase_fixed _).trans (State.closeCourse_fixed s i)
  rw [← State.openCourse_fixed_congr hclose]
  unfold State.courseTick
  dsimp +zetaHave only
  split
  · simp +zetaHave only [State.replayHeld_fixed, State.evt_fixed, State.fixed_mk, State.fixed_eta, State.stepCommands_fixed, State.stepWork_fixed,
      State.tickParts_fixed, State.stepTimeEngine_fixed, State.gangLeave_fixed, State.stepHealth_fixed, State.takeClocks_fixed,
      State.rclkLevels_fixed, State.ovenTick_fixed, State.senseTemp_fixed, State.awaken_fixed, State.gangTime_fixed,
      State.gangCalOver_fixed, State.gangKeepalive_fixed, State.gangBeat_fixed]
  · simp +zetaHave only [State.evt_fixed, State.fixed_mk, State.fixed_eta, State.stepCommands_fixed, State.stepWork_fixed,
      State.tickParts_fixed, State.stepTimeEngine_fixed, State.gangLeave_fixed, State.stepHealth_fixed, State.takeClocks_fixed,
      State.rclkLevels_fixed, State.ovenTick_fixed, State.senseTemp_fixed, State.napPlanned_fixed, State.gangTime_fixed,
      State.gangCalOver_fixed, State.gangKeepalive_fixed, State.gangBeat_fixed]

/-- With no step waiting and no leader's time, the row COURSE_TICK is the course tick alone (R115, R29). -/
theorem exec_courseTick_alone {i : TickIn} {s : State} (hup : s.up = true) (hstep : s.td.stepDue = none) (hlead : i.lead = none) :
    exec (.courseTick i) s = .next (s.courseTick i) := by
  have hticks : s.ticks = true := by simp [State.ticks, hup]
  have hacq : s.acquisitionStep i.osc = s := by simp [State.acquisitionStep, hstep]
  have hleads : s.leads i.lead = none := by simp [State.leads, hlead]
  have hend : s.endCourse i = s.courseTick i := by simp [State.endCourse, hleads]
  rw [exec, execCourseTick, if_pos hticks, hacq, hend]

/-- Settles O9: of the boundary work of R18 only the tick of its step 1 counts the course (the order of the rest is log
entry 7). -/
theorem courseTickAdvancesTheCourse : Obligations.CourseTickAdvancesTheCourse := by
  unfold Obligations.CourseTickAdvancesTheCourse
  intro i s hup hstep hlead
  obtain ⟨-, -, -, hcourse, hticks⟩ := State.fixed_parts (s.courseTick_fixed i)
  exact ⟨s.courseTick i, exec_courseTick_alone hup hstep hlead, hcourse, hticks⟩

/-! ### The strap -/

/-- A phase beyond the reset of the block. -/
def Phase.Started (p : Phase) : Prop := p ≠ .held ∧ p ≠ .roleErr

theorem State.strapHeld_iff_of_started {s : State} (h : s.ck.phase.Started) : s.StrapHeld ↔ strapOk s.ties = true := by
  obtain ⟨hheld, hrole⟩ := h
  unfold State.StrapHeld
  cases hp : s.ck.phase <;> simp_all

/-- From one phase beyond reset to another the strap code stays valid. -/
theorem State.StrapHeld.of_started {s t : State} (h : s.StrapHeld) (hties : t.ties = s.ties) (hs : s.ck.phase.Started)
    (ht : t.ck.phase.Started) : t.StrapHeld := by
  rw [State.strapHeld_iff_of_started ht, hties]
  exact (State.strapHeld_iff_of_started hs).1 h

theorem State.started_of_oscRuns {s : State} (h : s.oscRuns = true) : s.ck.phase.Started := by
  unfold Phase.Started
  constructor <;> intro hp <;> simp [State.oscRuns, hp] at h

theorem Phase.started_of_eq {p q : Phase} (h : p = q) (hq : q.Started) : p.Started := h ▸ hq

/-! The phases of the start of the clocks and of service. -/

theorem Phase.started_oscCount : Phase.oscCount.Started := ⟨nofun, nofun⟩
theorem Phase.started_pllWait : Phase.pllWait.Started := ⟨nofun, nofun⟩
theorem Phase.started_running : Phase.running.Started := ⟨nofun, nofun⟩
theorem Phase.started_stuck : Phase.stuck.Started := ⟨nofun, nofun⟩

/-- OSC_GOOD moves the phase on from the count alone (R164). -/
theorem State.oscGoodSet_strapHeld {s : State} (h : s.StrapHeld) (hr : s.oscRuns = true) : s.oscGoodSet.StrapHeld := by
  refine h.of_started (oscGood_base s).2.1 (State.started_of_oscRuns hr) ?_
  unfold State.oscGoodSet
  dsimp only
  split
  · exact Phase.started_pllWait
  · exact State.started_of_oscRuns hr

/-- In service the locks fall without a change of phase (R173). -/
theorem State.unlocks_phase (s : State) : s.timingUnlock.logicUnlock.ck.phase = s.ck.phase := by
  obtain ⟨-, -, hphase, -, -⟩ := State.fixed_parts ((State.logicUnlock_fixed s.timingUnlock).trans (State.timingUnlock_fixed s))
  exact hphase

/-- A loss of the oscillator leaves the phase, or starts the count again (R165). -/
theorem State.oscLose_strapHeld {s : State} (h : s.StrapHeld) (hr : s.oscRuns = true) : s.oscLose.StrapHeld := by
  refine h.of_started (oscLose_base s).2.1 (State.started_of_oscRuns hr) ?_
  have hs := State.started_of_oscRuns hr
  unfold State.oscLose
  dsimp +zetaHave only
  split
  · exact hs
  split
  · exact hs
  split <;> split
  case isTrue.isTrue | isFalse.isTrue => exact Phase.started_of_eq (State.unlocks_phase _) hs
  all_goals exact Phase.started_oscCount

/-- The lock of a PLL keeps the phase, or starts the time from the wait for the locks (R167, R171). -/
theorem State.startTime_strapHeld {s : State} (h : s.StrapHeld) (oven : Bool) : (s.startTime oven).StrapHeld := by
  unfold State.startTime
  split
  · next hlocked =>
    obtain ⟨hwait, -, -⟩ := hlocked
    exact h.of_started rfl (Phase.started_of_eq hwait Phase.started_pllWait) Phase.started_running
  · exact h

theorem State.pllLocks_strapHeld {s : State} (h : s.StrapHeld) (p : Pll) (k : Nat) (oven : Bool) :
    (s.pllLocks p k oven).StrapHeld := by
  unfold State.pllLocks
  dsimp +zetaHave only
  split
  · exact h
  · cases p <;> dsimp only <;> split
    case' timing.isFalse | logic.isFalse => refine State.startTime_strapHeld ?_ oven
    all_goals exact strap_of_eq rfl rfl h

/-- After the second failed try the block is stuck, before it the phase stays (R171). -/
theorem ClockGen.started_of_tries {c : ClockGen} (h : c.phase.Started) (n : Nat) :
    (if 2 ≤ n then { c with phase := .stuck } else c).phase.Started := by
  split
  · exact Phase.started_stuck
  · exact h

/-- A PLL that times out keeps the phase, or leaves the block stuck beyond reset (R171). -/
theorem State.pllTimeout_strapHeld {s : State} (h : s.StrapHeld) (p : Pll) : (s.pllTimeout p).StrapHeld := by
  by_cases hon : (decide (s.ck.phase = .pllWait) || (decide (s.ck.phase = .running) && decide (s.pw.st = .waking))) = false
  · rwa [show s.pllTimeout p = s from if_pos hon]
  · have hs : s.ck.phase.Started := by
      constructor <;> intro hp <;> simp [hp] at hon
    refine h.of_started (pllTimeout_base s p).2.1 hs ?_
    unfold State.pllTimeout
    dsimp +zetaHave only
    rw [if_neg hon]
    refine ClockGen.started_of_tries ?_ _
    cases p <;> dsimp only <;> split <;> exact hs

/-- The release fixes the phase by the strap code that it samples (R382, R383). -/
theorem State.porRelease_strapHeld (s : State) (a : Ties) (g : GangSeen) : (s.porRelease a g).StrapHeld := by
  unfold State.porRelease
  dsimp +zetaHave only
  split
  · next hok => exact strap_of_eq (State.raiseIf_ties _ _ _) (State.fixed_parts (State.raiseIf_fixed _ _ _)).2.2.1 hok
  · next hbad => exact Bool.eq_false_iff.2 hbad

theorem State.StrapHeld.of_base {s t : State} (h : s.StrapHeld) (ht : t.base = s.base) : t.StrapHeld := by
  obtain ⟨-, hties, hphase⟩ := State.base_parts ht
  exact strap_of_eq hties hphase h

/-- A row that acts under a condition keeps the strap rule when its act does. -/
theorem State.StrapHeld.ite {s t : State} {c : Prop} [Decidable c] (h : s.StrapHeld) (ht : c → t.StrapHeld) :
    (if c then t else s).StrapHeld := by
  split
  · next hc => exact ht hc
  · exact h

/-- Every command keeps the strap rule: the edges of por_n by the phase they leave, the start of the clocks by the lemmas
above, and the rest because it moves neither the tie-offs nor the phase. -/
theorem exec_strapHeld {c : Instr} {s t : State} (h : s.StrapHeld) (hexec : exec c s = .next t) : t.StrapHeld := by
  by_cases hrest : movesTime c = false ∧ c ≠ .oscGood ∧ c ≠ .oscLoss ∧ ∀ p, c ≠ .pllLockTimeout p
  · obtain ⟨hmoves, hgood, hloss, htimeout⟩ := hrest
    obtain ⟨u, hu, hfixed⟩ := exec_fixed c s hmoves hgood hloss htimeout
    obtain rfl : u = t := Host.Outcome.next.inj (hu.symm.trans hexec)
    exact h.of_base (State.base_eq hfixed)
  cases c with
  | porRelease a g =>
    obtain rfl := Host.Outcome.next.inj hexec
    exact h.ite fun _ => s.porRelease_strapHeld a g
  | porAssert =>
    obtain rfl := Host.Outcome.next.inj hexec
    trivial
  | oscGood =>
    obtain rfl := Host.Outcome.next.inj hexec
    exact h.ite fun hgood => State.oscGoodSet_strapHeld h hgood.1
  | oscLoss =>
    obtain rfl := Host.Outcome.next.inj hexec
    exact h.ite fun hruns => State.oscLose_strapHeld h hruns
  | pllLock p k oven =>
    obtain rfl := Host.Outcome.next.inj hexec
    exact State.pllLocks_strapHeld h p k oven
  | pllLockTimeout p =>
    obtain rfl := Host.Outcome.next.inj hexec
    exact State.pllTimeout_strapHeld h p
  | courseTick i =>
    obtain rfl := Host.Outcome.next.inj hexec
    exact h.ite fun _ => h.of_base ((State.endCourse_base _ i).trans (State.acquisitionStep_base s i.osc))
  | acquisitionStep osc =>
    obtain rfl := Host.Outcome.next.inj hexec
    exact h.ite fun _ => h.of_base (State.acquisitionStep_base s osc)
  | timeRebuild k cw temp ok =>
    obtain rfl := Host.Outcome.next.inj hexec
    exact h.ite fun _ => h.of_base (State.timeRebuild_base s k cw temp ok)
  | _ => exact absurd ⟨rfl, nofun, nofun, nofun⟩ hrest

/-- Settles O4: a step runs a command on a state with the same tie-offs and phase, or idles. -/
theorem strapHeldByEveryStep : Obligations.StrapHeldByEveryStep := by
  unfold Obligations.StrapHeldByEveryStep
  intro s t hstrap hstep
  obtain rfl | ⟨c, rest, -, hexec⟩ := step_cases hstep
  · exact hstrap
  · exact exec_strapHeld (s := s.withRest rest) hstrap hexec

/-! ### The canonical tables -/

theorem State.reset_canon : State.reset.Canon :=
  canonZ _ rfl rfl rfl rfl rfl rfl (by decide) (by decide) (by decide)

/-- The release of por_n leaves every table as it is at reset. -/
theorem State.porRelease_canon (s : State) (a : Ties) (g : GangSeen) : (s.porRelease a g).Canon := by
  unfold State.porRelease
  dsimp +zetaHave only
  split
  · exact State.raiseIf_canon _ _ _ State.reset_canon
  · exact State.reset_canon

/-- Every command keeps the tables canonical: the edges of por_n empty them, and the rest is `exec_canon`. -/
theorem exec_keeps_canon {c : Instr} {s t : State} (h : s.Canon) (hexec : exec c s = .next t) : t.Canon := by
  by_cases hrel : ∃ a g, c = .porRelease a g
  · obtain ⟨a, g, rfl⟩ := hrel
    obtain rfl := Host.Outcome.next.inj hexec
    split
    · exact s.porRelease_canon a g
    · exact h
  by_cases hassert : c = .porAssert
  · subst hassert
    obtain rfl := Host.Outcome.next.inj hexec
    exact State.reset_canon
  · obtain ⟨u, hu, hcanon⟩ := exec_canon c s h (fun a g hc => hrel ⟨a, g, hc⟩) hassert
    obtain rfl : u = t := Host.Outcome.next.inj (hu.symm.trans hexec)
    exact hcanon

/-- Settles O5: a step runs a command on a state with the same tables, or idles. -/
theorem tablesCanonicalAfterEveryStep : Obligations.TablesCanonicalAfterEveryStep := by
  unfold Obligations.TablesCanonicalAfterEveryStep
  intro s t hcanon hstep
  obtain rfl | ⟨c, rest, -, hexec⟩ := step_cases hstep
  · exact hcanon
  · exact exec_keeps_canon (s := s.withRest rest) hcanon hexec

/-! ### Reset -/

/-- Settles O6: por_n is held low at reset (log entry 6), where the strap rule asks nothing, and every table is empty. -/
theorem invariantsHoldAtReset : Obligations.InvariantsHoldAtReset := by
  unfold Obligations.InvariantsHoldAtReset
  constructor
  · trivial
  · exact State.reset_canon

/-- Settles O11: the fall of por_n answers the reset state itself, with the queue, the outputs driven and the count of free
values carried over, which are the model's own (log entries 1, 2 and 5). -/
theorem fallOfPorResetsEverything : Obligations.FallOfPorResetsEverything := by
  unfold Obligations.FallOfPorResetsEverything
  intro s
  exact ⟨_, rfl, rfl, rfl⟩

end Sys2Proof.Machine
end

section
/-! SUPPORT. The proofs about the rows of the command table and about completions (R360 to R372). -/
namespace Sys2Proof.Machine
open Sys2Proof Sys2Proof.Config

/-! ### The rows of the command table -/

/-- Each row of the table takes the next packet of its opcode, which names its command (R372). -/
theorem opcodeRows_accept : ∀ e ∈ opcodeRows,
    cmdOf e.2.1 = some e.2.2 ∧ ∀ s : State, exec e.1 s = s.main fun s => s.acceptOp e.2.1 e.2.2 := by
  simp only [opcodeRows, List.cons_append, List.nil_append, List.forall_mem_cons, List.not_mem_nil, false_implies, implies_true,
    and_true]
  repeat' apply And.intro
  all_goals intros; rfl

/-- Settles O27: a row of the table is the acceptance of its opcode, whose three outcomes are `State.Accepts.accept`,
`acceptRefused` and `acceptOther` (the order of the general statuses is log entry 15). -/
theorem opcodesRunByTheirRows : Obligations.OpcodesRunByTheirRows := by
  unfold Obligations.OpcodesRunByTheirRows
  intro e he
  obtain ⟨hcmd, hexec⟩ := opcodeRows_accept e he
  refine ⟨hcmd, fun s u r hacc => ?_, fun s u r st htakes hop hst => ?_, fun s u r htakes hop => ?_⟩
  · rw [hexec, State.main_up hacc.takes.up, hacc.accept]
  · rw [hexec, State.main_up htakes.up, acceptRefused htakes hop hst]
  · rw [hexec, State.main_up htakes.up, acceptOther htakes hop]

/-! ### Completions -/

theorem sbSlot_host {k : Nat} (h : k < 16) : sbSlot k = false := by simp [sbSlot]; omega

/-- The counters of a completion: one completion, and one error unless the status is DONE (R363). -/
def State.completionCnt (s : State) (rep : Reply) : Map (BitVec 32) :=
  if rep.status = stDone then (s.count CP_CNT_CMD).cnt else ((s.count CP_CNT_CMD).count CP_CNT_ERR).cnt

/-- What the last steps of a completion leave of a host slot whose packet asks for no interrupt (R363). -/
theorem State.finalize_host {s : State} {r : RunCmd} (h : r.slot < 16)
    (hirq : bitOf (hdrFlags (s.cmdSlot r.slot).header) 0 = false) (rep : Reply) (words : List Nat) :
    s.finalize r rep words = { s with
      cp := { s.cp with
        run := s.cp.run.filter fun x => x.slot ≠ r.slot
        slots := s.cp.slots.set {} r.slot { s.cmdSlot r.slot with st := .done, reply := words } }
      cnt := s.completionCnt rep, out := .perfEvt 24 1 :: s.out } := by
  unfold State.finalize State.completionCnt
  simp only [sbSlot_host h, hirq, Bool.false_eq_true, if_false, and_false]
  split <;> rfl

/-- Without a ring entry a host command completes at once with its plain reply (R363, R365). -/
theorem State.complete_plain {s : State} {r : RunCmd} (hring : r.ring = false)
    (hplain : bitOf (hdrFlags (s.cmdSlot r.slot).header) 1 = false ∨ s.ringOn = false) (rep : Reply) :
    s.complete r rep = s.finalize r rep (s.replyWords r.slot (s.cmdSlot r.slot).header false rep) := by
  unfold State.complete
  dsimp only
  rw [hring, if_neg (by decide), if_pos (.inr hplain)]

theorem State.completionCnt_cmd {s t : State} {rep : Reply} (h : t.cnt = s.completionCnt rep) :
    t.counter CP_CNT_CMD = (s.counter CP_CNT_CMD + 1) % 2 ^ 32 := by
  unfold State.completionCnt at h
  split at h
  · rw [counter_cnt h, count_same]
  · rw [counter_cnt h, count_other _ _ _ (by decide), count_same]

theorem State.completionCnt_err {s t : State} {rep : Reply} (h : t.cnt = s.completionCnt rep) :
    t.counter CP_CNT_ERR = (s.counter CP_CNT_ERR + if rep.status = stDone then 0 else 1) % 2 ^ 32 := by
  unfold State.completionCnt at h
  have hlt : s.counter CP_CNT_ERR < 2 ^ 32 := BitVec.isLt _
  split at h
  · next hok => rw [counter_cnt h, count_other _ _ _ (by decide), if_pos hok, Nat.add_zero, Nat.mod_eq_of_lt hlt]
  · next hbad => rw [counter_cnt h, count_same, count_other _ _ _ (by decide), if_neg hbad]

/-- The command slots after one of them is written. -/
theorem State.cmdSlot_of_set {s t : State} {k : Nat} {v : CmdSlot} (h : t.cp.slots = s.cp.slots.set {} k v) :
    t.cmdSlot k = v ∧ ∀ j, j ≠ k → t.cmdSlot j = s.cmdSlot j := by
  unfold State.cmdSlot
  rw [h]
  exact ⟨Map.get_set_same _ _ _ _, fun j hj => Map.get_set_other _ _ _ _ _ hj⟩

/-- Settles O28: the completion is the plain one of `State.complete_plain`, whose effect `State.finalize_host` writes out
(PHASE 0 in a reply without a ring entry is the model's choice: log entry 16). -/
theorem completionsReply : Obligations.CompletionsReply := by
  unfold Obligations.CompletionsReply
  intro s r rep hslot hring hplain hirq
  have hform := (State.complete_plain hring hplain rep).trans (State.finalize_host hslot hirq rep _)
  generalize s.replyWords r.slot (s.cmdSlot r.slot).header false rep = words at hform ⊢
  generalize s.complete r rep = t at hform ⊢
  have hslots : t.cp.slots = s.cp.slots.set {} r.slot { s.cmdSlot r.slot with st := .done, reply := words } := by rw [hform]
  have hrun : t.cp.run = s.cp.run.filter fun x => x.slot ≠ r.slot := by rw [hform]
  have hcnt : t.cnt = s.completionCnt rep := by rw [hform]
  obtain ⟨hdone, hothers⟩ := State.cmdSlot_of_set hslots
  refine ⟨by rw [hdone], by rw [hdone], hothers, fun x hx => ?_, State.completionCnt_cmd hcnt, State.completionCnt_err hcnt,
    by rw [hform], by rw [hform], by rw [hform]⟩
  rw [hrun] at hx
  exact of_decide_eq_true (List.mem_filter.1 hx).2

end Sys2Proof.Machine
end

section
/-! SUPPORT. The proofs about the instructions of a step program (R229 to R243). -/
namespace Sys2Proof.Machine
open Sys2Proof Sys2Proof.Config

/-! ### The rows of the program instructions -/

/-- Each row of an instruction executes its opcode at the program counter, and its opcode has a meaning (R232). -/
theorem programRows_atPc : ∀ e ∈ programRows, ∀ (f : SeqArgs) (nc : Nat),
    (∃ m, sqMeaning e.2 f nc = some m) ∧ ∀ s : State, exec (e.1 f) s = s.atPc e.2 f := by
  simp only [programRows, List.cons_append, List.nil_append, List.forall_mem_cons, List.not_mem_nil, false_implies, implies_true,
    and_true]
  repeat' apply And.intro
  all_goals exact fun f nc => ⟨⟨_, rfl⟩, fun _ => rfl⟩

/-- At a RUNNING program of an eave in service the row is one execution at the program counter (R229). -/
theorem State.atPc_running {s : State} {op : Nat} {f : SeqArgs} (hup : s.up = true) (heave : s.isEave = true)
    (hrun : s.sq.st = .running) : s.atPc op f = .next (s.runInstr op (sqMeaning op f (s.clk.course + 1)) f).1 := by
  rw [State.atPc, State.main_up hup, if_pos ⟨heave, hrun⟩]

theorem State.atPc_idle {s : State} {op : Nat} {f : SeqArgs} (hup : s.up = true)
    (h : s.isEave = false ∨ s.sq.st ≠ .running) : s.atPc op f = .next s := by
  have hnot : ¬ (s.isEave = true ∧ s.sq.st = .running) := by
    rintro ⟨heave, hrun⟩
    rcases h with h | h
    · exact absurd heave (by simp [h])
    · exact h hrun
  rw [State.atPc, State.main_up hup, if_neg hnot]

/-- The gates that an execution opens leave the sequencer as it is (R175). -/
theorem State.openGates_sq (s : State) : ((s.busy.openGate 1).openGate 9).sq = s.sq := by
  obtain ⟨o, g, h1⟩ := s.busy.openGate_form 1
  obtain ⟨o', g', h2⟩ := (s.busy.openGate 1).openGate_form 9
  rw [h2, h1]; rfl

/-- Past the end of the program the execution faults with code 3 (R233). -/
theorem State.runInstr_past {s u : State} (hu : u = (s.busy.openGate 1).openGate 9) (h : s.sq.len ≤ s.sq.pc) (op : Nat)
    (m : Option (State → SqOut)) (f : SeqArgs) : (s.runInstr op m f).1 = u.seqFault 3 := by
  have hpast : u.sq.len ≤ u.sq.pc := by rw [hu, State.openGates_sq]; exact h
  unfold State.runInstr
  dsimp +zetaHave only
  rw [← hu, if_pos hpast]

/-- An instruction with a fault enters FAULT with its code (R233, R234). -/
theorem State.runInstr_fault {s u : State} {op c : Nat} {f : SeqArgs} (hu : u = (s.busy.openGate 1).openGate 9)
    (h : s.sq.pc < s.sq.len) (hc : u.opFault op true f = some c) (m : State → SqOut) :
    (s.runInstr op (some m) f).1 = u.seqFault c := by
  have hinside : ¬ u.sq.len ≤ u.sq.pc := by rw [hu, State.openGates_sq]; exact Nat.not_le.2 h
  unfold State.runInstr
  dsimp +zetaHave only
  rw [← hu, if_neg hinside, hc]

/-- Settles O37: a row is one execution of its opcode at the program counter, whose three outcomes are `runs_exec`,
`State.runInstr_past` and `State.runInstr_fault` (a row of its own executes the instruction it names at the program counter:
log entry 44). -/
theorem instructionsRunByTheirOpcodes : Obligations.InstructionsRunByTheirOpcodes := by
  unfold Obligations.InstructionsRunByTheirOpcodes
  intro e he s u f
  obtain ⟨⟨m, hm⟩, hexec⟩ := programRows_atPc e he f (s.clk.course + 1)
  refine ⟨fun hruns => ⟨m, hm, runs_exec hruns hexec hm⟩, fun hup heave hrun hu hpast => ?_,
    fun c hup heave hrun hu hinside hc => ?_, fun hup hidle => ?_⟩
  · rw [hexec, State.atPc_running hup heave hrun, State.runInstr_past hu hpast]
  · rw [hexec, State.atPc_running hup heave hrun, hm, State.runInstr_fault hu hinside hc]
  · rw [hexec, State.atPc_idle hup hidle]

/-! ### The instructions that write a register -/

/-- Settles O38: the value of each instruction is read from the registers of `s`, which the opening of the gates leaves
(`State.Runs.form`); RDLR alone clears the counts of reports (the readings of the row are log entry 44). -/
theorem registerInstructions : Obligations.RegisterInstructions := by
  unfold Obligations.RegisterInstructions
  intro s u f
  simp only [List.forall_mem_cons, List.not_mem_nil, false_implies, implies_true, and_true]
  refine ⟨fun h => runs_gives (sqLi f _) h ?_ rfl _ _ s.sq.reports ?_,
    fun h => runs_gives (sqLih f _) h ?_ rfl _ _ s.sq.reports ?_,
    fun h => runs_gives (sqMov f _) h ?_ rfl _ _ s.sq.reports ?_,
    fun h => runs_gives (sqAdd f _) h ?_ rfl _ _ s.sq.reports ?_,
    fun h => runs_gives (sqSub f _) h ?_ rfl _ _ s.sq.reports ?_,
    fun h => runs_gives (sqAnd f _) h ?_ rfl _ _ s.sq.reports ?_,
    fun h => runs_gives (sqOr f _) h ?_ rfl _ _ s.sq.reports ?_,
    fun h => runs_gives (sqXor f _) h ?_ rfl _ _ s.sq.reports ?_,
    fun h => runs_gives (sqAddi f _) h ?_ rfl _ _ s.sq.reports ?_,
    fun h => runs_gives (sqShl f _) h ?_ rfl _ _ s.sq.reports ?_,
    fun h => runs_gives (sqShr f _) h ?_ rfl _ _ s.sq.reports ?_,
    fun h => runs_gives (sqSar f _) h ?_ rfl _ _ s.sq.reports ?_,
    fun h => runs_gives (sqMul f _) h ?_ rfl _ _ s.sq.reports ?_,
    fun h => runs_gives (sqMinu f _) h ?_ rfl _ _ s.sq.reports ?_,
    fun h => runs_gives (sqMaxu f _) h ?_ rfl _ _ s.sq.reports ?_,
    fun h => runs_gives (sqRdstep f _) h ?_ rfl _ _ s.sq.reports ?_,
    fun h => runs_gives (sqRdcrs f _) h ?_ rfl _ _ s.sq.reports ?_,
    fun h => runs_gives (sqRdte f _) h ?_ rfl _ _ s.sq.reports ?_,
    fun h => runs_gives (sqRdlr f _) h ?_ rfl _ _ {} ?_⟩
  all_goals
    obtain ⟨o, g, rfl⟩ := h.form
    intros; rfl

/-! ### The instructions of control flow and those with an effect outside -/

/-- What the row BR does (R232): the branch of two registers. -/
theorem exec_br {s u : State} {f : SeqArgs} (h : s.Runs u 0x03 f) : ∃ t, exec (.br f) s = .next t ∧
    t.sq.pc = (if condHolds f.d (s.g f.a) (s.g f.b) = true then f.addr else s.sq.pc + 1) ∧ t.sq.g = s.sq.g ∧
    t.sq.acc = crcWord (crcBytes s.sq.acc (leBytes 2 s.sq.pc ++ [0x03, 0, 0, 0, 0, 0])) (bnat (condHolds f.d (s.g f.a) (s.g f.b))) ∧
    t.still = ({ s with sq := t.sq } : State).still := by
  obtain ⟨hreg, -, -, -, -⟩ := runs_reg h
  have hm : sqBr f (s.clk.course + 1) u = u.branch 0x03 f (condHolds f.d (s.g f.a) (s.g f.b)) := by
    rw [sqBr, hreg, hreg]
  exact ⟨_, runs_exec (m := sqBr f _) h (fun _ => rfl) rfl, branch_after h 0x03 _ _ (by rw [hm])⟩

/-- What the row BRI does (R232): the branch of a register and a constant. -/
theorem exec_bri {s u : State} {f : SeqArgs} (h : s.Runs u 0x04 f) : ∃ t, exec (.bri f) s = .next t ∧
    t.sq.pc = (if condHolds f.d (s.g f.a) f.imm16 = true then f.addr else s.sq.pc + 1) ∧ t.sq.g = s.sq.g ∧
    t.sq.acc = crcWord (crcBytes s.sq.acc (leBytes 2 s.sq.pc ++ [0x04, 0, 0, 0, 0, 0])) (bnat (condHolds f.d (s.g f.a) f.imm16)) ∧
    t.still = ({ s with sq := t.sq } : State).still := by
  obtain ⟨hreg, -, -, -, -⟩ := runs_reg h
  have hm : sqBri f (s.clk.course + 1) u = u.branch 0x04 f (condHolds f.d (s.g f.a) f.imm16) := by
    rw [sqBri, hreg]
  exact ⟨_, runs_exec (m := sqBri f _) h (fun _ => rfl) rfl, branch_after h 0x04 _ _ (by rw [hm])⟩

/-- Settles O39: one lemma per instruction, three for STEPEND: without a vote, with four votes in flight, and without room
for its vote (the readings of the rows are log entries 44 and 45). -/
theorem controlInstructions : Obligations.ControlInstructions := by
  unfold Obligations.ControlInstructions
  intro s u f
  exact ⟨exec_nop s u f, exec_jmp s u f, exec_br, exec_bri, exec_waitc s u f, exec_halt s u f, exec_stepend s u f,
    exec_stepend_2 s u f, exec_stepend_3 s u f, exec_lcfg s u f⟩

/-- Settles O40: one lemma per instruction and outcome of its row (the readings of the rows are log entries 44 and 45). -/
theorem effectInstructions : Obligations.EffectInstructions := by
  unfold Obligations.EffectInstructions
  intro s u f
  refine ⟨exec_arm s u f, exec_arm_2 s u f, exec_arm_3 s u f, exec_armm s u f, fun h hl l hmask => ⟨?_, ?_⟩, exec_cancel s u f,
    exec_pulse s u f, exec_frz s u f, exec_contrib s u f, exec_contrib_2 s u f, exec_contrib_3 s u f, exec_waitr s u f,
    exec_waitr_2 s u f, exec_result s u f, exec_result_2 s u f, exec_deadl s u f, exec_objop s u f⟩
  · exact exec_armm_2 s u f h hl l hmask
  · exact fun hfull hne => exec_armm_3 s u f h hl (hmask ▸ hne) hfull

end Sys2Proof.Machine
end

section
/-! SUPPORT. The proofs about the clocks (spec/06_clock_generation.md). -/
namespace Sys2Proof.Machine

/-- Settles O12: one lemma per edge of the start: the count (log entry 26), the first lock and the second, and the two
timeouts of a PLL. -/
theorem startOfTheClocks : Obligations.StartOfTheClocks := by
  unfold Obligations.StartOfTheClocks
  exact ⟨exec_oscGood, exec_oscCycle, exec_pllLock, exec_pllLock_2, exec_pllLockTimeout, exec_pllLockTimeout_2⟩

/-- Settles O13: the loss before OSC_GOOD, and in service with the PLLs already unlocked or not (what it leaves beside R165
and R173 is log entries 26 and 27). -/
theorem lossOfTheOscillator : Obligations.LossOfTheOscillator := by
  unfold Obligations.LossOfTheOscillator
  exact ⟨exec_oscLoss, exec_oscLoss_2, exec_oscLoss_3⟩

/-- Settles O14: the loss and the return of lock of each PLL, and last the TE code by R174 (`exec_rows`). -/
theorem lossAndReturnOfLock : Obligations.LossAndReturnOfLock := by
  unfold Obligations.LossAndReturnOfLock
  exact ⟨exec_timingPllUnlock, exec_timingPllRelock, exec_logicPllUnlock, exec_logicPllRelock, exec_rows⟩

/-- Settles O15: the fall, the rise after the debounce and the rise of OVEN_USE (OVEN_DEB 0 acting as 1 is log entry 27). -/
theorem ovenFlag : Obligations.OvenFlag := by
  unfold Obligations.OvenFlag
  exact ⟨exec_ovenFlagFall, exec_ovenOkRise, exec_ovenUseWrite⟩

/-- Settles O16: the two outcomes of a gate's close, and the write of CG_CLKOUT (log entry 29). -/
theorem gatesAndClkout : Obligations.GatesAndClkout := by
  unfold Obligations.GatesAndClkout
  exact ⟨exec_gateClose, exec_gateClose_2, exec_cgClkoutWrite⟩

end Sys2Proof.Machine
end

section
/-! SUPPORT. The proofs about the registers of the window (spec/17_register_index.md). -/
namespace Sys2Proof.Machine

/-- Settles O17: the blocks whose gate an access opens, the always-on blocks, and a port (that PF_LOG_DROP stays is log
entry 25; the row is the host's write: log entry 55). -/
theorem counterClears : Obligations.CounterClears := by
  unfold Obligations.CounterClears
  exact ⟨exec_rsCntClr_cgCntClr_imCntClr_more, exec_pwCntClr, exec_pfCntClr⟩

/-- Settles O18: the registers that only store, then TD_SLEW, which forms R_out again, and ZC_TMO. -/
theorem plainRegistersStoreTheirBits : Obligations.PlainRegistersStoreTheirBits := by
  unfold Obligations.PlainRegistersStoreTheirBits
  exact ⟨exec_registerWrite, exec_registerWrite_2, exec_registerWrite_3⟩

/-- Settles O19: one lemma per latching read (the snapshot's halves are log entry 35). -/
theorem latchingReads : Obligations.LatchingReads := by
  unfold Obligations.LatchingReads
  exact ⟨exec_tdNowNsRead, exec_pfStampLoRead, exec_imSkCountRead, exec_imRawLoRead, exec_odWindowRead⟩

end Sys2Proof.Machine
end

section
/-! SUPPORT. The proofs about the host port, the sideband and the memory port (spec/15_commands.md, spec/16_integration.md).
-/
namespace Sys2Proof.Machine

/-- Settles O20: by what the request meets: bad parity, a misaligned address, a performed write, or an earlier request that
a sleep holds (log entries 24 and 25). -/
theorem hostRequestsAreAnswered : Obligations.HostRequestsAreAnswered := by
  unfold Obligations.HostRequestsAreAnswered
  exact ⟨exec_hostRequest, exec_hostRequest_2, exec_hostRequest_3, exec_hostRequest_4⟩

/-- Settles O21: the reset and its release, the missing heartbeat, and the write that ends it (log entries 8 and 25). -/
theorem hostDown : Obligations.HostDown := by
  unfold Obligations.HostDown
  exact ⟨exec_hostPortReset, exec_hostPortResetRelease, exec_hostHeartbeatTimeout, exec_cpHostHb⟩

/-- Settles O23: control, bad packets, and a request that finds a slot or none (the control codes are log entry 23). -/
theorem sidebandMessages : Obligations.SidebandMessages := by
  unfold Obligations.SidebandMessages
  exact ⟨exec_sbMctpControl, exec_sbPacketBad, exec_sbCommandRequest, exec_sbCommandRequest_2⟩

/-- Settles O24: the two cases of the slot that the header write meets (R361). -/
theorem handoverOfCommands : Obligations.HandoverOfCommands := by
  unfold Obligations.HandoverOfCommands
  exact ⟨exec_commandHandover, exec_commandHandover_2⟩

/-- Settles O25: the field of CP_OWN, the ring enable with and without a rise (log entry 16), and GC_IRQ_SET. -/
theorem ownershipRingAndSoftwareCause : Obligations.OwnershipRingAndSoftwareCause := by
  unfold Obligations.OwnershipRingAndSoftwareCause
  exact ⟨exec_cpOwnWrite, exec_ringEnable, exec_ringEnable_2, exec_gcIrqSet⟩

/-- Settles O26: a beat before the last, the two acknowledgements, and the timeout without and with an overdue request (log
entry 8). -/
theorem memoryPortAnswers : Obligations.MemoryPortAnswers := by
  unfold Obligations.MemoryPortAnswers
  exact ⟨exec_memoryReadResponse, exec_memoryWriteAck, exec_memoryTimeout, exec_memoryTimeout_2⟩

end Sys2Proof.Machine
end

section
/-! SUPPORT. The proofs about the commands (spec/15_commands.md). -/
namespace Sys2Proof.Machine

/-- Settles O29: `State.Accepts.accept` run for each row (what the rows leave open is log entries 18 to 21). -/
theorem generalCommands : Obligations.GeneralCommands := by
  unfold Obligations.GeneralCommands
  exact ⟨exec_badOpcode, exec_genIdentify, exec_genStatus, exec_genReset, exec_fwLoad, exec_fwStart, exec_topologyLoad⟩

/-- Settles O30: a completion tried again with the ring full and with the ring off, and the timer of the count (log entries
8 and 16). -/
theorem waitingCompletions : Obligations.WaitingCompletions := by
  unfold Obligations.WaitingCompletions
  exact ⟨exec_commandCompletion, exec_commandCompletion_2, exec_irqCoalesceTimeout⟩

/-- Settles O31: one lemma per row, two for time.switch_at: a plan held, and its cancel (log entries 20 and 60). -/
theorem timeCommands : Obligations.TimeCommands := by
  unfold Obligations.TimeCommands
  exact ⟨exec_timeAcquire, exec_timeRestep, exec_timeSlewLimit, exec_timeDomainSelect, exec_timeSwitchAt,
    exec_timeSwitchAt_2, exec_timeHoldoverForce, exec_timeEpochSet⟩

/-- Settles O32: one lemma per row; each runs the accepted command (`State.Accepts.accept`) to its reply. -/
theorem referenceCommands : Obligations.ReferenceCommands := by
  unfold Obligations.ReferenceCommands
  exact ⟨exec_refConfigure, exec_refPriority, exec_refLoopOpen, exec_refLoopClose, exec_refCorrect⟩

/-- Settles O33: one lemma per row (the drop of a pulse is log entry 46). -/
theorem intervalPulseClockAndPowerCommands : Obligations.IntervalPulseClockAndPowerCommands := by
  unfold Obligations.IntervalPulseClockAndPowerCommands
  exact ⟨exec_intervalArm, exec_intervalAbort, exec_pulseArm, exec_pulseCancel, exec_clockClkout, exec_powerEnter⟩

/-- Settles O34: one lemma per row (that an event of an eave has EVENT_ID 0 is log entries 47 and 48). -/
theorem sequencerCommands : Obligations.SequencerCommands := by
  unfold Obligations.SequencerCommands
  exact ⟨exec_seqLoad, exec_seqStart, exec_seqStop, exec_seqArm, exec_seqCancel⟩

/-- Settles O35: one lemma per row; obj.init, obj.wake and obj.op start once the handle has been translated to its slots. -/
theorem objectCommands : Obligations.ObjectCommands := by
  unfold Obligations.ObjectCommands
  exact ⟨exec_objCtxDefine, exec_objInit, exec_objCtxClear, exec_objCtxRelease, exec_objWake, exec_objOp⟩

/-- Settles O36: one lemma per row, and the end of a port's calibration (log entries 40 and 54). -/
theorem collectiveAndPortCommands : Obligations.CollectiveAndPortCommands := by
  unfold Obligations.CollectiveAndPortCommands
  exact ⟨exec_collDefine, exec_collRelease, exec_collAbort, exec_portCalibrate, exec_portRetire, exec_portRestore,
    exec_portSpareAdmit, exec_portCalibrateDone⟩

end Sys2Proof.Machine
end

section
/-! SUPPORT. The proofs about the program's rows, pulses and freezes (spec/09_step_sequencer.md). -/
namespace Sys2Proof.Machine

/-- Settles O41: one lemma per row, and one for START and STOP without their event (log entries 3, 44 and 45). -/
theorem programRows_hold : Obligations.ProgramRows := by
  unfold Obligations.ProgramRows
  exact ⟨exec_programStoreWrite, exec_programStart, exec_programStop, exec_eventStart, exec_eventStop,
    exec_eventStop_eventStart, exec_reportWord, exec_reportMissing⟩

/-- Settles O42: one lemma per row (a passed place is log entry 46, a passed freeze log entry 47). -/
theorem pulseAndFreezeRows : Obligations.PulseAndFreezeRows := by
  unfold Obligations.PulseAndFreezeRows
  exact ⟨exec_pulseEmit, exec_pulseCalDone, exec_pulseOutputEnable_periodicModeSet, exec_freezeEmit⟩

end Sys2Proof.Machine
end

section
/-! SUPPORT. The proofs about the batten chain (spec/07_batten_chain.md). -/
namespace Sys2Proof.Machine

/-- Settles O43: enable, calibration, the sender's cycle by the order of R194, the marks and the words of the lanes (log
entry 49). -/
theorem chainRows : Obligations.ChainRows := by
  unfold Obligations.ChainRows
  exact ⟨exec_battenEnable_battenDisable_battenRecal, exec_battenCalDone, exec_crossingRecalibration, exec_lane,
    exec_laneForce, exec_mark_markStep, exec_stretchIndication, exec_fillWord, exec_crossingWordBad, exec_marginWarning⟩

/-- Settles O44: the words that reach a tap, the count of edges up to a launch's next event, its course in time, and RELEASE
(log entry 49). -/
theorem launchRows : Obligations.LaunchRows := by
  unfold Obligations.LaunchRows
  have hedges := fun s n k w hup heave hen hw =>
    exec_launchFire_launchLineFall_launchReport_more s n k hup heave hen w hw
  exact ⟨exec_armWord, exec_cancelWord, hedges, exec_launchFire_launchLineFall_launchReport, exec_releaseWord⟩

end Sys2Proof.Machine
end

section
/-! SUPPORT. The proofs about the interval unit (spec/08_interval_unit.md). -/
namespace Sys2Proof.Machine

/-- Settles O45: the calibrations of converters, ramps and pads, then the edges by what the shot awaits (log entry 50). -/
theorem converterAndShotRows : Obligations.ConverterAndShotRows := by
  unfold Obligations.ConverterAndShotRows
  obtain ⟨hramps, hcal⟩ := exec_converterCalReady_rampCalibration
  exact ⟨hramps, hcal, exec_padMeasurement, exec_pinEdge, exec_pinEdge_2, exec_pinEdge_3, exec_timedStart,
    exec_shotWindowClose⟩

/-- Settles O46: one lemma per register: IM_CTL, IM_CAL_CFG and ZC_CTL, and the two ends of the delay line (log entries 51
and 55). -/
theorem measurementControl : Obligations.MeasurementControl := by
  unfold Obligations.MeasurementControl
  exact ⟨exec_imArm_imAbort_imGo_more, exec_padRecal, exec_zcStart_zcClr, exec_zcDllLock, exec_zcTimeout⟩

end Sys2Proof.Machine
end

section
/-! SUPPORT. The proofs about the ports, their frames and messages (spec/03_port_stamping.md, spec/04_time_transfer.md,
spec/12_traffic.md). -/
namespace Sys2Proof.Machine

/-- Settles O47: the marks that nothing can time, the two that form a stamp, a late insertion, and a lost mark (log entries
37 and 38). -/
theorem markRows : Obligations.MarkRows := by
  unfold Obligations.MarkRows
  exact ⟨exec_receiveMark_transmitMark, exec_receiveMark, exec_transmitMark, exec_txInsLate, exec_receiveMark_2⟩

/-- Settles O48: the level, the registers, a spoilt frame and a calibration frame (log entries 18, 36 and 37). -/
theorem portRows : Obligations.PortRows := by
  unfold Obligations.PortRows
  exact ⟨exec_portUpRise_portUpFall_laneFlap_more, exec_portEnable_portDisable_portConstantsWrite, exec_rxfFcsErr,
    exec_calFrameReceive⟩

/-- Settles O49: the checks that both kinds of frame share, then each kind's own (log entry 38). -/
theorem receivedFramesAreJudged : Obligations.ReceivedFramesAreJudged := by
  unfold Obligations.ReceivedFramesAreJudged
  exact ⟨exec_zudarReservedType_ptpOtherReceive, exec_ptpOtherReceive, exec_zudarReservedType⟩

/-- Settles O50: one lemma per message (log entries 18, 36 and 61). -/
theorem timeTransferReceipts : Obligations.TimeTransferReceipts := by
  unfold Obligations.TimeTransferReceipts
  exact ⟨exec_syncReceive, exec_delayReqReceive, exec_delayRespReceive, exec_announceReceive, exec_helloReceive,
    exec_keepaliveReceive, exec_esmcEventReceive_esmcInfoReceive⟩

/-- Settles O51: what is due and what is not for all the senders together, the loss of KEEPALIVEs, and an acknowledgement
without room (log entries 3, 8 and 39). -/
theorem periodicMessages : Obligations.PeriodicMessages := by
  unfold Obligations.PeriodicMessages
  exact ⟨exec_syncSend_announceSend_helloSend_more, exec_syncSend_announceSend_delayReqSend_more, exec_keepaliveLoss,
    exec_ackSend⟩

/-- Settles O52: one lemma per row of the link, and at an eave the three broadcasts (log entries 8, 39, 48 and 60). -/
theorem linkAndBroadcastRows : Obligations.LinkAndBroadcastRows := by
  unfold Obligations.LinkAndBroadcastRows
  obtain ⟨hnoProfile, hprofile⟩ := exec_profileWrite
  exact ⟨exec_ackReceive, exec_nakReceive, exec_replayTimeout, exec_egressHandover, exec_tpDebtClr, hnoProfile, hprofile,
    exec_switchPlanReceive_switchCancelReceive_launchReceive⟩

end Sys2Proof.Machine
end

section
/-! SUPPORT. The proofs about the servos and the reference selector (spec/04_time_transfer.md, spec/05_references.md). -/
namespace Sys2Proof.Machine

/-- Settles O53: each row with nothing due and with its work due (log entries 3, 8 and 32 to 35). -/
theorem servoAndReferenceRows : Obligations.ServoAndReferenceRows := by
  unfold Obligations.ServoAndReferenceRows
  obtain ⟨hnoUpdate, hupdate⟩ := exec_servoUpdate
  obtain ⟨hnoStep, hstep⟩ := exec_acquisitionStep
  obtain ⟨hnoPlan, hplan⟩ := exec_planEvaluate
  obtain ⟨hnoPps, hoffPps, hpps⟩ := exec_ppsEdge
  obtain ⟨hnoAge, hage⟩ := exec_ageWindowEnd
  exact ⟨hnoUpdate, hupdate, hnoStep, hstep, hnoPlan, hplan, exec_candidateQualifyTimer, exec_wtrExpiry, hnoPps, hoffPps,
    hpps, exec_ppsLoss, exec_loopOpenTimeout, hnoAge, hage, exec_rsCandnCfgWrite_rsCandnDelayWrite⟩

end Sys2Proof.Machine
end

section
/-! SUPPORT. The proofs about the object store (spec/10_sync_objects.md). -/
namespace Sys2Proof.Machine

/-- Settles O54: the operations on a slot, a FILL that ends a wait, the waits, and the refusals (log entry 52). -/
theorem objectOperations : Obligations.ObjectOperations := by
  unfold Obligations.ObjectOperations
  exact ⟨exec_peek_read_fill_more, exec_fill, exec_read_waitge_wdec, exec_read_fill_signal_more⟩

/-- Settles O55: one lemma per row, `exec_rows_2` for the forwarding at a ridge (log entries 8, 9 and 53). -/
theorem objectProtocols : Obligations.ObjectProtocols := by
  unfold Obligations.ObjectProtocols
  exact ⟨exec_wack, exec_remoteTimeout_objectDeadline_lend_more, exec_fenceTimeout, exec_remoteTimeout, exec_objectDeadline,
    exec_lend, exec_lendReturn, exec_retAck, exec_deadlockDetect, exec_translationReadDone, exec_objReqReceive, exec_rows_2,
    exec_objRspReceive⟩

end Sys2Proof.Machine
end

section
/-! SUPPORT. The proofs about the collectives and the gang (spec/11_collectives.md, spec/01_architecture.md). -/
namespace Sys2Proof.Machine

/-- Settles O56: the checks that the frames share, each frame, and the root's decisions: abort, move and completion (log
entries 30 and 54). -/
theorem collectiveFrames : Obligations.CollectiveFrames := by
  unfold Obligations.CollectiveFrames
  obtain ⟨habort, hmove⟩ := exec_rows_3
  exact ⟨exec_collUpReceive_collDownReceive_collMoveReceive_more, exec_collUpReceive, exec_collDownReceive,
    exec_collMoveReceive, exec_collAbortReceive, exec_collReqReceive, habort, hmove, exec_rows_4⟩

/-- Settles O57: one lemma per timer and its case, and the gang's rows (log entries 8 and 31). -/
theorem collectiveTimersAndGang : Obligations.CollectiveTimersAndGang := by
  unfold Obligations.CollectiveTimersAndGang
  exact ⟨exec_orphanCounterFree, exec_moveTimeout, exec_isolated_collectiveDeadline, exec_isolated, exec_collectiveDeadline,
    exec_isolated_collectiveDeadline_2, exec_gangContribution, exec_gangLinkCalibrationDone, exec_gangCalTimeout,
    exec_gangLinkFail⟩

end Sys2Proof.Machine
end

section
/-! SUPPORT. The proofs about health, Underlay mode and power (spec/13_faults.md, spec/14_power.md). -/
namespace Sys2Proof.Machine

/-- Settles O59: the parity failures by source, around what `contained` and `underlayCause` do (`exec_rows_5`,
`exec_rows_6`; log entries 40 and 41). -/
theorem healthAndUnderlayRows : Obligations.HealthAndUnderlayRows := by
  unfold Obligations.HealthAndUnderlayRows
  exact ⟨exec_budgetRecordExpiry, exec_admissionComplete, exec_rows_5, exec_internalParityFailure,
    exec_internalParityFailure_2, exec_internalParityFailure_3, exec_internalParityFailure_4, exec_internalParityFailure_5,
    exec_internalParityFailure_translationReadDone, exec_internalParityFailure_6, exec_internalParityFailure_7, exec_rows_6,
    exec_hfWdogKick, exec_watchdogExpiry, exec_firmwareTrap, exec_hfUlEnter, exec_hfUlExit, exec_underlayEntry,
    exec_underlayExit, exec_internalParityFailure_8⟩

/-- Settles O60: the attempt by its refusers, the wakes by source, and the rebuild (log entries 5, 42 and 43). -/
theorem powerRows : Obligations.PowerRows := by
  unfold Obligations.PowerRows
  exact ⟨exec_powerEntryAttempt, exec_napWake_thatchWake, exec_napPlannedWake_napWake, exec_thatchTimerWake_thatchWake,
    exec_pwWake_napWake_thatchWake, exec_timeRebuild⟩

end Sys2Proof.Machine
end
